-- ==== Sys2Proof/Word.lean ====
section
/-! DEFINITION. The word types of the NJ-2480 model: what the manual numbers as bits is a bit vector of the
manual's width (R5), and what it numbers as one of a few units is a `Fin` of that many units (R13, R17, R18). -/

namespace Sys2Proof

/-- One byte of a frame, a flash image or a host buffer (R6). -/
abbrev Byte := BitVec 8
/-- One register (R472) and one FP32 code (R37). -/
abbrev W32 := BitVec 32
/-- One 64-bit word: a packing unit word (R35), a fabric time (R10). -/
abbrev W64 := BitVec 64

/-- Logical port 0 to 1,023, numbered by its lowest lane (R17). -/
abbrev LPort := Fin 1024
/-- SerDes lane 0 to 1,023 (R17). -/
abbrev Lane := Fin 1024
/-- Physical port 0 to 255 (R17). -/
abbrev PhysPort := Fin 256
/-- Port die P0 to P7 (R13). -/
abbrev PDie := Fin 8
/-- Coach die C0 to C15 (R13). -/
abbrev CDie := Fin 16
/-- Buffer die B0 or B1 (R13). -/
abbrev BDie := Fin 2
/-- Any die, numbered as THM_SEL numbers them (R406). -/
abbrev Die := Fin 32
/-- Coach slot of one coach die (R111). -/
abbrev Slot := Fin 1024
/-- Livery number (R335). -/
abbrev Liv := BitVec 8
/-- Lane cluster of one coach die (R13). -/
abbrev Cluster := Fin 84
/-- Supply rail (R378). -/
abbrev Rail := Fin 71
/-- Host mailbox queue (R363). -/
abbrev Queue := Fin 4

end Sys2Proof
end

