-- ==== Sys2Proof/Syntax.lean ====
section
/-! DEFINITION. The commands of the NJ-2480: one constructor of `Instr` for every row of spec/opcode_table.json, in the
table's order, with the operands that come from outside the block. A row that stands for an event inside the part
carries the unit the event names (a coach slot, a lane, a bank, a port) and whatever the part measures or receives
there; everything else the event needs is State. -/

namespace Sys2Proof

/-- What reading a frame out of the ingress buffer of its port reports (R197, R198): the words whose single-bit error was
corrected, and the word of the ingress-buffer bank, if any, at which the read found an uncorrectable error. -/
structure BufRead where
  corrected : Nat
  bad : Option (BitVec 16)
  deriving DecidableEq, Repr

def BufRead.clean : BufRead := ⟨0, none⟩

/-- One Narjo frame as it stands on a link (R257): the 32-byte link frame header (byte 0 in bits [255:248]), every
byte between the header and the trailer (class header and payload), the trailer read as a CRC-32 value (R264), how many
uncorrectable FEC codewords covered a byte of it (R265), whether it has arrived whole, and what its ingress buffer
reports: a frame that is not whole is one in reception, of which `body` holds the bytes that have come (R234, R269). -/
structure Frame where
  hdr : BitVec 256
  body : List Byte
  trailer : W32
  fecUncorr : Nat
  whole : Bool
  buf : BufRead
  deriving DecidableEq, Repr

/-- What reading a frame's cells reports (R197, R218): the words whose single-bit error was corrected, the accesses that
waited for a preserving march, and the first of the frame's cells whose read found an uncorrectable error. -/
structure CellRead where
  corrected : Nat
  stalled : Nat
  bad : Option Nat
  deriving DecidableEq, Repr

def CellRead.clean : CellRead := ⟨0, 0, none⟩

/-- Where and when one PCS lane of a logical port is received (R232): the number its alignment marker names, and the
time, in bits, by which it trails the first of them. -/
structure PcsMark where
  lane : Nat
  skew : Nat
  deriving DecidableEq, Repr

/-- What the coach-die hardware reports of one fold (R121, R196, R197, R218, R414): a residue mismatch on a lane cluster;
and, of the accesses to the macros, the elements whose word port A wrote too in the cycle of the fold's own write on port
B, the words whose single-bit error was corrected, the accesses that waited for a preserving march, and the bank and word
at which a read found an uncorrectable error. -/
structure FoldReport where
  residue : Option Cluster
  collided : List (Fin 4096)
  corrected : Nat
  stalled : Nat
  bad : Option (BitVec 8 × BitVec 16)
  deriving DecidableEq, Repr

def FoldReport.clean : FoldReport := ⟨none, [], 0, 0, none⟩

/-- One read of a march run that did not return what a sound word holds (R215, R216): the pass of the run, the element of
its algorithm and the operation of that element, the word, and the 137 bits read, check bits above data bits. In a
preserving run the pass after the last names the read that verifies the restored word (R218). -/
structure MarchRead where
  pass : Nat
  elem : Nat
  op : Nat
  word : BitVec 16
  got : BitVec 137
  deriving DecidableEq, Repr

/-- What a march run met (R218, R220): the reads that a faulty word answered, and whether the fault that the first of them
shows lies in a column. -/
structure MarchReport where
  reads : List MarchRead
  column : Bool
  deriving DecidableEq, Repr

/-- IEEE 1149.1 instruction loaded into the TAP (R462). -/
inductive TapInstr where
  | bypass
  | idcode
  | sample
  | other
  deriving DecidableEq, Repr

/-- Source of a cold start that is no register write (R433). -/
inductive ColdSource where
  | vin3v3
  | pin
  | register
  deriving DecidableEq, Repr

/-- Which of the four livery-record registers a write names (R192). -/
inductive LivRecReg where
  | cycle (bank : Bool)
  | range (bank : Bool)
  deriving DecidableEq, Repr

/-- What the cold-start march of one bank met (R217): the reads that its faulty words answered. -/
structure BankFinding where
  die : Die
  bank : BitVec 8
  reads : List MarchRead
  deriving DecidableEq, Repr

/-- A lane cluster found failing at cold start (R436). -/
structure ClusterFinding where
  die : CDie
  cluster : Cluster
  deriving DecidableEq, Repr

/-- One command or event of the part: one constructor per row of the opcode table. `age` is the time, in fabric-time
units, since the head of the frame crossed the ingress PCS boundary, so that its stamp (R21 step 2) is the present
fabric time less `age`. -/
inductive Instr where
  | collectiveFirstFrame (p : LPort) (f : Frame) (age : Nat)
  | continuationFrame (p : LPort) (f : Frame) (age : Nat)
  | collectiveFrameFold (c : CDie) (slot : Slot) (p : LPort) (carried : Bool) (serialised : Nat) (rep : FoldReport)
  | sidingRetry (c : CDie) (slot : Slot) (elem : Fin 4096)
  | coachCreateRetry (c : CDie) (k : Nat)
  | coachFoldComplete (c : CDie) (slot : Slot)
  | coachCutoff (c : CDie) (slot : Slot)
  | sealIntervalEnd (c : CDie) (slot : Slot)
  | packerFirstFrame (c : CDie) (slot : Slot) (out : Fin 4)
  | packerLastFrameSent (c : CDie) (slot : Slot)
  | deadlineMonitor (c : CDie)
  | abortDrainDone (c : CDie) (slot : Slot)
  | abortMarkExpiry (c : CDie)
  | openRecordExpiry (p : LPort)
  | abortWaveRx (p : LPort) (f : Frame) (age : Nat)
  | abortWaveRepeat (livery : Liv) (entry : BitVec 16) (step : W32)
  | ledgerBatchSend (c : CDie) (livery : Liv)
  | resultFrame (p : LPort) (f : Frame) (age : Nat)
  | memoryFrame (p : LPort) (f : Frame) (age : Nat)
  | memoryPut (p : LPort) (f : Frame) (age : Nat)
  | putCompletion (p : LPort) (f : Frame) (age : Nat)
  | putCounterTimeout (d : PDie) (ctr : Fin 2048)
  | bulkFrame (p : LPort) (f : Frame) (age : Nat)
  | ethernetFrame (p : LPort) (bytes : List Byte) (fecUncorr : Nat) (whole : Bool) (buf : BufRead) (age : Nat)
  | pauseFrameRx (p : LPort)
  | pfcFrameRx (p : LPort) (enable : BitVec 8) (quanta : BitVec 128)
  | controlFrameForward (p : LPort) (f : Frame) (age : Nat)
  | ptpMessageRx (p : LPort) (f : Frame) (age : Nat)
  | digestRecordsRx (p : LPort) (f : Frame) (age : Nat)
  | frameTailCheck (p : LPort) (f : Frame)
  | egressPortFree (p : LPort) (rd : CellRead)
  | cellTime
  | cellRefcountDecrement (b : BDie) (cell : BitVec 18) (gen : BitVec 16)
  | brakeLevelChange (d : PDie) (src : Fin 18) (livery : Liv)
  | divertedFrameDispatch (d : PDie) (c : CDie) (livery : Liv) (rd : CellRead)
  | linkInitRx (p : LPort) (f : Frame)
  | linkUpdateRx (p : LPort) (f : Frame)
  | linkNakRx (p : LPort) (f : Frame)
  | creditUpdateSend (p : LPort)
  | creditUpdatePeriodic (p : LPort)
  | initResend (p : LPort)
  | pcsAligned (p : LPort) (marks : List PcsMark)
  | pcsAlignLoss (p : LPort)
  | linkControlTimeout (p : LPort)
  | replayTimeout (p : LPort)
  | nakRepeat (p : LPort)
  | lpiEntryStart (p : LPort)
  | lpiAckRx (p : LPort) (wake : Bool)
  | lpiNoackTimeout (p : LPort)
  | lpiWakeRequest (p : LPort)
  | lpiExitComplete (p : LPort)
  | lpiReqRx (p : LPort)
  | lpiPartnerWakeRx (p : LPort)
  | lpiRefresh (p : LPort)
  | synthLock (pp : PhysPort)
  | synthCalDone (pp : PhysPort)
  | synthLockTimeout (pp : PhysPort)
  | trainingDone (lane : Lane) (ok : Bool) (taps : W32) (preTx preRx : Bool)
  | trainingRetry (lane : Lane)
  | cdrLock (lane : Lane)
  | settleWindowEnd (lane : Lane)
  | checkerLock (lane : Lane) (rx : List (BitVec 2))
  | checkerLockLoss (lane : Lane) (rx : List (BitVec 2))
  | eyeWindowEnd (lane : Lane) (upper mid lower width : BitVec 6) (rx : List (BitVec 2))
  | injGo (d : PDie)
  | injPeriodBurst (lane : Lane)
  | settleGo (d : PDie)
  | cntClr (d : PDie)
  | sdsTxEqWrite (d : PDie) (v : W32)
  | chkBitsLoRead (d : PDie)
  | laneStatRead (d : PDie)
  | prtCfgWrite (pp : PhysPort) (v : W32)
  | lnkCtrlWrite (d : PDie) (v : W32)
  | lnkVlBufWrite (d : PDie) (vl : Fin 6) (v : W32)
  | shaperRefill (d : PDie)
  | shaperApply (d : PDie)
  | flowShaperRelease (d : PDie) (shaper : Fin 512)
  | gateSwitch (d : PDie)
  | gateSwitchEffect (p : LPort)
  | gateIntervalBoundary (p : LPort)
  | sampleIntervalClose (d : PDie)
  | qSampSeqRead (d : PDie)
  | wmFlagClear (d : PDie) (v : W32) (crossing : Bool)
  | flowRead (d : PDie)
  | flowWrite (d : PDie)
  | flowDelete (d : PDie)
  | ttbEntRead
  | ttbEntWrite
  | ttbEntInvalidate
  | ttbCsetRead
  | ttbCsetWrite
  | liveryRecordWrite (r : LivRecReg) (v : W32)
  | ttbLivCtrlWrite (v : W32)
  | ttbLivSwap (v : W32)
  | ttbSwapTakeEffect (livery : Liv)
  | ttbOldBankRelease (livery : Liv)
  | routeEntRead
  | routeEntWrite
  | routeSwap (v : W32)
  | routeSwapCancel
  | routeSwapSwitch
  | routeDrainSlow
  | groupRead
  | groupWrite
  | addrRead
  | addrWrite
  | addrDelete
  | gridMapWrite (v : W32)
  | teardown
  | teardownTimerExpiry (livery : Liv)
  | teardownDone (livery : Liv)
  | teardownRelease
  | polQuotaWrite (die : Die) (v : W32)
  | polThrWrite (die : Die) (second : Bool) (v : W32)
  | quarantineRelease (b : BDie) (v : W32)
  | quarantineReleaseDone (b : BDie) (reads : List MarchRead)
  | marchStart (die : Die) (v : W32)
  | marchDone (die : Die) (rep : MarchReport)
  | tableCopyRefetchDone (die : Die) (bank : BitVec 8) (word : BitVec 16)
  | retentionEntry (die : Die) (bank : BitVec 8)
  | bankWake (die : Die) (bank : BitVec 8)
  | bankWakeDone (die : Die) (bank : BitVec 8)
  | cchSlotSelect (c : CDie) (v : W32)
  | livCtrlWrite (v : W32)
  | seedWrite (index : BitVec 4)
  | energyAttribution
  | energyLoRead (unattributed : Bool)
  | secureWipe
  | wipeDone (clear : Bool)
  | tamperDetect (src : Fin 7)
  | tapInstruction (ir : TapInstr)
  | tokenChallenge
  | tokenSubmit
  | tokenCheckDone
  | tokenLock
  | coreWatchdogExpiry (core : Fin 4) (started : List Queue)
  | m0WatchdogExpiry
  | mgmtSramUe (bank : Fin 8) (word : BitVec 16)
  | bootRomStart
  | mbxDoorbell (q : Queue) (v : W32)
  | mbxRspCiWrite (q : Queue) (v : W32)
  | mbxBusyTimeout (q : Queue)
  | getVersion (q : Queue)
  | getStatus (q : Queue)
  | imgBegin (q : Queue)
  | imgWrite (q : Queue) (data : List Byte)
  | imgVerify (q : Queue)
  | imgActivate (q : Queue)
  | imgCommitSvn (q : Queue)
  | imgReject (q : Queue)
  | imgRevokeKey (q : Queue)
  | logRead (q : Queue)
  | telemCfg (q : Queue)
  | newImageStart (selfTestOk : Bool)
  | fwHeartbeat
  | errorLogCommit
  | telemetryPeriod (produced : Bool)
  | evqIntPauseEnd
  | cornerEvaluation (coachMilliVolt : List Nat)
  | estimateRefresh
  | calibrationInterval (die : Die) (currents : List Nat)
  | meterUpdate
  | budgetBinStart
  | hintHoldExpiry (c : CDie)
  | budgetCtrlWrite (v : W32)
  | railIlimCross (r : Rail)
  | railIlimRelease (r : Rail)
  | phaseHardLimit (r : Rail)
  | phaseEvaluation (r : Rail) (phaseCurrents : List Nat)
  | railVsetWrite (v : W32)
  | railFault (r : Rail)
  | vin12Loss
  | lastGaspProgram (supplyHeld : Bool)
  | vin12Present
  | vin3v3PowerDown
  | calSave
  | calSavePeriodic
  | calSaveDone (ok : Bool)
  | thermalSensorRead (readings : List (BitVec 12))
  | tripCooldownEnd
  | laneRepair (c : CDie) (cluster : Cluster)
  | laneFence (c : CDie) (cluster : Cluster)
  | laneSpareTestDone (c : CDie) (pass : Bool)
  | coachDieUnresponsive (c : CDie)
  | dieFailed (die : Die)
  | digestBatchSend (livery : Liv)
  | digestUnmatchedTimeout
  | trailerStepCheck
  | trailerModeChange
  | snapshotArm
  | snapshotTrigger
  | snapInEdge
  | snapshotSlotMatch
  | snapshotLatch
  | snpTimeLoRead
  | timNowLoRead
  | timeOffsetWrite (v : W32)
  | timeSlewDone
  | timeStepGo
  | ppsInEdge
  | ppsOutSecond
  | ptpServoUpdate (offset : Int) (upstream : Bool)
  | coldStart (src : ColdSource)
  | pwronRstN (level : Bool)
  | warmRstN (level : Bool)
  | pwrRstCold (v : W32)
  | pwrRstWarm (v : W32)
  | pwrRstMgmt (v : W32)
  | warmReset
  | warmResetDone
  | perstN (level : Bool)
  | hotReset
  | functionLevelReset
  | standbyComplete
  | m0MarchDone (findings : List BankFinding)
  | railsComplete
  | railGroupRamped
  | trainComplete
  | d2dTrainTimeout (die : Die)
  | marchPhaseComplete (findings : List BankFinding)
  | laneTestComplete (findings : List ClusterFinding)
  | smbStatus
  | smbAlertSrcRead
  | smbAlertSrcClear (v : BitVec 16) (pecOk : Bool)
  | smbPkgPower
  | smbMaxJunction
  | smbMaxDie
  | smbVin12Mv (mv : BitVec 16)
  | smbVin12Current (sixteenthAmp : BitVec 16)
  | smbVin3v3Mv (mv : BitVec 16)
  | smbJunction (die : Die)
  | smbAlertResponse
  | registerWrite (off : BitVec 26) (be : BitVec 4) (v : W32)
  | cdrLockLoss (lane : Lane) (signal : Bool)
  | autoNegotiation (p : LPort) (partnerLpi : Bool) (accepts : Bool)
  | ethernetPcsAlignLoss (p : LPort)
  | retentionEntryComplete (die : Die) (bank : BitVec 8)
  | railSlewDone (r : Rail)
  | fecUncorrBetweenFrames (p : LPort)
  | smbUnlistedCommand (code : BitVec 8)
  | registerReadAccessError (off : BitVec 26) (be : BitVec 4)
  deriving DecidableEq, Repr

end Sys2Proof
end

