-- ==== Sys2Proof/Config.lean ====
section
/-! DEFINITION. What the manual leaves to an implementation or leaves open: constants with no body, so that no proof can
see a value. A value that is fresh each time is one of these applied to the counter `Chip.fresh`. -/

namespace Sys2Proof.Config

/-- The device keys that the security engine derives from the fused root secret (R343, R346): 64 bytes. -/
opaque deviceKey : Nat → BitVec 8
/-- The SHA-384 hash of the Uzovik provisioning key in the boot ROM (R349). -/
opaque provisioningKeyHash : BitVec 384
/-- The SHA-384 hashes of the image signing keys in the boot ROM, by KEY_IDX (R360). -/
opaque imageKeyHash : Nat → BitVec 384
/-- Which tamper conditions outside the part have gone when a host clears status bits (R347), fresh at each use. -/
opaque tamperGone : Nat → BitVec 6
/-- The 128-bit random challenge of R349, fresh at each use. -/
opaque challenge : Nat → BitVec 128
/-- The device's own measured PMA, FEC and alignment delay that corrects a PTP stamp (R279). -/
opaque ptpCorrection : Nat → Int
/-- Load percentages and other figures that firmware measures and the manual does not compute (R374). -/
opaque firmwareFigure : Nat → BitVec 32
/-- A domain's estimated power in W at a RATE, at the present voltage and temperature (R389); fresh at each use. -/
opaque wattsAt : Nat → Nat → Nat → Rat
/-- The energy coefficient in pJ that the fuses hold for an activity event, by die and kind (R381, R399), and the
phase-sense and thermal-sensor trims that they hold (R397). -/
opaque fuseCoeff : Nat → Nat → BitVec 32
opaque fuseTrim : Nat → BitVec 8
/-- The static power of a die in µW, by die, the outputs of its rails in mV, and its junction temperature in 1/8 °C
(R381). -/
opaque staticMicrowatt : Nat → List Nat → Int → Nat
/-- The weight of a rail in its die's power (R381): its share is its weight among those of the die's rails. -/
opaque railWeight : Nat → Nat
/-- The energy in µJ lost in regulation over an attribution interval (R383), fresh at each use. -/
opaque lossMicrojoule : Nat → Nat
/-- The RATE of an unmetered coach die (R401). -/
opaque unmeteredRate : Nat → Nat
/-- The allowance to which a current limit lowers a domain (R386), fresh at each use. -/
opaque ilimRate : Nat → Nat
/-- The current in 1/100 A that a rail draws at its domain's floor (R387, R395), and the RATE at which it equals the
rail's effective limit. -/
opaque floorCentiamp : Nat → Nat → Nat
opaque rateAtLimit : Nat → Nat → Nat
/-- Whether firmware finds a PTP offset large enough to step fabric time (R441), fresh at each use. -/
opaque servoSteps : Nat → Bool
/-- The bit pair at a position of a test pattern that IEEE 802.3 defines and the manual only names, by pattern code
(R242). -/
opaque ieeePair : Nat → Nat → BitVec 2
/-- A bit pair that a lane sends as data: its coding is the PCS's and FEC's of IEEE 802.3; fresh at each use. -/
opaque linePair : Nat → BitVec 2
/-- The message with which the PTP stack answers a received one, from that message, its stamp and a fresh number; its
form is that of IEEE 1588 (R280). -/
opaque ptpAnswer : List (BitVec 8) → Nat → Nat → Option (List (BitVec 8))
/-- A value of a register the manual leaves unstated, fresh at each use. -/
opaque freeWord : Nat → BitVec 32

end Sys2Proof.Config
end

