-- ==== Sys2Proof/Machine/Bits.lean ====
section
/-! DEFINITION. Bit fields, byte orders, cyclic redundancy checks and the sparse table of the model: the helpers
every other file reads its fields with (R5, R6). -/

namespace Sys2Proof.Machine

/-- The unsigned value of the field of width `w` whose lowest bit is `lo` (R5). -/
def fld {n : Nat} (x : BitVec n) (lo w : Nat) : Nat := (x.toNat >>> lo) % 2 ^ w

/-- Bit `i` of a word. -/
def bitAt {n : Nat} (x : BitVec n) (i : Nat) : Bool := x.getLsbD i

/-- The word with the field of width `w` at `lo` replaced by the low bits of `v`. -/
def putFld {n : Nat} (x : BitVec n) (lo w v : Nat) : BitVec n :=
  (x &&& ~~~(BitVec.ofNat n ((2 ^ w - 1) <<< lo))) ||| BitVec.ofNat n ((v % 2 ^ w) <<< lo)

/-- The word with bit `i` set to `b`. -/
def putBit {n : Nat} (x : BitVec n) (i : Nat) (b : Bool) : BitVec n := putFld x i 1 b.toNat

/-- The signed value of a `w`-bit two's complement code. -/
def signed (w v : Nat) : Int := if v % 2 ^ w < 2 ^ (w - 1) then (v % 2 ^ w : Nat) else ((v % 2 ^ w : Nat) : Int) - (2 ^ w : Nat)

/-- `w`-bit two's complement code of an integer. -/
def toCode (w : Nat) (v : Int) : Nat := (v % ((2 ^ w : Nat) : Int)).toNat

/-- Quotient rounded up. -/
def ceilDiv (a b : Nat) : Nat := (a + b - 1) / b

/-! Bytes -/

/-- The unsigned value of a run of bytes in network byte order (R6). -/
def natOfBE (bs : List Byte) : Nat := bs.foldl (fun a b => a * 256 + b.toNat) 0

/-- The unsigned value of a run of bytes, least significant first (R6). -/
def natOfLE (bs : List Byte) : Nat := bs.foldr (fun b a => a * 256 + b.toNat) 0

/-- `k` bytes of a number, least significant first. -/
def bytesLE : Nat → Nat → List Byte
  | 0, _ => []
  | k + 1, v => BitVec.ofNat 8 v :: bytesLE k (v / 256)

/-- `k` bytes of a number in network byte order. -/
def bytesBE (k v : Nat) : List Byte := (bytesLE k v).reverse

/-- Bytes `at` to `at + k - 1` of a list. -/
def slice (bs : List Byte) (start k : Nat) : List Byte := (bs.drop start).take k

/-! Checks -/

/-- One step of a most-significant-bit-first CRC of width `w`. -/
def crcBit (w poly : Nat) (c : Nat) (b : Bool) : Nat :=
  let top := (c >>> (w - 1)) % 2
  let c1 := (c * 2) % 2 ^ w
  if top ^^^ b.toNat = 1 then c1 ^^^ poly else c1

/-- A byte, most significant bit first. -/
def crcByteMsb (w poly : Nat) (c : Nat) (b : Byte) : Nat :=
  [7, 6, 5, 4, 3, 2, 1, 0].foldl (fun c i => crcBit w poly c (b.getLsbD i)) c

/-- CRC-16 of the header check (R260): polynomial 0x1021, initial value all ones, most significant bit first. -/
def crc16 (bs : List Byte) : BitVec 16 := BitVec.ofNat 16 (bs.foldl (crcByteMsb 16 0x1021) 0xFFFF)

/-- CRC-64 of a digest (R419). -/
def crc64 (bs : List Byte) : W64 :=
  BitVec.ofNat 64 (bs.foldl (crcByteMsb 64 0x42F0E1EBA9EA3693) 0xFFFFFFFFFFFFFFFF) ^^^ BitVec.allOnes 64

/-- One byte of the reflected CRC-32 (R264): the polynomial 0x04C11DB7 read with its bits reversed. -/
def crc32Byte (c : Nat) (b : Byte) : Nat :=
  [0, 1, 2, 3, 4, 5, 6, 7].foldl
    (fun c _ => if c % 2 = 1 then (c / 2) ^^^ 0xEDB88320 else c / 2) (c ^^^ b.toNat)

/-- The CRC-32 value of R264, the common reflected form. -/
def crc32 (bs : List Byte) : W32 := BitVec.ofNat 32 (bs.foldl crc32Byte 0xFFFFFFFF) ^^^ BitVec.allOnes 32

/-! The sparse table -/

/-- A table that lists only the keys whose value differs from what an unlisted key reads as: keys strictly rising. -/
abbrev Tbl (β : Type) := List (Nat × β)

/-- The value at a key; `d` is what an unlisted key reads as. -/
def Tbl.get {β : Type} (d : β) (m : Tbl β) (k : Nat) : β :=
  match m with
  | [] => d
  | (j, v) :: t => if j = k then v else Tbl.get d t k

/-- A table without a key. -/
def Tbl.erase {β : Type} (m : Tbl β) (k : Nat) : Tbl β :=
  match m with
  | [] => []
  | (j, v) :: t => if j = k then Tbl.erase t k else (j, v) :: Tbl.erase t k

/-- A table with a key put in its place in the rising order. -/
def Tbl.insert {β : Type} (m : Tbl β) (k : Nat) (v : β) : Tbl β :=
  match m with
  | [] => [(k, v)]
  | (j, w) :: t => if k < j then (k, v) :: (j, w) :: t else (j, w) :: Tbl.insert t k v

/-- The table after a write: the key is listed exactly when its value is not what an unlisted key reads as. -/
def Tbl.set {β : Type} [DecidableEq β] (d : β) (m : Tbl β) (k : Nat) (v : β) : Tbl β :=
  match m with
  | [] => if v = d then [] else [(k, v)]
  | q :: t => if v = d then Tbl.erase (q :: t) k else Tbl.insert (Tbl.erase (q :: t) k) k v

/-- The canonical form: keys strictly rising, and no listed value equal to what an unlisted key reads as. -/
def Tbl.wf {β : Type} [DecidableEq β] (d : Nat → β) (m : Tbl β) : Bool :=
  match m with
  | [] => true
  | (j, v) :: t => v != d j && (match t with | [] => true | (k, _) :: _ => decide (j < k)) && Tbl.wf d t

/-- Every key of a table whose value meets a test. -/
def Tbl.keysWhere {β : Type} (m : Tbl β) (f : Nat → β → Bool) : List Nat :=
  (m.filter (fun kv => f kv.1 kv.2)).map (·.1)

/-! Lists -/

/-- The list with its `i`-th member replaced by `f` of it. -/
def updAt {α : Type} (f : α → α) : Nat → List α → List α
  | _, [] => []
  | 0, a :: t => f a :: t
  | i + 1, a :: t => a :: updAt f i t

/-- The list without its `i`-th member. -/
def dropAt {α : Type} : Nat → List α → List α
  | _, [] => []
  | 0, _ :: t => t
  | i + 1, a :: t => a :: dropAt i t

/-- The list without the first member that meets a test. -/
def dropFirst {α : Type} (f : α → Bool) : List α → List α
  | [] => []
  | a :: t => if f a then t else a :: dropFirst f t

/-- How many set bits a word has below bit `k`. -/
def onesBelow {n : Nat} (x : BitVec n) : Nat → Nat
  | 0 => 0
  | k + 1 => onesBelow x k + (x.getLsbD k).toNat

/-- The number of set bits of a word. -/
def ones {n : Nat} (x : BitVec n) : Nat := onesBelow x n

/-- The positions of the set bits of a word, rising. -/
def setBits {n : Nat} (x : BitVec n) : List Nat := (List.range n).filter (fun i => x.getLsbD i)

end Sys2Proof.Machine
end

