-- ==== Sys2Proof/Machine/Regs.lean ====
section
/-! DEFINITION. The register pages (R470 to R485) as data: which block and die a page belongs to, which register lies
at an offset, which of its bits have which access type (R473), its reset value, and which instance of it a selector
picks. A register is named by its BAR0 offset; instance n of a register that the part holds once per lane, port,
queue, livery, pool, bank or rail has the key offset + n * 2^26, since BAR0 is 2^26 bytes (R470). -/

namespace Sys2Proof.Machine

/-- The blocks of the register directory (R479). -/
inductive Blk where
  | prt | sds | lnk | xbr | rte | tmg | cch | acc | ttb | pol | mem | liv | sec | mbx | pwr | thm | flt | snp | tim
  deriving DecidableEq, Repr

/-- BLK_ID.BLOCK (R479). -/
def Blk.code : Blk → Nat
  | .prt => 0x01 | .sds => 0x02 | .lnk => 0x03 | .xbr => 0x04 | .rte => 0x05 | .tmg => 0x06 | .cch => 0x07
  | .acc => 0x08 | .ttb => 0x09 | .pol => 0x0A | .mem => 0x0B | .liv => 0x0C | .sec => 0x0D | .mbx => 0x0E
  | .pwr => 0x0F | .thm => 0x10 | .flt => 0x11 | .snp => 0x12 | .tim => 0x13

/-- BLK_CAP.SELECT (R477): the pages that have a selector. -/
def Blk.hasSelect : Blk → Bool
  | .sds | .lnk | .tmg | .pol | .mem | .cch | .ttb | .rte | .liv | .pwr | .thm => true
  | _ => false

/-! Die numbers (R406) -/

def dieP (n : Nat) : Nat := n
def dieC (n : Nat) : Nat := 8 + n
def dieX (n : Nat) : Nat := 24 + n
def dieB (n : Nat) : Nat := 28 + n
def dieM : Nat := 30
def dieV : Nat := 31

/-! Pages (R484) -/

def pgPwr : Nat := 0x000
def pgThm : Nat := 0x001
def pgSec : Nat := 0x008
def pgFlt : Nat := 0x009
def pgSnp : Nat := 0x00A
def pgMemM : Nat := 0x00B
def pgMbx (q : Nat) : Nat := 0x00C + q
def pgTtb : Nat := 0x010
def pgRte : Nat := 0x011
def pgLiv : Nat := 0x012
def pgTim : Nat := 0x013
def pgXbr : Nat := 0x014
def pgMemX (n : Nat) : Nat := 0x018 + n
def pgPrt (n : Nat) : Nat := 0x040 + 8 * n
def pgSds (n : Nat) : Nat := 0x041 + 8 * n
def pgLnk (n : Nat) : Nat := 0x042 + 8 * n
def pgTmg (n : Nat) : Nat := 0x043 + 8 * n
def pgPolP (n : Nat) : Nat := 0x044 + 8 * n
def pgMemP (n : Nat) : Nat := 0x045 + 8 * n
def pgCch (n : Nat) : Nat := 0x080 + 8 * n
def pgAcc (n : Nat) : Nat := 0x081 + 8 * n
def pgPolC (n : Nat) : Nat := 0x082 + 8 * n
def pgMemC (n : Nat) : Nat := 0x083 + 8 * n
def pgPolB (n : Nat) : Nat := 0x100 + 8 * n
def pgMemB (n : Nat) : Nat := 0x101 + 8 * n
def pgMsix : Nat := 0x3FF
/-- A page with no block, for a die that has no page of a kind. -/
def pgNone : Nat := 0x3FE

/-- The block and the die of a page, none for an unused page and for page 0x3FF (R470, R471, R484, R485). -/
def pageOf (p : Nat) : Option (Blk × Nat) :=
  if p = 0x000 then some (.pwr, dieV) else if p = 0x001 then some (.thm, dieV)
  else if p = 0x008 then some (.sec, dieM) else if p = 0x009 then some (.flt, dieM)
  else if p = 0x00A then some (.snp, dieM) else if p = 0x00B then some (.mem, dieM)
  else if 0x00C ≤ p ∧ p ≤ 0x00F then some (.mbx, dieM)
  else if p = 0x010 then some (.ttb, dieX 0) else if p = 0x011 then some (.rte, dieX 0)
  else if p = 0x012 then some (.liv, dieX 0) else if p = 0x013 then some (.tim, dieX 0)
  else if p = 0x014 then some (.xbr, dieX 0)
  else if 0x018 ≤ p ∧ p ≤ 0x01B then some (.mem, dieX (p - 0x018))
  else if 0x040 ≤ p ∧ p < 0x080 then
    let d := dieP ((p - 0x040) / 8)
    match (p - 0x040) % 8 with
    | 0 => some (.prt, d) | 1 => some (.sds, d) | 2 => some (.lnk, d) | 3 => some (.tmg, d)
    | 4 => some (.pol, d) | 5 => some (.mem, d) | _ => none
  else if 0x080 ≤ p ∧ p < 0x100 then
    let d := dieC ((p - 0x080) / 8)
    match (p - 0x080) % 8 with
    | 0 => some (.cch, d) | 1 => some (.acc, d) | 2 => some (.pol, d) | 3 => some (.mem, d) | _ => none
  else if 0x100 ≤ p ∧ p < 0x110 then
    let d := dieB ((p - 0x100) / 8)
    match (p - 0x100) % 8 with
    | 0 => some (.pol, d) | 1 => some (.mem, d) | _ => none
  else none

/-- The page of one of a die's blocks: the POL page of the die. -/
def pgPol (die : Nat) : Nat :=
  if die < 8 then pgPolP die else if die < 24 then pgPolC (die - 8)
  else if 28 ≤ die ∧ die < 30 then pgPolB (die - 28) else pgNone

/-- The page of a die's memory banks (R484). -/
def pgMem (die : Nat) : Nat :=
  if die < 8 then pgMemP die else if die < 24 then pgMemC (die - 8) else if die < 28 then pgMemX (die - 24)
  else if die < 30 then pgMemB (die - 28) else if die = dieM then pgMemM else pgNone

/-! Register rows -/

/-- Which instance of a register an access addresses (R482): one for the page, or the one a selector picks. -/
inductive Sel where
  | one | lane | lnkPort | tmgPort | tmgQueue | shaper | gclEnt | gclList | ttbLiv | rtePort | rteVlan | rteTd
  | rteMir | rteGrid | polPool | polLiv | memBank | liv | livPort | rail | meter | sensor | thmDie
  deriving DecidableEq, Repr

/-- A run of registers of one page, one each four bytes from `first` to `last`: the bits of access type RW, the bits
of type W1C, the bits of type WO or W1S (`act`), and the reset value; every other bit is RO or RSV. -/
structure RegRow where
  first : Nat
  last : Nat
  rw : Nat
  w1c : Nat
  act : Nat
  reset : Nat
  sel : Sel
  deriving DecidableEq, Repr

def rowRw (o m r : Nat) (s : Sel := .one) : RegRow := ⟨o, o, m, 0, 0, r, s⟩
def rowRo (o r : Nat) (s : Sel := .one) : RegRow := ⟨o, o, 0, 0, 0, r, s⟩
def rowAct (o a : Nat) (s : Sel := .one) : RegRow := ⟨o, o, 0, 0, a, 0, s⟩
def rowsRw (o p m r : Nat) (s : Sel := .one) : RegRow := ⟨o, p, m, 0, 0, r, s⟩
def rowsRo (o p r : Nat) (s : Sel := .one) : RegRow := ⟨o, p, 0, 0, 0, r, s⟩

def all32 : Nat := 0xFFFFFFFF

/-- The common header (R477). Offsets 0x001C and 0x0038 to 0x00FF are reserved and not in the list. -/
def headerRows : List RegRow :=
  [rowsRo 0x00 0x08 0, rowRw 0x0C 0xFFFF 0, rowRo 0x10 0, ⟨0x14, 0x14, 0, 0xF, 0, 0, .one⟩, rowRw 0x18 0xF 3,
   rowsRo 0x20 0x2C 0, rowRw 0x30 1 1, rowRo 0x34 0]

/-- PRT (R252, R153). -/
def prtRows : List RegRow :=
  [rowsRw 0x1000 0x107C 0x2FF 0x200, ⟨0x1080, 0x1080, 0, 0x80000000, 0, 0, .one⟩, rowsRw 0x1100 0x117C 0xFF0F 0x4000,
   rowsRo 0x1180 0x11FC 0, rowsRo 0x1200 0x1214 0, rowsRo 0x1800 0x180C 0]

/-- SDS (R253). -/
def sdsRows : List RegRow :=
  [rowRw 0x1000 0x7F 0, rowRw 0x1004 0xFF 0x12 .lane, rowRo 0x1008 2 .lane, rowRw 0x100C 0x83FFFFFF 0x1F8000 .lane,
   rowRw 0x1010 0x3F 0x30 .lane, ⟨0x1014, 0x1014, 0x00FFFFFF, 0, 0xE0000000, 0x10A5, .lane⟩,
   rowRw 0x1018 all32 0x10000 .lane, rowsRo 0x101C 0x1030 0 .lane]

/-- LNK (R283, R284); the reset value of LNK_VL_BUFn is in `regResetAt` (R268). -/
def lnkRows : List RegRow :=
  [rowRw 0x1000 0x7F 0, rowRw 0x1004 0xFFF1 0x8100 .lnkPort, rowRo 0x1008 0 .lnkPort,
   rowRw 0x100C all32 0x00800100 .lnkPort, rowsRw 0x1040 0x1054 0xFFFF 0 .lnkPort, rowsRo 0x1100 0x113C 0]

/-- TIM (R285, R446). -/
def timRows : List RegRow :=
  [⟨0x1000, 0x1000, 3, 4, 0x80000000, 0, .one⟩, rowsRo 0x1004 0x1008 0, rowRw 0x100C all32 0, rowAct 0x1010 all32,
   rowsRw 0x1014 0x1018 all32 0, rowRw 0x101C all32 0, rowRw 0x1020 0xFFFF 0, rowsRo 0x1024 0x1028 0, rowRo 0x102C 0]

/-- RTE (R313, R314). -/
def rteRows : List RegRow :=
  [rowRw 0x1000 0x7FFFF 0, rowAct 0x1004 3, rowRo 0x1008 0, rowsRw 0x1010 0x1014 all32 0, rowAct 0x1020 0x3FFFFFF,
   ⟨0x1024, 0x1024, 0, 6, 0, 0, .one⟩, rowRw 0x1028 0x3FFFF 0, rowsRo 0x1100 0x12FC 0, rowRw 0x1300 0x3F 0,
   rowRw 0x1304 0x800FFFFF 0 .rteGrid, rowRw 0x1310 0x3FFF 0, rowAct 0x1314 3, rowRo 0x1318 0,
   rowsRw 0x1400 0x148C all32 0, rowRw 0x1500 0x3FF 0, rowRw 0x1504 0x1FFF 0x1001 .rtePort, rowRw 0x1508 0xFFF 0,
   rowRw 0x150C 0x807FFFFF 0 .rteVlan, rowRw 0x1510 all32 0, rowRw 0x1514 0xFFFF 0, rowAct 0x1520 3, rowRo 0x1524 0,
   rowsRw 0x1540 0x155C all32 0, rowRw 0x1600 0xFF 0, rowRw 0x1604 0xFFFFF 0x3E8 .rteTd, rowAct 0x1608 3 .rteTd,
   rowRo 0x160C 0 .rteTd, rowRw 0x1700 0xF 0, rowRw 0x1704 0xFFF 0 .rteMir, rowRw 0x1708 0x1FFFFF 0 .rteMir,
   rowRw 0x170C 0x3FFFF 0 .rteMir, rowRw 0x1710 0xFFFFFF 0 .rteMir, rowsRo 0x1800 0x181C 0]

/-- XBR (R314). -/
def xbrRows : List RegRow := [rowsRo 0x1000 0x100C 0]

/-- TMG (R333, R334); the reset value of TMG_TC_CFG.PRI is in `regResetAt`. -/
def tmgRows : List RegRow :=
  [rowRw 0x1000 0xF7F 0, rowRw 0x1004 0xF3F 20 .tmgPort, rowRw 0x1008 0xFFF 2 .tmgQueue,
   rowRw 0x100C all32 0xECA86420 .tmgPort, rowRw 0x1010 0x7FF 0, rowRw 0x1014 0xFFFFFF 0 .shaper,
   rowRw 0x1018 0xFFFFFF 0x4000 .shaper, rowAct 0x101C 1 .shaper, rowRo 0x1020 0 .shaper, rowRw 0x1040 0x1FF 0,
   rowRw 0x1044 all32 all32 .gclEnt, rowRw 0x1048 0x1FF 1 .gclList, rowRw 0x104C 0xFFFFFF 0x989680 .gclList,
   rowsRw 0x1050 0x1054 all32 0 .gclList, rowAct 0x1058 1 .tmgPort, rowRo 0x105C 0 .tmgPort,
   rowRw 0x1080 0x1F1 0xC0, rowsRo 0x1084 0x108C 0 .tmgQueue, rowRo 0x1090 0, rowRw 0x10C0 all32 0x0010FFFF .tmgQueue,
   ⟨0x10C4, 0x10C4, 0, 1, 0, 0, .tmgQueue⟩, rowRo 0x10C8 0 .tmgQueue, rowAct 0x1100 3, rowRo 0x1104 0,
   rowsRw 0x1120 0x113C all32 0, rowsRo 0x1200 0x120C 0]

/-- CCH (R135 to R137). -/
def cchRows : List RegRow := [rowRw 0x1000 0x3FF 0, rowsRo 0x1004 0x1014 0, rowsRo 0x1100 0x1134 0]

/-- ACC (R65, R66, R101). -/
def accRows : List RegRow := [rowsRo 0x1400 0x1408 0, rowsRo 0x1410 0x1428 0]

/-- TTB (R192, R194). -/
def ttbRows : List RegRow :=
  [rowRw 0x1000 0x1FFFF 0, rowAct 0x1004 3, rowRo 0x1008 0, rowsRw 0x1040 0x107C all32 0, rowRw 0x1080 0x10FFF 0,
   rowAct 0x1084 3, rowRo 0x1088 0, rowsRw 0x1100 0x117C all32 0, rowRw 0x1200 0xFF 0, rowRw 0x1204 7 0 .ttbLiv,
   ⟨0x1208, 0x1208, 0, 0x70, 0, 8, .ttbLiv⟩, rowRo 0x120C 0 .ttbLiv, rowRw 0x1210 0xFFFF0000 0 .ttbLiv,
   rowsRw 0x1214 0x1218 all32 0 .ttbLiv, rowAct 0x121C all32 .ttbLiv, rowsRw 0x1220 0x1224 0xFFFFFF 0 .ttbLiv,
   rowsRw 0x1228 0x122C all32 1 .ttbLiv, rowsRw 0x1230 0x123C 0x8003FFFF 0 .ttbLiv, rowRw 0x1300 0x80001F1F 0,
   rowsRw 0x1340 0x137C 0x7FF 0, rowsRo 0x1400 0x1424 0, ⟨0x1500, 0x1500, 0, 1, 0, 0, .one⟩, rowsRo 0x1504 0x1510 0]

/-- POL (R224, R225); the reset values of the per-pool registers are in `regResetAt` (R199). -/
def polRows : List RegRow :=
  [rowRw 0x1000 0xFF07 0, rowsRo 0x1004 0x100C 0 .polPool, rowsRw 0x1010 0x1014 all32 0 .polPool,
   rowRw 0x1018 0x7FFFF 0 .polLiv, rowsRo 0x101C 0x1020 0 .polLiv, ⟨0x1024, 0x1024, 0, 0xC, 0, 0, .polPool⟩,
   ⟨0x1028, 0x1028, 0x3FFFF, 0, 0x80000000, 0, .one⟩, rowRo 0x102C 0, rowsRo 0x1100 0x1118 0]

/-- MEM (R226, R227). -/
def memRows : List RegRow :=
  [⟨0x1000, 0x1000, 0xFFF, 0, 0x80000000, 0, .one⟩, rowsRo 0x1004 0x1008 0, rowRo 0x100C 0x28 .memBank,
   rowsRw 0x1010 0x101C all32 0, rowsRo 0x1020 0x104C 0, rowsRo 0x1100 0x1114 0]

/-- LIV (R352). -/
def livRows : List RegRow :=
  [rowRw 0x1000 0xFF 0, rowRw 0x1004 0x3FF001F 0x400000 .liv, ⟨0x1008, 0x1008, 0, 1, 0, 0, .liv⟩,
   rowRw 0x100C 0x3FFF3FFF 1 .liv, ⟨0x1010, 0x1014, 0, 0, all32, 0, .one⟩, rowAct 0x1018 0x8000000F .liv, rowRo 0x1020 0 .liv,
   ⟨0x1024, 0x1024, 0, 0x80000000, 0, 0, .liv⟩, rowsRo 0x1030 0x1034 0 .liv, rowsRo 0x1038 0x103C 0,
   rowRw 0x1040 0x3FF 0, rowRw 0x1044 0x8003FFFF 0 .livPort, rowsRw 0x1100 0x117C all32 0 .liv,
   rowsRw 0x1200 0x13FC all32 0 .liv]

/-- SEC (R353). -/
def secRows : List RegRow :=
  [rowRo 0x1000 0, ⟨0x1004, 0x1004, 0, 0x7F, 0, 0, .one⟩, rowRo 0x1008 0, rowRw 0x100C 3 0, rowRo 0x1010 0x1D,
   rowAct 0x1014 1, rowRo 0x1018 0, rowAct 0x1020 3, rowRo 0x1024 0, rowsRo 0x1030 0x103C 0, rowsRo 0x1040 0x104C 0,
   rowsRw 0x1100 0x121C all32 0]

/-- MBX (R375, R363). -/
def mbxRows : List RegRow :=
  [rowRo 0x1000 0x3C0, rowsRo 0x1004 0x1008 0, rowRw 0x100C 0xFFFF 0, rowsRo 0x1010 0x1014 0, rowRw 0x1018 0xFFFF 0,
   ⟨0x101C, 0x101C, 0x1FF, 0x200, 0, 0x105, .one⟩, rowsRo 0x1020 0x1024 0, rowsRw 0x2000 0x5FFC all32 0,
   rowsRo 0x6000 0x9FFC 0]

/-- PWR (R404, R405, R445); the setpoint reset values are in `regResetAt` (R378). -/
def pwrRows : List RegRow :=
  [rowRw 0x1000 0x3FF 0x23, ⟨0x1004, 0x1004, 0, 0x14, 0, 0, .one⟩, rowRo 0x1008 0, rowRw 0x100C 0x1FFF 0x1068,
   rowRo 0x1010 0, rowRw 0x1014 0xFFF 0x200, rowRw 0x1020 0x7F 0, rowRw 0x1024 0x3FF 0 .rail,
   rowsRo 0x1028 0x1034 0 .rail, rowRw 0x1040 0x1F 0, rowsRo 0x1044 0x1048 0 .meter, rowAct 0x1060 1,
   ⟨0x1064, 0x1064, 0, 8, 0, 0, .one⟩, rowRo 0x1068 0, ⟨0x1070, 0x1070, 8, 0, 0xFFFF0007, 0, .one⟩,
   ⟨0x1074, 0x1074, 0, 0x10, 0, 0, .one⟩, rowRo 0x1078 0, rowsRo 0x1100 0x1118 0]

/-- THM (R405, R406). -/
def thmRows : List RegRow :=
  [rowRw 0x1000 0xFF 0, rowRo 0x1004 0 .sensor, rowRo 0x1008 0x80000 .thmDie, ⟨0x100C, 0x100C, 0, 2, 0, 0, .one⟩,
   rowsRo 0x1100 0x1104 0]

/-- FLT (R424, R430, R481). -/
def fltRows : List RegRow :=
  [rowRw 0x1000 0xFF07 0x1003, rowRo 0x1004 0, rowRw 0x1008 0xFFFF 0, rowRo 0x100C 0, rowRw 0x1010 1 1,
   rowAct 0x1014 0x37FF, rowRo 0x1018 0, rowsRo 0x1040 0x107C 0x400, rowRw 0x1100 0xFFFF0FFF 0x03E80000,
   rowRw 0x1104 0x800003FF 0, rowRw 0x1108 0xFFFF 0x40, ⟨0x110C, 0x110C, 0, 1, 0, 0, .one⟩,
   ⟨0x1110, 0x1110, 0, 1, 0, 0, .one⟩, rowsRo 0x1114 0x1118 0, rowsRw 0x1140 0x115C all32 0, rowsRo 0x1200 0x1224 0,
   rowsRo 0x1300 0x137C 0, rowsRo 0x8000 0xFFFC 0]

/-- SNP (R430). -/
def snpRows : List RegRow :=
  [⟨0x1000, 0x1000, 0x3E, 0, 0x80000001, 0, .one⟩, rowsRo 0x1004 0x1010 0, rowsRw 0x1014 0x1018 all32 0,
   rowsRw 0x1040 0x107C 0x8000FFFF 0, rowRo 0x1080 0]

/-- The block-specific registers of a block. -/
def Blk.rows : Blk → List RegRow
  | .prt => prtRows | .sds => sdsRows | .lnk => lnkRows | .xbr => xbrRows | .rte => rteRows | .tmg => tmgRows
  | .cch => cchRows | .acc => accRows | .ttb => ttbRows | .pol => polRows | .mem => memRows | .liv => livRows
  | .sec => secRows | .mbx => mbxRows | .pwr => pwrRows | .thm => thmRows | .flt => fltRows | .snp => snpRows
  | .tim => timRows

/-- The row of an offset in a list of rows. -/
def findRow (rs : List RegRow) (off : Nat) : Option RegRow := rs.find? (fun r => decide (r.first ≤ off ∧ off ≤ r.last))

/-- The register at an offset of a page of a block: the header below 0x100, the block-specific registers from 0x1000;
a shadow word is RO (R482). -/
def rowOf (b : Blk) (off : Nat) : Option RegRow :=
  if off < 0x100 then findRow headerRows off
  else if off < 0x1000 then some (rowRo off 0)
  else findRow b.rows off

/-- A reserved header offset (R474): reads 0, a write is ignored and counted nowhere. -/
def rsvOffset (off : Nat) : Bool := off = 0x1C || (0x38 ≤ off && off < 0x100)

/-! Keys and reset values -/

/-- The key of instance `inst` of the register at BAR0 offset `page * 0x10000 + off`. -/
def regKey (page off inst : Nat) : Nat := page * 0x10000 + off + inst * 0x4000000

/-- Units of a pool (R199). -/
def poolUnits (pool : Nat) : Nat :=
  match pool with | 0 => 40960 | 1 => 131072 | 2 => 8192 | 3 => 262144 | 4 => 2048 | _ => 0

/-- Fence reserve of a pool (R199). -/
def poolReserve (pool : Nat) : Nat :=
  match pool with | 0 => 1024 | 1 => 16384 | 2 => 2048 | 3 => 2048 | _ => 0

/-- Default CAUTION, BRAKE, STOP and HYST (R199). -/
def poolThr (pool : Nat) : Nat × Nat × Nat × Nat :=
  match pool with
  | 0 => (64, 16, 4, 8) | 1 => (1024, 256, 64, 128) | 2 => (640, 448, 256, 64) | 3 => (1024, 512, 256, 128)
  | 4 => (64, 0, 0, 8) | _ => (0, 0, 0, 0)

/-- Default setpoint of a rail, in mV (R378). -/
def railDefault (r : Nat) : Nat :=
  if r < 8 then 750 else if r < 16 then 800 else if r < 24 then 900 else if r < 40 then 750 else if r < 56 then 800
  else if r < 60 then 750 else if r < 64 then 800 else if r < 66 then 750 else if r < 68 then 800
  else if r = 68 then 750 else 800

/-- Unsplit default credits of a virtual lane (R268). -/
def vlDefault (vl : Nat) : Nat :=
  match vl with | 0 => 528 | 1 => 1152 | 2 => 608 | 3 => 608 | 4 => 600 | 5 => 600 | _ => 0

/-- The reset value of instance `inst` of a register of a block: that of its row, but for the registers whose reset
value depends on the instance (R199, R268, R378, the PRI field of TMG_TC_CFG) and BLK_ID, BLK_VER and BLK_CAP. -/
def regResetAt (page : Nat) (b : Blk) (die off inst : Nat) : Nat :=
  match rowOf b off with
  | none => 0
  | some r =>
    if off = 0x00 then b.code + die * 0x100 + (if b = .mbx then (page - 0x00C) * 0x10000 else 0)
    else if off = 0x04 then 0x0100
    else if off = 0x08 then (if 30 ≤ die then 1 else 0) + (if b.hasSelect then 2 else 0)
    else match b with
      | .lnk => if 0x1040 ≤ off ∧ off ≤ 0x1054 then (if inst % 4 = 0 then vlDefault ((off - 0x1040) / 4) else 0) else r.reset
      | .tmg => if off = 0x1008 then r.reset + (inst % 16 / 2) * 0x200 else r.reset
      | .pol =>
        let t := poolThr inst
        if off = 0x1010 then t.1 + t.2.1 * 0x10000 else if off = 0x1014 then t.2.2.1 + t.2.2.2 * 0x10000 else r.reset
      | .pwr => if off = 0x1024 then railDefault inst else r.reset
      | _ => r.reset

/-- What the register of a key reads as when nothing has written it: its reset value. -/
def regReset (k : Nat) : W32 :=
  let page := k % 0x4000000 / 0x10000
  match pageOf page with
  | none => 0
  | some (b, die) => BitVec.ofNat 32 (regResetAt page b die (k % 0x10000) (k / 0x4000000))

end Sys2Proof.Machine
end

