-- ==== Sys2Proof/Machine/State.lean ====
section
/-! DEFINITION. The state of the NJ-2480: `Chip`, every piece of state the manual gives the part, and `State`, the part
with the queue of commands that wait for it. Registers that hold their own value are in `Chip.regs`, one 32-bit word
per key (Machine/Regs.lean), listed only where they differ from their reset value; everything the manual describes as a
table, a queue, a buffer or a mode is in the groups below. -/

namespace Sys2Proof.Machine

/-- Reasons the part stops with a fault. The manual gives the part no event at which it stops, so no meaning raises
one; the type has no constructor. Safe: nothing is cut short. -/
inductive Fault where
  deriving DecidableEq, Repr

/-- Reasons the model has no meaning for a command. -/
inductive Refusal where
  /-- A command the model does not describe; raised by an arm of `exec` only. Safe: the run stops. -/
  | notModelled (mnemonic : String)
  deriving DecidableEq, Repr

/-! Frames in the part -/

/-- A reference to a cell of a buffer die under the generation it was allocated with (R212). -/
structure CellRef where
  bdie : Nat
  cell : Nat
  gen : Nat
  deriving DecidableEq, Repr

/-- A frame inside the part (R257). `body` holds the class header and the payload; a frame that arrived in Ethernet
mode is held as Bulk under a made header, with its bytes from destination address to FCS in `body` and its 802.1Q tag
control field in `tci`. `tail` is the tailboard code it must end with, 0 for none (R274); `inPort` is 1024 for a frame
that this device made, and `pos` is then the grant position its cells leave from, none where it does not cross (R22,
R286). `num` is the number of its present crossing (R288), 0 for none. -/
structure Msg where
  hdr : BitVec 256
  body : List Byte
  eth : Bool
  tci : Option Nat
  stamp : Nat
  inPort : Nat
  tail : Nat
  cells : List CellRef
  coach : Option (Nat × Nat)
  gateWaited : Bool
  pos : Option Nat
  num : Nat
  deriving DecidableEq, Repr

/-- Rotation and deficits of one service by traffic class (R320): the place in the round (2 * TC, plus 1 when the TC has
had its deficit of this round), the next sub-queue by TC, and the deficits by TC. -/
structure Rot where
  rrTc : Nat
  rrSub : Tbl Nat
  deficit : Tbl Nat
  deriving DecidableEq, Repr

def Rot.reset : Rot := ⟨0, [], []⟩

/-- Egress state of one logical port (R316, R320): Control and Collective queues, the frames to be resent (R271), the
sub-queues of the 16 TC queues (key 3 * TC + sub-queue), the frame in transmission, the rotation of the service, and the
time since which the port has held nothing (R249). -/
structure Egress where
  ctl : List Msg
  col : List Msg
  again : List Msg
  sub : Tbl (List Msg)
  tx : Option Msg
  rot : Rot
  idleSince : Nat
  deriving DecidableEq, Repr

def Egress.empty : Egress := ⟨[], [], [], [], none, Rot.reset, 0⟩

/-- Cells of one frame that wait in a virtual output queue (R286, R288): the number of the crossing, the cells not yet
moved, whether the first has moved, the crossing that must end first (0 for none), the egress port, TC and sub-queue
that order level 2 (R321), whether it is an abort wave (R22), and the Ethernet ingress port and priority whose buffer it
fills (R256). -/
structure XItem where
  num : Nat
  cells : Nat
  started : Bool
  after : Nat
  port : Nat
  tc : Nat
  sub : Nat
  wave : Bool
  liv : Nat
  pfc : Option (Nat × Nat)
  deriving DecidableEq, Repr

/-- A sequenced frame kept for replay, with the number of times it was resent (R271, R272). -/
structure Kept where
  seq : Nat
  msg : Msg
  resent : Nat
  deriving DecidableEq, Repr

/-- Low-power idle progress of the transmitter of a logical port (R249, R250). -/
inductive LpiState where
  | awake | requested | asleep | waking
  deriving DecidableEq, Repr

/-- Link state of one logical port (R267 to R272, R249, R250); LNK_STAT and PRT_LPI_STAT hold the rest. `checked` is the
sequenced frame whose tail has been checked and that the command of its class has not met yet, with whether that command
may act on it (R270). `pfcUntil` is the time until which the partner pauses a priority and `pfcSent` the priorities that
this side has paused (R256); `rx` is the frame in reception with its stamp (R234, R269); in `pcs`, entry k names the
place at which PCS lane k is received and the delay that deskews it (R232). -/
structure Link where
  aligned : Bool
  initSent : Bool
  initRcvd : Bool
  txSeq : Nat
  ackedSeq : Nat
  replay : List Kept
  ackSeq : Nat
  checked : Option (Frame × Bool)
  adv : Tbl Nat
  freedRx : Tbl Nat
  spent : Tbl Nat
  freedTx : Tbl Nat
  ackSent : Nat
  freedSent : Tbl Nat
  lpi : LpiState
  refreshes : Nat
  negotiated : Bool
  pfcUntil : Tbl Nat
  pfcSent : BitVec 8
  rx : Option (Frame × Nat)
  pcs : List PcsMark
  deriving DecidableEq, Repr

def Link.reset : Link :=
  ⟨false, false, false, 0, 0xFFF, [], 0xFFF, none, [], [], [], [], 0xFFF, [], .awake, 0, false, [], 0, none, []⟩

/-! Coaches -/

/-- Phases of a coach slot (R114). -/
inductive Phase where
  | free | folding | sealed | packing | closed | aborting
  deriving DecidableEq, Repr

/-- CCH_STATE.PHASE (R114). -/
def Phase.code : Phase → Nat
  | .free => 0 | .folding => 1 | .sealed => 2 | .packing => 3 | .closed => 4 | .aborting => 5

/-- An accumulator (R67): the 320-bit value, its class flags, and the siding that holds it, if any (R74). -/
structure Acc where
  a : BitVec 320
  pinf : Bool
  ninf : Bool
  nan : Bool
  ovf : Bool
  siding : Option Nat
  deriving DecidableEq, Repr

/-- A zeroed accumulator (R67, R203). -/
def Acc.zero : Acc := ⟨0, false, false, false, false, none⟩

/-- A term to be folded into an accumulator (R69 to R71): the exact value on the accumulator grid and its class flags;
and, in ordered mode, the FP32 code it brings (R97). -/
structure Term where
  v : Int
  pinf : Bool
  ninf : Bool
  nan : Bool
  ovf : Bool
  code : W32
  deriving DecidableEq, Repr

/-- A frame of a contribution held at a coach die, with its staging cells (R199). -/
structure HeldFrame where
  first : Bool
  idx : Nat
  payload : List Byte
  tail : Nat
  stg : List Nat
  deriving DecidableEq, Repr

/-- A contribution that a coach has admitted (R106, R120): its contributor, the step it was sent for, its waybill
fields, the frames that wait to be folded, and how far it has come. -/
structure Contrib where
  lport : Nat
  carried : Bool
  sentStep : W32
  fmt : Nat
  prescale : W32
  frames : Nat
  stamp : Nat
  nextIdx : Nat
  broken : Bool
  held : List HeldFrame
  foldedFrames : Nat
  elems : Nat
  escapes : List (Nat × Nat)
  escSeen : Nat
  payload : List Byte
  ordered : Tbl W32
  deriving DecidableEq, Repr

/-- A term held for its element after a failed siding request (R210), or behind such a term, with its logical port
(R121): the first of an element's is the one whose request failed. `wide` says that a wide record brought it (R66). -/
structure HeldTerm where
  elem : Nat
  lport : Nat
  wide : Bool
  term : Term
  deriving DecidableEq, Repr

/-- Role of a coach in a grid collective (R160). -/
inductive Role where
  | alone | feeder | rowOwner | final
  deriving DecidableEq, Repr

/-- An entry that serves a step, with the bank that governs the step, T(s) and the step cycle in slots (R113, R164). -/
structure Served where
  ent : BitVec 512
  bank : Bool
  t : Int
  cyc : Nat
  deriving DecidableEq, Repr

/-- One coach slot (R111, R114 to R118). `expected` and `absent` are the expected contributors: the logical ports, and
the number of peers with no port (R160). `late` is the late-fold policy, `seeds` the livery's seeds at creation (R340),
`evaluated` that the deadline monitor has met the coach at its Td (R184), `lastCause` the cause of the slot's last
abort (R136); `outs` holds each output's payload and index, `outSent` the outputs whose frames have been sent out. -/
structure Coach where
  phase : Phase
  livery : Nat
  entry : Nat
  step : W32
  chunk : Nat
  bank : Bool
  ent : BitVec 512
  role : Role
  express : Bool
  late : Bool
  seeds : BitVec 1024
  evaluated : Bool
  lastCause : Nat
  td : Int
  tc : Int
  expected : BitVec 1024
  absent : Nat
  partialPort : Option Nat
  admitted : BitVec 1024
  carriedSet : BitVec 1024
  lateSet : BitVec 1024
  carriedAny : Bool
  recorded : Bool
  provisional : Bool
  elemBase : Nat
  elemCount : Nat
  seedRef : Nat
  ovfMode : Bool
  postscale : W32
  hint : Nat
  contribs : List Contrib
  accs : Tbl Acc
  holdq : List HeldTerm
  granules : List Nat
  cause : Nat
  rstat : Nat
  outs : List (List Byte × Nat)
  outSent : Nat
  deriving DecidableEq, Repr

/-- A FREE slot that has never held a coach. -/
def Coach.empty : Coach :=
  { phase := .free, livery := 0, entry := 0, step := 0, chunk := 0, bank := false, ent := 0, role := .alone,
    express := false, late := false, seeds := 0, evaluated := false, lastCause := 0, td := 0, tc := 0, expected := 0, absent := 0, partialPort := none, admitted := 0, carriedSet := 0,
    lateSet := 0, carriedAny := false, recorded := false, provisional := false, elemBase := 0, elemCount := 0,
    seedRef := 0, ovfMode := false, postscale := 0, hint := 0, contribs := [], accs := [], holdq := [], granules := [],
    cause := 0, rstat := 0, outs := [], outSent := 0 }

/-- An abort mark of one coach die (R131). -/
structure Mark where
  livery : Nat
  entry : Nat
  step : W32
  td : Int
  deriving DecidableEq, Repr

/-- A first frame that waits for creation, with the continuations that wait behind it (R117); `target` is the step the
contribution would fold into, which differs from its own when it is carried (R128). -/
structure Waiting where
  lport : Nat
  wb : BitVec 256
  stamp : Nat
  target : W32
  carried : Bool
  sv : Served
  td : Int
  frames : List HeldFrame
  deriving DecidableEq, Repr

/-- What the lateness record of one entry and step still needs of a coach that has left its slot (R190). -/
structure LateNote where
  livery : Nat
  entry : Nat
  step : W32
  td : Int
  chunk : Nat
  ent : BitVec 512
  expected : BitVec 1024
  late : BitVec 1024
  arrivals : List (Nat × Nat)
  deriving DecidableEq, Repr

/-- A contributor whose first frame was classed late for a key that no coach and no note of this die holds yet (R191):
it counts for the coach of that key, should one be created before Td. -/
structure LateMark where
  livery : Nat
  entry : Nat
  step : W32
  chunk : Nat
  lport : Nat
  td : Int
  deriving DecidableEq, Repr

/-- A fold ledger or digest record that waits to be sent, with the time at which it was written (R188, R419). -/
structure BatchRec where
  word : BitVec 256
  written : Nat
  deriving DecidableEq, Repr

/-- A power hint of a coach die (R390): its level, and when it starts and ends. -/
structure Hint where
  level : Nat
  start : Nat
  until_ : Nat
  deriving DecidableEq, Repr

/-- The coach part of one coach die. -/
structure CchDie where
  slots : Tbl Coach
  marks : List Mark
  waiting : List Waiting
  notes : List LateNote
  lates : List LateMark
  deriving DecidableEq, Repr

def CchDie.empty : CchDie := ⟨[], [], [], [], []⟩

/-- An open-contribution record of a logical port (R110). -/
structure OpenRec where
  livery : Nat
  entry : Nat
  step : W32
  chunk : Nat
  frames : Nat
  cdie : Nat
  entLivery : Nat
  sent : Nat
  td : Int
  deriving DecidableEq, Repr

/-- The coach state of the part: 16 coach dies, the open-contribution records by logical port, the fold ledger batches
and sequence numbers by coach die and livery (R188), the power hints by coach die (R390). -/
structure CoachSt where
  dies : Tbl CchDie
  openRecs : Tbl (List OpenRec)
  ledger : Tbl (List BatchRec)
  ledgerSeq : Tbl Nat
  hints : Tbl (List Hint)
  deriving DecidableEq, Repr

/-! Timetable, routes and tables -/

/-- The last accepted swap of a livery (R171): the first step of the new bank, T(S), the old cycle in slots, and the
first step of the bank before, where an earlier swap set one: no entry serves a step before it. -/
structure SwapSt where
  step : W32
  t : Int
  cOld : Nat
  before : Option W32
  deriving DecidableEq, Repr

/-- The timetable (R168, R174, R175): entries by bank * 65536 + index, contributor sets by bank * 4096 + index, the
last swap by livery. -/
structure TtSt where
  entries : Tbl (BitVec 512)
  csets : Tbl (BitVec 1024)
  swaps : Tbl (Option SwapSt)
  deriving DecidableEq, Repr

/-- A range of destination groups that drains (R296), with the frames held for it in arrival order. -/
structure Drain where
  first : Nat
  last : Nat
  since : Nat
  slow : Bool
  held : List Msg
  deriving DecidableEq, Repr

/-- Lost targets of a livery (R306, R307): its ports, the ports for which a frame was lost or discarded, the frames held,
and the start of the teardown timer. -/
structure LostSt where
  ports : List Nat
  gaps : List Nat
  held : List (Nat × Msg)
  since : Nat
  deriving DecidableEq, Repr

def LostSt.none : LostSt := ⟨[], [], [], 0⟩

/-- Routing state (R291, R296, R299, R303, R306, R310): route entries by bank * 262144 + EID, group entries, address
entries by bucket * 4 + way, the draining swap, lost targets by livery, mirror frame counts by session. -/
structure RteSt where
  routes : Tbl (BitVec 64)
  groups : Tbl (BitVec 1152)
  addrs : Tbl (BitVec 256)
  drain : Option Drain
  lost : Tbl LostSt
  mirrored : Tbl Nat
  deriving DecidableEq, Repr

/-- A put counter (R147, R263). -/
structure PutCtr where
  busy : Bool
  livery : Nat
  srcEid : Nat
  tag : Nat
  stage : Nat
  arrPort : Nat
  inCtr : Nat
  tc : Nat
  branches : Nat
  answered : Nat
  expected : Nat
  arrived : Nat
  failed : Nat
  opened : Nat
  deriving DecidableEq, Repr

def PutCtr.closed : PutCtr := ⟨false, 0, 0, 0, 0, 0, 0, 0, 0, 0, 0, 0, 0, 0⟩

/-- A shaper's token count in 1/8 byte, its pending set, and the time at which that set was applied (R322, R323). -/
structure Shaper where
  tokens : Int
  rate : Nat
  burst : Nat
  pending : Option (Nat × Nat)
  applied : Nat
  deriving DecidableEq, Repr

/-- A shaper at reset: no tokens, RATE 0, BURST 0x4000, nothing pending. -/
def Shaper.reset : Shaper := ⟨0, 0, 0x4000, none, 0⟩

/-- Watermark and sampling state of one TC queue (R330, R331). -/
structure QueueSt where
  armed : Bool
  delayMax : Nat
  sampDepth : Nat
  sampDelay : Nat
  deriving DecidableEq, Repr

def QueueSt.reset : QueueSt := ⟨true, 0, 0, 0⟩

/-- Gate state of a logical port (R325, R328): the operative list, whether a switch is pending, the time it takes
effect, and the gates now open. -/
structure GateSt where
  oper : Bool
  pending : Bool
  at_ : Int
  gates : BitVec 16
  deriving DecidableEq, Repr

def GateSt.reset : GateSt := ⟨false, false, 0, 0xFFFF⟩

/-- A frame held by a flow shaper or diverted from a coach die, at its port die (R324, R208); a memory multicast put
that a flow shaper holds names its counter. -/
structure Diverted where
  pdie : Nat
  dest : Nat
  lport : Nat
  msg : Msg
  put : Option Nat
  deriving DecidableEq, Repr

/-- Traffic state: egress by logical port, flow entries by bucket * 4 + way, shapers by shaper number of the die
(key die * 4096 + number), queue state by logical port * 16 + TC, gates by logical port, frames held by flow shapers
and diverted frames in arrival order, the virtual output queues (R286) by input position, destination attachment and
level, the rotation of level 2 by input position * 1024 + egress port (R321), the number of the last crossing, the
scheduler's pointers (R288), the time of the last cell time with its slot and the cell times begun in it (R384), and by port
die the slot after that of the last refill (R322). -/
structure TrafSt where
  eg : Tbl Egress
  flows : Tbl (BitVec 256)
  shapers : Tbl Shaper
  queues : Tbl QueueSt
  gates : Tbl GateSt
  flowHeld : List Diverted
  diverted : List Diverted
  voq : Tbl (List XItem)
  xrot : Tbl Rot
  xnum : Nat
  gptr : Tbl Nat
  aptr : Tbl Nat
  xlast : Option Nat
  xslot : Nat
  xstarted : Nat
  refilled : Tbl Nat
  deriving DecidableEq, Repr

/-! Pools and memory banks -/

/-- A cell of a buffer die (R211, R212): its count, its generation, whether it is quarantined,
and the livery that last held it. -/
structure Cell where
  refs : Nat
  gen : Nat
  quarantined : Bool
  lastOwner : Nat
  deriving DecidableEq, Repr

def Cell.reset : Cell := ⟨0, 0, false, 0⟩

/-- Pool state: owner + 1 of every allocated unit (key (die * 8 + pool) * 2^20 + unit; owner 256 is the Control
cells), units in use and level by (die * 8 + pool) * 256 + livery, the levels the port dies act on, the cells by
buffer die * 262144 + cell, the Control cells in use by buffer die, and the cell whose quarantine release runs. -/
structure PoolSt where
  owner : Tbl Nat
  used : Tbl Nat
  level : Tbl Nat
  known : Tbl Nat
  cells : Tbl Cell
  ctlUsed : Tbl Nat
  quarRun : Tbl (Option Nat)
  deriving DecidableEq, Repr

/-- Retention state of a bank (R221, R222). -/
inductive RetSt where
  | awake | entering | committed | retained | waking
  deriving DecidableEq, Repr

/-- Memory bank state by die * 256 + bank: retention and since when it changes, and the time of the last access; the spare
rows and columns in use by (die * 256 + bank) * 4 + subarray (R220); the command of the running march by die (R218). -/
structure BankSt where
  ret : Tbl RetSt
  retSince : Tbl Nat
  touched : Tbl Nat
  spares : Tbl (Nat × Nat)
  march : Tbl (Option W32)
  deriving DecidableEq, Repr

/-! Lanes and ports -/

/-- Transmit synthesiser of one physical port (R237, R238). -/
inductive SynthSt where
  | off | settling | calibrating | ready
  deriving DecidableEq, Repr

/-- The pattern checker of a lane (R244): the pattern bits last received or predicted, how many of them have been loaded,
the pairs last received, the correct symbols in a row, and, while it is locked, the position in a pattern that is no
PRBS and which of the last 256 symbols were in error. -/
structure ChkSt where
  reg : Nat
  loaded : Nat
  pairs : List (BitVec 2)
  run : Nat
  at_ : Nat
  window : List Bool
  deriving DecidableEq, Repr

def ChkSt.reset : ChkSt := ⟨0, 0, [], 0, 0, []⟩

/-- Lane state beyond SDS_LANE_STAT (R236, R240 to R248): taps in use, the bits checked,
whether a settle window waits for CDR lock, whether one opened in the present eye window, the precoding that training
chose, whether the receiver's adaptation is frozen, the symbols injected, the state of the precoder and of the decoder,
the checker, and the injection: whether one waits for
the lane to leave electrical idle, and the time at which one that runs ends. -/
structure LaneSt where
  taps : W32
  chkBits : Nat
  settleWaits : Bool
  eyeDirty : Bool
  precodeTx : Bool
  precodeRx : Bool
  frozen : Bool
  injected : Nat
  txPrev : Nat
  rxPrev : Nat
  chk : ChkSt
  injWaits : Bool
  injEnd : Nat
  deriving DecidableEq, Repr

def LaneSt.reset : LaneSt := ⟨0x1F8000, 0, false, false, false, false, false, 0, 0, 0, ChkSt.reset, false, 0⟩

/-- SerDes and link state: synthesiser by physical port, lane state by lane, link state by logical port. -/
structure PortSt where
  synth : Tbl SynthSt
  lanes : Tbl LaneSt
  links : Tbl Link
  deriving DecidableEq, Repr

/-! Time, events and snapshots -/

/-- Fabric time (R10, R278 to R282): the count and its fraction in 2^-40 units, whether it runs, the slew not yet
applied in 2^-40 units (R281), T_snap of the last snapshot (R429), the time at which the PPS output falls again, the
servo intervals within its lock range (R441), and how often the count has wrapped (R278). -/
structure TimeSt where
  now : Nat
  wraps : Nat
  frac : Nat
  running : Bool
  slew : Int
  snpTime : Nat
  ppsUp : Option Nat
  servoGood : Nat
  deriving DecidableEq, Repr

/-- The event queue and the interrupts (R376, R424): the ring by slot, the number of records placed, the number firmware
has committed, the next SEQ, the last time of each rate limit by code * 2^16 + scope, the last interrupt of vector 0 and
whether one waits for the end of the pause, the messages sent by vector, the MSI-X table by word (a vector control word
is masked while unlisted) and its pending bits. -/
structure EvSt where
  ring : Tbl (BitVec 256)
  placed : Nat
  taken : Nat
  seq : Nat
  rate : Tbl (Option Nat)
  irqLast : Option Nat
  irqWait : Bool
  irqs : Tbl Nat
  msixMem : Tbl W32
  msixPend : BitVec 6
  deriving DecidableEq, Repr

/-- Snapshot trigger state (R428, R429): the latch time, until when the SNAP_OUT pin is
high; the shadows of page p at word w have the key p * 1024 + w. -/
structure SnapSt where
  due : Option Nat
  shadows : Tbl W32
  outUp : Option Nat
  deriving DecidableEq, Repr

/-! Faults, waves and pairing -/

/-- Copies of an abort wave to be sent once more (R410): the owner's coach die, the collective, and each copy with its
port. -/
structure WaveRep where
  die : Nat
  livery : Nat
  entry : Nat
  step : W32
  due : Nat
  copies : List (Nat × BitVec 256)
  deriving DecidableEq, Repr

/-- A digest record that has not met its match (R420). -/
structure DigRec where
  word : BitVec 256
  own : Bool
  since : Nat
  deriving DecidableEq, Repr

/-- How a step of the reference livery stands in trailer mode (R421). -/
structure TrailStep where
  matched : Nat
  dirty : Bool
  deriving DecidableEq, Repr

def TrailStep.none : TrailStep := ⟨0, false⟩

/-- Lane clusters of a coach die (R414, R415): those fenced, the spares (80 to 83) mapped in and tested, the clusters
that a spare has replaced, and the cluster whose repair runs. -/
structure LaneDie where
  fenced : BitVec 84
  mapped : BitVec 84
  tested : BitVec 84
  replaced : BitVec 84
  target : Option Nat
  deriving DecidableEq, Repr

def LaneDie.reset : LaneDie := ⟨0, 0, 0, 0, none⟩

/-- Fault state: failed dies, lane clusters by coach die, wave copies to repeat, digest batches by livery and the
unmatched records, the trailer's steps with the last one judged, the step of a promotion to come and the time of the one
that took place, the device held out of service. -/
structure FltSt where
  failed : BitVec 32
  lanes : Tbl LaneDie
  waves : List WaveRep
  digBatch : Tbl (List BatchRec)
  digs : List DigRec
  trail : Tbl TrailStep
  trailJudged : Option W32
  promoteDue : Option W32
  suppressUntil : Option Nat
  fatal : Bool
  deriving DecidableEq, Repr

/-! Security, firmware, power, start-up -/

/-- A token in check (R349): its 288 bytes, the challenge that stood at the submission, if one was valid, and whether a
tamper event has come since. -/
structure TokenCheck where
  token : List Byte
  chal : Option (BitVec 128)
  tampered : Bool
  deriving DecidableEq, Repr

/-- Telemetry as TELEM_CFG set it (R426): the host buffer, the period in ms, and the next free position. -/
structure Telem where
  base : Nat
  size : Nat
  period : Nat
  pos : Nat
  deriving DecidableEq, Repr

/-- A mailbox request that firmware has started and not yet answered (R364): its queue, its header and its payload. -/
structure Started where
  queue : Nat
  hdr : BitVec 128
  payload : List Byte
  deriving DecidableEq, Repr

/-- Security state: seeds by livery * 16 + index and the staged seed (R340), energy in microjoules by livery (key 256:
unattributed, R341); the secure store by byte address (R343; an unlisted byte is 0) and the writes to it that wait for a
wipe to end (R344); whether key derivation is refused until the next cold start (R346), the failed passes of the
wipe (R345); the fuses: life-cycle state, whether its group is only partly blown, owner hash, erasure of the root secret
(R348) and device identifier; a transition under way with the owner hash to fuse, whether the security engine programs the
group of the state that it has entered, the scope that opens after the wipe (R350), the token in check, and the
instruction in the TAP (R462). -/
structure SecSt where
  seeds : Tbl W64
  seedStage : W64
  energy : Tbl Nat
  store : Tbl Byte
  storeWaits : List (Nat × List Byte)
  keyLock : Bool
  wipePass : Nat
  life : Nat
  partGroup : Bool
  ownerHash : BitVec 384
  rootErased : Bool
  deviceId : BitVec 128
  transition : Option (Nat × BitVec 384)
  programming : Bool
  scopePending : Option (BitVec 8)
  checking : Option TokenCheck
  tap : TapInstr
  deriving DecidableEq, Repr

/-- Firmware and flash (R354 to R376): the flash by address (R357; an unlisted byte is erased, 0xFF), the management SRAM
by byte address (R354; an unlisted byte is 0), the header of the running image ([] for none), its slot and load region, the slot of a hitless update
under way, whether its image has been loaded and checked (R370 step 3), whether the mailboxes are quiesced, the requests
that are started, and by queue the doorbell times of those that are not (R364, R366), whether the boot ROM waits to start and whether for a cold start, the
fused SVN and the revoked keys, the last watchdog expiry by core, the firmware starts, telemetry with its SEQ and the
periods shed, the next page of the log ring and its page SEQ, and the calibration slot being written (R398). -/
structure FwSt where
  flash : Tbl Byte
  sram : Tbl Byte
  image : List Byte
  slot : Option Nat
  region : Nat
  update : Option Nat
  loaded : Bool
  quiesced : Bool
  started : List Started
  doorbells : Tbl (List Nat)
  bootWaiting : Bool
  coldBoot : Bool
  fuseSvn : Nat
  revoked : BitVec 4
  coreLast : Tbl (Option Nat)
  starts : Nat
  telem : Option Telem
  telemSeq : Nat
  telemShed : Nat
  logPage : Nat
  logSeq : Nat
  calSaving : Option Nat
  deriving DecidableEq, Repr

/-- Calibration of a die's power estimate (R382): gain, offset in W, and the last pairs (E, M). -/
structure CalDie where
  gain : Rat
  offset : Rat
  pairs : List (Rat × Rat)
  deriving DecidableEq, Repr

def CalDie.reset : CalDie := ⟨1, 0, []⟩

/-- A rail (R380, R392, R393): whether its regulator is on, the output in mV from which it slews and the time at which
that slew began, the consecutive suspect evaluations by phase, and the phases whose sensors have failed. -/
structure RailSt where
  on : Bool
  start : Nat
  since : Nat
  suspect : Tbl Nat
  badSense : BitVec 8
  deriving DecidableEq, Repr

def RailSt.off : RailSt := ⟨false, 0, 0, [], 0⟩

/-- Activity events (R381, R383), by `actKey`: those since the last refresh of the estimates and those since the last
attribution, with the energy of that time in µJ that belongs to no livery, and what is left of each energy counter's
energy below 1 µJ. -/
structure ActSt where
  due : Tbl Nat
  work : Tbl Nat
  idle : Rat
  rest : Tbl Rat
  deriving DecidableEq, Repr

/-- Power and thermal state (R377 to R402): rails, current-limit allowances by rail, budget allowances by domain (an
unlisted one is unlimited), the energy coefficients in pJ by die * 6 + kind and the phase-sense and thermal-sensor trims,
none while those of the fuses stand (R397, R399), calibration by die with the dies in estimate-only control until their
first interval (R399), raw estimates by die with their sums and number since the last calibration interval of the die
(R382), mean measured powers by die, the learned profile (the means of the last 64 step cycles by
bin * 18 + series), the sums and the count of the present bin, the present bin, the bins learned, the bins that wait for
the next computation and the time of the last one (R388, R389), supply loss, the invalid sensors, the consecutive
deviant readings by sensor and hot readings by die (R400, R402), whether the rails
are off after a trip, and whether the conditions for restoring them have been met. -/
structure PwrSt where
  rails : Tbl RailSt
  ilim : Tbl (Option Nat)
  budget : Tbl (Option Nat)
  coeffs : Option (List (BitVec 32))
  trims : Option (List Byte)
  cals : Tbl CalDie
  estOnly : BitVec 32
  estimate : Tbl Rat
  estSum : Tbl Rat
  estN : Tbl Nat
  measured : Tbl Rat
  profile : Tbl (List Rat)
  binSum : Tbl Rat
  binN : Nat
  curBin : Option Nat
  binsLearned : Nat
  binPend : List Nat
  binLast : Option Nat
  vinLost : Bool
  badSensors : BitVec 256
  sensorDiff : Tbl Nat
  hot : Tbl Nat
  tripped : Bool
  cooled : Bool
  deriving DecidableEq, Repr

/-- Start-up, reset pins and SMBus (R431 to R446, R458 to R464): the end of STANDBY, the pass of the M0 march, VIN_3V3,
the rail group that ramps (1 to 3, 4 when all are up, R432), the low pins, a warm reset under way and whether it has
cleared the main half, a cold start that is due, ALERT_SRC, the address strap, and the last-gasp capture buffer (R422). -/
structure BootSt where
  standbyDone : Bool
  m0Marched : Bool
  vin3v3 : Bool
  railGroup : Nat
  pwronLow : Bool
  warmLow : Bool
  perstLow : Bool
  warmActive : Bool
  warmCleared : Bool
  coldDue : Option ColdSource
  alertSrc : BitVec 16
  smbAddr : BitVec 3
  gasp : Option (List Byte)
  deriving DecidableEq, Repr

/-- A frame as it left a port (R264, R276, R279): its port, its bytes with the trailer, whether the PCS marked its last
block as an error, and its egress stamp. -/
structure TxFrame where
  port : Nat
  bytes : List Byte
  errorBlock : Bool
  stamp : Nat
  deriving DecidableEq, Repr

/-- What the part last put on the outside: the value a register read returned, the bytes of the last SMBus answer and
whether it was acknowledged, the frames handed to M0, the number of frames sent and the last of them, the last levels
that an injection put on a lane (R245), and the last write to host memory (address and bytes). -/
structure OutSt where
  rdata : W32
  smb : List Byte
  acked : Bool
  toM0 : List Msg
  sent : Nat
  tx : Option TxFrame
  levels : Option (Nat × List Int)
  dma : Option (Nat × List Byte)
  deriving DecidableEq, Repr

/-- Every piece of state of the part. `fresh` is the model's own counter: each value that the manual leaves open is
`Config` applied to it, and it advances. -/
structure Chip where
  regs : Tbl W32
  time : TimeSt
  ev : EvSt
  snap : SnapSt
  coach : CoachSt
  tt : TtSt
  rte : RteSt
  puts : Tbl PutCtr
  traf : TrafSt
  pool : PoolSt
  bank : BankSt
  port : PortSt
  flt : FltSt
  sec : SecSt
  fw : FwSt
  pwr : PwrSt
  act : ActSt
  boot : BootSt
  out : OutSt
  fresh : Nat
  deriving DecidableEq, Repr

/-- The part and the commands that wait for it, first in, first out. -/
structure State where
  chip : Chip
  pending : List Instr
  deriving DecidableEq, Repr

/-! Reset -/

/-- The part right after VIN_3V3 has risen (R433, R436, R444): the STANDBY phase of a cold start, every register at
its reset value, every table empty, nothing in the part. -/
def Chip.reset : Chip :=
  { regs := []
    time := { now := 0, wraps := 0, frac := 0, running := false, slew := 0, snpTime := 0, ppsUp := none, servoGood := 0 }
    ev := { ring := [], placed := 0, taken := 0, seq := 0, rate := [], irqLast := none, irqWait := false, irqs := [],
            msixMem := [], msixPend := 0 }
    snap := { due := none, shadows := [], outUp := none }
    coach := { dies := [], openRecs := [], ledger := [], ledgerSeq := [], hints := [] }
    tt := { entries := [], csets := [], swaps := [] }
    rte := { routes := [], groups := [], addrs := [], drain := none, lost := [], mirrored := [] }
    puts := []
    traf := { eg := [], flows := [], shapers := [], queues := [], gates := [], flowHeld := [], diverted := [],
              voq := [], xrot := [], xnum := 0, gptr := [], aptr := [], xlast := none, xslot := 0, xstarted := 0, refilled := [] }
    pool := { owner := [], used := [], level := [], known := [], cells := [], ctlUsed := [], quarRun := [] }
    bank := { ret := [], retSince := [], touched := [], spares := [], march := [] }
    port := { synth := [], lanes := [], links := [] }
    flt := { failed := 0, lanes := [], waves := [], digBatch := [], digs := [], trail := [], trailJudged := none,
             promoteDue := none, suppressUntil := none, fatal := false }
    sec := { seeds := [], seedStage := 0, energy := [], store := [], storeWaits := [], keyLock := false,
             wipePass := 0, life := 0, partGroup := false, ownerHash := 0, rootErased := false, deviceId := 0, transition := none,
             programming := false, scopePending := none, checking := none, tap := .idcode }
    fw := { flash := [], sram := [], image := [], slot := none, region := 0, update := none, loaded := false,
            quiesced := false, started := [], doorbells := [],
            bootWaiting := false, coldBoot := true, fuseSvn := 0, revoked := 0, coreLast := [], starts := 0,
            telem := none, telemSeq := 0, telemShed := 0, logPage := 0, logSeq := 0, calSaving := none }
    pwr := { rails := [(68, ⟨true, 0, 0, [], 0⟩), (69, ⟨true, 0, 0, [], 0⟩), (70, ⟨true, 800, 0, [], 0⟩)],
             ilim := [], budget := [], coeffs := none, trims := none, cals := [], estOnly := 0, estimate := [],
             estSum := [], estN := [], measured := [],
             profile := [], binSum := [], binN := 0, curBin := none, binsLearned := 0, binPend := [], binLast := none,
             vinLost := false, badSensors := 0, sensorDiff := [], hot := [], tripped := false, cooled := false }
    act := { due := [], work := [], idle := 0, rest := [] }
    boot := { standbyDone := false, m0Marched := false, vin3v3 := true, railGroup := 0, pwronLow := false,
              warmLow := false, perstLow := false, warmActive := false, warmCleared := false, coldDue := none,
              alertSrc := 0, smbAddr := 0, gasp := none }
    out := { rdata := 0, smb := [], acked := false, toM0 := [], sent := 0, tx := none, levels := none, dma := none }
    fresh := 0 }

/-- The machine right after reset: no command waits. -/
def State.reset : State := { chip := Chip.reset, pending := [] }

end Sys2Proof.Machine
end

