-- ==== Sys2Proof/Machine/Ops.lean ====
section
/-! DEFINITION. The shared operations over registers, counters, time and port configuration, and the one form in which
a meaning answers: `State.run`. -/

namespace Sys2Proof.Machine

/-! Registers -/

/-- The value held by instance `inst` of a register. -/
def Chip.reg (c : Chip) (page off : Nat) (inst : Nat := 0) : W32 :=
  Tbl.get (regReset (regKey page off inst)) c.regs (regKey page off inst)

/-- Give a register a value. -/
def Chip.setReg (c : Chip) (page off : Nat) (v : W32) (inst : Nat := 0) : Chip :=
  { c with regs := Tbl.set (regReset (regKey page off inst)) c.regs (regKey page off inst) v }

/-- A field of a register. -/
def Chip.field (c : Chip) (page off lo w : Nat) (inst : Nat := 0) : Nat := fld (c.reg page off inst) lo w

/-- One bit of a register. -/
def Chip.flag (c : Chip) (page off i : Nat) (inst : Nat := 0) : Bool := (c.reg page off inst).getLsbD i

/-- Give a field of a register a value. -/
def Chip.setField (c : Chip) (page off lo w v : Nat) (inst : Nat := 0) : Chip :=
  c.setReg page off (putFld (c.reg page off inst) lo w v) inst

/-- Set or clear one bit of a register. -/
def Chip.setFlag (c : Chip) (page off i : Nat) (b : Bool) (inst : Nat := 0) : Chip :=
  c.setField page off i 1 b.toNat inst

/-- Add to a free-running 32-bit counter, which wraps to 0. -/
def Chip.bumpN (c : Chip) (page off n : Nat) (inst : Nat := 0) : Chip :=
  c.setReg page off (BitVec.ofNat 32 ((c.reg page off inst).toNat + n)) inst

/-- Count one event in a free-running counter. -/
def Chip.bump (c : Chip) (page off : Nat) (inst : Nat := 0) : Chip := c.bumpN page off 1 inst

/-- Count in a saturating 32-bit counter (R246). -/
def Chip.bumpSat (c : Chip) (page off n : Nat) (inst : Nat := 0) : Chip :=
  c.setReg page off (BitVec.ofNat 32 (min 0xFFFFFFFF ((c.reg page off inst).toNat + n))) inst

/-! Time -/

/-- Fabric-time units in a nanosecond (R10). -/
def nsUnits (n : Nat) : Nat := n * 256
/-- Fabric-time units in a microsecond. -/
def usUnits (n : Nat) : Nat := n * 256000
/-- Fabric-time units in a slot (R10). -/
def slotUnits : Nat := 65536

/-- The slot boundary at which the present slot started (R165). -/
def Chip.slotStart (c : Chip) : Nat := c.time.now / slotUnits * slotUnits

/-! Start-up phase and page service -/

/-- PWR_BOOT_STAT.PHASE (R445). -/
def Chip.phase (c : Chip) : Nat := c.field pgPwr 0x1078 0 3

def phStandby : Nat := 0
def phRails : Nat := 1
def phTrain : Nat := 2
def phMarch : Nat := 3
def phLaneTest : Nat := 4
def phReady : Nat := 5
def phHalted : Nat := 6

/-- Whether a die has failed (R416, R417). -/
def Chip.dieFailed (c : Chip) (die : Nat) : Bool := c.flt.failed.getLsbD die

/-- Whether the main half is out of reset and powered: READY, no reset under way, no trip (R402, R440, R443, R458). -/
def Chip.mainOn (c : Chip) : Bool :=
  decide (c.phase = phReady) && !c.boot.warmActive && !c.boot.pwronLow && c.boot.coldDue.isNone && !c.pwr.tripped

/-- Whether the main half still sends what it holds: it is on, and the device is in service (R417). -/
def Chip.sending (c : Chip) : Bool := c.mainOn && !c.flt.fatal

/-- Whether the main half works: no supply loss has taken the device out of service (R422). -/
def Chip.mainUp (c : Chip) : Bool := c.sending && !c.pwr.vinLost

/-- Whether the standby half works: VIN_3V3 stands, and no cold reset is held (R431, R458). -/
def Chip.standbyUp (c : Chip) : Bool := c.boot.vin3v3 && !c.boot.pwronLow

/-- Whether a page serves its registers (R476, R440, R485). -/
def Chip.serves (c : Chip) (page : Nat) : Bool :=
  match pageOf page with
  | none => false
  | some (_, die) =>
    if 30 ≤ die then c.boot.standbyDone && c.standbyUp && !c.dieFailed die
    else c.mainOn && !c.dieFailed die

/-! Firmware state (R375) -/

def fwStat : Nat := 0x1000
def stRom : Nat := 0
def stRecovery : Nat := 1
def stRunning : Nat := 2
def stHandover : Nat := 3
def stRollback : Nat := 4

/-- MBX_FW_STAT.STATE. -/
def Chip.fwState (c : Chip) : Nat := c.field (pgMbx 0) fwStat 0 3

/-! Port configuration (R17, R230, R231) -/

def portDie (p : Nat) : Nat := p / 128
def physOf (p : Nat) : Nat := p / 4

/-- Offset of PRT_CFG of a physical port in the PRT page of its die. -/
def prtCfgOff (pp : Nat) : Nat := 0x1000 + 4 * (pp % 32)

def Chip.prtCfg (c : Chip) (pp : Nat) : W32 := c.reg (pgPrt (pp / 32)) (prtCfgOff pp)
def Chip.split (c : Chip) (pp : Nat) : Nat := fld (c.prtCfg pp) 0 2
def Chip.rate (c : Chip) (pp : Nat) : Nat := fld (c.prtCfg pp) 2 2

/-- Whether a logical port number is in use under a SPLIT code. -/
def usedUnder (split p : Nat) : Bool :=
  match split with
  | 0 => p % 4 = 0 | 1 => p % 2 = 0 | 2 => true | _ => p % 8 = 0

/-- Whether a logical port number is in use in the present configuration. -/
def Chip.inUse (c : Chip) (p : Nat) : Bool := p < 1024 && usedUnder (c.split (physOf p)) p

/-- Lanes of a logical port under a SPLIT code (R230). -/
def lanesUnder (split : Nat) : Nat := match split with | 0 => 4 | 1 => 2 | 2 => 1 | _ => 8

/-- Payload rate of a lane in Gb/s (R228). -/
def laneRate (rate : Nat) : Nat := match rate with | 0 => 200 | 1 => 100 | _ => 50

def Chip.portLanes (c : Chip) (p : Nat) : Nat := lanesUnder (c.split (physOf p))

/-- Logical port rate in Gb/s (R230). -/
def Chip.portRate (c : Chip) (p : Nat) : Nat := laneRate (c.rate (physOf p)) * c.portLanes p

/-- The EN bit of a logical port (R233). -/
def Chip.enabled (c : Chip) (p : Nat) : Bool := c.inUse p && (c.prtCfg (physOf p)).getLsbD (4 + p % 4)

/-- The physical ports a logical port uses: two when joined (R231). -/
def Chip.physPorts (c : Chip) (p : Nat) : List Nat :=
  if c.split (physOf p) = 3 then [physOf p, physOf p + 1] else [physOf p]

/-- The lanes a logical port uses, lowest first (R17). -/
def Chip.lanesOf (c : Chip) (p : Nat) : List Nat := (List.range (c.portLanes p)).map (fun i => p + i)

/-- The logical port a lane belongs to in the present configuration. -/
def Chip.portOfLane (c : Chip) (l : Nat) : Nat :=
  match c.split (l / 4) with
  | 0 => l / 4 * 4 | 1 => l / 2 * 2 | 2 => l | _ => l / 8 * 8

/-- Narjo mode (R254). -/
def Chip.narjo (c : Chip) (p : Nat) : Bool := c.flag (pgLnk (portDie p)) 0x1004 0 (p % 128)

def Chip.link (c : Chip) (p : Nat) : Link := Tbl.get Link.reset c.port.links p
def Chip.setLink (c : Chip) (p : Nat) (l : Link) : Chip :=
  { c with port := { c.port with links := Tbl.set Link.reset c.port.links p l } }

/-- Whether the link of a logical port is up: UP in Narjo mode, PCS aligned in Ethernet mode (R292). -/
def Chip.linkUp (c : Chip) (p : Nat) : Bool :=
  if c.narjo p then c.flag (pgLnk (portDie p)) 0x1008 0 (p % 128) else (c.link p).aligned

/-- Whether the ingress-buffer bank of a logical port's physical port works: not fenced (R198). -/
def Chip.portBank (c : Chip) (p : Nat) : Bool := !c.flag (pgMemP (portDie p)) 0x1040 (physOf p % 32 / 4)

/-- Whether a logical port can work: enabled, on a die and an ingress-buffer bank in service (R198, R233, R417). -/
def Chip.portWorks (c : Chip) (p : Nat) : Bool := c.enabled p && !c.dieFailed (portDie p) && c.portBank p

/-- Whether a logical port is up (R292). -/
def Chip.portUp (c : Chip) (p : Nat) : Bool := c.portWorks p && c.linkUp p

/-- The die-local counter page and offset helper of the LNK page of a port. -/
def Chip.bumpLnk (c : Chip) (p off : Nat) : Chip := c.bump (pgLnk (portDie p)) off

/-! Liveries (R335 to R338) -/

def Chip.livValid (c : Chip) (l : Nat) : Bool := c.flag pgLiv 0x1004 0 l
def Chip.livPermit (c : Chip) (l cls : Nat) : Bool := c.flag pgLiv 0x1004 (1 + cls) l
def Chip.livPort (c : Chip) (l p : Nat) : Bool := c.flag pgLiv (0x1100 + 4 * (p / 32)) (p % 32) l
def Chip.livGroup (c : Chip) (l dg : Nat) : Bool := c.flag pgLiv (0x1200 + 4 * (dg / 32)) (dg % 32) l
def Chip.livMc (c : Chip) (l g : Nat) : Bool :=
  decide (c.field pgLiv 0x100C 0 14 l ≤ g ∧ g ≤ c.field pgLiv 0x100C 16 14 l)
def Chip.trust (c : Chip) (p : Nat) : Bool := c.flag pgLiv 0x1044 31 p
def Chip.portEid (c : Chip) (p : Nat) : Nat := c.field pgLiv 0x1044 0 18 p

/-- RTE_SELF_EID. -/
def Chip.selfEid (c : Chip) : Nat := c.field pgRte 0x1028 0 18

/-- A livery violation (R338): counted, and the last one recorded; nothing else. No single port: `none`. -/
def Chip.violation (c : Chip) (l cause : Nat) (p : Option Nat) : Chip :=
  let last := match p with
    | some q => cause + q * 0x10 + 0x80000000
    | none => cause + 0x4000 + 0x80000000
  (c.bump pgLiv 0x1020 l).setReg pgLiv 0x1024 (BitVec.ofNat 32 last) l

/-- Put timeout of a livery in µs, clamped (R335, LIV_CTRL). -/
def Chip.putTimeout (c : Chip) (l : Nat) : Nat := min 1000 (max 1 (c.field pgLiv 0x1004 16 10 l))

/-- The learned budget profile is cleared (R388). -/
def Chip.clearProfile (c : Chip) : Chip :=
  { c.setFlag pgPwr 0x1004 3 false with pwr := { c.pwr with
      profile := [], binSum := [], binN := 0, curBin := none, binsLearned := 0, binPend := [] } }

/-! Per-unit state -/

def Chip.egress (c : Chip) (p : Nat) : Egress := Tbl.get Egress.empty c.traf.eg p
def Chip.setEgress (c : Chip) (p : Nat) (e : Egress) : Chip :=
  { c with traf := { c.traf with eg := Tbl.set Egress.empty c.traf.eg p e } }

def Chip.cch (c : Chip) (d : Nat) : CchDie := Tbl.get CchDie.empty c.coach.dies d
def Chip.setCch (c : Chip) (d : Nat) (x : CchDie) : Chip :=
  { c with coach := { c.coach with dies := Tbl.set CchDie.empty c.coach.dies d x } }

def Chip.slot (c : Chip) (d i : Nat) : Coach := Tbl.get Coach.empty (c.cch d).slots i
def Chip.setSlot (c : Chip) (d i : Nat) (x : Coach) : Chip :=
  c.setCch d { c.cch d with slots := Tbl.set Coach.empty (c.cch d).slots i x }

/-! Activity events (R381) -/

def actLane : Nat := 0
def actCell : Nat := 1
def actSram : Nat := 2
def actFrame : Nat := 3
def actByte : Nat := 4
def actSerdes : Nat := 5

/-- The livery of work that belongs to none. -/
def noLivery : Nat := 256

/-- The place of a count: die, kind, port of the die (0 where the kind has none) and livery. -/
def actKey (die kind port liv : Nat) : Nat := ((die * 8 + kind) * 128 + port) * 257 + liv

/-- A die counts activity events of a livery (R381, R383). -/
def Chip.active (c : Chip) (die kind port liv n : Nat) : Chip :=
  let k := actKey die kind port liv
  { c with act := { c.act with
    due := Tbl.set 0 c.act.due k (Tbl.get 0 c.act.due k + n)
    work := Tbl.set 0 c.act.work k (Tbl.get 0 c.act.work k + n) } }

/-- A frame of some bytes passes a port of a port die. -/
def Chip.activeFrame (c : Chip) (p liv bytes : Nat) : Chip :=
  (c.active (portDie p) actFrame (p % 128) liv 1).active (portDie p) actByte (p % 128) liv bytes

/-- A fresh number for a value that the manual leaves open. -/
def Chip.takeFresh (c : Chip) : Nat × Chip := (c.fresh, { c with fresh := c.fresh + 1 })

/-- The value a read returns to the host. -/
def Chip.answer (c : Chip) (v : W32) : Chip := { c with out := { c.out with rdata := v } }

/-- Apply an operation for every member of a list, in order. -/
def forAll {α σ : Type} (xs : List α) (c : σ) (f : α → σ → σ) : σ := xs.foldl (fun c x => f x c) c

end Sys2Proof.Machine
end

