-- ==== Sys2Proof/Machine/Operands.lean ====
section
/-! DEFINITION. The operand forms: the fields of the link frame header (R258), the classes and subtypes (R259), the
checks at a frame's head and tail (R257, R260, R264, R277), the waybill and its continuation (R103, R105), the Memory
header (R262), the put completion (R152) and the timetable entry (R174). -/

namespace Sys2Proof.Machine

/-! The link frame header (R258) -/

def hVer (h : BitVec 256) : Nat := fld h 252 4
def hClass (h : BitVec 256) : Nat := fld h 249 3
def hSub (h : BitVec 256) : Nat := fld h 245 4
def hVl (h : BitVec 256) : Nat := fld h 242 3
def hHops (h : BitVec 256) : Nat := fld h 237 5
def hLseq (h : BitVec 256) : Nat := fld h 225 12
def hLiv (h : BitVec 256) : Nat := fld h 217 8
def hMc (h : BitVec 256) : Bool := h.getLsbD 216
def hDst (h : BitVec 256) : Nat := fld h 198 18
def hGroup (h : BitVec 256) : Nat := fld h 198 14
def hSrc (h : BitVec 256) : Nat := fld h 180 18
def hLen (h : BitVec 256) : Nat := fld h 165 15
def hTc (h : BitVec 256) : Nat := fld h 161 4
def hChk (h : BitVec 256) : Nat := fld h 0 16

def clsCollective : Nat := 0
def clsMemory : Nat := 1
def clsBulk : Nat := 2
def clsControl : Nat := 3

/-- A row of the table of classes and subtypes (R259): bytes of class header, virtual lane, sequenced, greatest LEN. -/
structure ClassRow where
  chdr : Nat
  vl : Nat
  seqd : Bool
  maxLen : Nat
  minLen : Nat
  deriving DecidableEq, Repr

/-- The row of a CLASS and SUB, none for a reserved class code (R259). -/
def classRow (cls sub tc : Nat) : Option ClassRow :=
  match cls with
  | 0 => if sub = 0 ∨ sub = 2 then some ⟨32, 1, true, 16452, 68⟩
         else if sub = 1 ∨ sub = 3 then some ⟨8, 1, true, 16428, 44⟩ else none
  | 1 => if sub = 0 ∨ sub = 1 ∨ sub = 2 ∨ sub = 4 then some ⟨32, 2, true, 4164, 68⟩
         else if sub = 3 ∨ sub = 5 then some ⟨32, 3, true, 4164, 68⟩ else none
  | 2 => if sub = 0 then some ⟨0, if tc < 8 then 4 else 5, false, 9252, 100⟩ else none
  | 3 => if sub = 6 then some ⟨0, 0, false, 64, 64⟩ else if sub < 8 then some ⟨0, 0, false, 8448, 48⟩ else none
  | _ => none

/-- Whether a header's CLASS, SUB and VL are a class code at step 4 of R21: VL6 and VL7 are reserved. -/
def hdrClassOk (h : BitVec 256) : Bool := (classRow (hClass h) (hSub h) (hTc h)).isSome && decide (hVl h < 6)

/-- A link control frame (R266). -/
def isLinkControl (h : BitVec 256) : Bool := decide (hClass h = clsControl ∧ hSub h = 6)

/-- Whether frames of a header share the LSEQ space of the link: those on VL1 to VL3 (R259, R270). -/
def hdrSequenced (h : BitVec 256) : Bool := !isLinkControl h && decide (1 ≤ hVl h ∧ hVl h ≤ 3)

/-- The header with its per-hop fields taken as 0, which HCHK covers (R260). -/
def hdrForCheck (h : BitVec 256) : BitVec 256 := putFld (putFld (putFld h 242 3 0) 237 5 0) 225 12 0

/-- HCHK of a header (R260): over header bytes 0 to 29. -/
def headerCheck (h : BitVec 256) : BitVec 16 := crc16 ((bytesBE 32 (hdrForCheck h).toNat).take 30)

/-- Whether LEN lies in the range of R257 for the header's class. -/
def hdrLenOk (h : BitVec 256) : Bool :=
  let len := hLen h
  decide (48 ≤ len ∧ len ≤ 16452) &&
  match classRow (hClass h) (hSub h) (hTc h) with
  | some r => decide (r.minLen ≤ len ∧ len ≤ r.maxLen)
  | none => true

/-- Step 3 of R21 in Narjo mode: LVER, HCHK and LEN (R260). -/
def hdrOk (h : BitVec 256) : Bool :=
  decide (hVer h = 1) && decide (headerCheck h = BitVec.ofNat 16 (hChk h)) && hdrLenOk h

/-- A header made by this part as originator (R258): per-hop fields VL by R259, HOPS and LSEQ 0 until sent. -/
def mkHdr (cls sub liv : Nat) (mc : Bool) (dst src len tc hops : Nat) : BitVec 256 :=
  let vl := match classRow cls sub tc with | some r => r.vl | none => 0
  let h : BitVec 256 := BitVec.ofNat 256
    (1 * 2 ^ 252 + cls * 2 ^ 249 + sub * 2 ^ 245 + vl * 2 ^ 242 + hops * 2 ^ 237 + liv * 2 ^ 217 +
      (if mc then 2 ^ 216 else 0) + dst % 2 ^ 18 * 2 ^ 198 + src % 2 ^ 18 * 2 ^ 180 + len * 2 ^ 165 + tc * 2 ^ 161)
  putFld h 0 16 (headerCheck h).toNat

/-- The bytes of a frame before its trailer. -/
def frameBytes (h : BitVec 256) (body : List Byte) : List Byte := bytesBE 32 h.toNat ++ body

/-- A frame as this part sends it with a good trailer (R264). -/
def mkFrame (h : BitVec 256) (body : List Byte) : Frame := ⟨h, body, crc32 (frameBytes h body), 0, true, BufRead.clean⟩

/-- How a frame's tail stands (R264, R265, R270, R277). -/
inductive TailSt where
  | good
  | tailboard (code : Nat)
  | bad (code : Nat)
  deriving DecidableEq, Repr

/-- What a received trailer says (R264, R277): a tailboard first, else whether it holds the CRC-32. -/
def trailerOf (trailer v : W32) : TailSt :=
  let d := trailer ^^^ v
  if fld d 8 24 = 0x7A1B00 ∧ fld d 0 8 ≠ 0 then .tailboard (fld d 0 8) else if d ≠ 0 then .bad 2 else .good

/-- The tail check: a tailboard first (R277), then an uncorrectable codeword (R265), the CRC-32, and the length of a frame
whose header passed its check (R260 decides on a bad header by the CRC alone). -/
def tailOf (f : Frame) : TailSt :=
  match trailerOf f.trailer (crc32 (frameBytes f.hdr f.body)) with
  | .tailboard k => .tailboard k
  | t =>
    if 0 < f.fecUncorr then .bad 1
    else if t ≠ .good then t
    else if hdrOk f.hdr ∧ f.body.length + 36 ≠ hLen f.hdr then .bad 3
    else .good

/-- The trailer of a frame that ends with a tailboard code, 0 for a whole frame, over the bytes sent (R264, R276). -/
def trailerFor (bytes : List Byte) (code : Nat) : W32 :=
  if code = 0 then crc32 bytes else crc32 bytes ^^^ 0x7A1B0000 ^^^ BitVec.ofNat 32 code

/-- Bytes with their trailer, least significant byte first (R264). -/
def withTrailer (bytes : List Byte) (code : Nat) : List Byte := bytes ++ bytesLE 4 (trailerFor bytes code).toNat

/-- Credits a frame needs on its virtual lane (R267). -/
def creditsFor (len : Nat) : Nat := ceilDiv len 64

/-! The waybill (R103) and the continuation (R105) -/

def bvBE (w : Nat) (bs : List Byte) : BitVec w := BitVec.ofNat w (natOfBE bs)

def waybillOf (f : Frame) : BitVec 256 := bvBE 256 (f.body.take 32)
def wVer (w : BitVec 256) : Nat := fld w 252 4
def wKind (w : BitVec 256) : Nat := fld w 248 4
def wLiv (w : BitVec 256) : Nat := fld w 240 8
def wEntry (w : BitVec 256) : Nat := fld w 224 16
def wStep (w : BitVec 256) : W32 := BitVec.ofNat 32 (fld w 192 32)
def wChunk (w : BitVec 256) : Nat := fld w 168 24
def wElemBase (w : BitVec 256) : Nat := fld w 132 36
def wElemCount (w : BitVec 256) : Nat := fld w 119 13
def wFmt (w : BitVec 256) : Nat := fld w 115 4
def wSeedRef (w : BitVec 256) : Nat := fld w 111 4
def wOvf (w : BitVec 256) : Bool := w.getLsbD 110
def wFrames (w : BitVec 256) : Nat := fld w 103 7
def wHint (w : BitVec 256) : Nat := fld w 89 8
def wPrescale (w : BitVec 256) : W32 := BitVec.ofNat 32 (fld w 32 32)
def wPostscale (w : BitVec 256) : W32 := BitVec.ofNat 32 (fld w 0 32)

def contOf (f : Frame) : W64 := bvBE 64 (f.body.take 8)
def ctLiv (w : W64) : Nat := fld w 56 8
def ctEntry (w : W64) : Nat := fld w 40 16
def ctStepLo (w : W64) : Nat := fld w 32 8
def ctChunk (w : W64) : Nat := fld w 8 24
def ctIdx (w : W64) : Nat := fld w 1 7

/-! The Memory header (R262) and the put completion (R152) -/

def memHdrOf (body : List Byte) : BitVec 256 := bvBE 256 (body.take 32)
def mTag (m : BitVec 256) : Nat := fld m 176 16
def mStage (m : BitVec 256) : Nat := fld m 174 2
def mCtr (m : BitVec 256) : Nat := fld m 133 14

/-- A Memory header with another STAGE and CTR (R263). -/
def memRestage (body : List Byte) (stage ctr : Nat) : List Byte :=
  bytesBE 32 (putFld (putFld (memHdrOf body) 174 2 stage) 133 14 ctr).toNat ++ body.drop 32

/-- A put completion body (R152). -/
def putBody (tag src liv expected arrived failed status : Nat) : BitVec 128 :=
  BitVec.ofNat 128 (tag % 2 ^ 16 * 2 ^ 112 + src % 2 ^ 18 * 2 ^ 94 + liv % 256 * 2 ^ 86 + expected % 2 ^ 18 * 2 ^ 68 +
    arrived % 2 ^ 18 * 2 ^ 50 + failed % 2 ^ 18 * 2 ^ 32 + status % 16 * 2 ^ 28)

/-- Body of a PUT_CPL frame: Memory header with TAG, STAGE, CTR and DLEN 16, then the completion (R262, R152). -/
def putCplBody (tag stage ctr : Nat) (cpl : BitVec 128) : List Byte :=
  bytesBE 32 (tag % 2 ^ 16 * 2 ^ 176 + stage % 4 * 2 ^ 174 + 16 * 2 ^ 160 + ctr % 2 ^ 14 * 2 ^ 133) ++
    bytesBE 16 cpl.toNat

/-! The timetable entry (R174) -/

abbrev Entry := BitVec 512

def eValid (e : Entry) : Bool := e.getLsbD 0
def eOp (e : Entry) : Nat := fld e 1 3
def eExpress (e : Entry) : Bool := e.getLsbD 4
def eGrid (e : Entry) : Bool := e.getLsbD 5
def ePolicy (e : Entry) : Nat := fld e 6 2
def eLiv (e : Entry) : Nat := fld e 8 8
def eFmtIn (e : Entry) : Nat := fld e 16 4
def eFmtOut (e : Entry) : Nat := fld e 20 4
def eRmode (e : Entry) : Nat := fld e 24 2
def eCdBase (e : Entry) : Nat := fld e 26 4
def eLateAct (e : Entry) : Bool := e.getLsbD 30
def eCdStripe (e : Entry) : Nat := fld e 32 5
def eTelemEn (e : Entry) : Bool := e.getLsbD 37
def eTelemCol (e : Entry) : Nat := fld e 38 2
def eCset (e : Entry) : Nat := fld e 40 12
def eOpenSlot (e : Entry) : Nat := fld e 64 25
def eCutoff (e : Entry) : Nat := fld e 96 25
def eDeadline (e : Entry) : Nat := fld e 128 25
def eOrderSig (e : Entry) : Nat := fld e 192 32
def eOrdered (e : Entry) : Bool := e.getLsbD 223
def eFanin (e : Entry) : Nat := fld e 200 11
def eOrderGroup (e : Entry) : Nat := fld e 192 8
def eSalt (e : Entry) : Nat := fld e 224 28
def eRowMask (e : Entry) : W32 := BitVec.ofNat 32 (fld e 256 32)
def eColMask (e : Entry) : W32 := BitVec.ofNat 32 (fld e 288 32)
def eOutGroup (e : Entry) : Nat := fld e 320 14
def eDestEid (e : Entry) : Nat := fld e 334 18
def eShardStride (e : Entry) : Nat := fld e 352 18
/-- OUT_EN bit j, for j 1 to 3. -/
def eOutEn (e : Entry) (j : Nat) : Bool := e.getLsbD (369 + j)
def eFmtOutJ (e : Entry) (j : Nat) : Nat :=
  match j with | 0 => eFmtOut e | 1 => fld e 373 4 | 2 => fld e 377 4 | _ => fld e 408 4
def eOutGroupJ (e : Entry) (j : Nat) : Nat :=
  match j with | 0 => eOutGroup e | 1 => fld e 416 14 | 2 => fld e 430 14 | _ => fld e 448 14
def eShardChunks (e : Entry) : Nat := fld e 384 24
def eStageSlots (e : Entry) : Nat := fld e 462 12

/-- Bits of an entry that are reserved (R174), and of its ORDER_SIG (R96). -/
def entryReserved (e : Entry) : Bool :=
  e.getLsbD 31 || fld e 52 12 ≠ 0 || fld e 89 7 ≠ 0 || fld e 121 7 ≠ 0 || fld e 153 7 ≠ 0 || fld e 186 6 ≠ 0 ||
  fld e 252 4 ≠ 0 || fld e 381 3 ≠ 0 || fld e 412 4 ≠ 0 || fld e 444 4 ≠ 0 || fld e 474 38 ≠ 0 ||
  fld e 211 12 ≠ 0

/-- A copying operation (R138). -/
def opCopying (op : Nat) : Bool := decide (3 ≤ op ∧ op ≤ 5)

end Sys2Proof.Machine
end

