-- ==== Sys2Proof/Machine/Flags.lean ====
section
/-! DEFINITION. Events, rate limits, interrupts, snapshot triggers and the SMBus status flags (R423 to R429, R463,
R464, R480), and the form in which every meaning answers. -/

namespace Sys2Proof.Machine

/-- Severity of an event code (R427): 0 info, 1 warning, 2 fault, 3 critical. -/
def evSev (code : Nat) : Nat :=
  if code ∈ [0x0102, 0x0107, 0x0301, 0x0404, 0x0504, 0x0601, 0x0604, 0x0606, 0x0607, 0x0804, 0x0A04, 0x0A05] then 0
  else if code ∈ [0x0101, 0x0108, 0x020C, 0x020D, 0x020E, 0x020F, 0x0210, 0x0302, 0x0303, 0x0405, 0x0502, 0x0503,
    0x0505, 0x0507, 0x0602, 0x0608, 0x0703, 0x0805, 0x0806, 0x0901, 0x0905, 0x0908, 0x0909, 0x090A, 0x090C, 0x0A02,
    0x0A03, 0x0A06] then 1
  else if code ∈ [0x0103, 0x0104, 0x0105, 0x0701, 0x0702, 0x0803, 0x0904, 0x0906, 0x090B] then 3
  else 2

/-- An event as a block raises it: the page that counts it, its code, the raising die, the livery if one applies, and
the parameters of its form (R423, R427). -/
structure Ev where
  page : Nat
  code : Nat
  die : Nat
  liv : Option Nat
  param : Nat
  param2 : Nat
  detail : Nat
  deriving DecidableEq, Repr

/-- Form C: a collective (R427). -/
def evC (page code die liv entry : Nat) (step : W32) (chunk : Nat) (lport : Nat := 0x3FF) : Ev :=
  ⟨page, code, die, some liv, step.toNat, lport % 1024, entry % 65536 * 2 ^ 48 + chunk % 2 ^ 24 * 2 ^ 24⟩
/-- Forms P, Q, N, U, R, M, S, X and D: a parameter and a second parameter. -/
def evP (page code die param : Nat) (param2 : Nat := 0) : Ev := ⟨page, code, die, none, param, param2, 0⟩
/-- Form V: a livery, and a logical port for target events. -/
def evV (page code die liv : Nat) (lport : Nat := 0) : Ev := ⟨page, code, die, some liv, 0, lport, 0⟩
/-- Form T: a livery's pool. -/
def evT (page code die liv pool : Nat) : Ev := ⟨page, code, die, some liv, pool, 0, 0⟩

/-- The event record of R423. -/
def evRecord (e : Ev) (now seq : Nat) : BitVec 256 :=
  BitVec.ofNat 256 (e.code * 2 ^ 240 + e.die * 2 ^ 235 + evSev e.code * 2 ^ 233 +
    (match e.liv with | some l => 2 ^ 232 + l * 2 ^ 224 | none => 0) + e.param % 2 ^ 32 * 2 ^ 192 +
    now % 2 ^ 64 * 2 ^ 128 + seq % 2 ^ 32 * 2 ^ 96 + e.param2 % 2 ^ 32 * 2 ^ 64 + e.detail % 2 ^ 64)

/-! Snapshot triggers (R428, R429) -/

/-- A trigger from a source bit: fixes a latch time while armed, joins a fixed one, counts a miss while disarmed. -/
def Chip.snapTrigger (c : Chip) (src : Nat) (at_ : Nat) : Chip :=
  if c.flag pgSnp 0x1000 0 then
    match c.snap.due with
    | some _ => c.setFlag pgSnp 0x1004 src true
    | none => { c.setReg pgSnp 0x1004 (BitVec.ofNat 32 (2 ^ src)) with snap := { c.snap with due := some at_ } }
  else c.bump pgSnp 0x1080

/-- The first whole nanosecond at least 512 ns after now (R429). -/
def Chip.snapDelay (c : Chip) : Nat := ceilDiv (c.time.now + nsUnits 512) 256 * 256

/-- Whether a valid SNP_EVn lists a code. -/
def Chip.snapListed (c : Chip) (code : Nat) : Bool :=
  (List.range 16).any (fun n => c.flag pgSnp (0x1040 + 4 * n) 31 && decide (c.field pgSnp (0x1040 + 4 * n) 0 16 = code))

/-! Events -/

/-- Vector control word of an MSI-X vector: its bit 0 masks the vector, and is set until the host clears it. -/
def Chip.msixMasked (c : Chip) (v : Nat) : Bool := (Tbl.get 1 c.ev.msixMem (v * 4 + 3)).getLsbD 0

/-- Raise an MSI-X vector (R376, R471): a message is sent, or the pending bit is set while the vector is masked. -/
def Chip.msix (c : Chip) (v : Nat) : Chip :=
  if c.msixMasked v then { c with ev := { c.ev with msixPend := putBit c.ev.msixPend v true } }
  else { c with ev := { c.ev with irqs := Tbl.set 0 c.ev.irqs v (Tbl.get 0 c.ev.irqs v + 1) } }

/-- Vector 0 of the MSI-X table: at most one interrupt in INT_US, later records wait for the end of the pause (R424). -/
def Chip.evInterrupt (c : Chip) (sev : Nat) : Chip :=
  if c.flag pgFlt 0x1000 0 && decide (c.field pgFlt 0x1000 1 2 ≤ sev) then
    let gap := usUnits (max 1 (c.field pgFlt 0x1000 8 8))
    let quiet := match c.ev.irqLast with | some t => decide (t + gap ≤ c.time.now) | none => true
    if quiet then
      Chip.msix { c with ev := { c.ev with irqLast := some c.time.now } } 0
    else { c with ev := { c.ev with irqWait := true } }
  else c

/-- Place a record in the event queue (R424): the producer index advances, and a record that host software has not
taken and that is overwritten counts in FLT_EVQ_LOST. -/
def Chip.evPlace (c : Chip) (e : Ev) : Chip :=
  let full := decide (1024 ≤ (c.ev.placed + 65536 - c.field pgFlt 0x1008 0 16) % 65536)
  let c := if full then c.bump pgFlt 0x100C else c
  let ev := { c.ev with
    ring := Tbl.set 0 c.ev.ring (c.ev.placed % 1024) (evRecord e c.time.now c.ev.seq)
    placed := c.ev.placed + 1
    seq := (c.ev.seq + 1) % 2 ^ 32 }
  { c with ev := ev }

/-- Raise an event (R423, R424, R480, R428): the page's status and counter, the record, the interrupt, and a snapshot
trigger where the code is listed. -/
def Chip.raise (c : Chip) (e : Ev) : Chip :=
  let sev := evSev e.code
  let c := (c.setFlag e.page 0x14 0 true).bump e.page (if 2 ≤ sev then 0x24 else 0x28)
  let c := (c.evPlace e).evInterrupt sev
  if c.flag pgSnp 0x1000 3 && c.snapListed e.code then c.snapTrigger 3 c.snapDelay else c

/-- Raise an event under a rate limit of at most one record per `gap` units for a scope (R424). -/
def Chip.raiseLim (c : Chip) (e : Ev) (scope gap : Nat) : Chip :=
  let k := e.code * 65536 + scope
  let open_ := match Tbl.get none c.ev.rate k with | some t => decide (t + gap ≤ c.time.now) | none => true
  if open_ then
    { c.raise e with ev := { (c.raise e).ev with rate := Tbl.set none (c.raise e).ev.rate k (some c.time.now) } }
  else (c.setFlag e.page 0x14 3 true).bump e.page 0x2C

/-! Status flags (R463, R464) -/

/-- The SMBus STATUS word (R463). -/
def Chip.smbStatusWord (c : Chip) : BitVec 16 :=
  let b (x : Bool) (i : Nat) : Nat := if x then 2 ^ i else 0
  BitVec.ofNat 16 (b (c.flag pgPwr 0x1004 0) 0 + b (c.flag pgThm 0x100C 0) 1 + b (c.flag pgThm 0x100C 1) 2 +
    b (c.flag pgPwr 0x1008 0) 3 + b (c.flag pgPwr 0x1004 1) 4 + b (c.flt.fatal || decide (c.phase = phHalted)) 5 +
    b (decide (c.reg pgSec 0x1004 ≠ 0)) 6 + c.phase * 256)

/-- ALERT_SRC after a step: bits 1, 2, 4, 5 and 6 set when the STATUS bit rises, bits 0 and 3 when it falls while PHASE
reads READY (R464). -/
def Chip.settleAlerts (before after : Chip) : Chip :=
  let b := before.smbStatusWord
  let a := after.smbStatusWord
  let rise := a &&& ~~~b &&& 0x76
  let fall := if after.phase = phReady then b &&& ~~~a &&& 0x09 else 0
  { after with boot := { after.boot with alertSrc := after.boot.alertSrc ||| rise ||| fall } }

/-- SMB_ALERT_N is low while any ALERT_SRC bit is 1 (R464). -/
def Chip.smbAlertN (c : Chip) : Bool := decide (c.boot.alertSrc = 0)

/-- The answer of every meaning: the part after an operation, with the alert causes that the operation brought about.
The queue of waiting commands is left as it is. -/
def State.run (s : State) (f : Chip → Chip) : Host.Outcome State Fault Refusal :=
  .next { s with chip := Chip.settleAlerts s.chip (f s.chip) }

end Sys2Proof.Machine
end

