-- ==== Sys2Proof/Machine/Pools.lean ====
section
/-! DEFINITION. The pools and their managers (R195, R199 to R214): allocation of the lowest free unit, quotas, levels,
the cells of the buffer dies with their reference counts and generations, and quarantine. -/

namespace Sys2Proof.Machine

/-- Pools: 0 ACC, 1 SIDE, 2 STG, 3 CELL, 4 PUT (R199). -/
def plAcc : Nat := 0
def plSide : Nat := 1
def plStg : Nat := 2
def plCell : Nat := 3
def plPut : Nat := 4

/-- The owner number that stands for the Control cells, which belong to no livery (R199). -/
def ctlOwner : Nat := 256

/-- Whether a pool lies on a die (R199). -/
def poolOn (die pool : Nat) : Bool :=
  match pool with
  | 0 | 1 | 2 => decide (8 ≤ die ∧ die < 24)
  | 3 => decide (28 ≤ die ∧ die < 30)
  | 4 => decide (die < 8)
  | _ => false

def poolKey (die pool : Nat) : Nat := die * 8 + pool
def unitKey (die pool unit : Nat) : Nat := poolKey die pool * 1048576 + unit
def usedKey (die pool liv : Nat) : Nat := poolKey die pool * 256 + liv

/-- The bank that a unit lies in (R195); put counters lie in no pooled bank. -/
def unitBank (pool unit : Nat) : Nat :=
  match pool with
  | 0 => unit / 1024 | 1 => 40 + unit / 16384 | 2 => 48 + unit / 2048 | 3 => unit / 2048 | _ => 255

/-- Units of a pool in one bank (R195). -/
def bankUnits (pool : Nat) : Nat := match pool with | 0 => 1024 | 1 => 16384 | 2 => 2048 | 3 => 2048 | _ => 0

/-- The banks of a pool (R195). -/
def poolBanks (pool : Nat) : List Nat :=
  match pool with
  | 0 => List.range 40 | 1 => (List.range 8).map (40 + ·) | 2 => (List.range 4).map (48 + ·) | 3 => List.range 128 | _ => []

/-- The pool that a bank of a die serves (R195). -/
def poolOfBank (die bank : Nat) : Option Nat :=
  if 8 ≤ die ∧ die < 24 then
    if bank < 40 then some 0 else if bank < 48 then some 1 else if bank < 52 then some 2 else none
  else if 28 ≤ die ∧ die < 30 then (if bank < 128 then some 3 else none) else none

/-- Whether a bank is fenced (MEM_FENCE0 to 7). -/
def Chip.fenced (c : Chip) (die bank : Nat) : Bool := c.flag (pgMem die) (0x1030 + 4 * (bank / 32)) (bank % 32)

/-- Retention state of a bank (R221). -/
def Chip.retOf (c : Chip) (die bank : Nat) : RetSt := Tbl.get .awake c.bank.ret (die * 256 + bank)

/-- Units withdrawn by fenced banks. -/
def Chip.fencedUnits (c : Chip) (die pool : Nat) : Nat :=
  ((poolBanks pool).filter (c.fenced die)).length * bankUnits pool

/-- POL_SIZE: the pool's units less the fenced ones. -/
def Chip.poolSize (c : Chip) (die pool : Nat) : Nat :=
  if poolOn die pool then poolUnits pool - c.fencedUnits die pool else 0

/-- POL_RESERVE: what the fenced banks have left of the fence reserve. -/
def Chip.poolReserveLeft (c : Chip) (die pool : Nat) : Nat :=
  if poolOn die pool then poolReserve pool - c.fencedUnits die pool else 0

/-- Whether a unit is allocated. -/
def Chip.unitOwner (c : Chip) (die pool unit : Nat) : Nat := Tbl.get 0 c.pool.owner (unitKey die pool unit)

/-- Units of a pool that are allocated and not in a fenced bank. -/
def Chip.allocated (c : Chip) (die pool : Nat) : Nat :=
  (c.pool.owner.filter (fun kv => decide (kv.1 / 1048576 = poolKey die pool) &&
    !c.fenced die (unitBank pool (kv.1 % 1048576)))).length

/-- POL_FREE. -/
def Chip.poolFree (c : Chip) (die pool : Nat) : Nat := c.poolSize die pool - c.allocated die pool

def Chip.quota (c : Chip) (die pool liv : Nat) : Nat := c.field (pgPol die) 0x1018 0 19 (pool * 256 + liv)
def Chip.used (c : Chip) (die pool liv : Nat) : Nat := Tbl.get 0 c.pool.used (usedKey die pool liv)
def Chip.level (c : Chip) (die pool liv : Nat) : Nat := Tbl.get 0 c.pool.level (usedKey die pool liv)

/-- The sum of a pool's quotas over all liveries (R204). -/
def Chip.quotaSum (c : Chip) (die pool : Nat) : Nat :=
  (List.range 256).foldl (fun n l => n + c.quota die pool l) 0

/-- The quotas' limit (R204): units less the fence reserve, and less the Control cells for CELL. -/
def Chip.quotaLimit (c : Chip) (die pool : Nat) : Nat :=
  c.poolSize die pool - c.poolReserveLeft die pool - (if pool = plCell then 1024 else 0)

/-- What a pool can still hold for liveries (R214): its units less the fenced ones, and less the Control cells for
CELL. -/
def Chip.poolHolds (c : Chip) (die pool : Nat) : Nat := c.poolSize die pool - (if pool = plCell then 1024 else 0)

/-- POL_STAT.OVERCOMMIT (R214): fencing has left the pool fewer units than the sum of the quotas. -/
def Chip.overcommitted (c : Chip) (die pool : Nat) : Bool :=
  decide (0 < c.fencedUnits die pool ∧ c.poolHolds die pool < c.quotaSum die pool)

/-! Levels (R206) -/

/-- The highest level whose condition holds. -/
def levelOf (free caution brake stop : Int) : Nat :=
  if free < stop then 3 else if free < brake then 2 else if free < caution then 1 else 0

/-- Falls of a level, one step at a time, as long as the level reached may fall. -/
def levelFall (free caution brake stop hyst : Int) : Nat → Nat
  | 0 => 0
  | 1 => if caution + hyst ≤ free then 0 else 1
  | 2 => if brake + hyst ≤ free then levelFall free caution brake stop hyst 1 else 2
  | n + 3 => if stop + hyst ≤ free then levelFall free caution brake stop hyst 2 else n + 3

/-- Evaluate a livery's level in a pool (R206): a rise goes to the highest level whose condition holds, and a rise to
brake or stop is counted and reported (R208); a pool in which the quota is 0 reports clear (R205). -/
def Chip.evalLevel (c : Chip) (die pool liv : Nat) : Chip :=
  let q := c.quota die pool liv
  let free : Int := (q : Int) - (c.used die pool liv : Int)
  let a := c.reg (pgPol die) 0x1010 pool
  let b := c.reg (pgPol die) 0x1014 pool
  let caution : Int := fld a 0 16
  let brake : Int := fld a 16 16
  let stop : Int := fld b 0 16
  let hyst : Int := fld b 16 16
  let cur := c.level die pool liv
  let want := levelOf free caution brake stop
  let nxt := if q = 0 then 0 else if cur < want then want else levelFall free caution brake stop hyst cur
  let c1 := { c with pool := { c.pool with level := Tbl.set 0 c.pool.level (usedKey die pool liv) nxt } }
  if cur < nxt ∧ 2 ≤ nxt then
    (c1.bump (pgPol die) 0x1108).raise (evT (pgPol die) 0x0405 die liv pool)
  else c1

/-- The level a die publishes for a livery (R207): the highest of its pools; a port die publishes none. -/
def Chip.dieLevel (c : Chip) (die liv : Nat) : Nat :=
  if 8 ≤ die ∧ die < 24 then max (c.level die 0 liv) (max (c.level die 1 liv) (c.level die 2 liv))
  else if 28 ≤ die ∧ die < 30 then c.level die 3 liv else 0

/-- The level a port die acts on: sources 0 to 15 are C0 to C15, 16 and 17 are B0 and B1 (R207). -/
def Chip.knownLevel (c : Chip) (pd src liv : Nat) : Nat := Tbl.get 0 c.pool.known ((pd * 18 + src) * 256 + liv)

/-! Allocation (R200, R201) -/

/-- The first number from `start` on, within `fuel`, that meets a test. -/
def findFrom (ok : Nat → Bool) : Nat → Nat → Option Nat
  | 0, _ => none
  | fuel + 1, start => if ok start then some start else findFrom ok fuel (start + 1)

/-- The lowest free unit, in an awake bank while any is free there (R200, R221). -/
def Chip.lowestFree (c : Chip) (die pool : Nat) : Option Nat :=
  let free (u : Nat) : Bool := decide (c.unitOwner die pool u = 0) && !c.fenced die (unitBank pool u)
  let awake (u : Nat) : Bool := free u && decide (c.retOf die (unitBank pool u) = .awake)
  match findFrom awake (poolUnits pool) 0 with
  | some u => some u
  | none => findFrom free (poolUnits pool) 0

/-- Whether an owner may take one more unit: a livery within its quota, the Control cells within their 1,024, and, for
a livery, not one of the cells kept for Control frames. -/
def Chip.mayAlloc (c : Chip) (die pool owner : Nat) : Bool :=
  if owner = ctlOwner then decide (Tbl.get 0 c.pool.ctlUsed die < 1024)
  else decide (c.used die pool owner < c.quota die pool owner) &&
    (decide (pool ≠ plCell) || decide (1024 - Tbl.get 0 c.pool.ctlUsed die < c.poolFree die pool))

/-- An access to a bank that supports retention (R221, R222): it cancels an entry before the commit point, waits for one
after it, and starts the wake of a bank in retention. -/
def Chip.bankAccess (c : Chip) (die bank : Nat) : Chip :=
  let k := die * 256 + bank
  let c := if bank < 128 then { c with bank := { c.bank with touched := Tbl.set 0 c.bank.touched k c.time.now } } else c
  let put (r : RetSt) : Chip :=
    { c with bank := { c.bank with ret := Tbl.set .awake c.bank.ret k r, retSince := Tbl.set 0 c.bank.retSince k c.time.now } }
  match c.retOf die bank with
  | .awake => c
  | .entering =>
    if c.time.now < Tbl.get 0 c.bank.retSince k + nsUnits 100 then (put .awake).bump (pgMem die) 0x1110 else
      { c with bank := { c.bank with ret := Tbl.set .awake c.bank.ret k .committed } }
  | .committed => c
  | .retained => ((put .waking).bump (pgMem die) 0x110C).setFlag (pgMem die) (0x1020 + 4 * (bank / 32)) (bank % 32) false
  | .waking => c

/-- The march run on a bank (R218): the command of one that preserves its contents. -/
def Chip.preserving (c : Chip) (die bank : Nat) : Bool :=
  match Tbl.get none c.bank.march die with
  | some cmd => decide (fld cmd 0 8 = bank) && cmd.getLsbD 10
  | none => false

/-- Accesses to banks of a die for a livery, with what they report: each is an activity event (R381) and wakes its bank (R221), corrected errors are counted (R197),
and so are those that waited for a preserving march of one of the banks (R218). -/
def Chip.accessBanks (c : Chip) (die liv : Nat) (banks : List Nat) (corrected stalled : Nat) : Chip :=
  let c := (forAll banks.eraseDups c (fun b c => c.bankAccess die b)).active die actSram 0 liv banks.length
  let c := c.bumpN (pgMem die) 0x1104 corrected
  if banks.any (c.preserving die) then c.bumpN (pgMem die) 0x1114 stalled else c

/-- A read finds an uncorrectable error in a word of a bank (R197). -/
def Chip.eccUncorr (c : Chip) (die bank word : Nat) : Chip :=
  (c.bump (pgMem die) 0x1108).raise (evP (pgMem die) 0x0402 die bank word)

/-- Mark a unit as taken by an owner; taking it from a retained bank wakes the bank (R221). -/
def Chip.takeUnit (c : Chip) (die pool owner u : Nat) : Chip :=
  let c := (c.bankAccess die (unitBank pool u)).active die actSram 0 (min owner noLivery) 1
  let p := { c.pool with owner := Tbl.set 0 c.pool.owner (unitKey die pool u) (owner + 1) }
  let p := if owner = ctlOwner then { p with ctlUsed := Tbl.set 0 p.ctlUsed die (Tbl.get 0 p.ctlUsed die + 1) }
           else { p with used := Tbl.set 0 p.used (usedKey die pool owner) (Tbl.get 0 p.used (usedKey die pool owner) + 1) }
  { c with pool := p }

/-- Take `n` units, all or none, without counting a failure. -/
def Chip.tryUnits (c : Chip) (die pool owner : Nat) : Nat → Option (List Nat × Chip)
  | 0 => some ([], c)
  | n + 1 =>
    match c.tryUnits die pool owner n with
    | none => none
    | some (us, c) =>
      if c.mayAlloc die pool owner then
        match c.lowestFree die pool with
        | some u => some (us ++ [u], c.takeUnit die pool owner u)
        | none => none
      else none

/-- Allocate `n` units for an owner: all of them with the level evaluated, or none and the failure counted on the
die's POL page (R201, R202). -/
def Chip.allocUnits (c : Chip) (die pool owner n : Nat) : Option (List Nat) × Chip :=
  match c.tryUnits die pool owner n with
  | some (us, c) => (some us, if owner = ctlOwner then c else c.evalLevel die pool owner)
  | none => (none, c.bump (pgPol die) 0x1100)

/-- Release one unit: scrubbed to 0, which is an access to its bank (R221), and returned to the free store (R203); its
owner's count falls and the level is evaluated (R206). A unit that is free stays so. -/
def Chip.releaseUnit (c : Chip) (die pool u : Nat) : Chip :=
  match c.unitOwner die pool u with
  | 0 => c
  | owner + 1 =>
    let c := (c.bankAccess die (unitBank pool u)).active die actSram 0 (min owner noLivery) 1
    let p := { c.pool with owner := Tbl.set 0 c.pool.owner (unitKey die pool u) 0 }
    if owner = ctlOwner then
      { c with pool := { p with ctlUsed := Tbl.set 0 p.ctlUsed die (Tbl.get 0 p.ctlUsed die - 1) } }
    else
      let p := { p with used := Tbl.set 0 p.used (usedKey die pool owner) (Tbl.get 0 p.used (usedKey die pool owner) - 1) }
      Chip.evalLevel { c with pool := p } die pool owner

def Chip.releaseUnits (c : Chip) (die pool : Nat) (us : List Nat) : Chip :=
  forAll us c (fun u c => c.releaseUnit die pool u)

/-! Cells (R211, R212) -/

def cellKey (bd cell : Nat) : Nat := bd * 262144 + cell
def Chip.cell (c : Chip) (bd cell : Nat) : Cell := Tbl.get Cell.reset c.pool.cells (cellKey bd cell)
def Chip.setCell (c : Chip) (bd cell : Nat) (x : Cell) : Chip :=
  { c with pool := { c.pool with cells := Tbl.set Cell.reset c.pool.cells (cellKey bd cell) x } }

/-- The buffer die a port die writes to for a livery (R208, R417): its own, or the other when its own die's level is
brake or stop and the other's is lower, or when its own die has failed. -/
def Chip.bufferDie (c : Chip) (pd liv : Nat) : Nat :=
  let own := pd % 2
  let other := 1 - own
  if c.dieFailed (dieB own) then other
  else if c.dieFailed (dieB other) then own
  else if 2 ≤ c.knownLevel pd (16 + own) liv ∧ c.knownLevel pd (16 + other) liv < c.knownLevel pd (16 + own) liv then other
  else own

/-- Cells of 512 bytes that a frame of `len` bytes fills. -/
def cellsFor (len : Nat) : Nat := ceilDiv len 512

/-- Give freshly allocated cells a reference count and their next generation (R211, R212). -/
def Chip.openCells (c : Chip) (bd owner refs : Nat) (us : List Nat) : List CellRef × Chip :=
  us.foldl (fun acc u =>
    let x := acc.2.cell bd u
    let g := (x.gen + 1) % 65536
    (acc.1 ++ [⟨bd, u, g⟩], acc.2.setCell bd u ⟨refs, g, false, owner⟩)) ([], c)

/-- Write a frame of `len` bytes whole to cells of a buffer die, for `refs` transmits. -/
def Chip.writeCells (c : Chip) (bd owner len refs : Nat) : Option (List CellRef) × Chip :=
  match c.allocUnits (dieB bd) plCell owner (cellsFor len) with
  | (some us, c) => let r := c.openCells bd owner refs us; (some r.1, r.2)
  | (none, c) => (none, c)

/-- Whether a reference is an underflow: an old generation, or the current one with the count at 0 (R212). -/
def Chip.cellStale (c : Chip) (r : CellRef) : Bool := decide ((c.cell r.bdie r.cell).gen ≠ r.gen)

/-- One decrement of a cell's reference count (R211); at zero the cell is released. An underflow is counted and
reported, and a cell found at 0 under its current generation is quarantined and charged to the livery that last held
it (R212). -/
def Chip.cellDecr (c : Chip) (r : CellRef) : Chip :=
  let x := c.cell r.bdie r.cell
  let pg := pgPolB r.bdie
  let report (c : Chip) : Chip := (c.bump pg 0x1114).raise (evT pg 0x0407 (dieB r.bdie) (x.lastOwner % 256) plCell)
  if x.gen ≠ r.gen then report c
  else if x.quarantined then report c
  else if x.refs = 0 then
    let c := report c
    let c := if c.unitOwner (dieB r.bdie) plCell r.cell = 0 then c.takeUnit (dieB r.bdie) plCell x.lastOwner r.cell else c
    (c.setCell r.bdie r.cell { x with quarantined := true }).bump pg 0x1118
  else if x.refs = 1 then
    (c.setCell r.bdie r.cell { x with refs := 0 }).releaseUnit (dieB r.bdie) plCell r.cell
  else c.setCell r.bdie r.cell { x with refs := x.refs - 1 }

/-- A frame's cell is to be read out so many times. -/
def Chip.setRefs (c : Chip) (r : CellRef) (n : Nat) : Chip :=
  if (c.cell r.bdie r.cell).gen = r.gen then c.setCell r.bdie r.cell { c.cell r.bdie r.cell with refs := n } else c

/-- Drop a frame's claim on its cells, as if they had been read out. -/
def Chip.dropCells (c : Chip) (rs : List CellRef) : Chip := forAll rs c (fun r c => c.cellDecr r)

/-- Cells of a buffer die now quarantined (POL_QUAR_STAT.HELD). -/
def Chip.quarHeld (c : Chip) (bd : Nat) : Nat :=
  (c.pool.cells.filter (fun kv => decide (kv.1 / 262144 = bd) && kv.2.quarantined)).length

end Sys2Proof.Machine
end

