-- ==== Sys2Proof/Machine/Timetable.lean ====
section
/-! DEFINITION. Timetables (R164 to R194): the step clock of a livery, its banks and their liveness, the entry that
serves a first frame, roles and expected contributors in a grid (R159, R160, R178), and the commands of the TTB page. -/

namespace Sys2Proof.Machine

/-! The step clock (R164 to R171) -/

def Chip.ttEnabled (c : Chip) (l : Nat) : Bool := c.flag pgTtb 0x1204 0 l
def Chip.anyEnabled (c : Chip) : Bool := (List.range 256).any (fun l => c.ttEnabled l)
def Chip.ttBank (c : Chip) (l : Nat) : Bool := c.flag pgTtb 0x1208 0 l
def Chip.swapPending (c : Chip) (l : Nat) : Bool := c.flag pgTtb 0x1208 1 l
def Chip.oldBusy (c : Chip) (l : Nat) : Bool := c.flag pgTtb 0x1208 2 l
def Chip.cycle (c : Chip) (l : Nat) (bank : Bool) : Nat := c.field pgTtb (if bank then 0x1224 else 0x1220) 0 24 l
def rangeOff (bank : Bool) : Nat := if bank then 0x122C else 0x1228
def Chip.entFirst (c : Chip) (l : Nat) (bank : Bool) : Nat := c.field pgTtb (rangeOff bank) 0 16 l
def Chip.entLast (c : Chip) (l : Nat) (bank : Bool) : Nat := c.field pgTtb (rangeOff bank) 16 16 l

/-- Whether a livery owns an entry index in a bank (R168). -/
def Chip.ownsEntry (c : Chip) (l idx : Nat) (bank : Bool) : Bool :=
  decide (c.entFirst l bank ≤ idx ∧ idx ≤ c.entLast l bank)

def Chip.anchorTime (c : Chip) (l : Nat) : Int :=
  (((c.reg pgTtb 0x1214 l).toNat * 4294967296 + (c.reg pgTtb 0x1210 l).toNat : Nat) : Int)
def Chip.anchorStep (c : Chip) (l : Nat) : W32 := c.reg pgTtb 0x1218 l
def Chip.swapOf (c : Chip) (l : Nat) : Option SwapSt := Tbl.get none c.tt.swaps l

/-- The signed distance from step `b` to step `a`, modulo 2^32 (R164). -/
def stepDiff (a b : W32) : Int := signed 32 (a - b).toNat

/-- The bank that governs a step, T(s) in fabric-time units and the cycle of that bank in slots (R164, R169, R171);
none for a step before a swap once the old bank has been released. -/
def Chip.governs (c : Chip) (l : Nat) (s : W32) : Option (Bool × Int × Nat) :=
  match c.swapOf l with
  | none =>
    let b := c.ttBank l
    let cy := c.cycle l b
    some (b, c.anchorTime l + stepDiff s (c.anchorStep l) * (cy * slotUnits : Nat), cy)
  | some sw =>
    let pend := c.swapPending l
    let d := stepDiff s sw.step
    if 0 ≤ d then
      let b := if pend then !c.ttBank l else c.ttBank l
      let cy := c.cycle l b
      some (b, sw.t + d * (cy * slotUnits : Nat), cy)
    else if (pend || c.oldBusy l) && (match sw.before with | some f => decide (0 ≤ stepDiff s f) | none => true) then
      some (if pend then c.ttBank l else !c.ttBank l, sw.t + d * (sw.cOld * slotUnits : Nat), sw.cOld)
    else none

/-- The current step of a livery (R166): the largest s with T(s) at or before now. -/
def Chip.currentStep (c : Chip) (l : Nat) : W32 :=
  let steps (s0 : W32) (t0 : Int) (cy : Nat) : W32 :=
    if cy = 0 then s0 else s0 + BitVec.ofInt 32 (((c.time.now : Int) - t0) / ((cy * slotUnits : Nat) : Int))
  match c.swapOf l with
  | none => steps (c.anchorStep l) (c.anchorTime l) (c.cycle l (c.ttBank l))
  | some sw =>
    if (c.time.now : Int) < sw.t then steps sw.step sw.t sw.cOld
    else steps sw.step sw.t (c.cycle l (if c.swapPending l then !c.ttBank l else c.ttBank l))

/-- Whether a coach of a livery holds a slot anywhere (TTB_LIV_STAT.IDLE reads 1 when none does, R172). -/
def Chip.livHasCoach (c : Chip) (l : Nat) : Bool :=
  c.coach.dies.any (fun d => d.2.slots.any (fun s => decide (s.2.phase ≠ .free) && decide (s.2.livery = l)))

/-- A bank is live for a livery (R170, R172). -/
def Chip.bankLive (c : Chip) (l : Nat) (bank : Bool) : Bool :=
  if c.ttEnabled l then
    decide (c.ttBank l = bank) || c.swapPending l || c.oldBusy l
  else c.livHasCoach l

/-! Entries -/

def bankBase (bank : Bool) (n : Nat) : Nat := if bank then n else 0
def Chip.ttEntry (c : Chip) (bank : Bool) (idx : Nat) : Entry := Tbl.get 0 c.tt.entries (bankBase bank 65536 + idx)
def Chip.ttCset (c : Chip) (bank : Bool) (i : Nat) : BitVec 1024 := Tbl.get 0 c.tt.csets (bankBase bank 4096 + i)

def Chip.gridRow (c : Chip) : Nat := c.field pgTtb 0x1300 0 5
def Chip.gridCol (c : Chip) : Nat := c.field pgTtb 0x1300 8 5
def Chip.gridValid (c : Chip) : Bool := c.flag pgTtb 0x1300 31

/-- Whether the device's own place lets a grid entry serve (R177). -/
def Chip.gridServes (c : Chip) (e : Entry) : Bool :=
  !eGrid e || (c.gridValid && (eRowMask e).getLsbD c.gridRow && (eColMask e).getLsbD c.gridCol)

/-- The entry that serves first frames of (livery, entry, step), if any (R113, R168, R177). The entry's own livery need
not be the waybill's: that is a livery check (R116 check 1). -/
def Chip.serving (c : Chip) (l idx : Nat) (s : W32) : Option Served :=
  if c.ttEnabled l then
    match c.governs l s with
    | none => none
    | some (b, t, cy) =>
      let e := c.ttEntry b idx
      if eValid e && c.ownsEntry (eLiv e) idx b && c.ttEnabled (eLiv e) && c.gridServes e then some ⟨e, b, t, cy⟩ else none
  else none

/-- Late-fold policy of an entry under its livery's default (R187). -/
def Chip.lateFold (c : Chip) (e : Entry) : Bool :=
  decide (ePolicy e = 2) || (decide (ePolicy e = 0) && c.flag pgTtb 0x1204 2 (eLiv e))

/-- The n-th set bit of a mask (R159). -/
def nthSet (m : W32) (n : Nat) : Nat := (setBits m).getD n 0

/-- Owner column and owner row of a chunk (R159). -/
def ownerCol (e : Entry) (k : Nat) : Nat := nthSet (eColMask e) (k % max 1 (ones (eColMask e)))
def ownerRow (e : Entry) (k : Nat) : Nat := nthSet (eRowMask e) (k / max 1 (ones (eColMask e)) % max 1 (ones (eRowMask e)))

/-- The role of this device for a chunk (R160); a copying operation has none (R163). -/
def Chip.roleOf (c : Chip) (e : Entry) (k : Nat) : Role :=
  if !eGrid e || opCopying (eOp e) then .alone
  else if c.gridCol ≠ ownerCol e k then .feeder
  else if c.gridRow ≠ ownerRow e k then .rowOwner
  else .final

/-- Coupler stages before a role (R178). -/
def stagesBefore (e : Entry) : Role → Nat
  | .alone => 0
  | .feeder => 0
  | .rowOwner => 1
  | .final => (if 1 < ones (eColMask e) then 1 else 0) + (if 1 < ones (eRowMask e) then 1 else 0)

/-- An entry of the grid port map (R293): instance coordinate + 32 for a column peer. -/
def Chip.gridEnt (c : Chip) (col : Bool) (k : Nat) : W32 := c.reg pgRte 0x1304 ((if col then 32 else 0) + k)
def gValid (g : W32) : Bool := g.getLsbD 31
def gPort0 (g : W32) : Nat := fld g 0 10
def gPort1 (g : W32) : Nat := fld g 10 10

/-- The peers a role expects a partial sum from: grid port map entries (R160). -/
def Chip.rolePeers (c : Chip) (e : Entry) : Role → List W32
  | .alone => []
  | .feeder => []
  | .rowOwner => ((setBits (eColMask e)).filter (· ≠ c.gridCol)).map (c.gridEnt false)
  | .final => ((setBits (eColMask e)).filter (· ≠ c.gridCol)).map (c.gridEnt false) ++
      ((setBits (eRowMask e)).filter (· ≠ c.gridRow)).map (c.gridEnt true)

/-- Expected contributors of a coach: the logical ports, and how many peers stand on no logical port (R160, R175). -/
def Chip.expectedOf (c : Chip) (e : Entry) (bank : Bool) (r : Role) : BitVec 1024 × Nat :=
  (c.rolePeers e r).foldl
    (fun acc g => if gValid g then (putBit acc.1 (gPort0 g) true, acc.2) else (acc.1, acc.2 + 1))
    (c.ttCset bank (eCset e), 0)

/-- The grid port map entry of the peer that takes a role's PARTIAL output (R160, R161). -/
def Chip.partialPeer (c : Chip) (e : Entry) (k : Nat) : Role → Option W32
  | .feeder => some (c.gridEnt false (ownerCol e k))
  | .rowOwner => some (c.gridEnt true (ownerRow e k))
  | _ => none

/-- The coach die of a key (R109). -/
def coachDieOf (e : Entry) (k : Nat) : Nat := (eCdBase e + k % max 1 (eCdStripe e)) % 16

def Served.td (v : Served) : Int := v.t + (eDeadline v.ent * slotUnits : Nat)
def Served.tc (v : Served) (r : Role) : Int := v.t + ((eCutoff v.ent + stagesBefore v.ent r * eStageSlots v.ent) * slotUnits : Nat)

/-- The coach dies of an entry's stripe (R131, R409): those that R109 can give. -/
def stripeDies (e : Entry) : List Nat := (List.range (max 1 (min 16 (eCdStripe e)))).map (fun i => (eCdBase e + i) % 16)

/-! Commands of the TTB page -/

def Chip.ttReject (c : Chip) : Chip := c.bump pgTtb 0x1400

/-- Words of a staging area as one number, word w at bits [32w+31:32w]. -/
def Chip.staged (c : Chip) (page off words : Nat) : Nat :=
  (List.range words).foldl (fun n w => n + (c.reg page (off + 4 * w)).toNat * 2 ^ (32 * w)) 0

/-- Put a number into a staging area. -/
def Chip.stage (c : Chip) (page off words v : Nat) : Chip :=
  forAll (List.range words) c (fun w c => c.setReg page (off + 4 * w) (BitVec.ofNat 32 (v / 2 ^ (32 * w))))

def Chip.selBank (c : Chip) (off : Nat) : Bool := c.flag pgTtb off 16
def Chip.selEntry (c : Chip) : Nat := c.field pgTtb 0x1000 0 16
def Chip.selCset (c : Chip) : Nat := c.field pgTtb 0x1080 0 12

/-- READ of TTB_ENT_CMD (R193). -/
def Chip.entRead (c : Chip) : Chip :=
  (c.stage pgTtb 0x1040 16 (c.ttEntry (c.selBank 0x1000) c.selEntry).toNat).setField pgTtb 0x1008 4 4 0

/-- The first failing field check of a staged entry, as TTB_ENT_STAT.ERR codes it; 0 for none (R176). -/
def Chip.entryErr (c : Chip) (e : Entry) (bank : Bool) (idx : Nat) : Nat :=
  if !eValid e then 0
  else if 6 ≤ eOp e ∨ eRmode e = 3 ∨ ePolicy e = 3 then 1
  else if eCdStripe e = 0 ∨ 16 < eCdStripe e then 2
  else if ¬(eOpenSlot e ≤ eCutoff e ∧ eCutoff e ≤ eDeadline e ∧ eDeadline e < 2 * c.cycle (eLiv e) bank) then 3
  else if eOp e = 1 ∧ eShardChunks e = 0 then 4
  else if eGrid e ∧ (eRowMask e = 0 ∨ eColMask e = 0) then 5
  else if !c.ownsEntry (eLiv e) idx bank then 6
  else if eOrdered e ∧ (eFanin e = 0 ∨ 1024 < eFanin e) then 7
  else if entryReserved e then 8
  else 0

/-- Whether an entry index lies in a bank live for the livery that owns it there (R170). -/
def Chip.entryLive (c : Chip) (bank : Bool) (idx : Nat) : Bool :=
  (List.range 256).any (fun l => c.ownsEntry l idx bank && c.bankLive l bank)

def Chip.entRefuse (c : Chip) (err : Nat) : Chip := (c.setField pgTtb 0x1008 4 4 err).ttReject

def Chip.putEntry (c : Chip) (bank : Bool) (idx : Nat) (e : Entry) : Chip :=
  { c with tt := { c.tt with entries := Tbl.set 0 c.tt.entries (bankBase bank 65536 + idx) e } }

/-- WRITE of TTB_ENT_CMD: the liveness check, then the field checks in order (R170, R176). An entry with VALID = 0 is
stored as it is staged, its reserved bits too. DESIGN CHOICE, log 149. -/
def Chip.entWrite (c : Chip) : Chip :=
  let bank := c.selBank 0x1000
  let idx := c.selEntry
  let e : Entry := BitVec.ofNat 512 (c.staged pgTtb 0x1040 16)
  if c.entryLive bank idx then c.entRefuse 9
  else if c.entryErr e bank idx ≠ 0 then c.entRefuse (c.entryErr e bank idx)
  else (c.putEntry bank idx e).setField pgTtb 0x1008 4 4 0

/-- INVALIDATE of TTB_ENT_CMD (R193). -/
def Chip.entInvalidate (c : Chip) : Chip :=
  let bank := c.selBank 0x1000
  let idx := c.selEntry
  if c.entryLive bank idx then c.entRefuse 9
  else (c.putEntry bank idx (putBit (c.ttEntry bank idx) 0 false)).setField pgTtb 0x1008 4 4 0

/-- READ of TTB_CSET_CMD. -/
def Chip.csetRead (c : Chip) : Chip :=
  (c.stage pgTtb 0x1100 32 (c.ttCset (c.selBank 0x1080) c.selCset).toNat).setField pgTtb 0x1088 4 4 0

/-- Whether a contributor set lies in a bank live for one of its owners (R170). -/
def Chip.csetLive (c : Chip) (bank : Bool) (i : Nat) : Bool :=
  c.tt.entries.any (fun kv => decide (kv.1 / 65536 = bank.toNat) && eValid kv.2 && decide (eCset kv.2 = i) &&
    c.bankLive (eLiv kv.2) bank)

/-- WRITE of TTB_CSET_CMD (R170). -/
def Chip.csetWrite (c : Chip) : Chip :=
  let bank := c.selBank 0x1080
  if c.csetLive bank c.selCset then (c.setField pgTtb 0x1088 4 4 9).ttReject
  else
    { c.setField pgTtb 0x1088 4 4 0 with
      tt := { c.tt with csets := Tbl.set 0 c.tt.csets (bankBase bank 4096 + c.selCset) (BitVec.ofNat 1024 (c.staged pgTtb 0x1100 32)) } }

/-- Whether a range overlaps the range of another livery in a bank (R168). -/
def Chip.rangeOverlaps (c : Chip) (l : Nat) (bank : Bool) (first last : Nat) : Bool :=
  decide (first ≤ last) && (List.range 256).any (fun k => decide (k ≠ l) &&
    decide (c.entFirst k bank ≤ c.entLast k bank) && decide (first ≤ c.entLast k bank ∧ c.entFirst k bank ≤ last))

def Chip.selLiv (c : Chip) : Nat := c.field pgTtb 0x1200 0 8

/-- A write to a livery record (R168, R170). -/
def Chip.recWrite (c : Chip) (r : LivRecReg) (v : W32) : Chip :=
  let l := c.selLiv
  let refuse : Chip := (c.setFlag pgTtb 0x1208 5 true l).ttReject
  match r with
  | .cycle bank =>
    let cy := fld v 0 24
    if c.bankLive l bank ∨ (1 ≤ cy ∧ cy ≤ 63) then refuse
    else c.setReg pgTtb (if bank then 0x1224 else 0x1220) (BitVec.ofNat 32 cy) l
  | .range bank =>
    if c.bankLive l bank ∨ c.rangeOverlaps l bank (fld v 0 16) (fld v 16 16) then refuse
    else c.setReg pgTtb (rangeOff bank) v l

def Chip.setSwap (c : Chip) (l : Nat) (x : Option SwapSt) : Chip :=
  { c with tt := { c.tt with swaps := Tbl.set none c.tt.swaps l x } }

/-- The disabling of a livery (R172): a swap that has been accepted and not reached its step is discarded. -/
def Chip.ttDisable (c : Chip) (l : Nat) : Chip :=
  let c := c.setFlag pgTtb 0x1204 0 false l
  if c.swapPending l then (c.setFlag pgTtb 0x1208 1 false l).setSwap l none else c

/-- A write to TTB_LIV_CTRL (R172, R173). Enabling starts anew: OLD_BUSY and the last swap are cleared, whatever stood
there. DESIGN CHOICE, log 147. An enable that is refused leaves BANK and POLICY as they were. DESIGN CHOICE, log 148. -/
def Chip.ttCtrlWrite (c : Chip) (v : W32) : Chip :=
  let l := c.selLiv
  if c.ttEnabled l then (if v.getLsbD 0 then c else c.ttDisable l)
  else if v.getLsbD 0 then
    if c.cycle l (v.getLsbD 1) = 0 then (c.setFlag pgTtb 0x1208 6 true l).ttReject
    else
      let c := (c.setReg pgTtb 0x1204 (v &&& 7) l).setSwap l none
      let c := ((c.setFlag pgTtb 0x1208 0 (v.getLsbD 1) l).setFlag pgTtb 0x1208 1 false l).setFlag pgTtb 0x1208 2 false l
      { c with coach := { c.coach with
          ledgerSeq := forAll (List.range 16) c.coach.ledgerSeq (fun d m => Tbl.set 0 m (d * 256 + l) 0) } }
  else c.setReg pgTtb 0x1204 (v &&& 6) l

/-- A swap request (R171 steps 2 to 4). -/
def Chip.swapRequest (c : Chip) (s : W32) : Chip :=
  let l := c.selLiv
  let refuse : Chip := ((c.setFlag pgTtb 0x1208 4 true l).bump pgTtb 0x1408).raise (evV pgTtb 0x0302 (dieX 0) l)
  match c.governs l s with
  | none => refuse
  | some (b, t, cOld) =>
    let cNew := c.cycle l (!b)
    if c.ttEnabled l ∧ 64 ≤ cNew ∧ c.swapPending l = false ∧ c.oldBusy l = false ∧ 0 < stepDiff s (c.currentStep l) ∧
        (c.time.now : Int) < t - (max cOld cNew * slotUnits : Nat) then
      let c := (c.setFlag pgTtb 0x1208 1 true l).setSwap l (some ⟨s, t, cOld, (c.swapOf l).map (·.step)⟩)
      let c := (c.setReg pgTtb 0x1210 (BitVec.ofInt 32 t) l).setReg pgTtb 0x1214 (BitVec.ofInt 32 (t / 4294967296)) l
      ((c.setReg pgTtb 0x1218 s l).bump pgTtb 0x1404).raise (evV pgTtb 0x0301 (dieX 0) l)
    else refuse

/-- At T(S) the new bank governs the current step (R171 step 5); a changed CYCLE of the reference livery clears the
budget profile (R388). -/
def Chip.swapEffect (c : Chip) (l : Nat) : Chip :=
  match c.swapOf l with
  | some sw =>
    if c.swapPending l ∧ sw.t ≤ (c.time.now : Int) then
      let same := decide (c.cycle l (!c.ttBank l) = sw.cOld)
      let c := ((c.setFlag pgTtb 0x1208 0 (!c.ttBank l) l).setFlag pgTtb 0x1208 1 false l).setFlag pgTtb 0x1208 2 true l
      if c.field pgPwr 0x1014 0 8 = l ∧ !same then c.clearProfile else c
    else c
  | none => c

/-- At T(S) + C_old the previous bank is released (R171 step 6). -/
def Chip.oldRelease (c : Chip) (l : Nat) : Chip :=
  match c.swapOf l with
  | some sw =>
    if c.oldBusy l ∧ sw.t + (sw.cOld * slotUnits : Nat) ≤ (c.time.now : Int) then c.setFlag pgTtb 0x1208 2 false l else c
  | none => c

/-- The meaning of TTB_ENT_READ (R193). -/
def execTtbEntRead (s : State) : Host.Outcome State Fault Refusal := s.run fun c => if c.serves pgTtb then c.entRead else c
/-- The meaning of TTB_ENT_WRITE (R170, R176). -/
def execTtbEntWrite (s : State) : Host.Outcome State Fault Refusal := s.run fun c => if c.serves pgTtb then c.entWrite else c
/-- The meaning of TTB_ENT_INVALIDATE (R193). -/
def execTtbEntInvalidate (s : State) : Host.Outcome State Fault Refusal := s.run fun c =>
  if c.serves pgTtb then c.entInvalidate else c
/-- The meaning of TTB_CSET_READ (R193). -/
def execTtbCsetRead (s : State) : Host.Outcome State Fault Refusal := s.run fun c => if c.serves pgTtb then c.csetRead else c
/-- The meaning of TTB_CSET_WRITE (R170). -/
def execTtbCsetWrite (s : State) : Host.Outcome State Fault Refusal := s.run fun c => if c.serves pgTtb then c.csetWrite else c
/-- The meaning of LIVERY_RECORD_WRITE (R168, R170). -/
def execLiveryRecordWrite (r : LivRecReg) (v : W32) (s : State) : Host.Outcome State Fault Refusal := s.run fun c =>
  if c.serves pgTtb then c.recWrite r v else c
/-- The meaning of TTB_LIV_CTRL_WRITE (R172, R173). -/
def execTtbLivCtrlWrite (v : W32) (s : State) : Host.Outcome State Fault Refusal := s.run fun c =>
  if c.serves pgTtb then c.ttCtrlWrite v else c
/-- The meaning of TTB_LIV_SWAP (R171 steps 2 to 4). -/
def execTtbLivSwap (v : W32) (s : State) : Host.Outcome State Fault Refusal := s.run fun c =>
  if c.serves pgTtb then c.swapRequest v else c
/-- The meaning of TTB_SWAP_TAKE_EFFECT (R171 step 5). -/
def execTtbSwapTakeEffect (livery : Liv) (s : State) : Host.Outcome State Fault Refusal := s.run fun c =>
  if c.mainUp then c.swapEffect livery.toNat else c
/-- The meaning of TTB_OLD_BANK_RELEASE (R171 step 6). -/
def execTtbOldBankRelease (livery : Liv) (s : State) : Host.Outcome State Fault Refusal := s.run fun c =>
  if c.mainUp then c.oldRelease livery.toNat else c

end Sys2Proof.Machine
end

