-- ==== Sys2Proof/Machine/Traffic.lean ====
section
/-! DEFINITION. Traffic management (R315 to R334): the queues of an egress port and the order of their service, the
virtual output queues, the flow table, shapers, time gates, sampling and watermarks. -/

namespace Sys2Proof.Machine

/-! Frames in the part -/

/-- A frame as it arrived on a Narjo port. -/
def Msg.arrived (p : Nat) (h : BitVec 256) (body : List Byte) (stamp : Nat) : Msg :=
  { hdr := h, body := body, eth := false, tci := none, stamp := stamp, inPort := p, tail := 0, cells := [],
    coach := none, gateWaited := false, pos := none, num := 0 }

/-- A frame that this part makes, which leaves from a grant position, or from the port die of its egress port (none). -/
def Msg.made (h : BitVec 256) (body : List Byte) (now : Nat) (pos : Option Nat) : Msg :=
  { Msg.arrived 1024 h body now with inPort := 1024, pos := pos }

/-! Queues (R316) -/

/-- LEN of a frame in the part. -/
def Msg.len (m : Msg) : Nat := m.body.length + 36

/-- Length of a frame on an egress port: LEN in Narjo mode, the Ethernet frame in Ethernet mode. -/
def Chip.wireLen (c : Chip) (p : Nat) (m : Msg) : Nat := if c.narjo p then m.len else m.body.length

/-- The sub-queue a Bulk or Memory frame joins: 0 Bulk, 1 Memory request, 2 Memory response (R316). -/
def subOf (h : BitVec 256) : Nat :=
  if hClass h = clsMemory then (if hSub h = 3 ∨ hSub h = 5 then 2 else 1) else 0

def Egress.subq (e : Egress) (tc s : Nat) : List Msg := Tbl.get [] e.sub (tc * 3 + s)
def Egress.setSubq (e : Egress) (tc s : Nat) (q : List Msg) : Egress := { e with sub := Tbl.set [] e.sub (tc * 3 + s) q }

/-- Depth of a TC queue in bytes (R330): the frames whose transmission has not started. -/
def Chip.depth (c : Chip) (p tc : Nat) : Nat :=
  ([0, 1, 2].flatMap ((c.egress p).subq tc)).foldl (fun n m => n + c.wireLen p m) 0

/-- Whether an egress port holds no frame of a frame's queue and transmits nothing (R274). -/
def Chip.portFreeFor (c : Chip) (p : Nat) (h : BitVec 256) : Bool :=
  (c.egress p).tx.isNone && ((c.egress p).subq (hTc h) (subOf h)).isEmpty

def queueInst (p tc : Nat) : Nat := p % 128 * 16 + tc
def Chip.queueSt (c : Chip) (p tc : Nat) : QueueSt := Tbl.get QueueSt.reset c.traf.queues (p * 16 + tc)
def Chip.setQueueSt (c : Chip) (p tc : Nat) (q : QueueSt) : Chip :=
  { c with traf := { c.traf with queues := Tbl.set QueueSt.reset c.traf.queues (p * 16 + tc) q } }

/-- What a change of depth does to a queue's watermark (R331): a crossing while armed, the peak, and re-arming. -/
def Chip.watermark (c : Chip) (p tc d0 d1 : Nat) : Chip :=
  let pg := pgTmg (portDie p)
  let i := queueInst p tc
  let thr := c.field pg 0x10C0 0 16 i
  let hyst := c.field pg 0x10C0 16 16 i
  let q := c.queueSt p tc
  let flagged := c.flag pg 0x10C4 0 i
  let crossing := q.armed && decide (d0 < thr * 64 ∧ thr * 64 ≤ d1)
  let c := if crossing then
      let c := (c.bump pg 0x10C8 i).setQueueSt p tc { q with armed := false }
      if flagged then c
      else (c.setReg pg 0x10C4 (BitVec.ofNat 32 (1 + d1 % 2 ^ 24 * 256)) i).raise (evP pg 0x0607 (dieP (portDie p)) (p + tc * 65536))
    else c
  let c := if flagged && decide (c.field pg 0x10C4 8 24 i < d1) then c.setField pg 0x10C4 8 24 d1 i else c
  if d1 < d0 ∧ d1 ≤ (thr - hyst) * 64 then c.setQueueSt p tc { c.queueSt p tc with armed := true } else c

def Chip.bumpPrt (c : Chip) (p off : Nat) : Chip := c.bump (pgPrt (portDie p)) off

/-- A wake request (R250): before the commit point it cancels entry; after it, the full exit runs. -/
def Chip.lpiWake (c : Chip) (p : Nat) : Chip :=
  match (c.link p).lpi with
  | .requested => (c.setLink p { c.link p with lpi := .awake }).bumpPrt p 0x1204
  | .asleep => c.setLink p { c.link p with lpi := .waking }
  | _ => c

/-- A frame joins the queue of its kind on an egress port (R316, R320), which is a wake request (R250). -/
def Chip.enqueue (c : Chip) (p : Nat) (m : Msg) : Chip :=
  let c := c.lpiWake p
  let e := c.egress p
  if hClass m.hdr = clsControl then c.setEgress p { e with ctl := e.ctl ++ [m] }
  else if hClass m.hdr = clsCollective then c.setEgress p { e with col := e.col ++ [m] }
  else
    let tc := hTc m.hdr
    let s := subOf m.hdr
    let d0 := c.depth p tc
    (c.setEgress p (e.setSubq tc s (e.subq tc s ++ [m]))).watermark p tc d0 (d0 + c.wireLen p m)

/-- Every frame queued on an egress port. -/
def Egress.queued (e : Egress) : List Msg := e.ctl ++ e.col ++ e.sub.flatMap (·.2)

/-- Keep only the queued frames that meet a test. -/
def Egress.keep (e : Egress) (f : Msg → Bool) : Egress :=
  { e with ctl := e.ctl.filter f, col := e.col.filter f,
           sub := e.sub.foldl (fun m kv => Tbl.set [] m kv.1 (kv.2.filter f)) [] }

/-- An egress port that holds nothing is idle from now on (R249). -/
def Egress.settle (e : Egress) (now : Nat) : Egress :=
  if e.queued.isEmpty && e.again.isEmpty && e.tx.isNone then { e with idleSince := now } else e

/-- Frames that are gone from the queues of a port cross no more. -/
def Chip.voqDrop (c : Chip) (ms : List Msg) : Chip :=
  let gone (x : XItem) : Bool := ms.any (fun m => decide (m.num = x.num))
  { c with traf := { c.traf with
      voq := c.traf.voq.foldl (fun t kv => Tbl.set [] t kv.1 (kv.2.filter (fun x => !gone x))) [] } }

/-- Empty the queues of a port, with its frame in transmission; the watermarks follow. -/
def Chip.emptyEgress (c : Chip) (p : Nat) : Chip :=
  let e := c.egress p
  let d0 := (List.range 16).map (c.depth p)
  let c := (c.setEgress p { Egress.empty with rot := e.rot, idleSince := c.time.now }).voqDrop e.queued
  forAll (List.range 16) c (fun tc c => if 0 < d0.getD tc 0 then c.watermark p tc (d0.getD tc 0) 0 else c)

/-! The order of service (R320) -/

def Chip.tcCfg (c : Chip) (p tc : Nat) : W32 := c.reg (pgTmg (portDie p)) 0x1008 (queueInst p tc)
def Chip.tcStrict (c : Chip) (p tc : Nat) : Bool := (c.tcCfg p tc).getLsbD 0
def Chip.tcWeight (c : Chip) (p tc : Nat) : Nat := max 1 (fld (c.tcCfg p tc) 1 8)
def Chip.tcPri (c : Chip) (p tc : Nat) : Nat := fld (c.tcCfg p tc) 9 3

/-- The sub-queues of a TC in rotation, from the one after the last served. -/
def Rot.turns (r : Rot) (tc : Nat) : List Nat := [0, 1, 2].map (fun i => (Tbl.get 0 r.rrSub tc + i) % 3)

/-- The first sub-queue of a TC in rotation whose head is eligible, with the head's length. -/
def Rot.head (r : Rot) (len : Nat → Nat → Option Nat) (tc : Nat) : Option (Nat × Nat) :=
  (r.turns tc).findSome? (fun s => (len tc s).map (fun n => (s, n)))

/-- Deficit round robin over the weighted TCs, for at most that many visits: the TC and the sub-queue to serve. -/
def Rot.weighted (strict : Nat → Bool) (weight : Nat → Nat) (len : Nat → Nat → Option Nat) : Nat → Rot → Option (Nat × Nat) × Rot
  | 0, r => (none, r)
  | n + 1, r =>
    let tc := r.rrTc / 2 % 16
    let next : Nat := ((tc + 1) % 16) * 2
    match (if strict tc then none else r.head len tc) with
    | none => Rot.weighted strict weight len n { r with rrTc := next, deficit := Tbl.set 0 r.deficit tc 0 }
    | some (s, l) =>
      let d := Tbl.get 0 r.deficit tc + (if r.rrTc % 2 = 0 then weight tc * 256 else 0)
      if l ≤ d then
        (some (tc, s), { r with rrTc := tc * 2 + 1, deficit := Tbl.set 0 r.deficit tc (d - l), rrSub := Tbl.set 0 r.rrSub tc ((s + 1) % 3) })
      else Rot.weighted strict weight len n { r with rrTc := next, deficit := Tbl.set 0 r.deficit tc d }

/-- A TC that is not eligible keeps no deficit. -/
def Rot.forget (r : Rot) (len : Nat → Nat → Option Nat) : Rot :=
  { r with deficit := r.deficit.filter (fun kv => (r.head len kv.1).isSome) }

/-- Steps 3 and 4 of R320 on a port's TC configuration: the eligible strict TC with the highest number, else a weighted
one. `len` gives the length of the head of a sub-queue that is eligible. -/
def Chip.tcChoice (c : Chip) (p : Nat) (len : Nat → Nat → Option Nat) (r : Rot) : Option (Nat × Nat) × Rot :=
  let r := r.forget len
  match ((List.range 16).reverse.filter (c.tcStrict p)).findSome? (fun tc => (r.head len tc).map (fun h => (tc, h.1))) with
  | some (tc, s) => (some (tc, s), { r with rrSub := Tbl.set 0 r.rrSub tc ((s + 1) % 3) })
  | none => Rot.weighted (c.tcStrict p) (c.tcWeight p) len 1120 r

/-! Virtual output queues (R286) -/

/-- The attachment of a logical port's physical port; a joined port's cells carry the even one's number (R18, R19). -/
def attachOf (c : Chip) (p : Nat) : Nat := if c.split (physOf p) = 3 then physOf p / 2 * 2 else physOf p

/-- Grant positions (R286). -/
def positions : Nat := 544

/-- The attachment of a grant position (R18, R286). -/
def attachOfPos (o : Nat) : Nat := if o < 256 then o else 256 + (o - 256) / 16

/-- Key of the virtual output queue of an input position, a destination attachment and a level. -/
def voqKey (pos dest lv : Nat) : Nat := (pos * 288 + dest) * 3 + lv

/-- Priority level of a class (R287). -/
def levelOfClass (cls : Nat) : Nat := if cls = clsControl then 0 else if cls = clsCollective then 1 else 2

def Chip.voq (c : Chip) (k : Nat) : List XItem := Tbl.get [] c.traf.voq k
def Chip.setVoq (c : Chip) (k : Nat) (xs : List XItem) : Chip :=
  { c with traf := { c.traf with voq := Tbl.set [] c.traf.voq k xs } }

/-- Whether cells of a crossing still wait. -/
def Chip.crossing (c : Chip) (n : Nat) : Bool :=
  decide (n ≠ 0) && c.traf.voq.any (fun kv => kv.2.any (fun x => decide (x.num = n)))

/-! Priority-based flow control of an Ethernet-mode port (R256) -/

/-- The router's address (RTE_ROUTER_MAC). -/
def Chip.routerMac (c : Chip) : Nat := c.field pgRte 0x1514 0 16 * 2 ^ 32 + (c.reg pgRte 0x1510).toNat

/-- Credits of the ingress buffer that frames of a priority fill: those whose cells have not left it. -/
def Chip.pfcFill (c : Chip) (p i : Nat) : Nat :=
  c.traf.voq.foldl (fun n kv => kv.2.foldl (fun n x => if x.pfc = some (p, i) then n + 8 * x.cells else n) n) 0

/-- A MAC control frame that pauses or releases one priority (IEEE 802.1Qbb). -/
def pfcBytes (mac i : Nat) (pause : Bool) : List Byte :=
  let b := bytesBE 6 0x0180C2000001 ++ bytesBE 6 mac ++ bytesBE 2 0x8808 ++ bytesBE 2 0x0101 ++ bytesBE 2 (2 ^ i) ++
    (List.range 8).flatMap (fun j => bytesBE 2 (if pause && decide (j = i) then 0xFFFF else 0)) ++ bytesBE 26 0
  withTrailer b 0

/-- A priority is paused when its ingress occupancy exceeds XOFF, and released when it falls below XON. -/
def Chip.pfcCheck (c : Chip) (p i : Nat) : Chip :=
  let n := c.pfcFill p i
  let pg := pgLnk (portDie p)
  let sent := (c.link p).pfcSent.getLsbD i
  let send (pause : Bool) : Chip :=
    (c.setLink p { c.link p with pfcSent := putBit (c.link p).pfcSent i pause }).enqueue p
      { Msg.made (mkHdr clsControl 6 0 false 0 0 64 0 0) (pfcBytes c.routerMac i pause) c.time.now none with eth := true }
  if !sent && decide (c.field pg 0x100C 0 16 (p % 128) < n) then send true
  else if sent && decide (n < c.field pg 0x100C 16 16 (p % 128)) then send false
  else c

/-- The cells of a frame wait at an input position for a destination attachment (R286), for egress port `q`, and behind
the end of another crossing: the number of this crossing. -/
def Chip.toCrossbar (c : Chip) (pos dest q after : Nat) (m : Msg) : Nat × Chip :=
  let n := c.traf.xnum + 1
  let k := voqKey pos dest (levelOfClass (hClass m.hdr))
  let pri := m.tci.getD 0 / 8192 % 8
  let fills := m.eth && decide (m.inPort < 1024) && m.cells.isEmpty
  let x : XItem := ⟨n, cellsFor m.len, false, after, q, hTc m.hdr, subOf m.hdr,
    decide (hClass m.hdr = clsControl ∧ hSub m.hdr = 0), hLiv m.hdr, if fills then some (m.inPort, pri) else none⟩
  let c := { c.setVoq k (c.voq k ++ [x]) with traf := { (c.setVoq k (c.voq k ++ [x])).traf with xnum := n } }
  (n, if fills then c.pfcCheck m.inPort pri else c)

/-! The flow table (R317, R318) -/

def flowKeyOf (e : BitVec 256) : Nat := fld e 0 50
def flowBucket (key : Nat) : Nat := (crc32 (bytesBE 7 key)).toNat % 16384
def Chip.flow (c : Chip) (bucket way : Nat) : BitVec 256 := Tbl.get 0 c.traf.flows (bucket * 4 + way)
def flowValid (e : BitVec 256) : Bool := e.getLsbD 64

/-- The way of a bucket that holds a key. -/
def Chip.flowWay (c : Chip) (key : Nat) : Option Nat :=
  [0, 1, 2, 3].find? (fun w => flowValid (c.flow (flowBucket key) w) && decide (flowKeyOf (c.flow (flowBucket key) w) = key))

def Chip.setFlow (c : Chip) (bucket way : Nat) (e : BitVec 256) : Chip :=
  { c with traf := { c.traf with flows := Tbl.set 0 c.traf.flows (bucket * 4 + way) e } }

/-- The flow key of a Memory or Bulk frame (R317). -/
def Msg.flowKey (m : Msg) : Nat :=
  hClass m.hdr % 4 + hLiv m.hdr * 4 + (if m.eth then 0 else hSrc m.hdr) * 2 ^ 10 + hDst m.hdr * 2 ^ 28 + hTc m.hdr * 2 ^ 46

/-- Length of a frame at its ingress port die: LEN, or the Ethernet length. -/
def Msg.flowLen (m : Msg) : Nat := if m.eth then m.body.length else hLen m.hdr

/-- What a flow lookup gives a frame (R318): the frame under its TC, its flow shaper and its mirror session. -/
structure FlowHit where
  msg : Msg
  shaper : Option Nat
  mirror : Option Nat
  deriving DecidableEq, Repr

/-- The flow lookup of R318, with its frame and byte counts. -/
def Chip.flowLookup (c : Chip) (m : Msg) : FlowHit × Chip :=
  let key := m.flowKey
  match c.flowWay key with
  | none => (⟨m, none, none⟩, c)
  | some w =>
    let b := flowBucket key
    let e := c.flow b w
    let c := if e.getLsbD 85 then
        c.setFlow b w (putFld (putFld e 128 32 (fld e 128 32 + 1)) 160 48 (fld e 160 48 + m.flowLen))
      else c
    let m := if e.getLsbD 65 then { m with hdr := putFld m.hdr 161 4 (fld e 66 4) } else m
    (⟨m, if e.getLsbD 70 then some (fld e 71 9) else none, if e.getLsbD 80 then some (fld e 81 4) else none⟩, c)

def tmgFlowStat : Nat := 0x1104

/-- READ of TMG_FLOW_CMD: the entry with the staged key, or MISS (R317). -/
def Chip.flowRead (c : Chip) (d : Nat) : Chip :=
  let pg := pgTmg d
  let key := c.staged pg 0x1120 2 % 2 ^ 50
  match c.flowWay key with
  | some w => (c.stage pg 0x1120 8 (c.flow (flowBucket key) w).toNat).setFlag pg tmgFlowStat 2 false
  | none => c.setFlag pg tmgFlowStat 2 true

/-- Reserved bits of a flow entry (R317). -/
def flowReserved (e : BitVec 256) : Bool := fld e 50 14 ≠ 0 || fld e 86 42 ≠ 0 || fld e 208 48 ≠ 0

/-- WRITE of TMG_FLOW_CMD (R317, R318): the way with the key, else the lowest free way, else FULL. FRAMES and BYTES are
kept when the key exists and zeroed otherwise; they are read-only. -/
def Chip.flowWrite (c : Chip) (d : Nat) : Chip :=
  let pg := pgTmg d
  let e : BitVec 256 := BitVec.ofNat 256 (c.staged pg 0x1120 8)
  let key := flowKeyOf e
  let b := flowBucket key
  let ok (c : Chip) : Chip := (c.setFlag pg tmgFlowStat 1 false).setFlag pg tmgFlowStat 3 false
  if flowReserved e then (c.setFlag pg tmgFlowStat 1 false).setFlag pg tmgFlowStat 3 true
  else match c.flowWay key with
    | some w =>
      let old := c.flow b w
      ok (c.setFlow b w (putFld (putFld e 128 32 (fld old 128 32)) 160 48 (fld old 160 48)))
    | none =>
      match [0, 1, 2, 3].find? (fun w => !flowValid (c.flow b w)) with
      | some w => ok (c.setFlow b w (putFld e 128 80 0))
      | none => (c.setFlag pg tmgFlowStat 1 true).setFlag pg tmgFlowStat 3 false

/-- DELETE of TMG_FLOW_CMD. -/
def Chip.flowDelete (c : Chip) (d : Nat) : Chip :=
  let pg := pgTmg d
  let key := c.staged pg 0x1120 2 % 2 ^ 50
  match c.flowWay key with
  | some w => (c.setFlow (flowBucket key) w 0).setFlag pg tmgFlowStat 2 false
  | none => c.setFlag pg tmgFlowStat 2 true

/-! Shapers (R322 to R324): number n of a die is port shaper n for n below 128, TC shaper 128 + 16 * port + TC, flow
shaper 2176 + f. -/

def tcShaper (p tc : Nat) : Nat := 128 + p % 128 * 16 + tc
def flowShaper (f : Nat) : Nat := 2176 + f
def Chip.shaper (c : Chip) (d n : Nat) : Shaper := Tbl.get Shaper.reset c.traf.shapers (d * 4096 + n)
def Chip.setShaper (c : Chip) (d n : Nat) (s : Shaper) : Chip :=
  { c with traf := { c.traf with shapers := Tbl.set Shaper.reset c.traf.shapers (d * 4096 + n) s } }

/-- Whether a shaper lets a frame start: it governs nothing at RATE 0, and needs tokens of at least 0 (R322). -/
def Chip.shaperOpen (c : Chip) (d n : Nat) : Bool := decide ((c.shaper d n).rate = 0) || decide (0 ≤ (c.shaper d n).tokens)

/-- Deduct a frame's length and overhead from a shaper that governs it, in 1/8 bytes. -/
def Chip.shaperTake (c : Chip) (d n bytes : Nat) : Chip :=
  if (c.shaper d n).rate = 0 then c
  else c.setShaper d n { c.shaper d n with tokens := (c.shaper d n).tokens - (bytes * 8 : Nat) }

/-- OVH of a port (TMG_PORT_CFG). -/
def Chip.overhead (c : Chip) (p : Nat) : Nat := c.field (pgTmg (portDie p)) 0x1004 0 6 (p % 128)

/-- The refill of one shaper at a slot boundary (R322, R323): a set applied before it is taken, then RATE/8 bytes up to
BURST; a set applied at the boundary itself waits for the next. -/
def Shaper.refill (s : Shaper) (at_ : Nat) : Shaper :=
  let s := match s.pending with
    | some (r, b) => if s.applied < at_ then { s with rate := r, burst := b, pending := none } else s
    | none => s
  { s with tokens := min (s.tokens + s.rate) ((s.burst * 8 : Nat) : Int) }

/-- Every shaper of a port die refills, once at each slot boundary of fabric time (R322). -/
def Chip.refillDie (c : Chip) (d : Nat) : Chip :=
  let slot := c.time.now / slotUnits + 1
  if Tbl.get 0 c.traf.refilled d = slot then c
  else
    let keys := (c.traf.shapers.map (·.1)).filter (fun k => decide (k / 4096 = d))
    { c with traf := { c.traf with
        refilled := Tbl.set 0 c.traf.refilled d slot
        shapers := keys.foldl
          (fun m k => Tbl.set Shaper.reset m k ((Tbl.get Shaper.reset c.traf.shapers k).refill c.slotStart)) c.traf.shapers } }

/-- The shaper that TMG_SHP_SEL and TMG_Q_SEL select on a die; none for the reserved kind. -/
def Chip.selShaper (c : Chip) (d : Nat) : Option Nat :=
  let pg := pgTmg d
  let port := c.field pg 0x1000 0 7
  match c.field pg 0x1010 0 2 with
  | 0 => some port
  | 1 => some (tcShaper port (c.field pg 0x1000 8 4))
  | 2 => some (flowShaper (c.field pg 0x1010 2 9))
  | _ => none

/-- APPLY of TMG_SHP_CMD: the staged values become the selected shaper's pending set (R323). -/
def Chip.shaperApply (c : Chip) (d : Nat) : Chip :=
  match c.selShaper d with
  | some n =>
    let s := c.shaper d n
    c.setShaper d n { s with
      pending := some (c.field (pgTmg d) 0x1014 0 24 n, c.field (pgTmg d) 0x1018 0 24 n), applied := c.time.now }
  | none => c

/-! Time gates (R325 to R328) -/

def Chip.gateEn (c : Chip) (p : Nat) : Bool := c.flag (pgTmg (portDie p)) 0x1004 8 (p % 128)
def Chip.gate (c : Chip) (p : Nat) : GateSt := Tbl.get GateSt.reset c.traf.gates p
def Chip.setGate (c : Chip) (p : Nat) (g : GateSt) : Chip :=
  { c with traf := { c.traf with gates := Tbl.set GateSt.reset c.traf.gates p g } }

def gclInst (p : Nat) (list : Bool) : Nat := p % 128 * 2 + list.toNat
def Chip.gclLen (c : Chip) (p : Nat) (list : Bool) : Nat :=
  min 256 (max 1 (c.field (pgTmg (portDie p)) 0x1048 0 9 (gclInst p list)))
/-- CYCLE of a list in fabric-time units; 0 acts as 1 ns. -/
def Chip.gclCycle (c : Chip) (p : Nat) (list : Bool) : Nat :=
  nsUnits (max 1 (c.field (pgTmg (portDie p)) 0x104C 0 24 (gclInst p list)))
def Chip.gclBase (c : Chip) (p : Nat) (list : Bool) : Int :=
  (((c.reg (pgTmg (portDie p)) 0x1054 (gclInst p list)).toNat * 4294967296 +
    (c.reg (pgTmg (portDie p)) 0x1050 (gclInst p list)).toNat : Nat) : Int)
def Chip.gclEnt (c : Chip) (p : Nat) (list : Bool) (i : Nat) : W32 :=
  c.reg (pgTmg (portDie p)) 0x1044 (p % 128 * 512 + list.toNat * 256 + i)

/-- The spans of one cycle of a list, as (gates, units): intervals cut at CYCLE, the last entry kept to its end
(R325). -/
def gclSpans (cyc : Nat) : List W32 → Nat → List (BitVec 16 × Nat)
  | [], _ => []
  | [e], at_ => [(BitVec.ofNat 16 (fld e 0 16), cyc - at_)]
  | e :: es, at_ =>
    let n := min (max 1 (fld e 16 16) * nsUnits 16) (cyc - at_)
    (BitVec.ofNat 16 (fld e 0 16), n) :: gclSpans cyc es (at_ + n)

def Chip.spans (c : Chip) (p : Nat) (list : Bool) : List (BitVec 16 × Nat) :=
  gclSpans (c.gclCycle p list) ((List.range (c.gclLen p list)).map (c.gclEnt p list)) 0

/-- The spans from an offset in the cycle on. -/
def spansFrom : List (BitVec 16 × Nat) → Nat → List (BitVec 16 × Nat)
  | [], _ => []
  | (g, n) :: t, off => if off < n then (g, n - off) :: t else spansFrom t (off - n)

/-- Units for which a gate stays open from the head of a list of spans on. -/
def openRun (tc : Nat) : List (BitVec 16 × Nat) → Nat
  | [] => 0
  | (g, n) :: t => if n = 0 then openRun tc t else if g.getLsbD tc then n + openRun tc t else 0

/-- The gates of a list at a time (R325). -/
def Chip.gatesAt (c : Chip) (p : Nat) (list : Bool) (t : Int) : BitVec 16 :=
  let off := ((t - c.gclBase p list) % (c.gclCycle p list : Int)).toNat
  match (spansFrom (c.spans p list) off).filter (fun s => decide (s.2 ≠ 0)) with
  | (g, _) :: _ => g
  | [] => 0xFFFF

/-- Whether every span of a cycle has a gate open. -/
def alwaysOpen (tc : Nat) (ss : List (BitVec 16 × Nat)) : Bool := ss.all (fun s => s.2 = 0 || s.1.getLsbD tc)

/-- Units a gate stays open without interruption in a list from a time on; none for without end. -/
def Chip.listOpen (c : Chip) (p tc : Nat) (list : Bool) (t : Int) : Option Nat :=
  let ss := c.spans p list
  if alwaysOpen tc ss then none
  else some (openRun tc (spansFrom ss ((t - c.gclBase p list) % (c.gclCycle p list : Int)).toNat ++ ss))

/-- Units a gate stays open without interruption from a time on (R326), across a switch that is pending (R328); none for
without end. -/
def Chip.openFor (c : Chip) (p tc : Nat) (t : Int) : Option Nat :=
  let g := c.gate p
  let now := c.listOpen p tc g.oper t
  let left := (g.at_ - t).toNat
  if g.pending ∧ t < g.at_ ∧ left ≤ now.getD left then (c.listOpen p tc (!g.oper) g.at_).map (left + ·) else now

/-- The longest open window of a TC in the operative list (R327); none for without end. -/
def Chip.longestWindow (c : Chip) (p tc : Nat) : Option Nat :=
  let ss := c.spans p (c.gate p).oper
  if alwaysOpen tc ss then none
  else some ((List.range ss.length).foldl (fun m i => max m (openRun tc (ss.drop i ++ ss))) 0)

/-- Transmission time of a frame with its overhead, in whole ns, rounded up (R326). -/
def Chip.txTime (c : Chip) (p len : Nat) : Nat := ceilDiv ((len + c.overhead p) * 8) (max 1 (c.portRate p))

/-- Whether the gate of a TC lets a frame of a length start now (R326). -/
def Chip.gateFits (c : Chip) (p tc len : Nat) : Bool :=
  !c.gateEn p || ((c.gate p).gates.getLsbD tc &&
    match c.openFor p tc c.time.now with
    | none => true
    | some n => decide (nsUnits (c.txTime p len) ≤ n))

/-- Whether a frame is longer than every window of its TC (R327). -/
def Chip.gateOversize (c : Chip) (p tc len : Nat) : Bool :=
  c.gateEn p && match c.longestWindow p tc with
    | none => false
    | some n => decide (n < nsUnits (c.txTime p len))

/-- The gates of a port follow the time (R325). -/
def Chip.gateUpdate (c : Chip) (p : Nat) : Chip :=
  let g := c.gate p
  c.setGate p { g with gates := if c.gateEn p then c.gatesAt p g.oper c.time.now else 0xFFFF }

/-- The first cycle start of a list at or after a time. -/
def Chip.cycleStart (c : Chip) (p : Nat) (list : Bool) (t : Int) : Int :=
  let b := c.gclBase p list
  let cy : Int := c.gclCycle p list
  b + (t - b + cy - 1) / cy * cy

/-- SWITCH of TMG_GATE_CMD for the port that TMG_Q_SEL selects (R328): the other list becomes operative at the first of
its cycle starts at or after the end of the present list's cycle, or at or after now when GATE_EN is 0. -/
def Chip.gateSwitch (c : Chip) (d : Nat) : Chip :=
  let p := d * 128 + c.field (pgTmg d) 0x1000 0 7
  let g := c.gate p
  let from_ : Int := if c.gateEn p then c.cycleStart p g.oper ((c.time.now : Int) + 1) else c.time.now
  c.setGate p { g with pending := true, at_ := c.cycleStart p (!g.oper) from_ }

/-- The switch takes effect (R328). -/
def Chip.gateEffect (c : Chip) (p : Nat) : Chip :=
  let g := c.gate p
  if g.pending ∧ g.at_ ≤ (c.time.now : Int) then
    (c.setGate p { g with oper := !g.oper, pending := false }).gateUpdate p
  else c

/-! Sampling (R330) -/

/-- An interval of a port die ends (R330): with EN = 1, depth and largest delay of every TC queue, and the interval's
number, are latched; the delays of the next interval start anew, sampled or not. -/
def Chip.sampleClose (c : Chip) (d : Nat) : Chip :=
  let iv := min 20 (c.field (pgTmg d) 0x1080 4 5)
  let en := c.flag (pgTmg d) 0x1080 0
  if c.slotStart % (slotUnits * 2 ^ iv) = 0 then
    let c := forAll (List.range 128) c (fun i c => forAll (List.range 16) c (fun tc c =>
      let p := d * 128 + i
      let q := c.queueSt p tc
      c.setQueueSt p tc { q with
        sampDepth := if en then c.depth p tc else q.sampDepth
        sampDelay := if en then q.delayMax else q.sampDelay
        delayMax := 0 }))
    if en then c.setReg (pgTmg d) 0x1090 (BitVec.ofNat 32 (c.time.now / (slotUnits * 2 ^ iv))) else c
  else c

/-- A read of TMG_Q_SAMP_SEQ latches the sampled depth and delay of the selected queue (R330). -/
def Chip.sampSeqRead (c : Chip) (d : Nat) : Chip :=
  let pg := pgTmg d
  let p := d * 128 + c.field pg 0x1000 0 7
  let tc := c.field pg 0x1000 8 4
  let q := c.queueSt p tc
  let i := queueInst p tc
  ((c.setReg pg 0x1088 (BitVec.ofNat 32 (q.sampDepth % 2 ^ 24)) i).setReg pg 0x108C
    (BitVec.ofNat 32 (min 0xFFFFFFFF q.sampDelay)) i).answer (c.reg pg 0x1090)

/-- A write of 1 to FLAG of the selected queue (R332); `crossing` is a crossing in the same handshake. -/
def Chip.wmClear (c : Chip) (d : Nat) (v : W32) (crossing : Bool) : Chip :=
  let pg := pgTmg d
  let p := d * 128 + c.field pg 0x1000 0 7
  let tc := c.field pg 0x1000 8 4
  let i := queueInst p tc
  let dep := c.depth p tc
  let keep : W32 := BitVec.ofNat 32 (1 + dep % 2 ^ 24 * 256)
  if !v.getLsbD 0 then c
  else if crossing && (c.queueSt p tc).armed then
    let c1 := ((c.setReg pg 0x10C4 keep i).bump pg 0x10C8 i).setQueueSt p tc { c.queueSt p tc with armed := false }
    if c.flag pg 0x10C4 0 i then c1 else c1.raise (evP pg 0x0607 (dieP d) (p + tc * 65536))
  else if c.flag pg 0x10C4 0 i && decide (c.field pg 0x10C0 0 16 i * 64 ≤ dep) then c.setReg pg 0x10C4 keep i
  else c.setReg pg 0x10C4 0 i

/-- The meaning of SHAPER_REFILL (R322, R323): every shaper of a port die, at a slot boundary. -/
def execShaperRefill (d : PDie) (s : State) : Host.Outcome State Fault Refusal := s.run fun c =>
  if c.mainUp then c.refillDie d.val else c
/-- The meaning of SHAPER_APPLY (R323). -/
def execShaperApply (d : PDie) (s : State) : Host.Outcome State Fault Refusal := s.run fun c =>
  if c.serves (pgTmg d.val) then c.shaperApply d.val else c
/-- The meaning of GATE_SWITCH (R328). -/
def execGateSwitch (d : PDie) (s : State) : Host.Outcome State Fault Refusal := s.run fun c =>
  if c.serves (pgTmg d.val) then c.gateSwitch d.val else c
/-- The meaning of GATE_SWITCH_EFFECT (R328). -/
def execGateSwitchEffect (p : LPort) (s : State) : Host.Outcome State Fault Refusal := s.run fun c =>
  if c.mainUp then c.gateEffect p.val else c
/-- The meaning of GATE_INTERVAL_BOUNDARY (R325). -/
def execGateIntervalBoundary (p : LPort) (s : State) : Host.Outcome State Fault Refusal := s.run fun c =>
  if c.mainUp then c.gateUpdate p.val else c
/-- The meaning of SAMPLE_INTERVAL_CLOSE (R330). -/
def execSampleIntervalClose (d : PDie) (s : State) : Host.Outcome State Fault Refusal := s.run fun c =>
  if c.mainUp then c.sampleClose d.val else c
/-- The meaning of Q_SAMP_SEQ_READ (R330). -/
def execQSampSeqRead (d : PDie) (s : State) : Host.Outcome State Fault Refusal := s.run fun c =>
  if c.serves (pgTmg d.val) then c.sampSeqRead d.val else c.answer 0
/-- The meaning of WM_FLAG_CLEAR (R332). -/
def execWmFlagClear (d : PDie) (v : W32) (crossing : Bool) (s : State) : Host.Outcome State Fault Refusal := s.run fun c =>
  if c.serves (pgTmg d.val) then c.wmClear d.val v crossing else c
/-- The meaning of FLOW_READ (R317). -/
def execFlowRead (d : PDie) (s : State) : Host.Outcome State Fault Refusal := s.run fun c =>
  if c.serves (pgTmg d.val) then c.flowRead d.val else c
/-- The meaning of FLOW_WRITE (R317, R318). -/
def execFlowWrite (d : PDie) (s : State) : Host.Outcome State Fault Refusal := s.run fun c =>
  if c.serves (pgTmg d.val) then c.flowWrite d.val else c
/-- The meaning of FLOW_DELETE (R317). -/
def execFlowDelete (d : PDie) (s : State) : Host.Outcome State Fault Refusal := s.run fun c =>
  if c.serves (pgTmg d.val) then c.flowDelete d.val else c

end Sys2Proof.Machine
end

