-- ==== Sys2Proof/Machine/Routing.lean ====
section
/-! DEFINITION. Switching and routing (R286 to R314): the route table and its bank swap, the choice of a port, dispatch
cut-through or through cells, multicast replication, held frames of lost targets, mirroring, and the commands of the
RTE page. -/

namespace Sys2Proof.Machine

/-! Frames in the part -/

/-- A frame with a decremented HOPS (R261). -/
def Msg.hop (m : Msg) : Msg := { m with hdr := putFld m.hdr 237 5 (hHops m.hdr - 1) }

/-- The tailboard code that a tail gives a frame sent cut-through (R274, R277). -/
def TailSt.code : TailSt → Nat
  | .good => 0
  | .tailboard k => k
  | .bad k => k

/-- A frame handed to M0 over the management interconnect (R292). -/
def Chip.handToM0 (c : Chip) (m : Msg) : Chip := { c with out := { c.out with toM0 := c.out.toM0 ++ [m] } }

/-- A frame discarded for want of cells (R201, R208): counted on the ingress port die. -/
def Chip.polDiscard (c : Chip) (inPort : Nat) : Chip :=
  if inPort < 1024 then c.bump (pgPolP (portDie inPort)) 0x1110 else c

/-! The route table (R290 to R292) -/

def dgOf (eid : Nat) : Nat := eid / 64
def Chip.dgBank (c : Chip) (g : Nat) : Bool := c.flag pgRte (0x1100 + 4 * (g / 32)) (g % 32)
def Chip.routeEnt (c : Chip) (bank : Bool) (eid : Nat) : BitVec 64 := Tbl.get 0 c.rte.routes (bankBase bank 262144 + eid)
def rtValid (r : BitVec 64) : Bool := r.getLsbD 0
def rtPermit (r : BitVec 64) (cls : Nat) : Bool := r.getLsbD (1 + cls)
def rtAltEn (r : BitVec 64) : Bool := r.getLsbD 5
def rtPrimary (r : BitVec 64) : Nat := fld r 6 10
def rtAlternate (r : BitVec 64) : Nat := fld r 16 10
def rtSelf (r : BitVec 64) : Bool := r.getLsbD 32

/-- Outcome of a route lookup (R292): a miss, this device, a port that is up, no port that is up, or a Memory frame's
primary port that is not up. -/
inductive Route where
  | miss
  | self
  | port (q : Nat)
  | down
  | lost (q : Nat)
  deriving DecidableEq, Repr

/-- The lookup of R290 and the choice of port of R292. -/
def Chip.lookup (c : Chip) (dst cls : Nat) : Route :=
  let r := c.routeEnt (c.dgBank (dgOf dst)) dst
  if !rtValid r || !rtPermit r cls then .miss
  else if rtSelf r then .self
  else if cls = clsMemory then (if c.portUp (rtPrimary r) then .port (rtPrimary r) else .lost (rtPrimary r))
  else if c.portUp (rtPrimary r) then .port (rtPrimary r)
  else if cls ≠ clsCollective ∧ rtAltEn r ∧ c.portUp (rtAlternate r) then .port (rtAlternate r)
  else .down

def Chip.routeMiss (c : Chip) : Chip := c.bump pgRte 0x1800
def Chip.downDrop (c : Chip) : Chip := c.bump pgRte 0x1804

/-! Cells -/

/-- The owner whose quota a frame's cells are charged to (R199, R208). -/
def cellOwner (h : BitVec 256) : Nat := if hClass h = clsControl then ctlOwner else hLiv h

/-- Whether the CELL level that a port die acts on withholds a cell from a frame (R208). -/
def Chip.cellBraked (c : Chip) (pd bd : Nat) (h : BitVec 256) : Bool :=
  if hClass h = clsControl then false
  else decide ((if hClass h = clsBulk then 2 else 3) ≤ c.knownLevel pd (16 + bd) (hLiv h))

/-- The port die that writes a frame's cells: that of its ingress port, or of its egress port when this part made it. -/
def Msg.cellDie (m : Msg) (q : Nat) : Nat := if m.inPort < 1024 then portDie m.inPort else portDie (q % 1024)

/-- A grant position of a coach die, for what its slot `i` sends (R286). -/
def coachPos (d i : Nat) : Nat := 256 + 16 * d + i % 16

/-- The grant position that the cells of crossing number `n` of a frame leave from (R286, R289): its buffer die's for a
frame in cells, that of the die that made it, else that of its ingress port; the frames of a joined port take its two
positions in turn (R19). None for a frame made on the die of its egress port. DESIGN CHOICE, log 154. -/
def Chip.posOf (c : Chip) (m : Msg) (q n : Nat) : Option Nat :=
  match m.cells, m.pos with
  | r :: _, _ => some (512 + 16 * r.bdie + q % 16)
  | [], some p => some p
  | [], none =>
    if m.inPort < 1024 then some (attachOf c m.inPort + if c.split (physOf m.inPort) = 3 then n % 2 else 0) else none

/-- A frame's cells cross to an attachment on their way to egress port `q`, behind the crossing that brings them
(R286, R288). -/
def Chip.cross (c : Chip) (m : Msg) (dest q : Nat) : Msg × Chip :=
  match c.posOf m q (c.traf.xnum + 1) with
  | some pos => let r := c.toCrossbar pos dest q m.num m; ({ m with num := r.1 }, r.2)
  | none => ({ m with num := 0 }, c)

/-- A frame written whole to cells for `refs` transmits, or discarded and counted (R201, R208, R274). A frame that
already lies in cells stays there, for so many transmits. -/
def Chip.holdWhole (c : Chip) (m : Msg) (q refs : Nat) : Option Msg × Chip :=
  if m.cells ≠ [] then (some m, forAll m.cells c (fun r c => c.setRefs r refs))
  else
    let pd := m.cellDie q
    let bd := c.bufferDie pd (hLiv m.hdr)
    if c.cellBraked pd bd m.hdr then (none, c.polDiscard m.inPort)
    else match c.writeCells bd (cellOwner m.hdr) m.len refs with
      | (some rs, c) => let r := c.cross m (272 + bd) q; (some { r.1 with cells := rs }, r.2)
      | (none, c) => (none, c.polDiscard m.inPort)

/-- A frame crosses to the queue of an egress port (R286, R316). -/
def Chip.deliver (c : Chip) (q : Nat) (m : Msg) : Chip :=
  let r := c.cross m (attachOf c q) q
  r.2.enqueue q r.1

/-! Lost targets (R306, R307) -/

def Chip.lostOf (c : Chip) (l : Nat) : LostSt := Tbl.get LostSt.none c.rte.lost l
def Chip.setLost (c : Chip) (l : Nat) (x : LostSt) : Chip :=
  { c with rte := { c.rte with lost := Tbl.set LostSt.none c.rte.lost l x } }
def Chip.tdStat (c : Chip) (l i : Nat) : Bool := c.flag pgRte 0x160C i l
/-- L is torn down or being torn down (R308, R309). -/
def Chip.tornDown (c : Chip) (l : Nat) : Bool := c.tdStat l 1

/-- A target of a livery is lost on a port (R306): the event, and the teardown timer where none runs. -/
def Chip.loseTarget (c : Chip) (l q : Nat) : Chip :=
  let x := c.lostOf l
  if q ∈ x.ports then c
  else
    let c := c.raise (evV pgRte 0x0603 (dieX 0) l q)
    if c.tdStat l 0 then c.setLost l { x with ports := x.ports ++ [q] }
    else (c.setFlag pgRte 0x160C 0 true l).setLost l { x with ports := x.ports ++ [q], since := c.time.now }

/-- A Memory frame of a livery for a port was lost or discarded while the livery has lost a target (R307). -/
def Chip.gapTarget (c : Chip) (l q : Nat) : Chip :=
  let x := c.lostOf l
  if x.ports = [] ∨ q ∈ x.gaps then c else c.setLost l { x with gaps := x.gaps ++ [q] }

/-- A frame for a port is discarded. -/
def Chip.gapMsg (c : Chip) (q : Nat) (m : Msg) : Chip := if hClass m.hdr = clsMemory then c.gapTarget (hLiv m.hdr) q else c

/-- Hold a Memory frame for a port with a lost target (R306). -/
def Chip.holdLost (c : Chip) (q : Nat) (m : Msg) : Chip :=
  let l := hLiv m.hdr
  let c := c.loseTarget l q
  match c.holdWhole m q 1 with
  | (some m, c) => c.setLost l { c.lostOf l with held := (c.lostOf l).held ++ [(q, m)] }
  | (none, c) => c.gapTarget l q

/-! Dispatch (R274, R21 step 7) -/

/-- Whether a frame may go cut-through to an egress port (R274). -/
def Chip.mayCut (c : Chip) (q : Nat) (m : Msg) : Bool :=
  m.cells.isEmpty && decide (m.inPort < 1024) && c.portFreeFor q m.hdr && decide (c.portRate q ≤ c.portRate m.inPort)

/-- Place a unicast frame on its egress port: cut-through, with a tailboard when its tail is bad; else whole through
cells, or discarded when its tail is bad (R274, R277). A frame this part makes needs no cells. -/
def Chip.place (c : Chip) (q : Nat) (m : Msg) (tail : TailSt) : Chip :=
  if !c.livPort (hLiv m.hdr) q then (c.violation (hLiv m.hdr) 9 (some q)).dropCells m.cells
  else if m.inPort = 1024 then c.deliver q m
  else if decide (hClass m.hdr = clsBulk ∨ hClass m.hdr = clsMemory) && c.mayCut q m then
    c.deliver q { m with tail := tail.code }
  else if tail = .good then
    match c.holdWhole m q 1 with
    | (some m, c) => c.deliver q m
    | (none, c) => c.gapMsg q m
  else c.dropCells m.cells

/-! Mirroring (R310 to R312) -/

def mirSrc : Nat := 0x1704
def mirCfg : Nat := 0x1708

/-- The bytes of a frame as it stands at dispatch (R310, R311): from the link header of a Narjo frame, or from the
destination address of an Ethernet frame. -/
def Msg.inBytes (m : Msg) : List Byte := if m.eth then m.body else withTrailer (frameBytes m.hdr m.body) 0

/-- The mirror header (R311). -/
def mirrorHeader (stamp session : Nat) (egress cut bad : Bool) (lport len : Nat) : BitVec 128 :=
  BitVec.ofNat 128 (stamp % 2 ^ 64 * 2 ^ 64 + session * 2 ^ 60 + egress.toNat * 2 ^ 59 + cut.toNat * 2 ^ 58 +
    bad.toNat * 2 ^ 57 + lport % 1024 * 2 ^ 47 + len % 2 ^ 15 * 2 ^ 32)

/-- The Ethernet frame of a mirror copy of a frame's bytes (R311). -/
def Chip.mirrorFrame (c : Chip) (s : Nat) (egress bad : Bool) (lport stamp : Nat) (all : List Byte) : List Byte :=
  let trunc := c.field pgRte mirCfg 1 8 s
  let cap := if 1 ≤ trunc ∧ trunc ≤ 143 then min 9182 (64 * trunc) else 9182
  let hd := mirrorHeader stamp s egress (decide (cap < all.length)) bad lport all.length
  let b := bytesBE 6 0xFFFFFFFFFFFF ++ bytesBE 6 c.routerMac ++ bytesBE 2 0x88B5 ++ bytesBE 16 hd.toNat ++ all.take cap
  withTrailer b 0

def Chip.mirrorDrop (c : Chip) : Chip := c.bump pgRte 0x1818

/-- The copy that a mirror session sends of a frame (R310), from the port die that has it. -/
def Chip.mirrorMsg (c : Chip) (s : Nat) (egress bad : Bool) (lport stamp : Nat) (all : List Byte) : Msg :=
  let bytes := c.mirrorFrame s egress bad lport stamp all
  let h := mkHdr clsBulk 0 (c.field pgRte mirCfg 9 8 s) false (c.field pgRte 0x170C 0 18 s) c.selfEid (bytes.length + 36)
    (c.field pgRte mirCfg 17 4 s) 7
  { Msg.made h bytes c.time.now (some (attachOf c lport)) with eth := true }

/-- Send one mirror copy (R311, R312): routed as Bulk in the session's livery and TC, whole in cells, checked against
the session's livery alone (R337); a copy for this device goes to M0 (R292). -/
def Chip.mirrorSend (c : Chip) (s : Nat) (egress bad : Bool) (lport stamp : Nat) (all : List Byte) : Chip :=
  let l := c.field pgRte mirCfg 9 8 s
  let eid := c.field pgRte 0x170C 0 18 s
  if !c.livGroup l (dgOf eid) then c.violation l 0xA none
  else match c.lookup eid clsBulk with
    | .miss => c.routeMiss.mirrorDrop
    | .self => c.handToM0 (c.mirrorMsg s egress bad lport stamp all)
    | .down => c.downDrop.mirrorDrop
    | .lost _ => c.mirrorDrop
    | .port q =>
      if !c.livPort l q then c.violation l 9 (some q)
      else match c.holdWhole (c.mirrorMsg s egress bad lport stamp all) q 1 with
        | (some x, c) => c.deliver q x
        | (none, c) => c.mirrorDrop

/-- A session's count of matching frames and its choice of every N-th (R310). -/
def Chip.mirrorMatch (c : Chip) (s : Nat) (egress bad : Bool) (lport stamp : Nat) (all : List Byte) : Chip :=
  let n := c.field pgRte 0x1710 0 24 s
  if n ≤ 1 then c.mirrorSend s egress bad lport stamp all
  else
    let k := Tbl.get 0 c.rte.mirrored s + 1
    let c := { c with rte := { c.rte with mirrored := Tbl.set 0 c.rte.mirrored s (k % n) } }
    if k % n = 0 then c.mirrorSend s egress bad lport stamp all else c

/-- Sessions that copy a frame at a port, or that its flow names (R310). -/
def Chip.mirrorAt (c : Chip) (egress bad : Bool) (lport stamp : Nat) (flow : Option Nat) (all : List Byte) : Chip :=
  forAll (List.range 16) c (fun s c =>
    let ty := c.field pgRte mirSrc 0 2 s
    if c.flag pgRte mirCfg 0 s &&
        ((decide (ty = if egress then 2 else 1) && decide (c.field pgRte mirSrc 2 10 s = lport)) ||
          (!egress && decide (ty = 3) && decide (flow = some s))) then
      c.mirrorMatch s egress bad lport stamp all
    else c)

/-- Mirroring of a frame from a port at its dispatch (R310). -/
def Chip.mirrorIn (c : Chip) (bad : Bool) (flow : Option Nat) (m : Msg) : Chip :=
  if m.inPort < 1024 then c.mirrorAt false bad m.inPort m.stamp flow m.inBytes else c

/-! Forwarding of a frame that is looked up by DST -/

def Chip.inDrain (c : Chip) (dst : Nat) : Bool :=
  match c.rte.drain with | some d => decide (d.first ≤ dgOf dst ∧ dgOf dst ≤ d.last) | none => false

def Chip.setDrain (c : Chip) (d : Option Drain) : Chip := { c with rte := { c.rte with drain := d } }

/-- The flow lookup of a Memory or Bulk frame from a port (R318); other frames have none. -/
def Chip.flowOf (c : Chip) (m : Msg) : FlowHit × Chip :=
  if (hClass m.hdr = clsMemory ∨ hClass m.hdr = clsBulk) ∧ m.inPort < 1024 then c.flowLookup m else (⟨m, none, none⟩, c)

/-- Whether a frame with such a tail comes to dispatch (R274): one that may go cut-through does so by its header alone. -/
def Msg.dispatched (m : Msg) (tail : TailSt) : Bool :=
  decide (tail = .good) || decide (hClass m.hdr = clsBulk ∨ hClass m.hdr = clsMemory)

/-- The flow lookup and the mirroring of a frame at its dispatch (R310, R318). -/
def Chip.atDispatch (c : Chip) (m : Msg) (tail : TailSt) : FlowHit × Chip :=
  let r := c.flowOf m
  (r.1, if m.dispatched tail then r.2.mirrorIn (decide (tail ≠ .good)) r.1.mirror m else r.2)

/-- The flow shaper at dispatch (R324): a frame of a shaped flow is held while the shaper lacks tokens or an earlier frame
of it is held; `q` is the port whose OVH counts, and `put` the put counter of a held put. -/
def Chip.shaped (c : Chip) (m : Msg) (shaper : Option Nat) (q : Nat) (tail : TailSt) (put : Option Nat) (go : Chip → Chip) :
    Chip :=
  match shaper with
  | none => go c
  | some f =>
    let d := portDie m.inPort
    let waits := c.traf.flowHeld.any (fun x => decide (x.pdie = d ∧ x.dest = f))
    if c.shaperOpen d (flowShaper f) && !waits then go (c.shaperTake d (flowShaper f) (m.flowLen + c.overhead q))
    else if tail ≠ .good then c.dropCells m.cells
    else match c.holdWhole m q 1 with
      | (some m, c) =>
        { c.bump (pgTmg d) 0x1208 with traf := { c.traf with flowHeld := c.traf.flowHeld ++ [⟨d, f, q, m, put⟩] } }
      | (none, c) => c.gapMsg q m

/-- A frame goes to its egress port, or is held for a lost target there (R306). -/
def Chip.sendOn (c : Chip) (q : Nat) (m : Msg) (tail : TailSt) (lost : Bool) : Chip :=
  if lost then (if tail = .good then c.holdLost q m else c.dropCells m.cells) else c.place q m tail

/-- Dispatch of a unicast frame to a port: HOPS, the flow table, mirroring, the flow shaper, then the port. `fwd` is false
for a frame that is not a forwarded Narjo frame. -/
def Chip.dispatch (c : Chip) (q : Nat) (m : Msg) (tail : TailSt) (fwd lost : Bool) : Chip :=
  if fwd && hHops m.hdr = 0 then (c.bumpLnk m.inPort 0x1128).dropCells m.cells
  else
    let r := c.atDispatch m tail
    let x := if fwd then r.1.msg.hop else r.1.msg
    r.2.shaped x r.1.shaper q tail none (fun c => c.sendOn q x tail lost)

/-- Steps 6 and 7 of R21 for a unicast Memory, Bulk, Control or RESULT frame from a port, under the present bank: the
lookup, then dispatch. A frame for this device goes to M0; no flow shaper acts on it. DESIGN CHOICE, log 156. -/
def Chip.routeOn (c : Chip) (m : Msg) (tail : TailSt) (fwd : Bool) : Chip :=
  match c.lookup (hDst m.hdr) (hClass m.hdr) with
  | .miss => c.routeMiss.dropCells m.cells
  | .self =>
    let r := c.atDispatch m tail
    (if tail = .good then r.2.handToM0 r.1.msg else r.2).dropCells m.cells
  | .down => c.downDrop.dropCells m.cells
  | .lost q => c.dispatch q m tail fwd true
  | .port q => c.dispatch q m tail fwd (decide (hClass m.hdr = clsMemory) && decide (q ∈ (c.lostOf (hLiv m.hdr)).ports))

/-- Step 6 of R21 with the hold of a draining swap (R296 step 4). -/
def Chip.forward (c : Chip) (m : Msg) (tail : TailSt) (fwd : Bool) : Chip :=
  let cls := hClass m.hdr
  if (cls = clsMemory ∨ cls = clsCollective) ∧ c.inDrain (hDst m.hdr) then
    if tail ≠ .good then c
    else match c.holdWhole m 0 1 with
      | (some m, c) =>
        match c.rte.drain with
        | some d => (c.bump pgRte 0x1810).setDrain (some { d with held := d.held ++ [m] })
        | none => c
      | (none, c) => c
  else c.routeOn m tail fwd

/-! Multicast (R299 to R301) -/

def Chip.group (c : Chip) (g : Nat) : BitVec 1152 := Tbl.get 0 c.rte.groups g
def gpLocal (e : BitVec 1152) (j : Nat) : Bool := e.getLsbD j
def gpPeers (e : BitVec 1152) : W32 := BitVec.ofNat 32 (fld e 1024 32)
def gpValid (e : BitVec 1152) : Bool := e.getLsbD 1056
def gpColumn (e : BitVec 1152) : Bool := e.getLsbD 1057
def gpNextEn (e : BitVec 1152) : Bool := e.getLsbD 1058
def gpNext (e : BitVec 1152) : Nat := fld e 1059 14
def gpMembers (e : BitVec 1152) : Nat := fld e 1088 18

/-- Sources of a multicast frame (R300). -/
inductive McSrc where
  | local | peerRow | peerCol
  deriving DecidableEq, Repr

/-- Whether a port is PORT0 of a valid row (column) entry of the grid port map. -/
def Chip.isPeerPort (c : Chip) (col : Bool) (p : Nat) : Bool :=
  (List.range 32).any (fun k => gValid (c.gridEnt col k) && decide (gPort0 (c.gridEnt col k) = p) &&
    decide (k ≠ if col then c.gridRow else c.gridCol))

def Chip.mcSource (c : Chip) (inPort : Nat) : McSrc :=
  if inPort = 1024 then .local
  else if c.isPeerPort false inPort then .peerRow
  else if c.isPeerPort true inPort then .peerCol else .local

/-- PORT0 of the peers of a group entry that have a valid grid port map entry (R293, R300). -/
def Chip.peerPorts (c : Chip) (e : BitVec 1152) : List Nat :=
  let own := if gpColumn e then c.gridRow else c.gridCol
  ((setBits (gpPeers e)).filter (fun k => decide (k ≠ own) && gValid (c.gridEnt (gpColumn e) k))).map
    (fun k => gPort0 (c.gridEnt (gpColumn e) k))

/-- The copies of a multicast frame before the livery check: each port, and whether it leads to a further device; none
for an invalid group. The second part tells that NEXT names an invalid group (R300). -/
def Chip.mcPorts (c : Chip) (g inPort : Nat) : Option (List (Nat × Bool)) × Bool :=
  let e := c.group g
  if !gpValid e then (none, false)
  else
    let src := c.mcSource inPort
    let loc := ((List.range 1024).filter (gpLocal e)).map (fun q => (q, false))
    let own := if src = .local then (c.peerPorts e).map (fun q => (q, true)) else []
    let useNext := decide (src ≠ .peerCol) && !gpColumn e && gpNextEn e
    let n := c.group (gpNext e)
    let nxt := if useNext && gpValid n then (c.peerPorts n).map (fun q => (q, true)) else []
    (some ((loc ++ own ++ nxt).filter (fun x => decide (x.1 ≠ inPort) && c.portUp x.1)), useNext && !gpValid n)

/-- The group lookup of a multicast frame, with its misses counted (R300). -/
def Chip.mcLookup (c : Chip) (g inPort : Nat) : List (Nat × Bool) × Chip :=
  match c.mcPorts g inPort with
  | (none, _) => ([], c.routeMiss)
  | (some ps, badNext) => (ps, if badNext then c.routeMiss else c)

/-- The copies of a multicast frame after the egress check of R337: a refused copy is a violation and is never made
(R338). -/
def Chip.mcCopies (c : Chip) (g liv inPort : Nat) : List (Nat × Bool) × Chip :=
  let r := c.mcLookup g inPort
  (r.1.filter (fun x => r.2.livPort liv x.1),
    forAll (r.1.filter (fun x => !r.2.livPort liv x.1)) r.2 (fun x c => c.violation liv 9 (some x.1)))

/-- Send one frame to several ports through cells, with one reference per transmit (R211, R300); each copy's body may
differ. -/
def Chip.multicast (c : Chip) (m : Msg) (copies : List (Nat × List Byte)) : Bool × Chip :=
  match copies with
  | [] => (true, c.dropCells m.cells)
  | (q0, _) :: _ =>
    match c.holdWhole m q0 copies.length with
    | (some m, c) => (true, forAll copies c (fun x c => c.deliver x.1 { m with body := x.2 }))
    | (none, c) => (false, c)

/-- A multicast frame takes its copies (R300). -/
def Chip.copyOut (c : Chip) (m : Msg) : Chip :=
  let k := c.mcCopies (hGroup m.hdr) (hLiv m.hdr) m.inPort
  (k.2.multicast m (k.1.map (fun x => (x.1, m.body)))).2

/-- Steps 6 and 7 of R21 for a frame with MC = 1 that is only replicated (R300). It is held whole before any copy leaves:
with a bad tail it goes no further than the lookup (R274). -/
def Chip.replicate (c : Chip) (m : Msg) (tail : TailSt) (fwd : Bool) : Chip :=
  if !gpValid (c.group (hGroup m.hdr)) then c.routeMiss
  else if fwd && hHops m.hdr = 0 then c.bumpLnk m.inPort 0x1128
  else
    let r := c.atDispatch m tail
    let x := if fwd then r.1.msg.hop else r.1.msg
    if tail ≠ .good then (r.2.mcLookup (hGroup m.hdr) m.inPort).2
    else r.2.shaped x r.1.shaper m.inPort tail none (fun c => c.copyOut x)

/-! Route bank swap (R295 to R297) -/

/-- Whether a frame counts as an old-bank frame of a range: one that was looked up by DST (R290, R296). -/
def oldBankFrame (d : Drain) (h : BitVec 256) (body : List Byte) : Bool :=
  !hMc h && decide (d.first ≤ dgOf (hDst h) ∧ dgOf (hDst h) ≤ d.last) &&
  ((decide (hClass h = clsCollective) && decide (2 ≤ hSub h)) ||
    (decide (hClass h = clsMemory) && (decide (hSub h ≠ 5) || decide (mStage (memHdrOf body) = 0))))

/-- Old-bank frames of a drain still in this device (RTE_SWAP_STAT.IN_FLIGHT). -/
def Chip.inFlight (c : Chip) (d : Drain) : Nat :=
  let f (m : Msg) : Bool := oldBankFrame d m.hdr m.body
  c.traf.eg.foldl (fun n kv => n + (kv.2.queued.filter f).length + (match kv.2.tx with | some m => (f m).toNat | none => 0)) 0 +
    (c.traf.flowHeld.filter (fun x => f x.msg)).length +
    c.rte.lost.foldl (fun n kv => n + (kv.2.held.filter (fun x => f x.2)).length) 0

def rteRefuse (c : Chip) (stat : Nat) : Chip := (c.setFlag pgRte stat 1 true).bump pgRte 0x1808

/-- Whether a route entry is live (R295). -/
def Chip.routeLive (c : Chip) (bank : Bool) (eid : Nat) : Bool := decide (c.dgBank (dgOf eid) = bank) || c.inDrain eid

/-- READ of RTE_ENT_CMD. -/
def Chip.rtRead (c : Chip) : Chip :=
  c.stage pgRte 0x1010 2 (c.routeEnt (c.flag pgRte 0x1000 18) (c.field pgRte 0x1000 0 18)).toNat

/-- WRITE of RTE_ENT_CMD (R295): refused for a live entry or a reserved bit. -/
def Chip.rtWrite (c : Chip) : Chip :=
  let bank := c.flag pgRte 0x1000 18
  let eid := c.field pgRte 0x1000 0 18
  let e : BitVec 64 := BitVec.ofNat 64 (c.staged pgRte 0x1010 2)
  if c.routeLive bank eid ∨ fld e 26 6 ≠ 0 ∨ fld e 33 31 ≠ 0 then rteRefuse c 0x1008
  else { c.setFlag pgRte 0x1008 1 false with
    rte := { c.rte with routes := Tbl.set 0 c.rte.routes (bankBase bank 262144 + eid) e } }

/-- The groups of a range switch banks (R296 step 5). -/
def Chip.flipGroups (c : Chip) (first last : Nat) : Chip :=
  forAll ((List.range 4096).filter (fun g => decide (first ≤ g ∧ g ≤ last))) c
    (fun g c => c.setFlag pgRte (0x1100 + 4 * (g / 32)) (g % 32) (!c.dgBank g))

/-- RTE_SWAP_CMD with OP = SWAP (R296 steps 2 and 3). -/
def Chip.routeSwap (c : Chip) (v : W32) : Chip :=
  let first := fld v 0 12
  let last := fld v 12 12
  let mixed := (List.range 4096).any (fun g => decide (first ≤ g ∧ g ≤ last) && decide (c.dgBank g ≠ c.dgBank first))
  if c.rte.drain.isSome ∨ last < first ∨ mixed then c.setFlag pgRte 0x1024 1 true
  else (c.setDrain (some ⟨first, last, c.time.now, false, []⟩)).setFlag pgRte 0x1024 0 true

/-- A drain has lasted longer than 100 µs (R297). -/
def Chip.drainSlow (c : Chip) : Chip :=
  match c.rte.drain with
  | none => c
  | some d =>
    if d.slow ∨ c.time.now < d.since + usUnits 100 then c
    else ((c.setDrain (some { d with slow := true })).setFlag pgRte 0x1024 2 true).raise
      (evP pgRte 0x0602 (dieX 0) (d.first + d.last * 65536))

/-! Groups, addresses and the grid port map -/

def Chip.grpRead (c : Chip) : Chip := c.stage pgRte 0x1400 36 (c.group (c.field pgRte 0x1310 0 14)).toNat

/-- WRITE of RTE_GRP_CMD (R299): refused for a reserved bit. -/
def Chip.grpWrite (c : Chip) : Chip :=
  let e : BitVec 1152 := BitVec.ofNat 1152 (c.staged pgRte 0x1400 36)
  if fld e 1073 15 ≠ 0 ∨ fld e 1106 46 ≠ 0 then rteRefuse c 0x1318
  else { c.setFlag pgRte 0x1318 1 false with
    rte := { c.rte with groups := Tbl.set 0 c.rte.groups (c.field pgRte 0x1310 0 14) e } }

def adKey (e : BitVec 256) : Nat := fld e 0 160
def adType (e : BitVec 256) : Nat := fld e 0 2
def adBucket (key : Nat) : Nat := (crc32 (bytesBE 20 key)).toNat % 32768
def Chip.addr (c : Chip) (b w : Nat) : BitVec 256 := Tbl.get 0 c.rte.addrs (b * 4 + w)
def Chip.setAddr (c : Chip) (b w : Nat) (e : BitVec 256) : Chip :=
  { c with rte := { c.rte with addrs := Tbl.set 0 c.rte.addrs (b * 4 + w) e } }

/-- The way of a bucket that holds an address key (R303). -/
def Chip.addrWay (c : Chip) (key : Nat) : Option Nat :=
  [0, 1, 2, 3].find? (fun w => decide (adType (c.addr (adBucket key) w) ≠ 0 ∧ adKey (c.addr (adBucket key) w) = key))

/-- The entry of an address key, if any. -/
def Chip.addrFind (c : Chip) (key : Nat) : Option (BitVec 256) := (c.addrWay key).map (c.addr (adBucket key))

def addrStat : Nat := 0x1524

/-- READ of RTE_ADDR_CMD (R303, R313). -/
def Chip.addrRead (c : Chip) : Chip :=
  match c.addrFind (c.staged pgRte 0x1540 5) with
  | some e => (c.stage pgRte 0x1540 8 e.toNat).setFlag pgRte addrStat 3 false
  | none => c.setFlag pgRte addrStat 3 true

/-- Reserved bits of an address entry, and the bits that its type leaves unused (R303). -/
def addrReserved (e : BitVec 256) : Bool :=
  fld e 22 10 ≠ 0 || fld e 190 2 ≠ 0 || fld e 240 16 ≠ 0

/-- WRITE of RTE_ADDR_CMD (R303): the way with the key, else the lowest free way, else FULL. -/
def Chip.addrWrite (c : Chip) : Chip :=
  let e : BitVec 256 := BitVec.ofNat 256 (c.staged pgRte 0x1540 8)
  let b := adBucket (adKey e)
  let ok (c : Chip) (w : Nat) : Chip :=
    ((c.setAddr b w e).setFlag pgRte addrStat 1 false).setFlag pgRte addrStat 2 false
  if addrReserved e then (rteRefuse c addrStat).setFlag pgRte addrStat 2 false
  else match c.addrWay (adKey e) with
    | some w => ok c w
    | none =>
      match [0, 1, 2, 3].find? (fun w => decide (adType (c.addr b w) = 0)) with
      | some w => ok c w
      | none => ((c.setFlag pgRte addrStat 2 true).setFlag pgRte addrStat 1 false).bump pgRte 0x1808

/-- DELETE of RTE_ADDR_CMD (R313). -/
def Chip.addrDelete (c : Chip) : Chip :=
  let key := c.staged pgRte 0x1540 5
  match c.addrWay key with
  | some w => (c.setAddr (adBucket key) w 0).setFlag pgRte addrStat 3 false
  | none => c.setFlag pgRte addrStat 3 true

/-- A write to RTE_GRID_ENT (R293, R294). -/
def Chip.gridWrite (c : Chip) (v : W32) : Chip :=
  c.setReg pgRte 0x1304 (v &&& 0x800FFFFF) (c.field pgRte 0x1300 0 6)

/-! Restoring targets (R307) -/

/-- When every port on which a livery has lost a target is up again and nothing was lost for them, the timer stops and the
held frames leave in order. -/
def Chip.restoreLivery (c : Chip) (l : Nat) : Chip :=
  let x := c.lostOf l
  if x.ports ≠ [] ∧ x.ports.all (fun q => decide (q ∉ x.gaps)) ∧ !c.tornDown l ∧ x.ports.all c.portUp ∧ c.tdStat l 0 ∧
      c.time.now < x.since + usUnits (max 1 (c.field pgRte 0x1604 0 20 l)) then
    let c := (c.setLost l LostSt.none).setFlag pgRte 0x160C 0 false l
    let c := forAll x.held c (fun y c => c.place y.1 y.2 .good)
    c.raise (evV pgRte 0x0604 (dieX 0) l ((x.ports.getLast?).getD 0))
  else c

/-- Every livery that lost a target on a port is looked at when the port comes up. -/
def Chip.restoreTargets (c : Chip) (q : Nat) : Chip :=
  forAll ((c.rte.lost.filter (fun kv => decide (q ∈ kv.2.ports))).map (·.1)) c (fun l c => c.restoreLivery l)

/-- The meaning of ROUTE_ENT_READ (R291). -/
def execRouteEntRead (s : State) : Host.Outcome State Fault Refusal := s.run fun c => if c.serves pgRte then c.rtRead else c
/-- The meaning of ROUTE_ENT_WRITE (R295). -/
def execRouteEntWrite (s : State) : Host.Outcome State Fault Refusal := s.run fun c => if c.serves pgRte then c.rtWrite else c
/-- The meaning of ROUTE_SWAP (R296): a command word whose OP is not SWAP is not one. -/
def execRouteSwap (v : W32) (s : State) : Host.Outcome State Fault Refusal := s.run fun c =>
  if c.serves pgRte ∧ fld v 24 2 = 1 then c.routeSwap v else c
/-- The meaning of ROUTE_DRAIN_SLOW (R297). -/
def execRouteDrainSlow (s : State) : Host.Outcome State Fault Refusal := s.run fun c => if c.mainUp then c.drainSlow else c
/-- The meaning of GROUP_READ (R299). -/
def execGroupRead (s : State) : Host.Outcome State Fault Refusal := s.run fun c => if c.serves pgRte then c.grpRead else c
/-- The meaning of GROUP_WRITE (R299, R301). -/
def execGroupWrite (s : State) : Host.Outcome State Fault Refusal := s.run fun c => if c.serves pgRte then c.grpWrite else c
/-- The meaning of ADDR_READ (R303). -/
def execAddrRead (s : State) : Host.Outcome State Fault Refusal := s.run fun c => if c.serves pgRte then c.addrRead else c
/-- The meaning of ADDR_WRITE (R303). -/
def execAddrWrite (s : State) : Host.Outcome State Fault Refusal := s.run fun c => if c.serves pgRte then c.addrWrite else c
/-- The meaning of ADDR_DELETE (R303). -/
def execAddrDelete (s : State) : Host.Outcome State Fault Refusal := s.run fun c => if c.serves pgRte then c.addrDelete else c
/-- The meaning of GRID_MAP_WRITE (R294). -/
def execGridMapWrite (v : W32) (s : State) : Host.Outcome State Fault Refusal := s.run fun c =>
  if c.serves pgRte then c.gridWrite v else c

end Sys2Proof.Machine
end

