-- ==== Sys2Proof/Machine/Pattern.lean ====
section
/-! DEFINITION. The coding and the test patterns of a lane (R236, R242, R244): Gray mapping, precoder and decoder, the
pattern sequences, and the checker that compares received symbols with one. -/

namespace Sys2Proof.Machine

/-! PAM4 coding (R236) -/

/-- The symbol value of a bit pair, whose first bit is the higher one. -/
def pamOf (gray : Bool) (p : BitVec 2) : Nat :=
  if gray then (match p.toNat with | 0 => 0 | 1 => 1 | 3 => 2 | _ => 3) else p.toNat

/-- The bit pair of a symbol value. -/
def pairOf (gray : Bool) (s : Nat) : BitVec 2 :=
  if gray then (match s % 4 with | 0 => 0 | 1 => 1 | 2 => 3 | _ => 2) else BitVec.ofNat 2 s

/-- The level of a symbol value. -/
def pamLevel (s : Nat) : Int := 2 * ((s % 4 : Nat) : Int) - 3

/-- The precoder's symbol for x after y, and the decoder's for y after the one before. -/
def precode (y x : Nat) : Nat := (x + 4 - y % 4) % 4
def decodePam (before y : Nat) : Nat := (y + before) % 4

/-- A symbol under a polarity inversion (R232). -/
def invertPam (inv : Bool) (s : Nat) : Nat := if inv then 3 - s % 4 else s % 4

/-- How one direction of a lane codes its symbols. -/
structure LaneCode where
  gray : Bool
  pre : Bool
  inv : Bool
  deriving DecidableEq, Repr

/-- Transmit one bit pair after the precoder symbol `y`: the injector's mask acts on the pair that the symbol stands for
at the level mapper (R245). The answer is the level and the precoder's symbol. -/
def LaneCode.send (k : LaneCode) (y : Nat) (p mask : BitVec 2) : Int × Nat :=
  let s := if k.pre then precode y (pamOf k.gray p) else pamOf k.gray p
  (pamLevel (invertPam k.inv (pamOf k.gray (pairOf k.gray s ^^^ mask))), s)

/-- Receive one symbol after the symbol `y`: the bit pair, and the symbol that the decoder keeps. -/
def LaneCode.recv (k : LaneCode) (y : Nat) (r : BitVec 2) : BitVec 2 × Nat :=
  let s := invertPam k.inv r.toNat
  (pairOf k.gray (if k.pre then decodePam y s else s), s)

/-! Patterns (R242) -/

/-- Order and taps of the PRBS of a pattern code: bit n is the exclusive or of the bits that many places before it. -/
def prbsPoly (code : Nat) : Option (Nat × List Nat) :=
  match code with
  | 0 => some (7, [7, 6])
  | 1 => some (9, [9, 5])
  | 2 | 6 => some (13, [13, 12, 2, 1])
  | 3 => some (15, [15, 14])
  | 4 => some (23, [23, 18])
  | 5 | 7 => some (31, [31, 28])
  | _ => none

/-- Whether IEEE 802.3 sends the PRBS inverted: PRBS31Q. PRESUMED, log 155. -/
def prbsInv (code : Nat) : Bool := decide (code = 7)

/-- The next bit of a PRBS whose last bits are `reg`, the newest in bit 0. -/
def prbsBit (taps : List Nat) (reg : Nat) : Bool := taps.foldl (fun b t => b ^^ reg.testBit (t - 1)) false

/-- A register of `n` bits takes one more bit. -/
def shiftIn (n reg : Nat) (b : Bool) : Nat := (reg * 2 + b.toNat) % 2 ^ n

/-- The next pair of a PRBS and its register after it. -/
def prbsPair (n : Nat) (taps : List Nat) (reg : Nat) : BitVec 2 × Nat :=
  let a := prbsBit taps reg
  let r := shiftIn n reg a
  let b := prbsBit taps r
  (BitVec.ofNat 2 (a.toNat * 2 + b.toNat), shiftIn n r b)

/-- A pair as it stands in a PRBS register: inverted where the pattern is sent inverted. -/
def prbsRaw (code : Nat) (p : BitVec 2) : BitVec 2 := if prbsInv code then ~~~p else p

/-- The pattern that a generator code sends: a reserved code acts as 0x5 (R242). -/
def genCode (code : Nat) : Nat := if code ≤ 11 then code else 5

/-- The next pair of a pattern from its state: the register of a PRBS, else the position in a pattern that IEEE 802.3
defines and the manual only names. -/
def patternPair (code st : Nat) : BitVec 2 × Nat :=
  match prbsPoly code with
  | some (n, taps) => let r := prbsPair n taps st; (prbsRaw code r.1, r.2)
  | none => (Config.ieeePair code st, st + 1)

/-- A state in which a generator may stand: never the register of zeros that no PRBS holds. -/
def patternStart (code seed : Nat) : Nat :=
  match prbsPoly code with
  | some (n, _) => 1 + seed % (2 ^ n - 1)
  | none => seed

/-! The checker (R244, R246) -/

/-- A run of the checker over received symbols: its state, whether it is locked, the decoder's symbol, and what it counts:
bits checked, symbols and bits in error, and losses of lock. -/
structure ChkRun where
  chk : ChkSt
  locked : Bool
  prev : Nat
  bits : Nat
  symErr : Nat
  bitErr : Nat
  losses : Nat
  deriving DecidableEq, Repr

/-- Bits in which two pairs differ. -/
def pairErrors (p q : BitVec 2) : Nat := ((p ^^^ q).getLsbD 0).toNat + ((p ^^^ q).getLsbD 1).toNat

/-- The last `n` members of a list. -/
def lastN {α : Type} (n : Nat) (xs : List α) : List α := xs.drop (xs.length - n)

/-- The position just after 64 received pairs in SSPRQ, whose period is 65,535 symbols. -/
def findPosition (code : Nat) (ps : List (BitVec 2)) : Option Nat :=
  ((List.range 65535).find? (fun k =>
    (ps.zip (List.range ps.length)).all (fun x => decide (Config.ieeePair code (k + x.2) = x.1)))).map (· + 64)

/-- One symbol while the checker acquires lock: a PRBS register is loaded from the received bits and must then predict 64
symbols in a row; SSPRQ is found by its last 64 symbols. -/
def ChkSt.acquire (x : ChkSt) (code : Nat) (p : BitVec 2) : ChkSt × Bool :=
  match prbsPoly code with
  | some (n, _) =>
    let raw := (prbsRaw code p).toNat
    let load (reg loaded : Nat) : ChkSt := { ChkSt.reset with reg := (reg * 4 + raw) % 2 ^ n, loaded := loaded + 2 }
    if x.loaded < n then (load x.reg x.loaded, false)
    else
      let r := patternPair code x.reg
      if r.1 = p then ({ x with reg := r.2, run := x.run + 1 }, decide (63 ≤ x.run)) else (load 0 0, false)
  | none =>
    let ps := lastN 64 (x.pairs ++ [p])
    match (if ps.length = 64 then findPosition code ps else none) with
    | some k => ({ ChkSt.reset with at_ := k }, true)
    | none => ({ ChkSt.reset with pairs := ps }, false)

/-- One received symbol. -/
def ChkRun.step (k : LaneCode) (code : Nat) (r : ChkRun) (y : BitVec 2) : ChkRun :=
  let d := k.recv r.prev y
  let r := { r with prev := d.2 }
  if r.locked then
    let q := patternPair code (if (prbsPoly code).isSome then r.chk.reg else r.chk.at_ % 65535)
    let e := pairErrors d.1 q.1
    let w := ((decide (0 < e)) :: r.chk.window).take 256
    let r := { r with bits := r.bits + 2, symErr := r.symErr + (decide (0 < e)).toNat, bitErr := r.bitErr + e }
    if 64 ≤ (w.filter id).length then { r with chk := ChkSt.reset, locked := false, losses := r.losses + 1 }
    else { r with chk := if (prbsPoly code).isSome then { r.chk with reg := q.2, window := w }
                         else { r.chk with at_ := q.2, window := w } }
  else
    let a := r.chk.acquire code d.1
    { r with chk := a.1, locked := a.2 }

end Sys2Proof.Machine
end

