-- ==== Sys2Proof/Machine/Serdes.lean ====
section
/-! DEFINITION. SerDes lanes (R228 to R248): synthesisers, transmit enables, training, settle windows, the pattern
checker, the injector and the eye monitor. SDS registers are instance lane mod 128 of the lane's die. -/

namespace Sys2Proof.Machine

def Chip.lane (c : Chip) (l : Nat) : LaneSt := Tbl.get LaneSt.reset c.port.lanes l
def Chip.setLane (c : Chip) (l : Nat) (x : LaneSt) : Chip :=
  { c with port := { c.port with lanes := Tbl.set LaneSt.reset c.port.lanes l x } }

def Chip.sds (c : Chip) (l off : Nat) : W32 := c.reg (pgSds (l / 128)) off (l % 128)
def Chip.setSds (c : Chip) (l off : Nat) (v : W32) : Chip := c.setReg (pgSds (l / 128)) off v (l % 128)
def Chip.bumpSds (c : Chip) (l off n : Nat) : Chip := c.bumpSat (pgSds (l / 128)) off n (l % 128)

def sdsCtrl : Nat := 0x1004
def sdsStat : Nat := 0x1008
def sdsTxEq : Nat := 0x100C
def sdsPat : Nat := 0x1014
def sdsEye : Nat := 0x101C

/-- Bit positions of SDS_LANE_STAT (R253). -/
def stHeld : Nat := 0
def stIdle : Nat := 1
def stLock : Nat := 2
def stFail : Nat := 3
def stCal : Nat := 4
def stSig : Nat := 5
def stCdr : Nat := 6
def stSettle : Nat := 7
def stChk : Nat := 10

def Chip.laneFlag (c : Chip) (l i : Nat) : Bool := (c.sds l sdsStat).getLsbD i
def Chip.setLaneFlag (c : Chip) (l i : Nat) (b : Bool) : Chip := c.setSds l sdsStat (putBit (c.sds l sdsStat) i b)
/-- SDS_LANE_STAT.TRAIN: 0 off, 1 running, 2 done, 3 failed. -/
def Chip.laneTrain (c : Chip) (l : Nat) : Nat := fld (c.sds l sdsStat) 8 2
def Chip.setLaneTrain (c : Chip) (l v : Nat) : Chip := c.setSds l sdsStat (putFld (c.sds l sdsStat) 8 2 v)

/-- TRAIN_EN of a lane's physical port (R240). -/
def Chip.trainEn (c : Chip) (l : Nat) : Bool := (c.prtCfg (physOf (c.portOfLane l))).getLsbD 9
/-- Whether a lane's logical port is enabled and can work (R198, R233). -/
def Chip.laneEnabled (c : Chip) (l : Nat) : Bool := c.portWorks (c.portOfLane l)
/-- EN of a lane's logical port (R243). -/
def Chip.laneEn (c : Chip) (l : Nat) : Bool := c.enabled (c.portOfLane l)
/-- A transmit enable of a lane (R237). -/
def Chip.laneWanted (c : Chip) (l : Nat) : Bool := c.laneEnabled l || (c.sds l sdsCtrl).getLsbD 0

def Chip.synth (c : Chip) (pp : Nat) : SynthSt := Tbl.get .off c.port.synth pp
def Chip.setSynth (c : Chip) (pp : Nat) (x : SynthSt) : Chip :=
  { c with port := { c.port with synth := Tbl.set .off c.port.synth pp x } }

/-- The lanes of a physical port (R17). -/
def lanesOfPhys (pp : Nat) : List Nat := [pp * 4, pp * 4 + 1, pp * 4 + 2, pp * 4 + 3]

/-- Whether the synthesisers that serve a lane are settled: both of a joined port's (R237). -/
def Chip.synthReady (c : Chip) (l : Nat) : Bool :=
  if c.split (l / 4) = 3 then decide (c.synth (l / 8 * 2) = .ready ∧ c.synth (l / 8 * 2 + 1) = .ready)
  else decide (c.synth (l / 4) = .ready)

/-! Settle windows (R248) -/

/-- A settle window opens at the event when the CDR is locked, else at CDR lock. The checker starts acquiring only after
it, and no eye report is valid until a whole window has followed it (R247). -/
def Chip.openSettle (c : Chip) (l : Nat) : Chip :=
  if c.laneFlag l stCdr then
    let c := (c.setLaneFlag l stSettle true).setLaneFlag l stChk false
    let c := c.setSds l sdsEye (putBit (c.sds l sdsEye) 31 false)
    c.setLane l { c.lane l with settleWaits := false, eyeDirty := true, chk := ChkSt.reset }
  else c.setLane l { c.lane l with settleWaits := true }

/-- The precoding in use (R236): that of the register with PCODE_OVR = 1 or training off, else that of training. A
change of the receive side opens a settle window. -/
def Chip.precodeUpdate (c : Chip) (l : Nat) : Chip :=
  let r := c.sds l sdsCtrl
  let byReg := r.getLsbD 7 || !c.trainEn l
  let tx := if byReg then r.getLsbD 2 else (c.lane l).precodeTx
  let rx := if byReg then r.getLsbD 5 else (c.lane l).precodeRx
  let old := (c.laneFlag l 11, c.laneFlag l 12)
  let c := (c.setLaneFlag l 11 tx).setLaneFlag l 12 rx
  if old ≠ (tx, rx) then c.openSettle l else c

/-! The transmitter and the injector (R236, R243, R245) -/

/-- What the transmitter of a lane sends (R239, R240, R243). -/
inductive TxSource where
  | idle | training | pattern (code : Nat) | data
  deriving DecidableEq, Repr

def Chip.txSource (c : Chip) (l : Nat) : TxSource :=
  if c.laneFlag l stIdle then .idle
  else if c.laneTrain l = 1 then .training
  else if (c.sds l sdsPat).getLsbD 4 && (c.sds l sdsCtrl).getLsbD 0 && !c.laneEn l then
    .pattern (genCode (fld (c.sds l sdsPat) 0 4))
  else .data

def Chip.txCode (c : Chip) (l : Nat) : LaneCode := ⟨(c.sds l sdsCtrl).getLsbD 1, c.laneFlag l 11, (c.sds l sdsCtrl).getLsbD 3⟩
def Chip.rxCode (c : Chip) (l : Nat) : LaneCode := ⟨(c.sds l sdsCtrl).getLsbD 4, c.laneFlag l 12, (c.sds l sdsCtrl).getLsbD 6⟩

/-- `n` consecutive symbols of a transmitter with the injector's mask on each, from the state of its generator and of its
precoder: the levels, and the precoder's state. -/
def txRun (k : LaneCode) (src : TxSource) (mask : BitVec 2) : Nat → Nat → Nat → List Int × Nat
  | 0, _, y => ([], y)
  | n + 1, st, y =>
    let p := match src with | .pattern code => patternPair code st | _ => (Config.linePair st, st + 1)
    let r := k.send y p.1 mask
    let t := txRun k src mask n p.2 r.2
    (r.1 :: t.1, t.2)

/-- Fabric-time units of `n` symbols at a RATE code (R228), rounded up. -/
def uiUnits (rate n : Nat) : Nat := ceilDiv (n * 1024 * 2 ^ rate) 425

/-- Symbols of one burst of the injector (R245). -/
def Chip.burstLen (c : Chip) (l : Nat) : Nat := if fld (c.sds l sdsPat) 10 2 = 1 then 1 else fld (c.sds l sdsPat) 14 10 + 1

/-- A burst of the injector leaves: every symbol of it carries INJ_MASK (R245). Where the generator and the precoder
stand by then is open, but for the precoder of a lane that has just left electrical idle, which stands at 0 (R236). -/
def Chip.injBurst (c : Chip) (l : Nat) (first : Bool) : Chip :=
  let n := c.burstLen l
  let src := c.txSource l
  let a := c.takeFresh
  let seed := (Config.freeWord a.1).toNat
  let st := match src with | .pattern code => patternStart code seed | _ => seed
  let y := if first then (c.lane l).txPrev else (Config.freeWord (a.1 + 1)).toNat % 4
  let r := txRun (c.txCode l) src (BitVec.ofNat 2 (fld (c.sds l sdsPat) 12 2)) n st y
  let x := c.lane l
  { c.setLane l { x with injected := x.injected + n, txPrev := r.2, injWaits := false,
                         injEnd := c.time.now + uiUnits (c.rate (l / 4)) n } with
    fresh := c.fresh + 2, out := { c.out with levels := some (l, r.1) } }

/-- Whether a lane sends a pattern or data, which is what the injector works on. -/
def Chip.laneSends (c : Chip) (l : Nat) : Bool :=
  match c.txSource l with | .pattern _ | .data => true | _ => false

/-- SDS_PAT_CTRL.INJ_GO as it reads: an injection waits or runs (R245). -/
def Chip.injRuns (c : Chip) (l : Nat) : Bool :=
  (c.sds l sdsPat).getLsbD 31 || (c.lane l).injWaits || decide (c.time.now < (c.lane l).injEnd)

/-- An injection starts, or waits until the lane sends. -/
def Chip.injStart (c : Chip) (l : Nat) : Chip :=
  if c.laneSends l then c.injBurst l false else c.setLane l { c.lane l with injWaits := true }

/-- An injection that waits starts once the lane sends. -/
def Chip.injResume (c : Chip) (l : Nat) : Chip :=
  if (c.lane l).injWaits && c.laneSends l then c.injBurst l true else c

/-! Electrical idle and transmit enables (R237, R239, R240) -/

/-- A lane leaves electrical idle (R236): precoder and decoder stand at 0. -/
def Chip.laneWoken (c : Chip) (l : Nat) : Chip :=
  (c.setLaneFlag l stIdle false).setLane l { (c.setLaneFlag l stIdle false).lane l with txPrev := 0, rxPrev := 0 }

/-- A lane starts: it leaves electrical idle, and trains where its port is enabled with TRAIN_EN. -/
def Chip.laneStart (c : Chip) (l : Nat) : Chip :=
  let c := (c.setLaneFlag l stHeld false).laneWoken l
  (c.setLaneTrain l (if c.laneEnabled l && c.trainEn l then 1 else 0)).injResume l

/-- Whether a lane is in the electrical idle of a port asleep in low-power idle, which only a wake ends (R239, R250). -/
def Chip.laneSleeps (c : Chip) (l : Nat) : Bool :=
  decide ((c.link (c.portOfLane l)).lpi = .asleep ∨ (c.link (c.portOfLane l)).lpi = .waking)

/-- A lane enters electrical idle. -/
def Chip.laneIdle (c : Chip) (l : Nat) : Chip :=
  ((c.setLaneFlag l stHeld false).setLaneFlag l stIdle true).setLaneTrain l 0

/-- A lane follows its transmit enables: it starts, is held while its synthesiser settles, or goes idle. -/
def Chip.laneUpdate (c : Chip) (l : Nat) : Chip :=
  if c.laneWanted l then
    if c.synthReady l then (if c.laneFlag l stIdle && !c.laneSleeps l then c.laneStart l else c)
    else (c.laneIdle l).setLaneFlag l stHeld true
  else c.laneIdle l

/-- A physical port's synthesiser settles again (R237): its lanes go idle, their enables held. -/
def Chip.synthSettle (c : Chip) (pp : Nat) : Chip :=
  let c := c.setSynth pp .settling
  forAll (lanesOfPhys pp) c (fun l c =>
    ((c.setLaneFlag l stLock false).setLaneFlag l stCal false).laneUpdate l)

/-- The synthesiser locks (R237). -/
def Chip.synthLock (c : Chip) (pp : Nat) : Chip :=
  if c.synth pp = .settling then
    forAll (lanesOfPhys pp) (c.setSynth pp .calibrating) (fun l c => c.setLaneFlag l stLock true)
  else c

/-- Calibration completes (R237): held lanes start; both physical ports of a joined port are looked at. -/
def Chip.synthCal (c : Chip) (pp : Nat) : Chip :=
  if c.synth pp = .calibrating then
    let c := forAll (lanesOfPhys pp) (c.setSynth pp .ready) (fun l c => c.setLaneFlag l stCal true)
    forAll (lanesOfPhys pp ++ (if c.split pp = 3 then lanesOfPhys (pp / 2 * 2 + (1 - pp % 2)) else [])) c
      (fun l c => c.laneUpdate l)
  else c

/-- No lock within 1 ms (R238). -/
def Chip.synthTimeout (c : Chip) (pp : Nat) : Chip :=
  if c.synth pp = .settling then
    let c := forAll (lanesOfPhys pp) c (fun l c => c.setLaneFlag l stFail true)
    c.raise (evP (pgSds (pp / 32)) 0x0501 (dieP (pp / 32)) (pp * 4))
  else c

/-! Training (R240, R241) -/

/-- The sum of tap magnitudes of an SDS_TX_EQ value (R241). -/
def tapSum (v : W32) : Nat :=
  (signed 5 (fld v 0 5)).natAbs + (signed 5 (fld v 5 5)).natAbs + (signed 5 (fld v 10 5)).natAbs + fld v 15 6 +
    (signed 5 (fld v 21 5)).natAbs

/-- Training on a lane ends (R240). -/
def Chip.trainDone (c : Chip) (l : Nat) (ok : Bool) (taps : W32) (preTx preRx : Bool) : Chip :=
  if c.laneTrain l ≠ 1 then c
  else if ok then
    let t := taps &&& 0x03FFFFFF
    let c := (c.setLaneTrain l 2).setLane l { c.lane l with taps := t, precodeTx := preTx, precodeRx := preRx }
    let c := if (c.sds l sdsTxEq).getLsbD 31 then c else c.setSds l sdsTxEq t
    ((c.precodeUpdate l).openSettle l).injResume l
  else (c.setLaneTrain l 3).raise (evP (pgSds (l / 128)) 0x0502 (dieP (l / 128)) l)

/-- Training starts again 10 ms after a failure (R240). -/
def Chip.trainRetry (c : Chip) (l : Nat) : Chip :=
  if c.laneTrain l = 3 ∧ c.laneEnabled l then c.setLaneTrain l 1 else c

/-- A write to SDS_TX_EQ of a lane (R241). -/
def Chip.txEqWrite (c : Chip) (l : Nat) (v : W32) : Chip :=
  if 63 < tapSum v then c
  else if v.getLsbD 31 ∨ !c.trainEn l then c.setSds l sdsTxEq (v &&& 0x83FFFFFF)
  else c.setSds l sdsTxEq (c.lane l).taps

/-! Checker, injector and eye monitor (R242 to R247) -/

/-- The checker of a lane works: CHK_EN, a pattern it checks, and the port not enabled (R242, R243). -/
def Chip.chkActive (c : Chip) (l : Nat) : Bool :=
  (c.sds l sdsPat).getLsbD 9 && decide (fld (c.sds l sdsPat) 5 4 ≤ 8) && !c.laneEn l

/-- Symbols received on a lane since the last were reported (R244, R246, R248): the checker acquires lock, compares, counts
and loses lock. It discards them while a settle window is open, and where it does not check at all. -/
def Chip.rxSymbols (c : Chip) (l : Nat) (ys : List (BitVec 2)) : Chip :=
  let x := c.lane l
  let k := c.rxCode l
  if c.chkActive l ∧ !c.laneFlag l stSettle then
    let r := ys.foldl (ChkRun.step k (fld (c.sds l sdsPat) 5 4)) ⟨x.chk, c.laneFlag l stChk, x.rxPrev, 0, 0, 0, 0⟩
    let n := min (2 ^ 48 - 1) (x.chkBits + r.bits)
    let c := ((c.bumpSds l 0x1020 r.bitErr).bumpSds l 0x1024 r.symErr).bumpSds l 0x1030 r.losses
    ((c.setLane l { x with chk := r.chk, rxPrev := r.prev, chkBits := n }).setSds l 0x1028
      (BitVec.ofNat 32 (n % 2 ^ 32))).setLaneFlag l stChk r.locked
  else match ys.getLast? with
    | some y => c.setLane l { x with rxPrev := (k.recv 0 y).2 }
    | none => c

/-- An eye monitor window ends (R247). -/
def Chip.eyeEnd (c : Chip) (l : Nat) (u m lo w : BitVec 6) (ys : List (BitVec 2)) : Chip :=
  let c := c.rxSymbols l ys
  if c.laneFlag l stSettle then c
  else
    let valid := !(c.lane l).eyeDirty
    (c.setSds l sdsEye (BitVec.ofNat 32 (u.toNat + m.toNat * 2 ^ 8 + lo.toNat * 2 ^ 16 + w.toNat * 2 ^ 24 +
      valid.toNat * 2 ^ 31))).setLane l { c.lane l with eyeDirty := false }

/-- INJ_GO (R245): ignored while an injection waits or runs. -/
def Chip.injGo (c : Chip) (l : Nat) : Chip :=
  if c.injRuns l then c
  else match fld (c.sds l sdsPat) 10 2 with
    | 0 => c
    | 3 => (c.setSds l sdsPat (putBit (c.sds l sdsPat) 31 true)).injStart l
    | _ => c.injStart l

/-- The next burst of a periodic injection, once SDS_INJ_PERIOD symbols have passed since the last began; a period not
greater than the burst acts as one symbol longer (R245). -/
def Chip.injPeriod (c : Chip) (l : Nat) : Chip :=
  let rest := max (c.sds l 0x1018).toNat (c.burstLen l + 1) - c.burstLen l
  if (c.sds l sdsPat).getLsbD 31 && c.laneSends l &&
      decide ((c.lane l).injEnd + uiUnits (c.rate (l / 4)) rest ≤ c.time.now) then c.injBurst l false else c

/-- CNT_CLR (R246). -/
def Chip.cntClr (c : Chip) (l : Nat) : Chip :=
  let c := ((c.setSds l 0x1020 0).setSds l 0x1024 0).setSds l 0x1030 0
  ((c.setSds l 0x1028 0).setSds l 0x102C 0).setLane l { c.lane l with chkBits := 0 }

/-- A read of SDS_CHK_BITS_LO (R246). -/
def Chip.chkBitsRead (c : Chip) (l : Nat) : Chip :=
  let n := (c.lane l).chkBits
  (c.setSds l 0x102C (BitVec.ofNat 32 (n / 2 ^ 32 % 2 ^ 16))).answer (BitVec.ofNat 32 (n % 2 ^ 32))

/-- A read of SDS_LANE_STAT (R238). -/
def Chip.laneStatRead (c : Chip) (l : Nat) : Chip :=
  let v := c.sds l sdsStat
  (if c.laneFlag l stLock then c.setLaneFlag l stFail false else c).answer v

/-- CDR lock (R248). -/
def Chip.cdrLock (c : Chip) (l : Nat) : Chip :=
  ((c.setLaneFlag l stCdr true).setLaneFlag l stSig true).openSettle l

/-- Loss of CDR lock (R248, R239), with whether the receiver still detects a signal: a settle window that opens now waits
for relock. -/
def Chip.cdrLoss (c : Chip) (l : Nat) (signal : Bool) : Chip := (c.setLaneFlag l stCdr false).setLaneFlag l stSig signal

/-- A write to SDS_LANE_CTRL (R236, R237, R248). -/
def Chip.laneCtrlWrite (c : Chip) (l : Nat) (v : W32) : Chip :=
  let old := c.sds l sdsCtrl
  let c := (c.setSds l sdsCtrl (v &&& 0xFF)).laneUpdate l
  let c := c.precodeUpdate l
  if (old ^^^ v) &&& 0x70 ≠ 0 then c.openSettle l else c

/-- A write to SDS_RX_EQ (R248). -/
def Chip.rxEqWrite (c : Chip) (l : Nat) (v : W32) : Chip := (c.setSds l 0x1010 (v &&& 0x3F)).openSettle l

/-- A write to SDS_PAT_CTRL (R243, R245, R246, R248): the fields, then the write-1-to-set bits in ascending order. -/
def Chip.patWrite (c : Chip) (l : Nat) (v : W32) : Chip :=
  let old := c.sds l sdsPat
  let keepGo := old.getLsbD 31 && decide (fld v 10 2 ≠ 0)
  let en := c.laneEn l
  let f (i : Nat) : Bool := v.getLsbD i && !en
  let w := putBit (putBit (putBit (v &&& 0x00FFFFFF) 4 (f 4)) 9 (f 9)) 31 keepGo
  let c := c.setSds l sdsPat w
  let c := if fld v 10 2 = 0 then c.setLane l { c.lane l with injWaits := false } else c
  let c := if (fld old 5 4 ≠ fld w 5 4) ∨ (w.getLsbD 9 ∧ !old.getLsbD 9) then c.openSettle l else c
  let c := if w.getLsbD 9 then c else c.setLaneFlag l stChk false
  let c := if v.getLsbD 29 then c.openSettle l else c
  let c := if v.getLsbD 30 then c.cntClr l else c
  if v.getLsbD 31 then c.injGo l else c

/-- The lane that SDS_LANE_SEL selects on a port die. -/
def Chip.selLane (c : Chip) (d : Nat) : Nat := d * 128 + c.field (pgSds d) 0x1000 0 7

/-- Whether a port die works. -/
def Chip.pdieUp (c : Chip) (d : Nat) : Bool := c.mainUp && !c.dieFailed (dieP d)

/-- Whether the synthesisers of a port die run: powered, from phase 3 of a cold start on. -/
def Chip.synthUp (c : Chip) (d : Nat) : Bool :=
  c.standbyUp && !c.pwr.tripped && c.boot.coldDue.isNone && !c.dieFailed (dieP d)

/-- The meaning of SYNTH_LOCK (R237). -/
def execSynthLock (pp : PhysPort) (s : State) : Host.Outcome State Fault Refusal := s.run fun c =>
  if c.synthUp (pp.val / 32) then c.synthLock pp.val else c
/-- The meaning of SYNTH_CAL_DONE (R237). -/
def execSynthCalDone (pp : PhysPort) (s : State) : Host.Outcome State Fault Refusal := s.run fun c =>
  if c.synthUp (pp.val / 32) then c.synthCal pp.val else c
/-- The meaning of SYNTH_LOCK_TIMEOUT (R238). -/
def execSynthLockTimeout (pp : PhysPort) (s : State) : Host.Outcome State Fault Refusal := s.run fun c =>
  if c.synthUp (pp.val / 32) then c.synthTimeout pp.val else c
/-- The meaning of TRAINING_DONE (R240). -/
def execTrainingDone (l : Lane) (ok : Bool) (taps : W32) (preTx preRx : Bool) (s : State) :
    Host.Outcome State Fault Refusal := s.run fun c => if c.pdieUp (l.val / 128) then c.trainDone l.val ok taps preTx preRx else c
/-- The meaning of TRAINING_RETRY (R240). -/
def execTrainingRetry (l : Lane) (s : State) : Host.Outcome State Fault Refusal := s.run fun c =>
  if c.pdieUp (l.val / 128) then c.trainRetry l.val else c
/-- The meaning of CDR_LOCK (R248). -/
def execCdrLock (l : Lane) (s : State) : Host.Outcome State Fault Refusal := s.run fun c =>
  if c.pdieUp (l.val / 128) then c.cdrLock l.val else c
/-- The meaning of CDR_LOCK_LOSS (R248, R239). -/
def execCdrLockLoss (l : Lane) (signal : Bool) (s : State) : Host.Outcome State Fault Refusal := s.run fun c =>
  if c.pdieUp (l.val / 128) then c.cdrLoss l.val signal else c
/-- The meaning of SETTLE_WINDOW_END (R248). -/
def execSettleWindowEnd (l : Lane) (s : State) : Host.Outcome State Fault Refusal := s.run fun c =>
  if c.pdieUp (l.val / 128) then c.setLaneFlag l.val stSettle false else c
/-- The meaning of CHECKER_LOCK (R244). -/
def execCheckerLock (l : Lane) (ys : List (BitVec 2)) (s : State) : Host.Outcome State Fault Refusal := s.run fun c =>
  if c.pdieUp (l.val / 128) then c.rxSymbols l.val ys else c
/-- The meaning of CHECKER_LOCK_LOSS (R244, R246). -/
def execCheckerLockLoss (l : Lane) (ys : List (BitVec 2)) (s : State) : Host.Outcome State Fault Refusal :=
  s.run fun c => if c.pdieUp (l.val / 128) then c.rxSymbols l.val ys else c
/-- The meaning of EYE_WINDOW_END (R247). -/
def execEyeWindowEnd (l : Lane) (u m lo w : BitVec 6) (ys : List (BitVec 2)) (s : State) :
    Host.Outcome State Fault Refusal :=
  s.run fun c => if c.pdieUp (l.val / 128) then c.eyeEnd l.val u m lo w ys else c
/-- The meaning of INJ_GO (R245). -/
def execInjGo (d : PDie) (s : State) : Host.Outcome State Fault Refusal := s.run fun c =>
  if c.serves (pgSds d.val) then c.injGo (c.selLane d.val) else c
/-- The meaning of INJ_PERIOD_BURST (R245). -/
def execInjPeriodBurst (l : Lane) (s : State) : Host.Outcome State Fault Refusal := s.run fun c =>
  if c.pdieUp (l.val / 128) then c.injPeriod l.val else c
/-- The meaning of SETTLE_GO (R248). -/
def execSettleGo (d : PDie) (s : State) : Host.Outcome State Fault Refusal := s.run fun c =>
  if c.serves (pgSds d.val) then c.openSettle (c.selLane d.val) else c
/-- The meaning of CNT_CLR (R246). -/
def execCntClr (d : PDie) (s : State) : Host.Outcome State Fault Refusal := s.run fun c =>
  if c.serves (pgSds d.val) then c.cntClr (c.selLane d.val) else c
/-- The meaning of SDS_TX_EQ_WRITE (R241). -/
def execSdsTxEqWrite (d : PDie) (v : W32) (s : State) : Host.Outcome State Fault Refusal := s.run fun c =>
  if c.serves (pgSds d.val) then c.txEqWrite (c.selLane d.val) v else c
/-- The meaning of CHK_BITS_LO_READ (R246): a page that is not served reads 0. -/
def execChkBitsLoRead (d : PDie) (s : State) : Host.Outcome State Fault Refusal := s.run fun c =>
  if c.serves (pgSds d.val) then c.chkBitsRead (c.selLane d.val) else c.answer 0
/-- The meaning of LANE_STAT_READ (R238). -/
def execLaneStatRead (d : PDie) (s : State) : Host.Outcome State Fault Refusal := s.run fun c =>
  if c.serves (pgSds d.val) then c.laneStatRead (c.selLane d.val) else c.answer 0

end Sys2Proof.Machine
end

