-- ==== Sys2Proof/Machine/Link.lean ====
section
/-! DEFINITION. The link layer (R254 to R282, R487, R249, R250): reception of a frame, the tail check and recovery,
credits, replay, link control frames, links coming up and going down, low-power idle, and the service of an egress
port (R319, R320, R326, R327). -/

namespace Sys2Proof.Machine

/-! Link registers and control frames -/

def Chip.lnkFlag (c : Chip) (p i : Nat) : Bool := c.flag (pgLnk (portDie p)) 0x1008 i (p % 128)
def Chip.setLnkFlag (c : Chip) (p i : Nat) (b : Bool) : Chip := c.setFlag (pgLnk (portDie p)) 0x1008 i b (p % 128)
/-- LNK_STAT.RECOVERY. -/
def Chip.recovery (c : Chip) (p : Nat) : Bool := c.lnkFlag p 1

/-- Whether a port die receives on a port: it works, and the port is enabled. -/
def Chip.rxOn (c : Chip) (p : Nat) : Bool := c.mainUp && c.portWorks p

/-- Credits that a logical port advertises on a virtual lane (R268). -/
def Chip.vlBuf (c : Chip) (p vl : Nat) : Nat := c.field (pgLnk (portDie p)) (0x1040 + 4 * vl) 0 16 (p % 128)

/-- The body of a link control frame (R266). -/
def linkBody (ctype ackSeq : Nat) (freed : Nat → Nat) : BitVec 224 :=
  BitVec.ofNat 224 (ctype * 2 ^ 220 + 1 * 2 ^ 216 + ackSeq % 4096 * 2 ^ 204 + 2 ^ 203 +
    ((List.range 8).foldl (fun n v => n + freed v % 2 ^ 16 * 2 ^ (16 * v)) 0) * 2 ^ 64)

def lcType (b : BitVec 224) : Nat := fld b 220 4
def lcPver (b : BitVec 224) : Nat := fld b 216 4
def lcAck (b : BitVec 224) : Nat := fld b 204 12
def lcLpi (b : BitVec 224) : Bool := b.getLsbD 203
def lcFreed (b : BitVec 224) (vl : Nat) : Nat := fld b (64 + 16 * vl) 16
def lcBody (f : Frame) : BitVec 224 := bvBE 224 (f.body.take 28)

/-- A link control frame to the partner joins the Control queue of its port (R266). -/
def Chip.sendCtl (c : Chip) (p ctype : Nat) : Chip :=
  let l := c.link p
  let freed (vl : Nat) : Nat := if 6 ≤ vl then 0 else if ctype = 0 then c.vlBuf p vl else Tbl.get 0 l.freedRx vl
  let h := mkHdr clsControl 6 0 false 0 0 64 0 0
  c.enqueue p (Msg.made h (bytesBE 28 (linkBody ctype l.ackSeq freed).toNat) c.time.now none)

/-- Credits freed at the receiver of a port (R267, R209). -/
def Chip.freeCredits (c : Chip) (p vl len : Nat) : Chip :=
  let l := c.link p
  c.setLink p { l with freedRx := Tbl.set 0 l.freedRx vl ((Tbl.get 0 l.freedRx vl + creditsFor len) % 65536) }

/-- The sender's credits on a virtual lane (R267). -/
def Chip.credits (c : Chip) (p vl : Nat) : Nat :=
  let l := c.link p
  (Tbl.get 0 l.adv vl + Tbl.get 0 l.freedTx vl + 65536 - Tbl.get 0 l.spent vl % 65536) % 65536

/-! Reception (R21 steps 1 to 4, R257 to R265, R270, R277) -/

/-- A header-check failure with a good tail (R260): counted, and reported at most once per millisecond per port. -/
def Chip.hdrError (c : Chip) (p : Nat) : Chip :=
  (c.bumpLnk p 0x1100).raiseLim (evP (pgLnk (portDie p)) 0x0503 (dieP (portDie p)) p) p (usUnits 1000)

/-- What every frame's tail counts (R265, R270, R277). -/
def Chip.countTail (c : Chip) (p : Nat) (f : Frame) : Chip :=
  let c := c.bumpN (pgLnk (portDie p)) 0x110C f.fecUncorr
  match tailOf f with
  | .good => c
  | .tailboard _ => c.bumpLnk p 0x1110
  | .bad k => if k = 3 ∧ hdrSequenced f.hdr then c else c.bumpLnk p 0x1108

/-- Send a NAK (R270). -/
def Chip.sendNak (c : Chip) (p : Nat) : Chip := (c.sendCtl p 2).bumpLnk p 0x111C

/-- Accept an LSEQ (R270): ACK_SEQ advances and recovery ends. -/
def Chip.acceptSeq (c : Chip) (p seq : Nat) : Chip := (c.setLink p { c.link p with ackSeq := seq }).setLnkFlag p 1 false

/-- A frame in reception (R234, R269): its head has arrived, and its tail has not. -/
def Chip.inReception (c : Chip) (p : Nat) (f : Frame) : Chip := c.setLink p { c.link p with rx := some (f, c.time.now) }
/-- The livery that a frame's work belongs to (R383): none for link control, MAC control and PTP. -/
def workLivery (h : BitVec 256) : Nat := if hClass h = clsControl ∧ 5 ≤ hSub h then noLivery else hLiv h
/-- A frame of some bytes has arrived whole. -/
def Chip.received (c : Chip) (p liv bytes : Nat) : Chip := (c.setLink p { c.link p with rx := none }).activeFrame p liv bytes

/-- The outcome of a frame's tail check, for the command of its class. -/
def Chip.verdict (c : Chip) (p : Nat) (f : Frame) (ok : Bool) : Chip := c.setLink p { c.link p with checked := some (f, ok) }

/-- FRAME_TAIL_CHECK: the receiver's decision at the tail of a sequenced frame (R260, R264, R265, R270, R277). The command
of its class finds the outcome in `checked`: a frame that is accepted goes on, and so does the bad frame that starts a
recovery, as the head of a frame that may have gone cut-through. -/
def Chip.tailCheck (c : Chip) (p : Nat) (f : Frame) : Chip :=
  if !(c.rxOn p && c.narjo p && c.linkUp p && hdrSequenced f.hdr) then c
  else if !f.whole then c.inReception p f
  else
    let c := (c.received p (workLivery f.hdr) (f.body.length + 36)).countTail p f
    let exp := ((c.link p).ackSeq + 1) % 4096
    let d := signed 12 (hLseq f.hdr + 4096 - exp)
    let free (c : Chip) : Chip := c.freeCredits p (hVl f.hdr) (hLen f.hdr)
    match tailOf f with
    | .tailboard _ => (free (if d = 0 then c.acceptSeq p exp else c)).verdict p f (decide (d = 0))
    | .bad _ =>
      if d < 0 then ((free c).bumpLnk p 0x1124).verdict p f false
      else if c.recovery p then ((free c).bumpLnk p 0x1120).verdict p f false
      else (((free c).setLnkFlag p 1 true).sendNak p).verdict p f (decide (d = 0))
    | .good =>
      if d = 0 then
        if hdrOk f.hdr then (c.acceptSeq p exp).verdict p f true else ((free (c.acceptSeq p exp)).hdrError p).verdict p f false
      else if d < 0 then ((free c).bumpLnk p 0x1124).verdict p f false
      else if c.recovery p then ((free c).bumpLnk p 0x1120).verdict p f false
      else (((free c).setLnkFlag p 1 true).sendNak p).verdict p f false

/-- Whether a sequenced frame may be acted on by the command of its class: its tail has been checked and not found
wanting; a frame that comes without its FRAME_TAIL_CHECK is checked here. -/
def Chip.sequenced (c : Chip) (p : Nat) (f : Frame) : Bool × Chip :=
  let c := match (c.link p).checked with
    | some (g, _) => if g = f then c else c.tailCheck p f
    | none => c.tailCheck p f
  let ok := match (c.link p).checked with | some (_, ok) => ok | none => false
  (ok, c.setLink p { c.link p with checked := none })

/-- Reading a frame out of its ingress buffer (R197, R198): an uncorrectable error is handled as a cell error, as a bad tail
found after the link has accepted the frame. -/
def Chip.ingressRead (c : Chip) (p : Nat) (buf : BufRead) (t : TailSt) : TailSt × Chip :=
  let die := dieP (portDie p)
  let c := c.bumpN (pgMem die) 0x1104 buf.corrected
  match buf.bad with
  | none => (t, c)
  | some w => (if t = .good then .bad 5 else t, c.eccUncorr die (128 + physOf p % 32 / 4) w.toNat)

/-- Reception of a Narjo frame by the command of its class: steps 1 to 4 of R21, then `body` with the frame's tail, once it
has been read from the ingress buffer. A frame of another kind than the command's is left alone. -/
def Chip.receive (c : Chip) (p : Nat) (f : Frame) (kind : BitVec 256 → Bool) (body : TailSt → Chip → Chip) : Chip :=
  let pass (c : Chip) : Chip := body (c.ingressRead p f.buf (tailOf f)).1 (c.ingressRead p f.buf (tailOf f)).2
  if !(c.rxOn p && c.narjo p && c.linkUp p) || (hdrOk f.hdr && hdrClassOk f.hdr && !kind f.hdr) then c
  else if !f.whole then c.inReception p f
  else if hdrSequenced f.hdr then
    match c.sequenced p f with
    | (false, c) => c
    | (true, c) =>
      let c := if tailOf f = .good then c.freeCredits p (hVl f.hdr) (hLen f.hdr) else c
      if !hdrOk f.hdr then c
      else if !hdrClassOk f.hdr then c.bumpLnk p 0x1104
      else pass c
  else
    let c := ((c.received p (workLivery f.hdr) (f.body.length + 36)).countTail p f).freeCredits p (hVl f.hdr) (hLen f.hdr)
    if !hdrOk f.hdr then (if tailOf f = .good then c.hdrError p else c)
    else if !hdrClassOk f.hdr then c.bumpLnk p 0x1104
    else pass c

/-- The ingress stamp (R21 step 2): the present fabric time less the frame's age. -/
def Chip.stampOf (c : Chip) (age : Nat) : Nat := c.time.now - age

/-! Links up and down (R269, R487) -/

/-- The link of a port comes up once INITs have passed both ways (R269). -/
def Chip.tryUp (c : Chip) (p : Nat) : Chip :=
  let l := c.link p
  if c.narjo p && l.aligned && l.initSent && l.initRcvd && !c.lnkFlag p 0 then
    let c := c.setLink p { l with
      txSeq := 0, ackedSeq := 0xFFF, replay := [], ackSeq := 0xFFF, checked := none
      freedRx := [], spent := [], freedTx := [], ackSent := 0xFFF, freedSent := [], rx := none }
    let c := (c.setLnkFlag p 0 true).setLnkFlag p 1 false
    (c.raise (evP (pgLnk (portDie p)) 0x0504 (dieP (portDie p)) p)).restoreTargets p
  else c

/-- What the PCS makes of the lanes it receives (R232): for each PCS lane in order, the place at which it comes and the
delay that brings it level with the last; none unless every lane's marker is there once. -/
def deskew (marks : List PcsMark) : Option (List PcsMark) :=
  let n := marks.length
  let late := marks.foldl (fun m x => max m x.skew) 0
  let at_ (k : Nat) : Nat := marks.findIdx (fun x => decide (x.lane = k))
  if 0 < n ∧ (List.range n).all (fun k => marks.any (fun x => decide (x.lane = k))) then
    some ((List.range n).map (fun k => ⟨at_ k, late - ((marks.map (·.skew)).getD (at_ k) 0)⟩))
  else none

/-- PCS alignment is gained (R232, R269, R292): a Narjo port starts INIT, an Ethernet port's link is up where
auto-negotiation accepted the physical layer (R255). -/
def Chip.pcsAligned (c : Chip) (p : Nat) (marks : List PcsMark) : Chip :=
  match (if !c.rxOn p ∨ (c.link p).aligned then none else deskew marks) with
  | none => c
  | some pcs =>
    if c.narjo p then
      ((c.setLink p { c.link p with aligned := true, initSent := true, pcs := pcs }).sendCtl p 0).tryUp p
    else if (c.link p).negotiated then (c.setLink p { c.link p with aligned := true, pcs := pcs }).restoreTargets p
    else c

/-- An UPDATE's or NAK's ACK_SEQ and FREED reach the sender (R266, R267, R271). -/
def Chip.takeUpdate (c : Chip) (p : Nat) (b : BitVec 224) : Chip :=
  let l := c.link p
  let old (n : Nat) : Bool := decide (0 < signed 12 (n + 4096 - lcAck b))
  let c := c.setEgress p { c.egress p with again := (c.egress p).again.filter (fun m => old (hLseq m.hdr)) }
  c.setLink p { l with
    ackedSeq := lcAck b
    replay := l.replay.filter (fun k => old k.seq)
    freedTx := forAll [0, 1, 2, 3, 4, 5] l.freedTx (fun v m => Tbl.set 0 m v (lcFreed b v)) }

/-- Reception of a link control frame of a type (R266): a bad one is discarded. -/
def Chip.ctlRx (c : Chip) (p : Nat) (f : Frame) (ctype : Nat) (body : BitVec 224 → Chip → Chip) : Chip :=
  if !(c.rxOn p && c.narjo p && (c.link p).aligned && isLinkControl f.hdr) then c
  else if !f.whole then c.inReception p f
  else
    let c := (c.received p (workLivery f.hdr) (f.body.length + 36)).countTail p f
    if tailOf f ≠ .good then c
    else if !hdrOk f.hdr then c.hdrError p
    else if lcType (lcBody f) = ctype then body (lcBody f) c else c

def lpiCtlOff (p : Nat) : Nat := 0x1100 + 4 * (physOf p % 32)
def lpiStatOff (p : Nat) : Nat := 0x1180 + 4 * (physOf p % 32)
def Chip.lpiEn (c : Chip) (p : Nat) : Bool := c.flag (pgPrt (portDie p)) (lpiCtlOff p) (p % 4)
def Chip.lpiStat (c : Chip) (p i : Nat) : Bool := c.flag (pgPrt (portDie p)) (lpiStatOff p) (i + p % 4)
def Chip.setLpiStat (c : Chip) (p i : Nat) (b : Bool) : Chip := c.setFlag (pgPrt (portDie p)) (lpiStatOff p) (i + p % 4) b


/-- An INIT of the partner (R266, R269, R252). -/
def Chip.takeInit (c : Chip) (p : Nat) (b : BitVec 224) : Chip :=
  if c.lnkFlag p 0 then c
  else
    let c := ((c.setLpiStat p 8 (lcLpi b)).setLnkFlag p 2 (lcLpi b)).setField (pgLnk (portDie p)) 0x1008 4 4 (lcPver b) (p % 128)
    let l := c.link p
    (c.setLink p { l with initRcvd := true, adv := forAll [0, 1, 2, 3, 4, 5] [] (fun v m => Tbl.set 0 m v (lcFreed b v)) }).tryUp p

/-- Send an UPDATE (R267). -/
def Chip.sendUpdate (c : Chip) (p : Nat) : Chip :=
  let l := c.link p
  (c.sendCtl p 1).setLink p { (c.sendCtl p 1).link p with ackSent := l.ackSeq, freedSent := l.freedRx }

/-! Port modes and credit settings (R254, R268) -/

def Chip.lnkReject (c : Chip) (d : Nat) : Chip := c.bump (pgLnk d) 0x1138
def Chip.selLnk (c : Chip) (d : Nat) : Nat := d * 128 + c.field (pgLnk d) 0x1000 0 7

/-- A write to LNK_CTRL (R254). -/
def Chip.lnkCtrlWrite (c : Chip) (d : Nat) (v : W32) : Chip :=
  let p := c.selLnk d
  let old := c.reg (pgLnk d) 0x1004 (p % 128)
  let w := v &&& 0xFFF1
  if old.getLsbD 0 ≠ v.getLsbD 0 then
    if c.enabled p then (c.setReg (pgLnk d) 0x1004 (putBit w 0 (old.getLsbD 0)) (p % 128)).lnkReject d
    else (c.setReg (pgLnk d) 0x1004 w (p % 128)).setLink p Link.reset
  else c.setReg (pgLnk d) 0x1004 w (p % 128)

/-- Least credits of a virtual lane (R268). -/
def vlMin (vl : Nat) : Nat := match vl with | 0 => 132 | 1 => 258 | 2 => 66 | 3 => 66 | _ => 145

/-- The logical ports in use of a physical port, and of both of a joined pair. -/
def Chip.logicalPorts (c : Chip) (pp : Nat) : List Nat :=
  if c.split pp = 3 then [pp / 2 * 8] else (lanesOfPhys pp).filter c.inUse

/-- A write to LNK_VL_BUFn (R268). -/
def Chip.vlWrite (c : Chip) (d vl : Nat) (v : W32) : Chip :=
  let p := c.selLnk d
  let n := fld v 0 16
  let ps := c.logicalPorts (physOf p)
  let total := (ps.flatMap (fun q => [0, 1, 2, 3, 4, 5].map (fun k => if q = p ∧ k = vl then n else c.vlBuf q k))).foldl (· + ·) 0
  if !c.inUse p ∨ c.enabled p ∨ n < vlMin vl ∨ (if c.split (physOf p) = 3 then 8192 else 4096) < total then c.lnkReject d
  else c.setReg (pgLnk d) (0x1040 + 4 * vl) (BitVec.ofNat 32 n) (p % 128)

/-! Low-power idle (R249, R250) -/

/-- Whether the partner has advertised LPI (R249). -/
def Chip.lpiPartner (c : Chip) (p : Nat) : Bool := if c.narjo p then c.lnkFlag p 2 else c.lpiStat p 8

/-- LPI_DELAY of a port in fabric-time units; 0 acts as 1 µs (R252). -/
def Chip.lpiDelay (c : Chip) (p : Nat) : Nat := usUnits (max 1 (c.field (pgPrt (portDie p)) (lpiCtlOff p) 8 8))

/-- A sleep request is sent once the port has held nothing for LPI_DELAY (R249). -/
def Chip.lpiStart (c : Chip) (p : Nat) : Chip :=
  let e := c.egress p
  if c.portUp p && c.lpiEn p && c.lpiPartner p && e.queued.isEmpty && e.again.isEmpty && e.tx.isNone &&
      decide (e.idleSince + c.lpiDelay p ≤ c.time.now) && decide ((c.link p).lpi = .awake) then
    (if c.narjo p then c.sendCtl p 3 else c).setLink p { (if c.narjo p then c.sendCtl p 3 else c).link p with lpi := .requested }
  else c

/-- The acknowledgement arrives (R249): the port sleeps at the commit point 20 ns later, unless a wake request has come by
then. -/
def Chip.lpiAck (c : Chip) (p : Nat) (wake : Bool) : Chip :=
  if (c.link p).lpi ≠ .requested then c
  else if wake then c.lpiWake p
  else
    let c := (c.setLink p { c.link p with lpi := .asleep }).setLpiStat p 0 true
    forAll (c.lanesOf p) (c.bumpPrt p 0x1200) (fun x c => c.setLaneFlag x stIdle true)

/-- No acknowledgement within 1,000 ns (R250): the port tries again after another LPI_DELAY. -/
def Chip.lpiNoAck (c : Chip) (p : Nat) : Chip :=
  if (c.link p).lpi = .requested then
    ((c.setLink p { c.link p with lpi := .awake }).setEgress p { c.egress p with idleSince := c.time.now }).bumpPrt p 0x120C
  else c

/-- The partner asks to sleep (R250): acknowledged, and the receivers' adaptation frozen. -/
def Chip.lpiReq (c : Chip) (p : Nat) : Chip :=
  if c.portUp p then
    let c := (if c.narjo p then c.sendCtl p 4 else c).setLpiStat p 4 true
    forAll (c.lanesOf p) c (fun x c => c.setLane x { c.lane x with frozen := true })
  else c

/-- The partner's wake signal (R250, R248): the receivers regain CDR lock. It is a wake request of this side too. -/
def Chip.lpiPartnerWake (c : Chip) (p : Nat) : Chip :=
  let c := c.lpiWake p
  if c.lpiStat p 4 then
    forAll (c.lanesOf p) (c.setLpiStat p 4 false)
      (fun x c => (c.setLane x { c.lane x with frozen := false }).cdrLock x)
  else c

/-- A sleeping transmitter's refresh (R249). -/
def Chip.lpiRefresh (c : Chip) (p : Nat) : Chip :=
  if (c.link p).lpi = .asleep then c.setLink p { c.link p with refreshes := (c.link p).refreshes + 1 } else c

/-! The service of an egress port (R319, R320) -/

/-- Bytes of frames kept for replay on the physical port of a logical port (R271). -/
def Chip.replayBytes (c : Chip) (p : Nat) : Nat :=
  (c.logicalPorts (physOf p)).foldl (fun n q => (c.link q).replay.foldl (fun n k => n + k.msg.len) n) 0

/-- Whether the sender may number one more sequenced frame (R270, R271). -/
def Chip.replayRoom (c : Chip) (p len : Nat) : Bool :=
  decide ((c.link p).replay.length < 2047) &&
  decide (c.replayBytes p + len ≤ if c.split (physOf p) = 3 then 262144 else 131072)

/-- The virtual lane of a frame (R259). -/
def vlOf (h : BitVec 256) : Nat := match classRow (hClass h) (hSub h) (hTc h) with | some r => r.vl | none => 0
/-- Whether a frame's kind is sequenced (R259). -/
def seqOf (h : BitVec 256) : Bool := match classRow (hClass h) (hSub h) (hTc h) with | some r => r.seqd | none => false

/-- Whether the partner pauses a priority of an Ethernet port now (R256). -/
def Chip.pfcPaused (c : Chip) (p i : Nat) : Bool := decide (c.time.now < Tbl.get 0 (c.link p).pfcUntil i)

/-- Whether a frame may start as far as its crossing and its link go: it has crossed (R289); on a Narjo port it has credits
and replay room, and no frame waits to be resent before it (R267, R270, R271); on an Ethernet port it is a Bulk frame whose
priority is not paused (R256), or a PTP message. Link control frames need none of it. -/
def Chip.linkReady (c : Chip) (p : Nat) (m : Msg) : Bool :=
  if isLinkControl m.hdr then true
  else c.linkUp p && !c.crossing m.num &&
    if c.narjo p then
      decide (creditsFor m.len ≤ c.credits p (vlOf m.hdr)) &&
        (!seqOf m.hdr || ((c.egress p).again.isEmpty && c.replayRoom p m.len))
    else (decide (hClass m.hdr = clsBulk) && !c.pfcPaused p (c.tcPri p (hTc m.hdr))) || (m.eth && decide (hClass m.hdr = clsControl))

/-- Whether a head frame of a TC sub-queue is eligible (R319). -/
def Chip.headReady (c : Chip) (p tc : Nat) (m : Msg) : Bool :=
  c.linkReady p m && c.shaperOpen (portDie p) (p % 128) && c.shaperOpen (portDie p) (tcShaper p tc) &&
    c.gateFits p tc (c.wireLen p m)

/-- The length of the head of a sub-queue that is eligible. -/
def Chip.headLen (c : Chip) (p tc s : Nat) : Option Nat :=
  match (c.egress p).subq tc s with
  | m :: _ => if c.headReady p tc m then some (c.wireLen p m) else none
  | [] => none

/-- Frames longer than every window of their TC are discarded at the head (R327). -/
def Chip.dropOversize (c : Chip) (p tc s : Nat) : Nat → Chip
  | 0 => c
  | n + 1 =>
    match (c.egress p).subq tc s with
    | m :: ms =>
      if c.gateOversize p tc (c.wireLen p m) then
        let d0 := c.depth p tc
        let c := (c.setEgress p ((c.egress p).setSubq tc s ms)).watermark p tc d0 (d0 - c.wireLen p m)
        let c := (c.dropCells m.cells).bump (pgTmg (portDie p)) 0x1204
        (c.raiseLim (evP (pgTmg (portDie p)) 0x0608 (dieP (portDie p)) (p + tc * 65536)) p (usUnits 1000)).dropOversize p tc s n
      else c
    | [] => c

/-- A head frame that does not fit its gate's window is counted once (R326). -/
def Chip.markWait (c : Chip) (p tc s : Nat) : Chip :=
  match (c.egress p).subq tc s with
  | m :: ms =>
    if !m.gateWaited && !c.gateFits p tc (c.wireLen p m) then
      (c.setEgress p ((c.egress p).setSubq tc s ({ m with gateWaited := true } :: ms))).bump (pgTmg (portDie p)) 0x1200
    else c
  | [] => c

/-- What the gates do to the heads of a port's queues before a choice (R326, R327). -/
def Chip.gateHeads (c : Chip) (p : Nat) : Chip :=
  if c.gateEn p then
    forAll (List.range 16) c (fun tc c => forAll [0, 1, 2] c (fun s c =>
      (c.dropOversize p tc s (((c.egress p).subq tc s).length)).markWait p tc s))
  else c

/-- Whether a coach's outputs are suppressed in trailer mode or stay so after promotion (R421). -/
def Chip.suppressed (c : Chip) (m : Msg) : Bool :=
  let free := isLinkControl m.hdr || decide (hClass m.hdr = clsControl ∧ (hSub m.hdr = 5 ∨ hSub m.hdr = 7))
  if free then false
  else if c.field pgFlt 0x1100 0 2 = 2 then true
  else match m.coach, c.flt.suppressUntil with
    | some (d, i), some t =>
      let x := c.slot d i
      decide (x.td - (eDeadline x.ent * slotUnits : Nat) < (t : Int))
    | _, _ => false

/-! Ethernet egress (R305) -/

/-- An Ethernet frame as its port die reads it: where its EtherType stands, and the EtherType. -/
def etherOff (bs : List Byte) : Nat := if natOfBE (slice bs 12 2) = 0x8100 then 16 else 12
def etherType (bs : List Byte) : Nat := natOfBE (slice bs (etherOff bs) 2)
def dstMac (bs : List Byte) : Nat := natOfBE (bs.take 6)

/-- Whether an Ethernet frame carries a PTP message (R280): its EtherType, or UDP port 319 or 320 over IPv4 or IPv6. -/
def isPtp (bs : List Byte) : Bool :=
  let o := etherOff bs + 2
  let udp (at_ : Nat) : Bool := decide (natOfBE (slice bs (at_ + 2) 2) = 319 ∨ natOfBE (slice bs (at_ + 2) 2) = 320)
  decide (etherType bs = 0x88F7) ||
  (decide (etherType bs = 0x0800) && decide (natOfBE (slice bs (o + 9) 1) = 17) && udp (o + natOfBE (slice bs o 1) % 16 * 4)) ||
  (decide (etherType bs = 0x86DD) && decide (natOfBE (slice bs (o + 6) 1) = 17) && udp (o + 40))

/-- The 802.1Q tag control field of an Ethernet frame, if it is tagged. -/
def tciOf (bs : List Byte) : Option Nat :=
  if natOfBE (slice bs 12 2) = 0x8100 then some (natOfBE (slice bs 14 2)) else none

/-- An Ethernet frame's bytes without its tag and FCS. -/
def untagged (bs : List Byte) : List Byte :=
  let b := bs.take (bs.length - 4)
  match tciOf bs with | some _ => b.take 12 ++ b.drop 16 | none => b

/-- The frame as it leaves an Ethernet-mode port: tagged or not by R305, with a new FCS when it was rewritten, and with a
tailboard in its FCS when it has met a fault (R276). A frame that this port made itself leaves as it is. -/
def Chip.ethOut (c : Chip) (p : Nat) (m : Msg) : List Byte :=
  let tci := match m.tci with | some t => some t | none => tciOf m.body
  let raw := untagged m.body
  let cfg := c.reg pgRte 0x1504 p
  let b := match tci with
    | none => raw
    | some t => if t % 4096 = fld cfg 0 12 ∧ cfg.getLsbD 12 then raw else raw.take 12 ++ bytesBE 2 0x8100 ++ bytesBE 2 t ++ raw.drop 12
  if hClass m.hdr = clsControl then m.body
  else if m.tail = 0 ∧ b = m.body.take (m.body.length - 4) then m.body else withTrailer b m.tail

/-- The bytes of a frame on its link, with the trailer (R264, R276). -/
def Chip.wireBytes (c : Chip) (p : Nat) (m : Msg) : List Byte :=
  if c.narjo p then withTrailer (frameBytes m.hdr m.body) m.tail else c.ethOut p m

/-- A frame in transmission ends at a point reached, with a tailboard (R276): the bytes of it that have left. -/
def Msg.cutAt (m : Msg) (bytes code : Nat) : Msg := { m with body := m.body.take (bytes - 32), tail := code }

/-- What the reading of its cells makes of a frame (R197, R212): an old generation gives no data; an uncorrectable error
ends the frame, or discards it when its head has not left. -/
def Chip.readCells (c : Chip) (m : Msg) (rd : CellRead) : Option Msg × Chip :=
  match m.cells with
  | [] => (some m, c)
  | r :: _ =>
    let c := c.accessBanks (dieB r.bdie) (hLiv m.hdr) (m.cells.map (fun x => x.cell / 2048)) rd.corrected rd.stalled
    let old := m.cells.findIdx c.cellStale
    match (rd.bad.filter (fun k => decide (k < old))).bind (fun k => (m.cells[k]?).map (fun x => (k, x))) with
    | some (k, x) =>
      let c := c.eccUncorr (dieB r.bdie) (x.cell / 2048) (x.cell % 2048 * 32)
      (if k = 0 then none else some (m.cutAt (512 * k) 5), c)
    | none => (some (if old < m.cells.length then m.cutAt (512 * old) 6 else m), c)

/-- A frame starts on its port: its tailboard is counted, its egress is mirrored, and it carries its egress stamp, which
for a PTP message is corrected (R276, R279, R310). -/
def Chip.transmit (c : Chip) (p : Nat) (m : Msg) : Chip :=
  let c := if m.tail ≠ 0 then c.bumpLnk p 0x1114 else c
  let c := c.mirrorAt true (decide (m.tail ≠ 0)) p c.time.now none (c.wireBytes p m)
  let ptp := decide (hClass m.hdr = clsControl ∧ hSub m.hdr = 5) || (!c.narjo p && isPtp m.body)
  let n := c.takeFresh
  let t := ((c.time.now : Int) + Config.ptpCorrection n.1).toNat
  if ptp then n.2.setEgress p { n.2.egress p with tx := some { m with stamp := t } }
  else c.setEgress p { c.egress p with tx := some { m with stamp := c.time.now } }

/-- A frame starts for the first time: it takes its per-hop fields, spends its credits, and is kept for replay when it is
sequenced (R258, R267, R271). -/
def Chip.startWith (c : Chip) (p len : Nat) (m : Msg) : Chip :=
  if c.narjo p then
    let l := c.link p
    let seqd := seqOf m.hdr
    let m := { m with hdr := putFld (putFld m.hdr 242 3 (vlOf m.hdr)) 225 12 (if seqd then l.txSeq else 0) }
    let l := if isLinkControl m.hdr then l else
      { l with spent := Tbl.set 0 l.spent (vlOf m.hdr) ((Tbl.get 0 l.spent (vlOf m.hdr) + creditsFor len) % 65536) }
    let l := if seqd then { l with
        txSeq := (l.txSeq + 1) % 4096, replay := l.replay ++ [⟨l.txSeq, { m with cells := [], num := 0 }, 0⟩] } else l
    (c.setLink p l).transmit p m
  else c.transmit p { m with body := c.ethOut p m }

/-- A chosen frame starts on its port, once its cells have been read (R197, R212); a frame suppressed in trailer mode is
discarded instead (R421). -/
def Chip.startFrame (c : Chip) (p : Nat) (m : Msg) (rd : CellRead) : Chip :=
  if c.suppressed m then (c.bump pgFlt 0x1224).dropCells m.cells
  else match c.readCells m rd with
    | (none, c) => (c.gapMsg p m).dropCells m.cells
    | (some x, c) => c.startWith p m.len x

/-- A frame is resent exactly as first sent (R271): it consumes its credits anew. -/
def Chip.resend (c : Chip) (p : Nat) (m : Msg) : Chip :=
  let l := c.link p
  let vl := vlOf m.hdr
  let l := { l with
    spent := Tbl.set 0 l.spent vl ((Tbl.get 0 l.spent vl + creditsFor (hLen m.hdr)) % 65536)
    replay := l.replay.map (fun k => if k.seq = hLseq m.hdr then { k with resent := k.resent + 1 } else k) }
  ((((c.setLink p l).setEgress p { c.egress p with again := (c.egress p).again.drop 1 })).bumpLnk p 0x1118).transmit p m

/-- Whether the next frame to be resent has its credits. -/
def Chip.resendReady (c : Chip) (p : Nat) (m : Msg) : Bool :=
  c.linkUp p && decide (creditsFor (hLen m.hdr) ≤ c.credits p (vlOf m.hdr))

/-- The deficits of TCs that are not eligible are gone (R320). -/
def Chip.rotForget (c : Chip) (p : Nat) : Chip :=
  c.setEgress p { c.egress p with rot := (c.egress p).rot.forget (c.headLen p) }

/-- A frame leaves its TC sub-queue (R320, R322, R330, R331): shapers pay for it, and its delay is measured. -/
def Chip.takeSub (c : Chip) (p tc s : Nat) (rd : CellRead) : Chip :=
  match (c.egress p).subq tc s with
  | [] => c
  | m :: ms =>
    let d0 := c.depth p tc
    let w := c.wireLen p m
    let c := (c.setEgress p ((c.egress p).setSubq tc s ms)).watermark p tc d0 (d0 - w)
    let q := c.queueSt p tc
    let c := c.setQueueSt p tc { q with delayMax := max q.delayMax ((c.time.now - m.stamp) / 256) }
    let n := w + c.overhead p
    (((c.shaperTake (portDie p) (p % 128) n).shaperTake (portDie p) (tcShaper p tc) n).startFrame p m rd).rotForget p

/-- The Control frame to send next: an abort wave first (R22), else the oldest, else the oldest link control frame; each
the first that has crossed. -/
def Chip.ctlChoice (c : Chip) (p : Nat) : Option Msg :=
  let q := (c.egress p).ctl.filter (fun m => !c.crossing m.num)
  let wave (m : Msg) : Bool := decide (hSub m.hdr = 0)
  [q.find? wave, q.find? (fun m => !wave m), q.find? (fun m => isLinkControl m.hdr)].findSome? (fun o =>
    match o with | some m => if c.linkReady p m then some m else none | none => none)

/-- Steps 3 and 4 of R320. -/
def Chip.startTc (c : Chip) (p : Nat) (rd : CellRead) : Chip :=
  let c := c.gateHeads p
  let r := c.tcChoice p (c.headLen p) (c.egress p).rot
  let c := c.setEgress p { c.egress p with rot := r.2 }
  match r.1 with
  | some (tc, s) => c.takeSub p tc s rd
  | none => c

/-- Steps 2 to 4 of R320. -/
def Chip.startData (c : Chip) (p : Nat) (rd : CellRead) : Chip :=
  match (c.egress p).col with
  | m :: ms =>
    if c.linkReady p m then (c.setEgress p { c.egress p with col := ms }).startFrame p m rd else c.startTc p rd
  | [] => c.startTc p rd

/-- An idle egress port starts its next frame (R320, R271): a Control frame, else the next frame to be resent, else a new
one. A frame that lacks credits starts later. -/
def Chip.startNext (c : Chip) (p : Nat) (rd : CellRead) : Chip :=
  let awake := decide ((c.link p).lpi = .awake ∨ (c.link p).lpi = .requested)
  if !(c.sending && c.portWorks p && awake && (c.egress p).tx.isNone) then c
  else
    let c := c.rotForget p
    match c.ctlChoice p with
    | some m => (c.setEgress p { c.egress p with ctl := dropFirst (fun x => decide (x = m)) (c.egress p).ctl }).startFrame p m rd
    | none =>
      match (c.egress p).again with
      | m :: _ => if c.resendReady p m then c.resend p m else c.startData p rd
      | [] => c.startData p rd

/-- The frame in transmission has left (R264, R276, R279). -/
def Chip.frameOut (c : Chip) (p : Nat) (m : Msg) : Chip :=
  let bs := if c.narjo p then c.wireBytes p m else m.body
  { (c.setEgress p { c.egress p with tx := none }).activeFrame p (workLivery m.hdr) bs.length with out := { c.out with
      sent := c.out.sent + 1
      tx := some ⟨p, bs, !c.narjo p && decide (m.tail ≠ 0), m.stamp⟩ } }

/-- EGRESS_PORT_FREE: the frame in transmission has left, and the next one starts (R320). -/
def Chip.portFree (c : Chip) (p : Nat) (rd : CellRead) : Chip :=
  let c := match (c.egress p).tx with | some m => c.frameOut p m | none => c
  let c := c.startNext p rd
  c.setEgress p ((c.egress p).settle c.time.now)

/-! PTP and Ethernet MAC events -/

/-- A PTP message is handed to M0 with its corrected stamp, and is never forwarded; what the PTP stack answers leaves on
its port (R279, R280). -/
def Chip.ptpTake (c : Chip) (p : Nat) (h : BitVec 256) (bs : List Byte) (stamp : Nat) (eth : Bool) : Chip :=
  let running := decide (c.fwState = stRunning)
  let n := c.takeFresh
  let t := ((stamp : Int) + Config.ptpCorrection n.1).toNat
  let c := n.2.handToM0 { Msg.arrived p h bs t with eth := eth }
  let n := c.takeFresh
  match running, Config.ptpAnswer bs t n.1 with
  | true, some a =>
    let a := if eth then withTrailer a 0 else a.take 8412
    n.2.enqueue p { Msg.made (mkHdr clsControl 5 0 false 0 c.selfEid (a.length + 36) 0 0) a c.time.now none with eth := eth }
  | _, _ => n.2

/-- A priority flow control frame (R256, IEEE 802.1Qbb): each enabled priority is paused for its quanta of 512 bit times,
0 ending the pause. -/
def Chip.pfcRx (c : Chip) (p : Nat) (enable : BitVec 8) (quanta : BitVec 128) : Chip :=
  let until_ (i : Nat) : Nat :=
    let q := fld quanta (16 * i) 16
    if q = 0 then 0 else c.time.now + ceilDiv (q * 512 * 256) (max 1 (c.portRate p))
  c.setLink p { c.link p with
    pfcUntil := (setBits enable).foldl (fun t i => Tbl.set 0 t i (until_ i)) (c.link p).pfcUntil }

/-- An Ethernet-mode port whose link is up. -/
def Chip.ethRx (c : Chip) (p : Nat) : Bool := c.rxOn p && !c.narjo p && (c.link p).aligned

/-- The meaning of FRAME_TAIL_CHECK (R270). -/
def execFrameTailCheck (p : LPort) (f : Frame) (s : State) : Host.Outcome State Fault Refusal :=
  s.run fun c => c.tailCheck p.val f
/-- The meaning of EGRESS_PORT_FREE (R320). -/
def execEgressPortFree (p : LPort) (rd : CellRead) (s : State) : Host.Outcome State Fault Refusal :=
  s.run fun c => if c.inUse p.val then c.portFree p.val rd else c
/-- The meaning of LINK_INIT_RX (R269). -/
def execLinkInitRx (p : LPort) (f : Frame) (s : State) : Host.Outcome State Fault Refusal :=
  s.run fun c => c.ctlRx p.val f 0 (fun b c => c.takeInit p.val b)
/-- The meaning of LINK_UPDATE_RX (R267). -/
def execLinkUpdateRx (p : LPort) (f : Frame) (s : State) : Host.Outcome State Fault Refusal :=
  s.run fun c => c.ctlRx p.val f 1 (fun b c => if c.linkUp p.val then c.takeUpdate p.val b else c)
/-- The meaning of CREDIT_UPDATE_SEND (R267): an UPDATE after a change of FREED or ACK_SEQ. -/
def execCreditUpdateSend (p : LPort) (s : State) : Host.Outcome State Fault Refusal := s.run fun c =>
  let l := c.link p.val
  if c.rxOn p.val && c.narjo p.val && c.linkUp p.val && (decide (l.ackSent ≠ l.ackSeq) || decide (l.freedSent ≠ l.freedRx)) then
    c.sendUpdate p.val else c
/-- The meaning of CREDIT_UPDATE_PERIODIC (R267). -/
def execCreditUpdatePeriodic (p : LPort) (s : State) : Host.Outcome State Fault Refusal := s.run fun c =>
  if c.rxOn p.val && c.narjo p.val && c.linkUp p.val && !c.lpiStat p.val 4 then c.sendUpdate p.val else c
/-- The meaning of INIT_RESEND (R269): every 1 µs until the partner's INIT has come. -/
def execInitResend (p : LPort) (s : State) : Host.Outcome State Fault Refusal := s.run fun c =>
  if c.rxOn p.val && c.narjo p.val && (c.link p.val).aligned && !(c.link p.val).initRcvd then
    ((c.setLink p.val { c.link p.val with initSent := true }).sendCtl p.val 0).tryUp p.val else c
/-- The meaning of PCS_ALIGNED (R269). -/
def execPcsAligned (p : LPort) (marks : List PcsMark) (s : State) : Host.Outcome State Fault Refusal :=
  s.run fun c => c.pcsAligned p.val marks
/-- The meaning of NAK_REPEAT (R270). -/
def execNakRepeat (p : LPort) (s : State) : Host.Outcome State Fault Refusal := s.run fun c =>
  if c.rxOn p.val && c.narjo p.val && c.linkUp p.val && c.recovery p.val then c.sendNak p.val else c
/-- The meaning of LPI_ENTRY_START (R249). -/
def execLpiEntryStart (p : LPort) (s : State) : Host.Outcome State Fault Refusal := s.run fun c =>
  if c.rxOn p.val then c.lpiStart p.val else c
/-- The meaning of LPI_ACK_RX (R249). -/
def execLpiAckRx (p : LPort) (wake : Bool) (s : State) : Host.Outcome State Fault Refusal := s.run fun c =>
  if c.rxOn p.val then c.lpiAck p.val wake else c
/-- The meaning of LPI_NOACK_TIMEOUT (R250). -/
def execLpiNoackTimeout (p : LPort) (s : State) : Host.Outcome State Fault Refusal := s.run fun c =>
  if c.rxOn p.val then c.lpiNoAck p.val else c
/-- The meaning of LPI_WAKE_REQUEST (R250). -/
def execLpiWakeRequest (p : LPort) (s : State) : Host.Outcome State Fault Refusal := s.run fun c =>
  if c.rxOn p.val then c.lpiWake p.val else c
/-- The meaning of LPI_EXIT_COMPLETE (R250): the port is awake again and its first held frame starts. -/
def execLpiExitComplete (p : LPort) (s : State) : Host.Outcome State Fault Refusal := s.run fun c =>
  if c.rxOn p.val && decide ((c.link p.val).lpi = .waking) then
    let c := (c.setLink p.val { c.link p.val with lpi := .awake }).setLpiStat p.val 0 false
    let c := forAll (c.lanesOf p.val) (c.bumpPrt p.val 0x1208) (fun x c => (c.laneWoken x).injResume x)
    c.startNext p.val CellRead.clean
  else c
/-- The meaning of LPI_REQ_RX (R250). -/
def execLpiReqRx (p : LPort) (s : State) : Host.Outcome State Fault Refusal := s.run fun c =>
  if c.rxOn p.val then c.lpiReq p.val else c
/-- The meaning of LPI_PARTNER_WAKE_RX (R250). -/
def execLpiPartnerWakeRx (p : LPort) (s : State) : Host.Outcome State Fault Refusal := s.run fun c =>
  if c.rxOn p.val then c.lpiPartnerWake p.val else c
/-- The meaning of LPI_REFRESH (R249). -/
def execLpiRefresh (p : LPort) (s : State) : Host.Outcome State Fault Refusal := s.run fun c =>
  if c.rxOn p.val then c.lpiRefresh p.val else c
/-- The meaning of LNK_CTRL_WRITE (R254). -/
def execLnkCtrlWrite (d : PDie) (v : W32) (s : State) : Host.Outcome State Fault Refusal := s.run fun c =>
  if c.serves (pgLnk d.val) then c.lnkCtrlWrite d.val v else c
/-- The meaning of LNK_VL_BUF_WRITE (R268). -/
def execLnkVlBufWrite (d : PDie) (vl : Fin 6) (v : W32) (s : State) : Host.Outcome State Fault Refusal := s.run fun c =>
  if c.serves (pgLnk d.val) then c.vlWrite d.val vl.val v else c
/-- The meaning of PAUSE_FRAME_RX (R256). -/
def execPauseFrameRx (p : LPort) (s : State) : Host.Outcome State Fault Refusal := s.run fun c =>
  if c.ethRx p.val then c.bumpLnk p.val 0x113C else c
/-- The meaning of PFC_FRAME_RX (R256). -/
def execPfcFrameRx (p : LPort) (enable : BitVec 8) (quanta : BitVec 128) (s : State) : Host.Outcome State Fault Refusal := s.run fun c =>
  if c.ethRx p.val then c.pfcRx p.val enable quanta else c
/-- The meaning of FEC_UNCORR_BETWEEN_FRAMES (R265). -/
def execFecUncorrBetweenFrames (p : LPort) (s : State) : Host.Outcome State Fault Refusal := s.run fun c =>
  if c.rxOn p.val then c.bumpLnk p.val 0x110C else c
/-- The meaning of AUTO_NEGOTIATION (R255). -/
def execAutoNegotiation (p : LPort) (partnerLpi accepts : Bool) (s : State) : Host.Outcome State Fault Refusal :=
  s.run fun c =>
    if c.rxOn p.val && !c.narjo p.val then
      (c.setLpiStat p.val 8 partnerLpi).setLink p.val { (c.setLpiStat p.val 8 partnerLpi).link p.val with negotiated := accepts }
    else c
end Sys2Proof.Machine
end

