-- ==== Sys2Proof/Machine/Ingress.lean ====
section
/-! DEFINITION. The frames that are forwarded or answered without a coach (R21, R147 to R153, R263, R290, R298 to R305,
R324, R337): the livery checks of step 5, Memory, Bulk, Control and RESULT frames, Ethernet frames, and memory multicast
puts with their arrival counters. -/

namespace Sys2Proof.Machine

/-! Step 5 of R21: liveries (R337, R338) and the teardown discard (R308) -/

/-- Whether a frame is looked up by its DST (R290): Memory, Bulk, Control and RESULT frames with MC = 0, but not the
frames that the port die consumes (R263, R410, R419). -/
def destLooked (h : BitVec 256) (body : List Byte) : Bool :=
  !hMc h &&
  match hClass h with
  | 0 => decide (2 ≤ hSub h)
  | 1 => decide (hSub h ≠ 5) || decide (mStage (memHdrOf body) = 0)
  | 2 => true
  | _ => decide (hSub h ≠ 0 ∧ hSub h ≠ 7)

/-- Whether a frame is replicated by its group: Collective SUB 0x0 and 0x1 ignore MC (R259). -/
def groupLooked (h : BitVec 256) : Bool := hMc h && !decide (hClass h = 0 ∧ hSub h < 2)

/-- The first check of R337 that a Narjo frame fails at ingress, 0 for none; `badWb` is the outcome of check 0x7. -/
def Chip.livCheck (c : Chip) (p : Nat) (h : BitVec 256) (body : List Byte) (badWb : Bool) : Nat :=
  let l := hLiv h
  if !c.livValid l then 1
  else if !c.livPort l p then 2
  else if !c.livPermit l (hClass h) then 3
  else if !c.trust p && decide (hSrc h ≠ c.portEid p) then 4
  else if destLooked h body && !c.livGroup l (dgOf (hDst h)) then 5
  else if groupLooked h && !c.livMc l (hGroup h) then 6
  else if badWb then 7
  else if !c.trust p && ((decide (hClass h = 3) && (decide (hSub h < 4) || decide (hSub h = 7))) ||
      (decide (hClass h = 0) && decide (2 ≤ hSub h))) then 8
  else 0

/-- The grant position of the die of a port, for what that die makes. -/
def Chip.portPos (c : Chip) (p : Nat) : Option Nat := if p < 1024 then some (attachOf c p) else none

/-- A completion made on the die of port `p`, sent as an ordinary Memory response (R263): checked against its livery
(R337, cause 0xA), then looked up. A torn-down livery holds nothing for a lost target. -/
def Chip.sendResponse (c : Chip) (p liv dst tc : Nat) (body : List Byte) : Chip :=
  let h := mkHdr clsMemory 5 liv false dst c.selfEid (body.length + 36) tc 7
  let m := Msg.made h body c.time.now (c.portPos p)
  if !c.livGroup liv (dgOf dst) then c.violation liv 0xA none
  else match c.tornDown liv, c.lookup dst clsMemory with
    | true, .lost _ => c
    | _, _ => c.forward m .good false

/-- STATUS codes of a put completion (R152). -/
def stComplete : Nat := 0
def stPartial : Nat := 1
def stNoCounter : Nat := 2
def stTagBusy : Nat := 3
def stTornDown : Nat := 4

/-- Whether a frame is a Memory request other than a PUT (R308 step 5). -/
def tdAnswered (h : BitVec 256) : Bool := decide (hClass h = clsMemory) && decide (hSub h < 3)

/-- The completion of a request that a teardown discards (R308 step 5), which came on port `p`. -/
def Chip.tdAnswer (c : Chip) (p : Nat) (h : BitVec 256) (body : List Byte) : Chip :=
  if tdAnswered h then
    let tag := mTag (memHdrOf body)
    c.sendResponse p (hLiv h) (hSrc h) (hTc h) (putCplBody tag 0 0 (putBody tag (hSrc h) (hLiv h) 0 0 1 stTornDown))
  else c

/-- A frame discarded at ingress because its livery is torn down (R308 steps 1 and 5). -/
def Chip.tdDiscard (c : Chip) (p : Nat) (h : BitVec 256) (body : List Byte) : Chip := (c.bump pgRte 0x1814).tdAnswer p h body

/-- Step 5 of R21 for a Narjo frame, with the teardown discard ahead of it; `k` runs when the frame passes. -/
def Chip.step5 (c : Chip) (p : Nat) (h : BitVec 256) (body : List Byte) (badWb : Bool) (k : Chip → Chip) : Chip :=
  if c.tornDown (hLiv h) && !decide (hClass h = clsControl ∧ hSub h < 2) then c.tdDiscard p h body
  else match c.livCheck p h body badWb with
    | 0 => k c
    | cause => c.violation (hLiv h) cause (some p)

/-! Forwarded frames -/

/-- Steps 6 and 7 for a frame that is only forwarded: replicated under MC = 1 (R300), else looked up and dispatched. -/
def Chip.forwardAny (c : Chip) (p : Nat) (f : Frame) (age : Nat) (tail : TailSt) : Chip :=
  let m := Msg.arrived p f.hdr f.body (c.stampOf age)
  if hMc f.hdr then c.replicate m tail true else c.forward m tail true

/-- Reception of a frame that is only forwarded. -/
def Chip.forwardRx (c : Chip) (p : Nat) (f : Frame) (age : Nat) (kind : BitVec 256 → Bool) : Chip :=
  c.receive p f kind (fun t c => c.step5 p f.hdr f.body false (fun c => c.forwardAny p f age t))

/-- Whether a Memory frame is one that the device handles as a put (R147). -/
def isMcPut (h : BitVec 256) : Bool := decide (hClass h = clsMemory ∧ hSub h = 4) && hMc h
/-- Whether a Memory frame is a completion that names a counter of this device (R263). -/
def isCtrCpl (f : Frame) : Bool := decide (hClass f.hdr = clsMemory ∧ hSub f.hdr = 5) && decide (mStage (memHdrOf f.body) ≠ 0)

/-- A unicast Memory frame (R298). A PUT with STAGE 0 is discarded and counted (R263). -/
def Chip.memoryRx (c : Chip) (p : Nat) (f : Frame) (age : Nat) : Chip :=
  c.receive p f (fun h => decide (hClass h = clsMemory) && !isMcPut h && !isCtrCpl f) (fun t c =>
    c.step5 p f.hdr f.body false (fun c =>
      if hSub f.hdr = 4 ∧ mStage (memHdrOf f.body) = 0 then (if t = .good then c.bumpLnk p 0x1100 else c)
      else c.forwardAny p f age t))

/-! Memory multicast puts (R147 to R153, R263) -/

def Chip.putCtr (c : Chip) (k : Nat) : PutCtr := Tbl.get PutCtr.closed c.puts k
def Chip.setPutCtr (c : Chip) (k : Nat) (x : PutCtr) : Chip := { c with puts := Tbl.set PutCtr.closed c.puts k x }

/-- The handle of a counter: 2,048 per port die. -/
def putHandle (die i : Nat) : Nat := die * 2048 + i

/-- Return a completion to the sender of a put (R148, R263): to the source at stage 1, out of the arrival port with the
incoming handle at a later stage. -/
def Chip.putAnswer (c : Chip) (liv src tag stage arrPort inCtr tc : Nat) (cpl : BitVec 128) : Chip :=
  if stage = 1 then c.sendResponse arrPort liv src tc (putCplBody tag 0 0 cpl)
  else
    let body := putCplBody tag (stage - 1) inCtr cpl
    let m := Msg.made (mkHdr clsMemory 5 liv false src c.selfEid (body.length + 36) tc 7) body c.time.now none
    if c.portUp arrPort then c.place arrPort m .good
    else if c.tornDown liv then c
    else c.holdLost arrPort m

/-- A put refused with a status (R148). -/
def Chip.putRefuse (c : Chip) (p : Nat) (f : Frame) (status : Nat) : Chip :=
  let mh := memHdrOf f.body
  (c.bumpPrt p 0x1804).putAnswer (hLiv f.hdr) (hSrc f.hdr) (mTag mh) (mStage mh) p (mCtr mh) (hTc f.hdr)
    (putBody (mTag mh) (hSrc f.hdr) (hLiv f.hdr) 0 0 0 status)

/-- Status of a closing counter (R151). -/
def PutCtr.status (x : PutCtr) (torn : Bool) : Nat :=
  if torn then stTornDown
  else if x.branches ≤ x.answered ∧ x.arrived = x.expected ∧ x.failed = 0 then stComplete
  else stPartial

/-- A counter closes (R150, R151): one completion to the sender of the put, and the counter is free. -/
def Chip.putClose (c : Chip) (k : Nat) (torn : Bool) : Chip :=
  let x := c.putCtr k
  if x.busy then
    let st := x.status torn
    let c := (c.setPutCtr k PutCtr.closed).releaseUnit (k / 2048) plPut (k % 2048)
    let c := if st = stPartial then c.bump (pgPrt (k / 2048)) 0x1808 else c
    c.putAnswer x.livery x.srcEid x.tag x.stage x.arrPort x.inCtr x.tc
      (putBody x.tag x.srcEid x.livery x.expected x.arrived x.failed st)
  else c

/-- Whether an open counter of a die has a put's key (R147). -/
def Chip.putKeyOpen (c : Chip) (die liv src tag : Nat) : Bool :=
  c.puts.any (fun kv => decide (kv.1 / 2048 = die) && kv.2.busy && decide (kv.2.livery = liv ∧ kv.2.srcEid = src ∧ kv.2.tag = tag))

/-- The copies of a put and its counter's branch count (R147 steps 2 and 3, R300, R301); a put whose counter has closed
meanwhile is discarded. -/
def Chip.putCopies (c : Chip) (m : Msg) (k : Nat) : Chip :=
  let x := c.putCtr k
  let mh := memHdrOf m.body
  if x.busy ∧ x.livery = hLiv m.hdr ∧ x.srcEid = hSrc m.hdr ∧ x.tag = mTag mh then
    let cs := c.mcCopies (hGroup m.hdr) (hLiv m.hdr) m.inPort
    let sent := cs.2.multicast m
      (cs.1.map (fun x => (x.1, memRestage m.body (if x.2 then mStage mh + 1 else mStage mh) k)))
    sent.2.setPutCtr k { sent.2.putCtr k with branches := if sent.1 then cs.1.length else 0 }
  else c.dropCells m.cells

/-- A counter whose put neither has branches nor is held by a flow shaper closes at once. -/
def Chip.putIdle (c : Chip) (k : Nat) : Chip :=
  if (c.putCtr k).branches = 0 ∧ !c.traf.flowHeld.any (fun x => decide (x.put = some k)) then c.putClose k false else c

/-- A memory multicast put (R147, R148). It is held whole before any copy leaves: with a bad tail it goes no further than
the lookup (R274). -/
def Chip.putTake (c : Chip) (p : Nat) (f : Frame) (age : Nat) (tail : TailSt) : Chip :=
  let mh := memHdrOf f.body
  let die := portDie p
  let l := hLiv f.hdr
  if mStage mh = 0 then (if tail = .good then c.bumpLnk p 0x1100 else c)
  else if !gpValid (c.group (hGroup f.hdr)) then c.routeMiss
  else if hHops f.hdr = 0 then c.bumpLnk p 0x1128
  else if tail ≠ .good then
    ((c.atDispatch (Msg.arrived p f.hdr f.body (c.stampOf age)) tail).2.mcLookup (hGroup f.hdr) p).2
  else if c.putKeyOpen die l (hSrc f.hdr) (mTag mh) then c.putRefuse p f stTagBusy
  else match c.allocUnits die plPut l 1 with
    | (some [i], c) =>
      let k := putHandle die i
      let c := (c.bumpPrt p 0x1800).setPutCtr k
        { busy := true, livery := l, srcEid := hSrc f.hdr, tag := mTag mh, stage := mStage mh, arrPort := p,
          inCtr := mCtr mh, tc := hTc f.hdr, branches := 0, answered := 0, expected := gpMembers (c.group (hGroup f.hdr)),
          arrived := 0, failed := 0, opened := c.time.now }
      let r := c.atDispatch (Msg.arrived p f.hdr f.body (c.stampOf age)) tail
      (r.2.shaped r.1.msg.hop r.1.shaper p tail (some k) (fun c => c.putCopies r.1.msg.hop k)).putIdle k
    | (_, c) => c.putRefuse p f stNoCounter

/-- A completion that names a counter of this device (R150, R263). One whose CTR names an open counter of another put
meets no counter of its own: it counts as late. DESIGN CHOICE, log 145. -/
def Chip.putAnswered (c : Chip) (p : Nat) (f : Frame) : Chip :=
  let mh := memHdrOf f.body
  let b : BitVec 128 := bvBE 128 (slice f.body 32 16)
  let k := mCtr mh
  let x := c.putCtr k
  if x.busy ∧ fld b 112 16 = x.tag ∧ fld b 94 18 = x.srcEid ∧ fld b 86 8 = x.livery ∧ hLiv f.hdr = x.livery then
    let x := { x with answered := x.answered + 1, arrived := x.arrived + fld b 50 18, failed := x.failed + fld b 32 18 }
    let c := c.setPutCtr k x
    if x.branches ≤ x.answered then c.putClose k false else c
  else c.bumpPrt p 0x180C

/-- A counter's stage timeout (R150). -/
def Chip.putExpire (c : Chip) (k : Nat) : Chip :=
  let x := c.putCtr k
  if x.busy ∧ x.opened + usUnits (c.putTimeout x.livery) / 2 ^ (x.stage - 1) ≤ c.time.now then c.putClose k false else c

/-! Frames from Ethernet-mode ports (R256, R302 to R304) -/

/-- Ones' complement sum of two 16-bit words. -/
def ones16 (a b : Nat) : Nat := (a + b) % 65536 + (a + b) / 65536

/-- The IPv4 header checksum after TTL falls by 1, given the TTL and protocol word before. -/
def ipv4Check (check word : Nat) : Nat :=
  65535 - ones16 (ones16 (65535 - check) (65535 - word)) (word - 256)

/-- Replace `bs.length` bytes at an offset. -/
def patch (b : List Byte) (off : Nat) (bs : List Byte) : List Byte := b.take off ++ bs ++ b.drop (off + bs.length)

/-- What resolution makes of an Ethernet frame (R304): a miss, an expired TTL, an EID with the frame to send, or a
flood. -/
inductive EthTo where
  | miss
  | ttl
  | eid (e : Nat) (bytes : List Byte) (tci : Nat)
  | flood
  deriving DecidableEq, Repr

/-- The bytes of a routed frame (R304 step 1), without the FCS of the received frame. -/
def routedBytes (bs : List Byte) (mac nextMac outVid : Nat) : List Byte :=
  let o := etherOff bs + 2
  let b := bs.take (bs.length - 4)
  let b := patch (patch b 0 (bytesBE 6 nextMac)) 6 (bytesBE 6 mac)
  let b := if etherOff bs = 16 then patch b 14 (bytesBE 2 (natOfBE (slice bs 14 2) / 4096 * 4096 + outVid)) else b
  let b := if etherType bs = 0x0800 then
      let w := natOfBE (slice bs (o + 8) 2)
      patch (patch b (o + 8) (bytesBE 2 (w - 256))) (o + 10) (bytesBE 2 (ipv4Check (natOfBE (slice bs (o + 10) 2)) w))
    else patch b (o + 7) (bytesBE 1 (natOfBE (slice bs (o + 7) 1) - 1))
  withTrailer b 0

/-- Routing of an IP frame sent to the router's address (R304 step 1). -/
def Chip.ethRoute (c : Chip) (bs : List Byte) (liv tci : Nat) : EthTo :=
  let o := etherOff bs + 2
  let v4 := decide (etherType bs = 0x0800)
  let ttl := natOfBE (slice bs (if v4 then o + 8 else o + 7) 1)
  let key := if v4 then 2 + liv * 2 ^ 14 + natOfBE (slice bs (o + 16) 4) * 2 ^ 32
    else 3 + liv * 2 ^ 14 + natOfBE (slice bs (o + 24) 16) * 2 ^ 32
  if ttl ≤ 1 then .ttl
  else match c.addrFind key with
    | none => .miss
    | some e => .eid (fld e 160 18) (routedBytes bs c.routerMac (fld e 192 48) (fld e 178 12)) (tci / 4096 * 4096 + fld e 178 12)

/-- Resolution of an Ethernet frame of a VLAN (R304). -/
def Chip.ethResolve (c : Chip) (bs : List Byte) (vlan : W32) (tci : Nat) : EthTo :=
  if dstMac bs = c.routerMac ∧ (etherType bs = 0x0800 ∨ etherType bs = 0x86DD) then c.ethRoute bs (fld vlan 0 8) tci
  else if dstMac bs / 2 ^ 40 % 2 = 1 then .flood
  else match c.addrFind (1 + tci % 4096 * 4 + dstMac bs * 2 ^ 32) with
    | some e => .eid (fld e 160 18) bs tci
    | none => if vlan.getLsbD 22 then .miss else .flood

/-- The tag control field an Ethernet frame has at its port (R302, R315): its own, or the port's PVID and default
priority; a priority tag keeps its priority. -/
def Chip.ethTci (c : Chip) (p : Nat) (bs : List Byte) : Nat :=
  let pvid := c.field pgRte 0x1504 0 12 p
  match tciOf bs with
  | some t => if t % 4096 = 0 then t + pvid else t
  | none => c.field (pgTmg (portDie p)) 0x1004 9 3 (p % 128) * 8192 + pvid

/-- The livery checks of a frame received in Ethernet mode before its destination is known (R337). -/
def Chip.ethLivCheck (c : Chip) (p l : Nat) : Nat :=
  if !c.livValid l then 1 else if !c.livPort l p then 2 else if !c.livPermit l clsBulk then 3 else 0

/-- A Bulk frame on an Ethernet-mode port: VLAN, livery, resolution and dispatch (R302 to R304, R21). -/
def Chip.ethBridge (c : Chip) (p : Nat) (bs : List Byte) (tail : TailSt) (stamp : Nat) : Chip :=
  let tci := c.ethTci p bs
  let vlan := c.reg pgRte 0x150C (tci % 4096)
  let l := fld vlan 0 8
  let tc := c.field (pgTmg (portDie p)) 0x100C (tci / 8192 * 4) 4 (p % 128)
  let msg (mc : Bool) (dst : Nat) (b : List Byte) (t : Nat) : Msg :=
    { Msg.arrived p (mkHdr clsBulk 0 l mc dst c.selfEid (b.length + 36) tc 7) b stamp with eth := true, tci := some t }
  if !vlan.getLsbD 31 then c.routeMiss
  else if c.tornDown l then c.bump pgRte 0x1814
  else match c.ethLivCheck p l with
    | 0 =>
      match c.ethResolve bs vlan tci with
      | .miss => c.routeMiss
      | .ttl => c.bump pgRte 0x181C
      | .eid e b t =>
        if !c.livGroup l (dgOf e) then c.violation l 5 (some p) else c.forward (msg false e b t) tail false
      | .flood =>
        let g := fld vlan 8 14
        if !c.livMc l g then c.violation l 6 (some p)
        else c.replicate (msg true g bs tci) tail false
    | cause => c.violation l cause (some p)

/-- How an Ethernet frame's tail stands (R264, R265, R277): its FCS is its trailer. -/
def ethTail (bs : List Byte) (fecUncorr : Nat) : TailSt :=
  let n := bs.length - 4
  match trailerOf (BitVec.ofNat 32 (natOfLE (bs.drop n))) (crc32 (bs.take n)) with
  | .tailboard k => .tailboard k
  | t => if 0 < fecUncorr then .bad 1 else t

/-- The MAC's part of an Ethernet frame (R256, R265, R277, R280), then the bridge, once it has been read from the ingress
buffer. -/
def Chip.ethFrame (c : Chip) (p : Nat) (bs : List Byte) (fecUncorr : Nat) (whole : Bool) (buf : BufRead) (age : Nat) : Chip :=
  if !c.ethRx p then c
  else if !whole then c.inReception p ⟨0, bs, 0, fecUncorr, false, buf⟩
  else
    let vlan := c.reg pgRte 0x150C (c.ethTci p bs % 4096)
    let c := (c.received p (if vlan.getLsbD 31 then fld vlan 0 8 else noLivery) bs.length).bumpN (pgLnk (portDie p)) 0x110C fecUncorr
    if bs.length < 64 ∨ 9216 < bs.length then c.bumpLnk p 0x112C
    else
      let tail := ethTail bs fecUncorr
      let c := match tail with | .good => c | .tailboard _ => c.bumpLnk p 0x1110 | .bad _ => c.bumpLnk p 0x1108
      if etherType bs = 0x8808 then
        (if tail ≠ .good then c
         else if natOfBE (slice bs 14 2) = 0x0101 then
           c.pfcRx p (BitVec.ofNat 8 (natOfBE (slice bs 17 1)))
             (BitVec.ofNat 128 ((List.range 8).foldl (fun n i => n + natOfBE (slice bs (18 + 2 * i) 2) * 2 ^ (16 * i)) 0))
         else if natOfBE (slice bs 14 2) = 1 then c.bumpLnk p 0x113C else c)
      else
        let r := c.ingressRead p buf tail
        if isPtp bs then (if r.1 = .good then r.2.ptpTake p 0 bs (c.stampOf age) true else r.2)
        else r.2.ethBridge p bs r.1 (c.stampOf age)

/-- A PTP message (R280): over Ethernet as a frame of its port, whose bytes are the frame's body, else as a Control
frame. -/
def Chip.ptpRx (c : Chip) (p : Nat) (f : Frame) (age : Nat) : Chip :=
  if !c.narjo p then (if isPtp f.body then c.ethFrame p f.body f.fecUncorr f.whole f.buf age else c)
  else c.receive p f (fun h => decide (hClass h = clsControl ∧ hSub h = 5)) (fun t c =>
    if t = .good then
      (c.mirrorIn false none (Msg.arrived p f.hdr f.body (c.stampOf age))).ptpTake p f.hdr f.body (c.stampOf age) false
    else c)

/-! Flow shapers (R324) -/

/-- A frame that waited in the part goes to its port as that now is (R292, R306). -/
def Chip.redispatch (c : Chip) (q : Nat) (m : Msg) : Chip :=
  let mem := decide (hClass m.hdr = clsMemory)
  if c.portUp q then c.sendOn q m .good (mem && decide (q ∈ (c.lostOf (hLiv m.hdr)).ports))
  else if mem then c.holdLost q m
  else c.downDrop.dropCells m.cells

/-- The oldest frame that a flow shaper holds is dispatched once the shaper's tokens allow (R324). -/
def Chip.shaperRelease (c : Chip) (d f : Nat) : Chip :=
  let mine (x : Diverted) : Bool := decide (x.pdie = d ∧ x.dest = f)
  match c.traf.flowHeld.find? mine with
  | some x =>
    if c.shaperOpen d (flowShaper f) then
      let c := { c with traf := { c.traf with flowHeld := dropFirst mine c.traf.flowHeld } }
      let c := c.shaperTake d (flowShaper f) (x.msg.flowLen + c.overhead x.lport)
      match x.put with
      | some k => (c.putCopies x.msg k).putIdle k
      | none => if hMc x.msg.hdr then c.copyOut x.msg else c.redispatch x.lport x.msg
    else c
  | none => c

/-- A cell of a frame in transmission has been read out. -/
def Chip.txRead (c : Chip) (r : CellRef) : Chip :=
  match c.traf.eg.find? (fun kv => match kv.2.tx with | some m => m.cells.contains r | none => false) with
  | some (p, e) => c.setEgress p { e with tx := e.tx.map (fun m => { m with cells := dropFirst (fun x => decide (x = r)) m.cells }) }
  | none => c

/-- The meaning of MEMORY_FRAME (R298). -/
def execMemoryFrame (p : LPort) (f : Frame) (age : Nat) (s : State) : Host.Outcome State Fault Refusal :=
  s.run fun c => c.memoryRx p.val f age
/-- The meaning of MEMORY_PUT (R147). -/
def execMemoryPut (p : LPort) (f : Frame) (age : Nat) (s : State) : Host.Outcome State Fault Refusal :=
  s.run fun c => c.receive p.val f isMcPut (fun t c =>
    c.step5 p.val f.hdr f.body false (fun c => c.putTake p.val f age t))
/-- The meaning of PUT_COMPLETION (R150). -/
def execPutCompletion (p : LPort) (f : Frame) (age : Nat) (s : State) : Host.Outcome State Fault Refusal :=
  s.run fun c => c.receive p.val f (fun _ => isCtrCpl f) (fun t c =>
    c.step5 p.val f.hdr f.body false (fun c =>
      if t = .good then (c.atDispatch (Msg.arrived p.val f.hdr f.body (c.stampOf age)) t).2.putAnswered p.val f else c))
/-- The meaning of PUT_COUNTER_TIMEOUT (R150). -/
def execPutCounterTimeout (d : PDie) (ctr : Fin 2048) (s : State) : Host.Outcome State Fault Refusal :=
  s.run fun c => if c.mainUp then c.putExpire (putHandle d.val ctr.val) else c
/-- The meaning of BULK_FRAME (R290). -/
def execBulkFrame (p : LPort) (f : Frame) (age : Nat) (s : State) : Host.Outcome State Fault Refusal :=
  s.run fun c => c.forwardRx p.val f age (fun h => decide (hClass h = clsBulk))
/-- The meaning of ETHERNET_FRAME (R304). -/
def execEthernetFrame (p : LPort) (bytes : List Byte) (fecUncorr : Nat) (whole : Bool) (buf : BufRead) (age : Nat) (s : State) :
    Host.Outcome State Fault Refusal := s.run fun c => c.ethFrame p.val bytes fecUncorr whole buf age
/-- The meaning of PTP_MESSAGE_RX (R280). -/
def execPtpMessageRx (p : LPort) (f : Frame) (age : Nat) (s : State) : Host.Outcome State Fault Refusal :=
  s.run fun c => c.ptpRx p.val f age
/-- The meaning of CONTROL_FRAME_FORWARD (R22): SUB 0x1 to 0x4. -/
def execControlFrameForward (p : LPort) (f : Frame) (age : Nat) (s : State) : Host.Outcome State Fault Refusal :=
  s.run fun c => c.forwardRx p.val f age (fun h => decide (hClass h = clsControl ∧ 1 ≤ hSub h ∧ hSub h ≤ 4))
/-- The meaning of RESULT_FRAME (R104). -/
def execResultFrame (p : LPort) (f : Frame) (age : Nat) (s : State) : Host.Outcome State Fault Refusal :=
  s.run fun c => c.forwardRx p.val f age (fun h => decide (hClass h = clsCollective ∧ 2 ≤ hSub h))
/-- The meaning of CELL_REFCOUNT_DECREMENT (R211, R212). -/
def execCellRefcountDecrement (b : BDie) (cell : BitVec 18) (gen : BitVec 16) (s : State) :
    Host.Outcome State Fault Refusal :=
  s.run fun c => if c.mainUp && !c.dieFailed (dieB b.val) then (c.txRead ⟨b.val, cell.toNat, gen.toNat⟩).cellDecr ⟨b.val, cell.toNat, gen.toNat⟩ else c
/-- The meaning of FLOW_SHAPER_RELEASE (R324). -/
def execFlowShaperRelease (d : PDie) (shaper : Fin 512) (s : State) : Host.Outcome State Fault Refusal :=
  s.run fun c => if c.mainUp then c.shaperRelease d.val shaper.val else c

end Sys2Proof.Machine
end

