-- ==== Sys2Proof/Machine/Records.lean ====
section
/-! DEFINITION. Records that the part makes (R188 to R191, R419, R420): fold ledger records and their batches, lateness
records, and digest records with their comparison. -/

namespace Sys2Proof.Machine

/-! Records sent to collectors -/

/-- The EID of collector `k` of a livery, none when it is invalid (TTB_LIV_COLLn). -/
def Chip.collector (c : Chip) (l k : Nat) : Option Nat :=
  if c.flag pgTtb (0x1230 + 4 * k) 31 l then some (c.field pgTtb (0x1230 + 4 * k) 0 18 l) else none

/-- A coach die sends a Control frame of records to a collector (R188, R190): whether it left, and the part after it. A
frame that fails the livery checks of a record generator or of its egress is a violation (R337, R338); this device is no
route for it (R292). -/
def Chip.sendRecord (c : Chip) (d l k sub : Nat) (body : List Byte) : Bool × Chip :=
  match c.collector l k with
  | none => (false, c)
  | some eid =>
    if !c.livGroup l (dgOf eid) then (false, c.violation l 0xA none)
    else match c.lookup eid clsControl with
      | .miss => (false, c.routeMiss)
      | .port q =>
        if !c.livPort l q then (false, c.violation l 9 (some q))
        else
          let h := mkHdr clsControl sub l false eid c.selfEid (body.length + 36) 0 7
          (true, c.deliver q (Msg.made h body c.time.now (some (coachPos d 0))))
      | .self => (false, c)
      | _ => (false, c.downDrop)

/-! The fold ledger (R188, R189) -/

/-- Key of a livery's batch and sequence number on a coach die. -/
def ledgerKey (d l : Nat) : Nat := d * 256 + l

def Chip.ledgerBatch (c : Chip) (d l : Nat) : List BatchRec := Tbl.get [] c.coach.ledger (ledgerKey d l)
def Chip.setLedgerBatch (c : Chip) (d l : Nat) (b : List BatchRec) : Chip :=
  { c with coach := { c.coach with ledger := Tbl.set [] c.coach.ledger (ledgerKey d l) b } }

/-- Records that a coach die's generator holds. -/
def Chip.ledgerHeld (c : Chip) (d : Nat) : Nat :=
  (c.coach.ledger.filter (fun kv => decide (kv.1 / 256 = d))).foldl (fun n kv => n + kv.2.length) 0

/-- `n` ledger records of a livery are lost (R188): counted, and reported at most once per 256 ns per coach die. -/
def Chip.ledgerLost (c : Chip) (d l n : Nat) : Chip :=
  if n = 0 then c
  else (c.bumpN pgTtb 0x1418 n).raiseLim (evV pgTtb 0x0303 (dieC d) l) d (nsUnits 256)

/-- A fold ledger record (R189). -/
def ledgerRecord (w : BitVec 256) (lport reason d seq stamp : Nat) : BitVec 256 :=
  BitVec.ofNat 256 (1 * 2 ^ 248 + wLiv w * 2 ^ 240 + wEntry w * 2 ^ 224 + (wStep w).toNat * 2 ^ 192 +
    wChunk w * 2 ^ 168 + lport % 1024 * 2 ^ 158 + (if reason = 0 then 0 else 2 ^ 156) + reason % 16 * 2 ^ 152 +
    d % 16 * 2 ^ 148 + wFmt w * 2 ^ 144 + seq % 2 ^ 32 * 2 ^ 112 + stamp % 2 ^ 64 * 2 ^ 48 + wElemBase w * 2 ^ 12 +
    (wElemCount w + 4095) % 4096)

/-- The record of a late contribution joins its livery's batch (R188): SEQ advances whether or not there is room. -/
def Chip.ledgerWrite (c : Chip) (d : Nat) (w : BitVec 256) (lport reason stamp : Nat) : Chip :=
  let l := wLiv w
  let k := ledgerKey d l
  let seq := Tbl.get 0 c.coach.ledgerSeq k
  let rec_ := ledgerRecord w lport reason d seq stamp
  let c := { c with coach := { c.coach with ledgerSeq := Tbl.set 0 c.coach.ledgerSeq k ((seq + 1) % 2 ^ 32) } }
  if 256 ≤ c.ledgerHeld d then c.ledgerLost d l 1 else c.setLedgerBatch d l (c.ledgerBatch d l ++ [⟨rec_, c.time.now⟩])

/-- The bytes of a run of records. -/
def recordBytes (rs : List (BitVec 256)) : List Byte := rs.flatMap (fun r => bytesBE 32 r.toNat)

/-- Whether a livery's frame leaves (R188, R419): 32 of its records wait, or the oldest was written 1 µs ago. -/
def batchDue (now : Nat) (b : List BatchRec) : Bool :=
  match b with
  | [] => false
  | r :: _ => decide (32 ≤ b.length) || decide (r.written + usUnits 1 ≤ now)

/-- A frame of up to 32 waiting records of a livery leaves (R188). -/
def Chip.ledgerSend (c : Chip) (d l : Nat) : Chip :=
  let rs := ((c.ledgerBatch d l).take 32).map (·.word)
  if !batchDue c.time.now (c.ledgerBatch d l) then c
  else
    let c := c.setLedgerBatch d l ((c.ledgerBatch d l).drop 32)
    match c.sendRecord d l 0 3 (recordBytes rs) with
    | (true, c) => c.bumpN pgTtb 0x1414 rs.length
    | (false, c) => c.ledgerLost d l rs.length

/-! Lateness telemetry (R190, R191) -/

/-- What one covered coach gives to a lateness record: its expected contributors, those classed late, and the first
frame stamps of its own step's contributions in the order of their admission. -/
structure Lateness where
  expected : BitVec 1024
  late : BitVec 1024
  arrivals : List (Nat × Nat)
  deriving DecidableEq, Repr

/-- The least of a list of stamps and the greatest. -/
def minOf : List Nat → Nat
  | [] => 0
  | a :: t => t.foldl min a
def maxOf (xs : List Nat) : Nat := xs.foldl max 0

/-- The item of one contributor (R191). MAX_LAG in ns is rounded down, and ABSENT looks at the covered coaches that expect
the contributor. DESIGN CHOICE, log 151. -/
def latenessItem (xs : List Lateness) (p : Nat) : Nat :=
  let mine := xs.filter (fun x => x.expected.getLsbD p)
  let absent := mine.any (fun x => !x.arrivals.any (fun a => decide (a.1 = p)))
  let late := xs.any (fun x => x.late.getLsbD p)
  let nLast := (xs.filter (fun x => match x.arrivals.getLast? with | some a => decide (a.1 = p) | none => false)).length
  let lags := xs.flatMap (fun x => (x.arrivals.filter (fun a => decide (a.1 = p))).map
    (fun a => (a.2 - minOf (x.arrivals.map (·.2))) / 256))
  let lag := if lags.isEmpty then 0xFFFFFFFF else min 0xFFFFFFFF (maxOf lags)
  p * 2 ^ 54 + absent.toNat * 2 ^ 53 + late.toNat * 2 ^ 52 + min 0xFFFFF nLast * 2 ^ 32 + lag

/-- A lateness record (R191); with no admitted contribution at all, FIRST and LAST are `first` and `last`. -/
def latenessBody (l e : Nat) (s : W32) (d : Nat) (xs : List Lateness) (first last : Nat) : List Byte :=
  let ports := setBits (xs.foldl (fun m x => m ||| x.expected) 0)
  let stamps := xs.flatMap (fun x => x.arrivals.map (·.2))
  let f := if stamps.isEmpty then first else minOf stamps
  let t := if stamps.isEmpty then last else maxOf stamps
  bytesBE 32 (2 * 2 ^ 248 + l * 2 ^ 240 + e * 2 ^ 224 + s.toNat * 2 ^ 192 + d % 16 * 2 ^ 188 +
      ports.length % 4096 * 2 ^ 176 + xs.length % 2 ^ 24 * 2 ^ 152 + f % 2 ^ 64 * 2 ^ 64 + t % 2 ^ 64) ++
    ports.flatMap (fun p => bytesBE 8 (latenessItem xs p))

/-- A coach die sends the lateness record of an entry and step (R190). -/
def Chip.latenessSend (c : Chip) (d l e : Nat) (s : W32) (ent : Entry) (xs : List Lateness) : Chip :=
  let a := c.takeFresh
  let b := a.2.takeFresh
  let none_ := xs.all (fun x => x.arrivals.isEmpty)
  let c := if none_ then b.2 else c
  let word (n : Nat) : Nat := (Config.freeWord n).toNat
  match c.sendRecord d l (eTelemCol ent) 2 (latenessBody l e s d xs (word a.1) (word b.1)) with
  | (true, c) => c.bump pgTtb 0x141C
  | (false, c) => c.bump pgTtb 0x1420

/-! Postilion digests (R418 to R421) -/

/-- FLT_PAIR_CTRL.MODE: 0 off, 1 postilion, 2 trailer; the reserved code acts as off. -/
def pairMode (c : Chip) : Nat := c.field pgFlt 0x1100 0 2 % 3
/-- The pair port, none when FLT_PAIR_PORT is not valid. -/
def Chip.pairPort (c : Chip) : Option Nat :=
  if c.flag pgFlt 0x1104 31 then some (c.field pgFlt 0x1104 0 10) else none
/-- Whether the coaches of a livery form digests (R418); without a pair port no die holds them. -/
def Chip.paired (c : Chip) (l : Nat) : Bool :=
  decide (pairMode c ≠ 0) && c.pairPort.isSome && c.flag pgFlt (0x1140 + 4 * (l / 32)) (l % 32)
def Chip.refLiv (c : Chip) : Nat := c.field pgFlt 0x1100 4 8

/-- A digest record (R419). -/
def digestRecord (l e : Nat) (s : W32) (k : Nat) (aborted : Bool) (rstat : Nat) (digest : W64) : BitVec 256 :=
  BitVec.ofNat 256 (3 * 2 ^ 248 + l * 2 ^ 240 + e * 2 ^ 224 + s.toNat * 2 ^ 192 + k * 2 ^ 168 +
    aborted.toNat * 2 ^ 167 + rstat % 64 * 2 ^ 161 + digest.toNat)

def dgLiv (w : BitVec 256) : Nat := fld w 240 8
def dgEntry (w : BitVec 256) : Nat := fld w 224 16
def dgStep (w : BitVec 256) : W32 := BitVec.ofNat 32 (fld w 192 32)
def dgChunk (w : BitVec 256) : Nat := fld w 168 24
/-- The key and STEP of a record. -/
def dgKey (w : BitVec 256) : Nat := fld w 168 80
/-- OUTCOME, RSTAT and DIGEST of a record. -/
def dgResult (w : BitVec 256) : Nat × Nat := (fld w 161 7, fld w 0 64)

def Chip.trailOf (c : Chip) (s : W32) : TrailStep := Tbl.get TrailStep.none c.flt.trail s.toNat
def Chip.setTrail (c : Chip) (s : W32) (x : TrailStep) : Chip :=
  { c with flt := { c.flt with trail := Tbl.set TrailStep.none c.flt.trail s.toNat x } }

/-- A record of the reference livery that was missing, mismatched or lost makes its step unclean (R421). -/
def Chip.soilStep (c : Chip) (w : BitVec 256) : Chip :=
  if pairMode c = 2 ∧ dgLiv w = c.refLiv then c.setTrail (dgStep w) { c.trailOf (dgStep w) with dirty := true } else c

def pgFltEv (code : Nat) (w : BitVec 256) (die : Nat) : Ev := evC pgFlt code die (dgLiv w) (dgEntry w) (dgStep w) (dgChunk w)

/-- The pair port's die, that of M0 when there is no pair port. -/
def Chip.pairDie (c : Chip) : Nat := match c.pairPort with | some p => dieP (portDie p) | none => dieM

/-- The two records of one key and STEP are compared (R420). -/
def Chip.digCompare (c : Chip) (a b : BitVec 256) : Chip :=
  if dgResult a = dgResult b then
    let c := c.bump pgFlt 0x1214
    if pairMode c = 2 ∧ dgLiv a = c.refLiv then
      c.setTrail (dgStep a) { c.trailOf (dgStep a) with matched := (c.trailOf (dgStep a)).matched + 1 }
    else c
  else
    let c := (((c.bump pgFlt 0x1218).setFlag pgFlt 0x110C 0 true).raise (pgFltEv 0x0A01 a c.pairDie)).soilStep a
    if c.flag pgFlt 0x1110 0 then c
    else
      let c := c.setReg pgFlt 0x1110 (BitVec.ofNat 32 
        (1 + (if fld a 167 1 = fld b 167 1 then 0 else 2) + dgLiv a * 2 ^ 2 + dgEntry a * 2 ^ 10))
      (c.setReg pgFlt 0x1114 (dgStep a)).setReg pgFlt 0x1118 (BitVec.ofNat 32 (dgChunk a))

/-- A record reaches the pair port's die (R420): it meets its match, waits for it, or is lost. -/
def Chip.digAdd (c : Chip) (w : BitVec 256) (own : Bool) : Chip :=
  let same (r : DigRec) : Bool := decide (r.own ≠ own) && decide (dgKey r.word = dgKey w)
  match c.flt.digs.find? same with
  | some r => Chip.digCompare { c with flt := { c.flt with digs := dropFirst same c.flt.digs } }
      (if own then w else r.word) (if own then r.word else w)
  | none =>
    if 16384 ≤ c.flt.digs.length then (c.bump pgFlt 0x1220).soilStep w
    else { c with flt := { c.flt with digs := c.flt.digs ++ [⟨w, own, c.time.now⟩] } }

/-- A coach that completes or aborts forms its record (R418, R419): it waits for the partner's at the pair port's die,
and joins its livery's batch to the partner. -/
def Chip.digestMake (c : Chip) (l e : Nat) (s : W32) (k : Nat) (aborted : Bool) (rstat : Nat) (digest : W64) : Chip :=
  if c.paired l then
    let w := digestRecord l e s k aborted rstat digest
    let batch : List BatchRec := Tbl.get [] c.flt.digBatch l ++ [⟨w, c.time.now⟩]
    let c := { c with flt := { c.flt with digBatch := Tbl.set [] c.flt.digBatch l batch } }
    c.digAdd w true
  else c

/-- A frame of up to 32 waiting digest records of a livery leaves on the pair port (R419). -/
def Chip.digestSend (c : Chip) (l : Nat) : Chip :=
  let b := Tbl.get [] c.flt.digBatch l
  let rs := (b.take 32).map (·.word)
  match c.pairPort with
  | some q =>
    if !batchDue c.time.now b then c
    else
      let c := { c with flt := { c.flt with digBatch := Tbl.set [] c.flt.digBatch l (b.drop 32) } }
      if !c.livPort l q then c.violation l 9 (some q)
      else if !c.portUp q then c.downDrop
      else
        let body := recordBytes rs
        c.deliver q (Msg.made (mkHdr clsControl 7 l false 0 c.selfEid (body.length + 36) 0 0) body c.time.now none)
  | none => c

/-- Records of a run of bytes. -/
def recordsOf : Nat → List Byte → List (BitVec 256)
  | 0, _ => []
  | n + 1, bs => if bs.length < 32 then [] else bvBE 256 (bs.take 32) :: recordsOf n (bs.drop 32)

/-- Digest records of the partner (R419, R420): consumed at the pair port, discarded elsewhere. -/
def Chip.digestRx (c : Chip) (p : Nat) (f : Frame) (age : Nat) : Chip :=
  c.receive p f (fun h => decide (hClass h = clsControl ∧ hSub h = 7)) (fun t c =>
    c.step5 p f.hdr f.body false (fun c =>
      if t = .good ∧ c.pairPort = some p ∧ pairMode c ≠ 0 then
        forAll (recordsOf 32 f.body) (c.mirrorIn false none (Msg.arrived p f.hdr f.body (c.stampOf age))) (fun w c => c.digAdd w false)
      else c))

/-- Records left unmatched for WINDOW µs (R420). -/
def Chip.digestTimeouts (c : Chip) : Chip :=
  let w := usUnits (max 1 (c.field pgFlt 0x1100 16 16))
  let old (r : DigRec) : Bool := decide (r.since + w ≤ c.time.now)
  let rs := c.flt.digs.filter old
  forAll rs { c with flt := { c.flt with digs := c.flt.digs.filter (fun r => !old r) } } (fun r c =>
    ((c.bump pgFlt 0x121C).raise (pgFltEv 0x0A02 r.word c.pairDie)).soilStep r.word)

/-- The meaning of LEDGER_BATCH_SEND (R188). -/
def execLedgerBatchSend (d : CDie) (livery : Liv) (s : State) : Host.Outcome State Fault Refusal := s.run fun c =>
  if c.mainUp && !c.dieFailed (dieC d.val) then c.ledgerSend d.val livery.toNat else c
/-- The meaning of DIGEST_BATCH_SEND (R419). -/
def execDigestBatchSend (livery : Liv) (s : State) : Host.Outcome State Fault Refusal := s.run fun c =>
  if c.mainUp then c.digestSend livery.toNat else c
/-- The meaning of DIGEST_RECORDS_RX (R420). -/
def execDigestRecordsRx (p : LPort) (f : Frame) (age : Nat) (s : State) : Host.Outcome State Fault Refusal :=
  s.run fun c => c.digestRx p.val f age
/-- The meaning of DIGEST_UNMATCHED_TIMEOUT (R420). -/
def execDigestUnmatchedTimeout (s : State) : Host.Outcome State Fault Refusal := s.run fun c =>
  if c.mainUp then c.digestTimeouts else c

end Sys2Proof.Machine
end

