-- ==== Sys2Proof/Machine/Aborts.lean ====
section
/-! DEFINITION. Aborts of coaches and collectives (R129 to R133, R408 to R413): abort marks, the abort of one coach, the
wave owner, abort notices and abort waves, and the purge of frames from the egress queues. -/

namespace Sys2Proof.Machine

/-! Event codes of abort causes (R129, R427) -/

def evDeadline : Nat := 0x0201
def evStarved : Nat := 0x0202
def evExhausted : Nat := 0x0203
def evPayload : Nat := 0x0204
def evPsw : Nat := 0x0205
def evVersion : Nat := 0x0206
def evMismatch : Nat := 0x0207
def evWindow : Nat := 0x0208
def evOrderSig : Nat := 0x0209
def evOrderFmt : Nat := 0x020A
def evNoRoute : Nat := 0x020B
def evClusterFail : Nat := 0x0106
def evDieFailed : Nat := 0x0103
def evEccUncorr : Nat := 0x0402
def evFenced : Nat := 0x0403
def evTeardown : Nat := 0x0605

/-- No chunk: the chunk field of a wave whose cause names none (R411). -/
def noChunk : Nat := 0xFFFFFF

/-- The coach of a slot is occupied (R115). -/
def Coach.live (x : Coach) : Bool := decide (x.phase ≠ .free)
/-- A coach that folds (R114). -/
def Coach.folds (x : Coach) : Bool := decide (x.phase = .folding ∨ x.phase = .sealed)

/-- A coach die that is in service. -/
def Chip.cdieUp (c : Chip) (d : Nat) : Bool := !c.dieFailed (dieC d)

/-! Purging frames -/

/-- The frame in transmission on a port ends at the point it has reached, with a tailboard (R276): its copy for replay is
the same (R271), and the cells it has not read count as read out. -/
def Chip.endTx (c : Chip) (p : Nat) (m : Msg) (code : Nat) : Chip :=
  let a := c.takeFresh
  let n := (Config.freeWord a.1).toNat % (m.len + 1)
  let c := a.2
  let l := c.link p
  let body := if c.narjo p then (m.cutAt n code).body else withTrailer (m.body.take n) code
  let keep (k : Kept) : Kept :=
    if hdrSequenced m.hdr ∧ k.seq = hLseq m.hdr then { k with msg := { k.msg with body := body, tail := code } } else k
  let c := c.setLink p { l with replay := l.replay.map keep }
  let c := c.setEgress p { c.egress p with tx := some { m with body := body, tail := code, cells := [] } }
  (c.bumpLnk p 0x1114).dropCells m.cells

/-- Remove the queued frames of a port that meet a test, with their cells; a frame in transmission that meets it ends with
a tailboard code (R276). -/
def Chip.purgePort (c : Chip) (p : Nat) (test : Msg → Bool) (code : Nat) : Chip :=
  let e := c.egress p
  let gone := e.queued.filter test
  let hit := e.tx.filter (fun m => test m && decide (m.tail = 0))
  if gone.isEmpty && hit.isNone then c
  else
    let d0 := (List.range 16).map (c.depth p)
    let c := (c.setEgress p ((e.keep (fun m => !test m)).settle c.time.now)).voqDrop gone
    let c := match hit with | some m => c.endTx p m code | none => c
    let c := forAll (List.range 16) c (fun tc c =>
      if c.depth p tc ≠ d0.getD tc 0 then c.watermark p tc (d0.getD tc 0) (c.depth p tc) else c)
    forAll gone c (fun m c => c.dropCells m.cells)

/-- The frames queued on any port that meet a test. -/
def Chip.queuedFrames (c : Chip) (test : Msg → Bool) : List Msg :=
  c.traf.eg.flatMap (fun kv => kv.2.queued.filter test)

/-- Remove frames that meet a test from every egress port. -/
def Chip.purge (c : Chip) (test : Msg → Bool) (code : Nat) : Chip :=
  forAll (c.traf.eg.map (·.1)) c (fun p c => c.purgePort p test code)

/-- Remove frames that meet a test from those a route drain holds (R296). -/
def Chip.purgeDrain (c : Chip) (test : Msg → Bool) : Chip :=
  match c.rte.drain with
  | some d =>
    forAll (d.held.filter test) (c.setDrain (some { d with held := d.held.filter (fun m => !test m) }))
      (fun m c => c.dropCells m.cells)
  | none => c

/-! Abort marks (R131) -/

def Chip.hasMark (c : Chip) (d l e : Nat) (s : W32) : Bool :=
  (c.cch d).marks.any (fun m => decide (m.livery = l ∧ m.entry = e ∧ m.step = s))

/-- The mark with the earliest expiry. -/
def earliestMark : List Mark → Option Mark
  | [] => none
  | m :: ms => match earliestMark ms with
    | none => some m
    | some k => if k.td < m.td then some k else some m

/-- Set a mark on a coach die: one that exists stays; with all 64 in use the earliest is replaced. The event of the
eviction names the collective of the mark it replaces, and CHUNK 0, since a mark has no chunk. DESIGN CHOICE, log 144. -/
def Chip.setMark (c : Chip) (d l e : Nat) (s : W32) (td : Int) : Chip :=
  if c.hasMark d l e s ∨ !c.cdieUp d then c
  else
    let x := c.cch d
    let add (ms : List Mark) : List Mark := ms ++ [⟨l, e, s, td⟩]
    if x.marks.length < 64 then c.setCch d { x with marks := add x.marks }
    else match earliestMark x.marks with
      | none => c
      | some k =>
        let c := c.setCch d { x with marks := add (dropFirst (fun m => decide (m = k)) x.marks) }
        (c.bump (pgCch d) 0x1134).raise (evC (pgCch d) 0x020F (dieC d) k.livery k.entry k.step 0)

/-! Releasing a coach -/

/-- The staging cells of the frames a contribution holds. -/
def Contrib.stg (x : Contrib) : List Nat := x.held.flatMap (·.stg)

/-- Release a coach's accumulators and sidings (R127, R130, R203). -/
def Chip.releaseCoach (c : Chip) (d i : Nat) : Chip :=
  let x := c.slot d i
  let c := c.setSlot d i { x with granules := [], accs := [] }
  (c.releaseUnits (dieC d) plSide (x.accs.filterMap (fun kv => kv.2.siding))).releaseUnits (dieC d) plAcc x.granules

/-- The first frame stamps of a coach's own step, in order of admission. -/
def Coach.arrivals (x : Coach) : List (Nat × Nat) :=
  (x.contribs.filter (fun k => !k.carried)).map (fun k => (k.lport, k.stamp))

/-- A slot becomes FREE (R115, R136): its coach's key, STEP and last abort cause stay readable, and what the lateness
record of its step still needs is kept until Td (R190). -/
def Chip.freeSlot (c : Chip) (d i : Nat) : Chip :=
  let x := c.slot d i
  let c := c.releaseCoach d i
  let y := c.cch d
  let notes := if x.evaluated ∨ !eTelemEn x.ent then y.notes
    else y.notes ++ [⟨x.livery, x.entry, x.step, x.td, x.chunk, x.ent, x.expected, x.lateSet, x.arrivals⟩]
  (c.setCch d { y with notes := notes }).setSlot d i
    { Coach.empty with livery := x.livery, entry := x.entry, step := x.step, chunk := x.chunk, lastCause := x.lastCause }

/-! The abort of one coach (R130) -/

/-- A frame that a coach's packer made. -/
def Msg.ofCoach (m : Msg) (d i : Nat) : Bool := decide (m.coach = some (d, i))

/-- Steps 1 to 3 and 5 of R130: folds stop, held frames are discarded, the packer stops, and the coach is ABORTING. -/
def Chip.abortSlot (c : Chip) (d i cause : Nat) : Chip :=
  let x := c.slot d i
  let y := { x with
    phase := .aborting, cause := cause, lastCause := cause, holdq := [], outs := []
    contribs := x.contribs.map (fun k => { k with held := [] }) }
  let c := (c.setSlot d i y).bump (pgCch d) 0x1108
  let c := c.releaseUnits (dieC d) plStg (x.contribs.flatMap Contrib.stg)
  let c := if x.phase = .packing then (c.purge (fun m => m.ofCoach d i) 7).purgeDrain (fun m => m.ofCoach d i) else c
  c.digestMake x.livery x.entry x.step x.chunk true 0 0

/-! The wave owner (R409) -/

/-- The wave owner of an entry's collectives. -/
def Chip.waveOwner (c : Chip) (e : Entry) : Option Nat := (stripeDies e).find? c.cdieUp

/-- What a wave and its notices carry (R411, R412). -/
structure WaveInfo where
  livery : Nat
  entry : Nat
  step : W32
  chunk : Nat
  cause : Nat
  row : Nat
  col : Nat
  eid : Nat
  time : Nat
  deriving DecidableEq, Repr

def WaveInfo.head (w : WaveInfo) (rtype : Nat) : Nat :=
  rtype * 2 ^ 248 + w.livery * 2 ^ 240 + w.entry * 2 ^ 224 + w.step.toNat * 2 ^ 192 + w.chunk % 2 ^ 24 * 2 ^ 168 +
    w.cause % 2 ^ 16 * 2 ^ 152

/-- An abort wave body (R411). -/
def WaveInfo.wave (w : WaveInfo) (leg : Nat) (rep : Bool) : BitVec 256 :=
  BitVec.ofNat 256 (w.head 4 + leg % 4 * 2 ^ 150 + rep.toNat * 2 ^ 149 + w.row % 32 * 2 ^ 144 + w.col % 32 * 2 ^ 139 +
    w.eid % 2 ^ 18 * 2 ^ 121 + w.time % 2 ^ 64 * 2 ^ 57)

/-- An abort notice body (R412). -/
def WaveInfo.notice (w : WaveInfo) : BitVec 256 :=
  BitVec.ofNat 256 (w.head 5 + w.eid % 2 ^ 18 * 2 ^ 134 + w.time % 2 ^ 64 * 2 ^ 70)

/-- Fields of a received wave body. -/
def waveOf (b : BitVec 256) : WaveInfo :=
  ⟨fld b 240 8, fld b 224 16, BitVec.ofNat 32 (fld b 192 32), fld b 168 24, fld b 152 16, fld b 144 5, fld b 139 5,
    fld b 121 18, fld b 57 64⟩
def waveLeg (b : BitVec 256) : Nat := fld b 150 2

/-- The info of an abort whose origin is this device. -/
def Chip.originInfo (c : Chip) (l e : Nat) (s : W32) (k cause : Nat) : WaveInfo :=
  ⟨l, e, s, k, cause, c.gridRow, c.gridCol, c.selfEid, c.time.now⟩

/-- A Control frame of LEN 68 from a coach die out of one port, checked against the port's livery (R337 cause 0x9):
whether it left. -/
def Chip.sendControl (c : Chip) (d l q sub dst : Nat) (b : BitVec 256) : Bool × Chip :=
  if !c.livPort l q then (false, c.violation l 9 (some q))
  else (true, c.deliver q (Msg.made (mkHdr clsControl sub l false dst c.selfEid 68 0 7) (bytesBE 32 b.toNat) c.time.now
    (some (coachPos d 0))))

/-! Notices (R412) -/

/-- The multicast groups of an entry's outputs (R140, R146, R163): with a grid, those of every set row. -/
def outGroups (e : Entry) : List Nat :=
  if eOp e = 1 ∨ eOp e = 2 then []
  else
    let gs := eOutGroup e :: (if eOp e = 5 then ([1, 2, 3].filter (eOutEn e)).map (eOutGroupJ e) else [])
    if eGrid e then gs.flatMap (fun g => (List.range (ones (eRowMask e))).map (fun i => (g + i) % 2 ^ 14)) else gs

/-- The logical ports whose endpoints receive a notice. -/
def Chip.noticePorts (c : Chip) (e : Entry) (bank : Bool) : List Nat :=
  let gs := outGroups e
  let root := c.routeEnt (c.dgBank (dgOf (eDestEid e))) (eDestEid e)
  (List.range 1024).filter (fun p =>
    ((c.ttCset bank (eCset e)).getLsbD p || gs.any (fun g => gpLocal (c.group g) p) ||
      (decide (eOp e = 2) && rtValid root && decide (rtPrimary root = p))) &&
    c.portUp p && c.narjo p && !c.trust p)

def Chip.sendNotices (c : Chip) (d : Nat) (e : Entry) (bank : Bool) (w : WaveInfo) : Chip :=
  forAll (c.noticePorts e bank) c (fun p c =>
    match c.sendControl d w.livery p 1 (c.portEid p) w.notice with
    | (true, c) => c.bump pgFlt 0x1210
    | (false, c) => c)

/-! Waves (R410) -/

/-- The ports that two copies to a peer take: PORT0 and PORT1, both on one when the other is not usable. -/
def Chip.wavePorts (c : Chip) (g : W32) : List Nat :=
  let ok (q : Nat) : Bool := gValid g && c.portUp q
  match ok (gPort0 g), ok (gPort1 g) && decide (gPort1 g ≠ gPort0 g) with
  | true, true => [gPort0 g, gPort1 g]
  | true, false => [gPort0 g, gPort0 g]
  | false, true => [gPort1 g, gPort1 g]
  | false, false => []

/-- The grid port map entry of a peer number: a column for a row peer, 32 + row for a column peer. -/
def Chip.peerEnt (c : Chip) (k : Nat) : W32 := c.reg pgRte 0x1304 k

/-- Send wave copies to peers (R410). -/
def Chip.sendWaves (c : Chip) (d l : Nat) (copies : List (Nat × BitVec 256)) : Chip :=
  forAll copies c (fun x c => forAll (c.wavePorts (c.peerEnt x.1)) c (fun q c =>
    match c.sendControl d l q 0 0 x.2 with
    | (true, c) => c.bump pgFlt 0x1200
    | (false, c) => c))

/-- The row peers at the set columns, and the column peers at the set rows, as peer numbers. -/
def Chip.rowPeers (c : Chip) (e : Entry) : List Nat := (setBits (eColMask e)).filter (· ≠ c.gridCol)
def Chip.colPeers (c : Chip) (e : Entry) : List Nat := ((setBits (eRowMask e)).filter (· ≠ c.gridRow)).map (32 + ·)

/-- The copies of a wave: `leg` none at the origin, else the LEG of the wave that set the mark (R410). -/
def Chip.waveCopies (c : Chip) (e : Entry) (w : WaveInfo) (leg : Option Nat) : List (Nat × BitVec 256) :=
  if !eGrid e then []
  else match leg with
    | none => (c.rowPeers e).map (fun k => (k, w.wave 0 false)) ++ (c.colPeers e).map (fun k => (k, w.wave 1 false))
    | some 0 => (c.colPeers e).map (fun k => (k, w.wave 2 false))
    | some _ => []

/-- Send the first copies of a wave, and keep them for their repeat 5 µs later (R410). -/
def Chip.startWaves (c : Chip) (d : Nat) (e : Entry) (w : WaveInfo) (leg : Option Nat) : Chip :=
  let cs := (c.waveCopies e w leg).filter (fun x => !(c.wavePorts (c.peerEnt x.1)).isEmpty)
  if cs.isEmpty then c
  else
    let c := c.sendWaves d w.livery cs
    let reps := cs.map (fun x => (x.1, putBit x.2 149 true))
    { c with flt := { c.flt with waves := c.flt.waves ++ [⟨d, w.livery, w.entry, w.step, c.time.now + usUnits 5, reps⟩] } }

/-- The copies of a wave are sent once more (R410). -/
def Chip.repeatWaves (c : Chip) (l e : Nat) (s : W32) : Chip :=
  let mine (x : WaveRep) : Bool := decide (x.livery = l ∧ x.entry = e ∧ x.step = s) && decide (x.due ≤ c.time.now)
  match c.flt.waves.find? mine with
  | some x => Chip.sendWaves { c with flt := { c.flt with waves := dropFirst mine c.flt.waves } } x.die l x.copies
  | none => c

/-! What the owner does (R409) -/

/-- A coach still packs at its Td (R185): counted and reported. -/
def Chip.packOverrun (c : Chip) (d i : Nat) : Chip :=
  let x := c.slot d i
  (c.bump pgTtb 0x1410).raise (evC (pgCch d) 0x0210 (dieC d) x.livery x.entry x.step x.chunk)

/-- A coach that packs leaves PACKING at or after a Td that the monitor has not met yet: the overrun is counted first. -/
def Chip.overrunDue (c : Chip) (d i : Nat) : Chip :=
  let x := c.slot d i
  if x.phase = .packing ∧ x.td ≤ (c.time.now : Int) ∧ !x.evaluated then c.packOverrun d i else c

/-- One coach of an aborted collective (R130, R132). A coach whose Td has come and that its own die's monitor has not
met is left to that monitor (R184). -/
def Chip.abortMember (c : Chip) (d i cause : Nat) (wave : Bool) : Chip :=
  let x := c.slot d i
  match x.phase with
  | .folding | .sealed => if x.td ≤ (c.time.now : Int) ∧ !x.evaluated then c else c.abortSlot d i cause
  | .packing => (c.overrunDue d i).abortSlot d i cause
  | .closed => if wave then (c.setSlot d i { x with cause := cause, lastCause := cause }).freeSlot d i else c
  | _ => c

/-- The slots of a die whose coach meets a test. -/
def Chip.slotsWhere (c : Chip) (d : Nat) (f : Coach → Bool) : List Nat :=
  Tbl.keysWhere (c.cch d).slots (fun _ x => x.live && f x)

/-- Every coach and every waiting first frame of a collective on the device. -/
def Chip.abortMembers (c : Chip) (l e : Nat) (s : W32) (cause : Nat) (wave : Bool) : Chip :=
  forAll (List.range 16) c (fun d c =>
    let c := forAll (c.slotsWhere d (fun x => decide (x.livery = l ∧ x.entry = e ∧ x.step = s))) c
      (fun i c => c.abortMember d i cause wave)
    let mine (x : Waiting) : Bool := decide (wLiv x.wb = l ∧ wEntry x.wb = e ∧ x.target = s) && decide ((c.time.now : Int) < x.td)
    let gone := (c.cch d).waiting.filter mine
    if gone.isEmpty then c
    else (c.setCch d { c.cch d with waiting := (c.cch d).waiting.filter (fun x => !mine x) }).releaseUnits (dieC d) plStg
      (gone.flatMap (fun x => x.frames.flatMap (·.stg))))

/-- The steps of owner `d` after it has set a new mark (R409); in trailer mode no wave and no notice leaves (R421). -/
def Chip.ownerActs (c : Chip) (d : Nat) (e : Entry) (bank : Bool) (td : Int) (w : WaveInfo) (leg : Option Nat) : Chip :=
  let c := forAll (stripeDies e) c (fun d c => c.setMark d w.livery w.entry w.step td)
  let c := c.abortMembers w.livery w.entry w.step w.cause leg.isSome
  if pairMode c = 2 then c else (c.sendNotices d e bank w).startWaves d e w leg

/-- An abort of a collective whose origin is this device (R130 step 4, R409): `d` is the coach die that decided it, if
it is in service. -/
def Chip.originAbort (c : Chip) (d : Option Nat) (e : Entry) (bank : Bool) (td : Int) (l idx : Nat) (s : W32)
    (k cause : Nat) : Chip :=
  match c.waveOwner e with
  | none => match d with | some d => c.setMark d l idx s td | none => c
  | some o =>
    let isNew := !c.hasMark o l idx s
    let c := match d with | some d => c.setMark d l idx s td | none => c
    if isNew then c.ownerActs o e bank td (c.originInfo l idx s k cause) none else c

/-- A coach aborts on a cause of its own (R129, R130): `port` is the contributor concerned, 0x3FF for none; the event of
the cause is raised on `page`, unless `page` is none because it is raised elsewhere. -/
def Chip.abortCoach (c : Chip) (d i cause : Nat) (page : Option Nat) (port : Nat := 0x3FF) : Chip :=
  let x := c.slot d i
  if x.phase = .folding ∨ x.phase = .sealed ∨ x.phase = .packing then
    let c := match page with
      | some pg => c.raise (evC pg cause (dieC d) x.livery x.entry x.step x.chunk port)
      | none => c
    (c.abortSlot d i cause).originAbort (some d) x.ent x.bank x.td x.livery x.entry x.step x.chunk cause
  else c

/-- A received abort wave that passed its checks (R409, R410): it crosses to its owner at top priority (R22). -/
def Chip.waveTake (c : Chip) (m : Msg) : Chip :=
  let w := waveOf (bvBE 256 (m.body.take 32))
  match (if w.livery = hLiv m.hdr then c.serving w.livery w.entry w.step else none) with
  | none => c.bump pgFlt 0x120C
  | some sv =>
    if eLiv sv.ent ≠ w.livery then c.bump pgFlt 0x120C
    else
      let c := c.bump pgFlt 0x1204
      match c.waveOwner sv.ent with
      | none => c
      | some o =>
        let c := (c.cross m (256 + o) m.inPort).2
        if c.hasMark o w.livery w.entry w.step then c.bump pgFlt 0x1208
        else c.ownerActs o sv.ent sv.bank sv.td w (some (waveLeg (bvBE 256 (m.body.take 32))))

/-- The meaning of ABORT_WAVE_RX (R409, R410). -/
def execAbortWaveRx (p : LPort) (f : Frame) (age : Nat) (s : State) : Host.Outcome State Fault Refusal :=
  s.run fun c => c.receive p.val f (fun h => decide (hClass h = clsControl ∧ hSub h = 0)) (fun t c =>
    c.step5 p.val f.hdr f.body false (fun c =>
      let m := Msg.arrived p.val f.hdr f.body (c.stampOf age)
      if t = .good then (c.mirrorIn false none m).waveTake m else c))
/-- The meaning of ABORT_WAVE_REPEAT (R410). -/
def execAbortWaveRepeat (livery : Liv) (entry : BitVec 16) (step : W32) (s : State) : Host.Outcome State Fault Refusal :=
  s.run fun c => if c.mainUp then c.repeatWaves livery.toNat entry.toNat step else c
/-- The meaning of ABORT_DRAIN_DONE (R130 step 5). -/
def execAbortDrainDone (d : CDie) (slot : Slot) (s : State) : Host.Outcome State Fault Refusal :=
  s.run fun c => if c.mainUp ∧ (c.slot d.val slot.val).phase = .aborting then c.freeSlot d.val slot.val else c
/-- The meaning of ABORT_MARK_EXPIRY (R131). -/
def execAbortMarkExpiry (d : CDie) (s : State) : Host.Outcome State Fault Refusal :=
  s.run fun c =>
    if c.mainUp then
      c.setCch d.val { c.cch d.val with marks := (c.cch d.val).marks.filter (fun m => decide ((c.time.now : Int) < m.td)) }
    else c

end Sys2Proof.Machine
end

