-- ==== Sys2Proof/Machine/Crypto.lean ====
section
/-! DEFINITION. The functions that R349, R359 and R360 name: SHA-384, and the check of an ECDSA signature on the curve P-384.
PRESUMED: their constants and steps are those of the standards that define them (FIPS 180-4, FIPS 186-5). -/

namespace Sys2Proof.Machine

/-! SHA-384 -/

/-- The round constants: the first 64 fraction bits of the cube roots of the first 80 primes. -/
def shaK1 : List (BitVec 64) :=
  [0x428A2F98D728AE22, 0x7137449123EF65CD, 0xB5C0FBCFEC4D3B2F, 0xE9B5DBA58189DBBC,
   0x3956C25BF348B538, 0x59F111F1B605D019, 0x923F82A4AF194F9B, 0xAB1C5ED5DA6D8118,
   0xD807AA98A3030242, 0x12835B0145706FBE, 0x243185BE4EE4B28C, 0x550C7DC3D5FFB4E2,
   0x72BE5D74F27B896F, 0x80DEB1FE3B1696B1, 0x9BDC06A725C71235, 0xC19BF174CF692694,
   0xE49B69C19EF14AD2, 0xEFBE4786384F25E3, 0x0FC19DC68B8CD5B5, 0x240CA1CC77AC9C65]
def shaK2 : List (BitVec 64) :=
  [0x2DE92C6F592B0275, 0x4A7484AA6EA6E483, 0x5CB0A9DCBD41FBD4, 0x76F988DA831153B5,
   0x983E5152EE66DFAB, 0xA831C66D2DB43210, 0xB00327C898FB213F, 0xBF597FC7BEEF0EE4,
   0xC6E00BF33DA88FC2, 0xD5A79147930AA725, 0x06CA6351E003826F, 0x142929670A0E6E70,
   0x27B70A8546D22FFC, 0x2E1B21385C26C926, 0x4D2C6DFC5AC42AED, 0x53380D139D95B3DF,
   0x650A73548BAF63DE, 0x766A0ABB3C77B2A8, 0x81C2C92E47EDAEE6, 0x92722C851482353B]
def shaK3 : List (BitVec 64) :=
  [0xA2BFE8A14CF10364, 0xA81A664BBC423001, 0xC24B8B70D0F89791, 0xC76C51A30654BE30,
   0xD192E819D6EF5218, 0xD69906245565A910, 0xF40E35855771202A, 0x106AA07032BBD1B8,
   0x19A4C116B8D2D0C8, 0x1E376C085141AB53, 0x2748774CDF8EEB99, 0x34B0BCB5E19B48A8,
   0x391C0CB3C5C95A63, 0x4ED8AA4AE3418ACB, 0x5B9CCA4F7763E373, 0x682E6FF3D6B2B8A3,
   0x748F82EE5DEFB2FC, 0x78A5636F43172F60, 0x84C87814A1F0AB72, 0x8CC702081A6439EC]
def shaK4 : List (BitVec 64) :=
  [0x90BEFFFA23631E28, 0xA4506CEBDE82BDE9, 0xBEF9A3F7B2C67915, 0xC67178F2E372532B,
   0xCA273ECEEA26619C, 0xD186B8C721C0C207, 0xEADA7DD6CDE0EB1E, 0xF57D4F7FEE6ED178,
   0x06F067AA72176FBA, 0x0A637DC5A2C898A6, 0x113F9804BEF90DAE, 0x1B710B35131C471B,
   0x28DB77F523047D84, 0x32CAAB7B40C72493, 0x3C9EBE0A15C9BEBC, 0x431D67C49C100D4C,
   0x4CC5D4BECB3E42B6, 0x597F299CFC657E2A, 0x5FCB6FAB3AD6FAEC, 0x6C44198C4A475817]
def shaK : List (BitVec 64) := shaK1 ++ shaK2 ++ shaK3 ++ shaK4

/-- The initial hash value: the first 64 fraction bits of the square roots of the ninth to the sixteenth prime. -/
def shaInit : List (BitVec 64) :=
  [0xCBBB9D5DC1059ED8, 0x629A292A367CD507, 0x9159015A3070DD17, 0x152FECD8F70E5939,
   0x67332667FFC00B31, 0x8EB44A8768581511, 0xDB0C2E0D64F98FA7, 0x47B5481DBEFA4FA4]

/-- A message with its padding: a 1 bit, zeros, and its length in bits, to whole blocks of 128 bytes. -/
def shaPad (bs : List Byte) : List Byte :=
  bs ++ [0x80] ++ List.replicate ((128 - (bs.length + 17) % 128) % 128) 0 ++ bytesBE 16 (8 * bs.length)

def shaSig0 (x : BitVec 64) : BitVec 64 := x.rotateRight 1 ^^^ x.rotateRight 8 ^^^ (x >>> 7)
def shaSig1 (x : BitVec 64) : BitVec 64 := x.rotateRight 19 ^^^ x.rotateRight 61 ^^^ (x >>> 6)
def shaSum0 (x : BitVec 64) : BitVec 64 := x.rotateRight 28 ^^^ x.rotateRight 34 ^^^ x.rotateRight 39
def shaSum1 (x : BitVec 64) : BitVec 64 := x.rotateRight 14 ^^^ x.rotateRight 18 ^^^ x.rotateRight 41

/-- One round: the eight working words, and the next sixteen words of the schedule. -/
def shaRound (st : List (BitVec 64) × List (BitVec 64)) (k : BitVec 64) : List (BitVec 64) × List (BitVec 64) :=
  match st.1 with
  | [a, b, c, d, e, f, g, h] =>
    let w (i : Nat) : BitVec 64 := st.2.getD i 0
    let t1 := h + shaSum1 e + ((e &&& f) ^^^ (~~~e &&& g)) + k + w 0
    let t2 := shaSum0 a + ((a &&& b) ^^^ (a &&& c) ^^^ (b &&& c))
    ([t1 + t2, a, b, c, d + t1, e, f, g], st.2.drop 1 ++ [shaSig1 (w 14) + w 9 + shaSig0 (w 1) + w 0])
  | _ => st

/-- The hash value after a block. -/
def shaBlock (hs : List (BitVec 64)) (block : List Byte) : List (BitVec 64) :=
  let ws := (List.range 16).map (fun i => BitVec.ofNat 64 (natOfBE (slice block (8 * i) 8)))
  List.zipWith (· + ·) hs (shaK.foldl shaRound (hs, ws)).1

/-- SHA-384: the first six words of the hash value. -/
def sha384 (bs : List Byte) : BitVec 384 :=
  let m := shaPad bs
  let hs := (List.range (m.length / 128)).foldl (fun hs i => shaBlock hs (slice m (128 * i) 128)) shaInit
  BitVec.ofNat 384 ((hs.take 6).foldl (fun n h => n * 2 ^ 64 + h.toNat) 0)

/-! ECDSA on P-384 -/

/-- The prime of the field, the order of the base point, the coefficient b, and the base point. -/
def ecP : Nat := 2 ^ 384 - 2 ^ 128 - 2 ^ 96 + 2 ^ 32 - 1
def ecN : Nat := 0xFFFFFFFFFFFFFFFFFFFFFFFFFFFFFFFFFFFFFFFFFFFFFFFFC7634D81F4372DDF581A0DB248B0A77AECEC196ACCC52973
def ecB : Nat := 0xB3312FA7E23EE7E4988E056BE3F82D19181D9C6EFE8141120314088F5013875AC656398D8A2ED19D2A85C8EDD3EC2AEF
def ecGx : Nat := 0xAA87CA22BE8B05378EB1C71EF320AD746E1D3B628BA79B9859F741E082542A385502F25DBF55296C3A545E3872760AB7
def ecGy : Nat := 0x3617DE4A96262C6F5D9E98BF9292DC29F8F41DBD289A147CE9DA3113B5F0B8C00A60B1CE1D7E819D7A431D7C90EA0E5F

/-- A point in Jacobian coordinates: x = X / Z², y = Y / Z³, and Z = 0 for the point at infinity. -/
structure EcPoint where
  x : Nat
  y : Nat
  z : Nat
  deriving DecidableEq, Repr

def EcPoint.inf : EcPoint := ⟨1, 1, 0⟩

def fMul (a b : Nat) : Nat := a * b % ecP
def fSub (a b : Nat) : Nat := (a + ecP - b) % ecP

/-- Twice a point. -/
def EcPoint.dbl (p : EcPoint) : EcPoint :=
  if p.z = 0 ∨ p.y = 0 then .inf
  else
    let d := fMul p.z p.z
    let g := fMul p.y p.y
    let b := fMul p.x g
    let a := 3 * fMul (fSub p.x d) (p.x + d) % ecP
    let x := fSub (fMul a a) (8 * b % ecP)
    let y := fSub (fMul a (fSub (4 * b % ecP) x)) (8 * fMul g g % ecP)
    ⟨x, y, 2 * fMul p.y p.z % ecP⟩

/-- The sum of two points. -/
def EcPoint.add (p q : EcPoint) : EcPoint :=
  if p.z = 0 then q
  else if q.z = 0 then p
  else
    let zp := fMul p.z p.z
    let zq := fMul q.z q.z
    let u := fMul p.x zq
    let s := fMul p.y (fMul zq q.z)
    let h := fSub (fMul q.x zp) u
    let r := fSub (fMul q.y (fMul zp p.z)) s
    if h = 0 then (if r = 0 then p.dbl else .inf)
    else
      let h2 := fMul h h
      let h3 := fMul h2 h
      let v := fMul u h2
      let x := fSub (fSub (fMul r r) h3) (2 * v % ecP)
      ⟨x, fSub (fMul r (fSub v x)) (fMul s h3), fMul h (fMul p.z q.z)⟩

/-- The bits of a number below 2^384, highest first. -/
def ecBits (k : Nat) : List Bool := (List.range 384).map (fun i => k.testBit (383 - i))

def EcPoint.mul (k : Nat) (p : EcPoint) : EcPoint :=
  (ecBits k).foldl (fun r b => if b then r.dbl.add p else r.dbl) .inf

/-- A power modulo the order. -/
def nPow (a k : Nat) : Nat := (ecBits k).foldl (fun r b => if b then r * r % ecN * a % ecN else r * r % ecN) 1

/-- Whether a signature (r, then s) over a hash is valid under a public key (X, then Y): ECDSA on P-384. -/
def signatureValid (key : List Byte) (hash : BitVec 384) (sig : List Byte) : Bool :=
  let qx := natOfBE (key.take 48)
  let qy := natOfBE (slice key 48 48)
  let r := natOfBE (sig.take 48)
  let s := natOfBE (slice sig 48 48)
  let onCurve := decide (qx < ecP ∧ qy < ecP) && decide (fMul qy qy = (fMul qx (fMul qx qx) + 3 * (ecP - qx) + ecB) % ecP)
  let w := nPow s (ecN - 2)
  let p := ((EcPoint.mul (hash.toNat * w % ecN) ⟨ecGx, ecGy, 1⟩).add (EcPoint.mul (r * w % ecN) ⟨qx, qy, 1⟩))
  let isX (x : Nat) : Bool := decide (x < ecP) && decide (p.x = fMul x (fMul p.z p.z))
  decide (key.length = 96) && decide (sig.length = 96) && onCurve && decide (1 ≤ r ∧ r < ecN) && decide (1 ≤ s ∧ s < ecN) &&
    decide (p.z ≠ 0) && (isX r || isX (r + ecN))

end Sys2Proof.Machine
end

