-- ==== Sys2Proof/Machine/March.lean ====
section
/-! DEFINITION. The macros' two ports (R196) and the march test (R215 to R218): what accesses of one cycle do to a memory,
the two algorithms with their data backgrounds, what they leave in a word, which read of a run shows its first fault, and
the spares that a set of faults needs (R220). -/

namespace Sys2Proof.Machine

/-! Simultaneous access to one macro (R196) -/

/-- What a port of a macro does in one cycle. -/
inductive PortAccess (α : Type) where
  | idle
  | read (word : Nat)
  | write (word : Nat) (x : α)
  deriving DecidableEq, Repr

/-- The word a port reads, as it was before the cycle. -/
def PortAccess.reads {α : Type} (d : α) (m : Tbl α) : PortAccess α → Option α
  | .read k => some (m.get d k)
  | _ => none

/-- The memory after a port's write. -/
def PortAccess.writes {α : Type} [DecidableEq α] (d : α) (m : Tbl α) : PortAccess α → Tbl α
  | .write k x => m.set d k x
  | _ => m

/-- The word a port writes. -/
def PortAccess.writesTo {α : Type} : PortAccess α → Option Nat
  | .write k _ => some k
  | _ => none

/-- What a cycle does (R196): the memory after it, what either port has read, and whether both wrote one word. -/
structure PortCycle (α : Type) where
  mem : Tbl α
  a : Option α
  b : Option α
  collided : Bool
  deriving DecidableEq, Repr

/-- Port A's write takes effect, then port B's; reads return the words as they were before. -/
def portCycle {α : Type} [DecidableEq α] (d : α) (m : Tbl α) (a b : PortAccess α) : PortCycle α :=
  ⟨b.writes d (a.writes d m), a.reads d m, b.reads d m, a.writesTo.isSome && decide (a.writesTo = b.writesTo)⟩

/-! The algorithms (R215, R216) -/

/-- An operation of a march element: a read that expects the background or its complement, or a write of it. -/
inductive MarchOp where
  | r0 | r1 | w0 | w1
  deriving DecidableEq, Repr

/-- A march element: its address order (⇕ runs upward here) and its operations on each word. -/
structure MarchElem where
  down : Bool
  ops : List MarchOp
  deriving DecidableEq, Repr

/-- March C−. -/
def marchC : List MarchElem :=
  [⟨false, [.w0]⟩, ⟨false, [.r0, .w1]⟩, ⟨false, [.r1, .w0]⟩, ⟨true, [.r0, .w1]⟩, ⟨true, [.r1, .w0]⟩, ⟨false, [.r0]⟩]

/-- March SS. -/
def marchSS : List MarchElem :=
  [⟨false, [.w0]⟩, ⟨false, [.r0, .r0, .w0, .r0, .w1]⟩, ⟨false, [.r1, .r1, .w1, .r1, .w0]⟩,
   ⟨true, [.r0, .r0, .w0, .r0, .w1]⟩, ⟨true, [.r1, .r1, .w1, .r1, .w0]⟩, ⟨false, [.r0]⟩]

/-- The data backgrounds of March C− (R216): all zeros, and for m = 0 to 6 the pattern whose bit i is ⌊i/2^m⌋ mod 2. -/
def marchBackground : Nat → BitVec 137
  | 0 => 0
  | m + 1 => BitVec.ofNat 137 ((List.range 137).foldl (fun x i => x + i / 2 ^ m % 2 * 2 ^ i) 0)

/-- A pass of a run: an algorithm on one background. -/
structure MarchPass where
  elems : List MarchElem
  bg : BitVec 137
  deriving DecidableEq, Repr

/-- The passes of an ALG code: 0 March C−, 1 March SS, 2 both. -/
def marchPasses (alg : Nat) : List MarchPass :=
  let c := (List.range 8).map (fun k => MarchPass.mk marchC (marchBackground k))
  let s := [MarchPass.mk marchSS 0]
  match alg with
  | 0 => c
  | 1 => s
  | _ => c ++ s

/-- What an operation leaves in a sound word. -/
def MarchOp.leaves (bg w : BitVec 137) : MarchOp → BitVec 137
  | .w0 => bg
  | .w1 => ~~~bg
  | _ => w

/-- What a read compares with. -/
def MarchOp.expects (bg : BitVec 137) : MarchOp → Option (BitVec 137)
  | .r0 => some bg
  | .r1 => some (~~~bg)
  | _ => none

/-- What a run leaves in a sound word. -/
def marchLeaves (alg : Nat) (w : BitVec 137) : BitVec 137 :=
  (marchPasses alg).foldl (fun w p => (p.elems.flatMap (·.ops)).foldl (fun w o => o.leaves p.bg w) w) w

/-- The operations a run performs on each word. -/
def marchOps (alg : Nat) : Nat :=
  (marchPasses alg).foldl (fun n p => n + (p.elems.flatMap (·.ops)).length) 0

/-- A preserving run on one word (R218): read to the save register, the algorithm, and the saved value written back. -/
def marchPreserve (alg : Nat) (w : BitVec 137) : BitVec 137 := (MarchOp.w0).leaves w (marchLeaves alg w)

/-- What a read of a run expects; none where the run makes no such read. -/
def marchExpects (alg : Nat) (r : MarchRead) : Option (BitVec 137) :=
  (marchPasses alg)[r.pass]?.bind (fun p => p.elems[r.elem]?.bind (fun e => e.ops[r.op]?.bind (·.expects p.bg)))

/-- Whether a read of a run shows a fault. A listed verifying read has not found the saved value. -/
def marchFails (alg : Nat) (preserving : Bool) (r : MarchRead) : Bool :=
  match marchExpects alg r with
  | some x => decide (r.got ≠ x)
  | none => preserving && decide (r.pass = (marchPasses alg).length)

/-- The place of a read in the order of its run: a destructive run takes every word in an element, a preserving one every
element on a word. -/
def marchRank (alg : Nat) (preserving : Bool) (r : MarchRead) : Nat :=
  let down := match (marchPasses alg)[r.pass]?.bind (fun p => p.elems[r.elem]?) with | some e => e.down | none => false
  let at_ := if down && !preserving then 65535 - r.word.toNat else r.word.toNat
  if preserving then ((at_ * 16 + r.pass) * 8 + r.elem) * 8 + r.op
  else ((r.pass * 8 + r.elem) * 65536 + at_) * 8 + r.op

/-- The first read of a run that shows a fault. -/
def marchFirst (alg : Nat) (preserving : Bool) (rs : List MarchRead) : Option MarchRead :=
  (rs.filter (marchFails alg preserving)).foldl (fun b r =>
    match b with
    | none => some r
    | some q => if marchRank alg preserving r < marchRank alg preserving q then some r else b) none

/-! Spares for the faults of a run (R220) -/

/-- The faulty bits that a destructive run shows in a subarray: the row of 64 words, and the column. -/
def faultyBits (alg sub : Nat) (rs : List MarchRead) : List (Nat × Nat) :=
  rs.flatMap (fun r =>
    match marchExpects alg r with
    | some x =>
      if r.word.toNat / 16384 = sub then
        (setBits (r.got ^^^ x)).map (fun i => (r.word.toNat % 16384 / 64, r.word.toNat % 64 * 137 + i))
      else []
    | none => [])

/-- The rows that hold faulty bits outside the replaced columns. -/
def rowsNeeded (bits : List (Nat × Nat)) (cols : List Nat) : Nat :=
  ((bits.filter (fun b => b.2 ∉ cols)).map (·.1)).eraseDups.length

/-- The spare rows and columns that cover a subarray's faults, with as few columns as will do; none when those left do
not cover them. -/
def spareCover (bits : List (Nat × Nat)) (rowsLeft colsLeft : Nat) : Option (Nat × Nat) :=
  let cs := (bits.map (·.2)).eraseDups
  let ways := [] :: (cs.map (fun x => [x]) ++ cs.flatMap (fun x => (cs.filter (x < ·)).map (fun y => [x, y])))
  match (ways.filter (fun w => decide (w.length ≤ colsLeft))).find? (fun w => decide (rowsNeeded bits w ≤ rowsLeft)) with
  | some w => some (rowsNeeded bits w, w.length)
  | none => none

end Sys2Proof.Machine
end

