-- ==== Sys2Proof/Machine/Formats.lean ====
section
/-! DEFINITION. Element formats (R34 to R64): decoding of every code into accumulator space, the layout of a payload,
and the partial-sum wire format. An element's exact value is an integer on the grid of 2^-168. -/

namespace Sys2Proof.Machine

/-- Kinds of special codes (R52). -/
inductive FpKind where
  | ieee | e4m3 | n4 | plain
  deriving DecidableEq, Repr

/-- A floating-point layout (R37): exponent bits, fraction bits, bias, special codes, the code of the largest finite
magnitude. -/
structure FpFmt where
  ebits : Nat
  mbits : Nat
  bias : Nat
  kind : FpKind
  maxCode : Nat
  deriving DecidableEq, Repr

def fpFp32 : FpFmt := ⟨8, 23, 127, .ieee, 0x7F7FFFFF⟩
def fpBf16 : FpFmt := ⟨8, 7, 127, .ieee, 0x7F7F⟩
def fpFp16 : FpFmt := ⟨5, 10, 15, .ieee, 0x7BFF⟩
def fpE4m3 : FpFmt := ⟨4, 3, 7, .e4m3, 0x7E⟩
def fpE5m2 : FpFmt := ⟨5, 2, 15, .ieee, 0x7B⟩
def fpE3m2 : FpFmt := ⟨3, 2, 3, .plain, 0x1F⟩
def fpE2m3 : FpFmt := ⟨2, 3, 1, .plain, 0x1F⟩
def fpN4 : FpFmt := ⟨2, 1, 1, .n4, 7⟩

/-- The format codes that are plain floating-point formats (R34). -/
def fpOfFmt (fmt : Nat) : Option FpFmt :=
  match fmt with
  | 0 => some fpFp32 | 2 => some fpBf16 | 3 => some fpFp16 | 4 => some fpE4m3 | 5 => some fpE5m2
  | 6 => some fpE3m2 | 7 => some fpE2m3 | 8 => some fpN4 | _ => none

/-- Base format, bytes of a block, for the block-scaled formats (R46). -/
def bxOfFmt (fmt : Nat) : Option (FpFmt × Nat) :=
  match fmt with
  | 9 => some (fpE4m3, 32) | 10 => some (fpE2m3, 24) | 11 => some (fpN4, 16) | _ => none

/-- Width of an integer format (R43). -/
def intOfFmt (fmt : Nat) : Option Nat := match fmt with | 12 => some 8 | 13 => some 16 | 14 => some 32 | _ => none

/-- Element width in bits of the formats that pack by stream bits (R35). -/
def fmtWidth (fmt : Nat) : Nat :=
  match fmt with
  | 0 => 32 | 1 => 64 | 2 => 16 | 3 => 16 | 4 => 8 | 5 => 8 | 6 => 6 | 7 => 6 | 8 => 4 | 12 => 8 | 13 => 16 | 14 => 32
  | 9 => 8 | 10 => 6 | 11 => 4 | _ => 128

/-- Bytes of the packing unit (R34). -/
def fmtUnit (fmt : Nat) : Nat :=
  match fmt with
  | 6 => 24 | 7 => 24 | 9 => 264 | 10 => 200 | 11 => 136 | 15 => 16 | _ => 8

def fmtPsw : Nat := 15

/-- A decoded element (R51): its exact value on the grid, and its class flags; a PSW record may carry several. -/
structure Dec where
  v : Int
  pinf : Bool
  ninf : Bool
  nan : Bool
  ovf : Bool
  deriving DecidableEq, Repr

def Dec.fin (v : Int) : Dec := ⟨v, false, false, false, false⟩
def Dec.nanE : Dec := ⟨0, false, false, true, false⟩
def Dec.inf (neg : Bool) : Dec := ⟨0, !neg, neg, false, false⟩

/-- The decoding function of R52. -/
def decodeFp (f : FpFmt) (code : Nat) (k : Int) : Dec :=
  let s := code / 2 ^ (f.ebits + f.mbits) % 2
  let e := code / 2 ^ f.mbits % 2 ^ f.ebits
  let m := code % 2 ^ f.mbits
  let emax := 2 ^ f.ebits - 1
  if f.kind = .ieee ∧ e = emax then (if m = 0 then Dec.inf (s = 1) else Dec.nanE)
  else if f.kind = .e4m3 ∧ e = emax ∧ m = 2 ^ f.mbits - 1 then Dec.nanE
  else if f.kind = .n4 ∧ s = 1 ∧ e = 0 ∧ m = 0 then Dec.nanE
  else
    let mant := if e = 0 then m else m + 2 ^ f.mbits
    let x : Int := (if e = 0 then 1 else (e : Int)) - (f.bias : Int) - (f.mbits : Int)
    let a : Int := (mant * 2 ^ (x + k + 168).toNat : Nat)
    Dec.fin (if s = 1 then -a else a)

/-- Decoding of an FP32P pair (R44, R45). -/
def decodePair (code : Nat) : Dec :=
  let hi := decodeFp fpFp32 (code % 2 ^ 32) 0
  let lo := decodeFp fpFp32 (code / 2 ^ 32 % 2 ^ 32) 0
  if hi.nan || lo.nan || (hi.pinf && lo.ninf) || (hi.ninf && lo.pinf) then Dec.nanE
  else if hi.pinf || lo.pinf then Dec.inf false
  else if hi.ninf || lo.ninf then Dec.inf true
  else Dec.fin (hi.v + lo.v)

/-- Decoding of an element code of a format that packs by stream bits (R52). -/
def decodeCode (fmt code : Nat) : Dec :=
  match fpOfFmt fmt with
  | some f => decodeFp f code 0
  | none =>
    match intOfFmt fmt with
    | some w => Dec.fin (signed w code * 2 ^ 168)
    | none => decodePair code

/-! Payload layout (R35, R46, R47, R61) -/

/-- Payload bytes of a contribution of n elements in a format but PSW (R61). -/
def payloadLen (fmt n : Nat) : Nat :=
  match bxOfFmt fmt with
  | some (_, blk) => 8 * ceilDiv n 256 + blk * ceilDiv n 32
  | none => 8 * ceilDiv (n * fmtWidth fmt) 64

/-- Payload bytes of a PSW contribution (R57). -/
def pswLen (n count : Nat) : Nat := 16 * n + 16 + 48 * count

/-- Element k of a payload read as one little-endian number, in any format but PSW (R35, R46 to R49). -/
def elemOf (fmt : Nat) (x : Nat) (k : Nat) : Dec :=
  match bxOfFmt fmt with
  | some (f, blk) =>
    let base := k / 256 * (8 + 8 * blk)
    let j := k / 32 % 8
    let s := x / 2 ^ (8 * (base + j)) % 256
    let w := fmtWidth fmt
    let code := x / 2 ^ (8 * (base + 8 + blk * j) + k % 32 * w) % 2 ^ w
    if s = 255 then Dec.nanE else decodeFp f code ((s : Int) - 127)
  | none => decodeCode fmt (x / 2 ^ (k * fmtWidth fmt) % 2 ^ fmtWidth fmt)

/-- Elements whose bits lie whole in the first `len` bytes of a payload, where `len` is on a packing-unit boundary or
the whole payload. -/
def elemsIn (fmt n len : Nat) : Nat :=
  match bxOfFmt fmt with
  | some (_, blk) => if payloadLen fmt n ≤ len then n else min n (len / (8 + 8 * blk) * 256)
  | none => min n (len * 8 / fmtWidth fmt)

/-! PSW (R55 to R60) -/

/-- A compact record's window as an integer. -/
def pswVal (r : Nat) : Int := signed 112 r * 2 ^ (r / 2 ^ 112 % 512)

/-- Whether a compact record is an escape marker. -/
def pswEsc (r : Nat) : Bool := r / 2 ^ 125 % 2 = 1

/-- Whether a compact record breaks R60. -/
def pswBad (r : Nat) : Bool :=
  decide (r / 2 ^ 126 % 4 ≠ 0) ||
  if pswEsc r then decide (r % 2 ^ 125 / 2 ^ 12 ≠ 0) else decide (208 < r / 2 ^ 112 % 512)

/-- A record's flags at a bit offset. -/
def pswFlags (r lo : Nat) (v : Int) : Dec :=
  ⟨v, r / 2 ^ lo % 2 = 1, r / 2 ^ (lo + 1) % 2 = 1, r / 2 ^ (lo + 2) % 2 = 1, r / 2 ^ (lo + 3) % 2 = 1⟩

/-- Decoding of a compact record (R59). -/
def pswDecode (r : Nat) : Dec := pswFlags r 121 (pswVal r)
/-- Decoding of a wide record (R56, R59). -/
def pswWide (r : Nat) : Dec := pswFlags r 320 (signed 320 r)

/-- Trailing zero bits of a number, at most a bound. -/
def trailing : Nat → Nat → Nat
  | 0, _ => 0
  | n + 1, a => if a % 2 = 1 then 0 else 1 + trailing n (a / 2)

/-- Canonical compact form of an accumulator value (R58, R74): the window and POS, none when it does not fit. -/
def pswWindow (v : Int) : Option (Int × Nat) :=
  if v = 0 then some (0, 0)
  else
    let pos := trailing 208 v.natAbs
    let w := v / 2 ^ pos
    if -(2 ^ 111) ≤ w ∧ w < 2 ^ 111 then some (w, pos) else none

/-- Flag bits of a record or accumulator, PINF lowest. -/
def flagBits (pinf ninf nan ovf : Bool) : Nat := pinf.toNat + ninf.toNat * 2 + nan.toNat * 4 + ovf.toNat * 8

/-- The signed value of an accumulator. -/
def Acc.val (x : Acc) : Int := x.a.toInt

/-- PSW encoding of an accumulator (R58): its compact record, and its wide record when it escapes with index `j` as
element `k`. -/
def pswEncode (x : Acc) (k j : Nat) : Nat × Option Nat :=
  let fl := flagBits x.pinf x.ninf x.nan x.ovf
  match pswWindow x.val with
  | some (w, pos) => (toCode 112 w + pos * 2 ^ 112 + fl * 2 ^ 121, none)
  | none => (j + 2 ^ 125, some (x.a.toNat + fl * 2 ^ 320 + k * 2 ^ 324))

/-- The compact record in which an accumulator stands in the accumulator area (R73): its window, POS and flags, or, with
SIDED = 1, the index of its siding and zeros. -/
def Acc.record (x : Acc) : BitVec 128 :=
  match x.siding with
  | some u => BitVec.ofNat 128 (u % 2 ^ 17 + 2 ^ 125)
  | none =>
    let q := (pswWindow x.val).getD (0, 0)
    BitVec.ofNat 128 (toCode 112 q.1 + q.2 * 2 ^ 112 + flagBits x.pinf x.ninf x.nan x.ovf * 2 ^ 121)

/-- The record of an accumulator's siding (R75): its full value and flags, its element and its coach slot. -/
def Acc.sidingRecord (x : Acc) (elem slot : Nat) : BitVec 512 :=
  BitVec.ofNat 512 (x.a.toNat + flagBits x.pinf x.ninf x.nan x.ovf * 2 ^ 320 + elem % 2 ^ 12 * 2 ^ 324 +
    slot % 2 ^ 10 * 2 ^ 336)

/-- The compact records and wide records of a run of accumulators, from an element and an escape index on. -/
def pswRecords : List Acc → Nat → Nat → List Nat × List Nat
  | [], _, _ => ([], [])
  | x :: xs, k, j =>
    match pswEncode x k j with
    | (r, none) => let t := pswRecords xs (k + 1) j; (r :: t.1, t.2)
    | (r, some w) => let t := pswRecords xs (k + 1) (j + 1); (r :: t.1, w :: t.2)

/-- A PSW payload (R57), and its number of escapes. -/
def pswPayload (xs : List Acc) : List Byte × Nat :=
  let t := pswRecords xs 0 0
  (t.1.flatMap (bytesLE 16) ++ bytesLE 16 t.2.length ++ t.2.flatMap (bytesLE 48), t.2.length)

/-- Codes packed by stream bits into whole 64-bit words (R35, R36). -/
def packCodes (w : Nat) (cs : List Nat) : List Byte :=
  bytesLE (8 * ceilDiv (cs.length * w) 64) (cs.foldr (fun c acc => acc * 2 ^ w + c) 0)

/-! Layout checks (R60 to R62) -/

/-- What a layout check finds. -/
inductive Layout where
  | ok
  | fault
  | pswFault
  deriving DecidableEq, Repr

/-- Whether a PSW payload of n elements may end a frame at a byte (R61). -/
def pswBoundary (n len : Nat) : Bool :=
  if len ≤ 16 * n then decide (len % 16 = 0)
  else decide (16 * n + 16 ≤ len ∧ (len - (16 * n + 16)) % 48 = 0)

/-- Compact record k of a payload read as one number. -/
def pswRec (x k : Nat) : Nat := x / 2 ^ (128 * k) % 2 ^ 128
/-- Wide record j of a payload of n elements. -/
def pswWideRec (x n j : Nat) : Nat := x / 2 ^ (128 * n + 128 + 384 * j) % 2 ^ 384

/-- The escape markers among the first m records: element and index. -/
def pswMarkers (x m : Nat) : List (Nat × Nat) :=
  ((List.range m).filter (fun k => pswEsc (pswRec x k))).map (fun k => (k, pswRec x k % 2 ^ 12))

/-- Whether no two members of a list are equal. -/
def allDistinct : List Nat → Bool
  | [] => true
  | a :: t => !t.contains a && allDistinct t

/-- The PSW rules of R60 over the first `len` bytes of a payload of n elements. -/
def pswOk (x n len : Nat) (last : Bool) : Bool :=
  let m := min n (len / 16)
  let ms := pswMarkers x m
  (List.range m).all (fun k => !pswBad (pswRec x k)) && allDistinct (ms.map (·.2)) &&
  (if 16 * n + 16 ≤ len then
    let hd := x / 2 ^ (128 * n) % 2 ^ 128
    let count := hd % 2 ^ 13
    let wides := (len - (16 * n + 16)) / 48
    decide (hd / 2 ^ 13 = 0) && decide (count = ms.length) && ms.all (fun e => decide (e.2 < count)) &&
    decide (len ≤ pswLen n count) && (!last || decide (len = pswLen n count)) &&
    (List.range wides).all (fun j =>
      let w := pswWideRec x n j
      decide (w / 2 ^ 336 = 0) && ms.any (fun e => decide (e.2 = j ∧ e.1 = w / 2 ^ 324 % 2 ^ 12)))
  else !last)

/-- The layout of a contribution's payload up to and with a frame that ends at `len` bytes (R61, R62). -/
def layoutOf (fmt n : Nat) (payload : List Byte) (last : Bool) : Layout :=
  let len := payload.length
  if fmt = fmtPsw then
    if (last || pswBoundary n len) && pswOk (natOfLE payload) n len last then .ok else .pswFault
  else if payloadLen fmt n < len then .fault
  else if last then (if len = payloadLen fmt n then .ok else .fault)
  else if len % fmtUnit fmt = 0 then .ok else .fault

end Sys2Proof.Machine
end

