-- ==== Sys2Proof/Machine/Arith.lean ====
section
/-! DEFINITION. Exact accumulation (R67 to R98): products, folds, output classes, rounding, block scales, the keyed
rounding generator, and the binary32 arithmetic of ordered mode. -/

namespace Sys2Proof.Machine

/-! FP32 scale factors -/

/-- A finite FP32 value as sign, integer significand and exponent: (-1)^s * m * 2^e. -/
structure Scale where
  neg : Bool
  m : Nat
  e : Int
  deriving DecidableEq, Repr

/-- Class of an FP32 code: NaN, an infinity, or finite. -/
inductive F32 where
  | nan
  | inf (neg : Bool)
  | fin (s : Scale)
  deriving DecidableEq, Repr

def f32Of (w : W32) : F32 :=
  let e := fld w 23 8
  let m := fld w 0 23
  let s := w.getLsbD 31
  if e = 255 then (if m = 0 then .inf s else .nan)
  else if e = 0 then .fin ⟨s, m, -149⟩ else .fin ⟨s, m + 2 ^ 23, (e : Int) - 150⟩

/-- Nearest integer to a / 2^s, ties to even. -/
def roundShift (a : Nat) (s : Nat) : Nat :=
  let t := a / 2 ^ s
  let r := a % 2 ^ s
  if s = 0 then a
  else if 2 ^ (s - 1) < r ∨ (r = 2 ^ (s - 1) ∧ t % 2 = 1) then t + 1 else t

/-- The product of a FINITE element and a finite pre-scale (R69), and whether rounding changed it. -/
def productFin (v : Int) (p : Scale) : Term × Bool :=
  let a := v.natAbs * p.m
  let neg := decide (v < 0) != p.neg
  let sgn (x : Nat) : Int := if neg then -(x : Int) else x
  if 0 ≤ p.e then
    let x := a * 2 ^ p.e.toNat
    if 2 ^ 319 ≤ x then (⟨0, false, false, false, true, 0⟩, false) else (⟨sgn x, false, false, false, false, 0⟩, false)
  else
    let s := (-p.e).toNat
    if 2 ^ (319 + s) ≤ a then (⟨0, false, false, false, true, 0⟩, false)
    else (⟨sgn (roundShift a s), false, false, false, false, 0⟩, decide (a % 2 ^ s ≠ 0))

def termNan : Term := ⟨0, false, false, true, false, 0⟩
def termInf (neg : Bool) : Term := ⟨0, !neg, neg, false, false, 0⟩

/-- The product of an element and a pre-scale (R70). -/
def product (d : Dec) (p : W32) : Term × Bool :=
  match f32Of p with
  | .nan => (termNan, false)
  | .inf pn =>
    if d.nan then (termNan, false)
    else if d.pinf then (termInf pn, false)
    else if d.ninf then (termInf (!pn), false)
    else if d.v = 0 then (termNan, false)
    else (termInf (decide (d.v < 0) != pn), false)
  | .fin s =>
    if d.nan then (termNan, false)
    else if d.pinf ∨ d.ninf then
      (if s.m = 0 then (termNan, false) else (termInf (d.ninf != s.neg), false))
    else productFin d.v s

/-- A PSW record folds as its own product (R71). -/
def pswTerm (d : Dec) : Term := ⟨d.v, d.pinf, d.ninf, d.nan, d.ovf, 0⟩

/-! Folding (R72) -/

/-- The fold of a product into an accumulator. -/
def Acc.fold (x : Acc) (t : Term) : Acc :=
  let sum := x.val + t.v
  let out := decide (sum < -(2 ^ 319) ∨ 2 ^ 319 ≤ sum)
  let pinf := x.pinf || t.pinf
  let ninf := x.ninf || t.ninf
  { x with
    a := x.a + BitVec.ofInt 320 t.v
    pinf := pinf, ninf := ninf
    nan := x.nan || t.nan || (pinf && ninf)
    ovf := x.ovf || t.ovf || out }

/-- Whether an accumulator fits its compact window (R74, R76). -/
def Acc.fits (x : Acc) : Bool := (pswWindow x.val).isSome

/-! The keyed rounding generator (R91) -/

/-- One round of the KRG over (a, b, c, d). -/
def krgRound (k0 k1 : W32) (s : W32 × W32 × W32 × W32) (r : Nat) : W32 × W32 × W32 × W32 :=
  let kr := if r % 2 = 0 then k0 else k1
  let a := s.1 + s.2.1 + kr + BitVec.ofNat 32 r
  let d := (s.2.2.2 ^^^ a).rotateLeft 16
  let c := s.2.2.1 + d
  let b := (s.2.1 ^^^ c).rotateLeft 12
  (a, b, c, d)

def krgInit (step : W32) (index : Nat) (salt : Nat) : W32 × W32 × W32 × W32 :=
  (BitVec.ofNat 32 (salt * 16 + index / 2 ^ 32 % 16), step, BitVec.ofNat 32 index, 0x4E4A2480)

/-- The KRG. -/
def krg (seed : W64) (step : W32) (index salt : Nat) : W32 :=
  let s := (List.range 10).foldl (krgRound (BitVec.ofNat 32 seed.toNat) (BitVec.ofNat 32 (seed.toNat / 2 ^ 32)))
    (krgInit step index salt)
  s.1 ^^^ s.2.2.1

/-! Output (R78 to R90) -/

/-- Output class of an accumulator under a post-scale (R78). A finite value is sign, X and exponent: X * 2^eb. -/
inductive OutCls where
  | nan
  | inf (neg : Bool)
  | ovf
  | fin (neg : Bool) (x : Nat) (eb : Int)
  deriving DecidableEq, Repr

def outClass (acc : Acc) (q : W32) : OutCls :=
  if acc.nan || (acc.pinf && acc.ninf) then .nan
  else match f32Of q with
    | .nan => .nan
    | .inf qn =>
      if acc.pinf || acc.ninf then .inf (acc.ninf != qn)
      else if acc.ovf then .ovf
      else if acc.val = 0 then .nan
      else .inf (decide (acc.val < 0) != qn)
    | .fin s =>
      if acc.pinf || acc.ninf then (if s.m = 0 then .nan else .inf (acc.ninf != s.neg))
      else if acc.ovf then .ovf
      else .fin (decide (acc.val < 0) != s.neg) (acc.val.natAbs * s.m) (s.e - 168)

/-- Rounding modes: 0 RNE, 1 RZ, 2 SR (R79). -/
def roundUp (mode : Nat) (t rem s : Nat) (u : W32) : Bool :=
  match mode with
  | 0 => decide (2 ^ (s - 1) < rem ∨ (rem = 2 ^ (s - 1) ∧ t % 2 = 1))
  | 2 => decide (u.toNat < rem * 2 ^ 32 / 2 ^ s)
  | _ => false

/-- A positive integer times 2^eb brought to units of 2^qx (R80). -/
def roundTo (x : Nat) (eb qx : Int) (mode : Nat) (u : W32) : Nat :=
  let s := qx - eb
  if s ≤ 0 then x * 2 ^ (-s).toNat
  else
    let n := s.toNat
    let t := x / 2 ^ n
    if roundUp mode t (x % 2 ^ n) n u then t + 1 else t

/-- Magnitude code of a positive value rounded into a format; a code above `maxCode` is an overflow (R80). -/
def roundFp (f : FpFmt) (x : Nat) (eb : Int) (mode : Nat) (u : W32) : Nat :=
  let e : Int := (Nat.log2 x : Int) + eb
  let emin : Int := 1 - (f.bias : Int)
  let qx := max e emin - (f.mbits : Int)
  let t := roundTo x eb qx mode u
  let t' := if t = 2 ^ (f.mbits + 1) then 2 ^ f.mbits else t
  let qx' := if t = 2 ^ (f.mbits + 1) then qx + 1 else qx
  if 2 ^ f.mbits ≤ t' then (qx' + (f.mbits : Int) + (f.bias : Int)).toNat * 2 ^ f.mbits + (t' - 2 ^ f.mbits) else t'

def signBit (f : FpFmt) (neg : Bool) : Nat := if neg then 2 ^ (f.ebits + f.mbits) else 0

/-- One written element: its code, the status bits of R87 it sets, and its counts. -/
structure Out1 where
  code : Nat
  st : Nat
  outOvf : Nat
  ufl : Nat
  sat : Nat
  sz : Nat
  deriving DecidableEq, Repr

def Out1.plain (code : Nat) : Out1 := ⟨code, 0, 0, 0, 0, 0⟩
/-- A special class written as 0 (R83). -/
def Out1.zero (st : Nat) : Out1 := ⟨0, st ||| 1, 0, 0, 0, 1⟩
/-- A saturated or overflowed output (R82, R83). -/
def Out1.over (code st : Nat) : Out1 := ⟨code, st ||| 2, 1, 0, 0, 0⟩

/-- SPECIAL and SUM_OVF of a class (R87). -/
def clsStatus : OutCls → Nat
  | .nan => 32
  | .inf _ => 32
  | .ovf => 4
  | .fin _ _ _ => 0

/-- The NaN code of a floating-point format (R53), none where it has none. -/
def nanCode (f : FpFmt) : Option Nat :=
  match f.kind with
  | .ieee => some ((2 ^ f.ebits - 1) * 2 ^ f.mbits + 2 ^ (f.mbits - 1))
  | .e4m3 => some 0x7F
  | .n4 => some 8
  | .plain => none

/-- The infinity code of a format without its sign (R53). -/
def infCode (f : FpFmt) : Option Nat := if f.kind = .ieee then some ((2 ^ f.ebits - 1) * 2 ^ f.mbits) else none

/-- Whether a finite overflow of the format gives an infinity (R82): FP32, BF16 and FP16 under RNE and SR. -/
def ovfInf (f : FpFmt) (mode : Nat) : Bool := decide (mode ≠ 1) && decide (f.kind = .ieee) && decide (f.mbits ≠ 2)

/-- A class written into a floating-point format (R80 to R84). -/
def writeFp (f : FpFmt) (c : OutCls) (mode : Nat) (u : W32) : Out1 :=
  match c with
  | .nan => match nanCode f with | some k => ⟨k, 32, 0, 0, 0, 0⟩ | none => Out1.zero 32
  | .ovf => match nanCode f with | some k => ⟨k, 4, 0, 0, 0, 0⟩ | none => Out1.zero 4
  | .inf n =>
    match infCode f with
    | some k => ⟨signBit f n + k, 32, 0, 0, 0, 0⟩
    | none => Out1.over (signBit f n + f.maxCode) 32
  | .fin n x eb =>
    if x = 0 then Out1.plain 0
    else
      let t := roundFp f x eb mode u
      if f.maxCode < t then
        (if ovfInf f mode then Out1.over (signBit f n + (2 ^ f.ebits - 1) * 2 ^ f.mbits) 0
         else Out1.over (signBit f n + f.maxCode) 0)
      else if t = 0 ∧ f.kind = .n4 then Out1.plain 0
      else Out1.plain (signBit f n + t)

/-- A class written into an integer format of width w (R83, R84, R86). -/
def writeInt (w : Nat) (wrap : Bool) (c : OutCls) (mode : Nat) (u : W32) : Out1 :=
  match c with
  | .fin n x eb =>
    let t := if x = 0 then 0 else roundTo x eb 0 mode u
    let v : Int := if n then -(t : Int) else t
    if -(2 ^ (w - 1)) ≤ v ∧ v < 2 ^ (w - 1) then Out1.plain (toCode w v)
    else if wrap then Out1.over (toCode w v) 0
    else Out1.over (if v < 0 then 2 ^ (w - 1) else 2 ^ (w - 1) - 1) 0
  | _ => Out1.zero (clsStatus c)

/-- The difference of a value and the FP32 value of a magnitude code, as sign, integer and exponent (R85). -/
def fp32Rest (neg : Bool) (x : Nat) (eb : Int) (code : Nat) : OutCls :=
  match f32Of (BitVec.ofNat 32 code) with
  | .fin s =>
    let g := min eb s.e
    let d : Int := (x * 2 ^ (eb - g).toNat : Nat) - (s.m * 2 ^ (s.e - g).toNat : Nat)
    .fin (decide (d < 0) != neg) d.natAbs g
  | _ => .fin false 0 0

/-- A class written as an FP32P pair (R85, R53). -/
def writePair (c : OutCls) : Out1 :=
  match c with
  | .fin n x eb =>
    let hi := writeFp fpFp32 c 0 0
    if hi.outOvf ≠ 0 ∨ x = 0 then hi
    else
      let lo := writeFp fpFp32 (fp32Rest n x eb (hi.code % 2 ^ 31)) 0 0
      Out1.plain (hi.code + lo.code * 2 ^ 32)
  | _ => writeFp fpFp32 c 0 0

/-- A class written into a format that packs by stream bits. -/
def writeElem (fmt : Nat) (wrap : Bool) (c : OutCls) (mode : Nat) (u : W32) : Out1 :=
  match fpOfFmt fmt with
  | some f => writeFp f c mode u
  | none => match intOfFmt fmt with | some w => writeInt w wrap c mode u | none => writePair c

/-- Top binade of a base format (R88). -/
def eTop (f : FpFmt) : Int := if f.kind = .e4m3 then 8 else 2

/-- The scale code of an output block (R88), and whether k was clamped at 127. -/
def blockScale (f : FpFmt) (cs : List OutCls) : Nat × Bool :=
  if cs.any (fun c => match c with | .nan => true | .ovf => true | _ => false) then (255, false)
  else if cs.any (fun c => match c with | .inf _ => true | _ => false) then (254, false)
  else
    let tops := cs.filterMap (fun c => match c with
      | .fin _ x eb => if x = 0 then none else some ((Nat.log2 x : Int) + eb) | _ => none)
    match tops with
    | [] => (0, false)
    | t :: ts =>
      let k := ts.foldl max t - eTop f
      ((min (max k (-127)) 127 + 127).toNat, decide (127 < k))

/-- An element of a block whose scale code is below 0xFF (R89, R90). -/
def writeBlkElem (f : FpFmt) (s : Nat) (clamped : Bool) (c : OutCls) (mode : Nat) (u : W32) : Out1 :=
  match c with
  | .inf n => ⟨signBit f n + f.maxCode, 34, 1, 0, 0, 0⟩
  | .fin n x eb =>
    if x = 0 then Out1.plain 0
    else
      let t := roundFp f x (eb + 127 - (s : Int)) mode u
      if f.maxCode < t then
        (if clamped then Out1.over (signBit f n + f.maxCode) 0 else ⟨signBit f n + f.maxCode, 16, 0, 0, 1, 0⟩)
      else
        let small := decide (t < 2 ^ f.mbits)
        let code := if t = 0 ∧ f.kind = .n4 then 0 else signBit f n + t
        ⟨code, if small then 8 else 0, 0, small.toNat, 0, 0⟩
  | _ => Out1.plain 0

/-- A block of up to 32 elements: its scale code and its elements (R88 to R90). -/
def writeBlock (f : FpFmt) (cs : List OutCls) (mode : Nat) (us : List W32) : Nat × List Out1 :=
  let s := blockScale f cs
  if s.1 = 255 then (255, cs.map (fun c => ⟨0, clsStatus c, 0, 0, 0, 0⟩))
  else (s.1, (cs.zip us).map (fun x => writeBlkElem f s.1 s.2 x.1 mode x.2))

/-- Blocks of 32. -/
def chunks (k : Nat) {α : Type} : Nat → List α → List (List α)
  | 0, _ => []
  | n + 1, xs => if xs.isEmpty then [] else xs.take k :: chunks k n (xs.drop k)

/-- An output of a coach: its payload, its status bits and its counts. -/
structure OutAll where
  bytes : List Byte
  st : Nat
  outOvf : Nat
  ufl : Nat
  sat : Nat
  sz : Nat
  esc : Nat
  deriving DecidableEq, Repr

def sumOuts (bytes : List Byte) (os : List Out1) : OutAll :=
  os.foldl (fun a o => { a with
    st := a.st ||| o.st, outOvf := a.outOvf + o.outOvf, ufl := a.ufl + o.ufl, sat := a.sat + o.sat, sz := a.sz + o.sz })
    ⟨bytes, 0, 0, 0, 0, 0, 0⟩

/-- A group of blocks: scale word, then the blocks (R46). -/
def groupBytes (blk w : Nat) (bs : List (Nat × List Out1)) : List Byte :=
  (bs.map (fun b => BitVec.ofNat 8 b.1) ++ List.replicate (8 - bs.length) 0) ++
    bs.flatMap (fun b => bytesLE blk (natOfLE (packCodes w (b.2.map (·.code)))))

/-- A rounded output of a coach in any format but PSW, from the classes of its elements and their KRG values. -/
def writeOutput (fmt : Nat) (wrap : Bool) (mode : Nat) (cs : List OutCls) (us : List W32) : OutAll :=
  match bxOfFmt fmt with
  | some (f, blk) =>
    let bs := ((chunks 32 cs.length cs).zip (chunks 32 us.length us)).map (fun x => writeBlock f x.1 mode x.2)
    sumOuts ((chunks 8 bs.length bs).flatMap (groupBytes blk (fmtWidth fmt))) (bs.flatMap (·.2))
  | none =>
    let os := (cs.zip us).map (fun x => writeElem fmt wrap x.1 mode x.2)
    sumOuts (packCodes (fmtWidth fmt) (os.map (·.code))) os

/-! Ordered mode (R97, R98): binary32, round to nearest even -/

def f32Nan : W32 := 0x7FC00000
def f32Inf (neg : Bool) : W32 := if neg then 0xFF800000 else 0x7F800000

/-- A value X * 2^eb with a sign as a binary32 code. -/
def f32Round (neg : Bool) (x : Nat) (eb : Int) : W32 :=
  if x = 0 then (if neg then 0x80000000 else 0)
  else
    let t := roundFp fpFp32 x eb 0 0
    BitVec.ofNat 32 (signBit fpFp32 neg + min t 0x7F800000)

def f32Mul (a b : W32) : W32 :=
  match f32Of a, f32Of b with
  | .nan, _ => f32Nan
  | _, .nan => f32Nan
  | .inf n, .inf k => f32Inf (n != k)
  | .inf n, .fin s => if s.m = 0 then f32Nan else f32Inf (n != s.neg)
  | .fin s, .inf n => if s.m = 0 then f32Nan else f32Inf (n != s.neg)
  | .fin s, .fin t => f32Round (s.neg != t.neg) (s.m * t.m) (s.e + t.e)

def f32Add (a b : W32) : W32 :=
  match f32Of a, f32Of b with
  | .nan, _ => f32Nan
  | _, .nan => f32Nan
  | .inf n, .inf k => if n = k then f32Inf n else f32Nan
  | .inf n, .fin _ => f32Inf n
  | .fin _, .inf n => f32Inf n
  | .fin s, .fin t =>
    let g := min s.e t.e
    let x (u : Scale) : Int := (if u.neg then -1 else 1) * (u.m * 2 ^ (u.e - g).toNat : Nat)
    let d := x s + x t
    if d = 0 then (if s.neg && t.neg && decide (s.m = 0) then 0x80000000 else 0) else f32Round (decide (d < 0)) d.natAbs g

/-- The binary32 code of element k of a payload in an ordered-mode format (R97): exact. A zero of a floating-point format
keeps its sign: R97 does not say whether the binary32 product sees the code of R41 or its value. DESIGN CHOICE, log
140. -/
def elemF32 (fmt x k : Nat) : W32 :=
  let d := elemOf fmt x k
  let w := fmtWidth fmt
  if d.nan then f32Nan else if d.pinf then f32Inf false else if d.ninf then f32Inf true
  else if d.v = 0 then (if (fpOfFmt fmt).isSome ∧ x / 2 ^ (k * w + w - 1) % 2 = 1 then 0x80000000 else 0)
  else f32Round (decide (d.v < 0)) d.v.natAbs (-168)

/-- Formats that ordered mode accepts (R98). -/
def orderedFmt (fmt : Nat) : Bool := fmt = 0 || (2 ≤ fmt && fmt ≤ 8) || fmt = 12 || fmt = 13

/-- Left-to-right sum of the terms present; none when there is none. -/
def f32Sum : List W32 → Option W32
  | [] => none
  | a :: t => some (t.foldl f32Add a)

/-- The ordered sum of one element over the ranks (R97), each with the terms it brings: groups of g consecutive ranks,
absent ranks skipped. -/
def orderedSum (g : Nat) (ps : List (List W32)) : W32 :=
  let r := if g = 0 ∨ ps.length ≤ g then f32Sum ps.flatten
    else f32Sum ((chunks g ps.length ps).filterMap (fun xs => f32Sum xs.flatten))
  r.getD 0

/-- The class of a binary32 result for R78 to R90 (R98). -/
def f32Class (w : W32) : OutCls :=
  match f32Of w with
  | .nan => .nan
  | .inf n => .inf n
  | .fin s => .fin s.neg s.m s.e

end Sys2Proof.Machine
end

