-- ==== Sys2Proof/Machine/Packer.lean ====
section
/-! DEFINITION. The packer (R77 to R92, R97, R98, R125 to R127, R138 to R146, R160 to R163): the outputs of a coach, their
payloads, frames and destinations, and the end of packing. -/

namespace Sys2Proof.Machine

/-! Outputs of a coach (R138, R140, R146, R160) -/

def one32 : W32 := 0x3F800000

/-- Whether a coach writes a PARTIAL output (R160). -/
def Coach.partial_ (x : Coach) : Bool := decide (x.role = .feeder ∨ x.role = .rowOwner)

/-- The outputs of a coach: index and format (R126, R146, R161). -/
def Coach.outputs (x : Coach) : List (Nat × Nat) :=
  if x.partial_ then [(0, if eOrdered x.ent then 0 else fmtPsw)]
  else (0, eFmtOut x.ent) ::
    (if eOp x.ent = 5 then ([1, 2, 3].filter (eOutEn x.ent)).map (fun j => (j, eFmtOutJ x.ent j)) else [])

/-- The accumulators of a coach, in element order. -/
def Coach.accList (x : Coach) : List Acc := (List.range x.elemCount).map (Tbl.get Acc.zero x.accs)

/-- The seed that a coach's SEED_REF names, of the seeds it copied at creation (R340). -/
def Coach.seed (x : Coach) : W64 := BitVec.ofNat 64 (fld x.seeds (64 * (x.seedRef % 16)) 64)

/-- The KRG values of a coach's elements (R92). -/
def Coach.krgs (x : Coach) : List W32 :=
  (List.range x.elemCount).map (fun k => krg x.seed x.step ((x.elemBase + k) % 2 ^ 36) (eSalt x.ent))

/-- The terms that the contributions of one rank bring to an element (R97): `swap` decides between a contribution of the
coach's own step and one carried to it, which the manual does not order. -/
def Coach.rankTerms (x : Coach) (swap : Bool) (p k : Nat) : List W32 :=
  let ts (b : Bool) : List W32 :=
    (x.contribs.filter (fun y => decide (y.lport = p) && y.carried == b)).map (fun y => Tbl.get 0 y.ordered k)
  ts swap ++ ts (!swap)

/-- The ordered-mode sum of an element (R97). -/
def Coach.ordSum (x : Coach) (swap : Bool) (k : Nat) : W32 :=
  let g := eOrderGroup x.ent
  let g := if ones x.expected + x.absent ≤ g then 0 else g
  orderedSum g ((setBits x.expected).map (fun p => x.rankTerms swap p k))

/-- The FP32 code in which a PARTIAL of a coach in ordered mode writes a sum: an exact zero is 0x0000_0000 (R53). -/
def f32Plain (w : W32) : W32 := if w = 0x80000000 then 0 else w

/-- The output classes of a coach's elements (R78, R98). -/
def Coach.classes (x : Coach) (swap : Bool) : List OutCls :=
  if eOrdered x.ent then (List.range x.elemCount).map (fun k => f32Class (f32Mul (x.ordSum swap k) x.postscale))
  else x.accList.map (fun a => outClass a x.postscale)

/-- A payload's element and scale codes with its padding written 0 (R36, R145). -/
def copyPayload (fmt n : Nat) (b : List Byte) : List Byte :=
  match bxOfFmt fmt with
  | some (_, blk) =>
    let w := fmtWidth fmt
    (List.range (ceilDiv n 256)).flatMap (fun h =>
      let base := h * (8 + 8 * blk)
      let blocks := min 8 (ceilDiv (n - 256 * h) 32)
      bytesLE 8 (natOfLE (slice b base blocks)) ++
        (List.range blocks).flatMap (fun j =>
          bytesLE blk (natOfLE (slice b (base + 8 + blk * j) blk) % 2 ^ (w * min 32 (n - 256 * h - 32 * j)))))
  | none => if fmt = fmtPsw then b else bytesLE (payloadLen fmt n) (natOfLE b % 2 ^ (n * fmtWidth fmt))

/-- The contribution whose codes an output of a coach copies, if it takes the copy path (R145). -/
def Coach.copySource (x : Coach) (fmt : Nat) : Option Contrib :=
  if opCopying (eOp x.ent) ∧ !eOrdered x.ent ∧ x.postscale = one32 then
    x.contribs.find? (fun y => !y.carried && decide (y.fmt = fmt) && decide (y.prescale = one32))
  else none

/-- Bytes that the manual leaves open. -/
def freeBytes (n seed : Nat) : List Byte := (List.range n).map (fun i => BitVec.ofNat 8 (Config.freeWord (seed + i)).toNat)

/-- One output's payload, with its status and counts (R77 to R90, R98, R125, R145). A PSW output of a coach in ordered
mode is not available (R98), and its bytes are open. -/
def Coach.output (x : Coach) (swap : Bool) (seed fmt : Nat) : OutAll :=
  match x.copySource fmt with
  | some y =>
    ⟨copyPayload fmt x.elemCount y.payload, 0, 0, 0, 0, 0,
      if fmt = fmtPsw then (pswMarkers (natOfLE y.payload) x.elemCount).length else 0⟩
  | none =>
    let sumOvf := !eOrdered x.ent && x.accList.any (·.ovf)
    if x.partial_ ∧ eOrdered x.ent then
      ⟨packCodes 32 ((List.range x.elemCount).map (fun k => (f32Plain (x.ordSum swap k)).toNat)), 0, 0, 0, 0, 0, 0⟩
    else if fmt = fmtPsw then
      (if eOrdered x.ent then ⟨freeBytes (pswLen x.elemCount 0) seed, 0, 0, 0, 0, 0, 0⟩
       else
        let r := pswPayload x.accList
        ⟨r.1, if sumOvf then 4 else 0, 0, 0, 0, 0, r.2⟩)
    else
      let o := writeOutput fmt x.ovfMode (eRmode x.ent) (x.classes swap) x.krgs
      { o with st := o.st ||| (if sumOvf then 4 else 0) }

/-- The banks of a coach die that hold the accumulators and sidings of the elements from `lo` up to `hi` (R195). -/
def Coach.storeBanks (x : Coach) (lo hi : Nat) : List Nat :=
  let ks := (List.range hi).drop lo
  ks.filterMap (fun k => (x.granules[k / 64]?).map (unitBank plAcc)) ++
    ks.filterMap (fun k => (Tbl.get Acc.zero x.accs k).siding.map (unitBank plSide))

/-- A coach enters PACKING (R122, R125): every output is produced, and the status and counters follow. -/
def Chip.startPacking (c : Chip) (d i : Nat) : Chip :=
  let x := c.slot d i
  let c := c.accessBanks (dieC d) x.livery (x.storeBanks 0 x.elemCount) 0 0
  let a := c.takeFresh
  let swap := (Config.freeWord a.1).getLsbD 0
  let psw := eOrdered x.ent && x.outputs.any (fun o => decide (o.2 = fmtPsw))
  let two := eOrdered x.ent && x.carriedAny
  let c := if two then a.2 else c
  let seed := c.fresh
  let c := if psw then { c with fresh := c.fresh + pswLen x.elemCount 0 } else c
  let os := x.outputs.map (fun o => (o.1, x.output swap seed o.2))
  let sum (f : OutAll → Nat) : Nat := os.foldl (fun n o => n + f o.2) 0
  let pg := pgAcc d
  let c := ((((c.bumpN pg 0x1404 (sum (·.esc))).bumpN pg 0x1410 (sum (·.outOvf))).bumpN pg 0x1414 (sum (·.ufl))).bumpN pg
    0x1418 (sum (·.sat))).bumpN pg 0x1428 (sum (·.sz))
  c.setSlot d i { x with
    phase := .packing, rstat := os.foldl (fun n o => n ||| o.2.st) 0, outs := os.map (fun o => (o.2.bytes, o.1)), outSent := 0 }

/-! Frames of an output (R61, R102, R126, R257) -/

/-- The end of the frame that starts at `start` in a payload of `total` bytes: the last boundary of R61 within 16,384
bytes. -/
def frameEnd (fmt n total start : Nat) : Nat :=
  let e := start + 16384
  if total ≤ e then total
  else if fmt = fmtPsw then
    (if e ≤ 16 * n then e / 16 * 16 else if e < 16 * n + 16 then 16 * n else 16 * n + 16 + (e - (16 * n + 16)) / 48 * 48)
  else e / fmtUnit fmt * fmtUnit fmt

/-- The ends of the frames of a payload; `fuel` bounds their number (R102: 128 frames). -/
def frameEnds (fmt n total : Nat) : Nat → Nat → List Nat
  | 0, _ => [total]
  | fuel + 1, start =>
    let e := frameEnd fmt n total start
    if total ≤ e then [total] else e :: frameEnds fmt n total fuel e

/-- The payloads of the frames of an output. -/
def framePayloads (b : List Byte) : Nat → List Nat → List (List Byte)
  | _, [] => []
  | start, e :: es => slice b start (e - start) :: framePayloads b e es

/-- An output waybill (R126). -/
def Coach.waybill (x : Coach) (fmt frames : Nat) : BitVec 256 :=
  BitVec.ofNat 256 (1 * 2 ^ 252 + (if x.partial_ then 1 else 2) * 2 ^ 248 + x.livery * 2 ^ 240 + x.entry * 2 ^ 224 +
    x.step.toNat * 2 ^ 192 + x.chunk % 2 ^ 24 * 2 ^ 168 + x.elemBase % 2 ^ 36 * 2 ^ 132 + x.elemCount % 2 ^ 13 * 2 ^ 119 +
    fmt % 16 * 2 ^ 115 + x.seedRef % 16 * 2 ^ 111 + x.ovfMode.toNat * 2 ^ 110 + frames % 128 * 2 ^ 103 +
    (if x.partial_ then 0 else x.rstat % 64) * 2 ^ 97 + x.hint % 256 * 2 ^ 89 + one32.toNat * 2 ^ 32 + x.postscale.toNat)

/-- A continuation of an output (R105). -/
def Coach.continuation (x : Coach) (idx : Nat) : W64 :=
  BitVec.ofNat 64 (x.livery * 2 ^ 56 + x.entry * 2 ^ 40 + x.step.toNat % 256 * 2 ^ 32 + x.chunk % 2 ^ 24 * 2 ^ 8 +
    idx % 128 * 2)

/-- The frames of an output with a destination (R102, R126, R259). -/
def Chip.outputFrames (c : Chip) (d i fmt : Nat) (payload : List Byte) (mc : Bool) (dst : Nat) : List Msg :=
  let x := c.slot d i
  let ps := framePayloads payload 0 (frameEnds fmt x.elemCount payload.length 128 0)
  let sub := if x.partial_ then 0 else 2
  (ps.zip (List.range ps.length)).map (fun q =>
    let hd := if q.2 = 0 then bytesBE 32 (x.waybill fmt (ps.length - 1)).toNat else bytesBE 8 (x.continuation q.2).toNat
    let body := hd ++ q.1
    let h := mkHdr clsCollective (if q.2 = 0 then sub else sub + 1) x.livery mc dst c.selfEid (body.length + 36) 0 7
    { Msg.made h body c.time.now (some (coachPos d i)) with coach := some (d, i) })

/-! Destinations (R140, R141, R161, R163) -/

/-- The EID of a unicast result (R140). -/
def Coach.destEid (x : Coach) : Nat :=
  if eOp x.ent = 1 then (eDestEid x.ent + eShardStride x.ent * (x.chunk / max 1 (eShardChunks x.ent))) % 2 ^ 18
  else eDestEid x.ent

/-- The group of output j (R163): with a grid, the row group of the owner row, or of the own row for a copying coach. -/
def Chip.destGroup (c : Chip) (x : Coach) (j : Nat) : Nat :=
  if eGrid x.ent then
    (eOutGroupJ x.ent j + onesBelow (eRowMask x.ent)
      (if opCopying (eOp x.ent) then c.gridRow else ownerRow x.ent x.chunk)) % 2 ^ 14
  else eOutGroupJ x.ent j

/-- No route for an output: the coach aborts (R141, R161). -/
def Chip.noRoute (c : Chip) (d i : Nat) : Chip := c.abortCoach d i evNoRoute (some (pgCch d))

/-- Output `j` of a coach has been sent out. -/
def Chip.outputGone (c : Chip) (d i j : Nat) : Chip :=
  let x := c.slot d i
  if x.phase = .packing then c.setSlot d i { x with outSent := x.outSent ||| 2 ^ j } else c

/-- Every frame of an output goes out of one port. -/
def Chip.sendOut (c : Chip) (ms : List Msg) (q : Nat) : Chip := forAll ms c (fun m c => c.place q m .good)

/-- The frames of an output that its livery may not address: each is a violation (R337 cause 0xA, R338). -/
def Chip.refuseOut (c : Chip) (ms : List Msg) (l : Nat) : Chip := forAll ms c (fun _ c => c.violation l 0xA none)

/-- A unicast result (R141), under the drain-and-swap rules (R296). -/
def Chip.sendUnicast (c : Chip) (d i fmt : Nat) (payload : List Byte) : Chip :=
  let x := c.slot d i
  let dst := x.destEid
  let ms := c.outputFrames d i fmt payload false dst
  if !c.livGroup x.livery (dgOf dst) then c.refuseOut ms x.livery
  else if c.inDrain dst then forAll ms c (fun m c => c.forward m .good false)
  else match c.lookup dst clsCollective with
    | .port q => c.sendOut ms q
    | .miss => c.routeMiss.noRoute d i
    | .self => c.noRoute d i
    | _ => c.downDrop.noRoute d i

/-- A result sent to a multicast group (R140, R146): each frame takes its copies (R300). -/
def Chip.sendGroup (c : Chip) (d i fmt : Nat) (payload : List Byte) (g : Nat) : Chip :=
  let x := c.slot d i
  let ms := c.outputFrames d i fmt payload true g
  if !c.livMc x.livery g then c.refuseOut ms x.livery
  else forAll ms c (fun m c =>
    let cs := c.mcCopies g x.livery 1024
    (cs.2.multicast m (cs.1.map (fun y => (y.1, m.body)))).2)

/-- PACKER_FIRST_FRAME: the packer is about to send output `j` of a coach (R141, R161). -/
def Chip.packerFirst (c : Chip) (d i j : Nat) : Chip :=
  let x := c.slot d i
  match (if x.phase = .packing ∧ x.outSent.testBit j = false then x.outs.find? (fun o => decide (o.2 = j)) else none) with
  | none => c
  | some o =>
    let fmt := ((x.outputs.find? (fun y => decide (y.1 = j))).map (·.2)).getD 0
    if x.partial_ then
      match x.partialPort with
      | some q =>
        if c.portUp q then (c.sendOut (c.outputFrames d i fmt o.1 false 0) q).outputGone d i j else c.downDrop.noRoute d i
      | none => c.noRoute d i
    else if eOp x.ent = 1 ∨ eOp x.ent = 2 then (c.sendUnicast d i fmt o.1).outputGone d i j
    else (c.sendGroup d i fmt o.1 (c.destGroup x j)).outputGone d i j

/-! The end of a route drain (R296, R297) -/

/-- A packer's frame that a drain held is looked up (R141, R292): where it finds no port that is up its coach aborts; the
frames of a coach that no longer packs are gone. -/
def Chip.releaseOutput (c : Chip) (d i : Nat) (m : Msg) : Chip :=
  let gone (c : Chip) : Chip := c.dropCells m.cells
  if (c.slot d i).phase ≠ .packing then gone c
  else match c.lookup (hDst m.hdr) clsCollective with
    | .port q => c.place q m .good
    | .miss => (gone c.routeMiss).noRoute d i
    | .self => (gone c).noRoute d i
    | _ => (gone c.downDrop).noRoute d i

/-- Frames held by a drain are looked up in arrival order (R296 step 6, R297). -/
def Chip.releaseHeld (c : Chip) (ms : List Msg) : Chip :=
  forAll ms c (fun m c => match m.coach with
    | some (d, i) => c.releaseOutput d i m
    | none => c.routeOn m .good (decide (m.inPort < 1024)))

/-- The count of old-bank frames has reached 0: the groups switch and the held frames follow (R296 steps 5 and 6). -/
def Chip.swapSwitch (c : Chip) : Chip :=
  match c.rte.drain with
  | none => c
  | some d =>
    if c.inFlight d = 0 then
      let c := ((c.flipGroups d.first d.last).setDrain none).setFlag pgRte 0x1024 0 false
      ((c.bump pgRte 0x180C).raise (evP pgRte 0x0601 (dieX 0) (d.first + d.last * 65536))).releaseHeld d.held
    else c

/-- RTE_SWAP_CMD with OP = CANCEL (R297). -/
def Chip.swapCancel (c : Chip) : Chip :=
  match c.rte.drain with
  | none => c
  | some d => ((c.setDrain none).setFlag pgRte 0x1024 0 false).releaseHeld d.held

/-! The end of packing (R127) -/

/-- Whether a frame that a coach's packer made is still in the device. -/
def Chip.coachFrames (c : Chip) (d i : Nat) : Bool :=
  let f (m : Msg) : Bool := m.ofCoach d i
  c.traf.eg.any (fun kv => kv.2.queued.any f || (match kv.2.tx with | some m => f m | none => false)) ||
    (match c.rte.drain with | some dr => dr.held.any f | none => false)

/-- The digest of a coach (R419): over the payloads of its outputs in order, then RSTAT. -/
def Coach.digest (x : Coach) : W64 := crc64 (x.outs.flatMap (·.1) ++ [BitVec.ofNat 8 x.rstat])

/-- PACKER_LAST_FRAME_SENT (R127): the coach completes, and closes or, at or after Td, becomes FREE. -/
def Chip.packerDone (c : Chip) (d i : Nat) : Chip :=
  let x := c.slot d i
  if x.phase = .packing ∧ x.outs.all (fun o => x.outSent.testBit o.2) ∧ !c.coachFrames d i then
    let c := ((c.overrunDue d i).releaseCoach d i).bump (pgCch d) 0x1104
    let c := c.digestMake x.livery x.entry x.step x.chunk false x.rstat x.digest
    if (c.time.now : Int) < x.td then c.setSlot d i { c.slot d i with phase := .closed, outs := [] } else c.freeSlot d i
  else c

/-- The meaning of ROUTE_SWAP_CANCEL (R297). -/
def execRouteSwapCancel (s : State) : Host.Outcome State Fault Refusal := s.run fun c => if c.serves pgRte then c.swapCancel else c
/-- The meaning of ROUTE_SWAP_SWITCH (R296 steps 5 and 6). -/
def execRouteSwapSwitch (s : State) : Host.Outcome State Fault Refusal := s.run fun c => if c.mainUp then c.swapSwitch else c
/-- The meaning of PACKER_FIRST_FRAME (R141, R161). -/
def execPackerFirstFrame (d : CDie) (slot : Slot) (out : Fin 4) (s : State) : Host.Outcome State Fault Refusal :=
  s.run fun c => if c.mainUp && c.cdieUp d.val then c.packerFirst d.val slot.val out.val else c
/-- The meaning of PACKER_LAST_FRAME_SENT (R127). -/
def execPackerLastFrameSent (d : CDie) (slot : Slot) (s : State) : Host.Outcome State Fault Refusal :=
  s.run fun c => if c.mainUp && c.cdieUp d.val then c.packerDone d.val slot.val else c

end Sys2Proof.Machine
end

