-- ==== Sys2Proof/Machine/Coach.lean ====
section
/-! DEFINITION. Coaches (R102 to R134, R486, R96, R143, R144, R156, R181, R184 to R190, R206 to R210): the dispatch of
Collective frames to coach dies, admission, creation, folding, late contributions, the seal and the deadline monitor. -/

namespace Sys2Proof.Machine

/-! Waybill checks (R116, R118) -/

/-- The ELEM_COUNT rule of R118. -/
def rangeOk (w : BitVec 256) : Bool :=
  decide (1 ≤ wElemCount w ∧ wElemCount w ≤ 4096 ∧ wElemBase w + wElemCount w ≤ 2 ^ 36)

/-- Check 6 of R116: the event code of the first fault, 0 for none. -/
def waybillFault (w : BitVec 256) : Nat :=
  if wVer w ≠ 1 then evVersion
  else if 2 ≤ wKind w then evMismatch
  else if !rangeOk w then evMismatch
  else 0

/-- The FMT rule of R118. -/
def fmtAgrees (w : BitVec 256) (e : Entry) : Bool :=
  if wKind w = 0 then decide (wFmt w = eFmtIn e) else decide (wFmt w = if eOrdered e then 0 else fmtPsw)

/-- The ELEM_BASE and ELEM_COUNT that a coach has recorded match a waybill's. -/
def Coach.rangeAgrees (x : Coach) (w : BitVec 256) : Bool := decide (x.elemBase = wElemBase w ∧ x.elemCount = wElemCount w)

/-- The five recorded fields match bit for bit (R118). -/
def Coach.fieldsAgree (x : Coach) (w : BitVec 256) : Bool :=
  x.rangeAgrees w && decide (x.seedRef = wSeedRef w) && x.ovfMode == wOvf w && decide (x.postscale = wPostscale w)

/-- What an express or an ordered-mode coach does not take from any contribution (R156, R98): the event code, 0 for
none. -/
def Coach.modeFault (x : Coach) (w : BitVec 256) : Nat :=
  if x.express && decide (wKind w = 0 ∧ wFrames w ≠ 0) then evMismatch
  else if eOrdered x.ent && !orderedFmt (wFmt w) then evOrderFmt
  else 0

/-- Check 9 of R116 for a contribution of the coach's own step (R118, R156, R98): the event code, 0 for none. The field
rules of R118 are tried before the ordered-mode format of R98; the manual gives no order. DESIGN CHOICE, log 141. -/
def Coach.fieldFault (x : Coach) (w : BitVec 256) : Nat :=
  if !fmtAgrees w x.ent then evMismatch
  else if x.recorded && !(if x.provisional then x.rangeAgrees w else x.fieldsAgree w) then evMismatch
  else x.modeFault w

/-- Record a waybill's fields in a coach (R118): a carried contribution records provisionally, and only while nothing is
recorded. -/
def Coach.recordFields (x : Coach) (w : BitVec 256) (carried : Bool) : Coach :=
  if x.recorded && (carried || !x.provisional) then x
  else { x with
    recorded := true, provisional := carried, elemBase := wElemBase w, elemCount := wElemCount w
    seedRef := wSeedRef w, ovfMode := wOvf w, postscale := wPostscale w, hint := wHint w }

/-! Slots (R111, R117, R181) -/

/-- The slot that holds a key, if any (R111). -/
def Chip.keySlot (c : Chip) (d l e k : Nat) (s : W32) : Option Nat :=
  (c.slotsWhere d (fun x => decide (x.livery = l ∧ x.entry = e ∧ x.chunk = k) &&
    decide (x.step.toNat % 256 = s.toNat % 256))).head?

/-- The express reservation of a coach die (R181). -/
def Chip.expReserve (c : Chip) (d : Nat) : Nat := min 1024 (c.field pgTtb (0x1340 + 4 * d) 0 11)

/-- The lowest FREE slot that a coach of a kind may take (R181). -/
def Chip.freeSlotFor (c : Chip) (d : Nat) (express : Bool) : Option Nat :=
  let n := (c.slotsWhere d (fun x => x.express == express)).length
  if n < (if express then c.expReserve d else 1024 - c.expReserve d) then
    (List.range 1024).find? (fun i => !(c.slot d i).live)
  else none

/-- The seeds of a livery as one number (R340). -/
def Chip.seedsOf (c : Chip) (l : Nat) : BitVec 1024 :=
  BitVec.ofNat 1024 ((List.range 16).foldl (fun n i => n + (Tbl.get 0 c.sec.seeds (l * 16 + i)).toNat * 2 ^ (64 * i)) 0)

/-- Whether a late mark is for a key and full step. -/
def LateMark.of (m : LateMark) (l e k : Nat) (s : W32) : Bool :=
  decide (m.livery = l ∧ m.entry = e ∧ m.chunk = k ∧ m.step = s)

/-- The contributors classed late for a key before its coach was created (R191). -/
def Chip.lateMarks (c : Chip) (d l e k : Nat) (s : W32) : BitVec 1024 :=
  ((c.cch d).lates.filter (fun m => m.of l e k s)).foldl (fun x m => putBit x m.lport true) 0

/-- Late marks that the coach of their key has taken over. -/
def Chip.dropLates (c : Chip) (d l e k : Nat) (s : W32) : Chip :=
  c.setCch d { c.cch d with lates := (c.cch d).lates.filter (fun m => !m.of l e k s) }

/-- Creation of a coach (R117): a FREE slot and ⌈n/64⌉ granules, or neither. It records the expected contributors, the
port of its PARTIAL output as the grid port map now stands (R161, R294), and the contributors classed late for it so
far (R191). The ordered-mode check of R96 follows. -/
def Chip.createCoach (c : Chip) (d l e k n : Nat) (s : W32) (sv : Served) : Option Nat × Chip :=
  match c.freeSlotFor d (eExpress sv.ent) with
  | none => (none, c)
  | some i =>
    match c.allocUnits (dieC d) plAcc l (ceilDiv n 64) with
    | (none, c) => (none, c)
    | (some us, c) =>
      let r := c.roleOf sv.ent k
      let ex := c.expectedOf sv.ent sv.bank r
      let x : Coach := { Coach.empty with
        phase := .folding, livery := l, entry := e, step := s, chunk := k, bank := sv.bank, ent := sv.ent, role := r
        express := eExpress sv.ent, late := c.lateFold sv.ent, seeds := c.seedsOf l, lastCause := (c.slot d i).lastCause
        td := sv.td, tc := sv.tc r, expected := ex.1, absent := ex.2, granules := us
        partialPort := (c.partialPeer sv.ent k r).bind (fun g => if gValid g then some (gPort0 g) else none)
        lateSet := c.lateMarks d l e k s }
      let c := ((c.setSlot d i x).dropLates d l e k s).bump (pgCch d) 0x1100
      if eOrdered sv.ent ∧ eFanin sv.ent ≠ ones (c.ttCset sv.bank (eCset sv.ent)) then
        (some i, c.abortCoach d i evOrderSig (some (pgCch d)))
      else (some i, c)

/-! Contributions (R106, R120) -/

/-- A frame of a contribution that arrives after its first (R106): none for a breach of the frame numbering. -/
def Contrib.addFrame (x : Contrib) (h : HeldFrame) : Option Contrib :=
  let y := { x with nextIdx := x.nextIdx + 1 }
  if x.broken ∨ h.tail ≠ 0 then some { y with broken := true }
  else if h.idx = x.nextIdx then some { y with held := x.held ++ [h] }
  else none

/-- A contribution as its first frame brings it. In ordered mode a PARTIAL's product is its value (R98). -/
def newContrib (p : Nat) (carried : Bool) (w : BitVec 256) (stamp : Nat) (ordered : Bool) (h : HeldFrame) : Contrib :=
  { lport := p, carried := carried, sentStep := wStep w, fmt := wFmt w
    prescale := if ordered ∧ wKind w = 1 then one32 else wPrescale w
    frames := wFrames w, stamp := stamp, nextIdx := 1, broken := false, held := [h], foldedFrames := 0, elems := 0
    escapes := [], escSeen := 0, payload := [], ordered := [] }

/-- A contribution whose frames have all arrived and folded. -/
def Contrib.complete (x : Contrib) : Bool := !x.broken && decide (x.foldedFrames = x.frames + 1)

/-- Release staging cells of frames that are discarded. -/
def Chip.dropStg (c : Chip) (d : Nat) (us : List Nat) : Chip := c.releaseUnits (dieC d) plStg us

/-- A layout fault (R62, R65): counted on the ACC page, and the coach aborts. -/
def Chip.layoutFault (c : Chip) (d i port : Nat) : Chip :=
  let n := c.field (pgAcc d) 0x1400 0 16
  (c.setField (pgAcc d) 0x1400 0 16 (n + 1)).abortCoach d i evPayload (some (pgAcc d)) port

/-- A PSW fault (R62, R65). -/
def Chip.pswFault (c : Chip) (d i port : Nat) : Chip :=
  let n := c.field (pgAcc d) 0x1400 16 16
  (c.setField (pgAcc d) 0x1400 16 16 (n + 1)).abortCoach d i evPsw (some (pgAcc d)) port

/-- Frames after the first join the contribution of (port, carried) in a slot, in arrival order (R106, R117): a tailboard
makes it broken, and a breach of the numbering aborts the coach. -/
def Chip.joinFrames (c : Chip) (d i p : Nat) (carried : Bool) : List HeldFrame → Chip
  | [] => c
  | h :: hs =>
    let x := c.slot d i
    let mine (y : Contrib) : Bool := decide (y.lport = p) && y.carried == carried
    match x.contribs.find? mine with
    | none => c.dropStg d ((h :: hs).flatMap (·.stg))
    | some y =>
      if !x.folds then c.dropStg d ((h :: hs).flatMap (·.stg))
      else match y.addFrame h with
        | none => (c.layoutFault d i p).dropStg d ((h :: hs).flatMap (·.stg))
        | some y' =>
          let c := c.setSlot d i { x with contribs := x.contribs.map (fun z => if mine z then y' else z) }
          (if y'.broken then c.dropStg d h.stg else c).joinFrames d i p carried hs

/-- A contribution is admitted to a coach with the frames that have come (R116 checks 8 and 9, R118 to R120). One that is
carried meets here the rules that hold for every contribution of the coach (R156, R98). -/
def Chip.attach (c : Chip) (d i p : Nat) (carried : Bool) (w : BitVec 256) (stamp : Nat) (fs : List HeldFrame) : Chip :=
  let x := c.slot d i
  match fs with
  | [] => c
  | h :: hs =>
    if carried && decide (x.modeFault w ≠ 0) then
      (c.abortCoach d i (x.modeFault w) (some (pgCch d)) p).dropStg d (fs.flatMap (·.stg))
    else
    let x := x.recordFields w carried
    let y := newContrib p carried w stamp (eOrdered x.ent) h
    let x := if carried then { x with carriedSet := putBit x.carriedSet p true, carriedAny := true, contribs := x.contribs ++ [y] }
      else { x with admitted := putBit x.admitted p true, contribs := x.contribs ++ [y] }
    (c.setSlot d i x).joinFrames d i p carried hs

/-! Waiting for creation (R117) -/

def Chip.addWaiting (c : Chip) (d : Nat) (x : Waiting) : Chip :=
  (c.setCch d { c.cch d with waiting := (c.cch d).waiting ++ [x] }).bump (pgCch d) 0x1128

/-! Late contributions (R123, R128, R144) -/

/-- The REASON of R189 for a late contribution, 0 when it is carried: the conditions of R128 in order; `sv1` serves
step s + 1. R128 names no condition on VER and KIND, which check 6 of R116 would have met: the model has none, and the
FMT rule takes every KIND but CONTRIB as PARTIAL. DESIGN CHOICE, log 143. -/
def Chip.lateReason (c : Chip) (d p : Nat) (w : BitVec 256) (stamp : Nat) (ent : Entry) (sv1 : Option Served) : Nat :=
  let s1 := wStep w + 1
  if opCopying (eOp ent) then 9
  else if !eLateAct ent then 1
  else match sv1 with
    | none => 2
    | some v =>
      if eLiv v.ent ≠ wLiv w then 2
      else
        let slot := c.keySlot d (wLiv w) (wEntry w) (wChunk w) s1
        let x := match slot with | some i => c.slot d i | none => Coach.empty
        let r := c.roleOf v.ent (wChunk w)
        let expected := if slot.isSome ∧ x.step = s1 then x.expected else (c.expectedOf v.ent v.bank r).1
        if !expected.getLsbD p then 3
        else if coachDieOf v.ent (wChunk w) ≠ d then 10
        else if v.tc r ≤ (stamp : Int) then 4
        else if c.hasMark d (wLiv w) (wEntry w) s1 then 5
        else if slot.isSome ∧ (x.step ≠ s1 ∨ x.phase ≠ .folding) then 6
        else if slot.isSome ∧ x.carriedSet.getLsbD p then 7
        else if !fmtAgrees w v.ent ∨ !rangeOk w ∨ (x.recorded ∧ !x.rangeAgrees w) then 8
        else 0

/-- Whether a note is for the key and full step of a waybill. -/
def LateNote.of (n : LateNote) (w : BitVec 256) : Bool :=
  decide (n.livery = wLiv w ∧ n.entry = wEntry w ∧ n.step = wStep w ∧ n.chunk = wChunk w)

/-- Mark a contributor as classed late for the coach of its step (R191): on the coach, on the note of one that has left
its slot, or, until `td`, for one that is still to be created. -/
def Chip.noteLate (c : Chip) (d p : Nat) (w : BitVec 256) (td : Int) : Chip :=
  let y := c.cch d
  let here := (c.keySlot d (wLiv w) (wEntry w) (wChunk w) (wStep w)).filter (fun i => decide ((c.slot d i).step = wStep w))
  match here with
  | some i => c.setSlot d i { c.slot d i with lateSet := putBit (c.slot d i).lateSet p true }
  | none =>
    if y.notes.any (fun n => n.of w) then
      c.setCch d { y with notes := y.notes.map (fun n => if n.of w then { n with late := putBit n.late p true } else n) }
    else c.setCch d { y with lates := y.lates ++ [⟨wLiv w, wEntry w, wStep w, wChunk w, p, td⟩] }

/-- A late first frame is carried or dropped, with its ledger record (R128, R144). -/
def Chip.lateFrame (c : Chip) (d p : Nat) (w : BitVec 256) (stamp : Nat) (sv : Served) (h : HeldFrame) : Chip :=
  let s1 := wStep w + 1
  let sv1 := c.serving (wLiv w) (wEntry w) s1
  let reason := c.lateReason d p w stamp sv.ent sv1
  let c := ((c.bump (pgCch d) 0x1120).noteLate d p w sv.td).ledgerWrite d w p reason stamp
  match reason, sv1 with
  | 0, some v =>
    match c.keySlot d (wLiv w) (wEntry w) (wChunk w) s1 with
    | some i => c.attach d i p true w stamp [h]
    | none =>
      match c.createCoach d (wLiv w) (wEntry w) (wChunk w) (wElemCount w) s1 v with
      | (some i, c) => if (c.slot d i).folds then c.attach d i p true w stamp [h] else c.dropStg d h.stg
      | (none, c) => c.addWaiting d ⟨p, w, stamp, s1, true, v, v.td, [h]⟩
  | _, _ => c.dropStg d h.stg

/-! Admission (R111, R112, R116) -/

/-- A duplicate (R119, R143). -/
def Chip.duplicate (c : Chip) (d p : Nat) (w : BitVec 256) : Chip :=
  (c.bump (pgCch d) 0x110C).raise (evC (pgCch d) 0x020E (dieC d) (wLiv w) (wEntry w) (wStep w) (wChunk w) p)

/-- Checks 8 and 9 of R116 and admission, on the coach of the frame's own step (R118, R119, R123, R127). A frame that
meets an ABORTING coach, whose mark has been evicted (R131), is discarded and counted nowhere. DESIGN CHOICE, log 142. -/
def Chip.admitTo (c : Chip) (d i p : Nat) (w : BitVec 256) (stamp : Nat) (sv : Served) (fs : List HeldFrame) : Chip :=
  let x := c.slot d i
  let drop (c : Chip) : Chip := c.dropStg d (fs.flatMap (·.stg))
  let dup := x.admitted.getLsbD p || (opCopying (eOp x.ent) && decide (x.admitted ≠ 0))
  match x.phase with
  | .folding | .sealed =>
    if dup then drop (c.duplicate d p w)
    else if x.fieldFault w ≠ 0 then drop (c.abortCoach d i (x.fieldFault w) (some (pgCch d)) p)
    else c.attach d i p false w stamp fs
  | .packing | .closed =>
    if dup then drop (c.duplicate d p w)
    else match fs with
      | h :: hs => (c.lateFrame d p w stamp sv h).dropStg d (hs.flatMap (·.stg))
      | [] => c
  | _ => drop c

/-- An abort of a collective that has no coach here (R486, R117, R416). -/
def Chip.abortNoCoach (c : Chip) (d : Nat) (sv : Served) (l e : Nat) (s : W32) (k cause : Nat) (port : Nat := 0x3FF) : Chip :=
  (c.raise (evC (pgCch d) cause (dieC d) l e s k port)).originAbort (some d) sv.ent sv.bank sv.td l e s k cause

/-- Checks 7 to 9 of R116, with creation (R117). -/
def Chip.admitFresh (c : Chip) (d p : Nat) (w : BitVec 256) (stamp : Nat) (sv : Served) (h : HeldFrame) : Chip :=
  match c.keySlot d (wLiv w) (wEntry w) (wChunk w) (wStep w) with
  | some i =>
    if (c.slot d i).step = wStep w then c.admitTo d i p w stamp sv [h]
    else (((c.bump (pgCch d) 0x111C).raise
      (evC (pgCch d) 0x020C (dieC d) (wLiv w) (wEntry w) (wStep w) (wChunk w) p))).dropStg d h.stg
  | none =>
    match c.createCoach d (wLiv w) (wEntry w) (wChunk w) (wElemCount w) (wStep w) sv with
    | (some i, c) => c.admitTo d i p w stamp sv [h]
    | (none, c) => c.addWaiting d ⟨p, w, stamp, wStep w, false, sv, sv.td, [h]⟩

/-- A first frame fails check 6 of R116 (R486): the coach that holds its key aborts. With no such coach, or one that is
CLOSED and that R134 lets no such abort move, the collective aborts without a coach of its own. -/
def Chip.waybillAbort (c : Chip) (d p : Nat) (w : BitVec 256) (sv : Served) (slot : Option Nat) : Chip :=
  match slot.filter (fun i => decide ((c.slot d i).phase ≠ .closed)) with
  | some i => c.abortCoach d i (waybillFault w) (some (pgCch d)) p
  | none => c.abortNoCoach d sv (wLiv w) (wEntry w) (wStep w) (wChunk w) (waybillFault w) p

/-- Checks 3 to 9 of R116 at the coach die. The timing class follows the stamp alone (R112): a frame stamped in time is
never stale, whenever it comes. -/
def Chip.admitFirst (c : Chip) (d p : Nat) (w : BitVec 256) (stamp : Nat) (sv : Served) (h : HeldFrame) : Chip :=
  let l := wLiv w
  let e := wEntry w
  let drop (c : Chip) : Chip := c.dropStg d h.stg
  let r := c.roleOf sv.ent (wChunk w)
  let slot := match c.keySlot d l e (wChunk w) (wStep w) with
    | some i => if (c.slot d i).step = wStep w then some i else none
    | none => none
  let expected := match slot with | some i => (c.slot d i).expected | none => (c.expectedOf sv.ent sv.bank r).1
  if c.hasMark d l e (wStep w) then drop (c.bump (pgCch d) 0x1124)
  else if (stamp : Int) < sv.t - (sv.cyc * slotUnits : Nat) then drop (c.bump (pgCch d) 0x1118)
  else if c.lateFold sv.ent ∧ sv.tc r ≤ (stamp : Int) then c.lateFrame d p w stamp sv h
  else if !c.lateFold sv.ent ∧ sv.td ≤ (stamp : Int) then drop (c.bump (pgCch d) 0x1114)
  else if !expected.getLsbD p then
    drop ((c.bump (pgCch d) 0x1110).raise (evC (pgCch d) 0x020D (dieC d) l e (wStep w) (wChunk w) p))
  else if waybillFault w ≠ 0 then
    drop (c.waybillAbort d p w sv slot)
  else c.admitFresh d p w stamp sv h

/-! Frames at the coach die (R106) -/

/-- A first frame reaches its coach die with its staging cells; a tailboard is discarded (R277). -/
def Chip.coachFirst (c : Chip) (d : Nat) (m : Msg) (us : List Nat) : Chip :=
  let w : BitVec 256 := bvBE 256 (m.body.take 32)
  if m.tail ≠ 0 then c.dropStg d us
  else match c.serving (wLiv w) (wEntry w) (wStep w) with
    | none => c.routeMiss.dropStg d us
    | some sv => c.admitFirst d m.inPort w m.stamp sv ⟨true, 0, m.body.drop 32, 0, us⟩

/-- Whether a contribution is matched by a continuation and still being admitted (R106). -/
def Contrib.takes (x : Contrib) (p stepLo : Nat) : Bool :=
  decide (x.lport = p ∧ x.sentStep.toNat % 256 = stepLo ∧ x.nextIdx ≤ x.frames)

/-- Whether the contribution of a waiting first frame is matched and still being admitted (R106, R117). -/
def Waiting.takes (x : Waiting) (p l e k stepLo : Nat) : Bool :=
  decide (x.lport = p ∧ wLiv x.wb = l ∧ wEntry x.wb = e ∧ wChunk x.wb = k) &&
    decide ((wStep x.wb).toNat % 256 = stepLo ∧ x.frames.length ≤ wFrames x.wb)

/-- A continuation reaches its coach die (R106): it joins the contribution being admitted, waits behind a first frame
that waits, or is an orphan. -/
def Chip.coachCont (c : Chip) (d : Nat) (m : Msg) (us : List Nat) : Chip :=
  let w : W64 := bvBE 64 (m.body.take 8)
  let h : HeldFrame := ⟨false, ctIdx w, m.body.drop 8, m.tail, us⟩
  let p := m.inPort
  let hit := (c.slotsWhere d (fun x => x.folds && decide (x.livery = ctLiv w ∧ x.entry = ctEntry w ∧ x.chunk = ctChunk w))).findSome?
    (fun i => ((c.slot d i).contribs.find? (fun y => y.takes p (ctStepLo w))).map (fun y => (i, y.carried)))
  match hit with
  | some (i, carried) => c.joinFrames d i p carried [h]
  | none =>
    let mine (x : Waiting) : Bool := x.takes p (ctLiv w) (ctEntry w) (ctChunk w) (ctStepLo w)
    if (c.cch d).waiting.any mine then
      let k := (c.cch d).waiting.findIdx mine
      c.setCch d { c.cch d with waiting := updAt (fun x => { x with frames := x.frames ++ [h] }) k (c.cch d).waiting }
    else (c.bump (pgCch d) 0x112C).dropStg d us

/-! Dispatch to a coach die (R109, R110, R206 to R208) -/

/-- Livery, entry, chunk and STEP[7:0] of a Collective frame: its key (R108). -/
def Msg.key (m : Msg) : Nat × Nat × Nat × Nat :=
  if hSub m.hdr = 0 then
    let w : BitVec 256 := bvBE 256 (m.body.take 32)
    (wLiv w, wEntry w, wChunk w, (wStep w).toNat % 256)
  else
    let w : W64 := bvBE 64 (m.body.take 8)
    (ctLiv w, ctEntry w, ctChunk w, ctStepLo w)

/-- A Collective frame is diverted to cells (R208), or discarded and counted. -/
def Chip.divert (c : Chip) (d : Nat) (m : Msg) : Chip :=
  let pd := portDie m.inPort
  match c.holdWhole m m.inPort 1 with
  | (some m, c) =>
    { c.bump (pgPolP pd) 0x110C with traf := { c.traf with diverted := c.traf.diverted ++ [⟨pd, d, m.inPort, m, none⟩] } }
  | (none, c) => c

/-- Whether an earlier frame of the same contribution is diverted. -/
def Chip.divertedKey (c : Chip) (d : Nat) (m : Msg) : Bool :=
  c.traf.diverted.any (fun x => decide (x.dest = d ∧ x.lport = m.inPort) && decide (x.msg.key = m.key))

/-- A frame is at its coach die with its staging cells (R199). -/
def Chip.atCoach (c : Chip) (d : Nat) (m : Msg) (us : List Nat) : Chip :=
  if hSub m.hdr = 0 then c.coachFirst d m us else c.coachCont d m us

/-- A Collective frame crosses to its coach die, or is diverted (R201, R208). -/
def Chip.toCoach (c : Chip) (d : Nat) (m : Msg) : Chip :=
  let l := hLiv m.hdr
  let lv := c.knownLevel (portDie m.inPort) d l
  if 3 ≤ lv ∨ (hSub m.hdr = 0 ∧ 2 ≤ lv) ∨ (hSub m.hdr = 1 ∧ c.divertedKey d m) then c.divert d m
  else match c.allocUnits (dieC d) plStg l (cellsFor m.len) with
    | (none, c) => c.divert d m
    | (some us, c) => (c.cross m (256 + d) m.inPort).2.atCoach d m us

def Chip.openRecs (c : Chip) (p : Nat) : List OpenRec := Tbl.get [] c.coach.openRecs p
def Chip.setOpenRecs (c : Chip) (p : Nat) (rs : List OpenRec) : Chip :=
  { c with coach := { c.coach with openRecs := Tbl.set [] c.coach.openRecs p rs } }

def OpenRec.matches (r : OpenRec) (l e k stepLo : Nat) : Bool :=
  decide (r.livery = l ∧ r.entry = e ∧ r.chunk = k) && decide (r.step.toNat % 256 = stepLo)

/-- The record with the earliest Td. -/
def earliestRec : List OpenRec → Option OpenRec
  | [] => none
  | r :: rs => match earliestRec rs with
    | none => some r
    | some k => if k.td < r.td then some k else some r

/-- The open-contribution record of a first frame with FRAMES not 0 (R110). -/
def Chip.openRecord (c : Chip) (p : Nat) (w : BitVec 256) (d : Nat) (sv : Served) : Chip :=
  let rs := c.openRecs p
  let hit (r : OpenRec) : Bool := r.matches (wLiv w) (wEntry w) (wChunk w) ((wStep w).toNat % 256)
  let r : OpenRec := ⟨wLiv w, wEntry w, wStep w, wChunk w, wFrames w, d, eLiv sv.ent, 0, sv.td⟩
  if wFrames w = 0 then c
  else match rs.find? hit with
    | some o => if o.step = wStep w then c else c.setOpenRecs p (rs.map (fun x => if hit x then r else x))
    | none =>
      if rs.length < 64 then c.setOpenRecs p (rs ++ [r])
      else match earliestRec rs with
        | some o => c.setOpenRecs p (dropFirst (fun x => decide (x = o)) rs ++ [r])
        | none => c

/-- The power hint of a first frame (R390): LEVEL 0 is no hint. -/
def Chip.takeHint (c : Chip) (w : BitVec 256) (d stamp : Nat) : Chip :=
  let level := wHint w / 32
  if c.flag pgPwr 0x1000 1 ∧ level ≠ 0 then
    let start := stamp + usUnits (wHint w % 32)
    let h : Hint := ⟨level, start, start + usUnits (max 1 (c.field pgPwr 0x1000 2 8))⟩
    { c.bump pgPwr 0x1114 with coach := { c.coach with hints := Tbl.set [] c.coach.hints d (Tbl.get [] c.coach.hints d ++ [h]) } }
  else c

/-- COLLECTIVE_FIRST_FRAME (R109, R110, R116). A frame whose tail check fails meets steps 5 and 6 of R21 by its head, and
is then replayed by the link. -/
def Chip.collectiveFirst (c : Chip) (p : Nat) (f : Frame) (age : Nat) : Chip :=
  c.receive p f (fun h => decide (hClass h = clsCollective ∧ hSub h = 0)) (fun t c =>
    let w := waybillOf f
    let sv := c.serving (wLiv w) (wEntry w) (wStep w)
    let badWb := decide (wLiv w ≠ hLiv f.hdr) || (match sv with | some v => decide (eLiv v.ent ≠ wLiv w) | none => false)
    c.step5 p f.hdr f.body badWb (fun c =>
      match sv, t with
      | none, _ => c.routeMiss
      | some _, .bad _ => c
      | some v, t =>
        let d := coachDieOf v.ent (wChunk w)
        let stamp := c.stampOf age
        let c := (c.openRecord p w d v).takeHint w d stamp
        if !c.cdieUp d then
          c.originAbort none v.ent v.bank v.td (wLiv w) (wEntry w) (wStep w) (wChunk w) evDieFailed
        else
          let m := { Msg.arrived p f.hdr f.body stamp with tail := t.code }
          (c.mirrorIn (decide (t ≠ .good)) none m).toCoach d m))

/-- CONTINUATION_FRAME (R106, R110). -/
def Chip.continuation (c : Chip) (p : Nat) (f : Frame) (age : Nat) : Chip :=
  c.receive p f (fun h => decide (hClass h = clsCollective ∧ hSub h = 1)) (fun t c =>
    let w := contOf f
    let hit (r : OpenRec) : Bool := r.matches (ctLiv w) (ctEntry w) (ctChunk w) (ctStepLo w)
    let r := (c.openRecs p).find? hit
    let badWb := decide (ctLiv w ≠ hLiv f.hdr) || (match r with | some o => decide (o.entLivery ≠ ctLiv w) | none => false)
    c.step5 p f.hdr f.body badWb (fun c =>
      match r, t with
      | none, _ => c.routeMiss
      | some _, .bad _ => c
      | some o, t =>
        let rs := if o.frames ≤ o.sent + 1 then dropFirst hit (c.openRecs p)
          else (c.openRecs p).map (fun x => if hit x then { x with sent := x.sent + 1 } else x)
        let c := c.setOpenRecs p rs
        if !c.cdieUp o.cdie then c
        else
          let m := { Msg.arrived p f.hdr f.body (c.stampOf age) with tail := t.code }
          (c.mirrorIn (decide (t ≠ .good)) none m).toCoach o.cdie m))

/-- DIVERTED_FRAME_DISPATCH (R208): the oldest diverted frame of a livery for a coach die whose level has fallen, and
which follows no earlier diverted frame of its contribution, as its cells are read (R197, R212). -/
def Chip.divertedDispatch (c : Chip) (pd d l : Nat) (rd : CellRead) : Chip :=
  let lv := c.knownLevel pd d l
  let rec pick : List Diverted → List Diverted → Option Diverted
    | _, [] => none
    | seen, x :: xs =>
      if x.pdie = pd ∧ x.dest = d ∧ hLiv x.msg.hdr = l ∧ lv < (if hSub x.msg.hdr = 0 then 2 else 3) ∧
          !seen.any (fun y => decide (y.lport = x.lport ∧ y.dest = x.dest) && decide (y.msg.key = x.msg.key)) then some x
      else pick (seen ++ [x]) xs
  match pick [] c.traf.diverted with
  | none => c
  | some x =>
    match c.allocUnits (dieC d) plStg l (cellsFor x.msg.len) with
    | (none, c) => c
    | (some us, c) =>
      let c := { c with traf := { c.traf with diverted := dropFirst (fun y => decide (y = x)) c.traf.diverted } }
      let c := (c.cross x.msg (256 + d) x.lport).2
      match c.readCells x.msg rd with
      | (none, c) => (c.dropCells x.msg.cells).dropStg d us
      | (some m, c) => (c.dropCells x.msg.cells).atCoach d { m with cells := [] } us

/-! Creation retried (R117) -/

/-- COACH_CREATE_RETRY: the k-th waiting first frame of a coach die finds a slot that now holds its key, or creates its
coach, or goes on waiting. A carried contribution that finds no FOLDING coach it may join is dropped (R128). A frame that
already waited when its livery was disabled still creates its coach. DESIGN CHOICE, log 146. -/
def Chip.retryCreate (c : Chip) (d k : Nat) : Chip :=
  match (c.cch d).waiting[k]? with
  | none => c
  | some x =>
    let w := x.wb
    let n := wElemCount w
    let stg := x.frames.flatMap (·.stg)
    let gone (c : Chip) : Chip := c.setCch d { c.cch d with waiting := dropAt k (c.cch d).waiting }
    let join (c : Chip) (i : Nat) : Chip :=
      if x.carried then
        let y := c.slot d i
        if y.phase = .folding ∧ y.step = x.target ∧ !y.carriedSet.getLsbD x.lport ∧ (!y.recorded ∨ y.rangeAgrees w) then
          c.attach d i x.lport true w x.stamp x.frames
        else c.dropStg d stg
      else if (c.slot d i).step = x.target then c.admitTo d i x.lport w x.stamp x.sv x.frames
      else ((c.bump (pgCch d) 0x111C).raise
        (evC (pgCch d) 0x020C (dieC d) (wLiv w) (wEntry w) (wStep w) (wChunk w) x.lport)).dropStg d stg
    if x.td ≤ (c.time.now : Int) then c
    else match c.keySlot d (wLiv w) (wEntry w) (wChunk w) x.target with
      | some i => join (gone c) i
      | none =>
        match c.createCoach d (wLiv w) (wEntry w) (wChunk w) n x.target x.sv with
        | (some i, c) => join (gone c) i
        | (none, c) => c

/-! Folding (R62, R69 to R76, R97, R120, R121, R210) -/

/-- A fold of one term, and what follows it: products serialised, overflows, sidings taken, requests starved, wide
records folded (R66), words that both ports wrote in one cycle (R196); `window` when the coach must abort because its
window is left (R76). `portA` names the elements whose word port A writes in the cycle of a fold's write. -/
structure FoldSt where
  x : Coach
  portA : List Nat
  serial : Nat
  sumOvf : Nat
  sided : Nat
  starved : Nat
  wides : Nat
  clashes : List Nat
  window : Bool
  deriving DecidableEq, Repr

/-- Fold one term into an accumulator (R72, R74, R75, R121), read on port A and written on port B (R196): it waits behind a held term of its element; a value that
leaves the window needs a siding, or ends an express coach. -/
def foldTerm (d : Nat) (q : FoldSt × Chip) (t : HeldTerm) : FoldSt × Chip :=
  let st := q.1
  let c := q.2
  let x := st.x
  if st.window then q
  else if x.holdq.any (fun h => decide (h.elem = t.elem)) then
    ({ st with x := { x with holdq := x.holdq ++ [t] }, serial := st.serial + 1 }, c)
  else
    let a := Tbl.get Acc.zero x.accs t.elem
    let b := a.fold t.term
    let done (b : Acc) (sided : Nat) : FoldSt :=
      let w := portCycle Acc.zero x.accs (if t.elem ∈ st.portA then .write t.elem a else .idle) (.write t.elem b)
      { st with x := { x with accs := w.mem }, portA := dropFirst (fun k => decide (k = t.elem)) st.portA
                sided := st.sided + sided, sumOvf := st.sumOvf + (b.ovf && !a.ovf).toNat
                wides := st.wides + t.wide.toNat, clashes := if w.collided then st.clashes ++ [t.elem] else st.clashes }
    if b.siding.isSome ∨ b.fits then (done b 0, c)
    else if x.express then ({ st with window := true }, c)
    else match c.allocUnits (dieC d) plSide x.livery 1 with
      | (some (u :: _), c) => (done { b with siding := some u } 1, c)
      | (_, c) => ({ st with x := { x with holdq := x.holdq ++ [t] }, starved := st.starved + 1 }, c)

/-- The terms that a frame brings (R59, R69 to R71, R120): the elements from `lo` up to `hi` of the payload read as one
number, and, for PSW, the escaped elements whose wide records are new, which are marked; with the number of products
rounded (R69). -/
def newTerms (fmt n x lo hi escLo escHi : Nat) (p : W32) : List (Nat × Bool × Term) × Nat :=
  if fmt = fmtPsw then
    let recs := ((List.range hi).drop lo).filter (fun k => !pswEsc (pswRec x k))
    let wides := ((List.range escHi).drop escLo).map (fun j => pswWideRec x n j)
    (recs.map (fun k => (k, false, pswTerm (pswDecode (pswRec x k)))) ++
      wides.map (fun w => (w / 2 ^ 324 % 2 ^ 12, true, pswTerm (pswWide w))), 0)
  else
    let ts := ((List.range hi).drop lo).map (fun k => (k, product (elemOf fmt x k) p))
    (ts.map (fun t => (t.1, false, t.2.1)), (ts.filter (fun t => t.2.2)).length)

/-- Elements, and wide records, that lie whole in a prefix of a payload. -/
def spanOf (fmt n len : Nat) : Nat × Nat :=
  if fmt = fmtPsw then (min n (len / 16), (len - (16 * n + 16)) / 48) else (elemsIn fmt n len, 0)

/-- Both ports of a macro have written one accumulator of a granule in one cycle (R196): counted, and reported at most
once per millisecond per die. -/
def Chip.collide (c : Chip) (die granule k : Nat) : Chip :=
  (c.bump (pgMem die) 0x1100).raiseLim (evP (pgMem die) 0x0401 die (unitBank plAcc granule) (granule % 1024 * 64 + k)) die
    (usUnits 1000)

/-- The held frame of a contribution folds (R120), once its layout has passed (R62). -/
def Chip.foldFrame (c : Chip) (d i : Nat) (y : Contrib) (h : HeldFrame) (serialised : Nat) (rep : FoldReport) : Chip :=
  let x := c.slot d i
  let n := x.elemCount
  let payload := y.payload ++ h.payload
  let sp := spanOf y.fmt n payload.length
  let c := c.accessBanks (dieC d) x.livery (h.stg.map (unitBank plStg) ++ x.storeBanks y.elems sp.1) rep.corrected rep.stalled
  match layoutOf y.fmt n payload (decide (h.idx = y.frames)) with
  | .fault => c.layoutFault d i y.lport
  | .pswFault => c.pswFault d i y.lport
  | .ok =>
    let v := natOfLE payload
    let ordered := eOrdered x.ent
    let ts := if ordered then ([], 0) else newTerms y.fmt n v y.elems sp.1 y.escSeen sp.2 y.prescale
    let codes := if ordered then
        ((List.range sp.1).drop y.elems).foldl (fun m k => Tbl.set 0 m k (f32Mul (elemF32 y.fmt v k) y.prescale)) y.ordered
      else y.ordered
    let y' := { y with
      held := y.held.drop 1, foldedFrames := y.foldedFrames + 1, elems := sp.1, escSeen := sp.2
      payload := payload, ordered := codes }
    let mine (z : Contrib) : Bool := decide (z.lport = y.lport) && z.carried == y.carried
    let x := { x with contribs := x.contribs.map (fun z => if mine z then y' else z) }
    let r := ts.1.foldl (fun q t => foldTerm d q ⟨t.1, y.lport, t.2.1, t.2.2⟩) (⟨x, rep.collided.map (·.val), 0, 0, 0, 0, 0, [], false⟩, c)
    let st := r.1
    let c := (r.2.setSlot d i st.x).dropStg d h.stg
    let products := if ordered then sp.1 - y.elems else ts.1.length
    let c := c.bumpN (pgCch d) 0x1130 (max st.serial (min serialised products))
    let c := c.active (dieC d) actLane 0 x.livery (if fmtWidth y.fmt ≤ 6 then ceilDiv products 2 else products)
    let c := ((((c.bumpN (pgAcc d) 0x1408 st.wides).bumpN (pgAcc d) 0x1420 ts.2).bumpN (pgAcc d) 0x141C
      st.sumOvf).bumpN (pgAcc d) 0x1424 st.sided).bumpN (pgPolC d) 0x1104 st.starved
    let c := forAll st.clashes c (fun k c => c.collide (dieC d) (x.granules.getD (k / 64) 0) (k % 64))
    if st.window then c.abortCoach d i evWindow (some (pgCch d)) else c

/-! Lane clusters (R414, R415) -/

def Chip.lanesAt (c : Chip) (d : Nat) : LaneDie := Tbl.get LaneDie.reset c.flt.lanes d
def Chip.setLanes (c : Chip) (d : Nat) (x : LaneDie) : Chip :=
  { c with flt := { c.flt with lanes := Tbl.set LaneDie.reset c.flt.lanes d x } }

/-- The fenced active clusters not yet replaced (k of R384): 0 to 79 and the spares mapped in are active. -/
def LaneDie.waiting (x : LaneDie) : List Nat :=
  (List.range 84).filter (fun k =>
    (decide (k < 80) || x.mapped.getLsbD k) && x.fenced.getLsbD k && !x.replaced.getLsbD k)

/-- The lowest spare that is neither tested nor fenced. -/
def LaneDie.spare (x : LaneDie) : Option Nat :=
  [80, 81, 82, 83].find? (fun k => !x.tested.getLsbD k && !x.fenced.getLsbD k)

/-- A repair of a cluster starts (R415): with no spare left, the capacity stays reduced. -/
def Chip.startRepair (c : Chip) (d k : Nat) : Chip :=
  let x := c.lanesAt d
  if x.target.isSome ∨ k ∉ x.waiting then c
  else match x.spare with
    | some _ => c.setLanes d { x with target := some k }
    | none => c.raise (evP pgFlt 0x0108 (dieC d) k)

/-- With AUTO_REPAIR = 1, the lowest cluster that waits is repaired. -/
def Chip.autoRepair (c : Chip) (d : Nat) : Chip :=
  match c.flag pgFlt 0x1010 0, (c.lanesAt d).waiting with
  | true, k :: _ => c.startRepair d k
  | _, _ => c

/-- A lane cluster is fenced (R414): no further operation is issued to it. -/
def Chip.laneFence (c : Chip) (d k : Nat) : Chip :=
  let x := c.lanesAt d
  if x.fenced.getLsbD k then c
  else (((c.setLanes d { x with fenced := putBit x.fenced k true })).raise (evP pgFlt evClusterFail (dieC d) k)).autoRepair d

/-- COLLECTIVE_FRAME_FOLD (R120): the next held frame of a contribution, and what the hardware reports of its fold: a
residue mismatch fences the cluster (R414), an uncorrectable error in the pools aborts the coach (R197). -/
def Chip.foldNext (c : Chip) (d i p : Nat) (carried : Bool) (serialised : Nat) (rep : FoldReport) : Chip :=
  let x := c.slot d i
  if !x.folds then c
  else match x.contribs.find? (fun y => decide (y.lport = p) && y.carried == carried) with
    | none => c
    | some y =>
      match y.held with
      | [] => c
      | h :: _ =>
        match rep.residue, rep.bad.filter (fun b => decide (b.1.toNat < 52)) with
        | some k, _ => (c.laneFence d k.val).abortCoach d i evClusterFail none p
        | none, some b =>
          (c.eccUncorr (dieC d) b.1.toNat b.2.toNat).abortCoach d i evEccUncorr none p
        | none, none => c.foldFrame d i y h serialised rep

/-- The order in which held terms of one element are applied: attachment, then logical port (R121). -/
def Chip.termBefore (c : Chip) (a b : HeldTerm) : Bool :=
  decide (attachOf c a.lport < attachOf c b.lport) || (decide (attachOf c a.lport = attachOf c b.lport) && decide (a.lport ≤ b.lport))

/-- A list in order, and one member put in its place after those that come before it or with it. -/
def insertBy {α : Type} (le : α → α → Bool) (x : α) : List α → List α
  | [] => [x]
  | y :: ys => if le y x then y :: insertBy le x ys else x :: y :: ys
def sortBy {α : Type} (le : α → α → Bool) (xs : List α) : List α := xs.foldl (fun ys x => insertBy le x ys) []

/-- SIDING_RETRY (R75, R210): the held term of an element is tried again, and the terms behind it follow once it has
folded. -/
def Chip.retrySiding (c : Chip) (d i k : Nat) : Chip :=
  let x := c.slot d i
  let mine (h : HeldTerm) : Bool := decide (h.elem = k)
  match x.holdq.filter mine with
  | [] => c
  | t :: ts =>
    if !x.folds then c
    else match c.allocUnits (dieC d) plSide x.livery 1 with
      | (some (u :: _), c) =>
        let a := Tbl.get Acc.zero x.accs k
        let b := { a.fold t.term with siding := some u }
        let rest := sortBy c.termBefore ts
        let b2 := rest.foldl (fun y h => y.fold h.term) b
        let x := { x with accs := Tbl.set Acc.zero x.accs k b2, holdq := x.holdq.filter (fun h => !mine h) }
        (((c.setSlot d i x).bump (pgAcc d) 0x1424).bumpN (pgAcc d) 0x141C (b2.ovf && !a.ovf).toNat).bumpN (pgAcc d) 0x1408
          ((t :: rest).filter (·.wide)).length
      | (_, c) => c

/-! Completion (R122, R143) -/

/-- Every expected contributor has been admitted; for a copying coach, one contribution (R143). -/
def Coach.allIn (x : Coach) : Bool :=
  if opCopying (eOp x.ent) then decide (x.admitted ≠ 0)
  else decide (x.absent = 0) && decide (x.expected &&& ~~~x.admitted = 0)

/-- Every admitted contribution has been folded completely. -/
def Coach.folded (x : Coach) : Bool := x.contribs.all Contrib.complete && x.holdq.isEmpty && !x.contribs.isEmpty

/-- The end of a coach's seal interval: 16 slots after Tc. -/
def Coach.sealEnd (x : Coach) : Int := x.tc + (16 * slotUnits : Nat)

/-- Whether a coach may enter PACKING (R122). -/
def Coach.mayPack (x : Coach) (now : Nat) : Bool :=
  x.folds && x.folded && !x.evaluated && decide ((now : Int) ≤ x.td) &&
    (x.allIn || (decide (x.phase = .sealed) && decide (x.sealEnd ≤ (now : Int))))

/-- COACH_FOLD_COMPLETE and the end of a seal interval (R122). -/
def Chip.tryPack (c : Chip) (d i : Nat) : Chip := if (c.slot d i).mayPack c.time.now then c.startPacking d i else c

/-- COACH_CUTOFF (R122): at Tc under late-fold, with a contributor not yet admitted. -/
def Chip.cutoff (c : Chip) (d i : Nat) : Chip :=
  let x := c.slot d i
  if x.phase = .folding ∧ x.late ∧ x.tc ≤ (c.time.now : Int) ∧ !x.allIn then c.setSlot d i { x with phase := .sealed } else c

/-! The deadline monitor (R184 to R186) -/

/-- Inside the corner (R30): PWR_CORNER_STAT. -/
def Chip.inCorner (c : Chip) : Bool := c.flag pgPwr 0x1008 0

/-- An abort that the monitor decides (R184, R186): counted, and captured when it is the first. -/
def Chip.monitorMiss (c : Chip) (d l e : Nat) (s : W32) (k cause phase admitted : Nat) : Chip :=
  let inside := c.inCorner
  let c := c.bump pgTtb 0x140C
  let c := if inside then c else c.bump pgTtb 0x1424
  if c.flag pgTtb 0x1500 0 then c
  else
    let c := c.setReg pgTtb 0x1500 (BitVec.ofNat 32 (1 + inside.toNat * 2 + phase * 2 ^ 2 + d * 2 ^ 5 + admitted * 2 ^ 9))
    let c := c.setReg pgTtb 0x1504 (BitVec.ofNat 32 cause)
    let c := c.setReg pgTtb 0x1508 (BitVec.ofNat 32 (k % 2 ^ 24 + s.toNat % 256 * 2 ^ 24))
    (c.setReg pgTtb 0x150C (BitVec.ofNat 32 (e + l * 2 ^ 16))).setReg pgTtb 0x1510 s

/-- The monitor meets one coach at its Td (R184, R185). -/
def Chip.monitorSlot (c : Chip) (d i : Nat) : Chip :=
  let x := c.slot d i
  if x.evaluated ∨ (c.time.now : Int) < x.td then c
  else
    let c := c.setSlot d i { x with evaluated := true }
    match x.phase with
    | .folding | .sealed =>
      let cause := if x.holdq.isEmpty then evDeadline else evStarved
      (c.monitorMiss d x.livery x.entry x.step x.chunk cause x.phase.code (ones x.admitted)).abortCoach d i cause
        (some (pgCch d))
    | .closed => c.freeSlot d i
    | .packing => c.packOverrun d i
    | _ => c

/-- The members of a list whose key no earlier member has. -/
def firstOfEach {α κ : Type} [DecidableEq κ] (f : α → κ) (xs : List α) : List α :=
  xs.foldl (fun ys x => if ys.any (fun y => decide (f y = f x)) then ys else ys ++ [x]) []

/-- A coach die and the first frames that wait there: their key and the step they would fold into. -/
def Waiting.key (x : Waiting) : Nat × Nat × Nat × W32 := (wLiv x.wb, wEntry x.wb, wChunk x.wb, x.target)

/-- A first frame still waiting at its Td (R117, R184): one abort for all that wait for one key. DESIGN CHOICE, log 150. -/
def Chip.monitorWaiting (c : Chip) (d : Nat) (x : Waiting) : Chip :=
  (c.monitorMiss d (wLiv x.wb) (wEntry x.wb) (wStep x.wb) (wChunk x.wb) evExhausted 0 0).abortNoCoach d x.sv (wLiv x.wb)
    (wEntry x.wb) x.target (wChunk x.wb) evExhausted x.lport

/-- The entry and step that a lateness record is for. -/
def LateNote.key (n : LateNote) : Nat × Nat × W32 := (n.livery, n.entry, n.step)

/-- What a coach in its slot gives to the lateness record of its step. -/
def Coach.note (x : Coach) : LateNote :=
  ⟨x.livery, x.entry, x.step, x.td, x.chunk, x.ent, x.expected, x.lateSet, x.arrivals⟩

/-- The lateness records of the steps whose Td has come (R190). -/
def Chip.monitorLateness (c : Chip) (d : Nat) (ns : List LateNote) : Chip :=
  forAll (firstOfEach LateNote.key ns) c (fun n c =>
    c.latenessSend d n.livery n.entry n.step n.ent
      ((ns.filter (fun y => decide (y.key = n.key))).map (fun y => ⟨y.expected, y.late, y.arrivals⟩)))

/-- DEADLINE_MONITOR: at a slot boundary, the monitor of a coach die meets everything whose Td has come (R184, R190). -/
def Chip.monitor (c : Chip) (d : Nat) : Chip :=
  let due (td : Int) : Bool := decide (td ≤ (c.time.now : Int))
  let y := c.cch d
  let slots := c.slotsWhere d (fun x => !x.evaluated && due x.td)
  let here := (slots.filter (fun i => eTelemEn (c.slot d i).ent)).map (fun i => (c.slot d i).note)
  let late := y.notes.filter (fun n => due n.td)
  let waits := y.waiting.filter (fun x => due x.td)
  let c := c.setCch d { y with
    notes := y.notes.filter (fun n => !due n.td), waiting := y.waiting.filter (fun x => !due x.td)
    lates := y.lates.filter (fun m => !due m.td) }
  let c := c.dropStg d (waits.flatMap (fun x => x.frames.flatMap (·.stg)))
  let c := forAll slots c (fun i c => c.monitorSlot d i)
  let c := forAll (firstOfEach Waiting.key waits) c (fun x c => c.monitorWaiting d x)
  c.monitorLateness d (late ++ here)

/-! Commands -/

/-- Whether a coach die of a working part is in service. -/
def Chip.cdieWorks (c : Chip) (d : Nat) : Bool := c.mainUp && c.cdieUp d

/-- The meaning of COLLECTIVE_FIRST_FRAME (R109, R110, R116). -/
def execCollectiveFirstFrame (p : LPort) (f : Frame) (age : Nat) (s : State) : Host.Outcome State Fault Refusal :=
  s.run fun c => c.collectiveFirst p.val f age
/-- The meaning of CONTINUATION_FRAME (R106, R110). -/
def execContinuationFrame (p : LPort) (f : Frame) (age : Nat) (s : State) : Host.Outcome State Fault Refusal :=
  s.run fun c => c.continuation p.val f age
/-- The meaning of COLLECTIVE_FRAME_FOLD (R120, R121, R197, R414). -/
def execCollectiveFrameFold (d : CDie) (slot : Slot) (p : LPort) (carried : Bool) (serialised : Nat) (rep : FoldReport)
    (s : State) : Host.Outcome State Fault Refusal :=
  s.run fun c => if c.cdieWorks d.val then c.foldNext d.val slot.val p.val carried serialised rep else c
/-- The meaning of SIDING_RETRY (R75, R210). -/
def execSidingRetry (d : CDie) (slot : Slot) (elem : Fin 4096) (s : State) : Host.Outcome State Fault Refusal :=
  s.run fun c => if c.cdieWorks d.val then c.retrySiding d.val slot.val elem.val else c
/-- The meaning of COACH_CREATE_RETRY (R117). -/
def execCoachCreateRetry (d : CDie) (k : Nat) (s : State) : Host.Outcome State Fault Refusal :=
  s.run fun c => if c.cdieWorks d.val then c.retryCreate d.val k else c
/-- The meaning of COACH_FOLD_COMPLETE (R122, R143). -/
def execCoachFoldComplete (d : CDie) (slot : Slot) (s : State) : Host.Outcome State Fault Refusal :=
  s.run fun c => if c.cdieWorks d.val then c.tryPack d.val slot.val else c
/-- The meaning of COACH_CUTOFF (R122). -/
def execCoachCutoff (d : CDie) (slot : Slot) (s : State) : Host.Outcome State Fault Refusal :=
  s.run fun c => if c.cdieWorks d.val then c.cutoff d.val slot.val else c
/-- The meaning of SEAL_INTERVAL_END (R122): a sealed coach that has folded what it admitted packs. -/
def execSealIntervalEnd (d : CDie) (slot : Slot) (s : State) : Host.Outcome State Fault Refusal :=
  s.run fun c =>
    let x := c.slot d.val slot.val
    if c.cdieWorks d.val ∧ x.phase = .sealed ∧ x.sealEnd ≤ (c.time.now : Int) then c.tryPack d.val slot.val else c
/-- The meaning of DEADLINE_MONITOR (R184 to R186, R190). -/
def execDeadlineMonitor (d : CDie) (s : State) : Host.Outcome State Fault Refusal :=
  s.run fun c => if c.cdieWorks d.val then c.monitor d.val else c
/-- The meaning of OPEN_RECORD_EXPIRY (R110): records whose Td has come. -/
def execOpenRecordExpiry (p : LPort) (s : State) : Host.Outcome State Fault Refusal :=
  s.run fun c =>
    if c.mainUp then c.setOpenRecs p.val ((c.openRecs p.val).filter (fun r => decide ((c.time.now : Int) < r.td))) else c
/-- The meaning of DIVERTED_FRAME_DISPATCH (R208). -/
def execDivertedFrameDispatch (pd : PDie) (d : CDie) (livery : Liv) (rd : CellRead) (s : State) : Host.Outcome State Fault Refusal :=
  s.run fun c => if c.cdieWorks d.val then c.divertedDispatch pd.val d.val livery.toNat rd else c

/-- CCH_STATE, CCH_KEY_LO, CCH_KEY_HI and CCH_STEP are a copy latched from the slot that CCH_SLOT_SEL names (R136). -/
def Chip.latchSlot (c : Chip) (d i : Nat) : Chip :=
  let x := c.slot d i
  let pg := pgCch d
  let cause := if x.live then x.cause else x.lastCause
  let c := c.setReg pg 0x1004 (BitVec.ofNat 32 (x.phase.code + x.carriedAny.toNat * 2 ^ 3 + x.rstat % 64 * 2 ^ 4 + cause * 2 ^ 16))
  let c := c.setReg pg 0x1008 (BitVec.ofNat 32 (x.chunk % 2 ^ 24 + x.step.toNat % 256 * 2 ^ 24))
  (c.setReg pg 0x100C (BitVec.ofNat 32 (x.entry + x.livery * 2 ^ 16))).setReg pg 0x1010 x.step

/-- A write to CCH_SLOT_SEL (R136). -/
def Chip.slotSelect (c : Chip) (d : Nat) (v : W32) : Chip :=
  let i := fld v 0 10
  (c.setReg (pgCch d) 0x1000 (BitVec.ofNat 32 i)).latchSlot d i

/-- The meaning of CCH_SLOT_SELECT (R136). -/
def execCchSlotSelect (d : CDie) (v : W32) (s : State) : Host.Outcome State Fault Refusal :=
  s.run fun c => if c.serves (pgCch d.val) then c.slotSelect d.val v else c

/-- The meaning of BRAKE_LEVEL_CHANGE (R207): a port die takes over the level that a die publishes for a livery. -/
def execBrakeLevelChange (d : PDie) (src : Fin 18) (livery : Liv) (s : State) : Host.Outcome State Fault Refusal :=
  s.run fun c =>
    if c.mainUp then
      let die := if src.val < 16 then dieC src.val else dieB (src.val - 16)
      let k := (d.val * 18 + src.val) * 256 + livery.toNat
      { c with pool := { c.pool with known := Tbl.set 0 c.pool.known k (c.dieLevel die livery.toNat) } }
    else c

end Sys2Proof.Machine
end

