-- ==== Sys2Proof/Machine/Recovery.lean ====
section
/-! DEFINITION. Links going down and replay (R234, R269 to R272, R306, R307, R487): frames cut off in reception and in
transmission, the loss of a replay buffer, and the commands that take a link down. -/

namespace Sys2Proof.Machine

/-- Whether the head of a frame goes on without its tail (R274): unicast Bulk and Memory frames that are forwarded, with
the LSEQ expected where they are sequenced. -/
def Chip.headGoes (c : Chip) (p : Nat) (f : Frame) : Bool :=
  hdrOk f.hdr && hdrClassOk f.hdr && !hMc f.hdr &&
  (decide (hClass f.hdr = clsBulk) ||
    (decide (hClass f.hdr = clsMemory) && !isCtrCpl f && !decide (hSub f.hdr = 4 ∧ mStage (memHdrOf f.body) = 0))) &&
  (!hdrSequenced f.hdr || decide (hLseq f.hdr = ((c.link p).ackSeq + 1) % 4096))

/-- The reception of a frame ends (R234, R269): it counts as incomplete, and what has gone on cut-through leaves with a
tailboard (R274). A frame of another kind does nothing by its head. -/
def Chip.cutReception (c : Chip) (p : Nat) : Chip :=
  match (c.link p).rx with
  | none => c
  | some (f, stamp) =>
    let c := (c.setLink p { c.link p with rx := none }).bumpLnk p 0x1130
    if c.narjo p then
      if c.headGoes p f then
        c.step5 p f.hdr f.body false (fun c => c.forward (Msg.arrived p f.hdr f.body stamp) (.bad 4) true)
      else c
    else if 58 ≤ f.body.length ∧ !isPtp f.body ∧ etherType f.body ≠ 0x8808 then c.ethBridge p f.body (.bad 4) stamp
    else c

/-- Low-power idle of a port ends at once (R250): its lanes leave the electrical idle of a sleeping port without training
(R239, R240), and their receivers adapt again. -/
def Chip.lpiEnd (c : Chip) (p : Nat) : Chip :=
  let slept := decide ((c.link p).lpi = .asleep ∨ (c.link p).lpi = .waking)
  let c := (c.setLpiStat p 0 false).setLpiStat p 4 false
  let c := forAll (c.lanesOf p) (c.setLink p { c.link p with lpi := .awake }) (fun x c =>
    let c := c.setLane x { c.lane x with frozen := false }
    if slept && c.laneWanted x && c.synthReady x then (c.laneWoken x).injResume x else c)
  c

/-- The replay buffer of a port is lost: each Memory livery in it has lost a target (R272, R306, R307). -/
def Chip.loseReplay (c : Chip) (p : Nat) : Chip :=
  let ms := ((c.link p).replay.map (·.msg)).filter (fun m => decide (hClass m.hdr = clsMemory))
  forAll ms (c.setLink p { c.link p with replay := [] }) (fun m c => (c.loseTarget (hLiv m.hdr) p).gapTarget (hLiv m.hdr) p)

/-- What happens to the frames of a port whose link goes down while it stays enabled (R487). -/
def Chip.dropQueues (c : Chip) (p : Nat) : Chip :=
  let e := c.egress p
  let mem := e.queued.filter (fun m => decide (hClass m.hdr = clsMemory))
  let rest := e.queued.filter (fun m => decide (hClass m.hdr ≠ clsMemory))
  let c := forAll mem (c.emptyEgress p) (fun m c => c.holdLost p m)
  forAll (e.tx.toList ++ rest) c (fun m c => c.downDrop.dropCells m.cells)

/-- The link of a Narjo port goes down (R269, R487); INIT starts again where the PCS is still aligned. -/
def Chip.linkDown (c : Chip) (p : Nat) (aligned : Bool) : Chip :=
  let c := c.cutReception p
  let wasUp := c.lnkFlag p 0
  let c := (((c.setLnkFlag p 0 false).setLnkFlag p 1 false).setLnkFlag p 2 false).setField (pgLnk (portDie p)) 0x1008 4 4 0 (p % 128)
  let c := if wasUp then
      (c.bumpLnk p 0x1134).raise (evP (pgLnk (portDie p)) 0x0505 (dieP (portDie p)) p)
    else c
  let c := ((((c.setLpiStat p 8 false).lpiEnd p).loseReplay p)).dropQueues p
  let c := c.setLink p { c.link p with
    aligned := aligned, initSent := aligned, initRcvd := false, adv := [], freedRx := []
    spent := [], freedTx := [], checked := none, freedSent := [], ackSeq := 0xFFF, rx := none }
  if aligned then c.sendCtl p 0 else c

/-- An Ethernet port loses PCS alignment (R292, R487). -/
def Chip.ethAlignLoss (c : Chip) (p : Nat) : Chip :=
  if c.narjo p ∨ !(c.link p).aligned then c
  else
    let c := c.cutReception p
    ((c.setLink p { c.link p with aligned := false, pfcUntil := [] }).lpiEnd p).dropQueues p

/-- Every frame not acknowledged is to be resent in order, after the frame in transmission and before new ones (R271); one
already resent REPLAY_MAX times fails the link (R272). -/
def Chip.replayAll (c : Chip) (p : Nat) : Chip :=
  let l := c.link p
  let mx := max 1 (c.field (pgLnk (portDie p)) 0x1004 12 4 (p % 128))
  if l.replay.any (fun k => decide (mx ≤ k.resent)) then
    let c := c.raise (evP (pgLnk (portDie p)) 0x0506 (dieP (portDie p)) p)
    let c := c.linkDown p false
    forAll (c.lanesOf p) c (fun x c => if c.trainEn x then c.setLaneTrain x 1 else c)
  else c.setEgress p { c.egress p with again := l.replay.map (·.msg) }

/-- The meaning of LINK_NAK_RX (R271, R272). -/
def execLinkNakRx (p : LPort) (f : Frame) (s : State) : Host.Outcome State Fault Refusal :=
  s.run fun c => c.ctlRx p.val f 2 (fun b c => if c.linkUp p.val then (c.takeUpdate p.val b).replayAll p.val else c)
/-- The meaning of PCS_ALIGN_LOSS (R269, R487). -/
def execPcsAlignLoss (p : LPort) (s : State) : Host.Outcome State Fault Refusal := s.run fun c =>
  if c.rxOn p.val && c.narjo p.val && (c.link p.val).aligned then c.linkDown p.val false else c
/-- The meaning of LINK_CONTROL_TIMEOUT (R269, R487). -/
def execLinkControlTimeout (p : LPort) (s : State) : Host.Outcome State Fault Refusal := s.run fun c =>
  if c.rxOn p.val && c.narjo p.val && c.linkUp p.val && !c.lpiStat p.val 4 then c.linkDown p.val true else c
/-- The meaning of REPLAY_TIMEOUT (R271, R272). -/
def execReplayTimeout (p : LPort) (s : State) : Host.Outcome State Fault Refusal := s.run fun c =>
  if c.rxOn p.val && c.narjo p.val && c.linkUp p.val then c.replayAll p.val else c
/-- The meaning of ETHERNET_PCS_ALIGN_LOSS (R292, R487). -/
def execEthernetPcsAlignLoss (p : LPort) (s : State) : Host.Outcome State Fault Refusal := s.run fun c =>
  if c.rxOn p.val then c.ethAlignLoss p.val else c

end Sys2Proof.Machine
end

