-- ==== Sys2Proof/Machine/Ports.lean ====
section
/-! DEFINITION. Port configuration (R230 to R235): the disabling of a logical port, and writes to PRT_CFG. -/

namespace Sys2Proof.Machine

/-- EN of a logical port falls from 1 to 0 (R234): the frame in reception is cut off, the frame in transmission ends, every
queued frame is discarded, their cells count as read out, and the link goes down (R269). Memory frames so lost are lost
for their target (R306, R307). -/
def Chip.disablePort (c : Chip) (p : Nat) : Chip :=
  let c := c.cutReception p
  let e := c.egress p
  let gone := e.tx.toList ++ e.queued
  let c := (c.emptyEgress p).bumpN (pgPrt (portDie p)) 0x1210 gone.length
  let c := forAll e.queued c (fun m c =>
    if hClass m.hdr = clsMemory then (c.loseTarget (hLiv m.hdr) p).gapTarget (hLiv m.hdr) p else c)
  let c := forAll gone c (fun m c => c.dropCells m.cells)
  let c := if c.narjo p then c.linkDown p false else c.ethAlignLoss p
  forAll (c.lanesOf p) ((c.emptyEgress p).setLink p Link.reset) (fun l c => c.laneIdle l)

/-- EN of a logical port rises from 0 to 1 (R235, R237, R240): its PCS starts from reset, and its lanes start, or are
held while their synthesiser settles; the pattern checker stops (R243). -/
def Chip.enablePort (c : Chip) (p : Nat) : Chip :=
  forAll (c.lanesOf p) (c.setLink p Link.reset) (fun l c =>
    let c := c.setLaneFlag l stChk false
    if c.synthReady l then c.laneStart l else c.laneUpdate l)

/-- A refused PRT_CFG write (R233). -/
def Chip.cfgRefuse (c : Chip) (pp : Nat) : Chip :=
  let pg := pgPrt (pp / 32)
  (c.setReg pg 0x1080 (BitVec.ofNat 32 (pp % 32 + 0x80000000))).bump pg 0x1214

/-- Whether a PRT_CFG write is refused (R228, R230, R231, R233). -/
def Chip.cfgRefused (c : Chip) (pp : Nat) (v : W32) : Bool :=
  let cur := c.prtCfg pp
  let s := fld v 0 2
  let r := fld v 2 2
  let busy := fld cur 4 4 ≠ 0 || (s = 3 && fld (c.prtCfg (pp + 1)) 4 4 ≠ 0)
  cur.getLsbD 8 || r = 3 || (s = 3 && (pp % 2 = 1 || r ≠ 0)) || ((s ≠ c.split pp || r ≠ c.rate pp) && busy)

/-- The EN bits of a PRT_CFG write that name logical ports of its configuration (R233). -/
def enBits (v : W32) : Nat :=
  ([0, 1, 2, 3].filter (fun q => v.getLsbD (4 + q) && (if fld v 0 2 = 3 then q = 0 else usedUnder (fld v 0 2) q))).foldl
    (fun n q => n + 2 ^ q) 0

/-- The ingress credits of the logical ports of a physical port return to their defaults (R268). -/
def Chip.vlDefaults (c : Chip) (pp : Nat) : Chip :=
  forAll (lanesOfPhys pp) c (fun p c =>
    forAll [0, 1, 2, 3, 4, 5] c (fun k c =>
      c.setReg (pgLnk (portDie p)) (0x1040 + 4 * k)
        (BitVec.ofNat 32 (if c.inUse p then vlDefault k * c.portLanes p / 4 else 0)) (p % 128)))

/-- A rate change takes effect (R237, R248): the synthesiser settles, and a settle window opens on each lane. -/
def Chip.rateChange (c : Chip) (pp : Nat) : Chip :=
  forAll (lanesOfPhys pp) (c.synthSettle pp) (fun l c => c.openSettle l)

/-- A write to PRT_CFG (R231, R233 to R235, R237). -/
def Chip.cfgWrite (c : Chip) (pp : Nat) (v : W32) : Chip :=
  if c.cfgRefused pp v then c.cfgRefuse pp
  else
    let oldEn := fld (c.prtCfg pp) 4 4
    let s0 := c.split pp
    let s1 := fld v 0 2
    let rate0 := c.rate pp
    let oddRate0 := c.rate (pp + 1)
    let en := enBits v
    let put (c : Chip) (q n : Nat) : Chip := c.setReg (pgPrt (q / 32)) (prtCfgOff q) (BitVec.ofNat 32 n)
    let c := put c pp (s1 + fld v 2 2 * 4 + en * 16 + (v.getLsbD 9).toNat * 512)
    let joins := decide (s1 = 3 ∧ s0 ≠ 3)
    let ends := decide (s0 = 3 ∧ s1 ≠ 3)
    let c := if joins then put c (pp + 1) (3 + 0x100 + ((c.prtCfg (pp + 1)).getLsbD 9).toNat * 512)
      else if ends then put c (pp + 1) 0x200 else c
    let pps := if joins || ends then [pp, pp + 1] else [pp]
    let c := if s0 ≠ s1 then forAll pps c (fun q c => c.vlDefaults q) else c
    let c := if fld v 2 2 ≠ rate0 then c.rateChange pp else c
    let c := if joins ∧ oddRate0 ≠ 0 then c.rateChange (pp + 1) else c
    let c := forAll [0, 1, 2, 3] c (fun q c =>
      if oldEn.testBit q && !en.testBit q then c.disablePort (pp * 4 + q) else c)
    let c := forAll (pps.flatMap lanesOfPhys) c (fun l c => (c.precodeUpdate l).laneUpdate l)
    let c := if s1 = 3 then forAll (lanesOfPhys (pp + 1)) c (fun l c => (c.precodeUpdate l).laneUpdate l) else c
    forAll [0, 1, 2, 3] c (fun q c =>
      if en.testBit q && !oldEn.testBit q then c.enablePort (pp * 4 + q) else c)

/-- The meaning of PRT_CFG_WRITE (R233). -/
def execPrtCfgWrite (pp : PhysPort) (v : W32) (s : State) : Host.Outcome State Fault Refusal := s.run fun c =>
  if c.serves (pgPrt (pp.val / 32)) then c.cfgWrite pp.val v else c

end Sys2Proof.Machine
end

