-- ==== Sys2Proof/Machine/Teardown.lean ====
section
/-! DEFINITION. The teardown of a livery and its release (R308, R309). -/

namespace Sys2Proof.Machine

/-- Frames that a teardown discards: every frame of the livery but abort waves and abort notices (R308 step 1). -/
def tdFrame (l : Nat) (m : Msg) : Bool := decide (hLiv m.hdr = l) && !decide (hClass m.hdr = clsControl ∧ hSub m.hdr < 2)

/-- Step 3 of R308: every queued, held or diverted frame of a livery is discarded and counted; those in transmission
leave with tailboard code 8. The frames discarded are answered in step 5. -/
def Chip.tearFrames (c : Chip) (l : Nat) : List Msg × Chip :=
  let t := tdFrame l
  let lost := (c.lostOf l).held.map (·.2)
  let mine (x : Diverted) : Bool := t x.msg
  let held := (c.traf.flowHeld.filter mine ++ c.traf.diverted.filter mine).map (·.msg)
  let drained := match c.rte.drain with | some d => d.held.filter t | none => []
  let gone := c.queuedFrames t ++ lost ++ held ++ drained
  let c := ((c.purge t 8).purgeDrain t).setLost l LostSt.none
  let c := { c with traf := { c.traf with
    flowHeld := c.traf.flowHeld.filter (fun x => !mine x)
    diverted := c.traf.diverted.filter (fun x => !mine x) } }
  let c := forAll (lost ++ held) c (fun m c => c.dropCells m.cells)
  (gone, c.bumpN pgRte 0x1814 gone.length)

/-- The first frames of a livery that wait for creation are discarded (R308 step 3). -/
def Chip.tearWaiting (c : Chip) (d l : Nat) : Chip :=
  let mine (x : Waiting) : Bool := decide (wLiv x.wb = l)
  let y := c.cch d
  (c.setCch d { y with waiting := y.waiting.filter (fun x => !mine x) }).dropStg d
    ((y.waiting.filter mine).flatMap (fun x => x.frames.flatMap (·.stg)))

/-- A teardown starts (R308 steps 1 to 5); a second trigger has no effect. -/
def Chip.tearStart (c : Chip) (l : Nat) (timeout : Bool) : Chip :=
  if c.tornDown l then c
  else
    let c := c.setReg pgRte 0x160C (BitVec.ofNat 32 (2 + timeout.toNat * 8)) l
    let r := (c.raise (evV pgRte evTeardown (dieX 0) l)).tearFrames l
    let c := forAll (List.range 16) (r.2.ttDisable l) (fun d c => c.tearWaiting d l)
    let c := forAll (List.range 16) c (fun d c =>
      forAll (c.slotsWhere d (fun x => decide (x.livery = l))) c (fun i c => c.abortCoach d i evTeardown none))
    let c := forAll (Tbl.keysWhere c.puts (fun _ x => x.busy && decide (x.livery = l))) c (fun k c => c.putClose k true)
    forAll r.1 c (fun m c => c.tdAnswer m.inPort m.hdr m.body)

/-- Release whatever a livery still holds in any pool, but quarantined cells (R308 step 6, R213). -/
def Chip.releaseAll (c : Chip) (l : Nat) : Chip :=
  forAll (Tbl.keysWhere c.pool.owner (fun _ o => decide (o = l + 1))) c (fun k c =>
    let die := k / 1048576 / 8
    let pool := k / 1048576 % 8
    let u := k % 1048576
    if pool = plCell then
      let x := c.cell (die - 28) u
      if x.quarantined then c else (c.setCell (die - 28) u { x with refs := 0 }).releaseUnit die pool u
    else c.releaseUnit die pool u)

/-- The teardown of a livery has completed on every die (R308): its draining coaches leave their slots. -/
def Chip.tearDone (c : Chip) (l : Nat) : Chip :=
  if c.tornDown l ∧ !c.tdStat l 2 then
    let c := forAll (List.range 16) c (fun d c =>
      forAll (c.slotsWhere d (fun x => decide (x.livery = l ∧ x.phase = .aborting))) c (fun i c => c.freeSlot d i))
    ((c.releaseAll l).setFlag pgRte 0x160C 2 true l).raise (evV pgRte 0x0606 (dieX 0) l)
  else c

/-- RELEASE (R309): ignored before DONE. -/
def Chip.tearRelease (c : Chip) (l : Nat) : Chip :=
  if c.tdStat l 2 then (c.setFlag pgRte 0x160C 1 false l).setFlag pgRte 0x160C 2 false l else c

/-- The livery that RTE_TD_SEL selects. -/
def Chip.selTd (c : Chip) : Nat := c.field pgRte 0x1600 0 8

/-- The meaning of TEARDOWN (R308). -/
def execTeardown (s : State) : Host.Outcome State Fault Refusal := s.run fun c =>
  if c.serves pgRte then c.tearStart c.selTd false else c
/-- The meaning of TEARDOWN_TIMER_EXPIRY (R307, R308). -/
def execTeardownTimerExpiry (livery : Liv) (s : State) : Host.Outcome State Fault Refusal := s.run fun c =>
  let l := livery.toNat
  if c.mainUp && c.tdStat l 0 && decide ((c.lostOf l).since + usUnits (max 1 (c.field pgRte 0x1604 0 20 l)) ≤ c.time.now) then
    c.tearStart l true
  else c
/-- The meaning of TEARDOWN_DONE (R308). -/
def execTeardownDone (livery : Liv) (s : State) : Host.Outcome State Fault Refusal := s.run fun c =>
  if c.mainUp then c.tearDone livery.toNat else c
/-- The meaning of TEARDOWN_RELEASE (R309). -/
def execTeardownRelease (s : State) : Host.Outcome State Fault Refusal := s.run fun c =>
  if c.serves pgRte then c.tearRelease c.selTd else c

end Sys2Proof.Machine
end

