-- ==== Sys2Proof/Machine/Faults.lean ====
section
/-! DEFINITION. Failures (R414 to R417) and trailer mode (R421): lane repair, the failure of a die, the end of service,
the judging of steps and promotion. -/

namespace Sys2Proof.Machine

/-! Lane repair (R415) -/

/-- The test of a spare ends (R415): a passing spare takes the fenced cluster's place, a failing one is fenced and the
next is tried. -/
def Chip.spareTested (c : Chip) (d : Nat) (pass : Bool) : Chip :=
  let x := c.lanesAt d
  match x.target, x.spare with
  | some k, some sp =>
    if pass then
      ((c.setLanes d { x with
          tested := putBit x.tested sp true, mapped := putBit x.mapped sp true
          replaced := putBit x.replaced k true, target := none }).raise (evP pgFlt 0x0107 (dieC d) k)).autoRepair d
    else
      let y := { x with tested := putBit x.tested sp true, fenced := putBit x.fenced sp true }
      match y.spare with
      | some _ => c.setLanes d y
      | none => (c.setLanes d { y with target := none }).raise (evP pgFlt 0x0108 (dieC d) k)
  | _, _ => c

/-! The end of service (R417) -/

/-- Service ends until the next cold start: every lane is held in electrical idle. -/
def Chip.deviceFatal (c : Chip) (die : Nat) : Chip :=
  if c.flt.fatal then c
  else
    let c := c.raise (evP pgFlt 0x0105 die 0)
    let c := forAll (List.range 1024) c (fun l c => c.laneIdle l)
    { c with flt := { c.flt with fatal := true } }

def Chip.markFailed (c : Chip) (die : Nat) : Chip := { c with flt := { c.flt with failed := putBit c.flt.failed die true } }

/-! Losing what a die holds -/

/-- A table without the keys that meet a test. -/
def Tbl.without {β : Type} (m : Tbl β) (f : Nat → Bool) : Tbl β := m.filter (fun kv => !f kv.1)

/-- The pools of a failed die are gone. -/
def Chip.losePools (c : Chip) (die : Nat) : Chip :=
  let p := c.pool
  { c with pool := { p with
      owner := p.owner.without (fun k => decide (k / 8388608 = die))
      used := p.used.without (fun k => decide (k / 2048 = die))
      level := p.level.without (fun k => decide (k / 2048 = die))
      cells := p.cells.without (fun k => decide (k / 262144 + 28 = die))
      ctlUsed := p.ctlUsed.without (fun k => decide (k = die))
      quarRun := p.quarRun.without (fun k => decide (k + 28 = die)) } }

/-- Held frames that meet a test are lost (R208, R296, R306, R324). -/
def Chip.loseHeld (c : Chip) (test : Msg → Bool) : Chip :=
  let f (x : Diverted) : Bool := test x.msg
  let gone := c.traf.flowHeld.filter f ++ c.traf.diverted.filter f
  let c := { c with traf := { c.traf with
    flowHeld := c.traf.flowHeld.filter (fun x => !f x), diverted := c.traf.diverted.filter (fun x => !f x) } }
  let c := forAll gone c (fun x c => c.dropCells x.msg.cells)
  let c := forAll (c.rte.lost.map (·.1)) c (fun l c =>
    let x := c.lostOf l
    let gone := x.held.filter (fun h => test h.2)
    if gone.isEmpty then c
    else forAll gone (c.setLost l { x with held := x.held.filter (fun h => !test h.2) })
      (fun h c => (c.gapTarget l h.1).dropCells h.2.cells))
  c.purgeDrain test

/-! Coach dies (R416) -/

/-- A collective that has a coach on a failed die, as the directory lists it. -/
structure DirEnt where
  livery : Nat
  entry : Nat
  step : W32
  chunk : Nat
  ent : Entry
  bank : Bool
  td : Int
  deriving DecidableEq, Repr

/-- The directory of a coach die: each collective with an occupied slot (R416). -/
def Chip.directory (c : Chip) (d : Nat) : List DirEnt :=
  firstOfEach (fun (x : DirEnt) => (x.livery, x.entry, x.step)) ((c.slotsWhere d (fun _ => true)).map (fun i =>
    let x := c.slot d i
    ⟨x.livery, x.entry, x.step, x.chunk, x.ent, x.bank, x.td⟩))

/-- Everything a coach die holds is gone. -/
def Chip.clearCoachDie (c : Chip) (d : Nat) : Chip :=
  let c := c.purge (fun m => match m.coach with | some x => decide (x.1 = d) | none => false) 7
  let c := c.purgeDrain (fun m => match m.coach with | some x => decide (x.1 = d) | none => false)
  let mine (x : Diverted) : Bool := decide (x.dest = d)
  let div := c.traf.diverted.filter mine
  let c := forAll div { c with traf := { c.traf with diverted := c.traf.diverted.filter (fun x => !mine x) } }
    (fun x c => c.dropCells x.msg.cells)
  let c := (c.setCch d CchDie.empty).losePools (dieC d)
  { c with coach := { c.coach with
      ledger := c.coach.ledger.without (fun k => decide (k / 256 = d))
      ledgerSeq := c.coach.ledgerSeq.without (fun k => decide (k / 256 = d))
      hints := c.coach.hints.without (fun k => decide (k = d)) } }

/-- A coach die fails (R416): its directory holder aborts every collective listed for it. -/
def Chip.coachDieFail (c : Chip) (d : Nat) : Chip :=
  if c.dieFailed (dieC d) then c
  else
    let dir := c.directory d
    let holder := (d + 1) % 16
    let c := ((c.clearCoachDie d).markFailed (dieC d)).raise (evP pgFlt evDieFailed (dieC d) 0)
    let c := if c.cdieUp holder then
        forAll dir c (fun x c => c.originAbort (some holder) x.ent x.bank x.td x.livery x.entry x.step x.chunk evDieFailed)
      else c
    if (List.range 16).any c.cdieUp then c else c.deviceFatal (dieC d)

/-! Port dies and buffer dies (R417) -/

/-- A port die fails: its ports go down, and its put counters, held frames and, on the pair port's die, unmatched digest
records (R420) are gone. -/
def Chip.portDieFail (c : Chip) (d : Nat) : Chip :=
  let c := c.raise (evP pgFlt 0x0104 (dieP d) 0)
  let c := forAll ((List.range 128).map (d * 128 + ·)) c (fun p c => if c.enabled p then c.disablePort p else c)
  let mine (x : Diverted) : Bool := decide (x.pdie = d)
  let gone := c.traf.flowHeld.filter mine ++ c.traf.diverted.filter mine
  let c := { c with traf := { c.traf with
    flowHeld := c.traf.flowHeld.filter (fun x => !mine x), diverted := c.traf.diverted.filter (fun x => !mine x) } }
  let c := forAll gone c (fun x c => c.dropCells x.msg.cells)
  let c := { c with
    puts := c.puts.without (fun k => decide (k / 2048 = d))
    coach := { c.coach with openRecs := c.coach.openRecs.without (fun k => decide (k / 128 = d)) }
    flt := { c.flt with digs := if c.pairPort.any (fun q => decide (q / 128 = d)) then [] else c.flt.digs } }
  (c.losePools (dieP d)).markFailed (dieP d)

/-- A frame with a cell on a buffer die. -/
def Msg.onBuffer (m : Msg) (b : Nat) : Bool := m.cells.any (fun r => decide (r.bdie = b))

/-- Queued frames that meet a test are lost; one in transmission leaves with a tailboard code. -/
def Chip.loseQueued (c : Chip) (test : Msg → Bool) (code : Nat) : Chip :=
  (forAll c.traf.eg c (fun kv c => forAll (kv.2.queued.filter test) c (fun m c => c.gapMsg kv.1 m))).purge test code

/-- A buffer die fails: every frame in its cells is lost. -/
def Chip.bufferDieFail (c : Chip) (b : Nat) : Chip :=
  let c := c.raise (evP pgFlt 0x0104 (dieB b) 0)
  let t (m : Msg) : Bool := m.onBuffer b
  (((c.loseQueued t 9).loseHeld t).losePools (dieB b)).markFailed (dieB b)

/-- The die of an attachment (R18). -/
def attachDie (a : Nat) : Nat := if a < 256 then a / 32 else if a < 272 then a - 248 else a - 244

/-- Cells that wait at a position of a failed die, or for an attachment of one, are gone. -/
def Chip.voqFail (c : Chip) (die : Nat) : Chip :=
  { c with traf := { c.traf with voq := c.traf.voq.without (fun k =>
      decide (attachDie (attachOfPos (k / 864)) = die) || decide (attachDie (k / 3 % 288) = die)) } }

/-- A die fails (R416, R417). The failure of M0 is not among the manual's. -/
def Chip.dieFail (c : Chip) (die : Nat) : Chip :=
  if c.dieFailed die then c
  else if die < 8 then (c.portDieFail die).voqFail die
  else if die < 24 then (c.coachDieFail (die - 8)).voqFail die
  else if die < 28 then (c.markFailed die).deviceFatal die
  else if die < 30 then (c.bufferDieFail (die - 28)).voqFail die
  else if die = dieV then (c.markFailed die).deviceFatal die
  else c

/-! Trailer mode (R421) -/

/-- Judge a step of the reference livery at T(s + 2). -/
def Chip.judgeStep (c : Chip) (s : W32) : Chip :=
  let x := c.trailOf s
  let waiting := c.flt.digs.any (fun r => decide (dgLiv r.word = c.refLiv ∧ dgStep r.word = s))
  let c := { c.setTrail s TrailStep.none with flt := { (c.setTrail s TrailStep.none).flt with trailJudged := some s } }
  if x.dirty || waiting then
    (c.setField pgFlt 0x110C 16 16 0).raise (evC pgFlt 0x0A03 dieM c.refLiv 0 s 0)
  else
    let n : Nat := (c.field pgFlt 0x110C 16 16 + 1) % 65536
    let c := c.setField pgFlt 0x110C 16 16 n
    if n = max 1 (c.field pgFlt 0x1108 0 16) then
      let c := (c.setFlag pgFlt 0x110C 1 true).raise (evV pgFlt 0x0A04 dieM c.refLiv)
      if c.flag pgFlt 0x1100 2 then { c with flt := { c.flt with promoteDue := some (s + 3) } } else c
    else c

/-- TRAILER_STEP_CHECK: the step two before the reference livery's present one, once. -/
def Chip.trailerCheck (c : Chip) : Chip :=
  let s := c.currentStep c.refLiv - 2
  if pairMode c = 2 ∧ c.ttEnabled c.refLiv ∧ c.flt.trailJudged ≠ some s then c.judgeStep s else c

/-- TRAILER_MODE_CHANGE: at the step boundary after promotion, MODE becomes PROMOTE_TO; coaches of earlier steps stay
suppressed. -/
def Chip.trailerPromote (c : Chip) : Chip :=
  match c.flt.promoteDue, pairMode c with
  | some s, 2 =>
    if 0 ≤ stepDiff (c.currentStep c.refLiv) s then
      let t := match c.governs c.refLiv s with | some (_, t, _) => t.toNat | none => c.time.now
      let c := c.setField pgFlt 0x1100 0 2 (if c.flag pgFlt 0x1100 3 then 1 else 0)
      { c with flt := { c.flt with promoteDue := none, suppressUntil := some t } }
    else c
  | _, _ => c

/-! Commands -/

/-- The meaning of LANE_REPAIR (R415). -/
def execLaneRepair (d : CDie) (k : Cluster) (s : State) : Host.Outcome State Fault Refusal := s.run fun c =>
  if c.serves pgFlt && c.cdieUp d.val then c.startRepair d.val k.val else c
/-- The meaning of LANE_FENCE (R415). -/
def execLaneFence (d : CDie) (k : Cluster) (s : State) : Host.Outcome State Fault Refusal := s.run fun c =>
  if c.serves pgFlt && c.cdieUp d.val then c.laneFence d.val k.val else c
/-- The meaning of LANE_SPARE_TEST_DONE (R415). -/
def execLaneSpareTestDone (d : CDie) (pass : Bool) (s : State) : Host.Outcome State Fault Refusal := s.run fun c =>
  if c.cdieWorks d.val then c.spareTested d.val pass else c
/-- The meaning of COACH_DIE_UNRESPONSIVE (R416). -/
def execCoachDieUnresponsive (d : CDie) (s : State) : Host.Outcome State Fault Refusal := s.run fun c =>
  if c.mainUp then c.dieFail (dieC d.val) else c
/-- The meaning of DIE_FAILED (R416, R417). -/
def execDieFailed (die : Die) (s : State) : Host.Outcome State Fault Refusal := s.run fun c =>
  if c.mainUp then c.dieFail die.val else c
/-- The meaning of TRAILER_STEP_CHECK (R421). -/
def execTrailerStepCheck (s : State) : Host.Outcome State Fault Refusal := s.run fun c =>
  if c.mainUp then c.trailerCheck else c
/-- The meaning of TRAILER_MODE_CHANGE (R421). -/
def execTrailerModeChange (s : State) : Host.Outcome State Fault Refusal := s.run fun c =>
  if c.mainUp then c.trailerPromote else c

end Sys2Proof.Machine
end

