-- ==== Sys2Proof/Machine/Memory.lean ====
section
/-! DEFINITION. Memory banks (R195 to R198, R203 to R206, R213 to R222): quotas and thresholds, quarantine, fencing, the
march engines, table copies and retention. -/

namespace Sys2Proof.Machine

/-! Quotas and thresholds (R204, R206) -/

/-- The pool and the livery that POL_SEL selects on a die. -/
def Chip.selPool (c : Chip) (die : Nat) : Nat := c.field (pgPol die) 0x1000 0 3
def Chip.selPolLiv (c : Chip) (die : Nat) : Nat := c.field (pgPol die) 0x1000 8 8

/-- A POL_QUOTA write (R204): refused only when it raises a quota and leaves the sum above the limit. -/
def Chip.quotaWrite (c : Chip) (die : Nat) (v : W32) : Chip :=
  let pool := c.selPool die
  let l := c.selPolLiv die
  let n := fld v 0 19
  let old := c.quota die pool l
  if !poolOn die pool then c
  else if old < n ∧ c.quotaLimit die pool < c.quotaSum die pool - old + n then c.setFlag (pgPol die) 0x1024 2 true pool
  else (c.setReg (pgPol die) 0x1018 (BitVec.ofNat 32 n) (pool * 256 + l)).evalLevel die pool l

/-- A threshold write (R206): refused unless CAUTION ≥ BRAKE ≥ STOP; every livery's level is evaluated. -/
def Chip.thrWrite (c : Chip) (die : Nat) (second : Bool) (v : W32) : Chip :=
  let pool := c.selPool die
  let pg := pgPol die
  let a := if second then c.reg pg 0x1010 pool else v
  let b := if second then v else c.reg pg 0x1014 pool
  if !poolOn die pool then c
  else if fld a 16 16 ≤ fld a 0 16 ∧ fld b 0 16 ≤ fld a 16 16 then
    forAll (List.range 256) (c.setReg pg (if second then 0x1014 else 0x1010) v pool) (fun l c => c.evalLevel die pool l)
  else c.setFlag pg 0x1024 3 true pool

/-! Quarantine (R213) -/

/-- A POL_QUAR_CTRL write: RELEASE starts March SS on a quarantined cell. -/
def Chip.quarWrite (c : Chip) (b : Nat) (v : W32) : Chip :=
  let pg := pgPolB b
  let busy := (Tbl.get none c.pool.quarRun b).isSome
  let u := fld v 0 18
  let c := c.setReg pg 0x1028 (BitVec.ofNat 32 (u + busy.toNat * 0x80000000))
  if v.getLsbD 31 && !busy && (c.cell b u).quarantined then
    let c := (c.setFlag pg 0x1028 31 true).setFlag pg 0x102C 0 true
    { c with pool := { c.pool with quarRun := Tbl.set none c.pool.quarRun b (some u) } }
  else c

/-- The test of a quarantined cell ends (R213): March SS over its 32 words. -/
def Chip.quarDone (c : Chip) (b : Nat) (reads : List MarchRead) : Chip :=
  let pg := pgPolB b
  match Tbl.get none c.pool.quarRun b with
  | none => c
  | some u =>
    let pass := (marchFirst 1 false (reads.filter (fun r => decide (r.word.toNat / 32 = u % 2048)))).isNone
    let c := ((c.setFlag pg 0x1028 31 false).setFlag pg 0x102C 0 false).setFlag pg 0x102C 1 (!pass)
    let c := { c with pool := { c.pool with quarRun := Tbl.set none c.pool.quarRun b none } }
    if pass then (c.setCell b u { c.cell b u with quarantined := false, refs := 0 }).releaseUnit (dieB b) plCell u else c

/-! Which banks a die has (R195, R198) -/

/-- Banks 128 and upward that hold a table copy. -/
def tableBank (die bank : Nat) : Bool :=
  if die < 8 then decide (136 ≤ bank ∧ bank < 160) else decide (die < 24 ∧ 128 ≤ bank ∧ bank < 137)

/-- The other bank of a mirrored pair. -/
def mirrorOf (die bank : Nat) : Option Nat :=
  if die < 8 then (if bank = 160 then some 161 else if bank = 161 then some 160 else none)
  else if die < 24 then
    (match bank with | 137 => some 138 | 138 => some 137 | 139 => some 140 | 140 => some 139 | _ => none)
  else if die < 28 then
    (match bank with | 128 => some 129 | 129 => some 128 | 130 => some 131 | 131 => some 130 | _ => none)
  else if die < 30 then (match bank with | 128 => some 129 | 129 => some 128 | _ => none)
  else none

/-- An ingress-buffer bank. -/
def ingressBank (die bank : Nat) : Bool := decide (die < 8 ∧ 128 ≤ bank ∧ bank < 136)

/-- Whether a die has a bank. -/
def bankExists (die bank : Nat) : Bool :=
  (poolOfBank die bank).isSome || tableBank die bank || (mirrorOf die bank).isSome || ingressBank die bank ||
    decide (die = dieM ∧ bank < 8)

/-! Fencing (R198, R214) -/

/-- Whether a coach holds a unit of a bank: an accumulator, a siding or a staged frame. -/
def Coach.usesBank (x : Coach) (bank : Nat) : Bool :=
  x.granules.any (fun u => decide (unitBank plAcc u = bank)) ||
  x.accs.any (fun kv => match kv.2.siding with | some u => decide (unitBank plSide u = bank) | none => false) ||
  x.contribs.any (fun k => k.stg.any (fun u => decide (unitBank plStg u = bank)))

def Waiting.usesBank (x : Waiting) (bank : Nat) : Bool :=
  x.frames.any (fun h => h.stg.any (fun u => decide (unitBank plStg u = bank)))

/-- A fenced bank of a coach die's pools: every coach with state in it aborts, and a first frame that waits with a cell
in it is discarded with its collective. -/
def Chip.fenceCoaches (c : Chip) (d bank : Nat) : Chip :=
  let c := forAll (c.slotsWhere d (fun x => x.usesBank bank)) c (fun i c => c.abortCoach d i evFenced none)
  let y := c.cch d
  let gone := y.waiting.filter (fun x => x.usesBank bank)
  let c := (c.setCch d { y with waiting := y.waiting.filter (fun x => !x.usesBank bank) }).dropStg d
    (gone.flatMap (fun x => x.frames.flatMap (·.stg)))
  forAll gone c (fun x c =>
    c.originAbort (some d) x.sv.ent x.sv.bank x.td (wLiv x.wb) (wEntry x.wb) x.target (wChunk x.wb) evFenced)

/-- A fenced bank of the cell buffer: every frame with a cell in it is lost. -/
def Chip.fenceCells (c : Chip) (b bank : Nat) : Chip :=
  let t (m : Msg) : Bool := m.cells.any (fun r => decide (r.bdie = b ∧ r.cell / 2048 = bank))
  (c.loseQueued t 5).loseHeld t

/-- An ingress-buffer bank is fenced: its four physical ports go down (R234, R306). -/
def Chip.fenceIngress (c : Chip) (d bank : Nat) : Chip :=
  forAll ((List.range 16).map (fun i => d * 128 + (bank - 128) * 16 + i)) c (fun p c =>
    if c.enabled p then c.disablePort p else c)

/-- A bank is fenced (R198, R214); once only. -/
def Chip.fenceBank (c : Chip) (die bank word : Nat) : Chip :=
  let pg := pgMem die
  if c.fenced die bank then c
  else
    let above (c : Chip) : Bool := match poolOfBank die bank with | some p => c.overcommitted die p | none => false
    let was := above c
    let c := (c.setFlag pg (0x1030 + 4 * (bank / 32)) (bank % 32) true).raise (evP pg evFenced die bank word)
    let c := match poolOfBank die bank with
      | some p =>
        let c := if !was && above c then c.raise (evP (pgPol die) 0x0406 die p) else c
        if p = plCell then c.fenceCells (die - 28) bank else c.fenceCoaches (die - 8) bank
      | none => c
    if ingressBank die bank then c.fenceIngress die bank
    else if tableBank die bank then c.dieFail die
    else match mirrorOf die bank with
      | some k => if c.fenced die k then c.dieFail die else c
      | none => c

/-! Table copies and mirrored banks (R198) -/

/-- An uncorrectable error in a table copy or a mirrored bank has been repaired. One in an ingress-buffer bank comes with
the frame whose reading found it (`Chip.ingressRead`). -/
def Chip.refetched (c : Chip) (die bank word : Nat) : Chip :=
  if tableBank die bank || (mirrorOf die bank).isSome then c.eccUncorr die bank word else c

/-! March runs (R218, R220) -/

/-- Spare rows and columns in use in a subarray. -/
def spareKey (die bank sub : Nat) : Nat := (die * 256 + bank) * 4 + sub
def Chip.sparesUsed (c : Chip) (die bank sub : Nat) : Nat × Nat := Tbl.get (0, 0) c.bank.spares (spareKey die bank sub)
def Chip.useSpares (c : Chip) (die bank sub rows cols : Nat) : Chip :=
  let u := c.sparesUsed die bank sub
  { c with bank := { c.bank with spares := Tbl.set (0, 0) c.bank.spares (spareKey die bank sub) (u.1 + rows, u.2 + cols) } }

/-- MEM_SPARE_STAT of a bank: the fewest spares left in any subarray. -/
def Chip.spareStat (c : Chip) (die bank : Nat) : W32 :=
  let left (f : Nat × Nat → Nat) (n : Nat) : Nat :=
    [0, 1, 2, 3].foldl (fun m s => min m (n - f (c.sparesUsed die bank s))) n
  if bankExists die bank then BitVec.ofNat 32 (left (·.1) 8 + left (·.2) 2 * 16) else 0

def Chip.marchOf (c : Chip) (die : Nat) : Option W32 := Tbl.get none c.bank.march die
def Chip.setMarch (c : Chip) (die : Nat) (x : Option W32) : Chip :=
  { c with bank := { c.bank with march := Tbl.set none c.bank.march die x } }

/-- Whether a bank holds an allocated unit: the put counters of a port die lie in its mirrored pair (R198). -/
def Chip.bankInUse (c : Chip) (die bank : Nat) : Bool :=
  match poolOfBank die bank with
  | some p => c.pool.owner.any (fun kv => decide (kv.1 / 1048576 = poolKey die p ∧ unitBank p (kv.1 % 1048576) = bank))
  | none => decide (die < 8 ∧ 160 ≤ bank) && c.pool.owner.any (fun kv => decide (kv.1 / 1048576 = poolKey die plPut))

/-- A MEM_MARCH_CTRL write (R218, R226). -/
def Chip.marchWrite (c : Chip) (die : Nat) (v : W32) : Chip :=
  let pg := pgMem die
  let bank := fld v 0 8
  let busy := (c.marchOf die).isSome
  if v.getLsbD 31 then
    if busy then c
    else
      let c := c.setReg pg 0x1000 (v &&& 0xFFF)
      if fld v 8 2 = 3 ∨ !bankExists die bank ∨ (!v.getLsbD 10 ∧ !c.fenced die bank ∧ c.bankInUse die bank) then
        c.setFlag pg 0x1004 5 true
      else
        let c := (c.bankAccess die bank).setMarch die (some (v &&& 0xFFF))
        (c.setReg pg 0x1000 ((v &&& 0xFFF) ||| 0x80000000)).setReg pg 0x1004 1
  else c.setReg pg 0x1000 ((v &&& 0xFFF) ||| (if busy then 0x80000000 else 0))

/-- A march run finds a fault at a word (R220): in-service row repair, or the bank is fenced when no repair is
possible. Bits of MEM_MARCH_STAT: 2 FAIL, 3 REPAIRED, 4 FENCED. -/
def Chip.marchFault (c : Chip) (die : Nat) (cmd : W32) (word : Nat) (row : Bool) : Chip :=
  let pg := pgMem die
  let bank := fld cmd 0 8
  let spare := row && decide ((c.sparesUsed die bank (word / 16384)).1 < 8)
  let c := c.setReg pg 0x1008 (BitVec.ofNat 32 (word + bank * 65536))
  if spare then
    if cmd.getLsbD 10 && cmd.getLsbD 11 then
      ((c.useSpares die bank (word / 16384) 1 0).raise (evP pg 0x0404 die bank word)).setReg pg 0x1004 0xC
    else c.setReg pg 0x1004 4
  else if c.fenced die bank then c.setReg pg 0x1004 4
  else (c.setReg pg 0x1004 0x14).fenceBank die bank word

/-- A march run ends (R218, R220): its first faulty word, if any read shows one. -/
def Chip.marchDone (c : Chip) (die : Nat) (rep : MarchReport) : Chip :=
  match c.marchOf die with
  | none => c
  | some cmd =>
    let c := ((c.setMarch die none).setFlag (pgMem die) 0x1000 31 false).bankAccess die (fld cmd 0 8)
    match marchFirst (fld cmd 8 2) (cmd.getLsbD 10) rep.reads with
    | none => c.setReg (pgMem die) 0x1004 2
    | some r => c.marchFault die cmd r.word.toNat (!rep.column)

/-! Retention (R221, R222) -/

def Chip.setRet (c : Chip) (die bank : Nat) (r : RetSt) : Chip :=
  let k := die * 256 + bank
  { c with bank := { c.bank with ret := Tbl.set .awake c.bank.ret k r, retSince := Tbl.set 0 c.bank.retSince k c.time.now } }

/-- MEM_RET_REQ of a bank. -/
def Chip.retReq (c : Chip) (die bank : Nat) : Bool := c.flag (pgMem die) (0x1010 + 4 * (bank / 32)) (bank % 32)
def Chip.setRetStat (c : Chip) (die bank : Nat) (b : Bool) : Chip :=
  c.setFlag (pgMem die) (0x1020 + 4 * (bank / 32)) (bank % 32) b

/-- A requested bank that has seen no access for 1 µs starts to enter retention. -/
def Chip.retEnter (c : Chip) (die bank : Nat) : Chip :=
  if bank < 128 ∧ bankExists die bank ∧ c.retReq die bank ∧ c.retOf die bank = .awake ∧
      Tbl.get 0 c.bank.touched (die * 256 + bank) + usUnits 1 ≤ c.time.now then c.setRet die bank .entering else c

/-- Retention entry finishes 0.2 µs after it began: a bank that an access waits for wakes at once. -/
def Chip.retEntered (c : Chip) (die bank : Nat) : Chip :=
  if c.time.now < Tbl.get 0 c.bank.retSince (die * 256 + bank) + nsUnits 200 then c
  else match c.retOf die bank with
    | .entering => (c.setRet die bank .retained).setRetStat die bank true
    | .committed => (c.setRet die bank .waking).bump (pgMem die) 0x110C
    | _ => c

/-- A wake completes 1.8 µs after it began. -/
def Chip.retWoken (c : Chip) (die bank : Nat) : Chip :=
  if c.retOf die bank = .waking ∧ Tbl.get 0 c.bank.retSince (die * 256 + bank) + nsUnits 1800 ≤ c.time.now then
    c.setRet die bank .awake
  else c

/-! Commands -/

/-- The meaning of POL_QUOTA_WRITE (R204). -/
def execPolQuotaWrite (die : Die) (v : W32) (s : State) : Host.Outcome State Fault Refusal := s.run fun c =>
  if c.serves (pgPol die.val) then c.quotaWrite die.val v else c
/-- The meaning of POL_THR_WRITE (R206). -/
def execPolThrWrite (die : Die) (second : Bool) (v : W32) (s : State) : Host.Outcome State Fault Refusal :=
  s.run fun c => if c.serves (pgPol die.val) then c.thrWrite die.val second v else c
/-- The meaning of QUARANTINE_RELEASE (R213). -/
def execQuarantineRelease (b : BDie) (v : W32) (s : State) : Host.Outcome State Fault Refusal := s.run fun c =>
  if c.serves (pgPolB b.val) then c.quarWrite b.val v else c
/-- The meaning of QUARANTINE_RELEASE_DONE (R213). -/
def execQuarantineReleaseDone (b : BDie) (reads : List MarchRead) (s : State) : Host.Outcome State Fault Refusal :=
  s.run fun c => if c.serves (pgPolB b.val) then c.quarDone b.val reads else c
/-- The meaning of MARCH_START (R218). -/
def execMarchStart (die : Die) (v : W32) (s : State) : Host.Outcome State Fault Refusal := s.run fun c =>
  if die.val < 31 ∧ c.serves (pgMem die.val) then c.marchWrite die.val v else c
/-- The meaning of MARCH_DONE (R220). -/
def execMarchDone (die : Die) (rep : MarchReport) (s : State) : Host.Outcome State Fault Refusal := s.run fun c =>
  if die.val < 31 ∧ c.serves (pgMem die.val) then c.marchDone die.val rep else c
/-- The meaning of TABLE_COPY_REFETCH_DONE (R198). -/
def execTableCopyRefetchDone (die : Die) (bank : BitVec 8) (word : BitVec 16) (s : State) :
    Host.Outcome State Fault Refusal :=
  s.run fun c => if c.serves (pgMem die.val) then c.refetched die.val bank.toNat word.toNat else c
/-- The meaning of RETENTION_ENTRY (R221). -/
def execRetentionEntry (die : Die) (bank : BitVec 8) (s : State) : Host.Outcome State Fault Refusal := s.run fun c =>
  if c.serves (pgMem die.val) then c.retEnter die.val bank.toNat else c
/-- The meaning of RETENTION_ENTRY_COMPLETE (R222). -/
def execRetentionEntryComplete (die : Die) (bank : BitVec 8) (s : State) : Host.Outcome State Fault Refusal :=
  s.run fun c => if c.serves (pgMem die.val) then c.retEntered die.val bank.toNat else c
/-- The meaning of BANK_WAKE (R221, R222): an access to a bank. -/
def execBankWake (die : Die) (bank : BitVec 8) (s : State) : Host.Outcome State Fault Refusal := s.run fun c =>
  if c.serves (pgMem die.val) then c.bankAccess die.val bank.toNat else c
/-- The meaning of BANK_WAKE_DONE (R222). -/
def execBankWakeDone (die : Die) (bank : BitVec 8) (s : State) : Host.Outcome State Fault Refusal := s.run fun c =>
  if c.serves (pgMem die.val) then c.retWoken die.val bank.toNat else c

end Sys2Proof.Machine
end

