-- ==== Sys2Proof/Machine/Livery.lean ====
section
/-! DEFINITION. Livery records (R335, R340 to R342): bringing a livery into and out of use, its seeds and its energy. -/

namespace Sys2Proof.Machine

/-- The livery that LIV_SEL selects. -/
def Chip.selLivery (c : Chip) : Nat := c.field pgLiv 0x1000 0 8

/-- Units that a livery holds in the pools of every die, quarantined cells excepted (R342). -/
def Chip.unitsHeld (c : Chip) (l : Nat) : Nat :=
  (c.pool.owner.filter (fun kv => decide (kv.2 = l + 1) &&
    !(decide (kv.1 / 1048576 % 8 = plCell) && (c.cell (kv.1 / 8388608 - 28) (kv.1 % 1048576)).quarantined))).length

/-- Whether the device refuses a write that clears VALID (R342). -/
def Chip.livBusy (c : Chip) (l : Nat) : Bool :=
  c.ttEnabled l || c.livHasCoach l || (c.tdStat l 1 && !c.tdStat l 2) || decide (0 < c.unitsHeld l)

/-- Every seed of a livery becomes 0 (R340). -/
def Chip.dropSeeds (c : Chip) (l : Nat) : Chip :=
  { c with sec := { c.sec with seeds := c.sec.seeds.filter (fun kv => !decide (kv.1 / 16 = l)) } }

def Chip.energyOf (c : Chip) (k : Nat) : Nat := Tbl.get 0 c.sec.energy k
def Chip.setEnergy (c : Chip) (k n : Nat) : Chip :=
  { c with sec := { c.sec with energy := Tbl.set 0 c.sec.energy k (n % 2 ^ 64) } }

/-- The energy of a livery counts from 0 (R341). -/
def Chip.zeroEnergy (c : Chip) (l : Nat) : Chip :=
  let c := c.setEnergy l 0
  { c with act := { c.act with rest := Tbl.set 0 c.act.rest l 0, work := c.act.work.filter (fun kv => decide (kv.1 % 257 ≠ l)) } }

/-- The key of the unattributed energy (R341). -/
def unattr : Nat := 256

/-- A LIV_CTRL write (R342): VALID falling clears the seeds (R340), VALID rising clears the energy (R341). -/
def Chip.livWrite (c : Chip) (v : W32) : Chip :=
  let l := c.selLivery
  let was := c.livValid l
  let is := v.getLsbD 0
  if was && !is && c.livBusy l then c.setFlag pgLiv 0x1008 0 true l
  else
    let c := c.setReg pgLiv 0x1004 (v &&& 0x3FF001F) l
    if was && !is then c.dropSeeds l else if !was && is then c.zeroEnergy l else c

/-- LIV_SEED_CMD.WRITE (R340): the staged 64 bits become the seed in one step. -/
def Chip.seedSet (c : Chip) (i : Nat) : Chip :=
  { c with sec := { c.sec with seeds := Tbl.set 0 c.sec.seeds (c.selLivery * 16 + i) c.sec.seedStage } }

/-- A read of LIV_ENERGY_LO or LIV_ENERGY_UNATTR_LO: it returns the low half and latches the high half (R352). -/
def Chip.energyRead (c : Chip) (un : Bool) : Chip :=
  let l := c.selLivery
  let e := c.energyOf (if un then unattr else l)
  let hi := BitVec.ofNat 32 (e / 4294967296)
  (if un then c.setReg pgLiv 0x103C hi else c.setReg pgLiv 0x1034 hi l).answer (BitVec.ofNat 32 e)

/-- The meaning of LIV_CTRL_WRITE (R342). -/
def execLivCtrlWrite (v : W32) (s : State) : Host.Outcome State Fault Refusal := s.run fun c =>
  if c.serves pgLiv then c.livWrite v else c
/-- The meaning of SEED_WRITE (R340). -/
def execSeedWrite (index : BitVec 4) (s : State) : Host.Outcome State Fault Refusal := s.run fun c =>
  if c.serves pgLiv then c.seedSet index.toNat else c
/-- The meaning of ENERGY_LO_READ (R352). -/
def execEnergyLoRead (unattributed : Bool) (s : State) : Host.Outcome State Fault Refusal := s.run fun c =>
  if c.serves pgLiv then c.energyRead unattributed else c.answer 0

end Sys2Proof.Machine
end

