-- ==== Sys2Proof/Machine/Flash.lean ====
section
/-! DEFINITION. The flash beside the package (R357, R358, R465): reading, programming and erasing, the state of an image
slot, and the error log ring (R425). -/

namespace Sys2Proof.Machine

/-- What an erased byte of flash reads as: programming only clears bits (R358). -/
def erased : Byte := 0xFF

def Chip.flashByte (c : Chip) (a : Nat) : Byte := Tbl.get erased c.fw.flash a
def Chip.flashRead (c : Chip) (a n : Nat) : List Byte := (List.range n).map (fun i => c.flashByte (a + i))
def Chip.setFlash (c : Chip) (m : Tbl Byte) : Chip := { c with fw := { c.fw with flash := m } }

/-- Programming clears bits and sets none (R358). -/
def program (m : Tbl Byte) (a : Nat) : List Byte → Tbl Byte
  | [] => m
  | b :: bs => program (Tbl.set erased m a (Tbl.get erased m a &&& b)) (a + 1) bs

def Chip.flashProgram (c : Chip) (a : Nat) (bs : List Byte) : Chip := c.setFlash (program c.fw.flash a bs)

/-- An erase of `n` bytes returns every bit to 1. -/
def Chip.flashErase (c : Chip) (a n : Nat) : Chip :=
  c.setFlash (c.fw.flash.filter (fun kv => !decide (a ≤ kv.1 ∧ kv.1 < a + n)))

/-! Image slots (R358) -/

/-- Slot states (R358). -/
inductive SlotState where
  | empty | ready | trial | confirmed | rejected
  deriving DecidableEq, Repr

def slotBytes : Nat := 0x800000
/-- The flash address of slot 0 (A) or 1 (B). -/
def slotBase (k : Nat) : Nat := k * slotBytes

/-- The STATE word of a slot (R358). -/
def Chip.slotWord (c : Chip) (k : Nat) : Nat := natOfLE (c.flashRead (slotBase k) 4)

/-- The state a STATE word names; any value that the table does not list is REJECTED. -/
def slotStateOf (w : Nat) : SlotState :=
  if w = 0xFFFFFFFF then .empty else if w = 0xFFFFFF00 then .ready else if w = 0xFFFF0000 then .trial
  else if w = 0xFF000000 then .confirmed else .rejected

def Chip.slotState (c : Chip) (k : Nat) : SlotState := slotStateOf (c.slotWord k)

/-- The STATE word of a state. -/
def SlotState.word : SlotState → Nat
  | .empty => 0xFFFFFFFF | .ready => 0xFFFFFF00 | .trial => 0xFFFF0000 | .confirmed => 0xFF000000 | .rejected => 0

def Chip.writeSlotState (c : Chip) (k : Nat) (x : SlotState) : Chip := c.flashProgram (slotBase k) (bytesLE 4 x.word)

/-! The error log ring (R425) -/

def logBase : Nat := 0x1100000
/-- Pages of 4 KiB in the 31 MiB of the ring. -/
def logPages : Nat := 7936
def logPageAddr (i : Nat) : Nat := logBase + i % logPages * 4096

def logMagic : Nat := 0x4E4A4C4F

/-- The 32-byte header of a log page before its CRC. -/
def logHead (seq first count : Nat) : List Byte :=
  bytesLE 4 logMagic ++ bytesLE 4 seq ++ bytesLE 4 first ++ bytesLE 2 count ++ List.replicate 14 0

/-- Write one page of the ring: a sector is erased before it is entered, and what the body leaves stays erased. -/
def Chip.logPageWrite (c : Chip) (first count : Nat) (body : List Byte) : Chip :=
  let i := c.fw.logPage
  let c := if i % 16 = 0 then c.flashErase (logPageAddr i) 65536 else c
  let head := logHead c.fw.logSeq first count
  let rest := body ++ List.replicate (4064 - body.length) erased
  let c := c.flashProgram (logPageAddr i) (head ++ bytesLE 4 (crc32 (head ++ rest)).toNat ++ body)
  { c with fw := { c.fw with logPage := (i + 1) % logPages, logSeq := (c.fw.logSeq + 1) % 2 ^ 32 } }

/-- The bytes of an event record in event-record form (R424): 32-bit words of its bits, lowest first. -/
def recordLE (r : BitVec 256) : List Byte := bytesLE 32 r.toNat

def evSeqOf (r : BitVec 256) : Nat := fld r 96 32

/-- Commit records, up to 127 to a page (R425); `fuel` bounds the pages. -/
def Chip.logCommitAll : Nat → List (BitVec 256) → Chip → Chip
  | _, [], c => c
  | 0, _, c => c
  | n + 1, r :: rs, c =>
    let now := (r :: rs).take 127
    let c := c.logPageWrite (evSeqOf r) now.length (now.flatMap recordLE)
    Chip.logCommitAll n ((r :: rs).drop 127)
      (c.setReg pgFlt 0x1018 (BitVec.ofNat 32 (evSeqOf (now.getLastD r))))

/-- Firmware commits every record it has not taken; each record that the ring has overwritten raises
EV_EVQ_OVERFLOW (R424, R425). -/
def Chip.logCommit (c : Chip) : Chip :=
  let placed := c.ev.placed
  let from_ := max c.ev.taken (placed - 1024)
  let missed := from_ - c.ev.taken
  let rs := (List.range (placed - from_)).map (fun i => Tbl.get 0 c.ev.ring ((from_ + i) % 1024))
  let c := Chip.logCommitAll 16 rs c
  let c := { c with ev := { c.ev with taken := placed } }
  forAll (List.range missed) c (fun _ c => c.raise (evP pgFlt 0x0A06 dieM 0))

/-- Whether a page of the ring carries a valid CRC (R425). -/
def Chip.logPageValid (c : Chip) (i : Nat) : Bool :=
  let a := logPageAddr i
  decide (natOfLE (c.flashRead a 4) = logMagic) &&
    decide (natOfLE (c.flashRead (a + 28) 4) = (crc32 (c.flashRead a 28 ++ c.flashRead (a + 32) 4064)).toNat)

/-- The pages of the ring with a valid CRC, oldest first: the ring starts after its newest page. -/
def Chip.logValidPages (c : Chip) : List Nat :=
  ((List.range logPages).map (fun i => (c.fw.logPage + i) % logPages)).filter c.logPageValid

/-- The records of a page. -/
def Chip.logRecords (c : Chip) (i : Nat) : List (BitVec 256) :=
  let a := logPageAddr i
  (List.range (min 127 (natOfLE (c.flashRead (a + 12) 2)))).map (fun j =>
    BitVec.ofNat 256 (natOfLE (c.flashRead (a + 32 + 32 * j) 32)))

/-- The newest of two page SEQs, modulo 2^32. -/
def seqNewer (a b : Nat) : Bool := let d := (a + 2 ^ 32 - b % 2 ^ 32) % 2 ^ 32; decide (1 ≤ d ∧ d < 2 ^ 31)

/-- At start, firmware goes on after the newest page with a valid CRC (R425). -/
def Chip.logFind (c : Chip) : Chip :=
  let pages := (List.range logPages).filter c.logPageValid
  let seqOf (i : Nat) : Nat := natOfLE (c.flashRead (logPageAddr i + 4) 4)
  match pages.foldl (fun (b : Option Nat) i => match b with
      | some j => if seqNewer (seqOf i) (seqOf j) then some i else some j
      | none => some i) none with
  | some i => { c with fw := { c.fw with logPage := (i + 1) % logPages, logSeq := (seqOf i + 1) % 2 ^ 32 } }
  | none => c

/-! The last-gasp record (R422) -/

def gaspBase : Nat := 0x3000000
def gaspMagic : Nat := 0x4E4A4C47

/-- Whether 256 bytes are a valid last-gasp record. -/
def gaspValid (bs : List Byte) : Bool :=
  decide (natOfLE (bs.take 4) = gaspMagic) && decide (natOfLE (slice bs 252 4) = (crc32 (bs.take 252)).toNat)

/-- Firmware copies a valid record into the error log, on a page that counts no event record, and erases the area. -/
def Chip.gaspCopy (c : Chip) : Chip :=
  let bs := c.flashRead gaspBase 256
  if gaspValid bs then (c.logPageWrite (c.reg pgFlt 0x1018).toNat 0 bs).flashErase gaspBase 0x100000 else c

end Sys2Proof.Machine
end

