-- ==== Sys2Proof/Machine/Power.lean ====
section
/-! DEFINITION. Power and thermal control by V0 (R28 to R32, R377 to R402, R422): rails and setpoints, phases and current
limits, estimates and their calibration, the meters, budget sharing, supply loss, calibration storage, and the thermal
sensors with throttle and trip. -/

namespace Sys2Proof.Machine

/-- Whether V0 works. -/
def Chip.v0Up (c : Chip) : Bool := c.standbyUp && !c.dieFailed dieV

/-! Rails (R378) -/

/-- The rails of a die. -/
def railsOf (die : Nat) : List Nat :=
  if die < 8 then [die, 8 + die, 16 + die] else if die < 24 then [16 + die, 32 + die]
  else if die < 28 then [32 + die, 36 + die] else if die < 30 then [36 + die, 38 + die]
  else if die = dieM then [68, 69] else [70]

/-- The die of a rail. -/
def dieOfRail (r : Nat) : Nat :=
  if r < 24 then r % 8 else if r < 56 then 8 + (r - 24) % 16 else if r < 64 then 24 + r % 4
  else if r < 68 then 28 + r % 2 else if r < 70 then dieM else dieV

/-- Regulator phases of a rail. -/
def railPhases (r : Nat) : Nat :=
  if r < 8 then 4 else if r < 16 then 2 else if r < 24 then 3 else if r < 40 then 8 else if r < 66 then 4 else 2

/-- Nominal limit of a rail in A. -/
def railNominal (r : Nat) : Nat :=
  if r < 8 then 120 else if r < 16 then 40 else if r < 24 then 90 else if r < 40 then 240 else if r < 56 then 60
  else if r < 60 then 120 else if r < 64 then 40 else if r < 66 then 120 else if r < 68 then 60
  else if r = 68 then 60 else if r = 69 then 30 else 20

/-- Setpoint range of a rail in mV; rail 70 is fixed. -/
def railRange (r : Nat) : Nat × Nat :=
  if r < 8 then (720, 850) else if r < 16 then (750, 900) else if r < 24 then (880, 920) else if r < 40 then (700, 900)
  else if r < 56 then (750, 900) else if r < 60 then (700, 900) else if r < 64 then (750, 900)
  else if r < 66 then (720, 850) else if r < 68 then (750, 900) else if r = 68 then (720, 850) else (750, 900)

/-- The metered domain that a rail feeds (R378): 0 to 15 the coach dies, 16 the crossbar. -/
def railDomain (r : Nat) : Option Nat :=
  if 24 ≤ r ∧ r < 56 then some ((r - 24) % 16) else if 56 ≤ r ∧ r < 64 then some 16 else none

def Chip.rail (c : Chip) (r : Nat) : RailSt := Tbl.get RailSt.off c.pwr.rails r
def Chip.setRail (c : Chip) (r : Nat) (x : RailSt) : Chip :=
  { c with pwr := { c.pwr with rails := Tbl.set RailSt.off c.pwr.rails r x } }

/-- The setpoint of a rail in mV. -/
def Chip.setpoint (c : Chip) (r : Nat) : Nat := c.field pgPwr 0x1024 0 10 r

/-- The regulator output in mV: on its way to the setpoint at 1 mV/µs (R392). -/
def Chip.railOut (c : Chip) (r : Nat) : Nat :=
  let x := c.rail r
  let gone := (c.time.now - x.since) / usUnits 1
  if !x.on then 0
  else if x.start ≤ c.setpoint r then min (c.setpoint r) (x.start + gone)
  else max (c.setpoint r) (x.start - gone)

/-- A setpoint takes effect (R392): the rail slews from its present output. -/
def Chip.retarget (c : Chip) (r v : Nat) : Chip :=
  let o := c.railOut r
  (c.setRail r { c.rail r with start := o, since := c.time.now }).setReg pgPwr 0x1024 (BitVec.ofNat 32 v) r

/-- PWR_RAIL_STAT.SLEWING (R392). -/
def Chip.slewing (c : Chip) (r : Nat) : Bool := (c.rail r).on && decide (c.railOut r ≠ c.setpoint r)

/-- A rail is at its setpoint. -/
def Chip.railSettle (c : Chip) (r : Nat) : Chip :=
  c.setRail r { c.rail r with start := c.setpoint r, since := c.time.now }

/-- The highest core setpoint of a coach die. -/
def Chip.coachMax (c : Chip) : Nat := (List.range 16).foldl (fun m d => max m (c.setpoint (24 + d))) 0

/-- Whether a setpoint write is refused (R379). -/
def Chip.vsetRefused (c : Chip) (r v : Nat) : Bool :=
  decide (r = 70 ∨ v < (railRange r).1 ∨ (railRange r).2 < v) || (decide (56 ≤ r ∧ r < 60) && decide (v < c.coachMax))

/-- A PWR_RAIL_VSET write (R379). -/
def Chip.vsetWrite (c : Chip) (v : W32) : Chip :=
  let r := c.field pgPwr 0x1020 0 7
  let n := fld v 0 10
  if 70 < r then c
  else if c.vsetRefused r n then c.setFlag pgPwr 0x1004 4 true
  else
    let raise := decide (24 ≤ r ∧ r < 40) && [56, 57, 58, 59].any (fun x => decide (c.setpoint x < n))
    let c := c.retarget r n
    if raise then forAll [56, 57, 58, 59] c (fun x c => c.retarget x n) else c

/-- RAIL_SLEW_DONE (R392): a slewing rail has reached its setpoint. While fabric time runs, that is when it has slewed
there at 1 mV/µs; before, the command tells it. -/
def Chip.slewDone (c : Chip) (r : Nat) : Chip :=
  if (c.rail r).on && (!c.time.running || decide (c.railOut r = c.setpoint r)) then c.railSettle r else c

/-- A rail is removed. -/
def Chip.removeRail (c : Chip) (r : Nat) : Chip :=
  c.setRail r { c.rail r with on := false, start := 0, since := c.time.now }

/-- A rail fault (R380): every rail of the die is removed, and the die is lost. -/
def Chip.railFault (c : Chip) (r : Nat) : Chip :=
  let die := dieOfRail r
  let c := (c.raise (evP pgPwr 0x0904 dieV r)).setFlag pgPwr 0x1030 11 true r
  (forAll (railsOf die) c (fun x c => c.removeRail x)).dieFail die

/-! Phases and effective limits (R386, R393) -/

def Chip.shed (c : Chip) (r k : Nat) : Bool := c.flag pgPwr 0x1030 k r
def Chip.senseFail (c : Chip) (r : Nat) : Bool := c.flag pgPwr 0x1030 8 r
/-- Estimate-only control: after a sensor failure, or until the first calibration interval without a calibration. -/
def Chip.estimateOnly (c : Chip) (r : Nat) : Bool := c.senseFail r || c.pwr.estOnly.getLsbD (dieOfRail r)

/-- Phases of a rail that are in service. -/
def Chip.phasesLeft (c : Chip) (r : Nat) : Nat :=
  ((List.range (railPhases r)).filter (fun k => !c.shed r k)).length

/-- The effective limit of a rail in 1/100 A, and in A (R386). -/
def Chip.effCentiamp (c : Chip) (r : Nat) : Nat :=
  railNominal r * c.phasesLeft r * (if c.estimateOnly r then 85 else 100) / railPhases r
def Chip.effLimit (c : Chip) (r : Nat) : Nat := c.effCentiamp r / 100

/-- Failures of a rail (R395). -/
def Chip.railFailures (c : Chip) (r : Nat) : Nat := railPhases r - c.phasesLeft r + (c.senseFail r).toNat

/-- Whether the current of phase `k` is suspect against the other phases in service (R393): in 1/64 A. -/
def suspectPhase (cur others m : Nat) : Bool := decide (4 * cur * m < others) || decide (2 * others < cur * m)

/-- One phase of an evaluation (R393): a suspect of five evaluations is shed as open, or its sensor has failed. -/
def Chip.phaseCheck (c : Chip) (r : Nat) (cur : List Nat) (estimate : Nat) (k : Nat) : Chip :=
  let x := c.rail r
  let n := railPhases r
  let ks := (List.range n).filter (fun j => j ≠ k && !c.shed r j && !x.badSense.getLsbD j)
  let others := ks.foldl (fun t j => t + cur.getD j 0) 0
  let mine := cur.getD k 0
  if c.shed r k || x.badSense.getLsbD k || ks.isEmpty then c
  else if !suspectPhase mine others ks.length then c.setRail r { x with suspect := Tbl.set 0 x.suspect k 0 }
  else if Tbl.get 0 x.suspect k < 4 then
    c.setRail r { x with suspect := Tbl.set 0 x.suspect k (Tbl.get 0 x.suspect k + 1) }
  else if 4 * mine * ks.length < others ∧ (2 * n - 1) * estimate ≤ others * (2 * n) then
    let c := (c.setRail r { x with suspect := Tbl.set 0 x.suspect k 0 }).setFlag pgPwr 0x1030 k true r
    (c.bump pgPwr 0x1108).raise (evP pgPwr 0x0902 dieV r (2 ^ k))
  else
    let again := c.senseFail r
    let c := c.setRail r { x with suspect := Tbl.set 0 x.suspect k 0, badSense := putBit x.badSense k true }
    let c := (c.setFlag pgPwr 0x1030 8 true r).raise (evP pgPwr 0x0903 dieV r (2 ^ k))
    if again then c else c.bump pgPwr 0x110C

/-! Estimates and calibration (R381, R382) -/

def Chip.calOf (c : Chip) (die : Nat) : CalDie := Tbl.get CalDie.reset c.pwr.cals die
def Chip.setCal (c : Chip) (die : Nat) (x : CalDie) : Chip :=
  { c with pwr := { c.pwr with cals := Tbl.set CalDie.reset c.pwr.cals die x } }

/-- Junction temperature of a die in 1/8 °C (R400). -/
def Chip.junction (c : Chip) (die : Nat) : Int := signed 12 (c.field pgThm 0x1008 0 12 die)

/-- The energy coefficient of an activity event in pJ (R381, R399). -/
def Chip.coeff (c : Chip) (die kind : Nat) : Nat :=
  match c.pwr.coeffs with
  | some xs => (xs.getD (die * 6 + kind) 0).toNat
  | none => (Config.fuseCoeff die kind).toNat

/-- What an activity key names: its die, its kind and its livery. -/
def actDie (k : Nat) : Nat := k / 257 / 128 / 8
def actKind (k : Nat) : Nat := k / 257 / 128 % 8
def actLiv (k : Nat) : Nat := k % 257

/-- The energy in pJ of counted activity. -/
def Chip.actEnergy (c : Chip) (xs : Tbl Nat) : Nat :=
  xs.foldl (fun t kv => t + kv.2 * c.coeff (actDie kv.1) (actKind kv.1)) 0

/-- The SerDes lanes of a die that are active: powered, and not in electrical idle (R239). -/
def Chip.lanesActive (c : Chip) (die : Nat) : Nat :=
  if die < 8 ∧ (c.rail (16 + die)).on then
    ((List.range 128).filter (fun k => !(c.reg (pgSds die) 0x1008 k).getLsbD 1)).length
  else 0

/-- The static term of a die's power in W (R381). -/
def Chip.staticWatts (c : Chip) (die : Nat) : Rat :=
  mkRat (Config.staticMicrowatt die ((railsOf die).map c.railOut) (c.junction die)) 1000000

/-- The raw estimate of a die in W (R381): the energy of the activity of 1 µs, and the static term. -/
def Chip.rawEstimate (c : Chip) (die : Nat) : Rat :=
  mkRat (c.actEnergy (c.act.due.filter (fun kv => decide (actDie kv.1 = die))) + c.lanesActive die * c.coeff die actSerdes)
    1000000 + c.staticWatts die

/-- The calibrated estimate of a die in W: g × E + o (R382). -/
def Chip.estimateOf (c : Chip) (die : Nat) : Rat :=
  (c.calOf die).gain * Tbl.get 0 c.pwr.estimate die + (c.calOf die).offset

/-- A rail's share of its die's estimate (R381). -/
def railShare (r : Nat) : Rat :=
  mkRat (Config.railWeight r + 1) ((railsOf (dieOfRail r)).foldl (fun t x => t + Config.railWeight x + 1) 0)

/-- The estimated current of a rail in 1/64 A (R381): its share of its die's estimate over its output voltage. -/
def Chip.railEst (c : Chip) (r : Nat) : Nat :=
  if c.railOut r = 0 then 0
  else (railShare r * c.estimateOf (dieOfRail r) * 64000 / (c.railOut r : Rat)).floor.toNat

/-- The dies of a metered domain, and its rails. -/
def domainDies (d : Nat) : List Nat := if d = 16 then [24, 25, 26, 27] else [8 + d]
def domainRails (d : Nat) : List Nat := if d = 16 then (List.range 8).map (56 + ·) else [24 + d, 40 + d]

/-- The estimate of series 0 to 15 (coach dies), 16 (crossbar) or 17 (the unmetered total) (R388). -/
def Chip.seriesNow (c : Chip) (k : Nat) : Rat :=
  let dies := if k = 17 then (List.range 8) ++ [28, 29, 30, 31] else domainDies k
  dies.foldl (fun t x => t + c.estimateOf x) 0

/-- Whether the profile is learned over the reference livery's step. -/
def Chip.refLive (c : Chip) : Bool := c.flag pgPwr 0x1014 8 && c.ttEnabled (c.field pgPwr 0x1014 0 8)

/-- The refreshed raw estimates (R381), with the sums for the calibration interval (R382); the energy of 1 µs that no
activity explains, and that of the SerDes lanes, belongs to no livery (R383). -/
def Chip.reestimate (c : Chip) : Chip :=
  let ds := List.range 32
  let idle (d : Nat) : Rat :=
    let x := c.calOf d
    x.gain * (c.staticWatts d + mkRat (c.lanesActive d * c.coeff d actSerdes) 1000000) + x.offset
  { c with
    pwr := { c.pwr with
      estimate := ds.foldl (fun m d => Tbl.set 0 m d (c.rawEstimate d)) c.pwr.estimate
      estSum := ds.foldl (fun m d => Tbl.set 0 m d (Tbl.get 0 m d + c.rawEstimate d)) c.pwr.estSum
      estN := ds.foldl (fun m d => Tbl.set 0 m d (Tbl.get 0 m d + 1)) c.pwr.estN }
    act := { c.act with due := [], idle := ds.foldl (fun t d => t + idle d) c.act.idle } }

/-- ESTIMATE_REFRESH (R381): every 1 µs. The means of the present bin go on while the reference livery is enabled, and a
bin in which it was not is not learned (R388). -/
def Chip.estimates (c : Chip) : Chip :=
  let c := c.reestimate
  let p := c.pwr
  if !c.refLive then { c with pwr := { p with curBin := none, binSum := [], binN := 0 } }
  else if p.curBin.isNone then c
  else { c with pwr := { p with
    binSum := (List.range 18).foldl (fun m k => Tbl.set 0 m k (Tbl.get 0 m k + c.seriesNow k)) p.binSum
    binN := p.binN + 1 } }

def ratSum (xs : List Rat) : Rat := xs.foldl (· + ·) 0
def ratClamp (lo hi x : Rat) : Rat := max lo (min hi x)

/-- PHASE_EVALUATION (R393): phase currents in 1/64 A, while the rail carries at least 20 % of its nominal limit. -/
def Chip.phaseEval (c : Chip) (r : Nat) (cur : List Nat) : Chip :=
  let sum := (cur.take (railPhases r)).foldl (· + ·) 0
  let est := c.railEst r
  let load := if c.estimateOnly r then est else sum
  let c := c.setReg pgPwr 0x1034
    (BitVec.ofNat 32 ((if c.estimateOnly r then 0 else min 65535 sum) + min 65535 est * 65536)) r
  if railNominal r * 64 ≤ load * 5 then
    forAll (List.range (railPhases r)) c (fun k c => c.phaseCheck r cur est k)
  else c

/-- The least-squares gain of pairs (E, M), if the values of E span at least 5 % of their mean (R382). -/
def fitGain (ps : List (Rat × Rat)) : Option Rat :=
  let n : Rat := (ps.length : Rat)
  let es := ps.map (·.1)
  let se := ratSum es
  let sm := ratSum (ps.map (·.2))
  let see := ratSum (es.map (fun e => e * e))
  let sem := ratSum (ps.map (fun p => p.1 * p.2))
  let den := n * see - se * se
  let span := es.foldl max 0 - es.foldl min (es.headD 0)
  if ps.length = 16 ∧ se / (n * 20) ≤ span ∧ den ≠ 0 then some ((n * sem - se * sm) / den) else none

/-- The nominal rail power of a die in W. -/
def nominalPower (die : Nat) : Rat := ratSum ((railsOf die).map (fun r => mkRat (railNominal r * railDefault r) 1000))

/-- The mean raw estimate of a die since its last calibration interval, in W (R382). -/
def Chip.estMean (c : Chip) (die : Nat) : Rat :=
  match Tbl.get 0 c.pwr.estN die with
  | 0 => Tbl.get 0 c.pwr.estimate die
  | n + 1 => Tbl.get 0 c.pwr.estSum die / ((n + 1 : Nat) : Rat)

/-- The measured power of a die in W: the sum over its rails of output voltage times mean measured current in 1/64 A; a
rail whose sensor has failed counts by its estimate (R382, R393). -/
def Chip.measuredPower (c : Chip) (die : Nat) (cur : List Nat) : Rat :=
  ratSum (((railsOf die).zip (cur ++ List.replicate 3 0)).map (fun p =>
    mkRat (c.railOut p.1 * (if c.senseFail p.1 then c.railEst p.1 else p.2)) 64000))

/-- The calibration of a die after an interval of mean estimate and mean measured power (R382). -/
def CalDie.refit (x : CalDie) (die : Nat) (frozen : Bool) (e m : Rat) : CalDie :=
  let ps := (x.pairs ++ [(e, m)]).drop (x.pairs.length + 1 - 16)
  let n : Rat := (ps.length : Rat)
  let g := (fitGain ps).getD x.gain
  let o := ratSum (ps.map (·.2)) / n - g * (ratSum (ps.map (·.1)) / n)
  if frozen then { x with pairs := ps }
  else ⟨ratClamp (mkRat 80 100) (mkRat 125 100) g, ratClamp (-(nominalPower die / 10)) (nominalPower die / 10) o, ps⟩

/-- CALIBRATION_INTERVAL (R382): the mean measured currents of a die's rails over 1 ms. A die with a rail in
estimate-only control keeps its gain and offset; the first interval ends the estimate-only control of R399.
PWR_PKG_POWER is the sum of the dies' measured powers. -/
def Chip.calibrate (c : Chip) (die : Nat) (cur : List Nat) : Chip :=
  let m := c.measuredPower die cur
  let c := c.setCal die ((c.calOf die).refit die ((railsOf die).any c.senseFail) (c.estMean die) m)
  let c := { c with pwr := { c.pwr with
    estOnly := putBit c.pwr.estOnly die false, measured := Tbl.set 0 c.pwr.measured die m
    estSum := Tbl.set 0 c.pwr.estSum die 0, estN := Tbl.set 0 c.pwr.estN die 0 } }
  let total := ratSum ((List.range 32).map (fun d => Tbl.get 0 c.pwr.measured d))
  c.setReg pgPwr 0x1010 (BitVec.ofNat 32 (min 8191 total.floor.toNat))

/-! Attribution of energy (R341, R383) -/

/-- The energy of a livery's counted activity in µJ: each event at its coefficient and its die's gain. -/
def Chip.workEnergy (c : Chip) (l : Nat) : Rat :=
  ratSum ((c.act.work.filter (fun kv => decide (actLiv kv.1 = l))).map (fun kv =>
    (c.calOf (actDie kv.1)).gain * mkRat (kv.2 * c.coeff (actDie kv.1) (actKind kv.1)) 1000000))

/-- An energy counter takes energy in µJ: whole units count, and the rest is kept for the next interval. -/
def Chip.addEnergy (c : Chip) (k : Nat) (e : Rat) : Chip :=
  let t := Tbl.get 0 c.act.rest k + e
  let n := max 0 t.floor
  let c := { c with act := { c.act with rest := Tbl.set 0 c.act.rest k (t - (n : Rat)) } }
  c.setEnergy k (c.energyOf k + n.toNat)

/-- ENERGY_ATTRIBUTION (R341, R383): the activity since the last one is charged to the liveries that caused it, and the
rest to LIV_ENERGY_UNATTR. -/
def Chip.attribute (c : Chip) : Chip :=
  let n := c.takeFresh
  let c := n.2
  let ls := (c.act.work.map (fun kv => actLiv kv.1)).eraseDups.filter (fun l => decide (l ≠ noLivery))
  let free := c.workEnergy noLivery + c.act.idle + (Config.lossMicrojoule n.1 : Rat)
  let shares := ls.map (fun l => (l, c.workEnergy l))
  let c := forAll shares c (fun x c => c.addEnergy x.1 x.2)
  let c := c.addEnergy unattr free
  { c with act := { c.act with work := [], idle := 0 } }

/-! Metered domains (R384, R385, R401) -/

/-- FLOOR of a domain (R384). -/
def Chip.meterFloor (c : Chip) (d : Nat) : Nat :=
  if d = 16 then 75 else 9920 - 124 * (c.lanesAt d).waiting.length

/-- The largest RATE of a domain. -/
def Chip.meterMax (c : Chip) (d : Nat) : Nat :=
  if d = 16 then 100 else max (c.meterFloor d) (min 65535 (Config.unmeteredRate d))

/-- The highest of a list of temperatures. -/
def maxTemp : List Int → Int
  | [] => -2048
  | t :: ts => max t (maxTemp ts)

/-- The junction temperature of a domain, over its dies in service (R400). -/
def Chip.domainTemp (c : Chip) (d : Nat) : Int :=
  maxTemp (((domainDies d).filter (fun x => !c.dieFailed x)).map c.junction)

/-- The thermal allowance of R401. -/
def thermalRate (floor max_ : Nat) (t : Int) : Nat :=
  if t < 800 then max_
  else if t ≤ 840 then floor + (max_ - floor) * (840 - t).toNat / 40
  else max (floor / 8) (floor * (920 - t).toNat / 80)

/-- The current-limit allowance of a domain: the lowest of its rails' (R386). -/
def Chip.ilimAllow (c : Chip) (d : Nat) : Nat :=
  (domainRails d).foldl (fun m r => match Tbl.get none c.pwr.ilim r with | some n => min m n | none => m) (c.meterMax d)

/-- The budget allowance of a domain (R389). -/
def Chip.budgetAllow (c : Chip) (d : Nat) : Nat :=
  match c.flag pgPwr 0x1000 0, Tbl.get none c.pwr.budget d with
  | true, some n => min n (c.meterMax d)
  | _, _ => c.meterMax d

/-- The current in 1/100 A that a metered rail draws at its domain's floor (R387): at most 62 % of its nominal limit up
to 105 °C. -/
def Chip.floorCurrent (c : Chip) (d r : Nat) : Nat :=
  let n := Config.floorCentiamp c.fresh r
  if c.domainTemp d ≤ 840 then min n (railNominal r * 62) else n

/-- The RATE, below the floor, to which a rail with more than one failure pulls its domain when its effective limit is
below its floor current (R395). -/
def Chip.deepLimit (c : Chip) (d : Nat) : Option Nat :=
  (domainRails d).foldl (fun m r =>
    if 2 ≤ c.railFailures r ∧ c.effCentiamp r < c.floorCurrent d r then
      let n := min (Config.rateAtLimit c.fresh r) (c.meterFloor d - 1)
      some (match m with | some k => min k n | none => n)
    else m) none

/-- Set a domain's meter (R385). -/
def Chip.meterSet (c : Chip) (d : Nat) : Chip :=
  let floor := c.meterFloor d
  let top := c.meterMax d
  let t := c.domainTemp d
  let th := thermalRate floor top t
  let il := c.ilimAllow d
  let bu := c.budgetAllow d
  let kept := max floor (min bu (min th il))
  let kept := if 840 < t then min kept th else kept
  let kept := match c.deepLimit d with | some n => min kept n | none => kept
  let stop := c.pwr.vinLost || c.pwr.tripped
  let rate := if stop then 0 else min kept top
  let b (x : Bool) (i : Nat) : Nat := if x then 2 ^ i else 0
  let was := c.flag pgPwr 0x1048 0 d
  let stat := b (decide (rate < floor)) 0 + b (decide (th ≤ rate ∧ th < top)) 1 + b (decide (il ≤ rate ∧ il < top)) 2 +
    b (decide (bu ≤ rate ∧ bu < top)) 3 + b (c.flag pgPwr 0x1048 4 d) 4 + b c.pwr.vinLost 5
  let c := (c.setReg pgPwr 0x1044 (BitVec.ofNat 32 rate) d).setReg pgPwr 0x1048 (BitVec.ofNat 32 stat) d
  if rate < floor ∧ !was then c.raise (evP pgPwr 0x0907 dieV d) else c

def Chip.metersSet (c : Chip) : Chip := forAll (List.range 17) c (fun d c => c.meterSet d)

/-! Current limits (R386) -/

/-- A metered rail's average passes its effective limit: the domain's allowance is lowered from where it stands, within
the same 2 µs. -/
def Chip.ilimCross (c : Chip) (r : Nat) : Chip :=
  match railDomain r with
  | none => c
  | some d =>
    let n := c.takeFresh
    let c := { n.2 with pwr := { n.2.pwr with ilim := Tbl.set none n.2.pwr.ilim r (some (min (Config.ilimRate n.1) (c.ilimAllow d - 1))) } }
    let c := ((c.setFlag pgPwr 0x1030 10 true r).bump pgPwr 0x1100).raiseLim (evP pgPwr 0x0901 dieV r) r (usUnits 1000)
    c.meterSet d

/-- The average has stayed below 95 % of the limit for 10 µs: the allowance is raised again. -/
def Chip.ilimRelease (c : Chip) (r : Nat) : Chip :=
  match railDomain r with
  | none => c
  | some d =>
    ({ c.setFlag pgPwr 0x1030 10 false r with pwr := { c.pwr with ilim := Tbl.set none c.pwr.ilim r none } }).meterSet d

/-- A phase of an unmetered rail limits itself cycle by cycle. -/
def Chip.hardLimit (c : Chip) (r : Nat) : Chip :=
  match railDomain r with
  | none => (c.bump pgPwr 0x1104).raise (evP pgPwr 0x0901 dieV r)
  | some _ => c

/-! Budget sharing (R388 to R391) -/

/-- The bin of the reference livery's step that stands now, and its CYCLE (R388). -/
def Chip.binNow (c : Chip) : Option (Nat × Nat) :=
  let l := c.field pgPwr 0x1014 0 8
  match c.governs l (c.currentStep l) with
  | some (_, t, cy) =>
    let pos := ((c.time.now : Int) - t).toNat / slotUnits
    if 0 < cy then some (min 255 ((256 * (pos + 1) - 1) / cy), cy) else none
  | none => none

def profileKey (b k : Nat) : Nat := b * 18 + k

/-- A bin has ended: the mean of each series joins those of the last 64 step cycles. -/
def Chip.closeBin (c : Chip) (b : Nat) : Chip :=
  if c.pwr.binN = 0 then c
  else
    { c with pwr := { c.pwr with
        profile := (List.range 18).foldl (fun m k =>
          let old := Tbl.get [] m (profileKey b k)
          Tbl.set [] m (profileKey b k)
            ((old ++ [Tbl.get 0 c.pwr.binSum k / (c.pwr.binN : Rat)]).drop (old.length + 1 - 64))) c.pwr.profile
        binsLearned := c.pwr.binsLearned + 1 } }

/-- The learned value of a series in a bin: the largest mean kept. -/
def Chip.learned (c : Chip) (b k : Nat) : Rat := (Tbl.get [] c.pwr.profile (profileKey b k)).foldl max 0

/-- A new bin starts: the last one closes, and the sums start from empty. -/
def Chip.openBin (c : Chip) (b cy : Nat) : Chip :=
  let c := match c.pwr.curBin with | some o => c.closeBin o | none => c
  let full := decide (min 256 cy ≤ c.pwr.binsLearned)
  let c := if full then c.setFlag pgPwr 0x1004 3 true else c
  { c with pwr := { c.pwr with curBin := some b, binSum := [], binN := 0 } }

/-- A domain's estimated power in W at its floor, and unmetered, at the present voltage and temperature (R389). -/
def Chip.floorWatts (c : Chip) (f d : Nat) : Rat := Config.wattsAt f d (c.meterFloor d)
def Chip.maxWatts (c : Chip) (f d : Nat) : Rat := max (c.floorWatts f d) (Config.wattsAt f d (c.meterMax d))

/-- A budget allowance (R389): the RATE at which the domain's estimate equals the budget, FLOOR at its floor power and the
largest RATE at its unmetered power; between them the largest whose estimate is within the budget. -/
def Chip.rateFor (c : Chip) (f d : Nat) (budget : Rat) : Nat :=
  let lo := c.meterFloor d
  let hi := c.meterMax d
  if budget ≤ c.floorWatts f d then lo
  else if c.maxWatts f d ≤ budget then hi
  else (List.range (hi - lo)).foldl (fun m k => if Config.wattsAt f d (lo + k) ≤ budget then lo + k else m) lo

/-- The power that the hints now in force ask of a domain (R390): the crossbar takes those of every coach die. -/
def Chip.hintWatts (c : Chip) (d f : Nat) : Rat :=
  let hs := if d = 16 then c.coach.hints.flatMap (·.2) else Tbl.get [] c.coach.hints d
  let lv := (hs.filter (fun h => decide (h.start ≤ c.time.now ∧ c.time.now < h.until_))).foldl (fun m h => max m h.level) 0
  if lv = 0 then 0
  else c.floorWatts f d + mkRat lv 7 * (c.maxWatts f d - c.floorWatts f d)

/-- The cap, clamped to 1,000 to 4,200 W (R404). -/
def Chip.pkgCap (c : Chip) : Nat := min 4200 (max 1000 (c.field pgPwr 0x100C 0 13))

/-- The budgets of R389 for the bins that have started since the last computation. -/
def Chip.share (c : Chip) (bins : List Nat) : Chip :=
  let n := c.takeFresh
  let c := n.2
  let f := n.1
  let lead := c.field pgPwr 0x1014 9 3
  let prof (k : Nat) : Rat :=
    if c.refLive then (bins.map (fun b => c.learned ((b + lead) % 256) k)).foldl max 0 else c.seriesNow k
  let floorP (d : Nat) : Rat := c.floorWatts f d
  let want (d : Nat) : Rat := max (prof d) (max (c.hintWatts d f) (floorP d))
  let ds := List.range 17
  let avail : Rat := (c.pkgCap : Rat) - max (prof 17) (c.seriesNow 17)
  let need := ratSum (ds.map floorP)
  let extra := ratSum (ds.map (fun d => want d - floorP d))
  let budget (d : Nat) : Rat :=
    if avail ≤ need then floorP d
    else if extra ≤ avail - need then want d + (avail - need - extra) / 17
    else floorP d + (avail - need) * (want d - floorP d) / extra
  let c := { c with pwr := { c.pwr with
    budget := ds.foldl (fun m d => Tbl.set none m d (some (c.rateFor f d (budget d)))) c.pwr.budget
    binPend := [], binLast := some c.time.now } }
  let c := forAll ds c (fun d c => c.setFlag pgPwr 0x1048 4 (decide (max (prof d) (floorP d) < c.hintWatts d f)) d)
  if avail ≤ need then
    (((c.setFlag pgPwr 0x1004 1 true).setFlag pgPwr 0x1004 2 true).bump pgPwr 0x1110).raiseLim
      (evP pgPwr 0x0905 dieV 0) 0 (usUnits 1000)
  else c.setFlag pgPwr 0x1004 1 false

/-- BUDGET_BIN_START (R388, R389): at most one computation in 1 µs; bins that start sooner wait for the next. -/
def Chip.binStart (c : Chip) : Chip :=
  let r : Option Nat × Chip := if c.refLive then
      match c.binNow with
      | some (b, cy) => if c.pwr.curBin = some b then (some b, c) else (some b, c.openBin b cy)
      | none => (none, c)
    else (none, { c with pwr := { c.pwr with curBin := none, binSum := [], binN := 0 } })
  let c := r.2
  let bins := c.pwr.binPend ++ r.1.toList
  let soon := match c.pwr.binLast with | some t => decide (c.time.now < t + usUnits 1) | none => false
  if soon then { c with pwr := { c.pwr with binPend := bins } } else c.share bins

/-- A PWR_BUDGET_CTRL write (R388): the profile is cleared on any change. -/
def Chip.budgetCtrl (c : Chip) (v : W32) : Chip :=
  let w := v &&& 0xFFF
  if w = c.reg pgPwr 0x1014 then c else (c.setReg pgPwr 0x1014 w).clearProfile

/-- Hints whose hold has ended are gone (R390). -/
def Chip.hintExpire (c : Chip) (d : Nat) : Chip :=
  let hs := (Tbl.get [] c.coach.hints d).filter (fun h => decide (c.time.now < h.until_))
  { c with coach := { c.coach with hints := Tbl.set [] c.coach.hints d hs } }

/-! The corner (R30) -/

/-- CORNER_EVALUATION: the core voltages at the coach dies in mV, C0 first. -/
def Chip.corner (c : Chip) (mv : List Nat) : Chip :=
  let ds := List.range 16
  let c := forAll ds c (fun d c => c.setField pgPwr 0x1028 16 10 (mv.getD d 0) (24 + d))
  let low := ds.filter (fun d => decide (mv.getD d 0 < 680))
  let hot := (ds.filter (fun d => decide (840 < c.junction (8 + d)))) ++
    (((List.range 4).filter (fun n => decide (840 < c.junction (dieX n)))).map (16 + ·))
  let now := low.isEmpty && hot.isEmpty
  let was := c.inCorner
  let c := (c.setFlag pgPwr 0x1008 1 (!low.isEmpty)).setFlag pgPwr 0x1008 2 (!hot.isEmpty)
  if now && !was then (c.setFlag pgPwr 0x1008 0 true).raise (evP pgPwr 0x0102 dieV 0)
  else if !now && was then
    let first := (low ++ hot).foldl min 31
    let c := ((c.setFlag pgPwr 0x1008 0 false).setField pgPwr 0x1008 8 5 first).bump pgPwr 0x1118
    c.raise (evP pgPwr 0x0101 (8 + first) 0)
  else c

/-! Supply loss (R396, R422) -/

def evVinLoss : Nat := 0x0906

/-- Coaches of a die that an abort would reach. -/
def Chip.liveCoaches (c : Chip) (d : Nat) : List Nat :=
  c.slotsWhere d (fun x => decide (x.phase = .folding ∨ x.phase = .sealed ∨ x.phase = .packing))

/-- The last-gasp record (R422). -/
def Chip.gaspRecord (c : Chip) : List Byte :=
  let flags := c.inCorner.toNat + (c.flag pgThm 0x100C 0).toNat * 2 + (c.flag pgPwr 0x1004 1).toNat * 4
  let bs := bytesLE 4 gaspMagic ++ bytesLE 4 (c.reg pgFlt 0x1018).toNat ++ bytesLE 8 c.time.now ++
    (List.range 16).flatMap (fun d => bytesLE 2 (c.liveCoaches d).length) ++ bytesLE 2 (c.field pgPwr 0x1010 0 13) ++
    bytesLE 2 flags ++ List.replicate 200 0
  bs ++ bytesLE 4 (crc32 bs).toNat

/-- VIN_12 is lost (R396, R422): the meters stop, every live coach aborts, and the record is captured. -/
def Chip.vinLoss (c : Chip) : Chip :=
  let rec_ := c.gaspRecord
  let c := { c.setFlag pgPwr 0x1004 0 false with boot := { c.boot with gasp := some rec_ } }
  let c := c.raise (evP pgPwr evVinLoss dieV 0)
  let c := forAll (List.range 16) c (fun d c =>
    forAll (c.liveCoaches d) c (fun i c => c.abortCoach d i evVinLoss none))
  Chip.metersSet { c with pwr := { c.pwr with vinLost := true } }

/-- M0 programs the captured record and commits the pending log; with VIN_3V3 failed earlier the record is lost. -/
def Chip.gaspProgram (c : Chip) (held : Bool) : Chip :=
  match c.boot.gasp with
  | none => c
  | some bs =>
    let c := { c with boot := { c.boot with gasp := none } }
    if held then (c.flashProgram gaspBase bs).logCommit else c

/-! Calibration storage (R397 to R399) -/

def calBase (k : Nat) : Nat := 0x1000000 + k * 0x10000
def calMagic : Nat := 0x4E4A434C

/-- SEQ, and the body, of a valid calibration slot (R397). -/
def Chip.calSlot (c : Chip) (k : Nat) : Option (Nat × List Byte) :=
  let h := c.flashRead (calBase k) 64
  let len := natOfLE (slice h 8 4)
  let body := c.flashRead (calBase k + 64) len
  if natOfLE (h.take 4) = calMagic ∧ 1 ≤ len ∧ len ≤ 65472 ∧ (h.drop 16).all (fun b => decide (b = 0)) ∧
      natOfLE (slice h 12 4) = (crc32 (h.take 12 ++ h.drop 16 ++ body)).toNat then
    some (natOfLE (slice h 4 4), body)
  else none

/-- The version of the layout of a calibration body (R397). -/
def calVersion : Nat := 1

/-- The bytes that hold a number: one at least, and no zero byte at the end of more. -/
def natBytes (n : Nat) : List Byte := bytesLE ((Nat.log2 n + 8) / 8) n

/-- A number of any size in a body: the number of its bytes, then the bytes. -/
def putNat (n : Nat) : List Byte := bytesLE 2 (natBytes n).length ++ natBytes n
def takeNat (bs : List Byte) : Nat × List Byte :=
  let k := natOfLE (bs.take 2)
  (natOfLE (slice bs 2 k), bs.drop (2 + k))

/-- A rational number in a body: its sign, its numerator and its denominator. -/
def putRat (x : Rat) : List Byte := bytesLE 1 (if x.num < 0 then 1 else 0) ++ putNat x.num.natAbs ++ putNat x.den
def takeRat (bs : List Byte) : Rat × List Byte :=
  let n := takeNat (bs.drop 1)
  let d := takeNat n.2
  (mkRat (if natOfLE (bs.take 1) = 1 then -(n.1 : Int) else n.1) d.1, d.2)

/-- The phase-sense and thermal-sensor trims: one byte for each of 8 phases of 71 rails, then one for each of 256
sensors. -/
def trimCount : Nat := 71 * 8 + 256
def Chip.trimBytes (c : Chip) : List Byte :=
  match c.pwr.trims with
  | some bs => bs
  | none => (List.range trimCount).map Config.fuseTrim

/-- The body of a calibration slot (R397): the version of its layout, the energy coefficients, the trims, and the gain and
offset of each die. -/
def Chip.calBody (c : Chip) : List Byte :=
  bytesLE 4 calVersion ++ (List.range 192).flatMap (fun k => bytesLE 4 (c.coeff (k / 6) (k % 6))) ++ c.trimBytes ++
    (List.range 32).flatMap (fun d => putRat (c.calOf d).gain ++ putRat (c.calOf d).offset)

/-- The gains and offsets of dies from `d` on, read from the bytes of a body. -/
def takeCals (d : Nat) : Nat → List Byte → Tbl CalDie → Tbl CalDie
  | 0, _, m => m
  | n + 1, bs, m =>
    let g := takeRat bs
    let o := takeRat g.2
    takeCals (d + 1) n o.2 (Tbl.set CalDie.reset m d ⟨g.1, o.1, []⟩)

/-- What a calibration slot's body gives V0 (R399). -/
def Chip.calUse (c : Chip) (body : List Byte) : Chip :=
  { c with pwr := { c.pwr with
    coeffs := some ((List.range 192).map (fun k => BitVec.ofNat 32 (natOfLE (slice body (4 + 4 * k) 4))))
    trims := some (slice body 772 trimCount)
    cals := takeCals 0 32 (body.drop (772 + trimCount)) []
    estOnly := 0 } }

/-- The calibration of a cold start (R399): the newest valid slot, or fuses and estimate-only control. -/
def Chip.calSelect (c : Chip) : Chip :=
  let use (k seq : Nat) (body : List Byte) : Chip :=
    let c := (c.setReg pgPwr 0x1064 (BitVec.ofNat 32 (1 + k * 2))).setReg pgPwr 0x1068 (BitVec.ofNat 32 seq)
    c.calUse body
  match c.calSlot 0, c.calSlot 1 with
  | some a, some b => if seqNewer b.1 a.1 then use 1 b.1 b.2 else use 0 a.1 a.2
  | some a, none => use 0 a.1 a.2
  | none, some b => use 1 b.1 b.2
  | none, none =>
    let c := ((c.setReg pgPwr 0x1064 0).setReg pgPwr 0x1068 0).raise (evP pgPwr 0x0908 dieV 0)
    { c with pwr := { c.pwr with coeffs := none, trims := none, cals := [], estOnly := BitVec.allOnes 32 } }

/-- A save starts (R398): the slot that does not hold the calibration in use is erased. -/
def Chip.calStart (c : Chip) : Chip :=
  match c.fw.calSaving with
  | some _ => c
  | none =>
    let k := if c.flag pgPwr 0x1064 0 then 1 - c.field pgPwr 0x1064 1 1 else 0
    let c := (c.flashErase (calBase k) 0x10000).setFlag pgPwr 0x1064 2 true
    { c with fw := { c.fw with calSaving := some k } }

/-- The bytes of a calibration slot. -/
def calBytes (seq : Nat) (body : List Byte) : List Byte :=
  let a := bytesLE 4 calMagic ++ bytesLE 4 seq ++ bytesLE 4 body.length
  let z := List.replicate 48 (0 : Byte)
  a ++ bytesLE 4 (crc32 (a ++ z ++ body)).toNat ++ z ++ body

/-- A save has been read back (R398): it becomes the calibration in use, or WRITE_FAIL sets and the other stays. -/
def Chip.calDone (c : Chip) (ok : Bool) : Chip :=
  match c.fw.calSaving with
  | none => c
  | some k =>
    let c := { c.setFlag pgPwr 0x1064 2 false with fw := { c.fw with calSaving := none } }
    let body := c.calBody
    if ok ∧ body.length ≤ 65472 then
      let seq := (c.reg pgPwr 0x1068).toNat + 1
      let c := c.flashProgram (calBase k) (calBytes (seq % 2 ^ 32) body)
      ((c.setFlag pgPwr 0x1064 0 true).setField pgPwr 0x1064 1 1 k).setReg pgPwr 0x1068 (BitVec.ofNat 32 seq)
    else (c.setFlag pgPwr 0x1064 3 true).raise (evP pgPwr 0x0909 dieV 0)

/-! Thermal control (R400 to R402) -/

/-- Whether a die is powered: its core rail is on. -/
def Chip.powered (c : Chip) (die : Nat) : Bool := (c.rail ((railsOf die).headD 70)).on && !c.dieFailed die

/-- Twice the median of a list of readings. -/
def median2 (xs : List Int) : Int :=
  let ys := sortBy (fun a b => decide (a ≤ b)) xs
  let n := ys.length
  if n % 2 = 1 then 2 * ys.getD (n / 2) 0 else ys.getD (n / 2 - 1) 0 + ys.getD (n / 2) 0

/-- A sensor is found invalid (R400). -/
def Chip.sensorBad (c : Chip) (die k : Nat) : Chip :=
  let c := { c with pwr := { c.pwr with badSensors := putBit c.pwr.badSensors (die * 8 + k) true } }
  ((c.setFlag pgThm 0x100C 2 true).bump pgThm 0x1104).raise (evP pgThm 0x090C die k)

/-- The readings of one die (R400). -/
def Chip.dieSensors (c : Chip) (die : Nat) (rd : Nat → Int) : Chip :=
  let ok (c : Chip) (k : Nat) : Bool := !c.pwr.badSensors.getLsbD (die * 8 + k)
  let c := forAll (List.range 8) c (fun k c =>
    if ok c k && decide (rd k < -320 ∨ 1200 < rd k) then c.sensorBad die k else c)
  let m := median2 (((List.range 8).filter (ok c)).map rd)
  let c := forAll ((List.range 8).filter (ok c)) c (fun k c =>
    let s := die * 8 + k
    let n := if 400 < (2 * rd k - m).natAbs then Tbl.get 0 c.pwr.sensorDiff s + 1 else 0
    let c := { c with pwr := { c.pwr with sensorDiff := Tbl.set 0 c.pwr.sensorDiff s n } }
    if 3 ≤ n then c.sensorBad die k else c)
  let valid := (List.range 8).filter (ok c)
  let c := forAll (List.range 8) c (fun k c =>
    c.setReg pgThm 0x1004 (BitVec.ofNat 32 (toCode 12 (rd k) + (ok c k).toNat * 4096)) (die * 8 + k))
  let top := maxTemp (valid.map rd)
  let j := if valid.length < 4 then max top 800 else top
  let was := c.flag pgThm 0x1008 12 die
  let hot := decide (800 ≤ j)
  let c := c.setReg pgThm 0x1008 (BitVec.ofNat 32 (toCode 12 j + hot.toNat * 4096 + valid.length * 65536)) die
  let c := { c with pwr := { c.pwr with hot := Tbl.set 0 c.pwr.hot die (if 920 ≤ j then Tbl.get 0 c.pwr.hot die + 1 else 0) } }
  if hot && !was then ((c.setFlag pgThm 0x100C 0 true).bump pgThm 0x1100).raise (evP pgThm 0x090A die 0) else c

/-- A thermal trip (R402). -/
def Chip.trip (c : Chip) (die : Nat) : Chip :=
  let c := (c.setFlag pgThm 0x100C 1 true).raise (evP pgThm 0x090B die 0)
  let c := forAll (List.range 68) { c with pwr := { c.pwr with tripped := true } } (fun r c => c.removeRail r)
  c.metersSet

/-- THERMAL_SENSOR_READ: 256 readings in 1/8 °C, sensor k of die n at 8 n + k; dies that are powered are read. -/
def Chip.sensors (c : Chip) (rs : List (BitVec 12)) : Chip :=
  let dies := (List.range 32).filter c.powered
  let c := forAll dies c (fun d c => c.dieSensors d (fun k => signed 12 (rs.getD (d * 8 + k) 0).toNat))
  let c := if dies.all (fun d => decide (c.junction d < 776)) then c.setFlag pgThm 0x100C 0 false else c
  match dies.find? (fun d => decide (2 ≤ Tbl.get 0 c.pwr.hot d)) with
  | some d => if c.pwr.tripped then c else c.trip d
  | none => c

/-! Commands -/

/-- The meaning of CORNER_EVALUATION (R30). -/
def execCornerEvaluation (mv : List Nat) (s : State) : Host.Outcome State Fault Refusal := s.run fun c =>
  if c.v0Up then c.corner mv else c
/-- The meaning of ESTIMATE_REFRESH (R381). -/
def execEstimateRefresh (s : State) : Host.Outcome State Fault Refusal := s.run fun c =>
  if c.v0Up then c.estimates else c
/-- The meaning of CALIBRATION_INTERVAL (R382). -/
def execCalibrationInterval (die : Die) (currents : List Nat) (s : State) : Host.Outcome State Fault Refusal :=
  s.run fun c => if c.v0Up then c.calibrate die.val currents else c
/-- The meaning of ENERGY_ATTRIBUTION (R341, R383). -/
def execEnergyAttribution (s : State) : Host.Outcome State Fault Refusal := s.run fun c =>
  if c.v0Up then c.attribute else c
/-- The meaning of METER_UPDATE (R385). -/
def execMeterUpdate (s : State) : Host.Outcome State Fault Refusal := s.run fun c =>
  if c.v0Up then c.metersSet else c
/-- The meaning of BUDGET_BIN_START (R389). -/
def execBudgetBinStart (s : State) : Host.Outcome State Fault Refusal := s.run fun c =>
  if c.v0Up then c.binStart else c
/-- The meaning of HINT_HOLD_EXPIRY (R390). -/
def execHintHoldExpiry (d : CDie) (s : State) : Host.Outcome State Fault Refusal := s.run fun c =>
  if c.v0Up then c.hintExpire d.val else c
/-- The meaning of BUDGET_CTRL_WRITE (R388). -/
def execBudgetCtrlWrite (v : W32) (s : State) : Host.Outcome State Fault Refusal := s.run fun c =>
  if c.serves pgPwr then c.budgetCtrl v else c
/-- The meaning of RAIL_ILIM_CROSS (R386). -/
def execRailIlimCross (r : Rail) (s : State) : Host.Outcome State Fault Refusal := s.run fun c =>
  if c.v0Up then c.ilimCross r.val else c
/-- The meaning of RAIL_ILIM_RELEASE (R386). -/
def execRailIlimRelease (r : Rail) (s : State) : Host.Outcome State Fault Refusal := s.run fun c =>
  if c.v0Up then c.ilimRelease r.val else c
/-- The meaning of PHASE_HARD_LIMIT (R386). -/
def execPhaseHardLimit (r : Rail) (s : State) : Host.Outcome State Fault Refusal := s.run fun c =>
  if c.v0Up then c.hardLimit r.val else c
/-- The meaning of PHASE_EVALUATION (R393). -/
def execPhaseEvaluation (r : Rail) (phaseCurrents : List Nat) (s : State) :
    Host.Outcome State Fault Refusal := s.run fun c =>
  if c.v0Up then c.phaseEval r.val phaseCurrents else c
/-- The meaning of RAIL_VSET_WRITE (R379). -/
def execRailVsetWrite (v : W32) (s : State) : Host.Outcome State Fault Refusal := s.run fun c =>
  if c.serves pgPwr then c.vsetWrite v else c
/-- The meaning of RAIL_SLEW_DONE (R392). -/
def execRailSlewDone (r : Rail) (s : State) : Host.Outcome State Fault Refusal := s.run fun c =>
  if c.v0Up then c.slewDone r.val else c
/-- The meaning of RAIL_FAULT (R380). -/
def execRailFault (r : Rail) (s : State) : Host.Outcome State Fault Refusal := s.run fun c =>
  if c.v0Up && (c.rail r.val).on then c.railFault r.val else c
/-- The meaning of VIN12_LOSS (R396, R422). -/
def execVin12Loss (s : State) : Host.Outcome State Fault Refusal := s.run fun c =>
  if c.v0Up && c.flag pgPwr 0x1004 0 then c.vinLoss else c
/-- The meaning of LAST_GASP_PROGRAM (R422). -/
def execLastGaspProgram (supplyHeld : Bool) (s : State) : Host.Outcome State Fault Refusal := s.run fun c =>
  if c.standbyUp then c.gaspProgram supplyHeld else c
/-- The meaning of CAL_SAVE (R398). -/
def execCalSave (s : State) : Host.Outcome State Fault Refusal := s.run fun c =>
  if c.serves pgPwr && decide (c.field (pgMbx 0) 0x1000 0 3 = 2) then c.calStart else c
/-- The meaning of CAL_SAVE_PERIODIC (R398). -/
def execCalSavePeriodic (s : State) : Host.Outcome State Fault Refusal := s.run fun c =>
  if c.standbyUp && decide (c.field (pgMbx 0) 0x1000 0 3 = 2) then c.calStart else c
/-- The meaning of CAL_SAVE_DONE (R398). -/
def execCalSaveDone (ok : Bool) (s : State) : Host.Outcome State Fault Refusal := s.run fun c =>
  if c.standbyUp then c.calDone ok else c
/-- The meaning of THERMAL_SENSOR_READ (R400 to R402). -/
def execThermalSensorRead (readings : List (BitVec 12)) (s : State) : Host.Outcome State Fault Refusal := s.run fun c =>
  if c.v0Up then c.sensors readings else c

end Sys2Proof.Machine
end

