-- ==== Sys2Proof/Machine/View.lean ====
section
/-! DEFINITION. What a register reads as (R473 to R477, R482, R485): the value of the instance that the page's selector
picks, with the fields that follow the state beside them, and without any side effect of a read. A snapshot and
telemetry take their values from here. -/

namespace Sys2Proof.Machine

/-- The instance of a register that the selectors of its page pick, none where they select nothing (R482). -/
def Chip.selInst (c : Chip) (page die : Nat) : Sel → Option Nat
  | .one => some 0
  | .lane | .lnkPort | .tmgPort => some (c.field page 0x1000 0 7)
  | .tmgQueue => some (c.field page 0x1000 0 7 * 16 + c.field page 0x1000 8 4)
  | .shaper => c.selShaper die
  | .gclEnt =>
    some (c.field page 0x1000 0 7 * 512 + (c.flag page 0x1040 8).toNat * 256 + c.field page 0x1040 0 8)
  | .gclList => some (c.field page 0x1000 0 7 * 2 + (c.flag page 0x1040 8).toNat)
  | .ttbLiv => some (c.field page 0x1200 0 8)
  | .rtePort => some (c.field page 0x1500 0 10)
  | .rteVlan => some (c.field page 0x1508 0 12)
  | .rteTd => some (c.field page 0x1600 0 8)
  | .rteMir => some (c.field page 0x1700 0 4)
  | .rteGrid => some (c.field page 0x1300 0 6)
  | .polPool => if poolOn die (c.selPool die) then some (c.selPool die) else none
  | .polLiv => if poolOn die (c.selPool die) then some (c.selPool die * 256 + c.selPolLiv die) else none
  | .memBank => some (c.field page 0x1000 0 8)
  | .liv => some (c.field page 0x1000 0 8)
  | .livPort => some (c.field page 0x1040 0 10)
  | .rail => if c.field page 0x1020 0 7 < 71 then some (c.field page 0x1020 0 7) else none
  | .meter => if c.field page 0x1040 0 5 < 17 then some (c.field page 0x1040 0 5) else none
  | .sensor => some (c.field page 0x1000 0 5 * 8 + c.field page 0x1000 5 3)
  | .thmDie => some (c.field page 0x1000 0 5)

/-! Fields that follow the state -/

def w32 (n : Nat) : W32 := BitVec.ofNat 32 n
def bit01 (b : Bool) (i : Nat) : Nat := if b then 2 ^ i else 0

/-- TMG fields: the shaper's state, the gates' state and the live depth (R333). -/
def Chip.tmgView (c : Chip) (die off inst : Nat) : Option W32 :=
  let pg := pgTmg die
  let p := die * 128 + c.field pg 0x1000 0 7
  if off = 0x1020 then
    let s := c.shaper die inst
    some (w32 (s.pending.isSome.toNat + toCode 24 (s.tokens / 8) * 256))
  else if off = 0x105C then some (w32 ((c.gate p).oper.toNat + (c.gate p).pending.toNat * 2))
  else if off = 0x1084 then some (w32 (c.depth p (c.field pg 0x1000 8 4) % 2 ^ 24))
  else none

/-- CCH_OCC (R136). -/
def Chip.cchOcc (c : Chip) (d : Nat) : W32 :=
  let closed := (c.slotsWhere d (fun x => decide (x.phase = .closed))).length
  let active := (c.slotsWhere d (fun x => x.live && decide (x.phase ≠ .closed))).length
  w32 (active + closed * 2 ^ 11 + (c.cch d).marks.length * 2 ^ 22)

/-- POL fields (R224). -/
def Chip.polView (c : Chip) (die off : Nat) (inst : Nat) : Option W32 :=
  let p := c.selPool die
  let l := c.selPolLiv die
  if off = 0x1004 then some (w32 (c.poolSize die p))
  else if off = 0x1008 then some (w32 (c.poolFree die p))
  else if off = 0x100C then some (w32 (c.poolReserveLeft die p))
  else if off = 0x101C then some (w32 (c.used die p l))
  else if off = 0x1020 then some (w32 (c.level die p l + c.dieLevel die l * 4))
  else if off = 0x1024 then some (w32 (fld (c.reg (pgPol die) 0x1024 inst) 2 2 * 4 + bit01 (c.overcommitted die p) 1))
  else if off = 0x102C then
    some (w32 (fld (c.reg (pgPol die) 0x102C) 0 2 + (if 28 ≤ die then c.quarHeld (die - 28) * 4 else 0)))
  else none

/-- MBX fields that read the same in all four pages (R375). -/
def Chip.mbxView (c : Chip) (off : Nat) : Option W32 :=
  if off = 0x1000 then some (putFld (c.reg (pgMbx 0) 0x1000) 10 6 c.fw.fuseSvn)
  else if off = 0x1004 ∨ off = 0x1008 ∨ off = 0x1020 ∨ off = 0x1024 then some (c.reg (pgMbx 0) off)
  else none

/-- SEC fields (R353): the fuses. -/
def Chip.secView (c : Chip) (off : Nat) : Option W32 :=
  if off = 0x1000 then some (w32 (c.sec.life + bit01 (c.sec.transition.isSome || c.sec.partGroup) 2))
  else if 0x1040 ≤ off ∧ off < 0x1050 then some (w32 (fld c.sec.deviceId ((off - 0x1040) * 8) 32))
  else none

/-- PWR fields (R404). -/
def Chip.pwrView (c : Chip) (off inst : Nat) : Option W32 :=
  if off = 0x1028 then some (putFld (c.reg pgPwr 0x1028 inst) 0 10 (c.railOut inst))
  else if off = 0x102C then some (w32 (c.effLimit inst + railNominal inst * 65536))
  else if off = 0x1030 then some (putBit (putBit (c.reg pgPwr 0x1030 inst) 8 (c.estimateOnly inst)) 9 (c.slewing inst))
  else if off = 0x1044 then some (putFld (c.reg pgPwr 0x1044 inst) 16 16 (c.meterFloor inst))
  else if off = 0x100C then some (w32 c.pkgCap)
  else none

/-- FLT_LANE_DIEn (R430). -/
def Chip.laneDieWord (c : Chip) (d : Nat) : W32 :=
  let x := c.lanesAt d
  let left := [80, 81, 82, 83].filter (fun k => !x.tested.getLsbD k && !x.fenced.getLsbD k)
  w32 (x.waiting.length + left.length * 256 + bit01 x.target.isSome 11)

/-- FLT fields other than the page summary: the producer index, the event queue and the lane clusters (R424, R430). -/
def Chip.fltView (c : Chip) (off : Nat) : Option W32 :=
  if off = 0x1004 then some (w32 (c.ev.placed % 65536))
  else if 0x1040 ≤ off ∧ off < 0x1080 then some (c.laneDieWord ((off - 0x1040) / 4))
  else if 0x8000 ≤ off then
    some (w32 (fld (Tbl.get 0 c.ev.ring ((off - 0x8000) / 32)) ((off % 32) * 8) 32))
  else none

/-- The fields of a block-specific register that follow the state, none where the register holds its own value. -/
def Chip.follow (c : Chip) (b : Blk) (die off inst : Nat) : Option W32 :=
  match b with
  | .sds =>
    if off = 0x1014 then some (putBit (c.reg (pgSds die) 0x1014 inst) 31 (c.injRuns (die * 128 + inst))) else none
  | .tmg => c.tmgView die off inst
  | .cch => if off = 0x1014 then some (c.cchOcc (die - 8)) else none
  | .ttb =>
    if off = 0x1208 then some (putBit (c.reg pgTtb 0x1208 inst) 3 (!c.livHasCoach inst))
    else if off = 0x120C then some (c.currentStep inst) else none
  | .rte =>
    if off = 0x1024 then
      let n := match c.rte.drain with | some d => min 0xFFFF (c.inFlight d) | none => 0
      some (w32 (fld (c.reg pgRte 0x1024) 1 2 * 2 + c.rte.drain.isSome.toNat + n * 65536))
    else none
  | .pol => c.polView die off inst
  | .mem => if off = 0x100C then some (c.spareStat die inst) else none
  | .liv =>
    if off = 0x1030 then some (w32 (c.energyOf inst))
    else if off = 0x1038 then some (w32 (c.energyOf unattr)) else none
  | .sec => c.secView off
  | .mbx => c.mbxView off
  | .pwr => c.pwrView off inst
  | .flt => c.fltView off
  | .snp => if off = 0x100C then some (w32 c.time.snpTime) else none
  | .tim =>
    if off = 0x1004 then some (w32 c.time.now) else none
  | _ => none

/-- What a block-specific register reads as on a page that serves its registers. -/
def Chip.blockView (c : Chip) (b : Blk) (page die off : Nat) : W32 :=
  match findRow b.rows off with
  | none => 0
  | some r =>
    match c.selInst page die r.sel with
    | none => if b = .pol ∧ off = 0x1024 then 1 else 0
    | some i => (c.follow b die off i).getD (c.reg page off i)

/-- Whether a page has enabled status pending (R481); a page that reads 0 contributes 0. -/
def Chip.pagePending (c : Chip) (page : Nat) : Bool :=
  (pageOf page).isSome && c.serves page && decide (c.reg page 0x14 &&& c.reg page 0x18 ≠ 0)

/-- FLT_PAGE_SUMw (R481). -/
def Chip.pageSum (c : Chip) (w : Nat) : W32 :=
  w32 ((List.range 32).foldl (fun n j => n + bit01 (c.pagePending (32 * w + j)) j) 0)

/-- What the register at an offset of a block page reads as (R474, R476, R477, R482). -/
def Chip.view (c : Chip) (page off : Nat) : W32 :=
  match pageOf page with
  | none => 0
  | some (b, die) =>
    if !c.serves page then
      if c.dieFailed die && decide (die < 30) && c.mainOn then
        (if off < 0x0C then c.reg page off else if off = 0x10 then 2 else 0)
      else 0
    else if rsvOffset off then 0
    else if off < 0x100 then (if off = 0x10 then 1 else c.reg page off)
    else if off < 0x1000 then Tbl.get 0 c.snap.shadows (page * 1024 + (off - 0x100) / 4)
    else if b = .flt ∧ 0x1300 ≤ off ∧ off < 0x1380 then c.pageSum ((off - 0x1300) / 4)
    else c.blockView b page die off

/-! Counter registers, for telemetry (R426) -/

/-- The counter registers of a block, as runs of offsets. -/
def Blk.counters : Blk → List (Nat × Nat)
  | .prt => [(0x1200, 6), (0x1800, 4)]
  | .sds => [(0x1020, 2), (0x1030, 1)]
  | .lnk => [(0x1100, 16)]
  | .rte => [(0x1800, 8)]
  | .xbr => [(0x1000, 4)]
  | .tmg => [(0x10C8, 1), (0x1200, 4)]
  | .cch => [(0x1100, 14)]
  | .acc => [(0x1400, 3), (0x1410, 7)]
  | .ttb => [(0x1400, 10)]
  | .pol => [(0x1100, 7)]
  | .mem => [(0x1100, 6)]
  | .liv => [(0x1020, 1)]
  | .sec => [(0x1008, 1)]
  | .mbx => [(0x1024, 1)]
  | .pwr => [(0x1100, 7)]
  | .thm => [(0x1100, 2)]
  | .flt => [(0x100C, 1), (0x1200, 10)]
  | .snp => [(0x1080, 1)]
  | .tim => []

/-- The page counters and the counters of a page, in offset order. -/
def counterOffs (b : Blk) : List Nat :=
  ((0x20, 4) :: b.counters).flatMap (fun r => (List.range r.2).map (fun i => r.1 + 4 * i))

/-- Every counter register of every page, in page order and then offset order. -/
def counterRegs : List (Nat × Nat) :=
  (List.range 0x3FF).flatMap (fun p => match pageOf p with
    | some (b, _) => (counterOffs b).map (fun o => (p, o))
    | none => [])

end Sys2Proof.Machine
end

