-- ==== Sys2Proof/Machine/Store.lean ====
section
/-! DEFINITION. The secure store on M0 (R343 to R346): its bytes, wipes and accesses that wait for them, the device keys;
and the tamper logic (R347). -/

namespace Sys2Proof.Machine

def wipeStat : Nat := 0x1010
def tamperStat : Nat := 0x1004
def dbgStat : Nat := 0x1018
def tokStat : Nat := 0x1024

/-- Causes of a wipe (SEC_WIPE_STAT.LAST_CAUSE). -/
def wcTamper : Nat := 0
def wcLifeCycle : Nat := 1
def wcDebug : Nat := 2
def wcPowerUp : Nat := 3
def wcHost : Nat := 4

/-! The store (R343) -/

/-- The store is 2 MiB, in 32 banks of 64 KiB. -/
def storeBytes : Nat := 0x200000
def storeBank (a : Nat) : Nat := a / 65536

/-- Where the handover area lies in the store (R370), the device keys, and the working state of the security engine, whose
first byte is 1 while the keys are there. -/
def hoBase : Nat := 0
def hoBytes : Nat := 0x80000
def keyBase : Nat := 0x80000
def keyBytes : Nat := 64
def engineBase : Nat := 0x90000

/-- Whether a wipe runs, and whether the store is closed after two failed passes (R345). -/
def Chip.wiping (c : Chip) : Bool := c.flag pgSec wipeStat 0
def Chip.storeClosed (c : Chip) : Bool := c.flag pgSec wipeStat 1

/-- Bytes written into a sparse memory whose unlisted bytes read as 0. -/
def putBytes (m : Tbl Byte) (a : Nat) : List Byte → Tbl Byte
  | [] => m
  | b :: bs => putBytes (Tbl.set 0 m a b) (a + 1) bs

/-- The bytes of a sparse memory. -/
def getBytes (m : Tbl Byte) (a n : Nat) : List Byte := (List.range n).map (fun i => Tbl.get 0 m (a + i))

/-- A sparse memory with a range of zeros. -/
def zeroBytes (m : Tbl Byte) (a n : Nat) : Tbl Byte := m.filter (fun kv => !decide (a ≤ kv.1 ∧ kv.1 < a + n))

def Chip.setStore (c : Chip) (m : Tbl Byte) : Chip := { c with sec := { c.sec with store := m } }

/-- A read of the store (R344, R345): zeros after the wait for a wipe, and from a closed store. -/
def Chip.storeRead (c : Chip) (a n : Nat) : List Byte :=
  if c.wiping || c.storeClosed then List.replicate n 0 else getBytes c.sec.store a n

/-- A write of the store: it waits for a wipe, and a closed store takes none. -/
def Chip.storeWrite (c : Chip) (a : Nat) (bs : List Byte) : Chip :=
  if c.storeClosed then c
  else if c.wiping then { c with sec := { c.sec with storeWaits := c.sec.storeWaits ++ [(a, bs)] } }
  else c.setStore (putBytes c.sec.store a bs)

/-- The writes that waited for a wipe. -/
def Chip.storeResume (c : Chip) : Chip :=
  let m := if c.storeClosed then c.sec.store else c.sec.storeWaits.foldl (fun m w => putBytes m w.1 w.2) c.sec.store
  { c with sec := { c.sec with store := m, storeWaits := [] } }

/-- Whether the device keys are in the store. -/
def Chip.keysHeld (c : Chip) : Bool := decide (c.storeRead engineBase 1 = [1])

/-- The security engine derives the device keys (R346, R361 step 6). -/
def Chip.deriveKeys (c : Chip) : Chip :=
  if decide (c.sec.life = 1 ∨ c.sec.life = 2) && !c.sec.keyLock && !c.storeClosed then
    ((c.setFlag pgSec wipeStat 2 false).storeWrite keyBase ((List.range keyBytes).map Config.deviceKey)).storeWrite engineBase [1]
  else c

/-! Wipes (R344 to R346) -/

/-- A wipe starts, or starts again from the first word: every word of the store becomes 0. -/
def Chip.startWipe (c : Chip) (cause : Nat) : Chip :=
  let c := (c.setFlag pgSec wipeStat 0 true).setField pgSec wipeStat 3 3 cause
  { c with sec := { c.sec with store := [], wipePass := 0 } }

/-- Key derivation is refused until the next cold start (R346): what is derived and waits for a wipe is not stored. -/
def Chip.lockKeys (c : Chip) : Chip :=
  { c.setFlag pgSec wipeStat 2 true with sec := { c.sec with
      keyLock := true, storeWaits := c.sec.storeWaits.filter (fun w => decide (w.1 < keyBase)) } }

/-! Tamper (R347) -/

/-- Whether debug is locked for boundary-scan instructions (R350, R462). -/
def Chip.debugLocked (c : Chip) : Bool := decide (c.sec.life = 1 ∨ c.sec.life = 2) && !c.flag pgSec dbgStat 8

/-- The condition of source 6: a boundary-scan instruction other than BYPASS, IDCODE or SAMPLE while debug is locked. -/
def Chip.testAccess (c : Chip) : Bool := decide (c.sec.tap = .other) && c.debugLocked

/-- Whether a tamper source is watched. -/
def Chip.tamperWatched (c : Chip) (src : Nat) : Bool :=
  if src < 2 then c.flag pgSec 0x100C src else if src = 6 then c.debugLocked else true

/-- A tamper event abandons a token check. -/
def TokenCheck.taint (k : TokenCheck) : TokenCheck := { k with tampered := true }

/-- A watched source detects its condition; in BLANK it wipes and locks nothing. -/
def Chip.tamper (c : Chip) (src : Nat) : Chip :=
  if !c.tamperWatched src then c
  else
    let c := ((c.setFlag pgSec tamperStat src true).bump pgSec 0x1008).raise (evP pgSec 0x0701 dieM (2 ^ src))
    if c.sec.life = 0 then c
    else
      let c := { c with sec := { c.sec with checking := c.sec.checking.map TokenCheck.taint } }
      (c.startWipe wcTamper).lockKeys

/-- Source 6 detects its condition when a change brings it about. -/
def Chip.tapWatch (c : Chip) (was : Bool) : Chip := if c.testAccess && !was then c.tamper 6 else c

/-- Debug closes (R350). -/
def Chip.closeDebug (c : Chip) : Chip := (c.setReg pgSec dbgStat 0).tapWatch c.testAccess

/-- A write of SEC_TAMPER_STAT: a bit clears only once its condition has gone. The conditions of sources 0 to 5 lie outside
the part. -/
def Chip.tamperClear (c : Chip) (v : W32) : Chip :=
  let n := c.takeFresh
  let gone : W32 := (Config.tamperGone n.1).setWidth 32 ||| (if c.testAccess then 0 else 64)
  n.2.setReg pgSec tamperStat (c.reg pgSec tamperStat &&& ~~~(v &&& gone))

end Sys2Proof.Machine
end

