-- ==== Sys2Proof/Machine/Image.lean ====
section
/-! DEFINITION. The state of the management firmware (R375), image headers and their check (R359, R360), and the management
SRAM with its load regions (R354). -/

namespace Sys2Proof.Machine

/-! Firmware state (R375) -/

/-- A change of MBX_FW_STAT.STATE raises vector 5 (R376). -/
def Chip.setFwState (c : Chip) (v : Nat) : Chip :=
  if c.fwState = v then c else (c.setField (pgMbx 0) fwStat 0 3 v).msix 5

/-- Codes of MBX_FW_STAT.ADOPT. -/
def adCold : Nat := 0
def adAdopted : Nat := 1
def adRebuilt : Nat := 2
def adRolledBack : Nat := 3

/-! Images (R359, R360) -/

abbrev Header := List Byte

def ihKeyIdx (h : Header) : Nat := (h.getD 6 0).toNat
def ihSvn (h : Header) : Nat := (h.getD 8 0).toNat
def ihBuildSeq (h : Header) : Nat := natOfBE (slice h 12 4)
def ihLoadLen (h : Header) : Nat := natOfBE (slice h 16 4)
def ihEntry (h : Header) : Nat := natOfBE (slice h 20 4)
def ihMajMin (h : Header) : Nat := (h.getD 24 0).toNat
def ihMajMax (h : Header) : Nat := (h.getD 25 0).toNat
def ihHoOut (h : Header) : Nat := natOfBE (slice h 28 2)
def ihHoInMin (h : Header) : Nat := (h.getD 30 0).toNat
def ihHoInMax (h : Header) : Nat := (h.getD 31 0).toNat

/-- The reserved bytes of the header. -/
def ihReserved (h : Header) : List Byte :=
  slice h 7 1 ++ slice h 9 3 ++ slice h 26 2 ++ slice h 80 48 ++ slice h 320 192

/-- The conditions of R360 on the header alone. -/
def Chip.headerValid (c : Chip) (h : Header) : Bool :=
  decide (h.length = 512) && decide (natOfBE (h.take 4) = 0x4E4A4657) && decide (natOfBE (slice h 4 2) = 1) &&
  (ihReserved h).all (fun b => decide (b = 0)) && decide (ihSvn h ≤ 63) &&
  decide (4 ≤ ihLoadLen h ∧ ihLoadLen h ≤ 2097152 ∧ ihLoadLen h % 4 = 0) && decide (ihEntry h < ihLoadLen h) &&
  decide (ihKeyIdx h ≤ 3) && !c.fw.revoked.getLsbD (ihKeyIdx h) &&
  decide (sha384 (slice h 128 96) = Config.imageKeyHash (ihKeyIdx h)) &&
  signatureValid (slice h 128 96) (sha384 (h.take 224)) (slice h 224 96) &&
  decide (c.fw.fuseSvn ≤ ihSvn h)

/-- Whether an image is valid (R360): its header, and the hash of the payload's copy. -/
def Chip.imageValid (c : Chip) (h : Header) (payload : List Byte) : Bool :=
  c.headerValid h && decide (sha384 payload = bvBE 384 (slice h 32 48))

/-- The header of a slot. -/
def Chip.slotHeader (c : Chip) (k : Nat) : Header := c.flashRead (slotBase k + 0x1000) 512

/-! Management SRAM (R354) -/

/-- Load region 0 or 1, and the runtime data of the running image. -/
def regionBytes : Nat := 0x200000
def regionBase (r : Nat) : Nat := r * regionBytes
def runtimeBase : Nat := 0x400000
def runtimeBytes : Nat := 0x400000

/-- The bytes of the payload that a slot's header names: LOAD_LEN, as far as a load region goes. -/
def loadLen (h : Header) : Nat := min regionBytes (ihLoadLen h)

/-- A slot's payload is copied into a load region. -/
def Chip.loadSlot (c : Chip) (k r : Nat) : Chip :=
  let bs := c.flashRead (slotBase k + 0x1200) (loadLen (c.slotHeader k))
  { c with fw := { c.fw with sram := putBytes (zeroBytes c.fw.sram (regionBase r) regionBytes) (regionBase r) bs } }

/-- The copy of a slot's payload in a load region. -/
def Chip.loadedPayload (c : Chip) (k r : Nat) : List Byte := getBytes c.fw.sram (regionBase r) (loadLen (c.slotHeader k))

/-- Whether a slot's image is valid, its payload checked over the copy in a load region (R360). -/
def Chip.loadedValid (c : Chip) (k r : Nat) : Bool := c.imageValid (c.slotHeader k) (c.loadedPayload k r)

/-- Whether a slot's image is valid, read back from flash (IMG_VERIFY, R368). -/
def Chip.slotValid (c : Chip) (k : Nat) : Bool :=
  c.imageValid (c.slotHeader k) (c.flashRead (slotBase k + 0x1200) (loadLen (c.slotHeader k)))

/-- Every image reinitialises its runtime data at its start (R354). -/
def Chip.freshRuntime (c : Chip) : Chip :=
  { c with fw := { c.fw with sram := zeroBytes c.fw.sram runtimeBase runtimeBytes } }

/-- Whether a word of a bank of 1 MiB (R195) lies in the code of the running image's load region. -/
def Chip.inCode (c : Chip) (bank word : Nat) : Bool :=
  let a := bank * 0x100000 + word * 16
  decide (regionBase c.fw.region ≤ a ∧ a < regionBase c.fw.region + loadLen c.fw.image)

/-- Whether an image adopts a handover area of a format (R370). -/
def adopts (h : Header) (format : Nat) : Bool := decide (ihHoInMin h ≤ format ∧ format ≤ ihHoInMax h)

/-- Events of form S (R427): the flash slot, and the SVN of its header. -/
def Chip.slotEvent (c : Chip) (code k : Nat) : Ev := evP (pgMbx 0) code dieM k (ihSvn (c.slotHeader k) % 64)

end Sys2Proof.Machine
end

