-- ==== Sys2Proof/Machine/Queues.lean ====
section
/-! DEFINITION. The mailbox queues (R363 to R367, R373): rings, message headers, replies, requests answered without
execution, and requests that are started and answered in the order in which they complete. -/

namespace Sys2Proof.Machine

/-! Rings (R363) -/

def reqPi : Nat := 0x100C
def reqCi : Nat := 0x1010
def rspPi : Nat := 0x1014
def rspCi : Nat := 0x1018

def Chip.mbxIndex (c : Chip) (q off : Nat) : Nat := c.field (pgMbx q) off 0 16

/-- How far index `a` is ahead of `b`, modulo 2^16. -/
def ahead (a b : Nat) : Nat := (a + 65536 - b % 65536) % 65536

/-- The requests of a queue that wait: firmware takes a request from the ring when it starts or answers it. -/
def Chip.waiting (c : Chip) (q : Nat) : Nat := ahead (c.mbxIndex q reqPi) (c.mbxIndex q reqCi)
/-- The requests of a queue that are started. -/
def Chip.startedOf (c : Chip) (q : Nat) : List Started := c.fw.started.filter (fun x => decide (x.queue = q))
/-- QDEPTH (R366): the requests of a queue not yet answered. -/
def Chip.qdepth (c : Chip) (q : Nat) : Nat := c.waiting q + (c.startedOf q).length
/-- Replies that the host has not read. -/
def Chip.unread (c : Chip) (q : Nat) : Nat := ahead (c.mbxIndex q rspPi) (c.mbxIndex q rspCi)

/-- Word `w` of request entry `i`. -/
def Chip.reqWord (c : Chip) (q i w : Nat) : W32 := c.reg (pgMbx q) (0x2000 + 256 * (i % 64) + 4 * w)

/-- The header of the request that waits in a queue behind `j` others, and its payload area. -/
def Chip.reqHdr (c : Chip) (q : Nat) (j : Nat := 0) : BitVec 128 :=
  let i := c.mbxIndex q reqCi + j
  c.reqWord q i 3 ++ c.reqWord q i 2 ++ c.reqWord q i 1 ++ c.reqWord q i 0
def Chip.reqPayload (c : Chip) (q : Nat) : List Byte :=
  (List.range 60).flatMap (fun w => bytesLE 4 (c.reqWord q (c.mbxIndex q reqCi) (4 + w)).toNat)

def hdMajor (h : BitVec 128) : Nat := fld h 0 8
def hdMinor (h : BitVec 128) : Nat := fld h 8 8
def hdOpcode (h : BitVec 128) : Nat := fld h 16 16
def hdLength (h : BitVec 128) : Nat := fld h 64 16

/-- Whether the fields that a request must write 0 are 0: REPLY, TRUNCATED, STATUS and the reserved ones (R364). -/
def hdClean (h : BitVec 128) : Bool := decide (fld h 89 7 = 0) && decide (fld h 96 32 = 0)

/-! Replies (R364, R367) -/

def sOk : Nat := 0
def sBusy : Nat := 1
def sVersion : Nat := 2
def sOpcode : Nat := 3
def sLength : Nat := 4
def sField : Nat := 5
def sState : Nat := 6
def sAuth : Nat := 7
def sFailed : Nat := 8

/-- The header of a reply: it carries the request's MAJOR, OPCODE, SEQ, LIVERY and LIV_VALID, and minor 0. -/
def replyHdr (h : BitVec 128) (status len : Nat) (trunc : Bool) : BitVec 128 :=
  BitVec.ofNat 128 (hdMajor h + hdOpcode h * 2 ^ 16 + fld h 32 32 * 2 ^ 32 + len * 2 ^ 64 + fld h 80 9 * 2 ^ 80 + 2 ^ 89 +
    trunc.toNat * 2 ^ 90 + status * 2 ^ 96)

/-- Write the words of an entry of the reply ring. -/
def Chip.putReply (c : Chip) (q i : Nat) (bs : List Byte) : Chip :=
  forAll (List.range (ceilDiv bs.length 4)) c (fun w c =>
    c.setReg (pgMbx q) (0x6000 + 256 * (i % 64) + 4 * w) (BitVec.ofNat 32 (natOfLE (slice bs (4 * w) 4))))

/-- Answer a request: the reply entry, MBX_RSP_PI, and the queue's vector with RSP_INT_EN = 1. -/
def Chip.reply (c : Chip) (q : Nat) (h : BitVec 128) (status : Nat) (trunc : Bool) (payload : List Byte) : Chip :=
  let i := c.mbxIndex q rspPi
  let c := c.putReply q i (bytesLE 16 (replyHdr h status payload.length trunc).toNat ++ payload)
  let c := c.setReg (pgMbx q) rspPi (BitVec.ofNat 32 ((i + 1) % 65536))
  if c.flag (pgMbx q) 0x101C 8 then c.msix (1 + q) else c

/-- The oldest request that waits is taken from its ring. -/
def Chip.takeRequest (c : Chip) (q : Nat) : Chip :=
  let c := c.setReg (pgMbx q) reqCi (BitVec.ofNat 32 ((c.mbxIndex q reqCi + 1) % 65536))
  { c with fw := { c.fw with doorbells := Tbl.set [] c.fw.doorbells q ((Tbl.get [] c.fw.doorbells q).drop 1) } }

/-- Whether firmware, or the boot ROM in RECOVERY, can write a reply of a queue: the reply ring does not hold 64 unread
replies. -/
def Chip.mayReply (c : Chip) (q : Nat) : Bool := decide (c.fwState ≠ stRom) && decide (c.unread q < 64)
/-- Whether it can answer a request that waits. -/
def Chip.canReply (c : Chip) (q : Nat) : Bool := c.mayReply q && decide (0 < c.waiting q)

/-! Answers without execution (R365, R366, R368, R373) -/

def opcodes : List Nat := [0x01, 0x02, 0x10, 0x11, 0x12, 0x13, 0x14, 0x15, 0x16, 0x20, 0x30]
/-- The opcodes that the boot ROM serves in RECOVERY. -/
def romOpcodes : List Nat := [0x01, 0x02, 0x10, 0x11, 0x12, 0x13, 0x15]

def Chip.inRecovery (c : Chip) : Bool := decide (c.fwState = stRecovery)

/-- The mailbox major versions served: the running image's, and major 1 in the boot ROM. -/
def Chip.majMin (c : Chip) : Nat := if c.inRecovery then 1 else ihMajMin c.fw.image
def Chip.majMax (c : Chip) : Nat := if c.inRecovery then 1 else ihMajMax c.fw.image

/-- The highest MINOR served under MBX_MAJ_MAX: 0 for major 1 (R368), unstated for another. -/
def Chip.highMinor (c : Chip) : Nat := if c.majMax = 1 then 0 else fld (Config.firmwareFigure c.fresh) 0 8

/-- The payload of a BUSY answer (R366). -/
def Chip.busyBody (c : Chip) (q reason : Nat) : List Byte := bytesLE 2 (c.qdepth q) ++ [BitVec.ofNat 8 reason, 0]

/-- The answer to the request that waits in a queue behind `j` others when it is not executed, none where it may start. -/
def Chip.answerNow (c : Chip) (q : Nat) (j : Nat := 0) : Option (Nat × List Byte) :=
  let h := c.reqHdr q j
  if c.inRecovery && decide (q ≠ 0) then some (sState, [])
  else if hdMajor h < c.majMin ∨ c.majMax < hdMajor h then
    some (sVersion, [BitVec.ofNat 8 c.majMin, BitVec.ofNat 8 c.majMax, BitVec.ofNat 8 c.highMinor, 0])
  else if c.fw.quiesced then some (sBusy, c.busyBody q 1)
  else if hdOpcode h ∈ (if c.inRecovery then romOpcodes else opcodes) then none
  else some (sOpcode, [])

/-- Answer the oldest request that waits. -/
def Chip.answerOldest (c : Chip) (q status : Nat) (body : List Byte) : Chip :=
  (c.reply q (c.reqHdr q) status false body).takeRequest q

/-- Answer, in ring order, the requests at the front of a queue that are not executed. -/
def Chip.settleQueue (q : Nat) : Nat → Chip → Chip
  | 0, c => c
  | n + 1, c =>
    if c.canReply q then
      match c.answerNow q with
      | some (st, body) => Chip.settleQueue q n ((c.takeFresh).2.answerOldest q st body)
      | none => c
    else c

def Chip.settle (c : Chip) (q : Nat) : Chip := Chip.settleQueue q 64 c

/-- The same on every queue: after a change of what firmware serves. -/
def Chip.settleAll (c : Chip) : Chip := forAll [0, 1, 2, 3] c (fun q c => c.settle q)

/-! Starting requests (R364, R374) -/

/-- Whether fault handling waits: an event that firmware has not taken from the queue. -/
def Chip.faultWork (c : Chip) : Bool := decide (c.fwState = stRunning) && decide (c.ev.taken < c.ev.placed)

/-- The oldest request that waits is started. -/
def Chip.startOldest (c : Chip) (q : Nat) : Chip :=
  let x : Started := ⟨q, c.reqHdr q, c.reqPayload q⟩
  { c.takeRequest q with fw := { (c.takeRequest q).fw with started := c.fw.started ++ [x] } }

/-- Whether a request of an opcode waits in a queue that can start: it, and those before it. -/
def Chip.hasRequest (c : Chip) (q op : Nat) : Bool :=
  (List.range (c.waiting q)).any (fun j => (c.answerNow q j).isNone && decide (hdOpcode (c.reqHdr q j) = op))

/-- Requests are started in ring order up to the first of an opcode; one that is not executed is answered. -/
def Chip.startUpTo (q op : Nat) : Nat → Chip → Chip
  | 0, c => c
  | n + 1, c =>
    if c.waiting q = 0 then c
    else match c.answerNow q with
      | some (st, body) => if c.mayReply q then Chip.startUpTo q op n ((c.takeFresh).2.answerOldest q st body) else c
      | none =>
        if hdOpcode (c.reqHdr q) = op then c.startOldest q else Chip.startUpTo q op n (c.startOldest q)

/-- Start the requests of a queue up to the oldest of an opcode that is not started yet, if there is one and no work of a
higher class waits. -/
def Chip.startFor (c : Chip) (q op : Nat) : Chip :=
  if (c.startedOf q).any (fun x => decide (hdOpcode x.hdr = op)) || c.faultWork || !c.hasRequest q op then c
  else Chip.startUpTo q op 64 c

end Sys2Proof.Machine
end

