-- ==== Sys2Proof/Machine/Firmware.lean ====
section
/-! DEFINITION. The management firmware on M0 (R354 to R375, R425, R426): the boot ROM, watchdogs and management resets, the hitless update with its rollback, the heartbeat, log commits and telemetry. -/

namespace Sys2Proof.Machine

/-! Starting firmware -/

def Chip.setTelem (c : Chip) (t : Option Telem) (seq shed : Nat) : Chip :=
  { c with fw := { c.fw with telem := t, telemSeq := seq, telemShed := shed } }

/-- Firmware starts without a handover (R372): what only firmware held is lost, and telemetry starts at a new SEQ. -/
def Chip.dropFirmwareState (c : Chip) : Chip := c.setTelem none 0 0

/-! The handover area (R370) -/

/-- What a running image hands over of the state that only firmware holds: telemetry with its SEQ and the periods shed. -/
structure Handover where
  telem : Option Telem
  telemSeq : Nat
  telemShed : Nat
  deriving DecidableEq, Repr

/-- The body of the handover area. -/
def Handover.bytes (h : Handover) : List Byte :=
  let t := h.telem.getD ⟨0, 0, 0, 0⟩
  bytesLE 1 h.telem.isSome.toNat ++ bytesLE 8 t.base ++ bytesLE 4 t.size ++ bytesLE 4 t.period ++ bytesLE 8 t.pos ++
    bytesLE 4 h.telemSeq ++ bytesLE 4 h.telemShed

def Handover.ofBytes (bs : List Byte) : Handover :=
  let n (a k : Nat) : Nat := natOfLE (slice bs a k)
  ⟨if n 0 1 = 1 then some ⟨n 1 8, n 9 4, n 13 4, n 17 8⟩ else none, n 25 4, n 29 4⟩

/-- The handover area: its format version, its length, the CRC-32 of its body, and the body. -/
def handBytes (format : Nat) (h : Handover) : List Byte :=
  bytesLE 4 format ++ bytesLE 4 h.bytes.length ++ bytesLE 4 (crc32 h.bytes).toNat ++ h.bytes

/-- What a handover area that is present holds: its format version, whether its CRC holds, and the state. -/
structure HandArea where
  format : Nat
  crcOk : Bool
  state : Handover
  deriving DecidableEq, Repr

/-- The handover area, none where it is absent: the store holds zeros there. -/
def Chip.handArea (c : Chip) : Option HandArea :=
  let h := c.storeRead hoBase 12
  let len := natOfLE (slice h 4 4)
  let body := c.storeRead (hoBase + 12) (min len (hoBytes - 12))
  if len = 0 then none
  else some ⟨natOfLE (h.take 4), decide (len ≤ hoBytes - 12 ∧ natOfLE (slice h 8 4) = (crc32 body).toNat), Handover.ofBytes body⟩

/-- The running image serialises its state into the area (R370 step 2). -/
def Chip.writeHandover (c : Chip) : Chip :=
  c.storeWrite hoBase (handBytes (ihHoOut c.fw.image) ⟨c.fw.telem, c.fw.telemSeq, c.fw.telemShed⟩)

/-- The area is cleared (R370 step 5). -/
def Chip.clearHandover (c : Chip) : Chip := c.setStore (zeroBytes c.sec.store hoBase hoBytes)

/-- Firmware takes over what the handover area holds. -/
def Chip.takeHandover (c : Chip) (h : Handover) : Chip := c.setTelem h.telem h.telemSeq h.telemShed

/-! Starts -/

/-- An image of a slot runs (R361 step 7, R370 step 4): SLOT, SVN and FW_VER name it, and the start is counted. -/
def Chip.imageRuns (c : Chip) (k : Nat) (h : Header) (region adopt : Nat) : Chip :=
  let c := c.freshRuntime
  let c := { c with fw := { c.fw with image := h, slot := some k, region := region, starts := c.fw.starts + 1 } }
  let c := (c.setFlag (pgMbx 0) fwStat 3 (k = 1)).setField (pgMbx 0) fwStat 16 6 (ihSvn h)
  let c := (c.setReg (pgMbx 0) 0x1004 (BitVec.ofNat 32 (ihBuildSeq h))).setField (pgMbx 0) fwStat 4 2 adopt
  c.setFwState stRunning

/-- Steps 5 to 7 of R361 for the image that is started: its payload lies in load region 0. On a cold start firmware
copies a last-gasp record into the error log (R422); at every start it finds its place in the log ring (R425). After a
trial that stopped kicking, the image of the other slot adopts the handover area (R371). -/
def Chip.bootImage (c : Chip) (k : Nat) (rejected : Option Nat) : Chip :=
  let h := c.slotHeader k
  let cold := c.fw.coldBoot
  let c := c.deriveKeys
  let c := match rejected, c.handArea with
    | some r, some a =>
      if a.crcOk && (adopts h a.format || decide (a.format = ihHoOut h)) then
        ((c.takeHandover a.state).imageRuns k h 0 adRolledBack).raise (c.slotEvent 0x0805 r)
      else (c.dropFirmwareState).imageRuns k h 0 adRebuilt
    | _, _ => (c.dropFirmwareState).imageRuns k h 0 (if cold then adCold else adRebuilt)
  let c := { c.logFind with fw := { c.logFind.fw with coldBoot := false } }
  (if cold then c.gaspCopy else c).settleAll

/-- The slots in READY or CONFIRMED, by SVN and then by BUILD_SEQ, highest first; slot A first when both are equal. -/
def Chip.bootOrder (c : Chip) : List Nat :=
  let ks := [0, 1].filter (fun k => decide (c.slotState k = .ready ∨ c.slotState k = .confirmed))
  let key (k : Nat) : Nat := ihSvn (c.slotHeader k) * 2 ^ 32 + ihBuildSeq (c.slotHeader k)
  match ks with
  | [a, b] => if key a < key b then [b, a] else [a, b]
  | l => l

/-- Try the slots in order (R361 step 5): the payload is copied into load region 0 and checked there; an invalid slot is
passed over and recorded. -/
def Chip.bootTry (c : Chip) (rejected : Option Nat) : List Nat → Chip
  | [] => ((c.setFwState stRecovery).raise (evP (pgMbx 0) 0x0803 dieM 0)).settleAll
  | k :: ks =>
    let c := c.loadSlot k 0
    if c.loadedValid k 0 then c.bootImage k rejected
    else Chip.bootTry (c.raise (c.slotEvent 0x0806 k)) rejected ks

/-- Step 3 of R361: REJECTED over any slot in TRIAL. -/
def Chip.rejectTrials (c : Chip) : Chip :=
  forAll [0, 1] c (fun k c => if c.slotState k = .trial then c.writeSlotState k .rejected else c)

/-- Step 2 of R361: the group of a life-cycle state that was left partly blown is programmed to its end (R348). -/
def Chip.finishFuses (c : Chip) : Chip := { c with sec := { c.sec with partGroup := false, programming := false } }

/-- The boot ROM runs (R361). -/
def Chip.bootRom (c : Chip) : Chip :=
  let rejected := [0, 1].find? (fun k => decide (c.slotState k = .trial))
  let c := { c with fw := { c.fw with bootWaiting := false } }
  let c := c.finishFuses.rejectTrials
  c.bootTry rejected c.bootOrder

/-! Management resets (R355, R444) -/

/-- Mailbox indices go to 0 (R444): no request waits. -/
def Chip.clearIndices (c : Chip) : Chip :=
  forAll [0, 1, 2, 3] { c with fw := { c.fw with doorbells := [] } } (fun q c =>
    (((c.setReg (pgMbx q) 0x100C 0).setReg (pgMbx q) 0x1010 0).setReg (pgMbx q) 0x1014 0).setReg (pgMbx q) 0x1018 0)

/-- The management cores restart from the boot ROM: every core is in service again, what the running image held in its
runtime data is gone, a debug scope closes (R350), and the PTP servo restarts (R441). -/
def Chip.mgmtRestart (c : Chip) : Chip :=
  let c := (c.setFwState stRom).clearIndices
  let c := (c.setReg (pgMbx 0) fwStat 0x3C0).setReg (pgMbx 0) 0x1004 0
  let c := ((c.setReg pgTim 0x102C 0).closeDebug).setFlag pgPwr 0x1064 2 false
  { c with
    time := { c.time with servoGood := 0 }
    fw := { c.fw with
      image := [], slot := none, region := 0, update := none, loaded := false, quiesced := false, started := [],
      coreLast := [], telem := none, telemShed := 0, calSaving := none, bootWaiting := true, coldBoot := false } }

/-- A management reset (R355, R433): CAUSE in PWR_RST_STAT, and the event. -/
def Chip.mgmtReset (c : Chip) (cause : Nat) : Chip :=
  (((c.setField pgPwr 0x1074 0 4 cause).setFlag pgPwr 0x1070 3 false).raise (evP (pgMbx 0) 0x0802 dieM 0)).mgmtRestart

/-- A core's bit in MBX_FW_STAT.CORES. -/
def Chip.coreIn (c : Chip) (k : Nat) : Bool := c.flag (pgMbx 0) fwStat (6 + k)

/-- A core's watchdog expires (R355): the core is reset, or fenced on a second expiry within 1 s. -/
def Chip.coreExpiry (c : Chip) (k : Nat) : Chip :=
  if !c.coreIn k then c
  else
    let second := match Tbl.get none c.fw.coreLast k with | some t => decide (c.time.now < t + usUnits 1000000) | none => false
    let c := { c with fw := { c.fw with coreLast := Tbl.set none c.fw.coreLast k (some c.time.now) } }
    if second then
      let c := (c.setFlag (pgMbx 0) fwStat (6 + k) false).raise (evP (pgMbx 0) 0x0801 dieM k)
      if c.field (pgMbx 0) fwStat 6 4 = 0 then c.mgmtReset 5 else c
    else c

/-- An uncorrectable error in management SRAM (R356): firmware restarts itself without a handover, or by a management
reset when the error lies in the code of the load region. Requests in progress are lost. -/
def Chip.sramError (c : Chip) (bank word : Nat) : Chip :=
  let c := (c.bump pgMemM 0x1108).raise (evP pgMemM 0x0402 dieM bank word)
  if c.fwState ≠ stRunning ∧ c.fwState ≠ stHandover then c
  else if c.inCode bank word then c.mgmtReset 5
  else
    let c := c.freshRuntime.dropFirmwareState.setField (pgMbx 0) fwStat 4 2 adRebuilt
    { c with fw := { c.fw with starts := c.fw.starts + 1, started := [] } }

/-! Hitless update (R370, R371) -/

/-- A rollback (R371): the new slot becomes REJECTED, and the old image starts again from its unchanged load region, with
its own handover area. -/
def Chip.rollback (c : Chip) (k : Nat) : Chip :=
  let c := ((c.writeSlotState k .rejected).setFwState stRollback).freshRuntime
  let c := { c with fw := { c.fw with update := none, loaded := false, quiesced := false, starts := c.fw.starts + 1 } }
  let back (c : Chip) (adopt : Nat) : Chip := c.setField (pgMbx 0) fwStat 4 2 adopt
  let c := match c.handArea with
    | some a => if a.crcOk then back (c.takeHandover a.state) adRolledBack else back c.dropFirmwareState adRebuilt
    | none => back c.dropFirmwareState adRebuilt
  ((c.setFwState stRunning).raise (c.slotEvent 0x0805 k)).settleAll

/-- Step 1 of R370 after the reply: TRIAL, and quiesce; a request that is not started is answered BUSY. -/
def Chip.updateStart (c : Chip) (k : Nat) : Chip :=
  let c := (c.writeSlotState k .trial).setFwState stHandover
  Chip.settleAll { c with fw := { c.fw with update := some k, loaded := false, quiesced := true } }

/-- Steps 2 and 3 of R370, once every request that was started has been answered: the handover area, and the new payload
in the other load region with its check. -/
def Chip.updateGo (c : Chip) : Chip :=
  match c.fw.update with
  | some k =>
    if c.fw.loaded || !c.fw.started.isEmpty then c
    else
      let r := 1 - c.fw.region
      let c := c.writeHandover.loadSlot k r
      let c := { c with fw := { c.fw with loaded := true } }
      if c.loadedValid k r then c else c.rollback k
  | none => c

/-- The new image starts (R370 step 4): it adopts the area, rebuilds its state when the area is absent, or rolls back. An
access of the store that waits for a wipe delays it. -/
def Chip.newImage (c : Chip) (selfTestOk : Bool) : Chip :=
  match c.fw.update with
  | none => c
  | some k =>
    let h := c.slotHeader k
    let good (c : Chip) (adopt : Nat) : Chip :=
      let c := (c.writeSlotState k .confirmed).clearHandover
      let c := { c with fw := { c.fw with update := none, loaded := false, quiesced := false } }
      ((c.imageRuns k h (1 - c.fw.region) adopt).raise (c.slotEvent 0x0804 k)).settleAll
    if !c.fw.loaded || !c.sec.storeWaits.isEmpty then c
    else match c.handArea with
      | none => if selfTestOk then good c.dropFirmwareState adRebuilt else c.rollback k
      | some a =>
        if selfTestOk && a.crcOk && adopts h a.format then good (c.takeHandover a.state) adAdopted else c.rollback k

/-! Periodic work (R374, R375, R425, R426) -/

/-- Every 1 ms running firmware increments the heartbeat and reports the load of its classes, in percent. -/
def Chip.heartbeat (c : Chip) : Chip :=
  if c.fwState = stRunning ∨ c.fwState = stHandover then
    let n := c.takeFresh
    let w := Config.firmwareFigure n.1
    let a := fld w 0 8 % 101
    let b := fld w 8 8 % (101 - a)
    let load := a + b * 256 + fld w 16 8 % (101 - a - b) * 65536
    (n.2.bump (pgMbx 0) 0x1008).setReg (pgMbx 0) 0x1020 (BitVec.ofNat 32 load)
  else c

/-- Bytes of one telemetry record. -/
def telemBytes : Nat := 32 + 8 * counterRegs.length

/-- A telemetry record (R426): RTYPE, SEQ with the firmware starts above it, fabric time, periods shed and NITEMS, then
one item for each counter register. -/
def Chip.telemRecord (c : Chip) : List Byte :=
  let seq := c.fw.starts % 65536 * 65536 + c.fw.telemSeq % 65536
  bytesLE 4 0x10 ++ bytesLE 4 seq ++ bytesLE 8 c.time.now ++ bytesLE 4 c.fw.telemShed ++
    bytesLE 4 counterRegs.length ++ List.replicate 8 0 ++
    counterRegs.flatMap (fun r => bytesLE 8 (r.1 * 2 ^ 54 + r.2 / 4 * 2 ^ 40 + (c.view r.1 r.2).toNat))

/-- Whether work of a class above telemetry waits (R374): an event, or a request that can start. -/
def Chip.higherWork (c : Chip) : Bool :=
  c.faultWork || [0, 1, 2, 3].any (fun q => decide (0 < c.waiting q) && (c.answerNow q).isNone)

/-- A telemetry period ends: one record at the next free position, or the period is shed. -/
def Chip.telemPeriod (c : Chip) (produced : Bool) : Chip :=
  match c.fw.telem with
  | none => c
  | some t =>
    if !produced || c.higherWork then
      { c.bump (pgMbx 0) 0x1024 with fw := { c.fw with telemShed := c.fw.telemShed + 1 } }
    else
      let at_ := if t.size < t.pos + telemBytes then 0 else t.pos
      { c with
        out := { c.out with dma := some (t.base + at_, c.telemRecord) }
        fw := { c.fw with
          telem := some { t with pos := at_ + telemBytes }, telemSeq := c.fw.telemSeq + 1, telemShed := 0 } }

/-- The pause on vector 0 ends: one interrupt covers the records placed during it (R424). -/
def Chip.pauseEnd (c : Chip) : Chip :=
  let gap := usUnits (max 1 (c.field pgFlt 0x1000 8 8))
  let past := match c.ev.irqLast with | some t => decide (t + gap ≤ c.time.now) | none => true
  if c.ev.irqWait && past then
    let c := { c with ev := { c.ev with irqWait := false } }
    if c.flag pgFlt 0x1000 0 then Chip.msix { c with ev := { c.ev with irqLast := some c.time.now } } 0 else c
  else c

/-- Whether M0 works. -/
def Chip.m0Up (c : Chip) : Bool := c.standbyUp && c.boot.standbyDone && !c.dieFailed dieM

/-! Commands -/

/-- The meaning of M0_WATCHDOG_EXPIRY (R355). -/
def execM0WatchdogExpiry (s : State) : Host.Outcome State Fault Refusal := s.run fun c =>
  if c.m0Up then c.mgmtReset 5 else c
/-- The meaning of MGMT_SRAM_UE (R356). -/
def execMgmtSramUe (bank : Fin 8) (word : BitVec 16) (s : State) : Host.Outcome State Fault Refusal :=
  s.run fun c => if c.m0Up then c.sramError bank.val word.toNat else c
/-- The meaning of BOOT_ROM_START (R361): the boot ROM waits while the power-up wipe runs. -/
def execBootRomStart (s : State) : Host.Outcome State Fault Refusal := s.run fun c =>
  if c.standbyUp && c.fw.bootWaiting && !(c.wiping && decide (c.field pgSec wipeStat 3 3 = wcPowerUp)) then c.bootRom
  else c
/-- The meaning of NEW_IMAGE_START (R370). -/
def execNewImageStart (selfTestOk : Bool) (s : State) : Host.Outcome State Fault Refusal := s.run fun c =>
  if c.m0Up then c.newImage selfTestOk else c
/-- The meaning of FW_HEARTBEAT (R375). -/
def execFwHeartbeat (s : State) : Host.Outcome State Fault Refusal := s.run fun c =>
  if c.m0Up then c.heartbeat else c
/-- The meaning of ERROR_LOG_COMMIT (R425). -/
def execErrorLogCommit (s : State) : Host.Outcome State Fault Refusal := s.run fun c =>
  if c.m0Up && decide (c.fwState = stRunning) then c.logCommit else c
/-- The meaning of TELEMETRY_PERIOD (R426). -/
def execTelemetryPeriod (produced : Bool) (s : State) : Host.Outcome State Fault Refusal := s.run fun c =>
  if c.m0Up && decide (c.fwState = stRunning) then c.telemPeriod produced else c
/-- The meaning of EVQ_INT_PAUSE_END (R424). -/
def execEvqIntPauseEnd (s : State) : Host.Outcome State Fault Refusal := s.run fun c =>
  if c.m0Up then c.pauseEnd else c

end Sys2Proof.Machine
end

