-- ==== Sys2Proof/Machine/Mailbox.lean ====
section
/-! DEFINITION. The mailboxes (R362 to R368, R370, R373, R425, R426): how a request is executed and answered, index writes,
and the core opcodes. -/

namespace Sys2Proof.Machine

/-! Execution (R364, R365) -/

/-- What an opcode answers, and its effect, which follows the reply. -/
structure Answer where
  status : Nat
  body : List Byte
  effect : Chip → Chip

def ans (status : Nat) : Answer := ⟨status, [], id⟩

/-- A started request completes: LENGTH is checked against the layout of minor 0, which a higher minor may exceed (R365),
then the reserved fields (R367); the reply, and then the effect. -/
def Chip.complete (c : Chip) (x : Started) (len : Nat) (f : List Byte → Answer) : Chip :=
  let h := x.hdr
  let c := { c with fw := { c.fw with started := dropFirst (fun y => decide (y = x)) c.fw.started } }
  let trunc := decide (0 < hdMinor h)
  if hdLength h < len ∨ 240 < hdLength h ∨ (!trunc ∧ hdLength h ≠ len) then c.reply x.queue h sLength trunc []
  else if !hdClean h then c.reply x.queue h sField trunc []
  else
    let a := f (x.payload.take len)
    a.effect (c.reply x.queue h a.status trunc a.body)

/-- A request of an opcode of a queue completes: the oldest that is started, or that can start now (R364). Replies come in
the order of these commands. -/
def Chip.serve (c : Chip) (q op len : Nat) (f : List Byte → Answer) : Chip :=
  let c := if c.mayReply q then c.startFor q op else c
  match c.fw.started.find? (fun x => decide (x.queue = q ∧ hdOpcode x.hdr = op)) with
  | some x => if c.mayReply q then ((c.complete x len f).settle q).updateGo else c
  | none => c

/-! Index writes (R363) -/

/-- A write of MBX_REQ_PI: the requests that it adds have their doorbell now. -/
def Chip.doorbell (c : Chip) (q : Nat) (v : W32) : Chip :=
  let n := fld v 0 16
  let k := ahead n (c.mbxIndex q reqCi)
  if 64 < k then c.setFlag (pgMbx q) 0x101C 9 true
  else
    let ds := (Tbl.get [] c.fw.doorbells q).take k
    let ds := ds ++ List.replicate (k - ds.length) c.time.now
    let c := { c with fw := { c.fw with doorbells := Tbl.set [] c.fw.doorbells q ds } }
    (c.setReg (pgMbx q) reqPi (BitVec.ofNat 32 n)).settle q

/-- A write of MBX_RSP_CI. -/
def Chip.rspCiWrite (c : Chip) (q : Nat) (v : W32) : Chip :=
  let n := fld v 0 16
  if c.unread q < ahead n (c.mbxIndex q rspCi) then c.setFlag (pgMbx q) 0x101C 9 true
  else (c.setReg (pgMbx q) rspCi (BitVec.ofNat 32 n)).settle q

/-- A request in progress on a core that is reset is answered FAILED (R355): the oldest of the queue that is started, or
the oldest that waits, which that core had started. -/
def Chip.failOne (c : Chip) (q : Nat) : Chip :=
  let c := if (c.startedOf q).isEmpty && c.canReply q && (c.answerNow q).isNone then c.startOldest q else c
  match c.fw.started.find? (fun x => decide (x.queue = q)) with
  | some x =>
    if c.mayReply q then
      let c := { c with fw := { c.fw with started := dropFirst (fun y => decide (y = x)) c.fw.started } }
      ((c.reply q x.hdr sFailed false []).settle q).updateGo
    else c
  | none => c

def Chip.failStarted (c : Chip) (qs : List Queue) : Chip := forAll qs c (fun q c => c.failOne q.val)

/-- Whether firmware has not started the oldest request of a queue within BUSY_MS of its doorbell, 0 acting as 1 (R366).
Before fabric time runs, the command itself tells it. -/
def Chip.busyDue (c : Chip) (q : Nat) : Bool :=
  let wait := usUnits (1000 * max 1 (c.field (pgMbx q) 0x101C 0 8))
  !c.time.running || (match (Tbl.get [] c.fw.doorbells q).head? with
    | some t => decide (t + wait ≤ c.time.now)
    | none => true)

/-- MBX_BUSY_TIMEOUT (R366): the oldest request that waits is answered BUSY, for load or for fault handling. -/
def Chip.busyTimeout (c : Chip) (q : Nat) : Chip :=
  if decide (c.fwState = stRunning) && c.canReply q && (c.answerNow q).isNone && c.busyDue q then
    (c.answerOldest q sBusy (c.busyBody q (if c.faultWork then 2 else 0))).settle q
  else c

/-! The core opcodes (R368) -/

def byteAt (bs : List Byte) (i : Nat) : Nat := (bs.getD i 0).toNat
def u8 (n : Nat) : Byte := BitVec.ofNat 8 n

/-- GET_VERSION. The boot ROM in RECOVERY has no image: SVN and BUILD_SEQ as MBX_FW_STAT and MBX_FW_VER show them, and a
key index that the manual does not state. -/
def Chip.getVersion (c : Chip) : Answer :=
  let key := if c.inRecovery then fld (Config.firmwareFigure c.fresh) 0 8 else ihKeyIdx c.fw.image
  ⟨sOk, [u8 (c.field (pgMbx 0) fwStat 16 6), u8 key] ++ bytesLE 4 (c.reg (pgMbx 0) 0x1004).toNat ++
    [u8 c.majMin, u8 c.majMax, u8 c.highMinor, u8 (c.field (pgMbx 0) fwStat 3 1), u8 c.fw.fuseSvn,
     u8 (c.field (pgMbx 0) fwStat 4 2)], fun c => c.takeFresh.2⟩

/-- GET_STATUS. -/
def Chip.getStatus (c : Chip) : Answer :=
  ⟨sOk, bytesLE 4 (c.view (pgMbx 0) fwStat).toNat ++ bytesLE 4 (c.reg (pgMbx 0) 0x1020).toNat ++
    [0, 1, 2, 3].flatMap (fun q => bytesLE 2 (c.qdepth q)) ++ [0, 1].flatMap (fun k => bytesLE 4 (c.slotWord k)), id⟩

/-- IMG_BEGIN: the slot is erased. -/
def Chip.imgBegin (c : Chip) (bs : List Byte) : Answer :=
  let k := byteAt bs 0
  if 1 < k then ans sField
  else if c.fw.slot = some k then ans sState
  else ⟨sOk, [], fun c => c.flashErase (slotBase k) slotBytes⟩

/-- IMG_WRITE: `data` is what host memory returned. -/
def Chip.imgWrite (c : Chip) (data bs : List Byte) : Answer :=
  let k := byteAt bs 0
  let off := natOfLE (slice bs 1 4)
  let n := natOfLE (slice bs 5 4)
  if 1 < k ∨ off < 0x1000 ∨ slotBytes < off + n ∨ n % 256 ≠ 0 ∨ 1048576 < n then ans sField
  else if c.fw.slot = some k ∨ c.slotState k ≠ .empty then ans sState
  else if data.length < n then ans sFailed
  else ⟨sOk, [], fun c => c.flashProgram (slotBase k + off) (data.take n)⟩

/-- Whether the running image's HO_OUT lies in the range that a slot's image adopts; in RECOVERY there is none. -/
def Chip.hoFits (c : Chip) (k : Nat) : Bool := c.inRecovery || adopts (c.slotHeader k) (ihHoOut c.fw.image)

/-- IMG_VERIFY. -/
def Chip.imgVerify (c : Chip) (bs : List Byte) : Answer :=
  let k := byteAt bs 0
  if 1 < k then ans sField
  else if c.fw.slot = some k ∨ c.slotState k ≠ .empty then ans sState
  else if c.slotValid k && c.hoFits k then
    ⟨sOk, u8 (ihSvn (c.slotHeader k)) :: bytesLE 4 (ihBuildSeq (c.slotHeader k)), fun c => c.writeSlotState k .ready⟩
  else ans sAuth

/-- IMG_ACTIVATE: a hitless update (R370), or the start of the slot in RECOVERY through steps 5 to 7 of R361 (R373). -/
def Chip.imgActivate (c : Chip) (bs : List Byte) : Answer :=
  let k := byteAt bs 0
  if 1 < k then ans sField
  else if c.slotState k ≠ .ready ∨ c.fw.update.isSome then ans sState
  else ⟨sOk, [], fun c => if c.inRecovery then c.bootTry none [k] else c.updateStart k⟩

/-- IMG_COMMIT_SVN (R362). -/
def Chip.imgCommit (c : Chip) : Answer :=
  match c.fw.slot with
  | some k =>
    if c.fw.update.isSome ∨ c.slotState k ≠ .confirmed then ans sState
    else
      let n := max c.fw.fuseSvn (ihSvn c.fw.image)
      ⟨sOk, [u8 n], fun c => { c with fw := { c.fw with fuseSvn := n } }⟩
  | none => ans sState

/-- IMG_REJECT: the running slot only when the other slot can boot. -/
def Chip.imgReject (c : Chip) (bs : List Byte) : Answer :=
  let k := byteAt bs 0
  let other := c.slotState (1 - k)
  if 1 < k then ans sField
  else if c.fw.slot = some k ∧ (c.fw.update.isSome ∨ (other ≠ .ready ∧ other ≠ .confirmed)) then ans sState
  else ⟨sOk, [], fun c => c.writeSlotState k .rejected⟩

/-- IMG_REVOKE_KEY (R362): only a key lower than that of the running image. -/
def Chip.imgRevoke (c : Chip) (bs : List Byte) : Answer :=
  let k := byteAt bs 0
  if 3 < k then ans sField
  else if ihKeyIdx c.fw.image ≤ k then ans sState
  else ⟨sOk, [], fun c => { c with fw := { c.fw with revoked := putBit c.fw.revoked k true } }⟩

/-- LOG_READ (R425): records oldest first from the SEQ requested, into host memory. -/
def Chip.logRead (c : Chip) (bs : List Byte) : Answer :=
  let first := natOfLE (bs.take 4)
  let count := natOfLE (slice bs 4 4)
  let at_ := natOfLE (slice bs 8 8)
  let rs := (c.logValidPages.flatMap c.logRecords).filter (fun r => decide (evSeqOf r = first) || seqNewer (evSeqOf r) first)
  let rs := rs.take count
  ⟨sOk, bytesLE 4 rs.length, fun c => { c with out := { c.out with dma := some (at_, rs.flatMap recordLE) } }⟩

/-- TELEM_CFG (R426). -/
def telemCfg (bs : List Byte) : Answer :=
  let base := natOfLE (bs.take 8)
  let size := natOfLE (slice bs 8 4)
  let period := natOfLE (slice bs 12 4)
  let en := byteAt bs 16
  if period = 0 ∨ 1 < en ∨ size < telemBytes then ans sField
  else
    let t : Option Telem := if en = 1 then some ⟨base, size, period, 0⟩ else none
    ⟨sOk, [], fun c => { c with fw := { c.fw with telem := t } }⟩

/-! Commands -/

/-- The meaning of CORE_WATCHDOG_EXPIRY (R355): the requests it had started are answered, and the core is reset or
fenced. -/
def execCoreWatchdogExpiry (core : Fin 4) (started : List Queue) (s : State) : Host.Outcome State Fault Refusal :=
  s.run fun c => if c.m0Up && c.coreIn core.val then (c.failStarted started).coreExpiry core.val else c
/-- The meaning of MBX_DOORBELL (R363). -/
def execMbxDoorbell (q : Queue) (v : W32) (s : State) : Host.Outcome State Fault Refusal := s.run fun c =>
  if c.serves (pgMbx q.val) then c.doorbell q.val v else c
/-- The meaning of MBX_RSP_CI_WRITE (R363). -/
def execMbxRspCiWrite (q : Queue) (v : W32) (s : State) : Host.Outcome State Fault Refusal := s.run fun c =>
  if c.serves (pgMbx q.val) then c.rspCiWrite q.val v else c
/-- The meaning of MBX_BUSY_TIMEOUT (R366). -/
def execMbxBusyTimeout (q : Queue) (s : State) : Host.Outcome State Fault Refusal := s.run fun c =>
  if c.m0Up then c.busyTimeout q.val else c
/-- The meaning of GET_VERSION (R368). -/
def execGetVersion (q : Queue) (s : State) : Host.Outcome State Fault Refusal := s.run fun c =>
  if c.m0Up then c.serve q.val 0x01 0 (fun _ => c.getVersion) else c
/-- The meaning of GET_STATUS (R368). -/
def execGetStatus (q : Queue) (s : State) : Host.Outcome State Fault Refusal := s.run fun c =>
  if c.m0Up then c.serve q.val 0x02 0 (fun _ => c.getStatus) else c
/-- The meaning of IMG_BEGIN (R368). -/
def execImgBegin (q : Queue) (s : State) : Host.Outcome State Fault Refusal := s.run fun c =>
  if c.m0Up then c.serve q.val 0x10 1 c.imgBegin else c
/-- The meaning of IMG_WRITE (R368). -/
def execImgWrite (q : Queue) (data : List Byte) (s : State) : Host.Outcome State Fault Refusal := s.run fun c =>
  if c.m0Up then c.serve q.val 0x11 17 (c.imgWrite data) else c
/-- The meaning of IMG_VERIFY (R368). -/
def execImgVerify (q : Queue) (s : State) : Host.Outcome State Fault Refusal := s.run fun c =>
  if c.m0Up then c.serve q.val 0x12 1 c.imgVerify else c
/-- The meaning of IMG_ACTIVATE (R370). -/
def execImgActivate (q : Queue) (s : State) : Host.Outcome State Fault Refusal := s.run fun c =>
  if c.m0Up then c.serve q.val 0x13 1 c.imgActivate else c
/-- The meaning of IMG_COMMIT_SVN (R362). -/
def execImgCommitSvn (q : Queue) (s : State) : Host.Outcome State Fault Refusal := s.run fun c =>
  if c.m0Up then c.serve q.val 0x14 0 (fun _ => c.imgCommit) else c
/-- The meaning of IMG_REJECT (R368). -/
def execImgReject (q : Queue) (s : State) : Host.Outcome State Fault Refusal := s.run fun c =>
  if c.m0Up then c.serve q.val 0x15 1 c.imgReject else c
/-- The meaning of IMG_REVOKE_KEY (R362). -/
def execImgRevokeKey (q : Queue) (s : State) : Host.Outcome State Fault Refusal := s.run fun c =>
  if c.m0Up then c.serve q.val 0x16 1 c.imgRevoke else c
/-- The meaning of LOG_READ (R425). -/
def execLogRead (q : Queue) (s : State) : Host.Outcome State Fault Refusal := s.run fun c =>
  if c.m0Up then c.serve q.val 0x20 16 c.logRead else c
/-- The meaning of TELEM_CFG (R426). -/
def execTelemCfg (q : Queue) (s : State) : Host.Outcome State Fault Refusal := s.run fun c =>
  if c.m0Up then c.serve q.val 0x30 17 telemCfg else c

end Sys2Proof.Machine
end

