-- ==== Sys2Proof/Machine/Security.lean ====
section
/-! DEFINITION. The security engine (R345, R348 to R350, R462): the end of a wipe and what waited for it, life-cycle
transitions, tokens and debug, and the instruction of the test access port. -/

namespace Sys2Proof.Machine

/-! Life cycle and the end of a wipe (R345, R348, R350) -/

/-- Step 3 of R348, and the first fuse of the group of the state that is entered: a group with any fuse blown counts as
entered. The engine goes on to program the group. -/
def Chip.enterLife (c : Chip) (life : Nat) (owner : BitVec 384) : Chip :=
  let was := c.testAccess
  Chip.tapWatch { c with sec := { c.sec with
    life := life, transition := none, partGroup := true, programming := true
    ownerHash := if life = 1 then owner else c.sec.ownerHash
    rootErased := c.sec.rootErased || decide (life = 3) } } was

/-- Steps 4 and 5 of R348: the group is programmed and verified, and the management cores start again. -/
def Chip.fuseEnd (c : Chip) : Chip :=
  if c.sec.programming && c.standbyUp then (c.finishFuses.raise (evP pgSec 0x0703 dieM c.sec.life)).mgmtRestart else c

/-- What waited for a wipe: accesses of the store (R344), the scope of a debug token, which opens only when the wipe has
verified (R350), and a transition (R348). -/
def Chip.afterWipe (c : Chip) (verified : Bool) : Chip :=
  let c := c.storeResume
  let c := match c.sec.scopePending with
    | some scope =>
      let c := { c with sec := { c.sec with scopePending := none } }
      if verified then c.setReg pgSec dbgStat (BitVec.ofNat 32 (1 + scope.toNat * 256)) else c
    | none => c
  match c.sec.transition with
  | some (life, owner) => c.enterLife life owner
  | none => c

/-- A wipe has read every word back (R345): it passes, repeats once, or closes the store. -/
def Chip.wipeDone (c : Chip) (clear : Bool) : Chip :=
  if !c.wiping then c
  else if clear then (c.setFlag pgSec wipeStat 0 false).afterWipe true
  else if c.sec.wipePass = 0 then { c with sec := { c.sec with wipePass := 1 } }
  else
    let c := ((c.setFlag pgSec wipeStat 0 false).setFlag pgSec wipeStat 1 true).raise (evP pgSec 0x0702 dieM 0)
    c.afterWipe false

/-! Tokens (R349) -/

def tkType (t : List Byte) : Nat := byteAt t 6
def tkScope (t : List Byte) : Nat := byteAt t 7
def tkOwner (t : List Byte) : BitVec 384 := bvBE 384 (slice t 48 48)
def tkKey (t : List Byte) : List Byte := slice t 96 96

def allZero (bs : List Byte) : Bool := bs.all (fun b => decide (b = 0))

/-- Check 0x1: MAGIC, TVER, the fields that must be 0, and SCOPE. -/
def tokenForm (t : List Byte) : Bool :=
  decide (natOfBE (t.take 4) = 0x4E4A544B) && decide (natOfBE (slice t 4 2) = 1) && allZero (slice t 40 8) &&
    (tkType t = 2 || allZero (slice t 48 48)) && decide (tkScope t < if tkType t = 1 then 8 else 1)

/-- Check 0x2: the types that a life-cycle state accepts (R348). -/
def typeOk (life type : Nat) : Bool :=
  match life with
  | 0 => type = 2 | 1 => type = 1 || type = 3 | 2 => type = 1 || type = 4 | _ => false

/-- The 16 bytes of a device identifier or challenge: byte 4w + j lies in bits [8j+7:8j] of word w. -/
def idBytes (x : BitVec 128) : List Byte := bytesLE 16 x.toNat

/-- RESULT of a token check, in the order of R349. -/
def Chip.tokenResult (c : Chip) (k : TokenCheck) : Nat :=
  let t := k.token
  let signer := if tkType t = 2 then Config.provisioningKeyHash else c.sec.ownerHash
  if !tokenForm t then 1
  else if !typeOk c.sec.life (tkType t) then 2
  else if slice t 8 16 ≠ idBytes c.sec.deviceId then 3
  else if k.chal.map idBytes ≠ some (slice t 24 16) then 4
  else if sha384 (tkKey t) ≠ signer then 5
  else if !signatureValid (tkKey t) (sha384 (t.take 192)) (slice t 192 96) then 6
  else if k.tampered then 7
  else if tkType t ≠ 1 ∧ (List.range 256).any c.livValid then 8
  else 0

/-- The token window as bytes. -/
def Chip.tokenWindow (c : Chip) : List Byte :=
  (List.range 72).flatMap (fun w => bytesLE 4 (c.reg pgSec (0x1100 + 4 * w)).toNat)

/-- The current challenge, read from SEC_CHAL0-3. -/
def Chip.chalWords (c : Chip) : BitVec 128 :=
  c.reg pgSec 0x103C ++ c.reg pgSec 0x1038 ++ c.reg pgSec 0x1034 ++ c.reg pgSec 0x1030

/-- OP = CHALLENGE: a fresh challenge, which replaces an earlier one. -/
def Chip.newChallenge (c : Chip) : Chip :=
  let n := c.takeFresh
  let x := Config.challenge n.1
  (forAll [0, 1, 2, 3] n.2 (fun w c => c.setReg pgSec (0x1030 + 4 * w) (BitVec.ofNat 32 (fld x (32 * w) 32)))).setFlag
    pgSec tokStat 1 true

/-- OP = SUBMIT: the token in the window is checked against the present challenge, which is used up. -/
def Chip.submit (c : Chip) : Chip :=
  if c.sec.checking.isSome then c
  else
    let chal := if c.flag pgSec tokStat 1 then some c.chalWords else none
    let k : TokenCheck := ⟨c.tokenWindow, chal, false⟩
    { (c.setFlag pgSec tokStat 1 false).setFlag pgSec tokStat 0 true with sec := { c.sec with checking := some k } }

/-- An accepted token acts: a debug token wipes and then opens its scope (R350), another starts a transition (R348). -/
def Chip.acceptToken (c : Chip) (t : List Byte) : Chip :=
  if tkType t = 1 then
    let c := (c.startWipe wcDebug).lockKeys
    { c with sec := { c.sec with scopePending := some (BitVec.ofNat 8 (tkScope t)) } }
  else
    let c := (c.startWipe wcLifeCycle).lockKeys
    { c with sec := { c.sec with transition := some (tkType t - 1, tkOwner t) } }

/-- A token check ends (R349). -/
def Chip.checkDone (c : Chip) : Chip :=
  match c.sec.checking with
  | none => c
  | some k =>
    let r := c.tokenResult k
    let c := (c.setFlag pgSec tokStat 0 false).setField pgSec tokStat 8 4 r
    let c := { c with sec := { c.sec with checking := none } }
    if r = 0 then c.acceptToken k.token else c

/-! Commands -/

/-- The meaning of SECURE_WIPE (R344). -/
def execSecureWipe (s : State) : Host.Outcome State Fault Refusal := s.run fun c =>
  if c.serves pgSec then c.startWipe wcHost else c
/-- The meaning of WIPE_DONE (R345). -/
def execWipeDone (clear : Bool) (s : State) : Host.Outcome State Fault Refusal := s.run fun c =>
  if c.standbyUp then c.wipeDone clear else c
/-- The meaning of TAMPER_DETECT (R347): the tamper logic runs from VIN_3V3. -/
def execTamperDetect (src : Fin 7) (s : State) : Host.Outcome State Fault Refusal := s.run fun c =>
  if c.boot.vin3v3 then c.tamper src.val else c
/-- The meaning of TAP_INSTRUCTION (R462). -/
def execTapInstruction (ir : TapInstr) (s : State) : Host.Outcome State Fault Refusal := s.run fun c =>
  if c.boot.vin3v3 then
    let c := { c with sec := { c.sec with tap := ir } }
    if ir = .other then c.tamper 6 else c
  else c
/-- The meaning of TOKEN_CHALLENGE (R349). -/
def execTokenChallenge (s : State) : Host.Outcome State Fault Refusal := s.run fun c =>
  if c.serves pgSec then c.newChallenge else c
/-- The meaning of TOKEN_SUBMIT (R349). -/
def execTokenSubmit (s : State) : Host.Outcome State Fault Refusal := s.run fun c =>
  if c.serves pgSec then c.submit else c
/-- The meaning of TOKEN_CHECK_DONE (R349). -/
def execTokenCheckDone (s : State) : Host.Outcome State Fault Refusal := s.run fun c =>
  if c.standbyUp then c.checkDone else c
/-- The meaning of TOKEN_LOCK (R350). -/
def execTokenLock (s : State) : Host.Outcome State Fault Refusal := s.run fun c =>
  if c.serves pgSec then c.closeDebug else c

end Sys2Proof.Machine
end

