-- ==== Sys2Proof/Machine/Clock.lean ====
section
/-! DEFINITION. Fabric time under control (R167, R278 to R282, R285, R441): slews, steps, the PPS pins and the PTP servo;
and the snapshot trigger and latch (R428, R429, R482, R483). -/

namespace Sys2Proof.Machine

/-! Fabric time (R281, R282) -/

/-- Fabric time moves on by one unit of the local reference (R10, R281), trimmed by TIM_FREQ and by a slew at 100 ppm of
the trimmed rate: the count advances by the whole units reached and wraps with its 64 bits. Nothing else happens at a
tick: what a time brings about is a command of its own. -/
def Chip.tick (c : Chip) : Chip :=
  if c.time.running then
    let rate : Int := 1099511627776 + signed 32 (c.reg pgTim 0x100C).toNat
    let d := min (rate / 10000) (c.time.slew.natAbs : Int)
    let slewed := if c.time.slew < 0 then -d else d
    let total := ((c.time.frac : Int) + rate + slewed).toNat
    let reached := c.time.now + total / 1099511627776
    { c with time := { c.time with
        now := reached % 2 ^ 64, wraps := c.time.wraps + reached / 2 ^ 64, frac := total % 1099511627776
        slew := c.time.slew - slewed } }
  else c

/-- A write to TIM_OFFSET: the written offset replaces the part of an earlier one that is not yet applied. -/
def Chip.offsetWrite (c : Chip) (v : W32) : Chip :=
  { c.setFlag pgTim 0x1000 3 true with time := { c.time with slew := signed 32 v.toNat * 1099511627776 } }

/-- The offset has been applied: SLEWING clears. -/
def Chip.slewEnd (c : Chip) : Chip := if c.time.slew = 0 then c.setFlag pgTim 0x1000 3 false else c

/-- Every gate is evaluated against the present time (R328). -/
def Chip.gatesFollow (c : Chip) : Chip :=
  forAll (List.range 1024) c (fun p c => if c.gateEn p then c.gateUpdate p else c)

/-- A coach whose Td is again to come after a step of time meets its deadline monitor there (R167, R184). -/
def Coach.ahead (x : Coach) (now : Nat) : Coach :=
  if (now : Int) < x.td then { x with evaluated := false } else x

/-- The coach slots of the part after a step of fabric time. -/
def Chip.monitorsFollow (c : Chip) : Chip :=
  forAll (c.coach.dies.map (·.1)) c (fun d c =>
    forAll ((c.cch d).slots.map (·.1)) c (fun i c => c.setSlot d i ((c.slot d i).ahead c.time.now)))

/-- STEP_GO: fabric time takes the value of TIM_STEP_HI:TIM_STEP_LO at once. -/
def Chip.stepGo (c : Chip) : Chip :=
  let v := (c.reg pgTim 0x1018).toNat * 4294967296 + (c.reg pgTim 0x1014).toNat
  (Chip.raise { c with time := { c.time with now := v, frac := 0 } } (evP pgTim 0x0507 (dieX 0) 0)).monitorsFollow.gatesFollow

/-- The low and the high half of a 64-bit time. -/
def timeLo (t : Nat) : W32 := BitVec.ofNat 32 t
def timeHi (t : Nat) : W32 := BitVec.ofNat 32 (t / 4294967296)

/-- A rising edge on the PPS input (R282). -/
def Chip.ppsIn (c : Chip) : Chip :=
  if c.flag pgTim 0x1000 0 then
    ((c.setReg pgTim 0x1024 (timeLo c.time.now)).setReg pgTim 0x1028 (timeHi c.time.now)).setFlag pgTim 0x1000 2 true
  else c

/-- Fabric-time units in a second. -/
def secUnits : Nat := 256000000000

/-- The time in units since TIM_EPOCH, which fabric time is modulo 2^64 (R278). -/
def Chip.sinceEpoch (c : Chip) : Nat := c.time.wraps * 2 ^ 64 + c.time.now

/-- Whether a whole second of P lies within 2 ns (R278, R282). -/
def Chip.onSecond (c : Chip) : Bool :=
  decide (c.sinceEpoch % secUnits ≤ nsUnits 2 ∨ secUnits - c.sinceEpoch % secUnits ≤ nsUnits 2)

/-- The PPS output rises at a whole second, and stays high for 1 ms. -/
def Chip.ppsOut (c : Chip) : Chip :=
  if c.flag pgTim 0x1000 1 && c.onSecond then { c with time := { c.time with ppsUp := some (c.time.now + usUnits 1000) } }
  else c

/-! The PTP servo (R441) -/

def syncStat : Nat := 0x102C

/-- LOCKED after an interval: set after 16 consecutive intervals within 50 ns, cleared beyond 500 ns. -/
def lockedNext (was : Bool) (good : Nat) (mag : Nat) : Bool := if 16 ≤ good then true else if 500 < mag then false else was

/-- The correction of an offset in ns (R441): a step only while no livery is enabled, else a slew. -/
def Chip.correct (c : Chip) (offset : Int) : Chip :=
  let n := c.takeFresh
  let c := n.2
  let units := offset * 256
  if !c.anyEnabled && Config.servoSteps n.1 then
    let v : Nat := toCode 64 ((c.time.now : Int) - units)
    ((c.setReg pgTim 0x1014 (timeLo v)).setReg pgTim 0x1018 (timeHi v)).stepGo
  else c.offsetWrite (BitVec.ofInt 32 (max (-2147483648) (min 2147483647 (-units))))

/-- A synchronisation interval ends with an offset in ns from the upstream clock, if one is selected. -/
def Chip.servo (c : Chip) (offset : Int) (upstream : Bool) : Chip :=
  let c := { c with out := { c.out with toM0 := [] } }
  if !upstream then
    { c.setFlag pgTim syncStat 1 false with time := { c.time with servoGood := 0 } }
  else
    let mag := offset.natAbs
    let good : Nat := if mag ≤ 50 then c.time.servoGood + 1 else 0
    let lock := lockedNext (c.flag pgTim syncStat 0) good mag
    let c := { c with time := { c.time with servoGood := good } }
    let c := c.setReg pgTim syncStat (BitVec.ofNat 32 (lock.toNat + 2 + min 0xFFFF mag * 65536))
    if offset = 0 then c else c.correct offset

/-! Snapshots (R428, R429, R482, R483) -/

/-- The step of SNP_SLOT's livery whose slot SNP_SLOT.SLOT starts now: SNP_SLOT_STEP, or any step with ANY_STEP = 1. -/
def Chip.slotMatches (c : Chip) : Bool :=
  let l := c.field pgSnp 0x1014 24 8
  let n := c.field pgSnp 0x1014 0 24
  let hit (s : W32) : Bool := match c.governs l s with
    | some (_, t, _) => decide (t + (n * slotUnits : Nat) = (c.slotStart : Int))
    | none => false
  c.ttEnabled l &&
    (if c.flag pgSnp 0x1000 4 then
      match c.governs l (c.currentStep l) with
      | some (_, _, cyc) => hit (c.currentStep l - BitVec.ofNat 32 (n / max 1 cyc))
      | none => false
    else hit (c.reg pgSnp 0x1018))

/-- Whether a page latches its shadows: it is readable and BLK_SNAP_CTRL.EN is 1. -/
def Chip.latches (c : Chip) (page : Nat) : Bool := (pageOf page).isSome && c.serves page && c.flag page 0x30 0

/-- The shadows of one page: the 960 registers from 0x1000 on, listed where they do not read 0. -/
def Chip.pageShadows (c : Chip) (page : Nat) : Tbl W32 :=
  (List.range 960).flatMap (fun w =>
    let v := c.view page (0x1000 + 4 * w)
    if v = 0 then [] else [(page * 1024 + w, v)])

/-- Every shadow after a latch: a page that does not latch keeps its own. -/
def Chip.allShadows (c : Chip) : Tbl W32 :=
  (List.range 1024).flatMap (fun p =>
    if c.latches p then c.pageShadows p else c.snap.shadows.filter (fun kv => decide (kv.1 / 1024 = p)))

/-- Page status after a latch. -/
def Chip.pageTaken (c : Chip) (before : Chip) (page : Nat) (seq : W32) : Chip :=
  let took := before.latches page
  let c := (c.setFlag page 0x30 1 took).setReg page 0x34 seq
  if took then c.setFlag page 0x14 2 true else c

/-- The used pages. -/
def blockPages : List Nat := (List.range 0x3FF).filter (fun p => (pageOf p).isSome)

/-- The level of the PPS_OUT pin: high for 1 ms from its rising edge (R282). -/
def Chip.ppsOutPin (c : Chip) : Bool := c.time.ppsUp.any (fun t => decide (c.time.now < t))

/-- The level of the SNAP_OUT pin: high for 100 ns from T_snap (R429). -/
def Chip.snapOutPin (c : Chip) : Bool := c.snap.outUp.any (fun t => decide (c.time.now < t))

/-- T_snap has come (R429). -/
def Chip.snapLatch (c : Chip) : Chip :=
  match c.snap.due with
  | none => c
  | some t =>
    if c.time.now < t then c
    else
      let seq := c.reg pgSnp 0x1008 + 1
      let x := (c.setFlag pgSnp 0x1000 0 false).setReg pgSnp 0x1008 seq
      let x := forAll blockPages x (fun p x => x.pageTaken c p seq)
      let x := { x with
        snap := { due := none, shadows := c.allShadows
                  outUp := if c.flag pgSnp 0x1000 5 then some (t + nsUnits 100) else c.snap.outUp }
        time := { x.time with snpTime := t } }
      x.raise (evP pgSnp 0x0A05 dieM 0)

/-! Commands -/

/-- The meaning of SNAPSHOT_ARM (R429). -/
def execSnapshotArm (s : State) : Host.Outcome State Fault Refusal := s.run fun c =>
  if c.serves pgSnp then c.setFlag pgSnp 0x1000 0 true else c
/-- The meaning of SNAPSHOT_TRIGGER (R428). -/
def execSnapshotTrigger (s : State) : Host.Outcome State Fault Refusal := s.run fun c =>
  if c.serves pgSnp then c.snapTrigger 0 c.snapDelay else c
/-- The meaning of SNAP_IN_EDGE (R428). -/
def execSnapInEdge (s : State) : Host.Outcome State Fault Refusal := s.run fun c =>
  if c.m0Up && c.flag pgSnp 0x1000 1 then c.snapTrigger 1 c.snapDelay else c
/-- The meaning of SNAPSHOT_SLOT_MATCH (R428): T_snap is the slot boundary itself. -/
def execSnapshotSlotMatch (s : State) : Host.Outcome State Fault Refusal := s.run fun c =>
  if c.m0Up && c.flag pgSnp 0x1000 2 && c.slotMatches then c.snapTrigger 2 c.slotStart else c
/-- The meaning of SNAPSHOT_LATCH (R429). -/
def execSnapshotLatch (s : State) : Host.Outcome State Fault Refusal := s.run fun c =>
  if c.m0Up then c.snapLatch else c
/-- The meaning of SNP_TIME_LO_READ (R430). -/
def execSnpTimeLoRead (s : State) : Host.Outcome State Fault Refusal := s.run fun c =>
  if c.serves pgSnp then (c.setReg pgSnp 0x1010 (timeHi c.time.snpTime)).answer (timeLo c.time.snpTime) else c.answer 0
/-- The meaning of TIM_NOW_LO_READ (R285). -/
def execTimNowLoRead (s : State) : Host.Outcome State Fault Refusal := s.run fun c =>
  if c.serves pgTim then (c.setReg pgTim 0x1008 (timeHi c.time.now)).answer (timeLo c.time.now) else c.answer 0
/-- The meaning of TIME_OFFSET_WRITE (R281). -/
def execTimeOffsetWrite (v : W32) (s : State) : Host.Outcome State Fault Refusal := s.run fun c =>
  if c.serves pgTim then c.offsetWrite v else c
/-- The meaning of TIME_SLEW_DONE (R281). -/
def execTimeSlewDone (s : State) : Host.Outcome State Fault Refusal := s.run fun c =>
  if c.serves pgTim then c.slewEnd else c
/-- The meaning of TIME_STEP_GO (R281). -/
def execTimeStepGo (s : State) : Host.Outcome State Fault Refusal := s.run fun c =>
  if c.serves pgTim then c.stepGo else c
/-- The meaning of PPS_IN_EDGE (R282). -/
def execPpsInEdge (s : State) : Host.Outcome State Fault Refusal := s.run fun c =>
  if c.serves pgTim then c.ppsIn else c
/-- The meaning of PPS_OUT_SECOND (R282). -/
def execPpsOutSecond (s : State) : Host.Outcome State Fault Refusal := s.run fun c =>
  if c.serves pgTim then c.ppsOut else c
/-- The meaning of PTP_SERVO_UPDATE (R441). -/
def execPtpServoUpdate (offset : Int) (upstream : Bool) (s : State) : Host.Outcome State Fault Refusal := s.run fun c =>
  if c.serves pgTim && c.m0Up && decide (c.fwState = stRunning) then c.servo offset upstream else c

end Sys2Proof.Machine
end

