-- ==== Sys2Proof/Machine/Crossbar.lean ====
section
/-! DEFINITION. The central scheduler (R286 to R289): one request, grant and accept match over the grant positions. -/

namespace Sys2Proof.Machine

/-- Whether a position requests and grants: its port has an enabled logical port (R286), its die has not failed (R416,
R417). The odd port of a joined pair works with the even one (R231). -/
def Chip.posWorks (c : Chip) (o : Nat) : Bool :=
  if o < 256 then
    !c.dieFailed (dieP (o / 32)) &&
      (if c.split o = 3 then c.enabled (o / 2 * 8) else (lanesOfPhys o).any c.enabled)
  else if o < 512 then !c.dieFailed (dieC ((o - 256) / 16)) else !c.dieFailed (dieB ((o - 512) / 16))

/-- The output positions of a destination attachment: both of a joined pair. -/
def Chip.outsOf (c : Chip) (dest : Nat) : List Nat :=
  (if dest < 256 then (if c.split dest = 3 then [dest, dest + 1] else [dest])
   else (List.range 16).map (fun j => 256 + 16 * (dest - 256) + j)).filter c.posWorks

/-- A request: input, level, output, and the queue it stands for. -/
structure XReq where
  i : Nat
  lv : Nat
  o : Nat
  key : Nat
  deriving DecidableEq, Repr

/-- The frames of a virtual output queue whose cells may be presented: those whose earlier crossing has ended. -/
def Chip.voqReady (c : Chip) (k : Nat) : List XItem := (c.voq k).filter (fun x => !c.crossing x.after)

/-- The level-2 frame that an input presents (R321): the one that has started, else by the TC configuration of the egress
port of the oldest, and the rotation of that service. -/
def Chip.levelTwo (c : Chip) (k : Nat) (xs : List XItem) : Option (XItem × Tbl Rot) :=
  match xs.find? (·.started), xs with
  | some x, _ => some (x, c.traf.xrot)
  | none, [] => none
  | none, y :: _ =>
    let key := k / 864 * 1024 + y.port
    let head (tc s : Nat) : Option XItem := xs.find? (fun x => decide (x.port = y.port ∧ x.tc = tc ∧ x.sub = s))
    let r := c.tcChoice y.port (fun tc s => (head tc s).map (fun x => 512 * x.cells)) (Tbl.get Rot.reset c.traf.xrot key)
    match r.1.bind (fun q => head q.1 q.2) with
    | some x => some (x, Tbl.set Rot.reset c.traf.xrot key r.2)
    | none => some (y, c.traf.xrot)

/-- The frame whose cell a virtual output queue presents next: at level 0 an abort wave first (R22), at level 1 the oldest,
at level 2 by R321. -/
def Chip.voqHead (c : Chip) (k : Nat) : Option (XItem × Tbl Rot) :=
  let xs := c.voqReady k
  match k % 3 with
  | 0 => ((xs.find? (·.wave)).orElse (fun _ => xs.head?)).map (fun x => (x, c.traf.xrot))
  | 1 => xs.head?.map (fun x => (x, c.traf.xrot))
  | _ => c.levelTwo k xs

/-- One cell moves from a virtual output queue (R288), a slice of it on each X die (R15); PFC follows the ingress buffer (R256). -/
def Chip.moveCell (c : Chip) (k : Nat) : Chip :=
  match c.voqHead k with
  | none => c
  | some (x, rot) =>
    let step (y : XItem) : Option XItem :=
      if y.num ≠ x.num then some y
      else if y.cells ≤ 1 then none else some { y with cells := y.cells - 1, started := true }
    let c := c.setVoq k ((c.voq k).filterMap step)
    let c := { c with traf := { c.traf with xrot := rot } }
    let c := forAll [0, 1, 2, 3] c (fun n c => c.active (dieX n) actCell 0 x.liv 1)
    match x.pfc with
    | some (p, i) => c.pfcCheck p i
    | none => c

/-- Every request of a cell time. -/
def Chip.xRequests (c : Chip) : List XReq :=
  c.traf.voq.flatMap (fun kv =>
    let i := kv.1 / 864
    if c.posWorks i && !(c.voqReady kv.1).isEmpty then (c.outsOf (kv.1 / 3 % 288)).map (fun o => ⟨i, kv.1 % 3, o, kv.1⟩) else [])

/-- The request whose position `f` comes first at or after a pointer, counting modulo 544. -/
def firstAt (f : XReq → Nat) (ptr : Nat) : List XReq → Option XReq
  | [] => none
  | r :: rs =>
    match firstAt f ptr rs with
    | none => some r
    | some b => if (f b + positions - ptr) % positions < (f r + positions - ptr) % positions then some b else some r

/-- The requests at the lowest level among some. -/
def lowestLevel (rs : List XReq) : List XReq :=
  let lv := rs.foldl (fun m r => min m r.lv) 2
  rs.filter (fun r => decide (r.lv = lv))

/-- The distinct members of a list, in the order of their last occurrence. -/
def distinct : List Nat → List Nat
  | [] => []
  | a :: t => if t.contains a then distinct t else a :: distinct t

def ptrKey (pos lv : Nat) : Nat := pos * 3 + lv

/-- One iteration of the match (R288): the grants of every free output, then the accepts of every granted input. -/
def xRound (gptr aptr : Tbl Nat) (rs : List XReq) : List XReq :=
  let grants := (distinct (rs.map (·.o))).filterMap (fun o =>
    let mine := lowestLevel (rs.filter (fun r => decide (r.o = o)))
    match mine with
    | [] => none
    | r :: _ => firstAt (·.i) (Tbl.get 0 gptr (ptrKey o r.lv)) mine)
  (distinct (grants.map (·.i))).filterMap (fun i =>
    let mine := lowestLevel (grants.filter (fun r => decide (r.i = i)))
    match mine with
    | [] => none
    | r :: _ => firstAt (·.o) (Tbl.get 0 aptr (ptrKey i r.lv)) mine)

/-- The requests left once some are matched. -/
def xFree (rs ms : List XReq) : List XReq :=
  rs.filter (fun r => !ms.any (fun m => decide (m.i = r.i) || decide (m.o = r.o)))

/-- RATE of the crossbar's meter: the cell times that may start in one slot (R384). -/
def Chip.xRate (c : Chip) : Nat := c.field pgPwr 0x1044 0 16 16

/-- Whether the crossbar's meter lets a cell time start now (R384): fewer than RATE have started in the present slot, and
2.56 ns have gone since the last start. -/
def Chip.xOpen (c : Chip) : Bool :=
  let begun := if c.traf.xslot = c.time.now / slotUnits then c.traf.xstarted else 0
  decide (begun < c.xRate) &&
    (match c.traf.xlast with | some t => decide (t + 656 ≤ c.time.now ∨ c.time.now < t) | none => true)

/-- A cell time starts: the meter counts it. -/
def Chip.xStart (c : Chip) : Chip :=
  let slot := c.time.now / slotUnits
  { c with traf := { c.traf with
    xlast := some c.time.now, xslot := slot
    xstarted := (if c.traf.xslot = slot then c.traf.xstarted else 0) + 1 } }

/-- One cell time (R288). -/
def Chip.cellTime (c : Chip) : Chip :=
  let rs := c.xRequests
  let t := c.traf
  let m1 := xRound t.gptr t.aptr rs
  let t := { t with
    gptr := m1.foldl (fun p (m : XReq) => Tbl.set 0 p (ptrKey m.o m.lv) ((m.i + 1) % positions)) t.gptr
    aptr := m1.foldl (fun p (m : XReq) => Tbl.set 0 p (ptrKey m.i m.lv) ((m.o + 1) % positions)) t.aptr }
  let m2 := xRound t.gptr t.aptr (xFree rs m1)
  let m3 := xRound t.gptr t.aptr (xFree rs (m1 ++ m2))
  let ms := m1 ++ m2 ++ m3
  let c := forAll ms { c with traf := t } (fun m c => (c.moveCell m.key).bump pgXbr (0x1000 + 4 * m.lv))
  if rs.any (fun r => !ms.any (fun m => decide (m.i = r.i))) then c.bump pgXbr 0x100C else c

/-- The meaning of CELL_TIME (R288): the crossbar's meter may hold it back (R384). -/
def execCellTime (s : State) : Host.Outcome State Fault Refusal := s.run fun c =>
  if c.mainUp && c.xOpen then c.xStart.cellTime else c

end Sys2Proof.Machine
end

