-- ==== Sys2Proof/Machine/Startup.lean ====
section
/-! DEFINITION. Start-up and reset (R402, R431 to R445, R452, R458): the phases of a cold start, warm resets, the reset
requests of PWR_RST_CTRL and of the pins, and resets of the host interface. -/

namespace Sys2Proof.Machine

def rstCtrlOff : Nat := 0x1070
def rstStat : Nat := 0x1074
def bootStat : Nat := 0x1078

def Chip.setPhase (c : Chip) (ph : Nat) : Chip := c.setField pgPwr bootStat 0 3 ph

/-! Cold start (R433, R436, R444) -/

/-- CAUSE of a cold start. -/
def coldCause : ColdSource → Nat
  | .vin3v3 => 0 | .pin => 1 | .register => 2

/-- The standby-domain registers, which a cold start keeps except when VIN_3V3 rises; SEC_TAMPER_EN stays as it was fixed
at the transition to DEPLOYED (R347). -/
def Chip.keepStandby (c n : Chip) (src : ColdSource) : Chip :=
  let n := if 2 ≤ c.sec.life then n.setReg pgSec 0x100C (c.reg pgSec 0x100C) else n
  if src = .vin3v3 then n
  else
    let n := (n.setReg pgSec tamperStat (c.reg pgSec tamperStat)).setReg pgSec 0x1008 (c.reg pgSec 0x1008)
    let n := n.setFlag pgThm 0x100C 1 (c.flag pgThm 0x100C 1)
    let n := n.setReg pgPwr rstStat (c.reg pgPwr rstStat)
    let n := (n.setField pgPwr rstStat 0 4 (coldCause src)).setFlag pgPwr rstStat 5 c.pwr.tripped
    n.setField pgPwr rstStat 8 16 (c.field pgPwr rstStat 8 16 + 1)

/-- A cold start (R436): every die leaves reset in the STANDBY phase. Flash and fuses stay, and the levels of the pins. -/
def Chip.coldRun (c : Chip) (src : ColdSource) : Chip :=
  let n : Chip := { Chip.reset with
    fw := { Chip.reset.fw with flash := c.fw.flash, fuseSvn := c.fw.fuseSvn, revoked := c.fw.revoked }
    sec := { Chip.reset.sec with
      life := c.sec.life, partGroup := c.sec.partGroup, ownerHash := c.sec.ownerHash, rootErased := c.sec.rootErased, deviceId := c.sec.deviceId
      tap := if src = .vin3v3 then .idcode else c.sec.tap }
    boot := { Chip.reset.boot with warmLow := c.boot.warmLow, perstLow := c.boot.perstLow, smbAddr := c.boot.smbAddr }
    out := c.out
    fresh := c.fresh }
  (c.keepStandby n src).tapWatch c.testAccess

/-- Whether the main rails must stay off after a trip (R402, R434). -/
def Chip.coldHeld (c : Chip) : Bool := c.pwr.tripped && !c.pwr.cooled

/-- A cold start is due, and runs when COLD_START or TRIP_COOLDOWN_END comes. -/
def Chip.askCold (c : Chip) (src : ColdSource) : Chip := { c with boot := { c.boot with coldDue := some src } }

/-- COLD_START: VIN_3V3 rises, or the cold start that a pin or register asked for runs. -/
def Chip.coldStart (c : Chip) (src : ColdSource) : Chip :=
  if src = .vin3v3 then c.coldRun .vin3v3
  else if c.boot.coldDue = some src && c.standbyUp && !c.coldHeld then c.coldRun src
  else c

/-- At least 1 s after a trip, with the M0 and V0 junctions at or below 60 °C, a waiting cold start proceeds. -/
def Chip.cooldownEnd (c : Chip) : Chip :=
  if c.pwr.tripped && decide (c.junction dieM ≤ 480 ∧ c.junction dieV ≤ 480) then
    let c := { c with pwr := { c.pwr with cooled := true } }
    match c.boot.coldDue with
    | some src => c.coldRun src
    | none => c
  else c

/-- VIN_3V3 has fallen in a power-down (R452): nothing runs until it rises again. -/
def Chip.powerDown (c : Chip) : Chip :=
  let n := c.coldRun .vin3v3
  { n with boot := { n.boot with vin3v3 := false } }

/-- Whether a start-up phase can go on: no supply loss, no trip, no cold start due. -/
def Chip.inPhase (c : Chip) (ph : Nat) : Bool :=
  c.standbyUp && decide (c.phase = ph) && !c.pwr.vinLost && !c.pwr.tripped && c.boot.coldDue.isNone

/-- Whether no wipe of the secure store runs. -/
def Chip.wipeIdle (c : Chip) : Bool := !c.flag pgSec wipeStat 0

/-- The rails are at their setpoints. -/
def Chip.railsSettled (c : Chip) (rs : List Nat) : Chip :=
  forAll rs c (fun r c => c.railSettle r)

/-- The rails start from 0 toward their setpoints (R392). -/
def Chip.railsStart (c : Chip) (rs : List Nat) : Chip :=
  forAll rs c (fun r c =>
    c.setRail r { c.rail r with on := true, start := 0, since := c.time.now })

/-- The three groups of main rails (R432). -/
def railGroupOf (g : Nat) : List Nat :=
  let run (a n : Nat) : List Nat := (List.range n).map (a + ·)
  match g with
  | 1 => run 8 8 ++ run 40 16 ++ run 60 4 ++ run 66 2
  | 2 => run 0 8 ++ run 24 16 ++ run 56 4 ++ run 64 2
  | 3 => run 16 8
  | _ => []

/-- STANDBY ends (R436): the wipe has ended and the calibration is selected. -/
def Chip.standbyEnd (c : Chip) : Chip :=
  if c.inPhase phStandby && c.wipeIdle then
    let c := (c.railsSettled [68, 69]).calSelect
    let c := (c.setPhase phRails).setFlag pgPwr bootStat 3 true
    { c with boot := { c.boot with standbyDone := true } }
  else c

/-- VIN_12 is present (R431): V0 ramps the first group of main rails if RAILS waits for it. -/
def Chip.vin12Up (c : Chip) : Chip :=
  if c.standbyUp && c.boot.standbyDone then
    let c := c.setFlag pgPwr 0x1004 0 true
    if c.inPhase phRails && decide (c.boot.railGroup = 0) then
      let c := (c.setFlag pgPwr bootStat 3 false).railsStart (railGroupOf 1)
      { c with boot := { c.boot with railGroup := 1 } }
    else c
  else c

/-- Every rail of a group is within 2 % of its setpoint (R432): the next group starts. -/
def Chip.groupRamped (c : Chip) : Chip :=
  let g := c.boot.railGroup
  if c.inPhase phRails && decide (1 ≤ g ∧ g ≤ 3) then
    let c := (c.railsSettled (railGroupOf g)).railsStart (railGroupOf (g + 1))
    { c with boot := { c.boot with railGroup := g + 1 } }
  else c

/-- The main rails are in regulation: TRAIN begins, and every synthesiser starts to settle (R237). -/
def Chip.railsDone (c : Chip) : Chip :=
  if c.inPhase phRails && decide (c.boot.railGroup = 4) then
    forAll (List.range 256) (c.setPhase phTrain) (fun pp c => c.synthSettle pp)
  else c

/-- Training is done: fabric time runs from 0, and MARCH begins. -/
def Chip.trainingEnd (c : Chip) : Chip :=
  if c.inPhase phTrain && !c.boot.warmActive then
    Chip.setPhase { c with time := { c.time with now := 0, frac := 0, running := true } } phMarch
  else c

/-- A die's links have not trained within 1 ms (R438). -/
def Chip.trainTimeout (c : Chip) (die : Nat) : Chip :=
  if c.inPhase phTrain && !c.boot.warmActive && decide (die < 30) && !c.dieFailed die then
    let c := if c.flag pgPwr bootStat 6 then c
      else (c.setFlag pgPwr bootStat 6 true).setField pgPwr bootStat 8 5 die
    let c := c.dieFail die
    if c.flt.fatal then c.setPhase phHalted else c
  else c

/-- The spares that the faults of a bank need in a subarray, of those left there (R220). -/
def Chip.softRepair (c : Chip) (d b sub : Nat) (reads : List MarchRead) : Option (Nat × Nat) :=
  let u := c.sparesUsed d b sub
  spareCover (faultyBits 2 sub reads) (8 - u.1) (2 - u.2)

/-- The march of a bank at cold start (R217, R220, R436), March C− and then March SS: soft repair maps its faults onto the
spares, or the bank is fenced. -/
def Chip.finding (c : Chip) (f : BankFinding) : Chip :=
  let d := f.die.val
  let b := f.bank.toNat
  if c.dieFailed d || !bankExists d b then c
  else if [0, 1, 2, 3].all (fun s => (c.softRepair d b s f.reads).isSome) then
    forAll [0, 1, 2, 3] c (fun s c =>
      match c.softRepair d b s f.reads with | some n => c.useSpares d b s n.1 n.2 | none => c)
  else (c.fenceBank d b ((marchFirst 2 false f.reads).elim 0 (·.word.toNat))).setFlag pgPwr bootStat 4 true

/-- MARCH ends: every finding of the main half is repaired or fenced, and LANE_TEST begins. -/
def Chip.marchPhaseEnd (c : Chip) (fs : List BankFinding) : Chip :=
  if c.inPhase phMarch then
    (forAll (fs.filter (fun f => decide (f.die.val < 30))) c (fun f c => c.finding f)).setPhase phLaneTest
  else c

/-- The lane test of a coach die (R436, R438): failing clusters are fenced, and passing spares take the place of failing
active ones, lowest first. -/
def Chip.testLanes (c : Chip) (d : Nat) (bad : List Nat) : Chip :=
  let fenced : BitVec 84 := bad.foldl (fun x k => putBit x k true) 0
  let good := [80, 81, 82, 83].filter (fun k => k ∉ bad)
  let need := (List.range 80).filter (fun k => k ∈ bad)
  let pairs := need.zip good
  let mapped : BitVec 84 := pairs.foldl (fun x p => putBit x p.2 true) 0
  let replaced : BitVec 84 := pairs.foldl (fun x p => putBit x p.1 true) 0
  let c := c.setLanes d ⟨fenced, mapped, mapped, replaced, none⟩
  match need.drop good.length with
  | k :: _ => (c.setFlag pgPwr bootStat 5 true).raise (evP pgFlt 0x0108 (dieC d) k)
  | [] => c

/-- A warm reset starts (R443); the main half stops. -/
def Chip.warmStart (c : Chip) (cause : Nat) : Chip :=
  if c.mainOn then
    let c := (c.setField pgPwr rstStat 0 4 cause).setFlag pgPwr rstCtrlOff 3 false
    { c with boot := { c.boot with warmActive := true, warmCleared := false } }
  else c

/-- LANE_TEST ends, and the device is READY; with WARM_RST_N low the main half stays in warm reset (R458). -/
def Chip.laneTestEnd (c : Chip) (fs : List ClusterFinding) : Chip :=
  if c.inPhase phLaneTest then
    let c := forAll ((List.range 16).filter c.cdieUp) c (fun d c =>
      c.testLanes d ((fs.filter (fun f => decide (f.die.val = d))).map (fun f => f.cluster.val)))
    let c := c.setPhase phReady
    if c.boot.warmLow then c.warmStart 3 else c
  else c

/-- The march of the management SRAM ends (R217, R220, R436): its findings are repaired or fenced, and the boot ROM starts
once no bank stays faulty. -/
def Chip.m0March (c : Chip) (fs : List BankFinding) : Chip :=
  if c.standbyUp && !c.boot.m0Marched && c.wipeIdle then
    let c := forAll (fs.filter (fun f => decide (f.die.val = dieM))) c (fun f c => c.finding f)
    if (List.range 8).any (c.fenced dieM) then c
    else { c with boot := { c.boot with m0Marched := true }, fw := { c.fw with bootWaiting := true } }
  else c

/-! Warm reset (R443, R444) -/

/-- Registers of the main half that a warm reset keeps: fences, TIM_FREQ, TIM_EPOCH and TIM_SYNC_STAT. -/
def warmKeeps (page off : Nat) : Bool :=
  match pageOf page with
  | some (.mem, _) => decide (0x1030 ≤ off ∧ off < 0x1050)
  | some (.tim, _) => decide (off = 0x100C ∨ off = 0x101C ∨ off = 0x1020 ∨ off = 0x102C)
  | _ => false

/-- Whether a page lies on the main half. -/
def mainPage (page : Nat) : Bool := match pageOf page with | some (_, die) => decide (die < 30) | none => false

/-- Whether the register of a key outlives a warm reset. -/
def regOutlivesWarm (k : Nat) : Bool :=
  let page := k % 0x4000000 / 0x10000
  !mainPage page || warmKeeps page (k % 0x10000)

/-- SDS_LANE_STAT shows again how the synthesisers stand, which a warm reset keeps. -/
def Chip.showSynths (c : Chip) : Chip :=
  forAll (List.range 256) c (fun pp c =>
    let x := c.synth pp
    forAll (lanesOfPhys pp) c (fun l c =>
      (c.setLaneFlag l stLock (x = .calibrating || x = .ready)).setLaneFlag l stCal (x = .ready)))

/-- Steps 2 and 3 of R443: what the main half holds is gone, and its registers and tables take their reset values. -/
def Chip.clearMain (c : Chip) : Chip :=
  let z := Chip.reset
  { c with
    regs := c.regs.filter (fun kv => regOutlivesWarm kv.1)
    snap := { c.snap with shadows := c.snap.shadows.filter (fun kv => !mainPage (kv.1 / 1024)) }
    coach := { z.coach with hints := c.coach.hints }
    tt := z.tt
    rte := z.rte
    puts := z.puts
    traf := z.traf
    pool := z.pool
    bank := { z.bank with
      spares := c.bank.spares, march := c.bank.march.filter (fun kv => decide (30 ≤ kv.1)) }
    port := { z.port with synth := c.port.synth }
    flt := { c.flt with waves := [], digBatch := [], digs := [] }
    act := { c.act with due := [], work := [], rest := [] }
    sec := { c.sec with seeds := [], seedStage := 0, energy := [] } }

/-- WARM_RESET: every logical port is disabled under R234, and the main half is cleared. -/
def Chip.warmClear (c : Chip) : Chip :=
  if c.boot.warmActive && !c.boot.warmCleared && c.standbyUp && c.boot.coldDue.isNone then
    let c := forAll (List.range 1024) c (fun p c => if c.enabled p then c.disablePort p else c)
    let c := c.clearMain.showSynths.clearProfile.setPhase phTrain
    { c with boot := { c.boot with warmCleared := true } }
  else c

/-- Retraining is done: PHASE passes from TRAIN to READY, unless WARM_RST_N is still low (R458). -/
def Chip.warmEnd (c : Chip) : Chip :=
  if c.boot.warmActive && c.boot.warmCleared && !c.boot.warmLow && c.standbyUp && c.boot.coldDue.isNone then
    let c := c.setPhase phReady
    { c with boot := { c.boot with warmActive := false, warmCleared := false } }
  else c

/-! Requests (R435, R458) -/

/-- A write of PWR_RST_CTRL (R435, R473): it acts only with the key. WARM or COLD is refused while a livery is valid,
unless FORCE is 1 in the same write; MGMT is never refused; COLD set beside WARM starts the cold start alone. -/
def Chip.rstCtrl (c : Chip) (v : W32) : Chip :=
  if fld v 16 16 ≠ 0xC0A7 then c
  else
    let warm := v.getLsbD 0
    let cold := v.getLsbD 1
    let mgmt (c : Chip) : Chip := if v.getLsbD 2 then c.mgmtReset 6 else c
    if (warm || cold) && !v.getLsbD 3 && (List.range 256).any c.livValid then mgmt (c.setFlag pgPwr rstStat 4 true)
    else
      let c := c.setFlag pgPwr rstCtrlOff 3 (v.getLsbD 3)
      if cold then (c.setFlag pgPwr rstCtrlOff 3 false).askCold .register
      else mgmt (if warm then c.warmStart 4 else c)

/-- PWRON_RST_N (R458): while it is low every die but the tamper logic is held in reset and the main rails are off; its
rising edge asks for the cold start. The reset of M0 closes debug (R350). -/
def Chip.pwronPin (c : Chip) (level : Bool) : Chip :=
  if !level then
    let c := (forAll (List.range 68) c (fun r c => c.removeRail r)).closeDebug
    { c with boot := { c.boot with pwronLow := true } }
  else if c.boot.pwronLow then
    Chip.askCold { c with boot := { c.boot with pwronLow := false } } .pin
  else c

/-- WARM_RST_N (R458). -/
def Chip.warmPin (c : Chip) (level : Bool) : Chip :=
  let c := { c with boot := { c.boot with warmLow := !level } }
  if level then c else c.warmStart 3

/-- A reset of the host interface (R433, R444): the MSI-X table returns to its reset state. -/
def Chip.hostReset (c : Chip) : Chip := { c with ev := { c.ev with msixMem := [], msixPend := 0 } }

/-! Commands -/

/-- The meaning of COLD_START (R433, R436). -/
def execColdStart (src : ColdSource) (s : State) : Host.Outcome State Fault Refusal := s.run fun c => c.coldStart src
/-- The meaning of PWRON_RST_N (R458). -/
def execPwronRstN (level : Bool) (s : State) : Host.Outcome State Fault Refusal := s.run fun c =>
  if c.boot.vin3v3 then c.pwronPin level else c
/-- The meaning of WARM_RST_N (R458). -/
def execWarmRstN (level : Bool) (s : State) : Host.Outcome State Fault Refusal := s.run fun c => c.warmPin level
/-- The meaning of PWR_RST_COLD (R435): a write with COLD = 1. -/
def execPwrRstCold (v : W32) (s : State) : Host.Outcome State Fault Refusal := s.run fun c =>
  if c.serves pgPwr then c.rstCtrl (v ||| 2) else c
/-- The meaning of PWR_RST_WARM (R435): a write with WARM = 1. -/
def execPwrRstWarm (v : W32) (s : State) : Host.Outcome State Fault Refusal := s.run fun c =>
  if c.serves pgPwr then c.rstCtrl (v ||| 1) else c
/-- The meaning of PWR_RST_MGMT (R435): a write with MGMT = 1. -/
def execPwrRstMgmt (v : W32) (s : State) : Host.Outcome State Fault Refusal := s.run fun c =>
  if c.serves pgPwr then c.rstCtrl (v ||| 4) else c
/-- The meaning of WARM_RESET (R443). -/
def execWarmReset (s : State) : Host.Outcome State Fault Refusal := s.run fun c => c.warmClear
/-- The meaning of WARM_RESET_DONE (R443). -/
def execWarmResetDone (s : State) : Host.Outcome State Fault Refusal := s.run fun c => c.warmEnd
/-- The meaning of PERST_N (R458). -/
def execPerstN (level : Bool) (s : State) : Host.Outcome State Fault Refusal := s.run fun c =>
  let c := { c with boot := { c.boot with perstLow := !level } }
  if level then c else c.hostReset
/-- The meaning of HOT_RESET (R433). -/
def execHotReset (s : State) : Host.Outcome State Fault Refusal := s.run fun c => c.hostReset
/-- The meaning of FUNCTION_LEVEL_RESET (R433, R444): it reaches the mailbox indices as well. -/
def execFunctionLevelReset (s : State) : Host.Outcome State Fault Refusal := s.run fun c => c.hostReset.clearIndices
/-- The meaning of STANDBY_COMPLETE (R436). -/
def execStandbyComplete (s : State) : Host.Outcome State Fault Refusal := s.run fun c => c.standbyEnd
/-- The meaning of M0_MARCH_DONE (R436). -/
def execM0MarchDone (findings : List BankFinding) (s : State) : Host.Outcome State Fault Refusal :=
  s.run fun c => c.m0March findings
/-- The meaning of VIN12_PRESENT (R431). -/
def execVin12Present (s : State) : Host.Outcome State Fault Refusal := s.run fun c => c.vin12Up
/-- The meaning of RAIL_GROUP_RAMPED (R432). -/
def execRailGroupRamped (s : State) : Host.Outcome State Fault Refusal := s.run fun c => c.groupRamped
/-- The meaning of RAILS_COMPLETE (R436). -/
def execRailsComplete (s : State) : Host.Outcome State Fault Refusal := s.run fun c => c.railsDone
/-- The meaning of TRAIN_COMPLETE (R436). -/
def execTrainComplete (s : State) : Host.Outcome State Fault Refusal := s.run fun c => c.trainingEnd
/-- The meaning of D2D_TRAIN_TIMEOUT (R438). -/
def execD2dTrainTimeout (die : Die) (s : State) : Host.Outcome State Fault Refusal := s.run fun c =>
  c.trainTimeout die.val
/-- The meaning of MARCH_PHASE_COMPLETE (R436). -/
def execMarchPhaseComplete (findings : List BankFinding) (s : State) : Host.Outcome State Fault Refusal :=
  s.run fun c => c.marchPhaseEnd findings
/-- The meaning of LANE_TEST_COMPLETE (R436). -/
def execLaneTestComplete (findings : List ClusterFinding) (s : State) : Host.Outcome State Fault Refusal :=
  s.run fun c => c.laneTestEnd findings
/-- The meaning of VIN3V3_POWER_DOWN (R452). -/
def execVin3v3PowerDown (s : State) : Host.Outcome State Fault Refusal := s.run fun c =>
  if c.boot.vin3v3 then c.powerDown else c
/-- The meaning of TRIP_COOLDOWN_END (R402, R434). -/
def execTripCooldownEnd (s : State) : Host.Outcome State Fault Refusal := s.run fun c =>
  if c.standbyUp then c.cooldownEnd else c

end Sys2Proof.Machine
end

