-- ==== Sys2Proof/Machine/Smbus.lean ====
section
/-! DEFINITION. The board controller's SMBus (R463, R464): the commands that V0 serves, from the point at which it runs. -/

namespace Sys2Proof.Machine

/-- What the target puts on the bus: whether it acknowledged, and the bytes of its answer. -/
def Chip.smbOut (c : Chip) (acked : Bool) (bs : List Byte) : Chip := { c with out := { c.out with smb := bs, acked := acked } }

/-- A word is sent low byte first. -/
def Chip.smbWord (c : Chip) (v : Nat) : Chip := c.smbOut true (bytesLE 2 v)

/-- A transaction that the target answers once V0 runs. -/
def Chip.smbServe (c : Chip) (f : Chip → Chip) : Chip := if c.v0Up then f c else c.smbOut false []

/-- The powered dies (R463). -/
def Chip.poweredDies (c : Chip) : List Nat := (List.range 32).filter c.powered

/-- The highest junction temperature of the powered dies. -/
def Chip.maxJunction (c : Chip) : Int := maxTemp (c.poweredDies.map c.junction)

/-- The lowest-numbered die of that temperature. -/
def Chip.maxDie (c : Chip) : Nat := (c.poweredDies.find? (fun d => decide (c.junction d = c.maxJunction))).getD dieV

/-- JUNCTION(n): 0x8000 when the die is unpowered or has no valid sensor. -/
def Chip.junctionWord (c : Chip) (d : Nat) : Nat :=
  if c.powered d && decide (c.field pgThm 0x1008 16 4 d ≠ 0) then toCode 16 (c.junction d) else 0x8000

/-- The target's 7-bit address. -/
def Chip.smbAddress (c : Chip) : Nat := 0x48 + c.boot.smbAddr.toNat

/-- The command codes of R463. -/
def smbListed (code : Nat) : Bool :=
  decide (code ≤ 0x04) || decide (0x08 ≤ code ∧ code ≤ 0x0A) || decide (0x10 ≤ code ∧ code ≤ 0x2F)

/-- The meaning of SMB_STATUS (R463). -/
def execSmbStatus (s : State) : Host.Outcome State Fault Refusal := s.run fun c =>
  c.smbServe fun c => c.smbWord c.smbStatusWord.toNat
/-- The meaning of SMB_ALERT_SRC_READ (R464). -/
def execSmbAlertSrcRead (s : State) : Host.Outcome State Fault Refusal := s.run fun c =>
  c.smbServe fun c => c.smbWord c.boot.alertSrc.toNat
/-- The meaning of SMB_ALERT_SRC_CLEAR (R464): a write with a wrong packet error code is discarded. -/
def execSmbAlertSrcClear (v : BitVec 16) (pecOk : Bool) (s : State) : Host.Outcome State Fault Refusal := s.run fun c =>
  c.smbServe fun c =>
    if pecOk then { c.smbOut true [] with boot := { c.boot with alertSrc := c.boot.alertSrc &&& ~~~v } } else c.smbOut true []
/-- The meaning of SMB_PKG_POWER (R463). -/
def execSmbPkgPower (s : State) : Host.Outcome State Fault Refusal := s.run fun c =>
  c.smbServe fun c => c.smbWord (c.field pgPwr 0x1010 0 13)
/-- The meaning of SMB_MAX_JUNCTION (R463). -/
def execSmbMaxJunction (s : State) : Host.Outcome State Fault Refusal := s.run fun c =>
  c.smbServe fun c => c.smbWord (toCode 16 c.maxJunction)
/-- The meaning of SMB_MAX_DIE (R463). -/
def execSmbMaxDie (s : State) : Host.Outcome State Fault Refusal := s.run fun c =>
  c.smbServe fun c => c.smbOut true [BitVec.ofNat 8 c.maxDie]
/-- The meaning of SMB_VIN12_MV (R463): what V0 measures at the balls. -/
def execSmbVin12Mv (mv : BitVec 16) (s : State) : Host.Outcome State Fault Refusal := s.run fun c =>
  c.smbServe fun c => c.smbWord mv.toNat
/-- The meaning of SMB_VIN12_CURRENT (R463). -/
def execSmbVin12Current (sixteenthAmp : BitVec 16) (s : State) : Host.Outcome State Fault Refusal := s.run fun c =>
  c.smbServe fun c => c.smbWord sixteenthAmp.toNat
/-- The meaning of SMB_VIN3V3_MV (R463). -/
def execSmbVin3v3Mv (mv : BitVec 16) (s : State) : Host.Outcome State Fault Refusal := s.run fun c =>
  c.smbServe fun c => c.smbWord mv.toNat
/-- The meaning of SMB_JUNCTION (R463). -/
def execSmbJunction (die : Die) (s : State) : Host.Outcome State Fault Refusal := s.run fun c =>
  c.smbServe fun c => c.smbWord (c.junctionWord die.val)
/-- The meaning of SMB_ALERT_RESPONSE (R464): the alert response does not clear ALERT_SRC. -/
def execSmbAlertResponse (s : State) : Host.Outcome State Fault Refusal := s.run fun c =>
  c.smbServe fun c => c.smbOut true [BitVec.ofNat 8 c.smbAddress]
/-- The meaning of SMB_UNLISTED_COMMAND (R463): not acknowledged. -/
def execSmbUnlistedCommand (code : BitVec 8) (s : State) : Host.Outcome State Fault Refusal := s.run fun c =>
  if smbListed code.toNat then c else c.smbOut false []

end Sys2Proof.Machine
end

