-- ==== Sys2Proof/Machine/RegWrite.lean ====
section
/-! DEFINITION. Register writes through BAR0 (R470 to R478): the checks of an access, the access types of fields, and the
registers whose writes act. A register that has a command of its own acts here as that command does. -/

namespace Sys2Proof.Machine

/-! The MSI-X table (R376, R471) -/

/-- The word of an entry of the table: word 3 of a vector is its vector control. -/
def msixReset (w : Nat) : W32 := if w % 4 = 3 then 1 else 0

/-- A write to the MSI-X table: unmasking a vector sends its pending message. -/
def Chip.msixWrite (c : Chip) (w : Nat) (v : W32) : Chip :=
  let n := if w % 4 = 3 then v &&& 1 else v
  let c := { c with ev := { c.ev with msixMem := Tbl.set (msixReset w) c.ev.msixMem w n } }
  if w % 4 = 3 ∧ n = 0 ∧ c.ev.msixPend.getLsbD (w / 4) then
    Chip.msix { c with ev := { c.ev with msixPend := putBit c.ev.msixPend (w / 4) false } } (w / 4)
  else c

/-! Access checks (R472, R474) -/

/-- An access counted in BLK_ERR_CNT0. -/
def Chip.accErr (c : Chip) (page : Nat) : Chip := (c.bump page 0x20).setFlag page 0x14 1 true

/-- A full aligned dword. -/
def goodAccess (o : Nat) (be : BitVec 4) : Bool := decide (be = 0xF) && decide (o % 4 = 0)

/-- The value of a register after a write by the access types of its bits (R473). -/
def RegRow.store (r : RegRow) (old v : W32) : W32 :=
  let rw : W32 := BitVec.ofNat 32 r.rw
  let w1c : W32 := BitVec.ofNat 32 r.w1c
  (old &&& ~~~(rw ||| w1c)) ||| (v &&& rw) ||| (old &&& w1c &&& ~~~v)

/-! Registers whose writes act -/

/-- LPI_EN bits that fall wake their ports (R250). -/
def Chip.lpiCtlWrite (c : Chip) (pp : Nat) (v : W32) : Chip :=
  let pg := pgPrt (pp / 32)
  let off := 0x1100 + 4 * (pp % 32)
  let was := c.reg pg off
  let c := c.setReg pg off (v &&& 0xFF0F)
  forAll [0, 1, 2, 3] c (fun j c => if was.getLsbD j && !v.getLsbD j then c.lpiWake (pp * 4 + j) else c)

/-- A write to the selected gate list, refused while it is operative (R328). -/
def Chip.gclWrite (c : Chip) (d off inst : Nat) (r : RegRow) (v : W32) : Chip :=
  let pg := pgTmg d
  let p := d * 128 + c.field pg 0x1000 0 7
  if c.flag pg 0x1040 8 = (c.gate p).oper then c.bump pg 0x120C else c.setReg pg off (r.store (c.reg pg off inst) v) inst

/-- Block-specific writes of the port dies. -/
def Chip.portPageWrite (c : Chip) (b : Blk) (d off inst : Nat) (r : RegRow) (v : W32) : Option Chip :=
  match b with
  | .prt =>
    if off < 0x1080 then some (c.cfgWrite (d * 32 + (off - 0x1000) / 4) v)
    else if 0x1100 ≤ off ∧ off < 0x1180 then some (c.lpiCtlWrite (d * 32 + (off - 0x1100) / 4) v) else none
  | .sds =>
    let l := c.selLane d
    if off = 0x1004 then some (c.laneCtrlWrite l v) else if off = 0x100C then some (c.txEqWrite l v)
    else if off = 0x1010 then some (c.rxEqWrite l v) else if off = 0x1014 then some (c.patWrite l v) else none
  | .lnk =>
    if off = 0x1004 then some (c.lnkCtrlWrite d v)
    else if 0x1040 ≤ off then some (c.vlWrite d ((off - 0x1040) / 4) v) else none
  | .tmg =>
    let p := d * 128 + c.field (pgTmg d) 0x1000 0 7
    if off = 0x1004 then some ((c.setReg (pgTmg d) off (v &&& 0xF3F) inst).gateUpdate p)
    else if off = 0x101C then some (if v.getLsbD 0 then c.shaperApply d else c)
    else if 0x1044 ≤ off ∧ off ≤ 0x1054 then some (c.gclWrite d off inst r v)
    else if off = 0x1058 then some (if v.getLsbD 0 then c.gateSwitch d else c)
    else if off = 0x10C4 then some (c.wmClear d v false)
    else if off = 0x1100 then
      some (match fld v 0 2 with | 1 => c.flowRead d | 2 => c.flowWrite d | 3 => c.flowDelete d | _ => c)
    else none
  | _ => none

/-- Block-specific writes of the RTE page. -/
def Chip.rtePageWrite (c : Chip) (off : Nat) (v : W32) : Option Chip :=
  let op := fld v 0 2
  if off = 0x1004 then some (match op with | 1 => c.rtRead | 2 => c.rtWrite | _ => c)
  else if off = 0x1020 then some (match fld v 24 2 with | 1 => c.routeSwap v | 2 => c.swapCancel | _ => c)
  else if off = 0x1304 then some (c.gridWrite v)
  else if off = 0x1314 then some (match op with | 1 => c.grpRead | 2 => c.grpWrite | _ => c)
  else if off = 0x1520 then some (match op with | 1 => c.addrRead | 2 => c.addrWrite | 3 => c.addrDelete | _ => c)
  else if off = 0x1608 then some (match op with | 1 => c.tearStart c.selTd false | 2 => c.tearRelease c.selTd | _ => c)
  else none

/-- Block-specific writes of the TTB page: the anchor and the grid position are ignored as R172 and R177 say. -/
def Chip.ttbPageWrite (c : Chip) (off inst : Nat) (v : W32) : Option Chip :=
  let op := fld v 0 2
  if off = 0x1004 then some (match op with | 1 => c.entRead | 2 => c.entWrite | 3 => c.entInvalidate | _ => c)
  else if off = 0x1084 then some (match op with | 1 => c.csetRead | 2 => c.csetWrite | _ => c)
  else if off = 0x1204 then some (c.ttCtrlWrite v)
  else if 0x1210 ≤ off ∧ off ≤ 0x1218 then if c.ttEnabled inst then some c else none
  else if off = 0x121C then some (c.swapRequest v)
  else if off = 0x1220 then some (c.recWrite (.cycle false) v)
  else if off = 0x1224 then some (c.recWrite (.cycle true) v)
  else if off = 0x1228 then some (c.recWrite (.range false) v)
  else if off = 0x122C then some (c.recWrite (.range true) v)
  else if off = 0x1300 then if c.anyEnabled then some c else none
  else none

/-- Block-specific writes of the POL and MEM pages. -/
def Chip.polPageWrite (c : Chip) (die off : Nat) (v : W32) : Option Chip :=
  if off = 0x1010 then some (c.thrWrite die false v)
  else if off = 0x1014 then some (c.thrWrite die true v)
  else if off = 0x1018 then some (c.quotaWrite die v)
  else if off = 0x1028 ∧ 28 ≤ die then some (c.quarWrite (die - 28) v)
  else none

/-- The bits of MEM_RET_REQ word `w` for banks that exist; only banks 0 to 127 support retention (R221). -/
def retMask (die w : Nat) : W32 :=
  BitVec.ofNat 32 ((List.range 32).foldl (fun n j => n + bit01 (bankExists die (32 * w + j)) j) 0)

def Chip.memPageWrite (c : Chip) (die off : Nat) (v : W32) : Option Chip :=
  if off = 0x1000 then some (c.marchWrite die v)
  else if 0x1010 ≤ off ∧ off ≤ 0x101C then some (c.setReg (pgMem die) off (v &&& retMask die ((off - 0x1010) / 4)))
  else none

/-- Block-specific writes of the LIV page. -/
def Chip.livPageWrite (c : Chip) (off : Nat) (v : W32) : Option Chip :=
  if off = 0x1004 then some (c.livWrite v)
  else if off = 0x1010 then
    some { c with sec := { c.sec with seedStage := putFld c.sec.seedStage 0 32 v.toNat } }
  else if off = 0x1014 then
    some { c with sec := { c.sec with seedStage := putFld c.sec.seedStage 32 32 v.toNat } }
  else if off = 0x1018 then some (if v.getLsbD 31 then c.seedSet (fld v 0 4) else c)
  else none

/-- Block-specific writes of the TIM page. -/
def Chip.timPageWrite (c : Chip) (off : Nat) (v : W32) : Option Chip :=
  if off = 0x1000 then
    let c := c.setReg pgTim 0x1000 ((⟨0x1000, 0x1000, 3, 4, 0, 0, .one⟩ : RegRow).store (c.reg pgTim 0x1000) v)
    some (if v.getLsbD 31 then c.stepGo else c)
  else if off = 0x1010 then some (c.offsetWrite v)
  else if off = 0x101C ∨ off = 0x1020 then if c.anyEnabled then some c else none
  else none

/-- Block-specific writes of the SEC page. -/
def Chip.secPageWrite (c : Chip) (off : Nat) (v : W32) : Option Chip :=
  if off = 0x1004 then some (c.tamperClear v)
  else if off = 0x100C then if c.sec.life ≤ 1 then none else some c
  else if off = 0x1014 then some (if v.getLsbD 0 then c.startWipe wcHost else c)
  else if off = 0x1020 then
    some (match fld v 0 2 with | 1 => c.newChallenge | 2 => c.submit | 3 => c.closeDebug | _ => c)
  else none

/-- Block-specific writes of the PWR page. -/
def Chip.pwrPageWrite (c : Chip) (off : Nat) (v : W32) : Option Chip :=
  if off = 0x1014 then some (c.budgetCtrl v)
  else if off = 0x1024 then some (c.vsetWrite v)
  else if off = 0x1060 then some (if v.getLsbD 0 && decide (c.fwState = stRunning) then c.calStart else c)
  else if off = 0x1070 then some (c.rstCtrl v)
  else none

/-- A write of FLT_LANE_CMD (R415). -/
def Chip.laneCmd (c : Chip) (v : W32) : Chip :=
  let d := fld v 0 4
  let k := fld v 4 7
  if 84 ≤ k ∨ !c.cdieUp d then c
  else match fld v 12 2 with
    | 1 => c.laneFence d k
    | 2 => c.startRepair d k
    | _ => c

/-- A write of SNP_CTRL: ARM takes effect before TRIGGER (R473). -/
def Chip.snpCtrl (c : Chip) (v : W32) : Chip :=
  let c := c.setReg pgSnp 0x1000 ((c.reg pgSnp 0x1000 &&& 1) ||| (v &&& 0x3F))
  if v.getLsbD 31 then c.snapTrigger 0 c.snapDelay else c

/-- The registers of a block whose writes act; none where a write only stores, sets or clears fields. -/
def Chip.actingWrite (c : Chip) (b : Blk) (page die off inst : Nat) (r : RegRow) (v : W32) : Option Chip :=
  match b with
  | .prt | .sds | .lnk | .tmg => c.portPageWrite b die off inst r v
  | .rte => c.rtePageWrite off v
  | .ttb => c.ttbPageWrite off inst v
  | .pol => c.polPageWrite die off v
  | .mem => c.memPageWrite die off v
  | .liv => c.livPageWrite off v
  | .tim => c.timPageWrite off v
  | .sec => c.secPageWrite off v
  | .pwr => c.pwrPageWrite off v
  | .cch => if off = 0x1000 then some (c.slotSelect (die - 8) v) else none
  | .flt => if off = 0x1014 then some (c.laneCmd v) else none
  | .snp => if off = 0x1000 then some (c.snpCtrl v) else none
  | .mbx =>
    if off = 0x100C then some (c.doorbell (page - 0x00C) v)
    else if off = 0x1018 then some (c.rspCiWrite (page - 0x00C) v) else none
  | .xbr | .acc | .thm => none

/-- A write of a register with writable fields: the instance that the selectors pick takes it, or nothing does. -/
def Chip.rowWrite (c : Chip) (b : Blk) (page die off : Nat) (r : RegRow) (v : W32) : Chip :=
  match c.selInst page die r.sel with
  | none => c
  | some i =>
    match (if off < 0x100 then none else c.actingWrite b page die off i r v) with
    | some n => n
    | none => c.setReg page off (r.store (c.reg page off i) v) i

/-- A register write (R470 to R476). -/
def Chip.regWrite (c : Chip) (a : Nat) (be : BitVec 4) (v : W32) : Chip :=
  let page := a / 65536
  let off := a % 65536
  if page = pgMsix then
    if c.m0Up && goodAccess off be && decide (off < 0x60) then c.msixWrite (off / 4) v else c
  else match pageOf page with
    | none => c
    | some (b, die) =>
      if !c.serves page then c
      else if !goodAccess off be then c.accErr page
      else if rsvOffset off then c
      else match rowOf b off with
        | none => c.accErr page
        | some r => if r.rw = 0 ∧ r.w1c = 0 ∧ r.act = 0 then c.accErr page else c.rowWrite b page die off r v

/-- A read that is not an aligned dword (R472): it returns 0, and a page that serves its registers counts it. -/
def Chip.badRead (c : Chip) (a : Nat) (be : BitVec 4) : Chip :=
  let page := a / 65536
  if goodAccess (a % 65536) be then c
  else if (pageOf page).isSome && c.serves page then (c.accErr page).answer 0 else c.answer 0

/-- The meaning of REGISTER_WRITE (R473). -/
def execRegisterWrite (off : BitVec 26) (be : BitVec 4) (v : W32) (s : State) : Host.Outcome State Fault Refusal :=
  s.run fun c => c.regWrite off.toNat be v
/-- The meaning of REGISTER_READ_ACCESS_ERROR (R472). -/
def execRegisterReadAccessError (off : BitVec 26) (be : BitVec 4) (s : State) : Host.Outcome State Fault Refusal :=
  s.run fun c => c.badRead off.toNat be

end Sys2Proof.Machine
end

