-- ==== Sys2Proof/Machine/Dispatch.lean ====
section
/-! DEFINITION. The dispatch of the commands: one arm per constructor of `Instr`, each one direct call of its meaning. -/

namespace Sys2Proof.Machine

/-- The effect of a command on everything but the queue. -/
def exec (i : Instr) (s : State) : Host.Outcome State Fault Refusal :=
  match i with
  | .collectiveFirstFrame p f age => Sys2Proof.Machine.execCollectiveFirstFrame p f age s
  | .continuationFrame p f age => Sys2Proof.Machine.execContinuationFrame p f age s
  | .collectiveFrameFold c slot p carried serialised rep => Sys2Proof.Machine.execCollectiveFrameFold c slot p carried serialised rep s
  | .sidingRetry c slot elem => Sys2Proof.Machine.execSidingRetry c slot elem s
  | .coachCreateRetry c k => Sys2Proof.Machine.execCoachCreateRetry c k s
  | .coachFoldComplete c slot => Sys2Proof.Machine.execCoachFoldComplete c slot s
  | .coachCutoff c slot => Sys2Proof.Machine.execCoachCutoff c slot s
  | .sealIntervalEnd c slot => Sys2Proof.Machine.execSealIntervalEnd c slot s
  | .packerFirstFrame c slot out => Sys2Proof.Machine.execPackerFirstFrame c slot out s
  | .packerLastFrameSent c slot => Sys2Proof.Machine.execPackerLastFrameSent c slot s
  | .deadlineMonitor c => Sys2Proof.Machine.execDeadlineMonitor c s
  | .abortDrainDone c slot => Sys2Proof.Machine.execAbortDrainDone c slot s
  | .abortMarkExpiry c => Sys2Proof.Machine.execAbortMarkExpiry c s
  | .openRecordExpiry p => Sys2Proof.Machine.execOpenRecordExpiry p s
  | .abortWaveRx p f age => Sys2Proof.Machine.execAbortWaveRx p f age s
  | .abortWaveRepeat livery entry step => Sys2Proof.Machine.execAbortWaveRepeat livery entry step s
  | .ledgerBatchSend c livery => Sys2Proof.Machine.execLedgerBatchSend c livery s
  | .resultFrame p f age => Sys2Proof.Machine.execResultFrame p f age s
  | .memoryFrame p f age => Sys2Proof.Machine.execMemoryFrame p f age s
  | .memoryPut p f age => Sys2Proof.Machine.execMemoryPut p f age s
  | .putCompletion p f age => Sys2Proof.Machine.execPutCompletion p f age s
  | .putCounterTimeout d ctr => Sys2Proof.Machine.execPutCounterTimeout d ctr s
  | .bulkFrame p f age => Sys2Proof.Machine.execBulkFrame p f age s
  | .ethernetFrame p bytes fecUncorr whole buf age => Sys2Proof.Machine.execEthernetFrame p bytes fecUncorr whole buf age s
  | .pauseFrameRx p => Sys2Proof.Machine.execPauseFrameRx p s
  | .pfcFrameRx p enable quanta => Sys2Proof.Machine.execPfcFrameRx p enable quanta s
  | .controlFrameForward p f age => Sys2Proof.Machine.execControlFrameForward p f age s
  | .ptpMessageRx p f age => Sys2Proof.Machine.execPtpMessageRx p f age s
  | .digestRecordsRx p f age => Sys2Proof.Machine.execDigestRecordsRx p f age s
  | .frameTailCheck p f => Sys2Proof.Machine.execFrameTailCheck p f s
  | .egressPortFree p rd => Sys2Proof.Machine.execEgressPortFree p rd s
  | .cellTime => Sys2Proof.Machine.execCellTime s
  | .cellRefcountDecrement b cell gen => Sys2Proof.Machine.execCellRefcountDecrement b cell gen s
  | .brakeLevelChange d src livery => Sys2Proof.Machine.execBrakeLevelChange d src livery s
  | .divertedFrameDispatch d c livery rd => Sys2Proof.Machine.execDivertedFrameDispatch d c livery rd s
  | .linkInitRx p f => Sys2Proof.Machine.execLinkInitRx p f s
  | .linkUpdateRx p f => Sys2Proof.Machine.execLinkUpdateRx p f s
  | .linkNakRx p f => Sys2Proof.Machine.execLinkNakRx p f s
  | .creditUpdateSend p => Sys2Proof.Machine.execCreditUpdateSend p s
  | .creditUpdatePeriodic p => Sys2Proof.Machine.execCreditUpdatePeriodic p s
  | .initResend p => Sys2Proof.Machine.execInitResend p s
  | .pcsAligned p marks => Sys2Proof.Machine.execPcsAligned p marks s
  | .pcsAlignLoss p => Sys2Proof.Machine.execPcsAlignLoss p s
  | .linkControlTimeout p => Sys2Proof.Machine.execLinkControlTimeout p s
  | .replayTimeout p => Sys2Proof.Machine.execReplayTimeout p s
  | .nakRepeat p => Sys2Proof.Machine.execNakRepeat p s
  | .lpiEntryStart p => Sys2Proof.Machine.execLpiEntryStart p s
  | .lpiAckRx p wake => Sys2Proof.Machine.execLpiAckRx p wake s
  | .lpiNoackTimeout p => Sys2Proof.Machine.execLpiNoackTimeout p s
  | .lpiWakeRequest p => Sys2Proof.Machine.execLpiWakeRequest p s
  | .lpiExitComplete p => Sys2Proof.Machine.execLpiExitComplete p s
  | .lpiReqRx p => Sys2Proof.Machine.execLpiReqRx p s
  | .lpiPartnerWakeRx p => Sys2Proof.Machine.execLpiPartnerWakeRx p s
  | .lpiRefresh p => Sys2Proof.Machine.execLpiRefresh p s
  | .synthLock pp => Sys2Proof.Machine.execSynthLock pp s
  | .synthCalDone pp => Sys2Proof.Machine.execSynthCalDone pp s
  | .synthLockTimeout pp => Sys2Proof.Machine.execSynthLockTimeout pp s
  | .trainingDone lane ok taps preTx preRx => Sys2Proof.Machine.execTrainingDone lane ok taps preTx preRx s
  | .trainingRetry lane => Sys2Proof.Machine.execTrainingRetry lane s
  | .cdrLock lane => Sys2Proof.Machine.execCdrLock lane s
  | .settleWindowEnd lane => Sys2Proof.Machine.execSettleWindowEnd lane s
  | .checkerLock lane rx => Sys2Proof.Machine.execCheckerLock lane rx s
  | .checkerLockLoss lane rx => Sys2Proof.Machine.execCheckerLockLoss lane rx s
  | .eyeWindowEnd lane upper mid lower width rx => Sys2Proof.Machine.execEyeWindowEnd lane upper mid lower width rx s
  | .injGo d => Sys2Proof.Machine.execInjGo d s
  | .injPeriodBurst lane => Sys2Proof.Machine.execInjPeriodBurst lane s
  | .settleGo d => Sys2Proof.Machine.execSettleGo d s
  | .cntClr d => Sys2Proof.Machine.execCntClr d s
  | .sdsTxEqWrite d v => Sys2Proof.Machine.execSdsTxEqWrite d v s
  | .chkBitsLoRead d => Sys2Proof.Machine.execChkBitsLoRead d s
  | .laneStatRead d => Sys2Proof.Machine.execLaneStatRead d s
  | .prtCfgWrite pp v => Sys2Proof.Machine.execPrtCfgWrite pp v s
  | .lnkCtrlWrite d v => Sys2Proof.Machine.execLnkCtrlWrite d v s
  | .lnkVlBufWrite d vl v => Sys2Proof.Machine.execLnkVlBufWrite d vl v s
  | .shaperRefill d => Sys2Proof.Machine.execShaperRefill d s
  | .shaperApply d => Sys2Proof.Machine.execShaperApply d s
  | .flowShaperRelease d shaper => Sys2Proof.Machine.execFlowShaperRelease d shaper s
  | .gateSwitch d => Sys2Proof.Machine.execGateSwitch d s
  | .gateSwitchEffect p => Sys2Proof.Machine.execGateSwitchEffect p s
  | .gateIntervalBoundary p => Sys2Proof.Machine.execGateIntervalBoundary p s
  | .sampleIntervalClose d => Sys2Proof.Machine.execSampleIntervalClose d s
  | .qSampSeqRead d => Sys2Proof.Machine.execQSampSeqRead d s
  | .wmFlagClear d v crossing => Sys2Proof.Machine.execWmFlagClear d v crossing s
  | .flowRead d => Sys2Proof.Machine.execFlowRead d s
  | .flowWrite d => Sys2Proof.Machine.execFlowWrite d s
  | .flowDelete d => Sys2Proof.Machine.execFlowDelete d s
  | .ttbEntRead => Sys2Proof.Machine.execTtbEntRead s
  | .ttbEntWrite => Sys2Proof.Machine.execTtbEntWrite s
  | .ttbEntInvalidate => Sys2Proof.Machine.execTtbEntInvalidate s
  | .ttbCsetRead => Sys2Proof.Machine.execTtbCsetRead s
  | .ttbCsetWrite => Sys2Proof.Machine.execTtbCsetWrite s
  | .liveryRecordWrite r v => Sys2Proof.Machine.execLiveryRecordWrite r v s
  | .ttbLivCtrlWrite v => Sys2Proof.Machine.execTtbLivCtrlWrite v s
  | .ttbLivSwap v => Sys2Proof.Machine.execTtbLivSwap v s
  | .ttbSwapTakeEffect livery => Sys2Proof.Machine.execTtbSwapTakeEffect livery s
  | .ttbOldBankRelease livery => Sys2Proof.Machine.execTtbOldBankRelease livery s
  | .routeEntRead => Sys2Proof.Machine.execRouteEntRead s
  | .routeEntWrite => Sys2Proof.Machine.execRouteEntWrite s
  | .routeSwap v => Sys2Proof.Machine.execRouteSwap v s
  | .routeSwapCancel => Sys2Proof.Machine.execRouteSwapCancel s
  | .routeSwapSwitch => Sys2Proof.Machine.execRouteSwapSwitch s
  | .routeDrainSlow => Sys2Proof.Machine.execRouteDrainSlow s
  | .groupRead => Sys2Proof.Machine.execGroupRead s
  | .groupWrite => Sys2Proof.Machine.execGroupWrite s
  | .addrRead => Sys2Proof.Machine.execAddrRead s
  | .addrWrite => Sys2Proof.Machine.execAddrWrite s
  | .addrDelete => Sys2Proof.Machine.execAddrDelete s
  | .gridMapWrite v => Sys2Proof.Machine.execGridMapWrite v s
  | .teardown => Sys2Proof.Machine.execTeardown s
  | .teardownTimerExpiry livery => Sys2Proof.Machine.execTeardownTimerExpiry livery s
  | .teardownDone livery => Sys2Proof.Machine.execTeardownDone livery s
  | .teardownRelease => Sys2Proof.Machine.execTeardownRelease s
  | .polQuotaWrite die v => Sys2Proof.Machine.execPolQuotaWrite die v s
  | .polThrWrite die second v => Sys2Proof.Machine.execPolThrWrite die second v s
  | .quarantineRelease b v => Sys2Proof.Machine.execQuarantineRelease b v s
  | .quarantineReleaseDone b reads => Sys2Proof.Machine.execQuarantineReleaseDone b reads s
  | .marchStart die v => Sys2Proof.Machine.execMarchStart die v s
  | .marchDone die rep => Sys2Proof.Machine.execMarchDone die rep s
  | .tableCopyRefetchDone die bank word => Sys2Proof.Machine.execTableCopyRefetchDone die bank word s
  | .retentionEntry die bank => Sys2Proof.Machine.execRetentionEntry die bank s
  | .bankWake die bank => Sys2Proof.Machine.execBankWake die bank s
  | .bankWakeDone die bank => Sys2Proof.Machine.execBankWakeDone die bank s
  | .cchSlotSelect c v => Sys2Proof.Machine.execCchSlotSelect c v s
  | .livCtrlWrite v => Sys2Proof.Machine.execLivCtrlWrite v s
  | .seedWrite index => Sys2Proof.Machine.execSeedWrite index s
  | .energyAttribution => Sys2Proof.Machine.execEnergyAttribution s
  | .energyLoRead unattributed => Sys2Proof.Machine.execEnergyLoRead unattributed s
  | .secureWipe => Sys2Proof.Machine.execSecureWipe s
  | .wipeDone clear => Sys2Proof.Machine.execWipeDone clear s
  | .tamperDetect src => Sys2Proof.Machine.execTamperDetect src s
  | .tapInstruction ir => Sys2Proof.Machine.execTapInstruction ir s
  | .tokenChallenge => Sys2Proof.Machine.execTokenChallenge s
  | .tokenSubmit => Sys2Proof.Machine.execTokenSubmit s
  | .tokenCheckDone => Sys2Proof.Machine.execTokenCheckDone s
  | .tokenLock => Sys2Proof.Machine.execTokenLock s
  | .coreWatchdogExpiry core started => Sys2Proof.Machine.execCoreWatchdogExpiry core started s
  | .m0WatchdogExpiry => Sys2Proof.Machine.execM0WatchdogExpiry s
  | .mgmtSramUe bank word => Sys2Proof.Machine.execMgmtSramUe bank word s
  | .bootRomStart => Sys2Proof.Machine.execBootRomStart s
  | .mbxDoorbell q v => Sys2Proof.Machine.execMbxDoorbell q v s
  | .mbxRspCiWrite q v => Sys2Proof.Machine.execMbxRspCiWrite q v s
  | .mbxBusyTimeout q => Sys2Proof.Machine.execMbxBusyTimeout q s
  | .getVersion q => Sys2Proof.Machine.execGetVersion q s
  | .getStatus q => Sys2Proof.Machine.execGetStatus q s
  | .imgBegin q => Sys2Proof.Machine.execImgBegin q s
  | .imgWrite q data => Sys2Proof.Machine.execImgWrite q data s
  | .imgVerify q => Sys2Proof.Machine.execImgVerify q s
  | .imgActivate q => Sys2Proof.Machine.execImgActivate q s
  | .imgCommitSvn q => Sys2Proof.Machine.execImgCommitSvn q s
  | .imgReject q => Sys2Proof.Machine.execImgReject q s
  | .imgRevokeKey q => Sys2Proof.Machine.execImgRevokeKey q s
  | .logRead q => Sys2Proof.Machine.execLogRead q s
  | .telemCfg q => Sys2Proof.Machine.execTelemCfg q s
  | .newImageStart selfTestOk => Sys2Proof.Machine.execNewImageStart selfTestOk s
  | .fwHeartbeat => Sys2Proof.Machine.execFwHeartbeat s
  | .errorLogCommit => Sys2Proof.Machine.execErrorLogCommit s
  | .telemetryPeriod produced => Sys2Proof.Machine.execTelemetryPeriod produced s
  | .evqIntPauseEnd => Sys2Proof.Machine.execEvqIntPauseEnd s
  | .cornerEvaluation coachMilliVolt => Sys2Proof.Machine.execCornerEvaluation coachMilliVolt s
  | .estimateRefresh => Sys2Proof.Machine.execEstimateRefresh s
  | .calibrationInterval die currents => Sys2Proof.Machine.execCalibrationInterval die currents s
  | .meterUpdate => Sys2Proof.Machine.execMeterUpdate s
  | .budgetBinStart => Sys2Proof.Machine.execBudgetBinStart s
  | .hintHoldExpiry c => Sys2Proof.Machine.execHintHoldExpiry c s
  | .budgetCtrlWrite v => Sys2Proof.Machine.execBudgetCtrlWrite v s
  | .railIlimCross r => Sys2Proof.Machine.execRailIlimCross r s
  | .railIlimRelease r => Sys2Proof.Machine.execRailIlimRelease r s
  | .phaseHardLimit r => Sys2Proof.Machine.execPhaseHardLimit r s
  | .phaseEvaluation r phaseCurrents => Sys2Proof.Machine.execPhaseEvaluation r phaseCurrents s
  | .railVsetWrite v => Sys2Proof.Machine.execRailVsetWrite v s
  | .railFault r => Sys2Proof.Machine.execRailFault r s
  | .vin12Loss => Sys2Proof.Machine.execVin12Loss s
  | .lastGaspProgram supplyHeld => Sys2Proof.Machine.execLastGaspProgram supplyHeld s
  | .vin12Present => Sys2Proof.Machine.execVin12Present s
  | .vin3v3PowerDown => Sys2Proof.Machine.execVin3v3PowerDown s
  | .calSave => Sys2Proof.Machine.execCalSave s
  | .calSavePeriodic => Sys2Proof.Machine.execCalSavePeriodic s
  | .calSaveDone ok => Sys2Proof.Machine.execCalSaveDone ok s
  | .thermalSensorRead readings => Sys2Proof.Machine.execThermalSensorRead readings s
  | .tripCooldownEnd => Sys2Proof.Machine.execTripCooldownEnd s
  | .laneRepair c cluster => Sys2Proof.Machine.execLaneRepair c cluster s
  | .laneFence c cluster => Sys2Proof.Machine.execLaneFence c cluster s
  | .laneSpareTestDone c pass => Sys2Proof.Machine.execLaneSpareTestDone c pass s
  | .coachDieUnresponsive c => Sys2Proof.Machine.execCoachDieUnresponsive c s
  | .dieFailed die => Sys2Proof.Machine.execDieFailed die s
  | .digestBatchSend livery => Sys2Proof.Machine.execDigestBatchSend livery s
  | .digestUnmatchedTimeout => Sys2Proof.Machine.execDigestUnmatchedTimeout s
  | .trailerStepCheck => Sys2Proof.Machine.execTrailerStepCheck s
  | .trailerModeChange => Sys2Proof.Machine.execTrailerModeChange s
  | .snapshotArm => Sys2Proof.Machine.execSnapshotArm s
  | .snapshotTrigger => Sys2Proof.Machine.execSnapshotTrigger s
  | .snapInEdge => Sys2Proof.Machine.execSnapInEdge s
  | .snapshotSlotMatch => Sys2Proof.Machine.execSnapshotSlotMatch s
  | .snapshotLatch => Sys2Proof.Machine.execSnapshotLatch s
  | .snpTimeLoRead => Sys2Proof.Machine.execSnpTimeLoRead s
  | .timNowLoRead => Sys2Proof.Machine.execTimNowLoRead s
  | .timeOffsetWrite v => Sys2Proof.Machine.execTimeOffsetWrite v s
  | .timeSlewDone => Sys2Proof.Machine.execTimeSlewDone s
  | .timeStepGo => Sys2Proof.Machine.execTimeStepGo s
  | .ppsInEdge => Sys2Proof.Machine.execPpsInEdge s
  | .ppsOutSecond => Sys2Proof.Machine.execPpsOutSecond s
  | .ptpServoUpdate offset upstream => Sys2Proof.Machine.execPtpServoUpdate offset upstream s
  | .coldStart src => Sys2Proof.Machine.execColdStart src s
  | .pwronRstN level => Sys2Proof.Machine.execPwronRstN level s
  | .warmRstN level => Sys2Proof.Machine.execWarmRstN level s
  | .pwrRstCold v => Sys2Proof.Machine.execPwrRstCold v s
  | .pwrRstWarm v => Sys2Proof.Machine.execPwrRstWarm v s
  | .pwrRstMgmt v => Sys2Proof.Machine.execPwrRstMgmt v s
  | .warmReset => Sys2Proof.Machine.execWarmReset s
  | .warmResetDone => Sys2Proof.Machine.execWarmResetDone s
  | .perstN level => Sys2Proof.Machine.execPerstN level s
  | .hotReset => Sys2Proof.Machine.execHotReset s
  | .functionLevelReset => Sys2Proof.Machine.execFunctionLevelReset s
  | .standbyComplete => Sys2Proof.Machine.execStandbyComplete s
  | .m0MarchDone findings => Sys2Proof.Machine.execM0MarchDone findings s
  | .railsComplete => Sys2Proof.Machine.execRailsComplete s
  | .railGroupRamped => Sys2Proof.Machine.execRailGroupRamped s
  | .trainComplete => Sys2Proof.Machine.execTrainComplete s
  | .d2dTrainTimeout die => Sys2Proof.Machine.execD2dTrainTimeout die s
  | .marchPhaseComplete findings => Sys2Proof.Machine.execMarchPhaseComplete findings s
  | .laneTestComplete findings => Sys2Proof.Machine.execLaneTestComplete findings s
  | .smbStatus => Sys2Proof.Machine.execSmbStatus s
  | .smbAlertSrcRead => Sys2Proof.Machine.execSmbAlertSrcRead s
  | .smbAlertSrcClear v pecOk => Sys2Proof.Machine.execSmbAlertSrcClear v pecOk s
  | .smbPkgPower => Sys2Proof.Machine.execSmbPkgPower s
  | .smbMaxJunction => Sys2Proof.Machine.execSmbMaxJunction s
  | .smbMaxDie => Sys2Proof.Machine.execSmbMaxDie s
  | .smbVin12Mv mv => Sys2Proof.Machine.execSmbVin12Mv mv s
  | .smbVin12Current sixteenthAmp => Sys2Proof.Machine.execSmbVin12Current sixteenthAmp s
  | .smbVin3v3Mv mv => Sys2Proof.Machine.execSmbVin3v3Mv mv s
  | .smbJunction die => Sys2Proof.Machine.execSmbJunction die s
  | .smbAlertResponse => Sys2Proof.Machine.execSmbAlertResponse s
  | .registerWrite off be v => Sys2Proof.Machine.execRegisterWrite off be v s
  | .cdrLockLoss lane signal => Sys2Proof.Machine.execCdrLockLoss lane signal s
  | .autoNegotiation p partnerLpi accepts => Sys2Proof.Machine.execAutoNegotiation p partnerLpi accepts s
  | .ethernetPcsAlignLoss p => Sys2Proof.Machine.execEthernetPcsAlignLoss p s
  | .retentionEntryComplete die bank => Sys2Proof.Machine.execRetentionEntryComplete die bank s
  | .railSlewDone r => Sys2Proof.Machine.execRailSlewDone r s
  | .fecUncorrBetweenFrames p => Sys2Proof.Machine.execFecUncorrBetweenFrames p s
  | .smbUnlistedCommand code => Sys2Proof.Machine.execSmbUnlistedCommand code s
  | .registerReadAccessError off be => Sys2Proof.Machine.execRegisterReadAccessError off be s

end Sys2Proof.Machine
end

