-- ==== Sys2Proof/Machine/Step.lean ====
section
/-! DEFINITION. The step of the block: it takes the command at the front of its queue and runs it; on an empty queue
one unit of the local reference passes. -/

namespace Sys2Proof.Machine

/-- One unit of the local reference passes: fabric time moves on, and the programming of a life-cycle fuse group ends
(R348). -/
def State.tick (s : State) : State :=
  if s.chip.sec.programming then { s with chip := Chip.settleAlerts s.chip s.chip.tick.fuseEnd } else { s with chip := s.chip.tick }

/-- One step: the front command runs with the queue's rest; an empty queue lets time pass. -/
def step (s : State) : Host.Outcome State Fault Refusal :=
  match s.pending with
  | [] => .next s.tick
  | i :: rest => exec i { s with pending := rest }

/-- The command that a word spells, put at the front of the queue: the table gives no command bits, so no word spells
one, and the state is left as it is. -/
def State.withFetchWord (s : State) (nbits w : Nat) : State :=
  match decodeTableWord nbits w with
  | some i => { s with pending := i :: s.pending }
  | none => s

end Sys2Proof.Machine
end

