-- ==== Sys2Proof/Safety.lean ====
section
/-! DEFINITION. What counts as a safe run: a step that answers a next state, and the invariants that claims use. -/

namespace Sys2Proof.Machine

/-- An outcome is a next state: the part goes on. -/
def goesOn : Host.Outcome State Fault Refusal → Prop
  | .next _ => True
  | _ => False

/-- The state with another part, the queue as it was. -/
def State.put (s : State) (c : Chip) : State := { s with chip := c }

/-- The state in which a command answers when the part becomes `c`: the alert causes settled, the queue as it was. -/
def State.after (s : State) (c : Chip) : State := { s with chip := Chip.settleAlerts s.chip c }

/-- A command answers a next state with the queue it was given and a part that meets `Q`. -/
def Yields (i : Instr) (s : State) (Q : Chip → Prop) : Prop :=
  ∃ t, exec i s = .next t ∧ t.pending = s.pending ∧ Q t.chip

/-- Every register but those of the listed keys (offset + page * 2^16 + instance * 2^26) keeps its value. -/
def Chip.regsBut (a b : Chip) (keys : List Nat) : Prop :=
  ∀ page off inst, regKey page off inst ∉ keys → b.reg page off inst = a.reg page off inst

/-- What stands in one-time fuses, with the life-cycle transition that waits for its wipe (R348, R360). A group of which
any fuse is blown counts as entered, so `life` says nothing of a group that is still being programmed. -/
structure Fuses where
  life : Nat
  ownerHash : BitVec 384
  rootErased : Bool
  deviceId : BitVec 128
  transition : Option (Nat × BitVec 384)
  fuseSvn : Nat
  revoked : BitVec 4
  deriving DecidableEq, Repr

/-- What no reset clears: the flash and the fuses (R348, R357, R360). -/
structure Vault where
  flash : Tbl Byte
  fuses : Fuses
  deriving DecidableEq, Repr

def Chip.vault (c : Chip) : Vault :=
  { flash := c.fw.flash
    fuses := { life := c.sec.life, ownerHash := c.sec.ownerHash, rootErased := c.sec.rootErased
               deviceId := c.sec.deviceId, transition := c.sec.transition, fuseSvn := c.fw.fuseSvn
               revoked := c.fw.revoked } }

/-- The flash in its canonical form: addresses rising, no listed byte erased. -/
def Vault.canon (v : Vault) : Prop := Tbl.wf (fun _ => erased) v.flash = true

/-- A state of the life cycle that the part can be in (R348): one of the four; the root secret is erased in the last one
alone; and a transition that waits for its wipe moves one row down. -/
def Fuses.legal (f : Fuses) : Prop :=
  f.life ≤ 3 ∧ f.rootErased = decide (f.life = 3) ∧
    ∀ l o, f.transition = some (l, o) → l = f.life + 1 ∧ l ≤ 3

/-- The vault in a state that the part can be in. -/
def Vault.ok (v : Vault) : Prop := v.canon ∧ v.fuses.legal

/-- Fuses only move one way (R348, R360, R362): the life cycle stays or goes one state on, no fuse of the SVN, no
revocation and no erasure of the root secret is undone, the device identifier stays, and the owner hash is fused on
the way from BLANK to PROVISIONED alone. -/
def Fuses.moves (f g : Fuses) : Prop :=
  (g.life = f.life ∨ g.life = f.life + 1) ∧ f.fuseSvn ≤ g.fuseSvn ∧
    (∀ k, f.revoked.getLsbD k = true → g.revoked.getLsbD k = true) ∧
    (f.rootErased = true → g.rootErased = true) ∧ g.deviceId = f.deviceId ∧
    (g.ownerHash = f.ownerHash ∨ (f.life = 0 ∧ g.life = 1))

/-- The state outside the data plane: time, security, firmware, power and start-up but for the alert causes, which follow
the status flags at every command (R464). -/
def Chip.house (c : Chip) : TimeSt × SecSt × FwSt × PwrSt × BootSt :=
  (c.time, c.sec, c.fw, c.pwr, { c.boot with alertSrc := 0 })

/-- The state of the data plane: coaches, timetable, routes, puts, traffic, pools, memory banks, ports and faults; the
activity counts for the estimates (R381, R383) stand beside it. -/
def Chip.plane (c : Chip) :
    CoachSt × TtSt × RteSt × Tbl PutCtr × TrafSt × PoolSt × BankSt × PortSt × FltSt :=
  (c.coach, c.tt, c.rte, c.puts, c.traf, c.pool, c.bank, c.port, c.flt)

/-- The groups of the part's state, as `Chip` names them. -/
inductive Grp where
  | regs | time | ev | snap | coach | tt | rte | puts | traf | pool | bank | port | flt | sec | fw | pwr | act | boot
  | out | fresh
  deriving DecidableEq, Repr

/-- Nothing changes but the listed groups, and the alert causes (R464). -/
def Chip.only (gs : List Grp) (a b : Chip) : Prop :=
  (.regs ∈ gs ∨ b.regs = a.regs) ∧ (.time ∈ gs ∨ b.time = a.time) ∧ (.ev ∈ gs ∨ b.ev = a.ev) ∧
    (.snap ∈ gs ∨ b.snap = a.snap) ∧ (.coach ∈ gs ∨ b.coach = a.coach) ∧ (.tt ∈ gs ∨ b.tt = a.tt) ∧
    (.rte ∈ gs ∨ b.rte = a.rte) ∧ (.puts ∈ gs ∨ b.puts = a.puts) ∧ (.traf ∈ gs ∨ b.traf = a.traf) ∧
    (.pool ∈ gs ∨ b.pool = a.pool) ∧ (.bank ∈ gs ∨ b.bank = a.bank) ∧ (.port ∈ gs ∨ b.port = a.port) ∧
    (.flt ∈ gs ∨ b.flt = a.flt) ∧ (.sec ∈ gs ∨ b.sec = a.sec) ∧ (.fw ∈ gs ∨ b.fw = a.fw) ∧
    (.pwr ∈ gs ∨ b.pwr = a.pwr) ∧ (.act ∈ gs ∨ b.act = a.act) ∧
    (.boot ∈ gs ∨ { b.boot with alertSrc := 0 } = { a.boot with alertSrc := 0 }) ∧
    (.out ∈ gs ∨ b.out = a.out) ∧ (.fresh ∈ gs ∨ b.fresh = a.fresh)

/-- One event is raised: its record stands at the producer index, which moves on (R423, R424). -/
def Chip.raised (a b : Chip) (e : Ev) : Prop :=
  b.ev.placed = a.ev.placed + 1 ∧ Tbl.get 0 b.ev.ring (a.ev.placed % 1024) = evRecord e b.time.now a.ev.seq

/-- A good frame on a port that receives, its tail already checked where it is sequenced (R21 steps 1 to 4). -/
def Chip.hears (c : Chip) (p : Nat) (f : Frame) : Prop :=
  c.rxOn p = true ∧ c.narjo p = true ∧ c.linkUp p = true ∧ hdrOk f.hdr = true ∧ hdrClassOk f.hdr = true ∧
    tailOf f = .good ∧ f.whole = true ∧ f.buf.bad = none ∧
    (hdrSequenced f.hdr = true → (c.link p).checked = some (f, true))

/-- The part after those steps: the frame is counted where its tail check has not counted it, its credits are free again,
and its ingress buffer has been read. -/
def Chip.heard (c : Chip) (p : Nat) (f : Frame) : Chip :=
  let d := if hdrSequenced f.hdr then c.setLink p { c.link p with checked := none }
    else (c.received p (workLivery f.hdr) (f.body.length + 36)).countTail p f
  (d.freeCredits p (hVl f.hdr) (hLen f.hdr)).bumpN (pgMem (dieP (portDie p))) 0x1104 f.buf.corrected

/-- A frame that passes step 5 of R21: no teardown discards it, and no livery check fails. -/
def Chip.passes (c : Chip) (p : Nat) (f : Frame) : Prop :=
  (c.tornDown (hLiv f.hdr) = true → hClass f.hdr = 3 ∧ hSub f.hdr < 2) ∧ c.livCheck p f.hdr f.body false = 0

end Sys2Proof.Machine
end

