-- ==== Sys2Proof/Certificates/Slice0/Obligations.lean ====
section
/-! DEFINITION. The statements about the model, for the provers. A command is said to complete by what it answers: a next
state, written out (`State.after`) or described (`Yields`). -/

open Sys2Proof Sys2Proof.Machine

/-- A step runs the command at the front of the queue on the state with the rest of the queue. On an empty queue only
fabric time moves, and the programming of a life-cycle fuse group ends (R348), with a restart of the management cores: the
model's choice (log entries 1 and 165). -/
def Obligations.StepRunsTheFrontCommand : Prop :=
  (∀ (i : Instr) (s : State), step { s with pending := i :: s.pending } = exec i s) ∧
  (∀ s : State, s.pending = [] → ∃ t, step s = .next t ∧ t.pending = [] ∧ t.chip.vault = s.chip.vault ∧
    t.chip.plane = s.chip.plane ∧
    (s.chip.sec.programming = false →
      t.chip = { s.chip with time := t.chip.time } ∧ (s.chip.time.running = false → t = s)) ∧
    (s.chip.sec.programming = true → s.chip.standbyUp = true →
      t.chip.sec.programming = false ∧ t.chip.sec.partGroup = false ∧ t.chip.fw.bootWaiting = true ∧
      t.chip.fwState = 0 ∧ s.chip.ev.placed + 1 ≤ t.chip.ev.placed))

/-- From every state the part goes on, and a step takes exactly the front command off the queue. -/
def Obligations.EveryStepTakesOneCommand : Prop :=
  ∀ s : State, goesOn (step s) ∧ ∀ t, step s = .next t → t.pending = s.pending.tail

/-- ALERT_SRC and SMB_ALERT_N on every command (R464): the causes set when a STATUS bit of the list rises (bits 1, 2, 4,
5, 6), or falls while PHASE reads READY (bits 0 and 3). -/
def Obligations.AlertCausesFollowTheStatus : Prop :=
  ∀ (i : Instr) (s t : State), exec i s = .next t →
    (∀ k ∈ [1, 2, 4, 5, 6], s.chip.smbStatusWord.getLsbD k = false → t.chip.smbStatusWord.getLsbD k = true →
      t.chip.boot.alertSrc.getLsbD k = true ∧ t.chip.smbAlertN = false) ∧
    (∀ k ∈ [0, 3], t.chip.phase = phReady → s.chip.smbStatusWord.getLsbD k = true →
      t.chip.smbStatusWord.getLsbD k = false → t.chip.boot.alertSrc.getLsbD k = true ∧ t.chip.smbAlertN = false)

/-- The SMBus read commands while V0 runs (R463, R464): the answer's bytes, and nothing else changed. The measured inputs
answer what V0 measures. The byte of the alert response is the model's reading (see the log).
The write of ALERT_SRC (R464): write 1 to clear; a wrong packet error code discards the write. -/
def Obligations.SmbusAnswersAndAlertsClear : Prop :=
  (∀ (s : State) (mv : BitVec 16) (die : Die) (code : BitVec 8), s.chip.v0Up = true →
    let word (n : Nat) : State := { s with chip := s.chip.smbOut true (bytesLE 2 n) }
    exec .smbStatus s = .next (word s.chip.smbStatusWord.toNat) ∧
    exec .smbAlertSrcRead s = .next (word s.chip.boot.alertSrc.toNat) ∧
    exec .smbPkgPower s = .next (word (s.chip.field pgPwr 0x1010 0 13)) ∧
    exec .smbMaxJunction s = .next (word (toCode 16 s.chip.maxJunction)) ∧
    exec .smbMaxDie s = .next { s with chip := s.chip.smbOut true [BitVec.ofNat 8 s.chip.maxDie] } ∧
    exec (.smbVin12Mv mv) s = .next (word mv.toNat) ∧
    exec (.smbVin12Current mv) s = .next (word mv.toNat) ∧
    exec (.smbVin3v3Mv mv) s = .next (word mv.toNat) ∧
    exec (.smbJunction die) s = .next (word (s.chip.junctionWord die.val)) ∧
    exec .smbAlertResponse s = .next { s with chip := s.chip.smbOut true [BitVec.ofNat 8 (0x48 + s.chip.boot.smbAddr.toNat)] } ∧
    (smbListed code.toNat = false → exec (.smbUnlistedCommand code) s = .next { s with chip := s.chip.smbOut false [] }) ∧
    (∀ n acked bs, (word n).chip = { s.chip with out := { s.chip.out with smb := bytesLE 2 n, acked := true } } ∧
      s.chip.smbOut acked bs = { s.chip with out := { s.chip.out with smb := bs, acked := acked } })) ∧
  (∀ (s : State) (v : BitVec 16), s.chip.v0Up = true →
    (∃ t, exec (.smbAlertSrcClear v true) s = .next t ∧
      (∀ k, t.chip.boot.alertSrc.getLsbD k = (s.chip.boot.alertSrc.getLsbD k && !v.getLsbD k)) ∧
      t = { s with chip := { s.chip with
        boot := { s.chip.boot with alertSrc := t.chip.boot.alertSrc }, out := t.chip.out } }) ∧
    (∃ t, exec (.smbAlertSrcClear v false) s = .next t ∧ t = { s with chip := { s.chip with out := t.chip.out } }))

/-- TIM_NOW_LO and SNP_TIME_LO (R285, R430): the low half is answered, the high half latched, nothing else changed. A
page that is not served answers 0 (R476). -/
def Obligations.ClockReadsLatchTheHighHalf : Prop :=
  ∀ s : State,
    let c := s.chip
    (c.serves pgTim = true → c.time.now < 2 ^ 64 →
      ∃ t, exec .timNowLoRead s = .next (s.put { t with out := { c.out with rdata := BitVec.ofNat 32 c.time.now } }) ∧
        t = { c with regs := t.regs } ∧ c.regsBut t [regKey pgTim 0x1008 0] ∧
        (t.reg pgTim 0x1008).toNat * 2 ^ 32 + (BitVec.ofNat 32 c.time.now).toNat = c.time.now) ∧
    (c.serves pgSnp = true → c.time.snpTime < 2 ^ 64 →
      ∃ t, exec .snpTimeLoRead s = .next (s.put { t with out := { c.out with rdata := BitVec.ofNat 32 c.time.snpTime } }) ∧
        t = { c with regs := t.regs } ∧ c.regsBut t [regKey pgSnp 0x1010 0] ∧
        (t.reg pgSnp 0x1010).toNat * 2 ^ 32 + (BitVec.ofNat 32 c.time.snpTime).toNat = c.time.snpTime) ∧
    (c.serves pgTim = false → exec .timNowLoRead s = .next (s.put { c with out := { c.out with rdata := 0 } })) ∧
    (c.serves pgSnp = false → exec .snpTimeLoRead s = .next (s.put { c with out := { c.out with rdata := 0 } }))

/-- TIM_OFFSET, the end of a slew and the PPS pins (R281, R282), and nothing else changed. The slew left to do is kept in
units of 2^-40 of a fabric-time unit, the unit of TIM_FREQ; the 2 ns of the PPS output is R282's tolerance.
STEP_GO (R281): fabric time becomes TIM_STEP, EV_TIME_STEP (code 0x0507) is raised, the gates follow (R328), and a coach
whose Td is again to come meets its monitor there (R167). -/
def Obligations.FabricTimeIsSlewedAndStepped : Prop :=
  (∀ (s : State) (v : W32), s.chip.serves pgTim = true →
    let c := s.chip
    exec (.timeOffsetWrite v) s = .next (s.put
      { c.setFlag pgTim 0x1000 3 true with time := { c.time with slew := v.toInt * 2 ^ 40 } }) ∧
    (c.time.slew = 0 → exec .timeSlewDone s = .next (s.put (c.setFlag pgTim 0x1000 3 false))) ∧
    (c.time.slew ≠ 0 → exec .timeSlewDone s = .next s) ∧
    (c.flag pgTim 0x1000 0 = true → exec .ppsInEdge s = .next (s.put
      (((c.setReg pgTim 0x1024 (BitVec.ofNat 32 c.time.now)).setReg pgTim 0x1028
        (BitVec.ofNat 32 (c.time.now / 2 ^ 32))).setFlag pgTim 0x1000 2 true))) ∧
    (c.flag pgTim 0x1000 0 = false → exec .ppsInEdge s = .next s) ∧
    (c.flag pgTim 0x1000 1 = true → (∃ k : Nat, c.time.wraps * 2 ^ 64 + c.time.now ≤ k * 256000000000 + 512 ∧
        k * 256000000000 ≤ c.time.wraps * 2 ^ 64 + c.time.now + 512) →
      exec .ppsOutSecond s = .next (s.put
      { c with time := { c.time with ppsUp := some (c.time.now + 256000000) } })) ∧
    (c.flag pgTim 0x1000 1 = false → exec .ppsOutSecond s = .next s)) ∧
  (∀ s : State, s.chip.serves pgTim = true →
    Yields .timeStepGo s (fun t =>
      t.time = { s.chip.time with
        now := (s.chip.reg pgTim 0x1018).toNat * 2 ^ 32 + (s.chip.reg pgTim 0x1014).toNat, frac := 0 } ∧
      Chip.raised s.chip t (evP pgTim 0x0507 (dieX 0) 0) ∧
      Chip.regsBut s.chip t [regKey pgTim 0x14 0, regKey pgTim 0x24 0, regKey pgTim 0x28 0, regKey pgFlt 0x100C 0,
        regKey pgSnp 0x1004 0, regKey pgSnp 0x1080 0] ∧
      (∀ d i, t.slot d i = if (t.time.now : Int) < (s.chip.slot d i).td
        then { s.chip.slot d i with evaluated := false } else s.chip.slot d i) ∧
      Chip.only [.regs, .time, .ev, .snap, .coach, .traf] s.chip t))

/-- The PTP servo (R441, R446). Clearing the count without an upstream clock, and the messages handed on at the interval,
are the model's (see the log); which correction firmware takes with no livery enabled is free. -/
def Obligations.ServoReportsAndCorrects : Prop :=
  ∀ (s : State) (offset : Int),
    let c := s.chip
    let good := if offset.natAbs ≤ 50 then c.time.servoGood + 1 else 0
    let locked := if 16 ≤ good then 1 else if 500 < offset.natAbs then 0 else c.field pgTim 0x102C 0 1
    let r := Chip.setReg
      { c with time := { c.time with servoGood := good }, out := { c.out with toM0 := [] } }
      pgTim 0x102C (BitVec.ofNat 32 (locked + 2 + min 0xFFFF offset.natAbs * 2 ^ 16))
    let units := max (-2 ^ 31) (min (2 ^ 31 - 1) (-256 * offset))
    c.serves pgTim = true → c.m0Up = true → c.fwState = stRunning →
    exec (.ptpServoUpdate offset false) s = .next (s.put
      { c.setFlag pgTim 0x102C 1 false with
        time := { c.time with servoGood := 0 }, out := { c.out with toM0 := [] } }) ∧
    (offset = 0 → exec (.ptpServoUpdate offset true) s = .next (s.put r)) ∧
    (offset ≠ 0 → (∃ l < 256, c.ttEnabled l = true) →
      exec (.ptpServoUpdate offset true) s = .next (s.put
        { r.setFlag pgTim 0x1000 3 true with
          time := { r.time with slew := units * 2 ^ 40 }, fresh := c.fresh + 1 })) ∧
    (offset ≠ 0 → (∀ l < 256, c.ttEnabled l = false) → Config.servoSteps c.fresh = true →
      Yields (.ptpServoUpdate offset true) s (fun t =>
        t.time.now = toCode 64 ((c.time.now : Int) - 256 * offset) ∧ t.time.frac = 0 ∧
        t.ev.placed = c.ev.placed + 1))

/-- SNAPSHOT_ARM and the triggers (R428, R429). Bits of SNP_STAT.SOURCES: 0 register, 1 pin, 2 slot. The fabric-time unit is
1/256 ns. A disabled pin or slot counts no miss: the model's reading (see the log).
The latch (R429, R482, R483). T_snap is met by the first latch command at or after it. That a page out of service keeps
its shadows is the model's reading (see the log). -/
def Obligations.SnapshotsAreTriggeredAndLatched : Prop :=
  (∀ s : State, s.chip.serves pgSnp = true → s.chip.m0Up = true →
    let c := s.chip
    let joins (i : Instr) (src : Nat) (at_ : Nat → Prop) : Prop :=
      (c.flag pgSnp 0x1000 0 = true → c.snap.due = none → ∃ t, at_ t ∧
        exec i s = .next (s.put { c.setReg pgSnp 0x1004 (BitVec.ofNat 32 (2 ^ src)) with
          snap := { c.snap with due := some t } })) ∧
      (c.flag pgSnp 0x1000 0 = true → c.snap.due ≠ none → exec i s = .next (s.put (c.setFlag pgSnp 0x1004 src true))) ∧
      (c.flag pgSnp 0x1000 0 = false → exec i s = .next (s.put (c.bump pgSnp 0x1080)))
    let ahead (t : Nat) : Prop :=
      t % 256 = 0 ∧ c.time.now + 512 * 256 ≤ t ∧ ∀ u, u % 256 = 0 → c.time.now + 512 * 256 ≤ u → t ≤ u
    exec .snapshotArm s = .next (s.put (c.setFlag pgSnp 0x1000 0 true)) ∧
    joins .snapshotTrigger 0 ahead ∧
    (c.flag pgSnp 0x1000 1 = true → joins .snapInEdge 1 ahead) ∧
    (c.flag pgSnp 0x1000 2 = true → c.slotMatches = true → joins .snapshotSlotMatch 2 (· = c.time.now / 65536 * 65536)) ∧
    (c.flag pgSnp 0x1000 1 = false → exec .snapInEdge s = .next s) ∧
    (c.flag pgSnp 0x1000 2 = false ∨ c.slotMatches = false → exec .snapshotSlotMatch s = .next s)) ∧
  (∀ s : State, s.chip.m0Up = true →
    let c := s.chip
    (∀ u, c.snap.due = some u → u ≤ c.time.now →
      Yields .snapshotLatch s (fun t =>
        t.snap.due = none ∧ t.time = { c.time with snpTime := u } ∧
        t.reg pgSnp 0x1008 = c.reg pgSnp 0x1008 + 1 ∧ t.flag pgSnp 0x1000 0 = false ∧
        (∀ p, (pageOf p).isSome = true → t.reg p 0x34 = c.reg pgSnp 0x1008 + 1) ∧
        t.snap.outUp = (if c.flag pgSnp 0x1000 5 then some (u + 25600) else c.snap.outUp) ∧
        Chip.raised c t (evP pgSnp 0x0A05 dieM 0) ∧
        (∀ p < 1024, ∀ w < 960, Tbl.get 0 t.snap.shadows (p * 1024 + w) =
          if (pageOf p).isSome && c.serves p && c.flag p 0x30 0 then c.view p (0x1000 + 4 * w)
          else Tbl.get 0 c.snap.shadows (p * 1024 + w)) ∧
        t.plane = c.plane)) ∧
    (∀ u, c.snap.due = some u → c.time.now < u → exec .snapshotLatch s = .next s) ∧
    (c.snap.due = none → exec .snapshotLatch s = .next s))

/-- SECURE_WIPE and WIPE_DONE (R344, R345), with what waited for the wipe (R344, R348, R350): writes of the store, which a
closed store does not take, a debug scope, and a transition, whose group of fuses is then programmed. wcHost is
LAST_CAUSE 4. -/
def Obligations.WipesStartAndEnd : Prop :=
  ∀ s : State, s.chip.serves pgSec = true → s.chip.standbyUp = true →
    let c := s.chip
    let idle := c.setFlag pgSec 0x1010 0 false
    let sec : SecSt := { c.sec with
      storeWaits := []
      store := if c.flag pgSec 0x1010 1 then c.sec.store
        else c.sec.storeWaits.foldl (fun m w => putBytes m w.1 w.2) c.sec.store }
    let closed := (idle.setFlag pgSec 0x1010 1 true).raise (evP pgSec 0x0702 dieM 0)
    exec .secureWipe s = .next (s.put { (c.setFlag pgSec 0x1010 0 true).setField pgSec 0x1010 3 3 4 with
      sec := { c.sec with store := [], wipePass := 0 } }) ∧
    (∀ z, c.flag pgSec 0x1010 0 = false → exec (.wipeDone z) s = .next s) ∧
    (c.flag pgSec 0x1010 0 = true →
      (c.sec.scopePending = none → c.sec.transition = none → exec (.wipeDone true) s =
        .next (s.put { idle with sec := sec })) ∧
      (∀ scope, c.sec.scopePending = some scope → c.sec.transition = none → exec (.wipeDone true) s = .next (s.put
        { idle.setReg pgSec 0x1018 (BitVec.ofNat 32 (scope.toNat * 256 + 1)) with
          sec := { sec with scopePending := none } })) ∧
      (∀ l o, c.sec.transition = some (l, o) → Yields (.wipeDone true) s (fun t =>
        t.sec.life = l ∧ t.sec.transition = none ∧ t.sec.ownerHash = (if l = 1 then o else c.sec.ownerHash) ∧
        t.sec.rootErased = (c.sec.rootErased || decide (l = 3)) ∧ t.sec.partGroup = true ∧ t.sec.programming = true ∧
        (c.sec.tap ≠ .other → t.flag pgSec 0x1010 0 = false ∧ t.sec.store = sec.store) ∧ t.plane = c.plane)) ∧
      (c.sec.wipePass = 0 → exec (.wipeDone false) s = .next (s.put { c with sec := { c.sec with wipePass := 1 } })) ∧
      (c.sec.wipePass ≠ 0 → c.sec.scopePending = none → c.sec.transition = none → exec (.wipeDone false) s =
        .next (s.after { closed with sec := { c.sec with storeWaits := [] } })) ∧
      (c.sec.wipePass ≠ 0 → c.sec.scopePending ≠ none → c.sec.transition = none → Yields (.wipeDone false) s (fun t =>
        t.sec.scopePending = none ∧ t.flag pgSec 0x1010 1 = true ∧ t.reg pgSec 0x1018 = c.reg pgSec 0x1018)))

/-- TAMPER_DETECT and TAP_INSTRUCTION (R347, R462). Debug is locked in PROVISIONED and DEPLOYED while scope bit 0
(SEC_DBG_STAT bit 8) is closed. What is derived and waits for a wipe, above keyBase in the store, is not stored. -/
def Obligations.TamperEventsWipeAndLock : Prop :=
  ∀ s : State,
    let watched (c : Chip) (src : Nat) : Prop :=
      if src < 2 then c.flag pgSec 0x100C src = true
      else if src = 6 then (c.sec.life = 1 ∨ c.sec.life = 2) ∧ c.flag pgSec 0x1018 8 = false else True
    let record (c : Chip) (src : Nat) : Chip :=
      ((c.setFlag pgSec 0x1004 src true).bump pgSec 0x1008).raise (evP pgSec 0x0701 dieM (2 ^ src))
    let react (c : Chip) : Chip :=
      { (((c.setFlag pgSec 0x1010 0 true).setField pgSec 0x1010 3 3 0).setFlag pgSec 0x1010 2 true) with
        sec := { c.sec with
          store := [], wipePass := 0, keyLock := true
          storeWaits := c.sec.storeWaits.filter (fun w => decide (w.1 < keyBase))
          checking := c.sec.checking.map fun k => { k with tampered := true } } }
    let answers (i : Instr) (c : Chip) (src : Nat) : Prop :=
      (watched c src → c.sec.life = 0 → exec i s = .next (s.after (record c src))) ∧
      (watched c src → c.sec.life ≠ 0 → exec i s = .next (s.after (react (record c src)))) ∧
      (¬ watched c src → exec i s = .next (s.put c))
    (s.chip.boot.vin3v3 = true →
      (∀ src : Fin 7, answers (.tamperDetect src) s.chip src.val) ∧
      (∀ ir : TapInstr, ir ≠ .other →
        exec (.tapInstruction ir) s = .next (s.put { s.chip with sec := { s.chip.sec with tap := ir } })) ∧
      answers (.tapInstruction .other) { s.chip with sec := { s.chip.sec with tap := .other } } 6) ∧
    (s.chip.boot.vin3v3 = false → (∀ src, exec (.tamperDetect src) s = .next s) ∧
      (∀ ir, exec (.tapInstruction ir) s = .next s))

/-- TOKEN_CHECK_DONE (R349): the checks in order, with SHA-384 and ECDSA P-384, and the action of an accepted token (R348,
R350). That OWNER_HASH is among the reserved fields of other tokens, and the order of 7 after 6, are the model's readings
(see the log).
TOKEN_CHALLENGE, TOKEN_SUBMIT and TOKEN_LOCK (R349, R350); byte 4w + j of the token is bits [8j+7:8j] of word w. Closing
debug under a test instruction is source 6 of R347. -/
def Obligations.TokensAreChallengedAndChecked : Prop :=
  (∀ s : State, s.chip.standbyUp = true →
    let c := s.chip
    (c.sec.checking = none → exec .tokenCheckDone s = .next s) ∧
    (∀ k, c.sec.checking = some k →
      let b (lo n : Nat) : List Byte := (k.token.drop lo).take n
      let ttype := natOfBE (b 6 1)
      let checks : List (Nat × Bool) :=
        [(1, natOfBE (b 0 4) = 0x4E4A544B && natOfBE (b 4 2) = 1 && (b 40 8).all (· = 0) &&
            (ttype = 2 || (b 48 48).all (· = 0)) && natOfBE (b 7 1) < (if ttype = 1 then 8 else 1)),
         (2, (c.sec.life, ttype) ∈ [(0, 2), (1, 1), (1, 3), (2, 1), (2, 4)]),
         (3, b 8 16 = bytesLE 16 c.sec.deviceId.toNat),
         (4, k.chal.map (fun x => bytesLE 16 x.toNat) = some (b 24 16)),
         (5, sha384 (b 96 96) = (if ttype = 2 then Config.provisioningKeyHash else c.sec.ownerHash)),
         (6, signatureValid (b 96 96) (sha384 (b 0 192)) (b 192 96)),
         (7, !k.tampered),
         (8, ttype = 1 || (List.range 256).all (fun l => !c.livValid l))]
      let result := ((checks.find? (fun q => !q.2)).map Prod.fst).getD 0
      let done := (c.setFlag pgSec 0x1024 0 false).setField pgSec 0x1024 8 4 result
      let wiping (cause : Nat) (scope : Option (BitVec 8)) (tr : Option (Nat × BitVec 384)) : Chip :=
        { ((done.setFlag pgSec 0x1010 0 true).setField pgSec 0x1010 3 3 cause).setFlag pgSec 0x1010 2 true with
          sec := { c.sec with
            checking := none, store := [], wipePass := 0, keyLock := true
            storeWaits := c.sec.storeWaits.filter (fun w => decide (w.1 < keyBase))
            scopePending := scope, transition := tr } }
      (result ≠ 0 → exec .tokenCheckDone s = .next (s.put { done with sec := { c.sec with checking := none } })) ∧
      (result = 0 → ttype = 1 → exec .tokenCheckDone s =
        .next (s.put (wiping 2 (some (BitVec.ofNat 8 (natOfBE (b 7 1)))) c.sec.transition))) ∧
      (result = 0 → ttype ≠ 1 → exec .tokenCheckDone s =
        .next (s.put (wiping 1 c.sec.scopePending (some (ttype - 1, bvBE 384 (b 48 48)))))))) ∧
  (∀ s : State, s.chip.serves pgSec = true →
    let c := s.chip
    let x := Config.challenge c.fresh
    exec .tokenChallenge s = .next (s.put
      { ((((c.setReg pgSec 0x1030 (x.extractLsb' 0 32)).setReg pgSec 0x1034 (x.extractLsb' 32 32)).setReg pgSec 0x1038
        (x.extractLsb' 64 32)).setReg pgSec 0x103C (x.extractLsb' 96 32)).setFlag pgSec 0x1024 1 true with
        fresh := c.fresh + 1 }) ∧
    (c.sec.checking ≠ none → exec .tokenSubmit s = .next s) ∧
    (c.sec.checking = none → ∃ k : TokenCheck, k.tampered = false ∧ k.token.length = 288 ∧
      (∀ w < 72, ∀ j < 4, k.token.getD (4 * w + j) 0 = (c.reg pgSec (0x1100 + 4 * w)).extractLsb' (8 * j) 8) ∧
      k.chal = (if c.flag pgSec 0x1024 1 then
        some (c.reg pgSec 0x103C ++ c.reg pgSec 0x1038 ++ c.reg pgSec 0x1034 ++ c.reg pgSec 0x1030) else none) ∧
      exec .tokenSubmit s = .next (s.put { (c.setFlag pgSec 0x1024 1 false).setFlag pgSec 0x1024 0 true with
        sec := { c.sec with checking := some k } })) ∧
    let opens : Prop := c.sec.tap = .other ∧ (c.sec.life = 1 ∨ c.sec.life = 2) ∧ c.flag pgSec 0x1018 8 = true
    (¬ opens → exec .tokenLock s = .next (s.put (c.setReg pgSec 0x1018 0))) ∧
    (opens → exec .tokenLock s = .next (s.after ((c.setReg pgSec 0x1018 0).tamper 6))))

/-- MBX_DOORBELL, MBX_RSP_CI_WRITE, MBX_BUSY_TIMEOUT, and the reply (R363, R364, R366). Vector 1 + q is queue q's (R376).
The time of its doorbell stands beside each request. A request leaves the ring when it is answered or started.
The answers without execution (R365, R366, R368, R373), and that an accepted index write leaves none of them waiting at
the front of its queue. -/
def Obligations.MailboxRingsTakeRequestsAndReplies : Prop :=
  (∀ (s : State) (q : Queue) (v : W32), s.chip.serves (pgMbx q.val) = true →
    let c := s.chip
    let n := v.toNat % 2 ^ 16
    let gap (a b : Nat) : Nat := (a + 2 ^ 16 - b) % 2 ^ 16
    let ix (off : Nat) : Nat := c.field (pgMbx q.val) off 0 16
    (64 < gap n (ix 0x1010) → exec (.mbxDoorbell q v) s = .next (s.put (c.setFlag (pgMbx q.val) 0x101C 9 true))) ∧
    (gap n (ix 0x1010) ≤ 64 →
      let ds := (Tbl.get [] c.fw.doorbells q.val).take (gap n (ix 0x1010))
      let bells := Tbl.set [] c.fw.doorbells q.val (ds ++ List.replicate (gap n (ix 0x1010) - ds.length) c.time.now)
      let rung : Chip := { c with fw := { c.fw with doorbells := bells } }
      exec (.mbxDoorbell q v) s =
        .next (s.after ((rung.setReg (pgMbx q.val) 0x100C (BitVec.ofNat 32 n)).settle q.val))) ∧
    (gap (ix 0x1014) (ix 0x1018) < gap n (ix 0x1018) →
      exec (.mbxRspCiWrite q v) s = .next (s.put (c.setFlag (pgMbx q.val) 0x101C 9 true))) ∧
    (gap n (ix 0x1018) ≤ gap (ix 0x1014) (ix 0x1018) → exec (.mbxRspCiWrite q v) s =
      .next (s.after ((c.setReg (pgMbx q.val) 0x1018 (BitVec.ofNat 32 n)).settle q.val))) ∧
    (c.m0Up = true → c.fwState = stRunning → c.canReply q.val = true → c.answerNow q.val = none →
      let due := 256000000 * max 1 (c.field (pgMbx q.val) 0x101C 0 8)
      (∀ t, c.time.running = true → (Tbl.get [] c.fw.doorbells q.val).head? = some t → c.time.now < t + due →
        exec (.mbxBusyTimeout q) s = .next s) ∧
      ((∀ t, (Tbl.get [] c.fw.doorbells q.val).head? = some t → t + due ≤ c.time.now) →
        exec (.mbxBusyTimeout q) s = .next (s.after ((c.answerOldest q.val 1
          (bytesLE 2 (c.qdepth q.val) ++ [if c.ev.taken < c.ev.placed then 2 else 0, 0])).settle q.val)))) ∧
    (∀ (h : BitVec 128) (status : Nat) (trunc : Bool) (body : List Byte), body.length ≤ 240 → status < 16 →
      let r := c.reply q.val h status trunc body
      let h' : BitVec 128 := (List.range 4).foldl (fun a w => a +
        (r.reg (pgMbx q.val) (0x6000 + 256 * (ix 0x1014 % 64) + 4 * w)).setWidth 128 * BitVec.ofNat 128 (2 ^ (32 * w))) 0
      r.field (pgMbx q.val) 0x1014 0 16 = (ix 0x1014 + 1) % 2 ^ 16 ∧
      fld h' 0 8 = fld h 0 8 ∧ fld h' 8 8 = 0 ∧ fld h' 16 48 = fld h 16 48 ∧ fld h' 64 16 = body.length ∧
      fld h' 80 9 = fld h 80 9 ∧ fld h' 89 2 = 1 + 2 * trunc.toNat ∧ fld h' 91 5 = 0 ∧ fld h' 96 32 = status ∧
      (∀ j < body.length, (r.reg (pgMbx q.val) (0x6000 + 256 * (ix 0x1014 % 64) + 4 * (4 + j / 4))).extractLsb'
        (8 * (j % 4)) 8 = body.getD j 0) ∧
      r.plane = c.plane ∧ r.house = c.house) ∧
    (c.takeRequest q.val).field (pgMbx q.val) 0x1010 0 16 = (ix 0x1010 + 1) % 2 ^ 16) ∧
  ((∀ (c : Chip) (q j : Nat),
    let h := c.reqHdr q j
    let rom := c.field (pgMbx 0) 0x1000 0 3 = 1
    let lo := if rom then 1 else (c.fw.image.getD 24 0).toNat
    let hi := if rom then 1 else (c.fw.image.getD 25 0).toNat
    let known : List Nat := if rom then [0x01, 0x02, 0x10, 0x11, 0x12, 0x13, 0x15]
      else [0x01, 0x02, 0x10, 0x11, 0x12, 0x13, 0x14, 0x15, 0x16, 0x20, 0x30]
    (rom ∧ q ≠ 0 → c.answerNow q j = some (6, [])) ∧
    (¬ (rom ∧ q ≠ 0) → fld h 0 8 < lo ∨ hi < fld h 0 8 → ∃ minor : Byte, (hi = 1 → minor = 0) ∧
      c.answerNow q j = some (2, [BitVec.ofNat 8 lo, BitVec.ofNat 8 hi, minor, 0])) ∧
    (¬ (rom ∧ q ≠ 0) → lo ≤ fld h 0 8 → fld h 0 8 ≤ hi →
      (c.fw.quiesced = true → c.answerNow q j = some (1, bytesLE 2 (c.qdepth q) ++ [1, 0])) ∧
      (c.fw.quiesced = false → fld h 16 16 ∉ known → c.answerNow q j = some (3, [])) ∧
      (c.fw.quiesced = false → fld h 16 16 ∈ known → c.answerNow q j = none))) ∧
  (∀ (s : State) (q : Queue) (v : W32), s.chip.serves (pgMbx q.val) = true →
    (v.toNat + 2 ^ 16 - s.chip.field (pgMbx q.val) 0x1010 0 16) % 2 ^ 16 ≤ 64 →
    Yields (.mbxDoorbell q v) s (fun t => t.canReply q.val = false ∨ t.answerNow q.val = none)))

/-- The eleven core opcodes (R368, with R362, R364, R370, R373, R425, R426). A command of an opcode starts a request that
can start, with those before it in its ring, and completes the oldest that is started; replies come in the order of these
commands. TRUNCATED is set for a MINOR above 0 (R365). The byte positions of the payload fields, and STATUS where several
checks fail, are the model's readings (see the log). -/
def Obligations.MailboxOpcodesAct : Prop :=
  ∀ (s : State) (q : Queue), s.chip.m0Up = true →
    let c := s.chip
    let form (i : Instr) (op len : Nat)
        (good : List Byte → (Nat → List Byte → (Chip → Chip) → Prop) → Prop) : Prop :=
      let is (x : Started) : Bool := decide (x.queue = q.val ∧ hdOpcode x.hdr = op)
      (c.mayReply q.val = false → exec i s = .next s) ∧
      (c.mayReply q.val = true → c.fw.started.any is = false →
        (c.faultWork = true ∨ c.hasRequest q.val op = false → exec i s = .next s) ∧
        (c.faultWork = false → 0 < c.waiting q.val → c.answerNow q.val = none → hdOpcode (c.reqHdr q.val) = op →
          exec i s = exec i { s with chip := { c.takeRequest q.val with fw := { (c.takeRequest q.val).fw with
            started := c.fw.started ++ [⟨q.val, c.reqHdr q.val, c.reqPayload q.val⟩] } } })) ∧
      (∀ x, c.mayReply q.val = true → c.fw.started.find? is = some x →
        let h := x.hdr
        let rest : Chip := { c with fw := { c.fw with started := dropFirst (fun y => decide (y = x)) c.fw.started } }
        let replies (status : Nat) (body : List Byte) (effect : Chip → Chip) : Prop :=
          exec i s = .next (s.after
            (((effect (rest.reply q.val h status (decide (0 < fld h 8 8)) body)).settle q.val).updateGo))
        (fld h 64 16 < len ∨ 240 < fld h 64 16 ∨ (fld h 8 8 = 0 ∧ fld h 64 16 ≠ len) → replies 4 [] id) ∧
        (len ≤ fld h 64 16 → fld h 64 16 ≤ 240 → (0 < fld h 8 8 ∨ fld h 64 16 = len) →
          (¬ (fld h 89 7 = 0 ∧ fld h 96 32 = 0) → replies 5 [] id) ∧
          (fld h 89 7 = 0 ∧ fld h 96 32 = 0 → good (x.payload.take len) replies)))
    let slotOf (b : List Byte) : Nat := natOfLE (b.take 1)
    let le (b : List Byte) (k n : Nat) : Nat := natOfLE ((b.drop k).take n)
    let running (k : Nat) : Prop := c.fw.slot = some k
    form (.getVersion q) 0x01 0 (fun _ replies => ∃ key minor : Byte,
      (c.field (pgMbx 0) 0x1000 0 3 ≠ 1 → key = c.fw.image.getD 6 0) ∧ (c.majMax = 1 → minor = 0) ∧
      replies 0 ([BitVec.ofNat 8 (c.field (pgMbx 0) 0x1000 16 6), key] ++
        bytesLE 4 (c.reg (pgMbx 0) 0x1004).toNat ++ [BitVec.ofNat 8 c.majMin, BitVec.ofNat 8 c.majMax, minor,
          BitVec.ofNat 8 (c.field (pgMbx 0) 0x1000 3 1), BitVec.ofNat 8 c.fw.fuseSvn,
          BitVec.ofNat 8 (c.field (pgMbx 0) 0x1000 4 2)]) (fun d => { d with fresh := d.fresh + 1 })) ∧
    form (.getStatus q) 0x02 0 (fun _ replies => replies 0 (bytesLE 4 (c.view (pgMbx 0) 0x1000).toNat ++
      bytesLE 4 (c.reg (pgMbx 0) 0x1020).toNat ++ bytesLE 2 (c.qdepth 0) ++ bytesLE 2 (c.qdepth 1) ++
      bytesLE 2 (c.qdepth 2) ++ bytesLE 2 (c.qdepth 3) ++ bytesLE 4 (c.slotWord 0) ++ bytesLE 4 (c.slotWord 1)) id) ∧
    form (.imgBegin q) 0x10 1 (fun b replies =>
      (1 < slotOf b → replies 5 [] id) ∧
      (slotOf b ≤ 1 → running (slotOf b) → replies 6 [] id) ∧
      (slotOf b ≤ 1 → ¬ running (slotOf b) →
        replies 0 [] (fun d => d.flashErase (slotOf b * 0x800000) 0x800000))) ∧
    (∀ data : List Byte, form (.imgWrite q data) 0x11 17 (fun b replies =>
      let bad := 1 < slotOf b ∨ le b 1 4 < 0x1000 ∨ 0x800000 < le b 1 4 + le b 5 4 ∨ le b 5 4 % 256 ≠ 0 ∨
        0x100000 < le b 5 4
      (bad → replies 5 [] id) ∧
      (¬ bad → running (slotOf b) ∨ c.slotState (slotOf b) ≠ .empty → replies 6 [] id) ∧
      (¬ bad → ¬ running (slotOf b) → c.slotState (slotOf b) = .empty →
        (data.length < le b 5 4 → replies 8 [] id) ∧
        (le b 5 4 ≤ data.length → replies 0 [] (fun d =>
          d.flashProgram (slotOf b * 0x800000 + le b 1 4) (data.take (le b 5 4))))))) ∧
    form (.imgVerify q) 0x12 1 (fun b replies =>
      let fits := c.slotValid (slotOf b) && c.hoFits (slotOf b)
      (1 < slotOf b → replies 5 [] id) ∧
      (slotOf b ≤ 1 → running (slotOf b) ∨ c.slotState (slotOf b) ≠ .empty → replies 6 [] id) ∧
      (slotOf b ≤ 1 → ¬ running (slotOf b) → c.slotState (slotOf b) = .empty →
        (fits = false → replies 7 [] id) ∧
        (fits = true → replies 0 (BitVec.ofNat 8 (ihSvn (c.slotHeader (slotOf b))) ::
          bytesLE 4 (ihBuildSeq (c.slotHeader (slotOf b)))) (fun d => d.writeSlotState (slotOf b) .ready)))) ∧
    form (.imgActivate q) 0x13 1 (fun b replies =>
      (1 < slotOf b → replies 5 [] id) ∧
      (slotOf b ≤ 1 → c.slotState (slotOf b) ≠ .ready ∨ c.fw.update ≠ none → replies 6 [] id) ∧
      (slotOf b ≤ 1 → c.slotState (slotOf b) = .ready → c.fw.update = none → replies 0 [] (fun d =>
        if d.field (pgMbx 0) 0x1000 0 3 = 1 then d.bootTry none [slotOf b] else d.updateStart (slotOf b)))) ∧
    form (.imgCommitSvn q) 0x14 0 (fun _ replies =>
      let svn := max c.fw.fuseSvn (ihSvn c.fw.image)
      let may := c.fw.update = none ∧ ∃ k, running k ∧ c.slotState k = .confirmed
      (¬ may → replies 6 [] id) ∧
      (may → replies 0 [BitVec.ofNat 8 svn] (fun d => { d with fw := { d.fw with fuseSvn := svn } }))) ∧
    form (.imgReject q) 0x15 1 (fun b replies =>
      let held := running (slotOf b) ∧ (c.fw.update ≠ none ∨
        (c.slotState (1 - slotOf b) ≠ .ready ∧ c.slotState (1 - slotOf b) ≠ .confirmed))
      (1 < slotOf b → replies 5 [] id) ∧
      (slotOf b ≤ 1 → held → replies 6 [] id) ∧
      (slotOf b ≤ 1 → ¬ held → replies 0 [] (fun d => d.writeSlotState (slotOf b) .rejected))) ∧
    form (.imgRevokeKey q) 0x16 1 (fun b replies =>
      (3 < slotOf b → replies 5 [] id) ∧
      (slotOf b ≤ 3 → ihKeyIdx c.fw.image ≤ slotOf b → replies 6 [] id) ∧
      (slotOf b ≤ 3 → slotOf b < ihKeyIdx c.fw.image → replies 0 [] (fun d =>
        { d with fw := { d.fw with revoked := d.fw.revoked ||| BitVec.ofNat 4 (2 ^ slotOf b) } }))) ∧
    form (.logRead q) 0x20 16 (fun b replies =>
      let newer (r : BitVec 256) : Bool := decide ((evSeqOf r + 2 ^ 32 - le b 0 4) % 2 ^ 32 < 2 ^ 31)
      let rs := ((c.logValidPages.flatMap c.logRecords).filter newer).take (le b 4 4)
      replies 0 (bytesLE 4 rs.length) (fun d =>
        { d with out := { d.out with dma := some (le b 8 8, rs.flatMap (fun r => bytesLE 32 r.toNat)) } })) ∧
    form (.telemCfg q) 0x30 17 (fun b replies =>
      let bad := le b 12 4 = 0 ∨ 1 < le b 16 1 ∨ le b 8 4 < 32 + 8 * counterRegs.length
      (bad → replies 5 [] id) ∧
      (¬ bad → replies 0 [] (fun d => { d with fw := { d.fw with
        telem := if le b 16 1 = 1 then some ⟨le b 0 8, le b 8 4, le b 12 4, 0⟩ else none } })))

/-- What programming and erasing do to each byte of the flash (R358). -/
def Obligations.FlashProgramsAndErases : Prop :=
  ∀ (c : Chip) (a n x k : Nat) (bs : List Byte),
    (∀ j < bs.length, (c.flashProgram a bs).flashByte (a + j) = c.flashByte (a + j) &&& bs.getD j 0) ∧
    (x < a ∨ a + bs.length ≤ x → (c.flashProgram a bs).flashByte x = c.flashByte x) ∧
    (c.flashErase a n).flashByte x = (if a ≤ x ∧ x < a + n then 0xFF else c.flashByte x) ∧
    (∀ before after : SlotState, c.slotState k = before →
      (before, after) ∈ [(.empty, .ready), (.ready, .trial), (.ready, .confirmed), (.trial, .confirmed),
        (.trial, .rejected), (.ready, .rejected), (.confirmed, .rejected), (.empty, .rejected)] →
      (c.writeSlotState k after).slotState k = after) ∧
    (c.flashProgram a bs) = { c with fw := { c.fw with flash := (c.flashProgram a bs).fw.flash } } ∧
    (c.flashErase a n) = { c with fw := { c.fw with flash := (c.flashErase a n).fw.flash } }

/-- M0_WATCHDOG_EXPIRY, CORE_WATCHDOG_EXPIRY and MGMT_SRAM_UE (R355, R356), and what a management reset is. CAUSE 5 is a
management reset by watchdog; the cause after an SRAM error in code is the model's reading (see the log). Outside code,
requests in progress are lost and the runtime data starts anew. -/
def Obligations.ManagementCoresRestart : Prop :=
  (∀ s : State, s.chip.m0Up = true → exec .m0WatchdogExpiry s = .next (s.after (s.chip.mgmtReset 5))) ∧
  (∀ (s : State) (core : Fin 4) (qs : List Queue), s.chip.m0Up = true →
    let c := s.chip
    let d := c.failStarted qs
    let last := Tbl.get none c.fw.coreLast core.val
    let marked := { d with fw := { d.fw with coreLast := Tbl.set none d.fw.coreLast core.val (some c.time.now) } }
    let fenced := (marked.setFlag (pgMbx 0) 0x1000 (6 + core.val) false).raise (evP (pgMbx 0) 0x0801 dieM core.val)
    (c.flag (pgMbx 0) 0x1000 (6 + core.val) = false → exec (.coreWatchdogExpiry core qs) s = .next s) ∧
    (c.flag (pgMbx 0) 0x1000 (6 + core.val) = true →
      ((∀ t, last = some t → t + 256000000000 ≤ c.time.now) →
        exec (.coreWatchdogExpiry core qs) s = .next (s.after marked)) ∧
      (∀ t, last = some t → c.time.now < t + 256000000000 →
        exec (.coreWatchdogExpiry core qs) s = .next (s.after
          (if fenced.field (pgMbx 0) 0x1000 6 4 = 0 then fenced.mgmtReset 5 else fenced))))) ∧
  (∀ (s : State) (bank : Fin 8) (word : BitVec 16), s.chip.m0Up = true →
    let c := s.chip
    let addr := bank.val * 0x100000 + word.toNat * 16
    let code := c.fw.region * 0x200000
    let inCode : Prop := code ≤ addr ∧ addr < code + min 0x200000 (ihLoadLen c.fw.image)
    let seen := (c.bump pgMemM 0x1108).raise (evP pgMemM 0x0402 dieM bank.val word.toNat)
    (c.fwState ≠ 2 → c.fwState ≠ 3 → exec (.mgmtSramUe bank word) s = .next (s.after seen)) ∧
    (c.fwState = 2 ∨ c.fwState = 3 →
      (inCode → exec (.mgmtSramUe bank word) s = .next (s.after (seen.mgmtReset 5))) ∧
      (¬ inCode → exec (.mgmtSramUe bank word) s = .next (s.after { seen.setField (pgMbx 0) 0x1000 4 2 2 with
        fw := { seen.fw with
          sram := zeroBytes c.fw.sram 0x400000 0x400000, started := []
          telem := none, telemSeq := 0, telemShed := 0, starts := c.fw.starts + 1 } })))) ∧
  (∀ (c : Chip) (cause : Nat), cause < 16 →
    let r := c.mgmtReset cause
    r.field pgPwr 0x1074 0 4 = cause ∧ c.ev.placed + 1 ≤ r.ev.placed ∧
    Tbl.get 0 r.ev.ring (c.ev.placed % 1024) = evRecord (evP (pgMbx 0) 0x0802 dieM 0) c.time.now c.ev.seq ∧
    (∀ q : Queue, ∀ off ∈ [0x100C, 0x1010, 0x1014, 0x1018], r.reg (pgMbx q.val) off = 0) ∧
    r.field (pgMbx 0) 0x1000 0 3 = 0 ∧ r.field (pgMbx 0) 0x1000 6 4 = 0xF ∧ r.reg pgSec 0x1018 = 0 ∧
    r.fw.bootWaiting = true ∧ r.fw.image = [] ∧ r.fw.update = none ∧ r.fw.started = [] ∧
    (c.sec.tap ≠ .other → r.ev.placed = c.ev.placed + 1 ∧ r.sec = c.sec) ∧ r.vault = c.vault ∧ r.plane = c.plane)

/-- BOOT_ROM_START (R361) and NEW_IMAGE_START (R370 to R372), and what the old image hands over (R370 step 2): the area reads
back under its format version and CRC. When a rolled-back boot adopts the area, the slot that the events name, and the
area's layout are the model's readings (see the log). -/
def Obligations.ImagesStartAdoptAndRollBack : Prop :=
  (∀ s : State, s.chip.standbyUp = true → s.chip.fw.bootWaiting = true →
    ¬ (s.chip.flag pgSec 0x1010 0 = true ∧ s.chip.field pgSec 0x1010 3 3 = 3) →
    let c := s.chip
    let may (k : Nat) : Prop := k < 2 ∧ (c.slotState k = .ready ∨ c.slotState k = .confirmed) ∧ c.slotValid k = true
    let rank (k : Nat) : Nat := ihSvn (c.slotHeader k) * 2 ^ 32 + ihBuildSeq (c.slotHeader k)
    ((∀ k, ¬ may k) → Yields .bootRomStart s (fun t =>
      t.fwState = 1 ∧ t.fw.bootWaiting = false ∧ t.fw.image = c.fw.image ∧
      Tbl.get 0 t.ev.ring ((t.ev.placed - 1) % 1024) =
        evRecord (evP (pgMbx 0) 0x0803 dieM 0) c.time.now ((c.ev.seq + (t.ev.placed - 1 - c.ev.placed)) % 2 ^ 32))) ∧
    (∀ k, may k → (∀ j, may j → rank j < rank k ∨ (rank j = rank k ∧ k ≤ j)) → Yields .bootRomStart s (fun t =>
      t.fwState = 2 ∧ t.fw.slot = some k ∧ t.fw.region = 0 ∧ t.fw.image = c.slotHeader k ∧
      t.field (pgMbx 0) 0x1000 3 1 = k ∧ t.field (pgMbx 0) 0x1000 16 6 = ihSvn (c.slotHeader k) % 64 ∧
      (t.reg (pgMbx 0) 0x1004).toNat = ihBuildSeq (c.slotHeader k) ∧ t.fw.bootWaiting = false ∧
      t.plane = c.plane))) ∧
  (∀ (s : State) (selfOk : Bool), s.chip.m0Up = true →
    let c := s.chip
    (c.fw.update = none ∨ c.fw.loaded = false ∨ c.sec.storeWaits ≠ [] → exec (.newImageStart selfOk) s = .next s) ∧
    (∀ k, c.fw.update = some k → c.fw.loaded = true → c.sec.storeWaits = [] →
      let fits := match c.handArea with
        | none => selfOk
        | some a => selfOk && a.crcOk && adopts (c.slotHeader k) a.format
      (fits = true → Yields (.newImageStart selfOk) s (fun t =>
        t.fw.flash = (c.writeSlotState k .confirmed).fw.flash ∧
        t.sec = { c.sec with store := zeroBytes c.sec.store 0 0x80000 } ∧
        t.fw.update = none ∧ t.fw.quiesced = false ∧ t.fw.slot = some k ∧ t.fw.image = c.slotHeader k ∧
        t.fw.region = 1 - c.fw.region ∧
        t.fw.telem = (match c.handArea with | none => none | some a => a.state.telem) ∧
        t.fwState = 2 ∧ t.field (pgMbx 0) 0x1000 4 2 = (if c.handArea = none then 2 else 1) ∧
        t.ev.placed = c.ev.placed + 1 ∧ t.plane = c.plane)) ∧
      (fits = false → Yields (.newImageStart selfOk) s (fun t =>
        t.fw.flash = (c.writeSlotState k .rejected).fw.flash ∧ t.sec = c.sec ∧
        t.fw.update = none ∧ t.fw.quiesced = false ∧ t.fw.slot = c.fw.slot ∧ t.fw.image = c.fw.image ∧
        t.fw.region = c.fw.region ∧
        t.fwState = 2 ∧
        t.field (pgMbx 0) 0x1000 4 2 = (if (c.handArea.map HandArea.crcOk).getD false then 3 else 2) ∧
        t.ev.placed = c.ev.placed + 1 ∧ t.plane = c.plane)))) ∧
  (∀ (c : Chip) (t : Telem), c.flag pgSec 0x1010 0 = false → c.flag pgSec 0x1010 1 = false →
    (c.fw.telem = none ∨ c.fw.telem = some t ∧
      t.base < 2 ^ 64 ∧ t.size < 2 ^ 32 ∧ t.period < 2 ^ 32 ∧ t.pos < 2 ^ 64) →
    c.fw.telemSeq < 2 ^ 32 → c.fw.telemShed < 2 ^ 32 →
    c.writeHandover.handArea =
      some ⟨ihHoOut c.fw.image, true, ⟨c.fw.telem, c.fw.telemSeq, c.fw.telemShed⟩⟩ ∧
    c.writeHandover = { c with sec := { c.sec with store := c.writeHandover.sec.store } } ∧
    ∀ a, 0x80000 ≤ a → Tbl.get 0 c.writeHandover.sec.store a = Tbl.get 0 c.sec.store a)

/-- FW_HEARTBEAT (R375), ERROR_LOG_COMMIT (R425), TELEMETRY_PERIOD (R426) and EVQ_INT_PAUSE_END (R424). -/
def Obligations.FirmwareWorksPeriodically : Prop :=
  ∀ s : State, s.chip.m0Up = true →
    let c := s.chip
    let size := 32 + 8 * counterRegs.length
    (c.fwState = 2 ∨ c.fwState = 3 → ∃ w : W32, fld w 0 8 + fld w 8 8 + fld w 16 8 ≤ 100 ∧ fld w 24 8 = 0 ∧
      exec .fwHeartbeat s = .next (s.put { (c.bump (pgMbx 0) 0x1008).setReg (pgMbx 0) 0x1020 w with
        fresh := c.fresh + 1 })) ∧
    (c.fwState ≠ 2 → c.fwState ≠ 3 → exec .fwHeartbeat s = .next s) ∧
    (c.fwState = 2 → Yields .errorLogCommit s (fun t =>
      t.ev.taken = c.ev.placed ∧ t.ev.placed = c.ev.placed + (c.ev.placed - 1024 - c.ev.taken) ∧ t.plane = c.plane)) ∧
    (c.fwState = 2 → c.fw.telem = none → ∀ produced, exec (.telemetryPeriod produced) s = .next s) ∧
    (∀ t, c.fwState = 2 → c.fw.telem = some t →
      let higher : Prop := c.ev.taken < c.ev.placed ∨ ∃ q ∈ [0, 1, 2, 3], 0 < c.waiting q ∧ c.answerNow q = none
      (∀ produced, produced = false ∨ higher →
        exec (.telemetryPeriod produced) s = .next (s.put { c.bump (pgMbx 0) 0x1024 with
          fw := { c.fw with telemShed := c.fw.telemShed + 1 } })) ∧
      (¬ higher → ∃ at_ rec, (t.pos + size ≤ t.size → at_ = t.pos) ∧ (t.size < t.pos + size → at_ = 0) ∧
        rec.length = size ∧ rec.take 4 = [0x10, 0, 0, 0] ∧
        exec (.telemetryPeriod true) s = .next (s.put { c with
          out := { c.out with dma := some (t.base + at_, rec) }
          fw := { c.fw with
            telem := some { t with pos := at_ + size }, telemSeq := c.fw.telemSeq + 1, telemShed := 0 } }))) ∧
    (c.ev.irqWait = false → exec .evqIntPauseEnd s = .next s) ∧
    (∀ t, c.ev.irqWait = true → c.ev.irqLast = some t → t + 256000 * max 1 (c.field pgFlt 0x1000 8 8) ≤ c.time.now →
      (c.flag pgFlt 0x1000 0 = false →
        exec .evqIntPauseEnd s = .next (s.put { c with ev := { c.ev with irqWait := false } })) ∧
      (c.flag pgFlt 0x1000 0 = true → exec .evqIntPauseEnd s = .next (s.put
        (Chip.msix { c with ev := { c.ev with irqWait := false, irqLast := some c.time.now } } 0))))

/-- RAIL_VSET_WRITE, RAIL_SLEW_DONE and RAIL_FAULT (R378 to R380, R392). A selector above 70 selects nothing. A rail
slews while its output is not at its setpoint.
RAIL_ILIM_CROSS, RAIL_ILIM_RELEASE, PHASE_HARD_LIMIT and PHASE_EVALUATION (R386, R393). A crossing puts the domain's
allowance below where it stood. Currents are in 1/64 A. Phases shed or with failed sensors are left out of the
comparison: the model's reading (see the log). -/
def Obligations.RailsSlewAndLimitTheirCurrents : Prop :=
  ((∀ (s : State) (v : W32), s.chip.serves pgPwr = true →
    let c := s.chip
    let r := c.field pgPwr 0x1020 0 7
    let n := v.toNat % 1024
    let refused : Prop := r = 70 ∨ n < (railRange r).1 ∨ (railRange r).2 < n ∨
      (56 ≤ r ∧ r < 60 ∧ ∃ d < 16, n < c.setpoint (24 + d))
    (70 < r → exec (.railVsetWrite v) s = .next s) ∧
    (r ≤ 70 → refused → exec (.railVsetWrite v) s = .next (s.after (c.setFlag pgPwr 0x1004 4 true))) ∧
    (r ≤ 70 → ¬ refused → Yields (.railVsetWrite v) s (fun t =>
      t.setpoint r = n ∧ t.railOut r = c.railOut r ∧
      ((t.view pgPwr 0x1030).getLsbD 9 = true ↔ (c.rail r).on = true ∧ c.railOut r ≠ n) ∧
      (24 ≤ r → r < 40 → (∃ x ∈ [56, 57, 58, 59], c.setpoint x < n) → ∀ x ∈ [56, 57, 58, 59], t.setpoint x = n) ∧
      (∀ x ≤ 70, x ≠ r → x ∉ [56, 57, 58, 59] → t.setpoint x = c.setpoint x ∧ t.rail x = c.rail x) ∧
      (r < 24 ∨ 40 ≤ r ∨ (∀ x ∈ [56, 57, 58, 59], n ≤ c.setpoint x) → ∀ x ≤ 70, x ≠ r → t.setpoint x = c.setpoint x) ∧
      Chip.only [.regs, .pwr] c t))) ∧
  (∀ (s : State) (r : Rail), s.chip.v0Up = true →
    let c := s.chip
    ((c.rail r.val).on = false ∨ (c.time.running = true ∧ c.railOut r.val ≠ c.setpoint r.val) →
      exec (.railSlewDone r) s = .next s) ∧
    ((c.rail r.val).on = true → (c.time.running = false ∨ c.railOut r.val = c.setpoint r.val) →
      Yields (.railSlewDone r) s (fun t =>
        t.slewing r.val = false ∧ t.railOut r.val = c.setpoint r.val ∧ (∀ x ≠ r.val, t.rail x = c.rail x) ∧
        Chip.only [.pwr] c t)) ∧
    ((c.rail r.val).on = false → exec (.railFault r) s = .next s) ∧
    ((c.rail r.val).on = true →
      exec (.railFault r) s = .next (s.after ((forAll (railsOf (dieOfRail r.val))
        ((c.raise (evP pgPwr 0x0904 dieV r.val)).setFlag pgPwr 0x1030 11 true r.val)
        (fun x c => c.removeRail x)).dieFail (dieOfRail r.val))) ∧
      Yields (.railFault r) s (fun t =>
        (dieOfRail r.val ≠ dieM → t.flt.failed.getLsbD (dieOfRail r.val) = true) ∧
        t.flag pgPwr 0x1030 11 r.val = true ∧ t.vault = c.vault ∧
        (∀ x ≤ 70, dieOfRail x = dieOfRail r.val → (t.rail x).on = false))))) ∧
  (∀ (s : State) (r : Rail), s.chip.v0Up = true →
    let c := s.chip
    (∀ d, railDomain r.val = some d →
      Yields (.railIlimCross r) s (fun t =>
        t.flag pgPwr 0x1030 10 r.val = true ∧ (t.reg pgPwr 0x1100) = c.reg pgPwr 0x1100 + 1 ∧
        Tbl.get none t.pwr.ilim r.val = some (min (Config.ilimRate c.fresh) (c.ilimAllow d - 1)) ∧
        Chip.only [.regs, .ev, .snap, .pwr, .fresh] c t) ∧
      Yields (.railIlimRelease r) s (fun t =>
        t.flag pgPwr 0x1030 10 r.val = false ∧ Tbl.get none t.pwr.ilim r.val = none ∧
        Chip.only [.regs, .ev, .snap, .pwr] c t) ∧
      exec (.phaseHardLimit r) s = .next s) ∧
    (railDomain r.val = none →
      exec (.railIlimCross r) s = .next s ∧ exec (.railIlimRelease r) s = .next s ∧
      exec (.phaseHardLimit r) s = .next (s.after ((c.bump pgPwr 0x1104).raise (evP pgPwr 0x0901 dieV r.val)))) ∧
    (∀ cur : List Nat, cur.length = railPhases r.val →
      let sum := cur.foldl (· + ·) 0
      let estimate := c.railEst r.val
      let load := if c.estimateOnly r.val then estimate else sum
      let inUse (k : Nat) : Bool := !c.shed r.val k && !(c.rail r.val).badSense.getLsbD k
      let count (k : Nat) : Nat := Tbl.get 0 (c.rail r.val).suspect k
      let seen := c.setReg pgPwr 0x1034
        (BitVec.ofNat 32 ((if c.estimateOnly r.val then 0 else min 65535 sum) + min 65535 estimate * 2 ^ 16)) r.val
      (load * 5 < railNominal r.val * 64 → exec (.phaseEvaluation r cur) s = .next (s.put seen)) ∧
      (railNominal r.val * 64 ≤ load * 5 → Yields (.phaseEvaluation r cur) s (fun t =>
        Chip.only [.regs, .ev, .snap, .pwr] c t ∧
        (∀ k < 8, c.shed r.val k = true → t.shed r.val k = true) ∧ (c.senseFail r.val = true → t.senseFail r.val = true) ∧
        ((∀ k < railPhases r.val, count k < 4) → t.ev = c.ev ∧ t.regs = seen.regs) ∧
        (∀ k < railPhases r.val, inUse k = true → 4 ≤ count k → (∀ j < railPhases r.val, j ≠ k → count j < 4) →
          let others := (List.range (railPhases r.val)).filter (fun j => j ≠ k && inUse j)
          let osum := others.foldl (fun a j => a + cur.getD j 0) 0
          others ≠ [] → 4 * cur.getD k 0 * others.length < osum →
          (2 * railPhases r.val - 1) * estimate ≤ 2 * railPhases r.val * osum →
          t.shed r.val k = true ∧ t.reg pgPwr 0x1108 = c.reg pgPwr 0x1108 + 1 ∧
          t.ev.placed = c.ev.placed + 1 ∧
          Tbl.get 0 t.ev.ring (c.ev.placed % 1024) = evRecord (evP pgPwr 0x0902 dieV r.val (2 ^ k)) c.time.now c.ev.seq)))))

/-- METER_UPDATE (R384, R385, R395, R401). Temperatures are in 1/8 °C: 800 is 100 °C, 840 is 105 °C, 920 is 115 °C. -/
def Obligations.MetersHoldTheAllowances : Prop :=
  ∀ s : State, s.chip.v0Up = true →
    let c := s.chip
    Yields .meterUpdate s (fun t =>
      Chip.only [.regs, .ev, .snap] c t ∧
      ∀ d < 17,
        let rate := (t.reg pgPwr 0x1044 d).toNat
        let floor := c.meterFloor d
        let top := c.meterMax d
        let temp := c.domainTemp d
        let free : Prop := (∀ r ∈ domainRails d, Tbl.get none c.pwr.ilim r = none) ∧ c.flag pgPwr 0x1000 0 = false ∧
          c.deepLimit d = none
        (c.pwr.vinLost = true ∨ c.pwr.tripped = true → rate = 0) ∧
        (c.pwr.vinLost = false → c.pwr.tripped = false →
          (free → temp < 800 → rate = top) ∧
          (free → 800 ≤ temp → temp ≤ 840 → rate = floor + (top - floor) * (840 - temp).toNat / 40) ∧
          (temp ≤ 840 → c.deepLimit d = none → floor ≤ rate ∧ rate ≤ top) ∧
          (840 < temp → rate ≤ max (floor / 8) (floor * (920 - temp).toNat / 80)) ∧
          (∀ n, c.deepLimit d = some n → rate ≤ n ∧ n ≤ floor - 1)) ∧
        (t.flag pgPwr 0x1048 0 d = true ↔ rate < floor) ∧ t.flag pgPwr 0x1048 5 d = c.pwr.vinLost)

/-- ESTIMATE_REFRESH, CALIBRATION_INTERVAL, BUDGET_CTRL_WRITE, BUDGET_BIN_START and HINT_HOLD_EXPIRY (R381, R382, R388 to
R390). A raw estimate is the counted activity and the static term. The power of a domain at a RATE is a Config constant. -/
def Obligations.BudgetsShareTheCap : Prop :=
  ∀ s : State, s.chip.v0Up = true → s.chip.serves pgPwr = true →
    let c := s.chip
    Yields .estimateRefresh s (fun t =>
      (∀ d < 32, let e := mkRat (c.actEnergy (c.act.due.filter (fun kv => decide (actDie kv.1 = d))) +
          c.lanesActive d * c.coeff d actSerdes) 1000000 + c.staticWatts d
        Tbl.get 0 t.pwr.estimate d = e ∧ Tbl.get 0 t.pwr.estSum d = Tbl.get 0 c.pwr.estSum d + e ∧
        Tbl.get 0 t.pwr.estN d = Tbl.get 0 c.pwr.estN d + 1) ∧
      t.act.due = [] ∧ t.act.work = c.act.work ∧ Chip.only [.pwr, .act] c t) ∧
    (∀ (die : Die) (cur : List Nat), Yields (.calibrationInterval die cur) s (fun t =>
      let e := c.estMean die.val
      let m := c.measuredPower die.val cur
      let x := c.calOf die.val
      let y := t.calOf die.val
      let held := (railsOf die.val).any c.senseFail
      y.pairs.length ≤ 16 ∧ y.pairs.getLast? = some (e, m) ∧
      (held = false → cur.length = (railsOf die.val).length →
        m = ratSum (((railsOf die.val).zip cur).map (fun p => mkRat (c.railOut p.1 * p.2) 64000))) ∧
      (held = true → y.gain = x.gain ∧ y.offset = x.offset) ∧
      (held = false → mkRat 80 100 ≤ y.gain ∧ y.gain ≤ mkRat 125 100 ∧
        -(nominalPower die.val / 10) ≤ y.offset ∧ y.offset ≤ nominalPower die.val / 10) ∧
      (∀ k ≠ die.val, t.calOf k = c.calOf k) ∧ t.pwr.estOnly.getLsbD die.val = false ∧
      Tbl.get 0 t.pwr.measured die.val = m ∧ Tbl.get 0 t.pwr.estN die.val = 0 ∧
      t.reg pgPwr 0x1010 = BitVec.ofNat 32 (min 8191
        (ratSum ((List.range 32).map (fun d => if d = die.val then m else Tbl.get 0 c.pwr.measured d))).floor.toNat) ∧
      c.regsBut t [regKey pgPwr 0x1010 0] ∧ Chip.only [.regs, .pwr] c t)) ∧
    (∀ v : W32, v &&& 0xFFF = c.reg pgPwr 0x1014 → exec (.budgetCtrlWrite v) s = .next s) ∧
    (∀ v : W32, v &&& 0xFFF ≠ c.reg pgPwr 0x1014 → Yields (.budgetCtrlWrite v) s (fun t =>
      t.reg pgPwr 0x1014 = v &&& 0xFFF ∧ t.flag pgPwr 0x1004 3 = false ∧ t.pwr.profile = [] ∧ t.pwr.curBin = none ∧
      t.pwr.binsLearned = 0 ∧ c.regsBut t [regKey pgPwr 0x1014 0, regKey pgPwr 0x1004 0] ∧
      Chip.only [.regs, .pwr] c t)) ∧
    (c.refLive = false → (∃ u, c.pwr.binLast = some u ∧ c.time.now < u + 256000) →
      exec .budgetBinStart s = .next (s.put { c with pwr := { c.pwr with curBin := none, binSum := [], binN := 0 } })) ∧
    (c.refLive = false → (∀ u, c.pwr.binLast = some u → u + 256000 ≤ c.time.now) →
      Yields .budgetBinStart s (fun t =>
        t.pwr.binLast = some c.time.now ∧ Chip.only [.regs, .ev, .snap, .pwr, .fresh] c t ∧
        ∃ w : Nat → Rat,
          let floorOf (d : Nat) : Rat := Config.wattsAt c.fresh d (c.meterFloor d)
          let need := ratSum ((List.range 17).map floorOf)
          let avail : Rat := (min 4200 (max 1000 (c.field pgPwr 0x100C 0 13)) : Nat) - c.seriesNow 17
          (∀ d < 17, Tbl.get none t.pwr.budget d = some (c.rateFor c.fresh d (w d)) ∧
            c.meterFloor d ≤ c.rateFor c.fresh d (w d) ∧ c.rateFor c.fresh d (w d) ≤ c.meterMax d) ∧
          (avail ≤ need → t.flag pgPwr 0x1004 1 = true ∧
            ∀ d < 17, w d = floorOf d ∧ c.rateFor c.fresh d (w d) = c.meterFloor d) ∧
          (need < avail → t.flag pgPwr 0x1004 1 = false ∧ ratSum ((List.range 17).map w) = avail ∧
            ∀ d < 17, floorOf d ≤ w d))) ∧
    (∀ d : CDie, Yields (.hintHoldExpiry d) s (fun t =>
      Tbl.get [] t.coach.hints d.val = (Tbl.get [] c.coach.hints d.val).filter (fun h => decide (c.time.now < h.until_)) ∧
      (∀ k ≠ d.val, Tbl.get [] t.coach.hints k = Tbl.get [] c.coach.hints k) ∧
      t = { c with coach := { c.coach with hints := t.coach.hints } }))

/-- CORNER_EVALUATION (R30), VIN12_LOSS (R396, R422) and LAST_GASP_PROGRAM (R422). Which die an exit names is the model's
reading (see the log). -/
def Obligations.CornerAndSupplyAreWatched : Prop :=
  ∀ s : State,
    let c := s.chip
    (∀ mv : List Nat, mv.length = 16 → (∀ v ∈ mv, v < 1024) → c.v0Up = true →
      Yields (.cornerEvaluation mv) s (fun t =>
        let low : Prop := ∃ d < 16, mv.getD d 0 < 680
        let hot : Prop := ∃ n, 8 ≤ n ∧ n < 28 ∧ 840 < c.junction n
        (t.flag pgPwr 0x1008 0 = true ↔ ¬ low ∧ ¬ hot) ∧ (t.flag pgPwr 0x1008 1 = true ↔ low) ∧
        (t.flag pgPwr 0x1008 2 = true ↔ hot) ∧
        (∀ d < 16, t.field pgPwr 0x1028 16 10 (24 + d) = mv.getD d 0) ∧
        t.ev.placed = c.ev.placed + (if t.flag pgPwr 0x1008 0 = c.flag pgPwr 0x1008 0 then 0 else 1) ∧
        (c.flag pgPwr 0x1008 0 = true → low ∨ hot → t.reg pgPwr 0x1118 = c.reg pgPwr 0x1118 + 1) ∧
        Chip.only [.regs, .ev, .snap] c t)) ∧
    (c.v0Up = true → c.flag pgPwr 0x1004 0 = false → exec .vin12Loss s = .next s) ∧
    (c.v0Up = true → c.flag pgPwr 0x1004 0 = true → Yields .vin12Loss s (fun t =>
      t.flag pgPwr 0x1004 0 = false ∧ t.pwr.vinLost = true ∧
      (∀ d < 17, t.reg pgPwr 0x1044 d = 0 ∧ t.flag pgPwr 0x1048 5 d = true) ∧
      ((∀ d < 16, c.liveCoaches d = []) →
        Tbl.get 0 t.ev.ring (c.ev.placed % 1024) = evRecord (evP pgPwr 0x0906 dieV 0) c.time.now c.ev.seq) ∧
      (∀ d < 16, ∀ i ∈ c.liveCoaches d, (t.slot d i).phase = .aborting) ∧
      (∃ bs, t.boot.gasp = some bs ∧ bs.length = 256 ∧ natOfLE (bs.take 4) = 0x4E4A4C47 ∧ gaspValid bs = true ∧
        natOfLE ((bs.drop 4).take 4) = (c.reg pgFlt 0x1018).toNat ∧
        natOfLE ((bs.drop 8).take 8) = c.time.now % 2 ^ 64) ∧
      t.vault = c.vault)) ∧
    (c.standbyUp = true →
      (∀ held, c.boot.gasp = none → exec (.lastGaspProgram held) s = .next s) ∧
      (∀ bs, c.boot.gasp = some bs →
        let gone : Chip := { c with boot := { c.boot with gasp := none } }
        exec (.lastGaspProgram false) s = .next (s.put gone) ∧
        exec (.lastGaspProgram true) s = .next (s.after (gone.flashProgram 0x3000000 bs).logCommit)))

/-- CAL_SAVE, CAL_SAVE_PERIODIC and CAL_SAVE_DONE (R397 to R399): what is saved gives every die its gain, its offset and
its coefficients back. -/
def Obligations.CalibrationIsSaved : Prop :=
  ∀ s : State, s.chip.serves pgPwr = true → s.chip.standbyUp = true →
    let c := s.chip
    let other := if c.flag pgPwr 0x1064 0 then 1 - c.field pgPwr 0x1064 1 1 else 0
    let base (k : Nat) : Nat := 0x1000000 + k * 0x10000
    (∀ i ∈ [Instr.calSave, Instr.calSavePeriodic],
      (c.fwState ≠ 2 ∨ c.fw.calSaving ≠ none → exec i s = .next s) ∧
      (c.fwState = 2 → c.fw.calSaving = none → Yields i s (fun t =>
        t.fw.calSaving = some other ∧ t.flag pgPwr 0x1064 2 = true ∧ c.regsBut t [regKey pgPwr 0x1064 0] ∧
        Chip.only [.regs, .fw] c t ∧
        (∀ a, t.flashByte a = if base other ≤ a ∧ a < base other + 0x10000 then 0xFF else c.flashByte a)))) ∧
    (∀ ok, c.fw.calSaving = none → exec (.calSaveDone ok) s = .next s) ∧
    (c.trimBytes.length = trimCount → c.calBody.length ≤ 65472 → ∀ d < 32,
      ((c.calUse c.calBody).calOf d).gain = (c.calOf d).gain ∧
      ((c.calUse c.calBody).calOf d).offset = (c.calOf d).offset ∧
      ∀ kind < 6, (c.calUse c.calBody).coeff d kind = c.coeff d kind) ∧
    (∀ k, c.fw.calSaving = some k →
      (∀ ok, ok = false ∨ 65472 < c.calBody.length → exec (.calSaveDone ok) s = .next (s.after (Chip.raise
        (Chip.setFlag { c.setFlag pgPwr 0x1064 2 false with fw := { c.fw with calSaving := none } } pgPwr 0x1064 3 true)
        (evP pgPwr 0x0909 dieV 0)))) ∧
      (k < 2 → c.calBody.length ≤ 65472 → (∀ a, base k ≤ a → a < base k + 0x10000 → c.flashByte a = 0xFF) → Yields (.calSaveDone true) s (fun t =>
        t.fw.calSaving = none ∧ t.flag pgPwr 0x1064 2 = false ∧ t.flag pgPwr 0x1064 0 = true ∧
        t.field pgPwr 0x1064 1 1 = k ∧ t.reg pgPwr 0x1068 = c.reg pgPwr 0x1068 + 1 ∧
        t.calSlot k = some ((t.reg pgPwr 0x1068).toNat, c.calBody) ∧
        (∀ a, a < base k ∨ base k + 0x10000 ≤ a → t.flashByte a = c.flashByte a) ∧
        Chip.only [.regs, .fw] c t)))

/-- THERMAL_SENSOR_READ (R400, R402). Readings and temperatures are in 1/8 °C. -/
def Obligations.SensorsThrottleAndTrip : Prop :=
  ∀ (s : State) (rs : List (BitVec 12)), s.chip.v0Up = true → rs.length = 256 →
    let c := s.chip
    let at_ (die k : Nat) : Int := (rs.getD (die * 8 + k) 0).toInt
    let sound (die : Nat) : Prop := ∀ k < 8, c.pwr.badSensors.getLsbD (die * 8 + k) = false ∧ -320 ≤ at_ die k ∧
      at_ die k ≤ 1200 ∧ ∀ j < 8, at_ die k - at_ die j ≤ 200
    Yields (.thermalSensorRead rs) s (fun t =>
      (∀ die < 32, c.powered die = true → sound die → ∃ k < 8, (∀ j < 8, at_ die j ≤ at_ die k) ∧
        t.junction die = at_ die k ∧ (t.flag pgThm 0x1008 12 die = true ↔ 800 ≤ at_ die k) ∧
        t.field pgThm 0x1008 16 4 die = 8) ∧
      (∀ die < 32, c.powered die = false → t.reg pgThm 0x1008 die = c.reg pgThm 0x1008 die) ∧
      (c.pwr.tripped = false →
        (∃ die < 32, c.powered die = true ∧ sound die ∧ (∃ k < 8, 920 ≤ at_ die k) ∧ 1 ≤ Tbl.get 0 c.pwr.hot die) →
        t.pwr.tripped = true ∧ (∀ r < 68, (t.rail r).on = false) ∧ (∀ d < 17, t.reg pgPwr 0x1044 d = 0) ∧
        t.flag pgThm 0x100C 1 = true) ∧
      ((∀ die < 32, c.powered die = true → sound die ∧ ∀ k < 8, at_ die k < 920) →
        t.pwr.tripped = c.pwr.tripped ∧ t.pwr.rails = c.pwr.rails ∧ t.flag pgThm 0x100C 1 = c.flag pgThm 0x100C 1) ∧
      Chip.only [.regs, .ev, .snap, .pwr] c t)

/-- LANE_FENCE, LANE_REPAIR and LANE_SPARE_TEST_DONE (R414, R415): clusters 80 to 83 are the spares (see the log). Events:
0x0106 EV_LANE_CLUSTER_FAIL, 0x0107 EV_LANE_REPAIRED, 0x0108 EV_LANE_SPARES_OUT; FLT_LANE_CTRL.AUTO_REPAIR is bit 0 at 0x1010. -/
def Obligations.LaneClustersAreFencedAndRepaired : Prop :=
  ∀ (s : State) (d : CDie) (k : Cluster),
    s.chip.mainUp = true → s.chip.serves pgFlt = true → s.chip.dieFailed (8 + d.val) = false →
    let c := s.chip
    let x := c.lanesAt d.val
    let ready (j : Nat) : Prop := x.tested.getLsbD j = false ∧ x.fenced.getLsbD j = false
    let waits : Prop := (k.val < 80 ∨ x.mapped.getLsbD k.val = true) ∧ x.fenced.getLsbD k.val = true ∧
      x.replaced.getLsbD k.val = false
    let rest (t : Chip) : Prop := Chip.only [.regs, .ev, .snap, .flt] c t ∧ ∀ e, e ≠ d.val → t.lanesAt e = c.lanesAt e
    (x.fenced.getLsbD k.val = true → exec (.laneFence d k) s = .next s) ∧
    (x.fenced.getLsbD k.val = false → Yields (.laneFence d k) s (fun t =>
      (∀ j < 84, (t.lanesAt d.val).fenced.getLsbD j = (x.fenced.getLsbD j || decide (j = k.val))) ∧
      (t.lanesAt d.val).mapped = x.mapped ∧ (t.lanesAt d.val).replaced = x.replaced ∧
      (c.flag pgFlt 0x1010 0 = false → (t.lanesAt d.val).target = x.target ∧
        Chip.raised c t (evP pgFlt 0x0106 (8 + d.val) k.val)) ∧
      (c.flag pgFlt 0x1010 0 = true → x.target = none → k.val < 80 → x.replaced.getLsbD k.val = false →
        (∃ j, 80 ≤ j ∧ j < 84 ∧ ready j) →
        (∃ j ≤ k.val, (t.lanesAt d.val).target = some j) ∧ Chip.raised c t (evP pgFlt 0x0106 (8 + d.val) k.val)) ∧
      rest t)) ∧
    (¬ waits ∨ x.target ≠ none → exec (.laneRepair d k) s = .next s) ∧
    (waits → x.target = none → (∃ j, 80 ≤ j ∧ j < 84 ∧ ready j) →
      exec (.laneRepair d k) s = .next (s.put (c.setLanes d.val { x with target := some k.val }))) ∧
    (waits → x.target = none → (∀ j, 80 ≤ j → j < 84 → ¬ ready j) →
      exec (.laneRepair d k) s = .next (s.after (c.raise (evP pgFlt 0x0108 (8 + d.val) k.val)))) ∧
    (∀ pass, x.target = none → exec (.laneSpareTestDone d pass) s = .next s) ∧
    (∀ m sp, x.target = some m → 80 ≤ sp → sp < 84 → ready sp → (∀ j, 80 ≤ j → j < sp → ¬ ready j) →
      (m < 84 → Yields (.laneSpareTestDone d true) s (fun t =>
        (t.lanesAt d.val).mapped.getLsbD sp = true ∧ (t.lanesAt d.val).tested.getLsbD sp = true ∧
        (t.lanesAt d.val).replaced.getLsbD m = true ∧ (t.lanesAt d.val).fenced = x.fenced ∧
        (c.flag pgFlt 0x1010 0 = false → (t.lanesAt d.val).target = none ∧
          Chip.raised c t (evP pgFlt 0x0107 (8 + d.val) m)) ∧ rest t)) ∧
      Yields (.laneSpareTestDone d false) s (fun t =>
        (t.lanesAt d.val).fenced.getLsbD sp = true ∧ (t.lanesAt d.val).mapped = x.mapped ∧
        (t.lanesAt d.val).replaced = x.replaced ∧
        ((∃ j, sp < j ∧ j < 84 ∧ ready j) → (t.lanesAt d.val).target = some m ∧ t.ev = c.ev) ∧
        ((∀ j, sp < j → j < 84 → ¬ ready j) → (t.lanesAt d.val).target = none ∧
          Chip.raised c t (evP pgFlt 0x0108 (8 + d.val) m)) ∧ rest t))

/-- COACH_DIE_UNRESPONSIVE and DIE_FAILED (R416, R417). Die numbers: 0 to 7 port dies, 8 to 23 coach dies, 24 to 27 crossbar
dies, 28 and 29 buffer dies, 30 M0, 31 V0. That the failure of M0 changes nothing is the model's choice (see the log). -/
def Obligations.DiesFail : Prop :=
  ∀ (s : State) (die : Die), s.chip.mainUp = true →
    let c := s.chip
    let idle (t : Chip) (l : Nat) : Prop := t.laneFlag l stIdle = true ∧ t.laneFlag l stHeld = false
    (c.dieFailed die.val = true → exec (.dieFailed die) s = .next s) ∧
    (die.val = 30 → exec (.dieFailed die) s = .next s) ∧
    (∀ d : CDie, die.val = 8 + d.val → exec (.coachDieUnresponsive d) s = exec (.dieFailed die) s) ∧
    (c.dieFailed die.val = false → die.val ≠ 30 → Yields (.dieFailed die) s (fun t =>
      (∀ j < 32, t.dieFailed j = (c.dieFailed j || decide (j = die.val))) ∧
      (t.flt.fatal = true ↔ 24 ≤ die.val ∧ die.val < 28 ∨ die.val = 31 ∨
        (8 ≤ die.val ∧ die.val < 24 ∧ ∀ d < 16, d + 8 ≠ die.val → c.dieFailed (d + 8) = true)) ∧
      (t.flt.fatal = true → ∀ l < 1024, idle t l) ∧
      (8 ≤ die.val → die.val < 24 → t.cch (die.val - 8) = CchDie.empty ∧ t.flag pgFlt 0x14 0 = true) ∧
      (die.val < 8 →
        (∀ p < 1024, p / 128 = die.val → c.enabled p = true →
          (t.egress p).queued = [] ∧ (t.egress p).tx = none ∧ t.link p = Link.reset) ∧
        (∀ k, k / 2048 = die.val → t.putCtr k = PutCtr.closed) ∧
        (∀ p, p / 128 = die.val → Tbl.get [] t.coach.openRecs p = [])) ∧
      (28 ≤ die.val → die.val < 30 →
        (∀ p, ∀ m ∈ (t.egress p).queued, ∀ r ∈ m.cells, r.bdie + 28 ≠ die.val) ∧
        (∀ u < 262144, t.cell (die.val - 28) u = Cell.reset)) ∧
      (24 ≤ die.val → die.val < 28 ∨ die.val = 31 → Chip.raised c t (evP pgFlt 0x0105 die.val 0)) ∧
      t.vault = c.vault ∧ t.time = c.time))

/-- DIGEST_BATCH_SEND, DIGEST_RECORDS_RX and DIGEST_UNMATCHED_TIMEOUT (R419, R420). A WINDOW of 0 acts as 1 µs. The record of
the first digest of a livery: bits [247:168] are the key and STEP, [167:161] and [63:0] the outcome, RSTAT and DIGEST.
TRAILER_STEP_CHECK and TRAILER_MODE_CHANGE (R421). MODE is bits [1:0] of FLT_PAIR_CTRL at 0x1100, 2 for trailer; CLEAN is
bits [31:16] and READY bit 1 of 0x110C. Which step is judged and which one promotes is the model's reading (see the log). -/
def Obligations.DigestsAreComparedAndTrailerStepsJudged : Prop :=
  ((∀ (s : State) (l : Liv) (q : Nat), s.chip.mainUp = true → s.chip.pairPort = some q →
    let c := s.chip
    let b := Tbl.get [] c.flt.digBatch l.toNat
    let sent : Chip := { c with flt := { c.flt with digBatch := Tbl.set [] c.flt.digBatch l.toNat (b.drop 32) } }
    let due : Prop := ∃ r rs, b = r :: rs ∧ (32 ≤ b.length ∨ r.written + 256000 ≤ c.time.now)
    (¬ due → exec (.digestBatchSend l) s = .next s) ∧
    (due → c.livPort l.toNat q = true → c.portUp q = true → exec (.digestBatchSend l) s = .next (s.after (sent.deliver q
      (Msg.made (mkHdr 3 7 l.toNat false 0 c.selfEid (36 + 32 * min 32 b.length) 0 0) (recordBytes ((b.take 32).map (·.word))) c.time.now none)))) ∧
    (due → c.livPort l.toNat q = true → c.portUp q = false →
      exec (.digestBatchSend l) s = .next (s.put (sent.bump pgRte 0x1804)))) ∧
  (∀ (s : State) (l : Liv), s.chip.flag pgFlt 0x1104 31 = false → exec (.digestBatchSend l) s = .next s) ∧
  (∀ (s : State) (p : LPort) (f : Frame) (age : Nat), s.chip.hears p.val f → hClass f.hdr = 3 → hSub f.hdr = 7 →
    s.chip.passes p.val f → s.chip.pairPort = some p.val → s.chip.field pgFlt 0x1100 0 2 ≠ 0 →
    s.chip.field pgFlt 0x1100 0 2 ≠ 3 →
    let h := (s.chip.heard p.val f).mirrorIn false none (Msg.arrived p.val f.hdr f.body (s.chip.time.now - age))
    exec (.digestRecordsRx p f age) s = .next (s.after (forAll (recordsOf 32 f.body) h (fun w c => c.digAdd w false)))) ∧
  (∀ (c : Chip) (w : BitVec 256) (own : Bool),
    let meets (r : DigRec) : Prop := r.own ≠ own ∧ fld r.word 168 80 = fld w 168 80
    let agree (r : DigRec) : Prop := fld r.word 161 7 = fld w 161 7 ∧ fld r.word 0 64 = fld w 0 64
    ((∀ r ∈ c.flt.digs, ¬ meets r) → c.flt.digs.length < 16384 →
      c.digAdd w own = { c with flt := { c.flt with digs := c.flt.digs ++ [⟨w, own, c.time.now⟩] } }) ∧
    ((∀ r ∈ c.flt.digs, ¬ meets r) → 16384 ≤ c.flt.digs.length →
      (c.digAdd w own).flt.digs = c.flt.digs ∧ (c.digAdd w own).reg pgFlt 0x1220 = c.reg pgFlt 0x1220 + 1) ∧
    ∀ pre r post, c.flt.digs = pre ++ r :: post → meets r → (∀ x ∈ pre, ¬ meets x) →
      let t := c.digAdd w own
      let mine := if own then w else r.word
      t.flt.digs = pre ++ post ∧
      (agree r → t.reg pgFlt 0x1214 = c.reg pgFlt 0x1214 + 1 ∧ t.ev = c.ev ∧ c.regsBut t [regKey pgFlt 0x1214 0]) ∧
      (¬ agree r → t.reg pgFlt 0x1218 = c.reg pgFlt 0x1218 + 1 ∧ t.reg pgFlt 0x1214 = c.reg pgFlt 0x1214 ∧
        Chip.raised c t (evC pgFlt 0x0A01 c.pairDie (dgLiv mine) (dgEntry mine) (dgStep mine) (dgChunk mine)) ∧
        t.flag pgFlt 0x1110 0 = true ∧
        (c.flag pgFlt 0x1110 0 = true → t.reg pgFlt 0x1110 = c.reg pgFlt 0x1110 ∧
          t.reg pgFlt 0x1114 = c.reg pgFlt 0x1114 ∧ t.reg pgFlt 0x1118 = c.reg pgFlt 0x1118) ∧
        (c.flag pgFlt 0x1110 0 = false → t.field pgFlt 0x1110 2 8 = dgLiv w ∧ t.field pgFlt 0x1110 10 16 = dgEntry w ∧
          t.reg pgFlt 0x1114 = dgStep w ∧ (t.reg pgFlt 0x1118).toNat = dgChunk w))) ∧
  (∀ s : State, s.chip.mainUp = true →
    let c := s.chip
    let old (r : DigRec) : Bool := decide (r.since + max 1 (c.field pgFlt 0x1100 16 16) * 256000 ≤ c.time.now)
    ((∀ r ∈ c.flt.digs, old r = false) → exec .digestUnmatchedTimeout s = .next s) ∧
    Yields .digestUnmatchedTimeout s (fun t =>
      t.flt.digs = c.flt.digs.filter (fun r => !old r) ∧
      t.reg pgFlt 0x121C = c.reg pgFlt 0x121C + BitVec.ofNat 32 (c.flt.digs.filter old).length ∧
      t.ev.placed = c.ev.placed + (c.flt.digs.filter old).length ∧
      Chip.only [.regs, .ev, .snap, .flt] c t))) ∧
  (∀ s : State, s.chip.mainUp = true →
    let c := s.chip
    let l := c.field pgFlt 0x1100 4 8
    let st := c.currentStep l - 2
    let unclean : Prop := (c.trailOf st).dirty = true ∨ ∃ r ∈ c.flt.digs, dgLiv r.word = l ∧ dgStep r.word = st
    let n := (c.field pgFlt 0x110C 16 16 + 1) % 65536
    let due : Prop := n = max 1 (c.field pgFlt 0x1108 0 16)
    (c.field pgFlt 0x1100 0 2 ≠ 2 ∨ c.ttEnabled l = false ∨ c.flt.trailJudged = some st →
      exec .trailerStepCheck s = .next s) ∧
    (c.field pgFlt 0x1100 0 2 = 2 → c.ttEnabled l = true → c.flt.trailJudged ≠ some st →
      Yields .trailerStepCheck s (fun t =>
        t.flt.trailJudged = some st ∧ t.trailOf st = TrailStep.none ∧ t.flt.digs = c.flt.digs ∧
        (unclean → t.field pgFlt 0x110C 16 16 = 0 ∧ Chip.raised c t (evC pgFlt 0x0A03 30 l 0 st 0)) ∧
        (¬ unclean → t.field pgFlt 0x110C 16 16 = n) ∧
        (¬ unclean → ¬ due → t.ev = c.ev ∧ t.flt.promoteDue = c.flt.promoteDue) ∧
        (¬ unclean → due → t.flag pgFlt 0x110C 1 = true ∧ Chip.raised c t (evV pgFlt 0x0A04 30 l) ∧
          t.flt.promoteDue = if c.flag pgFlt 0x1100 2 then some (st + 3) else c.flt.promoteDue) ∧
        Chip.only [.regs, .ev, .snap, .flt] c t)) ∧
    (c.flt.promoteDue = none ∨ c.field pgFlt 0x1100 0 2 ≠ 2 → exec .trailerModeChange s = .next s) ∧
    (∀ due, c.flt.promoteDue = some due → c.field pgFlt 0x1100 0 2 = 2 →
      ((c.currentStep l - due).toInt < 0 → exec .trailerModeChange s = .next s) ∧
      (0 ≤ (c.currentStep l - due).toInt → ∃ from_, (∀ b t cy, c.governs l due = some (b, t, cy) → from_ = t.toNat) ∧
        exec .trailerModeChange s = .next (s.put
          { c.setField pgFlt 0x1100 0 2 (if c.flag pgFlt 0x1100 3 then 1 else 0) with
            flt := { c.flt with promoteDue := none, suppressUntil := some from_ } }))))

/-- LEDGER_BATCH_SEND (R188): a frame leaves when 32 records wait or the oldest has waited 1 µs; sent count at 0x1414 of the TTB page, lost count at 0x1418; TTB_LIV_COLL0 at 0x1230. -/
def Obligations.LedgerBatchesLeaveOrAreLost : Prop :=
  ∀ (s : State) (d : CDie) (l : Liv), s.chip.mainUp = true → s.chip.dieFailed (8 + d.val) = false →
    let c := s.chip
    let b := c.ledgerBatch d.val l.toNat
    let n := min 32 b.length
    let taken := c.setLedgerBatch d.val l.toNat (b.drop 32)
    let eid := c.field pgTtb 0x1230 0 18 l.toNat
    let due : Prop := ∃ r rs, b = r :: rs ∧ (32 ≤ b.length ∨ r.written + 256000 ≤ c.time.now)
    (¬ due → exec (.ledgerBatchSend d l) s = .next s) ∧
    (∀ q, due → c.flag pgTtb 0x1230 31 l.toNat = true → c.livGroup l.toNat (dgOf eid) = true →
      c.lookup eid 3 = .port q → c.livPort l.toNat q = true →
      exec (.ledgerBatchSend d l) s = .next (s.after ((taken.deliver q
        (Msg.made (mkHdr 3 3 l.toNat false eid c.selfEid (36 + 32 * n) 0 7) (recordBytes ((b.take 32).map (·.word)))
          c.time.now (some (256 + 16 * d.val)))).bumpN
          pgTtb 0x1414 n))) ∧
    (due → c.flag pgTtb 0x1230 31 l.toNat = false → Yields (.ledgerBatchSend d l) s (fun t =>
      t.coach = taken.coach ∧ t.reg pgTtb 0x1418 = c.reg pgTtb 0x1418 + BitVec.ofNat 32 n ∧
      t.reg pgTtb 0x1414 = c.reg pgTtb 0x1414 ∧ Chip.only [.regs, .ev, .snap, .coach] c t))

/-- ABORT_WAVE_RX, ABORT_WAVE_REPEAT, ABORT_DRAIN_DONE and ABORT_MARK_EXPIRY (R130, R131, R409, R410). FLT counters: 0x1200 waves
sent, 0x1204 received, 0x1208 duplicates, 0x120C no entry. A wave may be mirrored first (R310). The conditions for NOENTRY are the model's reading (see the log). -/
def Obligations.AbortsSpreadAndDrain : Prop :=
  (∀ (s : State) (p : LPort) (f : Frame) (age : Nat), s.chip.hears p.val f → hClass f.hdr = 3 → hSub f.hdr = 0 →
    s.chip.passes p.val f →
    let m := Msg.arrived p.val f.hdr f.body (s.chip.time.now - age)
    let c := (s.chip.heard p.val f).mirrorIn false none m
    let w := waveOf (bvBE 256 (f.body.take 32))
    ((w.livery ≠ hLiv f.hdr ∨ c.serving w.livery w.entry w.step = none) →
      exec (.abortWaveRx p f age) s = .next (s.after (c.bump pgFlt 0x120C))) ∧
    ∀ sv, w.livery = hLiv f.hdr → c.serving w.livery w.entry w.step = some sv →
      (eLiv sv.ent ≠ w.livery → exec (.abortWaveRx p f age) s = .next (s.after (c.bump pgFlt 0x120C))) ∧
      ∀ o, eLiv sv.ent = w.livery → c.waveOwner sv.ent = some o →
        (c.hasMark o w.livery w.entry w.step = true → exec (.abortWaveRx p f age) s = .next (s.after
          (((c.bump pgFlt 0x1204).cross m (256 + o) p.val).2.bump pgFlt 0x1208))) ∧
        (c.hasMark o w.livery w.entry w.step = false → Yields (.abortWaveRx p f age) s (fun t =>
          t.hasMark o w.livery w.entry w.step = true ∧ t.reg pgFlt 0x1204 = c.reg pgFlt 0x1204 + 1 ∧
          t.reg pgFlt 0x1208 = c.reg pgFlt 0x1208 ∧ t.reg pgFlt 0x120C = c.reg pgFlt 0x120C ∧
          ∀ d < 16, ∀ i, (c.slot d i).livery = w.livery → (c.slot d i).entry = w.entry → (c.slot d i).step = w.step →
            ((c.slot d i).phase = .packing ∨
              ((c.slot d i).phase = .folding ∨ (c.slot d i).phase = .sealed) ∧ (c.time.now : Int) < (c.slot d i).td) →
            (t.slot d i).phase = .aborting ∧ (t.slot d i).cause = w.cause ∧ (t.slot d i).holdq = [] ∧
              (t.slot d i).outs = []))) ∧
  (∀ (s : State) (l : Liv) (e : BitVec 16) (st : W32), s.chip.mainUp = true →
    let c := s.chip
    let due (x : WaveRep) : Prop := x.livery = l.toNat ∧ x.entry = e.toNat ∧ x.step = st ∧ x.due ≤ c.time.now
    ((∀ x ∈ c.flt.waves, ¬ due x) → exec (.abortWaveRepeat l e st) s = .next s) ∧
    ∀ pre x post, c.flt.waves = pre ++ x :: post → due x → (∀ y ∈ pre, ¬ due y) →
      let ports := x.copies.flatMap (fun k => c.wavePorts (c.peerEnt k.1))
      Yields (.abortWaveRepeat l e st) s (fun t =>
        t.flt.waves = pre ++ post ∧
        t.reg pgFlt 0x1200 = c.reg pgFlt 0x1200 + BitVec.ofNat 32 (ports.filter (c.livPort l.toNat)).length)) ∧
  (∀ (s : State) (d : CDie) (i : Slot), s.chip.mainUp = true →
    let c := s.chip
    let x := c.slot d.val i.val
    (x.phase ≠ .aborting → exec (.abortDrainDone d i) s = .next s) ∧
    (x.phase = .aborting → Yields (.abortDrainDone d i) s (fun t =>
      (t.slot d.val i.val).phase = .free ∧ (t.slot d.val i.val).livery = x.livery ∧
      (t.slot d.val i.val).entry = x.entry ∧ (t.slot d.val i.val).step = x.step ∧
      (t.slot d.val i.val).chunk = x.chunk ∧ (t.slot d.val i.val).lastCause = x.lastCause ∧
      (t.slot d.val i.val).granules = [] ∧ (t.slot d.val i.val).accs = [] ∧
      (∀ u ∈ x.granules, t.unitOwner (8 + d.val) 0 u = 0) ∧
      (∀ e j, e ≠ d.val ∨ j ≠ i.val → t.slot e j = c.slot e j) ∧
      Chip.only [.regs, .ev, .snap, .coach, .pool, .bank, .act] c t)) ∧
    exec (.abortMarkExpiry d) s = .next (s.put (c.setCch d.val { c.cch d.val with
      marks := (c.cch d.val).marks.filter (fun m => decide ((c.time.now : Int) < m.td)) })))

/-- Steps 4 and 5 of R21 (R337, R338, R308), for the commands whose frames are not waybills: they act by the header, whatever
the tail of an unsequenced frame. A frame whose tail has not come stands in reception. Memory requests of a livery that
is torn down are answered besides (R308 step 5). -/
def Obligations.FramesThatFailTheirChecksStop : Prop :=
  ∀ (s : State) (p : LPort) (f : Frame) (age : Nat) (i : Instr),
    (i = .memoryFrame p f age ∧ hClass f.hdr = 1 ∧ isMcPut f.hdr = false ∧ isCtrCpl f = false ∨
      i = .memoryPut p f age ∧ isMcPut f.hdr = true ∨ i = .putCompletion p f age ∧ isCtrCpl f = true ∨
      i = .bulkFrame p f age ∧ hClass f.hdr = 2 ∨
      i = .controlFrameForward p f age ∧ hClass f.hdr = 3 ∧ 1 ≤ hSub f.hdr ∧ hSub f.hdr ≤ 4 ∨
      i = .resultFrame p f age ∧ hClass f.hdr = 0 ∧ 2 ≤ hSub f.hdr ∨
      i = .digestRecordsRx p f age ∧ hClass f.hdr = 3 ∧ hSub f.hdr = 7 ∨
      i = .abortWaveRx p f age ∧ hClass f.hdr = 3 ∧ hSub f.hdr = 0) →
    let c := s.chip
    let l := hLiv f.hdr
    (c.rxOn p.val = false ∨ c.narjo p.val = false ∨ c.linkUp p.val = false → exec i s = .next s) ∧
    (∀ k, c.hears p.val f → c.tornDown l = false → c.livCheck p.val f.hdr f.body false = k → k ≠ 0 →
      exec i s = .next (s.put (((c.heard p.val f).bump pgLiv 0x1020 l).setReg pgLiv 0x1024
        (BitVec.ofNat 32 (k + p.val * 0x10 + 0x80000000)) l))) ∧
    (c.hears p.val f → c.tornDown l = true → hClass f.hdr ≠ 1 → ¬ (hClass f.hdr = 3 ∧ hSub f.hdr < 2) →
      exec i s = .next (s.put ((c.heard p.val f).bump pgRte 0x1814))) ∧
    (∀ k, c.rxOn p.val = true → c.narjo p.val = true → c.linkUp p.val = true → hdrOk f.hdr = true →
      hdrClassOk f.hdr = true → hdrSequenced f.hdr = false → f.whole = true → f.buf.bad = none → tailOf f ≠ .good →
      c.tornDown l = false → c.livCheck p.val f.hdr f.body false = k → k ≠ 0 →
      exec i s = .next (s.put (((c.heard p.val f).bump pgLiv 0x1020 l).setReg pgLiv 0x1024
        (BitVec.ofNat 32 (k + p.val * 0x10 + 0x80000000)) l))) ∧
    (c.rxOn p.val = true → c.narjo p.val = true → c.linkUp p.val = true → f.whole = false →
      exec i s = .next (s.put (c.inReception p.val f)))

/-- MEMORY_FRAME, BULK_FRAME, CONTROL_FRAME_FORWARD and RESULT_FRAME (R21 steps 6 and 7, R274, R318, R324). Counters: RTE 0x1800
misses, 0x1804 down discards, 0x1810 held; LNK 0x1128 expired, 0x1100 header errors; TMG 0x1208 held by a flow shaper.
`atDispatch` is the flow lookup and the mirroring of the frame. -/
def Obligations.ForwardedFramesMeetTheirRoute : Prop :=
  ∀ (s : State) (p : LPort) (f : Frame) (age : Nat) (i : Instr),
    (i = .memoryFrame p f age ∧ hClass f.hdr = 1 ∧ isMcPut f.hdr = false ∧ isCtrCpl f = false ∨
      i = .bulkFrame p f age ∧ hClass f.hdr = 2 ∨
      i = .controlFrameForward p f age ∧ hClass f.hdr = 3 ∧ 1 ≤ hSub f.hdr ∧ hSub f.hdr ≤ 4 ∨
      i = .resultFrame p f age ∧ hClass f.hdr = 0 ∧ 2 ≤ hSub f.hdr) →
    s.chip.hears p.val f → s.chip.passes p.val f →
    let c := s.chip
    let h := c.heard p.val f
    let m := Msg.arrived p.val f.hdr f.body (c.time.now - age)
    let route := c.lookup (hDst f.hdr) (hClass f.hdr)
    let hit := (h.atDispatch m .good).1
    let g := (h.atDispatch m .good).2
    let x := hit.msg.hop
    let stageless : Prop := hClass f.hdr = 1 ∧ hSub f.hdr = 4 ∧ mStage (memHdrOf f.body) = 0
    let drains : Prop := (hClass f.hdr = 1 ∨ hClass f.hdr = 0) ∧ c.inDrain (hDst f.hdr) = true
    let lost (q : Nat) : Prop := route = .lost q ∨ hClass f.hdr = 1 ∧ q ∈ (c.lostOf (hLiv f.hdr)).ports
    let goes (k : Chip) (q : Nat) : Prop :=
      (lost q → exec i s = .next (s.after (k.holdLost q x))) ∧
      (¬ lost q → k.livPort (hLiv f.hdr) q = false → exec i s = .next (s.after (k.violation (hLiv f.hdr) 9 (some q)))) ∧
      (¬ lost q → k.livPort (hLiv f.hdr) q = true →
        let cuts : Prop := (hClass f.hdr = 1 ∨ hClass f.hdr = 2) ∧ k.mayCut q x = true
        (cuts → exec i s = .next (s.after (k.deliver q x))) ∧
        (¬ cuts → ∀ y k', k.holdWhole x q 1 = (y, k') →
          (∀ m', y = some m' → exec i s = .next (s.after (k'.deliver q m'))) ∧
          (y = none → exec i s = .next (s.after (k'.gapMsg q x)))))
    (stageless → exec i s = .next (s.put (h.bump (pgLnk (p.val / 128)) 0x1100))) ∧
    (¬ stageless → hMc f.hdr = true → exec i s = .next (s.after (h.replicate m .good true))) ∧
    (¬ stageless → hMc f.hdr = false →
      (drains → ∀ y k, h.holdWhole m 0 1 = (y, k) →
        (y = none → exec i s = .next (s.after k)) ∧
        (∀ m' d, y = some m' → k.rte.drain = some d → exec i s = .next (s.after
          ((k.bump pgRte 0x1810).setDrain (some { d with held := d.held ++ [m'] }))))) ∧
      (¬ drains →
        (route = .miss → exec i s = .next (s.put (h.bump pgRte 0x1800))) ∧
        (route = .down → exec i s = .next (s.put (h.bump pgRte 0x1804))) ∧
        (route = .self → exec i s = .next (s.after { g with out := { g.out with toM0 := g.out.toM0 ++ [hit.msg] } })) ∧
        ∀ q, route = .port q ∨ route = .lost q →
          (hHops f.hdr = 0 → exec i s = .next (s.put (h.bump (pgLnk (p.val / 128)) 0x1128))) ∧
          (hHops f.hdr ≠ 0 →
            (hit.shaper = none → goes g q) ∧
            (∀ n, hit.shaper = some n →
              let d := p.val / 128
              let waits : Prop := ∃ z ∈ g.traf.flowHeld, z.pdie = d ∧ z.dest = n
              (g.shaperOpen d (flowShaper n) = true → ¬ waits →
                goes (g.shaperTake d (flowShaper n) (x.flowLen + g.overhead q)) q) ∧
              (g.shaperOpen d (flowShaper n) = false ∨ waits → ∀ y k', g.holdWhole x q 1 = (y, k') →
                (∀ m', y = some m' → exec i s = .next (s.after { k'.bump (pgTmg d) 0x1208 with
                  traf := { k'.traf with flowHeld := k'.traf.flowHeld ++ [⟨d, n, q, m', none⟩] } })) ∧
                (y = none → exec i s = .next (s.after (k'.gapMsg q x))))))))

/-- MEMORY_PUT, PUT_COMPLETION and PUT_COUNTER_TIMEOUT (R147 to R152). PRT counters: 0x1800 opened, 0x1804 refused, 0x1808
partial, 0x180C unmatched. A put that a flow shaper holds has no branches yet (R324). The order of the refusals is the
model's (see the log). -/
def Obligations.MemoryPutsAreCountedHome : Prop :=
  (∀ (s : State) (p : LPort) (f : Frame) (age : Nat), isMcPut f.hdr = true → s.chip.hears p.val f → s.chip.passes p.val f →
    let c := s.chip
    let h := c.heard p.val f
    let mh := memHdrOf f.body
    let die := p.val / 128
    let e := c.group (hGroup f.hdr)
    (mStage mh = 0 → exec (.memoryPut p f age) s = .next (s.put (h.bump (pgLnk die) 0x1100))) ∧
    (mStage mh ≠ 0 → gpValid e = false → exec (.memoryPut p f age) s = .next (s.put (h.bump pgRte 0x1800))) ∧
    (mStage mh ≠ 0 → gpValid e = true → hHops f.hdr = 0 →
      exec (.memoryPut p f age) s = .next (s.put (h.bump (pgLnk die) 0x1128))) ∧
    (mStage mh ≠ 0 → hHops f.hdr ≠ 0 →
      (gpValid e = true → c.putKeyOpen die (hLiv f.hdr) (hSrc f.hdr) (mTag mh) = true →
        exec (.memoryPut p f age) s = .next (s.after (h.putRefuse p.val f 3))) ∧
      (gpValid e = true → c.putKeyOpen die (hLiv f.hdr) (hSrc f.hdr) (mTag mh) = false →
        (∀ k, h.allocUnits die 4 (hLiv f.hdr) 1 = (none, k) →
          exec (.memoryPut p f age) s = .next (s.after (k.putRefuse p.val f 2))) ∧
        (∀ n k, h.allocUnits die 4 (hLiv f.hdr) 1 = (some [n], k) → Yields (.memoryPut p f age) s (fun t =>
          let x := t.putCtr (die * 2048 + n)
          t.reg (pgPrt die) 0x1800 = c.reg (pgPrt die) 0x1800 + 1 ∧
          (x.busy = true → x.livery = hLiv f.hdr ∧ x.srcEid = hSrc f.hdr ∧ x.tag = mTag mh ∧ x.stage = mStage mh ∧
            x.arrPort = p.val ∧ x.inCtr = mCtr mh ∧ x.answered = 0 ∧ x.arrived = 0 ∧ x.failed = 0 ∧
            x.expected = gpMembers e ∧ x.opened = c.time.now ∧
            (0 < x.branches ∨ ∃ y ∈ t.traf.flowHeld, y.put = some (die * 2048 + n))) ∧
          (x.busy = false → x = PutCtr.closed)))))) ∧
  (∀ (s : State) (p : LPort) (f : Frame) (age : Nat), isCtrCpl f = true → s.chip.hears p.val f → s.chip.passes p.val f →
    let c := s.chip
    let h := ((c.heard p.val f).atDispatch (Msg.arrived p.val f.hdr f.body (c.time.now - age)) .good).2
    let n := mCtr (memHdrOf f.body)
    let b : BitVec 128 := bvBE 128 (slice f.body 32 16)
    let x := c.putCtr n
    let arrived := x.arrived + fld b 50 18
    let failed := x.failed + fld b 32 18
    let fits : Prop := x.busy = true ∧ fld b 112 16 = x.tag ∧ fld b 94 18 = x.srcEid ∧ fld b 86 8 = x.livery ∧
      hLiv f.hdr = x.livery
    let x' := { x with answered := x.answered + 1, arrived := arrived, failed := failed }
    let freed := ((h.setPutCtr n x').setPutCtr n PutCtr.closed).releaseUnit (n / 2048) 4 (n % 2048)
    (¬ fits → exec (.putCompletion p f age) s = .next (s.after (h.bump (pgPrt (p.val / 128)) 0x180C))) ∧
    (fits → x.answered + 1 < x.branches → exec (.putCompletion p f age) s = .next (s.after (h.setPutCtr n x'))) ∧
    (fits → x.branches ≤ x.answered + 1 →
      (arrived = x.expected → failed = 0 → exec (.putCompletion p f age) s = .next (s.after (freed.putAnswer x.livery
        x.srcEid x.tag x.stage x.arrPort x.inCtr x.tc (putBody x.tag x.srcEid x.livery x.expected arrived failed 0)))) ∧
      (arrived ≠ x.expected ∨ failed ≠ 0 → exec (.putCompletion p f age) s = .next (s.after
        ((freed.bump (pgPrt (n / 2048)) 0x1808).putAnswer x.livery x.srcEid x.tag x.stage x.arrPort x.inCtr x.tc
          (putBody x.tag x.srcEid x.livery x.expected arrived failed 1)))))) ∧
  (∀ (s : State) (d : PDie) (n : Fin 2048), s.chip.mainUp = true →
    let c := s.chip
    let k := d.val * 2048 + n.val
    let x := c.putCtr k
    let due : Prop := x.opened + min 1000 (max 1 (c.field pgLiv 0x1004 16 10 x.livery)) * 256000 / 2 ^ (x.stage - 1) ≤
      c.time.now
    (x.busy = false ∨ ¬ due → exec (.putCounterTimeout d n) s = .next s) ∧
    (x.busy = true → due → x.answered < x.branches → exec (.putCounterTimeout d n) s = .next (s.after
      ((((c.setPutCtr k PutCtr.closed).releaseUnit d.val 4 n.val).bump (pgPrt d.val) 0x1808).putAnswer x.livery x.srcEid
        x.tag x.stage x.arrPort x.inCtr x.tc (putBody x.tag x.srcEid x.livery x.expected x.arrived x.failed 1)))))

/-- ETHERNET_FRAME (R256, R265, R277, R280, R302 to R304) for frames that are not routed. The VLAN entry is RTE_VLAN_CFG at 0x150C: LIVERY [7:0], GROUP
[21:8], drop unknown 22, VALID 31. How such a frame is held, and PTP over UDP, are the model's readings (see the log). -/
def Obligations.EthernetFramesAreBridged : Prop :=
  ∀ (s : State) (p : LPort) (bs : List Byte) (fec : Nat) (buf : BufRead) (age : Nat),
    let c := s.chip
    let fits : Prop := 64 ≤ bs.length ∧ bs.length ≤ 9216
    let good : Prop := fits ∧ fec = 0 ∧
      crc32 (bs.take (bs.length - 4)) = BitVec.ofNat 32 (natOfLE (bs.drop (bs.length - 4)))
    let pg := pgLnk (p.val / 128)
    let tci := c.ethTci p.val bs
    let vlan := c.reg pgRte 0x150C (tci % 4096)
    let l := fld vlan 0 8
    let g := fld vlan 8 14
    let tc := c.field (pgTmg (p.val / 128)) 0x100C (tci / 8192 * 4) 4 (p.val % 128)
    let msg (mc : Bool) (dst : Nat) : Msg :=
      { Msg.arrived p.val (mkHdr 2 0 l mc dst c.selfEid (bs.length + 36) tc 7) bs (c.time.now - age) with
        eth := true, tci := some tci }
    let known := c.addrFind (1 + tci % 4096 * 4 + dstMac bs * 2 ^ 32)
    let run := exec (.ethernetFrame p bs fec true buf age) s
    let met := (c.received p.val (if vlan.getLsbD 31 then l else noLivery) bs.length).bumpN pg 0x110C fec
    let h := met.bumpN (pgMem (dieP (p.val / 128))) 0x1104 buf.corrected
    let group : Prop := dstMac bs / 2 ^ 40 % 2 = 1
    let toRouter : Prop := dstMac bs = c.routerMac ∧ (etherType bs = 0x0800 ∨ etherType bs = 0x86DD)
    (∀ whole, c.ethRx p.val = false → exec (.ethernetFrame p bs fec whole buf age) s = .next s) ∧
    (c.ethRx p.val = true →
      exec (.ethernetFrame p bs fec false buf age) s = .next (s.put (c.inReception p.val ⟨0, bs, 0, fec, false, buf⟩)) ∧
      (¬ fits → run = .next (s.put (met.bump pg 0x112C))) ∧
      (fits → etherType bs = 0x8808 → (∀ k, ethTail bs fec = .tailboard k → run = .next (s.put (met.bump pg 0x1110))) ∧
        ∀ k, ethTail bs fec = .bad k → run = .next (s.put (met.bump pg 0x1108))) ∧
      (good → etherType bs = 0x8808 → natOfBE (slice bs 14 2) = 1 → run = .next (s.put (met.bump pg 0x113C))) ∧
      (good → buf.bad = none →
        (etherType bs ≠ 0x8808 → isPtp bs = true → Yields (.ethernetFrame p bs fec true buf age) s (fun t =>
          ∃ m ans, m.body = bs ∧ m.inPort = p.val ∧ m.eth = true ∧ t.out.toM0 = c.out.toM0 ++ [m] ∧
            (t.egress p.val).ctl = (c.egress p.val).ctl ++ ans ∧ ans.length ≤ 1 ∧ (c.fwState ≠ 2 → ans = []) ∧
            (∀ a ∈ ans, hClass a.hdr = 3 ∧ hSub a.hdr = 5 ∧ a.eth = true) ∧
            Chip.only [.regs, .port, .traf, .act, .out, .fresh] c t)) ∧
        (etherType bs ≠ 0x8808 → isPtp bs = false →
          (vlan.getLsbD 31 = false → run = .next (s.put (h.bump pgRte 0x1800))) ∧
          (vlan.getLsbD 31 = true → c.tornDown l = true → run = .next (s.put (h.bump pgRte 0x1814))) ∧
          (vlan.getLsbD 31 = true → c.tornDown l = false → c.livValid l = false →
            run = .next (s.put (h.violation l 1 (some p.val)))) ∧
          (vlan.getLsbD 31 = true → c.tornDown l = false → c.livValid l = true →
            (c.livPort l p.val = false → run = .next (s.put (h.violation l 2 (some p.val)))) ∧
            (c.livPort l p.val = true → c.livPermit l 2 = false → run = .next (s.put (h.violation l 3 (some p.val)))) ∧
            (c.livPort l p.val = true → c.livPermit l 2 = true → ¬ toRouter →
              (∀ e, ¬ group → known = some e →
                (c.livGroup l (fld e 160 18 / 64) = true →
                  run = .next (s.after (h.forward (msg false (fld e 160 18)) .good false))) ∧
                (c.livGroup l (fld e 160 18 / 64) = false → run = .next (s.put (h.violation l 5 (some p.val))))) ∧
              (¬ group → known = none → vlan.getLsbD 22 = true → run = .next (s.put (h.bump pgRte 0x1800))) ∧
              (group ∨ known = none ∧ vlan.getLsbD 22 = false →
                (c.livMc l g = true → run = .next (s.after (h.replicate (msg true g) .good false))) ∧
                (c.livMc l g = false → run = .next (s.put (h.violation l 6 (some p.val))))))))))

/-- CELL_REFCOUNT_DECREMENT (R211, R212) and FLOW_SHAPER_RELEASE (R324). POL counters of the buffer die: 0x1114 refcount errors,
0x1118 quarantines. That a released frame meets its port as it is then is the model's reading (see the log). -/
def Obligations.CellsAndHeldFramesAreReleased : Prop :=
  (∀ (s : State) (b : BDie) (u : BitVec 18) (gen : BitVec 16), s.chip.mainUp = true → s.chip.dieFailed (28 + b.val) = false →
    let c := s.chip
    let x := c.cell b.val u.toNat
    let pg := pgPolB b.val
    let others (t : Chip) : Prop := ∀ d w, d * 262144 + w ≠ b.val * 262144 + u.toNat → t.cell d w = c.cell d w
    let run := exec (.cellRefcountDecrement b u gen) s
    let h := c.txRead ⟨b.val, u.toNat, gen.toNat⟩
    (x.gen ≠ gen.toNat ∨ x.quarantined = true → run = .next (s.after
      ((h.bump pg 0x1114).raise (evT pg 0x0407 (28 + b.val) (x.lastOwner % 256) 3)))) ∧
    (x.gen = gen.toNat → x.quarantined = false →
      (2 ≤ x.refs → run = .next (s.put (h.setCell b.val u.toNat { x with refs := x.refs - 1 }))) ∧
      (x.refs = 1 → Yields (.cellRefcountDecrement b u gen) s (fun t =>
        t.cell b.val u.toNat = { x with refs := 0 } ∧ t.unitOwner (28 + b.val) 3 u.toNat = 0 ∧ others t ∧
        t.traf = h.traf ∧ Chip.only [.regs, .ev, .snap, .pool, .traf, .act, .bank] c t)) ∧
      (x.refs = 0 → Yields (.cellRefcountDecrement b u gen) s (fun t =>
        t.cell b.val u.toNat = { x with quarantined := true } ∧ others t ∧
        t.reg pg 0x1114 = c.reg pg 0x1114 + 1 ∧ t.reg pg 0x1118 = c.reg pg 0x1118 + 1 ∧
        t.ev.placed = c.ev.placed + 1)))) ∧
  (∀ (s : State) (d : PDie) (n : Fin 512), s.chip.mainUp = true →
    let c := s.chip
    let mine (x : Diverted) : Prop := x.pdie = d.val ∧ x.dest = n.val
    let run := exec (.flowShaperRelease d n) s
    ((∀ x ∈ c.traf.flowHeld, ¬ mine x) ∨ c.shaperOpen d.val (flowShaper n.val) = false → run = .next s) ∧
    (∀ pre x post, c.traf.flowHeld = pre ++ x :: post → (∀ y ∈ pre, ¬ mine y) → mine x →
      c.shaperOpen d.val (flowShaper n.val) = true →
      let t := Chip.shaperTake { c with traf := { c.traf with flowHeld := pre ++ post } } d.val (flowShaper n.val)
        (x.msg.flowLen + c.overhead x.lport)
      let mem : Prop := hClass x.msg.hdr = 1
      let lost : Prop := x.lport ∈ (c.lostOf (hLiv x.msg.hdr)).ports
      let single : Prop := x.put = none ∧ hMc x.msg.hdr = false
      (∀ k, x.put = some k → run = .next (s.after ((t.putCopies x.msg k).putIdle k))) ∧
      (x.put = none → hMc x.msg.hdr = true → run = .next (s.after (t.copyOut x.msg))) ∧
      (single → t.portUp x.lport = true → ¬ (mem ∧ lost) → run = .next (s.after (t.place x.lport x.msg .good))) ∧
      (single → mem → t.portUp x.lport = false ∨ lost → run = .next (s.after (t.holdLost x.lport x.msg))) ∧
      (single → ¬ mem → t.portUp x.lport = false → run = .next (s.after
        ((t.bump pgRte 0x1804).dropCells x.msg.cells)))))

/-- FRAME_TAIL_CHECK and NAK_REPEAT (R270). LNK counters: 0x111C NAKs sent, 0x1120 discarded in recovery, 0x1124 duplicates. The
signed distance of LSEQ from the expected one is `d`. What a frame met in recovery counts is the model's reading (see the log). -/
def Obligations.TailsDecideTheSequence : Prop :=
  ∀ (s : State) (p : LPort) (f : Frame),
    let c := s.chip
    let pg := pgLnk (p.val / 128)
    let l := c.link p.val
    let exp := (l.ackSeq + 1) % 4096
    let d := signed 12 (hLseq f.hdr + 4096 - exp)
    let vl := hVl f.hdr
    let nak (t : Chip) : Msg := Msg.made (mkHdr 3 6 0 false 0 0 64 0 0)
      (bytesBE 28 (linkBody 2 (t.link p.val).ackSeq (fun v => if 6 ≤ v then 0 else Tbl.get 0 (t.link p.val).freedRx v)).toNat)
      c.time.now none
    let ends (ack : Nat) (rec free ok naks : Bool) (disc dup : Nat) : Prop := Yields (.frameTailCheck p f) s (fun t =>
      (t.link p.val).ackSeq = ack ∧ t.recovery p.val = rec ∧ (t.link p.val).checked = some (f, ok) ∧
      Tbl.get 0 (t.link p.val).freedRx vl =
        (if free then (Tbl.get 0 l.freedRx vl + ceilDiv (hLen f.hdr) 64) % 65536 else Tbl.get 0 l.freedRx vl) ∧
      (t.egress p.val).ctl = (c.egress p.val).ctl ++ (if naks then [nak t] else []) ∧
      t.reg pg 0x111C = c.reg pg 0x111C + (if naks then 1 else 0) ∧
      t.reg pg 0x1120 = c.reg pg 0x1120 + BitVec.ofNat 32 disc ∧ t.reg pg 0x1124 = c.reg pg 0x1124 + BitVec.ofNat 32 dup ∧
      (t.link p.val).rx = none ∧ (∀ q, q ≠ p.val → t.link q = c.link q) ∧
      Chip.only [.regs, .ev, .snap, .port, .traf, .act] c t)
    let rx : Prop := c.rxOn p.val = true ∧ c.narjo p.val = true ∧ c.linkUp p.val = true
    (¬ rx ∨ hdrSequenced f.hdr = false → exec (.frameTailCheck p f) s = .next s) ∧
    (rx → hdrSequenced f.hdr = true → f.whole = false →
      exec (.frameTailCheck p f) s = .next (s.put (c.inReception p.val f))) ∧
    (rx → hdrSequenced f.hdr = true → f.whole = true →
      (tailOf f = .good → d = 0 → hdrOk f.hdr = true → ends exp false false true false 0 0) ∧
      (tailOf f = .good → d = 0 → hdrOk f.hdr = false → ends exp false true false false 0 0) ∧
      (tailOf f = .good → d < 0 → ends l.ackSeq (c.recovery p.val) true false false 0 1) ∧
      (tailOf f = .good → 0 < d → c.recovery p.val = true → ends l.ackSeq true true false false 1 0) ∧
      (tailOf f = .good → 0 < d → c.recovery p.val = false → ends l.ackSeq true true false true 0 0) ∧
      (∀ k, tailOf f = .tailboard k → d = 0 → ends exp false true true false 0 0) ∧
      (∀ k, tailOf f = .tailboard k → d ≠ 0 → ends l.ackSeq (c.recovery p.val) true false false 0 0) ∧
      (∀ k, tailOf f = .bad k → d < 0 → ends l.ackSeq (c.recovery p.val) true false false 0 1) ∧
      (∀ k, tailOf f = .bad k → 0 ≤ d → c.recovery p.val = true → ends l.ackSeq true true false false 1 0) ∧
      (∀ k, tailOf f = .bad k → 0 ≤ d → c.recovery p.val = false → ends l.ackSeq true true (decide (d = 0)) true 0 0)) ∧
    (¬ rx ∨ c.recovery p.val = false → exec (.nakRepeat p) s = .next s) ∧
    (rx → c.recovery p.val = true → exec (.nakRepeat p) s = .next (s.put (((c.lpiWake p.val).setEgress p.val
      { c.egress p.val with ctl := (c.egress p.val).ctl ++ [nak c] }).bump pg 0x111C)))

/-- LINK_INIT_RX, LINK_UPDATE_RX, LINK_NAK_RX, CREDIT_UPDATE_SEND, CREDIT_UPDATE_PERIODIC, INIT_RESEND, PCS_ALIGNED on a Narjo
port and REPLAY_TIMEOUT (R232, R266 to R272). A replay puts every kept frame before the new ones. LNK_STAT at 0x1008: UP 0, LPI capability 2, partner version [7:4]. -/
def Obligations.LinksComeUpAndExchangeCredits : Prop :=
  ∀ (s : State) (p : LPort) (f : Frame) (marks : List PcsMark),
    let c := s.chip
    let pg := pgLnk (p.val / 128)
    let l := c.link p.val
    let b := lcBody f
    let ctl (k : Nat) (freed : Nat → Nat) : Msg := Msg.made (mkHdr 3 6 0 false 0 0 64 0 0)
      (bytesBE 28 (linkBody k l.ackSeq (fun v => if 6 ≤ v then 0 else freed v)).toNat) c.time.now none
    let init := ctl 0 (c.vlBuf p.val)
    let update := ctl 1 (fun v => Tbl.get 0 l.freedRx v)
    let sends (k : Chip) (m : Msg) : Chip := (k.lpiWake p.val).setEgress p.val { c.egress p.val with ctl := (c.egress p.val).ctl ++ [m] }
    let on : Prop := c.rxOn p.val = true ∧ c.narjo p.val = true
    let h := (c.received p.val noLivery (f.body.length + 36)).countTail p.val f
    let good (k : Nat) : Prop := isLinkControl f.hdr = true ∧ f.whole = true ∧ tailOf f = .good ∧ hdrOk f.hdr = true ∧ lcType b = k
    let open_ (n : Nat) : Bool := decide (0 < signed 12 (n + 4096 - lcAck b))
    let taken : Link := { l with
      rx := none
      ackedSeq := lcAck b
      replay := l.replay.filter (fun k => open_ k.seq)
      freedTx := forAll [0, 1, 2, 3, 4, 5] l.freedTx (fun v m => Tbl.set 0 m v (lcFreed b v)) }
    let most := max 1 (c.field pg 0x1004 12 4 (p.val % 128))
    let resent (x : Link) (regs : Tbl W32) (t : Chip) : Prop :=
      ((∀ k ∈ x.replay, k.resent < most) →
        t.link p.val = x ∧ (t.egress p.val).again = x.replay.map (·.msg) ∧ t.regs = regs ∧ t.ev = c.ev) ∧
      ((∃ k ∈ x.replay, most ≤ k.resent) → t.linkUp p.val = false ∧ (t.link p.val).replay = [])
    (∀ pcs, on → l.aligned = false → l.initRcvd = false → deskew marks = some pcs →
      exec (.pcsAligned p marks) s = .next (s.put
        (sends (c.setLink p.val { l with aligned := true, initSent := true, pcs := pcs }) init))) ∧
    (on → l.aligned = true ∨ deskew marks = none → exec (.pcsAligned p marks) s = .next s) ∧
    (on → l.aligned = true → l.initRcvd = false → exec (.initResend p) s = .next (s.put
      (sends (c.setLink p.val { l with initSent := true }) init))) ∧
    (¬ on ∨ l.aligned = false ∨ l.initRcvd = true → exec (.initResend p) s = .next s) ∧
    (on → l.aligned = true → good 0 → c.lnkFlag p.val 0 = true → exec (.linkInitRx p f) s = .next (s.put h)) ∧
    (on → l.aligned = true → good 0 → c.lnkFlag p.val 0 = false → Yields (.linkInitRx p f) s (fun t =>
      (t.link p.val).initRcvd = true ∧ (∀ v < 6, Tbl.get 0 (t.link p.val).adv v = lcFreed b v) ∧
      t.lnkFlag p.val 2 = lcLpi b ∧ t.field pg 0x1008 4 4 (p.val % 128) = lcPver b ∧ t.lnkFlag p.val 0 = l.initSent ∧
      (l.initSent = true → t.recovery p.val = false ∧ (t.link p.val).txSeq = 0 ∧ (t.link p.val).ackSeq = 0xFFF ∧
        (t.link p.val).ackedSeq = 0xFFF ∧ (t.link p.val).replay = []) ∧
      (l.initSent = false → t.ev = c.ev))) ∧
    (on → l.aligned = true → good 1 → c.linkUp p.val = true →
      exec (.linkUpdateRx p f) s = .next (s.put ((h.setEgress p.val { c.egress p.val with
        again := (c.egress p.val).again.filter (fun m => open_ (hLseq m.hdr)) }).setLink p.val taken))) ∧
    (on → l.aligned = true → good 2 → c.linkUp p.val = true → Yields (.linkNakRx p f) s (resent taken h.regs)) ∧
    (∀ i ∈ [Instr.linkInitRx p f, .linkUpdateRx p f, .linkNakRx p f], on → l.aligned = true → isLinkControl f.hdr = true →
      f.whole = false → exec i s = .next (s.put (c.inReception p.val f))) ∧
    (on → c.linkUp p.val = true → Yields (.replayTimeout p) s (resent l c.regs)) ∧
    (on → c.linkUp p.val = false → exec (.replayTimeout p) s = .next s) ∧
    (∀ i, i = .creditUpdateSend p ∧ (l.ackSent ≠ l.ackSeq ∨ l.freedSent ≠ l.freedRx) ∨
        i = .creditUpdatePeriodic p ∧ c.lpiStat p.val 4 = false → on → c.linkUp p.val = true →
      exec i s = .next (s.put ((sends c update).setLink p.val
        { (c.lpiWake p.val).link p.val with ackSent := l.ackSeq, freedSent := l.freedRx }))) ∧
    (∀ i, i = .creditUpdateSend p ∧ l.ackSent = l.ackSeq ∧ l.freedSent = l.freedRx ∨
        i = .creditUpdatePeriodic p ∧ c.lpiStat p.val 4 = true ∨
        (i = .creditUpdateSend p ∨ i = .creditUpdatePeriodic p) ∧ c.linkUp p.val = false → exec i s = .next s)

/-- PCS_ALIGN_LOSS, LINK_CONTROL_TIMEOUT, ETHERNET_PCS_ALIGN_LOSS, AUTO_NEGOTIATION and PCS_ALIGNED on an Ethernet port (R255, R269,
R292, R487). LNK counter 0x1134: link downs. That an Ethernet link needs auto-negotiation is the model's reading (see the log). -/
def Obligations.LinksGoDown : Prop :=
  ∀ (s : State) (p : LPort),
    let c := s.chip
    let pg := pgLnk (p.val / 128)
    let l := c.link p.val
    let down (aligned : Bool) (t : Chip) : Prop :=
      t.lnkFlag p.val 0 = false ∧ t.recovery p.val = false ∧ (t.link p.val).aligned = aligned ∧
      (t.link p.val).initSent = aligned ∧ (t.link p.val).initRcvd = false ∧ (t.link p.val).replay = [] ∧
      (t.link p.val).adv = [] ∧ (t.link p.val).spent = [] ∧ (t.link p.val).freedTx = [] ∧ (t.link p.val).lpi = .awake ∧
      (t.egress p.val).tx = none ∧
      t.reg pg 0x1134 = c.reg pg 0x1134 + (if c.lnkFlag p.val 0 then 1 else 0)
    let narjoOn : Prop := c.rxOn p.val = true ∧ c.narjo p.val = true
    let etherOn : Prop := c.rxOn p.val = true ∧ c.narjo p.val = false
    (narjoOn → l.aligned = true → Yields (.pcsAlignLoss p) s (fun t => down false t ∧ (t.egress p.val).queued = [])) ∧
    (¬ narjoOn ∨ l.aligned = false → exec (.pcsAlignLoss p) s = .next s) ∧
    (narjoOn → c.linkUp p.val = true → c.lpiStat p.val 4 = false → Yields (.linkControlTimeout p) s (fun t => down true t ∧
      ∃ m, (t.egress p.val).queued = [m] ∧ isLinkControl m.hdr = true)) ∧
    (¬ narjoOn ∨ c.linkUp p.val = false ∨ c.lpiStat p.val 4 = true → exec (.linkControlTimeout p) s = .next s) ∧
    (etherOn → l.aligned = true → Yields (.ethernetPcsAlignLoss p) s (fun t =>
      (t.link p.val).aligned = false ∧ (t.link p.val).pfcUntil = [] ∧ (t.link p.val).lpi = .awake ∧
      t.portUp p.val = false ∧ (t.egress p.val).queued = [] ∧ (t.egress p.val).tx = none)) ∧
    (¬ etherOn ∨ l.aligned = false → exec (.ethernetPcsAlignLoss p) s = .next s) ∧
    (∀ lpi ok, etherOn → Yields (.autoNegotiation p lpi ok) s (fun t => t.link p.val = { l with negotiated := ok } ∧
      t.lpiStat p.val 8 = lpi ∧ Chip.only [.regs, .port] c t ∧
      c.regsBut t [regKey (pgPrt (p.val / 128)) (0x1180 + 4 * (p.val / 4 % 32)) 0])) ∧
    (∀ lpi ok, ¬ etherOn → exec (.autoNegotiation p lpi ok) s = .next s) ∧
    (∀ marks, etherOn → l.aligned = false → l.negotiated = true → deskew marks ≠ none →
      Yields (.pcsAligned p marks) s (fun t => (t.link p.val).aligned = true ∧ t.portUp p.val = true)) ∧
    (∀ marks, etherOn → l.negotiated = false ∨ l.aligned = true ∨ deskew marks = none →
      exec (.pcsAligned p marks) s = .next s)

/-- LNK_CTRL_WRITE, LNK_VL_BUF_WRITE, PAUSE_FRAME_RX, PFC_FRAME_RX, PTP_MESSAGE_RX and FEC_UNCORR_BETWEEN_FRAMES (R254, R256,
R265, R268, R280). LNK counters: 0x1138 rejected writes, 0x113C PAUSE, 0x110C FEC. -/
def Obligations.LinkRegistersAndMacFrames : Prop :=
  (∀ (s : State) (d : PDie) (v : W32), s.chip.serves (pgLnk d.val) = true →
    let c := s.chip
    let q := c.field (pgLnk d.val) 0x1000 0 7
    let p := d.val * 128 + q
    let old := c.reg (pgLnk d.val) 0x1004 q
    let w := v &&& 0xFFF1
    (v.getLsbD 0 = old.getLsbD 0 → exec (.lnkCtrlWrite d v) s = .next (s.put (c.setReg (pgLnk d.val) 0x1004 w q))) ∧
    (v.getLsbD 0 ≠ old.getLsbD 0 → c.enabled p = true → exec (.lnkCtrlWrite d v) s = .next (s.put
      ((c.setReg (pgLnk d.val) 0x1004 ((w &&& 0xFFF0) ||| (old &&& 1)) q).bump (pgLnk d.val) 0x1138))) ∧
    (v.getLsbD 0 ≠ old.getLsbD 0 → c.enabled p = false → exec (.lnkCtrlWrite d v) s = .next (s.put
      ((c.setReg (pgLnk d.val) 0x1004 w q).setLink p Link.reset))) ∧
    ∀ vl : Fin 6,
      let n := fld v 0 16
      let least := [132, 258, 66, 66, 145, 145].getD vl.val 0
      let total := ((c.logicalPorts (p / 4)).flatMap (fun k => (List.range 6).map (fun j =>
        if k = p ∧ j = vl.val then n else c.vlBuf k j))).sum
      let fits : Prop := c.inUse p = true ∧ c.enabled p = false ∧ least ≤ n ∧
        total ≤ (if c.split (p / 4) = 3 then 8192 else 4096)
      (fits → exec (.lnkVlBufWrite d vl v) s = .next (s.put
        (c.setReg (pgLnk d.val) (0x1040 + 4 * vl.val) (BitVec.ofNat 32 n) q))) ∧
      (¬ fits → exec (.lnkVlBufWrite d vl v) s = .next (s.put (c.bump (pgLnk d.val) 0x1138)))) ∧
  (∀ (s : State) (p : LPort),
    let c := s.chip
    let l := c.link p.val
    (c.ethRx p.val = true → exec (.pauseFrameRx p) s = .next (s.put (c.bump (pgLnk (p.val / 128)) 0x113C))) ∧
    (∀ en quanta, c.ethRx p.val = true → Yields (.pfcFrameRx p en quanta) s (fun t => Chip.only [.port] c t ∧
      (∀ q, q ≠ p.val → t.link q = c.link q) ∧ t.link p.val = { l with pfcUntil := (t.link p.val).pfcUntil } ∧
      ∀ k < 8, let n := fld quanta (16 * k) 16
        Tbl.get 0 (t.link p.val).pfcUntil k =
          if en.getLsbD k then (if n = 0 then 0 else c.time.now + ceilDiv (n * 131072) (max 1 (c.portRate p.val)))
          else Tbl.get 0 l.pfcUntil k)) ∧
    (∀ i, c.ethRx p.val = false → i = .pauseFrameRx p ∨ (∃ en quanta, i = .pfcFrameRx p en quanta) → exec i s = .next s) ∧
    (c.rxOn p.val = true → exec (.fecUncorrBetweenFrames p) s = .next (s.put (c.bump (pgLnk (p.val / 128)) 0x110C))) ∧
    (c.rxOn p.val = false → exec (.fecUncorrBetweenFrames p) s = .next s) ∧
    ∀ (f : Frame) (age : Nat),
      (c.hears p.val f → hClass f.hdr = 3 → hSub f.hdr = 5 → Yields (.ptpMessageRx p f age) s (fun t =>
        let h := (c.heard p.val f).mirrorIn false none (Msg.arrived p.val f.hdr f.body (c.time.now - age))
        ∃ m ans, m.body = f.body ∧ m.hdr = f.hdr ∧ m.inPort = p.val ∧ t.out.toM0 = h.out.toM0 ++ [m] ∧
          (t.egress p.val).ctl = (h.egress p.val).ctl ++ ans ∧ ans.length ≤ 1 ∧ (c.fwState ≠ 2 → ans = []) ∧
          (∀ a ∈ ans, hClass a.hdr = 3 ∧ hSub a.hdr = 5) ∧ Chip.only [.regs, .port, .traf, .out, .fresh] h t)) ∧
      (c.narjo p.val = false → isPtp f.body = true →
        exec (.ptpMessageRx p f age) s = exec (.ethernetFrame p f.body f.fecUncorr f.whole f.buf age) s) ∧
      (c.narjo p.val = false → isPtp f.body = false → exec (.ptpMessageRx p f age) s = .next s))

/-- The eight LPI commands (R249, R250). A frame that joins the queue and the partner's wake are wake requests. PRT counters: 0x1200 entries, 0x1204 cancels, 0x1208 exits, 0x120C no acknowledgement;
PRT_LPI_STAT at 0x1180: asleep [3:0], partner asleep [7:4], partner capable [11:8]. -/
def Obligations.IdlePortsSleepAndWake : Prop :=
  ∀ (s : State) (p : LPort), s.chip.rxOn p.val = true →
    let c := s.chip
    let pg := pgPrt (p.val / 128)
    let l := c.link p.val
    let goes (x : LpiState) : Chip := c.setLink p.val { l with lpi := x }
    let lanes := c.lanesOf p.val
    let ctl (k : Nat) : Msg := Msg.made (mkHdr 3 6 0 false 0 0 64 0 0) (bytesBE 28 (linkBody k l.ackSeq
      (fun v => if 6 ≤ v then 0 else Tbl.get 0 l.freedRx v)).toNat) c.time.now none
    let ready : Prop := c.portUp p.val = true ∧ c.lpiEn p.val = true ∧ c.lpiPartner p.val = true ∧
      (c.egress p.val).queued = [] ∧ (c.egress p.val).again = [] ∧ (c.egress p.val).tx = none ∧ l.lpi = .awake ∧
      (c.egress p.val).idleSince + max 1 (c.field pg (0x1100 + 4 * (p.val / 4 % 32)) 8 8) * 256000 ≤ c.time.now
    (ready → Yields (.lpiEntryStart p) s (fun t => t.link p.val = { l with lpi := .requested } ∧ t.regs = c.regs ∧
      (t.egress p.val).ctl = (c.egress p.val).ctl ++ (if c.narjo p.val then [ctl 3] else []) ∧
      Chip.only [.port, .traf] c t)) ∧
    (¬ ready → exec (.lpiEntryStart p) s = .next s) ∧
    (l.lpi = .requested →
      exec (.lpiAckRx p true) s = .next (s.put ((goes .awake).bump pg 0x1204)) ∧
      Yields (.lpiAckRx p false) s (fun t => t.link p.val = { l with lpi := .asleep } ∧ t.lpiStat p.val 0 = true ∧
        t.reg pg 0x1200 = c.reg pg 0x1200 + 1 ∧ (∀ k ∈ lanes, t.laneFlag k 1 = true) ∧ Chip.only [.regs, .port] c t) ∧
      exec (.lpiNoackTimeout p) s = .next (s.put (((goes .awake).setEgress p.val
        { c.egress p.val with idleSince := c.time.now }).bump pg 0x120C)) ∧
      exec (.lpiWakeRequest p) s = .next (s.put ((goes .awake).bump pg 0x1204))) ∧
    (l.lpi ≠ .requested → (∀ wake, exec (.lpiAckRx p wake) s = .next s) ∧ exec (.lpiNoackTimeout p) s = .next s) ∧
    (l.lpi = .asleep → exec (.lpiWakeRequest p) s = .next (s.put (goes .waking)) ∧
      Yields (.lpiRefresh p) s (fun t => t.link p.val = { l with refreshes := l.refreshes + 1 } ∧ Chip.only [.port] c t)) ∧
    (l.lpi ≠ .asleep → exec (.lpiRefresh p) s = .next s) ∧
    (l.lpi = .awake ∨ l.lpi = .waking → exec (.lpiWakeRequest p) s = .next s) ∧
    (l.lpi = .waking → Yields (.lpiExitComplete p) s (fun t => (t.link p.val).lpi = .awake ∧ t.lpiStat p.val 0 = false ∧
      t.reg pg 0x1208 = c.reg pg 0x1208 + 1 ∧ ∀ k ∈ lanes, t.laneFlag k 1 = false)) ∧
    (l.lpi ≠ .waking → exec (.lpiExitComplete p) s = .next s) ∧
    (c.portUp p.val = true → Yields (.lpiReqRx p) s (fun t => t.lpiStat p.val 4 = true ∧
      t.link p.val = (if c.narjo p.val then (c.lpiWake p.val).link p.val else l) ∧
      (∀ k ∈ lanes, t.lane k = { c.lane k with frozen := true }) ∧
      (t.egress p.val).ctl = (c.egress p.val).ctl ++ (if c.narjo p.val then [ctl 4] else []) ∧
      Chip.only [.regs, .port, .traf] c t)) ∧
    (c.portUp p.val = false → exec (.lpiReqRx p) s = .next s) ∧
    (c.lpiStat p.val 4 = true → Yields (.lpiPartnerWakeRx p) s (fun t => t.lpiStat p.val 4 = false ∧
      t.link p.val = (c.lpiWake p.val).link p.val ∧
      (∀ k ∈ lanes, (t.lane k).frozen = false ∧ t.laneFlag k 6 = true ∧ t.laneFlag k 5 = true ∧ t.laneFlag k 7 = true) ∧
      Chip.only [.regs, .port] c t)) ∧
    (c.lpiStat p.val 4 = false → exec (.lpiPartnerWakeRx p) s = .next (s.put (c.lpiWake p.val)))

/-- EGRESS_PORT_FREE (R197, R264, R271, R276, R279, R320), for ports without time gates (R325 to R327 are stated with the
gates). `done` marks an egress port that holds nothing as idle from now on (R249). `startFrame` is the start of a chosen
frame: the reading of its cells, its per-hop fields, credits and replay copy. A deficit lasts only while its TC is eligible
(`rotForget`). -/
def Obligations.EgressPortsServeTheirQueues : Prop :=
  ∀ (s : State) (p : LPort) (rd : CellRead), s.chip.inUse p.val = true →
    let e0 := s.chip.egress p.val
    let c : Chip := match e0.tx with
      | some m => s.chip.frameOut p.val m
      | none => s.chip
    let r := c.rotForget p.val
    let e := r.egress p.val
    let l := c.link p.val
    let done (x : Chip) : Chip := x.setEgress p.val ((x.egress p.val).settle x.time.now)
    let run := exec (.egressPortFree p rd) s
    let starts (f : Egress) (m : Msg) : Prop := run = .next (s.after (done ((r.setEgress p.val f).startFrame p.val m rd)))
    let serves : Prop := c.sending = true ∧ c.portWorks p.val = true ∧ (l.lpi = .awake ∨ l.lpi = .requested)
    let wave (m : Msg) : Prop := hSub m.hdr = 0
    let crossed (m : Msg) : Prop := c.crossing m.num = false
    let ready (m : Msg) : Prop := crossed m ∧ c.linkReady p.val m = true
    let takeCtl (m : Msg) : Egress := { e with ctl := dropFirst (fun x => decide (x = m)) e.ctl }
    let plain : Prop := c.narjo p.val = true ∧ ∀ n < 16, c.flag pgRte 0x1708 0 n = false
    let collective (m : Msg) : Prop := hClass m.hdr = 0 ∧ hSub m.hdr < 4
    let seq (m : Msg) : BitVec 256 := putFld (putFld m.hdr 242 3 1) 225 12 l.txSeq
    let len := r.headLen p.val
    (∀ m, e0.tx = some m →
      c.out.sent = s.chip.out.sent + 1 ∧ (c.egress p.val).tx = none ∧
      ∃ o, c.out.tx = some o ∧ o.port = p.val ∧ o.stamp = m.stamp ∧
        o.bytes = (if s.chip.narjo p.val then withTrailer (frameBytes m.hdr m.body) m.tail else m.body)) ∧
    (¬ serves → run = .next (s.put (done c))) ∧
    (serves →
      (∀ pre m post, e.ctl = pre ++ m :: post → (∀ x ∈ pre, wave x → ¬ crossed x) → wave m → ready m → starts (takeCtl m) m) ∧
      (∀ pre m post, e.ctl = pre ++ m :: post → (∀ x ∈ e.ctl, wave x → ¬ crossed x) → (∀ x ∈ pre, ¬ crossed x) →
        ¬ wave m → ready m → starts (takeCtl m) m) ∧
      ((∀ m ∈ e.ctl, ¬ ready m) →
        (∀ m ms, e.again = m :: ms → c.resendReady p.val m = true →
          run = .next (s.after (done (r.resend p.val m))) ∧
          (plain → collective m → Yields (.egressPortFree p rd) s (fun t =>
            (t.egress p.val).tx = some { m with stamp := c.time.now } ∧ (t.egress p.val).again = ms ∧
            (t.link p.val).txSeq = l.txSeq ∧ (t.link p.val).replay.map (·.msg) = l.replay.map (·.msg) ∧
            t.reg (pgLnk (portDie p.val)) 0x1118 = c.reg (pgLnk (portDie p.val)) 0x1118 + 1 ∧
            Tbl.get 0 (t.link p.val).spent 1 = (Tbl.get 0 l.spent 1 + ceilDiv (hLen m.hdr) 64) % 65536))) ∧
        (e.again = [] ∨ (∃ m ms, e.again = m :: ms ∧ c.resendReady p.val m = false) →
          (∀ m ms, e.col = m :: ms → ready m →
            starts { e with col := ms } m ∧
            (plain → collective m → m.tail = 0 → m.cells = [] → c.suppressed m = false →
              Yields (.egressPortFree p rd) s (fun t =>
                (t.egress p.val).tx = some { m with hdr := seq m, stamp := c.time.now } ∧ (t.egress p.val).col = ms ∧
                (t.link p.val).txSeq = (l.txSeq + 1) % 4096 ∧
                (t.link p.val).replay = l.replay ++ [⟨l.txSeq, { m with hdr := seq m, num := 0 }, 0⟩] ∧
                Tbl.get 0 (t.link p.val).spent 1 = (Tbl.get 0 l.spent 1 + ceilDiv m.len 64) % 65536))) ∧
          (e.col = [] ∨ (∃ m ms, e.col = m :: ms ∧ ¬ ready m) → c.gateEn p.val = false →
            (∀ q ro, r.tcChoice p.val len e.rot = (some q, ro) →
              run = .next (s.after (done ((r.setEgress p.val { e with rot := ro }).takeSub p.val q.1 q.2 rd)))) ∧
            (∀ tc k n, tc < 16 → c.tcStrict p.val tc = true → e.rot.head len tc = some (k, n) →
              (∀ j < 16, tc < j → c.tcStrict p.val j = true → e.rot.head len j = none) →
              (r.tcChoice p.val len e.rot).1 = some (tc, k)) ∧
            ((∀ tc < 16, c.tcStrict p.val tc = true → e.rot.head len tc = none) →
              (∀ q, (r.tcChoice p.val len e.rot).1 = some q →
                c.tcStrict p.val q.1 = false ∧ ∃ n, e.rot.head len q.1 = some (q.2, n)) ∧
              (∀ tc < 16, ∀ k n, c.tcStrict p.val tc = false → e.rot.head len tc = some (k, n) → n ≤ 16384 →
                (r.tcChoice p.val len e.rot).1 ≠ none)) ∧
            ((∀ tc < 16, ∀ k < 3, len tc k = none) → Yields (.egressPortFree p rd) s (fun t =>
              (t.egress p.val).tx = none ∧ (t.egress p.val).sub = e.sub ∧ t.link p.val = l ∧ t.out = c.out))))))

/-- SYNTH_LOCK, SYNTH_CAL_DONE, SYNTH_LOCK_TIMEOUT, TRAINING_DONE, TRAINING_RETRY, CDR_LOCK, CDR_LOCK_LOSS, SETTLE_WINDOW_END and
SETTLE_GO. SDS_LANE_STAT: idle 1, LOCK 2, FAIL 3, CAL 4, signal 5, CDR 6, settle 7, TRAIN [9:8], checker lock 10. -/
def Obligations.LanesLockTrainAndSettle : Prop :=
  (∀ (s : State) (pp : PhysPort), s.chip.synthUp (pp.val / 32) = true →
    let c := s.chip
    let other := pp.val / 2 * 2 + (1 - pp.val % 2)
    (c.synth pp.val ≠ .settling → exec (.synthLock pp) s = .next s ∧ exec (.synthLockTimeout pp) s = .next s) ∧
    (c.synth pp.val = .settling →
      Yields (.synthLock pp) s (fun t => t.synth pp.val = .calibrating ∧ (∀ q, q ≠ pp.val → t.synth q = c.synth q) ∧
        (∀ l, l / 4 = pp.val → t.laneFlag l 2 = true) ∧ Chip.only [.regs, .port] c t) ∧
      Yields (.synthLockTimeout pp) s (fun t => (∀ l, l / 4 = pp.val → t.laneFlag l 3 = true) ∧ t.port = c.port ∧
        Chip.raised c t (evP (pgSds (pp.val / 32)) 0x0501 (pp.val / 32) (pp.val * 4)))) ∧
    (c.synth pp.val ≠ .calibrating → exec (.synthCalDone pp) s = .next s) ∧
    (c.synth pp.val = .calibrating → Yields (.synthCalDone pp) s (fun t => t.synth pp.val = .ready ∧
      (∀ q, q ≠ pp.val → t.synth q = c.synth q) ∧ (∀ l, l / 4 = pp.val → t.laneFlag l 4 = true) ∧
      ((c.split pp.val = 3 → c.synth other = .ready) → ∀ l, l / 4 = pp.val →
        (c.laneWanted l = true → c.laneSleeps l = false → t.laneFlag l 1 = false ∧
          (c.laneFlag l 1 = true → t.laneTrain l = if c.laneEnabled l && c.trainEn l then 1 else 0)) ∧
        (c.laneWanted l = false → t.laneFlag l 1 = true ∧ t.laneTrain l = 0))))) ∧
  (∀ (s : State) (l : Lane), s.chip.pdieUp (l.val / 128) = true →
    let c := s.chip
    let settles (t : Chip) : Prop :=
      (c.laneFlag l.val 6 = true → t.laneFlag l.val 7 = true ∧ t.laneFlag l.val 10 = false ∧
        (t.sds l.val 0x101C).getLsbD 31 = false ∧ (t.lane l.val).eyeDirty = true) ∧
      (c.laneFlag l.val 6 = false → (t.lane l.val).settleWaits = true)
    (∀ ok taps tx rx, c.laneTrain l.val ≠ 1 → exec (.trainingDone l ok taps tx rx) s = .next s) ∧
    (∀ taps tx rx, c.laneTrain l.val = 1 →
      Yields (.trainingDone l true taps tx rx) s (fun t => t.laneTrain l.val = 2 ∧
        (t.lane l.val).taps = taps &&& 0x03FFFFFF ∧ (t.lane l.val).precodeTx = tx ∧ (t.lane l.val).precodeRx = rx ∧
        t.sds l.val 0x100C = (if (c.sds l.val 0x100C).getLsbD 31 then c.sds l.val 0x100C else taps &&& 0x03FFFFFF) ∧
        settles t ∧ (∀ k, k ≠ l.val → t.lane k = c.lane k) ∧ Chip.only [.regs, .port, .out, .fresh] c t) ∧
      exec (.trainingDone l false taps tx rx) s = .next (s.after ((c.setLaneTrain l.val 3).raise
        (evP (pgSds (l.val / 128)) 0x0502 (l.val / 128) l.val)))) ∧
    (c.laneTrain l.val = 3 → c.laneEnabled l.val = true →
      exec (.trainingRetry l) s = .next (s.put (c.setLaneTrain l.val 1))) ∧
    (c.laneTrain l.val ≠ 3 ∨ c.laneEnabled l.val = false → exec (.trainingRetry l) s = .next s) ∧
    Yields (.cdrLock l) s (fun t => t.laneFlag l.val 6 = true ∧ t.laneFlag l.val 5 = true ∧ t.laneFlag l.val 7 = true ∧
      t.laneFlag l.val 10 = false ∧ (t.sds l.val 0x101C).getLsbD 31 = false ∧ Chip.only [.regs, .port] c t) ∧
    (∀ signal, exec (.cdrLockLoss l signal) s = .next (s.put ((c.setLaneFlag l.val 6 false).setLaneFlag l.val 5 signal))) ∧
    exec (.settleWindowEnd l) s = .next (s.put (c.setLaneFlag l.val 7 false))) ∧
  (∀ (s : State) (d : PDie), s.chip.serves (pgSds d.val) = true →
    let c := s.chip
    let l := d.val * 128 + c.field (pgSds d.val) 0x1000 0 7
    (c.laneFlag l 6 = true → Yields (.settleGo d) s (fun t => t.laneFlag l 7 = true ∧ t.laneFlag l 10 = false ∧
      (t.sds l 0x101C).getLsbD 31 = false ∧ Chip.only [.regs, .port] c t)) ∧
    (c.laneFlag l 6 = false → exec (.settleGo d) s = .next (s.put
      (c.setLane l { c.lane l with settleWaits := true }))))

/-- The coding and the checker of a lane (R236, R244 to R246); CHECKER_LOCK, CHECKER_LOCK_LOSS, EYE_WINDOW_END, INJ_GO,
INJ_PERIOD_BURST, CNT_CLR, SDS_TX_EQ_WRITE, CHK_BITS_LO_READ, LANE_STAT_READ and PRT_CFG_WRITE. The receiver undoes the
sender's coding, and a mask of the injector stands in the pair where no precoder works. The checker counts only while it
is locked, loses lock at 64 symbols in error among 256, and locks to a PRBS after 64 symbols that it predicted. PRT_CFG: SPLIT [1:0], RATE [3:2], EN [7:4], joined 8, TRAIN_EN 9. -/
def Obligations.PatternsEyesAndPortsAreConfigured : Prop :=
  (∀ (k : LaneCode) (y : Nat) (p mask r : BitVec 2),
    (pamLevel r.toNat = (k.send y p 0).1 → k.recv y r = (p, (k.send y p 0).2)) ∧
    (k.pre = false → pamLevel r.toNat = (k.send y p mask).1 → (k.recv y r).1 = p ^^^ mask)) ∧
  (∀ (k : LaneCode) (code : Nat) (r : ChkRun) (y : BitVec 2),
    let n := ChkRun.step k code r y
    (r.locked = false → n.bits = r.bits ∧ n.bitErr = r.bitErr ∧ n.symErr = r.symErr ∧ n.losses = r.losses) ∧
    (r.locked = true → n.bits = r.bits + 2 ∧ ∃ e : Nat, e ≤ 2 ∧ n.bitErr = r.bitErr + e ∧
      n.symErr = r.symErr + (if e = 0 then 0 else 1) ∧ n.losses = r.losses + (if n.locked then 0 else 1) ∧
      (n.locked = false ↔ 64 ≤ (((decide (0 < e)) :: r.chk.window).take 256).count true))) ∧
  (∀ (k : LaneCode) (code n : Nat) (taps : List Nat) (r : ChkRun) (ys : List (BitVec 2)),
    prbsPoly code = some (n, taps) → r.locked = false → n ≤ r.chk.loaded → r.chk.run = 0 → ys.length = 64 →
    (∀ i < 64, (k.recv (if i = 0 then r.prev else (k.recv 0 (ys.getD (i - 1) 0)).2) (ys.getD i 0)).1 =
      (patternPair code ((fun st => (patternPair code st).2)^[i] r.chk.reg)).1) →
    (ys.foldl (ChkRun.step k code) r).locked = true ∧
      ∀ zs, zs.length < 64 → zs <+: ys → (zs.foldl (ChkRun.step k code) r).locked = false) ∧
  (∀ (s : State) (l : Lane), s.chip.pdieUp (l.val / 128) = true →
    let c := s.chip
    let x := c.lane l.val
    let act : Prop := c.chkActive l.val = true ∧ c.laneFlag l.val 7 = false
    let pat := c.sds l.val 0x1014
    let burst := if fld pat 10 2 = 1 then 1 else fld pat 14 10 + 1
    let units (n : Nat) : Nat := ceilDiv (n * 1024 * 2 ^ c.rate (l.val / 4)) 425
    let due : Prop := pat.getLsbD 31 = true ∧ c.laneSends l.val = true ∧
      x.injEnd + units (max (c.sds l.val 0x1018).toNat (burst + 1) - burst) ≤ c.time.now
    (∀ ys i, i = .checkerLock l ys ∨ i = .checkerLockLoss l ys →
      let r := ys.foldl (ChkRun.step (c.rxCode l.val) (fld pat 5 4)) ⟨x.chk, c.laneFlag l.val 10, x.rxPrev, 0, 0, 0, 0⟩
      (act → Yields i s (fun t => t.laneFlag l.val 10 = r.locked ∧
        t.lane l.val = { x with chk := r.chk, rxPrev := r.prev, chkBits := min (2 ^ 48 - 1) (x.chkBits + r.bits) } ∧
        (∀ k, k ≠ l.val → t.lane k = c.lane k) ∧
        (t.sds l.val 0x1030).toNat = min 0xFFFFFFFF ((c.sds l.val 0x1030).toNat + r.losses) ∧
        (t.sds l.val 0x1024).toNat = min 0xFFFFFFFF ((c.sds l.val 0x1024).toNat + r.symErr) ∧
        (t.sds l.val 0x1020).toNat = min 0xFFFFFFFF ((c.sds l.val 0x1020).toNat + r.bitErr) ∧
        Chip.only [.regs, .port] c t)) ∧
      (¬ act → exec i s = .next (s.put (match ys.getLast? with
        | some y => c.setLane l.val { x with rxPrev := ((c.rxCode l.val).recv 0 y).2 }
        | none => c)))) ∧
    (∀ u m lo w ys, c.laneFlag l.val 7 = true →
      exec (.eyeWindowEnd l u m lo w ys) s = .next (s.put (c.rxSymbols l.val ys))) ∧
    (∀ u m lo w ys, c.laneFlag l.val 7 = false → Yields (.eyeWindowEnd l u m lo w ys) s (fun t =>
      let r := t.sds l.val 0x101C
      let h := c.rxSymbols l.val ys
      fld r 0 6 = u.toNat ∧ fld r 8 6 = m.toNat ∧ fld r 16 6 = lo.toNat ∧ fld r 24 6 = w.toNat ∧
      r.getLsbD 31 = !x.eyeDirty ∧ t.lane l.val = { h.lane l.val with eyeDirty := false } ∧
      h.regsBut t [regKey (pgSds (l.val / 128)) 0x101C (l.val % 128)] ∧
      Chip.only [.regs, .port] c t)) ∧
    (due → Yields (.injPeriodBurst l) s (fun t => (t.lane l.val).injected = x.injected + burst ∧
      (t.lane l.val).injEnd = c.time.now + units burst ∧ (∃ ls, t.out.levels = some (l.val, ls) ∧ ls.length = burst) ∧
      (∀ k, k ≠ l.val → t.lane k = c.lane k) ∧ Chip.only [.port, .out, .fresh] c t)) ∧
    (¬ due → exec (.injPeriodBurst l) s = .next s)) ∧
  (∀ (s : State) (d : PDie), s.chip.serves (pgSds d.val) = true →
    let c := s.chip
    let l := d.val * 128 + c.field (pgSds d.val) 0x1000 0 7
    let x := c.lane l
    let pat := c.sds l 0x1014
    let mode := fld pat 10 2
    let burst := if mode = 1 then 1 else fld pat 14 10 + 1
    let runs : Prop := pat.getLsbD 31 = true ∨ x.injWaits = true ∨ c.time.now < x.injEnd
    let asked : Chip := if mode = 3 then c.setSds l 0x1014 (putBit pat 31 true) else c
    (runs ∨ mode = 0 → exec (.injGo d) s = .next s) ∧
    (¬ runs → mode ≠ 0 → c.laneSends l = false →
      exec (.injGo d) s = .next (s.put (asked.setLane l { x with injWaits := true }))) ∧
    (¬ runs → mode ≠ 0 → c.laneSends l = true → Yields (.injGo d) s (fun t =>
      (t.lane l).injected = x.injected + burst ∧ (t.lane l).injWaits = false ∧
      (t.lane l).injEnd = c.time.now + ceilDiv (burst * 1024 * 2 ^ c.rate (l / 4)) 425 ∧
      (∃ ls, t.out.levels = some (l, ls) ∧ ls.length = burst) ∧ t.regs = asked.regs ∧
      (∀ k, k ≠ l → t.lane k = c.lane k) ∧ Chip.only [.regs, .port, .out, .fresh] c t)) ∧
    Yields (.cntClr d) s (fun t => (∀ o ∈ [0x1020, 0x1024, 0x1028, 0x102C, 0x1030], t.sds l o = 0) ∧
      (t.lane l).chkBits = 0 ∧ (∀ k, k ≠ l → t.lane k = c.lane k) ∧ Chip.only [.regs, .port] c t ∧
      c.regsBut t ([0x1020, 0x1024, 0x1028, 0x102C, 0x1030].map (fun o => regKey (pgSds (l / 128)) o (l % 128)))) ∧
    (∀ v : W32,
      let sum := (signed 5 (fld v 0 5)).natAbs + (signed 5 (fld v 5 5)).natAbs + (signed 5 (fld v 10 5)).natAbs +
        fld v 15 6 + (signed 5 (fld v 21 5)).natAbs
      (63 < sum → exec (.sdsTxEqWrite d v) s = .next s) ∧
      (sum ≤ 63 → v.getLsbD 31 = true ∨ c.trainEn l = false →
        exec (.sdsTxEqWrite d v) s = .next (s.put (c.setSds l 0x100C (v &&& 0x83FFFFFF)))) ∧
      (sum ≤ 63 → v.getLsbD 31 = false → c.trainEn l = true →
        exec (.sdsTxEqWrite d v) s = .next (s.put (c.setSds l 0x100C x.taps)))) ∧
    exec (.chkBitsLoRead d) s = .next (s.put
      ((c.setSds l 0x102C (BitVec.ofNat 32 (x.chkBits / 2 ^ 32 % 2 ^ 16))).answer (BitVec.ofNat 32 x.chkBits))) ∧
    exec (.laneStatRead d) s = .next (s.put
      ((if c.laneFlag l 2 then c.setLaneFlag l 3 false else c).answer (c.sds l 0x1008)))) ∧
  (∀ (s : State) (d : PDie), s.chip.serves (pgSds d.val) = false → ∀ i, i = .chkBitsLoRead d ∨ i = .laneStatRead d →
    exec i s = .next (s.put (s.chip.answer 0))) ∧
  (∀ (s : State) (pp : PhysPort) (v : W32), s.chip.serves (pgPrt (pp.val / 32)) = true →
    let c := s.chip
    let pg := pgPrt (pp.val / 32)
    let cur := c.prtCfg pp.val
    let split := fld v 0 2
    let rate := fld v 2 2
    let busy : Prop := fld cur 4 4 ≠ 0 ∨ split = 3 ∧ fld (c.prtCfg (pp.val + 1)) 4 4 ≠ 0
    let refused : Prop := cur.getLsbD 8 = true ∨ rate = 3 ∨ split = 3 ∧ (pp.val % 2 = 1 ∨ rate ≠ 0) ∨
      (split ≠ fld cur 0 2 ∨ rate ≠ fld cur 2 2) ∧ busy
    let was (q : Nat) : Bool := cur.getLsbD (4 + q)
    let will (q : Nat) : Bool := v.getLsbD (4 + q) && if split = 3 then decide (q = 0) else usedUnder split q
    (refused → exec (.prtCfgWrite pp v) s = .next (s.put
      ((c.setReg pg 0x1080 (BitVec.ofNat 32 (pp.val % 32 + 0x80000000))).bump pg 0x1214))) ∧
    (¬ refused → Yields (.prtCfgWrite pp v) s (fun t =>
      fld (t.prtCfg pp.val) 0 2 = split ∧ fld (t.prtCfg pp.val) 2 2 = rate ∧
      (t.prtCfg pp.val).getLsbD 9 = v.getLsbD 9 ∧ (∀ q < 4, (t.prtCfg pp.val).getLsbD (4 + q) = will q) ∧
      (∀ q < 4, was q ≠ will q → t.link (pp.val * 4 + q) = Link.reset) ∧
      (∀ q < 4, was q = true → will q = false →
        (t.egress (pp.val * 4 + q)).queued = [] ∧ (t.egress (pp.val * 4 + q)).tx = none))))

/-- SHAPER_REFILL, SHAPER_APPLY, GATE_SWITCH, GATE_SWITCH_EFFECT and GATE_INTERVAL_BOUNDARY (R322, R323, R325, R328). A die
refills once in a slot of fabric time, and takes a set applied before that slot began. Tokens are in 1/8 byte; `gatesAt` is
the gate set of a list at a time (R325). The clamp of tokens at RATE 0 is the model's reading (see the log). -/
def Obligations.ShapersAndGatesFollowTheTime : Prop :=
  (∀ (s : State) (d : PDie), s.chip.mainUp = true →
    let slot := s.chip.time.now / 65536
    (Tbl.get 0 s.chip.traf.refilled d.val = slot + 1 → exec (.shaperRefill d) s = .next s) ∧
    (Tbl.get 0 s.chip.traf.refilled d.val ≠ slot + 1 → Yields (.shaperRefill d) s (fun t =>
      (∀ n < 4096,
        let x := s.chip.shaper d.val n
        let y := t.shaper d.val n
        (∀ r b, x.pending = some (r, b) → x.applied < slot * 65536 → y.rate = r ∧ y.burst = b ∧ y.pending = none) ∧
        (x.pending = none ∨ slot * 65536 ≤ x.applied → y.rate = x.rate ∧ y.burst = x.burst ∧ y.pending = x.pending) ∧
        y.tokens = min (x.tokens + y.rate) ((y.burst * 8 : Nat) : Int)) ∧
      (∀ e n, e ≠ d.val → n < 4096 → t.shaper e n = s.chip.shaper e n) ∧ Chip.only [.traf] s.chip t ∧
      Tbl.get 0 t.traf.refilled d.val = slot + 1))) ∧
  (∀ (s : State) (d : PDie), s.chip.serves (pgTmg d.val) = true →
    let c := s.chip
    let pg := pgTmg d.val
    let port := c.field pg 0x1000 0 7
    let kind := c.field pg 0x1010 0 2
    let n := if kind = 0 then port else if kind = 1 then 128 + port * 16 + c.field pg 0x1000 8 4
      else 2176 + c.field pg 0x1010 2 9
    (kind = 3 → exec (.shaperApply d) s = .next s) ∧
    (kind ≠ 3 → exec (.shaperApply d) s = .next (s.put (c.setShaper d.val n { c.shaper d.val n with
      pending := some (c.field pg 0x1014 0 24 n, c.field pg 0x1018 0 24 n), applied := c.time.now }))) ∧
    let p := d.val * 128 + port
    let g := c.gate p
    let starts (list : Bool) (from_ at_ : Int) : Prop :=
      (at_ - c.gclBase p list) % (c.gclCycle p list : Int) = 0 ∧ from_ ≤ at_ ∧ at_ < from_ + c.gclCycle p list
    ∃ from_ at_ : Int, (c.gateEn p = true → starts g.oper (c.time.now + 1) from_) ∧
      (c.gateEn p = false → from_ = c.time.now) ∧ starts (!g.oper) from_ at_ ∧
      exec (.gateSwitch d) s = .next (s.put (c.setGate p { g with pending := true, at_ := at_ }))) ∧
  (∀ (s : State) (p : LPort), s.chip.mainUp = true →
    let c := s.chip
    let g := c.gate p.val
    let shows (list : Bool) : BitVec 16 := if c.gateEn p.val then c.gatesAt p.val list c.time.now else 0xFFFF
    (g.pending = false ∨ (c.time.now : Int) < g.at_ → exec (.gateSwitchEffect p) s = .next s) ∧
    (g.pending = true → g.at_ ≤ (c.time.now : Int) → Yields (.gateSwitchEffect p) s (fun t =>
      t.gate p.val = { oper := !g.oper, pending := false, at_ := g.at_, gates := shows (!g.oper) } ∧
      (∀ q, q ≠ p.val → t.gate q = c.gate q) ∧ Chip.only [.traf] c t)) ∧
    exec (.gateIntervalBoundary p) s = .next (s.put (c.setGate p.val { g with gates := shows g.oper })))

/-- SAMPLE_INTERVAL_CLOSE, Q_SAMP_SEQ_READ, WM_FLAG_CLEAR, FLOW_READ, FLOW_WRITE and FLOW_DELETE. TMG_FLOW_STAT at 0x1104: FULL 1,
MISS 2, reserved bits 3. A queue of the die is port * 16 + TC. -/
def Obligations.QueuesAreSampledAndFlowsStored : Prop :=
  (∀ (s : State) (d : PDie), s.chip.mainUp = true →
    let c := s.chip
    let span := 65536 * 2 ^ min 20 (c.field (pgTmg d.val) 0x1080 4 5)
    let en := c.flag (pgTmg d.val) 0x1080 0
    let ends : Prop := c.time.now / 65536 * 65536 % span = 0
    (¬ ends → exec (.sampleIntervalClose d) s = .next s) ∧
    (ends → en = false → Yields (.sampleIntervalClose d) s (fun t =>
      (∀ n < 128, ∀ tc < 16, let p := d.val * 128 + n
        t.queueSt p tc = { c.queueSt p tc with delayMax := 0 }) ∧ Chip.only [.traf] c t)) ∧
    (ends → en = true → Yields (.sampleIntervalClose d) s (fun t =>
      (∀ n < 128, ∀ tc < 16, let p := d.val * 128 + n
        t.queueSt p tc = { c.queueSt p tc with
          sampDepth := c.depth p tc, sampDelay := (c.queueSt p tc).delayMax, delayMax := 0 }) ∧
      t.reg (pgTmg d.val) 0x1090 = BitVec.ofNat 32 (c.time.now / span) ∧ Chip.only [.regs, .traf] c t ∧
      c.regsBut t [regKey (pgTmg d.val) 0x1090 0]))) ∧
  (∀ (s : State) (d : PDie), s.chip.serves (pgTmg d.val) = false →
    exec (.qSampSeqRead d) s = .next (s.put (s.chip.answer 0))) ∧
  (∀ (s : State) (d : PDie), s.chip.serves (pgTmg d.val) = true →
    let c := s.chip
    let pg := pgTmg d.val
    let port := c.field pg 0x1000 0 7
    let tc := c.field pg 0x1000 8 4
    let p := d.val * 128 + port
    let n := port * 16 + tc
    let x := c.queueSt p tc
    let dep := c.depth p tc
    let high : Prop := c.field pg 0x10C0 0 16 n * 64 ≤ dep
    let keep : W32 := BitVec.ofNat 32 (1 + dep % 2 ^ 24 * 256)
    let hit : Chip := ((c.setReg pg 0x10C4 keep n).bump pg 0x10C8 n).setQueueSt p tc { x with armed := false }
    exec (.qSampSeqRead d) s = .next (s.put (((c.setReg pg 0x1088 (BitVec.ofNat 32 (x.sampDepth % 2 ^ 24)) n).setReg pg
      0x108C (BitVec.ofNat 32 (min 0xFFFFFFFF x.sampDelay)) n).answer (c.reg pg 0x1090))) ∧
    (∀ (v : W32) (cross : Bool),
      (v.getLsbD 0 = false → exec (.wmFlagClear d v cross) s = .next s) ∧
      (v.getLsbD 0 = true →
        (cross = true → x.armed = true → c.flag pg 0x10C4 0 n = true →
          exec (.wmFlagClear d v cross) s = .next (s.put hit)) ∧
        (cross = true → x.armed = true → c.flag pg 0x10C4 0 n = false → exec (.wmFlagClear d v cross) s = .next (s.after
          (hit.raise (evP pg 0x0607 d.val (p + tc * 65536))))) ∧
        (cross = false ∨ x.armed = false → c.flag pg 0x10C4 0 n = true → high →
          exec (.wmFlagClear d v cross) s = .next (s.put (c.setReg pg 0x10C4 keep n))) ∧
        (cross = false ∨ x.armed = false → c.flag pg 0x10C4 0 n = false ∨ ¬ high →
          exec (.wmFlagClear d v cross) s = .next (s.put (c.setReg pg 0x10C4 0 n))))) ∧
    (let key := c.staged pg 0x1120 2 % 2 ^ 50
     (∀ w, c.flowWay key = some w →
       Yields (.flowRead d) s (fun t => t.staged pg 0x1120 8 = (c.flow (flowBucket key) w).toNat ∧
         t.flag pg 0x1104 2 = false ∧ Chip.only [.regs] c t) ∧
       exec (.flowDelete d) s = .next (s.put ((c.setFlow (flowBucket key) w 0).setFlag pg 0x1104 2 false))) ∧
     (c.flowWay key = none → ∀ i, i = .flowRead d ∨ i = .flowDelete d →
       exec i s = .next (s.put (c.setFlag pg 0x1104 2 true)))) ∧
    (let e : BitVec 256 := BitVec.ofNat 256 (c.staged pg 0x1120 8)
     let b := flowBucket (fld e 0 50)
     let reserved : Prop := fld e 50 14 ≠ 0 ∨ fld e 86 42 ≠ 0 ∨ fld e 208 48 ≠ 0
     let stored (w frames bytes : Nat) : Prop := Yields (.flowWrite d) s (fun t =>
       fld (t.flow b w) 0 128 = fld e 0 128 ∧ fld (t.flow b w) 128 32 = frames ∧ fld (t.flow b w) 160 48 = bytes ∧
       t.flag pg 0x1104 1 = false ∧ t.flag pg 0x1104 3 = false ∧ Chip.only [.regs, .traf] c t ∧
       ∀ a j, a * 4 + j ≠ b * 4 + w → t.flow a j = c.flow a j)
     (reserved → exec (.flowWrite d) s = .next (s.put ((c.setFlag pg 0x1104 1 false).setFlag pg 0x1104 3 true))) ∧
     (¬ reserved →
       (∀ w, c.flowWay (fld e 0 50) = some w → stored w (fld (c.flow b w) 128 32) (fld (c.flow b w) 160 48)) ∧
       (∀ w < 4, c.flowWay (fld e 0 50) = none → flowValid (c.flow b w) = false →
         (∀ j < w, flowValid (c.flow b j) = true) → stored w 0 0) ∧
       (c.flowWay (fld e 0 50) = none → (∀ j < 4, flowValid (c.flow b j) = true) →
         exec (.flowWrite d) s = .next (s.put ((c.setFlag pg 0x1104 1 true).setFlag pg 0x1104 3 false))))))

/-- CELL_TIME (R288, R321, R384), BRAKE_LEVEL_CHANGE (R207) and DIVERTED_FRAME_DISPATCH (R208, R197). A cell time starts where
the crossbar's meter lets it: RATE per slot, 656 units of fabric time (2.56 ns) apart. A waiting cell of a wave goes first
at level 0, the oldest frame at level 1, and a frame that has started goes on at level 2. XBR counters: 0x1000 + 4 * level cells, 0x100C
cell times with an unserved input. The order of diverted frames is the model's reading (see the log). -/
def Obligations.CellsCrossAndBrakesReachThePorts : Prop :=
  (∀ s : State, s.chip.mainUp = true →
    let c := s.chip
    let rs := c.xRequests
    let slot := c.time.now / 65536
    let begun := if c.traf.xslot = slot then c.traf.xstarted else 0
    let open_ : Prop := begun < c.field pgPwr 0x1044 0 16 16 ∧
      ∀ n, c.traf.xlast = some n → n + 656 ≤ c.time.now ∨ c.time.now < n
    (¬ open_ → exec .cellTime s = .next s) ∧
    (open_ → ∃ ms : List XReq, (∀ m ∈ ms, m ∈ rs) ∧ (ms.map (·.i)).Nodup ∧ (ms.map (·.o)).Nodup ∧
      Yields .cellTime s (fun t =>
        (∀ k, k ∉ ms.map (·.key) → t.voq k = c.voq k) ∧
        (∀ k ∈ ms.map (·.key), ∃ pre x post, c.voq k = pre ++ x :: post ∧
          (k % 3 = 0 → (∃ y ∈ c.voq k, y.wave = true ∧ c.crossing y.after = false) → x.wave = true) ∧
          (k % 3 = 1 → ∀ y ∈ pre, c.crossing y.after = true) ∧
          (k % 3 = 2 → (∃ y ∈ c.voq k, y.started = true ∧ c.crossing y.after = false) → x.started = true) ∧
          t.voq k = (c.voq k).filterMap (fun y =>
            if y.num ≠ x.num then some y
            else if y.cells ≤ 1 then none else some { y with cells := y.cells - 1, started := true })) ∧
        (∀ lv < 3, t.reg pgXbr (0x1000 + 4 * lv) = c.reg pgXbr (0x1000 + 4 * lv) +
          BitVec.ofNat 32 (ms.filter (fun m => decide (m.lv = lv))).length) ∧
        t.reg pgXbr 0x100C = c.reg pgXbr 0x100C + (if ∃ r ∈ rs, r.i ∉ ms.map (·.i) then 1 else 0) ∧
        Chip.only [.regs, .traf, .act, .port] c t ∧ t.traf = { c.traf with
          voq := t.traf.voq, xrot := t.traf.xrot, gptr := t.traf.gptr, aptr := t.traf.aptr, eg := t.traf.eg
          xlast := some c.time.now, xslot := slot, xstarted := begun + 1 }))) ∧
  (∀ (s : State) (d : PDie) (src : Fin 18) (l : Liv), s.chip.mainUp = true → Yields (.brakeLevelChange d src l) s (fun t =>
    t.knownLevel d.val src.val l.toNat = s.chip.dieLevel (if src.val < 16 then 8 + src.val else 12 + src.val) l.toNat ∧
    (∀ e k m, (e * 18 + k) * 256 + m ≠ (d.val * 18 + src.val) * 256 + l.toNat →
      t.knownLevel e k m = s.chip.knownLevel e k m) ∧ Chip.only [.pool] s.chip t)) ∧
  (∀ (s : State) (pd : PDie) (d : CDie) (l : Liv) (rd : CellRead), s.chip.mainUp = true → s.chip.dieFailed (8 + d.val) = false →
    let c := s.chip
    let lv := c.knownLevel pd.val d.val l.toNat
    let ready (x : Diverted) : Prop := x.pdie = pd.val ∧ x.dest = d.val ∧ hLiv x.msg.hdr = l.toNat ∧
      lv < (if hSub x.msg.hdr = 0 then 2 else 3)
    ((∀ x ∈ c.traf.diverted, ¬ ready x) → exec (.divertedFrameDispatch pd d l rd) s = .next s) ∧
    ∀ pre x post, c.traf.diverted = pre ++ x :: post → ready x →
      (∀ y ∈ pre, ¬ ready y ∧ (y.lport ≠ x.lport ∨ y.dest ≠ x.dest ∨ y.msg.key ≠ x.msg.key)) →
      ∀ us k, c.allocUnits (8 + d.val) 2 l.toNat (cellsFor x.msg.len) = (us, k) →
        (us = none → exec (.divertedFrameDispatch pd d l rd) s = .next (s.after k)) ∧
        (∀ vs, us = some vs →
          let k1 : Chip := { k with traf := { k.traf with diverted := pre ++ post } }
          let r := (k1.cross x.msg (256 + d.val) x.lport).2.readCells x.msg rd
          (r.1 = none → exec (.divertedFrameDispatch pd d l rd) s = .next (s.after
            ((r.2.dropCells x.msg.cells).dropStg d.val vs))) ∧
          (∀ m, r.1 = some m → exec (.divertedFrameDispatch pd d l rd) s = .next (s.after
            ((r.2.dropCells x.msg.cells).atCoach d.val { m with cells := [] } vs)))))

/-- The ten commands of the TTB page. Refusals of entries and sets are ERR [7:4] and count 0x1400; TTB_LIV_STAT at 0x1208: BANK 0,
SWAP_PEND 1, OLD_BUSY 2, refused swap 4, record 5, cycle 6. That a live record write counts there is the model's reading. -/
def Obligations.TimetablesAreWrittenAndSwapped : Prop :=
  (∀ s : State, s.chip.serves pgTtb = true →
    let c := s.chip
    let bank := c.flag pgTtb 0x1000 16
    let idx := c.field pgTtb 0x1000 0 16
    let e : Entry := BitVec.ofNat 512 (c.staged pgTtb 0x1040 16)
    let live : Prop := ∃ l < 256, c.ownsEntry l idx bank = true ∧ c.bankLive l bank = true
    let bad (k : Nat) : Prop :=
      (k = 1 ∧ (6 ≤ eOp e ∨ eRmode e = 3 ∨ ePolicy e = 3)) ∨ (k = 2 ∧ (eCdStripe e = 0 ∨ 16 < eCdStripe e)) ∨
      (k = 3 ∧ ¬ (eOpenSlot e ≤ eCutoff e ∧ eCutoff e ≤ eDeadline e ∧ eDeadline e < 2 * c.cycle (eLiv e) bank)) ∨
      (k = 4 ∧ eOp e = 1 ∧ eShardChunks e = 0) ∨ (k = 5 ∧ eGrid e = true ∧ (eRowMask e = 0 ∨ eColMask e = 0)) ∨
      (k = 6 ∧ c.ownsEntry (eLiv e) idx bank = false) ∨
      (k = 7 ∧ eOrdered e = true ∧ (eFanin e = 0 ∨ 1024 < eFanin e)) ∨ (k = 8 ∧ entryReserved e = true)
    let refuse (k : Nat) : Chip := (c.setField pgTtb 0x1008 4 4 k).bump pgTtb 0x1400
    let put (i : Instr) (x : Entry) : Prop := Yields i s (fun t => t.ttEntry bank idx = x ∧ t.field pgTtb 0x1008 4 4 = 0 ∧
      (∀ b j, j < 65536 → ¬ (b = bank ∧ j = idx) → t.ttEntry b j = c.ttEntry b j) ∧ t.tt.csets = c.tt.csets ∧
      t.tt.swaps = c.tt.swaps ∧ Chip.only [.regs, .tt] c t ∧ c.regsBut t [regKey pgTtb 0x1008 0])
    Yields .ttbEntRead s (fun t => t.staged pgTtb 0x1040 16 = (c.ttEntry bank idx).toNat ∧ t.field pgTtb 0x1008 4 4 = 0 ∧
      Chip.only [.regs] c t) ∧
    (live → ∀ i, i = .ttbEntWrite ∨ i = .ttbEntInvalidate → exec i s = .next (s.put (refuse 9))) ∧
    (¬ live →
      (∀ k, eValid e = true → bad k → (∀ j < k, ¬ bad j) → exec .ttbEntWrite s = .next (s.put (refuse k))) ∧
      (eValid e = false ∨ (∀ k, ¬ bad k) → put .ttbEntWrite e) ∧
      put .ttbEntInvalidate (putBit (c.ttEntry bank idx) 0 false)) ∧
    let cbank := c.flag pgTtb 0x1080 16
    let ci := c.field pgTtb 0x1080 0 12
    Yields .ttbCsetRead s (fun t => t.staged pgTtb 0x1100 32 = (c.ttCset cbank ci).toNat ∧ t.field pgTtb 0x1088 4 4 = 0 ∧
      Chip.only [.regs] c t) ∧
    (c.csetLive cbank ci = true →
      exec .ttbCsetWrite s = .next (s.put ((c.setField pgTtb 0x1088 4 4 9).bump pgTtb 0x1400))) ∧
    (c.csetLive cbank ci = false → Yields .ttbCsetWrite s (fun t =>
      (t.ttCset cbank ci).toNat = c.staged pgTtb 0x1100 32 % 2 ^ 1024 ∧ t.field pgTtb 0x1088 4 4 = 0 ∧
      t.tt.entries = c.tt.entries ∧ t.tt.swaps = c.tt.swaps ∧ Chip.only [.regs, .tt] c t))) ∧
  (∀ (s : State) (v : W32), s.chip.serves pgTtb = true →
    let c := s.chip
    let l := c.field pgTtb 0x1200 0 8
    let refuse : Chip := (c.setFlag pgTtb 0x1208 5 true l).bump pgTtb 0x1400
    let cy := fld v 0 24
    let first := fld v 0 16
    let last := fld v 16 16
    let overlap (bank : Bool) : Prop := first ≤ last ∧ ∃ k < 256, k ≠ l ∧ c.entFirst k bank ≤ c.entLast k bank ∧
      first ≤ c.entLast k bank ∧ c.entFirst k bank ≤ last
    (∀ bank : Bool,
      (c.bankLive l bank = true ∨ (1 ≤ cy ∧ cy ≤ 63) → exec (.liveryRecordWrite (.cycle bank) v) s = .next (s.put refuse)) ∧
      (c.bankLive l bank = false → cy = 0 ∨ 63 < cy → exec (.liveryRecordWrite (.cycle bank) v) s = .next (s.put
        (c.setReg pgTtb (if bank then 0x1224 else 0x1220) (BitVec.ofNat 32 cy) l))) ∧
      (c.bankLive l bank = true ∨ overlap bank → exec (.liveryRecordWrite (.range bank) v) s = .next (s.put refuse)) ∧
      (c.bankLive l bank = false → ¬ overlap bank → exec (.liveryRecordWrite (.range bank) v) s = .next (s.put
        (c.setReg pgTtb (if bank then 0x122C else 0x1228) v l)))) ∧
    (c.ttEnabled l = true → v.getLsbD 0 = true → exec (.ttbLivCtrlWrite v) s = .next s) ∧
    (c.ttEnabled l = true → v.getLsbD 0 = false → Yields (.ttbLivCtrlWrite v) s (fun t => t.ttEnabled l = false ∧
      t.swapPending l = false ∧ (c.swapPending l = true → t.swapOf l = none) ∧ t.ttBank l = c.ttBank l ∧
      Chip.only [.regs, .tt] c t)) ∧
    (c.ttEnabled l = false → v.getLsbD 0 = false →
      exec (.ttbLivCtrlWrite v) s = .next (s.put (c.setReg pgTtb 0x1204 (v &&& 6) l))) ∧
    (c.ttEnabled l = false → v.getLsbD 0 = true → c.cycle l (v.getLsbD 1) = 0 → exec (.ttbLivCtrlWrite v) s = .next (s.put
      ((c.setFlag pgTtb 0x1208 6 true l).bump pgTtb 0x1400))) ∧
    (c.ttEnabled l = false → v.getLsbD 0 = true → c.cycle l (v.getLsbD 1) ≠ 0 → Yields (.ttbLivCtrlWrite v) s (fun t =>
      t.reg pgTtb 0x1204 l = v &&& 7 ∧ t.ttBank l = v.getLsbD 1 ∧ t.swapPending l = false ∧ t.oldBusy l = false ∧
      t.swapOf l = none ∧ (∀ d < 16, Tbl.get 0 t.coach.ledgerSeq (d * 256 + l) = 0) ∧ t.coach.dies = c.coach.dies ∧
      Chip.only [.regs, .tt, .coach] c t)) ∧
    (let may (b : Bool) (t : Int) (cOld : Nat) : Prop := c.governs l v = some (b, t, cOld) ∧ c.ttEnabled l = true ∧
       64 ≤ c.cycle l (!b) ∧ c.swapPending l = false ∧ c.oldBusy l = false ∧ 0 < (v - c.currentStep l).toInt ∧
       (c.time.now : Int) < t - (max cOld (c.cycle l (!b)) * 65536 : Nat)
     (∀ b at_ cOld, may b at_ cOld → 0 ≤ at_ → at_ < 2 ^ 64 → Yields (.ttbLivSwap v) s (fun t => t.swapPending l = true ∧
       t.swapOf l = some ⟨v, at_, cOld, (c.swapOf l).map (·.step)⟩ ∧ t.anchorTime l = at_ ∧ t.anchorStep l = v ∧
       t.ttBank l = c.ttBank l ∧ t.reg pgTtb 0x1404 = c.reg pgTtb 0x1404 + 1 ∧ Chip.raised c t (evV pgTtb 0x0301 24 l) ∧
       Chip.only [.regs, .ev, .snap, .tt] c t)) ∧
     ((∀ b t cOld, ¬ may b t cOld) → exec (.ttbLivSwap v) s = .next (s.after
       (((c.setFlag pgTtb 0x1208 4 true l).bump pgTtb 0x1408).raise (evV pgTtb 0x0302 24 l)))))) ∧
  (∀ (s : State) (lv : Liv), s.chip.mainUp = true →
    let c := s.chip
    let l := lv.toNat
    (c.swapOf l = none ∨ c.swapPending l = false ∨ (∃ x, c.swapOf l = some x ∧ (c.time.now : Int) < x.t) →
      exec (.ttbSwapTakeEffect lv) s = .next s) ∧
    (∀ x, c.swapOf l = some x → c.swapPending l = true → x.t ≤ (c.time.now : Int) →
      Yields (.ttbSwapTakeEffect lv) s (fun t => t.ttBank l = !c.ttBank l ∧ t.swapPending l = false ∧
        t.oldBusy l = true ∧ t.swapOf l = some x ∧ t.tt = c.tt)) ∧
    (c.swapOf l = none ∨ c.oldBusy l = false ∨
        (∃ x, c.swapOf l = some x ∧ (c.time.now : Int) < x.t + (x.cOld * 65536 : Nat)) →
      exec (.ttbOldBankRelease lv) s = .next s) ∧
    (∀ x, c.swapOf l = some x → c.oldBusy l = true → x.t + (x.cOld * 65536 : Nat) ≤ (c.time.now : Int) →
      exec (.ttbOldBankRelease lv) s = .next (s.put (c.setFlag pgTtb 0x1208 2 false l))))

/-- The thirteen commands of routing. An output that a drain held meets its route when it is released (R141, R292). RTE_SWAP_STAT at 0x1024: DRAINING 0, REFUSED 1, slow 2. Writes refused count 0x1808, swaps
0x180C. That a refused group or address write counts there is the model's reading (see the log). -/
def Obligations.RoutesSwapAndTablesAreWritten : Prop :=
  (∀ s : State, s.chip.serves pgRte = true →
    let c := s.chip
    let bank := c.flag pgRte 0x1000 18
    let eid := c.field pgRte 0x1000 0 18
    let e : BitVec 64 := BitVec.ofNat 64 (c.staged pgRte 0x1010 2)
    let refuse (stat : Nat) : Chip := (c.setFlag pgRte stat 1 true).bump pgRte 0x1808
    let bad : Prop := c.dgBank (eid / 64) = bank ∨ c.inDrain eid = true ∨ fld e 26 6 ≠ 0 ∨ fld e 33 31 ≠ 0
    let g := c.field pgRte 0x1310 0 14
    let ge : BitVec 1152 := BitVec.ofNat 1152 (c.staged pgRte 0x1400 36)
    let key := c.staged pgRte 0x1540 5
    let ae : BitVec 256 := BitVec.ofNat 256 (c.staged pgRte 0x1540 8)
    let b := adBucket (fld ae 0 160)
    let free (w : Nat) : Prop := fld (c.addr b w) 0 2 = 0
    let abad : Prop := fld ae 22 10 ≠ 0 ∨ fld ae 190 2 ≠ 0 ∨ fld ae 240 16 ≠ 0
    let stores (w : Nat) : Prop := exec .addrWrite s = .next (s.put
      (((c.setAddr b w ae).setFlag pgRte 0x1524 1 false).setFlag pgRte 0x1524 2 false))
    Yields .routeEntRead s (fun t => t.staged pgRte 0x1010 2 = (c.routeEnt bank eid).toNat ∧ Chip.only [.regs] c t) ∧
    (bad → exec .routeEntWrite s = .next (s.put (refuse 0x1008))) ∧
    (¬ bad → Yields .routeEntWrite s (fun t => t.routeEnt bank eid = e ∧ t.flag pgRte 0x1008 1 = false ∧
      (∀ k j, j < 262144 → ¬ (k = bank ∧ j = eid) → t.routeEnt k j = c.routeEnt k j) ∧ Chip.only [.regs, .rte] c t ∧
      t.rte = { c.rte with routes := t.rte.routes } ∧ c.regsBut t [regKey pgRte 0x1008 0])) ∧
    Yields .groupRead s (fun t => t.staged pgRte 0x1400 36 = (c.group g).toNat ∧ Chip.only [.regs] c t) ∧
    (fld ge 1073 15 ≠ 0 ∨ fld ge 1106 46 ≠ 0 → exec .groupWrite s = .next (s.put (refuse 0x1318))) ∧
    (fld ge 1073 15 = 0 → fld ge 1106 46 = 0 → Yields .groupWrite s (fun t => t.group g = ge ∧
      (∀ j, j ≠ g → t.group j = c.group j) ∧ t.rte = { c.rte with groups := t.rte.groups } ∧
      c.regsBut t [regKey pgRte 0x1318 0] ∧ Chip.only [.regs, .rte] c t)) ∧
    (∀ x, c.addrFind key = some x → Yields .addrRead s (fun t => t.staged pgRte 0x1540 8 = x.toNat ∧
      t.flag pgRte 0x1524 3 = false ∧ Chip.only [.regs] c t)) ∧
    (∀ w, c.addrWay key = some w → exec .addrDelete s = .next (s.put
      ((c.setAddr (adBucket key) w 0).setFlag pgRte 0x1524 3 false))) ∧
    (c.addrWay key = none → ∀ i, i = .addrRead ∨ i = .addrDelete →
      exec i s = .next (s.put (c.setFlag pgRte 0x1524 3 true))) ∧
    (abad → exec .addrWrite s = .next (s.put ((refuse 0x1524).setFlag pgRte 0x1524 2 false))) ∧
    (¬ abad → (∀ w, c.addrWay (fld ae 0 160) = some w → stores w) ∧
      (∀ w < 4, c.addrWay (fld ae 0 160) = none → free w → (∀ j < w, ¬ free j) → stores w) ∧
      (c.addrWay (fld ae 0 160) = none → (∀ j < 4, ¬ free j) → exec .addrWrite s = .next (s.put
        (((c.setFlag pgRte 0x1524 2 true).setFlag pgRte 0x1524 1 false).bump pgRte 0x1808)))) ∧
    (∀ v, exec (.gridMapWrite v) s = .next (s.put
      (c.setReg pgRte 0x1304 (v &&& 0x800FFFFF) (c.field pgRte 0x1300 0 6)))) ∧
    (∀ v : W32,
      let first := fld v 0 12
      let last := fld v 12 12
      let no : Prop := c.rte.drain ≠ none ∨ last < first ∨ ∃ k, first ≤ k ∧ k ≤ last ∧ c.dgBank k ≠ c.dgBank first
      (fld v 24 2 ≠ 1 → exec (.routeSwap v) s = .next s) ∧
      (fld v 24 2 = 1 → no → exec (.routeSwap v) s = .next (s.put (c.setFlag pgRte 0x1024 1 true))) ∧
      (fld v 24 2 = 1 → ¬ no → exec (.routeSwap v) s = .next (s.put
        ((c.setDrain (some ⟨first, last, c.time.now, false, []⟩)).setFlag pgRte 0x1024 0 true)))) ∧
    (c.rte.drain = none → exec .routeSwapCancel s = .next s) ∧
    (∀ d, c.rte.drain = some d → exec .routeSwapCancel s = .next (s.after (forAll d.held
      ((c.setDrain none).setFlag pgRte 0x1024 0 false)
      (fun m t => match m.coach with
        | some (n, i) => t.releaseOutput n i m
        | none => t.routeOn m .good (decide (m.inPort < 1024))))))) ∧
  (∀ (c : Chip) (n i : Nat) (m : Msg),
    let gone (k : Chip) : Chip := k.dropCells m.cells
    let look := c.lookup (hDst m.hdr) 0
    let aborts (k : Chip) : Chip := k.abortCoach n i 0x020B (some (pgCch n))
    ((c.slot n i).phase ≠ .packing → c.releaseOutput n i m = gone c) ∧
    ((c.slot n i).phase = .packing →
      (∀ q, look = .port q → c.releaseOutput n i m = c.place q m .good) ∧
      (look = .miss → c.releaseOutput n i m = aborts (gone (c.bump pgRte 0x1800))) ∧
      (look = .self → c.releaseOutput n i m = aborts (gone c)) ∧
      (look = .down → c.releaseOutput n i m = aborts (gone (c.bump pgRte 0x1804))))) ∧
  (∀ s : State, s.chip.mainUp = true →
    let c := s.chip
    (c.rte.drain = none ∨ (∃ d, c.rte.drain = some d ∧ c.inFlight d ≠ 0) → exec .routeSwapSwitch s = .next s) ∧
    (∀ d, c.rte.drain = some d → c.inFlight d = 0 → Yields .routeSwapSwitch s (fun t =>
      (∀ k < 4096, t.dgBank k = if d.first ≤ k ∧ k ≤ d.last then !c.dgBank k else c.dgBank k) ∧ t.rte.drain = none ∧
      t.flag pgRte 0x1024 0 = false ∧ t.reg pgRte 0x180C = c.reg pgRte 0x180C + 1)) ∧
    (c.rte.drain = none ∨ (∃ d, c.rte.drain = some d ∧ (d.slow = true ∨ c.time.now < d.since + 100 * 256000)) →
      exec .routeDrainSlow s = .next s) ∧
    (∀ d, c.rte.drain = some d → d.slow = false → d.since + 100 * 256000 ≤ c.time.now → exec .routeDrainSlow s = .next
      (s.after (((c.setDrain (some { d with slow := true })).setFlag pgRte 0x1024 2 true).raise
        (evP pgRte 0x0602 24 (d.first + d.last * 65536))))))

/-- TEARDOWN, TEARDOWN_TIMER_EXPIRY, TEARDOWN_DONE, TEARDOWN_RELEASE, LIV_CTRL_WRITE, SEED_WRITE, ENERGY_ATTRIBUTION and
ENERGY_LO_READ. RTE_TD_STAT at 0x160C: timer 0, ACTIVE 1, DONE 2, TIMEOUT 3. Energy modulo 2^64 is the model's (see the log). The activity of a livery
since the last attribution, each event at its coefficient and its die's gain (`workEnergy`), is charged to its counter in whole
microjoules; the work of none (256), the static power and the loss in regulation go to the unattributed one. -/
def Obligations.LiveriesAreTornDownAndReturned : Prop :=
  (∀ (s : State) (i : Instr) (l : Nat) (timeout : Bool),
    (i = .teardown ∧ s.chip.serves pgRte = true ∧ l = s.chip.field pgRte 0x1600 0 8 ∧ timeout = false ∨
      (∃ lv : Liv, i = .teardownTimerExpiry lv ∧ s.chip.mainUp = true ∧ l = lv.toNat ∧ timeout = true ∧
        s.chip.tdStat l 0 = true ∧
        (s.chip.lostOf l).since + max 1 (s.chip.field pgRte 0x1604 0 20 l) * 256000 ≤ s.chip.time.now)) →
    let c := s.chip
    (c.tornDown l = true → exec i s = .next s) ∧
    (c.tornDown l = false → Yields i s (fun t =>
      t.tornDown l = true ∧ t.tdStat l 2 = false ∧ t.tdStat l 3 = timeout ∧ t.ttEnabled l = false ∧
      t.flag pgRte 0x14 0 = true ∧
      (∀ d < 16, (∀ n, (c.slot d n).livery = l →
          (c.slot d n).phase = .folding ∨ (c.slot d n).phase = .sealed ∨ (c.slot d n).phase = .packing →
          (t.slot d n).phase = .aborting ∧ (t.slot d n).cause = 0x0605) ∧
        ∀ x ∈ (t.cch d).waiting, wLiv x.wb ≠ l) ∧
      ∀ k, (t.putCtr k).busy = true → (t.putCtr k).livery ≠ l))) ∧
  (∀ (s : State) (lv : Liv), s.chip.mainUp = true →
    let c := s.chip
    let l := lv.toNat
    (c.tdStat l 0 = false ∨ c.time.now < (c.lostOf l).since + max 1 (c.field pgRte 0x1604 0 20 l) * 256000 →
      exec (.teardownTimerExpiry lv) s = .next s) ∧
    (c.tornDown l = false ∨ c.tdStat l 2 = true → exec (.teardownDone lv) s = .next s) ∧
    (c.tornDown l = true → c.tdStat l 2 = false → Yields (.teardownDone lv) s (fun t => t.tdStat l 2 = true ∧
      t.tornDown l = true ∧ (∀ d < 16, ∀ n, (t.slot d n).livery = l → (t.slot d n).phase ≠ .aborting) ∧
      ∀ k, Tbl.get 0 t.pool.owner k = l + 1 → k / 1048576 % 8 = 3 ∧
        (t.cell (k / 8388608 - 28) (k % 1048576)).quarantined = true))) ∧
  (∀ s : State, s.chip.serves pgRte = true →
    let c := s.chip
    let l := c.field pgRte 0x1600 0 8
    (c.tdStat l 2 = false → exec .teardownRelease s = .next s) ∧
    (c.tdStat l 2 = true → exec .teardownRelease s = .next (s.put
      ((c.setFlag pgRte 0x160C 1 false l).setFlag pgRte 0x160C 2 false l)))) ∧
  (∀ s : State, s.chip.serves pgLiv = true →
    let c := s.chip
    let l := c.field pgLiv 0x1000 0 8
    (∀ v : W32,
      let clears : Prop := c.livValid l = true ∧ v.getLsbD 0 = false
      let rises : Prop := c.livValid l = false ∧ v.getLsbD 0 = true
      (clears → c.livBusy l = true → exec (.livCtrlWrite v) s = .next (s.put (c.setFlag pgLiv 0x1008 0 true l))) ∧
      (¬ clears ∨ c.livBusy l = false → Yields (.livCtrlWrite v) s (fun t =>
        t.reg pgLiv 0x1004 l = v &&& 0x3FF001F ∧ c.regsBut t [regKey pgLiv 0x1004 l] ∧
        (∀ k, Tbl.get 0 t.sec.seeds k = if clears ∧ k / 16 = l then 0 else Tbl.get 0 c.sec.seeds k) ∧
        (∀ k, t.energyOf k = if rises ∧ k = l then 0 else c.energyOf k) ∧ (¬ rises → t.act = c.act) ∧
        (rises → Tbl.get 0 t.act.rest l = 0 ∧ t.workEnergy l = 0) ∧ Chip.only [.regs, .sec, .act] c t ∧
        t.vault = c.vault))) ∧
    (∀ n, exec (.seedWrite n) s = .next (s.put { c with sec := { c.sec with
      seeds := Tbl.set 0 c.sec.seeds (l * 16 + n.toNat) c.sec.seedStage } })) ∧
    exec (.energyLoRead false) s = .next (s.put ((c.setReg pgLiv 0x1034 (BitVec.ofNat 32 (c.energyOf l / 2 ^ 32)) l).answer
      (BitVec.ofNat 32 (c.energyOf l)))) ∧
    exec (.energyLoRead true) s = .next (s.put ((c.setReg pgLiv 0x103C (BitVec.ofNat 32 (c.energyOf 256 / 2 ^ 32))).answer
      (BitVec.ofNat 32 (c.energyOf 256))))) ∧
  (∀ (s : State) (un : Bool), s.chip.serves pgLiv = false → exec (.energyLoRead un) s = .next (s.put (s.chip.answer 0))) ∧
  (∀ s : State, s.chip.standbyUp = true → s.chip.dieFailed 31 = false →
    let c := s.chip
    let takes (k : Nat) (e : Rat) (t : Chip) : Prop :=
      let sum := Tbl.get 0 c.act.rest k + e
      let n : Int := max 0 sum.floor
      t.energyOf k = (c.energyOf k + n.toNat) % 2 ^ 64 ∧ Tbl.get 0 t.act.rest k = sum - n
    Yields .energyAttribution s (fun t =>
      (∀ l < 256, (∃ kv ∈ c.act.work, kv.1 % 257 = l) → takes l (c.workEnergy l) t) ∧
      (∀ l < 256, (∀ kv ∈ c.act.work, kv.1 % 257 ≠ l) →
        t.energyOf l = c.energyOf l ∧ Tbl.get 0 t.act.rest l = Tbl.get 0 c.act.rest l) ∧
      takes 256 (c.workEnergy 256 + c.act.idle + (Config.lossMicrojoule c.fresh : Rat)) t ∧
      t.act.work = [] ∧ t.act.idle = 0 ∧ t.act.due = c.act.due ∧ Chip.only [.sec, .act, .fresh] c t ∧
      t.vault = c.vault ∧ t.sec.seeds = c.sec.seeds))

/-- POL_QUOTA_WRITE, POL_THR_WRITE, QUARANTINE_RELEASE and QUARANTINE_RELEASE_DONE (March SS over the cell's 32 words). CAUTION and BRAKE are the halves of 0x1010,
STOP and HYST of 0x1014; QUOTA is at 0x1018; POL_STAT at 0x1024: QUOTA_ERR 2, THR_ERR 3. Levels: 1 caution, 2 brake, 3 stop. -/
def Obligations.PoolsKeepQuotasLevelsAndQuarantine : Prop :=
  let levels (c t : Chip) (die pool l : Nat) : Prop :=
    let pg := pgPol die
    let free : Int := (t.quota die pool l : Int) - (t.used die pool l : Int)
    let thr (k : Nat) : Int := if k = 1 then t.field pg 0x1010 0 16 pool else if k = 2 then t.field pg 0x1010 16 16 pool
      else t.field pg 0x1014 0 16 pool
    let hyst : Int := t.field pg 0x1014 16 16 pool
    let cur := c.level die pool l
    let new := t.level die pool l
    let up (k : Nat) : Prop := cur < k ∧ k ≤ 3 ∧ free < thr k
    (t.quota die pool l = 0 → new = 0) ∧
    (t.quota die pool l ≠ 0 → (∃ k, up k) → up new ∧ ∀ k, up k → k ≤ new) ∧
    (t.quota die pool l ≠ 0 → (¬ ∃ k, up k) → new ≤ cur ∧ (∀ k, new < k → k ≤ cur → thr k + hyst ≤ free) ∧
      (new = 0 ∨ free < thr new + hyst))
  let rose (c t : Chip) (die pool l : Nat) : Prop := c.level die pool l < t.level die pool l ∧ 2 ≤ t.level die pool l
  (∀ (s : State) (die : Die) (v : W32), s.chip.serves (pgPol die.val) = true →
    let c := s.chip
    let d := die.val
    let pg := pgPol d
    let pool := c.field pg 0x1000 0 3
    let l := c.field pg 0x1000 8 8
    let n := fld v 0 19
    let above : Prop := c.quotaLimit d pool < c.quotaSum d pool - c.quota d pool l + n
    let rest (t : Chip) : Prop := t.pool = { c.pool with level := t.pool.level } ∧ Chip.only [.regs, .ev, .snap, .pool] c t
    (poolOn d pool = false → exec (.polQuotaWrite die v) s = .next s ∧ ∀ b, exec (.polThrWrite die b v) s = .next s) ∧
    (poolOn d pool = true → c.quota d pool l < n ∧ above →
      exec (.polQuotaWrite die v) s = .next (s.put (c.setFlag pg 0x1024 2 true pool))) ∧
    (poolOn d pool = true → ¬ (c.quota d pool l < n ∧ above) → Yields (.polQuotaWrite die v) s (fun t =>
      t.quota d pool l = n ∧ (∀ k < 256, k ≠ l → t.quota d pool k = c.quota d pool k ∧ t.level d pool k = c.level d pool k) ∧
      levels c t d pool l ∧
      (rose c t d pool l → t.reg pg 0x1108 = c.reg pg 0x1108 + 1 ∧ Chip.raised c t (evT pg 0x0405 d l pool)) ∧
      (¬ rose c t d pool l → t.reg pg 0x1108 = c.reg pg 0x1108 ∧ t.ev = c.ev) ∧ rest t)) ∧
    (∀ second : Bool,
      let a := if second then c.reg pg 0x1010 pool else v
      let b := if second then v else c.reg pg 0x1014 pool
      let ordered : Prop := fld a 16 16 ≤ fld a 0 16 ∧ fld b 0 16 ≤ fld a 16 16
      (poolOn d pool = true → ¬ ordered →
        exec (.polThrWrite die second v) s = .next (s.put (c.setFlag pg 0x1024 3 true pool))) ∧
      (poolOn d pool = true → ordered → Yields (.polThrWrite die second v) s (fun t =>
        t.reg pg 0x1010 pool = a ∧ t.reg pg 0x1014 pool = b ∧
        (∀ k < 256, t.quota d pool k = c.quota d pool k ∧ levels c t d pool k) ∧
        (∃ ks : List Nat, ks.Nodup ∧ (∀ k, k ∈ ks ↔ k < 256 ∧ rose c t d pool k) ∧
          t.reg pg 0x1108 = c.reg pg 0x1108 + BitVec.ofNat 32 ks.length ∧
          t.ev.placed = c.ev.placed + ks.length) ∧ rest t)))) ∧
  (∀ (s : State) (b : BDie) (v : W32), s.chip.serves (pgPol (28 + b.val)) = true →
    let c := s.chip
    let pg := pgPol (28 + b.val)
    let run := Tbl.get none c.pool.quarRun b.val
    let u := fld v 0 18
    let starts : Prop := v.getLsbD 31 = true ∧ run = none ∧ (c.cell b.val u).quarantined = true
    (¬ starts → exec (.quarantineRelease b v) s = .next (s.put
      (c.setReg pg 0x1028 (BitVec.ofNat 32 (u + if run = none then 0 else 0x80000000))))) ∧
    (starts → Yields (.quarantineRelease b v) s (fun t =>
      Tbl.get none t.pool.quarRun b.val = some u ∧ t.reg pg 0x1028 = BitVec.ofNat 32 (u + 0x80000000) ∧
      t.flag pg 0x102C 0 = true ∧ t.pool = { c.pool with quarRun := t.pool.quarRun } ∧ Chip.only [.regs, .pool] c t)) ∧
    (∀ reads, run = none → exec (.quarantineReleaseDone b reads) s = .next s) ∧
    (∀ w reads, run = some w →
      let first := marchFirst 1 false (reads.filter (fun r => decide (r.word.toNat / 32 = w % 2048)))
      (first ≠ none → Yields (.quarantineReleaseDone b reads) s (fun t => Tbl.get none t.pool.quarRun b.val = none ∧
        t.flag pg 0x1028 31 = false ∧ t.flag pg 0x102C 0 = false ∧ t.flag pg 0x102C 1 = true ∧
        t.pool = { c.pool with quarRun := t.pool.quarRun } ∧ Chip.only [.regs, .pool] c t)) ∧
      (first = none → Yields (.quarantineReleaseDone b reads) s (fun t => Tbl.get none t.pool.quarRun b.val = none ∧
        t.flag pg 0x1028 31 = false ∧ t.flag pg 0x102C 1 = false ∧
        t.cell b.val w = { c.cell b.val w with quarantined := false, refs := 0 } ∧
        t.unitOwner (28 + b.val) 3 w = 0 ∧
        (∀ l < 256, c.unitOwner (28 + b.val) 3 w = l + 1 →
          t.used (28 + b.val) 3 l = c.used (28 + b.val) 3 l - 1 ∧ levels c t (28 + b.val) 3 l) ∧
        Chip.only [.regs, .ev, .snap, .pool, .bank, .act] c t))))

/-- A macro's two ports in one cycle (R196), the backgrounds of March C- and what the algorithms leave in a sound word (R215,
R216, R218), the first fault that a run shows, and spares that cover every fault (R220). MARCH_START, MARCH_DONE, TABLE_COPY_REFETCH_DONE, RETENTION_ENTRY, RETENTION_ENTRY_COMPLETE, BANK_WAKE and BANK_WAKE_DONE.
MEM_MARCH_STAT at 0x1004: BUSY 0, PASS 1, FAIL 2, REPAIRED 3, FENCED 4, REFUSED 5. A run with ALG 3 or on a bank that does
not exist is refused, and a fault in a run without repair is FAIL only: the model's readings (see the log). -/
def Obligations.BanksAreTestedAndSleep : Prop :=
  (∀ (m : Tbl (BitVec 137)) (a b : PortAccess (BitVec 137)),
    let r := portCycle 0 m a b
    (∀ k, a = .read k → r.a = some (Tbl.get 0 m k)) ∧ (∀ k, b = .read k → r.b = some (Tbl.get 0 m k)) ∧
    (∀ k y, b = .write k y → Tbl.get 0 r.mem k = y) ∧
    (∀ k x, a = .write k x → (∀ y, b ≠ .write k y) → Tbl.get 0 r.mem k = x ∧ r.collided = false) ∧
    (∀ k x y, a = .write k x → b = .write k y → r.collided = true) ∧
    (∀ k, (∀ x, a ≠ .write k x ∧ b ≠ .write k x) → Tbl.get 0 r.mem k = Tbl.get 0 m k)) ∧
  (∀ m < 7, ∀ i < 137, (marchBackground (m + 1)).getLsbD i = decide (i / 2 ^ m % 2 = 1)) ∧
  (∀ w, marchLeaves 0 w = marchBackground 7 ∧ marchLeaves 1 w = 0 ∧ ∀ alg, marchPreserve alg w = w) ∧
  (∀ (alg : Nat) (preserving : Bool) (rs : List MarchRead),
    (marchFirst alg preserving rs = none ↔ ∀ q ∈ rs, marchFails alg preserving q = false) ∧
    ∀ r, marchFirst alg preserving rs = some r → r ∈ rs ∧ marchFails alg preserving r = true ∧
      ∀ q ∈ rs, marchFails alg preserving q = true → marchRank alg preserving r ≤ marchRank alg preserving q) ∧
  (∀ (bits : List (Nat × Nat)) (rowsLeft colsLeft rows cols : Nat), spareCover bits rowsLeft colsLeft = some (rows, cols) →
    rows ≤ rowsLeft ∧ cols ≤ colsLeft ∧ ∃ rs cs : List Nat, rs.length ≤ rows ∧ cs.length ≤ cols ∧
      ∀ b ∈ bits, b.1 ∈ rs ∨ b.2 ∈ cs) ∧
  (∀ (s : State) (die : Die) (v : W32), die.val < 31 → s.chip.serves (pgMem die.val) = true →
    let c := s.chip
    let d := die.val
    let pg := pgMem d
    let bank := fld v 0 8
    let x := v &&& 0xFFF
    let cannot : Prop := fld v 8 2 = 3 ∨ bankExists d bank = false ∨
      (v.getLsbD 10 = false ∧ c.fenced d bank = false ∧ c.bankInUse d bank = true)
    (v.getLsbD 31 = false → exec (.marchStart die v) s = .next (s.put
      (c.setReg pg 0x1000 (x ||| if c.marchOf d = none then 0 else 0x80000000)))) ∧
    (v.getLsbD 31 = true → c.marchOf d ≠ none → exec (.marchStart die v) s = .next s) ∧
    (v.getLsbD 31 = true → c.marchOf d = none → cannot →
      exec (.marchStart die v) s = .next (s.put ((c.setReg pg 0x1000 x).setFlag pg 0x1004 5 true))) ∧
    (v.getLsbD 31 = true → c.marchOf d = none → ¬ cannot → Yields (.marchStart die v) s (fun t =>
      t.marchOf d = some x ∧ t.reg pg 0x1000 = x ||| 0x80000000 ∧ t.reg pg 0x1004 = 1 ∧
      (c.retOf d bank = .retained → t.retOf d bank = .waking) ∧ (∀ e, e ≠ d → t.marchOf e = c.marchOf e) ∧
      Chip.only [.regs, .bank] c t)) ∧
    (∀ rep, c.marchOf d = none → exec (.marchDone die rep) s = .next s) ∧
    (∀ cmd rep, c.marchOf d = some cmd →
      let k := fld cmd 0 8
      let ended : Chip := ((c.setMarch d none).setFlag pg 0x1000 31 false).bankAccess d k
      let first := marchFirst (fld cmd 8 2) (cmd.getLsbD 10) rep.reads
      (first = none → exec (.marchDone die rep) s = .next (s.put (ended.setReg pg 0x1004 2))) ∧
      ∀ r, first = some r →
      let w := r.word
      let found : Chip := ended.setReg pg 0x1008 (BitVec.ofNat 32 (BitVec.toNat w + k * 65536))
      let sub := BitVec.toNat w / 16384
      let spare : Prop := rep.column = false ∧ (c.sparesUsed d k sub).1 < 8
      (¬ spare → c.fenced d k = false → Yields (.marchDone die rep) s (fun t => t.fenced d k = true ∧ t.marchOf d = none ∧
        t.reg pg 0x1004 = 0x14 ∧ t.reg pg 0x1008 = found.reg pg 0x1008 ∧ t.flag pg 0x14 0 = true ∧
        (tableBank d k = true → t.dieFailed d = true) ∧
        (∀ j, mirrorOf d k = some j → c.fenced d j = true → t.dieFailed d = true) ∧
        (∀ m < 16, ∀ n, d = 8 + m → k < 52 → (c.slot m n).usesBank k = true → (c.slot m n).phase = .folding ∨
          (c.slot m n).phase = .sealed ∨ (c.slot m n).phase = .packing → (t.slot m n).phase = .aborting))) ∧
      (spare → cmd.getLsbD 10 = true → cmd.getLsbD 11 = true → Yields (.marchDone die rep) s (fun t =>
        t.marchOf d = none ∧ t.reg pg 0x1004 = 0xC ∧ t.reg pg 0x1008 = found.reg pg 0x1008 ∧
        t.sparesUsed d k sub = ((c.sparesUsed d k sub).1 + 1, (c.sparesUsed d k sub).2) ∧
        Chip.raised c t (evP pg 0x0404 d k (BitVec.toNat w)) ∧ Chip.only [.regs, .ev, .snap, .bank] c t)) ∧
      (spare ∧ (cmd.getLsbD 10 = false ∨ cmd.getLsbD 11 = false) ∨ ¬ spare ∧ c.fenced d k = true →
        exec (.marchDone die rep) s = .next (s.put (found.setReg pg 0x1004 4))))) ∧
  (∀ (s : State) (die : Die) (bank : BitVec 8) (word : BitVec 16), s.chip.serves (pgMem die.val) = true →
    let c := s.chip
    let d := die.val
    let k := bank.toNat
    let pg := pgMem d
    let since := Tbl.get 0 c.bank.retSince (d * 256 + k)
    let held : Prop := tableBank d k = true ∨ mirrorOf d k ≠ none
    let rested : Prop := Tbl.get 0 c.bank.touched (d * 256 + k) + 256000 ≤ c.time.now
    let asks : Prop := rested ∧ k < 128 ∧ bankExists d k = true ∧ c.flag pg (0x1010 + 4 * (k / 32)) (k % 32) = true
    let h : Chip := if k < 128 then
        { c with bank := { c.bank with touched := Tbl.set 0 c.bank.touched (d * 256 + k) c.time.now } } else c
    let stat (c : Chip) (b : Bool) : Chip := c.setFlag pg (0x1020 + 4 * (k / 32)) (k % 32) b
    (held → exec (.tableCopyRefetchDone die bank word) s = .next (s.after
      ((c.bump pg 0x1108).raise (evP pg 0x0402 d k word.toNat)))) ∧
    (¬ held → exec (.tableCopyRefetchDone die bank word) s = .next s) ∧
    (asks → c.retOf d k = .awake → exec (.retentionEntry die bank) s = .next (s.put (c.setRet d k .entering))) ∧
    (¬ asks ∨ c.retOf d k ≠ .awake → exec (.retentionEntry die bank) s = .next s) ∧
    (c.time.now < since + 200 * 256 → exec (.retentionEntryComplete die bank) s = .next s) ∧
    (since + 200 * 256 ≤ c.time.now →
      (c.retOf d k = .entering → exec (.retentionEntryComplete die bank) s = .next (s.put
        (stat (c.setRet d k .retained) true))) ∧
      (c.retOf d k = .committed → exec (.retentionEntryComplete die bank) s = .next (s.put
        ((c.setRet d k .waking).bump pg 0x110C)))) ∧
    (c.retOf d k = .awake ∨ c.retOf d k = .committed ∨ c.retOf d k = .waking →
      exec (.bankWake die bank) s = .next (s.put h)) ∧
    (c.retOf d k = .entering → c.time.now < since + 100 * 256 → exec (.bankWake die bank) s = .next (s.put
      ((h.setRet d k .awake).bump pg 0x1110))) ∧
    (c.retOf d k = .entering → since + 100 * 256 ≤ c.time.now → Yields (.bankWake die bank) s (fun t =>
      t.retOf d k = .committed ∧ t.bank.retSince = c.bank.retSince ∧ t.bank.touched = h.bank.touched ∧
      Chip.only [.bank] c t)) ∧
    (c.retOf d k = .retained → exec (.bankWake die bank) s = .next (s.put
      (stat ((h.setRet d k .waking).bump pg 0x110C) false))) ∧
    (c.retOf d k = .waking → since + 1800 * 256 ≤ c.time.now →
      exec (.bankWakeDone die bank) s = .next (s.put (c.setRet d k .awake))) ∧
    (c.retOf d k ≠ .waking ∨ c.time.now < since + 1800 * 256 → exec (.bankWakeDone die bank) s = .next s))

/-- COLLECTIVE_FIRST_FRAME, CONTINUATION_FRAME and OPEN_RECORD_EXPIRY up to the coach die (mirrored at its ingress on the way,
R310); what happens there is the next
statement. 0x0103 is EV_COACH_DIE_FAILED; RTE 0x1800 counts route misses, POL 0x110C held frames. -/
def Obligations.CollectiveFramesReachTheirCoachDie : Prop :=
  let crosses (i : Instr) (s : State) (k : Chip) (d : Nat) (m : Msg) (divert : Prop) : Prop :=
    let k := k.mirrorIn false none m
    (divert → exec i s = .next (s.after (k.divert d m))) ∧
    (¬ divert → (∀ k1, k.allocUnits (8 + d) 2 (hLiv m.hdr) (cellsFor m.len) = (none, k1) →
        exec i s = .next (s.after (k1.divert d m))) ∧
      (∀ us k1, k.allocUnits (8 + d) 2 (hLiv m.hdr) (cellsFor m.len) = (some us, k1) →
        exec i s = .next (s.after ((k1.cross m (256 + d) m.inPort).2.atCoach d m us))))
  (∀ (s : State) (p : LPort) (f : Frame) (age : Nat), s.chip.hears p.val f → hClass f.hdr = 0 → s.chip.passes p.val f →
    let c := s.chip
    let h := c.heard p.val f
    let l := hLiv f.hdr
    let m := Msg.arrived p.val f.hdr f.body (c.time.now - age)
    let w := waybillOf f
    let sv := c.serving (wLiv w) (wEntry w) (wStep w)
    (hSub f.hdr = 0 →
      let i : Instr := .collectiveFirstFrame p f age
      let wrong : Prop := wLiv w ≠ l ∨ ∃ v, sv = some v ∧ eLiv v.ent ≠ wLiv w
      (wrong → exec i s = .next (s.put (h.violation l 7 (some p.val)))) ∧
      (¬ wrong → sv = none → exec i s = .next (s.put (h.bump pgRte 0x1800))) ∧
      (¬ wrong → ∀ v, sv = some v →
        let d := coachDieOf v.ent (wChunk w)
        let k := (h.openRecord p.val w d v).takeHint w d (c.time.now - age)
        (c.dieFailed (8 + d) = true → exec i s = .next (s.after
          (k.originAbort none v.ent v.bank v.td (wLiv w) (wEntry w) (wStep w) (wChunk w) 0x0103))) ∧
        (c.dieFailed (8 + d) = false → crosses i s k d m (2 ≤ c.knownLevel (p.val / 128) d l)))) ∧
    (hSub f.hdr = 1 →
      let i : Instr := .continuationFrame p f age
      let x := contOf f
      let hit (r : OpenRec) : Bool := r.matches (ctLiv x) (ctEntry x) (ctChunk x) (ctStepLo x)
      let rs := c.openRecs p.val
      (ctLiv x ≠ l → exec i s = .next (s.put (h.violation l 7 (some p.val)))) ∧
      (ctLiv x = l → (∀ r ∈ rs, hit r = false) → exec i s = .next (s.put (h.bump pgRte 0x1800))) ∧
      (ctLiv x = l → ∀ pre r post, rs = pre ++ r :: post → hit r = true → (∀ y ∈ pre, hit y = false) →
        let k := h.setOpenRecs p.val (if r.frames ≤ r.sent + 1 then pre ++ post
          else rs.map (fun y => if hit y then { y with sent := y.sent + 1 } else y))
        (r.entLivery ≠ l → exec i s = .next (s.put (h.violation l 7 (some p.val)))) ∧
        (r.entLivery = l → c.dieFailed (8 + r.cdie) = true → exec i s = .next (s.put k)) ∧
        (r.entLivery = l → c.dieFailed (8 + r.cdie) = false → crosses i s k r.cdie m
          (3 ≤ c.knownLevel (p.val / 128) r.cdie l ∨ c.divertedKey r.cdie m = true))))) ∧
  (∀ (c : Chip) (p d : Nat) (w : BitVec 256) (v : Served),
    let hit (r : OpenRec) : Prop := r.livery = wLiv w ∧ r.entry = wEntry w ∧ r.chunk = wChunk w ∧
      r.step.toNat % 256 = (wStep w).toNat % 256
    (wFrames w = 0 → c.openRecord p w d v = c) ∧
    (wFrames w ≠ 0 → (∀ r ∈ c.openRecs p, ¬ hit r) → (c.openRecs p).length < 64 →
      (c.openRecord p w d v).openRecs p = c.openRecs p ++
        [⟨wLiv w, wEntry w, wStep w, wChunk w, wFrames w, d, eLiv v.ent, 0, v.td⟩])) ∧
  (∀ (c : Chip) (d : Nat) (m : Msg) x k, c.holdWhole m m.inPort 1 = (x, k) →
    (x = none → c.divert d m = k) ∧
    ∀ n, x = some n → (c.divert d m).traf.diverted = k.traf.diverted ++ [⟨m.inPort / 128, d, m.inPort, n, none⟩] ∧
      (m.inPort < 1024 → (c.divert d m).reg (pgPol (m.inPort / 128)) 0x110C =
        k.reg (pgPol (m.inPort / 128)) 0x110C + 1)) ∧
  (∀ (s : State) (p : LPort),
    (s.chip.mainUp = true → exec (.openRecordExpiry p) s = .next (s.put (s.chip.setOpenRecs p.val
      ((s.chip.openRecs p.val).filter (fun r => decide ((s.chip.time.now : Int) < r.td)))))) ∧
    (s.chip.mainUp = false → exec (.openRecordExpiry p) s = .next s))

/-- What COLLECTIVE_FIRST_FRAME does at the coach die (the timing class follows the stamp alone, R112), COACH_CREATE_RETRY and CCH_SLOT_SELECT. Counters of the CCH page: 0x1124
marked, 0x1118 early, 0x1120 late, 0x1114 stale, 0x1110 stray, 0x111C conflict, 0x110C duplicate, 0x1128 waiting. -/
def Obligations.FirstFramesMeetTheChecksOfTheirCoach : Prop :=
  (∀ (c : Chip) (d : Nat) (m : Msg) (us : List Nat) (v : Served),
    let w : BitVec 256 := bvBE 256 (m.body.take 32)
    let l := wLiv w
    let e := wEntry w
    let n := wChunk w
    let st := wStep w
    let p := m.inPort
    let pg := pgCch d
    let h : HeldFrame := ⟨true, 0, m.body.drop 32, 0, us⟩
    let go := c.coachFirst d m us
    let drop (x : Chip) : Chip := x.dropStg d us
    let r := c.roleOf v.ent n
    let owns (i : Nat) : Prop := c.keySlot d l e n st = some i ∧ (c.slot d i).step = st
    let marked : Prop := c.hasMark d l e st = true
    let early : Prop := (m.stamp : Int) < v.t - (v.cyc * 65536 : Nat)
    let late : Prop := c.lateFold v.ent = true ∧ v.tc r ≤ (m.stamp : Int)
    let stale : Prop := c.lateFold v.ent = false ∧ v.td ≤ (m.stamp : Int)
    let expects : Prop := (∃ i, owns i ∧ (c.slot d i).expected.getLsbD p = true) ∨
      ((∀ i, ¬ owns i) ∧ (c.expectedOf v.ent v.bank r).1.getLsbD p = true)
    let fault (k : Nat) : Prop := (k = 0x0206 ∧ wVer w ≠ 1) ∨
      (k = 0x0207 ∧ wVer w = 1 ∧ (2 ≤ wKind w ∨ wElemCount w = 0 ∨ 4096 < wElemCount w ∨
        2 ^ 36 < wElemBase w + wElemCount w))
    let ev (k : Nat) : Ev := evC pg k (8 + d) l e st n p
    m.tail = 0 → c.serving l e st = some v →
    (marked → go = drop (c.bump pg 0x1124)) ∧
    (¬ marked → early → go = drop (c.bump pg 0x1118)) ∧
    (¬ marked → ¬ early → late → go = c.lateFrame d p w m.stamp v h) ∧
    (¬ marked → ¬ early → ¬ late → stale → go = drop (c.bump pg 0x1114)) ∧
    (¬ marked → ¬ early → ¬ late → ¬ stale → ¬ expects → go = drop ((c.bump pg 0x1110).raise (ev 0x020D))) ∧
    (¬ marked → ¬ early → ¬ late → ¬ stale → expects →
      (∀ k, fault k → (∀ i, owns i → (c.slot d i).phase ≠ .closed → go = drop (c.abortCoach d i k (some pg) p)) ∧
        ((∀ i, owns i → (c.slot d i).phase = .closed) → go = drop (c.abortNoCoach d v l e st n k p))) ∧
      ((∀ k, ¬ fault k) →
        (∀ i, c.keySlot d l e n st = some i → (c.slot d i).step ≠ st →
          go = drop ((c.bump pg 0x111C).raise (ev 0x020C))) ∧
        (∀ i, owns i →
          let x := c.slot d i
          let dup : Prop := x.admitted.getLsbD p = true ∨ (opCopying (eOp x.ent) = true ∧ x.admitted ≠ 0)
          let folds : Prop := x.phase = .folding ∨ x.phase = .sealed
          let packs : Prop := x.phase = .packing ∨ x.phase = .closed
          (x.phase = .aborting → go = drop c) ∧
          (folds ∨ packs → dup → go = drop ((c.bump pg 0x110C).raise (ev 0x020E))) ∧
          (packs → ¬ dup → go = c.lateFrame d p w m.stamp v h) ∧
          (folds → ¬ dup → x.fieldFault w ≠ 0 → go = drop (c.abortCoach d i (x.fieldFault w) (some pg) p)) ∧
          (folds → ¬ dup → x.fieldFault w = 0 → ∃ y, (go.slot d i) = y ∧ go = c.setSlot d i y ∧ y.phase = x.phase ∧
            y.admitted = putBit x.admitted p true ∧ y.accs = x.accs ∧ y.recorded = true ∧
            y.contribs = x.contribs ++ [newContrib p false w m.stamp (eOrdered x.ent) h])) ∧
        (c.keySlot d l e n st = none →
          (∀ i k, c.createCoach d l e n (wElemCount w) st v = (some i, k) → go = k.admitTo d i p w m.stamp v [h]) ∧
          (∀ k, c.createCoach d l e n (wElemCount w) st v = (none, k) →
            go = k.addWaiting d ⟨p, w, m.stamp, st, false, v, v.td, [h]⟩))))) ∧
  (∀ (c : Chip) (d l e n size : Nat) (st : W32) (v : Served) (i : Nat) (k : Chip),
    c.createCoach d l e n size st v = (some i, k) →
    let x := k.slot d i
    let badSig : Prop := eOrdered v.ent = true ∧ eFanin v.ent ≠ ones (c.ttCset v.bank (eCset v.ent))
    i < 1024 ∧ (c.slot d i).phase = .free ∧
    (¬ badSig → x.phase = .folding ∧ x.livery = l ∧ x.entry = e ∧ x.chunk = n ∧ x.step = st ∧ x.ent = v.ent ∧
      x.td = v.td ∧ x.admitted = 0 ∧ x.lateSet = c.lateMarks d l e n st ∧
      x.partialPort = (c.partialPeer v.ent n (c.roleOf v.ent n)).bind (fun g => if gValid g then some (gPort0 g) else none) ∧ x.contribs = [] ∧ x.granules.length = (size + 63) / 64 ∧
      k.reg (pgCch d) 0x1100 = c.reg (pgCch d) 0x1100 + 1) ∧
    (badSig → x.phase = .aborting ∧ x.cause = 0x0209)) ∧
  (∀ (c : Chip) (d p : Nat) (w : BitVec 256) (stamp : Nat) (v : Served) (h : HeldFrame),
    let why := c.lateReason d p w stamp v.ent (c.serving (wLiv w) (wEntry w) (wStep w + 1))
    (opCopying (eOp v.ent) = true → why = 9) ∧
    (opCopying (eOp v.ent) = false → eLateAct v.ent = false → why = 1) ∧
    (why ≠ 0 → c.lateFrame d p w stamp v h =
      (((c.bump (pgCch d) 0x1120).noteLate d p w v.td).ledgerWrite d w p why stamp).dropStg d h.stg)) ∧
  (∀ (s : State) (d : CDie) (n : Nat), s.chip.mainUp = true → s.chip.dieFailed (8 + d.val) = false →
    let c := s.chip
    (∀ x, (c.cch d.val).waiting[n]? = none ∨ ((c.cch d.val).waiting[n]? = some x ∧ x.td ≤ (c.time.now : Int)) →
      exec (.coachCreateRetry d n) s = .next s) ∧
    (∀ x, (c.cch d.val).waiting[n]? = some x → (c.time.now : Int) < x.td →
      let w := x.wb
      let gone (k : Chip) : Chip := k.setCch d.val { k.cch d.val with waiting := dropAt n (k.cch d.val).waiting }
      let make := c.createCoach d.val (wLiv w) (wEntry w) (wChunk w) (wElemCount w) x.target x.sv
      let joins (k : Chip) (i : Nat) : Prop := exec (.coachCreateRetry d n) s = .next (s.after
        (if x.carried then k.attach d.val i x.lport true w x.stamp x.frames
         else k.admitTo d.val i x.lport w x.stamp x.sv x.frames))
      (∀ i, c.keySlot d.val (wLiv w) (wEntry w) (wChunk w) x.target = some i →
        (x.carried = false → (c.slot d.val i).step = x.target → joins (gone c) i) ∧
        (x.carried = false → (c.slot d.val i).step ≠ x.target → exec (.coachCreateRetry d n) s = .next (s.after
          ((((gone c).bump (pgCch d.val) 0x111C).raise (evC (pgCch d.val) 0x020C (8 + d.val) (wLiv w) (wEntry w) (wStep w)
            (wChunk w) x.lport)).dropStg d.val (x.frames.flatMap (·.stg))))) ∧
        (x.carried = true →
          let y := c.slot d.val i
          let may : Prop := y.phase = .folding ∧ y.step = x.target ∧ y.carriedSet.getLsbD x.lport = false ∧
            (y.recorded = true → y.rangeAgrees w = true)
          (may → joins (gone c) i) ∧
          (¬ may → exec (.coachCreateRetry d n) s = .next (s.after
            ((gone c).dropStg d.val (x.frames.flatMap (·.stg))))))) ∧
      (c.keySlot d.val (wLiv w) (wEntry w) (wChunk w) x.target = none →
        (∀ k, make = (none, k) → exec (.coachCreateRetry d n) s = .next (s.after k)) ∧
        (∀ i k, make = (some i, k) → (k.slot d.val i).phase = .folding → joins (gone k) i)))) ∧
  (∀ (s : State) (d : CDie) (v : W32), s.chip.serves (pgCch d.val) = true →
    let c := s.chip
    let pg := pgCch d.val
    let x := c.slot d.val (fld v 0 10)
    Yields (.cchSlotSelect d v) s (fun t =>
      t.reg pg 0x1000 = BitVec.ofNat 32 (fld v 0 10) ∧ t.field pg 0x1004 0 3 = x.phase.code ∧
      t.flag pg 0x1004 3 = x.carriedAny ∧ t.reg pg 0x1010 = x.step ∧ t.field pg 0x1008 0 24 = x.chunk % 2 ^ 24 ∧
      t.field pg 0x1008 24 8 = x.step.toNat % 256 ∧ t.field pg 0x100C 0 16 = x.entry % 2 ^ 16 ∧
      c.regsBut t [regKey pg 0x1000 0, regKey pg 0x1004 0, regKey pg 0x1008 0, regKey pg 0x100C 0, regKey pg 0x1010 0] ∧
      Chip.only [.regs] c t))

/-- COLLECTIVE_FRAME_FOLD (R196: where port A wrote an element's word too, the fold's own write on port B stays, and the
collision counts in MEM 0x1100; R197), SIDING_RETRY, COACH_FOLD_COMPLETE, SEAL_INTERVAL_END and COACH_CUTOFF. ACC page: 0x1400 layout and
PSW faults, 0x1424 sidings taken; 0x0204 EV_PAYLOAD, 0x0205 EV_PSW, 0x0208 EV_EXPRESS_WINDOW, 0x0106, 0x0402 as named. -/
def Obligations.ContributionsFoldAndComplete : Prop :=
  (∀ (s : State) (d : CDie) (i : Slot) (p : LPort) (carried : Bool) (ser : Nat) (rep : FoldReport),
    s.chip.mainUp = true → s.chip.dieFailed (8 + d.val) = false →
    let c := s.chip
    let x := c.slot d.val i.val
    let act : Instr := .collectiveFrameFold d i p carried ser rep
    let folds : Prop := x.phase = .folding ∨ x.phase = .sealed
    let mine (y : Contrib) : Prop := y.lport = p.val ∧ y.carried = carried
    let aborts (t : Chip) (cause : Nat) : Prop := (t.slot d.val i.val).phase = .aborting ∧ (t.slot d.val i.val).cause = cause
    (¬ folds ∨ (∀ y ∈ x.contribs, ¬ mine y) → exec act s = .next s) ∧
    (folds → ∀ pre y post, x.contribs = pre ++ y :: post → mine y → (∀ z ∈ pre, ¬ mine z) →
      (y.held = [] → exec act s = .next s) ∧
      (∀ h hs, y.held = h :: hs →
        (∀ k, rep.residue = some k → exec act s = .next (s.after
          ((c.laneFence d.val k.val).abortCoach d.val i.val 0x0106 none p.val))) ∧
        (∀ b wd, rep.residue = none → rep.bad = some (b, wd) → BitVec.toNat b < 52 → exec act s = .next (s.after
          (((c.bump (pgMem (8 + d.val)) 0x1108).raise (evP (pgMem (8 + d.val)) 0x0402 (8 + d.val) (BitVec.toNat b) (BitVec.toNat wd))).abortCoach
            d.val i.val 0x0402 none p.val))) ∧
        (rep.residue = none → (∀ b, rep.bad = some b → 52 ≤ b.1.toNat) →
          let n := x.elemCount
          let payload := y.payload ++ h.payload
          let found := layoutOf y.fmt n payload (decide (h.idx = y.frames))
          let lo := y.elems
          let hi := elemsIn y.fmt n payload.length
          let term (k : Nat) := product (elemOf y.fmt (natOfLE payload) k) y.prescale
          let old (k : Nat) : Acc := Tbl.get Acc.zero x.accs k
          let new (k : Nat) : Acc := (old k).fold (term k).1
          let held (k : Nat) : Prop := (new k).siding ≠ none ∨ (new k).fits = true
          let plain : Prop := found = .ok ∧ eOrdered x.ent = false ∧ y.fmt ≠ 15 ∧ x.holdq = []
          (found = .fault → Yields act s (fun t => aborts t 0x0204)) ∧
          (found = .pswFault → Yields act s (fun t => aborts t 0x0205)) ∧
          (plain → x.express = true → (∃ k, lo ≤ k ∧ k < hi ∧ ¬ held k) → Yields act s (fun t => aborts t 0x0208)) ∧
          (plain → (∀ k, lo ≤ k → k < hi → held k) → Yields act s (fun t =>
            let z := t.slot d.val i.val
            (∀ k, Tbl.get Acc.zero z.accs k = if lo ≤ k ∧ k < hi then new k else old k) ∧
            z.phase = x.phase ∧ z.admitted = x.admitted ∧ z.holdq = [] ∧ z.granules = x.granules ∧
            (∃ q ∈ z.contribs, mine q ∧ q.foldedFrames = y.foldedFrames + 1 ∧ q.elems = hi ∧ q.payload = payload ∧
              q.held = hs) ∧
            (∀ u ∈ h.stg, t.unitOwner (8 + d.val) 2 u = 0) ∧
            (∀ e j, ¬ (e = d.val ∧ j = i.val) → t.slot e j = c.slot e j) ∧
            t.reg (pgMem (8 + d.val)) 0x1104 = c.reg (pgMem (8 + d.val)) 0x1104 + BitVec.ofNat 32 rep.corrected ∧
            t.reg (pgMem (8 + d.val)) 0x1100 = c.reg (pgMem (8 + d.val)) 0x1100 +
              BitVec.ofNat 32 (((List.range hi).drop lo).filter (fun k => decide (k ∈ rep.collided.map (·.val)))).length ∧
            Chip.only [.regs, .ev, .snap, .coach, .pool, .bank, .act] c t)))))) ∧
  (∀ (s : State) (d : CDie) (i : Slot) (k : Fin 4096), s.chip.mainUp = true → s.chip.dieFailed (8 + d.val) = false →
    let c := s.chip
    let x := c.slot d.val i.val
    let folds : Prop := x.phase = .folding ∨ x.phase = .sealed
    let behind (h : HeldTerm) : Bool := decide (h.elem = k.val)
    (¬ folds ∨ (∀ h ∈ x.holdq, h.elem ≠ k.val) → exec (.sidingRetry d i k) s = .next s) ∧
    (folds → ∀ h, x.holdq.filter behind = [h] →
      (∀ b, c.allocUnits (8 + d.val) 1 x.livery 1 = (none, b) → exec (.sidingRetry d i k) s = .next (s.after b)) ∧
      (∀ u b, c.allocUnits (8 + d.val) 1 x.livery 1 = (some [u], b) → Yields (.sidingRetry d i k) s (fun t =>
        let z := t.slot d.val i.val
        Tbl.get Acc.zero z.accs k.val = { (Tbl.get Acc.zero x.accs k.val).fold h.term with siding := some u } ∧
        (∀ j, j ≠ k.val → Tbl.get Acc.zero z.accs j = Tbl.get Acc.zero x.accs j) ∧
        z.holdq = x.holdq.filter (fun h => !behind h) ∧ z.phase = x.phase ∧ z.contribs = x.contribs ∧
        t.reg (pgAcc d.val) 0x1424 = b.reg (pgAcc d.val) 0x1424 + 1 ∧ t.pool = b.pool)))) ∧
  (∀ (s : State) (d : CDie) (i : Slot), s.chip.mainUp = true → s.chip.dieFailed (8 + d.val) = false →
    let c := s.chip
    let x := c.slot d.val i.val
    let now : Int := c.time.now
    let allIn : Prop := if opCopying (eOp x.ent) then x.admitted ≠ 0
      else x.absent = 0 ∧ ∀ p < 1024, x.expected.getLsbD p = true → x.admitted.getLsbD p = true
    let ended : Prop := x.phase = .sealed ∧ x.tc + (16 * 65536 : Nat) ≤ now
    let ready : Prop := (x.phase = .folding ∨ x.phase = .sealed) ∧ x.contribs ≠ [] ∧ x.holdq = [] ∧
      (∀ y ∈ x.contribs, y.broken = false ∧ y.foldedFrames = y.frames + 1) ∧ x.evaluated = false ∧ now ≤ x.td ∧ (allIn ∨ ended)
    let packs (a : Instr) : Prop := Yields a s (fun t =>
      let z := t.slot d.val i.val
      z.phase = .packing ∧ z.outSent = 0 ∧ z.outs.map (·.2) = x.outputs.map (·.1) ∧ z.accs = x.accs ∧
      (eOrdered x.ent = false → z.outs = x.outputs.map (fun o => ((x.output false 0 o.2).bytes, o.1)) ∧
        z.rstat = x.outputs.foldl (fun n o => n ||| (x.output false 0 o.2).st) 0) ∧
      (∀ e j, ¬ (e = d.val ∧ j = i.val) → t.slot e j = c.slot e j) ∧ Chip.only [.regs, .coach, .fresh, .bank, .act] c t)
    (ready → packs (.coachFoldComplete d i)) ∧ (¬ ready → exec (.coachFoldComplete d i) s = .next s) ∧
    (ready → ended → packs (.sealIntervalEnd d i)) ∧ (¬ ready ∨ ¬ ended → exec (.sealIntervalEnd d i) s = .next s) ∧
    (x.phase = .folding → x.late = true → x.tc ≤ now → ¬ allIn →
      exec (.coachCutoff d i) s = .next (s.put (c.setSlot d.val i.val { x with phase := .sealed }))) ∧
    (x.phase ≠ .folding ∨ x.late = false ∨ now < x.tc ∨ allIn → exec (.coachCutoff d i) s = .next s))

/-- PACKER_FIRST_FRAME (a PARTIAL leaves on the port recorded at creation, R161, R294), PACKER_LAST_FRAME_SENT and
DEADLINE_MONITOR. CCH 0x1104 counts completed coaches; TTB 0x140C misses;
0x1500 bit 0 is CAPTURE.VALID. -/
def Obligations.ResultsLeaveAndDeadlinesBind : Prop :=
  (∀ (c : Chip) (d i fmt : Nat) (payload : List Byte) (mc : Bool) (dst : Nat),
    ∃ m ms, c.outputFrames d i fmt payload mc dst = m :: ms ∧ ms.length ≤ 128 ∧
      m.body.take 32 = bytesBE 32 ((c.slot d i).waybill fmt ms.length).toNat ∧
      m.body.drop 32 ++ (ms.map (fun y => y.body.drop 8)).flatten = payload ∧
      ∀ y ∈ m :: ms, y.coach = some (d, i) ∧ y.inPort = 1024 ∧ y.stamp = c.time.now) ∧
  (∀ (s : State) (d : CDie) (i : Slot) (j : Fin 4), s.chip.mainUp = true → s.chip.dieFailed (8 + d.val) = false →
    let c := s.chip
    let x := c.slot d.val i.val
    let act : Instr := .packerFirstFrame d i j
    (x.phase ≠ .packing ∨ x.outSent.testBit j.val = true ∨ (∀ o ∈ x.outs, o.2 ≠ j.val) → exec act s = .next s) ∧
    (x.phase = .packing → x.outSent.testBit j.val = false → ∀ pre b post, x.outs = pre ++ (b, j.val) :: post →
      (∀ o ∈ pre, o.2 ≠ j.val) → ∀ fmt, x.outputs.find? (fun y => decide (y.1 = j.val)) = some (j.val, fmt) →
      let sends (k : Chip) : Prop := exec act s = .next (s.after (k.outputGone d.val i.val j.val))
      let frames (dst : Nat) := c.outputFrames d.val i.val fmt b false dst
      let aborts (k : Chip) : Prop := exec act s = .next (s.after (k.abortCoach d.val i.val 0x020B (some (pgCch d.val))))
      let dst := x.destEid
      (x.partial_ = true →
        (∀ q, x.partialPort = some q → c.portUp q = true → sends (c.sendOut (frames 0) q)) ∧
        (∀ q, x.partialPort = some q → c.portUp q = false → aborts (c.bump pgRte 0x1804)) ∧
        (x.partialPort = none → aborts c)) ∧
      (x.partial_ = false → eOp x.ent = 1 ∨ eOp x.ent = 2 →
        (c.livGroup x.livery (dst / 64) = false →
          sends (forAll (frames dst) c (fun _ k => k.violation x.livery 0xA none))) ∧
        (c.livGroup x.livery (dst / 64) = true → c.inDrain dst = false →
          (∀ q, c.lookup dst 0 = .port q → sends (c.sendOut (frames dst) q)) ∧
          (c.lookup dst 0 = .miss → aborts (c.bump pgRte 0x1800)) ∧
          (c.lookup dst 0 = .self → aborts c) ∧
          (c.lookup dst 0 = .down → aborts (c.bump pgRte 0x1804))) ∧
        (c.livGroup x.livery (dst / 64) = true → c.inDrain dst = true →
          sends (forAll (frames dst) c (fun m k => k.forward m .good false)))) ∧
      (x.partial_ = false → eOp x.ent ≠ 1 → eOp x.ent ≠ 2 →
        (c.livMc x.livery (c.destGroup x j.val) = false →
          sends (forAll (c.outputFrames d.val i.val fmt b true (c.destGroup x j.val)) c
            (fun _ k => k.violation x.livery 0xA none))) ∧
        (c.livMc x.livery (c.destGroup x j.val) = true →
          sends (c.sendGroup d.val i.val fmt b (c.destGroup x j.val)))))) ∧
  (∀ (s : State) (d : CDie) (i : Slot), s.chip.mainUp = true → s.chip.dieFailed (8 + d.val) = false →
    let c := s.chip
    let x := c.slot d.val i.val
    let done : Prop := x.phase = .packing ∧ (∀ o ∈ x.outs, x.outSent.testBit o.2 = true) ∧
      c.coachFrames d.val i.val = false
    (¬ done → exec (.packerLastFrameSent d i) s = .next s) ∧
    (done → Yields (.packerLastFrameSent d i) s (fun t =>
      let z := t.slot d.val i.val
      ((c.time.now : Int) < x.td → z = { x with phase := .closed, outs := [], accs := [], granules := [] }) ∧
      (x.td ≤ (c.time.now : Int) → z.phase = .free ∧ z.livery = x.livery ∧ z.entry = x.entry ∧ z.step = x.step) ∧
      t.reg pgTtb 0x1410 = c.reg pgTtb 0x1410 + (if x.td ≤ (c.time.now : Int) ∧ x.evaluated = false then 1 else 0) ∧
      (∀ u ∈ x.granules, t.unitOwner (8 + d.val) 0 u = 0) ∧ t.reg (pgCch d.val) 0x1104 = c.reg (pgCch d.val) 0x1104 + 1 ∧
      (c.paired x.livery = false → t.flt = c.flt) ∧ (∀ e j, ¬ (e = d.val ∧ j = i.val) → t.slot e j = c.slot e j)))) ∧
  (∀ (s : State) (d : CDie), s.chip.mainUp = true → s.chip.dieFailed (8 + d.val) = false →
    let c := s.chip
    let now : Int := c.time.now
    let folding (x : Coach) : Prop := x.phase = .folding ∨ x.phase = .sealed
    let due (x : Coach) : Prop := x.evaluated = false ∧ x.td ≤ now
    Yields (.deadlineMonitor d) s (fun t =>
      (∀ n, due (c.slot d.val n) →
        (folding (c.slot d.val n) → (t.slot d.val n).phase = .aborting ∧ (t.slot d.val n).evaluated = true ∧
          (t.slot d.val n).cause = (if (c.slot d.val n).holdq = [] then 0x0201 else 0x0202) ∧ t.flag pgTtb 0x1500 0 = true) ∧
        ((c.slot d.val n).phase = .closed → (t.slot d.val n).phase = .free) ∧
        ((c.slot d.val n).phase = .packing → (t.slot d.val n).evaluated = true ∧
          ((t.slot d.val n).phase = .packing ∨ (t.slot d.val n).phase = .aborting))) ∧
      (∀ x ∈ (t.cch d.val).waiting, x ∈ (c.cch d.val).waiting ∧ now < x.td) ∧
      (∀ x ∈ (t.cch d.val).notes, now < x.td) ∧
      ((∀ n, due (c.slot d.val n) → ¬ folding (c.slot d.val n)) → (∀ x ∈ (c.cch d.val).waiting, now < x.td) →
        t.reg pgTtb 0x140C = c.reg pgTtb 0x140C ∧ (∀ n, ¬ due (c.slot d.val n) → t.slot d.val n = c.slot d.val n) ∧
        ∀ e, e ≠ d.val → ∀ n, t.slot e n = c.slot e n) ∧
      t.vault = c.vault ∧ t.time = c.time))

/-- The nine events of a cold start. PWR_BOOT_STAT at 0x1078: PHASE [2:0], VIN12_WAIT 3, bank fenced 4, spares short 5, D2D_FAIL 6
with the first failed die in [12:8]. The rail groups are those of R432. -/
def Obligations.ColdStartsRunInPhases : Prop :=
  (∀ s : State,
    let c := s.chip
    let on (ph : Nat) : Prop := c.standbyUp = true ∧ c.field pgPwr 0x1078 0 3 = ph ∧ c.pwr.vinLost = false ∧
      c.pwr.tripped = false ∧ c.boot.coldDue = none
    let idle : Prop := c.flag pgSec 0x1010 0 = false
    let group (g r : Nat) : Prop :=
      g = 1 ∧ (8 ≤ r ∧ r ≤ 15 ∨ 40 ≤ r ∧ r ≤ 55 ∨ 60 ≤ r ∧ r ≤ 63 ∨ r = 66 ∨ r = 67) ∨
      g = 2 ∧ (r ≤ 7 ∨ 24 ≤ r ∧ r ≤ 39 ∨ 56 ≤ r ∧ r ≤ 59 ∨ r = 64 ∨ r = 65) ∨ g = 3 ∧ 16 ≤ r ∧ r ≤ 23
    let phase (t : Chip) (n : Nat) : Prop := t.field pgPwr 0x1078 0 3 = n
    let starts (t : Chip) (r : Nat) : Prop := (t.rail r).on = true ∧ (t.rail r).start = 0 ∧ (t.rail r).since = c.time.now
    let g := c.boot.railGroup
    (¬ on 0 ∨ ¬ idle → exec .standbyComplete s = .next s) ∧
    (on 0 → idle → Yields .standbyComplete s (fun t => phase t 1 ∧ t.flag pgPwr 0x1078 3 = true ∧ t.boot.standbyDone = true ∧
      (∀ r, r = 68 ∨ r = 69 → (t.rail r).start = c.setpoint r) ∧ t.plane = c.plane ∧ t.vault = c.vault)) ∧
    (∀ fs : List BankFinding,
      let k := forAll (fs.filter (fun f => decide (f.die.val = 30))) c (fun f k => k.finding f)
      (c.standbyUp = false ∨ c.boot.m0Marched = true ∨ ¬ idle → exec (.m0MarchDone fs) s = .next s) ∧
      (c.standbyUp = true → c.boot.m0Marched = false → idle →
        ((∃ b < 8, k.fenced 30 b = true) → exec (.m0MarchDone fs) s = .next (s.after k)) ∧
        ((∀ b < 8, k.fenced 30 b = false) → exec (.m0MarchDone fs) s = .next (s.after
          { k with boot := { k.boot with m0Marched := true }, fw := { k.fw with bootWaiting := true } })))) ∧
    (c.standbyUp = false ∨ c.boot.standbyDone = false → exec .vin12Present s = .next s) ∧
    (c.standbyUp = true → c.boot.standbyDone = true →
      (¬ on 1 ∨ g ≠ 0 → exec .vin12Present s = .next (s.after (c.setFlag pgPwr 0x1004 0 true))) ∧
      (on 1 → g = 0 → Yields .vin12Present s (fun t => t.flag pgPwr 0x1004 0 = true ∧ t.flag pgPwr 0x1078 3 = false ∧
        phase t 1 ∧ t.boot.railGroup = 1 ∧ (∀ r, group 1 r → starts t r) ∧ (∀ r, ¬ group 1 r → t.rail r = c.rail r) ∧
        Chip.only [.regs, .pwr, .boot] c t))) ∧
    (¬ on 1 ∨ g = 0 ∨ 3 < g → exec .railGroupRamped s = .next s) ∧
    (on 1 → 1 ≤ g → g ≤ 3 → Yields .railGroupRamped s (fun t => t.boot.railGroup = g + 1 ∧ phase t 1 ∧
      (∀ r, group g r → (t.rail r).start = c.setpoint r ∧ t.slewing r = false) ∧
      (∀ r, group (g + 1) r → starts t r ∧ (t.slewing r = true ↔ c.setpoint r ≠ 0)) ∧
      (∀ r, ¬ group g r → ¬ group (g + 1) r → t.rail r = c.rail r) ∧ Chip.only [.regs, .pwr, .boot] c t)) ∧
    (¬ on 1 ∨ g ≠ 4 → exec .railsComplete s = .next s) ∧
    (on 1 → g = 4 → Yields .railsComplete s (fun t => phase t 2 ∧ (∀ pp < 256, t.synth pp = .settling) ∧
      t.pwr = c.pwr ∧ t.vault = c.vault)) ∧
    (¬ on 2 ∨ c.boot.warmActive = true → exec .trainComplete s = .next s ∧ ∀ die, exec (.d2dTrainTimeout die) s = .next s) ∧
    (on 2 → c.boot.warmActive = false →
      exec .trainComplete s = .next (s.after
        ({ c with time := { c.time with now := 0, frac := 0, running := true } }.setField pgPwr 0x1078 0 3 3)) ∧
      ∀ die : Die, (30 ≤ die.val ∨ c.dieFailed die.val = true → exec (.d2dTrainTimeout die) s = .next s) ∧
        (die.val < 30 → c.dieFailed die.val = false → Yields (.d2dTrainTimeout die) s (fun t =>
          t.dieFailed die.val = true ∧ t.flag pgPwr 0x1078 6 = true ∧
          t.field pgPwr 0x1078 8 5 = (if c.flag pgPwr 0x1078 6 then c.field pgPwr 0x1078 8 5 else die.val) ∧
          phase t (if t.flt.fatal then 6 else 2) ∧ t.vault = c.vault))) ∧
    (∀ fs, (¬ on 3 → exec (.marchPhaseComplete fs) s = .next s) ∧
      (on 3 → exec (.marchPhaseComplete fs) s = .next (s.after
        ((forAll (fs.filter (fun f => decide (f.die.val < 30))) c (fun f k => k.finding f)).setField pgPwr 0x1078 0 3 4)))) ∧
    (∀ fs : List ClusterFinding,
      let bad (d k : Nat) : Prop := ∃ f ∈ fs, f.die.val = d ∧ f.cluster.val = k
      (¬ on 4 → exec (.laneTestComplete fs) s = .next s) ∧
      (on 4 → Yields (.laneTestComplete fs) s (fun t => phase t 5 ∧
        t.boot.warmActive = (c.boot.warmActive || c.boot.warmLow) ∧
        (∀ d < 16, c.dieFailed (8 + d) = true → t.lanesAt d = c.lanesAt d) ∧
        (∀ d < 16, c.dieFailed (8 + d) = false →
          (∀ k < 84, (t.lanesAt d).fenced.getLsbD k = true ↔ bad d k) ∧ (t.lanesAt d).target = none ∧
          (∃ need good : List Nat, need.Pairwise (· < ·) ∧ good.Pairwise (· < ·) ∧ (∀ k, k ∈ need ↔ k < 80 ∧ bad d k) ∧
            (∀ k, k ∈ good ↔ 80 ≤ k ∧ k < 84 ∧ ¬ bad d k) ∧
            (∀ k < 84, (t.lanesAt d).replaced.getLsbD k = true ↔ k ∈ need.take good.length) ∧
            (∀ k < 84, (t.lanesAt d).mapped.getLsbD k = true ↔ k ∈ good.take need.length) ∧
            (good.length < need.length → t.flag pgPwr 0x1078 5 = true))))))) ∧
  (∀ (c : Chip) (f : BankFinding),
    let d := f.die.val
    let b := f.bank.toNat
    let u (sub : Nat) := c.sparesUsed d b sub
    let cover (sub : Nat) := spareCover (faultyBits 2 sub f.reads) (8 - (u sub).1) (2 - (u sub).2)
    let none_ : Prop := c.dieFailed d = true ∨ bankExists d b = false
    (none_ → c.finding f = c) ∧
    (¬ none_ → (∀ sub < 4, (cover sub).isSome = true) → Chip.only [.bank] c (c.finding f) ∧
      ∀ sub < 4, ∀ n, cover sub = some n →
        (c.finding f).sparesUsed d b sub = ((u sub).1 + n.1, (u sub).2 + n.2)) ∧
    (¬ none_ → (∃ sub < 4, cover sub = none) →
      (c.finding f).fenced d b = true ∧ (c.finding f).flag pgPwr 0x1078 4 = true))

/-- COLD_START, PWRON_RST_N, WARM_RST_N, PWR_RST_COLD, PWR_RST_WARM, PWR_RST_MGMT, WARM_RESET, WARM_RESET_DONE, PERST_N,
HOT_RESET, FUNCTION_LEVEL_RESET, VIN3V3_POWER_DOWN and TRIP_COOLDOWN_END. PWR_RST_STAT at 0x1074: CAUSE [3:0], REFUSED 4. -/
def Obligations.ResetsAreAskedAndRun : Prop :=
  (∀ (c : Chip) (src : ColdSource),
    let t := c.coldRun src
    let rises : Prop := src ≠ .vin3v3 ∧ c.sec.tap = .other ∧ (c.sec.life = 1 ∨ c.sec.life = 2) ∧ c.flag pgSec 0x1018 8 = true
    t.plane = Chip.reset.plane ∧ t.time = Chip.reset.time ∧ t.pwr = Chip.reset.pwr ∧
    t.vault = { c.vault with fuses := { c.vault.fuses with transition := none } } ∧ t.out = c.out ∧
    t.sec.partGroup = c.sec.partGroup ∧ t.sec.programming = false ∧
    (¬ rises → t.ev = Chip.reset.ev ∧
      Chip.reset.regsBut t [regKey pgSec 0x1004 0, regKey pgSec 0x1008 0, regKey pgSec 0x100C 0, regKey pgThm 0x100C 0,
        regKey pgPwr 0x1074 0]) ∧
    (rises → t.flag pgSec 0x1004 6 = true ∧ t.reg pgSec 0x1008 = c.reg pgSec 0x1008 + 1 ∧
      t.ev.placed = Chip.reset.ev.placed + 1) ∧
    (2 ≤ c.sec.life → t.reg pgSec 0x100C = c.reg pgSec 0x100C) ∧
    (src = .vin3v3 → t.reg pgSec 0x1004 = Chip.reset.reg pgSec 0x1004 ∧ t.field pgPwr 0x1074 0 4 = 0) ∧
    (src ≠ .vin3v3 → (¬ rises → t.reg pgSec 0x1004 = c.reg pgSec 0x1004 ∧ t.reg pgSec 0x1008 = c.reg pgSec 0x1008) ∧
      t.flag pgThm 0x100C 1 = c.flag pgThm 0x100C 1 ∧ t.field pgPwr 0x1074 0 4 = (if src = .pin then 1 else 2) ∧
      t.field pgPwr 0x1074 8 16 = (c.field pgPwr 0x1074 8 16 + 1) % 65536)) ∧
  (∀ (c : Chip) (cause : Nat),
    let runs : Prop := c.field pgPwr 0x1078 0 3 = 5 ∧ c.boot.warmActive = false ∧ c.boot.pwronLow = false ∧
      c.boot.coldDue = none ∧ c.pwr.tripped = false
    (¬ runs → c.warmStart cause = c) ∧
    (runs → c.warmStart cause = { (c.setField pgPwr 0x1074 0 4 cause).setFlag pgPwr 0x1070 3 false with
      boot := { c.boot with warmActive := true, warmCleared := false } })) ∧
  (∀ s : State,
    let c := s.chip
    let cools : Prop := c.standbyUp = true ∧ c.pwr.tripped = true ∧ c.junction 30 ≤ 480 ∧ c.junction 31 ≤ 480
    let cool : Chip := { c with pwr := { c.pwr with cooled := true } }
    let off := c.coldRun .vin3v3
    exec (.coldStart .vin3v3) s = .next (s.after (c.coldRun .vin3v3)) ∧
    (∀ src, src ≠ .vin3v3 →
      let may : Prop := c.boot.coldDue = some src ∧ c.standbyUp = true ∧ (c.pwr.tripped = false ∨ c.pwr.cooled = true)
      (may → exec (.coldStart src) s = .next (s.after (c.coldRun src))) ∧ (¬ may → exec (.coldStart src) s = .next s)) ∧
    (¬ cools → exec .tripCooldownEnd s = .next s) ∧
    (cools → (c.boot.coldDue = none → exec .tripCooldownEnd s = .next (s.put cool)) ∧
      ∀ src, c.boot.coldDue = some src → exec .tripCooldownEnd s = .next (s.after (cool.coldRun src))) ∧
    (c.boot.vin3v3 = true → exec .vin3v3PowerDown s = .next (s.after
      { off with boot := { off.boot with vin3v3 := false } })) ∧
    (c.boot.vin3v3 = false → exec .vin3v3PowerDown s = .next s ∧ ∀ b, exec (.pwronRstN b) s = .next s) ∧
    (c.boot.vin3v3 = true →
      Yields (.pwronRstN false) s (fun t => t.boot.pwronLow = true ∧ (∀ r < 68, (t.rail r).on = false) ∧
        (∀ r, 68 ≤ r → t.rail r = c.rail r) ∧ t.reg pgSec 0x1018 = 0 ∧
        Chip.only [.regs, .ev, .snap, .sec, .pwr, .boot] c t ∧
        (c.sec.tap ≠ .other ∨ c.flag pgSec 0x1018 8 = false → Chip.only [.regs, .pwr, .boot] c t)) ∧
      (c.boot.pwronLow = true → exec (.pwronRstN true) s = .next (s.after
        { c with boot := { c.boot with pwronLow := false, coldDue := some .pin } })) ∧
      (c.boot.pwronLow = false → exec (.pwronRstN true) s = .next s)) ∧
    exec (.warmRstN true) s = .next (s.put { c with boot := { c.boot with warmLow := false } }) ∧
    exec (.warmRstN false) s = .next (s.after
      ({ c with boot := { c.boot with warmLow := true } }.warmStart 3))) ∧
  (∀ (s : State) (v : W32) (i : Instr), s.chip.serves pgPwr = true →
    let c := s.chip
    ∀ w : W32, (i = .pwrRstCold v ∧ w = v ||| 2 ∨ i = .pwrRstWarm v ∧ w = v ||| 1 ∨ i = .pwrRstMgmt v ∧ w = v ||| 4) →
      let key : Prop := fld w 16 16 = 0xC0A7
      let refused : Prop := (w.getLsbD 0 = true ∨ w.getLsbD 1 = true) ∧ w.getLsbD 3 = false ∧ ∃ l < 256, c.livValid l = true
      let forced := c.setFlag pgPwr 0x1070 3 (w.getLsbD 3)
      let mgmt (k : Chip) : Prop := exec i s = .next (s.after (if w.getLsbD 2 then k.mgmtReset 6 else k))
      (¬ key → exec i s = .next s) ∧
      (key → refused → mgmt (c.setFlag pgPwr 0x1074 4 true)) ∧
      (key → ¬ refused → w.getLsbD 1 = true → Yields i s (fun t => t.boot.coldDue = some .register ∧
        t.boot.warmActive = c.boot.warmActive ∧ c.regsBut t [regKey pgPwr 0x1070 0] ∧ Chip.only [.regs, .boot] c t)) ∧
      (key → ¬ refused → w.getLsbD 1 = false → mgmt (if w.getLsbD 0 then forced.warmStart 4 else forced))) ∧
  (∀ s : State,
    let c := s.chip
    let stands : Prop := c.boot.warmActive = true ∧ c.standbyUp = true ∧ c.boot.coldDue = none
    let ends : Prop := stands ∧ c.boot.warmCleared = true ∧ c.boot.warmLow = false
    let hosts (k : Chip) : Chip := { k with ev := { k.ev with msixMem := [], msixPend := 0 } }
    (¬ stands ∨ c.boot.warmCleared = true → exec .warmReset s = .next s) ∧
    (stands → c.boot.warmCleared = false → Yields .warmReset s (fun t => t.boot.warmCleared = true ∧
      t.field pgPwr 0x1078 0 3 = 2 ∧ t.coach.dies = [] ∧ t.tt = Chip.reset.tt ∧ t.rte = Chip.reset.rte ∧ t.puts = [] ∧
      t.traf = Chip.reset.traf ∧ t.pool = Chip.reset.pool ∧ t.sec.seeds = [] ∧ t.sec.energy = [] ∧
      t.flt.failed = c.flt.failed ∧ t.flt.lanes = c.flt.lanes ∧ t.bank.spares = c.bank.spares ∧
      t.port.synth = c.port.synth ∧ t.pwr.rails = c.pwr.rails ∧ t.fw = c.fw ∧ t.vault = c.vault ∧
      (∀ page off inst, page < 1024 → off < 65536 → mainPage page = true → warmKeeps page off = false → off ≠ sdsStat →
        t.reg page off inst = Chip.reset.reg page off inst) ∧
      ∀ die, ∀ b < 256, t.fenced die b = c.fenced die b)) ∧
    (¬ ends → exec .warmResetDone s = .next s) ∧
    (ends → Yields .warmResetDone s (fun t => t.field pgPwr 0x1078 0 3 = 5 ∧ t.boot.warmActive = false ∧
      t.boot.warmCleared = false ∧ c.regsBut t [regKey pgPwr 0x1078 0] ∧ Chip.only [.regs, .boot] c t)) ∧
    exec (.perstN true) s = .next (s.put { c with boot := { c.boot with perstLow := false } }) ∧
    exec (.perstN false) s = .next (s.put (hosts { c with boot := { c.boot with perstLow := true } })) ∧
    exec .hotReset s = .next (s.put (hosts c)) ∧
    Yields .functionLevelReset s (fun t => t.ev = (hosts c).ev ∧
      (∀ q < 4, ∀ off, off = 0x100C ∨ off = 0x1010 ∨ off = 0x1014 ∨ off = 0x1018 → t.reg (pgMbx q) off = 0) ∧
      t.fw = { c.fw with doorbells := [] } ∧ Chip.only [.regs, .ev, .fw] c t))

/-- REGISTER_WRITE and REGISTER_READ_ACCESS_ERROR. Header: 0x20 BLK_ERR_CNT0, bit 1 of 0x14 its status. `actingWrite` holds the
registers whose writes act; those listed last act as their own command. -/
def Obligations.RegisterAccessesFollowTheRules : Prop :=
  (∀ (r : RegRow) (old v : W32), ∀ k < 32, (r.store old v).getLsbD k =
    (v.getLsbD k && r.rw.testBit k || old.getLsbD k && r.w1c.testBit k && !v.getLsbD k ||
      old.getLsbD k && !r.rw.testBit k && !r.w1c.testBit k)) ∧
  (∀ (s : State) (a : BitVec 26) (be : BitVec 4) (v : W32),
    let c := s.chip
    let page := a.toNat / 65536
    let off := a.toNat % 65536
    let good : Prop := be = 15 ∧ off % 4 = 0
    let i : Instr := .registerWrite a be v
    let counted : Chip := (c.bump page 0x20).setFlag page 0x14 1 true
    (page ≠ 0x3FF → c.serves page = false → exec i s = .next s) ∧
    (∀ b die, pageOf page = some (b, die) → c.serves page = true →
      (¬ good → exec i s = .next (s.put counted)) ∧
      (good → off = 0x1C ∨ (0x38 ≤ off ∧ off < 0x100) → exec i s = .next s) ∧
      (good → off ≠ 0x1C → ¬ (0x38 ≤ off ∧ off < 0x100) →
        (rowOf b off = none → exec i s = .next (s.put counted)) ∧
        (∀ r, rowOf b off = some r →
          (r.rw = 0 → r.w1c = 0 → r.act = 0 → exec i s = .next (s.put counted)) ∧
          (r.rw ≠ 0 ∨ r.w1c ≠ 0 ∨ r.act ≠ 0 →
            (c.selInst page die r.sel = none → exec i s = .next s) ∧
            (∀ n, c.selInst page die r.sel = some n →
              (off < 0x100 ∨ c.actingWrite b page die off n r v = none →
                exec i s = .next (s.after (c.setReg page off (r.store (c.reg page off n) v) n))) ∧
              (∀ k, 0x100 ≤ off → c.actingWrite b page die off n r v = some k → exec i s = .next (s.after k))))))) ∧
    (page = 0x3FF →
      let w := off / 4
      let n := if w % 4 = 3 then v &&& 1 else v
      let takes : Prop := c.m0Up = true ∧ good ∧ off < 0x60
      (¬ takes → exec i s = .next s) ∧
      (takes → Yields i s (fun t => Tbl.get (msixReset w) t.ev.msixMem w = n ∧
        (∀ j, j ≠ w → Tbl.get (msixReset j) t.ev.msixMem j = Tbl.get (msixReset j) c.ev.msixMem j) ∧
        (w % 4 = 3 → n = 0 → c.ev.msixPend.getLsbD (w / 4) = true → t.ev.msixPend.getLsbD (w / 4) = false ∧
          Tbl.get 0 t.ev.irqs (w / 4) = Tbl.get 0 c.ev.irqs (w / 4) + 1) ∧
        (w % 4 ≠ 3 ∨ n ≠ 0 ∨ c.ev.msixPend.getLsbD (w / 4) = false → t.ev.irqs = c.ev.irqs ∧
          t.ev.msixPend = c.ev.msixPend) ∧ Chip.only [.ev] c t))) ∧
    (good → exec (.registerReadAccessError a be) s = .next s) ∧
    (¬ good → c.serves page = true → exec (.registerReadAccessError a be) s = .next (s.put (counted.answer 0))) ∧
    (¬ good → c.serves page = false → exec (.registerReadAccessError a be) s = .next (s.put (c.answer 0)))) ∧
  (∀ (s : State) (v : W32),
    let acts (page off : Nat) (i : Instr) : Prop := s.chip.serves page = true →
      exec (.registerWrite (BitVec.ofNat 26 (page * 65536 + off)) 15 v) s = exec i s
    acts pgLiv 0x1004 (.livCtrlWrite v) ∧ acts pgTtb 0x1204 (.ttbLivCtrlWrite v) ∧ acts pgTtb 0x121C (.ttbLivSwap v) ∧
    acts pgTtb 0x1220 (.liveryRecordWrite (.cycle false) v) ∧ acts pgTtb 0x122C (.liveryRecordWrite (.range true) v) ∧
    acts pgRte 0x1304 (.gridMapWrite v) ∧
    (∀ die : Die, acts (pgPol die.val) 0x1018 (.polQuotaWrite die v) ∧ acts (pgPol die.val) 0x1010 (.polThrWrite die false v) ∧
      (die.val < 31 → acts (pgMem die.val) 0x1000 (.marchStart die v))) ∧
    (∀ d : CDie, acts (pgCch d.val) 0x1000 (.cchSlotSelect d v)) ∧
    ∀ b : BDie, acts (pgPolB b.val) 0x1028 (.quarantineRelease b v))

/-- The invariant of what no reset clears, over all 241 commands and the step of an empty queue. `Vault.ok` and `Fuses.moves` are
in Safety.lean; a group with any fuse blown counts as entered (R348), and its programming ends at a step of the empty queue. -/
def Obligations.FusesMoveOneWayOnEveryStep : Prop :=
  ∀ s t : State, step s = .next t →
    (s.chip.vault.ok → t.chip.vault.ok) ∧
    (s.chip.vault.fuses.legal → s.chip.vault.fuses.moves t.chip.vault.fuses)

/-- The invariant at reset. That the device is BLANK and its flash erased there is the model's choice (see the log). -/
def Obligations.TheVaultIsSoundAtReset : Prop :=
  State.reset.chip.vault.ok ∧ State.reset.chip.vault.fuses.transition = none ∧ State.reset.pending = [] ∧
    State.reset.chip.time.running = false ∧ State.reset.chip.phase = 0

/-- R39 and R40. Formats 4, 6 and 7 are E4M3, E3M2 and E2M3; values are on the grid of 2^-168. -/
def Obligations.SmallFormatsHaveTheNamedSpecials : Prop :=
  (∀ k < 256,
    let d := decodeCode 4 k
    d.pinf = false ∧ d.ninf = false ∧ (d.nan = true ↔ k = 0x7F ∨ k = 0xFF) ∧
    (d.nan = false → d.v.natAbs ≤ 448 * 2 ^ 168) ∧
    (d.v = 448 * 2 ^ 168 ↔ k = 0x7E) ∧ (d.v = -(448 * 2 ^ 168) ↔ k = 0xFE)) ∧
  (∀ k < 64, ∀ fmt ∈ [6, 7],
    let d := decodeCode fmt k
    d.pinf = false ∧ d.ninf = false ∧ d.nan = false)

/-- R81, on the rounding that every output format takes (`roundTo`), with what the packer does with its result; mode 2 is SR. -/
def Obligations.StochasticRoundingFollowsItsDraw : Prop :=
  (∀ (x : Nat) (eb qx : Int) (u : W32),
    let n := (qx - eb).toNat
    let down := x / 2 ^ n
    let rem := x % 2 ^ n
    let r := roundTo x eb qx 2 u
    (qx ≤ eb → r = x * 2 ^ (eb - qx).toNat) ∧
    (eb < qx → (r = down + 1 ↔ u.toNat < rem * 2 ^ 32 / 2 ^ n) ∧ (r = down ∨ r = down + 1) ∧
      (rem * 2 ^ 32 < 2 ^ n → r = down) ∧ (rem = 0 → r * 2 ^ n = x))) ∧
  (∀ f ∈ [fpFp32, fpBf16, fpFp16, fpE4m3, fpE5m2, fpE3m2, fpE2m3, fpN4], ∀ (x : Nat) (eb : Int) (mode : Nat) (u : W32),
    let qx : Int := max ((Nat.log2 x : Int) + eb) (1 - (f.bias : Int)) - (f.mbits : Int)
    0 < x → roundFp f x eb mode u ≤ f.maxCode →
      decodeFp f (roundFp f x eb mode u) 0 = Dec.fin ((roundTo x eb qx mode u * 2 ^ (qx + 168).toNat : Nat) : Int))
end

