-- ==== Sys2Proof/Laws/Bits.lean ====
section
/-! SUPPORT. Bit fields: what a field or a bit of a word is after a field was replaced. -/

namespace Sys2Proof.Machine

/-- A field is the number of its bits. -/
theorem fld_testBit {n : Nat} (x : BitVec n) (lo w i : Nat) :
    (fld x lo w).testBit i = (decide (i < w) && x.getLsbD (lo + i)) := by
  simp only [fld, Nat.testBit_mod_two_pow, Nat.testBit_shiftRight, BitVec.getLsbD]

theorem fld_lt {n : Nat} (x : BitVec n) (lo w : Nat) : fld x lo w < 2 ^ w := Nat.mod_lt _ (Nat.two_pow_pos w)

/-- The bits of a word with a field replaced. -/
theorem putFld_getLsbD {n : Nat} (x : BitVec n) (lo w v i : Nat) :
    (putFld x lo w v).getLsbD i =
      if lo ≤ i ∧ i < lo + w ∧ i < n then v.testBit (i - lo) else x.getLsbD i := by
  have hx : n ≤ i → x.getLsbD i = false := fun h => BitVec.getLsbD_of_ge x i h
  simp only [putFld, BitVec.getLsbD_or, BitVec.getLsbD_and, BitVec.getLsbD_not, BitVec.getLsbD_ofNat,
    Nat.testBit_shiftLeft, Nat.testBit_two_pow_sub_one, Nat.testBit_mod_two_pow, ge_iff_le]
  by_cases hn : i < n
  · by_cases h1 : lo ≤ i
    · by_cases h2 : i < lo + w
      · have h3 : i - lo < w := by omega
        simp [hn, h1, h2, h3]
      · have h3 : ¬ i - lo < w := by omega
        simp [hn, h1, h2, h3]
    · simp [hn, h1]
  · simp [hn, hx (by omega)]

/-- A field that was written. -/
theorem fld_putFld_same {n : Nat} (x : BitVec n) (lo w v : Nat) (h : lo + w ≤ n) :
    fld (putFld x lo w v) lo w = v % 2 ^ w := by
  apply Nat.eq_of_testBit_eq
  intro i
  rw [fld_testBit, putFld_getLsbD, Nat.testBit_mod_two_pow]
  by_cases hi : i < w
  · have : lo ≤ lo + i ∧ lo + i < lo + w ∧ lo + i < n := by omega
    simp [hi, this]
  · simp [hi]

/-- A field clear of the one that was written. -/
theorem fld_putFld_other {n : Nat} (x : BitVec n) (lo w v lo' w' : Nat) (h : lo' + w' ≤ lo ∨ lo + w ≤ lo') :
    fld (putFld x lo w v) lo' w' = fld x lo' w' := by
  apply Nat.eq_of_testBit_eq
  intro i
  rw [fld_testBit, fld_testBit, putFld_getLsbD]
  by_cases hi : i < w'
  · have : ¬ (lo ≤ lo' + i ∧ lo' + i < lo + w ∧ lo' + i < n) := by omega
    simp [this]
  · simp [hi]

/-- The bit that was written. -/
theorem putFld_bit_same {n : Nat} (x : BitVec n) (i : Nat) (b : Bool) (h : i < n) :
    (putFld x i 1 b.toNat).getLsbD i = b := by
  rw [putFld_getLsbD, if_pos ⟨le_refl i, by omega, h⟩]
  cases b <;> simp

/-- A bit outside the field that was written. -/
theorem putFld_bit_other {n : Nat} (x : BitVec n) (lo w v i : Nat) (h : i < lo ∨ lo + w ≤ i) :
    (putFld x lo w v).getLsbD i = x.getLsbD i := by
  rw [putFld_getLsbD, if_neg (by omega)]

end Sys2Proof.Machine
end

