-- ==== Sys2Proof/Laws/Tbl.lean ====
section
/-! SUPPORT. The sparse table: a read after a write, and that every write and every filter keeps the canonical form. -/

namespace Sys2Proof.Machine

variable {β : Type}

@[simp] theorem Tbl.get_nil (d : β) (k : Nat) : Tbl.get d [] k = d := rfl

theorem Tbl.get_erase (d : β) (m : Tbl β) (k j : Nat) :
    Tbl.get d (m.erase k) j = if j = k then d else Tbl.get d m j := by
  induction m with
  | nil => simp [Tbl.erase]
  | cons p t ih =>
    obtain ⟨a, v⟩ := p
    by_cases hak : a = k
    · subst hak; simp only [Tbl.erase, if_true, ih]
      by_cases hj : j = a
      · simp [hj]
      · simp [Tbl.get, hj, Ne.symm hj]
    · simp only [Tbl.erase, if_neg hak, Tbl.get, ih]
      by_cases haj : a = j
      · subst haj; simp [hak]
      · simp [haj]

/-- No key of a table from which `k` was erased is `k`. -/
theorem Tbl.erase_ne (m : Tbl β) (k : Nat) : ∀ p ∈ m.erase k, p.1 ≠ k := by
  induction m with
  | nil => simp [Tbl.erase]
  | cons p t ih =>
    obtain ⟨a, w⟩ := p
    by_cases hak : a = k
    · simpa [Tbl.erase, hak] using ih
    · simp only [Tbl.erase, if_neg hak, List.mem_cons]
      rintro q (rfl | hq)
      · exact hak
      · exact ih q hq

theorem Tbl.get_insert (d : β) (t : Tbl β) (k j : Nat) (v : β) (h : ∀ p ∈ t, p.1 ≠ k) :
    Tbl.get d (Tbl.insert t k v) j = if j = k then v else Tbl.get d t j := by
  induction t with
  | nil => simp [Tbl.insert, Tbl.get, eq_comm]
  | cons p t ih =>
    obtain ⟨a, w⟩ := p
    have hak : a ≠ k := h _ (List.mem_cons_self ..)
    have ht := ih (fun q hq => h q (List.mem_cons_of_mem _ hq))
    by_cases hlt : k < a
    · simp only [Tbl.insert, if_pos hlt, Tbl.get]
      by_cases hj : j = k
      · simp [hj]
      · simp [hj, Ne.symm hj]
    · simp only [Tbl.insert, if_neg hlt, Tbl.get, ht]
      by_cases haj : a = j
      · subst haj; simp [hak]
      · simp [haj]

/-- A write is an erasure, and an insertion unless the value is the default. -/
theorem Tbl.set_eq [DecidableEq β] (d : β) (m : Tbl β) (k : Nat) (v : β) :
    Tbl.set d m k v = if v = d then m.erase k else Tbl.insert (m.erase k) k v := by
  cases m <;> rfl

/-- A read of the key that was written. -/
@[simp] theorem Tbl.get_set_same [DecidableEq β] (d : β) (m : Tbl β) (k : Nat) (v : β) :
    Tbl.get d (Tbl.set d m k v) k = v := by
  rw [Tbl.set_eq]
  split
  · next hv => rw [Tbl.get_erase, if_pos rfl, hv]
  · rw [Tbl.get_insert _ _ _ _ _ (Tbl.erase_ne m k), if_pos rfl]

/-- A read of another key, whatever it reads as while unlisted. -/
theorem Tbl.get_set_other [DecidableEq β] (d d' : β) (m : Tbl β) {k j : Nat} (v : β) (h : j ≠ k) :
    Tbl.get d' (Tbl.set d m k v) j = Tbl.get d' m j := by
  rw [Tbl.set_eq]
  split
  · rw [Tbl.get_erase, if_neg h]
  · rw [Tbl.get_insert _ _ _ _ _ (Tbl.erase_ne m k), if_neg h, Tbl.get_erase, if_neg h]

/-- A read after a write, under one default. -/
theorem Tbl.get_set [DecidableEq β] (d : β) (m : Tbl β) (k j : Nat) (v : β) :
    Tbl.get d (Tbl.set d m k v) j = if j = k then v else Tbl.get d m j := by
  by_cases h : j = k
  · subst h; simp
  · rw [if_neg h, Tbl.get_set_other _ _ _ _ h]

/-! The canonical form -/

/-- The canonical form as a relation between neighbours: keys strictly rising, no listed default. -/
theorem Tbl.wf_iff [DecidableEq β] (D : Nat → β) (m : Tbl β) :
    Tbl.wf D m = true ↔ m.Pairwise (fun p q => p.1 < q.1) ∧ ∀ p ∈ m, p.2 ≠ D p.1 := by
  induction m with
  | nil => simp [Tbl.wf]
  | cons p t ih =>
    obtain ⟨j, v⟩ := p
    simp only [Tbl.wf, Bool.and_eq_true, ih, List.pairwise_cons, List.mem_cons, forall_eq_or_imp, bne_iff_ne]
    constructor
    · rintro ⟨⟨hv, hh⟩, hp, hd⟩
      refine ⟨⟨?_, hp⟩, hv, hd⟩
      cases t with
      | nil => simp
      | cons q t =>
        have hjq : j < q.1 := by simpa using hh
        simp only [List.mem_cons, forall_eq_or_imp]
        refine ⟨hjq, fun a ha => ?_⟩
        have := (List.pairwise_cons.1 hp).1 a ha
        omega
    · rintro ⟨⟨hj, hp⟩, hv, hd⟩
      refine ⟨⟨hv, ?_⟩, hp, hd⟩
      cases t with
      | nil => rfl
      | cons q t => simpa using hj q (List.mem_cons_self ..)

theorem Tbl.erase_eq_filter (m : Tbl β) (k : Nat) : m.erase k = m.filter (fun p => decide (p.1 ≠ k)) := by
  induction m with
  | nil => rfl
  | cons p t ih =>
    obtain ⟨a, w⟩ := p
    by_cases h : a = k <;> simp [Tbl.erase, h, ih]

theorem Tbl.mem_insert (t : Tbl β) (k : Nat) (v : β) (p : Nat × β) :
    p ∈ Tbl.insert t k v ↔ p = (k, v) ∨ p ∈ t := by
  induction t with
  | nil => simp [Tbl.insert]
  | cons q t ih =>
    obtain ⟨a, w⟩ := q
    by_cases h : k < a
    · simp [Tbl.insert, h]
    · simp only [Tbl.insert, if_neg h, List.mem_cons, ih]; tauto

theorem Tbl.insert_rising (t : Tbl β) (k : Nat) (v : β) (h : ∀ p ∈ t, p.1 ≠ k)
    (hp : t.Pairwise (fun p q => p.1 < q.1)) : (Tbl.insert t k v).Pairwise (fun p q => p.1 < q.1) := by
  induction t with
  | nil => simp [Tbl.insert]
  | cons q t ih =>
    obtain ⟨a, w⟩ := q
    obtain ⟨h1, h2⟩ := List.pairwise_cons.1 hp
    have hak : a ≠ k := h _ (List.mem_cons_self ..)
    by_cases hlt : k < a
    · simp only [Tbl.insert, if_pos hlt]
      refine List.pairwise_cons.2 ⟨?_, hp⟩
      simp only [List.mem_cons, forall_eq_or_imp]
      exact ⟨hlt, fun b hb => lt_trans hlt (h1 b hb)⟩
    · simp only [Tbl.insert, if_neg hlt]
      refine List.pairwise_cons.2 ⟨?_, ih (fun q hq => h q (List.mem_cons_of_mem _ hq)) h2⟩
      intro b hb
      rcases (Tbl.mem_insert _ _ _ _).1 hb with rfl | hb
      · show a < k; omega
      · exact h1 b hb

/-- A filter keeps the canonical form. -/
theorem Tbl.wf_filter [DecidableEq β] (D : Nat → β) (m : Tbl β) (f : Nat × β → Bool) (h : Tbl.wf D m = true) :
    Tbl.wf D (m.filter f) = true := by
  rw [Tbl.wf_iff] at *
  exact ⟨h.1.filter _, fun p hp => h.2 p (List.mem_filter.1 hp).1⟩

/-- A write keeps the canonical form. -/
theorem Tbl.wf_set [DecidableEq β] (D : Nat → β) (m : Tbl β) (k : Nat) (v : β) (h : Tbl.wf D m = true) :
    Tbl.wf D (Tbl.set (D k) m k v) = true := by
  have he : Tbl.wf D (m.erase k) = true := by rw [Tbl.erase_eq_filter]; exact Tbl.wf_filter _ _ _ h
  rw [Tbl.set_eq]
  split
  · exact he
  · next hv =>
    rw [Tbl.wf_iff] at *
    refine ⟨Tbl.insert_rising _ _ _ (Tbl.erase_ne m k) he.1, fun p hp => ?_⟩
    rcases (Tbl.mem_insert _ _ _ _).1 hp with rfl | hp
    · exact hv
    · exact he.2 p hp

/-- Two canonical tables that read alike at every key are the same list. -/
theorem Tbl.wf_ext [DecidableEq β] (D : Nat → β) (m m' : Tbl β) (h : Tbl.wf D m = true) (h' : Tbl.wf D m' = true)
    (hg : ∀ k, Tbl.get (D k) m k = Tbl.get (D k) m' k) : m = m' := by
  have get_of_lt : ∀ (t : Tbl β) (k : Nat), (∀ p ∈ t, k < p.1) → Tbl.get (D k) t k = D k := by
    intro t k ht
    induction t with
    | nil => rfl
    | cons p t ih =>
      have : p.1 ≠ k := by have := ht p (List.mem_cons_self ..); omega
      obtain ⟨a, w⟩ := p
      simp only [Tbl.get, if_neg this]
      exact ih (fun q hq => ht q (List.mem_cons_of_mem _ hq))
  rw [Tbl.wf_iff] at h h'
  induction m generalizing m' with
  | nil =>
    cases m' with
    | nil => rfl
    | cons q t' =>
      have := hg q.1
      obtain ⟨a, w⟩ := q
      simp only [Tbl.get, if_true] at this
      exact absurd this.symm (h'.2 (a, w) (List.mem_cons_self ..))
  | cons p t ih =>
    cases m' with
    | nil =>
      have := hg p.1
      obtain ⟨a, w⟩ := p
      simp only [Tbl.get, if_true] at this
      exact absurd this (h.2 (a, w) (List.mem_cons_self ..))
    | cons q t' =>
      obtain ⟨a, w⟩ := p
      obtain ⟨b, u⟩ := q
      obtain ⟨h1, h2⟩ := List.pairwise_cons.1 h.1
      obtain ⟨h1', h2'⟩ := List.pairwise_cons.1 h'.1
      have hab : a = b := by
        rcases lt_trichotomy a b with hlt | heq | hgt
        · have e := hg a
          rw [get_of_lt ((b, u) :: t') a (by
            simp only [List.mem_cons, forall_eq_or_imp]
            exact ⟨hlt, fun p hp => lt_trans hlt (h1' p hp)⟩)] at e
          simp only [Tbl.get, if_true] at e
          exact absurd e (h.2 (a, w) (List.mem_cons_self ..))
        · exact heq
        · have e := hg b
          rw [get_of_lt ((a, w) :: t) b (by
            simp only [List.mem_cons, forall_eq_or_imp]
            exact ⟨hgt, fun p hp => lt_trans hgt (h1 p hp)⟩)] at e
          simp only [Tbl.get, if_true] at e
          exact absurd e.symm (h'.2 (b, u) (List.mem_cons_self ..))
      subst hab
      have hw : w = u := by have e := hg a; simpa [Tbl.get] using e
      subst hw
      congr 1
      refine ih t' ⟨h2, fun p hp => h.2 p (List.mem_cons_of_mem _ hp)⟩ ⟨h2', fun p hp => h'.2 p (List.mem_cons_of_mem _ hp)⟩ ?_
      intro k
      by_cases hk : k = a
      · subst hk; rw [get_of_lt t k h1, get_of_lt t' k h1']
      · have e := hg k
        simpa [Tbl.get, Ne.symm hk] using e

end Sys2Proof.Machine
end

