-- ==== Sys2Proof/Laws/State.lean ====
section
/-! SUPPORT. One lemma per field and per update of the state, and a read of a register, a link, an egress or a coach
slot after a write of one: later proofs do not unfold a record update. -/

namespace Sys2Proof.Machine

variable (c : Chip)

/-! setReg -/

@[simp] theorem Chip.setReg_time (page off : Nat) (v : W32) (inst : Nat) : (c.setReg page off v inst).time = c.time := (rfl)
@[simp] theorem Chip.setReg_ev (page off : Nat) (v : W32) (inst : Nat) : (c.setReg page off v inst).ev = c.ev := (rfl)
@[simp] theorem Chip.setReg_snap (page off : Nat) (v : W32) (inst : Nat) : (c.setReg page off v inst).snap = c.snap := (rfl)
@[simp] theorem Chip.setReg_coach (page off : Nat) (v : W32) (inst : Nat) : (c.setReg page off v inst).coach = c.coach := (rfl)
@[simp] theorem Chip.setReg_tt (page off : Nat) (v : W32) (inst : Nat) : (c.setReg page off v inst).tt = c.tt := (rfl)
@[simp] theorem Chip.setReg_rte (page off : Nat) (v : W32) (inst : Nat) : (c.setReg page off v inst).rte = c.rte := (rfl)
@[simp] theorem Chip.setReg_puts (page off : Nat) (v : W32) (inst : Nat) : (c.setReg page off v inst).puts = c.puts := (rfl)
@[simp] theorem Chip.setReg_traf (page off : Nat) (v : W32) (inst : Nat) : (c.setReg page off v inst).traf = c.traf := (rfl)
@[simp] theorem Chip.setReg_pool (page off : Nat) (v : W32) (inst : Nat) : (c.setReg page off v inst).pool = c.pool := (rfl)
@[simp] theorem Chip.setReg_bank (page off : Nat) (v : W32) (inst : Nat) : (c.setReg page off v inst).bank = c.bank := (rfl)
@[simp] theorem Chip.setReg_port (page off : Nat) (v : W32) (inst : Nat) : (c.setReg page off v inst).port = c.port := (rfl)
@[simp] theorem Chip.setReg_flt (page off : Nat) (v : W32) (inst : Nat) : (c.setReg page off v inst).flt = c.flt := (rfl)
@[simp] theorem Chip.setReg_sec (page off : Nat) (v : W32) (inst : Nat) : (c.setReg page off v inst).sec = c.sec := (rfl)
@[simp] theorem Chip.setReg_fw (page off : Nat) (v : W32) (inst : Nat) : (c.setReg page off v inst).fw = c.fw := (rfl)
@[simp] theorem Chip.setReg_pwr (page off : Nat) (v : W32) (inst : Nat) : (c.setReg page off v inst).pwr = c.pwr := (rfl)
@[simp] theorem Chip.setReg_act (page off : Nat) (v : W32) (inst : Nat) : (c.setReg page off v inst).act = c.act := (rfl)
@[simp] theorem Chip.setReg_boot (page off : Nat) (v : W32) (inst : Nat) : (c.setReg page off v inst).boot = c.boot := (rfl)
@[simp] theorem Chip.setReg_out (page off : Nat) (v : W32) (inst : Nat) : (c.setReg page off v inst).out = c.out := (rfl)
@[simp] theorem Chip.setReg_fresh (page off : Nat) (v : W32) (inst : Nat) : (c.setReg page off v inst).fresh = c.fresh := (rfl)

/-! setField -/

@[simp] theorem Chip.setField_time (page off lo w v inst : Nat) : (c.setField page off lo w v inst).time = c.time := (rfl)
@[simp] theorem Chip.setField_ev (page off lo w v inst : Nat) : (c.setField page off lo w v inst).ev = c.ev := (rfl)
@[simp] theorem Chip.setField_snap (page off lo w v inst : Nat) : (c.setField page off lo w v inst).snap = c.snap := (rfl)
@[simp] theorem Chip.setField_coach (page off lo w v inst : Nat) : (c.setField page off lo w v inst).coach = c.coach := (rfl)
@[simp] theorem Chip.setField_tt (page off lo w v inst : Nat) : (c.setField page off lo w v inst).tt = c.tt := (rfl)
@[simp] theorem Chip.setField_rte (page off lo w v inst : Nat) : (c.setField page off lo w v inst).rte = c.rte := (rfl)
@[simp] theorem Chip.setField_puts (page off lo w v inst : Nat) : (c.setField page off lo w v inst).puts = c.puts := (rfl)
@[simp] theorem Chip.setField_traf (page off lo w v inst : Nat) : (c.setField page off lo w v inst).traf = c.traf := (rfl)
@[simp] theorem Chip.setField_pool (page off lo w v inst : Nat) : (c.setField page off lo w v inst).pool = c.pool := (rfl)
@[simp] theorem Chip.setField_bank (page off lo w v inst : Nat) : (c.setField page off lo w v inst).bank = c.bank := (rfl)
@[simp] theorem Chip.setField_port (page off lo w v inst : Nat) : (c.setField page off lo w v inst).port = c.port := (rfl)
@[simp] theorem Chip.setField_flt (page off lo w v inst : Nat) : (c.setField page off lo w v inst).flt = c.flt := (rfl)
@[simp] theorem Chip.setField_sec (page off lo w v inst : Nat) : (c.setField page off lo w v inst).sec = c.sec := (rfl)
@[simp] theorem Chip.setField_fw (page off lo w v inst : Nat) : (c.setField page off lo w v inst).fw = c.fw := (rfl)
@[simp] theorem Chip.setField_pwr (page off lo w v inst : Nat) : (c.setField page off lo w v inst).pwr = c.pwr := (rfl)
@[simp] theorem Chip.setField_act (page off lo w v inst : Nat) : (c.setField page off lo w v inst).act = c.act := (rfl)
@[simp] theorem Chip.setField_boot (page off lo w v inst : Nat) : (c.setField page off lo w v inst).boot = c.boot := (rfl)
@[simp] theorem Chip.setField_out (page off lo w v inst : Nat) : (c.setField page off lo w v inst).out = c.out := (rfl)
@[simp] theorem Chip.setField_fresh (page off lo w v inst : Nat) : (c.setField page off lo w v inst).fresh = c.fresh := (rfl)

/-! setFlag -/

@[simp] theorem Chip.setFlag_time (page off i : Nat) (b : Bool) (inst : Nat) : (c.setFlag page off i b inst).time = c.time := (rfl)
@[simp] theorem Chip.setFlag_ev (page off i : Nat) (b : Bool) (inst : Nat) : (c.setFlag page off i b inst).ev = c.ev := (rfl)
@[simp] theorem Chip.setFlag_snap (page off i : Nat) (b : Bool) (inst : Nat) : (c.setFlag page off i b inst).snap = c.snap := (rfl)
@[simp] theorem Chip.setFlag_coach (page off i : Nat) (b : Bool) (inst : Nat) : (c.setFlag page off i b inst).coach = c.coach := (rfl)
@[simp] theorem Chip.setFlag_tt (page off i : Nat) (b : Bool) (inst : Nat) : (c.setFlag page off i b inst).tt = c.tt := (rfl)
@[simp] theorem Chip.setFlag_rte (page off i : Nat) (b : Bool) (inst : Nat) : (c.setFlag page off i b inst).rte = c.rte := (rfl)
@[simp] theorem Chip.setFlag_puts (page off i : Nat) (b : Bool) (inst : Nat) : (c.setFlag page off i b inst).puts = c.puts := (rfl)
@[simp] theorem Chip.setFlag_traf (page off i : Nat) (b : Bool) (inst : Nat) : (c.setFlag page off i b inst).traf = c.traf := (rfl)
@[simp] theorem Chip.setFlag_pool (page off i : Nat) (b : Bool) (inst : Nat) : (c.setFlag page off i b inst).pool = c.pool := (rfl)
@[simp] theorem Chip.setFlag_bank (page off i : Nat) (b : Bool) (inst : Nat) : (c.setFlag page off i b inst).bank = c.bank := (rfl)
@[simp] theorem Chip.setFlag_port (page off i : Nat) (b : Bool) (inst : Nat) : (c.setFlag page off i b inst).port = c.port := (rfl)
@[simp] theorem Chip.setFlag_flt (page off i : Nat) (b : Bool) (inst : Nat) : (c.setFlag page off i b inst).flt = c.flt := (rfl)
@[simp] theorem Chip.setFlag_sec (page off i : Nat) (b : Bool) (inst : Nat) : (c.setFlag page off i b inst).sec = c.sec := (rfl)
@[simp] theorem Chip.setFlag_fw (page off i : Nat) (b : Bool) (inst : Nat) : (c.setFlag page off i b inst).fw = c.fw := (rfl)
@[simp] theorem Chip.setFlag_pwr (page off i : Nat) (b : Bool) (inst : Nat) : (c.setFlag page off i b inst).pwr = c.pwr := (rfl)
@[simp] theorem Chip.setFlag_act (page off i : Nat) (b : Bool) (inst : Nat) : (c.setFlag page off i b inst).act = c.act := (rfl)
@[simp] theorem Chip.setFlag_boot (page off i : Nat) (b : Bool) (inst : Nat) : (c.setFlag page off i b inst).boot = c.boot := (rfl)
@[simp] theorem Chip.setFlag_out (page off i : Nat) (b : Bool) (inst : Nat) : (c.setFlag page off i b inst).out = c.out := (rfl)
@[simp] theorem Chip.setFlag_fresh (page off i : Nat) (b : Bool) (inst : Nat) : (c.setFlag page off i b inst).fresh = c.fresh := (rfl)

/-! bumpN -/

@[simp] theorem Chip.bumpN_time (page off n inst : Nat) : (c.bumpN page off n inst).time = c.time := (rfl)
@[simp] theorem Chip.bumpN_ev (page off n inst : Nat) : (c.bumpN page off n inst).ev = c.ev := (rfl)
@[simp] theorem Chip.bumpN_snap (page off n inst : Nat) : (c.bumpN page off n inst).snap = c.snap := (rfl)
@[simp] theorem Chip.bumpN_coach (page off n inst : Nat) : (c.bumpN page off n inst).coach = c.coach := (rfl)
@[simp] theorem Chip.bumpN_tt (page off n inst : Nat) : (c.bumpN page off n inst).tt = c.tt := (rfl)
@[simp] theorem Chip.bumpN_rte (page off n inst : Nat) : (c.bumpN page off n inst).rte = c.rte := (rfl)
@[simp] theorem Chip.bumpN_puts (page off n inst : Nat) : (c.bumpN page off n inst).puts = c.puts := (rfl)
@[simp] theorem Chip.bumpN_traf (page off n inst : Nat) : (c.bumpN page off n inst).traf = c.traf := (rfl)
@[simp] theorem Chip.bumpN_pool (page off n inst : Nat) : (c.bumpN page off n inst).pool = c.pool := (rfl)
@[simp] theorem Chip.bumpN_bank (page off n inst : Nat) : (c.bumpN page off n inst).bank = c.bank := (rfl)
@[simp] theorem Chip.bumpN_port (page off n inst : Nat) : (c.bumpN page off n inst).port = c.port := (rfl)
@[simp] theorem Chip.bumpN_flt (page off n inst : Nat) : (c.bumpN page off n inst).flt = c.flt := (rfl)
@[simp] theorem Chip.bumpN_sec (page off n inst : Nat) : (c.bumpN page off n inst).sec = c.sec := (rfl)
@[simp] theorem Chip.bumpN_fw (page off n inst : Nat) : (c.bumpN page off n inst).fw = c.fw := (rfl)
@[simp] theorem Chip.bumpN_pwr (page off n inst : Nat) : (c.bumpN page off n inst).pwr = c.pwr := (rfl)
@[simp] theorem Chip.bumpN_act (page off n inst : Nat) : (c.bumpN page off n inst).act = c.act := (rfl)
@[simp] theorem Chip.bumpN_boot (page off n inst : Nat) : (c.bumpN page off n inst).boot = c.boot := (rfl)
@[simp] theorem Chip.bumpN_out (page off n inst : Nat) : (c.bumpN page off n inst).out = c.out := (rfl)
@[simp] theorem Chip.bumpN_fresh (page off n inst : Nat) : (c.bumpN page off n inst).fresh = c.fresh := (rfl)

/-! bump -/

@[simp] theorem Chip.bump_time (page off inst : Nat) : (c.bump page off inst).time = c.time := (rfl)
@[simp] theorem Chip.bump_ev (page off inst : Nat) : (c.bump page off inst).ev = c.ev := (rfl)
@[simp] theorem Chip.bump_snap (page off inst : Nat) : (c.bump page off inst).snap = c.snap := (rfl)
@[simp] theorem Chip.bump_coach (page off inst : Nat) : (c.bump page off inst).coach = c.coach := (rfl)
@[simp] theorem Chip.bump_tt (page off inst : Nat) : (c.bump page off inst).tt = c.tt := (rfl)
@[simp] theorem Chip.bump_rte (page off inst : Nat) : (c.bump page off inst).rte = c.rte := (rfl)
@[simp] theorem Chip.bump_puts (page off inst : Nat) : (c.bump page off inst).puts = c.puts := (rfl)
@[simp] theorem Chip.bump_traf (page off inst : Nat) : (c.bump page off inst).traf = c.traf := (rfl)
@[simp] theorem Chip.bump_pool (page off inst : Nat) : (c.bump page off inst).pool = c.pool := (rfl)
@[simp] theorem Chip.bump_bank (page off inst : Nat) : (c.bump page off inst).bank = c.bank := (rfl)
@[simp] theorem Chip.bump_port (page off inst : Nat) : (c.bump page off inst).port = c.port := (rfl)
@[simp] theorem Chip.bump_flt (page off inst : Nat) : (c.bump page off inst).flt = c.flt := (rfl)
@[simp] theorem Chip.bump_sec (page off inst : Nat) : (c.bump page off inst).sec = c.sec := (rfl)
@[simp] theorem Chip.bump_fw (page off inst : Nat) : (c.bump page off inst).fw = c.fw := (rfl)
@[simp] theorem Chip.bump_pwr (page off inst : Nat) : (c.bump page off inst).pwr = c.pwr := (rfl)
@[simp] theorem Chip.bump_act (page off inst : Nat) : (c.bump page off inst).act = c.act := (rfl)
@[simp] theorem Chip.bump_boot (page off inst : Nat) : (c.bump page off inst).boot = c.boot := (rfl)
@[simp] theorem Chip.bump_out (page off inst : Nat) : (c.bump page off inst).out = c.out := (rfl)
@[simp] theorem Chip.bump_fresh (page off inst : Nat) : (c.bump page off inst).fresh = c.fresh := (rfl)

/-! bumpSat -/

@[simp] theorem Chip.bumpSat_time (page off n inst : Nat) : (c.bumpSat page off n inst).time = c.time := (rfl)
@[simp] theorem Chip.bumpSat_ev (page off n inst : Nat) : (c.bumpSat page off n inst).ev = c.ev := (rfl)
@[simp] theorem Chip.bumpSat_snap (page off n inst : Nat) : (c.bumpSat page off n inst).snap = c.snap := (rfl)
@[simp] theorem Chip.bumpSat_coach (page off n inst : Nat) : (c.bumpSat page off n inst).coach = c.coach := (rfl)
@[simp] theorem Chip.bumpSat_tt (page off n inst : Nat) : (c.bumpSat page off n inst).tt = c.tt := (rfl)
@[simp] theorem Chip.bumpSat_rte (page off n inst : Nat) : (c.bumpSat page off n inst).rte = c.rte := (rfl)
@[simp] theorem Chip.bumpSat_puts (page off n inst : Nat) : (c.bumpSat page off n inst).puts = c.puts := (rfl)
@[simp] theorem Chip.bumpSat_traf (page off n inst : Nat) : (c.bumpSat page off n inst).traf = c.traf := (rfl)
@[simp] theorem Chip.bumpSat_pool (page off n inst : Nat) : (c.bumpSat page off n inst).pool = c.pool := (rfl)
@[simp] theorem Chip.bumpSat_bank (page off n inst : Nat) : (c.bumpSat page off n inst).bank = c.bank := (rfl)
@[simp] theorem Chip.bumpSat_port (page off n inst : Nat) : (c.bumpSat page off n inst).port = c.port := (rfl)
@[simp] theorem Chip.bumpSat_flt (page off n inst : Nat) : (c.bumpSat page off n inst).flt = c.flt := (rfl)
@[simp] theorem Chip.bumpSat_sec (page off n inst : Nat) : (c.bumpSat page off n inst).sec = c.sec := (rfl)
@[simp] theorem Chip.bumpSat_fw (page off n inst : Nat) : (c.bumpSat page off n inst).fw = c.fw := (rfl)
@[simp] theorem Chip.bumpSat_pwr (page off n inst : Nat) : (c.bumpSat page off n inst).pwr = c.pwr := (rfl)
@[simp] theorem Chip.bumpSat_act (page off n inst : Nat) : (c.bumpSat page off n inst).act = c.act := (rfl)
@[simp] theorem Chip.bumpSat_boot (page off n inst : Nat) : (c.bumpSat page off n inst).boot = c.boot := (rfl)
@[simp] theorem Chip.bumpSat_out (page off n inst : Nat) : (c.bumpSat page off n inst).out = c.out := (rfl)
@[simp] theorem Chip.bumpSat_fresh (page off n inst : Nat) : (c.bumpSat page off n inst).fresh = c.fresh := (rfl)

/-! setLink -/

@[simp] theorem Chip.setLink_regs (p : Nat) (l : Link) : (c.setLink p l).regs = c.regs := (rfl)
@[simp] theorem Chip.setLink_time (p : Nat) (l : Link) : (c.setLink p l).time = c.time := (rfl)
@[simp] theorem Chip.setLink_ev (p : Nat) (l : Link) : (c.setLink p l).ev = c.ev := (rfl)
@[simp] theorem Chip.setLink_snap (p : Nat) (l : Link) : (c.setLink p l).snap = c.snap := (rfl)
@[simp] theorem Chip.setLink_coach (p : Nat) (l : Link) : (c.setLink p l).coach = c.coach := (rfl)
@[simp] theorem Chip.setLink_tt (p : Nat) (l : Link) : (c.setLink p l).tt = c.tt := (rfl)
@[simp] theorem Chip.setLink_rte (p : Nat) (l : Link) : (c.setLink p l).rte = c.rte := (rfl)
@[simp] theorem Chip.setLink_puts (p : Nat) (l : Link) : (c.setLink p l).puts = c.puts := (rfl)
@[simp] theorem Chip.setLink_traf (p : Nat) (l : Link) : (c.setLink p l).traf = c.traf := (rfl)
@[simp] theorem Chip.setLink_pool (p : Nat) (l : Link) : (c.setLink p l).pool = c.pool := (rfl)
@[simp] theorem Chip.setLink_bank (p : Nat) (l : Link) : (c.setLink p l).bank = c.bank := (rfl)
@[simp] theorem Chip.setLink_flt (p : Nat) (l : Link) : (c.setLink p l).flt = c.flt := (rfl)
@[simp] theorem Chip.setLink_sec (p : Nat) (l : Link) : (c.setLink p l).sec = c.sec := (rfl)
@[simp] theorem Chip.setLink_fw (p : Nat) (l : Link) : (c.setLink p l).fw = c.fw := (rfl)
@[simp] theorem Chip.setLink_pwr (p : Nat) (l : Link) : (c.setLink p l).pwr = c.pwr := (rfl)
@[simp] theorem Chip.setLink_act (p : Nat) (l : Link) : (c.setLink p l).act = c.act := (rfl)
@[simp] theorem Chip.setLink_boot (p : Nat) (l : Link) : (c.setLink p l).boot = c.boot := (rfl)
@[simp] theorem Chip.setLink_out (p : Nat) (l : Link) : (c.setLink p l).out = c.out := (rfl)
@[simp] theorem Chip.setLink_fresh (p : Nat) (l : Link) : (c.setLink p l).fresh = c.fresh := (rfl)

/-! setEgress -/

@[simp] theorem Chip.setEgress_regs (p : Nat) (e : Egress) : (c.setEgress p e).regs = c.regs := (rfl)
@[simp] theorem Chip.setEgress_time (p : Nat) (e : Egress) : (c.setEgress p e).time = c.time := (rfl)
@[simp] theorem Chip.setEgress_ev (p : Nat) (e : Egress) : (c.setEgress p e).ev = c.ev := (rfl)
@[simp] theorem Chip.setEgress_snap (p : Nat) (e : Egress) : (c.setEgress p e).snap = c.snap := (rfl)
@[simp] theorem Chip.setEgress_coach (p : Nat) (e : Egress) : (c.setEgress p e).coach = c.coach := (rfl)
@[simp] theorem Chip.setEgress_tt (p : Nat) (e : Egress) : (c.setEgress p e).tt = c.tt := (rfl)
@[simp] theorem Chip.setEgress_rte (p : Nat) (e : Egress) : (c.setEgress p e).rte = c.rte := (rfl)
@[simp] theorem Chip.setEgress_puts (p : Nat) (e : Egress) : (c.setEgress p e).puts = c.puts := (rfl)
@[simp] theorem Chip.setEgress_pool (p : Nat) (e : Egress) : (c.setEgress p e).pool = c.pool := (rfl)
@[simp] theorem Chip.setEgress_bank (p : Nat) (e : Egress) : (c.setEgress p e).bank = c.bank := (rfl)
@[simp] theorem Chip.setEgress_port (p : Nat) (e : Egress) : (c.setEgress p e).port = c.port := (rfl)
@[simp] theorem Chip.setEgress_flt (p : Nat) (e : Egress) : (c.setEgress p e).flt = c.flt := (rfl)
@[simp] theorem Chip.setEgress_sec (p : Nat) (e : Egress) : (c.setEgress p e).sec = c.sec := (rfl)
@[simp] theorem Chip.setEgress_fw (p : Nat) (e : Egress) : (c.setEgress p e).fw = c.fw := (rfl)
@[simp] theorem Chip.setEgress_pwr (p : Nat) (e : Egress) : (c.setEgress p e).pwr = c.pwr := (rfl)
@[simp] theorem Chip.setEgress_act (p : Nat) (e : Egress) : (c.setEgress p e).act = c.act := (rfl)
@[simp] theorem Chip.setEgress_boot (p : Nat) (e : Egress) : (c.setEgress p e).boot = c.boot := (rfl)
@[simp] theorem Chip.setEgress_out (p : Nat) (e : Egress) : (c.setEgress p e).out = c.out := (rfl)
@[simp] theorem Chip.setEgress_fresh (p : Nat) (e : Egress) : (c.setEgress p e).fresh = c.fresh := (rfl)

/-! setCch -/

@[simp] theorem Chip.setCch_regs (d : Nat) (x : CchDie) : (c.setCch d x).regs = c.regs := (rfl)
@[simp] theorem Chip.setCch_time (d : Nat) (x : CchDie) : (c.setCch d x).time = c.time := (rfl)
@[simp] theorem Chip.setCch_ev (d : Nat) (x : CchDie) : (c.setCch d x).ev = c.ev := (rfl)
@[simp] theorem Chip.setCch_snap (d : Nat) (x : CchDie) : (c.setCch d x).snap = c.snap := (rfl)
@[simp] theorem Chip.setCch_tt (d : Nat) (x : CchDie) : (c.setCch d x).tt = c.tt := (rfl)
@[simp] theorem Chip.setCch_rte (d : Nat) (x : CchDie) : (c.setCch d x).rte = c.rte := (rfl)
@[simp] theorem Chip.setCch_puts (d : Nat) (x : CchDie) : (c.setCch d x).puts = c.puts := (rfl)
@[simp] theorem Chip.setCch_traf (d : Nat) (x : CchDie) : (c.setCch d x).traf = c.traf := (rfl)
@[simp] theorem Chip.setCch_pool (d : Nat) (x : CchDie) : (c.setCch d x).pool = c.pool := (rfl)
@[simp] theorem Chip.setCch_bank (d : Nat) (x : CchDie) : (c.setCch d x).bank = c.bank := (rfl)
@[simp] theorem Chip.setCch_port (d : Nat) (x : CchDie) : (c.setCch d x).port = c.port := (rfl)
@[simp] theorem Chip.setCch_flt (d : Nat) (x : CchDie) : (c.setCch d x).flt = c.flt := (rfl)
@[simp] theorem Chip.setCch_sec (d : Nat) (x : CchDie) : (c.setCch d x).sec = c.sec := (rfl)
@[simp] theorem Chip.setCch_fw (d : Nat) (x : CchDie) : (c.setCch d x).fw = c.fw := (rfl)
@[simp] theorem Chip.setCch_pwr (d : Nat) (x : CchDie) : (c.setCch d x).pwr = c.pwr := (rfl)
@[simp] theorem Chip.setCch_act (d : Nat) (x : CchDie) : (c.setCch d x).act = c.act := (rfl)
@[simp] theorem Chip.setCch_boot (d : Nat) (x : CchDie) : (c.setCch d x).boot = c.boot := (rfl)
@[simp] theorem Chip.setCch_out (d : Nat) (x : CchDie) : (c.setCch d x).out = c.out := (rfl)
@[simp] theorem Chip.setCch_fresh (d : Nat) (x : CchDie) : (c.setCch d x).fresh = c.fresh := (rfl)

/-! setSlot -/

@[simp] theorem Chip.setSlot_regs (d i : Nat) (x : Coach) : (c.setSlot d i x).regs = c.regs := (rfl)
@[simp] theorem Chip.setSlot_time (d i : Nat) (x : Coach) : (c.setSlot d i x).time = c.time := (rfl)
@[simp] theorem Chip.setSlot_ev (d i : Nat) (x : Coach) : (c.setSlot d i x).ev = c.ev := (rfl)
@[simp] theorem Chip.setSlot_snap (d i : Nat) (x : Coach) : (c.setSlot d i x).snap = c.snap := (rfl)
@[simp] theorem Chip.setSlot_tt (d i : Nat) (x : Coach) : (c.setSlot d i x).tt = c.tt := (rfl)
@[simp] theorem Chip.setSlot_rte (d i : Nat) (x : Coach) : (c.setSlot d i x).rte = c.rte := (rfl)
@[simp] theorem Chip.setSlot_puts (d i : Nat) (x : Coach) : (c.setSlot d i x).puts = c.puts := (rfl)
@[simp] theorem Chip.setSlot_traf (d i : Nat) (x : Coach) : (c.setSlot d i x).traf = c.traf := (rfl)
@[simp] theorem Chip.setSlot_pool (d i : Nat) (x : Coach) : (c.setSlot d i x).pool = c.pool := (rfl)
@[simp] theorem Chip.setSlot_bank (d i : Nat) (x : Coach) : (c.setSlot d i x).bank = c.bank := (rfl)
@[simp] theorem Chip.setSlot_port (d i : Nat) (x : Coach) : (c.setSlot d i x).port = c.port := (rfl)
@[simp] theorem Chip.setSlot_flt (d i : Nat) (x : Coach) : (c.setSlot d i x).flt = c.flt := (rfl)
@[simp] theorem Chip.setSlot_sec (d i : Nat) (x : Coach) : (c.setSlot d i x).sec = c.sec := (rfl)
@[simp] theorem Chip.setSlot_fw (d i : Nat) (x : Coach) : (c.setSlot d i x).fw = c.fw := (rfl)
@[simp] theorem Chip.setSlot_pwr (d i : Nat) (x : Coach) : (c.setSlot d i x).pwr = c.pwr := (rfl)
@[simp] theorem Chip.setSlot_act (d i : Nat) (x : Coach) : (c.setSlot d i x).act = c.act := (rfl)
@[simp] theorem Chip.setSlot_boot (d i : Nat) (x : Coach) : (c.setSlot d i x).boot = c.boot := (rfl)
@[simp] theorem Chip.setSlot_out (d i : Nat) (x : Coach) : (c.setSlot d i x).out = c.out := (rfl)
@[simp] theorem Chip.setSlot_fresh (d i : Nat) (x : Coach) : (c.setSlot d i x).fresh = c.fresh := (rfl)

/-! answer -/

@[simp] theorem Chip.answer_regs (v : W32) : (c.answer v).regs = c.regs := (rfl)
@[simp] theorem Chip.answer_time (v : W32) : (c.answer v).time = c.time := (rfl)
@[simp] theorem Chip.answer_ev (v : W32) : (c.answer v).ev = c.ev := (rfl)
@[simp] theorem Chip.answer_snap (v : W32) : (c.answer v).snap = c.snap := (rfl)
@[simp] theorem Chip.answer_coach (v : W32) : (c.answer v).coach = c.coach := (rfl)
@[simp] theorem Chip.answer_tt (v : W32) : (c.answer v).tt = c.tt := (rfl)
@[simp] theorem Chip.answer_rte (v : W32) : (c.answer v).rte = c.rte := (rfl)
@[simp] theorem Chip.answer_puts (v : W32) : (c.answer v).puts = c.puts := (rfl)
@[simp] theorem Chip.answer_traf (v : W32) : (c.answer v).traf = c.traf := (rfl)
@[simp] theorem Chip.answer_pool (v : W32) : (c.answer v).pool = c.pool := (rfl)
@[simp] theorem Chip.answer_bank (v : W32) : (c.answer v).bank = c.bank := (rfl)
@[simp] theorem Chip.answer_port (v : W32) : (c.answer v).port = c.port := (rfl)
@[simp] theorem Chip.answer_flt (v : W32) : (c.answer v).flt = c.flt := (rfl)
@[simp] theorem Chip.answer_sec (v : W32) : (c.answer v).sec = c.sec := (rfl)
@[simp] theorem Chip.answer_fw (v : W32) : (c.answer v).fw = c.fw := (rfl)
@[simp] theorem Chip.answer_pwr (v : W32) : (c.answer v).pwr = c.pwr := (rfl)
@[simp] theorem Chip.answer_act (v : W32) : (c.answer v).act = c.act := (rfl)
@[simp] theorem Chip.answer_boot (v : W32) : (c.answer v).boot = c.boot := (rfl)
@[simp] theorem Chip.answer_fresh (v : W32) : (c.answer v).fresh = c.fresh := (rfl)

/-! active: the counted activity alone -/

@[simp] theorem Chip.active_regs (die kind port liv n : Nat) : (c.active die kind port liv n).regs = c.regs := (rfl)
@[simp] theorem Chip.active_time (die kind port liv n : Nat) : (c.active die kind port liv n).time = c.time := (rfl)
@[simp] theorem Chip.active_ev (die kind port liv n : Nat) : (c.active die kind port liv n).ev = c.ev := (rfl)
@[simp] theorem Chip.active_snap (die kind port liv n : Nat) : (c.active die kind port liv n).snap = c.snap := (rfl)
@[simp] theorem Chip.active_coach (die kind port liv n : Nat) : (c.active die kind port liv n).coach = c.coach := (rfl)
@[simp] theorem Chip.active_tt (die kind port liv n : Nat) : (c.active die kind port liv n).tt = c.tt := (rfl)
@[simp] theorem Chip.active_rte (die kind port liv n : Nat) : (c.active die kind port liv n).rte = c.rte := (rfl)
@[simp] theorem Chip.active_puts (die kind port liv n : Nat) : (c.active die kind port liv n).puts = c.puts := (rfl)
@[simp] theorem Chip.active_traf (die kind port liv n : Nat) : (c.active die kind port liv n).traf = c.traf := (rfl)
@[simp] theorem Chip.active_pool (die kind port liv n : Nat) : (c.active die kind port liv n).pool = c.pool := (rfl)
@[simp] theorem Chip.active_bank (die kind port liv n : Nat) : (c.active die kind port liv n).bank = c.bank := (rfl)
@[simp] theorem Chip.active_port (die kind port liv n : Nat) : (c.active die kind port liv n).port = c.port := (rfl)
@[simp] theorem Chip.active_flt (die kind port liv n : Nat) : (c.active die kind port liv n).flt = c.flt := (rfl)
@[simp] theorem Chip.active_sec (die kind port liv n : Nat) : (c.active die kind port liv n).sec = c.sec := (rfl)
@[simp] theorem Chip.active_fw (die kind port liv n : Nat) : (c.active die kind port liv n).fw = c.fw := (rfl)
@[simp] theorem Chip.active_pwr (die kind port liv n : Nat) : (c.active die kind port liv n).pwr = c.pwr := (rfl)
@[simp] theorem Chip.active_boot (die kind port liv n : Nat) : (c.active die kind port liv n).boot = c.boot := (rfl)
@[simp] theorem Chip.active_out (die kind port liv n : Nat) : (c.active die kind port liv n).out = c.out := (rfl)
@[simp] theorem Chip.active_fresh (die kind port liv n : Nat) : (c.active die kind port liv n).fresh = c.fresh := (rfl)

/-! setStore: the secure store alone -/

@[simp] theorem Chip.setStore_regs (m : Tbl Byte) : (c.setStore m).regs = c.regs := (rfl)
@[simp] theorem Chip.setStore_time (m : Tbl Byte) : (c.setStore m).time = c.time := (rfl)
@[simp] theorem Chip.setStore_ev (m : Tbl Byte) : (c.setStore m).ev = c.ev := (rfl)
@[simp] theorem Chip.setStore_snap (m : Tbl Byte) : (c.setStore m).snap = c.snap := (rfl)
@[simp] theorem Chip.setStore_coach (m : Tbl Byte) : (c.setStore m).coach = c.coach := (rfl)
@[simp] theorem Chip.setStore_tt (m : Tbl Byte) : (c.setStore m).tt = c.tt := (rfl)
@[simp] theorem Chip.setStore_rte (m : Tbl Byte) : (c.setStore m).rte = c.rte := (rfl)
@[simp] theorem Chip.setStore_puts (m : Tbl Byte) : (c.setStore m).puts = c.puts := (rfl)
@[simp] theorem Chip.setStore_traf (m : Tbl Byte) : (c.setStore m).traf = c.traf := (rfl)
@[simp] theorem Chip.setStore_pool (m : Tbl Byte) : (c.setStore m).pool = c.pool := (rfl)
@[simp] theorem Chip.setStore_bank (m : Tbl Byte) : (c.setStore m).bank = c.bank := (rfl)
@[simp] theorem Chip.setStore_port (m : Tbl Byte) : (c.setStore m).port = c.port := (rfl)
@[simp] theorem Chip.setStore_flt (m : Tbl Byte) : (c.setStore m).flt = c.flt := (rfl)
@[simp] theorem Chip.setStore_fw (m : Tbl Byte) : (c.setStore m).fw = c.fw := (rfl)
@[simp] theorem Chip.setStore_pwr (m : Tbl Byte) : (c.setStore m).pwr = c.pwr := (rfl)
@[simp] theorem Chip.setStore_act (m : Tbl Byte) : (c.setStore m).act = c.act := (rfl)
@[simp] theorem Chip.setStore_boot (m : Tbl Byte) : (c.setStore m).boot = c.boot := (rfl)
@[simp] theorem Chip.setStore_out (m : Tbl Byte) : (c.setStore m).out = c.out := (rfl)
@[simp] theorem Chip.setStore_fresh (m : Tbl Byte) : (c.setStore m).fresh = c.fresh := (rfl)
@[simp] theorem Chip.setStore_store (m : Tbl Byte) : (c.setStore m).sec.store = m := (rfl)

/-! The alert causes: settling them changes nothing else -/

@[simp] theorem Chip.settleAlerts_regs (b : Chip) : (Chip.settleAlerts b c).regs = c.regs := (rfl)
@[simp] theorem Chip.settleAlerts_time (b : Chip) : (Chip.settleAlerts b c).time = c.time := (rfl)
@[simp] theorem Chip.settleAlerts_ev (b : Chip) : (Chip.settleAlerts b c).ev = c.ev := (rfl)
@[simp] theorem Chip.settleAlerts_snap (b : Chip) : (Chip.settleAlerts b c).snap = c.snap := (rfl)
@[simp] theorem Chip.settleAlerts_coach (b : Chip) : (Chip.settleAlerts b c).coach = c.coach := (rfl)
@[simp] theorem Chip.settleAlerts_tt (b : Chip) : (Chip.settleAlerts b c).tt = c.tt := (rfl)
@[simp] theorem Chip.settleAlerts_rte (b : Chip) : (Chip.settleAlerts b c).rte = c.rte := (rfl)
@[simp] theorem Chip.settleAlerts_puts (b : Chip) : (Chip.settleAlerts b c).puts = c.puts := (rfl)
@[simp] theorem Chip.settleAlerts_traf (b : Chip) : (Chip.settleAlerts b c).traf = c.traf := (rfl)
@[simp] theorem Chip.settleAlerts_pool (b : Chip) : (Chip.settleAlerts b c).pool = c.pool := (rfl)
@[simp] theorem Chip.settleAlerts_bank (b : Chip) : (Chip.settleAlerts b c).bank = c.bank := (rfl)
@[simp] theorem Chip.settleAlerts_port (b : Chip) : (Chip.settleAlerts b c).port = c.port := (rfl)
@[simp] theorem Chip.settleAlerts_flt (b : Chip) : (Chip.settleAlerts b c).flt = c.flt := (rfl)
@[simp] theorem Chip.settleAlerts_sec (b : Chip) : (Chip.settleAlerts b c).sec = c.sec := (rfl)
@[simp] theorem Chip.settleAlerts_fw (b : Chip) : (Chip.settleAlerts b c).fw = c.fw := (rfl)
@[simp] theorem Chip.settleAlerts_pwr (b : Chip) : (Chip.settleAlerts b c).pwr = c.pwr := (rfl)
@[simp] theorem Chip.settleAlerts_act (b : Chip) : (Chip.settleAlerts b c).act = c.act := (rfl)
@[simp] theorem Chip.settleAlerts_out (b : Chip) : (Chip.settleAlerts b c).out = c.out := (rfl)
@[simp] theorem Chip.settleAlerts_fresh (b : Chip) : (Chip.settleAlerts b c).fresh = c.fresh := (rfl)
@[simp] theorem Chip.settleAlerts_standbyDone (b : Chip) : (Chip.settleAlerts b c).boot.standbyDone = c.boot.standbyDone := (rfl)
@[simp] theorem Chip.settleAlerts_m0Marched (b : Chip) : (Chip.settleAlerts b c).boot.m0Marched = c.boot.m0Marched := (rfl)
@[simp] theorem Chip.settleAlerts_vin3v3 (b : Chip) : (Chip.settleAlerts b c).boot.vin3v3 = c.boot.vin3v3 := (rfl)
@[simp] theorem Chip.settleAlerts_railGroup (b : Chip) : (Chip.settleAlerts b c).boot.railGroup = c.boot.railGroup := (rfl)
@[simp] theorem Chip.settleAlerts_pwronLow (b : Chip) : (Chip.settleAlerts b c).boot.pwronLow = c.boot.pwronLow := (rfl)
@[simp] theorem Chip.settleAlerts_warmLow (b : Chip) : (Chip.settleAlerts b c).boot.warmLow = c.boot.warmLow := (rfl)
@[simp] theorem Chip.settleAlerts_perstLow (b : Chip) : (Chip.settleAlerts b c).boot.perstLow = c.boot.perstLow := (rfl)
@[simp] theorem Chip.settleAlerts_warmActive (b : Chip) : (Chip.settleAlerts b c).boot.warmActive = c.boot.warmActive := (rfl)
@[simp] theorem Chip.settleAlerts_warmCleared (b : Chip) : (Chip.settleAlerts b c).boot.warmCleared = c.boot.warmCleared := (rfl)
@[simp] theorem Chip.settleAlerts_coldDue (b : Chip) : (Chip.settleAlerts b c).boot.coldDue = c.boot.coldDue := (rfl)
@[simp] theorem Chip.settleAlerts_smbAddr (b : Chip) : (Chip.settleAlerts b c).boot.smbAddr = c.boot.smbAddr := (rfl)
@[simp] theorem Chip.settleAlerts_gasp (b : Chip) : (Chip.settleAlerts b c).boot.gasp = c.boot.gasp := (rfl)
@[simp] theorem Chip.settleAlerts_reg (b : Chip) (page off inst : Nat) :
    (Chip.settleAlerts b c).reg page off inst = c.reg page off inst := (rfl)
@[simp] theorem Chip.settleAlerts_field (b : Chip) (page off lo w inst : Nat) :
    (Chip.settleAlerts b c).field page off lo w inst = c.field page off lo w inst := (rfl)
@[simp] theorem Chip.settleAlerts_flag (b : Chip) (page off i inst : Nat) :
    (Chip.settleAlerts b c).flag page off i inst = c.flag page off i inst := (rfl)
@[simp] theorem Chip.settleAlerts_link (b : Chip) (p : Nat) : (Chip.settleAlerts b c).link p = c.link p := (rfl)
@[simp] theorem Chip.settleAlerts_egress (b : Chip) (p : Nat) : (Chip.settleAlerts b c).egress p = c.egress p := (rfl)
@[simp] theorem Chip.settleAlerts_slot (b : Chip) (d i : Nat) : (Chip.settleAlerts b c).slot d i = c.slot d i := (rfl)
@[simp] theorem Chip.settleAlerts_smbStatusWord (b : Chip) :
    (Chip.settleAlerts b c).smbStatusWord = c.smbStatusWord := (rfl)

/-! Registers -/

/-- Two registers have one key only if they are one register. -/
theorem regKey_inj {p o i p' o' i' : Nat} (hp : p < 0x400) (ho : o < 0x10000) (hp' : p' < 0x400) (ho' : o' < 0x10000)
    (h : regKey p o i = regKey p' o' i') : p = p' ∧ o = o' ∧ i = i' := by
  unfold regKey at h; omega

@[simp] theorem Chip.reg_setReg (page off : Nat) (v : W32) (inst : Nat) :
    (c.setReg page off v inst).reg page off inst = v := by
  simp [Chip.reg, Chip.setReg]

theorem Chip.reg_setReg_other {page off inst page' off' inst' : Nat} (v : W32)
    (h : regKey page' off' inst' ≠ regKey page off inst) :
    (c.setReg page off v inst).reg page' off' inst' = c.reg page' off' inst' := by
  simp only [Chip.reg, Chip.setReg]
  exact Tbl.get_set_other _ _ _ _ h

/-- A register of another page keeps its value. -/
theorem Chip.reg_setReg_page {page off inst page' off' inst' : Nat} (v : W32) (ho : off < 0x10000) (ho' : off' < 0x10000)
    (hp : page < 0x400) (hp' : page' < 0x400) (h : page' ≠ page) :
    (c.setReg page off v inst).reg page' off' inst' = c.reg page' off' inst' :=
  c.reg_setReg_other v (fun e => h (regKey_inj hp' ho' hp ho e).1)

@[simp] theorem Chip.field_setField (page off lo w v inst : Nat) (h : lo + w ≤ 32) :
    (c.setField page off lo w v inst).field page off lo w inst = v % 2 ^ w := by
  simp [Chip.field, Chip.setField, fld_putFld_same _ _ _ _ h]

theorem Chip.field_setField_other (page off lo w v inst lo' w' : Nat) (h : lo' + w' ≤ lo ∨ lo + w ≤ lo') :
    (c.setField page off lo w v inst).field page off lo' w' inst = c.field page off lo' w' inst := by
  simp [Chip.field, Chip.setField, fld_putFld_other _ _ _ _ _ _ h]

@[simp] theorem Chip.flag_setFlag (page off i : Nat) (b : Bool) (inst : Nat) (h : i < 32) :
    (c.setFlag page off i b inst).flag page off i inst = b := by
  simp [Chip.flag, Chip.setFlag, Chip.setField, putFld_bit_same _ _ _ h]

theorem Chip.flag_setFlag_other (page off i : Nat) (b : Bool) (inst j : Nat) (h : j ≠ i) :
    (c.setFlag page off i b inst).flag page off j inst = c.flag page off j inst := by
  simp only [Chip.flag, Chip.setFlag, Chip.setField, Chip.reg_setReg]
  exact putFld_bit_other _ _ _ _ _ (by omega)

theorem Chip.reg_setField_other {page off inst page' off' inst' : Nat} (lo w v : Nat)
    (h : regKey page' off' inst' ≠ regKey page off inst) :
    (c.setField page off lo w v inst).reg page' off' inst' = c.reg page' off' inst' := c.reg_setReg_other _ h

theorem Chip.reg_setFlag_other {page off inst page' off' inst' : Nat} (i : Nat) (b : Bool)
    (h : regKey page' off' inst' ≠ regKey page off inst) :
    (c.setFlag page off i b inst).reg page' off' inst' = c.reg page' off' inst' := c.reg_setReg_other _ h

@[simp] theorem Chip.reg_bump (page off inst : Nat) :
    (c.bump page off inst).reg page off inst = c.reg page off inst + 1 := by
  simp only [Chip.bump, Chip.bumpN, Chip.reg_setReg]
  apply BitVec.eq_of_toNat_eq
  simp [BitVec.toNat_add]

theorem Chip.reg_bump_other {page off inst page' off' inst' : Nat}
    (h : regKey page' off' inst' ≠ regKey page off inst) :
    (c.bump page off inst).reg page' off' inst' = c.reg page' off' inst' := c.reg_setReg_other _ h

/-! Links, egress and coach slots -/

@[simp] theorem Chip.link_setLink (p : Nat) (l : Link) : (c.setLink p l).link p = l := by
  simp [Chip.link, Chip.setLink]

theorem Chip.link_setLink_other {p q : Nat} (l : Link) (h : q ≠ p) : (c.setLink p l).link q = c.link q := by
  simp only [Chip.link, Chip.setLink]; exact Tbl.get_set_other _ _ _ _ h

@[simp] theorem Chip.egress_setEgress (p : Nat) (e : Egress) : (c.setEgress p e).egress p = e := by
  simp [Chip.egress, Chip.setEgress]

theorem Chip.egress_setEgress_other {p q : Nat} (e : Egress) (h : q ≠ p) :
    (c.setEgress p e).egress q = c.egress q := by
  simp only [Chip.egress, Chip.setEgress]; exact Tbl.get_set_other _ _ _ _ h

@[simp] theorem Chip.cch_setCch (d : Nat) (x : CchDie) : (c.setCch d x).cch d = x := by simp [Chip.cch, Chip.setCch]

theorem Chip.cch_setCch_other {d e : Nat} (x : CchDie) (h : e ≠ d) : (c.setCch d x).cch e = c.cch e := by
  simp only [Chip.cch, Chip.setCch]; exact Tbl.get_set_other _ _ _ _ h

@[simp] theorem Chip.slot_setSlot (d i : Nat) (x : Coach) : (c.setSlot d i x).slot d i = x := by
  simp [Chip.slot, Chip.setSlot]

theorem Chip.slot_setSlot_other {d i j : Nat} (x : Coach) (h : j ≠ i) : (c.setSlot d i x).slot d j = c.slot d j := by
  simp only [Chip.slot, Chip.setSlot, Chip.cch_setCch]; exact Tbl.get_set_other _ _ _ _ h

end Sys2Proof.Machine
end

