-- ==== Sys2Proof/Laws/Keep.lean ====
section
/-! SUPPORT. What an update of the part leaves alone: the lemmas with which each operation is shown to keep the fuses and
the flash (`vault`), the state outside the data plane (`house`), or the data plane (`plane`). -/

namespace Sys2Proof.Machine

/-- A loop keeps what its body keeps. -/
theorem keep_foldl {α τ : Type} (g : Chip → τ) (xs : List α) (c : Chip) (f : Chip → α → Chip)
    (h : ∀ c x, g (f c x) = g c) : g (xs.foldl f c) = g c := by
  induction xs generalizing c with
  | nil => rfl
  | cons x xs ih => rw [List.foldl_cons, ih, h]

theorem keep_forAll {α τ : Type} (g : Chip → τ) (xs : List α) (c : Chip) (f : α → Chip → Chip)
    (h : ∀ x c, g (f x c) = g c) : g (forAll xs c f) = g c := keep_foldl g xs c _ (fun c x => h x c)

/-- A loop that carries the part beside a result keeps what its body keeps. -/
theorem keep_fold2 {α σ τ : Type} (g : Chip → τ) (xs : List α) (q : σ × Chip) (f : σ × Chip → α → σ × Chip)
    (h : ∀ q x, g (f q x).2 = g q.2) : g (xs.foldl f q).2 = g q.2 := by
  induction xs generalizing q with
  | nil => rfl
  | cons x xs ih => rw [List.foldl_cons, ih, h]

theorem house_ite (p : Prop) [Decidable p] (a b : Chip) : (if p then a else b).house = if p then a.house else b.house :=
  apply_ite _ _ _ _
theorem plane_ite (p : Prop) [Decidable p] (a b : Chip) : (if p then a else b).plane = if p then a.plane else b.plane :=
  apply_ite _ _ _ _
theorem vault_ite (p : Prop) [Decidable p] (a b : Chip) : (if p then a else b).vault = if p then a.vault else b.vault :=
  apply_ite _ _ _ _
theorem fuses_ite (p : Prop) [Decidable p] (a b : Vault) :
    (if p then a else b).fuses = if p then a.fuses else b.fuses := apply_ite _ _ _ _
theorem canon_ite (p : Prop) [Decidable p] (a b : Vault) (ha : a.canon) (hb : b.canon) :
    (if p then a else b).canon := by split <;> assumption

/-- What keeps the state outside the data plane keeps the fuses and the flash. -/
theorem vault_of_house {c d : Chip} (h : d.house = c.house) : d.vault = c.vault := by
  simp only [Chip.house, Prod.mk.injEq] at h
  simp only [Chip.vault, h]

theorem fuses_forAll {α : Type} (xs : List α) (c : Chip) (f : α → Chip → Chip)
    (h : ∀ x c, (f x c).vault.fuses = c.vault.fuses) : (forAll xs c f).vault.fuses = c.vault.fuses :=
  keep_forAll (fun c => c.vault.fuses) xs c f h

theorem canon_forAll {α : Type} (xs : List α) (c : Chip) (f : α → Chip → Chip)
    (h : ∀ x c, c.vault.canon → (f x c).vault.canon) (hc : c.vault.canon) : (forAll xs c f).vault.canon := by
  show (xs.foldl _ c).vault.canon
  induction xs generalizing c with
  | nil => exact hc
  | cons x xs ih => rw [List.foldl_cons]; exact ih _ (h _ _ hc)

section
variable (c : Chip) (regs : Tbl W32) (time : TimeSt) (ev : EvSt) (snap : SnapSt) (coach : CoachSt) (tt : TtSt)
    (rte : RteSt) (puts : Tbl PutCtr) (traf : TrafSt) (pool : PoolSt) (bank : BankSt) (port : PortSt) (flt : FltSt)
    (sec : SecSt) (fw : FwSt) (pwr : PwrSt) (act : ActSt) (boot : BootSt) (out : OutSt) (fresh : Nat) (seeds : Tbl W64)
    (seedStage : W64) (energy : Tbl Nat) (store : Tbl Byte) (storeWaits : List (Nat × List Byte)) (keyLock : Bool)
    (wipePass : Nat) (partGroup programming : Bool) (scopePending : Option (BitVec 8)) (checking : Option TokenCheck) (tap : TapInstr)
    (sram : Tbl Byte) (image : List Byte) (slot : Option Nat) (region : Nat) (update : Option Nat)
    (loaded quiesced : Bool) (started : List Started) (doorbells : Tbl (List Nat)) (bootWaiting coldBoot : Bool)
    (coreLast : Tbl (Option Nat)) (starts : Nat) (telem : Option Telem) (telemSeq telemShed logPage logSeq : Nat)
    (calSaving : Option Nat)

theorem house_mk : (Chip.mk regs c.time ev snap coach tt rte puts traf pool bank port flt c.sec c.fw c.pwr act c.boot out
    fresh).house = c.house := (rfl)

theorem plane_mk : (Chip.mk regs time ev snap c.coach c.tt c.rte c.puts c.traf c.pool c.bank c.port c.flt sec fw pwr act
    boot out fresh).plane = c.plane := (rfl)

theorem vault_mk : (Chip.mk regs time ev snap coach tt rte puts traf pool bank port flt c.sec c.fw pwr act boot out
    fresh).vault = c.vault := (rfl)

theorem vault_sec : (Chip.mk regs time ev snap coach tt rte puts traf pool bank port flt
    ⟨seeds, seedStage, energy, store, storeWaits, keyLock, wipePass, c.sec.life, partGroup, c.sec.ownerHash,
      c.sec.rootErased, c.sec.deviceId, c.sec.transition, programming, scopePending, checking, tap⟩ c.fw pwr act boot
    out fresh).vault = c.vault := (rfl)

theorem vault_fw : (Chip.mk regs time ev snap coach tt rte puts traf pool bank port flt c.sec
    ⟨c.fw.flash, sram, image, slot, region, update, loaded, quiesced, started, doorbells, bootWaiting, coldBoot,
      c.fw.fuseSvn, c.fw.revoked, coreLast, starts, telem, telemSeq, telemShed, logPage, logSeq, calSaving⟩ pwr act boot
    out fresh).vault = c.vault := (rfl)

theorem vault_secFw : (Chip.mk regs time ev snap coach tt rte puts traf pool bank port flt
    ⟨seeds, seedStage, energy, store, storeWaits, keyLock, wipePass, c.sec.life, partGroup, c.sec.ownerHash,
      c.sec.rootErased, c.sec.deviceId, c.sec.transition, programming, scopePending, checking, tap⟩
    ⟨c.fw.flash, sram, image, slot, region, update, loaded, quiesced, started, doorbells, bootWaiting, coldBoot,
      c.fw.fuseSvn, c.fw.revoked, coreLast, starts, telem, telemSeq, telemShed, logPage, logSeq, calSaving⟩ pwr act boot
    out fresh).vault = c.vault := (rfl)
end

end Sys2Proof.Machine
end

