-- ==== Sys2Proof/Laws/KeepOps.lean ====
section
/-! SUPPORT. What the operations of Machine/Ops.lean leave of the fuses and the flash, of the state outside the data
plane, and of the data plane. -/

set_option linter.all false

namespace Sys2Proof.Machine

theorem Chip.setReg_house (c : Chip) (page off : Nat) (v : W32) (inst : Nat) : (Chip.setReg c page off v inst).house = c.house := by
  simp only [Chip.setReg, ↓house_mk, ↓house_ite, ite_self, eq_self, implies_true]
theorem Chip.setReg_vault (c : Chip) (page off : Nat) (v : W32) (inst : Nat) : (Chip.setReg c page off v inst).vault = c.vault := vault_of_house (Chip.setReg_house c page off v inst)
theorem Chip.setReg_plane (c : Chip) (page off : Nat) (v : W32) (inst : Nat) : (Chip.setReg c page off v inst).plane = c.plane := by
  simp only [Chip.setReg, ↓plane_mk, ↓plane_ite, ite_self, eq_self, implies_true]
theorem Chip.setField_house (c : Chip) (page off lo w v : Nat) (inst : Nat) : (Chip.setField c page off lo w v inst).house = c.house := by
  simp only [Chip.setField, ↓house_ite, ite_self, eq_self, implies_true, ↓Chip.setReg_house]
theorem Chip.setField_vault (c : Chip) (page off lo w v : Nat) (inst : Nat) : (Chip.setField c page off lo w v inst).vault = c.vault := vault_of_house (Chip.setField_house c page off lo w v inst)
theorem Chip.setField_plane (c : Chip) (page off lo w v : Nat) (inst : Nat) : (Chip.setField c page off lo w v inst).plane = c.plane := by
  simp only [Chip.setField, ↓plane_ite, ite_self, eq_self, implies_true, ↓Chip.setReg_plane]
theorem Chip.setFlag_house (c : Chip) (page off i : Nat) (b : Bool) (inst : Nat) : (Chip.setFlag c page off i b inst).house = c.house := by
  simp only [Chip.setFlag, ↓house_ite, ite_self, eq_self, implies_true, ↓Chip.setField_house]
theorem Chip.setFlag_vault (c : Chip) (page off i : Nat) (b : Bool) (inst : Nat) : (Chip.setFlag c page off i b inst).vault = c.vault := vault_of_house (Chip.setFlag_house c page off i b inst)
theorem Chip.setFlag_plane (c : Chip) (page off i : Nat) (b : Bool) (inst : Nat) : (Chip.setFlag c page off i b inst).plane = c.plane := by
  simp only [Chip.setFlag, ↓plane_ite, ite_self, eq_self, implies_true, ↓Chip.setField_plane]
theorem Chip.bumpN_house (c : Chip) (page off n : Nat) (inst : Nat) : (Chip.bumpN c page off n inst).house = c.house := by
  simp only [Chip.bumpN, ↓house_ite, ite_self, eq_self, implies_true, ↓Chip.setReg_house]
theorem Chip.bumpN_vault (c : Chip) (page off n : Nat) (inst : Nat) : (Chip.bumpN c page off n inst).vault = c.vault := vault_of_house (Chip.bumpN_house c page off n inst)
theorem Chip.bumpN_plane (c : Chip) (page off n : Nat) (inst : Nat) : (Chip.bumpN c page off n inst).plane = c.plane := by
  simp only [Chip.bumpN, ↓plane_ite, ite_self, eq_self, implies_true, ↓Chip.setReg_plane]
theorem Chip.bump_house (c : Chip) (page off : Nat) (inst : Nat) : (Chip.bump c page off inst).house = c.house := by
  simp only [Chip.bump, ↓house_ite, ite_self, eq_self, implies_true, ↓Chip.bumpN_house]
theorem Chip.bump_vault (c : Chip) (page off : Nat) (inst : Nat) : (Chip.bump c page off inst).vault = c.vault := vault_of_house (Chip.bump_house c page off inst)
theorem Chip.bump_plane (c : Chip) (page off : Nat) (inst : Nat) : (Chip.bump c page off inst).plane = c.plane := by
  simp only [Chip.bump, ↓plane_ite, ite_self, eq_self, implies_true, ↓Chip.bumpN_plane]
theorem Chip.bumpSat_house (c : Chip) (page off n : Nat) (inst : Nat) : (Chip.bumpSat c page off n inst).house = c.house := by
  simp only [Chip.bumpSat, ↓house_ite, ite_self, eq_self, implies_true, ↓Chip.setReg_house]
theorem Chip.bumpSat_vault (c : Chip) (page off n : Nat) (inst : Nat) : (Chip.bumpSat c page off n inst).vault = c.vault := vault_of_house (Chip.bumpSat_house c page off n inst)
theorem Chip.bumpSat_plane (c : Chip) (page off n : Nat) (inst : Nat) : (Chip.bumpSat c page off n inst).plane = c.plane := by
  simp only [Chip.bumpSat, ↓plane_ite, ite_self, eq_self, implies_true, ↓Chip.setReg_plane]
theorem Chip.setLink_house (c : Chip) (p : Nat) (l : Link) : (Chip.setLink c p l).house = c.house := by
  simp only [Chip.setLink, ↓house_mk, ↓house_ite, ite_self, eq_self, implies_true]
theorem Chip.setLink_vault (c : Chip) (p : Nat) (l : Link) : (Chip.setLink c p l).vault = c.vault := vault_of_house (Chip.setLink_house c p l)
theorem Chip.bumpLnk_house (c : Chip) (p off : Nat) : (Chip.bumpLnk c p off).house = c.house := by
  simp only [Chip.bumpLnk, ↓house_ite, ite_self, eq_self, implies_true, ↓Chip.bump_house]
theorem Chip.bumpLnk_vault (c : Chip) (p off : Nat) : (Chip.bumpLnk c p off).vault = c.vault := vault_of_house (Chip.bumpLnk_house c p off)
theorem Chip.bumpLnk_plane (c : Chip) (p off : Nat) : (Chip.bumpLnk c p off).plane = c.plane := by
  simp only [Chip.bumpLnk, ↓plane_ite, ite_self, eq_self, implies_true, ↓Chip.bump_plane]
theorem Chip.violation_house (c : Chip) (l cause : Nat) (p : Option Nat) : (Chip.violation c l cause p).house = c.house := by
  unfold Chip.violation
  repeat' (first | with_reducible rfl | simp only [↓house_mk, ↓house_ite, ite_self, eq_self, implies_true, ↓Chip.bump_house, ↓Chip.setReg_house] | split)
theorem Chip.violation_vault (c : Chip) (l cause : Nat) (p : Option Nat) : (Chip.violation c l cause p).vault = c.vault := vault_of_house (Chip.violation_house c l cause p)
theorem Chip.violation_plane (c : Chip) (l cause : Nat) (p : Option Nat) : (Chip.violation c l cause p).plane = c.plane := by
  unfold Chip.violation
  repeat' (first | with_reducible rfl | simp only [↓plane_mk, ↓plane_ite, ite_self, eq_self, implies_true, ↓Chip.bump_plane, ↓Chip.setReg_plane] | split)
theorem Chip.clearProfile_vault (c : Chip) : (Chip.clearProfile c).vault = c.vault := by
  simp only [Chip.clearProfile, ↓vault_mk, ↓vault_ite, ite_self, eq_self, implies_true, ↓Chip.setFlag_vault]
theorem Chip.clearProfile_plane (c : Chip) : (Chip.clearProfile c).plane = c.plane := by
  simp only [Chip.clearProfile, ↓plane_mk, ↓plane_ite, ite_self, eq_self, implies_true, ↓Chip.setFlag_plane]
theorem Chip.setEgress_house (c : Chip) (p : Nat) (e : Egress) : (Chip.setEgress c p e).house = c.house := by
  simp only [Chip.setEgress, ↓house_mk, ↓house_ite, ite_self, eq_self, implies_true]
theorem Chip.setEgress_vault (c : Chip) (p : Nat) (e : Egress) : (Chip.setEgress c p e).vault = c.vault := vault_of_house (Chip.setEgress_house c p e)
theorem Chip.setCch_house (c : Chip) (d : Nat) (x : CchDie) : (Chip.setCch c d x).house = c.house := by
  simp only [Chip.setCch, ↓house_mk, ↓house_ite, ite_self, eq_self, implies_true]
theorem Chip.setCch_vault (c : Chip) (d : Nat) (x : CchDie) : (Chip.setCch c d x).vault = c.vault := vault_of_house (Chip.setCch_house c d x)
theorem Chip.setSlot_house (c : Chip) (d i : Nat) (x : Coach) : (Chip.setSlot c d i x).house = c.house := by
  simp only [Chip.setSlot, ↓house_mk, ↓house_ite, ite_self, eq_self, implies_true, ↓Chip.setCch_house]
theorem Chip.setSlot_vault (c : Chip) (d i : Nat) (x : Coach) : (Chip.setSlot c d i x).vault = c.vault := vault_of_house (Chip.setSlot_house c d i x)
theorem Chip.active_house (c : Chip) (die : Nat) (kind : Nat) (port : Nat) (liv : Nat) (n : Nat) : (Chip.active c die kind port liv n).house = c.house := by
  unfold Chip.active
  repeat' (first | with_reducible rfl | simp only [↓house_mk, ↓house_ite, ite_self, eq_self, implies_true] | split)
theorem Chip.active_vault (c : Chip) (die : Nat) (kind : Nat) (port : Nat) (liv : Nat) (n : Nat) : (Chip.active c die kind port liv n).vault = c.vault := vault_of_house (Chip.active_house c die kind port liv n)
theorem Chip.active_plane (c : Chip) (die : Nat) (kind : Nat) (port : Nat) (liv : Nat) (n : Nat) : (Chip.active c die kind port liv n).plane = c.plane := by
  unfold Chip.active
  repeat' (first | with_reducible rfl | simp only [↓plane_mk, ↓plane_ite, ite_self, eq_self, implies_true] | split)
theorem Chip.activeFrame_house (c : Chip) (p : Nat) (liv : Nat) (bytes : Nat) : (Chip.activeFrame c p liv bytes).house = c.house := by
  unfold Chip.activeFrame
  repeat' (first | with_reducible rfl | simp only [↓house_mk, ↓house_ite, ite_self, eq_self, implies_true, ↓Chip.active_house] | split)
theorem Chip.activeFrame_vault (c : Chip) (p : Nat) (liv : Nat) (bytes : Nat) : (Chip.activeFrame c p liv bytes).vault = c.vault := vault_of_house (Chip.activeFrame_house c p liv bytes)
theorem Chip.activeFrame_plane (c : Chip) (p : Nat) (liv : Nat) (bytes : Nat) : (Chip.activeFrame c p liv bytes).plane = c.plane := by
  unfold Chip.activeFrame
  repeat' (first | with_reducible rfl | simp only [↓plane_mk, ↓plane_ite, ite_self, eq_self, implies_true, ↓Chip.active_plane] | split)
theorem Chip.takeFresh_house (c : Chip) : (Chip.takeFresh c).2.house = c.house := by
  simp only [Chip.takeFresh, ↓house_mk, ↓house_ite, ite_self, eq_self, implies_true]
theorem pair_house_takeFresh {c : Chip} {a} {c' : Chip} (h : Chip.takeFresh c = (a, c')) :
    c'.house = c.house := by
  rw [← Chip.takeFresh_house c, h]
theorem Chip.takeFresh_vault (c : Chip) : (Chip.takeFresh c).2.vault = c.vault := vault_of_house (Chip.takeFresh_house c)
theorem pair_vault_takeFresh {c : Chip} {a} {c' : Chip} (h : Chip.takeFresh c = (a, c')) :
    c'.vault = c.vault := vault_of_house (pair_house_takeFresh h)
theorem Chip.takeFresh_plane (c : Chip) : (Chip.takeFresh c).2.plane = c.plane := by
  simp only [Chip.takeFresh, ↓plane_mk, ↓plane_ite, ite_self, eq_self, implies_true]
theorem pair_plane_takeFresh {c : Chip} {a} {c' : Chip} (h : Chip.takeFresh c = (a, c')) :
    c'.plane = c.plane := by
  rw [← Chip.takeFresh_plane c, h]
theorem Chip.answer_house (c : Chip) (v : W32) : (Chip.answer c v).house = c.house := by
  simp only [Chip.answer, ↓house_mk, ↓house_ite, ite_self, eq_self, implies_true]
theorem Chip.answer_vault (c : Chip) (v : W32) : (Chip.answer c v).vault = c.vault := vault_of_house (Chip.answer_house c v)
theorem Chip.answer_plane (c : Chip) (v : W32) : (Chip.answer c v).plane = c.plane := by
  simp only [Chip.answer, ↓plane_mk, ↓plane_ite, ite_self, eq_self, implies_true]

end Sys2Proof.Machine
end

