-- ==== Sys2Proof/Laws/KeepFlags.lean ====
section
/-! SUPPORT. What the operations of Machine/Flags.lean leave of the fuses and the flash, of the state outside the data
plane, and of the data plane. -/

set_option linter.all false

namespace Sys2Proof.Machine

theorem Chip.snapTrigger_house (c : Chip) (src : Nat) (at_ : Nat) : (Chip.snapTrigger c src at_).house = c.house := by
  unfold Chip.snapTrigger
  repeat' (first | with_reducible rfl | simp only [↓house_mk, ↓house_ite, ite_self, eq_self, implies_true, ↓Chip.bump_house, ↓Chip.setFlag_house, ↓Chip.setReg_house] | split)
theorem Chip.snapTrigger_vault (c : Chip) (src : Nat) (at_ : Nat) : (Chip.snapTrigger c src at_).vault = c.vault := vault_of_house (Chip.snapTrigger_house c src at_)
theorem Chip.snapTrigger_plane (c : Chip) (src : Nat) (at_ : Nat) : (Chip.snapTrigger c src at_).plane = c.plane := by
  unfold Chip.snapTrigger
  repeat' (first | with_reducible rfl | simp only [↓plane_mk, ↓plane_ite, ite_self, eq_self, implies_true, ↓Chip.bump_plane, ↓Chip.setFlag_plane, ↓Chip.setReg_plane] | split)
theorem Chip.msix_house (c : Chip) (v : Nat) : (Chip.msix c v).house = c.house := by
  unfold Chip.msix
  repeat' (first | with_reducible rfl | simp only [↓house_mk, ↓house_ite, ite_self, eq_self, implies_true] | split)
theorem Chip.msix_vault (c : Chip) (v : Nat) : (Chip.msix c v).vault = c.vault := vault_of_house (Chip.msix_house c v)
theorem Chip.msix_plane (c : Chip) (v : Nat) : (Chip.msix c v).plane = c.plane := by
  unfold Chip.msix
  repeat' (first | with_reducible rfl | simp only [↓plane_mk, ↓plane_ite, ite_self, eq_self, implies_true] | split)
theorem Chip.evInterrupt_house (c : Chip) (sev : Nat) : (Chip.evInterrupt c sev).house = c.house := by
  unfold Chip.evInterrupt
  repeat' (first | with_reducible rfl | simp only [↓house_mk, ↓house_ite, ite_self, eq_self, implies_true, ↓Chip.msix_house] | split)
theorem Chip.evInterrupt_vault (c : Chip) (sev : Nat) : (Chip.evInterrupt c sev).vault = c.vault := vault_of_house (Chip.evInterrupt_house c sev)
theorem Chip.evInterrupt_plane (c : Chip) (sev : Nat) : (Chip.evInterrupt c sev).plane = c.plane := by
  unfold Chip.evInterrupt
  repeat' (first | with_reducible rfl | simp only [↓plane_mk, ↓plane_ite, ite_self, eq_self, implies_true, ↓Chip.msix_plane] | split)
theorem Chip.evPlace_house (c : Chip) (e : Ev) : (Chip.evPlace c e).house = c.house := by
  unfold Chip.evPlace
  repeat' (first | with_reducible rfl | simp only [↓house_mk, ↓house_ite, ite_self, eq_self, implies_true, ↓Chip.bump_house] | split)
theorem Chip.evPlace_vault (c : Chip) (e : Ev) : (Chip.evPlace c e).vault = c.vault := vault_of_house (Chip.evPlace_house c e)
theorem Chip.evPlace_plane (c : Chip) (e : Ev) : (Chip.evPlace c e).plane = c.plane := by
  unfold Chip.evPlace
  repeat' (first | with_reducible rfl | simp only [↓plane_mk, ↓plane_ite, ite_self, eq_self, implies_true, ↓Chip.bump_plane] | split)
theorem Chip.raise_house (c : Chip) (e : Ev) : (Chip.raise c e).house = c.house := by
  unfold Chip.raise
  repeat' (first | with_reducible rfl | simp only [↓house_ite, ite_self, eq_self, implies_true, ↓Chip.bump_house, ↓Chip.evInterrupt_house, ↓Chip.evPlace_house, ↓Chip.setFlag_house, ↓Chip.snapTrigger_house] | split)
theorem Chip.raise_vault (c : Chip) (e : Ev) : (Chip.raise c e).vault = c.vault := vault_of_house (Chip.raise_house c e)
theorem Chip.raise_plane (c : Chip) (e : Ev) : (Chip.raise c e).plane = c.plane := by
  unfold Chip.raise
  repeat' (first | with_reducible rfl | simp only [↓plane_ite, ite_self, eq_self, implies_true, ↓Chip.bump_plane, ↓Chip.evInterrupt_plane, ↓Chip.evPlace_plane, ↓Chip.setFlag_plane, ↓Chip.snapTrigger_plane] | split)
theorem Chip.raiseLim_house (c : Chip) (e : Ev) (scope gap : Nat) : (Chip.raiseLim c e scope gap).house = c.house := by
  unfold Chip.raiseLim
  repeat' (first | with_reducible rfl | simp only [↓house_mk, ↓house_ite, ite_self, eq_self, implies_true, ↓Chip.bump_house, ↓Chip.raise_house, ↓Chip.setFlag_house] | split)
theorem Chip.raiseLim_vault (c : Chip) (e : Ev) (scope gap : Nat) : (Chip.raiseLim c e scope gap).vault = c.vault := vault_of_house (Chip.raiseLim_house c e scope gap)
theorem Chip.raiseLim_plane (c : Chip) (e : Ev) (scope gap : Nat) : (Chip.raiseLim c e scope gap).plane = c.plane := by
  unfold Chip.raiseLim
  repeat' (first | with_reducible rfl | simp only [↓plane_mk, ↓plane_ite, ite_self, eq_self, implies_true, ↓Chip.bump_plane, ↓Chip.raise_plane, ↓Chip.setFlag_plane] | split)
theorem Chip.settleAlerts_house (before after : Chip) : (Chip.settleAlerts before after).house = after.house := (rfl)
theorem Chip.settleAlerts_vault (before after : Chip) : (Chip.settleAlerts before after).vault = after.vault := vault_of_house (Chip.settleAlerts_house before after)
theorem Chip.settleAlerts_plane (before after : Chip) : (Chip.settleAlerts before after).plane = after.plane := by
  unfold Chip.settleAlerts
  repeat' (first | with_reducible rfl | simp only [↓plane_mk, ↓plane_ite, ite_self, eq_self, implies_true] | split)

end Sys2Proof.Machine
end

