-- ==== Sys2Proof/Laws/Events.lean ====
section
/-! SUPPORT. What raising an event does (R423, R424): the record, the queue's indices, and the registers it can write. -/

namespace Sys2Proof.Machine

variable (c : Chip) (e : Ev)

@[simp] theorem Chip.msix_regs (v : Nat) : (c.msix v).regs = c.regs := by unfold Chip.msix; split <;> exact Eq.refl _
@[simp] theorem Chip.msix_placed (v : Nat) : (c.msix v).ev.placed = c.ev.placed := by
  unfold Chip.msix; split <;> exact Eq.refl _
@[simp] theorem Chip.msix_seq (v : Nat) : (c.msix v).ev.seq = c.ev.seq := by unfold Chip.msix; split <;> exact Eq.refl _
@[simp] theorem Chip.msix_ring (v : Nat) : (c.msix v).ev.ring = c.ev.ring := by unfold Chip.msix; split <;> exact Eq.refl _
@[simp] theorem Chip.msix_taken (v : Nat) : (c.msix v).ev.taken = c.ev.taken := by unfold Chip.msix; split <;> exact Eq.refl _

theorem Chip.evInterrupt_ev (sev : Nat) : (c.evInterrupt sev).ev.placed = c.ev.placed ∧
    (c.evInterrupt sev).ev.seq = c.ev.seq ∧ (c.evInterrupt sev).ev.ring = c.ev.ring ∧
    (c.evInterrupt sev).ev.taken = c.ev.taken ∧ (c.evInterrupt sev).regs = c.regs := by
  have key : ∀ b : Bool, ∀ m : Chip, m.ev.placed = c.ev.placed ∧ m.ev.seq = c.ev.seq ∧ m.ev.ring = c.ev.ring ∧
      m.ev.taken = c.ev.taken ∧ m.regs = c.regs → ∀ x : Chip, x = (if b then m else c) →
      x.ev.placed = c.ev.placed ∧ x.ev.seq = c.ev.seq ∧ x.ev.ring = c.ev.ring ∧ x.ev.taken = c.ev.taken ∧
      x.regs = c.regs := by
    intro b m hm x hx
    cases b
    · rw [hx]; exact ⟨Eq.refl _, Eq.refl _, Eq.refl _, Eq.refl _, Eq.refl _⟩
    · rw [hx]; exact hm
  refine key _ _ ?_ _ (Eq.refl (c.evInterrupt sev))
  simp only
  repeat' split
  all_goals first
    | exact ⟨Chip.msix_placed _ _, Chip.msix_seq _ _, Chip.msix_ring _ _, Chip.msix_taken _ _, Chip.msix_regs _ _⟩
    | exact ⟨Eq.refl _, Eq.refl _, Eq.refl _, Eq.refl _, Eq.refl _⟩

@[simp] theorem Chip.snapTrigger_ev (src t : Nat) : (c.snapTrigger src t).ev = c.ev := by
  unfold Chip.snapTrigger
  split
  · split <;> exact Eq.refl _
  · exact Eq.refl _

/-- A snapshot trigger writes SNP_SRC or SNP_MISS_CNT alone. -/
theorem Chip.snapTrigger_reg (src t page off inst : Nat) (h1 : regKey page off inst ≠ regKey pgSnp 0x1004 0)
    (h2 : regKey page off inst ≠ regKey pgSnp 0x1080 0) :
    (c.snapTrigger src t).reg page off inst = c.reg page off inst := by
  unfold Chip.snapTrigger
  split
  · split
    · exact c.reg_setFlag_other _ _ h1
    · exact c.reg_setReg_other _ h1
  · exact c.reg_bump_other h2

/-- What placing a record does to the queue. -/
theorem Chip.evPlace_ev : (c.evPlace e).ev.placed = c.ev.placed + 1 ∧ (c.evPlace e).ev.seq = (c.ev.seq + 1) % 2 ^ 32 ∧
    (c.evPlace e).ev.ring = Tbl.set 0 c.ev.ring (c.ev.placed % 1024) (evRecord e c.time.now c.ev.seq) ∧
    (c.evPlace e).ev.taken = c.ev.taken := by
  simp only [Chip.evPlace]
  split <;> exact ⟨Eq.refl _, Eq.refl _, Eq.refl _, Eq.refl _⟩

theorem Chip.evPlace_reg {page off inst : Nat} (h : regKey page off inst ≠ regKey pgFlt 0x100C 0) :
    (c.evPlace e).reg page off inst = c.reg page off inst := by
  simp only [Chip.evPlace]
  split
  · exact c.reg_bump_other h
  · exact Eq.refl _

/-- The state in which raising an event places its record. -/
theorem Chip.raise_ev : (c.raise e).ev.placed = c.ev.placed + 1 ∧ (c.raise e).ev.seq = (c.ev.seq + 1) % 2 ^ 32 ∧
    (c.raise e).ev.ring = Tbl.set 0 c.ev.ring (c.ev.placed % 1024) (evRecord e c.time.now c.ev.seq) ∧
    (c.raise e).ev.taken = c.ev.taken := by
  have h : ∀ d : Chip, d.ev = c.ev → d.time = c.time →
      ((d.evPlace e).evInterrupt (evSev e.code)).ev.placed = c.ev.placed + 1 ∧
      ((d.evPlace e).evInterrupt (evSev e.code)).ev.seq = (c.ev.seq + 1) % 2 ^ 32 ∧
      ((d.evPlace e).evInterrupt (evSev e.code)).ev.ring =
        Tbl.set 0 c.ev.ring (c.ev.placed % 1024) (evRecord e c.time.now c.ev.seq) ∧
      ((d.evPlace e).evInterrupt (evSev e.code)).ev.taken = c.ev.taken := by
    intro d h1 h2
    obtain ⟨i1, i2, i3, i4, _⟩ := Chip.evInterrupt_ev (d.evPlace e) (evSev e.code)
    obtain ⟨p1, p2, p3, p4⟩ := Chip.evPlace_ev d e
    rw [i1, i2, i3, i4, p1, p2, p3, p4, h1, h2]
    exact ⟨Eq.refl _, Eq.refl _, Eq.refl _, Eq.refl _⟩
  have hk := h ((c.setFlag e.page 0x14 0 true).bump e.page (if 2 ≤ evSev e.code then 0x24 else 0x28)) (rfl) (rfl)
  simp only [Chip.raise]
  generalize (if 2 ≤ evSev e.code then 0x24 else 0x28) = o at hk ⊢
  split
  · rw [Chip.snapTrigger_ev]; exact hk
  · exact hk

@[simp] theorem Chip.raise_placed : (c.raise e).ev.placed = c.ev.placed + 1 := (Chip.raise_ev c e).1
@[simp] theorem Chip.raise_seq : (c.raise e).ev.seq = (c.ev.seq + 1) % 2 ^ 32 := (Chip.raise_ev c e).2.1

/-- The record stands in the slot of the producer index. -/
theorem Chip.raise_record : Tbl.get 0 (c.raise e).ev.ring (c.ev.placed % 1024) = evRecord e c.time.now c.ev.seq := by
  rw [(Chip.raise_ev c e).2.2.1, Tbl.get_set_same]

/-- The registers that raising an event can write: the page's status and counters, FLT_EVQ_LOST, SNP_SRC, SNP_MISS_CNT. -/
def evKeys (page : Nat) : List Nat :=
  [regKey page 0x14 0, regKey page 0x24 0, regKey page 0x28 0, regKey pgFlt 0x100C 0, regKey pgSnp 0x1004 0,
   regKey pgSnp 0x1080 0]

theorem Chip.raise_reg {page off inst : Nat} (h : regKey page off inst ∉ evKeys e.page) :
    (c.raise e).reg page off inst = c.reg page off inst := by
  simp only [evKeys, List.mem_cons, List.not_mem_nil, or_false, not_or] at h
  obtain ⟨h1, h2, h3, h4, h5, h6⟩ := h
  have hi : ∀ d : Chip, (d.evInterrupt (evSev e.code)).reg page off inst = d.reg page off inst := fun d => by
    unfold Chip.reg
    rw [(Chip.evInterrupt_ev d (evSev e.code)).2.2.2.2]
  have hp : ∀ d : Chip, ((d.evPlace e).evInterrupt (evSev e.code)).reg page off inst = d.reg page off inst := fun d => by
    rw [hi, Chip.evPlace_reg _ _ h4]
  have hb : ∀ d : Chip, (d.bump e.page (if 2 ≤ evSev e.code then 0x24 else 0x28)).reg page off inst = d.reg page off inst :=
    fun d => by
    by_cases hs : 2 ≤ evSev e.code
    · rw [if_pos hs]; exact d.reg_bump_other h2
    · rw [if_neg hs]; exact d.reg_bump_other h3
  simp only [Chip.raise]
  generalize (if 2 ≤ evSev e.code then 0x24 else 0x28) = o at hb ⊢
  split
  · rw [Chip.snapTrigger_reg _ _ _ _ _ _ h5 h6, hp, hb, Chip.reg_setFlag_other _ _ _ h1]
  · rw [hp, hb, Chip.reg_setFlag_other _ _ _ h1]

theorem Chip.only_rfl (gs : List Grp) : Chip.only gs c c := by
  unfold Chip.only
  refine ⟨?_, ?_, ?_, ?_, ?_, ?_, ?_, ?_, ?_, ?_, ?_, ?_, ?_, ?_, ?_, ?_, ?_, ?_, ?_, ?_⟩ <;> exact .inr (rfl)

/-- Groups that stay through two steps stay. -/
theorem Chip.only_trans {gs : List Grp} {a b d : Chip} (h : Chip.only gs a b) (k : Chip.only gs b d) : Chip.only gs a d := by
  unfold Chip.only at *
  obtain ⟨h1, h2, h3, h4, h5, h6, h7, h8, h9, h10, h11, h12, h13, h14, h15, h16, h17, h18, h19, h20⟩ := h
  obtain ⟨k1, k2, k3, k4, k5, k6, k7, k8, k9, k10, k11, k12, k13, k14, k15, k16, k17, k18, k19, k20⟩ := k
  refine ⟨?_, ?_, ?_, ?_, ?_, ?_, ?_, ?_, ?_, ?_, ?_, ?_, ?_, ?_, ?_, ?_, ?_, ?_, ?_, ?_⟩
  · exact h1.elim .inl fun h => k1.imp id fun k => k.trans h
  · exact h2.elim .inl fun h => k2.imp id fun k => k.trans h
  · exact h3.elim .inl fun h => k3.imp id fun k => k.trans h
  · exact h4.elim .inl fun h => k4.imp id fun k => k.trans h
  · exact h5.elim .inl fun h => k5.imp id fun k => k.trans h
  · exact h6.elim .inl fun h => k6.imp id fun k => k.trans h
  · exact h7.elim .inl fun h => k7.imp id fun k => k.trans h
  · exact h8.elim .inl fun h => k8.imp id fun k => k.trans h
  · exact h9.elim .inl fun h => k9.imp id fun k => k.trans h
  · exact h10.elim .inl fun h => k10.imp id fun k => k.trans h
  · exact h11.elim .inl fun h => k11.imp id fun k => k.trans h
  · exact h12.elim .inl fun h => k12.imp id fun k => k.trans h
  · exact h13.elim .inl fun h => k13.imp id fun k => k.trans h
  · exact h14.elim .inl fun h => k14.imp id fun k => k.trans h
  · exact h15.elim .inl fun h => k15.imp id fun k => k.trans h
  · exact h16.elim .inl fun h => k16.imp id fun k => k.trans h
  · exact h17.elim .inl fun h => k17.imp id fun k => k.trans h
  · exact h18.elim .inl fun h => k18.imp id fun k => k.trans h
  · exact h19.elim .inl fun h => k19.imp id fun k => k.trans h
  · exact h20.elim .inl fun h => k20.imp id fun k => k.trans h

theorem Chip.only_forAll {α : Type} {gs : List Grp} (xs : List α) (f : α → Chip → Chip)
    (h : ∀ x d, Chip.only gs d (f x d)) : Chip.only gs c (forAll xs c f) := by
  show Chip.only gs c (xs.foldl _ c)
  induction xs generalizing c with
  | nil => exact Chip.only_rfl c gs
  | cons x xs ih => rw [List.foldl_cons]; exact Chip.only_trans (h x c) (ih _)

theorem Chip.settleAlerts_only (b : Chip) (gs : List Grp) : Chip.only gs c (Chip.settleAlerts b c) := by
  unfold Chip.only
  refine ⟨?_, ?_, ?_, ?_, ?_, ?_, ?_, ?_, ?_, ?_, ?_, ?_, ?_, ?_, ?_, ?_, ?_, ?_, ?_, ?_⟩ <;> exact .inr (rfl)

theorem Chip.snapTrigger_rest (src t : Nat) : ∃ r x, c.snapTrigger src t = { c with regs := r, snap := x } := by
  unfold Chip.snapTrigger
  split
  · split <;> exact ⟨_, _, Eq.refl _⟩
  · exact ⟨_, _, Eq.refl _⟩
theorem Chip.msix_rest (v : Nat) : ∃ x, c.msix v = { c with ev := x } := by
  unfold Chip.msix; split <;> exact ⟨_, Eq.refl _⟩
theorem Chip.evInterrupt_rest (sev : Nat) : ∃ x, c.evInterrupt sev = { c with ev := x } := by
  simp only [Chip.evInterrupt]
  repeat' split
  all_goals first
    | exact ⟨_, Eq.refl _⟩
    | exact ⟨_, (Chip.msix_rest _ _).choose_spec⟩
theorem Chip.evPlace_rest : ∃ r x, c.evPlace e = { c with regs := r, ev := x } := by
  simp only [Chip.evPlace]
  split <;> exact ⟨_, _, Eq.refl _⟩

/-- Raising an event changes registers, the queue and the snapshot trigger alone. -/
theorem Chip.raise_rest : ∃ r x y, c.raise e = { c with regs := r, ev := x, snap := y } := by
  simp only [Chip.raise]
  generalize (if 2 ≤ evSev e.code then 0x24 else 0x28) = o
  obtain ⟨r1, x1, h1⟩ := Chip.evPlace_rest ((c.setFlag e.page 0x14 0 true).bump e.page o) e
  obtain ⟨x2, h2⟩ := Chip.evInterrupt_rest (((c.setFlag e.page 0x14 0 true).bump e.page o).evPlace e) (evSev e.code)
  rw [h2, h1]
  split
  · obtain ⟨r3, x3, h3⟩ := Chip.snapTrigger_rest
      { (c.setFlag e.page 0x14 0 true).bump e.page o with regs := r1, ev := x2 } 3
      (Chip.snapDelay { (c.setFlag e.page 0x14 0 true).bump e.page o with regs := r1, ev := x2 })
    exact ⟨_, _, _, h3⟩
  · exact ⟨_, _, _, Eq.refl _⟩

theorem Chip.raise_only : Chip.only [.regs, .ev, .snap] c (c.raise e) := by
  obtain ⟨r, x, y, h⟩ := Chip.raise_rest c e
  rw [h]
  unfold Chip.only
  refine ⟨.inl ?_, ?_, .inl ?_, .inl ?_, ?_, ?_, ?_, ?_, ?_, ?_, ?_, ?_, ?_, ?_, ?_, ?_, ?_, ?_, ?_, ?_⟩
  all_goals first | exact .inr (Eq.refl _) | decide

@[simp] theorem Chip.raise_time : (c.raise e).time = c.time := by
  obtain ⟨r, x, y, h⟩ := Chip.raise_rest c e
  rw [h]

/-- Raising an event is what `Chip.raised` says. -/
theorem Chip.raise_raised : Chip.raised c (c.raise e) e :=
  ⟨Chip.raise_placed c e, by rw [Chip.raise_record, Chip.raise_time]⟩

end Sys2Proof.Machine
end

