-- ==== Sys2Proof/Laws/Exec.lean ====
section
/-! SUPPORT. Every command answers in one form, `State.run`: what that form leaves alone, and what it settles. -/

namespace Sys2Proof.Machine

/-- Every command answers with the next state of an operation on the part and the alert causes it brought about. -/
theorem exec_run (i : Instr) : ∃ f : Chip → Chip, ∀ s, exec i s = s.run f := by
  cases i with
  | collectiveFirstFrame p f age => exact ⟨_, fun s => by rw [exec, execCollectiveFirstFrame]⟩
  | continuationFrame p f age => exact ⟨_, fun s => by rw [exec, execContinuationFrame]⟩
  | collectiveFrameFold c slot p carried serialised rep => exact ⟨_, fun s => by rw [exec, execCollectiveFrameFold]⟩
  | sidingRetry c slot elem => exact ⟨_, fun s => by rw [exec, execSidingRetry]⟩
  | coachCreateRetry c k => exact ⟨_, fun s => by rw [exec, execCoachCreateRetry]⟩
  | coachFoldComplete c slot => exact ⟨_, fun s => by rw [exec, execCoachFoldComplete]⟩
  | coachCutoff c slot => exact ⟨_, fun s => by rw [exec, execCoachCutoff]⟩
  | sealIntervalEnd c slot => exact ⟨_, fun s => by rw [exec, execSealIntervalEnd]⟩
  | packerFirstFrame c slot out => exact ⟨_, fun s => by rw [exec, execPackerFirstFrame]⟩
  | packerLastFrameSent c slot => exact ⟨_, fun s => by rw [exec, execPackerLastFrameSent]⟩
  | deadlineMonitor c => exact ⟨_, fun s => by rw [exec, execDeadlineMonitor]⟩
  | abortDrainDone c slot => exact ⟨_, fun s => by rw [exec, execAbortDrainDone]⟩
  | abortMarkExpiry c => exact ⟨_, fun s => by rw [exec, execAbortMarkExpiry]⟩
  | openRecordExpiry p => exact ⟨_, fun s => by rw [exec, execOpenRecordExpiry]⟩
  | abortWaveRx p f age => exact ⟨_, fun s => by rw [exec, execAbortWaveRx]⟩
  | abortWaveRepeat livery entry step => exact ⟨_, fun s => by rw [exec, execAbortWaveRepeat]⟩
  | ledgerBatchSend c livery => exact ⟨_, fun s => by rw [exec, execLedgerBatchSend]⟩
  | resultFrame p f age => exact ⟨_, fun s => by rw [exec, execResultFrame]⟩
  | memoryFrame p f age => exact ⟨_, fun s => by rw [exec, execMemoryFrame]⟩
  | memoryPut p f age => exact ⟨_, fun s => by rw [exec, execMemoryPut]⟩
  | putCompletion p f age => exact ⟨_, fun s => by rw [exec, execPutCompletion]⟩
  | putCounterTimeout d ctr => exact ⟨_, fun s => by rw [exec, execPutCounterTimeout]⟩
  | bulkFrame p f age => exact ⟨_, fun s => by rw [exec, execBulkFrame]⟩
  | ethernetFrame p bytes fecUncorr whole buf age => exact ⟨_, fun s => by rw [exec, execEthernetFrame]⟩
  | pauseFrameRx p => exact ⟨_, fun s => by rw [exec, execPauseFrameRx]⟩
  | pfcFrameRx p enable quanta => exact ⟨_, fun s => by rw [exec, execPfcFrameRx]⟩
  | controlFrameForward p f age => exact ⟨_, fun s => by rw [exec, execControlFrameForward]⟩
  | ptpMessageRx p f age => exact ⟨_, fun s => by rw [exec, execPtpMessageRx]⟩
  | digestRecordsRx p f age => exact ⟨_, fun s => by rw [exec, execDigestRecordsRx]⟩
  | frameTailCheck p f => exact ⟨_, fun s => by rw [exec, execFrameTailCheck]⟩
  | egressPortFree p rd => exact ⟨_, fun s => by rw [exec, execEgressPortFree]⟩
  | cellTime => exact ⟨_, fun s => by rw [exec, execCellTime]⟩
  | cellRefcountDecrement b cell gen => exact ⟨_, fun s => by rw [exec, execCellRefcountDecrement]⟩
  | brakeLevelChange d src livery => exact ⟨_, fun s => by rw [exec, execBrakeLevelChange]⟩
  | divertedFrameDispatch d c livery rd => exact ⟨_, fun s => by rw [exec, execDivertedFrameDispatch]⟩
  | linkInitRx p f => exact ⟨_, fun s => by rw [exec, execLinkInitRx]⟩
  | linkUpdateRx p f => exact ⟨_, fun s => by rw [exec, execLinkUpdateRx]⟩
  | linkNakRx p f => exact ⟨_, fun s => by rw [exec, execLinkNakRx]⟩
  | creditUpdateSend p => exact ⟨_, fun s => by rw [exec, execCreditUpdateSend]⟩
  | creditUpdatePeriodic p => exact ⟨_, fun s => by rw [exec, execCreditUpdatePeriodic]⟩
  | initResend p => exact ⟨_, fun s => by rw [exec, execInitResend]⟩
  | pcsAligned p marks => exact ⟨_, fun s => by rw [exec, execPcsAligned]⟩
  | pcsAlignLoss p => exact ⟨_, fun s => by rw [exec, execPcsAlignLoss]⟩
  | linkControlTimeout p => exact ⟨_, fun s => by rw [exec, execLinkControlTimeout]⟩
  | replayTimeout p => exact ⟨_, fun s => by rw [exec, execReplayTimeout]⟩
  | nakRepeat p => exact ⟨_, fun s => by rw [exec, execNakRepeat]⟩
  | lpiEntryStart p => exact ⟨_, fun s => by rw [exec, execLpiEntryStart]⟩
  | lpiAckRx p wake => exact ⟨_, fun s => by rw [exec, execLpiAckRx]⟩
  | lpiNoackTimeout p => exact ⟨_, fun s => by rw [exec, execLpiNoackTimeout]⟩
  | lpiWakeRequest p => exact ⟨_, fun s => by rw [exec, execLpiWakeRequest]⟩
  | lpiExitComplete p => exact ⟨_, fun s => by rw [exec, execLpiExitComplete]⟩
  | lpiReqRx p => exact ⟨_, fun s => by rw [exec, execLpiReqRx]⟩
  | lpiPartnerWakeRx p => exact ⟨_, fun s => by rw [exec, execLpiPartnerWakeRx]⟩
  | lpiRefresh p => exact ⟨_, fun s => by rw [exec, execLpiRefresh]⟩
  | synthLock pp => exact ⟨_, fun s => by rw [exec, execSynthLock]⟩
  | synthCalDone pp => exact ⟨_, fun s => by rw [exec, execSynthCalDone]⟩
  | synthLockTimeout pp => exact ⟨_, fun s => by rw [exec, execSynthLockTimeout]⟩
  | trainingDone lane ok taps preTx preRx => exact ⟨_, fun s => by rw [exec, execTrainingDone]⟩
  | trainingRetry lane => exact ⟨_, fun s => by rw [exec, execTrainingRetry]⟩
  | cdrLock lane => exact ⟨_, fun s => by rw [exec, execCdrLock]⟩
  | settleWindowEnd lane => exact ⟨_, fun s => by rw [exec, execSettleWindowEnd]⟩
  | checkerLock lane rx => exact ⟨_, fun s => by rw [exec, execCheckerLock]⟩
  | checkerLockLoss lane rx => exact ⟨_, fun s => by rw [exec, execCheckerLockLoss]⟩
  | eyeWindowEnd lane upper mid lower width rx => exact ⟨_, fun s => by rw [exec, execEyeWindowEnd]⟩
  | injGo d => exact ⟨_, fun s => by rw [exec, execInjGo]⟩
  | injPeriodBurst lane => exact ⟨_, fun s => by rw [exec, execInjPeriodBurst]⟩
  | settleGo d => exact ⟨_, fun s => by rw [exec, execSettleGo]⟩
  | cntClr d => exact ⟨_, fun s => by rw [exec, execCntClr]⟩
  | sdsTxEqWrite d v => exact ⟨_, fun s => by rw [exec, execSdsTxEqWrite]⟩
  | chkBitsLoRead d => exact ⟨_, fun s => by rw [exec, execChkBitsLoRead]⟩
  | laneStatRead d => exact ⟨_, fun s => by rw [exec, execLaneStatRead]⟩
  | prtCfgWrite pp v => exact ⟨_, fun s => by rw [exec, execPrtCfgWrite]⟩
  | lnkCtrlWrite d v => exact ⟨_, fun s => by rw [exec, execLnkCtrlWrite]⟩
  | lnkVlBufWrite d vl v => exact ⟨_, fun s => by rw [exec, execLnkVlBufWrite]⟩
  | shaperRefill d => exact ⟨_, fun s => by rw [exec, execShaperRefill]⟩
  | shaperApply d => exact ⟨_, fun s => by rw [exec, execShaperApply]⟩
  | flowShaperRelease d shaper => exact ⟨_, fun s => by rw [exec, execFlowShaperRelease]⟩
  | gateSwitch d => exact ⟨_, fun s => by rw [exec, execGateSwitch]⟩
  | gateSwitchEffect p => exact ⟨_, fun s => by rw [exec, execGateSwitchEffect]⟩
  | gateIntervalBoundary p => exact ⟨_, fun s => by rw [exec, execGateIntervalBoundary]⟩
  | sampleIntervalClose d => exact ⟨_, fun s => by rw [exec, execSampleIntervalClose]⟩
  | qSampSeqRead d => exact ⟨_, fun s => by rw [exec, execQSampSeqRead]⟩
  | wmFlagClear d v crossing => exact ⟨_, fun s => by rw [exec, execWmFlagClear]⟩
  | flowRead d => exact ⟨_, fun s => by rw [exec, execFlowRead]⟩
  | flowWrite d => exact ⟨_, fun s => by rw [exec, execFlowWrite]⟩
  | flowDelete d => exact ⟨_, fun s => by rw [exec, execFlowDelete]⟩
  | ttbEntRead => exact ⟨_, fun s => by rw [exec, execTtbEntRead]⟩
  | ttbEntWrite => exact ⟨_, fun s => by rw [exec, execTtbEntWrite]⟩
  | ttbEntInvalidate => exact ⟨_, fun s => by rw [exec, execTtbEntInvalidate]⟩
  | ttbCsetRead => exact ⟨_, fun s => by rw [exec, execTtbCsetRead]⟩
  | ttbCsetWrite => exact ⟨_, fun s => by rw [exec, execTtbCsetWrite]⟩
  | liveryRecordWrite r v => exact ⟨_, fun s => by rw [exec, execLiveryRecordWrite]⟩
  | ttbLivCtrlWrite v => exact ⟨_, fun s => by rw [exec, execTtbLivCtrlWrite]⟩
  | ttbLivSwap v => exact ⟨_, fun s => by rw [exec, execTtbLivSwap]⟩
  | ttbSwapTakeEffect livery => exact ⟨_, fun s => by rw [exec, execTtbSwapTakeEffect]⟩
  | ttbOldBankRelease livery => exact ⟨_, fun s => by rw [exec, execTtbOldBankRelease]⟩
  | routeEntRead => exact ⟨_, fun s => by rw [exec, execRouteEntRead]⟩
  | routeEntWrite => exact ⟨_, fun s => by rw [exec, execRouteEntWrite]⟩
  | routeSwap v => exact ⟨_, fun s => by rw [exec, execRouteSwap]⟩
  | routeSwapCancel => exact ⟨_, fun s => by rw [exec, execRouteSwapCancel]⟩
  | routeSwapSwitch => exact ⟨_, fun s => by rw [exec, execRouteSwapSwitch]⟩
  | routeDrainSlow => exact ⟨_, fun s => by rw [exec, execRouteDrainSlow]⟩
  | groupRead => exact ⟨_, fun s => by rw [exec, execGroupRead]⟩
  | groupWrite => exact ⟨_, fun s => by rw [exec, execGroupWrite]⟩
  | addrRead => exact ⟨_, fun s => by rw [exec, execAddrRead]⟩
  | addrWrite => exact ⟨_, fun s => by rw [exec, execAddrWrite]⟩
  | addrDelete => exact ⟨_, fun s => by rw [exec, execAddrDelete]⟩
  | gridMapWrite v => exact ⟨_, fun s => by rw [exec, execGridMapWrite]⟩
  | teardown => exact ⟨_, fun s => by rw [exec, execTeardown]⟩
  | teardownTimerExpiry livery => exact ⟨_, fun s => by rw [exec, execTeardownTimerExpiry]⟩
  | teardownDone livery => exact ⟨_, fun s => by rw [exec, execTeardownDone]⟩
  | teardownRelease => exact ⟨_, fun s => by rw [exec, execTeardownRelease]⟩
  | polQuotaWrite die v => exact ⟨_, fun s => by rw [exec, execPolQuotaWrite]⟩
  | polThrWrite die second v => exact ⟨_, fun s => by rw [exec, execPolThrWrite]⟩
  | quarantineRelease b v => exact ⟨_, fun s => by rw [exec, execQuarantineRelease]⟩
  | quarantineReleaseDone b reads => exact ⟨_, fun s => by rw [exec, execQuarantineReleaseDone]⟩
  | marchStart die v => exact ⟨_, fun s => by rw [exec, execMarchStart]⟩
  | marchDone die rep => exact ⟨_, fun s => by rw [exec, execMarchDone]⟩
  | tableCopyRefetchDone die bank word => exact ⟨_, fun s => by rw [exec, execTableCopyRefetchDone]⟩
  | retentionEntry die bank => exact ⟨_, fun s => by rw [exec, execRetentionEntry]⟩
  | bankWake die bank => exact ⟨_, fun s => by rw [exec, execBankWake]⟩
  | bankWakeDone die bank => exact ⟨_, fun s => by rw [exec, execBankWakeDone]⟩
  | cchSlotSelect c v => exact ⟨_, fun s => by rw [exec, execCchSlotSelect]⟩
  | livCtrlWrite v => exact ⟨_, fun s => by rw [exec, execLivCtrlWrite]⟩
  | seedWrite index => exact ⟨_, fun s => by rw [exec, execSeedWrite]⟩
  | energyAttribution => exact ⟨_, fun s => by rw [exec, execEnergyAttribution]⟩
  | energyLoRead unattributed => exact ⟨_, fun s => by rw [exec, execEnergyLoRead]⟩
  | secureWipe => exact ⟨_, fun s => by rw [exec, execSecureWipe]⟩
  | wipeDone clear => exact ⟨_, fun s => by rw [exec, execWipeDone]⟩
  | tamperDetect src => exact ⟨_, fun s => by rw [exec, execTamperDetect]⟩
  | tapInstruction ir => exact ⟨_, fun s => by rw [exec, execTapInstruction]⟩
  | tokenChallenge => exact ⟨_, fun s => by rw [exec, execTokenChallenge]⟩
  | tokenSubmit => exact ⟨_, fun s => by rw [exec, execTokenSubmit]⟩
  | tokenCheckDone => exact ⟨_, fun s => by rw [exec, execTokenCheckDone]⟩
  | tokenLock => exact ⟨_, fun s => by rw [exec, execTokenLock]⟩
  | coreWatchdogExpiry core started => exact ⟨_, fun s => by rw [exec, execCoreWatchdogExpiry]⟩
  | m0WatchdogExpiry => exact ⟨_, fun s => by rw [exec, execM0WatchdogExpiry]⟩
  | mgmtSramUe bank word => exact ⟨_, fun s => by rw [exec, execMgmtSramUe]⟩
  | bootRomStart => exact ⟨_, fun s => by rw [exec, execBootRomStart]⟩
  | mbxDoorbell q v => exact ⟨_, fun s => by rw [exec, execMbxDoorbell]⟩
  | mbxRspCiWrite q v => exact ⟨_, fun s => by rw [exec, execMbxRspCiWrite]⟩
  | mbxBusyTimeout q => exact ⟨_, fun s => by rw [exec, execMbxBusyTimeout]⟩
  | getVersion q => exact ⟨_, fun s => by rw [exec, execGetVersion]⟩
  | getStatus q => exact ⟨_, fun s => by rw [exec, execGetStatus]⟩
  | imgBegin q => exact ⟨_, fun s => by rw [exec, execImgBegin]⟩
  | imgWrite q data => exact ⟨_, fun s => by rw [exec, execImgWrite]⟩
  | imgVerify q => exact ⟨_, fun s => by rw [exec, execImgVerify]⟩
  | imgActivate q => exact ⟨_, fun s => by rw [exec, execImgActivate]⟩
  | imgCommitSvn q => exact ⟨_, fun s => by rw [exec, execImgCommitSvn]⟩
  | imgReject q => exact ⟨_, fun s => by rw [exec, execImgReject]⟩
  | imgRevokeKey q => exact ⟨_, fun s => by rw [exec, execImgRevokeKey]⟩
  | logRead q => exact ⟨_, fun s => by rw [exec, execLogRead]⟩
  | telemCfg q => exact ⟨_, fun s => by rw [exec, execTelemCfg]⟩
  | newImageStart selfTestOk => exact ⟨_, fun s => by rw [exec, execNewImageStart]⟩
  | fwHeartbeat => exact ⟨_, fun s => by rw [exec, execFwHeartbeat]⟩
  | errorLogCommit => exact ⟨_, fun s => by rw [exec, execErrorLogCommit]⟩
  | telemetryPeriod produced => exact ⟨_, fun s => by rw [exec, execTelemetryPeriod]⟩
  | evqIntPauseEnd => exact ⟨_, fun s => by rw [exec, execEvqIntPauseEnd]⟩
  | cornerEvaluation coachMilliVolt => exact ⟨_, fun s => by rw [exec, execCornerEvaluation]⟩
  | estimateRefresh => exact ⟨_, fun s => by rw [exec, execEstimateRefresh]⟩
  | calibrationInterval die currents => exact ⟨_, fun s => by rw [exec, execCalibrationInterval]⟩
  | meterUpdate => exact ⟨_, fun s => by rw [exec, execMeterUpdate]⟩
  | budgetBinStart => exact ⟨_, fun s => by rw [exec, execBudgetBinStart]⟩
  | hintHoldExpiry c => exact ⟨_, fun s => by rw [exec, execHintHoldExpiry]⟩
  | budgetCtrlWrite v => exact ⟨_, fun s => by rw [exec, execBudgetCtrlWrite]⟩
  | railIlimCross r => exact ⟨_, fun s => by rw [exec, execRailIlimCross]⟩
  | railIlimRelease r => exact ⟨_, fun s => by rw [exec, execRailIlimRelease]⟩
  | phaseHardLimit r => exact ⟨_, fun s => by rw [exec, execPhaseHardLimit]⟩
  | phaseEvaluation r phaseCurrents => exact ⟨_, fun s => by rw [exec, execPhaseEvaluation]⟩
  | railVsetWrite v => exact ⟨_, fun s => by rw [exec, execRailVsetWrite]⟩
  | railFault r => exact ⟨_, fun s => by rw [exec, execRailFault]⟩
  | vin12Loss => exact ⟨_, fun s => by rw [exec, execVin12Loss]⟩
  | lastGaspProgram supplyHeld => exact ⟨_, fun s => by rw [exec, execLastGaspProgram]⟩
  | vin12Present => exact ⟨_, fun s => by rw [exec, execVin12Present]⟩
  | vin3v3PowerDown => exact ⟨_, fun s => by rw [exec, execVin3v3PowerDown]⟩
  | calSave => exact ⟨_, fun s => by rw [exec, execCalSave]⟩
  | calSavePeriodic => exact ⟨_, fun s => by rw [exec, execCalSavePeriodic]⟩
  | calSaveDone ok => exact ⟨_, fun s => by rw [exec, execCalSaveDone]⟩
  | thermalSensorRead readings => exact ⟨_, fun s => by rw [exec, execThermalSensorRead]⟩
  | tripCooldownEnd => exact ⟨_, fun s => by rw [exec, execTripCooldownEnd]⟩
  | laneRepair c cluster => exact ⟨_, fun s => by rw [exec, execLaneRepair]⟩
  | laneFence c cluster => exact ⟨_, fun s => by rw [exec, execLaneFence]⟩
  | laneSpareTestDone c pass => exact ⟨_, fun s => by rw [exec, execLaneSpareTestDone]⟩
  | coachDieUnresponsive c => exact ⟨_, fun s => by rw [exec, execCoachDieUnresponsive]⟩
  | dieFailed die => exact ⟨_, fun s => by rw [exec, execDieFailed]⟩
  | digestBatchSend livery => exact ⟨_, fun s => by rw [exec, execDigestBatchSend]⟩
  | digestUnmatchedTimeout => exact ⟨_, fun s => by rw [exec, execDigestUnmatchedTimeout]⟩
  | trailerStepCheck => exact ⟨_, fun s => by rw [exec, execTrailerStepCheck]⟩
  | trailerModeChange => exact ⟨_, fun s => by rw [exec, execTrailerModeChange]⟩
  | snapshotArm => exact ⟨_, fun s => by rw [exec, execSnapshotArm]⟩
  | snapshotTrigger => exact ⟨_, fun s => by rw [exec, execSnapshotTrigger]⟩
  | snapInEdge => exact ⟨_, fun s => by rw [exec, execSnapInEdge]⟩
  | snapshotSlotMatch => exact ⟨_, fun s => by rw [exec, execSnapshotSlotMatch]⟩
  | snapshotLatch => exact ⟨_, fun s => by rw [exec, execSnapshotLatch]⟩
  | snpTimeLoRead => exact ⟨_, fun s => by rw [exec, execSnpTimeLoRead]⟩
  | timNowLoRead => exact ⟨_, fun s => by rw [exec, execTimNowLoRead]⟩
  | timeOffsetWrite v => exact ⟨_, fun s => by rw [exec, execTimeOffsetWrite]⟩
  | timeSlewDone => exact ⟨_, fun s => by rw [exec, execTimeSlewDone]⟩
  | timeStepGo => exact ⟨_, fun s => by rw [exec, execTimeStepGo]⟩
  | ppsInEdge => exact ⟨_, fun s => by rw [exec, execPpsInEdge]⟩
  | ppsOutSecond => exact ⟨_, fun s => by rw [exec, execPpsOutSecond]⟩
  | ptpServoUpdate offset upstream => exact ⟨_, fun s => by rw [exec, execPtpServoUpdate]⟩
  | coldStart src => exact ⟨_, fun s => by rw [exec, execColdStart]⟩
  | pwronRstN level => exact ⟨_, fun s => by rw [exec, execPwronRstN]⟩
  | warmRstN level => exact ⟨_, fun s => by rw [exec, execWarmRstN]⟩
  | pwrRstCold v => exact ⟨_, fun s => by rw [exec, execPwrRstCold]⟩
  | pwrRstWarm v => exact ⟨_, fun s => by rw [exec, execPwrRstWarm]⟩
  | pwrRstMgmt v => exact ⟨_, fun s => by rw [exec, execPwrRstMgmt]⟩
  | warmReset => exact ⟨_, fun s => by rw [exec, execWarmReset]⟩
  | warmResetDone => exact ⟨_, fun s => by rw [exec, execWarmResetDone]⟩
  | perstN level => exact ⟨_, fun s => by rw [exec, execPerstN]⟩
  | hotReset => exact ⟨_, fun s => by rw [exec, execHotReset]⟩
  | functionLevelReset => exact ⟨_, fun s => by rw [exec, execFunctionLevelReset]⟩
  | standbyComplete => exact ⟨_, fun s => by rw [exec, execStandbyComplete]⟩
  | m0MarchDone findings => exact ⟨_, fun s => by rw [exec, execM0MarchDone]⟩
  | railsComplete => exact ⟨_, fun s => by rw [exec, execRailsComplete]⟩
  | railGroupRamped => exact ⟨_, fun s => by rw [exec, execRailGroupRamped]⟩
  | trainComplete => exact ⟨_, fun s => by rw [exec, execTrainComplete]⟩
  | d2dTrainTimeout die => exact ⟨_, fun s => by rw [exec, execD2dTrainTimeout]⟩
  | marchPhaseComplete findings => exact ⟨_, fun s => by rw [exec, execMarchPhaseComplete]⟩
  | laneTestComplete findings => exact ⟨_, fun s => by rw [exec, execLaneTestComplete]⟩
  | smbStatus => exact ⟨_, fun s => by rw [exec, execSmbStatus]⟩
  | smbAlertSrcRead => exact ⟨_, fun s => by rw [exec, execSmbAlertSrcRead]⟩
  | smbAlertSrcClear v pecOk => exact ⟨_, fun s => by rw [exec, execSmbAlertSrcClear]⟩
  | smbPkgPower => exact ⟨_, fun s => by rw [exec, execSmbPkgPower]⟩
  | smbMaxJunction => exact ⟨_, fun s => by rw [exec, execSmbMaxJunction]⟩
  | smbMaxDie => exact ⟨_, fun s => by rw [exec, execSmbMaxDie]⟩
  | smbVin12Mv mv => exact ⟨_, fun s => by rw [exec, execSmbVin12Mv]⟩
  | smbVin12Current sixteenthAmp => exact ⟨_, fun s => by rw [exec, execSmbVin12Current]⟩
  | smbVin3v3Mv mv => exact ⟨_, fun s => by rw [exec, execSmbVin3v3Mv]⟩
  | smbJunction die => exact ⟨_, fun s => by rw [exec, execSmbJunction]⟩
  | smbAlertResponse => exact ⟨_, fun s => by rw [exec, execSmbAlertResponse]⟩
  | registerWrite off be v => exact ⟨_, fun s => by rw [exec, execRegisterWrite]⟩
  | cdrLockLoss lane signal => exact ⟨_, fun s => by rw [exec, execCdrLockLoss]⟩
  | autoNegotiation p partnerLpi accepts => exact ⟨_, fun s => by rw [exec, execAutoNegotiation]⟩
  | ethernetPcsAlignLoss p => exact ⟨_, fun s => by rw [exec, execEthernetPcsAlignLoss]⟩
  | retentionEntryComplete die bank => exact ⟨_, fun s => by rw [exec, execRetentionEntryComplete]⟩
  | railSlewDone r => exact ⟨_, fun s => by rw [exec, execRailSlewDone]⟩
  | fecUncorrBetweenFrames p => exact ⟨_, fun s => by rw [exec, execFecUncorrBetweenFrames]⟩
  | smbUnlistedCommand code => exact ⟨_, fun s => by rw [exec, execSmbUnlistedCommand]⟩
  | registerReadAccessError off be => exact ⟨_, fun s => by rw [exec, execRegisterReadAccessError]⟩

/-- A command answers a next state, with the queue it was given. -/
theorem exec_next (i : Instr) (s : State) :
    ∃ c : Chip, exec i s = .next { s with chip := Chip.settleAlerts s.chip c } := by
  obtain ⟨f, hf⟩ := exec_run i
  exact ⟨f s.chip, hf s⟩

/-- The queue after a command is the queue it was given. -/
theorem exec_pending {i : Instr} {s t : State} (h : exec i s = .next t) : t.pending = s.pending := by
  obtain ⟨c, hc⟩ := exec_next i s
  rw [hc] at h
  cases h; rfl

end Sys2Proof.Machine
end

