-- ==== Sys2Proof/Laws/KeepPools.lean ====
section
/-! SUPPORT. What the operations of Machine/Pools.lean leave of the fuses and the flash, of the state outside the data
plane, and of the data plane. -/

set_option linter.all false

namespace Sys2Proof.Machine

theorem Chip.evalLevel_house (c : Chip) (die pool liv : Nat) : (Chip.evalLevel c die pool liv).house = c.house := by
  unfold Chip.evalLevel
  repeat' (first | with_reducible rfl | simp only [↓house_mk, ↓house_ite, ite_self, eq_self, implies_true, ↓Chip.bump_house, ↓Chip.raise_house] | split)
theorem Chip.evalLevel_vault (c : Chip) (die pool liv : Nat) : (Chip.evalLevel c die pool liv).vault = c.vault := vault_of_house (Chip.evalLevel_house c die pool liv)
theorem Chip.bankAccess_house (c : Chip) (die : Nat) (bank : Nat) : (Chip.bankAccess c die bank).house = c.house := by
  unfold Chip.bankAccess
  repeat' (first | with_reducible rfl | simp only [↓house_mk, ↓house_ite, ite_self, eq_self, implies_true, ↓Chip.setFlag_house, ↓Chip.bump_house] | split)
theorem Chip.bankAccess_vault (c : Chip) (die : Nat) (bank : Nat) : (Chip.bankAccess c die bank).vault = c.vault := vault_of_house (Chip.bankAccess_house c die bank)
theorem Chip.accessBanks_house (c : Chip) (die : Nat) (liv : Nat) (banks : List Nat) (corrected : Nat) (stalled : Nat) : (Chip.accessBanks c die liv banks corrected stalled).house = c.house := by
  unfold Chip.accessBanks
  repeat' (first | with_reducible rfl | simp only [↓house_mk, ↓house_ite, ite_self, eq_self, implies_true, ↓Chip.bumpN_house, ↓Chip.active_house, ↓Chip.bankAccess_house] | with_reducible refine (keep_forAll Chip.house _ _ _ ?_).trans ?_ | split | intro _ _ | intro _)
theorem Chip.accessBanks_vault (c : Chip) (die : Nat) (liv : Nat) (banks : List Nat) (corrected : Nat) (stalled : Nat) : (Chip.accessBanks c die liv banks corrected stalled).vault = c.vault := vault_of_house (Chip.accessBanks_house c die liv banks corrected stalled)
theorem Chip.eccUncorr_house (c : Chip) (die : Nat) (bank : Nat) (word : Nat) : (Chip.eccUncorr c die bank word).house = c.house := by
  unfold Chip.eccUncorr
  repeat' (first | with_reducible rfl | simp only [↓house_mk, ↓house_ite, ite_self, eq_self, implies_true, ↓Chip.bump_house, ↓Chip.raise_house] | split)
theorem Chip.eccUncorr_vault (c : Chip) (die : Nat) (bank : Nat) (word : Nat) : (Chip.eccUncorr c die bank word).vault = c.vault := vault_of_house (Chip.eccUncorr_house c die bank word)
theorem Chip.eccUncorr_plane (c : Chip) (die : Nat) (bank : Nat) (word : Nat) : (Chip.eccUncorr c die bank word).plane = c.plane := by
  unfold Chip.eccUncorr
  repeat' (first | with_reducible rfl | simp only [↓plane_mk, ↓plane_ite, ite_self, eq_self, implies_true, ↓Chip.bump_plane, ↓Chip.raise_plane] | split)
theorem Chip.takeUnit_house (c : Chip) (die : Nat) (pool : Nat) (owner : Nat) (u : Nat) : (Chip.takeUnit c die pool owner u).house = c.house := by
  unfold Chip.takeUnit
  repeat' (first | with_reducible rfl | simp only [↓house_mk, ↓house_ite, ite_self, eq_self, implies_true, ↓Chip.active_house, ↓Chip.bankAccess_house] | split)
theorem Chip.takeUnit_vault (c : Chip) (die : Nat) (pool : Nat) (owner : Nat) (u : Nat) : (Chip.takeUnit c die pool owner u).vault = c.vault := vault_of_house (Chip.takeUnit_house c die pool owner u)
theorem pair_house_tryUnits {c : Chip} {die pool owner n : Nat} {us : List Nat} {c' : Chip}
    (h : c.tryUnits die pool owner n = some (us, c')) : c'.house = c.house := by
  induction n generalizing us c' with
  | zero => simp only [Chip.tryUnits, Option.some.injEq, Prod.mk.injEq] at h; rw [← h.2]
  | succ n ih =>
    simp only [Chip.tryUnits] at h
    repeat' split at h
    · (simp only [reduceCtorEq] at h; done)
    · simp only [Option.some.injEq, Prod.mk.injEq] at h
      rw [← h.2, Chip.takeUnit_house, ih (by assumption)]
    · (simp only [reduceCtorEq] at h; done)
    · (simp only [reduceCtorEq] at h; done)
theorem pair_vault_tryUnits {c : Chip} {die pool owner n : Nat} {us : List Nat} {c' : Chip}
    (h : c.tryUnits die pool owner n = some (us, c')) : c'.vault = c.vault := vault_of_house (pair_house_tryUnits h)
theorem Chip.allocUnits_house (c : Chip) (die pool owner n : Nat) : (Chip.allocUnits c die pool owner n).2.house = c.house := by
  unfold Chip.allocUnits
  repeat' (first | with_reducible rfl | simp only [↓house_mk, ↓house_ite, ite_self, eq_self, implies_true, ↓Chip.bump_house, ↓Chip.evalLevel_house] | with_reducible refine (pair_house_tryUnits (by assumption)).trans ?_ | split)
theorem pair_house_allocUnits {c : Chip} {die pool owner n : Nat} {a} {c' : Chip} (h : Chip.allocUnits c die pool owner n = (a, c')) :
    c'.house = c.house := by
  rw [← Chip.allocUnits_house c die pool owner n, h]
theorem Chip.allocUnits_vault (c : Chip) (die pool owner n : Nat) : (Chip.allocUnits c die pool owner n).2.vault = c.vault := vault_of_house (Chip.allocUnits_house c die pool owner n)
theorem pair_vault_allocUnits {c : Chip} {die pool owner n : Nat} {a} {c' : Chip} (h : Chip.allocUnits c die pool owner n = (a, c')) :
    c'.vault = c.vault := vault_of_house (pair_house_allocUnits h)
theorem Chip.releaseUnit_house (c : Chip) (die : Nat) (pool : Nat) (u : Nat) : (Chip.releaseUnit c die pool u).house = c.house := by
  unfold Chip.releaseUnit
  repeat' (first | with_reducible rfl | simp only [↓house_mk, ↓house_ite, ite_self, eq_self, implies_true, ↓Chip.active_house, ↓Chip.evalLevel_house, ↓Chip.bankAccess_house] | split)
theorem Chip.releaseUnit_vault (c : Chip) (die : Nat) (pool : Nat) (u : Nat) : (Chip.releaseUnit c die pool u).vault = c.vault := vault_of_house (Chip.releaseUnit_house c die pool u)
theorem Chip.releaseUnits_house (c : Chip) (die pool : Nat) (us : List Nat) : (Chip.releaseUnits c die pool us).house = c.house := by
  unfold Chip.releaseUnits
  repeat' (first | with_reducible rfl | simp only [↓house_ite, ite_self, eq_self, implies_true, ↓Chip.releaseUnit_house] | with_reducible refine (keep_forAll Chip.house _ _ _ ?_).trans ?_ | intro _ _)
theorem Chip.releaseUnits_vault (c : Chip) (die pool : Nat) (us : List Nat) : (Chip.releaseUnits c die pool us).vault = c.vault := vault_of_house (Chip.releaseUnits_house c die pool us)
theorem Chip.setCell_house (c : Chip) (bd cell : Nat) (x : Cell) : (Chip.setCell c bd cell x).house = c.house := by
  simp only [Chip.setCell, ↓house_mk, ↓house_ite, ite_self, eq_self, implies_true]
theorem Chip.setCell_vault (c : Chip) (bd cell : Nat) (x : Cell) : (Chip.setCell c bd cell x).vault = c.vault := vault_of_house (Chip.setCell_house c bd cell x)
theorem Chip.openCells_house (c : Chip) (bd owner refs : Nat) (us : List Nat) : (Chip.openCells c bd owner refs us).2.house = c.house := by
  unfold Chip.openCells
  repeat' (first | with_reducible rfl | simp only [↓house_ite, ite_self, eq_self, implies_true, ↓Chip.setCell_house] | with_reducible refine (keep_foldl Chip.house _ _ _ ?_).trans ?_ | with_reducible refine (keep_fold2 Chip.house _ _ _ ?_).trans ?_ | intro _ _)
theorem pair_house_openCells {c : Chip} {bd owner refs : Nat} {us : List Nat} {a} {c' : Chip} (h : Chip.openCells c bd owner refs us = (a, c')) :
    c'.house = c.house := by
  rw [← Chip.openCells_house c bd owner refs us, h]
theorem Chip.openCells_vault (c : Chip) (bd owner refs : Nat) (us : List Nat) : (Chip.openCells c bd owner refs us).2.vault = c.vault := vault_of_house (Chip.openCells_house c bd owner refs us)
theorem pair_vault_openCells {c : Chip} {bd owner refs : Nat} {us : List Nat} {a} {c' : Chip} (h : Chip.openCells c bd owner refs us = (a, c')) :
    c'.vault = c.vault := vault_of_house (pair_house_openCells h)
theorem Chip.writeCells_house (c : Chip) (bd owner len refs : Nat) : (Chip.writeCells c bd owner len refs).2.house = c.house := by
  unfold Chip.writeCells
  repeat' (first | with_reducible rfl | simp only [↓house_mk, ↓house_ite, ite_self, eq_self, implies_true, ↓Chip.allocUnits_house, ↓Chip.openCells_house] | with_reducible refine (pair_house_allocUnits (by assumption)).trans ?_ | with_reducible refine (pair_house_openCells (by assumption)).trans ?_ | split)
theorem pair_house_writeCells {c : Chip} {bd owner len refs : Nat} {a} {c' : Chip} (h : Chip.writeCells c bd owner len refs = (a, c')) :
    c'.house = c.house := by
  rw [← Chip.writeCells_house c bd owner len refs, h]
theorem Chip.writeCells_vault (c : Chip) (bd owner len refs : Nat) : (Chip.writeCells c bd owner len refs).2.vault = c.vault := vault_of_house (Chip.writeCells_house c bd owner len refs)
theorem pair_vault_writeCells {c : Chip} {bd owner len refs : Nat} {a} {c' : Chip} (h : Chip.writeCells c bd owner len refs = (a, c')) :
    c'.vault = c.vault := vault_of_house (pair_house_writeCells h)
theorem Chip.cellDecr_house (c : Chip) (r : CellRef) : (Chip.cellDecr c r).house = c.house := by
  unfold Chip.cellDecr
  repeat' (first | with_reducible rfl | simp only [↓house_mk, ↓house_ite, ite_self, eq_self, implies_true, ↓Chip.bump_house, ↓Chip.raise_house, ↓Chip.releaseUnit_house, ↓Chip.setCell_house, ↓Chip.takeUnit_house] | split)
theorem Chip.cellDecr_vault (c : Chip) (r : CellRef) : (Chip.cellDecr c r).vault = c.vault := vault_of_house (Chip.cellDecr_house c r)
theorem Chip.setRefs_house (c : Chip) (r : CellRef) (n : Nat) : (Chip.setRefs c r n).house = c.house := by
  unfold Chip.setRefs
  repeat' (first | with_reducible rfl | simp only [↓house_mk, ↓house_ite, ite_self, eq_self, implies_true, ↓Chip.setCell_house] | split)
theorem Chip.setRefs_vault (c : Chip) (r : CellRef) (n : Nat) : (Chip.setRefs c r n).vault = c.vault := vault_of_house (Chip.setRefs_house c r n)
theorem Chip.dropCells_house (c : Chip) (rs : List CellRef) : (Chip.dropCells c rs).house = c.house := by
  unfold Chip.dropCells
  repeat' (first | with_reducible rfl | simp only [↓house_ite, ite_self, eq_self, implies_true, ↓Chip.cellDecr_house] | with_reducible refine (keep_forAll Chip.house _ _ _ ?_).trans ?_ | intro _ _)
theorem Chip.dropCells_vault (c : Chip) (rs : List CellRef) : (Chip.dropCells c rs).vault = c.vault := vault_of_house (Chip.dropCells_house c rs)

end Sys2Proof.Machine
end

