-- ==== Sys2Proof/Laws/KeepTimetable.lean ====
section
/-! SUPPORT. What the operations of Machine/Timetable.lean leave of the fuses and the flash, of the state outside the data
plane, and of the data plane. -/

set_option linter.all false

namespace Sys2Proof.Machine

theorem Chip.ttReject_house (c : Chip) : (Chip.ttReject c).house = c.house := by
  simp only [Chip.ttReject, ↓house_ite, ite_self, eq_self, implies_true, ↓Chip.bump_house]
theorem Chip.ttReject_vault (c : Chip) : (Chip.ttReject c).vault = c.vault := vault_of_house (Chip.ttReject_house c)
theorem Chip.ttReject_plane (c : Chip) : (Chip.ttReject c).plane = c.plane := by
  simp only [Chip.ttReject, ↓plane_ite, ite_self, eq_self, implies_true, ↓Chip.bump_plane]
theorem Chip.stage_house (c : Chip) (page off words v : Nat) : (Chip.stage c page off words v).house = c.house := by
  unfold Chip.stage
  repeat' (first | with_reducible rfl | simp only [↓house_ite, ite_self, eq_self, implies_true, ↓Chip.setReg_house] | with_reducible refine (keep_forAll Chip.house _ _ _ ?_).trans ?_ | intro _ _)
theorem Chip.stage_vault (c : Chip) (page off words v : Nat) : (Chip.stage c page off words v).vault = c.vault := vault_of_house (Chip.stage_house c page off words v)
theorem Chip.stage_plane (c : Chip) (page off words v : Nat) : (Chip.stage c page off words v).plane = c.plane := by
  unfold Chip.stage
  repeat' (first | with_reducible rfl | simp only [↓plane_ite, ite_self, eq_self, implies_true, ↓Chip.setReg_plane] | with_reducible refine (keep_forAll Chip.plane _ _ _ ?_).trans ?_ | intro _ _)
theorem Chip.entRead_house (c : Chip) : (Chip.entRead c).house = c.house := by
  simp only [Chip.entRead, ↓house_ite, ite_self, eq_self, implies_true, ↓Chip.setField_house, ↓Chip.stage_house]
theorem Chip.entRead_vault (c : Chip) : (Chip.entRead c).vault = c.vault := vault_of_house (Chip.entRead_house c)
theorem Chip.entRead_plane (c : Chip) : (Chip.entRead c).plane = c.plane := by
  simp only [Chip.entRead, ↓plane_ite, ite_self, eq_self, implies_true, ↓Chip.setField_plane, ↓Chip.stage_plane]
theorem Chip.entRefuse_house (c : Chip) (err : Nat) : (Chip.entRefuse c err).house = c.house := by
  simp only [Chip.entRefuse, ↓house_ite, ite_self, eq_self, implies_true, ↓Chip.setField_house, ↓Chip.ttReject_house]
theorem Chip.entRefuse_vault (c : Chip) (err : Nat) : (Chip.entRefuse c err).vault = c.vault := vault_of_house (Chip.entRefuse_house c err)
theorem Chip.entRefuse_plane (c : Chip) (err : Nat) : (Chip.entRefuse c err).plane = c.plane := by
  simp only [Chip.entRefuse, ↓plane_ite, ite_self, eq_self, implies_true, ↓Chip.setField_plane, ↓Chip.ttReject_plane]
theorem Chip.putEntry_house (c : Chip) (bank : Bool) (idx : Nat) (e : Entry) : (Chip.putEntry c bank idx e).house = c.house := by
  simp only [Chip.putEntry, ↓house_mk, ↓house_ite, ite_self, eq_self, implies_true]
theorem Chip.putEntry_vault (c : Chip) (bank : Bool) (idx : Nat) (e : Entry) : (Chip.putEntry c bank idx e).vault = c.vault := vault_of_house (Chip.putEntry_house c bank idx e)
theorem Chip.entWrite_house (c : Chip) : (Chip.entWrite c).house = c.house := by
  unfold Chip.entWrite
  repeat' (first | with_reducible rfl | simp only [↓house_ite, ite_self, eq_self, implies_true, ↓Chip.entRefuse_house, ↓Chip.putEntry_house, ↓Chip.setField_house] | split)
theorem Chip.entWrite_vault (c : Chip) : (Chip.entWrite c).vault = c.vault := vault_of_house (Chip.entWrite_house c)
theorem Chip.entInvalidate_house (c : Chip) : (Chip.entInvalidate c).house = c.house := by
  unfold Chip.entInvalidate
  repeat' (first | with_reducible rfl | simp only [↓house_ite, ite_self, eq_self, implies_true, ↓Chip.entRefuse_house, ↓Chip.putEntry_house, ↓Chip.setField_house] | split)
theorem Chip.entInvalidate_vault (c : Chip) : (Chip.entInvalidate c).vault = c.vault := vault_of_house (Chip.entInvalidate_house c)
theorem Chip.csetRead_house (c : Chip) : (Chip.csetRead c).house = c.house := by
  simp only [Chip.csetRead, ↓house_ite, ite_self, eq_self, implies_true, ↓Chip.setField_house, ↓Chip.stage_house]
theorem Chip.csetRead_vault (c : Chip) : (Chip.csetRead c).vault = c.vault := vault_of_house (Chip.csetRead_house c)
theorem Chip.csetRead_plane (c : Chip) : (Chip.csetRead c).plane = c.plane := by
  simp only [Chip.csetRead, ↓plane_ite, ite_self, eq_self, implies_true, ↓Chip.setField_plane, ↓Chip.stage_plane]
theorem Chip.csetWrite_house (c : Chip) : (Chip.csetWrite c).house = c.house := by
  unfold Chip.csetWrite
  repeat' (first | with_reducible rfl | simp only [↓house_mk, ↓house_ite, ite_self, eq_self, implies_true, ↓Chip.setField_house, ↓Chip.ttReject_house] | split)
theorem Chip.csetWrite_vault (c : Chip) : (Chip.csetWrite c).vault = c.vault := vault_of_house (Chip.csetWrite_house c)
theorem Chip.recWrite_house (c : Chip) (r : LivRecReg) (v : W32) : (Chip.recWrite c r v).house = c.house := by
  unfold Chip.recWrite
  repeat' (first | with_reducible rfl | simp only [↓house_mk, ↓house_ite, ite_self, eq_self, implies_true, ↓Chip.setFlag_house, ↓Chip.setReg_house, ↓Chip.ttReject_house] | split)
theorem Chip.recWrite_vault (c : Chip) (r : LivRecReg) (v : W32) : (Chip.recWrite c r v).vault = c.vault := vault_of_house (Chip.recWrite_house c r v)
theorem Chip.recWrite_plane (c : Chip) (r : LivRecReg) (v : W32) : (Chip.recWrite c r v).plane = c.plane := by
  unfold Chip.recWrite
  repeat' (first | with_reducible rfl | simp only [↓plane_mk, ↓plane_ite, ite_self, eq_self, implies_true, ↓Chip.setFlag_plane, ↓Chip.setReg_plane, ↓Chip.ttReject_plane] | split)
theorem Chip.setSwap_house (c : Chip) (l : Nat) (x : Option SwapSt) : (Chip.setSwap c l x).house = c.house := by
  simp only [Chip.setSwap, ↓house_mk, ↓house_ite, ite_self, eq_self, implies_true]
theorem Chip.setSwap_vault (c : Chip) (l : Nat) (x : Option SwapSt) : (Chip.setSwap c l x).vault = c.vault := vault_of_house (Chip.setSwap_house c l x)
theorem Chip.ttDisable_house (c : Chip) (l : Nat) : (Chip.ttDisable c l).house = c.house := by
  unfold Chip.ttDisable
  repeat' (first | with_reducible rfl | simp only [↓house_ite, ite_self, eq_self, implies_true, ↓Chip.setFlag_house, ↓Chip.setSwap_house] | split)
theorem Chip.ttDisable_vault (c : Chip) (l : Nat) : (Chip.ttDisable c l).vault = c.vault := vault_of_house (Chip.ttDisable_house c l)
theorem Chip.ttCtrlWrite_house (c : Chip) (v : W32) : (Chip.ttCtrlWrite c v).house = c.house := by
  unfold Chip.ttCtrlWrite
  repeat' (first | with_reducible rfl | simp only [↓house_mk, ↓house_ite, ite_self, eq_self, implies_true, ↓Chip.setFlag_house, ↓Chip.setReg_house, ↓Chip.setSwap_house, ↓Chip.ttDisable_house, ↓Chip.ttReject_house] | with_reducible refine (keep_forAll Chip.house _ _ _ ?_).trans ?_ | intro _ _ | split)
theorem Chip.ttCtrlWrite_vault (c : Chip) (v : W32) : (Chip.ttCtrlWrite c v).vault = c.vault := vault_of_house (Chip.ttCtrlWrite_house c v)
theorem Chip.swapRequest_house (c : Chip) (s : W32) : (Chip.swapRequest c s).house = c.house := by
  unfold Chip.swapRequest
  repeat' (first | with_reducible rfl | simp only [↓house_mk, ↓house_ite, ite_self, eq_self, implies_true, ↓Chip.bump_house, ↓Chip.raise_house, ↓Chip.setFlag_house, ↓Chip.setReg_house, ↓Chip.setSwap_house] | split)
theorem Chip.swapRequest_vault (c : Chip) (s : W32) : (Chip.swapRequest c s).vault = c.vault := vault_of_house (Chip.swapRequest_house c s)
theorem Chip.swapEffect_vault (c : Chip) (l : Nat) : (Chip.swapEffect c l).vault = c.vault := by
  unfold Chip.swapEffect
  repeat' (first | with_reducible rfl | simp only [↓vault_mk, ↓vault_ite, ite_self, eq_self, implies_true, ↓Chip.clearProfile_vault, ↓Chip.setFlag_vault] | split)
theorem Chip.swapEffect_plane (c : Chip) (l : Nat) : (Chip.swapEffect c l).plane = c.plane := by
  unfold Chip.swapEffect
  repeat' (first | with_reducible rfl | simp only [↓plane_mk, ↓plane_ite, ite_self, eq_self, implies_true, ↓Chip.clearProfile_plane, ↓Chip.setFlag_plane] | split)
theorem Chip.oldRelease_house (c : Chip) (l : Nat) : (Chip.oldRelease c l).house = c.house := by
  unfold Chip.oldRelease
  repeat' (first | with_reducible rfl | simp only [↓house_mk, ↓house_ite, ite_self, eq_self, implies_true, ↓Chip.setFlag_house] | split)
theorem Chip.oldRelease_vault (c : Chip) (l : Nat) : (Chip.oldRelease c l).vault = c.vault := vault_of_house (Chip.oldRelease_house c l)
theorem Chip.oldRelease_plane (c : Chip) (l : Nat) : (Chip.oldRelease c l).plane = c.plane := by
  unfold Chip.oldRelease
  repeat' (first | with_reducible rfl | simp only [↓plane_mk, ↓plane_ite, ite_self, eq_self, implies_true, ↓Chip.setFlag_plane] | split)

end Sys2Proof.Machine
end

