-- ==== Sys2Proof/Laws/KeepTraffic.lean ====
section
/-! SUPPORT. What the operations of Machine/Traffic.lean leave of the fuses and the flash, of the state outside the data
plane, and of the data plane. -/

set_option linter.all false

namespace Sys2Proof.Machine

theorem Chip.setQueueSt_house (c : Chip) (p tc : Nat) (q : QueueSt) : (Chip.setQueueSt c p tc q).house = c.house := by
  simp only [Chip.setQueueSt, ↓house_mk, ↓house_ite, ite_self, eq_self, implies_true]
theorem Chip.setQueueSt_vault (c : Chip) (p tc : Nat) (q : QueueSt) : (Chip.setQueueSt c p tc q).vault = c.vault := vault_of_house (Chip.setQueueSt_house c p tc q)
theorem Chip.watermark_house (c : Chip) (p tc d0 d1 : Nat) : (Chip.watermark c p tc d0 d1).house = c.house := by
  unfold Chip.watermark
  repeat' (first | with_reducible rfl | simp only [↓house_mk, ↓house_ite, ite_self, eq_self, implies_true, ↓Chip.bump_house, ↓Chip.raise_house, ↓Chip.setField_house, ↓Chip.setQueueSt_house, ↓Chip.setReg_house] | split)
theorem Chip.watermark_vault (c : Chip) (p tc d0 d1 : Nat) : (Chip.watermark c p tc d0 d1).vault = c.vault := vault_of_house (Chip.watermark_house c p tc d0 d1)
theorem Chip.bumpPrt_house (c : Chip) (p off : Nat) : (Chip.bumpPrt c p off).house = c.house := by
  simp only [Chip.bumpPrt, ↓house_ite, ite_self, eq_self, implies_true, ↓Chip.bump_house]
theorem Chip.bumpPrt_vault (c : Chip) (p off : Nat) : (Chip.bumpPrt c p off).vault = c.vault := vault_of_house (Chip.bumpPrt_house c p off)
theorem Chip.bumpPrt_plane (c : Chip) (p off : Nat) : (Chip.bumpPrt c p off).plane = c.plane := by
  simp only [Chip.bumpPrt, ↓plane_ite, ite_self, eq_self, implies_true, ↓Chip.bump_plane]
theorem Chip.lpiWake_house (c : Chip) (p : Nat) : (Chip.lpiWake c p).house = c.house := by
  unfold Chip.lpiWake
  repeat' (first | with_reducible rfl | simp only [↓house_mk, ↓house_ite, ite_self, eq_self, implies_true, ↓Chip.bumpPrt_house, ↓Chip.setLink_house] | split)
theorem Chip.lpiWake_vault (c : Chip) (p : Nat) : (Chip.lpiWake c p).vault = c.vault := vault_of_house (Chip.lpiWake_house c p)
theorem Chip.enqueue_house (c : Chip) (p : Nat) (m : Msg) : (Chip.enqueue c p m).house = c.house := by
  unfold Chip.enqueue
  repeat' (first | with_reducible rfl | simp only [↓house_mk, ↓house_ite, ite_self, eq_self, implies_true, ↓Chip.setEgress_house, ↓Chip.watermark_house, ↓Chip.lpiWake_house] | split)
theorem Chip.enqueue_vault (c : Chip) (p : Nat) (m : Msg) : (Chip.enqueue c p m).vault = c.vault := vault_of_house (Chip.enqueue_house c p m)
theorem Chip.voqDrop_house (c : Chip) (ms : List Msg) : (Chip.voqDrop c ms).house = c.house := by
  unfold Chip.voqDrop
  repeat' (first | with_reducible rfl | simp only [↓house_mk, ↓house_ite, ite_self, eq_self, implies_true] | with_reducible refine (keep_foldl Chip.house _ _ _ ?_).trans ?_ | with_reducible refine (keep_fold2 Chip.house _ _ _ ?_).trans ?_ | split | intro _ _ | intro _)
theorem Chip.voqDrop_vault (c : Chip) (ms : List Msg) : (Chip.voqDrop c ms).vault = c.vault := vault_of_house (Chip.voqDrop_house c ms)
theorem Chip.emptyEgress_house (c : Chip) (p : Nat) : (Chip.emptyEgress c p).house = c.house := by
  unfold Chip.emptyEgress
  repeat' (first | with_reducible rfl | simp only [↓house_mk, ↓house_ite, ite_self, eq_self, implies_true, ↓Chip.setEgress_house, ↓Chip.watermark_house, ↓Chip.voqDrop_house] | with_reducible refine (keep_forAll Chip.house _ _ _ ?_).trans ?_ | split | intro _ _ | intro _)
theorem Chip.emptyEgress_vault (c : Chip) (p : Nat) : (Chip.emptyEgress c p).vault = c.vault := vault_of_house (Chip.emptyEgress_house c p)
theorem Chip.setVoq_house (c : Chip) (k : Nat) (xs : List XItem) : (Chip.setVoq c k xs).house = c.house := by
  unfold Chip.setVoq
  repeat' (first | with_reducible rfl | simp only [↓house_mk, ↓house_ite, ite_self, eq_self, implies_true] | split)
theorem Chip.setVoq_vault (c : Chip) (k : Nat) (xs : List XItem) : (Chip.setVoq c k xs).vault = c.vault := vault_of_house (Chip.setVoq_house c k xs)
theorem Chip.pfcCheck_house (c : Chip) (p : Nat) (i : Nat) : (Chip.pfcCheck c p i).house = c.house := by
  unfold Chip.pfcCheck
  repeat' (first | with_reducible rfl | simp only [↓house_mk, ↓house_ite, ite_self, eq_self, implies_true, ↓Chip.setLink_house, ↓Chip.enqueue_house] | split)
theorem Chip.pfcCheck_vault (c : Chip) (p : Nat) (i : Nat) : (Chip.pfcCheck c p i).vault = c.vault := vault_of_house (Chip.pfcCheck_house c p i)
theorem Chip.toCrossbar_house (c : Chip) (pos : Nat) (dest : Nat) (q : Nat) (after : Nat) (m : Msg) : (Chip.toCrossbar c pos dest q after m).2.house = c.house := by
  unfold Chip.toCrossbar
  repeat' (first | with_reducible rfl | simp only [↓house_mk, ↓house_ite, ite_self, eq_self, implies_true, ↓Chip.setVoq_house, ↓Chip.pfcCheck_house] | split)
theorem pair_house_toCrossbar {c : Chip} {pos : Nat} {dest : Nat} {q : Nat} {after : Nat} {m : Msg} {a} {c' : Chip} (h : Chip.toCrossbar c pos dest q after m = (a, c')) :
    c'.house = c.house := by
  rw [← Chip.toCrossbar_house c pos dest q after m, h]
theorem Chip.toCrossbar_vault (c : Chip) (pos : Nat) (dest : Nat) (q : Nat) (after : Nat) (m : Msg) : (Chip.toCrossbar c pos dest q after m).2.vault = c.vault := vault_of_house (Chip.toCrossbar_house c pos dest q after m)
theorem pair_vault_toCrossbar {c : Chip} {pos : Nat} {dest : Nat} {q : Nat} {after : Nat} {m : Msg} {a} {c' : Chip} (h : Chip.toCrossbar c pos dest q after m = (a, c')) :
    c'.vault = c.vault := by
  rw [← Chip.toCrossbar_vault c pos dest q after m, h]
theorem Chip.setFlow_house (c : Chip) (bucket way : Nat) (e : BitVec 256) : (Chip.setFlow c bucket way e).house = c.house := by
  simp only [Chip.setFlow, ↓house_mk, ↓house_ite, ite_self, eq_self, implies_true]
theorem Chip.setFlow_vault (c : Chip) (bucket way : Nat) (e : BitVec 256) : (Chip.setFlow c bucket way e).vault = c.vault := vault_of_house (Chip.setFlow_house c bucket way e)
theorem Chip.flowLookup_house (c : Chip) (m : Msg) : (Chip.flowLookup c m).2.house = c.house := by
  unfold Chip.flowLookup
  repeat' (first | with_reducible rfl | simp only [↓house_mk, ↓house_ite, ite_self, eq_self, implies_true, ↓Chip.setFlow_house] | split)
theorem pair_house_flowLookup {c : Chip} {m : Msg} {a} {c' : Chip} (h : Chip.flowLookup c m = (a, c')) :
    c'.house = c.house := by
  rw [← Chip.flowLookup_house c m, h]
theorem Chip.flowLookup_vault (c : Chip) (m : Msg) : (Chip.flowLookup c m).2.vault = c.vault := vault_of_house (Chip.flowLookup_house c m)
theorem pair_vault_flowLookup {c : Chip} {m : Msg} {a} {c' : Chip} (h : Chip.flowLookup c m = (a, c')) :
    c'.vault = c.vault := by
  rw [← Chip.flowLookup_vault c m, h]
theorem Chip.flowRead_house (c : Chip) (d : Nat) : (Chip.flowRead c d).house = c.house := by
  unfold Chip.flowRead
  repeat' (first | with_reducible rfl | simp only [↓house_mk, ↓house_ite, ite_self, eq_self, implies_true, ↓Chip.setFlag_house, ↓Chip.stage_house] | split)
theorem Chip.flowRead_vault (c : Chip) (d : Nat) : (Chip.flowRead c d).vault = c.vault := vault_of_house (Chip.flowRead_house c d)
theorem Chip.flowRead_plane (c : Chip) (d : Nat) : (Chip.flowRead c d).plane = c.plane := by
  unfold Chip.flowRead
  repeat' (first | with_reducible rfl | simp only [↓plane_mk, ↓plane_ite, ite_self, eq_self, implies_true, ↓Chip.setFlag_plane, ↓Chip.stage_plane] | split)
theorem Chip.flowWrite_house (c : Chip) (d : Nat) : (Chip.flowWrite c d).house = c.house := by
  unfold Chip.flowWrite
  repeat' (first | with_reducible rfl | simp only [↓house_mk, ↓house_ite, ite_self, eq_self, implies_true, ↓Chip.setFlag_house, ↓Chip.setFlow_house] | split)
theorem Chip.flowWrite_vault (c : Chip) (d : Nat) : (Chip.flowWrite c d).vault = c.vault := vault_of_house (Chip.flowWrite_house c d)
theorem Chip.flowDelete_house (c : Chip) (d : Nat) : (Chip.flowDelete c d).house = c.house := by
  unfold Chip.flowDelete
  repeat' (first | with_reducible rfl | simp only [↓house_mk, ↓house_ite, ite_self, eq_self, implies_true, ↓Chip.setFlag_house, ↓Chip.setFlow_house] | split)
theorem Chip.flowDelete_vault (c : Chip) (d : Nat) : (Chip.flowDelete c d).vault = c.vault := vault_of_house (Chip.flowDelete_house c d)
theorem Chip.setShaper_house (c : Chip) (d n : Nat) (s : Shaper) : (Chip.setShaper c d n s).house = c.house := by
  simp only [Chip.setShaper, ↓house_mk, ↓house_ite, ite_self, eq_self, implies_true]
theorem Chip.setShaper_vault (c : Chip) (d n : Nat) (s : Shaper) : (Chip.setShaper c d n s).vault = c.vault := vault_of_house (Chip.setShaper_house c d n s)
theorem Chip.shaperTake_house (c : Chip) (d n bytes : Nat) : (Chip.shaperTake c d n bytes).house = c.house := by
  unfold Chip.shaperTake
  repeat' (first | with_reducible rfl | simp only [↓house_mk, ↓house_ite, ite_self, eq_self, implies_true, ↓Chip.setShaper_house] | split)
theorem Chip.shaperTake_vault (c : Chip) (d n bytes : Nat) : (Chip.shaperTake c d n bytes).vault = c.vault := vault_of_house (Chip.shaperTake_house c d n bytes)
theorem Chip.refillDie_house (c : Chip) (d : Nat) : (Chip.refillDie c d).house = c.house := by
  unfold Chip.refillDie
  repeat' (first | with_reducible rfl | simp only [↓house_mk, ↓house_ite, ite_self, eq_self, implies_true] | with_reducible refine (keep_foldl Chip.house _ _ _ ?_).trans ?_ | with_reducible refine (keep_fold2 Chip.house _ _ _ ?_).trans ?_ | split | intro _ _ | intro _)
theorem Chip.refillDie_vault (c : Chip) (d : Nat) : (Chip.refillDie c d).vault = c.vault := vault_of_house (Chip.refillDie_house c d)
theorem Chip.shaperApply_house (c : Chip) (d : Nat) : (Chip.shaperApply c d).house = c.house := by
  unfold Chip.shaperApply
  repeat' (first | with_reducible rfl | simp only [↓house_mk, ↓house_ite, ite_self, eq_self, implies_true, ↓Chip.setShaper_house] | split)
theorem Chip.shaperApply_vault (c : Chip) (d : Nat) : (Chip.shaperApply c d).vault = c.vault := vault_of_house (Chip.shaperApply_house c d)
theorem Chip.setGate_house (c : Chip) (p : Nat) (g : GateSt) : (Chip.setGate c p g).house = c.house := by
  simp only [Chip.setGate, ↓house_mk, ↓house_ite, ite_self, eq_self, implies_true]
theorem Chip.setGate_vault (c : Chip) (p : Nat) (g : GateSt) : (Chip.setGate c p g).vault = c.vault := vault_of_house (Chip.setGate_house c p g)
theorem Chip.gateUpdate_house (c : Chip) (p : Nat) : (Chip.gateUpdate c p).house = c.house := by
  unfold Chip.gateUpdate
  repeat' (first | with_reducible rfl | simp only [↓house_mk, ↓house_ite, ite_self, eq_self, implies_true, ↓Chip.setGate_house] | split)
theorem Chip.gateUpdate_vault (c : Chip) (p : Nat) : (Chip.gateUpdate c p).vault = c.vault := vault_of_house (Chip.gateUpdate_house c p)
theorem Chip.gateSwitch_house (c : Chip) (d : Nat) : (Chip.gateSwitch c d).house = c.house := by
  unfold Chip.gateSwitch
  repeat' (first | with_reducible rfl | simp only [↓house_mk, ↓house_ite, ite_self, eq_self, implies_true, ↓Chip.setGate_house] | split)
theorem Chip.gateSwitch_vault (c : Chip) (d : Nat) : (Chip.gateSwitch c d).vault = c.vault := vault_of_house (Chip.gateSwitch_house c d)
theorem Chip.gateEffect_house (c : Chip) (p : Nat) : (Chip.gateEffect c p).house = c.house := by
  unfold Chip.gateEffect
  repeat' (first | with_reducible rfl | simp only [↓house_mk, ↓house_ite, ite_self, eq_self, implies_true, ↓Chip.gateUpdate_house, ↓Chip.setGate_house] | split)
theorem Chip.gateEffect_vault (c : Chip) (p : Nat) : (Chip.gateEffect c p).vault = c.vault := vault_of_house (Chip.gateEffect_house c p)
theorem Chip.sampleClose_house (c : Chip) (d : Nat) : (Chip.sampleClose c d).house = c.house := by
  unfold Chip.sampleClose
  repeat' (first | with_reducible rfl | simp only [↓house_mk, ↓house_ite, ite_self, eq_self, implies_true, ↓Chip.setQueueSt_house, ↓Chip.setReg_house] | with_reducible refine (keep_forAll Chip.house _ _ _ ?_).trans ?_ | intro _ _ | split)
theorem Chip.sampleClose_vault (c : Chip) (d : Nat) : (Chip.sampleClose c d).vault = c.vault := vault_of_house (Chip.sampleClose_house c d)
theorem Chip.sampSeqRead_house (c : Chip) (d : Nat) : (Chip.sampSeqRead c d).house = c.house := by
  simp only [Chip.sampSeqRead, ↓house_ite, ite_self, eq_self, implies_true, ↓Chip.answer_house, ↓Chip.setReg_house]
theorem Chip.sampSeqRead_vault (c : Chip) (d : Nat) : (Chip.sampSeqRead c d).vault = c.vault := vault_of_house (Chip.sampSeqRead_house c d)
theorem Chip.sampSeqRead_plane (c : Chip) (d : Nat) : (Chip.sampSeqRead c d).plane = c.plane := by
  simp only [Chip.sampSeqRead, ↓plane_ite, ite_self, eq_self, implies_true, ↓Chip.answer_plane, ↓Chip.setReg_plane]
theorem Chip.wmClear_house (c : Chip) (d : Nat) (v : W32) (crossing : Bool) : (Chip.wmClear c d v crossing).house = c.house := by
  unfold Chip.wmClear
  repeat' (first | with_reducible rfl | simp only [↓house_mk, ↓house_ite, ite_self, eq_self, implies_true, ↓Chip.bump_house, ↓Chip.raise_house, ↓Chip.setQueueSt_house, ↓Chip.setReg_house] | split)
theorem Chip.wmClear_vault (c : Chip) (d : Nat) (v : W32) (crossing : Bool) : (Chip.wmClear c d v crossing).vault = c.vault := vault_of_house (Chip.wmClear_house c d v crossing)

end Sys2Proof.Machine
end

