-- ==== Sys2Proof/Laws/KeepRouting.lean ====
section
/-! SUPPORT. What the operations of Machine/Routing.lean leave of the fuses and the flash, of the state outside the data
plane, and of the data plane. -/

set_option linter.all false

namespace Sys2Proof.Machine

theorem Chip.handToM0_house (c : Chip) (m : Msg) : (Chip.handToM0 c m).house = c.house := by
  simp only [Chip.handToM0, ↓house_mk, ↓house_ite, ite_self, eq_self, implies_true]
theorem Chip.handToM0_vault (c : Chip) (m : Msg) : (Chip.handToM0 c m).vault = c.vault := vault_of_house (Chip.handToM0_house c m)
theorem Chip.handToM0_plane (c : Chip) (m : Msg) : (Chip.handToM0 c m).plane = c.plane := by
  simp only [Chip.handToM0, ↓plane_mk, ↓plane_ite, ite_self, eq_self, implies_true]
theorem Chip.polDiscard_house (c : Chip) (inPort : Nat) : (Chip.polDiscard c inPort).house = c.house := by
  unfold Chip.polDiscard
  repeat' (first | with_reducible rfl | simp only [↓house_ite, ite_self, eq_self, implies_true, ↓Chip.bump_house] | split)
theorem Chip.polDiscard_vault (c : Chip) (inPort : Nat) : (Chip.polDiscard c inPort).vault = c.vault := vault_of_house (Chip.polDiscard_house c inPort)
theorem Chip.polDiscard_plane (c : Chip) (inPort : Nat) : (Chip.polDiscard c inPort).plane = c.plane := by
  unfold Chip.polDiscard
  repeat' (first | with_reducible rfl | simp only [↓plane_ite, ite_self, eq_self, implies_true, ↓Chip.bump_plane] | split)
theorem Chip.routeMiss_house (c : Chip) : (Chip.routeMiss c).house = c.house := by
  simp only [Chip.routeMiss, ↓house_ite, ite_self, eq_self, implies_true, ↓Chip.bump_house]
theorem Chip.routeMiss_vault (c : Chip) : (Chip.routeMiss c).vault = c.vault := vault_of_house (Chip.routeMiss_house c)
theorem Chip.routeMiss_plane (c : Chip) : (Chip.routeMiss c).plane = c.plane := by
  simp only [Chip.routeMiss, ↓plane_ite, ite_self, eq_self, implies_true, ↓Chip.bump_plane]
theorem Chip.downDrop_house (c : Chip) : (Chip.downDrop c).house = c.house := by
  simp only [Chip.downDrop, ↓house_ite, ite_self, eq_self, implies_true, ↓Chip.bump_house]
theorem Chip.downDrop_vault (c : Chip) : (Chip.downDrop c).vault = c.vault := vault_of_house (Chip.downDrop_house c)
theorem Chip.downDrop_plane (c : Chip) : (Chip.downDrop c).plane = c.plane := by
  simp only [Chip.downDrop, ↓plane_ite, ite_self, eq_self, implies_true, ↓Chip.bump_plane]
theorem Chip.cross_house (c : Chip) (m : Msg) (dest : Nat) (q : Nat) : (Chip.cross c m dest q).2.house = c.house := by
  unfold Chip.cross
  repeat' (first | with_reducible rfl | simp only [↓house_mk, ↓house_ite, ite_self, eq_self, implies_true, ↓Chip.toCrossbar_house] | with_reducible refine (pair_house_toCrossbar (by assumption)).trans ?_ | split | intro _ _ | intro _)
theorem pair_house_cross {c : Chip} {m : Msg} {dest : Nat} {q : Nat} {a} {c' : Chip} (h : Chip.cross c m dest q = (a, c')) :
    c'.house = c.house := by
  rw [← Chip.cross_house c m dest q, h]
theorem Chip.cross_vault (c : Chip) (m : Msg) (dest : Nat) (q : Nat) : (Chip.cross c m dest q).2.vault = c.vault := vault_of_house (Chip.cross_house c m dest q)
theorem pair_vault_cross {c : Chip} {m : Msg} {dest : Nat} {q : Nat} {a} {c' : Chip} (h : Chip.cross c m dest q = (a, c')) :
    c'.vault = c.vault := by
  rw [← Chip.cross_vault c m dest q, h]
theorem Chip.holdWhole_house (c : Chip) (m : Msg) (q : Nat) (refs : Nat) : (Chip.holdWhole c m q refs).2.house = c.house := by
  unfold Chip.holdWhole
  repeat' (first | with_reducible rfl | simp only [↓house_mk, ↓house_ite, ite_self, eq_self, implies_true, ↓Chip.writeCells_house, ↓Chip.setRefs_house, ↓Chip.polDiscard_house, ↓Chip.cross_house] | with_reducible refine (pair_house_writeCells (by assumption)).trans ?_ | with_reducible refine (pair_house_cross (by assumption)).trans ?_ | with_reducible refine (keep_forAll Chip.house _ _ _ ?_).trans ?_ | split | intro _ _ | intro _)
theorem pair_house_holdWhole {c : Chip} {m : Msg} {q : Nat} {refs : Nat} {a} {c' : Chip} (h : Chip.holdWhole c m q refs = (a, c')) :
    c'.house = c.house := by
  rw [← Chip.holdWhole_house c m q refs, h]
theorem Chip.holdWhole_vault (c : Chip) (m : Msg) (q : Nat) (refs : Nat) : (Chip.holdWhole c m q refs).2.vault = c.vault := vault_of_house (Chip.holdWhole_house c m q refs)
theorem pair_vault_holdWhole {c : Chip} {m : Msg} {q : Nat} {refs : Nat} {a} {c' : Chip} (h : Chip.holdWhole c m q refs = (a, c')) :
    c'.vault = c.vault := by
  rw [← Chip.holdWhole_vault c m q refs, h]
theorem Chip.deliver_house (c : Chip) (q : Nat) (m : Msg) : (Chip.deliver c q m).house = c.house := by
  unfold Chip.deliver
  repeat' (first | with_reducible rfl | simp only [↓house_mk, ↓house_ite, ite_self, eq_self, implies_true, ↓Chip.enqueue_house, ↓Chip.cross_house] | with_reducible refine (pair_house_cross (by assumption)).trans ?_ | split | intro _ _ | intro _)
theorem Chip.deliver_vault (c : Chip) (q : Nat) (m : Msg) : (Chip.deliver c q m).vault = c.vault := vault_of_house (Chip.deliver_house c q m)
theorem Chip.setLost_house (c : Chip) (l : Nat) (x : LostSt) : (Chip.setLost c l x).house = c.house := by
  simp only [Chip.setLost, ↓house_mk, ↓house_ite, ite_self, eq_self, implies_true]
theorem Chip.setLost_vault (c : Chip) (l : Nat) (x : LostSt) : (Chip.setLost c l x).vault = c.vault := vault_of_house (Chip.setLost_house c l x)
theorem Chip.loseTarget_house (c : Chip) (l q : Nat) : (Chip.loseTarget c l q).house = c.house := by
  unfold Chip.loseTarget
  repeat' (first | with_reducible rfl | simp only [↓house_mk, ↓house_ite, ite_self, eq_self, implies_true, ↓Chip.raise_house, ↓Chip.setFlag_house, ↓Chip.setLost_house] | split)
theorem Chip.loseTarget_vault (c : Chip) (l q : Nat) : (Chip.loseTarget c l q).vault = c.vault := vault_of_house (Chip.loseTarget_house c l q)
theorem Chip.gapTarget_house (c : Chip) (l : Nat) (q : Nat) : (Chip.gapTarget c l q).house = c.house := by
  unfold Chip.gapTarget
  repeat' (first | with_reducible rfl | simp only [↓house_mk, ↓house_ite, ite_self, eq_self, implies_true, ↓Chip.setLost_house] | split)
theorem Chip.gapTarget_vault (c : Chip) (l : Nat) (q : Nat) : (Chip.gapTarget c l q).vault = c.vault := vault_of_house (Chip.gapTarget_house c l q)
theorem Chip.gapMsg_house (c : Chip) (q : Nat) (m : Msg) : (Chip.gapMsg c q m).house = c.house := by
  unfold Chip.gapMsg
  repeat' (first | with_reducible rfl | simp only [↓house_mk, ↓house_ite, ite_self, eq_self, implies_true, ↓Chip.gapTarget_house] | split)
theorem Chip.gapMsg_vault (c : Chip) (q : Nat) (m : Msg) : (Chip.gapMsg c q m).vault = c.vault := vault_of_house (Chip.gapMsg_house c q m)
theorem Chip.holdLost_house (c : Chip) (q : Nat) (m : Msg) : (Chip.holdLost c q m).house = c.house := by
  unfold Chip.holdLost
  repeat' (first | with_reducible rfl | simp only [↓house_mk, ↓house_ite, ite_self, eq_self, implies_true, ↓Chip.holdWhole_house, ↓Chip.setLost_house, ↓Chip.loseTarget_house, ↓Chip.gapTarget_house] | with_reducible refine (pair_house_holdWhole (by assumption)).trans ?_ | split | intro _ _ | intro _)
theorem Chip.holdLost_vault (c : Chip) (q : Nat) (m : Msg) : (Chip.holdLost c q m).vault = c.vault := vault_of_house (Chip.holdLost_house c q m)
theorem Chip.place_house (c : Chip) (q : Nat) (m : Msg) (tail : TailSt) : (Chip.place c q m tail).house = c.house := by
  unfold Chip.place
  repeat' (first | with_reducible rfl | simp only [↓house_mk, ↓house_ite, ite_self, eq_self, implies_true, ↓Chip.violation_house, ↓Chip.dropCells_house, ↓Chip.holdWhole_house, ↓Chip.deliver_house, ↓Chip.gapMsg_house] | with_reducible refine (pair_house_holdWhole (by assumption)).trans ?_ | split | intro _ _ | intro _)
theorem Chip.place_vault (c : Chip) (q : Nat) (m : Msg) (tail : TailSt) : (Chip.place c q m tail).vault = c.vault := vault_of_house (Chip.place_house c q m tail)
theorem Chip.mirrorDrop_house (c : Chip) : (Chip.mirrorDrop c).house = c.house := by
  simp only [Chip.mirrorDrop, ↓house_ite, ite_self, eq_self, implies_true, ↓Chip.bump_house]
theorem Chip.mirrorDrop_vault (c : Chip) : (Chip.mirrorDrop c).vault = c.vault := vault_of_house (Chip.mirrorDrop_house c)
theorem Chip.mirrorDrop_plane (c : Chip) : (Chip.mirrorDrop c).plane = c.plane := by
  simp only [Chip.mirrorDrop, ↓plane_ite, ite_self, eq_self, implies_true, ↓Chip.bump_plane]
theorem Chip.mirrorSend_house (c : Chip) (s : Nat) (egress : Bool) (bad : Bool) (lport : Nat) (stamp : Nat) (all : List Byte) : (Chip.mirrorSend c s egress bad lport stamp all).house = c.house := by
  unfold Chip.mirrorSend
  repeat' (first | with_reducible rfl | simp only [↓house_mk, ↓house_ite, ite_self, eq_self, implies_true, ↓Chip.violation_house, ↓Chip.handToM0_house, ↓Chip.routeMiss_house, ↓Chip.downDrop_house, ↓Chip.holdWhole_house, ↓Chip.deliver_house, ↓Chip.mirrorDrop_house] | with_reducible refine (pair_house_holdWhole (by assumption)).trans ?_ | split | intro _ _ | intro _)
theorem Chip.mirrorSend_vault (c : Chip) (s : Nat) (egress : Bool) (bad : Bool) (lport : Nat) (stamp : Nat) (all : List Byte) : (Chip.mirrorSend c s egress bad lport stamp all).vault = c.vault := vault_of_house (Chip.mirrorSend_house c s egress bad lport stamp all)
theorem Chip.mirrorMatch_house (c : Chip) (s : Nat) (egress : Bool) (bad : Bool) (lport : Nat) (stamp : Nat) (all : List Byte) : (Chip.mirrorMatch c s egress bad lport stamp all).house = c.house := by
  unfold Chip.mirrorMatch
  repeat' (first | with_reducible rfl | simp only [↓house_mk, ↓house_ite, ite_self, eq_self, implies_true, ↓Chip.mirrorSend_house] | split)
theorem Chip.mirrorMatch_vault (c : Chip) (s : Nat) (egress : Bool) (bad : Bool) (lport : Nat) (stamp : Nat) (all : List Byte) : (Chip.mirrorMatch c s egress bad lport stamp all).vault = c.vault := vault_of_house (Chip.mirrorMatch_house c s egress bad lport stamp all)
theorem Chip.mirrorAt_house (c : Chip) (egress : Bool) (bad : Bool) (lport : Nat) (stamp : Nat) (flow : Option Nat) (all : List Byte) : (Chip.mirrorAt c egress bad lport stamp flow all).house = c.house := by
  unfold Chip.mirrorAt
  repeat' (first | with_reducible rfl | simp only [↓house_mk, ↓house_ite, ite_self, eq_self, implies_true, ↓Chip.mirrorMatch_house] | with_reducible refine (keep_forAll Chip.house _ _ _ ?_).trans ?_ | split | intro _ _ | intro _)
theorem Chip.mirrorAt_vault (c : Chip) (egress : Bool) (bad : Bool) (lport : Nat) (stamp : Nat) (flow : Option Nat) (all : List Byte) : (Chip.mirrorAt c egress bad lport stamp flow all).vault = c.vault := vault_of_house (Chip.mirrorAt_house c egress bad lport stamp flow all)
theorem Chip.mirrorIn_house (c : Chip) (bad : Bool) (flow : Option Nat) (m : Msg) : (Chip.mirrorIn c bad flow m).house = c.house := by
  unfold Chip.mirrorIn
  repeat' (first | with_reducible rfl | simp only [↓house_mk, ↓house_ite, ite_self, eq_self, implies_true, ↓Chip.mirrorAt_house] | split)
theorem Chip.mirrorIn_vault (c : Chip) (bad : Bool) (flow : Option Nat) (m : Msg) : (Chip.mirrorIn c bad flow m).vault = c.vault := vault_of_house (Chip.mirrorIn_house c bad flow m)
theorem Chip.setDrain_house (c : Chip) (d : Option Drain) : (Chip.setDrain c d).house = c.house := by
  simp only [Chip.setDrain, ↓house_mk, ↓house_ite, ite_self, eq_self, implies_true]
theorem Chip.setDrain_vault (c : Chip) (d : Option Drain) : (Chip.setDrain c d).vault = c.vault := vault_of_house (Chip.setDrain_house c d)
theorem Chip.flowOf_house (c : Chip) (m : Msg) : (Chip.flowOf c m).2.house = c.house := by
  unfold Chip.flowOf
  repeat' (first | with_reducible rfl | simp only [↓house_mk, ↓house_ite, ite_self, eq_self, implies_true, ↓Chip.flowLookup_house] | with_reducible refine (pair_house_flowLookup (by assumption)).trans ?_ | split | intro _ _ | intro _)
theorem pair_house_flowOf {c : Chip} {m : Msg} {a} {c' : Chip} (h : Chip.flowOf c m = (a, c')) :
    c'.house = c.house := by
  rw [← Chip.flowOf_house c m, h]
theorem Chip.flowOf_vault (c : Chip) (m : Msg) : (Chip.flowOf c m).2.vault = c.vault := vault_of_house (Chip.flowOf_house c m)
theorem pair_vault_flowOf {c : Chip} {m : Msg} {a} {c' : Chip} (h : Chip.flowOf c m = (a, c')) :
    c'.vault = c.vault := by
  rw [← Chip.flowOf_vault c m, h]
theorem Chip.atDispatch_house (c : Chip) (m : Msg) (tail : TailSt) : (Chip.atDispatch c m tail).2.house = c.house := by
  unfold Chip.atDispatch
  repeat' (first | with_reducible rfl | simp only [↓house_mk, ↓house_ite, ite_self, eq_self, implies_true, ↓Chip.mirrorIn_house, ↓Chip.flowOf_house] | with_reducible refine (pair_house_flowOf (by assumption)).trans ?_ | split | intro _ _ | intro _)
theorem pair_house_atDispatch {c : Chip} {m : Msg} {tail : TailSt} {a} {c' : Chip} (h : Chip.atDispatch c m tail = (a, c')) :
    c'.house = c.house := by
  rw [← Chip.atDispatch_house c m tail, h]
theorem Chip.atDispatch_vault (c : Chip) (m : Msg) (tail : TailSt) : (Chip.atDispatch c m tail).2.vault = c.vault := vault_of_house (Chip.atDispatch_house c m tail)
theorem pair_vault_atDispatch {c : Chip} {m : Msg} {tail : TailSt} {a} {c' : Chip} (h : Chip.atDispatch c m tail = (a, c')) :
    c'.vault = c.vault := by
  rw [← Chip.atDispatch_vault c m tail, h]
theorem Chip.shaped_house (c : Chip) (m : Msg) (shaper : Option Nat) (q : Nat) (tail : TailSt) (put : Option Nat) (go : Chip → Chip) (hgo : ∀ c, (go c).house = c.house) : (Chip.shaped c m shaper q tail put go).house = c.house := by
  unfold Chip.shaped
  repeat' (first | with_reducible rfl | simp only [↓house_mk, ↓house_ite, ite_self, eq_self, implies_true, ↓Chip.bump_house, ↓Chip.dropCells_house, ↓Chip.shaperTake_house, ↓Chip.holdWhole_house, ↓Chip.gapMsg_house, ↓hgo] | with_reducible refine (pair_house_holdWhole (by assumption)).trans ?_ | split | intro _ _ | intro _)
theorem Chip.shaped_vault (c : Chip) (m : Msg) (shaper : Option Nat) (q : Nat) (tail : TailSt) (put : Option Nat) (go : Chip → Chip) (hgo : ∀ c, (go c).vault = c.vault) : (Chip.shaped c m shaper q tail put go).vault = c.vault := by
  unfold Chip.shaped
  repeat' (first | with_reducible rfl | simp only [↓vault_mk, ↓vault_sec, ↓vault_fw, ↓vault_secFw, ↓vault_ite, ite_self, eq_self, implies_true, ↓Chip.bump_vault, ↓Chip.dropCells_vault, ↓Chip.shaperTake_vault, ↓Chip.holdWhole_vault, ↓Chip.gapMsg_vault, ↓hgo] | with_reducible refine (pair_vault_holdWhole (by assumption)).trans ?_ | split | intro _ _ | intro _ | simp only [Chip.setFlag_sec, Chip.setField_sec, Chip.setReg_sec, Chip.bump_sec, Chip.setFlag_fw, Chip.setField_fw, Chip.setReg_fw, Chip.bump_fw])
theorem Chip.sendOn_house (c : Chip) (q : Nat) (m : Msg) (tail : TailSt) (lost : Bool) : (Chip.sendOn c q m tail lost).house = c.house := by
  unfold Chip.sendOn
  repeat' (first | with_reducible rfl | simp only [↓house_mk, ↓house_ite, ite_self, eq_self, implies_true, ↓Chip.dropCells_house, ↓Chip.holdLost_house, ↓Chip.place_house] | split)
theorem Chip.sendOn_vault (c : Chip) (q : Nat) (m : Msg) (tail : TailSt) (lost : Bool) : (Chip.sendOn c q m tail lost).vault = c.vault := vault_of_house (Chip.sendOn_house c q m tail lost)
theorem Chip.dispatch_house (c : Chip) (q : Nat) (m : Msg) (tail : TailSt) (fwd : Bool) (lost : Bool) : (Chip.dispatch c q m tail fwd lost).house = c.house := by
  unfold Chip.dispatch
  repeat' (first | with_reducible rfl | simp only [↓house_mk, ↓house_ite, ite_self, eq_self, implies_true, ↓Chip.bumpLnk_house, ↓Chip.dropCells_house, ↓Chip.atDispatch_house, ↓Chip.shaped_house, ↓Chip.sendOn_house] | with_reducible refine (pair_house_atDispatch (by assumption)).trans ?_ | with_reducible refine (Chip.shaped_house _ _ _ _ _ _ _ ?_).trans ?_ | split | intro _ _ | intro _)
theorem Chip.dispatch_vault (c : Chip) (q : Nat) (m : Msg) (tail : TailSt) (fwd : Bool) (lost : Bool) : (Chip.dispatch c q m tail fwd lost).vault = c.vault := vault_of_house (Chip.dispatch_house c q m tail fwd lost)
theorem Chip.routeOn_house (c : Chip) (m : Msg) (tail : TailSt) (fwd : Bool) : (Chip.routeOn c m tail fwd).house = c.house := by
  unfold Chip.routeOn
  repeat' (first | with_reducible rfl | simp only [↓house_mk, ↓house_ite, ite_self, eq_self, implies_true, ↓Chip.dropCells_house, ↓Chip.handToM0_house, ↓Chip.routeMiss_house, ↓Chip.downDrop_house, ↓Chip.atDispatch_house, ↓Chip.dispatch_house] | with_reducible refine (pair_house_atDispatch (by assumption)).trans ?_ | split | intro _ _ | intro _)
theorem Chip.routeOn_vault (c : Chip) (m : Msg) (tail : TailSt) (fwd : Bool) : (Chip.routeOn c m tail fwd).vault = c.vault := vault_of_house (Chip.routeOn_house c m tail fwd)
theorem Chip.forward_house (c : Chip) (m : Msg) (tail : TailSt) (fwd : Bool) : (Chip.forward c m tail fwd).house = c.house := by
  unfold Chip.forward
  repeat' (first | with_reducible rfl | simp only [↓house_mk, ↓house_ite, ite_self, eq_self, implies_true, ↓Chip.bump_house, ↓Chip.holdWhole_house, ↓Chip.routeOn_house, ↓Chip.setDrain_house] | with_reducible refine (pair_house_holdWhole (by assumption)).trans ?_ | split)
theorem Chip.forward_vault (c : Chip) (m : Msg) (tail : TailSt) (fwd : Bool) : (Chip.forward c m tail fwd).vault = c.vault := vault_of_house (Chip.forward_house c m tail fwd)
theorem Chip.mcLookup_house (c : Chip) (g : Nat) (inPort : Nat) : (Chip.mcLookup c g inPort).2.house = c.house := by
  unfold Chip.mcLookup
  repeat' (first | with_reducible rfl | simp only [↓house_mk, ↓house_ite, ite_self, eq_self, implies_true, ↓Chip.routeMiss_house] | split)
theorem pair_house_mcLookup {c : Chip} {g : Nat} {inPort : Nat} {a} {c' : Chip} (h : Chip.mcLookup c g inPort = (a, c')) :
    c'.house = c.house := by
  rw [← Chip.mcLookup_house c g inPort, h]
theorem Chip.mcLookup_vault (c : Chip) (g : Nat) (inPort : Nat) : (Chip.mcLookup c g inPort).2.vault = c.vault := vault_of_house (Chip.mcLookup_house c g inPort)
theorem pair_vault_mcLookup {c : Chip} {g : Nat} {inPort : Nat} {a} {c' : Chip} (h : Chip.mcLookup c g inPort = (a, c')) :
    c'.vault = c.vault := by
  rw [← Chip.mcLookup_vault c g inPort, h]
theorem Chip.mcLookup_plane (c : Chip) (g : Nat) (inPort : Nat) : (Chip.mcLookup c g inPort).2.plane = c.plane := by
  unfold Chip.mcLookup
  repeat' (first | with_reducible rfl | simp only [↓plane_mk, ↓plane_ite, ite_self, eq_self, implies_true, ↓Chip.routeMiss_plane] | split)
theorem pair_plane_mcLookup {c : Chip} {g : Nat} {inPort : Nat} {a} {c' : Chip} (h : Chip.mcLookup c g inPort = (a, c')) :
    c'.plane = c.plane := by
  rw [← Chip.mcLookup_plane c g inPort, h]
theorem Chip.mcCopies_house (c : Chip) (g : Nat) (liv : Nat) (inPort : Nat) : (Chip.mcCopies c g liv inPort).2.house = c.house := by
  unfold Chip.mcCopies
  repeat' (first | with_reducible rfl | simp only [↓house_mk, ↓house_ite, ite_self, eq_self, implies_true, ↓Chip.violation_house, ↓Chip.mcLookup_house] | with_reducible refine (pair_house_mcLookup (by assumption)).trans ?_ | with_reducible refine (keep_forAll Chip.house _ _ _ ?_).trans ?_ | split | intro _ _ | intro _)
theorem pair_house_mcCopies {c : Chip} {g : Nat} {liv : Nat} {inPort : Nat} {a} {c' : Chip} (h : Chip.mcCopies c g liv inPort = (a, c')) :
    c'.house = c.house := by
  rw [← Chip.mcCopies_house c g liv inPort, h]
theorem Chip.mcCopies_vault (c : Chip) (g : Nat) (liv : Nat) (inPort : Nat) : (Chip.mcCopies c g liv inPort).2.vault = c.vault := vault_of_house (Chip.mcCopies_house c g liv inPort)
theorem pair_vault_mcCopies {c : Chip} {g : Nat} {liv : Nat} {inPort : Nat} {a} {c' : Chip} (h : Chip.mcCopies c g liv inPort = (a, c')) :
    c'.vault = c.vault := by
  rw [← Chip.mcCopies_vault c g liv inPort, h]
theorem Chip.mcCopies_plane (c : Chip) (g : Nat) (liv : Nat) (inPort : Nat) : (Chip.mcCopies c g liv inPort).2.plane = c.plane := by
  unfold Chip.mcCopies
  repeat' (first | with_reducible rfl | simp only [↓plane_mk, ↓plane_ite, ite_self, eq_self, implies_true, ↓Chip.violation_plane, ↓Chip.mcLookup_plane] | with_reducible refine (pair_plane_mcLookup (by assumption)).trans ?_ | with_reducible refine (keep_forAll Chip.plane _ _ _ ?_).trans ?_ | split | intro _ _ | intro _)
theorem pair_plane_mcCopies {c : Chip} {g : Nat} {liv : Nat} {inPort : Nat} {a} {c' : Chip} (h : Chip.mcCopies c g liv inPort = (a, c')) :
    c'.plane = c.plane := by
  rw [← Chip.mcCopies_plane c g liv inPort, h]
theorem Chip.multicast_house (c : Chip) (m : Msg) (copies : List (Nat × List Byte)) : (Chip.multicast c m copies).2.house = c.house := by
  unfold Chip.multicast
  repeat' (first | with_reducible rfl | simp only [↓house_mk, ↓house_ite, ite_self, eq_self, implies_true, ↓Chip.dropCells_house, ↓Chip.holdWhole_house, ↓Chip.deliver_house] | with_reducible refine (pair_house_holdWhole (by assumption)).trans ?_ | with_reducible refine (keep_forAll Chip.house _ _ _ ?_).trans ?_ | split | intro _ _ | intro _)
theorem pair_house_multicast {c : Chip} {m : Msg} {copies : List (Nat × List Byte)} {a} {c' : Chip} (h : Chip.multicast c m copies = (a, c')) :
    c'.house = c.house := by
  rw [← Chip.multicast_house c m copies, h]
theorem Chip.multicast_vault (c : Chip) (m : Msg) (copies : List (Nat × List Byte)) : (Chip.multicast c m copies).2.vault = c.vault := vault_of_house (Chip.multicast_house c m copies)
theorem pair_vault_multicast {c : Chip} {m : Msg} {copies : List (Nat × List Byte)} {a} {c' : Chip} (h : Chip.multicast c m copies = (a, c')) :
    c'.vault = c.vault := by
  rw [← Chip.multicast_vault c m copies, h]
theorem Chip.copyOut_house (c : Chip) (m : Msg) : (Chip.copyOut c m).house = c.house := by
  unfold Chip.copyOut
  repeat' (first | with_reducible rfl | simp only [↓house_mk, ↓house_ite, ite_self, eq_self, implies_true, ↓Chip.mcCopies_house, ↓Chip.multicast_house] | with_reducible refine (pair_house_mcCopies (by assumption)).trans ?_ | with_reducible refine (pair_house_multicast (by assumption)).trans ?_ | split | intro _ _ | intro _)
theorem Chip.copyOut_vault (c : Chip) (m : Msg) : (Chip.copyOut c m).vault = c.vault := vault_of_house (Chip.copyOut_house c m)
theorem Chip.replicate_house (c : Chip) (m : Msg) (tail : TailSt) (fwd : Bool) : (Chip.replicate c m tail fwd).house = c.house := by
  unfold Chip.replicate
  repeat' (first | with_reducible rfl | simp only [↓house_mk, ↓house_ite, ite_self, eq_self, implies_true, ↓Chip.bumpLnk_house, ↓Chip.routeMiss_house, ↓Chip.atDispatch_house, ↓Chip.shaped_house, ↓Chip.mcLookup_house, ↓Chip.copyOut_house] | with_reducible refine (pair_house_atDispatch (by assumption)).trans ?_ | with_reducible refine (Chip.shaped_house _ _ _ _ _ _ _ ?_).trans ?_ | with_reducible refine (pair_house_mcLookup (by assumption)).trans ?_ | split | intro _ _ | intro _)
theorem Chip.replicate_vault (c : Chip) (m : Msg) (tail : TailSt) (fwd : Bool) : (Chip.replicate c m tail fwd).vault = c.vault := vault_of_house (Chip.replicate_house c m tail fwd)
theorem rteRefuse_house (c : Chip) (stat : Nat) : (rteRefuse c stat).house = c.house := by
  simp only [rteRefuse, ↓house_ite, ite_self, eq_self, implies_true, ↓Chip.bump_house, ↓Chip.setFlag_house]
theorem rteRefuse_vault (c : Chip) (stat : Nat) : (rteRefuse c stat).vault = c.vault := vault_of_house (rteRefuse_house c stat)
theorem rteRefuse_plane (c : Chip) (stat : Nat) : (rteRefuse c stat).plane = c.plane := by
  simp only [rteRefuse, ↓plane_ite, ite_self, eq_self, implies_true, ↓Chip.bump_plane, ↓Chip.setFlag_plane]
theorem Chip.rtRead_house (c : Chip) : (Chip.rtRead c).house = c.house := by
  simp only [Chip.rtRead, ↓house_ite, ite_self, eq_self, implies_true, ↓Chip.stage_house]
theorem Chip.rtRead_vault (c : Chip) : (Chip.rtRead c).vault = c.vault := vault_of_house (Chip.rtRead_house c)
theorem Chip.rtRead_plane (c : Chip) : (Chip.rtRead c).plane = c.plane := by
  simp only [Chip.rtRead, ↓plane_ite, ite_self, eq_self, implies_true, ↓Chip.stage_plane]
theorem Chip.rtWrite_house (c : Chip) : (Chip.rtWrite c).house = c.house := by
  unfold Chip.rtWrite
  repeat' (first | with_reducible rfl | simp only [↓house_mk, ↓house_ite, ite_self, eq_self, implies_true, ↓Chip.setFlag_house, ↓rteRefuse_house] | split)
theorem Chip.rtWrite_vault (c : Chip) : (Chip.rtWrite c).vault = c.vault := vault_of_house (Chip.rtWrite_house c)
theorem Chip.flipGroups_house (c : Chip) (first last : Nat) : (Chip.flipGroups c first last).house = c.house := by
  unfold Chip.flipGroups
  repeat' (first | with_reducible rfl | simp only [↓house_ite, ite_self, eq_self, implies_true, ↓Chip.setFlag_house] | with_reducible refine (keep_forAll Chip.house _ _ _ ?_).trans ?_ | intro _ _)
theorem Chip.flipGroups_vault (c : Chip) (first last : Nat) : (Chip.flipGroups c first last).vault = c.vault := vault_of_house (Chip.flipGroups_house c first last)
theorem Chip.flipGroups_plane (c : Chip) (first last : Nat) : (Chip.flipGroups c first last).plane = c.plane := by
  unfold Chip.flipGroups
  repeat' (first | with_reducible rfl | simp only [↓plane_ite, ite_self, eq_self, implies_true, ↓Chip.setFlag_plane] | with_reducible refine (keep_forAll Chip.plane _ _ _ ?_).trans ?_ | intro _ _)
theorem Chip.routeSwap_house (c : Chip) (v : W32) : (Chip.routeSwap c v).house = c.house := by
  unfold Chip.routeSwap
  repeat' (first | with_reducible rfl | simp only [↓house_ite, ite_self, eq_self, implies_true, ↓Chip.setDrain_house, ↓Chip.setFlag_house] | split)
theorem Chip.routeSwap_vault (c : Chip) (v : W32) : (Chip.routeSwap c v).vault = c.vault := vault_of_house (Chip.routeSwap_house c v)
theorem Chip.drainSlow_house (c : Chip) : (Chip.drainSlow c).house = c.house := by
  unfold Chip.drainSlow
  repeat' (first | with_reducible rfl | simp only [↓house_mk, ↓house_ite, ite_self, eq_self, implies_true, ↓Chip.raise_house, ↓Chip.setDrain_house, ↓Chip.setFlag_house] | split)
theorem Chip.drainSlow_vault (c : Chip) : (Chip.drainSlow c).vault = c.vault := vault_of_house (Chip.drainSlow_house c)
theorem Chip.grpRead_house (c : Chip) : (Chip.grpRead c).house = c.house := by
  simp only [Chip.grpRead, ↓house_ite, ite_self, eq_self, implies_true, ↓Chip.stage_house]
theorem Chip.grpRead_vault (c : Chip) : (Chip.grpRead c).vault = c.vault := vault_of_house (Chip.grpRead_house c)
theorem Chip.grpRead_plane (c : Chip) : (Chip.grpRead c).plane = c.plane := by
  simp only [Chip.grpRead, ↓plane_ite, ite_self, eq_self, implies_true, ↓Chip.stage_plane]
theorem Chip.grpWrite_house (c : Chip) : (Chip.grpWrite c).house = c.house := by
  unfold Chip.grpWrite
  repeat' (first | with_reducible rfl | simp only [↓house_mk, ↓house_ite, ite_self, eq_self, implies_true, ↓Chip.setFlag_house, ↓rteRefuse_house] | split)
theorem Chip.grpWrite_vault (c : Chip) : (Chip.grpWrite c).vault = c.vault := vault_of_house (Chip.grpWrite_house c)
theorem Chip.setAddr_house (c : Chip) (b w : Nat) (e : BitVec 256) : (Chip.setAddr c b w e).house = c.house := by
  simp only [Chip.setAddr, ↓house_mk, ↓house_ite, ite_self, eq_self, implies_true]
theorem Chip.setAddr_vault (c : Chip) (b w : Nat) (e : BitVec 256) : (Chip.setAddr c b w e).vault = c.vault := vault_of_house (Chip.setAddr_house c b w e)
theorem Chip.addrRead_house (c : Chip) : (Chip.addrRead c).house = c.house := by
  unfold Chip.addrRead
  repeat' (first | with_reducible rfl | simp only [↓house_mk, ↓house_ite, ite_self, eq_self, implies_true, ↓Chip.setFlag_house, ↓Chip.stage_house] | split)
theorem Chip.addrRead_vault (c : Chip) : (Chip.addrRead c).vault = c.vault := vault_of_house (Chip.addrRead_house c)
theorem Chip.addrRead_plane (c : Chip) : (Chip.addrRead c).plane = c.plane := by
  unfold Chip.addrRead
  repeat' (first | with_reducible rfl | simp only [↓plane_mk, ↓plane_ite, ite_self, eq_self, implies_true, ↓Chip.setFlag_plane, ↓Chip.stage_plane] | split)
theorem Chip.addrWrite_house (c : Chip) : (Chip.addrWrite c).house = c.house := by
  unfold Chip.addrWrite
  repeat' (first | with_reducible rfl | simp only [↓house_mk, ↓house_ite, ite_self, eq_self, implies_true, ↓Chip.bump_house, ↓Chip.setAddr_house, ↓Chip.setFlag_house, ↓rteRefuse_house] | split)
theorem Chip.addrWrite_vault (c : Chip) : (Chip.addrWrite c).vault = c.vault := vault_of_house (Chip.addrWrite_house c)
theorem Chip.addrDelete_house (c : Chip) : (Chip.addrDelete c).house = c.house := by
  unfold Chip.addrDelete
  repeat' (first | with_reducible rfl | simp only [↓house_mk, ↓house_ite, ite_self, eq_self, implies_true, ↓Chip.setAddr_house, ↓Chip.setFlag_house] | split)
theorem Chip.addrDelete_vault (c : Chip) : (Chip.addrDelete c).vault = c.vault := vault_of_house (Chip.addrDelete_house c)
theorem Chip.gridWrite_house (c : Chip) (v : W32) : (Chip.gridWrite c v).house = c.house := by
  simp only [Chip.gridWrite, ↓house_ite, ite_self, eq_self, implies_true, ↓Chip.setReg_house]
theorem Chip.gridWrite_vault (c : Chip) (v : W32) : (Chip.gridWrite c v).vault = c.vault := vault_of_house (Chip.gridWrite_house c v)
theorem Chip.gridWrite_plane (c : Chip) (v : W32) : (Chip.gridWrite c v).plane = c.plane := by
  simp only [Chip.gridWrite, ↓plane_ite, ite_self, eq_self, implies_true, ↓Chip.setReg_plane]
theorem Chip.restoreLivery_house (c : Chip) (l : Nat) : (Chip.restoreLivery c l).house = c.house := by
  unfold Chip.restoreLivery
  repeat' (first | with_reducible rfl | simp only [↓house_mk, ↓house_ite, ite_self, eq_self, implies_true, ↓Chip.setFlag_house, ↓Chip.raise_house, ↓Chip.setLost_house, ↓Chip.place_house] | with_reducible refine (keep_forAll Chip.house _ _ _ ?_).trans ?_ | split | intro _ _ | intro _)
theorem Chip.restoreLivery_vault (c : Chip) (l : Nat) : (Chip.restoreLivery c l).vault = c.vault := vault_of_house (Chip.restoreLivery_house c l)
theorem Chip.restoreTargets_house (c : Chip) (q : Nat) : (Chip.restoreTargets c q).house = c.house := by
  unfold Chip.restoreTargets
  repeat' (first | with_reducible rfl | simp only [↓house_ite, ite_self, eq_self, implies_true, ↓Chip.restoreLivery_house] | with_reducible refine (keep_forAll Chip.house _ _ _ ?_).trans ?_ | intro _ _)
theorem Chip.restoreTargets_vault (c : Chip) (q : Nat) : (Chip.restoreTargets c q).vault = c.vault := vault_of_house (Chip.restoreTargets_house c q)

end Sys2Proof.Machine
end

