-- ==== Sys2Proof/Laws/KeepSerdes.lean ====
section
/-! SUPPORT. What the operations of Machine/Serdes.lean leave of the fuses and the flash, of the state outside the data
plane, and of the data plane. -/

set_option linter.all false

namespace Sys2Proof.Machine

theorem Chip.setLane_house (c : Chip) (l : Nat) (x : LaneSt) : (Chip.setLane c l x).house = c.house := by
  simp only [Chip.setLane, ↓house_mk, ↓house_ite, ite_self, eq_self, implies_true]
theorem Chip.setLane_vault (c : Chip) (l : Nat) (x : LaneSt) : (Chip.setLane c l x).vault = c.vault := vault_of_house (Chip.setLane_house c l x)
theorem Chip.setSds_house (c : Chip) (l off : Nat) (v : W32) : (Chip.setSds c l off v).house = c.house := by
  simp only [Chip.setSds, ↓house_ite, ite_self, eq_self, implies_true, ↓Chip.setReg_house]
theorem Chip.setSds_vault (c : Chip) (l off : Nat) (v : W32) : (Chip.setSds c l off v).vault = c.vault := vault_of_house (Chip.setSds_house c l off v)
theorem Chip.setSds_plane (c : Chip) (l off : Nat) (v : W32) : (Chip.setSds c l off v).plane = c.plane := by
  simp only [Chip.setSds, ↓plane_ite, ite_self, eq_self, implies_true, ↓Chip.setReg_plane]
theorem Chip.bumpSds_house (c : Chip) (l off n : Nat) : (Chip.bumpSds c l off n).house = c.house := by
  simp only [Chip.bumpSds, ↓house_ite, ite_self, eq_self, implies_true, ↓Chip.bumpSat_house]
theorem Chip.bumpSds_vault (c : Chip) (l off n : Nat) : (Chip.bumpSds c l off n).vault = c.vault := vault_of_house (Chip.bumpSds_house c l off n)
theorem Chip.bumpSds_plane (c : Chip) (l off n : Nat) : (Chip.bumpSds c l off n).plane = c.plane := by
  simp only [Chip.bumpSds, ↓plane_ite, ite_self, eq_self, implies_true, ↓Chip.bumpSat_plane]
theorem Chip.setLaneFlag_house (c : Chip) (l i : Nat) (b : Bool) : (Chip.setLaneFlag c l i b).house = c.house := by
  simp only [Chip.setLaneFlag, ↓house_ite, ite_self, eq_self, implies_true, ↓Chip.setSds_house]
theorem Chip.setLaneFlag_vault (c : Chip) (l i : Nat) (b : Bool) : (Chip.setLaneFlag c l i b).vault = c.vault := vault_of_house (Chip.setLaneFlag_house c l i b)
theorem Chip.setLaneFlag_plane (c : Chip) (l i : Nat) (b : Bool) : (Chip.setLaneFlag c l i b).plane = c.plane := by
  simp only [Chip.setLaneFlag, ↓plane_ite, ite_self, eq_self, implies_true, ↓Chip.setSds_plane]
theorem Chip.setLaneTrain_house (c : Chip) (l v : Nat) : (Chip.setLaneTrain c l v).house = c.house := by
  simp only [Chip.setLaneTrain, ↓house_ite, ite_self, eq_self, implies_true, ↓Chip.setSds_house]
theorem Chip.setLaneTrain_vault (c : Chip) (l v : Nat) : (Chip.setLaneTrain c l v).vault = c.vault := vault_of_house (Chip.setLaneTrain_house c l v)
theorem Chip.setLaneTrain_plane (c : Chip) (l v : Nat) : (Chip.setLaneTrain c l v).plane = c.plane := by
  simp only [Chip.setLaneTrain, ↓plane_ite, ite_self, eq_self, implies_true, ↓Chip.setSds_plane]
theorem Chip.setSynth_house (c : Chip) (pp : Nat) (x : SynthSt) : (Chip.setSynth c pp x).house = c.house := by
  simp only [Chip.setSynth, ↓house_mk, ↓house_ite, ite_self, eq_self, implies_true]
theorem Chip.setSynth_vault (c : Chip) (pp : Nat) (x : SynthSt) : (Chip.setSynth c pp x).vault = c.vault := vault_of_house (Chip.setSynth_house c pp x)
theorem Chip.openSettle_house (c : Chip) (l : Nat) : (Chip.openSettle c l).house = c.house := by
  unfold Chip.openSettle
  repeat' (first | with_reducible rfl | simp only [↓house_mk, ↓house_ite, ite_self, eq_self, implies_true, ↓Chip.setLane_house, ↓Chip.setSds_house, ↓Chip.setLaneFlag_house] | split)
theorem Chip.openSettle_vault (c : Chip) (l : Nat) : (Chip.openSettle c l).vault = c.vault := vault_of_house (Chip.openSettle_house c l)
theorem Chip.precodeUpdate_house (c : Chip) (l : Nat) : (Chip.precodeUpdate c l).house = c.house := by
  unfold Chip.precodeUpdate
  repeat' (first | with_reducible rfl | simp only [↓house_ite, ite_self, eq_self, implies_true, ↓Chip.openSettle_house, ↓Chip.setLaneFlag_house] | split)
theorem Chip.precodeUpdate_vault (c : Chip) (l : Nat) : (Chip.precodeUpdate c l).vault = c.vault := vault_of_house (Chip.precodeUpdate_house c l)
theorem Chip.injBurst_house (c : Chip) (l : Nat) (first : Bool) : (Chip.injBurst c l first).house = c.house := by
  unfold Chip.injBurst
  repeat' (first | with_reducible rfl | simp only [↓house_mk, ↓house_ite, ite_self, eq_self, implies_true, ↓Chip.takeFresh_house, ↓Chip.setLane_house] | with_reducible refine (pair_house_takeFresh (by assumption)).trans ?_ | split | intro _ _ | intro _)
theorem Chip.injBurst_vault (c : Chip) (l : Nat) (first : Bool) : (Chip.injBurst c l first).vault = c.vault := vault_of_house (Chip.injBurst_house c l first)
theorem Chip.injStart_house (c : Chip) (l : Nat) : (Chip.injStart c l).house = c.house := by
  unfold Chip.injStart
  repeat' (first | with_reducible rfl | simp only [↓house_mk, ↓house_ite, ite_self, eq_self, implies_true, ↓Chip.setLane_house, ↓Chip.injBurst_house] | split)
theorem Chip.injStart_vault (c : Chip) (l : Nat) : (Chip.injStart c l).vault = c.vault := vault_of_house (Chip.injStart_house c l)
theorem Chip.injResume_house (c : Chip) (l : Nat) : (Chip.injResume c l).house = c.house := by
  unfold Chip.injResume
  repeat' (first | with_reducible rfl | simp only [↓house_mk, ↓house_ite, ite_self, eq_self, implies_true, ↓Chip.injBurst_house] | split)
theorem Chip.injResume_vault (c : Chip) (l : Nat) : (Chip.injResume c l).vault = c.vault := vault_of_house (Chip.injResume_house c l)
theorem Chip.laneWoken_house (c : Chip) (l : Nat) : (Chip.laneWoken c l).house = c.house := by
  unfold Chip.laneWoken
  repeat' (first | with_reducible rfl | simp only [↓house_mk, ↓house_ite, ite_self, eq_self, implies_true, ↓Chip.setLane_house, ↓Chip.setLaneFlag_house] | split)
theorem Chip.laneWoken_vault (c : Chip) (l : Nat) : (Chip.laneWoken c l).vault = c.vault := vault_of_house (Chip.laneWoken_house c l)
theorem Chip.laneStart_house (c : Chip) (l : Nat) : (Chip.laneStart c l).house = c.house := by
  unfold Chip.laneStart
  repeat' (first | with_reducible rfl | simp only [↓house_mk, ↓house_ite, ite_self, eq_self, implies_true, ↓Chip.setLaneFlag_house, ↓Chip.setLaneTrain_house, ↓Chip.injResume_house, ↓Chip.laneWoken_house] | split)
theorem Chip.laneStart_vault (c : Chip) (l : Nat) : (Chip.laneStart c l).vault = c.vault := vault_of_house (Chip.laneStart_house c l)
theorem Chip.laneIdle_house (c : Chip) (l : Nat) : (Chip.laneIdle c l).house = c.house := by
  simp only [Chip.laneIdle, ↓house_ite, ite_self, eq_self, implies_true, ↓Chip.setLaneFlag_house, ↓Chip.setLaneTrain_house]
theorem Chip.laneIdle_vault (c : Chip) (l : Nat) : (Chip.laneIdle c l).vault = c.vault := vault_of_house (Chip.laneIdle_house c l)
theorem Chip.laneIdle_plane (c : Chip) (l : Nat) : (Chip.laneIdle c l).plane = c.plane := by
  simp only [Chip.laneIdle, ↓plane_ite, ite_self, eq_self, implies_true, ↓Chip.setLaneFlag_plane, ↓Chip.setLaneTrain_plane]
theorem Chip.laneUpdate_house (c : Chip) (l : Nat) : (Chip.laneUpdate c l).house = c.house := by
  unfold Chip.laneUpdate
  repeat' (first | with_reducible rfl | simp only [↓house_mk, ↓house_ite, ite_self, eq_self, implies_true, ↓Chip.setLaneFlag_house, ↓Chip.laneStart_house, ↓Chip.laneIdle_house] | split)
theorem Chip.laneUpdate_vault (c : Chip) (l : Nat) : (Chip.laneUpdate c l).vault = c.vault := vault_of_house (Chip.laneUpdate_house c l)
theorem Chip.synthSettle_house (c : Chip) (pp : Nat) : (Chip.synthSettle c pp).house = c.house := by
  unfold Chip.synthSettle
  repeat' (first | with_reducible rfl | simp only [↓house_ite, ite_self, eq_self, implies_true, ↓Chip.laneUpdate_house, ↓Chip.setLaneFlag_house, ↓Chip.setSynth_house] | with_reducible refine (keep_forAll Chip.house _ _ _ ?_).trans ?_ | intro _ _)
theorem Chip.synthSettle_vault (c : Chip) (pp : Nat) : (Chip.synthSettle c pp).vault = c.vault := vault_of_house (Chip.synthSettle_house c pp)
theorem Chip.synthLock_house (c : Chip) (pp : Nat) : (Chip.synthLock c pp).house = c.house := by
  unfold Chip.synthLock
  repeat' (first | with_reducible rfl | simp only [↓house_ite, ite_self, eq_self, implies_true, ↓Chip.setLaneFlag_house, ↓Chip.setSynth_house] | with_reducible refine (keep_forAll Chip.house _ _ _ ?_).trans ?_ | intro _ _ | split)
theorem Chip.synthLock_vault (c : Chip) (pp : Nat) : (Chip.synthLock c pp).vault = c.vault := vault_of_house (Chip.synthLock_house c pp)
theorem Chip.synthCal_house (c : Chip) (pp : Nat) : (Chip.synthCal c pp).house = c.house := by
  unfold Chip.synthCal
  repeat' (first | with_reducible rfl | simp only [↓house_ite, ite_self, eq_self, implies_true, ↓Chip.laneUpdate_house, ↓Chip.setLaneFlag_house, ↓Chip.setSynth_house] | with_reducible refine (keep_forAll Chip.house _ _ _ ?_).trans ?_ | intro _ _ | split)
theorem Chip.synthCal_vault (c : Chip) (pp : Nat) : (Chip.synthCal c pp).vault = c.vault := vault_of_house (Chip.synthCal_house c pp)
theorem Chip.synthTimeout_house (c : Chip) (pp : Nat) : (Chip.synthTimeout c pp).house = c.house := by
  unfold Chip.synthTimeout
  repeat' (first | with_reducible rfl | simp only [↓house_ite, ite_self, eq_self, implies_true, ↓Chip.raise_house, ↓Chip.setLaneFlag_house] | with_reducible refine (keep_forAll Chip.house _ _ _ ?_).trans ?_ | intro _ _ | split)
theorem Chip.synthTimeout_vault (c : Chip) (pp : Nat) : (Chip.synthTimeout c pp).vault = c.vault := vault_of_house (Chip.synthTimeout_house c pp)
theorem Chip.synthTimeout_plane (c : Chip) (pp : Nat) : (Chip.synthTimeout c pp).plane = c.plane := by
  unfold Chip.synthTimeout
  repeat' (first | with_reducible rfl | simp only [↓plane_ite, ite_self, eq_self, implies_true, ↓Chip.raise_plane, ↓Chip.setLaneFlag_plane] | with_reducible refine (keep_forAll Chip.plane _ _ _ ?_).trans ?_ | intro _ _ | split)
theorem Chip.trainDone_house (c : Chip) (l : Nat) (ok : Bool) (taps : W32) (preTx : Bool) (preRx : Bool) : (Chip.trainDone c l ok taps preTx preRx).house = c.house := by
  unfold Chip.trainDone
  repeat' (first | with_reducible rfl | simp only [↓house_mk, ↓house_ite, ite_self, eq_self, implies_true, ↓Chip.raise_house, ↓Chip.setLane_house, ↓Chip.setSds_house, ↓Chip.setLaneTrain_house, ↓Chip.openSettle_house, ↓Chip.precodeUpdate_house, ↓Chip.injResume_house] | split)
theorem Chip.trainDone_vault (c : Chip) (l : Nat) (ok : Bool) (taps : W32) (preTx : Bool) (preRx : Bool) : (Chip.trainDone c l ok taps preTx preRx).vault = c.vault := vault_of_house (Chip.trainDone_house c l ok taps preTx preRx)
theorem Chip.trainRetry_house (c : Chip) (l : Nat) : (Chip.trainRetry c l).house = c.house := by
  unfold Chip.trainRetry
  repeat' (first | with_reducible rfl | simp only [↓house_ite, ite_self, eq_self, implies_true, ↓Chip.setLaneTrain_house] | split)
theorem Chip.trainRetry_vault (c : Chip) (l : Nat) : (Chip.trainRetry c l).vault = c.vault := vault_of_house (Chip.trainRetry_house c l)
theorem Chip.trainRetry_plane (c : Chip) (l : Nat) : (Chip.trainRetry c l).plane = c.plane := by
  unfold Chip.trainRetry
  repeat' (first | with_reducible rfl | simp only [↓plane_ite, ite_self, eq_self, implies_true, ↓Chip.setLaneTrain_plane] | split)
theorem Chip.txEqWrite_house (c : Chip) (l : Nat) (v : W32) : (Chip.txEqWrite c l v).house = c.house := by
  unfold Chip.txEqWrite
  repeat' (first | with_reducible rfl | simp only [↓house_ite, ite_self, eq_self, implies_true, ↓Chip.setSds_house] | split)
theorem Chip.txEqWrite_vault (c : Chip) (l : Nat) (v : W32) : (Chip.txEqWrite c l v).vault = c.vault := vault_of_house (Chip.txEqWrite_house c l v)
theorem Chip.txEqWrite_plane (c : Chip) (l : Nat) (v : W32) : (Chip.txEqWrite c l v).plane = c.plane := by
  unfold Chip.txEqWrite
  repeat' (first | with_reducible rfl | simp only [↓plane_ite, ite_self, eq_self, implies_true, ↓Chip.setSds_plane] | split)
theorem Chip.rxSymbols_house (c : Chip) (l : Nat) (ys : List (BitVec 2)) : (Chip.rxSymbols c l ys).house = c.house := by
  unfold Chip.rxSymbols
  repeat' (first | with_reducible rfl | simp only [↓house_mk, ↓house_ite, ite_self, eq_self, implies_true, ↓Chip.setLane_house, ↓Chip.setSds_house, ↓Chip.bumpSds_house, ↓Chip.setLaneFlag_house] | with_reducible refine (keep_foldl Chip.house _ _ _ ?_).trans ?_ | with_reducible refine (keep_fold2 Chip.house _ _ _ ?_).trans ?_ | split | intro _ _ | intro _)
theorem Chip.rxSymbols_vault (c : Chip) (l : Nat) (ys : List (BitVec 2)) : (Chip.rxSymbols c l ys).vault = c.vault := vault_of_house (Chip.rxSymbols_house c l ys)
theorem Chip.eyeEnd_house (c : Chip) (l : Nat) (u : BitVec 6) (m : BitVec 6) (lo : BitVec 6) (w : BitVec 6) (ys : List (BitVec 2)) : (Chip.eyeEnd c l u m lo w ys).house = c.house := by
  unfold Chip.eyeEnd
  repeat' (first | with_reducible rfl | simp only [↓house_mk, ↓house_ite, ite_self, eq_self, implies_true, ↓Chip.setLane_house, ↓Chip.setSds_house, ↓Chip.rxSymbols_house] | split)
theorem Chip.eyeEnd_vault (c : Chip) (l : Nat) (u : BitVec 6) (m : BitVec 6) (lo : BitVec 6) (w : BitVec 6) (ys : List (BitVec 2)) : (Chip.eyeEnd c l u m lo w ys).vault = c.vault := vault_of_house (Chip.eyeEnd_house c l u m lo w ys)
theorem Chip.injGo_house (c : Chip) (l : Nat) : (Chip.injGo c l).house = c.house := by
  unfold Chip.injGo
  repeat' (first | with_reducible rfl | simp only [↓house_mk, ↓house_ite, ite_self, eq_self, implies_true, ↓Chip.setSds_house, ↓Chip.injStart_house] | split)
theorem Chip.injGo_vault (c : Chip) (l : Nat) : (Chip.injGo c l).vault = c.vault := vault_of_house (Chip.injGo_house c l)
theorem Chip.injPeriod_house (c : Chip) (l : Nat) : (Chip.injPeriod c l).house = c.house := by
  unfold Chip.injPeriod
  repeat' (first | with_reducible rfl | simp only [↓house_mk, ↓house_ite, ite_self, eq_self, implies_true, ↓Chip.injBurst_house] | split)
theorem Chip.injPeriod_vault (c : Chip) (l : Nat) : (Chip.injPeriod c l).vault = c.vault := vault_of_house (Chip.injPeriod_house c l)
theorem Chip.cntClr_house (c : Chip) (l : Nat) : (Chip.cntClr c l).house = c.house := by
  simp only [Chip.cntClr, ↓house_mk, ↓house_ite, ite_self, eq_self, implies_true, ↓Chip.setLane_house, ↓Chip.setSds_house]
theorem Chip.cntClr_vault (c : Chip) (l : Nat) : (Chip.cntClr c l).vault = c.vault := vault_of_house (Chip.cntClr_house c l)
theorem Chip.chkBitsRead_house (c : Chip) (l : Nat) : (Chip.chkBitsRead c l).house = c.house := by
  simp only [Chip.chkBitsRead, ↓house_ite, ite_self, eq_self, implies_true, ↓Chip.answer_house, ↓Chip.setSds_house]
theorem Chip.chkBitsRead_vault (c : Chip) (l : Nat) : (Chip.chkBitsRead c l).vault = c.vault := vault_of_house (Chip.chkBitsRead_house c l)
theorem Chip.chkBitsRead_plane (c : Chip) (l : Nat) : (Chip.chkBitsRead c l).plane = c.plane := by
  simp only [Chip.chkBitsRead, ↓plane_ite, ite_self, eq_self, implies_true, ↓Chip.answer_plane, ↓Chip.setSds_plane]
theorem Chip.laneStatRead_house (c : Chip) (l : Nat) : (Chip.laneStatRead c l).house = c.house := by
  unfold Chip.laneStatRead
  repeat' (first | with_reducible rfl | simp only [↓house_ite, ite_self, eq_self, implies_true, ↓Chip.answer_house, ↓Chip.setLaneFlag_house] | split)
theorem Chip.laneStatRead_vault (c : Chip) (l : Nat) : (Chip.laneStatRead c l).vault = c.vault := vault_of_house (Chip.laneStatRead_house c l)
theorem Chip.laneStatRead_plane (c : Chip) (l : Nat) : (Chip.laneStatRead c l).plane = c.plane := by
  unfold Chip.laneStatRead
  repeat' (first | with_reducible rfl | simp only [↓plane_ite, ite_self, eq_self, implies_true, ↓Chip.answer_plane, ↓Chip.setLaneFlag_plane] | split)
theorem Chip.cdrLock_house (c : Chip) (l : Nat) : (Chip.cdrLock c l).house = c.house := by
  simp only [Chip.cdrLock, ↓house_ite, ite_self, eq_self, implies_true, ↓Chip.openSettle_house, ↓Chip.setLaneFlag_house]
theorem Chip.cdrLock_vault (c : Chip) (l : Nat) : (Chip.cdrLock c l).vault = c.vault := vault_of_house (Chip.cdrLock_house c l)
theorem Chip.cdrLoss_house (c : Chip) (l : Nat) (signal : Bool) : (Chip.cdrLoss c l signal).house = c.house := by
  unfold Chip.cdrLoss
  repeat' (first | with_reducible rfl | simp only [↓house_mk, ↓house_ite, ite_self, eq_self, implies_true, ↓Chip.setLaneFlag_house] | split)
theorem Chip.cdrLoss_vault (c : Chip) (l : Nat) (signal : Bool) : (Chip.cdrLoss c l signal).vault = c.vault := vault_of_house (Chip.cdrLoss_house c l signal)
theorem Chip.cdrLoss_plane (c : Chip) (l : Nat) (signal : Bool) : (Chip.cdrLoss c l signal).plane = c.plane := by
  unfold Chip.cdrLoss
  repeat' (first | with_reducible rfl | simp only [↓plane_mk, ↓plane_ite, ite_self, eq_self, implies_true, ↓Chip.setLaneFlag_plane] | split)
theorem Chip.laneCtrlWrite_house (c : Chip) (l : Nat) (v : W32) : (Chip.laneCtrlWrite c l v).house = c.house := by
  unfold Chip.laneCtrlWrite
  repeat' (first | with_reducible rfl | simp only [↓house_ite, ite_self, eq_self, implies_true, ↓Chip.laneUpdate_house, ↓Chip.openSettle_house, ↓Chip.precodeUpdate_house, ↓Chip.setSds_house] | split)
theorem Chip.laneCtrlWrite_vault (c : Chip) (l : Nat) (v : W32) : (Chip.laneCtrlWrite c l v).vault = c.vault := vault_of_house (Chip.laneCtrlWrite_house c l v)
theorem Chip.rxEqWrite_house (c : Chip) (l : Nat) (v : W32) : (Chip.rxEqWrite c l v).house = c.house := by
  simp only [Chip.rxEqWrite, ↓house_ite, ite_self, eq_self, implies_true, ↓Chip.openSettle_house, ↓Chip.setSds_house]
theorem Chip.rxEqWrite_vault (c : Chip) (l : Nat) (v : W32) : (Chip.rxEqWrite c l v).vault = c.vault := vault_of_house (Chip.rxEqWrite_house c l v)
theorem Chip.patWrite_house (c : Chip) (l : Nat) (v : W32) : (Chip.patWrite c l v).house = c.house := by
  unfold Chip.patWrite
  repeat' (first | with_reducible rfl | simp only [↓house_mk, ↓house_ite, ite_self, eq_self, implies_true, ↓Chip.setLane_house, ↓Chip.setSds_house, ↓Chip.setLaneFlag_house, ↓Chip.openSettle_house, ↓Chip.injGo_house, ↓Chip.cntClr_house] | split)
theorem Chip.patWrite_vault (c : Chip) (l : Nat) (v : W32) : (Chip.patWrite c l v).vault = c.vault := vault_of_house (Chip.patWrite_house c l v)

end Sys2Proof.Machine
end

