-- ==== Sys2Proof/Laws/KeepLink.lean ====
section
/-! SUPPORT. What the operations of Machine/Link.lean leave of the fuses and the flash, of the state outside the data
plane, and of the data plane. -/

set_option linter.all false

namespace Sys2Proof.Machine

theorem Chip.setLnkFlag_house (c : Chip) (p i : Nat) (b : Bool) : (Chip.setLnkFlag c p i b).house = c.house := by
  simp only [Chip.setLnkFlag, ↓house_ite, ite_self, eq_self, implies_true, ↓Chip.setFlag_house]
theorem Chip.setLnkFlag_vault (c : Chip) (p i : Nat) (b : Bool) : (Chip.setLnkFlag c p i b).vault = c.vault := vault_of_house (Chip.setLnkFlag_house c p i b)
theorem Chip.setLnkFlag_plane (c : Chip) (p i : Nat) (b : Bool) : (Chip.setLnkFlag c p i b).plane = c.plane := by
  simp only [Chip.setLnkFlag, ↓plane_ite, ite_self, eq_self, implies_true, ↓Chip.setFlag_plane]
theorem Chip.sendCtl_house (c : Chip) (p : Nat) (ctype : Nat) : (Chip.sendCtl c p ctype).house = c.house := by
  unfold Chip.sendCtl
  repeat' (first | with_reducible rfl | simp only [↓house_mk, ↓house_ite, ite_self, eq_self, implies_true, ↓Chip.enqueue_house] | split)
theorem Chip.sendCtl_vault (c : Chip) (p : Nat) (ctype : Nat) : (Chip.sendCtl c p ctype).vault = c.vault := vault_of_house (Chip.sendCtl_house c p ctype)
theorem Chip.freeCredits_house (c : Chip) (p vl len : Nat) : (Chip.freeCredits c p vl len).house = c.house := by
  simp only [Chip.freeCredits, ↓house_mk, ↓house_ite, ite_self, eq_self, implies_true, ↓Chip.setLink_house]
theorem Chip.freeCredits_vault (c : Chip) (p vl len : Nat) : (Chip.freeCredits c p vl len).vault = c.vault := vault_of_house (Chip.freeCredits_house c p vl len)
theorem Chip.hdrError_house (c : Chip) (p : Nat) : (Chip.hdrError c p).house = c.house := by
  simp only [Chip.hdrError, ↓house_ite, ite_self, eq_self, implies_true, ↓Chip.bumpLnk_house, ↓Chip.raiseLim_house]
theorem Chip.hdrError_vault (c : Chip) (p : Nat) : (Chip.hdrError c p).vault = c.vault := vault_of_house (Chip.hdrError_house c p)
theorem Chip.hdrError_plane (c : Chip) (p : Nat) : (Chip.hdrError c p).plane = c.plane := by
  simp only [Chip.hdrError, ↓plane_ite, ite_self, eq_self, implies_true, ↓Chip.bumpLnk_plane, ↓Chip.raiseLim_plane]
theorem Chip.countTail_house (c : Chip) (p : Nat) (f : Frame) : (Chip.countTail c p f).house = c.house := by
  unfold Chip.countTail
  repeat' (first | with_reducible rfl | simp only [↓house_mk, ↓house_ite, ite_self, eq_self, implies_true, ↓Chip.bumpN_house, ↓Chip.bumpLnk_house] | split)
theorem Chip.countTail_vault (c : Chip) (p : Nat) (f : Frame) : (Chip.countTail c p f).vault = c.vault := vault_of_house (Chip.countTail_house c p f)
theorem Chip.countTail_plane (c : Chip) (p : Nat) (f : Frame) : (Chip.countTail c p f).plane = c.plane := by
  unfold Chip.countTail
  repeat' (first | with_reducible rfl | simp only [↓plane_mk, ↓plane_ite, ite_self, eq_self, implies_true, ↓Chip.bumpN_plane, ↓Chip.bumpLnk_plane] | split)
theorem Chip.sendNak_house (c : Chip) (p : Nat) : (Chip.sendNak c p).house = c.house := by
  simp only [Chip.sendNak, ↓house_ite, ite_self, eq_self, implies_true, ↓Chip.bumpLnk_house, ↓Chip.sendCtl_house]
theorem Chip.sendNak_vault (c : Chip) (p : Nat) : (Chip.sendNak c p).vault = c.vault := vault_of_house (Chip.sendNak_house c p)
theorem Chip.acceptSeq_house (c : Chip) (p seq : Nat) : (Chip.acceptSeq c p seq).house = c.house := by
  simp only [Chip.acceptSeq, ↓house_mk, ↓house_ite, ite_self, eq_self, implies_true, ↓Chip.setLink_house, ↓Chip.setLnkFlag_house]
theorem Chip.acceptSeq_vault (c : Chip) (p seq : Nat) : (Chip.acceptSeq c p seq).vault = c.vault := vault_of_house (Chip.acceptSeq_house c p seq)
theorem Chip.inReception_house (c : Chip) (p : Nat) (f : Frame) : (Chip.inReception c p f).house = c.house := by
  unfold Chip.inReception
  repeat' (first | with_reducible rfl | simp only [↓house_mk, ↓house_ite, ite_self, eq_self, implies_true, ↓Chip.setLink_house] | split)
theorem Chip.inReception_vault (c : Chip) (p : Nat) (f : Frame) : (Chip.inReception c p f).vault = c.vault := vault_of_house (Chip.inReception_house c p f)
theorem Chip.received_house (c : Chip) (p : Nat) (liv : Nat) (bytes : Nat) : (Chip.received c p liv bytes).house = c.house := by
  unfold Chip.received
  repeat' (first | with_reducible rfl | simp only [↓house_mk, ↓house_ite, ite_self, eq_self, implies_true, ↓Chip.setLink_house, ↓Chip.activeFrame_house] | split)
theorem Chip.received_vault (c : Chip) (p : Nat) (liv : Nat) (bytes : Nat) : (Chip.received c p liv bytes).vault = c.vault := vault_of_house (Chip.received_house c p liv bytes)
theorem Chip.verdict_house (c : Chip) (p : Nat) (f : Frame) (ok : Bool) : (Chip.verdict c p f ok).house = c.house := by
  simp only [Chip.verdict, ↓house_mk, ↓house_ite, ite_self, eq_self, implies_true, ↓Chip.setLink_house]
theorem Chip.verdict_vault (c : Chip) (p : Nat) (f : Frame) (ok : Bool) : (Chip.verdict c p f ok).vault = c.vault := vault_of_house (Chip.verdict_house c p f ok)
theorem Chip.tailCheck_house (c : Chip) (p : Nat) (f : Frame) : (Chip.tailCheck c p f).house = c.house := by
  unfold Chip.tailCheck
  repeat' (first | with_reducible rfl | simp only [↓house_mk, ↓house_ite, ite_self, eq_self, implies_true, ↓Chip.bumpLnk_house, ↓Chip.setLnkFlag_house, ↓Chip.freeCredits_house, ↓Chip.hdrError_house, ↓Chip.countTail_house, ↓Chip.sendNak_house, ↓Chip.acceptSeq_house, ↓Chip.inReception_house, ↓Chip.received_house, ↓Chip.verdict_house] | split)
theorem Chip.tailCheck_vault (c : Chip) (p : Nat) (f : Frame) : (Chip.tailCheck c p f).vault = c.vault := vault_of_house (Chip.tailCheck_house c p f)
theorem Chip.sequenced_house (c : Chip) (p : Nat) (f : Frame) : (Chip.sequenced c p f).2.house = c.house := by
  unfold Chip.sequenced
  repeat' (first | with_reducible rfl | simp only [↓house_mk, ↓house_ite, ite_self, eq_self, implies_true, ↓Chip.setLink_house, ↓Chip.tailCheck_house] | split)
theorem pair_house_sequenced {c : Chip} {p : Nat} {f : Frame} {a} {c' : Chip} (h : Chip.sequenced c p f = (a, c')) :
    c'.house = c.house := by
  rw [← Chip.sequenced_house c p f, h]
theorem Chip.sequenced_vault (c : Chip) (p : Nat) (f : Frame) : (Chip.sequenced c p f).2.vault = c.vault := vault_of_house (Chip.sequenced_house c p f)
theorem pair_vault_sequenced {c : Chip} {p : Nat} {f : Frame} {a} {c' : Chip} (h : Chip.sequenced c p f = (a, c')) :
    c'.vault = c.vault := vault_of_house (pair_house_sequenced h)
theorem Chip.ingressRead_house (c : Chip) (p : Nat) (buf : BufRead) (t : TailSt) : (Chip.ingressRead c p buf t).2.house = c.house := by
  unfold Chip.ingressRead
  repeat' (first | with_reducible rfl | simp only [↓house_mk, ↓house_ite, ite_self, eq_self, implies_true, ↓Chip.bumpN_house, ↓Chip.eccUncorr_house] | split)
theorem pair_house_ingressRead {c : Chip} {p : Nat} {buf : BufRead} {t : TailSt} {a} {c' : Chip} (h : Chip.ingressRead c p buf t = (a, c')) :
    c'.house = c.house := by
  rw [← Chip.ingressRead_house c p buf t, h]
theorem Chip.ingressRead_vault (c : Chip) (p : Nat) (buf : BufRead) (t : TailSt) : (Chip.ingressRead c p buf t).2.vault = c.vault := vault_of_house (Chip.ingressRead_house c p buf t)
theorem pair_vault_ingressRead {c : Chip} {p : Nat} {buf : BufRead} {t : TailSt} {a} {c' : Chip} (h : Chip.ingressRead c p buf t = (a, c')) :
    c'.vault = c.vault := by
  rw [← Chip.ingressRead_vault c p buf t, h]
theorem Chip.ingressRead_plane (c : Chip) (p : Nat) (buf : BufRead) (t : TailSt) : (Chip.ingressRead c p buf t).2.plane = c.plane := by
  unfold Chip.ingressRead
  repeat' (first | with_reducible rfl | simp only [↓plane_mk, ↓plane_ite, ite_self, eq_self, implies_true, ↓Chip.bumpN_plane, ↓Chip.eccUncorr_plane] | split)
theorem pair_plane_ingressRead {c : Chip} {p : Nat} {buf : BufRead} {t : TailSt} {a} {c' : Chip} (h : Chip.ingressRead c p buf t = (a, c')) :
    c'.plane = c.plane := by
  rw [← Chip.ingressRead_plane c p buf t, h]
theorem Chip.receive_house (c : Chip) (p : Nat) (f : Frame) (kind : BitVec 256 → Bool) (body : TailSt → Chip → Chip) (hbody : ∀ x0 c, (body x0 c).house = c.house) : (Chip.receive c p f kind body).house = c.house := by
  unfold Chip.receive
  repeat' (first | with_reducible rfl | simp only [↓house_mk, ↓house_ite, ite_self, eq_self, implies_true, ↓Chip.bumpLnk_house, ↓Chip.freeCredits_house, ↓Chip.hdrError_house, ↓Chip.countTail_house, ↓Chip.inReception_house, ↓Chip.received_house, ↓Chip.sequenced_house, ↓Chip.ingressRead_house, ↓hbody] | with_reducible refine (pair_house_sequenced (by assumption)).trans ?_ | with_reducible refine (pair_house_ingressRead (by assumption)).trans ?_ | split | intro _ _ | intro _)
theorem Chip.receive_vault (c : Chip) (p : Nat) (f : Frame) (kind : BitVec 256 → Bool) (body : TailSt → Chip → Chip) (hbody : ∀ x0 c, (body x0 c).vault = c.vault) : (Chip.receive c p f kind body).vault = c.vault := by
  unfold Chip.receive
  repeat' (first | with_reducible rfl | simp only [↓vault_mk, ↓vault_sec, ↓vault_fw, ↓vault_secFw, ↓vault_ite, ite_self, eq_self, implies_true, ↓Chip.bumpLnk_vault, ↓Chip.freeCredits_vault, ↓Chip.hdrError_vault, ↓Chip.countTail_vault, ↓Chip.inReception_vault, ↓Chip.received_vault, ↓Chip.sequenced_vault, ↓Chip.ingressRead_vault, ↓hbody] | with_reducible refine (pair_vault_sequenced (by assumption)).trans ?_ | with_reducible refine (pair_vault_ingressRead (by assumption)).trans ?_ | split | intro _ _ | intro _ | simp only [Chip.setFlag_sec, Chip.setField_sec, Chip.setReg_sec, Chip.bump_sec, Chip.setFlag_fw, Chip.setField_fw, Chip.setReg_fw, Chip.bump_fw])
theorem Chip.tryUp_house (c : Chip) (p : Nat) : (Chip.tryUp c p).house = c.house := by
  unfold Chip.tryUp
  repeat' (first | with_reducible rfl | simp only [↓house_mk, ↓house_ite, ite_self, eq_self, implies_true, ↓Chip.setLink_house, ↓Chip.raise_house, ↓Chip.restoreTargets_house, ↓Chip.setLnkFlag_house] | split)
theorem Chip.tryUp_vault (c : Chip) (p : Nat) : (Chip.tryUp c p).vault = c.vault := vault_of_house (Chip.tryUp_house c p)
theorem Chip.pcsAligned_house (c : Chip) (p : Nat) (marks : List PcsMark) : (Chip.pcsAligned c p marks).house = c.house := by
  unfold Chip.pcsAligned
  repeat' (first | with_reducible rfl | simp only [↓house_mk, ↓house_ite, ite_self, eq_self, implies_true, ↓Chip.setLink_house, ↓Chip.restoreTargets_house, ↓Chip.sendCtl_house, ↓Chip.tryUp_house] | split)
theorem Chip.pcsAligned_vault (c : Chip) (p : Nat) (marks : List PcsMark) : (Chip.pcsAligned c p marks).vault = c.vault := vault_of_house (Chip.pcsAligned_house c p marks)
theorem Chip.takeUpdate_house (c : Chip) (p : Nat) (b : BitVec 224) : (Chip.takeUpdate c p b).house = c.house := by
  unfold Chip.takeUpdate
  repeat' (first | with_reducible rfl | simp only [↓house_mk, ↓house_ite, ite_self, eq_self, implies_true, ↓Chip.setLink_house, ↓Chip.setEgress_house] | with_reducible refine (keep_forAll Chip.house _ _ _ ?_).trans ?_ | split | intro _ _ | intro _)
theorem Chip.takeUpdate_vault (c : Chip) (p : Nat) (b : BitVec 224) : (Chip.takeUpdate c p b).vault = c.vault := vault_of_house (Chip.takeUpdate_house c p b)
theorem Chip.ctlRx_house (c : Chip) (p : Nat) (f : Frame) (ctype : Nat) (body : BitVec 224 → Chip → Chip) (hbody : ∀ x0 c, (body x0 c).house = c.house) : (Chip.ctlRx c p f ctype body).house = c.house := by
  unfold Chip.ctlRx
  repeat' (first | with_reducible rfl | simp only [↓house_mk, ↓house_ite, ite_self, eq_self, implies_true, ↓Chip.hdrError_house, ↓Chip.countTail_house, ↓Chip.inReception_house, ↓Chip.received_house, ↓hbody] | split)
theorem Chip.ctlRx_vault (c : Chip) (p : Nat) (f : Frame) (ctype : Nat) (body : BitVec 224 → Chip → Chip) (hbody : ∀ x0 c, (body x0 c).vault = c.vault) : (Chip.ctlRx c p f ctype body).vault = c.vault := by
  unfold Chip.ctlRx
  repeat' (first | with_reducible rfl | simp only [↓vault_mk, ↓vault_sec, ↓vault_fw, ↓vault_secFw, ↓vault_ite, ite_self, eq_self, implies_true, ↓Chip.hdrError_vault, ↓Chip.countTail_vault, ↓Chip.inReception_vault, ↓Chip.received_vault, ↓hbody] | split | simp only [Chip.setFlag_sec, Chip.setField_sec, Chip.setReg_sec, Chip.bump_sec, Chip.setFlag_fw, Chip.setField_fw, Chip.setReg_fw, Chip.bump_fw])
theorem Chip.setLpiStat_house (c : Chip) (p i : Nat) (b : Bool) : (Chip.setLpiStat c p i b).house = c.house := by
  simp only [Chip.setLpiStat, ↓house_ite, ite_self, eq_self, implies_true, ↓Chip.setFlag_house]
theorem Chip.setLpiStat_vault (c : Chip) (p i : Nat) (b : Bool) : (Chip.setLpiStat c p i b).vault = c.vault := vault_of_house (Chip.setLpiStat_house c p i b)
theorem Chip.setLpiStat_plane (c : Chip) (p i : Nat) (b : Bool) : (Chip.setLpiStat c p i b).plane = c.plane := by
  simp only [Chip.setLpiStat, ↓plane_ite, ite_self, eq_self, implies_true, ↓Chip.setFlag_plane]
theorem Chip.takeInit_house (c : Chip) (p : Nat) (b : BitVec 224) : (Chip.takeInit c p b).house = c.house := by
  unfold Chip.takeInit
  repeat' (first | with_reducible rfl | simp only [↓house_mk, ↓house_ite, ite_self, eq_self, implies_true, ↓Chip.setField_house, ↓Chip.setLink_house, ↓Chip.setLnkFlag_house, ↓Chip.tryUp_house, ↓Chip.setLpiStat_house] | with_reducible refine (keep_forAll Chip.house _ _ _ ?_).trans ?_ | split | intro _ _ | intro _)
theorem Chip.takeInit_vault (c : Chip) (p : Nat) (b : BitVec 224) : (Chip.takeInit c p b).vault = c.vault := vault_of_house (Chip.takeInit_house c p b)
theorem Chip.sendUpdate_house (c : Chip) (p : Nat) : (Chip.sendUpdate c p).house = c.house := by
  simp only [Chip.sendUpdate, ↓house_mk, ↓house_ite, ite_self, eq_self, implies_true, ↓Chip.sendCtl_house, ↓Chip.setLink_house]
theorem Chip.sendUpdate_vault (c : Chip) (p : Nat) : (Chip.sendUpdate c p).vault = c.vault := vault_of_house (Chip.sendUpdate_house c p)
theorem Chip.lnkReject_house (c : Chip) (d : Nat) : (Chip.lnkReject c d).house = c.house := by
  simp only [Chip.lnkReject, ↓house_ite, ite_self, eq_self, implies_true, ↓Chip.bump_house]
theorem Chip.lnkReject_vault (c : Chip) (d : Nat) : (Chip.lnkReject c d).vault = c.vault := vault_of_house (Chip.lnkReject_house c d)
theorem Chip.lnkReject_plane (c : Chip) (d : Nat) : (Chip.lnkReject c d).plane = c.plane := by
  simp only [Chip.lnkReject, ↓plane_ite, ite_self, eq_self, implies_true, ↓Chip.bump_plane]
theorem Chip.lnkCtrlWrite_house (c : Chip) (d : Nat) (v : W32) : (Chip.lnkCtrlWrite c d v).house = c.house := by
  unfold Chip.lnkCtrlWrite
  repeat' (first | with_reducible rfl | simp only [↓house_ite, ite_self, eq_self, implies_true, ↓Chip.lnkReject_house, ↓Chip.setLink_house, ↓Chip.setReg_house] | split)
theorem Chip.lnkCtrlWrite_vault (c : Chip) (d : Nat) (v : W32) : (Chip.lnkCtrlWrite c d v).vault = c.vault := vault_of_house (Chip.lnkCtrlWrite_house c d v)
theorem Chip.vlWrite_house (c : Chip) (d vl : Nat) (v : W32) : (Chip.vlWrite c d vl v).house = c.house := by
  unfold Chip.vlWrite
  repeat' (first | with_reducible rfl | simp only [↓house_ite, ite_self, eq_self, implies_true, ↓Chip.lnkReject_house, ↓Chip.setReg_house] | with_reducible refine (keep_foldl Chip.house _ _ _ ?_).trans ?_ | with_reducible refine (keep_fold2 Chip.house _ _ _ ?_).trans ?_ | intro _ _ | split)
theorem Chip.vlWrite_vault (c : Chip) (d vl : Nat) (v : W32) : (Chip.vlWrite c d vl v).vault = c.vault := vault_of_house (Chip.vlWrite_house c d vl v)
theorem Chip.vlWrite_plane (c : Chip) (d vl : Nat) (v : W32) : (Chip.vlWrite c d vl v).plane = c.plane := by
  unfold Chip.vlWrite
  repeat' (first | with_reducible rfl | simp only [↓plane_ite, ite_self, eq_self, implies_true, ↓Chip.lnkReject_plane, ↓Chip.setReg_plane] | with_reducible refine (keep_foldl Chip.plane _ _ _ ?_).trans ?_ | with_reducible refine (keep_fold2 Chip.plane _ _ _ ?_).trans ?_ | intro _ _ | split)
theorem Chip.lpiStart_house (c : Chip) (p : Nat) : (Chip.lpiStart c p).house = c.house := by
  unfold Chip.lpiStart
  repeat' (first | with_reducible rfl | simp only [↓house_mk, ↓house_ite, ite_self, eq_self, implies_true, ↓Chip.setLink_house, ↓Chip.sendCtl_house] | split)
theorem Chip.lpiStart_vault (c : Chip) (p : Nat) : (Chip.lpiStart c p).vault = c.vault := vault_of_house (Chip.lpiStart_house c p)
theorem Chip.lpiAck_house (c : Chip) (p : Nat) (wake : Bool) : (Chip.lpiAck c p wake).house = c.house := by
  unfold Chip.lpiAck
  repeat' (first | with_reducible rfl | simp only [↓house_mk, ↓house_ite, ite_self, eq_self, implies_true, ↓Chip.setLink_house, ↓Chip.bumpPrt_house, ↓Chip.lpiWake_house, ↓Chip.setLaneFlag_house, ↓Chip.setLpiStat_house] | with_reducible refine (keep_forAll Chip.house _ _ _ ?_).trans ?_ | split | intro _ _ | intro _)
theorem Chip.lpiAck_vault (c : Chip) (p : Nat) (wake : Bool) : (Chip.lpiAck c p wake).vault = c.vault := vault_of_house (Chip.lpiAck_house c p wake)
theorem Chip.lpiNoAck_house (c : Chip) (p : Nat) : (Chip.lpiNoAck c p).house = c.house := by
  unfold Chip.lpiNoAck
  repeat' (first | with_reducible rfl | simp only [↓house_mk, ↓house_ite, ite_self, eq_self, implies_true, ↓Chip.setLink_house, ↓Chip.setEgress_house, ↓Chip.bumpPrt_house] | split)
theorem Chip.lpiNoAck_vault (c : Chip) (p : Nat) : (Chip.lpiNoAck c p).vault = c.vault := vault_of_house (Chip.lpiNoAck_house c p)
theorem Chip.lpiReq_house (c : Chip) (p : Nat) : (Chip.lpiReq c p).house = c.house := by
  unfold Chip.lpiReq
  repeat' (first | with_reducible rfl | simp only [↓house_mk, ↓house_ite, ite_self, eq_self, implies_true, ↓Chip.sendCtl_house, ↓Chip.setLane_house, ↓Chip.setLpiStat_house] | with_reducible refine (keep_forAll Chip.house _ _ _ ?_).trans ?_ | intro _ _ | split)
theorem Chip.lpiReq_vault (c : Chip) (p : Nat) : (Chip.lpiReq c p).vault = c.vault := vault_of_house (Chip.lpiReq_house c p)
theorem Chip.lpiPartnerWake_house (c : Chip) (p : Nat) : (Chip.lpiPartnerWake c p).house = c.house := by
  unfold Chip.lpiPartnerWake
  repeat' (first | with_reducible rfl | simp only [↓house_mk, ↓house_ite, ite_self, eq_self, implies_true, ↓Chip.lpiWake_house, ↓Chip.setLane_house, ↓Chip.cdrLock_house, ↓Chip.setLpiStat_house] | with_reducible refine (keep_forAll Chip.house _ _ _ ?_).trans ?_ | split | intro _ _ | intro _)
theorem Chip.lpiPartnerWake_vault (c : Chip) (p : Nat) : (Chip.lpiPartnerWake c p).vault = c.vault := vault_of_house (Chip.lpiPartnerWake_house c p)
theorem Chip.lpiRefresh_house (c : Chip) (p : Nat) : (Chip.lpiRefresh c p).house = c.house := by
  unfold Chip.lpiRefresh
  repeat' (first | with_reducible rfl | simp only [↓house_mk, ↓house_ite, ite_self, eq_self, implies_true, ↓Chip.setLink_house] | split)
theorem Chip.lpiRefresh_vault (c : Chip) (p : Nat) : (Chip.lpiRefresh c p).vault = c.vault := vault_of_house (Chip.lpiRefresh_house c p)
theorem Chip.dropOversize_house (c : Chip) (p tc s n : Nat) : (Chip.dropOversize c p tc s n).house = c.house := by
  induction n generalizing c with
  | zero => rfl
  | succ n ih =>
    unfold Chip.dropOversize
    repeat' (first | with_reducible rfl | simp only [↓house_ite, ite_self, ↓ih, ↓Chip.setEgress_house, ↓Chip.watermark_house, ↓Chip.dropCells_house, ↓Chip.bump_house, ↓Chip.raiseLim_house] | split)
theorem Chip.dropOversize_vault (c : Chip) (p tc s n : Nat) : (Chip.dropOversize c p tc s n).vault = c.vault :=
  vault_of_house (Chip.dropOversize_house c p tc s n)
theorem Chip.markWait_house (c : Chip) (p tc s : Nat) : (Chip.markWait c p tc s).house = c.house := by
  unfold Chip.markWait
  repeat' (first | with_reducible rfl | simp only [↓house_mk, ↓house_ite, ite_self, eq_self, implies_true, ↓Chip.bump_house, ↓Chip.setEgress_house] | split)
theorem Chip.markWait_vault (c : Chip) (p tc s : Nat) : (Chip.markWait c p tc s).vault = c.vault := vault_of_house (Chip.markWait_house c p tc s)
theorem Chip.gateHeads_house (c : Chip) (p : Nat) : (Chip.gateHeads c p).house = c.house := by
  unfold Chip.gateHeads
  repeat' (first | with_reducible rfl | simp only [↓house_ite, ite_self, eq_self, implies_true, ↓Chip.dropOversize_house, ↓Chip.markWait_house] | with_reducible refine (keep_forAll Chip.house _ _ _ ?_).trans ?_ | intro _ _ | split)
theorem Chip.gateHeads_vault (c : Chip) (p : Nat) : (Chip.gateHeads c p).vault = c.vault := vault_of_house (Chip.gateHeads_house c p)
theorem Chip.readCells_house (c : Chip) (m : Msg) (rd : CellRead) : (Chip.readCells c m rd).2.house = c.house := by
  unfold Chip.readCells
  repeat' (first | with_reducible rfl | simp only [↓house_mk, ↓house_ite, ite_self, eq_self, implies_true, ↓Chip.accessBanks_house, ↓Chip.eccUncorr_house] | split)
theorem pair_house_readCells {c : Chip} {m : Msg} {rd : CellRead} {a} {c' : Chip} (h : Chip.readCells c m rd = (a, c')) :
    c'.house = c.house := by
  rw [← Chip.readCells_house c m rd, h]
theorem Chip.readCells_vault (c : Chip) (m : Msg) (rd : CellRead) : (Chip.readCells c m rd).2.vault = c.vault := vault_of_house (Chip.readCells_house c m rd)
theorem pair_vault_readCells {c : Chip} {m : Msg} {rd : CellRead} {a} {c' : Chip} (h : Chip.readCells c m rd = (a, c')) :
    c'.vault = c.vault := by
  rw [← Chip.readCells_vault c m rd, h]
theorem Chip.transmit_house (c : Chip) (p : Nat) (m : Msg) : (Chip.transmit c p m).house = c.house := by
  unfold Chip.transmit
  repeat' (first | with_reducible rfl | simp only [↓house_mk, ↓house_ite, ite_self, eq_self, implies_true, ↓Chip.bumpLnk_house, ↓Chip.setEgress_house, ↓Chip.takeFresh_house, ↓Chip.mirrorAt_house] | with_reducible refine (pair_house_takeFresh (by assumption)).trans ?_ | split | intro _ _ | intro _)
theorem Chip.transmit_vault (c : Chip) (p : Nat) (m : Msg) : (Chip.transmit c p m).vault = c.vault := vault_of_house (Chip.transmit_house c p m)
theorem Chip.startWith_house (c : Chip) (p : Nat) (len : Nat) (m : Msg) : (Chip.startWith c p len m).house = c.house := by
  unfold Chip.startWith
  repeat' (first | with_reducible rfl | simp only [↓house_mk, ↓house_ite, ite_self, eq_self, implies_true, ↓Chip.setLink_house, ↓Chip.transmit_house] | split)
theorem Chip.startWith_vault (c : Chip) (p : Nat) (len : Nat) (m : Msg) : (Chip.startWith c p len m).vault = c.vault := vault_of_house (Chip.startWith_house c p len m)
theorem Chip.startFrame_house (c : Chip) (p : Nat) (m : Msg) (rd : CellRead) : (Chip.startFrame c p m rd).house = c.house := by
  unfold Chip.startFrame
  repeat' (first | with_reducible rfl | simp only [↓house_mk, ↓house_ite, ite_self, eq_self, implies_true, ↓Chip.bump_house, ↓Chip.dropCells_house, ↓Chip.gapMsg_house, ↓Chip.readCells_house, ↓Chip.startWith_house] | with_reducible refine (pair_house_readCells (by assumption)).trans ?_ | split | intro _ _ | intro _)
theorem Chip.startFrame_vault (c : Chip) (p : Nat) (m : Msg) (rd : CellRead) : (Chip.startFrame c p m rd).vault = c.vault := vault_of_house (Chip.startFrame_house c p m rd)
theorem Chip.resend_house (c : Chip) (p : Nat) (m : Msg) : (Chip.resend c p m).house = c.house := by
  unfold Chip.resend
  repeat' (first | with_reducible rfl | simp only [↓house_mk, ↓house_ite, ite_self, eq_self, implies_true, ↓Chip.setLink_house, ↓Chip.bumpLnk_house, ↓Chip.setEgress_house, ↓Chip.transmit_house] | split)
theorem Chip.resend_vault (c : Chip) (p : Nat) (m : Msg) : (Chip.resend c p m).vault = c.vault := vault_of_house (Chip.resend_house c p m)
theorem Chip.rotForget_house (c : Chip) (p : Nat) : (Chip.rotForget c p).house = c.house := by
  unfold Chip.rotForget
  repeat' (first | with_reducible rfl | simp only [↓house_mk, ↓house_ite, ite_self, eq_self, implies_true, ↓Chip.setEgress_house] | split)
theorem Chip.rotForget_vault (c : Chip) (p : Nat) : (Chip.rotForget c p).vault = c.vault := vault_of_house (Chip.rotForget_house c p)
theorem Chip.takeSub_house (c : Chip) (p : Nat) (tc : Nat) (s : Nat) (rd : CellRead) : (Chip.takeSub c p tc s rd).house = c.house := by
  unfold Chip.takeSub
  repeat' (first | with_reducible rfl | simp only [↓house_mk, ↓house_ite, ite_self, eq_self, implies_true, ↓Chip.setEgress_house, ↓Chip.setQueueSt_house, ↓Chip.watermark_house, ↓Chip.shaperTake_house, ↓Chip.startFrame_house, ↓Chip.rotForget_house] | split)
theorem Chip.takeSub_vault (c : Chip) (p : Nat) (tc : Nat) (s : Nat) (rd : CellRead) : (Chip.takeSub c p tc s rd).vault = c.vault := vault_of_house (Chip.takeSub_house c p tc s rd)
theorem Chip.startTc_house (c : Chip) (p : Nat) (rd : CellRead) : (Chip.startTc c p rd).house = c.house := by
  unfold Chip.startTc
  repeat' (first | with_reducible rfl | simp only [↓house_mk, ↓house_ite, ite_self, eq_self, implies_true, ↓Chip.setEgress_house, ↓Chip.gateHeads_house, ↓Chip.takeSub_house] | split)
theorem Chip.startTc_vault (c : Chip) (p : Nat) (rd : CellRead) : (Chip.startTc c p rd).vault = c.vault := vault_of_house (Chip.startTc_house c p rd)
theorem Chip.startData_house (c : Chip) (p : Nat) (rd : CellRead) : (Chip.startData c p rd).house = c.house := by
  unfold Chip.startData
  repeat' (first | with_reducible rfl | simp only [↓house_mk, ↓house_ite, ite_self, eq_self, implies_true, ↓Chip.setEgress_house, ↓Chip.startFrame_house, ↓Chip.startTc_house] | split)
theorem Chip.startData_vault (c : Chip) (p : Nat) (rd : CellRead) : (Chip.startData c p rd).vault = c.vault := vault_of_house (Chip.startData_house c p rd)
theorem Chip.startNext_house (c : Chip) (p : Nat) (rd : CellRead) : (Chip.startNext c p rd).house = c.house := by
  unfold Chip.startNext
  repeat' (first | with_reducible rfl | simp only [↓house_mk, ↓house_ite, ite_self, eq_self, implies_true, ↓Chip.setEgress_house, ↓Chip.startFrame_house, ↓Chip.resend_house, ↓Chip.rotForget_house, ↓Chip.startData_house] | split)
theorem Chip.startNext_vault (c : Chip) (p : Nat) (rd : CellRead) : (Chip.startNext c p rd).vault = c.vault := vault_of_house (Chip.startNext_house c p rd)
theorem Chip.frameOut_house (c : Chip) (p : Nat) (m : Msg) : (Chip.frameOut c p m).house = c.house := by
  unfold Chip.frameOut
  repeat' (first | with_reducible rfl | simp only [↓house_mk, ↓house_ite, ite_self, eq_self, implies_true, ↓Chip.setEgress_house, ↓Chip.activeFrame_house] | split)
theorem Chip.frameOut_vault (c : Chip) (p : Nat) (m : Msg) : (Chip.frameOut c p m).vault = c.vault := vault_of_house (Chip.frameOut_house c p m)
theorem Chip.portFree_house (c : Chip) (p : Nat) (rd : CellRead) : (Chip.portFree c p rd).house = c.house := by
  unfold Chip.portFree
  repeat' (first | with_reducible rfl | simp only [↓house_mk, ↓house_ite, ite_self, eq_self, implies_true, ↓Chip.setEgress_house, ↓Chip.startNext_house, ↓Chip.frameOut_house] | split)
theorem Chip.portFree_vault (c : Chip) (p : Nat) (rd : CellRead) : (Chip.portFree c p rd).vault = c.vault := vault_of_house (Chip.portFree_house c p rd)
theorem Chip.ptpTake_house (c : Chip) (p : Nat) (h : BitVec 256) (bs : List Byte) (stamp : Nat) (eth : Bool) : (Chip.ptpTake c p h bs stamp eth).house = c.house := by
  unfold Chip.ptpTake
  repeat' (first | with_reducible rfl | simp only [↓house_mk, ↓house_ite, ite_self, eq_self, implies_true, ↓Chip.takeFresh_house, ↓Chip.enqueue_house, ↓Chip.handToM0_house] | with_reducible refine (pair_house_takeFresh (by assumption)).trans ?_ | split | intro _ _ | intro _)
theorem Chip.ptpTake_vault (c : Chip) (p : Nat) (h : BitVec 256) (bs : List Byte) (stamp : Nat) (eth : Bool) : (Chip.ptpTake c p h bs stamp eth).vault = c.vault := vault_of_house (Chip.ptpTake_house c p h bs stamp eth)
theorem Chip.pfcRx_house (c : Chip) (p : Nat) (enable : BitVec 8) (quanta : BitVec 128) : (Chip.pfcRx c p enable quanta).house = c.house := by
  unfold Chip.pfcRx
  repeat' (first | with_reducible rfl | simp only [↓house_mk, ↓house_ite, ite_self, eq_self, implies_true, ↓Chip.setLink_house] | with_reducible refine (keep_foldl Chip.house _ _ _ ?_).trans ?_ | with_reducible refine (keep_fold2 Chip.house _ _ _ ?_).trans ?_ | split | intro _ _ | intro _)
theorem Chip.pfcRx_vault (c : Chip) (p : Nat) (enable : BitVec 8) (quanta : BitVec 128) : (Chip.pfcRx c p enable quanta).vault = c.vault := vault_of_house (Chip.pfcRx_house c p enable quanta)

end Sys2Proof.Machine
end

