-- ==== Sys2Proof/Laws/KeepIngress.lean ====
section
/-! SUPPORT. What the operations of Machine/Ingress.lean leave of the fuses and the flash, of the state outside the data
plane, and of the data plane. -/

set_option linter.all false

namespace Sys2Proof.Machine

theorem Chip.sendResponse_house (c : Chip) (p : Nat) (liv : Nat) (dst : Nat) (tc : Nat) (body : List Byte) : (Chip.sendResponse c p liv dst tc body).house = c.house := by
  unfold Chip.sendResponse
  repeat' (first | with_reducible rfl | simp only [↓house_mk, ↓house_ite, ite_self, eq_self, implies_true, ↓Chip.violation_house, ↓Chip.forward_house] | split)
theorem Chip.sendResponse_vault (c : Chip) (p : Nat) (liv : Nat) (dst : Nat) (tc : Nat) (body : List Byte) : (Chip.sendResponse c p liv dst tc body).vault = c.vault := vault_of_house (Chip.sendResponse_house c p liv dst tc body)
theorem Chip.tdAnswer_house (c : Chip) (p : Nat) (h : BitVec 256) (body : List Byte) : (Chip.tdAnswer c p h body).house = c.house := by
  unfold Chip.tdAnswer
  repeat' (first | with_reducible rfl | simp only [↓house_mk, ↓house_ite, ite_self, eq_self, implies_true, ↓Chip.sendResponse_house] | split)
theorem Chip.tdAnswer_vault (c : Chip) (p : Nat) (h : BitVec 256) (body : List Byte) : (Chip.tdAnswer c p h body).vault = c.vault := vault_of_house (Chip.tdAnswer_house c p h body)
theorem Chip.tdDiscard_house (c : Chip) (p : Nat) (h : BitVec 256) (body : List Byte) : (Chip.tdDiscard c p h body).house = c.house := by
  unfold Chip.tdDiscard
  repeat' (first | with_reducible rfl | simp only [↓house_mk, ↓house_ite, ite_self, eq_self, implies_true, ↓Chip.bump_house, ↓Chip.tdAnswer_house] | split)
theorem Chip.tdDiscard_vault (c : Chip) (p : Nat) (h : BitVec 256) (body : List Byte) : (Chip.tdDiscard c p h body).vault = c.vault := vault_of_house (Chip.tdDiscard_house c p h body)
theorem Chip.step5_house (c : Chip) (p : Nat) (h : BitVec 256) (body : List Byte) (badWb : Bool) (k : Chip → Chip) (hk : ∀ c, (k c).house = c.house) : (Chip.step5 c p h body badWb k).house = c.house := by
  unfold Chip.step5
  repeat' (first | with_reducible rfl | simp only [↓house_mk, ↓house_ite, ite_self, eq_self, implies_true, ↓Chip.violation_house, ↓Chip.tdDiscard_house, ↓hk] | split)
theorem Chip.step5_vault (c : Chip) (p : Nat) (h : BitVec 256) (body : List Byte) (badWb : Bool) (k : Chip → Chip) (hk : ∀ c, (k c).vault = c.vault) : (Chip.step5 c p h body badWb k).vault = c.vault := by
  unfold Chip.step5
  repeat' (first | with_reducible rfl | simp only [↓vault_mk, ↓vault_sec, ↓vault_fw, ↓vault_secFw, ↓vault_ite, ite_self, eq_self, implies_true, ↓Chip.violation_vault, ↓Chip.tdDiscard_vault, ↓hk] | split | simp only [Chip.setFlag_sec, Chip.setField_sec, Chip.setReg_sec, Chip.bump_sec, Chip.setFlag_fw, Chip.setField_fw, Chip.setReg_fw, Chip.bump_fw])
theorem Chip.forwardAny_house (c : Chip) (p : Nat) (f : Frame) (age : Nat) (tail : TailSt) : (Chip.forwardAny c p f age tail).house = c.house := by
  unfold Chip.forwardAny
  repeat' (first | with_reducible rfl | simp only [↓house_mk, ↓house_ite, ite_self, eq_self, implies_true, ↓Chip.forward_house, ↓Chip.replicate_house] | split)
theorem Chip.forwardAny_vault (c : Chip) (p : Nat) (f : Frame) (age : Nat) (tail : TailSt) : (Chip.forwardAny c p f age tail).vault = c.vault := vault_of_house (Chip.forwardAny_house c p f age tail)
theorem Chip.forwardRx_house (c : Chip) (p : Nat) (f : Frame) (age : Nat) (kind : BitVec 256 → Bool) : (Chip.forwardRx c p f age kind).house = c.house := by
  unfold Chip.forwardRx
  repeat' (first | with_reducible rfl | simp only [↓house_ite, ite_self, eq_self, implies_true, ↓Chip.forwardAny_house, ↓Chip.receive_house, ↓Chip.step5_house] | with_reducible refine (Chip.receive_house _ _ _ _ _ ?_).trans ?_ | intro _ _ | intro _ | with_reducible refine (Chip.step5_house _ _ _ _ _ _ ?_).trans ?_ | intro _ _ | intro _)
theorem Chip.forwardRx_vault (c : Chip) (p : Nat) (f : Frame) (age : Nat) (kind : BitVec 256 → Bool) : (Chip.forwardRx c p f age kind).vault = c.vault := vault_of_house (Chip.forwardRx_house c p f age kind)
theorem Chip.memoryRx_house (c : Chip) (p : Nat) (f : Frame) (age : Nat) : (Chip.memoryRx c p f age).house = c.house := by
  unfold Chip.memoryRx
  repeat' (first | with_reducible rfl | simp only [↓house_ite, ite_self, eq_self, implies_true, ↓Chip.bumpLnk_house, ↓Chip.forwardAny_house, ↓Chip.receive_house, ↓Chip.step5_house] | with_reducible refine (Chip.receive_house _ _ _ _ _ ?_).trans ?_ | intro _ _ | intro _ | with_reducible refine (Chip.step5_house _ _ _ _ _ _ ?_).trans ?_ | intro _ _ | intro _ | split)
theorem Chip.memoryRx_vault (c : Chip) (p : Nat) (f : Frame) (age : Nat) : (Chip.memoryRx c p f age).vault = c.vault := vault_of_house (Chip.memoryRx_house c p f age)
theorem Chip.setPutCtr_house (c : Chip) (k : Nat) (x : PutCtr) : (Chip.setPutCtr c k x).house = c.house := by
  simp only [Chip.setPutCtr, ↓house_mk, ↓house_ite, ite_self, eq_self, implies_true]
theorem Chip.setPutCtr_vault (c : Chip) (k : Nat) (x : PutCtr) : (Chip.setPutCtr c k x).vault = c.vault := vault_of_house (Chip.setPutCtr_house c k x)
theorem Chip.putAnswer_house (c : Chip) (liv : Nat) (src : Nat) (tag : Nat) (stage : Nat) (arrPort : Nat) (inCtr : Nat) (tc : Nat) (cpl : BitVec 128) : (Chip.putAnswer c liv src tag stage arrPort inCtr tc cpl).house = c.house := by
  unfold Chip.putAnswer
  repeat' (first | with_reducible rfl | simp only [↓house_mk, ↓house_ite, ite_self, eq_self, implies_true, ↓Chip.holdLost_house, ↓Chip.place_house, ↓Chip.sendResponse_house] | split)
theorem Chip.putAnswer_vault (c : Chip) (liv : Nat) (src : Nat) (tag : Nat) (stage : Nat) (arrPort : Nat) (inCtr : Nat) (tc : Nat) (cpl : BitVec 128) : (Chip.putAnswer c liv src tag stage arrPort inCtr tc cpl).vault = c.vault := vault_of_house (Chip.putAnswer_house c liv src tag stage arrPort inCtr tc cpl)
theorem Chip.putRefuse_house (c : Chip) (p : Nat) (f : Frame) (status : Nat) : (Chip.putRefuse c p f status).house = c.house := by
  simp only [Chip.putRefuse, ↓house_ite, ite_self, eq_self, implies_true, ↓Chip.bumpPrt_house, ↓Chip.putAnswer_house]
theorem Chip.putRefuse_vault (c : Chip) (p : Nat) (f : Frame) (status : Nat) : (Chip.putRefuse c p f status).vault = c.vault := vault_of_house (Chip.putRefuse_house c p f status)
theorem Chip.putClose_house (c : Chip) (k : Nat) (torn : Bool) : (Chip.putClose c k torn).house = c.house := by
  unfold Chip.putClose
  repeat' (first | with_reducible rfl | simp only [↓house_ite, ite_self, eq_self, implies_true, ↓Chip.bump_house, ↓Chip.putAnswer_house, ↓Chip.releaseUnit_house, ↓Chip.setPutCtr_house, ↓Chip.stage_house] | split)
theorem Chip.putClose_vault (c : Chip) (k : Nat) (torn : Bool) : (Chip.putClose c k torn).vault = c.vault := vault_of_house (Chip.putClose_house c k torn)
theorem Chip.putCopies_house (c : Chip) (m : Msg) (k : Nat) : (Chip.putCopies c m k).house = c.house := by
  unfold Chip.putCopies
  repeat' (first | with_reducible rfl | simp only [↓house_mk, ↓house_ite, ite_self, eq_self, implies_true, ↓Chip.dropCells_house, ↓Chip.mcCopies_house, ↓Chip.multicast_house, ↓Chip.setPutCtr_house] | with_reducible refine (pair_house_mcCopies (by assumption)).trans ?_ | with_reducible refine (pair_house_multicast (by assumption)).trans ?_ | split | intro _ _ | intro _)
theorem Chip.putCopies_vault (c : Chip) (m : Msg) (k : Nat) : (Chip.putCopies c m k).vault = c.vault := vault_of_house (Chip.putCopies_house c m k)
theorem Chip.putIdle_house (c : Chip) (k : Nat) : (Chip.putIdle c k).house = c.house := by
  unfold Chip.putIdle
  repeat' (first | with_reducible rfl | simp only [↓house_mk, ↓house_ite, ite_self, eq_self, implies_true, ↓Chip.putClose_house] | split)
theorem Chip.putIdle_vault (c : Chip) (k : Nat) : (Chip.putIdle c k).vault = c.vault := vault_of_house (Chip.putIdle_house c k)
theorem Chip.putTake_house (c : Chip) (p : Nat) (f : Frame) (age : Nat) (tail : TailSt) : (Chip.putTake c p f age tail).house = c.house := by
  unfold Chip.putTake
  repeat' (first | with_reducible rfl | simp only [↓house_mk, ↓house_ite, ite_self, eq_self, implies_true, ↓Chip.bumpLnk_house, ↓Chip.allocUnits_house, ↓Chip.bumpPrt_house, ↓Chip.routeMiss_house, ↓Chip.atDispatch_house, ↓Chip.shaped_house, ↓Chip.mcLookup_house, ↓Chip.setPutCtr_house, ↓Chip.putRefuse_house, ↓Chip.putCopies_house, ↓Chip.putIdle_house] | with_reducible refine (pair_house_allocUnits (by assumption)).trans ?_ | with_reducible refine (pair_house_atDispatch (by assumption)).trans ?_ | with_reducible refine (Chip.shaped_house _ _ _ _ _ _ _ ?_).trans ?_ | with_reducible refine (pair_house_mcLookup (by assumption)).trans ?_ | split | intro _ _ | intro _)
theorem Chip.putTake_vault (c : Chip) (p : Nat) (f : Frame) (age : Nat) (tail : TailSt) : (Chip.putTake c p f age tail).vault = c.vault := vault_of_house (Chip.putTake_house c p f age tail)
theorem Chip.putAnswered_house (c : Chip) (p : Nat) (f : Frame) : (Chip.putAnswered c p f).house = c.house := by
  unfold Chip.putAnswered
  repeat' (first | with_reducible rfl | simp only [↓house_mk, ↓house_ite, ite_self, eq_self, implies_true, ↓Chip.bumpPrt_house, ↓Chip.putClose_house, ↓Chip.setPutCtr_house] | split)
theorem Chip.putAnswered_vault (c : Chip) (p : Nat) (f : Frame) : (Chip.putAnswered c p f).vault = c.vault := vault_of_house (Chip.putAnswered_house c p f)
theorem Chip.putExpire_house (c : Chip) (k : Nat) : (Chip.putExpire c k).house = c.house := by
  unfold Chip.putExpire
  repeat' (first | with_reducible rfl | simp only [↓house_ite, ite_self, eq_self, implies_true, ↓Chip.putClose_house, ↓Chip.stage_house] | split)
theorem Chip.putExpire_vault (c : Chip) (k : Nat) : (Chip.putExpire c k).vault = c.vault := vault_of_house (Chip.putExpire_house c k)
theorem Chip.ethBridge_house (c : Chip) (p : Nat) (bs : List Byte) (tail : TailSt) (stamp : Nat) : (Chip.ethBridge c p bs tail stamp).house = c.house := by
  unfold Chip.ethBridge
  repeat' (first | with_reducible rfl | simp only [↓house_mk, ↓house_ite, ite_self, eq_self, implies_true, ↓Chip.bump_house, ↓Chip.violation_house, ↓Chip.routeMiss_house, ↓Chip.forward_house, ↓Chip.replicate_house] | split)
theorem Chip.ethBridge_vault (c : Chip) (p : Nat) (bs : List Byte) (tail : TailSt) (stamp : Nat) : (Chip.ethBridge c p bs tail stamp).vault = c.vault := vault_of_house (Chip.ethBridge_house c p bs tail stamp)
theorem Chip.ethFrame_house (c : Chip) (p : Nat) (bs : List Byte) (fecUncorr : Nat) (whole : Bool) (buf : BufRead) (age : Nat) : (Chip.ethFrame c p bs fecUncorr whole buf age).house = c.house := by
  unfold Chip.ethFrame
  repeat' (first | with_reducible rfl | simp only [↓house_mk, ↓house_ite, ite_self, eq_self, implies_true, ↓Chip.bumpN_house, ↓Chip.bumpLnk_house, ↓Chip.inReception_house, ↓Chip.received_house, ↓Chip.ingressRead_house, ↓Chip.ptpTake_house, ↓Chip.pfcRx_house, ↓Chip.ethBridge_house] | with_reducible refine (pair_house_ingressRead (by assumption)).trans ?_ | with_reducible refine (keep_foldl Chip.house _ _ _ ?_).trans ?_ | with_reducible refine (keep_fold2 Chip.house _ _ _ ?_).trans ?_ | split | intro _ _ | intro _)
theorem Chip.ethFrame_vault (c : Chip) (p : Nat) (bs : List Byte) (fecUncorr : Nat) (whole : Bool) (buf : BufRead) (age : Nat) : (Chip.ethFrame c p bs fecUncorr whole buf age).vault = c.vault := vault_of_house (Chip.ethFrame_house c p bs fecUncorr whole buf age)
theorem Chip.ptpRx_house (c : Chip) (p : Nat) (f : Frame) (age : Nat) : (Chip.ptpRx c p f age).house = c.house := by
  unfold Chip.ptpRx
  repeat' (first | with_reducible rfl | simp only [↓house_mk, ↓house_ite, ite_self, eq_self, implies_true, ↓Chip.mirrorIn_house, ↓Chip.receive_house, ↓Chip.ptpTake_house, ↓Chip.ethFrame_house] | with_reducible refine (Chip.receive_house _ _ _ _ _ ?_).trans ?_ | split | intro _ _ | intro _)
theorem Chip.ptpRx_vault (c : Chip) (p : Nat) (f : Frame) (age : Nat) : (Chip.ptpRx c p f age).vault = c.vault := vault_of_house (Chip.ptpRx_house c p f age)
theorem Chip.redispatch_house (c : Chip) (q : Nat) (m : Msg) : (Chip.redispatch c q m).house = c.house := by
  unfold Chip.redispatch
  repeat' (first | with_reducible rfl | simp only [↓house_mk, ↓house_ite, ite_self, eq_self, implies_true, ↓Chip.dropCells_house, ↓Chip.downDrop_house, ↓Chip.holdLost_house, ↓Chip.sendOn_house] | split)
theorem Chip.redispatch_vault (c : Chip) (q : Nat) (m : Msg) : (Chip.redispatch c q m).vault = c.vault := vault_of_house (Chip.redispatch_house c q m)
theorem Chip.shaperRelease_house (c : Chip) (d : Nat) (f : Nat) : (Chip.shaperRelease c d f).house = c.house := by
  unfold Chip.shaperRelease
  repeat' (first | with_reducible rfl | simp only [↓house_mk, ↓house_ite, ite_self, eq_self, implies_true, ↓Chip.shaperTake_house, ↓Chip.copyOut_house, ↓Chip.putCopies_house, ↓Chip.putIdle_house, ↓Chip.redispatch_house] | split)
theorem Chip.shaperRelease_vault (c : Chip) (d : Nat) (f : Nat) : (Chip.shaperRelease c d f).vault = c.vault := vault_of_house (Chip.shaperRelease_house c d f)
theorem Chip.txRead_house (c : Chip) (r : CellRef) : (Chip.txRead c r).house = c.house := by
  unfold Chip.txRead
  repeat' (first | with_reducible rfl | simp only [↓house_mk, ↓house_ite, ite_self, eq_self, implies_true, ↓Chip.setEgress_house] | split)
theorem Chip.txRead_vault (c : Chip) (r : CellRef) : (Chip.txRead c r).vault = c.vault := vault_of_house (Chip.txRead_house c r)

end Sys2Proof.Machine
end

