-- ==== Sys2Proof/Laws/KeepRecords.lean ====
section
/-! SUPPORT. What the operations of Machine/Records.lean leave of the fuses and the flash, of the state outside the data
plane, and of the data plane. -/

set_option linter.all false

namespace Sys2Proof.Machine

theorem Chip.sendRecord_house (c : Chip) (d : Nat) (l : Nat) (k : Nat) (sub : Nat) (body : List Byte) : (Chip.sendRecord c d l k sub body).2.house = c.house := by
  unfold Chip.sendRecord
  repeat' (first | with_reducible rfl | simp only [↓house_mk, ↓house_ite, ite_self, eq_self, implies_true, ↓Chip.violation_house, ↓Chip.routeMiss_house, ↓Chip.downDrop_house, ↓Chip.deliver_house] | split)
theorem pair_house_sendRecord {c : Chip} {d : Nat} {l : Nat} {k : Nat} {sub : Nat} {body : List Byte} {a} {c' : Chip} (h : Chip.sendRecord c d l k sub body = (a, c')) :
    c'.house = c.house := by
  rw [← Chip.sendRecord_house c d l k sub body, h]
theorem Chip.sendRecord_vault (c : Chip) (d : Nat) (l : Nat) (k : Nat) (sub : Nat) (body : List Byte) : (Chip.sendRecord c d l k sub body).2.vault = c.vault := vault_of_house (Chip.sendRecord_house c d l k sub body)
theorem pair_vault_sendRecord {c : Chip} {d : Nat} {l : Nat} {k : Nat} {sub : Nat} {body : List Byte} {a} {c' : Chip} (h : Chip.sendRecord c d l k sub body = (a, c')) :
    c'.vault = c.vault := by
  rw [← Chip.sendRecord_vault c d l k sub body, h]
theorem Chip.setLedgerBatch_house (c : Chip) (d : Nat) (l : Nat) (b : List BatchRec) : (Chip.setLedgerBatch c d l b).house = c.house := by
  unfold Chip.setLedgerBatch
  repeat' (first | with_reducible rfl | simp only [↓house_mk, ↓house_ite, ite_self, eq_self, implies_true] | split)
theorem Chip.setLedgerBatch_vault (c : Chip) (d : Nat) (l : Nat) (b : List BatchRec) : (Chip.setLedgerBatch c d l b).vault = c.vault := vault_of_house (Chip.setLedgerBatch_house c d l b)
theorem Chip.ledgerLost_house (c : Chip) (d l n : Nat) : (Chip.ledgerLost c d l n).house = c.house := by
  unfold Chip.ledgerLost
  repeat' (first | with_reducible rfl | simp only [↓house_ite, ite_self, eq_self, implies_true, ↓Chip.bumpN_house, ↓Chip.raiseLim_house] | split)
theorem Chip.ledgerLost_vault (c : Chip) (d l n : Nat) : (Chip.ledgerLost c d l n).vault = c.vault := vault_of_house (Chip.ledgerLost_house c d l n)
theorem Chip.ledgerLost_plane (c : Chip) (d l n : Nat) : (Chip.ledgerLost c d l n).plane = c.plane := by
  unfold Chip.ledgerLost
  repeat' (first | with_reducible rfl | simp only [↓plane_ite, ite_self, eq_self, implies_true, ↓Chip.bumpN_plane, ↓Chip.raiseLim_plane] | split)
theorem Chip.ledgerWrite_house (c : Chip) (d : Nat) (w : BitVec 256) (lport : Nat) (reason : Nat) (stamp : Nat) : (Chip.ledgerWrite c d w lport reason stamp).house = c.house := by
  unfold Chip.ledgerWrite
  repeat' (first | with_reducible rfl | simp only [↓house_mk, ↓house_ite, ite_self, eq_self, implies_true, ↓Chip.setLedgerBatch_house, ↓Chip.ledgerLost_house] | split)
theorem Chip.ledgerWrite_vault (c : Chip) (d : Nat) (w : BitVec 256) (lport : Nat) (reason : Nat) (stamp : Nat) : (Chip.ledgerWrite c d w lport reason stamp).vault = c.vault := vault_of_house (Chip.ledgerWrite_house c d w lport reason stamp)
theorem Chip.ledgerSend_house (c : Chip) (d : Nat) (l : Nat) : (Chip.ledgerSend c d l).house = c.house := by
  unfold Chip.ledgerSend
  repeat' (first | with_reducible rfl | simp only [↓house_mk, ↓house_ite, ite_self, eq_self, implies_true, ↓Chip.bumpN_house, ↓Chip.sendRecord_house, ↓Chip.setLedgerBatch_house, ↓Chip.ledgerLost_house] | with_reducible refine (pair_house_sendRecord (by assumption)).trans ?_ | split | intro _ _ | intro _)
theorem Chip.ledgerSend_vault (c : Chip) (d : Nat) (l : Nat) : (Chip.ledgerSend c d l).vault = c.vault := vault_of_house (Chip.ledgerSend_house c d l)
theorem Chip.latenessSend_house (c : Chip) (d : Nat) (l : Nat) (e : Nat) (s : W32) (ent : Entry) (xs : List Lateness) : (Chip.latenessSend c d l e s ent xs).house = c.house := by
  unfold Chip.latenessSend
  repeat' (first | with_reducible rfl | simp only [↓house_mk, ↓house_ite, ite_self, eq_self, implies_true, ↓Chip.bump_house, ↓Chip.takeFresh_house, ↓Chip.sendRecord_house] | with_reducible refine (pair_house_takeFresh (by assumption)).trans ?_ | with_reducible refine (pair_house_sendRecord (by assumption)).trans ?_ | split | intro _ _ | intro _)
theorem Chip.latenessSend_vault (c : Chip) (d : Nat) (l : Nat) (e : Nat) (s : W32) (ent : Entry) (xs : List Lateness) : (Chip.latenessSend c d l e s ent xs).vault = c.vault := vault_of_house (Chip.latenessSend_house c d l e s ent xs)
theorem Chip.setTrail_house (c : Chip) (s : W32) (x : TrailStep) : (Chip.setTrail c s x).house = c.house := by
  simp only [Chip.setTrail, ↓house_mk, ↓house_ite, ite_self, eq_self, implies_true]
theorem Chip.setTrail_vault (c : Chip) (s : W32) (x : TrailStep) : (Chip.setTrail c s x).vault = c.vault := vault_of_house (Chip.setTrail_house c s x)
theorem Chip.soilStep_house (c : Chip) (w : BitVec 256) : (Chip.soilStep c w).house = c.house := by
  unfold Chip.soilStep
  repeat' (first | with_reducible rfl | simp only [↓house_mk, ↓house_ite, ite_self, eq_self, implies_true, ↓Chip.setTrail_house] | split)
theorem Chip.soilStep_vault (c : Chip) (w : BitVec 256) : (Chip.soilStep c w).vault = c.vault := vault_of_house (Chip.soilStep_house c w)
theorem Chip.digCompare_house (c : Chip) (a b : BitVec 256) : (Chip.digCompare c a b).house = c.house := by
  unfold Chip.digCompare
  repeat' (first | with_reducible rfl | simp only [↓house_mk, ↓house_ite, ite_self, eq_self, implies_true, ↓Chip.bump_house, ↓Chip.raise_house, ↓Chip.setFlag_house, ↓Chip.setReg_house, ↓Chip.setTrail_house, ↓Chip.soilStep_house] | split)
theorem Chip.digCompare_vault (c : Chip) (a b : BitVec 256) : (Chip.digCompare c a b).vault = c.vault := vault_of_house (Chip.digCompare_house c a b)
theorem Chip.digAdd_house (c : Chip) (w : BitVec 256) (own : Bool) : (Chip.digAdd c w own).house = c.house := by
  unfold Chip.digAdd
  repeat' (first | with_reducible rfl | simp only [↓house_mk, ↓house_ite, ite_self, eq_self, implies_true, ↓Chip.bump_house, ↓Chip.digCompare_house, ↓Chip.soilStep_house] | split)
theorem Chip.digAdd_vault (c : Chip) (w : BitVec 256) (own : Bool) : (Chip.digAdd c w own).vault = c.vault := vault_of_house (Chip.digAdd_house c w own)
theorem Chip.digestMake_house (c : Chip) (l e : Nat) (s : W32) (k : Nat) (aborted : Bool) (rstat : Nat) (digest : W64) : (Chip.digestMake c l e s k aborted rstat digest).house = c.house := by
  unfold Chip.digestMake
  repeat' (first | with_reducible rfl | simp only [↓house_mk, ↓house_ite, ite_self, eq_self, implies_true, ↓Chip.digAdd_house] | split)
theorem Chip.digestMake_vault (c : Chip) (l e : Nat) (s : W32) (k : Nat) (aborted : Bool) (rstat : Nat) (digest : W64) : (Chip.digestMake c l e s k aborted rstat digest).vault = c.vault := vault_of_house (Chip.digestMake_house c l e s k aborted rstat digest)
theorem Chip.digestSend_house (c : Chip) (l : Nat) : (Chip.digestSend c l).house = c.house := by
  unfold Chip.digestSend
  repeat' (first | with_reducible rfl | simp only [↓house_mk, ↓house_ite, ite_self, eq_self, implies_true, ↓Chip.violation_house, ↓Chip.downDrop_house, ↓Chip.deliver_house] | split)
theorem Chip.digestSend_vault (c : Chip) (l : Nat) : (Chip.digestSend c l).vault = c.vault := vault_of_house (Chip.digestSend_house c l)
theorem Chip.digestRx_house (c : Chip) (p : Nat) (f : Frame) (age : Nat) : (Chip.digestRx c p f age).house = c.house := by
  unfold Chip.digestRx
  repeat' (first | with_reducible rfl | simp only [↓house_mk, ↓house_ite, ite_self, eq_self, implies_true, ↓Chip.mirrorIn_house, ↓Chip.receive_house, ↓Chip.step5_house, ↓Chip.digAdd_house] | with_reducible refine (Chip.receive_house _ _ _ _ _ ?_).trans ?_ | with_reducible refine (Chip.step5_house _ _ _ _ _ _ ?_).trans ?_ | with_reducible refine (keep_forAll Chip.house _ _ _ ?_).trans ?_ | split | intro _ _ | intro _)
theorem Chip.digestRx_vault (c : Chip) (p : Nat) (f : Frame) (age : Nat) : (Chip.digestRx c p f age).vault = c.vault := vault_of_house (Chip.digestRx_house c p f age)
theorem Chip.digestTimeouts_house (c : Chip) : (Chip.digestTimeouts c).house = c.house := by
  unfold Chip.digestTimeouts
  repeat' (first | with_reducible rfl | simp only [↓house_mk, ↓house_ite, ite_self, eq_self, implies_true, ↓Chip.bump_house, ↓Chip.raise_house, ↓Chip.soilStep_house] | with_reducible refine (keep_forAll Chip.house _ _ _ ?_).trans ?_ | intro _ _)
theorem Chip.digestTimeouts_vault (c : Chip) : (Chip.digestTimeouts c).vault = c.vault := vault_of_house (Chip.digestTimeouts_house c)

end Sys2Proof.Machine
end

