-- ==== Sys2Proof/Laws/KeepAborts.lean ====
section
/-! SUPPORT. What the operations of Machine/Aborts.lean leave of the fuses and the flash, of the state outside the data
plane, and of the data plane. -/

set_option linter.all false

namespace Sys2Proof.Machine

theorem Chip.endTx_house (c : Chip) (p : Nat) (m : Msg) (code : Nat) : (Chip.endTx c p m code).house = c.house := by
  unfold Chip.endTx
  repeat' (first | with_reducible rfl | simp only [↓house_mk, ↓house_ite, ite_self, eq_self, implies_true, ↓Chip.setLink_house, ↓Chip.bumpLnk_house, ↓Chip.setEgress_house, ↓Chip.takeFresh_house, ↓Chip.dropCells_house] | with_reducible refine (pair_house_takeFresh (by assumption)).trans ?_ | split | intro _ _ | intro _)
theorem Chip.endTx_vault (c : Chip) (p : Nat) (m : Msg) (code : Nat) : (Chip.endTx c p m code).vault = c.vault := vault_of_house (Chip.endTx_house c p m code)
theorem Chip.purgePort_house (c : Chip) (p : Nat) (test : Msg → Bool) (code : Nat) : (Chip.purgePort c p test code).house = c.house := by
  unfold Chip.purgePort
  repeat' (first | with_reducible rfl | simp only [↓house_mk, ↓house_ite, ite_self, eq_self, implies_true, ↓Chip.setEgress_house, ↓Chip.dropCells_house, ↓Chip.watermark_house, ↓Chip.voqDrop_house, ↓Chip.endTx_house] | with_reducible refine (keep_forAll Chip.house _ _ _ ?_).trans ?_ | split | intro _ _ | intro _)
theorem Chip.purgePort_vault (c : Chip) (p : Nat) (test : Msg → Bool) (code : Nat) : (Chip.purgePort c p test code).vault = c.vault := vault_of_house (Chip.purgePort_house c p test code)
theorem Chip.purge_house (c : Chip) (test : Msg → Bool) (code : Nat) : (Chip.purge c test code).house = c.house := by
  unfold Chip.purge
  repeat' (first | with_reducible rfl | simp only [↓house_ite, ite_self, eq_self, implies_true, ↓Chip.purgePort_house] | with_reducible refine (keep_forAll Chip.house _ _ _ ?_).trans ?_ | intro _ _)
theorem Chip.purge_vault (c : Chip) (test : Msg → Bool) (code : Nat) : (Chip.purge c test code).vault = c.vault := vault_of_house (Chip.purge_house c test code)
theorem Chip.purgeDrain_house (c : Chip) (test : Msg → Bool) : (Chip.purgeDrain c test).house = c.house := by
  unfold Chip.purgeDrain
  repeat' (first | with_reducible rfl | simp only [↓house_mk, ↓house_ite, ite_self, eq_self, implies_true, ↓Chip.dropCells_house, ↓Chip.setDrain_house] | with_reducible refine (keep_forAll Chip.house _ _ _ ?_).trans ?_ | intro _ _ | split)
theorem Chip.purgeDrain_vault (c : Chip) (test : Msg → Bool) : (Chip.purgeDrain c test).vault = c.vault := vault_of_house (Chip.purgeDrain_house c test)
theorem Chip.setMark_house (c : Chip) (d l e : Nat) (s : W32) (td : Int) : (Chip.setMark c d l e s td).house = c.house := by
  unfold Chip.setMark
  repeat' (first | with_reducible rfl | simp only [↓house_mk, ↓house_ite, ite_self, eq_self, implies_true, ↓Chip.bump_house, ↓Chip.raise_house, ↓Chip.setCch_house] | split)
theorem Chip.setMark_vault (c : Chip) (d l e : Nat) (s : W32) (td : Int) : (Chip.setMark c d l e s td).vault = c.vault := vault_of_house (Chip.setMark_house c d l e s td)
theorem Chip.releaseCoach_house (c : Chip) (d i : Nat) : (Chip.releaseCoach c d i).house = c.house := by
  simp only [Chip.releaseCoach, ↓house_mk, ↓house_ite, ite_self, eq_self, implies_true, ↓Chip.releaseUnits_house, ↓Chip.setSlot_house]
theorem Chip.releaseCoach_vault (c : Chip) (d i : Nat) : (Chip.releaseCoach c d i).vault = c.vault := vault_of_house (Chip.releaseCoach_house c d i)
theorem Chip.freeSlot_house (c : Chip) (d i : Nat) : (Chip.freeSlot c d i).house = c.house := by
  unfold Chip.freeSlot
  repeat' (first | with_reducible rfl | simp only [↓house_mk, ↓house_ite, ite_self, eq_self, implies_true, ↓Chip.releaseCoach_house, ↓Chip.setCch_house, ↓Chip.setSlot_house] | split)
theorem Chip.freeSlot_vault (c : Chip) (d i : Nat) : (Chip.freeSlot c d i).vault = c.vault := vault_of_house (Chip.freeSlot_house c d i)
theorem Chip.abortSlot_house (c : Chip) (d i cause : Nat) : (Chip.abortSlot c d i cause).house = c.house := by
  unfold Chip.abortSlot
  repeat' (first | with_reducible rfl | simp only [↓house_mk, ↓house_ite, ite_self, eq_self, implies_true, ↓Chip.bump_house, ↓Chip.digestMake_house, ↓Chip.purge_house, ↓Chip.purgeDrain_house, ↓Chip.releaseUnits_house, ↓Chip.setSlot_house] | split)
theorem Chip.abortSlot_vault (c : Chip) (d i cause : Nat) : (Chip.abortSlot c d i cause).vault = c.vault := vault_of_house (Chip.abortSlot_house c d i cause)
theorem Chip.sendControl_house (c : Chip) (d : Nat) (l : Nat) (q : Nat) (sub : Nat) (dst : Nat) (b : BitVec 256) : (Chip.sendControl c d l q sub dst b).2.house = c.house := by
  unfold Chip.sendControl
  repeat' (first | with_reducible rfl | simp only [↓house_mk, ↓house_ite, ite_self, eq_self, implies_true, ↓Chip.violation_house, ↓Chip.deliver_house] | split)
theorem pair_house_sendControl {c : Chip} {d : Nat} {l : Nat} {q : Nat} {sub : Nat} {dst : Nat} {b : BitVec 256} {a} {c' : Chip} (h : Chip.sendControl c d l q sub dst b = (a, c')) :
    c'.house = c.house := by
  rw [← Chip.sendControl_house c d l q sub dst b, h]
theorem Chip.sendControl_vault (c : Chip) (d : Nat) (l : Nat) (q : Nat) (sub : Nat) (dst : Nat) (b : BitVec 256) : (Chip.sendControl c d l q sub dst b).2.vault = c.vault := vault_of_house (Chip.sendControl_house c d l q sub dst b)
theorem pair_vault_sendControl {c : Chip} {d : Nat} {l : Nat} {q : Nat} {sub : Nat} {dst : Nat} {b : BitVec 256} {a} {c' : Chip} (h : Chip.sendControl c d l q sub dst b = (a, c')) :
    c'.vault = c.vault := by
  rw [← Chip.sendControl_vault c d l q sub dst b, h]
theorem Chip.sendNotices_house (c : Chip) (d : Nat) (e : Entry) (bank : Bool) (w : WaveInfo) : (Chip.sendNotices c d e bank w).house = c.house := by
  unfold Chip.sendNotices
  repeat' (first | with_reducible rfl | simp only [↓house_mk, ↓house_ite, ite_self, eq_self, implies_true, ↓Chip.bump_house, ↓Chip.sendControl_house] | with_reducible refine (pair_house_sendControl (by assumption)).trans ?_ | with_reducible refine (keep_forAll Chip.house _ _ _ ?_).trans ?_ | split | intro _ _ | intro _)
theorem Chip.sendNotices_vault (c : Chip) (d : Nat) (e : Entry) (bank : Bool) (w : WaveInfo) : (Chip.sendNotices c d e bank w).vault = c.vault := vault_of_house (Chip.sendNotices_house c d e bank w)
theorem Chip.sendWaves_house (c : Chip) (d : Nat) (l : Nat) (copies : List (Nat × BitVec 256)) : (Chip.sendWaves c d l copies).house = c.house := by
  unfold Chip.sendWaves
  repeat' (first | with_reducible rfl | simp only [↓house_mk, ↓house_ite, ite_self, eq_self, implies_true, ↓Chip.bump_house, ↓Chip.sendControl_house] | with_reducible refine (pair_house_sendControl (by assumption)).trans ?_ | with_reducible refine (keep_forAll Chip.house _ _ _ ?_).trans ?_ | split | intro _ _ | intro _)
theorem Chip.sendWaves_vault (c : Chip) (d : Nat) (l : Nat) (copies : List (Nat × BitVec 256)) : (Chip.sendWaves c d l copies).vault = c.vault := vault_of_house (Chip.sendWaves_house c d l copies)
theorem Chip.startWaves_house (c : Chip) (d : Nat) (e : Entry) (w : WaveInfo) (leg : Option Nat) : (Chip.startWaves c d e w leg).house = c.house := by
  unfold Chip.startWaves
  repeat' (first | with_reducible rfl | simp only [↓house_mk, ↓house_ite, ite_self, eq_self, implies_true, ↓Chip.sendWaves_house] | split)
theorem Chip.startWaves_vault (c : Chip) (d : Nat) (e : Entry) (w : WaveInfo) (leg : Option Nat) : (Chip.startWaves c d e w leg).vault = c.vault := vault_of_house (Chip.startWaves_house c d e w leg)
theorem Chip.repeatWaves_house (c : Chip) (l : Nat) (e : Nat) (s : W32) : (Chip.repeatWaves c l e s).house = c.house := by
  unfold Chip.repeatWaves
  repeat' (first | with_reducible rfl | simp only [↓house_mk, ↓house_ite, ite_self, eq_self, implies_true, ↓Chip.sendWaves_house] | split)
theorem Chip.repeatWaves_vault (c : Chip) (l : Nat) (e : Nat) (s : W32) : (Chip.repeatWaves c l e s).vault = c.vault := vault_of_house (Chip.repeatWaves_house c l e s)
theorem Chip.packOverrun_house (c : Chip) (d : Nat) (i : Nat) : (Chip.packOverrun c d i).house = c.house := by
  unfold Chip.packOverrun
  repeat' (first | with_reducible rfl | simp only [↓house_mk, ↓house_ite, ite_self, eq_self, implies_true, ↓Chip.bump_house, ↓Chip.raise_house] | split)
theorem Chip.packOverrun_vault (c : Chip) (d : Nat) (i : Nat) : (Chip.packOverrun c d i).vault = c.vault := vault_of_house (Chip.packOverrun_house c d i)
theorem Chip.packOverrun_plane (c : Chip) (d : Nat) (i : Nat) : (Chip.packOverrun c d i).plane = c.plane := by
  unfold Chip.packOverrun
  repeat' (first | with_reducible rfl | simp only [↓plane_mk, ↓plane_ite, ite_self, eq_self, implies_true, ↓Chip.bump_plane, ↓Chip.raise_plane] | split)
theorem Chip.overrunDue_house (c : Chip) (d : Nat) (i : Nat) : (Chip.overrunDue c d i).house = c.house := by
  unfold Chip.overrunDue
  repeat' (first | with_reducible rfl | simp only [↓house_mk, ↓house_ite, ite_self, eq_self, implies_true, ↓Chip.packOverrun_house] | split)
theorem Chip.overrunDue_vault (c : Chip) (d : Nat) (i : Nat) : (Chip.overrunDue c d i).vault = c.vault := vault_of_house (Chip.overrunDue_house c d i)
theorem Chip.overrunDue_plane (c : Chip) (d : Nat) (i : Nat) : (Chip.overrunDue c d i).plane = c.plane := by
  unfold Chip.overrunDue
  repeat' (first | with_reducible rfl | simp only [↓plane_mk, ↓plane_ite, ite_self, eq_self, implies_true, ↓Chip.packOverrun_plane] | split)
theorem Chip.abortMember_house (c : Chip) (d : Nat) (i : Nat) (cause : Nat) (wave : Bool) : (Chip.abortMember c d i cause wave).house = c.house := by
  unfold Chip.abortMember
  repeat' (first | with_reducible rfl | simp only [↓house_mk, ↓house_ite, ite_self, eq_self, implies_true, ↓Chip.setSlot_house, ↓Chip.freeSlot_house, ↓Chip.abortSlot_house, ↓Chip.overrunDue_house] | split)
theorem Chip.abortMember_vault (c : Chip) (d : Nat) (i : Nat) (cause : Nat) (wave : Bool) : (Chip.abortMember c d i cause wave).vault = c.vault := vault_of_house (Chip.abortMember_house c d i cause wave)
theorem Chip.abortMembers_house (c : Chip) (l e : Nat) (s : W32) (cause : Nat) (wave : Bool) : (Chip.abortMembers c l e s cause wave).house = c.house := by
  unfold Chip.abortMembers
  repeat' (first | with_reducible rfl | simp only [↓house_mk, ↓house_ite, ite_self, eq_self, implies_true, ↓Chip.abortMember_house, ↓Chip.releaseUnits_house, ↓Chip.setCch_house] | with_reducible refine (keep_forAll Chip.house _ _ _ ?_).trans ?_ | intro _ _ | split)
theorem Chip.abortMembers_vault (c : Chip) (l e : Nat) (s : W32) (cause : Nat) (wave : Bool) : (Chip.abortMembers c l e s cause wave).vault = c.vault := vault_of_house (Chip.abortMembers_house c l e s cause wave)
theorem Chip.ownerActs_house (c : Chip) (d : Nat) (e : Entry) (bank : Bool) (td : Int) (w : WaveInfo) (leg : Option Nat) : (Chip.ownerActs c d e bank td w leg).house = c.house := by
  unfold Chip.ownerActs
  repeat' (first | with_reducible rfl | simp only [↓house_mk, ↓house_ite, ite_self, eq_self, implies_true, ↓Chip.setMark_house, ↓Chip.sendNotices_house, ↓Chip.startWaves_house, ↓Chip.abortMembers_house] | with_reducible refine (keep_forAll Chip.house _ _ _ ?_).trans ?_ | split | intro _ _ | intro _)
theorem Chip.ownerActs_vault (c : Chip) (d : Nat) (e : Entry) (bank : Bool) (td : Int) (w : WaveInfo) (leg : Option Nat) : (Chip.ownerActs c d e bank td w leg).vault = c.vault := vault_of_house (Chip.ownerActs_house c d e bank td w leg)
theorem Chip.originAbort_house (c : Chip) (d : Option Nat) (e : Entry) (bank : Bool) (td : Int) (l : Nat) (idx : Nat) (s : W32) (k : Nat) (cause : Nat) : (Chip.originAbort c d e bank td l idx s k cause).house = c.house := by
  unfold Chip.originAbort
  repeat' (first | with_reducible rfl | simp only [↓house_mk, ↓house_ite, ite_self, eq_self, implies_true, ↓Chip.setMark_house, ↓Chip.ownerActs_house] | split)
theorem Chip.originAbort_vault (c : Chip) (d : Option Nat) (e : Entry) (bank : Bool) (td : Int) (l : Nat) (idx : Nat) (s : W32) (k : Nat) (cause : Nat) : (Chip.originAbort c d e bank td l idx s k cause).vault = c.vault := vault_of_house (Chip.originAbort_house c d e bank td l idx s k cause)
theorem Chip.abortCoach_house (c : Chip) (d i cause : Nat) (page : Option Nat) (port : Nat) : (Chip.abortCoach c d i cause page port).house = c.house := by
  unfold Chip.abortCoach
  repeat' (first | with_reducible rfl | simp only [↓house_mk, ↓house_ite, ite_self, eq_self, implies_true, ↓Chip.abortSlot_house, ↓Chip.originAbort_house, ↓Chip.raise_house] | split)
theorem Chip.abortCoach_vault (c : Chip) (d i cause : Nat) (page : Option Nat) (port : Nat) : (Chip.abortCoach c d i cause page port).vault = c.vault := vault_of_house (Chip.abortCoach_house c d i cause page port)
theorem Chip.waveTake_house (c : Chip) (m : Msg) : (Chip.waveTake c m).house = c.house := by
  unfold Chip.waveTake
  repeat' (first | with_reducible rfl | simp only [↓house_mk, ↓house_ite, ite_self, eq_self, implies_true, ↓Chip.bump_house, ↓Chip.cross_house, ↓Chip.ownerActs_house] | with_reducible refine (pair_house_cross (by assumption)).trans ?_ | split | intro _ _ | intro _)
theorem Chip.waveTake_vault (c : Chip) (m : Msg) : (Chip.waveTake c m).vault = c.vault := vault_of_house (Chip.waveTake_house c m)

end Sys2Proof.Machine
end

