-- ==== Sys2Proof/Laws/KeepPacker.lean ====
section
/-! SUPPORT. What the operations of Machine/Packer.lean leave of the fuses and the flash, of the state outside the data
plane, and of the data plane. -/

set_option linter.all false

namespace Sys2Proof.Machine

theorem Chip.startPacking_house (c : Chip) (d : Nat) (i : Nat) : (Chip.startPacking c d i).house = c.house := by
  unfold Chip.startPacking
  repeat' (first | with_reducible rfl | simp only [↓house_mk, ↓house_ite, ite_self, eq_self, implies_true, ↓Chip.bumpN_house, ↓Chip.setSlot_house, ↓Chip.takeFresh_house, ↓Chip.accessBanks_house] | with_reducible refine (pair_house_takeFresh (by assumption)).trans ?_ | with_reducible refine (keep_foldl Chip.house _ _ _ ?_).trans ?_ | with_reducible refine (keep_fold2 Chip.house _ _ _ ?_).trans ?_ | split | intro _ _ | intro _)
theorem Chip.startPacking_vault (c : Chip) (d : Nat) (i : Nat) : (Chip.startPacking c d i).vault = c.vault := vault_of_house (Chip.startPacking_house c d i)
theorem Chip.noRoute_house (c : Chip) (d i : Nat) : (Chip.noRoute c d i).house = c.house := by
  simp only [Chip.noRoute, ↓house_ite, ite_self, eq_self, implies_true, ↓Chip.abortCoach_house]
theorem Chip.noRoute_vault (c : Chip) (d i : Nat) : (Chip.noRoute c d i).vault = c.vault := vault_of_house (Chip.noRoute_house c d i)
theorem Chip.outputGone_house (c : Chip) (d i j : Nat) : (Chip.outputGone c d i j).house = c.house := by
  unfold Chip.outputGone
  repeat' (first | with_reducible rfl | simp only [↓house_mk, ↓house_ite, ite_self, eq_self, implies_true, ↓Chip.setSlot_house] | split)
theorem Chip.outputGone_vault (c : Chip) (d i j : Nat) : (Chip.outputGone c d i j).vault = c.vault := vault_of_house (Chip.outputGone_house c d i j)
theorem Chip.sendOut_house (c : Chip) (ms : List Msg) (q : Nat) : (Chip.sendOut c ms q).house = c.house := by
  unfold Chip.sendOut
  repeat' (first | with_reducible rfl | simp only [↓house_ite, ite_self, eq_self, implies_true, ↓Chip.place_house] | with_reducible refine (keep_forAll Chip.house _ _ _ ?_).trans ?_ | intro _ _)
theorem Chip.sendOut_vault (c : Chip) (ms : List Msg) (q : Nat) : (Chip.sendOut c ms q).vault = c.vault := vault_of_house (Chip.sendOut_house c ms q)
theorem Chip.refuseOut_house (c : Chip) (ms : List Msg) (l : Nat) : (Chip.refuseOut c ms l).house = c.house := by
  unfold Chip.refuseOut
  repeat' (first | with_reducible rfl | simp only [↓house_ite, ite_self, eq_self, implies_true, ↓Chip.violation_house] | with_reducible refine (keep_forAll Chip.house _ _ _ ?_).trans ?_ | intro _ _)
theorem Chip.refuseOut_vault (c : Chip) (ms : List Msg) (l : Nat) : (Chip.refuseOut c ms l).vault = c.vault := vault_of_house (Chip.refuseOut_house c ms l)
theorem Chip.refuseOut_plane (c : Chip) (ms : List Msg) (l : Nat) : (Chip.refuseOut c ms l).plane = c.plane := by
  unfold Chip.refuseOut
  repeat' (first | with_reducible rfl | simp only [↓plane_mk, ↓plane_ite, ite_self, eq_self, implies_true, ↓Chip.violation_plane] | with_reducible refine (keep_forAll Chip.plane _ _ _ ?_).trans ?_ | split | intro _ _ | intro _)
theorem Chip.sendUnicast_house (c : Chip) (d : Nat) (i : Nat) (fmt : Nat) (payload : List Byte) : (Chip.sendUnicast c d i fmt payload).house = c.house := by
  unfold Chip.sendUnicast
  repeat' (first | with_reducible rfl | simp only [↓house_mk, ↓house_ite, ite_self, eq_self, implies_true, ↓Chip.routeMiss_house, ↓Chip.downDrop_house, ↓Chip.forward_house, ↓Chip.noRoute_house, ↓Chip.sendOut_house, ↓Chip.refuseOut_house] | with_reducible refine (keep_forAll Chip.house _ _ _ ?_).trans ?_ | split | intro _ _ | intro _)
theorem Chip.sendUnicast_vault (c : Chip) (d : Nat) (i : Nat) (fmt : Nat) (payload : List Byte) : (Chip.sendUnicast c d i fmt payload).vault = c.vault := vault_of_house (Chip.sendUnicast_house c d i fmt payload)
theorem Chip.sendGroup_house (c : Chip) (d i fmt : Nat) (payload : List Byte) (g : Nat) : (Chip.sendGroup c d i fmt payload g).house = c.house := by
  unfold Chip.sendGroup
  repeat' (first | with_reducible rfl | simp only [↓house_ite, ite_self, eq_self, implies_true, ↓Chip.mcCopies_house, ↓Chip.multicast_house, ↓Chip.refuseOut_house] | with_reducible refine (pair_house_mcCopies (by assumption)).trans ?_ | with_reducible refine (pair_house_multicast (by assumption)).trans ?_ | with_reducible refine (keep_forAll Chip.house _ _ _ ?_).trans ?_ | intro _ _ | split)
theorem Chip.sendGroup_vault (c : Chip) (d i fmt : Nat) (payload : List Byte) (g : Nat) : (Chip.sendGroup c d i fmt payload g).vault = c.vault := vault_of_house (Chip.sendGroup_house c d i fmt payload g)
theorem Chip.packerFirst_house (c : Chip) (d : Nat) (i : Nat) (j : Nat) : (Chip.packerFirst c d i j).house = c.house := by
  unfold Chip.packerFirst
  repeat' (first | with_reducible rfl | simp only [↓house_mk, ↓house_ite, ite_self, eq_self, implies_true, ↓Chip.downDrop_house, ↓Chip.noRoute_house, ↓Chip.outputGone_house, ↓Chip.sendOut_house, ↓Chip.sendUnicast_house, ↓Chip.sendGroup_house] | split)
theorem Chip.packerFirst_vault (c : Chip) (d : Nat) (i : Nat) (j : Nat) : (Chip.packerFirst c d i j).vault = c.vault := vault_of_house (Chip.packerFirst_house c d i j)
theorem Chip.releaseOutput_house (c : Chip) (d : Nat) (i : Nat) (m : Msg) : (Chip.releaseOutput c d i m).house = c.house := by
  unfold Chip.releaseOutput
  repeat' (first | with_reducible rfl | simp only [↓house_mk, ↓house_ite, ite_self, eq_self, implies_true, ↓Chip.dropCells_house, ↓Chip.routeMiss_house, ↓Chip.downDrop_house, ↓Chip.place_house, ↓Chip.noRoute_house] | split)
theorem Chip.releaseOutput_vault (c : Chip) (d : Nat) (i : Nat) (m : Msg) : (Chip.releaseOutput c d i m).vault = c.vault := vault_of_house (Chip.releaseOutput_house c d i m)
theorem Chip.releaseHeld_house (c : Chip) (ms : List Msg) : (Chip.releaseHeld c ms).house = c.house := by
  unfold Chip.releaseHeld
  repeat' (first | with_reducible rfl | simp only [↓house_mk, ↓house_ite, ite_self, eq_self, implies_true, ↓Chip.routeOn_house, ↓Chip.releaseOutput_house] | with_reducible refine (keep_forAll Chip.house _ _ _ ?_).trans ?_ | split | intro _ _ | intro _)
theorem Chip.releaseHeld_vault (c : Chip) (ms : List Msg) : (Chip.releaseHeld c ms).vault = c.vault := vault_of_house (Chip.releaseHeld_house c ms)
theorem Chip.swapSwitch_house (c : Chip) : (Chip.swapSwitch c).house = c.house := by
  unfold Chip.swapSwitch
  repeat' (first | with_reducible rfl | simp only [↓house_mk, ↓house_ite, ite_self, eq_self, implies_true, ↓Chip.bump_house, ↓Chip.flipGroups_house, ↓Chip.raise_house, ↓Chip.releaseHeld_house, ↓Chip.setDrain_house, ↓Chip.setFlag_house] | split)
theorem Chip.swapSwitch_vault (c : Chip) : (Chip.swapSwitch c).vault = c.vault := vault_of_house (Chip.swapSwitch_house c)
theorem Chip.swapCancel_house (c : Chip) : (Chip.swapCancel c).house = c.house := by
  unfold Chip.swapCancel
  repeat' (first | with_reducible rfl | simp only [↓house_mk, ↓house_ite, ite_self, eq_self, implies_true, ↓Chip.releaseHeld_house, ↓Chip.setDrain_house, ↓Chip.setFlag_house] | split)
theorem Chip.swapCancel_vault (c : Chip) : (Chip.swapCancel c).vault = c.vault := vault_of_house (Chip.swapCancel_house c)
theorem Chip.packerDone_house (c : Chip) (d : Nat) (i : Nat) : (Chip.packerDone c d i).house = c.house := by
  unfold Chip.packerDone
  repeat' (first | with_reducible rfl | simp only [↓house_mk, ↓house_ite, ite_self, eq_self, implies_true, ↓Chip.bump_house, ↓Chip.setSlot_house, ↓Chip.digestMake_house, ↓Chip.releaseCoach_house, ↓Chip.freeSlot_house, ↓Chip.overrunDue_house] | split)
theorem Chip.packerDone_vault (c : Chip) (d : Nat) (i : Nat) : (Chip.packerDone c d i).vault = c.vault := vault_of_house (Chip.packerDone_house c d i)

end Sys2Proof.Machine
end

