-- ==== Sys2Proof/Laws/KeepCoach.lean ====
section
/-! SUPPORT. What the operations of Machine/Coach.lean leave of the fuses and the flash, of the state outside the data
plane, and of the data plane. -/

set_option linter.all false

namespace Sys2Proof.Machine

theorem Chip.dropLates_house (c : Chip) (d : Nat) (l : Nat) (e : Nat) (k : Nat) (s : W32) : (Chip.dropLates c d l e k s).house = c.house := by
  unfold Chip.dropLates
  repeat' (first | with_reducible rfl | simp only [↓house_mk, ↓house_ite, ite_self, eq_self, implies_true, ↓Chip.setCch_house] | split)
theorem Chip.dropLates_vault (c : Chip) (d : Nat) (l : Nat) (e : Nat) (k : Nat) (s : W32) : (Chip.dropLates c d l e k s).vault = c.vault := vault_of_house (Chip.dropLates_house c d l e k s)
theorem Chip.createCoach_house (c : Chip) (d : Nat) (l : Nat) (e : Nat) (k : Nat) (n : Nat) (s : W32) (sv : Served) : (Chip.createCoach c d l e k n s sv).2.house = c.house := by
  unfold Chip.createCoach
  repeat' (first | with_reducible rfl | simp only [↓house_mk, ↓house_ite, ite_self, eq_self, implies_true, ↓Chip.bump_house, ↓Chip.setSlot_house, ↓Chip.allocUnits_house, ↓Chip.abortCoach_house, ↓Chip.dropLates_house] | with_reducible refine (pair_house_allocUnits (by assumption)).trans ?_ | split | intro _ _ | intro _)
theorem pair_house_createCoach {c : Chip} {d : Nat} {l : Nat} {e : Nat} {k : Nat} {n : Nat} {s : W32} {sv : Served} {a} {c' : Chip} (h : Chip.createCoach c d l e k n s sv = (a, c')) :
    c'.house = c.house := by
  rw [← Chip.createCoach_house c d l e k n s sv, h]
theorem Chip.createCoach_vault (c : Chip) (d : Nat) (l : Nat) (e : Nat) (k : Nat) (n : Nat) (s : W32) (sv : Served) : (Chip.createCoach c d l e k n s sv).2.vault = c.vault := vault_of_house (Chip.createCoach_house c d l e k n s sv)
theorem pair_vault_createCoach {c : Chip} {d : Nat} {l : Nat} {e : Nat} {k : Nat} {n : Nat} {s : W32} {sv : Served} {a} {c' : Chip} (h : Chip.createCoach c d l e k n s sv = (a, c')) :
    c'.vault = c.vault := by
  rw [← Chip.createCoach_vault c d l e k n s sv, h]
theorem Chip.dropStg_house (c : Chip) (d : Nat) (us : List Nat) : (Chip.dropStg c d us).house = c.house := by
  simp only [Chip.dropStg, ↓house_ite, ite_self, eq_self, implies_true, ↓Chip.releaseUnits_house]
theorem Chip.dropStg_vault (c : Chip) (d : Nat) (us : List Nat) : (Chip.dropStg c d us).vault = c.vault := vault_of_house (Chip.dropStg_house c d us)
theorem Chip.layoutFault_house (c : Chip) (d i port : Nat) : (Chip.layoutFault c d i port).house = c.house := by
  simp only [Chip.layoutFault, ↓house_ite, ite_self, eq_self, implies_true, ↓Chip.abortCoach_house, ↓Chip.setField_house]
theorem Chip.layoutFault_vault (c : Chip) (d i port : Nat) : (Chip.layoutFault c d i port).vault = c.vault := vault_of_house (Chip.layoutFault_house c d i port)
theorem Chip.pswFault_house (c : Chip) (d i port : Nat) : (Chip.pswFault c d i port).house = c.house := by
  simp only [Chip.pswFault, ↓house_ite, ite_self, eq_self, implies_true, ↓Chip.abortCoach_house, ↓Chip.setField_house]
theorem Chip.pswFault_vault (c : Chip) (d i port : Nat) : (Chip.pswFault c d i port).vault = c.vault := vault_of_house (Chip.pswFault_house c d i port)
theorem Chip.joinFrames_house (c : Chip) (d i p : Nat) (carried : Bool) (hs : List HeldFrame) :
    (Chip.joinFrames c d i p carried hs).house = c.house := by
  induction hs generalizing c with
  | nil => rfl
  | cons h hs ih =>
    unfold Chip.joinFrames
    repeat' (first | with_reducible rfl | simp only [↓house_ite, ite_self, ↓ih, ↓Chip.setSlot_house, ↓Chip.dropStg_house, ↓Chip.layoutFault_house] | split)
theorem Chip.joinFrames_vault (c : Chip) (d i p : Nat) (carried : Bool) (hs : List HeldFrame) :
    (Chip.joinFrames c d i p carried hs).vault = c.vault := vault_of_house (Chip.joinFrames_house c d i p carried hs)
theorem Chip.attach_house (c : Chip) (d i p : Nat) (carried : Bool) (w : BitVec 256) (stamp : Nat) (fs : List HeldFrame) : (Chip.attach c d i p carried w stamp fs).house = c.house := by
  unfold Chip.attach
  repeat' (first | with_reducible rfl | simp only [↓house_mk, ↓house_ite, ite_self, eq_self, implies_true, ↓Chip.abortCoach_house, ↓Chip.dropStg_house, ↓Chip.joinFrames_house, ↓Chip.setSlot_house] | split)
theorem Chip.attach_vault (c : Chip) (d i p : Nat) (carried : Bool) (w : BitVec 256) (stamp : Nat) (fs : List HeldFrame) : (Chip.attach c d i p carried w stamp fs).vault = c.vault := vault_of_house (Chip.attach_house c d i p carried w stamp fs)
theorem Chip.addWaiting_house (c : Chip) (d : Nat) (x : Waiting) : (Chip.addWaiting c d x).house = c.house := by
  simp only [Chip.addWaiting, ↓house_mk, ↓house_ite, ite_self, eq_self, implies_true, ↓Chip.bump_house, ↓Chip.setCch_house]
theorem Chip.addWaiting_vault (c : Chip) (d : Nat) (x : Waiting) : (Chip.addWaiting c d x).vault = c.vault := vault_of_house (Chip.addWaiting_house c d x)
theorem Chip.noteLate_house (c : Chip) (d : Nat) (p : Nat) (w : BitVec 256) (td : Int) : (Chip.noteLate c d p w td).house = c.house := by
  unfold Chip.noteLate
  repeat' (first | with_reducible rfl | simp only [↓house_mk, ↓house_ite, ite_self, eq_self, implies_true, ↓Chip.setCch_house, ↓Chip.setSlot_house] | split)
theorem Chip.noteLate_vault (c : Chip) (d : Nat) (p : Nat) (w : BitVec 256) (td : Int) : (Chip.noteLate c d p w td).vault = c.vault := vault_of_house (Chip.noteLate_house c d p w td)
theorem Chip.lateFrame_house (c : Chip) (d p : Nat) (w : BitVec 256) (stamp : Nat) (sv : Served) (h : HeldFrame) : (Chip.lateFrame c d p w stamp sv h).house = c.house := by
  unfold Chip.lateFrame
  repeat' (first | with_reducible rfl | simp only [↓house_mk, ↓house_ite, ite_self, eq_self, implies_true, ↓Chip.addWaiting_house, ↓Chip.attach_house, ↓Chip.bump_house, ↓Chip.createCoach_house, ↓Chip.dropStg_house, ↓Chip.ledgerWrite_house, ↓Chip.noteLate_house] | with_reducible refine (pair_house_createCoach (by assumption)).trans ?_ | split)
theorem Chip.lateFrame_vault (c : Chip) (d : Nat) (p : Nat) (w : BitVec 256) (stamp : Nat) (sv : Served) (h : HeldFrame) : (Chip.lateFrame c d p w stamp sv h).vault = c.vault := vault_of_house (Chip.lateFrame_house c d p w stamp sv h)
theorem Chip.duplicate_house (c : Chip) (d p : Nat) (w : BitVec 256) : (Chip.duplicate c d p w).house = c.house := by
  simp only [Chip.duplicate, ↓house_ite, ite_self, eq_self, implies_true, ↓Chip.bump_house, ↓Chip.raise_house]
theorem Chip.duplicate_vault (c : Chip) (d p : Nat) (w : BitVec 256) : (Chip.duplicate c d p w).vault = c.vault := vault_of_house (Chip.duplicate_house c d p w)
theorem Chip.duplicate_plane (c : Chip) (d p : Nat) (w : BitVec 256) : (Chip.duplicate c d p w).plane = c.plane := by
  simp only [Chip.duplicate, ↓plane_ite, ite_self, eq_self, implies_true, ↓Chip.bump_plane, ↓Chip.raise_plane]
theorem Chip.admitTo_house (c : Chip) (d i p : Nat) (w : BitVec 256) (stamp : Nat) (sv : Served) (fs : List HeldFrame) : (Chip.admitTo c d i p w stamp sv fs).house = c.house := by
  unfold Chip.admitTo
  repeat' (first | with_reducible rfl | simp only [↓house_mk, ↓house_ite, ite_self, eq_self, implies_true, ↓Chip.abortCoach_house, ↓Chip.attach_house, ↓Chip.dropStg_house, ↓Chip.duplicate_house, ↓Chip.lateFrame_house] | split)
theorem Chip.admitTo_vault (c : Chip) (d i p : Nat) (w : BitVec 256) (stamp : Nat) (sv : Served) (fs : List HeldFrame) : (Chip.admitTo c d i p w stamp sv fs).vault = c.vault := vault_of_house (Chip.admitTo_house c d i p w stamp sv fs)
theorem Chip.abortNoCoach_house (c : Chip) (d : Nat) (sv : Served) (l e : Nat) (s : W32) (k cause : Nat) (port : Nat) : (Chip.abortNoCoach c d sv l e s k cause port).house = c.house := by
  simp only [Chip.abortNoCoach, ↓house_ite, ite_self, eq_self, implies_true, ↓Chip.originAbort_house, ↓Chip.raise_house]
theorem Chip.abortNoCoach_vault (c : Chip) (d : Nat) (sv : Served) (l e : Nat) (s : W32) (k cause : Nat) (port : Nat) : (Chip.abortNoCoach c d sv l e s k cause port).vault = c.vault := vault_of_house (Chip.abortNoCoach_house c d sv l e s k cause port)
theorem Chip.admitFresh_house (c : Chip) (d p : Nat) (w : BitVec 256) (stamp : Nat) (sv : Served) (h : HeldFrame) : (Chip.admitFresh c d p w stamp sv h).house = c.house := by
  unfold Chip.admitFresh
  repeat' (first | with_reducible rfl | simp only [↓house_mk, ↓house_ite, ite_self, eq_self, implies_true, ↓Chip.addWaiting_house, ↓Chip.admitTo_house, ↓Chip.bump_house, ↓Chip.createCoach_house, ↓Chip.dropStg_house, ↓Chip.raise_house] | with_reducible refine (pair_house_createCoach (by assumption)).trans ?_ | split)
theorem Chip.admitFresh_vault (c : Chip) (d p : Nat) (w : BitVec 256) (stamp : Nat) (sv : Served) (h : HeldFrame) : (Chip.admitFresh c d p w stamp sv h).vault = c.vault := vault_of_house (Chip.admitFresh_house c d p w stamp sv h)
theorem Chip.waybillAbort_house (c : Chip) (d : Nat) (p : Nat) (w : BitVec 256) (sv : Served) (slot : Option Nat) : (Chip.waybillAbort c d p w sv slot).house = c.house := by
  unfold Chip.waybillAbort
  repeat' (first | with_reducible rfl | simp only [↓house_mk, ↓house_ite, ite_self, eq_self, implies_true, ↓Chip.abortCoach_house, ↓Chip.abortNoCoach_house] | split)
theorem Chip.waybillAbort_vault (c : Chip) (d : Nat) (p : Nat) (w : BitVec 256) (sv : Served) (slot : Option Nat) : (Chip.waybillAbort c d p w sv slot).vault = c.vault := vault_of_house (Chip.waybillAbort_house c d p w sv slot)
theorem Chip.admitFirst_house (c : Chip) (d : Nat) (p : Nat) (w : BitVec 256) (stamp : Nat) (sv : Served) (h : HeldFrame) : (Chip.admitFirst c d p w stamp sv h).house = c.house := by
  unfold Chip.admitFirst
  repeat' (first | with_reducible rfl | simp only [↓house_mk, ↓house_ite, ite_self, eq_self, implies_true, ↓Chip.bump_house, ↓Chip.raise_house, ↓Chip.dropStg_house, ↓Chip.lateFrame_house, ↓Chip.admitFresh_house, ↓Chip.waybillAbort_house] | split)
theorem Chip.admitFirst_vault (c : Chip) (d : Nat) (p : Nat) (w : BitVec 256) (stamp : Nat) (sv : Served) (h : HeldFrame) : (Chip.admitFirst c d p w stamp sv h).vault = c.vault := vault_of_house (Chip.admitFirst_house c d p w stamp sv h)
theorem Chip.coachFirst_house (c : Chip) (d : Nat) (m : Msg) (us : List Nat) : (Chip.coachFirst c d m us).house = c.house := by
  unfold Chip.coachFirst
  repeat' (first | with_reducible rfl | simp only [↓house_mk, ↓house_ite, ite_self, eq_self, implies_true, ↓Chip.admitFirst_house, ↓Chip.dropStg_house, ↓Chip.routeMiss_house] | split)
theorem Chip.coachFirst_vault (c : Chip) (d : Nat) (m : Msg) (us : List Nat) : (Chip.coachFirst c d m us).vault = c.vault := vault_of_house (Chip.coachFirst_house c d m us)
theorem Chip.coachCont_house (c : Chip) (d : Nat) (m : Msg) (us : List Nat) : (Chip.coachCont c d m us).house = c.house := by
  unfold Chip.coachCont
  repeat' (first | with_reducible rfl | simp only [↓house_mk, ↓house_ite, ite_self, eq_self, implies_true, ↓Chip.bump_house, ↓Chip.dropStg_house, ↓Chip.joinFrames_house, ↓Chip.setCch_house] | split)
theorem Chip.coachCont_vault (c : Chip) (d : Nat) (m : Msg) (us : List Nat) : (Chip.coachCont c d m us).vault = c.vault := vault_of_house (Chip.coachCont_house c d m us)
theorem Chip.divert_house (c : Chip) (d : Nat) (m : Msg) : (Chip.divert c d m).house = c.house := by
  unfold Chip.divert
  repeat' (first | with_reducible rfl | simp only [↓house_mk, ↓house_ite, ite_self, eq_self, implies_true, ↓Chip.bump_house, ↓Chip.holdWhole_house] | with_reducible refine (pair_house_holdWhole (by assumption)).trans ?_ | split | intro _ _ | intro _)
theorem Chip.divert_vault (c : Chip) (d : Nat) (m : Msg) : (Chip.divert c d m).vault = c.vault := vault_of_house (Chip.divert_house c d m)
theorem Chip.atCoach_house (c : Chip) (d : Nat) (m : Msg) (us : List Nat) : (Chip.atCoach c d m us).house = c.house := by
  unfold Chip.atCoach
  repeat' (first | with_reducible rfl | simp only [↓house_ite, ite_self, eq_self, implies_true, ↓Chip.coachCont_house, ↓Chip.coachFirst_house] | split)
theorem Chip.atCoach_vault (c : Chip) (d : Nat) (m : Msg) (us : List Nat) : (Chip.atCoach c d m us).vault = c.vault := vault_of_house (Chip.atCoach_house c d m us)
theorem Chip.toCoach_house (c : Chip) (d : Nat) (m : Msg) : (Chip.toCoach c d m).house = c.house := by
  unfold Chip.toCoach
  repeat' (first | with_reducible rfl | simp only [↓house_mk, ↓house_ite, ite_self, eq_self, implies_true, ↓Chip.allocUnits_house, ↓Chip.cross_house, ↓Chip.divert_house, ↓Chip.atCoach_house] | with_reducible refine (pair_house_allocUnits (by assumption)).trans ?_ | with_reducible refine (pair_house_cross (by assumption)).trans ?_ | split | intro _ _ | intro _)
theorem Chip.toCoach_vault (c : Chip) (d : Nat) (m : Msg) : (Chip.toCoach c d m).vault = c.vault := vault_of_house (Chip.toCoach_house c d m)
theorem Chip.setOpenRecs_house (c : Chip) (p : Nat) (rs : List OpenRec) : (Chip.setOpenRecs c p rs).house = c.house := by
  simp only [Chip.setOpenRecs, ↓house_mk, ↓house_ite, ite_self, eq_self, implies_true]
theorem Chip.setOpenRecs_vault (c : Chip) (p : Nat) (rs : List OpenRec) : (Chip.setOpenRecs c p rs).vault = c.vault := vault_of_house (Chip.setOpenRecs_house c p rs)
theorem Chip.openRecord_house (c : Chip) (p : Nat) (w : BitVec 256) (d : Nat) (sv : Served) : (Chip.openRecord c p w d sv).house = c.house := by
  unfold Chip.openRecord
  repeat' (first | with_reducible rfl | simp only [↓house_mk, ↓house_ite, ite_self, eq_self, implies_true, ↓Chip.setOpenRecs_house] | split)
theorem Chip.openRecord_vault (c : Chip) (p : Nat) (w : BitVec 256) (d : Nat) (sv : Served) : (Chip.openRecord c p w d sv).vault = c.vault := vault_of_house (Chip.openRecord_house c p w d sv)
theorem Chip.takeHint_house (c : Chip) (w : BitVec 256) (d stamp : Nat) : (Chip.takeHint c w d stamp).house = c.house := by
  unfold Chip.takeHint
  repeat' (first | with_reducible rfl | simp only [↓house_mk, ↓house_ite, ite_self, eq_self, implies_true, ↓Chip.bump_house] | split)
theorem Chip.takeHint_vault (c : Chip) (w : BitVec 256) (d stamp : Nat) : (Chip.takeHint c w d stamp).vault = c.vault := vault_of_house (Chip.takeHint_house c w d stamp)
theorem Chip.collectiveFirst_house (c : Chip) (p : Nat) (f : Frame) (age : Nat) : (Chip.collectiveFirst c p f age).house = c.house := by
  unfold Chip.collectiveFirst
  repeat' (first | with_reducible rfl | simp only [↓house_mk, ↓house_ite, ite_self, eq_self, implies_true, ↓Chip.routeMiss_house, ↓Chip.mirrorIn_house, ↓Chip.receive_house, ↓Chip.step5_house, ↓Chip.originAbort_house, ↓Chip.toCoach_house, ↓Chip.openRecord_house, ↓Chip.takeHint_house] | with_reducible refine (Chip.receive_house _ _ _ _ _ ?_).trans ?_ | with_reducible refine (Chip.step5_house _ _ _ _ _ _ ?_).trans ?_ | split | intro _ _ | intro _)
theorem Chip.collectiveFirst_vault (c : Chip) (p : Nat) (f : Frame) (age : Nat) : (Chip.collectiveFirst c p f age).vault = c.vault := vault_of_house (Chip.collectiveFirst_house c p f age)
theorem Chip.continuation_house (c : Chip) (p : Nat) (f : Frame) (age : Nat) : (Chip.continuation c p f age).house = c.house := by
  unfold Chip.continuation
  repeat' (first | with_reducible rfl | simp only [↓house_mk, ↓house_ite, ite_self, eq_self, implies_true, ↓Chip.routeMiss_house, ↓Chip.mirrorIn_house, ↓Chip.receive_house, ↓Chip.step5_house, ↓Chip.toCoach_house, ↓Chip.setOpenRecs_house] | with_reducible refine (Chip.receive_house _ _ _ _ _ ?_).trans ?_ | with_reducible refine (Chip.step5_house _ _ _ _ _ _ ?_).trans ?_ | split | intro _ _ | intro _)
theorem Chip.continuation_vault (c : Chip) (p : Nat) (f : Frame) (age : Nat) : (Chip.continuation c p f age).vault = c.vault := vault_of_house (Chip.continuation_house c p f age)
theorem Chip.divertedDispatch_house (c : Chip) (pd : Nat) (d : Nat) (l : Nat) (rd : CellRead) : (Chip.divertedDispatch c pd d l rd).house = c.house := by
  unfold Chip.divertedDispatch
  repeat' (first | with_reducible rfl | simp only [↓house_mk, ↓house_ite, ite_self, eq_self, implies_true, ↓Chip.allocUnits_house, ↓Chip.dropCells_house, ↓Chip.cross_house, ↓Chip.readCells_house, ↓Chip.dropStg_house, ↓Chip.atCoach_house] | with_reducible refine (pair_house_allocUnits (by assumption)).trans ?_ | with_reducible refine (pair_house_cross (by assumption)).trans ?_ | with_reducible refine (pair_house_readCells (by assumption)).trans ?_ | split | intro _ _ | intro _)
theorem Chip.divertedDispatch_vault (c : Chip) (pd : Nat) (d : Nat) (l : Nat) (rd : CellRead) : (Chip.divertedDispatch c pd d l rd).vault = c.vault := vault_of_house (Chip.divertedDispatch_house c pd d l rd)
theorem Chip.retryCreate_house (c : Chip) (d k : Nat) : (Chip.retryCreate c d k).house = c.house := by
  unfold Chip.retryCreate
  repeat' (first | with_reducible rfl | simp only [↓house_mk, ↓house_ite, ite_self, eq_self, implies_true, ↓Chip.admitTo_house, ↓Chip.attach_house, ↓Chip.bump_house, ↓Chip.raise_house, ↓Chip.createCoach_house, ↓Chip.dropStg_house, ↓Chip.setCch_house] | with_reducible refine (pair_house_createCoach (by assumption)).trans ?_ | split)
theorem Chip.retryCreate_vault (c : Chip) (d k : Nat) : (Chip.retryCreate c d k).vault = c.vault := vault_of_house (Chip.retryCreate_house c d k)
theorem foldTerm_house (d : Nat) (q : FoldSt × Chip) (t : HeldTerm) : (foldTerm d q t).2.house = q.2.house := by
  unfold foldTerm
  simp only [apply_ite Prod.snd]
  repeat' (first | with_reducible rfl | simp only [↓house_ite, ite_self, eq_self] | with_reducible refine (pair_house_allocUnits (by assumption)).trans ?_ | split)
theorem foldTerm_vault (d : Nat) (q : FoldSt × Chip) (t : HeldTerm) : (foldTerm d q t).2.vault = q.2.vault :=
  vault_of_house (foldTerm_house d q t)
theorem Chip.collide_house (c : Chip) (die : Nat) (granule : Nat) (k : Nat) : (Chip.collide c die granule k).house = c.house := by
  unfold Chip.collide
  repeat' (first | with_reducible rfl | simp only [↓house_mk, ↓house_ite, ite_self, eq_self, implies_true, ↓Chip.bump_house, ↓Chip.raiseLim_house] | split)
theorem Chip.collide_vault (c : Chip) (die : Nat) (granule : Nat) (k : Nat) : (Chip.collide c die granule k).vault = c.vault := vault_of_house (Chip.collide_house c die granule k)
theorem Chip.collide_plane (c : Chip) (die : Nat) (granule : Nat) (k : Nat) : (Chip.collide c die granule k).plane = c.plane := by
  unfold Chip.collide
  repeat' (first | with_reducible rfl | simp only [↓plane_mk, ↓plane_ite, ite_self, eq_self, implies_true, ↓Chip.bump_plane, ↓Chip.raiseLim_plane] | split)
theorem Chip.foldFrame_house (c : Chip) (d : Nat) (i : Nat) (y : Contrib) (h : HeldFrame) (serialised : Nat) (rep : FoldReport) : (Chip.foldFrame c d i y h serialised rep).house = c.house := by
  unfold Chip.foldFrame
  repeat' (first | with_reducible rfl | simp only [↓house_mk, ↓house_ite, ite_self, eq_self, implies_true, ↓Chip.bumpN_house, ↓Chip.setSlot_house, ↓Chip.active_house, ↓Chip.accessBanks_house, ↓Chip.abortCoach_house, ↓Chip.dropStg_house, ↓Chip.layoutFault_house, ↓Chip.pswFault_house, ↓foldTerm_house, ↓Chip.collide_house] | with_reducible refine (keep_forAll Chip.house _ _ _ ?_).trans ?_ | with_reducible refine (keep_foldl Chip.house _ _ _ ?_).trans ?_ | with_reducible refine (keep_fold2 Chip.house _ _ _ ?_).trans ?_ | split | intro _ _ | intro _)
theorem Chip.foldFrame_vault (c : Chip) (d : Nat) (i : Nat) (y : Contrib) (h : HeldFrame) (serialised : Nat) (rep : FoldReport) : (Chip.foldFrame c d i y h serialised rep).vault = c.vault := vault_of_house (Chip.foldFrame_house c d i y h serialised rep)
theorem Chip.setLanes_house (c : Chip) (d : Nat) (x : LaneDie) : (Chip.setLanes c d x).house = c.house := by
  simp only [Chip.setLanes, ↓house_mk, ↓house_ite, ite_self, eq_self, implies_true]
theorem Chip.setLanes_vault (c : Chip) (d : Nat) (x : LaneDie) : (Chip.setLanes c d x).vault = c.vault := vault_of_house (Chip.setLanes_house c d x)
theorem Chip.startRepair_house (c : Chip) (d k : Nat) : (Chip.startRepair c d k).house = c.house := by
  unfold Chip.startRepair
  repeat' (first | with_reducible rfl | simp only [↓house_mk, ↓house_ite, ite_self, eq_self, implies_true, ↓Chip.raise_house, ↓Chip.setLanes_house] | split)
theorem Chip.startRepair_vault (c : Chip) (d k : Nat) : (Chip.startRepair c d k).vault = c.vault := vault_of_house (Chip.startRepair_house c d k)
theorem Chip.autoRepair_house (c : Chip) (d : Nat) : (Chip.autoRepair c d).house = c.house := by
  unfold Chip.autoRepair
  repeat' (first | with_reducible rfl | simp only [↓house_mk, ↓house_ite, ite_self, eq_self, implies_true, ↓Chip.startRepair_house] | split)
theorem Chip.autoRepair_vault (c : Chip) (d : Nat) : (Chip.autoRepair c d).vault = c.vault := vault_of_house (Chip.autoRepair_house c d)
theorem Chip.laneFence_house (c : Chip) (d k : Nat) : (Chip.laneFence c d k).house = c.house := by
  unfold Chip.laneFence
  repeat' (first | with_reducible rfl | simp only [↓house_mk, ↓house_ite, ite_self, eq_self, implies_true, ↓Chip.autoRepair_house, ↓Chip.raise_house, ↓Chip.setLanes_house] | split)
theorem Chip.laneFence_vault (c : Chip) (d k : Nat) : (Chip.laneFence c d k).vault = c.vault := vault_of_house (Chip.laneFence_house c d k)
theorem Chip.foldNext_house (c : Chip) (d : Nat) (i : Nat) (p : Nat) (carried : Bool) (serialised : Nat) (rep : FoldReport) : (Chip.foldNext c d i p carried serialised rep).house = c.house := by
  unfold Chip.foldNext
  repeat' (first | with_reducible rfl | simp only [↓house_mk, ↓house_ite, ite_self, eq_self, implies_true, ↓Chip.eccUncorr_house, ↓Chip.abortCoach_house, ↓Chip.foldFrame_house, ↓Chip.laneFence_house] | split)
theorem Chip.foldNext_vault (c : Chip) (d : Nat) (i : Nat) (p : Nat) (carried : Bool) (serialised : Nat) (rep : FoldReport) : (Chip.foldNext c d i p carried serialised rep).vault = c.vault := vault_of_house (Chip.foldNext_house c d i p carried serialised rep)
theorem Chip.retrySiding_house (c : Chip) (d : Nat) (i : Nat) (k : Nat) : (Chip.retrySiding c d i k).house = c.house := by
  unfold Chip.retrySiding
  repeat' (first | with_reducible rfl | simp only [↓house_mk, ↓house_ite, ite_self, eq_self, implies_true, ↓Chip.bumpN_house, ↓Chip.bump_house, ↓Chip.setSlot_house, ↓Chip.allocUnits_house] | with_reducible refine (pair_house_allocUnits (by assumption)).trans ?_ | with_reducible refine (keep_foldl Chip.house _ _ _ ?_).trans ?_ | with_reducible refine (keep_fold2 Chip.house _ _ _ ?_).trans ?_ | split | intro _ _ | intro _)
theorem Chip.retrySiding_vault (c : Chip) (d : Nat) (i : Nat) (k : Nat) : (Chip.retrySiding c d i k).vault = c.vault := vault_of_house (Chip.retrySiding_house c d i k)
theorem Chip.tryPack_house (c : Chip) (d i : Nat) : (Chip.tryPack c d i).house = c.house := by
  unfold Chip.tryPack
  repeat' (first | with_reducible rfl | simp only [↓house_ite, ite_self, eq_self, implies_true, ↓Chip.startPacking_house] | split)
theorem Chip.tryPack_vault (c : Chip) (d i : Nat) : (Chip.tryPack c d i).vault = c.vault := vault_of_house (Chip.tryPack_house c d i)
theorem Chip.cutoff_house (c : Chip) (d i : Nat) : (Chip.cutoff c d i).house = c.house := by
  unfold Chip.cutoff
  repeat' (first | with_reducible rfl | simp only [↓house_mk, ↓house_ite, ite_self, eq_self, implies_true, ↓Chip.setSlot_house] | split)
theorem Chip.cutoff_vault (c : Chip) (d i : Nat) : (Chip.cutoff c d i).vault = c.vault := vault_of_house (Chip.cutoff_house c d i)
theorem Chip.monitorMiss_house (c : Chip) (d l e : Nat) (s : W32) (k cause phase admitted : Nat) : (Chip.monitorMiss c d l e s k cause phase admitted).house = c.house := by
  unfold Chip.monitorMiss
  repeat' (first | with_reducible rfl | simp only [↓house_ite, ite_self, eq_self, implies_true, ↓Chip.bump_house, ↓Chip.setReg_house] | split)
theorem Chip.monitorMiss_vault (c : Chip) (d l e : Nat) (s : W32) (k cause phase admitted : Nat) : (Chip.monitorMiss c d l e s k cause phase admitted).vault = c.vault := vault_of_house (Chip.monitorMiss_house c d l e s k cause phase admitted)
theorem Chip.monitorMiss_plane (c : Chip) (d l e : Nat) (s : W32) (k cause phase admitted : Nat) : (Chip.monitorMiss c d l e s k cause phase admitted).plane = c.plane := by
  unfold Chip.monitorMiss
  repeat' (first | with_reducible rfl | simp only [↓plane_ite, ite_self, eq_self, implies_true, ↓Chip.bump_plane, ↓Chip.setReg_plane] | split)
theorem Chip.monitorSlot_house (c : Chip) (d : Nat) (i : Nat) : (Chip.monitorSlot c d i).house = c.house := by
  unfold Chip.monitorSlot
  repeat' (first | with_reducible rfl | simp only [↓house_mk, ↓house_ite, ite_self, eq_self, implies_true, ↓Chip.setSlot_house, ↓Chip.freeSlot_house, ↓Chip.packOverrun_house, ↓Chip.abortCoach_house, ↓Chip.monitorMiss_house] | split)
theorem Chip.monitorSlot_vault (c : Chip) (d : Nat) (i : Nat) : (Chip.monitorSlot c d i).vault = c.vault := vault_of_house (Chip.monitorSlot_house c d i)
theorem Chip.monitorWaiting_house (c : Chip) (d : Nat) (x : Waiting) : (Chip.monitorWaiting c d x).house = c.house := by
  simp only [Chip.monitorWaiting, ↓house_ite, ite_self, eq_self, implies_true, ↓Chip.abortNoCoach_house, ↓Chip.monitorMiss_house]
theorem Chip.monitorWaiting_vault (c : Chip) (d : Nat) (x : Waiting) : (Chip.monitorWaiting c d x).vault = c.vault := vault_of_house (Chip.monitorWaiting_house c d x)
theorem Chip.monitorLateness_house (c : Chip) (d : Nat) (ns : List LateNote) : (Chip.monitorLateness c d ns).house = c.house := by
  unfold Chip.monitorLateness
  repeat' (first | with_reducible rfl | simp only [↓house_ite, ite_self, eq_self, implies_true, ↓Chip.latenessSend_house] | with_reducible refine (keep_forAll Chip.house _ _ _ ?_).trans ?_ | intro _ _)
theorem Chip.monitorLateness_vault (c : Chip) (d : Nat) (ns : List LateNote) : (Chip.monitorLateness c d ns).vault = c.vault := vault_of_house (Chip.monitorLateness_house c d ns)
theorem Chip.monitor_house (c : Chip) (d : Nat) : (Chip.monitor c d).house = c.house := by
  unfold Chip.monitor
  repeat' (first | with_reducible rfl | simp only [↓house_mk, ↓house_ite, ite_self, eq_self, implies_true, ↓Chip.setCch_house, ↓Chip.dropStg_house, ↓Chip.monitorSlot_house, ↓Chip.monitorWaiting_house, ↓Chip.monitorLateness_house] | with_reducible refine (keep_forAll Chip.house _ _ _ ?_).trans ?_ | split | intro _ _ | intro _)
theorem Chip.monitor_vault (c : Chip) (d : Nat) : (Chip.monitor c d).vault = c.vault := vault_of_house (Chip.monitor_house c d)
theorem Chip.latchSlot_house (c : Chip) (d i : Nat) : (Chip.latchSlot c d i).house = c.house := by
  unfold Chip.latchSlot
  repeat' (first | with_reducible rfl | simp only [↓house_ite, ite_self, eq_self, implies_true, ↓Chip.setReg_house] | split)
theorem Chip.latchSlot_vault (c : Chip) (d i : Nat) : (Chip.latchSlot c d i).vault = c.vault := vault_of_house (Chip.latchSlot_house c d i)
theorem Chip.latchSlot_plane (c : Chip) (d i : Nat) : (Chip.latchSlot c d i).plane = c.plane := by
  unfold Chip.latchSlot
  repeat' (first | with_reducible rfl | simp only [↓plane_ite, ite_self, eq_self, implies_true, ↓Chip.setReg_plane] | split)
theorem Chip.slotSelect_house (c : Chip) (d : Nat) (v : W32) : (Chip.slotSelect c d v).house = c.house := by
  simp only [Chip.slotSelect, ↓house_ite, ite_self, eq_self, implies_true, ↓Chip.latchSlot_house, ↓Chip.setReg_house]
theorem Chip.slotSelect_vault (c : Chip) (d : Nat) (v : W32) : (Chip.slotSelect c d v).vault = c.vault := vault_of_house (Chip.slotSelect_house c d v)
theorem Chip.slotSelect_plane (c : Chip) (d : Nat) (v : W32) : (Chip.slotSelect c d v).plane = c.plane := by
  simp only [Chip.slotSelect, ↓plane_ite, ite_self, eq_self, implies_true, ↓Chip.latchSlot_plane, ↓Chip.setReg_plane]

end Sys2Proof.Machine
end

