-- ==== Sys2Proof/Laws/KeepRecovery.lean ====
section
/-! SUPPORT. What the operations of Machine/Recovery.lean leave of the fuses and the flash, of the state outside the data
plane, and of the data plane. -/

set_option linter.all false

namespace Sys2Proof.Machine

theorem Chip.cutReception_house (c : Chip) (p : Nat) : (Chip.cutReception c p).house = c.house := by
  unfold Chip.cutReception
  repeat' (first | with_reducible rfl | simp only [↓house_mk, ↓house_ite, ite_self, eq_self, implies_true, ↓Chip.setLink_house, ↓Chip.bumpLnk_house, ↓Chip.forward_house, ↓Chip.step5_house, ↓Chip.ethBridge_house] | with_reducible refine (Chip.step5_house _ _ _ _ _ _ ?_).trans ?_ | split | intro _ _ | intro _)
theorem Chip.cutReception_vault (c : Chip) (p : Nat) : (Chip.cutReception c p).vault = c.vault := vault_of_house (Chip.cutReception_house c p)
theorem Chip.lpiEnd_house (c : Chip) (p : Nat) : (Chip.lpiEnd c p).house = c.house := by
  unfold Chip.lpiEnd
  repeat' (first | with_reducible rfl | simp only [↓house_mk, ↓house_ite, ite_self, eq_self, implies_true, ↓Chip.setLink_house, ↓Chip.setLane_house, ↓Chip.injResume_house, ↓Chip.laneWoken_house, ↓Chip.setLpiStat_house] | with_reducible refine (keep_forAll Chip.house _ _ _ ?_).trans ?_ | split | intro _ _ | intro _)
theorem Chip.lpiEnd_vault (c : Chip) (p : Nat) : (Chip.lpiEnd c p).vault = c.vault := vault_of_house (Chip.lpiEnd_house c p)
theorem Chip.loseReplay_house (c : Chip) (p : Nat) : (Chip.loseReplay c p).house = c.house := by
  unfold Chip.loseReplay
  repeat' (first | with_reducible rfl | simp only [↓house_mk, ↓house_ite, ite_self, eq_self, implies_true, ↓Chip.setLink_house, ↓Chip.loseTarget_house, ↓Chip.gapTarget_house] | with_reducible refine (keep_forAll Chip.house _ _ _ ?_).trans ?_ | split | intro _ _ | intro _)
theorem Chip.loseReplay_vault (c : Chip) (p : Nat) : (Chip.loseReplay c p).vault = c.vault := vault_of_house (Chip.loseReplay_house c p)
theorem Chip.dropQueues_house (c : Chip) (p : Nat) : (Chip.dropQueues c p).house = c.house := by
  unfold Chip.dropQueues
  repeat' (first | with_reducible rfl | simp only [↓house_mk, ↓house_ite, ite_self, eq_self, implies_true, ↓Chip.dropCells_house, ↓Chip.emptyEgress_house, ↓Chip.downDrop_house, ↓Chip.holdLost_house] | with_reducible refine (keep_forAll Chip.house _ _ _ ?_).trans ?_ | split | intro _ _ | intro _)
theorem Chip.dropQueues_vault (c : Chip) (p : Nat) : (Chip.dropQueues c p).vault = c.vault := vault_of_house (Chip.dropQueues_house c p)
theorem Chip.linkDown_house (c : Chip) (p : Nat) (aligned : Bool) : (Chip.linkDown c p aligned).house = c.house := by
  unfold Chip.linkDown
  repeat' (first | with_reducible rfl | simp only [↓house_mk, ↓house_ite, ite_self, eq_self, implies_true, ↓Chip.setField_house, ↓Chip.setLink_house, ↓Chip.bumpLnk_house, ↓Chip.raise_house, ↓Chip.setLnkFlag_house, ↓Chip.sendCtl_house, ↓Chip.setLpiStat_house, ↓Chip.cutReception_house, ↓Chip.lpiEnd_house, ↓Chip.loseReplay_house, ↓Chip.dropQueues_house] | split)
theorem Chip.linkDown_vault (c : Chip) (p : Nat) (aligned : Bool) : (Chip.linkDown c p aligned).vault = c.vault := vault_of_house (Chip.linkDown_house c p aligned)
theorem Chip.ethAlignLoss_house (c : Chip) (p : Nat) : (Chip.ethAlignLoss c p).house = c.house := by
  unfold Chip.ethAlignLoss
  repeat' (first | with_reducible rfl | simp only [↓house_mk, ↓house_ite, ite_self, eq_self, implies_true, ↓Chip.setLink_house, ↓Chip.cutReception_house, ↓Chip.lpiEnd_house, ↓Chip.dropQueues_house] | split)
theorem Chip.ethAlignLoss_vault (c : Chip) (p : Nat) : (Chip.ethAlignLoss c p).vault = c.vault := vault_of_house (Chip.ethAlignLoss_house c p)
theorem Chip.replayAll_house (c : Chip) (p : Nat) : (Chip.replayAll c p).house = c.house := by
  unfold Chip.replayAll
  repeat' (first | with_reducible rfl | simp only [↓house_mk, ↓house_ite, ite_self, eq_self, implies_true, ↓Chip.setEgress_house, ↓Chip.raise_house, ↓Chip.setLaneTrain_house, ↓Chip.linkDown_house] | with_reducible refine (keep_forAll Chip.house _ _ _ ?_).trans ?_ | split | intro _ _ | intro _)
theorem Chip.replayAll_vault (c : Chip) (p : Nat) : (Chip.replayAll c p).vault = c.vault := vault_of_house (Chip.replayAll_house c p)

end Sys2Proof.Machine
end

