-- ==== Sys2Proof/Laws/KeepPorts.lean ====
section
/-! SUPPORT. What the operations of Machine/Ports.lean leave of the fuses and the flash, of the state outside the data
plane, and of the data plane. -/

set_option linter.all false

namespace Sys2Proof.Machine

theorem Chip.disablePort_house (c : Chip) (p : Nat) : (Chip.disablePort c p).house = c.house := by
  unfold Chip.disablePort
  repeat' (first | with_reducible rfl | simp only [↓house_mk, ↓house_ite, ite_self, eq_self, implies_true, ↓Chip.bumpN_house, ↓Chip.setLink_house, ↓Chip.dropCells_house, ↓Chip.emptyEgress_house, ↓Chip.loseTarget_house, ↓Chip.gapTarget_house, ↓Chip.laneIdle_house, ↓Chip.cutReception_house, ↓Chip.linkDown_house, ↓Chip.ethAlignLoss_house] | with_reducible refine (keep_forAll Chip.house _ _ _ ?_).trans ?_ | split | intro _ _ | intro _)
theorem Chip.disablePort_vault (c : Chip) (p : Nat) : (Chip.disablePort c p).vault = c.vault := vault_of_house (Chip.disablePort_house c p)
theorem Chip.enablePort_house (c : Chip) (p : Nat) : (Chip.enablePort c p).house = c.house := by
  unfold Chip.enablePort
  repeat' (first | with_reducible rfl | simp only [↓house_ite, ite_self, eq_self, implies_true, ↓Chip.laneStart_house, ↓Chip.laneUpdate_house, ↓Chip.setLaneFlag_house, ↓Chip.setLink_house] | with_reducible refine (keep_forAll Chip.house _ _ _ ?_).trans ?_ | intro _ _ | split)
theorem Chip.enablePort_vault (c : Chip) (p : Nat) : (Chip.enablePort c p).vault = c.vault := vault_of_house (Chip.enablePort_house c p)
theorem Chip.cfgRefuse_house (c : Chip) (pp : Nat) : (Chip.cfgRefuse c pp).house = c.house := by
  simp only [Chip.cfgRefuse, ↓house_ite, ite_self, eq_self, implies_true, ↓Chip.bump_house, ↓Chip.setReg_house]
theorem Chip.cfgRefuse_vault (c : Chip) (pp : Nat) : (Chip.cfgRefuse c pp).vault = c.vault := vault_of_house (Chip.cfgRefuse_house c pp)
theorem Chip.cfgRefuse_plane (c : Chip) (pp : Nat) : (Chip.cfgRefuse c pp).plane = c.plane := by
  simp only [Chip.cfgRefuse, ↓plane_ite, ite_self, eq_self, implies_true, ↓Chip.bump_plane, ↓Chip.setReg_plane]
theorem Chip.vlDefaults_house (c : Chip) (pp : Nat) : (Chip.vlDefaults c pp).house = c.house := by
  unfold Chip.vlDefaults
  repeat' (first | with_reducible rfl | simp only [↓house_ite, ite_self, eq_self, implies_true, ↓Chip.setReg_house] | with_reducible refine (keep_forAll Chip.house _ _ _ ?_).trans ?_ | intro _ _ | split)
theorem Chip.vlDefaults_vault (c : Chip) (pp : Nat) : (Chip.vlDefaults c pp).vault = c.vault := vault_of_house (Chip.vlDefaults_house c pp)
theorem Chip.vlDefaults_plane (c : Chip) (pp : Nat) : (Chip.vlDefaults c pp).plane = c.plane := by
  unfold Chip.vlDefaults
  repeat' (first | with_reducible rfl | simp only [↓plane_ite, ite_self, eq_self, implies_true, ↓Chip.setReg_plane] | with_reducible refine (keep_forAll Chip.plane _ _ _ ?_).trans ?_ | intro _ _ | split)
theorem Chip.rateChange_house (c : Chip) (pp : Nat) : (Chip.rateChange c pp).house = c.house := by
  unfold Chip.rateChange
  repeat' (first | with_reducible rfl | simp only [↓house_ite, ite_self, eq_self, implies_true, ↓Chip.openSettle_house, ↓Chip.synthSettle_house] | with_reducible refine (keep_forAll Chip.house _ _ _ ?_).trans ?_ | intro _ _)
theorem Chip.rateChange_vault (c : Chip) (pp : Nat) : (Chip.rateChange c pp).vault = c.vault := vault_of_house (Chip.rateChange_house c pp)
theorem Chip.cfgWrite_house (c : Chip) (pp : Nat) (v : W32) : (Chip.cfgWrite c pp v).house = c.house := by
  unfold Chip.cfgWrite
  repeat' (first | with_reducible rfl | simp only [↓house_ite, ite_self, eq_self, implies_true, ↓Chip.cfgRefuse_house, ↓Chip.disablePort_house, ↓Chip.enablePort_house, ↓Chip.laneUpdate_house, ↓Chip.precodeUpdate_house, ↓Chip.rateChange_house, ↓Chip.setReg_house, ↓Chip.vlDefaults_house] | with_reducible refine (keep_forAll Chip.house _ _ _ ?_).trans ?_ | intro _ _ | split)
theorem Chip.cfgWrite_vault (c : Chip) (pp : Nat) (v : W32) : (Chip.cfgWrite c pp v).vault = c.vault := vault_of_house (Chip.cfgWrite_house c pp v)

end Sys2Proof.Machine
end

