-- ==== Sys2Proof/Laws/KeepTeardown.lean ====
section
/-! SUPPORT. What the operations of Machine/Teardown.lean leave of the fuses and the flash, of the state outside the data
plane, and of the data plane. -/

set_option linter.all false

namespace Sys2Proof.Machine

theorem Chip.tearFrames_house (c : Chip) (l : Nat) : (Chip.tearFrames c l).2.house = c.house := by
  unfold Chip.tearFrames
  repeat' (first | with_reducible rfl | simp only [↓house_mk, ↓house_ite, ite_self, eq_self, implies_true, ↓Chip.bumpN_house, ↓Chip.dropCells_house, ↓Chip.purge_house, ↓Chip.purgeDrain_house, ↓Chip.setLost_house] | with_reducible refine (keep_forAll Chip.house _ _ _ ?_).trans ?_ | intro _ _ | split)
theorem pair_house_tearFrames {c : Chip} {l : Nat} {a} {c' : Chip} (h : Chip.tearFrames c l = (a, c')) :
    c'.house = c.house := by
  rw [← Chip.tearFrames_house c l, h]
theorem Chip.tearFrames_vault (c : Chip) (l : Nat) : (Chip.tearFrames c l).2.vault = c.vault := vault_of_house (Chip.tearFrames_house c l)
theorem pair_vault_tearFrames {c : Chip} {l : Nat} {a} {c' : Chip} (h : Chip.tearFrames c l = (a, c')) :
    c'.vault = c.vault := vault_of_house (pair_house_tearFrames h)
theorem Chip.tearWaiting_house (c : Chip) (d l : Nat) : (Chip.tearWaiting c d l).house = c.house := by
  simp only [Chip.tearWaiting, ↓house_mk, ↓house_ite, ite_self, eq_self, implies_true, ↓Chip.dropStg_house, ↓Chip.setCch_house]
theorem Chip.tearWaiting_vault (c : Chip) (d l : Nat) : (Chip.tearWaiting c d l).vault = c.vault := vault_of_house (Chip.tearWaiting_house c d l)
theorem Chip.tearStart_house (c : Chip) (l : Nat) (timeout : Bool) : (Chip.tearStart c l timeout).house = c.house := by
  unfold Chip.tearStart
  repeat' (first | with_reducible rfl | simp only [↓house_ite, ite_self, eq_self, implies_true, ↓Chip.abortCoach_house, ↓Chip.putClose_house, ↓Chip.raise_house, ↓Chip.setReg_house, ↓Chip.tdAnswer_house, ↓Chip.tearFrames_house, ↓Chip.tearWaiting_house, ↓Chip.ttDisable_house] | with_reducible refine (pair_house_tearFrames (by assumption)).trans ?_ | with_reducible refine (keep_forAll Chip.house _ _ _ ?_).trans ?_ | intro _ _ | split)
theorem Chip.tearStart_vault (c : Chip) (l : Nat) (timeout : Bool) : (Chip.tearStart c l timeout).vault = c.vault := vault_of_house (Chip.tearStart_house c l timeout)
theorem Chip.releaseAll_house (c : Chip) (l : Nat) : (Chip.releaseAll c l).house = c.house := by
  unfold Chip.releaseAll
  repeat' (first | with_reducible rfl | simp only [↓house_mk, ↓house_ite, ite_self, eq_self, implies_true, ↓Chip.releaseUnit_house, ↓Chip.setCell_house] | with_reducible refine (keep_forAll Chip.house _ _ _ ?_).trans ?_ | intro _ _ | split)
theorem Chip.releaseAll_vault (c : Chip) (l : Nat) : (Chip.releaseAll c l).vault = c.vault := vault_of_house (Chip.releaseAll_house c l)
theorem Chip.tearDone_house (c : Chip) (l : Nat) : (Chip.tearDone c l).house = c.house := by
  unfold Chip.tearDone
  repeat' (first | with_reducible rfl | simp only [↓house_ite, ite_self, eq_self, implies_true, ↓Chip.freeSlot_house, ↓Chip.raise_house, ↓Chip.releaseAll_house, ↓Chip.setFlag_house] | with_reducible refine (keep_forAll Chip.house _ _ _ ?_).trans ?_ | intro _ _ | split)
theorem Chip.tearDone_vault (c : Chip) (l : Nat) : (Chip.tearDone c l).vault = c.vault := vault_of_house (Chip.tearDone_house c l)
theorem Chip.tearRelease_house (c : Chip) (l : Nat) : (Chip.tearRelease c l).house = c.house := by
  unfold Chip.tearRelease
  repeat' (first | with_reducible rfl | simp only [↓house_ite, ite_self, eq_self, implies_true, ↓Chip.setFlag_house] | split)
theorem Chip.tearRelease_vault (c : Chip) (l : Nat) : (Chip.tearRelease c l).vault = c.vault := vault_of_house (Chip.tearRelease_house c l)
theorem Chip.tearRelease_plane (c : Chip) (l : Nat) : (Chip.tearRelease c l).plane = c.plane := by
  unfold Chip.tearRelease
  repeat' (first | with_reducible rfl | simp only [↓plane_ite, ite_self, eq_self, implies_true, ↓Chip.setFlag_plane] | split)

end Sys2Proof.Machine
end

