-- ==== Sys2Proof/Laws/KeepFaults.lean ====
section
/-! SUPPORT. What the operations of Machine/Faults.lean leave of the fuses and the flash, of the state outside the data
plane, and of the data plane. -/

set_option linter.all false

namespace Sys2Proof.Machine

theorem Chip.spareTested_house (c : Chip) (d : Nat) (pass : Bool) : (Chip.spareTested c d pass).house = c.house := by
  unfold Chip.spareTested
  repeat' (first | with_reducible rfl | simp only [↓house_mk, ↓house_ite, ite_self, eq_self, implies_true, ↓Chip.autoRepair_house, ↓Chip.raise_house, ↓Chip.setLanes_house] | split)
theorem Chip.spareTested_vault (c : Chip) (d : Nat) (pass : Bool) : (Chip.spareTested c d pass).vault = c.vault := vault_of_house (Chip.spareTested_house c d pass)
theorem Chip.deviceFatal_house (c : Chip) (die : Nat) : (Chip.deviceFatal c die).house = c.house := by
  unfold Chip.deviceFatal
  repeat' (first | with_reducible rfl | simp only [↓house_mk, ↓house_ite, ite_self, eq_self, implies_true, ↓Chip.laneIdle_house, ↓Chip.raise_house] | with_reducible refine (keep_forAll Chip.house _ _ _ ?_).trans ?_ | intro _ _ | split)
theorem Chip.deviceFatal_vault (c : Chip) (die : Nat) : (Chip.deviceFatal c die).vault = c.vault := vault_of_house (Chip.deviceFatal_house c die)
theorem Chip.markFailed_house (c : Chip) (die : Nat) : (Chip.markFailed c die).house = c.house := by
  simp only [Chip.markFailed, ↓house_mk, ↓house_ite, ite_self, eq_self, implies_true]
theorem Chip.markFailed_vault (c : Chip) (die : Nat) : (Chip.markFailed c die).vault = c.vault := vault_of_house (Chip.markFailed_house c die)
theorem Chip.losePools_house (c : Chip) (die : Nat) : (Chip.losePools c die).house = c.house := by
  simp only [Chip.losePools, ↓house_mk, ↓house_ite, ite_self, eq_self, implies_true]
theorem Chip.losePools_vault (c : Chip) (die : Nat) : (Chip.losePools c die).vault = c.vault := vault_of_house (Chip.losePools_house c die)
theorem Chip.loseHeld_house (c : Chip) (test : Msg → Bool) : (Chip.loseHeld c test).house = c.house := by
  unfold Chip.loseHeld
  repeat' (first | with_reducible rfl | simp only [↓house_mk, ↓house_ite, ite_self, eq_self, implies_true, ↓Chip.dropCells_house, ↓Chip.setLost_house, ↓Chip.gapTarget_house, ↓Chip.purgeDrain_house] | with_reducible refine (keep_forAll Chip.house _ _ _ ?_).trans ?_ | split | intro _ _ | intro _)
theorem Chip.loseHeld_vault (c : Chip) (test : Msg → Bool) : (Chip.loseHeld c test).vault = c.vault := vault_of_house (Chip.loseHeld_house c test)
theorem Chip.clearCoachDie_house (c : Chip) (d : Nat) : (Chip.clearCoachDie c d).house = c.house := by
  unfold Chip.clearCoachDie
  repeat' (first | with_reducible rfl | simp only [↓house_mk, ↓house_ite, ite_self, eq_self, implies_true, ↓Chip.dropCells_house, ↓Chip.losePools_house, ↓Chip.purge_house, ↓Chip.purgeDrain_house, ↓Chip.setCch_house] | with_reducible refine (keep_forAll Chip.house _ _ _ ?_).trans ?_ | intro _ _ | split)
theorem Chip.clearCoachDie_vault (c : Chip) (d : Nat) : (Chip.clearCoachDie c d).vault = c.vault := vault_of_house (Chip.clearCoachDie_house c d)
theorem Chip.coachDieFail_house (c : Chip) (d : Nat) : (Chip.coachDieFail c d).house = c.house := by
  unfold Chip.coachDieFail
  repeat' (first | with_reducible rfl | simp only [↓house_ite, ite_self, eq_self, implies_true, ↓Chip.clearCoachDie_house, ↓Chip.deviceFatal_house, ↓Chip.markFailed_house, ↓Chip.originAbort_house, ↓Chip.raise_house] | with_reducible refine (keep_forAll Chip.house _ _ _ ?_).trans ?_ | intro _ _ | split)
theorem Chip.coachDieFail_vault (c : Chip) (d : Nat) : (Chip.coachDieFail c d).vault = c.vault := vault_of_house (Chip.coachDieFail_house c d)
theorem Chip.portDieFail_house (c : Chip) (d : Nat) : (Chip.portDieFail c d).house = c.house := by
  unfold Chip.portDieFail
  repeat' (first | with_reducible rfl | simp only [↓house_mk, ↓house_ite, ite_self, eq_self, implies_true, ↓Chip.disablePort_house, ↓Chip.dropCells_house, ↓Chip.losePools_house, ↓Chip.markFailed_house, ↓Chip.raise_house] | with_reducible refine (keep_forAll Chip.house _ _ _ ?_).trans ?_ | intro _ _ | split)
theorem Chip.portDieFail_vault (c : Chip) (d : Nat) : (Chip.portDieFail c d).vault = c.vault := vault_of_house (Chip.portDieFail_house c d)
theorem Chip.loseQueued_house (c : Chip) (test : Msg → Bool) (code : Nat) : (Chip.loseQueued c test code).house = c.house := by
  unfold Chip.loseQueued
  repeat' (first | with_reducible rfl | simp only [↓house_mk, ↓house_ite, ite_self, eq_self, implies_true, ↓Chip.gapMsg_house, ↓Chip.purge_house] | with_reducible refine (keep_forAll Chip.house _ _ _ ?_).trans ?_ | split | intro _ _ | intro _)
theorem Chip.loseQueued_vault (c : Chip) (test : Msg → Bool) (code : Nat) : (Chip.loseQueued c test code).vault = c.vault := vault_of_house (Chip.loseQueued_house c test code)
theorem Chip.bufferDieFail_house (c : Chip) (b : Nat) : (Chip.bufferDieFail c b).house = c.house := by
  simp only [Chip.bufferDieFail, ↓house_ite, ite_self, eq_self, implies_true, ↓Chip.loseHeld_house, ↓Chip.losePools_house, ↓Chip.loseQueued_house, ↓Chip.markFailed_house, ↓Chip.raise_house]
theorem Chip.bufferDieFail_vault (c : Chip) (b : Nat) : (Chip.bufferDieFail c b).vault = c.vault := vault_of_house (Chip.bufferDieFail_house c b)
theorem Chip.voqFail_house (c : Chip) (die : Nat) : (Chip.voqFail c die).house = c.house := by
  unfold Chip.voqFail
  repeat' (first | with_reducible rfl | simp only [↓house_mk, ↓house_ite, ite_self, eq_self, implies_true] | split)
theorem Chip.voqFail_vault (c : Chip) (die : Nat) : (Chip.voqFail c die).vault = c.vault := vault_of_house (Chip.voqFail_house c die)
theorem Chip.dieFail_house (c : Chip) (die : Nat) : (Chip.dieFail c die).house = c.house := by
  unfold Chip.dieFail
  repeat' (first | with_reducible rfl | simp only [↓house_mk, ↓house_ite, ite_self, eq_self, implies_true, ↓Chip.deviceFatal_house, ↓Chip.markFailed_house, ↓Chip.coachDieFail_house, ↓Chip.portDieFail_house, ↓Chip.bufferDieFail_house, ↓Chip.voqFail_house] | split)
theorem Chip.dieFail_vault (c : Chip) (die : Nat) : (Chip.dieFail c die).vault = c.vault := vault_of_house (Chip.dieFail_house c die)
theorem Chip.judgeStep_house (c : Chip) (s : W32) : (Chip.judgeStep c s).house = c.house := by
  unfold Chip.judgeStep
  repeat' (first | with_reducible rfl | simp only [↓house_mk, ↓house_ite, ite_self, eq_self, implies_true, ↓Chip.raise_house, ↓Chip.setField_house, ↓Chip.setFlag_house, ↓Chip.setTrail_house] | split)
theorem Chip.judgeStep_vault (c : Chip) (s : W32) : (Chip.judgeStep c s).vault = c.vault := vault_of_house (Chip.judgeStep_house c s)
theorem Chip.trailerCheck_house (c : Chip) : (Chip.trailerCheck c).house = c.house := by
  unfold Chip.trailerCheck
  repeat' (first | with_reducible rfl | simp only [↓house_ite, ite_self, eq_self, implies_true, ↓Chip.judgeStep_house] | split)
theorem Chip.trailerCheck_vault (c : Chip) : (Chip.trailerCheck c).vault = c.vault := vault_of_house (Chip.trailerCheck_house c)
theorem Chip.trailerPromote_house (c : Chip) : (Chip.trailerPromote c).house = c.house := by
  unfold Chip.trailerPromote
  repeat' (first | with_reducible rfl | simp only [↓house_mk, ↓house_ite, ite_self, eq_self, implies_true, ↓Chip.setField_house] | split)
theorem Chip.trailerPromote_vault (c : Chip) : (Chip.trailerPromote c).vault = c.vault := vault_of_house (Chip.trailerPromote_house c)

end Sys2Proof.Machine
end

