-- ==== Sys2Proof/Laws/KeepMemory.lean ====
section
/-! SUPPORT. What the operations of Machine/Memory.lean leave of the fuses and the flash, of the state outside the data
plane, and of the data plane. -/

set_option linter.all false

namespace Sys2Proof.Machine

theorem Chip.quotaWrite_house (c : Chip) (die : Nat) (v : W32) : (Chip.quotaWrite c die v).house = c.house := by
  unfold Chip.quotaWrite
  repeat' (first | with_reducible rfl | simp only [↓house_ite, ite_self, eq_self, implies_true, ↓Chip.evalLevel_house, ↓Chip.setFlag_house, ↓Chip.setReg_house] | split)
theorem Chip.quotaWrite_vault (c : Chip) (die : Nat) (v : W32) : (Chip.quotaWrite c die v).vault = c.vault := vault_of_house (Chip.quotaWrite_house c die v)
theorem Chip.thrWrite_house (c : Chip) (die : Nat) (second : Bool) (v : W32) : (Chip.thrWrite c die second v).house = c.house := by
  unfold Chip.thrWrite
  repeat' (first | with_reducible rfl | simp only [↓house_ite, ite_self, eq_self, implies_true, ↓Chip.evalLevel_house, ↓Chip.setFlag_house, ↓Chip.setReg_house] | with_reducible refine (keep_forAll Chip.house _ _ _ ?_).trans ?_ | intro _ _ | split)
theorem Chip.thrWrite_vault (c : Chip) (die : Nat) (second : Bool) (v : W32) : (Chip.thrWrite c die second v).vault = c.vault := vault_of_house (Chip.thrWrite_house c die second v)
theorem Chip.quarWrite_house (c : Chip) (b : Nat) (v : W32) : (Chip.quarWrite c b v).house = c.house := by
  unfold Chip.quarWrite
  repeat' (first | with_reducible rfl | simp only [↓house_mk, ↓house_ite, ite_self, eq_self, implies_true, ↓Chip.setFlag_house, ↓Chip.setReg_house] | split)
theorem Chip.quarWrite_vault (c : Chip) (b : Nat) (v : W32) : (Chip.quarWrite c b v).vault = c.vault := vault_of_house (Chip.quarWrite_house c b v)
theorem Chip.quarDone_house (c : Chip) (b : Nat) (reads : List MarchRead) : (Chip.quarDone c b reads).house = c.house := by
  unfold Chip.quarDone
  repeat' (first | with_reducible rfl | simp only [↓house_mk, ↓house_ite, ite_self, eq_self, implies_true, ↓Chip.setFlag_house, ↓Chip.releaseUnit_house, ↓Chip.setCell_house] | split)
theorem Chip.quarDone_vault (c : Chip) (b : Nat) (reads : List MarchRead) : (Chip.quarDone c b reads).vault = c.vault := vault_of_house (Chip.quarDone_house c b reads)
theorem Chip.fenceCoaches_house (c : Chip) (d bank : Nat) : (Chip.fenceCoaches c d bank).house = c.house := by
  unfold Chip.fenceCoaches
  repeat' (first | with_reducible rfl | simp only [↓house_mk, ↓house_ite, ite_self, eq_self, implies_true, ↓Chip.abortCoach_house, ↓Chip.dropStg_house, ↓Chip.originAbort_house, ↓Chip.setCch_house] | with_reducible refine (keep_forAll Chip.house _ _ _ ?_).trans ?_ | intro _ _)
theorem Chip.fenceCoaches_vault (c : Chip) (d bank : Nat) : (Chip.fenceCoaches c d bank).vault = c.vault := vault_of_house (Chip.fenceCoaches_house c d bank)
theorem Chip.fenceCells_house (c : Chip) (b bank : Nat) : (Chip.fenceCells c b bank).house = c.house := by
  simp only [Chip.fenceCells, ↓house_ite, ite_self, eq_self, implies_true, ↓Chip.loseHeld_house, ↓Chip.loseQueued_house]
theorem Chip.fenceCells_vault (c : Chip) (b bank : Nat) : (Chip.fenceCells c b bank).vault = c.vault := vault_of_house (Chip.fenceCells_house c b bank)
theorem Chip.fenceIngress_house (c : Chip) (d bank : Nat) : (Chip.fenceIngress c d bank).house = c.house := by
  unfold Chip.fenceIngress
  repeat' (first | with_reducible rfl | simp only [↓house_ite, ite_self, eq_self, implies_true, ↓Chip.disablePort_house] | with_reducible refine (keep_forAll Chip.house _ _ _ ?_).trans ?_ | intro _ _ | split)
theorem Chip.fenceIngress_vault (c : Chip) (d bank : Nat) : (Chip.fenceIngress c d bank).vault = c.vault := vault_of_house (Chip.fenceIngress_house c d bank)
theorem Chip.fenceBank_house (c : Chip) (die bank word : Nat) : (Chip.fenceBank c die bank word).house = c.house := by
  unfold Chip.fenceBank
  repeat' (first | with_reducible rfl | simp only [↓house_mk, ↓house_ite, ite_self, eq_self, implies_true, ↓Chip.dieFail_house, ↓Chip.fenceCells_house, ↓Chip.fenceCoaches_house, ↓Chip.fenceIngress_house, ↓Chip.raise_house, ↓Chip.setFlag_house] | split)
theorem Chip.fenceBank_vault (c : Chip) (die bank word : Nat) : (Chip.fenceBank c die bank word).vault = c.vault := vault_of_house (Chip.fenceBank_house c die bank word)
theorem Chip.refetched_house (c : Chip) (die : Nat) (bank : Nat) (word : Nat) : (Chip.refetched c die bank word).house = c.house := by
  unfold Chip.refetched
  repeat' (first | with_reducible rfl | simp only [↓house_mk, ↓house_ite, ite_self, eq_self, implies_true, ↓Chip.eccUncorr_house] | split)
theorem Chip.refetched_vault (c : Chip) (die : Nat) (bank : Nat) (word : Nat) : (Chip.refetched c die bank word).vault = c.vault := vault_of_house (Chip.refetched_house c die bank word)
theorem Chip.refetched_plane (c : Chip) (die : Nat) (bank : Nat) (word : Nat) : (Chip.refetched c die bank word).plane = c.plane := by
  unfold Chip.refetched
  repeat' (first | with_reducible rfl | simp only [↓plane_mk, ↓plane_ite, ite_self, eq_self, implies_true, ↓Chip.eccUncorr_plane] | split)
theorem Chip.useSpares_house (c : Chip) (die bank sub rows cols : Nat) : (Chip.useSpares c die bank sub rows cols).house = c.house := by
  simp only [Chip.useSpares, ↓house_mk, ↓house_ite, ite_self, eq_self, implies_true]
theorem Chip.useSpares_vault (c : Chip) (die bank sub rows cols : Nat) : (Chip.useSpares c die bank sub rows cols).vault = c.vault := vault_of_house (Chip.useSpares_house c die bank sub rows cols)
theorem Chip.setMarch_house (c : Chip) (die : Nat) (x : Option W32) : (Chip.setMarch c die x).house = c.house := by
  simp only [Chip.setMarch, ↓house_mk, ↓house_ite, ite_self, eq_self, implies_true]
theorem Chip.setMarch_vault (c : Chip) (die : Nat) (x : Option W32) : (Chip.setMarch c die x).vault = c.vault := vault_of_house (Chip.setMarch_house c die x)
theorem Chip.marchWrite_house (c : Chip) (die : Nat) (v : W32) : (Chip.marchWrite c die v).house = c.house := by
  unfold Chip.marchWrite
  repeat' (first | with_reducible rfl | simp only [↓house_ite, ite_self, eq_self, implies_true, ↓Chip.bankAccess_house, ↓Chip.setFlag_house, ↓Chip.setMarch_house, ↓Chip.setReg_house] | split)
theorem Chip.marchWrite_vault (c : Chip) (die : Nat) (v : W32) : (Chip.marchWrite c die v).vault = c.vault := vault_of_house (Chip.marchWrite_house c die v)
theorem Chip.marchFault_house (c : Chip) (die : Nat) (cmd : W32) (word : Nat) (row : Bool) : (Chip.marchFault c die cmd word row).house = c.house := by
  unfold Chip.marchFault
  repeat' (first | with_reducible rfl | simp only [↓house_ite, ite_self, eq_self, implies_true, ↓Chip.fenceBank_house, ↓Chip.raise_house, ↓Chip.setReg_house, ↓Chip.useSpares_house] | split)
theorem Chip.marchFault_vault (c : Chip) (die : Nat) (cmd : W32) (word : Nat) (row : Bool) : (Chip.marchFault c die cmd word row).vault = c.vault := vault_of_house (Chip.marchFault_house c die cmd word row)
theorem Chip.marchDone_house (c : Chip) (die : Nat) (rep : MarchReport) : (Chip.marchDone c die rep).house = c.house := by
  unfold Chip.marchDone
  repeat' (first | with_reducible rfl | simp only [↓house_mk, ↓house_ite, ite_self, eq_self, implies_true, ↓Chip.setReg_house, ↓Chip.setFlag_house, ↓Chip.bankAccess_house, ↓Chip.setMarch_house, ↓Chip.marchFault_house] | split)
theorem Chip.marchDone_vault (c : Chip) (die : Nat) (rep : MarchReport) : (Chip.marchDone c die rep).vault = c.vault := vault_of_house (Chip.marchDone_house c die rep)
theorem Chip.setRet_house (c : Chip) (die bank : Nat) (r : RetSt) : (Chip.setRet c die bank r).house = c.house := by
  simp only [Chip.setRet, ↓house_mk, ↓house_ite, ite_self, eq_self, implies_true]
theorem Chip.setRet_vault (c : Chip) (die bank : Nat) (r : RetSt) : (Chip.setRet c die bank r).vault = c.vault := vault_of_house (Chip.setRet_house c die bank r)
theorem Chip.setRetStat_house (c : Chip) (die bank : Nat) (b : Bool) : (Chip.setRetStat c die bank b).house = c.house := by
  simp only [Chip.setRetStat, ↓house_ite, ite_self, eq_self, implies_true, ↓Chip.setFlag_house]
theorem Chip.setRetStat_vault (c : Chip) (die bank : Nat) (b : Bool) : (Chip.setRetStat c die bank b).vault = c.vault := vault_of_house (Chip.setRetStat_house c die bank b)
theorem Chip.setRetStat_plane (c : Chip) (die bank : Nat) (b : Bool) : (Chip.setRetStat c die bank b).plane = c.plane := by
  simp only [Chip.setRetStat, ↓plane_ite, ite_self, eq_self, implies_true, ↓Chip.setFlag_plane]
theorem Chip.retEnter_house (c : Chip) (die : Nat) (bank : Nat) : (Chip.retEnter c die bank).house = c.house := by
  unfold Chip.retEnter
  repeat' (first | with_reducible rfl | simp only [↓house_mk, ↓house_ite, ite_self, eq_self, implies_true, ↓Chip.setRet_house] | split)
theorem Chip.retEnter_vault (c : Chip) (die : Nat) (bank : Nat) : (Chip.retEnter c die bank).vault = c.vault := vault_of_house (Chip.retEnter_house c die bank)
theorem Chip.retEntered_house (c : Chip) (die bank : Nat) : (Chip.retEntered c die bank).house = c.house := by
  unfold Chip.retEntered
  repeat' (first | with_reducible rfl | simp only [↓house_mk, ↓house_ite, ite_self, eq_self, implies_true, ↓Chip.bump_house, ↓Chip.setRet_house, ↓Chip.setRetStat_house] | split)
theorem Chip.retEntered_vault (c : Chip) (die bank : Nat) : (Chip.retEntered c die bank).vault = c.vault := vault_of_house (Chip.retEntered_house c die bank)
theorem Chip.retWoken_house (c : Chip) (die bank : Nat) : (Chip.retWoken c die bank).house = c.house := by
  unfold Chip.retWoken
  repeat' (first | with_reducible rfl | simp only [↓house_ite, ite_self, eq_self, implies_true, ↓Chip.setRet_house] | split)
theorem Chip.retWoken_vault (c : Chip) (die bank : Nat) : (Chip.retWoken c die bank).vault = c.vault := vault_of_house (Chip.retWoken_house c die bank)

end Sys2Proof.Machine
end

