-- ==== Sys2Proof/Laws/KeepLivery.lean ====
section
/-! SUPPORT. What the operations of Machine/Livery.lean leave of the fuses and the flash, of the state outside the data
plane, and of the data plane. -/

set_option linter.all false

namespace Sys2Proof.Machine

theorem Chip.dropSeeds_vault (c : Chip) (l : Nat) : (Chip.dropSeeds c l).vault = c.vault := by
  unfold Chip.dropSeeds
  repeat' (first | with_reducible rfl | simp only [↓vault_mk, ↓vault_sec, ↓vault_fw, ↓vault_secFw, ↓vault_ite, ite_self, eq_self, implies_true] | simp only [Chip.setFlag_sec, Chip.setField_sec, Chip.setReg_sec, Chip.bump_sec, Chip.setFlag_fw, Chip.setField_fw, Chip.setReg_fw, Chip.bump_fw])
theorem Chip.dropSeeds_plane (c : Chip) (l : Nat) : (Chip.dropSeeds c l).plane = c.plane := by
  simp only [Chip.dropSeeds, ↓plane_mk, ↓plane_ite, ite_self, eq_self, implies_true]
theorem Chip.setEnergy_vault (c : Chip) (k n : Nat) : (Chip.setEnergy c k n).vault = c.vault := by
  unfold Chip.setEnergy
  repeat' (first | with_reducible rfl | simp only [↓vault_mk, ↓vault_sec, ↓vault_fw, ↓vault_secFw, ↓vault_ite, ite_self, eq_self, implies_true] | simp only [Chip.setFlag_sec, Chip.setField_sec, Chip.setReg_sec, Chip.bump_sec, Chip.setFlag_fw, Chip.setField_fw, Chip.setReg_fw, Chip.bump_fw])
theorem Chip.setEnergy_plane (c : Chip) (k n : Nat) : (Chip.setEnergy c k n).plane = c.plane := by
  simp only [Chip.setEnergy, ↓plane_mk, ↓plane_ite, ite_self, eq_self, implies_true]
theorem Chip.zeroEnergy_vault (c : Chip) (l : Nat) : (Chip.zeroEnergy c l).vault = c.vault := by
  unfold Chip.zeroEnergy
  repeat' (first | with_reducible rfl | simp only [↓vault_mk, ↓vault_sec, ↓vault_fw, ↓vault_secFw, ↓vault_ite, ite_self, eq_self, implies_true, ↓Chip.setEnergy_vault] | split | simp only [Chip.setFlag_sec, Chip.setField_sec, Chip.setReg_sec, Chip.bump_sec, Chip.setFlag_fw, Chip.setField_fw, Chip.setReg_fw, Chip.bump_fw])
theorem Chip.zeroEnergy_plane (c : Chip) (l : Nat) : (Chip.zeroEnergy c l).plane = c.plane := by
  unfold Chip.zeroEnergy
  repeat' (first | with_reducible rfl | simp only [↓plane_mk, ↓plane_ite, ite_self, eq_self, implies_true, ↓Chip.setEnergy_plane] | split)
theorem Chip.livWrite_vault (c : Chip) (v : W32) : (Chip.livWrite c v).vault = c.vault := by
  unfold Chip.livWrite
  repeat' (first | with_reducible rfl | simp only [↓vault_mk, ↓vault_sec, ↓vault_fw, ↓vault_secFw, ↓vault_ite, ite_self, eq_self, implies_true, ↓Chip.setReg_vault, ↓Chip.setFlag_vault, ↓Chip.dropSeeds_vault, ↓Chip.zeroEnergy_vault] | split | simp only [Chip.setFlag_sec, Chip.setField_sec, Chip.setReg_sec, Chip.bump_sec, Chip.setFlag_fw, Chip.setField_fw, Chip.setReg_fw, Chip.bump_fw])
theorem Chip.livWrite_plane (c : Chip) (v : W32) : (Chip.livWrite c v).plane = c.plane := by
  unfold Chip.livWrite
  repeat' (first | with_reducible rfl | simp only [↓plane_mk, ↓plane_ite, ite_self, eq_self, implies_true, ↓Chip.setReg_plane, ↓Chip.setFlag_plane, ↓Chip.dropSeeds_plane, ↓Chip.zeroEnergy_plane] | split)
theorem Chip.seedSet_vault (c : Chip) (i : Nat) : (Chip.seedSet c i).vault = c.vault := by
  unfold Chip.seedSet
  repeat' (first | with_reducible rfl | simp only [↓vault_mk, ↓vault_sec, ↓vault_fw, ↓vault_secFw, ↓vault_ite, ite_self, eq_self, implies_true] | simp only [Chip.setFlag_sec, Chip.setField_sec, Chip.setReg_sec, Chip.bump_sec, Chip.setFlag_fw, Chip.setField_fw, Chip.setReg_fw, Chip.bump_fw])
theorem Chip.seedSet_plane (c : Chip) (i : Nat) : (Chip.seedSet c i).plane = c.plane := by
  simp only [Chip.seedSet, ↓plane_mk, ↓plane_ite, ite_self, eq_self, implies_true]
theorem Chip.energyRead_house (c : Chip) (un : Bool) : (Chip.energyRead c un).house = c.house := by
  unfold Chip.energyRead
  repeat' (first | with_reducible rfl | simp only [↓house_ite, ite_self, eq_self, implies_true, ↓Chip.answer_house, ↓Chip.setReg_house] | split)
theorem Chip.energyRead_vault (c : Chip) (un : Bool) : (Chip.energyRead c un).vault = c.vault := vault_of_house (Chip.energyRead_house c un)
theorem Chip.energyRead_plane (c : Chip) (un : Bool) : (Chip.energyRead c un).plane = c.plane := by
  unfold Chip.energyRead
  repeat' (first | with_reducible rfl | simp only [↓plane_ite, ite_self, eq_self, implies_true, ↓Chip.answer_plane, ↓Chip.setReg_plane] | split)

end Sys2Proof.Machine
end

