-- ==== Sys2Proof/Laws/KeepFlash.lean ====
section
/-! SUPPORT. What the operations of Machine/Flash.lean leave of the fuses and the flash, of the state outside the data
plane, and of the data plane. -/

set_option linter.all false

namespace Sys2Proof.Machine

theorem Chip.setFlash_plane (c : Chip) (m : Tbl Byte) : (Chip.setFlash c m).plane = c.plane := by
  simp only [Chip.setFlash, ↓plane_mk, ↓plane_ite, ite_self, eq_self, implies_true]
theorem Chip.setFlash_fuses (c : Chip) (m : Tbl Byte) : (c.setFlash m).vault.fuses = c.vault.fuses := (rfl)
theorem Chip.setFlash_canon (c : Chip) (m : Tbl Byte) (h : Tbl.wf (fun _ => erased) m = true) :
    (c.setFlash m).vault.canon := h
theorem program_wf (m : Tbl Byte) (a : Nat) (bs : List Byte) (h : Tbl.wf (fun _ => erased) m = true) :
    Tbl.wf (fun _ => erased) (program m a bs) = true := by
  induction bs generalizing m a with
  | nil => exact h
  | cons b bs ih => exact ih _ _ (Tbl.wf_set (fun _ => erased) _ _ _ h)
theorem Chip.flashProgram_plane (c : Chip) (a : Nat) (bs : List Byte) : (Chip.flashProgram c a bs).plane = c.plane := by
  simp only [Chip.flashProgram, ↓plane_ite, ite_self, eq_self, implies_true, ↓Chip.setFlash_plane]
theorem Chip.flashProgram_fuses (c : Chip) (a : Nat) (bs : List Byte) :
    (c.flashProgram a bs).vault.fuses = c.vault.fuses := c.setFlash_fuses _
theorem Chip.flashProgram_canon (c : Chip) (a : Nat) (bs : List Byte) (h : c.vault.canon) :
    (c.flashProgram a bs).vault.canon := program_wf _ _ _ h
theorem Chip.flashErase_plane (c : Chip) (a n : Nat) : (Chip.flashErase c a n).plane = c.plane := by
  simp only [Chip.flashErase, ↓plane_ite, ite_self, eq_self, implies_true, ↓Chip.setFlash_plane]
theorem Chip.flashErase_fuses (c : Chip) (a n : Nat) : (c.flashErase a n).vault.fuses = c.vault.fuses :=
  c.setFlash_fuses _
theorem Chip.flashErase_canon (c : Chip) (a n : Nat) (h : c.vault.canon) : (c.flashErase a n).vault.canon :=
  Tbl.wf_filter _ _ _ h
theorem Chip.writeSlotState_plane (c : Chip) (k : Nat) (x : SlotState) : (Chip.writeSlotState c k x).plane = c.plane := by
  simp only [Chip.writeSlotState, ↓plane_ite, ite_self, eq_self, implies_true, ↓Chip.flashProgram_plane]
theorem Chip.writeSlotState_fuses (c : Chip) (k : Nat) (x : SlotState) : (Chip.writeSlotState c k x).vault.fuses = c.vault.fuses := by
  unfold Chip.writeSlotState
  repeat' (first | with_reducible rfl | simp only [↓vault_mk, ↓vault_sec, ↓vault_fw, ↓vault_secFw, ↓vault_ite, ↓fuses_ite, ite_self, eq_self, implies_true, ↓Chip.flashProgram_fuses] | with_reducible refine (fuses_forAll _ _ _ ?_).trans ?_ | intro _ _ | split | simp only [Chip.setFlag_sec, Chip.setField_sec, Chip.setReg_sec, Chip.bump_sec, Chip.setFlag_fw, Chip.setField_fw, Chip.setReg_fw, Chip.bump_fw])
theorem Chip.writeSlotState_canon (c : Chip) (k : Nat) (x : SlotState) (h : c.vault.canon) : (Chip.writeSlotState c k x).vault.canon := by
  unfold Chip.writeSlotState
  repeat' (first | with_reducible assumption | simp only [↓vault_mk, ↓vault_sec, ↓vault_fw, ↓vault_secFw, ↓vault_ite] | with_reducible refine canon_ite _ _ _ ?_ ?_ | with_reducible apply Chip.flashProgram_canon | with_reducible refine canon_forAll _ _ _ ?_ ?_ | intro _ _ _ | split | simp only [Chip.setFlag_sec, Chip.setField_sec, Chip.setReg_sec, Chip.bump_sec, Chip.setFlag_fw, Chip.setField_fw, Chip.setReg_fw, Chip.bump_fw])
theorem Chip.logPageWrite_plane (c : Chip) (first count : Nat) (body : List Byte) : (Chip.logPageWrite c first count body).plane = c.plane := by
  unfold Chip.logPageWrite
  repeat' (first | with_reducible rfl | simp only [↓plane_mk, ↓plane_ite, ite_self, eq_self, implies_true, ↓Chip.flashErase_plane, ↓Chip.flashProgram_plane] | split)
theorem Chip.logPageWrite_fuses (c : Chip) (first count : Nat) (body : List Byte) : (Chip.logPageWrite c first count body).vault.fuses = c.vault.fuses := by
  unfold Chip.logPageWrite
  repeat' (first | with_reducible rfl | simp only [↓vault_mk, ↓vault_sec, ↓vault_fw, ↓vault_secFw, ↓vault_ite, ↓fuses_ite, ite_self, eq_self, implies_true, ↓Chip.replicate_vault, ↓Chip.flashErase_fuses, ↓Chip.flashProgram_fuses] | with_reducible refine (fuses_forAll _ _ _ ?_).trans ?_ | intro _ _ | split | simp only [Chip.setFlag_sec, Chip.setField_sec, Chip.setReg_sec, Chip.bump_sec, Chip.setFlag_fw, Chip.setField_fw, Chip.setReg_fw, Chip.bump_fw])
theorem Chip.logPageWrite_canon (c : Chip) (first count : Nat) (body : List Byte) (h : c.vault.canon) : (Chip.logPageWrite c first count body).vault.canon := by
  unfold Chip.logPageWrite
  repeat' (first | with_reducible assumption | simp only [↓vault_mk, ↓vault_sec, ↓vault_fw, ↓vault_secFw, ↓vault_ite, ↓Chip.replicate_vault] | with_reducible refine canon_ite _ _ _ ?_ ?_ | with_reducible apply Chip.flashErase_canon | with_reducible apply Chip.flashProgram_canon | with_reducible refine canon_forAll _ _ _ ?_ ?_ | intro _ _ _ | split | simp only [Chip.setFlag_sec, Chip.setField_sec, Chip.setReg_sec, Chip.bump_sec, Chip.setFlag_fw, Chip.setField_fw, Chip.setReg_fw, Chip.bump_fw])
theorem Chip.logCommitAll_plane (n : Nat) (rs : List (BitVec 256)) (c : Chip) :
    (Chip.logCommitAll n rs c).plane = c.plane := by
  induction n generalizing rs c with
  | zero => cases rs <;> rfl
  | succ n ih =>
    cases rs with
    | nil => rfl
    | cons r rs => simp only [Chip.logCommitAll, ih, Chip.setReg_plane, Chip.logPageWrite_plane]
theorem Chip.logCommitAll_fuses (n : Nat) (rs : List (BitVec 256)) (c : Chip) :
    (Chip.logCommitAll n rs c).vault.fuses = c.vault.fuses := by
  induction n generalizing rs c with
  | zero => cases rs <;> rfl
  | succ n ih =>
    cases rs with
    | nil => rfl
    | cons r rs => simp only [Chip.logCommitAll, ih, Chip.setReg_vault, Chip.logPageWrite_fuses]
theorem Chip.logCommitAll_canon (n : Nat) (rs : List (BitVec 256)) (c : Chip) (h : c.vault.canon) :
    (Chip.logCommitAll n rs c).vault.canon := by
  induction n generalizing rs c with
  | zero => cases rs <;> exact h
  | succ n ih =>
    cases rs with
    | nil => exact h
    | cons r rs =>
      simp only [Chip.logCommitAll]
      apply ih
      rw [Chip.setReg_vault]
      exact Chip.logPageWrite_canon _ _ _ _ h
theorem Chip.logCommit_plane (c : Chip) : (Chip.logCommit c).plane = c.plane := by
  unfold Chip.logCommit
  repeat' (first | with_reducible rfl | simp only [↓plane_mk, ↓plane_ite, ite_self, eq_self, implies_true, ↓Chip.logCommitAll_plane, ↓Chip.raise_plane] | with_reducible refine (keep_forAll Chip.plane _ _ _ ?_).trans ?_ | intro _ _)
theorem Chip.logCommit_fuses (c : Chip) : (Chip.logCommit c).vault.fuses = c.vault.fuses := by
  unfold Chip.logCommit
  repeat' (first | with_reducible rfl | simp only [↓vault_mk, ↓vault_sec, ↓vault_fw, ↓vault_secFw, ↓vault_ite, ↓fuses_ite, ite_self, eq_self, implies_true, ↓Chip.raise_vault, ↓Chip.logCommitAll_fuses] | with_reducible refine (fuses_forAll _ _ _ ?_).trans ?_ | intro _ _ | split | simp only [Chip.setFlag_sec, Chip.setField_sec, Chip.setReg_sec, Chip.bump_sec, Chip.setFlag_fw, Chip.setField_fw, Chip.setReg_fw, Chip.bump_fw])
theorem Chip.logCommit_canon (c : Chip) (h : c.vault.canon) : (Chip.logCommit c).vault.canon := by
  unfold Chip.logCommit
  repeat' (first | with_reducible assumption | simp only [↓vault_mk, ↓vault_sec, ↓vault_fw, ↓vault_secFw, ↓vault_ite, ↓Chip.raise_vault] | with_reducible refine canon_ite _ _ _ ?_ ?_ | with_reducible apply Chip.logCommitAll_canon | with_reducible refine canon_forAll _ _ _ ?_ ?_ | intro _ _ _ | split | simp only [Chip.setFlag_sec, Chip.setField_sec, Chip.setReg_sec, Chip.bump_sec, Chip.setFlag_fw, Chip.setField_fw, Chip.setReg_fw, Chip.bump_fw])
theorem Chip.logFind_vault (c : Chip) : (Chip.logFind c).vault = c.vault := by
  unfold Chip.logFind
  generalize List.filter c.logPageValid (List.range logPages) = pages
  extract_lets
  split
  · apply vault_fw c
  · exact Eq.refl _
theorem Chip.logFind_plane (c : Chip) : (Chip.logFind c).plane = c.plane := by
  unfold Chip.logFind
  repeat' (first | with_reducible rfl | simp only [↓plane_mk, ↓plane_ite, ite_self, eq_self, implies_true] | with_reducible refine (keep_foldl Chip.plane _ _ _ ?_).trans ?_ | with_reducible refine (keep_fold2 Chip.plane _ _ _ ?_).trans ?_ | intro _ _ | split)
theorem Chip.gaspCopy_plane (c : Chip) : (Chip.gaspCopy c).plane = c.plane := by
  unfold Chip.gaspCopy
  repeat' (first | with_reducible rfl | simp only [↓plane_ite, ite_self, eq_self, implies_true, ↓Chip.flashErase_plane, ↓Chip.logPageWrite_plane] | split)
theorem Chip.gaspCopy_fuses (c : Chip) : (Chip.gaspCopy c).vault.fuses = c.vault.fuses := by
  unfold Chip.gaspCopy
  generalize c.flashRead gaspBase 256 = bs
  show (if gaspValid bs = true then _ else c).vault.fuses = _
  split
  · rw [Chip.flashErase_fuses, Chip.logPageWrite_fuses]
  · exact Eq.refl _
theorem Chip.gaspCopy_canon (c : Chip) (h : c.vault.canon) : (Chip.gaspCopy c).vault.canon := by
  unfold Chip.gaspCopy
  generalize c.flashRead gaspBase 256 = bs
  show (if gaspValid bs = true then _ else c).vault.canon
  split
  · exact Chip.flashErase_canon _ _ _ (Chip.logPageWrite_canon _ _ _ _ h)
  · exact h

end Sys2Proof.Machine
end

