-- ==== Sys2Proof/Laws/KeepPower.lean ====
section
/-! SUPPORT. What the operations of Machine/Power.lean leave of the fuses and the flash, of the state outside the data
plane, and of the data plane. -/

set_option linter.all false

namespace Sys2Proof.Machine

theorem Chip.setRail_vault (c : Chip) (r : Nat) (x : RailSt) : (Chip.setRail c r x).vault = c.vault := by
  simp only [Chip.setRail, ↓vault_mk, ↓vault_ite, ite_self, eq_self, implies_true]
theorem Chip.setRail_plane (c : Chip) (r : Nat) (x : RailSt) : (Chip.setRail c r x).plane = c.plane := by
  simp only [Chip.setRail, ↓plane_mk, ↓plane_ite, ite_self, eq_self, implies_true]
theorem Chip.retarget_vault (c : Chip) (r : Nat) (v : Nat) : (Chip.retarget c r v).vault = c.vault := by
  unfold Chip.retarget
  repeat' (first | with_reducible rfl | simp only [↓vault_mk, ↓vault_sec, ↓vault_fw, ↓vault_secFw, ↓vault_ite, ite_self, eq_self, implies_true, ↓Chip.setReg_vault, ↓Chip.setRail_vault] | split | simp only [Chip.setFlag_sec, Chip.setField_sec, Chip.setReg_sec, Chip.bump_sec, Chip.setFlag_fw, Chip.setField_fw, Chip.setReg_fw, Chip.bump_fw])
theorem Chip.retarget_plane (c : Chip) (r : Nat) (v : Nat) : (Chip.retarget c r v).plane = c.plane := by
  unfold Chip.retarget
  repeat' (first | with_reducible rfl | simp only [↓plane_mk, ↓plane_ite, ite_self, eq_self, implies_true, ↓Chip.setReg_plane, ↓Chip.setRail_plane] | split)
theorem Chip.railSettle_vault (c : Chip) (r : Nat) : (Chip.railSettle c r).vault = c.vault := by
  unfold Chip.railSettle
  repeat' (first | with_reducible rfl | simp only [↓vault_mk, ↓vault_sec, ↓vault_fw, ↓vault_secFw, ↓vault_ite, ite_self, eq_self, implies_true, ↓Chip.setRail_vault] | split | simp only [Chip.setFlag_sec, Chip.setField_sec, Chip.setReg_sec, Chip.bump_sec, Chip.setFlag_fw, Chip.setField_fw, Chip.setReg_fw, Chip.bump_fw])
theorem Chip.railSettle_plane (c : Chip) (r : Nat) : (Chip.railSettle c r).plane = c.plane := by
  unfold Chip.railSettle
  repeat' (first | with_reducible rfl | simp only [↓plane_mk, ↓plane_ite, ite_self, eq_self, implies_true, ↓Chip.setRail_plane] | split)
theorem Chip.vsetWrite_vault (c : Chip) (v : W32) : (Chip.vsetWrite c v).vault = c.vault := by
  unfold Chip.vsetWrite
  repeat' (first | with_reducible rfl | simp only [↓vault_ite, ite_self, eq_self, implies_true, ↓Chip.raise_vault, ↓Chip.retarget_vault, ↓Chip.setFlag_vault] | with_reducible refine (keep_forAll Chip.vault _ _ _ ?_).trans ?_ | intro _ _ | split)
theorem Chip.vsetWrite_plane (c : Chip) (v : W32) : (Chip.vsetWrite c v).plane = c.plane := by
  unfold Chip.vsetWrite
  repeat' (first | with_reducible rfl | simp only [↓plane_ite, ite_self, eq_self, implies_true, ↓Chip.raise_plane, ↓Chip.retarget_plane, ↓Chip.setFlag_plane] | with_reducible refine (keep_forAll Chip.plane _ _ _ ?_).trans ?_ | intro _ _ | split)
theorem Chip.slewDone_vault (c : Chip) (r : Nat) : (Chip.slewDone c r).vault = c.vault := by
  unfold Chip.slewDone
  repeat' (first | with_reducible rfl | simp only [↓vault_mk, ↓vault_sec, ↓vault_fw, ↓vault_secFw, ↓vault_ite, ite_self, eq_self, implies_true, ↓Chip.railSettle_vault] | split | simp only [Chip.setFlag_sec, Chip.setField_sec, Chip.setReg_sec, Chip.bump_sec, Chip.setFlag_fw, Chip.setField_fw, Chip.setReg_fw, Chip.bump_fw])
theorem Chip.slewDone_plane (c : Chip) (r : Nat) : (Chip.slewDone c r).plane = c.plane := by
  unfold Chip.slewDone
  repeat' (first | with_reducible rfl | simp only [↓plane_mk, ↓plane_ite, ite_self, eq_self, implies_true, ↓Chip.railSettle_plane] | split)
theorem Chip.removeRail_vault (c : Chip) (r : Nat) : (Chip.removeRail c r).vault = c.vault := by
  unfold Chip.removeRail
  repeat' (first | with_reducible rfl | simp only [↓vault_mk, ↓vault_sec, ↓vault_fw, ↓vault_secFw, ↓vault_ite, ite_self, eq_self, implies_true, ↓Chip.setRail_vault] | split | simp only [Chip.setFlag_sec, Chip.setField_sec, Chip.setReg_sec, Chip.bump_sec, Chip.setFlag_fw, Chip.setField_fw, Chip.setReg_fw, Chip.bump_fw])
theorem Chip.removeRail_plane (c : Chip) (r : Nat) : (Chip.removeRail c r).plane = c.plane := by
  unfold Chip.removeRail
  repeat' (first | with_reducible rfl | simp only [↓plane_mk, ↓plane_ite, ite_self, eq_self, implies_true, ↓Chip.setRail_plane] | split)
theorem Chip.railFault_vault (c : Chip) (r : Nat) : (Chip.railFault c r).vault = c.vault := by
  unfold Chip.railFault
  repeat' (first | with_reducible rfl | simp only [↓vault_ite, ite_self, eq_self, implies_true, ↓Chip.dieFail_vault, ↓Chip.raise_vault, ↓Chip.removeRail_vault, ↓Chip.setFlag_vault] | with_reducible refine (keep_forAll Chip.vault _ _ _ ?_).trans ?_ | intro _ _)
theorem Chip.phaseCheck_vault (c : Chip) (r : Nat) (cur : List Nat) (estimate : Nat) (k : Nat) : (Chip.phaseCheck c r cur estimate k).vault = c.vault := by
  unfold Chip.phaseCheck
  repeat' (first | with_reducible rfl | simp only [↓vault_mk, ↓vault_ite, ite_self, eq_self, implies_true, ↓Chip.bump_vault, ↓Chip.raise_vault, ↓Chip.setFlag_vault, ↓Chip.setRail_vault] | with_reducible refine (keep_foldl Chip.vault _ _ _ ?_).trans ?_ | with_reducible refine (keep_fold2 Chip.vault _ _ _ ?_).trans ?_ | intro _ _ | split)
theorem Chip.phaseCheck_plane (c : Chip) (r : Nat) (cur : List Nat) (estimate : Nat) (k : Nat) : (Chip.phaseCheck c r cur estimate k).plane = c.plane := by
  unfold Chip.phaseCheck
  repeat' (first | with_reducible rfl | simp only [↓plane_mk, ↓plane_ite, ite_self, eq_self, implies_true, ↓Chip.bump_plane, ↓Chip.raise_plane, ↓Chip.setFlag_plane, ↓Chip.setRail_plane] | with_reducible refine (keep_foldl Chip.plane _ _ _ ?_).trans ?_ | with_reducible refine (keep_fold2 Chip.plane _ _ _ ?_).trans ?_ | intro _ _ | split)
theorem Chip.setCal_vault (c : Chip) (die : Nat) (x : CalDie) : (Chip.setCal c die x).vault = c.vault := by
  simp only [Chip.setCal, ↓vault_mk, ↓vault_ite, ite_self, eq_self, implies_true]
theorem Chip.setCal_plane (c : Chip) (die : Nat) (x : CalDie) : (Chip.setCal c die x).plane = c.plane := by
  simp only [Chip.setCal, ↓plane_mk, ↓plane_ite, ite_self, eq_self, implies_true]
theorem Chip.reestimate_vault (c : Chip) : (Chip.reestimate c).vault = c.vault := by
  unfold Chip.reestimate
  repeat' (first | with_reducible rfl | simp only [↓vault_mk, ↓vault_sec, ↓vault_fw, ↓vault_secFw, ↓vault_ite, ite_self, eq_self, implies_true] | with_reducible refine (keep_foldl Chip.vault _ _ _ ?_).trans ?_ | with_reducible refine (keep_fold2 Chip.vault _ _ _ ?_).trans ?_ | split | intro _ _ | intro _ | simp only [Chip.setFlag_sec, Chip.setField_sec, Chip.setReg_sec, Chip.bump_sec, Chip.setFlag_fw, Chip.setField_fw, Chip.setReg_fw, Chip.bump_fw])
theorem Chip.reestimate_plane (c : Chip) : (Chip.reestimate c).plane = c.plane := by
  unfold Chip.reestimate
  repeat' (first | with_reducible rfl | simp only [↓plane_mk, ↓plane_ite, ite_self, eq_self, implies_true] | with_reducible refine (keep_foldl Chip.plane _ _ _ ?_).trans ?_ | with_reducible refine (keep_fold2 Chip.plane _ _ _ ?_).trans ?_ | split | intro _ _ | intro _)
theorem Chip.estimates_vault (c : Chip) : (Chip.estimates c).vault = c.vault := by
  unfold Chip.estimates
  repeat' (first | with_reducible rfl | simp only [↓vault_mk, ↓vault_sec, ↓vault_fw, ↓vault_secFw, ↓vault_ite, ite_self, eq_self, implies_true, ↓Chip.reestimate_vault] | with_reducible refine (keep_foldl Chip.vault _ _ _ ?_).trans ?_ | with_reducible refine (keep_fold2 Chip.vault _ _ _ ?_).trans ?_ | split | intro _ _ | intro _ | simp only [Chip.setFlag_sec, Chip.setField_sec, Chip.setReg_sec, Chip.bump_sec, Chip.setFlag_fw, Chip.setField_fw, Chip.setReg_fw, Chip.bump_fw])
theorem Chip.estimates_plane (c : Chip) : (Chip.estimates c).plane = c.plane := by
  unfold Chip.estimates
  repeat' (first | with_reducible rfl | simp only [↓plane_mk, ↓plane_ite, ite_self, eq_self, implies_true, ↓Chip.reestimate_plane] | with_reducible refine (keep_foldl Chip.plane _ _ _ ?_).trans ?_ | with_reducible refine (keep_fold2 Chip.plane _ _ _ ?_).trans ?_ | split | intro _ _ | intro _)
theorem Chip.phaseEval_vault (c : Chip) (r : Nat) (cur : List Nat) : (Chip.phaseEval c r cur).vault = c.vault := by
  unfold Chip.phaseEval
  repeat' (first | with_reducible rfl | simp only [↓vault_mk, ↓vault_sec, ↓vault_fw, ↓vault_secFw, ↓vault_ite, ite_self, eq_self, implies_true, ↓Chip.setReg_vault, ↓Chip.phaseCheck_vault] | with_reducible refine (keep_forAll Chip.vault _ _ _ ?_).trans ?_ | with_reducible refine (keep_foldl Chip.vault _ _ _ ?_).trans ?_ | with_reducible refine (keep_fold2 Chip.vault _ _ _ ?_).trans ?_ | split | intro _ _ | intro _ | simp only [Chip.setFlag_sec, Chip.setField_sec, Chip.setReg_sec, Chip.bump_sec, Chip.setFlag_fw, Chip.setField_fw, Chip.setReg_fw, Chip.bump_fw])
theorem Chip.phaseEval_plane (c : Chip) (r : Nat) (cur : List Nat) : (Chip.phaseEval c r cur).plane = c.plane := by
  unfold Chip.phaseEval
  repeat' (first | with_reducible rfl | simp only [↓plane_mk, ↓plane_ite, ite_self, eq_self, implies_true, ↓Chip.setReg_plane, ↓Chip.phaseCheck_plane] | with_reducible refine (keep_forAll Chip.plane _ _ _ ?_).trans ?_ | with_reducible refine (keep_foldl Chip.plane _ _ _ ?_).trans ?_ | with_reducible refine (keep_fold2 Chip.plane _ _ _ ?_).trans ?_ | split | intro _ _ | intro _)
theorem Chip.calibrate_vault (c : Chip) (die : Nat) (cur : List Nat) : (Chip.calibrate c die cur).vault = c.vault := by
  unfold Chip.calibrate
  repeat' (first | with_reducible rfl | simp only [↓vault_mk, ↓vault_sec, ↓vault_fw, ↓vault_secFw, ↓vault_ite, ite_self, eq_self, implies_true, ↓Chip.setReg_vault, ↓Chip.setCal_vault] | split | simp only [Chip.setFlag_sec, Chip.setField_sec, Chip.setReg_sec, Chip.bump_sec, Chip.setFlag_fw, Chip.setField_fw, Chip.setReg_fw, Chip.bump_fw])
theorem Chip.calibrate_plane (c : Chip) (die : Nat) (cur : List Nat) : (Chip.calibrate c die cur).plane = c.plane := by
  unfold Chip.calibrate
  repeat' (first | with_reducible rfl | simp only [↓plane_mk, ↓plane_ite, ite_self, eq_self, implies_true, ↓Chip.setReg_plane, ↓Chip.setCal_plane] | split)
theorem Chip.addEnergy_vault (c : Chip) (k : Nat) (e : Rat) : (Chip.addEnergy c k e).vault = c.vault := by
  unfold Chip.addEnergy
  repeat' (first | with_reducible rfl | simp only [↓vault_mk, ↓vault_sec, ↓vault_fw, ↓vault_secFw, ↓vault_ite, ite_self, eq_self, implies_true, ↓Chip.setEnergy_vault] | split | simp only [Chip.setFlag_sec, Chip.setField_sec, Chip.setReg_sec, Chip.bump_sec, Chip.setFlag_fw, Chip.setField_fw, Chip.setReg_fw, Chip.bump_fw])
theorem Chip.addEnergy_plane (c : Chip) (k : Nat) (e : Rat) : (Chip.addEnergy c k e).plane = c.plane := by
  unfold Chip.addEnergy
  repeat' (first | with_reducible rfl | simp only [↓plane_mk, ↓plane_ite, ite_self, eq_self, implies_true, ↓Chip.setEnergy_plane] | split)
theorem Chip.attribute_vault (c : Chip) : (Chip.attribute c).vault = c.vault := by
  unfold Chip.attribute
  repeat' (first | with_reducible rfl | simp only [↓vault_mk, ↓vault_sec, ↓vault_fw, ↓vault_secFw, ↓vault_ite, ite_self, eq_self, implies_true, ↓Chip.takeFresh_vault, ↓Chip.addEnergy_vault] | with_reducible refine (pair_vault_takeFresh (by assumption)).trans ?_ | with_reducible refine (keep_forAll Chip.vault _ _ _ ?_).trans ?_ | split | intro _ _ | intro _ | simp only [Chip.setFlag_sec, Chip.setField_sec, Chip.setReg_sec, Chip.bump_sec, Chip.setFlag_fw, Chip.setField_fw, Chip.setReg_fw, Chip.bump_fw])
theorem Chip.attribute_plane (c : Chip) : (Chip.attribute c).plane = c.plane := by
  unfold Chip.attribute
  repeat' (first | with_reducible rfl | simp only [↓plane_mk, ↓plane_ite, ite_self, eq_self, implies_true, ↓Chip.takeFresh_plane, ↓Chip.addEnergy_plane] | with_reducible refine (pair_plane_takeFresh (by assumption)).trans ?_ | with_reducible refine (keep_forAll Chip.plane _ _ _ ?_).trans ?_ | split | intro _ _ | intro _)
theorem Chip.meterSet_house (c : Chip) (d : Nat) : (Chip.meterSet c d).house = c.house := by
  unfold Chip.meterSet
  repeat' (first | with_reducible rfl | simp only [↓house_mk, ↓house_ite, ite_self, eq_self, implies_true, ↓Chip.raise_house, ↓Chip.setReg_house] | split)
theorem Chip.meterSet_vault (c : Chip) (d : Nat) : (Chip.meterSet c d).vault = c.vault := vault_of_house (Chip.meterSet_house c d)
theorem Chip.meterSet_plane (c : Chip) (d : Nat) : (Chip.meterSet c d).plane = c.plane := by
  unfold Chip.meterSet
  repeat' (first | with_reducible rfl | simp only [↓plane_mk, ↓plane_ite, ite_self, eq_self, implies_true, ↓Chip.raise_plane, ↓Chip.setReg_plane] | split)
theorem Chip.metersSet_house (c : Chip) : (Chip.metersSet c).house = c.house := by
  unfold Chip.metersSet
  repeat' (first | with_reducible rfl | simp only [↓house_ite, ite_self, eq_self, implies_true, ↓Chip.meterSet_house] | with_reducible refine (keep_forAll Chip.house _ _ _ ?_).trans ?_ | intro _ _)
theorem Chip.metersSet_vault (c : Chip) : (Chip.metersSet c).vault = c.vault := vault_of_house (Chip.metersSet_house c)
theorem Chip.metersSet_plane (c : Chip) : (Chip.metersSet c).plane = c.plane := by
  unfold Chip.metersSet
  repeat' (first | with_reducible rfl | simp only [↓plane_ite, ite_self, eq_self, implies_true, ↓Chip.meterSet_plane] | with_reducible refine (keep_forAll Chip.plane _ _ _ ?_).trans ?_ | intro _ _)
theorem Chip.ilimCross_vault (c : Chip) (r : Nat) : (Chip.ilimCross c r).vault = c.vault := by
  unfold Chip.ilimCross
  repeat' (first | with_reducible rfl | simp only [↓vault_mk, ↓vault_sec, ↓vault_fw, ↓vault_secFw, ↓vault_ite, ite_self, eq_self, implies_true, ↓Chip.setFlag_vault, ↓Chip.bump_vault, ↓Chip.takeFresh_vault, ↓Chip.raiseLim_vault, ↓Chip.meterSet_vault] | with_reducible refine (pair_vault_takeFresh (by assumption)).trans ?_ | split | intro _ _ | intro _ | simp only [Chip.setFlag_sec, Chip.setField_sec, Chip.setReg_sec, Chip.bump_sec, Chip.setFlag_fw, Chip.setField_fw, Chip.setReg_fw, Chip.bump_fw])
theorem Chip.ilimCross_plane (c : Chip) (r : Nat) : (Chip.ilimCross c r).plane = c.plane := by
  unfold Chip.ilimCross
  repeat' (first | with_reducible rfl | simp only [↓plane_mk, ↓plane_ite, ite_self, eq_self, implies_true, ↓Chip.setFlag_plane, ↓Chip.bump_plane, ↓Chip.takeFresh_plane, ↓Chip.raiseLim_plane, ↓Chip.meterSet_plane] | with_reducible refine (pair_plane_takeFresh (by assumption)).trans ?_ | split | intro _ _ | intro _)
theorem Chip.ilimRelease_vault (c : Chip) (r : Nat) : (Chip.ilimRelease c r).vault = c.vault := by
  unfold Chip.ilimRelease
  repeat' (first | with_reducible rfl | simp only [↓vault_mk, ↓vault_ite, ite_self, eq_self, implies_true, ↓Chip.meterSet_vault, ↓Chip.setFlag_vault] | split)
theorem Chip.ilimRelease_plane (c : Chip) (r : Nat) : (Chip.ilimRelease c r).plane = c.plane := by
  unfold Chip.ilimRelease
  repeat' (first | with_reducible rfl | simp only [↓plane_mk, ↓plane_ite, ite_self, eq_self, implies_true, ↓Chip.meterSet_plane, ↓Chip.setFlag_plane] | split)
theorem Chip.hardLimit_house (c : Chip) (r : Nat) : (Chip.hardLimit c r).house = c.house := by
  unfold Chip.hardLimit
  repeat' (first | with_reducible rfl | simp only [↓house_mk, ↓house_ite, ite_self, eq_self, implies_true, ↓Chip.bump_house, ↓Chip.raise_house] | split)
theorem Chip.hardLimit_vault (c : Chip) (r : Nat) : (Chip.hardLimit c r).vault = c.vault := vault_of_house (Chip.hardLimit_house c r)
theorem Chip.hardLimit_plane (c : Chip) (r : Nat) : (Chip.hardLimit c r).plane = c.plane := by
  unfold Chip.hardLimit
  repeat' (first | with_reducible rfl | simp only [↓plane_mk, ↓plane_ite, ite_self, eq_self, implies_true, ↓Chip.bump_plane, ↓Chip.raise_plane] | split)
theorem Chip.closeBin_vault (c : Chip) (b : Nat) : (Chip.closeBin c b).vault = c.vault := by
  unfold Chip.closeBin
  repeat' (first | with_reducible rfl | simp only [↓vault_mk, ↓vault_ite, ite_self, eq_self, implies_true] | with_reducible refine (keep_foldl Chip.vault _ _ _ ?_).trans ?_ | with_reducible refine (keep_fold2 Chip.vault _ _ _ ?_).trans ?_ | intro _ _ | split)
theorem Chip.closeBin_plane (c : Chip) (b : Nat) : (Chip.closeBin c b).plane = c.plane := by
  unfold Chip.closeBin
  repeat' (first | with_reducible rfl | simp only [↓plane_mk, ↓plane_ite, ite_self, eq_self, implies_true] | with_reducible refine (keep_foldl Chip.plane _ _ _ ?_).trans ?_ | with_reducible refine (keep_fold2 Chip.plane _ _ _ ?_).trans ?_ | intro _ _ | split)
theorem Chip.openBin_vault (c : Chip) (b cy : Nat) : (Chip.openBin c b cy).vault = c.vault := by
  unfold Chip.openBin
  repeat' (first | with_reducible rfl | simp only [↓vault_mk, ↓vault_ite, ite_self, eq_self, implies_true, ↓Chip.closeBin_vault, ↓Chip.setFlag_vault] | split)
theorem Chip.openBin_plane (c : Chip) (b cy : Nat) : (Chip.openBin c b cy).plane = c.plane := by
  unfold Chip.openBin
  repeat' (first | with_reducible rfl | simp only [↓plane_mk, ↓plane_ite, ite_self, eq_self, implies_true, ↓Chip.closeBin_plane, ↓Chip.setFlag_plane] | split)
theorem Chip.share_vault (c : Chip) (bins : List Nat) : (Chip.share c bins).vault = c.vault := by
  unfold Chip.share
  repeat' (first | with_reducible rfl | simp only [↓vault_mk, ↓vault_sec, ↓vault_fw, ↓vault_secFw, ↓vault_ite, ite_self, eq_self, implies_true, ↓Chip.setFlag_vault, ↓Chip.bump_vault, ↓Chip.takeFresh_vault, ↓Chip.raiseLim_vault] | with_reducible refine (pair_vault_takeFresh (by assumption)).trans ?_ | with_reducible refine (keep_forAll Chip.vault _ _ _ ?_).trans ?_ | with_reducible refine (keep_foldl Chip.vault _ _ _ ?_).trans ?_ | with_reducible refine (keep_fold2 Chip.vault _ _ _ ?_).trans ?_ | split | intro _ _ | intro _ | simp only [Chip.setFlag_sec, Chip.setField_sec, Chip.setReg_sec, Chip.bump_sec, Chip.setFlag_fw, Chip.setField_fw, Chip.setReg_fw, Chip.bump_fw])
theorem Chip.share_plane (c : Chip) (bins : List Nat) : (Chip.share c bins).plane = c.plane := by
  unfold Chip.share
  repeat' (first | with_reducible rfl | simp only [↓plane_mk, ↓plane_ite, ite_self, eq_self, implies_true, ↓Chip.setFlag_plane, ↓Chip.bump_plane, ↓Chip.takeFresh_plane, ↓Chip.raiseLim_plane] | with_reducible refine (pair_plane_takeFresh (by assumption)).trans ?_ | with_reducible refine (keep_forAll Chip.plane _ _ _ ?_).trans ?_ | with_reducible refine (keep_foldl Chip.plane _ _ _ ?_).trans ?_ | with_reducible refine (keep_fold2 Chip.plane _ _ _ ?_).trans ?_ | split | intro _ _ | intro _)
theorem Chip.binStart_vault (c : Chip) : (Chip.binStart c).vault = c.vault := by
  unfold Chip.binStart
  repeat' (first | with_reducible rfl | simp only [↓vault_mk, ↓vault_sec, ↓vault_fw, ↓vault_secFw, ↓vault_ite, ite_self, eq_self, implies_true, ↓Chip.openBin_vault, ↓Chip.share_vault] | split | simp only [Chip.setFlag_sec, Chip.setField_sec, Chip.setReg_sec, Chip.bump_sec, Chip.setFlag_fw, Chip.setField_fw, Chip.setReg_fw, Chip.bump_fw])
theorem Chip.binStart_plane (c : Chip) : (Chip.binStart c).plane = c.plane := by
  unfold Chip.binStart
  repeat' (first | with_reducible rfl | simp only [↓plane_mk, ↓plane_ite, ite_self, eq_self, implies_true, ↓Chip.openBin_plane, ↓Chip.share_plane] | split)
theorem Chip.budgetCtrl_vault (c : Chip) (v : W32) : (Chip.budgetCtrl c v).vault = c.vault := by
  unfold Chip.budgetCtrl
  repeat' (first | with_reducible rfl | simp only [↓vault_mk, ↓vault_sec, ↓vault_fw, ↓vault_secFw, ↓vault_ite, ite_self, eq_self, implies_true, ↓Chip.setReg_vault, ↓Chip.clearProfile_vault] | split | simp only [Chip.setFlag_sec, Chip.setField_sec, Chip.setReg_sec, Chip.bump_sec, Chip.setFlag_fw, Chip.setField_fw, Chip.setReg_fw, Chip.bump_fw])
theorem Chip.budgetCtrl_plane (c : Chip) (v : W32) : (Chip.budgetCtrl c v).plane = c.plane := by
  unfold Chip.budgetCtrl
  repeat' (first | with_reducible rfl | simp only [↓plane_mk, ↓plane_ite, ite_self, eq_self, implies_true, ↓Chip.setReg_plane, ↓Chip.clearProfile_plane] | split)
theorem Chip.hintExpire_house (c : Chip) (d : Nat) : (Chip.hintExpire c d).house = c.house := by
  simp only [Chip.hintExpire, ↓house_mk, ↓house_ite, ite_self, eq_self, implies_true]
theorem Chip.hintExpire_vault (c : Chip) (d : Nat) : (Chip.hintExpire c d).vault = c.vault := vault_of_house (Chip.hintExpire_house c d)
theorem Chip.corner_house (c : Chip) (mv : List Nat) : (Chip.corner c mv).house = c.house := by
  unfold Chip.corner
  repeat' (first | with_reducible rfl | simp only [↓house_mk, ↓house_ite, ite_self, eq_self, implies_true, ↓Chip.setField_house, ↓Chip.setFlag_house, ↓Chip.bump_house, ↓Chip.raise_house] | with_reducible refine (keep_forAll Chip.house _ _ _ ?_).trans ?_ | with_reducible refine (keep_foldl Chip.house _ _ _ ?_).trans ?_ | with_reducible refine (keep_fold2 Chip.house _ _ _ ?_).trans ?_ | split | intro _ _ | intro _)
theorem Chip.corner_vault (c : Chip) (mv : List Nat) : (Chip.corner c mv).vault = c.vault := vault_of_house (Chip.corner_house c mv)
theorem Chip.corner_plane (c : Chip) (mv : List Nat) : (Chip.corner c mv).plane = c.plane := by
  unfold Chip.corner
  repeat' (first | with_reducible rfl | simp only [↓plane_mk, ↓plane_ite, ite_self, eq_self, implies_true, ↓Chip.setField_plane, ↓Chip.setFlag_plane, ↓Chip.bump_plane, ↓Chip.raise_plane] | with_reducible refine (keep_forAll Chip.plane _ _ _ ?_).trans ?_ | with_reducible refine (keep_foldl Chip.plane _ _ _ ?_).trans ?_ | with_reducible refine (keep_fold2 Chip.plane _ _ _ ?_).trans ?_ | split | intro _ _ | intro _)
theorem Chip.vinLoss_vault (c : Chip) : (Chip.vinLoss c).vault = c.vault := by
  unfold Chip.vinLoss
  repeat' (first | with_reducible rfl | simp only [↓vault_mk, ↓vault_ite, ite_self, eq_self, implies_true, ↓Chip.abortCoach_vault, ↓Chip.metersSet_vault, ↓Chip.raise_vault, ↓Chip.setFlag_vault] | with_reducible refine (keep_forAll Chip.vault _ _ _ ?_).trans ?_ | intro _ _)
theorem Chip.gaspProgram_plane (c : Chip) (held : Bool) : (Chip.gaspProgram c held).plane = c.plane := by
  unfold Chip.gaspProgram
  repeat' (first | with_reducible rfl | simp only [↓plane_mk, ↓plane_ite, ite_self, eq_self, implies_true, ↓Chip.flashProgram_plane, ↓Chip.logCommit_plane] | split)
theorem Chip.gaspProgram_fuses (c : Chip) (held : Bool) : (Chip.gaspProgram c held).vault.fuses = c.vault.fuses := by
  unfold Chip.gaspProgram
  repeat' (first | with_reducible rfl | simp only [↓vault_mk, ↓vault_sec, ↓vault_fw, ↓vault_secFw, ↓vault_ite, ↓fuses_ite, ite_self, eq_self, implies_true, ↓Chip.flashProgram_fuses, ↓Chip.logCommit_fuses] | with_reducible refine (fuses_forAll _ _ _ ?_).trans ?_ | intro _ _ | split | simp only [Chip.setFlag_sec, Chip.setField_sec, Chip.setReg_sec, Chip.bump_sec, Chip.setFlag_fw, Chip.setField_fw, Chip.setReg_fw, Chip.bump_fw])
theorem Chip.gaspProgram_canon (c : Chip) (held : Bool) (h : c.vault.canon) : (Chip.gaspProgram c held).vault.canon := by
  unfold Chip.gaspProgram
  repeat' (first | with_reducible assumption | simp only [↓vault_mk, ↓vault_sec, ↓vault_fw, ↓vault_secFw, ↓vault_ite] | with_reducible refine canon_ite _ _ _ ?_ ?_ | with_reducible apply Chip.flashProgram_canon | with_reducible apply Chip.logCommit_canon | with_reducible refine canon_forAll _ _ _ ?_ ?_ | intro _ _ _ | split | simp only [Chip.setFlag_sec, Chip.setField_sec, Chip.setReg_sec, Chip.bump_sec, Chip.setFlag_fw, Chip.setField_fw, Chip.setReg_fw, Chip.bump_fw])
theorem Chip.calUse_vault (c : Chip) (body : List Byte) : (Chip.calUse c body).vault = c.vault := by
  unfold Chip.calUse
  repeat' (first | with_reducible rfl | simp only [↓vault_mk, ↓vault_sec, ↓vault_fw, ↓vault_secFw, ↓vault_ite, ite_self, eq_self, implies_true] | split | simp only [Chip.setFlag_sec, Chip.setField_sec, Chip.setReg_sec, Chip.bump_sec, Chip.setFlag_fw, Chip.setField_fw, Chip.setReg_fw, Chip.bump_fw])
theorem Chip.calUse_plane (c : Chip) (body : List Byte) : (Chip.calUse c body).plane = c.plane := by
  unfold Chip.calUse
  repeat' (first | with_reducible rfl | simp only [↓plane_mk, ↓plane_ite, ite_self, eq_self, implies_true] | split)
theorem Chip.calSelect_vault (c : Chip) : (Chip.calSelect c).vault = c.vault := by
  unfold Chip.calSelect
  repeat' (first | with_reducible rfl | simp only [↓vault_mk, ↓vault_sec, ↓vault_fw, ↓vault_secFw, ↓vault_ite, ite_self, eq_self, implies_true, ↓Chip.setReg_vault, ↓Chip.raise_vault, ↓Chip.calUse_vault] | split | simp only [Chip.setFlag_sec, Chip.setField_sec, Chip.setReg_sec, Chip.bump_sec, Chip.setFlag_fw, Chip.setField_fw, Chip.setReg_fw, Chip.bump_fw])
theorem Chip.calSelect_plane (c : Chip) : (Chip.calSelect c).plane = c.plane := by
  unfold Chip.calSelect
  repeat' (first | with_reducible rfl | simp only [↓plane_mk, ↓plane_ite, ite_self, eq_self, implies_true, ↓Chip.setReg_plane, ↓Chip.raise_plane, ↓Chip.calUse_plane] | split)
theorem Chip.calStart_plane (c : Chip) : (Chip.calStart c).plane = c.plane := by
  unfold Chip.calStart
  repeat' (first | with_reducible rfl | simp only [↓plane_mk, ↓plane_ite, ite_self, eq_self, implies_true, ↓Chip.flashErase_plane, ↓Chip.setFlag_plane] | split)
theorem Chip.calStart_fuses (c : Chip) : (Chip.calStart c).vault.fuses = c.vault.fuses := by
  unfold Chip.calStart
  repeat' (first | with_reducible rfl | simp only [↓vault_mk, ↓vault_sec, ↓vault_fw, ↓vault_secFw, ↓vault_ite, ↓fuses_ite, ite_self, eq_self, implies_true, ↓Chip.setFlag_vault, ↓Chip.flashErase_fuses] | with_reducible refine (fuses_forAll _ _ _ ?_).trans ?_ | intro _ _ | split | simp only [Chip.setFlag_sec, Chip.setField_sec, Chip.setReg_sec, Chip.bump_sec, Chip.setFlag_fw, Chip.setField_fw, Chip.setReg_fw, Chip.bump_fw])
theorem Chip.calStart_canon (c : Chip) (h : c.vault.canon) : (Chip.calStart c).vault.canon := by
  unfold Chip.calStart
  repeat' (first | with_reducible assumption | simp only [↓vault_mk, ↓vault_sec, ↓vault_fw, ↓vault_secFw, ↓vault_ite, ↓Chip.setFlag_vault] | with_reducible refine canon_ite _ _ _ ?_ ?_ | with_reducible apply Chip.flashErase_canon | with_reducible refine canon_forAll _ _ _ ?_ ?_ | intro _ _ _ | split | simp only [Chip.setFlag_sec, Chip.setField_sec, Chip.setReg_sec, Chip.bump_sec, Chip.setFlag_fw, Chip.setField_fw, Chip.setReg_fw, Chip.bump_fw])
theorem Chip.calDone_plane (c : Chip) (ok : Bool) : (Chip.calDone c ok).plane = c.plane := by
  unfold Chip.calDone
  repeat' (first | with_reducible rfl | simp only [↓plane_mk, ↓plane_ite, ite_self, eq_self, implies_true, ↓Chip.setReg_plane, ↓Chip.setField_plane, ↓Chip.setFlag_plane, ↓Chip.raise_plane, ↓Chip.flashProgram_plane] | split)
theorem Chip.calDone_fuses (c : Chip) (ok : Bool) : (Chip.calDone c ok).vault.fuses = c.vault.fuses := by
  unfold Chip.calDone
  repeat' (first | with_reducible rfl | simp only [↓vault_mk, ↓vault_sec, ↓vault_fw, ↓vault_secFw, ↓vault_ite, ↓fuses_ite, ite_self, eq_self, implies_true, ↓Chip.raise_vault, ↓Chip.setField_vault, ↓Chip.setFlag_vault, ↓Chip.setReg_vault, ↓Chip.takeFresh_vault, ↓Chip.flashProgram_fuses] | with_reducible refine (fuses_forAll _ _ _ ?_).trans ?_ | intro _ _ | split | simp only [Chip.setFlag_sec, Chip.setField_sec, Chip.setReg_sec, Chip.bump_sec, Chip.setFlag_fw, Chip.setField_fw, Chip.setReg_fw, Chip.bump_fw])
theorem Chip.calDone_canon (c : Chip) (ok : Bool) (h : c.vault.canon) : (Chip.calDone c ok).vault.canon := by
  unfold Chip.calDone
  repeat' (first | with_reducible assumption | simp only [↓vault_mk, ↓vault_sec, ↓vault_fw, ↓vault_secFw, ↓vault_ite, ↓Chip.raise_vault, ↓Chip.setField_vault, ↓Chip.setFlag_vault, ↓Chip.setReg_vault, ↓Chip.takeFresh_vault] | with_reducible refine canon_ite _ _ _ ?_ ?_ | with_reducible apply Chip.flashProgram_canon | with_reducible refine canon_forAll _ _ _ ?_ ?_ | intro _ _ _ | split | simp only [Chip.setFlag_sec, Chip.setField_sec, Chip.setReg_sec, Chip.bump_sec, Chip.setFlag_fw, Chip.setField_fw, Chip.setReg_fw, Chip.bump_fw])
theorem Chip.sensorBad_vault (c : Chip) (die k : Nat) : (Chip.sensorBad c die k).vault = c.vault := by
  simp only [Chip.sensorBad, ↓vault_mk, ↓vault_ite, ite_self, eq_self, implies_true, ↓Chip.bump_vault, ↓Chip.raise_vault, ↓Chip.setFlag_vault]
theorem Chip.sensorBad_plane (c : Chip) (die k : Nat) : (Chip.sensorBad c die k).plane = c.plane := by
  simp only [Chip.sensorBad, ↓plane_mk, ↓plane_ite, ite_self, eq_self, implies_true, ↓Chip.bump_plane, ↓Chip.raise_plane, ↓Chip.setFlag_plane]
theorem Chip.dieSensors_vault (c : Chip) (die : Nat) (rd : Nat → Int) : (Chip.dieSensors c die rd).vault = c.vault := by
  unfold Chip.dieSensors
  repeat' (first | with_reducible rfl | simp only [↓vault_mk, ↓vault_ite, ite_self, eq_self, implies_true, ↓Chip.bump_vault, ↓Chip.raise_vault, ↓Chip.sensorBad_vault, ↓Chip.setFlag_vault, ↓Chip.setReg_vault] | with_reducible refine (keep_forAll Chip.vault _ _ _ ?_).trans ?_ | intro _ _ | split)
theorem Chip.dieSensors_plane (c : Chip) (die : Nat) (rd : Nat → Int) : (Chip.dieSensors c die rd).plane = c.plane := by
  unfold Chip.dieSensors
  repeat' (first | with_reducible rfl | simp only [↓plane_mk, ↓plane_ite, ite_self, eq_self, implies_true, ↓Chip.bump_plane, ↓Chip.raise_plane, ↓Chip.sensorBad_plane, ↓Chip.setFlag_plane, ↓Chip.setReg_plane] | with_reducible refine (keep_forAll Chip.plane _ _ _ ?_).trans ?_ | intro _ _ | split)
theorem Chip.trip_vault (c : Chip) (die : Nat) : (Chip.trip c die).vault = c.vault := by
  unfold Chip.trip
  repeat' (first | with_reducible rfl | simp only [↓vault_mk, ↓vault_ite, ite_self, eq_self, implies_true, ↓Chip.metersSet_vault, ↓Chip.raise_vault, ↓Chip.removeRail_vault, ↓Chip.setFlag_vault] | with_reducible refine (keep_forAll Chip.vault _ _ _ ?_).trans ?_ | intro _ _)
theorem Chip.trip_plane (c : Chip) (die : Nat) : (Chip.trip c die).plane = c.plane := by
  unfold Chip.trip
  repeat' (first | with_reducible rfl | simp only [↓plane_mk, ↓plane_ite, ite_self, eq_self, implies_true, ↓Chip.metersSet_plane, ↓Chip.raise_plane, ↓Chip.removeRail_plane, ↓Chip.setFlag_plane] | with_reducible refine (keep_forAll Chip.plane _ _ _ ?_).trans ?_ | intro _ _)
theorem Chip.sensors_vault (c : Chip) (rs : List (BitVec 12)) : (Chip.sensors c rs).vault = c.vault := by
  unfold Chip.sensors
  repeat' (first | with_reducible rfl | simp only [↓vault_mk, ↓vault_ite, ite_self, eq_self, implies_true, ↓Chip.dieSensors_vault, ↓Chip.setFlag_vault, ↓Chip.trip_vault] | with_reducible refine (keep_forAll Chip.vault _ _ _ ?_).trans ?_ | intro _ _ | split)
theorem Chip.sensors_plane (c : Chip) (rs : List (BitVec 12)) : (Chip.sensors c rs).plane = c.plane := by
  unfold Chip.sensors
  repeat' (first | with_reducible rfl | simp only [↓plane_mk, ↓plane_ite, ite_self, eq_self, implies_true, ↓Chip.dieSensors_plane, ↓Chip.setFlag_plane, ↓Chip.trip_plane] | with_reducible refine (keep_forAll Chip.plane _ _ _ ?_).trans ?_ | intro _ _ | split)

end Sys2Proof.Machine
end

