-- ==== Sys2Proof/Laws/KeepStore.lean ====
section
/-! SUPPORT. What the operations of Machine/Store.lean leave of the fuses and the flash, of the state outside the data
plane, and of the data plane. -/

set_option linter.all false

namespace Sys2Proof.Machine

theorem Chip.setStore_vault (c : Chip) (m : Tbl Byte) : (Chip.setStore c m).vault = c.vault := by
  unfold Chip.setStore
  repeat' (first | with_reducible rfl | simp only [↓vault_mk, ↓vault_sec, ↓vault_fw, ↓vault_secFw, ↓vault_ite, ite_self, eq_self, implies_true] | split | simp only [Chip.setFlag_sec, Chip.setField_sec, Chip.setReg_sec, Chip.bump_sec, Chip.setFlag_fw, Chip.setField_fw, Chip.setReg_fw, Chip.bump_fw])
theorem Chip.setStore_plane (c : Chip) (m : Tbl Byte) : (Chip.setStore c m).plane = c.plane := by
  unfold Chip.setStore
  repeat' (first | with_reducible rfl | simp only [↓plane_mk, ↓plane_ite, ite_self, eq_self, implies_true] | split)
theorem Chip.storeWrite_vault (c : Chip) (a : Nat) (bs : List Byte) : (Chip.storeWrite c a bs).vault = c.vault := by
  unfold Chip.storeWrite
  repeat' (first | with_reducible rfl | simp only [↓vault_mk, ↓vault_sec, ↓vault_fw, ↓vault_secFw, ↓vault_ite, ite_self, eq_self, implies_true, ↓Chip.setStore_vault] | split | simp only [Chip.setFlag_sec, Chip.setField_sec, Chip.setReg_sec, Chip.bump_sec, Chip.setFlag_fw, Chip.setField_fw, Chip.setReg_fw, Chip.bump_fw])
theorem Chip.storeWrite_plane (c : Chip) (a : Nat) (bs : List Byte) : (Chip.storeWrite c a bs).plane = c.plane := by
  unfold Chip.storeWrite
  repeat' (first | with_reducible rfl | simp only [↓plane_mk, ↓plane_ite, ite_self, eq_self, implies_true, ↓Chip.setStore_plane] | split)
theorem Chip.storeResume_vault (c : Chip) : (Chip.storeResume c).vault = c.vault := by
  unfold Chip.storeResume
  repeat' (first | with_reducible rfl | simp only [↓vault_mk, ↓vault_sec, ↓vault_fw, ↓vault_secFw, ↓vault_ite, ite_self, eq_self, implies_true] | with_reducible refine (keep_foldl Chip.vault _ _ _ ?_).trans ?_ | with_reducible refine (keep_fold2 Chip.vault _ _ _ ?_).trans ?_ | split | intro _ _ | intro _ | simp only [Chip.setFlag_sec, Chip.setField_sec, Chip.setReg_sec, Chip.bump_sec, Chip.setFlag_fw, Chip.setField_fw, Chip.setReg_fw, Chip.bump_fw])
theorem Chip.storeResume_plane (c : Chip) : (Chip.storeResume c).plane = c.plane := by
  unfold Chip.storeResume
  repeat' (first | with_reducible rfl | simp only [↓plane_mk, ↓plane_ite, ite_self, eq_self, implies_true] | with_reducible refine (keep_foldl Chip.plane _ _ _ ?_).trans ?_ | with_reducible refine (keep_fold2 Chip.plane _ _ _ ?_).trans ?_ | split | intro _ _ | intro _)
theorem Chip.deriveKeys_vault (c : Chip) : (Chip.deriveKeys c).vault = c.vault := by
  unfold Chip.deriveKeys
  repeat' (first | with_reducible rfl | simp only [↓vault_mk, ↓vault_sec, ↓vault_fw, ↓vault_secFw, ↓vault_ite, ite_self, eq_self, implies_true, ↓Chip.setFlag_vault, ↓Chip.storeWrite_vault] | split | simp only [Chip.setFlag_sec, Chip.setField_sec, Chip.setReg_sec, Chip.bump_sec, Chip.setFlag_fw, Chip.setField_fw, Chip.setReg_fw, Chip.bump_fw])
theorem Chip.deriveKeys_plane (c : Chip) : (Chip.deriveKeys c).plane = c.plane := by
  unfold Chip.deriveKeys
  repeat' (first | with_reducible rfl | simp only [↓plane_mk, ↓plane_ite, ite_self, eq_self, implies_true, ↓Chip.setFlag_plane, ↓Chip.storeWrite_plane] | split)
theorem Chip.startWipe_vault (c : Chip) (cause : Nat) : (Chip.startWipe c cause).vault = c.vault := by
  unfold Chip.startWipe
  repeat' (first | with_reducible rfl | simp only [↓vault_mk, ↓vault_sec, ↓vault_fw, ↓vault_secFw, ↓vault_ite, ite_self, eq_self, implies_true, ↓Chip.setField_vault, ↓Chip.setFlag_vault] | split | simp only [Chip.setFlag_sec, Chip.setField_sec, Chip.setReg_sec, Chip.bump_sec, Chip.setFlag_fw, Chip.setField_fw, Chip.setReg_fw, Chip.bump_fw])
theorem Chip.startWipe_plane (c : Chip) (cause : Nat) : (Chip.startWipe c cause).plane = c.plane := by
  unfold Chip.startWipe
  repeat' (first | with_reducible rfl | simp only [↓plane_mk, ↓plane_ite, ite_self, eq_self, implies_true, ↓Chip.setField_plane, ↓Chip.setFlag_plane] | split)
theorem Chip.lockKeys_vault (c : Chip) : (Chip.lockKeys c).vault = c.vault := by
  unfold Chip.lockKeys
  repeat' (first | with_reducible rfl | simp only [↓vault_mk, ↓vault_sec, ↓vault_fw, ↓vault_secFw, ↓vault_ite, ite_self, eq_self, implies_true, ↓Chip.setFlag_vault] | split | simp only [Chip.setFlag_sec, Chip.setField_sec, Chip.setReg_sec, Chip.bump_sec, Chip.setFlag_fw, Chip.setField_fw, Chip.setReg_fw, Chip.bump_fw])
theorem Chip.lockKeys_plane (c : Chip) : (Chip.lockKeys c).plane = c.plane := by
  unfold Chip.lockKeys
  repeat' (first | with_reducible rfl | simp only [↓plane_mk, ↓plane_ite, ite_self, eq_self, implies_true, ↓Chip.setFlag_plane] | split)
/-- The fuses after a transition. -/
def Fuses.enter (f : Fuses) (life : Nat) (owner : BitVec 384) : Fuses :=
  { f with life := life, transition := none, ownerHash := if life = 1 then owner else f.ownerHash
           rootErased := f.rootErased || decide (life = 3) }
theorem Chip.tamper_vault (c : Chip) (src : Nat) : (Chip.tamper c src).vault = c.vault := by
  unfold Chip.tamper
  repeat' (first | with_reducible rfl | simp only [↓vault_mk, ↓vault_sec, ↓vault_fw, ↓vault_secFw, ↓vault_ite, ite_self, eq_self, implies_true, ↓Chip.bump_vault, ↓Chip.lockKeys_vault, ↓Chip.raise_vault, ↓Chip.setFlag_vault, ↓Chip.startWipe_vault] | split | simp only [Chip.setFlag_sec, Chip.setField_sec, Chip.setReg_sec, Chip.bump_sec, Chip.setFlag_fw, Chip.setField_fw, Chip.setReg_fw, Chip.bump_fw])
theorem Chip.tamper_plane (c : Chip) (src : Nat) : (Chip.tamper c src).plane = c.plane := by
  unfold Chip.tamper
  repeat' (first | with_reducible rfl | simp only [↓plane_mk, ↓plane_ite, ite_self, eq_self, implies_true, ↓Chip.bump_plane, ↓Chip.lockKeys_plane, ↓Chip.raise_plane, ↓Chip.setFlag_plane, ↓Chip.startWipe_plane] | split)
theorem Chip.tapWatch_vault (c : Chip) (was : Bool) : (Chip.tapWatch c was).vault = c.vault := by
  unfold Chip.tapWatch
  repeat' (first | with_reducible rfl | simp only [↓vault_mk, ↓vault_sec, ↓vault_fw, ↓vault_secFw, ↓vault_ite, ite_self, eq_self, implies_true, ↓Chip.tamper_vault] | split | simp only [Chip.setFlag_sec, Chip.setField_sec, Chip.setReg_sec, Chip.bump_sec, Chip.setFlag_fw, Chip.setField_fw, Chip.setReg_fw, Chip.bump_fw])
theorem Chip.tapWatch_plane (c : Chip) (was : Bool) : (Chip.tapWatch c was).plane = c.plane := by
  unfold Chip.tapWatch
  repeat' (first | with_reducible rfl | simp only [↓plane_mk, ↓plane_ite, ite_self, eq_self, implies_true, ↓Chip.tamper_plane] | split)
theorem Chip.closeDebug_vault (c : Chip) : (Chip.closeDebug c).vault = c.vault := by
  unfold Chip.closeDebug
  repeat' (first | with_reducible rfl | simp only [↓vault_mk, ↓vault_sec, ↓vault_fw, ↓vault_secFw, ↓vault_ite, ite_self, eq_self, implies_true, ↓Chip.setReg_vault, ↓Chip.tapWatch_vault] | split | simp only [Chip.setFlag_sec, Chip.setField_sec, Chip.setReg_sec, Chip.bump_sec, Chip.setFlag_fw, Chip.setField_fw, Chip.setReg_fw, Chip.bump_fw])
theorem Chip.closeDebug_plane (c : Chip) : (Chip.closeDebug c).plane = c.plane := by
  unfold Chip.closeDebug
  repeat' (first | with_reducible rfl | simp only [↓plane_mk, ↓plane_ite, ite_self, eq_self, implies_true, ↓Chip.setReg_plane, ↓Chip.tapWatch_plane] | split)
theorem Chip.tamperClear_house (c : Chip) (v : W32) : (Chip.tamperClear c v).house = c.house := by
  unfold Chip.tamperClear
  repeat' (first | with_reducible rfl | simp only [↓house_mk, ↓house_ite, ite_self, eq_self, implies_true, ↓Chip.setReg_house, ↓Chip.takeFresh_house] | with_reducible refine (pair_house_takeFresh (by assumption)).trans ?_ | split | intro _ _ | intro _)
theorem Chip.tamperClear_vault (c : Chip) (v : W32) : (Chip.tamperClear c v).vault = c.vault := vault_of_house (Chip.tamperClear_house c v)
theorem Chip.tamperClear_plane (c : Chip) (v : W32) : (Chip.tamperClear c v).plane = c.plane := by
  unfold Chip.tamperClear
  repeat' (first | with_reducible rfl | simp only [↓plane_mk, ↓plane_ite, ite_self, eq_self, implies_true, ↓Chip.setReg_plane, ↓Chip.takeFresh_plane] | with_reducible refine (pair_plane_takeFresh (by assumption)).trans ?_ | split | intro _ _ | intro _)

end Sys2Proof.Machine
end

