-- ==== Sys2Proof/Laws/KeepImage.lean ====
section
/-! SUPPORT. What the operations of Machine/Image.lean leave of the fuses and the flash, of the state outside the data
plane, and of the data plane. -/

set_option linter.all false

namespace Sys2Proof.Machine

theorem Chip.setFwState_house (c : Chip) (v : Nat) : (Chip.setFwState c v).house = c.house := by
  unfold Chip.setFwState
  repeat' (first | with_reducible rfl | simp only [↓house_ite, ite_self, eq_self, implies_true, ↓Chip.msix_house, ↓Chip.setField_house] | split)
theorem Chip.setFwState_vault (c : Chip) (v : Nat) : (Chip.setFwState c v).vault = c.vault := vault_of_house (Chip.setFwState_house c v)
theorem Chip.setFwState_plane (c : Chip) (v : Nat) : (Chip.setFwState c v).plane = c.plane := by
  unfold Chip.setFwState
  repeat' (first | with_reducible rfl | simp only [↓plane_ite, ite_self, eq_self, implies_true, ↓Chip.msix_plane, ↓Chip.setField_plane] | split)
theorem Chip.loadSlot_vault (c : Chip) (k : Nat) (r : Nat) : (Chip.loadSlot c k r).vault = c.vault := by
  unfold Chip.loadSlot
  repeat' (first | with_reducible rfl | simp only [↓vault_mk, ↓vault_sec, ↓vault_fw, ↓vault_secFw, ↓vault_ite, ite_self, eq_self, implies_true] | split | simp only [Chip.setFlag_sec, Chip.setField_sec, Chip.setReg_sec, Chip.bump_sec, Chip.setFlag_fw, Chip.setField_fw, Chip.setReg_fw, Chip.bump_fw])
theorem Chip.loadSlot_plane (c : Chip) (k : Nat) (r : Nat) : (Chip.loadSlot c k r).plane = c.plane := by
  unfold Chip.loadSlot
  repeat' (first | with_reducible rfl | simp only [↓plane_mk, ↓plane_ite, ite_self, eq_self, implies_true] | split)
theorem Chip.freshRuntime_vault (c : Chip) : (Chip.freshRuntime c).vault = c.vault := by
  unfold Chip.freshRuntime
  repeat' (first | with_reducible rfl | simp only [↓vault_mk, ↓vault_sec, ↓vault_fw, ↓vault_secFw, ↓vault_ite, ite_self, eq_self, implies_true] | split | simp only [Chip.setFlag_sec, Chip.setField_sec, Chip.setReg_sec, Chip.bump_sec, Chip.setFlag_fw, Chip.setField_fw, Chip.setReg_fw, Chip.bump_fw])
theorem Chip.freshRuntime_plane (c : Chip) : (Chip.freshRuntime c).plane = c.plane := by
  unfold Chip.freshRuntime
  repeat' (first | with_reducible rfl | simp only [↓plane_mk, ↓plane_ite, ite_self, eq_self, implies_true] | split)

end Sys2Proof.Machine
end

