-- ==== Sys2Proof/Laws/KeepQueues.lean ====
section
/-! SUPPORT. What the operations of Machine/Queues.lean leave of the fuses and the flash, of the state outside the data
plane, and of the data plane. -/

set_option linter.all false

namespace Sys2Proof.Machine

theorem Chip.putReply_house (c : Chip) (q i : Nat) (bs : List Byte) : (Chip.putReply c q i bs).house = c.house := by
  unfold Chip.putReply
  repeat' (first | with_reducible rfl | simp only [↓house_ite, ite_self, eq_self, implies_true, ↓Chip.setReg_house] | with_reducible refine (keep_forAll Chip.house _ _ _ ?_).trans ?_ | intro _ _)
theorem Chip.putReply_vault (c : Chip) (q i : Nat) (bs : List Byte) : (Chip.putReply c q i bs).vault = c.vault := vault_of_house (Chip.putReply_house c q i bs)
theorem Chip.putReply_plane (c : Chip) (q i : Nat) (bs : List Byte) : (Chip.putReply c q i bs).plane = c.plane := by
  unfold Chip.putReply
  repeat' (first | with_reducible rfl | simp only [↓plane_ite, ite_self, eq_self, implies_true, ↓Chip.setReg_plane] | with_reducible refine (keep_forAll Chip.plane _ _ _ ?_).trans ?_ | intro _ _)
theorem Chip.reply_house (c : Chip) (q : Nat) (h : BitVec 128) (status : Nat) (trunc : Bool) (payload : List Byte) : (Chip.reply c q h status trunc payload).house = c.house := by
  unfold Chip.reply
  repeat' (first | with_reducible rfl | simp only [↓house_mk, ↓house_ite, ite_self, eq_self, implies_true, ↓Chip.setReg_house, ↓Chip.msix_house, ↓Chip.putReply_house] | split)
theorem Chip.reply_vault (c : Chip) (q : Nat) (h : BitVec 128) (status : Nat) (trunc : Bool) (payload : List Byte) : (Chip.reply c q h status trunc payload).vault = c.vault := vault_of_house (Chip.reply_house c q h status trunc payload)
theorem Chip.reply_plane (c : Chip) (q : Nat) (h : BitVec 128) (status : Nat) (trunc : Bool) (payload : List Byte) : (Chip.reply c q h status trunc payload).plane = c.plane := by
  unfold Chip.reply
  repeat' (first | with_reducible rfl | simp only [↓plane_mk, ↓plane_ite, ite_self, eq_self, implies_true, ↓Chip.setReg_plane, ↓Chip.msix_plane, ↓Chip.putReply_plane] | split)
theorem Chip.takeRequest_vault (c : Chip) (q : Nat) : (Chip.takeRequest c q).vault = c.vault := by
  unfold Chip.takeRequest
  repeat' (first | with_reducible rfl | simp only [↓vault_mk, ↓vault_sec, ↓vault_fw, ↓vault_secFw, ↓vault_ite, ite_self, eq_self, implies_true, ↓Chip.setReg_vault] | split | simp only [Chip.setFlag_sec, Chip.setField_sec, Chip.setReg_sec, Chip.bump_sec, Chip.setFlag_fw, Chip.setField_fw, Chip.setReg_fw, Chip.bump_fw])
theorem Chip.takeRequest_plane (c : Chip) (q : Nat) : (Chip.takeRequest c q).plane = c.plane := by
  unfold Chip.takeRequest
  repeat' (first | with_reducible rfl | simp only [↓plane_mk, ↓plane_ite, ite_self, eq_self, implies_true, ↓Chip.setReg_plane] | split)
theorem Chip.answerOldest_vault (c : Chip) (q : Nat) (status : Nat) (body : List Byte) : (Chip.answerOldest c q status body).vault = c.vault := by
  unfold Chip.answerOldest
  repeat' (first | with_reducible rfl | simp only [↓vault_mk, ↓vault_sec, ↓vault_fw, ↓vault_secFw, ↓vault_ite, ite_self, eq_self, implies_true, ↓Chip.reply_vault, ↓Chip.takeRequest_vault] | split | simp only [Chip.setFlag_sec, Chip.setField_sec, Chip.setReg_sec, Chip.bump_sec, Chip.setFlag_fw, Chip.setField_fw, Chip.setReg_fw, Chip.bump_fw])
theorem Chip.answerOldest_plane (c : Chip) (q : Nat) (status : Nat) (body : List Byte) : (Chip.answerOldest c q status body).plane = c.plane := by
  unfold Chip.answerOldest
  repeat' (first | with_reducible rfl | simp only [↓plane_mk, ↓plane_ite, ite_self, eq_self, implies_true, ↓Chip.reply_plane, ↓Chip.takeRequest_plane] | split)
theorem Chip.settleQueue_vault (q n : Nat) (c : Chip) : (Chip.settleQueue q n c).vault = c.vault := by
  induction n generalizing c with
  | zero => rfl
  | succ n ih =>
    unfold Chip.settleQueue
    repeat' (first | with_reducible rfl | simp only [↓vault_ite, ite_self, eq_self, ↓ih, ↓Chip.answerOldest_vault, ↓Chip.takeFresh_vault] | split)
theorem Chip.settleQueue_plane (q n : Nat) (c : Chip) : (Chip.settleQueue q n c).plane = c.plane := by
  induction n generalizing c with
  | zero => rfl
  | succ n ih =>
    unfold Chip.settleQueue
    repeat' (first | with_reducible rfl | simp only [↓plane_ite, ite_self, eq_self, ↓ih, ↓Chip.answerOldest_plane, ↓Chip.takeFresh_plane] | split)
theorem Chip.settle_vault (c : Chip) (q : Nat) : (Chip.settle c q).vault = c.vault := by
  unfold Chip.settle
  repeat' (first | with_reducible rfl | simp only [↓vault_mk, ↓vault_sec, ↓vault_fw, ↓vault_secFw, ↓vault_ite, ite_self, eq_self, implies_true, ↓Chip.settleQueue_vault] | split | simp only [Chip.setFlag_sec, Chip.setField_sec, Chip.setReg_sec, Chip.bump_sec, Chip.setFlag_fw, Chip.setField_fw, Chip.setReg_fw, Chip.bump_fw])
theorem Chip.settle_plane (c : Chip) (q : Nat) : (Chip.settle c q).plane = c.plane := by
  simp only [Chip.settle, ↓plane_ite, ite_self, eq_self, implies_true, ↓Chip.settleQueue_plane]
theorem Chip.settleAll_vault (c : Chip) : (Chip.settleAll c).vault = c.vault := by
  unfold Chip.settleAll
  repeat' (first | with_reducible rfl | simp only [↓vault_mk, ↓vault_sec, ↓vault_fw, ↓vault_secFw, ↓vault_ite, ite_self, eq_self, implies_true, ↓Chip.settle_vault] | with_reducible refine (keep_forAll Chip.vault _ _ _ ?_).trans ?_ | split | intro _ _ | intro _ | simp only [Chip.setFlag_sec, Chip.setField_sec, Chip.setReg_sec, Chip.bump_sec, Chip.setFlag_fw, Chip.setField_fw, Chip.setReg_fw, Chip.bump_fw])
theorem Chip.settleAll_plane (c : Chip) : (Chip.settleAll c).plane = c.plane := by
  unfold Chip.settleAll
  repeat' (first | with_reducible rfl | simp only [↓plane_mk, ↓plane_ite, ite_self, eq_self, implies_true, ↓Chip.settle_plane] | with_reducible refine (keep_forAll Chip.plane _ _ _ ?_).trans ?_ | split | intro _ _ | intro _)
theorem Chip.startOldest_vault (c : Chip) (q : Nat) : (Chip.startOldest c q).vault = c.vault := by
  unfold Chip.startOldest
  repeat' (first | with_reducible rfl | simp only [↓vault_mk, ↓vault_sec, ↓vault_fw, ↓vault_secFw, ↓vault_ite, ite_self, eq_self, implies_true, ↓Chip.takeRequest_vault] | split | simp only [Chip.setFlag_sec, Chip.setField_sec, Chip.setReg_sec, Chip.bump_sec, Chip.setFlag_fw, Chip.setField_fw, Chip.setReg_fw, Chip.bump_fw])
theorem Chip.startOldest_plane (c : Chip) (q : Nat) : (Chip.startOldest c q).plane = c.plane := by
  unfold Chip.startOldest
  repeat' (first | with_reducible rfl | simp only [↓plane_mk, ↓plane_ite, ite_self, eq_self, implies_true, ↓Chip.takeRequest_plane] | split)
theorem Chip.startUpTo_vault (q op n : Nat) (c : Chip) : (Chip.startUpTo q op n c).vault = c.vault := by
  induction n generalizing c with
  | zero => rfl
  | succ n ih =>
    unfold Chip.startUpTo
    repeat' (first | with_reducible rfl | simp only [↓vault_ite, ite_self, eq_self, ↓ih, ↓Chip.answerOldest_vault, ↓Chip.takeFresh_vault, ↓Chip.startOldest_vault] | split)
theorem Chip.startUpTo_plane (q op n : Nat) (c : Chip) : (Chip.startUpTo q op n c).plane = c.plane := by
  induction n generalizing c with
  | zero => rfl
  | succ n ih =>
    unfold Chip.startUpTo
    repeat' (first | with_reducible rfl | simp only [↓plane_ite, ite_self, eq_self, ↓ih, ↓Chip.answerOldest_plane, ↓Chip.takeFresh_plane, ↓Chip.startOldest_plane] | split)
theorem Chip.startFor_vault (c : Chip) (q : Nat) (op : Nat) : (Chip.startFor c q op).vault = c.vault := by
  unfold Chip.startFor
  repeat' (first | with_reducible rfl | simp only [↓vault_mk, ↓vault_sec, ↓vault_fw, ↓vault_secFw, ↓vault_ite, ite_self, eq_self, implies_true, ↓Chip.startUpTo_vault] | split | simp only [Chip.setFlag_sec, Chip.setField_sec, Chip.setReg_sec, Chip.bump_sec, Chip.setFlag_fw, Chip.setField_fw, Chip.setReg_fw, Chip.bump_fw])
theorem Chip.startFor_plane (c : Chip) (q : Nat) (op : Nat) : (Chip.startFor c q op).plane = c.plane := by
  unfold Chip.startFor
  repeat' (first | with_reducible rfl | simp only [↓plane_mk, ↓plane_ite, ite_self, eq_self, implies_true, ↓Chip.startUpTo_plane] | split)

end Sys2Proof.Machine
end

