-- ==== Sys2Proof/Laws/KeepFirmware.lean ====
section
/-! SUPPORT. What the operations of Machine/Firmware.lean leave of the fuses and the flash, of the state outside the data
plane, and of the data plane. -/

set_option linter.all false

namespace Sys2Proof.Machine

theorem Chip.setTelem_vault (c : Chip) (t : Option Telem) (seq shed : Nat) : (Chip.setTelem c t seq shed).vault = c.vault := by
  unfold Chip.setTelem
  repeat' (first | with_reducible rfl | simp only [↓vault_mk, ↓vault_sec, ↓vault_fw, ↓vault_secFw, ↓vault_ite, ite_self, eq_self, implies_true] | simp only [Chip.setFlag_sec, Chip.setField_sec, Chip.setReg_sec, Chip.bump_sec, Chip.setFlag_fw, Chip.setField_fw, Chip.setReg_fw, Chip.bump_fw])
theorem Chip.setTelem_plane (c : Chip) (t : Option Telem) (seq shed : Nat) : (Chip.setTelem c t seq shed).plane = c.plane := by
  simp only [Chip.setTelem, ↓plane_mk, ↓plane_ite, ite_self, eq_self, implies_true]
theorem Chip.dropFirmwareState_vault (c : Chip) : (Chip.dropFirmwareState c).vault = c.vault := by
  simp only [Chip.dropFirmwareState, ↓vault_ite, ite_self, eq_self, implies_true, ↓Chip.setTelem_vault]
theorem Chip.dropFirmwareState_plane (c : Chip) : (Chip.dropFirmwareState c).plane = c.plane := by
  simp only [Chip.dropFirmwareState, ↓plane_ite, ite_self, eq_self, implies_true, ↓Chip.setTelem_plane]
theorem Chip.writeHandover_vault (c : Chip) : (Chip.writeHandover c).vault = c.vault := by
  unfold Chip.writeHandover
  repeat' (first | with_reducible rfl | simp only [↓vault_mk, ↓vault_sec, ↓vault_fw, ↓vault_secFw, ↓vault_ite, ite_self, eq_self, implies_true, ↓Chip.storeWrite_vault] | split | simp only [Chip.setFlag_sec, Chip.setField_sec, Chip.setReg_sec, Chip.bump_sec, Chip.setFlag_fw, Chip.setField_fw, Chip.setReg_fw, Chip.bump_fw])
theorem Chip.writeHandover_plane (c : Chip) : (Chip.writeHandover c).plane = c.plane := by
  unfold Chip.writeHandover
  repeat' (first | with_reducible rfl | simp only [↓plane_mk, ↓plane_ite, ite_self, eq_self, implies_true, ↓Chip.storeWrite_plane] | split)
theorem Chip.clearHandover_vault (c : Chip) : (Chip.clearHandover c).vault = c.vault := by
  unfold Chip.clearHandover
  repeat' (first | with_reducible rfl | simp only [↓vault_mk, ↓vault_sec, ↓vault_fw, ↓vault_secFw, ↓vault_ite, ite_self, eq_self, implies_true, ↓Chip.setStore_vault] | split | simp only [Chip.setFlag_sec, Chip.setField_sec, Chip.setReg_sec, Chip.bump_sec, Chip.setFlag_fw, Chip.setField_fw, Chip.setReg_fw, Chip.bump_fw])
theorem Chip.clearHandover_plane (c : Chip) : (Chip.clearHandover c).plane = c.plane := by
  unfold Chip.clearHandover
  repeat' (first | with_reducible rfl | simp only [↓plane_mk, ↓plane_ite, ite_self, eq_self, implies_true, ↓Chip.setStore_plane] | split)
theorem Chip.takeHandover_vault (c : Chip) (h : Handover) : (Chip.takeHandover c h).vault = c.vault := by
  simp only [Chip.takeHandover, ↓vault_ite, ite_self, eq_self, implies_true, ↓Chip.setTelem_vault]
theorem Chip.takeHandover_plane (c : Chip) (h : Handover) : (Chip.takeHandover c h).plane = c.plane := by
  simp only [Chip.takeHandover, ↓plane_ite, ite_self, eq_self, implies_true, ↓Chip.setTelem_plane]
theorem Chip.imageRuns_vault (c : Chip) (k : Nat) (h : Header) (region : Nat) (adopt : Nat) : (Chip.imageRuns c k h region adopt).vault = c.vault := by
  unfold Chip.imageRuns
  repeat' (first | with_reducible rfl | simp only [↓vault_mk, ↓vault_sec, ↓vault_fw, ↓vault_secFw, ↓vault_ite, ite_self, eq_self, implies_true, ↓Chip.setReg_vault, ↓Chip.setField_vault, ↓Chip.setFlag_vault, ↓Chip.setFwState_vault, ↓Chip.freshRuntime_vault] | split | simp only [Chip.setFlag_sec, Chip.setField_sec, Chip.setReg_sec, Chip.bump_sec, Chip.setFlag_fw, Chip.setField_fw, Chip.setReg_fw, Chip.bump_fw])
theorem Chip.imageRuns_plane (c : Chip) (k : Nat) (h : Header) (region : Nat) (adopt : Nat) : (Chip.imageRuns c k h region adopt).plane = c.plane := by
  unfold Chip.imageRuns
  repeat' (first | with_reducible rfl | simp only [↓plane_mk, ↓plane_ite, ite_self, eq_self, implies_true, ↓Chip.setReg_plane, ↓Chip.setField_plane, ↓Chip.setFlag_plane, ↓Chip.setFwState_plane, ↓Chip.freshRuntime_plane] | split)
theorem Chip.bootImage_plane (c : Chip) (k : Nat) (rejected : Option Nat) : (Chip.bootImage c k rejected).plane = c.plane := by
  unfold Chip.bootImage
  repeat' (first | with_reducible rfl | simp only [↓plane_mk, ↓plane_ite, ite_self, eq_self, implies_true, ↓Chip.raise_plane, ↓Chip.logFind_plane, ↓Chip.gaspCopy_plane, ↓Chip.deriveKeys_plane, ↓Chip.settleAll_plane, ↓Chip.dropFirmwareState_plane, ↓Chip.takeHandover_plane, ↓Chip.imageRuns_plane] | split)
theorem Chip.bootImage_fuses (c : Chip) (k : Nat) (rejected : Option Nat) : (Chip.bootImage c k rejected).vault.fuses = c.vault.fuses := by
  unfold Chip.bootImage
  repeat' (first | with_reducible rfl | simp only [↓vault_mk, ↓vault_sec, ↓vault_fw, ↓vault_secFw, ↓vault_ite, ↓fuses_ite, ite_self, eq_self, implies_true, ↓Chip.raise_vault, ↓Chip.logFind_vault, ↓Chip.gaspCopy_fuses, ↓Chip.deriveKeys_vault, ↓Chip.settleAll_vault, ↓Chip.dropFirmwareState_vault, ↓Chip.takeHandover_vault, ↓Chip.imageRuns_vault] | intro _ _ | split | simp only [Chip.setFlag_sec, Chip.setField_sec, Chip.setReg_sec, Chip.bump_sec, Chip.setFlag_fw, Chip.setField_fw, Chip.setReg_fw, Chip.bump_fw])
theorem Chip.bootImage_canon (c : Chip) (k : Nat) (rejected : Option Nat) (h : c.vault.canon) : (Chip.bootImage c k rejected).vault.canon := by
  unfold Chip.bootImage
  repeat' (first | with_reducible assumption | simp only [↓vault_mk, ↓vault_sec, ↓vault_fw, ↓vault_secFw, ↓vault_ite, ↓Chip.raise_vault, ↓Chip.logFind_vault, ↓Chip.deriveKeys_vault, ↓Chip.settleAll_vault, ↓Chip.dropFirmwareState_vault, ↓Chip.takeHandover_vault, ↓Chip.imageRuns_vault] | with_reducible refine canon_ite _ _ _ ?_ ?_ | with_reducible apply Chip.gaspCopy_canon | intro _ _ _ | split | simp only [Chip.setFlag_sec, Chip.setField_sec, Chip.setReg_sec, Chip.bump_sec, Chip.setFlag_fw, Chip.setField_fw, Chip.setReg_fw, Chip.bump_fw])
theorem Chip.bootTry_fuses (c : Chip) (rejected : Option Nat) (ks : List Nat) :
    (Chip.bootTry c rejected ks).vault.fuses = c.vault.fuses := by
  induction ks generalizing c with
  | nil => simp only [Chip.bootTry, Chip.settleAll_vault, Chip.raise_vault, Chip.setFwState_vault]
  | cons k ks ih => simp only [Chip.bootTry, ↓vault_ite, ↓fuses_ite, ↓ih, ↓Chip.raise_vault, ↓Chip.bootImage_fuses, ↓Chip.loadSlot_vault, ite_self]
theorem Chip.bootTry_canon (c : Chip) (rejected : Option Nat) (ks : List Nat) (h : c.vault.canon) :
    (Chip.bootTry c rejected ks).vault.canon := by
  induction ks generalizing c with
  | nil => simpa only [Chip.bootTry, Chip.settleAll_vault, Chip.raise_vault, Chip.setFwState_vault] using h
  | cons k ks ih =>
    simp only [Chip.bootTry, ↓vault_ite]
    refine canon_ite _ _ _ (Chip.bootImage_canon _ _ _ (by rwa [Chip.loadSlot_vault])) (ih _ ?_)
    rwa [Chip.raise_vault, Chip.loadSlot_vault]
theorem Chip.bootTry_plane (c : Chip) (rejected : Option Nat) (ks : List Nat) :
    (Chip.bootTry c rejected ks).plane = c.plane := by
  induction ks generalizing c with
  | nil => simp only [Chip.bootTry, Chip.settleAll_plane, Chip.raise_plane, Chip.setFwState_plane]
  | cons k ks ih => simp only [Chip.bootTry, ↓plane_ite, ↓ih, ↓Chip.raise_plane, ↓Chip.bootImage_plane, ↓Chip.loadSlot_plane, ite_self]
theorem Chip.rejectTrials_plane (c : Chip) : (Chip.rejectTrials c).plane = c.plane := by
  unfold Chip.rejectTrials
  repeat' (first | with_reducible rfl | simp only [↓plane_ite, ite_self, eq_self, implies_true, ↓Chip.writeSlotState_plane] | with_reducible refine (keep_forAll Chip.plane _ _ _ ?_).trans ?_ | intro _ _ | split)
theorem Chip.rejectTrials_fuses (c : Chip) : (Chip.rejectTrials c).vault.fuses = c.vault.fuses := by
  unfold Chip.rejectTrials
  repeat' (first | with_reducible rfl | simp only [↓vault_mk, ↓vault_sec, ↓vault_fw, ↓vault_secFw, ↓vault_ite, ↓fuses_ite, ite_self, eq_self, implies_true, ↓Chip.writeSlotState_fuses] | with_reducible refine (fuses_forAll _ _ _ ?_).trans ?_ | intro _ _ | split | simp only [Chip.setFlag_sec, Chip.setField_sec, Chip.setReg_sec, Chip.bump_sec, Chip.setFlag_fw, Chip.setField_fw, Chip.setReg_fw, Chip.bump_fw])
theorem Chip.rejectTrials_canon (c : Chip) (h : c.vault.canon) : (Chip.rejectTrials c).vault.canon := by
  unfold Chip.rejectTrials
  repeat' (first | with_reducible assumption | simp only [↓vault_mk, ↓vault_sec, ↓vault_fw, ↓vault_secFw, ↓vault_ite] | with_reducible refine canon_ite _ _ _ ?_ ?_ | with_reducible apply Chip.writeSlotState_canon | with_reducible refine canon_forAll _ _ _ ?_ ?_ | intro _ _ _ | split | simp only [Chip.setFlag_sec, Chip.setField_sec, Chip.setReg_sec, Chip.bump_sec, Chip.setFlag_fw, Chip.setField_fw, Chip.setReg_fw, Chip.bump_fw])
theorem Chip.finishFuses_vault (c : Chip) : (Chip.finishFuses c).vault = c.vault := by
  unfold Chip.finishFuses
  repeat' (first | with_reducible rfl | simp only [↓vault_mk, ↓vault_sec, ↓vault_fw, ↓vault_secFw, ↓vault_ite, ite_self, eq_self, implies_true] | split | simp only [Chip.setFlag_sec, Chip.setField_sec, Chip.setReg_sec, Chip.bump_sec, Chip.setFlag_fw, Chip.setField_fw, Chip.setReg_fw, Chip.bump_fw])
theorem Chip.finishFuses_plane (c : Chip) : (Chip.finishFuses c).plane = c.plane := by
  unfold Chip.finishFuses
  repeat' (first | with_reducible rfl | simp only [↓plane_mk, ↓plane_ite, ite_self, eq_self, implies_true] | split)
theorem Chip.bootRom_plane (c : Chip) : (Chip.bootRom c).plane = c.plane := by
  unfold Chip.bootRom
  repeat' (first | with_reducible rfl | simp only [↓plane_mk, ↓plane_ite, ite_self, eq_self, implies_true, ↓Chip.bootTry_plane, ↓Chip.rejectTrials_plane, ↓Chip.finishFuses_plane] | split)
theorem Chip.bootRom_fuses (c : Chip) : (Chip.bootRom c).vault.fuses = c.vault.fuses := by
  unfold Chip.bootRom
  repeat' (first | with_reducible rfl | simp only [↓vault_mk, ↓vault_sec, ↓vault_fw, ↓vault_secFw, ↓vault_ite, ↓fuses_ite, ite_self, eq_self, implies_true, ↓Chip.bootTry_fuses, ↓Chip.rejectTrials_fuses, ↓Chip.finishFuses_vault] | intro _ _ | split | simp only [Chip.setFlag_sec, Chip.setField_sec, Chip.setReg_sec, Chip.bump_sec, Chip.setFlag_fw, Chip.setField_fw, Chip.setReg_fw, Chip.bump_fw])
theorem Chip.bootRom_canon (c : Chip) (h : c.vault.canon) : (Chip.bootRom c).vault.canon := by
  unfold Chip.bootRom
  repeat' (first | with_reducible assumption | simp only [↓vault_mk, ↓vault_sec, ↓vault_fw, ↓vault_secFw, ↓vault_ite, ↓Chip.finishFuses_vault] | with_reducible refine canon_ite _ _ _ ?_ ?_ | with_reducible apply Chip.bootTry_canon | with_reducible apply Chip.rejectTrials_canon | intro _ _ _ | split | simp only [Chip.setFlag_sec, Chip.setField_sec, Chip.setReg_sec, Chip.bump_sec, Chip.setFlag_fw, Chip.setField_fw, Chip.setReg_fw, Chip.bump_fw])
theorem Chip.clearIndices_vault (c : Chip) : (Chip.clearIndices c).vault = c.vault := by
  unfold Chip.clearIndices
  repeat' (first | with_reducible rfl | simp only [↓vault_mk, ↓vault_sec, ↓vault_fw, ↓vault_secFw, ↓vault_ite, ite_self, eq_self, implies_true, ↓Chip.setReg_vault] | with_reducible refine (keep_forAll Chip.vault _ _ _ ?_).trans ?_ | split | intro _ _ | intro _ | simp only [Chip.setFlag_sec, Chip.setField_sec, Chip.setReg_sec, Chip.bump_sec, Chip.setFlag_fw, Chip.setField_fw, Chip.setReg_fw, Chip.bump_fw])
theorem Chip.clearIndices_plane (c : Chip) : (Chip.clearIndices c).plane = c.plane := by
  unfold Chip.clearIndices
  repeat' (first | with_reducible rfl | simp only [↓plane_mk, ↓plane_ite, ite_self, eq_self, implies_true, ↓Chip.setReg_plane] | with_reducible refine (keep_forAll Chip.plane _ _ _ ?_).trans ?_ | split | intro _ _ | intro _)
theorem Chip.mgmtRestart_vault (c : Chip) : (Chip.mgmtRestart c).vault = c.vault := by
  unfold Chip.mgmtRestart
  repeat' (first | with_reducible rfl | simp only [↓vault_mk, ↓vault_sec, ↓vault_fw, ↓vault_secFw, ↓vault_ite, ite_self, eq_self, implies_true, ↓Chip.setReg_vault, ↓Chip.setFlag_vault, ↓Chip.closeDebug_vault, ↓Chip.setFwState_vault, ↓Chip.clearIndices_vault] | split | simp only [Chip.setFlag_sec, Chip.setField_sec, Chip.setReg_sec, Chip.bump_sec, Chip.setFlag_fw, Chip.setField_fw, Chip.setReg_fw, Chip.bump_fw])
theorem Chip.mgmtRestart_plane (c : Chip) : (Chip.mgmtRestart c).plane = c.plane := by
  unfold Chip.mgmtRestart
  repeat' (first | with_reducible rfl | simp only [↓plane_mk, ↓plane_ite, ite_self, eq_self, implies_true, ↓Chip.setReg_plane, ↓Chip.setFlag_plane, ↓Chip.closeDebug_plane, ↓Chip.setFwState_plane, ↓Chip.clearIndices_plane] | split)
theorem Chip.mgmtReset_vault (c : Chip) (cause : Nat) : (Chip.mgmtReset c cause).vault = c.vault := by
  simp only [Chip.mgmtReset, ↓vault_ite, ite_self, eq_self, implies_true, ↓Chip.mgmtRestart_vault, ↓Chip.raise_vault, ↓Chip.setField_vault, ↓Chip.setFlag_vault]
theorem Chip.mgmtReset_plane (c : Chip) (cause : Nat) : (Chip.mgmtReset c cause).plane = c.plane := by
  simp only [Chip.mgmtReset, ↓plane_ite, ite_self, eq_self, implies_true, ↓Chip.mgmtRestart_plane, ↓Chip.raise_plane, ↓Chip.setField_plane, ↓Chip.setFlag_plane]
theorem Chip.coreExpiry_vault (c : Chip) (k : Nat) : (Chip.coreExpiry c k).vault = c.vault := by
  unfold Chip.coreExpiry
  repeat' (first | with_reducible rfl | simp only [↓vault_mk, ↓vault_sec, ↓vault_fw, ↓vault_secFw, ↓vault_ite, ite_self, eq_self, implies_true, ↓Chip.mgmtReset_vault, ↓Chip.raise_vault, ↓Chip.setFlag_vault] | split | simp only [Chip.setFlag_sec, Chip.setField_sec, Chip.setReg_sec, Chip.bump_sec, Chip.setFlag_fw, Chip.setField_fw, Chip.setReg_fw, Chip.bump_fw])
theorem Chip.coreExpiry_plane (c : Chip) (k : Nat) : (Chip.coreExpiry c k).plane = c.plane := by
  unfold Chip.coreExpiry
  repeat' (first | with_reducible rfl | simp only [↓plane_mk, ↓plane_ite, ite_self, eq_self, implies_true, ↓Chip.mgmtReset_plane, ↓Chip.raise_plane, ↓Chip.setFlag_plane] | split)
theorem Chip.sramError_vault (c : Chip) (bank : Nat) (word : Nat) : (Chip.sramError c bank word).vault = c.vault := by
  unfold Chip.sramError
  repeat' (first | with_reducible rfl | simp only [↓vault_mk, ↓vault_sec, ↓vault_fw, ↓vault_secFw, ↓vault_ite, ite_self, eq_self, implies_true, ↓Chip.setField_vault, ↓Chip.bump_vault, ↓Chip.raise_vault, ↓Chip.freshRuntime_vault, ↓Chip.dropFirmwareState_vault, ↓Chip.mgmtReset_vault] | split | simp only [Chip.setFlag_sec, Chip.setField_sec, Chip.setReg_sec, Chip.bump_sec, Chip.setFlag_fw, Chip.setField_fw, Chip.setReg_fw, Chip.bump_fw])
theorem Chip.sramError_plane (c : Chip) (bank : Nat) (word : Nat) : (Chip.sramError c bank word).plane = c.plane := by
  unfold Chip.sramError
  repeat' (first | with_reducible rfl | simp only [↓plane_mk, ↓plane_ite, ite_self, eq_self, implies_true, ↓Chip.setField_plane, ↓Chip.bump_plane, ↓Chip.raise_plane, ↓Chip.freshRuntime_plane, ↓Chip.dropFirmwareState_plane, ↓Chip.mgmtReset_plane] | split)
theorem Chip.rollback_plane (c : Chip) (k : Nat) : (Chip.rollback c k).plane = c.plane := by
  unfold Chip.rollback
  repeat' (first | with_reducible rfl | simp only [↓plane_mk, ↓plane_ite, ite_self, eq_self, implies_true, ↓Chip.setField_plane, ↓Chip.raise_plane, ↓Chip.writeSlotState_plane, ↓Chip.setFwState_plane, ↓Chip.freshRuntime_plane, ↓Chip.settleAll_plane, ↓Chip.dropFirmwareState_plane, ↓Chip.takeHandover_plane] | split)
theorem Chip.rollback_fuses (c : Chip) (k : Nat) : (Chip.rollback c k).vault.fuses = c.vault.fuses := by
  unfold Chip.rollback
  repeat' (first | with_reducible rfl | simp only [↓vault_mk, ↓vault_sec, ↓vault_fw, ↓vault_secFw, ↓vault_ite, ↓fuses_ite, ite_self, eq_self, implies_true, ↓Chip.setField_vault, ↓Chip.raise_vault, ↓Chip.writeSlotState_fuses, ↓Chip.setFwState_vault, ↓Chip.freshRuntime_vault, ↓Chip.settleAll_vault, ↓Chip.dropFirmwareState_vault, ↓Chip.takeHandover_vault] | intro _ _ | split | simp only [Chip.setFlag_sec, Chip.setField_sec, Chip.setReg_sec, Chip.bump_sec, Chip.setFlag_fw, Chip.setField_fw, Chip.setReg_fw, Chip.bump_fw])
theorem Chip.rollback_canon (c : Chip) (k : Nat) (h : c.vault.canon) : (Chip.rollback c k).vault.canon := by
  unfold Chip.rollback
  repeat' (first | with_reducible assumption | simp only [↓vault_mk, ↓vault_sec, ↓vault_fw, ↓vault_secFw, ↓vault_ite, ↓Chip.setField_vault, ↓Chip.raise_vault, ↓Chip.setFwState_vault, ↓Chip.freshRuntime_vault, ↓Chip.settleAll_vault, ↓Chip.dropFirmwareState_vault, ↓Chip.takeHandover_vault] | with_reducible refine canon_ite _ _ _ ?_ ?_ | with_reducible apply Chip.writeSlotState_canon | intro _ _ _ | split | simp only [Chip.setFlag_sec, Chip.setField_sec, Chip.setReg_sec, Chip.bump_sec, Chip.setFlag_fw, Chip.setField_fw, Chip.setReg_fw, Chip.bump_fw])
theorem Chip.updateStart_plane (c : Chip) (k : Nat) : (Chip.updateStart c k).plane = c.plane := by
  unfold Chip.updateStart
  repeat' (first | with_reducible rfl | simp only [↓plane_mk, ↓plane_ite, ite_self, eq_self, implies_true, ↓Chip.writeSlotState_plane, ↓Chip.setFwState_plane, ↓Chip.settleAll_plane] | split)
theorem Chip.updateStart_fuses (c : Chip) (k : Nat) : (Chip.updateStart c k).vault.fuses = c.vault.fuses := by
  unfold Chip.updateStart
  repeat' (first | with_reducible rfl | simp only [↓vault_mk, ↓vault_sec, ↓vault_fw, ↓vault_secFw, ↓vault_ite, ↓fuses_ite, ite_self, eq_self, implies_true, ↓Chip.writeSlotState_fuses, ↓Chip.setFwState_vault, ↓Chip.settleAll_vault] | intro _ _ | split | simp only [Chip.setFlag_sec, Chip.setField_sec, Chip.setReg_sec, Chip.bump_sec, Chip.setFlag_fw, Chip.setField_fw, Chip.setReg_fw, Chip.bump_fw])
theorem Chip.updateStart_canon (c : Chip) (k : Nat) (h : c.vault.canon) : (Chip.updateStart c k).vault.canon := by
  unfold Chip.updateStart
  repeat' (first | with_reducible assumption | simp only [↓vault_mk, ↓vault_sec, ↓vault_fw, ↓vault_secFw, ↓vault_ite, ↓Chip.setFwState_vault, ↓Chip.settleAll_vault] | with_reducible refine canon_ite _ _ _ ?_ ?_ | with_reducible apply Chip.writeSlotState_canon | intro _ _ _ | split | simp only [Chip.setFlag_sec, Chip.setField_sec, Chip.setReg_sec, Chip.bump_sec, Chip.setFlag_fw, Chip.setField_fw, Chip.setReg_fw, Chip.bump_fw])
theorem Chip.updateGo_plane (c : Chip) : (Chip.updateGo c).plane = c.plane := by
  unfold Chip.updateGo
  repeat' (first | with_reducible rfl | simp only [↓plane_mk, ↓plane_ite, ite_self, eq_self, implies_true, ↓Chip.loadSlot_plane, ↓Chip.writeHandover_plane, ↓Chip.rollback_plane] | split)
theorem Chip.updateGo_fuses (c : Chip) : (Chip.updateGo c).vault.fuses = c.vault.fuses := by
  unfold Chip.updateGo
  repeat' (first | with_reducible rfl | simp only [↓vault_mk, ↓vault_sec, ↓vault_fw, ↓vault_secFw, ↓vault_ite, ↓fuses_ite, ite_self, eq_self, implies_true, ↓Chip.loadSlot_vault, ↓Chip.writeHandover_vault, ↓Chip.rollback_fuses] | intro _ _ | split | simp only [Chip.setFlag_sec, Chip.setField_sec, Chip.setReg_sec, Chip.bump_sec, Chip.setFlag_fw, Chip.setField_fw, Chip.setReg_fw, Chip.bump_fw])
theorem Chip.updateGo_canon (c : Chip) (h : c.vault.canon) : (Chip.updateGo c).vault.canon := by
  unfold Chip.updateGo
  repeat' (first | with_reducible assumption | simp only [↓vault_mk, ↓vault_sec, ↓vault_fw, ↓vault_secFw, ↓vault_ite, ↓Chip.loadSlot_vault, ↓Chip.writeHandover_vault] | with_reducible refine canon_ite _ _ _ ?_ ?_ | with_reducible apply Chip.rollback_canon | intro _ _ _ | split | simp only [Chip.setFlag_sec, Chip.setField_sec, Chip.setReg_sec, Chip.bump_sec, Chip.setFlag_fw, Chip.setField_fw, Chip.setReg_fw, Chip.bump_fw])
theorem Chip.newImage_plane (c : Chip) (selfTestOk : Bool) : (Chip.newImage c selfTestOk).plane = c.plane := by
  unfold Chip.newImage
  repeat' (first | with_reducible rfl | simp only [↓plane_mk, ↓plane_ite, ite_self, eq_self, implies_true, ↓Chip.raise_plane, ↓Chip.writeSlotState_plane, ↓Chip.settleAll_plane, ↓Chip.dropFirmwareState_plane, ↓Chip.clearHandover_plane, ↓Chip.takeHandover_plane, ↓Chip.imageRuns_plane, ↓Chip.rollback_plane] | split)
theorem Chip.newImage_fuses (c : Chip) (selfTestOk : Bool) : (Chip.newImage c selfTestOk).vault.fuses = c.vault.fuses := by
  unfold Chip.newImage
  repeat' (first | with_reducible rfl | simp only [↓vault_mk, ↓vault_sec, ↓vault_fw, ↓vault_secFw, ↓vault_ite, ↓fuses_ite, ite_self, eq_self, implies_true, ↓Chip.raise_vault, ↓Chip.writeSlotState_fuses, ↓Chip.settleAll_vault, ↓Chip.dropFirmwareState_vault, ↓Chip.clearHandover_vault, ↓Chip.takeHandover_vault, ↓Chip.imageRuns_vault, ↓Chip.rollback_fuses] | intro _ _ | split | simp only [Chip.setFlag_sec, Chip.setField_sec, Chip.setReg_sec, Chip.bump_sec, Chip.setFlag_fw, Chip.setField_fw, Chip.setReg_fw, Chip.bump_fw])
theorem Chip.newImage_canon (c : Chip) (selfTestOk : Bool) (h : c.vault.canon) : (Chip.newImage c selfTestOk).vault.canon := by
  unfold Chip.newImage
  repeat' (first | with_reducible assumption | simp only [↓vault_mk, ↓vault_sec, ↓vault_fw, ↓vault_secFw, ↓vault_ite, ↓Chip.raise_vault, ↓Chip.settleAll_vault, ↓Chip.dropFirmwareState_vault, ↓Chip.clearHandover_vault, ↓Chip.takeHandover_vault, ↓Chip.imageRuns_vault] | with_reducible refine canon_ite _ _ _ ?_ ?_ | with_reducible apply Chip.writeSlotState_canon | with_reducible apply Chip.rollback_canon | intro _ _ _ | split | simp only [Chip.setFlag_sec, Chip.setField_sec, Chip.setReg_sec, Chip.bump_sec, Chip.setFlag_fw, Chip.setField_fw, Chip.setReg_fw, Chip.bump_fw])
theorem Chip.heartbeat_house (c : Chip) : (Chip.heartbeat c).house = c.house := by
  unfold Chip.heartbeat
  repeat' (first | with_reducible rfl | simp only [↓house_mk, ↓house_ite, ite_self, eq_self, implies_true, ↓Chip.setReg_house, ↓Chip.bump_house, ↓Chip.takeFresh_house] | with_reducible refine (pair_house_takeFresh (by assumption)).trans ?_ | split | intro _ _ | intro _)
theorem Chip.heartbeat_vault (c : Chip) : (Chip.heartbeat c).vault = c.vault := vault_of_house (Chip.heartbeat_house c)
theorem Chip.heartbeat_plane (c : Chip) : (Chip.heartbeat c).plane = c.plane := by
  unfold Chip.heartbeat
  repeat' (first | with_reducible rfl | simp only [↓plane_mk, ↓plane_ite, ite_self, eq_self, implies_true, ↓Chip.setReg_plane, ↓Chip.bump_plane, ↓Chip.takeFresh_plane] | with_reducible refine (pair_plane_takeFresh (by assumption)).trans ?_ | split | intro _ _ | intro _)
theorem Chip.telemPeriod_vault (c : Chip) (produced : Bool) : (Chip.telemPeriod c produced).vault = c.vault := by
  unfold Chip.telemPeriod
  repeat' (first | with_reducible rfl | simp only [↓vault_mk, ↓vault_sec, ↓vault_fw, ↓vault_secFw, ↓vault_ite, ite_self, eq_self, implies_true, ↓Chip.bump_vault] | split | simp only [Chip.setFlag_sec, Chip.setField_sec, Chip.setReg_sec, Chip.bump_sec, Chip.setFlag_fw, Chip.setField_fw, Chip.setReg_fw, Chip.bump_fw])
theorem Chip.telemPeriod_plane (c : Chip) (produced : Bool) : (Chip.telemPeriod c produced).plane = c.plane := by
  unfold Chip.telemPeriod
  repeat' (first | with_reducible rfl | simp only [↓plane_mk, ↓plane_ite, ite_self, eq_self, implies_true, ↓Chip.bump_plane] | split)
theorem Chip.pauseEnd_house (c : Chip) : (Chip.pauseEnd c).house = c.house := by
  unfold Chip.pauseEnd
  repeat' (first | with_reducible rfl | simp only [↓house_mk, ↓house_ite, ite_self, eq_self, implies_true, ↓Chip.msix_house] | split)
theorem Chip.pauseEnd_vault (c : Chip) : (Chip.pauseEnd c).vault = c.vault := vault_of_house (Chip.pauseEnd_house c)
theorem Chip.pauseEnd_plane (c : Chip) : (Chip.pauseEnd c).plane = c.plane := by
  unfold Chip.pauseEnd
  repeat' (first | with_reducible rfl | simp only [↓plane_mk, ↓plane_ite, ite_self, eq_self, implies_true, ↓Chip.msix_plane] | split)

end Sys2Proof.Machine
end

