-- ==== Sys2Proof/Laws/KeepMailbox.lean ====
section
/-! SUPPORT. What the operations of Machine/Mailbox.lean leave of the fuses and the flash, of the state outside the data
plane, and of the data plane. -/

set_option linter.all false

namespace Sys2Proof.Machine

/-- A request that completes changes the vault by its effect alone. -/
theorem Chip.complete_keeps (R : Vault → Prop) (c : Chip) (x : Started) (len : Nat) (f : List Byte → Answer)
    (h : R c.vault) (hf : ∀ bs c', c'.vault = c.vault → R ((f bs).effect c').vault) : R (c.complete x len f).vault := by
  simp only [Chip.complete, vault_ite, Chip.reply_vault, vault_fw]
  repeat' split
  · exact h
  · exact h
  · exact hf _ _ (by simp only [Chip.reply_vault, vault_fw])
theorem Chip.complete_plane (c : Chip) (x : Started) (len : Nat) (f : List Byte → Answer)
    (hf : ∀ bs c', ((f bs).effect c').plane = c'.plane) : (c.complete x len f).plane = c.plane := by
  simp only [Chip.complete, plane_ite, Chip.reply_plane, hf, plane_mk, ite_self]
theorem Chip.serve_keeps (R : Vault → Prop) (c : Chip) (q op len : Nat) (f : List Byte → Answer) (h : R c.vault)
    (hu : ∀ d : Chip, R d.vault → R d.updateGo.vault) (hf : ∀ bs d, d.vault = c.vault → R ((f bs).effect d).vault) :
    R (c.serve q op len f).vault := by
  have e : (if c.mayReply q = true then c.startFor q op else c).vault = c.vault := by
    simp only [vault_ite, Chip.startFor_vault, ite_self]
  simp only [Chip.serve]
  generalize (if c.mayReply q = true then c.startFor q op else c) = d at e ⊢
  split
  · split
    · refine hu _ ?_
      rw [Chip.settle_vault]
      exact Chip.complete_keeps R _ _ _ _ (by rwa [e]) (fun bs d' hd => hf bs d' (hd.trans e))
    · rwa [e]
  · rwa [e]
theorem Chip.serve_plane (c : Chip) (q op len : Nat) (f : List Byte → Answer)
    (hf : ∀ bs c', ((f bs).effect c').plane = c'.plane) : (c.serve q op len f).plane = c.plane := by
  have e : (if c.mayReply q = true then c.startFor q op else c).plane = c.plane := by
    simp only [plane_ite, Chip.startFor_plane, ite_self]
  simp only [Chip.serve]
  generalize (if c.mayReply q = true then c.startFor q op else c) = d at e ⊢
  split
  · split
    · rw [Chip.updateGo_plane, Chip.settle_plane, Chip.complete_plane _ _ _ _ hf, e]
    · exact e
  · exact e
theorem Chip.doorbell_vault (c : Chip) (q : Nat) (v : W32) : (Chip.doorbell c q v).vault = c.vault := by
  unfold Chip.doorbell
  repeat' (first | with_reducible rfl | simp only [↓vault_mk, ↓vault_sec, ↓vault_fw, ↓vault_secFw, ↓vault_ite, ite_self, eq_self, implies_true, ↓Chip.setReg_vault, ↓Chip.setFlag_vault, ↓Chip.replicate_vault, ↓Chip.settle_vault] | split | simp only [Chip.setFlag_sec, Chip.setField_sec, Chip.setReg_sec, Chip.bump_sec, Chip.setFlag_fw, Chip.setField_fw, Chip.setReg_fw, Chip.bump_fw])
theorem Chip.doorbell_plane (c : Chip) (q : Nat) (v : W32) : (Chip.doorbell c q v).plane = c.plane := by
  unfold Chip.doorbell
  repeat' (first | with_reducible rfl | simp only [↓plane_mk, ↓plane_ite, ite_self, eq_self, implies_true, ↓Chip.setReg_plane, ↓Chip.setFlag_plane, ↓Chip.settle_plane] | split)
theorem Chip.rspCiWrite_vault (c : Chip) (q : Nat) (v : W32) : (Chip.rspCiWrite c q v).vault = c.vault := by
  unfold Chip.rspCiWrite
  repeat' (first | with_reducible rfl | simp only [↓vault_mk, ↓vault_sec, ↓vault_fw, ↓vault_secFw, ↓vault_ite, ite_self, eq_self, implies_true, ↓Chip.setReg_vault, ↓Chip.setFlag_vault, ↓Chip.settle_vault] | split | simp only [Chip.setFlag_sec, Chip.setField_sec, Chip.setReg_sec, Chip.bump_sec, Chip.setFlag_fw, Chip.setField_fw, Chip.setReg_fw, Chip.bump_fw])
theorem Chip.rspCiWrite_plane (c : Chip) (q : Nat) (v : W32) : (Chip.rspCiWrite c q v).plane = c.plane := by
  unfold Chip.rspCiWrite
  repeat' (first | with_reducible rfl | simp only [↓plane_ite, ite_self, eq_self, implies_true, ↓Chip.setFlag_plane, ↓Chip.setReg_plane, ↓Chip.settle_plane] | split)
theorem Chip.failOne_plane (c : Chip) (q : Nat) : (Chip.failOne c q).plane = c.plane := by
  unfold Chip.failOne
  repeat' (first | with_reducible rfl | simp only [↓plane_mk, ↓plane_ite, ite_self, eq_self, implies_true, ↓Chip.reply_plane, ↓Chip.settle_plane, ↓Chip.startOldest_plane, ↓Chip.updateGo_plane] | split)
theorem Chip.failOne_fuses (c : Chip) (q : Nat) : (Chip.failOne c q).vault.fuses = c.vault.fuses := by
  unfold Chip.failOne
  repeat' (first | with_reducible rfl | simp only [↓vault_mk, ↓vault_sec, ↓vault_fw, ↓vault_secFw, ↓vault_ite, ↓fuses_ite, ite_self, eq_self, implies_true, ↓Chip.reply_vault, ↓Chip.settle_vault, ↓Chip.startOldest_vault, ↓Chip.updateGo_fuses] | intro _ _ | split | simp only [Chip.setFlag_sec, Chip.setField_sec, Chip.setReg_sec, Chip.bump_sec, Chip.setFlag_fw, Chip.setField_fw, Chip.setReg_fw, Chip.bump_fw])
theorem Chip.failOne_canon (c : Chip) (q : Nat) (h : c.vault.canon) : (Chip.failOne c q).vault.canon := by
  unfold Chip.failOne
  repeat' (first | with_reducible assumption | simp only [↓vault_mk, ↓vault_sec, ↓vault_fw, ↓vault_secFw, ↓vault_ite, ↓Chip.reply_vault, ↓Chip.settle_vault, ↓Chip.startOldest_vault] | with_reducible refine canon_ite _ _ _ ?_ ?_ | with_reducible apply Chip.updateGo_canon | intro _ _ _ | split | simp only [Chip.setFlag_sec, Chip.setField_sec, Chip.setReg_sec, Chip.bump_sec, Chip.setFlag_fw, Chip.setField_fw, Chip.setReg_fw, Chip.bump_fw])
theorem Chip.failStarted_plane (c : Chip) (qs : List Queue) : (Chip.failStarted c qs).plane = c.plane := by
  unfold Chip.failStarted
  repeat' (first | with_reducible rfl | simp only [↓plane_mk, ↓plane_ite, ite_self, eq_self, implies_true, ↓Chip.failOne_plane] | with_reducible refine (keep_forAll Chip.plane _ _ _ ?_).trans ?_ | split | intro _ _ | intro _)
theorem Chip.failStarted_fuses (c : Chip) (qs : List Queue) : (Chip.failStarted c qs).vault.fuses = c.vault.fuses := by
  unfold Chip.failStarted
  repeat' (first | with_reducible rfl | simp only [↓vault_mk, ↓vault_sec, ↓vault_fw, ↓vault_secFw, ↓vault_ite, ↓fuses_ite, ite_self, eq_self, implies_true, ↓Chip.failOne_fuses] | with_reducible refine (fuses_forAll _ _ _ ?_).trans ?_ | intro _ _ | split | simp only [Chip.setFlag_sec, Chip.setField_sec, Chip.setReg_sec, Chip.bump_sec, Chip.setFlag_fw, Chip.setField_fw, Chip.setReg_fw, Chip.bump_fw])
theorem Chip.failStarted_canon (c : Chip) (qs : List Queue) (h : c.vault.canon) : (Chip.failStarted c qs).vault.canon := by
  unfold Chip.failStarted
  repeat' (first | with_reducible assumption | simp only [↓vault_mk, ↓vault_sec, ↓vault_fw, ↓vault_secFw, ↓vault_ite] | with_reducible refine canon_ite _ _ _ ?_ ?_ | with_reducible apply Chip.failOne_canon | with_reducible refine canon_forAll _ _ _ ?_ ?_ | intro _ _ _ | split | simp only [Chip.setFlag_sec, Chip.setField_sec, Chip.setReg_sec, Chip.bump_sec, Chip.setFlag_fw, Chip.setField_fw, Chip.setReg_fw, Chip.bump_fw])
theorem Chip.busyTimeout_vault (c : Chip) (q : Nat) : (Chip.busyTimeout c q).vault = c.vault := by
  unfold Chip.busyTimeout
  repeat' (first | with_reducible rfl | simp only [↓vault_mk, ↓vault_sec, ↓vault_fw, ↓vault_secFw, ↓vault_ite, ite_self, eq_self, implies_true, ↓Chip.answerOldest_vault, ↓Chip.settle_vault] | split | simp only [Chip.setFlag_sec, Chip.setField_sec, Chip.setReg_sec, Chip.bump_sec, Chip.setFlag_fw, Chip.setField_fw, Chip.setReg_fw, Chip.bump_fw])
theorem Chip.busyTimeout_plane (c : Chip) (q : Nat) : (Chip.busyTimeout c q).plane = c.plane := by
  unfold Chip.busyTimeout
  repeat' (first | with_reducible rfl | simp only [↓plane_mk, ↓plane_ite, ite_self, eq_self, implies_true, ↓Chip.answerOldest_plane, ↓Chip.settle_plane] | split)
theorem telemCfg_plane (bs : List Byte) (c : Chip) : ((telemCfg bs).effect c).plane = c.plane := by
  unfold telemCfg; extract_lets; split
  · exact Eq.refl _
  · apply plane_mk
theorem telemCfg_vault (bs : List Byte) (c : Chip) : ((telemCfg bs).effect c).vault = c.vault := by
  unfold telemCfg; extract_lets; split
  · exact Eq.refl _
  · apply vault_fw

end Sys2Proof.Machine
end

