-- ==== Sys2Proof/Laws/KeepSecurity.lean ====
section
/-! SUPPORT. What the operations of Machine/Security.lean leave of the fuses and the flash, of the state outside the data
plane, and of the data plane. -/

set_option linter.all false

namespace Sys2Proof.Machine

theorem Chip.enterLife_vault (c : Chip) (life : Nat) (owner : BitVec 384) :
    (c.enterLife life owner).vault = { c.vault with fuses := c.vault.fuses.enter life owner } := by
  simp only [Chip.enterLife, Chip.tapWatch_vault]
  exact Eq.refl _
theorem Chip.enterLife_plane (c : Chip) (life : Nat) (owner : BitVec 384) : (Chip.enterLife c life owner).plane = c.plane := by
  unfold Chip.enterLife
  repeat' (first | with_reducible rfl | simp only [↓plane_mk, ↓plane_ite, ite_self, eq_self, implies_true, ↓Chip.tapWatch_plane] | split)
theorem Chip.fuseEnd_vault (c : Chip) : (Chip.fuseEnd c).vault = c.vault := by
  unfold Chip.fuseEnd
  repeat' (first | with_reducible rfl | simp only [↓vault_mk, ↓vault_sec, ↓vault_fw, ↓vault_secFw, ↓vault_ite, ite_self, eq_self, implies_true, ↓Chip.raise_vault, ↓Chip.finishFuses_vault, ↓Chip.mgmtRestart_vault] | split | simp only [Chip.setFlag_sec, Chip.setField_sec, Chip.setReg_sec, Chip.bump_sec, Chip.setFlag_fw, Chip.setField_fw, Chip.setReg_fw, Chip.bump_fw])
theorem Chip.fuseEnd_plane (c : Chip) : (Chip.fuseEnd c).plane = c.plane := by
  unfold Chip.fuseEnd
  repeat' (first | with_reducible rfl | simp only [↓plane_mk, ↓plane_ite, ite_self, eq_self, implies_true, ↓Chip.raise_plane, ↓Chip.finishFuses_plane, ↓Chip.mgmtRestart_plane] | split)
theorem Chip.afterWipe_vault (c : Chip) (verified : Bool) :
    (c.afterWipe verified).vault = match c.vault.fuses.transition with
      | some (life, owner) => { c.vault with fuses := c.vault.fuses.enter life owner }
      | none => c.vault := by
  have h : ∃ d : Chip, d.vault = c.vault ∧ c.afterWipe verified =
      (match d.sec.transition with | some (life, owner) => d.enterLife life owner | none => d) := by
    unfold Chip.afterWipe
    refine ⟨_, ?_, rfl⟩
    repeat' (first | with_reducible rfl | simp only [↓vault_ite, ↓vault_sec, ite_self, ↓Chip.setReg_vault, ↓Chip.storeResume_vault] | split)
  obtain ⟨d, hd, he⟩ := h
  rw [he, ← hd]
  show (match d.sec.transition with | some (life, owner) => d.enterLife life owner | none => d).vault =
    (match d.sec.transition with
      | some (life, owner) => { d.vault with fuses := d.vault.fuses.enter life owner }
      | none => d.vault)
  generalize d.sec.transition = tr
  cases tr with
  | none => exact Eq.refl _
  | some q => exact d.enterLife_vault q.1 q.2
theorem Chip.afterWipe_plane (c : Chip) (verified : Bool) : (Chip.afterWipe c verified).plane = c.plane := by
  unfold Chip.afterWipe
  repeat' (first | with_reducible rfl | simp only [↓plane_mk, ↓plane_ite, ite_self, eq_self, implies_true, ↓Chip.setReg_plane, ↓Chip.storeResume_plane, ↓Chip.enterLife_plane] | split)
/-- A wipe that ends leaves the vault, or completes the transition that waited for it. -/
theorem Chip.wipeDone_vault (c : Chip) (clear : Bool) :
    (c.wipeDone clear).vault = c.vault ∨ ∃ life owner, c.vault.fuses.transition = some (life, owner) ∧
      (c.wipeDone clear).vault = { c.vault with fuses := c.vault.fuses.enter life owner } := by
  have key : ∀ (d : Chip) (v : Bool), d.vault = c.vault → (d.afterWipe v).vault = c.vault ∨
      ∃ life owner, c.vault.fuses.transition = some (life, owner) ∧
        (d.afterWipe v).vault = { c.vault with fuses := c.vault.fuses.enter life owner } := by
    intro d v hd
    rw [Chip.afterWipe_vault, hd]
    rcases c.vault.fuses.transition with _ | ⟨life, owner⟩
    · exact .inl (Eq.refl _)
    · exact .inr ⟨life, owner, Eq.refl _, Eq.refl _⟩
  unfold Chip.wipeDone
  split
  · exact .inl (Eq.refl _)
  split
  · exact key _ _ (by simp only [Chip.setFlag_vault])
  split
  · left; apply vault_sec
  · exact key _ _ (by simp only [Chip.raise_vault, Chip.setFlag_vault])
theorem Chip.wipeDone_plane (c : Chip) (clear : Bool) : (Chip.wipeDone c clear).plane = c.plane := by
  unfold Chip.wipeDone
  repeat' (first | with_reducible rfl | simp only [↓plane_mk, ↓plane_ite, ite_self, eq_self, implies_true, ↓Chip.setFlag_plane, ↓Chip.raise_plane, ↓Chip.afterWipe_plane] | split)
theorem Chip.newChallenge_house (c : Chip) : (Chip.newChallenge c).house = c.house := by
  unfold Chip.newChallenge
  repeat' (first | with_reducible rfl | simp only [↓house_ite, ite_self, eq_self, implies_true, ↓Chip.setFlag_house, ↓Chip.setReg_house, ↓Chip.takeFresh_house] | with_reducible refine (pair_house_takeFresh (by assumption)).trans ?_ | with_reducible refine (keep_forAll Chip.house _ _ _ ?_).trans ?_ | intro _ _)
theorem Chip.newChallenge_vault (c : Chip) : (Chip.newChallenge c).vault = c.vault := vault_of_house (Chip.newChallenge_house c)
theorem Chip.newChallenge_plane (c : Chip) : (Chip.newChallenge c).plane = c.plane := by
  unfold Chip.newChallenge
  repeat' (first | with_reducible rfl | simp only [↓plane_ite, ite_self, eq_self, implies_true, ↓Chip.setFlag_plane, ↓Chip.setReg_plane, ↓Chip.takeFresh_plane] | with_reducible refine (pair_plane_takeFresh (by assumption)).trans ?_ | with_reducible refine (keep_forAll Chip.plane _ _ _ ?_).trans ?_ | intro _ _)
theorem Chip.submit_vault (c : Chip) : (Chip.submit c).vault = c.vault := by
  unfold Chip.submit
  repeat' (first | with_reducible rfl | simp only [↓vault_mk, ↓vault_sec, ↓vault_fw, ↓vault_secFw, ↓vault_ite, ite_self, eq_self, implies_true, ↓Chip.setFlag_vault] | split | simp only [Chip.setFlag_sec, Chip.setField_sec, Chip.setReg_sec, Chip.bump_sec, Chip.setFlag_fw, Chip.setField_fw, Chip.setReg_fw, Chip.bump_fw])
theorem Chip.submit_plane (c : Chip) : (Chip.submit c).plane = c.plane := by
  unfold Chip.submit
  repeat' (first | with_reducible rfl | simp only [↓plane_mk, ↓plane_ite, ite_self, eq_self, implies_true, ↓Chip.setFlag_plane] | split)
theorem Chip.acceptToken_vault (c : Chip) (t : List Byte) :
    (c.acceptToken t).vault = if tkType t = 1 then c.vault
      else { c.vault with fuses := { c.vault.fuses with transition := some (tkType t - 1, tkOwner t) } } := by
  unfold Chip.acceptToken
  split
  · simp only [vault_sec, Chip.lockKeys_vault, Chip.startWipe_vault]
  · rw [← Chip.startWipe_vault c wcLifeCycle, ← Chip.lockKeys_vault (c.startWipe wcLifeCycle)]
    exact Eq.refl _
theorem Chip.acceptToken_plane (c : Chip) (t : List Byte) : (Chip.acceptToken c t).plane = c.plane := by
  unfold Chip.acceptToken
  repeat' (first | with_reducible rfl | simp only [↓plane_mk, ↓plane_ite, ite_self, eq_self, implies_true, ↓Chip.lockKeys_plane, ↓Chip.startWipe_plane] | split)
/-- A token check that ends leaves the vault, or starts a transition that the life-cycle state accepts. -/
theorem Chip.checkDone_vault (c : Chip) : c.checkDone.vault = c.vault ∨
    ∃ t : List Byte, typeOk c.vault.fuses.life (tkType t) = true ∧ tkType t ≠ 1 ∧ c.checkDone.vault =
      { c.vault with fuses := { c.vault.fuses with transition := some (tkType t - 1, tkOwner t) } } := by
  unfold Chip.checkDone
  split
  · exact .inl (Eq.refl _)
  · next k _ =>
    have ht : c.tokenResult k = 0 → typeOk c.vault.fuses.life (tkType k.token) = true := by
      intro h
      unfold Chip.tokenResult at h
      by_contra hn
      have hn' : (!typeOk c.sec.life (tkType k.token)) = true := by
        rw [Bool.not_eq_true'] ; exact Bool.eq_false_iff.2 hn
      simp only [hn', if_true] at h
      split at h <;> simp at h
    simp only [vault_ite, Chip.acceptToken_vault, vault_sec, Chip.setField_vault, Chip.setFlag_vault]
    split
    · next h0 =>
      split
      · exact .inl (Eq.refl _)
      · next h1 => exact .inr ⟨k.token, ht h0, h1, Eq.refl _⟩
    · exact .inl (Eq.refl _)
theorem Chip.checkDone_plane (c : Chip) : (Chip.checkDone c).plane = c.plane := by
  unfold Chip.checkDone
  repeat' (first | with_reducible rfl | simp only [↓plane_mk, ↓plane_ite, ite_self, eq_self, implies_true, ↓Chip.acceptToken_plane, ↓Chip.setField_plane, ↓Chip.setFlag_plane] | split)

end Sys2Proof.Machine
end

