-- ==== Sys2Proof/Laws/KeepClock.lean ====
section
/-! SUPPORT. What the operations of Machine/Clock.lean leave of the fuses and the flash, of the state outside the data
plane, and of the data plane. -/

set_option linter.all false

namespace Sys2Proof.Machine

theorem Chip.tick_vault (c : Chip) : (Chip.tick c).vault = c.vault := by
  unfold Chip.tick
  repeat' (first | with_reducible rfl | simp only [↓vault_mk, ↓vault_ite, ite_self, eq_self, implies_true] | split)
theorem Chip.tick_plane (c : Chip) : (Chip.tick c).plane = c.plane := by
  unfold Chip.tick
  repeat' (first | with_reducible rfl | simp only [↓plane_mk, ↓plane_ite, ite_self, eq_self, implies_true] | split)
theorem Chip.offsetWrite_vault (c : Chip) (v : W32) : (Chip.offsetWrite c v).vault = c.vault := by
  simp only [Chip.offsetWrite, ↓vault_mk, ↓vault_ite, ite_self, eq_self, implies_true, ↓Chip.setFlag_vault]
theorem Chip.offsetWrite_plane (c : Chip) (v : W32) : (Chip.offsetWrite c v).plane = c.plane := by
  simp only [Chip.offsetWrite, ↓plane_mk, ↓plane_ite, ite_self, eq_self, implies_true, ↓Chip.setFlag_plane]
theorem Chip.slewEnd_house (c : Chip) : (Chip.slewEnd c).house = c.house := by
  unfold Chip.slewEnd
  repeat' (first | with_reducible rfl | simp only [↓house_ite, ite_self, eq_self, implies_true, ↓Chip.setFlag_house] | split)
theorem Chip.slewEnd_vault (c : Chip) : (Chip.slewEnd c).vault = c.vault := vault_of_house (Chip.slewEnd_house c)
theorem Chip.slewEnd_plane (c : Chip) : (Chip.slewEnd c).plane = c.plane := by
  unfold Chip.slewEnd
  repeat' (first | with_reducible rfl | simp only [↓plane_ite, ite_self, eq_self, implies_true, ↓Chip.setFlag_plane] | split)
theorem Chip.gatesFollow_house (c : Chip) : (Chip.gatesFollow c).house = c.house := by
  unfold Chip.gatesFollow
  repeat' (first | with_reducible rfl | simp only [↓house_ite, ite_self, eq_self, implies_true, ↓Chip.gateUpdate_house] | with_reducible refine (keep_forAll Chip.house _ _ _ ?_).trans ?_ | intro _ _ | split)
theorem Chip.gatesFollow_vault (c : Chip) : (Chip.gatesFollow c).vault = c.vault := vault_of_house (Chip.gatesFollow_house c)
theorem Chip.monitorsFollow_house (c : Chip) : (Chip.monitorsFollow c).house = c.house := by
  unfold Chip.monitorsFollow
  repeat' (first | with_reducible rfl | simp only [↓house_mk, ↓house_ite, ite_self, eq_self, implies_true, ↓Chip.setSlot_house] | with_reducible refine (keep_forAll Chip.house _ _ _ ?_).trans ?_ | split | intro _ _ | intro _)
theorem Chip.monitorsFollow_vault (c : Chip) : (Chip.monitorsFollow c).vault = c.vault := vault_of_house (Chip.monitorsFollow_house c)
theorem Chip.stepGo_vault (c : Chip) : (Chip.stepGo c).vault = c.vault := by
  unfold Chip.stepGo
  repeat' (first | with_reducible rfl | simp only [↓vault_mk, ↓vault_sec, ↓vault_fw, ↓vault_secFw, ↓vault_ite, ite_self, eq_self, implies_true, ↓Chip.raise_vault, ↓Chip.gatesFollow_vault, ↓Chip.monitorsFollow_vault] | split | simp only [Chip.setFlag_sec, Chip.setField_sec, Chip.setReg_sec, Chip.bump_sec, Chip.setFlag_fw, Chip.setField_fw, Chip.setReg_fw, Chip.bump_fw])
theorem Chip.ppsIn_house (c : Chip) : (Chip.ppsIn c).house = c.house := by
  unfold Chip.ppsIn
  repeat' (first | with_reducible rfl | simp only [↓house_ite, ite_self, eq_self, implies_true, ↓Chip.setFlag_house, ↓Chip.setReg_house] | split)
theorem Chip.ppsIn_vault (c : Chip) : (Chip.ppsIn c).vault = c.vault := vault_of_house (Chip.ppsIn_house c)
theorem Chip.ppsIn_plane (c : Chip) : (Chip.ppsIn c).plane = c.plane := by
  unfold Chip.ppsIn
  repeat' (first | with_reducible rfl | simp only [↓plane_ite, ite_self, eq_self, implies_true, ↓Chip.setFlag_plane, ↓Chip.setReg_plane] | split)
theorem Chip.ppsOut_vault (c : Chip) : (Chip.ppsOut c).vault = c.vault := by
  unfold Chip.ppsOut
  repeat' (first | with_reducible rfl | simp only [↓vault_mk, ↓vault_ite, ite_self, eq_self, implies_true] | split)
theorem Chip.ppsOut_plane (c : Chip) : (Chip.ppsOut c).plane = c.plane := by
  unfold Chip.ppsOut
  repeat' (first | with_reducible rfl | simp only [↓plane_mk, ↓plane_ite, ite_self, eq_self, implies_true] | split)
theorem Chip.correct_vault (c : Chip) (offset : Int) : (Chip.correct c offset).vault = c.vault := by
  unfold Chip.correct
  repeat' (first | with_reducible rfl | simp only [↓vault_ite, ite_self, eq_self, implies_true, ↓Chip.offsetWrite_vault, ↓Chip.setReg_vault, ↓Chip.stepGo_vault, ↓Chip.takeFresh_vault] | with_reducible refine (pair_vault_takeFresh (by assumption)).trans ?_ | split)
theorem Chip.servo_vault (c : Chip) (offset : Int) (upstream : Bool) : (Chip.servo c offset upstream).vault = c.vault := by
  unfold Chip.servo
  repeat' (first | with_reducible rfl | simp only [↓vault_mk, ↓vault_ite, ite_self, eq_self, implies_true, ↓Chip.correct_vault, ↓Chip.setFlag_vault, ↓Chip.setReg_vault] | split)
theorem Chip.pageTaken_house (c : Chip) (before : Chip) (page : Nat) (seq : W32) : (Chip.pageTaken c before page seq).house = c.house := by
  unfold Chip.pageTaken
  repeat' (first | with_reducible rfl | simp only [↓house_ite, ite_self, eq_self, implies_true, ↓Chip.setFlag_house, ↓Chip.setReg_house] | split)
theorem Chip.pageTaken_vault (c : Chip) (before : Chip) (page : Nat) (seq : W32) : (Chip.pageTaken c before page seq).vault = c.vault := vault_of_house (Chip.pageTaken_house c before page seq)
theorem Chip.pageTaken_plane (c : Chip) (before : Chip) (page : Nat) (seq : W32) : (Chip.pageTaken c before page seq).plane = c.plane := by
  unfold Chip.pageTaken
  repeat' (first | with_reducible rfl | simp only [↓plane_ite, ite_self, eq_self, implies_true, ↓Chip.setFlag_plane, ↓Chip.setReg_plane] | split)
theorem Chip.snapLatch_vault (c : Chip) : (Chip.snapLatch c).vault = c.vault := by
  unfold Chip.snapLatch
  repeat' (first | with_reducible rfl | simp only [↓vault_mk, ↓vault_ite, ite_self, eq_self, implies_true, ↓Chip.pageTaken_vault, ↓Chip.raise_vault, ↓Chip.setFlag_vault, ↓Chip.setReg_vault] | with_reducible refine (keep_forAll Chip.vault _ _ _ ?_).trans ?_ | intro _ _ | split)
theorem Chip.snapLatch_plane (c : Chip) : (Chip.snapLatch c).plane = c.plane := by
  unfold Chip.snapLatch
  repeat' (first | with_reducible rfl | simp only [↓plane_mk, ↓plane_ite, ite_self, eq_self, implies_true, ↓Chip.pageTaken_plane, ↓Chip.raise_plane, ↓Chip.setFlag_plane, ↓Chip.setReg_plane] | with_reducible refine (keep_forAll Chip.plane _ _ _ ?_).trans ?_ | intro _ _ | split)

end Sys2Proof.Machine
end

