-- ==== Sys2Proof/Laws/KeepCrossbar.lean ====
section
/-! SUPPORT. What the operations of Machine/Crossbar.lean leave of the fuses and the flash, of the state outside the data
plane, and of the data plane. -/

set_option linter.all false

namespace Sys2Proof.Machine

theorem Chip.moveCell_house (c : Chip) (k : Nat) : (Chip.moveCell c k).house = c.house := by
  unfold Chip.moveCell
  repeat' (first | with_reducible rfl | simp only [↓house_mk, ↓house_ite, ite_self, eq_self, implies_true, ↓Chip.active_house, ↓Chip.setVoq_house, ↓Chip.pfcCheck_house] | with_reducible refine (keep_forAll Chip.house _ _ _ ?_).trans ?_ | split | intro _ _ | intro _)
theorem Chip.moveCell_vault (c : Chip) (k : Nat) : (Chip.moveCell c k).vault = c.vault := vault_of_house (Chip.moveCell_house c k)
theorem Chip.xStart_house (c : Chip) : (Chip.xStart c).house = c.house := by
  unfold Chip.xStart
  repeat' (first | with_reducible rfl | simp only [↓house_mk, ↓house_ite, ite_self, eq_self, implies_true] | split)
theorem Chip.xStart_vault (c : Chip) : (Chip.xStart c).vault = c.vault := vault_of_house (Chip.xStart_house c)
theorem Chip.cellTime_house (c : Chip) : (Chip.cellTime c).house = c.house := by
  unfold Chip.cellTime
  repeat' (first | with_reducible rfl | simp only [↓house_mk, ↓house_ite, ite_self, eq_self, implies_true, ↓Chip.bump_house, ↓Chip.moveCell_house] | with_reducible refine (keep_forAll Chip.house _ _ _ ?_).trans ?_ | with_reducible refine (keep_foldl Chip.house _ _ _ ?_).trans ?_ | with_reducible refine (keep_fold2 Chip.house _ _ _ ?_).trans ?_ | split | intro _ _ | intro _)
theorem Chip.cellTime_vault (c : Chip) : (Chip.cellTime c).vault = c.vault := vault_of_house (Chip.cellTime_house c)

end Sys2Proof.Machine
end

