-- ==== Sys2Proof/Laws/KeepStartup.lean ====
section
/-! SUPPORT. What the operations of Machine/Startup.lean leave of the fuses and the flash, of the state outside the data
plane, and of the data plane. -/

set_option linter.all false

namespace Sys2Proof.Machine

theorem Chip.setPhase_house (c : Chip) (ph : Nat) : (Chip.setPhase c ph).house = c.house := by
  simp only [Chip.setPhase, ↓house_ite, ite_self, eq_self, implies_true, ↓Chip.setField_house]
theorem Chip.setPhase_vault (c : Chip) (ph : Nat) : (Chip.setPhase c ph).vault = c.vault := vault_of_house (Chip.setPhase_house c ph)
theorem Chip.setPhase_plane (c : Chip) (ph : Nat) : (Chip.setPhase c ph).plane = c.plane := by
  simp only [Chip.setPhase, ↓plane_ite, ite_self, eq_self, implies_true, ↓Chip.setField_plane]
theorem Chip.keepStandby_house (c n : Chip) (src : ColdSource) : (Chip.keepStandby c n src).house = n.house := by
  unfold Chip.keepStandby
  repeat' (first | with_reducible rfl | simp only [↓house_ite, ite_self, eq_self, implies_true, ↓Chip.setField_house, ↓Chip.setFlag_house, ↓Chip.setReg_house] | split)
theorem Chip.keepStandby_vault (c n : Chip) (src : ColdSource) : (Chip.keepStandby c n src).vault = n.vault := vault_of_house (Chip.keepStandby_house c n src)
theorem Chip.keepStandby_plane (c n : Chip) (src : ColdSource) : (Chip.keepStandby c n src).plane = n.plane := by
  unfold Chip.keepStandby
  repeat' (first | with_reducible rfl | simp only [↓plane_ite, ite_self, eq_self, implies_true, ↓Chip.setField_plane, ↓Chip.setFlag_plane, ↓Chip.setReg_plane] | split)
/-- A transition that has not blown a fuse is gone after a cold start. -/
def Vault.idle (v : Vault) : Vault := { v with fuses := { v.fuses with transition := none } }
theorem Chip.coldRun_vault (c : Chip) (src : ColdSource) : (c.coldRun src).vault = c.vault.idle := by
  simp only [Chip.coldRun, Chip.tapWatch_vault, Chip.keepStandby_vault]
  exact Eq.refl _
theorem Chip.askCold_vault (c : Chip) (src : ColdSource) : (Chip.askCold c src).vault = c.vault := by
  simp only [Chip.askCold, ↓vault_mk, ↓vault_ite, ite_self, eq_self, implies_true]
theorem Chip.askCold_plane (c : Chip) (src : ColdSource) : (Chip.askCold c src).plane = c.plane := by
  simp only [Chip.askCold, ↓plane_mk, ↓plane_ite, ite_self, eq_self, implies_true]
theorem Chip.coldStart_vault (c : Chip) (src : ColdSource) :
    (c.coldStart src).vault = c.vault ∨ (c.coldStart src).vault = c.vault.idle := by
  unfold Chip.coldStart
  repeat' split
  · exact .inr (c.coldRun_vault _)
  · exact .inr (c.coldRun_vault _)
  · exact .inl (Eq.refl _)
theorem Chip.cooldownEnd_vault (c : Chip) :
    c.cooldownEnd.vault = c.vault ∨ c.cooldownEnd.vault = c.vault.idle := by
  simp only [Chip.cooldownEnd, vault_ite]
  split
  · split
    · exact .inr (by rw [Chip.coldRun_vault, vault_mk])
    · exact .inl (by rw [vault_mk])
  · exact .inl (Eq.refl _)
theorem Chip.powerDown_vault (c : Chip) : c.powerDown.vault = c.vault.idle := by
  simp only [Chip.powerDown, vault_mk, Chip.coldRun_vault]
theorem Chip.railsSettled_vault (c : Chip) (rs : List Nat) : (Chip.railsSettled c rs).vault = c.vault := by
  unfold Chip.railsSettled
  repeat' (first | with_reducible rfl | simp only [↓vault_mk, ↓vault_sec, ↓vault_fw, ↓vault_secFw, ↓vault_ite, ite_self, eq_self, implies_true, ↓Chip.railSettle_vault] | with_reducible refine (keep_forAll Chip.vault _ _ _ ?_).trans ?_ | split | intro _ _ | intro _ | simp only [Chip.setFlag_sec, Chip.setField_sec, Chip.setReg_sec, Chip.bump_sec, Chip.setFlag_fw, Chip.setField_fw, Chip.setReg_fw, Chip.bump_fw])
theorem Chip.railsSettled_plane (c : Chip) (rs : List Nat) : (Chip.railsSettled c rs).plane = c.plane := by
  unfold Chip.railsSettled
  repeat' (first | with_reducible rfl | simp only [↓plane_mk, ↓plane_ite, ite_self, eq_self, implies_true, ↓Chip.railSettle_plane] | with_reducible refine (keep_forAll Chip.plane _ _ _ ?_).trans ?_ | split | intro _ _ | intro _)
theorem Chip.railsStart_vault (c : Chip) (rs : List Nat) : (Chip.railsStart c rs).vault = c.vault := by
  unfold Chip.railsStart
  repeat' (first | with_reducible rfl | simp only [↓vault_mk, ↓vault_sec, ↓vault_fw, ↓vault_secFw, ↓vault_ite, ite_self, eq_self, implies_true, ↓Chip.setRail_vault] | with_reducible refine (keep_forAll Chip.vault _ _ _ ?_).trans ?_ | split | intro _ _ | intro _ | simp only [Chip.setFlag_sec, Chip.setField_sec, Chip.setReg_sec, Chip.bump_sec, Chip.setFlag_fw, Chip.setField_fw, Chip.setReg_fw, Chip.bump_fw])
theorem Chip.railsStart_plane (c : Chip) (rs : List Nat) : (Chip.railsStart c rs).plane = c.plane := by
  unfold Chip.railsStart
  repeat' (first | with_reducible rfl | simp only [↓plane_mk, ↓plane_ite, ite_self, eq_self, implies_true, ↓Chip.setRail_plane] | with_reducible refine (keep_forAll Chip.plane _ _ _ ?_).trans ?_ | split | intro _ _ | intro _)
theorem Chip.standbyEnd_vault (c : Chip) : (Chip.standbyEnd c).vault = c.vault := by
  unfold Chip.standbyEnd
  repeat' (first | with_reducible rfl | simp only [↓vault_mk, ↓vault_ite, ite_self, eq_self, implies_true, ↓Chip.calSelect_vault, ↓Chip.railsSettled_vault, ↓Chip.setFlag_vault, ↓Chip.setPhase_vault] | split)
theorem Chip.standbyEnd_plane (c : Chip) : (Chip.standbyEnd c).plane = c.plane := by
  unfold Chip.standbyEnd
  repeat' (first | with_reducible rfl | simp only [↓plane_mk, ↓plane_ite, ite_self, eq_self, implies_true, ↓Chip.calSelect_plane, ↓Chip.railsSettled_plane, ↓Chip.setFlag_plane, ↓Chip.setPhase_plane] | split)
theorem Chip.vin12Up_vault (c : Chip) : (Chip.vin12Up c).vault = c.vault := by
  unfold Chip.vin12Up
  repeat' (first | with_reducible rfl | simp only [↓vault_mk, ↓vault_ite, ite_self, eq_self, implies_true, ↓Chip.railsStart_vault, ↓Chip.setFlag_vault] | split)
theorem Chip.vin12Up_plane (c : Chip) : (Chip.vin12Up c).plane = c.plane := by
  unfold Chip.vin12Up
  repeat' (first | with_reducible rfl | simp only [↓plane_mk, ↓plane_ite, ite_self, eq_self, implies_true, ↓Chip.railsStart_plane, ↓Chip.setFlag_plane] | split)
theorem Chip.groupRamped_vault (c : Chip) : (Chip.groupRamped c).vault = c.vault := by
  unfold Chip.groupRamped
  repeat' (first | with_reducible rfl | simp only [↓vault_mk, ↓vault_ite, ite_self, eq_self, implies_true, ↓Chip.railsSettled_vault, ↓Chip.railsStart_vault] | split)
theorem Chip.groupRamped_plane (c : Chip) : (Chip.groupRamped c).plane = c.plane := by
  unfold Chip.groupRamped
  repeat' (first | with_reducible rfl | simp only [↓plane_mk, ↓plane_ite, ite_self, eq_self, implies_true, ↓Chip.railsSettled_plane, ↓Chip.railsStart_plane] | split)
theorem Chip.railsDone_house (c : Chip) : (Chip.railsDone c).house = c.house := by
  unfold Chip.railsDone
  repeat' (first | with_reducible rfl | simp only [↓house_ite, ite_self, eq_self, implies_true, ↓Chip.setPhase_house, ↓Chip.synthSettle_house] | with_reducible refine (keep_forAll Chip.house _ _ _ ?_).trans ?_ | intro _ _ | split)
theorem Chip.railsDone_vault (c : Chip) : (Chip.railsDone c).vault = c.vault := vault_of_house (Chip.railsDone_house c)
theorem Chip.trainingEnd_vault (c : Chip) : (Chip.trainingEnd c).vault = c.vault := by
  unfold Chip.trainingEnd
  repeat' (first | with_reducible rfl | simp only [↓vault_mk, ↓vault_ite, ite_self, eq_self, implies_true, ↓Chip.setPhase_vault] | split)
theorem Chip.trainingEnd_plane (c : Chip) : (Chip.trainingEnd c).plane = c.plane := by
  unfold Chip.trainingEnd
  repeat' (first | with_reducible rfl | simp only [↓plane_mk, ↓plane_ite, ite_self, eq_self, implies_true, ↓Chip.setPhase_plane] | split)
theorem Chip.trainTimeout_house (c : Chip) (die : Nat) : (Chip.trainTimeout c die).house = c.house := by
  unfold Chip.trainTimeout
  repeat' (first | with_reducible rfl | simp only [↓house_ite, ite_self, eq_self, implies_true, ↓Chip.dieFail_house, ↓Chip.setField_house, ↓Chip.setFlag_house, ↓Chip.setPhase_house] | split)
theorem Chip.trainTimeout_vault (c : Chip) (die : Nat) : (Chip.trainTimeout c die).vault = c.vault := vault_of_house (Chip.trainTimeout_house c die)
theorem Chip.finding_house (c : Chip) (f : BankFinding) : (Chip.finding c f).house = c.house := by
  unfold Chip.finding
  repeat' (first | with_reducible rfl | simp only [↓house_mk, ↓house_ite, ite_self, eq_self, implies_true, ↓Chip.setFlag_house, ↓Chip.fenceBank_house, ↓Chip.useSpares_house] | with_reducible refine (keep_forAll Chip.house _ _ _ ?_).trans ?_ | split | intro _ _ | intro _)
theorem Chip.finding_vault (c : Chip) (f : BankFinding) : (Chip.finding c f).vault = c.vault := vault_of_house (Chip.finding_house c f)
theorem Chip.marchPhaseEnd_house (c : Chip) (fs : List BankFinding) : (Chip.marchPhaseEnd c fs).house = c.house := by
  unfold Chip.marchPhaseEnd
  repeat' (first | with_reducible rfl | simp only [↓house_ite, ite_self, eq_self, implies_true, ↓Chip.finding_house, ↓Chip.setPhase_house] | with_reducible refine (keep_forAll Chip.house _ _ _ ?_).trans ?_ | intro _ _ | split)
theorem Chip.marchPhaseEnd_vault (c : Chip) (fs : List BankFinding) : (Chip.marchPhaseEnd c fs).vault = c.vault := vault_of_house (Chip.marchPhaseEnd_house c fs)
theorem Chip.testLanes_house (c : Chip) (d : Nat) (bad : List Nat) : (Chip.testLanes c d bad).house = c.house := by
  unfold Chip.testLanes
  repeat' (first | with_reducible rfl | simp only [↓house_mk, ↓house_ite, ite_self, eq_self, implies_true, ↓Chip.raise_house, ↓Chip.setFlag_house, ↓Chip.setLanes_house] | with_reducible refine (keep_foldl Chip.house _ _ _ ?_).trans ?_ | with_reducible refine (keep_fold2 Chip.house _ _ _ ?_).trans ?_ | intro _ _ | split)
theorem Chip.testLanes_vault (c : Chip) (d : Nat) (bad : List Nat) : (Chip.testLanes c d bad).vault = c.vault := vault_of_house (Chip.testLanes_house c d bad)
theorem Chip.warmStart_vault (c : Chip) (cause : Nat) : (Chip.warmStart c cause).vault = c.vault := by
  unfold Chip.warmStart
  repeat' (first | with_reducible rfl | simp only [↓vault_mk, ↓vault_ite, ite_self, eq_self, implies_true, ↓Chip.setField_vault, ↓Chip.setFlag_vault] | split)
theorem Chip.warmStart_plane (c : Chip) (cause : Nat) : (Chip.warmStart c cause).plane = c.plane := by
  unfold Chip.warmStart
  repeat' (first | with_reducible rfl | simp only [↓plane_mk, ↓plane_ite, ite_self, eq_self, implies_true, ↓Chip.setField_plane, ↓Chip.setFlag_plane] | split)
theorem Chip.laneTestEnd_vault (c : Chip) (fs : List ClusterFinding) : (Chip.laneTestEnd c fs).vault = c.vault := by
  unfold Chip.laneTestEnd
  repeat' (first | with_reducible rfl | simp only [↓vault_ite, ite_self, eq_self, implies_true, ↓Chip.setPhase_vault, ↓Chip.testLanes_vault, ↓Chip.warmStart_vault] | with_reducible refine (keep_forAll Chip.vault _ _ _ ?_).trans ?_ | intro _ _ | split)
theorem Chip.m0March_vault (c : Chip) (fs : List BankFinding) : (Chip.m0March c fs).vault = c.vault := by
  unfold Chip.m0March
  repeat' (first | with_reducible rfl | simp only [↓vault_mk, ↓vault_sec, ↓vault_fw, ↓vault_secFw, ↓vault_ite, ite_self, eq_self, implies_true, ↓Chip.finding_vault] | with_reducible refine (keep_forAll Chip.vault _ _ _ ?_).trans ?_ | split | intro _ _ | intro _ | simp only [Chip.setFlag_sec, Chip.setField_sec, Chip.setReg_sec, Chip.bump_sec, Chip.setFlag_fw, Chip.setField_fw, Chip.setReg_fw, Chip.bump_fw])
theorem Chip.showSynths_house (c : Chip) : (Chip.showSynths c).house = c.house := by
  unfold Chip.showSynths
  repeat' (first | with_reducible rfl | simp only [↓house_ite, ite_self, eq_self, implies_true, ↓Chip.setLaneFlag_house] | with_reducible refine (keep_forAll Chip.house _ _ _ ?_).trans ?_ | intro _ _)
theorem Chip.showSynths_vault (c : Chip) : (Chip.showSynths c).vault = c.vault := vault_of_house (Chip.showSynths_house c)
theorem Chip.showSynths_plane (c : Chip) : (Chip.showSynths c).plane = c.plane := by
  unfold Chip.showSynths
  repeat' (first | with_reducible rfl | simp only [↓plane_ite, ite_self, eq_self, implies_true, ↓Chip.setLaneFlag_plane] | with_reducible refine (keep_forAll Chip.plane _ _ _ ?_).trans ?_ | intro _ _)
theorem Chip.clearMain_vault (c : Chip) : (Chip.clearMain c).vault = c.vault := by
  unfold Chip.clearMain
  repeat' (first | with_reducible rfl | simp only [↓vault_mk, ↓vault_sec, ↓vault_fw, ↓vault_secFw, ↓vault_ite, ite_self, eq_self, implies_true] | simp only [Chip.setFlag_sec, Chip.setField_sec, Chip.setReg_sec, Chip.bump_sec, Chip.setFlag_fw, Chip.setField_fw, Chip.setReg_fw, Chip.bump_fw])
theorem Chip.warmClear_vault (c : Chip) : (Chip.warmClear c).vault = c.vault := by
  unfold Chip.warmClear
  repeat' (first | with_reducible rfl | simp only [↓vault_mk, ↓vault_ite, ite_self, eq_self, implies_true, ↓Chip.clearMain_vault, ↓Chip.clearProfile_vault, ↓Chip.disablePort_vault, ↓Chip.setPhase_vault, ↓Chip.showSynths_vault] | with_reducible refine (keep_forAll Chip.vault _ _ _ ?_).trans ?_ | intro _ _ | split)
theorem Chip.warmEnd_vault (c : Chip) : (Chip.warmEnd c).vault = c.vault := by
  unfold Chip.warmEnd
  repeat' (first | with_reducible rfl | simp only [↓vault_mk, ↓vault_ite, ite_self, eq_self, implies_true, ↓Chip.setPhase_vault] | split)
theorem Chip.warmEnd_plane (c : Chip) : (Chip.warmEnd c).plane = c.plane := by
  unfold Chip.warmEnd
  repeat' (first | with_reducible rfl | simp only [↓plane_mk, ↓plane_ite, ite_self, eq_self, implies_true, ↓Chip.setPhase_plane] | split)
theorem Chip.rstCtrl_vault (c : Chip) (v : W32) : (Chip.rstCtrl c v).vault = c.vault := by
  unfold Chip.rstCtrl
  repeat' (first | with_reducible rfl | simp only [↓vault_ite, ite_self, eq_self, implies_true, ↓Chip.askCold_vault, ↓Chip.mgmtReset_vault, ↓Chip.setFlag_vault, ↓Chip.warmStart_vault] | split)
theorem Chip.rstCtrl_plane (c : Chip) (v : W32) : (Chip.rstCtrl c v).plane = c.plane := by
  unfold Chip.rstCtrl
  repeat' (first | with_reducible rfl | simp only [↓plane_ite, ite_self, eq_self, implies_true, ↓Chip.askCold_plane, ↓Chip.mgmtReset_plane, ↓Chip.setFlag_plane, ↓Chip.warmStart_plane] | split)
theorem Chip.pwronPin_vault (c : Chip) (level : Bool) : (Chip.pwronPin c level).vault = c.vault := by
  unfold Chip.pwronPin
  repeat' (first | with_reducible rfl | simp only [↓vault_mk, ↓vault_sec, ↓vault_fw, ↓vault_secFw, ↓vault_ite, ite_self, eq_self, implies_true, ↓Chip.removeRail_vault, ↓Chip.closeDebug_vault, ↓Chip.askCold_vault] | with_reducible refine (keep_forAll Chip.vault _ _ _ ?_).trans ?_ | split | intro _ _ | intro _ | simp only [Chip.setFlag_sec, Chip.setField_sec, Chip.setReg_sec, Chip.bump_sec, Chip.setFlag_fw, Chip.setField_fw, Chip.setReg_fw, Chip.bump_fw])
theorem Chip.pwronPin_plane (c : Chip) (level : Bool) : (Chip.pwronPin c level).plane = c.plane := by
  unfold Chip.pwronPin
  repeat' (first | with_reducible rfl | simp only [↓plane_mk, ↓plane_ite, ite_self, eq_self, implies_true, ↓Chip.removeRail_plane, ↓Chip.closeDebug_plane, ↓Chip.askCold_plane] | with_reducible refine (keep_forAll Chip.plane _ _ _ ?_).trans ?_ | split | intro _ _ | intro _)
theorem Chip.warmPin_vault (c : Chip) (level : Bool) : (Chip.warmPin c level).vault = c.vault := by
  unfold Chip.warmPin
  repeat' (first | with_reducible rfl | simp only [↓vault_mk, ↓vault_ite, ite_self, eq_self, implies_true, ↓Chip.warmStart_vault] | split)
theorem Chip.warmPin_plane (c : Chip) (level : Bool) : (Chip.warmPin c level).plane = c.plane := by
  unfold Chip.warmPin
  repeat' (first | with_reducible rfl | simp only [↓plane_mk, ↓plane_ite, ite_self, eq_self, implies_true, ↓Chip.warmStart_plane] | split)
theorem Chip.hostReset_house (c : Chip) : (Chip.hostReset c).house = c.house := by
  simp only [Chip.hostReset, ↓house_mk, ↓house_ite, ite_self, eq_self, implies_true]
theorem Chip.hostReset_vault (c : Chip) : (Chip.hostReset c).vault = c.vault := vault_of_house (Chip.hostReset_house c)
theorem Chip.hostReset_plane (c : Chip) : (Chip.hostReset c).plane = c.plane := by
  simp only [Chip.hostReset, ↓plane_mk, ↓plane_ite, ite_self, eq_self, implies_true]

end Sys2Proof.Machine
end

