-- ==== Sys2Proof/Laws/KeepSmbus.lean ====
section
/-! SUPPORT. What the operations of Machine/Smbus.lean leave of the fuses and the flash, of the state outside the data
plane, and of the data plane. -/

set_option linter.all false

namespace Sys2Proof.Machine

theorem Chip.smbOut_house (c : Chip) (acked : Bool) (bs : List Byte) : (Chip.smbOut c acked bs).house = c.house := by
  simp only [Chip.smbOut, ↓house_mk, ↓house_ite, ite_self, eq_self, implies_true]
theorem Chip.smbOut_vault (c : Chip) (acked : Bool) (bs : List Byte) : (Chip.smbOut c acked bs).vault = c.vault := vault_of_house (Chip.smbOut_house c acked bs)
theorem Chip.smbOut_plane (c : Chip) (acked : Bool) (bs : List Byte) : (Chip.smbOut c acked bs).plane = c.plane := by
  simp only [Chip.smbOut, ↓plane_mk, ↓plane_ite, ite_self, eq_self, implies_true]
theorem Chip.smbWord_house (c : Chip) (v : Nat) : (Chip.smbWord c v).house = c.house := by
  simp only [Chip.smbWord, ↓house_ite, ite_self, eq_self, implies_true, ↓Chip.smbOut_house]
theorem Chip.smbWord_vault (c : Chip) (v : Nat) : (Chip.smbWord c v).vault = c.vault := vault_of_house (Chip.smbWord_house c v)
theorem Chip.smbWord_plane (c : Chip) (v : Nat) : (Chip.smbWord c v).plane = c.plane := by
  simp only [Chip.smbWord, ↓plane_ite, ite_self, eq_self, implies_true, ↓Chip.smbOut_plane]
theorem Chip.smbServe_house (c : Chip) (f : Chip → Chip) (hf : ∀ c, (f c).house = c.house) : (Chip.smbServe c f).house = c.house := by
  unfold Chip.smbServe
  repeat' (first | with_reducible rfl | simp only [↓house_ite, ite_self, eq_self, implies_true, ↓Chip.smbOut_house, ↓hf] | split)
theorem Chip.smbServe_vault (c : Chip) (f : Chip → Chip) (hf : ∀ c, (f c).vault = c.vault) : (Chip.smbServe c f).vault = c.vault := by
  unfold Chip.smbServe
  repeat' (first | with_reducible rfl | simp only [↓vault_ite, ite_self, eq_self, implies_true, ↓Chip.smbOut_vault, ↓hf] | split)
theorem Chip.smbServe_plane (c : Chip) (f : Chip → Chip) (hf : ∀ c, (f c).plane = c.plane) : (Chip.smbServe c f).plane = c.plane := by
  unfold Chip.smbServe
  repeat' (first | with_reducible rfl | simp only [↓plane_ite, ite_self, eq_self, implies_true, ↓Chip.smbOut_plane, ↓hf] | split)

end Sys2Proof.Machine
end

