-- ==== Sys2Proof/Laws/KeepRegWrite.lean ====
section
/-! SUPPORT. What the operations of Machine/RegWrite.lean leave of the fuses and the flash, of the state outside the data
plane, and of the data plane. -/

set_option linter.all false

namespace Sys2Proof.Machine

theorem Chip.msixWrite_house (c : Chip) (w : Nat) (v : W32) : (Chip.msixWrite c w v).house = c.house := by
  unfold Chip.msixWrite
  repeat' (first | with_reducible rfl | simp only [↓house_mk, ↓house_ite, ite_self, eq_self, implies_true, ↓Chip.msix_house] | split)
theorem Chip.msixWrite_vault (c : Chip) (w : Nat) (v : W32) : (Chip.msixWrite c w v).vault = c.vault := vault_of_house (Chip.msixWrite_house c w v)
theorem Chip.msixWrite_plane (c : Chip) (w : Nat) (v : W32) : (Chip.msixWrite c w v).plane = c.plane := by
  unfold Chip.msixWrite
  repeat' (first | with_reducible rfl | simp only [↓plane_mk, ↓plane_ite, ite_self, eq_self, implies_true, ↓Chip.msix_plane] | split)
theorem Chip.accErr_house (c : Chip) (page : Nat) : (Chip.accErr c page).house = c.house := by
  simp only [Chip.accErr, ↓house_ite, ite_self, eq_self, implies_true, ↓Chip.bump_house, ↓Chip.setFlag_house]
theorem Chip.accErr_vault (c : Chip) (page : Nat) : (Chip.accErr c page).vault = c.vault := vault_of_house (Chip.accErr_house c page)
theorem Chip.accErr_plane (c : Chip) (page : Nat) : (Chip.accErr c page).plane = c.plane := by
  simp only [Chip.accErr, ↓plane_ite, ite_self, eq_self, implies_true, ↓Chip.bump_plane, ↓Chip.setFlag_plane]
theorem Chip.lpiCtlWrite_house (c : Chip) (pp : Nat) (v : W32) : (Chip.lpiCtlWrite c pp v).house = c.house := by
  unfold Chip.lpiCtlWrite
  repeat' (first | with_reducible rfl | simp only [↓house_ite, ite_self, eq_self, implies_true, ↓Chip.lpiWake_house, ↓Chip.setReg_house] | with_reducible refine (keep_forAll Chip.house _ _ _ ?_).trans ?_ | intro _ _ | split)
theorem Chip.lpiCtlWrite_vault (c : Chip) (pp : Nat) (v : W32) : (Chip.lpiCtlWrite c pp v).vault = c.vault := vault_of_house (Chip.lpiCtlWrite_house c pp v)
theorem Chip.gclWrite_house (c : Chip) (d off inst : Nat) (r : RegRow) (v : W32) : (Chip.gclWrite c d off inst r v).house = c.house := by
  unfold Chip.gclWrite
  repeat' (first | with_reducible rfl | simp only [↓house_ite, ite_self, eq_self, implies_true, ↓Chip.bump_house, ↓Chip.setReg_house] | split)
theorem Chip.gclWrite_vault (c : Chip) (d off inst : Nat) (r : RegRow) (v : W32) : (Chip.gclWrite c d off inst r v).vault = c.vault := vault_of_house (Chip.gclWrite_house c d off inst r v)
theorem Chip.gclWrite_plane (c : Chip) (d off inst : Nat) (r : RegRow) (v : W32) : (Chip.gclWrite c d off inst r v).plane = c.plane := by
  unfold Chip.gclWrite
  repeat' (first | with_reducible rfl | simp only [↓plane_ite, ite_self, eq_self, implies_true, ↓Chip.bump_plane, ↓Chip.setReg_plane] | split)
theorem Chip.portPageWrite_house {c : Chip} {b : Blk} {d off inst : Nat} {r : RegRow} {v : W32} {n : Chip} (h : Chip.portPageWrite c b d off inst r v = some n) : n.house = c.house := by
  unfold Chip.portPageWrite at h
  repeat' split at h
  all_goals first
    | (simp only [reduceCtorEq] at h; done)
    | (simp only [Option.some.injEq] at h
       subst h
       repeat' (first | with_reducible rfl | simp only [↓house_mk, ↓house_ite, ite_self, eq_self, implies_true, ↓Chip.cfgWrite_house, ↓Chip.flowDelete_house, ↓Chip.flowRead_house, ↓Chip.flowWrite_house, ↓Chip.gateSwitch_house, ↓Chip.gateUpdate_house, ↓Chip.gclWrite_house, ↓Chip.laneCtrlWrite_house, ↓Chip.lnkCtrlWrite_house, ↓Chip.lpiCtlWrite_house, ↓Chip.patWrite_house, ↓Chip.rxEqWrite_house, ↓Chip.setReg_house, ↓Chip.shaperApply_house, ↓Chip.txEqWrite_house, ↓Chip.vlWrite_house, ↓Chip.wmClear_house] | split))
theorem Chip.portPageWrite_vault {c : Chip} {b : Blk} {d off inst : Nat} {r : RegRow} {v : W32} {n : Chip} (h : Chip.portPageWrite c b d off inst r v = some n) : n.vault = c.vault :=
  vault_of_house (Chip.portPageWrite_house h)
theorem Chip.rtePageWrite_house {c : Chip} {off : Nat} {v : W32} {n : Chip} (h : Chip.rtePageWrite c off v = some n) : n.house = c.house := by
  unfold Chip.rtePageWrite at h
  repeat' split at h
  all_goals first
    | (simp only [reduceCtorEq] at h; done)
    | (simp only [Option.some.injEq] at h
       subst h
       repeat' (first | with_reducible rfl | simp only [↓house_mk, ↓house_ite, ite_self, eq_self, implies_true, ↓Chip.addrDelete_house, ↓Chip.addrRead_house, ↓Chip.addrWrite_house, ↓Chip.gridWrite_house, ↓Chip.grpRead_house, ↓Chip.grpWrite_house, ↓Chip.routeSwap_house, ↓Chip.rtRead_house, ↓Chip.rtWrite_house, ↓Chip.swapCancel_house, ↓Chip.tearRelease_house, ↓Chip.tearStart_house] | split))
theorem Chip.rtePageWrite_vault {c : Chip} {off : Nat} {v : W32} {n : Chip} (h : Chip.rtePageWrite c off v = some n) : n.vault = c.vault :=
  vault_of_house (Chip.rtePageWrite_house h)
theorem Chip.ttbPageWrite_house {c : Chip} {off inst : Nat} {v : W32} {n : Chip} (h : Chip.ttbPageWrite c off inst v = some n) : n.house = c.house := by
  unfold Chip.ttbPageWrite at h
  repeat' split at h
  all_goals first
    | (simp only [reduceCtorEq] at h; done)
    | (simp only [Option.some.injEq] at h
       subst h
       repeat' (first | with_reducible rfl | simp only [↓house_mk, ↓house_ite, ite_self, eq_self, implies_true, ↓Chip.csetRead_house, ↓Chip.csetWrite_house, ↓Chip.entInvalidate_house, ↓Chip.entRead_house, ↓Chip.entWrite_house, ↓Chip.recWrite_house, ↓Chip.swapRequest_house, ↓Chip.ttCtrlWrite_house] | split))
theorem Chip.ttbPageWrite_vault {c : Chip} {off inst : Nat} {v : W32} {n : Chip} (h : Chip.ttbPageWrite c off inst v = some n) : n.vault = c.vault :=
  vault_of_house (Chip.ttbPageWrite_house h)
theorem Chip.polPageWrite_house {c : Chip} {die off : Nat} {v : W32} {n : Chip} (h : Chip.polPageWrite c die off v = some n) : n.house = c.house := by
  unfold Chip.polPageWrite at h
  repeat' split at h
  all_goals first
    | (simp only [reduceCtorEq] at h; done)
    | (simp only [Option.some.injEq] at h
       subst h
       repeat' (first | with_reducible rfl | simp only [↓house_ite, ite_self, eq_self, implies_true, ↓Chip.quarWrite_house, ↓Chip.quotaWrite_house, ↓Chip.thrWrite_house] | split))
theorem Chip.polPageWrite_vault {c : Chip} {die off : Nat} {v : W32} {n : Chip} (h : Chip.polPageWrite c die off v = some n) : n.vault = c.vault :=
  vault_of_house (Chip.polPageWrite_house h)
theorem Chip.memPageWrite_house {c : Chip} {die off : Nat} {v : W32} {n : Chip} (h : Chip.memPageWrite c die off v = some n) : n.house = c.house := by
  unfold Chip.memPageWrite at h
  repeat' split at h
  all_goals first
    | (simp only [reduceCtorEq] at h; done)
    | (simp only [Option.some.injEq] at h
       subst h
       repeat' (first | with_reducible rfl | simp only [↓house_ite, ite_self, eq_self, implies_true, ↓Chip.marchWrite_house, ↓Chip.setReg_house] | split))
theorem Chip.memPageWrite_vault {c : Chip} {die off : Nat} {v : W32} {n : Chip} (h : Chip.memPageWrite c die off v = some n) : n.vault = c.vault :=
  vault_of_house (Chip.memPageWrite_house h)
theorem Chip.livPageWrite_vault {c : Chip} {off : Nat} {v : W32} {n : Chip} (h : Chip.livPageWrite c off v = some n) : n.vault = c.vault := by
  unfold Chip.livPageWrite at h
  repeat' split at h
  all_goals first
    | (simp only [reduceCtorEq] at h; done)
    | (simp only [Option.some.injEq] at h
       subst h
       repeat' (first | with_reducible rfl | simp only [↓vault_mk, ↓vault_sec, ↓vault_fw, ↓vault_secFw, ↓vault_ite, ite_self, eq_self, implies_true, ↓Chip.livWrite_vault, ↓Chip.seedSet_vault] | split | simp only [Chip.setFlag_sec, Chip.setField_sec, Chip.setReg_sec, Chip.bump_sec, Chip.setFlag_fw, Chip.setField_fw, Chip.setReg_fw, Chip.bump_fw]))
theorem Chip.livPageWrite_plane {c : Chip} {off : Nat} {v : W32} {n : Chip} (h : Chip.livPageWrite c off v = some n) : n.plane = c.plane := by
  unfold Chip.livPageWrite at h
  repeat' split at h
  all_goals first
    | (simp only [reduceCtorEq] at h; done)
    | (simp only [Option.some.injEq] at h
       subst h
       repeat' (first | with_reducible rfl | simp only [↓plane_mk, ↓plane_ite, ite_self, eq_self, implies_true, ↓Chip.livWrite_plane, ↓Chip.seedSet_plane] | split))
theorem Chip.timPageWrite_vault {c : Chip} {off : Nat} {v : W32} {n : Chip} (h : Chip.timPageWrite c off v = some n) : n.vault = c.vault := by
  unfold Chip.timPageWrite at h
  repeat' split at h
  all_goals first
    | (simp only [reduceCtorEq] at h; done)
    | (simp only [Option.some.injEq] at h
       subst h
       repeat' (first | with_reducible rfl | simp only [↓vault_ite, ite_self, eq_self, implies_true, ↓Chip.offsetWrite_vault, ↓Chip.setReg_vault, ↓Chip.stepGo_vault] | split))
theorem Chip.secPageWrite_vault {c : Chip} {off : Nat} {v : W32} {n : Chip} (h : Chip.secPageWrite c off v = some n) : n.vault = c.vault := by
  unfold Chip.secPageWrite at h
  repeat' split at h
  all_goals first
    | (simp only [reduceCtorEq] at h; done)
    | (simp only [Option.some.injEq] at h
       subst h
       repeat' (first | with_reducible rfl | simp only [↓vault_mk, ↓vault_ite, ite_self, eq_self, implies_true, ↓Chip.newChallenge_vault, ↓Chip.closeDebug_vault, ↓Chip.setReg_vault, ↓Chip.startWipe_vault, ↓Chip.submit_vault, ↓Chip.tamperClear_vault] | split))
theorem Chip.secPageWrite_plane {c : Chip} {off : Nat} {v : W32} {n : Chip} (h : Chip.secPageWrite c off v = some n) : n.plane = c.plane := by
  unfold Chip.secPageWrite at h
  repeat' split at h
  all_goals first
    | (simp only [reduceCtorEq] at h; done)
    | (simp only [Option.some.injEq] at h
       subst h
       repeat' (first | with_reducible rfl | simp only [↓plane_mk, ↓plane_ite, ite_self, eq_self, implies_true, ↓Chip.newChallenge_plane, ↓Chip.closeDebug_plane, ↓Chip.setReg_plane, ↓Chip.startWipe_plane, ↓Chip.submit_plane, ↓Chip.tamperClear_plane] | split))
theorem Chip.pwrPageWrite_plane {c : Chip} {off : Nat} {v : W32} {n : Chip} (h : Chip.pwrPageWrite c off v = some n) : n.plane = c.plane := by
  unfold Chip.pwrPageWrite at h
  repeat' split at h
  all_goals first
    | (simp only [reduceCtorEq] at h; done)
    | (simp only [Option.some.injEq] at h
       subst h
       repeat' (first | with_reducible rfl | simp only [↓plane_ite, ite_self, eq_self, implies_true, ↓Chip.calStart_plane, ↓Chip.budgetCtrl_plane, ↓Chip.rstCtrl_plane, ↓Chip.setReg_plane, ↓Chip.vsetWrite_plane] | split))
theorem Chip.pwrPageWrite_keeps {c : Chip} {off : Nat} {v : W32} {n : Chip} (h : c.pwrPageWrite off v = some n) :
    n.vault.fuses = c.vault.fuses ∧ (c.vault.canon → n.vault.canon) := by
  have key : ∀ d : Chip, d.vault = c.vault → d.vault.fuses = c.vault.fuses ∧ (c.vault.canon → d.vault.canon) :=
    fun d hd => by rw [hd]; exact ⟨rfl, id⟩
  unfold Chip.pwrPageWrite at h
  repeat' split at h
  all_goals first
    | (simp only [reduceCtorEq] at h; done)
    | (simp only [Option.some.injEq] at h; subst h)
  · exact key _ (by simp only [Chip.budgetCtrl_vault])
  · exact key _ (by simp only [Chip.vsetWrite_vault])
  · exact ⟨c.calStart_fuses, c.calStart_canon⟩
  · exact key _ rfl
  · exact key _ (by simp only [Chip.rstCtrl_vault])
theorem Chip.laneCmd_house (c : Chip) (v : W32) : (Chip.laneCmd c v).house = c.house := by
  unfold Chip.laneCmd
  repeat' (first | with_reducible rfl | simp only [↓house_mk, ↓house_ite, ite_self, eq_self, implies_true, ↓Chip.laneFence_house, ↓Chip.startRepair_house] | split)
theorem Chip.laneCmd_vault (c : Chip) (v : W32) : (Chip.laneCmd c v).vault = c.vault := vault_of_house (Chip.laneCmd_house c v)
theorem Chip.snpCtrl_house (c : Chip) (v : W32) : (Chip.snpCtrl c v).house = c.house := by
  unfold Chip.snpCtrl
  repeat' (first | with_reducible rfl | simp only [↓house_ite, ite_self, eq_self, implies_true, ↓Chip.setReg_house, ↓Chip.snapTrigger_house] | split)
theorem Chip.snpCtrl_vault (c : Chip) (v : W32) : (Chip.snpCtrl c v).vault = c.vault := vault_of_house (Chip.snpCtrl_house c v)
theorem Chip.snpCtrl_plane (c : Chip) (v : W32) : (Chip.snpCtrl c v).plane = c.plane := by
  unfold Chip.snpCtrl
  repeat' (first | with_reducible rfl | simp only [↓plane_ite, ite_self, eq_self, implies_true, ↓Chip.setReg_plane, ↓Chip.snapTrigger_plane] | split)
theorem Chip.actingWrite_keeps {c : Chip} {b : Blk} {page die off inst : Nat} {r : RegRow} {v : W32} {n : Chip}
    (h : c.actingWrite b page die off inst r v = some n) :
    n.vault.fuses = c.vault.fuses ∧ (c.vault.canon → n.vault.canon) := by
  have key : ∀ d : Chip, d.vault = c.vault → d.vault.fuses = c.vault.fuses ∧ (c.vault.canon → d.vault.canon) :=
    fun d hd => by rw [hd]; exact ⟨rfl, id⟩
  unfold Chip.actingWrite at h
  split at h
  all_goals first
    | with_reducible exact key _ (Chip.portPageWrite_vault h)
    | with_reducible exact key _ (Chip.rtePageWrite_vault h)
    | with_reducible exact key _ (Chip.ttbPageWrite_vault h)
    | with_reducible exact key _ (Chip.polPageWrite_vault h)
    | with_reducible exact key _ (Chip.memPageWrite_vault h)
    | with_reducible exact key _ (Chip.livPageWrite_vault h)
    | with_reducible exact key _ (Chip.timPageWrite_vault h)
    | with_reducible exact key _ (Chip.secPageWrite_vault h)
    | with_reducible exact Chip.pwrPageWrite_keeps h
    | skip
  all_goals repeat' split at h
  all_goals first
    | (simp only [reduceCtorEq] at h; done)
    | (simp only [Option.some.injEq] at h; subst h
       first
       | with_reducible exact key _ (Chip.slotSelect_vault _ _ _)
       | with_reducible exact key _ (Chip.laneCmd_vault _ _)
       | with_reducible exact key _ (Chip.snpCtrl_vault _ _)
       | with_reducible exact key _ (Chip.doorbell_vault _ _ _)
       | with_reducible exact key _ (Chip.rspCiWrite_vault _ _ _))
theorem Chip.rowWrite_keeps (c : Chip) (b : Blk) (page die off : Nat) (r : RegRow) (v : W32) :
    (c.rowWrite b page die off r v).vault.fuses = c.vault.fuses ∧
      (c.vault.canon → (c.rowWrite b page die off r v).vault.canon) := by
  unfold Chip.rowWrite
  split
  · exact ⟨rfl, id⟩
  · split
    · next h =>
      split at h
      · (simp only [reduceCtorEq] at h; done)
      · exact Chip.actingWrite_keeps h
    · rw [Chip.setReg_vault]; exact ⟨rfl, id⟩
/-- A register write blows no fuse, and keeps the flash canonical. -/
theorem Chip.regWrite_keeps (c : Chip) (a : Nat) (be : BitVec 4) (v : W32) :
    (c.regWrite a be v).vault.fuses = c.vault.fuses ∧ (c.vault.canon → (c.regWrite a be v).vault.canon) := by
  have key : ∀ d : Chip, d.vault = c.vault → d.vault.fuses = c.vault.fuses ∧ (c.vault.canon → d.vault.canon) :=
    fun d hd => by rw [hd]; exact ⟨rfl, id⟩
  unfold Chip.regWrite
  extract_lets page off
  split
  · split
    · exact key _ (Chip.msixWrite_vault _ _ _)
    · exact key _ rfl
  · split
    · exact key _ rfl
    · split
      · exact key _ rfl
      split
      · exact key _ (Chip.accErr_vault _ _)
      split
      · exact key _ rfl
      split
      · exact key _ (Chip.accErr_vault _ _)
      · split
        · exact key _ (Chip.accErr_vault _ _)
        · exact Chip.rowWrite_keeps _ _ _ _ _ _ _
theorem Chip.badRead_house (c : Chip) (a : Nat) (be : BitVec 4) : (Chip.badRead c a be).house = c.house := by
  unfold Chip.badRead
  repeat' (first | with_reducible rfl | simp only [↓house_ite, ite_self, eq_self, implies_true, ↓Chip.accErr_house, ↓Chip.answer_house] | split)
theorem Chip.badRead_vault (c : Chip) (a : Nat) (be : BitVec 4) : (Chip.badRead c a be).vault = c.vault := vault_of_house (Chip.badRead_house c a be)
theorem Chip.badRead_plane (c : Chip) (a : Nat) (be : BitVec 4) : (Chip.badRead c a be).plane = c.plane := by
  unfold Chip.badRead
  repeat' (first | with_reducible rfl | simp only [↓plane_mk, ↓plane_ite, ite_self, eq_self, implies_true, ↓Chip.answer_plane, ↓Chip.accErr_plane] | split)

end Sys2Proof.Machine
end

