-- ==== Sys2Proof/Laws/KeepStep.lean ====
section
/-! SUPPORT. What the passing of time on an empty queue leaves of the fuses and the flash, and of the data plane. -/

namespace Sys2Proof.Machine

theorem State.tick_vault (s : State) : s.tick.chip.vault = s.chip.vault := by
  unfold State.tick
  split
  · rw [Chip.settleAlerts_vault, Chip.fuseEnd_vault, Chip.tick_vault]
  · exact Chip.tick_vault _

theorem State.tick_plane (s : State) : s.tick.chip.plane = s.chip.plane := by
  unfold State.tick
  split
  · rw [Chip.settleAlerts_plane, Chip.fuseEnd_plane, Chip.tick_plane]
  · exact Chip.tick_plane _

end Sys2Proof.Machine
end

