-- ==== Sys2Proof/Laws/KeepExec.lean ====
section
/-! SUPPORT. What every command leaves of the fuses and the flash, of the state outside the data plane, and of the data
plane: one lemma for each meaning that touches none of it. -/

set_option linter.all false

namespace Sys2Proof.Machine

theorem run_eq {s t : State} {f : Chip → Chip} (h : s.run f = .next t) :
    t = { s with chip := Chip.settleAlerts s.chip (f s.chip) } := by
  unfold State.run at h; cases h; rfl
theorem run_vault {s t : State} {f : Chip → Chip} (h : s.run f = .next t) : t.chip.vault = (f s.chip).vault := by
  rw [run_eq h]; exact Chip.settleAlerts_vault _ _
theorem run_house {s t : State} {f : Chip → Chip} (h : s.run f = .next t) : t.chip.house = (f s.chip).house := by
  rw [run_eq h]; exact Chip.settleAlerts_house _ _
theorem run_plane {s t : State} {f : Chip → Chip} (h : s.run f = .next t) : t.chip.plane = (f s.chip).plane := by
  rw [run_eq h]; exact Chip.settleAlerts_plane _ _
theorem execTtbEntRead_house {s : State} {t : State} (h : execTtbEntRead s = .next t) : t.chip.house = s.chip.house := by
  rw [execTtbEntRead] at h; rw [run_house h]
  generalize s.chip = c
  repeat' (first | with_reducible rfl | simp only [↓house_mk, ↓house_ite, ite_self, eq_self, implies_true, ↓Chip.entRead_house] | split)
theorem execTtbEntRead_vault  {s t : State} (h : execTtbEntRead s = .next t) : t.chip.vault = s.chip.vault := by
  rw [execTtbEntRead] at h; rw [run_vault h]
  generalize s.chip = c
  repeat' (first | with_reducible rfl | simp only [↓vault_mk, ↓vault_sec, ↓vault_fw, ↓vault_secFw, ↓vault_ite, ite_self, eq_self, implies_true, ↓Chip.entRead_vault] | split | simp only [Chip.setFlag_sec, Chip.setField_sec, Chip.setReg_sec, Chip.bump_sec, Chip.setFlag_fw, Chip.setField_fw, Chip.setReg_fw, Chip.bump_fw])
theorem execTtbEntRead_plane {s : State} {t : State} (h : execTtbEntRead s = .next t) : t.chip.plane = s.chip.plane := by
  rw [execTtbEntRead] at h; rw [run_plane h]
  generalize s.chip = c
  repeat' (first | with_reducible rfl | simp only [↓plane_mk, ↓plane_ite, ite_self, eq_self, implies_true, ↓Chip.entRead_plane] | split)
theorem execTtbEntWrite_house {s : State} {t : State} (h : execTtbEntWrite s = .next t) : t.chip.house = s.chip.house := by
  rw [execTtbEntWrite] at h; rw [run_house h]
  generalize s.chip = c
  repeat' (first | with_reducible rfl | simp only [↓house_mk, ↓house_ite, ite_self, eq_self, implies_true, ↓Chip.entWrite_house] | split)
theorem execTtbEntWrite_vault  {s t : State} (h : execTtbEntWrite s = .next t) : t.chip.vault = s.chip.vault := by
  rw [execTtbEntWrite] at h; rw [run_vault h]
  generalize s.chip = c
  repeat' (first | with_reducible rfl | simp only [↓vault_mk, ↓vault_sec, ↓vault_fw, ↓vault_secFw, ↓vault_ite, ite_self, eq_self, implies_true, ↓Chip.entWrite_vault] | split | simp only [Chip.setFlag_sec, Chip.setField_sec, Chip.setReg_sec, Chip.bump_sec, Chip.setFlag_fw, Chip.setField_fw, Chip.setReg_fw, Chip.bump_fw])
theorem execTtbEntInvalidate_house {s : State} {t : State} (h : execTtbEntInvalidate s = .next t) : t.chip.house = s.chip.house := by
  rw [execTtbEntInvalidate] at h; rw [run_house h]
  generalize s.chip = c
  repeat' (first | with_reducible rfl | simp only [↓house_mk, ↓house_ite, ite_self, eq_self, implies_true, ↓Chip.entInvalidate_house] | split)
theorem execTtbEntInvalidate_vault  {s t : State} (h : execTtbEntInvalidate s = .next t) : t.chip.vault = s.chip.vault := by
  rw [execTtbEntInvalidate] at h; rw [run_vault h]
  generalize s.chip = c
  repeat' (first | with_reducible rfl | simp only [↓vault_mk, ↓vault_sec, ↓vault_fw, ↓vault_secFw, ↓vault_ite, ite_self, eq_self, implies_true, ↓Chip.entInvalidate_vault] | split | simp only [Chip.setFlag_sec, Chip.setField_sec, Chip.setReg_sec, Chip.bump_sec, Chip.setFlag_fw, Chip.setField_fw, Chip.setReg_fw, Chip.bump_fw])
theorem execTtbCsetRead_house {s : State} {t : State} (h : execTtbCsetRead s = .next t) : t.chip.house = s.chip.house := by
  rw [execTtbCsetRead] at h; rw [run_house h]
  generalize s.chip = c
  repeat' (first | with_reducible rfl | simp only [↓house_mk, ↓house_ite, ite_self, eq_self, implies_true, ↓Chip.csetRead_house] | split)
theorem execTtbCsetRead_vault  {s t : State} (h : execTtbCsetRead s = .next t) : t.chip.vault = s.chip.vault := by
  rw [execTtbCsetRead] at h; rw [run_vault h]
  generalize s.chip = c
  repeat' (first | with_reducible rfl | simp only [↓vault_mk, ↓vault_sec, ↓vault_fw, ↓vault_secFw, ↓vault_ite, ite_self, eq_self, implies_true, ↓Chip.csetRead_vault] | split | simp only [Chip.setFlag_sec, Chip.setField_sec, Chip.setReg_sec, Chip.bump_sec, Chip.setFlag_fw, Chip.setField_fw, Chip.setReg_fw, Chip.bump_fw])
theorem execTtbCsetRead_plane {s : State} {t : State} (h : execTtbCsetRead s = .next t) : t.chip.plane = s.chip.plane := by
  rw [execTtbCsetRead] at h; rw [run_plane h]
  generalize s.chip = c
  repeat' (first | with_reducible rfl | simp only [↓plane_mk, ↓plane_ite, ite_self, eq_self, implies_true, ↓Chip.csetRead_plane] | split)
theorem execTtbCsetWrite_house {s : State} {t : State} (h : execTtbCsetWrite s = .next t) : t.chip.house = s.chip.house := by
  rw [execTtbCsetWrite] at h; rw [run_house h]
  generalize s.chip = c
  repeat' (first | with_reducible rfl | simp only [↓house_mk, ↓house_ite, ite_self, eq_self, implies_true, ↓Chip.csetWrite_house] | split)
theorem execTtbCsetWrite_vault  {s t : State} (h : execTtbCsetWrite s = .next t) : t.chip.vault = s.chip.vault := by
  rw [execTtbCsetWrite] at h; rw [run_vault h]
  generalize s.chip = c
  repeat' (first | with_reducible rfl | simp only [↓vault_mk, ↓vault_sec, ↓vault_fw, ↓vault_secFw, ↓vault_ite, ite_self, eq_self, implies_true, ↓Chip.csetWrite_vault] | split | simp only [Chip.setFlag_sec, Chip.setField_sec, Chip.setReg_sec, Chip.bump_sec, Chip.setFlag_fw, Chip.setField_fw, Chip.setReg_fw, Chip.bump_fw])
theorem execLiveryRecordWrite_house {r : LivRecReg} {v : W32} {s : State} {t : State} (h : execLiveryRecordWrite r v s = .next t) : t.chip.house = s.chip.house := by
  rw [execLiveryRecordWrite] at h; rw [run_house h]
  generalize s.chip = c
  repeat' (first | with_reducible rfl | simp only [↓house_mk, ↓house_ite, ite_self, eq_self, implies_true, ↓Chip.recWrite_house] | split)
theorem execLiveryRecordWrite_vault {r : LivRecReg} {v : W32} {s t : State} (h : execLiveryRecordWrite r v s = .next t) : t.chip.vault = s.chip.vault := by
  rw [execLiveryRecordWrite] at h; rw [run_vault h]
  generalize s.chip = c
  repeat' (first | with_reducible rfl | simp only [↓vault_mk, ↓vault_sec, ↓vault_fw, ↓vault_secFw, ↓vault_ite, ite_self, eq_self, implies_true, ↓Chip.recWrite_vault] | split | simp only [Chip.setFlag_sec, Chip.setField_sec, Chip.setReg_sec, Chip.bump_sec, Chip.setFlag_fw, Chip.setField_fw, Chip.setReg_fw, Chip.bump_fw])
theorem execLiveryRecordWrite_plane {r : LivRecReg} {v : W32} {s : State} {t : State} (h : execLiveryRecordWrite r v s = .next t) : t.chip.plane = s.chip.plane := by
  rw [execLiveryRecordWrite] at h; rw [run_plane h]
  generalize s.chip = c
  repeat' (first | with_reducible rfl | simp only [↓plane_mk, ↓plane_ite, ite_self, eq_self, implies_true, ↓Chip.recWrite_plane] | split)
theorem execTtbLivCtrlWrite_house {v : W32} {s : State} {t : State} (h : execTtbLivCtrlWrite v s = .next t) : t.chip.house = s.chip.house := by
  rw [execTtbLivCtrlWrite] at h; rw [run_house h]
  generalize s.chip = c
  repeat' (first | with_reducible rfl | simp only [↓house_mk, ↓house_ite, ite_self, eq_self, implies_true, ↓Chip.ttCtrlWrite_house] | split)
theorem execTtbLivCtrlWrite_vault {v : W32} {s t : State} (h : execTtbLivCtrlWrite v s = .next t) : t.chip.vault = s.chip.vault := by
  rw [execTtbLivCtrlWrite] at h; rw [run_vault h]
  generalize s.chip = c
  repeat' (first | with_reducible rfl | simp only [↓vault_mk, ↓vault_sec, ↓vault_fw, ↓vault_secFw, ↓vault_ite, ite_self, eq_self, implies_true, ↓Chip.ttCtrlWrite_vault] | split | simp only [Chip.setFlag_sec, Chip.setField_sec, Chip.setReg_sec, Chip.bump_sec, Chip.setFlag_fw, Chip.setField_fw, Chip.setReg_fw, Chip.bump_fw])
theorem execTtbLivSwap_house {v : W32} {s : State} {t : State} (h : execTtbLivSwap v s = .next t) : t.chip.house = s.chip.house := by
  rw [execTtbLivSwap] at h; rw [run_house h]
  generalize s.chip = c
  repeat' (first | with_reducible rfl | simp only [↓house_mk, ↓house_ite, ite_self, eq_self, implies_true, ↓Chip.swapRequest_house] | split)
theorem execTtbLivSwap_vault {v : W32} {s t : State} (h : execTtbLivSwap v s = .next t) : t.chip.vault = s.chip.vault := by
  rw [execTtbLivSwap] at h; rw [run_vault h]
  generalize s.chip = c
  repeat' (first | with_reducible rfl | simp only [↓vault_mk, ↓vault_sec, ↓vault_fw, ↓vault_secFw, ↓vault_ite, ite_self, eq_self, implies_true, ↓Chip.swapRequest_vault] | split | simp only [Chip.setFlag_sec, Chip.setField_sec, Chip.setReg_sec, Chip.bump_sec, Chip.setFlag_fw, Chip.setField_fw, Chip.setReg_fw, Chip.bump_fw])
theorem execTtbSwapTakeEffect_vault {livery : Liv} {s : State} {t : State} (h : execTtbSwapTakeEffect livery s = .next t) : t.chip.vault = s.chip.vault := by
  rw [execTtbSwapTakeEffect] at h; rw [run_vault h]
  generalize s.chip = c
  repeat' (first | with_reducible rfl | simp only [↓vault_mk, ↓vault_sec, ↓vault_fw, ↓vault_secFw, ↓vault_ite, ite_self, eq_self, implies_true, ↓Chip.swapEffect_vault] | split)
theorem execTtbSwapTakeEffect_plane {livery : Liv} {s : State} {t : State} (h : execTtbSwapTakeEffect livery s = .next t) : t.chip.plane = s.chip.plane := by
  rw [execTtbSwapTakeEffect] at h; rw [run_plane h]
  generalize s.chip = c
  repeat' (first | with_reducible rfl | simp only [↓plane_mk, ↓plane_ite, ite_self, eq_self, implies_true, ↓Chip.swapEffect_plane] | split)
theorem execTtbOldBankRelease_house {livery : Liv} {s : State} {t : State} (h : execTtbOldBankRelease livery s = .next t) : t.chip.house = s.chip.house := by
  rw [execTtbOldBankRelease] at h; rw [run_house h]
  generalize s.chip = c
  repeat' (first | with_reducible rfl | simp only [↓house_mk, ↓house_ite, ite_self, eq_self, implies_true, ↓Chip.oldRelease_house] | split)
theorem execTtbOldBankRelease_vault {livery : Liv} {s t : State} (h : execTtbOldBankRelease livery s = .next t) : t.chip.vault = s.chip.vault := by
  rw [execTtbOldBankRelease] at h; rw [run_vault h]
  generalize s.chip = c
  repeat' (first | with_reducible rfl | simp only [↓vault_mk, ↓vault_sec, ↓vault_fw, ↓vault_secFw, ↓vault_ite, ite_self, eq_self, implies_true, ↓Chip.oldRelease_vault] | split | simp only [Chip.setFlag_sec, Chip.setField_sec, Chip.setReg_sec, Chip.bump_sec, Chip.setFlag_fw, Chip.setField_fw, Chip.setReg_fw, Chip.bump_fw])
theorem execTtbOldBankRelease_plane {livery : Liv} {s : State} {t : State} (h : execTtbOldBankRelease livery s = .next t) : t.chip.plane = s.chip.plane := by
  rw [execTtbOldBankRelease] at h; rw [run_plane h]
  generalize s.chip = c
  repeat' (first | with_reducible rfl | simp only [↓plane_mk, ↓plane_ite, ite_self, eq_self, implies_true, ↓Chip.oldRelease_plane] | split)
theorem execShaperRefill_house {d : PDie} {s : State} {t : State} (h : execShaperRefill d s = .next t) : t.chip.house = s.chip.house := by
  rw [execShaperRefill] at h; rw [run_house h]
  generalize s.chip = c
  repeat' (first | with_reducible rfl | simp only [↓house_mk, ↓house_ite, ite_self, eq_self, implies_true, ↓Chip.refillDie_house] | split)
theorem execShaperRefill_vault {d : PDie} {s t : State} (h : execShaperRefill d s = .next t) : t.chip.vault = s.chip.vault := by
  rw [execShaperRefill] at h; rw [run_vault h]
  generalize s.chip = c
  repeat' (first | with_reducible rfl | simp only [↓vault_mk, ↓vault_sec, ↓vault_fw, ↓vault_secFw, ↓vault_ite, ite_self, eq_self, implies_true, ↓Chip.refillDie_vault] | split | simp only [Chip.setFlag_sec, Chip.setField_sec, Chip.setReg_sec, Chip.bump_sec, Chip.setFlag_fw, Chip.setField_fw, Chip.setReg_fw, Chip.bump_fw])
theorem execShaperApply_house {d : PDie} {s : State} {t : State} (h : execShaperApply d s = .next t) : t.chip.house = s.chip.house := by
  rw [execShaperApply] at h; rw [run_house h]
  generalize s.chip = c
  repeat' (first | with_reducible rfl | simp only [↓house_mk, ↓house_ite, ite_self, eq_self, implies_true, ↓Chip.shaperApply_house] | split)
theorem execShaperApply_vault {d : PDie} {s t : State} (h : execShaperApply d s = .next t) : t.chip.vault = s.chip.vault := by
  rw [execShaperApply] at h; rw [run_vault h]
  generalize s.chip = c
  repeat' (first | with_reducible rfl | simp only [↓vault_mk, ↓vault_sec, ↓vault_fw, ↓vault_secFw, ↓vault_ite, ite_self, eq_self, implies_true, ↓Chip.shaperApply_vault] | split | simp only [Chip.setFlag_sec, Chip.setField_sec, Chip.setReg_sec, Chip.bump_sec, Chip.setFlag_fw, Chip.setField_fw, Chip.setReg_fw, Chip.bump_fw])
theorem execGateSwitch_house {d : PDie} {s : State} {t : State} (h : execGateSwitch d s = .next t) : t.chip.house = s.chip.house := by
  rw [execGateSwitch] at h; rw [run_house h]
  generalize s.chip = c
  repeat' (first | with_reducible rfl | simp only [↓house_mk, ↓house_ite, ite_self, eq_self, implies_true, ↓Chip.gateSwitch_house] | split)
theorem execGateSwitch_vault {d : PDie} {s t : State} (h : execGateSwitch d s = .next t) : t.chip.vault = s.chip.vault := by
  rw [execGateSwitch] at h; rw [run_vault h]
  generalize s.chip = c
  repeat' (first | with_reducible rfl | simp only [↓vault_mk, ↓vault_sec, ↓vault_fw, ↓vault_secFw, ↓vault_ite, ite_self, eq_self, implies_true, ↓Chip.gateSwitch_vault] | split | simp only [Chip.setFlag_sec, Chip.setField_sec, Chip.setReg_sec, Chip.bump_sec, Chip.setFlag_fw, Chip.setField_fw, Chip.setReg_fw, Chip.bump_fw])
theorem execGateSwitchEffect_house {p : LPort} {s : State} {t : State} (h : execGateSwitchEffect p s = .next t) : t.chip.house = s.chip.house := by
  rw [execGateSwitchEffect] at h; rw [run_house h]
  generalize s.chip = c
  repeat' (first | with_reducible rfl | simp only [↓house_mk, ↓house_ite, ite_self, eq_self, implies_true, ↓Chip.gateEffect_house] | split)
theorem execGateSwitchEffect_vault {p : LPort} {s t : State} (h : execGateSwitchEffect p s = .next t) : t.chip.vault = s.chip.vault := by
  rw [execGateSwitchEffect] at h; rw [run_vault h]
  generalize s.chip = c
  repeat' (first | with_reducible rfl | simp only [↓vault_mk, ↓vault_sec, ↓vault_fw, ↓vault_secFw, ↓vault_ite, ite_self, eq_self, implies_true, ↓Chip.gateEffect_vault] | split | simp only [Chip.setFlag_sec, Chip.setField_sec, Chip.setReg_sec, Chip.bump_sec, Chip.setFlag_fw, Chip.setField_fw, Chip.setReg_fw, Chip.bump_fw])
theorem execGateIntervalBoundary_house {p : LPort} {s : State} {t : State} (h : execGateIntervalBoundary p s = .next t) : t.chip.house = s.chip.house := by
  rw [execGateIntervalBoundary] at h; rw [run_house h]
  generalize s.chip = c
  repeat' (first | with_reducible rfl | simp only [↓house_mk, ↓house_ite, ite_self, eq_self, implies_true, ↓Chip.gateUpdate_house] | split)
theorem execGateIntervalBoundary_vault {p : LPort} {s t : State} (h : execGateIntervalBoundary p s = .next t) : t.chip.vault = s.chip.vault := by
  rw [execGateIntervalBoundary] at h; rw [run_vault h]
  generalize s.chip = c
  repeat' (first | with_reducible rfl | simp only [↓vault_mk, ↓vault_sec, ↓vault_fw, ↓vault_secFw, ↓vault_ite, ite_self, eq_self, implies_true, ↓Chip.gateUpdate_vault] | split | simp only [Chip.setFlag_sec, Chip.setField_sec, Chip.setReg_sec, Chip.bump_sec, Chip.setFlag_fw, Chip.setField_fw, Chip.setReg_fw, Chip.bump_fw])
theorem execSampleIntervalClose_house {d : PDie} {s : State} {t : State} (h : execSampleIntervalClose d s = .next t) : t.chip.house = s.chip.house := by
  rw [execSampleIntervalClose] at h; rw [run_house h]
  generalize s.chip = c
  repeat' (first | with_reducible rfl | simp only [↓house_mk, ↓house_ite, ite_self, eq_self, implies_true, ↓Chip.sampleClose_house] | split)
theorem execSampleIntervalClose_vault {d : PDie} {s t : State} (h : execSampleIntervalClose d s = .next t) : t.chip.vault = s.chip.vault := by
  rw [execSampleIntervalClose] at h; rw [run_vault h]
  generalize s.chip = c
  repeat' (first | with_reducible rfl | simp only [↓vault_mk, ↓vault_sec, ↓vault_fw, ↓vault_secFw, ↓vault_ite, ite_self, eq_self, implies_true, ↓Chip.sampleClose_vault] | split | simp only [Chip.setFlag_sec, Chip.setField_sec, Chip.setReg_sec, Chip.bump_sec, Chip.setFlag_fw, Chip.setField_fw, Chip.setReg_fw, Chip.bump_fw])
theorem execQSampSeqRead_house {d : PDie} {s : State} {t : State} (h : execQSampSeqRead d s = .next t) : t.chip.house = s.chip.house := by
  rw [execQSampSeqRead] at h; rw [run_house h]
  generalize s.chip = c
  repeat' (first | with_reducible rfl | simp only [↓house_mk, ↓house_ite, ite_self, eq_self, implies_true, ↓Chip.answer_house, ↓Chip.sampSeqRead_house] | split)
theorem execQSampSeqRead_vault {d : PDie} {s t : State} (h : execQSampSeqRead d s = .next t) : t.chip.vault = s.chip.vault := by
  rw [execQSampSeqRead] at h; rw [run_vault h]
  generalize s.chip = c
  repeat' (first | with_reducible rfl | simp only [↓vault_mk, ↓vault_sec, ↓vault_fw, ↓vault_secFw, ↓vault_ite, ite_self, eq_self, implies_true, ↓Chip.answer_vault, ↓Chip.sampSeqRead_vault] | split | simp only [Chip.setFlag_sec, Chip.setField_sec, Chip.setReg_sec, Chip.bump_sec, Chip.setFlag_fw, Chip.setField_fw, Chip.setReg_fw, Chip.bump_fw])
theorem execQSampSeqRead_plane {d : PDie} {s : State} {t : State} (h : execQSampSeqRead d s = .next t) : t.chip.plane = s.chip.plane := by
  rw [execQSampSeqRead] at h; rw [run_plane h]
  generalize s.chip = c
  repeat' (first | with_reducible rfl | simp only [↓plane_mk, ↓plane_ite, ite_self, eq_self, implies_true, ↓Chip.answer_plane, ↓Chip.sampSeqRead_plane] | split)
theorem execWmFlagClear_house {d : PDie} {v : W32} {crossing : Bool} {s : State} {t : State} (h : execWmFlagClear d v crossing s = .next t) : t.chip.house = s.chip.house := by
  rw [execWmFlagClear] at h; rw [run_house h]
  generalize s.chip = c
  repeat' (first | with_reducible rfl | simp only [↓house_mk, ↓house_ite, ite_self, eq_self, implies_true, ↓Chip.wmClear_house] | split)
theorem execWmFlagClear_vault {d : PDie} {v : W32} {crossing : Bool} {s t : State} (h : execWmFlagClear d v crossing s = .next t) : t.chip.vault = s.chip.vault := by
  rw [execWmFlagClear] at h; rw [run_vault h]
  generalize s.chip = c
  repeat' (first | with_reducible rfl | simp only [↓vault_mk, ↓vault_sec, ↓vault_fw, ↓vault_secFw, ↓vault_ite, ite_self, eq_self, implies_true, ↓Chip.wmClear_vault] | split | simp only [Chip.setFlag_sec, Chip.setField_sec, Chip.setReg_sec, Chip.bump_sec, Chip.setFlag_fw, Chip.setField_fw, Chip.setReg_fw, Chip.bump_fw])
theorem execFlowRead_house {d : PDie} {s : State} {t : State} (h : execFlowRead d s = .next t) : t.chip.house = s.chip.house := by
  rw [execFlowRead] at h; rw [run_house h]
  generalize s.chip = c
  repeat' (first | with_reducible rfl | simp only [↓house_mk, ↓house_ite, ite_self, eq_self, implies_true, ↓Chip.flowRead_house] | split)
theorem execFlowRead_vault {d : PDie} {s t : State} (h : execFlowRead d s = .next t) : t.chip.vault = s.chip.vault := by
  rw [execFlowRead] at h; rw [run_vault h]
  generalize s.chip = c
  repeat' (first | with_reducible rfl | simp only [↓vault_mk, ↓vault_sec, ↓vault_fw, ↓vault_secFw, ↓vault_ite, ite_self, eq_self, implies_true, ↓Chip.flowRead_vault] | split | simp only [Chip.setFlag_sec, Chip.setField_sec, Chip.setReg_sec, Chip.bump_sec, Chip.setFlag_fw, Chip.setField_fw, Chip.setReg_fw, Chip.bump_fw])
theorem execFlowRead_plane {d : PDie} {s : State} {t : State} (h : execFlowRead d s = .next t) : t.chip.plane = s.chip.plane := by
  rw [execFlowRead] at h; rw [run_plane h]
  generalize s.chip = c
  repeat' (first | with_reducible rfl | simp only [↓plane_mk, ↓plane_ite, ite_self, eq_self, implies_true, ↓Chip.flowRead_plane] | split)
theorem execFlowWrite_house {d : PDie} {s : State} {t : State} (h : execFlowWrite d s = .next t) : t.chip.house = s.chip.house := by
  rw [execFlowWrite] at h; rw [run_house h]
  generalize s.chip = c
  repeat' (first | with_reducible rfl | simp only [↓house_mk, ↓house_ite, ite_self, eq_self, implies_true, ↓Chip.flowWrite_house] | split)
theorem execFlowWrite_vault {d : PDie} {s t : State} (h : execFlowWrite d s = .next t) : t.chip.vault = s.chip.vault := by
  rw [execFlowWrite] at h; rw [run_vault h]
  generalize s.chip = c
  repeat' (first | with_reducible rfl | simp only [↓vault_mk, ↓vault_sec, ↓vault_fw, ↓vault_secFw, ↓vault_ite, ite_self, eq_self, implies_true, ↓Chip.flowWrite_vault] | split | simp only [Chip.setFlag_sec, Chip.setField_sec, Chip.setReg_sec, Chip.bump_sec, Chip.setFlag_fw, Chip.setField_fw, Chip.setReg_fw, Chip.bump_fw])
theorem execFlowDelete_house {d : PDie} {s : State} {t : State} (h : execFlowDelete d s = .next t) : t.chip.house = s.chip.house := by
  rw [execFlowDelete] at h; rw [run_house h]
  generalize s.chip = c
  repeat' (first | with_reducible rfl | simp only [↓house_mk, ↓house_ite, ite_self, eq_self, implies_true, ↓Chip.flowDelete_house] | split)
theorem execFlowDelete_vault {d : PDie} {s t : State} (h : execFlowDelete d s = .next t) : t.chip.vault = s.chip.vault := by
  rw [execFlowDelete] at h; rw [run_vault h]
  generalize s.chip = c
  repeat' (first | with_reducible rfl | simp only [↓vault_mk, ↓vault_sec, ↓vault_fw, ↓vault_secFw, ↓vault_ite, ite_self, eq_self, implies_true, ↓Chip.flowDelete_vault] | split | simp only [Chip.setFlag_sec, Chip.setField_sec, Chip.setReg_sec, Chip.bump_sec, Chip.setFlag_fw, Chip.setField_fw, Chip.setReg_fw, Chip.bump_fw])
theorem execRouteEntRead_house {s : State} {t : State} (h : execRouteEntRead s = .next t) : t.chip.house = s.chip.house := by
  rw [execRouteEntRead] at h; rw [run_house h]
  generalize s.chip = c
  repeat' (first | with_reducible rfl | simp only [↓house_mk, ↓house_ite, ite_self, eq_self, implies_true, ↓Chip.rtRead_house] | split)
theorem execRouteEntRead_vault  {s t : State} (h : execRouteEntRead s = .next t) : t.chip.vault = s.chip.vault := by
  rw [execRouteEntRead] at h; rw [run_vault h]
  generalize s.chip = c
  repeat' (first | with_reducible rfl | simp only [↓vault_mk, ↓vault_sec, ↓vault_fw, ↓vault_secFw, ↓vault_ite, ite_self, eq_self, implies_true, ↓Chip.rtRead_vault] | split | simp only [Chip.setFlag_sec, Chip.setField_sec, Chip.setReg_sec, Chip.bump_sec, Chip.setFlag_fw, Chip.setField_fw, Chip.setReg_fw, Chip.bump_fw])
theorem execRouteEntRead_plane {s : State} {t : State} (h : execRouteEntRead s = .next t) : t.chip.plane = s.chip.plane := by
  rw [execRouteEntRead] at h; rw [run_plane h]
  generalize s.chip = c
  repeat' (first | with_reducible rfl | simp only [↓plane_mk, ↓plane_ite, ite_self, eq_self, implies_true, ↓Chip.rtRead_plane] | split)
theorem execRouteEntWrite_house {s : State} {t : State} (h : execRouteEntWrite s = .next t) : t.chip.house = s.chip.house := by
  rw [execRouteEntWrite] at h; rw [run_house h]
  generalize s.chip = c
  repeat' (first | with_reducible rfl | simp only [↓house_mk, ↓house_ite, ite_self, eq_self, implies_true, ↓Chip.rtWrite_house] | split)
theorem execRouteEntWrite_vault  {s t : State} (h : execRouteEntWrite s = .next t) : t.chip.vault = s.chip.vault := by
  rw [execRouteEntWrite] at h; rw [run_vault h]
  generalize s.chip = c
  repeat' (first | with_reducible rfl | simp only [↓vault_mk, ↓vault_sec, ↓vault_fw, ↓vault_secFw, ↓vault_ite, ite_self, eq_self, implies_true, ↓Chip.rtWrite_vault] | split | simp only [Chip.setFlag_sec, Chip.setField_sec, Chip.setReg_sec, Chip.bump_sec, Chip.setFlag_fw, Chip.setField_fw, Chip.setReg_fw, Chip.bump_fw])
theorem execRouteSwap_house {v : W32} {s : State} {t : State} (h : execRouteSwap v s = .next t) : t.chip.house = s.chip.house := by
  rw [execRouteSwap] at h; rw [run_house h]
  generalize s.chip = c
  repeat' (first | with_reducible rfl | simp only [↓house_mk, ↓house_ite, ite_self, eq_self, implies_true, ↓Chip.routeSwap_house] | split)
theorem execRouteSwap_vault {v : W32} {s t : State} (h : execRouteSwap v s = .next t) : t.chip.vault = s.chip.vault := by
  rw [execRouteSwap] at h; rw [run_vault h]
  generalize s.chip = c
  repeat' (first | with_reducible rfl | simp only [↓vault_mk, ↓vault_sec, ↓vault_fw, ↓vault_secFw, ↓vault_ite, ite_self, eq_self, implies_true, ↓Chip.routeSwap_vault] | split | simp only [Chip.setFlag_sec, Chip.setField_sec, Chip.setReg_sec, Chip.bump_sec, Chip.setFlag_fw, Chip.setField_fw, Chip.setReg_fw, Chip.bump_fw])
theorem execRouteDrainSlow_house {s : State} {t : State} (h : execRouteDrainSlow s = .next t) : t.chip.house = s.chip.house := by
  rw [execRouteDrainSlow] at h; rw [run_house h]
  generalize s.chip = c
  repeat' (first | with_reducible rfl | simp only [↓house_mk, ↓house_ite, ite_self, eq_self, implies_true, ↓Chip.drainSlow_house] | split)
theorem execRouteDrainSlow_vault  {s t : State} (h : execRouteDrainSlow s = .next t) : t.chip.vault = s.chip.vault := by
  rw [execRouteDrainSlow] at h; rw [run_vault h]
  generalize s.chip = c
  repeat' (first | with_reducible rfl | simp only [↓vault_mk, ↓vault_sec, ↓vault_fw, ↓vault_secFw, ↓vault_ite, ite_self, eq_self, implies_true, ↓Chip.drainSlow_vault] | split | simp only [Chip.setFlag_sec, Chip.setField_sec, Chip.setReg_sec, Chip.bump_sec, Chip.setFlag_fw, Chip.setField_fw, Chip.setReg_fw, Chip.bump_fw])
theorem execGroupRead_house {s : State} {t : State} (h : execGroupRead s = .next t) : t.chip.house = s.chip.house := by
  rw [execGroupRead] at h; rw [run_house h]
  generalize s.chip = c
  repeat' (first | with_reducible rfl | simp only [↓house_mk, ↓house_ite, ite_self, eq_self, implies_true, ↓Chip.grpRead_house] | split)
theorem execGroupRead_vault  {s t : State} (h : execGroupRead s = .next t) : t.chip.vault = s.chip.vault := by
  rw [execGroupRead] at h; rw [run_vault h]
  generalize s.chip = c
  repeat' (first | with_reducible rfl | simp only [↓vault_mk, ↓vault_sec, ↓vault_fw, ↓vault_secFw, ↓vault_ite, ite_self, eq_self, implies_true, ↓Chip.grpRead_vault] | split | simp only [Chip.setFlag_sec, Chip.setField_sec, Chip.setReg_sec, Chip.bump_sec, Chip.setFlag_fw, Chip.setField_fw, Chip.setReg_fw, Chip.bump_fw])
theorem execGroupRead_plane {s : State} {t : State} (h : execGroupRead s = .next t) : t.chip.plane = s.chip.plane := by
  rw [execGroupRead] at h; rw [run_plane h]
  generalize s.chip = c
  repeat' (first | with_reducible rfl | simp only [↓plane_mk, ↓plane_ite, ite_self, eq_self, implies_true, ↓Chip.grpRead_plane] | split)
theorem execGroupWrite_house {s : State} {t : State} (h : execGroupWrite s = .next t) : t.chip.house = s.chip.house := by
  rw [execGroupWrite] at h; rw [run_house h]
  generalize s.chip = c
  repeat' (first | with_reducible rfl | simp only [↓house_mk, ↓house_ite, ite_self, eq_self, implies_true, ↓Chip.grpWrite_house] | split)
theorem execGroupWrite_vault  {s t : State} (h : execGroupWrite s = .next t) : t.chip.vault = s.chip.vault := by
  rw [execGroupWrite] at h; rw [run_vault h]
  generalize s.chip = c
  repeat' (first | with_reducible rfl | simp only [↓vault_mk, ↓vault_sec, ↓vault_fw, ↓vault_secFw, ↓vault_ite, ite_self, eq_self, implies_true, ↓Chip.grpWrite_vault] | split | simp only [Chip.setFlag_sec, Chip.setField_sec, Chip.setReg_sec, Chip.bump_sec, Chip.setFlag_fw, Chip.setField_fw, Chip.setReg_fw, Chip.bump_fw])
theorem execAddrRead_house {s : State} {t : State} (h : execAddrRead s = .next t) : t.chip.house = s.chip.house := by
  rw [execAddrRead] at h; rw [run_house h]
  generalize s.chip = c
  repeat' (first | with_reducible rfl | simp only [↓house_mk, ↓house_ite, ite_self, eq_self, implies_true, ↓Chip.addrRead_house] | split)
theorem execAddrRead_vault  {s t : State} (h : execAddrRead s = .next t) : t.chip.vault = s.chip.vault := by
  rw [execAddrRead] at h; rw [run_vault h]
  generalize s.chip = c
  repeat' (first | with_reducible rfl | simp only [↓vault_mk, ↓vault_sec, ↓vault_fw, ↓vault_secFw, ↓vault_ite, ite_self, eq_self, implies_true, ↓Chip.addrRead_vault] | split | simp only [Chip.setFlag_sec, Chip.setField_sec, Chip.setReg_sec, Chip.bump_sec, Chip.setFlag_fw, Chip.setField_fw, Chip.setReg_fw, Chip.bump_fw])
theorem execAddrRead_plane {s : State} {t : State} (h : execAddrRead s = .next t) : t.chip.plane = s.chip.plane := by
  rw [execAddrRead] at h; rw [run_plane h]
  generalize s.chip = c
  repeat' (first | with_reducible rfl | simp only [↓plane_mk, ↓plane_ite, ite_self, eq_self, implies_true, ↓Chip.addrRead_plane] | split)
theorem execAddrWrite_house {s : State} {t : State} (h : execAddrWrite s = .next t) : t.chip.house = s.chip.house := by
  rw [execAddrWrite] at h; rw [run_house h]
  generalize s.chip = c
  repeat' (first | with_reducible rfl | simp only [↓house_mk, ↓house_ite, ite_self, eq_self, implies_true, ↓Chip.addrWrite_house] | split)
theorem execAddrWrite_vault  {s t : State} (h : execAddrWrite s = .next t) : t.chip.vault = s.chip.vault := by
  rw [execAddrWrite] at h; rw [run_vault h]
  generalize s.chip = c
  repeat' (first | with_reducible rfl | simp only [↓vault_mk, ↓vault_sec, ↓vault_fw, ↓vault_secFw, ↓vault_ite, ite_self, eq_self, implies_true, ↓Chip.addrWrite_vault] | split | simp only [Chip.setFlag_sec, Chip.setField_sec, Chip.setReg_sec, Chip.bump_sec, Chip.setFlag_fw, Chip.setField_fw, Chip.setReg_fw, Chip.bump_fw])
theorem execAddrDelete_house {s : State} {t : State} (h : execAddrDelete s = .next t) : t.chip.house = s.chip.house := by
  rw [execAddrDelete] at h; rw [run_house h]
  generalize s.chip = c
  repeat' (first | with_reducible rfl | simp only [↓house_mk, ↓house_ite, ite_self, eq_self, implies_true, ↓Chip.addrDelete_house] | split)
theorem execAddrDelete_vault  {s t : State} (h : execAddrDelete s = .next t) : t.chip.vault = s.chip.vault := by
  rw [execAddrDelete] at h; rw [run_vault h]
  generalize s.chip = c
  repeat' (first | with_reducible rfl | simp only [↓vault_mk, ↓vault_sec, ↓vault_fw, ↓vault_secFw, ↓vault_ite, ite_self, eq_self, implies_true, ↓Chip.addrDelete_vault] | split | simp only [Chip.setFlag_sec, Chip.setField_sec, Chip.setReg_sec, Chip.bump_sec, Chip.setFlag_fw, Chip.setField_fw, Chip.setReg_fw, Chip.bump_fw])
theorem execGridMapWrite_house {v : W32} {s : State} {t : State} (h : execGridMapWrite v s = .next t) : t.chip.house = s.chip.house := by
  rw [execGridMapWrite] at h; rw [run_house h]
  generalize s.chip = c
  repeat' (first | with_reducible rfl | simp only [↓house_mk, ↓house_ite, ite_self, eq_self, implies_true, ↓Chip.gridWrite_house] | split)
theorem execGridMapWrite_vault {v : W32} {s t : State} (h : execGridMapWrite v s = .next t) : t.chip.vault = s.chip.vault := by
  rw [execGridMapWrite] at h; rw [run_vault h]
  generalize s.chip = c
  repeat' (first | with_reducible rfl | simp only [↓vault_mk, ↓vault_sec, ↓vault_fw, ↓vault_secFw, ↓vault_ite, ite_self, eq_self, implies_true, ↓Chip.gridWrite_vault] | split | simp only [Chip.setFlag_sec, Chip.setField_sec, Chip.setReg_sec, Chip.bump_sec, Chip.setFlag_fw, Chip.setField_fw, Chip.setReg_fw, Chip.bump_fw])
theorem execGridMapWrite_plane {v : W32} {s : State} {t : State} (h : execGridMapWrite v s = .next t) : t.chip.plane = s.chip.plane := by
  rw [execGridMapWrite] at h; rw [run_plane h]
  generalize s.chip = c
  repeat' (first | with_reducible rfl | simp only [↓plane_mk, ↓plane_ite, ite_self, eq_self, implies_true, ↓Chip.gridWrite_plane] | split)
theorem execSynthLock_house {pp : PhysPort} {s : State} {t : State} (h : execSynthLock pp s = .next t) : t.chip.house = s.chip.house := by
  rw [execSynthLock] at h; rw [run_house h]
  generalize s.chip = c
  repeat' (first | with_reducible rfl | simp only [↓house_mk, ↓house_ite, ite_self, eq_self, implies_true, ↓Chip.synthLock_house] | split)
theorem execSynthLock_vault {pp : PhysPort} {s t : State} (h : execSynthLock pp s = .next t) : t.chip.vault = s.chip.vault := by
  rw [execSynthLock] at h; rw [run_vault h]
  generalize s.chip = c
  repeat' (first | with_reducible rfl | simp only [↓vault_mk, ↓vault_sec, ↓vault_fw, ↓vault_secFw, ↓vault_ite, ite_self, eq_self, implies_true, ↓Chip.synthLock_vault] | split | simp only [Chip.setFlag_sec, Chip.setField_sec, Chip.setReg_sec, Chip.bump_sec, Chip.setFlag_fw, Chip.setField_fw, Chip.setReg_fw, Chip.bump_fw])
theorem execSynthCalDone_house {pp : PhysPort} {s : State} {t : State} (h : execSynthCalDone pp s = .next t) : t.chip.house = s.chip.house := by
  rw [execSynthCalDone] at h; rw [run_house h]
  generalize s.chip = c
  repeat' (first | with_reducible rfl | simp only [↓house_mk, ↓house_ite, ite_self, eq_self, implies_true, ↓Chip.synthCal_house] | split)
theorem execSynthCalDone_vault {pp : PhysPort} {s t : State} (h : execSynthCalDone pp s = .next t) : t.chip.vault = s.chip.vault := by
  rw [execSynthCalDone] at h; rw [run_vault h]
  generalize s.chip = c
  repeat' (first | with_reducible rfl | simp only [↓vault_mk, ↓vault_sec, ↓vault_fw, ↓vault_secFw, ↓vault_ite, ite_self, eq_self, implies_true, ↓Chip.synthCal_vault] | split | simp only [Chip.setFlag_sec, Chip.setField_sec, Chip.setReg_sec, Chip.bump_sec, Chip.setFlag_fw, Chip.setField_fw, Chip.setReg_fw, Chip.bump_fw])
theorem execSynthLockTimeout_house {pp : PhysPort} {s : State} {t : State} (h : execSynthLockTimeout pp s = .next t) : t.chip.house = s.chip.house := by
  rw [execSynthLockTimeout] at h; rw [run_house h]
  generalize s.chip = c
  repeat' (first | with_reducible rfl | simp only [↓house_mk, ↓house_ite, ite_self, eq_self, implies_true, ↓Chip.synthTimeout_house] | split)
theorem execSynthLockTimeout_vault {pp : PhysPort} {s t : State} (h : execSynthLockTimeout pp s = .next t) : t.chip.vault = s.chip.vault := by
  rw [execSynthLockTimeout] at h; rw [run_vault h]
  generalize s.chip = c
  repeat' (first | with_reducible rfl | simp only [↓vault_mk, ↓vault_sec, ↓vault_fw, ↓vault_secFw, ↓vault_ite, ite_self, eq_self, implies_true, ↓Chip.synthTimeout_vault] | split | simp only [Chip.setFlag_sec, Chip.setField_sec, Chip.setReg_sec, Chip.bump_sec, Chip.setFlag_fw, Chip.setField_fw, Chip.setReg_fw, Chip.bump_fw])
theorem execSynthLockTimeout_plane {pp : PhysPort} {s : State} {t : State} (h : execSynthLockTimeout pp s = .next t) : t.chip.plane = s.chip.plane := by
  rw [execSynthLockTimeout] at h; rw [run_plane h]
  generalize s.chip = c
  repeat' (first | with_reducible rfl | simp only [↓plane_mk, ↓plane_ite, ite_self, eq_self, implies_true, ↓Chip.synthTimeout_plane] | split)
theorem execTrainingDone_house {l : Lane} {ok : Bool} {taps : W32} {preTx preRx : Bool} {s : State} {t : State} (h : execTrainingDone l ok taps preTx preRx s = .next t) : t.chip.house = s.chip.house := by
  rw [execTrainingDone] at h; rw [run_house h]
  generalize s.chip = c
  repeat' (first | with_reducible rfl | simp only [↓house_mk, ↓house_ite, ite_self, eq_self, implies_true, ↓Chip.trainDone_house] | split)
theorem execTrainingDone_vault {l : Lane} {ok : Bool} {taps : W32} {preTx : Bool} {preRx : Bool} {s t : State} (h : execTrainingDone l ok taps preTx preRx s = .next t) : t.chip.vault = s.chip.vault := by
  rw [execTrainingDone] at h; rw [run_vault h]
  generalize s.chip = c
  repeat' (first | with_reducible rfl | simp only [↓vault_mk, ↓vault_sec, ↓vault_fw, ↓vault_secFw, ↓vault_ite, ite_self, eq_self, implies_true, ↓Chip.trainDone_vault] | split | simp only [Chip.setFlag_sec, Chip.setField_sec, Chip.setReg_sec, Chip.bump_sec, Chip.setFlag_fw, Chip.setField_fw, Chip.setReg_fw, Chip.bump_fw])
theorem execTrainingRetry_house {l : Lane} {s : State} {t : State} (h : execTrainingRetry l s = .next t) : t.chip.house = s.chip.house := by
  rw [execTrainingRetry] at h; rw [run_house h]
  generalize s.chip = c
  repeat' (first | with_reducible rfl | simp only [↓house_mk, ↓house_ite, ite_self, eq_self, implies_true, ↓Chip.trainRetry_house] | split)
theorem execTrainingRetry_vault {l : Lane} {s t : State} (h : execTrainingRetry l s = .next t) : t.chip.vault = s.chip.vault := by
  rw [execTrainingRetry] at h; rw [run_vault h]
  generalize s.chip = c
  repeat' (first | with_reducible rfl | simp only [↓vault_mk, ↓vault_sec, ↓vault_fw, ↓vault_secFw, ↓vault_ite, ite_self, eq_self, implies_true, ↓Chip.trainRetry_vault] | split | simp only [Chip.setFlag_sec, Chip.setField_sec, Chip.setReg_sec, Chip.bump_sec, Chip.setFlag_fw, Chip.setField_fw, Chip.setReg_fw, Chip.bump_fw])
theorem execTrainingRetry_plane {l : Lane} {s : State} {t : State} (h : execTrainingRetry l s = .next t) : t.chip.plane = s.chip.plane := by
  rw [execTrainingRetry] at h; rw [run_plane h]
  generalize s.chip = c
  repeat' (first | with_reducible rfl | simp only [↓plane_mk, ↓plane_ite, ite_self, eq_self, implies_true, ↓Chip.trainRetry_plane] | split)
theorem execCdrLock_house {l : Lane} {s : State} {t : State} (h : execCdrLock l s = .next t) : t.chip.house = s.chip.house := by
  rw [execCdrLock] at h; rw [run_house h]
  generalize s.chip = c
  repeat' (first | with_reducible rfl | simp only [↓house_mk, ↓house_ite, ite_self, eq_self, implies_true, ↓Chip.cdrLock_house] | split)
theorem execCdrLock_vault {l : Lane} {s t : State} (h : execCdrLock l s = .next t) : t.chip.vault = s.chip.vault := by
  rw [execCdrLock] at h; rw [run_vault h]
  generalize s.chip = c
  repeat' (first | with_reducible rfl | simp only [↓vault_mk, ↓vault_sec, ↓vault_fw, ↓vault_secFw, ↓vault_ite, ite_self, eq_self, implies_true, ↓Chip.cdrLock_vault] | split | simp only [Chip.setFlag_sec, Chip.setField_sec, Chip.setReg_sec, Chip.bump_sec, Chip.setFlag_fw, Chip.setField_fw, Chip.setReg_fw, Chip.bump_fw])
theorem execCdrLockLoss_house {l : Lane} {signal : Bool} {s t : State} (h : execCdrLockLoss l signal s = .next t) : t.chip.house = s.chip.house := by
  rw [execCdrLockLoss] at h; rw [run_house h]
  generalize s.chip = c
  repeat' (first | with_reducible rfl | simp only [↓house_mk, ↓house_ite, ite_self, eq_self, implies_true, ↓Chip.cdrLoss_house] | split)
theorem execCdrLockLoss_vault {l : Lane} {signal : Bool} {s t : State} (h : execCdrLockLoss l signal s = .next t) : t.chip.vault = s.chip.vault := by
  rw [execCdrLockLoss] at h; rw [run_vault h]
  generalize s.chip = c
  repeat' (first | with_reducible rfl | simp only [↓vault_mk, ↓vault_sec, ↓vault_fw, ↓vault_secFw, ↓vault_ite, ite_self, eq_self, implies_true, ↓Chip.cdrLoss_vault] | split | simp only [Chip.setFlag_sec, Chip.setField_sec, Chip.setReg_sec, Chip.bump_sec, Chip.setFlag_fw, Chip.setField_fw, Chip.setReg_fw, Chip.bump_fw])
theorem execCdrLockLoss_plane {l : Lane} {signal : Bool} {s t : State} (h : execCdrLockLoss l signal s = .next t) : t.chip.plane = s.chip.plane := by
  rw [execCdrLockLoss] at h; rw [run_plane h]
  generalize s.chip = c
  repeat' (first | with_reducible rfl | simp only [↓plane_mk, ↓plane_ite, ite_self, eq_self, implies_true, ↓Chip.cdrLoss_plane] | split)
theorem execSettleWindowEnd_house {l : Lane} {s : State} {t : State} (h : execSettleWindowEnd l s = .next t) : t.chip.house = s.chip.house := by
  rw [execSettleWindowEnd] at h; rw [run_house h]
  generalize s.chip = c
  repeat' (first | with_reducible rfl | simp only [↓house_mk, ↓house_ite, ite_self, eq_self, implies_true, ↓Chip.setLaneFlag_house] | split)
theorem execSettleWindowEnd_vault {l : Lane} {s t : State} (h : execSettleWindowEnd l s = .next t) : t.chip.vault = s.chip.vault := by
  rw [execSettleWindowEnd] at h; rw [run_vault h]
  generalize s.chip = c
  repeat' (first | with_reducible rfl | simp only [↓vault_mk, ↓vault_sec, ↓vault_fw, ↓vault_secFw, ↓vault_ite, ite_self, eq_self, implies_true, ↓Chip.setLaneFlag_vault] | split | simp only [Chip.setFlag_sec, Chip.setField_sec, Chip.setReg_sec, Chip.bump_sec, Chip.setFlag_fw, Chip.setField_fw, Chip.setReg_fw, Chip.bump_fw])
theorem execSettleWindowEnd_plane {l : Lane} {s : State} {t : State} (h : execSettleWindowEnd l s = .next t) : t.chip.plane = s.chip.plane := by
  rw [execSettleWindowEnd] at h; rw [run_plane h]
  generalize s.chip = c
  repeat' (first | with_reducible rfl | simp only [↓plane_mk, ↓plane_ite, ite_self, eq_self, implies_true, ↓Chip.setLaneFlag_plane] | split)
theorem execCheckerLock_house {l : Lane} {ys : List (BitVec 2)} {s t : State} (h : execCheckerLock l ys s = .next t) : t.chip.house = s.chip.house := by
  rw [execCheckerLock] at h; rw [run_house h]
  generalize s.chip = c
  repeat' (first | with_reducible rfl | simp only [↓house_mk, ↓house_ite, ite_self, eq_self, implies_true, ↓Chip.rxSymbols_house] | split)
theorem execCheckerLock_vault {l : Lane} {ys : List (BitVec 2)} {s t : State} (h : execCheckerLock l ys s = .next t) : t.chip.vault = s.chip.vault := by
  rw [execCheckerLock] at h; rw [run_vault h]
  generalize s.chip = c
  repeat' (first | with_reducible rfl | simp only [↓vault_mk, ↓vault_sec, ↓vault_fw, ↓vault_secFw, ↓vault_ite, ite_self, eq_self, implies_true, ↓Chip.rxSymbols_vault] | split | simp only [Chip.setFlag_sec, Chip.setField_sec, Chip.setReg_sec, Chip.bump_sec, Chip.setFlag_fw, Chip.setField_fw, Chip.setReg_fw, Chip.bump_fw])
theorem execCheckerLockLoss_house {l : Lane} {ys : List (BitVec 2)} {s t : State} (h : execCheckerLockLoss l ys s = .next t) : t.chip.house = s.chip.house := by
  rw [execCheckerLockLoss] at h; rw [run_house h]
  generalize s.chip = c
  repeat' (first | with_reducible rfl | simp only [↓house_mk, ↓house_ite, ite_self, eq_self, implies_true, ↓Chip.rxSymbols_house] | split)
theorem execCheckerLockLoss_vault {l : Lane} {ys : List (BitVec 2)} {s t : State} (h : execCheckerLockLoss l ys s = .next t) : t.chip.vault = s.chip.vault := by
  rw [execCheckerLockLoss] at h; rw [run_vault h]
  generalize s.chip = c
  repeat' (first | with_reducible rfl | simp only [↓vault_mk, ↓vault_sec, ↓vault_fw, ↓vault_secFw, ↓vault_ite, ite_self, eq_self, implies_true, ↓Chip.rxSymbols_vault] | split | simp only [Chip.setFlag_sec, Chip.setField_sec, Chip.setReg_sec, Chip.bump_sec, Chip.setFlag_fw, Chip.setField_fw, Chip.setReg_fw, Chip.bump_fw])
theorem execEyeWindowEnd_house {l : Lane} {u : BitVec 6} {m : BitVec 6} {lo : BitVec 6} {w : BitVec 6} {ys : List (BitVec 2)} {s t : State} (h : execEyeWindowEnd l u m lo w ys s = .next t) : t.chip.house = s.chip.house := by
  rw [execEyeWindowEnd] at h; rw [run_house h]
  generalize s.chip = c
  repeat' (first | with_reducible rfl | simp only [↓house_mk, ↓house_ite, ite_self, eq_self, implies_true, ↓Chip.eyeEnd_house] | split)
theorem execEyeWindowEnd_vault {l : Lane} {u : BitVec 6} {m : BitVec 6} {lo : BitVec 6} {w : BitVec 6} {ys : List (BitVec 2)} {s t : State} (h : execEyeWindowEnd l u m lo w ys s = .next t) : t.chip.vault = s.chip.vault := by
  rw [execEyeWindowEnd] at h; rw [run_vault h]
  generalize s.chip = c
  repeat' (first | with_reducible rfl | simp only [↓vault_mk, ↓vault_sec, ↓vault_fw, ↓vault_secFw, ↓vault_ite, ite_self, eq_self, implies_true, ↓Chip.eyeEnd_vault] | split | simp only [Chip.setFlag_sec, Chip.setField_sec, Chip.setReg_sec, Chip.bump_sec, Chip.setFlag_fw, Chip.setField_fw, Chip.setReg_fw, Chip.bump_fw])
theorem execInjGo_house {d : PDie} {s : State} {t : State} (h : execInjGo d s = .next t) : t.chip.house = s.chip.house := by
  rw [execInjGo] at h; rw [run_house h]
  generalize s.chip = c
  repeat' (first | with_reducible rfl | simp only [↓house_mk, ↓house_ite, ite_self, eq_self, implies_true, ↓Chip.injGo_house] | split)
theorem execInjGo_vault {d : PDie} {s t : State} (h : execInjGo d s = .next t) : t.chip.vault = s.chip.vault := by
  rw [execInjGo] at h; rw [run_vault h]
  generalize s.chip = c
  repeat' (first | with_reducible rfl | simp only [↓vault_mk, ↓vault_sec, ↓vault_fw, ↓vault_secFw, ↓vault_ite, ite_self, eq_self, implies_true, ↓Chip.injGo_vault] | split | simp only [Chip.setFlag_sec, Chip.setField_sec, Chip.setReg_sec, Chip.bump_sec, Chip.setFlag_fw, Chip.setField_fw, Chip.setReg_fw, Chip.bump_fw])
theorem execInjPeriodBurst_house {l : Lane} {s : State} {t : State} (h : execInjPeriodBurst l s = .next t) : t.chip.house = s.chip.house := by
  rw [execInjPeriodBurst] at h; rw [run_house h]
  generalize s.chip = c
  repeat' (first | with_reducible rfl | simp only [↓house_mk, ↓house_ite, ite_self, eq_self, implies_true, ↓Chip.injPeriod_house] | split)
theorem execInjPeriodBurst_vault {l : Lane} {s t : State} (h : execInjPeriodBurst l s = .next t) : t.chip.vault = s.chip.vault := by
  rw [execInjPeriodBurst] at h; rw [run_vault h]
  generalize s.chip = c
  repeat' (first | with_reducible rfl | simp only [↓vault_mk, ↓vault_sec, ↓vault_fw, ↓vault_secFw, ↓vault_ite, ite_self, eq_self, implies_true, ↓Chip.injPeriod_vault] | split | simp only [Chip.setFlag_sec, Chip.setField_sec, Chip.setReg_sec, Chip.bump_sec, Chip.setFlag_fw, Chip.setField_fw, Chip.setReg_fw, Chip.bump_fw])
theorem execSettleGo_house {d : PDie} {s : State} {t : State} (h : execSettleGo d s = .next t) : t.chip.house = s.chip.house := by
  rw [execSettleGo] at h; rw [run_house h]
  generalize s.chip = c
  repeat' (first | with_reducible rfl | simp only [↓house_mk, ↓house_ite, ite_self, eq_self, implies_true, ↓Chip.openSettle_house] | split)
theorem execSettleGo_vault {d : PDie} {s t : State} (h : execSettleGo d s = .next t) : t.chip.vault = s.chip.vault := by
  rw [execSettleGo] at h; rw [run_vault h]
  generalize s.chip = c
  repeat' (first | with_reducible rfl | simp only [↓vault_mk, ↓vault_sec, ↓vault_fw, ↓vault_secFw, ↓vault_ite, ite_self, eq_self, implies_true, ↓Chip.openSettle_vault] | split | simp only [Chip.setFlag_sec, Chip.setField_sec, Chip.setReg_sec, Chip.bump_sec, Chip.setFlag_fw, Chip.setField_fw, Chip.setReg_fw, Chip.bump_fw])
theorem execCntClr_house {d : PDie} {s : State} {t : State} (h : execCntClr d s = .next t) : t.chip.house = s.chip.house := by
  rw [execCntClr] at h; rw [run_house h]
  generalize s.chip = c
  repeat' (first | with_reducible rfl | simp only [↓house_mk, ↓house_ite, ite_self, eq_self, implies_true, ↓Chip.cntClr_house] | split)
theorem execCntClr_vault {d : PDie} {s t : State} (h : execCntClr d s = .next t) : t.chip.vault = s.chip.vault := by
  rw [execCntClr] at h; rw [run_vault h]
  generalize s.chip = c
  repeat' (first | with_reducible rfl | simp only [↓vault_mk, ↓vault_sec, ↓vault_fw, ↓vault_secFw, ↓vault_ite, ite_self, eq_self, implies_true, ↓Chip.cntClr_vault] | split | simp only [Chip.setFlag_sec, Chip.setField_sec, Chip.setReg_sec, Chip.bump_sec, Chip.setFlag_fw, Chip.setField_fw, Chip.setReg_fw, Chip.bump_fw])
theorem execSdsTxEqWrite_house {d : PDie} {v : W32} {s : State} {t : State} (h : execSdsTxEqWrite d v s = .next t) : t.chip.house = s.chip.house := by
  rw [execSdsTxEqWrite] at h; rw [run_house h]
  generalize s.chip = c
  repeat' (first | with_reducible rfl | simp only [↓house_mk, ↓house_ite, ite_self, eq_self, implies_true, ↓Chip.txEqWrite_house] | split)
theorem execSdsTxEqWrite_vault {d : PDie} {v : W32} {s t : State} (h : execSdsTxEqWrite d v s = .next t) : t.chip.vault = s.chip.vault := by
  rw [execSdsTxEqWrite] at h; rw [run_vault h]
  generalize s.chip = c
  repeat' (first | with_reducible rfl | simp only [↓vault_mk, ↓vault_sec, ↓vault_fw, ↓vault_secFw, ↓vault_ite, ite_self, eq_self, implies_true, ↓Chip.txEqWrite_vault] | split | simp only [Chip.setFlag_sec, Chip.setField_sec, Chip.setReg_sec, Chip.bump_sec, Chip.setFlag_fw, Chip.setField_fw, Chip.setReg_fw, Chip.bump_fw])
theorem execSdsTxEqWrite_plane {d : PDie} {v : W32} {s : State} {t : State} (h : execSdsTxEqWrite d v s = .next t) : t.chip.plane = s.chip.plane := by
  rw [execSdsTxEqWrite] at h; rw [run_plane h]
  generalize s.chip = c
  repeat' (first | with_reducible rfl | simp only [↓plane_mk, ↓plane_ite, ite_self, eq_self, implies_true, ↓Chip.txEqWrite_plane] | split)
theorem execChkBitsLoRead_house {d : PDie} {s : State} {t : State} (h : execChkBitsLoRead d s = .next t) : t.chip.house = s.chip.house := by
  rw [execChkBitsLoRead] at h; rw [run_house h]
  generalize s.chip = c
  repeat' (first | with_reducible rfl | simp only [↓house_mk, ↓house_ite, ite_self, eq_self, implies_true, ↓Chip.answer_house, ↓Chip.chkBitsRead_house] | split)
theorem execChkBitsLoRead_vault {d : PDie} {s t : State} (h : execChkBitsLoRead d s = .next t) : t.chip.vault = s.chip.vault := by
  rw [execChkBitsLoRead] at h; rw [run_vault h]
  generalize s.chip = c
  repeat' (first | with_reducible rfl | simp only [↓vault_mk, ↓vault_sec, ↓vault_fw, ↓vault_secFw, ↓vault_ite, ite_self, eq_self, implies_true, ↓Chip.answer_vault, ↓Chip.chkBitsRead_vault] | split | simp only [Chip.setFlag_sec, Chip.setField_sec, Chip.setReg_sec, Chip.bump_sec, Chip.setFlag_fw, Chip.setField_fw, Chip.setReg_fw, Chip.bump_fw])
theorem execChkBitsLoRead_plane {d : PDie} {s : State} {t : State} (h : execChkBitsLoRead d s = .next t) : t.chip.plane = s.chip.plane := by
  rw [execChkBitsLoRead] at h; rw [run_plane h]
  generalize s.chip = c
  repeat' (first | with_reducible rfl | simp only [↓plane_mk, ↓plane_ite, ite_self, eq_self, implies_true, ↓Chip.answer_plane, ↓Chip.chkBitsRead_plane] | split)
theorem execLaneStatRead_house {d : PDie} {s : State} {t : State} (h : execLaneStatRead d s = .next t) : t.chip.house = s.chip.house := by
  rw [execLaneStatRead] at h; rw [run_house h]
  generalize s.chip = c
  repeat' (first | with_reducible rfl | simp only [↓house_mk, ↓house_ite, ite_self, eq_self, implies_true, ↓Chip.answer_house, ↓Chip.laneStatRead_house] | split)
theorem execLaneStatRead_vault {d : PDie} {s t : State} (h : execLaneStatRead d s = .next t) : t.chip.vault = s.chip.vault := by
  rw [execLaneStatRead] at h; rw [run_vault h]
  generalize s.chip = c
  repeat' (first | with_reducible rfl | simp only [↓vault_mk, ↓vault_sec, ↓vault_fw, ↓vault_secFw, ↓vault_ite, ite_self, eq_self, implies_true, ↓Chip.answer_vault, ↓Chip.laneStatRead_vault] | split | simp only [Chip.setFlag_sec, Chip.setField_sec, Chip.setReg_sec, Chip.bump_sec, Chip.setFlag_fw, Chip.setField_fw, Chip.setReg_fw, Chip.bump_fw])
theorem execLaneStatRead_plane {d : PDie} {s : State} {t : State} (h : execLaneStatRead d s = .next t) : t.chip.plane = s.chip.plane := by
  rw [execLaneStatRead] at h; rw [run_plane h]
  generalize s.chip = c
  repeat' (first | with_reducible rfl | simp only [↓plane_mk, ↓plane_ite, ite_self, eq_self, implies_true, ↓Chip.answer_plane, ↓Chip.laneStatRead_plane] | split)
theorem execFrameTailCheck_house {p : LPort} {f : Frame} {s : State} {t : State} (h : execFrameTailCheck p f s = .next t) : t.chip.house = s.chip.house := by
  rw [execFrameTailCheck] at h; rw [run_house h]
  generalize s.chip = c
  repeat' (first | with_reducible rfl | simp only [↓house_mk, ↓house_ite, ite_self, eq_self, implies_true, ↓Chip.tailCheck_house])
theorem execFrameTailCheck_vault {p : LPort} {f : Frame} {s t : State} (h : execFrameTailCheck p f s = .next t) : t.chip.vault = s.chip.vault := by
  rw [execFrameTailCheck] at h; rw [run_vault h]
  generalize s.chip = c
  repeat' (first | with_reducible rfl | simp only [↓vault_mk, ↓vault_sec, ↓vault_fw, ↓vault_secFw, ↓vault_ite, ite_self, eq_self, implies_true, ↓Chip.tailCheck_vault] | split | simp only [Chip.setFlag_sec, Chip.setField_sec, Chip.setReg_sec, Chip.bump_sec, Chip.setFlag_fw, Chip.setField_fw, Chip.setReg_fw, Chip.bump_fw])
theorem execEgressPortFree_house {p : LPort} {rd : CellRead} {s t : State} (h : execEgressPortFree p rd s = .next t) : t.chip.house = s.chip.house := by
  rw [execEgressPortFree] at h; rw [run_house h]
  generalize s.chip = c
  repeat' (first | with_reducible rfl | simp only [↓house_mk, ↓house_ite, ite_self, eq_self, implies_true, ↓Chip.portFree_house] | split)
theorem execEgressPortFree_vault {p : LPort} {rd : CellRead} {s t : State} (h : execEgressPortFree p rd s = .next t) : t.chip.vault = s.chip.vault := by
  rw [execEgressPortFree] at h; rw [run_vault h]
  generalize s.chip = c
  repeat' (first | with_reducible rfl | simp only [↓vault_mk, ↓vault_sec, ↓vault_fw, ↓vault_secFw, ↓vault_ite, ite_self, eq_self, implies_true, ↓Chip.portFree_vault] | split | simp only [Chip.setFlag_sec, Chip.setField_sec, Chip.setReg_sec, Chip.bump_sec, Chip.setFlag_fw, Chip.setField_fw, Chip.setReg_fw, Chip.bump_fw])
theorem execLinkInitRx_house {p : LPort} {f : Frame} {s : State} {t : State} (h : execLinkInitRx p f s = .next t) : t.chip.house = s.chip.house := by
  rw [execLinkInitRx] at h; rw [run_house h]
  generalize s.chip = c
  repeat' (first | with_reducible rfl | simp only [↓house_mk, ↓house_ite, ite_self, eq_self, implies_true, ↓Chip.ctlRx_house, ↓Chip.takeInit_house] | with_reducible refine (Chip.ctlRx_house _ _ _ _ _ ?_).trans ?_ | intro _ _ | intro _)
theorem execLinkInitRx_vault {p : LPort} {f : Frame} {s t : State} (h : execLinkInitRx p f s = .next t) : t.chip.vault = s.chip.vault := by
  rw [execLinkInitRx] at h; rw [run_vault h]
  generalize s.chip = c
  repeat' (first | with_reducible rfl | simp only [↓vault_mk, ↓vault_sec, ↓vault_fw, ↓vault_secFw, ↓vault_ite, ite_self, eq_self, implies_true, ↓Chip.ctlRx_vault, ↓Chip.takeInit_vault] | with_reducible refine (Chip.ctlRx_vault _ _ _ _ _ ?_).trans ?_ | split | intro _ _ | intro _ | simp only [Chip.setFlag_sec, Chip.setField_sec, Chip.setReg_sec, Chip.bump_sec, Chip.setFlag_fw, Chip.setField_fw, Chip.setReg_fw, Chip.bump_fw])
theorem execLinkUpdateRx_house {p : LPort} {f : Frame} {s : State} {t : State} (h : execLinkUpdateRx p f s = .next t) : t.chip.house = s.chip.house := by
  rw [execLinkUpdateRx] at h; rw [run_house h]
  generalize s.chip = c
  repeat' (first | with_reducible rfl | simp only [↓house_mk, ↓house_ite, ite_self, eq_self, implies_true, ↓Chip.ctlRx_house, ↓Chip.takeUpdate_house] | with_reducible refine (Chip.ctlRx_house _ _ _ _ _ ?_).trans ?_ | intro _ _ | intro _ | split)
theorem execLinkUpdateRx_vault {p : LPort} {f : Frame} {s t : State} (h : execLinkUpdateRx p f s = .next t) : t.chip.vault = s.chip.vault := by
  rw [execLinkUpdateRx] at h; rw [run_vault h]
  generalize s.chip = c
  repeat' (first | with_reducible rfl | simp only [↓vault_mk, ↓vault_sec, ↓vault_fw, ↓vault_secFw, ↓vault_ite, ite_self, eq_self, implies_true, ↓Chip.takeUpdate_vault, ↓Chip.ctlRx_vault] | with_reducible refine (Chip.ctlRx_vault _ _ _ _ _ ?_).trans ?_ | split | intro _ _ | intro _ | simp only [Chip.setFlag_sec, Chip.setField_sec, Chip.setReg_sec, Chip.bump_sec, Chip.setFlag_fw, Chip.setField_fw, Chip.setReg_fw, Chip.bump_fw])
theorem execCreditUpdateSend_house {p : LPort} {s : State} {t : State} (h : execCreditUpdateSend p s = .next t) : t.chip.house = s.chip.house := by
  rw [execCreditUpdateSend] at h; rw [run_house h]
  generalize s.chip = c
  repeat' (first | with_reducible rfl | simp only [↓house_mk, ↓house_ite, ite_self, eq_self, implies_true, ↓Chip.sendUpdate_house] | split)
theorem execCreditUpdateSend_vault {p : LPort} {s t : State} (h : execCreditUpdateSend p s = .next t) : t.chip.vault = s.chip.vault := by
  rw [execCreditUpdateSend] at h; rw [run_vault h]
  generalize s.chip = c
  repeat' (first | with_reducible rfl | simp only [↓vault_mk, ↓vault_sec, ↓vault_fw, ↓vault_secFw, ↓vault_ite, ite_self, eq_self, implies_true, ↓Chip.sendUpdate_vault] | split | simp only [Chip.setFlag_sec, Chip.setField_sec, Chip.setReg_sec, Chip.bump_sec, Chip.setFlag_fw, Chip.setField_fw, Chip.setReg_fw, Chip.bump_fw])
theorem execCreditUpdatePeriodic_house {p : LPort} {s : State} {t : State} (h : execCreditUpdatePeriodic p s = .next t) : t.chip.house = s.chip.house := by
  rw [execCreditUpdatePeriodic] at h; rw [run_house h]
  generalize s.chip = c
  repeat' (first | with_reducible rfl | simp only [↓house_mk, ↓house_ite, ite_self, eq_self, implies_true, ↓Chip.sendUpdate_house] | split)
theorem execCreditUpdatePeriodic_vault {p : LPort} {s t : State} (h : execCreditUpdatePeriodic p s = .next t) : t.chip.vault = s.chip.vault := by
  rw [execCreditUpdatePeriodic] at h; rw [run_vault h]
  generalize s.chip = c
  repeat' (first | with_reducible rfl | simp only [↓vault_mk, ↓vault_sec, ↓vault_fw, ↓vault_secFw, ↓vault_ite, ite_self, eq_self, implies_true, ↓Chip.sendUpdate_vault] | split | simp only [Chip.setFlag_sec, Chip.setField_sec, Chip.setReg_sec, Chip.bump_sec, Chip.setFlag_fw, Chip.setField_fw, Chip.setReg_fw, Chip.bump_fw])
theorem execInitResend_house {p : LPort} {s : State} {t : State} (h : execInitResend p s = .next t) : t.chip.house = s.chip.house := by
  rw [execInitResend] at h; rw [run_house h]
  generalize s.chip = c
  repeat' (first | with_reducible rfl | simp only [↓house_mk, ↓house_ite, ite_self, eq_self, implies_true, ↓Chip.sendCtl_house, ↓Chip.setLink_house, ↓Chip.tryUp_house] | split)
theorem execInitResend_vault {p : LPort} {s t : State} (h : execInitResend p s = .next t) : t.chip.vault = s.chip.vault := by
  rw [execInitResend] at h; rw [run_vault h]
  generalize s.chip = c
  repeat' (first | with_reducible rfl | simp only [↓vault_mk, ↓vault_sec, ↓vault_fw, ↓vault_secFw, ↓vault_ite, ite_self, eq_self, implies_true, ↓Chip.setLink_vault, ↓Chip.sendCtl_vault, ↓Chip.tryUp_vault] | split | simp only [Chip.setFlag_sec, Chip.setField_sec, Chip.setReg_sec, Chip.bump_sec, Chip.setFlag_fw, Chip.setField_fw, Chip.setReg_fw, Chip.bump_fw])
theorem execPcsAligned_house {p : LPort} {marks : List PcsMark} {s t : State} (h : execPcsAligned p marks s = .next t) : t.chip.house = s.chip.house := by
  rw [execPcsAligned] at h; rw [run_house h]
  generalize s.chip = c
  repeat' (first | with_reducible rfl | simp only [↓house_mk, ↓house_ite, ite_self, eq_self, implies_true, ↓Chip.pcsAligned_house] | split)
theorem execPcsAligned_vault {p : LPort} {marks : List PcsMark} {s t : State} (h : execPcsAligned p marks s = .next t) : t.chip.vault = s.chip.vault := by
  rw [execPcsAligned] at h; rw [run_vault h]
  generalize s.chip = c
  repeat' (first | with_reducible rfl | simp only [↓vault_mk, ↓vault_sec, ↓vault_fw, ↓vault_secFw, ↓vault_ite, ite_self, eq_self, implies_true, ↓Chip.pcsAligned_vault] | split | simp only [Chip.setFlag_sec, Chip.setField_sec, Chip.setReg_sec, Chip.bump_sec, Chip.setFlag_fw, Chip.setField_fw, Chip.setReg_fw, Chip.bump_fw])
theorem execNakRepeat_house {p : LPort} {s : State} {t : State} (h : execNakRepeat p s = .next t) : t.chip.house = s.chip.house := by
  rw [execNakRepeat] at h; rw [run_house h]
  generalize s.chip = c
  repeat' (first | with_reducible rfl | simp only [↓house_mk, ↓house_ite, ite_self, eq_self, implies_true, ↓Chip.sendNak_house] | split)
theorem execNakRepeat_vault {p : LPort} {s t : State} (h : execNakRepeat p s = .next t) : t.chip.vault = s.chip.vault := by
  rw [execNakRepeat] at h; rw [run_vault h]
  generalize s.chip = c
  repeat' (first | with_reducible rfl | simp only [↓vault_mk, ↓vault_sec, ↓vault_fw, ↓vault_secFw, ↓vault_ite, ite_self, eq_self, implies_true, ↓Chip.sendNak_vault] | split | simp only [Chip.setFlag_sec, Chip.setField_sec, Chip.setReg_sec, Chip.bump_sec, Chip.setFlag_fw, Chip.setField_fw, Chip.setReg_fw, Chip.bump_fw])
theorem execLpiEntryStart_house {p : LPort} {s : State} {t : State} (h : execLpiEntryStart p s = .next t) : t.chip.house = s.chip.house := by
  rw [execLpiEntryStart] at h; rw [run_house h]
  generalize s.chip = c
  repeat' (first | with_reducible rfl | simp only [↓house_mk, ↓house_ite, ite_self, eq_self, implies_true, ↓Chip.lpiStart_house] | split)
theorem execLpiEntryStart_vault {p : LPort} {s t : State} (h : execLpiEntryStart p s = .next t) : t.chip.vault = s.chip.vault := by
  rw [execLpiEntryStart] at h; rw [run_vault h]
  generalize s.chip = c
  repeat' (first | with_reducible rfl | simp only [↓vault_mk, ↓vault_sec, ↓vault_fw, ↓vault_secFw, ↓vault_ite, ite_self, eq_self, implies_true, ↓Chip.lpiStart_vault] | split | simp only [Chip.setFlag_sec, Chip.setField_sec, Chip.setReg_sec, Chip.bump_sec, Chip.setFlag_fw, Chip.setField_fw, Chip.setReg_fw, Chip.bump_fw])
theorem execLpiAckRx_house {p : LPort} {wake : Bool} {s t : State} (h : execLpiAckRx p wake s = .next t) : t.chip.house = s.chip.house := by
  rw [execLpiAckRx] at h; rw [run_house h]
  generalize s.chip = c
  repeat' (first | with_reducible rfl | simp only [↓house_mk, ↓house_ite, ite_self, eq_self, implies_true, ↓Chip.lpiAck_house] | split)
theorem execLpiAckRx_vault {p : LPort} {wake : Bool} {s t : State} (h : execLpiAckRx p wake s = .next t) : t.chip.vault = s.chip.vault := by
  rw [execLpiAckRx] at h; rw [run_vault h]
  generalize s.chip = c
  repeat' (first | with_reducible rfl | simp only [↓vault_mk, ↓vault_sec, ↓vault_fw, ↓vault_secFw, ↓vault_ite, ite_self, eq_self, implies_true, ↓Chip.lpiAck_vault] | split | simp only [Chip.setFlag_sec, Chip.setField_sec, Chip.setReg_sec, Chip.bump_sec, Chip.setFlag_fw, Chip.setField_fw, Chip.setReg_fw, Chip.bump_fw])
theorem execLpiNoackTimeout_house {p : LPort} {s : State} {t : State} (h : execLpiNoackTimeout p s = .next t) : t.chip.house = s.chip.house := by
  rw [execLpiNoackTimeout] at h; rw [run_house h]
  generalize s.chip = c
  repeat' (first | with_reducible rfl | simp only [↓house_mk, ↓house_ite, ite_self, eq_self, implies_true, ↓Chip.lpiNoAck_house] | split)
theorem execLpiNoackTimeout_vault {p : LPort} {s t : State} (h : execLpiNoackTimeout p s = .next t) : t.chip.vault = s.chip.vault := by
  rw [execLpiNoackTimeout] at h; rw [run_vault h]
  generalize s.chip = c
  repeat' (first | with_reducible rfl | simp only [↓vault_mk, ↓vault_sec, ↓vault_fw, ↓vault_secFw, ↓vault_ite, ite_self, eq_self, implies_true, ↓Chip.lpiNoAck_vault] | split | simp only [Chip.setFlag_sec, Chip.setField_sec, Chip.setReg_sec, Chip.bump_sec, Chip.setFlag_fw, Chip.setField_fw, Chip.setReg_fw, Chip.bump_fw])
theorem execLpiWakeRequest_house {p : LPort} {s : State} {t : State} (h : execLpiWakeRequest p s = .next t) : t.chip.house = s.chip.house := by
  rw [execLpiWakeRequest] at h; rw [run_house h]
  generalize s.chip = c
  repeat' (first | with_reducible rfl | simp only [↓house_mk, ↓house_ite, ite_self, eq_self, implies_true, ↓Chip.lpiWake_house] | split)
theorem execLpiWakeRequest_vault {p : LPort} {s t : State} (h : execLpiWakeRequest p s = .next t) : t.chip.vault = s.chip.vault := by
  rw [execLpiWakeRequest] at h; rw [run_vault h]
  generalize s.chip = c
  repeat' (first | with_reducible rfl | simp only [↓vault_mk, ↓vault_sec, ↓vault_fw, ↓vault_secFw, ↓vault_ite, ite_self, eq_self, implies_true, ↓Chip.lpiWake_vault] | split | simp only [Chip.setFlag_sec, Chip.setField_sec, Chip.setReg_sec, Chip.bump_sec, Chip.setFlag_fw, Chip.setField_fw, Chip.setReg_fw, Chip.bump_fw])
theorem execLpiExitComplete_house {p : LPort} {s t : State} (h : execLpiExitComplete p s = .next t) : t.chip.house = s.chip.house := by
  rw [execLpiExitComplete] at h; rw [run_house h]
  generalize s.chip = c
  repeat' (first | with_reducible rfl | simp only [↓house_mk, ↓house_ite, ite_self, eq_self, implies_true, ↓Chip.setLink_house, ↓Chip.bumpPrt_house, ↓Chip.injResume_house, ↓Chip.laneWoken_house, ↓Chip.setLpiStat_house, ↓Chip.startNext_house] | with_reducible refine (keep_forAll Chip.house _ _ _ ?_).trans ?_ | split | intro _ _ | intro _)
theorem execLpiExitComplete_vault {p : LPort} {s t : State} (h : execLpiExitComplete p s = .next t) : t.chip.vault = s.chip.vault := by
  rw [execLpiExitComplete] at h; rw [run_vault h]
  generalize s.chip = c
  repeat' (first | with_reducible rfl | simp only [↓vault_mk, ↓vault_sec, ↓vault_fw, ↓vault_secFw, ↓vault_ite, ite_self, eq_self, implies_true, ↓Chip.setLink_vault, ↓Chip.bumpPrt_vault, ↓Chip.injResume_vault, ↓Chip.laneWoken_vault, ↓Chip.setLpiStat_vault, ↓Chip.startNext_vault] | with_reducible refine (keep_forAll Chip.vault _ _ _ ?_).trans ?_ | split | intro _ _ | intro _ | simp only [Chip.setFlag_sec, Chip.setField_sec, Chip.setReg_sec, Chip.bump_sec, Chip.setFlag_fw, Chip.setField_fw, Chip.setReg_fw, Chip.bump_fw])
theorem execLpiReqRx_house {p : LPort} {s : State} {t : State} (h : execLpiReqRx p s = .next t) : t.chip.house = s.chip.house := by
  rw [execLpiReqRx] at h; rw [run_house h]
  generalize s.chip = c
  repeat' (first | with_reducible rfl | simp only [↓house_mk, ↓house_ite, ite_self, eq_self, implies_true, ↓Chip.lpiReq_house] | split)
theorem execLpiReqRx_vault {p : LPort} {s t : State} (h : execLpiReqRx p s = .next t) : t.chip.vault = s.chip.vault := by
  rw [execLpiReqRx] at h; rw [run_vault h]
  generalize s.chip = c
  repeat' (first | with_reducible rfl | simp only [↓vault_mk, ↓vault_sec, ↓vault_fw, ↓vault_secFw, ↓vault_ite, ite_self, eq_self, implies_true, ↓Chip.lpiReq_vault] | split | simp only [Chip.setFlag_sec, Chip.setField_sec, Chip.setReg_sec, Chip.bump_sec, Chip.setFlag_fw, Chip.setField_fw, Chip.setReg_fw, Chip.bump_fw])
theorem execLpiPartnerWakeRx_house {p : LPort} {s : State} {t : State} (h : execLpiPartnerWakeRx p s = .next t) : t.chip.house = s.chip.house := by
  rw [execLpiPartnerWakeRx] at h; rw [run_house h]
  generalize s.chip = c
  repeat' (first | with_reducible rfl | simp only [↓house_mk, ↓house_ite, ite_self, eq_self, implies_true, ↓Chip.lpiPartnerWake_house] | split)
theorem execLpiPartnerWakeRx_vault {p : LPort} {s t : State} (h : execLpiPartnerWakeRx p s = .next t) : t.chip.vault = s.chip.vault := by
  rw [execLpiPartnerWakeRx] at h; rw [run_vault h]
  generalize s.chip = c
  repeat' (first | with_reducible rfl | simp only [↓vault_mk, ↓vault_sec, ↓vault_fw, ↓vault_secFw, ↓vault_ite, ite_self, eq_self, implies_true, ↓Chip.lpiPartnerWake_vault] | split | simp only [Chip.setFlag_sec, Chip.setField_sec, Chip.setReg_sec, Chip.bump_sec, Chip.setFlag_fw, Chip.setField_fw, Chip.setReg_fw, Chip.bump_fw])
theorem execLpiRefresh_house {p : LPort} {s : State} {t : State} (h : execLpiRefresh p s = .next t) : t.chip.house = s.chip.house := by
  rw [execLpiRefresh] at h; rw [run_house h]
  generalize s.chip = c
  repeat' (first | with_reducible rfl | simp only [↓house_mk, ↓house_ite, ite_self, eq_self, implies_true, ↓Chip.lpiRefresh_house] | split)
theorem execLpiRefresh_vault {p : LPort} {s t : State} (h : execLpiRefresh p s = .next t) : t.chip.vault = s.chip.vault := by
  rw [execLpiRefresh] at h; rw [run_vault h]
  generalize s.chip = c
  repeat' (first | with_reducible rfl | simp only [↓vault_mk, ↓vault_sec, ↓vault_fw, ↓vault_secFw, ↓vault_ite, ite_self, eq_self, implies_true, ↓Chip.lpiRefresh_vault] | split | simp only [Chip.setFlag_sec, Chip.setField_sec, Chip.setReg_sec, Chip.bump_sec, Chip.setFlag_fw, Chip.setField_fw, Chip.setReg_fw, Chip.bump_fw])
theorem execLnkCtrlWrite_house {d : PDie} {v : W32} {s : State} {t : State} (h : execLnkCtrlWrite d v s = .next t) : t.chip.house = s.chip.house := by
  rw [execLnkCtrlWrite] at h; rw [run_house h]
  generalize s.chip = c
  repeat' (first | with_reducible rfl | simp only [↓house_mk, ↓house_ite, ite_self, eq_self, implies_true, ↓Chip.lnkCtrlWrite_house] | split)
theorem execLnkCtrlWrite_vault {d : PDie} {v : W32} {s t : State} (h : execLnkCtrlWrite d v s = .next t) : t.chip.vault = s.chip.vault := by
  rw [execLnkCtrlWrite] at h; rw [run_vault h]
  generalize s.chip = c
  repeat' (first | with_reducible rfl | simp only [↓vault_mk, ↓vault_sec, ↓vault_fw, ↓vault_secFw, ↓vault_ite, ite_self, eq_self, implies_true, ↓Chip.lnkCtrlWrite_vault] | split | simp only [Chip.setFlag_sec, Chip.setField_sec, Chip.setReg_sec, Chip.bump_sec, Chip.setFlag_fw, Chip.setField_fw, Chip.setReg_fw, Chip.bump_fw])
theorem execLnkVlBufWrite_house {d : PDie} {vl : Fin 6} {v : W32} {s : State} {t : State} (h : execLnkVlBufWrite d vl v s = .next t) : t.chip.house = s.chip.house := by
  rw [execLnkVlBufWrite] at h; rw [run_house h]
  generalize s.chip = c
  repeat' (first | with_reducible rfl | simp only [↓house_mk, ↓house_ite, ite_self, eq_self, implies_true, ↓Chip.vlWrite_house] | split)
theorem execLnkVlBufWrite_vault {d : PDie} {vl : Fin 6} {v : W32} {s t : State} (h : execLnkVlBufWrite d vl v s = .next t) : t.chip.vault = s.chip.vault := by
  rw [execLnkVlBufWrite] at h; rw [run_vault h]
  generalize s.chip = c
  repeat' (first | with_reducible rfl | simp only [↓vault_mk, ↓vault_sec, ↓vault_fw, ↓vault_secFw, ↓vault_ite, ite_self, eq_self, implies_true, ↓Chip.vlWrite_vault] | split | simp only [Chip.setFlag_sec, Chip.setField_sec, Chip.setReg_sec, Chip.bump_sec, Chip.setFlag_fw, Chip.setField_fw, Chip.setReg_fw, Chip.bump_fw])
theorem execLnkVlBufWrite_plane {d : PDie} {vl : Fin 6} {v : W32} {s : State} {t : State} (h : execLnkVlBufWrite d vl v s = .next t) : t.chip.plane = s.chip.plane := by
  rw [execLnkVlBufWrite] at h; rw [run_plane h]
  generalize s.chip = c
  repeat' (first | with_reducible rfl | simp only [↓plane_mk, ↓plane_ite, ite_self, eq_self, implies_true, ↓Chip.vlWrite_plane] | split)
theorem execPauseFrameRx_house {p : LPort} {s : State} {t : State} (h : execPauseFrameRx p s = .next t) : t.chip.house = s.chip.house := by
  rw [execPauseFrameRx] at h; rw [run_house h]
  generalize s.chip = c
  repeat' (first | with_reducible rfl | simp only [↓house_mk, ↓house_ite, ite_self, eq_self, implies_true, ↓Chip.bumpLnk_house] | split)
theorem execPauseFrameRx_vault {p : LPort} {s t : State} (h : execPauseFrameRx p s = .next t) : t.chip.vault = s.chip.vault := by
  rw [execPauseFrameRx] at h; rw [run_vault h]
  generalize s.chip = c
  repeat' (first | with_reducible rfl | simp only [↓vault_mk, ↓vault_sec, ↓vault_fw, ↓vault_secFw, ↓vault_ite, ite_self, eq_self, implies_true, ↓Chip.bumpLnk_vault] | split | simp only [Chip.setFlag_sec, Chip.setField_sec, Chip.setReg_sec, Chip.bump_sec, Chip.setFlag_fw, Chip.setField_fw, Chip.setReg_fw, Chip.bump_fw])
theorem execPauseFrameRx_plane {p : LPort} {s : State} {t : State} (h : execPauseFrameRx p s = .next t) : t.chip.plane = s.chip.plane := by
  rw [execPauseFrameRx] at h; rw [run_plane h]
  generalize s.chip = c
  repeat' (first | with_reducible rfl | simp only [↓plane_mk, ↓plane_ite, ite_self, eq_self, implies_true, ↓Chip.bumpLnk_plane] | split)
theorem execPfcFrameRx_house {p : LPort} {enable : BitVec 8} {quanta : BitVec 128} {s t : State} (h : execPfcFrameRx p enable quanta s = .next t) : t.chip.house = s.chip.house := by
  rw [execPfcFrameRx] at h; rw [run_house h]
  generalize s.chip = c
  repeat' (first | with_reducible rfl | simp only [↓house_mk, ↓house_ite, ite_self, eq_self, implies_true, ↓Chip.pfcRx_house] | split)
theorem execPfcFrameRx_vault {p : LPort} {enable : BitVec 8} {quanta : BitVec 128} {s t : State} (h : execPfcFrameRx p enable quanta s = .next t) : t.chip.vault = s.chip.vault := by
  rw [execPfcFrameRx] at h; rw [run_vault h]
  generalize s.chip = c
  repeat' (first | with_reducible rfl | simp only [↓vault_mk, ↓vault_sec, ↓vault_fw, ↓vault_secFw, ↓vault_ite, ite_self, eq_self, implies_true, ↓Chip.pfcRx_vault] | split | simp only [Chip.setFlag_sec, Chip.setField_sec, Chip.setReg_sec, Chip.bump_sec, Chip.setFlag_fw, Chip.setField_fw, Chip.setReg_fw, Chip.bump_fw])
theorem execFecUncorrBetweenFrames_house {p : LPort} {s : State} {t : State} (h : execFecUncorrBetweenFrames p s = .next t) : t.chip.house = s.chip.house := by
  rw [execFecUncorrBetweenFrames] at h; rw [run_house h]
  generalize s.chip = c
  repeat' (first | with_reducible rfl | simp only [↓house_mk, ↓house_ite, ite_self, eq_self, implies_true, ↓Chip.bumpLnk_house] | split)
theorem execFecUncorrBetweenFrames_vault {p : LPort} {s t : State} (h : execFecUncorrBetweenFrames p s = .next t) : t.chip.vault = s.chip.vault := by
  rw [execFecUncorrBetweenFrames] at h; rw [run_vault h]
  generalize s.chip = c
  repeat' (first | with_reducible rfl | simp only [↓vault_mk, ↓vault_sec, ↓vault_fw, ↓vault_secFw, ↓vault_ite, ite_self, eq_self, implies_true, ↓Chip.bumpLnk_vault] | split | simp only [Chip.setFlag_sec, Chip.setField_sec, Chip.setReg_sec, Chip.bump_sec, Chip.setFlag_fw, Chip.setField_fw, Chip.setReg_fw, Chip.bump_fw])
theorem execFecUncorrBetweenFrames_plane {p : LPort} {s : State} {t : State} (h : execFecUncorrBetweenFrames p s = .next t) : t.chip.plane = s.chip.plane := by
  rw [execFecUncorrBetweenFrames] at h; rw [run_plane h]
  generalize s.chip = c
  repeat' (first | with_reducible rfl | simp only [↓plane_mk, ↓plane_ite, ite_self, eq_self, implies_true, ↓Chip.bumpLnk_plane] | split)
theorem execAutoNegotiation_house {p : LPort} {partnerLpi accepts : Bool} {s : State} {t : State} (h : execAutoNegotiation p partnerLpi accepts s = .next t) : t.chip.house = s.chip.house := by
  rw [execAutoNegotiation] at h; rw [run_house h]
  generalize s.chip = c
  repeat' (first | with_reducible rfl | simp only [↓house_mk, ↓house_ite, ite_self, eq_self, implies_true, ↓Chip.setLink_house, ↓Chip.setLpiStat_house] | split)
theorem execAutoNegotiation_vault {p : LPort} {partnerLpi : Bool} {accepts : Bool} {s t : State} (h : execAutoNegotiation p partnerLpi accepts s = .next t) : t.chip.vault = s.chip.vault := by
  rw [execAutoNegotiation] at h; rw [run_vault h]
  generalize s.chip = c
  repeat' (first | with_reducible rfl | simp only [↓vault_mk, ↓vault_sec, ↓vault_fw, ↓vault_secFw, ↓vault_ite, ite_self, eq_self, implies_true, ↓Chip.setLink_vault, ↓Chip.setLpiStat_vault] | split | simp only [Chip.setFlag_sec, Chip.setField_sec, Chip.setReg_sec, Chip.bump_sec, Chip.setFlag_fw, Chip.setField_fw, Chip.setReg_fw, Chip.bump_fw])
theorem execMemoryFrame_house {p : LPort} {f : Frame} {age : Nat} {s : State} {t : State} (h : execMemoryFrame p f age s = .next t) : t.chip.house = s.chip.house := by
  rw [execMemoryFrame] at h; rw [run_house h]
  generalize s.chip = c
  repeat' (first | with_reducible rfl | simp only [↓house_mk, ↓house_ite, ite_self, eq_self, implies_true, ↓Chip.memoryRx_house])
theorem execMemoryFrame_vault {p : LPort} {f : Frame} {age : Nat} {s t : State} (h : execMemoryFrame p f age s = .next t) : t.chip.vault = s.chip.vault := by
  rw [execMemoryFrame] at h; rw [run_vault h]
  generalize s.chip = c
  repeat' (first | with_reducible rfl | simp only [↓vault_mk, ↓vault_sec, ↓vault_fw, ↓vault_secFw, ↓vault_ite, ite_self, eq_self, implies_true, ↓Chip.memoryRx_vault] | split | simp only [Chip.setFlag_sec, Chip.setField_sec, Chip.setReg_sec, Chip.bump_sec, Chip.setFlag_fw, Chip.setField_fw, Chip.setReg_fw, Chip.bump_fw])
theorem execMemoryPut_house {p : LPort} {f : Frame} {age : Nat} {s t : State} (h : execMemoryPut p f age s = .next t) : t.chip.house = s.chip.house := by
  rw [execMemoryPut] at h; rw [run_house h]
  generalize s.chip = c
  repeat' (first | with_reducible rfl | simp only [↓house_mk, ↓house_ite, ite_self, eq_self, implies_true, ↓Chip.receive_house, ↓Chip.step5_house, ↓Chip.putTake_house] | with_reducible refine (Chip.receive_house _ _ _ _ _ ?_).trans ?_ | with_reducible refine (Chip.step5_house _ _ _ _ _ _ ?_).trans ?_ | split | intro _ _ | intro _)
theorem execMemoryPut_vault {p : LPort} {f : Frame} {age : Nat} {s t : State} (h : execMemoryPut p f age s = .next t) : t.chip.vault = s.chip.vault := by
  rw [execMemoryPut] at h; rw [run_vault h]
  generalize s.chip = c
  repeat' (first | with_reducible rfl | simp only [↓vault_mk, ↓vault_sec, ↓vault_fw, ↓vault_secFw, ↓vault_ite, ite_self, eq_self, implies_true, ↓Chip.receive_vault, ↓Chip.step5_vault, ↓Chip.putTake_vault] | with_reducible refine (Chip.receive_vault _ _ _ _ _ ?_).trans ?_ | with_reducible refine (Chip.step5_vault _ _ _ _ _ _ ?_).trans ?_ | split | intro _ _ | intro _ | simp only [Chip.setFlag_sec, Chip.setField_sec, Chip.setReg_sec, Chip.bump_sec, Chip.setFlag_fw, Chip.setField_fw, Chip.setReg_fw, Chip.bump_fw])
theorem execPutCompletion_house {p : LPort} {f : Frame} {age : Nat} {s t : State} (h : execPutCompletion p f age s = .next t) : t.chip.house = s.chip.house := by
  rw [execPutCompletion] at h; rw [run_house h]
  generalize s.chip = c
  repeat' (first | with_reducible rfl | simp only [↓house_mk, ↓house_ite, ite_self, eq_self, implies_true, ↓Chip.atDispatch_house, ↓Chip.receive_house, ↓Chip.step5_house, ↓Chip.putAnswered_house] | with_reducible refine (pair_house_atDispatch (by assumption)).trans ?_ | with_reducible refine (Chip.receive_house _ _ _ _ _ ?_).trans ?_ | with_reducible refine (Chip.step5_house _ _ _ _ _ _ ?_).trans ?_ | split | intro _ _ | intro _)
theorem execPutCompletion_vault {p : LPort} {f : Frame} {age : Nat} {s t : State} (h : execPutCompletion p f age s = .next t) : t.chip.vault = s.chip.vault := by
  rw [execPutCompletion] at h; rw [run_vault h]
  generalize s.chip = c
  repeat' (first | with_reducible rfl | simp only [↓vault_mk, ↓vault_sec, ↓vault_fw, ↓vault_secFw, ↓vault_ite, ite_self, eq_self, implies_true, ↓Chip.atDispatch_vault, ↓Chip.receive_vault, ↓Chip.step5_vault, ↓Chip.putAnswered_vault] | with_reducible refine (pair_vault_atDispatch (by assumption)).trans ?_ | with_reducible refine (Chip.receive_vault _ _ _ _ _ ?_).trans ?_ | with_reducible refine (Chip.step5_vault _ _ _ _ _ _ ?_).trans ?_ | split | intro _ _ | intro _ | simp only [Chip.setFlag_sec, Chip.setField_sec, Chip.setReg_sec, Chip.bump_sec, Chip.setFlag_fw, Chip.setField_fw, Chip.setReg_fw, Chip.bump_fw])
theorem execPutCounterTimeout_house {d : PDie} {ctr : Fin 2048} {s : State} {t : State} (h : execPutCounterTimeout d ctr s = .next t) : t.chip.house = s.chip.house := by
  rw [execPutCounterTimeout] at h; rw [run_house h]
  generalize s.chip = c
  repeat' (first | with_reducible rfl | simp only [↓house_mk, ↓house_ite, ite_self, eq_self, implies_true, ↓Chip.putExpire_house] | split)
theorem execPutCounterTimeout_vault {d : PDie} {ctr : Fin 2048} {s t : State} (h : execPutCounterTimeout d ctr s = .next t) : t.chip.vault = s.chip.vault := by
  rw [execPutCounterTimeout] at h; rw [run_vault h]
  generalize s.chip = c
  repeat' (first | with_reducible rfl | simp only [↓vault_mk, ↓vault_sec, ↓vault_fw, ↓vault_secFw, ↓vault_ite, ite_self, eq_self, implies_true, ↓Chip.putExpire_vault] | split | simp only [Chip.setFlag_sec, Chip.setField_sec, Chip.setReg_sec, Chip.bump_sec, Chip.setFlag_fw, Chip.setField_fw, Chip.setReg_fw, Chip.bump_fw])
theorem execBulkFrame_house {p : LPort} {f : Frame} {age : Nat} {s : State} {t : State} (h : execBulkFrame p f age s = .next t) : t.chip.house = s.chip.house := by
  rw [execBulkFrame] at h; rw [run_house h]
  generalize s.chip = c
  repeat' (first | with_reducible rfl | simp only [↓house_mk, ↓house_ite, ite_self, eq_self, implies_true, ↓Chip.forwardRx_house])
theorem execBulkFrame_vault {p : LPort} {f : Frame} {age : Nat} {s t : State} (h : execBulkFrame p f age s = .next t) : t.chip.vault = s.chip.vault := by
  rw [execBulkFrame] at h; rw [run_vault h]
  generalize s.chip = c
  repeat' (first | with_reducible rfl | simp only [↓vault_mk, ↓vault_sec, ↓vault_fw, ↓vault_secFw, ↓vault_ite, ite_self, eq_self, implies_true, ↓Chip.forwardRx_vault] | split | simp only [Chip.setFlag_sec, Chip.setField_sec, Chip.setReg_sec, Chip.bump_sec, Chip.setFlag_fw, Chip.setField_fw, Chip.setReg_fw, Chip.bump_fw])
theorem execEthernetFrame_house {p : LPort} {bytes : List Byte} {fecUncorr : Nat} {whole : Bool} {buf : BufRead} {age : Nat} {s t : State} (h : execEthernetFrame p bytes fecUncorr whole buf age s = .next t) : t.chip.house = s.chip.house := by
  rw [execEthernetFrame] at h; rw [run_house h]
  generalize s.chip = c
  repeat' (first | with_reducible rfl | simp only [↓house_mk, ↓house_ite, ite_self, eq_self, implies_true, ↓Chip.ethFrame_house] | split)
theorem execEthernetFrame_vault {p : LPort} {bytes : List Byte} {fecUncorr : Nat} {whole : Bool} {buf : BufRead} {age : Nat} {s t : State} (h : execEthernetFrame p bytes fecUncorr whole buf age s = .next t) : t.chip.vault = s.chip.vault := by
  rw [execEthernetFrame] at h; rw [run_vault h]
  generalize s.chip = c
  repeat' (first | with_reducible rfl | simp only [↓vault_mk, ↓vault_sec, ↓vault_fw, ↓vault_secFw, ↓vault_ite, ite_self, eq_self, implies_true, ↓Chip.ethFrame_vault] | split | simp only [Chip.setFlag_sec, Chip.setField_sec, Chip.setReg_sec, Chip.bump_sec, Chip.setFlag_fw, Chip.setField_fw, Chip.setReg_fw, Chip.bump_fw])
theorem execPtpMessageRx_house {p : LPort} {f : Frame} {age : Nat} {s : State} {t : State} (h : execPtpMessageRx p f age s = .next t) : t.chip.house = s.chip.house := by
  rw [execPtpMessageRx] at h; rw [run_house h]
  generalize s.chip = c
  repeat' (first | with_reducible rfl | simp only [↓house_mk, ↓house_ite, ite_self, eq_self, implies_true, ↓Chip.ptpRx_house])
theorem execPtpMessageRx_vault {p : LPort} {f : Frame} {age : Nat} {s t : State} (h : execPtpMessageRx p f age s = .next t) : t.chip.vault = s.chip.vault := by
  rw [execPtpMessageRx] at h; rw [run_vault h]
  generalize s.chip = c
  repeat' (first | with_reducible rfl | simp only [↓vault_mk, ↓vault_sec, ↓vault_fw, ↓vault_secFw, ↓vault_ite, ite_self, eq_self, implies_true, ↓Chip.ptpRx_vault] | split | simp only [Chip.setFlag_sec, Chip.setField_sec, Chip.setReg_sec, Chip.bump_sec, Chip.setFlag_fw, Chip.setField_fw, Chip.setReg_fw, Chip.bump_fw])
theorem execControlFrameForward_house {p : LPort} {f : Frame} {age : Nat} {s : State} {t : State} (h : execControlFrameForward p f age s = .next t) : t.chip.house = s.chip.house := by
  rw [execControlFrameForward] at h; rw [run_house h]
  generalize s.chip = c
  repeat' (first | with_reducible rfl | simp only [↓house_mk, ↓house_ite, ite_self, eq_self, implies_true, ↓Chip.forwardRx_house])
theorem execControlFrameForward_vault {p : LPort} {f : Frame} {age : Nat} {s t : State} (h : execControlFrameForward p f age s = .next t) : t.chip.vault = s.chip.vault := by
  rw [execControlFrameForward] at h; rw [run_vault h]
  generalize s.chip = c
  repeat' (first | with_reducible rfl | simp only [↓vault_mk, ↓vault_sec, ↓vault_fw, ↓vault_secFw, ↓vault_ite, ite_self, eq_self, implies_true, ↓Chip.forwardRx_vault] | split | simp only [Chip.setFlag_sec, Chip.setField_sec, Chip.setReg_sec, Chip.bump_sec, Chip.setFlag_fw, Chip.setField_fw, Chip.setReg_fw, Chip.bump_fw])
theorem execResultFrame_house {p : LPort} {f : Frame} {age : Nat} {s : State} {t : State} (h : execResultFrame p f age s = .next t) : t.chip.house = s.chip.house := by
  rw [execResultFrame] at h; rw [run_house h]
  generalize s.chip = c
  repeat' (first | with_reducible rfl | simp only [↓house_mk, ↓house_ite, ite_self, eq_self, implies_true, ↓Chip.forwardRx_house])
theorem execResultFrame_vault {p : LPort} {f : Frame} {age : Nat} {s t : State} (h : execResultFrame p f age s = .next t) : t.chip.vault = s.chip.vault := by
  rw [execResultFrame] at h; rw [run_vault h]
  generalize s.chip = c
  repeat' (first | with_reducible rfl | simp only [↓vault_mk, ↓vault_sec, ↓vault_fw, ↓vault_secFw, ↓vault_ite, ite_self, eq_self, implies_true, ↓Chip.forwardRx_vault] | split | simp only [Chip.setFlag_sec, Chip.setField_sec, Chip.setReg_sec, Chip.bump_sec, Chip.setFlag_fw, Chip.setField_fw, Chip.setReg_fw, Chip.bump_fw])
theorem execCellRefcountDecrement_house {b : BDie} {cell : BitVec 18} {gen : BitVec 16} {s t : State} (h : execCellRefcountDecrement b cell gen s = .next t) : t.chip.house = s.chip.house := by
  rw [execCellRefcountDecrement] at h; rw [run_house h]
  generalize s.chip = c
  repeat' (first | with_reducible rfl | simp only [↓house_mk, ↓house_ite, ite_self, eq_self, implies_true, ↓Chip.cellDecr_house, ↓Chip.txRead_house] | split)
theorem execCellRefcountDecrement_vault {b : BDie} {cell : BitVec 18} {gen : BitVec 16} {s t : State} (h : execCellRefcountDecrement b cell gen s = .next t) : t.chip.vault = s.chip.vault := by
  rw [execCellRefcountDecrement] at h; rw [run_vault h]
  generalize s.chip = c
  repeat' (first | with_reducible rfl | simp only [↓vault_mk, ↓vault_sec, ↓vault_fw, ↓vault_secFw, ↓vault_ite, ite_self, eq_self, implies_true, ↓Chip.cellDecr_vault, ↓Chip.txRead_vault] | split | simp only [Chip.setFlag_sec, Chip.setField_sec, Chip.setReg_sec, Chip.bump_sec, Chip.setFlag_fw, Chip.setField_fw, Chip.setReg_fw, Chip.bump_fw])
theorem execFlowShaperRelease_house {d : PDie} {shaper : Fin 512} {s : State} {t : State} (h : execFlowShaperRelease d shaper s = .next t) : t.chip.house = s.chip.house := by
  rw [execFlowShaperRelease] at h; rw [run_house h]
  generalize s.chip = c
  repeat' (first | with_reducible rfl | simp only [↓house_mk, ↓house_ite, ite_self, eq_self, implies_true, ↓Chip.shaperRelease_house] | split)
theorem execFlowShaperRelease_vault {d : PDie} {shaper : Fin 512} {s t : State} (h : execFlowShaperRelease d shaper s = .next t) : t.chip.vault = s.chip.vault := by
  rw [execFlowShaperRelease] at h; rw [run_vault h]
  generalize s.chip = c
  repeat' (first | with_reducible rfl | simp only [↓vault_mk, ↓vault_sec, ↓vault_fw, ↓vault_secFw, ↓vault_ite, ite_self, eq_self, implies_true, ↓Chip.shaperRelease_vault] | split | simp only [Chip.setFlag_sec, Chip.setField_sec, Chip.setReg_sec, Chip.bump_sec, Chip.setFlag_fw, Chip.setField_fw, Chip.setReg_fw, Chip.bump_fw])
theorem execLedgerBatchSend_house {d : CDie} {livery : Liv} {s : State} {t : State} (h : execLedgerBatchSend d livery s = .next t) : t.chip.house = s.chip.house := by
  rw [execLedgerBatchSend] at h; rw [run_house h]
  generalize s.chip = c
  repeat' (first | with_reducible rfl | simp only [↓house_mk, ↓house_ite, ite_self, eq_self, implies_true, ↓Chip.ledgerSend_house] | split)
theorem execLedgerBatchSend_vault {d : CDie} {livery : Liv} {s t : State} (h : execLedgerBatchSend d livery s = .next t) : t.chip.vault = s.chip.vault := by
  rw [execLedgerBatchSend] at h; rw [run_vault h]
  generalize s.chip = c
  repeat' (first | with_reducible rfl | simp only [↓vault_mk, ↓vault_sec, ↓vault_fw, ↓vault_secFw, ↓vault_ite, ite_self, eq_self, implies_true, ↓Chip.ledgerSend_vault] | split | simp only [Chip.setFlag_sec, Chip.setField_sec, Chip.setReg_sec, Chip.bump_sec, Chip.setFlag_fw, Chip.setField_fw, Chip.setReg_fw, Chip.bump_fw])
theorem execDigestBatchSend_house {livery : Liv} {s : State} {t : State} (h : execDigestBatchSend livery s = .next t) : t.chip.house = s.chip.house := by
  rw [execDigestBatchSend] at h; rw [run_house h]
  generalize s.chip = c
  repeat' (first | with_reducible rfl | simp only [↓house_mk, ↓house_ite, ite_self, eq_self, implies_true, ↓Chip.digestSend_house] | split)
theorem execDigestBatchSend_vault {livery : Liv} {s t : State} (h : execDigestBatchSend livery s = .next t) : t.chip.vault = s.chip.vault := by
  rw [execDigestBatchSend] at h; rw [run_vault h]
  generalize s.chip = c
  repeat' (first | with_reducible rfl | simp only [↓vault_mk, ↓vault_sec, ↓vault_fw, ↓vault_secFw, ↓vault_ite, ite_self, eq_self, implies_true, ↓Chip.digestSend_vault] | split | simp only [Chip.setFlag_sec, Chip.setField_sec, Chip.setReg_sec, Chip.bump_sec, Chip.setFlag_fw, Chip.setField_fw, Chip.setReg_fw, Chip.bump_fw])
theorem execDigestRecordsRx_house {p : LPort} {f : Frame} {age : Nat} {s t : State} (h : execDigestRecordsRx p f age s = .next t) : t.chip.house = s.chip.house := by
  rw [execDigestRecordsRx] at h; rw [run_house h]
  generalize s.chip = c
  repeat' (first | with_reducible rfl | simp only [↓house_mk, ↓house_ite, ite_self, eq_self, implies_true, ↓Chip.digestRx_house] | split)
theorem execDigestRecordsRx_vault {p : LPort} {f : Frame} {age : Nat} {s t : State} (h : execDigestRecordsRx p f age s = .next t) : t.chip.vault = s.chip.vault := by
  rw [execDigestRecordsRx] at h; rw [run_vault h]
  generalize s.chip = c
  repeat' (first | with_reducible rfl | simp only [↓vault_mk, ↓vault_sec, ↓vault_fw, ↓vault_secFw, ↓vault_ite, ite_self, eq_self, implies_true, ↓Chip.digestRx_vault] | split | simp only [Chip.setFlag_sec, Chip.setField_sec, Chip.setReg_sec, Chip.bump_sec, Chip.setFlag_fw, Chip.setField_fw, Chip.setReg_fw, Chip.bump_fw])
theorem execDigestUnmatchedTimeout_house {s : State} {t : State} (h : execDigestUnmatchedTimeout s = .next t) : t.chip.house = s.chip.house := by
  rw [execDigestUnmatchedTimeout] at h; rw [run_house h]
  generalize s.chip = c
  repeat' (first | with_reducible rfl | simp only [↓house_mk, ↓house_ite, ite_self, eq_self, implies_true, ↓Chip.digestTimeouts_house] | split)
theorem execDigestUnmatchedTimeout_vault  {s t : State} (h : execDigestUnmatchedTimeout s = .next t) : t.chip.vault = s.chip.vault := by
  rw [execDigestUnmatchedTimeout] at h; rw [run_vault h]
  generalize s.chip = c
  repeat' (first | with_reducible rfl | simp only [↓vault_mk, ↓vault_sec, ↓vault_fw, ↓vault_secFw, ↓vault_ite, ite_self, eq_self, implies_true, ↓Chip.digestTimeouts_vault] | split | simp only [Chip.setFlag_sec, Chip.setField_sec, Chip.setReg_sec, Chip.bump_sec, Chip.setFlag_fw, Chip.setField_fw, Chip.setReg_fw, Chip.bump_fw])
theorem execAbortWaveRx_house {p : LPort} {f : Frame} {age : Nat} {s t : State} (h : execAbortWaveRx p f age s = .next t) : t.chip.house = s.chip.house := by
  rw [execAbortWaveRx] at h; rw [run_house h]
  generalize s.chip = c
  repeat' (first | with_reducible rfl | simp only [↓house_mk, ↓house_ite, ite_self, eq_self, implies_true, ↓Chip.mirrorIn_house, ↓Chip.receive_house, ↓Chip.step5_house, ↓Chip.waveTake_house] | with_reducible refine (Chip.receive_house _ _ _ _ _ ?_).trans ?_ | with_reducible refine (Chip.step5_house _ _ _ _ _ _ ?_).trans ?_ | split | intro _ _ | intro _)
theorem execAbortWaveRx_vault {p : LPort} {f : Frame} {age : Nat} {s t : State} (h : execAbortWaveRx p f age s = .next t) : t.chip.vault = s.chip.vault := by
  rw [execAbortWaveRx] at h; rw [run_vault h]
  generalize s.chip = c
  repeat' (first | with_reducible rfl | simp only [↓vault_mk, ↓vault_sec, ↓vault_fw, ↓vault_secFw, ↓vault_ite, ite_self, eq_self, implies_true, ↓Chip.mirrorIn_vault, ↓Chip.receive_vault, ↓Chip.step5_vault, ↓Chip.waveTake_vault] | with_reducible refine (Chip.receive_vault _ _ _ _ _ ?_).trans ?_ | with_reducible refine (Chip.step5_vault _ _ _ _ _ _ ?_).trans ?_ | split | intro _ _ | intro _ | simp only [Chip.setFlag_sec, Chip.setField_sec, Chip.setReg_sec, Chip.bump_sec, Chip.setFlag_fw, Chip.setField_fw, Chip.setReg_fw, Chip.bump_fw])
theorem execAbortWaveRepeat_house {livery : Liv} {entry : BitVec 16} {step : W32} {s : State} {t : State} (h : execAbortWaveRepeat livery entry step s = .next t) : t.chip.house = s.chip.house := by
  rw [execAbortWaveRepeat] at h; rw [run_house h]
  generalize s.chip = c
  repeat' (first | with_reducible rfl | simp only [↓house_mk, ↓house_ite, ite_self, eq_self, implies_true, ↓Chip.repeatWaves_house] | split)
theorem execAbortWaveRepeat_vault {livery : Liv} {entry : BitVec 16} {step : W32} {s t : State} (h : execAbortWaveRepeat livery entry step s = .next t) : t.chip.vault = s.chip.vault := by
  rw [execAbortWaveRepeat] at h; rw [run_vault h]
  generalize s.chip = c
  repeat' (first | with_reducible rfl | simp only [↓vault_mk, ↓vault_sec, ↓vault_fw, ↓vault_secFw, ↓vault_ite, ite_self, eq_self, implies_true, ↓Chip.repeatWaves_vault] | split | simp only [Chip.setFlag_sec, Chip.setField_sec, Chip.setReg_sec, Chip.bump_sec, Chip.setFlag_fw, Chip.setField_fw, Chip.setReg_fw, Chip.bump_fw])
theorem execAbortDrainDone_house {d : CDie} {slot : Slot} {s : State} {t : State} (h : execAbortDrainDone d slot s = .next t) : t.chip.house = s.chip.house := by
  rw [execAbortDrainDone] at h; rw [run_house h]
  generalize s.chip = c
  repeat' (first | with_reducible rfl | simp only [↓house_mk, ↓house_ite, ite_self, eq_self, implies_true, ↓Chip.freeSlot_house] | split)
theorem execAbortDrainDone_vault {d : CDie} {slot : Slot} {s t : State} (h : execAbortDrainDone d slot s = .next t) : t.chip.vault = s.chip.vault := by
  rw [execAbortDrainDone] at h; rw [run_vault h]
  generalize s.chip = c
  repeat' (first | with_reducible rfl | simp only [↓vault_mk, ↓vault_sec, ↓vault_fw, ↓vault_secFw, ↓vault_ite, ite_self, eq_self, implies_true, ↓Chip.freeSlot_vault] | split | simp only [Chip.setFlag_sec, Chip.setField_sec, Chip.setReg_sec, Chip.bump_sec, Chip.setFlag_fw, Chip.setField_fw, Chip.setReg_fw, Chip.bump_fw])
theorem execAbortMarkExpiry_house {d : CDie} {s : State} {t : State} (h : execAbortMarkExpiry d s = .next t) : t.chip.house = s.chip.house := by
  rw [execAbortMarkExpiry] at h; rw [run_house h]
  generalize s.chip = c
  repeat' (first | with_reducible rfl | simp only [↓house_mk, ↓house_ite, ite_self, eq_self, implies_true, ↓Chip.setCch_house] | split)
theorem execAbortMarkExpiry_vault {d : CDie} {s t : State} (h : execAbortMarkExpiry d s = .next t) : t.chip.vault = s.chip.vault := by
  rw [execAbortMarkExpiry] at h; rw [run_vault h]
  generalize s.chip = c
  repeat' (first | with_reducible rfl | simp only [↓vault_mk, ↓vault_sec, ↓vault_fw, ↓vault_secFw, ↓vault_ite, ite_self, eq_self, implies_true, ↓Chip.setCch_vault] | split | simp only [Chip.setFlag_sec, Chip.setField_sec, Chip.setReg_sec, Chip.bump_sec, Chip.setFlag_fw, Chip.setField_fw, Chip.setReg_fw, Chip.bump_fw])
theorem execRouteSwapCancel_house {s : State} {t : State} (h : execRouteSwapCancel s = .next t) : t.chip.house = s.chip.house := by
  rw [execRouteSwapCancel] at h; rw [run_house h]
  generalize s.chip = c
  repeat' (first | with_reducible rfl | simp only [↓house_mk, ↓house_ite, ite_self, eq_self, implies_true, ↓Chip.swapCancel_house] | split)
theorem execRouteSwapCancel_vault  {s t : State} (h : execRouteSwapCancel s = .next t) : t.chip.vault = s.chip.vault := by
  rw [execRouteSwapCancel] at h; rw [run_vault h]
  generalize s.chip = c
  repeat' (first | with_reducible rfl | simp only [↓vault_mk, ↓vault_sec, ↓vault_fw, ↓vault_secFw, ↓vault_ite, ite_self, eq_self, implies_true, ↓Chip.swapCancel_vault] | split | simp only [Chip.setFlag_sec, Chip.setField_sec, Chip.setReg_sec, Chip.bump_sec, Chip.setFlag_fw, Chip.setField_fw, Chip.setReg_fw, Chip.bump_fw])
theorem execRouteSwapSwitch_house {s : State} {t : State} (h : execRouteSwapSwitch s = .next t) : t.chip.house = s.chip.house := by
  rw [execRouteSwapSwitch] at h; rw [run_house h]
  generalize s.chip = c
  repeat' (first | with_reducible rfl | simp only [↓house_mk, ↓house_ite, ite_self, eq_self, implies_true, ↓Chip.swapSwitch_house] | split)
theorem execRouteSwapSwitch_vault  {s t : State} (h : execRouteSwapSwitch s = .next t) : t.chip.vault = s.chip.vault := by
  rw [execRouteSwapSwitch] at h; rw [run_vault h]
  generalize s.chip = c
  repeat' (first | with_reducible rfl | simp only [↓vault_mk, ↓vault_sec, ↓vault_fw, ↓vault_secFw, ↓vault_ite, ite_self, eq_self, implies_true, ↓Chip.swapSwitch_vault] | split | simp only [Chip.setFlag_sec, Chip.setField_sec, Chip.setReg_sec, Chip.bump_sec, Chip.setFlag_fw, Chip.setField_fw, Chip.setReg_fw, Chip.bump_fw])
theorem execPackerFirstFrame_house {d : CDie} {slot : Slot} {out : Fin 4} {s : State} {t : State} (h : execPackerFirstFrame d slot out s = .next t) : t.chip.house = s.chip.house := by
  rw [execPackerFirstFrame] at h; rw [run_house h]
  generalize s.chip = c
  repeat' (first | with_reducible rfl | simp only [↓house_mk, ↓house_ite, ite_self, eq_self, implies_true, ↓Chip.packerFirst_house] | split)
theorem execPackerFirstFrame_vault {d : CDie} {slot : Slot} {out : Fin 4} {s t : State} (h : execPackerFirstFrame d slot out s = .next t) : t.chip.vault = s.chip.vault := by
  rw [execPackerFirstFrame] at h; rw [run_vault h]
  generalize s.chip = c
  repeat' (first | with_reducible rfl | simp only [↓vault_mk, ↓vault_sec, ↓vault_fw, ↓vault_secFw, ↓vault_ite, ite_self, eq_self, implies_true, ↓Chip.packerFirst_vault] | split | simp only [Chip.setFlag_sec, Chip.setField_sec, Chip.setReg_sec, Chip.bump_sec, Chip.setFlag_fw, Chip.setField_fw, Chip.setReg_fw, Chip.bump_fw])
theorem execPackerLastFrameSent_house {d : CDie} {slot : Slot} {s : State} {t : State} (h : execPackerLastFrameSent d slot s = .next t) : t.chip.house = s.chip.house := by
  rw [execPackerLastFrameSent] at h; rw [run_house h]
  generalize s.chip = c
  repeat' (first | with_reducible rfl | simp only [↓house_mk, ↓house_ite, ite_self, eq_self, implies_true, ↓Chip.packerDone_house] | split)
theorem execPackerLastFrameSent_vault {d : CDie} {slot : Slot} {s t : State} (h : execPackerLastFrameSent d slot s = .next t) : t.chip.vault = s.chip.vault := by
  rw [execPackerLastFrameSent] at h; rw [run_vault h]
  generalize s.chip = c
  repeat' (first | with_reducible rfl | simp only [↓vault_mk, ↓vault_sec, ↓vault_fw, ↓vault_secFw, ↓vault_ite, ite_self, eq_self, implies_true, ↓Chip.packerDone_vault] | split | simp only [Chip.setFlag_sec, Chip.setField_sec, Chip.setReg_sec, Chip.bump_sec, Chip.setFlag_fw, Chip.setField_fw, Chip.setReg_fw, Chip.bump_fw])
theorem execCollectiveFirstFrame_house {p : LPort} {f : Frame} {age : Nat} {s : State} {t : State} (h : execCollectiveFirstFrame p f age s = .next t) : t.chip.house = s.chip.house := by
  rw [execCollectiveFirstFrame] at h; rw [run_house h]
  generalize s.chip = c
  repeat' (first | with_reducible rfl | simp only [↓house_mk, ↓house_ite, ite_self, eq_self, implies_true, ↓Chip.collectiveFirst_house])
theorem execCollectiveFirstFrame_vault {p : LPort} {f : Frame} {age : Nat} {s t : State} (h : execCollectiveFirstFrame p f age s = .next t) : t.chip.vault = s.chip.vault := by
  rw [execCollectiveFirstFrame] at h; rw [run_vault h]
  generalize s.chip = c
  repeat' (first | with_reducible rfl | simp only [↓vault_mk, ↓vault_sec, ↓vault_fw, ↓vault_secFw, ↓vault_ite, ite_self, eq_self, implies_true, ↓Chip.collectiveFirst_vault] | split | simp only [Chip.setFlag_sec, Chip.setField_sec, Chip.setReg_sec, Chip.bump_sec, Chip.setFlag_fw, Chip.setField_fw, Chip.setReg_fw, Chip.bump_fw])
theorem execContinuationFrame_house {p : LPort} {f : Frame} {age : Nat} {s : State} {t : State} (h : execContinuationFrame p f age s = .next t) : t.chip.house = s.chip.house := by
  rw [execContinuationFrame] at h; rw [run_house h]
  generalize s.chip = c
  repeat' (first | with_reducible rfl | simp only [↓house_mk, ↓house_ite, ite_self, eq_self, implies_true, ↓Chip.continuation_house])
theorem execContinuationFrame_vault {p : LPort} {f : Frame} {age : Nat} {s t : State} (h : execContinuationFrame p f age s = .next t) : t.chip.vault = s.chip.vault := by
  rw [execContinuationFrame] at h; rw [run_vault h]
  generalize s.chip = c
  repeat' (first | with_reducible rfl | simp only [↓vault_mk, ↓vault_sec, ↓vault_fw, ↓vault_secFw, ↓vault_ite, ite_self, eq_self, implies_true, ↓Chip.continuation_vault] | split | simp only [Chip.setFlag_sec, Chip.setField_sec, Chip.setReg_sec, Chip.bump_sec, Chip.setFlag_fw, Chip.setField_fw, Chip.setReg_fw, Chip.bump_fw])
theorem execCollectiveFrameFold_house {d : CDie} {slot : Slot} {p : LPort} {carried : Bool} {serialised : Nat} {rep : FoldReport} {s : State} {t : State} (h : execCollectiveFrameFold d slot p carried serialised rep s = .next t) : t.chip.house = s.chip.house := by
  rw [execCollectiveFrameFold] at h; rw [run_house h]
  generalize s.chip = c
  repeat' (first | with_reducible rfl | simp only [↓house_mk, ↓house_ite, ite_self, eq_self, implies_true, ↓Chip.foldNext_house] | split)
theorem execCollectiveFrameFold_vault {d : CDie} {slot : Slot} {p : LPort} {carried : Bool} {serialised : Nat} {rep : FoldReport} {s t : State} (h : execCollectiveFrameFold d slot p carried serialised rep s = .next t) : t.chip.vault = s.chip.vault := by
  rw [execCollectiveFrameFold] at h; rw [run_vault h]
  generalize s.chip = c
  repeat' (first | with_reducible rfl | simp only [↓vault_mk, ↓vault_sec, ↓vault_fw, ↓vault_secFw, ↓vault_ite, ite_self, eq_self, implies_true, ↓Chip.foldNext_vault] | split | simp only [Chip.setFlag_sec, Chip.setField_sec, Chip.setReg_sec, Chip.bump_sec, Chip.setFlag_fw, Chip.setField_fw, Chip.setReg_fw, Chip.bump_fw])
theorem execSidingRetry_house {d : CDie} {slot : Slot} {elem : Fin 4096} {s : State} {t : State} (h : execSidingRetry d slot elem s = .next t) : t.chip.house = s.chip.house := by
  rw [execSidingRetry] at h; rw [run_house h]
  generalize s.chip = c
  repeat' (first | with_reducible rfl | simp only [↓house_mk, ↓house_ite, ite_self, eq_self, implies_true, ↓Chip.retrySiding_house] | split)
theorem execSidingRetry_vault {d : CDie} {slot : Slot} {elem : Fin 4096} {s t : State} (h : execSidingRetry d slot elem s = .next t) : t.chip.vault = s.chip.vault := by
  rw [execSidingRetry] at h; rw [run_vault h]
  generalize s.chip = c
  repeat' (first | with_reducible rfl | simp only [↓vault_mk, ↓vault_sec, ↓vault_fw, ↓vault_secFw, ↓vault_ite, ite_self, eq_self, implies_true, ↓Chip.retrySiding_vault] | split | simp only [Chip.setFlag_sec, Chip.setField_sec, Chip.setReg_sec, Chip.bump_sec, Chip.setFlag_fw, Chip.setField_fw, Chip.setReg_fw, Chip.bump_fw])
theorem execCoachCreateRetry_house {d : CDie} {k : Nat} {s : State} {t : State} (h : execCoachCreateRetry d k s = .next t) : t.chip.house = s.chip.house := by
  rw [execCoachCreateRetry] at h; rw [run_house h]
  generalize s.chip = c
  repeat' (first | with_reducible rfl | simp only [↓house_mk, ↓house_ite, ite_self, eq_self, implies_true, ↓Chip.retryCreate_house] | split)
theorem execCoachCreateRetry_vault {d : CDie} {k : Nat} {s t : State} (h : execCoachCreateRetry d k s = .next t) : t.chip.vault = s.chip.vault := by
  rw [execCoachCreateRetry] at h; rw [run_vault h]
  generalize s.chip = c
  repeat' (first | with_reducible rfl | simp only [↓vault_mk, ↓vault_sec, ↓vault_fw, ↓vault_secFw, ↓vault_ite, ite_self, eq_self, implies_true, ↓Chip.retryCreate_vault] | split | simp only [Chip.setFlag_sec, Chip.setField_sec, Chip.setReg_sec, Chip.bump_sec, Chip.setFlag_fw, Chip.setField_fw, Chip.setReg_fw, Chip.bump_fw])
theorem execCoachFoldComplete_house {d : CDie} {slot : Slot} {s : State} {t : State} (h : execCoachFoldComplete d slot s = .next t) : t.chip.house = s.chip.house := by
  rw [execCoachFoldComplete] at h; rw [run_house h]
  generalize s.chip = c
  repeat' (first | with_reducible rfl | simp only [↓house_mk, ↓house_ite, ite_self, eq_self, implies_true, ↓Chip.tryPack_house] | split)
theorem execCoachFoldComplete_vault {d : CDie} {slot : Slot} {s t : State} (h : execCoachFoldComplete d slot s = .next t) : t.chip.vault = s.chip.vault := by
  rw [execCoachFoldComplete] at h; rw [run_vault h]
  generalize s.chip = c
  repeat' (first | with_reducible rfl | simp only [↓vault_mk, ↓vault_sec, ↓vault_fw, ↓vault_secFw, ↓vault_ite, ite_self, eq_self, implies_true, ↓Chip.tryPack_vault] | split | simp only [Chip.setFlag_sec, Chip.setField_sec, Chip.setReg_sec, Chip.bump_sec, Chip.setFlag_fw, Chip.setField_fw, Chip.setReg_fw, Chip.bump_fw])
theorem execCoachCutoff_house {d : CDie} {slot : Slot} {s : State} {t : State} (h : execCoachCutoff d slot s = .next t) : t.chip.house = s.chip.house := by
  rw [execCoachCutoff] at h; rw [run_house h]
  generalize s.chip = c
  repeat' (first | with_reducible rfl | simp only [↓house_mk, ↓house_ite, ite_self, eq_self, implies_true, ↓Chip.cutoff_house] | split)
theorem execCoachCutoff_vault {d : CDie} {slot : Slot} {s t : State} (h : execCoachCutoff d slot s = .next t) : t.chip.vault = s.chip.vault := by
  rw [execCoachCutoff] at h; rw [run_vault h]
  generalize s.chip = c
  repeat' (first | with_reducible rfl | simp only [↓vault_mk, ↓vault_sec, ↓vault_fw, ↓vault_secFw, ↓vault_ite, ite_self, eq_self, implies_true, ↓Chip.cutoff_vault] | split | simp only [Chip.setFlag_sec, Chip.setField_sec, Chip.setReg_sec, Chip.bump_sec, Chip.setFlag_fw, Chip.setField_fw, Chip.setReg_fw, Chip.bump_fw])
theorem execSealIntervalEnd_house {d : CDie} {slot : Slot} {s : State} {t : State} (h : execSealIntervalEnd d slot s = .next t) : t.chip.house = s.chip.house := by
  rw [execSealIntervalEnd] at h; rw [run_house h]
  generalize s.chip = c
  repeat' (first | with_reducible rfl | simp only [↓house_mk, ↓house_ite, ite_self, eq_self, implies_true, ↓Chip.tryPack_house] | split)
theorem execSealIntervalEnd_vault {d : CDie} {slot : Slot} {s t : State} (h : execSealIntervalEnd d slot s = .next t) : t.chip.vault = s.chip.vault := by
  rw [execSealIntervalEnd] at h; rw [run_vault h]
  generalize s.chip = c
  repeat' (first | with_reducible rfl | simp only [↓vault_mk, ↓vault_sec, ↓vault_fw, ↓vault_secFw, ↓vault_ite, ite_self, eq_self, implies_true, ↓Chip.tryPack_vault] | split | simp only [Chip.setFlag_sec, Chip.setField_sec, Chip.setReg_sec, Chip.bump_sec, Chip.setFlag_fw, Chip.setField_fw, Chip.setReg_fw, Chip.bump_fw])
theorem execDeadlineMonitor_house {d : CDie} {s : State} {t : State} (h : execDeadlineMonitor d s = .next t) : t.chip.house = s.chip.house := by
  rw [execDeadlineMonitor] at h; rw [run_house h]
  generalize s.chip = c
  repeat' (first | with_reducible rfl | simp only [↓house_mk, ↓house_ite, ite_self, eq_self, implies_true, ↓Chip.monitor_house] | split)
theorem execDeadlineMonitor_vault {d : CDie} {s t : State} (h : execDeadlineMonitor d s = .next t) : t.chip.vault = s.chip.vault := by
  rw [execDeadlineMonitor] at h; rw [run_vault h]
  generalize s.chip = c
  repeat' (first | with_reducible rfl | simp only [↓vault_mk, ↓vault_sec, ↓vault_fw, ↓vault_secFw, ↓vault_ite, ite_self, eq_self, implies_true, ↓Chip.monitor_vault] | split | simp only [Chip.setFlag_sec, Chip.setField_sec, Chip.setReg_sec, Chip.bump_sec, Chip.setFlag_fw, Chip.setField_fw, Chip.setReg_fw, Chip.bump_fw])
theorem execOpenRecordExpiry_house {p : LPort} {s : State} {t : State} (h : execOpenRecordExpiry p s = .next t) : t.chip.house = s.chip.house := by
  rw [execOpenRecordExpiry] at h; rw [run_house h]
  generalize s.chip = c
  repeat' (first | with_reducible rfl | simp only [↓house_mk, ↓house_ite, ite_self, eq_self, implies_true, ↓Chip.setOpenRecs_house] | split)
theorem execOpenRecordExpiry_vault {p : LPort} {s t : State} (h : execOpenRecordExpiry p s = .next t) : t.chip.vault = s.chip.vault := by
  rw [execOpenRecordExpiry] at h; rw [run_vault h]
  generalize s.chip = c
  repeat' (first | with_reducible rfl | simp only [↓vault_mk, ↓vault_sec, ↓vault_fw, ↓vault_secFw, ↓vault_ite, ite_self, eq_self, implies_true, ↓Chip.setOpenRecs_vault] | split | simp only [Chip.setFlag_sec, Chip.setField_sec, Chip.setReg_sec, Chip.bump_sec, Chip.setFlag_fw, Chip.setField_fw, Chip.setReg_fw, Chip.bump_fw])
theorem execDivertedFrameDispatch_house {pd : PDie} {d : CDie} {livery : Liv} {rd : CellRead} {s t : State} (h : execDivertedFrameDispatch pd d livery rd s = .next t) : t.chip.house = s.chip.house := by
  rw [execDivertedFrameDispatch] at h; rw [run_house h]
  generalize s.chip = c
  repeat' (first | with_reducible rfl | simp only [↓house_mk, ↓house_ite, ite_self, eq_self, implies_true, ↓Chip.divertedDispatch_house] | split)
theorem execDivertedFrameDispatch_vault {pd : PDie} {d : CDie} {livery : Liv} {rd : CellRead} {s t : State} (h : execDivertedFrameDispatch pd d livery rd s = .next t) : t.chip.vault = s.chip.vault := by
  rw [execDivertedFrameDispatch] at h; rw [run_vault h]
  generalize s.chip = c
  repeat' (first | with_reducible rfl | simp only [↓vault_mk, ↓vault_sec, ↓vault_fw, ↓vault_secFw, ↓vault_ite, ite_self, eq_self, implies_true, ↓Chip.divertedDispatch_vault] | split | simp only [Chip.setFlag_sec, Chip.setField_sec, Chip.setReg_sec, Chip.bump_sec, Chip.setFlag_fw, Chip.setField_fw, Chip.setReg_fw, Chip.bump_fw])
theorem execCchSlotSelect_house {d : CDie} {v : W32} {s : State} {t : State} (h : execCchSlotSelect d v s = .next t) : t.chip.house = s.chip.house := by
  rw [execCchSlotSelect] at h; rw [run_house h]
  generalize s.chip = c
  repeat' (first | with_reducible rfl | simp only [↓house_mk, ↓house_ite, ite_self, eq_self, implies_true, ↓Chip.slotSelect_house] | split)
theorem execCchSlotSelect_vault {d : CDie} {v : W32} {s t : State} (h : execCchSlotSelect d v s = .next t) : t.chip.vault = s.chip.vault := by
  rw [execCchSlotSelect] at h; rw [run_vault h]
  generalize s.chip = c
  repeat' (first | with_reducible rfl | simp only [↓vault_mk, ↓vault_sec, ↓vault_fw, ↓vault_secFw, ↓vault_ite, ite_self, eq_self, implies_true, ↓Chip.slotSelect_vault] | split | simp only [Chip.setFlag_sec, Chip.setField_sec, Chip.setReg_sec, Chip.bump_sec, Chip.setFlag_fw, Chip.setField_fw, Chip.setReg_fw, Chip.bump_fw])
theorem execCchSlotSelect_plane {d : CDie} {v : W32} {s : State} {t : State} (h : execCchSlotSelect d v s = .next t) : t.chip.plane = s.chip.plane := by
  rw [execCchSlotSelect] at h; rw [run_plane h]
  generalize s.chip = c
  repeat' (first | with_reducible rfl | simp only [↓plane_mk, ↓plane_ite, ite_self, eq_self, implies_true, ↓Chip.slotSelect_plane] | split)
theorem execBrakeLevelChange_house {d : PDie} {src : Fin 18} {livery : Liv} {s : State} {t : State} (h : execBrakeLevelChange d src livery s = .next t) : t.chip.house = s.chip.house := by
  rw [execBrakeLevelChange] at h; rw [run_house h]
  generalize s.chip = c
  repeat' (first | with_reducible rfl | simp only [↓house_mk, ↓house_ite, ite_self, eq_self, implies_true] | split)
theorem execBrakeLevelChange_vault {d : PDie} {src : Fin 18} {livery : Liv} {s t : State} (h : execBrakeLevelChange d src livery s = .next t) : t.chip.vault = s.chip.vault := by
  rw [execBrakeLevelChange] at h; rw [run_vault h]
  generalize s.chip = c
  repeat' (first | with_reducible rfl | simp only [↓vault_mk, ↓vault_sec, ↓vault_fw, ↓vault_secFw, ↓vault_ite, ite_self, eq_self, implies_true] | split | simp only [Chip.setFlag_sec, Chip.setField_sec, Chip.setReg_sec, Chip.bump_sec, Chip.setFlag_fw, Chip.setField_fw, Chip.setReg_fw, Chip.bump_fw])
theorem execLinkNakRx_house {p : LPort} {f : Frame} {s : State} {t : State} (h : execLinkNakRx p f s = .next t) : t.chip.house = s.chip.house := by
  rw [execLinkNakRx] at h; rw [run_house h]
  generalize s.chip = c
  repeat' (first | with_reducible rfl | simp only [↓house_mk, ↓house_ite, ite_self, eq_self, implies_true, ↓Chip.ctlRx_house, ↓Chip.replayAll_house, ↓Chip.takeUpdate_house] | with_reducible refine (Chip.ctlRx_house _ _ _ _ _ ?_).trans ?_ | intro _ _ | intro _ | split)
theorem execLinkNakRx_vault {p : LPort} {f : Frame} {s t : State} (h : execLinkNakRx p f s = .next t) : t.chip.vault = s.chip.vault := by
  rw [execLinkNakRx] at h; rw [run_vault h]
  generalize s.chip = c
  repeat' (first | with_reducible rfl | simp only [↓vault_mk, ↓vault_sec, ↓vault_fw, ↓vault_secFw, ↓vault_ite, ite_self, eq_self, implies_true, ↓Chip.takeUpdate_vault, ↓Chip.ctlRx_vault, ↓Chip.replayAll_vault] | with_reducible refine (Chip.ctlRx_vault _ _ _ _ _ ?_).trans ?_ | split | intro _ _ | intro _ | simp only [Chip.setFlag_sec, Chip.setField_sec, Chip.setReg_sec, Chip.bump_sec, Chip.setFlag_fw, Chip.setField_fw, Chip.setReg_fw, Chip.bump_fw])
theorem execPcsAlignLoss_house {p : LPort} {s : State} {t : State} (h : execPcsAlignLoss p s = .next t) : t.chip.house = s.chip.house := by
  rw [execPcsAlignLoss] at h; rw [run_house h]
  generalize s.chip = c
  repeat' (first | with_reducible rfl | simp only [↓house_mk, ↓house_ite, ite_self, eq_self, implies_true, ↓Chip.linkDown_house] | split)
theorem execPcsAlignLoss_vault {p : LPort} {s t : State} (h : execPcsAlignLoss p s = .next t) : t.chip.vault = s.chip.vault := by
  rw [execPcsAlignLoss] at h; rw [run_vault h]
  generalize s.chip = c
  repeat' (first | with_reducible rfl | simp only [↓vault_mk, ↓vault_sec, ↓vault_fw, ↓vault_secFw, ↓vault_ite, ite_self, eq_self, implies_true, ↓Chip.linkDown_vault] | split | simp only [Chip.setFlag_sec, Chip.setField_sec, Chip.setReg_sec, Chip.bump_sec, Chip.setFlag_fw, Chip.setField_fw, Chip.setReg_fw, Chip.bump_fw])
theorem execLinkControlTimeout_house {p : LPort} {s : State} {t : State} (h : execLinkControlTimeout p s = .next t) : t.chip.house = s.chip.house := by
  rw [execLinkControlTimeout] at h; rw [run_house h]
  generalize s.chip = c
  repeat' (first | with_reducible rfl | simp only [↓house_mk, ↓house_ite, ite_self, eq_self, implies_true, ↓Chip.linkDown_house] | split)
theorem execLinkControlTimeout_vault {p : LPort} {s t : State} (h : execLinkControlTimeout p s = .next t) : t.chip.vault = s.chip.vault := by
  rw [execLinkControlTimeout] at h; rw [run_vault h]
  generalize s.chip = c
  repeat' (first | with_reducible rfl | simp only [↓vault_mk, ↓vault_sec, ↓vault_fw, ↓vault_secFw, ↓vault_ite, ite_self, eq_self, implies_true, ↓Chip.linkDown_vault] | split | simp only [Chip.setFlag_sec, Chip.setField_sec, Chip.setReg_sec, Chip.bump_sec, Chip.setFlag_fw, Chip.setField_fw, Chip.setReg_fw, Chip.bump_fw])
theorem execReplayTimeout_house {p : LPort} {s : State} {t : State} (h : execReplayTimeout p s = .next t) : t.chip.house = s.chip.house := by
  rw [execReplayTimeout] at h; rw [run_house h]
  generalize s.chip = c
  repeat' (first | with_reducible rfl | simp only [↓house_mk, ↓house_ite, ite_self, eq_self, implies_true, ↓Chip.replayAll_house] | split)
theorem execReplayTimeout_vault {p : LPort} {s t : State} (h : execReplayTimeout p s = .next t) : t.chip.vault = s.chip.vault := by
  rw [execReplayTimeout] at h; rw [run_vault h]
  generalize s.chip = c
  repeat' (first | with_reducible rfl | simp only [↓vault_mk, ↓vault_sec, ↓vault_fw, ↓vault_secFw, ↓vault_ite, ite_self, eq_self, implies_true, ↓Chip.replayAll_vault] | split | simp only [Chip.setFlag_sec, Chip.setField_sec, Chip.setReg_sec, Chip.bump_sec, Chip.setFlag_fw, Chip.setField_fw, Chip.setReg_fw, Chip.bump_fw])
theorem execEthernetPcsAlignLoss_house {p : LPort} {s : State} {t : State} (h : execEthernetPcsAlignLoss p s = .next t) : t.chip.house = s.chip.house := by
  rw [execEthernetPcsAlignLoss] at h; rw [run_house h]
  generalize s.chip = c
  repeat' (first | with_reducible rfl | simp only [↓house_mk, ↓house_ite, ite_self, eq_self, implies_true, ↓Chip.ethAlignLoss_house] | split)
theorem execEthernetPcsAlignLoss_vault {p : LPort} {s t : State} (h : execEthernetPcsAlignLoss p s = .next t) : t.chip.vault = s.chip.vault := by
  rw [execEthernetPcsAlignLoss] at h; rw [run_vault h]
  generalize s.chip = c
  repeat' (first | with_reducible rfl | simp only [↓vault_mk, ↓vault_sec, ↓vault_fw, ↓vault_secFw, ↓vault_ite, ite_self, eq_self, implies_true, ↓Chip.ethAlignLoss_vault] | split | simp only [Chip.setFlag_sec, Chip.setField_sec, Chip.setReg_sec, Chip.bump_sec, Chip.setFlag_fw, Chip.setField_fw, Chip.setReg_fw, Chip.bump_fw])
theorem execPrtCfgWrite_house {pp : PhysPort} {v : W32} {s : State} {t : State} (h : execPrtCfgWrite pp v s = .next t) : t.chip.house = s.chip.house := by
  rw [execPrtCfgWrite] at h; rw [run_house h]
  generalize s.chip = c
  repeat' (first | with_reducible rfl | simp only [↓house_mk, ↓house_ite, ite_self, eq_self, implies_true, ↓Chip.cfgWrite_house] | split)
theorem execPrtCfgWrite_vault {pp : PhysPort} {v : W32} {s t : State} (h : execPrtCfgWrite pp v s = .next t) : t.chip.vault = s.chip.vault := by
  rw [execPrtCfgWrite] at h; rw [run_vault h]
  generalize s.chip = c
  repeat' (first | with_reducible rfl | simp only [↓vault_mk, ↓vault_sec, ↓vault_fw, ↓vault_secFw, ↓vault_ite, ite_self, eq_self, implies_true, ↓Chip.cfgWrite_vault] | split | simp only [Chip.setFlag_sec, Chip.setField_sec, Chip.setReg_sec, Chip.bump_sec, Chip.setFlag_fw, Chip.setField_fw, Chip.setReg_fw, Chip.bump_fw])
theorem execTeardown_house {s : State} {t : State} (h : execTeardown s = .next t) : t.chip.house = s.chip.house := by
  rw [execTeardown] at h; rw [run_house h]
  generalize s.chip = c
  repeat' (first | with_reducible rfl | simp only [↓house_mk, ↓house_ite, ite_self, eq_self, implies_true, ↓Chip.tearStart_house] | split)
theorem execTeardown_vault  {s t : State} (h : execTeardown s = .next t) : t.chip.vault = s.chip.vault := by
  rw [execTeardown] at h; rw [run_vault h]
  generalize s.chip = c
  repeat' (first | with_reducible rfl | simp only [↓vault_mk, ↓vault_sec, ↓vault_fw, ↓vault_secFw, ↓vault_ite, ite_self, eq_self, implies_true, ↓Chip.tearStart_vault] | split | simp only [Chip.setFlag_sec, Chip.setField_sec, Chip.setReg_sec, Chip.bump_sec, Chip.setFlag_fw, Chip.setField_fw, Chip.setReg_fw, Chip.bump_fw])
theorem execTeardownTimerExpiry_house {livery : Liv} {s : State} {t : State} (h : execTeardownTimerExpiry livery s = .next t) : t.chip.house = s.chip.house := by
  rw [execTeardownTimerExpiry] at h; rw [run_house h]
  generalize s.chip = c
  repeat' (first | with_reducible rfl | simp only [↓house_mk, ↓house_ite, ite_self, eq_self, implies_true, ↓Chip.tearStart_house] | split)
theorem execTeardownTimerExpiry_vault {livery : Liv} {s t : State} (h : execTeardownTimerExpiry livery s = .next t) : t.chip.vault = s.chip.vault := by
  rw [execTeardownTimerExpiry] at h; rw [run_vault h]
  generalize s.chip = c
  repeat' (first | with_reducible rfl | simp only [↓vault_mk, ↓vault_sec, ↓vault_fw, ↓vault_secFw, ↓vault_ite, ite_self, eq_self, implies_true, ↓Chip.tearStart_vault] | split | simp only [Chip.setFlag_sec, Chip.setField_sec, Chip.setReg_sec, Chip.bump_sec, Chip.setFlag_fw, Chip.setField_fw, Chip.setReg_fw, Chip.bump_fw])
theorem execTeardownDone_house {livery : Liv} {s : State} {t : State} (h : execTeardownDone livery s = .next t) : t.chip.house = s.chip.house := by
  rw [execTeardownDone] at h; rw [run_house h]
  generalize s.chip = c
  repeat' (first | with_reducible rfl | simp only [↓house_mk, ↓house_ite, ite_self, eq_self, implies_true, ↓Chip.tearDone_house] | split)
theorem execTeardownDone_vault {livery : Liv} {s t : State} (h : execTeardownDone livery s = .next t) : t.chip.vault = s.chip.vault := by
  rw [execTeardownDone] at h; rw [run_vault h]
  generalize s.chip = c
  repeat' (first | with_reducible rfl | simp only [↓vault_mk, ↓vault_sec, ↓vault_fw, ↓vault_secFw, ↓vault_ite, ite_self, eq_self, implies_true, ↓Chip.tearDone_vault] | split | simp only [Chip.setFlag_sec, Chip.setField_sec, Chip.setReg_sec, Chip.bump_sec, Chip.setFlag_fw, Chip.setField_fw, Chip.setReg_fw, Chip.bump_fw])
theorem execTeardownRelease_house {s : State} {t : State} (h : execTeardownRelease s = .next t) : t.chip.house = s.chip.house := by
  rw [execTeardownRelease] at h; rw [run_house h]
  generalize s.chip = c
  repeat' (first | with_reducible rfl | simp only [↓house_mk, ↓house_ite, ite_self, eq_self, implies_true, ↓Chip.tearRelease_house] | split)
theorem execTeardownRelease_vault  {s t : State} (h : execTeardownRelease s = .next t) : t.chip.vault = s.chip.vault := by
  rw [execTeardownRelease] at h; rw [run_vault h]
  generalize s.chip = c
  repeat' (first | with_reducible rfl | simp only [↓vault_mk, ↓vault_sec, ↓vault_fw, ↓vault_secFw, ↓vault_ite, ite_self, eq_self, implies_true, ↓Chip.tearRelease_vault] | split | simp only [Chip.setFlag_sec, Chip.setField_sec, Chip.setReg_sec, Chip.bump_sec, Chip.setFlag_fw, Chip.setField_fw, Chip.setReg_fw, Chip.bump_fw])
theorem execTeardownRelease_plane {s : State} {t : State} (h : execTeardownRelease s = .next t) : t.chip.plane = s.chip.plane := by
  rw [execTeardownRelease] at h; rw [run_plane h]
  generalize s.chip = c
  repeat' (first | with_reducible rfl | simp only [↓plane_mk, ↓plane_ite, ite_self, eq_self, implies_true, ↓Chip.tearRelease_plane] | split)
theorem execLaneRepair_house {d : CDie} {k : Cluster} {s : State} {t : State} (h : execLaneRepair d k s = .next t) : t.chip.house = s.chip.house := by
  rw [execLaneRepair] at h; rw [run_house h]
  generalize s.chip = c
  repeat' (first | with_reducible rfl | simp only [↓house_mk, ↓house_ite, ite_self, eq_self, implies_true, ↓Chip.startRepair_house] | split)
theorem execLaneRepair_vault {d : CDie} {k : Cluster} {s t : State} (h : execLaneRepair d k s = .next t) : t.chip.vault = s.chip.vault := by
  rw [execLaneRepair] at h; rw [run_vault h]
  generalize s.chip = c
  repeat' (first | with_reducible rfl | simp only [↓vault_mk, ↓vault_sec, ↓vault_fw, ↓vault_secFw, ↓vault_ite, ite_self, eq_self, implies_true, ↓Chip.startRepair_vault] | split | simp only [Chip.setFlag_sec, Chip.setField_sec, Chip.setReg_sec, Chip.bump_sec, Chip.setFlag_fw, Chip.setField_fw, Chip.setReg_fw, Chip.bump_fw])
theorem execLaneFence_house {d : CDie} {k : Cluster} {s : State} {t : State} (h : execLaneFence d k s = .next t) : t.chip.house = s.chip.house := by
  rw [execLaneFence] at h; rw [run_house h]
  generalize s.chip = c
  repeat' (first | with_reducible rfl | simp only [↓house_mk, ↓house_ite, ite_self, eq_self, implies_true, ↓Chip.laneFence_house] | split)
theorem execLaneFence_vault {d : CDie} {k : Cluster} {s t : State} (h : execLaneFence d k s = .next t) : t.chip.vault = s.chip.vault := by
  rw [execLaneFence] at h; rw [run_vault h]
  generalize s.chip = c
  repeat' (first | with_reducible rfl | simp only [↓vault_mk, ↓vault_sec, ↓vault_fw, ↓vault_secFw, ↓vault_ite, ite_self, eq_self, implies_true, ↓Chip.laneFence_vault] | split | simp only [Chip.setFlag_sec, Chip.setField_sec, Chip.setReg_sec, Chip.bump_sec, Chip.setFlag_fw, Chip.setField_fw, Chip.setReg_fw, Chip.bump_fw])
theorem execLaneSpareTestDone_house {d : CDie} {pass : Bool} {s : State} {t : State} (h : execLaneSpareTestDone d pass s = .next t) : t.chip.house = s.chip.house := by
  rw [execLaneSpareTestDone] at h; rw [run_house h]
  generalize s.chip = c
  repeat' (first | with_reducible rfl | simp only [↓house_mk, ↓house_ite, ite_self, eq_self, implies_true, ↓Chip.spareTested_house] | split)
theorem execLaneSpareTestDone_vault {d : CDie} {pass : Bool} {s t : State} (h : execLaneSpareTestDone d pass s = .next t) : t.chip.vault = s.chip.vault := by
  rw [execLaneSpareTestDone] at h; rw [run_vault h]
  generalize s.chip = c
  repeat' (first | with_reducible rfl | simp only [↓vault_mk, ↓vault_sec, ↓vault_fw, ↓vault_secFw, ↓vault_ite, ite_self, eq_self, implies_true, ↓Chip.spareTested_vault] | split | simp only [Chip.setFlag_sec, Chip.setField_sec, Chip.setReg_sec, Chip.bump_sec, Chip.setFlag_fw, Chip.setField_fw, Chip.setReg_fw, Chip.bump_fw])
theorem execCoachDieUnresponsive_house {d : CDie} {s t : State} (h : execCoachDieUnresponsive d s = .next t) : t.chip.house = s.chip.house := by
  rw [execCoachDieUnresponsive] at h; rw [run_house h]
  generalize s.chip = c
  repeat' (first | with_reducible rfl | simp only [↓house_mk, ↓house_ite, ite_self, eq_self, implies_true, ↓Chip.dieFail_house] | split)
theorem execCoachDieUnresponsive_vault {d : CDie} {s t : State} (h : execCoachDieUnresponsive d s = .next t) : t.chip.vault = s.chip.vault := by
  rw [execCoachDieUnresponsive] at h; rw [run_vault h]
  generalize s.chip = c
  repeat' (first | with_reducible rfl | simp only [↓vault_mk, ↓vault_sec, ↓vault_fw, ↓vault_secFw, ↓vault_ite, ite_self, eq_self, implies_true, ↓Chip.dieFail_vault] | split | simp only [Chip.setFlag_sec, Chip.setField_sec, Chip.setReg_sec, Chip.bump_sec, Chip.setFlag_fw, Chip.setField_fw, Chip.setReg_fw, Chip.bump_fw])
theorem execDieFailed_house {die : Die} {s : State} {t : State} (h : execDieFailed die s = .next t) : t.chip.house = s.chip.house := by
  rw [execDieFailed] at h; rw [run_house h]
  generalize s.chip = c
  repeat' (first | with_reducible rfl | simp only [↓house_mk, ↓house_ite, ite_self, eq_self, implies_true, ↓Chip.dieFail_house] | split)
theorem execDieFailed_vault {die : Die} {s t : State} (h : execDieFailed die s = .next t) : t.chip.vault = s.chip.vault := by
  rw [execDieFailed] at h; rw [run_vault h]
  generalize s.chip = c
  repeat' (first | with_reducible rfl | simp only [↓vault_mk, ↓vault_sec, ↓vault_fw, ↓vault_secFw, ↓vault_ite, ite_self, eq_self, implies_true, ↓Chip.dieFail_vault] | split | simp only [Chip.setFlag_sec, Chip.setField_sec, Chip.setReg_sec, Chip.bump_sec, Chip.setFlag_fw, Chip.setField_fw, Chip.setReg_fw, Chip.bump_fw])
theorem execTrailerStepCheck_house {s : State} {t : State} (h : execTrailerStepCheck s = .next t) : t.chip.house = s.chip.house := by
  rw [execTrailerStepCheck] at h; rw [run_house h]
  generalize s.chip = c
  repeat' (first | with_reducible rfl | simp only [↓house_mk, ↓house_ite, ite_self, eq_self, implies_true, ↓Chip.trailerCheck_house] | split)
theorem execTrailerStepCheck_vault  {s t : State} (h : execTrailerStepCheck s = .next t) : t.chip.vault = s.chip.vault := by
  rw [execTrailerStepCheck] at h; rw [run_vault h]
  generalize s.chip = c
  repeat' (first | with_reducible rfl | simp only [↓vault_mk, ↓vault_sec, ↓vault_fw, ↓vault_secFw, ↓vault_ite, ite_self, eq_self, implies_true, ↓Chip.trailerCheck_vault] | split | simp only [Chip.setFlag_sec, Chip.setField_sec, Chip.setReg_sec, Chip.bump_sec, Chip.setFlag_fw, Chip.setField_fw, Chip.setReg_fw, Chip.bump_fw])
theorem execTrailerModeChange_house {s : State} {t : State} (h : execTrailerModeChange s = .next t) : t.chip.house = s.chip.house := by
  rw [execTrailerModeChange] at h; rw [run_house h]
  generalize s.chip = c
  repeat' (first | with_reducible rfl | simp only [↓house_mk, ↓house_ite, ite_self, eq_self, implies_true, ↓Chip.trailerPromote_house] | split)
theorem execTrailerModeChange_vault  {s t : State} (h : execTrailerModeChange s = .next t) : t.chip.vault = s.chip.vault := by
  rw [execTrailerModeChange] at h; rw [run_vault h]
  generalize s.chip = c
  repeat' (first | with_reducible rfl | simp only [↓vault_mk, ↓vault_sec, ↓vault_fw, ↓vault_secFw, ↓vault_ite, ite_self, eq_self, implies_true, ↓Chip.trailerPromote_vault] | split | simp only [Chip.setFlag_sec, Chip.setField_sec, Chip.setReg_sec, Chip.bump_sec, Chip.setFlag_fw, Chip.setField_fw, Chip.setReg_fw, Chip.bump_fw])
theorem execPolQuotaWrite_house {die : Die} {v : W32} {s : State} {t : State} (h : execPolQuotaWrite die v s = .next t) : t.chip.house = s.chip.house := by
  rw [execPolQuotaWrite] at h; rw [run_house h]
  generalize s.chip = c
  repeat' (first | with_reducible rfl | simp only [↓house_mk, ↓house_ite, ite_self, eq_self, implies_true, ↓Chip.quotaWrite_house] | split)
theorem execPolQuotaWrite_vault {die : Die} {v : W32} {s t : State} (h : execPolQuotaWrite die v s = .next t) : t.chip.vault = s.chip.vault := by
  rw [execPolQuotaWrite] at h; rw [run_vault h]
  generalize s.chip = c
  repeat' (first | with_reducible rfl | simp only [↓vault_mk, ↓vault_sec, ↓vault_fw, ↓vault_secFw, ↓vault_ite, ite_self, eq_self, implies_true, ↓Chip.quotaWrite_vault] | split | simp only [Chip.setFlag_sec, Chip.setField_sec, Chip.setReg_sec, Chip.bump_sec, Chip.setFlag_fw, Chip.setField_fw, Chip.setReg_fw, Chip.bump_fw])
theorem execPolThrWrite_house {die : Die} {second : Bool} {v : W32} {s : State} {t : State} (h : execPolThrWrite die second v s = .next t) : t.chip.house = s.chip.house := by
  rw [execPolThrWrite] at h; rw [run_house h]
  generalize s.chip = c
  repeat' (first | with_reducible rfl | simp only [↓house_mk, ↓house_ite, ite_self, eq_self, implies_true, ↓Chip.thrWrite_house] | split)
theorem execPolThrWrite_vault {die : Die} {second : Bool} {v : W32} {s t : State} (h : execPolThrWrite die second v s = .next t) : t.chip.vault = s.chip.vault := by
  rw [execPolThrWrite] at h; rw [run_vault h]
  generalize s.chip = c
  repeat' (first | with_reducible rfl | simp only [↓vault_mk, ↓vault_sec, ↓vault_fw, ↓vault_secFw, ↓vault_ite, ite_self, eq_self, implies_true, ↓Chip.thrWrite_vault] | split | simp only [Chip.setFlag_sec, Chip.setField_sec, Chip.setReg_sec, Chip.bump_sec, Chip.setFlag_fw, Chip.setField_fw, Chip.setReg_fw, Chip.bump_fw])
theorem execQuarantineRelease_house {b : BDie} {v : W32} {s : State} {t : State} (h : execQuarantineRelease b v s = .next t) : t.chip.house = s.chip.house := by
  rw [execQuarantineRelease] at h; rw [run_house h]
  generalize s.chip = c
  repeat' (first | with_reducible rfl | simp only [↓house_mk, ↓house_ite, ite_self, eq_self, implies_true, ↓Chip.quarWrite_house] | split)
theorem execQuarantineRelease_vault {b : BDie} {v : W32} {s t : State} (h : execQuarantineRelease b v s = .next t) : t.chip.vault = s.chip.vault := by
  rw [execQuarantineRelease] at h; rw [run_vault h]
  generalize s.chip = c
  repeat' (first | with_reducible rfl | simp only [↓vault_mk, ↓vault_sec, ↓vault_fw, ↓vault_secFw, ↓vault_ite, ite_self, eq_self, implies_true, ↓Chip.quarWrite_vault] | split | simp only [Chip.setFlag_sec, Chip.setField_sec, Chip.setReg_sec, Chip.bump_sec, Chip.setFlag_fw, Chip.setField_fw, Chip.setReg_fw, Chip.bump_fw])
theorem execQuarantineReleaseDone_house {b : BDie} {reads : List MarchRead} {s t : State} (h : execQuarantineReleaseDone b reads s = .next t) : t.chip.house = s.chip.house := by
  rw [execQuarantineReleaseDone] at h; rw [run_house h]
  generalize s.chip = c
  repeat' (first | with_reducible rfl | simp only [↓house_mk, ↓house_ite, ite_self, eq_self, implies_true, ↓Chip.quarDone_house] | split)
theorem execQuarantineReleaseDone_vault {b : BDie} {reads : List MarchRead} {s t : State} (h : execQuarantineReleaseDone b reads s = .next t) : t.chip.vault = s.chip.vault := by
  rw [execQuarantineReleaseDone] at h; rw [run_vault h]
  generalize s.chip = c
  repeat' (first | with_reducible rfl | simp only [↓vault_mk, ↓vault_sec, ↓vault_fw, ↓vault_secFw, ↓vault_ite, ite_self, eq_self, implies_true, ↓Chip.quarDone_vault] | split | simp only [Chip.setFlag_sec, Chip.setField_sec, Chip.setReg_sec, Chip.bump_sec, Chip.setFlag_fw, Chip.setField_fw, Chip.setReg_fw, Chip.bump_fw])
theorem execMarchStart_house {die : Die} {v : W32} {s : State} {t : State} (h : execMarchStart die v s = .next t) : t.chip.house = s.chip.house := by
  rw [execMarchStart] at h; rw [run_house h]
  generalize s.chip = c
  repeat' (first | with_reducible rfl | simp only [↓house_mk, ↓house_ite, ite_self, eq_self, implies_true, ↓Chip.marchWrite_house] | split)
theorem execMarchStart_vault {die : Die} {v : W32} {s t : State} (h : execMarchStart die v s = .next t) : t.chip.vault = s.chip.vault := by
  rw [execMarchStart] at h; rw [run_vault h]
  generalize s.chip = c
  repeat' (first | with_reducible rfl | simp only [↓vault_mk, ↓vault_sec, ↓vault_fw, ↓vault_secFw, ↓vault_ite, ite_self, eq_self, implies_true, ↓Chip.marchWrite_vault] | split | simp only [Chip.setFlag_sec, Chip.setField_sec, Chip.setReg_sec, Chip.bump_sec, Chip.setFlag_fw, Chip.setField_fw, Chip.setReg_fw, Chip.bump_fw])
theorem execMarchDone_house {die : Die} {rep : MarchReport} {s : State} {t : State} (h : execMarchDone die rep s = .next t) : t.chip.house = s.chip.house := by
  rw [execMarchDone] at h; rw [run_house h]
  generalize s.chip = c
  repeat' (first | with_reducible rfl | simp only [↓house_mk, ↓house_ite, ite_self, eq_self, implies_true, ↓Chip.marchDone_house] | split)
theorem execMarchDone_vault {die : Die} {rep : MarchReport} {s t : State} (h : execMarchDone die rep s = .next t) : t.chip.vault = s.chip.vault := by
  rw [execMarchDone] at h; rw [run_vault h]
  generalize s.chip = c
  repeat' (first | with_reducible rfl | simp only [↓vault_mk, ↓vault_sec, ↓vault_fw, ↓vault_secFw, ↓vault_ite, ite_self, eq_self, implies_true, ↓Chip.marchDone_vault] | split | simp only [Chip.setFlag_sec, Chip.setField_sec, Chip.setReg_sec, Chip.bump_sec, Chip.setFlag_fw, Chip.setField_fw, Chip.setReg_fw, Chip.bump_fw])
theorem execTableCopyRefetchDone_house {die : Die} {bank : BitVec 8} {word : BitVec 16} {s : State} {t : State} (h : execTableCopyRefetchDone die bank word s = .next t) : t.chip.house = s.chip.house := by
  rw [execTableCopyRefetchDone] at h; rw [run_house h]
  generalize s.chip = c
  repeat' (first | with_reducible rfl | simp only [↓house_mk, ↓house_ite, ite_self, eq_self, implies_true, ↓Chip.refetched_house] | split)
theorem execTableCopyRefetchDone_vault {die : Die} {bank : BitVec 8} {word : BitVec 16} {s t : State} (h : execTableCopyRefetchDone die bank word s = .next t) : t.chip.vault = s.chip.vault := by
  rw [execTableCopyRefetchDone] at h; rw [run_vault h]
  generalize s.chip = c
  repeat' (first | with_reducible rfl | simp only [↓vault_mk, ↓vault_sec, ↓vault_fw, ↓vault_secFw, ↓vault_ite, ite_self, eq_self, implies_true, ↓Chip.refetched_vault] | split | simp only [Chip.setFlag_sec, Chip.setField_sec, Chip.setReg_sec, Chip.bump_sec, Chip.setFlag_fw, Chip.setField_fw, Chip.setReg_fw, Chip.bump_fw])
theorem execTableCopyRefetchDone_plane {die : Die} {bank : BitVec 8} {word : BitVec 16} {s : State} {t : State} (h : execTableCopyRefetchDone die bank word s = .next t) : t.chip.plane = s.chip.plane := by
  rw [execTableCopyRefetchDone] at h; rw [run_plane h]
  generalize s.chip = c
  repeat' (first | with_reducible rfl | simp only [↓plane_mk, ↓plane_ite, ite_self, eq_self, implies_true, ↓Chip.refetched_plane] | split)
theorem execRetentionEntry_house {die : Die} {bank : BitVec 8} {s : State} {t : State} (h : execRetentionEntry die bank s = .next t) : t.chip.house = s.chip.house := by
  rw [execRetentionEntry] at h; rw [run_house h]
  generalize s.chip = c
  repeat' (first | with_reducible rfl | simp only [↓house_mk, ↓house_ite, ite_self, eq_self, implies_true, ↓Chip.retEnter_house] | split)
theorem execRetentionEntry_vault {die : Die} {bank : BitVec 8} {s t : State} (h : execRetentionEntry die bank s = .next t) : t.chip.vault = s.chip.vault := by
  rw [execRetentionEntry] at h; rw [run_vault h]
  generalize s.chip = c
  repeat' (first | with_reducible rfl | simp only [↓vault_mk, ↓vault_sec, ↓vault_fw, ↓vault_secFw, ↓vault_ite, ite_self, eq_self, implies_true, ↓Chip.retEnter_vault] | split | simp only [Chip.setFlag_sec, Chip.setField_sec, Chip.setReg_sec, Chip.bump_sec, Chip.setFlag_fw, Chip.setField_fw, Chip.setReg_fw, Chip.bump_fw])
theorem execRetentionEntryComplete_house {die : Die} {bank : BitVec 8} {s : State} {t : State} (h : execRetentionEntryComplete die bank s = .next t) : t.chip.house = s.chip.house := by
  rw [execRetentionEntryComplete] at h; rw [run_house h]
  generalize s.chip = c
  repeat' (first | with_reducible rfl | simp only [↓house_mk, ↓house_ite, ite_self, eq_self, implies_true, ↓Chip.retEntered_house] | split)
theorem execRetentionEntryComplete_vault {die : Die} {bank : BitVec 8} {s t : State} (h : execRetentionEntryComplete die bank s = .next t) : t.chip.vault = s.chip.vault := by
  rw [execRetentionEntryComplete] at h; rw [run_vault h]
  generalize s.chip = c
  repeat' (first | with_reducible rfl | simp only [↓vault_mk, ↓vault_sec, ↓vault_fw, ↓vault_secFw, ↓vault_ite, ite_self, eq_self, implies_true, ↓Chip.retEntered_vault] | split | simp only [Chip.setFlag_sec, Chip.setField_sec, Chip.setReg_sec, Chip.bump_sec, Chip.setFlag_fw, Chip.setField_fw, Chip.setReg_fw, Chip.bump_fw])
theorem execBankWake_house {die : Die} {bank : BitVec 8} {s : State} {t : State} (h : execBankWake die bank s = .next t) : t.chip.house = s.chip.house := by
  rw [execBankWake] at h; rw [run_house h]
  generalize s.chip = c
  repeat' (first | with_reducible rfl | simp only [↓house_mk, ↓house_ite, ite_self, eq_self, implies_true, ↓Chip.bankAccess_house] | split)
theorem execBankWake_vault {die : Die} {bank : BitVec 8} {s t : State} (h : execBankWake die bank s = .next t) : t.chip.vault = s.chip.vault := by
  rw [execBankWake] at h; rw [run_vault h]
  generalize s.chip = c
  repeat' (first | with_reducible rfl | simp only [↓vault_mk, ↓vault_sec, ↓vault_fw, ↓vault_secFw, ↓vault_ite, ite_self, eq_self, implies_true, ↓Chip.bankAccess_vault] | split | simp only [Chip.setFlag_sec, Chip.setField_sec, Chip.setReg_sec, Chip.bump_sec, Chip.setFlag_fw, Chip.setField_fw, Chip.setReg_fw, Chip.bump_fw])
theorem execBankWakeDone_house {die : Die} {bank : BitVec 8} {s : State} {t : State} (h : execBankWakeDone die bank s = .next t) : t.chip.house = s.chip.house := by
  rw [execBankWakeDone] at h; rw [run_house h]
  generalize s.chip = c
  repeat' (first | with_reducible rfl | simp only [↓house_mk, ↓house_ite, ite_self, eq_self, implies_true, ↓Chip.retWoken_house] | split)
theorem execBankWakeDone_vault {die : Die} {bank : BitVec 8} {s t : State} (h : execBankWakeDone die bank s = .next t) : t.chip.vault = s.chip.vault := by
  rw [execBankWakeDone] at h; rw [run_vault h]
  generalize s.chip = c
  repeat' (first | with_reducible rfl | simp only [↓vault_mk, ↓vault_sec, ↓vault_fw, ↓vault_secFw, ↓vault_ite, ite_self, eq_self, implies_true, ↓Chip.retWoken_vault] | split | simp only [Chip.setFlag_sec, Chip.setField_sec, Chip.setReg_sec, Chip.bump_sec, Chip.setFlag_fw, Chip.setField_fw, Chip.setReg_fw, Chip.bump_fw])
theorem execLivCtrlWrite_vault {v : W32} {s : State} {t : State} (h : execLivCtrlWrite v s = .next t) : t.chip.vault = s.chip.vault := by
  rw [execLivCtrlWrite] at h; rw [run_vault h]
  generalize s.chip = c
  repeat' (first | with_reducible rfl | simp only [↓vault_mk, ↓vault_sec, ↓vault_fw, ↓vault_secFw, ↓vault_ite, ite_self, eq_self, implies_true, ↓Chip.livWrite_vault] | split)
theorem execLivCtrlWrite_plane {v : W32} {s : State} {t : State} (h : execLivCtrlWrite v s = .next t) : t.chip.plane = s.chip.plane := by
  rw [execLivCtrlWrite] at h; rw [run_plane h]
  generalize s.chip = c
  repeat' (first | with_reducible rfl | simp only [↓plane_mk, ↓plane_ite, ite_self, eq_self, implies_true, ↓Chip.livWrite_plane] | split)
theorem execSeedWrite_vault {index : BitVec 4} {s : State} {t : State} (h : execSeedWrite index s = .next t) : t.chip.vault = s.chip.vault := by
  rw [execSeedWrite] at h; rw [run_vault h]
  generalize s.chip = c
  repeat' (first | with_reducible rfl | simp only [↓vault_mk, ↓vault_sec, ↓vault_fw, ↓vault_secFw, ↓vault_ite, ite_self, eq_self, implies_true, ↓Chip.seedSet_vault] | split)
theorem execSeedWrite_plane {index : BitVec 4} {s : State} {t : State} (h : execSeedWrite index s = .next t) : t.chip.plane = s.chip.plane := by
  rw [execSeedWrite] at h; rw [run_plane h]
  generalize s.chip = c
  repeat' (first | with_reducible rfl | simp only [↓plane_mk, ↓plane_ite, ite_self, eq_self, implies_true, ↓Chip.seedSet_plane] | split)
theorem execEnergyLoRead_house {unattributed : Bool} {s : State} {t : State} (h : execEnergyLoRead unattributed s = .next t) : t.chip.house = s.chip.house := by
  rw [execEnergyLoRead] at h; rw [run_house h]
  generalize s.chip = c
  repeat' (first | with_reducible rfl | simp only [↓house_mk, ↓house_ite, ite_self, eq_self, implies_true, ↓Chip.answer_house, ↓Chip.energyRead_house] | split)
theorem execEnergyLoRead_vault {unattributed : Bool} {s t : State} (h : execEnergyLoRead unattributed s = .next t) : t.chip.vault = s.chip.vault := by
  rw [execEnergyLoRead] at h; rw [run_vault h]
  generalize s.chip = c
  repeat' (first | with_reducible rfl | simp only [↓vault_mk, ↓vault_sec, ↓vault_fw, ↓vault_secFw, ↓vault_ite, ite_self, eq_self, implies_true, ↓Chip.answer_vault, ↓Chip.energyRead_vault] | split | simp only [Chip.setFlag_sec, Chip.setField_sec, Chip.setReg_sec, Chip.bump_sec, Chip.setFlag_fw, Chip.setField_fw, Chip.setReg_fw, Chip.bump_fw])
theorem execEnergyLoRead_plane {unattributed : Bool} {s : State} {t : State} (h : execEnergyLoRead unattributed s = .next t) : t.chip.plane = s.chip.plane := by
  rw [execEnergyLoRead] at h; rw [run_plane h]
  generalize s.chip = c
  repeat' (first | with_reducible rfl | simp only [↓plane_mk, ↓plane_ite, ite_self, eq_self, implies_true, ↓Chip.answer_plane, ↓Chip.energyRead_plane] | split)
theorem execCornerEvaluation_house {mv : List Nat} {s t : State} (h : execCornerEvaluation mv s = .next t) : t.chip.house = s.chip.house := by
  rw [execCornerEvaluation] at h; rw [run_house h]
  generalize s.chip = c
  repeat' (first | with_reducible rfl | simp only [↓house_mk, ↓house_ite, ite_self, eq_self, implies_true, ↓Chip.corner_house] | split)
theorem execCornerEvaluation_vault {mv : List Nat} {s t : State} (h : execCornerEvaluation mv s = .next t) : t.chip.vault = s.chip.vault := by
  rw [execCornerEvaluation] at h; rw [run_vault h]
  generalize s.chip = c
  repeat' (first | with_reducible rfl | simp only [↓vault_mk, ↓vault_sec, ↓vault_fw, ↓vault_secFw, ↓vault_ite, ite_self, eq_self, implies_true, ↓Chip.corner_vault] | split | simp only [Chip.setFlag_sec, Chip.setField_sec, Chip.setReg_sec, Chip.bump_sec, Chip.setFlag_fw, Chip.setField_fw, Chip.setReg_fw, Chip.bump_fw])
theorem execCornerEvaluation_plane {mv : List Nat} {s t : State} (h : execCornerEvaluation mv s = .next t) : t.chip.plane = s.chip.plane := by
  rw [execCornerEvaluation] at h; rw [run_plane h]
  generalize s.chip = c
  repeat' (first | with_reducible rfl | simp only [↓plane_mk, ↓plane_ite, ite_self, eq_self, implies_true, ↓Chip.corner_plane] | split)
theorem execEstimateRefresh_vault  {s t : State} (h : execEstimateRefresh s = .next t) : t.chip.vault = s.chip.vault := by
  rw [execEstimateRefresh] at h; rw [run_vault h]
  generalize s.chip = c
  repeat' (first | with_reducible rfl | simp only [↓vault_mk, ↓vault_sec, ↓vault_fw, ↓vault_secFw, ↓vault_ite, ite_self, eq_self, implies_true, ↓Chip.estimates_vault] | split | simp only [Chip.setFlag_sec, Chip.setField_sec, Chip.setReg_sec, Chip.bump_sec, Chip.setFlag_fw, Chip.setField_fw, Chip.setReg_fw, Chip.bump_fw])
theorem execEstimateRefresh_plane  {s t : State} (h : execEstimateRefresh s = .next t) : t.chip.plane = s.chip.plane := by
  rw [execEstimateRefresh] at h; rw [run_plane h]
  generalize s.chip = c
  repeat' (first | with_reducible rfl | simp only [↓plane_mk, ↓plane_ite, ite_self, eq_self, implies_true, ↓Chip.estimates_plane] | split)
theorem execCalibrationInterval_vault {die : Die} {currents : List Nat} {s t : State} (h : execCalibrationInterval die currents s = .next t) : t.chip.vault = s.chip.vault := by
  rw [execCalibrationInterval] at h; rw [run_vault h]
  generalize s.chip = c
  repeat' (first | with_reducible rfl | simp only [↓vault_mk, ↓vault_sec, ↓vault_fw, ↓vault_secFw, ↓vault_ite, ite_self, eq_self, implies_true, ↓Chip.calibrate_vault] | split | simp only [Chip.setFlag_sec, Chip.setField_sec, Chip.setReg_sec, Chip.bump_sec, Chip.setFlag_fw, Chip.setField_fw, Chip.setReg_fw, Chip.bump_fw])
theorem execCalibrationInterval_plane {die : Die} {currents : List Nat} {s t : State} (h : execCalibrationInterval die currents s = .next t) : t.chip.plane = s.chip.plane := by
  rw [execCalibrationInterval] at h; rw [run_plane h]
  generalize s.chip = c
  repeat' (first | with_reducible rfl | simp only [↓plane_mk, ↓plane_ite, ite_self, eq_self, implies_true, ↓Chip.calibrate_plane] | split)
theorem execEnergyAttribution_vault  {s t : State} (h : execEnergyAttribution s = .next t) : t.chip.vault = s.chip.vault := by
  rw [execEnergyAttribution] at h; rw [run_vault h]
  generalize s.chip = c
  repeat' (first | with_reducible rfl | simp only [↓vault_mk, ↓vault_sec, ↓vault_fw, ↓vault_secFw, ↓vault_ite, ite_self, eq_self, implies_true, ↓Chip.attribute_vault] | split | simp only [Chip.setFlag_sec, Chip.setField_sec, Chip.setReg_sec, Chip.bump_sec, Chip.setFlag_fw, Chip.setField_fw, Chip.setReg_fw, Chip.bump_fw])
theorem execEnergyAttribution_plane  {s t : State} (h : execEnergyAttribution s = .next t) : t.chip.plane = s.chip.plane := by
  rw [execEnergyAttribution] at h; rw [run_plane h]
  generalize s.chip = c
  repeat' (first | with_reducible rfl | simp only [↓plane_mk, ↓plane_ite, ite_self, eq_self, implies_true, ↓Chip.attribute_plane] | split)
theorem execMeterUpdate_house {s : State} {t : State} (h : execMeterUpdate s = .next t) : t.chip.house = s.chip.house := by
  rw [execMeterUpdate] at h; rw [run_house h]
  generalize s.chip = c
  repeat' (first | with_reducible rfl | simp only [↓house_mk, ↓house_ite, ite_self, eq_self, implies_true, ↓Chip.metersSet_house] | split)
theorem execMeterUpdate_vault  {s t : State} (h : execMeterUpdate s = .next t) : t.chip.vault = s.chip.vault := by
  rw [execMeterUpdate] at h; rw [run_vault h]
  generalize s.chip = c
  repeat' (first | with_reducible rfl | simp only [↓vault_mk, ↓vault_sec, ↓vault_fw, ↓vault_secFw, ↓vault_ite, ite_self, eq_self, implies_true, ↓Chip.metersSet_vault] | split | simp only [Chip.setFlag_sec, Chip.setField_sec, Chip.setReg_sec, Chip.bump_sec, Chip.setFlag_fw, Chip.setField_fw, Chip.setReg_fw, Chip.bump_fw])
theorem execMeterUpdate_plane {s : State} {t : State} (h : execMeterUpdate s = .next t) : t.chip.plane = s.chip.plane := by
  rw [execMeterUpdate] at h; rw [run_plane h]
  generalize s.chip = c
  repeat' (first | with_reducible rfl | simp only [↓plane_mk, ↓plane_ite, ite_self, eq_self, implies_true, ↓Chip.metersSet_plane] | split)
theorem execBudgetBinStart_vault {s : State} {t : State} (h : execBudgetBinStart s = .next t) : t.chip.vault = s.chip.vault := by
  rw [execBudgetBinStart] at h; rw [run_vault h]
  generalize s.chip = c
  repeat' (first | with_reducible rfl | simp only [↓vault_mk, ↓vault_sec, ↓vault_fw, ↓vault_secFw, ↓vault_ite, ite_self, eq_self, implies_true, ↓Chip.binStart_vault] | split)
theorem execBudgetBinStart_plane {s : State} {t : State} (h : execBudgetBinStart s = .next t) : t.chip.plane = s.chip.plane := by
  rw [execBudgetBinStart] at h; rw [run_plane h]
  generalize s.chip = c
  repeat' (first | with_reducible rfl | simp only [↓plane_mk, ↓plane_ite, ite_self, eq_self, implies_true, ↓Chip.binStart_plane] | split)
theorem execHintHoldExpiry_house {d : CDie} {s : State} {t : State} (h : execHintHoldExpiry d s = .next t) : t.chip.house = s.chip.house := by
  rw [execHintHoldExpiry] at h; rw [run_house h]
  generalize s.chip = c
  repeat' (first | with_reducible rfl | simp only [↓house_mk, ↓house_ite, ite_self, eq_self, implies_true, ↓Chip.hintExpire_house] | split)
theorem execHintHoldExpiry_vault {d : CDie} {s t : State} (h : execHintHoldExpiry d s = .next t) : t.chip.vault = s.chip.vault := by
  rw [execHintHoldExpiry] at h; rw [run_vault h]
  generalize s.chip = c
  repeat' (first | with_reducible rfl | simp only [↓vault_mk, ↓vault_sec, ↓vault_fw, ↓vault_secFw, ↓vault_ite, ite_self, eq_self, implies_true, ↓Chip.hintExpire_vault] | split | simp only [Chip.setFlag_sec, Chip.setField_sec, Chip.setReg_sec, Chip.bump_sec, Chip.setFlag_fw, Chip.setField_fw, Chip.setReg_fw, Chip.bump_fw])
theorem execBudgetCtrlWrite_vault {v : W32} {s t : State} (h : execBudgetCtrlWrite v s = .next t) : t.chip.vault = s.chip.vault := by
  rw [execBudgetCtrlWrite] at h; rw [run_vault h]
  generalize s.chip = c
  repeat' (first | with_reducible rfl | simp only [↓vault_mk, ↓vault_sec, ↓vault_fw, ↓vault_secFw, ↓vault_ite, ite_self, eq_self, implies_true, ↓Chip.budgetCtrl_vault] | split | simp only [Chip.setFlag_sec, Chip.setField_sec, Chip.setReg_sec, Chip.bump_sec, Chip.setFlag_fw, Chip.setField_fw, Chip.setReg_fw, Chip.bump_fw])
theorem execBudgetCtrlWrite_plane {v : W32} {s t : State} (h : execBudgetCtrlWrite v s = .next t) : t.chip.plane = s.chip.plane := by
  rw [execBudgetCtrlWrite] at h; rw [run_plane h]
  generalize s.chip = c
  repeat' (first | with_reducible rfl | simp only [↓plane_mk, ↓plane_ite, ite_self, eq_self, implies_true, ↓Chip.budgetCtrl_plane] | split)
theorem execRailIlimCross_vault {r : Rail} {s : State} {t : State} (h : execRailIlimCross r s = .next t) : t.chip.vault = s.chip.vault := by
  rw [execRailIlimCross] at h; rw [run_vault h]
  generalize s.chip = c
  repeat' (first | with_reducible rfl | simp only [↓vault_mk, ↓vault_sec, ↓vault_fw, ↓vault_secFw, ↓vault_ite, ite_self, eq_self, implies_true, ↓Chip.ilimCross_vault] | split)
theorem execRailIlimCross_plane {r : Rail} {s : State} {t : State} (h : execRailIlimCross r s = .next t) : t.chip.plane = s.chip.plane := by
  rw [execRailIlimCross] at h; rw [run_plane h]
  generalize s.chip = c
  repeat' (first | with_reducible rfl | simp only [↓plane_mk, ↓plane_ite, ite_self, eq_self, implies_true, ↓Chip.ilimCross_plane] | split)
theorem execRailIlimRelease_vault {r : Rail} {s : State} {t : State} (h : execRailIlimRelease r s = .next t) : t.chip.vault = s.chip.vault := by
  rw [execRailIlimRelease] at h; rw [run_vault h]
  generalize s.chip = c
  repeat' (first | with_reducible rfl | simp only [↓vault_mk, ↓vault_sec, ↓vault_fw, ↓vault_secFw, ↓vault_ite, ite_self, eq_self, implies_true, ↓Chip.ilimRelease_vault] | split)
theorem execRailIlimRelease_plane {r : Rail} {s : State} {t : State} (h : execRailIlimRelease r s = .next t) : t.chip.plane = s.chip.plane := by
  rw [execRailIlimRelease] at h; rw [run_plane h]
  generalize s.chip = c
  repeat' (first | with_reducible rfl | simp only [↓plane_mk, ↓plane_ite, ite_self, eq_self, implies_true, ↓Chip.ilimRelease_plane] | split)
theorem execPhaseHardLimit_house {r : Rail} {s : State} {t : State} (h : execPhaseHardLimit r s = .next t) : t.chip.house = s.chip.house := by
  rw [execPhaseHardLimit] at h; rw [run_house h]
  generalize s.chip = c
  repeat' (first | with_reducible rfl | simp only [↓house_mk, ↓house_ite, ite_self, eq_self, implies_true, ↓Chip.hardLimit_house] | split)
theorem execPhaseHardLimit_vault {r : Rail} {s t : State} (h : execPhaseHardLimit r s = .next t) : t.chip.vault = s.chip.vault := by
  rw [execPhaseHardLimit] at h; rw [run_vault h]
  generalize s.chip = c
  repeat' (first | with_reducible rfl | simp only [↓vault_mk, ↓vault_sec, ↓vault_fw, ↓vault_secFw, ↓vault_ite, ite_self, eq_self, implies_true, ↓Chip.hardLimit_vault] | split | simp only [Chip.setFlag_sec, Chip.setField_sec, Chip.setReg_sec, Chip.bump_sec, Chip.setFlag_fw, Chip.setField_fw, Chip.setReg_fw, Chip.bump_fw])
theorem execPhaseHardLimit_plane {r : Rail} {s : State} {t : State} (h : execPhaseHardLimit r s = .next t) : t.chip.plane = s.chip.plane := by
  rw [execPhaseHardLimit] at h; rw [run_plane h]
  generalize s.chip = c
  repeat' (first | with_reducible rfl | simp only [↓plane_mk, ↓plane_ite, ite_self, eq_self, implies_true, ↓Chip.hardLimit_plane] | split)
theorem execPhaseEvaluation_vault {r : Rail} {phaseCurrents : List Nat} {s t : State} (h : execPhaseEvaluation r phaseCurrents s = .next t) : t.chip.vault = s.chip.vault := by
  rw [execPhaseEvaluation] at h; rw [run_vault h]
  generalize s.chip = c
  repeat' (first | with_reducible rfl | simp only [↓vault_mk, ↓vault_sec, ↓vault_fw, ↓vault_secFw, ↓vault_ite, ite_self, eq_self, implies_true, ↓Chip.phaseEval_vault] | split | simp only [Chip.setFlag_sec, Chip.setField_sec, Chip.setReg_sec, Chip.bump_sec, Chip.setFlag_fw, Chip.setField_fw, Chip.setReg_fw, Chip.bump_fw])
theorem execPhaseEvaluation_plane {r : Rail} {phaseCurrents : List Nat} {s t : State} (h : execPhaseEvaluation r phaseCurrents s = .next t) : t.chip.plane = s.chip.plane := by
  rw [execPhaseEvaluation] at h; rw [run_plane h]
  generalize s.chip = c
  repeat' (first | with_reducible rfl | simp only [↓plane_mk, ↓plane_ite, ite_self, eq_self, implies_true, ↓Chip.phaseEval_plane] | split)
theorem execRailVsetWrite_vault {v : W32} {s : State} {t : State} (h : execRailVsetWrite v s = .next t) : t.chip.vault = s.chip.vault := by
  rw [execRailVsetWrite] at h; rw [run_vault h]
  generalize s.chip = c
  repeat' (first | with_reducible rfl | simp only [↓vault_mk, ↓vault_sec, ↓vault_fw, ↓vault_secFw, ↓vault_ite, ite_self, eq_self, implies_true, ↓Chip.vsetWrite_vault] | split)
theorem execRailVsetWrite_plane {v : W32} {s : State} {t : State} (h : execRailVsetWrite v s = .next t) : t.chip.plane = s.chip.plane := by
  rw [execRailVsetWrite] at h; rw [run_plane h]
  generalize s.chip = c
  repeat' (first | with_reducible rfl | simp only [↓plane_mk, ↓plane_ite, ite_self, eq_self, implies_true, ↓Chip.vsetWrite_plane] | split)
theorem execRailSlewDone_vault {r : Rail} {s : State} {t : State} (h : execRailSlewDone r s = .next t) : t.chip.vault = s.chip.vault := by
  rw [execRailSlewDone] at h; rw [run_vault h]
  generalize s.chip = c
  repeat' (first | with_reducible rfl | simp only [↓vault_mk, ↓vault_sec, ↓vault_fw, ↓vault_secFw, ↓vault_ite, ite_self, eq_self, implies_true, ↓Chip.slewDone_vault] | split)
theorem execRailSlewDone_plane {r : Rail} {s : State} {t : State} (h : execRailSlewDone r s = .next t) : t.chip.plane = s.chip.plane := by
  rw [execRailSlewDone] at h; rw [run_plane h]
  generalize s.chip = c
  repeat' (first | with_reducible rfl | simp only [↓plane_mk, ↓plane_ite, ite_self, eq_self, implies_true, ↓Chip.slewDone_plane] | split)
theorem execRailFault_vault {r : Rail} {s : State} {t : State} (h : execRailFault r s = .next t) : t.chip.vault = s.chip.vault := by
  rw [execRailFault] at h; rw [run_vault h]
  generalize s.chip = c
  repeat' (first | with_reducible rfl | simp only [↓vault_mk, ↓vault_sec, ↓vault_fw, ↓vault_secFw, ↓vault_ite, ite_self, eq_self, implies_true, ↓Chip.railFault_vault] | split)
theorem execVin12Loss_vault {s : State} {t : State} (h : execVin12Loss s = .next t) : t.chip.vault = s.chip.vault := by
  rw [execVin12Loss] at h; rw [run_vault h]
  generalize s.chip = c
  repeat' (first | with_reducible rfl | simp only [↓vault_mk, ↓vault_sec, ↓vault_fw, ↓vault_secFw, ↓vault_ite, ite_self, eq_self, implies_true, ↓Chip.vinLoss_vault] | split)
theorem execLastGaspProgram_plane {supplyHeld : Bool} {s : State} {t : State} (h : execLastGaspProgram supplyHeld s = .next t) : t.chip.plane = s.chip.plane := by
  rw [execLastGaspProgram] at h; rw [run_plane h]
  generalize s.chip = c
  repeat' (first | with_reducible rfl | simp only [↓plane_mk, ↓plane_ite, ite_self, eq_self, implies_true, ↓Chip.gaspProgram_plane] | split)
theorem execCalSave_plane {s : State} {t : State} (h : execCalSave s = .next t) : t.chip.plane = s.chip.plane := by
  rw [execCalSave] at h; rw [run_plane h]
  generalize s.chip = c
  repeat' (first | with_reducible rfl | simp only [↓plane_mk, ↓plane_ite, ite_self, eq_self, implies_true, ↓Chip.calStart_plane] | split)
theorem execCalSavePeriodic_plane {s : State} {t : State} (h : execCalSavePeriodic s = .next t) : t.chip.plane = s.chip.plane := by
  rw [execCalSavePeriodic] at h; rw [run_plane h]
  generalize s.chip = c
  repeat' (first | with_reducible rfl | simp only [↓plane_mk, ↓plane_ite, ite_self, eq_self, implies_true, ↓Chip.calStart_plane] | split)
theorem execCalSaveDone_plane {ok : Bool} {s : State} {t : State} (h : execCalSaveDone ok s = .next t) : t.chip.plane = s.chip.plane := by
  rw [execCalSaveDone] at h; rw [run_plane h]
  generalize s.chip = c
  repeat' (first | with_reducible rfl | simp only [↓plane_mk, ↓plane_ite, ite_self, eq_self, implies_true, ↓Chip.calDone_plane] | split)
theorem execThermalSensorRead_vault {readings : List (BitVec 12)} {s : State} {t : State} (h : execThermalSensorRead readings s = .next t) : t.chip.vault = s.chip.vault := by
  rw [execThermalSensorRead] at h; rw [run_vault h]
  generalize s.chip = c
  repeat' (first | with_reducible rfl | simp only [↓vault_mk, ↓vault_sec, ↓vault_fw, ↓vault_secFw, ↓vault_ite, ite_self, eq_self, implies_true, ↓Chip.sensors_vault] | split)
theorem execThermalSensorRead_plane {readings : List (BitVec 12)} {s : State} {t : State} (h : execThermalSensorRead readings s = .next t) : t.chip.plane = s.chip.plane := by
  rw [execThermalSensorRead] at h; rw [run_plane h]
  generalize s.chip = c
  repeat' (first | with_reducible rfl | simp only [↓plane_mk, ↓plane_ite, ite_self, eq_self, implies_true, ↓Chip.sensors_plane] | split)
theorem execM0WatchdogExpiry_vault {s : State} {t : State} (h : execM0WatchdogExpiry s = .next t) : t.chip.vault = s.chip.vault := by
  rw [execM0WatchdogExpiry] at h; rw [run_vault h]
  generalize s.chip = c
  repeat' (first | with_reducible rfl | simp only [↓vault_mk, ↓vault_sec, ↓vault_fw, ↓vault_secFw, ↓vault_ite, ite_self, eq_self, implies_true, ↓Chip.mgmtReset_vault] | split)
theorem execM0WatchdogExpiry_plane {s : State} {t : State} (h : execM0WatchdogExpiry s = .next t) : t.chip.plane = s.chip.plane := by
  rw [execM0WatchdogExpiry] at h; rw [run_plane h]
  generalize s.chip = c
  repeat' (first | with_reducible rfl | simp only [↓plane_mk, ↓plane_ite, ite_self, eq_self, implies_true, ↓Chip.mgmtReset_plane] | split)
theorem execMgmtSramUe_vault {bank : Fin 8} {word : BitVec 16} {s t : State} (h : execMgmtSramUe bank word s = .next t) : t.chip.vault = s.chip.vault := by
  rw [execMgmtSramUe] at h; rw [run_vault h]
  generalize s.chip = c
  repeat' (first | with_reducible rfl | simp only [↓vault_mk, ↓vault_sec, ↓vault_fw, ↓vault_secFw, ↓vault_ite, ite_self, eq_self, implies_true, ↓Chip.sramError_vault] | split | simp only [Chip.setFlag_sec, Chip.setField_sec, Chip.setReg_sec, Chip.bump_sec, Chip.setFlag_fw, Chip.setField_fw, Chip.setReg_fw, Chip.bump_fw])
theorem execMgmtSramUe_plane {bank : Fin 8} {word : BitVec 16} {s t : State} (h : execMgmtSramUe bank word s = .next t) : t.chip.plane = s.chip.plane := by
  rw [execMgmtSramUe] at h; rw [run_plane h]
  generalize s.chip = c
  repeat' (first | with_reducible rfl | simp only [↓plane_mk, ↓plane_ite, ite_self, eq_self, implies_true, ↓Chip.sramError_plane] | split)
theorem execBootRomStart_plane {s : State} {t : State} (h : execBootRomStart s = .next t) : t.chip.plane = s.chip.plane := by
  rw [execBootRomStart] at h; rw [run_plane h]
  generalize s.chip = c
  repeat' (first | with_reducible rfl | simp only [↓plane_mk, ↓plane_ite, ite_self, eq_self, implies_true, ↓Chip.bootRom_plane] | split)
theorem execNewImageStart_plane {selfTestOk : Bool} {s t : State} (h : execNewImageStart selfTestOk s = .next t) : t.chip.plane = s.chip.plane := by
  rw [execNewImageStart] at h; rw [run_plane h]
  generalize s.chip = c
  repeat' (first | with_reducible rfl | simp only [↓plane_mk, ↓plane_ite, ite_self, eq_self, implies_true, ↓Chip.newImage_plane] | split)
theorem execFwHeartbeat_house {s : State} {t : State} (h : execFwHeartbeat s = .next t) : t.chip.house = s.chip.house := by
  rw [execFwHeartbeat] at h; rw [run_house h]
  generalize s.chip = c
  repeat' (first | with_reducible rfl | simp only [↓house_mk, ↓house_ite, ite_self, eq_self, implies_true, ↓Chip.heartbeat_house] | split)
theorem execFwHeartbeat_vault  {s t : State} (h : execFwHeartbeat s = .next t) : t.chip.vault = s.chip.vault := by
  rw [execFwHeartbeat] at h; rw [run_vault h]
  generalize s.chip = c
  repeat' (first | with_reducible rfl | simp only [↓vault_mk, ↓vault_sec, ↓vault_fw, ↓vault_secFw, ↓vault_ite, ite_self, eq_self, implies_true, ↓Chip.heartbeat_vault] | split | simp only [Chip.setFlag_sec, Chip.setField_sec, Chip.setReg_sec, Chip.bump_sec, Chip.setFlag_fw, Chip.setField_fw, Chip.setReg_fw, Chip.bump_fw])
theorem execFwHeartbeat_plane {s : State} {t : State} (h : execFwHeartbeat s = .next t) : t.chip.plane = s.chip.plane := by
  rw [execFwHeartbeat] at h; rw [run_plane h]
  generalize s.chip = c
  repeat' (first | with_reducible rfl | simp only [↓plane_mk, ↓plane_ite, ite_self, eq_self, implies_true, ↓Chip.heartbeat_plane] | split)
theorem execErrorLogCommit_plane {s : State} {t : State} (h : execErrorLogCommit s = .next t) : t.chip.plane = s.chip.plane := by
  rw [execErrorLogCommit] at h; rw [run_plane h]
  generalize s.chip = c
  repeat' (first | with_reducible rfl | simp only [↓plane_mk, ↓plane_ite, ite_self, eq_self, implies_true, ↓Chip.logCommit_plane] | split)
theorem execTelemetryPeriod_vault {produced : Bool} {s : State} {t : State} (h : execTelemetryPeriod produced s = .next t) : t.chip.vault = s.chip.vault := by
  rw [execTelemetryPeriod] at h; rw [run_vault h]
  generalize s.chip = c
  repeat' (first | with_reducible rfl | simp only [↓vault_mk, ↓vault_sec, ↓vault_fw, ↓vault_secFw, ↓vault_ite, ite_self, eq_self, implies_true, ↓Chip.telemPeriod_vault] | split)
theorem execTelemetryPeriod_plane {produced : Bool} {s : State} {t : State} (h : execTelemetryPeriod produced s = .next t) : t.chip.plane = s.chip.plane := by
  rw [execTelemetryPeriod] at h; rw [run_plane h]
  generalize s.chip = c
  repeat' (first | with_reducible rfl | simp only [↓plane_mk, ↓plane_ite, ite_self, eq_self, implies_true, ↓Chip.telemPeriod_plane] | split)
theorem execEvqIntPauseEnd_house {s : State} {t : State} (h : execEvqIntPauseEnd s = .next t) : t.chip.house = s.chip.house := by
  rw [execEvqIntPauseEnd] at h; rw [run_house h]
  generalize s.chip = c
  repeat' (first | with_reducible rfl | simp only [↓house_mk, ↓house_ite, ite_self, eq_self, implies_true, ↓Chip.pauseEnd_house] | split)
theorem execEvqIntPauseEnd_vault  {s t : State} (h : execEvqIntPauseEnd s = .next t) : t.chip.vault = s.chip.vault := by
  rw [execEvqIntPauseEnd] at h; rw [run_vault h]
  generalize s.chip = c
  repeat' (first | with_reducible rfl | simp only [↓vault_mk, ↓vault_sec, ↓vault_fw, ↓vault_secFw, ↓vault_ite, ite_self, eq_self, implies_true, ↓Chip.pauseEnd_vault] | split | simp only [Chip.setFlag_sec, Chip.setField_sec, Chip.setReg_sec, Chip.bump_sec, Chip.setFlag_fw, Chip.setField_fw, Chip.setReg_fw, Chip.bump_fw])
theorem execEvqIntPauseEnd_plane {s : State} {t : State} (h : execEvqIntPauseEnd s = .next t) : t.chip.plane = s.chip.plane := by
  rw [execEvqIntPauseEnd] at h; rw [run_plane h]
  generalize s.chip = c
  repeat' (first | with_reducible rfl | simp only [↓plane_mk, ↓plane_ite, ite_self, eq_self, implies_true, ↓Chip.pauseEnd_plane] | split)
theorem execCoreWatchdogExpiry_plane {core : Fin 4} {started : List Queue} {s : State} {t : State} (h : execCoreWatchdogExpiry core started s = .next t) : t.chip.plane = s.chip.plane := by
  rw [execCoreWatchdogExpiry] at h; rw [run_plane h]
  generalize s.chip = c
  repeat' (first | with_reducible rfl | simp only [↓plane_mk, ↓plane_ite, ite_self, eq_self, implies_true, ↓Chip.coreExpiry_plane, ↓Chip.failStarted_plane] | split)
theorem execMbxDoorbell_vault {q : Queue} {v : W32} {s t : State} (h : execMbxDoorbell q v s = .next t) : t.chip.vault = s.chip.vault := by
  rw [execMbxDoorbell] at h; rw [run_vault h]
  generalize s.chip = c
  repeat' (first | with_reducible rfl | simp only [↓vault_mk, ↓vault_sec, ↓vault_fw, ↓vault_secFw, ↓vault_ite, ite_self, eq_self, implies_true, ↓Chip.doorbell_vault] | split | simp only [Chip.setFlag_sec, Chip.setField_sec, Chip.setReg_sec, Chip.bump_sec, Chip.setFlag_fw, Chip.setField_fw, Chip.setReg_fw, Chip.bump_fw])
theorem execMbxDoorbell_plane {q : Queue} {v : W32} {s : State} {t : State} (h : execMbxDoorbell q v s = .next t) : t.chip.plane = s.chip.plane := by
  rw [execMbxDoorbell] at h; rw [run_plane h]
  generalize s.chip = c
  repeat' (first | with_reducible rfl | simp only [↓plane_mk, ↓plane_ite, ite_self, eq_self, implies_true, ↓Chip.doorbell_plane] | split)
theorem execMbxRspCiWrite_vault {q : Queue} {v : W32} {s t : State} (h : execMbxRspCiWrite q v s = .next t) : t.chip.vault = s.chip.vault := by
  rw [execMbxRspCiWrite] at h; rw [run_vault h]
  generalize s.chip = c
  repeat' (first | with_reducible rfl | simp only [↓vault_mk, ↓vault_sec, ↓vault_fw, ↓vault_secFw, ↓vault_ite, ite_self, eq_self, implies_true, ↓Chip.rspCiWrite_vault] | split | simp only [Chip.setFlag_sec, Chip.setField_sec, Chip.setReg_sec, Chip.bump_sec, Chip.setFlag_fw, Chip.setField_fw, Chip.setReg_fw, Chip.bump_fw])
theorem execMbxRspCiWrite_plane {q : Queue} {v : W32} {s : State} {t : State} (h : execMbxRspCiWrite q v s = .next t) : t.chip.plane = s.chip.plane := by
  rw [execMbxRspCiWrite] at h; rw [run_plane h]
  generalize s.chip = c
  repeat' (first | with_reducible rfl | simp only [↓plane_mk, ↓plane_ite, ite_self, eq_self, implies_true, ↓Chip.rspCiWrite_plane] | split)
theorem execMbxBusyTimeout_vault {q : Queue} {s t : State} (h : execMbxBusyTimeout q s = .next t) : t.chip.vault = s.chip.vault := by
  rw [execMbxBusyTimeout] at h; rw [run_vault h]
  generalize s.chip = c
  repeat' (first | with_reducible rfl | simp only [↓vault_mk, ↓vault_sec, ↓vault_fw, ↓vault_secFw, ↓vault_ite, ite_self, eq_self, implies_true, ↓Chip.busyTimeout_vault] | split | simp only [Chip.setFlag_sec, Chip.setField_sec, Chip.setReg_sec, Chip.bump_sec, Chip.setFlag_fw, Chip.setField_fw, Chip.setReg_fw, Chip.bump_fw])
theorem execMbxBusyTimeout_plane {q : Queue} {s t : State} (h : execMbxBusyTimeout q s = .next t) : t.chip.plane = s.chip.plane := by
  rw [execMbxBusyTimeout] at h; rw [run_plane h]
  generalize s.chip = c
  repeat' (first | with_reducible rfl | simp only [↓plane_mk, ↓plane_ite, ite_self, eq_self, implies_true, ↓Chip.busyTimeout_plane] | split)
theorem execGetVersion_plane {q : Queue} {s : State} {t : State} (h : execGetVersion q s = .next t) : t.chip.plane = s.chip.plane := by
  rw [execGetVersion] at h; rw [run_plane h]
  split
  · exact Chip.serve_plane _ _ _ _ _ (fun _ _ => by simp only [Chip.getVersion, Chip.takeFresh_plane])
  · exact Eq.refl _
theorem execGetStatus_plane {q : Queue} {s : State} {t : State} (h : execGetStatus q s = .next t) : t.chip.plane = s.chip.plane := by
  rw [execGetStatus] at h; rw [run_plane h]
  split
  · exact Chip.serve_plane _ _ _ _ _ (fun _ _ => by simp only [Chip.getStatus, id_eq])
  · exact Eq.refl _
theorem execImgBegin_plane {q : Queue} {s : State} {t : State} (h : execImgBegin q s = .next t) : t.chip.plane = s.chip.plane := by
  rw [execImgBegin] at h; rw [run_plane h]
  split
  · refine Chip.serve_plane _ _ _ _ _ (fun bs c' => ?_)
    unfold Chip.imgBegin
    extract_lets
    repeat' split
    all_goals first | exact Eq.refl _ | (simp only [Chip.flashErase_plane]; done)
  · exact Eq.refl _
theorem execImgWrite_plane {q : Queue} {data : List Byte} {s : State} {t : State} (h : execImgWrite q data s = .next t) : t.chip.plane = s.chip.plane := by
  rw [execImgWrite] at h; rw [run_plane h]
  split
  · refine Chip.serve_plane _ _ _ _ _ (fun bs c' => ?_)
    unfold Chip.imgWrite
    extract_lets
    repeat' split
    all_goals first | exact Eq.refl _ | (simp only [Chip.flashProgram_plane]; done)
  · exact Eq.refl _
theorem execImgVerify_plane {q : Queue} {s : State} {t : State} (h : execImgVerify q s = .next t) : t.chip.plane = s.chip.plane := by
  rw [execImgVerify] at h; rw [run_plane h]
  split
  · refine Chip.serve_plane _ _ _ _ _ (fun bs c' => ?_)
    unfold Chip.imgVerify
    extract_lets
    repeat' split
    all_goals first | exact Eq.refl _ | (simp only [Chip.writeSlotState_plane]; done)
  · exact Eq.refl _
theorem execImgActivate_plane {q : Queue} {s : State} {t : State} (h : execImgActivate q s = .next t) : t.chip.plane = s.chip.plane := by
  rw [execImgActivate] at h; rw [run_plane h]
  split
  · refine Chip.serve_plane _ _ _ _ _ (fun bs c' => ?_)
    unfold Chip.imgActivate
    extract_lets
    repeat' split
    all_goals first | exact Eq.refl _ | (simp only [plane_ite, Chip.bootTry_plane, Chip.updateStart_plane, ite_self]; done)
  · exact Eq.refl _
theorem execImgCommitSvn_plane {q : Queue} {s : State} {t : State} (h : execImgCommitSvn q s = .next t) : t.chip.plane = s.chip.plane := by
  rw [execImgCommitSvn] at h; rw [run_plane h]
  split
  · refine Chip.serve_plane _ _ _ _ _ (fun bs c' => ?_)
    unfold Chip.imgCommit
    skip
    repeat' split
    all_goals first | exact Eq.refl _ | (simp only [plane_mk]; done)
  · exact Eq.refl _
theorem execImgReject_plane {q : Queue} {s : State} {t : State} (h : execImgReject q s = .next t) : t.chip.plane = s.chip.plane := by
  rw [execImgReject] at h; rw [run_plane h]
  split
  · refine Chip.serve_plane _ _ _ _ _ (fun bs c' => ?_)
    unfold Chip.imgReject
    extract_lets
    repeat' split
    all_goals first | exact Eq.refl _ | (simp only [Chip.writeSlotState_plane]; done)
  · exact Eq.refl _
theorem execImgRevokeKey_plane {q : Queue} {s : State} {t : State} (h : execImgRevokeKey q s = .next t) : t.chip.plane = s.chip.plane := by
  rw [execImgRevokeKey] at h; rw [run_plane h]
  split
  · refine Chip.serve_plane _ _ _ _ _ (fun bs c' => ?_)
    unfold Chip.imgRevoke
    extract_lets
    repeat' split
    all_goals first | exact Eq.refl _ | (simp only [plane_mk]; done)
  · exact Eq.refl _
theorem execLogRead_plane {q : Queue} {s : State} {t : State} (h : execLogRead q s = .next t) : t.chip.plane = s.chip.plane := by
  rw [execLogRead] at h; rw [run_plane h]
  split
  · exact Chip.serve_plane _ _ _ _ _ (fun _ _ => by simp only [Chip.logRead, plane_mk])
  · exact Eq.refl _
theorem execTelemCfg_plane {q : Queue} {s : State} {t : State} (h : execTelemCfg q s = .next t) : t.chip.plane = s.chip.plane := by
  rw [execTelemCfg] at h; rw [run_plane h]
  split
  · exact Chip.serve_plane _ _ _ _ _ telemCfg_plane
  · exact Eq.refl _
theorem execSecureWipe_vault {s : State} {t : State} (h : execSecureWipe s = .next t) : t.chip.vault = s.chip.vault := by
  rw [execSecureWipe] at h; rw [run_vault h]
  generalize s.chip = c
  repeat' (first | with_reducible rfl | simp only [↓vault_mk, ↓vault_sec, ↓vault_fw, ↓vault_secFw, ↓vault_ite, ite_self, eq_self, implies_true, ↓Chip.startWipe_vault] | split)
theorem execSecureWipe_plane {s : State} {t : State} (h : execSecureWipe s = .next t) : t.chip.plane = s.chip.plane := by
  rw [execSecureWipe] at h; rw [run_plane h]
  generalize s.chip = c
  repeat' (first | with_reducible rfl | simp only [↓plane_mk, ↓plane_ite, ite_self, eq_self, implies_true, ↓Chip.startWipe_plane] | split)
theorem execWipeDone_plane {clear : Bool} {s : State} {t : State} (h : execWipeDone clear s = .next t) : t.chip.plane = s.chip.plane := by
  rw [execWipeDone] at h; rw [run_plane h]
  generalize s.chip = c
  repeat' (first | with_reducible rfl | simp only [↓plane_mk, ↓plane_ite, ite_self, eq_self, implies_true, ↓Chip.wipeDone_plane] | split)
theorem execTamperDetect_vault {src : Fin 7} {s : State} {t : State} (h : execTamperDetect src s = .next t) : t.chip.vault = s.chip.vault := by
  rw [execTamperDetect] at h; rw [run_vault h]
  generalize s.chip = c
  repeat' (first | with_reducible rfl | simp only [↓vault_mk, ↓vault_sec, ↓vault_fw, ↓vault_secFw, ↓vault_ite, ite_self, eq_self, implies_true, ↓Chip.tamper_vault] | split)
theorem execTamperDetect_plane {src : Fin 7} {s : State} {t : State} (h : execTamperDetect src s = .next t) : t.chip.plane = s.chip.plane := by
  rw [execTamperDetect] at h; rw [run_plane h]
  generalize s.chip = c
  repeat' (first | with_reducible rfl | simp only [↓plane_mk, ↓plane_ite, ite_self, eq_self, implies_true, ↓Chip.tamper_plane] | split)
theorem execTapInstruction_vault {ir : TapInstr} {s : State} {t : State} (h : execTapInstruction ir s = .next t) : t.chip.vault = s.chip.vault := by
  rw [execTapInstruction] at h; rw [run_vault h]
  generalize s.chip = c
  repeat' (first | with_reducible rfl | simp only [↓vault_mk, ↓vault_sec, ↓vault_fw, ↓vault_secFw, ↓vault_ite, ite_self, eq_self, implies_true, ↓Chip.tamper_vault] | split)
theorem execTapInstruction_plane {ir : TapInstr} {s : State} {t : State} (h : execTapInstruction ir s = .next t) : t.chip.plane = s.chip.plane := by
  rw [execTapInstruction] at h; rw [run_plane h]
  generalize s.chip = c
  repeat' (first | with_reducible rfl | simp only [↓plane_mk, ↓plane_ite, ite_self, eq_self, implies_true, ↓Chip.tamper_plane] | split)
theorem execTokenChallenge_house {s : State} {t : State} (h : execTokenChallenge s = .next t) : t.chip.house = s.chip.house := by
  rw [execTokenChallenge] at h; rw [run_house h]
  generalize s.chip = c
  repeat' (first | with_reducible rfl | simp only [↓house_mk, ↓house_ite, ite_self, eq_self, implies_true, ↓Chip.newChallenge_house] | split)
theorem execTokenChallenge_vault  {s t : State} (h : execTokenChallenge s = .next t) : t.chip.vault = s.chip.vault := by
  rw [execTokenChallenge] at h; rw [run_vault h]
  generalize s.chip = c
  repeat' (first | with_reducible rfl | simp only [↓vault_mk, ↓vault_sec, ↓vault_fw, ↓vault_secFw, ↓vault_ite, ite_self, eq_self, implies_true, ↓Chip.newChallenge_vault] | split | simp only [Chip.setFlag_sec, Chip.setField_sec, Chip.setReg_sec, Chip.bump_sec, Chip.setFlag_fw, Chip.setField_fw, Chip.setReg_fw, Chip.bump_fw])
theorem execTokenChallenge_plane {s : State} {t : State} (h : execTokenChallenge s = .next t) : t.chip.plane = s.chip.plane := by
  rw [execTokenChallenge] at h; rw [run_plane h]
  generalize s.chip = c
  repeat' (first | with_reducible rfl | simp only [↓plane_mk, ↓plane_ite, ite_self, eq_self, implies_true, ↓Chip.newChallenge_plane] | split)
theorem execTokenSubmit_vault {s : State} {t : State} (h : execTokenSubmit s = .next t) : t.chip.vault = s.chip.vault := by
  rw [execTokenSubmit] at h; rw [run_vault h]
  generalize s.chip = c
  repeat' (first | with_reducible rfl | simp only [↓vault_mk, ↓vault_sec, ↓vault_fw, ↓vault_secFw, ↓vault_ite, ite_self, eq_self, implies_true, ↓Chip.submit_vault] | split)
theorem execTokenSubmit_plane {s : State} {t : State} (h : execTokenSubmit s = .next t) : t.chip.plane = s.chip.plane := by
  rw [execTokenSubmit] at h; rw [run_plane h]
  generalize s.chip = c
  repeat' (first | with_reducible rfl | simp only [↓plane_mk, ↓plane_ite, ite_self, eq_self, implies_true, ↓Chip.submit_plane] | split)
theorem execTokenCheckDone_plane {s : State} {t : State} (h : execTokenCheckDone s = .next t) : t.chip.plane = s.chip.plane := by
  rw [execTokenCheckDone] at h; rw [run_plane h]
  generalize s.chip = c
  repeat' (first | with_reducible rfl | simp only [↓plane_mk, ↓plane_ite, ite_self, eq_self, implies_true, ↓Chip.checkDone_plane] | split)
theorem execTokenLock_vault  {s t : State} (h : execTokenLock s = .next t) : t.chip.vault = s.chip.vault := by
  rw [execTokenLock] at h; rw [run_vault h]
  generalize s.chip = c
  repeat' (first | with_reducible rfl | simp only [↓vault_mk, ↓vault_sec, ↓vault_fw, ↓vault_secFw, ↓vault_ite, ite_self, eq_self, implies_true, ↓Chip.closeDebug_vault] | split | simp only [Chip.setFlag_sec, Chip.setField_sec, Chip.setReg_sec, Chip.bump_sec, Chip.setFlag_fw, Chip.setField_fw, Chip.setReg_fw, Chip.bump_fw])
theorem execTokenLock_plane  {s t : State} (h : execTokenLock s = .next t) : t.chip.plane = s.chip.plane := by
  rw [execTokenLock] at h; rw [run_plane h]
  generalize s.chip = c
  repeat' (first | with_reducible rfl | simp only [↓plane_mk, ↓plane_ite, ite_self, eq_self, implies_true, ↓Chip.closeDebug_plane] | split)
theorem execSnapshotArm_house {s : State} {t : State} (h : execSnapshotArm s = .next t) : t.chip.house = s.chip.house := by
  rw [execSnapshotArm] at h; rw [run_house h]
  generalize s.chip = c
  repeat' (first | with_reducible rfl | simp only [↓house_mk, ↓house_ite, ite_self, eq_self, implies_true, ↓Chip.setFlag_house] | split)
theorem execSnapshotArm_vault  {s t : State} (h : execSnapshotArm s = .next t) : t.chip.vault = s.chip.vault := by
  rw [execSnapshotArm] at h; rw [run_vault h]
  generalize s.chip = c
  repeat' (first | with_reducible rfl | simp only [↓vault_mk, ↓vault_sec, ↓vault_fw, ↓vault_secFw, ↓vault_ite, ite_self, eq_self, implies_true, ↓Chip.setFlag_vault] | split | simp only [Chip.setFlag_sec, Chip.setField_sec, Chip.setReg_sec, Chip.bump_sec, Chip.setFlag_fw, Chip.setField_fw, Chip.setReg_fw, Chip.bump_fw])
theorem execSnapshotArm_plane {s : State} {t : State} (h : execSnapshotArm s = .next t) : t.chip.plane = s.chip.plane := by
  rw [execSnapshotArm] at h; rw [run_plane h]
  generalize s.chip = c
  repeat' (first | with_reducible rfl | simp only [↓plane_mk, ↓plane_ite, ite_self, eq_self, implies_true, ↓Chip.setFlag_plane] | split)
theorem execSnapshotTrigger_house {s : State} {t : State} (h : execSnapshotTrigger s = .next t) : t.chip.house = s.chip.house := by
  rw [execSnapshotTrigger] at h; rw [run_house h]
  generalize s.chip = c
  repeat' (first | with_reducible rfl | simp only [↓house_mk, ↓house_ite, ite_self, eq_self, implies_true, ↓Chip.snapTrigger_house] | split)
theorem execSnapshotTrigger_vault  {s t : State} (h : execSnapshotTrigger s = .next t) : t.chip.vault = s.chip.vault := by
  rw [execSnapshotTrigger] at h; rw [run_vault h]
  generalize s.chip = c
  repeat' (first | with_reducible rfl | simp only [↓vault_mk, ↓vault_sec, ↓vault_fw, ↓vault_secFw, ↓vault_ite, ite_self, eq_self, implies_true, ↓Chip.snapTrigger_vault] | split | simp only [Chip.setFlag_sec, Chip.setField_sec, Chip.setReg_sec, Chip.bump_sec, Chip.setFlag_fw, Chip.setField_fw, Chip.setReg_fw, Chip.bump_fw])
theorem execSnapshotTrigger_plane {s : State} {t : State} (h : execSnapshotTrigger s = .next t) : t.chip.plane = s.chip.plane := by
  rw [execSnapshotTrigger] at h; rw [run_plane h]
  generalize s.chip = c
  repeat' (first | with_reducible rfl | simp only [↓plane_mk, ↓plane_ite, ite_self, eq_self, implies_true, ↓Chip.snapTrigger_plane] | split)
theorem execSnapInEdge_house {s : State} {t : State} (h : execSnapInEdge s = .next t) : t.chip.house = s.chip.house := by
  rw [execSnapInEdge] at h; rw [run_house h]
  generalize s.chip = c
  repeat' (first | with_reducible rfl | simp only [↓house_mk, ↓house_ite, ite_self, eq_self, implies_true, ↓Chip.snapTrigger_house] | split)
theorem execSnapInEdge_vault  {s t : State} (h : execSnapInEdge s = .next t) : t.chip.vault = s.chip.vault := by
  rw [execSnapInEdge] at h; rw [run_vault h]
  generalize s.chip = c
  repeat' (first | with_reducible rfl | simp only [↓vault_mk, ↓vault_sec, ↓vault_fw, ↓vault_secFw, ↓vault_ite, ite_self, eq_self, implies_true, ↓Chip.snapTrigger_vault] | split | simp only [Chip.setFlag_sec, Chip.setField_sec, Chip.setReg_sec, Chip.bump_sec, Chip.setFlag_fw, Chip.setField_fw, Chip.setReg_fw, Chip.bump_fw])
theorem execSnapInEdge_plane {s : State} {t : State} (h : execSnapInEdge s = .next t) : t.chip.plane = s.chip.plane := by
  rw [execSnapInEdge] at h; rw [run_plane h]
  generalize s.chip = c
  repeat' (first | with_reducible rfl | simp only [↓plane_mk, ↓plane_ite, ite_self, eq_self, implies_true, ↓Chip.snapTrigger_plane] | split)
theorem execSnapshotSlotMatch_house {s : State} {t : State} (h : execSnapshotSlotMatch s = .next t) : t.chip.house = s.chip.house := by
  rw [execSnapshotSlotMatch] at h; rw [run_house h]
  generalize s.chip = c
  repeat' (first | with_reducible rfl | simp only [↓house_mk, ↓house_ite, ite_self, eq_self, implies_true, ↓Chip.snapTrigger_house] | split)
theorem execSnapshotSlotMatch_vault  {s t : State} (h : execSnapshotSlotMatch s = .next t) : t.chip.vault = s.chip.vault := by
  rw [execSnapshotSlotMatch] at h; rw [run_vault h]
  generalize s.chip = c
  repeat' (first | with_reducible rfl | simp only [↓vault_mk, ↓vault_sec, ↓vault_fw, ↓vault_secFw, ↓vault_ite, ite_self, eq_self, implies_true, ↓Chip.snapTrigger_vault] | split | simp only [Chip.setFlag_sec, Chip.setField_sec, Chip.setReg_sec, Chip.bump_sec, Chip.setFlag_fw, Chip.setField_fw, Chip.setReg_fw, Chip.bump_fw])
theorem execSnapshotSlotMatch_plane {s : State} {t : State} (h : execSnapshotSlotMatch s = .next t) : t.chip.plane = s.chip.plane := by
  rw [execSnapshotSlotMatch] at h; rw [run_plane h]
  generalize s.chip = c
  repeat' (first | with_reducible rfl | simp only [↓plane_mk, ↓plane_ite, ite_self, eq_self, implies_true, ↓Chip.snapTrigger_plane] | split)
theorem execSnapshotLatch_vault {s : State} {t : State} (h : execSnapshotLatch s = .next t) : t.chip.vault = s.chip.vault := by
  rw [execSnapshotLatch] at h; rw [run_vault h]
  generalize s.chip = c
  repeat' (first | with_reducible rfl | simp only [↓vault_mk, ↓vault_sec, ↓vault_fw, ↓vault_secFw, ↓vault_ite, ite_self, eq_self, implies_true, ↓Chip.snapLatch_vault] | split)
theorem execSnapshotLatch_plane {s : State} {t : State} (h : execSnapshotLatch s = .next t) : t.chip.plane = s.chip.plane := by
  rw [execSnapshotLatch] at h; rw [run_plane h]
  generalize s.chip = c
  repeat' (first | with_reducible rfl | simp only [↓plane_mk, ↓plane_ite, ite_self, eq_self, implies_true, ↓Chip.snapLatch_plane] | split)
theorem execSnpTimeLoRead_house {s : State} {t : State} (h : execSnpTimeLoRead s = .next t) : t.chip.house = s.chip.house := by
  rw [execSnpTimeLoRead] at h; rw [run_house h]
  generalize s.chip = c
  repeat' (first | with_reducible rfl | simp only [↓house_mk, ↓house_ite, ite_self, eq_self, implies_true, ↓Chip.answer_house, ↓Chip.setReg_house] | split)
theorem execSnpTimeLoRead_vault  {s t : State} (h : execSnpTimeLoRead s = .next t) : t.chip.vault = s.chip.vault := by
  rw [execSnpTimeLoRead] at h; rw [run_vault h]
  generalize s.chip = c
  repeat' (first | with_reducible rfl | simp only [↓vault_mk, ↓vault_sec, ↓vault_fw, ↓vault_secFw, ↓vault_ite, ite_self, eq_self, implies_true, ↓Chip.setReg_vault, ↓Chip.answer_vault] | split | simp only [Chip.setFlag_sec, Chip.setField_sec, Chip.setReg_sec, Chip.bump_sec, Chip.setFlag_fw, Chip.setField_fw, Chip.setReg_fw, Chip.bump_fw])
theorem execSnpTimeLoRead_plane {s : State} {t : State} (h : execSnpTimeLoRead s = .next t) : t.chip.plane = s.chip.plane := by
  rw [execSnpTimeLoRead] at h; rw [run_plane h]
  generalize s.chip = c
  repeat' (first | with_reducible rfl | simp only [↓plane_mk, ↓plane_ite, ite_self, eq_self, implies_true, ↓Chip.answer_plane, ↓Chip.setReg_plane] | split)
theorem execTimNowLoRead_house {s : State} {t : State} (h : execTimNowLoRead s = .next t) : t.chip.house = s.chip.house := by
  rw [execTimNowLoRead] at h; rw [run_house h]
  generalize s.chip = c
  repeat' (first | with_reducible rfl | simp only [↓house_mk, ↓house_ite, ite_self, eq_self, implies_true, ↓Chip.answer_house, ↓Chip.setReg_house] | split)
theorem execTimNowLoRead_vault  {s t : State} (h : execTimNowLoRead s = .next t) : t.chip.vault = s.chip.vault := by
  rw [execTimNowLoRead] at h; rw [run_vault h]
  generalize s.chip = c
  repeat' (first | with_reducible rfl | simp only [↓vault_mk, ↓vault_sec, ↓vault_fw, ↓vault_secFw, ↓vault_ite, ite_self, eq_self, implies_true, ↓Chip.setReg_vault, ↓Chip.answer_vault] | split | simp only [Chip.setFlag_sec, Chip.setField_sec, Chip.setReg_sec, Chip.bump_sec, Chip.setFlag_fw, Chip.setField_fw, Chip.setReg_fw, Chip.bump_fw])
theorem execTimNowLoRead_plane {s : State} {t : State} (h : execTimNowLoRead s = .next t) : t.chip.plane = s.chip.plane := by
  rw [execTimNowLoRead] at h; rw [run_plane h]
  generalize s.chip = c
  repeat' (first | with_reducible rfl | simp only [↓plane_mk, ↓plane_ite, ite_self, eq_self, implies_true, ↓Chip.answer_plane, ↓Chip.setReg_plane] | split)
theorem execTimeOffsetWrite_vault {v : W32} {s : State} {t : State} (h : execTimeOffsetWrite v s = .next t) : t.chip.vault = s.chip.vault := by
  rw [execTimeOffsetWrite] at h; rw [run_vault h]
  generalize s.chip = c
  repeat' (first | with_reducible rfl | simp only [↓vault_mk, ↓vault_sec, ↓vault_fw, ↓vault_secFw, ↓vault_ite, ite_self, eq_self, implies_true, ↓Chip.offsetWrite_vault] | split)
theorem execTimeOffsetWrite_plane {v : W32} {s : State} {t : State} (h : execTimeOffsetWrite v s = .next t) : t.chip.plane = s.chip.plane := by
  rw [execTimeOffsetWrite] at h; rw [run_plane h]
  generalize s.chip = c
  repeat' (first | with_reducible rfl | simp only [↓plane_mk, ↓plane_ite, ite_self, eq_self, implies_true, ↓Chip.offsetWrite_plane] | split)
theorem execTimeSlewDone_house {s : State} {t : State} (h : execTimeSlewDone s = .next t) : t.chip.house = s.chip.house := by
  rw [execTimeSlewDone] at h; rw [run_house h]
  generalize s.chip = c
  repeat' (first | with_reducible rfl | simp only [↓house_mk, ↓house_ite, ite_self, eq_self, implies_true, ↓Chip.slewEnd_house] | split)
theorem execTimeSlewDone_vault  {s t : State} (h : execTimeSlewDone s = .next t) : t.chip.vault = s.chip.vault := by
  rw [execTimeSlewDone] at h; rw [run_vault h]
  generalize s.chip = c
  repeat' (first | with_reducible rfl | simp only [↓vault_mk, ↓vault_sec, ↓vault_fw, ↓vault_secFw, ↓vault_ite, ite_self, eq_self, implies_true, ↓Chip.slewEnd_vault] | split | simp only [Chip.setFlag_sec, Chip.setField_sec, Chip.setReg_sec, Chip.bump_sec, Chip.setFlag_fw, Chip.setField_fw, Chip.setReg_fw, Chip.bump_fw])
theorem execTimeSlewDone_plane {s : State} {t : State} (h : execTimeSlewDone s = .next t) : t.chip.plane = s.chip.plane := by
  rw [execTimeSlewDone] at h; rw [run_plane h]
  generalize s.chip = c
  repeat' (first | with_reducible rfl | simp only [↓plane_mk, ↓plane_ite, ite_self, eq_self, implies_true, ↓Chip.slewEnd_plane] | split)
theorem execTimeStepGo_vault {s : State} {t : State} (h : execTimeStepGo s = .next t) : t.chip.vault = s.chip.vault := by
  rw [execTimeStepGo] at h; rw [run_vault h]
  generalize s.chip = c
  repeat' (first | with_reducible rfl | simp only [↓vault_mk, ↓vault_sec, ↓vault_fw, ↓vault_secFw, ↓vault_ite, ite_self, eq_self, implies_true, ↓Chip.stepGo_vault] | split)
theorem execPpsInEdge_house {s : State} {t : State} (h : execPpsInEdge s = .next t) : t.chip.house = s.chip.house := by
  rw [execPpsInEdge] at h; rw [run_house h]
  generalize s.chip = c
  repeat' (first | with_reducible rfl | simp only [↓house_mk, ↓house_ite, ite_self, eq_self, implies_true, ↓Chip.ppsIn_house] | split)
theorem execPpsInEdge_vault  {s t : State} (h : execPpsInEdge s = .next t) : t.chip.vault = s.chip.vault := by
  rw [execPpsInEdge] at h; rw [run_vault h]
  generalize s.chip = c
  repeat' (first | with_reducible rfl | simp only [↓vault_mk, ↓vault_sec, ↓vault_fw, ↓vault_secFw, ↓vault_ite, ite_self, eq_self, implies_true, ↓Chip.ppsIn_vault] | split | simp only [Chip.setFlag_sec, Chip.setField_sec, Chip.setReg_sec, Chip.bump_sec, Chip.setFlag_fw, Chip.setField_fw, Chip.setReg_fw, Chip.bump_fw])
theorem execPpsInEdge_plane {s : State} {t : State} (h : execPpsInEdge s = .next t) : t.chip.plane = s.chip.plane := by
  rw [execPpsInEdge] at h; rw [run_plane h]
  generalize s.chip = c
  repeat' (first | with_reducible rfl | simp only [↓plane_mk, ↓plane_ite, ite_self, eq_self, implies_true, ↓Chip.ppsIn_plane] | split)
theorem execPpsOutSecond_vault {s : State} {t : State} (h : execPpsOutSecond s = .next t) : t.chip.vault = s.chip.vault := by
  rw [execPpsOutSecond] at h; rw [run_vault h]
  generalize s.chip = c
  repeat' (first | with_reducible rfl | simp only [↓vault_mk, ↓vault_sec, ↓vault_fw, ↓vault_secFw, ↓vault_ite, ite_self, eq_self, implies_true, ↓Chip.ppsOut_vault] | split)
theorem execPpsOutSecond_plane {s : State} {t : State} (h : execPpsOutSecond s = .next t) : t.chip.plane = s.chip.plane := by
  rw [execPpsOutSecond] at h; rw [run_plane h]
  generalize s.chip = c
  repeat' (first | with_reducible rfl | simp only [↓plane_mk, ↓plane_ite, ite_self, eq_self, implies_true, ↓Chip.ppsOut_plane] | split)
theorem execPtpServoUpdate_vault {offset : Int} {upstream : Bool} {s : State} {t : State} (h : execPtpServoUpdate offset upstream s = .next t) : t.chip.vault = s.chip.vault := by
  rw [execPtpServoUpdate] at h; rw [run_vault h]
  generalize s.chip = c
  repeat' (first | with_reducible rfl | simp only [↓vault_mk, ↓vault_sec, ↓vault_fw, ↓vault_secFw, ↓vault_ite, ite_self, eq_self, implies_true, ↓Chip.servo_vault] | split)
theorem execCellTime_house  {s t : State} (h : execCellTime s = .next t) : t.chip.house = s.chip.house := by
  rw [execCellTime] at h; rw [run_house h]
  generalize s.chip = c
  repeat' (first | with_reducible rfl | simp only [↓house_mk, ↓house_ite, ite_self, eq_self, implies_true, ↓Chip.xStart_house, ↓Chip.cellTime_house] | split)
theorem execCellTime_vault  {s t : State} (h : execCellTime s = .next t) : t.chip.vault = s.chip.vault := by
  rw [execCellTime] at h; rw [run_vault h]
  generalize s.chip = c
  repeat' (first | with_reducible rfl | simp only [↓vault_mk, ↓vault_sec, ↓vault_fw, ↓vault_secFw, ↓vault_ite, ite_self, eq_self, implies_true, ↓Chip.xStart_vault, ↓Chip.cellTime_vault] | split | simp only [Chip.setFlag_sec, Chip.setField_sec, Chip.setReg_sec, Chip.bump_sec, Chip.setFlag_fw, Chip.setField_fw, Chip.setReg_fw, Chip.bump_fw])
theorem execPwronRstN_vault {level : Bool} {s : State} {t : State} (h : execPwronRstN level s = .next t) : t.chip.vault = s.chip.vault := by
  rw [execPwronRstN] at h; rw [run_vault h]
  generalize s.chip = c
  repeat' (first | with_reducible rfl | simp only [↓vault_mk, ↓vault_sec, ↓vault_fw, ↓vault_secFw, ↓vault_ite, ite_self, eq_self, implies_true, ↓Chip.pwronPin_vault] | split)
theorem execPwronRstN_plane {level : Bool} {s : State} {t : State} (h : execPwronRstN level s = .next t) : t.chip.plane = s.chip.plane := by
  rw [execPwronRstN] at h; rw [run_plane h]
  generalize s.chip = c
  repeat' (first | with_reducible rfl | simp only [↓plane_mk, ↓plane_ite, ite_self, eq_self, implies_true, ↓Chip.pwronPin_plane] | split)
theorem execWarmRstN_vault {level : Bool} {s : State} {t : State} (h : execWarmRstN level s = .next t) : t.chip.vault = s.chip.vault := by
  rw [execWarmRstN] at h; rw [run_vault h]
  generalize s.chip = c
  repeat' (first | with_reducible rfl | simp only [↓vault_mk, ↓vault_sec, ↓vault_fw, ↓vault_secFw, ↓vault_ite, ite_self, eq_self, implies_true, ↓Chip.warmPin_vault])
theorem execWarmRstN_plane {level : Bool} {s : State} {t : State} (h : execWarmRstN level s = .next t) : t.chip.plane = s.chip.plane := by
  rw [execWarmRstN] at h; rw [run_plane h]
  generalize s.chip = c
  repeat' (first | with_reducible rfl | simp only [↓plane_mk, ↓plane_ite, ite_self, eq_self, implies_true, ↓Chip.warmPin_plane])
theorem execPwrRstCold_vault {v : W32} {s : State} {t : State} (h : execPwrRstCold v s = .next t) : t.chip.vault = s.chip.vault := by
  rw [execPwrRstCold] at h; rw [run_vault h]
  generalize s.chip = c
  repeat' (first | with_reducible rfl | simp only [↓vault_mk, ↓vault_sec, ↓vault_fw, ↓vault_secFw, ↓vault_ite, ite_self, eq_self, implies_true, ↓Chip.rstCtrl_vault] | split)
theorem execPwrRstCold_plane {v : W32} {s : State} {t : State} (h : execPwrRstCold v s = .next t) : t.chip.plane = s.chip.plane := by
  rw [execPwrRstCold] at h; rw [run_plane h]
  generalize s.chip = c
  repeat' (first | with_reducible rfl | simp only [↓plane_mk, ↓plane_ite, ite_self, eq_self, implies_true, ↓Chip.rstCtrl_plane] | split)
theorem execPwrRstWarm_vault {v : W32} {s : State} {t : State} (h : execPwrRstWarm v s = .next t) : t.chip.vault = s.chip.vault := by
  rw [execPwrRstWarm] at h; rw [run_vault h]
  generalize s.chip = c
  repeat' (first | with_reducible rfl | simp only [↓vault_mk, ↓vault_sec, ↓vault_fw, ↓vault_secFw, ↓vault_ite, ite_self, eq_self, implies_true, ↓Chip.rstCtrl_vault] | split)
theorem execPwrRstWarm_plane {v : W32} {s : State} {t : State} (h : execPwrRstWarm v s = .next t) : t.chip.plane = s.chip.plane := by
  rw [execPwrRstWarm] at h; rw [run_plane h]
  generalize s.chip = c
  repeat' (first | with_reducible rfl | simp only [↓plane_mk, ↓plane_ite, ite_self, eq_self, implies_true, ↓Chip.rstCtrl_plane] | split)
theorem execPwrRstMgmt_vault {v : W32} {s : State} {t : State} (h : execPwrRstMgmt v s = .next t) : t.chip.vault = s.chip.vault := by
  rw [execPwrRstMgmt] at h; rw [run_vault h]
  generalize s.chip = c
  repeat' (first | with_reducible rfl | simp only [↓vault_mk, ↓vault_sec, ↓vault_fw, ↓vault_secFw, ↓vault_ite, ite_self, eq_self, implies_true, ↓Chip.rstCtrl_vault] | split)
theorem execPwrRstMgmt_plane {v : W32} {s : State} {t : State} (h : execPwrRstMgmt v s = .next t) : t.chip.plane = s.chip.plane := by
  rw [execPwrRstMgmt] at h; rw [run_plane h]
  generalize s.chip = c
  repeat' (first | with_reducible rfl | simp only [↓plane_mk, ↓plane_ite, ite_self, eq_self, implies_true, ↓Chip.rstCtrl_plane] | split)
theorem execWarmReset_vault {s : State} {t : State} (h : execWarmReset s = .next t) : t.chip.vault = s.chip.vault := by
  rw [execWarmReset] at h; rw [run_vault h]
  generalize s.chip = c
  repeat' (first | with_reducible rfl | simp only [↓vault_mk, ↓vault_sec, ↓vault_fw, ↓vault_secFw, ↓vault_ite, ite_self, eq_self, implies_true, ↓Chip.warmClear_vault])
theorem execWarmResetDone_vault {s : State} {t : State} (h : execWarmResetDone s = .next t) : t.chip.vault = s.chip.vault := by
  rw [execWarmResetDone] at h; rw [run_vault h]
  generalize s.chip = c
  repeat' (first | with_reducible rfl | simp only [↓vault_mk, ↓vault_sec, ↓vault_fw, ↓vault_secFw, ↓vault_ite, ite_self, eq_self, implies_true, ↓Chip.warmEnd_vault])
theorem execWarmResetDone_plane {s : State} {t : State} (h : execWarmResetDone s = .next t) : t.chip.plane = s.chip.plane := by
  rw [execWarmResetDone] at h; rw [run_plane h]
  generalize s.chip = c
  repeat' (first | with_reducible rfl | simp only [↓plane_mk, ↓plane_ite, ite_self, eq_self, implies_true, ↓Chip.warmEnd_plane])
theorem execPerstN_vault {level : Bool} {s : State} {t : State} (h : execPerstN level s = .next t) : t.chip.vault = s.chip.vault := by
  rw [execPerstN] at h; rw [run_vault h]
  generalize s.chip = c
  repeat' (first | with_reducible rfl | simp only [↓vault_mk, ↓vault_sec, ↓vault_fw, ↓vault_secFw, ↓vault_ite, ite_self, eq_self, implies_true, ↓Chip.hostReset_vault] | split)
theorem execPerstN_plane {level : Bool} {s : State} {t : State} (h : execPerstN level s = .next t) : t.chip.plane = s.chip.plane := by
  rw [execPerstN] at h; rw [run_plane h]
  generalize s.chip = c
  repeat' (first | with_reducible rfl | simp only [↓plane_mk, ↓plane_ite, ite_self, eq_self, implies_true, ↓Chip.hostReset_plane] | split)
theorem execHotReset_house {s : State} {t : State} (h : execHotReset s = .next t) : t.chip.house = s.chip.house := by
  rw [execHotReset] at h; rw [run_house h]
  generalize s.chip = c
  repeat' (first | with_reducible rfl | simp only [↓house_mk, ↓house_ite, ite_self, eq_self, implies_true, ↓Chip.hostReset_house])
theorem execHotReset_vault  {s t : State} (h : execHotReset s = .next t) : t.chip.vault = s.chip.vault := by
  rw [execHotReset] at h; rw [run_vault h]
  generalize s.chip = c
  repeat' (first | with_reducible rfl | simp only [↓vault_mk, ↓vault_sec, ↓vault_fw, ↓vault_secFw, ↓vault_ite, ite_self, eq_self, implies_true, ↓Chip.hostReset_vault] | split | simp only [Chip.setFlag_sec, Chip.setField_sec, Chip.setReg_sec, Chip.bump_sec, Chip.setFlag_fw, Chip.setField_fw, Chip.setReg_fw, Chip.bump_fw])
theorem execHotReset_plane {s : State} {t : State} (h : execHotReset s = .next t) : t.chip.plane = s.chip.plane := by
  rw [execHotReset] at h; rw [run_plane h]
  generalize s.chip = c
  repeat' (first | with_reducible rfl | simp only [↓plane_mk, ↓plane_ite, ite_self, eq_self, implies_true, ↓Chip.hostReset_plane])
theorem execFunctionLevelReset_vault  {s t : State} (h : execFunctionLevelReset s = .next t) : t.chip.vault = s.chip.vault := by
  rw [execFunctionLevelReset] at h; rw [run_vault h]
  generalize s.chip = c
  repeat' (first | with_reducible rfl | simp only [↓vault_mk, ↓vault_sec, ↓vault_fw, ↓vault_secFw, ↓vault_ite, ite_self, eq_self, implies_true, ↓Chip.clearIndices_vault, ↓Chip.hostReset_vault] | split | simp only [Chip.setFlag_sec, Chip.setField_sec, Chip.setReg_sec, Chip.bump_sec, Chip.setFlag_fw, Chip.setField_fw, Chip.setReg_fw, Chip.bump_fw])
theorem execFunctionLevelReset_plane {s : State} {t : State} (h : execFunctionLevelReset s = .next t) : t.chip.plane = s.chip.plane := by
  rw [execFunctionLevelReset] at h; rw [run_plane h]
  generalize s.chip = c
  repeat' (first | with_reducible rfl | simp only [↓plane_mk, ↓plane_ite, ite_self, eq_self, implies_true, ↓Chip.clearIndices_plane, ↓Chip.hostReset_plane])
theorem execStandbyComplete_vault {s : State} {t : State} (h : execStandbyComplete s = .next t) : t.chip.vault = s.chip.vault := by
  rw [execStandbyComplete] at h; rw [run_vault h]
  generalize s.chip = c
  repeat' (first | with_reducible rfl | simp only [↓vault_mk, ↓vault_sec, ↓vault_fw, ↓vault_secFw, ↓vault_ite, ite_self, eq_self, implies_true, ↓Chip.standbyEnd_vault])
theorem execStandbyComplete_plane {s : State} {t : State} (h : execStandbyComplete s = .next t) : t.chip.plane = s.chip.plane := by
  rw [execStandbyComplete] at h; rw [run_plane h]
  generalize s.chip = c
  repeat' (first | with_reducible rfl | simp only [↓plane_mk, ↓plane_ite, ite_self, eq_self, implies_true, ↓Chip.standbyEnd_plane])
theorem execM0MarchDone_vault {findings : List BankFinding} {s t : State} (h : execM0MarchDone findings s = .next t) : t.chip.vault = s.chip.vault := by
  rw [execM0MarchDone] at h; rw [run_vault h]
  generalize s.chip = c
  repeat' (first | with_reducible rfl | simp only [↓vault_mk, ↓vault_sec, ↓vault_fw, ↓vault_secFw, ↓vault_ite, ite_self, eq_self, implies_true, ↓Chip.m0March_vault] | split | simp only [Chip.setFlag_sec, Chip.setField_sec, Chip.setReg_sec, Chip.bump_sec, Chip.setFlag_fw, Chip.setField_fw, Chip.setReg_fw, Chip.bump_fw])
theorem execVin12Present_vault {s : State} {t : State} (h : execVin12Present s = .next t) : t.chip.vault = s.chip.vault := by
  rw [execVin12Present] at h; rw [run_vault h]
  generalize s.chip = c
  repeat' (first | with_reducible rfl | simp only [↓vault_mk, ↓vault_sec, ↓vault_fw, ↓vault_secFw, ↓vault_ite, ite_self, eq_self, implies_true, ↓Chip.vin12Up_vault])
theorem execVin12Present_plane {s : State} {t : State} (h : execVin12Present s = .next t) : t.chip.plane = s.chip.plane := by
  rw [execVin12Present] at h; rw [run_plane h]
  generalize s.chip = c
  repeat' (first | with_reducible rfl | simp only [↓plane_mk, ↓plane_ite, ite_self, eq_self, implies_true, ↓Chip.vin12Up_plane])
theorem execRailGroupRamped_vault {s : State} {t : State} (h : execRailGroupRamped s = .next t) : t.chip.vault = s.chip.vault := by
  rw [execRailGroupRamped] at h; rw [run_vault h]
  generalize s.chip = c
  repeat' (first | with_reducible rfl | simp only [↓vault_mk, ↓vault_sec, ↓vault_fw, ↓vault_secFw, ↓vault_ite, ite_self, eq_self, implies_true, ↓Chip.groupRamped_vault])
theorem execRailGroupRamped_plane {s : State} {t : State} (h : execRailGroupRamped s = .next t) : t.chip.plane = s.chip.plane := by
  rw [execRailGroupRamped] at h; rw [run_plane h]
  generalize s.chip = c
  repeat' (first | with_reducible rfl | simp only [↓plane_mk, ↓plane_ite, ite_self, eq_self, implies_true, ↓Chip.groupRamped_plane])
theorem execRailsComplete_house {s : State} {t : State} (h : execRailsComplete s = .next t) : t.chip.house = s.chip.house := by
  rw [execRailsComplete] at h; rw [run_house h]
  generalize s.chip = c
  repeat' (first | with_reducible rfl | simp only [↓house_mk, ↓house_ite, ite_self, eq_self, implies_true, ↓Chip.railsDone_house])
theorem execRailsComplete_vault  {s t : State} (h : execRailsComplete s = .next t) : t.chip.vault = s.chip.vault := by
  rw [execRailsComplete] at h; rw [run_vault h]
  generalize s.chip = c
  repeat' (first | with_reducible rfl | simp only [↓vault_mk, ↓vault_sec, ↓vault_fw, ↓vault_secFw, ↓vault_ite, ite_self, eq_self, implies_true, ↓Chip.railsDone_vault] | split | simp only [Chip.setFlag_sec, Chip.setField_sec, Chip.setReg_sec, Chip.bump_sec, Chip.setFlag_fw, Chip.setField_fw, Chip.setReg_fw, Chip.bump_fw])
theorem execTrainComplete_vault {s : State} {t : State} (h : execTrainComplete s = .next t) : t.chip.vault = s.chip.vault := by
  rw [execTrainComplete] at h; rw [run_vault h]
  generalize s.chip = c
  repeat' (first | with_reducible rfl | simp only [↓vault_mk, ↓vault_sec, ↓vault_fw, ↓vault_secFw, ↓vault_ite, ite_self, eq_self, implies_true, ↓Chip.trainingEnd_vault])
theorem execTrainComplete_plane {s : State} {t : State} (h : execTrainComplete s = .next t) : t.chip.plane = s.chip.plane := by
  rw [execTrainComplete] at h; rw [run_plane h]
  generalize s.chip = c
  repeat' (first | with_reducible rfl | simp only [↓plane_mk, ↓plane_ite, ite_self, eq_self, implies_true, ↓Chip.trainingEnd_plane])
theorem execD2dTrainTimeout_house {die : Die} {s : State} {t : State} (h : execD2dTrainTimeout die s = .next t) : t.chip.house = s.chip.house := by
  rw [execD2dTrainTimeout] at h; rw [run_house h]
  generalize s.chip = c
  repeat' (first | with_reducible rfl | simp only [↓house_mk, ↓house_ite, ite_self, eq_self, implies_true, ↓Chip.trainTimeout_house])
theorem execD2dTrainTimeout_vault {die : Die} {s t : State} (h : execD2dTrainTimeout die s = .next t) : t.chip.vault = s.chip.vault := by
  rw [execD2dTrainTimeout] at h; rw [run_vault h]
  generalize s.chip = c
  repeat' (first | with_reducible rfl | simp only [↓vault_mk, ↓vault_sec, ↓vault_fw, ↓vault_secFw, ↓vault_ite, ite_self, eq_self, implies_true, ↓Chip.trainTimeout_vault] | split | simp only [Chip.setFlag_sec, Chip.setField_sec, Chip.setReg_sec, Chip.bump_sec, Chip.setFlag_fw, Chip.setField_fw, Chip.setReg_fw, Chip.bump_fw])
theorem execMarchPhaseComplete_house {findings : List BankFinding} {s : State} {t : State} (h : execMarchPhaseComplete findings s = .next t) : t.chip.house = s.chip.house := by
  rw [execMarchPhaseComplete] at h; rw [run_house h]
  generalize s.chip = c
  repeat' (first | with_reducible rfl | simp only [↓house_mk, ↓house_ite, ite_self, eq_self, implies_true, ↓Chip.marchPhaseEnd_house])
theorem execMarchPhaseComplete_vault {findings : List BankFinding} {s t : State} (h : execMarchPhaseComplete findings s = .next t) : t.chip.vault = s.chip.vault := by
  rw [execMarchPhaseComplete] at h; rw [run_vault h]
  generalize s.chip = c
  repeat' (first | with_reducible rfl | simp only [↓vault_mk, ↓vault_sec, ↓vault_fw, ↓vault_secFw, ↓vault_ite, ite_self, eq_self, implies_true, ↓Chip.marchPhaseEnd_vault] | split | simp only [Chip.setFlag_sec, Chip.setField_sec, Chip.setReg_sec, Chip.bump_sec, Chip.setFlag_fw, Chip.setField_fw, Chip.setReg_fw, Chip.bump_fw])
theorem execLaneTestComplete_vault {findings : List ClusterFinding} {s : State} {t : State} (h : execLaneTestComplete findings s = .next t) : t.chip.vault = s.chip.vault := by
  rw [execLaneTestComplete] at h; rw [run_vault h]
  generalize s.chip = c
  repeat' (first | with_reducible rfl | simp only [↓vault_mk, ↓vault_sec, ↓vault_fw, ↓vault_secFw, ↓vault_ite, ite_self, eq_self, implies_true, ↓Chip.laneTestEnd_vault])
theorem execSmbStatus_house {s : State} {t : State} (h : execSmbStatus s = .next t) : t.chip.house = s.chip.house := by
  rw [execSmbStatus] at h; rw [run_house h]
  generalize s.chip = c
  repeat' (first | with_reducible rfl | simp only [↓house_mk, ↓house_ite, ite_self, eq_self, implies_true, ↓Chip.smbServe_house, ↓Chip.smbWord_house] | with_reducible refine (Chip.smbServe_house _ _ ?_).trans ?_ | intro _ _ | intro _)
theorem execSmbStatus_vault  {s t : State} (h : execSmbStatus s = .next t) : t.chip.vault = s.chip.vault := by
  rw [execSmbStatus] at h; rw [run_vault h]
  generalize s.chip = c
  repeat' (first | with_reducible rfl | simp only [↓vault_mk, ↓vault_sec, ↓vault_fw, ↓vault_secFw, ↓vault_ite, ite_self, eq_self, implies_true, ↓Chip.smbWord_vault, ↓Chip.smbServe_vault] | with_reducible refine (Chip.smbServe_vault _ _ ?_).trans ?_ | split | intro _ _ | intro _ | simp only [Chip.setFlag_sec, Chip.setField_sec, Chip.setReg_sec, Chip.bump_sec, Chip.setFlag_fw, Chip.setField_fw, Chip.setReg_fw, Chip.bump_fw])
theorem execSmbStatus_plane {s : State} {t : State} (h : execSmbStatus s = .next t) : t.chip.plane = s.chip.plane := by
  rw [execSmbStatus] at h; rw [run_plane h]
  generalize s.chip = c
  repeat' (first | with_reducible rfl | simp only [↓plane_mk, ↓plane_ite, ite_self, eq_self, implies_true, ↓Chip.smbServe_plane, ↓Chip.smbWord_plane] | with_reducible refine (Chip.smbServe_plane _ _ ?_).trans ?_ | intro _ _ | intro _)
theorem execSmbAlertSrcRead_house {s : State} {t : State} (h : execSmbAlertSrcRead s = .next t) : t.chip.house = s.chip.house := by
  rw [execSmbAlertSrcRead] at h; rw [run_house h]
  generalize s.chip = c
  repeat' (first | with_reducible rfl | simp only [↓house_mk, ↓house_ite, ite_self, eq_self, implies_true, ↓Chip.smbServe_house, ↓Chip.smbWord_house] | with_reducible refine (Chip.smbServe_house _ _ ?_).trans ?_ | intro _ _ | intro _)
theorem execSmbAlertSrcRead_vault  {s t : State} (h : execSmbAlertSrcRead s = .next t) : t.chip.vault = s.chip.vault := by
  rw [execSmbAlertSrcRead] at h; rw [run_vault h]
  generalize s.chip = c
  repeat' (first | with_reducible rfl | simp only [↓vault_mk, ↓vault_sec, ↓vault_fw, ↓vault_secFw, ↓vault_ite, ite_self, eq_self, implies_true, ↓Chip.smbWord_vault, ↓Chip.smbServe_vault] | with_reducible refine (Chip.smbServe_vault _ _ ?_).trans ?_ | split | intro _ _ | intro _ | simp only [Chip.setFlag_sec, Chip.setField_sec, Chip.setReg_sec, Chip.bump_sec, Chip.setFlag_fw, Chip.setField_fw, Chip.setReg_fw, Chip.bump_fw])
theorem execSmbAlertSrcRead_plane {s : State} {t : State} (h : execSmbAlertSrcRead s = .next t) : t.chip.plane = s.chip.plane := by
  rw [execSmbAlertSrcRead] at h; rw [run_plane h]
  generalize s.chip = c
  repeat' (first | with_reducible rfl | simp only [↓plane_mk, ↓plane_ite, ite_self, eq_self, implies_true, ↓Chip.smbServe_plane, ↓Chip.smbWord_plane] | with_reducible refine (Chip.smbServe_plane _ _ ?_).trans ?_ | intro _ _ | intro _)
theorem execSmbAlertSrcClear_vault {v : BitVec 16} {pecOk : Bool} {s : State} {t : State} (h : execSmbAlertSrcClear v pecOk s = .next t) : t.chip.vault = s.chip.vault := by
  rw [execSmbAlertSrcClear] at h; rw [run_vault h]
  generalize s.chip = c
  repeat' (first | with_reducible rfl | simp only [↓vault_mk, ↓vault_sec, ↓vault_fw, ↓vault_secFw, ↓vault_ite, ite_self, eq_self, implies_true, ↓Chip.smbOut_vault, ↓Chip.smbServe_vault] | with_reducible refine (Chip.smbServe_vault _ _ ?_).trans ?_ | intro _ _ | intro _ | split)
theorem execSmbAlertSrcClear_plane {v : BitVec 16} {pecOk : Bool} {s : State} {t : State} (h : execSmbAlertSrcClear v pecOk s = .next t) : t.chip.plane = s.chip.plane := by
  rw [execSmbAlertSrcClear] at h; rw [run_plane h]
  generalize s.chip = c
  repeat' (first | with_reducible rfl | simp only [↓plane_mk, ↓plane_ite, ite_self, eq_self, implies_true, ↓Chip.smbOut_plane, ↓Chip.smbServe_plane] | with_reducible refine (Chip.smbServe_plane _ _ ?_).trans ?_ | intro _ _ | intro _ | split)
theorem execSmbPkgPower_house {s : State} {t : State} (h : execSmbPkgPower s = .next t) : t.chip.house = s.chip.house := by
  rw [execSmbPkgPower] at h; rw [run_house h]
  generalize s.chip = c
  repeat' (first | with_reducible rfl | simp only [↓house_mk, ↓house_ite, ite_self, eq_self, implies_true, ↓Chip.smbServe_house, ↓Chip.smbWord_house] | with_reducible refine (Chip.smbServe_house _ _ ?_).trans ?_ | intro _ _ | intro _)
theorem execSmbPkgPower_vault  {s t : State} (h : execSmbPkgPower s = .next t) : t.chip.vault = s.chip.vault := by
  rw [execSmbPkgPower] at h; rw [run_vault h]
  generalize s.chip = c
  repeat' (first | with_reducible rfl | simp only [↓vault_mk, ↓vault_sec, ↓vault_fw, ↓vault_secFw, ↓vault_ite, ite_self, eq_self, implies_true, ↓Chip.smbWord_vault, ↓Chip.smbServe_vault] | with_reducible refine (Chip.smbServe_vault _ _ ?_).trans ?_ | split | intro _ _ | intro _ | simp only [Chip.setFlag_sec, Chip.setField_sec, Chip.setReg_sec, Chip.bump_sec, Chip.setFlag_fw, Chip.setField_fw, Chip.setReg_fw, Chip.bump_fw])
theorem execSmbPkgPower_plane {s : State} {t : State} (h : execSmbPkgPower s = .next t) : t.chip.plane = s.chip.plane := by
  rw [execSmbPkgPower] at h; rw [run_plane h]
  generalize s.chip = c
  repeat' (first | with_reducible rfl | simp only [↓plane_mk, ↓plane_ite, ite_self, eq_self, implies_true, ↓Chip.smbServe_plane, ↓Chip.smbWord_plane] | with_reducible refine (Chip.smbServe_plane _ _ ?_).trans ?_ | intro _ _ | intro _)
theorem execSmbMaxJunction_house {s : State} {t : State} (h : execSmbMaxJunction s = .next t) : t.chip.house = s.chip.house := by
  rw [execSmbMaxJunction] at h; rw [run_house h]
  generalize s.chip = c
  repeat' (first | with_reducible rfl | simp only [↓house_mk, ↓house_ite, ite_self, eq_self, implies_true, ↓Chip.smbServe_house, ↓Chip.smbWord_house] | with_reducible refine (Chip.smbServe_house _ _ ?_).trans ?_ | intro _ _ | intro _)
theorem execSmbMaxJunction_vault  {s t : State} (h : execSmbMaxJunction s = .next t) : t.chip.vault = s.chip.vault := by
  rw [execSmbMaxJunction] at h; rw [run_vault h]
  generalize s.chip = c
  repeat' (first | with_reducible rfl | simp only [↓vault_mk, ↓vault_sec, ↓vault_fw, ↓vault_secFw, ↓vault_ite, ite_self, eq_self, implies_true, ↓Chip.smbWord_vault, ↓Chip.smbServe_vault] | with_reducible refine (Chip.smbServe_vault _ _ ?_).trans ?_ | split | intro _ _ | intro _ | simp only [Chip.setFlag_sec, Chip.setField_sec, Chip.setReg_sec, Chip.bump_sec, Chip.setFlag_fw, Chip.setField_fw, Chip.setReg_fw, Chip.bump_fw])
theorem execSmbMaxJunction_plane {s : State} {t : State} (h : execSmbMaxJunction s = .next t) : t.chip.plane = s.chip.plane := by
  rw [execSmbMaxJunction] at h; rw [run_plane h]
  generalize s.chip = c
  repeat' (first | with_reducible rfl | simp only [↓plane_mk, ↓plane_ite, ite_self, eq_self, implies_true, ↓Chip.smbServe_plane, ↓Chip.smbWord_plane] | with_reducible refine (Chip.smbServe_plane _ _ ?_).trans ?_ | intro _ _ | intro _)
theorem execSmbMaxDie_house {s : State} {t : State} (h : execSmbMaxDie s = .next t) : t.chip.house = s.chip.house := by
  rw [execSmbMaxDie] at h; rw [run_house h]
  generalize s.chip = c
  repeat' (first | with_reducible rfl | simp only [↓house_mk, ↓house_ite, ite_self, eq_self, implies_true, ↓Chip.smbOut_house, ↓Chip.smbServe_house] | with_reducible refine (Chip.smbServe_house _ _ ?_).trans ?_ | intro _ _ | intro _)
theorem execSmbMaxDie_vault  {s t : State} (h : execSmbMaxDie s = .next t) : t.chip.vault = s.chip.vault := by
  rw [execSmbMaxDie] at h; rw [run_vault h]
  generalize s.chip = c
  repeat' (first | with_reducible rfl | simp only [↓vault_mk, ↓vault_sec, ↓vault_fw, ↓vault_secFw, ↓vault_ite, ite_self, eq_self, implies_true, ↓Chip.smbOut_vault, ↓Chip.smbServe_vault] | with_reducible refine (Chip.smbServe_vault _ _ ?_).trans ?_ | split | intro _ _ | intro _ | simp only [Chip.setFlag_sec, Chip.setField_sec, Chip.setReg_sec, Chip.bump_sec, Chip.setFlag_fw, Chip.setField_fw, Chip.setReg_fw, Chip.bump_fw])
theorem execSmbMaxDie_plane {s : State} {t : State} (h : execSmbMaxDie s = .next t) : t.chip.plane = s.chip.plane := by
  rw [execSmbMaxDie] at h; rw [run_plane h]
  generalize s.chip = c
  repeat' (first | with_reducible rfl | simp only [↓plane_mk, ↓plane_ite, ite_self, eq_self, implies_true, ↓Chip.smbOut_plane, ↓Chip.smbServe_plane] | with_reducible refine (Chip.smbServe_plane _ _ ?_).trans ?_ | intro _ _ | intro _)
theorem execSmbVin12Mv_house {mv : BitVec 16} {s : State} {t : State} (h : execSmbVin12Mv mv s = .next t) : t.chip.house = s.chip.house := by
  rw [execSmbVin12Mv] at h; rw [run_house h]
  generalize s.chip = c
  repeat' (first | with_reducible rfl | simp only [↓house_mk, ↓house_ite, ite_self, eq_self, implies_true, ↓Chip.smbServe_house, ↓Chip.smbWord_house] | with_reducible refine (Chip.smbServe_house _ _ ?_).trans ?_ | intro _ _ | intro _)
theorem execSmbVin12Mv_vault {mv : BitVec 16} {s t : State} (h : execSmbVin12Mv mv s = .next t) : t.chip.vault = s.chip.vault := by
  rw [execSmbVin12Mv] at h; rw [run_vault h]
  generalize s.chip = c
  repeat' (first | with_reducible rfl | simp only [↓vault_mk, ↓vault_sec, ↓vault_fw, ↓vault_secFw, ↓vault_ite, ite_self, eq_self, implies_true, ↓Chip.smbWord_vault, ↓Chip.smbServe_vault] | with_reducible refine (Chip.smbServe_vault _ _ ?_).trans ?_ | split | intro _ _ | intro _ | simp only [Chip.setFlag_sec, Chip.setField_sec, Chip.setReg_sec, Chip.bump_sec, Chip.setFlag_fw, Chip.setField_fw, Chip.setReg_fw, Chip.bump_fw])
theorem execSmbVin12Mv_plane {mv : BitVec 16} {s : State} {t : State} (h : execSmbVin12Mv mv s = .next t) : t.chip.plane = s.chip.plane := by
  rw [execSmbVin12Mv] at h; rw [run_plane h]
  generalize s.chip = c
  repeat' (first | with_reducible rfl | simp only [↓plane_mk, ↓plane_ite, ite_self, eq_self, implies_true, ↓Chip.smbServe_plane, ↓Chip.smbWord_plane] | with_reducible refine (Chip.smbServe_plane _ _ ?_).trans ?_ | intro _ _ | intro _)
theorem execSmbVin12Current_house {sixteenthAmp : BitVec 16} {s : State} {t : State} (h : execSmbVin12Current sixteenthAmp s = .next t) : t.chip.house = s.chip.house := by
  rw [execSmbVin12Current] at h; rw [run_house h]
  generalize s.chip = c
  repeat' (first | with_reducible rfl | simp only [↓house_mk, ↓house_ite, ite_self, eq_self, implies_true, ↓Chip.smbServe_house, ↓Chip.smbWord_house] | with_reducible refine (Chip.smbServe_house _ _ ?_).trans ?_ | intro _ _ | intro _)
theorem execSmbVin12Current_vault {sixteenthAmp : BitVec 16} {s t : State} (h : execSmbVin12Current sixteenthAmp s = .next t) : t.chip.vault = s.chip.vault := by
  rw [execSmbVin12Current] at h; rw [run_vault h]
  generalize s.chip = c
  repeat' (first | with_reducible rfl | simp only [↓vault_mk, ↓vault_sec, ↓vault_fw, ↓vault_secFw, ↓vault_ite, ite_self, eq_self, implies_true, ↓Chip.smbWord_vault, ↓Chip.smbServe_vault] | with_reducible refine (Chip.smbServe_vault _ _ ?_).trans ?_ | split | intro _ _ | intro _ | simp only [Chip.setFlag_sec, Chip.setField_sec, Chip.setReg_sec, Chip.bump_sec, Chip.setFlag_fw, Chip.setField_fw, Chip.setReg_fw, Chip.bump_fw])
theorem execSmbVin12Current_plane {sixteenthAmp : BitVec 16} {s : State} {t : State} (h : execSmbVin12Current sixteenthAmp s = .next t) : t.chip.plane = s.chip.plane := by
  rw [execSmbVin12Current] at h; rw [run_plane h]
  generalize s.chip = c
  repeat' (first | with_reducible rfl | simp only [↓plane_mk, ↓plane_ite, ite_self, eq_self, implies_true, ↓Chip.smbServe_plane, ↓Chip.smbWord_plane] | with_reducible refine (Chip.smbServe_plane _ _ ?_).trans ?_ | intro _ _ | intro _)
theorem execSmbVin3v3Mv_house {mv : BitVec 16} {s : State} {t : State} (h : execSmbVin3v3Mv mv s = .next t) : t.chip.house = s.chip.house := by
  rw [execSmbVin3v3Mv] at h; rw [run_house h]
  generalize s.chip = c
  repeat' (first | with_reducible rfl | simp only [↓house_mk, ↓house_ite, ite_self, eq_self, implies_true, ↓Chip.smbServe_house, ↓Chip.smbWord_house] | with_reducible refine (Chip.smbServe_house _ _ ?_).trans ?_ | intro _ _ | intro _)
theorem execSmbVin3v3Mv_vault {mv : BitVec 16} {s t : State} (h : execSmbVin3v3Mv mv s = .next t) : t.chip.vault = s.chip.vault := by
  rw [execSmbVin3v3Mv] at h; rw [run_vault h]
  generalize s.chip = c
  repeat' (first | with_reducible rfl | simp only [↓vault_mk, ↓vault_sec, ↓vault_fw, ↓vault_secFw, ↓vault_ite, ite_self, eq_self, implies_true, ↓Chip.smbWord_vault, ↓Chip.smbServe_vault] | with_reducible refine (Chip.smbServe_vault _ _ ?_).trans ?_ | split | intro _ _ | intro _ | simp only [Chip.setFlag_sec, Chip.setField_sec, Chip.setReg_sec, Chip.bump_sec, Chip.setFlag_fw, Chip.setField_fw, Chip.setReg_fw, Chip.bump_fw])
theorem execSmbVin3v3Mv_plane {mv : BitVec 16} {s : State} {t : State} (h : execSmbVin3v3Mv mv s = .next t) : t.chip.plane = s.chip.plane := by
  rw [execSmbVin3v3Mv] at h; rw [run_plane h]
  generalize s.chip = c
  repeat' (first | with_reducible rfl | simp only [↓plane_mk, ↓plane_ite, ite_self, eq_self, implies_true, ↓Chip.smbServe_plane, ↓Chip.smbWord_plane] | with_reducible refine (Chip.smbServe_plane _ _ ?_).trans ?_ | intro _ _ | intro _)
theorem execSmbJunction_house {die : Die} {s : State} {t : State} (h : execSmbJunction die s = .next t) : t.chip.house = s.chip.house := by
  rw [execSmbJunction] at h; rw [run_house h]
  generalize s.chip = c
  repeat' (first | with_reducible rfl | simp only [↓house_mk, ↓house_ite, ite_self, eq_self, implies_true, ↓Chip.smbServe_house, ↓Chip.smbWord_house] | with_reducible refine (Chip.smbServe_house _ _ ?_).trans ?_ | intro _ _ | intro _)
theorem execSmbJunction_vault {die : Die} {s t : State} (h : execSmbJunction die s = .next t) : t.chip.vault = s.chip.vault := by
  rw [execSmbJunction] at h; rw [run_vault h]
  generalize s.chip = c
  repeat' (first | with_reducible rfl | simp only [↓vault_mk, ↓vault_sec, ↓vault_fw, ↓vault_secFw, ↓vault_ite, ite_self, eq_self, implies_true, ↓Chip.smbWord_vault, ↓Chip.smbServe_vault] | with_reducible refine (Chip.smbServe_vault _ _ ?_).trans ?_ | split | intro _ _ | intro _ | simp only [Chip.setFlag_sec, Chip.setField_sec, Chip.setReg_sec, Chip.bump_sec, Chip.setFlag_fw, Chip.setField_fw, Chip.setReg_fw, Chip.bump_fw])
theorem execSmbJunction_plane {die : Die} {s : State} {t : State} (h : execSmbJunction die s = .next t) : t.chip.plane = s.chip.plane := by
  rw [execSmbJunction] at h; rw [run_plane h]
  generalize s.chip = c
  repeat' (first | with_reducible rfl | simp only [↓plane_mk, ↓plane_ite, ite_self, eq_self, implies_true, ↓Chip.smbServe_plane, ↓Chip.smbWord_plane] | with_reducible refine (Chip.smbServe_plane _ _ ?_).trans ?_ | intro _ _ | intro _)
theorem execSmbAlertResponse_house {s : State} {t : State} (h : execSmbAlertResponse s = .next t) : t.chip.house = s.chip.house := by
  rw [execSmbAlertResponse] at h; rw [run_house h]
  generalize s.chip = c
  repeat' (first | with_reducible rfl | simp only [↓house_mk, ↓house_ite, ite_self, eq_self, implies_true, ↓Chip.smbOut_house, ↓Chip.smbServe_house] | with_reducible refine (Chip.smbServe_house _ _ ?_).trans ?_ | intro _ _ | intro _)
theorem execSmbAlertResponse_vault  {s t : State} (h : execSmbAlertResponse s = .next t) : t.chip.vault = s.chip.vault := by
  rw [execSmbAlertResponse] at h; rw [run_vault h]
  generalize s.chip = c
  repeat' (first | with_reducible rfl | simp only [↓vault_mk, ↓vault_sec, ↓vault_fw, ↓vault_secFw, ↓vault_ite, ite_self, eq_self, implies_true, ↓Chip.smbOut_vault, ↓Chip.smbServe_vault] | with_reducible refine (Chip.smbServe_vault _ _ ?_).trans ?_ | split | intro _ _ | intro _ | simp only [Chip.setFlag_sec, Chip.setField_sec, Chip.setReg_sec, Chip.bump_sec, Chip.setFlag_fw, Chip.setField_fw, Chip.setReg_fw, Chip.bump_fw])
theorem execSmbAlertResponse_plane {s : State} {t : State} (h : execSmbAlertResponse s = .next t) : t.chip.plane = s.chip.plane := by
  rw [execSmbAlertResponse] at h; rw [run_plane h]
  generalize s.chip = c
  repeat' (first | with_reducible rfl | simp only [↓plane_mk, ↓plane_ite, ite_self, eq_self, implies_true, ↓Chip.smbOut_plane, ↓Chip.smbServe_plane] | with_reducible refine (Chip.smbServe_plane _ _ ?_).trans ?_ | intro _ _ | intro _)
theorem execSmbUnlistedCommand_house {code : BitVec 8} {s : State} {t : State} (h : execSmbUnlistedCommand code s = .next t) : t.chip.house = s.chip.house := by
  rw [execSmbUnlistedCommand] at h; rw [run_house h]
  generalize s.chip = c
  repeat' (first | with_reducible rfl | simp only [↓house_mk, ↓house_ite, ite_self, eq_self, implies_true, ↓Chip.smbOut_house] | split)
theorem execSmbUnlistedCommand_vault {code : BitVec 8} {s t : State} (h : execSmbUnlistedCommand code s = .next t) : t.chip.vault = s.chip.vault := by
  rw [execSmbUnlistedCommand] at h; rw [run_vault h]
  generalize s.chip = c
  repeat' (first | with_reducible rfl | simp only [↓vault_mk, ↓vault_sec, ↓vault_fw, ↓vault_secFw, ↓vault_ite, ite_self, eq_self, implies_true, ↓Chip.smbOut_vault] | split | simp only [Chip.setFlag_sec, Chip.setField_sec, Chip.setReg_sec, Chip.bump_sec, Chip.setFlag_fw, Chip.setField_fw, Chip.setReg_fw, Chip.bump_fw])
theorem execSmbUnlistedCommand_plane {code : BitVec 8} {s : State} {t : State} (h : execSmbUnlistedCommand code s = .next t) : t.chip.plane = s.chip.plane := by
  rw [execSmbUnlistedCommand] at h; rw [run_plane h]
  generalize s.chip = c
  repeat' (first | with_reducible rfl | simp only [↓plane_mk, ↓plane_ite, ite_self, eq_self, implies_true, ↓Chip.smbOut_plane] | split)
theorem execRegisterReadAccessError_house {off : BitVec 26} {be : BitVec 4} {s : State} {t : State} (h : execRegisterReadAccessError off be s = .next t) : t.chip.house = s.chip.house := by
  rw [execRegisterReadAccessError] at h; rw [run_house h]
  generalize s.chip = c
  repeat' (first | with_reducible rfl | simp only [↓house_mk, ↓house_ite, ite_self, eq_self, implies_true, ↓Chip.badRead_house])
theorem execRegisterReadAccessError_vault {off : BitVec 26} {be : BitVec 4} {s t : State} (h : execRegisterReadAccessError off be s = .next t) : t.chip.vault = s.chip.vault := by
  rw [execRegisterReadAccessError] at h; rw [run_vault h]
  generalize s.chip = c
  repeat' (first | with_reducible rfl | simp only [↓vault_mk, ↓vault_sec, ↓vault_fw, ↓vault_secFw, ↓vault_ite, ite_self, eq_self, implies_true, ↓Chip.badRead_vault] | split | simp only [Chip.setFlag_sec, Chip.setField_sec, Chip.setReg_sec, Chip.bump_sec, Chip.setFlag_fw, Chip.setField_fw, Chip.setReg_fw, Chip.bump_fw])
theorem execRegisterReadAccessError_plane {off : BitVec 26} {be : BitVec 4} {s : State} {t : State} (h : execRegisterReadAccessError off be s = .next t) : t.chip.plane = s.chip.plane := by
  rw [execRegisterReadAccessError] at h; rw [run_plane h]
  generalize s.chip = c
  repeat' (first | with_reducible rfl | simp only [↓plane_mk, ↓plane_ite, ite_self, eq_self, implies_true, ↓Chip.badRead_plane])

end Sys2Proof.Machine
end

