-- ==== Sys2Proof/Laws/Receive.lean ====
section
/-! SUPPORT. What the reception of a good frame comes to: the steps ahead of a class command's own effect, said once. -/

namespace Sys2Proof.Machine

theorem Chip.freeCredits_narjo (c : Chip) (p vl n : Nat) : ∀ q, (c.freeCredits p vl n).narjo q = c.narjo q := fun _ => rfl

/-- A good frame of a command's kind reaches the command's own effect. -/
theorem Chip.receive_hears (c : Chip) (p : Nat) (f : Frame) (kind : BitVec 256 → Bool) (body : TailSt → Chip → Chip)
    (h : c.hears p f) (hk : kind f.hdr = true) : c.receive p f kind body = body .good (c.heard p f) := by
  obtain ⟨h1, h2, h3, h4, h5, h6, h7, h8, h9⟩ := h
  have hg : (!(c.rxOn p && c.narjo p && c.linkUp p) || (hdrOk f.hdr && hdrClassOk f.hdr && !kind f.hdr)) = false := by
    simp [h1, h2, h3, hk]
  have hi : ∀ d : Chip, d.ingressRead p f.buf (tailOf f) =
      (.good, d.bumpN (pgMem (dieP (portDie p))) 0x1104 f.buf.corrected) := fun d => by
    unfold Chip.ingressRead; simp only [h6, h8]
  by_cases hs : hdrSequenced f.hdr = true
  · have hq : c.sequenced p f = (true, c.setLink p { c.link p with checked := none }) := by
      unfold Chip.sequenced; simp [h9 hs]
    unfold Chip.receive Chip.heard
    simp only [hg, hq, hs, hi]
    simp [h4, h5, h6, h7]
  · have hs' : hdrSequenced f.hdr = false := by simpa using hs
    unfold Chip.receive Chip.heard
    simp only [hg, hs', hi]
    simp [h4, h5, h7]

/-- The registers of the pages outside the port die keep their values. -/
theorem Chip.heard_reg {c : Chip} {p : Nat} {f : Frame} (hp : p < 1024) {page off : Nat} (inst : Nat) (ho : off < 0x10000)
    (h : page = pgLiv ∨ page = pgRte) : (c.heard p f).reg page off inst = c.reg page off inst := by
  have hd : portDie p < 8 := by unfold portDie; omega
  have hl : pgLnk (portDie p) < 0x400 ∧ pgLnk (portDie p) ≠ page := by
    unfold pgLnk pgLiv pgRte at *; omega
  have hm : pgMem (dieP (portDie p)) < 0x400 ∧ pgMem (dieP (portDie p)) ≠ page := by
    unfold pgMem dieP; rw [if_pos hd]; unfold pgMemP pgLiv pgRte at *; omega
  have hq : page < 0x400 := by unfold pgLiv pgRte at h; omega
  have hb : ∀ (d : Chip) (q o n : Nat), q < 0x400 → q ≠ page → o < 0x10000 →
      (d.bumpN q o n).reg page off inst = d.reg page off inst := fun d q o n h1 h2 h3 =>
    d.reg_setReg_page _ h3 ho h1 hq (Ne.symm h2)
  have ht : ∀ d : Chip, (d.countTail p f).reg page off inst = d.reg page off inst := fun d => by
    have h1 := hb d _ 0x110C f.fecUncorr hl.1 hl.2 (by decide)
    unfold Chip.countTail
    split
    · exact h1
    · exact (hb _ _ _ _ hl.1 hl.2 (by decide)).trans h1
    · split
      · exact h1
      · exact (hb _ _ _ _ hl.1 hl.2 (by decide)).trans h1
  unfold Chip.heard
  split
  · exact hb _ _ _ _ hm.1 hm.2 (by decide)
  · exact (hb _ _ _ _ hm.1 hm.2 (by decide)).trans (ht _)

/-- A port that receives is one of the part's. -/
theorem Chip.rxOn_lt {c : Chip} {p : Nat} (h : c.rxOn p = true) : p < 1024 := by
  simp only [Chip.rxOn, Chip.portWorks, Chip.enabled, Chip.inUse, Bool.and_eq_true, decide_eq_true_eq] at h
  exact h.2.1.1.1.1

/-- Steps 1 to 4 of R21 change nothing that step 5 looks at. -/
theorem Chip.heard_checks {c : Chip} {p : Nat} {f : Frame} (hp : p < 1024) :
    (c.heard p f).tornDown (hLiv f.hdr) = c.tornDown (hLiv f.hdr) ∧
      (c.heard p f).livCheck p f.hdr f.body false = c.livCheck p f.hdr f.body false := by
  have e : ∀ off inst, off < 0x10000 → (c.heard p f).reg pgLiv off inst = c.reg pgLiv off inst := fun off inst ho =>
    Chip.heard_reg hp inst ho (.inl rfl)
  have hg : dgOf (hDst f.hdr) / 32 < 128 := by
    have := fld_lt f.hdr 198 18
    unfold dgOf hDst; omega
  constructor
  · unfold Chip.tornDown Chip.tdStat Chip.flag
    rw [Chip.heard_reg hp _ (by decide) (.inr rfl)]
  · unfold Chip.livCheck Chip.livValid Chip.livPort Chip.livPermit Chip.trust Chip.portEid Chip.livGroup Chip.livMc
      Chip.flag Chip.field
    simp only [e 0x1004 _ (by decide), e 0x1044 _ (by decide), e 0x100C _ (by decide),
      e (0x1100 + 4 * (p / 32)) _ (by omega), e (0x1200 + 4 * (dgOf (hDst f.hdr) / 32)) _ (by omega)]

/-- A frame that passes step 5 goes on to the command's own effect. -/
theorem Chip.step5_passes (c : Chip) (p : Nat) (f : Frame) (k : Chip → Chip) (hp : p < 1024) (h : c.passes p f) :
    (c.heard p f).step5 p f.hdr f.body false k = k (c.heard p f) := by
  obtain ⟨h1, h2⟩ := h
  obtain ⟨e1, e2⟩ := Chip.heard_checks (c := c) (f := f) hp
  unfold Chip.step5
  rw [e1, e2, h2]
  have : (c.tornDown (hLiv f.hdr) && !decide (hClass f.hdr = clsControl ∧ hSub f.hdr < 2)) = false := by
    by_cases ht : c.tornDown (hLiv f.hdr) = true
    · simp only [h1 ht, clsControl]; simp
    · simp [ht]
  rw [this]; rfl

/-- A frame of another kind, or on a port that does not receive, is left alone. -/
theorem Chip.receive_other (c : Chip) (p : Nat) (f : Frame) (kind : BitVec 256 → Bool) (body : TailSt → Chip → Chip)
    (h : c.rxOn p = false ∨ c.narjo p = false ∨ c.linkUp p = false ∨
      (hdrOk f.hdr = true ∧ hdrClassOk f.hdr = true ∧ kind f.hdr = false)) : c.receive p f kind body = c := by
  unfold Chip.receive
  rw [if_pos]
  rcases h with h | h | h | ⟨h1, h2, h3⟩ <;> simp [*]

end Sys2Proof.Machine
end

