-- ==== Sys2Proof/Machine/Package.lean ====
section
/-! DEFINITION. The package (R448 to R450, R459, R462): which ball carries which signal, the levels of the pins that the
part drives, and the identification code of its test access port. None of it changes the state. -/

namespace Sys2Proof.Machine

/-! Balls (R448) -/

/-- What a ball carries; a lane is named by its global number (R17). -/
inductive Ball where
  | laneTx (lane : Nat) (positive : Bool)
  | laneRx (lane : Nat) (positive : Bool)
  | gnd
  | vin12
  | vin3v3
  | signal (name : String)
  | reserved
  deriving DecidableEq, Repr

/-- The place of a depth and a position along a band of the pinwheel (R449): north, east, south, west. -/
def bandToBall (e d a : Nat) : Nat × Nat :=
  match e with
  | 0 => (d, a)
  | 1 => (a, 107 - d)
  | 2 => (107 - d, 107 - a)
  | _ => (107 - a, d)

/-- The band of a ball with its depth and position, none in the centre. -/
def ballToBand (row col : Nat) : Option (Nat × Nat × Nat) :=
  if row ≤ 22 ∧ col ≤ 84 then some (0, row, col)
  else if row ≤ 84 ∧ 85 ≤ col then some (1, 107 - col, row)
  else if 85 ≤ row ∧ 23 ≤ col then some (2, 107 - row, 107 - col)
  else if 23 ≤ row ∧ col ≤ 22 then some (3, col, 107 - row)
  else none

/-- The position of a lane's positive ball along its band. -/
def lanePos (lane : Nat) : Nat := (if lane / 128 % 2 = 0 then 5 else 45) + 3 * (lane % 128 % 12)

/-- The ball of a lane's signal: the transmit pair lies 11 rows nearer the edge than the receive pair (R449). -/
def laneBall (lane : Nat) (tx positive : Bool) : Nat × Nat :=
  bandToBall (lane / 256) ((if tx then 1 else 12) + lane % 128 / 12) (lanePos lane + (!positive).toNat)

/-- What a ball of a band carries: every one that R449 does not name is GND. -/
def bandSignal (e d a : Nat) : Ball :=
  let field := if a < 45 then 0 else 1
  let base := if field = 0 then 5 else 45
  let k := (d - 1) % 11 * 12 + (a - base) / 3
  if a < 5 ∨ (41 ≤ a ∧ a < 45) ∨ 81 ≤ a ∨ (a - base) % 3 = 2 ∨ 128 ≤ k then .gnd
  else
    let lane := (2 * e + field) * 128 + k
    let positive := decide ((a - base) % 3 = 0)
    if d ≤ 11 then .laneTx lane positive else .laneRx lane positive

/-- Names on neighbouring balls of one row. -/
def runFrom (row col : Nat) : List String → List ((Nat × Nat) × String)
  | [] => []
  | n :: ns => ((row, col), n) :: runFrom row (col + 1) ns

/-- The PCI Express pairs and the clocks of the centre (R450). -/
def clockBalls : List ((Nat × Nat) × String) :=
  runFrom 25 36 ["PCIE_TX0_P", "PCIE_TX0_N"] ++ runFrom 25 40 ["PCIE_TX1_P", "PCIE_TX1_N"] ++
  runFrom 25 44 ["PCIE_TX2_P", "PCIE_TX2_N"] ++ runFrom 25 48 ["PCIE_TX3_P", "PCIE_TX3_N"] ++
  runFrom 27 36 ["PCIE_RX0_P", "PCIE_RX0_N"] ++ runFrom 27 40 ["PCIE_RX1_P", "PCIE_RX1_N"] ++
  runFrom 27 44 ["PCIE_RX2_P", "PCIE_RX2_N"] ++ runFrom 27 48 ["PCIE_RX3_P", "PCIE_RX3_N"] ++
  runFrom 29 36 ["PCIE_REFCLK_P", "PCIE_REFCLK_N"] ++ runFrom 29 40 ["SYS_REFCLK_P", "SYS_REFCLK_N"] ++
  runFrom 31 36 ["LREFCLK0_P", "LREFCLK0_N"] ++ runFrom 31 40 ["LREFCLK1_P", "LREFCLK1_N"] ++
  runFrom 31 44 ["LREFCLK2_P", "LREFCLK2_N"] ++ runFrom 31 48 ["LREFCLK3_P", "LREFCLK3_N"] ++
  runFrom 31 52 ["LREFCLK4_P", "LREFCLK4_N"] ++ runFrom 31 56 ["LREFCLK5_P", "LREFCLK5_N"] ++
  runFrom 31 60 ["LREFCLK6_P", "LREFCLK6_N"] ++ runFrom 31 64 ["LREFCLK7_P", "LREFCLK7_N"]

/-- The 3.3 V signals of the centre (R450), which the boundary-scan chain covers (R462). -/
def slowBalls : List ((Nat × Nat) × String) :=
  runFrom 30 50 ["XSPI_SCK", "XSPI_CS_N", "XSPI_DQS", "XSPI_DQ0", "XSPI_DQ1", "XSPI_DQ2", "XSPI_DQ3", "XSPI_DQ4",
    "XSPI_DQ5", "XSPI_DQ6", "XSPI_DQ7", "XSPI_RESET_N"] ++
  runFrom 32 36 ["SMB_SCL", "SMB_SDA", "SMB_ALERT_N", "SMB_ADDR0", "SMB_ADDR1", "SMB_ADDR2", "TCK", "TMS", "TDI", "TDO",
    "TRST_N", "PPS_IN", "PPS_OUT", "SNAP_IN", "SNAP_OUT", "TAMPER_OUT0", "TAMPER_IN0", "TAMPER_OUT1", "TAMPER_IN1",
    "PWRON_RST_N", "WARM_RST_N", "PERST_N", "THERMTRIP_N"]

/-- What a ball of the centre carries: every one that R450 does not name is GND. -/
def centreSignal (row col : Nat) : Ball :=
  let even := decide ((row + col) % 2 = 0)
  if 35 ≤ row ∧ row ≤ 74 ∧ 35 ≤ col ∧ col ≤ 74 ∧ even then .vin12
  else if 77 ≤ row ∧ row ≤ 80 ∧ 35 ≤ col ∧ col ≤ 74 ∧ even then .vin3v3
  else if 83 ≤ row ∧ row ≤ 84 ∧ 35 ≤ col ∧ col ≤ 66 then .reserved
  else match (clockBalls ++ slowBalls).find? (fun b => decide (b.1 = (row, col))) with
  | some b => .signal b.2
  | none => .gnd

/-- What the ball of a row and a column carries, both from 1 to 106. -/
def ballSignal (row col : Nat) : Ball :=
  match ballToBand row col with
  | some (e, d, a) => bandSignal e d a
  | none => centreSignal row col

/-! Pins and the test access port -/

/-- THERMTRIP_N is low from a thermal trip until the next cold start (R459). -/
def Chip.thermtripN (c : Chip) : Bool := !c.pwr.tripped

/-- The identification code (R462): version, part, manufacturer and 1. -/
def tapIdcode : W32 := 0x1#4 ++ 0x2480#16 ++ 0x52F#11 ++ 1#1

/-- The data register that IDCODE puts between TDI and TDO (R462); the others put out no word of the part's. -/
def TapInstr.word : TapInstr → Option W32
  | .idcode => some tapIdcode
  | .bypass | .sample | .other => none

end Sys2Proof.Machine
end

