-- ==== Sys2Proof/WellFormed.lean ====
section
/-! DEFINITION. Which commands can come from outside: the operands whose type does not say so by itself keep to the
sizes the manual gives them. `exec` is total on every command; an ill-formed one names readings the part does not have
or a frame no link carries. -/

namespace Sys2Proof

/-- A frame as a link can deliver it: at least its header and trailer, and at most what the 15 bits of LEN can spell
(R257, R258). A length that differs from LEN is well formed: the tail check meets it (R270). -/
def Frame.wf (f : Frame) : Bool := decide (f.body.length + 36 < 2 ^ 15)

/-- An Ethernet frame as a port can deliver it (R302): two MAC addresses, an EtherType, and the FCS. -/
def ethernetWf (bytes : List Byte) : Bool := decide (18 ≤ bytes.length)

/-- The most phases a rail has (R378). -/
def maxPhases : Nat := 8

/-- The most rails of a die (R378). -/
def maxRails : Nat := 3

/-- Whether a command can come from outside. -/
def wellFormed : Instr → Bool
  | .collectiveFirstFrame _ f _ | .continuationFrame _ f _ | .abortWaveRx _ f _ | .resultFrame _ f _
  | .memoryFrame _ f _ | .memoryPut _ f _ | .putCompletion _ f _ | .bulkFrame _ f _ | .controlFrameForward _ f _
  | .ptpMessageRx _ f _ | .digestRecordsRx _ f _ => f.wf
  | .frameTailCheck _ f | .linkInitRx _ f | .linkUpdateRx _ f | .linkNakRx _ f => f.wf
  | .ethernetFrame _ bytes _ _ _ _ => ethernetWf bytes
  | .coreWatchdogExpiry _ started => decide started.Nodup
  | .cornerEvaluation mv => mv.length == 16
  | .calibrationInterval _ currents => decide (1 ≤ currents.length ∧ currents.length ≤ maxRails)
  | .phaseEvaluation _ currents => decide (2 ≤ currents.length ∧ currents.length ≤ maxPhases)
  | .thermalSensorRead rs => rs.length == 256
  | .marchPhaseComplete findings | .m0MarchDone findings => findings.all (fun x => !x.reads.isEmpty)
  | _ => true

end Sys2Proof
end

