-- ==== Sys2Proof/Tests/Slice0.lean ====
section
/-! SUPPORT. The tests of the model. `test_…` compares one small operation, or one command on a small state, with a value
written out in the manual or worked out by hand from its rules; `witness_…` shows, for the statement of that name,
states and operands that meet the hypotheses of its clauses, at the values where clauses meet. Where a clause asks
something of a Config constant (what the manual leaves open), its witness takes that as a hypothesis: nothing else can
meet it. -/

namespace Sys2Proof.Tests
open Sys2Proof Sys2Proof.Machine
set_option Elab.async false

/-! Small states -/

def st (c : Chip) : State := { State.reset with chip := c }

/-- The part that a command leaves. -/
def go (c : Chip) (i : Instr) : Chip :=
  match exec i (st c) with
  | .next t => t.chip
  | _ => Chip.reset

/-- The part that a step of the empty queue leaves. -/
def idle (c : Chip) : Chip :=
  match step (st c) with
  | .next t => t.chip
  | _ => Chip.reset

/-- A part that is READY, its fabric time running, its power-up wipe over. -/
def ready : Chip :=
  (({ Chip.reset with
    boot := { Chip.reset.boot with standbyDone := true }
    time := { Chip.reset.time with running := true } }).setField pgPwr 0x1078 0 3 5).setFlag pgSec 0x1010 0 false

/-- The same part at a fabric time. -/
def atTime (n : Nat) (c : Chip) : Chip := { c with time := { c.time with now := n } }

/-! Ill-formed commands are refused, and their well-formed neighbours are not -/

def longFrame : Frame := ⟨0, List.replicate 32732 0, 0, 0, true, .clean⟩
def longestFrame : Frame := ⟨0, List.replicate 32731 0, 0, 0, true, .clean⟩

theorem test_frames_keep_to_their_length : wellFormed (.bulkFrame 0 longFrame 0) = false ∧
    wellFormed (.bulkFrame 0 longestFrame 0) = true ∧ wellFormed (.frameTailCheck 0 longFrame) = false := by decide +kernel
theorem test_ethernet_frames_have_a_header : wellFormed (.ethernetFrame 0 (List.replicate 17 0) 0 true .clean 0) = false ∧
    wellFormed (.ethernetFrame 0 (List.replicate 18 0) 0 true .clean 0) = true := by decide +kernel
theorem test_started_queues_are_named_once : wellFormed (.coreWatchdogExpiry 0 [1, 1]) = false ∧
    wellFormed (.coreWatchdogExpiry 0 [1, 2]) = true := by decide +kernel
theorem test_corner_needs_sixteen_readings : wellFormed (.cornerEvaluation [750]) = false ∧
    wellFormed (.cornerEvaluation (List.replicate 16 750)) = true := by decide +kernel
theorem test_a_die_has_1_to_3_rails : wellFormed (.calibrationInterval 0 []) = false ∧
    wellFormed (.calibrationInterval 0 [1, 1, 1, 1]) = false ∧ wellFormed (.calibrationInterval 0 [1, 1, 1]) = true := by
  decide +kernel
theorem test_a_rail_has_2_to_8_phases : wellFormed (.phaseEvaluation 0 [1]) = false ∧
    wellFormed (.phaseEvaluation 0 (List.replicate 9 1)) = false ∧ wellFormed (.phaseEvaluation 0 [1, 1]) = true := by
  decide +kernel
theorem test_256_sensors_are_read : wellFormed (.thermalSensorRead (List.replicate 255 0)) = false ∧
    wellFormed (.thermalSensorRead (List.replicate 256 0)) = true := by decide +kernel
theorem test_a_march_finding_has_a_read : wellFormed (.marchPhaseComplete [⟨0, 0, []⟩]) = false ∧
    wellFormed (.m0MarchDone [⟨0, 0, []⟩]) = false ∧
    wellFormed (.marchPhaseComplete [⟨0, 0, [⟨0, 0, 0, 0, 1⟩]⟩]) = true := by decide +kernel

/-! The step, the board's bus, the clock and snapshots -/

/-- The last one is a part that programs a fuse group (R348). -/
theorem witness_StepRunsTheFrontCommand : State.reset.pending = [] ∧ State.reset.chip.time.running = false ∧
    State.reset.chip.sec.programming = false ∧
    (let c := { ready with sec := { ready.sec with programming := true } }
     c.sec.programming = true ∧ c.standbyUp = true) := by decide +kernel

theorem witness_EveryStepTakesOneCommand : ∃ t, step { st ready with pending := [.smbStatus, .hotReset] } = .next t ∧
    t.pending = [.hotReset] := ⟨_, rfl, rfl⟩

/-- The bits of STATUS that a command can raise (bit 1 sits at THM_STAT) and let fall (bit 3 by a corner exit, R30: 680 mV). -/
theorem witness_AlertCausesFollowTheStatus :
    let hot := List.replicate 256 (BitVec.ofNat 12 800)
    let inside := go ready (.cornerEvaluation (List.replicate 16 680))
    let outside := go inside (.cornerEvaluation (679 :: List.replicate 15 680))
    (ready.smbStatusWord.getLsbD 1 = false ∧ (go ready (.thermalSensorRead hot)).smbStatusWord.getLsbD 1 = true) ∧
    (ready.smbStatusWord.getLsbD 5 = false ∧ (go ready (.dieFailed 24)).smbStatusWord.getLsbD 5 = true ∧
      (go ready (.dieFailed 24)).boot.alertSrc = 0x20) ∧
    (inside.smbStatusWord.getLsbD 3 = true ∧ outside.phase = phReady ∧ outside.smbStatusWord.getLsbD 3 = false ∧
      outside.boot.alertSrc = 8) := by
  decide +kernel

theorem witness_SmbusAnswersAndAlertsClear : ready.v0Up = true ∧ smbListed 0x05 = false ∧ smbListed 0x04 = true ∧
    smbListed 0x0B = false ∧ smbListed 0x30 = false := by decide +kernel
/-- R463: PHASE 5 in bits [11:8], low byte first. -/
theorem test_smb_status : (go ready .smbStatus).out.smb = [0x00, 0x05] := by decide +kernel
theorem test_alert_bits_clear_by_1 :
    (go { ready with boot := { ready.boot with alertSrc := 0x23 } } (.smbAlertSrcClear 0x21 true)).boot.alertSrc = 2 := by
  decide +kernel

theorem witness_ClockReadsLatchTheHighHalf :
    (ready.serves pgTim = true ∧ ready.serves pgSnp = true ∧ (atTime (2 ^ 64 - 1) ready).time.now < 2 ^ 64) ∧
    Chip.reset.serves pgTim = false ∧ Chip.reset.serves pgSnp = false := by decide +kernel
theorem test_time_read_latches : let t := go (atTime 0x500000007 ready) .timNowLoRead
    t.out.rdata = 7 ∧ t.reg pgTim 0x1008 = 5 := by decide +kernel

theorem witness_FabricTimeIsSlewedAndStepped :
    let on := (ready.setFlag pgTim 0x1000 0 true).setFlag pgTim 0x1000 1 true
    ready.serves pgTim = true ∧ ready.time.slew = 0 ∧ (go ready (.timeOffsetWrite 1)).time.slew ≠ 0 ∧
    on.flag pgTim 0x1000 0 = true ∧ ready.flag pgTim 0x1000 0 = false ∧ ready.flag pgTim 0x1000 1 = false ∧
    on.flag pgTim 0x1000 1 = true ∧ on.time.wraps = 0 ∧
    (∃ k < 2, (atTime (256000000000 + 512) on).time.now ≤ k * 256000000000 + 512 ∧
      k * 256000000000 ≤ (atTime (256000000000 + 512) on).time.now + 512) := by decide +kernel
/-- R281: a negative offset of TIM_OFFSET slews back; R282: the time of a PPS edge. -/
theorem test_offset_is_signed : (go ready (.timeOffsetWrite 0xFFFFFFFF)).time.slew = -(2 ^ 40) ∧
    (go ready (.timeOffsetWrite 5)).flag pgTim 0x1000 3 = true := by decide +kernel
theorem test_pps_edge_is_stamped : let t := go (atTime 0x300000009 (ready.setFlag pgTim 0x1000 0 true)) .ppsInEdge
    t.reg pgTim 0x1024 = 9 ∧ t.reg pgTim 0x1028 = 3 ∧ t.flag pgTim 0x1000 2 = true := by decide +kernel

/-- A part whose management firmware runs. -/
def fwUp : Chip := ready.setField (pgMbx 0) 0x1000 0 3 2

theorem witness_ServoReportsAndCorrects :
    let tt := fwUp.setFlag pgTtb 0x1204 0 true 3
    (fwUp.serves pgTim = true ∧ fwUp.m0Up = true ∧ fwUp.fwState = stRunning) ∧
    (tt.serves pgTim = true ∧ tt.m0Up = true ∧ tt.fwState = stRunning ∧ ∃ l < 256, tt.ttEnabled l = true) ∧
    (∀ l < 256, fwUp.ttEnabled l = false) := by decide +kernel
/-- R441: sixteen intervals within 50 ns lock, and one beyond 500 ns unlocks. -/
theorem test_servo_locks : let c := { fwUp with time := { fwUp.time with servoGood := 15 } }
    (go c (.ptpServoUpdate 0 true)).field pgTim 0x102C 0 1 = 1 ∧
    (go fwUp (.ptpServoUpdate 0 true)).field pgTim 0x102C 0 1 = 0 := by decide +kernel

theorem witness_SnapshotsAreTriggeredAndLatched :
    let armed := go fwUp .snapshotArm
    let all := ((armed.setFlag pgSnp 0x1000 1 true).setFlag pgSnp 0x1000 2 true)
    let due := go armed .snapshotTrigger
    let slot := all.setReg pgSnp 0x1018 0xFFFFFFFF
    (armed.serves pgSnp = true ∧ armed.m0Up = true ∧ armed.flag pgSnp 0x1000 0 = true ∧ armed.snap.due = none) ∧
    (due.flag pgSnp 0x1000 0 = true ∧ due.snap.due = some 131072) ∧ fwUp.flag pgSnp 0x1000 0 = false ∧
    all.flag pgSnp 0x1000 1 = true ∧ all.flag pgSnp 0x1000 2 = true ∧ fwUp.flag pgSnp 0x1000 1 = false ∧
    fwUp.flag pgSnp 0x1000 2 = false ∧ slot.serves pgSnp = true ∧
    (∃ u, (atTime 131072 due).snap.due = some u ∧ u ≤ (atTime 131072 due).time.now) ∧
    (∃ u, (atTime 131071 due).snap.due = some u ∧ (atTime 131071 due).time.now < u) := by
  refine ⟨by decide +kernel, by decide +kernel, by decide +kernel, by decide +kernel, by decide +kernel,
    by decide +kernel, by decide +kernel, by decide +kernel, ⟨131072, by decide +kernel⟩, ⟨131072, by decide +kernel⟩⟩

/-! Security, mailboxes, firmware -/

def wiping : Chip := go ready .secureWipe
def wipeFailing : Chip := go wiping (.wipeDone false)
def withScope (c : Chip) : Chip := { c with sec := { c.sec with scopePending := some 5 } }
def withTransition (c : Chip) : Chip := { c with sec := { c.sec with transition := some (1, 7) } }
def storeWaits (c : Chip) : Chip := { c with sec := { c.sec with storeWaits := [(8, [5, 6])] } }

theorem witness_WipesStartAndEnd :
    (ready.serves pgSec = true ∧ ready.standbyUp = true ∧ ready.flag pgSec 0x1010 0 = false) ∧
    (wiping.serves pgSec = true ∧ wiping.standbyUp = true ∧ wiping.flag pgSec 0x1010 0 = true ∧
      wiping.sec.scopePending = none ∧ wiping.sec.transition = none ∧ wiping.sec.wipePass = 0) ∧
    ((withScope wiping).flag pgSec 0x1010 0 = true ∧ (withScope wiping).sec.scopePending = some 5 ∧
      (withScope wiping).sec.transition = none) ∧
    ((withTransition wiping).sec.transition = some (1, 7) ∧ wiping.sec.tap ≠ .other ∧ wiping.flag pgSec 0x1010 1 = false ∧
      (storeWaits wiping).sec.storeWaits ≠ []) ∧
    (wipeFailing.sec.wipePass ≠ 0 ∧ wipeFailing.sec.scopePending = none ∧ wipeFailing.sec.transition = none ∧
      wipeFailing.flag pgSec 0x1010 0 = true) ∧
    ((withScope wipeFailing).sec.wipePass ≠ 0 ∧ (withScope wipeFailing).sec.scopePending ≠ none ∧
      (withScope wipeFailing).sec.transition = none) := by decide +kernel
/-- R350: the scope opens in SEC_DBG_STAT bits [15:8] once the wipe has verified, and not after two failed passes. -/
theorem test_debug_scope_opens : (go (withScope wiping) (.wipeDone true)).reg pgSec 0x1018 = 0x501 ∧
    (go (withScope wipeFailing) (.wipeDone false)).reg pgSec 0x1018 = 0 ∧
    (go (withScope wipeFailing) (.wipeDone false)).flag pgSec 0x1010 1 = true := by decide +kernel

/-- R344: a write that waits for the wipe is made when it has verified, and is lost when the store closes. -/
theorem test_store_writes_wait : (go (storeWaits wiping) (.wipeDone true)).sec.store = [(8, 5), (9, 6)] ∧
    (go (storeWaits wipeFailing) (.wipeDone false)).sec.store = [] ∧
    (go (storeWaits wipeFailing) (.wipeDone false)).sec.storeWaits = [] := by decide +kernel
/-- R348: the state is entered with its first fuse; the group is programmed at a step of the empty queue, and the cores
restart. -/
theorem test_fuses_are_programmed : let c := go (withTransition wiping) (.wipeDone true)
    c.sec.life = 1 ∧ c.sec.partGroup = true ∧ c.fw.bootWaiting = false ∧
    (idle c).sec.partGroup = false ∧ (idle c).fw.bootWaiting = true ∧ (idle c).sec.life = 1 := by decide +kernel

def inLife (n : Nat) (c : Chip) : Chip := { c with sec := { c.sec with life := n } }

theorem witness_TamperEventsWipeAndLock :
    let seen := ready.setFlag pgSec 0x100C 1 true
    (seen.boot.vin3v3 = true ∧ seen.flag pgSec 0x100C 1 = true ∧ seen.sec.life = 0) ∧
    ((inLife 1 seen).boot.vin3v3 = true ∧ (inLife 1 seen).sec.life ≠ 0 ∧ (inLife 1 seen).flag pgSec 0x1018 8 = false) ∧
    (inLife 2 seen).sec.life = 2 ∧ ready.flag pgSec 0x100C 0 = false ∧ (inLife 3 seen).sec.life ≠ 2 ∧
    (inLife 1 (seen.setFlag pgSec 0x1018 8 true)).flag pgSec 0x1018 8 = true ∧
    (storeWaits (inLife 1 seen)).sec.storeWaits ≠ [] ∧ (go ready .vin3v3PowerDown).boot.vin3v3 = false := by decide +kernel
/-- R347: a tamper event outside BLANK wipes the store, locks the keys and is counted; R462: source 6. -/
theorem test_tamper_by_tap : let t := go (inLife 2 ready) (.tapInstruction .other)
    t.reg pgSec 0x1004 = 0x40 ∧ t.reg pgSec 0x1008 = 1 ∧ t.flag pgSec 0x1010 0 = true ∧ t.sec.keyLock = true := by
  decide +kernel

/-- A token of R349 for the device of identifier 0 under challenge 0: its type and SCOPE. -/
def token (type scope : Nat) : List Byte :=
  [0x4E, 0x4A, 0x54, 0x4B, 0x00, 0x01, BitVec.ofNat 8 type, BitVec.ofNat 8 scope] ++ List.replicate 280 0
def inCheck (c : Chip) (t : List Byte) (chal : Option (BitVec 128)) (tampered : Bool) : Chip :=
  { c with sec := { c.sec with checking := some ⟨t, chal, tampered⟩ } }
def zeros (n : Nat) : List Byte := List.replicate n 0

/-- The result of each check that fails first, 1 to 4; check 8 has livery 255 enabled. -/
theorem test_token_checks_in_order :
    (go (inCheck ready (token 1 8) (some 0) false) .tokenCheckDone).field pgSec 0x1024 8 4 = 1 ∧
    (go (inCheck ready (token 1 7) (some 0) false) .tokenCheckDone).field pgSec 0x1024 8 4 = 2 ∧
    (go (inCheck { ready with sec := { ready.sec with deviceId := 1 } } (token 2 0) (some 0) false)
      .tokenCheckDone).field pgSec 0x1024 8 4 = 3 ∧
    (go (inCheck ready (token 2 0) none false) .tokenCheckDone).field pgSec 0x1024 8 4 = 4 := by decide +kernel

/-- The public key of the example of RFC 6979 for P-384, and the bytes of a signature (r, s) under it. -/
def pubKey : List Byte :=
  bytesBE 48 0xEC3A4E415B4E19A4568618029F427FA5DA9A8BC4AE92E02E06AAE5286B300C64DEF8F0EA9055866064A254515480BC13 ++
    bytesBE 48 0x8015D9B72D7D57244EA8EF9AC0C621896708A59367F9DFB9F54CA84B3F1C9DB1288B231C3AE0D4FE7344FD2533264720
def sigOf (r s : Nat) : List Byte := bytesBE 48 r ++ bytesBE 48 s

/-- FIPS 180-4: the example "abc" of SHA-384, and a message that the padding makes two blocks long. -/
theorem test_sha384 :
    sha384 [0x61, 0x62, 0x63] =
      0xCB00753F45A35E8BB5A03D699AC65007272C32AB0EDED1631A8B605A43FF5BED8086072BA1E7CC2358BAECA134C825A7 ∧
    sha384 (zeros 112) =
      0x3E0CBF3AEE0E3AA70415BEAE1BD12DD7DB821EFA446440F12132EDFFCE76F635E53526A111491E75EE8E27B9700EEC20 := by decide +kernel
/-- RFC 6979 A.2.6: the signature over "sample" with SHA-384 is valid, and no longer over "samplf". -/
theorem test_signatures :
    let sig := sigOf 0x94EDBB92A5ECB8AAD4736E56C691916B3F88140666CE9FA73D64C4EA95AD133C81A648152E44ACF96E36DD1E80FABE46
      0x99EF4AEB15F178CEA1FE40DB2603138F130E740A19624526203B6351D0A3A94FA329C145786E679E7B82C71A38628AC8
    signatureValid pubKey (sha384 [0x73, 0x61, 0x6D, 0x70, 0x6C, 0x65]) sig = true ∧
    signatureValid pubKey (sha384 [0x73, 0x61, 0x6D, 0x70, 0x6C, 0x66]) sig = false := by decide +kernel

/-- A token for the device of identifier 0 under challenge 0 with that key and a signature. -/
def signedTok (type scope r s : Nat) : List Byte := (token type scope).take 96 ++ pubKey ++ sigOf r s
def provision : List Byte := signedTok 2 0
  0x7AE9E1DB1160794C70C1EF071BE5191F6C66240F4608FBE8A44ECD36C3ED5DB97500F2E4D84E3FB45850FD6F4303302B
  0x4EB93A6542FE479752D669BB5823BF3CA5FB89293D19EC2E642B5BC90F67699F9A167460DC45BACD99E6AF71EAA0E268
def unlock : List Byte := signedTok 1 7
  0x8568A35A879B0D506132993C6D911D3136A731409AB8C5D26FD7A01E81425281453A6C6ADF4CD2F38C77A5042815EA48
  0x1BCFDA4C1740AD04A4EF0CFD3D9AC0726E6578F9DCFACFE39E71C0FA3D16AA195794FA7FFE95649C10F2289E96C0858C

def blank : Chip := inCheck ready provision (some 0) false
/-- PROVISIONED to the owner of that key. -/
def owned : Chip := inCheck { ready with sec := { ready.sec with
    life := 1, ownerHash := 0x794113F29EDD796B85DFAADE5D707BE345371383E7BAC485D62EDBCBD377BA1FDDF0A1954BF9AD189792AD0D87299E03 } }
  unlock (some 0) false

/-- Checks 5 to 7: another key, another signature, and a tamper event; else the debug token is good. -/
theorem test_token_signatures :
    owned.tokenResult ⟨unlock.set 96 0, some 0, false⟩ = 5 ∧ owned.tokenResult ⟨unlock.set 287 0, some 0, false⟩ = 6 ∧
    owned.tokenResult ⟨unlock, some 0, true⟩ = 7 ∧ owned.tokenResult ⟨unlock, some 0, false⟩ = 0 := by decide +kernel

/-- An accepted token of each action; that the provisioning key is this one is a hypothesis on the Config constant. -/
theorem witness_TokensAreChallengedAndChecked (key : sha384 pubKey = Config.provisioningKeyHash) :
    (ready.serves pgSec = true ∧ ready.standbyUp = true ∧ ready.sec.checking = none ∧ ready.flag pgSec 0x1024 1 = false) ∧
    (blank.standbyUp = true ∧ blank.serves pgSec = true ∧ blank.sec.checking ≠ none ∧
      blank.tokenResult ⟨provision, some 0, false⟩ = 0) ∧
    (owned.standbyUp = true ∧ owned.sec.checking = some ⟨unlock, some 0, false⟩) ∧
    (inCheck ready (token 2 0) none false).tokenResult ⟨token 2 0, none, false⟩ = 4 ∧
    (owned.sec.tap ≠ .other ∧ { owned.sec with tap := .other }.tap = .other ∧
      (owned.setFlag pgSec 0x1018 8 true).flag pgSec 0x1018 8 = true) := by
  have k : tkKey provision = pubKey := by decide +kernel
  have b : tokenForm provision = true ∧ typeOk 0 (tkType provision) = true ∧ tkType provision = 2 ∧
    slice provision 8 16 = idBytes 0 ∧ slice provision 24 16 = idBytes 0 := by decide +kernel
  have g : signatureValid pubKey (sha384 (provision.take 192)) (slice provision 192 96) = true := by decide +kernel
  have v : (List.range 256).any blank.livValid = false := by decide +kernel
  have l : blank.sec.life = 0 ∧ blank.sec.deviceId = 0 := by decide +kernel
  refine ⟨by decide +kernel, ⟨by decide +kernel, by decide +kernel, by decide +kernel, ?_⟩,
    by decide +kernel, by decide +kernel, by decide +kernel⟩
  simp [Chip.tokenResult, typeOk, b, l, k, g, key, v]
/-- R347: LOCK closes debug; under a test instruction that is source 6. -/
theorem test_token_lock : let open_ := owned.setReg pgSec 0x1018 0x701
    (go open_ .tokenLock).reg pgSec 0x1018 = 0 ∧ (go open_ .tokenLock).reg pgSec 0x1008 = 0 ∧
    (go { open_ with sec := { open_.sec with tap := .other } } .tokenLock).reg pgSec 0x1004 = 0x40 := by decide +kernel

theorem test_token_bytes_are_little_endian : let c := (ready.setReg pgSec 0x1100 0x4B544A4E).setReg pgSec 0x1104 0x01020100
    ((go c .tokenSubmit).sec.checking.map (fun k => k.token.take 8)) = some [0x4E, 0x4A, 0x54, 0x4B, 0, 1, 2, 1] := by
  decide +kernel

/-! Mailboxes and firmware -/

/-- An image header of R359: SVN, BUILD_SEQ, LOAD_LEN 4, mailbox major 1, handover format 1 both ways. -/
def imgHeader (svn seq : Nat) : List Byte :=
  [0x4E, 0x4A, 0x46, 0x57, 0, 1, 0, 0, BitVec.ofNat 8 svn, 0, 0, 0] ++ bytesBE 4 seq ++ [0, 0, 0, 4] ++ zeros 4 ++
    [1, 1, 0, 0, 0, 1, 1, 1] ++ zeros 480

/-- Bytes laid out from an address. -/
def laid : Nat → List Byte → Tbl Byte
  | _, [] => []
  | a, b :: bs => (a, b) :: laid (a + 1) bs
/-- A part whose flash holds that image in slot A, which is READY (R358: 0xFFFFFF00). -/
def withImage (h : List Byte) (c : Chip) : Chip :=
  { c with fw := { c.fw with flash := (0, 0) :: laid 0x1000 (h ++ zeros 4) } }
/-- The header of SVN 2 and BUILD_SEQ 9 with the hash of that payload, the key and a signature. -/
def goodHeader : List Byte := (imgHeader 2 9).take 32 ++
  bytesBE 48 0x394341B7182CD227C5C6B07EF8000CDFD86136C4292B8E576573AD7ED9AE41019F5818B4B971C9EFFC60E1AD9F1289F0 ++ zeros 48 ++
  pubKey ++
  sigOf 0x33D3C20085117E9CAF3DA1890F31B34038CC105E596B9C14B71FC4D9640879178535623DC0F88E2CF740F11CA42FE165
    0xAB5AB094C5C1ECDF8D70745211CF56C12F97361A0A5A3BAD0A6F62630D546E9B87197148D57577ED7D041FE90E006C81 ++ zeros 192
def fwOn : Chip := { fwUp with fw := { fwUp.fw with image := imgHeader 2 9, slot := some 0 } }

/-- A hitless update to slot 1 that waits for the new image, with the area that the old one wrote. -/
def updating : Chip :=
  let c := fwOn.writeHandover
  { c with fw := { c.fw with update := some 1, loaded := true, quiesced := true } }

/-- The oldest request of a queue (R364): opcode, MAJOR, MINOR, LENGTH, the word with STATUS, and payload words. -/
def withReq (q op major minor len status : Nat) (payload : List Nat) (c : Chip) : Chip :=
  let c := c.setReg (pgMbx q) 0x100C 1
  let c := (c.setReg (pgMbx q) 0x2000 (BitVec.ofNat 32 (major + minor * 256 + op * 65536))).setReg (pgMbx q) 0x2008
    (BitVec.ofNat 32 len)
  let c := c.setReg (pgMbx q) 0x200C (BitVec.ofNat 32 status)
  forAll (List.range payload.length) c (fun i c => c.setReg (pgMbx q) (0x2010 + 4 * i) (BitVec.ofNat 32 (payload.getD i 0)))

def starts (c : Chip) (q : Nat) : Bool := c.m0Up && c.mayReply q && decide (0 < c.waiting q) && (c.answerNow q).isNone &&
  !c.faultWork
def rungAt (q t : Nat) (c : Chip) : Chip := { c with fw := { c.fw with doorbells := [(q, [t])] } }

theorem witness_MailboxRingsTakeRequestsAndReplies :
    let unread := fwOn.setReg (pgMbx 3) 0x1014 2
    let waits := rungAt 3 7 (withReq 3 1 1 0 0 0 [] fwOn)
    (fwOn.serves (pgMbx 3) = true ∧ fwOn.field (pgMbx 3) 0x1010 0 16 = 0 ∧ unread.serves (pgMbx 3) = true ∧
      unread.field (pgMbx 3) 0x1018 0 16 = 0) ∧
    (waits.m0Up = true ∧ waits.fwState = stRunning ∧ waits.canReply 3 = true ∧ waits.answerNow 3 = none ∧
      waits.time.running = true ∧ (Tbl.get [] waits.fw.doorbells 3).head? = some 7 ∧
      256000000 * max 1 (waits.field (pgMbx 3) 0x101C 0 8) = 1280000000) := by
  decide +kernel
/-- R366: BUSY comes 5 ms after the doorbell with BUSY_MS 5, and not before; the request has left the ring. -/
theorem test_busy : let c := rungAt 3 7 (withReq 3 1 1 0 0 0 [] fwOn)
    (go (atTime 1280000006 c) (.mbxBusyTimeout 3)).waiting 3 = 1 ∧ (go (atTime 1280000007 c) (.mbxBusyTimeout 3)).waiting 3 = 0 ∧
    (go (atTime 1280000007 c) (.mbxBusyTimeout 3)).reg (pgMbx 3) 0x600C = 1 := by decide +kernel
/-- R364: a request behind another is started with it, and completes before it. -/
theorem test_requests_complete_out_of_order :
    let c := ((withReq 2 0x02 1 0 0 0 [] fwOn).setReg (pgMbx 2) 0x2100 0x10001).setReg (pgMbx 2) 0x100C 2
    let t := go c (.getVersion 2)
    t.waiting 2 = 0 ∧ t.fw.started.map (fun x => hdOpcode x.hdr) = [2] ∧ fld (t.reg (pgMbx 2) 0x6000) 16 16 = 1 ∧
    (go t (.getStatus 2)).fw.started = [] := by decide +kernel
/-- R363: 64 requests fit the ring and 65 do not; a reply index cannot pass what stands. -/
theorem test_ring_limits : (go fwOn (.mbxDoorbell 3 65)).flag (pgMbx 3) 0x101C 9 = true ∧
    (go fwOn (.mbxDoorbell 3 0)).flag (pgMbx 3) 0x101C 9 = false ∧
    (go (fwOn.setReg (pgMbx 3) 0x1014 2) (.mbxRspCiWrite 3 3)).flag (pgMbx 3) 0x101C 9 = true ∧
    (go (fwOn.setReg (pgMbx 3) 0x1014 2) (.mbxRspCiWrite 3 2)).reg (pgMbx 3) 0x1018 = 2 := by decide +kernel

/-- The answers without execution: the boot ROM on queue 1, a MAJOR that is not served, a quiesced mailbox, an unknown
opcode, and none. -/
theorem witness_AnswersWithoutExecution :
    let rom := fwOn.setField (pgMbx 0) 0x1000 0 3 1
    (withReq 1 1 1 0 0 0 [] rom).answerNow 1 = some (6, []) ∧
    ((withReq 1 1 2 0 0 0 [] fwOn).answerNow 1).isSome = true ∧ ((withReq 1 1 0 0 0 0 [] fwOn).answerNow 1).isSome = true ∧
    ((withReq 1 1 1 0 0 0 [] { fwOn with fw := { fwOn.fw with quiesced := true } }).answerNow 1) = some (1, [1, 0, 1, 0]) ∧
    (withReq 1 0x17 1 0 0 0 [] fwOn).answerNow 1 = some (3, []) ∧
    (withReq 0 0x14 1 0 0 0 [] rom).answerNow 0 = some (3, []) ∧
    (withReq 0 0x15 1 0 0 0 [] rom).answerNow 0 = none ∧ (withReq 1 0x14 1 0 0 0 [] fwOn).answerNow 1 = none := by
  decide +kernel

/-- Each opcode with its LENGTH may start: as laid out, longer under a higher MINOR, too short, beyond 240, and with a
STATUS that is not 0. -/
theorem witness_MailboxOpcodesAct : ∀ p ∈ [(0x01, 0), (0x02, 0), (0x10, 1), (0x11, 17), (0x12, 1), (0x13, 1), (0x14, 0),
      (0x15, 1), (0x16, 1), (0x20, 16), (0x30, 17)],
    starts (withReq 2 p.1 1 0 p.2 0 [] fwOn) 2 = true ∧ starts (withReq 2 p.1 1 1 (p.2 + 1) 0 [] fwOn) 2 = true ∧
    starts (withReq 2 p.1 1 1 241 0 [] fwOn) 2 = true ∧ starts (withReq 2 p.1 1 0 (p.2 + 1) 0 [] fwOn) 2 = true ∧
    starts (withReq 2 p.1 1 0 p.2 1 [] fwOn) 2 = true := by decide +kernel
def hdrOf (c : Chip) : BitVec 128 := c.reqHdr 2
theorem witness_MailboxOpcodesAct_header :
    (let h := hdrOf (withReq 2 0x10 1 0 1 0 [1] fwOn)
     fld h 16 16 = 0x10 ∧ fld h 64 16 = 1 ∧ fld h 89 7 = 0 ∧ fld h 96 32 = 0 ∧ fld h 8 8 = 0) ∧
    fld (hdrOf (withReq 2 0x10 1 0 1 1 [1] fwOn)) 96 32 = 1 ∧
    ((withReq 2 0x10 1 0 1 0 [0x801] fwOn).reqPayload 2).take 1 = [1] := by decide +kernel
/-- A request that is started, one behind another, a queue whose replies are not read, and work of the fault class. -/
theorem witness_MailboxOpcodesAct_started : let c := withReq 2 0x10 1 0 1 0 [1] fwOn
    (c.startOldest 2).fw.started.map (fun x => decide (x.queue = 2 ∧ hdOpcode x.hdr = 0x10)) = [true] ∧
    c.fw.started = [] ∧ c.mayReply 2 = true ∧ c.hasRequest 2 0x10 = true ∧ c.hasRequest 2 0x11 = false ∧
    c.faultWork = false ∧ { c with ev := { c.ev with placed := c.ev.taken + 1 } }.faultWork = true ∧
    (c.setReg (pgMbx 2) 0x1014 64).mayReply 2 = false := by decide +kernel

/-- The reply's STATUS in the reply ring of queue 2. -/
def replyStatus (c : Chip) (i : Instr) : Nat := ((go c i).reg (pgMbx 2) 0x600C).toNat

theorem witness_ImageOpcodes :
    let ask (op len : Nat) (w : List Nat) (c : Chip) := withReq 2 op 1 0 len 0 w c
    -- IMG_BEGIN: slot 2, the running slot, the other slot
    replyStatus (ask 0x10 1 [2] fwOn) (.imgBegin 2) = 5 ∧ replyStatus (ask 0x10 1 [0] fwOn) (.imgBegin 2) = 6 ∧
    replyStatus (ask 0x10 1 [1] fwOn) (.imgBegin 2) = 0 ∧
    -- IMG_WRITE at 0x0FFF and 0x1000, of 256 bytes
    replyStatus (ask 0x11 17 [0x0FFF01, 0x10000, 0, 0, 0] fwOn) (.imgWrite 2 (zeros 256)) = 5 ∧
    replyStatus (ask 0x11 17 [0x100001, 0x10000, 0, 0, 0] fwOn) (.imgWrite 2 (zeros 255)) = 8 ∧
    replyStatus (ask 0x11 17 [0x100000, 0x10000, 0, 0, 0] fwOn) (.imgWrite 2 (zeros 256)) = 6 ∧
    -- IMG_VERIFY of an erased slot, of the running one, of none
    replyStatus (ask 0x12 1 [1] fwOn) (.imgVerify 2) = 7 ∧ replyStatus (ask 0x12 1 [0] fwOn) (.imgVerify 2) = 6 ∧
    replyStatus (ask 0x12 1 [2] fwOn) (.imgVerify 2) = 5 ∧
    -- IMG_ACTIVATE of a slot in READY and of one that is not
    (fwOn.writeSlotState 1 .ready).slotState 1 = .ready ∧ fwOn.fw.update = none ∧
    replyStatus (ask 0x13 1 [1] fwOn) (.imgActivate 2) = 6 ∧ replyStatus (ask 0x13 1 [2] fwOn) (.imgActivate 2) = 5 := by
  decide +kernel
theorem witness_SvnKeyLogAndTelemetryOpcodes :
    let ask (op len : Nat) (w : List Nat) (c : Chip) := withReq 2 op 1 0 len 0 w c
    let size := 32 + 8 * counterRegs.length
    -- IMG_COMMIT_SVN from a CONFIRMED slot and not
    replyStatus (ask 0x14 0 [] (fwOn.writeSlotState 0 .confirmed)) (.imgCommitSvn 2) = 0 ∧
    (go (ask 0x14 0 [] (fwOn.writeSlotState 0 .confirmed)) (.imgCommitSvn 2)).fw.fuseSvn = 2 ∧
    replyStatus (ask 0x14 0 [] fwOn) (.imgCommitSvn 2) = 6 ∧
    -- IMG_REJECT of the running slot with no other to boot, with one, and of the other slot
    replyStatus (ask 0x15 1 [0] fwOn) (.imgReject 2) = 6 ∧
    replyStatus (ask 0x15 1 [0] (fwOn.writeSlotState 1 .ready)) (.imgReject 2) = 0 ∧
    replyStatus (ask 0x15 1 [1] fwOn) (.imgReject 2) = 0 ∧ replyStatus (ask 0x15 1 [2] fwOn) (.imgReject 2) = 5 ∧
    -- IMG_REVOKE_KEY at and below the running image's key
    replyStatus (ask 0x16 1 [4] fwOn) (.imgRevokeKey 2) = 5 ∧ replyStatus (ask 0x16 1 [0] fwOn) (.imgRevokeKey 2) = 6 ∧
    replyStatus (ask 0x16 1 [0] { fwOn with fw := { fwOn.fw with image := (imgHeader 2 9).set 6 1 } }) (.imgRevokeKey 2) = 0 ∧
    -- TELEM_CFG at the size of one record and below
    replyStatus (ask 0x30 17 [0, 0, size, 5, 1] fwOn) (.telemCfg 2) = 0 ∧
    replyStatus (ask 0x30 17 [0, 0, size - 1, 5, 1] fwOn) (.telemCfg 2) = 5 ∧
    replyStatus (ask 0x30 17 [0, 0, size, 0, 1] fwOn) (.telemCfg 2) = 5 := by decide +kernel

/-- Slot A stands READY with a valid image, and slot B is erased. -/
def waitsToBoot : Chip := withImage goodHeader { ready with fw := { ready.fw with bootWaiting := true } }

theorem laid_get (bs : List Byte) : ∀ a j, Tbl.get erased (laid a bs) (a + j) = bs.getD j erased := by
  induction bs with
  | nil => intros; rfl
  | cons b bs ih =>
    intro a j
    cases j with
    | zero => simp [laid, Tbl.get]
    | succ j => simpa [laid, Tbl.get, Nat.add_assoc, Nat.add_comm 1 j] using ih (a + 1) j

theorem boot_bytes (i : Nat) : waitsToBoot.flashByte (0x1000 + i) = (goodHeader ++ zeros 4).getD i erased := by
  have z : (0 : Nat) ≠ 0x1000 + i := by omega
  rw [← laid_get]
  exact if_neg z

theorem boot_header : waitsToBoot.slotHeader 0 = goodHeader := by
  unfold Chip.slotHeader Chip.flashRead
  rw [List.map_congr_left (fun i _ => by rw [show slotBase 0 + 0x1000 + i = 0x1000 + i by simp [slotBase], boot_bytes])]
  decide +kernel

/-- That image key 0 is this one is a hypothesis on the Config constant. -/
theorem witness_ImagesStartAdoptAndRollBack (key : sha384 pubKey = Config.imageKeyHash 0) :
    let c := waitsToBoot
    let bad : Handover := ⟨none, 5, 6⟩
    (c.standbyUp = true ∧ c.fw.bootWaiting = true ∧ c.flag pgSec 0x1010 0 = false ∧ c.m0Up = true) ∧
    (c.slotState 0 = .ready ∧ c.slotValid 0 = true ∧ c.slotState 1 = .empty) ∧
    (∀ k < 2, fwOn.slotState k ≠ .ready ∧ fwOn.slotState k ≠ .confirmed) ∧
    (fwOn.fw.update = none ∧ updating.fw.update = some 1 ∧ updating.fw.loaded = true ∧ updating.sec.storeWaits = [] ∧
      updating.handArea.map (·.crcOk) = some true ∧
      (updating.setStore ((8, 9) :: updating.sec.store)).handArea.map (·.crcOk) = some false ∧
      (updating.setStore []).handArea = none) ∧
    (fwOn.flag pgSec 0x1010 0 = false ∧ fwOn.flag pgSec 0x1010 1 = false ∧ fwOn.fw.telem = none ∧ fwOn.fw.telemSeq < 2 ^ 32 ∧
      bad.telemSeq = 5) := by
  have h : waitsToBoot.flashRead (slotBase 0 + 0x1200) 4 = zeros 4 := by decide +kernel
  have f : goodHeader.length = 512 ∧ natOfBE (goodHeader.take 4) = 0x4E4A4657 ∧ natOfBE (slice goodHeader 4 2) = 1 ∧
      (∀ x ∈ ihReserved goodHeader, x = 0#8) ∧ ihLoadLen goodHeader = 4 ∧ ihEntry goodHeader = 0 ∧
      ihKeyIdx goodHeader = 0 ∧ slice goodHeader 128 96 = pubKey ∧ ihSvn goodHeader ≤ 63 ∧
      waitsToBoot.fw.revoked = 0 ∧ waitsToBoot.fw.fuseSvn ≤ ihSvn goodHeader ∧
      sha384 (zeros 4) = bvBE 384 (slice goodHeader 32 48) ∧
      signatureValid pubKey (sha384 (goodHeader.take 224)) (slice goodHeader 224 96) = true := by decide +kernel
  obtain ⟨f1, f2, f3, f4, f5, f6, f7, f8, f9, f10, f11, f12, f13⟩ := f
  refine ⟨by decide +kernel, ⟨by decide +kernel, ?_, by decide +kernel⟩, by decide +kernel, by decide +kernel, by decide +kernel⟩
  simp [Chip.slotValid, Chip.imageValid, Chip.headerValid, boot_header, loadLen, regionBytes, h, f1, f2, f3, f5, f6, f7,
    f8, f9, f10, f11, f12, f13, key]
  exact f4
/-- R370: what the old image hands over reads back, and a store that lost a byte of it does not. -/
theorem test_handover : let c := { fwOn with fw := { fwOn.fw with telem := some ⟨7, 8, 9, 10⟩, telemSeq := 11, telemShed := 12 } }
    c.writeHandover.handArea = some ⟨1, true, ⟨some ⟨7, 8, 9, 10⟩, 11, 12⟩⟩ := by decide +kernel

/-! Flash, management cores, power -/

theorem witness_FlashProgramsAndErases : (ready.slotState 0 = .empty) ∧
    ((ready.writeSlotState 0 .ready).slotState 0 = .ready) ∧ ((ready.writeSlotState 0 .trial).slotState 0 = .trial) ∧
    ((ready.writeSlotState 1 .confirmed).slotState 1 = .confirmed) ∧ (1 : Nat) < [(0 : Byte), 5].length ∧
    (SlotState.trial, SlotState.confirmed) ∈ [(SlotState.empty, SlotState.ready), (.trial, .confirmed)] := by decide +kernel
/-- R358: programming clears bits and sets none. -/
theorem test_programming_only_clears :
    ((ready.flashProgram 0x1000 [0x0F]).flashProgram 0x1000 [0xF3]).flashByte 0x1000 = 0x03 := by decide +kernel

def secondExpiry (t : Nat) : Chip := atTime t { fwOn with fw := { fwOn.fw with coreLast := [(2, some 1000)] } }

theorem witness_ManagementCoresRestart :
    (ready.m0Up = true ∧ fwOn.m0Up = true ∧ fwOn.flag (pgMbx 0) 0x1000 8 = true ∧
      Tbl.get none fwOn.fw.coreLast 2 = none) ∧
    (secondExpiry 256000000999).time.now < 1000 + 256000000000 ∧
    1000 + 256000000000 ≤ (secondExpiry 256000001000).time.now ∧
    (fwOn.setFlag (pgMbx 0) 0x1000 8 false).flag (pgMbx 0) 0x1000 8 = false ∧
    (ready.fwState ≠ 2 ∧ ready.fwState ≠ 3) ∧ fwOn.fwState = 2 ∧ (15 : Nat) < 16 := by decide +kernel
/-- R355: a second expiry within 1 s fences the core; at 1 s it does not. -/
theorem test_second_expiry_fences :
    (go (secondExpiry 256000000999) (.coreWatchdogExpiry 2 [])).field (pgMbx 0) 0x1000 6 4 = 0xB ∧
    (go (secondExpiry 256000001000) (.coreWatchdogExpiry 2 [])).field (pgMbx 0) 0x1000 6 4 = 0xF := by decide +kernel

def withTelem (pos size : Nat) : Chip := { fwOn with fw := { fwOn.fw with telem := some ⟨0, size, 1, pos⟩ } }
def pausedTo (t : Nat) : Chip :=
  atTime t ({ fwOn with ev := { fwOn.ev with irqWait := true, irqLast := some 7 } }.setField pgFlt 0x1000 8 8 1)

theorem witness_FirmwareWorksPeriodically :
    (fwOn.m0Up = true ∧ fwOn.fwState = 2 ∧ fwOn.fw.telem = none ∧ fwOn.ev.irqWait = false) ∧
    (ready.m0Up = true ∧ ready.fwState ≠ 2 ∧ ready.fwState ≠ 3) ∧
    ((withTelem 8 64).m0Up = true ∧ (withTelem 8 64).fwState = 2 ∧ (withTelem 8 64).fw.telem = some ⟨0, 64, 1, 8⟩) ∧
    ((pausedTo 256007).m0Up = true ∧ (pausedTo 256007).ev.irqWait = true ∧ (pausedTo 256007).ev.irqLast = some 7 ∧
      7 + 256000 * max 1 ((pausedTo 256007).field pgFlt 0x1000 8 8) ≤ (pausedTo 256007).time.now ∧
      (pausedTo 256007).flag pgFlt 0x1000 0 = true) ∧
    ((pausedTo 256007).setFlag pgFlt 0x1000 0 false).flag pgFlt 0x1000 0 = false := by decide +kernel
/-- R424: one interrupt at the end of the pause, and none before it. -/
theorem test_pause_ends : (go (pausedTo 256007) .evqIntPauseEnd).ev.irqWait = false ∧
    (go (pausedTo 256006) .evqIntPauseEnd).ev.irqWait = true := by decide +kernel

def railSel (r : Nat) (c : Chip) : Chip := c.setField pgPwr 0x1020 0 7 r
def railOn (r : Nat) (c : Chip) : Chip := c.setRail r { c.rail r with on := true, start := c.setpoint r }
def phases (n : Nat) : List Nat := List.replicate n 3072

theorem witness_RailsSlewAndLimitTheirCurrents :
    let v := railOn 24 ready
    let slews := v.setField pgPwr 0x1024 0 10 900 24
    (ready.serves pgPwr = true ∧ ready.v0Up = true) ∧
    70 < (railSel 71 ready).field pgPwr 0x1020 0 7 ∧ (railSel 70 ready).field pgPwr 0x1020 0 7 = 70 ∧
    ((railSel 24 ready).field pgPwr 0x1020 0 7 = 24 ∧ railRange 24 = (700, 900)) ∧
    (∃ d < 16, 700 < ready.setpoint (24 + d)) ∧ (∃ x ∈ [56, 57, 58, 59], ready.setpoint x < 900) ∧
    (∀ x ∈ [56, 57, 58, 59], 700 ≤ ready.setpoint x) ∧
    ((ready.rail 24).on = false ∧ (slews.rail 24).on = true ∧ slews.v0Up = true ∧ slews.time.running = true ∧
      slews.setpoint 24 = 900 ∧ slews.railOut 24 ≠ 900 ∧ (atTime 38400000 slews).railOut 24 = 900) ∧
    dieOfRail 24 ≠ dieM ∧ dieOfRail 68 = dieM ∧ railDomain 24 = some 0 ∧ railDomain 23 = none ∧ railDomain 64 = none ∧
    ((phases 8).length = railPhases 24 ∧ railNominal 24 * 64 ≤ (phases 8).foldl (· + ·) 0 * 5 ∧
      (List.replicate 8 383).foldl (· + ·) 0 * 5 < railNominal 24 * 64 + 1 ∧
      ready.estimateOnly 24 = false) := by decide +kernel
/-- R392: 1 mV/µs. R379: a core setpoint above the crossbar's raises it. -/
theorem test_rails_slew : let c := go (railOn 24 (railSel 24 ready)) (.railVsetWrite 900)
    (c.view pgPwr 0x1030).getLsbD 9 = true ∧ c.setpoint 24 = 900 ∧ c.setpoint 58 = 900 ∧ c.railOut 24 = ready.setpoint 24 ∧
      (atTime 2560000 c).railOut 24 = ready.setpoint 24 + 10 := by decide +kernel
theorem test_setpoint_refused : (go (railSel 24 ready) (.railVsetWrite 901)).flag pgPwr 0x1004 4 = true ∧
    (go (railSel 24 ready) (.railVsetWrite 699)).flag pgPwr 0x1004 4 = true := by decide +kernel

/-- A rail whose phase 2 has been suspect four times, and currents in which it is open. -/
def suspect : Chip := ready.setRail 24 { ready.rail 24 with suspect := [(2, 4)] }
def openPhase : List Nat := [800, 800, 0, 800, 800, 800, 800, 800]

theorem witness_PhaseIsShed : suspect.v0Up = true ∧ openPhase.length = railPhases 24 ∧
    railNominal 24 * 64 ≤ openPhase.foldl (· + ·) 0 * 5 ∧ Tbl.get 0 (suspect.rail 24).suspect 2 = 4 ∧
    (∀ j < 8, j ≠ 2 → Tbl.get 0 (suspect.rail 24).suspect j < 4) ∧ suspect.shed 24 2 = false ∧
    (suspect.rail 24).badSense.getLsbD 2 = false ∧ 4 * openPhase.getD 2 0 * 7 < 5600 ∧
    suspect.railEst 24 = 0 ∧ suspect.estimateOnly 24 = false := by decide +kernel
/-- The same of a rail that is on, with an estimate of 0 W for its die. -/
theorem witness_PhaseIsShed_on : (railOn 24 suspect).railEst 24 = 0 ∧ (railOn 24 suspect).railOut 24 = 750 := by
  have o : (railOn 24 suspect).railOut 24 = 750 := by decide +kernel
  have e : (railOn 24 suspect).estimateOf (dieOfRail 24) = 0 := by decide +kernel
  refine ⟨?_, o⟩
  rw [Chip.railEst, o, e]
  simpa using (by decide : Rat.floor 0 ≤ 0)
theorem test_open_phase_is_shed : let c := go suspect (.phaseEvaluation 24 openPhase)
    c.shed 24 2 = true ∧ c.reg pgPwr 0x1108 = 1 ∧ c.ev.placed = 1 := by decide +kernel

def hotDies (t : Nat) (c : Chip) : Chip := forAll (List.range 32) c (fun d c => c.setField pgThm 0x1008 0 12 t d)

theorem witness_MetersHoldTheAllowances :
    (ready.v0Up = true ∧ ready.pwr.vinLost = false ∧ ready.pwr.tripped = false ∧
      (ready.setFlag pgPwr 0x1000 0 false).flag pgPwr 0x1000 0 = false) ∧
    (∀ d < 17, ready.deepLimit d = none ∧ ∀ r ∈ domainRails d, Tbl.get none ready.pwr.ilim r = none) ∧
    (∀ d < 17, (hotDies 799 ready).domainTemp d = 799 ∧ (hotDies 800 ready).domainTemp d = 800 ∧
      (hotDies 840 ready).domainTemp d = 840 ∧ (hotDies 841 ready).domainTemp d = 841) ∧
    ({ ready with pwr := { ready.pwr with tripped := true } } : Chip).pwr.tripped = true := by decide +kernel
/-- R401 on the crossbar, whose RATE is 75 to 100: at 100 °C, 102.5 °C, 105 °C, and above. -/
theorem test_thermal_rate : thermalRate 75 100 799 = 100 ∧ thermalRate 75 100 800 = 100 ∧ thermalRate 75 100 820 = 87 ∧
    thermalRate 75 100 840 = 75 ∧ thermalRate 75 100 880 = 37 ∧ thermalRate 75 100 920 = 9 := by decide +kernel

theorem witness_BudgetsShareTheCap :
    (ready.v0Up = true ∧ ready.serves pgPwr = true ∧ (List.replicate 32 1).length = 32 ∧ ready.refLive = false ∧
      ready.pwr.binLast = none) ∧
    (∃ u, (atTime 256002 { ready with pwr := { ready.pwr with binLast := some 3 } }).pwr.binLast = some u ∧
      256002 < u + 256000) ∧ 3 + 256000 ≤ (atTime 256003 ready).time.now ∧
    ((railsOf 8).any (ready.setFlag pgPwr 0x1030 8 true 24).senseFail = true ∧ (railsOf 8).any ready.senseFail = false) := by
  refine ⟨by decide +kernel, ⟨3, by decide +kernel⟩, by decide +kernel, by decide +kernel⟩
/-- R381 and R383: two cells that die 24 moved for livery 5, whose counter has 3.5 µJ left over. -/
def worked : Chip := { ready with act := ⟨[(actKey 24 actCell 0 5, 2)], [(actKey 24 actCell 0 5, 2)], 0, [(5, mkRat 7 2)]⟩ }
theorem witness_WorkIsCharged : (∃ kv ∈ worked.act.work, kv.1 % 257 = 5) ∧ (∀ kv ∈ worked.act.work, kv.1 % 257 ≠ 6) ∧
    (worked.act.due.filter (fun kv => decide (actDie kv.1 = 24))).length = 1 ∧ worked.standbyUp = true ∧
    worked.dieFailed 31 = false ∧ ((5 : W32) &&& 0xFFF = ({ ready with regs := [] }.setReg pgPwr 0x1014 5).reg pgPwr 0x1014) := by
  decide +kernel
/-- R390: a hint is gone at the end of its hold. -/
theorem test_hints_end : let c := atTime 100 { ready with coach := { ready.coach with hints := [(5, [⟨3, 0, 100⟩, ⟨4, 0, 101⟩])] } }
    (go c (.hintHoldExpiry 5)).coach.hints = [(5, [⟨4, 0, 101⟩])] := by decide +kernel

theorem witness_CornerAndSupplyAreWatched :
    let gasp := { ready with boot := { ready.boot with gasp := some (zeros 256) } }
    ((List.replicate 16 1023).length = 16 ∧ (∀ v ∈ List.replicate 16 1023, v < 1024) ∧ ready.v0Up = true ∧
      phTrain ≤ ready.phase) ∧
    phTrain ≤ (ready.setField pgPwr 0x1078 0 3 2).phase ∧
    (ready.flag pgPwr 0x1004 0 = false ∧ (go ready .vin12Present).flag pgPwr 0x1004 0 = true ∧
      (go ready .vin12Present).v0Up = true) ∧ (∀ d < 16, ready.liveCoaches d = []) ∧
    (ready.standbyUp = true ∧ ready.boot.gasp = none ∧ gasp.boot.gasp = some (zeros 256)) := by decide +kernel

theorem witness_CalibrationIsSaved :
    let saves := go fwOn .calSave
    (fwOn.serves pgPwr = true ∧ fwOn.standbyUp = true ∧ fwOn.fwState = 2 ∧ fwOn.fw.calSaving = none) ∧
    (ready.fwState ≠ 2 ∧ ready.serves pgPwr = true) ∧ (ready.trimBytes.length = trimCount ∧ ready.calBody.length ≤ 65472) ∧
    (saves.serves pgPwr = true ∧ saves.fw.calSaving = some 0 ∧ saves.fw.flash = []) := by decide +kernel

def readings (t : Nat) : List (BitVec 12) := List.replicate 256 (BitVec.ofNat 12 t)
def hotOnce : Chip := go ready (.thermalSensorRead (readings 920))

theorem witness_SensorsThrottleAndTrip :
    (ready.v0Up = true ∧ (readings 920).length = 256 ∧ ready.powered 30 = true ∧ ready.powered 0 = false) ∧
    (∀ k < 8, ready.pwr.badSensors.getLsbD (30 * 8 + k) = false) ∧
    (hotOnce.pwr.tripped = false ∧ hotOnce.v0Up = true ∧ 1 ≤ Tbl.get 0 hotOnce.pwr.hot 30 ∧ hotOnce.powered 30 = true) ∧
    ((BitVec.ofNat 12 919).toInt < 920 ∧ (BitVec.ofNat 12 920).toInt = 920 ∧ (BitVec.ofNat 12 0xEC0).toInt = -320) := by
  decide +kernel
/-- R400: a die reads its hottest sensor, and eight are valid. -/
theorem test_junction : let c := go ready (.thermalSensorRead ((readings 700).set (30 * 8 + 5) 720))
    c.junction 30 = 720 ∧ c.field pgThm 0x1008 16 4 30 = 8 ∧ c.junction 31 = 700 := by decide +kernel

/-! Small systems: Narjo ports that are up, a livery with a timetable, and frames -/

/-- A logical port enabled in Narjo mode with its link up. -/
def port (p : Nat) (c : Chip) : Chip :=
  ((c.setFlag (pgPrt (p / 128)) (prtCfgOff (p / 4)) (4 + p % 4) true).setFlag (pgLnk (p / 128)) 0x1004 0 true
    (p % 128)).setFlag (pgLnk (p / 128)) 0x1008 0 true (p % 128)
/-- A livery that may send every class on a trusted port, to destination groups 0 to 31 and every multicast group. -/
def grant (l p : Nat) (c : Chip) : Chip :=
  ((((c.setReg pgLiv 0x1004 0x1F l).setFlag pgLiv (0x1100 + 4 * (p / 32)) (p % 32) true l).setReg pgLiv 0x1200 0xFFFFFFFF
    l).setReg pgLiv 0x100C 0x3FFF0000 l).setReg pgLiv 0x1044 0x80000000 p
/-- A livery enabled in the timetable: cycle 64 slots, entries 0 to 15 in bank 0, anchor at step 0 and time 0. -/
def timetable (l : Nat) (c : Chip) : Chip :=
  ((c.setReg pgTtb 0x1220 64 l).setReg pgTtb 0x1228 0x000F0000 l).setFlag pgTtb 0x1204 0 true l
def entry (i : Nat) (e : BitVec 512) (c : Chip) : Chip := { c with tt := { c.tt with entries := [(i, e)] } }
def quota (die pool l n : Nat) (c : Chip) : Chip := c.setReg (pgPol die) 0x1018 (BitVec.ofNat 32 n) (pool * 256 + l)
/-- Ports 0 and 4 serve livery 5, which may hold cells, and EID 0x40 lies behind port 4 for every class. -/
def sys : Chip := { quota 29 3 5 99 (quota 28 3 5 99 (grant 5 4 (grant 5 0 (port 4 (port 0 ready))))) with
  rte := { ready.rte with routes := [(0x40, 0x11F)] } }
/-- Entry 3 of livery 5 (R174): its coaches on coach die 2, CUTOFF 32 and DEADLINE 63 slots into its step. -/
def ent3 : BitVec 512 := BitVec.ofNat 512 (1 + 5 * 2 ^ 8 + 2 * 2 ^ 26 + 2 ^ 32 + 32 * 2 ^ 96 + 63 * 2 ^ 128)
/-- The timetable serves entry 3, and its contributor set is ports 0 and 4. -/
def runs : Chip :=
  let c := entry 3 ent3 (timetable 5 sys)
  { c with tt := { c.tt with csets := [(0, 0x11)] } }

/-- A frame with a good header and trailer, and 3 HOPS. -/
def frm (cls sub liv : Nat) (mc : Bool) (dst : Nat) (body : List Byte) (hops : Nat := 3) : Frame :=
  mkFrame (mkHdr cls sub liv mc dst 0 (36 + body.length) 0 hops) body
/-- The frame's tail has been checked on a port. -/
def came (p : Nat) (f : Frame) (c : Chip) : Chip := c.setLink p { c.link p with checked := some (f, true) }

def hearsB (c : Chip) (p : Nat) (f : Frame) : Bool :=
  c.rxOn p && c.narjo p && c.linkUp p && hdrOk f.hdr && hdrClassOk f.hdr && decide (tailOf f = .good) && f.whole && decide (f.buf.bad = none) &&
    (!hdrSequenced f.hdr || decide ((c.link p).checked = some (f, true)))
def passesB (c : Chip) (p : Nat) (f : Frame) : Bool :=
  (!c.tornDown (hLiv f.hdr) || decide (hClass f.hdr = 3 ∧ hSub f.hdr < 2)) && decide (c.livCheck p f.hdr f.body false = 0)
theorem hears_of (c : Chip) (p : Nat) (f : Frame) (h : hearsB c p f = true) : c.hears p f := by
  simp only [hearsB, Bool.and_eq_true, decide_eq_true_eq, Bool.or_eq_true, Bool.not_eq_true'] at h
  obtain ⟨⟨⟨⟨⟨⟨⟨⟨h1, h2⟩, h3⟩, h4⟩, h5⟩, h6⟩, h7⟩, h8⟩, h9⟩ := h
  exact ⟨h1, h2, h3, h4, h5, h6, h7, h8, fun s => h9.resolve_left (by simp [s])⟩
theorem passes_of (c : Chip) (p : Nat) (f : Frame) (h : passesB c p f = true) : c.passes p f := by
  simp only [passesB, Bool.and_eq_true, decide_eq_true_eq, Bool.or_eq_true, Bool.not_eq_true'] at h
  exact ⟨fun t => h.1.resolve_left (by simp [t]), h.2⟩

/-! Faults, pairing and aborts -/

def fenced (k : Nat) (c : Chip) : Chip := c.setLanes 3 { c.lanesAt 3 with fenced := putBit (c.lanesAt 3).fenced k true }
def repairing (k : Nat) (c : Chip) : Chip := c.setLanes 3 { c.lanesAt 3 with target := some k }
/-- Only spare 83 is left. -/
def lastSpare (c : Chip) : Chip := c.setLanes 3 { c.lanesAt 3 with tested := (0x7 : BitVec 84) <<< 80 }

theorem witness_LaneClustersAreFencedAndRepaired :
    let auto := ready.setFlag pgFlt 0x1010 0 true
    let none_ := fenced 7 (ready.setLanes 3 { ready.lanesAt 3 with tested := (0xF : BitVec 84) <<< 80 })
    (ready.mainUp = true ∧ ready.serves pgFlt = true ∧ ready.dieFailed 11 = false ∧
      (ready.lanesAt 3).fenced.getLsbD 79 = false ∧ (ready.lanesAt 3).target = none ∧
      (ready.setFlag pgFlt 0x1010 0 false).flag pgFlt 0x1010 0 = false) ∧
    ((fenced 79 ready).mainUp = true ∧ ((fenced 79 ready).lanesAt 3).fenced.getLsbD 79 = true ∧
      ((fenced 79 ready).lanesAt 3).replaced.getLsbD 79 = false) ∧
    (auto.flag pgFlt 0x1010 0 = true ∧ (auto.lanesAt 3).tested.getLsbD 80 = false ∧
      (auto.lanesAt 3).fenced.getLsbD 80 = false) ∧
    ((ready.lanesAt 3).mapped.getLsbD 80 = false) ∧ ((repairing 7 ready).lanesAt 3).target ≠ none ∧
    (∀ j < 84, 80 ≤ j → (none_.lanesAt 3).tested.getLsbD j = true) ∧
    (((repairing 7 (fenced 7 ready)).lanesAt 3).target = some 7 ∧
      ((repairing 7 (fenced 7 (lastSpare ready))).lanesAt 3).tested.getLsbD 83 = false ∧
      ∀ j < 83, 80 ≤ j → ((repairing 7 (fenced 7 (lastSpare ready))).lanesAt 3).tested.getLsbD j = true) := by
  decide +kernel
/-- R415: the last spare fails its test, and the cluster stays without one. -/
theorem test_spares_run_out : let c := go (repairing 7 (fenced 7 (lastSpare ready))) (.laneSpareTestDone 3 false)
    (c.lanesAt 3).target = none ∧ (c.lanesAt 3).fenced.getLsbD 83 = true ∧
      fld (Tbl.get 0 c.ev.ring 0) 240 16 = 0x0108 := by decide +kernel

theorem witness_DiesFail :
    (ready.mainUp = true ∧ (go ready (.dieFailed 9)).mainUp = true ∧ (go ready (.dieFailed 9)).dieFailed 9 = true ∧
      ready.dieFailed 9 = false) ∧
    ((9 : Nat) = 8 + (1 : CDie).val ∧ (8 : Nat) = 8 + (0 : CDie).val ∧ (23 : Nat) = 8 + (15 : CDie).val) ∧
    (go ready (.dieFailed 27)).flt.fatal = true ∧ (go ready (.dieFailed 28)).flt.fatal = false ∧
    (go ready (.dieFailed 31)).flt.fatal = true ∧ (go ready (.dieFailed 23)).flt.fatal = false ∧
    (go (port 0 ready) (.dieFailed 0)).enabled 0 = true := by decide +kernel

/-- A digest record of livery 5, entry 3, a step and chunk 0 with a digest (R419). -/
def dig (step digest : Nat) : BitVec 256 := BitVec.ofNat 256 (5 * 2 ^ 240 + 3 * 2 ^ 224 + step * 2 ^ 192 + digest)
/-- The pair port is port 4, in a mode. -/
def pair (mode : Nat) (c : Chip) : Chip :=
  (c.setReg pgFlt 0x1104 0x80000004).setReg pgFlt 0x1100 (BitVec.ofNat 32 (mode + 5 * 16))
def withDigs (rs : List DigRec) (c : Chip) : Chip := { c with flt := { c.flt with digs := rs } }
def digFrame : Frame := frm 3 7 5 false 0 (bytesBE 32 (dig 9 1).toNat)

theorem witness_DigestsAreComparedAndTrailerStepsJudged :
    let batch := atTime 256000 { pair 1 sys with flt := { sys.flt with digBatch := [(5, [⟨dig 9 1, 0⟩])] } }
    let down := batch.setFlag (pgLnk 0) 0x1008 0 false 4
    (batch.mainUp = true ∧ batch.pairPort = some 4 ∧ Tbl.get [] batch.flt.digBatch 5 = [⟨dig 9 1, 0⟩] ∧ 256000 ≤ batch.time.now ∧
      batch.livPort 5 4 = true ∧ batch.portUp 4 = true ∧ down.portUp 4 = false ∧ down.livPort 5 4 = true ∧
      (pair 1 sys).pairPort = some 4 ∧ Tbl.get [] (pair 1 sys).flt.digBatch 5 = []) ∧
    ready.flag pgFlt 0x1104 31 = false ∧
    (hearsB (pair 1 sys) 4 digFrame = true ∧ passesB (pair 1 sys) 4 digFrame = true ∧ hClass digFrame.hdr = 3 ∧
      hSub digFrame.hdr = 7 ∧ (pair 1 sys).field pgFlt 0x1100 0 2 = 1 ∧ (pair 2 sys).field pgFlt 0x1100 0 2 = 2) := by
  decide +kernel
/-- 16,384 records of this device, which no other record of it meets. -/
theorem witness_DigestsFillTheStore : let c := withDigs (List.replicate 16384 ⟨dig 9 1, true, 0⟩) ready
    c.flt.digs.length = 16384 ∧ (∀ r ∈ c.flt.digs, r.own = true) ∧
      (c.setFlag pgFlt 0x1110 0 true).flt.digs = c.flt.digs := by
  refine ⟨List.length_replicate, fun r h => ?_, rfl⟩
  rw [List.eq_of_mem_replicate h]
/-- Records that match, that differ in the digest, and that do not meet; the first mismatch is captured (R420). -/
theorem test_digests_meet : let c := withDigs [⟨dig 9 1, true, 0⟩] ready
    (c.digAdd (dig 9 1) false).reg pgFlt 0x1214 = 1 ∧ (c.digAdd (dig 9 2) false).reg pgFlt 0x1218 = 1 ∧
    (c.digAdd (dig 9 2) false).flag pgFlt 0x1110 0 = true ∧ (c.digAdd (dig 9 2) false).reg pgFlt 0x1114 = 9 ∧
    (c.digAdd (dig 10 1) false).flt.digs.length = 2 ∧ (c.digAdd (dig 9 1) true).flt.digs.length = 2 := by decide +kernel

theorem witness_DigestTimeout :
    let c := atTime 256005 ((withDigs [⟨dig 9 1, true, 5⟩] ready).setField pgFlt 0x1100 16 16 0)
    c.mainUp = true ∧ (∀ r ∈ c.flt.digs, r.since + max 1 (c.field pgFlt 0x1100 16 16) * 256000 ≤ c.time.now) ∧
    (∀ r ∈ c.flt.digs, (atTime 256004 c).time.now < r.since + max 1 (c.field pgFlt 0x1100 16 16) * 256000) := by
  decide +kernel

/-- Trailer mode with reference livery 5 at step 12. -/
def trailer : Chip := atTime (12 * 64 * 65536) (pair 2 (timetable 5 sys))
def promoting (at_ : W32) : Chip := { trailer with flt := { trailer.flt with promoteDue := some at_ } }

theorem witness_TrailerSteps :
    (trailer.mainUp = true ∧ trailer.field pgFlt 0x1100 0 2 = 2 ∧ trailer.field pgFlt 0x1100 4 8 = 5 ∧
      trailer.ttEnabled 5 = true ∧ trailer.currentStep 5 = 12 ∧ trailer.flt.trailJudged ≠ some 10) ∧
    { trailer with flt := { trailer.flt with trailJudged := some 10 } }.flt.trailJudged = some 10 ∧
    (withDigs [⟨dig 10 1, true, 0⟩] trailer).flt.digs.any (fun r => decide (dgLiv r.word = 5 ∧ dgStep r.word = 10)) = true ∧
    (trailer.flt.promoteDue = none ∧ (promoting 12).flt.promoteDue = some 12 ∧
      ((promoting 12).currentStep 5 - 12).toInt = 0 ∧ ((promoting 13).currentStep 5 - 13).toInt < 0) := by decide +kernel
/-- R421: a clean step counts, an unmatched record starts the count again, and promotion waits for its step. -/
theorem test_trailer_counts : (go trailer .trailerStepCheck).field pgFlt 0x110C 16 16 = 1 ∧
    (go (withDigs [⟨dig 10 1, true, 0⟩] (trailer.setField pgFlt 0x110C 16 16 4)) .trailerStepCheck).field pgFlt 0x110C 16 16 = 0 ∧
    (go (promoting 12) .trailerModeChange).flt.promoteDue = none ∧
    (go (promoting 13) .trailerModeChange).flt.promoteDue = some 13 := by decide +kernel


/-- A ledger batch of coach die 2 for livery 5, to EID 0x40, whose record has waited 1 µs. -/
def ledger : Chip :=
  let c := atTime 256007 (sys.setReg pgTtb 0x1230 0x80000040 5)
  { c with coach := { c.coach with ledger := [(2 * 256 + 5, [⟨7, 7⟩])] } }

theorem witness_LedgerBatchesLeaveOrAreLost :
    (sys.mainUp = true ∧ sys.dieFailed 10 = false ∧ sys.ledgerBatch 2 5 = []) ∧
    (ledger.mainUp = true ∧ ledger.ledgerBatch 2 5 = [⟨7, 7⟩] ∧ 7 + 256000 ≤ ledger.time.now ∧
      (ledger.setLedgerBatch 2 5 (List.replicate 32 ⟨7, 256007⟩)).ledgerBatch 2 5 = List.replicate 32 ⟨7, 256007⟩ ∧ ledger.flag pgTtb 0x1230 31 5 = true ∧
      ledger.field pgTtb 0x1230 0 18 5 = 0x40 ∧ ledger.livGroup 5 (dgOf 0x40) = true ∧ ledger.lookup 0x40 3 = .port 4 ∧
      ledger.livPort 5 4 = true) ∧
    (ledger.setReg pgTtb 0x1230 0x40 5).flag pgTtb 0x1230 31 5 = false := by decide +kernel
/-- R188: a record that has waited 1 µs is a LEDGER frame of 68 bytes out of port 4, and is lost with no collector; a
younger one waits on. -/
theorem test_ledger_batch : ((go ledger (.ledgerBatchSend 2 5)).egress 4).ctl.map (fun m => hLen m.hdr) = [68] ∧
    (go (ledger.setReg pgTtb 0x1230 0x40 5) (.ledgerBatchSend 2 5)).reg pgTtb 0x1418 = 1 ∧
    go (atTime 256006 ledger) (.ledgerBatchSend 2 5) = atTime 256006 ledger := by decide +kernel

/-- The body of a wave for entry 3 of a livery at a step with cause 0x0201 (R411). -/
def waveFrame (l e step : Nat) (hdrLiv : Nat := l) : Frame :=
  frm 3 0 hdrLiv false 0 (bytesBE 32 (l * 2 ^ 240 + e * 2 ^ 224 + step * 2 ^ 192 + 0x0201 * 2 ^ 152))
def coach (ph : Phase) (step : W32) : Coach :=
  { Coach.empty with phase := ph, livery := 5, entry := 3, step := step, ent := ent3, td := 63 * 65536, granules := [2] }
def marked (c : Chip) : Chip := c.setCch 2 { c.cch 2 with marks := [⟨5, 3, 0, 63 * 65536⟩] }

theorem witness_AbortWaves :
    let other := waveFrame 5 3 0 6
    let c := runs.setSlot 2 9 (coach .packing 0)
    (hearsB c 0 (waveFrame 5 3 0) = true ∧ passesB c 0 (waveFrame 5 3 0) = true) ∧
    ((waveOf (bvBE 256 ((waveFrame 5 4 0).body.take 32))).entry = 4 ∧ c.serving 5 4 0 = none) ∧
    (hearsB c 0 other = true ∧ (waveOf (bvBE 256 (other.body.take 32))).livery ≠ hLiv other.hdr ∧
      passesB (grant 6 0 c) 0 other = true) ∧
    ((c.serving 5 3 0).map (fun v => (eLiv v.ent, c.waveOwner v.ent)) = some (5, some 2) ∧ c.hasMark 2 5 3 0 = false ∧
      (marked c).hasMark 2 5 3 0 = true ∧ ((marked c).serving 5 3 0).isSome = true) ∧
    ((c.slot 2 9).phase = .packing ∧ (c.slot 2 9).livery = 5 ∧
      ((runs.setSlot 2 9 (coach .folding 0)).time.now : Int) < (coach .folding 0).td) := by decide +kernel
/-- An entry of livery 6 serves livery 5 by number. -/
theorem witness_WaveOfAnotherLivery :
    let c := entry 17 (ent3 ^^^ BitVec.ofNat 512 (3 * 2 ^ 8)) ((timetable 6 runs).setReg pgTtb 0x1228 0x001F0010 6)
    (c.serving 5 17 0).map (fun v => eLiv v.ent) = some 6 ∧ hearsB c 0 (waveFrame 5 17 0) = true ∧
      passesB c 0 (waveFrame 5 17 0) = true := by decide +kernel
/-- R410: the wave marks the collective and aborts its coach with the wave's cause; a second one only counts. -/
theorem test_wave_aborts : let c := go (runs.setSlot 2 9 (coach .packing 0)) (.abortWaveRx 0 (waveFrame 5 3 0) 0)
    (c.slot 2 9).phase = .aborting ∧ (c.slot 2 9).cause = 0x0201 ∧ c.reg pgFlt 0x1204 = 1 ∧
      (go (marked runs) (.abortWaveRx 0 (waveFrame 5 3 0) 0)).reg pgFlt 0x1208 = 1 := by decide +kernel

def repeats (due : Nat) (c : Chip) : Chip := { c with flt := { c.flt with waves := [⟨2, 5, 3, 0, due, []⟩] } }

theorem witness_AbortsSpreadAndDrain :
    (runs.mainUp = true ∧ runs.flt.waves = [] ∧ (repeats 8 (atTime 8 runs)).flt.waves = [⟨2, 5, 3, 0, 8, []⟩] ∧
      (repeats 8 (atTime 8 runs)).time.now = 8 ∧ (repeats 9 (atTime 8 runs)).time.now < 9) ∧
    ((runs.setSlot 2 9 (coach .aborting 0)).slot 2 9).phase = .aborting ∧ (runs.slot 2 9).phase ≠ .aborting := by
  decide +kernel
/-- R136: the drained slot keeps its key; R131: a mark expires at its Td. -/
theorem test_drain : let c := go (runs.setSlot 2 9 (coach .aborting 7)) (.abortDrainDone 2 9)
    (c.slot 2 9).phase = .free ∧ (c.slot 2 9).step = 7 ∧ (c.slot 2 9).granules = [] := by decide +kernel
theorem test_mark_expiry : ((go (atTime (63 * 65536) (marked runs)) (.abortMarkExpiry 2)).cch 2).marks = [] ∧
    ((go (atTime (63 * 65536 - 1) (marked runs)) (.abortMarkExpiry 2)).cch 2).marks.length = 1 := by decide +kernel

/-! Ingress, puts, Ethernet, cells and tails -/

/-- A Memory header (R262) with TAG, STAGE and CTR. -/
def memHdr (tag stage ctr : Nat) : List Byte := bytesBE 32 (tag * 2 ^ 176 + stage * 2 ^ 174 + ctr * 2 ^ 133)
def readReq : Frame := frm 1 0 5 false 0x40 (memHdr 1 1 0)
def put (stage : Nat) (hops : Nat := 3) : Frame := frm 1 4 5 true 7 (memHdr 1 stage 0) hops
def putCpl (liv arrived failed : Nat) : Frame :=
  frm 1 5 liv false 0x40 (memHdr 1 1 9 ++ bytesBE 16 (putBody 1 0 5 2 arrived failed 0).toNat)
def bulk : Frame := frm 2 0 5 false 0x40 (zeros 64)
def control (sub : Nat) : Frame := frm 3 sub 5 false 0x40 (zeros 12)
def result : Frame := frm 0 2 5 false 0x40 (zeros 32)
/-- One frame of each command that is not a waybill's. -/
def forms : List Frame := [readReq, put 1, putCpl 5 1 0, bulk, control 1, control 4, result, frm 3 7 5 false 0 (zeros 32),
  waveFrame 5 3 0]

theorem witness_FramesThatFailTheirChecksStop :
    (hClass readReq.hdr = 1 ∧ isMcPut readReq.hdr = false ∧ isCtrCpl readReq = false ∧ isMcPut (put 1).hdr = true ∧
      isCtrCpl (putCpl 5 1 0) = true ∧ hClass bulk.hdr = 2 ∧ hClass (control 1).hdr = 3 ∧ hSub (control 1).hdr = 1 ∧
      hSub (control 4).hdr = 4 ∧ hClass result.hdr = 0 ∧ hSub result.hdr = 2) ∧
    (∀ f ∈ forms, hearsB (came 0 f sys) 0 f = true ∧ passesB (came 0 f sys) 0 f = true ∧
      (came 0 f sys).tornDown (hLiv f.hdr) = false) ∧
    ready.rxOn 0 = false ∧ (port 0 (ready.setFlag (pgPrt 0) 0x1000 4 false)).narjo 0 = true ∧
    ((sys.setFlag pgRte 0x160C 1 true 5).tornDown 5 = true) ∧
    (let f := { bulk with trailer := bulk.trailer ^^^ 1 }
     sys.rxOn 0 = true ∧ sys.narjo 0 = true ∧ sys.linkUp 0 = true ∧ hdrOk f.hdr = true ∧ hdrClassOk f.hdr = true ∧
       hdrSequenced f.hdr = false ∧ f.whole = true ∧ f.buf.bad = none ∧ tailOf f ≠ .good ∧ sys.tornDown 5 = false ∧
       (sys.setFlag pgLiv 0x1004 3 false 5).livCheck 0 f.hdr f.body false = 3 ∧
       { bulk with whole := false }.whole = false) := by decide +kernel
/-- R21: the livery check acts by the header of a frame whose tail is bad, which goes no further. -/
theorem test_checks_act_by_the_header : let f := { bulk with trailer := bulk.trailer ^^^ 1 }
    (go (sys.setFlag pgLiv 0x1004 3 false 5) (.bulkFrame 0 f 0)).reg pgLiv 0x1024 5 = 0x80000003 ∧
    ((go (sys.setFlag pgLiv 0x1004 3 false 5) (.bulkFrame 0 { bulk with whole := false } 0)).link 0).rx.isSome = true := by
  decide +kernel
/-- R337: one state for each cause from 1 to 6, and 8. -/
theorem witness_EachLiveryCheck :
    let why (c : Chip) (f : Frame) : Nat := (came 0 f c).livCheck 0 f.hdr f.body false
    why (sys.setFlag pgLiv 0x1004 0 false 5) bulk = 1 ∧ why (sys.setFlag pgLiv 0x1100 0 false 5) bulk = 2 ∧
    why (sys.setFlag pgLiv 0x1004 3 false 5) bulk = 3 ∧ why (sys.setReg pgLiv 0x1044 9 0) bulk = 4 ∧
    why (sys.setReg pgLiv 0x1200 0xFFFFFFFD 5) bulk = 5 ∧ why (sys.setReg pgLiv 0x100C 0x00060000 5) (put 1) = 6 ∧
    why (sys.setReg pgLiv 0x1044 0 0) (control 3) = 8 ∧ why (sys.setReg pgLiv 0x1044 0 0) bulk = 0 ∧
    why (sys.setReg pgLiv 0x100C 0x00070007 5) (put 1) = 0 := by decide +kernel
/-- The worked example of 12: cause 5 on logical port 80 is recorded as 0x80000505. -/
theorem test_violation_word : (ready.violation 5 5 (some 80)).reg pgLiv 0x1024 5 = 0x80000505 := by decide +kernel

def egressBusy (c : Chip) : Chip := c.setEgress 4 { c.egress 4 with tx := some (Msg.made 0 [] 0 none) }
def draining (c : Chip) : Chip := c.setDrain (some ⟨0, 1, 0, false, []⟩)
def msgOf (f : Frame) : Msg := Msg.arrived 0 f.hdr f.body 0
/-- A flow entry for `bulk` with flow shaper 3 (R318): SHAPER_EN is bit 70. -/
def shapedFlow (c : Chip) : Chip :=
  c.setFlow (flowBucket (msgOf bulk).flowKey) 0 (BitVec.ofNat 256 ((msgOf bulk).flowKey + 2 ^ 64 + 2 ^ 70 + 3 * 2 ^ 71))

theorem witness_ForwardedFramesMeetTheirRoute :
    let k (f : Frame) (c : Chip) : Chip := (came 0 f c).heard 0 f
    let stageless := frm 1 4 5 false 0x40 (memHdr 1 0 0)
    let toSelf (c : Chip) : Chip := { c with rte := { c.rte with routes := [(0x40, 0x10000011F)] } }
    (hearsB (came 0 stageless sys) 0 stageless = true ∧ passesB (came 0 stageless sys) 0 stageless = true ∧
      hSub stageless.hdr = 4 ∧ mStage (memHdrOf stageless.body) = 0) ∧
    (hMc (frm 2 0 5 true 7 (zeros 64)).hdr = true ∧ hMc bulk.hdr = false) ∧
    ((draining sys).inDrain 0x40 = true ∧ sys.inDrain 0x40 = false ∧ hClass readReq.hdr = 1 ∧ hClass result.hdr = 0) ∧
    (sys.lookup 0x40 2 = .port 4 ∧ (toSelf sys).lookup 0x40 2 = .self ∧
      { sys with rte := ready.rte }.lookup 0x40 2 = .miss ∧ (sys.setFlag (pgLnk 0) 0x1008 0 false 4).lookup 0x40 2 = .down ∧
      (sys.setFlag (pgLnk 0) 0x1008 0 false 4).lookup 0x40 1 = .lost 4) ∧
    (hHops (frm 2 0 5 false 0x40 (zeros 64) 0).hdr = 0 ∧ hHops bulk.hdr = 3) ∧
    (∀ n < 16, sys.flag pgRte 0x1708 0 n = false) ∧ (4 ∉ (sys.lostOf 5).ports) ∧
    (sys.livPort 5 4 = true ∧ (sys.setFlag pgLiv 0x1100 4 false 5).livPort 5 4 = false) ∧
    (((k bulk sys).atDispatch (msgOf bulk) .good).1 = ⟨msgOf bulk, none, none⟩ ∧
      (((k bulk (shapedFlow sys)).atDispatch (msgOf bulk) .good).1).shaper = some 3 ∧
      (shapedFlow sys).shaperOpen 0 (flowShaper 3) = true ∧
      ((shapedFlow sys).setShaper 0 (flowShaper 3) ⟨-1, 8, 64, none, 0⟩).shaperOpen 0 (flowShaper 3) = false ∧
      (shapedFlow sys).traf.flowHeld = [] ∧
      (k bulk sys).mayCut 4 (msgOf bulk).hop = true ∧ (k bulk (egressBusy sys)).mayCut 4 (msgOf bulk).hop = false) := by
  decide +kernel
/-- R261 and R274: a Bulk frame leaves cut-through with HOPS one lower; with HOPS 0 it is discarded and counted. -/
theorem test_bulk_is_forwarded : let c := go sys (.bulkFrame 0 bulk 0)
    (Tbl.get [] (c.egress 4).sub 0).map (fun m => hHops m.hdr) = [2] ∧
    (go sys (.bulkFrame 0 (frm 2 0 5 false 0x40 (zeros 64) 0) 0)).reg (pgLnk 0) 0x1128 = 1 := by decide +kernel
/-- R324: a frame of a shaped flow waits while its shaper lacks tokens. -/
theorem test_flow_shaper_holds : let c := (shapedFlow sys).setShaper 0 (flowShaper 3) ⟨-1, 8, 64, none, 0⟩
    ((go c (.bulkFrame 0 bulk 0)).traf.flowHeld.map (fun x => (x.pdie, x.dest, x.lport))) = [(0, 3, 4)] ∧
    (go c (.bulkFrame 0 bulk 0)).reg (pgTmg 0) 0x1208 = 1 ∧ ((go (shapedFlow sys) (.bulkFrame 0 bulk 0)).traf.flowHeld) = [] := by
  decide +kernel
theorem test_control_and_result_are_forwarded : ((go sys (.controlFrameForward 0 (control 3) 0)).egress 4).ctl.length = 1 ∧
    ((go (came 0 result sys) (.resultFrame 0 result 0)).egress 4).col.length = 1 ∧
    (go { sys with rte := ready.rte } (.controlFrameForward 0 (control 3) 0)).reg pgRte 0x1800 = 1 ∧
    (go (came 0 result { sys with rte := ready.rte }) (.resultFrame 0 result 0)).reg pgRte 0x1800 = 1 ∧
    (go (came 0 readReq sys) (.memoryFrame 0 readReq 0)).egress 4 ≠ Egress.empty := by decide +kernel

/-- Group 7 is valid with 2 members and no copy of its own, and livery 5 may hold put counters on P0. -/
def puts : Chip :=
  let c := quota 0 4 5 100 sys
  { c with rte := { c.rte with groups := [(7, BitVec.ofNat 1152 (2 ^ 1056 + 2 * 2 ^ 1088))] } }
def openPut : PutCtr := { PutCtr.closed with busy := true, livery := 5, tag := 1, stage := 1, branches := 2, expected := 2 }
def putOpen (x : PutCtr) (c : Chip) : Chip := c.setPutCtr 9 x

theorem witness_MemoryPutsAreCountedHome :
    (hearsB (came 0 (put 1) puts) 0 (put 1) = true ∧ passesB (came 0 (put 1) puts) 0 (put 1) = true ∧
      mStage (memHdrOf (put 0).body) = 0 ∧ mStage (memHdrOf (put 1).body) = 1 ∧ hHops (put 1 0).hdr = 0 ∧
      hHops (put 1 1).hdr = 1) ∧
    (gpValid (puts.group 7) = true ∧ gpValid (sys.group 7) = false) ∧
    ((putOpen openPut puts).putKeyOpen 0 5 0 1 = true ∧ puts.putKeyOpen 0 5 0 1 = false) ∧
    ((puts.allocUnits 0 4 5 1).1.isSome = true ∧
      ((quota 0 4 5 0 puts).allocUnits 0 4 5 1).1 = none) ∧
    (let f := putCpl 5 2 0
     let x := (putOpen openPut puts).putCtr 9
     hearsB (came 0 f (putOpen openPut puts)) 0 f = true ∧ passesB (came 0 f (putOpen openPut puts)) 0 f = true ∧
       mCtr (memHdrOf f.body) = 9 ∧ fld (bvBE 128 (slice f.body 32 16)) 112 16 = x.tag ∧
       fld (bvBE 128 (slice f.body 32 16)) 94 18 = x.srcEid ∧ fld (bvBE 128 (slice f.body 32 16)) 86 8 = x.livery ∧
       fld (bvBE 128 (slice f.body 32 16)) 50 18 = 2 ∧ fld (bvBE 128 (slice f.body 32 16)) 32 18 = 0) ∧
    (openPut.answered + 1 < openPut.branches ∧ openPut.branches ≤ { openPut with answered := 1 }.answered + 1) ∧
    (let due := openPut.opened + min 1000 (max 1 (puts.field pgLiv 0x1004 16 10 5)) * 256000 / 2 ^ (openPut.stage - 1)
     due = 256000 ∧ openPut.answered < openPut.branches) := by decide +kernel
/-- R150: the last branch closes the counter; a total that is short counts as partial; R150's timeout is 1 µs at least. -/
theorem test_put_closes :
    let c := putOpen { openPut with answered := 1 } puts
    (go (came 0 (putCpl 5 2 0) c) (.putCompletion 0 (putCpl 5 2 0) 0)).puts = [] ∧
    (go (came 0 (putCpl 5 2 0) c) (.putCompletion 0 (putCpl 5 2 0) 0)).reg (pgPrt 0) 0x1808 = 0 ∧
    (go (came 0 (putCpl 5 1 0) c) (.putCompletion 0 (putCpl 5 1 0) 0)).reg (pgPrt 0) 0x1808 = 1 := by decide +kernel
theorem test_put_times_out : (go (atTime 256000 (putOpen openPut puts)) (.putCounterTimeout 0 9)).puts = [] ∧
    (go (atTime 255999 (putOpen openPut puts)) (.putCounterTimeout 0 9)).puts.length = 1 := by decide +kernel

/-- Port 8 is an Ethernet port, its PCS aligned, in VLAN 1 of livery 5 with group 7. -/
def eth : Chip :=
  let c := (grant 5 8 (port 8 sys)).setFlag (pgLnk 0) 0x1004 0 false 8
  ((c.setLink 8 { c.link 8 with aligned := true }).setReg pgRte 0x150C (0x80000000 + 5 + 7 * 256 : W32) 1).setField
    pgRte 0x1504 0 12 1 8
/-- An Ethernet frame of 64 bytes to a MAC address, with an EtherType and the two bytes after it. -/
def ether (dst type op : Nat) : List Byte :=
  let b := bytesBE 6 dst ++ zeros 6 ++ bytesBE 2 type ++ bytesBE 2 op ++ zeros 44
  b ++ bytesLE 4 (crc32 b).toNat
def goodEther (bs : List Byte) : Bool := decide (64 ≤ bs.length ∧ bs.length ≤ 9216) &&
  decide (crc32 (bs.take (bs.length - 4)) = BitVec.ofNat 32 (natOfLE (bs.drop (bs.length - 4))))
/-- MAC address 2 in VLAN 1 leads to EID 0x40. -/
def knows (c : Chip) : Chip :=
  c.setAddr (adBucket (1 + 4 + 2 * 2 ^ 32)) 0 (BitVec.ofNat 256 (1 + 4 + 2 * 2 ^ 32 + 0x40 * 2 ^ 160))

theorem witness_EthernetFramesAreBridged :
    (eth.ethRx 8 = true ∧ sys.ethRx 8 = false ∧ (zeros 63).length < 64 ∧ (9216 : Nat) < (zeros 9217).length) ∧
    (goodEther (ether 2 0x8808 1) = true ∧ etherType (ether 2 0x8808 1) = 0x8808 ∧
      natOfBE (slice (ether 2 0x8808 1) 14 2) = 1 ∧ goodEther (ether 2 0x88F7 0) = true ∧ isPtp (ether 2 0x88F7 0) = true) ∧
    (goodEther (ether 2 0x1234 0) = true ∧ isPtp (ether 2 0x1234 0) = false ∧ eth.ethTci 8 (ether 2 0x1234 0) = 1) ∧
    ((eth.reg pgRte 0x150C 1).getLsbD 31 = true ∧ (sys.reg pgRte 0x150C 1).getLsbD 31 = false ∧ eth.tornDown 5 = false ∧
      (eth.setFlag pgRte 0x160C 1 true 5).tornDown 5 = true ∧ (eth.setFlag pgLiv 0x1004 0 false 5).livValid 5 = false) ∧
    (eth.livPort 5 8 = true ∧ (eth.setFlag pgLiv 0x1100 8 false 5).livPort 5 8 = false ∧ eth.livPermit 5 2 = true ∧
      (eth.setFlag pgLiv 0x1004 3 false 5).livPermit 5 2 = false) ∧
    (dstMac (ether 2 0x1234 0) ≠ eth.routerMac ∧ dstMac (ether (2 ^ 40) 0x1234 0) / 2 ^ 40 % 2 = 1 ∧
      ((knows eth).addrFind (1 + 1 * 4 + 2 * 2 ^ 32)).isSome = true ∧ eth.addrFind (1 + 1 * 4 + 2 * 2 ^ 32) = none ∧
      (eth.setFlag pgRte 0x150C 22 true 1).flag pgRte 0x150C 22 1 = true ∧ eth.livGroup 5 1 = true ∧
      (eth.setReg pgLiv 0x1200 1 5).livGroup 5 1 = false ∧ eth.livMc 5 7 = true ∧
      (eth.setReg pgLiv 0x100C 0x00060000 5).livMc 5 7 = false) := by decide +kernel
/-- R277: a tailboard FCS is counted apart from a bad one. -/
theorem test_ethernet_tailboards : let b := ether 2 0x8808 1
    let fcs (x : W32) : List Byte := b.take 60 ++ bytesLE 4 (crc32 (b.take 60) ^^^ x).toNat
    ethTail (fcs 0x7A1B0004) 0 = .tailboard 4 ∧ ethTail (fcs 1) 0 = .bad 2 ∧ ethTail b 1 = .bad 1 ∧
    (go eth (.ethernetFrame 8 (fcs 0x7A1B0004) 0 true .clean 0)).reg (pgLnk 0) 0x1110 = 1 ∧
    (go eth (.ethernetFrame 8 (fcs 1) 0 true .clean 0)).reg (pgLnk 0) 0x1108 = 1 := by decide +kernel
/-- R304: a known address goes to its EID's port; an unknown one is flooded, or missed with the drop bit. -/
theorem test_ethernet_unicast : let c := go (knows eth) (.ethernetFrame 8 (ether 2 0x1234 0) 0 true .clean 0)
    (Tbl.get [] (c.egress 4).sub 0).map (fun m => (hDst m.hdr, hLen m.hdr)) = [(0x40, 100)] ∧
    (go (eth.setFlag pgRte 0x150C 22 true 1) (.ethernetFrame 8 (ether 2 0x1234 0) 0 true .clean 0)).reg pgRte 0x1800 = 1 := by
  decide +kernel

def inCell (refs gen : Nat) (q : Bool) : Chip := sys.setCell 1 77 ⟨refs, gen, q, 5⟩
def flowHeld (c : Chip) : Chip := { c with traf := { c.traf with flowHeld := [⟨0, 3, 4, msgOf bulk, none⟩] } }

theorem witness_CellsAndHeldFramesAreReleased :
    (sys.mainUp = true ∧ sys.dieFailed 29 = false) ∧
    (((inCell 1 4 false).cell 1 77).gen = 4 ∧ ((inCell 1 4 false).cell 1 77).quarantined = false ∧
      ((inCell 1 4 false).cell 1 77).refs = 1) ∧ ((inCell 2 4 false).cell 1 77).refs = 2 ∧
    ((inCell 0 4 false).cell 1 77).refs = 0 ∧ ((inCell 0 4 true).cell 1 77).quarantined = true ∧
    ((flowHeld sys).traf.flowHeld.length = 1 ∧ sys.shaperOpen 0 (flowShaper 3) = true ∧
      (sys.setShaper 0 (flowShaper 3) ⟨-1, 8, 64, none, 0⟩).shaperOpen 0 (flowShaper 3) = false ∧
      (flowHeld sys).portUp 4 = true ∧ (flowHeld (sys.setFlag (pgLnk 0) 0x1008 0 false 4)).portUp 4 = false ∧
      hClass bulk.hdr ≠ 1 ∧ hClass readReq.hdr = 1) := by decide +kernel
/-- R212: a decrement under a stale generation counts and changes no count; one of a free cell quarantines it. -/
theorem test_refcounts : (go (inCell 2 4 false) (.cellRefcountDecrement 1 77 4)).cell 1 77 = ⟨1, 4, false, 5⟩ ∧
    (go (inCell 2 4 false) (.cellRefcountDecrement 1 77 3)).cell 1 77 = ⟨2, 4, false, 5⟩ ∧
    ((go (inCell 0 4 false) (.cellRefcountDecrement 1 77 4)).cell 1 77).quarantined = true := by decide +kernel

/-- A RESULT frame with an LSEQ, and the same with a bad or a tailboard trailer. -/
def seqFrame (lseq : Nat) (xor : W32) : Frame :=
  let h := putFld result.hdr 225 12 lseq
  { mkFrame h result.body with trailer := crc32 (frameBytes h result.body) ^^^ xor }
def recovering (c : Chip) : Chip := c.setFlag (pgLnk 0) 0x1008 1 true 0
def distance (c : Chip) (p : Nat) (f : Frame) : Int :=
  signed 12 (hLseq f.hdr + 4096 - ((c.link p).ackSeq + 1) % 4096)

theorem witness_TailsDecideTheSequence :
    (sys.rxOn 0 = true ∧ sys.narjo 0 = true ∧ sys.linkUp 0 = true ∧ ready.rxOn 0 = false ∧
      hdrSequenced result.hdr = true ∧ hdrSequenced bulk.hdr = false) ∧
    (tailOf (seqFrame 0 0) = .good ∧ distance sys 0 (seqFrame 0 0) = 0 ∧ hdrOk (seqFrame 0 0).hdr = true ∧
      distance sys 0 (seqFrame 0xFFF 0) = -1 ∧ distance sys 0 (seqFrame 1 0) = 1 ∧ distance sys 0 (seqFrame 0x800 0) = -2048 ∧
      distance sys 0 (seqFrame 0x7FF 0) = 2047) ∧
    (tailOf (seqFrame 0 0x7A1B0004) = .tailboard 4 ∧ tailOf (seqFrame 0 1) = .bad 2 ∧
      tailOf { seqFrame 0 0 with fecUncorr := 2 } = .bad 1) ∧
    ((recovering sys).recovery 0 = true ∧ sys.recovery 0 = false) ∧
    (let f := mkFrame (putFld result.hdr 0 16 1) result.body
     tailOf f = .good ∧ hdrOk f.hdr = false ∧ distance sys 0 f = 0) := by decide +kernel
/-- R270: the expected frame advances the link; a bad one starts recovery with a NAK; a duplicate only counts. -/
theorem test_tails : ((go sys (.frameTailCheck 0 (seqFrame 0 0))).link 0).ackSeq = 0 ∧
    (go sys (.frameTailCheck 0 (seqFrame 0 1))).recovery 0 = true ∧
    ((go sys (.frameTailCheck 0 (seqFrame 0 1))).egress 0).ctl.length = 1 ∧
    (go sys (.frameTailCheck 0 (seqFrame 0xFFF 0))).reg (pgLnk 0) 0x1124 = 1 := by decide +kernel

/-! Links, low-power idle and egress ports -/

def lnk (p : Nat) (f : Link → Link) (c : Chip) : Chip := c.setLink p (f (c.link p))
/-- Port 0 with its PCS aligned, its link down or up. -/
def lining : Chip := lnk 0 (fun l => { l with aligned := true, initSent := true }) (sys.setFlag (pgLnk 0) 0x1008 0 false 0)
def linked : Chip := lnk 0 (fun l => { l with aligned := true }) sys
/-- A link control frame (R266): CTYPE, ACK_SEQ and the credits freed on every virtual lane. -/
def lcFrame (k ack freed : Nat) : Frame := frm 3 6 0 false 0 (bytesBE 28 (linkBody k ack (fun _ => freed)).toNat) 0
/-- PCS lane 1 is received at place 0, five bits after lane 0. -/
def marks : List PcsMark := [⟨1, 5⟩, ⟨0, 0⟩]
def keep (n resent : Nat) : Kept := ⟨n, msgOf result, resent⟩
def keeps (n resent : Nat) (c : Chip) : Chip := lnk 0 (fun l => { l with replay := [keep n resent] }) c

theorem witness_LinksComeUpAndExchangeCredits :
    (∀ k < 3, isLinkControl (lcFrame k 7 9).hdr = true ∧ tailOf (lcFrame k 7 9) = .good ∧ hdrOk (lcFrame k 7 9).hdr = true ∧
      lcType (lcBody (lcFrame k 7 9)) = k) ∧
    (deskew marks = some [⟨1, 5⟩, ⟨0, 0⟩] ∧ deskew [⟨1, 0⟩, ⟨1, 5⟩] = none ∧ deskew [] = none) ∧
    (sys.rxOn 0 = true ∧ sys.narjo 0 = true ∧ ready.rxOn 0 = false ∧ (sys.link 0).aligned = false ∧
      (sys.link 0).initRcvd = false ∧ (lining.link 0).aligned = true ∧ (linked.link 0).aligned = true ∧
      lining.rxOn 0 = true ∧ lining.narjo 0 = true ∧ (lining.link 0).initRcvd = false ∧
      (lnk 0 (fun l => { l with initRcvd := true }) lining).link 0 ≠ lining.link 0) ∧
    (linked.lnkFlag 0 0 = true ∧ lining.lnkFlag 0 0 = false ∧ (lining.link 0).initSent = true ∧
      ((lnk 0 (fun l => { l with initSent := false }) lining).link 0).initSent = false) ∧
    (linked.rxOn 0 = true ∧ linked.linkUp 0 = true ∧ lining.linkUp 0 = false) ∧
    (let most := max 1 (linked.field (pgLnk 0) 0x1004 12 4 0)
     (∀ k ∈ ((keeps 5 (most - 1) linked).link 0).replay, k.resent < most) ∧
     (∃ k ∈ ((keeps 5 most linked).link 0).replay, most ≤ k.resent) ∧
     0 < signed 12 ((keep 5 0).seq + 4096 - lcAck (lcBody (lcFrame 2 4 9))) ∧
     ¬ 0 < signed 12 ((keep 5 0).seq + 4096 - lcAck (lcBody (lcFrame 2 5 9)))) ∧
    ((lnk 0 (fun l => { l with ackSeq := 3 }) linked).link 0).ackSent ≠ ((lnk 0 (fun l => { l with ackSeq := 3 }) linked).link 0).ackSeq ∧
    ((linked.link 0).ackSent = (linked.link 0).ackSeq ∧ (linked.link 0).freedSent = (linked.link 0).freedRx) ∧
    (linked.lpiStat 0 4 = false ∧ (linked.setLpiStat 0 4 true).lpiStat 0 4 = true) := by decide +kernel
/-- R268 and R269: the second INIT brings the link up with the partner's credits; R272: an ACK frees the frames up to it. -/
theorem test_link_comes_up : let c := go lining (.linkInitRx 0 (lcFrame 0 0xFFF 132))
    c.linkUp 0 = true ∧ Tbl.get 0 (c.link 0).adv 5 = 132 ∧ (c.link 0).txSeq = 0 := by decide +kernel
theorem test_acks_free_frames : ((go (keeps 5 0 linked) (.linkUpdateRx 0 (lcFrame 1 5 9))).link 0).replay = [] ∧
    (let t := go (keeps 5 0 linked) (.linkNakRx 0 (lcFrame 2 4 9))
     (t.link 0).replay.length = 1 ∧ (t.egress 0).again = [msgOf result]) := by decide +kernel

/-- The Ethernet port 8 before and after auto-negotiation. -/
def ethLine (aligned agreed : Bool) : Chip := lnk 8 (fun l => { l with aligned, negotiated := agreed }) eth

theorem witness_LinksGoDown :
    (linked.rxOn 0 = true ∧ linked.narjo 0 = true ∧ (linked.link 0).aligned = true ∧ (sys.link 0).aligned = false ∧
      linked.linkUp 0 = true ∧ linked.lpiStat 0 4 = false ∧ ready.rxOn 0 = false ∧ lining.linkUp 0 = false) ∧
    ((ethLine true true).rxOn 8 = true ∧ (ethLine true true).narjo 8 = false ∧ ((ethLine true true).link 8).aligned = true ∧
      (ethLine false true).rxOn 8 = true ∧ ((ethLine false true).link 8).aligned = false ∧
      ((ethLine false true).link 8).negotiated = true ∧ ((ethLine false false).link 8).negotiated = false) := by decide +kernel
theorem test_link_goes_down : (go linked (.pcsAlignLoss 0)).linkUp 0 = false ∧
    (go linked (.pcsAlignLoss 0)).reg (pgLnk 0) 0x1134 = 1 ∧ (go (ethLine false true) (.pcsAligned 8 marks)).portUp 8 = true := by
  decide +kernel

theorem witness_LinkRegistersAndMacFrames :
    (ready.serves (pgLnk 0) = true ∧ (0x11 : W32).getLsbD 0 ≠ (0x10 : W32).getLsbD 0 ∧
      (sys.reg (pgLnk 0) 0x1004 0).getLsbD 0 = true ∧ (ready.reg (pgLnk 0) 0x1004 0).getLsbD 0 = false ∧
      sys.enabled 0 = true ∧ ready.enabled 0 = false) ∧
    (ready.inUse 0 = true ∧ ready.inUse 1 = false ∧ ready.split 0 ≠ 3 ∧
      ((ready.logicalPorts 0).flatMap (fun k => (List.range 6).map (fun j =>
        if k = 0 ∧ j = 0 then 132 else ready.vlBuf k j))).sum ≤ 4096 ∧
      4096 < ((ready.logicalPorts 0).flatMap (fun k => (List.range 6).map (fun j =>
        if k = 0 ∧ j = 0 then 4096 else ready.vlBuf k j))).sum) ∧
    (eth.ethRx 8 = true ∧ sys.ethRx 8 = false ∧ sys.rxOn 0 = true ∧ ready.rxOn 0 = false) ∧
    (let f := frm 3 5 0 false 0x40 (zeros 64) 0
     hearsB sys 0 f = true ∧ hClass f.hdr = 3 ∧ hSub f.hdr = 5) := by decide +kernel
/-- R268: VL0 takes at least 132 units; R256: a PFC frame pauses the priorities it names. -/
theorem test_link_registers : (go ready (.lnkVlBufWrite 0 0 132)).vlBuf 0 0 = 132 ∧
    (go ready (.lnkVlBufWrite 0 0 131)).reg (pgLnk 0) 0x1138 = 1 ∧
    ((go (lnk 8 (fun l => { l with pfcUntil := [(0, 9)] }) eth) (.pfcFrameRx 8 0x11 0x20000)).link 8).pfcUntil = [] := by
  decide +kernel

/-- Port 0 may sleep, in a state of R249. -/
def dozing (x : LpiState) : Chip :=
  lnk 0 (fun l => { l with lpi := x }) ((linked.setFlag (pgPrt 0) 0x1100 0 true).setFlag (pgLnk 0) 0x1008 2 true 0)

theorem witness_IdlePortsSleepAndWake :
    ((dozing .awake).rxOn 0 = true ∧ (dozing .awake).portUp 0 = true ∧ (dozing .awake).lpiEn 0 = true ∧
      (dozing .awake).lpiPartner 0 = true ∧ ((dozing .awake).egress 0).queued = [] ∧ ((dozing .awake).egress 0).tx = none ∧
      ((dozing .awake).egress 0).again = [] ∧
      (let rest := ((dozing .awake).egress 0).idleSince + max 1 ((dozing .awake).field (pgPrt 0) 0x1100 8 8) * 256000
       0 < rest ∧ rest ≤ (atTime rest (dozing .awake)).time.now ∧ ¬ rest ≤ (atTime (rest - 1) (dozing .awake)).time.now) ∧
      linked.lpiEn 0 = false ∧ lining.rxOn 0 = true ∧ lining.portUp 0 = false) ∧
    ([LpiState.awake, .requested, .asleep, .waking].all (fun x => decide (((dozing x).link 0).lpi = x))) = true ∧
    (linked.lpiStat 0 4 = false ∧ (linked.setLpiStat 0 4 true).lpiStat 0 4 = true ∧
      (linked.setLpiStat 0 4 true).rxOn 0 = true) := by decide +kernel
theorem test_ports_sleep_and_wake : (go (dozing .requested) (.lpiAckRx 0 false)).reg (pgPrt 0) 0x1200 = 1 ∧
    ((go (dozing .asleep) (.lpiWakeRequest 0)).link 0).lpi = .waking ∧
    (go (dozing .waking) (.lpiExitComplete 0)).reg (pgPrt 0) 0x1208 = 1 ∧
    (go (dozing .requested) (.lpiNoackTimeout 0)).reg (pgPrt 0) 0x120C = 1 := by decide +kernel

def waits (p : Nat) (ctl col : List Msg) (bulks : Nat → List Msg) (c : Chip) : Chip :=
  c.setEgress p { Egress.empty with ctl := ctl, col := col, sub := Tbl.set [] (Tbl.set [] [] 0 (bulks 0)) 12 (bulks 4) }
def creditsOn (p n : Nat) (c : Chip) : Chip := lnk p (fun l => { l with adv := [(0, n), (1, n), (2, n), (3, n), (4, n), (5, n)] }) c
def wav : Msg := msgOf (waveFrame 5 3 0)
/-- Two inputs ask for port 4's position at level 0, one of them with a wave behind an older frame, and one at level 2,
where a frame has started. The crossbar's meter is at that RATE. -/
def crossing (rate : Nat) : Chip :=
  let item (num : Nat) (started wave : Bool) : XItem := ⟨num, 2, started, 0, 4, 0, 0, wave, 5, none⟩
  let c := sys.setField pgPwr 0x1044 0 16 rate 16
  { c with traf := { c.traf with voq := [(3, [item 1 false false, item 2 false true]), (864 + 3, [item 4 false false]),
      (5, [item 5 false false, item 6 true false])] } }
def upd : Msg := Msg.made (mkHdr 3 6 0 false 0 0 64 0 0) (zeros 28) 0 none
def none2 : Nat → List Msg := fun _ => []
/-- TC 4 is strict, and TC 0 is weighted. -/
def strict4 (c : Chip) : Chip := c.setFlag (pgTmg 0) 0x1008 0 true (queueInst 0 4)

theorem witness_EgressPortsServeTheirQueues :
    let c := creditsOn 0 20 sys
    (c.inUse 0 = true ∧ (c.egress 0).tx = none ∧ c.sending = true ∧ c.portWorks 0 = true ∧ (c.link 0).lpi = .awake ∧
      (dozing .asleep).inUse 0 = true ∧ ((dozing .asleep).link 0).lpi = .asleep ∧ (egressBusy c).egress 4 ≠ c.egress 4) ∧
    (hSub upd.hdr ≠ 0 ∧ hSub wav.hdr = 0 ∧ (waits 0 [upd, wav] [] none2 c).linkReady 0 wav = true ∧
      (waits 0 [upd] [] none2 c).linkReady 0 upd = true) ∧
    ((waits 0 [wav] [msgOf result] none2 sys).linkReady 0 wav = false ∧
      (waits 0 [] [msgOf result] none2 c).linkReady 0 (msgOf result) = true ∧ c.narjo 0 = true ∧
      hClass (msgOf result).hdr = 0 ∧ hSub (msgOf result).hdr < 4 ∧ (msgOf result).tail = 0 ∧ (msgOf result).cells = [] ∧
      c.suppressed (msgOf result) = false ∧ ∀ n < 16, c.flag pgRte 0x1708 0 n = false) ∧
    ((waits 0 [] [msgOf result] none2 sys).linkReady 0 (msgOf result) = false ∧ c.gateEn 0 = false) ∧
    (let q := (strict4 (waits 0 [] [] (fun _ => [msgOf bulk]) c)).rotForget 0
     let u := (waits 0 [] [] (fun _ => [msgOf bulk]) c).rotForget 0
     let head (x : Chip) (tc : Nat) : Option (Nat × Nat) := (x.egress 0).rot.head (x.headLen 0) tc
     q.tcStrict 0 4 = true ∧ head q 4 = some (0, 100) ∧ (∀ j < 16, 4 < j → q.tcStrict 0 j = true → head q j = none) ∧
       head u 0 = some (0, 100) ∧ (∀ tc < 16, u.tcStrict 0 tc = false) ∧
       ∀ tc < 16, ∀ k < 3, (c.rotForget 0).headLen 0 tc k = none) ∧
    (let resends (x : Chip) : Chip := x.setEgress 0 { x.egress 0 with again := [msgOf result] }
     (resends c).resendReady 0 (msgOf result) = true ∧ (resends sys).resendReady 0 (msgOf result) = false) ∧
    (wav.num = 0 ∧ c.crossing 0 = false ∧ (crossing 1).crossing 1 = true ∧ (crossing 1).crossing 3 = false) := by
  decide +kernel
/-- R271: a kept frame goes again under its own LSEQ, and takes credits again. -/
theorem test_resend : let c := creditsOn 0 20 sys
    let t := go (c.setEgress 0 { c.egress 0 with again := [msgOf (seqFrame 7 0)] }) (.egressPortFree 0 .clean)
    (t.egress 0).tx.map (fun m => hLseq m.hdr) = some 7 ∧ (t.link 0).txSeq = 0 ∧ Tbl.get 0 (t.link 0).spent 1 = 2 ∧
    t.reg (pgLnk 0) 0x1118 = 1 := by decide +kernel
/-- R320: a wave goes before an older update; R270: a sequenced frame takes an LSEQ and is kept. -/
theorem test_egress_order : let c := creditsOn 0 20 sys
    ((go (waits 0 [upd, wav] [] none2 c) (.egressPortFree 0 .clean)).egress 0).ctl = [upd] ∧
    ((go (waits 0 [] [msgOf result] none2 c) (.egressPortFree 0 .clean)).link 0).replay.map (·.seq) = [0] ∧
    (let t := go (strict4 (waits 0 [] [] (fun _ => [msgOf bulk]) c)) (.egressPortFree 0 .clean)
     Tbl.get [] (t.egress 0).sub 12 = [] ∧ Tbl.get [] (t.egress 0).sub 0 ≠ []) := by decide +kernel

/-! SerDes lanes and port configuration -/

def synthAt (pp : Nat) (x : SynthSt) (c : Chip) : Chip := c.setSynth pp x
def laneIs (i : Nat) (b : Bool) (c : Chip) : Chip := c.setLaneFlag 0 i b
def trains (v : Nat) (c : Chip) : Chip := c.setLaneTrain 0 v
/-- Physical ports 0 and 1 joined. -/
def joined0 (c : Chip) : Chip := c.setField (pgPrt 0) 0x1000 0 2 3

theorem witness_LanesLockTrainAndSettle :
    (ready.synthUp 0 = true ∧ ready.synth 0 ≠ .settling ∧ (synthAt 0 .settling ready).synth 0 = .settling ∧
      (synthAt 0 .calibrating ready).synth 0 = .calibrating) ∧
    ((joined0 ready).split 0 = 3 ∧ (synthAt 1 .ready (joined0 ready)).synth 1 = .ready ∧
      (joined0 ready).synth 1 ≠ .ready) ∧
    (sys.laneWanted 0 = true ∧ ready.laneWanted 0 = false ∧ (laneIs 1 true sys).laneFlag 0 1 = true ∧
      sys.trainEn 0 = true ∧ (sys.setFlag (pgPrt 0) 0x1000 9 false).trainEn 0 = false ∧ sys.laneEnabled 0 = true) ∧
    (ready.pdieUp 0 = true ∧ (laneIs 6 true ready).laneFlag 0 6 = true ∧ (laneIs 6 false ready).laneFlag 0 6 = false ∧
      (trains 1 ready).laneTrain 0 = 1 ∧ (trains 3 sys).laneTrain 0 = 3 ∧ (trains 3 sys).laneEnabled 0 = true ∧
      (trains 3 ready).laneEnabled 0 = false) ∧
    ((ready.setSds 0 0x100C 0x80000000).sds 0 0x100C).getLsbD 31 = true ∧
    (ready.serves (pgSds 0) = true ∧ ready.field (pgSds 0) 0x1000 0 7 = 0) := by decide +kernel
/-- R237 and R241: training that ends well takes the agreed taps and opens a settle window. -/
theorem test_training_ends : let c := go (laneIs 6 true (trains 1 ready)) (.trainingDone 0 true 0x12345 false false)
    c.laneTrain 0 = 2 ∧ c.sds 0 0x100C = 0x12345 ∧ c.laneFlag 0 7 = true ∧
    (go (trains 1 ready) (.trainingDone 0 false 0 false false)).laneTrain 0 = 3 ∧
    (go (trains 3 sys) (.trainingRetry 0)).laneTrain 0 = 1 := by decide +kernel
theorem test_synthesisers : (go (synthAt 0 .settling ready) (.synthLock 0)).laneFlag 3 2 = true ∧
    (go (synthAt 0 .calibrating (laneIs 1 true sys)) (.synthCalDone 0)).laneFlag 0 1 = false := by decide +kernel

/-- Lane 0 checks a pattern. -/
def checks (c : Chip) : Chip := c.setSds 0 0x1014 0x200
/-- Lane 0, out of electrical idle, with that SDS_PAT_CTRL. -/
def injects (v : W32) : Chip := laneIs 1 false (ready.setSds 0 0x1014 v)
/-- `n` Gray-coded symbols of a pattern from a state of its generator, each pair under a mask. -/
def symbols (code : Nat) (mask : BitVec 2) : Nat → Nat → List (BitVec 2)
  | 0, _ => []
  | n + 1, x => BitVec.ofNat 2 (pamOf true ((patternPair code x).1 ^^^ mask)) :: symbols code mask n (patternPair code x).2

theorem witness_PatternsEyesAndPortsAreConfigured :
    ((checks ready).pdieUp 0 = true ∧ (checks ready).chkActive 0 = true ∧ ready.chkActive 0 = false ∧
      (checks sys).chkActive 0 = false ∧ (checks ready).laneFlag 0 7 = false ∧
      (laneIs 7 true (checks ready)).laneFlag 0 7 = true ∧ (laneIs 10 true (checks ready)).laneFlag 0 10 = true ∧
      (checks ready).laneFlag 0 10 = false) ∧
    (ready.rxCode 0 = ⟨true, false, false⟩ ∧ (let r : ChkRun := ⟨ChkSt.reset, false, 0, 0, 0, 0, 0⟩
      let t := (symbols 0 0 4 1).foldl (ChkRun.step (ready.rxCode 0) 0) r
      t.locked = false ∧ 7 ≤ t.chk.loaded ∧ t.chk.run = 0 ∧
      let ys := (symbols 0 0 68 1).drop 4
      ys.length = 64 ∧ ∀ i < 64, ((ready.rxCode 0).recv (if i = 0 then t.prev else
        ((ready.rxCode 0).recv 0 (ys.getD (i - 1) 0)).2) (ys.getD i 0)).1 =
          (patternPair 0 ((fun x => (patternPair 0 x).2)^[i] t.chk.reg)).1)) ∧
    (let c := (injects 0x80000C00).setSds 0 0x1018 1
     (c.sds 0 0x1014).getLsbD 31 = true ∧ c.laneSends 0 = true ∧ (c.lane 0).injEnd = 0 ∧
       (ready.setSds 0 0x1014 0xC00).laneSends 0 = false ∧ fld (c.sds 0 0x1014) 10 2 = 3 ∧ fld (c.sds 0 0x1014) 14 10 = 0 ∧
       max (c.sds 0 0x1018).toNat 2 - 1 = 1 ∧ ceilDiv (1 * 1024 * 2 ^ c.rate 0) 425 = 3 ∧ c.time.now < 3 ∧
       3 ≤ (atTime 3 c).time.now) ∧
    ((injects 0x80000000).sds 0 0x1014).getLsbD 31 = true ∧
    (∀ m < 4, fld ((injects (BitVec.ofNat 32 (m * 1024))).sds 0 0x1014) 10 2 = m ∧
      ((injects (BitVec.ofNat 32 (m * 1024))).sds 0 0x1014).getLsbD 31 = false) ∧
    (ready.serves (pgSds 0) = true ∧ Chip.reset.serves (pgSds 0) = false) ∧
    (let sum (v : W32) := (signed 5 (fld v 0 5)).natAbs + (signed 5 (fld v 5 5)).natAbs + (signed 5 (fld v 10 5)).natAbs +
        fld v 15 6 + (signed 5 (fld v 21 5)).natAbs
     sum (63 * 2 ^ 15) = 63 ∧ sum (63 * 2 ^ 15 + 1) = 64 ∧ sum 0x80000000 = 0 ∧ sys.trainEn 0 = true ∧
       (sys.setFlag (pgPrt 0) 0x1000 9 false).trainEn 0 = false) ∧
    (ready.serves (pgPrt 0) = true ∧ ((joined0 ready).setFlag (pgPrt 0) 0x1004 8 true).prtCfg 1 ≠ ready.prtCfg 1 ∧
      (ready.prtCfg 1).getLsbD 8 = false ∧ fld (sys.prtCfg 0) 4 4 = 1 ∧ fld (ready.prtCfg 0) 4 4 = 0) := by decide +kernel
/-- R244: 7 bits are loaded from 4 symbols, and 64 symbols predicted after them lock; 64 errors in 256 lose lock, and each
symbol with both its bits wrong counts 2 bit errors (R246). -/
theorem test_checkers : let c := go (checks ready) (.checkerLock 0 (symbols 0 0 68 1))
    let x := (c.lane 0).chk.reg
    (go (checks ready) (.checkerLock 0 (symbols 0 0 67 1))).laneFlag 0 10 = false ∧ c.laneFlag 0 10 = true ∧
    (go c (.checkerLockLoss 0 (symbols 0 3 63 x))).laneFlag 0 10 = true ∧
    (let t := go c (.checkerLockLoss 0 (symbols 0 3 64 x))
     t.laneFlag 0 10 = false ∧ (t.lane 0).chkBits = 128 ∧ t.sds 0 0x1024 = 64 ∧ t.sds 0 0x1020 = 128 ∧ t.sds 0 0x1030 = 1) := by
  decide +kernel
/-- R242: PRBS13 of IEEE 802.3, 1 + x + x^2 + x^12 + x^13, from a register of 13 ones, and its first pairs. -/
theorem test_prbs13 : patternPair 2 0x1FFF = (1, 0x1FFD) ∧ patternPair 2 0x1FFD = (2, 0x1FF6) := by decide +kernel
/-- R245: a burst of FF + 1 symbols, one symbol, and one that waits for the lane to send. -/
theorem test_injections : ((go (injects (2 * 1024 + 15 * 16384)) (.injGo 0)).lane 0).injected = 16 ∧
    ((go (injects 1024) (.injGo 0)).lane 0).injected = 1 ∧
    ((go (ready.setSds 0 0x1014 1024) (.injGo 0)).lane 0).injWaits = true ∧
    (let c := (injects 0x80000C00).setSds 0 0x1018 1
     ((go (atTime 3 c) (.injPeriodBurst 0)).lane 0).injected = 1 ∧ ((go (atTime 2 c) (.injPeriodBurst 0)).lane 0).injected = 0) := by decide +kernel
/-- R236: the Gray map, the precoder and its decoder, and R232's inversion. -/
theorem test_pam4 : [(0 : BitVec 2), 1, 3, 2].map (pamOf true) = [0, 1, 2, 3] ∧ (LaneCode.send ⟨true, true, false⟩ 1 3 0) = (-1, 1) ∧
    (LaneCode.recv ⟨true, true, false⟩ 1 1) = (3, 1) ∧ (LaneCode.send ⟨true, false, true⟩ 0 0 0).1 = 3 := by decide +kernel
/-- R232: RATE 3 is refused; a joined port 0 takes port 1 with it. -/
theorem test_port_configuration : (go ready (.prtCfgWrite 0 0xC)).reg (pgPrt 0) 0x1080 = 0x80000000 ∧
    (go ready (.prtCfgWrite 0 0xC)).reg (pgPrt 0) 0x1214 = 1 ∧
    ((go ready (.prtCfgWrite 0 3)).prtCfg 1).getLsbD 8 = true ∧ (go ready (.prtCfgWrite 0 0x10)).enabled 0 = true := by
  decide +kernel

/-! Shapers, gates, samples, flows, the crossbar and the brake -/

def gated (g : GateSt) (c : Chip) : Chip := c.setGate 0 g

theorem witness_ShapersAndGatesFollowTheTime :
    (ready.mainUp = true ∧ ready.serves (pgTmg 0) = true) ∧
    (let c (applied : Nat) := atTime 65536 (ready.setShaper 0 5 ⟨3, 8, 64, some (16, 32), applied⟩)
     ((c 65535).shaper 0 5).pending = some (16, 32) ∧ ((c 65535).shaper 0 5).applied < 65536 ∧
       65536 ≤ ((c 65536).shaper 0 5).applied ∧ Tbl.get 0 (c 0).traf.refilled 0 ≠ 65536 / 65536 + 1 ∧
       Tbl.get 0 (go (c 0) (.shaperRefill 0)).traf.refilled 0 = 65536 / 65536 + 1) ∧
    (ready.shaper 0 5).pending = none ∧
    (∀ k < 4, (ready.setField (pgTmg 0) 0x1010 0 2 k).field (pgTmg 0) 0x1010 0 2 = k) ∧
    (ready.gateEn 0 = false ∧ (ready.setFlag (pgTmg 0) 0x1004 8 true 0).gateEn 0 = true) ∧
    ((ready.gate 0).pending = false ∧ ((gated ⟨false, true, 100, 0⟩ (atTime 99 ready)).time.now : Int) < 100 ∧
      ((gated ⟨false, true, 100, 0⟩ (atTime 100 ready)).gate 0).pending = true ∧
      ((gated ⟨false, true, 100, 0⟩ (atTime 100 ready)).gate 0).at_ ≤ ((atTime 100 ready).time.now : Int)) := by
  decide +kernel
/-- R322 and R323: a slot refills once, and takes what was applied before it began. -/
theorem test_refill : let c (applied : Nat) := atTime 65536 (ready.setShaper 0 5 ⟨3, 8, 64, some (16, 32), applied⟩)
    (go (c 65535) (.shaperRefill 0)).shaper 0 5 = ⟨19, 16, 32, none, 65535⟩ ∧
    (go (c 65536) (.shaperRefill 0)).shaper 0 5 = ⟨11, 8, 64, some (16, 32), 65536⟩ ∧
    (go (go (c 65535) (.shaperRefill 0)) (.shaperRefill 0)).shaper 0 5 = ⟨19, 16, 32, none, 65535⟩ := by decide +kernel
/-- R325: a switch takes effect at its time and turns the operative list. -/
theorem test_gates_switch : (go (gated ⟨false, true, 100, 0⟩ (atTime 99 ready)) (.gateSwitchEffect 0)).gate 0 = ⟨false, true, 100, 0⟩ ∧
    ((go (gated ⟨false, true, 100, 0⟩ (atTime 100 ready)) (.gateSwitchEffect 0)).gate 0).oper = true ∧
    ((go ((ready.setReg (pgTmg 0) 0x1014 7 0).setReg (pgTmg 0) 0x1018 9 0) (.shaperApply 0)).shaper 0 0).pending = some (7, 9) := by
  decide +kernel

/-- Sampling over 2 slots is enabled on P0. -/
def sampling (c : Chip) : Chip := (c.setFlag (pgTmg 0) 0x1080 0 true).setField (pgTmg 0) 0x1080 4 5 1
/-- A flow entry of livery 5, bit 64 its valid bit, staged for writing. -/
def flowEnt (key : Nat) : Nat := key + 2 ^ 64
def stagedFlow (e : Nat) (c : Chip) : Chip := c.stage (pgTmg 0) 0x1120 8 e
/-- Flow entries in the first ways of key 20's bucket. -/
def flowsIn (ks : List Nat) (c : Chip) : Chip :=
  { c with traf := { c.traf with flows := forAll (List.range ks.length) [] (fun i m =>
      Tbl.set 0 m (flowBucket 20 * 4 + i) (BitVec.ofNat 256 (flowEnt (ks.getD i 0)))) } }
def wmark (armed flag : Bool) (thr : Nat) (c : Chip) : Chip :=
  ((c.setQueueSt 0 0 { c.queueSt 0 0 with armed := armed }).setFlag (pgTmg 0) 0x10C4 0 flag 0).setField (pgTmg 0)
    0x10C0 0 16 thr 0

theorem witness_QueuesAreSampledAndFlowsStored :
    (let c := sampling (atTime (4 * 65536 + 5) ready)
     c.mainUp = true ∧ c.flag (pgTmg 0) 0x1080 0 = true ∧
       c.time.now / 65536 * 65536 % (65536 * 2 ^ min 20 (c.field (pgTmg 0) 0x1080 4 5)) = 0 ∧
       (atTime (5 * 65536) c).time.now / 65536 * 65536 % (65536 * 2 ^ min 20 (c.field (pgTmg 0) 0x1080 4 5)) ≠ 0) ∧
    (let c := atTime (4096 * 65536 + 5) ready
     c.mainUp = true ∧ c.flag (pgTmg 0) 0x1080 0 = false ∧
       c.time.now / 65536 * 65536 % (65536 * 2 ^ min 20 (c.field (pgTmg 0) 0x1080 4 5)) = 0) ∧
    (ready.serves (pgTmg 0) = true ∧ Chip.reset.serves (pgTmg 0) = false) ∧
    (let n := ready.field (pgTmg 0) 0x1000 0 7 * 16 + ready.field (pgTmg 0) 0x1000 8 4
     let high (c : Chip) : Bool := decide (c.field (pgTmg 0) 0x10C0 0 16 n * 64 ≤ c.depth 0 0)
     n = 0 ∧ ((wmark true true 0 ready).queueSt 0 0).armed = true ∧ (wmark true true 0 ready).flag (pgTmg 0) 0x10C4 0 n = true ∧
       (wmark true false 0 ready).flag (pgTmg 0) 0x10C4 0 n = false ∧ ((wmark false true 0 ready).queueSt 0 0).armed = false ∧
       high (wmark false true 0 ready) = true ∧ high (wmark false true 1 ready) = false) ∧
    (let key := ready.staged (pgTmg 0) 0x1120 2 % 2 ^ 50
     (ready.flowWay key = none) ∧
       (stagedFlow 20 (flowsIn [21, 20] ready)).flowWay
         ((stagedFlow 20 (flowsIn [21, 20] ready)).staged (pgTmg 0) 0x1120 2 % 2 ^ 50) = some 1) ∧
    (let e (c : Chip) : BitVec 256 := BitVec.ofNat 256 (c.staged (pgTmg 0) 0x1120 8)
     fld (e (stagedFlow (flowEnt 20) ready)) 50 14 = 0 ∧ fld (e (stagedFlow (flowEnt 20) ready)) 86 42 = 0 ∧
       fld (e (stagedFlow (flowEnt 20) ready)) 208 48 = 0 ∧ fld (e (stagedFlow (2 ^ 255) ready)) 208 48 ≠ 0 ∧
       fld (e (stagedFlow (flowEnt 20) ready)) 0 50 = 20) ∧
    (flowValid ((flowsIn [21, 22] ready).flow (flowBucket 20) 2) = false ∧
      (∀ j < 2, flowValid ((flowsIn [21, 22] ready).flow (flowBucket 20) j) = true) ∧
      (flowsIn [21, 22, 23, 24] ready).flowWay 20 = none ∧
      ∀ j < 4, flowValid ((flowsIn [21, 22, 23, 24] ready).flow (flowBucket 20) j) = true) := by decide +kernel
/-- R318: a write takes the way of its key, else the lowest free way, else the bucket is full. -/
theorem test_flow_ways : flowValid ((go (stagedFlow (flowEnt 20) (flowsIn [21, 22] ready)) (.flowWrite 0)).flow (flowBucket 20) 2) = true ∧
    (go (stagedFlow (flowEnt 20) (flowsIn [21, 22, 23, 24] ready)) (.flowWrite 0)).flag (pgTmg 0) 0x1104 1 = true ∧
    (go ready (.flowRead 0)).flag (pgTmg 0) 0x1104 2 = true := by decide +kernel
theorem test_watermark_flag : (go (wmark false true 1 ready) (.wmFlagClear 0 1 false)).reg (pgTmg 0) 0x10C4 0 = 0 ∧
    (go (wmark true false 0 ready) (.wmFlagClear 0 1 true)).reg (pgTmg 0) 0x10C8 0 = 1 := by decide +kernel

/-- A continuation frame of livery 5 diverted at P0 from coach die 2. -/
def contin : Msg := msgOf (frm 0 1 5 false 0x40 (zeros 64))
def diverted (c : Chip) : Chip := { c with traf := { c.traf with diverted := [⟨0, 2, 0, contin, none⟩] } }

theorem witness_CellsCrossAndBrakesReachThePorts :
    sys.mainUp = true ∧ (crossing 1).xRequests.length = 3 ∧ sys.dieFailed 10 = false ∧
    ((crossing 1).field pgPwr 0x1044 0 16 16 = 1 ∧ (crossing 0).field pgPwr 0x1044 0 16 16 = 0 ∧
      (crossing 1).traf.xslot = 0 ∧ (crossing 1).traf.xlast = none ∧ (go (crossing 1) .cellTime).traf.xlast = some 0 ∧
      ((crossing 1).voq 3).any (·.wave) = true ∧ ((crossing 1).voq 5).any (·.started) = true ∧
      (crossing 1).crossing 0 = false) ∧
    (let lv (c : Chip) := c.knownLevel 0 2 5
     (diverted sys).traf.diverted = [] ++ ⟨0, 2, 0, contin, none⟩ :: [] ∧ hLiv contin.hdr = 5 ∧ hSub contin.hdr = 1 ∧
       lv (diverted sys) < 3 ∧ sys.traf.diverted = []) ∧
    (((quota 10 2 5 99 (diverted sys)).allocUnits 10 2 5 (cellsFor contin.len)).1.isSome = true ∧
      ((quota 10 2 5 0 (diverted sys)).allocUnits 10 2 5 (cellsFor contin.len)).1 = none) := by decide +kernel
/-- R288: an output takes one cell in a cell time, and the input left out counts; R22: a wave's cell goes first. -/
theorem test_cells_cross : let c := go (crossing 2) .cellTime
    c.reg pgXbr 0x1000 = 1 ∧ c.reg pgXbr 0x100C = 1 ∧ (c.voq 3).map (fun x => (x.num, x.cells)) = [(1, 2), (2, 1)] := by
  decide +kernel
/-- R384: cell times are 2.56 ns apart, and RATE of them start in a slot. -/
theorem test_crossbar_meter : let c := go (crossing 1) .cellTime
    go (atTime 655 (go (crossing 2) .cellTime)) .cellTime = atTime 655 (go (crossing 2) .cellTime) ∧
    (go (atTime 656 (go (crossing 2) .cellTime)) .cellTime).reg pgXbr 0x1000 = 2 ∧
    (go (atTime 65535 c) .cellTime).reg pgXbr 0x1000 = 1 ∧ (go (atTime 65536 c) .cellTime).reg pgXbr 0x1000 = 2 ∧
    (go (crossing 0) .cellTime).reg pgXbr 0x1000 = 0 := by decide +kernel

/-! Timetable, routes and liveries -/

/-- Livery 5 is enabled with 64 slots in bank 0, and 64 slots stand in bank 1. -/
def both : Chip := ((timetable 5 ready).setReg pgTtb 0x1224 64 5).setReg pgTtb 0x1200 5
def swapped (pend busy : Bool) : Chip :=
  { (both.setFlag pgTtb 0x1208 1 pend 5).setFlag pgTtb 0x1208 2 busy 5 with
    tt := { both.tt with swaps := [(5, some ⟨3, 12582912, 64, none⟩)] } }
/-- Livery 5 is not enabled, entry 3 of its bank 0 selected and a good entry staged, with some bits turned. -/
def stagedEnt (turn : Nat) : Chip :=
  ((timetable 5 ready).setFlag pgTtb 0x1204 0 false 5).setReg pgTtb 0x1000 3 |>.stage pgTtb 0x1040 16 (ent3 ^^^ BitVec.ofNat 512 turn).toNat
def refusal (c : Chip) : Nat := (go c .ttbEntWrite).field pgTtb 0x1008 4 4

theorem witness_TimetablesAreWrittenAndSwapped :
    (ready.serves pgTtb = true ∧ (entry 3 ent3 (timetable 5 ready)).csetLive false (eCset ent3) = true ∧
      ready.csetLive false 0 = false ∧ eValid ent3 = true) ∧
    (both.bankLive 5 false = true ∧ both.bankLive 5 true = false ∧ ready.bankLive 5 false = false) ∧
    (let overlap (c : Chip) (first last : Nat) : Bool := decide (first ≤ last) && (List.range 256).any (fun k => decide (k ≠ 6 ∧
       c.entFirst k false ≤ c.entLast k false ∧ first ≤ c.entLast k false ∧ c.entFirst k false ≤ last))
     overlap both 15 20 = true ∧ overlap both 16 20 = false ∧ overlap both 20 16 = false) ∧
    (both.ttEnabled 5 = true ∧ ready.ttEnabled 5 = false ∧ (swapped true false).swapPending 5 = true ∧
      ready.cycle 5 true = 0 ∧ (both.setFlag pgTtb 0x1204 0 false 5).cycle 5 true ≠ 0) ∧
    (both.governs 5 3 = some (false, 12582912, 64) ∧ 64 ≤ both.cycle 5 true ∧ both.swapPending 5 = false ∧
      both.oldBusy 5 = false ∧ 0 < (3 - both.currentStep 5).toInt ∧
      (both.time.now : Int) < 12582912 - (max 64 (both.cycle 5 true) * 65536 : Nat) ∧
      both.governs 5 1 = some (false, 4194304, 64) ∧
      ¬ (both.time.now : Int) < 4194304 - (max 64 (both.cycle 5 true) * 65536 : Nat)) ∧
    (both.swapOf 5 = none ∧ (swapped true false).swapOf 5 = some ⟨3, 12582912, 64, none⟩ ∧ (swapped false true).oldBusy 5 = true ∧
      (atTime 12582912 (swapped true false)).time.now = 12582912) ∧ ready.mainUp = true := by decide +kernel
/-- R168: one staged entry for each refusal, and the good one. -/
theorem test_entry_refusals : refusal (stagedEnt 0) = 0 ∧ refusal (stagedEnt (7 * 2)) = 1 ∧ refusal (stagedEnt (2 ^ 32)) = 2 ∧
    refusal (stagedEnt (2 ^ 102)) = 3 ∧ refusal (stagedEnt 2) = 4 ∧ refusal (stagedEnt 32) = 5 ∧
    refusal ((stagedEnt 0).setReg pgTtb 0x1000 16) = 6 ∧ refusal (stagedEnt (2 ^ 223)) = 7 ∧ refusal (stagedEnt (2 ^ 31)) = 8 ∧
    refusal ((stagedEnt 0).setFlag pgTtb 0x1204 0 true 5) = 9 := by decide +kernel
theorem test_swaps : (go both (.ttbLivSwap 3)).swapPending 5 = true ∧ (go both (.ttbLivSwap 1)).reg pgTtb 0x1408 = 1 ∧
    (go (atTime 12582912 (swapped true false)) (.ttbSwapTakeEffect 5)).ttBank 5 = true ∧
    (go (atTime 12582911 (swapped true false)) (.ttbSwapTakeEffect 5)).ttBank 5 = false ∧
    (go (atTime (12582912 + 64 * 65536) (swapped false true)) (.ttbOldBankRelease 5)).oldBusy 5 = false := by decide +kernel

def drained (x : Drain) (c : Chip) : Chip := c.setDrain (some x)
def stagedRt (v : Nat) (c : Chip) : Chip := c.stage pgRte 0x1010 2 v
def stagedAd (v : Nat) (c : Chip) : Chip := c.stage pgRte 0x1540 8 v
/-- Address key 5 (type 1), in the first `n` ways of its bucket under other keys. -/
def addrsIn (n : Nat) (c : Chip) : Chip :=
  forAll (List.range n) c (fun w c => c.setAddr (adBucket 5) w (BitVec.ofNat 256 (1 + 4 * (100 + w))))

theorem witness_RoutesSwapAndTablesAreWritten :
    (ready.serves pgRte = true ∧ ready.mainUp = true ∧ ready.dgBank 0 = false) ∧
    (let old := ready.setFlag pgRte 0x1000 18 true
     let bad (c : Chip) : Bool := decide (c.dgBank (c.field pgRte 0x1000 0 18 / 64) = c.flag pgRte 0x1000 18 ∨
       c.inDrain (c.field pgRte 0x1000 0 18) = true ∨ fld (BitVec.ofNat 64 (c.staged pgRte 0x1010 2)) 26 6 ≠ 0 ∨
       fld (BitVec.ofNat 64 (c.staged pgRte 0x1010 2)) 33 31 ≠ 0)
     bad ready = true ∧ bad old = false ∧ bad (stagedRt (2 ^ 26) old) = true ∧ bad (stagedRt (2 ^ 33) old) = true ∧
       bad (stagedRt (2 ^ 32 + 2 ^ 25) old) = false ∧ bad (drained ⟨0, 0, 0, false, []⟩ old) = true) ∧
    (fld (BitVec.ofNat 1152 (ready.staged pgRte 0x1400 36)) 1073 15 = 0 ∧
      fld (BitVec.ofNat 1152 (ready.staged pgRte 0x1400 36)) 1106 46 = 0 ∧
      fld (BitVec.ofNat 1152 ((ready.stage pgRte 0x1400 36 (2 ^ 1073)).staged pgRte 0x1400 36)) 1073 15 ≠ 0) ∧
    (ready.addrWay 5 = none ∧ (ready.setAddr (adBucket 5) 2 5).addrWay 5 = some 2 ∧
      (ready.setAddr (adBucket 5) 2 5).addrFind 5 = some 5 ∧ (stagedAd 5 ready).staged pgRte 0x1540 5 = 5) ∧
    (fld ((addrsIn 2 ready).addr (adBucket 5) 2) 0 2 = 0 ∧ (∀ j < 2, fld ((addrsIn 2 ready).addr (adBucket 5) j) 0 2 ≠ 0) ∧
      (∀ j < 4, fld ((addrsIn 4 ready).addr (adBucket 5) j) 0 2 ≠ 0) ∧ (addrsIn 4 ready).addrWay 5 = none) ∧
    (fld (0x1003002 : W32) 24 2 = 1 ∧ fld (0x1003002 : W32) 0 12 = 2 ∧ fld (0x1003002 : W32) 12 12 = 3 ∧ ready.rte.drain = none ∧
      (ready.setFlag pgRte 0x1100 3 true).dgBank 3 ≠ (ready.setFlag pgRte 0x1100 3 true).dgBank 2) ∧
    (let d : Drain := ⟨2, 3, 0, false, []⟩
     (drained d ready).rte.drain = some d ∧ (drained d ready).inFlight d = 0 ∧
       (drained ⟨1, 1, 0, false, []⟩ ((egressBusy ready).setEgress 0 { Egress.empty with
         tx := some (msgOf result) })).inFlight ⟨1, 1, 0, false, []⟩ ≠ 0 ∧
       d.since + 100 * 256000 ≤ (atTime 25600000 (drained d ready)).time.now) := by decide +kernel
/-- R275 and R276: a swap waits for the frames under way, and turns the groups' banks. -/
theorem test_route_swap : let c := go (go ready (.routeSwap 0x1003002)) .routeSwapSwitch
    c.dgBank 2 = true ∧ c.dgBank 3 = true ∧ c.dgBank 4 = false ∧ c.reg pgRte 0x180C = 1 ∧
    (go ready (.routeSwap 0x1002003)).flag pgRte 0x1024 1 = true := by decide +kernel
theorem test_table_writes : (go (stagedRt 0x11F (ready.setFlag pgRte 0x1000 18 true)) .routeEntWrite).routeEnt true 0 = 0x11F ∧
    (go ready .routeEntWrite).reg pgRte 0x1808 = 1 ∧ (go (stagedAd 5 (addrsIn 2 ready)) .addrWrite).addrWay 5 = some 2 ∧
    (go (stagedAd 5 (addrsIn 4 ready)) .addrWrite).flag pgRte 0x1524 2 = true := by decide +kernel

def td (i : Nat) (c : Chip) : Chip := c.setFlag pgRte 0x160C i true 0
def heldBy (l : Nat) (c : Chip) : Chip := { c with pool := { c.pool with owner := [(29 * 8388608 + 3 * 1048576 + 77, l + 1)] } }

theorem witness_LiveriesAreTornDownAndReturned :
    (ready.serves pgRte = true ∧ ready.field pgRte 0x1600 0 8 = 0 ∧ ready.tornDown 0 = false ∧ (td 1 ready).tornDown 0 = true ∧
      (td 0 (atTime 256000 ready)).tdStat 0 0 = true ∧
      ((ready.lostOf 0).since + max 1 (ready.field pgRte 0x1604 0 20 0) * 256000 ≤ (atTime (2 ^ 40) ready).time.now) ∧
      (atTime 0 ready).time.now < (ready.lostOf 0).since + max 1 (ready.field pgRte 0x1604 0 20 0) * 256000) ∧
    ((td 1 ready).tdStat 0 2 = false ∧ (td 2 (td 1 ready)).tdStat 0 2 = true) ∧
    (let c := ready.setReg pgLiv 0x1004 1 0
     ready.serves pgLiv = true ∧ Chip.reset.serves pgLiv = false ∧ c.livValid 0 = true ∧ ready.livValid 0 = false ∧
       c.livBusy 0 = false ∧ (timetable 0 c).livBusy 0 = true ∧ ready.standbyUp = true ∧ ready.dieFailed 31 = false) := by
  decide +kernel
/-- R308: a torn-down livery's units go but for the cells that stay in quarantine; R340: VALID that falls drops the seeds. -/
theorem test_teardown : let t := go (td 1 (heldBy 0 ready)) (.teardownDone 0)
    t.tdStat 0 2 = true ∧ t.pool.owner = [] := by decide +kernel

/-! Pools and banks -/

/-- Pool 3 of B1 (die 29) with thresholds CAUTION 30, BRAKE 20, STOP 10 and HYST 5, livery 0 at a level. -/
def bounded (quota_ lv : Nat) (c : Chip) : Chip :=
  let c := ((c.setReg (pgPol 29) 0x1010 0x0014001E 3).setReg (pgPol 29) 0x1014 0x0005000A 3).setReg (pgPol 29) 0x1000 3
  { quota 29 3 0 quota_ c with pool := { c.pool with level := [(usedKey 29 3 0, lv)] } }
def runningQ (c : Chip) : Chip := { c with pool := { c.pool with quarRun := [(1, some 77)] } }

theorem witness_PoolsKeepQuotasLevelsAndQuarantine :
    let c := bounded 40 0 ready
    (c.serves (pgPol 29) = true ∧ c.field (pgPol 29) 0x1000 0 3 = 3 ∧ c.field (pgPol 29) 0x1000 8 8 = 0 ∧ poolOn 29 3 = true ∧
      poolOn 29 4 = false) ∧
    (c.quota 29 3 0 < 262143 ∧ c.quotaLimit 29 3 < c.quotaSum 29 3 - c.quota 29 3 0 + 262143 ∧ ¬ c.quota 29 3 0 < 40 ∧
      ¬ c.quotaLimit 29 3 < c.quotaSum 29 3 - c.quota 29 3 0 + 41) ∧
    ((fld (0x0014001E : W32) 16 16 ≤ fld (0x0014001E : W32) 0 16 ∧ fld (0x0005000A : W32) 0 16 ≤ fld (0x0014001E : W32) 16 16) ∧
      ¬ fld (0x001F001E : W32) 16 16 ≤ fld (0x001F001E : W32) 0 16) ∧
    (Tbl.get none c.pool.quarRun 1 = none ∧ ((inCell 0 4 true).cell 1 77).quarantined = true ∧
      ((inCell 0 4 false).cell 1 77).quarantined = false ∧ Tbl.get none (runningQ c).pool.quarRun 1 = some 77 ∧
      (heldBy 5 ready).unitOwner 29 3 77 = 6) := by decide +kernel
/-- R206: with 40 units free the level falls from 2 to 0; a quota of 19 with none used is below BRAKE; 40 is above HYST too. -/
theorem test_levels : (go (bounded 40 2 ready) (.polQuotaWrite 29 40)).level 29 3 0 = 0 ∧
    (go (bounded 40 0 ready) (.polQuotaWrite 29 19)).level 29 3 0 = 2 ∧
    (go (bounded 40 2 ready) (.polQuotaWrite 29 24)).level 29 3 0 = 2 ∧
    (go (bounded 40 2 ready) (.polQuotaWrite 29 25)).level 29 3 0 = 1 ∧
    (go (bounded 40 0 ready) (.polQuotaWrite 29 19)).reg (pgPol 29) 0x1108 = 1 := by decide +kernel
theorem test_quarantine : Tbl.get none (go (inCell 0 4 true) (.quarantineRelease 1 0x8000004D)).pool.quarRun 1 = some 77 ∧
    (go (inCell 0 4 false) (.quarantineRelease 1 0x8000004D)).pool.quarRun = [] ∧
    ((go (runningQ (inCell 2 4 true)) (.quarantineReleaseDone 1 [])).cell 1 77) = ⟨0, 4, false, 5⟩ := by decide +kernel

def marching (cmd : W32) (c : Chip) : Chip := c.setMarch 8 (some cmd)
def spent (c : Chip) : Chip := c.useSpares 8 3 1 8 0
def wordOf1 : BitVec 16 := 16384
/-- March C− reads that word with bit 0 wrong where element 1 expects zeros. -/
def faulty : MarchRead := ⟨0, 1, 0, wordOf1, 1⟩
def bankIs (r : RetSt) (c : Chip) : Chip := (atTime 0 c).setRet 8 3 r

theorem witness_BanksAreTestedAndSleep :
    (ready.serves (pgMem 8) = true ∧ ready.marchOf 8 = none ∧ (marching 3 ready).marchOf 8 = some 3 ∧
      bankExists 8 3 = true ∧ bankExists 8 200 = false ∧ ready.fenced 8 3 = false ∧ ready.bankInUse 8 3 = false ∧
      { ready with pool := { ready.pool with owner := [(unitKey 8 0 0, 1)] } }.bankInUse 8 (unitBank 0 0) = true) ∧
    (let w (v : BitVec 137) : PortAccess (BitVec 137) := .write 5 v
     (portCycle 0 [(5, 9)] (w 1) (w 2)) = ⟨[(5, 2)], none, none, true⟩ ∧
       portCycle 0 [(5, 9)] (.read 5) (w 2) = ⟨[(5, 2)], some 9, none, false⟩ ∧
       portCycle 0 [(5, 9)] (w 1) (.write 6 2) = ⟨[(5, 1), (6, 2)], none, none, false⟩) ∧
    (marchFirst 0 false [] = none ∧ marchFirst 0 false [faulty] = some faulty ∧
      marchFirst 0 false [{ faulty with elem := 2, got := 0 }, faulty] = some faulty ∧
      spareCover [(1, 7), (2, 7), (3, 8)] 1 1 = some (1, 1) ∧ spareCover [(1, 7), (2, 8), (3, 9)] 1 1 = none ∧
      ({ reads := [faulty], column := true } : MarchReport).column = true) ∧
    ((ready.sparesUsed 8 3 1).1 < 8 ∧ ¬ ((spent ready).sparesUsed 8 3 1).1 < 8 ∧ wordOf1.toNat / 16384 = 1 ∧
      (0xC03 : W32).getLsbD 10 = true ∧ (0xC03 : W32).getLsbD 11 = true ∧ (0x403 : W32).getLsbD 11 = false) ∧
    ((ready.setFlag (pgMem 8) 0x1030 3 true).fenced 8 3 = true ∧ tableBank 8 130 = true ∧ tableBank 8 3 = false ∧
      mirrorOf 8 137 = some 138 ∧ mirrorOf 8 3 = none) ∧
    ((ready.setFlag (pgMem 8) 0x1010 3 true).flag (pgMem 8) 0x1010 3 = true ∧
      (∀ r ∈ [RetSt.awake, .entering, .retained, .committed, .waking], (bankIs r ready).retOf 8 3 = r) ∧
      Tbl.get 0 (bankIs .entering ready).bank.retSince (8 * 256 + 3) = 0 ∧
      Tbl.get 0 ready.bank.touched (8 * 256 + 3) + 256000 ≤ (atTime 256000 ready).time.now ∧
      ¬ Tbl.get 0 ready.bank.touched (8 * 256 + 3) + 256000 ≤ (atTime 255999 ready).time.now ∧
      (0 : Nat) + 200 * 256 ≤ (atTime 51200 ready).time.now ∧ (0 : Nat) + 1800 * 256 ≤ (atTime 460800 ready).time.now) := by
  decide +kernel
/-- R215: March C− makes 10 operations on each of eight backgrounds and March SS 22 on one; R216: two backgrounds. -/
theorem test_march_algorithms : marchOps 0 = 80 ∧ marchOps 1 = 22 ∧ marchOps 2 = 102 ∧
    fld (marchBackground 1) 0 8 = 0xAA ∧ fld (marchBackground 3) 0 8 = 0xF0 := by decide +kernel
/-- R218 and R219: a run that finds a row fault takes a spare row, or fences when none is left. -/
theorem test_marches : (go ready (.marchStart 8 0x80000003)).reg (pgMem 8) 0x1004 = 1 ∧
    (go ready (.marchStart 8 0x80000303)).flag (pgMem 8) 0x1004 5 = true ∧
    (go (marching 0xC03 ready) (.marchDone 8 ⟨[⟨0, 1, 0, wordOf1, 0⟩], false⟩)).reg (pgMem 8) 0x1004 = 2 ∧
    (go (marching 0xC03 ready) (.marchDone 8 ⟨[faulty], false⟩)).reg (pgMem 8) 0x1004 = 0xC ∧
    (go (marching 0xC03 (spent ready)) (.marchDone 8 ⟨[faulty], false⟩)).fenced 8 3 = true := by decide +kernel
/-- R221 to R223: entry takes 0.2 µs; a wake up to 0.1 µs cancels it, a later one commits it; waking takes 1.8 µs. -/
theorem test_retention :
    (go (atTime 51200 (bankIs .entering ready)) (.retentionEntryComplete 8 3)).retOf 8 3 = .retained ∧
    (go (atTime 25599 (bankIs .entering ready)) (.bankWake 8 3)).retOf 8 3 = .awake ∧
    (go (atTime 25600 (bankIs .entering ready)) (.bankWake 8 3)).retOf 8 3 = .committed ∧
    (go (atTime 460800 (bankIs .waking ready)) (.bankWakeDone 8 3)).retOf 8 3 = .awake ∧
    (go (atTime 460799 (bankIs .waking ready)) (.bankWakeDone 8 3)).retOf 8 3 = .waking := by decide +kernel

/-! Coaches -/

/-- A waybill of entry 3 (R105): VERSION 1, `n` elements of format 0 from element 0, PRESCALE and POSTSCALE 1.0. -/
def wb (step : Nat) (n : Nat := 2) (frames : Nat := 0) (ver : Nat := 1) (liv : Nat := 5) : Nat :=
  ver * 2 ^ 252 + liv * 2 ^ 240 + 3 * 2 ^ 224 + step * 2 ^ 192 + n * 2 ^ 119 + frames * 2 ^ 103 + 0x3F800000 * 2 ^ 32 + 0x3F800000
/-- Two elements 1.0 and -2.0 of format 0, FP32. -/
def two : List Byte := bytesLE 8 (0x3F800000 + 0xC0000000 * 2 ^ 32)
def firstF (w : Nat) : Frame := frm 0 0 5 false 0x40 (bytesBE 32 w ++ two)
def contF (liv chunk : Nat) : Frame := frm 0 1 5 false 0x40 (bytesBE 8 (liv * 2 ^ 56 + 3 * 2 ^ 40 + chunk * 2 ^ 8 + 2) ++ two)
/-- The timetable of `runs`, with quotas for livery 5 on coach die 2. -/
def cch : Chip := quota 10 0 5 9 (quota 10 1 5 9 (quota 10 2 5 9 runs))
def openFor (frames sent : Nat) (c : Chip) : Chip :=
  c.setOpenRecs 0 [⟨5, 3, 0, 0, frames, 2, 5, sent, 63 * 65536⟩]
def known (lv : Nat) (c : Chip) : Chip := { c with pool := { c.pool with known := [((0 * 18 + 2) * 256 + 5, lv)] } }

theorem witness_CollectiveFramesReachTheirCoachDie :
    let f := firstF (wb 0)
    let x := contF 5 0
    let k (c : Chip) : Chip := (came 0 f c).heard 0 f
    (hearsB (came 0 f cch) 0 f = true ∧ hClass f.hdr = 0 ∧ passesB (came 0 f cch) 0 f = true ∧ hSub f.hdr = 0 ∧ hSub x.hdr = 1 ∧
      hearsB (came 0 x cch) 0 x = true ∧ passesB (came 0 x cch) 0 x = true) ∧
    (wLiv (waybillOf f) = hLiv f.hdr ∧ wLiv (waybillOf (firstF (wb 0 2 0 1 6))) ≠ hLiv f.hdr ∧
      (cch.serving 5 3 0).isSome = true ∧ { cch with tt := ready.tt }.serving 5 3 0 = none ∧
      coachDieOf ent3 0 = 2) ∧
    (cch.dieFailed 10 = false ∧ (go cch (.dieFailed 10)).dieFailed 10 = true ∧ 2 ≤ (known 2 cch).knownLevel 0 2 5 ∧
      cch.knownLevel 0 2 5 = 0 ∧ 3 ≤ (known 3 cch).knownLevel 0 2 5) ∧
    (((k cch).allocUnits 10 2 5 (cellsFor (f.body.length + 36))).1.isSome = true ∧
      ((k runs).allocUnits 10 2 5 (cellsFor (f.body.length + 36))).1 = none) ∧
    (ctLiv (contOf x) = hLiv x.hdr ∧ ctLiv (contOf (contF 6 0)) ≠ hLiv x.hdr ∧
      (let r : OpenRec := ⟨5, 3, 0, 0, 2, 2, 5, 1, 63 * 65536⟩
       (openFor 2 1 cch).openRecs 0 = [r] ∧ r.matches (ctLiv (contOf x)) (ctEntry (contOf x)) (ctChunk (contOf x)) (ctStepLo (contOf x)) = true ∧
         r.matches 5 3 1 0 = false ∧ r.frames ≤ r.sent + 1)) ∧
    (wFrames (waybillOf f) = 0 ∧ wFrames (waybillOf (firstF (wb 0 2 1))) ≠ 0 ∧ (cch.openRecs 0).length < 64) ∧
    Chip.reset.mainUp = false := by decide +kernel
/-- R110: a first frame with FRAMES 1 opens a record, which its continuation closes. -/
theorem test_open_records : ((go (came 0 (firstF (wb 0 2 1)) cch) (.collectiveFirstFrame 0 (firstF (wb 0 2 1)) 0)).openRecs 0).length = 1 ∧
    (go (came 0 (contF 5 0) (openFor 1 0 cch)) (.continuationFrame 0 (contF 5 0) 0)).openRecs 0 = [] ∧
    (go (came 0 (contF 5 1) (openFor 1 0 cch)) (.continuationFrame 0 (contF 5 1) 0)).reg pgRte 0x1800 = 1 ∧
    (go (atTime (63 * 65536) (openFor 1 0 cch)) (.openRecordExpiry 0)).openRecs 0 = [] := by decide +kernel

def atDie (w : Nat) (p : Nat := 0) (stamp : Nat := 0) : Msg := Msg.arrived p (firstF w).hdr (firstF w).body stamp
def firstAt (c : Chip) (w : Nat) (p : Nat := 0) (stamp : Nat := 0) : Chip := c.coachFirst 2 (atDie w p stamp) []
/-- A coach of the step that port 0 or port 4 may still join. -/
def opened (ph : Phase) (adm : BitVec 1024) (step : W32 := 0) : Chip :=
  cch.setSlot 2 9 { coach ph step with
    expected := 0x11, admitted := adm, tc := 32 * 65536, elemCount := 2, recorded := true, postscale := 0x3F800000 }
def lateCch : Chip := entry 3 (ent3 ^^^ 0x80) cch

theorem witness_FirstFramesMeetTheChecksOfTheirCoach :
    let v : Served := ⟨ent3, false, 0, 64⟩
    let owns (c : Chip) (i : Nat) : Bool := decide (c.keySlot 2 5 3 0 0 = some i ∧ (c.slot 2 i).step = 0)
    (cch.serving 5 3 0 = some v ∧ (cch.serving 5 3 2).map (·.t) = some 8388608 ∧ (marked cch).hasMark 2 5 3 0 = true ∧
      cch.hasMark 2 5 3 0 = false ∧ (0 : Int) < 8388608 - 64 * 65536) ∧
    (lateCch.lateFold (ent3 ^^^ 0x80) = true ∧ ({ v with ent := ent3 ^^^ 0x80 }.tc .alone) = 32 * 65536 ∧
      cch.lateFold ent3 = false ∧ v.td = 63 * 65536) ∧
    (owns (opened .folding 1) 9 = true ∧ ((opened .folding 1).slot 2 9).expected.getLsbD 4 = true ∧
      ((opened .folding 1).slot 2 9).expected.getLsbD 8 = false ∧ (cch.expectedOf ent3 false .alone).1.getLsbD 4 = true ∧
      (cch.expectedOf ent3 false .alone).1.getLsbD 8 = false ∧ cch.keySlot 2 5 3 0 0 = none) ∧
    ((opened .folding 1 256).keySlot 2 5 3 0 0 = some 9 ∧ ((opened .folding 1 256).slot 2 9).step ≠ 0) ∧
    (((opened .folding 1).slot 2 9).admitted.getLsbD 4 = false ∧ ((opened .folding 1).slot 2 9).admitted.getLsbD 0 = true ∧
      ((opened .folding 1).slot 2 9).fieldFault (BitVec.ofNat 256 (wb 0)) = 0 ∧
      ((opened .folding 1).slot 2 9).fieldFault (BitVec.ofNat 256 (wb 0 3)) ≠ 0) ∧
    ((cch.createCoach 2 5 3 0 2 0 v).1.isSome = true ∧ (runs.createCoach 2 5 3 0 2 0 v).1 = none) ∧
    (cch.lateReason 2 0 (BitVec.ofNat 256 (wb 0)) 0 (ent3 ^^^ 0x40000000) (cch.serving 5 3 1) = 0 ∧
      opCopying (eOp ent3) = false ∧ opCopying (eOp (ent3 ^^^ 6)) = true ∧ eLateAct ent3 = false) := by decide +kernel
/-- R116: each check counts what it discards: mark, early, late, stale, stray, conflict, duplicate. -/
theorem test_first_frame_checks : (firstAt (marked cch) (wb 0)).reg (pgCch 2) 0x1124 = 1 ∧
    (firstAt cch (wb 2)).reg (pgCch 2) 0x1118 = 1 ∧ (firstAt lateCch (wb 0) 0 (32 * 65536)).reg (pgCch 2) 0x1120 = 1 ∧
    (firstAt cch (wb 0) 0 (63 * 65536)).reg (pgCch 2) 0x1114 = 1 ∧ (firstAt cch (wb 0) 8).reg (pgCch 2) 0x1110 = 1 ∧
    (firstAt (opened .folding 1 256) (wb 0)).reg (pgCch 2) 0x111C = 1 ∧
    (firstAt (opened .folding 1) (wb 0)).reg (pgCch 2) 0x110C = 1 := by decide +kernel
theorem test_first_frame_faults :
    ((firstAt (opened .folding 1) (wb 0 2 0 2) 4).slot 2 9).cause = 0x0206 ∧
    ((firstAt (opened .folding 1) (wb 0 3) 4).slot 2 9).phase = .aborting ∧
    ((firstAt (opened .folding 1) (wb 0) 4).slot 2 9).admitted = 0x11 ∧ ((firstAt cch (wb 0)).slot 2 0).phase = .folding ∧
    ((firstAt runs (wb 0)).cch 2).waiting.length = 1 := by decide +kernel

def parked (td : Int) (c : Chip) : Chip :=
  c.setCch 2 { c.cch 2 with waiting := [⟨4, BitVec.ofNat 256 (wb 0), 0, 0, false, ⟨ent3, false, 0, 64⟩, td, [⟨true, 0, two, 0, []⟩]⟩] }

theorem witness_CreationsAreTriedAgain :
    (cch.mainUp = true ∧ cch.dieFailed 10 = false ∧ ((cch.cch 2).waiting)[0]? = none ∧
      (((parked 8 (atTime 8 cch)).cch 2).waiting)[0]?.map (fun x => decide (x.td ≤ 8)) = some true ∧
      (((parked 9 (atTime 8 cch)).cch 2).waiting)[0]?.map (fun x => decide (8 < x.td)) = some true) ∧
    (let carriedTo (c : Chip) : Chip := c.setCch 2 { c.cch 2 with waiting := (c.cch 2).waiting.map (fun x => { x with carried := true }) }
     let may (c : Chip) : Bool := decide ((c.slot 2 9).phase = .folding ∧ (c.slot 2 9).step = 0 ∧
       (c.slot 2 9).carriedSet.getLsbD 4 = false) && (c.slot 2 9).rangeAgrees (BitVec.ofNat 256 (wb 0))
     ((carriedTo (parked 9 (opened .folding 1))).cch 2).waiting.map (·.carried) = [true] ∧ may (opened .folding 1) = true ∧
       may (opened .sealed 1) = false ∧ may (opened .folding 1 256) = false) ∧
    ((parked 9 (opened .folding 1)).keySlot 2 5 3 0 0 = some 9 ∧ (parked 9 (opened .folding 1 256)).keySlot 2 5 3 0 0 = some 9 ∧
      (parked 9 cch).keySlot 2 5 3 0 0 = none) ∧ cch.serves (pgCch 2) = true := by decide +kernel
/-- R117: a waiting contribution joins the coach made for it; R114: the selected slot is shown. -/
theorem test_creation_retry : ((go (parked 9 cch) (.coachCreateRetry 2 0)).slot 2 0).admitted = 16 ∧
    ((go (parked 9 cch) (.coachCreateRetry 2 0)).cch 2).waiting = [] ∧
    (go (opened .sealed 1 7) (.cchSlotSelect 2 9)).field (pgCch 2) 0x1004 0 3 = 2 ∧
    (go (opened .sealed 1 7) (.cchSlotSelect 2 9)).reg (pgCch 2) 0x1010 = 7 := by decide +kernel

def contrib (folded : Nat) : Contrib :=
  { newContrib 0 false (BitVec.ofNat 256 (wb 0)) 0 false ⟨true, 0, two, 0, []⟩ with
    held := if folded = 0 then [⟨true, 0, two, 0, []⟩] else [], foldedFrames := folded }
def folding (ph : Phase) (folded : Nat) (exp : BitVec 1024 := 1) : Chip :=
  (opened ph 1).setSlot 2 9 { (opened ph 1).slot 2 9 with expected := exp, contribs := [contrib folded] }
/-- A product of 2^200, which no 112-bit window of a full accumulator holds beside 1.0. -/
def bigAcc : Acc := { Acc.zero with a := BitVec.ofInt 320 (2 ^ 300) }
def queued (c : Chip) : Chip := c.setSlot 2 9 { c.slot 2 9 with holdq := [⟨1, 0, false, ⟨5, false, false, false, false, 0⟩⟩] }

theorem witness_ContributionsFoldAndComplete :
    let x := (folding .folding 0).slot 2 9
    (cch.mainUp = true ∧ cch.dieFailed 10 = false ∧ x.phase = .folding ∧ x.contribs = [] ++ contrib 0 :: [] ∧
      (contrib 0).lport = 0 ∧ (contrib 0).carried = false ∧ (contrib 0).held = [⟨true, 0, two, 0, []⟩] ∧ (contrib 1).held = [] ∧
      (cch.slot 2 9).phase = .free) ∧
    (layoutOf 0 2 two true = .ok ∧ layoutOf 0 3 two true = .fault ∧ layoutOf 15 2 two true = .pswFault ∧
      eOrdered x.ent = false ∧ x.holdq = [] ∧ x.elemCount = 2) ∧
    (let lo := (contrib 0).elems
     let hi := elemsIn 0 2 8
     let new (a : Acc) (k : Nat) : Acc := a.fold (product (elemOf 0 (natOfLE two) k) 0x3F800000).1
     lo = 0 ∧ hi = 2 ∧ (∀ k < 2, (new Acc.zero k).fits = true) ∧ (new bigAcc 0).siding = none ∧ (new bigAcc 0).fits = false) ∧
    ((queued (folding .folding 0)).slot 2 9).holdq = [⟨1, 0, false, ⟨5, false, false, false, false, 0⟩⟩] ∧
    ((cch.allocUnits 10 1 5 1).1.map (·.length) = some 1 ∧ (runs.allocUnits 10 1 5 1).1 = none) := by decide +kernel
theorem witness_FoldsComplete :
    let x := (folding .folding 1).slot 2 9
    let y := (folding .sealed 1 0x11).slot 2 9
    (opCopying (eOp x.ent) = false ∧ x.absent = 0 ∧ x.expected = 1 ∧ x.admitted = 1 ∧ x.contribs = [contrib 1] ∧ x.holdq = [] ∧
      (contrib 1).broken = false ∧ (contrib 1).foldedFrames = (contrib 1).frames + 1 ∧ x.evaluated = false ∧ 0 ≤ x.td) ∧
    (y.phase = .sealed ∧ y.tc + (16 * 65536 : Nat) = 48 * 65536 ∧ y.expected.getLsbD 4 = true ∧ y.admitted.getLsbD 4 = false ∧
      (48 * 65536 : Int) ≤ y.td) ∧
    ({ (folding .folding 1 0x11).slot 2 9 with late := true }.tc = 32 * 65536 ∧ eOrdered x.ent = false) := by decide +kernel
/-- R70: 1.0 and -2.0 fold exactly; a sum that no window holds waits when no siding is free (R75). -/
theorem test_folds : let z := (go (folding .folding 0) (.collectiveFrameFold 2 9 0 false 0 .clean)).slot 2 9
    0 < (Tbl.get Acc.zero z.accs 0).val ∧ (Tbl.get Acc.zero z.accs 1).val = -2 * (Tbl.get Acc.zero z.accs 0).val ∧
    z.contribs.map (·.foldedFrames) = [1] ∧
    (let big := (folding .folding 0).setSlot 2 9 { (folding .folding 0).slot 2 9 with accs := [(0, bigAcc)] }
     let nosid := quota 10 1 5 0 big
     ((go nosid (.collectiveFrameFold 2 9 0 false 0 .clean)).slot 2 9).holdq.map (·.elem) = [0] ∧
       (go big (.collectiveFrameFold 2 9 0 false 0 .clean)).reg (pgAcc 2) 0x1424 = 1) := by decide +kernel
theorem test_fold_completes : let z := (go (folding .folding 1) (.coachFoldComplete 2 9)).slot 2 9
    z.phase = .packing ∧ z.outs.map (·.2) = [0] ∧
    ((go (atTime (48 * 65536) (folding .sealed 1 0x11)) (.sealIntervalEnd 2 9)).slot 2 9).phase = .packing ∧
    ((go (atTime (48 * 65536 - 1) (folding .sealed 1 0x11)) (.sealIntervalEnd 2 9)).slot 2 9).phase = .sealed := by
  decide +kernel

/-- A coach that packs one output of 8 bytes. -/
def packs (outSent : Nat) (f : Coach → Coach := id) (c : Chip := cch) : Chip :=
  c.setSlot 2 9 (f { (opened .packing 1).slot 2 9 with outs := [(two, 0)], outSent := outSent })

theorem witness_ResultsLeaveAndDeadlinesBind :
    let x := (packs 0).slot 2 9
    (cch.mainUp = true ∧ cch.dieFailed 10 = false ∧ x.phase = .packing ∧ x.outSent.testBit 0 = false ∧
      x.outs = [] ++ (two, 0) :: [] ∧ x.outputs.find? (fun y => decide (y.1 = 0)) = some (0, 0) ∧ x.partial_ = false ∧
      ((packs 1).slot 2 9).outSent.testBit 0 = true) ∧
    (let feeder (e : BitVec 512) : Coach := { x with role := .feeder, ent := e }
     let grid := ent3 + BitVec.ofNat 512 (32 + 3 * 2 ^ 256 + 3 * 2 ^ 288)
     (feeder grid).partial_ = true ∧ ((packs 0).partialPeer grid 0 .feeder).isSome = true ∧
       (packs 0).partialPeer grid 0 .feeder = some ((packs 0).gridEnt false 0) ∧ gValid ((packs 0).gridEnt false 0) = false ∧
       (let c := cch.setReg pgRte 0x1304 0x80000004 0
        gValid (c.gridEnt false 0) = true ∧ c.portUp (gPort0 (c.gridEnt false 0)) = true)) ∧
    (let own (k : Nat) : Coach := { x with ent := ent3 + BitVec.ofNat 512 (2 * k + 0x40 * 2 ^ 334) }
     eOp (own 1).ent = 1 ∧ eOp (own 2).ent = 2 ∧ (own 1).destEid = 0x40 ∧ eOp x.ent = 0 ∧ cch.livGroup 5 (0x40 / 64) = true ∧
       (cch.setReg pgLiv 0x1200 0 5).livGroup 5 1 = false ∧ cch.inDrain 0x40 = false ∧ cch.lookup 0x40 0 = .port 4 ∧
       { cch with rte := ready.rte }.lookup 0x40 0 = .miss ∧ (cch.setFlag (pgLnk 0) 0x1008 0 false 4).lookup 0x40 0 = .down) ∧
    (cch.livMc 5 ((packs 0).destGroup x 0) = true ∧ (cch.setReg pgLiv 0x100C 0x00070007 5).livMc 5 ((packs 0).destGroup x 0) = false) ∧
    ((∀ o ∈ ((packs 1).slot 2 9).outs, ((packs 1).slot 2 9).outSent.testBit o.2 = true) ∧ (packs 1).coachFrames 2 9 = false ∧
      x.td = 63 * 65536 ∧ (packs 1).paired 5 = false) ∧
    ((opened .folding 1).slot 2 9).evaluated = false ∧ ((opened .folding 1).slot 2 9).holdq = [] := by decide +kernel
/-- A PARTIAL whose port was recorded at creation and is up, is down, or was never valid; and the four ways in which the
route of an output that a drain held can stand. -/
theorem witness_OutputsMeetTheirPortsAndRoutes :
    let own (q : Option Nat) (x : Coach) : Coach := { x with role := .feeder, ent := ent3 + BitVec.ofNat 512 32, partialPort := q }
    let down := cch.setFlag (pgLnk 0) 0x1008 0 false 4
    (∀ q ∈ [some 4, none], ((packs 0 (own q)).slot 2 9).partialPort = q ∧ ((packs 0 (own q)).slot 2 9).partial_ = true) ∧
    (cch.portUp 4 = true ∧ down.portUp 4 = false) ∧
    (((packs 0).slot 2 9).phase = .packing ∧ ((opened .folding 1).slot 2 9).phase ≠ .packing ∧ (packs 0).lookup 0x40 0 = .port 4 ∧
      { packs 0 with rte := ready.rte }.lookup 0x40 0 = .miss ∧ (packs 0 id down).lookup 0x40 0 = .down ∧
      { packs 0 with rte := { ready.rte with routes := [(0x40, 0x10000011F)] } }.lookup 0x40 0 = .self) := by decide +kernel
/-- R141 and R292: an output that a drain held aborts its coach where its route has gone. -/
theorem test_released_output : let m := msgOf result
    (({ packs 0 with rte := ready.rte }.releaseOutput 2 9 m).slot 2 9).cause = 0x020B ∧
    (((packs 0).releaseOutput 2 9 m).slot 2 9).phase = .packing ∧
    (((packs 0).releaseOutput 2 9 m).egress 4).col.length = 1 := by decide +kernel
/-- R161: a PARTIAL leaves on the port recorded at creation. -/
theorem test_partial_port : let own (q : Option Nat) (x : Coach) : Coach := { x with role := .feeder, ent := ent3 + BitVec.ofNat 512 32, partialPort := q }
    ((go (packs 0 (own (some 4))) (.packerFirstFrame 2 9 0)).egress 4).col.length = 1 ∧
    ((go (packs 0 (own none)) (.packerFirstFrame 2 9 0)).slot 2 9).phase = .aborting := by decide +kernel
/-- R127: at its deadline a coach that still folds misses, a CLOSED one is freed; a finished coach closes. -/
theorem test_deadlines : let c := go (atTime (63 * 65536) (opened .folding 1)) (.deadlineMonitor 2)
    (c.slot 2 9).phase = .aborting ∧ (c.slot 2 9).cause = 0x0201 ∧ c.reg pgTtb 0x140C = 1 ∧
    ((go (atTime (63 * 65536) (opened .closed 1)) (.deadlineMonitor 2)).slot 2 9).phase = .free ∧
    ((go (packs 1) (.packerLastFrameSent 2 9)).slot 2 9).phase = .closed ∧
    ((go (atTime (63 * 65536) (packs 1)) (.packerLastFrameSent 2 9)).slot 2 9).phase = .free ∧
    (go (atTime (63 * 65536) (packs 1)) (.packerLastFrameSent 2 9)).reg pgTtb 0x1410 = 1 := by decide +kernel
/-- R105 and R141: the result leaves as one RESULT frame of 32 + 8 bytes and its header and trailer. -/
theorem test_result_frame : ((packs 0).outputFrames 2 9 0 two false 0x40).map (fun m => (hSub m.hdr, hLen m.hdr)) = [(2, 76)] ∧
    (let own : Coach → Coach := fun x => { x with ent := ent3 + BitVec.ofNat 512 (4 + 0x40 * 2 ^ 334) }
     let c := go (packs 0 own) (.packerFirstFrame 2 9 0)
     (c.slot 2 9).outSent = 1 ∧ (c.egress 4).col.map (fun m => hDst m.hdr) = [0x40]) := by decide +kernel

/-! Start-up, resets and register accesses -/

def phased (n : Nat) (c : Chip := ready) : Chip := c.setField pgPwr 0x1078 0 3 n
def grouped (g : Nat) (c : Chip) : Chip := { c with boot := { c.boot with railGroup := g } }
/-- Subarray 1 of a bank with one bit wrong in each of `n` rows, every one in a column of its own. -/
def badReads (n : Nat) : List MarchRead :=
  (List.range n).map (fun i => ⟨0, 1, 0, BitVec.ofNat 16 (16384 + 64 * i), BitVec.ofNat 137 (2 ^ i)⟩)
def finds (n : Nat) : BankFinding := ⟨8, 3, badReads n⟩
def findsM0 (n : Nat) : BankFinding := ⟨30, 3, badReads n⟩

theorem witness_ColdStartsRunInPhases :
    (∀ n < 5, (phased n).standbyUp = true ∧ (phased n).field pgPwr 0x1078 0 3 = n ∧ (phased n).pwr.vinLost = false ∧
      (phased n).pwr.tripped = false ∧ (phased n).boot.coldDue = none) ∧
    (ready.flag pgSec 0x1010 0 = false ∧ Chip.reset.flag pgSec 0x1010 0 = true ∧ ready.boot.m0Marched = false ∧
      ready.boot.standbyDone = true ∧ Chip.reset.boot.standbyDone = false ∧ ready.boot.railGroup = 0 ∧
      ready.boot.warmActive = false) ∧
    (∀ g < 5, (grouped g (phased 1)).boot.railGroup = g) ∧ (ready.dieFailed 8 = false ∧ bankExists 8 3 = true) ∧
    (spareCover (faultyBits 2 1 (badReads 10)) 8 2 = some (8, 2) ∧ spareCover (faultyBits 2 1 (badReads 11)) 8 2 = none ∧
      (∀ sub < 4, sub ≠ 1 → spareCover (faultyBits 2 sub (badReads 11)) 8 2 = some (0, 0))) ∧
    ((ready.finding (findsM0 11)).fenced 30 3 = true ∧ ∀ b < 8, (ready.finding (findsM0 10)).fenced 30 b = false) := by
  decide +kernel
/-- R431 and R432: STANDBY ends with the wipe, the rail groups follow one another, and the trained dies start the time. -/
theorem test_cold_start : (go (phased 0) .standbyComplete).field pgPwr 0x1078 0 3 = 1 ∧
    ((go (grouped 0 (phased 1)) .vin12Present).rail 8).on = true ∧
    (go (grouped 3 (phased 1)) .railGroupRamped).boot.railGroup = 4 ∧
    (go (phased 2 { ready with time := { ready.time with running := false } }) .trainComplete).time.running = true ∧
    (go (phased 2) .trainComplete).field pgPwr 0x1078 0 3 = 3 := by decide +kernel
/-- R220 and R437: 8 spare rows and 2 spare columns repair ten bad rows, and eleven fence the bank; R217: M0's march. -/
theorem test_findings : (ready.finding (finds 10)).sparesUsed 8 3 1 = (8, 2) ∧ (ready.finding (finds 10)).fenced 8 3 = false ∧
    (ready.finding (finds 11)).fenced 8 3 = true ∧
    (go (phased 3) (.marchPhaseComplete [finds 11])).field pgPwr 0x1078 0 3 = 4 ∧
    (go ready (.m0MarchDone [findsM0 10])).fw.bootWaiting = true ∧ (go ready (.m0MarchDone [findsM0 11])).fw.bootWaiting = false := by
  decide +kernel
theorem test_lane_tests : let c := go (phased 4) (.laneTestComplete [⟨0, 5⟩, ⟨0, 80⟩])
    (c.lanesAt 0).fenced.getLsbD 5 = true ∧ (c.lanesAt 0).mapped.getLsbD 81 = true ∧ c.field pgPwr 0x1078 0 3 = 5 := by
  decide +kernel

def due (s : ColdSource) (c : Chip := ready) : Chip := { c with boot := { c.boot with coldDue := some s } }
def warming (cleared low : Bool) : Chip :=
  { ready with boot := { ready.boot with warmActive := true, warmCleared := cleared, warmLow := low } }

theorem witness_ResetsAreAskedAndRun :
    (2 ≤ (inLife 2 ready).sec.life ∧ ColdSource.pin ≠ .vin3v3 ∧ ColdSource.register ≠ .pin) ∧
    (let c := (inLife 1 (ready.setFlag pgSec 0x1018 8 true))
     let d := { c with sec := { c.sec with tap := .other } }
     d.sec.tap = .other ∧ d.sec.life = 1 ∧ d.flag pgSec 0x1018 8 = true ∧ ready.sec.tap ≠ .other) ∧
    (ready.field pgPwr 0x1078 0 3 = 5 ∧ ready.boot.warmActive = false ∧ ready.boot.pwronLow = false ∧
      ready.boot.coldDue = none ∧ ready.pwr.tripped = false ∧ (phased 4).field pgPwr 0x1078 0 3 ≠ 5) ∧
    ((due .pin).boot.coldDue = some .pin ∧ (due .pin).standbyUp = true ∧
      { ready with pwr := { ready.pwr with tripped := true } }.pwr.cooled = false ∧ ready.junction 30 ≤ 480 ∧
      ready.junction 31 ≤ 480) ∧
    (ready.boot.vin3v3 = true ∧ { ready with boot := { ready.boot with pwronLow := true } }.boot.pwronLow = true) ∧
    (ready.serves pgPwr = true ∧ fld (0xC0A70001 : W32) 16 16 = 0xC0A7 ∧ (0xC0A70001 : W32).getLsbD 0 = true ∧
      (0xC0A70001 : W32).getLsbD 3 = false ∧ (ready.setReg pgLiv 0x1004 1 9).livValid 9 = true ∧
      (List.range 256).all (fun l => !ready.livValid l) = true ∧ fld (0xC0A60001 : W32) 16 16 ≠ 0xC0A7) ∧
    ((warming true false).boot.warmCleared = true ∧ (warming true false).standbyUp = true ∧
      (warming true false).boot.coldDue = none ∧ (warming true true).boot.warmLow = true ∧ mainPage pgRte = true) := by
  decide +kernel
/-- R442 to R446: a warm reset by register is refused while a livery is valid, unless FORCE is set; one that is due runs. -/
theorem test_resets : (go ready (.pwrRstWarm 0xC0A70001)).boot.warmActive = true ∧
    (go (ready.setReg pgLiv 0x1004 1 9) (.pwrRstWarm 0xC0A70001)).flag pgPwr 0x1074 4 = true ∧
    (go (ready.setReg pgLiv 0x1004 1 9) (.pwrRstWarm 0xC0A70009)).boot.warmActive = true ∧
    (go ready (.pwrRstCold 0xC0A70002)).boot.coldDue = some .register ∧
    (go (due .pin) (.coldStart .pin)).field pgPwr 0x1074 0 4 = 1 ∧ (go ready (.coldStart .pin)) = ready := by decide +kernel

def wr (page off : Nat) : BitVec 26 := BitVec.ofNat 26 (page * 65536 + off)

theorem witness_RegisterAccessesFollowTheRules :
    ((wr pgLiv 0x1004).toNat / 65536 = pgLiv ∧ (wr pgLiv 0x1004).toNat % 65536 = 0x1004 ∧ ready.serves pgLiv = true ∧
      Chip.reset.serves pgLiv = false ∧ (pageOf pgLiv).isSome = true ∧ pgLiv ≠ 0x3FF) ∧
    ((pageOf pgLiv).all (fun x => (rowOf x.1 0x1004).isSome && (rowOf x.1 0xFF00).isNone)) = true ∧
    ((wr 0x3FF 0x5C).toNat / 65536 = 0x3FF ∧ ready.m0Up = true ∧ (0x5C : Nat) / 4 % 4 = 3 ∧
      { ready.ev with msixPend := 0x20 }.msixPend.getLsbD (0x5C / 4 / 4) = true) ∧
    ((3 : BitVec 4) ≠ 15 ∧ (6 : Nat) % 4 ≠ 0) := by decide +kernel
/-- R5 to R8: an access with fewer than four bytes, or that is not aligned, is counted and has no effect. -/
theorem test_register_accesses : (go ready (.registerWrite (wr pgLiv 0x1000) 3 9)).reg pgLiv 0x20 = 1 ∧
    (go ready (.registerWrite (wr pgLiv 0x1002) 15 9)).reg pgLiv 0x20 = 1 ∧
    (go ready (.registerWrite (wr pgLiv 0x1000) 15 9)).reg pgLiv 0x1000 = 9 ∧
    (go ready (.registerReadAccessError (wr pgLiv 0x1002) 15)).reg pgLiv 0x20 = 1 := by decide +kernel

theorem witness_FusesMoveOneWayOnEveryStep : step State.reset = .next State.reset ∨ ∃ t, step State.reset = .next t := by
  exact .inr ⟨_, rfl⟩

/-! Numbers -/

/-- R40: E2M3 code 0x34 is -3.0; R46: BX4 with scale 0x7C reads 0111 as 0.75 and 1101 as -0.375. -/
theorem test_small_formats : (decodeCode 7 0x34).v = -3 * 2 ^ 168 ∧ 4 * (elemOf 11 (0x7C + 0x7 * 2 ^ 64) 0).v = 3 * 2 ^ 168 ∧
    8 * (elemOf 11 (0x7C + 0xD * 2 ^ 64) 0).v = -3 * 2 ^ 168 := by decide +kernel
/-- R93: the output of vector 2 (vector 1 does not follow R91; see the log). -/
theorem test_krg : krg 0x0000248000001160 1029 77 3 = 0x9FE4DF02 := by decide +kernel
/-- R93's worked example: 1.0625 to E4M3 is 1.125 under SR with the draw 0x00E98B07, and 1.0 under RNE. -/
theorem test_stochastic_rounding : roundFp fpE4m3 17 (-4) 2 0x00E98B07 = 0x39 ∧ roundFp fpE4m3 17 (-4) 0 0 = 0x38 := by
  decide +kernel
theorem witness_StochasticRoundingFollowsItsDraw : (-4 : Int) < -3 ∧ roundTo 17 (-4) (-3) 2 0x00E98B07 = 17 / 2 ^ 1 + 1 ∧
    (1 : W32).toNat < 1 * 2 ^ 32 / 2 ^ 1 ∧ roundFp fpE4m3 17 (-4) 2 0x00E98B07 ≤ fpE4m3.maxCode := by decide +kernel
/-- R264: the CRC of the ASCII digits 1 to 9. -/
theorem test_crc32 : crc32 [0x31, 0x32, 0x33, 0x34, 0x35, 0x36, 0x37, 0x38, 0x39] = 0xCBF43926 := by decide +kernel
/-- R140 and its example: SHARD_STRIDE 1 and SHARD_CHUNKS 8 send chunk 1,000 to EID 0x4000 + 125. -/
theorem test_shard_eid : { Coach.empty with chunk := 1000, ent := BitVec.ofNat 512 (2 + 0x4000 * 2 ^ 334 + 2 ^ 352 + 8 * 2 ^ 384) }.destEid
    = 0x407D := by decide +kernel
/-- R449's worked example: the balls of lane 682. -/
theorem test_lane_balls : laneBall 682 true true = (103, 44) ∧ laneBall 682 true false = (103, 43) ∧
    laneBall 682 false true = (92, 44) ∧ laneBall 682 false false = (92, 43) ∧
    ballSignal 103 44 = .laneTx 682 true ∧ ballSignal 103 42 = .gnd ∧ ballSignal 92 43 = .laneRx 682 false ∧
    ballSignal 32 58 = .signal "THERMTRIP_N" ∧ ballSignal 35 35 = .vin12 := by decide +kernel
/-- R462: the fields of IDCODE give the word. -/
theorem test_idcode : TapInstr.word .idcode = some 0x12480A5F := by decide
/-- 06's worked example: T(1,029) with ANCHOR_STEP 1,000, ANCHOR_TIME 0x0000012000000000 and a cycle of 8,192 slots. -/
theorem test_step_time : (((ready.setReg pgTtb 0x1214 0x120 42).setReg pgTtb 0x1218 1000 42).setReg pgTtb 0x1220 8192 42).governs 42 1029
    = some (false, 0x00000123A0000000, 8192) := by decide +kernel

end Sys2Proof.Tests
end

section
/-! The status flags that the alert causes follow (R463, R464): which updates leave them alone. -/

namespace Sys2Proof.Machine

/-! The status word -/

/-- Where the status flags are as they were, settling the alert causes changes nothing. -/
theorem Chip.settleAlerts_of_status {a b : Chip} (h : b.smbStatusWord = a.smbStatusWord) : Chip.settleAlerts a b = b := by
  unfold Chip.settleAlerts
  simp [h]

theorem State.run_eq_after (s : State) (f : Chip → Chip) : s.run f = .next (s.after (f s.chip)) := rfl

/-- A meaning that leaves the status flags alone answers the part it computes. -/
theorem State.run_eq_put {s : State} {f : Chip → Chip} (h : (f s.chip).smbStatusWord = s.chip.smbStatusWord) :
    s.run f = .next (s.put (f s.chip)) := by
  rw [State.run_eq_after, State.after, Chip.settleAlerts_of_status h, State.put]

/-- A meaning that leaves the part alone answers the state it was given. -/
theorem State.run_eq_self {s : State} {f : Chip → Chip} (h : f s.chip = s.chip) : s.run f = .next s := by
  rw [State.run_eq_put (by rw [h]), h, State.put]

/-- The status flags stand in the fatal flag and in five registers of the pages PWR, THM and SEC. -/
theorem Chip.smbStatusWord_congr {a b : Chip} (hf : b.flt.fatal = a.flt.fatal)
    (hr : ∀ page ∈ [pgPwr, pgThm, pgSec], ∀ off < 0x10000, b.reg page off = a.reg page off) :
    b.smbStatusWord = a.smbStatusWord := by
  have h1 := hr pgPwr (by decide) 0x1004 (by decide)
  have h2 := hr pgPwr (by decide) 0x1008 (by decide)
  have h3 := hr pgPwr (by decide) 0x1078 (by decide)
  have h4 := hr pgThm (by decide) 0x100C (by decide)
  have h5 := hr pgSec (by decide) 0x1004 (by decide)
  simp only [Chip.smbStatusWord, Chip.phase, Chip.flag, Chip.field, hf, h1, h2, h3, h4, h5]
  congr

variable (c : Chip)

theorem Chip.smbStatusWord_setReg {page off : Nat} (v : W32) (inst : Nat) (hl : pgSec < page) (hp : page < 0x400)
    (ho : off < 0x10000) : (c.setReg page off v inst).smbStatusWord = c.smbStatusWord := by
  refine Chip.smbStatusWord_congr rfl fun q hq o h => c.reg_setReg_page v ho h hp ?_ ?_
  all_goals
    simp only [List.mem_cons, List.not_mem_nil, or_false, pgPwr, pgThm, pgSec] at hq hl
    omega

theorem Chip.smbStatusWord_bumpN {page off : Nat} (n inst : Nat) (hl : pgSec < page) (hp : page < 0x400)
    (ho : off < 0x10000) : (c.bumpN page off n inst).smbStatusWord = c.smbStatusWord :=
  c.smbStatusWord_setReg _ inst hl hp ho

theorem Chip.smbStatusWord_bump {page off : Nat} (inst : Nat) (hl : pgSec < page) (hp : page < 0x400)
    (ho : off < 0x10000) : (c.bump page off inst).smbStatusWord = c.smbStatusWord :=
  c.smbStatusWord_setReg _ inst hl hp ho

@[simp] theorem Chip.smbStatusWord_setLink (p : Nat) (l : Link) : (c.setLink p l).smbStatusWord = c.smbStatusWord := rfl
@[simp] theorem Chip.smbStatusWord_setEgress (p : Nat) (e : Egress) :
    (c.setEgress p e).smbStatusWord = c.smbStatusWord := rfl
@[simp] theorem Chip.smbStatusWord_activeFrame (p l n : Nat) : (c.activeFrame p l n).smbStatusWord = c.smbStatusWord := rfl

theorem Chip.smbStatusWord_violation (l cause : Nat) (p : Option Nat) :
    (c.violation l cause p).smbStatusWord = c.smbStatusWord := by
  unfold Chip.violation
  rw [Chip.smbStatusWord_setReg _ _ _ (by decide) (by decide) (by decide),
    Chip.smbStatusWord_bump _ _ (by decide) (by decide) (by decide)]

/-! The pages of a port die -/

theorem portDie_lt {p : Nat} (hp : p < 1024) : portDie p < 8 := by unfold portDie; omega

theorem pgLnk_bounds {d : Nat} (hd : d < 8) : pgSec < pgLnk d ∧ pgLnk d < 0x400 := by
  unfold pgSec pgLnk; omega

theorem pgMem_dieP_bounds {d : Nat} (hd : d < 8) : pgSec < pgMem (dieP d) ∧ pgMem (dieP d) < 0x400 := by
  unfold pgMem dieP; rw [if_pos hd]; unfold pgSec pgMemP; omega

theorem Chip.smbStatusWord_countTail {p : Nat} (f : Frame) (hp : p < 1024) :
    (c.countTail p f).smbStatusWord = c.smbStatusWord := by
  obtain ⟨hl, hh⟩ := pgLnk_bounds (portDie_lt hp)
  have hn := c.smbStatusWord_bumpN (off := 0x110C) f.fecUncorr 0 hl hh (by decide)
  have hb : ∀ (d : Chip) (off : Nat), off < 0x10000 → (d.bumpLnk p off).smbStatusWord = d.smbStatusWord :=
    fun d off ho => d.smbStatusWord_bump 0 hl hh ho
  unfold Chip.countTail
  split
  · exact hn
  · exact (hb _ _ (by decide)).trans hn
  · split
    · exact hn
    · exact (hb _ _ (by decide)).trans hn

/-- Steps 1 to 4 of R21 leave the status flags alone. -/
theorem Chip.smbStatusWord_heard {p : Nat} (f : Frame) (hp : p < 1024) :
    (c.heard p f).smbStatusWord = c.smbStatusWord := by
  obtain ⟨hl, hh⟩ := pgMem_dieP_bounds (portDie_lt hp)
  have hr : (c.received p (workLivery f.hdr) (f.body.length + 36)).smbStatusWord = c.smbStatusWord := rfl
  unfold Chip.heard
  rw [Chip.smbStatusWord_bumpN _ _ _ hl hh (by decide), Chip.freeCredits, Chip.smbStatusWord_setLink]
  split
  · rw [Chip.smbStatusWord_setLink]
  · rw [Chip.smbStatusWord_countTail _ _ hp, hr]

end Sys2Proof.Machine
end

section
/-! Reception by the command of a frame's class: what each such command runs, and what steps 4 and 5 of R21 make of a
frame that goes no further. -/

namespace Sys2Proof.Machine

/-! Reception -/

/-- A frame of a command's kind whose tail has not come stands in reception. -/
theorem Chip.receive_part {c : Chip} {p : Nat} {f : Frame} {kind : BitVec 256 → Bool} (body : TailSt → Chip → Chip)
    (hr : c.rxOn p = true) (hn : c.narjo p = true) (hu : c.linkUp p = true) (hk : kind f.hdr = true)
    (hw : f.whole = false) : c.receive p f kind body = c.inReception p f := by
  simp [Chip.receive, hr, hn, hu, hk, hw]

/-- An unsequenced frame with a good header reaches the command's own effect, whatever its tail. -/
theorem Chip.receive_unsequenced {c : Chip} {p : Nat} {f : Frame} {kind : BitVec 256 → Bool}
    (body : TailSt → Chip → Chip) (hr : c.rxOn p = true) (hn : c.narjo p = true) (hu : c.linkUp p = true)
    (ho : hdrOk f.hdr = true) (hc : hdrClassOk f.hdr = true) (hs : hdrSequenced f.hdr = false) (hw : f.whole = true)
    (hb : f.buf.bad = none) (hk : kind f.hdr = true) : c.receive p f kind body = body (tailOf f) (c.heard p f) := by
  simp [Chip.receive, Chip.heard, Chip.ingressRead, hr, hn, hu, ho, hc, hs, hw, hb, hk]

/-! Step 5 of R21 -/

/-- A frame that fails a livery check is a violation with that check's number. -/
theorem Chip.step5_fails {c : Chip} {p : Nat} {f : Frame} (k : Chip → Chip) (hp : p < 1024)
    (ht : c.tornDown (hLiv f.hdr) = false) (hk : c.livCheck p f.hdr f.body false ≠ 0) :
    (c.heard p f).step5 p f.hdr f.body false k =
      (c.heard p f).violation (hLiv f.hdr) (c.livCheck p f.hdr f.body false) (some p) := by
  obtain ⟨e1, e2⟩ := Chip.heard_checks (c := c) (f := f) hp
  unfold Chip.step5
  rw [e1, e2, ht]
  simp only [Bool.false_and, Bool.false_eq_true, if_false]

/-- A frame other than Memory, a wave or a notice is counted as discarded where its livery is torn down. -/
theorem Chip.step5_tornDown {c : Chip} {p : Nat} {f : Frame} (k : Chip → Chip) (hp : p < 1024)
    (ht : c.tornDown (hLiv f.hdr) = true) (hm : hClass f.hdr ≠ 1) (hw : ¬ (hClass f.hdr = 3 ∧ hSub f.hdr < 2)) :
    (c.heard p f).step5 p f.hdr f.body false k = (c.heard p f).bump pgRte 0x1814 := by
  obtain ⟨e1, _⟩ := Chip.heard_checks (c := c) (f := f) hp
  have ha : tdAnswered f.hdr = false := by simp [tdAnswered, clsMemory, hm]
  unfold Chip.step5
  rw [e1, ht, if_pos (by simp only [clsControl, hw]; rfl), Chip.tdDiscard, Chip.tdAnswer, if_neg (by simp [ha])]

/-! The commands -/

/-- The command `i` receives the Narjo frame `f` of its class on port `p` and takes it through step 5 of R21; `kind` tells
its frames by their header, and `k` is its own effect. -/
def Receives (i : Instr) (p : Nat) (f : Frame) (kind : BitVec 256 → Bool) (k : TailSt → Chip → Chip) : Prop :=
  kind f.hdr = true ∧
    ∀ s, exec i s = s.run fun c => c.receive p f kind fun t c => c.step5 p f.hdr f.body false (k t)

/-- A Memory frame's own effect: a PUT with STAGE 0 goes no further (R263). -/
def Chip.memoryOn (c : Chip) (p : Nat) (f : Frame) (age : Nat) (t : TailSt) : Chip :=
  if hSub f.hdr = 4 ∧ mStage (memHdrOf f.body) = 0 then (if t = .good then c.bumpLnk p 0x1100 else c)
  else c.forwardAny p f age t

section
variable {p : LPort} {f : Frame} {age : Nat}

theorem receives_memoryFrame (hc : hClass f.hdr = 1) (hm : isMcPut f.hdr = false) (hq : isCtrCpl f = false) :
    ∃ kind, Receives (.memoryFrame p f age) p f kind (fun t c => c.memoryOn p f age t) :=
  ⟨fun h => decide (hClass h = clsMemory) && !isMcPut h && !isCtrCpl f, by simp [hc, hm, hq, clsMemory], fun _ => rfl⟩

theorem receives_bulkFrame (hc : hClass f.hdr = 2) :
    ∃ kind, Receives (.bulkFrame p f age) p f kind (fun t c => c.forwardAny p f age t) :=
  ⟨fun h => decide (hClass h = clsBulk), by simp [hc, clsBulk], fun _ => rfl⟩

theorem receives_controlFrameForward (hc : hClass f.hdr = 3) (h1 : 1 ≤ hSub f.hdr) (h4 : hSub f.hdr ≤ 4) :
    ∃ kind, Receives (.controlFrameForward p f age) p f kind (fun t c => c.forwardAny p f age t) :=
  ⟨fun h => decide (hClass h = clsControl ∧ 1 ≤ hSub h ∧ hSub h ≤ 4), by simp [hc, h1, h4, clsControl], fun _ => rfl⟩

theorem receives_resultFrame (hc : hClass f.hdr = 0) (h2 : 2 ≤ hSub f.hdr) :
    ∃ kind, Receives (.resultFrame p f age) p f kind (fun t c => c.forwardAny p f age t) :=
  ⟨fun h => decide (hClass h = clsCollective ∧ 2 ≤ hSub h), by simp [hc, h2, clsCollective], fun _ => rfl⟩

theorem receives_memoryPut (hm : isMcPut f.hdr = true) : ∃ kind k, Receives (.memoryPut p f age) p f kind k :=
  ⟨_, _, hm, fun _ => rfl⟩

theorem receives_putCompletion (hq : isCtrCpl f = true) : ∃ kind k, Receives (.putCompletion p f age) p f kind k :=
  ⟨_, fun t c => if t = .good then
      (c.atDispatch (Msg.arrived p.val f.hdr f.body (c.stampOf age)) t).2.putAnswered p.val f else c,
    hq, fun _ => rfl⟩

theorem receives_digestRecordsRx (hc : hClass f.hdr = 3) (h7 : hSub f.hdr = 7) :
    ∃ kind k, Receives (.digestRecordsRx p f age) p f kind k :=
  ⟨fun h => decide (hClass h = clsControl ∧ hSub h = 7),
    fun t c => if t = .good ∧ c.pairPort = some p.val ∧ pairMode c ≠ 0 then
        forAll (recordsOf 32 f.body) (c.mirrorIn false none (Msg.arrived p f.hdr f.body (c.stampOf age)))
          (fun w c => c.digAdd w false) else c,
    by simp [hc, h7, clsControl], fun _ => rfl⟩

theorem receives_abortWaveRx (hc : hClass f.hdr = 3) (h0 : hSub f.hdr = 0) :
    ∃ kind k, Receives (.abortWaveRx p f age) p f kind k :=
  ⟨fun h => decide (hClass h = clsControl ∧ hSub h = 0),
    fun t c => if t = .good then (c.mirrorIn false none (Msg.arrived p.val f.hdr f.body (c.stampOf age))).waveTake
        (Msg.arrived p.val f.hdr f.body (c.stampOf age)) else c,
    by simp [hc, h0, clsControl], fun _ => rfl⟩

variable {i : Instr} {s : State} {kind : BitVec 256 → Bool} {k : TailSt → Chip → Chip}

/-- What the part becomes at a command that receives a frame, where that leaves the status flags alone. -/
theorem Receives.exec_eq_put (h : Receives i p f kind k) {d : Chip}
    (hd : s.chip.receive p f kind (fun t c => c.step5 p f.hdr f.body false (k t)) = d)
    (hw : d.smbStatusWord = s.chip.smbStatusWord) : exec i s = .next (s.put d) := by
  rw [h.2 s, State.run_eq_put (by rw [hd]; exact hw), hd]

theorem Receives.exec_other (h : Receives i p f kind k)
    (hr : s.chip.rxOn p = false ∨ s.chip.narjo p = false ∨ s.chip.linkUp p = false) : exec i s = .next s := by
  rw [h.2 s]
  refine State.run_eq_self (Chip.receive_other _ _ _ _ _ ?_)
  tauto

theorem Receives.exec_part (h : Receives i p f kind k) (hr : s.chip.rxOn p = true) (hn : s.chip.narjo p = true)
    (hu : s.chip.linkUp p = true) (hw : f.whole = false) : exec i s = .next (s.put (s.chip.inReception p f)) :=
  h.exec_eq_put (Chip.receive_part _ hr hn hu h.1 hw) rfl

/-- A frame that reaches step 5 and fails a check there is a violation, and nothing else changes. -/
theorem Receives.exec_violation (h : Receives i p f kind k)
    (hb : ∃ t, ∀ body, s.chip.receive p f kind body = body t (s.chip.heard p f))
    (ht : s.chip.tornDown (hLiv f.hdr) = false) (hk : s.chip.livCheck p f.hdr f.body false ≠ 0) :
    exec i s = .next (s.put
      ((s.chip.heard p f).violation (hLiv f.hdr) (s.chip.livCheck p f.hdr f.body false) (some p.val))) := by
  obtain ⟨t, hb⟩ := hb
  refine h.exec_eq_put ((hb _).trans (Chip.step5_fails _ p.isLt ht hk)) ?_
  rw [Chip.smbStatusWord_violation, Chip.smbStatusWord_heard _ _ p.isLt]

theorem Receives.exec_tornDown (h : Receives i p f kind k) (hh : s.chip.hears p f)
    (ht : s.chip.tornDown (hLiv f.hdr) = true) (hm : hClass f.hdr ≠ 1) (hw : ¬ (hClass f.hdr = 3 ∧ hSub f.hdr < 2)) :
    exec i s = .next (s.put ((s.chip.heard p f).bump pgRte 0x1814)) := by
  refine h.exec_eq_put ((Chip.receive_hears _ _ _ _ _ hh h.1).trans (Chip.step5_tornDown _ p.isLt ht hm hw)) ?_
  rw [Chip.smbStatusWord_bump _ _ (by decide) (by decide) (by decide), Chip.smbStatusWord_heard _ _ p.isLt]

/-- A good frame that passes step 5 meets the command's own effect. -/
theorem Receives.exec_passes (h : Receives i p f kind k) (hh : s.chip.hears p f) (hp : s.chip.passes p f) :
    exec i s = s.run fun _ => k .good (s.chip.heard p f) := by
  rw [h.2 s, State.run_eq_after, State.run_eq_after, Chip.receive_hears _ _ _ _ _ hh h.1,
    Chip.step5_passes _ _ _ _ p.isLt hp]
end

/-- Settles O29: each of the commands receives its frame in one form, and no check of step 5 looks at the tail. -/
theorem framesThatFailTheirChecksStop : Obligations.FramesThatFailTheirChecksStop := by
  unfold Obligations.FramesThatFailTheirChecksStop
  intro s p f age i hi
  obtain ⟨kind, k, h⟩ : ∃ kind k, Receives i p f kind k := by
    rcases hi with ⟨rfl, hc, hm, hq⟩ | ⟨rfl, hm⟩ | ⟨rfl, hq⟩ | ⟨rfl, hc⟩ | ⟨rfl, hc, h1, h4⟩ | ⟨rfl, hc, h2⟩ |
      ⟨rfl, hc, h7⟩ | ⟨rfl, hc, h0⟩
    · exact (receives_memoryFrame hc hm hq).imp fun _ h => ⟨_, h⟩
    · exact receives_memoryPut hm
    · exact receives_putCompletion hq
    · exact (receives_bulkFrame hc).imp fun _ h => ⟨_, h⟩
    · exact (receives_controlFrameForward hc h1 h4).imp fun _ h => ⟨_, h⟩
    · exact (receives_resultFrame hc h2).imp fun _ h => ⟨_, h⟩
    · exact receives_digestRecordsRx hc h7
    · exact receives_abortWaveRx hc h0
  refine ⟨h.exec_other, ?_, h.exec_tornDown, ?_, h.exec_part⟩
  · rintro _ hh ht rfl hk
    exact h.exec_violation ⟨.good, fun _ => Chip.receive_hears _ _ _ _ _ hh h.1⟩ ht hk
  · rintro _ hr hn hu ho hc hs hw hb _ ht rfl hk
    exact h.exec_violation ⟨tailOf f, fun _ => Chip.receive_unsequenced _ hr hn hu ho hc hs hw hb h.1⟩ ht hk

end Sys2Proof.Machine
end

section
/-! Frames that are forwarded (R21 steps 6 and 7): what reception leaves of the routes, what the flow table and HOPS leave
of a frame, and where a frame that is placed on a port goes. -/

namespace Sys2Proof.Machine

/-! What steps 1 to 4 of R21 leave -/

variable (c : Chip) (p : Nat) (f : Frame)

theorem Chip.countTail_regs : ∃ r, c.countTail p f = { c with regs := r } := by
  unfold Chip.countTail
  split
  · exact ⟨_, rfl⟩
  · exact ⟨_, rfl⟩
  · split <;> exact ⟨_, rfl⟩

/-- Reception changes registers, the link of the port and the activity counts. -/
theorem Chip.heard_rest : ∃ r x a, c.heard p f = { c with regs := r, port := x, act := a } := by
  unfold Chip.heard
  split
  · exact ⟨_, _, _, rfl⟩
  · obtain ⟨r, hr⟩ := Chip.countTail_regs (c.received p (workLivery f.hdr) (f.body.length + 36)) p f
    rw [hr]
    exact ⟨_, _, _, rfl⟩

@[simp] theorem Chip.heard_rte : (c.heard p f).rte = c.rte := by
  obtain ⟨_, _, _, h⟩ := c.heard_rest p f
  rw [h]

@[simp] theorem Chip.heard_time : (c.heard p f).time = c.time := by
  obtain ⟨_, _, _, h⟩ := c.heard_rest p f
  rw [h]

@[simp] theorem Chip.heard_flt : (c.heard p f).flt = c.flt := by
  obtain ⟨_, _, _, h⟩ := c.heard_rest p f
  rw [h]

@[simp] theorem Chip.heard_inDrain (dst : Nat) : (c.heard p f).inDrain dst = c.inDrain dst := by
  simp only [Chip.inDrain, Chip.heard_rte]

@[simp] theorem Chip.heard_lostOf (l : Nat) : (c.heard p f).lostOf l = c.lostOf l := by
  simp only [Chip.lostOf, Chip.heard_rte]

variable {c p f}

/-- Reception counts in LNK 0x1108, 0x110C, 0x1110 and in MEM 0x1104 alone. -/
theorem Chip.heard_reg_uncounted (hp : p < 1024) {page off : Nat} (inst : Nat) (hq : page < 0x400) (ho : off < 0x10000)
    (hk : off ∉ [0x1104, 0x1108, 0x110C, 0x1110]) : (c.heard p f).reg page off inst = c.reg page off inst := by
  simp only [List.mem_cons, List.not_mem_nil, or_false, not_or] at hk
  obtain ⟨k1, k2, k3, k4⟩ := hk
  obtain ⟨_, hl⟩ := pgLnk_bounds (portDie_lt hp)
  obtain ⟨_, hm⟩ := pgMem_dieP_bounds (portDie_lt hp)
  have hb : ∀ (d : Chip) (pg o n : Nat), pg < 0x400 → o < 0x10000 → off ≠ o →
      (d.bumpN pg o n).reg page off inst = d.reg page off inst := fun d pg o n h1 h2 h3 =>
    d.reg_setReg_other _ fun e => h3 (regKey_inj hq ho h1 h2 e).2.1
  have ht : ∀ d : Chip, (d.countTail p f).reg page off inst = d.reg page off inst := fun d => by
    have h1 := hb d _ 0x110C f.fecUncorr hl (by decide) k3
    unfold Chip.countTail
    split
    · exact h1
    · exact (hb _ _ _ _ hl (by decide) k4).trans h1
    · split
      · exact h1
      · exact (hb _ _ _ _ hl (by decide) k2).trans h1
  unfold Chip.heard
  refine (hb _ _ _ _ hm (by decide) k1).trans ?_
  split
  · rfl
  · exact ht _

theorem Chip.setLink_aligned (d : Chip) {l : Link} (q : Nat) (h : l.aligned = (d.link p).aligned) :
    ((d.setLink p l).link q).aligned = (d.link q).aligned := by
  by_cases e : q = p
  · rw [e, Chip.link_setLink, h]
  · rw [Chip.link_setLink_other _ _ e]

theorem Chip.heard_aligned (q : Nat) : ((c.heard p f).link q).aligned = (c.link q).aligned := by
  have hf : ∀ d : Chip, ((d.freeCredits p (hVl f.hdr) (hLen f.hdr)).link q).aligned = (d.link q).aligned :=
    fun d => d.setLink_aligned q rfl
  have hr : ((c.received p (workLivery f.hdr) (f.body.length + 36)).link q).aligned = (c.link q).aligned :=
    c.setLink_aligned q rfl
  unfold Chip.heard
  refine (hf _).trans ?_
  split
  · exact c.setLink_aligned q rfl
  · obtain ⟨r, h⟩ := Chip.countTail_regs (c.received p (workLivery f.hdr) (f.body.length + 36)) p f
    rw [h]; exact hr

/-- Reception leaves every port up or down as it was. -/
theorem Chip.heard_portUp (hp : p < 1024) (q : Nat) : (c.heard p f).portUp q = c.portUp q := by
  by_cases hq : q < 1024
  · have hd : portDie q < 8 := portDie_lt hq
    have hphys : physOf q / 32 < 8 := by unfold physOf; omega
    have hcfg : (c.heard p f).prtCfg (physOf q) = c.prtCfg (physOf q) := by
      refine Chip.heard_reg_uncounted hp 0 ?_ ?_ ?_
      · unfold pgPrt; omega
      · unfold prtCfgOff; omega
      · simp only [List.mem_cons, List.not_mem_nil, or_false, prtCfgOff]; omega
    have hlnk : ∀ off inst, off ∈ [0x1004, 0x1008] →
        (c.heard p f).reg (pgLnk (portDie q)) off inst = c.reg (pgLnk (portDie q)) off inst := fun off inst ho => by
      simp only [List.mem_cons, List.not_mem_nil, or_false] at ho
      refine Chip.heard_reg_uncounted hp inst (pgLnk_bounds hd).2 (by omega) ?_
      simp only [List.mem_cons, List.not_mem_nil, or_false]; omega
    have hbank : (c.heard p f).reg (pgMemP (portDie q)) 0x1040 = c.reg (pgMemP (portDie q)) 0x1040 :=
      Chip.heard_reg_uncounted hp 0 (by unfold pgMemP; omega) (by decide) (by decide)
    unfold Chip.portUp Chip.portWorks Chip.enabled Chip.inUse Chip.split Chip.dieFailed Chip.portBank Chip.linkUp
      Chip.narjo Chip.flag
    rw [hcfg, hlnk _ _ (by decide), hlnk _ _ (by decide), hbank, Chip.heard_flt, Chip.heard_aligned]
  · simp [Chip.portUp, Chip.portWorks, Chip.enabled, Chip.inUse, hq]

/-- Reception leaves every route as it was. -/
theorem Chip.heard_lookup (hp : p < 1024) (cls : Nat) :
    (c.heard p f).lookup (hDst f.hdr) cls = c.lookup (hDst f.hdr) cls := by
  have hg : dgOf (hDst f.hdr) / 32 < 128 := by
    have := fld_lt f.hdr 198 18
    unfold dgOf hDst; omega
  have hup : (c.heard p f).portUp = c.portUp := funext (Chip.heard_portUp hp)
  have he : (c.heard p f).routeEnt ((c.heard p f).dgBank (dgOf (hDst f.hdr))) (hDst f.hdr) =
      c.routeEnt (c.dgBank (dgOf (hDst f.hdr))) (hDst f.hdr) := by
    unfold Chip.routeEnt Chip.dgBank Chip.flag
    rw [Chip.heard_rte, Chip.heard_reg hp 0 (by omega) (.inr rfl)]
  unfold Chip.lookup
  rw [he, hup]

/-! What the flow table and HOPS leave of a frame -/

/-- A frame with another header of the same class and livery. -/
def Msg.Rewritten (m x : Msg) : Prop :=
  ∃ h, x = { m with hdr := h } ∧ hClass h = hClass m.hdr ∧ hLiv h = hLiv m.hdr

theorem Chip.flowOf_rewritten (m : Msg) : m.Rewritten (c.flowOf m).1.msg := by
  have same : m.Rewritten m := ⟨m.hdr, rfl, rfl, rfl⟩
  have tc : ∀ v, m.Rewritten { m with hdr := putFld m.hdr 161 4 v } := fun v =>
    ⟨_, rfl, fld_putFld_other _ _ _ _ _ _ (by omega), fld_putFld_other _ _ _ _ _ _ (by omega)⟩
  unfold Chip.flowOf
  split
  · simp only [Chip.flowLookup]
    split
    · exact same
    · dsimp only
      split
      · exact tc _
      · exact same
  · exact same

theorem Msg.Rewritten.hop {m x : Msg} (h : m.Rewritten x) : m.Rewritten x.hop := by
  obtain ⟨h', rfl, hc, hl⟩ := h
  exact ⟨_, rfl, (fld_putFld_other _ _ _ _ _ _ (by omega)).trans hc, (fld_putFld_other _ _ _ _ _ _ (by omega)).trans hl⟩

/-! A frame goes to its egress port (R274, R306) -/

@[simp] theorem Chip.dropCells_nil : c.dropCells [] = c := rfl

variable {k k' : Chip} {q : Nat} {x : Msg}

/-- A frame that this device received and that it holds no cells for. -/
def Msg.Fresh (x : Msg) : Prop := x.inPort ≠ 1024 ∧ x.cells = [] ∧ x.tail = 0

/-- Whether a frame goes cut-through (R274). -/
def Chip.cuts (k : Chip) (q : Nat) (x : Msg) : Prop := (hClass x.hdr = 1 ∨ hClass x.hdr = 2) ∧ k.mayCut q x = true

theorem Chip.place_refused (hx : x.Fresh) (hl : k.livPort (hLiv x.hdr) q = false) :
    k.place q x .good = k.violation (hLiv x.hdr) 9 (some q) := by
  obtain ⟨_, hc, _⟩ := hx
  simp [Chip.place, hl, hc]

theorem Chip.place_cut (hx : x.Fresh) (hl : k.livPort (hLiv x.hdr) q = true) (hc : k.cuts q x) :
    k.place q x .good = k.deliver q x := by
  obtain ⟨hi, _, ht⟩ := hx
  have hcls : hClass x.hdr = clsBulk ∨ hClass x.hdr = clsMemory := hc.1.symm
  have hx : ({ x with tail := TailSt.good.code } : Msg) = x := by rw [TailSt.code, ← ht]
  simp [Chip.place, hl, hi, hcls, hc.2, hx]

/-- A frame that does not go cut-through is written whole to cells. -/
theorem Chip.place_uncut (hx : x.Fresh) (hl : k.livPort (hLiv x.hdr) q = true) (hc : ¬ k.cuts q x) :
    (∀ y, k.holdWhole x q 1 = (some y, k') → k.place q x .good = k'.deliver q y) ∧
      (k.holdWhole x q 1 = (none, k') → k.place q x .good = k'.gapMsg q x) := by
  obtain ⟨hi, _, _⟩ := hx
  have hn : ¬ (decide (hClass x.hdr = clsBulk ∨ hClass x.hdr = clsMemory) && k.mayCut q x) = true := by
    simpa [Chip.cuts, clsBulk, clsMemory, or_comm] using hc
  unfold Chip.place
  rw [hl, if_neg (by decide), if_neg hi, if_neg hn, if_pos rfl]
  exact ⟨fun y hy => by rw [hy], fun hy => by rw [hy]⟩

/-! The flow shaper (R324) -/

variable {n : Nat} {put : Option Nat} {go : Chip → Chip}

/-- Whether an older frame of a shaped flow waits. -/
def Chip.flowWaits (k : Chip) (d n : Nat) : Prop := ∃ z ∈ k.traf.flowHeld, z.pdie = d ∧ z.dest = n

theorem Chip.shaped_pays (ho : k.shaperOpen (portDie x.inPort) (flowShaper n) = true)
    (hw : ¬ k.flowWaits (portDie x.inPort) n) : k.shaped x (some n) q .good put go =
      go (k.shaperTake (portDie x.inPort) (flowShaper n) (x.flowLen + k.overhead q)) := by
  have hw' : k.traf.flowHeld.any (fun z => decide (z.pdie = portDie x.inPort ∧ z.dest = n)) = false := by
    simpa [Chip.flowWaits] using hw
  simp only [Chip.shaped, ho, hw', Bool.not_false, Bool.and_true, if_true]

/-- A frame of a shaped flow is held in cells where the shaper has no tokens or an older frame waits. -/
theorem Chip.shaped_held
    (hw : k.shaperOpen (portDie x.inPort) (flowShaper n) = false ∨ k.flowWaits (portDie x.inPort) n) :
    (∀ y, k.holdWhole x q 1 = (some y, k') → k.shaped x (some n) q .good put go =
      { k'.bump (pgTmg (portDie x.inPort)) 0x1208 with
        traf := { k'.traf with flowHeld := k'.traf.flowHeld ++ [⟨portDie x.inPort, n, q, y, put⟩] } }) ∧
      (k.holdWhole x q 1 = (none, k') → k.shaped x (some n) q .good put go = k'.gapMsg q x) := by
  have hw' : (k.shaperOpen (portDie x.inPort) (flowShaper n) &&
      !k.traf.flowHeld.any (fun z => decide (z.pdie = portDie x.inPort ∧ z.dest = n))) = false := by
    rcases hw with h | ⟨z, hz, hz'⟩
    · rw [h, Bool.false_and]
    · have : k.traf.flowHeld.any (fun z => decide (z.pdie = portDie x.inPort ∧ z.dest = n)) = true :=
        List.any_eq_true.2 ⟨z, hz, decide_eq_true hz'⟩
      rw [this, Bool.not_true, Bool.and_false]
  simp only [Chip.shaped, hw', Bool.false_eq_true, if_false, ne_eq, not_true_eq_false]
  exact ⟨fun y hy => by rw [hy], fun hy => by rw [hy]⟩

end Sys2Proof.Machine
end

section
/-! The commands that forward a frame (R21 steps 6 and 7, R290, R298, R318, R324): each outcome, told by what the command
answers. -/

namespace Sys2Proof.Machine

/-! The commands that forward a frame -/

/-- A Memory PUT with STAGE 0, which goes no further (R263). -/
def stageless (f : Frame) : Prop := hClass f.hdr = 1 ∧ hSub f.hdr = 4 ∧ mStage (memHdrOf f.body) = 0

section
variable {p : LPort} {f : Frame} {age : Nat} {i : Instr} {s : State}

theorem Receives.forwards {kind : BitVec 256 → Bool} (h : Receives i p f kind (fun t c => c.forwardAny p f age t))
    (hc : hClass f.hdr ≠ 1) (hh : s.chip.hears p f) (hp : s.chip.passes p f) :
    (stageless f → exec i s = s.run fun _ => (s.chip.heard p f).bumpLnk p 0x1100) ∧
      (¬ stageless f → exec i s = s.run fun _ => (s.chip.heard p f).forwardAny p f age .good) :=
  ⟨fun hs => absurd hs.1 hc, fun _ => h.exec_passes hh hp⟩

/-- A command that forwards a good frame discards a PUT with STAGE 0, and takes every other frame through steps 6 and 7. -/
theorem exec_forwards
    (hi : i = .memoryFrame p f age ∧ hClass f.hdr = 1 ∧ isMcPut f.hdr = false ∧ isCtrCpl f = false ∨
      i = .bulkFrame p f age ∧ hClass f.hdr = 2 ∨
      i = .controlFrameForward p f age ∧ hClass f.hdr = 3 ∧ 1 ≤ hSub f.hdr ∧ hSub f.hdr ≤ 4 ∨
      i = .resultFrame p f age ∧ hClass f.hdr = 0 ∧ 2 ≤ hSub f.hdr)
    (hh : s.chip.hears p f) (hp : s.chip.passes p f) :
    (stageless f → exec i s = s.run fun _ => (s.chip.heard p f).bumpLnk p 0x1100) ∧
      (¬ stageless f → exec i s = s.run fun _ => (s.chip.heard p f).forwardAny p f age .good) := by
  rcases hi with ⟨rfl, hc, hm, hq⟩ | ⟨rfl, hc⟩ | ⟨rfl, hc, h1, h4⟩ | ⟨rfl, hc, h2⟩
  · obtain ⟨kind, h⟩ := receives_memoryFrame (p := p) (age := age) hc hm hq
    refine ⟨fun hs => ?_, fun hs => ?_⟩
    · rw [h.exec_passes hh hp, Chip.memoryOn, if_pos hs.2, if_pos rfl]
    · rw [h.exec_passes hh hp, Chip.memoryOn, if_neg fun h => hs ⟨hc, h⟩]
  · obtain ⟨kind, h⟩ := receives_bulkFrame (p := p) (age := age) hc
    exact h.forwards (by omega) hh hp
  · obtain ⟨kind, h⟩ := receives_controlFrameForward (p := p) (age := age) hc h1 h4
    exact h.forwards (by omega) hh hp
  · obtain ⟨kind, h⟩ := receives_resultFrame (p := p) (age := age) hc h2
    exact h.forwards (by omega) hh hp

/-- The outcomes of a frame that goes to its port or is held for a lost target there, told by what a command answers. -/
theorem sendOn_outcomes {k : Chip} {q : Nat} {x : Msg} {lost : Bool} (hx : x.Fresh)
    (he : exec i s = .next (s.after (k.sendOn q x .good lost))) :
    (lost = true → exec i s = .next (s.after (k.holdLost q x))) ∧
    (lost = false → k.livPort (hLiv x.hdr) q = false →
      exec i s = .next (s.after (k.violation (hLiv x.hdr) 9 (some q)))) ∧
    (lost = false → k.livPort (hLiv x.hdr) q = true →
      (k.cuts q x → exec i s = .next (s.after (k.deliver q x))) ∧
      (¬ k.cuts q x → ∀ y k', k.holdWhole x q 1 = (y, k') →
        (∀ m', y = some m' → exec i s = .next (s.after (k'.deliver q m'))) ∧
        (y = none → exec i s = .next (s.after (k'.gapMsg q x))))) := by
  rw [he]
  refine ⟨?_, ?_, ?_⟩
  · rintro rfl; rfl
  · rintro rfl hl
    rw [Chip.sendOn, if_neg (by decide), Chip.place_refused hx hl]
  · rintro rfl hl
    rw [Chip.sendOn, if_neg (by decide)]
    refine ⟨fun hc => by rw [Chip.place_cut hx hl hc], fun hc y k' hy => ⟨?_, ?_⟩⟩
    · rintro m' rfl
      rw [(Chip.place_uncut hx hl hc).1 m' hy]
    · rintro rfl
      rw [(Chip.place_uncut hx hl hc).2 hy]
end

/-! Steps 6 and 7 of R21, by the route -/

section
variable {c : Chip} {m : Msg} {fwd : Bool}

theorem Chip.forward_drains (hd : (hClass m.hdr = 1 ∨ hClass m.hdr = 0) ∧ c.inDrain (hDst m.hdr) = true) {k : Chip} :
    (c.holdWhole m 0 1 = (none, k) → c.forward m .good fwd = k) ∧
      (∀ m' d, c.holdWhole m 0 1 = (some m', k) → k.rte.drain = some d →
        c.forward m .good fwd = (k.bump pgRte 0x1810).setDrain (some { d with held := d.held ++ [m'] })) := by
  unfold Chip.forward
  simp only [clsMemory, clsCollective, hd, and_self, if_true, ne_eq, not_true_eq_false, if_false]
  exact ⟨fun hy => by rw [hy], fun m' d hy hr => by simp only [hy, hr]⟩

theorem Chip.forward_routes (hd : ¬ ((hClass m.hdr = 1 ∨ hClass m.hdr = 0) ∧ c.inDrain (hDst m.hdr) = true)) :
    c.forward m .good fwd = c.routeOn m .good fwd := by
  unfold Chip.forward
  exact if_neg hd

/-- Whether a frame that has a port is held for a lost target there (R306). -/
def Chip.holdsFor (c : Chip) (m : Msg) (q : Nat) : Bool :=
  decide (c.lookup (hDst m.hdr) (hClass m.hdr) = .lost q) ||
    decide (hClass m.hdr = clsMemory) && decide (q ∈ (c.lostOf (hLiv m.hdr)).ports)

theorem Chip.routeOn_port {q : Nat}
    (h : c.lookup (hDst m.hdr) (hClass m.hdr) = .port q ∨ c.lookup (hDst m.hdr) (hClass m.hdr) = .lost q) :
    c.routeOn m .good fwd = c.dispatch q m .good fwd (c.holdsFor m q) := by
  unfold Chip.routeOn Chip.holdsFor
  rcases h with h | h <;> simp [h]

/-- Dispatch of a good forwarded frame that has hops left. -/
theorem Chip.dispatch_hops {q : Nat} {lost : Bool} (hh : hHops m.hdr ≠ 0) :
    c.dispatch q m .good true lost = (c.atDispatch m .good).2.shaped (c.atDispatch m .good).1.msg.hop
      (c.atDispatch m .good).1.shaper q .good none
      (fun k => k.sendOn q (c.atDispatch m .good).1.msg.hop .good lost) := by
  unfold Chip.dispatch
  rw [if_neg (by simpa using hh)]
  rfl
end

section
variable {p : LPort} {f : Frame} {i : Instr} {s : State}

/-- A command that only counts a frame it has received. -/
theorem exec_counts {page off : Nat} (he : exec i s = s.run fun _ => (s.chip.heard p f).bump page off)
    (hl : pgSec < page) (hh : page < 0x400) (ho : off < 0x10000) :
    exec i s = .next (s.put ((s.chip.heard p f).bump page off)) := by
  rw [he]
  refine State.run_eq_put (f := fun _ => (s.chip.heard p f).bump page off) ?_
  rw [Chip.smbStatusWord_bump _ _ hl hh ho, Chip.smbStatusWord_heard _ _ p.isLt]

/-- The outcomes of a good frame that has a port and hops left, up to the port: by its flow shaper (R324). -/
theorem dispatch_outcomes {h : Chip} {m : Msg} {q : Nat} {hit : FlowHit} {g : Chip} {x : Msg}
    (hg : h.atDispatch m .good = (hit, g)) (hx : x = hit.msg.hop) (hp : x.inPort = p)
    (hq : h.lookup (hDst m.hdr) (hClass m.hdr) = .port q ∨ h.lookup (hDst m.hdr) (hClass m.hdr) = .lost q)
    (hh : hHops m.hdr ≠ 0) (he : exec i s = s.run fun _ => h.routeOn m .good true) :
    (hit.shaper = none → exec i s = .next (s.after (g.sendOn q x .good (h.holdsFor m q)))) ∧
    (∀ n, hit.shaper = some n →
      (g.shaperOpen (p / 128) (flowShaper n) = true → ¬ g.flowWaits (p / 128) n → exec i s = .next (s.after
        ((g.shaperTake (p / 128) (flowShaper n) (x.flowLen + g.overhead q)).sendOn q x .good (h.holdsFor m q)))) ∧
      (g.shaperOpen (p / 128) (flowShaper n) = false ∨ g.flowWaits (p / 128) n → ∀ y k', g.holdWhole x q 1 = (y, k') →
        (∀ m', y = some m' → exec i s = .next (s.after { k'.bump (pgTmg (p / 128)) 0x1208 with
          traf := { k'.traf with flowHeld := k'.traf.flowHeld ++ [⟨p / 128, n, q, m', none⟩] } })) ∧
        (y = none → exec i s = .next (s.after (k'.gapMsg q x))))) := by
  have hd : exec i s = .next (s.after (g.shaped x hit.shaper q .good none
      fun k => k.sendOn q x .good (h.holdsFor m q))) := by
    rw [he, Chip.routeOn_port hq, Chip.dispatch_hops hh, hg, hx, State.run_eq_after]
  have hdie : portDie x.inPort = p / 128 := by rw [hp, portDie]
  refine ⟨fun hs => ?_, fun n hs => ⟨fun ho hw => ?_, fun hw y k' hy => ⟨?_, ?_⟩⟩⟩
  · rw [hd, hs, Chip.shaped]
  · rw [← hdie] at ho hw ⊢
    rw [hd, hs, Chip.shaped_pays ho hw]
  · rintro m' rfl
    rw [← hdie] at hw ⊢
    rw [hd, hs, (Chip.shaped_held hw).1 m' hy]
  · rintro rfl
    rw [← hdie] at hw
    rw [hd, hs, (Chip.shaped_held hw).2 hy]
end

/-- Settles O30: reception leaves the routes as they were, and each outcome is a branch of `forward`, `routeOn`, `shaped`
or `place`. -/
theorem forwardedFramesMeetTheirRoute : Obligations.ForwardedFramesMeetTheirRoute := by
  unfold Obligations.ForwardedFramesMeetTheirRoute
  intro s p f age i hi hh hp c h m route hit g x noStage drains lost goes
  obtain ⟨hstage, hforward⟩ := exec_forwards hi hh hp
  obtain ⟨hlnk, hlnk'⟩ := pgLnk_bounds (portDie_lt p.isLt)
  have hany : ¬ noStage → exec i s = s.run fun _ => if hMc f.hdr then h.replicate m .good true else h.forward m .good true :=
    fun hs => by rw [hforward hs, Chip.forwardAny, Chip.stampOf, Chip.heard_time]
  have hroute : h.lookup (hDst m.hdr) (hClass m.hdr) = route := Chip.heard_lookup p.isLt _
  refine ⟨fun hs => exec_counts (hstage hs) hlnk hlnk' (by decide), fun hs hmc => ?_, fun hs hmc => ⟨?_, ?_⟩⟩
  · rw [hany hs, if_pos hmc, State.run_eq_after]
  · intro hd y k hy
    have hd' : (hClass m.hdr = 1 ∨ hClass m.hdr = 0) ∧ h.inDrain (hDst m.hdr) = true := by
      rw [Chip.heard_inDrain]; exact hd
    rw [hany hs, if_neg (by simp [hmc]), State.run_eq_after]
    refine ⟨?_, ?_⟩
    · rintro rfl
      rw [(Chip.forward_drains hd').1 hy]
    · rintro m' d rfl hr
      rw [(Chip.forward_drains hd').2 m' d hy hr]
  · intro hd
    have he : exec i s = s.run fun _ => h.routeOn m .good true := by
      rw [hany hs, if_neg (by simp [hmc]), Chip.forward_routes (by rw [Chip.heard_inDrain]; exact hd)]
    have hlost : ∀ q, h.holdsFor m q = true ↔ lost q := by
      intro q
      rw [Chip.holdsFor, hroute, Chip.heard_lostOf]
      simp only [Bool.or_eq_true, Bool.and_eq_true, decide_eq_true_eq]
      exact Iff.rfl
    have hport : (p : Nat) ≠ 1024 := by omega
    have hx : m.Rewritten x := (Chip.flowOf_rewritten m).hop
    have hgoes : ∀ k q, exec i s = .next (s.after (k.sendOn q x .good (h.holdsFor m q))) → goes k q := by
      intro k q hk
      obtain ⟨y, hy, hcls, hliv⟩ := hx
      have hfresh : x.Fresh := by rw [hy]; exact ⟨hport, rfl, rfl⟩
      have hcls : hClass x.hdr = hClass f.hdr := by rw [hy]; exact hcls
      have hliv : hLiv x.hdr = hLiv f.hdr := by rw [hy]; exact hliv
      have hkept : ¬ lost q → h.holdsFor m q = false := fun hl => by rw [← hlost, Bool.not_eq_true] at hl; exact hl
      obtain ⟨h1, h2, h3⟩ := sendOn_outcomes hfresh hk
      rw [hliv] at h2 h3
      rw [Chip.cuts, hcls] at h3
      exact ⟨fun hl => h1 ((hlost q).2 hl), fun hl => h2 (hkept hl), fun hl => h3 (hkept hl)⟩
    refine ⟨fun hr => ?_, fun hr => ?_, fun hr => ?_, fun q hq => ⟨fun h0 => ?_, fun h0 => ?_⟩⟩
    · refine exec_counts (by rw [he, Chip.routeOn, hroute, hr]; rfl) (by decide) (by decide) (by decide)
    · refine exec_counts (by rw [he, Chip.routeOn, hroute, hr]; rfl) (by decide) (by decide) (by decide)
    · rw [he, State.run_eq_after, Chip.routeOn, hroute, hr]; rfl
    · have hd : exec i s = s.run fun _ => h.bumpLnk p 0x1128 := by
        rw [he, Chip.routeOn_port (hroute ▸ hq), Chip.dispatch, if_pos (by simpa [m, Msg.arrived] using h0)]; rfl
      exact exec_counts hd hlnk hlnk' (by decide)
    · have hp : x.inPort = p := by obtain ⟨_, hy, _⟩ := hx; rw [hy]; rfl
      obtain ⟨h1, h2⟩ := dispatch_outcomes (p := p) (hit := hit) (g := g) rfl rfl hp (hroute ▸ hq) h0 he
      exact ⟨fun hs => hgoes _ _ (h1 hs), fun n hs => ⟨fun ho hw => hgoes _ _ ((h2 n hs).1 ho hw), (h2 n hs).2⟩⟩

end Sys2Proof.Machine
end

section
/-! The service of an egress port (R320) where a link control frame stands in its Collective queue: a state that no
command brings about, and that the statement on the order of service does not leave out. -/

namespace Sys2Proof.Machine

/-! A link control frame among the Collective frames -/

/-- A link control frame (R266) whose cells are those of crossing 1. -/
def strayCtl : Msg := { Msg.made (BitVec.ofNat 256 (3 * 2 ^ 249 + 6 * 2 ^ 245)) [] 0 none with num := 1 }

/-- A part that is READY, with port 0 enabled. Port 0 holds that frame in its Collective queue and nothing else, and the
crossbar still holds a cell of it. -/
def strayPart : Chip :=
  let c := (Chip.reset.setField pgPwr 0x1078 0 3 phReady).setFlag (pgPrt 0) (prtCfgOff 0) 4 true
  let c := c.setVoq 0 [⟨1, 1, false, 0, 0, 0, 0, false, 0, none⟩]
  c.setEgress 0 { Egress.empty with col := [strayCtl] }

/-- The frame has not crossed, so it is not ready to start as the statement says it, yet its link lets it start. -/
theorem strayCtl_not_crossed : strayPart.crossing strayCtl.num = true ∧ strayPart.linkReady 0 strayCtl = true := by
  decide +kernel

/-- Port 0 serves its queues. -/
theorem strayPart_serves : strayPart.inUse 0 = true ∧ strayPart.sending = true ∧ strayPart.portWorks 0 = true ∧
    (strayPart.link 0).lpi = .awake ∧ strayPart.gateEn 0 = false := by
  decide +kernel

/-- No frame waits at port 0 but the one in its Collective queue. -/
theorem strayPart_queues : (strayPart.egress 0).tx = none ∧
    ((strayPart.rotForget 0).egress 0).ctl = [] ∧ ((strayPart.rotForget 0).egress 0).again = [] ∧
    ((strayPart.rotForget 0).egress 0).col = [strayCtl] ∧
    ∀ tc < 16, ∀ k < 3, (strayPart.rotForget 0).headLen 0 tc k = none := by
  decide +kernel

theorem strayPart_portFree : ((strayPart.portFree 0 CellRead.clean).egress 0).tx.isSome = true := by
  decide +kernel

/-- EGRESS_PORT_FREE starts the frame, crossed or not. -/
theorem strayPart_starts {t : State} (h : exec (.egressPortFree 0 CellRead.clean) ⟨strayPart, []⟩ = .next t) :
    (t.chip.egress 0).tx.isSome = true := by
  rw [run_eq (f := fun c => if c.inUse 0 then c.portFree 0 CellRead.clean else c) h]
  simp only [Chip.settleAlerts_egress, strayPart_serves.1, if_true]
  exact strayPart_portFree

/-- Refutes O39: where the head of the Collective queue is a link control frame that has not crossed, the statement lets
the TC queues be served, and with no TC eligible it says that nothing starts; the model starts the frame, for
`linkReady` asks no crossing of a link control frame, and the head of the Collective queue meets no other test of its
crossing. The counterexample is `strayPart`; no command queues such a frame there (`Chip.enqueue`). -/
theorem not_egressPortsServeTheirQueues : ¬ Obligations.EgressPortsServeTheirQueues := by
  unfold Obligations.EgressPortsServeTheirQueues
  intro h
  obtain ⟨hin, hsend, hworks, hlpi, hgate⟩ := strayPart_serves
  obtain ⟨htx, hctl, hagain, hcol, hlen⟩ := strayPart_queues
  have hnot : ¬ strayPart.crossing strayCtl.num = false := by rw [strayCtl_not_crossed.1]; decide
  have hs := h ⟨strayPart, []⟩ 0 CellRead.clean hin
  simp only [Fin.val_zero, htx] at hs
  obtain ⟨_, _, hserves⟩ := hs
  obtain ⟨_, _, hdata⟩ := hserves ⟨hsend, hworks, .inl hlpi⟩
  obtain ⟨_, hnew⟩ := hdata (by rw [hctl]; simp)
  obtain ⟨_, htc⟩ := hnew (.inl hagain)
  obtain ⟨_, _, _, hnone⟩ := htc (.inr ⟨strayCtl, [], hcol, fun hr => hnot hr.1⟩) hgate
  obtain ⟨t, ht, _, htx', _⟩ := hnone hlen
  have hstarts := strayPart_starts ht
  rw [htx'] at hstarts
  exact absurd hstarts (by decide)

end Sys2Proof.Machine
end

section
/-! The loss of VIN_12 (R396) where the table of a coach die lists one slot twice: a state that no command brings about,
and that the statement on the loss does not leave out. -/

namespace Sys2Proof.Machine

/-! A slot that is listed twice -/

/-- The slots of a coach die with slot 0 listed twice, CLOSED first and FOLDING then: not in canonical form. A read finds
the CLOSED coach. -/
def twiceListed : Tbl Coach := [(0, { Coach.empty with phase := .closed }), (0, { Coach.empty with phase := .folding })]

/-- A part with VIN_12 present and those slots on coach die 0. -/
def twicePart : Chip := (Chip.reset.setFlag pgPwr 0x1004 0 true).setCch 0 { CchDie.empty with slots := twiceListed }

/-- V0 works, and VIN_12 is there to be lost. -/
theorem twicePart_supplied : twicePart.v0Up = true ∧ twicePart.flag pgPwr 0x1004 0 = true := by
  decide +kernel

/-- Slot 0 counts as live by its second listing, while it reads as CLOSED. -/
theorem twicePart_slot : 0 ∈ twicePart.liveCoaches 0 ∧ (twicePart.slot 0 0).phase = .closed ∧
    Tbl.wf (fun _ => Coach.empty) twiceListed = false := by
  decide +kernel

/-- Setting the meters changes no coach. -/
theorem Chip.metersSet_slot (c : Chip) (d i : Nat) : c.metersSet.slot d i = c.slot d i := by
  have h : c.metersSet.coach = c.coach := congrArg (·.1) c.metersSet_plane
  rw [Chip.slot, Chip.cch, h, Chip.slot, Chip.cch]

theorem twicePart_vinLoss : (twicePart.vinLoss.slot 0 0).phase = .closed := by
  rw [Chip.vinLoss, Chip.metersSet_slot]
  decide +kernel

/-- VIN12_LOSS leaves the slot CLOSED. -/
theorem twicePart_stays {t : State} (h : exec .vin12Loss ⟨twicePart, []⟩ = .next t) : (t.chip.slot 0 0).phase = .closed := by
  rw [run_eq (f := fun c => if c.v0Up && c.flag pgPwr 0x1004 0 then c.vinLoss else c) h]
  simp only [Chip.settleAlerts_slot, twicePart_supplied, Bool.and_self, if_true]
  exact twicePart_vinLoss

/-- Refutes O21, in its clause that every live coach aborts on a loss of VIN_12: the coaches that count as live are
found among all listings of a slot, and the slot itself is read by its first. In the state `twicePart` a slot is listed
twice; no command makes such a table (`Tbl.wf_set`). -/
theorem not_cornerAndSupplyAreWatched : ¬ Obligations.CornerAndSupplyAreWatched := by
  unfold Obligations.CornerAndSupplyAreWatched
  intro h
  obtain ⟨_, _, hloss, _⟩ := h ⟨twicePart, []⟩
  obtain ⟨hup, hvin⟩ := twicePart_supplied
  obtain ⟨hlive, _⟩ := twicePart_slot
  obtain ⟨t, ht, _, _, _, _, _, haborts, _⟩ := hloss hup hvin
  have haborting : (t.chip.slot 0 0).phase = .aborting := haborts 0 (by decide) 0 hlive
  rw [twicePart_stays ht] at haborting
  exact absurd haborting (by decide)

end Sys2Proof.Machine
end

section
/-! The special codes of formats 4, 6 and 7 (R39, R40): a format of plain codes has none, and an E4M3 code is read by its
fields. -/

namespace Sys2Proof.Machine

/-- A format of plain codes has finite values alone (R40). -/
theorem decodeFp_plain {f : FpFmt} (h : f.kind = .plain) (code : Nat) (k : Int) :
    ∃ v, decodeFp f code k = Dec.fin v := by
  simp only [decodeFp, h]
  exact ⟨_, rfl⟩

/-- The magnitude of an E4M3 code with exponent field `e` and fraction field `m`, in units of the least subnormal, 2^-9
(R37). -/
def e4m3Units (e m : Nat) : Nat := if e = 0 then m else (m + 8) * 2 ^ (e - 1)

/-- The magnitude on the grid of 2^-168. -/
theorem e4m3Units_grid (e m : Nat) :
    (if e = 0 then m else m + 8) * 2 ^ ((if e = 0 then 1 else (e : Int)) - 10 + 168).toNat = e4m3Units e m * 2 ^ 159 := by
  unfold e4m3Units
  split
  · rfl
  · rw [mul_assoc, ← pow_add]
    congr 2
    omega

/-- 448 is the largest magnitude of a code that is not NaN, and one pair of fields has it. -/
theorem e4m3Units_le {e m : Nat} (he : e < 16) (hm : m < 8) (h : ¬ (e = 15 ∧ m = 7)) :
    e4m3Units e m ≤ 448 * 2 ^ 9 ∧ (e4m3Units e m = 448 * 2 ^ 9 ↔ e = 15 ∧ m = 6) := by
  unfold e4m3Units
  obtain rfl | hmid | rfl : e = 0 ∨ 0 < e ∧ e < 15 ∨ e = 15 := by omega
  · rw [if_pos rfl]; omega
  · have hle : (m + 8) * 2 ^ (e - 1) ≤ 15 * 2 ^ 13 :=
      Nat.mul_le_mul (by omega) (Nat.pow_le_pow_right (by decide) (by omega))
    rw [if_neg (by omega)]; omega
  · rw [if_neg (by decide)]; omega

/-- An E4M3 code by its fields (R39): NaN where exponent and fraction are all ones, and finite elsewhere. -/
theorem decodeCode_e4m3 (k : Nat) :
    decodeCode 4 k =
      if k / 8 % 16 = 15 ∧ k % 8 = 7 then Dec.nanE
      else Dec.fin (if k / 128 % 2 = 1 then -((e4m3Units (k / 8 % 16) (k % 8) * 2 ^ 159 : Nat) : Int)
        else (e4m3Units (k / 8 % 16) (k % 8) * 2 ^ 159 : Nat)) := by
  rw [← e4m3Units_grid]
  have hbias : ∀ x : Int, x - (7 : Nat) - (3 : Nat) + 0 + 168 = x - 10 + 168 := by omega
  simp only [decodeCode, fpOfFmt, decodeFp, fpE4m3, hbias, reduceCtorEq, false_and, true_and, if_false]
  rfl

/-- Settles O59: an E4M3 code by its fields, and formats 6 and 7 as formats of plain codes. -/
theorem smallFormatsHaveTheNamedSpecials : Obligations.SmallFormatsHaveTheNamedSpecials := by
  unfold Obligations.SmallFormatsHaveTheNamedSpecials
  refine ⟨fun k hk => ?_, fun k _ fmt hfmt => ?_⟩
  · rw [decodeCode_e4m3]
    by_cases hnan : k / 8 % 16 = 15 ∧ k % 8 = 7
    · have hcode : k = 0x7F ∨ k = 0xFF := by omega
      rw [if_pos hnan]
      rcases hcode with rfl | rfl <;> decide
    · have hcode : ¬ (k = 0x7F ∨ k = 0xFF) := by omega
      obtain ⟨hle, htop⟩ := e4m3Units_le (Nat.mod_lt (k / 8) (by decide)) (Nat.mod_lt k (by decide)) hnan
      rw [if_neg hnan]
      generalize e4m3Units (k / 8 % 16) (k % 8) = u at hle htop ⊢
      simp only [Dec.fin, hcode, Bool.false_eq_true, true_and, forall_const]
      by_cases hneg : k / 128 % 2 = 1
      · rw [if_pos hneg]; omega
      · rw [if_neg hneg]; omega
  · simp only [List.mem_cons, List.not_mem_nil, or_false] at hfmt
    obtain ⟨v, hv⟩ : ∃ v, decodeCode fmt k = Dec.fin v := by
      rcases hfmt with rfl | rfl
      · exact decodeFp_plain (f := fpE3m2) rfl k 0
      · exact decodeFp_plain (f := fpE2m3) rfl k 0
    simp only [hv, Dec.fin, and_self]

end Sys2Proof.Machine
end

section
/-! The fold of a held frame (R120, R197) where the frame holds a staging cell that no pool has: a state that no command
brings about, and that the statement on folds does not leave out. -/

namespace Sys2Proof.Machine

/-! A staging cell beyond its pool -/

/-- A staging cell that `unitBank` places in bank 1,824 of its die. -/
def farCell : Nat := (1824 - 48) * 2048

/-- The cell is beyond the pool (R199), and the retention flag of its bank, which `Chip.bankAccess` clears, would stand in
the register that counts corrected errors. -/
theorem farCell_beyond :
    poolUnits plStg ≤ farCell ∧ unitBank plStg farCell = 1824 ∧ 0x1020 + 4 * (1824 / 32) = 0x1104 := by
  decide

/-- A frame of the one FP32 element 1.0, held in that cell. -/
def farFrame : HeldFrame := ⟨true, 0, bytesLE 8 0x3F800000, 0, [farCell]⟩

/-- A contribution of that frame alone, from port 0. -/
def farContrib : Contrib :=
  { lport := 0, carried := false, sentStep := 0, fmt := 0, prescale := one32, frames := 0, stamp := 0, nextIdx := 1
    broken := false, held := [farFrame], foldedFrames := 0, elems := 0, escapes := [], escSeen := 0, payload := []
    ordered := [] }

/-- A coach of one element that the contribution has joined. -/
def farCoach : Coach := { Coach.empty with phase := .folding, elemCount := 1, contribs := [farContrib] }

/-- A part that is READY, with that coach in slot 0 of coach die 0, one corrected error counted on the die, and bank 1,824
of the die in retention. -/
def farPart : Chip :=
  let c := (Chip.reset.setField pgPwr 0x1078 0 3 phReady).setReg (pgMem 8) 0x1104 1
  { c.setSlot 0 0 farCoach with bank := { c.bank with ret := [(8 * 256 + 1824, .retained)] } }

/-- The coach die works and its slot 0 holds the coach. -/
theorem farPart_works : farPart.mainUp = true ∧ farPart.dieFailed 8 = false ∧ farPart.slot 0 0 = farCoach := by
  decide +kernel

theorem farPart_counted : farPart.reg (pgMem 8) 0x1104 = 1 := by decide +kernel

/-- The fold wakes the bank, and with its retention flag the counted error is gone. -/
theorem farPart_foldNext : (farPart.foldNext 0 0 0 false 0 FoldReport.clean).reg (pgMem 8) 0x1104 = 0 := by
  decide +kernel

/-- The frame is the contribution's last, passes its layout check and brings one element, and no ordered mode applies. -/
theorem farFrame_layout :
    layoutOf farContrib.fmt farCoach.elemCount (farContrib.payload ++ farFrame.payload)
        (decide (farFrame.idx = farContrib.frames)) = .ok ∧
      elemsIn farContrib.fmt farCoach.elemCount (farContrib.payload ++ farFrame.payload).length = 1 ∧
      eOrdered farCoach.ent = false := by
  decide +kernel

/-- The element's sum fits its accumulator's window. -/
theorem farFrame_fits :
    ((Tbl.get Acc.zero farCoach.accs 0).fold
      (product (elemOf farContrib.fmt (natOfLE (farContrib.payload ++ farFrame.payload)) 0) farContrib.prescale).1).fits =
        true := by
  decide +kernel

/-- COLLECTIVE_FRAME_FOLD leaves the count at 0. -/
theorem farPart_folds {t : State}
    (h : exec (.collectiveFrameFold 0 0 0 false 0 FoldReport.clean) ⟨farPart, []⟩ = .next t) :
    t.chip.reg (pgMem 8) 0x1104 = 0 := by
  obtain ⟨hup, hdie, _⟩ := farPart_works
  have hworks : farPart.cdieWorks 0 = true := by simp [Chip.cdieWorks, Chip.cdieUp, dieC, hup, hdie]
  rw [run_eq (f := fun c => if c.cdieWorks 0 then c.foldNext 0 0 0 false 0 FoldReport.clean else c) h]
  simp only [Chip.settleAlerts_reg, hworks, if_true]
  exact farPart_foldNext

/-- Refutes O52, in its clause that a clean fold adds the corrected errors it reports to MEM 0x1104 and leaves the rest of
that count: the fold accesses the banks of the frame's staging cells whatever their numbers, and to wake bank 1,824 it
clears a bit of that very register. The counterexample is `farPart`; the staging pool has no such cell
(`farCell_beyond`), so no command gives one to a frame. -/
theorem not_contributionsFoldAndComplete : ¬ Obligations.ContributionsFoldAndComplete := by
  unfold Obligations.ContributionsFoldAndComplete
  intro h
  obtain ⟨hup, hdie, hslot⟩ := farPart_works
  obtain ⟨hlayout, hspan, hordered⟩ := farFrame_layout
  obtain ⟨hfold, _⟩ := h
  have hframes := hfold ⟨farPart, []⟩ 0 0 0 false 0 FoldReport.clean hup hdie
  simp only [Fin.val_zero, hslot] at hframes
  obtain ⟨_, hmine⟩ := hframes
  obtain ⟨_, hheld⟩ := hmine (.inl rfl) [] farContrib [] rfl ⟨rfl, rfl⟩ (by simp)
  obtain ⟨_, _, hclean⟩ := hheld farFrame [] rfl
  obtain ⟨_, _, _, hplain⟩ := hclean rfl (by simp [FoldReport.clean])
  have hfits := hplain ⟨hlayout, hordered, by decide, rfl⟩ fun k _ hk => by
    rw [hspan] at hk
    obtain rfl : k = 0 := by omega
    exact .inr farFrame_fits
  obtain ⟨t, ht, _, _, _, _, _, _, _, _, _, hcounted, _⟩ := hfits
  rw [farPart_folds ht, farPart_counted] at hcounted
  exact absurd hcounted (by decide)

end Sys2Proof.Machine
end

section
/-! Rounding to units in the last place (R80, R81): a rounded value by its quotient and remainder, its bounds, and the code
that stands for it in a floating-point format (R37, R51, R52). -/

namespace Sys2Proof.Machine

/-! The rounded number of units -/

section
variable {x : Nat} {eb qx : Int} {mode : Nat} {u : W32}

/-- A value whose unit is no finer than the one asked for is exact. -/
theorem roundTo_exact (h : qx ≤ eb) : roundTo x eb qx mode u = x * 2 ^ (eb - qx).toNat := by
  simp only [roundTo]
  rw [if_pos (by omega), neg_sub]

/-- A value with finer units is its quotient, or one more where its mode rounds up. -/
theorem roundTo_coarser (h : eb < qx) : roundTo x eb qx mode u =
    if roundUp mode (x / 2 ^ (qx - eb).toNat) (x % 2 ^ (qx - eb).toNat) (qx - eb).toNat u then x / 2 ^ (qx - eb).toNat + 1
    else x / 2 ^ (qx - eb).toNat := by
  simp only [roundTo]
  rw [if_neg (by omega)]

/-- A value below 2^L in units of 2^eb is at most 2^k units, where 2^L of its units are at most 2^k of the others. -/
theorem roundTo_le {L k : Nat} (hx : x < 2 ^ L) (h : (L : Int) + eb ≤ qx + k) : roundTo x eb qx mode u ≤ 2 ^ k := by
  rcases le_or_gt qx eb with hq | hq
  · rw [roundTo_exact hq]
    calc x * 2 ^ (eb - qx).toNat ≤ 2 ^ L * 2 ^ (eb - qx).toNat := Nat.mul_le_mul_right _ hx.le
      _ = 2 ^ (L + (eb - qx).toNat) := (pow_add ..).symm
      _ ≤ 2 ^ k := Nat.pow_le_pow_right (by decide) (by omega)
  · have hlt : x / 2 ^ (qx - eb).toNat < 2 ^ k := by
      rw [Nat.div_lt_iff_lt_mul (by positivity), ← pow_add]
      exact hx.trans_le (Nat.pow_le_pow_right (by decide) (by omega))
    rw [roundTo_coarser hq]
    split <;> omega

/-- A value of at least 2^L in units of 2^eb is at least 2^k units. -/
theorem le_roundTo {L k : Nat} (hx : 2 ^ L ≤ x) (h : qx + k ≤ (L : Int) + eb) : 2 ^ k ≤ roundTo x eb qx mode u := by
  rcases le_or_gt qx eb with hq | hq
  · rw [roundTo_exact hq]
    calc 2 ^ k ≤ 2 ^ (L + (eb - qx).toNat) := Nat.pow_le_pow_right (by decide) (by omega)
      _ = 2 ^ L * 2 ^ (eb - qx).toNat := pow_add ..
      _ ≤ x * 2 ^ (eb - qx).toNat := Nat.mul_le_mul_right _ hx
  · have hle : 2 ^ k ≤ x / 2 ^ (qx - eb).toNat := by
      rw [Nat.le_div_iff_mul_le (by positivity), ← pow_add]
      exact (Nat.pow_le_pow_right (by decide) (by omega)).trans hx
    rw [roundTo_coarser hq]
    split <;> omega
end

/-! The code of a rounded value -/

/-- A format whose codes up to `maxCode` are positive and finite, and whose least unit is on the grid of 2^-168. -/
structure FpFmt.Regular (f : FpFmt) : Prop where
  positive : f.maxCode < 2 ^ f.ebits * 2 ^ f.mbits
  ieee : f.kind = .ieee → f.maxCode < (2 ^ f.ebits - 1) * 2 ^ f.mbits
  e4m3 : f.kind = .e4m3 → f.maxCode + 1 < 2 ^ f.ebits * 2 ^ f.mbits
  onGrid : f.bias + f.mbits ≤ 169

/-- The magnitude of a code of sign 0, in units of the least subnormal (R37). -/
def FpFmt.units (f : FpFmt) (code : Nat) : Nat :=
  if code / 2 ^ f.mbits = 0 then code % 2 ^ f.mbits
  else (code % 2 ^ f.mbits + 2 ^ f.mbits) * 2 ^ (code / 2 ^ f.mbits - 1)

/-- The floating-point formats of R34. -/
theorem regular_of_mem {f : FpFmt} (h : f ∈ [fpFp32, fpBf16, fpFp16, fpE4m3, fpE5m2, fpE3m2, fpE2m3, fpN4]) :
    f.Regular := by
  simp only [List.mem_cons, List.not_mem_nil, or_false] at h
  rcases h with rfl | rfl | rfl | rfl | rfl | rfl | rfl | rfl <;> constructor <;> decide

/-- A code up to `maxCode` is positive and finite, and decodes to its units (R37, R52). -/
theorem decodeFp_units {f : FpFmt} (hf : f.Regular) {code : Nat} (h : code ≤ f.maxCode) :
    decodeFp f code 0 = Dec.fin ((f.units code * 2 ^ (169 - f.bias - f.mbits) : Nat) : Int) := by
  obtain ⟨hpos, hieee, he4m3, hgrid⟩ := hf
  have hm : 0 < 2 ^ f.mbits := by positivity
  have he : code / 2 ^ f.mbits < 2 ^ f.ebits := (Nat.div_lt_iff_lt_mul hm).2 (h.trans_lt hpos)
  have hsum : code / 2 ^ f.mbits * 2 ^ f.mbits + code % 2 ^ f.mbits = code := Nat.div_add_mod' ..
  have hsign : code / 2 ^ (f.ebits + f.mbits) = 0 := by
    rw [pow_add]; exact Nat.div_eq_of_lt (h.trans_lt hpos)
  have hinf : ¬ (f.kind = .ieee ∧ code / 2 ^ f.mbits = 2 ^ f.ebits - 1) := by
    rintro ⟨hk, hx⟩
    have := hieee hk
    rw [hx] at hsum; omega
  have hnan : ¬ (f.kind = .e4m3 ∧ code / 2 ^ f.mbits = 2 ^ f.ebits - 1 ∧ code % 2 ^ f.mbits = 2 ^ f.mbits - 1) := by
    rintro ⟨hk, hx, hy⟩
    have := he4m3 hk
    rw [hx, hy, Nat.sub_mul] at hsum
    have : 2 ^ f.mbits ≤ 2 ^ f.ebits * 2 ^ f.mbits := Nat.le_mul_of_pos_left _ (by positivity)
    omega
  simp only [decodeFp, hsign, Nat.zero_mod, Nat.mod_eq_of_lt he, if_neg hinf, if_neg hnan, zero_ne_one, false_and, and_false,
    if_false]
  congr 2
  unfold FpFmt.units
  by_cases hz : code / 2 ^ f.mbits = 0
  · simp only [if_pos hz]
    congr 2; omega
  · simp only [if_neg hz]
    rw [mul_assoc, ← pow_add]
    generalize code / 2 ^ f.mbits = e at hz ⊢
    congr 2; omega

/-- The units of a code put together from an exponent field and the bits below it. -/
theorem FpFmt.units_mk (f : FpFmt) {e t : Nat} (he : e ≠ 0) (ht : 2 ^ f.mbits ≤ t) (ht' : t < 2 ^ (f.mbits + 1)) :
    f.units (e * 2 ^ f.mbits + (t - 2 ^ f.mbits)) = t * 2 ^ (e - 1) := by
  have hlt : t - 2 ^ f.mbits < 2 ^ f.mbits := by rw [pow_succ] at ht'; omega
  have hdiv : (e * 2 ^ f.mbits + (t - 2 ^ f.mbits)) / 2 ^ f.mbits = e := by
    rw [Nat.add_comm, Nat.add_mul_div_right _ _ (by positivity), Nat.div_eq_of_lt hlt, Nat.zero_add]
  have hmod : (e * 2 ^ f.mbits + (t - 2 ^ f.mbits)) % 2 ^ f.mbits = t - 2 ^ f.mbits := by
    rw [Nat.mul_add_mod_self_right, Nat.mod_eq_of_lt hlt]
  rw [FpFmt.units, hdiv, hmod, if_neg he, Nat.sub_add_cancel ht]

/-- The units of a code below the least normal one. -/
theorem FpFmt.units_subnormal (f : FpFmt) {t : Nat} (ht : t < 2 ^ f.mbits) : f.units t = t := by
  rw [FpFmt.units, if_pos (Nat.div_eq_of_lt ht), Nat.mod_eq_of_lt ht]

/-- The exponent of the unit in the last place of x * 2^eb in a format (R80). -/
def FpFmt.ulp (f : FpFmt) (x : Nat) (eb : Int) : Int :=
  max ((Nat.log2 x : Int) + eb) (1 - (f.bias : Int)) - (f.mbits : Int)

/-- The code written for a value has as many units as the value was rounded to (R80). -/
theorem units_roundFp (f : FpFmt) {x : Nat} (eb : Int) (mode : Nat) (u : W32) (hx : 0 < x) :
    f.units (roundFp f x eb mode u) =
      roundTo x eb (f.ulp x eb) mode u * 2 ^ (f.ulp x eb + f.bias + f.mbits - 1).toNat := by
  have hle : roundTo x eb (f.ulp x eb) mode u ≤ 2 ^ (f.mbits + 1) :=
    roundTo_le Nat.lt_log2_self (by unfold FpFmt.ulp; omega)
  have hge : 1 - (f.bias : Int) ≤ (Nat.log2 x : Int) + eb → 2 ^ f.mbits ≤ roundTo x eb (f.ulp x eb) mode u := fun h =>
    le_roundTo (Nat.log2_self_le hx.ne') (by unfold FpFmt.ulp; omega)
  have hulp : 1 - (f.bias : Int) - f.mbits ≤ f.ulp x eb := by unfold FpFmt.ulp; omega
  have hqx : max ((Nat.log2 x : Int) + eb) (1 - (f.bias : Int)) - (f.mbits : Int) = f.ulp x eb := rfl
  simp only [roundFp, hqx]
  generalize roundTo x eb (f.ulp x eb) mode u = t at hle hge ⊢
  by_cases htop : t = 2 ^ (f.mbits + 1)
  · simp only [if_pos htop, le_refl, if_true]
    rw [f.units_mk (by omega) le_rfl (Nat.pow_lt_pow_right (by decide) (Nat.lt_succ_self _)), htop,
      ← pow_add, ← pow_add]
    congr 1; omega
  · simp only [if_neg htop]
    by_cases hn : 2 ^ f.mbits ≤ t
    · rw [if_pos hn, f.units_mk (by omega) hn (by omega)]
      congr 2; omega
    · have hsub : f.ulp x eb = 1 - (f.bias : Int) - f.mbits := by
        have : ¬ 1 - (f.bias : Int) ≤ (Nat.log2 x : Int) + eb := fun h => hn (hge h)
        unfold FpFmt.ulp; omega
      have hzero : (f.ulp x eb + f.bias + f.mbits - 1).toNat = 0 := by omega
      rw [if_neg hn, f.units_subnormal (by omega), hzero, pow_zero, mul_one]

/-- A code written for a value that does not overflow decodes to the number of units it was rounded to. -/
theorem decodeFp_roundFp {f : FpFmt} (hf : f.Regular) {x : Nat} (eb : Int) (mode : Nat) (u : W32) (hx : 0 < x)
    (h : roundFp f x eb mode u ≤ f.maxCode) : decodeFp f (roundFp f x eb mode u) 0 =
      Dec.fin ((roundTo x eb (f.ulp x eb) mode u * 2 ^ (f.ulp x eb + 168).toNat : Nat) : Int) := by
  have hgrid := hf.onGrid
  rw [decodeFp_units hf h, units_roundFp f eb mode u hx, mul_assoc, ← pow_add]
  congr 4
  unfold FpFmt.ulp; omega

/-- Mode 2 compares the draw with the dropped remainder. The mode is a variable, since the kernel would otherwise evaluate
the product with 2^32. -/
theorem roundUp_sr {mode : Nat} (h : mode = 2) (t rem n : Nat) (u : W32) :
    roundUp mode t rem n u = decide (u.toNat < rem * 2 ^ 32 / 2 ^ n) := by
  unfold roundUp
  split
  · next => exact absurd h (by decide)
  · rfl
  · next hne => exact absurd h hne

/-- Stochastic rounding by its draw (R81): up exactly where the draw is below the dropped remainder in units of 2^-32. -/
theorem roundTo_sr {x : Nat} {eb qx : Int} (u : W32) (h : eb < qx) : roundTo x eb qx 2 u =
    x / 2 ^ (qx - eb).toNat +
      if u.toNat < x % 2 ^ (qx - eb).toNat * 2 ^ 32 / 2 ^ (qx - eb).toNat then 1 else 0 := by
  rw [roundTo_coarser h, roundUp_sr rfl]
  simp only [decide_eq_true_eq]
  split
  · rfl
  · rw [Nat.add_zero]

/-- Settles O60: the draw of SR by `roundTo_sr`, and the code of a rounded value by its units. -/
theorem stochasticRoundingFollowsItsDraw : Obligations.StochasticRoundingFollowsItsDraw := by
  unfold Obligations.StochasticRoundingFollowsItsDraw
  refine ⟨?_, ?_⟩
  rotate_left
  · intro f hf x eb mode u qx hx h
    exact decodeFp_roundFp (regular_of_mem hf) eb mode u hx h
  intro x eb qx u n down rem r
  refine ⟨roundTo_exact, fun h => ?_⟩
  have hr : r = down + if u.toNat < rem * 2 ^ 32 / 2 ^ n then 1 else 0 := roundTo_sr u h
  have hdiv : down * 2 ^ n + rem = x := Nat.div_add_mod' ..
  refine ⟨?_, ?_, fun hsmall => ?_, fun hzero => ?_⟩
  · rw [hr]; split <;> omega
  · rw [hr]; split <;> omega
  · rw [hr, Nat.div_eq_of_lt hsmall, if_neg (Nat.not_lt_zero _), Nat.add_zero]
  · rw [hr, hzero, Nat.zero_mul, Nat.zero_div, if_neg (Nat.not_lt_zero _), Nat.add_zero, ← hdiv, hzero, Nat.add_zero]

end Sys2Proof.Machine
end

section
/-! What leaves the coaches alone: the operations on pools, queues, records and waves that an abort runs beside the coach it
aborts (R130, R203, R410, R412, R419). -/

namespace Sys2Proof.Machine

variable (c : Chip)

/-! Pools -/

@[simp] theorem Chip.raise_coach (e : Ev) : (c.raise e).coach = c.coach := by
  obtain ⟨_, _, _, h⟩ := c.raise_rest e
  rw [h]

/-- An access to a bank changes registers and the banks' state. -/
theorem Chip.bankAccess_rest (die bank : Nat) : ∃ r b, c.bankAccess die bank = { c with regs := r, bank := b } := by
  simp only [Chip.bankAccess]
  split_ifs <;> split <;> exact ⟨_, _, rfl⟩

@[simp] theorem Chip.bankAccess_coach (die bank : Nat) : (c.bankAccess die bank).coach = c.coach := by
  obtain ⟨_, _, h⟩ := c.bankAccess_rest die bank
  rw [h]

/-- Evaluating a level sets it, and reports the rise to brake or stop (R206, R208). -/
theorem Chip.evalLevel_cases (die pool liv : Nat) : ∃ n,
    let c1 := { c with pool := { c.pool with level := Tbl.set 0 c.pool.level (usedKey die pool liv) n } }
    c.evalLevel die pool liv = (c1.bump (pgPol die) 0x1108).raise (evT (pgPol die) 0x0405 die liv pool) ∨
      c.evalLevel die pool liv = c1 :=
  ⟨_, ite_eq_or_eq ..⟩

@[simp] theorem Chip.evalLevel_coach (die pool liv : Nat) : (c.evalLevel die pool liv).coach = c.coach := by
  obtain ⟨_, h | h⟩ := c.evalLevel_cases die pool liv <;> rw [h]
  rw [Chip.raise_coach, Chip.bump_coach]

@[simp] theorem Chip.takeUnit_coach (die pool owner u : Nat) : (c.takeUnit die pool owner u).coach = c.coach :=
  c.bankAccess_coach die (unitBank pool u)

@[simp] theorem Chip.releaseUnit_coach (die pool u : Nat) : (c.releaseUnit die pool u).coach = c.coach := by
  unfold Chip.releaseUnit
  split
  · rfl
  · dsimp only
    split
    · exact c.bankAccess_coach die (unitBank pool u)
    · rw [Chip.evalLevel_coach]
      exact c.bankAccess_coach die (unitBank pool u)

@[simp] theorem Chip.releaseUnits_coach (die pool : Nat) (us : List Nat) :
    (c.releaseUnits die pool us).coach = c.coach :=
  keep_forAll Chip.coach us c _ fun u d => d.releaseUnit_coach die pool u

@[simp] theorem Chip.setCell_coach (bd cell : Nat) (x : Cell) : (c.setCell bd cell x).coach = c.coach := rfl

@[simp] theorem Chip.cellDecr_coach (r : CellRef) : (c.cellDecr r).coach = c.coach := by
  simp only [Chip.cellDecr]
  split_ifs <;> simp

@[simp] theorem Chip.dropCells_coach (rs : List CellRef) : (c.dropCells rs).coach = c.coach :=
  keep_forAll Chip.coach rs c _ fun r d => d.cellDecr_coach r

/-! Queues -/

@[simp] theorem Chip.setQueueSt_coach (p tc : Nat) (q : QueueSt) : (c.setQueueSt p tc q).coach = c.coach := rfl
@[simp] theorem Chip.setVoq_coach (k : Nat) (xs : List XItem) : (c.setVoq k xs).coach = c.coach := rfl
@[simp] theorem Chip.voqDrop_coach (ms : List Msg) : (c.voqDrop ms).coach = c.coach := rfl
@[simp] theorem Chip.setDrain_coach (d : Option Drain) : (c.setDrain d).coach = c.coach := rfl
@[simp] theorem Chip.bumpLnk_coach (p off : Nat) : (c.bumpLnk p off).coach = c.coach := rfl

@[simp] theorem Chip.watermark_coach (p tc d0 d1 : Nat) : (c.watermark p tc d0 d1).coach = c.coach := by
  simp only [Chip.watermark]
  split_ifs <;> simp

@[simp] theorem Chip.lpiWake_coach (p : Nat) : (c.lpiWake p).coach = c.coach := by
  unfold Chip.lpiWake
  split <;> rfl

@[simp] theorem Chip.enqueue_coach (p : Nat) (m : Msg) : (c.enqueue p m).coach = c.coach := by
  simp only [Chip.enqueue]
  split_ifs <;> simp

@[simp] theorem Chip.pfcCheck_coach (p i : Nat) : (c.pfcCheck p i).coach = c.coach := by
  simp only [Chip.pfcCheck]
  split_ifs <;> simp

@[simp] theorem Chip.toCrossbar_coach (pos dest q after : Nat) (m : Msg) :
    (c.toCrossbar pos dest q after m).2.coach = c.coach := by
  simp only [Chip.toCrossbar]
  split
  · exact Chip.pfcCheck_coach _ _ _
  · rfl

@[simp] theorem Chip.cross_coach (m : Msg) (dest q : Nat) : (c.cross m dest q).2.coach = c.coach := by
  unfold Chip.cross
  split
  · exact Chip.toCrossbar_coach _ _ _ _ _ _
  · rfl

@[simp] theorem Chip.deliver_coach (q : Nat) (m : Msg) : (c.deliver q m).coach = c.coach := by
  rw [Chip.deliver, Chip.enqueue_coach, Chip.cross_coach]

@[simp] theorem Chip.endTx_coach (p : Nat) (m : Msg) (code : Nat) : (c.endTx p m code).coach = c.coach := by
  simp [Chip.endTx, Chip.takeFresh]

@[simp] theorem Chip.purgePort_coach (p : Nat) (test : Msg → Bool) (code : Nat) :
    (c.purgePort p test code).coach = c.coach := by
  simp only [Chip.purgePort]
  split
  · rfl
  · refine (keep_forAll Chip.coach _ _ _ fun (m : Msg) d => d.dropCells_coach m.cells).trans
      ((keep_forAll Chip.coach _ _ _ fun tc d => ?_).trans ?_)
    · split
      · rw [Chip.watermark_coach]
      · rfl
    · split
      · rw [Chip.endTx_coach, Chip.voqDrop_coach, Chip.setEgress_coach]
      · rfl

@[simp] theorem Chip.purge_coach (test : Msg → Bool) (code : Nat) : (c.purge test code).coach = c.coach :=
  keep_forAll Chip.coach _ c _ fun p d => d.purgePort_coach p test code

@[simp] theorem Chip.purgeDrain_coach (test : Msg → Bool) : (c.purgeDrain test).coach = c.coach := by
  unfold Chip.purgeDrain
  split
  · exact keep_forAll Chip.coach _ _ _ fun m d => d.dropCells_coach m.cells
  · rfl

/-! Digests -/

@[simp] theorem Chip.setTrail_coach (s : W32) (x : TrailStep) : (c.setTrail s x).coach = c.coach := rfl

@[simp] theorem Chip.soilStep_coach (w : BitVec 256) : (c.soilStep w).coach = c.coach := by
  unfold Chip.soilStep
  split <;> rfl

@[simp] theorem Chip.digCompare_coach (a b : BitVec 256) : (c.digCompare a b).coach = c.coach := by
  simp only [Chip.digCompare]
  split_ifs <;> simp

@[simp] theorem Chip.digAdd_coach (w : BitVec 256) (own : Bool) : (c.digAdd w own).coach = c.coach := by
  simp only [Chip.digAdd]
  split
  · rw [Chip.digCompare_coach]
  · split
    · rw [Chip.soilStep_coach, Chip.bump_coach]
    · rfl

@[simp] theorem Chip.digestMake_coach (l e : Nat) (s : W32) (k : Nat) (aborted : Bool) (rstat : Nat) (digest : W64) :
    (c.digestMake l e s k aborted rstat digest).coach = c.coach := by
  simp only [Chip.digestMake]
  split
  · rw [Chip.digAdd_coach]
  · rfl

/-! Waves and notices -/

@[simp] theorem Chip.violation_coach (l cause : Nat) (p : Option Nat) : (c.violation l cause p).coach = c.coach :=
  congrArg (·.1) (c.violation_plane l cause p)

@[simp] theorem Chip.sendControl_coach (d l q sub dst : Nat) (b : BitVec 256) :
    (c.sendControl d l q sub dst b).2.coach = c.coach := by
  unfold Chip.sendControl
  split
  · simp only [Chip.violation_coach]
  · simp only [Chip.deliver_coach]

/-- A frame that is sent, whether it left or not. -/
theorem Chip.sendControl_pair_coach {d l q sub dst : Nat} {b : BitVec 256} {left : Bool} {k : Chip}
    (h : c.sendControl d l q sub dst b = (left, k)) : k.coach = c.coach := by
  rw [← c.sendControl_coach d l q sub dst b, h]

@[simp] theorem Chip.sendNotices_coach (d : Nat) (e : Entry) (bank : Bool) (w : WaveInfo) :
    (c.sendNotices d e bank w).coach = c.coach := by
  refine keep_forAll Chip.coach _ c _ fun p k => ?_
  split
  · next h => rw [Chip.bump_coach, Chip.sendControl_pair_coach k h]
  · next h => exact Chip.sendControl_pair_coach k h

@[simp] theorem Chip.sendWaves_coach (d l : Nat) (copies : List (Nat × BitVec 256)) :
    (c.sendWaves d l copies).coach = c.coach := by
  refine keep_forAll Chip.coach _ c _ fun x k => keep_forAll Chip.coach _ k _ fun q k => ?_
  split
  · next h => rw [Chip.bump_coach, Chip.sendControl_pair_coach k h]
  · next h => exact Chip.sendControl_pair_coach k h

@[simp] theorem Chip.startWaves_coach (d : Nat) (e : Entry) (w : WaveInfo) (leg : Option Nat) :
    (c.startWaves d e w leg).coach = c.coach := by
  simp only [Chip.startWaves]
  split
  · rfl
  · exact c.sendWaves_coach d w.livery _

end Sys2Proof.Machine
end

section
/-! The abort of a coach (R129, R130, R409): the coach is ABORTING with the cause, and stays so while the members of its
collective abort. -/

namespace Sys2Proof.Machine

/-! Slots -/

section
variable (c : Chip) {d e i j : Nat}

theorem Chip.slot_congr {k : Chip} (h : k.coach = c.coach) : k.slot e j = c.slot e j := by
  rw [Chip.slot, Chip.cch, h, Chip.slot, Chip.cch]

theorem Chip.slot_setSlot_ne (x : Coach) (h : ¬ (e = d ∧ j = i)) : (c.setSlot d i x).slot e j = c.slot e j := by
  by_cases hd : e = d
  · subst hd
    exact c.slot_setSlot_other x fun hi => h ⟨rfl, hi⟩
  · rw [Chip.setSlot, Chip.slot, Chip.cch_setCch_other _ _ hd, Chip.slot]

/-- What leaves the slots of a coach die leaves every coach. -/
theorem Chip.slot_setCch {x : CchDie} (h : x.slots = (c.cch d).slots) : (c.setCch d x).slot e j = c.slot e j := by
  by_cases hd : e = d
  · subst hd
    rw [Chip.slot, Chip.cch_setCch, h, Chip.slot]
  · rw [Chip.slot, Chip.cch_setCch_other _ _ hd, Chip.slot]

/-- Setting a mark changes no coach. -/
theorem Chip.setMark_slot (l idx : Nat) (s : W32) (td : Int) : (c.setMark d l idx s td).slot e j = c.slot e j := by
  simp only [Chip.setMark]
  split
  · rfl
  · split
    · exact c.slot_setCch rfl
    · split
      · rfl
      · rw [Chip.slot_congr _ (Chip.raise_coach _ _), Chip.slot_congr _ (Chip.bump_coach _ _ _ _)]
        exact c.slot_setCch rfl

/-! One coach -/

/-- What the abort of one coach makes of it. -/
def Coach.aborted (x : Coach) (cause : Nat) : Coach :=
  { x with
    phase := .aborting, cause := cause, lastCause := cause, holdq := [], outs := []
    contribs := x.contribs.map (fun k => { k with held := [] }) }

theorem Chip.abortSlot_coach (cause : Nat) :
    (c.abortSlot d i cause).coach = (c.setSlot d i ((c.slot d i).aborted cause)).coach := by
  simp only [Chip.abortSlot, Chip.digestMake_coach]
  split
  · rw [Chip.purgeDrain_coach, Chip.purge_coach, Chip.releaseUnits_coach, Chip.bump_coach]; rfl
  · rw [Chip.releaseUnits_coach, Chip.bump_coach]; rfl

theorem Chip.abortSlot_same (cause : Nat) : (c.abortSlot d i cause).slot d i = (c.slot d i).aborted cause := by
  rw [Chip.slot_congr _ (c.abortSlot_coach cause), Chip.slot_setSlot]

theorem Chip.abortSlot_ne (cause : Nat) (h : ¬ (e = d ∧ j = i)) : (c.abortSlot d i cause).slot e j = c.slot e j := by
  rw [Chip.slot_congr _ (c.abortSlot_coach cause), Chip.slot_setSlot_ne _ _ h]

@[simp] theorem Chip.overrunDue_coach : (c.overrunDue d i).coach = c.coach := by
  simp only [Chip.overrunDue, Chip.packOverrun]
  split
  · rw [Chip.raise_coach, Chip.bump_coach]
  · rfl
end

/-! The members of the collective -/

/-- What every pass of a loop keeps, the loop keeps. -/
theorem forAll_invariant {α σ : Type} {P : σ → Prop} {xs : List α} {c : σ} {f : α → σ → σ}
    (h : ∀ x c, P c → P (f x c)) (hc : P c) : P (forAll xs c f) := by
  show P (xs.foldl _ c)
  induction xs generalizing c with
  | nil => exact hc
  | cons x xs ih => exact ih (h x c hc)

section
variable {c : Chip} {e j : Nat} {x : Coach} (hx : x.phase = .aborting)
include hx

/-- A member that aborts on a cause of the collective is another coach, for one that is ABORTING stays (R134). -/
theorem Chip.abortMember_slot {d i : Nat} (cause : Nat) (h : c.slot e j = x) :
    (c.abortMember d i cause false).slot e j = x := by
  by_cases hs : e = d ∧ j = i
  · obtain ⟨rfl, rfl⟩ := hs
    simp only [Chip.abortMember, h, hx]
  · simp only [Chip.abortMember, Bool.false_eq_true, if_false]
    split
    · split
      · exact h
      · rw [Chip.abortSlot_ne _ _ hs, h]
    · split
      · exact h
      · rw [Chip.abortSlot_ne _ _ hs, h]
    · rw [Chip.abortSlot_ne _ _ hs, Chip.slot_congr _ c.overrunDue_coach, h]
    · exact h
    · exact h

theorem Chip.abortMembers_slot (l idx : Nat) (s : W32) (cause : Nat) (h : c.slot e j = x) :
    (c.abortMembers l idx s cause false).slot e j = x := by
  refine forAll_invariant (P := fun k : Chip => k.slot e j = x) (fun d (k : Chip) hk => ?_) h
  have hm := forAll_invariant (P := fun k : Chip => k.slot e j = x)
    (xs := k.slotsWhere d (fun x => decide (x.livery = l ∧ x.entry = idx ∧ x.step = s)))
    (f := fun i k => k.abortMember d i cause false) (fun i k hk => Chip.abortMember_slot hx cause hk) hk
  dsimp only
  generalize forAll (k.slotsWhere d _) k _ = m at hm ⊢
  split
  · exact hm
  · rw [Chip.slot_congr _ (Chip.releaseUnits_coach _ _ _ _)]
    refine (m.slot_setCch ?_).trans hm
    rfl

theorem Chip.ownerActs_slot (d : Nat) (ent : Entry) (bank : Bool) (td : Int) (w : WaveInfo) (h : c.slot e j = x) :
    (c.ownerActs d ent bank td w none).slot e j = x := by
  have hmarks : (forAll (stripeDies ent) c fun d c => c.setMark d w.livery w.entry w.step td).slot e j = x :=
    forAll_invariant (P := fun k : Chip => k.slot e j = x) (fun _ (k : Chip) hk => (k.setMark_slot ..).trans hk) h
  have hmembers := Chip.abortMembers_slot hx w.livery w.entry w.step w.cause hmarks
  simp only [Chip.ownerActs, Option.isSome_none]
  split
  · exact hmembers
  · rw [Chip.slot_congr _ (Chip.startWaves_coach ..), Chip.slot_congr _ (Chip.sendNotices_coach ..), hmembers]

theorem Chip.originAbort_slot (d : Nat) (ent : Entry) (bank : Bool) (td : Int) (l idx : Nat) (s : W32) (k cause : Nat)
    (h : c.slot e j = x) : (c.originAbort (some d) ent bank td l idx s k cause).slot e j = x := by
  have hmark : (c.setMark d l idx s td).slot e j = x := (c.setMark_slot ..).trans h
  simp only [Chip.originAbort]
  split
  · exact hmark
  · split
    · exact Chip.ownerActs_slot hx _ _ _ _ _ hmark
    · exact hmark
end

/-- The coach that aborts on a cause of its own. -/
theorem Chip.abortCoach_slot (c : Chip) {d i : Nat} (cause pg port : Nat) (h : (c.slot d i).phase = .folding) :
    (c.abortCoach d i cause (some pg) port).slot d i = (c.slot d i).aborted cause := by
  rw [Chip.abortCoach, if_pos (.inl h)]
  refine Chip.originAbort_slot rfl _ _ _ _ _ _ _ _ _ ?_
  rw [Chip.abortSlot_same, Chip.slot_congr _ (Chip.raise_coach _ _)]

end Sys2Proof.Machine
end

section
/-! The creation of a coach (R117): what taking its granules leaves of the part, and the coach that stands in its slot. -/

namespace Sys2Proof.Machine

/-! Granules -/

/-- Registers at different offsets are different registers, whatever their pages. -/
theorem regKey_ne_of_off {p o i p' o' i' : Nat} (ho : o < 0x10000) (ho' : o' < 0x10000) (h : o ≠ o') :
    regKey p o i ≠ regKey p' o' i' := by
  unfold regKey; omega

/-- The offsets of the registers that taking granules can write: the counts and the event registers of the POL and MEM pages
of the die, its retention flags of the banks below 64, FLT_EVQ_LOST and the snapshot registers. -/
def granuleOffs : List Nat := [0x14, 0x24, 0x28, 0x1004, 0x100C, 0x1020, 0x1024, 0x1080, 0x1108, 0x110C, 0x1110]

/-- What taking granules leaves of the part: coaches, timetable, and every register at another offset. -/
structure Chip.GranuleFrame (a b : Chip) : Prop where
  coach : b.coach = a.coach
  tt : b.tt = a.tt
  reg : ∀ page off inst, off < 0x10000 → off ∉ granuleOffs → b.reg page off inst = a.reg page off inst

namespace Chip.GranuleFrame

variable {a b k : Chip}

theorem refl (a : Chip) : a.GranuleFrame a := ⟨rfl, rfl, fun _ _ _ _ _ => rfl⟩

theorem trans (h : a.GranuleFrame b) (g : b.GranuleFrame k) : a.GranuleFrame k :=
  ⟨g.coach.trans h.coach, g.tt.trans h.tt, fun p o i ho hn => (g.reg p o i ho hn).trans (h.reg p o i ho hn)⟩

/-- Another part with the same coaches, timetable and registers. -/
theorem of_eq (hc : b.coach = a.coach) (ht : b.tt = a.tt) (hr : b.regs = a.regs) : a.GranuleFrame b :=
  ⟨hc, ht, fun _ _ _ _ _ => by rw [Chip.reg, hr, Chip.reg]⟩

theorem setReg (a : Chip) {off : Nat} (page : Nat) (v : W32) (inst : Nat) (h : off ∈ granuleOffs) (ho : off < 0x10000) :
    a.GranuleFrame (a.setReg page off v inst) :=
  ⟨rfl, rfl, fun _ _ _ ho' hn => a.reg_setReg_other v (regKey_ne_of_off ho' ho fun e => hn (e ▸ h))⟩

theorem raise (a : Chip) (e : Ev) : a.GranuleFrame (a.raise e) := by
  refine ⟨a.raise_coach e, ?_, fun page o inst ho hn => a.raise_reg e ?_⟩
  · obtain ⟨_, _, _, h⟩ := a.raise_rest e
    rw [h]
  · have hk : ∀ off ∈ granuleOffs, ∀ pg, regKey page o inst ≠ regKey pg off 0 := fun off hoff pg =>
      regKey_ne_of_off ho (by revert off; decide) fun he => hn (he ▸ hoff)
    simp only [evKeys, List.mem_cons, List.not_mem_nil, or_false, not_or]
    exact ⟨hk _ (by decide) _, hk _ (by decide) _, hk _ (by decide) _, hk _ (by decide) _, hk _ (by decide) _,
      hk _ (by decide) _⟩

theorem bankAccess (a : Chip) {bank : Nat} (die : Nat) (h : bank < 64) : a.GranuleFrame (a.bankAccess die bank) := by
  have hoff : 0x1020 + 4 * (bank / 32) ∈ granuleOffs := by
    have : bank / 32 = 0 ∨ bank / 32 = 1 := by omega
    rcases this with hb | hb <;> rw [hb] <;> decide
  simp only [Chip.bankAccess, if_pos (show bank < 128 by omega)]
  split
  · exact of_eq rfl rfl rfl
  · split
    · refine trans ?_ (setReg _ _ _ _ (off := 0x1110) (by decide) (by decide))
      exact of_eq rfl rfl rfl
    · exact of_eq rfl rfl rfl
  · exact of_eq rfl rfl rfl
  · refine trans ?_ (setReg _ _ _ _ hoff (by omega))
    refine trans ?_ (setReg _ _ _ _ (off := 0x110C) (by decide) (by decide))
    exact of_eq rfl rfl rfl
  · exact of_eq rfl rfl rfl

theorem evalLevel (a : Chip) (die pool liv : Nat) : a.GranuleFrame (a.evalLevel die pool liv) := by
  obtain ⟨n, h | h⟩ := a.evalLevel_cases die pool liv
  · rw [h]
    refine trans ?_ (raise _ _)
    refine trans ?_ (setReg _ _ _ _ (off := 0x1108) (by decide) (by decide))
    exact of_eq rfl rfl rfl
  · rw [h]
    exact of_eq rfl rfl rfl

theorem takeUnit (a : Chip) {u : Nat} (die owner : Nat) (h : u < poolUnits plAcc) :
    a.GranuleFrame (a.takeUnit die plAcc owner u) := by
  have hb : unitBank plAcc u < 64 := by
    simp only [poolUnits, plAcc, unitBank] at h ⊢; omega
  exact (bankAccess a die hb).trans (of_eq rfl rfl rfl)

end Chip.GranuleFrame

theorem findFrom_lt {ok : Nat → Bool} {u : Nat} : ∀ {fuel start : Nat}, findFrom ok fuel start = some u → u < start + fuel
  | fuel + 1, start, h => by
    unfold findFrom at h
    split at h
    · cases h; omega
    · have := findFrom_lt h; omega

variable {c k : Chip}

theorem Chip.lowestFree_lt {die pool u : Nat} (h : c.lowestFree die pool = some u) : u < poolUnits pool := by
  simp only [Chip.lowestFree] at h
  split at h
  · next hu =>
    cases h
    simpa using findFrom_lt hu
  · simpa using findFrom_lt h

/-- Granules are taken in full. -/
theorem Chip.tryUnits_acc {die owner n : Nat} {us : List Nat} (h : c.tryUnits die plAcc owner n = some (us, k)) :
    us.length = n ∧ c.GranuleFrame k := by
  induction n generalizing us k with
  | zero =>
    cases h
    exact ⟨rfl, .refl c⟩
  | succ n ih =>
    simp only [Chip.tryUnits] at h
    split at h
    · cases h
    · next us' k' hn =>
      obtain ⟨hlen, hk⟩ := ih hn
      split at h
      · split at h
        · next u hu =>
          cases h
          exact ⟨by simp [hlen], hk.trans (.takeUnit k' die owner (Chip.lowestFree_lt hu))⟩
        · cases h
      · cases h

theorem Chip.allocUnits_acc {die owner n : Nat} {us : List Nat} (h : c.allocUnits die plAcc owner n = (some us, k)) :
    us.length = n ∧ c.GranuleFrame k := by
  unfold Chip.allocUnits at h
  split at h
  · next hn =>
    obtain ⟨hlen, hk⟩ := Chip.tryUnits_acc hn
    cases h
    refine ⟨hlen, ?_⟩
    split
    · exact hk
    · exact hk.trans (.evalLevel _ _ _ _)
  · cases h

/-! The coach -/

/-- What a role reads of the grid is not a granule's. -/
theorem Chip.GranuleFrame.roleOf (h : c.GranuleFrame k) (e : Entry) (n : Nat) : k.roleOf e n = c.roleOf e n := by
  have hg : k.reg pgTtb 0x1300 = c.reg pgTtb 0x1300 := h.reg _ _ _ (by decide) (by decide)
  have hcol : k.gridCol = c.gridCol := by rw [Chip.gridCol, Chip.field, hg, Chip.gridCol, Chip.field]
  have hrow : k.gridRow = c.gridRow := by rw [Chip.gridRow, Chip.field, hg, Chip.gridRow, Chip.field]
  rw [Chip.roleOf, hcol, hrow, Chip.roleOf]

theorem Chip.GranuleFrame.partialPeer (h : c.GranuleFrame k) (e : Entry) (n : Nat) (r : Role) :
    k.partialPeer e n r = c.partialPeer e n r := by
  have hg : ∀ i, k.reg pgRte 0x1304 i = c.reg pgRte 0x1304 i := fun i => h.reg _ _ i (by decide) (by decide)
  cases r <;> simp only [Chip.partialPeer, Chip.gridEnt, hg]

theorem Chip.GranuleFrame.ttCset (h : c.GranuleFrame k) (b : Bool) (i : Nat) : k.ttCset b i = c.ttCset b i := by
  rw [Chip.ttCset, h.tt, Chip.ttCset]

theorem Chip.GranuleFrame.lateMarks (h : c.GranuleFrame k) (d l e n : Nat) (s : W32) :
    k.lateMarks d l e n s = c.lateMarks d l e n s := by
  rw [Chip.lateMarks, Chip.cch, h.coach, Chip.lateMarks, Chip.cch]

/-- The coach that stands in slot `i` once its granules `us` are taken (R117). -/
def Chip.newCoach (c : Chip) (d i l e n : Nat) (s : W32) (v : Served) (us : List Nat) : Coach :=
  let r := c.roleOf v.ent n
  { Coach.empty with
    phase := .folding, livery := l, entry := e, step := s, chunk := n, bank := v.bank, ent := v.ent, role := r
    express := eExpress v.ent, late := c.lateFold v.ent, seeds := c.seedsOf l, lastCause := (c.slot d i).lastCause
    td := v.td, tc := v.tc r, expected := (c.expectedOf v.ent v.bank r).1
    absent := (c.expectedOf v.ent v.bank r).2, granules := us
    partialPort := (c.partialPeer v.ent n r).bind (fun g => if gValid g then some (gPort0 g) else none)
    lateSet := c.lateMarks d l e n s }

/-- The contributor set of an entry does not have the fan-in that ordered mode asks for (R96). -/
def Chip.badSignature (c : Chip) (v : Served) : Prop :=
  eOrdered v.ent = true ∧ eFanin v.ent ≠ ones (c.ttCset v.bank (eCset v.ent))

theorem Chip.freeSlotFor_some {d i : Nat} {x : Bool} (h : c.freeSlotFor d x = some i) :
    i < 1024 ∧ (c.slot d i).phase = .free := by
  simp only [Chip.freeSlotFor, Option.ite_none_right_eq_some] at h
  obtain ⟨_, hfind⟩ := h
  exact ⟨List.mem_range.1 (List.mem_of_find?_eq_some hfind), by simpa [Coach.live] using List.find?_some hfind⟩

@[simp] theorem Chip.dropLates_slot (d l e n : Nat) (s : W32) (a i : Nat) :
    (c.dropLates d l e n s).slot a i = c.slot a i := c.slot_setCch rfl

section
variable {d l e n size i : Nat} {s : W32} {v : Served}

/-- A creation that succeeds: a free slot and its granules, the coach, and then the ordered-mode check. -/
theorem Chip.createCoach_some (h : c.createCoach d l e n size s v = (some i, k)) :
    ∃ us a, c.freeSlotFor d (eExpress v.ent) = some i ∧
      c.allocUnits (dieC d) plAcc l (ceilDiv size 64) = (some us, a) ∧
      let b := ((a.setSlot d i (a.newCoach d i l e n s v us)).dropLates d l e n s).bump (pgCch d) 0x1100
      (b.badSignature v ∧ k = b.abortCoach d i evOrderSig (some (pgCch d)) ∨ ¬ b.badSignature v ∧ k = b) := by
  unfold Chip.createCoach at h
  split at h
  · cases h
  · next hf =>
    split at h
    · cases h
    · next us a ha =>
      refine ⟨us, a, ?_, ha, ?_⟩
      · dsimp only at h
        split at h <;> cases h <;> exact hf
      · dsimp only at h
        split at h
        · next hb => cases h; exact .inl ⟨hb, rfl⟩
        · next hb => cases h; exact .inr ⟨hb, rfl⟩

/-- The coach of a creation: it folds, or the ordered-mode check has aborted it. -/
theorem Chip.createCoach_slot (h : c.createCoach d l e n size s v = (some i, k)) :
    ∃ us a, us.length = (size + 63) / 64 ∧ c.GranuleFrame a ∧ i < 1024 ∧ (c.slot d i).phase = .free ∧
      (¬ c.badSignature v → k.slot d i = a.newCoach d i l e n s v us ∧
        k.reg (pgCch d) 0x1100 = c.reg (pgCch d) 0x1100 + 1) ∧
      (c.badSignature v → k.slot d i = (a.newCoach d i l e n s v us).aborted evOrderSig) := by
  obtain ⟨us, a, hf, ha, hk⟩ := Chip.createCoach_some h
  obtain ⟨hlen, hframe⟩ := Chip.allocUnits_acc ha
  obtain ⟨hi, hfree⟩ := Chip.freeSlotFor_some hf
  have hsig : ∀ b : Chip, b.tt = a.tt → (b.badSignature v ↔ c.badSignature v) := fun b hb => by
    rw [Chip.badSignature, Chip.ttCset, hb, ← Chip.ttCset, hframe.ttCset, Chip.badSignature]
  have hslot : (((a.setSlot d i (a.newCoach d i l e n s v us)).dropLates d l e n s).bump (pgCch d) 0x1100).slot d i =
      a.newCoach d i l e n s v us := by
    rw [Chip.slot_congr _ (Chip.bump_coach ..), Chip.dropLates_slot, Chip.slot_setSlot]
  refine ⟨us, a, hlen, hframe, hi, hfree, fun hn => ?_, fun hb => ?_⟩
  · obtain ⟨hb, _⟩ | ⟨_, rfl⟩ := hk
    · exact absurd ((hsig _ rfl).1 hb) hn
    · refine ⟨hslot, ?_⟩
      rw [Chip.reg_bump, ← hframe.reg (pgCch d) 0x1100 0 (by decide) (by decide)]
      rfl
  · obtain ⟨_, rfl⟩ | ⟨hn, _⟩ := hk
    · rw [Chip.abortCoach_slot, hslot]
      rw [hslot]; rfl
    · exact absurd ((hsig _ rfl).2 hb) hn

/-- What the coach of a creation records, in terms of the part before it. -/
theorem Chip.createCoach_fields (h : c.createCoach d l e n size s v = (some i, k)) :
    let x := k.slot d i
    i < 1024 ∧ (c.slot d i).phase = .free ∧
    (¬ c.badSignature v → x.phase = .folding ∧ x.livery = l ∧ x.entry = e ∧ x.chunk = n ∧ x.step = s ∧
      x.ent = v.ent ∧ x.td = v.td ∧ x.admitted = 0 ∧ x.lateSet = c.lateMarks d l e n s ∧
      x.partialPort =
        (c.partialPeer v.ent n (c.roleOf v.ent n)).bind (fun g => if gValid g then some (gPort0 g) else none) ∧
      x.contribs = [] ∧ x.granules.length = (size + 63) / 64 ∧
      k.reg (pgCch d) 0x1100 = c.reg (pgCch d) 0x1100 + 1) ∧
    (c.badSignature v → x.phase = .aborting ∧ x.cause = evOrderSig) := by
  intro x
  obtain ⟨us, a, hlen, hframe, hi, hfree, hgood, hbad⟩ := Chip.createCoach_slot h
  refine ⟨hi, hfree, fun hn => ?_, fun hb => ?_⟩
  · obtain ⟨hx, hcount⟩ := hgood hn
    refine ⟨?_, ?_, ?_, ?_, ?_, ?_, ?_, ?_, ?_, ?_, ?_, ?_, hcount⟩
    all_goals simp only [x, hx, Chip.newCoach, Coach.empty, hframe.lateMarks, hframe.roleOf,
      hframe.partialPeer, hlen]
  · simp only [x, hbad hb, Coach.aborted, and_self]
end

end Sys2Proof.Machine
end

section
/-! The checks of a first frame at its coach die (R116 to R119, R123): one outcome per check. -/

namespace Sys2Proof.Machine

variable {c : Chip} {d p stamp : Nat} {w : BitVec 256} {v : Served} {h : HeldFrame}

@[simp] theorem Chip.dropStg_nil : c.dropStg d [] = c := rfl

/-! A faulty waybill (R116 check 6, R118) -/

/-- What check 6 finds at a waybill: a wrong VER, or fields out of range. -/
def WaybillFault (w : BitVec 256) (k : Nat) : Prop :=
  (k = 0x0206 ∧ wVer w ≠ 1) ∨
    (k = 0x0207 ∧ wVer w = 1 ∧
      (2 ≤ wKind w ∨ wElemCount w = 0 ∨ 4096 < wElemCount w ∨ 2 ^ 36 < wElemBase w + wElemCount w))

theorem rangeOk_iff : rangeOk w = true ↔
    ¬ (wElemCount w = 0 ∨ 4096 < wElemCount w ∨ 2 ^ 36 < wElemBase w + wElemCount w) := by
  rw [rangeOk, decide_eq_true_eq]; omega

theorem waybillFault_eq {k : Nat} (hk : WaybillFault w k) : waybillFault w = k ∧ k ≠ 0 := by
  unfold waybillFault
  obtain ⟨rfl, hver⟩ | ⟨rfl, hver, hrange⟩ := hk
  · exact ⟨if_pos hver, by decide⟩
  · refine ⟨?_, by decide⟩
    rw [if_neg (not_not.2 hver)]
    by_cases hkind : 2 ≤ wKind w
    · rw [if_pos hkind, evMismatch]
    · rw [if_neg hkind, if_pos, evMismatch]
      rw [Bool.not_eq_true', ← Bool.not_eq_true, rangeOk_iff, not_not]
      exact hrange.resolve_left hkind

theorem waybillFault_sound (hs : ∀ k, ¬ WaybillFault w k) : waybillFault w = 0 := by
  have hver : wVer w = 1 := not_not.1 fun hv => hs _ (.inl ⟨rfl, hv⟩)
  obtain ⟨hkind, hrange⟩ := not_or.1 fun hr => hs _ (.inr ⟨rfl, hver, hr⟩)
  rw [waybillFault, if_neg (not_not.2 hver), if_neg hkind, if_neg]
  simpa using rangeOk_iff.2 hrange

/-! Checks 3 to 6 -/

/-- The slot of a coach of the frame's own step, if any. -/
def Chip.ownSlot (c : Chip) (d : Nat) (w : BitVec 256) : Option Nat :=
  (c.keySlot d (wLiv w) (wEntry w) (wChunk w) (wStep w)).filter fun i => decide ((c.slot d i).step = wStep w)

theorem Chip.ownSlot_eq_some {i : Nat} : c.ownSlot d w = some i ↔
    c.keySlot d (wLiv w) (wEntry w) (wChunk w) (wStep w) = some i ∧ (c.slot d i).step = wStep w := by
  simp [Chip.ownSlot, Option.filter_eq_some_iff]

/-- The contributors that the frame's coach expects, or would expect. -/
def Chip.expecting (c : Chip) (d : Nat) (w : BitVec 256) (v : Served) : BitVec 1024 :=
  ((c.ownSlot d w).map fun i => (c.slot d i).expected).getD (c.expectedOf v.ent v.bank (c.roleOf v.ent (wChunk w))).1

theorem Chip.expecting_iff : (c.expecting d w v).getLsbD p = true ↔
    (∃ i, c.ownSlot d w = some i ∧ (c.slot d i).expected.getLsbD p = true) ∨
      ((∀ i, c.ownSlot d w ≠ some i) ∧
        (c.expectedOf v.ent v.bank (c.roleOf v.ent (wChunk w))).1.getLsbD p = true) := by
  unfold Chip.expecting
  cases c.ownSlot d w <;> simp

/-- The checks of R116 in their order. -/
theorem Chip.admitFirst_eq : c.admitFirst d p w stamp v h =
    if c.hasMark d (wLiv w) (wEntry w) (wStep w) = true then (c.bump (pgCch d) 0x1124).dropStg d h.stg
    else if (stamp : Int) < v.t - (v.cyc * 65536 : Nat) then (c.bump (pgCch d) 0x1118).dropStg d h.stg
    else if c.lateFold v.ent = true ∧ v.tc (c.roleOf v.ent (wChunk w)) ≤ (stamp : Int) then c.lateFrame d p w stamp v h
    else if c.lateFold v.ent = false ∧ v.td ≤ (stamp : Int) then (c.bump (pgCch d) 0x1114).dropStg d h.stg
    else if (c.expecting d w v).getLsbD p = false then
      ((c.bump (pgCch d) 0x1110).raise
        (evC (pgCch d) 0x020D (8 + d) (wLiv w) (wEntry w) (wStep w) (wChunk w) p)).dropStg d h.stg
    else if waybillFault w ≠ 0 then (c.waybillAbort d p w v (c.ownSlot d w)).dropStg d h.stg
    else c.admitFresh d p w stamp v h := by
  unfold Chip.admitFirst Chip.expecting Chip.ownSlot
  cases hk : c.keySlot d (wLiv w) (wEntry w) (wChunk w) (wStep w) with
  | none => simp [hk, slotUnits, dieC]
  | some i => by_cases hs : (c.slot d i).step = wStep w <;> simp [hk, slotUnits, dieC, hs, Option.filter]

/-- A first frame without a tailboard that an entry serves meets those checks. -/
theorem Chip.coachFirst_serves {m : Msg} {us : List Nat} (ht : m.tail = 0)
    (hv : c.serving (wLiv (bvBE 256 (m.body.take 32))) (wEntry (bvBE 256 (m.body.take 32)))
      (wStep (bvBE 256 (m.body.take 32))) = some v) :
    c.coachFirst d m us =
      c.admitFirst d m.inPort (bvBE 256 (m.body.take 32)) m.stamp v ⟨true, 0, m.body.drop 32, 0, us⟩ := by
  simp only [Chip.coachFirst, ht, ne_eq, not_true_eq_false, if_false, hv]

/-- A faulty waybill aborts the coach of its step, which is not CLOSED. -/
theorem Chip.waybillAbort_coach {i : Nat} (hi : c.ownSlot d w = some i) (hp : (c.slot d i).phase ≠ .closed) :
    c.waybillAbort d p w v (c.ownSlot d w) = c.abortCoach d i (waybillFault w) (some (pgCch d)) p := by
  simp [Chip.waybillAbort, hi, Option.filter, hp]

/-- Without such a coach it aborts the collective. -/
theorem Chip.waybillAbort_collective (hp : ∀ i, c.ownSlot d w = some i → (c.slot d i).phase = .closed) :
    c.waybillAbort d p w v (c.ownSlot d w) =
      c.abortNoCoach d v (wLiv w) (wEntry w) (wStep w) (wChunk w) (waybillFault w) p := by
  unfold Chip.waybillAbort
  cases hs : c.ownSlot d w with
  | none => rfl
  | some i => simp [Option.filter, hp i hs]

/-! Checks 7 to 9 and admission -/

/-- The slot of another step with the frame's key is a conflict. -/
theorem Chip.admitFresh_conflict {i : Nat}
    (hk : c.keySlot d (wLiv w) (wEntry w) (wChunk w) (wStep w) = some i) (hs : (c.slot d i).step ≠ wStep w) :
    c.admitFresh d p w stamp v h = ((c.bump (pgCch d) 0x111C).raise
      (evC (pgCch d) 0x020C (8 + d) (wLiv w) (wEntry w) (wStep w) (wChunk w) p)).dropStg d h.stg := by
  simp only [Chip.admitFresh, hk, if_neg hs, dieC]

theorem Chip.admitFresh_own {i : Nat} (hi : c.ownSlot d w = some i) :
    c.admitFresh d p w stamp v h = c.admitTo d i p w stamp v [h] := by
  obtain ⟨hk, hs⟩ := Chip.ownSlot_eq_some.1 hi
  simp only [Chip.admitFresh, hk, if_pos hs]

theorem Chip.admitFresh_creates {i : Nat} {k : Chip}
    (hn : c.keySlot d (wLiv w) (wEntry w) (wChunk w) (wStep w) = none)
    (hc : c.createCoach d (wLiv w) (wEntry w) (wChunk w) (wElemCount w) (wStep w) v = (some i, k)) :
    c.admitFresh d p w stamp v h = k.admitTo d i p w stamp v [h] := by
  simp only [Chip.admitFresh, hn, hc]

theorem Chip.admitFresh_waits {k : Chip}
    (hn : c.keySlot d (wLiv w) (wEntry w) (wChunk w) (wStep w) = none)
    (hc : c.createCoach d (wLiv w) (wEntry w) (wChunk w) (wElemCount w) (wStep w) v = (none, k)) :
    c.admitFresh d p w stamp v h = k.addWaiting d ⟨p, w, stamp, wStep w, false, v, v.td, [h]⟩ := by
  simp only [Chip.admitFresh, hn, hc]

section
variable {i : Nat}

/-- A coach that still takes contributions. -/
def Coach.stillFolds (x : Coach) : Prop := x.phase = .folding ∨ x.phase = .sealed

/-- A coach that treats a contribution as late. -/
def Coach.packs (x : Coach) : Prop := x.phase = .packing ∨ x.phase = .closed

/-- The contributor has come, or another one has come to a coach that copies (R119, R143). -/
def Coach.hasCome (x : Coach) (p : Nat) : Prop :=
  x.admitted.getLsbD p = true ∨ (opCopying (eOp x.ent) = true ∧ x.admitted ≠ 0)

theorem Coach.hasCome_iff {x : Coach} :
    (x.admitted.getLsbD p || (opCopying (eOp x.ent) && decide (x.admitted ≠ 0))) = true ↔ x.hasCome p := by
  simp only [Coach.hasCome, Bool.or_eq_true, Bool.and_eq_true, decide_eq_true_eq]

theorem Chip.admitTo_aborting (hx : (c.slot d i).phase = .aborting) : c.admitTo d i p w stamp v [h] = c.dropStg d h.stg := by
  simp [Chip.admitTo, hx]

theorem Chip.admitTo_duplicate (hx : (c.slot d i).stillFolds ∨ (c.slot d i).packs) (hd : (c.slot d i).hasCome p) :
    c.admitTo d i p w stamp v [h] = (c.duplicate d p w).dropStg d h.stg := by
  have hd := Coach.hasCome_iff.2 hd
  rcases hx with (hx | hx) | (hx | hx) <;>
    simp only [Chip.admitTo, hx, hd, if_true, List.flatMap_cons, List.flatMap_nil, List.append_nil]

theorem Chip.admitTo_late (hx : (c.slot d i).packs) (hd : ¬ (c.slot d i).hasCome p) :
    c.admitTo d i p w stamp v [h] = c.lateFrame d p w stamp v h := by
  rw [← Coach.hasCome_iff, Bool.not_eq_true] at hd
  rcases hx with hx | hx <;>
    simp only [Chip.admitTo, hx, hd, Bool.false_eq_true, if_false, List.flatMap_nil, Chip.dropStg_nil]

theorem Chip.admitTo_disagrees (hx : (c.slot d i).stillFolds) (hd : ¬ (c.slot d i).hasCome p)
    (hf : (c.slot d i).fieldFault w ≠ 0) : c.admitTo d i p w stamp v [h] =
      (c.abortCoach d i ((c.slot d i).fieldFault w) (some (pgCch d)) p).dropStg d h.stg := by
  rw [← Coach.hasCome_iff, Bool.not_eq_true] at hd
  rcases hx with hx | hx <;>
    simp only [Chip.admitTo, hx, hd, Bool.false_eq_true, if_false, if_pos hf, List.flatMap_cons,
      List.flatMap_nil, List.append_nil]

/-- The coach that admits a contribution of its own step. -/
def Coach.joined (x : Coach) (p : Nat) (w : BitVec 256) (stamp : Nat) (h : HeldFrame) : Coach :=
  let y := x.recordFields w false
  { y with
    admitted := putBit y.admitted p true
    contribs := y.contribs ++ [newContrib p false w stamp (eOrdered y.ent) h] }

theorem Chip.admitTo_admits (hx : (c.slot d i).stillFolds) (hd : ¬ (c.slot d i).hasCome p)
    (hf : (c.slot d i).fieldFault w = 0) : c.admitTo d i p w stamp v [h] =
      c.setSlot d i ((c.slot d i).joined p w stamp h) := by
  rw [← Coach.hasCome_iff, Bool.not_eq_true] at hd
  rcases hx with hx | hx <;>
    simp only [Chip.admitTo, hx, hd, Bool.false_eq_true, if_false, hf, ne_eq, not_true_eq_false, Chip.attach,
      Bool.false_and, Chip.joinFrames, Coach.joined]

/-- What an admission leaves of the coach. -/
theorem Coach.joined_fields (x : Coach) : (x.joined p w stamp h).phase = x.phase ∧
    (x.joined p w stamp h).admitted = putBit x.admitted p true ∧ (x.joined p w stamp h).accs = x.accs ∧
    (x.joined p w stamp h).recorded = true ∧
    (x.joined p w stamp h).contribs = x.contribs ++ [newContrib p false w stamp (eOrdered x.ent) h] := by
  simp only [Coach.joined, Coach.recordFields, Bool.false_or]
  split
  · next hr => exact ⟨rfl, rfl, rfl, (Bool.and_eq_true_iff.1 hr).1, rfl⟩
  · exact ⟨rfl, rfl, rfl, rfl, rfl⟩

/-- A coach that folds takes the contribution, and nothing else changes. -/
theorem Chip.admitTo_contributes (hx : (c.slot d i).stillFolds) (hd : ¬ (c.slot d i).hasCome p)
    (hf : (c.slot d i).fieldFault w = 0) :
    ∃ y, (c.admitTo d i p w stamp v [h]).slot d i = y ∧ c.admitTo d i p w stamp v [h] = c.setSlot d i y ∧
      y.phase = (c.slot d i).phase ∧ y.admitted = putBit (c.slot d i).admitted p true ∧ y.accs = (c.slot d i).accs ∧
      y.recorded = true ∧
      y.contribs = (c.slot d i).contribs ++ [newContrib p false w stamp (eOrdered (c.slot d i).ent) h] := by
  have hadmits := Chip.admitTo_admits (v := v) (stamp := stamp) (h := h) hx hd hf
  refine ⟨_, ?_, hadmits, Coach.joined_fields _⟩
  rw [hadmits, Chip.slot_setSlot]
end

/-! Late contributions (R128, R144) -/

/-- A contribution to a copying coach is not carried. -/
theorem Chip.lateReason_copying {ent : Entry} {sv : Option Served} (hc : opCopying (eOp ent) = true) :
    c.lateReason d p w stamp ent sv = 9 := by
  unfold Chip.lateReason
  exact if_pos hc

/-- Nor is one whose entry drops what comes late. -/
theorem Chip.lateReason_drops {ent : Entry} {sv : Option Served} (hc : opCopying (eOp ent) = false)
    (ha : eLateAct ent = false) : c.lateReason d p w stamp ent sv = 1 := by
  unfold Chip.lateReason
  exact (if_neg (by simp [hc])).trans (if_pos (by simp [ha]))

/-- A late contribution that is not carried is noted, enters the ledger with its reason and is discarded. -/
theorem Chip.lateFrame_dropped
    (hr : c.lateReason d p w stamp v.ent (c.serving (wLiv w) (wEntry w) (wStep w + 1)) ≠ 0) :
    c.lateFrame d p w stamp v h = (((c.bump (pgCch d) 0x1120).noteLate d p w v.td).ledgerWrite d w p
      (c.lateReason d p w stamp v.ent (c.serving (wLiv w) (wEntry w) (wStep w + 1))) stamp).dropStg d h.stg := by
  unfold Chip.lateFrame
  dsimp only
  split
  · next h0 _ => exact absurd h0 hr
  · rfl

end Sys2Proof.Machine
end

section
/-! The retry of a creation (R117, R128). -/

namespace Sys2Proof.Machine

variable {c : Chip} {d n : Nat} {x : Waiting}

/-- The first frame no longer waits. -/
def Chip.unwait (c : Chip) (d n : Nat) : Chip := c.setCch d { c.cch d with waiting := dropAt n (c.cch d).waiting }

@[simp] theorem Chip.unwait_slot (e i : Nat) : (c.unwait d n).slot e i = c.slot e i := c.slot_setCch rfl

/-- Whether a carried contribution may join the coach of a slot. -/
def Waiting.mayJoin (x : Waiting) (y : Coach) : Prop :=
  y.phase = .folding ∧ y.step = x.target ∧ y.carriedSet.getLsbD x.lport = false ∧
    (y.recorded = true → y.rangeAgrees x.wb = true)

/-- The frames join the coach of slot `i`. -/
def Chip.joinWaiting (c : Chip) (d i : Nat) (x : Waiting) : Chip :=
  if x.carried then c.attach d i x.lport true x.wb x.stamp x.frames
  else c.admitTo d i x.lport x.wb x.stamp x.sv x.frames

/-- A first frame that is not there, or whose Td has come, is left alone. -/
theorem Chip.retryCreate_idle
    (h : (c.cch d).waiting[n]? = none ∨ ((c.cch d).waiting[n]? = some x ∧ x.td ≤ (c.time.now : Int))) :
    c.retryCreate d n = c := by
  rcases h with h | ⟨h, ht⟩
  · simp only [Chip.retryCreate, h]
  · simp only [Chip.retryCreate, h, if_pos ht]

section
variable (hw : (c.cch d).waiting[n]? = some x) (ht : (c.time.now : Int) < x.td)
include hw ht

section
variable {i : Nat} (hk : c.keySlot d (wLiv x.wb) (wEntry x.wb) (wChunk x.wb) x.target = some i)
include hk

theorem Chip.retryCreate_own (hc : x.carried = false) (hs : (c.slot d i).step = x.target) :
    c.retryCreate d n = (c.unwait d n).joinWaiting d i x := by
  have hs' : ((c.unwait d n).slot d i).step = x.target := by rw [Chip.unwait_slot, hs]
  rw [Chip.unwait] at hs' ⊢
  simp only [Chip.retryCreate, hw, if_neg (not_le.2 ht), hk, hc, Bool.false_eq_true, if_false, if_pos hs', Chip.joinWaiting]

theorem Chip.retryCreate_conflict (hc : x.carried = false) (hs : (c.slot d i).step ≠ x.target) :
    c.retryCreate d n = (((c.unwait d n).bump (pgCch d) 0x111C).raise (evC (pgCch d) 0x020C (8 + d) (wLiv x.wb)
      (wEntry x.wb) (wStep x.wb) (wChunk x.wb) x.lport)).dropStg d (x.frames.flatMap (·.stg)) := by
  have hs' : ((c.unwait d n).slot d i).step ≠ x.target := by rw [Chip.unwait_slot]; exact hs
  rw [Chip.unwait] at hs' ⊢
  simp only [Chip.retryCreate, hw, if_neg (not_le.2 ht), hk, hc, Bool.false_eq_true, if_false, if_neg hs', dieC]

/-- A carried contribution joins the coach of the slot, or is dropped. -/
theorem Chip.retryCreate_carried (hc : x.carried = true) :
    (x.mayJoin (c.slot d i) → c.retryCreate d n = (c.unwait d n).joinWaiting d i x) ∧
    (¬ x.mayJoin (c.slot d i) → c.retryCreate d n = (c.unwait d n).dropStg d (x.frames.flatMap (·.stg))) := by
  rw [← Chip.unwait_slot (c := c) (d := d) (n := n), Chip.unwait, Waiting.mayJoin]
  simp only [Chip.retryCreate, hw, if_neg (not_le.2 ht), hk, hc, if_true, Chip.joinWaiting]
  refine ⟨fun hm => if_pos ?_, fun hm => if_neg ?_⟩
  · simpa [imp_iff_not_or] using hm
  · simpa [imp_iff_not_or] using hm
end

section
variable (hk : c.keySlot d (wLiv x.wb) (wEntry x.wb) (wChunk x.wb) x.target = none)
include hk

/-- Where no coach can be created, the frame goes on waiting. -/
theorem Chip.retryCreate_waits {k : Chip}
    (hm : c.createCoach d (wLiv x.wb) (wEntry x.wb) (wChunk x.wb) (wElemCount x.wb) x.target x.sv = (none, k)) :
    c.retryCreate d n = k := by
  simp only [Chip.retryCreate, hw, if_neg (not_le.2 ht), hk, hm]

/-- A new coach that folds takes the frame, carried or not. -/
theorem Chip.retryCreate_creates {k : Chip} {i : Nat}
    (hm : c.createCoach d (wLiv x.wb) (wEntry x.wb) (wChunk x.wb) (wElemCount x.wb) x.target x.sv = (some i, k))
    (hf : (k.slot d i).phase = .folding) : c.retryCreate d n = (k.unwait d n).joinWaiting d i x := by
  obtain ⟨us, a, _, _, _, _, hgood, hbad⟩ := Chip.createCoach_slot hm
  have hnew : k.slot d i = a.newCoach d i (wLiv x.wb) (wEntry x.wb) (wChunk x.wb) x.target x.sv us :=
    (hgood fun hb => by rw [hbad hb] at hf; cases hf).1
  have hslot : (k.unwait d n).slot d i = a.newCoach d i (wLiv x.wb) (wEntry x.wb) (wChunk x.wb) x.target x.sv us := by
    rw [Chip.unwait_slot, hnew]
  rw [Chip.unwait] at hslot ⊢
  simp only [Chip.retryCreate, hw, if_neg (not_le.2 ht), hk, hm, hslot, Chip.joinWaiting]
  simp [Chip.newCoach, Coach.empty]
end
end

/-! The command -/

theorem Chip.cdieWorks_iff : c.cdieWorks d = true ↔ c.mainUp = true ∧ c.dieFailed (8 + d) = false := by
  simp [Chip.cdieWorks, Chip.cdieUp, dieC]

theorem exec_coachCreateRetry (s : State) (d : CDie) :
    exec (.coachCreateRetry d n) s = s.run fun c => if c.cdieWorks d.val then c.retryCreate d.val n else c := rfl

/-- COACH_CREATE_RETRY on a coach die that works. -/
theorem exec_coachCreateRetry_works {s : State} {d : CDie} (hup : s.chip.mainUp = true)
    (hd : s.chip.dieFailed (8 + d.val) = false) :
    exec (.coachCreateRetry d n) s = .next (s.after (s.chip.retryCreate d.val n)) := by
  rw [exec_coachCreateRetry, State.run_eq_after, if_pos (Chip.cdieWorks_iff.2 ⟨hup, hd⟩)]

/-- A retry that changes nothing. -/
theorem exec_coachCreateRetry_idle {s : State} {d : CDie} (hup : s.chip.mainUp = true)
    (hd : s.chip.dieFailed (8 + d.val) = false) (hk : s.chip.retryCreate d.val n = s.chip) :
    exec (.coachCreateRetry d n) s = .next s := by
  rw [exec_coachCreateRetry]
  refine State.run_eq_self ?_
  rw [if_pos (Chip.cdieWorks_iff.2 ⟨hup, hd⟩), hk]

end Sys2Proof.Machine
end

section
/-! The readout of a slot (R136). -/

namespace Sys2Proof.Machine

variable {c : Chip} {d i : Nat}

theorem Phase.code_lt (ph : Phase) : ph.code < 8 := by cases ph <;> decide

theorem fld_ofNat (k : Nat) {lo w : Nat} (h : lo + w ≤ 32) : fld (BitVec.ofNat 32 k) lo w = k / 2 ^ lo % 2 ^ w := by
  refine Nat.eq_of_testBit_eq fun j => ?_
  rw [fld_testBit, Nat.testBit_mod_two_pow, Nat.testBit_div_two_pow, BitVec.getLsbD_ofNat]
  by_cases hj : j < w
  · simp [hj, show lo + j < 32 by omega, Nat.add_comm j lo]
  · simp [hj]

theorem Chip.setReg_only (page off : Nat) (v : W32) (inst : Nat) : Chip.only [.regs] c (c.setReg page off v inst) := by
  unfold Chip.only
  refine ⟨.inl (by decide), ?_⟩
  simp

/-- A register at another offset keeps its value. -/
theorem Chip.reg_setReg_off {page off inst page' off' inst' : Nat} (v : W32) (ho : off < 0x10000) (ho' : off' < 0x10000)
    (h : off' ≠ off) : (c.setReg page off v inst).reg page' off' inst' = c.reg page' off' inst' :=
  c.reg_setReg_other v (regKey_ne_of_off ho' ho h)

/-- The word that CCH_SLOT_STATE shows: phase, CARRIED, RSTAT and the abort cause. -/
def Coach.stateWord (x : Coach) : Nat :=
  x.phase.code + x.carriedAny.toNat * 2 ^ 3 + x.rstat % 64 * 2 ^ 4 + (if x.live then x.cause else x.lastCause) * 2 ^ 16

theorem Coach.stateWord_phase (x : Coach) : fld (BitVec.ofNat 32 x.stateWord) 0 3 = x.phase.code := by
  have := x.phase.code_lt
  rw [fld_ofNat _ (by decide), Coach.stateWord]
  omega

theorem Coach.stateWord_carried (x : Coach) : (BitVec.ofNat 32 x.stateWord).getLsbD 3 = x.carriedAny := by
  have := x.phase.code_lt
  rw [BitVec.getLsbD_ofNat, Nat.testBit_eq_decide_div_mod_eq, Coach.stateWord]
  cases x.carriedAny <;> simp only [Bool.toNat_false, Bool.toNat_true, show (3 < 32) = True by simp, decide_true, Bool.true_and,
    decide_eq_true_eq, decide_eq_false_iff_not] <;> omega

section
variable (c d) (v : W32)

/-- What a write to CCH_SLOT_SEL sets, one register after the other. -/
theorem Chip.slotSelect_eq : c.slotSelect d v =
    let x := c.slot d (fld v 0 10)
    ((((c.setReg (pgCch d) 0x1000 (BitVec.ofNat 32 (fld v 0 10))).setReg (pgCch d) 0x1004 (BitVec.ofNat 32 x.stateWord)).setReg
      (pgCch d) 0x1008 (BitVec.ofNat 32 (x.chunk % 2 ^ 24 + x.step.toNat % 256 * 2 ^ 24))).setReg
      (pgCch d) 0x100C (BitVec.ofNat 32 (x.entry + x.livery * 2 ^ 16))).setReg (pgCch d) 0x1010 x.step := rfl

theorem Chip.slotSelect_only : Chip.only [.regs] c (c.slotSelect d v) :=
  Chip.only_trans (Chip.only_trans (Chip.only_trans (Chip.only_trans (Chip.setReg_only ..) (Chip.setReg_only ..))
    (Chip.setReg_only ..)) (Chip.setReg_only ..)) (Chip.setReg_only ..)

/-- A register of none of those keys keeps its value. -/
theorem Chip.slotSelect_regsBut : c.regsBut (c.slotSelect d v) [regKey (pgCch d) 0x1000 0, regKey (pgCch d) 0x1004 0,
    regKey (pgCch d) 0x1008 0, regKey (pgCch d) 0x100C 0, regKey (pgCch d) 0x1010 0] := by
  intro page off inst hk
  simp only [List.mem_cons, List.not_mem_nil, or_false, not_or] at hk
  obtain ⟨h0, h1, h2, h3, h4⟩ := hk
  rw [Chip.slotSelect_eq]
  rw [Chip.reg_setReg_other _ _ h4, Chip.reg_setReg_other _ _ h3, Chip.reg_setReg_other _ _ h2,
    Chip.reg_setReg_other _ _ h1, Chip.reg_setReg_other _ _ h0]

/-- The readout registers. -/
theorem Chip.slotSelect_readout : let x := c.slot d (fld v 0 10)
    (c.slotSelect d v).reg (pgCch d) 0x1000 = BitVec.ofNat 32 (fld v 0 10) ∧
    (c.slotSelect d v).reg (pgCch d) 0x1004 = BitVec.ofNat 32 x.stateWord ∧
    (c.slotSelect d v).reg (pgCch d) 0x1008 = BitVec.ofNat 32 (x.chunk % 2 ^ 24 + x.step.toNat % 256 * 2 ^ 24) ∧
    (c.slotSelect d v).reg (pgCch d) 0x100C = BitVec.ofNat 32 (x.entry + x.livery * 2 ^ 16) ∧
    (c.slotSelect d v).reg (pgCch d) 0x1010 = x.step := by
  simp (disch := decide) only [Chip.slotSelect_eq, Chip.reg_setReg, Chip.reg_setReg_off, and_self]

/-- The fields that the readout shows. -/
theorem Chip.slotSelect_fields : let x := c.slot d (fld v 0 10)
    (c.slotSelect d v).field (pgCch d) 0x1004 0 3 = x.phase.code ∧
    (c.slotSelect d v).flag (pgCch d) 0x1004 3 = x.carriedAny ∧
    (c.slotSelect d v).field (pgCch d) 0x1008 0 24 = x.chunk % 2 ^ 24 ∧
    (c.slotSelect d v).field (pgCch d) 0x1008 24 8 = x.step.toNat % 256 ∧
    (c.slotSelect d v).field (pgCch d) 0x100C 0 16 = x.entry % 2 ^ 16 := by
  obtain ⟨-, hstate, hchunk, hentry, -⟩ := c.slotSelect_readout d v
  simp only [Chip.field, Chip.flag, hstate, hchunk, hentry]
  refine ⟨Coach.stateWord_phase _, Coach.stateWord_carried _, ?_, ?_, ?_⟩
  all_goals rw [fld_ofNat _ (by decide)]; omega
end

/-- A write to CCH_SLOT_SEL on a page that serves sets registers alone. -/
theorem exec_cchSlotSelect {s : State} {d : CDie} (v : W32) (h : s.chip.serves (pgCch d.val) = true) :
    ∃ t, exec (.cchSlotSelect d v) s = .next t ∧ t.pending = s.pending ∧
      (∀ page off inst, t.chip.reg page off inst = (s.chip.slotSelect d.val v).reg page off inst) ∧
      Chip.only [.regs] s.chip t.chip := by
  have hex : exec (.cchSlotSelect d v) s =
      .next (s.after (if s.chip.serves (pgCch d.val) then s.chip.slotSelect d.val v else s.chip)) :=
    State.run_eq_after s _
  rw [if_pos h] at hex
  refine ⟨_, hex, rfl, fun _ _ _ => ?_, ?_⟩
  · rw [State.after, Chip.settleAlerts_reg]
  · rw [State.after]
    exact Chip.only_trans (s.chip.slotSelect_only d.val v) (Chip.settleAlerts_only _ _ _)

end Sys2Proof.Machine
end

section
/-! The creation of a coach, the checks and the retry put together (O51). -/

namespace Sys2Proof.Machine

/-- Settles O51: each check of R116 to R119 and R123 is one branch of the model, the coach of a creation is what
`createCoach_slot` says, and the retry and the readout have one lemma for each case. -/
theorem firstFramesMeetTheChecksOfTheirCoach : Obligations.FirstFramesMeetTheChecksOfTheirCoach := by
  unfold Obligations.FirstFramesMeetTheChecksOfTheirCoach
  refine ⟨?_, ?_, ?_, ?_, ?_⟩
  · intro c d m us v w l e n st p pg h go drop r owns marked early late stale expects fault ev ht hv
    have hgo : go = c.admitFirst d p w m.stamp v h := Chip.coachFirst_serves ht hv
    have howns : ∀ {i}, owns i ↔ c.ownSlot d w = some i := Chip.ownSlot_eq_some.symm
    have hexp : expects ↔ (c.expecting d w v).getLsbD p = true :=
      (or_congr (exists_congr fun _ => and_congr_left' howns)
        (and_congr_left' (forall_congr' fun _ => not_congr howns))).trans Chip.expecting_iff.symm
    rw [hgo, Chip.admitFirst_eq]
    refine ⟨fun hm => if_pos hm, fun hm he => ?_, fun hm he hl => ?_, fun hm he hl hs => ?_, fun hm he hl hs hx => ?_,
      fun hm he hl hs hx => ?_⟩
    · rw [if_neg hm]; exact if_pos he
    · rw [if_neg hm, if_neg he]; exact if_pos hl
    · rw [if_neg hm, if_neg he, if_neg hl]; exact if_pos hs
    · rw [hexp, Bool.not_eq_true] at hx
      rw [if_neg hm, if_neg he, if_neg hl, if_neg hs]; exact if_pos hx
    · rw [hexp] at hx
      rw [if_neg hm, if_neg he, if_neg hl, if_neg hs, if_neg (Bool.not_eq_false _ ▸ hx)]
      refine ⟨fun k hk => ?_, fun hk => ?_⟩
      · obtain ⟨rfl, hne⟩ := waybillFault_eq hk
        rw [if_pos hne]
        refine ⟨fun i hi hp => ?_, fun hi => ?_⟩
        · rw [Chip.waybillAbort_coach (howns.1 hi) hp]
        · rw [Chip.waybillAbort_collective fun i h => hi i (howns.2 h)]
      · rw [if_neg (not_not.2 (waybillFault_sound hk))]
        refine ⟨fun i hi hs => Chip.admitFresh_conflict hi hs, fun i hi => ?_,
          fun hn => ⟨fun i k hc => Chip.admitFresh_creates hn hc, fun k hc => Chip.admitFresh_waits hn hc⟩⟩
        intro x dup folds packs
        rw [Chip.admitFresh_own (howns.1 hi)]
        exact ⟨Chip.admitTo_aborting, Chip.admitTo_duplicate, Chip.admitTo_late, Chip.admitTo_disagrees,
          Chip.admitTo_contributes⟩
  · intro c d l e n size st v i k h
    exact Chip.createCoach_fields h
  · intro c d p w stamp v h why
    exact ⟨Chip.lateReason_copying, Chip.lateReason_drops, Chip.lateFrame_dropped⟩
  · intro s d n hup hd c
    have hex {k : Chip} (hk : c.retryCreate d.val n = k) : exec (.coachCreateRetry d n) s = .next (s.after k) :=
      hk ▸ exec_coachCreateRetry_works hup hd
    refine ⟨fun x hx => exec_coachCreateRetry_idle hup hd (Chip.retryCreate_idle hx), fun x hw ht => ?_⟩
    intro w gone make joins
    refine ⟨fun i hk => ⟨fun hc hs => ?_, fun hc hs => ?_, fun hc => ?_⟩,
      fun hk => ⟨fun k hm => ?_, fun i k hm hf => ?_⟩⟩
    · exact hex (Chip.retryCreate_own hw ht hk hc hs)
    · exact hex (Chip.retryCreate_conflict hw ht hk hc hs)
    · obtain ⟨hmay, hnot⟩ := Chip.retryCreate_carried hw ht hk hc
      exact ⟨fun h => hex (hmay h), fun h => hex (hnot h)⟩
    · exact hex (Chip.retryCreate_waits hw ht hk hm)
    · exact hex (Chip.retryCreate_creates hw ht hk hm hf)
  · intro s d v hserves c pg x
    obtain ⟨hsel, -, -, -, hstep⟩ := c.slotSelect_readout d.val v
    obtain ⟨hphase, hcarried, hchunk, hsteplow, hentry⟩ := c.slotSelect_fields d.val v
    obtain ⟨t, hex, hpend, hreg, honly⟩ := exec_cchSlotSelect v hserves
    refine ⟨t, hex, hpend, ?_⟩
    simp only [Chip.regsBut, Chip.field, Chip.flag, hreg]
    exact ⟨hsel, hphase, hcarried, hstep, hchunk, hsteplow, hentry, c.slotSelect_regsBut d.val v, honly⟩

end Sys2Proof.Machine
end

section
/-! The end of packing (R127, R419) where the coach names a livery that the part does not have: a state that no command
brings about, and that the statement on results and deadlines does not leave out. -/

namespace Sys2Proof.Machine

/-! A livery beyond the 256 -/

/-- A livery number whose bit of FLT_PAIR_LIVn, which `Chip.paired` reads, would stand in the count of completed coaches of
coach die 0. -/
def farLivery : Nat := 32 * ((regKey (pgCch 0) 0x1104 0 - regKey pgFlt 0x1140 0) / 4)

theorem farLivery_beyond : 256 ≤ farLivery ∧ farLivery % 32 = 0 ∧
    regKey pgFlt (0x1140 + 4 * (farLivery / 32)) 0 = regKey (pgCch 0) 0x1104 0 := by
  decide

/-- A coach of that livery that has no output left to send, before its Td. -/
def packedFar : Coach := { Coach.empty with phase := .packing, livery := farLivery, td := 1 }

/-- A part that is READY, in postilion mode with pair port 0, and with that coach in slot 0 of coach die 0. -/
def pairedPart : Chip :=
  ((((Chip.reset.setField pgPwr 0x1078 0 3 phReady).setField pgFlt 0x1100 0 2 1).setFlag pgFlt 0x1104 31 true).setSlot 0 0
    packedFar)

/-- The coach die works, its slot 0 holds the coach, and no frame of the coach is left in the part. -/
theorem pairedPart_works : pairedPart.mainUp = true ∧ pairedPart.dieFailed 8 = false ∧
    pairedPart.slot 0 0 = packedFar ∧ pairedPart.coachFrames 0 0 = false := by
  decide +kernel

/-- No coach has completed, so the livery does not count as paired. -/
theorem pairedPart_unpaired : pairedPart.paired farLivery = false := by decide +kernel

/-- The completion is counted first; the livery counts as paired from then on, and the coach forms a digest record. -/
theorem pairedPart_digest : pairedPart.flt.digs = [] ∧ (pairedPart.packerDone 0 0).flt.digs ≠ [] := by decide +kernel

/-- PACKER_LAST_FRAME_SENT leaves that record. -/
theorem pairedPart_completes {t : State} (h : exec (.packerLastFrameSent 0 0) ⟨pairedPart, []⟩ = .next t) :
    t.chip.flt.digs ≠ pairedPart.flt.digs := by
  obtain ⟨hup, hdie, _⟩ := pairedPart_works
  obtain ⟨hnone, hsome⟩ := pairedPart_digest
  have hworks : (pairedPart.mainUp && pairedPart.cdieUp 0) = true := by simp [Chip.cdieUp, dieC, hup, hdie]
  rw [run_eq (f := fun c => if c.mainUp && c.cdieUp 0 then c.packerDone 0 0 else c) h, hnone]
  simp only [Chip.settleAlerts_flt, hworks, if_true]
  exact hsome

/-- Refutes O53, in its clause that the completion of a coach whose livery is not paired leaves the fault state alone: the
completion is counted before the coach's digest is due, and for a livery number beyond the 256 the bit that tells whether
it is paired lies in that very count. The counterexample is `pairedPart`; no command gives a coach such a livery
(`farLivery_beyond`). -/
theorem not_resultsLeaveAndDeadlinesBind : ¬ Obligations.ResultsLeaveAndDeadlinesBind := by
  unfold Obligations.ResultsLeaveAndDeadlinesBind
  intro h
  obtain ⟨hup, hdie, hslot, hframes⟩ := pairedPart_works
  obtain ⟨_, _, hcompletes, _⟩ := h
  obtain ⟨_, hdone⟩ := hcompletes ⟨pairedPart, []⟩ 0 0 hup hdie
  simp only [Fin.val_zero, hslot] at hdone
  obtain ⟨t, ht, _, _, _, _, _, _, hflt, _⟩ := hdone ⟨rfl, by simp [packedFar, Coach.empty], hframes⟩
  exact pairedPart_completes ht (congrArg (·.digs) (hflt pairedPart_unpaired))

end Sys2Proof.Machine
end

section
/-! What diversion to cells looks at (R208): the levels that the port dies know and the frames already diverted. Taking
cells, crossing and mirroring leave both alone. -/

namespace Sys2Proof.Machine

/-- The levels that the port dies act on (R207), and the frames diverted to cells. -/
def Chip.diversion (c : Chip) : Tbl Nat × List Diverted := (c.pool.known, c.traf.diverted)

theorem Chip.knownLevel_congr {c k : Chip} (h : k.diversion = c.diversion) (pd src liv : Nat) :
    k.knownLevel pd src liv = c.knownLevel pd src liv := by
  rw [Chip.knownLevel, show k.pool.known = c.pool.known from congrArg (·.1) h, Chip.knownLevel]

theorem Chip.divertedKey_congr {c k : Chip} (h : k.diversion = c.diversion) (d : Nat) (m : Msg) :
    k.divertedKey d m = c.divertedKey d m := by
  rw [Chip.divertedKey, show k.traf.diverted = c.traf.diverted from congrArg (·.2) h, Chip.divertedKey]

variable (c : Chip)

/-! Cells -/

@[simp] theorem Chip.setReg_diversion (page off : Nat) (v : W32) (inst : Nat) :
    (c.setReg page off v inst).diversion = c.diversion := rfl
@[simp] theorem Chip.setField_diversion (page off lo w v inst : Nat) :
    (c.setField page off lo w v inst).diversion = c.diversion := rfl
@[simp] theorem Chip.bumpN_diversion (page off n inst : Nat) : (c.bumpN page off n inst).diversion = c.diversion := rfl
@[simp] theorem Chip.bump_diversion (page off inst : Nat) : (c.bump page off inst).diversion = c.diversion := rfl
@[simp] theorem Chip.setLink_diversion (p : Nat) (l : Link) : (c.setLink p l).diversion = c.diversion := rfl
@[simp] theorem Chip.setEgress_diversion (p : Nat) (e : Egress) : (c.setEgress p e).diversion = c.diversion := rfl
@[simp] theorem Chip.setQueueSt_diversion (p tc : Nat) (q : QueueSt) :
    (c.setQueueSt p tc q).diversion = c.diversion := rfl
@[simp] theorem Chip.setCell_diversion (bd cell : Nat) (x : Cell) : (c.setCell bd cell x).diversion = c.diversion := rfl
@[simp] theorem Chip.violation_diversion (l cause : Nat) (p : Option Nat) :
    (c.violation l cause p).diversion = c.diversion := rfl

@[simp] theorem Chip.raise_diversion (e : Ev) : (c.raise e).diversion = c.diversion := by
  obtain ⟨_, _, _, h⟩ := c.raise_rest e
  rw [h]; rfl

@[simp] theorem Chip.bankAccess_diversion (die bank : Nat) : (c.bankAccess die bank).diversion = c.diversion := by
  obtain ⟨_, _, h⟩ := c.bankAccess_rest die bank
  rw [h]; rfl

@[simp] theorem Chip.evalLevel_diversion (die pool liv : Nat) : (c.evalLevel die pool liv).diversion = c.diversion := by
  obtain ⟨_, h | h⟩ := c.evalLevel_cases die pool liv <;> rw [h]
  · rw [Chip.raise_diversion]; rfl
  · rfl

@[simp] theorem Chip.takeUnit_diversion (die pool owner u : Nat) :
    (c.takeUnit die pool owner u).diversion = c.diversion := by
  refine Eq.trans ?_ (c.bankAccess_diversion die (unitBank pool u))
  simp only [Chip.takeUnit]
  split <;> rfl

theorem Chip.tryUnits_diversion {die pool owner n : Nat} {us : List Nat} {k : Chip}
    (h : c.tryUnits die pool owner n = some (us, k)) : k.diversion = c.diversion := by
  induction n generalizing us k with
  | zero =>
    obtain ⟨_, rfl⟩ : [] = us ∧ c = k := by simpa [Chip.tryUnits] using h
    rfl
  | succ n ih =>
    simp only [Chip.tryUnits] at h
    split at h
    · exact absurd h (by simp)
    · next us' k' hk =>
      split_ifs at h
      · split at h
        · obtain ⟨_, rfl⟩ := Prod.mk.inj (Option.some.inj h)
          rw [Chip.takeUnit_diversion, ih hk]
        · exact absurd h (by simp)

@[simp] theorem Chip.allocUnits_diversion (die pool owner n : Nat) :
    (c.allocUnits die pool owner n).2.diversion = c.diversion := by
  unfold Chip.allocUnits
  split
  · next us k h =>
    dsimp only
    split
    · exact c.tryUnits_diversion h
    · rw [Chip.evalLevel_diversion, c.tryUnits_diversion h]
  · rfl

@[simp] theorem Chip.openCells_diversion (bd owner refs : Nat) (us : List Nat) :
    (c.openCells bd owner refs us).2.diversion = c.diversion :=
  keep_fold2 Chip.diversion us ([], c) _ fun q _ => q.2.setCell_diversion _ _ _

@[simp] theorem Chip.writeCells_diversion (bd owner len refs : Nat) :
    (c.writeCells bd owner len refs).2.diversion = c.diversion := by
  have ha := c.allocUnits_diversion (dieB bd) plCell owner (cellsFor len)
  unfold Chip.writeCells
  split
  · next h => rw [h] at ha; exact (Chip.openCells_diversion ..).trans ha
  · next h => rw [h] at ha; exact ha

@[simp] theorem Chip.setRefs_diversion (r : CellRef) (n : Nat) : (c.setRefs r n).diversion = c.diversion := by
  unfold Chip.setRefs
  split <;> rfl

@[simp] theorem Chip.polDiscard_diversion (p : Nat) : (c.polDiscard p).diversion = c.diversion := by
  unfold Chip.polDiscard
  split <;> rfl

/-! Queues and crossings -/

@[simp] theorem Chip.watermark_diversion (p tc d0 d1 : Nat) : (c.watermark p tc d0 d1).diversion = c.diversion := by
  simp only [Chip.watermark]
  split_ifs <;> simp

@[simp] theorem Chip.lpiWake_diversion (p : Nat) : (c.lpiWake p).diversion = c.diversion := by
  unfold Chip.lpiWake
  split <;> rfl

@[simp] theorem Chip.enqueue_diversion (p : Nat) (m : Msg) : (c.enqueue p m).diversion = c.diversion := by
  simp only [Chip.enqueue]
  split_ifs <;> simp

@[simp] theorem Chip.pfcCheck_diversion (p i : Nat) : (c.pfcCheck p i).diversion = c.diversion := by
  simp only [Chip.pfcCheck]
  split_ifs <;> simp

@[simp] theorem Chip.toCrossbar_diversion (pos dest q after : Nat) (m : Msg) :
    (c.toCrossbar pos dest q after m).2.diversion = c.diversion := by
  simp only [Chip.toCrossbar]
  split
  · exact Chip.pfcCheck_diversion _ _ _
  · rfl

@[simp] theorem Chip.cross_diversion (m : Msg) (dest q : Nat) : (c.cross m dest q).2.diversion = c.diversion := by
  unfold Chip.cross
  split
  · exact Chip.toCrossbar_diversion _ _ _ _ _ _
  · rfl

@[simp] theorem Chip.deliver_diversion (q : Nat) (m : Msg) : (c.deliver q m).diversion = c.diversion := by
  rw [Chip.deliver, Chip.enqueue_diversion, Chip.cross_diversion]

@[simp] theorem Chip.holdWhole_diversion (m : Msg) (q refs : Nat) :
    (c.holdWhole m q refs).2.diversion = c.diversion := by
  unfold Chip.holdWhole
  split
  · exact keep_forAll Chip.diversion _ c _ fun r k => k.setRefs_diversion r refs
  · dsimp only
    split
    · exact c.polDiscard_diversion _
    · have hw := c.writeCells_diversion (c.bufferDie (m.cellDie q) (hLiv m.hdr)) (cellOwner m.hdr) m.len refs
      split
      · next h => rw [h] at hw; exact (Chip.cross_diversion ..).trans hw
      · next h => rw [h] at hw; exact (Chip.polDiscard_diversion ..).trans hw

/-! Mirroring -/

@[simp] theorem Chip.mirrorSend_diversion (s : Nat) (egress bad : Bool) (lport stamp : Nat) (all : List Byte) :
    (c.mirrorSend s egress bad lport stamp all).diversion = c.diversion := by
  unfold Chip.mirrorSend
  dsimp only
  split
  · rfl
  · split
    · rfl
    · rfl
    · rfl
    · rfl
    · next q _ =>
      split
      · rfl
      · have hw := c.holdWhole_diversion (c.mirrorMsg s egress bad lport stamp all) q 1
        split
        · next h => rw [h] at hw; exact (Chip.deliver_diversion ..).trans hw
        · next h => rw [h] at hw; exact hw

@[simp] theorem Chip.mirrorMatch_diversion (s : Nat) (egress bad : Bool) (lport stamp : Nat) (all : List Byte) :
    (c.mirrorMatch s egress bad lport stamp all).diversion = c.diversion := by
  simp only [Chip.mirrorMatch]
  split_ifs
  · exact c.mirrorSend_diversion ..
  · exact Chip.mirrorSend_diversion ..
  · rfl

@[simp] theorem Chip.mirrorAt_diversion (egress bad : Bool) (lport stamp : Nat) (flow : Option Nat) (all : List Byte) :
    (c.mirrorAt egress bad lport stamp flow all).diversion = c.diversion :=
  keep_forAll Chip.diversion _ c _ fun s k => by
    dsimp only
    rw [apply_ite Chip.diversion, k.mirrorMatch_diversion, ite_self]

@[simp] theorem Chip.mirrorIn_diversion (bad : Bool) (flow : Option Nat) (m : Msg) :
    (c.mirrorIn bad flow m).diversion = c.diversion := by
  unfold Chip.mirrorIn
  split
  · exact c.mirrorAt_diversion ..
  · rfl

/-! A Collective frame at its port -/

@[simp] theorem Chip.heard_diversion (p : Nat) (f : Frame) : (c.heard p f).diversion = c.diversion := by
  obtain ⟨_, _, _, h⟩ := c.heard_rest p f
  rw [h]; rfl

@[simp] theorem Chip.setOpenRecs_diversion (p : Nat) (rs : List OpenRec) :
    (c.setOpenRecs p rs).diversion = c.diversion := rfl

@[simp] theorem Chip.openRecord_diversion (p : Nat) (w : BitVec 256) (d : Nat) (sv : Served) :
    (c.openRecord p w d sv).diversion = c.diversion := by
  simp only [Chip.openRecord]
  split
  · rfl
  · split
    · split <;> rfl
    · split
      · rfl
      · split <;> rfl

@[simp] theorem Chip.takeHint_diversion (w : BitVec 256) (d stamp : Nat) :
    (c.takeHint w d stamp).diversion = c.diversion := by
  simp only [Chip.takeHint]
  split <;> rfl

end Sys2Proof.Machine
end

section
/-! A Collective frame on its way to its coach die (R106, R109, R110, R208): the entry that serves it, the outcome of its
waybill's livery check, and whether it crosses or is diverted. -/

namespace Sys2Proof.Machine

/-! The entry that serves a step (R113) -/

/-- The entry that serves a step follows from the timetable and the registers TTB 0x1200 to 0x1300. -/
theorem Chip.serving_congr {a b : Chip} (ht : b.tt = a.tt)
    (hr : ∀ off inst, 0x1200 ≤ off → off ≤ 0x1300 → b.reg pgTtb off inst = a.reg pgTtb off inst) (l idx : Nat) (s : W32) :
    b.serving l idx s = a.serving l idx s := by
  have hcycle : b.cycle = a.cycle := by
    funext l bank
    unfold Chip.cycle Chip.field
    rw [hr _ _ (by split <;> omega) (by split <;> omega)]
  have hgoverns : b.governs l s = a.governs l s := by
    unfold Chip.governs Chip.swapOf Chip.ttBank Chip.swapPending Chip.oldBusy Chip.anchorTime Chip.anchorStep Chip.flag
    rw [ht, hcycle, hr 0x1208 l (by decide) (by decide), hr 0x1210 l (by decide) (by decide),
      hr 0x1214 l (by decide) (by decide), hr 0x1218 l (by decide) (by decide)]
  have howns : b.ownsEntry = a.ownsEntry := by
    funext l idx bank
    unfold Chip.ownsEntry Chip.entFirst Chip.entLast Chip.field rangeOff
    rw [hr _ _ (by split <;> omega) (by split <;> omega)]
  have hgrid : b.gridServes = a.gridServes := by
    funext e
    unfold Chip.gridServes Chip.gridValid Chip.gridRow Chip.gridCol Chip.flag Chip.field
    rw [hr 0x1300 _ (by decide) (by decide)]
  have hon : b.ttEnabled = a.ttEnabled := by
    funext l
    unfold Chip.ttEnabled Chip.flag
    rw [hr 0x1204 _ (by decide) (by decide)]
  have hentry : b.ttEntry = a.ttEntry := by
    funext bank i
    rw [Chip.ttEntry, ht, Chip.ttEntry]
  unfold Chip.serving
  rw [hon, hgoverns, hentry, howns, hgrid]

section
variable {c : Chip} {p : Nat} {f : Frame}

theorem Chip.heard_serving (hp : p < 1024) (l idx : Nat) (s : W32) :
    (c.heard p f).serving l idx s = c.serving l idx s := by
  refine Chip.serving_congr ?_ (fun off inst h1 h2 => ?_) l idx s
  · obtain ⟨_, _, _, h⟩ := c.heard_rest p f
    rw [h]
  · refine Chip.heard_reg_uncounted hp inst (by decide) (by omega) ?_
    simp only [List.mem_cons, List.not_mem_nil, or_false]; omega

@[simp] theorem Chip.heard_coach : (c.heard p f).coach = c.coach := by
  obtain ⟨_, _, _, h⟩ := c.heard_rest p f
  rw [h]

/-! Check 7 of R337 -/

/-- A frame that passes the checks of step 5 but for its waybill's. -/
theorem Chip.livCheck_badWaybill {h : BitVec 256} {b : List Byte} (hc : c.livCheck p h b false = 0) :
    c.livCheck p h b true = 7 := by
  simp only [Chip.livCheck] at hc ⊢
  split_ifs at hc ⊢; rfl

/-- A Collective frame whose waybill names another livery than its header or its entry is a violation (R337). -/
theorem Chip.step5_badWaybill (k : Chip → Chip) (hp : p < 1024) (hc : hClass f.hdr = 0) (h : c.passes p f) :
    (c.heard p f).step5 p f.hdr f.body true k = (c.heard p f).violation (hLiv f.hdr) 7 (some p) := by
  obtain ⟨ht, hl⟩ := h
  obtain ⟨e1, e2⟩ := Chip.heard_checks (c := c) (f := f) hp
  have hlive : c.tornDown (hLiv f.hdr) = false := by
    by_contra htorn
    have := (ht (by simpa using htorn)).1
    omega
  unfold Chip.step5
  rw [e1, hlive, Chip.livCheck_badWaybill (e2.trans hl)]
  simp only [Bool.false_and, Bool.false_eq_true, if_false]
end

/-! The two commands -/

section
variable {s : State} {p : LPort} {f : Frame} {age : Nat}

/-- A good Collective frame that passes the checks of step 5 but for its waybill's, which `bad` tells, is a violation or
meets its command's own effect. -/
theorem exec_collective {i : Instr} {kind : BitVec 256 → Bool} {bad : Chip → Bool} {k : TailSt → Chip → Chip → Chip}
    (he : ∀ s, exec i s = s.run fun c => c.receive p f kind fun t c => c.step5 p f.hdr f.body (bad c) (k t c))
    (hk : kind f.hdr = true) (hh : s.chip.hears p f) (hc : hClass f.hdr = 0) (hp : s.chip.passes p f) :
    (bad (s.chip.heard p f) = true →
      exec i s = .next (s.put ((s.chip.heard p f).violation (hLiv f.hdr) 7 (some p)))) ∧
    (bad (s.chip.heard p f) = false →
      exec i s = s.run fun _ => k .good (s.chip.heard p f) (s.chip.heard p f)) := by
  have hrx : exec i s = s.run fun _ => (s.chip.heard p f).step5 p f.hdr f.body (bad (s.chip.heard p f))
      (k .good (s.chip.heard p f)) := by
    rw [he s, State.run_eq_after, State.run_eq_after, Chip.receive_hears _ _ _ _ _ hh hk]
  refine ⟨fun hb => ?_, fun hb => ?_⟩
  · rw [hrx, hb, Chip.step5_badWaybill _ p.isLt hc hp]
    refine State.run_eq_put ?_
    rw [Chip.smbStatusWord_violation, Chip.smbStatusWord_heard _ _ p.isLt]
  · rw [hrx, hb, Chip.step5_passes _ _ _ _ p.isLt hp]

/-- The part once a first frame has opened its record and left its power hint (R109, R110). -/
def Chip.recorded (c : Chip) (p : Nat) (w : BitVec 256) (stamp : Nat) (v : Served) : Chip :=
  (c.openRecord p w (coachDieOf v.ent (wChunk w)) v).takeHint w (coachDieOf v.ent (wChunk w)) stamp

theorem Chip.recorded_flt (c : Chip) (p : Nat) (w : BitVec 256) (stamp : Nat) (v : Served) :
    (c.recorded p w stamp v).flt = c.flt := by
  have ho : ∀ d, (c.openRecord p w d v).flt = c.flt := fun d => by
    simp only [Chip.openRecord]
    split
    · rfl
    · split
      · split <;> rfl
      · split
        · rfl
        · split <;> rfl
  simp only [Chip.recorded, Chip.takeHint]
  split
  · exact ho _
  · exact ho _

/-- A first frame's own effect (R109, R110): `v` is the entry that serves its step. -/
def Chip.firstServed (c : Chip) (p : Nat) (f : Frame) (age : Nat) (v : Served) : Chip :=
  let w := waybillOf f
  let d := coachDieOf v.ent (wChunk w)
  let k := c.recorded p w (c.stampOf age) v
  let m := Msg.arrived p f.hdr f.body (c.stampOf age)
  if !k.cdieUp d then
    k.originAbort none v.ent v.bank v.td (wLiv w) (wEntry w) (wStep w) (wChunk w) evDieFailed
  else (k.mirrorIn false none m).toCoach d m

/-- The outcome of a first frame's waybill check: its livery is not its header's, or its entry's is not its own. -/
def Chip.wrongWaybill (c : Chip) (f : Frame) : Prop :=
  let w := waybillOf f
  wLiv w ≠ hLiv f.hdr ∨ ∃ v, c.serving (wLiv w) (wEntry w) (wStep w) = some v ∧ eLiv v.ent ≠ wLiv w

theorem exec_collectiveFirstFrame (hh : s.chip.hears p f) (hc : hClass f.hdr = 0) (h0 : hSub f.hdr = 0)
    (hp : s.chip.passes p f) :
    (s.chip.wrongWaybill f → exec (.collectiveFirstFrame p f age) s =
      .next (s.put ((s.chip.heard p f).violation (hLiv f.hdr) 7 (some p)))) ∧
    (¬ s.chip.wrongWaybill f → s.chip.serving (wLiv (waybillOf f)) (wEntry (waybillOf f)) (wStep (waybillOf f)) = none →
      exec (.collectiveFirstFrame p f age) s = s.run fun _ => (s.chip.heard p f).routeMiss) ∧
    (¬ s.chip.wrongWaybill f → ∀ v,
      s.chip.serving (wLiv (waybillOf f)) (wEntry (waybillOf f)) (wStep (waybillOf f)) = some v →
      exec (.collectiveFirstFrame p f age) s = .next (s.after ((s.chip.heard p f).firstServed p f age v))) := by
  obtain ⟨hbad, hgood⟩ := exec_collective (i := .collectiveFirstFrame p f age) (fun _ => rfl)
    (by simp [hc, h0, clsCollective]) hh hc hp
  simp only [Chip.heard_serving p.isLt] at hbad hgood
  unfold Chip.wrongWaybill
  cases hsv : s.chip.serving (wLiv (waybillOf f)) (wEntry (waybillOf f)) (wStep (waybillOf f)) with
  | none =>
    simp only [hsv, Bool.or_false, decide_eq_true_eq, decide_eq_false_iff_not] at hbad hgood
    exact ⟨fun hw => hbad (by simpa [hsv] using hw), fun hw _ => hgood (by simpa [hsv] using hw),
      fun _ _ hv => absurd hv (by simp)⟩
  | some v =>
    simp only [hsv] at hbad hgood
    refine ⟨fun hw => hbad (by simpa [hsv] using hw), fun _ hv => absurd hv (by simp), fun hw v' hv => ?_⟩
    obtain rfl := Option.some.inj hv
    exact (hgood (by simpa [hsv] using hw)).trans rfl

/-- The first open record of a port that a continuation matches (R110). -/
def Chip.recordOf (c : Chip) (p : Nat) (f : Frame) : Option OpenRec :=
  let x := contOf f
  (c.openRecs p).find? fun r => r.matches (ctLiv x) (ctEntry x) (ctChunk x) (ctStepLo x)

/-- The open records of a port after a continuation has followed one of them (R110). -/
def Chip.recordsAfter (c : Chip) (p : Nat) (f : Frame) (o : OpenRec) : List OpenRec :=
  let x := contOf f
  let hit (r : OpenRec) : Bool := r.matches (ctLiv x) (ctEntry x) (ctChunk x) (ctStepLo x)
  if o.frames ≤ o.sent + 1 then dropFirst hit (c.openRecs p)
  else (c.openRecs p).map fun r => if hit r then { r with sent := r.sent + 1 } else r

/-- A continuation's own effect (R106, R110), where it follows the record `o`. -/
def Chip.continued (c : Chip) (p : Nat) (f : Frame) (age : Nat) (o : OpenRec) : Chip :=
  let k := c.setOpenRecs p (c.recordsAfter p f o)
  let m := Msg.arrived p f.hdr f.body (c.stampOf age)
  if !k.cdieUp o.cdie then k else (k.mirrorIn false none m).toCoach o.cdie m

theorem exec_continuationFrame (hh : s.chip.hears p f) (hc : hClass f.hdr = 0) (h1 : hSub f.hdr = 1)
    (hp : s.chip.passes p f) :
    (ctLiv (contOf f) ≠ hLiv f.hdr ∨ (∃ o, s.chip.recordOf p f = some o ∧ o.entLivery ≠ ctLiv (contOf f)) →
      exec (.continuationFrame p f age) s =
        .next (s.put ((s.chip.heard p f).violation (hLiv f.hdr) 7 (some p)))) ∧
    (ctLiv (contOf f) = hLiv f.hdr → s.chip.recordOf p f = none →
      exec (.continuationFrame p f age) s = s.run fun _ => (s.chip.heard p f).routeMiss) ∧
    (ctLiv (contOf f) = hLiv f.hdr → ∀ o, s.chip.recordOf p f = some o → o.entLivery = ctLiv (contOf f) →
      exec (.continuationFrame p f age) s = .next (s.after ((s.chip.heard p f).continued p f age o))) := by
  obtain ⟨hbad, hgood⟩ := exec_collective (i := .continuationFrame p f age) (fun _ => rfl)
    (by simp [hc, h1, clsCollective]) hh hc hp
  have hrec : ((s.chip.heard p f).openRecs p).find? (fun r => r.matches (ctLiv (contOf f)) (ctEntry (contOf f))
      (ctChunk (contOf f)) (ctStepLo (contOf f))) = s.chip.recordOf p f := by
    rw [Chip.openRecs, Chip.heard_coach]; rfl
  simp only [hrec] at hbad hgood
  cases hr : s.chip.recordOf p f with
  | none =>
    simp only [hr, Bool.or_false, decide_eq_true_eq, decide_eq_false_iff_not] at hbad hgood
    refine ⟨fun hw => hbad (by simpa using hw), fun hl _ => hgood (by simpa using hl), fun _ o ho => ?_⟩
    exact absurd ho (by simp)
  | some o =>
    simp only [hr] at hbad hgood
    refine ⟨fun hw => hbad (by simpa using hw), fun _ ho => absurd ho (by simp), fun hl o' ho he => ?_⟩
    obtain rfl := Option.some.inj ho
    exact (hgood (by simp [hl, he])).trans rfl
end

/-! Across to the coach die, or diverted (R201, R208) -/

/-- A frame that the level its port die knows for the coach die, or an earlier diverted frame, keeps from crossing. -/
def Chip.mustDivert (c : Chip) (d : Nat) (m : Msg) : Prop :=
  let lv := c.knownLevel (portDie m.inPort) d (hLiv m.hdr)
  3 ≤ lv ∨ (hSub m.hdr = 0 ∧ 2 ≤ lv) ∨ (hSub m.hdr = 1 ∧ c.divertedKey d m = true)

section
variable {c : Chip} {d : Nat} {m : Msg}

theorem Chip.mustDivert_congr {k : Chip} (h : k.diversion = c.diversion) : k.mustDivert d m ↔ c.mustDivert d m := by
  rw [Chip.mustDivert, Chip.knownLevel_congr h, Chip.divertedKey_congr h, Chip.mustDivert]

theorem Chip.mustDivert_first (h : hSub m.hdr = 0) :
    c.mustDivert d m ↔ 2 ≤ c.knownLevel (portDie m.inPort) d (hLiv m.hdr) := by
  simp only [Chip.mustDivert, h, true_and, zero_ne_one, false_and, or_false]
  omega

theorem Chip.mustDivert_continuation (h : hSub m.hdr = 1) : c.mustDivert d m ↔
    3 ≤ c.knownLevel (portDie m.inPort) d (hLiv m.hdr) ∨ c.divertedKey d m = true := by
  simp [Chip.mustDivert, h]

theorem Chip.toCoach_diverts (h : c.mustDivert d m) : c.toCoach d m = c.divert d m := if_pos h

theorem Chip.toCoach_noCells (h : ¬ c.mustDivert d m) {k : Chip}
    (ha : c.allocUnits (8 + d) 2 (hLiv m.hdr) (cellsFor m.len) = (none, k)) : c.toCoach d m = k.divert d m := by
  refine (if_neg h).trans ?_
  rw [show c.allocUnits (dieC d) plStg (hLiv m.hdr) (cellsFor m.len) = (none, k) from ha]

theorem Chip.toCoach_crosses (h : ¬ c.mustDivert d m) {us : List Nat} {k : Chip}
    (ha : c.allocUnits (8 + d) 2 (hLiv m.hdr) (cellsFor m.len) = (some us, k)) :
    c.toCoach d m = (k.cross m (256 + d) m.inPort).2.atCoach d m us := by
  refine (if_neg h).trans ?_
  rw [show c.allocUnits (dieC d) plStg (hLiv m.hdr) (cellsFor m.len) = (some us, k) from ha]

/-- What a command answers that takes a frame to its coach die. -/
theorem exec_toCoach {i : Instr} {s : State} {divert : Prop} (he : exec i s = .next (s.after (c.toCoach d m)))
    (hd : c.mustDivert d m ↔ divert) :
    (divert → exec i s = .next (s.after (c.divert d m))) ∧
    (¬ divert →
      (∀ k, c.allocUnits (8 + d) 2 (hLiv m.hdr) (cellsFor m.len) = (none, k) →
        exec i s = .next (s.after (k.divert d m))) ∧
      (∀ us k, c.allocUnits (8 + d) 2 (hLiv m.hdr) (cellsFor m.len) = (some us, k) →
        exec i s = .next (s.after ((k.cross m (256 + d) m.inPort).2.atCoach d m us)))) := by
  rw [he]
  refine ⟨fun h => ?_, fun h => ⟨fun k ha => ?_, fun us k ha => ?_⟩⟩
  · rw [Chip.toCoach_diverts (hd.2 h)]
  · rw [Chip.toCoach_noCells (mt hd.1 h) ha]
  · rw [Chip.toCoach_crosses (mt hd.1 h) ha]

/-- Where its coach die has failed a first frame aborts its collective (R416); else it is mirrored and goes to the die. -/
theorem Chip.firstServed_cases {p : Nat} {f : Frame} {age stamp : Nat} {v : Served} (hst : c.stampOf age = stamp)
    (hd : coachDieOf v.ent (wChunk (waybillOf f)) = d) :
    (c.dieFailed (8 + d) = true → c.firstServed p f age v = (c.recorded p (waybillOf f) stamp v).originAbort none v.ent
      v.bank v.td (wLiv (waybillOf f)) (wEntry (waybillOf f)) (wStep (waybillOf f)) (wChunk (waybillOf f)) 0x0103) ∧
    (c.dieFailed (8 + d) = false → c.firstServed p f age v = ((c.recorded p (waybillOf f) stamp v).mirrorIn false none
      (Msg.arrived p f.hdr f.body stamp)).toCoach d (Msg.arrived p f.hdr f.body stamp)) := by
  subst hst hd
  have hk : ∀ n, (c.recorded p (waybillOf f) (c.stampOf age) v).dieFailed n = c.dieFailed n := fun n =>
    congrArg (fun x => x.failed.getLsbD n) (c.recorded_flt ..)
  exact ⟨fun hf => if_pos (by rw [Chip.cdieUp, hk]; simpa [dieC] using hf),
    fun hf => if_neg (by rw [Chip.cdieUp, hk]; simpa [dieC] using hf)⟩

/-- A continuation whose coach die has failed is only accounted for in its record; else it is mirrored and goes to the
die. -/
theorem Chip.continued_cases {p : Nat} {f : Frame} {age stamp : Nat} {o : OpenRec} (hst : c.stampOf age = stamp) :
    (c.dieFailed (8 + o.cdie) = true → c.continued p f age o = c.setOpenRecs p (c.recordsAfter p f o)) ∧
    (c.dieFailed (8 + o.cdie) = false → c.continued p f age o = ((c.setOpenRecs p (c.recordsAfter p f o)).mirrorIn false
      none (Msg.arrived p f.hdr f.body stamp)).toCoach o.cdie (Msg.arrived p f.hdr f.body stamp)) := by
  subst hst
  have hk : ∀ n, (c.setOpenRecs p (c.recordsAfter p f o)).dieFailed n = c.dieFailed n := fun _ => rfl
  exact ⟨fun hf => if_pos (by rw [Chip.cdieUp, hk]; simpa [dieC] using hf),
    fun hf => if_neg (by rw [Chip.cdieUp, hk]; simpa [dieC] using hf)⟩

/-! Diverted frames -/

/-- A frame that is held whole keeps the port it came in on. -/
theorem Chip.holdWhole_inPort {q refs : Nat} {n : Msg} {k : Chip} (h : c.holdWhole m q refs = (some n, k)) :
    n.inPort = m.inPort := by
  have hcross : ∀ (c : Chip) (dest : Nat), (c.cross m dest q).1.inPort = m.inPort := fun c dest => by
    unfold Chip.cross
    split <;> rfl
  unfold Chip.holdWhole at h
  split_ifs at h
  · obtain ⟨⟨rfl⟩, _⟩ := Prod.mk.inj h
    rfl
  · dsimp only at h
    split_ifs at h
    · simp at h
    · split at h
      · obtain ⟨⟨rfl⟩, _⟩ := Prod.mk.inj h
        exact hcross _ _
      · simp at h

theorem Chip.divert_lost {k : Chip} (h : c.holdWhole m m.inPort 1 = (none, k)) : c.divert d m = k := by
  simp only [Chip.divert, h]

theorem Chip.divert_held {n : Msg} {k : Chip} (h : c.holdWhole m m.inPort 1 = (some n, k)) :
    (c.divert d m).traf.diverted = k.traf.diverted ++ [⟨m.inPort / 128, d, m.inPort, n, none⟩] ∧
    (m.inPort < 1024 →
      (c.divert d m).reg (pgPol (m.inPort / 128)) 0x110C = k.reg (pgPol (m.inPort / 128)) 0x110C + 1) := by
  have hp := Chip.holdWhole_inPort h
  have hd : c.divert d m = { k.bump (pgPolP (portDie m.inPort)) 0x110C with
      traf := { k.traf with diverted := k.traf.diverted ++ [⟨portDie m.inPort, d, n.inPort, n, none⟩] } } := by
    simp only [Chip.divert, h]
  refine ⟨by rw [hd, hp]; rfl, fun hlt => ?_⟩
  have hpage : pgPol (m.inPort / 128) = pgPolP (portDie m.inPort) := if_pos (by omega)
  rw [hd, hpage]
  exact k.reg_bump _ _ _
end

/-! Open records (R110) -/

theorem Chip.openRecs_setOpenRecs (c : Chip) (p : Nat) (rs : List OpenRec) :
    (c.setOpenRecs p rs).openRecs p = rs := Tbl.get_set_same ..

/-- The record of a first frame that matches none joins the others while there is room. -/
theorem Chip.openRecord_adds {c : Chip} {p d : Nat} {w : BitVec 256} {v : Served} (hw : wFrames w ≠ 0)
    (hn : ∀ r ∈ c.openRecs p, r.matches (wLiv w) (wEntry w) (wChunk w) ((wStep w).toNat % 256) = false)
    (hl : (c.openRecs p).length < 64) :
    (c.openRecord p w d v).openRecs p = c.openRecs p ++
      [⟨wLiv w, wEntry w, wStep w, wChunk w, wFrames w, d, eLiv v.ent, 0, v.td⟩] := by
  have hf : (c.openRecs p).find? (fun r => r.matches (wLiv w) (wEntry w) (wChunk w) ((wStep w).toNat % 256)) = none :=
    List.find?_eq_none.2 fun r hr => by simp [hn r hr]
  simp only [Chip.openRecord, hw, hf, hl, if_true, if_false]
  exact c.openRecs_setOpenRecs p _

theorem dropFirst_append {α : Type} {f : α → Bool} {pre post : List α} {a : α} (hp : ∀ x ∈ pre, f x = false)
    (ha : f a = true) : dropFirst f (pre ++ a :: post) = pre ++ post := by
  induction pre with
  | nil => simp [dropFirst, ha]
  | cons x xs ih =>
    rw [List.forall_mem_cons] at hp
    simp [dropFirst, hp.1, ih hp.2]

/-- The records after a continuation that follows `r`, the first that matches it. -/
theorem Chip.recordsAfter_eq {c : Chip} {p : Nat} {f : Frame} {pre post : List OpenRec} {r : OpenRec}
    (h : c.openRecs p = pre ++ r :: post) :
    let x := contOf f
    let hit (r : OpenRec) : Bool := r.matches (ctLiv x) (ctEntry x) (ctChunk x) (ctStepLo x)
    hit r = true → (∀ y ∈ pre, hit y = false) → c.recordsAfter p f r =
      if r.frames ≤ r.sent + 1 then pre ++ post
      else (c.openRecs p).map fun y => if hit y then { y with sent := y.sent + 1 } else y := by
  intro x hit hr hpre
  unfold Chip.recordsAfter
  split
  · rw [h]; exact dropFirst_append hpre hr
  · rfl

end Sys2Proof.Machine
end


section
/-! A Collective frame reaches its coach die (O50). -/

namespace Sys2Proof.Machine

section
variable {c : Chip} {p : Nat} {f : Frame} {age : Nat}

theorem Chip.smbStatusWord_heard_routeMiss (hp : p < 1024) :
    (c.heard p f).routeMiss.smbStatusWord = c.smbStatusWord := by
  rw [Chip.routeMiss, Chip.smbStatusWord_bump _ _ (by decide) (by decide) (by decide), Chip.smbStatusWord_heard _ _ hp]

theorem Chip.heard_stampOf : (c.heard p f).stampOf age = c.time.now - age := by
  rw [Chip.stampOf, Chip.heard_time]

theorem Chip.heard_dieFailed (n : Nat) : (c.heard p f).dieFailed n = c.dieFailed n := by
  rw [Chip.dieFailed, Chip.heard_flt, Chip.dieFailed]
end

/-- Settles O50: each outcome is a branch of the frame's own effect, and neither its open record, its hint nor its mirror
copies change what decides between crossing and diversion. -/
theorem collectiveFramesReachTheirCoachDie : Obligations.CollectiveFramesReachTheirCoachDie := by
  unfold Obligations.CollectiveFramesReachTheirCoachDie
  intro crosses
  refine ⟨?_, ?_, ?_, ?_⟩
  · intro s p f age hh hc hp c h l m w sv
    refine ⟨fun h0 => ?_, fun h1 => ?_⟩
    · obtain ⟨hbad, hmiss, hserved⟩ := exec_collectiveFirstFrame (age := age) hh hc h0 hp
      refine ⟨hbad, fun hw hn => (hmiss hw hn).trans
          (State.run_eq_put (Chip.smbStatusWord_heard_routeMiss p.isLt)),
        fun hw v hv => ?_⟩
      intro d k
      have he := hserved hw v hv
      obtain ⟨hdead, hup⟩ := Chip.firstServed_cases (c := h) (p := p) (f := f) (v := v) (d := d)
        (Chip.heard_stampOf (age := age)) rfl
      have hk : k.diversion = c.diversion := by simp [k, h]
      rw [Chip.heard_dieFailed] at hdead hup
      refine ⟨fun hf => he.trans (congrArg (fun x => Host.Outcome.next (s.after x)) (hdead hf)), fun hf => ?_⟩
      refine exec_toCoach (c := k.mirrorIn false none m)
        (he.trans (congrArg (fun x => Host.Outcome.next (s.after x)) (hup hf))) ?_
      rw [Chip.mustDivert_congr ((Chip.mirrorIn_diversion ..).trans hk), Chip.mustDivert_first (m := m) h0]
      rfl
    · intro i x hit rs
      obtain ⟨hbad, hmiss, hfollow⟩ := exec_continuationFrame (age := age) hh hc h1 hp
      refine ⟨fun hl => hbad (.inl hl), fun hl hn => ?_, fun hl pre r post hrs hr hpre => ?_⟩
      · refine (hmiss hl (List.find?_eq_none.2 fun r hr => ?_)).trans
          (State.run_eq_put (Chip.smbStatusWord_heard_routeMiss p.isLt))
        simpa using hn r hr
      · have hrec : s.chip.recordOf p f = some r :=
          List.find?_eq_some_iff_append.2 ⟨hr, pre, post, hrs, fun y hy => by simpa using hpre y hy⟩
        have hheard : h.openRecs p = c.openRecs p := by
          rw [Chip.openRecs, Chip.heard_coach, Chip.openRecs]
        intro k
        have hk : h.setOpenRecs p (h.recordsAfter p f r) = k := by
          rw [Chip.recordsAfter_eq (hheard.trans hrs) hr hpre, hheard]
        have hkd : k.diversion = c.diversion := hk ▸ (h.setOpenRecs_diversion ..).trans (c.heard_diversion p f)
        obtain ⟨hdead, hup⟩ := Chip.continued_cases (c := h) (p := p) (f := f) (o := r)
          (Chip.heard_stampOf (age := age))
        rw [Chip.heard_dieFailed, hk] at hdead hup
        refine ⟨fun he => hbad (.inr ⟨r, hrec, hl ▸ he⟩), fun he hf => ?_, fun he hf => ?_⟩
        · rw [hfollow hl r hrec (he.trans hl.symm), hdead hf, ← State.run_eq_after s fun _ => k]
          exact State.run_eq_put (c.smbStatusWord_heard f p.isLt)
        · refine exec_toCoach (c := k.mirrorIn false none m)
            ((hfollow hl r hrec (he.trans hl.symm)).trans (by rw [hup hf])) ?_
          rw [Chip.mustDivert_congr ((k.mirrorIn_diversion ..).trans hkd),
            Chip.mustDivert_continuation (m := m) h1]
          rfl
  · intro c p d w v
    refine ⟨fun hw => if_pos hw, fun hw hn hl => Chip.openRecord_adds hw (fun r hr => ?_) hl⟩
    simpa [OpenRec.matches] using hn r hr
  · exact fun c d m x k h => ⟨fun hx => Chip.divert_lost (hx ▸ h), fun n hx => Chip.divert_held (hx ▸ h)⟩
  · refine fun s p => ⟨fun hup => ?_, fun hup => ?_⟩
    · exact (State.run_eq_put (by simp only [hup, if_true]; rfl)).trans (by simp only [hup, if_true])
    · exact State.run_eq_self (by simp [hup])

end Sys2Proof.Machine
end

section
/-! The wave counters of the FLT page (R410): nothing that an abort does beside sending its waves writes them. -/

namespace Sys2Proof.Machine

/-- FLT_WAVE_TX, FLT_WAVE_RX, FLT_WAVE_DUP and FLT_WAVE_NOENTRY. -/
def waveOffs : List Nat := [0x1200, 0x1204, 0x1208, 0x120C]

/-- The wave counters of the part. -/
def Chip.waveCounts (c : Chip) : List W32 := waveOffs.map fun off => c.reg pgFlt off

theorem pgMem_ge (die : Nat) : 10 ≤ pgMem die := by
  unfold pgMem pgMemP pgMemC pgMemX pgMemB pgMemM pgNone
  split_ifs <;> omega

variable (c : Chip)

/-! Registers -/

theorem Chip.setReg_waveCounts {page off : Nat} (v : W32) (inst : Nat)
    (h : off < 0x10000 ∧ off ∉ waveOffs ∨ 10 ≤ page) : (c.setReg page off v inst).waveCounts = c.waveCounts := by
  refine List.map_congr_left fun o ho => c.reg_setReg_other v ?_
  have hlt : o < 0x1210 := by revert o; decide
  obtain ⟨hoff, hn⟩ | hpage := h
  · exact regKey_ne_of_off (by omega) hoff fun he => hn (he ▸ ho)
  · unfold regKey pgFlt; omega

theorem Chip.bump_waveCounts {page off : Nat} (inst : Nat) (h : off < 0x10000 ∧ off ∉ waveOffs ∨ 10 ≤ page) :
    (c.bump page off inst).waveCounts = c.waveCounts := c.setReg_waveCounts _ inst h

theorem Chip.setField_waveCounts {page off : Nat} (lo w v inst : Nat)
    (h : off < 0x10000 ∧ off ∉ waveOffs ∨ 10 ≤ page) : (c.setField page off lo w v inst).waveCounts = c.waveCounts := c.setReg_waveCounts _ inst h

@[simp] theorem Chip.violation_waveCounts (l cause : Nat) (p : Option Nat) :
    (c.violation l cause p).waveCounts = c.waveCounts :=
  (Chip.setReg_waveCounts _ _ _ (.inl (by decide))).trans (c.bump_waveCounts _ (.inl (by decide)))

@[simp] theorem Chip.raise_waveCounts (e : Ev) : (c.raise e).waveCounts = c.waveCounts := by
  refine List.map_congr_left fun o ho => c.raise_reg e ?_
  have hk : ∀ off ∈ [0x14, 0x24, 0x28, 0x100C, 0x1004, 0x1080], ∀ pg, regKey pgFlt o 0 ≠ regKey pg off 0 :=
    fun off hoff pg => regKey_ne_of_off (by revert o; decide) (by revert off; decide) (by revert off o; decide)
  simp only [evKeys, List.mem_cons, List.not_mem_nil, or_false, not_or]
  exact ⟨hk _ (by decide) _, hk _ (by decide) _, hk _ (by decide) _, hk _ (by decide) _, hk _ (by decide) _,
    hk _ (by decide) _⟩

/-! Pools -/

@[simp] theorem Chip.bankAccess_waveCounts (die bank : Nat) : (c.bankAccess die bank).waveCounts = c.waveCounts := by
  simp only [Chip.bankAccess]
  generalize ht : (if bank < 128 then { c with bank := { c.bank with
    touched := Tbl.set 0 c.bank.touched (die * 256 + bank) c.time.now } } else c) = k
  have hk : k.waveCounts = c.waveCounts := by rw [← ht]; split <;> rfl
  split
  · exact hk
  · split
    · exact (Chip.bump_waveCounts _ _ (.inl (by decide))).trans hk
    · exact hk
  · exact hk
  · exact (Chip.setField_waveCounts _ _ _ _ _ (.inr (pgMem_ge die))).trans
      ((Chip.bump_waveCounts _ _ (.inl (by decide))).trans hk)
  · exact hk

@[simp] theorem Chip.evalLevel_waveCounts (die pool liv : Nat) :
    (c.evalLevel die pool liv).waveCounts = c.waveCounts := by
  obtain ⟨_, h | h⟩ := c.evalLevel_cases die pool liv <;> rw [h]
  · rw [Chip.raise_waveCounts, Chip.bump_waveCounts _ _ (.inl (by decide))]; rfl
  · rfl

@[simp] theorem Chip.takeUnit_waveCounts (die pool owner u : Nat) :
    (c.takeUnit die pool owner u).waveCounts = c.waveCounts := c.bankAccess_waveCounts die (unitBank pool u)

@[simp] theorem Chip.releaseUnit_waveCounts (die pool u : Nat) :
    (c.releaseUnit die pool u).waveCounts = c.waveCounts := by
  unfold Chip.releaseUnit
  split
  · rfl
  · dsimp only
    split
    · exact c.bankAccess_waveCounts die (unitBank pool u)
    · rw [Chip.evalLevel_waveCounts]
      exact c.bankAccess_waveCounts die (unitBank pool u)

@[simp] theorem Chip.releaseUnits_waveCounts (die pool : Nat) (us : List Nat) :
    (c.releaseUnits die pool us).waveCounts = c.waveCounts :=
  keep_forAll Chip.waveCounts us c _ fun u d => d.releaseUnit_waveCounts die pool u

@[simp] theorem Chip.setCell_waveCounts (bd cell : Nat) (x : Cell) : (c.setCell bd cell x).waveCounts = c.waveCounts := rfl

@[simp] theorem Chip.cellDecr_waveCounts (r : CellRef) : (c.cellDecr r).waveCounts = c.waveCounts := by
  have hreport : ∀ e : Ev, ((c.bump (pgPolB r.bdie) 0x1114).raise e).waveCounts = c.waveCounts := fun e => by
    rw [Chip.raise_waveCounts, Chip.bump_waveCounts _ _ (.inl (by decide))]
  simp only [Chip.cellDecr]
  split_ifs
  · exact hreport _
  · exact hreport _
  · rw [Chip.bump_waveCounts _ _ (.inl (by decide)), Chip.setCell_waveCounts, Chip.takeUnit_waveCounts, hreport]
  · rw [Chip.bump_waveCounts _ _ (.inl (by decide)), Chip.setCell_waveCounts, hreport]
  · rw [Chip.releaseUnit_waveCounts, Chip.setCell_waveCounts]
  · rfl

@[simp] theorem Chip.dropCells_waveCounts (rs : List CellRef) : (c.dropCells rs).waveCounts = c.waveCounts :=
  keep_forAll Chip.waveCounts rs c _ fun r d => d.cellDecr_waveCounts r

/-! Queues -/

@[simp] theorem Chip.setEgress_waveCounts (p : Nat) (e : Egress) : (c.setEgress p e).waveCounts = c.waveCounts := rfl
@[simp] theorem Chip.voqDrop_waveCounts (ms : List Msg) : (c.voqDrop ms).waveCounts = c.waveCounts := rfl

@[simp] theorem Chip.watermark_waveCounts (p tc d0 d1 : Nat) : (c.watermark p tc d0 d1).waveCounts = c.waveCounts := by
  have hq : ∀ (k : Chip) (q : QueueSt), (k.setQueueSt p tc q).waveCounts = k.waveCounts := fun _ _ => rfl
  have hset : ∀ (k : Chip) (v : W32) (i : Nat), (k.setReg (pgTmg (portDie p)) 0x10C4 v i).waveCounts = k.waveCounts :=
    fun k v i => k.setReg_waveCounts v i (.inl (by decide))
  have hbump : ∀ (k : Chip) (i : Nat), (k.bump (pgTmg (portDie p)) 0x10C8 i).waveCounts = k.waveCounts :=
    fun k i => k.bump_waveCounts i (.inl (by decide))
  have hfield : ∀ (k : Chip) (lo w v i : Nat), (k.setField (pgTmg (portDie p)) 0x10C4 lo w v i).waveCounts = k.waveCounts :=
    fun k lo w v i => k.setField_waveCounts lo w v i (.inl (by decide))
  simp only [Chip.watermark]
  split_ifs <;> simp only [hq, hset, hbump, hfield, Chip.raise_waveCounts]

@[simp] theorem Chip.lpiWake_waveCounts (p : Nat) : (c.lpiWake p).waveCounts = c.waveCounts := by
  unfold Chip.lpiWake
  split
  · exact Chip.bump_waveCounts _ _ (.inr (by unfold pgPrt; omega))
  · rfl
  · rfl

@[simp] theorem Chip.enqueue_waveCounts (p : Nat) (m : Msg) : (c.enqueue p m).waveCounts = c.waveCounts := by
  simp only [Chip.enqueue]
  split_ifs <;> simp

@[simp] theorem Chip.pfcCheck_waveCounts (p i : Nat) : (c.pfcCheck p i).waveCounts = c.waveCounts := by
  simp only [Chip.pfcCheck]
  split_ifs
  · exact Chip.enqueue_waveCounts ..
  · exact Chip.enqueue_waveCounts ..
  · rfl

@[simp] theorem Chip.cross_waveCounts (m : Msg) (dest q : Nat) : (c.cross m dest q).2.waveCounts = c.waveCounts := by
  unfold Chip.cross
  split
  · simp only [Chip.toCrossbar]
    split
    · exact Chip.pfcCheck_waveCounts _ _ _
    · rfl
  · rfl

@[simp] theorem Chip.deliver_waveCounts (q : Nat) (m : Msg) : (c.deliver q m).waveCounts = c.waveCounts := by
  rw [Chip.deliver, Chip.enqueue_waveCounts, Chip.cross_waveCounts]

@[simp] theorem Chip.endTx_waveCounts (p : Nat) (m : Msg) (code : Nat) :
    (c.endTx p m code).waveCounts = c.waveCounts := by
  simp only [Chip.endTx, Chip.takeFresh, Chip.dropCells_waveCounts, Chip.bumpLnk]
  exact Chip.bump_waveCounts _ _ (.inl (by decide))

@[simp] theorem Chip.purgePort_waveCounts (p : Nat) (test : Msg → Bool) (code : Nat) :
    (c.purgePort p test code).waveCounts = c.waveCounts := by
  simp only [Chip.purgePort]
  split
  · rfl
  · refine (keep_forAll Chip.waveCounts _ _ _ fun (m : Msg) d => d.dropCells_waveCounts m.cells).trans
      ((keep_forAll Chip.waveCounts _ _ _ fun tc d => ?_).trans ?_)
    · split
      · rw [Chip.watermark_waveCounts]
      · rfl
    · split
      · rw [Chip.endTx_waveCounts, Chip.voqDrop_waveCounts, Chip.setEgress_waveCounts]
      · rfl

@[simp] theorem Chip.purge_waveCounts (test : Msg → Bool) (code : Nat) : (c.purge test code).waveCounts = c.waveCounts :=
  keep_forAll Chip.waveCounts _ c _ fun p d => d.purgePort_waveCounts p test code

@[simp] theorem Chip.purgeDrain_waveCounts (test : Msg → Bool) : (c.purgeDrain test).waveCounts = c.waveCounts := by
  unfold Chip.purgeDrain
  split
  · exact keep_forAll Chip.waveCounts _ _ _ fun m d => d.dropCells_waveCounts m.cells
  · rfl

/-! Digests -/

@[simp] theorem Chip.soilStep_waveCounts (w : BitVec 256) : (c.soilStep w).waveCounts = c.waveCounts := by
  unfold Chip.soilStep
  split <;> rfl

@[simp] theorem Chip.digCompare_waveCounts (a b : BitVec 256) : (c.digCompare a b).waveCounts = c.waveCounts := by
  have hset : ∀ (k : Chip) (off : Nat) (v : W32), off ∈ [0x1110, 0x1114, 0x1118] →
      (k.setReg pgFlt off v).waveCounts = k.waveCounts :=
    fun k off v h => k.setReg_waveCounts v 0 (.inl (by revert off; decide))
  have hdiff : ∀ e : Ev, ((((c.bump pgFlt 0x1218).setFlag pgFlt 0x110C 0 true).raise e).soilStep a).waveCounts =
      c.waveCounts := fun e => by
    rw [Chip.soilStep_waveCounts, Chip.raise_waveCounts, Chip.setFlag, Chip.setField_waveCounts _ _ _ _ _ (.inl (by decide)),
      Chip.bump_waveCounts _ _ (.inl (by decide))]
  have hsame : (c.bump pgFlt 0x1214).waveCounts = c.waveCounts := c.bump_waveCounts _ (.inl (by decide))
  simp only [Chip.digCompare]
  split
  · split
    · exact hsame
    · exact hsame
  · split
    · exact hdiff _
    · rw [hset _ _ _ (by decide), hset _ _ _ (by decide), hset _ _ _ (by decide)]
      exact hdiff _

@[simp] theorem Chip.digAdd_waveCounts (w : BitVec 256) (own : Bool) : (c.digAdd w own).waveCounts = c.waveCounts := by
  simp only [Chip.digAdd]
  split
  · exact Chip.digCompare_waveCounts _ _ _
  · split
    · rw [Chip.soilStep_waveCounts, Chip.bump_waveCounts _ _ (.inl (by decide))]
    · rfl

@[simp] theorem Chip.digestMake_waveCounts (l e : Nat) (s : W32) (k : Nat) (aborted : Bool) (rstat : Nat) (digest : W64) :
    (c.digestMake l e s k aborted rstat digest).waveCounts = c.waveCounts := by
  simp only [Chip.digestMake]
  split
  · exact Chip.digAdd_waveCounts _ _ _
  · rfl

/-! Marks and coaches -/

@[simp] theorem Chip.setCch_waveCounts (d : Nat) (x : CchDie) : (c.setCch d x).waveCounts = c.waveCounts := rfl
@[simp] theorem Chip.setSlot_waveCounts (d i : Nat) (x : Coach) : (c.setSlot d i x).waveCounts = c.waveCounts := rfl

@[simp] theorem Chip.setMark_waveCounts (d l e : Nat) (s : W32) (td : Int) :
    (c.setMark d l e s td).waveCounts = c.waveCounts := by
  simp only [Chip.setMark]
  split
  · rfl
  · split
    · rfl
    · split
      · rfl
      · rw [Chip.raise_waveCounts, Chip.bump_waveCounts _ _ (.inl (by decide)), Chip.setCch_waveCounts]

@[simp] theorem Chip.freeSlot_waveCounts (d i : Nat) : (c.freeSlot d i).waveCounts = c.waveCounts := by
  simp [Chip.freeSlot, Chip.releaseCoach]

@[simp] theorem Chip.abortSlot_waveCounts (d i cause : Nat) : (c.abortSlot d i cause).waveCounts = c.waveCounts := by
  have hcount : ∀ k : Chip, (k.bump (pgCch d) 0x1108).waveCounts = k.waveCounts :=
    fun k => k.bump_waveCounts _ (.inl (by decide))
  simp only [Chip.abortSlot, Chip.digestMake_waveCounts]
  split <;> simp [hcount]

@[simp] theorem Chip.overrunDue_waveCounts (d i : Nat) : (c.overrunDue d i).waveCounts = c.waveCounts := by
  simp only [Chip.overrunDue, Chip.packOverrun]
  split
  · rw [Chip.raise_waveCounts, Chip.bump_waveCounts _ _ (.inl (by decide))]
  · rfl

@[simp] theorem Chip.abortMember_waveCounts (d i cause : Nat) (wave : Bool) :
    (c.abortMember d i cause wave).waveCounts = c.waveCounts := by
  simp only [Chip.abortMember]
  split
  · split <;> simp
  · split <;> simp
  · simp
  · split <;> simp
  · rfl

@[simp] theorem Chip.abortMembers_waveCounts (l e : Nat) (s : W32) (cause : Nat) (wave : Bool) :
    (c.abortMembers l e s cause wave).waveCounts = c.waveCounts := by
  refine keep_forAll Chip.waveCounts _ c _ fun d k => ?_
  have hmembers := keep_forAll Chip.waveCounts
    (k.slotsWhere d fun x => decide (x.livery = l ∧ x.entry = e ∧ x.step = s)) k
    (fun i k => k.abortMember d i cause wave) fun i k => k.abortMember_waveCounts d i cause wave
  dsimp only
  generalize forAll (k.slotsWhere d _) k _ = m at hmembers ⊢
  split
  · exact hmembers
  · rw [Chip.releaseUnits_waveCounts, Chip.setCch_waveCounts, hmembers]

/-! Waves and notices -/

@[simp] theorem Chip.sendControl_waveCounts (d l q sub dst : Nat) (b : BitVec 256) :
    (c.sendControl d l q sub dst b).2.waveCounts = c.waveCounts := by
  unfold Chip.sendControl
  split
  · simp only [Chip.violation_waveCounts]
  · simp only [Chip.deliver_waveCounts]

/-- A frame that is sent, whether it left or not. -/
theorem Chip.sendControl_pair_waveCounts {d l q sub dst : Nat} {b : BitVec 256} {left : Bool} {k : Chip}
    (h : c.sendControl d l q sub dst b = (left, k)) : k.waveCounts = c.waveCounts := by
  rw [← c.sendControl_waveCounts d l q sub dst b, h]

@[simp] theorem Chip.sendNotices_waveCounts (d : Nat) (e : Entry) (bank : Bool) (w : WaveInfo) :
    (c.sendNotices d e bank w).waveCounts = c.waveCounts := by
  refine keep_forAll Chip.waveCounts _ c _ fun p k => ?_
  split
  · next h => rw [Chip.bump_waveCounts _ _ (.inl (by decide)), Chip.sendControl_pair_waveCounts k h]
  · next h => exact Chip.sendControl_pair_waveCounts k h

/-- Sending waves leaves the counters of received ones alone. -/
theorem Chip.sendWaves_received (d l : Nat) (copies : List (Nat × BitVec 256)) :
    (c.sendWaves d l copies).waveCounts.tail = c.waveCounts.tail := by
  have hsent : ∀ k : Chip, (k.bump pgFlt 0x1200).waveCounts.tail = k.waveCounts.tail := fun k =>
    List.map_congr_left (f := (k.bump pgFlt 0x1200).reg pgFlt) (l := [0x1204, 0x1208, 0x120C]) fun o ho =>
      k.reg_bump_other (regKey_ne_of_off (by revert o; decide) (by decide) (by revert o; decide))
  refine keep_forAll (fun k => k.waveCounts.tail) _ c _ fun x k =>
    keep_forAll (fun k => k.waveCounts.tail) _ k _ fun q k => ?_
  split
  · next h => rw [hsent, Chip.sendControl_pair_waveCounts k h]
  · next h => rw [Chip.sendControl_pair_waveCounts k h]

theorem Chip.startWaves_received (d : Nat) (e : Entry) (w : WaveInfo) (leg : Option Nat) :
    (c.startWaves d e w leg).waveCounts.tail = c.waveCounts.tail := by
  simp only [Chip.startWaves]
  split
  · rfl
  · exact c.sendWaves_received d w.livery _

theorem Chip.ownerActs_received (d : Nat) (e : Entry) (bank : Bool) (td : Int) (w : WaveInfo) (leg : Option Nat) :
    (c.ownerActs d e bank td w leg).waveCounts.tail = c.waveCounts.tail := by
  have hmembers : ((forAll (stripeDies e) c fun d c => c.setMark d w.livery w.entry w.step td).abortMembers w.livery
      w.entry w.step w.cause leg.isSome).waveCounts = c.waveCounts :=
    (Chip.abortMembers_waveCounts _ _ _ _ _ _).trans
      (keep_forAll Chip.waveCounts _ c _ fun d k => k.setMark_waveCounts d _ _ _ td)
  simp only [Chip.ownerActs]
  split
  · rw [hmembers]
  · rw [Chip.startWaves_received, Chip.sendNotices_waveCounts, hmembers]

end Sys2Proof.Machine
end

section
/-! An abort wave at its owner (R130, R131, R409): the members that abort, and the mark that the owner keeps. -/

namespace Sys2Proof.Machine

section
variable (c : Chip) {d e i j : Nat}

/-! A slot becomes FREE (R136) -/

/-- What the slot of a coach that is released still shows. -/
def Coach.freed (x : Coach) : Coach :=
  { Coach.empty with livery := x.livery, entry := x.entry, step := x.step, chunk := x.chunk, lastCause := x.lastCause }

theorem Chip.releaseCoach_coach :
    (c.releaseCoach d i).coach = (c.setSlot d i { c.slot d i with granules := [], accs := [] }).coach := by
  simp only [Chip.releaseCoach, Chip.releaseUnits_coach]

theorem Chip.freeSlot_eq : ∃ ns, c.freeSlot d i = ((c.releaseCoach d i).setCch d { (c.releaseCoach d i).cch d with
    notes := ns }).setSlot d i (c.slot d i).freed := ⟨_, rfl⟩

theorem Chip.freeSlot_same : (c.freeSlot d i).slot d i = (c.slot d i).freed := by
  obtain ⟨_, h⟩ := c.freeSlot_eq (d := d) (i := i)
  rw [h, Chip.slot_setSlot]

theorem Chip.freeSlot_ne (h : ¬ (e = d ∧ j = i)) : (c.freeSlot d i).slot e j = c.slot e j := by
  obtain ⟨_, hf⟩ := c.freeSlot_eq (d := d) (i := i)
  rw [hf, Chip.slot_setSlot_ne _ _ h, Chip.slot_setCch, Chip.slot_congr _ c.releaseCoach_coach,
    Chip.slot_setSlot_ne _ _ h]
  rfl

/-! The marks of a coach die (R131) -/

theorem Chip.marks_congr {k : Chip} (h : k.coach = c.coach) : (k.cch e).marks = (c.cch e).marks := by
  rw [Chip.cch, h, Chip.cch]

theorem Chip.marks_setCch {x : CchDie} (h : x.marks = (c.cch d).marks) :
    ((c.setCch d x).cch e).marks = (c.cch e).marks := by
  by_cases hd : e = d
  · subst hd
    rw [Chip.cch_setCch, h]
  · rw [Chip.cch_setCch_other _ _ hd]

theorem Chip.marks_setSlot (x : Coach) : ((c.setSlot d i x).cch e).marks = (c.cch e).marks := by
  rw [Chip.setSlot, Chip.marks_setCch]
  rfl

theorem Chip.freeSlot_marks : ((c.freeSlot d i).cch e).marks = (c.cch e).marks := by
  obtain ⟨_, hf⟩ := c.freeSlot_eq (d := d) (i := i)
  rw [hf, Chip.marks_setSlot, Chip.marks_setCch, Chip.marks_congr _ c.releaseCoach_coach, Chip.marks_setSlot]
  rfl

theorem Chip.abortSlot_marks (cause : Nat) : ((c.abortSlot d i cause).cch e).marks = (c.cch e).marks := by
  rw [Chip.marks_congr _ (c.abortSlot_coach cause), Chip.marks_setSlot]

theorem Chip.abortMember_marks (cause : Nat) (wave : Bool) :
    ((c.abortMember d i cause wave).cch e).marks = (c.cch e).marks := by
  simp only [Chip.abortMember]
  split
  · split
    · rfl
    · exact c.abortSlot_marks cause
  · split
    · rfl
    · exact c.abortSlot_marks cause
  · rw [Chip.abortSlot_marks, Chip.marks_congr _ c.overrunDue_coach]
  · split
    · rw [Chip.freeSlot_marks, Chip.marks_setSlot]
    · rfl
  · rfl

/-! The members on one coach die -/

/-- The coaches of a collective on one coach die abort. -/
def Chip.abortCoaches (c : Chip) (d l idx : Nat) (s : W32) (cause : Nat) (wave : Bool) : Chip :=
  forAll (c.slotsWhere d fun x => decide (x.livery = l ∧ x.entry = idx ∧ x.step = s)) c
    fun i c => c.abortMember d i cause wave

/-- Its first frames that still wait are dropped. -/
def Chip.dropWaiting (c : Chip) (d l idx : Nat) (s : W32) : Chip :=
  let mine (x : Waiting) : Bool :=
    decide (wLiv x.wb = l ∧ wEntry x.wb = idx ∧ x.target = s) && decide ((c.time.now : Int) < x.td)
  let gone := (c.cch d).waiting.filter mine
  if gone.isEmpty then c
  else (c.setCch d { c.cch d with waiting := (c.cch d).waiting.filter (fun x => !mine x) }).releaseUnits (dieC d) plStg
    (gone.flatMap (fun x => x.frames.flatMap (·.stg)))

theorem Chip.abortMembers_eq (l idx : Nat) (s : W32) (cause : Nat) (wave : Bool) : c.abortMembers l idx s cause wave =
    forAll (List.range 16) c fun d c => (c.abortCoaches d l idx s cause wave).dropWaiting d l idx s := rfl

section
variable (l idx : Nat) (s : W32) (cause : Nat) (wave : Bool)

theorem Chip.dropWaiting_slot : (c.dropWaiting d l idx s).slot e j = c.slot e j := by
  simp only [Chip.dropWaiting]
  split
  · rfl
  · rw [Chip.slot_congr _ (Chip.releaseUnits_coach _ _ _ _)]
    exact c.slot_setCch rfl

theorem Chip.dropWaiting_marks : ((c.dropWaiting d l idx s).cch e).marks = (c.cch e).marks := by
  simp only [Chip.dropWaiting]
  split
  · rfl
  · rw [Chip.marks_congr _ (Chip.releaseUnits_coach _ _ _ _)]
    exact c.marks_setCch rfl

theorem Chip.dropWaiting_house : (c.dropWaiting d l idx s).house = c.house := by
  simp only [Chip.dropWaiting]
  split
  · rfl
  · rw [Chip.releaseUnits_house, Chip.setCch_house]

theorem Chip.abortCoaches_house : (c.abortCoaches d l idx s cause wave).house = c.house :=
  keep_forAll Chip.house _ c _ fun i k => k.abortMember_house d i cause wave

theorem Chip.abortMembers_marks : ((c.abortMembers l idx s cause wave).cch e).marks = (c.cch e).marks := by
  rw [Chip.abortMembers_eq]
  refine keep_forAll (fun k => (k.cch e).marks) _ c _ fun d k => ?_
  rw [Chip.dropWaiting_marks]
  exact keep_forAll (fun k => (k.cch e).marks) _ k _ fun i k => k.abortMember_marks cause wave
end

/-! The mark of a collective -/

variable {l idx : Nat} {s : W32}

theorem Chip.hasMark_congr {k : Chip} (h : (k.cch e).marks = (c.cch e).marks) :
    k.hasMark e l idx s = c.hasMark e l idx s := by
  rw [Chip.hasMark, h, Chip.hasMark]

@[simp] theorem Chip.setMark_flt (td : Int) : (c.setMark d l idx s td).flt = c.flt := by
  simp only [Chip.setMark]
  split
  · rfl
  · split
    · rfl
    · split
      · rfl
      · obtain ⟨_, _, _, h⟩ := Chip.raise_rest ((c.setCch d _).bump (pgCch d) 0x1134) _
        rw [h]; rfl

theorem earliestMark_ne_none : ∀ {ms : List Mark}, ms ≠ [] → earliestMark ms ≠ none
  | m :: ms, _ => by
    unfold earliestMark
    split
    · simp
    · split <;> simp

/-- A coach die in service has the mark it is given. -/
theorem Chip.setMark_marks (td : Int) (hup : c.cdieUp d = true) : (c.setMark d l idx s td).hasMark d l idx s = true := by
  have hadds : ∀ (k : Chip) (ms : List Mark), (k.cch d).marks = ms ++ [⟨l, idx, s, td⟩] → k.hasMark d l idx s = true :=
    fun k ms h => by simp [Chip.hasMark, h]
  by_cases hm : c.hasMark d l idx s = true
  · simp [Chip.setMark, hm]
  · simp only [Chip.setMark, hm, hup, Bool.not_true, Bool.false_eq_true, or_self, if_false]
    split
    · exact hadds _ _ (congrArg CchDie.marks (c.cch_setCch ..))
    · next hfull =>
      split
      · next hnone =>
        refine absurd hnone (earliestMark_ne_none fun hnil => hfull ?_)
        simp [hnil]
      · next k _ =>
        refine hadds _ (dropFirst (fun m => decide (m = k)) (c.cch d).marks) ?_
        rw [Chip.marks_congr _ (Chip.raise_coach _ _), Chip.marks_congr _ (Chip.bump_coach _ _ _ _)]
        exact congrArg CchDie.marks (c.cch_setCch ..)

/-- A collective that is marked stays marked while its marks are set. -/
theorem Chip.setMark_keeps (td : Int) (h : c.hasMark e l idx s = true) :
    (c.setMark d l idx s td).hasMark e l idx s = true := by
  by_cases hd : e = d
  · subst hd
    simp [Chip.setMark, h]
  · refine (Chip.hasMark_congr c ?_).trans h
    simp only [Chip.setMark]
    split
    · rfl
    · split
      · rw [Chip.cch_setCch_other _ _ hd]
      · split
        · rfl
        · rw [Chip.marks_congr _ (Chip.raise_coach _ _), Chip.marks_congr _ (Chip.bump_coach _ _ _ _),
            Chip.cch_setCch_other _ _ hd]
end

/-! The members of an aborted collective -/

/-- A coach that an abort of its collective aborts: one that packs, or that folds before its Td. -/
def Coach.mustAbort (x : Coach) (now : Nat) : Prop :=
  x.phase = .packing ∨ (x.phase = .folding ∨ x.phase = .sealed) ∧ (now : Int) < x.td

section
variable {c : Chip} {d e i j : Nat} {x : Coach} (cause : Nat) (wave : Bool)

theorem Chip.abortMember_ne (h : ¬ (e = d ∧ j = i)) : (c.abortMember d i cause wave).slot e j = c.slot e j := by
  simp only [Chip.abortMember]
  split
  · split
    · rfl
    · exact c.abortSlot_ne cause h
  · split
    · rfl
    · exact c.abortSlot_ne cause h
  · rw [Chip.abortSlot_ne _ _ h, Chip.slot_congr _ c.overrunDue_coach]
  · split
    · rw [Chip.freeSlot_ne _ h, Chip.slot_setSlot_ne _ _ h]
    · rfl
  · rfl

theorem Chip.abortMember_aborts (h : (c.slot d i).mustAbort c.time.now) :
    (c.abortMember d i cause wave).slot d i = (c.slot d i).aborted cause := by
  obtain hp | ⟨hp | hp, ht⟩ := h
  · simp only [Chip.abortMember, hp]
    rw [Chip.abortSlot_same, Chip.slot_congr _ c.overrunDue_coach]
  · simp only [Chip.abortMember, hp, not_le.2 ht, false_and, if_false]
    exact c.abortSlot_same cause
  · simp only [Chip.abortMember, hp, not_le.2 ht, false_and, if_false]
    exact c.abortSlot_same cause

/-- A coach that is ABORTING stays so (R134). -/
theorem Chip.abortMember_stays (hx : x.phase = .aborting) (h : c.slot e j = x) :
    (c.abortMember d i cause wave).slot e j = x := by
  by_cases hs : e = d ∧ j = i
  · obtain ⟨rfl, rfl⟩ := hs
    simp only [Chip.abortMember, h, hx]
  · rw [Chip.abortMember_ne cause wave hs, h]
end

/-- A loop over a list brings about what its body brings about at one member of the list, where the other members keep
what that rests on, and every member keeps it once it holds. -/
theorem forAll_reaches {α σ : Type} [DecidableEq α] {P Q : σ → Prop} {a : α} {f : α → σ → σ}
    (ha : ∀ c, P c → Q (f a c)) (hP : ∀ x c, x ≠ a → P c → P (f x c))
    (hQ : ∀ x c, Q c → Q (f x c)) {xs : List α} (hmem : a ∈ xs) {c : σ} (hc : P c) :
    Q (forAll xs c f) := by
  show Q (xs.foldl _ c)
  induction xs generalizing c with
  | nil => simp at hmem
  | cons x xs ih =>
    rw [List.foldl_cons]
    by_cases hx : x = a
    · exact forAll_invariant (f := f) hQ (hx ▸ ha c hc)
    · exact ih ((List.mem_cons.1 hmem).resolve_left (Ne.symm hx)) (hP x c hx hc)

theorem Chip.mem_slotsWhere {c : Chip} {d i : Nat} {f : Coach → Bool} (hl : (c.slot d i).live = true)
    (hf : f (c.slot d i) = true) : i ∈ c.slotsWhere d f := by
  have hget : ∀ {t : Tbl Coach}, (Tbl.get Coach.empty t i).live = true → (i, Tbl.get Coach.empty t i) ∈ t := by
    intro t
    induction t with
    | nil => simp [Tbl.get, Coach.live, Coach.empty]
    | cons q t ih =>
      intro h
      by_cases hq : q.1 = i
      · simp [Tbl.get, ← hq]
      · simp only [Tbl.get, if_neg hq] at h ⊢
        exact List.mem_cons_of_mem _ (ih h)
  refine List.mem_map.2 ⟨(i, c.slot d i), List.mem_filter.2 ⟨hget hl, ?_⟩, rfl⟩
  simp [hl, hf]

section
variable {c : Chip} {e j : Nat} {x : Coach} (cause : Nat) (wave : Bool)

/-- Every coach of the collective that must abort aborts. -/
theorem Chip.abortMembers_aborts (he : e < 16) (hx : c.slot e j = x) (hm : x.mustAbort c.time.now) :
    (c.abortMembers x.livery x.entry x.step cause wave).slot e j = x.aborted cause := by
  have hlive : x.live = true := by
    obtain h | ⟨h | h, _⟩ := hm <;> simp [Coach.live, h]
  rw [Chip.abortMembers_eq]
  refine forAll_reaches (P := fun k : Chip => k.slot e j = x ∧ k.house = c.house)
    (Q := fun k : Chip => k.slot e j = x.aborted cause) (a := e) (fun k ⟨hk, ht⟩ => ?_) (fun d k hd ⟨hk, ht⟩ => ?_)
    (fun d k hk => ?_) (List.mem_range.2 he) ⟨hx, rfl⟩
  · rw [Chip.dropWaiting_slot]
    refine forAll_reaches (P := fun k : Chip => k.slot e j = x ∧ k.house = c.house)
      (Q := fun k : Chip => k.slot e j = x.aborted cause) (a := j) (fun k ⟨hk, ht⟩ => ?_) (fun i k hi ⟨hk, ht⟩ => ?_)
      (fun i k hk => Chip.abortMember_stays cause wave rfl hk) (Chip.mem_slotsWhere (hk ▸ hlive) (by simp [hk])) ⟨hk, ht⟩
    · subst hk
      have htime : k.time = c.time := congrArg (·.1) ht
      exact Chip.abortMember_aborts cause wave (by rwa [htime])
    · exact ⟨(Chip.abortMember_ne cause wave fun h => hi h.2.symm).trans hk, (k.abortMember_house ..).trans ht⟩
  · refine ⟨?_, ?_⟩
    · rw [Chip.dropWaiting_slot]
      exact forAll_invariant (P := fun k : Chip => k.slot e j = x)
        (fun i k hk => (Chip.abortMember_ne cause wave fun h => hd h.1.symm).trans hk) hk
    · rw [Chip.dropWaiting_house, Chip.abortCoaches_house, ht]
  · rw [Chip.dropWaiting_slot]
    exact forAll_invariant (P := fun k : Chip => k.slot e j = x.aborted cause)
      (fun i k hk => Chip.abortMember_stays cause wave rfl hk) hk
end

/-! What the owner does (R409) -/

section
variable {c : Chip} {e j o : Nat} {ent : Entry} (bank : Bool) (td : Int) (w : WaveInfo) (leg : Option Nat)

/-- After its marks and the aborts of the members, what the owner sends changes no coach die. -/
theorem Chip.ownerActs_coach : (c.ownerActs o ent bank td w leg).coach =
    ((forAll (stripeDies ent) c fun d c => c.setMark d w.livery w.entry w.step td).abortMembers w.livery w.entry w.step
      w.cause leg.isSome).coach := by
  simp only [Chip.ownerActs]
  split
  · rfl
  · rw [Chip.startWaves_coach, Chip.sendNotices_coach]

theorem Chip.ownerActs_aborts (he : e < 16) (hm : (c.slot e j).mustAbort c.time.now)
    (hl : (c.slot e j).livery = w.livery) (hi : (c.slot e j).entry = w.entry) (hs : (c.slot e j).step = w.step) :
    (c.ownerActs o ent bank td w leg).slot e j = (c.slot e j).aborted w.cause := by
  rw [Chip.slot_congr _ (Chip.ownerActs_coach bank td w leg)]
  have hslot := keep_forAll (fun k => k.slot e j) (stripeDies ent) c (fun d c => c.setMark d w.livery w.entry w.step td)
    fun d k => k.setMark_slot ..
  have hhouse := keep_forAll Chip.house (stripeDies ent) c (fun d c => c.setMark d w.livery w.entry w.step td)
    fun d k => k.setMark_house ..
  generalize (forAll (stripeDies ent) c fun d c => c.setMark d w.livery w.entry w.step td) = k at hslot hhouse ⊢
  have htime : k.time = c.time := congrArg (·.1) hhouse
  rw [← hl, ← hi, ← hs]
  exact Chip.abortMembers_aborts w.cause leg.isSome he hslot (by rwa [htime])

theorem Chip.ownerActs_marks (ho : c.waveOwner ent = some o) :
    (c.ownerActs o ent bank td w leg).hasMark o w.livery w.entry w.step = true := by
  rw [Chip.hasMark_congr _ ((Chip.marks_congr _ (Chip.ownerActs_coach bank td w leg)).trans (Chip.abortMembers_marks ..))]
  refine forAll_reaches (P := fun k : Chip => k.flt = c.flt)
    (Q := fun k : Chip => k.hasMark o w.livery w.entry w.step = true) (a := o) (fun k hk => ?_)
    (fun d k _ hk => (k.setMark_flt td).trans hk) (fun d k hk => k.setMark_keeps td hk) (List.mem_of_find?_eq_some ho) rfl
  refine k.setMark_marks td ?_
  have hup : c.cdieUp o = true := List.find?_some (p := c.cdieUp) ho
  rwa [Chip.cdieUp, Chip.dieFailed, hk]
end

end Sys2Proof.Machine
end

section
/-! The outcomes of a received abort wave (R409, R410). -/

namespace Sys2Proof.Machine

section
variable {s : State} {p : LPort} {f : Frame} {age : Nat}

/-- A good abort wave that passes step 5 is mirrored where a session asks for it, and taken. -/
theorem exec_abortWaveRx (hh : s.chip.hears p f) (hc : hClass f.hdr = 3) (h0 : hSub f.hdr = 0) (hp : s.chip.passes p f) :
    let m := Msg.arrived p f.hdr f.body (s.chip.time.now - age)
    exec (.abortWaveRx p f age) s = .next (s.after (((s.chip.heard p f).mirrorIn false none m).waveTake m)) := by
  have hk : decide (hClass f.hdr = clsControl ∧ hSub f.hdr = 0) = true := by simp [hc, h0, clsControl]
  rw [exec, execAbortWaveRx, State.run_eq_after, Chip.receive_hears _ _ _ _ _ hh hk, Chip.step5_passes _ _ _ _ p.isLt hp,
    if_pos rfl, Chip.heard_stampOf]
end

/-! Crossing leaves the fault state alone -/

section
variable (c : Chip)

theorem Chip.raise_flt (e : Ev) : (c.raise e).flt = c.flt := by
  obtain ⟨_, _, _, h⟩ := c.raise_rest e
  rw [h]

theorem Chip.watermark_flt (p tc d0 d1 : Nat) : (c.watermark p tc d0 d1).flt = c.flt := by
  have hq : ∀ (k : Chip) (q : QueueSt), (k.setQueueSt p tc q).flt = k.flt := fun _ _ => rfl
  have hset : ∀ (k : Chip) (page off : Nat) (v : W32) (i : Nat), (k.setReg page off v i).flt = k.flt := fun _ _ _ _ _ => rfl
  simp only [Chip.watermark, Chip.setField, Chip.bump, Chip.bumpN]
  split_ifs <;> simp only [hq, hset, Chip.raise_flt]

theorem Chip.enqueue_flt (p : Nat) (m : Msg) : (c.enqueue p m).flt = c.flt := by
  have hwake : (c.lpiWake p).flt = c.flt := by
    unfold Chip.lpiWake
    split <;> rfl
  simp only [Chip.enqueue]
  split_ifs
  · exact hwake
  · exact hwake
  · exact (Chip.watermark_flt ..).trans hwake

theorem Chip.cross_flt (m : Msg) (dest q : Nat) : (c.cross m dest q).2.flt = c.flt := by
  unfold Chip.cross
  split
  · simp only [Chip.toCrossbar, Chip.pfcCheck]
    split_ifs
    · exact Chip.enqueue_flt ..
    · exact Chip.enqueue_flt ..
    · rfl
    · rfl
  · rfl
end

section
variable {c : Chip} {m : Msg} {w : WaveInfo} (hw : waveOf (bvBE 256 (m.body.take 32)) = w)
include hw

/-- A wave whose livery is not its header's, or whose step no entry serves, counts NOENTRY. -/
theorem Chip.waveTake_unserved (h : w.livery ≠ hLiv m.hdr ∨ c.serving w.livery w.entry w.step = none) :
    c.waveTake m = c.bump pgFlt 0x120C := by
  have hn : (if w.livery = hLiv m.hdr then c.serving w.livery w.entry w.step else none) = none :=
    ite_eq_right_iff.2 fun heq => h.resolve_left (not_not.2 heq)
  simp only [Chip.waveTake, hw, hn]

section
variable {v : Served} (hl : w.livery = hLiv m.hdr) (hv : c.serving w.livery w.entry w.step = some v)
include hl hv

/-- So does one whose entry is not of its livery. -/
theorem Chip.waveTake_otherEntry (h : eLiv v.ent ≠ w.livery) : c.waveTake m = c.bump pgFlt 0x120C := by
  simp only [Chip.waveTake, hw, if_pos hl, hv, if_pos h]

end

/-- Any other crosses to its owner, where it is a duplicate or marks the collective. -/
theorem Chip.waveTake_owned {v : Served} {o q : Nat} (hq : m.inPort = q) (hl : w.livery = hLiv m.hdr)
    (hv : c.serving w.livery w.entry w.step = some v) (he : eLiv v.ent = w.livery) (ho : c.waveOwner v.ent = some o) :
    let k := ((c.bump pgFlt 0x1204).cross m (256 + o) q).2
    k.coach = c.coach ∧ k.house = c.house ∧ k.flt = c.flt ∧ k.waveCounts = (c.bump pgFlt 0x1204).waveCounts ∧
    (c.hasMark o w.livery w.entry w.step = true → c.waveTake m = k.bump pgFlt 0x1208) ∧
    (c.hasMark o w.livery w.entry w.step = false →
      c.waveTake m = k.ownerActs o v.ent v.bank v.td w (some (waveLeg (bvBE 256 (m.body.take 32))))) := by
  subst hq
  have hcoach : ((c.bump pgFlt 0x1204).cross m (256 + o) m.inPort).2.coach = c.coach := by
    rw [Chip.cross_coach, Chip.bump_coach]
  have hmark : ((c.bump pgFlt 0x1204).cross m (256 + o) m.inPort).2.hasMark o w.livery w.entry w.step =
      c.hasMark o w.livery w.entry w.step := c.hasMark_congr (c.marks_congr hcoach)
  have howner : (c.bump pgFlt 0x1204).waveOwner v.ent = some o := ho
  refine ⟨hcoach, (Chip.cross_house ..).trans (Chip.bump_house ..), Chip.cross_flt .., Chip.cross_waveCounts ..,
    fun hm => ?_, fun hm => ?_⟩
  · simp only [Chip.waveTake, hw, if_pos hl, hv, if_neg (not_not.2 he), howner, hmark, hm, if_true]
  · simp only [Chip.waveTake, hw, if_pos hl, hv, if_neg (not_not.2 he), howner, hmark, hm, Bool.false_eq_true, if_false]
end

/-! A new wave -/

theorem Chip.waveOwner_congr {c k : Chip} (h : k.flt = c.flt) (e : Entry) : k.waveOwner e = c.waveOwner e := by
  have hup : k.cdieUp = c.cdieUp := funext fun d => by rw [Chip.cdieUp, Chip.dieFailed, h, Chip.cdieUp, Chip.dieFailed]
  rw [Chip.waveOwner, hup, Chip.waveOwner]

section
variable {c k : Chip} {o : Nat} {ent : Entry} (bank : Bool) (td : Int) (w : WaveInfo) (leg : Option Nat)

/-- The owner that counts a new wave. -/
theorem Chip.ownerActs_counts (hk : k.waveCounts = (c.bump pgFlt 0x1204).waveCounts) :
    (k.ownerActs o ent bank td w leg).reg pgFlt 0x1204 = c.reg pgFlt 0x1204 + 1 ∧
    (k.ownerActs o ent bank td w leg).reg pgFlt 0x1208 = c.reg pgFlt 0x1208 ∧
    (k.ownerActs o ent bank td w leg).reg pgFlt 0x120C = c.reg pgFlt 0x120C := by
  have hcounts : (k.ownerActs o ent bank td w leg).waveCounts.tail = (c.bump pgFlt 0x1204).waveCounts.tail := by
    rw [Chip.ownerActs_received, hk]
  have hother : ∀ off ∈ [0x1208, 0x120C], (c.bump pgFlt 0x1204).reg pgFlt off = c.reg pgFlt off := fun off h =>
    c.reg_bump_other (regKey_ne_of_off (by revert off; decide) (by decide) (by revert off; decide))
  simp only [Chip.waveCounts, waveOffs, List.map_cons, List.map_nil, List.tail_cons, List.cons.injEq, and_true] at hcounts
  obtain ⟨h1, h2, h3⟩ := hcounts
  exact ⟨h1.trans (c.reg_bump ..), h2.trans (hother _ (by decide)), h3.trans (hother _ (by decide))⟩

/-- The coaches of the collective that a new wave finds packing, or folding before their Td, abort with its cause. -/
theorem Chip.ownerActs_slot_aborts {d i : Nat} (hcoach : k.coach = c.coach) (htime : k.time = c.time) (hd : d < 16)
    (hl : (c.slot d i).livery = w.livery) (hi : (c.slot d i).entry = w.entry) (hs : (c.slot d i).step = w.step)
    (hm : (c.slot d i).mustAbort c.time.now) :
    (k.ownerActs o ent bank td w leg).slot d i = (c.slot d i).aborted w.cause := by
  rw [← c.slot_congr hcoach] at hl hi hs hm ⊢
  exact Chip.ownerActs_aborts bank td w leg hd (by rwa [htime]) hl hi hs
end

theorem Chip.settleAlerts_hasMark (b c : Chip) (d l e : Nat) (s : W32) :
    (Chip.settleAlerts b c).hasMark d l e s = c.hasMark d l e s := rfl

/-- The command answers the part that its meaning computes. -/
theorem yields_after {i : Instr} {s : State} {k : Chip} {Q : Chip → Prop} (he : exec i s = .next (s.after k))
    (hQ : Q (Chip.settleAlerts s.chip k)) : Yields i s Q := ⟨_, he, rfl, hQ⟩

end Sys2Proof.Machine
end

section
/-! A slot is released (R127, R130, R136): its granules are free, and what else changes. -/

namespace Sys2Proof.Machine

/-! Units -/

section
variable {c : Chip} {die pool u : Nat}

theorem Chip.bankAccess_pool (c : Chip) (die bank : Nat) : (c.bankAccess die bank).pool = c.pool := by
  obtain ⟨_, _, h⟩ := c.bankAccess_rest die bank
  rw [h]

theorem Chip.evalLevel_owner (c : Chip) (die pool liv : Nat) : (c.evalLevel die pool liv).pool.owner = c.pool.owner := by
  obtain ⟨_, h | h⟩ := c.evalLevel_cases die pool liv <;> rw [h]
  obtain ⟨_, _, _, hr⟩ := Chip.raise_rest ((_ : Chip).bump (pgPol die) 0x1108) (evT (pgPol die) 0x0405 die liv pool)
  rw [hr]
  rfl

theorem Chip.releaseUnit_owner (h : c.unitOwner die pool u ≠ 0) :
    (c.releaseUnit die pool u).pool.owner = Tbl.set 0 c.pool.owner (unitKey die pool u) 0 := by
  have hpool := congrArg PoolSt.owner (c.bankAccess_pool die (unitBank pool u))
  unfold Chip.releaseUnit
  split
  · next h0 => exact absurd h0 h
  · dsimp only
    split
    · exact congrArg (fun t => Tbl.set 0 t (unitKey die pool u) 0) hpool
    · rw [Chip.evalLevel_owner]
      exact congrArg (fun t => Tbl.set 0 t (unitKey die pool u) 0) hpool

theorem Chip.releaseUnit_free (h : c.unitOwner die pool u = 0) : c.releaseUnit die pool u = c := by
  simp only [Chip.releaseUnit, h]

theorem Chip.releaseUnit_frees : (c.releaseUnit die pool u).unitOwner die pool u = 0 := by
  by_cases h : c.unitOwner die pool u = 0
  · rw [Chip.releaseUnit_free h, h]
  · rw [Chip.unitOwner, Chip.releaseUnit_owner h, Tbl.get_set_same]

/-- A unit that is free stays free. -/
theorem Chip.releaseUnit_stays {die' pool' v : Nat} (hv : c.unitOwner die' pool' v = 0) :
    (c.releaseUnit die pool u).unitOwner die' pool' v = 0 := by
  by_cases h : c.unitOwner die pool u = 0
  · rw [Chip.releaseUnit_free h, hv]
  · rw [Chip.unitOwner, Chip.releaseUnit_owner h, Tbl.get_set]
    split
    · rfl
    · exact hv

theorem Chip.releaseUnits_frees {us : List Nat} (h : u ∈ us) : (c.releaseUnits die pool us).unitOwner die pool u = 0 :=
  forAll_reaches (P := fun _ => True) (Q := fun k : Chip => k.unitOwner die pool u = 0)
    (fun _ _ => Chip.releaseUnit_frees) (fun _ _ _ _ => trivial) (fun _ _ hk => Chip.releaseUnit_stays hk) h trivial

/-- The granules of a slot that is released are free. -/
theorem Chip.freeSlot_granules {d i : Nat} (h : u ∈ (c.slot d i).granules) :
    (c.freeSlot d i).unitOwner (8 + d) 0 u = 0 := Chip.releaseUnits_frees (die := dieC d) (pool := plAcc) h
end

/-! What a release changes -/

/-- The groups of the state that releasing a slot can change. -/
def releaseGroups : List Grp := [.regs, .ev, .snap, .coach, .pool, .bank, .act]

section
variable (c : Chip)

theorem Chip.only_release (r : Tbl W32) (e : EvSt) (s : SnapSt) (k : CoachSt) (p : PoolSt) (b : BankSt) (a : ActSt) :
    Chip.only releaseGroups c { c with regs := r, ev := e, snap := s, coach := k, pool := p, bank := b, act := a } := by
  simp [Chip.only, releaseGroups]

theorem Chip.releaseUnit_only (die pool u : Nat) : Chip.only releaseGroups c (c.releaseUnit die pool u) := by
  obtain ⟨r, b, hb⟩ := c.bankAccess_rest die (unitBank pool u)
  unfold Chip.releaseUnit
  rw [hb]
  split
  · exact c.only_rfl _
  · dsimp only
    split
    · exact c.only_release ..
    · obtain ⟨_, h | h⟩ := Chip.evalLevel_cases _ die pool _ <;> rw [h]
      · obtain ⟨_, _, _, hr⟩ := Chip.raise_rest ((_ : Chip).bump (pgPol die) 0x1108) (evT (pgPol die) 0x0405 die _ pool)
        rw [hr]
        exact c.only_release ..
      · exact c.only_release ..

theorem Chip.releaseUnits_only (die pool : Nat) (us : List Nat) :
    Chip.only releaseGroups c (c.releaseUnits die pool us) :=
  c.only_forAll us _ fun u k => k.releaseUnit_only die pool u

theorem Chip.setCch_only (d : Nat) (x : CchDie) : Chip.only releaseGroups c (c.setCch d x) := c.only_release ..

theorem Chip.freeSlot_only (d i : Nat) : Chip.only releaseGroups c (c.freeSlot d i) := by
  obtain ⟨_, h⟩ := c.freeSlot_eq (d := d) (i := i)
  have hrelease : Chip.only releaseGroups c (c.releaseCoach d i) :=
    Chip.only_trans (c.setCch_only d _) (Chip.only_trans (Chip.releaseUnits_only _ _ _ _) (Chip.releaseUnits_only _ _ _ _))
  rw [h]
  exact Chip.only_trans hrelease (Chip.only_trans (Chip.setCch_only _ d _) (Chip.setCch_only _ d _))
end

end Sys2Proof.Machine
end

section
/-! The repeat of a wave (R410): sending copies changes neither the ports they take nor the liveries of those ports, so each
copy counts as its port allows. -/

namespace Sys2Proof.Machine

/-- A wave's header is a Control frame's. -/
theorem hClass_waveHdr {l : Nat} (src : Nat) (hl : l < 256) :
    hClass (mkHdr clsControl 0 l false 0 src 68 0 7) = clsControl := by
  obtain ⟨r, hrow, hvl⟩ : ∃ r, classRow clsControl 0 0 = some r ∧ r.vl = 0 := ⟨_, rfl, rfl⟩
  simp only [hClass, mkHdr, hrow, hvl]
  rw [fld_putFld_other _ _ _ _ _ _ (by decide)]
  simp only [fld, BitVec.toNat_ofNat, Nat.shiftRight_eq_div_pow, clsControl, Bool.false_eq_true, if_false]
  omega

/-- What sending wave copies leaves of the part: faults, the state of the ports, and every register but a livery's violation
record, the count of waves and the count of wakes. -/
structure Chip.WaveSent (a b : Chip) : Prop where
  flt : b.flt = a.flt
  aligned : ∀ q, (b.link q).aligned = (a.link q).aligned
  reg : ∀ page off inst, page < 0x400 → off < 0x10000 → off ∉ [0x1200, 0x1204] →
    ¬ (page = pgLiv ∧ off ∈ [0x1020, 0x1024]) → b.reg page off inst = a.reg page off inst

namespace Chip.WaveSent

variable {a b k : Chip}

theorem refl (a : Chip) : a.WaveSent a := ⟨rfl, fun _ => rfl, fun _ _ _ _ _ _ _ => rfl⟩

theorem trans (h : a.WaveSent b) (g : b.WaveSent k) : a.WaveSent k :=
  ⟨g.flt.trans h.flt, fun q => (g.aligned q).trans (h.aligned q),
    fun p o i hp ho hn hv => (g.reg p o i hp ho hn hv).trans (h.reg p o i hp ho hn hv)⟩

theorem setReg_off (a : Chip) {page off : Nat} (v : W32) (inst : Nat) (h : off ∈ [0x1200, 0x1204]) :
    a.WaveSent (a.setReg page off v inst) :=
  ⟨rfl, fun _ => rfl, fun _ _ _ _ ho hn _ =>
    a.reg_setReg_other v (regKey_ne_of_off ho (by revert off; decide) fun e => hn (e ▸ h))⟩

theorem setReg_liv (a : Chip) {off : Nat} (v : W32) (inst : Nat) (h : off ∈ [0x1020, 0x1024]) :
    a.WaveSent (a.setReg pgLiv off v inst) :=
  ⟨rfl, fun _ => rfl, fun p o i hp ho _ hv => a.reg_setReg_other v fun e => by
    have hoff : off = 0x1020 ∨ off = 0x1024 := by simpa using h
    obtain ⟨rfl, rfl, _⟩ := regKey_inj hp ho (by decide) (by omega) e
    exact hv ⟨rfl, h⟩⟩

theorem violation (a : Chip) (l cause : Nat) (p : Option Nat) : a.WaveSent (a.violation l cause p) :=
  (setReg_liv a _ l (by decide)).trans (setReg_liv _ _ l (by decide))

theorem lpiWake (a : Chip) (p : Nat) : a.WaveSent (a.lpiWake p) := by
  have hlink : ∀ x, a.WaveSent (a.setLink p { a.link p with lpi := x }) := fun x =>
    ⟨rfl, fun q => a.setLink_aligned q rfl, fun _ _ _ _ _ _ _ => rfl⟩
  unfold Chip.lpiWake
  split
  · exact (hlink _).trans (setReg_off _ _ 0 (by decide))
  · exact hlink _
  · exact refl a

/-- A Control frame of this part that is delivered. -/
theorem deliver (a : Chip) {m : Msg} (q : Nat) (hc : hClass m.hdr = clsControl) (he : m.eth = false) :
    a.WaveSent (a.deliver q m) := by
  have hcross : a.WaveSent (a.cross m (attachOf a q) q).2 := by
    unfold Chip.cross
    split
    · simp only [Chip.toCrossbar, he, Bool.false_and, Bool.false_eq_true, if_false]
      exact ⟨rfl, fun _ => rfl, fun _ _ _ _ _ _ _ => rfl⟩
    · exact refl a
  have hhdr : (a.cross m (attachOf a q) q).1.hdr = m.hdr := by
    unfold Chip.cross
    split <;> rfl
  rw [Chip.deliver, Chip.enqueue, hhdr, if_pos hc]
  exact hcross.trans ((lpiWake _ q).trans ⟨rfl, fun _ => rfl, fun _ _ _ _ _ _ _ => rfl⟩)

/-! What the copies follow -/

section
variable (h : a.WaveSent b)
include h

theorem peerEnt (n : Nat) : b.peerEnt n = a.peerEnt n := h.reg _ _ _ (by decide) (by decide) (by decide) (by decide)

theorem livPort (l : Nat) {q : Nat} (hq : q < 1024) : b.livPort l q = a.livPort l q := by
  have hoff : 0x1100 + 4 * (q / 32) < 0x1180 := by omega
  rw [Chip.livPort, Chip.flag, h.reg _ _ _ (by decide) (by omega), Chip.livPort, Chip.flag]
  · simp only [List.mem_cons, List.not_mem_nil, or_false]; omega
  · simp only [List.mem_cons, List.not_mem_nil, or_false]; omega

theorem portUp (q : Nat) : b.portUp q = a.portUp q := by
  by_cases hq : q < 1024
  · have hd : portDie q < 8 := portDie_lt hq
    have hphys : physOf q / 32 < 8 := by unfold physOf; omega
    have hreg : ∀ page off inst, page < 0x400 → page ≠ pgLiv → off < 0x1100 → b.reg page off inst = a.reg page off inst :=
      fun page off inst hp hn ho => h.reg _ _ _ hp (by omega)
        (by simp only [List.mem_cons, List.not_mem_nil, or_false]; omega) fun e => hn e.1
    have hcfg : b.prtCfg (physOf q) = a.prtCfg (physOf q) :=
      hreg _ _ _ (by unfold pgPrt; omega) (by unfold pgPrt pgLiv; omega) (by unfold prtCfgOff; omega)
    have hlnk : ∀ off inst, off < 0x1100 → b.reg (pgLnk (portDie q)) off inst = a.reg (pgLnk (portDie q)) off inst :=
      fun off inst => hreg _ _ _ (pgLnk_bounds hd).2 (by unfold pgLnk pgLiv; omega)
    have hbank : b.reg (pgMemP (portDie q)) 0x1040 = a.reg (pgMemP (portDie q)) 0x1040 :=
      hreg _ _ _ (by unfold pgMemP; omega) (by unfold pgMemP pgLiv; omega) (by decide)
    unfold Chip.portUp Chip.portWorks Chip.enabled Chip.inUse Chip.split Chip.dieFailed Chip.portBank Chip.linkUp
      Chip.narjo Chip.flag
    rw [hcfg, hlnk _ _ (by decide), hlnk _ _ (by decide), hbank, h.flt, h.aligned]
  · simp [Chip.portUp, Chip.portWorks, Chip.enabled, Chip.inUse, hq]

theorem wavePorts (g : W32) : b.wavePorts g = a.wavePorts g := by
  have hup : b.portUp = a.portUp := funext h.portUp
  rw [Chip.wavePorts, hup, Chip.wavePorts]
end

end Chip.WaveSent

theorem Chip.wavePorts_lt {c : Chip} {g : W32} {q : Nat} (h : q ∈ c.wavePorts g) : q < 1024 := by
  have h0 : gPort0 g < 1024 := fld_lt ..
  have h1 : gPort1 g < 1024 := fld_lt ..
  simp only [Chip.wavePorts] at h
  split at h <;> simp at h <;> omega

/-! One copy -/

/-- One copy of a wave out of one port. -/
def Chip.sendWave (c : Chip) (d l q : Nat) (b : BitVec 256) : Chip :=
  match c.sendControl d l q 0 0 b with
  | (true, c) => c.bump pgFlt 0x1200
  | (false, c) => c

theorem Chip.sendWaves_eq (c : Chip) (d l : Nat) (copies : List (Nat × BitVec 256)) : c.sendWaves d l copies =
    forAll copies c fun x c => forAll (c.wavePorts (c.peerEnt x.1)) c fun q c => c.sendWave d l q x.2 := rfl

/-- The frame that carries a copy. -/
def Chip.waveFrame (c : Chip) (d l : Nat) (b : BitVec 256) : Msg :=
  Msg.made (mkHdr clsControl 0 l false 0 c.selfEid 68 0 7) (bytesBE 32 b.toNat) c.time.now (some (coachPos d 0))

theorem Chip.sendWave_eq (c : Chip) (d l q : Nat) (b : BitVec 256) : c.sendWave d l q b =
    if c.livPort l q then (c.deliver q (c.waveFrame d l b)).bump pgFlt 0x1200 else c.violation l 9 (some q) := by
  unfold Chip.sendWave Chip.sendControl
  cases c.livPort l q <;> rfl

section
variable {c k : Chip} {d l : Nat} (hl : l < 256)
include hl

theorem Chip.waveFrame_class (b : BitVec 256) : hClass (c.waveFrame d l b).hdr = clsControl :=
  hClass_waveHdr c.selfEid hl

theorem Chip.sendWave_sent (q : Nat) (b : BitVec 256) : c.WaveSent (c.sendWave d l q b) := by
  rw [Chip.sendWave_eq]
  split
  · exact (Chip.WaveSent.deliver c q (Chip.waveFrame_class hl b) rfl).trans (.setReg_off _ _ 0 (by decide))
  · exact .violation c l 9 (some q)

omit hl in
/-- A copy counts where its port allows its livery. -/
theorem Chip.sendWave_counts (q : Nat) (b : BitVec 256) : (c.sendWave d l q b).reg pgFlt 0x1200 =
    c.reg pgFlt 0x1200 + BitVec.ofNat 32 (if c.livPort l q then 1 else 0) := by
  have hhead : ∀ {k : Chip}, k.waveCounts = c.waveCounts → k.reg pgFlt 0x1200 = c.reg pgFlt 0x1200 := fun h =>
    (List.cons.inj h).1
  rw [Chip.sendWave_eq]
  split
  · rw [Chip.reg_bump, hhead (c.deliver_waveCounts q _)]
    rfl
  · rw [hhead (c.violation_waveCounts l 9 (some q))]
    exact (BitVec.add_zero _).symm

/-- The copies to one peer. -/
theorem Chip.sendWave_all (b : BitVec 256) (h : c.WaveSent k) {qs : List Nat} (hq : ∀ q ∈ qs, q < 1024) :
    c.WaveSent (forAll qs k fun q k => k.sendWave d l q b) ∧
    (forAll qs k fun q k => k.sendWave d l q b).reg pgFlt 0x1200 =
      k.reg pgFlt 0x1200 + BitVec.ofNat 32 (qs.filter (c.livPort l)).length := by
  show c.WaveSent (qs.foldl _ k) ∧ (qs.foldl _ k).reg pgFlt 0x1200 = _
  induction qs generalizing k with
  | nil => exact ⟨h, (BitVec.add_zero _).symm⟩
  | cons q qs ih =>
    obtain ⟨hlt, hrest⟩ := List.forall_mem_cons.1 hq
    obtain ⟨hsent, hcount⟩ := ih (h.trans (Chip.sendWave_sent (d := d) hl q b)) hrest
    refine ⟨hsent, hcount.trans ?_⟩
    rw [Chip.sendWave_counts, h.livPort l hlt, BitVec.add_assoc, ← BitVec.ofNat_add, List.filter_cons]
    split <;> simp [Nat.add_comm]

/-- The copies to every peer. -/
theorem Chip.sendWaves_counts (h : c.WaveSent k) (copies : List (Nat × BitVec 256)) :
    c.WaveSent (k.sendWaves d l copies) ∧ (k.sendWaves d l copies).reg pgFlt 0x1200 = k.reg pgFlt 0x1200 +
      BitVec.ofNat 32 ((copies.flatMap fun x => c.wavePorts (c.peerEnt x.1)).filter (c.livPort l)).length := by
  rw [Chip.sendWaves_eq]
  show c.WaveSent (copies.foldl _ k) ∧ (copies.foldl _ k).reg pgFlt 0x1200 = _
  induction copies generalizing k with
  | nil => exact ⟨h, (BitVec.add_zero _).symm⟩
  | cons x copies ih =>
    obtain ⟨hpeer, hone⟩ := Chip.sendWave_all (d := d) hl x.2 h (qs := k.wavePorts (k.peerEnt x.1))
      fun q => Chip.wavePorts_lt
    obtain ⟨hsent, hcount⟩ := ih hpeer
    refine ⟨hsent, hcount.trans ?_⟩
    rw [hone, h.peerEnt, h.wavePorts, BitVec.add_assoc, ← BitVec.ofNat_add, List.flatMap_cons, List.filter_append,
      List.length_append]
end

/-! The command -/

section
variable {c : Chip} {l e : Nat} {s : W32}

/-- A repeat that is due. -/
def WaveRep.isDue (x : WaveRep) (l e : Nat) (s : W32) (now : Nat) : Prop :=
  x.livery = l ∧ x.entry = e ∧ x.step = s ∧ x.due ≤ now

theorem WaveRep.isDue_iff {x : WaveRep} {now : Nat} :
    (decide (x.livery = l ∧ x.entry = e ∧ x.step = s) && decide (x.due ≤ now)) = true ↔ x.isDue l e s now := by
  simp [WaveRep.isDue, and_assoc]

theorem Chip.repeatWaves_idle (h : ∀ x ∈ c.flt.waves, ¬ x.isDue l e s c.time.now) : c.repeatWaves l e s = c := by
  have hn := List.find?_eq_none.2 fun x hx => mt WaveRep.isDue_iff.1 (h x hx)
  simp only [Chip.repeatWaves, hn]

theorem Chip.repeatWaves_due {pre post : List WaveRep} {x : WaveRep} (hw : c.flt.waves = pre ++ x :: post)
    (hx : x.isDue l e s c.time.now) (hpre : ∀ y ∈ pre, ¬ y.isDue l e s c.time.now) : c.repeatWaves l e s =
      Chip.sendWaves { c with flt := { c.flt with waves := pre ++ post } } x.die l x.copies := by
  have hdue := WaveRep.isDue_iff.2 hx
  have hearly : ∀ y ∈ pre, (decide (y.livery = l ∧ y.entry = e ∧ y.step = s) && decide (y.due ≤ c.time.now)) = false :=
    fun y hy => Bool.eq_false_iff.2 (mt WaveRep.isDue_iff.1 (hpre y hy))
  have hfind : c.flt.waves.find? (fun x => decide (x.livery = l ∧ x.entry = e ∧ x.step = s) &&
      decide (x.due ≤ c.time.now)) = some x :=
    List.find?_eq_some_iff_append.2 ⟨hdue, pre, post, hw, fun y hy => by rw [hearly y hy]; rfl⟩
  have hdrop := dropFirst_append (post := post) hearly hdue
  rw [← hw] at hdrop
  simp only [Chip.repeatWaves, hfind, hdrop]
end

end Sys2Proof.Machine
end

section
/-! Abort waves, their repeats, and what becomes of an aborted coach (O28). -/

namespace Sys2Proof.Machine

/-! What the commands answer -/

section
variable {s : State}

/-- A wave that its owner has no mark for: the mark, the counts, and the coaches that abort. -/
theorem yields_newWave {i : Instr} {c k : Chip} {o : Nat} {v : Served} {w : WaveInfo} {leg : Option Nat}
    (he : exec i s = .next (s.after (k.ownerActs o v.ent v.bank v.td w leg))) (ho : c.waveOwner v.ent = some o)
    (hcoach : k.coach = c.coach) (hhouse : k.house = c.house) (hflt : k.flt = c.flt)
    (hcounts : k.waveCounts = (c.bump pgFlt 0x1204).waveCounts) :
    Yields i s fun t => t.hasMark o w.livery w.entry w.step = true ∧ t.reg pgFlt 0x1204 = c.reg pgFlt 0x1204 + 1 ∧
      t.reg pgFlt 0x1208 = c.reg pgFlt 0x1208 ∧ t.reg pgFlt 0x120C = c.reg pgFlt 0x120C ∧
      ∀ d < 16, ∀ i, (c.slot d i).livery = w.livery → (c.slot d i).entry = w.entry → (c.slot d i).step = w.step →
        (c.slot d i).mustAbort c.time.now → (t.slot d i).phase = .aborting ∧ (t.slot d i).cause = w.cause ∧
          (t.slot d i).holdq = [] ∧ (t.slot d i).outs = [] := by
  obtain ⟨hrx, hdup, hno⟩ := Chip.ownerActs_counts (o := o) (ent := v.ent) v.bank v.td w leg hcounts
  refine yields_after he ?_
  rw [Chip.settleAlerts_reg, Chip.settleAlerts_reg, Chip.settleAlerts_reg, Chip.settleAlerts_hasMark]
  refine ⟨Chip.ownerActs_marks v.bank v.td w _ ((Chip.waveOwner_congr hflt _).trans ho), hrx, hdup, hno,
    fun d hd i hl hi hs hm => ?_⟩
  rw [Chip.settleAlerts_slot,
    Chip.ownerActs_slot_aborts v.bank v.td w leg hcoach (congrArg (·.1) hhouse) hd hl hi hs hm]
  exact ⟨rfl, rfl, rfl, rfl⟩

theorem exec_abortWaveRepeat {l : Liv} {e : BitVec 16} {st : W32} (hup : s.chip.mainUp = true) :
    exec (.abortWaveRepeat l e st) s = s.run fun _ => s.chip.repeatWaves l.toNat e.toNat st := by
  rw [exec, execAbortWaveRepeat, State.run_eq_after, State.run_eq_after, if_pos hup]

/-- A repeat that is due: its copies leave once more. -/
theorem yields_repeat {l : Liv} {e : BitVec 16} {st : W32} {pre post : List WaveRep} {x : WaveRep}
    (hup : s.chip.mainUp = true) (hw : s.chip.flt.waves = pre ++ x :: post)
    (hx : x.isDue l.toNat e.toNat st s.chip.time.now) (hpre : ∀ y ∈ pre, ¬ y.isDue l.toNat e.toNat st s.chip.time.now) :
    Yields (.abortWaveRepeat l e st) s fun t => t.flt.waves = pre ++ post ∧
      t.reg pgFlt 0x1200 = s.chip.reg pgFlt 0x1200 + BitVec.ofNat 32 ((x.copies.flatMap fun k =>
        s.chip.wavePorts (s.chip.peerEnt k.1)).filter (s.chip.livPort l.toNat)).length := by
  obtain ⟨hsent, hcount⟩ := Chip.sendWaves_counts (d := x.die) l.isLt
    (.refl { s.chip with flt := { s.chip.flt with waves := pre ++ post } }) x.copies
  have he := exec_abortWaveRepeat (l := l) (e := e) (st := st) hup
  rw [Chip.repeatWaves_due hw hx hpre] at he
  refine yields_after he ⟨?_, ?_⟩
  · rw [Chip.settleAlerts_flt, hsent.flt]
  · rw [Chip.settleAlerts_reg, hcount]
    rfl

/-- A coach whose drain is done leaves its slot. -/
theorem exec_abortDrainDone {d : CDie} {i : Slot} (hup : s.chip.mainUp = true)
    (hx : (s.chip.slot d.val i.val).phase = .aborting) :
    exec (.abortDrainDone d i) s = .next (s.after (s.chip.freeSlot d.val i.val)) := by
  rw [exec, execAbortDrainDone, State.run_eq_after, if_pos ⟨hup, hx⟩]
end

/-- Settles O28: what an abort does beside its coaches changes no coach, no mark and no count of received waves, and what
sending a copy changes decides nothing about the next one. -/
theorem abortsSpreadAndDrain : Obligations.AbortsSpreadAndDrain := by
  unfold Obligations.AbortsSpreadAndDrain
  refine ⟨?_, ?_, ?_⟩
  · intro s p f age hh hc h0 hp m c w
    have he : exec (.abortWaveRx p f age) s = .next (s.after (c.waveTake m)) := exec_abortWaveRx hh hc h0 hp
    refine ⟨fun hn => ?_, fun v hl hv => ⟨fun hne => ?_, fun o heq ho => ?_⟩⟩
    · rw [he, Chip.waveTake_unserved (m := m) (w := w) rfl hn]
    · rw [he, Chip.waveTake_otherEntry (m := m) (w := w) rfl hl hv hne]
    · obtain ⟨hcoach, hhouse, hflt, hcounts, hdup, hnew⟩ :=
        Chip.waveTake_owned (m := m) (w := w) (q := p.val) rfl rfl hl hv heq ho
      exact ⟨fun hm => by rw [he, hdup hm],
        fun hm => yields_newWave (he.trans (by rw [hnew hm])) ho hcoach hhouse hflt hcounts⟩
  · intro s l e st hup c due
    refine ⟨fun hn => (exec_abortWaveRepeat hup).trans (State.run_eq_self (Chip.repeatWaves_idle hn)),
      fun pre x post hw hx hpre => ?_⟩
    exact yields_repeat hup hw hx hpre
  · intro s d i hup c x
    refine ⟨fun hx => ?_, fun hx => yields_after (exec_abortDrainDone hup hx) ?_, ?_⟩
    · rw [exec, execAbortDrainDone]
      exact State.run_eq_self (if_neg fun h => hx h.2)
    · simp only [Chip.settleAlerts_slot, Chip.freeSlot_same]
      refine ⟨rfl, rfl, rfl, rfl, rfl, rfl, rfl, rfl, fun u hu => Chip.freeSlot_granules hu, fun a j h => ?_,
        Chip.only_trans (c.freeSlot_only d i) (Chip.settleAlerts_only _ _ _)⟩
      exact Chip.freeSlot_ne c fun h' => h.elim (absurd h'.1) (absurd h'.2)
    · rw [exec, execAbortMarkExpiry]
      exact (State.run_eq_put (by rw [if_pos hup]; rfl)).trans (by rw [if_pos hup])

end Sys2Proof.Machine
end

section
/-! The release of the frames that a route drain held (R296) where one of them names a cell of a buffer die that the part
does not have: a state that no command brings about, and that the statement on the route bank swap does not leave out. -/

namespace Sys2Proof.Machine

/-! A held cell beyond its pool -/

/-- A cell that `unitBank` places in bank 3,147,520 of its die. -/
def alienCell : Nat := 3147520 * 2048

/-- The cell is beyond the pool (R199). On buffer die 2, whose number is that of M0, the retention flag of its bank, which
`Chip.bankAccess` clears, would stand in RTE 0x1100, where the banks of groups 0 to 31 stand. -/
theorem alienCell_beyond : poolUnits plCell ≤ alienCell ∧ dieB 2 = dieM ∧ unitBank plCell alienCell = 3147520 ∧
    regKey (pgMem dieM) (0x1020 + 4 * (3147520 / 32)) 0 = regKey pgRte 0x1100 0 := by
  decide

/-- A frame in that cell. -/
def alienFrame : Msg := { Msg.made 0 [] 0 none with cells := [⟨2, alienCell, 0⟩] }

/-- A drain of group 0 that holds the frame. -/
def alienDrain : Drain := ⟨0, 0, 0, false, [alienFrame]⟩

/-- A part that is READY, with that drain and with the cell's bank in retention. Its route table is empty. -/
def alienPart : Chip :=
  let c := Chip.reset.setField pgPwr 0x1078 0 3 phReady
  { c.setDrain (some alienDrain) with bank := { c.bank with ret := [(dieM * 256 + 3147520, .retained)] } }

/-- The drain waits for its switch, and no old-bank frame is left. -/
theorem alienPart_drains : alienPart.mainUp = true ∧ alienPart.rte.drain = some alienDrain ∧
    alienPart.inFlight alienDrain = 0 ∧ alienPart.dgBank 0 = false := by
  decide +kernel

/-- The held frame is a route miss, so its cell is released; that wakes the bank, and with its retention flag the bank of
group 0 is back to 0. -/
theorem alienPart_swapSwitch : alienPart.swapSwitch.dgBank 0 = false := by decide +kernel

/-- ROUTE_SWAP_SWITCH leaves group 0 in its old bank. -/
theorem alienPart_stays {t : State} (h : exec .routeSwapSwitch ⟨alienPart, []⟩ = .next t) : t.chip.dgBank 0 = false := by
  rw [run_eq (f := fun c => if c.mainUp then c.swapSwitch else c) h]
  simp only [Chip.dgBank, Chip.settleAlerts_flag, alienPart_drains.1, if_true]
  exact alienPart_swapSwitch

/-- Refutes O46, in its clause that the switch turns every group of the range: the held frames follow the switch, one that
finds no route releases its cells whatever their numbers, and to wake the bank of `alienCell` the release clears a bit of
the register that tells the groups' banks. The counterexample is `alienPart`; no buffer die has such a cell
(`alienCell_beyond`), so no command gives one to a frame. -/
theorem not_routesSwapAndTablesAreWritten : ¬ Obligations.RoutesSwapAndTablesAreWritten := by
  unfold Obligations.RoutesSwapAndTablesAreWritten
  intro h
  obtain ⟨hup, hdrain, hleft, hbank⟩ := alienPart_drains
  obtain ⟨_, _, hswitch⟩ := h
  obtain ⟨_, hturns, _⟩ := hswitch ⟨alienPart, []⟩ hup
  obtain ⟨t, ht, _, hgroups, _⟩ := hturns alienDrain hdrain hleft
  have hgroup : t.chip.dgBank 0 = !alienPart.dgBank 0 := (hgroups 0 (by decide)).trans (if_pos (by decide))
  rw [alienPart_stays ht, hbank] at hgroup
  exact absurd hgroup (by decide)

end Sys2Proof.Machine
end

section
/-! What a put leaves alone (R147, R148): the put counters, the groups and a port die's count of opened counters, under what
replicating, mirroring, holding and answering a frame do. -/

namespace Sys2Proof.Machine

/-- The put counters, the groups, and the count of the counters opened on port die `d` (PRT 0x1800). -/
def Chip.putView (c : Chip) (d : Nat) : Tbl PutCtr × Tbl (BitVec 1152) × W32 :=
  (c.puts, c.rte.groups, c.reg (pgPrt d) 0x1800)

section
variable {c k : Chip} {d : Nat} (h : k.putView d = c.putView d)
include h

theorem Chip.puts_of_putView : k.puts = c.puts := congrArg (·.1) h
theorem Chip.putCtr_of_putView (n : Nat) : k.putCtr n = c.putCtr n := by
  rw [Chip.putCtr, Chip.puts_of_putView h, Chip.putCtr]
theorem Chip.group_of_putView (g : Nat) : k.group g = c.group g := by
  rw [Chip.group, show k.rte.groups = c.rte.groups from congrArg (·.2.1) h, Chip.group]
theorem Chip.reg_of_putView : k.reg (pgPrt d) 0x1800 = c.reg (pgPrt d) 0x1800 := congrArg (·.2.2) h
end

variable (c : Chip) (d : Nat)

/-! Registers -/

theorem Chip.setReg_putView {page off : Nat} (v : W32) (inst : Nat) (ho : off < 0x10000) (h : off ≠ 0x1800) :
    (c.setReg page off v inst).putView d = c.putView d := by
  have hr := c.reg_setReg_other (page := page) v (inst := inst)
    (regKey_ne_of_off (p := pgPrt d) (i := 0) (by decide) ho h.symm)
  rw [Chip.putView, hr]; rfl

theorem Chip.setField_putView {page off : Nat} (lo w v inst : Nat) (ho : off < 0x10000) (h : off ≠ 0x1800) :
    (c.setField page off lo w v inst).putView d = c.putView d := c.setReg_putView d _ inst ho h

theorem Chip.setFlag_putView {page off : Nat} (i : Nat) (b : Bool) (inst : Nat) (ho : off < 0x10000) (h : off ≠ 0x1800) :
    (c.setFlag page off i b inst).putView d = c.putView d := c.setReg_putView d _ inst ho h

theorem Chip.bump_putView {page off : Nat} (inst : Nat) (ho : off < 0x10000) (h : off ≠ 0x1800) :
    (c.bump page off inst).putView d = c.putView d := c.setReg_putView d _ inst ho h

/-- RTE 0x1800, the count of route misses, is not a port die's. -/
@[simp] theorem Chip.routeMiss_putView : c.routeMiss.putView d = c.putView d := by
  have hr : c.routeMiss.reg (pgPrt d) 0x1800 = c.reg (pgPrt d) 0x1800 :=
    c.reg_bump_other (by unfold regKey pgPrt pgRte; omega)
  rw [Chip.putView, hr]; rfl

@[simp] theorem Chip.violation_putView (l cause : Nat) (p : Option Nat) :
    (c.violation l cause p).putView d = c.putView d :=
  (Chip.setReg_putView _ d _ _ (by decide) (by decide)).trans (c.bump_putView d _ (by decide) (by decide))

@[simp] theorem Chip.raise_putView (e : Ev) : (c.raise e).putView d = c.putView d := by
  have hk : ∀ off ∈ [0x14, 0x24, 0x28, 0x100C, 0x1004, 0x1080], ∀ pg, regKey (pgPrt d) 0x1800 0 ≠ regKey pg off 0 :=
    fun off hoff pg => regKey_ne_of_off (by decide) (by revert off; decide) (by revert off; decide)
  have hr : (c.raise e).reg (pgPrt d) 0x1800 = c.reg (pgPrt d) 0x1800 := c.raise_reg e (by
    simp only [evKeys, List.mem_cons, List.not_mem_nil, or_false, not_or]
    exact ⟨hk _ (by decide) _, hk _ (by decide) _, hk _ (by decide) _, hk _ (by decide) _, hk _ (by decide) _,
      hk _ (by decide) _⟩)
  rw [Chip.putView, hr]
  obtain ⟨_, _, _, he⟩ := c.raise_rest e
  rw [he]; rfl

/-! Pools -/

/-- The banks of a die have flags in eight words (R226). -/
theorem Chip.bankAccess_putView (die : Nat) {bank : Nat} (h : bank < 256) :
    (c.bankAccess die bank).putView d = c.putView d := by
  simp only [Chip.bankAccess]
  generalize ht : (if bank < 128 then { c with bank := { c.bank with
    touched := Tbl.set 0 c.bank.touched (die * 256 + bank) c.time.now } } else c) = k
  have hk : k.putView d = c.putView d := by rw [← ht]; split <;> rfl
  split
  · exact hk
  · split
    · exact (Chip.bump_putView _ d _ (by decide) (by decide)).trans hk
    · exact hk
  · exact hk
  · exact (Chip.setFlag_putView _ d _ _ _ (by omega) (by omega)).trans
      ((Chip.bump_putView _ d _ (by decide) (by decide)).trans hk)
  · exact hk

@[simp] theorem Chip.evalLevel_putView (die pool liv : Nat) : (c.evalLevel die pool liv).putView d = c.putView d := by
  obtain ⟨_, h | h⟩ := c.evalLevel_cases die pool liv <;> rw [h]
  · rw [Chip.raise_putView, Chip.bump_putView _ _ _ (by decide) (by decide)]; rfl
  · rfl

theorem unitBank_lt {pool u : Nat} (h : u < poolUnits pool) : unitBank pool u < 256 := by
  unfold poolUnits at h
  unfold unitBank
  split at h <;> simp only <;> omega

theorem Chip.takeUnit_putView (die owner : Nat) {pool u : Nat} (h : u < poolUnits pool) :
    (c.takeUnit die pool owner u).putView d = c.putView d := c.bankAccess_putView d die (unitBank_lt h)

theorem Chip.tryUnits_putView {die pool owner n : Nat} {us : List Nat} {k : Chip}
    (h : c.tryUnits die pool owner n = some (us, k)) : k.putView d = c.putView d := by
  induction n generalizing us k with
  | zero => cases h; rfl
  | succ n ih =>
    simp only [Chip.tryUnits] at h
    split at h
    · cases h
    · next us' k' hk =>
      split at h
      · split at h
        · next u hu =>
          cases h
          exact (k'.takeUnit_putView d die owner (Chip.lowestFree_lt hu)).trans (ih hk)
        · cases h
      · cases h

@[simp] theorem Chip.allocUnits_putView (die pool owner n : Nat) :
    (c.allocUnits die pool owner n).2.putView d = c.putView d := by
  unfold Chip.allocUnits
  split
  · next us k h =>
    dsimp only
    split
    · exact c.tryUnits_putView d h
    · rw [Chip.evalLevel_putView, c.tryUnits_putView d h]
  · exact c.bump_putView d _ (by decide) (by decide)

/-- Units that are taken, or were not to be had. -/
theorem Chip.allocUnits_pair_putView {die pool owner n : Nat} {us : Option (List Nat)} {k : Chip}
    (h : c.allocUnits die pool owner n = (us, k)) : k.putView d = c.putView d := by
  rw [← c.allocUnits_putView d die pool owner n, h]

/-- A put counter's bank is none of a pool's (R195). -/
@[simp] theorem Chip.releaseUnit_put_putView (die u : Nat) : (c.releaseUnit die plPut u).putView d = c.putView d := by
  have hb : (c.bankAccess die (unitBank plPut u)).putView d = c.putView d :=
    c.bankAccess_putView d die (show (255 : Nat) < 256 by decide)
  unfold Chip.releaseUnit
  split
  · rfl
  · dsimp only
    split
    · exact hb
    · exact (Chip.evalLevel_putView ..).trans hb

@[simp] theorem Chip.openCells_putView (bd owner refs : Nat) (us : List Nat) :
    (c.openCells bd owner refs us).2.putView d = c.putView d :=
  keep_fold2 (Chip.putView · d) us ([], c) _ fun _ _ => rfl

@[simp] theorem Chip.writeCells_putView (bd owner len refs : Nat) :
    (c.writeCells bd owner len refs).2.putView d = c.putView d := by
  unfold Chip.writeCells
  split
  · next h => exact (Chip.openCells_putView ..).trans (c.allocUnits_pair_putView d h)
  · next h => exact c.allocUnits_pair_putView d h

@[simp] theorem Chip.setRefs_putView (r : CellRef) (n : Nat) : (c.setRefs r n).putView d = c.putView d := by
  unfold Chip.setRefs
  split <;> rfl

@[simp] theorem Chip.polDiscard_putView (p : Nat) : (c.polDiscard p).putView d = c.putView d := by
  unfold Chip.polDiscard
  split
  · exact c.bump_putView d _ (by decide) (by decide)
  · rfl

/-! Queues and crossings -/

@[simp] theorem Chip.watermark_putView (p tc d0 d1 : Nat) : (c.watermark p tc d0 d1).putView d = c.putView d := by
  have hq : ∀ (k : Chip) (q : QueueSt), (k.setQueueSt p tc q).putView d = k.putView d := fun _ _ => rfl
  have hset : ∀ (k : Chip) (v : W32) (i : Nat), (k.setReg (pgTmg (portDie p)) 0x10C4 v i).putView d = k.putView d :=
    fun k v i => k.setReg_putView d v i (by decide) (by decide)
  have hbump : ∀ (k : Chip) (i : Nat), (k.bump (pgTmg (portDie p)) 0x10C8 i).putView d = k.putView d :=
    fun k i => k.bump_putView d i (by decide) (by decide)
  have hfield : ∀ (k : Chip) (lo w v i : Nat),
      (k.setField (pgTmg (portDie p)) 0x10C4 lo w v i).putView d = k.putView d :=
    fun k lo w v i => k.setField_putView d lo w v i (by decide) (by decide)
  simp only [Chip.watermark]
  split_ifs <;> simp only [hq, hset, hbump, hfield, Chip.raise_putView]

@[simp] theorem Chip.lpiWake_putView (p : Nat) : (c.lpiWake p).putView d = c.putView d := by
  unfold Chip.lpiWake
  split
  · exact Chip.bump_putView _ d _ (by decide) (by decide)
  · rfl
  · rfl

@[simp] theorem Chip.enqueue_putView (p : Nat) (m : Msg) : (c.enqueue p m).putView d = c.putView d := by
  have hset : ∀ (k : Chip) (e : Egress), (k.setEgress p e).putView d = k.putView d := fun _ _ => rfl
  simp only [Chip.enqueue]
  split_ifs <;> simp only [hset, Chip.watermark_putView, Chip.lpiWake_putView]

@[simp] theorem Chip.pfcCheck_putView (p i : Nat) : (c.pfcCheck p i).putView d = c.putView d := by
  simp only [Chip.pfcCheck]
  split_ifs
  · exact Chip.enqueue_putView ..
  · exact Chip.enqueue_putView ..
  · rfl

@[simp] theorem Chip.cross_putView (m : Msg) (dest q : Nat) : (c.cross m dest q).2.putView d = c.putView d := by
  unfold Chip.cross
  split
  · simp only [Chip.toCrossbar]
    split
    · exact Chip.pfcCheck_putView ..
    · rfl
  · rfl

@[simp] theorem Chip.deliver_putView (q : Nat) (m : Msg) : (c.deliver q m).putView d = c.putView d := by
  rw [Chip.deliver, Chip.enqueue_putView, Chip.cross_putView]

@[simp] theorem Chip.holdWhole_putView (m : Msg) (q refs : Nat) : (c.holdWhole m q refs).2.putView d = c.putView d := by
  unfold Chip.holdWhole
  split
  · exact keep_forAll (Chip.putView · d) _ c _ fun r k => k.setRefs_putView d r refs
  · dsimp only
    split
    · exact c.polDiscard_putView d _
    · have hw := c.writeCells_putView d (c.bufferDie (m.cellDie q) (hLiv m.hdr)) (cellOwner m.hdr) m.len refs
      split
      · next h => rw [h] at hw; exact (Chip.cross_putView ..).trans hw
      · next h => rw [h] at hw; exact (Chip.polDiscard_putView ..).trans hw

/-- A frame that is held, or found no cells. -/
theorem Chip.holdWhole_pair_putView {m : Msg} {q refs : Nat} {y : Option Msg} {k : Chip}
    (h : c.holdWhole m q refs = (y, k)) : k.putView d = c.putView d := by
  rw [← c.holdWhole_putView d m q refs, h]

/-! Mirroring and the flow table -/

@[simp] theorem Chip.mirrorSend_putView (s : Nat) (egress bad : Bool) (lport stamp : Nat) (all : List Byte) :
    (c.mirrorSend s egress bad lport stamp all).putView d = c.putView d := by
  have hdrop : ∀ k : Chip, k.mirrorDrop.putView d = k.putView d := fun k => k.bump_putView d _ (by decide) (by decide)
  have hdown : c.downDrop.putView d = c.putView d := c.bump_putView d _ (by decide) (by decide)
  unfold Chip.mirrorSend
  dsimp only
  split
  · exact c.violation_putView ..
  · split
    · rw [hdrop, Chip.routeMiss_putView]
    · rfl
    · rw [hdrop, hdown]
    · exact hdrop c
    · next q _ =>
      split
      · exact c.violation_putView ..
      · split
        · next h => rw [Chip.deliver_putView, c.holdWhole_pair_putView d h]
        · next h => rw [hdrop, c.holdWhole_pair_putView d h]

@[simp] theorem Chip.mirrorMatch_putView (s : Nat) (egress bad : Bool) (lport stamp : Nat) (all : List Byte) :
    (c.mirrorMatch s egress bad lport stamp all).putView d = c.putView d := by
  simp only [Chip.mirrorMatch]
  split_ifs
  · exact c.mirrorSend_putView ..
  · exact Chip.mirrorSend_putView ..
  · rfl

@[simp] theorem Chip.mirrorAt_putView (egress bad : Bool) (lport stamp : Nat) (flow : Option Nat) (all : List Byte) :
    (c.mirrorAt egress bad lport stamp flow all).putView d = c.putView d :=
  keep_forAll (Chip.putView · d) _ c _ fun s k => by
    dsimp only
    rw [apply_ite (Chip.putView · d), k.mirrorMatch_putView, ite_self]

@[simp] theorem Chip.mirrorIn_putView (bad : Bool) (flow : Option Nat) (m : Msg) :
    (c.mirrorIn bad flow m).putView d = c.putView d := by
  unfold Chip.mirrorIn
  split
  · exact c.mirrorAt_putView ..
  · rfl

@[simp] theorem Chip.flowOf_putView (m : Msg) : (c.flowOf m).2.putView d = c.putView d := by
  unfold Chip.flowOf
  split
  · simp only [Chip.flowLookup]
    split
    · rfl
    · dsimp only
      split <;> rfl
  · rfl

@[simp] theorem Chip.atDispatch_putView (m : Msg) (tail : TailSt) : (c.atDispatch m tail).2.putView d = c.putView d := by
  simp only [Chip.atDispatch]
  split
  · rw [Chip.mirrorIn_putView, Chip.flowOf_putView]
  · exact c.flowOf_putView ..

/-! Lost targets -/

@[simp] theorem Chip.setLost_putView (l : Nat) (x : LostSt) : (c.setLost l x).putView d = c.putView d := rfl

@[simp] theorem Chip.loseTarget_putView (l q : Nat) : (c.loseTarget l q).putView d = c.putView d := by
  simp only [Chip.loseTarget]
  split
  · rfl
  · split
    · rw [Chip.setLost_putView, Chip.raise_putView]
    · rw [Chip.setLost_putView, Chip.setFlag_putView _ _ _ _ _ (by decide) (by decide), Chip.raise_putView]

@[simp] theorem Chip.gapTarget_putView (l q : Nat) : (c.gapTarget l q).putView d = c.putView d := by
  simp only [Chip.gapTarget]
  split <;> rfl

@[simp] theorem Chip.gapMsg_putView (q : Nat) (m : Msg) : (c.gapMsg q m).putView d = c.putView d := by
  unfold Chip.gapMsg
  split
  · exact c.gapTarget_putView ..
  · rfl

@[simp] theorem Chip.holdLost_putView (q : Nat) (m : Msg) : (c.holdLost q m).putView d = c.putView d := by
  simp only [Chip.holdLost]
  split
  · next h => rw [Chip.setLost_putView, Chip.holdWhole_pair_putView _ d h, Chip.loseTarget_putView]
  · next h => rw [Chip.gapTarget_putView, Chip.holdWhole_pair_putView _ d h, Chip.loseTarget_putView]

/-! A frame that holds no cells on its way to a port -/

section
variable {m : Msg} (hm : m.cells = [])
include hm

theorem Chip.place_putView (q : Nat) : (c.place q m .good).putView d = c.putView d := by
  unfold Chip.place
  rw [hm, if_pos rfl]
  split
  · rw [Chip.dropCells_nil, Chip.violation_putView]
  · split
    · exact c.deliver_putView ..
    · split
      · exact c.deliver_putView ..
      · split
        · next h => rw [Chip.deliver_putView, c.holdWhole_pair_putView d h]
        · next h => rw [Chip.gapMsg_putView, c.holdWhole_pair_putView d h]

theorem Chip.sendOn_putView (q : Nat) (lost : Bool) : (c.sendOn q m .good lost).putView d = c.putView d := by
  unfold Chip.sendOn
  split
  · exact c.holdLost_putView ..
  · exact c.place_putView d hm q

omit hm in
theorem Chip.shaperTake_putView (n b : Nat) (e : Nat) : (c.shaperTake e n b).putView d = c.putView d := by
  unfold Chip.shaperTake
  split <;> rfl

omit hm in
/-- What a flow shaper makes of a good frame is what `go` makes of it, or, where it is held or lost, leaves the view. -/
theorem Chip.shaped_cases {P : Chip → Prop} (shaper : Option Nat) (q : Nat) (put : Option Nat) {go : Chip → Chip}
    (hgo : ∀ k : Chip, k.putView d = c.putView d → P (go k)) (hk : ∀ k : Chip, k.putView d = c.putView d → P k) :
    P (c.shaped m shaper q .good put go) := by
  unfold Chip.shaped
  split
  · exact hgo c rfl
  · dsimp only
    split
    · exact hgo _ (c.shaperTake_putView ..)
    · split
      · next h => exact absurd rfl h
      · split
        · next k' h =>
          refine hk _ (Eq.trans ?_ (c.holdWhole_pair_putView d h))
          exact k'.bump_putView d (page := pgTmg (portDie m.inPort)) (off := 0x1208) 0 (by decide) (by decide)
        · next h => exact hk _ ((Chip.gapMsg_putView ..).trans (c.holdWhole_pair_putView d h))

theorem Chip.dispatch_putView (q : Nat) (fwd lost : Bool) : (c.dispatch q m .good fwd lost).putView d = c.putView d := by
  obtain ⟨hd, hx, _⟩ := c.flowOf_rewritten m
  have hcells : (if fwd then (c.atDispatch m .good).1.msg.hop else (c.atDispatch m .good).1.msg).cells = [] := by
    have : (c.atDispatch m .good).1.msg.cells = [] := by simp only [Chip.atDispatch, hx, hm]
    split <;> exact this
  simp only [Chip.dispatch]
  split
  · rw [hm, Chip.dropCells_nil]
    exact c.bump_putView d _ (by decide) (by decide)
  · refine Chip.shaped_cases _ d (P := fun k => k.putView d = c.putView d) _ _ _ (fun k hk => ?_) fun k hk => ?_
    · rw [k.sendOn_putView d hcells, hk, Chip.atDispatch_putView]
    · rw [hk, Chip.atDispatch_putView]

theorem Chip.routeOn_putView (fwd : Bool) : (c.routeOn m .good fwd).putView d = c.putView d := by
  unfold Chip.routeOn
  split
  · rw [hm, Chip.dropCells_nil, Chip.routeMiss_putView]
  · simp only [hm, Chip.dropCells_nil, if_true]
    exact c.atDispatch_putView ..
  · rw [hm, Chip.dropCells_nil]
    exact c.bump_putView d _ (by decide) (by decide)
  · exact c.dispatch_putView d hm ..
  · exact c.dispatch_putView d hm ..

theorem Chip.forward_putView (fwd : Bool) : (c.forward m .good fwd).putView d = c.putView d := by
  simp only [Chip.forward]
  split
  · split
    · rfl
    · split
      · next k' h =>
        split
        · refine Eq.trans ?_ (c.holdWhole_pair_putView d h)
          exact k'.bump_putView d (page := pgRte) (off := 0x1810) 0 (by decide) (by decide)
        · exact c.holdWhole_pair_putView d h
      · next h => exact c.holdWhole_pair_putView d h
  · exact c.routeOn_putView d hm fwd

theorem Chip.multicast_putView (copies : List (Nat × List Byte)) : (c.multicast m copies).2.putView d = c.putView d := by
  unfold Chip.multicast
  split
  · rw [hm, Chip.dropCells_nil]
  · split
    · next h =>
      exact (keep_forAll (Chip.putView · d) _ _ _ fun _ k => k.deliver_putView ..).trans (c.holdWhole_pair_putView d h)
    · next h => exact c.holdWhole_pair_putView d h
end

@[simp] theorem Chip.mcCopies_putView (g l p : Nat) : (c.mcCopies g l p).2.putView d = c.putView d := by
  have hlook : (c.mcLookup g p).2.putView d = c.putView d := by
    unfold Chip.mcLookup
    split
    · exact c.routeMiss_putView d
    · dsimp only
      split
      · exact c.routeMiss_putView d
      · rfl
  exact (keep_forAll (Chip.putView · d) _ _ _ fun _ k => k.violation_putView ..).trans hlook

/-! The answer to a put -/

@[simp] theorem Chip.sendResponse_putView (p l dst tc : Nat) (body : List Byte) :
    (c.sendResponse p l dst tc body).putView d = c.putView d := by
  simp only [Chip.sendResponse]
  split
  · exact c.violation_putView ..
  · split
    · rfl
    · exact c.forward_putView d rfl false

@[simp] theorem Chip.putAnswer_putView (l src tag stage p n tc : Nat) (cpl : BitVec 128) :
    (c.putAnswer l src tag stage p n tc cpl).putView d = c.putView d := by
  unfold Chip.putAnswer
  split
  · exact c.sendResponse_putView ..
  · dsimp only
    split
    · exact c.place_putView d rfl _
    · split
      · rfl
      · exact c.holdLost_putView ..

end Sys2Proof.Machine
end

section
/-! Put counters (R147 to R151): a put opens its counter and counts its branches, completions are counted, and a counter that
closes answers the sender. -/

namespace Sys2Proof.Machine

@[simp] theorem Chip.putCtr_setPutCtr (c : Chip) (n : Nat) (x : PutCtr) : (c.setPutCtr n x).putCtr n = x := by
  simp only [Chip.putCtr, Chip.setPutCtr, Tbl.get_set_same]

/-! A counter closes (R150, R151) -/

/-- The part once counter `n` is closed and free. -/
def Chip.putFreed (c : Chip) (n : Nat) : Chip :=
  (c.setPutCtr n PutCtr.closed).releaseUnit (n / 2048) plPut (n % 2048)

/-- The completion of a counter goes to the sender of its put. -/
def Chip.replyPut (c : Chip) (x : PutCtr) (status : Nat) : Chip :=
  c.putAnswer x.livery x.srcEid x.tag x.stage x.arrPort x.inCtr x.tc
    (putBody x.tag x.srcEid x.livery x.expected x.arrived x.failed status)

section
variable {c : Chip} {n : Nat} (hb : (c.putCtr n).busy = true)
include hb

theorem Chip.putClose_busy : c.putClose n false =
    (if (c.putCtr n).status false = stPartial then (c.putFreed n).bump (pgPrt (n / 2048)) 0x1808
      else c.putFreed n).replyPut (c.putCtr n) ((c.putCtr n).status false) := by
  rw [Chip.putClose]
  exact if_pos hb

/-- Every branch has answered, and every arrival is there without a failure. -/
theorem Chip.putClose_complete (ha : (c.putCtr n).branches ≤ (c.putCtr n).answered)
    (he : (c.putCtr n).arrived = (c.putCtr n).expected) (hf : (c.putCtr n).failed = 0) :
    c.putClose n false = (c.putFreed n).replyPut (c.putCtr n) 0 := by
  have hst : (c.putCtr n).status false = stComplete := by
    rw [PutCtr.status, if_neg (by decide), if_pos ⟨ha, he, hf⟩]
  rw [Chip.putClose_busy hb, hst, if_neg (by decide)]
  rfl

theorem Chip.putClose_partial (h : ¬ ((c.putCtr n).branches ≤ (c.putCtr n).answered ∧
      (c.putCtr n).arrived = (c.putCtr n).expected ∧ (c.putCtr n).failed = 0)) :
    c.putClose n false = ((c.putFreed n).bump (pgPrt (n / 2048)) 0x1808).replyPut (c.putCtr n) 1 := by
  have hst : (c.putCtr n).status false = stPartial := by
    rw [PutCtr.status, if_neg (by decide), if_neg h]
  rw [Chip.putClose_busy hb, hst, if_pos rfl]
  rfl

/-- Closing a counter changes no other counter, and counts nothing as opened. -/
theorem Chip.putClose_putView (d : Nat) :
    (c.putClose n false).putView d = (c.setPutCtr n PutCtr.closed).putView d := by
  have hfreed : (c.putFreed n).putView d = (c.setPutCtr n PutCtr.closed).putView d := Chip.releaseUnit_put_putView ..
  rw [Chip.putClose_busy hb, Chip.replyPut, Chip.putAnswer_putView]
  split
  · exact (Chip.bump_putView _ d _ (by decide) (by decide)).trans hfreed
  · exact hfreed

/-- A put with neither branches nor a claim of a flow shaper closes its counter; any other keeps it. -/
theorem Chip.putIdle_cases (d : Nat) :
    (c.putIdle n = c ∧ (0 < (c.putCtr n).branches ∨ ∃ y ∈ c.traf.flowHeld, y.put = some n)) ∨
    (c.putIdle n).putView d = (c.setPutCtr n PutCtr.closed).putView d := by
  by_cases h : (c.putCtr n).branches = 0 ∧ (!c.traf.flowHeld.any fun x => decide (x.put = some n)) = true
  · right
    rw [Chip.putIdle, if_pos h, Chip.putClose_putView hb]
  · left
    refine ⟨if_neg h, ?_⟩
    by_cases hz : (c.putCtr n).branches = 0
    · simpa [hz] using h
    · exact .inl (by omega)
end

/-! A put opens its counter (R147) -/

/-- The counter of a put that arrives on port `p`, before its branches are known. -/
def Chip.newPut (c : Chip) (p : Nat) (f : Frame) : PutCtr :=
  { busy := true, livery := hLiv f.hdr, srcEid := hSrc f.hdr, tag := mTag (memHdrOf f.body)
    stage := mStage (memHdrOf f.body), arrPort := p, inCtr := mCtr (memHdrOf f.body), tc := hTc f.hdr, branches := 0
    answered := 0, expected := gpMembers (c.group (hGroup f.hdr)), arrived := 0, failed := 0, opened := c.time.now }

/-- The part once a put has opened counter `n`. -/
def Chip.putOpened (c : Chip) (p : Nat) (f : Frame) (n : Nat) : Chip :=
  (c.bumpPrt p 0x1800).setPutCtr n (c.newPut p f)

/-- What a put that has opened counter `n` goes through: its dispatch, its flow shaper and its copies. -/
def Chip.putGoes (c : Chip) (p : Nat) (f : Frame) (age n : Nat) : Chip :=
  let r := c.atDispatch (Msg.arrived p f.hdr f.body (c.stampOf age)) .good
  r.2.shaped r.1.msg.hop r.1.shaper p .good (some n) fun c => c.putCopies r.1.msg.hop n

/-- Counter `n` holds the put of `x`, whatever its count of branches, and port die `d` has opened `v` counters. -/
def Chip.HoldsPut (c : Chip) (d n : Nat) (x : PutCtr) (v : W32) : Prop :=
  (∃ b, c.putCtr n = { x with branches := b }) ∧ c.reg (pgPrt d) 0x1800 = v

theorem Chip.HoldsPut.congr {c k : Chip} {d n : Nat} {x : PutCtr} {v : W32} (hc : c.HoldsPut d n x v)
    (h : k.putView d = c.putView d) : k.HoldsPut d n x v := by
  obtain ⟨hx, hv⟩ := hc
  exact ⟨by rwa [Chip.putCtr_of_putView h], (Chip.reg_of_putView h).trans hv⟩

/-- The copies of a put set the count of branches alone. -/
theorem Chip.putCopies_holds {c : Chip} {d n : Nat} {x : PutCtr} {v : W32} {m : Msg} (hc : c.HoldsPut d n x v)
    (hm : m.cells = []) : (c.putCopies m n).HoldsPut d n x v := by
  simp only [Chip.putCopies]
  split
  · generalize hk : ((c.mcCopies (hGroup m.hdr) (hLiv m.hdr) m.inPort).2.multicast m _) = sent
    have hview : sent.2.putView d = c.putView d := by
      rw [← hk, Chip.multicast_putView _ d hm, Chip.mcCopies_putView]
    obtain ⟨⟨b, hb⟩, hv⟩ := hc.congr hview
    exact ⟨⟨_, (Chip.putCtr_setPutCtr ..).trans (by rw [hb])⟩, hv⟩
  · rw [hm, Chip.dropCells_nil]
    exact hc

theorem Chip.putGoes_holds {c : Chip} {d n : Nat} {x : PutCtr} {v : W32} (hc : c.HoldsPut d n x v) (p : Nat) (f : Frame)
    (age : Nat) : (c.putGoes p f age n).HoldsPut d n x v := by
  obtain ⟨_, hx, _⟩ := (Chip.flowOf_rewritten (c := c) (Msg.arrived p f.hdr f.body (c.stampOf age))).hop
  have hdisp := c.atDispatch_putView d (Msg.arrived p f.hdr f.body (c.stampOf age)) .good
  refine Chip.shaped_cases _ d _ _ _ (fun k hk => ?_) fun k hk => hc.congr (hk.trans hdisp)
  exact Chip.putCopies_holds (hc.congr (hk.trans hdisp)) (congrArg Msg.cells hx)

section
variable {c : Chip} {p age : Nat} {f : Frame} (hs : mStage (memHdrOf f.body) ≠ 0)

theorem Chip.putTake_stageless (hs : mStage (memHdrOf f.body) = 0) : c.putTake p f age .good = c.bumpLnk p 0x1100 := by
  rw [Chip.putTake, if_pos hs, if_pos rfl]

include hs

theorem Chip.putTake_noGroup (hv : gpValid (c.group (hGroup f.hdr)) = false) :
    c.putTake p f age .good = c.bump pgRte 0x1800 := by
  rw [Chip.putTake, if_neg hs, if_pos (by rw [hv]; rfl), Chip.routeMiss]

variable (hv : gpValid (c.group (hGroup f.hdr)) = true)
include hv

theorem Chip.putTake_expired (hh : hHops f.hdr = 0) : c.putTake p f age .good = c.bumpLnk p 0x1128 := by
  rw [Chip.putTake, if_neg hs, if_neg (by rw [hv]; decide), if_pos hh]

variable (hh : hHops f.hdr ≠ 0)
include hh

theorem Chip.putTake_tagBusy (hk : c.putKeyOpen (portDie p) (hLiv f.hdr) (hSrc f.hdr) (mTag (memHdrOf f.body)) = true) :
    c.putTake p f age .good = c.putRefuse p f 3 := by
  rw [Chip.putTake, if_neg hs, if_neg (by rw [hv]; decide), if_neg hh, if_neg (by decide), if_pos hk]
  rfl

variable (hk : c.putKeyOpen (portDie p) (hLiv f.hdr) (hSrc f.hdr) (mTag (memHdrOf f.body)) = false)
include hk

theorem Chip.putTake_noCounter {k : Chip} (ha : c.allocUnits (portDie p) plPut (hLiv f.hdr) 1 = (none, k)) :
    c.putTake p f age .good = k.putRefuse p f 2 := by
  rw [Chip.putTake, if_neg hs, if_neg (by rw [hv]; decide), if_neg hh, if_neg (by decide), if_neg (by rw [hk]; decide), ha]
  rfl

theorem Chip.putTake_opens {k : Chip} {i : Nat} (ha : c.allocUnits (portDie p) plPut (hLiv f.hdr) 1 = (some [i], k)) :
    c.putTake p f age .good = ((k.putOpened p f (putHandle (portDie p) i)).putGoes p f age
      (putHandle (portDie p) i)).putIdle (putHandle (portDie p) i) := by
  rw [Chip.putTake, if_neg hs, if_neg (by rw [hv]; decide), if_neg hh, if_neg (by decide), if_neg (by rw [hk]; decide), ha]
  rfl
end

/-! A completion, and the stage timeout (R150) -/

section
variable {c : Chip} {n : Nat}

/-- A counter whose stage timeout has come. -/
def Chip.putDue (c : Chip) (n : Nat) : Prop :=
  (c.putCtr n).opened + usUnits (c.putTimeout (c.putCtr n).livery) / 2 ^ ((c.putCtr n).stage - 1) ≤ c.time.now

theorem Chip.putExpire_stays (h : (c.putCtr n).busy = false ∨ ¬ c.putDue n) : c.putExpire n = c := by
  refine if_neg fun hd => ?_
  rcases h with hb | hn
  · exact absurd hd.1 (by rw [hb]; decide)
  · exact hn hd.2

theorem Chip.putExpire_closes (hb : (c.putCtr n).busy = true) (hd : c.putDue n)
    (ha : (c.putCtr n).answered < (c.putCtr n).branches) :
    c.putExpire n = ((c.putFreed n).bump (pgPrt (n / 2048)) 0x1808).replyPut (c.putCtr n) 1 := by
  rw [Chip.putExpire, if_pos ⟨hb, hd⟩, Chip.putClose_partial hb fun h => by omega]

/-- The completion that a frame carries (R152). -/
def putCplOf (f : Frame) : BitVec 128 := bvBE 128 (slice f.body 32 16)

/-- A completion that answers for the put of a counter. -/
def PutCtr.fits (x : PutCtr) (f : Frame) : Prop :=
  x.busy = true ∧ fld (putCplOf f) 112 16 = x.tag ∧ fld (putCplOf f) 94 18 = x.srcEid ∧
    fld (putCplOf f) 86 8 = x.livery ∧ hLiv f.hdr = x.livery

/-- A counter that has counted a completion. -/
def PutCtr.counted (x : PutCtr) (f : Frame) : PutCtr :=
  { x with answered := x.answered + 1, arrived := x.arrived + fld (putCplOf f) 50 18
           failed := x.failed + fld (putCplOf f) 32 18 }

variable {p : Nat} {f : Frame}

theorem Chip.putAnswered_late (h : ¬ (c.putCtr (mCtr (memHdrOf f.body))).fits f) :
    c.putAnswered p f = c.bump (pgPrt (portDie p)) 0x180C := if_neg h

variable (hn : mCtr (memHdrOf f.body) = n) (h : (c.putCtr n).fits f)
include hn h

theorem Chip.putAnswered_waits (hl : (c.putCtr n).answered + 1 < (c.putCtr n).branches) :
    c.putAnswered p f = c.setPutCtr n ((c.putCtr n).counted f) := by
  subst hn
  exact (if_pos h).trans (if_neg (not_le.2 hl))

theorem Chip.putAnswered_last (hl : (c.putCtr n).branches ≤ (c.putCtr n).answered + 1) :
    c.putAnswered p f = (c.setPutCtr n ((c.putCtr n).counted f)).putClose n false := by
  subst hn
  exact (if_pos h).trans (if_pos hl)
end

end Sys2Proof.Machine
end

section
/-! A multicast put, its completions and its timeout (O31). -/

namespace Sys2Proof.Machine

variable {c : Chip} {p : Nat} {f : Frame}

@[simp] theorem Chip.heard_puts : (c.heard p f).puts = c.puts := by
  obtain ⟨_, _, _, h⟩ := c.heard_rest p f
  rw [h]

@[simp] theorem Chip.heard_group (g : Nat) : (c.heard p f).group g = c.group g := by
  rw [Chip.group, Chip.heard_rte, Chip.group]

/-- What the part keeps of a counter that its put has opened, or that has closed at once. -/
theorem Chip.putTake_keeps {k : Chip} {i : Nat} (age : Nat) (hv : k.putView (portDie p) = c.putView (portDie p)) :
    let n := putHandle (portDie p) i
    let t := ((k.putOpened p f n).putGoes p f age n).putIdle n
    t.reg (pgPrt (portDie p)) 0x1800 = c.reg (pgPrt (portDie p)) 0x1800 + 1 ∧
      (t.putCtr n = PutCtr.closed ∨ (∃ b, t.putCtr n = { k.newPut p f with branches := b }) ∧
        (0 < (t.putCtr n).branches ∨ ∃ y ∈ t.traf.flowHeld, y.put = some n)) := by
  intro n t
  have hopened : (k.putOpened p f n).HoldsPut (portDie p) n (k.newPut p f) (c.reg (pgPrt (portDie p)) 0x1800 + 1) := by
    refine ⟨⟨0, Chip.putCtr_setPutCtr ..⟩, ?_⟩
    rw [← Chip.reg_of_putView hv]
    exact k.reg_bump ..
  obtain ⟨⟨b, hb⟩, hreg⟩ := Chip.putGoes_holds hopened p f age
  have hbusy : (((k.putOpened p f n).putGoes p f age n).putCtr n).busy = true := by rw [hb]; rfl
  obtain ⟨ht, hkeeps⟩ | ht := Chip.putIdle_cases hbusy (portDie p)
  · have ht : t = (k.putOpened p f n).putGoes p f age n := ht
    rw [ht]
    exact ⟨hreg, .inr ⟨⟨b, hb⟩, hkeeps⟩⟩
  · exact ⟨(Chip.reg_of_putView ht).trans hreg, .inl ((Chip.putCtr_of_putView ht n).trans (Chip.putCtr_setPutCtr ..))⟩

section
variable {p : LPort} {f : Frame} {age : Nat} {s : State}

/-- A good put that passes step 5 meets the put's own effect. -/
theorem exec_memoryPut (hm : isMcPut f.hdr = true) (hh : s.chip.hears p f) (hp : s.chip.passes p f) :
    exec (.memoryPut p f age) s = s.run fun _ => (s.chip.heard p f).putTake p f age .good :=
  Receives.exec_passes (kind := isMcPut) (k := fun t c => c.putTake p.val f age t) ⟨hm, fun _ => rfl⟩ hh hp

/-- A good completion that passes step 5 is dispatched and meets its counter. -/
theorem exec_putCompletion (hq : isCtrCpl f = true) (hh : s.chip.hears p f) (hp : s.chip.passes p f) :
    exec (.putCompletion p f age) s = .next (s.after (((s.chip.heard p f).atDispatch
      (Msg.arrived p f.hdr f.body (s.chip.time.now - age)) .good).2.putAnswered p f)) := by
  rw [Receives.exec_passes (kind := fun _ => isCtrCpl f) (k := fun t c => if t = .good then
    (c.atDispatch (Msg.arrived p.val f.hdr f.body (c.stampOf age)) t).2.putAnswered p.val f else c)
    ⟨hq, fun _ => rfl⟩ hh hp, State.run_eq_after, if_pos rfl, Chip.stampOf, Chip.heard_time]

/-- PUT_COUNTER_TIMEOUT while the main dies are up. -/
theorem exec_putCounterTimeout {d : PDie} {n : Fin 2048} (hup : s.chip.mainUp = true) :
    exec (.putCounterTimeout d n) s = s.run fun _ => s.chip.putExpire (putHandle d n) := by
  rw [exec, execPutCounterTimeout, State.run_eq_after, State.run_eq_after, if_pos hup]
end

/-- Settles O31: each outcome is a branch of the put's own effect, of `putAnswered` or of `putExpire`, and nothing that a
put goes through once it has opened its counter changes a counter but for its branches and its closing (`putView`). -/
theorem memoryPutsAreCountedHome : Obligations.MemoryPutsAreCountedHome := by
  unfold Obligations.MemoryPutsAreCountedHome
  refine ⟨?_, ?_, ?_⟩
  · intro s p f age hm hh hp c h mh die e
    have he := exec_memoryPut (age := age) hm hh hp
    obtain ⟨hlnk, hlnk'⟩ := pgLnk_bounds (portDie_lt p.isLt)
    have hgroup : gpValid (h.group (hGroup f.hdr)) = gpValid e := by rw [Chip.heard_group]
    have hkey : h.putKeyOpen die (hLiv f.hdr) (hSrc f.hdr) (mTag mh) =
        c.putKeyOpen die (hLiv f.hdr) (hSrc f.hdr) (mTag mh) := by
      rw [Chip.putKeyOpen, Chip.heard_puts, Chip.putKeyOpen]
    refine ⟨fun hs => ?_, fun hs hv => ?_, fun hs hv h0 => ?_, fun hs h0 => ⟨fun hv hk => ?_, fun hv hk =>
      ⟨fun k ha => ?_, fun n k ha => ?_⟩⟩⟩
    · exact exec_counts (he.trans (by rw [Chip.putTake_stageless hs]; rfl)) hlnk hlnk' (by decide)
    · exact exec_counts (he.trans (by rw [Chip.putTake_noGroup hs (hgroup.trans hv)])) (by decide) (by decide) (by decide)
    · exact exec_counts (he.trans (by rw [Chip.putTake_expired hs (hgroup.trans hv) h0]; rfl)) hlnk hlnk' (by decide)
    · rw [he, State.run_eq_after, Chip.putTake_tagBusy hs (hgroup.trans hv) h0 (hkey.trans hk)]
    · rw [he, State.run_eq_after, Chip.putTake_noCounter hs (hgroup.trans hv) h0 (hkey.trans hk) ha]
    · rw [Chip.putTake_opens hs (hgroup.trans hv) h0 (hkey.trans hk) ha, State.run_eq_after] at he
      have hview : k.putView die = h.putView die := h.allocUnits_pair_putView die ha
      have htime : k.time = c.time := (congrArg (·.1) (pair_house_allocUnits ha)).trans (Chip.heard_time ..)
      have hreg : h.reg (pgPrt die) 0x1800 = c.reg (pgPrt die) 0x1800 :=
        Chip.heard_reg_uncounted p.isLt 0 (by have := portDie_lt p.isLt; unfold pgPrt; omega) (by decide) (by decide)
      have hmembers : k.group (hGroup f.hdr) = e := by rw [Chip.group_of_putView hview, Chip.heard_group]
      obtain ⟨hcount, hkeeps⟩ := Chip.putTake_keeps (p := p) (f := f) (i := n) age hview
      generalize ((k.putOpened p f (putHandle (portDie p) n)).putGoes p f age (putHandle (portDie p) n)).putIdle
        (putHandle (portDie p) n) = t at he hcount hkeeps
      refine yields_after he ?_
      have hctr : (Chip.settleAlerts s.chip t).putCtr (die * 2048 + n) = t.putCtr (putHandle (portDie p) n) := rfl
      simp only [hctr, Chip.settleAlerts_reg, Chip.settleAlerts_traf]
      refine ⟨hcount.trans (by rw [← hreg]; rfl), ?_⟩
      obtain hx | ⟨⟨b, hx⟩, hidle⟩ := hkeeps
      · simp [hx, PutCtr.closed]
      · rw [hx] at hidle ⊢
        refine ⟨fun _ => ⟨rfl, rfl, rfl, rfl, rfl, rfl, rfl, rfl, rfl, congrArg gpMembers hmembers, ?_, hidle⟩,
          fun hbusy => ?_⟩
        · exact congrArg TimeSt.now htime
        · exact absurd hbusy.symm Bool.false_ne_true
  · intro s p f age hq hh hp c h n b x arrived failed fits x' freed
    have he := exec_putCompletion (age := age) hq hh hp
    have hx : h.putCtr n = x := by
      rw [Chip.putCtr_of_putView (Chip.atDispatch_putView _ 0 ..), Chip.putCtr, Chip.heard_puts]; rfl
    have hfits : (h.putCtr n).fits f ↔ fits := by rw [hx]; exact Iff.rfl
    have hans : ∀ k, h.putAnswered p f = k → exec (.putCompletion p f age) s = .next (s.after k) := fun k hk => hk ▸ he
    have hnew : (h.setPutCtr n x').putCtr n = x' := Chip.putCtr_setPutCtr ..
    have hlast : fits → x.branches ≤ x.answered + 1 → h.putAnswered p f = (h.setPutCtr n x').putClose n false :=
      fun hf hl => (Chip.putAnswered_last rfl (hfits.2 hf) (hx ▸ hl)).trans (by rw [hx]; rfl)
    refine ⟨fun hn => hans _ (Chip.putAnswered_late fun hf => hn (hfits.1 hf)), fun hf hl => hans _ ?_, fun hf hl =>
      ⟨fun ha h0 => hans _ ((hlast hf hl).trans ?_), fun hne => hans _ ((hlast hf hl).trans ?_)⟩⟩
    · exact (Chip.putAnswered_waits rfl (hfits.2 hf) (hx ▸ hl)).trans (by rw [hx]; rfl)
    · rw [Chip.putClose_complete (by rw [hnew]; exact hf.1) (by rw [hnew]; exact hl) (by rw [hnew]; exact ha)
        (by rw [hnew]; exact h0), hnew]
      rfl
    · rw [Chip.putClose_partial (by rw [hnew]; exact hf.1) (by
        rw [hnew]
        rintro ⟨_, ha, h0⟩
        exact hne.elim (· ha) (· h0)), hnew]
      rfl
  · intro s d n hup c k x due
    have he := exec_putCounterTimeout (d := d) (n := n) hup
    have hdie : k / 2048 = d.val := by omega
    have hunit : k % 2048 = n.val := by omega
    refine ⟨fun hs => ?_, fun hb hd ha => ?_⟩
    · rw [he]
      exact State.run_eq_self (Chip.putExpire_stays hs)
    · have hclose := Chip.putExpire_closes (c := c) (n := k) hb hd ha
      rw [Chip.putFreed, hdie, hunit] at hclose
      rw [he, State.run_eq_after]
      exact congrArg (fun k => Host.Outcome.next (s.after k)) hclose

end Sys2Proof.Machine
end

section
/-! What an update of the part leaves of its state: groups, and the registers that an event can write, by their offsets. -/

namespace Sys2Proof.Machine

section
variable {a b c : Chip}

/-- What changes no more than some groups changes no more than a longer list of them. -/
theorem Chip.only_mono {gs hs : List Grp} (hsub : gs ⊆ hs) (h : Chip.only gs a b) : Chip.only hs a b := by
  unfold Chip.only at *
  revert h
  iterate 19 refine And.imp (Or.imp_left (@hsub _)) ?_
  exact Or.imp_left (@hsub _)

theorem Chip.only_settleAlerts {gs : List Grp} (h : Chip.only gs a b) : Chip.only gs a (Chip.settleAlerts c b) :=
  Chip.only_trans h (Chip.settleAlerts_only _ _ _)
end

/-- The offsets of the registers that raising an event can write, under a rate limit too. -/
def evOffs : List Nat := [0x14, 0x24, 0x28, 0x2C, 0x1004, 0x100C, 0x1080]

section
variable (c : Chip) (e : Ev) {page off inst : Nat}

/-- A part with the same table of registers. -/
theorem Chip.reg_congr {k : Chip} (h : k.regs = c.regs) (page off inst : Nat) :
    k.reg page off inst = c.reg page off inst := by
  rw [Chip.reg, h, Chip.reg]

theorem Chip.reg_withEv (x : EvSt) : ({ c with ev := x } : Chip).reg page off inst = c.reg page off inst := rfl

theorem Chip.raise_reg_off (ho : off < 0x10000) (h : off ∉ evOffs) :
    (c.raise e).reg page off inst = c.reg page off inst := by
  refine c.raise_reg e ?_
  have hne : ∀ o ∈ evOffs, ∀ p, regKey page off inst ≠ regKey p o 0 := fun o hm p =>
    regKey_ne_of_off ho (by revert o; decide) fun he => h (he ▸ hm)
  simp only [evKeys, List.mem_cons, List.not_mem_nil, or_false, not_or]
  exact ⟨hne _ (by decide) _, hne _ (by decide) _, hne _ (by decide) _, hne _ (by decide) _, hne _ (by decide) _,
    hne _ (by decide) _⟩

/-- A rate limit lets an event through, or counts it as suppressed (R424). -/
theorem Chip.raiseLim_cases (scope gap : Nat) : (∃ x, c.raiseLim e scope gap = { c.raise e with ev := x }) ∨
    c.raiseLim e scope gap = (c.setFlag e.page 0x14 3 true).bump e.page 0x2C :=
  (ite_eq_or_eq _ _ _).imp (fun h => ⟨_, h⟩) id

theorem Chip.raiseLim_reg_off (scope gap : Nat) (ho : off < 0x10000) (h : off ∉ evOffs) :
    (c.raiseLim e scope gap).reg page off inst = c.reg page off inst := by
  have hstat : off ≠ 0x14 := fun he => h (he ▸ by decide)
  have hsupp : off ≠ 0x2C := fun he => h (he ▸ by decide)
  obtain ⟨x, hk⟩ | hk := c.raiseLim_cases e scope gap <;> rw [hk]
  · rw [Chip.reg_withEv (c.raise e), c.raise_reg_off e ho h]
  · rw [Chip.reg_bump_other _ (regKey_ne_of_off ho (by decide) hsupp),
      Chip.reg_setFlag_other _ _ _ (regKey_ne_of_off ho (by decide) hstat)]

/-- Raising an event under a rate limit changes registers, the queue and the snapshot trigger alone. -/
theorem Chip.raiseLim_rest (scope gap : Nat) :
    ∃ r x y, c.raiseLim e scope gap = { c with regs := r, ev := x, snap := y } := by
  obtain ⟨x, hk⟩ | hk := c.raiseLim_cases e scope gap <;> rw [hk]
  · obtain ⟨r, _, y, h⟩ := c.raise_rest e
    exact ⟨r, x, y, by rw [h]⟩
  · exact ⟨_, c.ev, c.snap, rfl⟩
end

end Sys2Proof.Machine
end

section
/-! Fold ledger batches (R188): a batch that is due leaves as one Control frame to its collector, or is counted lost. -/

namespace Sys2Proof.Machine

theorem bytesLE_length (k v : Nat) : (bytesLE k v).length = k := by
  induction k generalizing v with
  | zero => rfl
  | succ k ih => rw [bytesLE, List.length_cons, ih]

/-- A record takes 32 bytes of a frame. -/
theorem recordBytes_length (rs : List (BitVec 256)) : (recordBytes rs).length = 32 * rs.length := by
  induction rs with
  | nil => rfl
  | cons r rs ih =>
    rw [recordBytes, List.flatMap_cons, List.length_append, bytesBE, List.length_reverse, bytesLE_length, List.length_cons,
      ← recordBytes, ih]
    omega

theorem batchDue_iff {now : Nat} {b : List BatchRec} : batchDue now b = true ↔
    ∃ r rs, b = r :: rs ∧ (32 ≤ b.length ∨ r.written + 256000 ≤ now) := by
  cases b with
  | nil => simp [batchDue]
  | cons r rs =>
    simp only [batchDue, usUnits, Bool.or_eq_true, decide_eq_true_eq, one_mul]
    refine ⟨fun h => ⟨r, rs, rfl, h⟩, fun ⟨_, _, hb, h⟩ => ?_⟩
    cases hb
    exact h

section
variable {c : Chip} {d l : Nat}

/-- The first records of a batch, as many as a frame holds. -/
def Chip.ledgerFront (c : Chip) (d l : Nat) : List (BitVec 256) := ((c.ledgerBatch d l).take 32).map (·.word)

/-- The part without those records. -/
def Chip.ledgerTaken (c : Chip) (d l : Nat) : Chip := c.setLedgerBatch d l ((c.ledgerBatch d l).drop 32)

theorem Chip.ledgerFront_length : (c.ledgerFront d l).length = min 32 (c.ledgerBatch d l).length := by
  rw [Chip.ledgerFront, List.length_map, List.length_take]

theorem Chip.ledgerSend_waits (h : ¬ batchDue c.time.now (c.ledgerBatch d l) = true) : c.ledgerSend d l = c := by
  rw [Chip.ledgerSend, if_pos (by simpa using h)]

theorem Chip.ledgerSend_sends {k : Chip} (h : batchDue c.time.now (c.ledgerBatch d l) = true)
    (hk : (c.ledgerTaken d l).sendRecord d l 0 3 (recordBytes (c.ledgerFront d l)) = (true, k)) :
    c.ledgerSend d l = k.bumpN pgTtb 0x1414 (c.ledgerFront d l).length := by
  rw [Chip.ledgerTaken, Chip.ledgerFront] at hk
  rw [Chip.ledgerSend, if_neg (by simp [h])]
  simp only [hk]
  rfl

theorem Chip.ledgerSend_loses {k : Chip} (h : batchDue c.time.now (c.ledgerBatch d l) = true)
    (hk : (c.ledgerTaken d l).sendRecord d l 0 3 (recordBytes (c.ledgerFront d l)) = (false, k)) :
    c.ledgerSend d l = k.ledgerLost d l (c.ledgerFront d l).length := by
  rw [Chip.ledgerTaken, Chip.ledgerFront] at hk
  rw [Chip.ledgerSend, if_neg (by simp [h])]
  simp only [hk]
  rfl

/-- Records for a collector that the livery's group, the routes and the egress port let through leave as a Control frame. -/
theorem Chip.sendRecord_leaves {n sub eid q : Nat} {body : List Byte} (hc : c.collector l n = some eid)
    (hg : c.livGroup l (dgOf eid) = true) (hr : c.lookup eid clsControl = .port q) (hp : c.livPort l q = true) :
    c.sendRecord d l n sub body = (true, c.deliver q (Msg.made
      (mkHdr clsControl sub l false eid c.selfEid (body.length + 36) 0 7) body c.time.now (some (coachPos d 0)))) := by
  simp [Chip.sendRecord, hc, hg, hr, hp]

theorem Chip.sendRecord_uncollected {n sub : Nat} {body : List Byte} (hc : c.collector l n = none) :
    c.sendRecord d l n sub body = (false, c) := by
  simp only [Chip.sendRecord, hc]

theorem Chip.collector_valid {n : Nat} (h : c.flag pgTtb (0x1230 + 4 * n) 31 l = true) :
    c.collector l n = some (c.field pgTtb (0x1230 + 4 * n) 0 18 l) := if_pos h

theorem Chip.collector_invalid {n : Nat} (h : c.flag pgTtb (0x1230 + 4 * n) 31 l = false) : c.collector l n = none :=
  if_neg (by rw [h]; exact Bool.false_ne_true)

/-- Lost records are counted, and change nothing but registers, the event queue and the snapshot trigger. -/
theorem Chip.ledgerLost_counts {n : Nat} (hn : n ≠ 0) :
    (c.ledgerLost d l n).coach = c.coach ∧
      (c.ledgerLost d l n).reg pgTtb 0x1418 = c.reg pgTtb 0x1418 + BitVec.ofNat 32 n ∧
      (c.ledgerLost d l n).reg pgTtb 0x1414 = c.reg pgTtb 0x1414 ∧
      Chip.only [.regs, .ev, .snap] c (c.ledgerLost d l n) := by
  rw [Chip.ledgerLost, if_neg hn]
  refine ⟨?_, ?_, ?_, ?_⟩
  · obtain ⟨_, _, _, h⟩ := (c.bumpN pgTtb 0x1418 n).raiseLim_rest (evV pgTtb 0x0303 (dieC d) l) d (nsUnits 256)
    rw [h]
    rfl
  · rw [Chip.raiseLim_reg_off _ _ _ _ (by decide) (by decide), Chip.bumpN, Chip.reg_setReg, BitVec.ofNat_add,
      BitVec.ofNat_toNat, BitVec.setWidth_eq]
  · rw [Chip.raiseLim_reg_off _ _ _ _ (by decide) (by decide), Chip.bumpN,
      Chip.reg_setReg_off _ (by decide) (by decide) (by decide)]
  · obtain ⟨_, _, _, h⟩ := (c.bumpN pgTtb 0x1418 n).raiseLim_rest (evV pgTtb 0x0303 (dieC d) l) d (nsUnits 256)
    rw [h]
    simp [Chip.only, Chip.bumpN]
end

theorem exec_ledgerBatchSend {s : State} {d : CDie} {l : Liv} (hup : s.chip.mainUp = true)
    (hd : s.chip.dieFailed (8 + d.val) = false) :
    exec (.ledgerBatchSend d l) s = s.run fun _ => s.chip.ledgerSend d.val l.toNat := by
  rw [exec, execLedgerBatchSend, State.run_eq_after, State.run_eq_after, if_pos]
  rw [hup, dieC, hd]
  rfl

/-- Settles O27, by what sending the records of the batch answers once they have left it. -/
theorem ledgerBatchesLeaveOrAreLost : Obligations.LedgerBatchesLeaveOrAreLost := by
  unfold Obligations.LedgerBatchesLeaveOrAreLost
  intro s d l hup hd c b n taken eid due
  have he := exec_ledgerBatchSend (l := l) hup hd
  have hdue : due ↔ batchDue c.time.now b = true := batchDue_iff.symm
  have hn : (c.ledgerFront d.val l.toNat).length = n := Chip.ledgerFront_length
  refine ⟨fun h => he.trans (State.run_eq_self (Chip.ledgerSend_waits (mt hdue.2 h))), fun q h hv hg hr hp => ?_,
    fun h hv => ?_⟩
  · have hsent := Chip.sendRecord_leaves (c := taken) (d := d.val) (sub := 3)
      (body := recordBytes (c.ledgerFront d.val l.toNat)) (Chip.collector_valid (n := 0) hv) hg hr hp
    rw [he, State.run_eq_after, Chip.ledgerSend_sends (hdue.1 h) hsent, recordBytes_length, hn, Nat.add_comm (32 * n)]
    rfl
  · have hlost := Chip.sendRecord_uncollected (c := taken) (d := d.val) (sub := 3)
      (body := recordBytes (c.ledgerFront d.val l.toNat)) (Chip.collector_invalid (n := 0) hv)
    rw [State.run_eq_after, Chip.ledgerSend_loses (hdue.1 h) hlost, hn] at he
    obtain ⟨r, rs, hb, -⟩ := h
    have hpos : n ≠ 0 := by simp [n, hb]
    obtain ⟨hcoach, hcount, hkeeps, honly⟩ := Chip.ledgerLost_counts (c := taken) (d := d.val) (l := l.toNat) hpos
    have htaken : Chip.only [.regs, .ev, .snap, .coach] c taken := by simp [Chip.only, taken, Chip.setLedgerBatch]
    refine yields_after he ?_
    rw [Chip.settleAlerts_coach, Chip.settleAlerts_reg, Chip.settleAlerts_reg]
    refine ⟨hcoach, hcount, hkeeps, ?_⟩
    refine Chip.only_settleAlerts (Chip.only_trans htaken (Chip.only_mono ?_ honly))
    decide

end Sys2Proof.Machine
end

section
/-! What a command answers that works under a condition on the part; the registers and the staging areas of the TTB page. -/

namespace Sys2Proof.Machine

section
variable {i : Instr} {s : State} (g : Chip → Bool) (f : Chip → Chip) {k : Chip}

/-- A command of a block that works. -/
theorem exec_gated (he : exec i s = s.run fun c => if g c then f c else c) (h : g s.chip = true) (hf : f s.chip = k) :
    exec i s = .next (s.after k) := by
  rw [he, State.run_eq_after, if_pos h, hf]

/-- It leaves the part alone. -/
theorem exec_gated_self (he : exec i s = s.run fun c => if g c then f c else c) (h : g s.chip = true)
    (hf : f s.chip = s.chip) : exec i s = .next s := by
  rw [he]
  exact State.run_eq_self ((if_pos h).trans hf)

/-- It leaves the status flags alone. -/
theorem exec_gated_put (he : exec i s = s.run fun c => if g c then f c else c) (h : g s.chip = true)
    (hf : f s.chip = k) (hk : k.smbStatusWord = s.chip.smbStatusWord) : exec i s = .next (s.put k) := by
  rw [exec_gated g f he h hf, State.after, Chip.settleAlerts_of_status hk, State.put]
end

section
variable (c : Chip) {off : Nat} (inst : Nat)

theorem Chip.smbStatusWord_setTtb (v : W32) (ho : off < 0x10000) :
    (c.setReg pgTtb off v inst).smbStatusWord = c.smbStatusWord :=
  c.smbStatusWord_setReg v inst (by decide) (by decide) ho

/-- A register of the TTB page and a counter of it. -/
theorem Chip.smbStatusWord_setTtb_bump (v : W32) {ctr : Nat} (ho : off < 0x10000) (hc : ctr < 0x10000) :
    ((c.setReg pgTtb off v inst).bump pgTtb ctr).smbStatusWord = c.smbStatusWord :=
  (Chip.smbStatusWord_setTtb _ 0 _ hc).trans (c.smbStatusWord_setTtb inst v ho)

variable {page page' off' inst' : Nat} (ho : off < 0x10000) (ho' : off' < 0x10000) (h : off' ≠ off)
include ho ho' h

theorem Chip.flag_setReg_off (v : W32) (i : Nat) :
    (c.setReg page off v inst).flag page' off' i inst' = c.flag page' off' i inst' := by
  rw [Chip.flag, Chip.reg_setReg_off v ho ho' h, Chip.flag]

theorem Chip.flag_setFlag_off (i j : Nat) (b : Bool) :
    (c.setFlag page off j b inst).flag page' off' i inst' = c.flag page' off' i inst' :=
  c.flag_setReg_off inst ho ho' h _ i
end

/-! Settling the alert causes leaves the timetable as it is -/

section
variable (b c : Chip) (l : Nat)

@[simp] theorem Chip.settleAlerts_ttEnabled : (Chip.settleAlerts b c).ttEnabled l = c.ttEnabled l := (rfl)
@[simp] theorem Chip.settleAlerts_ttBank : (Chip.settleAlerts b c).ttBank l = c.ttBank l := (rfl)
@[simp] theorem Chip.settleAlerts_swapPending : (Chip.settleAlerts b c).swapPending l = c.swapPending l := (rfl)
@[simp] theorem Chip.settleAlerts_oldBusy : (Chip.settleAlerts b c).oldBusy l = c.oldBusy l := (rfl)
@[simp] theorem Chip.settleAlerts_swapOf : (Chip.settleAlerts b c).swapOf l = c.swapOf l := (rfl)
@[simp] theorem Chip.settleAlerts_anchorTime : (Chip.settleAlerts b c).anchorTime l = c.anchorTime l := (rfl)
@[simp] theorem Chip.settleAlerts_anchorStep : (Chip.settleAlerts b c).anchorStep l = c.anchorStep l := (rfl)
@[simp] theorem Chip.settleAlerts_ttEntry (bank : Bool) (j : Nat) :
    (Chip.settleAlerts b c).ttEntry bank j = c.ttEntry bank j := (rfl)
@[simp] theorem Chip.settleAlerts_ttCset (bank : Bool) (j : Nat) :
    (Chip.settleAlerts b c).ttCset bank j = c.ttCset bank j := (rfl)
@[simp] theorem Chip.settleAlerts_staged (page off words : Nat) :
    (Chip.settleAlerts b c).staged page off words = c.staged page off words := (rfl)
end

/-! Staging areas (R193) -/

section
variable (c : Chip) (page off words v : Nat)

theorem Chip.stage_succ : c.stage page off (words + 1) v =
    (c.stage page off words v).setReg page (off + 4 * words) (BitVec.ofNat 32 (v / 2 ^ (32 * words))) := by
  simp [Chip.stage, forAll, List.range_succ]

theorem Chip.staged_succ : c.staged page off (words + 1) =
    c.staged page off words + (c.reg page (off + 4 * words)).toNat * 2 ^ (32 * words) := by
  simp [Chip.staged, List.range_succ]

/-- Staging writes registers alone. -/
theorem Chip.stage_only : Chip.only [.regs] c (c.stage page off words v) :=
  c.only_forAll _ _ fun _ _ => Chip.setReg_only ..

theorem Chip.stage_reg {w : Nat} (hw : w < words) (ho : off + 4 * words ≤ 0x10000) :
    (c.stage page off words v).reg page (off + 4 * w) = BitVec.ofNat 32 (v / 2 ^ (32 * w)) := by
  induction words with
  | zero => omega
  | succ n ih =>
    rw [Chip.stage_succ]
    by_cases hn : w = n
    · rw [hn, Chip.reg_setReg]
    · rw [Chip.reg_setReg_off _ (by omega) (by omega) (by omega), ih (by omega) (by omega)]

/-- Words that stand in their places read as the number. -/
theorem Chip.staged_eq (h : ∀ w < words, c.reg page (off + 4 * w) = BitVec.ofNat 32 (v / 2 ^ (32 * w))) :
    c.staged page off words = v % 2 ^ (32 * words) := by
  induction words with
  | zero => simp [Chip.staged, Nat.mod_one]
  | succ n ih =>
    rw [Chip.staged_succ, ih fun w hw => h w (by omega), h n (by omega), BitVec.toNat_ofNat, Nat.mul_succ, Nat.pow_add,
      Nat.mod_mul, Nat.mul_comm (2 ^ (32 * n))]

/-- A number that was staged reads back, whatever a register below the area was given. -/
theorem Chip.staged_stage {off' : Nat} (x : W32) (inst : Nat) (ho : off + 4 * words ≤ 0x10000) (h : off' < off)
    (hv : v < 2 ^ (32 * words)) : ((c.stage page off words v).setReg page off' x inst).staged page off words = v := by
  rw [Chip.staged_eq _ page off words v fun w hw => ?_, Nat.mod_eq_of_lt hv]
  rw [Chip.reg_setReg_off _ (by omega) (by omega) (by omega), Chip.stage_reg _ _ _ _ _ hw ho]
end

end Sys2Proof.Machine
end

section
/-! Timetable entries and contributor sets (R168, R170, R176, R193): the first check that a staged entry fails, and what a
write or an invalidation stores. -/

namespace Sys2Proof.Machine

/-! The first check that fails -/

/-- `r` is the least number from `n` on at which `F` holds, or 0 where it holds at none. -/
def FirstFrom (F : Nat → Prop) (n r : Nat) : Prop :=
  (r = 0 ∧ ∀ k, n ≤ k → ¬ F k) ∨ (n ≤ r ∧ F r ∧ ∀ k, n ≤ k → k < r → ¬ F k)

section
variable {F : Nat → Prop} {n r : Nat}

theorem FirstFrom.ite {p : Prop} [Decidable p] (hp : F n ↔ p) (h : FirstFrom F (n + 1) r) :
    FirstFrom F n (if p then n else r) := by
  by_cases hF : p
  · rw [if_pos hF]
    exact .inr ⟨le_rfl, hp.2 hF, fun k h1 h2 => by omega⟩
  · have hstep : ∀ k, n ≤ k → (n + 1 ≤ k → ¬ F k) → ¬ F k := fun k hk hn => by
      obtain rfl | hlt := hk.eq_or_lt
      · exact mt hp.1 hF
      · exact hn hlt
    rw [if_neg hF]
    exact h.imp (And.imp_right fun h k hk => hstep k hk (h k)) fun ⟨hle, hr, h⟩ =>
      ⟨by omega, hr, fun k hk hlt => hstep k hk fun hk => h k hk hlt⟩

/-- The least number is the one that is found. -/
theorem FirstFrom.eq {k : Nat} (h : FirstFrom F n r) (hn : n ≤ k) (hk : F k) (hlt : ∀ j < k, ¬ F j) : r = k := by
  obtain ⟨-, hno⟩ | ⟨hle, hr, hno⟩ := h
  · exact absurd hk (hno k hn)
  · obtain h | h | h := lt_trichotomy r k
    · exact absurd hr (hlt r h)
    · exact h
    · exact absurd hk (hno k hn h)

theorem FirstFrom.eq_zero (h : FirstFrom F n r) (hno : ∀ k, ¬ F k) : r = 0 :=
  h.elim And.left fun h => absurd h.2.1 (hno r)
end

section
variable {c : Chip} {e : Entry} {bank : Bool} {idx : Nat}

/-- What check `k` of R176 finds at an entry with VALID set. -/
def Chip.EntryFault (c : Chip) (e : Entry) (bank : Bool) (idx k : Nat) : Prop :=
  (k = 1 ∧ (6 ≤ eOp e ∨ eRmode e = 3 ∨ ePolicy e = 3)) ∨ (k = 2 ∧ (eCdStripe e = 0 ∨ 16 < eCdStripe e)) ∨
  (k = 3 ∧ ¬ (eOpenSlot e ≤ eCutoff e ∧ eCutoff e ≤ eDeadline e ∧ eDeadline e < 2 * c.cycle (eLiv e) bank)) ∨
  (k = 4 ∧ eOp e = 1 ∧ eShardChunks e = 0) ∨ (k = 5 ∧ eGrid e = true ∧ (eRowMask e = 0 ∨ eColMask e = 0)) ∨
  (k = 6 ∧ c.ownsEntry (eLiv e) idx bank = false) ∨
  (k = 7 ∧ eOrdered e = true ∧ (eFanin e = 0 ∨ 1024 < eFanin e)) ∨ (k = 8 ∧ entryReserved e = true)

theorem Chip.entryErr_first (hv : eValid e = true) : FirstFrom (c.EntryFault e bank idx) 1 (c.entryErr e bank idx) := by
  have hnone : FirstFrom (c.EntryFault e bank idx) 9 0 := .inl ⟨rfl, fun k hk h => by
    unfold Chip.EntryFault at h
    omega⟩
  rw [Chip.entryErr, if_neg (by simp [hv])]
  refine .ite ?_ (.ite ?_ (.ite ?_ (.ite ?_ (.ite ?_ (.ite ?_ (.ite ?_ (.ite ?_ hnone)))))))
  all_goals simp [Chip.EntryFault]

theorem Chip.entryErr_eq {k : Nat} (hv : eValid e = true) (hk : c.EntryFault e bank idx k)
    (hlt : ∀ j < k, ¬ c.EntryFault e bank idx j) : c.entryErr e bank idx = k ∧ k ≠ 0 := by
  have hpos : 1 ≤ k := by
    unfold Chip.EntryFault at hk
    omega
  exact ⟨(Chip.entryErr_first hv).eq hpos hk hlt, by omega⟩

/-- An entry with VALID clear meets no check. -/
theorem Chip.entryErr_zero (h : eValid e = false ∨ ∀ k, ¬ c.EntryFault e bank idx k) : c.entryErr e bank idx = 0 := by
  by_cases hv : eValid e = true
  · exact (Chip.entryErr_first hv).eq_zero (h.resolve_left (by simp [hv]))
  · rw [Chip.entryErr, if_pos (by simpa using hv)]

theorem Chip.entryLive_iff : c.entryLive bank idx = true ↔
    ∃ l < 256, c.ownsEntry l idx bank = true ∧ c.bankLive l bank = true := by
  simp [Chip.entryLive]
end

/-! What the commands store -/

section
variable {c : Chip}

/-- The entry that is staged. -/
def Chip.stagedEntry (c : Chip) : Entry := BitVec.ofNat 512 (c.staged pgTtb 0x1040 16)

/-- An entry is stored at the place that is selected, and ERR reads 0. -/
def Chip.storeEntry (c : Chip) (e : Entry) : Chip :=
  (c.putEntry (c.selBank 0x1000) c.selEntry e).setField pgTtb 0x1008 4 4 0

theorem Chip.entWrite_live (h : c.entryLive (c.selBank 0x1000) c.selEntry = true) : c.entWrite = c.entRefuse 9 :=
  if_pos h

theorem Chip.entWrite_faulty {k : Nat} (h : ¬ c.entryLive (c.selBank 0x1000) c.selEntry = true)
    (hk : c.entryErr c.stagedEntry (c.selBank 0x1000) c.selEntry = k ∧ k ≠ 0) : c.entWrite = c.entRefuse k := by
  obtain ⟨rfl, hne⟩ := hk
  exact (if_neg h).trans (if_pos hne)

theorem Chip.entWrite_stores (h : ¬ c.entryLive (c.selBank 0x1000) c.selEntry = true)
    (hk : c.entryErr c.stagedEntry (c.selBank 0x1000) c.selEntry = 0) : c.entWrite = c.storeEntry c.stagedEntry :=
  (if_neg h).trans (if_neg (not_not.2 hk))

theorem Chip.entInvalidate_live (h : c.entryLive (c.selBank 0x1000) c.selEntry = true) :
    c.entInvalidate = c.entRefuse 9 := if_pos h

theorem Chip.entInvalidate_stores (h : ¬ c.entryLive (c.selBank 0x1000) c.selEntry = true) :
    c.entInvalidate = c.storeEntry (putBit (c.ttEntry (c.selBank 0x1000) c.selEntry) 0 false) := if_neg h

theorem Chip.ttEntry_putEntry (b : Bool) (j : Nat) (e : Entry) : (c.putEntry b j e).ttEntry b j = e :=
  Tbl.get_set_same ..

theorem bankBase_inj {b b' : Bool} {n j j' : Nat} (hj : j < n) (hj' : j' < n)
    (h : bankBase b' n + j' = bankBase b n + j) : b' = b ∧ j' = j := by
  cases b <;> cases b' <;> simp [bankBase] at h ⊢ <;> omega

/-- Every other entry of either bank stays. -/
theorem Chip.ttEntry_putEntry_other {b b' : Bool} {j j' : Nat} (e : Entry) (hj : j < 65536) (hj' : j' < 65536)
    (h : ¬ (b' = b ∧ j' = j)) : (c.putEntry b j e).ttEntry b' j' = c.ttEntry b' j' :=
  Tbl.get_set_other _ _ _ _ fun hkey => h (bankBase_inj hj hj' hkey)

theorem Chip.ttEntry_storeEntry (e : Entry) (b : Bool) (j : Nat) :
    (c.storeEntry e).ttEntry b j = (c.putEntry (c.selBank 0x1000) c.selEntry e).ttEntry b j := by
  rw [Chip.ttEntry, Chip.storeEntry, Chip.setField_tt, Chip.ttEntry]

/-- Storing an entry changes that entry and the register that shows ERR. -/
theorem yields_storeEntry {i : Instr} {s : State} {e : Entry}
    (he : exec i s = .next (s.after (s.chip.storeEntry e))) :
    Yields i s fun t => t.ttEntry (s.chip.selBank 0x1000) s.chip.selEntry = e ∧ t.field pgTtb 0x1008 4 4 = 0 ∧
      (∀ b j, j < 65536 → ¬ (b = s.chip.selBank 0x1000 ∧ j = s.chip.selEntry) →
        t.ttEntry b j = s.chip.ttEntry b j) ∧
      t.tt.csets = s.chip.tt.csets ∧ t.tt.swaps = s.chip.tt.swaps ∧ Chip.only [.regs, .tt] s.chip t ∧
      s.chip.regsBut t [regKey pgTtb 0x1008 0] := by
  refine yields_after he ?_
  simp only [Chip.settleAlerts_ttEntry, Chip.settleAlerts_field, Chip.settleAlerts_tt, Chip.ttEntry_storeEntry]
  refine ⟨Chip.ttEntry_putEntry .., Chip.field_setField _ _ _ _ _ _ _ (by decide), fun b j hj h => ?_, rfl, rfl,
    Chip.only_settleAlerts (by simp [Chip.only, Chip.storeEntry, Chip.putEntry]), fun page off inst hk => ?_⟩
  · exact Chip.ttEntry_putEntry_other e (fld_lt ..) hj h
  · rw [Chip.settleAlerts_reg, Chip.storeEntry, Chip.reg_setField_other _ _ _ _ (by simpa using hk)]
    exact Chip.reg_congr _ rfl _ _ _

/-- The staged contributor set is stored at the place that is selected, and ERR reads 0. -/
def Chip.storeCset (c : Chip) : Chip :=
  let k := bankBase (c.selBank 0x1080) 4096 + c.selCset
  { c.setField pgTtb 0x1088 4 4 0 with
    tt := { c.tt with csets := Tbl.set 0 c.tt.csets k (BitVec.ofNat 1024 (c.staged pgTtb 0x1100 32)) } }

theorem Chip.csetWrite_stores (h : c.csetLive (c.selBank 0x1080) c.selCset = false) : c.csetWrite = c.storeCset :=
  if_neg (by rw [h]; exact Bool.false_ne_true)

theorem Chip.ttCset_storeCset :
    c.storeCset.ttCset (c.selBank 0x1080) c.selCset = BitVec.ofNat 1024 (c.staged pgTtb 0x1100 32) := Tbl.get_set_same ..

theorem Chip.csetWrite_live (h : c.csetLive (c.selBank 0x1080) c.selCset = true) :
    c.csetWrite = (c.setField pgTtb 0x1088 4 4 9).bump pgTtb 0x1400 := if_pos h
end

/-! The commands, on a page that serves -/

section
variable {s : State} (h : s.chip.serves pgTtb = true)
include h

/-- What both commands refuse for a live bank, and WRITE for a check, is counted and changes no entry. -/
theorem exec_entRefuse {i : Instr} {f : Chip → Chip} {k : Nat}
    (he : exec i s = s.run fun c => if c.serves pgTtb then f c else c) (hf : f s.chip = s.chip.entRefuse k) :
    exec i s = .next (s.put ((s.chip.setField pgTtb 0x1008 4 4 k).bump pgTtb 0x1400)) :=
  exec_gated_put _ _ he h hf (Chip.smbStatusWord_setTtb_bump _ _ _ (by decide) (by decide))

/-- READ of a table: the word is staged and ERR reads 0. -/
theorem yields_read {i : Instr} {off errOff words n : Nat} {x : BitVec n} {f : Chip → Chip}
    (he : exec i s = s.run fun c => if c.serves pgTtb then f c else c)
    (hf : f s.chip = (s.chip.stage pgTtb off words x.toNat).setField pgTtb errOff 4 4 0)
    (hn : n = 32 * words) (ho : off + 4 * words ≤ 0x10000) (hoff : errOff < off) :
    Yields i s fun t => t.staged pgTtb off words = x.toNat ∧ t.field pgTtb errOff 4 4 = 0 ∧
      Chip.only [.regs] s.chip t := by
  refine yields_after (exec_gated _ _ he h hf) ?_
  rw [Chip.settleAlerts_staged, Chip.settleAlerts_field]
  refine ⟨?_, ?_, Chip.only_settleAlerts ?_⟩
  · exact Chip.staged_stage _ _ _ _ _ _ _ ho hoff (hn ▸ x.isLt)
  · exact Chip.field_setField _ _ _ _ _ _ _ (by decide)
  · exact Chip.only_trans (Chip.stage_only ..) (Chip.setReg_only ..)

theorem yields_csetWrite (hl : s.chip.csetLive (s.chip.selBank 0x1080) s.chip.selCset = false) :
    Yields .ttbCsetWrite s fun t =>
      (t.ttCset (s.chip.selBank 0x1080) s.chip.selCset).toNat = s.chip.staged pgTtb 0x1100 32 % 2 ^ 1024 ∧
      t.field pgTtb 0x1088 4 4 = 0 ∧ t.tt.entries = s.chip.tt.entries ∧ t.tt.swaps = s.chip.tt.swaps ∧
      Chip.only [.regs, .tt] s.chip t := by
  refine yields_after (exec_gated (·.serves pgTtb) Chip.csetWrite rfl h (Chip.csetWrite_stores hl)) ?_
  rw [Chip.settleAlerts_ttCset, Chip.ttCset_storeCset, BitVec.toNat_ofNat, Chip.settleAlerts_field, Chip.settleAlerts_tt]
  refine ⟨rfl, ?_, rfl, rfl, Chip.only_settleAlerts ?_⟩
  · exact Chip.field_setField _ _ _ _ _ _ _ (by decide)
  · simp [Chip.only, Chip.storeCset]
end

end Sys2Proof.Machine
end

section
/-! Livery records, enabling and disabling (R168, R170, R172, R173), and bank swaps (R171). -/

namespace Sys2Proof.Machine

section
variable {c : Chip} {v : W32}

/-! Livery records -/

theorem Chip.rangeOverlaps_iff {l first last : Nat} {bank : Bool} : c.rangeOverlaps l bank first last = true ↔
    first ≤ last ∧ ∃ k < 256, k ≠ l ∧ c.entFirst k bank ≤ c.entLast k bank ∧ first ≤ c.entLast k bank ∧
      c.entFirst k bank ≤ last := by
  simp [Chip.rangeOverlaps, and_assoc]

/-- What a refused write of a livery record leaves. -/
def Chip.recRefused (c : Chip) : Chip := (c.setFlag pgTtb 0x1208 5 true c.selLiv).bump pgTtb 0x1400

theorem Chip.recRefused_status : c.recRefused.smbStatusWord = c.smbStatusWord :=
  c.smbStatusWord_setTtb_bump _ _ (by decide) (by decide)

section
variable {bank : Bool}

theorem Chip.recWrite_cycle_refused (h : c.bankLive c.selLiv bank = true ∨ (1 ≤ fld v 0 24 ∧ fld v 0 24 ≤ 63)) :
    c.recWrite (.cycle bank) v = c.recRefused := if_pos h

theorem Chip.recWrite_cycle (hl : c.bankLive c.selLiv bank = false) (h : fld v 0 24 = 0 ∨ 63 < fld v 0 24) :
    c.recWrite (.cycle bank) v =
      c.setReg pgTtb (if bank then 0x1224 else 0x1220) (BitVec.ofNat 32 (fld v 0 24)) c.selLiv :=
  if_neg fun hr => hr.elim (by simp [hl]) fun ⟨h1, h63⟩ => by omega

theorem Chip.recWrite_range_refused
    (h : c.bankLive c.selLiv bank = true ∨ c.rangeOverlaps c.selLiv bank (fld v 0 16) (fld v 16 16) = true) :
    c.recWrite (.range bank) v = c.recRefused := if_pos h

theorem Chip.recWrite_range (hl : c.bankLive c.selLiv bank = false)
    (h : ¬ c.rangeOverlaps c.selLiv bank (fld v 0 16) (fld v 16 16) = true) :
    c.recWrite (.range bank) v = c.setReg pgTtb (if bank then 0x122C else 0x1228) v c.selLiv :=
  if_neg (by rw [hl]; simpa using h)
end

/-! Enabling and disabling -/

theorem Chip.ttCtrlWrite_stays (he : c.ttEnabled c.selLiv = true) (hv : v.getLsbD 0 = true) : c.ttCtrlWrite v = c :=
  (if_pos he).trans (if_pos hv)

theorem Chip.ttCtrlWrite_disables (he : c.ttEnabled c.selLiv = true) (hv : v.getLsbD 0 = false) :
    c.ttCtrlWrite v = c.ttDisable c.selLiv := (if_pos he).trans (if_neg (Bool.eq_false_iff.1 hv))

theorem Chip.ttCtrlWrite_keepsOff (he : c.ttEnabled c.selLiv = false) (hv : v.getLsbD 0 = false) :
    c.ttCtrlWrite v = c.setReg pgTtb 0x1204 (v &&& 6) c.selLiv :=
  (if_neg (by simp [he])).trans (if_neg (Bool.eq_false_iff.1 hv))

theorem Chip.ttCtrlWrite_noCycle (he : c.ttEnabled c.selLiv = false) (hv : v.getLsbD 0 = true)
    (h0 : c.cycle c.selLiv (v.getLsbD 1) = 0) :
    c.ttCtrlWrite v = (c.setFlag pgTtb 0x1208 6 true c.selLiv).bump pgTtb 0x1400 :=
  ((if_neg (by simp [he])).trans (if_pos hv)).trans (if_pos h0)

/-- The bank of a livery, with no swap pending, and whether its old bank is busy. -/
def Chip.turnedTo (c : Chip) (l : Nat) (bank busy : Bool) : Chip :=
  ((c.setFlag pgTtb 0x1208 0 bank l).setFlag pgTtb 0x1208 1 false l).setFlag pgTtb 0x1208 2 busy l

/-- The ledger numbers of a livery start at 0 on every coach die. -/
def ledgerSeqCleared (m : Tbl Nat) (l : Nat) : Tbl Nat := forAll (List.range 16) m fun d m => Tbl.set 0 m (d * 256 + l) 0

/-- The part when a livery is enabled. -/
def Chip.ttEnable (c : Chip) (l : Nat) (v : W32) : Chip :=
  let k := ((c.setReg pgTtb 0x1204 (v &&& 7) l).setSwap l none).turnedTo l (v.getLsbD 1) false
  { k with coach := { c.coach with ledgerSeq := ledgerSeqCleared c.coach.ledgerSeq l } }

theorem Chip.ttCtrlWrite_enables (he : c.ttEnabled c.selLiv = false) (hv : v.getLsbD 0 = true)
    (h0 : c.cycle c.selLiv (v.getLsbD 1) ≠ 0) : c.ttCtrlWrite v = c.ttEnable c.selLiv v :=
  ((if_neg (by simp [he])).trans (if_pos hv)).trans (if_neg h0)

/-- The bits of TTB_LIV_CTRL and TTB_LIV_STAT of a livery follow the registers alone. -/
theorem Chip.bankFlags_congr {k : Chip} (h : k.regs = c.regs) (l : Nat) : k.ttEnabled l = c.ttEnabled l ∧
    k.ttBank l = c.ttBank l ∧ k.swapPending l = c.swapPending l ∧ k.oldBusy l = c.oldBusy l := by
  simp only [Chip.ttEnabled, Chip.ttBank, Chip.swapPending, Chip.oldBusy, Chip.flag, Chip.reg_congr c h, and_self]

theorem Chip.turnedTo_flags (l : Nat) (bank busy : Bool) : (c.turnedTo l bank busy).ttBank l = bank ∧
    (c.turnedTo l bank busy).swapPending l = false ∧ (c.turnedTo l bank busy).oldBusy l = busy := by
  simp (disch := decide) only [Chip.turnedTo, Chip.ttBank, Chip.swapPending, Chip.oldBusy, Chip.flag_setFlag,
    Chip.flag_setFlag_other, and_self]

theorem ledgerSeqCleared_get (m : Tbl Nat) {l d : Nat} (hd : d < 16) : Tbl.get 0 (ledgerSeqCleared m l) (d * 256 + l) = 0 :=
  forAll_reaches (P := fun _ => True) (Q := fun m => Tbl.get 0 m (d * 256 + l) = 0)
    (fun _ _ => Tbl.get_set_same ..) (fun _ _ _ _ => trivial)
    (fun _ _ h => by rw [Tbl.get_set]; split; exacts [rfl, h]) (List.mem_range.2 hd) trivial

theorem Chip.reg_setSwap (l : Nat) (x : Option SwapSt) (page off inst : Nat) :
    (c.setSwap l x).reg page off inst = c.reg page off inst := c.reg_congr rfl ..

/-- The last swap of a livery, in a part whose timetable is as `setSwap` leaves it. -/
theorem Chip.swapOf_setSwap {k : Chip} {l : Nat} {x : Option SwapSt} (h : k.tt = (c.setSwap l x).tt) : k.swapOf l = x := by
  rw [Chip.swapOf, h]
  exact Tbl.get_set_same ..

theorem Chip.ttEnable_state (l : Nat) (v : W32) : let t := c.ttEnable l v
    t.reg pgTtb 0x1204 l = v &&& 7 ∧ t.ttBank l = v.getLsbD 1 ∧ t.swapPending l = false ∧ t.oldBusy l = false ∧
      t.swapOf l = none ∧ (∀ d < 16, Tbl.get 0 t.coach.ledgerSeq (d * 256 + l) = 0) ∧ t.coach.dies = c.coach.dies ∧
      Chip.only [.regs, .tt, .coach] c t := by
  have hregs : (c.ttEnable l v).regs = ((c.setReg pgTtb 0x1204 (v &&& 7) l).turnedTo l (v.getLsbD 1) false).regs := rfl
  obtain ⟨-, hbank, hpend, hbusy⟩ := Chip.bankFlags_congr hregs l
  obtain ⟨hb, hp, ho⟩ := (c.setReg pgTtb 0x1204 (v &&& 7) l).turnedTo_flags l (v.getLsbD 1) false
  refine ⟨?_, hbank.trans hb, hpend.trans hp, hbusy.trans ho, Chip.swapOf_setSwap (c := c) rfl,
    fun _ hd => ledgerSeqCleared_get _ hd, rfl, ?_⟩
  · rw [Chip.reg_congr _ hregs]
    simp (disch := decide) only [Chip.turnedTo, Chip.setFlag, Chip.setField, Chip.reg_setReg_off, Chip.reg_setReg]
  · simp [Chip.only, Chip.ttEnable, Chip.turnedTo, Chip.setSwap]

/-- Disabling drops a swap that is pending (R172). -/
theorem Chip.ttDisable_state (l : Nat) : let t := c.ttDisable l
    t.ttEnabled l = false ∧ t.swapPending l = false ∧ (c.swapPending l = true → t.swapOf l = none) ∧
      t.ttBank l = c.ttBank l ∧ Chip.only [.regs, .tt] c t := by
  have hpend : (c.setFlag pgTtb 0x1204 0 false l).swapPending l = c.swapPending l :=
    c.flag_setFlag_off _ (by decide) (by decide) (by decide) 1 0 false
  by_cases hp : c.swapPending l = true
  · have ht : c.ttDisable l = ((c.setFlag pgTtb 0x1204 0 false l).setFlag pgTtb 0x1208 1 false l).setSwap l none :=
      if_pos (hpend.trans hp)
    obtain ⟨hen, hbank, hoff, -⟩ := Chip.bankFlags_congr
      (c := (c.setFlag pgTtb 0x1204 0 false l).setFlag pgTtb 0x1208 1 false l) (k := c.ttDisable l) (by rw [ht]; rfl) l
    refine ⟨hen.trans ?_, hoff.trans ?_, fun _ => Chip.swapOf_setSwap (c := c) (by rw [ht]; rfl),
      hbank.trans ?_, ?_⟩
    · simp (disch := decide) only [Chip.ttEnabled, Chip.flag_setFlag_off, Chip.flag_setFlag]
    · exact Chip.flag_setFlag _ _ _ _ _ _ (by decide)
    · simp (disch := decide) only [Chip.ttBank, Chip.flag_setFlag_other, Chip.flag_setFlag_off]
    · rw [ht]
      simp [Chip.only, Chip.setSwap]
  · have ht : c.ttDisable l = c.setFlag pgTtb 0x1204 0 false l := if_neg (mt hpend.symm.trans hp)
    rw [ht]
    refine ⟨c.flag_setFlag _ _ _ _ _ (by decide), hpend.trans (Bool.eq_false_iff.2 hp), fun h => absurd h hp, ?_,
      by simp [Chip.only]⟩
    exact c.flag_setFlag_off _ (by decide) (by decide) (by decide) 0 0 false

/-! A swap is asked for (R171 steps 2 to 4) -/

theorem stepDiff_eq_toInt (a b : W32) : stepDiff a b = (a - b).toInt := by
  have := (a - b).isLt
  rw [stepDiff, signed, BitVec.toInt_eq_toNat_cond, Nat.mod_eq_of_lt this]
  split <;> split <;> omega

/-- R171 allows a swap of a livery to a step: the bank before it, its time and the cycle before it. -/
def Chip.maySwap (c : Chip) (l : Nat) (v : W32) (b : Bool) (t : Int) (cOld : Nat) : Prop :=
  c.governs l v = some (b, t, cOld) ∧ c.ttEnabled l = true ∧ 64 ≤ c.cycle l (!b) ∧ c.swapPending l = false ∧
    c.oldBusy l = false ∧ 0 < (v - c.currentStep l).toInt ∧
    (c.time.now : Int) < t - (max cOld (c.cycle l (!b)) * 65536 : Nat)

/-- A livery is anchored at a step and its time. -/
def Chip.anchored (c : Chip) (l : Nat) (v : W32) (t : Int) : Chip :=
  ((c.setReg pgTtb 0x1210 (BitVec.ofInt 32 t) l).setReg pgTtb 0x1214 (BitVec.ofInt 32 (t / 4294967296)) l).setReg
    pgTtb 0x1218 v l

/-- A swap to a step is pending. -/
def Chip.swapSet (c : Chip) (l : Nat) (v : W32) (t : Int) (cOld : Nat) : Chip :=
  ((c.setFlag pgTtb 0x1208 1 true l).setSwap l (some ⟨v, t, cOld, (c.swapOf l).map (·.step)⟩)).anchored l v t

theorem Chip.swapRequest_accepted {b : Bool} {t : Int} {cOld : Nat} (h : c.maySwap c.selLiv v b t cOld) :
    c.swapRequest v =
      ((c.swapSet c.selLiv v t cOld).bump pgTtb 0x1404).raise (evV pgTtb 0x0301 (dieX 0) c.selLiv) := by
  obtain ⟨hg, hmay⟩ := h
  rw [← stepDiff_eq_toInt] at hmay
  simp only [Chip.swapRequest, hg]
  exact if_pos hmay

theorem Chip.swapRequest_refused (h : ∀ b t cOld, ¬ c.maySwap c.selLiv v b t cOld) : c.swapRequest v =
    ((c.setFlag pgTtb 0x1208 4 true c.selLiv).bump pgTtb 0x1408).raise (evV pgTtb 0x0302 (dieX 0) c.selLiv) := by
  unfold Chip.swapRequest
  dsimp only
  split
  · rfl
  · next b t cOld hg =>
    refine if_neg fun hmay => h b t cOld ⟨hg, ?_⟩
    rw [← stepDiff_eq_toInt]
    exact hmay

theorem Chip.anchored_anchor (l : Nat) (v : W32) {t : Int} (h0 : 0 ≤ t) (h64 : t < 2 ^ 64) :
    (c.anchored l v t).anchorTime l = t ∧ (c.anchored l v t).anchorStep l = v := by
  refine ⟨?_, Chip.reg_setReg ..⟩
  simp (disch := decide) only [Chip.anchorTime, Chip.anchored, Chip.reg_setReg, Chip.reg_setReg_off, BitVec.toNat_ofInt]
  omega

theorem Chip.swapSet_flag (l : Nat) (v : W32) (t : Int) (cOld i : Nat) :
    (c.swapSet l v t cOld).flag pgTtb 0x1208 i l = (c.setFlag pgTtb 0x1208 1 true l).flag pgTtb 0x1208 i l := by
  simp (disch := decide) only [Chip.swapSet, Chip.anchored, Chip.flag_setReg_off]
  rw [Chip.flag, Chip.reg_setSwap, Chip.flag]

/-- What an accepted swap sets. -/
theorem Chip.swapSet_state (l : Nat) (v : W32) {t : Int} (cOld : Nat) (h0 : 0 ≤ t) (h64 : t < 2 ^ 64) :
    let k := c.swapSet l v t cOld
    k.swapPending l = true ∧ k.swapOf l = some ⟨v, t, cOld, (c.swapOf l).map (·.step)⟩ ∧ k.anchorTime l = t ∧
      k.anchorStep l = v ∧ k.ttBank l = c.ttBank l ∧ k.reg pgTtb 0x1404 = c.reg pgTtb 0x1404 := by
  obtain ⟨htime, hstep⟩ := Chip.anchored_anchor (c := (c.setFlag pgTtb 0x1208 1 true l).setSwap l
    (some ⟨v, t, cOld, (c.swapOf l).map (·.step)⟩)) l v h0 h64
  refine ⟨?_, Chip.swapOf_setSwap (c := c) rfl, htime, hstep, ?_, ?_⟩
  · exact (Chip.swapSet_flag ..).trans (c.flag_setFlag _ _ _ _ _ (by decide))
  · exact (Chip.swapSet_flag ..).trans (c.flag_setFlag_other _ _ _ _ _ _ (by decide))
  · simp (disch := decide) only [Chip.swapSet, Chip.anchored, Chip.setFlag, Chip.setField, Chip.reg_setReg_off,
      Chip.reg_setSwap]

/-- Counting and raising an event leave a livery's bank, swap and anchor. -/
theorem Chip.counted_swap (e : Ev) (l : Nat) : let k := (c.bump pgTtb 0x1404).raise e
    k.swapPending l = c.swapPending l ∧ k.swapOf l = c.swapOf l ∧ k.anchorTime l = c.anchorTime l ∧
      k.anchorStep l = c.anchorStep l ∧ k.ttBank l = c.ttBank l := by
  intro k
  have hreg : ∀ off < 0x10000, off ≠ 0x1404 → off ∉ evOffs → k.reg pgTtb off l = c.reg pgTtb off l :=
    fun off ho hc he => (Chip.raise_reg_off _ _ ho he).trans (c.reg_setReg_off _ (by decide) ho hc)
  have htt : k.tt = c.tt := by
    obtain ⟨_, _, _, h⟩ := (c.bump pgTtb 0x1404).raise_rest e
    exact (congrArg Chip.tt h :)
  have hstat := hreg 0x1208 (by decide) (by decide) (by decide)
  have hlo := hreg 0x1210 (by decide) (by decide) (by decide)
  have hhi := hreg 0x1214 (by decide) (by decide) (by decide)
  have hstep := hreg 0x1218 (by decide) (by decide) (by decide)
  simp only [Chip.swapPending, Chip.swapOf, Chip.anchorTime, Chip.anchorStep, Chip.ttBank, Chip.flag, htt, hstat, hlo, hhi,
    hstep, and_self]

/-! A swap takes effect (R171 steps 5 and 6) -/

/-- Nothing is due without a swap, without its flag, or before its time. -/
theorem Chip.not_swapDue {l : Nat} {p : Bool} {due : SwapSt → Int}
    (h : c.swapOf l = none ∨ p = false ∨ ∃ x, c.swapOf l = some x ∧ (c.time.now : Int) < due x) {x : SwapSt}
    (hx : c.swapOf l = some x) : ¬ (p = true ∧ due x ≤ (c.time.now : Int)) := by
  rintro ⟨hp, ht⟩
  obtain h | h | ⟨y, hy, hlt⟩ := h
  · exact Option.some_ne_none x (hx.symm.trans h)
  · exact Bool.false_ne_true (h.symm.trans hp)
  · cases hy.symm.trans hx
    exact absurd ht (not_le.2 hlt)

theorem Chip.swapEffect_waits {l : Nat}
    (h : c.swapOf l = none ∨ c.swapPending l = false ∨ ∃ x, c.swapOf l = some x ∧ (c.time.now : Int) < x.t) :
    c.swapEffect l = c := by
  unfold Chip.swapEffect
  split
  · next hx => exact if_neg (Chip.not_swapDue h hx)
  · rfl

theorem Chip.oldRelease_waits {l : Nat} (h : c.swapOf l = none ∨ c.oldBusy l = false ∨
      ∃ x, c.swapOf l = some x ∧ (c.time.now : Int) < x.t + (x.cOld * 65536 : Nat)) : c.oldRelease l = c := by
  unfold Chip.oldRelease
  split
  · next hx => exact if_neg (Chip.not_swapDue h hx)
  · rfl

theorem Chip.oldRelease_releases {l : Nat} {x : SwapSt} (hx : c.swapOf l = some x) (hb : c.oldBusy l = true)
    (ht : x.t + (x.cOld * 65536 : Nat) ≤ (c.time.now : Int)) : c.oldRelease l = c.setFlag pgTtb 0x1208 2 false l := by
  simp only [Chip.oldRelease, hx]
  exact if_pos ⟨hb, ht⟩

/-- Clearing the budget profile leaves the flags of the liveries and the timetable. -/
theorem Chip.clearProfile_tt (l : Nat) : c.clearProfile.ttBank l = c.ttBank l ∧
    c.clearProfile.swapPending l = c.swapPending l ∧ c.clearProfile.oldBusy l = c.oldBusy l ∧
      c.clearProfile.tt = c.tt := by
  have hflag : ∀ i, c.clearProfile.flag pgTtb 0x1208 i l = c.flag pgTtb 0x1208 i l := fun i =>
    c.flag_setReg_off _ (by decide) (by decide) (by decide) _ i
  exact ⟨hflag 0, hflag 1, hflag 2, rfl⟩

theorem Chip.swapEffect_swaps {l : Nat} {x : SwapSt} (hx : c.swapOf l = some x) (hp : c.swapPending l = true)
    (ht : x.t ≤ (c.time.now : Int)) : let t := c.swapEffect l
    t.ttBank l = (!c.ttBank l) ∧ t.swapPending l = false ∧ t.oldBusy l = true ∧ t.tt = c.tt := by
  obtain ⟨hbank, hpend, hbusy⟩ := c.turnedTo_flags l (!c.ttBank l) true
  have hcases : c.swapEffect l = (c.turnedTo l (!c.ttBank l) true).clearProfile ∨
      c.swapEffect l = c.turnedTo l (!c.ttBank l) true := by
    simp only [Chip.swapEffect, hx]
    rw [if_pos ⟨hp, ht⟩]
    exact ite_eq_or_eq ..
  obtain h | h := hcases <;> rw [h]
  · obtain ⟨hb, hq, ho, htt⟩ := (c.turnedTo l (!c.ttBank l) true).clearProfile_tt l
    exact ⟨hb.trans hbank, hq.trans hpend, ho.trans hbusy, htt⟩
  · exact ⟨hbank, hpend, hbusy, rfl⟩
end

end Sys2Proof.Machine
end

section
/-! Timetables, livery records and bank swaps, put together (O45). -/

namespace Sys2Proof.Machine

section
variable {s : State}

/-- The write of a livery record that is refused. -/
theorem exec_recRefused {r : LivRecReg} {v : W32} (h : s.chip.serves pgTtb = true)
    (hf : s.chip.recWrite r v = s.chip.recRefused) :
    exec (.liveryRecordWrite r v) s = .next (s.put s.chip.recRefused) :=
  exec_gated_put (·.serves pgTtb) (·.recWrite r v) rfl h hf Chip.recRefused_status

/-- A register of the TTB page is all that a command sets. -/
theorem exec_setTtb {i : Instr} (f : Chip → Chip) {off inst : Nat} {v : W32} (h : s.chip.serves pgTtb = true)
    (he : exec i s = s.run fun c => if c.serves pgTtb then f c else c) (hf : f s.chip = s.chip.setReg pgTtb off v inst)
    (ho : off < 0x10000) : exec i s = .next (s.put (s.chip.setReg pgTtb off v inst)) :=
  exec_gated_put _ _ he h hf (Chip.smbStatusWord_setTtb _ _ _ ho)

/-- The livery is disabled. -/
theorem yields_disable {v : W32} (h : s.chip.serves pgTtb = true) (he : s.chip.ttEnabled s.chip.selLiv = true)
    (hv : v.getLsbD 0 = false) : Yields (.ttbLivCtrlWrite v) s fun t => let l := s.chip.selLiv
      t.ttEnabled l = false ∧ t.swapPending l = false ∧ (s.chip.swapPending l = true → t.swapOf l = none) ∧
      t.ttBank l = s.chip.ttBank l ∧ Chip.only [.regs, .tt] s.chip t := by
  refine yields_after (exec_gated (·.serves pgTtb) (·.ttCtrlWrite v) rfl h (Chip.ttCtrlWrite_disables he hv)) ?_
  obtain ⟨hen, hpend, hswap, hbank, honly⟩ := s.chip.ttDisable_state s.chip.selLiv
  simp only [Chip.settleAlerts_ttEnabled, Chip.settleAlerts_swapPending, Chip.settleAlerts_swapOf, Chip.settleAlerts_ttBank]
  exact ⟨hen, hpend, hswap, hbank, Chip.only_settleAlerts honly⟩

/-- The livery is enabled with the bank and policy written. -/
theorem yields_enable {v : W32} (h : s.chip.serves pgTtb = true) (he : s.chip.ttEnabled s.chip.selLiv = false)
    (hv : v.getLsbD 0 = true) (h0 : s.chip.cycle s.chip.selLiv (v.getLsbD 1) ≠ 0) :
    Yields (.ttbLivCtrlWrite v) s fun t => let l := s.chip.selLiv
      t.reg pgTtb 0x1204 l = v &&& 7 ∧ t.ttBank l = v.getLsbD 1 ∧ t.swapPending l = false ∧ t.oldBusy l = false ∧
      t.swapOf l = none ∧ (∀ d < 16, Tbl.get 0 t.coach.ledgerSeq (d * 256 + l) = 0) ∧
      t.coach.dies = s.chip.coach.dies ∧ Chip.only [.regs, .tt, .coach] s.chip t := by
  refine yields_after (exec_gated (·.serves pgTtb) (·.ttCtrlWrite v) rfl h (Chip.ttCtrlWrite_enables he hv h0)) ?_
  obtain ⟨hctrl, hbank, hpend, hbusy, hswap, hseq, hdies, honly⟩ := s.chip.ttEnable_state s.chip.selLiv v
  simp only [Chip.settleAlerts_reg, Chip.settleAlerts_ttBank, Chip.settleAlerts_swapPending, Chip.settleAlerts_oldBusy,
    Chip.settleAlerts_swapOf, Chip.settleAlerts_coach]
  exact ⟨hctrl, hbank, hpend, hbusy, hswap, hseq, hdies, Chip.only_settleAlerts honly⟩

/-- The event that a command raises last. -/
theorem Chip.raised_settled {a b c : Chip} (e : Ev) (h : c.ev = b.ev) :
    Chip.raised b (Chip.settleAlerts a (c.raise e)) e := by
  have hr := c.raise_raised e
  rw [Chip.raised, h] at hr
  rwa [Chip.raised, Chip.settleAlerts_ev, Chip.settleAlerts_time]

/-- A swap that R171 allows. -/
theorem yields_swap {v : W32} {b : Bool} {t : Int} {cOld : Nat} (h : s.chip.serves pgTtb = true)
    (hmay : s.chip.maySwap s.chip.selLiv v b t cOld) (h0 : 0 ≤ t) (h64 : t < 2 ^ 64) :
    Yields (.ttbLivSwap v) s fun k => let l := s.chip.selLiv
      k.swapPending l = true ∧ k.swapOf l = some ⟨v, t, cOld, (s.chip.swapOf l).map (·.step)⟩ ∧
      k.anchorTime l = t ∧ k.anchorStep l = v ∧ k.ttBank l = s.chip.ttBank l ∧
      k.reg pgTtb 0x1404 = s.chip.reg pgTtb 0x1404 + 1 ∧ Chip.raised s.chip k (evV pgTtb 0x0301 24 l) ∧
      Chip.only [.regs, .ev, .snap, .tt] s.chip k := by
  refine yields_after (exec_gated (·.serves pgTtb) (·.swapRequest v) rfl h (Chip.swapRequest_accepted hmay)) ?_
  intro l
  simp only [Chip.settleAlerts_swapPending, Chip.settleAlerts_swapOf, Chip.settleAlerts_anchorTime,
    Chip.settleAlerts_anchorStep, Chip.settleAlerts_ttBank, Chip.settleAlerts_reg]
  obtain ⟨hpend, hswap, htime, hstep, hbank, hctr⟩ := s.chip.swapSet_state l v cOld h0 h64
  obtain ⟨gpend, gswap, gtime, gstep, gbank⟩ := (s.chip.swapSet l v t cOld).counted_swap (evV pgTtb 0x0301 (dieX 0) l) l
  refine ⟨gpend.trans hpend, gswap.trans hswap, gtime.trans htime, gstep.trans hstep, gbank.trans hbank, ?_, ?_,
    Chip.only_settleAlerts ?_⟩
  · rw [Chip.raise_reg_off _ _ (by decide) (by decide), Chip.reg_bump, hctr]
  · exact Chip.raised_settled _ rfl
  · refine Chip.only_trans ?_ (Chip.only_mono ?_ (Chip.raise_only ..))
    · simp [Chip.only, Chip.swapSet, Chip.anchored, Chip.setSwap, Chip.bump, Chip.bumpN]
    · decide
end

/-- Settles O45: each check, refusal and effect is one branch of a command's meaning, and what a write stores stands in one
entry, one set or the registers of one livery. -/
theorem timetablesAreWrittenAndSwapped : Obligations.TimetablesAreWrittenAndSwapped := by
  unfold Obligations.TimetablesAreWrittenAndSwapped
  refine ⟨?_, ?_, ?_⟩
  · intro s h c bank idx e live bad refuse put
    have hlive : live ↔ c.entryLive bank idx = true := Chip.entryLive_iff.symm
    refine ⟨yields_read h rfl rfl rfl (by decide) (by decide), fun hl i hi => ?_, fun hl => ⟨fun k hv hk hlt => ?_,
      fun hno => ?_, ?_⟩, yields_read h rfl rfl rfl (by decide) (by decide), fun hl => ?_, yields_csetWrite h⟩
    · obtain rfl | rfl := hi
      · exact exec_entRefuse h rfl (Chip.entWrite_live (hlive.1 hl))
      · exact exec_entRefuse h rfl (Chip.entInvalidate_live (hlive.1 hl))
    · exact exec_entRefuse h rfl (Chip.entWrite_faulty (mt hlive.2 hl) (Chip.entryErr_eq hv hk hlt))
    · exact yields_storeEntry (exec_gated (·.serves pgTtb) Chip.entWrite rfl h
        (Chip.entWrite_stores (mt hlive.2 hl) (Chip.entryErr_zero hno)))
    · exact yields_storeEntry (exec_gated (·.serves pgTtb) Chip.entInvalidate rfl h
        (Chip.entInvalidate_stores (mt hlive.2 hl)))
    · exact exec_gated_put (·.serves pgTtb) Chip.csetWrite rfl h (Chip.csetWrite_live hl)
        (Chip.smbStatusWord_setTtb_bump _ _ _ (by decide) (by decide))
  · intro s v h c l refuse cy first last overlap
    have hover : ∀ bank, overlap bank ↔ c.rangeOverlaps l bank first last = true := fun _ => Chip.rangeOverlaps_iff.symm
    refine ⟨fun bank => ⟨fun hl => exec_recRefused h (Chip.recWrite_cycle_refused hl), fun hl hcy => ?_,
        fun hl => exec_recRefused h (Chip.recWrite_range_refused (hl.imp_right (hover bank).1)), fun hl ho => ?_⟩,
      fun he hv => exec_gated_self (·.serves pgTtb) (·.ttCtrlWrite v) rfl h (Chip.ttCtrlWrite_stays he hv),
      fun he hv => yields_disable h he hv,
      fun he hv => exec_setTtb (·.ttCtrlWrite v) h rfl (Chip.ttCtrlWrite_keepsOff he hv) (by decide), fun he hv h0 => ?_,
      fun he hv h0 => yields_enable h he hv h0, fun b t cOld hmay h0 h64 => yields_swap h hmay h0 h64,
      fun hno => exec_gated (·.serves pgTtb) (·.swapRequest v) rfl h (Chip.swapRequest_refused hno)⟩
    · exact exec_setTtb (·.recWrite (.cycle bank) v) h rfl (Chip.recWrite_cycle hl hcy) (by cases bank <;> decide)
    · exact exec_setTtb (·.recWrite (.range bank) v) h rfl (Chip.recWrite_range hl (mt (hover bank).2 ho))
        (by cases bank <;> decide)
    · exact exec_gated_put (·.serves pgTtb) (·.ttCtrlWrite v) rfl h (Chip.ttCtrlWrite_noCycle he hv h0)
        (Chip.smbStatusWord_setTtb_bump _ _ _ (by decide) (by decide))
  · intro s lv h c l
    refine ⟨fun hw => exec_gated_self (·.mainUp) (·.swapEffect l) rfl h (Chip.swapEffect_waits hw), fun x hx hp ht => ?_,
      fun hw => exec_gated_self (·.mainUp) (·.oldRelease l) rfl h (Chip.oldRelease_waits hw), fun x hx hb ht => ?_⟩
    · obtain ⟨hbank, hpend, hbusy, htt⟩ := Chip.swapEffect_swaps hx hp ht
      refine yields_after (exec_gated (·.mainUp) (·.swapEffect l) rfl h rfl) ?_
      rw [Chip.settleAlerts_ttBank, Chip.settleAlerts_swapPending, Chip.settleAlerts_oldBusy, Chip.settleAlerts_swapOf,
        Chip.settleAlerts_tt]
      exact ⟨hbank, hpend, hbusy, by rw [Chip.swapOf, htt, ← Chip.swapOf, hx], htt⟩
    · exact exec_gated_put (·.mainUp) (·.oldRelease l) rfl h (Chip.oldRelease_releases hx hb ht)
        (Chip.smbStatusWord_setTtb _ _ _ (by decide))

end Sys2Proof.Machine
end

section
/-! A bank of the cell buffer is fenced (R198, R214) while a flow shaper holds a frame that names a cell past the pool: a
state that no command brings about, and that the statements on march runs and on cold starts do not leave out. -/

namespace Sys2Proof.Machine

/-! A held cell past the pool -/

/-- The first number past the cells of a buffer die. -/
def pastCell : Nat := poolUnits plCell

/-- `unitBank` places that cell in bank 128, which is none of the pool's, and the retention flag of bank 128, which
`Chip.bankAccess` clears, stands where the fence of bank 0 stands. -/
theorem pastCell_bank : unitBank plCell pastCell = 128 ∧ 128 ∉ poolBanks plCell ∧ 128 % 32 = 0 % 32 ∧
    regKey (pgMem 28) (0x1020 + 4 * (128 / 32)) 0 = regKey (pgMem 28) (0x1030 + 4 * (0 / 32)) 0 := by
  decide

/-- A frame in the first cell of buffer die B0 and in that one. -/
def pastFrame : Msg := { Msg.made 0 [] 0 none with cells := [⟨0, 0, 0⟩, ⟨0, pastCell, 0⟩] }

/-- A read of word 0 that finds a 1 in the background of all zeros, in the first pass of a run. -/
def pastRead : MarchRead := { pass := 0, elem := 1, op := 0, word := 0, got := 1 }

/-- A part that is READY. A flow shaper holds the frame; on B0, a march of bank 0 runs (March C−, destructive), the first
subarray of bank 0 has no spare left, and the frame's second cell lies in a bank in retention. -/
def pastPart : Chip :=
  let c := Chip.reset.setField pgPwr 0x1078 0 3 phReady
  { c with
    traf := { c.traf with flowHeld := [⟨0, 0, 0, pastFrame, none⟩] }
    bank := { c.bank with
      ret := [(28 * 256 + unitBank plCell pastCell, .retained)], spares := [(spareKey 28 0 0, (8, 2))]
      march := [(28, some 0)] } }

/-- The run's report: that read, in a column. -/
def pastReport : MarchReport := ⟨[pastRead], true⟩

theorem pastPart_marches : pastPart.serves (pgMem 28) = true ∧ pastPart.marchOf 28 = some 0 ∧
    pastPart.fenced 28 0 = false ∧ marchFirst 0 false pastReport.reads = some pastRead := by
  decide +kernel

/-- The frame is lost with the bank that is fenced, and letting go of its second cell clears the fence. -/
theorem pastPart_marchDone : (pastPart.marchDone (28 : Die).val pastReport).fenced 28 0 = false := by decide +kernel

/-- MARCH_DONE leaves the faulty bank without its fence. -/
theorem pastPart_unfenced {t : State} (h : exec (.marchDone 28 pastReport) ⟨pastPart, []⟩ = .next t) :
    t.chip.fenced 28 0 = false := by
  obtain ⟨hserves, _⟩ := pastPart_marches
  have ht := run_eq (f := fun c => if (28 : Die).val < 31 ∧ c.serves (pgMem (28 : Die).val) then
    c.marchDone (28 : Die).val pastReport else c) h
  rw [ht, if_pos ⟨by decide, hserves⟩, Chip.fenced, Chip.settleAlerts_flag, ← Chip.fenced, pastPart_marchDone]

/-- Refutes O49, in its clause that a faulty column fences the bank: the frames in the bank are lost, a frame that is lost
lets go of its cells whatever their numbers, and to wake the bank of `pastCell` that clears the bit of the fence. The
counterexample is `pastPart`; no buffer die has such a cell (`pastCell_bank`), so no command gives one to a frame. -/
theorem not_banksAreTestedAndSleep : ¬ Obligations.BanksAreTestedAndSleep := by
  unfold Obligations.BanksAreTestedAndSleep
  intro h
  obtain ⟨hserves, hmarch, hnot, hfirst⟩ := pastPart_marches
  obtain ⟨_, _, _, _, _, hruns, _⟩ := h
  obtain ⟨_, _, _, _, _, hends⟩ := hruns ⟨pastPart, []⟩ 28 0 (by decide) hserves
  obtain ⟨_, hfault⟩ := hends 0 pastReport hmarch
  obtain ⟨hfences, _⟩ := hfault pastRead hfirst
  obtain ⟨t, ht, _, hfenced, _⟩ := hfences (fun hs => absurd hs.1 (by decide)) hnot
  exact absurd ((pastPart_unfenced ht).symm.trans hfenced) Bool.false_ne_true

/-! The same bank in the march of a cold start (R217, R220) -/

/-- What the march of bank 0 finds. -/
def pastFinding : BankFinding := ⟨28, 0, [pastRead]⟩

/-- No spare is left for the faulty bit. -/
theorem pastPart_uncovered : pastPart.dieFailed 28 = false ∧ bankExists 28 0 = true ∧
    spareCover (faultyBits 2 0 pastFinding.reads) (8 - (pastPart.sparesUsed 28 0 0).1)
      (2 - (pastPart.sparesUsed 28 0 0).2) = none := by
  decide +kernel

theorem pastPart_finding : (pastPart.finding pastFinding).fenced 28 0 = false := by decide +kernel

/-- Refutes O54, in its clause that a bank whose faults the spares do not cover is fenced: to fence the bank loses the frames
in it, and on `pastPart` that clears the fence again, as it does after a march in service. -/
theorem not_coldStartsRunInPhases : ¬ Obligations.ColdStartsRunInPhases := by
  unfold Obligations.ColdStartsRunInPhases
  intro h
  obtain ⟨hup, hbank, hcover⟩ := pastPart_uncovered
  obtain ⟨_, hfindings⟩ := h
  obtain ⟨_, _, hfences⟩ := hfindings pastPart pastFinding
  have hmeets : ¬ (pastPart.dieFailed 28 = true ∨ bankExists 28 0 = false) := by simp [hup, hbank]
  obtain ⟨hfenced, _⟩ := hfences hmeets ⟨0, by decide, hcover⟩
  exact absurd (pastPart_finding.symm.trans hfenced) Bool.false_ne_true

end Sys2Proof.Machine
end

section
/-! Units of the pools (R200, R203, R206, R221): which groups and which registers taking one, giving one back and evaluating
a level can change. -/

namespace Sys2Proof.Machine

variable (c : Chip) {die pool u : Nat} {page off inst : Nat}

/-! Accesses to banks -/

/-- The registers that an access to a bank writes stand from the MEM page of its die on, whatever the bank. -/
theorem Chip.bankAccess_reg_below (bank : Nat) (h : regKey page off inst < pgMem die * 0x10000) :
    (c.bankAccess die bank).reg page off inst = c.reg page off inst := by
  have hne : ∀ o, regKey page off inst ≠ regKey (pgMem die) o 0 := fun o => by
    have : pgMem die * 0x10000 ≤ regKey (pgMem die) o 0 := by simp only [regKey]; omega
    omega
  have hb : ∀ (k : Chip) o, Chip.reg (k.bump (pgMem die) o) page off inst = k.reg page off inst :=
    fun k o => k.reg_bump_other (hne o)
  have hf : ∀ (k : Chip) o i b, Chip.reg (k.setFlag (pgMem die) o i b) page off inst = k.reg page off inst :=
    fun k o i b => k.reg_setFlag_other i b (hne o)
  simp only [Chip.bankAccess]
  generalize ht : (if bank < 128 then { c with bank := { c.bank with
    touched := Tbl.set 0 c.bank.touched (die * 256 + bank) c.time.now } } else c) = k
  have hk : k.reg page off inst = c.reg page off inst := by rw [← ht]; split <;> rfl
  split
  · exact hk
  · split
    · exact (hb _ _).trans hk
    · exact hk
  · exact hk
  · exact (hf _ _ _ _).trans ((hb _ _).trans hk)
  · exact hk

/-- The POL page of a buffer die lies below its MEM page. -/
theorem regKey_pgPolB_below {b : Nat} (hb : b < 2) (ho : off < 0x10000) :
    regKey (pgPolB b) off 0 < pgMem (28 + b) * 0x10000 := by
  have hmem : pgMem (28 + b) = 0x101 + 8 * b := by
    obtain h0 | h1 : b = 0 ∨ b = 1 := by omega
    · rw [h0]; rfl
    · rw [h1]; rfl
  simp only [regKey, pgPolB, hmem]
  omega

/-! Units -/

theorem Chip.takeUnit_rest (owner : Nat) : ∃ r b a o w k, c.takeUnit die pool owner u =
    { c with regs := r, bank := b, act := a, pool := { c.pool with owner := o, used := w, ctlUsed := k } } := by
  obtain ⟨r, b, h⟩ := c.bankAccess_rest die (unitBank pool u)
  unfold Chip.takeUnit
  rw [h]
  dsimp only
  split <;> exact ⟨_, _, _, _, _, _, rfl⟩

theorem Chip.reg_withPool (x : PoolSt) : ({ c with pool := x } : Chip).reg page off inst = c.reg page off inst := (rfl)

theorem Chip.reg_active (d kind port l n : Nat) : (c.active d kind port l n).reg page off inst = c.reg page off inst := (rfl)

theorem Chip.takeUnit_reg_below (owner : Nat) (h : regKey page off inst < pgMem die * 0x10000) :
    (c.takeUnit die pool owner u).reg page off inst = c.reg page off inst := by
  rw [Chip.takeUnit, Chip.reg_withPool, Chip.reg_active, c.bankAccess_reg_below _ h]

/-- Evaluating a level changes registers, the events and levels. -/
theorem Chip.evalLevel_rest (l : Nat) : ∃ r e s n, c.evalLevel die pool l =
    { c with regs := r, ev := e, snap := s, pool := { c.pool with level := n } } := by
  obtain ⟨n, h | h⟩ := c.evalLevel_cases die pool l <;> rw [h]
  · obtain ⟨r, e, s, hr⟩ := Chip.raise_rest ((_ : Chip).bump (pgPol die) 0x1108) (evT (pgPol die) 0x0405 die l pool)
    rw [hr]
    exact ⟨r, e, s, _, rfl⟩
  · exact ⟨_, _, _, _, rfl⟩

/-- Giving a unit back changes registers, the events, the banks, the activity counts, and what the pool says of its units. -/
theorem Chip.releaseUnit_rest : ∃ r e s b a o w n k, c.releaseUnit die pool u =
    { c with regs := r, ev := e, snap := s, bank := b, act := a,
             pool := { c.pool with owner := o, used := w, level := n, ctlUsed := k } } := by
  obtain ⟨r, b, h⟩ := c.bankAccess_rest die (unitBank pool u)
  unfold Chip.releaseUnit
  rw [h]
  split
  · exact ⟨_, _, _, _, _, _, _, _, _, rfl⟩
  · dsimp only
    split
    · exact ⟨_, _, _, _, _, _, _, _, _, rfl⟩
    · obtain ⟨r, e, s, n, hl⟩ := Chip.evalLevel_rest _ (die := die) (pool := pool) _
      rw [hl]
      exact ⟨_, _, _, _, _, _, _, _, _, rfl⟩

theorem Chip.releaseUnit_changes : Chip.only [.regs, .ev, .snap, .pool, .bank, .act] c (c.releaseUnit die pool u) := by
  obtain ⟨_, _, _, _, _, _, _, _, _, h⟩ := c.releaseUnit_rest (die := die) (pool := pool) (u := u)
  rw [h]
  simp [Chip.only]

theorem Chip.releaseUnit_traf : (c.releaseUnit die pool u).traf = c.traf := by
  obtain ⟨_, _, _, _, _, _, _, _, _, h⟩ := c.releaseUnit_rest (die := die) (pool := pool) (u := u)
  rw [h]

/-! Cells -/

theorem Chip.only_withPool (x : PoolSt) : Chip.only [.pool] c { c with pool := x } := by simp [Chip.only]

theorem Chip.setCell_only (b n : Nat) (x : Cell) : Chip.only [.pool] c (c.setCell b n x) := c.only_withPool _

@[simp] theorem Chip.cell_setCell (b n : Nat) (x : Cell) : (c.setCell b n x).cell b n = x := Tbl.get_set_same ..

theorem Chip.reg_setCell (b n : Nat) (x : Cell) : (c.setCell b n x).reg page off inst = c.reg page off inst := rfl

theorem Chip.cell_setCell_other {b n d w : Nat} (x : Cell) (h : cellKey d w ≠ cellKey b n) :
    (c.setCell b n x).cell d w = c.cell d w := Tbl.get_set_other _ _ _ _ h

/-- A part with the same cells. -/
theorem Chip.cell_congr {k : Chip} (h : k.pool.cells = c.pool.cells) (b n : Nat) : k.cell b n = c.cell b n := by
  rw [Chip.cell, h, Chip.cell]

theorem Chip.releaseUnit_quarRun : (c.releaseUnit die pool u).pool.quarRun = c.pool.quarRun := by
  obtain ⟨_, _, _, _, _, _, _, _, _, h⟩ := c.releaseUnit_rest (die := die) (pool := pool) (u := u)
  rw [h]

theorem Chip.releaseUnit_cells : (c.releaseUnit die pool u).pool.cells = c.pool.cells := by
  obtain ⟨_, _, _, _, _, _, _, _, _, h⟩ := c.releaseUnit_rest (die := die) (pool := pool) (u := u)
  rw [h]

theorem Chip.takeUnit_cells (owner : Nat) : (c.takeUnit die pool owner u).pool.cells = c.pool.cells := by
  obtain ⟨_, _, _, _, _, _, h⟩ := c.takeUnit_rest (die := die) (pool := pool) (u := u) owner
  rw [h]

@[simp] theorem Chip.raise_pool (e : Ev) : (c.raise e).pool = c.pool := by
  obtain ⟨_, _, _, h⟩ := c.raise_rest e
  rw [h]

end Sys2Proof.Machine
end

section
/-! Cells that are read out, and frames that a flow shaper holds (R211, R212, R324). -/

namespace Sys2Proof.Machine

variable (c : Chip)

/-! A cell of a frame in transmission -/

/-- A cell that has been read out leaves the frame in transmission, and nothing else. -/
theorem Chip.txRead_rest (r : CellRef) : ∃ tr, c.txRead r = { c with traf := tr } := by
  unfold Chip.txRead
  split <;> exact ⟨_, rfl⟩

@[simp] theorem Chip.txRead_pool (r : CellRef) : (c.txRead r).pool = c.pool := by
  obtain ⟨_, h⟩ := c.txRead_rest r
  rw [h]

@[simp] theorem Chip.txRead_regs (r : CellRef) : (c.txRead r).regs = c.regs := by
  obtain ⟨_, h⟩ := c.txRead_rest r
  rw [h]

@[simp] theorem Chip.txRead_ev (r : CellRef) : (c.txRead r).ev = c.ev := by
  obtain ⟨_, h⟩ := c.txRead_rest r
  rw [h]

@[simp] theorem Chip.txRead_smbStatusWord (r : CellRef) : (c.txRead r).smbStatusWord = c.smbStatusWord := by
  obtain ⟨_, h⟩ := c.txRead_rest r
  rw [h]
  rfl

@[simp] theorem Chip.txRead_cell (r : CellRef) (b n : Nat) : (c.txRead r).cell b n = c.cell b n :=
  c.cell_congr (congrArg PoolSt.cells (c.txRead_pool r)) b n

theorem Chip.txRead_only (r : CellRef) : Chip.only [.traf] c (c.txRead r) := by
  obtain ⟨_, h⟩ := c.txRead_rest r
  rw [h]
  simp [Chip.only]

/-! A decrement (R211, R212) -/

/-- What a decrement that finds an underflow counts and reports. -/
def Chip.underflow (r : CellRef) : Chip :=
  (c.bump (pgPolB r.bdie) 0x1114).raise (evT (pgPolB r.bdie) 0x0407 (28 + r.bdie) ((c.cell r.bdie r.cell).lastOwner % 256) 3)

variable {c} {r : CellRef}

theorem Chip.cellDecr_underflow (h : (c.cell r.bdie r.cell).gen ≠ r.gen ∨ (c.cell r.bdie r.cell).quarantined = true) :
    c.cellDecr r = c.underflow r := by
  by_cases hg : (c.cell r.bdie r.cell).gen = r.gen
  · exact (if_neg (not_not.2 hg)).trans (if_pos (h.resolve_left (not_not.2 hg)))
  · exact if_pos hg

section
variable (hg : (c.cell r.bdie r.cell).gen = r.gen) (hq : (c.cell r.bdie r.cell).quarantined = false)
include hg hq

theorem Chip.cellDecr_shared (h : 2 ≤ (c.cell r.bdie r.cell).refs) : c.cellDecr r =
    c.setCell r.bdie r.cell { c.cell r.bdie r.cell with refs := (c.cell r.bdie r.cell).refs - 1 } := by
  unfold Chip.cellDecr
  rw [if_neg (not_not.2 hg), if_neg (by simp [hq]), if_neg (by omega), if_neg (by omega)]

theorem Chip.cellDecr_last (h : (c.cell r.bdie r.cell).refs = 1) :
    (c.cellDecr r).pool.cells = (c.setCell r.bdie r.cell { c.cell r.bdie r.cell with refs := 0 }).pool.cells ∧
    (c.cellDecr r).unitOwner (28 + r.bdie) 3 r.cell = 0 ∧ (c.cellDecr r).traf = c.traf ∧
    Chip.only [.regs, .ev, .snap, .pool, .bank, .act] c (c.cellDecr r) := by
  have hlast : c.cellDecr r = (c.setCell r.bdie r.cell { c.cell r.bdie r.cell with refs := 0 }).releaseUnit
      (dieB r.bdie) plCell r.cell := by
    unfold Chip.cellDecr
    rw [if_neg (not_not.2 hg), if_neg (by simp [hq]), if_neg (by omega), if_pos h]
  rw [hlast]
  refine ⟨Chip.releaseUnit_cells _, Chip.releaseUnit_frees, Chip.releaseUnit_traf _, ?_⟩
  exact Chip.only_trans (Chip.only_mono (by decide) (c.setCell_only ..)) (Chip.releaseUnit_changes _)

/-- A cell found at 0 is quarantined; taking it changes only the banks, the owners and the activity counts. -/
theorem Chip.cellDecr_quarantines (h : (c.cell r.bdie r.cell).refs = 0) : ∃ k : Chip, c.cellDecr r =
      (k.setCell r.bdie r.cell { c.cell r.bdie r.cell with quarantined := true }).bump (pgPolB r.bdie) 0x1118 ∧
    k.pool.cells = c.pool.cells ∧ k.ev.placed = c.ev.placed + 1 ∧
    ∀ off inst, regKey (pgPolB r.bdie) off inst < pgMem (dieB r.bdie) * 0x10000 →
      k.reg (pgPolB r.bdie) off inst = (c.underflow r).reg (pgPolB r.bdie) off inst := by
  have hplaced : (c.underflow r).ev.placed = c.ev.placed + 1 := Chip.raise_placed _ _
  have hcells : (c.underflow r).pool.cells = c.pool.cells := congrArg PoolSt.cells (Chip.raise_pool _ _)
  unfold Chip.cellDecr
  rw [if_neg (not_not.2 hg), if_neg (by simp [hq]), if_pos h]
  refine ⟨_, rfl, ?_⟩
  change (ite _ ((c.underflow r).takeUnit _ _ _ _) (c.underflow r)).pool.cells = _ ∧
    (ite _ ((c.underflow r).takeUnit _ _ _ _) (c.underflow r)).ev.placed = _ ∧
      ∀ off inst, _ → (ite _ ((c.underflow r).takeUnit _ _ _ _) (c.underflow r)).reg _ off inst = _
  split_ifs
  · refine ⟨(Chip.takeUnit_cells _ _).trans hcells, ?_, fun off inst hb => Chip.takeUnit_reg_below _ _ hb⟩
    obtain ⟨_, _, _, _, _, _, ht⟩ := (c.underflow r).takeUnit_rest (die := dieB r.bdie) (pool := plCell) (u := r.cell)
      (c.cell r.bdie r.cell).lastOwner
    rw [ht]
    exact hplaced
  · exact ⟨hcells, hplaced, fun _ _ _ => rfl⟩

theorem Chip.cellDecr_free (hb : r.bdie < 2) (h : (c.cell r.bdie r.cell).refs = 0) :
    (c.cellDecr r).pool.cells = (c.setCell r.bdie r.cell { c.cell r.bdie r.cell with quarantined := true }).pool.cells ∧
    (c.cellDecr r).reg (pgPolB r.bdie) 0x1114 = c.reg (pgPolB r.bdie) 0x1114 + 1 ∧
    (c.cellDecr r).reg (pgPolB r.bdie) 0x1118 = c.reg (pgPolB r.bdie) 0x1118 + 1 ∧
    (c.cellDecr r).ev.placed = c.ev.placed + 1 := by
  obtain ⟨k, hk, hcells, hplaced, hregs⟩ := Chip.cellDecr_quarantines hg hq h
  rw [hk]
  refine ⟨congrArg (Tbl.set Cell.reset · _ _) hcells, ?_, ?_, hplaced⟩
  · rw [Chip.reg_bump_other _ (regKey_ne_of_off (by decide) (by decide) (by decide)), Chip.reg_setCell]
    rw [hregs _ _ (regKey_pgPolB_below hb (by decide)), Chip.underflow,
      Chip.raise_reg_off _ _ (by decide) (by decide), Chip.reg_bump]
  · rw [Chip.reg_bump, Chip.reg_setCell]
    rw [hregs _ _ (regKey_pgPolB_below hb (by decide)), Chip.underflow, Chip.raise_reg_off _ _ (by decide) (by decide),
      Chip.reg_bump_other _ (regKey_ne_of_off (by decide) (by decide) (by decide))]
end

/-! Frames that a flow shaper holds (R324) -/

section
variable {d n : Nat}

/-- A diverted or held frame that waits at shaper `n` of port die `d`. -/
def Diverted.waitsAt (x : Diverted) (d n : Nat) : Prop := x.pdie = d ∧ x.dest = n

theorem Chip.shaperRelease_waits
    (h : (∀ x ∈ c.traf.flowHeld, ¬ x.waitsAt d n) ∨ c.shaperOpen d (flowShaper n) = false) : c.shaperRelease d n = c := by
  unfold Chip.shaperRelease
  dsimp only
  split
  · next x hx =>
    obtain h | h := h
    · exact absurd (by simpa [Diverted.waitsAt] using List.find?_some hx) (h x (List.mem_of_find?_eq_some hx))
    · exact if_neg (by simp [h])
  · rfl

theorem Chip.shaperRelease_goes {pre post : List Diverted} {x : Diverted} (hq : c.traf.flowHeld = pre ++ x :: post)
    (hp : ∀ y ∈ pre, ¬ y.waitsAt d n) (hx : x.waitsAt d n) (ho : c.shaperOpen d (flowShaper n) = true) :
    let t := Chip.shaperTake { c with traf := { c.traf with flowHeld := pre ++ post } } d (flowShaper n)
      (x.msg.flowLen + c.overhead x.lport)
    c.shaperRelease d n = match x.put with
      | some k => (t.putCopies x.msg k).putIdle k
      | none => if hMc x.msg.hdr then t.copyOut x.msg else t.redispatch x.lport x.msg := by
  have hpre : ∀ y ∈ pre, decide (y.pdie = d ∧ y.dest = n) = false := fun y hy => decide_eq_false (hp y hy)
  have hfind : c.traf.flowHeld.find? (fun y => decide (y.pdie = d ∧ y.dest = n)) = some x :=
    hq ▸ List.find?_eq_some_iff_append.2 ⟨decide_eq_true hx, pre, post, rfl, fun y hy => by simp [hpre y hy]⟩
  have hdrop : dropFirst (fun y : Diverted => decide (y.pdie = d ∧ y.dest = n)) c.traf.flowHeld = pre ++ post :=
    hq ▸ dropFirst_append hpre (decide_eq_true hx)
  intro t
  unfold Chip.shaperRelease
  simp only [hfind, ho, if_true, hdrop]
  rfl

@[simp] theorem Chip.shaperTake_lostOf (bytes l : Nat) : (c.shaperTake d n bytes).lostOf l = c.lostOf l := by
  unfold Chip.shaperTake
  split <;> rfl
end

/-! A frame that waited goes to its port as that now is (R292, R306) -/

section
variable {q : Nat} {m : Msg}

theorem Chip.redispatch_eq : c.redispatch q m =
    if c.portUp q = true then
      if hClass m.hdr = 1 ∧ q ∈ (c.lostOf (hLiv m.hdr)).ports then c.holdLost q m else c.place q m .good
    else if hClass m.hdr = 1 then c.holdLost q m else (c.bump pgRte 0x1804).dropCells m.cells := by
  simp only [Chip.redispatch, Chip.sendOn, Bool.and_eq_true, decide_eq_true_eq, if_true]
  rfl

theorem Chip.redispatch_place (hup : c.portUp q = true) (h : ¬ (hClass m.hdr = 1 ∧ q ∈ (c.lostOf (hLiv m.hdr)).ports)) :
    c.redispatch q m = c.place q m .good := by
  rw [Chip.redispatch_eq, if_pos hup, if_neg h]

theorem Chip.redispatch_held (hm : hClass m.hdr = 1) (h : c.portUp q = false ∨ q ∈ (c.lostOf (hLiv m.hdr)).ports) :
    c.redispatch q m = c.holdLost q m := by
  rw [Chip.redispatch_eq, if_pos hm]
  split_ifs with hup hl
  · rfl
  · exact absurd ⟨hm, h.resolve_left (by simp [hup])⟩ hl
  · rfl

theorem Chip.redispatch_dropped (hm : hClass m.hdr ≠ 1) (h : c.portUp q = false) :
    c.redispatch q m = (c.bump pgRte 0x1804).dropCells m.cells := by
  rw [Chip.redispatch_eq, if_neg (by simp [h]), if_neg hm]
end

/-! The commands -/

/-- Settling finds nothing to do where the status flags stay as they were. -/
theorem State.after_of_status {s : State} {k : Chip} (h : k.smbStatusWord = s.chip.smbStatusWord) : s.after k = s.put k := by
  rw [State.after, Chip.settleAlerts_of_status h, State.put]

theorem exec_decrement {s : State} {b : BDie} {u : BitVec 18} {gen : BitVec 16} {k : Chip} (hup : s.chip.mainUp = true)
    (hdie : s.chip.dieFailed (28 + b.val) = false)
    (hk : (s.chip.txRead ⟨b.val, u.toNat, gen.toNat⟩).cellDecr ⟨b.val, u.toNat, gen.toNat⟩ = k) :
    exec (.cellRefcountDecrement b u gen) s = .next (s.after k) :=
  exec_gated (fun c => c.mainUp && !c.dieFailed (dieB b.val))
    (fun c => (c.txRead ⟨b.val, u.toNat, gen.toNat⟩).cellDecr ⟨b.val, u.toNat, gen.toNat⟩) rfl
    (by rw [hup, dieB, hdie]; rfl) hk

/-- Settles O33: a decrement by the cell's count and generation, and a held frame by what its port is when it leaves. -/
theorem cellsAndHeldFramesAreReleased : Obligations.CellsAndHeldFramesAreReleased := by
  unfold Obligations.CellsAndHeldFramesAreReleased
  refine ⟨fun s b u gen hup hdie => ?_, fun s d n hup => ?_⟩
  · intro c x pg others run h
    have hrun : ∀ k, h.cellDecr ⟨b.val, u.toNat, gen.toNat⟩ = k → run = .next (s.after k) := fun _ => exec_decrement hup hdie
    have hx : h.cell b.val u.toNat = x := c.txRead_cell _ _ _
    have hothers : ∀ (y : Cell) (t : Chip), t.pool.cells = (h.setCell b.val u.toNat y).pool.cells → others t :=
      fun y t ht e w hne => ((Chip.cell_congr _ ht e w).trans (Chip.cell_setCell_other _ _ hne)).trans (c.txRead_cell _ e w)
    rw [← hx]
    refine ⟨fun hbad => ?_, fun hg hq => ⟨fun hr => ?_, fun hr => ?_, fun hr => ?_⟩⟩
    · exact hrun _ (Chip.cellDecr_underflow (r := ⟨b.val, u.toNat, gen.toNat⟩) hbad)
    · rw [← State.after_of_status]
      · exact hrun _ (Chip.cellDecr_shared (r := ⟨b.val, u.toNat, gen.toNat⟩) hg hq hr)
      · exact c.txRead_smbStatusWord _
    · obtain ⟨hcells, hfree, htraf, honly⟩ := Chip.cellDecr_last (r := ⟨b.val, u.toNat, gen.toNat⟩) hg hq hr
      refine yields_after (hrun _ rfl) ⟨(Chip.cell_congr _ hcells _ _).trans (Chip.cell_setCell ..), hfree,
        hothers _ _ hcells, htraf, Chip.only_settleAlerts ?_⟩
      exact Chip.only_trans (Chip.only_mono (by decide) (c.txRead_only _)) (Chip.only_mono (by decide) honly)
    · obtain ⟨hcells, hunder, hquar, hplaced⟩ := Chip.cellDecr_free (r := ⟨b.val, u.toNat, gen.toNat⟩) hg hq b.isLt hr
      have hregs := c.txRead_regs ⟨b.val, u.toNat, gen.toNat⟩
      refine yields_after (hrun _ rfl) ⟨(Chip.cell_congr _ hcells _ _).trans (Chip.cell_setCell ..),
        hothers _ _ hcells, ?_, ?_, ?_⟩
      · exact hunder.trans (congrArg (· + 1) (Chip.reg_congr _ hregs ..))
      · exact hquar.trans (congrArg (· + 1) (Chip.reg_congr _ hregs ..))
      · exact hplaced.trans (congrArg (·.placed + 1) (c.txRead_ev _))
  · intro c mine run
    have hrun : ∀ k, c.shaperRelease d.val n.val = k → run = .next (s.after k) := fun k hk =>
      exec_gated Chip.mainUp (fun c => c.shaperRelease d.val n.val) rfl hup hk
    refine ⟨fun h => ?_, fun pre x post hq hp hx ho => ?_⟩
    · exact exec_gated_self Chip.mainUp (fun c => c.shaperRelease d.val n.val) rfl hup (Chip.shaperRelease_waits h)
    · intro t mem lost single
      have hgo := Chip.shaperRelease_goes hq hp hx ho
      have hlost : t.lostOf (hLiv x.msg.hdr) = c.lostOf (hLiv x.msg.hdr) := Chip.shaperTake_lostOf _ _
      have hsingle : single → c.shaperRelease d.val n.val = t.redispatch x.lport x.msg := by
        rintro ⟨hput, hmc⟩
        rw [hgo, hput]
        exact if_neg (by simp [hmc])
      refine ⟨fun k hk => hrun _ (by rw [hgo, hk]), fun hk hm => hrun _ (by rw [hgo, hk]; exact if_pos hm),
        fun hs hu hl => hrun _ ((hsingle hs).trans ?_), fun hs hm hl => hrun _ ((hsingle hs).trans ?_),
        fun hs hm hu => hrun _ ((hsingle hs).trans (Chip.redispatch_dropped hm hu))⟩
      · exact Chip.redispatch_place hu (by rwa [hlost])
      · exact Chip.redispatch_held hm (by rwa [hlost])

end Sys2Proof.Machine
end

section
/-! Levels of a pool (R205, R206, R208): what evaluating them makes of the level known before, and what it leaves. -/

namespace Sys2Proof.Machine

/-! The level that follows -/

/-- The threshold of a level: CAUTION, BRAKE or STOP (R206). -/
def levelThr (caution brake stop : Int) (k : Nat) : Int := if k = 1 then caution else if k = 2 then brake else stop

/-- What R205 and R206 say of a level `new` that follows `cur`: the highest level that rises, else as far down as the
hysteresis lets it, and clear without a quota. -/
def LevelFollows (quota cur new : Nat) (free hyst : Int) (thr : Nat → Int) : Prop :=
  (quota = 0 → new = 0) ∧
  (quota ≠ 0 → (∃ k, cur < k ∧ k ≤ 3 ∧ free < thr k) →
    (cur < new ∧ new ≤ 3 ∧ free < thr new) ∧ ∀ k, cur < k ∧ k ≤ 3 ∧ free < thr k → k ≤ new) ∧
  (quota ≠ 0 → (¬ ∃ k, cur < k ∧ k ≤ 3 ∧ free < thr k) →
    new ≤ cur ∧ (∀ k, new < k → k ≤ cur → thr k + hyst ≤ free) ∧ (new = 0 ∨ free < thr new + hyst))

section
variable {free caution brake stop hyst : Int}

/-- `levelOf` is at most 3, its condition holds unless it is clear, and no condition of a higher level holds. -/
theorem levelOf_highest : levelOf free caution brake stop ≤ 3 ∧
    (levelOf free caution brake stop ≠ 0 → free < levelThr caution brake stop (levelOf free caution brake stop)) ∧
    ∀ k, 1 ≤ k → k ≤ 3 → free < levelThr caution brake stop k → k ≤ levelOf free caution brake stop := by
  have hthr : ∀ k, 1 ≤ k → k ≤ 3 → k = 1 ∨ k = 2 ∨ k = 3 := fun k _ _ => by omega
  unfold levelOf
  split_ifs with h3 h2 h1
  · exact ⟨le_rfl, fun _ => h3, fun k _ hk _ => hk⟩
  · refine ⟨by decide, fun _ => h2, fun k hl hk hf => ?_⟩
    obtain rfl | rfl | rfl := hthr k hl hk
    · decide
    · decide
    · exact absurd hf h3
  · refine ⟨by decide, fun _ => h1, fun k hl hk hf => ?_⟩
    obtain rfl | rfl | rfl := hthr k hl hk
    · decide
    · exact absurd hf h2
    · exact absurd hf h3
  · refine ⟨by decide, fun h => absurd rfl h, fun k hl hk hf => ?_⟩
    obtain rfl | rfl | rfl := hthr k hl hk
    · exact absurd hf h1
    · exact absurd hf h2
    · exact absurd hf h3

/-- A level falls past those whose threshold and hysteresis are met, and stays at the first whose are not. -/
def FallsTo (free hyst : Int) (thr : Nat → Int) (n m : Nat) : Prop :=
  m ≤ n ∧ (∀ k, m < k → k ≤ n → thr k + hyst ≤ free) ∧ (m = 0 ∨ free < thr m + hyst)

theorem FallsTo.stays {thr : Nat → Int} {n : Nat} (h : n = 0 ∨ free < thr n + hyst) : FallsTo free hyst thr n n :=
  ⟨le_rfl, fun _ hk hn => absurd hn (not_le.2 hk), h⟩

theorem FallsTo.trans {thr : Nat → Int} {n n' m : Nat} (h : FallsTo free hyst thr n' m) (hn : n' ≤ n)
    (hf : ∀ k, n' < k → k ≤ n → thr k + hyst ≤ free) : FallsTo free hyst thr n m := by
  obtain ⟨hm, hpass, hstop⟩ := h
  refine ⟨hm.trans hn, fun k hk hkn => ?_, hstop⟩
  obtain hle | hlt := le_or_gt k n'
  · exact hpass k hk hle
  · exact hf k hlt hkn

theorem levelFall_fallsTo (n : Nat) : FallsTo free hyst (levelThr caution brake stop) n
    (levelFall free caution brake stop hyst n) := by
  have h1 : FallsTo free hyst (levelThr caution brake stop) 1 (levelFall free caution brake stop hyst 1) := by
    unfold levelFall
    split_ifs with h
    · exact FallsTo.trans (.stays (.inl rfl)) (by decide) fun k hl hk => (show k = 1 by omega) ▸ h
    · exact .stays (.inr (not_le.1 h))
  have h2 : FallsTo free hyst (levelThr caution brake stop) 2 (levelFall free caution brake stop hyst 2) := by
    unfold levelFall
    split_ifs with h
    · exact h1.trans (by decide) fun k hl hk => (show k = 2 by omega) ▸ h
    · exact .stays (.inr (not_le.1 h))
  match n with
  | 0 =>
    unfold levelFall
    exact .stays (.inl rfl)
  | 1 => exact h1
  | 2 => exact h2
  | n + 3 =>
    have hthr : ∀ k, 2 < k → levelThr caution brake stop k = stop := fun k hk =>
      (if_neg (by omega)).trans (if_neg (by omega))
    unfold levelFall
    split_ifs with h
    · exact h2.trans (by omega) fun k hl _ => (hthr k hl).symm ▸ h
    · exact .stays (.inr ((hthr (n + 3) (by omega)).symm ▸ not_le.1 h))

theorem levelFollows (quota cur : Nat) : LevelFollows quota cur
    (if quota = 0 then 0 else if cur < levelOf free caution brake stop then levelOf free caution brake stop
      else levelFall free caution brake stop hyst cur) free hyst (levelThr caution brake stop) := by
  obtain ⟨hle, hholds, hhigh⟩ := levelOf_highest (free := free) (caution := caution) (brake := brake) (stop := stop)
  refine ⟨fun hq => if_pos hq, fun hq hup => ?_, fun hq hno => ?_⟩
  · obtain ⟨k, hk, hk3, hf⟩ := hup
    have hlt : cur < levelOf free caution brake stop := hk.trans_le (hhigh k (by omega) hk3 hf)
    rw [if_neg hq, if_pos hlt]
    exact ⟨⟨hlt, hle, hholds (by omega)⟩, fun j ⟨hj, hj3, hjf⟩ => hhigh j (by omega) hj3 hjf⟩
  · have hnlt : ¬ cur < levelOf free caution brake stop := fun h => hno ⟨_, h, hle, hholds (by omega)⟩
    rw [if_neg hq, if_neg hnlt]
    exact levelFall_fallsTo cur
end

/-! The level of a livery in a pool -/

section
variable (c : Chip) (die pool l : Nat)

/-- The level that evaluating gives (R205, R206). -/
def Chip.nextLevel : Nat :=
  let q := c.quota die pool l
  let free : Int := (q : Int) - (c.used die pool l : Int)
  let caution : Int := c.field (pgPol die) 0x1010 0 16 pool
  let brake : Int := c.field (pgPol die) 0x1010 16 16 pool
  let stop : Int := c.field (pgPol die) 0x1014 0 16 pool
  if q = 0 then 0 else if c.level die pool l < levelOf free caution brake stop then levelOf free caution brake stop
    else levelFall free caution brake stop (c.field (pgPol die) 0x1014 16 16 pool) (c.level die pool l)

def Chip.setLevel (n : Nat) : Chip :=
  { c with pool := { c.pool with level := Tbl.set 0 c.pool.level (usedKey die pool l) n } }

/-- A rise to brake or stop, which is counted and reported (R208). -/
@[reducible] def Chip.Rises : Prop := c.level die pool l < c.nextLevel die pool l ∧ 2 ≤ c.nextLevel die pool l

theorem Chip.evalLevel_rises (h : c.Rises die pool l) : c.evalLevel die pool l =
    ((c.setLevel die pool l (c.nextLevel die pool l)).bump (pgPol die) 0x1108).raise
      (evT (pgPol die) 0x0405 die l pool) := if_pos h

theorem Chip.evalLevel_quiet (h : ¬ c.Rises die pool l) :
    c.evalLevel die pool l = c.setLevel die pool l (c.nextLevel die pool l) := if_neg h

theorem Chip.evalLevel_pool : (c.evalLevel die pool l).pool = (c.setLevel die pool l (c.nextLevel die pool l)).pool := by
  by_cases h : c.Rises die pool l
  · rw [Chip.evalLevel_rises _ _ _ _ h, Chip.raise_pool]
    rfl
  · rw [Chip.evalLevel_quiet _ _ _ _ h]

theorem Chip.evalLevel_level : (c.evalLevel die pool l).level die pool l = c.nextLevel die pool l := by
  rw [Chip.level, Chip.evalLevel_pool, Chip.setLevel, Tbl.get_set_same]

theorem Chip.evalLevel_level_other {k : Nat} (h : k ≠ l) :
    (c.evalLevel die pool l).level die pool k = c.level die pool k := by
  have hk : usedKey die pool k ≠ usedKey die pool l := fun he => h (Nat.add_left_cancel he)
  rw [Chip.level, Chip.evalLevel_pool, Chip.setLevel, Tbl.get_set_other _ _ _ _ hk, Chip.level]

theorem Chip.raised_congr {a b k : Chip} {e : Ev} (hr : Chip.raised b k e) (h : b.ev = a.ev) : Chip.raised a k e := by
  rwa [Chip.raised, h] at hr

theorem Chip.evalLevel_counts : (c.Rises die pool l →
      (c.evalLevel die pool l).reg (pgPol die) 0x1108 = c.reg (pgPol die) 0x1108 + 1 ∧
      Chip.raised c (c.evalLevel die pool l) (evT (pgPol die) 0x0405 die l pool)) ∧
    (¬ c.Rises die pool l →
      (c.evalLevel die pool l).reg (pgPol die) 0x1108 = c.reg (pgPol die) 0x1108 ∧ (c.evalLevel die pool l).ev = c.ev) := by
  refine ⟨fun h => ?_, fun h => ?_⟩
  · rw [Chip.evalLevel_rises _ _ _ _ h]
    refine ⟨?_, Chip.raised_congr (Chip.raise_raised ..) rfl⟩
    rw [Chip.raise_reg_off _ _ (by decide) (by decide), Chip.reg_bump]
    rfl
  · rw [Chip.evalLevel_quiet _ _ _ _ h]
    exact ⟨rfl, rfl⟩
end

/-! What evaluating levels leaves -/

/-- Only levels, the count of rises and the events differ. -/
structure Chip.LevelFrame (a b : Chip) : Prop where
  pool : b.pool = { a.pool with level := b.pool.level }
  reg : ∀ page off inst, off < 0x10000 → off ∉ 0x1108 :: evOffs → b.reg page off inst = a.reg page off inst
  only : Chip.only [.regs, .ev, .snap, .pool] a b

namespace Chip.LevelFrame

variable {a b k : Chip} {die pool l : Nat}

theorem refl (a : Chip) : a.LevelFrame a := ⟨rfl, fun _ _ _ _ _ => rfl, Chip.only_rfl ..⟩

theorem trans (h : a.LevelFrame b) (g : b.LevelFrame k) : a.LevelFrame k :=
  ⟨by rw [g.pool, h.pool], fun p o i ho hn => (g.reg p o i ho hn).trans (h.reg p o i ho hn), Chip.only_trans h.only g.only⟩

theorem evalLevel (a : Chip) (die pool l : Nat) : a.LevelFrame (a.evalLevel die pool l) := by
  obtain ⟨r, e, s, n, h⟩ := a.evalLevel_rest (die := die) (pool := pool) l
  refine ⟨by rw [h], fun p o i ho hn => ?_, by rw [h]; simp [Chip.only]⟩
  rw [List.mem_cons, not_or] at hn
  by_cases hr : a.Rises die pool l
  · rw [Chip.evalLevel_rises _ _ _ _ hr, Chip.raise_reg_off _ _ ho hn.2]
    exact Chip.reg_bump_other _ (regKey_ne_of_off ho (by decide) hn.1)
  · rw [Chip.evalLevel_quiet _ _ _ _ hr]
    rfl

theorem field (h : a.LevelFrame b) (page : Nat) {off : Nat} (lo w inst : Nat) (ho : off < 0x10000)
    (hn : off ∉ 0x1108 :: evOffs) : b.field page off lo w inst = a.field page off lo w inst :=
  congrArg (fld · lo w) (h.reg page off inst ho hn)

theorem quota (h : a.LevelFrame b) : b.quota die pool l = a.quota die pool l :=
  h.field _ _ _ _ (by decide) (by decide)

theorem used (h : a.LevelFrame b) : b.used die pool l = a.used die pool l := by
  rw [Chip.used, h.pool, Chip.used]

theorem nextLevel (h : a.LevelFrame b) (hl : b.level die pool l = a.level die pool l) :
    b.nextLevel die pool l = a.nextLevel die pool l := by
  simp only [Chip.nextLevel, h.quota, h.used, hl]
  rw [h.field _ _ _ _ (by decide) (by decide), h.field _ _ _ _ (by decide) (by decide),
    h.field _ _ _ _ (by decide) (by decide), h.field _ _ _ _ (by decide) (by decide)]

end Chip.LevelFrame

/-- What R205 and R206 say of the level of a livery in `t` that was `cur`. -/
def Chip.levelFollows (t : Chip) (cur die pool l : Nat) : Prop :=
  LevelFollows (t.quota die pool l) cur (t.level die pool l)
    ((t.quota die pool l : Int) - (t.used die pool l : Int)) (t.field (pgPol die) 0x1014 16 16 pool)
    (levelThr (t.field (pgPol die) 0x1010 0 16 pool) (t.field (pgPol die) 0x1010 16 16 pool)
      (t.field (pgPol die) 0x1014 0 16 pool))

theorem Chip.LevelFrame.levelFollows {a b : Chip} {die pool l : Nat} (h : a.LevelFrame b)
    (hl : b.level die pool l = a.nextLevel die pool l) : b.levelFollows (a.level die pool l) die pool l := by
  unfold Chip.levelFollows
  rw [hl, h.quota, h.used, h.field _ _ _ _ (by decide) (by decide), h.field _ _ _ _ (by decide) (by decide),
    h.field _ _ _ _ (by decide) (by decide), h.field _ _ _ _ (by decide) (by decide)]
  exact Sys2Proof.Machine.levelFollows _ _

theorem Chip.LevelFrame.settleAlerts {a b : Chip} (h : a.LevelFrame b) (c : Chip) : a.LevelFrame (Chip.settleAlerts c b) :=
  ⟨by rw [Chip.settleAlerts_pool, h.pool], fun p o i ho hn => (Chip.settleAlerts_reg ..).trans (h.reg p o i ho hn),
    Chip.only_settleAlerts h.only⟩

/-- What a part has of levels, counts and events after one level of `k` has been evaluated. -/
structure Chip.LevelEvaluated (k t : Chip) (die pool l : Nat) : Prop where
  frame : k.LevelFrame t
  level : t.level die pool l = k.nextLevel die pool l
  others : ∀ j, j ≠ l → t.level die pool j = k.level die pool j
  rises : k.Rises die pool l → t.reg (pgPol die) 0x1108 = k.reg (pgPol die) 0x1108 + 1 ∧
    Chip.raised k t (evT (pgPol die) 0x0405 die l pool)
  quiet : ¬ k.Rises die pool l → t.reg (pgPol die) 0x1108 = k.reg (pgPol die) 0x1108 ∧ t.ev = k.ev

theorem Chip.evalLevel_settled (c k : Chip) (die pool l : Nat) :
    k.LevelEvaluated (Chip.settleAlerts c (k.evalLevel die pool l)) die pool l := by
  obtain ⟨hrises, hquiet⟩ := k.evalLevel_counts die pool l
  refine ⟨(Chip.LevelFrame.evalLevel ..).settleAlerts c, ?_, ?_, ?_, ?_⟩
  all_goals simp only [Chip.level, Chip.settleAlerts_pool, Chip.settleAlerts_reg, Chip.settleAlerts_ev, Chip.raised,
    Chip.settleAlerts_time]
  · exact k.evalLevel_level die pool l
  · exact fun j hj => k.evalLevel_level_other die pool l hj
  · exact hrises
  · exact hquiet

/-! The levels of all liveries -/

/-- Evaluating the first `n` liveries' levels (R206). -/
def Chip.evalLevels (c : Chip) (die pool n : Nat) : Chip := forAll (List.range n) c fun l c => c.evalLevel die pool l

/-- Those of the first `n` liveries whose level rises to brake or stop. -/
def Chip.rising (c : Chip) (die pool n : Nat) : List Nat := (List.range n).filter fun l => c.Rises die pool l

section
variable (c : Chip) (die pool n : Nat)

theorem Chip.evalLevels_succ : c.evalLevels die pool (n + 1) = (c.evalLevels die pool n).evalLevel die pool n := by
  simp [Chip.evalLevels, forAll, List.range_succ]

theorem Chip.evalLevels_frame : c.LevelFrame (c.evalLevels die pool n) :=
  forAll_invariant (P := c.LevelFrame) (fun _ _ h => h.trans (.evalLevel ..)) (.refl c)

theorem Chip.evalLevels_level_beyond {k : Nat} (h : n ≤ k) :
    (c.evalLevels die pool n).level die pool k = c.level die pool k := by
  induction n with
  | zero => rfl
  | succ n ih => rw [Chip.evalLevels_succ, Chip.evalLevel_level_other _ _ _ _ (by omega), ih (by omega)]

theorem Chip.evalLevels_nextLevel : (c.evalLevels die pool n).nextLevel die pool n = c.nextLevel die pool n :=
  (c.evalLevels_frame die pool n).nextLevel (c.evalLevels_level_beyond die pool n le_rfl)

theorem Chip.evalLevels_rises : (c.evalLevels die pool n).Rises die pool n ↔ c.Rises die pool n := by
  rw [Chip.Rises, Chip.evalLevels_nextLevel, c.evalLevels_level_beyond die pool n le_rfl, Chip.Rises]

theorem Chip.evalLevels_level {k : Nat} (h : k < n) :
    (c.evalLevels die pool n).level die pool k = c.nextLevel die pool k := by
  induction n with
  | zero => exact absurd h (Nat.not_lt_zero k)
  | succ n ih =>
    rw [Chip.evalLevels_succ]
    obtain hlt | rfl := Nat.lt_succ_iff_lt_or_eq.1 h
    · rw [Chip.evalLevel_level_other _ _ _ _ hlt.ne, ih hlt]
    · rw [Chip.evalLevel_level, Chip.evalLevels_nextLevel]

theorem Chip.rising_succ : c.rising die pool (n + 1) = c.rising die pool n ++ if c.Rises die pool n then [n] else [] := by
  rw [Chip.rising, List.range_succ, List.filter_append, ← Chip.rising, List.filter_singleton, Bool.cond_eq_ite]
  simp only [decide_eq_true_eq]

theorem Chip.mem_rising {k : Nat} : k ∈ c.rising die pool n ↔ k < n ∧ c.Rises die pool k := by
  simp [Chip.rising]

theorem Chip.evalLevels_counts :
    (c.evalLevels die pool n).reg (pgPol die) 0x1108 =
      c.reg (pgPol die) 0x1108 + BitVec.ofNat 32 (c.rising die pool n).length ∧
    (c.evalLevels die pool n).ev.placed = c.ev.placed + (c.rising die pool n).length := by
  induction n with
  | zero => exact ⟨(BitVec.add_zero _).symm, rfl⟩
  | succ n ih =>
    obtain ⟨hreg, hplaced⟩ := ih
    obtain ⟨hup, hno⟩ := (c.evalLevels die pool n).evalLevel_counts die pool n
    rw [Chip.evalLevels_rises] at hup hno
    rw [Chip.evalLevels_succ, Chip.rising_succ]
    by_cases h : c.Rises die pool n
    · obtain ⟨hr, hp, _⟩ := hup h
      rw [hr, hp, hreg, hplaced, if_pos h, List.length_append, List.length_singleton, BitVec.ofNat_add]
      exact ⟨BitVec.add_assoc .., Nat.add_assoc ..⟩
    · obtain ⟨hr, he⟩ := hno h
      rw [hr, he, hreg, hplaced, if_neg h, List.append_nil]
      exact ⟨rfl, rfl⟩

/-- What a part has of levels, counts and events after the levels of the first `n` liveries of `k` have been evaluated. -/
structure Chip.LevelsEvaluated (k t : Chip) (die pool n : Nat) : Prop where
  frame : k.LevelFrame t
  level : ∀ j < n, t.level die pool j = k.nextLevel die pool j
  count : t.reg (pgPol die) 0x1108 = k.reg (pgPol die) 0x1108 + BitVec.ofNat 32 (k.rising die pool n).length
  placed : t.ev.placed = k.ev.placed + (k.rising die pool n).length

theorem Chip.evalLevels_settled (c k : Chip) :
    k.LevelsEvaluated (Chip.settleAlerts c (k.evalLevels die pool n)) die pool n := by
  obtain ⟨hcount, hplaced⟩ := k.evalLevels_counts die pool n
  refine ⟨(k.evalLevels_frame die pool n).settleAlerts c, fun j hj => ?_, ?_, ?_⟩
  · rw [Chip.level, Chip.settleAlerts_pool]
    exact k.evalLevels_level die pool n hj
  · rw [Chip.settleAlerts_reg, hcount]
  · rw [Chip.settleAlerts_ev, hplaced]
end

end Sys2Proof.Machine
end

section
/-! The commands of a POL page (R204, R206, R213): quotas, thresholds, and the release of a quarantined cell. -/

namespace Sys2Proof.Machine

/-! The POL pages -/

theorem pgPol_bounds (die : Nat) : pgSec < pgPol die ∧ pgPol die < 0x400 := by
  unfold pgPol
  split_ifs <;> simp only [pgSec, pgPolP, pgPolC, pgPolB, pgNone] <;> omega

theorem pgPol_dieB {b : Nat} (h : b < 2) : pgPol (28 + b) = pgPolB b := by
  unfold pgPol
  rw [if_neg (by omega), if_neg (by omega), if_pos (by omega), Nat.add_sub_cancel_left]

theorem Chip.smbStatusWord_setPol (c : Chip) (die : Nat) {off : Nat} (v : W32) (inst : Nat) (ho : off < 0x10000) :
    (c.setReg (pgPol die) off v inst).smbStatusWord = c.smbStatusWord :=
  c.smbStatusWord_setReg v inst (pgPol_bounds die).1 (pgPol_bounds die).2 ho

theorem Chip.smbStatusWord_setPolB (c : Chip) {off : Nat} {b : BDie} (v : W32) (inst : Nat) (ho : off < 0x10000) :
    (c.setReg (pgPolB b.val) off v inst).smbStatusWord = c.smbStatusWord :=
  pgPol_dieB b.isLt ▸ c.smbStatusWord_setPol (28 + b.val) v inst ho

section
variable {c : Chip} {die : Nat} {v : W32}

/-! Quotas and thresholds -/

theorem Chip.quotaWrite_off (h : poolOn die (c.selPool die) = false) : c.quotaWrite die v = c := if_pos (by simp [h])

/-- A write that raises the quota and leaves the sum above the limit (R204). -/
def Chip.quotaRefused (c : Chip) (die pool l n : Nat) : Prop :=
  c.quota die pool l < n ∧ c.quotaLimit die pool < c.quotaSum die pool - c.quota die pool l + n

theorem Chip.quotaWrite_refused (hp : poolOn die (c.selPool die) = true)
    (h : c.quotaRefused die (c.selPool die) (c.selPolLiv die) (fld v 0 19)) :
    c.quotaWrite die v = c.setFlag (pgPol die) 0x1024 2 true (c.selPool die) :=
  (if_neg (by simp [hp])).trans (if_pos h)

/-- The part with a quota written, before its level is evaluated. -/
def Chip.withQuota (c : Chip) (die pool l n : Nat) : Chip := c.setReg (pgPol die) 0x1018 (BitVec.ofNat 32 n) (pool * 256 + l)

theorem Chip.quotaWrite_accepted (hp : poolOn die (c.selPool die) = true)
    (h : ¬ c.quotaRefused die (c.selPool die) (c.selPolLiv die) (fld v 0 19)) :
    c.quotaWrite die v = (c.withQuota die (c.selPool die) (c.selPolLiv die) (fld v 0 19)).evalLevel die (c.selPool die)
      (c.selPolLiv die) :=
  (if_neg (by simp [hp])).trans (if_neg h)

theorem Chip.quota_withQuota {pool l n : Nat} (hn : n < 2 ^ 19) : (c.withQuota die pool l n).quota die pool l = n := by
  rw [Chip.quota, Chip.field, Chip.withQuota, Chip.reg_setReg, fld_ofNat _ (by decide), pow_zero, Nat.div_one,
    Nat.mod_eq_of_lt hn]

theorem Chip.quota_withQuota_other {pool l n k : Nat} (hk : k ≠ l) :
    (c.withQuota die pool l n).quota die pool k = c.quota die pool k := by
  have hne : regKey (pgPol die) 0x1018 (pool * 256 + k) ≠ regKey (pgPol die) 0x1018 (pool * 256 + l) := fun h =>
    hk (Nat.add_left_cancel (regKey_inj (pgPol_bounds die).2 (by decide) (pgPol_bounds die).2 (by decide) h).2.2)
  rw [Chip.quota, Chip.field, Chip.withQuota, Chip.reg_setReg_other _ _ hne, Chip.quota, Chip.field]

variable {second : Bool}

theorem Chip.thrWrite_off (h : poolOn die (c.selPool die) = false) : c.thrWrite die second v = c := if_pos (by simp [h])

/-- CAUTION, BRAKE and STOP in order, as the write would leave them (R206). -/
def Chip.thrOrdered (c : Chip) (die pool : Nat) (second : Bool) (v : W32) : Prop :=
  let a := if second then c.reg (pgPol die) 0x1010 pool else v
  let b := if second then v else c.reg (pgPol die) 0x1014 pool
  fld a 16 16 ≤ fld a 0 16 ∧ fld b 0 16 ≤ fld a 16 16

theorem Chip.thrWrite_refused (hp : poolOn die (c.selPool die) = true) (h : ¬ c.thrOrdered die (c.selPool die) second v) :
    c.thrWrite die second v = c.setFlag (pgPol die) 0x1024 3 true (c.selPool die) :=
  (if_neg (by simp [hp])).trans (if_neg h)

/-- The part with a threshold register written, before the levels are evaluated. -/
def Chip.withThr (c : Chip) (die pool : Nat) (second : Bool) (v : W32) : Chip :=
  c.setReg (pgPol die) (if second then 0x1014 else 0x1010) v pool

theorem Chip.thrWrite_accepted (hp : poolOn die (c.selPool die) = true) (h : c.thrOrdered die (c.selPool die) second v) :
    c.thrWrite die second v = (c.withThr die (c.selPool die) second v).evalLevels die (c.selPool die) 256 :=
  (if_neg (by simp [hp])).trans (if_pos h)

theorem Chip.reg_withThr {pool : Nat} : (c.withThr die pool second v).reg (pgPol die) 0x1010 pool =
      (if second then c.reg (pgPol die) 0x1010 pool else v) ∧
    (c.withThr die pool second v).reg (pgPol die) 0x1014 pool = (if second then v else c.reg (pgPol die) 0x1014 pool) := by
  cases second
  · exact ⟨c.reg_setReg .., c.reg_setReg_off _ (by decide) (by decide) (by decide)⟩
  · exact ⟨c.reg_setReg_off _ (by decide) (by decide) (by decide), c.reg_setReg ..⟩

theorem Chip.reg_withThr_other {pool page off inst : Nat} (ho : off < 0x10000) (h : off ≠ 0x1010 ∧ off ≠ 0x1014) :
    (c.withThr die pool second v).reg page off inst = c.reg page off inst :=
  c.reg_setReg_off _ (by split <;> decide) ho (by split <;> tauto)
end

/-! Quarantine (R213) -/

section
variable {c : Chip} {b : Nat} {v : W32}

/-- RELEASE of a quarantined cell while no test runs. -/
def Chip.quarStarts (c : Chip) (b : Nat) (v : W32) : Prop :=
  v.getLsbD 31 = true ∧ Tbl.get none c.pool.quarRun b = none ∧ (c.cell b (fld v 0 18)).quarantined = true

/-- What POL_QUAR_CTRL reads after a write. -/
def Chip.quarWord (c : Chip) (b : Nat) (v : W32) : W32 :=
  BitVec.ofNat 32 (fld v 0 18 + if Tbl.get none c.pool.quarRun b = none then 0 else 0x80000000)

theorem Chip.quarWrite_eq : c.quarWrite b v =
    let k := c.setReg (pgPolB b) 0x1028 (c.quarWord b v)
    if v.getLsbD 31 && !(Tbl.get none c.pool.quarRun b).isSome && (c.cell b (fld v 0 18)).quarantined then
      { (k.setFlag (pgPolB b) 0x1028 31 true).setFlag (pgPolB b) 0x102C 0 true with
        pool := { c.pool with quarRun := Tbl.set none c.pool.quarRun b (some (fld v 0 18)) } }
    else k := by
  have hword : fld v 0 18 + (Tbl.get none c.pool.quarRun b).isSome.toNat * 0x80000000 =
      fld v 0 18 + if Tbl.get none c.pool.quarRun b = none then 0 else 0x80000000 := by
    cases Tbl.get none c.pool.quarRun b <;> simp
  unfold Chip.quarWrite
  dsimp only
  rw [hword]
  rfl

theorem Chip.quarWrite_waits (h : ¬ c.quarStarts b v) :
    c.quarWrite b v = c.setReg (pgPolB b) 0x1028 (c.quarWord b v) := by
  rw [Chip.quarWrite_eq]
  exact if_neg (by simpa [Chip.quarStarts, and_assoc] using h)

/-- The registers when the test of a quarantined cell starts: BUSY in POL_QUAR_CTRL, and RUN. -/
def Chip.quarBegun (c : Chip) (b u : Nat) : Chip :=
  ((c.setReg (pgPolB b) 0x1028 (BitVec.ofNat 32 u)).setFlag (pgPolB b) 0x1028 31 true).setFlag (pgPolB b) 0x102C 0 true

theorem Chip.quarWrite_starts (h : c.quarStarts b v) : c.quarWrite b v =
    { c.quarBegun b (fld v 0 18) with
      pool := { c.pool with quarRun := Tbl.set none c.pool.quarRun b (some (fld v 0 18)) } } := by
  rw [Chip.quarWrite_eq]
  refine (if_pos (by simpa [Chip.quarStarts, and_assoc] using h)).trans ?_
  rw [Chip.quarWord, if_pos h.2.1, Nat.add_zero, Chip.quarBegun]

/-- The faults that March SS finds in the words of a cell. -/
def quarFaults (w : Nat) (reads : List MarchRead) : Option MarchRead :=
  marchFirst 1 false (reads.filter fun r => decide (r.word.toNat / 32 = w % 2048))

/-- The flags at the end of a test: BUSY and RUN clear, LAST_FAIL as the test says. -/
def Chip.quarFlags (c : Chip) (b : Nat) (failed : Bool) : Chip :=
  ((c.setFlag (pgPolB b) 0x1028 31 false).setFlag (pgPolB b) 0x102C 0 false).setFlag (pgPolB b) 0x102C 1 failed

/-- The part at the end of a test, before its cell is released. -/
def Chip.quarEnded (c : Chip) (b : Nat) (failed : Bool) : Chip :=
  { c.quarFlags b failed with
    pool := { c.pool with quarRun := Tbl.set none c.pool.quarRun b none } }

/-- A cell that has passed its test, before it is given back. -/
def Chip.quarPassed (c : Chip) (b w : Nat) : Chip :=
  (c.quarEnded b false).setCell b w { c.cell b w with quarantined := false, refs := 0 }

section
variable (c : Chip) (b w : Nat)

theorem Chip.quarPassed_quarRun : Tbl.get none (c.quarPassed b w).pool.quarRun b = none := Tbl.get_set_same ..

theorem Chip.quarPassed_unitOwner (die pool u : Nat) :
    (c.quarPassed b w).unitOwner die pool u = c.unitOwner die pool u := (rfl)

theorem Chip.quarPassed_used (die pool l : Nat) : (c.quarPassed b w).used die pool l = c.used die pool l := (rfl)

theorem Chip.quarPassed_levels : (c.quarPassed b w).pool.level = c.pool.level := (rfl)

theorem Chip.quarPassed_flag (page off i inst : Nat) :
    (c.quarPassed b w).flag page off i inst = (c.quarEnded b false).flag page off i inst := by
  rw [Chip.flag, Chip.quarPassed, Chip.reg_setCell, Chip.flag]

theorem Chip.level_congr {c k : Chip} (h : k.pool.level = c.pool.level) {die pool l : Nat} :
    k.level die pool l = c.level die pool l := by
  rw [Chip.level, h, Chip.level]
end

variable {reads : List MarchRead} {w : Nat}

theorem Chip.quarDone_idle (h : Tbl.get none c.pool.quarRun b = none) : c.quarDone b reads = c := by
  rw [Chip.quarDone, h]

theorem Chip.quarDone_fails (h : Tbl.get none c.pool.quarRun b = some w) (hf : quarFaults w reads ≠ none) :
    c.quarDone b reads = c.quarEnded b true := by
  have hpass : (quarFaults w reads).isNone = false := Option.isNone_eq_false_iff.2 (Option.isSome_iff_ne_none.2 hf)
  unfold Chip.quarDone
  rw [h]
  unfold quarFaults at hpass
  dsimp only
  rw [hpass]
  rfl

theorem Chip.quarDone_releases (h : Tbl.get none c.pool.quarRun b = some w) (hf : quarFaults w reads = none) :
    c.quarDone b reads = (c.quarPassed b w).releaseUnit (28 + b) 3 w := by
  have hpass : (quarFaults w reads).isNone = true := by rw [hf]; rfl
  unfold Chip.quarDone
  rw [h]
  unfold quarFaults at hpass
  dsimp only
  rw [hpass]
  rfl

theorem Chip.quarFlags_flags (failed : Bool) : (c.quarFlags b failed).flag (pgPolB b) 0x1028 31 = false ∧
    (c.quarFlags b failed).flag (pgPolB b) 0x102C 0 = false ∧ (c.quarFlags b failed).flag (pgPolB b) 0x102C 1 = failed := by
  unfold Chip.quarFlags
  refine ⟨?_, ?_, Chip.flag_setFlag _ _ _ _ _ _ (by decide)⟩
  · rw [Chip.flag_setFlag_off _ _ (by decide) (by decide) (by decide),
      Chip.flag_setFlag_off _ _ (by decide) (by decide) (by decide),
      Chip.flag_setFlag _ _ _ _ _ _ (by decide)]
  · rw [Chip.flag_setFlag_other _ _ _ _ _ _ _ (by decide), Chip.flag_setFlag _ _ _ _ _ _ (by decide)]

theorem Chip.flag_withPool (x : PoolSt) (page off i inst : Nat) :
    ({ c with pool := x } : Chip).flag page off i inst = c.flag page off i inst := (rfl)

theorem Chip.quarEnded_flags (failed : Bool) : (c.quarEnded b failed).flag (pgPolB b) 0x1028 31 = false ∧
    (c.quarEnded b failed).flag (pgPolB b) 0x102C 0 = false ∧ (c.quarEnded b failed).flag (pgPolB b) 0x102C 1 = failed := by
  simp only [Chip.quarEnded, Chip.flag_withPool]
  exact Chip.quarFlags_flags failed

theorem Chip.quarFlags_only (failed : Bool) : Chip.only [.regs] c (c.quarFlags b failed) :=
  Chip.only_trans (Chip.only_trans (c.setReg_only ..) (Chip.setReg_only ..)) (Chip.setReg_only ..)

theorem Chip.quarEnded_only (failed : Bool) : Chip.only [.regs, .pool] c (c.quarEnded b failed) :=
  Chip.only_trans (Chip.only_mono (by decide) (Chip.quarFlags_only (b := b) failed))
    (Chip.only_mono (by decide) (Chip.only_withPool ..))

/-- BUSY stands above the cell's number. -/
theorem putFld_busy {u : Nat} (hu : u < 2 ^ 18) : putFld (BitVec.ofNat 32 u) 31 1 1 = BitVec.ofNat 32 (u + 0x80000000) := by
  apply BitVec.eq_of_toNat_eq
  have hmod : u % 2 ^ 32 = u := Nat.mod_eq_of_lt (by omega)
  have hmask : (~~~(BitVec.ofNat 32 ((2 ^ 1 - 1) <<< 31))).toNat = 2 ^ 31 - 1 := by decide
  have hor : 2 ^ 31 * 1 + u = 2 ^ 31 ||| u := Nat.two_pow_add_eq_or_of_lt (by omega) 1
  have hbit : (BitVec.ofNat 32 ((1 % 2 ^ 1) <<< 31)).toNat = 2 ^ 31 := by decide
  rw [putFld, BitVec.toNat_or, BitVec.toNat_and, hmask, hbit, BitVec.toNat_ofNat, hmod, Nat.and_two_pow_sub_one_eq_mod,
    Nat.mod_eq_of_lt (show u < 2 ^ 31 by omega), Nat.or_comm, ← hor,
    BitVec.toNat_ofNat]
  omega

theorem Chip.quarBegun_regs {u : Nat} (hu : u < 2 ^ 18) :
    (c.quarBegun b u).reg (pgPolB b) 0x1028 = BitVec.ofNat 32 (u + 0x80000000) ∧
      (c.quarBegun b u).flag (pgPolB b) 0x102C 0 = true := by
  refine ⟨?_, Chip.flag_setFlag _ _ _ _ _ _ (by decide)⟩
  rw [Chip.quarBegun, Chip.setFlag, Chip.setField, Chip.reg_setReg_off _ (by decide) (by decide) (by decide), Chip.setFlag,
    Chip.setField, Chip.reg_setReg, Chip.reg_setReg]
  exact putFld_busy hu

theorem Chip.quarBegun_only (u : Nat) : Chip.only [.regs] c (c.quarBegun b u) :=
  Chip.only_trans (Chip.only_trans (c.setReg_only ..) (Chip.setReg_only ..)) (Chip.setReg_only ..)
end

/-! A unit of a livery is given back (R203, R206) -/

section
variable {c : Chip} {die pool u l : Nat}

/-- Its count of units falls, and its level is evaluated. -/
theorem Chip.releaseUnit_livery (h : c.unitOwner die pool u = l + 1) (hl : l ≠ ctlOwner) : ∃ m : Chip,
    c.releaseUnit die pool u = m.evalLevel die pool l ∧ m.used die pool l = c.used die pool l - 1 ∧
    m.pool.level = c.pool.level := by
  obtain ⟨r, b, hb⟩ := c.bankAccess_rest die (unitBank pool u)
  unfold Chip.releaseUnit
  rw [h, hb]
  dsimp only
  rw [if_neg hl]
  exact ⟨_, rfl, Tbl.get_set_same .., rfl⟩

/-- Registers below the MEM page that no evaluation and no event writes. -/
theorem Chip.releaseUnit_reg {page off inst : Nat} (ho : off < 0x10000) (hn : off ∉ 0x1108 :: evOffs)
    (hk : regKey page off inst < pgMem die * 0x10000) :
    (c.releaseUnit die pool u).reg page off inst = c.reg page off inst := by
  have hbank : (c.bankAccess die (unitBank pool u)).reg page off inst = c.reg page off inst := c.bankAccess_reg_below _ hk
  unfold Chip.releaseUnit
  split
  · rfl
  · dsimp only
    split
    · rw [Chip.reg_withPool, Chip.reg_active, hbank]
    · rw [(Chip.LevelFrame.evalLevel ..).reg _ _ _ ho hn, Chip.reg_withPool, Chip.reg_active, hbank]
end

/-! The commands -/

section
variable {s : State} {die : Die} {v : W32}

theorem exec_quotaWrite {k : Chip} (h : s.chip.serves (pgPol die.val) = true) (hk : s.chip.quotaWrite die.val v = k) :
    exec (.polQuotaWrite die v) s = .next (s.after k) :=
  exec_gated (fun c => c.serves (pgPol die.val)) (fun c => c.quotaWrite die.val v) rfl h hk

theorem exec_thrWrite {second : Bool} {k : Chip} (h : s.chip.serves (pgPol die.val) = true)
    (hk : s.chip.thrWrite die.val second v = k) : exec (.polThrWrite die second v) s = .next (s.after k) :=
  exec_gated (fun c => c.serves (pgPol die.val)) (fun c => c.thrWrite die.val second v) rfl h hk

variable {b : BDie}

theorem exec_quarWrite {k : Chip} (h : s.chip.serves (pgPolB b.val) = true) (hk : s.chip.quarWrite b.val v = k) :
    exec (.quarantineRelease b v) s = .next (s.after k) :=
  exec_gated (fun c => c.serves (pgPolB b.val)) (fun c => c.quarWrite b.val v) rfl h hk

theorem exec_quarDone {reads : List MarchRead} {k : Chip} (h : s.chip.serves (pgPolB b.val) = true)
    (hk : s.chip.quarDone b.val reads = k) : exec (.quarantineReleaseDone b reads) s = .next (s.after k) :=
  exec_gated (fun c => c.serves (pgPolB b.val)) (fun c => c.quarDone b.val reads) rfl h hk
end

/-- A level rises to brake or stop where the level that evaluating gives does. -/
theorem Chip.rises_iff {c : Chip} {die pool l m : Nat} (h : m = c.nextLevel die pool l) :
    c.level die pool l < m ∧ 2 ≤ m ↔ c.Rises die pool l := by rw [h, Chip.Rises]

/-- Settles O48: quotas and thresholds by the level that evaluating gives, and a quarantined cell by the end of its test. -/
theorem poolsKeepQuotasLevelsAndQuarantine : Obligations.PoolsKeepQuotasLevelsAndQuarantine := by
  unfold Obligations.PoolsKeepQuotasLevelsAndQuarantine
  intro levels rose
  refine ⟨fun s die v hserves => ?_, fun s b v hserves => ?_⟩
  · intro c d pg pool l n above rest
    have hput : ∀ (off : Nat) (x : W32) (inst : Nat), off < 0x10000 →
        s.after (c.setReg pg off x inst) = s.put (c.setReg pg off x inst) :=
      fun off x inst ho => State.after_of_status (c.smbStatusWord_setPol d x inst ho)
    refine ⟨fun hp => ⟨?_, fun second => ?_⟩, fun hp habove => ?_, fun hp hok => ?_, fun second => ?_⟩
    · exact exec_gated_self (fun c => c.serves pg) (fun c => c.quotaWrite d v) rfl hserves (Chip.quotaWrite_off hp)
    · exact exec_gated_self (fun c => c.serves pg) (fun c => c.thrWrite d second v) rfl hserves (Chip.thrWrite_off hp)
    · rw [Chip.setFlag, Chip.setField, ← hput _ _ _ (by decide)]
      exact exec_quotaWrite hserves (Chip.quotaWrite_refused hp habove)
    · obtain ⟨t, hrun, hpend, hframe, hlevel, hothers, hup, hno⟩ :=
        yields_after (Q := ((c.withQuota d pool l n).LevelEvaluated · d pool l))
          (exec_quotaWrite hserves (Chip.quotaWrite_accepted hp hok)) (Chip.evalLevel_settled ..)
      have hcount : (c.withQuota d pool l n).reg pg 0x1108 = c.reg pg 0x1108 :=
        c.reg_setReg_off _ (by decide) (by decide) (by decide)
      rw [hcount, ← Chip.rises_iff hlevel] at hup hno
      refine ⟨t, hrun, hpend, hframe.quota.trans (Chip.quota_withQuota (fld_lt ..)),
        fun j _ hj => ⟨hframe.quota.trans (Chip.quota_withQuota_other hj), hothers j hj⟩,
        hframe.levelFollows hlevel, hup, hno, hframe.pool, ?_⟩
      exact Chip.only_trans (Chip.only_mono (by decide) (c.setReg_only ..)) hframe.only
    · intro a b ordered
      refine ⟨fun hp hno => ?_, fun hp hok => ?_⟩
      · rw [Chip.setFlag, Chip.setField, ← hput _ _ _ (by decide)]
        exact exec_thrWrite hserves (Chip.thrWrite_refused hp hno)
      · obtain ⟨t, hrun, hpend, hframe, hlevel, hcount, hplaced⟩ :=
          yields_after (Q := ((c.withThr d pool second v).LevelsEvaluated · d pool 256))
            (exec_thrWrite hserves (Chip.thrWrite_accepted hp hok)) (Chip.evalLevels_settled ..)
        obtain ⟨ha, hb⟩ := Chip.reg_withThr (c := c) (die := d) (pool := pool) (second := second) (v := v)
        have hother : ∀ off inst, off < 0x10000 → off ≠ 0x1010 ∧ off ≠ 0x1014 →
            (c.withThr d pool second v).reg pg off inst = c.reg pg off inst := fun _ _ => Chip.reg_withThr_other
        refine ⟨t, hrun, hpend, (hframe.reg _ _ _ (by decide) (by decide)).trans ha,
          (hframe.reg _ _ _ (by decide) (by decide)).trans hb,
          fun j hj => ⟨hframe.quota.trans ?_, hframe.levelFollows (hlevel j hj)⟩,
          ⟨_, ?_, fun j => ?_, ?_, hplaced⟩, hframe.pool, ?_⟩
        · exact congrArg (fld · 0 19) (hother _ _ (by decide) (by decide))
        · exact List.nodup_range.filter _
        · rw [Chip.mem_rising]
          exact and_congr_right fun hj => (Chip.rises_iff (hlevel j hj)).symm
        · exact hcount.trans (congrArg (· + _) (hother _ _ (by decide) (by decide)))
        · exact Chip.only_trans (Chip.only_mono (by decide) (c.setReg_only ..)) hframe.only
  · rw [pgPol_dieB b.isLt] at hserves ⊢
    intro c pg run u starts
    refine ⟨fun hno => ?_, fun hst => ?_, fun reads hr => ?_, fun w reads hr => ?_⟩
    · rw [← State.after_of_status (c.smbStatusWord_setPolB _ _ (by decide))]
      exact exec_quarWrite hserves (Chip.quarWrite_waits hno)
    · refine yields_after (exec_quarWrite hserves (Chip.quarWrite_starts hst)) ?_
      obtain ⟨hword, hrun⟩ := Chip.quarBegun_regs (c := c) (b := b.val) (fld_lt v 0 18)
      refine ⟨Tbl.get_set_same .., ?_, ?_, rfl, Chip.only_settleAlerts ?_⟩
      · rw [Chip.settleAlerts_reg, Chip.reg_withPool, hword]
      · rw [Chip.settleAlerts_flag, Chip.flag_withPool, hrun]
      · exact Chip.only_trans (Chip.only_mono (by decide) (Chip.quarBegun_only _))
          (Chip.only_mono (by decide) (Chip.only_withPool ..))
    · rw [exec_quarDone hserves (Chip.quarDone_idle hr), State.after, Chip.settleAlerts_of_status rfl]
    · intro first
      refine ⟨fun hf => ?_, fun hf => ?_⟩
      · refine yields_after (exec_quarDone hserves (Chip.quarDone_fails hr hf)) ?_
        obtain ⟨hbusy, hrun, hfail⟩ := Chip.quarEnded_flags (c := c) (b := b.val) true
        refine ⟨Tbl.get_set_same .., ?_, ?_, ?_, rfl, Chip.only_settleAlerts (Chip.quarEnded_only _)⟩
        · exact (Chip.settleAlerts_flag ..).trans hbusy
        · exact (Chip.settleAlerts_flag ..).trans hrun
        · exact (Chip.settleAlerts_flag ..).trans hfail
      · refine yields_after (exec_quarDone hserves (Chip.quarDone_releases hr hf)) ?_
        obtain ⟨hbusy, -, hfail⟩ := Chip.quarEnded_flags (c := c) (b := b.val) false
        refine ⟨?_, ?_, ?_, ?_, Chip.releaseUnit_frees, fun l hl hown => ?_, Chip.only_settleAlerts ?_⟩
        · rw [Chip.settleAlerts_pool, Chip.releaseUnit_quarRun, Chip.quarPassed_quarRun]
        · rw [Chip.settleAlerts_flag, Chip.flag, Chip.releaseUnit_reg (by decide) (by decide)
            (regKey_pgPolB_below b.isLt (by decide)), ← Chip.flag, Chip.quarPassed_flag, hbusy]
        · rw [Chip.settleAlerts_flag, Chip.flag, Chip.releaseUnit_reg (by decide) (by decide)
            (regKey_pgPolB_below b.isLt (by decide)), ← Chip.flag, Chip.quarPassed_flag, hfail]
        · exact (Chip.cell_congr _ (Chip.releaseUnit_cells _) _ _).trans (Chip.cell_setCell ..)
        · obtain ⟨m, hm, hused, hlevels⟩ := Chip.releaseUnit_livery ((Chip.quarPassed_unitOwner ..).trans hown)
            (by simp only [ctlOwner]; omega)
          rw [hm]
          obtain ⟨hframe, hlevel, -⟩ := Chip.evalLevel_settled c m (28 + b.val) 3 l
          generalize Chip.settleAlerts c (m.evalLevel (28 + b.val) 3 l) = t at *
          have hfollows := hframe.levelFollows hlevel
          rw [Chip.level_congr (hlevels.trans (Chip.quarPassed_levels ..))] at hfollows
          exact ⟨hframe.used.trans (hused.trans (congrArg (· - 1) (Chip.quarPassed_used ..))), hfollows⟩
        · refine Chip.only_trans (Chip.only_mono (by decide) (Chip.quarEnded_only (b := b.val) false)) ?_
          exact Chip.only_trans (Chip.only_mono (by decide) (Chip.setCell_only ..))
            (Chip.only_mono (by decide) (Chip.releaseUnit_changes _))

end Sys2Proof.Machine
end

section
/-! One cell time's match of inputs with outputs (R286, R288): what it takes are requests, no input and no output twice. -/

namespace Sys2Proof.Machine

/-! Lists -/

theorem mem_distinct {a : Nat} {xs : List Nat} : a ∈ distinct xs ↔ a ∈ xs := by
  induction xs with
  | nil => rfl
  | cons x xs ih =>
    unfold distinct
    split_ifs with hx
    · rw [ih, List.mem_cons, iff_or_self]
      rintro rfl
      exact List.contains_iff_mem.1 hx
    · rw [List.mem_cons, List.mem_cons, ih]

theorem nodup_distinct (xs : List Nat) : (distinct xs).Nodup := by
  induction xs with
  | nil => exact List.nodup_nil
  | cons x xs ih =>
    unfold distinct
    split_ifs with hx
    · exact ih
    · exact List.nodup_cons.2 ⟨fun h => hx (List.contains_iff_mem.2 (mem_distinct.1 h)), ih⟩

/-- A choice that keeps its key keeps distinct keys distinct. -/
theorem nodup_map_filterMap {α β : Type} {f : β → Option α} {key : α → β} (hf : ∀ b a, f b = some a → key a = b)
    {bs : List β} (h : bs.Nodup) : ((bs.filterMap f).map key).Nodup := by
  refine h.sublist ?_
  induction bs with
  | nil => exact List.Sublist.slnil
  | cons b bs ih =>
    have ih := ih (List.nodup_cons.1 h).2
    cases hb : f b with
    | none => simpa [List.filterMap_cons, hb] using ih.cons b
    | some a => simpa [List.filterMap_cons, hb, hf b a hb] using ih.cons_cons b

/-! The choice of one request -/

theorem firstAt_mem {f : XReq → Nat} {ptr : Nat} {r : XReq} : ∀ {rs : List XReq}, firstAt f ptr rs = some r → r ∈ rs
  | [], h => absurd h (by simp [firstAt])
  | x :: xs, h => by
    unfold firstAt at h
    split at h
    · exact List.mem_cons.2 (.inl (Option.some.inj h).symm)
    · next b hb =>
      split_ifs at h
      · exact List.mem_cons_of_mem _ (firstAt_mem (hb.trans h))
      · exact List.mem_cons.2 (.inl (Option.some.inj h).symm)

theorem mem_of_mem_lowestLevel {r : XReq} {rs : List XReq} (h : r ∈ lowestLevel rs) : r ∈ rs := (List.mem_filter.1 h).1

/-- The request chosen among those whose `key` is `o`, by a pointer that its level picks. -/
def chosen (key pos : XReq → Nat) (ptr : Nat → Nat → Nat) (rs : List XReq) (o : Nat) : Option XReq :=
  let mine := lowestLevel (rs.filter (fun r => decide (key r = o)))
  match mine with
  | [] => none
  | r :: _ => firstAt pos (ptr o r.lv) mine

theorem chosen_spec {key pos : XReq → Nat} {ptr : Nat → Nat → Nat} {rs : List XReq} {o : Nat} {r : XReq}
    (h : chosen key pos ptr rs o = some r) : r ∈ rs ∧ key r = o := by
  unfold chosen at h
  dsimp only at h
  split at h
  · exact absurd h (Option.some_ne_none r).symm
  · exact (List.mem_filter.1 (mem_of_mem_lowestLevel (firstAt_mem h))).imp_right of_decide_eq_true

/-- The grants, or the accepts, of one iteration: one choice for each key. -/
def choices (key pos : XReq → Nat) (ptr : Nat → Nat → Nat) (rs : List XReq) : List XReq :=
  (distinct (rs.map key)).filterMap (chosen key pos ptr rs)

section
variable {key pos : XReq → Nat} {ptr : Nat → Nat → Nat} {rs : List XReq}

theorem choices_subset : choices key pos ptr rs ⊆ rs := fun _ h =>
  let ⟨_, _, hr⟩ := List.mem_filterMap.1 h
  (chosen_spec hr).1

theorem choices_nodup : ((choices key pos ptr rs).map key).Nodup :=
  nodup_map_filterMap (key := key) (f := chosen key pos ptr rs) (fun _ _ h => (chosen_spec h).2) (nodup_distinct _)

/-- What is distinct among all is distinct among those chosen. -/
theorem choices_nodup_other {f : XReq → Nat} (h : (rs.map f).Nodup) : ((choices key pos ptr rs).map f).Nodup :=
  List.Nodup.map_on (fun _ hx _ hy he => List.inj_on_of_nodup_map h (choices_subset hx) (choices_subset hy) he)
    choices_nodup.of_map
end

/-! An iteration -/

theorem xRound_eq (gptr aptr : Tbl Nat) (rs : List XReq) : xRound gptr aptr rs =
    choices (·.i) (·.o) (fun i lv => Tbl.get 0 aptr (ptrKey i lv))
      (choices (·.o) (·.i) (fun o lv => Tbl.get 0 gptr (ptrKey o lv)) rs) := rfl

/-- Requests of `rs` that form a match: no input and no output twice. -/
structure Matches (rs ms : List XReq) : Prop where
  subset : ms ⊆ rs
  ins : (ms.map (·.i)).Nodup
  outs : (ms.map (·.o)).Nodup

theorem xRound_matches (gptr aptr : Tbl Nat) (rs : List XReq) : Matches rs (xRound gptr aptr rs) := by
  rw [xRound_eq]
  exact ⟨fun _ h => choices_subset (choices_subset h), choices_nodup, choices_nodup_other choices_nodup⟩

theorem mem_xFree {rs ms : List XReq} {r : XReq} : r ∈ xFree rs ms ↔ r ∈ rs ∧ ∀ m ∈ ms, m.i ≠ r.i ∧ m.o ≠ r.o := by
  simp [xFree]

theorem nodup_map_append {f : XReq → Nat} {ms ns : List XReq} (h : (ms.map f).Nodup) (g : (ns.map f).Nodup)
    (hd : ∀ n ∈ ns, ∀ m ∈ ms, f m ≠ f n) : ((ms ++ ns).map f).Nodup := by
  rw [List.map_append, List.nodup_append]
  refine ⟨h, g, fun x hx y hy => ?_⟩
  obtain ⟨m, hm, rfl⟩ := List.mem_map.1 hx
  obtain ⟨n, hn, rfl⟩ := List.mem_map.1 hy
  exact hd n hn m hm

/-- A match and a match of the requests that it leaves free are one match. -/
theorem Matches.append {rs ms ns : List XReq} (h : Matches rs ms) (g : Matches (xFree rs ms) ns) :
    Matches rs (ms ++ ns) := by
  have hfree : ∀ n ∈ ns, n ∈ rs ∧ ∀ m ∈ ms, m.i ≠ n.i ∧ m.o ≠ n.o := fun n hn => mem_xFree.1 (g.subset hn)
  refine ⟨fun r hr => ?_, ?_, ?_⟩
  · exact (List.mem_append.1 hr).elim (fun hm => h.subset hm) (fun hn => (hfree r hn).1)
  · exact nodup_map_append h.ins g.ins fun n hn m hm => ((hfree n hn).2 m hm).1
  · exact nodup_map_append h.outs g.outs fun n hn m hm => ((hfree n hn).2 m hm).2

end Sys2Proof.Machine
end

section
/-! One cell leaves a virtual output queue (R22, R256, R287, R288, R321): which frame it is of, and what else changes. -/

namespace Sys2Proof.Machine

/-! Tables -/

theorem Tbl.get_mem {β : Type} (d : β) {m : Tbl β} {k : Nat} : Tbl.get d m k = d ∨ (k, Tbl.get d m k) ∈ m := by
  induction m with
  | nil => exact .inl rfl
  | cons p m ih =>
    obtain ⟨j, v⟩ := p
    unfold Tbl.get
    split_ifs with h
    · exact .inr (List.mem_cons.2 (.inl (by rw [h])))
    · exact ih.imp_right (List.mem_cons_of_mem _)

theorem Tbl.mem_set {β : Type} [DecidableEq β] {d : β} {m : Tbl β} {k : Nat} {v : β} {p : Nat × β}
    (h : p ∈ Tbl.set d m k v) : p = (k, v) ∨ p ∈ m := by
  rw [Tbl.set_eq] at h
  split_ifs at h
  · rw [Tbl.erase_eq_filter] at h
    exact .inr (List.mem_filter.1 h).1
  · rw [Tbl.mem_insert, Tbl.erase_eq_filter] at h
    exact h.imp_right fun h => (List.mem_filter.1 h).1

/-! What a control frame that the flow control sends leaves (R256) -/

/-- Only registers from the page of port die 0 on, links and the egress ports differ. -/
structure Chip.CtlFrame (a b : Chip) : Prop where
  traf : ∃ e, b.traf = { a.traf with eg := e }
  reg : ∀ page off inst, regKey page off inst < pgPrt 0 * 0x10000 → b.reg page off inst = a.reg page off inst
  only : Chip.only [.regs, .traf, .port] a b

namespace Chip.CtlFrame

variable {a b k : Chip}

theorem refl (a : Chip) : a.CtlFrame a := ⟨⟨_, rfl⟩, fun _ _ _ _ => rfl, Chip.only_rfl ..⟩

theorem trans (h : a.CtlFrame b) (g : b.CtlFrame k) : a.CtlFrame k := by
  obtain ⟨e, he⟩ := h.traf
  obtain ⟨e', he'⟩ := g.traf
  exact ⟨⟨e', by rw [he', he]⟩, fun p o i hk => (g.reg p o i hk).trans (h.reg p o i hk), Chip.only_trans h.only g.only⟩

theorem setLink (a : Chip) (p : Nat) (l : Link) : a.CtlFrame (a.setLink p l) :=
  ⟨⟨_, rfl⟩, fun _ _ _ _ => rfl, by simp [Chip.only, Chip.setLink]⟩

theorem setEgress (a : Chip) (p : Nat) (e : Egress) : a.CtlFrame (a.setEgress p e) :=
  ⟨⟨_, rfl⟩, fun _ _ _ _ => rfl, by simp [Chip.only, Chip.setEgress]⟩

theorem bumpPrt (a : Chip) (p off : Nat) : a.CtlFrame (a.bumpPrt p off) := by
  refine ⟨⟨_, rfl⟩, fun page o i hk => a.reg_bump_other fun he => ?_, Chip.only_mono (by decide) (a.setReg_only ..)⟩
  have : pgPrt 0 * 0x10000 ≤ regKey (pgPrt (portDie p)) off 0 := by simp only [regKey, pgPrt]; omega
  omega

theorem lpiWake (a : Chip) (p : Nat) : a.CtlFrame (a.lpiWake p) := by
  unfold Chip.lpiWake
  split
  · exact (setLink ..).trans (bumpPrt ..)
  · exact setLink ..
  · exact refl a

theorem enqueue_control (a : Chip) (p : Nat) {m : Msg} (h : hClass m.hdr = clsControl) : a.CtlFrame (a.enqueue p m) := by
  unfold Chip.enqueue
  dsimp only
  rw [if_pos h]
  exact (lpiWake a p).trans (setEgress ..)

theorem pfcCheck (a : Chip) (p i : Nat) : a.CtlFrame (a.pfcCheck p i) := by
  have hcls : hClass (mkHdr clsControl 6 0 false 0 0 64 0 0) = clsControl := by decide +kernel
  unfold Chip.pfcCheck
  dsimp only
  split_ifs
  · exact (setLink ..).trans (enqueue_control _ _ hcls)
  · exact (setLink ..).trans (enqueue_control _ _ hcls)
  · exact refl a

end Chip.CtlFrame

/-! What a cell that moves leaves -/

/-- No crossing begins, and the registers of the crossbar stand. -/
structure Chip.CrossFrame (a b : Chip) : Prop where
  crossing : ∀ n, b.crossing n = true → a.crossing n = true
  traf : b.traf = { a.traf with voq := b.traf.voq, xrot := b.traf.xrot, eg := b.traf.eg }
  reg : ∀ page off inst, regKey page off inst < pgPrt 0 * 0x10000 → b.reg page off inst = a.reg page off inst
  only : Chip.only [.regs, .traf, .act, .port] a b

namespace Chip.CrossFrame

variable {a b k : Chip}

theorem refl (a : Chip) : a.CrossFrame a := ⟨fun _ h => h, rfl, fun _ _ _ _ => rfl, Chip.only_rfl ..⟩

theorem trans (h : a.CrossFrame b) (g : b.CrossFrame k) : a.CrossFrame k :=
  ⟨fun n hn => h.crossing n (g.crossing n hn), by rw [g.traf, h.traf],
    fun p o i hk => (g.reg p o i hk).trans (h.reg p o i hk), Chip.only_trans h.only g.only⟩

theorem of_voq (hv : b.traf.voq = a.traf.voq)
    (ht : b.traf = { a.traf with voq := b.traf.voq, xrot := b.traf.xrot, eg := b.traf.eg })
    (hr : ∀ page off inst, regKey page off inst < pgPrt 0 * 0x10000 → b.reg page off inst = a.reg page off inst)
    (ho : Chip.only [.regs, .traf, .act, .port] a b) : a.CrossFrame b :=
  ⟨fun n hn => by rwa [Chip.crossing, hv] at hn, ht, hr, ho⟩

theorem of_ctl (h : a.CtlFrame b) : a.CrossFrame b := by
  obtain ⟨e, he⟩ := h.traf
  exact of_voq (by rw [he]) (by rw [he]) h.reg (Chip.only_mono (by decide) h.only)

end Chip.CrossFrame

/-! The frame that a queue presents (R22, R287, R321) -/

/-- A queue after a cell of `x` has left it. -/
def cellLeaves (x : XItem) (ys : List XItem) : List XItem :=
  ys.filterMap fun y => if y.num ≠ x.num then some y
    else if y.cells ≤ 1 then none else some { y with cells := y.cells - 1, started := true }

/-- The frames left in a queue are frames that stood in it. -/
theorem num_of_mem_cellLeaves {x y : XItem} {ys : List XItem} (h : y ∈ cellLeaves x ys) : ∃ z ∈ ys, z.num = y.num := by
  obtain ⟨z, hz, hs⟩ := List.mem_filterMap.1 h
  refine ⟨z, hz, ?_⟩
  split_ifs at hs <;> cases hs <;> rfl

section
variable {c : Chip} {k : Nat} {x : XItem}

theorem Chip.mem_voqReady {y : XItem} : y ∈ c.voqReady k ↔ y ∈ c.voq k ∧ c.crossing y.after = false := by
  simp [Chip.voqReady]

/-- What a queue presents at the level of its key, among the frames whose earlier crossing has ended. -/
structure Chip.Heads (c : Chip) (k : Nat) (x : XItem) : Prop where
  ready : x ∈ c.voqReady k
  wave : k % 3 = 0 → (∃ y ∈ c.voqReady k, y.wave = true) → x.wave = true
  oldest : k % 3 = 1 → (c.voqReady k).head? = some x
  started : k % 3 = 2 → (∃ y ∈ c.voqReady k, y.started = true) → x.started = true

theorem Chip.levelTwo_spec {xs : List XItem} {rot : Tbl Rot} (h : c.levelTwo k xs = some (x, rot)) :
    x ∈ xs ∧ ((∃ y ∈ xs, y.started = true) → x.started = true) := by
  unfold Chip.levelTwo at h
  split at h
  · next hx =>
    cases h
    exact ⟨List.mem_of_find?_eq_some hx, fun _ => List.find?_some hx⟩
  · exact absurd h (Option.some_ne_none _).symm
  · next y ys hno =>
    have hnone : ¬ ∃ z ∈ y :: ys, z.started = true := fun ⟨z, hz, hs⟩ => List.find?_eq_none.1 hno z hz hs
    dsimp only at h
    split at h
    · next hx =>
      cases h
      obtain ⟨q, -, hq⟩ := Option.bind_eq_some_iff.1 hx
      exact ⟨List.mem_of_find?_eq_some hq, fun hs => absurd hs hnone⟩
    · cases h
      exact ⟨List.mem_cons_self, fun hs => absurd hs hnone⟩

theorem Chip.voqHead_heads {rot : Tbl Rot} (h : c.voqHead k = some (x, rot)) : c.Heads k x := by
  unfold Chip.voqHead at h
  dsimp only at h
  split at h
  · next h0 =>
    obtain ⟨y, hy, he⟩ := Option.map_eq_some_iff.1 h
    cases he
    have hready : x ∈ c.voqReady k ∧ ((∃ z ∈ c.voqReady k, z.wave = true) → x.wave = true) := by
      cases hf : (c.voqReady k).find? (·.wave) with
      | none =>
        rw [hf] at hy
        exact ⟨List.mem_of_mem_head? hy, fun ⟨z, hz, hw⟩ => absurd hw (List.find?_eq_none.1 hf z hz)⟩
      | some z =>
        rw [hf] at hy
        cases hy
        exact ⟨List.mem_of_find?_eq_some hf, fun _ => List.find?_some hf⟩
    exact ⟨hready.1, fun _ => hready.2, fun h1 => absurd h1 (by omega), fun h2 => absurd h2 (by omega)⟩
  · next h1 =>
    obtain ⟨y, hy, he⟩ := Option.map_eq_some_iff.1 h
    cases he
    exact ⟨List.mem_of_mem_head? hy, fun h0 => absurd h0 (by omega), fun _ => hy, fun h2 => absurd h2 (by omega)⟩
  · next h0 h1 =>
    obtain ⟨hmem, hstarted⟩ := Chip.levelTwo_spec h
    exact ⟨hmem, fun h => absurd h h0, fun h => absurd h h1, fun _ => hstarted⟩

theorem Chip.levelTwo_some {xs : List XItem} (h : xs ≠ []) : ∃ x rot, c.levelTwo k xs = some (x, rot) := by
  unfold Chip.levelTwo
  split
  · exact ⟨_, _, rfl⟩
  · exact absurd rfl h
  · dsimp only
    split <;> exact ⟨_, _, rfl⟩

theorem Chip.voqHead_some (h : c.voqReady k ≠ []) : ∃ x rot, c.voqHead k = some (x, rot) := by
  obtain ⟨y, ys, hxs⟩ := List.exists_cons_of_ne_nil h
  unfold Chip.voqHead
  dsimp only
  split
  · rw [hxs]
    cases (y :: ys).find? (·.wave) <;> exact ⟨_, _, rfl⟩
  · rw [hxs]
    exact ⟨_, _, rfl⟩
  · exact Chip.levelTwo_some h

/-! A cell moves -/

/-- The part once a cell of `x` has left queue `k`, before the flow control looks at the buffer. -/
def Chip.cellLeft (c : Chip) (k : Nat) (x : XItem) (rot : Tbl Rot) : Chip :=
  forAll [0, 1, 2, 3] { c.setVoq k (cellLeaves x (c.voq k)) with
    traf := { (c.setVoq k (cellLeaves x (c.voq k))).traf with xrot := rot } } fun n c => c.active (dieX n) actCell 0 x.liv 1

theorem Chip.moveCell_eq {rot : Tbl Rot} (h : c.voqHead k = some (x, rot)) : c.moveCell k =
    match x.pfc with
    | some (p, i) => (c.cellLeft k x rot).pfcCheck p i
    | none => c.cellLeft k x rot := by
  unfold Chip.moveCell
  rw [h]
  rfl

theorem Chip.cellLeft_traf (rot : Tbl Rot) : (c.cellLeft k x rot).traf =
    { c.traf with voq := Tbl.set [] c.traf.voq k (cellLeaves x (c.voq k)), xrot := rot } :=
  keep_forAll Chip.traf _ _ _ fun _ d => d.active_traf ..

theorem Chip.cellLeft_regs (rot : Tbl Rot) : (c.cellLeft k x rot).regs = c.regs :=
  keep_forAll Chip.regs _ _ _ fun _ d => d.active_regs ..

theorem Chip.active_only (c : Chip) (die kind port l n : Nat) : Chip.only [.act] c (c.active die kind port l n) := by
  simp [Chip.only, Chip.active]

theorem Chip.cellLeft_only (rot : Tbl Rot) : Chip.only [.traf, .act] c (c.cellLeft k x rot) := by
  unfold Chip.cellLeft
  refine Chip.only_trans ?_ (Chip.only_forAll _ _ _ fun n d => Chip.only_mono (by decide) (d.active_only ..))
  simp [Chip.only, Chip.setVoq]

theorem Chip.crossing_iff {n : Nat} : c.crossing n = true ↔ n ≠ 0 ∧ ∃ p ∈ c.traf.voq, ∃ y ∈ p.2, y.num = n := by
  simp [Chip.crossing]

theorem Chip.cellLeft_crossing (rot : Tbl Rot) {n : Nat} (h : (c.cellLeft k x rot).crossing n = true) :
    c.crossing n = true := by
  rw [Chip.crossing_iff, Chip.cellLeft_traf] at h
  obtain ⟨hn, p, hp, y, hy, rfl⟩ := h
  refine Chip.crossing_iff.2 ⟨hn, ?_⟩
  obtain rfl | hp := Tbl.mem_set hp
  · obtain ⟨z, hz, he⟩ := num_of_mem_cellLeaves hy
    obtain hnil | hmem := Tbl.get_mem [] (m := c.traf.voq) (k := k)
    · rw [Chip.voq, hnil] at hz
      exact absurd hz List.not_mem_nil
    · exact ⟨_, hmem, z, hz, he⟩
  · exact ⟨p, hp, y, hy, rfl⟩

theorem Chip.moveCell_moves {rot : Tbl Rot} (h : c.voqHead k = some (x, rot)) : c.CrossFrame (c.moveCell k) ∧
    (c.moveCell k).voq k = cellLeaves x (c.voq k) ∧ ∀ j, j ≠ k → (c.moveCell k).voq j = c.voq j := by
  have hleft : c.CrossFrame (c.cellLeft k x rot) :=
    ⟨fun n => Chip.cellLeft_crossing rot, by rw [Chip.cellLeft_traf],
      fun p o i _ => Chip.reg_congr _ (Chip.cellLeft_regs rot) p o i, Chip.only_mono (by decide) (Chip.cellLeft_only rot)⟩
  have hctl : (c.cellLeft k x rot).CtlFrame (c.moveCell k) := by
    rw [Chip.moveCell_eq h]
    split
    · exact .pfcCheck ..
    · exact .refl _
  have hvoq : (c.moveCell k).traf.voq = Tbl.set [] c.traf.voq k (cellLeaves x (c.voq k)) := by
    obtain ⟨e, he⟩ := hctl.traf
    rw [he, Chip.cellLeft_traf]
  refine ⟨hleft.trans (.of_ctl hctl), ?_, fun j hj => ?_⟩
  · rw [Chip.voq, hvoq, Tbl.get_set_same]
  · rw [Chip.voq, hvoq, Tbl.get_set_other _ _ _ _ hj, Chip.voq]
end

end Sys2Proof.Machine
end

section
/-! A cell time (R286 to R288, R321, R384): the moves of its match, and what the meter lets start. -/

namespace Sys2Proof.Machine

section
variable {c d : Chip} {k : Nat} {x : XItem}

/-- What a queue presents at the level of its key: a frame of `c`, at level 1 the oldest whose earlier crossing has ended. -/
def Chip.Presents (c : Chip) (k : Nat) (x : XItem) : Prop :=
  ∃ pre post, c.voq k = pre ++ x :: post ∧
    (k % 3 = 0 → (∃ y ∈ c.voq k, y.wave = true ∧ c.crossing y.after = false) → x.wave = true) ∧
    (k % 3 = 1 → ∀ y ∈ pre, c.crossing y.after = true) ∧
    (k % 3 = 2 → (∃ y ∈ c.voq k, y.started = true ∧ c.crossing y.after = false) → x.started = true)

/-- The frames that a queue can present stay so while other queues lose cells. -/
theorem Chip.voqReady_mono (hv : d.voq k = c.voq k) (hc : ∀ n, d.crossing n = true → c.crossing n = true) {y : XItem}
    (h : y ∈ c.voqReady k) : y ∈ d.voqReady k := by
  rw [Chip.mem_voqReady] at h ⊢
  obtain ⟨hy, hcross⟩ := h
  exact ⟨hv.symm ▸ hy, Bool.eq_false_iff.2 fun hd => Bool.false_ne_true (hcross.symm.trans (hc _ hd))⟩

theorem Chip.Heads.presents (h : d.Heads k x) (hv : d.voq k = c.voq k)
    (hc : ∀ n, d.crossing n = true → c.crossing n = true) : c.Presents k x := by
  have hready : ∀ y ∈ c.voq k, c.crossing y.after = false → y ∈ d.voqReady k := fun y hy hcross =>
    Chip.voqReady_mono hv hc (Chip.mem_voqReady.2 ⟨hy, hcross⟩)
  have hsplit : ∃ pre post, d.voq k = pre ++ x :: post ∧ (k % 3 = 1 → ∀ y ∈ pre, d.crossing y.after = true) := by
    by_cases h1 : k % 3 = 1
    · have hfind := h.oldest h1
      rw [Chip.voqReady, List.head?_filter, List.find?_eq_some_iff_append] at hfind
      obtain ⟨-, pre, post, hvoq, hpre⟩ := hfind
      exact ⟨pre, post, hvoq, fun _ y hy => by simpa using hpre y hy⟩
    · obtain ⟨pre, post, hvoq⟩ := List.append_of_mem (Chip.mem_voqReady.1 h.ready).1
      exact ⟨pre, post, hvoq, fun h => absurd h h1⟩
  obtain ⟨pre, post, hvoq, hpre⟩ := hsplit
  refine ⟨pre, post, hv ▸ hvoq, fun h0 ⟨y, hy, hw, hcross⟩ => h.wave h0 ⟨y, hready y hy hcross, hw⟩,
    fun h1 y hy => hc _ (hpre h1 y hy), fun h2 ⟨y, hy, hs, hcross⟩ => h.started h2 ⟨y, hready y hy hcross, hs⟩⟩
end

/-! The requests -/

/-- A request stands for a queue that can present a frame, at the level of its key. -/
theorem Chip.xRequests_spec {c : Chip} {m : XReq} (h : m ∈ c.xRequests) :
    m.i = m.key / 864 ∧ m.lv = m.key % 3 ∧ c.voqReady m.key ≠ [] := by
  obtain ⟨p, -, hm⟩ := List.mem_flatMap.1 h
  dsimp only at hm
  split_ifs at hm with hw
  · obtain ⟨o, -, rfl⟩ := List.mem_map.1 hm
    rw [Bool.and_eq_true, Bool.not_eq_true', List.isEmpty_eq_false_iff] at hw
    exact ⟨rfl, rfl, hw.2⟩
  · exact absurd hm List.not_mem_nil

/-! The moves of a match -/

/-- A cell of each of some requests moves, counted at its level. -/
def Chip.moves (c : Chip) (ms : List XReq) : Chip :=
  forAll ms c fun m c => (c.moveCell m.key).bump pgXbr (0x1000 + 4 * m.lv)

theorem Chip.moves_append (c : Chip) (ms : List XReq) (m : XReq) :
    c.moves (ms ++ [m]) = ((c.moves ms).moveCell m.key).bump pgXbr (0x1000 + 4 * m.lv) := by
  simp [Chip.moves, forAll]

/-- What a part has of queues and counts after the moves of `ms`. -/
structure Chip.Moved (c : Chip) (ms : List XReq) (t : Chip) : Prop where
  crossing : ∀ n, t.crossing n = true → c.crossing n = true
  traf : t.traf = { c.traf with voq := t.traf.voq, xrot := t.traf.xrot, eg := t.traf.eg }
  only : Chip.only [.regs, .traf, .act, .port] c t
  rest : ∀ k, k ∉ ms.map (·.key) → t.voq k = c.voq k
  served : ∀ k ∈ ms.map (·.key), ∃ x, c.Presents k x ∧ t.voq k = cellLeaves x (c.voq k)
  count : ∀ lv < 3, t.reg pgXbr (0x1000 + 4 * lv) = c.reg pgXbr (0x1000 + 4 * lv) +
    BitVec.ofNat 32 (ms.filter (fun m => decide (m.lv = lv))).length
  unserved : t.reg pgXbr 0x100C = c.reg pgXbr 0x100C

theorem Chip.Moved.nil (c : Chip) : c.Moved [] c :=
  ⟨fun _ h => h, rfl, Chip.only_rfl .., fun _ _ => rfl, fun _ h => absurd h List.not_mem_nil,
    fun _ _ => (BitVec.add_zero _).symm, rfl⟩

theorem Chip.Moved.snoc {c d : Chip} {ms : List XReq} {m : XReq} (h : c.Moved ms d) (hk : m.key ∉ ms.map (·.key))
    (hlv : m.lv < 3) (hr : c.voqReady m.key ≠ []) :
    c.Moved (ms ++ [m]) ((d.moveCell m.key).bump pgXbr (0x1000 + 4 * m.lv)) := by
  have hsame := h.rest m.key hk
  obtain ⟨y, hy⟩ := List.exists_mem_of_ne_nil _ hr
  obtain ⟨x, rot, hx⟩ := Chip.voqHead_some (List.ne_nil_of_mem (Chip.voqReady_mono hsame h.crossing hy))
  obtain ⟨hframe, hmoved, hothers⟩ := Chip.moveCell_moves hx
  have hreg : ∀ off < 0x10000, (d.moveCell m.key).reg pgXbr off = d.reg pgXbr off := fun off ho =>
    hframe.reg _ _ _ (by simp only [regKey, pgXbr, pgPrt]; omega)
  refine ⟨fun n hn => h.crossing n (hframe.crossing n hn), ?_, ?_, fun k hk => ?_, fun k hk => ?_, fun lv hl => ?_, ?_⟩
  · exact hframe.traf.trans (by rw [h.traf]; rfl)
  · exact Chip.only_trans (Chip.only_trans h.only hframe.only) (Chip.only_mono (by decide) (Chip.setReg_only ..))
  · rw [List.map_append, List.mem_append, not_or] at hk
    exact (hothers k (by simpa using hk.2)).trans (h.rest k hk.1)
  · rw [List.map_append, List.mem_append] at hk
    by_cases hkm : k = m.key
    · subst hkm
      exact ⟨x, (Chip.voqHead_heads hx).presents hsame h.crossing, hmoved.trans (by rw [hsame])⟩
    · obtain ⟨z, hz, hv⟩ := h.served k (hk.resolve_right (by simpa using hkm))
      exact ⟨z, hz, (hothers k hkm).trans hv⟩
  · rw [List.filter_append, List.length_append, BitVec.ofNat_add, ← BitVec.add_assoc, ← h.count lv hl,
      ← hreg _ (show 0x1000 + 4 * lv < 0x10000 by omega)]
    by_cases he : m.lv = lv
    · rw [he, Chip.reg_bump]
      simp [he]
    · rw [Chip.reg_bump_other _ (regKey_ne_of_off (by omega) (by omega) (by omega))]
      simp [he]
  · rw [Chip.reg_bump_other _ (regKey_ne_of_off (by omega) (by omega) (by omega)), hreg _ (by decide), h.unserved]

theorem Chip.moves_moved {c : Chip} {ms : List XReq} (hk : (ms.map (·.key)).Nodup) (hm : ∀ m ∈ ms, m ∈ c.xRequests) :
    c.Moved ms (c.moves ms) := by
  induction ms using List.reverseRecOn with
  | nil => exact .nil c
  | append_singleton ms m ih =>
    rw [List.map_append, List.nodup_append] at hk
    obtain ⟨hnodup, -, hne⟩ := hk
    obtain ⟨-, hlv, hready⟩ := Chip.xRequests_spec (hm m (by simp))
    rw [Chip.moves_append]
    refine (ih hnodup fun r hr => hm r (List.mem_append_left _ hr)).snoc (fun h => ?_) (by omega) hready
    exact hne _ h _ (by simp) rfl

/-! The meter (R384), and the command -/

section
variable {c : Chip}

/-- The cell times that have started in the present slot. -/
def Chip.xBegun (c : Chip) : Nat := if c.traf.xslot = c.time.now / 65536 then c.traf.xstarted else 0

theorem Chip.xOpen_iff : c.xOpen = true ↔ c.xBegun < c.field pgPwr 0x1044 0 16 16 ∧
    ∀ n, c.traf.xlast = some n → n + 656 ≤ c.time.now ∨ c.time.now < n := by
  unfold Chip.xOpen
  rw [Bool.and_eq_true, decide_eq_true_eq]
  refine and_congr Iff.rfl ?_
  cases c.traf.xlast <;> simp

/-- What a cell time makes of a part, with the match `ms` of its requests. -/
structure Chip.Crossed (c : Chip) (ms : List XReq) (t : Chip) : Prop where
  rest : ∀ k, k ∉ ms.map (·.key) → t.voq k = c.voq k
  served : ∀ k ∈ ms.map (·.key), ∃ x, c.Presents k x ∧ t.voq k = cellLeaves x (c.voq k)
  count : ∀ lv < 3, t.reg pgXbr (0x1000 + 4 * lv) = c.reg pgXbr (0x1000 + 4 * lv) +
    BitVec.ofNat 32 (ms.filter (fun m => decide (m.lv = lv))).length
  unserved : t.reg pgXbr 0x100C = c.reg pgXbr 0x100C + (if ∃ r ∈ c.xRequests, r.i ∉ ms.map (·.i) then 1 else 0)
  only : Chip.only [.regs, .traf, .act, .port] c t
  traf : t.traf = { c.traf with
    voq := t.traf.voq, xrot := t.traf.xrot, gptr := t.traf.gptr, aptr := t.traf.aptr, eg := t.traf.eg }

theorem Chip.cellTime_eq : ∃ ms g a, Matches c.xRequests ms ∧
    let t := Chip.moves { c with traf := { c.traf with gptr := g, aptr := a } } ms
    c.cellTime = if c.xRequests.any (fun r => !ms.any fun m => decide (m.i = r.i)) then t.bump pgXbr 0x100C else t :=
  ⟨_, _, _, ((xRound_matches ..).append (xRound_matches ..)).append (xRound_matches ..), rfl⟩

/-- Each input position presents one queue. -/
theorem Matches.nodup_keys {ms : List XReq} (h : Matches c.xRequests ms) : (ms.map (·.key)).Nodup := by
  have hi : ms.map (·.i) = (ms.map (·.key)).map (· / 864) := by
    rw [List.map_map]
    exact List.map_congr_left fun m hm => (Chip.xRequests_spec (h.subset hm)).1
  exact .of_map _ (hi ▸ h.ins)

theorem unserved_iff {rs ms : List XReq} : rs.any (fun r => !ms.any fun m => decide (m.i = r.i)) = true ↔
    ∃ r ∈ rs, r.i ∉ ms.map (·.i) := by
  simp

theorem Chip.cellTime_crossed : ∃ ms, Matches c.xRequests ms ∧ c.Crossed ms c.cellTime := by
  obtain ⟨ms, g, a, hmatch, ht⟩ := c.cellTime_eq
  have hmoved : Chip.Moved { c with traf := { c.traf with gptr := g, aptr := a } } ms _ :=
    Chip.moves_moved hmatch.nodup_keys hmatch.subset
  generalize Chip.moves { c with traf := { c.traf with gptr := g, aptr := a } } ms = t at *
  have htraf : t.traf = { c.traf with
      voq := t.traf.voq, xrot := t.traf.xrot, gptr := t.traf.gptr, aptr := t.traf.aptr, eg := t.traf.eg } := by
    rw [hmoved.traf]
  have honly : Chip.only [.regs, .traf, .act, .port] c t :=
    Chip.only_trans (by simp [Chip.only]) hmoved.only
  refine ⟨ms, hmatch, ?_⟩
  rw [ht]
  split_ifs with hun
  · refine ⟨hmoved.rest, hmoved.served, fun lv hl => ?_, ?_, ?_, htraf⟩
    · rw [Chip.reg_bump_other _ (regKey_ne_of_off (by omega) (by omega) (by omega))]
      exact hmoved.count lv hl
    · rw [Chip.reg_bump, if_pos (unserved_iff.1 hun)]
      exact congrArg (· + 1) hmoved.unserved
    · exact Chip.only_trans honly (Chip.only_mono (by decide) (Chip.setReg_only ..))
  · refine ⟨hmoved.rest, hmoved.served, hmoved.count, ?_, honly, htraf⟩
    rw [if_neg fun h => hun (unserved_iff.2 h)]
    exact hmoved.unserved.trans (BitVec.add_zero _).symm

theorem exec_cellTime {s : State} (hup : s.chip.mainUp = true) (ho : s.chip.xOpen = true) :
    exec .cellTime s = .next (s.after s.chip.xStart.cellTime) :=
  exec_gated (fun c => c.mainUp && c.xOpen) (fun c => c.xStart.cellTime) rfl (by rw [hup, ho]; rfl) rfl

theorem exec_cellTime_held {s : State} (ho : ¬ s.chip.xOpen = true) : exec .cellTime s = .next s :=
  State.run_eq_self (f := fun c => if c.mainUp && c.xOpen then c.xStart.cellTime else c) (if_neg (by simp [ho]))

theorem Chip.Crossed.settleAlerts {ms : List XReq} {t : Chip} (h : c.Crossed ms t) (b : Chip) :
    c.Crossed ms (Chip.settleAlerts b t) :=
  ⟨h.rest, h.served, h.count, h.unserved, Chip.only_settleAlerts h.only, h.traf⟩
end

end Sys2Proof.Machine
end

section
/-! The levels that the port dies know (R207), and diverted frames that go on (R208). -/

namespace Sys2Proof.Machine

/-! The levels of the other dies (R207) -/

/-- A port die learns the level of a die for a livery. -/
def Chip.learnLevel (c : Chip) (d src l die : Nat) : Chip :=
  { c with pool := { c.pool with known := Tbl.set 0 c.pool.known ((d * 18 + src) * 256 + l) (c.dieLevel die l) } }

theorem exec_brakeLevelChange {s : State} {d : PDie} {src : Fin 18} {l : Liv} (hup : s.chip.mainUp = true) :
    exec (.brakeLevelChange d src l) s = .next (s.after (s.chip.learnLevel d.val src.val l.toNat
      (if src.val < 16 then 8 + src.val else 12 + src.val))) := by
  refine exec_gated Chip.mainUp (fun c => c.learnLevel d.val src.val l.toNat
    (if src.val < 16 then dieC src.val else dieB (src.val - 16))) rfl hup (congrArg _ ?_)
  split_ifs
  · rfl
  · simp only [dieB]
    omega

/-! The diverted frame that goes on (R208) -/

section
variable {c : Chip} {pd d l lv : Nat}

/-- A diverted frame of a livery for a coach die, whose level has fallen below brake, or stop for a continuation. -/
def Diverted.GoesOn (x : Diverted) (pd d l lv : Nat) : Prop :=
  x.pdie = pd ∧ x.dest = d ∧ hLiv x.msg.hdr = l ∧ lv < (if hSub x.msg.hdr = 0 then 2 else 3)

/-- Two diverted frames of one contribution. -/
def Diverted.Joins (y x : Diverted) : Prop := y.lport = x.lport ∧ y.dest = x.dest ∧ y.msg.key = x.msg.key

/-- A frame that does not go on is passed over. -/
theorem pick_skips {x : Diverted} (h : ¬ x.GoesOn pd d l lv) (seen xs : List Diverted) :
    Chip.divertedDispatch.pick pd d l lv seen (x :: xs) = Chip.divertedDispatch.pick pd d l lv (seen ++ [x]) xs :=
  if_neg fun ⟨hp, hd, hl, hlv, _⟩ => h ⟨hp, hd, hl, hlv⟩

theorem pick_none {xs : List Diverted} (h : ∀ x ∈ xs, ¬ x.GoesOn pd d l lv) (seen : List Diverted) :
    Chip.divertedDispatch.pick pd d l lv seen xs = none := by
  induction xs generalizing seen with
  | nil => rfl
  | cons x xs ih =>
    rw [List.forall_mem_cons] at h
    rw [pick_skips h.1, ih h.2]

/-- The first frame that goes on is picked, unless it follows one of its own contribution. -/
theorem pick_some {pre post : List Diverted} {x : Diverted} (hx : x.GoesOn pd d l lv)
    (hpre : ∀ y ∈ pre, ¬ y.GoesOn pd d l lv) (seen : List Diverted) (hseen : ∀ y ∈ seen ++ pre, ¬ y.Joins x) :
    Chip.divertedDispatch.pick pd d l lv seen (pre ++ x :: post) = some x := by
  induction pre generalizing seen with
  | nil =>
    obtain ⟨hp, hd, hl, hlv⟩ := hx
    rw [List.append_nil] at hseen
    exact if_pos ⟨hp, hd, hl, hlv, by simpa [Diverted.Joins] using hseen⟩
  | cons y pre ih =>
    rw [List.forall_mem_cons] at hpre
    rw [List.cons_append, pick_skips hpre.1]
    exact ih hpre.2 _ (by simpa using hseen)

theorem Chip.divertedDispatch_stays {rd : CellRead} (h : ∀ x ∈ c.traf.diverted, ¬ x.GoesOn pd d l (c.knownLevel pd d l)) :
    c.divertedDispatch pd d l rd = c := by
  unfold Chip.divertedDispatch
  dsimp only
  rw [pick_none h]

/-- The part in which a diverted frame crosses and its own cells are read. -/
def Chip.divertedRead (k : Chip) (held : List Diverted) (d : Nat) (x : Diverted) (rd : CellRead) : Option Msg × Chip :=
  (Chip.cross { k with traf := { k.traf with diverted := held } } x.msg (256 + d) x.lport).2.readCells x.msg rd

/-- The frame, read from its cells, reaches the coach die, or is dropped there. -/
def Chip.divertedArrives (t : Chip) (d : Nat) (x : Diverted) (vs : List Nat) : Option Msg → Chip
  | none => (t.dropCells x.msg.cells).dropStg d vs
  | some m => (t.dropCells x.msg.cells).atCoach d { m with cells := [] } vs

section
variable {rd : CellRead} {pre post : List Diverted} {x : Diverted} (hq : c.traf.diverted = pre ++ x :: post)
  (hx : x.GoesOn pd d l (c.knownLevel pd d l)) (hpre : ∀ y ∈ pre, ¬ y.GoesOn pd d l (c.knownLevel pd d l) ∧ ¬ y.Joins x)
include hq hx hpre

theorem Chip.divertedDispatch_picks : Chip.divertedDispatch.pick pd d l (c.knownLevel pd d l) [] c.traf.diverted = some x :=
  hq ▸ pick_some hx (fun y hy => (hpre y hy).1) [] fun y hy => (hpre y hy).2

theorem Chip.divertedDispatch_noCells {k : Chip} (ha : c.allocUnits (8 + d) 2 l (cellsFor x.msg.len) = (none, k)) :
    c.divertedDispatch pd d l rd = k := by
  unfold Chip.divertedDispatch
  dsimp only
  rw [Chip.divertedDispatch_picks hq hx hpre]
  dsimp only [dieC, plStg]
  rw [ha]

theorem Chip.divertedDispatch_crosses {vs : List Nat} {k t : Chip} {o : Option Msg}
    (ha : c.allocUnits (8 + d) 2 l (cellsFor x.msg.len) = (some vs, k)) (hr : k.divertedRead (pre ++ post) d x rd = (o, t)) :
    c.divertedDispatch pd d l rd = t.divertedArrives d x vs o := by
  have hk : k.traf.diverted = pre ++ x :: post := by
    have hd := c.allocUnits_diversion (8 + d) 2 l (cellsFor x.msg.len)
    rw [ha] at hd
    exact (congrArg Prod.snd hd).trans hq
  have hdrop : dropFirst (fun y => decide (y = x)) k.traf.diverted = pre ++ post := by
    rw [hk]
    refine dropFirst_append (fun y hy => decide_eq_false ?_) (decide_eq_true rfl)
    rintro rfl
    exact (hpre _ hy).1 hx
  unfold Chip.divertedDispatch
  dsimp only
  rw [Chip.divertedDispatch_picks hq hx hpre]
  dsimp only [dieC, plStg]
  rw [ha]
  dsimp only
  rw [hdrop]
  change (match k.divertedRead (pre ++ post) d x rd with
    | (none, t) => (t.dropCells x.msg.cells).dropStg d vs
    | (some m, t) => (t.dropCells x.msg.cells).atCoach d { m with cells := [] } vs) = _
  rw [hr]
  cases o <;> rfl
end
end

theorem exec_divertedDispatch {s : State} {pd : PDie} {d : CDie} {l : Liv} {rd : CellRead} {k : Chip}
    (hup : s.chip.mainUp = true) (hdie : s.chip.dieFailed (8 + d.val) = false)
    (hk : s.chip.divertedDispatch pd.val d.val l.toNat rd = k) :
    exec (.divertedFrameDispatch pd d l rd) s = .next (s.after k) :=
  exec_gated (fun c => c.cdieWorks d.val) (fun c => c.divertedDispatch pd.val d.val l.toNat rd) rfl
    (Chip.cdieWorks_iff.2 ⟨hup, hdie⟩) hk

/-- Settles O44: a cell time by the moves of its match, a change of level, and the diverted frame that is picked. -/
theorem cellsCrossAndBrakesReachThePorts : Obligations.CellsCrossAndBrakesReachThePorts := by
  unfold Obligations.CellsCrossAndBrakesReachThePorts
  refine ⟨fun s hup => ?_, fun s d src l hup => ?_, fun s pd d l rd hup hdie => ?_⟩
  · intro c rs slot begun open_
    refine ⟨fun hno => ?_, fun ho => ?_⟩
    · exact exec_cellTime_held fun h => hno (Chip.xOpen_iff.1 h)
    · obtain ⟨ms, hmatch, hcrossed⟩ := c.xStart.cellTime_crossed
      obtain ⟨t, hrun, hpend, hrest, hserved, hcount, hun, honly, htraf⟩ :=
        yields_after (Q := c.xStart.Crossed ms) (exec_cellTime hup (Chip.xOpen_iff.2 ho)) (hcrossed.settleAlerts _)
      refine ⟨ms, hmatch.subset, hmatch.ins, hmatch.outs, t, hrun, hpend, hrest, fun k hk => ?_, hcount, hun, ?_, ?_⟩
      · obtain ⟨x, ⟨pre, post, hvoq, hwave, hold, hstart⟩, hv⟩ := hserved k hk
        exact ⟨pre, x, post, hvoq, hwave, hold, hstart, hv⟩
      · exact Chip.only_trans (by simp [Chip.only, Chip.xStart]) honly
      · rw [htraf]
        rfl
  · refine yields_after (exec_brakeLevelChange hup) ⟨Tbl.get_set_same .., fun e k m hne => Tbl.get_set_other _ _ _ _ hne,
      Chip.only_settleAlerts (Chip.only_withPool ..)⟩
  · intro c lv ready
    refine ⟨fun hno => ?_, fun pre x post hq hx hpre us k ha => ?_⟩
    · exact exec_gated_self (fun c => c.cdieWorks d.val) (fun c => c.divertedDispatch pd.val d.val l.toNat rd) rfl
        (Chip.cdieWorks_iff.2 ⟨hup, hdie⟩) (Chip.divertedDispatch_stays hno)
    · have hpre : ∀ y ∈ pre, ¬ y.GoesOn pd.val d.val l.toNat lv ∧ ¬ y.Joins x := fun y hy => by
        obtain ⟨hnot, hother⟩ := hpre y hy
        exact ⟨hnot, fun ⟨hp, hd, hkey⟩ => hother.elim (· hp) (Or.elim · (· hd) (· hkey))⟩
      refine ⟨fun hus => ?_, fun vs hus => ?_⟩
      · subst hus
        exact exec_divertedDispatch hup hdie (Chip.divertedDispatch_noCells hq hx hpre ha)
      · subst hus
        intro k1 r
        have hcross : ∀ o, r.1 = o → c.divertedDispatch pd.val d.val l.toNat rd =
            r.2.divertedArrives d.val x vs o := fun o ho =>
          Chip.divertedDispatch_crosses (rd := rd) hq hx hpre ha (Prod.ext ho rfl : r = (o, r.2))
        exact ⟨fun hnone => exec_divertedDispatch hup hdie (hcross none hnone),
          fun m hsome => exec_divertedDispatch hup hdie (hcross (some m) hsome)⟩

end Sys2Proof.Machine
end

section
/-! Cells of a buffer die that the part does not have: states that no command brings about, and that the statements on links
coming up and going down, on low-power idle and on port configuration do not leave out. -/

namespace Sys2Proof.Machine

/-! A cell whose bank's retention flag stands in a register of another block -/

/-- The number of a cell that `unitBank` places in a bank whose retention flag, on the die numbered as M0, would stand at
bit `i` of the register of a key. -/
def wildCell (key i : Nat) : Nat := ((key - regKey (pgMem dieM) 0x1020 0) / 4 * 32 + i) * 2048

/-- The bank of such a cell; no pool has it (R195). -/
def wildBank (key i : Nat) : Nat := unitBank plCell (wildCell key i)

/-- `Chip.bankAccess`, which clears the retention flag of a bank that it wakes, clears bit `i` of that register. -/
theorem wildBank_flag {key i : Nat} (hk : regKey (pgMem dieM) 0x1020 0 ≤ key) (h4 : 4 ∣ key) (hi : i < 32) :
    regKey (pgMem dieM) (0x1020 + 4 * (wildBank key i / 32)) 0 = key ∧ wildBank key i % 32 = i := by
  have hbase : regKey (pgMem dieM) 0x1020 0 = 0xB1020 := by decide
  have hbank : wildBank key i = (key - 0xB1020) / 4 * 32 + i := by
    simp [wildBank, unitBank, plCell, wildCell, hbase]
  have hpage : pgMem dieM = 0xB := by decide
  rw [hbank, hpage]
  unfold regKey
  omega

/-- A link control frame that names the cell, of buffer die 2, whose number is that of M0. -/
def wildFrame (key i : Nat) : Msg :=
  { Msg.made (BitVec.ofNat 256 (3 * 2 ^ 249 + 6 * 2 ^ 245)) [] 0 none with cells := [⟨2, wildCell key i, 0⟩] }

/-- The part with the cell's bank in retention. -/
def Chip.withWildBank (c : Chip) (key i : Nat) : Chip :=
  { c with bank := { c.bank with ret := [(dieM * 256 + wildBank key i, .retained)] } }

/-- The part with that frame, and nothing else, queued on port 0. -/
def Chip.withWildFrame (c : Chip) (key i : Nat) : Chip :=
  (c.withWildBank key i).setEgress 0 { Egress.empty with ctl := [wildFrame key i] }

/-- A part that is READY, with port 0 enabled in Narjo mode, its PCS aligned and its INIT sent. -/
def alignedPart : Chip :=
  let c := (Chip.reset.setField pgPwr 0x1078 0 3 phReady).setFlag (pgPrt 0) (prtCfgOff 0) 4 true
  (c.setFlag (pgLnk 0) 0x1004 0 true).setLink 0 { Link.reset with aligned := true, initSent := true }

/-! A link that goes down (R269, R487) -/

/-- Port 0 is up, and the frame that it holds clears bit 0 of the count of link downs. -/
def downPart : Chip := (alignedPart.setFlag (pgLnk 0) 0x1008 0 true).withWildFrame (regKey (pgLnk 0) 0x1134 0) 0

theorem downPart_up : downPart.rxOn 0 = true ∧ downPart.narjo 0 = true ∧ (downPart.link 0).aligned = true ∧
    downPart.lnkFlag 0 0 = true ∧ downPart.reg (pgLnk 0) 0x1134 = 0 := by
  decide +kernel

theorem downPart_linkDown : (downPart.linkDown 0 false).reg (pgLnk 0) 0x1134 = 0 := by decide +kernel

/-- What the statement says of the count as the link of an aligned Narjo port 0 goes down. -/
theorem linkDown_counts {c : Chip} (h : Obligations.LinksGoDown) (hrx : c.rxOn 0 = true) (hn : c.narjo 0 = true)
    (ha : (c.link 0).aligned = true) (hup : c.lnkFlag 0 0 = true) :
    (c.linkDown 0 false).reg (pgLnk 0) 0x1134 = c.reg (pgLnk 0) 0x1134 + 1 := by
  obtain ⟨hloss, _⟩ := h ⟨c, []⟩ 0
  obtain ⟨t, ht, _, ⟨_, _, _, _, _, _, _, _, _, _, _, hone⟩, _⟩ := hloss ⟨hrx, hn⟩ ha
  rw [run_eq (f := fun c => if c.rxOn 0 && c.narjo 0 && (c.link 0).aligned then c.linkDown 0 false else c) ht] at hone
  simpa [hrx, hn, ha, hup] using hone

/-- Refutes O36, in its clause that the loss of PCS alignment counts a link that was up: the queued frames are discarded
after the count, they release their cells whatever their numbers, and to wake the bank of `wildCell` the release clears the
bit that the count has set. The counterexample is `downPart`; no pool has such a cell (`wildBank_flag`), so no command gives
one to a frame. -/
theorem not_linksGoDown : ¬ Obligations.LinksGoDown := fun h => by
  obtain ⟨hrx, hn, ha, hup, hcount⟩ := downPart_up
  have hone := linkDown_counts h hrx hn ha hup
  rw [downPart_linkDown, hcount] at hone
  exact absurd hone (by decide)

/-! A link that comes up (R269, R307) -/

/-- A good INIT (R266). -/
def goodInit : Frame := mkFrame (mkHdr 3 6 0 false 0 0 64 0 0) (bytesBE 28 (linkBody 0 0 (fun _ => 0)).toNat)

theorem goodInit_good : isLinkControl goodInit.hdr = true ∧ goodInit.whole = true ∧ tailOf goodInit = .good ∧
    hdrOk goodInit.hdr = true ∧ lcType (lcBody goodInit) = 0 := by
  decide +kernel

/-- Port 0 waits for the partner's INIT. Livery 0 has lost its target there and holds a frame for it, which it may not send
there, and whose cell clears UP. -/
def upPart : Chip :=
  let key := regKey (pgLnk 0) 0x1008 0
  let c := (alignedPart.withWildBank key 0).setFlag pgRte 0x160C 0 true 0
  c.setLost 0 { LostSt.none with ports := [0], held := [(0, wildFrame key 0)] }

theorem upPart_waits : upPart.rxOn 0 = true ∧ upPart.narjo 0 = true ∧ (upPart.link 0).aligned = true ∧
    (upPart.link 0).initSent = true ∧ upPart.lnkFlag 0 0 = false := by
  decide +kernel

theorem upPart_takesInit : (upPart.ctlRx 0 goodInit 0 (fun b c => c.takeInit 0 b)).lnkFlag 0 0 = false := by
  decide +kernel

/-- What the statement says of UP as a good INIT comes to an aligned Narjo port 0 that is down and has sent its own. -/
theorem takeInit_up {c : Chip} (h : Obligations.LinksComeUpAndExchangeCredits) (hrx : c.rxOn 0 = true)
    (hn : c.narjo 0 = true) (ha : (c.link 0).aligned = true) (hs : (c.link 0).initSent = true)
    (hup : c.lnkFlag 0 0 = false) : (c.ctlRx 0 goodInit 0 (fun b c => c.takeInit 0 b)).lnkFlag 0 0 = true := by
  obtain ⟨_, _, _, _, _, hinit, _⟩ := h ⟨c, []⟩ 0 goodInit []
  obtain ⟨t, ht, _, _, _, _, _, hone, _⟩ := hinit ⟨hrx, hn⟩ ha goodInit_good hup
  rw [run_eq (f := fun c => c.ctlRx 0 goodInit 0 (fun b c => c.takeInit 0 b)) ht] at hone
  exact hone.trans hs

/-- Refutes O35, in its clause that the link is up once both INITs have passed: a link that comes up restores the lost
targets of its port, a held frame that its livery may not send there releases its cells whatever their numbers, and to wake
the bank of `wildCell` the release clears UP. The counterexample is `upPart`; no pool has such a cell (`wildBank_flag`), so
no command gives one to a frame. -/
theorem not_linksComeUpAndExchangeCredits : ¬ Obligations.LinksComeUpAndExchangeCredits := fun h => by
  obtain ⟨hrx, hn, ha, hs, hup⟩ := upPart_waits
  have hone := takeInit_up h hrx hn ha hs hup
  rw [upPart_takesInit] at hone
  exact absurd hone (by decide)

/-! A port that wakes (R250) -/

/-- The exit of a port from low-power idle, as LPI_EXIT_COMPLETE runs it. -/
def Chip.lpiExit (c : Chip) (p : Nat) : Chip :=
  let c := (c.setLink p { c.link p with lpi := .awake }).setLpiStat p 0 false
  (forAll (c.lanesOf p) (c.bumpPrt p 0x1208) (fun x c => (c.laneWoken x).injResume x)).startNext p CellRead.clean

/-- Port 0 wakes, and the frame that it holds clears bit 0 of the count of exits. -/
def wakingPart : Chip :=
  (alignedPart.setLink 0 { Link.reset with lpi := .waking }).withWildFrame (regKey (pgPrt 0) 0x1208 0) 0

theorem wakingPart_waking : wakingPart.rxOn 0 = true ∧ (wakingPart.link 0).lpi = .waking ∧
    wakingPart.reg (pgPrt 0) 0x1208 = 0 := by
  decide +kernel

theorem wakingPart_exits : (wakingPart.lpiExit 0).reg (pgPrt 0) 0x1208 = 0 := by decide +kernel

/-- What the statement says of the count of exits as port 0 ends one. -/
theorem lpiExit_counts {c : Chip} (h : Obligations.IdlePortsSleepAndWake) (hrx : c.rxOn 0 = true)
    (hl : (c.link 0).lpi = .waking) : (c.lpiExit 0).reg (pgPrt 0) 0x1208 = c.reg (pgPrt 0) 0x1208 + 1 := by
  obtain ⟨_, _, _, _, _, _, _, hexit, _⟩ := h ⟨c, []⟩ 0 hrx
  obtain ⟨t, ht, _, _, _, hone, _⟩ := hexit hl
  rw [run_eq (f := fun c => if c.rxOn 0 && decide ((c.link 0).lpi = .waking) then c.lpiExit 0 else c) ht] at hone
  simpa [hrx, hl] using hone

/-- Refutes O38, in its clause that the end of an exit is counted: the port's next frame starts after the count, its cells
are read whatever their numbers, and to wake the bank of `wildCell` the reading clears the bit that the count has set. The
counterexample is `wakingPart`; no pool has such a cell (`wildBank_flag`), so no command gives one to a frame. -/
theorem not_idlePortsSleepAndWake : ¬ Obligations.IdlePortsSleepAndWake := fun h => by
  obtain ⟨hrx, hl, hcount⟩ := wakingPart_waking
  have hone := lpiExit_counts h hrx hl
  rw [wakingPart_exits, hcount] at hone
  exact absurd hone (by decide)

/-! A port that is disabled (R233, R234) -/

/-- Port 0 holds a frame that clears TRAIN_EN of its physical port. -/
def enabledPart : Chip := alignedPart.withWildFrame (regKey (pgPrt 0) (prtCfgOff 0) 0) 9

theorem enabledPart_serves : enabledPart.serves (pgPrt 0) = true ∧ enabledPart.prtCfg 0 = 0x210 := by decide +kernel

theorem enabledPart_cfgWrite : ((enabledPart.cfgWrite 0 0x200).prtCfg 0).getLsbD 9 = false := by decide +kernel

/-- What the statement says of TRAIN_EN as a PRT_CFG write that sets it disables port 0. -/
theorem cfgWrite_trainEn {c : Chip} (h : Obligations.PatternsEyesAndPortsAreConfigured) (hs : c.serves (pgPrt 0) = true)
    (hc : c.prtCfg 0 = 0x210) : ((c.cfgWrite 0 0x200).prtCfg 0).getLsbD 9 = true := by
  obtain ⟨_, _, _, _, _, _, hwrite⟩ := h
  obtain ⟨_, htaken⟩ := hwrite ⟨c, []⟩ 0 0x200 hs
  obtain ⟨t, ht, _, _, _, hone, _⟩ := htaken (by
    simp only [Fin.val_zero, hc]
    rintro (hj | hr | ⟨hs, _⟩ | ⟨hne, _⟩)
    · exact absurd hj (by decide)
    · exact absurd hr (by decide)
    · exact absurd hs (by decide)
    · exact absurd hne (by decide))
  rw [run_eq (f := fun c => if c.serves (pgPrt 0) then c.cfgWrite 0 0x200 else c) ht] at hone
  simp only [hs, if_true] at hone
  exact hone

/-- Refutes O41, in its clause that PRT_CFG holds what a write that is not refused gives it: the frames of a port that the
write disables are discarded after PRT_CFG is written, they release their cells whatever their numbers, and to wake the bank
of `wildCell` the release clears TRAIN_EN. The counterexample is `enabledPart`; no pool has such a cell (`wildBank_flag`), so
no command gives one to a frame. -/
theorem not_patternsEyesAndPortsAreConfigured : ¬ Obligations.PatternsEyesAndPortsAreConfigured := fun h => by
  obtain ⟨hs, hc⟩ := enabledPart_serves
  have hone := cfgWrite_trainEn h hs hc
  rw [enabledPart_cfgWrite] at hone
  exact absurd hone (by decide)

end Sys2Proof.Machine
end

section
/-! The registers and the state of one lane (R235 to R248): reads after writes, and what an operation on a lane leaves to the
others. -/

namespace Sys2Proof.Machine

/-! Reads after writes -/

section
variable (c : Chip) (l : Nat)

@[simp] theorem Chip.sds_setSds (off : Nat) (v : W32) : (c.setSds l off v).sds l off = v := by
  simp [Chip.sds, Chip.setSds]

theorem Chip.sds_setSds_off {off off' : Nat} (v : W32) (ho : off < 0x10000) (ho' : off' < 0x10000) (h : off' ≠ off) :
    (c.setSds l off v).sds l off' = c.sds l off' :=
  c.reg_setReg_off v ho ho' h

@[simp] theorem Chip.sds_setLane (k : Nat) (x : LaneSt) (off : Nat) : (c.setLane k x).sds l off = c.sds l off := (rfl)
@[simp] theorem Chip.laneFlag_setLane (k : Nat) (x : LaneSt) (i : Nat) :
    (c.setLane k x).laneFlag l i = c.laneFlag l i := (rfl)
@[simp] theorem Chip.laneTrain_setLane (k : Nat) (x : LaneSt) : (c.setLane k x).laneTrain l = c.laneTrain l := (rfl)
@[simp] theorem Chip.lane_setLane (x : LaneSt) : (c.setLane l x).lane l = x := by simp [Chip.lane, Chip.setLane]
@[simp] theorem Chip.lane_setSds (k off : Nat) (v : W32) : (c.setSds k off v).lane l = c.lane l := (rfl)
@[simp] theorem Chip.lane_setLaneFlag (k i : Nat) (b : Bool) : (c.setLaneFlag k i b).lane l = c.lane l := (rfl)
@[simp] theorem Chip.lane_setLaneTrain (k v : Nat) : (c.setLaneTrain k v).lane l = c.lane l := (rfl)

@[simp] theorem Chip.laneFlag_setLaneFlag {i : Nat} (b : Bool) (hi : i < 32) :
    (c.setLaneFlag l i b).laneFlag l i = b := by
  simp [Chip.laneFlag, Chip.setLaneFlag, putBit, putFld_bit_same _ _ _ hi]

@[simp] theorem Chip.laneFlag_setLaneFlag_other {i j : Nat} (b : Bool) (h : j ≠ i) :
    (c.setLaneFlag l i b).laneFlag l j = c.laneFlag l j := by
  rw [Chip.laneFlag, Chip.setLaneFlag, Chip.sds_setSds, putBit, putFld_bit_other _ _ _ _ _ (by omega), Chip.laneFlag]

@[simp] theorem Chip.laneFlag_setLaneTrain {j : Nat} (v : Nat) (h : j < 8 ∨ 10 ≤ j) :
    (c.setLaneTrain l v).laneFlag l j = c.laneFlag l j := by
  rw [Chip.laneFlag, Chip.setLaneTrain, Chip.sds_setSds, putFld_bit_other _ _ _ _ _ h, Chip.laneFlag]

@[simp] theorem Chip.laneTrain_setLaneFlag {i : Nat} (b : Bool) (h : i < 8 ∨ 10 ≤ i) :
    (c.setLaneFlag l i b).laneTrain l = c.laneTrain l := by
  rw [Chip.laneTrain, Chip.setLaneFlag, Chip.sds_setSds, putBit, fld_putFld_other _ _ _ _ _ _ (by omega), Chip.laneTrain]

@[simp] theorem Chip.laneTrain_setLaneTrain {v : Nat} (h : v < 4) : (c.setLaneTrain l v).laneTrain l = v := by
  rw [Chip.laneTrain, Chip.setLaneTrain, Chip.sds_setSds, fld_putFld_same _ _ _ _ (by decide)]
  exact Nat.mod_eq_of_lt h

/-- The status word of a lane keeps its flags and its training when another SDS register of it is written. -/
theorem Chip.stat_setSds {off : Nat} (v : W32) (ho : off < 0x10000) (h : off ≠ sdsStat) :
    (∀ i, (c.setSds l off v).laneFlag l i = c.laneFlag l i) ∧ (c.setSds l off v).laneTrain l = c.laneTrain l := by
  simp only [Chip.laneFlag, Chip.laneTrain, c.sds_setSds_off l v ho (by decide : sdsStat < 0x10000) h.symm, implies_true,
    and_self]

@[simp] theorem Chip.laneFlag_setEye (v : W32) (i : Nat) : (c.setSds l sdsEye v).laneFlag l i = c.laneFlag l i :=
  (c.stat_setSds l v (by decide) (by decide)).1 i
@[simp] theorem Chip.laneTrain_setEye (v : W32) : (c.setSds l sdsEye v).laneTrain l = c.laneTrain l :=
  (c.stat_setSds l v (by decide) (by decide)).2
@[simp] theorem Chip.laneFlag_setTxEq (v : W32) (i : Nat) : (c.setSds l sdsTxEq v).laneFlag l i = c.laneFlag l i :=
  (c.stat_setSds l v (by decide) (by decide)).1 i
@[simp] theorem Chip.laneTrain_setTxEq (v : W32) : (c.setSds l sdsTxEq v).laneTrain l = c.laneTrain l :=
  (c.stat_setSds l v (by decide) (by decide)).2

@[simp] theorem Chip.txEq_setEye (v : W32) : (c.setSds l sdsEye v).sds l sdsTxEq = c.sds l sdsTxEq :=
  c.sds_setSds_off l v (by decide) (by decide) (by decide)
@[simp] theorem Chip.txEq_setLaneFlag (i : Nat) (b : Bool) : (c.setLaneFlag l i b).sds l sdsTxEq = c.sds l sdsTxEq :=
  c.sds_setSds_off l _ (by decide) (by decide) (by decide)
@[simp] theorem Chip.txEq_setLaneTrain (v : Nat) : (c.setLaneTrain l v).sds l sdsTxEq = c.sds l sdsTxEq :=
  c.sds_setSds_off l _ (by decide) (by decide) (by decide)

/-! The synthesisers -/

@[simp] theorem Chip.synth_setSynth (pp : Nat) (x : SynthSt) : (c.setSynth pp x).synth pp = x := by
  simp [Chip.synth, Chip.setSynth]
theorem Chip.synth_setSynth_other {pp q : Nat} (x : SynthSt) (h : q ≠ pp) : (c.setSynth pp x).synth q = c.synth q :=
  Tbl.get_set_other _ _ _ _ h
@[simp] theorem Chip.laneFlag_setSynth (pp : Nat) (x : SynthSt) (i : Nat) :
    (c.setSynth pp x).laneFlag l i = c.laneFlag l i := (rfl)

/-! What settling the alert causes leaves -/

@[simp] theorem Chip.settleAlerts_laneFlag (b : Chip) (i : Nat) :
    (Chip.settleAlerts b c).laneFlag l i = c.laneFlag l i := (rfl)
@[simp] theorem Chip.settleAlerts_synth (b : Chip) (pp : Nat) :
    (Chip.settleAlerts b c).synth pp = c.synth pp := (rfl)

/-! The groups of state that the writes change -/

theorem Chip.setSds_only (off : Nat) (v : W32) : Chip.only [.regs] c (c.setSds l off v) := c.setReg_only _ _ _ _
theorem Chip.setLane_only (x : LaneSt) : Chip.only [.port] c (c.setLane l x) := by simp [Chip.only, Chip.setLane]
theorem Chip.setSynth_only (pp : Nat) (x : SynthSt) : Chip.only [.port] c (c.setSynth pp x) := by
  simp [Chip.only, Chip.setSynth]
theorem Chip.setLaneFlag_only (i : Nat) (b : Bool) : Chip.only [.regs] c (c.setLaneFlag l i b) := c.setSds_only l _ _
end

/-! What an operation on one lane leaves -/

/-- Nothing changes but SDS registers and the lane state of lane `l`, what the outside saw and the open values drawn. -/
structure Chip.laneOnly (l : Nat) (a b : Chip) : Prop where
  regs : ∀ page off inst, page < 0x400 → off < 0x10000 → page ≠ pgSds (l / 128) ∨ inst ≠ l % 128 →
    b.reg page off inst = a.reg page off inst
  lanes : ∀ k, k ≠ l → b.lane k = a.lane k
  synth : b.port.synth = a.port.synth
  links : b.port.links = a.port.links
  only : Chip.only [.regs, .port, .out, .fresh] a b

section
variable {a b d : Chip} {l : Nat}

theorem Chip.laneOnly.refl (l : Nat) (a : Chip) : a.laneOnly l a :=
  ⟨fun _ _ _ _ _ _ => rfl, fun _ _ => rfl, rfl, rfl, Chip.only_rfl _ _⟩

theorem Chip.laneOnly.trans (h : a.laneOnly l b) (k : b.laneOnly l d) : a.laneOnly l d where
  regs page off inst hp ho hi := (k.regs page off inst hp ho hi).trans (h.regs page off inst hp ho hi)
  lanes j hj := (k.lanes j hj).trans (h.lanes j hj)
  synth := k.synth.trans h.synth
  links := k.links.trans h.links
  only := Chip.only_trans h.only k.only

theorem pgSds_lt (hl : l < 1024) : pgSds (l / 128) < 0x400 := by unfold pgSds; omega

theorem Chip.laneOnly_setSds (hl : l < 1024) {off : Nat} (ho : off < 0x10000) (v : W32) : a.laneOnly l (a.setSds l off v) where
  regs page off' inst hp ho' hi := a.reg_setReg_other v fun he => by
    obtain ⟨hpage, -, hinst⟩ := regKey_inj hp ho' (pgSds_lt hl) ho he
    exact hi.elim (· hpage) (· hinst)
  lanes _ _ := rfl
  synth := rfl
  links := rfl
  only := Chip.only_mono (by decide) (a.setSds_only l off v)

theorem Chip.laneOnly_setLaneFlag (hl : l < 1024) (i : Nat) (v : Bool) : a.laneOnly l (a.setLaneFlag l i v) :=
  Chip.laneOnly_setSds hl (by decide) _

theorem Chip.laneOnly_setLaneTrain (hl : l < 1024) (v : Nat) : a.laneOnly l (a.setLaneTrain l v) :=
  Chip.laneOnly_setSds hl (by decide) _

theorem Chip.laneOnly_setLane (x : LaneSt) : a.laneOnly l (a.setLane l x) where
  regs _ _ _ _ _ _ := rfl
  lanes _ hk := Tbl.get_set_other _ _ _ _ hk
  synth := rfl
  links := rfl
  only := Chip.only_mono (by decide) (a.setLane_only l x)

/-! What a lane reads beside its own registers -/

section
variable (h : a.laneOnly l b)
include h

theorem Chip.laneOnly.flt : b.flt = a.flt := by
  have := h.only
  unfold Chip.only at this
  simp_all

theorem Chip.laneOnly.synth_eq (pp : Nat) : b.synth pp = a.synth pp := by rw [Chip.synth, h.synth, Chip.synth]
theorem Chip.laneOnly.link (p : Nat) : b.link p = a.link p := by rw [Chip.link, h.links, Chip.link]

/-- The registers of the other pages keep their values. -/
theorem Chip.laneOnly.reg_page {page off : Nat} (inst : Nat) (hp : page < 0x400) (ho : off < 0x10000) (hne : page % 8 ≠ 1) :
    b.reg page off inst = a.reg page off inst :=
  h.regs page off inst hp ho (.inl (by unfold pgSds; omega))

theorem Chip.laneOnly.sds {k off : Nat} (hk : k < 1024) (ho : off < 0x10000) (hne : k ≠ l) : b.sds k off = a.sds k off :=
  h.regs _ off _ (pgSds_lt hk) ho (by unfold pgSds; omega)

theorem Chip.laneOnly.laneFlag {k : Nat} (hk : k < 1024) (hne : k ≠ l) (i : Nat) : b.laneFlag k i = a.laneFlag k i := by
  rw [Chip.laneFlag, h.sds hk (by decide) hne, Chip.laneFlag]

theorem Chip.laneOnly.laneTrain {k : Nat} (hk : k < 1024) (hne : k ≠ l) : b.laneTrain k = a.laneTrain k := by
  rw [Chip.laneTrain, h.sds hk (by decide) hne, Chip.laneTrain]

theorem Chip.laneOnly.prtCfg {pp : Nat} (hpp : pp < 256) : b.prtCfg pp = a.prtCfg pp :=
  h.reg_page _ (by unfold pgPrt; omega) (by unfold prtCfgOff; omega) (by unfold pgPrt; omega)

theorem Chip.laneOnly.split {pp : Nat} (hpp : pp < 256) : b.split pp = a.split pp := by
  rw [Chip.split, h.prtCfg hpp, Chip.split]

theorem Chip.laneOnly.portOfLane {k : Nat} (hk : k < 1024) : b.portOfLane k = a.portOfLane k := by
  rw [Chip.portOfLane, h.split (by omega), Chip.portOfLane]

theorem Chip.laneOnly.portWorks {p : Nat} (hp : p < 1024) : b.portWorks p = a.portWorks p := by
  have hphys : physOf p < 256 := by unfold physOf; omega
  have hmem : b.reg (pgMemP (portDie p)) 0x1040 = a.reg (pgMemP (portDie p)) 0x1040 :=
    h.reg_page _ (by unfold pgMemP portDie; omega) (by decide) (by unfold pgMemP; omega)
  simp only [Chip.portWorks, Chip.enabled, Chip.inUse, Chip.portBank, Chip.dieFailed, Chip.flag, h.split hphys,
    h.prtCfg hphys, h.flt, hmem]

end

theorem Chip.portOfLane_lt (c : Chip) {k : Nat} (hk : k < 1024) : c.portOfLane k < 1024 := by
  unfold Chip.portOfLane; split <;> omega

section
variable (h : a.laneOnly l b) {k : Nat} (hk : k < 1024)
include h hk

theorem Chip.laneOnly.laneEnabled : b.laneEnabled k = a.laneEnabled k := by
  rw [Chip.laneEnabled, h.portOfLane hk, h.portWorks (a.portOfLane_lt hk), Chip.laneEnabled]

theorem Chip.laneOnly.trainEn : b.trainEn k = a.trainEn k := by
  have hp := a.portOfLane_lt hk
  rw [Chip.trainEn, h.portOfLane hk, h.prtCfg (by unfold physOf; omega), Chip.trainEn]

theorem Chip.laneOnly.laneSleeps : b.laneSleeps k = a.laneSleeps k := by
  rw [Chip.laneSleeps, h.portOfLane hk, h.link, Chip.laneSleeps]

theorem Chip.laneOnly.synthReady : b.synthReady k = a.synthReady k := by
  rw [Chip.synthReady, h.split (by omega), h.synth_eq, h.synth_eq, h.synth_eq, Chip.synthReady]

theorem Chip.laneOnly.laneWanted (hctrl : b.sds k sdsCtrl = a.sds k sdsCtrl) : b.laneWanted k = a.laneWanted k := by
  rw [Chip.laneWanted, h.laneEnabled hk, hctrl, Chip.laneWanted]

omit hk in
theorem Chip.laneOnly.smbStatusWord : b.smbStatusWord = a.smbStatusWord := by
  refine Chip.smbStatusWord_congr (by rw [h.flt]) fun page hpage off ho => h.regs page off 0 ?_ ho (.inl ?_)
  all_goals
    simp only [List.mem_cons, List.not_mem_nil, or_false, pgPwr, pgThm, pgSec, pgSds] at hpage ⊢
    omega
end
end

end Sys2Proof.Machine
end

section
/-! What the operations on a lane do: settle windows (R248), the injector that waits (R245), electrical idle and the transmit
enables (R237, R239, R240). -/

namespace Sys2Proof.Machine

section
variable (c : Chip) (l : Nat)

/-! Settle windows -/

/-- Without CDR lock the settle window waits (R248). -/
theorem Chip.openSettle_unlocked {c : Chip} {l : Nat} (h : c.laneFlag l 6 = false) :
    c.openSettle l = c.setLane l { c.lane l with settleWaits := true } := by
  rw [Chip.openSettle, stCdr, if_neg (by simp [h])]

/-- With CDR lock the settle window opens: the checker is out of lock, and no eye report is valid (R247, R248). -/
theorem Chip.openSettle_opens {c : Chip} {l : Nat} (h : c.laneFlag l 6 = true) :
    (c.openSettle l).laneFlag l 7 = true ∧ (c.openSettle l).laneFlag l 10 = false ∧
      ((c.openSettle l).sds l 0x101C).getLsbD 31 = false ∧ ((c.openSettle l).lane l).eyeDirty = true := by
  rw [Chip.openSettle, stCdr, if_pos h]
  refine ⟨?_, ?_, ?_, ?_⟩
  · simp [stSettle, stChk]
  · simp [stChk]
  · rw [Chip.sds_setLane]
    exact (congrArg (·.getLsbD 31) (Chip.sds_setSds _ _ _ _)).trans (putFld_bit_same _ _ false (by decide))
  · simp

/-- A settle window leaves the other flags of the lane. -/
theorem Chip.laneFlag_openSettle {i : Nat} (h7 : i ≠ 7) (h10 : i ≠ 10) :
    (c.openSettle l).laneFlag l i = c.laneFlag l i := by
  unfold Chip.openSettle
  split
  · simp [stSettle, stChk, h7, h10]
  · rfl

@[simp] theorem Chip.laneTrain_openSettle : (c.openSettle l).laneTrain l = c.laneTrain l := by
  unfold Chip.openSettle
  split
  · simp [stSettle, stChk]
  · rfl

@[simp] theorem Chip.txEq_openSettle : (c.openSettle l).sds l sdsTxEq = c.sds l sdsTxEq := by
  unfold Chip.openSettle
  split
  · simp
  · rfl

/-- What training found for a lane: its taps and its precoding (R240). -/
def LaneSt.found (x : LaneSt) : W32 × Bool × Bool := (x.taps, x.precodeTx, x.precodeRx)

@[simp] theorem Chip.found_openSettle : ((c.openSettle l).lane l).found = (c.lane l).found := by
  unfold Chip.openSettle
  split <;> simp [LaneSt.found]

theorem Chip.openSettle_only : Chip.only [.regs, .port] c (c.openSettle l) := by
  have hflag : ∀ (d : Chip) i b, Chip.only [.regs, .port] d (d.setLaneFlag l i b) := fun d i b =>
    Chip.only_mono (by decide) (d.setLaneFlag_only l i b)
  have hsds : ∀ (d : Chip) off v, Chip.only [.regs, .port] d (d.setSds l off v) := fun d off v =>
    Chip.only_mono (by decide) (d.setSds_only l off v)
  have hlane : ∀ (d : Chip) x, Chip.only [.regs, .port] d (d.setLane l x) := fun d x =>
    Chip.only_mono (by decide) (d.setLane_only l x)
  unfold Chip.openSettle
  split
  · exact Chip.only_trans (Chip.only_trans (Chip.only_trans (hflag _ _ _) (hflag _ _ _)) (hsds _ _ _)) (hlane _ _)
  · exact hlane _ _

/-! The precoding in use -/

/-- A change of the precoding in use is two flags of the lane, and a settle window where one of them changed (R236). -/
theorem Chip.precodeUpdate_cases : ∃ tx rx,
    c.precodeUpdate l = (c.setLaneFlag l 11 tx).setLaneFlag l 12 rx ∨
    c.precodeUpdate l = ((c.setLaneFlag l 11 tx).setLaneFlag l 12 rx).openSettle l := by
  simp only [Chip.precodeUpdate]
  split <;> split
  · exact ⟨_, _, .inr rfl⟩
  · exact ⟨_, _, .inl rfl⟩
  · exact ⟨_, _, .inr rfl⟩
  · exact ⟨_, _, .inl rfl⟩

theorem Chip.laneFlag_precodeUpdate {i : Nat} (hi : i < 7) : (c.precodeUpdate l).laneFlag l i = c.laneFlag l i := by
  obtain ⟨tx, rx, h | h⟩ := c.precodeUpdate_cases l <;> rw [h]
  on_goal 2 => rw [Chip.laneFlag_openSettle _ _ (by omega) (by omega)]
  all_goals rw [Chip.laneFlag_setLaneFlag_other _ _ _ (by omega), Chip.laneFlag_setLaneFlag_other _ _ _ (by omega)]

@[simp] theorem Chip.laneTrain_precodeUpdate : (c.precodeUpdate l).laneTrain l = c.laneTrain l := by
  obtain ⟨tx, rx, h | h⟩ := c.precodeUpdate_cases l <;> rw [h] <;> simp

@[simp] theorem Chip.txEq_precodeUpdate : (c.precodeUpdate l).sds l sdsTxEq = c.sds l sdsTxEq := by
  obtain ⟨tx, rx, h | h⟩ := c.precodeUpdate_cases l <;> rw [h] <;> simp

@[simp] theorem Chip.found_precodeUpdate : ((c.precodeUpdate l).lane l).found = (c.lane l).found := by
  obtain ⟨tx, rx, h | h⟩ := c.precodeUpdate_cases l <;> rw [h] <;> simp

/-! The injector -/

/-- A burst of the injector changes the injector's part of the lane alone, what the outside saw, and the open values drawn. -/
theorem Chip.injBurst_eq (first : Bool) : ∃ n p e o, c.injBurst l first =
    { c.setLane l { c.lane l with injected := n, txPrev := p, injWaits := false, injEnd := e } with
      fresh := c.fresh + 2, out := o } := ⟨_, _, _, _, rfl⟩

/-- An injection that waits starts, or nothing changes (R245). -/
theorem Chip.injResume_cases : c.injResume l = c ∨ c.injResume l = c.injBurst l true := by
  unfold Chip.injResume
  split
  · exact .inr rfl
  · exact .inl rfl

/-- The injector writes no register. -/
@[simp] theorem Chip.sds_injResume (off : Nat) : (c.injResume l).sds l off = c.sds l off := by
  obtain h | h := c.injResume_cases l <;> rw [h]
  rfl

@[simp] theorem Chip.laneFlag_injResume (i : Nat) : (c.injResume l).laneFlag l i = c.laneFlag l i := by
  rw [Chip.laneFlag, Chip.sds_injResume, Chip.laneFlag]

@[simp] theorem Chip.laneTrain_injResume : (c.injResume l).laneTrain l = c.laneTrain l := by
  rw [Chip.laneTrain, Chip.sds_injResume, Chip.laneTrain]

/-- The injector leaves what training found, and the settle window. -/
theorem Chip.lane_injResume : ((c.injResume l).lane l).found = (c.lane l).found ∧
    ((c.injResume l).lane l).settleWaits = (c.lane l).settleWaits ∧
    ((c.injResume l).lane l).eyeDirty = (c.lane l).eyeDirty := by
  obtain h | h := c.injResume_cases l <;> rw [h]
  · exact ⟨rfl, rfl, rfl⟩
  · obtain ⟨n, p, e, o, hb⟩ := c.injBurst_eq l true
    rw [hb]
    have hlane : ∀ (d : Chip) f o, ({ d with fresh := f, out := o } : Chip).lane l = d.lane l := fun _ _ _ => rfl
    rw [hlane, Chip.lane_setLane]
    exact ⟨rfl, rfl, rfl⟩
end

/-! Electrical idle and the transmit enables -/

section
variable (c : Chip) (l : Nat)

theorem Chip.laneIdle_idle : (c.laneIdle l).laneFlag l 1 = true ∧ (c.laneIdle l).laneTrain l = 0 := by
  simp [Chip.laneIdle, stIdle]

/-- Electrical idle leaves the flags but two of the lane. -/
theorem Chip.laneFlag_laneIdle {i : Nat} (hlo : 2 ≤ i) (hhi : i < 8) : (c.laneIdle l).laneFlag l i = c.laneFlag l i := by
  simp [Chip.laneIdle, stIdle, stHeld, hhi, show i ≠ 0 by omega, show i ≠ 1 by omega]

@[simp] theorem Chip.laneFlag_laneWoken {i : Nat} (h : i ≠ 1) : (c.laneWoken l).laneFlag l i = c.laneFlag l i := by
  simp [Chip.laneWoken, stIdle, h]

theorem Chip.laneFlag_laneStart {i : Nat} (hlo : 2 ≤ i) (hhi : i < 8) : (c.laneStart l).laneFlag l i = c.laneFlag l i := by
  simp [Chip.laneStart, stHeld, hhi, show i ≠ 0 by omega, show i ≠ 1 by omega]

variable {l}

section
variable (hl : l < 1024)
include hl

theorem Chip.laneOnly_openSettle : c.laneOnly l (c.openSettle l) := by
  unfold Chip.openSettle
  split
  · exact (((Chip.laneOnly_setLaneFlag hl _ _).trans (Chip.laneOnly_setLaneFlag hl _ _)).trans
      (Chip.laneOnly_setSds hl (by decide) _)).trans (Chip.laneOnly_setLane _)
  · exact Chip.laneOnly_setLane _

theorem Chip.laneOnly_precodeUpdate : c.laneOnly l (c.precodeUpdate l) := by
  obtain ⟨tx, rx, h | h⟩ := c.precodeUpdate_cases l <;> rw [h]
  · exact (Chip.laneOnly_setLaneFlag hl _ _).trans (Chip.laneOnly_setLaneFlag hl _ _)
  · exact ((Chip.laneOnly_setLaneFlag hl _ _).trans (Chip.laneOnly_setLaneFlag hl _ _)).trans
      (Chip.laneOnly_openSettle _ hl)

omit hl in
theorem Chip.laneOnly_injResume : c.laneOnly l (c.injResume l) := by
  obtain h | h := c.injResume_cases l <;> rw [h]
  · exact .refl l c
  · obtain ⟨n, p, e, o, hb⟩ := c.injBurst_eq l true
    rw [hb]
    refine (Chip.laneOnly_setLane _).trans ⟨fun _ _ _ _ _ _ => rfl, fun _ _ => rfl, rfl, rfl, ?_⟩
    simp [Chip.only]

theorem Chip.laneOnly_laneWoken : c.laneOnly l (c.laneWoken l) :=
  (Chip.laneOnly_setLaneFlag hl _ _).trans (Chip.laneOnly_setLane _)

theorem Chip.laneOnly_laneIdle : c.laneOnly l (c.laneIdle l) :=
  ((Chip.laneOnly_setLaneFlag hl _ _).trans (Chip.laneOnly_setLaneFlag hl _ _)).trans (Chip.laneOnly_setLaneTrain hl _)

theorem Chip.laneOnly_laneStart : c.laneOnly l (c.laneStart l) :=
  (((Chip.laneOnly_setLaneFlag hl _ _).trans (Chip.laneOnly_laneWoken _ hl)).trans
    (Chip.laneOnly_setLaneTrain hl _)).trans (Chip.laneOnly_injResume _)

theorem Chip.laneOnly_laneUpdate : c.laneOnly l (c.laneUpdate l) := by
  unfold Chip.laneUpdate
  split
  · split
    · split
      · exact c.laneOnly_laneStart hl
      · exact .refl l c
    · exact (c.laneOnly_laneIdle hl).trans (Chip.laneOnly_setLaneFlag hl _ _)
  · exact c.laneOnly_laneIdle hl

/-- A lane that starts is out of electrical idle, and trains where its port is enabled with TRAIN_EN. -/
theorem Chip.laneStart_starts : (c.laneStart l).laneFlag l 1 = false ∧
    (c.laneStart l).laneTrain l = if c.laneEnabled l && c.trainEn l then 1 else 0 := by
  have h : c.laneOnly l ((c.setLaneFlag l stHeld false).laneWoken l) :=
    (Chip.laneOnly_setLaneFlag hl _ _).trans (Chip.laneOnly_laneWoken _ hl)
  have hlt : (if c.laneEnabled l && c.trainEn l then 1 else 0) < 4 := by split <;> decide
  simp only [Chip.laneStart, h.laneEnabled hl, h.trainEn hl, Chip.laneFlag_injResume, Chip.laneTrain_injResume,
    Chip.laneTrain_setLaneTrain _ _ hlt, and_true]
  simp [Chip.laneWoken, stIdle]
end

/-- Following its transmit enables leaves the flags but two of a lane. -/
theorem Chip.laneFlag_laneUpdate {i : Nat} (hlo : 2 ≤ i) (hhi : i < 8) :
    (c.laneUpdate l).laneFlag l i = c.laneFlag l i := by
  unfold Chip.laneUpdate
  split
  · split
    · split
      · exact c.laneFlag_laneStart l hlo hhi
      · rfl
    · rw [Chip.laneFlag_setLaneFlag_other _ _ _ (by unfold stHeld; omega), c.laneFlag_laneIdle l hlo hhi]
  · exact c.laneFlag_laneIdle l hlo hhi

variable {c}

/-- A wanted lane that does not sleep, its synthesisers ready, is out of electrical idle; if it was in it, it starts. -/
theorem Chip.laneUpdate_wanted (hl : l < 1024) (hw : c.laneWanted l = true) (hr : c.synthReady l = true)
    (hs : c.laneSleeps l = false) : (c.laneUpdate l).laneFlag l 1 = false ∧
      (c.laneFlag l 1 = true → (c.laneUpdate l).laneTrain l = if c.laneEnabled l && c.trainEn l then 1 else 0) := by
  rw [Chip.laneUpdate, if_pos hw, if_pos hr, hs]
  cases hidle : c.laneFlag l stIdle
  · exact ⟨hidle, fun h => absurd hidle (by simp [stIdle, h])⟩
  · obtain ⟨hflag, htrain⟩ := c.laneStart_starts hl
    exact ⟨hflag, fun _ => htrain⟩

/-- An unwanted lane goes idle. -/
theorem Chip.laneUpdate_unwanted (hw : c.laneWanted l = false) :
    (c.laneUpdate l).laneFlag l 1 = true ∧ (c.laneUpdate l).laneTrain l = 0 := by
  rw [Chip.laneUpdate, if_neg (by simp [hw])]
  exact c.laneIdle_idle l
end

end Sys2Proof.Machine
end

section
/-! Synthesisers, training and settle windows (R237 to R240, R247, R248): what the commands of a lane and of a synthesiser
answer. -/

namespace Sys2Proof.Machine

/-! Loops over lanes -/

/-- A relation that every pass of a loop keeps holds between the part before and after it. -/
theorem forAll_keeps {α σ : Type} {R : σ → σ → Prop} (hrefl : ∀ c, R c c) (htrans : ∀ a b d, R a b → R b d → R a d)
    {f : α → σ → σ} {xs : List α} (hf : ∀ x ∈ xs, ∀ c, R c (f x c)) (c : σ) : R c (forAll xs c f) := by
  show R c (xs.foldl _ c)
  induction xs generalizing c with
  | nil => exact hrefl c
  | cons x xs ih =>
    exact htrans _ _ _ (hf x List.mem_cons_self c) (ih (fun y hy => hf y (List.mem_cons_of_mem x hy)) (f x c))

/-- A loop without repetitions does what its body does at one member, up to a relation that the other members keep. -/
theorem forAll_once {α σ : Type} {R : σ → σ → Prop} (hrefl : ∀ c, R c c) (htrans : ∀ a b d, R a b → R b d → R a d)
    {f : α → σ → σ} {a : α} {xs : List α} (hf : ∀ x ∈ xs, x ≠ a → ∀ c, R c (f x c)) (hnodup : xs.Nodup) (hmem : a ∈ xs)
    (c : σ) : ∃ d, R c d ∧ R (f a d) (forAll xs c f) := by
  obtain ⟨pre, post, rfl⟩ := List.append_of_mem hmem
  obtain ⟨hpost, hpre⟩ : a ∉ post ∧ a ∉ pre := by
    have := List.nodup_middle.1 hnodup
    simp only [List.nodup_cons, List.mem_append, not_or] at this
    exact ⟨this.1.2, this.1.1⟩
  have hsplit : forAll (pre ++ a :: post) c f = forAll post (f a (forAll pre c f)) f := by
    simp [forAll]
  rw [hsplit]
  refine ⟨forAll pre c f, forAll_keeps hrefl htrans (fun x hx => hf x ?_ ?_) c,
    forAll_keeps hrefl htrans (fun x hx => hf x ?_ ?_) _⟩
  · exact List.mem_append_left _ hx
  · exact fun h => hpre (h ▸ hx)
  · exact List.mem_append_right _ (List.mem_cons_of_mem _ hx)
  · exact fun h => hpost (h ▸ hx)

theorem mem_lanesOfPhys {pp l : Nat} : l ∈ lanesOfPhys pp ↔ l / 4 = pp := by
  simp only [lanesOfPhys, List.mem_cons, List.not_mem_nil, or_false]
  omega

theorem lanesOfPhys_nodup (pp : Nat) : (lanesOfPhys pp).Nodup := by
  simp [lanesOfPhys]

/-- The other physical port of the pair that a joined port takes (R231). -/
def joinedWith (pp : Nat) : Nat := pp / 2 * 2 + (1 - pp % 2)

theorem lanes_joinedWith_nodup (pp : Nat) (joined : Bool) :
    (lanesOfPhys pp ++ (if joined then lanesOfPhys (joinedWith pp) else [])).Nodup := by
  have hne : pp ≠ joinedWith pp := by unfold joinedWith; omega
  cases joined
  · simpa using lanesOfPhys_nodup pp
  · refine List.nodup_append.2 ⟨lanesOfPhys_nodup _, lanesOfPhys_nodup _, fun x hx y hy hxy => hne ?_⟩
    have hy' : y ∈ lanesOfPhys (joinedWith pp) := by simpa using hy
    exact (mem_lanesOfPhys.1 hx).symm.trans ((congrArg (· / 4) hxy).trans (mem_lanesOfPhys.1 hy'))

/-! What a lane is told by the rest of the part -/

/-- Whether a lane is wanted, whether its port is enabled and trains, whether it sleeps, and whether its synthesisers are
settled: what the transmit enables of a lane work on. -/
def Chip.laneRole (c : Chip) (l : Nat) : Bool × Bool × Bool × Bool × Bool :=
  (c.laneWanted l, c.laneEnabled l, c.trainEn l, c.laneSleeps l, c.synthReady l)

/-- Lane `l` stands as before: its status word, and what the rest of the part tells it. -/
structure Chip.sameLane (l : Nat) (a b : Chip) : Prop where
  flag : ∀ i, b.laneFlag l i = a.laneFlag l i
  train : b.laneTrain l = a.laneTrain l
  role : b.laneRole l = a.laneRole l

theorem Chip.sameLane.refl (l : Nat) (a : Chip) : a.sameLane l a := ⟨fun _ => rfl, rfl, rfl⟩

theorem Chip.sameLane.trans (l : Nat) (a b d : Chip) (h : a.sameLane l b) (k : b.sameLane l d) : a.sameLane l d :=
  ⟨fun i => (k.flag i).trans (h.flag i), k.train.trans h.train, k.role.trans h.role⟩

section
variable {a b : Chip} {k l : Nat}

theorem Chip.laneOnly.laneRole (h : a.laneOnly k b) (hl : l < 1024) (hctrl : b.sds l sdsCtrl = a.sds l sdsCtrl) :
    b.laneRole l = a.laneRole l := by
  rw [Chip.laneRole, h.laneWanted hl hctrl, h.laneEnabled hl, h.trainEn hl, h.laneSleeps hl, h.synthReady hl,
    Chip.laneRole]

/-- An operation on another lane leaves a lane as it stands. -/
theorem Chip.laneOnly.sameLane (h : a.laneOnly k b) (hl : l < 1024) (hne : l ≠ k) : a.sameLane l b :=
  ⟨h.laneFlag hl hne, h.laneTrain hl hne, h.laneRole hl (h.sds hl (by decide) hne)⟩

theorem Chip.laneRole_setLaneFlag (hk : k < 1024) (hl : l < 1024) (i : Nat) (v : Bool) :
    (a.setLaneFlag k i v).laneRole l = a.laneRole l := by
  have h : a.laneOnly k (a.setLaneFlag k i v) := Chip.laneOnly_setLaneFlag hk i v
  by_cases hlk : l = k
  · subst hlk
    exact h.laneRole hl (a.sds_setSds_off l _ (by decide) (by decide) (by decide))
  · exact h.laneRole hl (h.sds hl (by decide) hlk)

theorem Chip.laneFlag_setLaneFlag_ne (hk : k < 1024) (hl : l < 1024) {i j : Nat} (v : Bool) (h : j ≠ i) :
    (a.setLaneFlag k i v).laneFlag l j = a.laneFlag l j := by
  by_cases hlk : l = k
  · subst hlk
    exact a.laneFlag_setLaneFlag_other l v h
  · exact (Chip.laneOnly_setLaneFlag hk i v).laneFlag hl hlk j
end

/-! A flag of the four lanes of a physical port -/

section
variable (c : Chip) {pp l i : Nat} (v : Bool)

/-- The four lanes of a physical port with a flag set or cleared. -/
def Chip.setPhysFlag (c : Chip) (pp i : Nat) (v : Bool) : Chip :=
  forAll (lanesOfPhys pp) c (fun l c => c.setLaneFlag l i v)

section
variable (hpp : pp < 256) (hl : l / 4 = pp)
include hpp hl

theorem Chip.laneFlag_setPhysFlag (hi : i < 32) : (c.setPhysFlag pp i v).laneFlag l i = v := by
  have hlt : ∀ k ∈ lanesOfPhys pp, k < 1024 := fun k hk => by have := mem_lanesOfPhys.1 hk; omega
  have hmem := mem_lanesOfPhys.2 hl
  obtain ⟨d, -, hd⟩ := forAll_once (R := Chip.sameLane l) (Chip.sameLane.refl l) (Chip.sameLane.trans l)
    (f := fun k c => c.setLaneFlag k i v) (a := l)
    (fun k hk hne d => (Chip.laneOnly_setLaneFlag (hlt k hk) i v).sameLane (hlt l hmem) (Ne.symm hne))
    (lanesOfPhys_nodup pp) hmem c
  exact (hd.flag i).trans (d.laneFlag_setLaneFlag l v hi)

theorem Chip.laneFlag_setPhysFlag_other {j : Nat} (h : j ≠ i) :
    (c.setPhysFlag pp i v).laneFlag l j = c.laneFlag l j :=
  forAll_keeps (R := fun a b : Chip => b.laneFlag l j = a.laneFlag l j) (fun _ => rfl) (fun _ _ _ h k => k.trans h)
    (fun k hk _ => Chip.laneFlag_setLaneFlag_ne (by have := mem_lanesOfPhys.1 hk; omega) (by omega) v h) c

theorem Chip.laneRole_setPhysFlag : (c.setPhysFlag pp i v).laneRole l = c.laneRole l :=
  forAll_keeps (R := fun a b : Chip => b.laneRole l = a.laneRole l) (fun _ => rfl) (fun _ _ _ h k => k.trans h)
    (fun k hk _ => Chip.laneRole_setLaneFlag (by have := mem_lanesOfPhys.1 hk; omega) (by omega) i v) c
end

@[simp] theorem Chip.setPhysFlag_port : (c.setPhysFlag pp i v).port = c.port :=
  keep_forAll Chip.port _ c _ fun _ _ => rfl
@[simp] theorem Chip.setPhysFlag_ev : (c.setPhysFlag pp i v).ev = c.ev :=
  keep_forAll Chip.ev _ c _ fun _ _ => rfl
theorem Chip.synth_setPhysFlag (q : Nat) : (c.setPhysFlag pp i v).synth q = c.synth q := by
  rw [Chip.synth, Chip.setPhysFlag_port, Chip.synth]
theorem Chip.setPhysFlag_only : Chip.only [.regs] c (c.setPhysFlag pp i v) :=
  Chip.only_forAll c _ _ fun l d => d.setLaneFlag_only l i v
end

/-! The synthesisers -/

section
variable {c : Chip} {pp l : Nat}

/-- A synthesiser that is ready serves its lanes, the other one of a joined port being ready too (R237). -/
theorem Chip.synthReady_setSynth (hl : l / 4 = pp) (hpair : c.split pp = 3 → c.synth (joinedWith pp) = .ready) :
    (c.setSynth pp .ready).synthReady l = true := by
  have hsplit : (c.setSynth pp .ready).split (l / 4) = c.split pp := by rw [hl]; rfl
  rw [Chip.synthReady, hsplit]
  split
  · next h3 =>
    have hother : (c.setSynth pp .ready).synth (joinedWith pp) = .ready := by
      rw [Chip.synth_setSynth_other _ _ (by unfold joinedWith; omega), hpair h3]
    have hself := c.synth_setSynth pp .ready
    obtain ⟨h0, h1⟩ | ⟨h0, h1⟩ : (l / 8 * 2 = pp ∧ l / 8 * 2 + 1 = joinedWith pp) ∨
        (l / 8 * 2 = joinedWith pp ∧ l / 8 * 2 + 1 = pp) := by unfold joinedWith; omega
    all_goals
      rw [h1, h0]
      simp [hself, hother]
  · simp [hl]

theorem Chip.synthLock_settling (h : c.synth pp = .settling) :
    c.synthLock pp = (c.setSynth pp .calibrating).setPhysFlag pp 2 true := by
  rw [Chip.synthLock, if_pos h, Chip.setPhysFlag, stLock]

theorem Chip.synthTimeout_settling (h : c.synth pp = .settling) :
    c.synthTimeout pp = (c.setPhysFlag pp 3 true).raise (evP (pgSds (pp / 32)) 0x0501 (pp / 32) (pp * 4)) := by
  rw [Chip.synthTimeout, if_pos h]
  rfl

/-- The lanes that are looked at when a synthesiser is calibrated (R237). -/
def Chip.calLanes (c : Chip) (pp : Nat) : List Nat :=
  lanesOfPhys pp ++ (if c.split pp = 3 then lanesOfPhys (joinedWith pp) else [])

theorem Chip.calLanes_nodup (c : Chip) (pp : Nat) : (c.calLanes pp).Nodup := by
  simpa [Chip.calLanes] using lanes_joinedWith_nodup pp (c.split pp = 3)

theorem Chip.calLanes_lt (hpp : pp < 256) (hl : l ∈ c.calLanes pp) : l < 1024 := by
  obtain h | h := List.mem_append.1 hl
  · have := mem_lanesOfPhys.1 h
    omega
  · split at h
    · have := mem_lanesOfPhys.1 h
      unfold joinedWith at this
      omega
    · exact absurd h List.not_mem_nil

theorem Chip.split_setPhysFlag (hpp : pp < 256) (i : Nat) (v : Bool) : (c.setPhysFlag pp i v).split pp = c.split pp :=
  forAll_keeps (R := fun a b : Chip => b.split pp = a.split pp) (fun _ => rfl) (fun _ _ _ h k => k.trans h)
    (fun k hk _ => (Chip.laneOnly_setLaneFlag (by have := mem_lanesOfPhys.1 hk; omega) i v).split hpp) c

theorem Chip.synthCal_calibrating (hpp : pp < 256) (h : c.synth pp = .calibrating) :
    c.synthCal pp = forAll (c.calLanes pp) ((c.setSynth pp .ready).setPhysFlag pp 4 true) (fun l c => c.laneUpdate l) := by
  have hsplit : ((c.setSynth pp .ready).setPhysFlag pp 4 true).split pp = c.split pp := Chip.split_setPhysFlag hpp 4 true
  rw [Chip.synthCal, if_pos h, Chip.calLanes, ← hsplit]
  rfl

/-- A loop of lanes that follow their transmit enables leaves the synthesisers. -/
theorem Chip.synth_forAll_laneUpdate {xs : List Nat} (hxs : ∀ x ∈ xs, x < 1024) (q : Nat) :
    (forAll xs c (fun l c => c.laneUpdate l)).synth q = c.synth q :=
  forAll_keeps (R := fun a b : Chip => b.synth q = a.synth q) (fun _ => rfl) (fun _ _ _ h k => k.trans h)
    (fun x hx d => (d.laneOnly_laneUpdate (hxs x hx)).synth_eq q) c

/-- In a loop of lanes that follow their transmit enables, each does so from where it stands. -/
theorem Chip.sameLane_forAll_laneUpdate {xs : List Nat} (hxs : ∀ x ∈ xs, x < 1024) (hnodup : xs.Nodup) (hmem : l ∈ xs) :
    ∃ d, c.sameLane l d ∧ (d.laneUpdate l).sameLane l (forAll xs c (fun l c => c.laneUpdate l)) :=
  forAll_once (Chip.sameLane.refl l) (Chip.sameLane.trans l) (f := fun l c => c.laneUpdate l) (a := l)
    (fun k hk hne d => (d.laneOnly_laneUpdate (hxs k hk)).sameLane (hxs l hmem) (Ne.symm hne)) hnodup hmem c

theorem Chip.synthCal_synth (hpp : pp < 256) (h : c.synth pp = .calibrating) (q : Nat) :
    (c.synthCal pp).synth q = (c.setSynth pp .ready).synth q := by
  rw [Chip.synthCal_calibrating hpp h, Chip.synth_forAll_laneUpdate (fun x hx => Chip.calLanes_lt hpp hx),
    Chip.synth_setPhysFlag]

/-- Calibration done: each lane of the port has CAL set, and follows its transmit enables with its synthesiser ready. -/
theorem Chip.synthCal_lane (hpp : pp < 256) (h : c.synth pp = .calibrating) (hl : l / 4 = pp) :
    ∃ d : Chip, d.laneFlag l 4 = true ∧ d.laneFlag l 1 = c.laneFlag l 1 ∧
      d.laneRole l = (c.setSynth pp .ready).laneRole l ∧ (d.laneUpdate l).sameLane l (c.synthCal pp) := by
  have hmem : l ∈ c.calLanes pp := List.mem_append_left _ (mem_lanesOfPhys.2 hl)
  rw [Chip.synthCal_calibrating hpp h]
  obtain ⟨d, hd, ht⟩ := Chip.sameLane_forAll_laneUpdate (c := (c.setSynth pp .ready).setPhysFlag pp 4 true)
    (fun x hx => Chip.calLanes_lt hpp hx) (c.calLanes_nodup pp) hmem
  refine ⟨d, ?_, ?_, ?_, ht⟩
  · rw [hd.flag, Chip.laneFlag_setPhysFlag _ _ hpp hl (by decide)]
  · rw [hd.flag, Chip.laneFlag_setPhysFlag_other _ _ hpp hl (by decide), Chip.laneFlag_setSynth]
  · rw [hd.role, Chip.laneRole_setPhysFlag _ _ hpp hl]

theorem Chip.synthCal_cal (hpp : pp < 256) (h : c.synth pp = .calibrating) (hl : l / 4 = pp) :
    (c.synthCal pp).laneFlag l 4 = true := by
  obtain ⟨d, hcal, -, -, ht⟩ := Chip.synthCal_lane hpp h hl
  rw [ht.flag, d.laneFlag_laneUpdate (by decide) (by decide), hcal]

/-- Calibration done, no other synthesiser waited for: a wanted lane that does not sleep starts out of electrical idle. -/
theorem Chip.synthCal_wanted (hpp : pp < 256) (h : c.synth pp = .calibrating) (hl : l / 4 = pp)
    (hpair : c.split pp = 3 → c.synth (joinedWith pp) = .ready) (hw : c.laneWanted l = true) (hs : c.laneSleeps l = false) :
    (c.synthCal pp).laneFlag l 1 = false ∧
      (c.laneFlag l 1 = true → (c.synthCal pp).laneTrain l = if c.laneEnabled l && c.trainEn l then 1 else 0) := by
  obtain ⟨d, -, hidle, hrole, ht⟩ := Chip.synthCal_lane hpp h hl
  simp only [Chip.laneRole, Prod.mk.injEq] at hrole
  obtain ⟨hwanted, henabled, htrain, hsleeps, hready⟩ := hrole
  obtain ⟨hout, hstart⟩ := Chip.laneUpdate_wanted (c := d) (l := l) (by omega) (hwanted.trans hw)
    (hready.trans (Chip.synthReady_setSynth hl hpair)) (hsleeps.trans hs)
  rw [henabled, htrain, hidle] at hstart
  rw [ht.flag, ht.train]
  exact ⟨hout, hstart⟩

/-- Calibration done: an unwanted lane idles. -/
theorem Chip.synthCal_unwanted (hpp : pp < 256) (h : c.synth pp = .calibrating) (hl : l / 4 = pp)
    (hw : c.laneWanted l = false) : (c.synthCal pp).laneFlag l 1 = true ∧ (c.synthCal pp).laneTrain l = 0 := by
  obtain ⟨d, -, -, hrole, ht⟩ := Chip.synthCal_lane hpp h hl
  simp only [Chip.laneRole, Prod.mk.injEq] at hrole
  rw [ht.flag, ht.train]
  exact Chip.laneUpdate_unwanted (hrole.1.trans hw)
end

/-! Training -/

section
variable {c : Chip} {l : Nat}

/-- The part with what training found (R240): TRAIN done, and the taps in SDS_TX_EQ unless it overrides. -/
def Chip.trained (c : Chip) (l : Nat) (taps : W32) (tx rx : Bool) : Chip :=
  let d := (c.setLaneTrain l 2).setLane l { c.lane l with taps := taps &&& 0x03FFFFFF, precodeTx := tx, precodeRx := rx }
  if (c.sds l sdsTxEq).getLsbD 31 then d else d.setSds l sdsTxEq (taps &&& 0x03FFFFFF)

theorem Chip.trainDone_ok (taps : W32) (tx rx : Bool) (h : c.laneTrain l = 1) :
    c.trainDone l true taps tx rx = (((c.trained l taps tx rx).precodeUpdate l).openSettle l).injResume l := by
  simp only [Chip.trainDone, if_neg (not_not.2 h), if_true, Chip.trained, Chip.sds_setLane, Chip.txEq_setLaneTrain]

theorem Chip.trainDone_failed (taps : W32) (tx rx : Bool) (h : c.laneTrain l = 1) :
    c.trainDone l false taps tx rx = (c.setLaneTrain l 3).raise (evP (pgSds (l / 128)) 0x0502 (l / 128) l) := by
  rw [Chip.trainDone, if_neg (not_not.2 h), if_neg Bool.false_ne_true]
  rfl

theorem Chip.trained_found (taps : W32) (tx rx : Bool) :
    ((c.trained l taps tx rx).lane l).found = (taps &&& 0x03FFFFFF, tx, rx) := by
  unfold Chip.trained
  split <;> simp [LaneSt.found]

theorem Chip.laneTrain_trained (taps : W32) (tx rx : Bool) : (c.trained l taps tx rx).laneTrain l = 2 := by
  unfold Chip.trained
  split <;> simp

theorem Chip.laneFlag_trained (taps : W32) (tx rx : Bool) {i : Nat} (hi : i < 8) :
    (c.trained l taps tx rx).laneFlag l i = c.laneFlag l i := by
  unfold Chip.trained
  split <;> simp [hi]

theorem Chip.txEq_trained (taps : W32) (tx rx : Bool) : (c.trained l taps tx rx).sds l sdsTxEq =
    if (c.sds l sdsTxEq).getLsbD 31 then c.sds l sdsTxEq else taps &&& 0x03FFFFFF := by
  unfold Chip.trained
  split <;> simp

theorem Chip.laneOnly_trained (hl : l < 1024) (taps : W32) (tx rx : Bool) : c.laneOnly l (c.trained l taps tx rx) := by
  have h := (Chip.laneOnly_setLaneTrain hl 2 : c.laneOnly l _).trans
    (Chip.laneOnly_setLane { c.lane l with taps := taps &&& 0x03FFFFFF, precodeTx := tx, precodeRx := rx })
  unfold Chip.trained
  split
  · exact h
  · exact h.trans (Chip.laneOnly_setSds hl (by decide) _)

theorem Chip.laneOnly_trainDone (hl : l < 1024) (taps : W32) (tx rx : Bool) (h : c.laneTrain l = 1) :
    c.laneOnly l (c.trainDone l true taps tx rx) := by
  rw [Chip.trainDone_ok taps tx rx h]
  exact (((Chip.laneOnly_trained hl taps tx rx).trans (Chip.laneOnly_precodeUpdate _ hl)).trans
    (Chip.laneOnly_openSettle _ hl)).trans (Chip.laneOnly_injResume _)

/-- The settle window that an event on a lane opens: at once with CDR lock, else it waits (R248). -/
def Chip.settled (c : Chip) (l : Nat) (t : Chip) : Prop :=
  (c.laneFlag l 6 = true → t.laneFlag l 7 = true ∧ t.laneFlag l 10 = false ∧
    (t.sds l 0x101C).getLsbD 31 = false ∧ (t.lane l).eyeDirty = true) ∧
  (c.laneFlag l 6 = false → (t.lane l).settleWaits = true)

theorem Chip.settled_openSettle (c : Chip) (l : Nat) : c.settled l ((c.openSettle l).injResume l) := by
  obtain ⟨-, hwaits, hdirty⟩ := (c.openSettle l).lane_injResume l
  simp only [Chip.settled, Chip.laneFlag_injResume, Chip.sds_injResume, hwaits, hdirty]
  refine ⟨Chip.openSettle_opens, fun h => ?_⟩
  rw [Chip.openSettle_unlocked h, Chip.lane_setLane]

theorem Chip.settled_trainDone (taps : W32) (tx rx : Bool) (h : c.laneTrain l = 1) :
    c.settled l (c.trainDone l true taps tx rx) := by
  have hcdr : ((c.trained l taps tx rx).precodeUpdate l).laneFlag l 6 = c.laneFlag l 6 := by
    rw [Chip.laneFlag_precodeUpdate _ _ (by decide), Chip.laneFlag_trained _ _ _ (by decide)]
  have hsettled := ((c.trained l taps tx rx).precodeUpdate l).settled_openSettle l
  rw [Chip.trainDone_ok taps tx rx h]
  rwa [Chip.settled, hcdr] at hsettled

/-- Training that succeeds: TRAIN reads done, and the lane keeps the taps and the precoding found. -/
theorem Chip.trainDone_keeps (taps : W32) (tx rx : Bool) (h : c.laneTrain l = 1) :
    (c.trainDone l true taps tx rx).laneTrain l = 2 ∧
      ((c.trainDone l true taps tx rx).lane l).found = (taps &&& 0x03FFFFFF, tx, rx) ∧
      (c.trainDone l true taps tx rx).sds l sdsTxEq =
        if (c.sds l sdsTxEq).getLsbD 31 then c.sds l sdsTxEq else taps &&& 0x03FFFFFF := by
  rw [Chip.trainDone_ok taps tx rx h]
  refine ⟨?_, ?_, ?_⟩
  · simp [Chip.laneTrain_trained]
  · rw [(Chip.lane_injResume _ l).1, Chip.found_openSettle, Chip.found_precodeUpdate, Chip.trained_found]
  · simp [Chip.txEq_trained]

/-- CDR lock opens a settle window on the lane (R248). -/
theorem Chip.cdrLock_opens (c : Chip) (l : Nat) :
    (c.cdrLock l).laneFlag l 6 = true ∧ (c.cdrLock l).laneFlag l 5 = true ∧ (c.cdrLock l).laneFlag l 7 = true ∧
      (c.cdrLock l).laneFlag l 10 = false ∧ ((c.cdrLock l).sds l 0x101C).getLsbD 31 = false := by
  have hcdr : ((c.setLaneFlag l 6 true).setLaneFlag l 5 true).laneFlag l 6 = true := by simp
  obtain ⟨h7, h10, heye, -⟩ := Chip.openSettle_opens hcdr
  refine ⟨?_, ?_, h7, h10, heye⟩
  · exact (Chip.laneFlag_openSettle _ l (by decide) (by decide)).trans hcdr
  · exact (Chip.laneFlag_openSettle _ l (by decide) (by decide)).trans (Chip.laneFlag_setLaneFlag _ l true (by decide))

theorem Chip.cdrLock_only (c : Chip) (l : Nat) : Chip.only [.regs, .port] c (c.cdrLock l) := by
  have hflag : ∀ (d : Chip) i, Chip.only [.regs, .port] d (d.setLaneFlag l i true) := fun d i =>
    Chip.only_mono (by decide) (d.setLaneFlag_only l i true)
  exact Chip.only_trans (Chip.only_trans (hflag c 6) (hflag _ 5)) (Chip.openSettle_only _ l)
end

/-! The statement -/

section
variable {s : State}

/-- The commands of a synthesiser on a port die whose synthesisers run (R237, R238). -/
theorem exec_synthLock {pp : PhysPort} (h : s.chip.synthUp (pp.val / 32) = true) :
    exec (.synthLock pp) s = .next (s.after (s.chip.synthLock pp.val)) := by
  show s.run _ = _
  rw [State.run_eq_after, if_pos h]

theorem exec_synthLockTimeout {pp : PhysPort} (h : s.chip.synthUp (pp.val / 32) = true) :
    exec (.synthLockTimeout pp) s = .next (s.after (s.chip.synthTimeout pp.val)) := by
  show s.run _ = _
  rw [State.run_eq_after, if_pos h]

theorem exec_synthCalDone {pp : PhysPort} (h : s.chip.synthUp (pp.val / 32) = true) :
    exec (.synthCalDone pp) s = .next (s.after (s.chip.synthCal pp.val)) := by
  show s.run _ = _
  rw [State.run_eq_after, if_pos h]

theorem State.after_self (s : State) : s.after s.chip = s := by
  rw [State.after, Chip.settleAlerts_of_status rfl]

theorem State.after_eq_put {s : State} {k : Chip} (h : k.smbStatusWord = s.chip.smbStatusWord) : s.after k = s.put k := by
  rw [State.after, Chip.settleAlerts_of_status h, State.put]

section
variable {l : Lane} (h : s.chip.pdieUp (l.val / 128) = true)
include h

/-- The commands of a lane on a port die that works (R240, R248). -/
theorem exec_trainingDone (ok : Bool) (taps : W32) (tx rx : Bool) :
    exec (.trainingDone l ok taps tx rx) s = .next (s.after (s.chip.trainDone l.val ok taps tx rx)) := by
  show s.run _ = _
  rw [State.run_eq_after, if_pos h]

theorem exec_trainingRetry : exec (.trainingRetry l) s = .next (s.after (s.chip.trainRetry l.val)) := by
  show s.run _ = _
  rw [State.run_eq_after, if_pos h]

theorem exec_cdrLock : exec (.cdrLock l) s = .next (s.after (s.chip.cdrLock l.val)) := by
  show s.run _ = _
  rw [State.run_eq_after, if_pos h]

theorem exec_cdrLockLoss (signal : Bool) :
    exec (.cdrLockLoss l signal) s = .next (s.after (s.chip.cdrLoss l.val signal)) := by
  show s.run _ = _
  rw [State.run_eq_after, if_pos h]

theorem exec_settleWindowEnd :
    exec (.settleWindowEnd l) s = .next (s.after (s.chip.setLaneFlag l.val 7 false)) := by
  show s.run _ = _
  rw [State.run_eq_after, if_pos h, stSettle]
end

theorem exec_settleGo {d : PDie} (h : s.chip.serves (pgSds d.val) = true) :
    exec (.settleGo d) s = .next (s.after (s.chip.openSettle (s.chip.selLane d.val))) := by
  show s.run _ = _
  rw [State.run_eq_after, if_pos h]

/-- SYNTH_LOCK of a synthesiser that settles (R237). -/
theorem yields_synthLock {pp : PhysPort} (hup : s.chip.synthUp (pp.val / 32) = true)
    (h : s.chip.synth pp.val = .settling) :
    Yields (.synthLock pp) s (fun t => t.synth pp.val = .calibrating ∧
      (∀ q, q ≠ pp.val → t.synth q = s.chip.synth q) ∧ (∀ l, l / 4 = pp.val → t.laneFlag l 2 = true) ∧
      Chip.only [.regs, .port] s.chip t) := by
  refine yields_after (exec_synthLock hup) ?_
  rw [Chip.synthLock_settling h]
  refine ⟨?_, fun q hq => ?_, fun l hl => ?_, Chip.only_settleAlerts ?_⟩
  · rw [Chip.settleAlerts_synth, Chip.synth_setPhysFlag, Chip.synth_setSynth]
  · rw [Chip.settleAlerts_synth, Chip.synth_setPhysFlag, Chip.synth_setSynth_other _ _ hq]
  · rw [Chip.settleAlerts_laneFlag, Chip.laneFlag_setPhysFlag _ _ pp.isLt hl (by decide)]
  · exact Chip.only_trans (Chip.only_mono (by decide) (Chip.setSynth_only _ _ _))
      (Chip.only_mono (by decide) (Chip.setPhysFlag_only _ true))

/-- SYNTH_LOCK_TIMEOUT of a synthesiser that settles (R238). -/
theorem yields_synthLockTimeout {pp : PhysPort} (hup : s.chip.synthUp (pp.val / 32) = true)
    (h : s.chip.synth pp.val = .settling) :
    Yields (.synthLockTimeout pp) s (fun t => (∀ l, l / 4 = pp.val → t.laneFlag l 3 = true) ∧ t.port = s.chip.port ∧
      Chip.raised s.chip t (evP (pgSds (pp.val / 32)) 0x0501 (pp.val / 32) (pp.val * 4))) := by
  refine yields_after (exec_synthLockTimeout hup) ?_
  rw [Chip.synthTimeout_settling h]
  generalize evP (pgSds (pp.val / 32)) 0x0501 (pp.val / 32) (pp.val * 4) = e
  refine ⟨fun l hl => ?_, ?_, Chip.raised_settled e (Chip.setPhysFlag_ev _ _)⟩
  · have hset := Chip.laneFlag_setPhysFlag s.chip true pp.isLt hl (by decide : 3 < 32)
    rwa [Chip.settleAlerts_laneFlag, Chip.laneFlag, Chip.sds, Chip.raise_reg_off _ _ (by decide) (by decide)]
  · obtain ⟨r, x, y, hrest⟩ := Chip.raise_rest (s.chip.setPhysFlag pp.val 3 true) e
    simp only [Chip.settleAlerts_port, hrest, Chip.setPhysFlag_port]

/-- TRAINING_DONE of training that succeeds (R240). -/
theorem yields_trainingDone {l : Lane} (hup : s.chip.pdieUp (l.val / 128) = true) (taps : W32) (tx rx : Bool)
    (h : s.chip.laneTrain l.val = 1) :
    Yields (.trainingDone l true taps tx rx) s (fun t => t.laneTrain l.val = 2 ∧
      (t.lane l.val).taps = taps &&& 0x03FFFFFF ∧ (t.lane l.val).precodeTx = tx ∧ (t.lane l.val).precodeRx = rx ∧
      t.sds l.val 0x100C =
        (if (s.chip.sds l.val 0x100C).getLsbD 31 then s.chip.sds l.val 0x100C else taps &&& 0x03FFFFFF) ∧
      s.chip.settled l.val t ∧ (∀ k, k ≠ l.val → t.lane k = s.chip.lane k) ∧
      Chip.only [.regs, .port, .out, .fresh] s.chip t) := by
  have honly := Chip.laneOnly_trainDone l.isLt taps tx rx h
  obtain ⟨hdone, hfound, htaps⟩ := Chip.trainDone_keeps taps tx rx h
  simp only [LaneSt.found, Prod.mk.injEq] at hfound
  obtain ⟨hlane, htx, hrx⟩ := hfound
  exact yields_after (exec_trainingDone hup true taps tx rx)
    ⟨hdone, hlane, htx, hrx, htaps, Chip.settled_trainDone taps tx rx h, honly.lanes, Chip.only_settleAlerts honly.only⟩
end

/-- Settles O40: each command is unfolded once to the part it computes; a loop over lanes does to a lane what its body does
there, for the other lanes leave a lane as it stands. -/
theorem lanesLockTrainAndSettle : Obligations.LanesLockTrainAndSettle := by
  unfold Obligations.LanesLockTrainAndSettle
  refine ⟨fun s pp hup => ?_, fun s l hup => ?_, fun s d hserves => ?_⟩
  · refine ⟨fun h => ?_, fun h => ⟨yields_synthLock hup h, yields_synthLockTimeout hup h⟩, fun h => ?_, fun h => ?_⟩
    · rw [exec_synthLock hup, exec_synthLockTimeout hup, Chip.synthLock, Chip.synthTimeout, if_neg h, if_neg h,
        State.after_self]
      exact ⟨rfl, rfl⟩
    · rw [exec_synthCalDone hup, Chip.synthCal, if_neg h, State.after_self]
    · refine yields_after (exec_synthCalDone hup) ⟨?_, fun q hq => ?_, fun l hl => Chip.synthCal_cal pp.isLt h hl,
        fun hpair l hl => ⟨Chip.synthCal_wanted pp.isLt h hl hpair, Chip.synthCal_unwanted pp.isLt h hl⟩⟩
      · rw [Chip.settleAlerts_synth, Chip.synthCal_synth pp.isLt h, Chip.synth_setSynth]
      · rw [Chip.settleAlerts_synth, Chip.synthCal_synth pp.isLt h, Chip.synth_setSynth_other _ _ hq]
  · have hput : ∀ {k : Chip}, s.chip.laneOnly l.val k → s.after k = s.put k := fun h => State.after_eq_put h.smbStatusWord
    refine ⟨fun ok taps tx rx h => ?_, fun taps tx rx h => ⟨yields_trainingDone hup taps tx rx h, ?_⟩, fun h hen => ?_,
      fun h => ?_, ?_, fun signal => ?_, ?_⟩
    · rw [exec_trainingDone hup, Chip.trainDone, if_pos h, State.after_self]
    · rw [exec_trainingDone hup, Chip.trainDone_failed taps tx rx h]
    · rw [exec_trainingRetry hup, Chip.trainRetry, if_pos ⟨h, hen⟩, hput (Chip.laneOnly_setLaneTrain l.isLt 1)]
    · rw [exec_trainingRetry hup, Chip.trainRetry, if_neg (fun hand => h.elim (· hand.1) (by simp [hand.2])),
        State.after_self]
    · obtain ⟨hcdr, hsig, hopen, hchk, heye⟩ := s.chip.cdrLock_opens l.val
      exact yields_after (exec_cdrLock hup)
        ⟨hcdr, hsig, hopen, hchk, heye, Chip.only_settleAlerts (s.chip.cdrLock_only l.val)⟩
    · have hloss : s.chip.laneOnly l.val (s.chip.cdrLoss l.val signal) :=
        (Chip.laneOnly_setLaneFlag l.isLt 6 false).trans (Chip.laneOnly_setLaneFlag l.isLt 5 signal)
      rw [exec_cdrLockLoss hup, hput hloss, Chip.cdrLoss, stCdr, stSig]
    · rw [exec_settleWindowEnd hup, hput (Chip.laneOnly_setLaneFlag l.isLt 7 false)]
  · refine ⟨fun h => ?_, fun h => ?_⟩
    · obtain ⟨hopen, hchk, heye, -⟩ := Chip.openSettle_opens h
      exact yields_after (exec_settleGo hserves)
        ⟨hopen, hchk, heye, Chip.only_settleAlerts (Chip.openSettle_only _ _)⟩
    · rw [exec_settleGo hserves, Chip.selLane, Chip.openSettle_unlocked h, State.after_eq_put]
      rfl

end Sys2Proof.Machine
end

section
/-! Fabric time (R281, R282, R285, R328, R167) and the reads that latch the high half of a time (R285, R430): what the commands
of the TIM page answer, and what a step of time leaves. -/

namespace Sys2Proof.Machine

/-! Reads that latch -/

theorem timeHi_timeLo {n : Nat} (h : n < 2 ^ 64) : (timeHi n).toNat * 2 ^ 32 + (timeLo n).toNat = n := by
  simp only [timeHi, timeLo, BitVec.toNat_ofNat]
  omega

section
variable {i : Instr} {s : State} {page off : Nat} (t : Chip → Nat)
  (he : exec i s = s.run fun c =>
    if c.serves page then (c.setReg page off (timeHi (t c))).answer (timeLo (t c)) else c.answer 0)
include he

/-- A read of the low half of a time answers it and latches the high half in the register `off`. -/
theorem exec_latchRead (hl : pgSec < page) (hp : page < 0x400) (ho : off < 0x10000) (h : s.chip.serves page = true)
    (hlt : t s.chip < 2 ^ 64) :
    ∃ k, exec i s = .next (s.put { k with out := { s.chip.out with rdata := BitVec.ofNat 32 (t s.chip) } }) ∧
      k = { s.chip with regs := k.regs } ∧ s.chip.regsBut k [regKey page off 0] ∧
      (k.reg page off).toNat * 2 ^ 32 + (BitVec.ofNat 32 (t s.chip)).toNat = t s.chip := by
  have hput : exec i s = .next (s.put ((s.chip.setReg page off (timeHi (t s.chip))).answer (timeLo (t s.chip)))) := by
    rw [he, State.run_eq_put, if_pos h]
    rw [if_pos h]
    exact s.chip.smbStatusWord_setReg _ 0 hl hp ho
  refine ⟨s.chip.setReg page off (timeHi (t s.chip)), hput, rfl, fun p o n hn => ?_, ?_⟩
  · exact s.chip.reg_setReg_other _ (by simpa using hn)
  · rw [Chip.reg_setReg]
    exact timeHi_timeLo hlt

theorem exec_latchRead_unserved (h : s.chip.serves page = false) :
    exec i s = .next (s.put { s.chip with out := { s.chip.out with rdata := 0 } }) := by
  have hno : ¬ s.chip.serves page = true := by simp [h]
  rw [he, State.run_eq_put, if_neg hno]
  · rfl
  · rw [if_neg hno]
    rfl
end

/-- Settles O5: both reads have one form. -/
theorem clockReadsLatchTheHighHalf : Obligations.ClockReadsLatchTheHighHalf := by
  unfold Obligations.ClockReadsLatchTheHighHalf
  intro s
  exact ⟨exec_latchRead (·.time.now) rfl (by decide) (by decide) (by decide),
    exec_latchRead (·.time.snpTime) rfl (by decide) (by decide) (by decide),
    exec_latchRead_unserved (·.time.now) rfl, exec_latchRead_unserved (·.time.snpTime) rfl⟩

/-! Slews and the PPS pins -/

theorem signed_toNat (v : W32) : signed 32 v.toNat = v.toInt := by
  have := v.isLt
  rw [signed, BitVec.toInt_eq_toNat_cond, Nat.mod_eq_of_lt this]
  split_ifs <;> omega

section
variable (c : Chip)

theorem Chip.smbStatusWord_setTim {off : Nat} (v : W32) (ho : off < 0x10000) :
    (c.setReg pgTim off v).smbStatusWord = c.smbStatusWord := c.smbStatusWord_setReg v 0 (by decide) (by decide) ho

theorem Chip.smbStatusWord_setTimFlag {off : Nat} (i : Nat) (b : Bool) (ho : off < 0x10000) :
    (c.setFlag pgTim off i b).smbStatusWord = c.smbStatusWord := c.smbStatusWord_setTim _ ho

/-- The time lies within 2 ns of a multiple of a second (R282). -/
theorem Chip.onSecond_of_near {k : Nat} (hlo : c.sinceEpoch ≤ k * 256000000000 + 512)
    (hhi : k * 256000000000 ≤ c.sinceEpoch + 512) : c.onSecond = true := by
  unfold Chip.onSecond secUnits nsUnits
  exact decide_eq_true (by omega)
end

section
variable {i : Instr} {s : State} (f : Chip → Chip) {k : Chip}
  (he : exec i s = s.run fun c => if c.serves pgTim then f c else c) (h : s.chip.serves pgTim = true)
include he h

/-- A command of the TIM page that leaves the status flags alone. -/
theorem exec_tim (hf : f s.chip = k) (hk : k.smbStatusWord = s.chip.smbStatusWord) : exec i s = .next (s.put k) :=
  exec_gated_put (fun c => c.serves pgTim) f he h hf hk

theorem exec_tim_self (hf : f s.chip = s.chip) : exec i s = .next s :=
  exec_gated_self (fun c => c.serves pgTim) f he h hf
end

/-! A step of time -/

section
variable (x : Coach) (n : Nat)

theorem Coach.ahead_ahead : (x.ahead n).ahead n = x.ahead n := by
  by_cases h : (n : Int) < x.td <;> simp [Coach.ahead, h]

/-- The deadline monitor of an empty slot has nothing to meet. -/
theorem Coach.ahead_empty : Coach.empty.ahead n = Coach.empty := by
  unfold Coach.ahead
  split <;> rfl
end

section
variable (c : Chip)

theorem Chip.time_setSlot (d i : Nat) (x : Coach) : (c.setSlot d i x).time = c.time := rfl

/-- A slot that its die does not list is empty. -/
theorem Chip.slot_unlisted {d i : Nat} (h : i ∉ (c.cch d).slots.map (·.1)) : c.slot d i = Coach.empty := by
  rw [Chip.slot]
  obtain hd | hm := Tbl.get_mem Coach.empty (m := (c.cch d).slots) (k := i)
  · exact hd
  · exact absurd (List.mem_map.2 ⟨_, hm, rfl⟩) h

/-- A die that is not listed has no slots. -/
theorem Chip.slot_unlisted_die {d : Nat} (i : Nat) (h : d ∉ c.coach.dies.map (·.1)) : c.slot d i = Coach.empty := by
  refine c.slot_unlisted ?_
  obtain hd | hm := Tbl.get_mem CchDie.empty (m := c.coach.dies) (k := d)
  · rw [Chip.cch, hd]
    exact List.not_mem_nil
  · exact absurd (List.mem_map.2 ⟨_, hm, rfl⟩) h

/-- The slot `i` of coach die `d` follows the present time (R167). -/
def Chip.monitorAhead (d i : Nat) (c : Chip) : Chip := c.setSlot d i ((c.slot d i).ahead c.time.now)

def Chip.dieMonitorsFollow (d : Nat) (c : Chip) : Chip := forAll ((c.cch d).slots.map (·.1)) c (Chip.monitorAhead d)

theorem Chip.monitorsFollow_eq : c.monitorsFollow = forAll (c.coach.dies.map (·.1)) c Chip.dieMonitorsFollow := rfl

theorem Chip.slot_monitorAhead (d i e j : Nat) : (Chip.monitorAhead d i c).slot e j =
    if e = d ∧ j = i then (c.slot e j).ahead c.time.now else c.slot e j := by
  split_ifs with h
  · obtain ⟨rfl, rfl⟩ := h
    exact c.slot_setSlot ..
  · exact c.slot_setSlot_ne _ h

theorem Chip.slot_monitorsAhead (d : Nat) (is : List Nat) (e j : Nat) : (forAll is c (Chip.monitorAhead d)).slot e j =
    if e = d ∧ j ∈ is then (c.slot e j).ahead c.time.now else c.slot e j := by
  induction is generalizing c with
  | nil => simp [forAll]
  | cons i is ih =>
    have hstep : forAll (i :: is) c (Chip.monitorAhead d) = forAll is (Chip.monitorAhead d i c) (Chip.monitorAhead d) := rfl
    rw [hstep, ih, Chip.slot_monitorAhead, show (Chip.monitorAhead d i c).time = c.time from rfl]
    by_cases hd : e = d <;> by_cases hi : j = i <;> by_cases hm : j ∈ is <;> simp [hd, hi, hm, Coach.ahead_ahead]

theorem Chip.dieMonitorsFollow_time (d : Nat) : (Chip.dieMonitorsFollow d c).time = c.time :=
  keep_forAll Chip.time _ c _ fun _ _ => rfl

theorem Chip.slot_dieMonitorsFollow (d e j : Nat) : (Chip.dieMonitorsFollow d c).slot e j =
    if e = d then (c.slot e j).ahead c.time.now else c.slot e j := by
  rw [Chip.dieMonitorsFollow, Chip.slot_monitorsAhead]
  by_cases hd : e = d
  · subst hd
    by_cases hj : j ∈ (c.cch e).slots.map (·.1)
    · rw [if_pos ⟨rfl, hj⟩, if_pos rfl]
    · rw [if_neg (fun h => hj h.2), if_pos rfl, c.slot_unlisted hj, Coach.ahead_empty]
  · rw [if_neg (fun h => hd h.1), if_neg hd]

theorem Chip.slot_diesFollow (ds : List Nat) (e j : Nat) : (forAll ds c Chip.dieMonitorsFollow).slot e j =
    if e ∈ ds then (c.slot e j).ahead c.time.now else c.slot e j := by
  induction ds generalizing c with
  | nil => simp [forAll]
  | cons d ds ih =>
    have hstep : forAll (d :: ds) c Chip.dieMonitorsFollow = forAll ds (Chip.dieMonitorsFollow d c) Chip.dieMonitorsFollow :=
      rfl
    rw [hstep, ih, Chip.slot_dieMonitorsFollow, Chip.dieMonitorsFollow_time]
    by_cases hd : e = d <;> by_cases hm : e ∈ ds <;> simp [hd, hm, Coach.ahead_ahead]

/-- Every slot follows: one that is not listed is empty. -/
theorem Chip.monitorsFollow_slot (e j : Nat) : c.monitorsFollow.slot e j = (c.slot e j).ahead c.time.now := by
  rw [Chip.monitorsFollow_eq, Chip.slot_diesFollow]
  split_ifs with h
  · rfl
  · rw [c.slot_unlisted_die j h, Coach.ahead_empty]

theorem Chip.monitorsFollow_rest : ∃ k, c.monitorsFollow = { c with coach := k } := by
  have htrans : ∀ a b d : Chip, (∃ k, b = { a with coach := k }) → (∃ k, d = { b with coach := k }) →
      ∃ k, d = { a with coach := k } := by
    rintro a _ _ ⟨_, rfl⟩ ⟨_, rfl⟩
    exact ⟨_, rfl⟩
  refine forAll_keeps (R := fun a b : Chip => ∃ k, b = { a with coach := k }) (fun a => ⟨a.coach, rfl⟩) htrans
    (fun d _ a => ?_) c
  exact forAll_keeps (R := fun a b : Chip => ∃ k, b = { a with coach := k }) (fun a => ⟨a.coach, rfl⟩) htrans
    (fun i _ a => ⟨_, rfl⟩) a

theorem Chip.gatesFollow_rest : ∃ x, c.gatesFollow = { c with traf := x } := by
  refine forAll_keeps (R := fun a b : Chip => ∃ x, b = { a with traf := x }) (fun a => ⟨a.traf, rfl⟩) ?_
    (fun p _ a => ?_) c
  · rintro a _ _ ⟨_, rfl⟩ ⟨_, rfl⟩
    exact ⟨_, rfl⟩
  · split
    · exact ⟨_, rfl⟩
    · exact ⟨a.traf, rfl⟩

/-- Monitors and gates follow the present time. -/
def Chip.timeFollowed : Chip := c.monitorsFollow.gatesFollow

/-- What follows the time leaves everything but coaches and gates. -/
theorem Chip.timeFollowed_rest : ∃ k x, c.timeFollowed = { c with coach := k, traf := x } := by
  obtain ⟨k, hk⟩ := c.monitorsFollow_rest
  obtain ⟨x, hx⟩ := c.monitorsFollow.gatesFollow_rest
  exact ⟨k, x, by rw [Chip.timeFollowed, hx, hk]⟩

theorem Chip.timeFollowed_time : c.timeFollowed.time = c.time := by
  obtain ⟨_, _, h⟩ := c.timeFollowed_rest
  rw [h]

theorem Chip.timeFollowed_raised {b : Chip} {e : Ev} (hr : Chip.raised b c e) : Chip.raised b c.timeFollowed e := by
  obtain ⟨_, _, h⟩ := c.timeFollowed_rest
  rw [h]
  exact hr

theorem Chip.timeFollowed_reg (page off inst : Nat) : c.timeFollowed.reg page off inst = c.reg page off inst := by
  obtain ⟨_, _, h⟩ := c.timeFollowed_rest
  rw [h]
  rfl

theorem Chip.timeFollowed_slot (d i : Nat) : c.timeFollowed.slot d i = (c.slot d i).ahead c.time.now := by
  obtain ⟨_, hx⟩ := c.monitorsFollow.gatesFollow_rest
  rw [Chip.timeFollowed, hx, ← Chip.monitorsFollow_slot]
  rfl

theorem Chip.timeFollowed_only : Chip.only [.coach, .traf] c c.timeFollowed := by
  obtain ⟨_, _, h⟩ := c.timeFollowed_rest
  rw [h]
  simp [Chip.only]

/-- The part with fabric time at `v`. -/
def Chip.atTime (v : Nat) : Chip := { c with time := { c.time with now := v, frac := 0 } }

theorem Chip.atTime_only (v : Nat) : Chip.only [.time] c (c.atTime v) := by simp [Chip.only, Chip.atTime]

/-- The event of a step of time. -/
def timeStepEv : Ev := evP pgTim 0x0507 (dieX 0) 0

/-- The value that TIM_STEP_HI:TIM_STEP_LO holds. -/
def Chip.stepTarget : Nat := (c.reg pgTim 0x1018).toNat * 2 ^ 32 + (c.reg pgTim 0x1014).toNat

theorem Chip.stepGo_eq : c.stepGo = ((c.atTime c.stepTarget).raise timeStepEv).timeFollowed := rfl

theorem Chip.stepGo_time : c.stepGo.time = { c.time with now := c.stepTarget, frac := 0 } := by
  rw [Chip.stepGo_eq, Chip.timeFollowed_time, Chip.raise_time, Chip.atTime]

theorem Chip.stepGo_raised : Chip.raised c c.stepGo timeStepEv :=
  Chip.timeFollowed_raised _ (Chip.raise_raised (c.atTime c.stepTarget) timeStepEv)

theorem Chip.stepGo_regsBut : c.regsBut c.stepGo (evKeys pgTim) := fun _ _ _ hk =>
  (Chip.timeFollowed_reg ..).trans ((c.atTime c.stepTarget).raise_reg timeStepEv hk)

theorem Chip.stepGo_slot (d i : Nat) : c.stepGo.slot d i = (c.slot d i).ahead c.stepTarget := by
  obtain ⟨_, _, _, hr⟩ := (c.atTime c.stepTarget).raise_rest timeStepEv
  rw [Chip.stepGo_eq, Chip.timeFollowed_slot, hr]
  rfl

theorem Chip.stepGo_only : Chip.only [.regs, .time, .ev, .snap, .coach, .traf] c c.stepGo :=
  Chip.only_trans (Chip.only_mono (by decide) (c.atTime_only _))
    (Chip.only_trans (Chip.only_mono (by decide) (Chip.raise_only ..)) (Chip.only_mono (by decide) (Chip.timeFollowed_only _)))
end

section
variable {a b k : Chip}

theorem Chip.raised_settleAlerts {e : Ev} (h : Chip.raised a k e) : Chip.raised a (Chip.settleAlerts b k) e := h

theorem Chip.regsBut_settleAlerts {keys : List Nat} (h : a.regsBut k keys) : a.regsBut (Chip.settleAlerts b k) keys := h
end

/-- Settles O6: each command is one branch of its meaning, and a step of time is the step itself, its event, and what follows
the new time. -/
theorem fabricTimeIsSlewedAndStepped : Obligations.FabricTimeIsSlewedAndStepped := by
  unfold Obligations.FabricTimeIsSlewedAndStepped
  refine ⟨fun s v h => ?_, fun s h => ?_⟩
  · intro c
    refine ⟨?_, fun hz => ?_, fun hz => ?_, fun hf => ?_, fun hf => ?_, fun hf hk => ?_, fun hf => ?_⟩
    · refine exec_tim (fun c => c.offsetWrite v) rfl h ?_ ?_
      · rw [Chip.offsetWrite, signed_toNat]
        rfl
      · exact c.smbStatusWord_setTimFlag 3 true (by decide)
    · exact exec_tim Chip.slewEnd rfl h (if_pos hz) (c.smbStatusWord_setTimFlag 3 false (by decide))
    · exact exec_tim_self Chip.slewEnd rfl h (if_neg hz)
    · refine exec_tim Chip.ppsIn rfl h (if_pos hf) ?_
      rw [Chip.smbStatusWord_setTimFlag _ _ _ (by decide), Chip.smbStatusWord_setTim _ _ (by decide),
        Chip.smbStatusWord_setTim _ _ (by decide)]
    · exact exec_tim_self Chip.ppsIn rfl h (if_neg (Bool.eq_false_iff.1 hf))
    · obtain ⟨k, hlo, hhi⟩ := hk
      have hon : (c.flag pgTim 0x1000 1 && c.onSecond) = true := by rw [hf, c.onSecond_of_near hlo hhi]; rfl
      exact exec_tim Chip.ppsOut rfl h (if_pos hon) rfl
    · exact exec_tim_self Chip.ppsOut rfl h (if_neg (by rw [hf]; simp))
  · have hgo : exec .timeStepGo s = .next (s.after s.chip.stepGo) :=
      exec_gated (fun c => c.serves pgTim) Chip.stepGo rfl h rfl
    refine yields_after hgo ⟨?_, ?_, ?_, fun d i => ?_, Chip.only_settleAlerts s.chip.stepGo_only⟩
    · exact (Chip.settleAlerts_time _ _).trans s.chip.stepGo_time
    · exact Chip.raised_settleAlerts s.chip.stepGo_raised
    · exact Chip.regsBut_settleAlerts s.chip.stepGo_regsBut
    · rw [Chip.settleAlerts_slot, Chip.stepGo_slot, Chip.settleAlerts_time, Chip.stepGo_time]
      rfl

end Sys2Proof.Machine
end

section
/-! The tail of a sequenced frame (R260, R265, R269, R270, R277): what each part of the tail check makes of its link, and
what it leaves. -/

namespace Sys2Proof.Machine

/-! What the tail check decides -/

/-- The state of a link, the Control frames queued on its port, LNK_STAT.RECOVERY, and the counts of NAKs sent, of frames
discarded in recovery and of duplicates. -/
structure TailView where
  link : Link
  ctl : List Msg
  recovery : Bool
  naks : W32
  discarded : W32
  duplicates : W32

def Chip.tailView (c : Chip) (p : Nat) : TailView where
  link := c.link p
  ctl := (c.egress p).ctl
  recovery := c.recovery p
  naks := c.reg (pgLnk (portDie p)) 0x111C
  discarded := c.reg (pgLnk (portDie p)) 0x1120
  duplicates := c.reg (pgLnk (portDie p)) 0x1124

/-- The offsets of the registers that the view shows. -/
def tailOffs : List Nat := [0x1008, 0x111C, 0x1120, 0x1124]

/-- The credits of a frame are free again. -/
def Link.freed (l : Link) (vl len : Nat) : Link :=
  { l with freedRx := Tbl.set 0 l.freedRx vl ((Tbl.get 0 l.freedRx vl + creditsFor len) % 65536) }

/-- The NAK of a link (R266, R270). -/
def Link.nak (l : Link) (now : Nat) : Msg :=
  Msg.made (mkHdr 3 6 0 false 0 0 64 0 0)
    (bytesBE 28 (linkBody 2 l.ackSeq (fun v => if 6 ≤ v then 0 else Tbl.get 0 l.freedRx v)).toNat) now none

/-- What a wake request makes of low-power idle (R250). -/
def LpiState.woken : LpiState → LpiState
  | .requested => .awake
  | .asleep => .waking
  | x => x

section
variable (c : Chip) {p : Nat} (f : Frame)

theorem Chip.tailView_congr {a b : Chip} (hl : b.link p = a.link p) (he : (b.egress p).ctl = (a.egress p).ctl)
    (hr : ∀ off ∈ tailOffs, ∀ inst, b.reg (pgLnk (portDie p)) off inst = a.reg (pgLnk (portDie p)) off inst) :
    b.tailView p = a.tailView p := by
  have hrec : b.recovery p = a.recovery p := congrArg (·.getLsbD 1) (hr 0x1008 (by decide) (p % 128))
  rw [Chip.tailView, hl, he, hrec, hr 0x111C (by decide), hr 0x1120 (by decide), hr 0x1124 (by decide), Chip.tailView]

theorem Chip.tailView_setReg {page off : Nat} (v : W32) (inst : Nat) (ho : off < 0x10000) (h : off ∉ tailOffs) :
    (c.setReg page off v inst).tailView p = c.tailView p :=
  Chip.tailView_congr rfl rfl fun o hm _ =>
    c.reg_setReg_off v ho (by revert o; decide) fun e => h (e ▸ hm)

theorem Chip.tailView_setLink (l : Link) : (c.setLink p l).tailView p = { c.tailView p with link := l } := by
  rw [Chip.tailView, Chip.link_setLink]
  rfl

theorem Chip.tailView_received (l n : Nat) : (c.received p l n).tailView p =
    { c.tailView p with link := { (c.tailView p).link with rx := none } } := c.tailView_setLink _

theorem Chip.tailView_countTail : (c.countTail p f).tailView p = c.tailView p := by
  have hn : (c.bumpN (pgLnk (portDie p)) 0x110C f.fecUncorr).tailView p = c.tailView p :=
    c.tailView_setReg _ 0 (by decide) (by decide)
  have hb : ∀ (k : Chip) (off : Nat), off < 0x10000 → off ∉ tailOffs → (k.bumpLnk p off).tailView p = k.tailView p :=
    fun k off ho h => k.tailView_setReg _ 0 ho h
  unfold Chip.countTail
  split
  · exact hn
  · exact (hb _ _ (by decide) (by decide)).trans hn
  · split
    · exact hn
    · exact (hb _ _ (by decide) (by decide)).trans hn

theorem Chip.tailView_freeCredits (vl len : Nat) : (c.freeCredits p vl len).tailView p =
    { c.tailView p with link := (c.tailView p).link.freed vl len } := c.tailView_setLink _

theorem Chip.tailView_verdict (ok : Bool) : (c.verdict p f ok).tailView p =
    { c.tailView p with link := { (c.tailView p).link with checked := some (f, ok) } } := c.tailView_setLink _

theorem Chip.tailView_setRecovery (b : Bool) :
    (c.setLnkFlag p 1 b).tailView p = { c.tailView p with recovery := b } := by
  have hr : ∀ off, off < 0x10000 → off ≠ 0x1008 →
      (c.setLnkFlag p 1 b).reg (pgLnk (portDie p)) off = c.reg (pgLnk (portDie p)) off := fun off ho h =>
    c.reg_setReg_off _ (by decide) ho h
  have hrec : (c.setLnkFlag p 1 b).recovery p = b := c.flag_setFlag _ _ 1 b _ (by decide)
  rw [Chip.tailView, hrec, hr _ (by decide) (by decide), hr _ (by decide) (by decide), hr _ (by decide) (by decide)]
  rfl

theorem Chip.tailView_acceptSeq (seq : Nat) : (c.acceptSeq p seq).tailView p =
    { c.tailView p with link := { (c.tailView p).link with ackSeq := seq }, recovery := false } := by
  rw [Chip.acceptSeq, Chip.tailView_setRecovery, Chip.tailView_setLink]
  rfl

theorem Chip.reg_bumpLnk {off off' : Nat} (ho : off < 0x10000) (ho' : off' < 0x10000) :
    (c.bumpLnk p off).reg (pgLnk (portDie p)) off' = c.reg (pgLnk (portDie p)) off' + (if off = off' then 1 else 0) := by
  split_ifs with h
  · subst h
    exact c.reg_bump ..
  · exact (c.reg_setReg_off _ ho ho' (Ne.symm h)).trans (by simp)

/-- A count of the LNK page goes up by one; the view shows three of them. -/
theorem Chip.tailView_bumpLnk {off : Nat} (ho : off < 0x10000) (h : 0x1008 ≠ off) : (c.bumpLnk p off).tailView p =
    { c.tailView p with
      naks := (c.tailView p).naks + (if off = 0x111C then 1 else 0)
      discarded := (c.tailView p).discarded + (if off = 0x1120 then 1 else 0)
      duplicates := (c.tailView p).duplicates + (if off = 0x1124 then 1 else 0) } := by
  have hrec : (c.bumpLnk p off).recovery p = c.recovery p :=
    congrArg (·.getLsbD 1) (c.reg_setReg_off (inst' := p % 128) _ ho (by decide) h)
  rw [Chip.tailView, hrec, c.reg_bumpLnk ho (by decide), c.reg_bumpLnk ho (by decide), c.reg_bumpLnk ho (by decide)]
  rfl

theorem Chip.tailView_hdrError : (c.hdrError p).tailView p = c.tailView p := by
  have hbump : (c.bumpLnk p 0x1100).tailView p = c.tailView p := c.tailView_setReg _ 0 (by decide) (by decide)
  refine Eq.trans (Chip.tailView_congr ?_ ?_ fun off hm inst => ?_) hbump
  · obtain ⟨_, _, _, h⟩ := Chip.raiseLim_rest (c.bumpLnk p 0x1100)
      (evP (pgLnk (portDie p)) 0x0503 (dieP (portDie p)) p) p (usUnits 1000)
    rw [Chip.hdrError, h]
    rfl
  · obtain ⟨_, _, _, h⟩ := Chip.raiseLim_rest (c.bumpLnk p 0x1100)
      (evP (pgLnk (portDie p)) 0x0503 (dieP (portDie p)) p) p (usUnits 1000)
    rw [Chip.hdrError, h]
    rfl
  · exact Chip.raiseLim_reg_off _ _ _ _ (by revert off; decide) (by revert off; decide)

theorem Chip.tailView_lpiWake : (c.lpiWake p).tailView p =
    { c.tailView p with link := { (c.tailView p).link with lpi := (c.tailView p).link.lpi.woken } } := by
  rw [show (c.tailView p).link = c.link p from rfl]
  unfold Chip.lpiWake
  split
  · next h =>
    rw [h]
    exact (Chip.tailView_setReg _ _ 0 (by decide) (by decide)).trans (c.tailView_setLink _)
  · next h =>
    rw [h]
    exact c.tailView_setLink _
  · next h1 h2 =>
    have hw : (c.link p).lpi.woken = (c.link p).lpi := by
      cases h : (c.link p).lpi with
      | awake => rfl
      | requested => exact absurd h h1
      | asleep => exact absurd h h2
      | waking => rfl
    rw [hw]
    rfl
end

/-! Control frames to the partner -/

/-- A NAK is a Control frame. -/
theorem Link.hClass_nak (l : Link) (now : Nat) : hClass (l.nak now).hdr = clsControl := by
  have h : hClass (mkHdr 3 6 0 false 0 0 64 0 0) = clsControl := by decide +kernel
  exact h

section
variable (c : Chip) (p : Nat)

theorem Chip.enqueue_ctl {m : Msg} (h : hClass m.hdr = clsControl) : c.enqueue p m =
    (c.lpiWake p).setEgress p { (c.lpiWake p).egress p with ctl := ((c.lpiWake p).egress p).ctl ++ [m] } := by
  unfold Chip.enqueue
  exact if_pos h

theorem Chip.egress_lpiWake (q : Nat) : (c.lpiWake p).egress q = c.egress q := by
  unfold Chip.lpiWake
  split <;> rfl

theorem Chip.sendNak_eq : c.sendNak p = (((c.lpiWake p).setEgress p { c.egress p with
    ctl := (c.egress p).ctl ++ [(c.link p).nak c.time.now] }).bumpLnk p 0x111C) := by
  have hsend : c.sendCtl p 2 = c.enqueue p ((c.link p).nak c.time.now) := rfl
  rw [Chip.sendNak, hsend, c.enqueue_ctl p ((c.link p).hClass_nak c.time.now), c.egress_lpiWake]

theorem Chip.tailView_sendNak : (c.sendNak p).tailView p = { c.tailView p with
    link := { (c.tailView p).link with lpi := (c.tailView p).link.lpi.woken }
    ctl := (c.tailView p).ctl ++ [(c.tailView p).link.nak c.time.now]
    naks := (c.tailView p).naks + 1 } := by
  have hset : ∀ (k : Chip) (e : Egress), (k.setEgress p e).tailView p = { k.tailView p with ctl := e.ctl } := fun k e => by
    rw [Chip.tailView, Chip.egress_setEgress]
    rfl
  rw [Chip.sendNak_eq, Chip.tailView_bumpLnk _ (by decide) (by decide), hset, Chip.tailView_lpiWake]
  simp [Chip.tailView]
end

/-! What the tail check leaves -/

/-- Only the link and the queues of port `p`, registers, events and the activity counts differ. -/
structure Chip.TailFrame (p : Nat) (a b : Chip) : Prop where
  time : b.time = a.time
  link : ∀ q, q ≠ p → b.link q = a.link q
  only : Chip.only [.regs, .ev, .snap, .port, .traf, .act] a b

namespace Chip.TailFrame

variable {p : Nat} {a b k : Chip}

theorem trans (h : a.TailFrame p b) (g : b.TailFrame p k) : a.TailFrame p k :=
  ⟨g.time.trans h.time, fun q hq => (g.link q hq).trans (h.link q hq), Chip.only_trans h.only g.only⟩

theorem setReg (h : a.TailFrame p b) (page off : Nat) (v : W32) (inst : Nat) :
    a.TailFrame p (b.setReg page off v inst) :=
  h.trans ⟨rfl, fun _ _ => rfl, Chip.only_mono (by decide) (b.setReg_only ..)⟩

theorem setLink (h : a.TailFrame p b) (l : Link) : a.TailFrame p (b.setLink p l) :=
  h.trans ⟨rfl, fun _ hq => b.link_setLink_other l hq, by simp [Chip.only, Chip.setLink]⟩

theorem setEgress (h : a.TailFrame p b) (e : Egress) : a.TailFrame p (b.setEgress p e) :=
  h.trans ⟨rfl, fun _ _ => rfl, by simp [Chip.only, Chip.setEgress]⟩

theorem received (a : Chip) (l n : Nat) : a.TailFrame p (a.received p l n) :=
  ⟨rfl, fun _ hq => a.link_setLink_other _ hq, by
    simp [Chip.only, Chip.received, Chip.activeFrame, Chip.active, Chip.setLink]⟩

theorem countTail (h : a.TailFrame p b) (f : Frame) : a.TailFrame p (b.countTail p f) := by
  unfold Chip.countTail
  split
  · exact h.setReg ..
  · exact (h.setReg ..).setReg ..
  · split
    · exact h.setReg ..
    · exact (h.setReg ..).setReg ..

theorem lpiWake (h : a.TailFrame p b) : a.TailFrame p (b.lpiWake p) := by
  unfold Chip.lpiWake
  split
  · exact (h.setLink _).setReg ..
  · exact h.setLink _
  · exact h

theorem sendNak (h : a.TailFrame p b) : a.TailFrame p (b.sendNak p) := by
  rw [Chip.sendNak_eq]
  exact (h.lpiWake.setEgress _).setReg ..

theorem hdrError (h : a.TailFrame p b) : a.TailFrame p (b.hdrError p) := by
  have hbump : a.TailFrame p (b.bumpLnk p 0x1100) := h.setReg ..
  obtain ⟨_, _, _, hr⟩ := Chip.raiseLim_rest (b.bumpLnk p 0x1100)
    (evP (pgLnk (portDie p)) 0x0503 (dieP (portDie p)) p) p (usUnits 1000)
  rw [Chip.hdrError, hr]
  exact hbump.trans ⟨rfl, fun _ _ => rfl, by simp [Chip.only]⟩

end Chip.TailFrame

/-! The outcomes -/

/-- What the tail of a frame `f` leaves in view: the ACK_SEQ reached, whether the link is in recovery, whether the frame's
credits are free, whether the command of its class may act on it, whether a NAK went out, and what was counted. -/
def TailView.ended (v : TailView) (f : Frame) (now ack : Nat) (rec free ok naks : Bool) (disc dup : W32) : TailView :=
  let l := { v.link with
    rx := none
    ackSeq := ack
    checked := some (f, ok)
    freedRx := if free then (v.link.freed (hVl f.hdr) (hLen f.hdr)).freedRx else v.link.freedRx
    lpi := if naks then v.link.lpi.woken else v.link.lpi }
  { link := l, ctl := v.ctl ++ (if naks then [l.nak now] else []), recovery := rec,
    naks := v.naks + (if naks then 1 else 0), discarded := v.discarded + disc, duplicates := v.duplicates + dup }

/-- The part `k` is what the tail of `f` leaves of `c` on port `p`. -/
def Chip.TailGives (c : Chip) (p : Nat) (f : Frame) (k : Chip) (ack : Nat) (rec free ok naks : Bool) (disc dup : W32) :
    Prop :=
  c.TailFrame p k ∧ k.tailView p = (c.tailView p).ended f c.time.now ack rec free ok naks disc dup

section
variable (c : Chip) (p : Nat) (f : Frame)

/-- A frame whose tail has come, as it is counted. -/
def Chip.tailMet : Chip := (c.received p (workLivery f.hdr) (f.body.length + 36)).countTail p f

/-- The same, its credits free. -/
def Chip.tailFreed : Chip := (c.tailMet p f).freeCredits p (hVl f.hdr) (hLen f.hdr)

/-- A frame older than the expected one (R270). -/
def Chip.tailDuplicate : Chip := ((c.tailFreed p f).bumpLnk p 0x1124).verdict p f false

/-- A frame that comes in recovery (R270). -/
def Chip.tailDiscarded : Chip := ((c.tailFreed p f).bumpLnk p 0x1120).verdict p f false

/-- A frame that starts recovery (R270). -/
def Chip.tailRecovers (ok : Bool) : Chip := (((c.tailFreed p f).setLnkFlag p 1 true).sendNak p).verdict p f ok

theorem Chip.tailView_met : (c.tailMet p f).tailView p =
    { c.tailView p with link := { (c.tailView p).link with rx := none } } := by
  rw [Chip.tailMet, Chip.tailView_countTail, Chip.tailView_received]

theorem Chip.tailView_freed : (c.tailFreed p f).tailView p = { c.tailView p with
    link := Link.freed { (c.tailView p).link with rx := none } (hVl f.hdr) (hLen f.hdr) } := by
  rw [Chip.tailFreed, Chip.tailView_freeCredits, Chip.tailView_met]

/-- An accepted frame, by the ACK_SEQ that it gives (R270). -/
def Chip.tailAccepted (ack : Nat) : Chip := ((c.tailMet p f).acceptSeq p ack).verdict p f true

/-- A frame with the expected LSEQ and a bad header (R260). -/
def Chip.tailBadHeader (ack : Nat) : Chip :=
  ((((c.tailMet p f).acceptSeq p ack).freeCredits p (hVl f.hdr) (hLen f.hdr)).hdrError p).verdict p f false

/-- A frame cut off by a tailboard that has the expected LSEQ, and one that has not (R277). -/
def Chip.tailCut (ack : Nat) : Chip :=
  (((c.tailMet p f).acceptSeq p ack).freeCredits p (hVl f.hdr) (hLen f.hdr)).verdict p f true
def Chip.tailCutPassed : Chip := (c.tailFreed p f).verdict p f false

variable {p f}

theorem Chip.TailFrame.met : c.TailFrame p (c.tailMet p f) := (Chip.TailFrame.received c _ _).countTail f

theorem Chip.TailFrame.freed : c.TailFrame p (c.tailFreed p f) := (Chip.TailFrame.met c).setLink _

theorem Chip.TailFrame.accepted (ack : Nat) : c.TailFrame p ((c.tailMet p f).acceptSeq p ack) :=
  ((Chip.TailFrame.met c).setLink _).setReg ..

section
variable {k : Chip} {ack : Nat}

theorem Chip.tailAccepted_gives : c.TailGives p f (c.tailAccepted p f ack) ack false false true false 0 0 := by
  refine ⟨(Chip.TailFrame.accepted c ack).setLink _, ?_⟩
  rw [Chip.tailAccepted, Chip.tailView_verdict, Chip.tailView_acceptSeq, Chip.tailView_met]
  simp [TailView.ended]

theorem Chip.tailBadHeader_gives : c.TailGives p f (c.tailBadHeader p f ack) ack false true false false 0 0 := by
  refine ⟨(((Chip.TailFrame.accepted c ack).setLink _).hdrError).setLink _, ?_⟩
  rw [Chip.tailBadHeader, Chip.tailView_verdict, Chip.tailView_hdrError, Chip.tailView_freeCredits,
    Chip.tailView_acceptSeq, Chip.tailView_met]
  simp [TailView.ended, Link.freed]

theorem Chip.tailCut_gives : c.TailGives p f (c.tailCut p f ack) ack false true true false 0 0 := by
  refine ⟨((Chip.TailFrame.accepted c ack).setLink _).setLink _, ?_⟩
  rw [Chip.tailCut, Chip.tailView_verdict, Chip.tailView_freeCredits, Chip.tailView_acceptSeq, Chip.tailView_met]
  simp [TailView.ended, Link.freed]

theorem Chip.tailCutPassed_gives :
    c.TailGives p f (c.tailCutPassed p f) (c.link p).ackSeq (c.recovery p) true false false 0 0 := by
  refine ⟨(Chip.TailFrame.freed c).setLink _, ?_⟩
  rw [Chip.tailCutPassed, Chip.tailView_verdict, Chip.tailView_freed]
  simp [TailView.ended, Link.freed, Chip.tailView]

theorem Chip.tailDuplicate_gives :
    c.TailGives p f (c.tailDuplicate p f) (c.link p).ackSeq (c.recovery p) true false false 0 1 := by
  refine ⟨((Chip.TailFrame.freed c).setReg ..).setLink _, ?_⟩
  rw [Chip.tailDuplicate, Chip.tailView_verdict, Chip.tailView_bumpLnk _ (by decide) (by decide), Chip.tailView_freed]
  simp [TailView.ended, Link.freed, Chip.tailView]

theorem Chip.tailDiscarded_gives (h : c.recovery p = true) :
    c.TailGives p f (c.tailDiscarded p f) (c.link p).ackSeq true true false false 1 0 := by
  refine ⟨((Chip.TailFrame.freed c).setReg ..).setLink _, ?_⟩
  rw [Chip.tailDiscarded, Chip.tailView_verdict, Chip.tailView_bumpLnk _ (by decide) (by decide), Chip.tailView_freed]
  simp [TailView.ended, Link.freed, Chip.tailView, h]

theorem Chip.tailRecovers_gives (ok : Bool) :
    c.TailGives p f (c.tailRecovers p f ok) (c.link p).ackSeq true true ok true 0 0 := by
  have hframe : c.TailFrame p ((c.tailFreed p f).setLnkFlag p 1 true) := (Chip.TailFrame.freed c).setReg ..
  refine ⟨hframe.sendNak.setLink _, ?_⟩
  rw [Chip.tailRecovers, Chip.tailView_verdict, Chip.tailView_sendNak, Chip.tailView_setRecovery, Chip.tailView_freed,
    hframe.time]
  simp [TailView.ended, Link.freed, Link.nak, Chip.tailView]
end
end

/-! The tail check, by the tail of the frame -/

section
variable (c : Chip) (p : Nat) (f : Frame)

/-- A Narjo port that receives, its link up. -/
def Chip.tailRx : Prop := c.rxOn p = true ∧ c.narjo p = true ∧ c.linkUp p = true

/-- The signed distance of a frame's LSEQ from the expected one (R270). -/
def Chip.tailDist : Int := signed 12 (hLseq f.hdr + 4096 - ((c.link p).ackSeq + 1) % 4096)

/-- A frame that is not the expected one (R270). -/
def Chip.tailUnexpected (ok : Bool) : Chip :=
  if c.tailDist p f < 0 then c.tailDuplicate p f
  else if c.recovery p then c.tailDiscarded p f else c.tailRecovers p f ok

theorem Chip.tailMet_ackSeq : ((c.tailMet p f).link p).ackSeq = (c.link p).ackSeq :=
  congrArg (·.link.ackSeq) (c.tailView_met p f)

theorem Chip.tailMet_recovery : (c.tailMet p f).recovery p = c.recovery p :=
  congrArg TailView.recovery (c.tailView_met p f)

variable {c p f}

theorem Chip.tailCheck_off (h : ¬ c.tailRx p ∨ hdrSequenced f.hdr = false) : c.tailCheck p f = c := by
  have hoff : (!(c.rxOn p && c.narjo p && c.linkUp p && hdrSequenced f.hdr)) = true := by
    rw [Bool.not_eq_true', Bool.eq_false_iff]
    simp only [ne_eq, Bool.and_eq_true]
    rintro ⟨⟨⟨hr, hn⟩, hu⟩, hs⟩
    exact h.elim (fun h => h ⟨hr, hn, hu⟩) (by simp [hs])
  rw [Chip.tailCheck, if_pos hoff]

variable (hrx : c.tailRx p) (hs : hdrSequenced f.hdr = true)
include hrx hs

theorem Chip.tailCheck_part (hw : f.whole = false) : c.tailCheck p f = c.inReception p f := by
  obtain ⟨hr, hn, hu⟩ := hrx
  simp [Chip.tailCheck, hr, hn, hu, hs, hw]

variable (hw : f.whole = true)
include hw

theorem Chip.tailCheck_good (ht : tailOf f = .good) : c.tailCheck p f =
    if c.tailDist p f = 0 then
      if hdrOk f.hdr then c.tailAccepted p f (((c.link p).ackSeq + 1) % 4096)
      else c.tailBadHeader p f (((c.link p).ackSeq + 1) % 4096)
    else c.tailUnexpected p f false := by
  obtain ⟨hr, hn, hu⟩ := hrx
  rw [Chip.tailUnexpected, Chip.tailDist, ← c.tailMet_ackSeq p f, ← c.tailMet_recovery p f]
  simp only [Chip.tailCheck, hr, hn, hu, hs, hw, ht]
  rfl

theorem Chip.tailCheck_tailboard {n : Nat} (ht : tailOf f = .tailboard n) : c.tailCheck p f =
    if c.tailDist p f = 0 then c.tailCut p f (((c.link p).ackSeq + 1) % 4096) else c.tailCutPassed p f := by
  obtain ⟨hr, hn, hu⟩ := hrx
  have hmet : (c.received p (workLivery f.hdr) (f.body.length + 36)).countTail p f = c.tailMet p f := rfl
  simp only [Chip.tailCheck, hr, hn, hu, hs, hw, ht, hmet, c.tailMet_ackSeq p f]
  by_cases hd : c.tailDist p f = 0
  · rw [if_pos hd, Chip.tailCut, show signed 12 _ = 0 from hd]
    rfl
  · rw [if_neg hd, Chip.tailCutPassed, if_neg (show ¬ signed 12 _ = 0 from hd), decide_eq_false (show ¬ signed 12 _ = 0 from hd)]
    rfl

theorem Chip.tailCheck_bad {n : Nat} (ht : tailOf f = .bad n) :
    c.tailCheck p f = c.tailUnexpected p f (decide (c.tailDist p f = 0)) := by
  obtain ⟨hr, hn, hu⟩ := hrx
  rw [Chip.tailUnexpected, Chip.tailDist, ← c.tailMet_ackSeq p f, ← c.tailMet_recovery p f]
  simp only [Chip.tailCheck, hr, hn, hu, hs, hw, ht]
  rfl
end

/-! The commands -/

theorem exec_frameTailCheck (s : State) (p : LPort) (f : Frame) :
    exec (.frameTailCheck p f) s = .next (s.after (s.chip.tailCheck p f)) := rfl

/-- What the statement says of the tail of `f` on port `p`: the part it leaves is the one that the outcome gives. -/
theorem yields_tail {s : State} {p : LPort} {f : Frame} {k : Chip} {ack : Nat} {rec free ok naks : Bool} {disc dup : W32}
    (hk : s.chip.tailCheck p f = k) (hg : s.chip.TailGives p f k ack rec free ok naks disc dup) :
    Yields (.frameTailCheck p f) s (fun t =>
      (t.link p.val).ackSeq = ack ∧ t.recovery p.val = rec ∧ (t.link p.val).checked = some (f, ok) ∧
      Tbl.get 0 (t.link p.val).freedRx (hVl f.hdr) =
        (if free then (Tbl.get 0 (s.chip.link p).freedRx (hVl f.hdr) + ceilDiv (hLen f.hdr) 64) % 65536
          else Tbl.get 0 (s.chip.link p).freedRx (hVl f.hdr)) ∧
      (t.egress p.val).ctl = (s.chip.egress p.val).ctl ++ (if naks then [(t.link p.val).nak s.chip.time.now] else []) ∧
      t.reg (pgLnk (p.val / 128)) 0x111C = s.chip.reg (pgLnk (p.val / 128)) 0x111C + (if naks then 1 else 0) ∧
      t.reg (pgLnk (p.val / 128)) 0x1120 = s.chip.reg (pgLnk (p.val / 128)) 0x1120 + disc ∧
      t.reg (pgLnk (p.val / 128)) 0x1124 = s.chip.reg (pgLnk (p.val / 128)) 0x1124 + dup ∧
      (t.link p.val).rx = none ∧ (∀ q, q ≠ p.val → t.link q = s.chip.link q) ∧
      Chip.only [.regs, .ev, .snap, .port, .traf, .act] s.chip t) := by
  obtain ⟨hframe, hview⟩ := hg
  simp only [Chip.tailView, TailView.ended, TailView.mk.injEq] at hview
  obtain ⟨hlink, hctl, hrec, hnaks, hdisc, hdup⟩ := hview
  refine yields_after (hk ▸ exec_frameTailCheck s p f) ?_
  simp only [Chip.settleAlerts_link, Chip.settleAlerts_egress, Chip.settleAlerts_reg]
  refine ⟨?_, hrec, ?_, ?_, ?_, hnaks, hdisc, hdup, ?_, hframe.link, Chip.only_settleAlerts hframe.only⟩
  · rw [hlink]
  · rw [hlink]
  · rw [hlink]
    cases free
    · rfl
    · exact Tbl.get_set_same ..
  · rw [hctl, hlink]
  · rw [hlink]

/-- The outcome of a frame that is not the expected one, by its distance and by whether the link is in recovery. -/
theorem Chip.tailUnexpected_gives (c : Chip) (p : Nat) (f : Frame) (ok : Bool) :
    (c.tailDist p f < 0 → c.TailGives p f (c.tailUnexpected p f ok) (c.link p).ackSeq (c.recovery p) true false false 0 1) ∧
    (¬ c.tailDist p f < 0 → c.recovery p = true →
      c.TailGives p f (c.tailUnexpected p f ok) (c.link p).ackSeq true true false false 1 0) ∧
    (¬ c.tailDist p f < 0 → c.recovery p = false →
      c.TailGives p f (c.tailUnexpected p f ok) (c.link p).ackSeq true true ok true 0 0) := by
  unfold Chip.tailUnexpected
  refine ⟨fun hd => ?_, fun hd hr => ?_, fun hd hr => ?_⟩
  · rw [if_pos hd]
    exact c.tailDuplicate_gives
  · rw [if_neg hd, if_pos hr]
    exact c.tailDiscarded_gives hr
  · rw [if_neg hd, if_neg (by simp [hr])]
    exact c.tailRecovers_gives ok

theorem Chip.smbStatusWord_lpiWake (c : Chip) {p : Nat} (hp : p < 1024) :
    (c.lpiWake p).smbStatusWord = c.smbStatusWord := by
  unfold Chip.lpiWake
  split
  · refine (Chip.smbStatusWord_bump _ 0 ?_ ?_ (by decide)).trans (c.smbStatusWord_setLink _ _)
    all_goals
      unfold pgPrt portDie
      have : pgSec = 8 := rfl
      omega
  · exact c.smbStatusWord_setLink _ _
  · rfl

theorem Chip.smbStatusWord_sendNak (c : Chip) {p : Nat} (hp : p < 1024) :
    (c.sendNak p).smbStatusWord = c.smbStatusWord := by
  obtain ⟨hl, hh⟩ := pgLnk_bounds (portDie_lt hp)
  rw [Chip.sendNak_eq, Chip.bumpLnk, Chip.smbStatusWord_bump _ 0 hl hh (by decide), Chip.smbStatusWord_setEgress,
    c.smbStatusWord_lpiWake hp]

section
variable {s : State} {p : LPort}

theorem exec_nakRepeat (hrx : s.chip.tailRx p) (hrec : s.chip.recovery p = true) :
    exec (.nakRepeat p) s = .next (s.put (s.chip.sendNak p)) := by
  obtain ⟨hr, hn, hu⟩ := hrx
  exact exec_gated_put (fun c => c.rxOn p.val && c.narjo p.val && c.linkUp p.val && c.recovery p.val)
    (fun c => c.sendNak p.val) rfl (by simp [hr, hn, hu, hrec]) rfl (s.chip.smbStatusWord_sendNak p.isLt)

theorem exec_nakRepeat_idle (h : ¬ s.chip.tailRx p ∨ s.chip.recovery p = false) : exec (.nakRepeat p) s = .next s := by
  refine State.run_eq_self (f := fun c =>
    if c.rxOn p.val && c.narjo p.val && c.linkUp p.val && c.recovery p.val then c.sendNak p.val else c) (if_neg ?_)
  simp only [Bool.and_eq_true]
  rintro ⟨⟨⟨hr, hn⟩, hu⟩, hrec⟩
  exact h.elim (fun h => h ⟨hr, hn, hu⟩) (by simp [hrec])
end

/-- Settles O34: the tail check by the tail and the distance of the frame, each outcome by what its parts make of the
link. -/
theorem tailsDecideTheSequence : Obligations.TailsDecideTheSequence := by
  unfold Obligations.TailsDecideTheSequence
  intro s p f c pg l exp d vl nak ends rx
  have hends : ∀ {k : Chip} {ack : Nat} {rec free ok naks : Bool} {disc dup : Nat}, c.tailCheck p f = k →
      c.TailGives p f k ack rec free ok naks (BitVec.ofNat 32 disc) (BitVec.ofNat 32 dup) →
      ends ack rec free ok naks disc dup := fun hk hg => yields_tail hk hg
  obtain ⟨hold, hdisc, hnak⟩ := c.tailUnexpected_gives p f false
  refine ⟨fun h => ?_, fun hrx hs hw => ?_, fun hrx hs hw => ?_,
    exec_nakRepeat_idle, fun hrx hrec => ?_⟩
  · rw [exec_frameTailCheck, Chip.tailCheck_off h, State.after_self]
  · rw [exec_frameTailCheck, Chip.tailCheck_part hrx hs hw, State.after_eq_put]
    rfl
  · have hgood := Chip.tailCheck_good hrx hs hw
    have hcut := @Chip.tailCheck_tailboard _ _ _ hrx hs hw
    have hbad := @Chip.tailCheck_bad _ _ _ hrx hs hw
    refine ⟨fun ht hd hh => ?_, fun ht hd hh => ?_, fun ht hd => ?_, fun ht hd hr => ?_, fun ht hd hr => ?_,
      fun n ht hd => ?_, fun n ht hd => ?_, fun n ht hd => ?_, fun n ht hd hr => ?_, fun n ht hd hr => ?_⟩
    · exact hends (((hgood ht).trans (if_pos hd)).trans (if_pos hh)) c.tailAccepted_gives
    · exact hends (((hgood ht).trans (if_pos hd)).trans (if_neg (by simp [hh]))) c.tailBadHeader_gives
    · exact hends ((hgood ht).trans (if_neg hd.ne)) (hold hd)
    · exact hends ((hgood ht).trans (if_neg hd.ne')) (hdisc hd.not_gt hr)
    · exact hends ((hgood ht).trans (if_neg hd.ne')) (hnak hd.not_gt hr)
    · exact hends ((hcut ht).trans (if_pos hd)) c.tailCut_gives
    · exact hends ((hcut ht).trans (if_neg hd)) c.tailCutPassed_gives
    · exact hends (hbad ht) ((c.tailUnexpected_gives p f _).1 hd)
    · exact hends (hbad ht) ((c.tailUnexpected_gives p f _).2.1 hd.not_gt hr)
    · exact hends (hbad ht) ((c.tailUnexpected_gives p f _).2.2 hd.not_gt hr)
  · rw [exec_nakRepeat hrx hrec, Chip.sendNak_eq]
    rfl

end Sys2Proof.Machine
end

section
/-! The writes to the link registers and the MAC frames that a port consumes (R254, R256, R265, R268, R279, R280, R310). -/

namespace Sys2Proof.Machine

/-! The first register of each page under what a mirrored frame does -/

/-- The registers at offset 0x1000 of every page. FW_STATUS, which tells the state of the firmware, is one of them. -/
def Chip.firstRegs (c : Chip) : Nat → Nat → W32 := fun page inst => c.reg page 0x1000 inst

theorem Chip.fwState_of_firstRegs {c k : Chip} (h : k.firstRegs = c.firstRegs) : k.fwState = c.fwState :=
  congrArg (fun r : Nat → Nat → W32 => fld (r (pgMbx 0) 0) 0 3) h

section
variable (c : Chip)

@[simp] theorem Chip.setReg_firstRegs {page off : Nat} (v : W32) (inst : Nat) (ho : off < 0x10000) (h : off ≠ 0x1000) :
    (c.setReg page off v inst).firstRegs = c.firstRegs :=
  funext fun _ => funext fun _ => c.reg_setReg_off v ho (by decide) h.symm

@[simp] theorem Chip.setField_firstRegs {page off : Nat} (lo w v inst : Nat) (ho : off < 0x10000) (h : off ≠ 0x1000) :
    (c.setField page off lo w v inst).firstRegs = c.firstRegs := c.setReg_firstRegs _ inst ho h

@[simp] theorem Chip.setFlag_firstRegs {page off : Nat} (i : Nat) (b : Bool) (inst : Nat) (ho : off < 0x10000)
    (h : off ≠ 0x1000) : (c.setFlag page off i b inst).firstRegs = c.firstRegs := c.setReg_firstRegs _ inst ho h

@[simp] theorem Chip.bump_firstRegs {page off : Nat} (inst : Nat) (ho : off < 0x10000) (h : off ≠ 0x1000) :
    (c.bump page off inst).firstRegs = c.firstRegs := c.setReg_firstRegs _ inst ho h

@[simp] theorem Chip.setLink_firstRegs (p : Nat) (l : Link) : (c.setLink p l).firstRegs = c.firstRegs := rfl
@[simp] theorem Chip.setEgress_firstRegs (p : Nat) (e : Egress) : (c.setEgress p e).firstRegs = c.firstRegs := rfl
@[simp] theorem Chip.setQueueSt_firstRegs (p tc : Nat) (q : QueueSt) :
    (c.setQueueSt p tc q).firstRegs = c.firstRegs := rfl
@[simp] theorem Chip.handToM0_firstRegs (m : Msg) : (c.handToM0 m).firstRegs = c.firstRegs := rfl

@[simp] theorem Chip.raise_firstRegs (e : Ev) : (c.raise e).firstRegs = c.firstRegs :=
  funext fun _ => funext fun _ => c.raise_reg_off e (by decide) (by decide)

@[simp] theorem Chip.routeMiss_firstRegs : c.routeMiss.firstRegs = c.firstRegs :=
  c.bump_firstRegs _ (by decide) (by decide)
@[simp] theorem Chip.downDrop_firstRegs : c.downDrop.firstRegs = c.firstRegs :=
  c.bump_firstRegs _ (by decide) (by decide)
@[simp] theorem Chip.mirrorDrop_firstRegs : c.mirrorDrop.firstRegs = c.firstRegs :=
  c.bump_firstRegs _ (by decide) (by decide)

@[simp] theorem Chip.violation_firstRegs (l cause : Nat) (p : Option Nat) :
    (c.violation l cause p).firstRegs = c.firstRegs := by
  simp [Chip.violation]

/-! Cells -/

/-- The banks of a die have flags in eight words (R226). -/
theorem Chip.bankAccess_firstRegs (die : Nat) {bank : Nat} (h : bank < 256) :
    (c.bankAccess die bank).firstRegs = c.firstRegs := by
  simp only [Chip.bankAccess]
  generalize ht : (if bank < 128 then { c with bank := { c.bank with
    touched := Tbl.set 0 c.bank.touched (die * 256 + bank) c.time.now } } else c) = k
  have hk : k.firstRegs = c.firstRegs := by rw [← ht]; split <;> rfl
  split
  · exact hk
  · split
    · exact (Chip.bump_firstRegs _ _ (by decide) (by decide)).trans hk
    · exact hk
  · exact hk
  · rw [Chip.setFlag_firstRegs _ _ _ _ (by omega) (by omega), Chip.bump_firstRegs _ _ (by decide) (by decide)]
    exact hk
  · exact hk

@[simp] theorem Chip.evalLevel_firstRegs (die pool liv : Nat) : (c.evalLevel die pool liv).firstRegs = c.firstRegs := by
  obtain ⟨_, h | h⟩ := c.evalLevel_cases die pool liv <;> rw [h]
  · rw [Chip.raise_firstRegs, Chip.bump_firstRegs _ _ (by decide) (by decide)]
    rfl
  · rfl

theorem Chip.takeUnit_firstRegs (die owner : Nat) {pool u : Nat} (h : u < poolUnits pool) :
    (c.takeUnit die pool owner u).firstRegs = c.firstRegs := by
  have hbank := c.bankAccess_firstRegs die (unitBank_lt h)
  unfold Chip.takeUnit
  generalize c.bankAccess die (unitBank pool u) = k at hbank ⊢
  exact hbank

theorem Chip.tryUnits_firstRegs {die pool owner n : Nat} {us : List Nat} {k : Chip}
    (h : c.tryUnits die pool owner n = some (us, k)) : k.firstRegs = c.firstRegs := by
  induction n generalizing us k with
  | zero => cases h; rfl
  | succ n ih =>
    simp only [Chip.tryUnits] at h
    split at h
    · cases h
    · next us' k' hk =>
      split at h
      · split at h
        · next u hu =>
          cases h
          exact (k'.takeUnit_firstRegs die owner (Chip.lowestFree_lt hu)).trans (ih hk)
        · cases h
      · cases h

@[simp] theorem Chip.allocUnits_firstRegs (die pool owner n : Nat) :
    (c.allocUnits die pool owner n).2.firstRegs = c.firstRegs := by
  unfold Chip.allocUnits
  split
  · next us k h =>
    rw [apply_ite Chip.firstRegs, Chip.evalLevel_firstRegs, ite_self, c.tryUnits_firstRegs h]
  · exact c.bump_firstRegs _ (by decide) (by decide)

@[simp] theorem Chip.writeCells_firstRegs (bd owner len refs : Nat) :
    (c.writeCells bd owner len refs).2.firstRegs = c.firstRegs := by
  have ha := c.allocUnits_firstRegs (dieB bd) plCell owner (cellsFor len)
  unfold Chip.writeCells
  split
  · next us k h =>
    rw [h] at ha
    dsimp only
    rw [Chip.openCells]
    refine (keep_fold2 Chip.firstRegs us ([], k) _ fun _ _ => ?_).trans ha
    rfl
  · next h =>
    rw [h] at ha
    exact ha

@[simp] theorem Chip.setRefs_firstRegs (r : CellRef) (n : Nat) : (c.setRefs r n).firstRegs = c.firstRegs := by
  unfold Chip.setRefs
  split <;> rfl

@[simp] theorem Chip.polDiscard_firstRegs (p : Nat) : (c.polDiscard p).firstRegs = c.firstRegs := by
  unfold Chip.polDiscard
  split <;> simp

/-! Queues and crossings -/

@[simp] theorem Chip.watermark_firstRegs (p tc d0 d1 : Nat) : (c.watermark p tc d0 d1).firstRegs = c.firstRegs := by
  simp [Chip.watermark, apply_ite Chip.firstRegs]

@[simp] theorem Chip.lpiWake_firstRegs (p : Nat) : (c.lpiWake p).firstRegs = c.firstRegs := by
  unfold Chip.lpiWake
  split <;> simp [Chip.bumpPrt]

@[simp] theorem Chip.enqueue_firstRegs (p : Nat) (m : Msg) : (c.enqueue p m).firstRegs = c.firstRegs := by
  simp only [Chip.enqueue]
  split_ifs <;> simp

@[simp] theorem Chip.pfcCheck_firstRegs (p i : Nat) : (c.pfcCheck p i).firstRegs = c.firstRegs := by
  simp only [Chip.pfcCheck]
  split_ifs <;> simp

@[simp] theorem Chip.cross_firstRegs (m : Msg) (dest q : Nat) : (c.cross m dest q).2.firstRegs = c.firstRegs := by
  unfold Chip.cross
  split
  · simp only [Chip.toCrossbar]
    rw [apply_ite Chip.firstRegs, Chip.pfcCheck_firstRegs, ite_self]
    rfl
  · rfl

@[simp] theorem Chip.deliver_firstRegs (q : Nat) (m : Msg) : (c.deliver q m).firstRegs = c.firstRegs := by
  rw [Chip.deliver, Chip.enqueue_firstRegs, Chip.cross_firstRegs]

@[simp] theorem Chip.holdWhole_firstRegs (m : Msg) (q refs : Nat) :
    (c.holdWhole m q refs).2.firstRegs = c.firstRegs := by
  have hw := c.writeCells_firstRegs (c.bufferDie (m.cellDie q) (hLiv m.hdr)) (cellOwner m.hdr) m.len refs
  simp only [Chip.holdWhole]
  split
  · exact keep_forAll Chip.firstRegs _ c _ fun r k => k.setRefs_firstRegs r refs
  · split
    · exact c.polDiscard_firstRegs _
    · split
      · next h =>
        rw [h] at hw
        exact (Chip.cross_firstRegs ..).trans hw
      · next h =>
        rw [h] at hw
        exact (Chip.polDiscard_firstRegs ..).trans hw

/-! Mirroring -/

@[simp] theorem Chip.mirrorSend_firstRegs (s : Nat) (egress bad : Bool) (lport stamp : Nat) (all : List Byte) :
    (c.mirrorSend s egress bad lport stamp all).firstRegs = c.firstRegs := by
  simp only [Chip.mirrorSend]
  split
  · exact c.violation_firstRegs ..
  · split
    · rw [Chip.mirrorDrop_firstRegs, Chip.routeMiss_firstRegs]
    · exact c.handToM0_firstRegs _
    · rw [Chip.mirrorDrop_firstRegs, Chip.downDrop_firstRegs]
    · exact c.mirrorDrop_firstRegs
    · next q _ =>
        have hh := c.holdWhole_firstRegs (c.mirrorMsg s egress bad lport stamp all) q 1
        split
        · exact c.violation_firstRegs ..
        · split
          · next h =>
            rw [h] at hh
            exact (Chip.deliver_firstRegs ..).trans hh
          · next h =>
            rw [h] at hh
            exact (Chip.mirrorDrop_firstRegs _).trans hh

@[simp] theorem Chip.mirrorMatch_firstRegs (s : Nat) (egress bad : Bool) (lport stamp : Nat) (all : List Byte) :
    (c.mirrorMatch s egress bad lport stamp all).firstRegs = c.firstRegs := by
  simp only [Chip.mirrorMatch]
  split_ifs
  · exact c.mirrorSend_firstRegs ..
  · exact Chip.mirrorSend_firstRegs ..
  · rfl

@[simp] theorem Chip.mirrorIn_firstRegs (bad : Bool) (flow : Option Nat) (m : Msg) :
    (c.mirrorIn bad flow m).firstRegs = c.firstRegs := by
  unfold Chip.mirrorIn
  split
  · refine keep_forAll Chip.firstRegs _ c _ fun s k => ?_
    dsimp only
    rw [apply_ite Chip.firstRegs, k.mirrorMatch_firstRegs, ite_self]
  · rfl
end

theorem Chip.fwState_mirrorIn (c : Chip) (bad : Bool) (flow : Option Nat) (m : Msg) :
    (c.mirrorIn bad flow m).fwState = c.fwState := Chip.fwState_of_firstRegs (c.mirrorIn_firstRegs bad flow m)

theorem Chip.fwState_heard (c : Chip) {p : Nat} (f : Frame) (hp : p < 1024) : (c.heard p f).fwState = c.fwState := by
  have hr : (c.heard p f).reg (pgMbx 0) fwStat 0 = c.reg (pgMbx 0) fwStat 0 :=
    Chip.heard_reg_uncounted hp 0 (by decide) (by decide) (by decide)
  rw [Chip.fwState, Chip.field, hr, Chip.fwState, Chip.field]

/-! PTP messages on a Narjo port -/

section
variable (c : Chip) (p : Nat)

theorem Chip.lpiWake_only : Chip.only [.regs, .port] c (c.lpiWake p) := by
  have hset : ∀ l, Chip.only [.regs, .port] c (c.setLink p l) := fun l => by simp [Chip.only, Chip.setLink]
  unfold Chip.lpiWake
  split
  · exact Chip.only_trans (hset _) (Chip.only_mono (by decide) (Chip.setReg_only ..))
  · exact hset _
  · exact c.only_rfl _

theorem Chip.enqueue_out {m : Msg} (h : hClass m.hdr = clsControl) : (c.enqueue p m).out = c.out := by
  rw [c.enqueue_ctl p h]
  unfold Chip.lpiWake
  split <;> rfl

/-- A Control frame joins the queue of Control frames of its port. -/
theorem Chip.enqueue_ctl_changes {m : Msg} (h : hClass m.hdr = clsControl) :
    ((c.enqueue p m).egress p).ctl = (c.egress p).ctl ++ [m] ∧ Chip.only [.regs, .port, .traf] c (c.enqueue p m) := by
  rw [c.enqueue_ctl p h, c.egress_lpiWake]
  refine ⟨by rw [Chip.egress_setEgress], Chip.only_trans (Chip.only_mono (by decide) (c.lpiWake_only p)) ?_⟩
  simp [Chip.only, Chip.setEgress]

variable (h : BitVec 256) (bs : List Byte) (stamp : Nat)

/-- A message handed to M0, two values taken from what is left free: the correction of the stamp and the stack's answer. -/
def Chip.handFresh (m : Msg) : Chip :=
  { c with out := { c.out with toM0 := c.out.toM0 ++ [m] }, fresh := c.fresh + 2 }

/-- The PTP answer of this part over a Narjo link (R279). -/
def Chip.ptpReply (a : List Byte) : Msg :=
  Msg.made (mkHdr clsControl 5 0 false 0 c.selfEid ((a.take 8412).length + 36) 0 0) (a.take 8412) c.time.now none

theorem hClass_hSub_ptpHdr {src len : Nat} (hlen : len < 2 ^ 15) :
    hClass (mkHdr clsControl 5 0 false 0 src len 0 0) = clsControl ∧
      hSub (mkHdr clsControl 5 0 false 0 src len 0 0) = 5 := by
  obtain ⟨r, hrow, hvl⟩ : ∃ r, classRow clsControl 5 0 = some r ∧ r.vl = 0 := ⟨_, rfl, rfl⟩
  simp only [hClass, hSub, mkHdr, hrow, hvl]
  rw [fld_putFld_other _ _ _ _ _ _ (by decide), fld_putFld_other _ _ _ _ _ _ (by decide)]
  simp only [fld, BitVec.toNat_ofNat, Nat.shiftRight_eq_div_pow, clsControl, Bool.false_eq_true, if_false]
  omega

theorem Chip.hdr_ptpReply (a : List Byte) :
    hClass (c.ptpReply a).hdr = clsControl ∧ hSub (c.ptpReply a).hdr = 5 :=
  hClass_hSub_ptpHdr (by rw [List.length_take]; omega)

/-- The message goes to M0, and running firmware may answer it. -/
theorem Chip.ptpTake_cases : ∃ t, let m := Msg.arrived p h bs t
    c.ptpTake p h bs stamp false = c.handFresh m ∨
      c.fwState = stRunning ∧
        ∃ a, c.ptpTake p h bs stamp false = (c.handFresh m).enqueue p ((c.handFresh m).ptpReply a) := by
  refine ⟨((stamp : Int) + Config.ptpCorrection c.fresh).toNat, ?_⟩
  simp only [Chip.ptpTake, Chip.takeFresh]
  split
  · next a hrun _ => exact .inr ⟨of_decide_eq_true hrun, a, rfl⟩
  · exact .inl rfl

/-- What taking a PTP message of port `p` makes of `c`: M0 has it, and firmware in the state `fw` may answer it on its port
if it runs. -/
def Chip.PtpTaken (fw : Nat) (t : Chip) : Prop :=
  ∃ (m : Msg) (ans : List Msg), m.body = bs ∧ m.hdr = h ∧ m.inPort = p ∧ t.out.toM0 = c.out.toM0 ++ [m] ∧
    (t.egress p).ctl = (c.egress p).ctl ++ ans ∧ ans.length ≤ 1 ∧ (fw ≠ 2 → ans = []) ∧
    (∀ a ∈ ans, hClass a.hdr = 3 ∧ hSub a.hdr = 5) ∧ Chip.only [.regs, .port, .traf, .out, .fresh] c t

theorem Chip.ptpTake_taken : c.PtpTaken p h bs c.fwState (c.ptpTake p h bs stamp false) := by
  obtain ⟨t, hcases⟩ := c.ptpTake_cases p h bs stamp
  have honly : ∀ m, Chip.only [.regs, .port, .traf, .out, .fresh] c (c.handFresh m) := fun m => by
    simp [Chip.only, Chip.handFresh]
  obtain he | ⟨hrun, a, he⟩ := hcases
  · refine ⟨Msg.arrived p h bs t, [], ?_⟩
    rw [he]
    exact ⟨rfl, rfl, rfl, rfl, (List.append_nil _).symm, by simp, fun _ => rfl, by simp, honly _⟩
  · have hreply := (c.handFresh (Msg.arrived p h bs t)).hdr_ptpReply a
    obtain ⟨hctl, hrest⟩ := (c.handFresh (Msg.arrived p h bs t)).enqueue_ctl_changes p hreply.1
    refine ⟨Msg.arrived p h bs t, [(c.handFresh (Msg.arrived p h bs t)).ptpReply a], ?_⟩
    rw [he]
    refine ⟨rfl, rfl, rfl, ?_, hctl, by simp, fun hn => absurd hrun hn, fun x hx => ?_,
      Chip.only_trans (honly _) (Chip.only_mono (by decide) hrest)⟩
    · rw [Chip.enqueue_out _ _ hreply.1]
      rfl
    · rw [List.mem_singleton.1 hx]
      exact hreply
end

theorem Chip.ptpRx_narjo {c : Chip} {p : Nat} {f : Frame} (age : Nat) (hh : c.hears p f) (hc : hClass f.hdr = clsControl)
    (hs : hSub f.hdr = 5) : c.ptpRx p f age =
      ((c.heard p f).mirrorIn false none (Msg.arrived p f.hdr f.body (c.time.now - age))).ptpTake p f.hdr f.body
        (c.time.now - age) false := by
  have hstamp : (c.heard p f).stampOf age = c.time.now - age := by rw [Chip.stampOf, Chip.heard_time]
  obtain ⟨_, hn, _⟩ := id hh
  rw [Chip.ptpRx, if_neg (by simp [hn]), c.receive_hears p f _ _ hh (by simp [hc, hs]), if_pos rfl, hstamp]

theorem Chip.ptpRx_eth {c : Chip} {p : Nat} {f : Frame} (age : Nat) (hn : c.narjo p = false) :
    c.ptpRx p f age = if isPtp f.body then c.ethFrame p f.body f.fecUncorr f.whole f.buf age else c :=
  if_pos (by simp [hn])

section
variable {s : State} {p : LPort} {f : Frame} (age : Nat)

theorem exec_ptpMessageRx : exec (.ptpMessageRx p f age) s = .next (s.after (s.chip.ptpRx p f age)) := rfl

theorem exec_ptpMessageRx_eth (hn : s.chip.narjo p.val = false) (hp : isPtp f.body = true) :
    exec (.ptpMessageRx p f age) s = exec (.ethernetFrame p f.body f.fecUncorr f.whole f.buf age) s := by
  rw [exec_ptpMessageRx, Chip.ptpRx_eth age hn, if_pos hp]
  rfl

/-- The firmware that answers is the one that ran when the message came. -/
theorem Chip.fwState_hearing (c : Chip) : ((c.heard p.val f).mirrorIn false none
    (Msg.arrived p.val f.hdr f.body (c.time.now - age))).fwState = c.fwState :=
  (Chip.fwState_mirrorIn ..).trans (c.fwState_heard f p.isLt)

/-- A PTP message that the port hears is handed to M0, and running firmware alone may answer it (R279, R280). -/
theorem yields_ptpMessageRx (hh : s.chip.hears p.val f) (hc : hClass f.hdr = clsControl) (hs : hSub f.hdr = 5) :
    Yields (.ptpMessageRx p f age) s
      (((s.chip.heard p.val f).mirrorIn false none (Msg.arrived p.val f.hdr f.body (s.chip.time.now - age))).PtpTaken
        p.val f.hdr f.body s.chip.fwState) := by
  have hex := exec_ptpMessageRx (s := s) (p := p) (f := f) age
  rw [Chip.ptpRx_narjo age hh hc hs] at hex
  refine yields_after hex ?_
  obtain ⟨m, ans, hbody, hhdr, hin, hm0, hctl, hlen, hnone, hans, honly⟩ := Chip.ptpTake_taken _ p.val f.hdr f.body _
  rw [Chip.fwState_hearing] at hnone
  exact ⟨m, ans, hbody, hhdr, hin, hm0, hctl, hlen, hnone, hans, Chip.only_settleAlerts honly⟩
end

/-! PAUSE and PFC -/

/-- A table after writes of a function's values at some keys. -/
theorem Tbl.get_foldl_set (u : Nat → Nat) (xs : List Nat) (t : Tbl Nat) (k : Nat) :
    Tbl.get 0 (xs.foldl (fun t i => Tbl.set 0 t i (u i)) t) k = if k ∈ xs then u k else Tbl.get 0 t k := by
  induction xs generalizing t with
  | nil => simp
  | cons x xs ih =>
    rw [List.foldl_cons, ih, Tbl.get_set]
    by_cases hx : k = x
    · subst hx
      simp
    · simp [hx]

theorem mem_setBits {n : Nat} (x : BitVec n) (k : Nat) (h : k < n) : k ∈ setBits x ↔ x.getLsbD k = true := by
  simp [setBits, h]

/-- The end of the pause of each priority (R256). -/
theorem Chip.pfcUntil_pfcRx (c : Chip) (p : Nat) (en : BitVec 8) (quanta : BitVec 128) {k : Nat} (hk : k < 8) :
    Tbl.get 0 ((c.pfcRx p en quanta).link p).pfcUntil k =
      if en.getLsbD k then
        (if fld quanta (16 * k) 16 = 0 then 0
          else c.time.now + ceilDiv (fld quanta (16 * k) 16 * 131072) (max 1 (c.portRate p)))
      else Tbl.get 0 (c.link p).pfcUntil k := by
  simp only [Chip.pfcRx, Chip.link_setLink]
  rw [Tbl.get_foldl_set]
  simp only [mem_setBits en k hk, Nat.mul_assoc]

/-! The link registers -/

/-- A write that changes MODE and is refused keeps the old MODE (R254). -/
theorem putBit_mode (old v : W32) :
    putBit (v &&& 0xFFF1) 0 (old.getLsbD 0) = ((v &&& 0xFFF1) &&& 0xFFF0) ||| (old &&& 1) := by
  have hlow : BitVec.ofNat 32 (((old.getLsbD 0).toNat % 2 ^ 1) <<< 0) = old &&& 1 := by
    rw [show (1 : W32) = 1#32 from rfl, BitVec.and_one_eq_setWidth_ofBool_getLsbD]
    cases old.getLsbD 0 <;> rfl
  rw [putBit, putFld, hlow, BitVec.and_assoc, BitVec.and_assoc]
  rfl

section
variable (c : Chip) {d : Nat}

/-- The credits of the virtual lanes that share a physical port with port `p`, `n` standing for those of its lane `vl`. -/
def Chip.creditsWith (c : Chip) (p vl n : Nat) : Nat :=
  ((c.logicalPorts (p / 4)).flatMap (fun k => (List.range 6).map (fun j =>
    if k = p ∧ j = vl then n else c.vlBuf k j))).sum

/-- What LNK_VL_BUFn may be written with (R268). -/
def Chip.creditsFit (c : Chip) (p vl n : Nat) : Prop :=
  c.inUse p = true ∧ c.enabled p = false ∧ vlMin vl ≤ n ∧
    c.creditsWith p vl n ≤ if c.split (p / 4) = 3 then 8192 else 4096

theorem vlMin_eq : ∀ vl : Fin 6, [132, 258, 66, 66, 145, 145].getD vl.val 0 = vlMin vl.val := by decide

theorem Chip.selLnk_mod (d : Nat) : c.selLnk d % 128 = c.field (pgLnk d) 0x1000 0 7 := by
  have := fld_lt (c.reg (pgLnk d) 0x1000) 0 7
  unfold Chip.selLnk Chip.field
  omega

section
variable (vl : Nat) (v : W32)

theorem Chip.vlWrite_eq : c.vlWrite d vl v =
    if !c.inUse (c.selLnk d) ∨ c.enabled (c.selLnk d) ∨ fld v 0 16 < vlMin vl ∨
        (if c.split (c.selLnk d / 4) = 3 then 8192 else 4096) < c.creditsWith (c.selLnk d) vl (fld v 0 16) then
      c.bump (pgLnk d) 0x1138
    else c.setReg (pgLnk d) (0x1040 + 4 * vl) (BitVec.ofNat 32 (fld v 0 16)) (c.field (pgLnk d) 0x1000 0 7) := by
  rw [Chip.creditsWith, List.sum_eq_foldl, ← c.selLnk_mod d]
  rfl

theorem Chip.vlWrite_fits (h : c.creditsFit (c.selLnk d) vl (fld v 0 16)) : c.vlWrite d vl v =
    c.setReg (pgLnk d) (0x1040 + 4 * vl) (BitVec.ofNat 32 (fld v 0 16)) (c.field (pgLnk d) 0x1000 0 7) := by
  obtain ⟨huse, hoff, hleast, hmost⟩ := h
  rw [c.vlWrite_eq, if_neg]
  rw [huse, hoff]
  simpa using ⟨hleast, hmost⟩

theorem Chip.vlWrite_rejects (h : ¬ c.creditsFit (c.selLnk d) vl (fld v 0 16)) :
    c.vlWrite d vl v = c.bump (pgLnk d) 0x1138 := by
  rw [c.vlWrite_eq, if_pos]
  by_contra hn
  simp only [not_or, Bool.not_eq_true', Bool.not_eq_false, Bool.not_eq_true, not_lt] at hn
  exact h hn
end

/-- A write to LNK_CTRL (R254), by whether MODE changes and whether the port is enabled. -/
theorem Chip.lnkCtrlWrite_keeps {v : W32}
    (h : v.getLsbD 0 = (c.reg (pgLnk d) 0x1004 (c.field (pgLnk d) 0x1000 0 7)).getLsbD 0) :
    c.lnkCtrlWrite d v = c.setReg (pgLnk d) 0x1004 (v &&& 0xFFF1) (c.field (pgLnk d) 0x1000 0 7) := by
  rw [Chip.lnkCtrlWrite, c.selLnk_mod, if_neg (not_not.2 h.symm)]

section
variable {v : W32} (h : v.getLsbD 0 ≠ (c.reg (pgLnk d) 0x1004 (c.field (pgLnk d) 0x1000 0 7)).getLsbD 0)
include h

theorem Chip.lnkCtrlWrite_rejects (he : c.enabled (c.selLnk d) = true) : c.lnkCtrlWrite d v =
    (c.setReg (pgLnk d) 0x1004 (((v &&& 0xFFF1) &&& 0xFFF0) |||
      (c.reg (pgLnk d) 0x1004 (c.field (pgLnk d) 0x1000 0 7) &&& 1)) (c.field (pgLnk d) 0x1000 0 7)).bump
        (pgLnk d) 0x1138 := by
  rw [Chip.lnkCtrlWrite, c.selLnk_mod, if_pos h.symm, if_pos he, putBit_mode, Chip.lnkReject]

theorem Chip.lnkCtrlWrite_restarts (he : c.enabled (c.selLnk d) = false) : c.lnkCtrlWrite d v =
    (c.setReg (pgLnk d) 0x1004 (v &&& 0xFFF1) (c.field (pgLnk d) 0x1000 0 7)).setLink (c.selLnk d) Link.reset := by
  rw [Chip.lnkCtrlWrite, c.selLnk_mod, if_pos h.symm, if_neg (by simp [he])]
end
end

/-! The commands -/

section
variable {s : State} {d : PDie}

/-- A command of a LNK page that its die serves. -/
theorem exec_lnkWrite {i : Instr} (f : Chip → Chip) {k : Chip}
    (he : exec i s = s.run fun c => if c.serves (pgLnk d.val) then f c else c)
    (h : s.chip.serves (pgLnk d.val) = true) (hf : f s.chip = k) (hk : k.smbStatusWord = s.chip.smbStatusWord) :
    exec i s = .next (s.put k) := exec_gated_put (·.serves (pgLnk d.val)) f he h hf hk

theorem Chip.smbStatusWord_setLnk (c : Chip) {off : Nat} (v : W32) (inst : Nat) (ho : off < 0x10000) :
    (c.setReg (pgLnk d.val) off v inst).smbStatusWord = c.smbStatusWord :=
  c.smbStatusWord_setReg v inst (pgLnk_bounds d.isLt).1 (pgLnk_bounds d.isLt).2 ho
end

section
variable {s : State} {p : LPort}

theorem Chip.smbStatusWord_bumpLnk (c : Chip) {off : Nat} (ho : off < 0x10000) :
    (c.bumpLnk p.val off).smbStatusWord = c.smbStatusWord :=
  c.smbStatusWord_bump 0 (pgLnk_bounds (portDie_lt p.isLt)).1 (pgLnk_bounds (portDie_lt p.isLt)).2 ho

theorem exec_pauseFrameRx (h : s.chip.ethRx p.val = true) :
    exec (.pauseFrameRx p) s = .next (s.put (s.chip.bump (pgLnk (p.val / 128)) 0x113C)) :=
  exec_gated_put (·.ethRx p.val) (·.bumpLnk p.val 0x113C) rfl h rfl (s.chip.smbStatusWord_bumpLnk (by decide))

theorem exec_fecUncorrBetweenFrames (h : s.chip.rxOn p.val = true) :
    exec (.fecUncorrBetweenFrames p) s = .next (s.put (s.chip.bump (pgLnk (p.val / 128)) 0x110C)) :=
  exec_gated_put (·.rxOn p.val) (·.bumpLnk p.val 0x110C) rfl h rfl (s.chip.smbStatusWord_bumpLnk (by decide))

theorem exec_fecUncorrBetweenFrames_idle (h : s.chip.rxOn p.val = false) :
    exec (.fecUncorrBetweenFrames p) s = .next s :=
  State.run_eq_self (f := fun c => if c.rxOn p.val then c.bumpLnk p.val 0x110C else c) (if_neg (by simp [h]))

theorem Chip.pfcRx_only (c : Chip) (q : Nat) (en : BitVec 8) (quanta : BitVec 128) :
    Chip.only [.port] c (c.pfcRx q en quanta) := by
  simp [Chip.only, Chip.pfcRx, Chip.setLink]

theorem exec_macFrame_idle {i : Instr} (h : s.chip.ethRx p.val = false)
    (hi : i = .pauseFrameRx p ∨ ∃ en quanta, i = .pfcFrameRx p en quanta) : exec i s = .next s := by
  have hoff : ∀ f : Chip → Chip, s.run (fun c => if c.ethRx p.val then f c else c) = .next s := fun f =>
    State.run_eq_self (f := fun c => if c.ethRx p.val then f c else c) (if_neg (by simp [h]))
  obtain rfl | ⟨en, quanta, rfl⟩ := hi
  · exact hoff (·.bumpLnk p.val 0x113C)
  · exact hoff (·.pfcRx p.val en quanta)
end

/-- Settles O37: the writes by what LNK_CTRL and the credits check, the MAC frames by the link of their port, and a PTP
message by the mode of its port. -/
theorem linkRegistersAndMacFrames : Obligations.LinkRegistersAndMacFrames := by
  unfold Obligations.LinkRegistersAndMacFrames
  refine ⟨fun s d v hs => ?_, fun s p => ?_⟩
  · intro c q pp old w
    refine ⟨fun h => ?_, fun h he => ?_, fun h he => ?_, fun vl => ?_⟩
    · exact exec_lnkWrite (·.lnkCtrlWrite d.val v) rfl hs (c.lnkCtrlWrite_keeps h)
        (c.smbStatusWord_setLnk _ _ (by decide))
    · exact exec_lnkWrite (·.lnkCtrlWrite d.val v) rfl hs (c.lnkCtrlWrite_rejects h he)
        ((Chip.smbStatusWord_setLnk _ _ _ (by decide)).trans (c.smbStatusWord_setLnk _ _ (by decide)))
    · exact exec_lnkWrite (·.lnkCtrlWrite d.val v) rfl hs (c.lnkCtrlWrite_restarts h he)
        (c.smbStatusWord_setLnk _ _ (by decide))
    · intro n least total fits
      have hfits : fits ↔ c.creditsFit (c.selLnk d.val) vl.val (fld v 0 16) := by
        rw [Chip.creditsFit, ← vlMin_eq vl]
        exact Iff.rfl
      refine ⟨fun h => ?_, fun h => ?_⟩
      · exact exec_lnkWrite (·.vlWrite d.val vl.val v) rfl hs (c.vlWrite_fits _ _ (hfits.1 h))
          (c.smbStatusWord_setLnk _ _ (by have := vl.isLt; omega))
      · exact exec_lnkWrite (·.vlWrite d.val vl.val v) rfl hs (c.vlWrite_rejects _ _ (mt hfits.2 h))
          (c.smbStatusWord_setLnk _ _ (by decide))
  · intro c l
    refine ⟨exec_pauseFrameRx, fun en quanta h => ?_, fun i h => exec_macFrame_idle h, exec_fecUncorrBetweenFrames,
      exec_fecUncorrBetweenFrames_idle, fun f age => ⟨fun hh hc hs => ?_, fun hn hp => ?_, fun hn hp => ?_⟩⟩
    · refine yields_after (exec_gated (·.ethRx p.val) (·.pfcRx p.val en quanta) rfl h rfl) ?_
      refine ⟨Chip.only_settleAlerts (c.pfcRx_only ..), fun q hq => ?_, ?_, fun k hk => ?_⟩
      · exact c.link_setLink_other _ hq
      · rw [Chip.settleAlerts_link, Chip.pfcRx, Chip.link_setLink]
      · rw [Chip.settleAlerts_link]
        exact c.pfcUntil_pfcRx p.val en quanta hk
    · exact yields_ptpMessageRx age hh hc hs
    · exact exec_ptpMessageRx_eth age hn hp
    · rw [exec_ptpMessageRx, Chip.ptpRx_eth age hn, if_neg (by simp [hp]), State.after_self]

end Sys2Proof.Machine
end

section
/-! A teardown (R308) whose livery holds, for a lost target, a frame that names a cell of a buffer die that the part does not
have: a state that no command brings about, and that the statement on teardowns does not leave out. -/

namespace Sys2Proof.Machine

/-- A part that is READY. Livery 0, which RTE_TD_SEL selects, has lost its target on port 0 and holds a frame for it, whose
cell clears ACTIVE of the livery's RTE_TD_STAT. -/
def tearingPart : Chip :=
  let key := regKey pgRte 0x160C 0
  let c := (Chip.reset.setField pgPwr 0x1078 0 3 phReady).withWildBank key 1
  c.setLost 0 { LostSt.none with ports := [0], held := [(0, wildFrame key 1)] }

theorem tearingPart_selects : tearingPart.serves pgRte = true ∧ tearingPart.selTd = 0 ∧
    tearingPart.tornDown 0 = false := by
  decide +kernel

/-- The held frame is discarded, and letting go of its cell undoes ACTIVE. -/
theorem tearingPart_tearStart : (tearingPart.tearStart 0 false).tornDown 0 = false := by decide +kernel

/-- What the statement says of ACTIVE as TEARDOWN meets a livery 0 that is not torn down. -/
theorem tearStart_active {c : Chip} (h : Obligations.LiveriesAreTornDownAndReturned) (hs : c.serves pgRte = true)
    (hsel : c.selTd = 0) (hnot : c.tornDown 0 = false) : (c.tearStart 0 false).tornDown 0 = true := by
  obtain ⟨hstart, _⟩ := h
  obtain ⟨_, hmarks⟩ := hstart ⟨c, []⟩ .teardown 0 false (.inl ⟨rfl, hs, hsel.symm, rfl⟩)
  obtain ⟨t, ht, _, hactive, _⟩ := hmarks hnot
  rw [run_eq (f := fun c => if c.serves pgRte then c.tearStart c.selTd false else c) ht] at hactive
  simpa [hs, hsel, Chip.tornDown, Chip.tdStat] using hactive

/-- Refutes O47, in its clause that a teardown marks its livery as torn down: the frames that the livery holds for a lost
target are discarded after RTE_TD_STAT is written, they release their cells whatever their numbers, and to wake the bank of
`wildCell` the release clears ACTIVE. The counterexample is `tearingPart`; no pool has such a cell (`wildBank_flag`), so no
command gives one to a frame. -/
theorem not_liveriesAreTornDownAndReturned : ¬ Obligations.LiveriesAreTornDownAndReturned := fun h => by
  obtain ⟨hs, hsel, hnot⟩ := tearingPart_selects
  have hactive := tearStart_active h hs hsel hnot
  rw [tearingPart_tearStart] at hactive
  exact absurd hactive (by decide)

end Sys2Proof.Machine
end

section
/-! Shapers and time gates (R322, R323, R325, R328): the refill of a die's shapers, the shaper that the registers select,
the cycle starts of a gate list, and what the commands answer. -/

namespace Sys2Proof.Machine

/-! Tables -/

section
variable {β : Type} (d : β)

theorem Tbl.get_unlisted {m : Tbl β} {k : Nat} (h : k ∉ m.map (·.1)) : Tbl.get d m k = d :=
  (Tbl.get_mem d).resolve_right fun hm => h (List.mem_map.2 ⟨_, hm, rfl⟩)

/-- A table after writes of a function's values at some keys, under any default. -/
theorem Tbl.get_foldl_set_default [DecidableEq β] (u : Nat → β) (xs : List Nat) (t : Tbl β) (k : Nat) :
    Tbl.get d (xs.foldl (fun t i => Tbl.set d t i (u i)) t) k = if k ∈ xs then u k else Tbl.get d t k := by
  induction xs generalizing t with
  | nil => simp
  | cons x xs ih =>
    rw [List.foldl_cons, ih, Tbl.get_set]
    by_cases hx : k = x
    · simp [hx]
    · simp [hx]
end

/-! The refill of a shaper -/

section
variable {x : Shaper} {at_ : Nat}

theorem Shaper.refill_takes {r b : Nat} (hp : x.pending = some (r, b)) (ha : x.applied < at_) :
    x.refill at_ = ⟨min (x.tokens + r) ((b * 8 : Nat) : Int), r, b, none, x.applied⟩ := by
  simp [Shaper.refill, hp, ha]

theorem Shaper.refill_keeps (h : x.pending = none ∨ at_ ≤ x.applied) :
    x.refill at_ = { x with tokens := min (x.tokens + x.rate) ((x.burst * 8 : Nat) : Int) } := by
  unfold Shaper.refill
  split
  next r b hp =>
    have ha : ¬ x.applied < at_ := Nat.not_lt.2 (h.resolve_left (by simp [hp]))
    simp [ha]
  next => rfl

theorem Shaper.refill_tokens : (x.refill at_).tokens =
    min (x.tokens + (x.refill at_).rate) (((x.refill at_).burst * 8 : Nat) : Int) := by
  by_cases h : x.pending = none ∨ at_ ≤ x.applied
  · rw [Shaper.refill_keeps h]
  · obtain ⟨hp, ha⟩ := not_or.1 h
    obtain ⟨⟨r, b⟩, hp⟩ := Option.ne_none_iff_exists'.1 hp
    rw [Shaper.refill_takes hp (Nat.lt_of_not_le ha)]

/-- The refill of one shaper, as R322 and R323 have it. -/
theorem Shaper.refill_spec (x : Shaper) (at_ : Nat) : let y := x.refill at_
    (∀ r b, x.pending = some (r, b) → x.applied < at_ → y.rate = r ∧ y.burst = b ∧ y.pending = none) ∧
      (x.pending = none ∨ at_ ≤ x.applied → y.rate = x.rate ∧ y.burst = x.burst ∧ y.pending = x.pending) ∧
      y.tokens = min (x.tokens + y.rate) ((y.burst * 8 : Nat) : Int) := by
  refine ⟨fun r b hp ha => ?_, fun h => ?_, Shaper.refill_tokens⟩
  · rw [Shaper.refill_takes hp ha]
    exact ⟨rfl, rfl, rfl⟩
  · rw [Shaper.refill_keeps h]
    exact ⟨rfl, rfl, rfl⟩

/-- A shaper at reset has no rate, so its refill leaves it as it is. -/
theorem Shaper.refill_reset : Shaper.reset.refill at_ = Shaper.reset := by
  rw [Shaper.refill_keeps (.inl rfl)]
  rfl
end

/-- The shapers after the refill of a die: each that is listed for it refills (R322). -/
def Chip.shapersRefilled (c : Chip) (d : Nat) : Tbl Shaper :=
  ((c.traf.shapers.map (·.1)).filter (fun k => decide (k / 4096 = d))).foldl
    (fun m k => Tbl.set Shaper.reset m k ((Tbl.get Shaper.reset c.traf.shapers k).refill c.slotStart)) c.traf.shapers

section
variable {c : Chip} {d : Nat}

/-- Every shaper of the die refills: one that is not listed stands at reset, where a refill changes nothing. -/
theorem Chip.shapersRefilled_get {e n : Nat} (hn : n < 4096) : Tbl.get Shaper.reset (c.shapersRefilled d) (e * 4096 + n) =
    if e = d then (c.shaper e n).refill c.slotStart else c.shaper e n := by
  have hdie : (e * 4096 + n) / 4096 = e := by omega
  rw [Chip.shapersRefilled, Tbl.get_foldl_set_default Shaper.reset
    (fun k => (Tbl.get Shaper.reset c.traf.shapers k).refill c.slotStart), ← Chip.shaper]
  simp only [List.mem_filter, hdie, decide_eq_true_iff]
  by_cases hl : e * 4096 + n ∈ c.traf.shapers.map (·.1)
  · simp only [hl, true_and]
  · have hreset : c.shaper e n = Shaper.reset := Tbl.get_unlisted _ hl
    simp [hl, hreset, Shaper.refill_reset]

theorem Chip.refillDie_done (h : Tbl.get 0 c.traf.refilled d = c.time.now / 65536 + 1) : c.refillDie d = c := if_pos h

section
variable (h : Tbl.get 0 c.traf.refilled d ≠ c.time.now / 65536 + 1)
include h

theorem Chip.refillDie_due : c.refillDie d = { c with traf := { c.traf with
    refilled := Tbl.set 0 c.traf.refilled d (c.time.now / 65536 + 1), shapers := c.shapersRefilled d } } := if_neg h

theorem Chip.shaper_refillDie {e n : Nat} (hn : n < 4096) : (c.refillDie d).shaper e n =
    if e = d then (c.shaper e n).refill c.slotStart else c.shaper e n := by
  rw [Chip.refillDie_due h]
  exact Chip.shapersRefilled_get hn

theorem Chip.refillDie_refilled : Tbl.get 0 (c.refillDie d).traf.refilled d = c.time.now / 65536 + 1 := by
  rw [Chip.refillDie_due h]
  exact Tbl.get_set_same ..

theorem Chip.refillDie_only : Chip.only [.traf] c (c.refillDie d) := by
  simp [Chip.refillDie_due h, Chip.only]
end

/-- The shaper that TMG_SHP_SEL and TMG_Q_SEL select, by the kind: 3 is reserved. -/
theorem Chip.selShaper_eq : c.selShaper d =
    let port := c.field (pgTmg d) 0x1000 0 7
    let kind := c.field (pgTmg d) 0x1010 0 2
    if kind = 3 then none
    else some (if kind = 0 then port else if kind = 1 then 128 + port * 16 + c.field (pgTmg d) 0x1000 8 4
      else 2176 + c.field (pgTmg d) 0x1010 2 9) := by
  have hport : c.field (pgTmg d) 0x1000 0 7 < 128 := fld_lt ..
  have hkind : c.field (pgTmg d) 0x1010 0 2 < 4 := fld_lt ..
  simp only [Chip.selShaper]
  generalize c.field (pgTmg d) 0x1010 0 2 = kind at hkind ⊢
  interval_cases kind
  · rfl
  · simp [tcShaper, Nat.mod_eq_of_lt hport]
  · rfl
  · rfl

theorem Chip.shaperApply_reserved (h : c.field (pgTmg d) 0x1010 0 2 = 3) : c.shaperApply d = c := by
  simp only [Chip.shaperApply, Chip.selShaper_eq, if_pos h]

theorem Chip.shaperApply_pends (h : c.field (pgTmg d) 0x1010 0 2 ≠ 3) : c.shaperApply d =
    let port := c.field (pgTmg d) 0x1000 0 7
    let kind := c.field (pgTmg d) 0x1010 0 2
    let n := if kind = 0 then port else if kind = 1 then 128 + port * 16 + c.field (pgTmg d) 0x1000 8 4
      else 2176 + c.field (pgTmg d) 0x1010 2 9
    c.setShaper d n { c.shaper d n with
      pending := some (c.field (pgTmg d) 0x1014 0 24 n, c.field (pgTmg d) 0x1018 0 24 n), applied := c.time.now } := by
  simp only [Chip.shaperApply, Chip.selShaper_eq, if_neg h]

/-! Gates -/

variable {p : Nat}

theorem Chip.gclCycle_pos (list : Bool) : 0 < c.gclCycle p list := by
  unfold Chip.gclCycle nsUnits
  omega

/-- A cycle start is a whole number of cycles from BASE, and the first at or after a time. -/
theorem Chip.cycleStart_first (list : Bool) (t : Int) :
    (c.cycleStart p list t - c.gclBase p list) % (c.gclCycle p list : Int) = 0 ∧
      t ≤ c.cycleStart p list t ∧ c.cycleStart p list t < t + c.gclCycle p list := by
  have hpos : 0 < (c.gclCycle p list : Int) := Int.natCast_pos.2 (c.gclCycle_pos list)
  simp only [Chip.cycleStart]
  generalize (c.gclCycle p list : Int) = cy at hpos ⊢
  generalize c.gclBase p list = b
  have hdiv := Int.mul_ediv_add_emod (t - b + cy - 1) cy
  have hlow := Int.emod_nonneg (t - b + cy - 1) hpos.ne'
  have hhigh := Int.emod_lt_of_pos (t - b + cy - 1) hpos
  rw [Int.mul_comm] at hdiv
  refine ⟨?_, by omega, by omega⟩
  rw [add_sub_cancel_left]
  exact Int.mul_emod_left ..

/-- The gates of a list as a port shows them: all open where it has none. -/
def Chip.gatesShown (c : Chip) (p : Nat) (list : Bool) : BitVec 16 :=
  if c.gateEn p then c.gatesAt p list c.time.now else 0xFFFF

theorem Chip.gateUpdate_eq : c.gateUpdate p = c.setGate p { c.gate p with gates := c.gatesShown p (c.gate p).oper } := rfl

@[simp] theorem Chip.gate_setGate (g : GateSt) : (c.setGate p g).gate p = g := Tbl.get_set_same ..

theorem Chip.gate_setGate_other {q : Nat} (g : GateSt) (h : q ≠ p) : (c.setGate p g).gate q = c.gate q :=
  Tbl.get_set_other _ _ _ _ h

theorem Chip.setGate_only (g : GateSt) : Chip.only [.traf] c (c.setGate p g) := by simp [Chip.only, Chip.setGate]

@[simp] theorem Chip.gatesShown_setGate (q : Nat) (g : GateSt) (list : Bool) :
    (c.setGate q g).gatesShown p list = c.gatesShown p list := rfl

theorem Chip.gateEffect_waits (h : (c.gate p).pending = false ∨ (c.time.now : Int) < (c.gate p).at_) :
    c.gateEffect p = c := by
  refine if_neg fun hdue => ?_
  obtain hp | ht := h
  · exact absurd hdue.1 (by simp [hp])
  · exact absurd ht (not_lt.2 hdue.2)

section
variable (hp : (c.gate p).pending = true) (ht : (c.gate p).at_ ≤ (c.time.now : Int))
include hp ht

theorem Chip.gateEffect_due : c.gateEffect p =
    (c.setGate p { c.gate p with oper := !(c.gate p).oper, pending := false }).gateUpdate p := if_pos ⟨hp, ht⟩

theorem Chip.gate_gateEffect : (c.gateEffect p).gate p =
    ⟨!(c.gate p).oper, false, (c.gate p).at_, c.gatesShown p (!(c.gate p).oper)⟩ := by
  rw [Chip.gateEffect_due hp ht, Chip.gateUpdate_eq]
  simp

theorem Chip.gate_gateEffect_other {q : Nat} (h : q ≠ p) : (c.gateEffect p).gate q = c.gate q := by
  rw [Chip.gateEffect_due hp ht, Chip.gateUpdate_eq, Chip.gate_setGate_other _ h, Chip.gate_setGate_other _ h]

theorem Chip.gateEffect_only : Chip.only [.traf] c (c.gateEffect p) := by
  rw [Chip.gateEffect_due hp ht, Chip.gateUpdate_eq]
  exact Chip.only_trans (Chip.setGate_only _) (Chip.setGate_only _)
end
end

/-- Settles O42: a refill by its slot and by the shaper's pending set, a switch by the cycle starts of the two lists, and
its effect by the time. -/
theorem shapersAndGatesFollowTheTime : Obligations.ShapersAndGatesFollowTheTime := by
  unfold Obligations.ShapersAndGatesFollowTheTime
  refine ⟨fun s d hup => ?_, fun s d hs => ?_, fun s p hup => ?_⟩
  · refine ⟨fun h => ?_, fun h => ?_⟩
    · exact exec_gated_self Chip.mainUp (·.refillDie d.val) rfl hup (Chip.refillDie_done h)
    · refine yields_after (exec_gated Chip.mainUp (·.refillDie d.val) rfl hup rfl) ?_
      refine ⟨fun n hn => ?_, fun e n he hn => ?_, Chip.only_settleAlerts (Chip.refillDie_only h),
        Chip.refillDie_refilled h⟩
      · have hy : (Chip.settleAlerts s.chip (s.chip.refillDie d.val)).shaper d.val n =
            (s.chip.shaper d.val n).refill s.chip.slotStart := (Chip.shaper_refillDie h hn).trans (if_pos rfl)
        rw [hy]
        exact Shaper.refill_spec _ _
      · exact (Chip.shaper_refillDie h hn).trans (if_neg he)
  · intro c pg port kind n
    refine ⟨fun h => ?_, fun h => ?_, ?_⟩
    · exact exec_gated_self (·.serves pg) (·.shaperApply d.val) rfl hs (Chip.shaperApply_reserved h)
    · exact exec_gated_put (·.serves pg) (·.shaperApply d.val) rfl hs (Chip.shaperApply_pends h) rfl
    · intro p g starts
      refine ⟨if c.gateEn p then c.cycleStart p g.oper (c.time.now + 1) else c.time.now, _, fun he => ?_,
        fun he => if_neg (by simp [he]), Chip.cycleStart_first _ _,
        exec_gated_put (·.serves pg) (·.gateSwitch d.val) rfl hs rfl rfl⟩
      rw [if_pos he]
      exact Chip.cycleStart_first _ _
  · intro c g shows
    refine ⟨fun h => ?_, fun hp ht => ?_, ?_⟩
    · exact exec_gated_self Chip.mainUp (·.gateEffect p.val) rfl hup (Chip.gateEffect_waits h)
    · refine yields_after (exec_gated Chip.mainUp (·.gateEffect p.val) rfl hup rfl) ?_
      exact ⟨Chip.gate_gateEffect hp ht, fun q hq => Chip.gate_gateEffect_other hp ht hq,
        Chip.only_settleAlerts (Chip.gateEffect_only hp ht)⟩
    · exact exec_gated_put Chip.mainUp (·.gateUpdate p.val) rfl hup rfl rfl

end Sys2Proof.Machine
end

section
/-! Sampling of the traffic-class queues, their watermark flag, and the flow table (R317, R318, R330 to R332). -/

namespace Sys2Proof.Machine

theorem pgTmg_bounds {d : Nat} (hd : d < 8) : pgSec < pgTmg d ∧ pgTmg d < 0x400 := by
  unfold pgSec pgTmg; omega

/-! Sampling -/

/-- What the end of an interval makes of a queue: its delay starts anew, and with EN = 1 it is sampled (R330). -/
def QueueSt.sampled (x : QueueSt) (en : Bool) (depth : Nat) : QueueSt :=
  { x with sampDepth := if en then depth else x.sampDepth, sampDelay := if en then x.delayMax else x.sampDelay, delayMax := 0 }

def Chip.sampleQueue (en : Bool) (p tc : Nat) (c : Chip) : Chip :=
  c.setQueueSt p tc ((c.queueSt p tc).sampled en (c.depth p tc))

def Chip.samplePort (en : Bool) (p : Nat) (c : Chip) : Chip :=
  forAll (List.range 16) c fun tc c => c.sampleQueue en p tc

/-- Every queue of a port die. -/
def Chip.sampleQueues (c : Chip) (en : Bool) (d : Nat) : Chip :=
  forAll (List.range 128) c fun i c => c.samplePort en (d * 128 + i)

/-- Length of the sample interval of a port die in fabric-time units. -/
def Chip.sampleSpan (c : Chip) (d : Nat) : Nat := 65536 * 2 ^ min 20 (c.field (pgTmg d) 0x1080 4 5)

section
variable {c : Chip} {d : Nat}

theorem Chip.queueSt_setQueueSt {p tc : Nat} (x : QueueSt) : (c.setQueueSt p tc x).queueSt p tc = x := Tbl.get_set_same ..

theorem Chip.queueSt_setQueueSt_other {p tc p' tc' : Nat} (x : QueueSt) (h : p' * 16 + tc' ≠ p * 16 + tc) :
    (c.setQueueSt p tc x).queueSt p' tc' = c.queueSt p' tc' := Tbl.get_set_other _ _ _ _ h

theorem Chip.queueSt_congr {k : Chip} (h : k.traf = c.traf) (p tc : Nat) : k.queueSt p tc = c.queueSt p tc := by
  rw [Chip.queueSt, h, Chip.queueSt]

/-- A queue has the state and the depth that it had. -/
def Chip.SameQueue (p tc : Nat) (a b : Chip) : Prop := b.queueSt p tc = a.queueSt p tc ∧ b.depth p tc = a.depth p tc

theorem Chip.SameQueue.trans {p tc : Nat} (a b k : Chip) (h : Chip.SameQueue p tc a b) (g : Chip.SameQueue p tc b k) :
    Chip.SameQueue p tc a k := ⟨g.1.trans h.1, g.2.trans h.2⟩

theorem Chip.sampleQueue_same {en : Bool} {p tc p' tc' : Nat} (h : p' * 16 + tc' ≠ p * 16 + tc) (c : Chip) :
    Chip.SameQueue p' tc' c (c.sampleQueue en p tc) := ⟨Chip.queueSt_setQueueSt_other _ h, rfl⟩

theorem Chip.samplePort_same {en : Bool} {p p' tc' : Nat} (h : p' ≠ p) (htc : tc' < 16) (c : Chip) :
    Chip.SameQueue p' tc' c (c.samplePort en p) :=
  forAll_keeps (fun _ => ⟨rfl, rfl⟩) Chip.SameQueue.trans
    (fun tc hmem => Chip.sampleQueue_same (by have := List.mem_range.1 hmem; omega)) c

theorem Chip.queueSt_samplePort {en : Bool} {p tc : Nat} (htc : tc < 16) :
    (c.samplePort en p).queueSt p tc = (c.queueSt p tc).sampled en (c.depth p tc) := by
  obtain ⟨b, ⟨hst, hdepth⟩, hafter, _⟩ := forAll_once (R := Chip.SameQueue p tc) (fun _ => ⟨rfl, rfl⟩) Chip.SameQueue.trans
    (f := fun tc c => c.sampleQueue en p tc) (a := tc) (fun x _ hx => Chip.sampleQueue_same (by omega)) List.nodup_range
    (List.mem_range.2 htc) c
  refine hafter.trans ?_
  rw [Chip.sampleQueue, Chip.queueSt_setQueueSt, hst, hdepth]

theorem Chip.queueSt_sampleQueues {en : Bool} {n tc : Nat} (hn : n < 128) (htc : tc < 16) :
    (c.sampleQueues en d).queueSt (d * 128 + n) tc =
      (c.queueSt (d * 128 + n) tc).sampled en (c.depth (d * 128 + n) tc) := by
  obtain ⟨b, ⟨hst, hdepth⟩, hafter, _⟩ := forAll_once (R := Chip.SameQueue (d * 128 + n) tc) (fun _ => ⟨rfl, rfl⟩)
    Chip.SameQueue.trans (f := fun i c => c.samplePort en (d * 128 + i)) (a := n)
    (fun x _ hx => Chip.samplePort_same (by omega) htc) List.nodup_range (List.mem_range.2 hn) c
  refine hafter.trans ?_
  rw [Chip.queueSt_samplePort htc, hst, hdepth]

theorem Chip.sampleQueues_only (en : Bool) : Chip.only [.traf] c (c.sampleQueues en d) :=
  Chip.only_forAll _ _ _ fun _ _ => Chip.only_forAll _ _ _ fun _ _ => by
    simp [Chip.only, Chip.sampleQueue, Chip.setQueueSt]

theorem Chip.sampleQueues_regs (en : Bool) : (c.sampleQueues en d).regs = c.regs :=
  keep_forAll (·.regs) _ _ _ fun _ _ => keep_forAll (·.regs) _ _ _ fun _ _ => rfl

theorem Chip.sampleQueues_time (en : Bool) : (c.sampleQueues en d).time = c.time :=
  keep_forAll (·.time) _ _ _ fun _ _ => keep_forAll (·.time) _ _ _ fun _ _ => rfl

theorem Chip.sampleClose_waits (h : ¬ c.time.now / 65536 * 65536 % c.sampleSpan d = 0) : c.sampleClose d = c := if_neg h

section
variable (h : c.time.now / 65536 * 65536 % c.sampleSpan d = 0)
include h

theorem Chip.sampleClose_disabled (he : c.flag (pgTmg d) 0x1080 0 = false) : c.sampleClose d = c.sampleQueues false d := by
  rw [← he]
  exact (if_pos h).trans (if_neg (by simp [he]))

theorem Chip.sampleClose_enabled (he : c.flag (pgTmg d) 0x1080 0 = true) : c.sampleClose d =
    (c.sampleQueues true d).setReg (pgTmg d) 0x1090 (BitVec.ofNat 32 (c.time.now / c.sampleSpan d)) := by
  rw [← c.sampleQueues_time (d := d) true, ← he]
  exact (if_pos h).trans (if_pos he)
end
end

section
variable {s : State} {d : PDie} (hup : s.chip.mainUp = true)
  (h : s.chip.time.now / 65536 * 65536 % s.chip.sampleSpan d.val = 0)
include hup h

theorem yields_sampleIntervalClose_disabled (he : s.chip.flag (pgTmg d.val) 0x1080 0 = false) :
    Yields (.sampleIntervalClose d) s fun t =>
      (∀ n < 128, ∀ tc < 16,
        t.queueSt (d.val * 128 + n) tc = { s.chip.queueSt (d.val * 128 + n) tc with delayMax := 0 }) ∧ Chip.only [.traf] s.chip t := by
  refine yields_after (exec_gated Chip.mainUp (·.sampleClose d.val) rfl hup (Chip.sampleClose_disabled h he)) ?_
  refine ⟨fun n hn tc htc => ?_, Chip.only_settleAlerts (Chip.sampleQueues_only _)⟩
  rw [Chip.queueSt_congr (Chip.settleAlerts_traf ..), Chip.queueSt_sampleQueues hn htc]
  rfl

theorem yields_sampleIntervalClose_enabled (he : s.chip.flag (pgTmg d.val) 0x1080 0 = true) :
    Yields (.sampleIntervalClose d) s fun t =>
      (∀ n < 128, ∀ tc < 16,
        t.queueSt (d.val * 128 + n) tc = { s.chip.queueSt (d.val * 128 + n) tc with
          sampDepth := s.chip.depth (d.val * 128 + n) tc
          sampDelay := (s.chip.queueSt (d.val * 128 + n) tc).delayMax
          delayMax := 0 }) ∧
      t.reg (pgTmg d.val) 0x1090 = BitVec.ofNat 32 (s.chip.time.now / s.chip.sampleSpan d.val) ∧
      Chip.only [.regs, .traf] s.chip t ∧ s.chip.regsBut t [regKey (pgTmg d.val) 0x1090 0] := by
  refine yields_after (exec_gated Chip.mainUp (·.sampleClose d.val) rfl hup (Chip.sampleClose_enabled h he)) ?_
  rw [Chip.settleAlerts_reg, Chip.reg_setReg]
  refine ⟨fun n hn tc htc => ?_, rfl, Chip.only_settleAlerts ?_, fun page off inst hk => ?_⟩
  · rw [Chip.queueSt_congr (Chip.settleAlerts_traf ..), Chip.queueSt_congr (Chip.setReg_traf ..), Chip.queueSt_sampleQueues hn htc]
    rfl
  · exact Chip.only_trans (Chip.only_mono (by simp) (Chip.sampleQueues_only true))
      (Chip.only_mono (by simp) (Chip.setReg_only ..))
  · rw [Chip.settleAlerts_reg, Chip.reg_setReg_other _ _ (mt List.mem_singleton.2 hk), Chip.reg, Chip.reg,
      Chip.sampleQueues_regs]
end

/-! The queue that TMG_Q_SEL selects -/

def Chip.selQPort (c : Chip) (d : Nat) : Nat := d * 128 + c.field (pgTmg d) 0x1000 0 7
def Chip.selQTc (c : Chip) (d : Nat) : Nat := c.field (pgTmg d) 0x1000 8 4
def Chip.selQInst (c : Chip) (d : Nat) : Nat := c.field (pgTmg d) 0x1000 0 7 * 16 + c.field (pgTmg d) 0x1000 8 4
def Chip.selQSt (c : Chip) (d : Nat) : QueueSt := c.queueSt (c.selQPort d) (c.selQTc d)
def Chip.selQDepth (c : Chip) (d : Nat) : Nat := c.depth (c.selQPort d) (c.selQTc d)

section
variable (c : Chip) (d : Nat)

theorem Chip.queueInst_selQ : queueInst (c.selQPort d) (c.selQTc d) = c.selQInst d := by
  have hport : c.field (pgTmg d) 0x1000 0 7 < 128 := fld_lt ..
  unfold queueInst Chip.selQPort Chip.selQTc Chip.selQInst
  omega

theorem Chip.sampSeqRead_eq : c.sampSeqRead d =
    ((c.setReg (pgTmg d) 0x1088 (BitVec.ofNat 32 ((c.selQSt d).sampDepth % 2 ^ 24)) (c.selQInst d)).setReg (pgTmg d)
      0x108C (BitVec.ofNat 32 (min 0xFFFFFFFF (c.selQSt d).sampDelay)) (c.selQInst d)).answer (c.reg (pgTmg d) 0x1090) := by
  rw [← Chip.queueInst_selQ]
  rfl

/-! The watermark flag (R332) -/

/-- The word of TMG_WM_STAT with FLAG set and the present depth of the selected queue. -/
def Chip.wmKeep : W32 := BitVec.ofNat 32 (1 + c.selQDepth d % 2 ^ 24 * 256)

/-- FLAG of the selected queue. -/
def Chip.wmFlag : Bool := c.flag (pgTmg d) 0x10C4 0 (c.selQInst d)

/-- A crossing of the selected queue: FLAG stands with the depth, the crossing counts, and the queue is disarmed. -/
def Chip.wmHit : Chip :=
  ((c.setReg (pgTmg d) 0x10C4 (c.wmKeep d) (c.selQInst d)).bump (pgTmg d) 0x10C8 (c.selQInst d)).setQueueSt (c.selQPort d)
    (c.selQTc d) { c.selQSt d with armed := false }

/-- What a write to FLAG of the selected queue does, by its branches. -/
theorem Chip.wmClear_eq (v : W32) (cross : Bool) : c.wmClear d v cross =
    if !v.getLsbD 0 then c
    else if cross && (c.selQSt d).armed then
      if c.wmFlag d then c.wmHit d
      else (c.wmHit d).raise (evP (pgTmg d) 0x0607 d (c.selQPort d + c.selQTc d * 65536))
    else if c.wmFlag d && decide (c.field (pgTmg d) 0x10C0 0 16 (c.selQInst d) * 64 ≤ c.selQDepth d) then
      c.setReg (pgTmg d) 0x10C4 (c.wmKeep d) (c.selQInst d)
    else c.setReg (pgTmg d) 0x10C4 0 (c.selQInst d) := by
  unfold Chip.wmHit Chip.wmFlag Chip.wmKeep
  rw [← Chip.queueInst_selQ]
  rfl
end

section
variable {c : Chip} {d : Nat} {v : W32} {cross : Bool}

theorem Chip.wmClear_unasked (h : v.getLsbD 0 = false) : c.wmClear d v cross = c := by
  rw [Chip.wmClear_eq, h]
  rfl

section
variable (hv : v.getLsbD 0 = true)
include hv

section
variable (hx : cross = true) (ha : (c.selQSt d).armed = true)
include hx ha

theorem Chip.wmClear_counts (hf : c.wmFlag d = true) : c.wmClear d v cross = c.wmHit d := by
  simp [Chip.wmClear_eq, hv, hx, ha, hf]

theorem Chip.wmClear_raises (hf : c.wmFlag d = false) : c.wmClear d v cross =
    (c.wmHit d).raise (evP (pgTmg d) 0x0607 d (c.selQPort d + c.selQTc d * 65536)) := by
  simp [Chip.wmClear_eq, hv, hx, ha, hf]
end

section
variable (h : cross = false ∨ (c.selQSt d).armed = false)
include h

theorem Chip.wmClear_uncrossed : c.wmClear d v cross =
    if c.wmFlag d && decide (c.field (pgTmg d) 0x10C0 0 16 (c.selQInst d) * 64 ≤ c.selQDepth d) then
      c.setReg (pgTmg d) 0x10C4 (c.wmKeep d) (c.selQInst d)
    else c.setReg (pgTmg d) 0x10C4 0 (c.selQInst d) := by
  have hno : (cross && (c.selQSt d).armed) = false := Bool.and_eq_false_iff.2 h
  simp [Chip.wmClear_eq, hv, hno]

theorem Chip.wmClear_stays (hf : c.wmFlag d = true)
    (hd : c.field (pgTmg d) 0x10C0 0 16 (c.selQInst d) * 64 ≤ c.selQDepth d) :
    c.wmClear d v cross = c.setReg (pgTmg d) 0x10C4 (c.wmKeep d) (c.selQInst d) := by
  rw [Chip.wmClear_uncrossed hv h, if_pos (by simp [hf, hd])]

theorem Chip.wmClear_clears
    (hf : c.wmFlag d = false ∨ ¬ c.field (pgTmg d) 0x10C0 0 16 (c.selQInst d) * 64 ≤ c.selQDepth d) :
    c.wmClear d v cross = c.setReg (pgTmg d) 0x10C4 0 (c.selQInst d) := by
  rw [Chip.wmClear_uncrossed hv h, if_neg]
  rw [Bool.and_eq_true, decide_eq_true_iff, not_and_or, Bool.not_eq_true]
  exact hf
end
end
end

/-! The flow table (R317, R318) -/

/-- A field within one that was zeroed. -/
theorem fld_putFld_zero {n : Nat} (x : BitVec n) {lo w lo' w' : Nat} (hl : lo ≤ lo') (hw : lo' + w' ≤ lo + w)
    (hn : lo + w ≤ n) : fld (putFld x lo w 0) lo' w' = 0 := by
  refine Nat.eq_of_testBit_eq fun i => ?_
  rw [fld_testBit, putFld_getLsbD, Nat.zero_testBit, Nat.zero_testBit]
  by_cases hi : i < w'
  · rw [if_pos (by omega), Bool.and_false]
  · simp [hi]

theorem flowReserved_iff {e : BitVec 256} : flowReserved e = true ↔ fld e 50 14 ≠ 0 ∨ fld e 86 42 ≠ 0 ∨ fld e 208 48 ≠ 0 := by
  simp [flowReserved, or_assoc]

/-- An entry with other counts of frames and bytes (R318). -/
def flowCounted (e : BitVec 256) (frames bytes : Nat) : BitVec 256 := putFld (putFld e 128 32 frames) 160 48 bytes

theorem fld_flowCounted {e : BitVec 256} {frames bytes : Nat} (hf : frames < 2 ^ 32) (hb : bytes < 2 ^ 48) :
    fld (flowCounted e frames bytes) 0 128 = fld e 0 128 ∧ fld (flowCounted e frames bytes) 128 32 = frames ∧
      fld (flowCounted e frames bytes) 160 48 = bytes := by
  unfold flowCounted
  refine ⟨?_, ?_, ?_⟩
  · rw [fld_putFld_other _ _ _ _ _ _ (by decide), fld_putFld_other _ _ _ _ _ _ (by decide)]
  · rw [fld_putFld_other _ _ _ _ _ _ (by decide), fld_putFld_same _ _ _ _ (by decide), Nat.mod_eq_of_lt hf]
  · rw [fld_putFld_same _ _ _ _ (by decide), Nat.mod_eq_of_lt hb]

theorem fld_flowZeroed (e : BitVec 256) : fld (putFld e 128 80 0) 0 128 = fld e 0 128 ∧
    fld (putFld e 128 80 0) 128 32 = 0 ∧ fld (putFld e 128 80 0) 160 48 = 0 :=
  ⟨fld_putFld_other _ _ _ _ _ _ (by decide), fld_putFld_zero _ (by decide) (by decide) (by decide),
    fld_putFld_zero _ (by decide) (by decide) (by decide)⟩

/-- The key that READ and DELETE look up. -/
def Chip.flowKeyStaged (c : Chip) (d : Nat) : Nat := c.staged (pgTmg d) 0x1120 2 % 2 ^ 50

/-- The entry that WRITE stores. -/
def Chip.flowStaged (c : Chip) (d : Nat) : BitVec 256 := BitVec.ofNat 256 (c.staged (pgTmg d) 0x1120 8)

/-- The part with an entry in its way, FULL and the reserved-bits flag clear. -/
def Chip.flowStored (c : Chip) (d b w : Nat) (e : BitVec 256) : Chip :=
  ((c.setFlow b w e).setFlag (pgTmg d) 0x1104 1 false).setFlag (pgTmg d) 0x1104 3 false

section
variable {c : Chip} {d : Nat}

theorem Chip.flow_flowStored (b w : Nat) (e : BitVec 256) : (c.flowStored d b w e).flow b w = e := Tbl.get_set_same ..

theorem Chip.flow_flowStored_other {b w a j : Nat} (e : BitVec 256) (h : a * 4 + j ≠ b * 4 + w) :
    (c.flowStored d b w e).flow a j = c.flow a j := Tbl.get_set_other _ _ _ _ h

theorem Chip.flowStored_only (b w : Nat) (e : BitVec 256) : Chip.only [.regs, .traf] c (c.flowStored d b w e) := by
  simp [Chip.only, Chip.flowStored, Chip.setFlow]

section
variable {w : Nat} (h : c.flowWay (c.flowKeyStaged d) = some w)
include h

theorem Chip.flowRead_hits : c.flowRead d =
    (c.stage (pgTmg d) 0x1120 8 (c.flow (flowBucket (c.flowKeyStaged d)) w).toNat).setFlag (pgTmg d) 0x1104 2 false := by
  unfold Chip.flowKeyStaged at *
  simp only [Chip.flowRead, h, tmgFlowStat]

theorem Chip.flowDelete_hits : c.flowDelete d =
    (c.setFlow (flowBucket (c.flowKeyStaged d)) w 0).setFlag (pgTmg d) 0x1104 2 false := by
  unfold Chip.flowKeyStaged at *
  simp only [Chip.flowDelete, h, tmgFlowStat]
end

section
variable (h : c.flowWay (c.flowKeyStaged d) = none)
include h

theorem Chip.flowRead_misses : c.flowRead d = c.setFlag (pgTmg d) 0x1104 2 true := by
  unfold Chip.flowKeyStaged at h
  simp only [Chip.flowRead, h, tmgFlowStat]

theorem Chip.flowDelete_misses : c.flowDelete d = c.setFlag (pgTmg d) 0x1104 2 true := by
  unfold Chip.flowKeyStaged at h
  simp only [Chip.flowDelete, h, tmgFlowStat]
end

theorem Chip.flowWrite_reserved (h : flowReserved (c.flowStaged d) = true) :
    c.flowWrite d = (c.setFlag (pgTmg d) 0x1104 1 false).setFlag (pgTmg d) 0x1104 3 true := if_pos h

section
variable {w : Nat} (h : flowReserved (c.flowStaged d) = false)
include h

theorem Chip.flowWrite_keyed (hw : c.flowWay (fld (c.flowStaged d) 0 50) = some w) :
    c.flowWrite d = c.flowStored d (flowBucket (fld (c.flowStaged d) 0 50)) w (flowCounted (c.flowStaged d)
      (fld (c.flow (flowBucket (fld (c.flowStaged d) 0 50)) w) 128 32)
      (fld (c.flow (flowBucket (fld (c.flowStaged d) 0 50)) w) 160 48)) := by
  unfold Chip.flowStaged at *
  simp only [Chip.flowWrite, h, flowKeyOf, hw, tmgFlowStat, Chip.flowStored, flowCounted]
  rfl

section
variable (hn : c.flowWay (fld (c.flowStaged d) 0 50) = none)
include hn

theorem Chip.flowWrite_free (hw : w < 4)
    (hfree : flowValid (c.flow (flowBucket (fld (c.flowStaged d) 0 50)) w) = false)
    (hlow : ∀ j < w, flowValid (c.flow (flowBucket (fld (c.flowStaged d) 0 50)) j) = true) :
    c.flowWrite d = c.flowStored d (flowBucket (fld (c.flowStaged d) 0 50)) w (putFld (c.flowStaged d) 128 80 0) := by
  unfold Chip.flowStaged at *
  have hfind : [0, 1, 2, 3].find?
      (fun w => !flowValid (c.flow (flowBucket (fld (BitVec.ofNat 256 (c.staged (pgTmg d) 0x1120 8)) 0 50)) w)) = some w :=
    List.find?_range_eq_some (n := 4).2 ⟨by simp [hfree], List.mem_range.2 hw, fun j hj => by simp [hlow j hj]⟩
  simp only [Chip.flowWrite, h, flowKeyOf, hn, hfind, tmgFlowStat, Chip.flowStored]
  rfl

theorem Chip.flowWrite_full (hfull : ∀ j < 4, flowValid (c.flow (flowBucket (fld (c.flowStaged d) 0 50)) j) = true) :
    c.flowWrite d = (c.setFlag (pgTmg d) 0x1104 1 true).setFlag (pgTmg d) 0x1104 3 false := by
  unfold Chip.flowStaged at *
  have hfind : [0, 1, 2, 3].find?
      (fun w => !flowValid (c.flow (flowBucket (fld (BitVec.ofNat 256 (c.staged (pgTmg d) 0x1120 8)) 0 50)) w)) = none :=
    List.find?_eq_none.2 fun j hj => by simp [hfull j (List.mem_range.1 (show j ∈ List.range 4 from hj))]
  simp only [Chip.flowWrite, h, flowKeyOf, hn, hfind, tmgFlowStat]
  rfl
end
end
end

/-! The commands -/

section
variable {s : State} {d : PDie}

/-- A command that leaves the status flags alone answers the part it computes. -/
theorem exec_eq_put {i : Instr} {f : Chip → Chip} {k : Chip} (he : exec i s = s.run f) (hf : f s.chip = k)
    (hk : k.smbStatusWord = s.chip.smbStatusWord) : exec i s = .next (s.put k) := by
  rw [he, State.run_eq_put (by rw [hf, hk]), hf]

theorem Chip.smbStatusWord_answer (c : Chip) (v : W32) : (c.answer v).smbStatusWord = c.smbStatusWord := rfl

theorem Chip.smbStatusWord_setTmg (c : Chip) {off : Nat} (v : W32) (inst : Nat) (ho : off < 0x10000) :
    (c.setReg (pgTmg d.val) off v inst).smbStatusWord = c.smbStatusWord :=
  c.smbStatusWord_setReg v inst (pgTmg_bounds d.isLt).1 (pgTmg_bounds d.isLt).2 ho

/-- Two registers of the page are written. -/
theorem Chip.smbStatusWord_setTmg_twice (c : Chip) {off off' : Nat} (v v' : W32) (inst inst' : Nat) (ho : off < 0x10000)
    (ho' : off' < 0x10000) :
    ((c.setReg (pgTmg d.val) off v inst).setReg (pgTmg d.val) off' v' inst').smbStatusWord = c.smbStatusWord :=
  (Chip.smbStatusWord_setTmg _ _ _ ho').trans (c.smbStatusWord_setTmg _ _ ho)

section
variable (hs : s.chip.serves (pgTmg d.val) = true)
include hs

/-- A command of a TMG page that its die serves. -/
theorem exec_tmg {i : Instr} (f : Chip → Chip) {k : Chip}
    (he : exec i s = s.run fun c => if c.serves (pgTmg d.val) then f c else c) (hf : f s.chip = k)
    (hk : k.smbStatusWord = s.chip.smbStatusWord) : exec i s = .next (s.put k) :=
  exec_gated_put (·.serves (pgTmg d.val)) f he hs hf hk

theorem exec_qSampSeqRead : exec (.qSampSeqRead d) s = .next (s.put (s.chip.sampSeqRead d.val)) := by
  refine exec_eq_put (f := fun c => if c.serves (pgTmg d.val) then c.sampSeqRead d.val else c.answer 0) rfl (if_pos hs) ?_
  rw [Chip.sampSeqRead_eq, Chip.smbStatusWord_answer, Chip.smbStatusWord_setTmg_twice _ _ _ _ _ (by decide) (by decide)]

theorem yields_flowRead {w : Nat} (h : s.chip.flowWay (s.chip.flowKeyStaged d.val) = some w) :
    Yields (.flowRead d) s fun t =>
      t.staged (pgTmg d.val) 0x1120 8 = (s.chip.flow (flowBucket (s.chip.flowKeyStaged d.val)) w).toNat ∧
        t.flag (pgTmg d.val) 0x1104 2 = false ∧ Chip.only [.regs] s.chip t := by
  refine yields_after (exec_gated (·.serves (pgTmg d.val)) (·.flowRead d.val) rfl hs (Chip.flowRead_hits h)) ?_
  rw [Chip.settleAlerts_staged, Chip.settleAlerts_flag]
  refine ⟨?_, ?_, Chip.only_settleAlerts (Chip.only_trans (Chip.stage_only ..) (Chip.setReg_only ..))⟩
  · exact Chip.staged_stage _ _ _ _ _ _ _ (by decide) (by decide) (BitVec.isLt _)
  · exact Chip.flag_setFlag _ _ _ _ _ _ (by decide)

theorem yields_flowWrite {b w frames bytes : Nat} {e x : BitVec 256}
    (hf : s.chip.flowWrite d.val = s.chip.flowStored d.val b w x)
    (hx : fld x 0 128 = fld e 0 128 ∧ fld x 128 32 = frames ∧ fld x 160 48 = bytes) : Yields (.flowWrite d) s fun t =>
      fld (t.flow b w) 0 128 = fld e 0 128 ∧ fld (t.flow b w) 128 32 = frames ∧ fld (t.flow b w) 160 48 = bytes ∧
        t.flag (pgTmg d.val) 0x1104 1 = false ∧ t.flag (pgTmg d.val) 0x1104 3 = false ∧
        Chip.only [.regs, .traf] s.chip t ∧ ∀ a j, a * 4 + j ≠ b * 4 + w → t.flow a j = s.chip.flow a j := by
  refine yields_after (exec_gated (·.serves (pgTmg d.val)) (·.flowWrite d.val) rfl hs hf) ?_
  have hget : (Chip.settleAlerts s.chip (s.chip.flowStored d.val b w x)).flow b w = x :=
    Chip.flow_flowStored (d := d.val) ..
  rw [hget, Chip.settleAlerts_flag, Chip.settleAlerts_flag]
  obtain ⟨hkey, hframes, hbytes⟩ := hx
  refine ⟨hkey, hframes, hbytes, ?_, ?_, Chip.only_settleAlerts (Chip.flowStored_only ..), fun a j haj =>
    Chip.flow_flowStored_other (d := d.val) _ haj⟩
  · exact (Chip.flag_setFlag_other _ _ _ _ _ _ _ (by decide)).trans (Chip.flag_setFlag _ _ _ _ _ _ (by decide))
  · exact Chip.flag_setFlag _ _ _ _ _ _ (by decide)
end
end

/-- Settles O43: the end of an interval by EN, the write to FLAG by the crossing that comes with it, and the flow table by
the way of the key. -/
theorem queuesAreSampledAndFlowsStored : Obligations.QueuesAreSampledAndFlowsStored := by
  unfold Obligations.QueuesAreSampledAndFlowsStored
  refine ⟨fun s d hup => ⟨fun h => ?_, fun h he => ?_, fun h he => ?_⟩, fun s d hs => ?_, fun s d hs => ?_⟩
  · exact exec_gated_self Chip.mainUp (·.sampleClose d.val) rfl hup (Chip.sampleClose_waits h)
  · exact yields_sampleIntervalClose_disabled hup h he
  · exact yields_sampleIntervalClose_enabled hup h he
  · exact exec_eq_put (f := fun c => if c.serves (pgTmg d.val) then c.sampSeqRead d.val else c.answer 0) rfl
      (if_neg (by simp [hs])) (s.chip.smbStatusWord_answer 0)
  · intro c pg port tc p n x dep high keep hit
    refine ⟨?_, fun v cross => ⟨fun h => ?_, fun hv => ⟨fun hx ha hf => ?_, fun hx ha hf => ?_, fun h hf hd => ?_,
      fun h hf => ?_⟩⟩, ?_, ?_⟩
    · exact (exec_qSampSeqRead hs).trans (by rw [Chip.sampSeqRead_eq]; rfl)
    · exact exec_gated_self (·.serves pg) (·.wmClear d.val v cross) rfl hs (Chip.wmClear_unasked h)
    · exact exec_tmg hs (·.wmClear d.val v cross) rfl (Chip.wmClear_counts hv hx ha hf)
        (c.smbStatusWord_setTmg_twice _ _ _ _ (by decide) (by decide))
    · exact exec_gated (·.serves pg) (·.wmClear d.val v cross) rfl hs (Chip.wmClear_raises hv hx ha hf)
    · exact exec_tmg hs (·.wmClear d.val v cross) rfl (Chip.wmClear_stays hv h hf hd)
        (c.smbStatusWord_setTmg _ _ (by decide))
    · exact exec_tmg hs (·.wmClear d.val v cross) rfl (Chip.wmClear_clears hv h hf)
        (c.smbStatusWord_setTmg _ _ (by decide))
    · intro key
      refine ⟨fun w hw => ⟨yields_flowRead hs hw, ?_⟩, fun h i hi => ?_⟩
      · exact exec_tmg hs (·.flowDelete d.val) rfl (Chip.flowDelete_hits hw)
          (Chip.smbStatusWord_setTmg (c.setFlow (flowBucket key) w 0) _ _ (by decide))
      · obtain rfl | rfl := hi
        · exact exec_tmg hs (·.flowRead d.val) rfl (Chip.flowRead_misses h) (c.smbStatusWord_setTmg _ _ (by decide))
        · exact exec_tmg hs (·.flowDelete d.val) rfl (Chip.flowDelete_misses h) (c.smbStatusWord_setTmg _ _ (by decide))
    · intro e b reserved stored
      refine ⟨fun h => ?_, fun h => ?_⟩
      · exact exec_tmg hs (·.flowWrite d.val) rfl (Chip.flowWrite_reserved (flowReserved_iff.2 h))
          (c.smbStatusWord_setTmg_twice _ _ _ _ (by decide) (by decide))
      · have hr : flowReserved e = false := Bool.eq_false_iff.2 (mt flowReserved_iff.1 h)
        refine ⟨fun w hw => ?_, fun w hw hn hfree hlow => ?_, fun hn hfull => ?_⟩
        · exact yields_flowWrite hs (Chip.flowWrite_keyed hr hw) (fld_flowCounted (fld_lt ..) (fld_lt ..))
        · exact yields_flowWrite hs (Chip.flowWrite_free hr hn hw hfree hlow) (fld_flowZeroed _)
        · exact exec_tmg hs (·.flowWrite d.val) rfl (Chip.flowWrite_full hr hn hfull)
            (c.smbStatusWord_setTmg_twice _ _ _ _ (by decide) (by decide))

end Sys2Proof.Machine
end

section
/-! The vault on every step (R348, R350, R357, R360, R362): what a step can do to the fuses and the flash is nothing, a
write of the flash, the loss of a transition that waited, a transition that starts or ends, a fused SVN, or a revoked
key. -/

namespace Sys2Proof.Machine

/-- A vault that another can become: it stays sound, and its fuses move one way. -/
def Vault.Advances (v w : Vault) : Prop := (v.ok → w.ok) ∧ (v.fuses.legal → v.fuses.moves w.fuses)

/-- A vault that differs from another in its flash alone, which stays canonical. -/
def Vault.Keeps (v w : Vault) : Prop := w.fuses = v.fuses ∧ (v.canon → w.canon)

section
variable {v w : Vault}

theorem Fuses.moves_refl (f : Fuses) : f.moves f :=
  ⟨.inl rfl, le_rfl, fun _ => id, id, rfl, .inl rfl⟩

theorem Vault.Keeps.of_eq (h : w = v) : v.Keeps w := h ▸ ⟨rfl, id⟩

theorem Vault.Advances.of_keeps (h : v.Keeps w) : v.Advances w := by
  obtain ⟨hf, hc⟩ := h
  refine ⟨fun ok => ⟨hc ok.1, hf ▸ ok.2⟩, fun _ => hf ▸ v.fuses.moves_refl⟩

theorem Vault.Advances.of_eq (h : w = v) : v.Advances w := .of_keeps (.of_eq h)

/-- What keeps the fuses of a vault that has advanced keeps it advanced. -/
theorem Vault.Advances.keeps {u : Vault} (h : v.Advances w) (hk : w.Keeps u) : v.Advances u := by
  obtain ⟨hf, hc⟩ := hk
  exact ⟨fun ok => ⟨hc (h.1 ok).1, hf ▸ (h.1 ok).2⟩, fun hl => hf ▸ h.2 hl⟩

/-- New fuses beside the same flash. -/
theorem Vault.Advances.of_fuses {f : Fuses} (hl : v.fuses.legal → f.legal) (hm : v.fuses.legal → v.fuses.moves f) :
    v.Advances { v with fuses := f } := ⟨fun ok => ⟨ok.1, hl ok.2⟩, hm⟩

/-! The moves of the fuses -/

/-- A transition that waited for its wipe is gone after a cold start. -/
theorem Vault.advances_idle (v : Vault) : v.Advances v.idle := by
  refine .of_fuses (fun ⟨hlife, hroot, _⟩ => ⟨hlife, hroot, fun _ _ h => ?_⟩) fun _ => v.fuses.moves_refl
  cases h

/-- A transition that waited for its wipe is entered (R348). -/
theorem Vault.advances_enter (v : Vault) {life : Nat} {owner : BitVec 384} (h : v.fuses.transition = some (life, owner)) :
    v.Advances { v with fuses := v.fuses.enter life owner } := by
  refine .of_fuses (fun ⟨_, hroot, htr⟩ => ?_) (fun ⟨_, hroot, htr⟩ => ?_) <;> obtain ⟨hnext, hle⟩ := htr _ _ h
  · refine ⟨hle, ?_, fun _ _ hn => by cases hn⟩
    have hlow : v.fuses.life ≠ 3 := by omega
    simp only [Fuses.enter, hroot, hlow, decide_false, Bool.false_or]
  · refine ⟨.inr hnext, le_rfl, fun _ => id, fun hr => ?_, rfl, ?_⟩
    · simp only [Fuses.enter, hr, Bool.true_or]
    · by_cases hone : life = 1
      · exact .inr ⟨by omega, hone⟩
      · exact .inl (if_neg hone)

/-- The type that a life-cycle state accepts for a transition leads one state down (R348, R349). -/
theorem typeOk_transition {life type : Nat} (h : typeOk life type = true) (hd : type ≠ 1) :
    type - 1 = life + 1 ∧ type - 1 ≤ 3 := by
  unfold typeOk at h
  split at h <;> simp_all

/-- A transition starts (R348). -/
theorem Vault.advances_transition (v : Vault) {type : Nat} (owner : BitVec 384) (h : typeOk v.fuses.life type = true)
    (hd : type ≠ 1) : v.Advances { v with fuses := { v.fuses with transition := some (type - 1, owner) } } := by
  refine .of_fuses (fun ⟨hlife, hroot, _⟩ => ⟨hlife, hroot, fun l o ht => ?_⟩) fun _ => v.fuses.moves_refl
  cases ht
  exact typeOk_transition h hd

/-- The fused SVN rises (R362). -/
theorem Vault.advances_commit (v : Vault) {n : Nat} (h : v.fuses.fuseSvn ≤ n) :
    v.Advances { v with fuses := { v.fuses with fuseSvn := n } } :=
  .of_fuses id fun _ => ⟨.inl rfl, h, fun _ => id, id, rfl, .inl rfl⟩

/-- A key is revoked (R362). -/
theorem Vault.advances_revoke (v : Vault) {r : BitVec 4}
    (h : ∀ k, v.fuses.revoked.getLsbD k = true → r.getLsbD k = true) :
    v.Advances { v with fuses := { v.fuses with revoked := r } } :=
  .of_fuses id fun _ => ⟨.inl rfl, le_rfl, h, id, rfl, .inl rfl⟩
end

/-! The operations -/

section
variable (c : Chip)

theorem Chip.flashErase_keeps (a n : Nat) : c.vault.Keeps (c.flashErase a n).vault :=
  ⟨c.flashErase_fuses a n, c.flashErase_canon a n⟩
theorem Chip.flashProgram_keeps (a : Nat) (bs : List Byte) : c.vault.Keeps (c.flashProgram a bs).vault :=
  ⟨c.flashProgram_fuses a bs, c.flashProgram_canon a bs⟩
theorem Chip.writeSlotState_keeps (k : Nat) (x : SlotState) : c.vault.Keeps (c.writeSlotState k x).vault :=
  ⟨c.writeSlotState_fuses k x, c.writeSlotState_canon k x⟩
theorem Chip.updateGo_keeps : c.vault.Keeps c.updateGo.vault := ⟨c.updateGo_fuses, c.updateGo_canon⟩
theorem Chip.bootTry_keeps (rejected : Option Nat) (ks : List Nat) : c.vault.Keeps (c.bootTry rejected ks).vault :=
  ⟨c.bootTry_fuses rejected ks, c.bootTry_canon rejected ks⟩
theorem Chip.updateStart_keeps (k : Nat) : c.vault.Keeps (c.updateStart k).vault :=
  ⟨c.updateStart_fuses k, c.updateStart_canon k⟩
theorem Chip.calStart_keeps : c.vault.Keeps c.calStart.vault := ⟨c.calStart_fuses, c.calStart_canon⟩

theorem Chip.wipeDone_advances (clear : Bool) : c.vault.Advances (c.wipeDone clear).vault := by
  obtain h | ⟨life, owner, ht, h⟩ := c.wipeDone_vault clear
  · exact .of_eq h
  · exact h ▸ c.vault.advances_enter ht

theorem Chip.checkDone_advances : c.vault.Advances c.checkDone.vault := by
  obtain h | ⟨t, hok, hd, h⟩ := c.checkDone_vault
  · exact .of_eq h
  · exact h ▸ c.vault.advances_transition _ hok hd

theorem Chip.coldStart_advances (src : ColdSource) : c.vault.Advances (c.coldStart src).vault :=
  (c.coldStart_vault src).elim .of_eq fun h => h ▸ c.vault.advances_idle

theorem Chip.cooldownEnd_advances : c.vault.Advances c.cooldownEnd.vault :=
  c.cooldownEnd_vault.elim .of_eq fun h => h ▸ c.vault.advances_idle

theorem Chip.powerDown_advances : c.vault.Advances c.powerDown.vault := c.powerDown_vault ▸ c.vault.advances_idle

theorem Chip.failStarted_coreExpiry_keeps (qs : List Queue) (k : Nat) :
    c.vault.Keeps ((c.failStarted qs).coreExpiry k).vault := by
  rw [Chip.coreExpiry_vault]
  exact ⟨c.failStarted_fuses qs, c.failStarted_canon qs⟩

/-- A served request advances the vault where its effect does. -/
theorem Chip.serve_advances (q op len : Nat) {f : List Byte → Answer}
    (hf : ∀ bs d, d.vault = c.vault → c.vault.Advances ((f bs).effect d).vault) :
    c.vault.Advances (c.serve q op len f).vault :=
  c.serve_keeps c.vault.Advances q op len f (.of_eq rfl) (fun d hd => hd.keeps d.updateGo_keeps) hf

section
variable {c} {d : Chip} (h : d.vault = c.vault) (bs : List Byte)
include h

theorem Chip.imgBegin_advances : c.vault.Advances ((c.imgBegin bs).effect d).vault := by
  simp only [Chip.imgBegin]
  split
  · exact .of_eq h
  split
  · exact .of_eq h
  · exact .keeps (.of_eq h) (d.flashErase_keeps _ _)

theorem Chip.imgWrite_advances (data : List Byte) : c.vault.Advances ((c.imgWrite data bs).effect d).vault := by
  simp only [Chip.imgWrite]
  split
  · exact .of_eq h
  split
  · exact .of_eq h
  split
  · exact .of_eq h
  · exact .keeps (.of_eq h) (d.flashProgram_keeps _ _)

theorem Chip.imgVerify_advances : c.vault.Advances ((c.imgVerify bs).effect d).vault := by
  simp only [Chip.imgVerify]
  split
  · exact .of_eq h
  split
  · exact .of_eq h
  split
  · exact .keeps (.of_eq h) (d.writeSlotState_keeps _ _)
  · exact .of_eq h

theorem Chip.imgActivate_advances : c.vault.Advances ((c.imgActivate bs).effect d).vault := by
  simp only [Chip.imgActivate]
  split
  · exact .of_eq h
  split
  · exact .of_eq h
  · show c.vault.Advances (if d.inRecovery then _ else _ : Chip).vault
    split
    · exact .keeps (.of_eq h) (d.bootTry_keeps _ _)
    · exact .keeps (.of_eq h) (d.updateStart_keeps _)

theorem Chip.imgCommit_advances : c.vault.Advances (c.imgCommit.effect d).vault := by
  simp only [Chip.imgCommit]
  split
  · split
    · exact .of_eq h
    · rw [← h]
      exact d.vault.advances_commit (congrArg (·.fuses.fuseSvn) h ▸ le_max_left _ _)
  · exact .of_eq h

theorem Chip.imgReject_advances : c.vault.Advances ((c.imgReject bs).effect d).vault := by
  simp only [Chip.imgReject]
  split
  · exact .of_eq h
  split
  · exact .of_eq h
  · exact .keeps (.of_eq h) (d.writeSlotState_keeps _ _)

theorem Chip.imgRevoke_advances : c.vault.Advances ((c.imgRevoke bs).effect d).vault := by
  simp only [Chip.imgRevoke]
  split
  · exact .of_eq h
  split
  · exact .of_eq h
  · rw [← h]
    refine d.vault.advances_revoke fun k hk => ?_
    show (putFld d.fw.revoked (byteAt bs 0) 1 true.toNat).getLsbD k = true
    rw [putFld_getLsbD]
    split
    · next hb => simp [show k = byteAt bs 0 by omega]
    · exact hk
end
end

/-! The steps -/

/-- What a gated command does to the vault is what its operation does. -/
theorem Vault.Advances.gated {i : Instr} {s t : State} (g : Chip → Bool) (f : Chip → Chip) (h : exec i s = .next t)
    (he : exec i s = s.run fun c => if g c then f c else c) (hf : ∀ c : Chip, c.vault.Advances (f c).vault) :
    s.chip.vault.Advances t.chip.vault := by
  rw [run_vault (he.symm.trans h)]
  split
  · exact hf _
  · exact .of_eq rfl

/-- Every command keeps the vault sound and moves the fuses one way. -/
theorem exec_advances {i : Instr} {s t : State} (h : exec i s = .next t) : s.chip.vault.Advances t.chip.vault := by
  cases i with
  | collectiveFirstFrame _ _ _ => exact .of_eq (execCollectiveFirstFrame_vault h)
  | continuationFrame _ _ _ => exact .of_eq (execContinuationFrame_vault h)
  | collectiveFrameFold _ _ _ _ _ _ => exact .of_eq (execCollectiveFrameFold_vault h)
  | sidingRetry _ _ _ => exact .of_eq (execSidingRetry_vault h)
  | coachCreateRetry _ _ => exact .of_eq (execCoachCreateRetry_vault h)
  | coachFoldComplete _ _ => exact .of_eq (execCoachFoldComplete_vault h)
  | coachCutoff _ _ => exact .of_eq (execCoachCutoff_vault h)
  | sealIntervalEnd _ _ => exact .of_eq (execSealIntervalEnd_vault h)
  | packerFirstFrame _ _ _ => exact .of_eq (execPackerFirstFrame_vault h)
  | packerLastFrameSent _ _ => exact .of_eq (execPackerLastFrameSent_vault h)
  | deadlineMonitor _ => exact .of_eq (execDeadlineMonitor_vault h)
  | abortDrainDone _ _ => exact .of_eq (execAbortDrainDone_vault h)
  | abortMarkExpiry _ => exact .of_eq (execAbortMarkExpiry_vault h)
  | openRecordExpiry _ => exact .of_eq (execOpenRecordExpiry_vault h)
  | abortWaveRx _ _ _ => exact .of_eq (execAbortWaveRx_vault h)
  | abortWaveRepeat _ _ _ => exact .of_eq (execAbortWaveRepeat_vault h)
  | ledgerBatchSend _ _ => exact .of_eq (execLedgerBatchSend_vault h)
  | resultFrame _ _ _ => exact .of_eq (execResultFrame_vault h)
  | memoryFrame _ _ _ => exact .of_eq (execMemoryFrame_vault h)
  | memoryPut _ _ _ => exact .of_eq (execMemoryPut_vault h)
  | putCompletion _ _ _ => exact .of_eq (execPutCompletion_vault h)
  | putCounterTimeout _ _ => exact .of_eq (execPutCounterTimeout_vault h)
  | bulkFrame _ _ _ => exact .of_eq (execBulkFrame_vault h)
  | ethernetFrame _ _ _ _ _ _ => exact .of_eq (execEthernetFrame_vault h)
  | pauseFrameRx _ => exact .of_eq (execPauseFrameRx_vault h)
  | pfcFrameRx _ _ _ => exact .of_eq (execPfcFrameRx_vault h)
  | controlFrameForward _ _ _ => exact .of_eq (execControlFrameForward_vault h)
  | ptpMessageRx _ _ _ => exact .of_eq (execPtpMessageRx_vault h)
  | digestRecordsRx _ _ _ => exact .of_eq (execDigestRecordsRx_vault h)
  | frameTailCheck _ _ => exact .of_eq (execFrameTailCheck_vault h)
  | egressPortFree _ _ => exact .of_eq (execEgressPortFree_vault h)
  | cellTime => exact .of_eq (execCellTime_vault h)
  | cellRefcountDecrement _ _ _ => exact .of_eq (execCellRefcountDecrement_vault h)
  | brakeLevelChange _ _ _ => exact .of_eq (execBrakeLevelChange_vault h)
  | divertedFrameDispatch _ _ _ _ => exact .of_eq (execDivertedFrameDispatch_vault h)
  | linkInitRx _ _ => exact .of_eq (execLinkInitRx_vault h)
  | linkUpdateRx _ _ => exact .of_eq (execLinkUpdateRx_vault h)
  | linkNakRx _ _ => exact .of_eq (execLinkNakRx_vault h)
  | creditUpdateSend _ => exact .of_eq (execCreditUpdateSend_vault h)
  | creditUpdatePeriodic _ => exact .of_eq (execCreditUpdatePeriodic_vault h)
  | initResend _ => exact .of_eq (execInitResend_vault h)
  | pcsAligned _ _ => exact .of_eq (execPcsAligned_vault h)
  | pcsAlignLoss _ => exact .of_eq (execPcsAlignLoss_vault h)
  | linkControlTimeout _ => exact .of_eq (execLinkControlTimeout_vault h)
  | replayTimeout _ => exact .of_eq (execReplayTimeout_vault h)
  | nakRepeat _ => exact .of_eq (execNakRepeat_vault h)
  | lpiEntryStart _ => exact .of_eq (execLpiEntryStart_vault h)
  | lpiAckRx _ _ => exact .of_eq (execLpiAckRx_vault h)
  | lpiNoackTimeout _ => exact .of_eq (execLpiNoackTimeout_vault h)
  | lpiWakeRequest _ => exact .of_eq (execLpiWakeRequest_vault h)
  | lpiExitComplete _ => exact .of_eq (execLpiExitComplete_vault h)
  | lpiReqRx _ => exact .of_eq (execLpiReqRx_vault h)
  | lpiPartnerWakeRx _ => exact .of_eq (execLpiPartnerWakeRx_vault h)
  | lpiRefresh _ => exact .of_eq (execLpiRefresh_vault h)
  | synthLock _ => exact .of_eq (execSynthLock_vault h)
  | synthCalDone _ => exact .of_eq (execSynthCalDone_vault h)
  | synthLockTimeout _ => exact .of_eq (execSynthLockTimeout_vault h)
  | trainingDone _ _ _ _ _ => exact .of_eq (execTrainingDone_vault h)
  | trainingRetry _ => exact .of_eq (execTrainingRetry_vault h)
  | cdrLock _ => exact .of_eq (execCdrLock_vault h)
  | settleWindowEnd _ => exact .of_eq (execSettleWindowEnd_vault h)
  | checkerLock _ _ => exact .of_eq (execCheckerLock_vault h)
  | checkerLockLoss _ _ => exact .of_eq (execCheckerLockLoss_vault h)
  | eyeWindowEnd _ _ _ _ _ _ => exact .of_eq (execEyeWindowEnd_vault h)
  | injGo _ => exact .of_eq (execInjGo_vault h)
  | injPeriodBurst _ => exact .of_eq (execInjPeriodBurst_vault h)
  | settleGo _ => exact .of_eq (execSettleGo_vault h)
  | cntClr _ => exact .of_eq (execCntClr_vault h)
  | sdsTxEqWrite _ _ => exact .of_eq (execSdsTxEqWrite_vault h)
  | chkBitsLoRead _ => exact .of_eq (execChkBitsLoRead_vault h)
  | laneStatRead _ => exact .of_eq (execLaneStatRead_vault h)
  | prtCfgWrite _ _ => exact .of_eq (execPrtCfgWrite_vault h)
  | lnkCtrlWrite _ _ => exact .of_eq (execLnkCtrlWrite_vault h)
  | lnkVlBufWrite _ _ _ => exact .of_eq (execLnkVlBufWrite_vault h)
  | shaperRefill _ => exact .of_eq (execShaperRefill_vault h)
  | shaperApply _ => exact .of_eq (execShaperApply_vault h)
  | flowShaperRelease _ _ => exact .of_eq (execFlowShaperRelease_vault h)
  | gateSwitch _ => exact .of_eq (execGateSwitch_vault h)
  | gateSwitchEffect _ => exact .of_eq (execGateSwitchEffect_vault h)
  | gateIntervalBoundary _ => exact .of_eq (execGateIntervalBoundary_vault h)
  | sampleIntervalClose _ => exact .of_eq (execSampleIntervalClose_vault h)
  | qSampSeqRead _ => exact .of_eq (execQSampSeqRead_vault h)
  | wmFlagClear _ _ _ => exact .of_eq (execWmFlagClear_vault h)
  | flowRead _ => exact .of_eq (execFlowRead_vault h)
  | flowWrite _ => exact .of_eq (execFlowWrite_vault h)
  | flowDelete _ => exact .of_eq (execFlowDelete_vault h)
  | ttbEntRead => exact .of_eq (execTtbEntRead_vault h)
  | ttbEntWrite => exact .of_eq (execTtbEntWrite_vault h)
  | ttbEntInvalidate => exact .of_eq (execTtbEntInvalidate_vault h)
  | ttbCsetRead => exact .of_eq (execTtbCsetRead_vault h)
  | ttbCsetWrite => exact .of_eq (execTtbCsetWrite_vault h)
  | liveryRecordWrite _ _ => exact .of_eq (execLiveryRecordWrite_vault h)
  | ttbLivCtrlWrite _ => exact .of_eq (execTtbLivCtrlWrite_vault h)
  | ttbLivSwap _ => exact .of_eq (execTtbLivSwap_vault h)
  | ttbSwapTakeEffect _ => exact .of_eq (execTtbSwapTakeEffect_vault h)
  | ttbOldBankRelease _ => exact .of_eq (execTtbOldBankRelease_vault h)
  | routeEntRead => exact .of_eq (execRouteEntRead_vault h)
  | routeEntWrite => exact .of_eq (execRouteEntWrite_vault h)
  | routeSwap _ => exact .of_eq (execRouteSwap_vault h)
  | routeSwapCancel => exact .of_eq (execRouteSwapCancel_vault h)
  | routeSwapSwitch => exact .of_eq (execRouteSwapSwitch_vault h)
  | routeDrainSlow => exact .of_eq (execRouteDrainSlow_vault h)
  | groupRead => exact .of_eq (execGroupRead_vault h)
  | groupWrite => exact .of_eq (execGroupWrite_vault h)
  | addrRead => exact .of_eq (execAddrRead_vault h)
  | addrWrite => exact .of_eq (execAddrWrite_vault h)
  | addrDelete => exact .of_eq (execAddrDelete_vault h)
  | gridMapWrite _ => exact .of_eq (execGridMapWrite_vault h)
  | teardown => exact .of_eq (execTeardown_vault h)
  | teardownTimerExpiry _ => exact .of_eq (execTeardownTimerExpiry_vault h)
  | teardownDone _ => exact .of_eq (execTeardownDone_vault h)
  | teardownRelease => exact .of_eq (execTeardownRelease_vault h)
  | polQuotaWrite _ _ => exact .of_eq (execPolQuotaWrite_vault h)
  | polThrWrite _ _ _ => exact .of_eq (execPolThrWrite_vault h)
  | quarantineRelease _ _ => exact .of_eq (execQuarantineRelease_vault h)
  | quarantineReleaseDone _ _ => exact .of_eq (execQuarantineReleaseDone_vault h)
  | marchStart _ _ => exact .of_eq (execMarchStart_vault h)
  | marchDone _ _ => exact .of_eq (execMarchDone_vault h)
  | tableCopyRefetchDone _ _ _ => exact .of_eq (execTableCopyRefetchDone_vault h)
  | retentionEntry _ _ => exact .of_eq (execRetentionEntry_vault h)
  | bankWake _ _ => exact .of_eq (execBankWake_vault h)
  | bankWakeDone _ _ => exact .of_eq (execBankWakeDone_vault h)
  | cchSlotSelect _ _ => exact .of_eq (execCchSlotSelect_vault h)
  | livCtrlWrite _ => exact .of_eq (execLivCtrlWrite_vault h)
  | seedWrite _ => exact .of_eq (execSeedWrite_vault h)
  | energyAttribution => exact .of_eq (execEnergyAttribution_vault h)
  | energyLoRead _ => exact .of_eq (execEnergyLoRead_vault h)
  | secureWipe => exact .of_eq (execSecureWipe_vault h)
  | wipeDone clear => exact .gated (·.standbyUp) (·.wipeDone clear) h rfl (Chip.wipeDone_advances · clear)
  | tamperDetect _ => exact .of_eq (execTamperDetect_vault h)
  | tapInstruction _ => exact .of_eq (execTapInstruction_vault h)
  | tokenChallenge => exact .of_eq (execTokenChallenge_vault h)
  | tokenSubmit => exact .of_eq (execTokenSubmit_vault h)
  | tokenCheckDone => exact .gated (·.standbyUp) (·.checkDone) h rfl Chip.checkDone_advances
  | tokenLock => exact .of_eq (execTokenLock_vault h)
  | coreWatchdogExpiry core started =>
    exact .gated (fun c => c.m0Up && c.coreIn core.val) (fun c => (c.failStarted started).coreExpiry core.val) h rfl
      fun c => .of_keeps (c.failStarted_coreExpiry_keeps started core.val)
  | m0WatchdogExpiry => exact .of_eq (execM0WatchdogExpiry_vault h)
  | mgmtSramUe _ _ => exact .of_eq (execMgmtSramUe_vault h)
  | bootRomStart =>
    exact .gated (fun c => c.standbyUp && c.fw.bootWaiting &&
      !(c.wiping && decide (c.field pgSec wipeStat 3 3 = wcPowerUp))) (·.bootRom) h rfl
      fun c => .of_keeps ⟨c.bootRom_fuses, c.bootRom_canon⟩
  | mbxDoorbell _ _ => exact .of_eq (execMbxDoorbell_vault h)
  | mbxRspCiWrite _ _ => exact .of_eq (execMbxRspCiWrite_vault h)
  | mbxBusyTimeout _ => exact .of_eq (execMbxBusyTimeout_vault h)
  | getVersion q =>
    exact .gated (·.m0Up) (fun c => c.serve q.val 0x01 0 fun _ => c.getVersion) h rfl
      fun c => c.serve_advances _ _ _ fun _ d hd => .of_eq (d.takeFresh_vault.trans hd)
  | getStatus q =>
    exact .gated (·.m0Up) (fun c => c.serve q.val 0x02 0 fun _ => c.getStatus) h rfl
      fun c => c.serve_advances _ _ _ fun _ _ hd => .of_eq hd
  | imgBegin q =>
    exact .gated (·.m0Up) (fun c => c.serve q.val 0x10 1 c.imgBegin) h rfl
      fun c => c.serve_advances _ _ _ fun bs _ hd => Chip.imgBegin_advances hd bs
  | imgWrite q data =>
    exact .gated (·.m0Up) (fun c => c.serve q.val 0x11 17 (c.imgWrite data)) h rfl
      fun c => c.serve_advances _ _ _ fun bs _ hd => Chip.imgWrite_advances hd bs data
  | imgVerify q =>
    exact .gated (·.m0Up) (fun c => c.serve q.val 0x12 1 c.imgVerify) h rfl
      fun c => c.serve_advances _ _ _ fun bs _ hd => Chip.imgVerify_advances hd bs
  | imgActivate q =>
    exact .gated (·.m0Up) (fun c => c.serve q.val 0x13 1 c.imgActivate) h rfl
      fun c => c.serve_advances _ _ _ fun bs _ hd => Chip.imgActivate_advances hd bs
  | imgCommitSvn q =>
    exact .gated (·.m0Up) (fun c => c.serve q.val 0x14 0 fun _ => c.imgCommit) h rfl
      fun c => c.serve_advances _ _ _ fun _ _ hd => Chip.imgCommit_advances hd
  | imgReject q =>
    exact .gated (·.m0Up) (fun c => c.serve q.val 0x15 1 c.imgReject) h rfl
      fun c => c.serve_advances _ _ _ fun bs _ hd => Chip.imgReject_advances hd bs
  | imgRevokeKey q =>
    exact .gated (·.m0Up) (fun c => c.serve q.val 0x16 1 c.imgRevoke) h rfl
      fun c => c.serve_advances _ _ _ fun bs _ hd => Chip.imgRevoke_advances hd bs
  | logRead q =>
    exact .gated (·.m0Up) (fun c => c.serve q.val 0x20 16 c.logRead) h rfl
      fun c => c.serve_advances _ _ _ fun _ _ hd => .of_eq hd
  | telemCfg q =>
    exact .gated (·.m0Up) (fun c => c.serve q.val 0x30 17 telemCfg) h rfl
      fun c => c.serve_advances _ _ _ fun bs d hd => .of_eq ((telemCfg_vault bs d).trans hd)
  | newImageStart selfTestOk =>
    exact .gated (·.m0Up) (·.newImage selfTestOk) h rfl
      fun c => .of_keeps ⟨c.newImage_fuses _, c.newImage_canon _⟩
  | fwHeartbeat => exact .of_eq (execFwHeartbeat_vault h)
  | errorLogCommit =>
    exact .gated (fun c => c.m0Up && decide (c.fwState = stRunning)) (·.logCommit) h rfl
      fun c => .of_keeps ⟨c.logCommit_fuses, c.logCommit_canon⟩
  | telemetryPeriod _ => exact .of_eq (execTelemetryPeriod_vault h)
  | evqIntPauseEnd => exact .of_eq (execEvqIntPauseEnd_vault h)
  | cornerEvaluation _ => exact .of_eq (execCornerEvaluation_vault h)
  | estimateRefresh => exact .of_eq (execEstimateRefresh_vault h)
  | calibrationInterval _ _ => exact .of_eq (execCalibrationInterval_vault h)
  | meterUpdate => exact .of_eq (execMeterUpdate_vault h)
  | budgetBinStart => exact .of_eq (execBudgetBinStart_vault h)
  | hintHoldExpiry _ => exact .of_eq (execHintHoldExpiry_vault h)
  | budgetCtrlWrite _ => exact .of_eq (execBudgetCtrlWrite_vault h)
  | railIlimCross _ => exact .of_eq (execRailIlimCross_vault h)
  | railIlimRelease _ => exact .of_eq (execRailIlimRelease_vault h)
  | phaseHardLimit _ => exact .of_eq (execPhaseHardLimit_vault h)
  | phaseEvaluation _ _ => exact .of_eq (execPhaseEvaluation_vault h)
  | railVsetWrite _ => exact .of_eq (execRailVsetWrite_vault h)
  | railFault _ => exact .of_eq (execRailFault_vault h)
  | vin12Loss => exact .of_eq (execVin12Loss_vault h)
  | lastGaspProgram supplyHeld =>
    exact .gated (·.standbyUp) (·.gaspProgram supplyHeld) h rfl
      fun c => .of_keeps ⟨c.gaspProgram_fuses _, c.gaspProgram_canon _⟩
  | vin12Present => exact .of_eq (execVin12Present_vault h)
  | vin3v3PowerDown => exact .gated (·.boot.vin3v3) (·.powerDown) h rfl Chip.powerDown_advances
  | calSave =>
    exact .gated (fun c => c.serves pgPwr && decide (c.field (pgMbx 0) 0x1000 0 3 = 2)) (·.calStart) h rfl
      fun c => .of_keeps c.calStart_keeps
  | calSavePeriodic =>
    exact .gated (fun c => c.standbyUp && decide (c.field (pgMbx 0) 0x1000 0 3 = 2)) (·.calStart) h rfl
      fun c => .of_keeps c.calStart_keeps
  | calSaveDone ok =>
    exact .gated (·.standbyUp) (·.calDone ok) h rfl
      fun c => .of_keeps ⟨c.calDone_fuses ok, c.calDone_canon ok⟩
  | thermalSensorRead _ => exact .of_eq (execThermalSensorRead_vault h)
  | tripCooldownEnd => exact .gated (·.standbyUp) (·.cooldownEnd) h rfl Chip.cooldownEnd_advances
  | laneRepair _ _ => exact .of_eq (execLaneRepair_vault h)
  | laneFence _ _ => exact .of_eq (execLaneFence_vault h)
  | laneSpareTestDone _ _ => exact .of_eq (execLaneSpareTestDone_vault h)
  | coachDieUnresponsive _ => exact .of_eq (execCoachDieUnresponsive_vault h)
  | dieFailed _ => exact .of_eq (execDieFailed_vault h)
  | digestBatchSend _ => exact .of_eq (execDigestBatchSend_vault h)
  | digestUnmatchedTimeout => exact .of_eq (execDigestUnmatchedTimeout_vault h)
  | trailerStepCheck => exact .of_eq (execTrailerStepCheck_vault h)
  | trailerModeChange => exact .of_eq (execTrailerModeChange_vault h)
  | snapshotArm => exact .of_eq (execSnapshotArm_vault h)
  | snapshotTrigger => exact .of_eq (execSnapshotTrigger_vault h)
  | snapInEdge => exact .of_eq (execSnapInEdge_vault h)
  | snapshotSlotMatch => exact .of_eq (execSnapshotSlotMatch_vault h)
  | snapshotLatch => exact .of_eq (execSnapshotLatch_vault h)
  | snpTimeLoRead => exact .of_eq (execSnpTimeLoRead_vault h)
  | timNowLoRead => exact .of_eq (execTimNowLoRead_vault h)
  | timeOffsetWrite _ => exact .of_eq (execTimeOffsetWrite_vault h)
  | timeSlewDone => exact .of_eq (execTimeSlewDone_vault h)
  | timeStepGo => exact .of_eq (execTimeStepGo_vault h)
  | ppsInEdge => exact .of_eq (execPpsInEdge_vault h)
  | ppsOutSecond => exact .of_eq (execPpsOutSecond_vault h)
  | ptpServoUpdate _ _ => exact .of_eq (execPtpServoUpdate_vault h)
  | coldStart src => exact .gated (fun _ => true) (·.coldStart src) h rfl (Chip.coldStart_advances · src)
  | pwronRstN _ => exact .of_eq (execPwronRstN_vault h)
  | warmRstN _ => exact .of_eq (execWarmRstN_vault h)
  | pwrRstCold _ => exact .of_eq (execPwrRstCold_vault h)
  | pwrRstWarm _ => exact .of_eq (execPwrRstWarm_vault h)
  | pwrRstMgmt _ => exact .of_eq (execPwrRstMgmt_vault h)
  | warmReset => exact .of_eq (execWarmReset_vault h)
  | warmResetDone => exact .of_eq (execWarmResetDone_vault h)
  | perstN _ => exact .of_eq (execPerstN_vault h)
  | hotReset => exact .of_eq (execHotReset_vault h)
  | functionLevelReset => exact .of_eq (execFunctionLevelReset_vault h)
  | standbyComplete => exact .of_eq (execStandbyComplete_vault h)
  | m0MarchDone _ => exact .of_eq (execM0MarchDone_vault h)
  | railsComplete => exact .of_eq (execRailsComplete_vault h)
  | railGroupRamped => exact .of_eq (execRailGroupRamped_vault h)
  | trainComplete => exact .of_eq (execTrainComplete_vault h)
  | d2dTrainTimeout _ => exact .of_eq (execD2dTrainTimeout_vault h)
  | marchPhaseComplete _ => exact .of_eq (execMarchPhaseComplete_vault h)
  | laneTestComplete _ => exact .of_eq (execLaneTestComplete_vault h)
  | smbStatus => exact .of_eq (execSmbStatus_vault h)
  | smbAlertSrcRead => exact .of_eq (execSmbAlertSrcRead_vault h)
  | smbAlertSrcClear _ _ => exact .of_eq (execSmbAlertSrcClear_vault h)
  | smbPkgPower => exact .of_eq (execSmbPkgPower_vault h)
  | smbMaxJunction => exact .of_eq (execSmbMaxJunction_vault h)
  | smbMaxDie => exact .of_eq (execSmbMaxDie_vault h)
  | smbVin12Mv _ => exact .of_eq (execSmbVin12Mv_vault h)
  | smbVin12Current _ => exact .of_eq (execSmbVin12Current_vault h)
  | smbVin3v3Mv _ => exact .of_eq (execSmbVin3v3Mv_vault h)
  | smbJunction _ => exact .of_eq (execSmbJunction_vault h)
  | smbAlertResponse => exact .of_eq (execSmbAlertResponse_vault h)
  | registerWrite off be v =>
    exact .gated (fun _ => true) (·.regWrite off.toNat be v) h rfl
      fun c => .of_keeps (c.regWrite_keeps _ be v)
  | cdrLockLoss _ _ => exact .of_eq (execCdrLockLoss_vault h)
  | autoNegotiation _ _ _ => exact .of_eq (execAutoNegotiation_vault h)
  | ethernetPcsAlignLoss _ => exact .of_eq (execEthernetPcsAlignLoss_vault h)
  | retentionEntryComplete _ _ => exact .of_eq (execRetentionEntryComplete_vault h)
  | railSlewDone _ => exact .of_eq (execRailSlewDone_vault h)
  | fecUncorrBetweenFrames _ => exact .of_eq (execFecUncorrBetweenFrames_vault h)
  | smbUnlistedCommand _ => exact .of_eq (execSmbUnlistedCommand_vault h)
  | registerReadAccessError _ _ => exact .of_eq (execRegisterReadAccessError_vault h)

/-- Settles O57: a command by what it does to the vault, and the step of an empty queue leaves it. -/
theorem fusesMoveOneWayOnEveryStep : Obligations.FusesMoveOneWayOnEveryStep := by
  unfold Obligations.FusesMoveOneWayOnEveryStep
  intro s t h
  cases hp : s.pending with
  | nil =>
    simp only [step, hp] at h
    cases h
    exact Vault.Advances.of_eq s.tick_vault
  | cons i rest =>
    simp only [step, hp] at h
    exact exec_advances (s := { s with pending := rest }) h

/-- Settles O58, at the reset values. -/
theorem theVaultIsSoundAtReset : Obligations.TheVaultIsSoundAtReset := by
  unfold Obligations.TheVaultIsSoundAtReset
  refine ⟨⟨rfl, by decide, rfl, fun _ _ h => ?_⟩, rfl, rfl, rfl, by decide⟩
  cases h

end Sys2Proof.Machine
end

section
/-! The tamper logic (R347) and the restart of the management cores (R355): what they write, and what they leave. -/

namespace Sys2Proof.Machine

/-! Events -/

/-- Something placed at least `n` records. -/
def Chip.Places (a b : Chip) (n : Nat) : Prop := a.ev.placed + n ≤ b.ev.placed

theorem Chip.raise_places (c : Chip) (e : Ev) : c.Places (c.raise e) 1 := (c.raise_placed e).ge

/-! The tamper logic -/

section
variable (c : Chip) (src : Nat)

/-- A detection is recorded (R347). -/
def Chip.tamperSeen : Chip :=
  ((c.setFlag pgSec tamperStat src true).bump pgSec 0x1008).raise (evP pgSec 0x0701 dieM (2 ^ src))

/-- Beyond BLANK a detection wipes the store, locks the keys, and taints a token check. -/
def Chip.tamperReacts : Chip :=
  (({ c with sec := { c.sec with checking := c.sec.checking.map TokenCheck.taint } } : Chip).startWipe wcTamper).lockKeys

theorem Chip.tamperSeen_rest : ∃ r x y, c.tamperSeen src = { c with regs := r, ev := x, snap := y } :=
  (Chip.raise_rest ((c.setFlag pgSec tamperStat src true).bump pgSec 0x1008) _)

theorem Chip.tamperSeen_sec : (c.tamperSeen src).sec = c.sec := by
  obtain ⟨_, _, _, h⟩ := c.tamperSeen_rest src
  rw [h]

theorem Chip.tamper_unwatched (h : c.tamperWatched src = false) : c.tamper src = c := by
  simp only [Chip.tamper, h, Bool.not_false, if_true]

theorem Chip.tamper_blank (h : c.tamperWatched src = true) (hl : c.sec.life = 0) : c.tamper src = c.tamperSeen src := by
  simp only [Chip.tamper, h, Bool.not_true, Bool.false_eq_true, if_false]
  exact if_pos ((congrArg SecSt.life (c.tamperSeen_sec src)).trans hl)

theorem Chip.tamper_acts (h : c.tamperWatched src = true) (hl : c.sec.life ≠ 0) :
    c.tamper src = (c.tamperSeen src).tamperReacts := by
  simp only [Chip.tamper, h, Bool.not_true, Bool.false_eq_true, if_false]
  exact if_neg fun h0 => hl ((congrArg SecSt.life (c.tamperSeen_sec src)).symm.trans h0)

/-- A source does nothing, is recorded, or is recorded and acts. -/
theorem Chip.tamper_cases : c.tamper src = c ∨ c.tamper src = c.tamperSeen src ∨
    c.tamper src = (c.tamperSeen src).tamperReacts := by
  by_cases h : c.tamperWatched src = true
  · by_cases hl : c.sec.life = 0
    · exact .inr (.inl (c.tamper_blank src h hl))
    · exact .inr (.inr (c.tamper_acts src h hl))
  · exact .inl (c.tamper_unwatched src (Bool.eq_false_iff.2 h))

theorem Chip.tamperWatched_iff : c.tamperWatched src = true ↔
    if src < 2 then c.flag pgSec 0x100C src = true
    else if src = 6 then (c.sec.life = 1 ∨ c.sec.life = 2) ∧ c.flag pgSec 0x1018 8 = false else True := by
  unfold Chip.tamperWatched Chip.debugLocked
  split
  · rfl
  split
  · simp [dbgStat]
  · simp

/-- The state of the security engine after a detection that acts. -/
theorem Chip.tamperReacts_sec : c.tamperReacts.sec = { c.sec with
    store := [], wipePass := 0, keyLock := true
    storeWaits := c.sec.storeWaits.filter (fun w => decide (w.1 < keyBase))
    checking := c.sec.checking.map TokenCheck.taint } := rfl

/-- The registers that the tamper logic writes, beside those of its event: SEC_TAMPER_STAT, SEC_TAMPER_CNT and
SEC_WIPE_STAT. -/
def tamperOffs : List Nat := tamperStat :: 0x1008 :: wipeStat :: evOffs

section
variable {page off inst : Nat} (ho : off < 0x10000)
include ho

theorem Chip.tamperSeen_reg (h : off ∉ tamperOffs) : (c.tamperSeen src).reg page off inst = c.reg page off inst := by
  simp only [tamperOffs, List.mem_cons, not_or] at h
  obtain ⟨hstat, hcnt, _, hev⟩ := h
  rw [Chip.tamperSeen, Chip.raise_reg_off _ _ ho hev, Chip.reg_bump_other _ (regKey_ne_of_off ho (by decide) hcnt),
    Chip.reg_setFlag_other _ _ _ (regKey_ne_of_off ho (by decide) hstat)]

theorem Chip.tamperReacts_reg (h : off ≠ wipeStat) : c.tamperReacts.reg page off inst = c.reg page off inst := by
  have hk : ∀ p i, regKey page off inst ≠ regKey p wipeStat i := fun p i => regKey_ne_of_off ho (by decide) h
  show (((Chip.setFlag _ pgSec wipeStat 0 true).setField pgSec wipeStat 3 3 wcTamper).setFlag
    pgSec wipeStat 2 true).reg page off inst = _
  rw [Chip.reg_setFlag_other _ _ _ (hk _ _), Chip.reg_setField_other _ _ _ _ (hk _ _),
    Chip.reg_setFlag_other _ _ _ (hk _ _)]
  rfl

theorem Chip.tamper_reg (h : off ∉ tamperOffs) : (c.tamper src).reg page off inst = c.reg page off inst := by
  have hw : off ≠ wipeStat := fun he => h (he ▸ by decide)
  obtain he | he | he := c.tamper_cases src <;> rw [he]
  · exact c.tamperSeen_reg src ho h
  · rw [Chip.tamperReacts_reg _ ho hw, c.tamperSeen_reg src ho h]
end

/-- A part differs from another in nothing but registers, events, the snapshot trigger, and the store and the token check
of its security engine. -/
def Chip.Tampered (a b : Chip) : Prop :=
  ∃ r x y m w p l k, b = { a with regs := r, ev := x, snap := y, sec := { a.sec with
    store := m, storeWaits := w, wipePass := p, keyLock := l, checking := k } }

theorem Chip.tamper_tampered : c.Tampered (c.tamper src) := by
  obtain ⟨r, x, y, hs⟩ := c.tamperSeen_rest src
  obtain he | he | he := c.tamper_cases src <;> rw [he]
  · exact ⟨_, _, _, _, _, _, _, _, rfl⟩
  · exact ⟨_, _, _, _, _, _, _, _, hs⟩
  · rw [hs]
    exact ⟨_, _, _, _, _, _, _, _, rfl⟩

theorem Chip.tamper_places : c.Places (c.tamper src) 0 := by
  have h : c.Places (c.tamperSeen src) 0 :=
    Nat.le_of_succ_le (Chip.raise_places ((c.setFlag pgSec tamperStat src true).bump pgSec 0x1008) _)
  obtain he | he | he := c.tamper_cases src <;> rw [he]
  · exact le_rfl
  · exact h
  · exact h
end

/-! The test access port -/

section
variable (c : Chip) (was : Bool)

theorem Chip.tapWatch_idle (h : c.sec.tap ≠ .other) : c.tapWatch was = c := by
  simp only [Chip.tapWatch, Chip.testAccess, h, decide_false, Bool.false_and, Bool.false_eq_true, if_false]

theorem Chip.tapWatch_cases : c.tapWatch was = c ∨ c.tapWatch was = c.tamper 6 := (ite_eq_or_eq _ _ _).symm

theorem Chip.tapWatch_tampered : c.Tampered (c.tapWatch was) := by
  obtain h | h := c.tapWatch_cases was <;> rw [h]
  · exact ⟨_, _, _, _, _, _, _, _, rfl⟩
  · exact c.tamper_tampered 6

theorem Chip.tapWatch_places : c.Places (c.tapWatch was) 0 := by
  obtain h | h := c.tapWatch_cases was <;> rw [h]
  · exact le_rfl
  · exact c.tamper_places 6

theorem Chip.tapWatch_reg {page off inst : Nat} (ho : off < 0x10000) (h : off ∉ tamperOffs) :
    (c.tapWatch was).reg page off inst = c.reg page off inst := by
  obtain he | he := c.tapWatch_cases was <;> rw [he]
  exact c.tamper_reg 6 ho h
end

end Sys2Proof.Machine
end

section
/-! The restart of the management cores (R355, R444), a step on an empty queue (R348), and what every step keeps of the
queue and of the alert causes (R464). -/

namespace Sys2Proof.Machine

/-! The restart of the management cores -/

section
variable (c : Chip)

theorem Chip.msix_only (v : Nat) : ∃ x, c.msix v = { c with ev := x } ∧ x.placed = c.ev.placed := by
  obtain ⟨x, hx⟩ := c.msix_rest v
  exact ⟨x, hx, by simpa [hx] using c.msix_placed v⟩

/-- A change of STATE writes MBX_FW_STAT and raises vector 5. -/
theorem Chip.setFwState_rest (v : Nat) : ∃ r x, c.setFwState v = { c with regs := r, ev := x } ∧
    x.placed = c.ev.placed ∧ x.seq = c.ev.seq ∧ x.ring = c.ev.ring := by
  unfold Chip.setFwState
  split
  · exact ⟨_, _, rfl, rfl, rfl, rfl⟩
  · obtain ⟨x, hx⟩ := (c.setField (pgMbx 0) fwStat 0 3 v).msix_rest 5
    refine ⟨_, x, hx, ?_, ?_, ?_⟩
    · simpa [hx] using (c.setField (pgMbx 0) fwStat 0 3 v).msix_placed 5
    · simpa [hx] using (c.setField (pgMbx 0) fwStat 0 3 v).msix_seq 5
    · simpa [hx] using (c.setField (pgMbx 0) fwStat 0 3 v).msix_ring 5

theorem Chip.setFwState_reg {page off inst : Nat} (v : Nat) (ho : off < 0x10000) (h : off ≠ fwStat) :
    (c.setFwState v).reg page off inst = c.reg page off inst := by
  unfold Chip.setFwState
  split
  · rfl
  · rw [Chip.reg_congr _ (Chip.msix_regs _ _), Chip.reg_setField_other _ _ _ _ (regKey_ne_of_off ho (by decide) h)]

/-- The state that firmware is in after a change of it. -/
theorem Chip.fwState_setFwState {v : Nat} (hv : v < 8) : (c.setFwState v).fwState = v := by
  unfold Chip.setFwState
  split
  · assumption
  · rw [Chip.fwState, Chip.field, Chip.reg_congr _ (Chip.msix_regs _ _)]
    exact (Chip.field_setField c _ _ 0 3 v 0 (by decide)).trans (Nat.mod_eq_of_lt hv)

/-- The indices of a queue (R363). -/
def indexOffs : List Nat := [reqPi, reqCi, rspPi, rspCi]

/-- The indices of one queue go to 0. -/
def Chip.clearQueue (q : Nat) (c : Chip) : Chip :=
  (((c.setReg (pgMbx q) reqPi 0).setReg (pgMbx q) reqCi 0).setReg (pgMbx q) rspPi 0).setReg (pgMbx q) rspCi 0

theorem Chip.clearIndices_eq : c.clearIndices =
    forAll [0, 1, 2, 3] { c with fw := { c.fw with doorbells := [] } } Chip.clearQueue := rfl

theorem Chip.clearIndices_rest : ∃ r, c.clearIndices = { c with regs := r, fw := { c.fw with doorbells := [] } } :=
  ⟨_, rfl⟩

theorem Chip.clearIndices_reg {page off inst : Nat} (ho : off < 0x10000) (h : off ∉ indexOffs) :
    c.clearIndices.reg page off inst = c.reg page off inst := by
  rw [Chip.clearIndices_eq]
  refine keep_forAll (fun d => d.reg page off inst) _ _ _ fun q d => ?_
  have hk : ∀ o ∈ indexOffs, ∀ p, regKey page off inst ≠ regKey p o 0 := fun o hm p =>
    regKey_ne_of_off ho (by revert o; decide) fun he => h (he ▸ hm)
  rw [Chip.clearQueue, Chip.reg_setReg_other _ _ (hk rspCi (by decide) _), Chip.reg_setReg_other _ _ (hk rspPi (by decide) _),
    Chip.reg_setReg_other _ _ (hk reqCi (by decide) _), Chip.reg_setReg_other _ _ (hk reqPi (by decide) _)]

/-- The restart of the management cores up to the close of the debug scope. -/
def Chip.coresDown : Chip :=
  (((c.setFwState stRom).clearIndices.setReg (pgMbx 0) fwStat 0x3C0).setReg (pgMbx 0) 0x1004 0).setReg pgTim 0x102C 0

/-- What a restart leaves of the firmware's state. -/
def FwSt.restarted (f : FwSt) : FwSt :=
  { f with
    image := [], slot := none, region := 0, update := none, loaded := false, quiesced := false, started := []
    coreLast := [], telem := none, telemShed := 0, calSaving := none, bootWaiting := true, coldBoot := false
    doorbells := [] }

theorem Chip.coresDown_rest : ∃ r x, c.coresDown = { c with regs := r, ev := x, fw := { c.fw with doorbells := [] } } ∧
    x.placed = c.ev.placed ∧ x.seq = c.ev.seq ∧ x.ring = c.ev.ring := by
  obtain ⟨r, x, hs, hx⟩ := c.setFwState_rest stRom
  obtain ⟨r', hc⟩ := Chip.clearIndices_rest { c with regs := r, ev := x }
  rw [Chip.coresDown, hs, hc]
  exact ⟨_, x, rfl, hx⟩

theorem Chip.coresDown_reg {page off inst : Nat} (ho : off < 0x10000)
    (h : off ∉ fwStat :: 0x1004 :: 0x102C :: indexOffs) : c.coresDown.reg page off inst = c.reg page off inst := by
  simp only [List.mem_cons, not_or] at h
  obtain ⟨hstat, hver, hsync, hidx⟩ := h
  rw [Chip.coresDown, Chip.reg_setReg_off _ (by decide) ho hsync, Chip.reg_setReg_off _ (by decide) ho hver,
    Chip.reg_setReg_off _ (by decide) ho hstat, Chip.clearIndices_reg _ ho (by simpa [indexOffs] using hidx),
    Chip.setFwState_reg _ _ ho hstat]

/-- The close of the debug scope leaves the tamper logic to watch the test access port. -/
def Chip.coresClosed : Chip := c.coresDown.closeDebug

theorem Chip.mgmtRestart_eq : c.mgmtRestart = { c.coresClosed.setFlag pgPwr 0x1064 2 false with
    time := { c.time with servoGood := 0 }, fw := c.fw.restarted } := by
  obtain ⟨r, x, hd, _⟩ := c.coresDown_rest
  obtain ⟨r', x', y', m, w, p, l, k, ht⟩ := Chip.tapWatch_tampered (c.coresDown.setReg pgSec dbgStat 0) c.coresDown.testAccess
  have hclosed : c.coresClosed = (c.coresDown.setReg pgSec dbgStat 0).tapWatch c.coresDown.testAccess := rfl
  have htime : c.coresClosed.time = c.time := by rw [hclosed, ht, hd]; rfl
  have hfw : c.coresClosed.fw = { c.fw with doorbells := [] } := by rw [hclosed, ht, hd]; rfl
  show { c.coresClosed.setFlag pgPwr 0x1064 2 false with
    time := { c.coresClosed.time with servoGood := 0 }
    fw := { c.coresClosed.fw with
      image := [], slot := none, region := 0, update := none, loaded := false, quiesced := false, started := []
      coreLast := [], telem := none, telemShed := 0, calSaving := none, bootWaiting := true, coldBoot := false } } = _
  rw [htime, hfw]
  rfl

/-- The restart keeps the rest of the part: what the tamper logic can change beside it is in `Chip.Tampered`. -/
theorem Chip.coresClosed_tampered : (c.coresDown.setReg pgSec dbgStat 0).Tampered c.coresClosed :=
  Chip.tapWatch_tampered _ _

theorem Chip.coresClosed_idle (h : c.sec.tap ≠ .other) : c.coresClosed = c.coresDown.setReg pgSec dbgStat 0 := by
  obtain ⟨r, x, hd, _⟩ := c.coresDown_rest
  refine Chip.tapWatch_idle _ _ ?_
  rw [hd]
  exact h

theorem Chip.coresClosed_places : c.Places c.coresClosed 0 := by
  obtain ⟨r, x, hd, hp, _⟩ := c.coresDown_rest
  refine le_trans ?_ (Chip.tapWatch_places (c.coresDown.setReg pgSec dbgStat 0) _)
  rw [hd]
  exact hp.ge

theorem Chip.coresClosed_reg {page off inst : Nat} (ho : off < 0x10000) (hd : off ≠ dbgStat)
    (h : off ∉ fwStat :: 0x102C :: indexOffs ++ tamperOffs) : c.coresClosed.reg page off inst = c.reg page off inst := by
  simp only [List.mem_append, not_or] at h
  obtain ⟨hdown, htamper⟩ := h
  have hver : off ≠ 0x1004 := fun he => htamper (he ▸ by decide)
  rw [Chip.coresClosed, Chip.closeDebug, Chip.tapWatch_reg _ _ ho htamper, Chip.reg_setReg_off _ (by decide) ho hd,
    Chip.coresDown_reg _ ho (by simp only [List.mem_cons, not_or] at hdown ⊢; exact ⟨hdown.1, hver, hdown.2⟩)]

/-- A register that neither the tamper logic nor the close of debug writes stands as the cores left it. -/
theorem Chip.mgmtRestart_reg {page off inst : Nat} (ho : off < 0x10000) (h : off ∉ 0x1064 :: dbgStat :: tamperOffs) :
    c.mgmtRestart.reg page off inst = c.coresDown.reg page off inst := by
  simp only [List.mem_cons, not_or] at h
  obtain ⟨hcal, hdbg, htamper⟩ := h
  rw [c.mgmtRestart_eq]
  show (c.coresClosed.setFlag pgPwr 0x1064 2 false).reg page off inst = _
  rw [Chip.reg_setFlag_other _ _ _ (regKey_ne_of_off ho (by decide) hcal), Chip.coresClosed, Chip.closeDebug,
    Chip.tapWatch_reg _ _ ho (by simpa [tamperOffs] using htamper), Chip.reg_setReg_off _ (by decide) ho hdbg]

theorem Chip.coresDown_fwStat : c.coresDown.reg (pgMbx 0) fwStat = 0x3C0 := by
  rw [Chip.coresDown, Chip.reg_setReg_off _ (by decide) (by decide) (by decide),
    Chip.reg_setReg_off _ (by decide) (by decide) (by decide), Chip.reg_setReg]

theorem Chip.mgmtRestart_fwStat : c.mgmtRestart.reg (pgMbx 0) fwStat = 0x3C0 := by
  rw [c.mgmtRestart_reg (by decide) (by decide), c.coresDown_fwStat]

theorem Chip.mgmtRestart_places : c.Places c.mgmtRestart 0 := by
  rw [c.mgmtRestart_eq]
  exact c.coresClosed_places

/-- What the restart leaves of the fuse groups under programming. -/
theorem Chip.mgmtRestart_groups :
    c.mgmtRestart.sec.programming = c.sec.programming ∧ c.mgmtRestart.sec.partGroup = c.sec.partGroup := by
  obtain ⟨_, _, hd, _⟩ := c.coresDown_rest
  obtain ⟨_, _, _, _, _, _, _, _, ht⟩ := c.coresClosed_tampered
  rw [c.mgmtRestart_eq]
  show c.coresClosed.sec.programming = _ ∧ c.coresClosed.sec.partGroup = _
  rw [ht, hd]
  exact ⟨rfl, rfl⟩
end

/-! A step on an empty queue -/

/-- The programming of a fuse group ends with a restart of the cores (R348). -/
theorem Chip.fuseEnd_ends {c : Chip} (h : c.sec.programming = true) (hu : c.standbyUp = true) :
    c.fuseEnd.sec.programming = false ∧ c.fuseEnd.sec.partGroup = false ∧ c.fuseEnd.fw.bootWaiting = true ∧
      c.fuseEnd.fwState = 0 ∧ c.Places c.fuseEnd 1 := by
  rw [Chip.fuseEnd, if_pos (by rw [h, hu]; rfl)]
  generalize hd : c.finishFuses.raise (evP pgSec 0x0703 dieM c.sec.life) = d
  have hsec : d.sec = c.finishFuses.sec := by
    obtain ⟨_, _, _, hr⟩ := c.finishFuses.raise_rest (evP pgSec 0x0703 dieM c.sec.life)
    rw [← hd, hr]
  obtain ⟨hprog, hpart⟩ := d.mgmtRestart_groups
  have hplaces : c.Places d 1 := hd ▸ c.finishFuses.raise_places _
  refine ⟨hprog.trans (by rw [hsec]; rfl), hpart.trans (by rw [hsec]; rfl), ?_, ?_, hplaces.trans d.mgmtRestart_places⟩
  · rw [d.mgmtRestart_eq]
    rfl
  · rw [Chip.fwState, Chip.field, d.mgmtRestart_fwStat]
    decide

/-- One unit of the local reference changes fabric time alone. -/
theorem Chip.tick_rest (c : Chip) : c.tick = { c with time := c.tick.time } := by
  unfold Chip.tick
  split <;> rfl

theorem Chip.tick_stopped {c : Chip} (h : c.time.running = false) : c.tick = c := if_neg (by rw [h]; decide)

/-- Settles O1: a step with a command in front is its meaning, and a step without is a unit of time with the end of what
is programmed. -/
theorem stepRunsTheFrontCommand : Obligations.StepRunsTheFrontCommand := by
  unfold Obligations.StepRunsTheFrontCommand
  refine ⟨fun i s => rfl, fun s hp => ⟨s.tick, by rw [step, hp], ?_, s.tick_vault, s.tick_plane, fun hn => ?_, fun hy hu => ?_⟩⟩
  · unfold State.tick
    split <;> exact hp
  · have htick : s.tick = { s with chip := s.chip.tick } := if_neg (by rw [hn]; decide)
    rw [htick]
    refine ⟨s.chip.tick_rest, fun hr => ?_⟩
    rw [Chip.tick_stopped hr]
  · have htick : s.tick = { s with chip := Chip.settleAlerts s.chip s.chip.tick.fuseEnd } := if_pos hy
    have hends : _ ∧ _ ∧ _ ∧ _ ∧ s.chip.tick.Places _ 1 := Chip.fuseEnd_ends
      (c := s.chip.tick) (by rw [s.chip.tick_rest]; exact hy) (by rw [s.chip.tick_rest]; exact hu)
    rw [s.chip.tick_rest] at hends
    rw [htick, s.chip.tick_rest]
    exact hends

/-- Settles O2: a command answers a next state with the queue it was given, and an empty queue stays empty. -/
theorem everyStepTakesOneCommand : Obligations.EveryStepTakesOneCommand := by
  unfold Obligations.EveryStepTakesOneCommand
  intro s
  cases hp : s.pending with
  | nil =>
    have hs : step s = .next s.tick := by rw [step, hp]
    refine ⟨hs ▸ trivial, fun t ht => ?_⟩
    cases hs.symm.trans ht
    unfold State.tick
    split <;> exact hp
  | cons i rest =>
    have hs : step s = exec i { s with pending := rest } := by rw [step, hp]
    obtain ⟨c, hc⟩ := exec_next i { s with pending := rest }
    rw [hs]
    exact ⟨hc ▸ trivial, fun t ht => exec_pending ht⟩

/-! The alert causes (R464) -/

section
variable (a b : Chip)

theorem Chip.settleAlerts_phase : (Chip.settleAlerts a b).phase = b.phase := rfl

theorem Chip.settleAlerts_alertSrc : (Chip.settleAlerts a b).boot.alertSrc = b.boot.alertSrc |||
    (b.smbStatusWord &&& ~~~a.smbStatusWord &&& 0x76) |||
    (if b.phase = phReady then a.smbStatusWord &&& ~~~b.smbStatusWord &&& 0x09 else 0) := rfl

/-- SMB_ALERT_N is low where a cause is set. -/
theorem Chip.smbAlertN_low {c : Chip} {k : Nat} (h : c.boot.alertSrc.getLsbD k = true) : c.smbAlertN = false := by
  refine decide_eq_false fun h0 => ?_
  simp [h0] at h

/-- A STATUS bit that rises sets its cause. -/
theorem Chip.settleAlerts_rises {k : Nat} (hk : k ∈ [1, 2, 4, 5, 6]) (h0 : a.smbStatusWord.getLsbD k = false)
    (h1 : b.smbStatusWord.getLsbD k = true) : (Chip.settleAlerts a b).boot.alertSrc.getLsbD k = true := by
  have hmask : (0x76 : BitVec 16).getLsbD k = true := by clear h0 h1; revert k; decide
  have hlt : k < 16 := by clear h0 h1 hmask; revert k; decide
  simp only [Chip.settleAlerts_alertSrc, BitVec.getLsbD_or, BitVec.getLsbD_and, BitVec.getLsbD_not, h0, h1, hmask, hlt]
  simp

/-- A STATUS bit that falls in READY sets its cause. -/
theorem Chip.settleAlerts_falls {k : Nat} (hk : k ∈ [0, 3]) (hr : b.phase = phReady)
    (h1 : a.smbStatusWord.getLsbD k = true) (h0 : b.smbStatusWord.getLsbD k = false) :
    (Chip.settleAlerts a b).boot.alertSrc.getLsbD k = true := by
  have hmask : (0x09 : BitVec 16).getLsbD k = true := by clear h0 h1; revert k; decide
  have hlt : k < 16 := by clear h0 h1 hmask; revert k; decide
  simp only [Chip.settleAlerts_alertSrc, hr, if_true, BitVec.getLsbD_or, BitVec.getLsbD_and, BitVec.getLsbD_not, h0, h1,
    hmask, hlt]
  simp
end

/-- Settles O3: every command settles the alert causes on the part that it answers. -/
theorem alertCausesFollowTheStatus : Obligations.AlertCausesFollowTheStatus := by
  unfold Obligations.AlertCausesFollowTheStatus
  intro i s t h
  obtain ⟨c, hc⟩ := exec_next i s
  cases hc.symm.trans h
  refine ⟨fun k hk h0 h1 => ?_, fun k hk hr h1 h0 => ?_⟩
  · have hset := Chip.settleAlerts_rises s.chip c hk h0 h1
    exact ⟨hset, Chip.smbAlertN_low hset⟩
  · have hset := Chip.settleAlerts_falls s.chip c hk hr h1 h0
    exact ⟨hset, Chip.smbAlertN_low hset⟩

/-! The SMBus (R463, R464) -/

/-- A transaction that the target answers while V0 runs. -/
theorem exec_smbServe {i : Instr} {s : State} {f : Chip → Chip} {k : Chip} (hv : s.chip.v0Up = true)
    (he : exec i s = s.run fun c => c.smbServe f) (hf : f s.chip = k) (hk : k.smbStatusWord = s.chip.smbStatusWord) :
    exec i s = .next (s.put k) := by
  have hs : s.chip.smbServe f = k := (if_pos hv).trans hf
  rw [he, State.run_eq_put (by rw [hs, hk]), hs]

/-- Settles O4: each read is one answer on the bus, and a clear keeps the causes whose bits are not written. -/
theorem smbusAnswersAndAlertsClear : Obligations.SmbusAnswersAndAlertsClear := by
  unfold Obligations.SmbusAnswersAndAlertsClear
  refine ⟨fun s mv die code hv => ?_, fun s v hv => ?_⟩
  · refine ⟨exec_smbServe hv rfl rfl rfl, exec_smbServe hv rfl rfl rfl, exec_smbServe hv rfl rfl rfl, exec_smbServe hv rfl rfl rfl,
      exec_smbServe hv rfl rfl rfl, exec_smbServe hv rfl rfl rfl, exec_smbServe hv rfl rfl rfl, exec_smbServe hv rfl rfl rfl,
      exec_smbServe hv rfl rfl rfl, exec_smbServe hv rfl rfl rfl, fun hc => ?_, fun n acked bs => ⟨rfl, rfl⟩⟩
    have hs : (if smbListed code.toNat then s.chip else s.chip.smbOut false []) = s.chip.smbOut false [] :=
      if_neg (by rw [hc]; decide)
    refine (State.run_eq_put (f := fun c => if smbListed code.toNat then c else c.smbOut false []) (by rw [hs]; rfl)).trans ?_
    rw [hs]
    rfl
  · have hclear : exec (.smbAlertSrcClear v true) s = .next (s.put { s.chip.smbOut true [] with
        boot := { s.chip.boot with alertSrc := s.chip.boot.alertSrc &&& ~~~v } }) :=
      exec_smbServe hv rfl (if_pos rfl) rfl
    refine ⟨⟨_, hclear, fun k => ?_, rfl⟩, ⟨_, exec_smbServe hv rfl rfl rfl, rfl⟩⟩
    by_cases hk : k < 16
    · simp [State.put, hk]
    · simp [State.put, BitVec.getLsbD_of_ge _ _ (Nat.le_of_not_lt hk)]

end Sys2Proof.Machine
end

section
/-! Wipes, tamper events and tokens (R344 to R350, R462). -/

namespace Sys2Proof.Machine

/-! The status flags -/

/-- The registers in which the status flags stand (R463). -/
def statusRegs : List (Nat × Nat) :=
  [(pgPwr, 0x1004), (pgPwr, 0x1008), (pgPwr, 0x1078), (pgThm, 0x100C), (pgSec, 0x1004)]

theorem statusRegs_bounds : ∀ r ∈ statusRegs, r.1 < 0x400 ∧ r.2 < 0x10000 := by decide

section
variable {c : Chip} {page off : Nat} {inst : Nat} (hp : page < 0x400) (ho : off < 0x10000) (h : (page, off) ∉ statusRegs)
include hp ho h

/-- A write of another register leaves the status flags. -/
theorem Chip.smbStatusWord_setReg_off (v : W32) : (c.setReg page off v inst).smbStatusWord = c.smbStatusWord := by
  have key : ∀ r ∈ statusRegs, (c.setReg page off v inst).reg r.1 r.2 = c.reg r.1 r.2 := fun r hr => by
    refine c.reg_setReg_other v fun he => h ?_
    obtain ⟨hpage, hoff⟩ := statusRegs_bounds r hr
    obtain ⟨h1, h2, _⟩ := regKey_inj hpage hoff hp ho he
    exact h1 ▸ h2 ▸ hr
  have h1 := key (pgPwr, 0x1004) (by decide)
  have h2 := key (pgPwr, 0x1008) (by decide)
  have h3 := key (pgPwr, 0x1078) (by decide)
  have h4 := key (pgThm, 0x100C) (by decide)
  have h5 := key (pgSec, 0x1004) (by decide)
  simp only [Chip.smbStatusWord, Chip.phase, Chip.flag, Chip.field, h1, h2, h3, h4, h5, Chip.setReg_flt]
  congr

theorem Chip.smbStatusWord_setFlag_off (i : Nat) (b : Bool) :
    (c.setFlag page off i b inst).smbStatusWord = c.smbStatusWord := Chip.smbStatusWord_setReg_off hp ho h _

theorem Chip.smbStatusWord_setField_off (lo w v : Nat) :
    (c.setField page off lo w v inst).smbStatusWord = c.smbStatusWord := Chip.smbStatusWord_setReg_off hp ho h _
end

section
variable {c : Chip} {off : Nat} {inst : Nat} (ho : off < 0x10000) (h : off ≠ tamperStat)
include ho h

theorem Chip.smbStatusWord_setSec (v : W32) : (c.setReg pgSec off v inst).smbStatusWord = c.smbStatusWord :=
  Chip.smbStatusWord_setReg_off (by decide) ho (by simp [statusRegs, pgPwr, pgThm, pgSec, tamperStat] at h ⊢; exact h) v

theorem Chip.smbStatusWord_setSecFlag (i : Nat) (b : Bool) :
    (c.setFlag pgSec off i b inst).smbStatusWord = c.smbStatusWord := Chip.smbStatusWord_setSec ho h _

theorem Chip.smbStatusWord_setSecField (lo w v : Nat) :
    (c.setField pgSec off lo w v inst).smbStatusWord = c.smbStatusWord := Chip.smbStatusWord_setSec ho h _
end

/-! Wipes (R344, R345) -/

section
variable (c : Chip)

/-- A wipe that starts leaves the status flags. -/
theorem Chip.smbStatusWord_startWipe (cause : Nat) : (c.startWipe cause).smbStatusWord = c.smbStatusWord :=
  (Chip.smbStatusWord_setSecField (c := c.setFlag pgSec wipeStat 0 true) (by decide) (by decide) 3 3 cause).trans
    (Chip.smbStatusWord_setSecFlag (by decide) (by decide) 0 true)

theorem Chip.smbStatusWord_lockKeys : c.lockKeys.smbStatusWord = c.smbStatusWord :=
  Chip.smbStatusWord_setSecFlag (by decide) (by decide) 2 true

/-- The store once the writes that waited for a wipe have been made. -/
def Chip.storeAfter (closed : Bool) : Tbl Byte :=
  if closed then c.sec.store else c.sec.storeWaits.foldl (fun m w => putBytes m w.1 w.2) c.sec.store

/-- What a wipe that ends leaves of the store and of what waited for it. -/
theorem Chip.storeResume_eq {closed : Bool} (h : c.storeClosed = closed) : c.storeResume =
    { c with sec := { c.sec with store := c.storeAfter closed, storeWaits := [] } } := by
  subst h
  rfl

theorem Chip.afterWipe_free {closed : Bool} (v : Bool) (h : c.storeClosed = closed) (hs : c.sec.scopePending = none)
    (ht : c.sec.transition = none) :
    c.afterWipe v = { c with sec := { c.sec with store := c.storeAfter closed, storeWaits := [] } } := by
  simp only [Chip.afterWipe, c.storeResume_eq h, hs, ht]

/-- A debug scope that waited opens where the wipe has verified (R350). -/
theorem Chip.afterWipe_scope {closed : Bool} {scope : BitVec 8} (v : Bool) (h : c.storeClosed = closed)
    (hs : c.sec.scopePending = some scope) (ht : c.sec.transition = none) : c.afterWipe v =
      { (if v then c.setReg pgSec dbgStat (BitVec.ofNat 32 (1 + scope.toNat * 256)) else c) with
        sec := { c.sec with store := c.storeAfter closed, storeWaits := [], scopePending := none } } := by
  cases v <;> simp only [Chip.afterWipe, c.storeResume_eq h, hs, ht] <;> rfl

/-- A transition that waited is entered (R348). -/
theorem Chip.afterWipe_transition {closed : Bool} {l : Nat} {o : BitVec 384} (v : Bool) (h : c.storeClosed = closed)
    (ht : c.sec.transition = some (l, o)) : ∃ d : Chip, c.afterWipe v = d.enterLife l o ∧
      (∃ p, d.sec = { c.sec with store := c.storeAfter closed, storeWaits := [], scopePending := p }) ∧
      d.plane = c.plane ∧ d.reg pgSec wipeStat = c.reg pgSec wipeStat := by
  simp only [Chip.afterWipe, c.storeResume_eq h]
  cases hs : c.sec.scopePending with
  | none =>
    simp only [ht]
    exact ⟨_, rfl, ⟨none, rfl⟩, rfl, rfl⟩
  | some scope =>
    cases v <;> simp only [ht, Bool.false_eq_true, if_false, if_true]
    · exact ⟨_, rfl, ⟨_, rfl⟩, rfl, rfl⟩
    · exact ⟨_, rfl, ⟨_, rfl⟩, rfl, Chip.reg_setReg_off _ (by decide) (by decide) (by decide)⟩

/-- A state of the life cycle is entered, with the first fuse of its group (R348). -/
def SecSt.entered (x : SecSt) (l : Nat) (o : BitVec 384) : SecSt :=
  { x with
    life := l, transition := none, partGroup := true, programming := true
    ownerHash := if l = 1 then o else x.ownerHash, rootErased := x.rootErased || decide (l = 3) }

theorem Chip.enterLife_eq (l : Nat) (o : BitVec 384) :
    c.enterLife l o = Chip.tapWatch { c with sec := c.sec.entered l o } c.testAccess := rfl

theorem Chip.enterLife_sec (l : Nat) (o : BitVec 384) : ∃ m w p k t, (c.enterLife l o).sec =
    { c.sec.entered l o with store := m, storeWaits := w, wipePass := p, keyLock := k, checking := t } := by
  obtain ⟨_, _, _, m, w, p, k, t, h⟩ := Chip.tapWatch_tampered { c with sec := c.sec.entered l o } c.testAccess
  exact ⟨m, w, p, k, t, by rw [c.enterLife_eq, h]⟩

theorem Chip.enterLife_idle (l : Nat) (o : BitVec 384) (h : c.sec.tap ≠ .other) :
    c.enterLife l o = { c with sec := c.sec.entered l o } := Chip.tapWatch_idle _ _ h

/-- A part whose wipe has verified: BUSY clears. -/
def Chip.wipeOver : Chip := c.setFlag pgSec wipeStat 0 false

theorem Chip.wipeOver_closed : c.wipeOver.storeClosed = c.storeClosed := Chip.flag_setFlag_other _ _ _ _ _ _ _ (by decide)

theorem Chip.smbStatusWord_wipeOver : c.wipeOver.smbStatusWord = c.smbStatusWord :=
  Chip.smbStatusWord_setSecFlag (by decide) (by decide) 0 false

/-- A part whose store is closed after a second pass that failed (R345). -/
def Chip.wipeFailed : Chip := (c.wipeOver.setFlag pgSec wipeStat 1 true).raise (evP pgSec 0x0702 dieM 0)

theorem Chip.wipeFailed_closed : c.wipeFailed.storeClosed = true := by
  rw [Chip.storeClosed, Chip.flag, Chip.wipeFailed, Chip.raise_reg_off _ _ (by decide) (by decide)]
  exact Chip.flag_setFlag _ _ _ _ _ _ (by decide)

theorem Chip.wipeFailed_sec : c.wipeFailed.sec = c.sec := by
  obtain ⟨_, _, _, h⟩ := (c.wipeOver.setFlag pgSec wipeStat 1 true).raise_rest (evP pgSec 0x0702 dieM 0)
  rw [Chip.wipeFailed, h]
  rfl

theorem Chip.wipeFailed_dbgStat : c.wipeFailed.reg pgSec dbgStat = c.reg pgSec dbgStat := by
  rw [Chip.wipeFailed, Chip.raise_reg_off _ _ (by decide) (by decide),
    Chip.reg_setFlag_other _ _ _ (regKey_ne_of_off (by decide) (by decide) (by decide))]
  exact Chip.reg_setFlag_other _ _ _ (regKey_ne_of_off (by decide) (by decide) (by decide))

theorem Chip.wipeDone_idle (z : Bool) (h : c.wiping = false) : c.wipeDone z = c := if_pos (by rw [h]; rfl)

theorem Chip.wipeDone_passes (h : c.wiping = true) : c.wipeDone true = c.wipeOver.afterWipe true := by
  simp only [Chip.wipeDone, h, Bool.not_true, Bool.false_eq_true, if_false, if_true]
  rfl

theorem Chip.wipeDone_repeats (h : c.wiping = true) (hp : c.sec.wipePass = 0) :
    c.wipeDone false = { c with sec := { c.sec with wipePass := 1 } } := by
  simp only [Chip.wipeDone, h, hp, Bool.not_true, Bool.false_eq_true, if_false, if_true]

theorem Chip.wipeDone_fails (h : c.wiping = true) (hp : c.sec.wipePass ≠ 0) :
    c.wipeDone false = c.wipeFailed.afterWipe false := by
  simp only [Chip.wipeDone, h, hp, Bool.not_true, Bool.false_eq_true, if_false]
  rfl
end

/-- The end of a wipe while the standby half works. -/
theorem exec_wipeDone {s : State} {k : Chip} (z : Bool) (hu : s.chip.standbyUp = true) (h : s.chip.wipeDone z = k) :
    exec (.wipeDone z) s = .next (s.after k) := exec_gated (·.standbyUp) (·.wipeDone z) rfl hu h

theorem exec_wipeDone_put {s : State} {k : Chip} (z : Bool) (hu : s.chip.standbyUp = true) (h : s.chip.wipeDone z = k)
    (hk : k.smbStatusWord = s.chip.smbStatusWord) : exec (.wipeDone z) s = .next (s.put k) :=
  exec_gated_put (·.standbyUp) (·.wipeDone z) rfl hu h hk

/-- Settles O9: a wipe that ends by whether it found zeros, and what waited for it by what that was. -/
theorem wipesStartAndEnd : Obligations.WipesStartAndEnd := by
  unfold Obligations.WipesStartAndEnd
  intro s hsec hu c idle sec closed
  refine ⟨?_, fun z hz => ?_, fun hw => ⟨fun hs ht => ?_, fun scope hs ht => ?_, fun l o ht => ?_, fun hp => ?_,
    fun hp hs ht => ?_, fun hp hs ht => ?_⟩⟩
  · exact exec_gated_put (·.serves pgSec) (·.startWipe wcHost) rfl hsec rfl (c.smbStatusWord_startWipe _)
  · exact exec_gated_self (·.standbyUp) (·.wipeDone z) rfl hu (c.wipeDone_idle z hz)
  · exact exec_wipeDone_put true hu
      ((c.wipeDone_passes hw).trans (c.wipeOver.afterWipe_free true c.wipeOver_closed hs ht)) c.smbStatusWord_wipeOver
  · refine exec_wipeDone_put true hu ((c.wipeDone_passes hw).trans ?_) ?_
    · rw [c.wipeOver.afterWipe_scope true c.wipeOver_closed hs ht, Nat.add_comm]
      rfl
    · exact (Chip.smbStatusWord_setSec (c := c.wipeOver) (by decide) (by decide) _).trans c.smbStatusWord_wipeOver
  · obtain ⟨d, hd, ⟨p, hdsec⟩, hplane, hwipe⟩ := c.wipeOver.afterWipe_transition true c.wipeOver_closed ht
    obtain ⟨m, w, q, k, t, he⟩ := d.enterLife_sec l o
    refine ⟨_, exec_wipeDone true hu ((c.wipeDone_passes hw).trans hd), rfl, ?_⟩
    show (d.enterLife l o).sec.life = l ∧ _
    simp only [State.after, Chip.settleAlerts_sec, Chip.settleAlerts_flag, Chip.settleAlerts_plane, he]
    refine ⟨rfl, rfl, by rw [SecSt.entered, hdsec]; rfl, by rw [SecSt.entered, hdsec]; rfl, rfl, rfl, fun htap => ?_, ?_⟩
    · have hidle : d.enterLife l o = { d with sec := d.sec.entered l o } := d.enterLife_idle l o (by rw [hdsec]; exact htap)
      refine ⟨?_, ?_⟩
      · rw [hidle]
        show (d.reg pgSec wipeStat).getLsbD 0 = false
        rw [hwipe]
        exact Chip.flag_setFlag _ _ _ _ _ _ (by decide)
      · have hstore : (d.enterLife l o).sec.store = m := by rw [he]
        rw [← hstore, hidle]
        show d.sec.store = _
        rw [hdsec]
        rfl
    · rw [d.enterLife_plane, hplane]
      rfl
  · exact exec_wipeDone_put false hu (c.wipeDone_repeats hw hp) rfl
  · refine exec_wipeDone false hu ((c.wipeDone_fails hw hp).trans ?_)
    rw [c.wipeFailed.afterWipe_free false c.wipeFailed_closed (by rw [c.wipeFailed_sec]; exact hs)
      (by rw [c.wipeFailed_sec]; exact ht), c.wipeFailed_sec]
    show ({ c.wipeFailed with sec := { c.sec with store := c.wipeFailed.sec.store, storeWaits := [] } } : Chip) = _
    rw [c.wipeFailed_sec]
    rfl
  · obtain ⟨scope, hsome⟩ := Option.ne_none_iff_exists'.1 hs
    refine ⟨_, exec_wipeDone false hu ((c.wipeDone_fails hw hp).trans (c.wipeFailed.afterWipe_scope false
      c.wipeFailed_closed (by rw [c.wipeFailed_sec]; exact hsome) (by rw [c.wipeFailed_sec]; exact ht))), rfl, rfl, ?_, ?_⟩
    · exact c.wipeFailed_closed
    · exact c.wipeFailed_dbgStat

/-! Tamper events (R347, R462) -/

/-- What a detection answers, by whether its source is watched and by the state of the life cycle. -/
theorem exec_tamper {i : Instr} {s : State} {c : Chip} {src : Nat} (hi : exec i s = .next (s.after (c.tamper src)))
    (hs : c.smbStatusWord = s.chip.smbStatusWord) :
    (c.tamperWatched src = true → c.sec.life = 0 → exec i s = .next (s.after (c.tamperSeen src))) ∧
    (c.tamperWatched src = true → c.sec.life ≠ 0 → exec i s = .next (s.after (c.tamperSeen src).tamperReacts)) ∧
    (¬ c.tamperWatched src = true → exec i s = .next (s.put c)) := by
  refine ⟨fun hw hl => ?_, fun hw hl => ?_, fun hw => ?_⟩
  · rw [hi, c.tamper_blank src hw hl]
  · rw [hi, c.tamper_acts src hw hl]
  · rw [hi, c.tamper_unwatched src (Bool.eq_false_iff.2 hw), State.after, Chip.settleAlerts_of_status hs, State.put]

/-- An instruction of the test access port is held in its register (R462). -/
def Chip.tapHeld (c : Chip) (ir : TapInstr) : Chip := { c with sec := { c.sec with tap := ir } }

/-- What the tamper logic makes of an instruction that is held. -/
def Chip.tapTake (ir : TapInstr) (c : Chip) : Chip := if ir = .other then (c.tapHeld ir).tamper 6 else c.tapHeld ir

theorem exec_tapInstruction {s : State} (ir : TapInstr) (hv : s.chip.boot.vin3v3 = true) {k : Chip}
    (hk : s.chip.tapTake ir = k) : exec (.tapInstruction ir) s = .next (s.after k) :=
  exec_gated (·.boot.vin3v3) (Chip.tapTake ir) rfl hv hk

/-- Settles O10: a detection is recorded and acts, and an instruction of the access port is held before it is watched. -/
theorem tamperEventsWipeAndLock : Obligations.TamperEventsWipeAndLock := by
  unfold Obligations.TamperEventsWipeAndLock
  intro s watched record react answers
  have hrecord : ∀ c src, record c src = c.tamperSeen src := fun _ _ => rfl
  have hreact : ∀ c, react c = c.tamperReacts := fun _ => rfl
  have key : ∀ (i : Instr) (c : Chip) (src : Nat), exec i s = .next (s.after (c.tamper src)) →
      c.smbStatusWord = s.chip.smbStatusWord → answers i c src := fun i c src hi hs => by
    obtain ⟨hblank, hacts, hoff⟩ := exec_tamper hi hs
    rw [c.tamperWatched_iff src] at hblank hacts hoff
    simp only [answers, hrecord, hreact]
    exact ⟨hblank, hacts, hoff⟩
  refine ⟨fun hv => ⟨fun src => key _ _ _ (exec_gated (·.boot.vin3v3) (·.tamper src.val) rfl hv rfl) rfl, fun ir hir => ?_,
    key _ (s.chip.tapHeld .other) _ (exec_tapInstruction .other hv (if_pos rfl)) rfl⟩, fun hv => ⟨fun src => ?_, fun ir => ?_⟩⟩
  · rw [exec_tapInstruction ir hv (if_neg hir), State.after, Chip.settleAlerts_of_status (a := s.chip) (b := s.chip.tapHeld ir) rfl]
    rfl
  · exact State.run_eq_self (if_neg (by rw [hv]; decide))
  · exact State.run_eq_self (if_neg (by rw [hv]; decide))

end Sys2Proof.Machine
end

section
/-! The checks of a token and its commands (R349, R350). -/

namespace Sys2Proof.Machine

/-! Bytes -/

theorem natOfBE_one (b : Byte) : natOfBE [b] = b.toNat := by simp [natOfBE]

/-- A byte of a token, read as a field of one byte; past the end it is 0. -/
theorem natOfBE_slice_one (t : List Byte) (i : Nat) : natOfBE ((t.drop i).take 1) = byteAt t i := by
  by_cases h : i < t.length
  · rw [List.drop_eq_getElem_cons h, List.take_succ_cons, List.take_zero, natOfBE_one, byteAt, List.getD_eq_getElem _ _ h]
  · rw [List.drop_eq_nil_of_le (by omega), byteAt, List.getD_eq_default _ _ (by omega)]
    rfl

/-! The checks, in the order of R349 -/

/-- The checks of a token and the codes of their failures. -/
def Chip.tokenChecks (c : Chip) (k : TokenCheck) : List (Nat × Bool) :=
  [(1, tokenForm k.token), (2, typeOk c.sec.life (tkType k.token)),
   (3, slice k.token 8 16 = idBytes c.sec.deviceId), (4, k.chal.map idBytes = some (slice k.token 24 16)),
   (5, sha384 (tkKey k.token) = if tkType k.token = 2 then Config.provisioningKeyHash else c.sec.ownerHash),
   (6, signatureValid (tkKey k.token) (sha384 (k.token.take 192)) (slice k.token 192 96)), (7, !k.tampered),
   (8, tkType k.token = 1 || (List.range 256).all (fun l => !c.livValid l))]

/-- The code of the first check that fails, 0 where none does. -/
def firstFailed (checks : List (Nat × Bool)) : Nat := ((checks.find? (fun q => !q.2)).map Prod.fst).getD 0

theorem firstFailed_cons (n : Nat) (b : Bool) (qs : List (Nat × Bool)) :
    firstFailed ((n, b) :: qs) = if b then firstFailed qs else n := by
  cases b <;> simp [firstFailed]

theorem Chip.tokenResult_eq (c : Chip) (k : TokenCheck) : c.tokenResult k = firstFailed (c.tokenChecks k) := by
  have hlast : (if tkType k.token ≠ 1 ∧ (List.range 256).any c.livValid = true then 8 else 0) =
      if tkType k.token = 1 ∨ (List.range 256).all (fun l => !c.livValid l) = true then 0 else 8 := by
    rw [← List.not_any_eq_all_not]
    by_cases h1 : tkType k.token = 1 <;> cases (List.range 256).any c.livValid <;> simp [h1]
  unfold Chip.tokenResult Chip.tokenChecks
  simp only [firstFailed_cons, Bool.not_eq_true', ← Bool.not_eq_true, ite_not, ne_eq, decide_eq_true_eq, Bool.or_eq_true] at hlast ⊢
  rw [hlast]
  rfl

/-- The types that a life-cycle state accepts, as a table (R348). -/
theorem typeOk_eq (life type : Nat) :
    typeOk life type = decide ((life, type) ∈ [(0, 2), (1, 1), (1, 3), (2, 1), (2, 4)]) := by
  unfold typeOk
  split <;> simp_all

/-! What a token check answers -/

section
variable (c : Chip) {k : TokenCheck}

/-- RESULT and the end of BUSY. -/
def Chip.tokenDone (r : Nat) : Chip := (c.setFlag pgSec tokStat 0 false).setField pgSec tokStat 8 4 r

theorem Chip.smbStatusWord_tokenDone (r : Nat) : (c.tokenDone r).smbStatusWord = c.smbStatusWord :=
  (Chip.smbStatusWord_setSecField (c := c.setFlag pgSec tokStat 0 false) (by decide) (by decide) _ _ _).trans
    (Chip.smbStatusWord_setSecFlag (by decide) (by decide) _ _)

/-- No check is under way. -/
def Chip.unchecked : Chip := { c with sec := { c.sec with checking := none } }

/-- An accepted token wipes the store and locks the keys, and its scope or its transition waits for the wipe. -/
def Chip.tokenWipes (cause : Nat) (scope : Option (BitVec 8)) (tr : Option (Nat × BitVec 384)) : Chip :=
  { ((c.setFlag pgSec wipeStat 0 true).setField pgSec wipeStat 3 3 cause).setFlag pgSec wipeStat 2 true with
    sec := { c.sec with
      checking := none, store := [], wipePass := 0, keyLock := true
      storeWaits := c.sec.storeWaits.filter (fun w => decide (w.1 < keyBase))
      scopePending := scope, transition := tr } }

theorem Chip.smbStatusWord_tokenWipes (cause : Nat) (scope : Option (BitVec 8)) (tr : Option (Nat × BitVec 384)) :
    (c.tokenWipes cause scope tr).smbStatusWord = c.smbStatusWord :=
  (Chip.smbStatusWord_lockKeys (c.startWipe cause)).trans (c.smbStatusWord_startWipe cause)

variable {c} (hk : c.sec.checking = some k)
include hk

theorem Chip.checkDone_refuses (hr : c.tokenResult k ≠ 0) :
    c.checkDone = (c.tokenDone (c.tokenResult k)).unchecked := by
  simp only [Chip.checkDone, hk, if_neg hr]
  rfl

theorem Chip.checkDone_accepts (hr : c.tokenResult k = 0) : c.checkDone = (c.tokenDone 0).unchecked.acceptToken k.token := by
  simp only [Chip.checkDone, hk, hr, if_true]
  rfl
end

section
variable (c : Chip) {t : List Byte}

theorem Chip.acceptToken_debug (h : tkType t = 1) : c.unchecked.acceptToken t =
    c.tokenWipes wcDebug (some (BitVec.ofNat 8 (tkScope t))) c.sec.transition := if_pos h

theorem Chip.acceptToken_transition (h : tkType t ≠ 1) : c.unchecked.acceptToken t =
    c.tokenWipes wcLifeCycle c.sec.scopePending (some (tkType t - 1, tkOwner t)) := if_neg h
end

theorem exec_tokenCheckDone {s : State} {k : Chip} (hu : s.chip.standbyUp = true) (h : s.chip.checkDone = k)
    (hk : k.smbStatusWord = s.chip.smbStatusWord) : exec .tokenCheckDone s = .next (s.put k) :=
  exec_gated_put (·.standbyUp) (·.checkDone) rfl hu h hk

/-! The token window and the challenge -/

theorem bytesLE_getD (n v j : Nat) (h : j < n) : (bytesLE n v).getD j 0 = BitVec.ofNat 8 (v / 256 ^ j) := by
  induction n generalizing v j with
  | zero => omega
  | succ n ih =>
    cases j with
    | zero => simp [bytesLE]
    | succ j =>
      rw [bytesLE, List.getD_cons_succ, ih _ _ (by omega), Nat.div_div_eq_div_mul, Nat.pow_succ, Nat.mul_comm 256]

/-- Blocks of one length: how many members they have together, and a member of one. -/
theorem length_blocks {α : Type} {m n : Nat} {f : Nat → List α} (hf : ∀ w, (f w).length = m) :
    ((List.range n).flatMap f).length = m * n := by
  induction n with
  | zero => simp
  | succ n ih => rw [List.range_succ, List.flatMap_append, List.length_append, ih]; simp [hf, Nat.mul_succ]

theorem getD_blocks {α : Type} {m n w j : Nat} {f : Nat → List α} (d : α) (hf : ∀ w, (f w).length = m) (hw : w < n)
    (hj : j < m) : ((List.range n).flatMap f).getD (m * w + j) d = (f w).getD j d := by
  induction n with
  | zero => omega
  | succ n ih =>
    have hlen : ((List.range n).flatMap f).length = m * n := length_blocks hf
    rw [List.range_succ, List.flatMap_append]
    by_cases hlt : w < n
    · have hin : m * w + j < m * n := by nlinarith
      rw [List.getD_append _ _ _ _ (by omega), ih hlt]
    · obtain rfl : w = n := by omega
      rw [List.getD_append_right _ _ _ _ (by omega), hlen]
      simp

/-- The token window (R349): 72 words, low byte first. -/
theorem Chip.tokenWindow_length (c : Chip) : c.tokenWindow.length = 288 := length_blocks fun _ => bytesLE_length _ _

theorem Chip.tokenWindow_getD (c : Chip) {w j : Nat} (hw : w < 72) (hj : j < 4) : c.tokenWindow.getD (4 * w + j) 0 =
    (c.reg pgSec (0x1100 + 4 * w)).extractLsb' (8 * j) 8 := by
  rw [Chip.tokenWindow, getD_blocks (m := 4) 0 (fun _ => bytesLE_length _ _) hw hj, bytesLE_getD _ _ _ hj]
  refine BitVec.eq_of_toNat_eq ?_
  rw [BitVec.extractLsb'_toNat, BitVec.toNat_ofNat, Nat.shiftRight_eq_div_pow, Nat.pow_mul]

theorem ofNat_fld {n : Nat} (x : BitVec n) (lo w : Nat) : BitVec.ofNat w (fld x lo w) = x.extractLsb' lo w := by
  refine BitVec.eq_of_toNat_eq ?_
  simp [fld, BitVec.extractLsb'_toNat]

theorem Chip.newChallenge_eq (c : Chip) :
    let x := Config.challenge c.fresh
    c.newChallenge = { ((((c.setReg pgSec 0x1030 (x.extractLsb' 0 32)).setReg pgSec 0x1034 (x.extractLsb' 32 32)).setReg
      pgSec 0x1038 (x.extractLsb' 64 32)).setReg pgSec 0x103C (x.extractLsb' 96 32)).setFlag pgSec 0x1024 1 true with
      fresh := c.fresh + 1 } := by
  intro x
  rw [← ofNat_fld x 0 32, ← ofNat_fld x 32 32, ← ofNat_fld x 64 32, ← ofNat_fld x 96 32]
  rfl

/-! The close of debug (R350) -/

section
variable (c : Chip)

/-- Debug that is open under a test instruction: its close brings about source 6 of R347. -/
theorem Chip.closeDebug_watches : ((c.setReg pgSec dbgStat 0).testAccess && !c.testAccess) = true ↔
    c.sec.tap = .other ∧ (c.sec.life = 1 ∨ c.sec.life = 2) ∧ c.flag pgSec dbgStat 8 = true := by
  have hflag : (c.setReg pgSec dbgStat 0).flag pgSec dbgStat 8 = false := by rw [Chip.flag, Chip.reg_setReg]; rfl
  simp only [Chip.testAccess, Chip.debugLocked, Chip.setReg_sec, hflag]
  by_cases htap : c.sec.tap = .other <;> by_cases hlife : c.sec.life = 1 ∨ c.sec.life = 2 <;> simp [htap, hlife]

theorem Chip.closeDebug_quiet
    (h : ¬ (c.sec.tap = .other ∧ (c.sec.life = 1 ∨ c.sec.life = 2) ∧ c.flag pgSec dbgStat 8 = true)) :
    c.closeDebug = c.setReg pgSec dbgStat 0 := if_neg fun hw => h (c.closeDebug_watches.1 hw)

theorem Chip.closeDebug_detects
    (h : c.sec.tap = .other ∧ (c.sec.life = 1 ∨ c.sec.life = 2) ∧ c.flag pgSec dbgStat 8 = true) :
    c.closeDebug = (c.setReg pgSec dbgStat 0).tamper 6 := if_pos (c.closeDebug_watches.2 h)
end

/-- Settles O11: a check by the first of the table that fails, and a submission by the check that it starts. -/
theorem tokensAreChallengedAndChecked : Obligations.TokensAreChallengedAndChecked := by
  unfold Obligations.TokensAreChallengedAndChecked
  refine ⟨fun s hu => ⟨fun hn => ?_, fun k hk => ?_⟩, fun s hsec => ⟨?_, fun hn => ?_, fun hn => ?_, fun hq => ?_, fun hq => ?_⟩⟩
  · exact exec_gated_self (·.standbyUp) (·.checkDone) rfl hu (by simp only [Chip.checkDone, hn])
  · intro b ttype checks result done wiping
    have htype : ttype = tkType k.token := natOfBE_slice_one _ 6
    have hscope : natOfBE (b 7 1) = tkScope k.token := natOfBE_slice_one _ 7
    have hchecks : checks = s.chip.tokenChecks k := by
      simp only [checks, htype, hscope, ← typeOk_eq]
      rfl
    have hresult : result = s.chip.tokenResult k := by rw [Chip.tokenResult_eq, ← hchecks]; rfl
    have hwiping : ∀ cause scope tr, wiping cause scope tr = (s.chip.tokenDone result).tokenWipes cause scope tr :=
      fun _ _ _ => rfl
    have hstatus : ∀ cause scope tr, (wiping cause scope tr).smbStatusWord = s.chip.smbStatusWord := fun _ _ _ =>
      (Chip.smbStatusWord_tokenWipes _ _ _ _).trans (s.chip.smbStatusWord_tokenDone _)
    refine ⟨fun hr => ?_, fun hr ht => ?_, fun hr ht => ?_⟩
    · refine exec_tokenCheckDone hu ?_ (s.chip.smbStatusWord_tokenDone _)
      rw [Chip.checkDone_refuses hk (hresult ▸ hr), ← hresult]
      rfl
    · refine exec_tokenCheckDone hu ?_ (hstatus _ _ _)
      rw [Chip.checkDone_accepts hk (hresult ▸ hr), Chip.acceptToken_debug _ (htype ▸ ht), hwiping, hr, hscope]
      rfl
    · refine exec_tokenCheckDone hu ?_ (hstatus _ _ _)
      rw [Chip.checkDone_accepts hk (hresult ▸ hr), Chip.acceptToken_transition _ (htype ▸ ht), hwiping, hr, htype]
      rfl
  · refine exec_gated_put (·.serves pgSec) (·.newChallenge) rfl hsec s.chip.newChallenge_eq ?_
    refine (Chip.smbStatusWord_setSecFlag (by decide) (by decide) _ _).trans ?_
    iterate 4 refine (Chip.smbStatusWord_setSec (by decide) (by decide) _).trans ?_
    rfl
  · exact exec_gated_self (·.serves pgSec) (·.submit) rfl hsec (if_pos (Option.isSome_iff_ne_none.2 hn))
  · refine ⟨⟨s.chip.tokenWindow, if s.chip.flag pgSec tokStat 1 then some s.chip.chalWords else none, false⟩, rfl,
      s.chip.tokenWindow_length, fun w hw j hj => s.chip.tokenWindow_getD hw hj, rfl, ?_⟩
    refine exec_gated_put (·.serves pgSec) (·.submit) rfl hsec (if_neg (by simp [hn])) ?_
    exact (Chip.smbStatusWord_setSecFlag (by decide) (by decide) _ _).trans
      (Chip.smbStatusWord_setSecFlag (by decide) (by decide) _ _)
  · exact exec_gated_put (·.serves pgSec) (·.closeDebug) rfl hsec (s.chip.closeDebug_quiet hq)
      (Chip.smbStatusWord_setSec (by decide) (by decide) _)
  · exact exec_gated (·.serves pgSec) (·.closeDebug) rfl hsec (s.chip.closeDebug_detects hq)

end Sys2Proof.Machine
end

section
/-! Flash programming and erasing (R357, R358). -/

namespace Sys2Proof.Machine

section
variable (m : Tbl Byte) (a x : Nat)

/-- A byte of the flash after programming: cleared bits stay cleared. -/
theorem get_program (bs : List Byte) : Tbl.get erased (program m a bs) x =
    if a ≤ x ∧ x < a + bs.length then Tbl.get erased m x &&& bs.getD (x - a) 0 else Tbl.get erased m x := by
  induction bs generalizing m a with
  | nil => rw [program, if_neg (by simp)]
  | cons b bs ih =>
    rw [program, ih, Tbl.get_set]
    simp only [List.length_cons]
    obtain hlt | rfl | hgt := lt_trichotomy x a
    · rw [if_neg (by omega), if_neg (by omega), if_neg (by omega)]
    · rw [if_neg (by omega), if_pos rfl, if_pos (by omega), Nat.sub_self, List.getD_cons_zero]
    · rw [if_neg (by omega : x ≠ a), show x - a = x - (a + 1) + 1 by omega, List.getD_cons_succ]
      by_cases hin : x < a + (bs.length + 1)
      · rw [if_pos (by omega), if_pos (by omega)]
      · rw [if_neg (by omega), if_neg (by omega)]

/-- A byte of a table from which a range was filtered. -/
theorem Tbl.get_filter {β : Type} (d : β) (t : Tbl β) (keep : Nat → Bool) (k : Nat) :
    Tbl.get d (t.filter fun kv => keep kv.1) k = if keep k then Tbl.get d t k else d := by
  induction t with
  | nil => simp
  | cons p t ih =>
    obtain ⟨j, v⟩ := p
    by_cases hj : keep j = true
    · rw [List.filter_cons_of_pos (p := fun kv : Nat × β => keep kv.1) hj]
      by_cases hjk : j = k
      · subst hjk
        simp [Tbl.get, hj]
      · simp only [Tbl.get, if_neg hjk, ih]
    · rw [List.filter_cons_of_neg (p := fun kv : Nat × β => keep kv.1) hj, ih]
      by_cases hjk : j = k
      · subst hjk
        simp [hj]
      · simp only [Tbl.get, if_neg hjk]
end

section
variable (c : Chip) (a x : Nat)

theorem Chip.flashByte_program (bs : List Byte) : (c.flashProgram a bs).flashByte x =
    if a ≤ x ∧ x < a + bs.length then c.flashByte x &&& bs.getD (x - a) 0 else c.flashByte x := get_program ..

theorem Chip.flashByte_erase (n : Nat) : (c.flashErase a n).flashByte x =
    if a ≤ x ∧ x < a + n then erased else c.flashByte x := by
  refine (Tbl.get_filter erased c.fw.flash (fun k => !decide (a ≤ k ∧ k < a + n)) x).trans ?_
  by_cases h : a ≤ x ∧ x < a + n
  · rw [if_pos h, if_neg (by simp [h])]
  · rw [if_neg h, if_pos (by rw [decide_eq_false h]; rfl)]
    rfl
end

/-! The STATE word of a slot (R358) -/

/-- A byte of the STATE word of a state. -/
def SlotState.byte (x : SlotState) (i : Nat) : Byte := (bytesLE 4 x.word).getD i 0

section
variable {c : Chip} {k : Nat} {x : SlotState}

/-- The STATE word by its four bytes. -/
theorem Chip.slotWord_bytes (c : Chip) (k : Nat) : c.slotWord k = (c.flashByte (slotBase k)).toNat +
    256 * (c.flashByte (slotBase k + 1)).toNat + 65536 * (c.flashByte (slotBase k + 2)).toNat +
    16777216 * (c.flashByte (slotBase k + 3)).toNat := by
  have hread : ∀ a, c.flashRead a 4 = [c.flashByte a, c.flashByte (a + 1), c.flashByte (a + 2), c.flashByte (a + 3)] :=
    fun _ => rfl
  rw [Chip.slotWord, hread]
  simp only [natOfLE, List.foldr]
  omega

/-- A state other than REJECTED has one STATE word. -/
theorem slotStateOf_word {w : Nat} (h : slotStateOf w = x) (hx : x ≠ .rejected) : w = x.word := by
  subst h
  unfold slotStateOf at hx ⊢
  split_ifs at hx ⊢ <;> first | assumption | exact absurd rfl hx

theorem slotStateOf_of_word (x : SlotState) : slotStateOf x.word = x := by cases x <;> rfl

/-- The bytes of a slot whose state is not REJECTED. -/
theorem Chip.flashByte_of_slotState (h : c.slotState k = x) (hx : x ≠ .rejected) {i : Nat} (hi : i < 4) :
    c.flashByte (slotBase k + i) = x.byte i := by
  have hword := (c.slotWord_bytes k).symm.trans (slotStateOf_word h hx)
  have h0 := (c.flashByte (slotBase k)).isLt
  have h1 := (c.flashByte (slotBase k + 1)).isLt
  have h2 := (c.flashByte (slotBase k + 2)).isLt
  have h3 := (c.flashByte (slotBase k + 3)).isLt
  refine BitVec.eq_of_toNat_eq ?_
  interval_cases i <;> cases x <;> simp [SlotState.byte, SlotState.word, bytesLE] at hword hx ⊢ <;> omega

theorem Chip.slotState_of_bytes (h : ∀ i < 4, c.flashByte (slotBase k + i) = x.byte i) : c.slotState k = x := by
  have hword : c.slotWord k = x.word := by
    have h0 : c.flashByte (slotBase k) = x.byte 0 := (Nat.add_zero (slotBase k)) ▸ h 0 (by decide)
    rw [c.slotWord_bytes, h0, h 1 (by decide), h 2 (by decide), h 3 (by decide)]
    cases x <;> rfl
  rw [Chip.slotState, hword, slotStateOf_of_word]

/-- A state whose STATE word clears no more bits than another's can be written over it. -/
theorem Chip.slotState_written {after : SlotState} (h : c.slotState k = x) (hx : x ≠ .rejected)
    (hbits : ∀ i < 4, x.byte i &&& after.byte i = after.byte i) : (c.writeSlotState k after).slotState k = after := by
  refine Chip.slotState_of_bytes fun i hi => ?_
  rw [Chip.writeSlotState, Chip.flashByte_program, if_pos ⟨by omega, by rw [bytesLE_length]; omega⟩,
    Chip.flashByte_of_slotState h hx hi, Nat.add_sub_cancel_left]
  exact hbits i hi
end

/-- Settles O14: each byte by itself, and a STATE word by its bytes. -/
theorem flashProgramsAndErases : Obligations.FlashProgramsAndErases := by
  unfold Obligations.FlashProgramsAndErases
  intro c a n x k bs
  refine ⟨fun j hj => ?_, fun hx => ?_, c.flashByte_erase a x n, fun before after hs ho => ?_, rfl, rfl⟩
  · rw [c.flashByte_program, if_pos ⟨by omega, by omega⟩, Nat.add_sub_cancel_left]
  · rw [c.flashByte_program, if_neg (by omega)]
  · have hlater : before ≠ .rejected ∧ ∀ i < 4, before.byte i &&& after.byte i = after.byte i := by
      clear hs
      revert before after
      simp only [List.mem_cons, List.not_mem_nil, or_false, Prod.mk.injEq]
      rintro _ _ (⟨rfl, rfl⟩ | ⟨rfl, rfl⟩ | ⟨rfl, rfl⟩ | ⟨rfl, rfl⟩ | ⟨rfl, rfl⟩ | ⟨rfl, rfl⟩ | ⟨rfl, rfl⟩ | ⟨rfl, rfl⟩) <;>
        decide
    exact Chip.slotState_written hs hlater.1 hlater.2

end Sys2Proof.Machine
end

section
/-! The PTP servo (R441, R446). -/

namespace Sys2Proof.Machine

section
variable (c : Chip) (offset : Int)

/-- The part at the end of an interval: the PTP messages go on to firmware. -/
def Chip.handedOn : Chip := { c with out := { c.out with toM0 := [] } }

/-- The count of intervals in lock range. -/
def Chip.servoGoodNext : Nat := if offset.natAbs ≤ 50 then c.time.servoGood + 1 else 0

/-- The part with TIM_SYNC_STAT written for an offset from the upstream clock. -/
def Chip.servoReported : Chip :=
  Chip.setReg { c.handedOn with time := { c.time with servoGood := c.servoGoodNext offset } } pgTim syncStat
    (BitVec.ofNat 32 ((lockedNext (c.flag pgTim syncStat 0) (c.servoGoodNext offset) offset.natAbs).toNat + 2 +
      min 0xFFFF offset.natAbs * 65536))

theorem Chip.servo_alone : c.servo offset false = { c.setFlag pgTim syncStat 1 false with
    time := { c.time with servoGood := 0 }, out := { c.out with toM0 := [] } } := rfl

theorem Chip.servo_exact : c.servo 0 true = c.servoReported 0 := rfl

theorem Chip.servo_corrects {offset : Int} (h : offset ≠ 0) : c.servo offset true = (c.servoReported offset).correct offset :=
  if_neg h

/-- LOCKED as a number. -/
theorem lockedNext_toNat (good mag : Nat) : (lockedNext (c.flag pgTim syncStat 0) good mag).toNat =
    if 16 ≤ good then 1 else if 500 < mag then 0 else c.field pgTim syncStat 0 1 := by
  have hflag : (c.flag pgTim syncStat 0).toNat = c.field pgTim syncStat 0 1 := by
    rw [Chip.flag, Chip.field, fld, Nat.shiftRight_zero, BitVec.getLsbD, Nat.testBit_zero]
    obtain h | h := Nat.mod_two_eq_zero_or_one (c.reg pgTim syncStat).toNat <;> rw [pow_one, h] <;> rfl
  unfold lockedNext
  split_ifs
  · rfl
  · rfl
  · exact hflag

theorem Chip.anyEnabled_iff : c.anyEnabled = true ↔ ∃ l < 256, c.ttEnabled l = true := by simp [Chip.anyEnabled]

/-- The report leaves the timetable page. -/
theorem Chip.servoReported_ttEnabled (l : Nat) : (c.servoReported offset).ttEnabled l = c.ttEnabled l := by
  rw [Chip.ttEnabled, Chip.flag, Chip.servoReported, Chip.reg_setReg_off _ (by decide) (by decide) (by decide)]
  rfl

theorem Chip.servoReported_anyEnabled : (c.servoReported offset).anyEnabled = c.anyEnabled :=
  congrArg (List.any _) (funext (c.servoReported_ttEnabled offset))

/-- The slew of a correction, to the limits of TIM_OFFSET. -/
def slewUnits (offset : Int) : Int := max (-2147483648) (min 2147483647 (-(offset * 256)))

theorem signed_slewUnits : signed 32 (BitVec.ofInt 32 (slewUnits offset)).toNat = slewUnits offset := by
  rw [signed_toNat, BitVec.toInt_ofInt]
  unfold slewUnits
  exact Int.bmod_eq_of_le (by omega) (by omega)

theorem Chip.correct_slews (h : (!c.anyEnabled && Config.servoSteps c.fresh) = false) : c.correct offset =
    { c.setFlag pgTim 0x1000 3 true with
      time := { c.time with slew := slewUnits offset * 1099511627776 }, fresh := c.fresh + 1 } := by
  have hslew : c.correct offset = (c.takeFresh.2).offsetWrite (BitVec.ofInt 32 (slewUnits offset)) :=
    if_neg (Bool.eq_false_iff.1 h)
  rw [hslew, Chip.offsetWrite, signed_slewUnits]
  rfl

/-- The part with a time in TIM_STEP. -/
def Chip.stepAimed (v : Nat) : Chip := (c.takeFresh.2.setReg pgTim 0x1014 (timeLo v)).setReg pgTim 0x1018 (timeHi v)

theorem Chip.stepAimed_target {v : Nat} (hv : v < 2 ^ 64) : (c.stepAimed v).stepTarget = v := by
  rw [Chip.stepTarget, Chip.stepAimed, Chip.reg_setReg, Chip.reg_setReg_off _ (by decide) (by decide) (by decide),
    Chip.reg_setReg]
  exact timeHi_timeLo hv

theorem Chip.correct_steps (h : c.anyEnabled = false) (hs : Config.servoSteps c.fresh = true) :
    c.correct offset = (c.stepAimed (toCode 64 ((c.time.now : Int) - offset * 256))).stepGo :=
  if_pos (by rw [Bool.and_eq_true, Bool.not_eq_true']; exact ⟨h, hs⟩)

theorem toCode_lt (w : Nat) (v : Int) : toCode w v < 2 ^ w := by
  unfold toCode
  have := Int.emod_lt_of_pos v (show (0 : Int) < ((2 ^ w : Nat) : Int) by positivity)
  have := Int.emod_nonneg v (show ((2 ^ w : Nat) : Int) ≠ 0 by positivity)
  omega
end

/-- Settles O7: an interval by whether a clock is upstream, and its correction by whether a livery is enabled. -/
theorem servoReportsAndCorrects : Obligations.ServoReportsAndCorrects := by
  unfold Obligations.ServoReportsAndCorrects
  intro s offset c good locked r units hserves hm0 hrun
  have hg : (c.serves pgTim && c.m0Up && decide (c.fwState = stRunning)) = true := by
    rw [hserves, hm0, decide_eq_true hrun]
    rfl
  have hexec : ∀ {up : Bool} {k : Chip}, c.servo offset up = k → exec (.ptpServoUpdate offset up) s = .next (s.after k) :=
    fun h => exec_gated (fun c => c.serves pgTim && c.m0Up && decide (c.fwState = stRunning)) (·.servo offset _) rfl hg h
  have hput : ∀ {up : Bool} {k : Chip}, c.servo offset up = k → k.smbStatusWord = c.smbStatusWord →
      exec (.ptpServoUpdate offset up) s = .next (s.put k) := fun h hk => by
    rw [hexec h, State.after, Chip.settleAlerts_of_status hk, State.put]
  have hr : r = c.servoReported offset := by
    simp only [r, Chip.servoReported, lockedNext_toNat]
    rfl
  have hrstatus : r.smbStatusWord = c.smbStatusWord := Chip.smbStatusWord_setReg _ _ _ (by decide) (by decide) (by decide)
  have hunits : units = slewUnits offset := by
    simp only [units, slewUnits, Int.mul_comm offset, Int.neg_mul]
    rfl
  refine ⟨hput (c.servo_alone offset) ?_, fun h0 => ?_, fun h0 hen => ?_, fun h0 hen hstep => ?_⟩
  · exact Chip.smbStatusWord_setReg _ _ _ (by decide) (by decide) (by decide)
  · refine hput ?_ hrstatus
    subst h0
    exact hr.symm
  · refine hput (k := _) ?_ ?_
    · rw [c.servo_corrects h0, ← hr, Chip.correct_slews, ← hunits]
      · rfl
      · rw [hr, Chip.servoReported_anyEnabled, c.anyEnabled_iff.2 hen]
        rfl
    · exact (Chip.smbStatusWord_setReg r _ _ (by decide) (by decide) (by decide)).trans hrstatus
  · have hoff : c.anyEnabled = false := Bool.eq_false_iff.2 fun h => by
      obtain ⟨l, hl, he⟩ := c.anyEnabled_iff.1 h
      exact absurd he (by rw [hen l hl]; decide)
    refine ⟨_, hexec (c.servo_corrects h0), rfl, ?_⟩
    rw [Chip.correct_steps _ _ ((c.servoReported_anyEnabled offset).trans hoff) hstep]
    generalize hv : toCode 64 (((c.servoReported offset).time.now : Int) - offset * 256) = v
    have htime := ((c.servoReported offset).stepAimed v).stepGo_time
    have htarget := (c.servoReported offset).stepAimed_target (hv ▸ toCode_lt 64 _ : v < 2 ^ 64)
    have hraised := ((c.servoReported offset).stepAimed v).stepGo_raised
    simp only [State.after, Chip.settleAlerts_time, Chip.settleAlerts_ev, htime, htarget]
    refine ⟨?_, trivial, hraised.1⟩
    rw [← hv, Int.mul_comm]
    rfl

end Sys2Proof.Machine
end

section
/-! Snapshots (R428 to R430, R482, R483): the triggers fix one latch time, and at it every enabled page latches. -/

namespace Sys2Proof.Machine

/-! The triggers -/

theorem ceilDiv_mul_least (n m : Nat) (hm : 0 < m) : n ≤ ceilDiv n m * m ∧ ∀ u, u % m = 0 → n ≤ u → ceilDiv n m * m ≤ u := by
  refine ⟨?_, fun u hu hn => ?_⟩
  · have := Nat.lt_div_mul_add (a := n + m - 1) hm
    unfold ceilDiv
    omega
  · obtain ⟨k, rfl⟩ := Nat.dvd_of_mod_eq_zero hu
    rw [Nat.mul_comm]
    refine Nat.mul_le_mul_left m (Nat.lt_succ_iff.1 ?_)
    rw [ceilDiv, Nat.div_lt_iff_lt_mul hm, Nat.succ_mul, Nat.mul_comm k]
    omega

section
variable (c : Chip) (src at_ : Nat)

theorem Chip.snapTrigger_fixes (ha : c.flag pgSnp 0x1000 0 = true) (hn : c.snap.due = none) : c.snapTrigger src at_ =
    { c.setReg pgSnp 0x1004 (BitVec.ofNat 32 (2 ^ src)) with snap := { c.snap with due := some at_ } } := by
  simp only [Chip.snapTrigger, ha, hn, if_true]

theorem Chip.snapTrigger_joins (ha : c.flag pgSnp 0x1000 0 = true) (hd : c.snap.due ≠ none) :
    c.snapTrigger src at_ = c.setFlag pgSnp 0x1004 src true := by
  obtain ⟨t, ht⟩ := Option.ne_none_iff_exists'.1 hd
  simp only [Chip.snapTrigger, ha, ht, if_true]

theorem Chip.snapTrigger_misses (ha : c.flag pgSnp 0x1000 0 = false) : c.snapTrigger src at_ = c.bump pgSnp 0x1080 :=
  if_neg (by rw [ha]; decide)

/-- A register of the SNP page leaves the status flags. -/
theorem Chip.smbStatusWord_setSnp {off : Nat} (v : W32) (ho : off < 0x10000) :
    (c.setReg pgSnp off v).smbStatusWord = c.smbStatusWord := c.smbStatusWord_setReg v 0 (by decide) (by decide) ho
end

/-- What a trigger answers once its enable holds. -/
theorem exec_snapTrigger {i : Instr} {s : State} {src at_ : Nat}
    (hi : exec i s = .next (s.after (s.chip.snapTrigger src at_))) :
    (s.chip.flag pgSnp 0x1000 0 = true → s.chip.snap.due = none → exec i s = .next (s.put
      { s.chip.setReg pgSnp 0x1004 (BitVec.ofNat 32 (2 ^ src)) with snap := { s.chip.snap with due := some at_ } })) ∧
    (s.chip.flag pgSnp 0x1000 0 = true → s.chip.snap.due ≠ none →
      exec i s = .next (s.put (s.chip.setFlag pgSnp 0x1004 src true))) ∧
    (s.chip.flag pgSnp 0x1000 0 = false → exec i s = .next (s.put (s.chip.bump pgSnp 0x1080))) := by
  refine ⟨fun ha hn => ?_, fun ha hd => ?_, fun ha => ?_⟩
  · rw [hi, s.chip.snapTrigger_fixes src at_ ha hn]
    exact congrArg _ (State.after_of_status (s.chip.smbStatusWord_setSnp (off := 0x1004) _ (by decide)))
  · rw [hi, s.chip.snapTrigger_joins src at_ ha hd]
    exact congrArg _ (State.after_of_status (s.chip.smbStatusWord_setSnp (off := 0x1004) _ (by decide)))
  · rw [hi, s.chip.snapTrigger_misses src at_ ha]
    exact congrArg _ (State.after_of_status (s.chip.smbStatusWord_bump 0 (by decide) (by decide) (by decide)))

/-! The shadows -/

section
variable {β : Type} (d : β)

/-- A key that a table does not list. -/
theorem Tbl.get_of_not_mem {t : Tbl β} {k : Nat} (h : ∀ p ∈ t, p.1 ≠ k) : Tbl.get d t k = d := by
  obtain hd | hm := Tbl.get_mem d (m := t) (k := k)
  · exact hd
  · exact absurd rfl (h _ hm)

theorem Tbl.get_append (t u : Tbl β) (k : Nat) :
    Tbl.get d (t ++ u) k = if ∃ p ∈ t, p.1 = k then Tbl.get d t k else Tbl.get d u k := by
  induction t with
  | nil => simp
  | cons p t ih =>
    obtain ⟨j, v⟩ := p
    by_cases hj : j = k
    · simp [Tbl.get, hj]
    · simp only [List.cons_append, Tbl.get, ih, List.mem_cons, exists_eq_or_imp, hj, false_or, if_false]

/-- A table made of one table for each member of a list, of which only one lists the key. -/
theorem Tbl.get_flatMap {α : Type} {xs : List α} {f : α → Tbl β} {x : α} {k : Nat} (hx : x ∈ xs)
    (h : ∀ y ∈ xs, y ≠ x → ∀ p ∈ f y, p.1 ≠ k) : Tbl.get d (xs.flatMap f) k = Tbl.get d (f x) k := by
  induction xs with
  | nil => simp at hx
  | cons y ys ih =>
    rw [List.flatMap_cons, Tbl.get_append]
    by_cases hy : y = x
    · subst hy
      split_ifs with hin
      · rfl
      · have hnone : ∀ p ∈ f y, p.1 ≠ k := fun p hp he => hin ⟨p, hp, he⟩
        rw [Tbl.get_of_not_mem d hnone]
        by_cases hys : y ∈ ys
        · rw [ih hys fun z hz => h z (List.mem_cons_of_mem _ hz), Tbl.get_of_not_mem d hnone]
        · refine Tbl.get_of_not_mem d fun p hp => ?_
          obtain ⟨z, hz, hpz⟩ := List.mem_flatMap.1 hp
          exact h z (List.mem_cons_of_mem _ hz) (fun he => hys (he ▸ hz)) p hpz
    · have hys : x ∈ ys := (List.mem_cons.1 hx).resolve_left (Ne.symm hy)
      rw [if_neg fun ⟨p, hp, he⟩ => h y (List.mem_cons_self ..) hy p hp he,
        ih hys fun z hz => h z (List.mem_cons_of_mem _ hz)]
end

section
variable (c : Chip) {p w : Nat}

/-- A page's shadows list keys of that page alone. -/
theorem Chip.mem_pageShadows {q : Nat} {kv : Nat × W32} (h : kv ∈ c.pageShadows q) : kv.1 / 1024 = q := by
  obtain ⟨x, hx, hkv⟩ := List.mem_flatMap.1 h
  have hlt : x < 960 := List.mem_range.1 hx
  simp only at hkv
  split_ifs at hkv
  · simp at hkv
  · rw [List.mem_singleton.1 hkv]
    omega

theorem Chip.pageShadows_get (hw : w < 960) : Tbl.get 0 (c.pageShadows p) (p * 1024 + w) = c.view p (0x1000 + 4 * w) := by
  rw [Chip.pageShadows, Tbl.get_flatMap (x := w) 0 (List.mem_range.2 hw) fun y _ hy kv hkv he => ?_]
  · dsimp only
    split_ifs with h
    · exact h.symm
    · simp [Tbl.get]
  · simp only at hkv
    split_ifs at hkv
    · simp at hkv
    · rw [List.mem_singleton.1 hkv] at he
      exact hy (by omega)

/-- A shadow after a latch. -/
theorem Chip.allShadows_get (hp : p < 1024) (hw : w < 960) : Tbl.get 0 c.allShadows (p * 1024 + w) =
    if c.latches p then c.view p (0x1000 + 4 * w) else Tbl.get 0 c.snap.shadows (p * 1024 + w) := by
  have hpage : (p * 1024 + w) / 1024 = p := by omega
  rw [Chip.allShadows, Tbl.get_flatMap (x := p) 0 (List.mem_range.2 hp) fun y _ hy kv hkv he => ?_]
  · split_ifs
    · exact c.pageShadows_get hw
    · exact (Tbl.get_filter 0 c.snap.shadows (fun k => decide (k / 1024 = p)) _).trans (if_pos (decide_eq_true hpage))
  · have hq : kv.1 / 1024 = y := by
      split_ifs at hkv
      · exact c.mem_pageShadows hkv
      · exact of_decide_eq_true (List.mem_filter.1 hkv).2
    rw [he, hpage] at hq
    exact hy hq.symm
end

/-! The latch -/

section
variable (c : Chip)

/-- The registers that the pages' status takes at a latch: BLK_STAT, BLK_SNAP_CTRL and BLK_SNAP_SEQ. -/
def pageOffs : List Nat := [0x14, 0x30, 0x34]

theorem Chip.pageTaken_reg (before : Chip) (q : Nat) (seq : W32) {page off inst : Nat} (ho : off < 0x10000)
    (h : off ∉ pageOffs) : (c.pageTaken before q seq).reg page off inst = c.reg page off inst := by
  have hk : ∀ o ∈ pageOffs, ∀ p, regKey page off inst ≠ regKey p o 0 := fun o hm p =>
    regKey_ne_of_off ho (by revert o; decide) fun he => h (he ▸ hm)
  have hseq : ((c.setFlag q 0x30 1 (before.latches q)).setReg q 0x34 seq).reg page off inst = c.reg page off inst := by
    rw [Chip.reg_setReg_other _ _ (hk _ (by decide) _), Chip.reg_setFlag_other _ _ _ (hk _ (by decide) _)]
  unfold Chip.pageTaken
  dsimp only
  split
  · rw [Chip.reg_setFlag_other _ _ _ (hk _ (by decide) _), hseq]
  · exact hseq

theorem Chip.pageTaken_rest (before : Chip) (q : Nat) (seq : W32) : ∃ r, c.pageTaken before q seq = { c with regs := r } := by
  unfold Chip.pageTaken
  dsimp only
  split <;> exact ⟨_, rfl⟩

/-- BLK_SNAP_SEQ of a page: written by its own status alone. -/
theorem Chip.pageTaken_seq (before : Chip) (q p : Nat) (seq : W32) (hp : p < 0x400) (hq : q < 0x400) :
    (c.pageTaken before q seq).reg p 0x34 = if p = q then seq else c.reg p 0x34 := by
  have hstat : ∀ d : Chip, (d.setFlag q 0x14 2 true).reg p 0x34 = d.reg p 0x34 := fun d =>
    d.reg_setFlag_other _ _ (regKey_ne_of_off (by decide) (by decide) (by decide))
  have hseq : ((c.setFlag q 0x30 1 (before.latches q)).setReg q 0x34 seq).reg p 0x34 = if p = q then seq else c.reg p 0x34 := by
    split_ifs with h
    · subst h
      exact Chip.reg_setReg ..
    · rw [Chip.reg_setReg_page _ _ (by decide) (by decide) hq hp h]
      exact Chip.reg_setFlag_other _ _ _ (regKey_ne_of_off (by decide) (by decide) (by decide))
  unfold Chip.pageTaken
  dsimp only
  split
  · rw [hstat, hseq]
  · exact hseq

theorem forAll_pageTaken_seq (before : Chip) (seq : W32) (qs : List Nat) (hqs : ∀ q ∈ qs, q < 0x400) {p : Nat}
    (hp : p < 0x400) : (forAll qs c fun q d => d.pageTaken before q seq).reg p 0x34 =
      if p ∈ qs then seq else c.reg p 0x34 := by
  induction qs generalizing c with
  | nil => simp [forAll]
  | cons q qs ih =>
    have hstep : (forAll (q :: qs) c fun q d => d.pageTaken before q seq) =
        forAll qs (c.pageTaken before q seq) fun q d => d.pageTaken before q seq := rfl
    rw [hstep, ih _ fun r hr => hqs r (List.mem_cons_of_mem _ hr), c.pageTaken_seq _ _ _ _ hp (hqs q (List.mem_cons_self ..))]
    by_cases hmem : p ∈ qs <;> by_cases hpq : p = q <;> simp [hmem, hpq]

/-- No page stands past the buffer dies'. -/
theorem pageOf_none {p : Nat} (h : 0x110 ≤ p) : pageOf p = none := by
  unfold pageOf
  iterate 16 refine (if_neg (by omega)).trans ?_
  rfl

theorem pageOf_lt {p : Nat} (h : (pageOf p).isSome = true) : p < 0x3FF := by
  by_contra hge
  rw [pageOf_none (by omega)] at h
  exact absurd h (by decide)

theorem mem_blockPages {p : Nat} : p ∈ blockPages ↔ (pageOf p).isSome = true := by
  simp only [blockPages, List.mem_filter, List.mem_range]
  exact ⟨And.right, fun h => ⟨pageOf_lt h, h⟩⟩

/-- The part with the pages' status taken, SNP_SEQ advanced and ARM clear. -/
def Chip.snapTaken : Chip :=
  forAll blockPages ((c.setFlag pgSnp 0x1000 0 false).setReg pgSnp 0x1008 (c.reg pgSnp 0x1008 + 1))
    fun p x => x.pageTaken c p (c.reg pgSnp 0x1008 + 1)

/-- The part with the shadows that `before` latches at `t`. -/
def Chip.snapHeld (before : Chip) (t : Nat) : Chip :=
  { c with
    snap := { due := none, shadows := before.allShadows
              outUp := if before.flag pgSnp 0x1000 5 then some (t + nsUnits 100) else before.snap.outUp }
    time := { c.time with snpTime := t } }

@[simp] theorem Chip.snapHeld_reg (before : Chip) (t page off inst : Nat) :
    (c.snapHeld before t).reg page off inst = c.reg page off inst := rfl
theorem Chip.snapHeld_flag (before : Chip) (t page off i : Nat) :
    (c.snapHeld before t).flag page off i = c.flag page off i := rfl
theorem Chip.snapHeld_ev (before : Chip) (t : Nat) : (c.snapHeld before t).ev = c.ev := rfl
theorem Chip.snapHeld_time (before : Chip) (t : Nat) : (c.snapHeld before t).time = { c.time with snpTime := t } := rfl

theorem Chip.snapHeld_shadows (before : Chip) (t : Nat) : (c.snapHeld before t).snap.shadows = before.allShadows := by
  simp only [Chip.snapHeld]

/-- EV_SNAPSHOT (R430). -/
def snapEv : Ev := evP pgSnp 0x0A05 dieM 0

theorem Chip.snapLatch_due {t : Nat} (hd : c.snap.due = some t) (h : t ≤ c.time.now) :
    c.snapLatch = (c.snapTaken.snapHeld c t).raise snapEv := by
  unfold Chip.snapLatch Chip.snapHeld Chip.snapTaken
  rw [hd]
  exact if_neg (Nat.not_lt.2 h)

theorem Chip.snapLatch_waits {t : Nat} (hd : c.snap.due = some t) (h : c.time.now < t) : c.snapLatch = c := by
  simp only [Chip.snapLatch, hd, if_pos h]

theorem Chip.snapLatch_none (hd : c.snap.due = none) : c.snapLatch = c := by
  simp only [Chip.snapLatch, hd]

theorem Chip.snapTaken_rest : ∃ r, c.snapTaken = { c with regs := r } := by
  refine forAll_invariant (P := fun d => ∃ r, d = { c with regs := r }) ?_ ⟨_, Eq.refl { c with regs := _ }⟩
  rintro q _ ⟨r, rfl⟩
  exact Chip.pageTaken_rest _ _ _ _

theorem Chip.snapTaken_reg {off : Nat} (page inst : Nat) (ho : off < 0x10000) (h : off ∉ pageOffs) :
    c.snapTaken.reg page off inst =
      ((c.setFlag pgSnp 0x1000 0 false).setReg pgSnp 0x1008 (c.reg pgSnp 0x1008 + 1)).reg page off inst :=
  keep_forAll (fun d => d.reg page off inst) _ _ _ fun q d => d.pageTaken_reg c q _ ho h

theorem Chip.snapTaken_seq : c.snapTaken.reg pgSnp 0x1008 = c.reg pgSnp 0x1008 + 1 := by
  rw [c.snapTaken_reg _ _ (by decide) (by decide), Chip.reg_setReg]

theorem Chip.snapTaken_disarmed : c.snapTaken.flag pgSnp 0x1000 0 = false := by
  rw [Chip.flag, c.snapTaken_reg _ _ (by decide) (by decide), Chip.reg_setReg_off _ (by decide) (by decide) (by decide)]
  exact Chip.flag_setFlag _ _ _ _ _ _ (by decide)

theorem Chip.snapTaken_pageSeq {p : Nat} (h : (pageOf p).isSome = true) :
    c.snapTaken.reg p 0x34 = c.reg pgSnp 0x1008 + 1 := by
  have hlt := pageOf_lt h
  rw [Chip.snapTaken, forAll_pageTaken_seq _ _ _ _ (fun q hq => by have := pageOf_lt (mem_blockPages.1 hq); omega)
    (by omega : p < 0x400), if_pos (mem_blockPages.2 h)]

/-- While disarmed a trigger fixes no latch time. -/
theorem Chip.snap_of_disarmed (b : Prop) [Decidable b] (src at_ : Nat) (h : c.flag pgSnp 0x1000 0 = false) :
    (if b then c.snapTrigger src at_ else c).snap = c.snap := by
  split
  · rw [c.snapTrigger_misses _ _ h]
    rfl
  · rfl

/-- While disarmed an event triggers no snapshot. -/
theorem Chip.raise_snap (e : Ev) (h : c.flag pgSnp 0x1000 0 = false) : (c.raise e).snap = c.snap := by
  unfold Chip.raise
  dsimp only
  refine (Chip.snap_of_disarmed _ _ _ _ ?_).trans ?_
  · obtain ⟨x, hint⟩ := Chip.evInterrupt_rest
      (((c.setFlag e.page 0x14 0 true).bump e.page (if 2 ≤ evSev e.code then 0x24 else 0x28)).evPlace e) (evSev e.code)
    obtain ⟨ho, hne⟩ : (if 2 ≤ evSev e.code then 0x24 else 0x28) < 0x10000 ∧
        0x1000 ≠ (if 2 ≤ evSev e.code then 0x24 else 0x28) := by split_ifs <;> decide
    rw [hint, Chip.flag, Chip.reg_withEv, Chip.evPlace_reg _ _ (regKey_ne_of_off (by decide) (by decide) (by decide)),
      Chip.reg_bump_other _ (regKey_ne_of_off (by decide) ho hne),
      c.reg_setFlag_other _ _ (regKey_ne_of_off (by decide) (by decide) (by decide))]
    exact h
  · obtain ⟨x, hint⟩ := Chip.evInterrupt_rest
      (((c.setFlag e.page 0x14 0 true).bump e.page (if 2 ≤ evSev e.code then 0x24 else 0x28)).evPlace e) (evSev e.code)
    obtain ⟨r, y, hplace⟩ := Chip.evPlace_rest
      ((c.setFlag e.page 0x14 0 true).bump e.page (if 2 ≤ evSev e.code then 0x24 else 0x28)) e
    rw [hint, hplace]
    rfl

/-- What stands after the latch, its event included. -/
theorem Chip.snapLatch_keeps {t : Nat} (hd : c.snap.due = some t) (h : t ≤ c.time.now) :
    c.snapLatch.snap = (c.snapTaken.snapHeld c t).snap ∧ c.snapLatch.time = { c.time with snpTime := t } ∧
    Chip.raised c c.snapLatch snapEv ∧
    ∀ page off, off < 0x10000 → off ∉ evOffs → c.snapLatch.reg page off = c.snapTaken.reg page off := by
  obtain ⟨r, hr⟩ := c.snapTaken_rest
  rw [c.snapLatch_due hd h]
  refine ⟨Chip.raise_snap _ _ ?_, ?_, ?_, fun page off ho hev => ?_⟩
  · rw [Chip.snapHeld_flag, c.snapTaken_disarmed]
  · rw [Chip.raise_time, Chip.snapHeld_time, hr]
  · have hraised := Chip.raise_raised (c.snapTaken.snapHeld c t) snapEv
    rw [Chip.raised, Chip.snapHeld_ev, hr] at hraised
    rw [hr]
    exact hraised
  · rw [Chip.raise_reg_off _ _ ho hev, Chip.snapHeld_reg]
end

/-- Settles O8: a trigger is one of three cases of ARM and of the fixed latch time; the latch is `Chip.snapHeld` and its
event, which leaves the shadows since ARM is clear by then. -/
theorem snapshotsAreTriggeredAndLatched : Obligations.SnapshotsAreTriggeredAndLatched := by
  unfold Obligations.SnapshotsAreTriggeredAndLatched
  refine ⟨fun s hserves hup => ?_, fun s hup => ⟨fun u hd hu => ?_, fun u hd hu => ?_, fun hd => ?_⟩⟩
  · obtain ⟨hle, hleast⟩ := ceilDiv_mul_least (s.chip.time.now + nsUnits 512) 256 (by decide)
    have hjoins : ∀ {i : Instr} {src at_ : Nat} {P : Nat → Prop}, P at_ →
        exec i s = .next (s.after (s.chip.snapTrigger src at_)) →
        (s.chip.flag pgSnp 0x1000 0 = true → s.chip.snap.due = none → ∃ t, P t ∧ exec i s = .next (s.put
          { s.chip.setReg pgSnp 0x1004 (BitVec.ofNat 32 (2 ^ src)) with snap := { s.chip.snap with due := some t } })) ∧
        (s.chip.flag pgSnp 0x1000 0 = true → s.chip.snap.due ≠ none →
          exec i s = .next (s.put (s.chip.setFlag pgSnp 0x1004 src true))) ∧
        (s.chip.flag pgSnp 0x1000 0 = false → exec i s = .next (s.put (s.chip.bump pgSnp 0x1080))) :=
      fun hP hi => ⟨fun ha hn => ⟨_, hP, (exec_snapTrigger hi).1 ha hn⟩, (exec_snapTrigger hi).2⟩
    have hahead : s.chip.snapDelay % 256 = 0 ∧ s.chip.time.now + 512 * 256 ≤ s.chip.snapDelay ∧
        ∀ u, u % 256 = 0 → s.chip.time.now + 512 * 256 ≤ u → s.chip.snapDelay ≤ u :=
      ⟨Nat.mul_mod_left _ _, hle, hleast⟩
    refine ⟨?_, hjoins hahead ?_, fun he => hjoins hahead ?_, fun he hm => hjoins rfl ?_, fun he => ?_, fun he => ?_⟩
    · exact exec_gated_put (·.serves pgSnp) (·.setFlag pgSnp 0x1000 0 true) rfl hserves rfl (s.chip.smbStatusWord_setSnp (off := 0x1000) _ (by decide))
    · exact exec_gated (·.serves pgSnp) (fun c => c.snapTrigger 0 c.snapDelay) rfl hserves rfl
    · exact exec_gated (fun c => c.m0Up && c.flag pgSnp 0x1000 1) (fun c => c.snapTrigger 1 c.snapDelay) rfl (by simp [hup, he]) rfl
    · exact exec_gated (fun c => c.m0Up && c.flag pgSnp 0x1000 2 && c.slotMatches) (fun c => c.snapTrigger 2 c.slotStart) rfl (by simp [hup, he, hm]) rfl
    · exact State.run_eq_self (if_neg (by simp [he]))
    · exact State.run_eq_self (if_neg (by simp only [Bool.and_eq_true]; rintro ⟨⟨-, h1⟩, h2⟩; simp [h1, h2] at he))
  · obtain ⟨hsnap, htime, hraised, hreg⟩ := s.chip.snapLatch_keeps hd hu
    refine yields_after (exec_gated (·.m0Up) Chip.snapLatch rfl hup rfl) ?_
    simp only [Chip.settleAlerts_snap, Chip.settleAlerts_time, Chip.settleAlerts_reg, Chip.settleAlerts_flag]
    refine ⟨by rw [hsnap]; rfl, htime, ?_, ?_, fun p hp => ?_, by rw [hsnap]; rfl, hraised, fun p hp w hw => ?_, ?_⟩
    · rw [hreg _ _ (by decide) (by decide), s.chip.snapTaken_seq]
    · rw [← s.chip.snapTaken_disarmed, Chip.flag, hreg _ _ (by decide) (by decide), Chip.flag]
    · rw [hreg _ _ (by decide) (by decide), s.chip.snapTaken_pageSeq hp]
    · rw [hsnap, Chip.snapHeld_shadows, s.chip.allShadows_get hp hw, Chip.latches]
    · rw [Chip.settleAlerts_plane, Chip.snapLatch_plane]
  · exact exec_gated_self (·.m0Up) Chip.snapLatch rfl hup (s.chip.snapLatch_waits hd hu)
  · exact exec_gated_self (·.m0Up) Chip.snapLatch rfl hup (s.chip.snapLatch_none hd)

end Sys2Proof.Machine
end

section
/-! Lane clusters (R414, R415): a fence, and a spare that takes the cluster's place. -/

namespace Sys2Proof.Machine

/-- The bits of a vector after one of them is written. -/
theorem getLsbD_putBit {n : Nat} (x : BitVec n) {i : Nat} (b : Bool) (hi : i < n) (j : Nat) :
    (putBit x i b).getLsbD j = if j = i then b else x.getLsbD j := by
  split_ifs with h
  · rw [h]
    exact putFld_bit_same x i b hi
  · exact putFld_bit_other x i 1 _ j (by omega)

/-! The clusters of a die -/

section
variable (x : LaneDie)

/-- A cluster fenced. -/
def LaneDie.fence (k : Nat) : LaneDie := { x with fenced := putBit x.fenced k true }

/-- A spare that passed its test, in the place of a cluster. -/
def LaneDie.replace (sp m : Nat) : LaneDie :=
  { x with
    tested := putBit x.tested sp true, mapped := putBit x.mapped sp true, replaced := putBit x.replaced m true, target := none }

/-- A spare that failed its test. -/
def LaneDie.spareFailed (sp : Nat) : LaneDie :=
  { x with tested := putBit x.tested sp true, fenced := putBit x.fenced sp true }

/-- No repair under way. -/
def LaneDie.rested : LaneDie := { x with target := none }

/-- A spare that a repair may take. -/
def LaneDie.ready (j : Nat) : Prop := x.tested.getLsbD j = false ∧ x.fenced.getLsbD j = false

theorem LaneDie.spare_eq_some {sp : Nat} : x.spare = some sp ↔
    x.ready sp ∧ (80 ≤ sp ∧ sp < 84) ∧ ∀ j, 80 ≤ j → j < sp → ¬ x.ready j := by
  have hspares : x.spare = (List.range' 80 4).find? fun k => !x.tested.getLsbD k && !x.fenced.getLsbD k := rfl
  rw [hspares, List.find?_range'_eq_some]
  simp [LaneDie.ready, ← Bool.not_eq_false, imp_iff_not_or, and_assoc]

theorem LaneDie.spare_eq_none : x.spare = none ↔ ∀ j, 80 ≤ j → j < 84 → ¬ x.ready j := by
  have hspares : x.spare = (List.range' 80 4).find? fun k => !x.tested.getLsbD k && !x.fenced.getLsbD k := rfl
  rw [hspares, List.find?_range'_eq_none]
  simp [LaneDie.ready, ← Bool.not_eq_false, imp_iff_not_or]

theorem LaneDie.exists_spare (h : ∃ j, 80 ≤ j ∧ j < 84 ∧ x.ready j) : ∃ sp, x.spare = some sp := by
  obtain ⟨j, hlo, hhi, hj⟩ := h
  exact Option.ne_none_iff_exists'.1 fun hn => x.spare_eq_none.1 hn j hlo hhi hj

theorem LaneDie.mem_waiting {k : Nat} (hk : k < 84) : k ∈ x.waiting ↔
    (k < 80 ∨ x.mapped.getLsbD k = true) ∧ x.fenced.getLsbD k = true ∧ x.replaced.getLsbD k = false := by
  simp [LaneDie.waiting, hk, and_assoc]

/-- The first cluster that waits is the lowest. -/
theorem LaneDie.waiting_head {k : Nat} (hk : k ∈ x.waiting) : ∃ j ks, x.waiting = j :: ks ∧ j ≤ k := by
  have hsorted : x.waiting.Pairwise (· < ·) := List.Pairwise.filter _ (List.pairwise_lt_range)
  obtain ⟨j, ks, hw⟩ := List.exists_cons_of_ne_nil (List.ne_nil_of_mem hk)
  rw [hw] at hsorted hk
  refine ⟨j, ks, hw, ?_⟩
  obtain rfl | hin := List.mem_cons.1 hk
  · exact le_rfl
  · exact ((List.pairwise_cons.1 hsorted).1 k hin).le
end

section
variable (c : Chip) (d : Nat)

theorem Chip.lanesAt_setLanes (x : LaneDie) (e : Nat) : (c.setLanes d x).lanesAt e = if e = d then x else c.lanesAt e :=
  Tbl.get_set LaneDie.reset c.flt.lanes d e x

theorem Chip.lanesAt_raise (e : Ev) (j : Nat) : (c.raise e).lanesAt j = c.lanesAt j := by
  rw [Chip.lanesAt, Chip.raise_flt, Chip.lanesAt]

theorem Chip.settleAlerts_lanesAt (b : Chip) (e : Nat) : (Chip.settleAlerts b c).lanesAt e = c.lanesAt e := (rfl)

/-- What lane repair changes: the clusters of die `d`, registers and events. -/
def Chip.lanesOnly (t : Chip) : Prop := Chip.only [.regs, .ev, .snap, .flt] c t ∧ ∀ e, e ≠ d → t.lanesAt e = c.lanesAt e

variable {c d}

theorem Chip.lanesOnly.trans {a b : Chip} (h : c.lanesOnly d a) (k : a.lanesOnly d b) : c.lanesOnly d b :=
  ⟨Chip.only_trans h.1 k.1, fun e he => (k.2 e he).trans (h.2 e he)⟩

variable (c d)

theorem Chip.lanesOnly_refl : c.lanesOnly d c := ⟨Chip.only_rfl c _, fun _ _ => rfl⟩

theorem Chip.lanesOnly_setLanes (x : LaneDie) : c.lanesOnly d (c.setLanes d x) :=
  ⟨by simp [Chip.only, Chip.setLanes], fun e he => by rw [c.lanesAt_setLanes, if_neg he]⟩

theorem Chip.lanesOnly_raise (e : Ev) : c.lanesOnly d (c.raise e) :=
  ⟨Chip.only_mono (by decide) (c.raise_only e), fun j _ => c.lanesAt_raise e j⟩

/-! What the operations do -/

/-- A repair of a cluster that does not wait, or during another. -/
theorem Chip.startRepair_idle {k : Nat} (h : (c.lanesAt d).target ≠ none ∨ k ∉ (c.lanesAt d).waiting) :
    c.startRepair d k = c :=
  if_pos (h.imp Option.isSome_iff_ne_none.2 id)

theorem Chip.startRepair_of_waiting {k : Nat} (ht : (c.lanesAt d).target = none) (hk : k ∈ (c.lanesAt d).waiting) :
    c.startRepair d k = match (c.lanesAt d).spare with
      | some _ => c.setLanes d { c.lanesAt d with target := some k }
      | none => c.raise (evP pgFlt 0x0108 (dieC d) k) :=
  if_neg (by simp [ht, hk])

theorem Chip.startRepair_starts {k : Nat} (ht : (c.lanesAt d).target = none) (hk : k ∈ (c.lanesAt d).waiting)
    (hs : ∃ sp, (c.lanesAt d).spare = some sp) : c.startRepair d k = c.setLanes d { c.lanesAt d with target := some k } := by
  obtain ⟨sp, hsp⟩ := hs
  rw [c.startRepair_of_waiting d ht hk, hsp]

theorem Chip.startRepair_out {k : Nat} (ht : (c.lanesAt d).target = none) (hk : k ∈ (c.lanesAt d).waiting)
    (hs : (c.lanesAt d).spare = none) : c.startRepair d k = c.raise (evP pgFlt 0x0108 (dieC d) k) := by
  rw [c.startRepair_of_waiting d ht hk, hs]

/-- A start of a repair changes the target alone. -/
theorem Chip.startRepair_lanes (k : Nat) : c.lanesOnly d (c.startRepair d k) ∧
    ∃ t, (c.startRepair d k).lanesAt d = { c.lanesAt d with target := t } := by
  by_cases h : (c.lanesAt d).target ≠ none ∨ k ∉ (c.lanesAt d).waiting
  · rw [c.startRepair_idle d h]
    exact ⟨c.lanesOnly_refl d, _, rfl⟩
  · simp only [ne_eq, not_or, not_not] at h
    cases hs : (c.lanesAt d).spare with
    | some sp =>
      rw [c.startRepair_starts d h.1 h.2 ⟨sp, hs⟩, Chip.lanesAt_setLanes, if_pos rfl]
      exact ⟨c.lanesOnly_setLanes d _, _, rfl⟩
    | none =>
      rw [c.startRepair_out d h.1 h.2 hs, Chip.lanesAt_raise]
      exact ⟨c.lanesOnly_raise d _, _, rfl⟩

theorem Chip.autoRepair_off (h : c.flag pgFlt 0x1010 0 = false) : c.autoRepair d = c := by
  simp only [Chip.autoRepair, h]

theorem Chip.autoRepair_first {k : Nat} {ks : List Nat} (h : c.flag pgFlt 0x1010 0 = true)
    (hw : (c.lanesAt d).waiting = k :: ks) : c.autoRepair d = c.startRepair d k := by
  simp only [Chip.autoRepair, h, hw]

/-- A repair that starts by itself changes the target alone. -/
theorem Chip.autoRepair_lanes : c.lanesOnly d (c.autoRepair d) ∧
    ∃ t, (c.autoRepair d).lanesAt d = { c.lanesAt d with target := t } := by
  unfold Chip.autoRepair
  split
  · exact c.startRepair_lanes d _
  · exact ⟨c.lanesOnly_refl d, _, rfl⟩

theorem Chip.raised_setLanes {a : Chip} {e : Ev} {x : LaneDie} (h : Chip.raised a c e) : Chip.raised a (c.setLanes d x) e := h

theorem Chip.raise_autoFlag (e : Ev) : (c.raise e).flag pgFlt 0x1010 0 = c.flag pgFlt 0x1010 0 := by
  rw [Chip.flag, c.raise_reg_off e (by decide) (by decide), Chip.flag]

/-- The part with its clusters as `x` and an event raised, from which a repair may start. -/
def Chip.lanesRaised (x : LaneDie) (e : Ev) : Chip := (c.setLanes d x).raise e

section
variable (x : LaneDie) (e : Ev)

theorem Chip.lanesRaised_lanes : (c.lanesRaised d x e).lanesAt d = x := by
  rw [Chip.lanesRaised, Chip.lanesAt_raise, Chip.lanesAt_setLanes, if_pos rfl]

theorem Chip.lanesRaised_only : c.lanesOnly d (c.lanesRaised d x e) :=
  (c.lanesOnly_setLanes d x).trans (Chip.lanesOnly_raise _ d e)

theorem Chip.lanesRaised_flag : (c.lanesRaised d x e).flag pgFlt 0x1010 0 = c.flag pgFlt 0x1010 0 :=
  Chip.raise_autoFlag _ e

theorem Chip.lanesRaised_raised : Chip.raised c (c.lanesRaised d x e) e := Chip.raise_raised (c.setLanes d x) e

/-- What stands after the repair that may start then. -/
theorem Chip.lanesRaised_auto : c.lanesOnly d ((c.lanesRaised d x e).autoRepair d) ∧
    (∃ t, ((c.lanesRaised d x e).autoRepair d).lanesAt d = { x with target := t }) ∧
    (c.flag pgFlt 0x1010 0 = false → ((c.lanesRaised d x e).autoRepair d).lanesAt d = x ∧
      Chip.raised c ((c.lanesRaised d x e).autoRepair d) e) := by
  obtain ⟨honly, t, ht⟩ := (c.lanesRaised d x e).autoRepair_lanes d
  rw [c.lanesRaised_lanes] at ht
  refine ⟨(c.lanesRaised_only d x e).trans honly, ⟨t, ht⟩, fun hoff => ?_⟩
  rw [Chip.autoRepair_off _ d ((c.lanesRaised_flag d x e).trans hoff)]
  exact ⟨c.lanesRaised_lanes d x e, c.lanesRaised_raised d x e⟩

/-- The repair of the first cluster that waits starts by itself. -/
theorem Chip.lanesRaised_repairs {k : Nat} (hon : c.flag pgFlt 0x1010 0 = true) (ht : x.target = none) (hk : k ∈ x.waiting)
    (hs : ∃ sp, x.spare = some sp) : (∃ j ≤ k, (((c.lanesRaised d x e).autoRepair d).lanesAt d).target = some j) ∧
      Chip.raised c ((c.lanesRaised d x e).autoRepair d) e := by
  obtain ⟨j, ks, hw, hj⟩ := x.waiting_head hk
  have hl := c.lanesRaised_lanes d x e
  rw [Chip.autoRepair_first _ d ((c.lanesRaised_flag d x e).trans hon) (by rw [hl, hw]),
    Chip.startRepair_starts _ d (by rw [hl, ht]) (by rw [hl, hw]; exact List.mem_cons_self ..) (by rwa [hl])]
  exact ⟨⟨j, hj, by rw [Chip.lanesAt_setLanes, if_pos rfl]⟩, Chip.raised_setLanes _ d (c.lanesRaised_raised d x e)⟩
end

/-! The commands -/

section
variable {c d}

theorem Chip.laneFence_fenced {k : Nat} (h : (c.lanesAt d).fenced.getLsbD k = true) : c.laneFence d k = c := if_pos h

theorem Chip.laneFence_fences {k : Nat} (h : (c.lanesAt d).fenced.getLsbD k = false) : c.laneFence d k =
    (c.lanesRaised d ((c.lanesAt d).fence k) (evP pgFlt evClusterFail (dieC d) k)).autoRepair d := by
  simp only [Chip.laneFence, h, Bool.false_eq_true, if_false, Chip.lanesRaised, LaneDie.fence]

theorem Chip.spareTested_idle (pass : Bool) (h : (c.lanesAt d).target = none) : c.spareTested d pass = c := by
  simp only [Chip.spareTested, h]

theorem Chip.spareTested_pass {m sp : Nat} (h : (c.lanesAt d).target = some m) (hs : (c.lanesAt d).spare = some sp) :
    c.spareTested d true =
      (c.lanesRaised d ((c.lanesAt d).replace sp m) (evP pgFlt 0x0107 (dieC d) m)).autoRepair d := by
  simp only [Chip.spareTested, h, hs, if_true, Chip.lanesRaised, LaneDie.replace]

theorem Chip.spareTested_next {m sp q : Nat} (h : (c.lanesAt d).target = some m) (hs : (c.lanesAt d).spare = some sp)
    (hq : ((c.lanesAt d).spareFailed sp).spare = some q) :
    c.spareTested d false = c.setLanes d ((c.lanesAt d).spareFailed sp) := by
  simp only [LaneDie.spareFailed, h] at hq
  simp only [Chip.spareTested, h, hs, hq, Bool.false_eq_true, if_false, LaneDie.spareFailed]

theorem Chip.spareTested_out {m sp : Nat} (h : (c.lanesAt d).target = some m) (hs : (c.lanesAt d).spare = some sp)
    (hq : ((c.lanesAt d).spareFailed sp).spare = none) : c.spareTested d false =
      c.lanesRaised d ((c.lanesAt d).spareFailed sp).rested (evP pgFlt 0x0108 (dieC d) m) := by
  simp only [LaneDie.spareFailed, h] at hq
  simp only [Chip.spareTested, h, hs, hq, Bool.false_eq_true, if_false, LaneDie.spareFailed, LaneDie.rested, Chip.lanesRaised]

/-- A spare that failed is ready no longer, and the others are as they were. -/
theorem LaneDie.spareFailed_ready {x : LaneDie} {sp : Nat} (hsp : sp < 84) (j : Nat) :
    (x.spareFailed sp).ready j ↔ j ≠ sp ∧ x.ready j := by
  simp only [LaneDie.ready, LaneDie.spareFailed, getLsbD_putBit _ _ hsp]
  split_ifs with h <;> simp [h]
end
end

/-- Settles O24. -/
theorem laneClustersAreFencedAndRepaired : Obligations.LaneClustersAreFencedAndRepaired := by
  unfold Obligations.LaneClustersAreFencedAndRepaired
  intro s d k hmain hserves hup c x ready waits rest
  have hdie : s.chip.cdieUp d.val = true := by rw [Chip.cdieUp, dieC, hup]; rfl
  have hwaits : k.val ∈ x.waiting ↔ waits := x.mem_waiting k.isLt
  have hrun : ∀ {i : Instr} (f : Chip → Chip),
      (exec i s = s.run fun c => if c.serves pgFlt && c.cdieUp d.val then f c else c) → exec i s = .next (s.after (f s.chip)) :=
    fun f he => exec_gated (fun c => c.serves pgFlt && c.cdieUp d.val) f he (by simp [hserves, hdie]) rfl
  have hdone : ∀ pass, exec (.laneSpareTestDone d pass) s = .next (s.after (s.chip.spareTested d.val pass)) := fun pass =>
    exec_gated (fun c => c.cdieWorks d.val) (·.spareTested d.val pass) rfl (by rw [Chip.cdieWorks, hmain, hdie]; rfl) rfl
  have hrest : ∀ {t : Chip}, s.chip.lanesOnly d.val t → rest (Chip.settleAlerts s.chip t) := fun h =>
    ⟨Chip.only_settleAlerts h.1, h.2⟩
  refine ⟨fun hf => ?_, fun hf => ?_, fun h => ?_, fun hw ht hr => ?_, fun hw ht hr => ?_, fun pass ht => ?_,
    fun m sp ht hlo hhi hr hfirst => ⟨fun hm => ?_, ?_⟩⟩
  · rw [hrun (·.laneFence d.val k.val) rfl, Chip.laneFence_fenced hf, State.after_self]
  · obtain ⟨honly, ⟨t, hl⟩, hoff⟩ := s.chip.lanesRaised_auto d.val (x.fence k.val) (evP pgFlt evClusterFail (dieC d.val) k.val)
    have hfen : ∀ j, (x.fence k.val).fenced.getLsbD j = if j = k.val then true else x.fenced.getLsbD j :=
      getLsbD_putBit x.fenced true k.isLt
    refine yields_after (hrun (·.laneFence d.val k.val) rfl) ?_
    rw [Chip.laneFence_fences hf]
    simp only [Chip.settleAlerts_lanesAt]
    refine ⟨fun j _ => ?_, by rw [hl]; rfl, by rw [hl]; rfl, fun h => ⟨by rw [(hoff h).1]; rfl, Chip.raised_settleAlerts (hoff h).2⟩,
      fun hon ht hlow hrep hr => ?_, hrest honly⟩
    · rw [hl, hfen]
      by_cases h : j = k.val <;> simp [h]
    · have hwait : k.val ∈ (x.fence k.val).waiting := by
        rw [LaneDie.mem_waiting _ k.isLt, hfen, if_pos rfl]
        exact ⟨.inl hlow, rfl, hrep⟩
      have hspare : ∃ sp, (x.fence k.val).spare = some sp := by
        obtain ⟨j, hlo, hhi, htest, hjf⟩ := hr
        exact LaneDie.exists_spare _ ⟨j, hlo, hhi, htest, by rw [hfen, if_neg (by omega), hjf]⟩
      obtain ⟨htarget, hraised⟩ := s.chip.lanesRaised_repairs d.val (x.fence k.val)
        (evP pgFlt evClusterFail (dieC d.val) k.val) hon ht hwait hspare
      exact ⟨htarget, Chip.raised_settleAlerts hraised⟩
  · rw [hrun (·.startRepair d.val k.val) rfl, s.chip.startRepair_idle d.val (h.symm.imp id (hwaits.not.2)), State.after_self]
  · rw [hrun (·.startRepair d.val k.val) rfl, s.chip.startRepair_starts d.val ht (hwaits.2 hw) (x.exists_spare hr)]
    exact congrArg _ (State.after_of_status rfl)
  · rw [hrun (·.startRepair d.val k.val) rfl, s.chip.startRepair_out d.val ht (hwaits.2 hw) (x.spare_eq_none.2 hr)]
    rfl
  · rw [hdone pass, Chip.spareTested_idle pass ht, State.after_self]
  · obtain ⟨honly, ⟨t, hl⟩, hoff⟩ := s.chip.lanesRaised_auto d.val (x.replace sp m) (evP pgFlt 0x0107 (dieC d.val) m)
    refine yields_after (hdone true) ?_
    rw [Chip.spareTested_pass ht (x.spare_eq_some.2 ⟨hr, ⟨hlo, hhi⟩, hfirst⟩)]
    simp only [Chip.settleAlerts_lanesAt]
    refine ⟨?_, ?_, ?_, by rw [hl]; rfl, fun h => ⟨by rw [(hoff h).1]; rfl, Chip.raised_settleAlerts (hoff h).2⟩, hrest honly⟩
    · rw [hl]
      exact putFld_bit_same _ _ _ hhi
    · rw [hl]
      exact putFld_bit_same _ _ _ hhi
    · rw [hl]
      exact putFld_bit_same _ _ _ hm
  · refine yields_after (hdone false) ?_
    have hspare : x.spare = some sp := x.spare_eq_some.2 ⟨hr, ⟨hlo, hhi⟩, hfirst⟩
    have hready : ∀ j, sp < j → ((x.spareFailed sp).ready j ↔ ready j) := fun j hj =>
      (LaneDie.spareFailed_ready hhi j).trans ⟨And.right, fun h => ⟨by omega, h⟩⟩
    cases hq : (x.spareFailed sp).spare with
    | some q =>
      obtain ⟨hqr, ⟨hqlo, hqhi⟩, -⟩ := (LaneDie.spare_eq_some _).1 hq
      have hsq : sp < q := by
        obtain ⟨hne, hqx⟩ := (LaneDie.spareFailed_ready hhi q).1 hqr
        exact lt_of_le_of_ne (not_lt.1 fun hlt => hfirst q hqlo hlt hqx) (Ne.symm hne)
      have hl : (s.chip.setLanes d.val (x.spareFailed sp)).lanesAt d.val = x.spareFailed sp := by
        rw [Chip.lanesAt_setLanes, if_pos rfl]
      rw [Chip.spareTested_next ht hspare hq]
      simp only [Chip.settleAlerts_lanesAt]
      refine ⟨?_, by rw [hl]; rfl, by rw [hl]; rfl, fun _ => ⟨by rw [hl]; exact ht, rfl⟩,
        fun hno => absurd ((hready q hsq).1 hqr) (hno q hsq hqhi), hrest (s.chip.lanesOnly_setLanes d.val _)⟩
      rw [hl]
      exact putFld_bit_same _ _ _ hhi
    | none =>
      have hl := s.chip.lanesRaised_lanes d.val (x.spareFailed sp).rested (evP pgFlt 0x0108 (dieC d.val) m)
      rw [Chip.spareTested_out ht hspare hq]
      simp only [Chip.settleAlerts_lanesAt]
      refine ⟨?_, by rw [hl]; rfl, by rw [hl]; rfl, fun ⟨j, hj, hjhi, hjr⟩ => ?_,
        fun _ => ⟨by rw [hl]; rfl, Chip.raised_settleAlerts (s.chip.lanesRaised_raised d.val _ _)⟩, hrest (s.chip.lanesRaised_only d.val _ _)⟩
      · rw [hl]
        exact putFld_bit_same _ _ _ hhi
      · exact absurd ((hready j hj).2 hjr) ((LaneDie.spare_eq_none _).1 hq j (by omega) hjhi)

end Sys2Proof.Machine
end

section
/-! Calibration storage (R397 to R399): a body read back gives what was saved, and a slot programmed is valid. -/

namespace Sys2Proof.Machine

/-! Numbers in a body -/

theorem natOfLE_bytesLE (k v : Nat) : natOfLE (bytesLE k v) = v % 256 ^ k := by
  induction k generalizing v with
  | zero => simp [bytesLE, natOfLE, Nat.mod_one]
  | succ k ih =>
    have hcons : natOfLE (bytesLE (k + 1) v) = natOfLE (bytesLE k (v / 256)) * 256 + (BitVec.ofNat 8 v).toNat := rfl
    rw [hcons, ih, BitVec.toNat_ofNat, show (2 : Nat) ^ 8 = 256 from rfl, show 256 ^ (k + 1) = 256 * 256 ^ k from Nat.pow_succ', Nat.mod_mul]
    omega

theorem natOfLE_bytesLE_of_lt {k v : Nat} (h : v < 256 ^ k) : natOfLE (bytesLE k v) = v := by
  rw [natOfLE_bytesLE, Nat.mod_eq_of_lt h]

/-- The bytes of a number hold it. -/
theorem natOfLE_natBytes (n : Nat) : natOfLE (natBytes n) = n := by
  refine natOfLE_bytesLE_of_lt ((Nat.lt_log2_self (n := n)).trans_le ?_)
  rw [show (256 : Nat) = 2 ^ 8 from rfl, ← Nat.pow_mul]
  exact Nat.pow_le_pow_right (by decide) (by omega)

theorem take_bytesLE (k v : Nat) (bs : List Byte) : (bytesLE k v ++ bs).take k = bytesLE k v := by
  simp [bytesLE_length]

theorem drop_bytesLE (k v : Nat) (bs : List Byte) : (bytesLE k v ++ bs).drop k = bs := by
  simp [bytesLE_length]

theorem takeNat_putNat (n : Nat) (bs : List Byte) (h : (natBytes n).length < 65536) :
    takeNat (putNat n ++ bs) = (n, bs) := by
  have hlen : natOfLE ((putNat n ++ bs).take 2) = (natBytes n).length := by
    rw [putNat, List.append_assoc, take_bytesLE, natOfLE_bytesLE_of_lt h]
  rw [takeNat, hlen, slice, ← List.drop_drop, putNat, List.append_assoc, drop_bytesLE]
  simp [natOfLE_natBytes]

theorem takeRat_putRat (x : Rat) (bs : List Byte) (hn : (natBytes x.num.natAbs).length < 65536)
    (hd : (natBytes x.den).length < 65536) : takeRat (putRat x ++ bs) = (x, bs) := by
  have hsign : natOfLE ((putRat x ++ bs).take 1) = if x.num < 0 then 1 else 0 := by
    rw [putRat, List.append_assoc, List.append_assoc, take_bytesLE]
    split_ifs <;> rfl
  have hnum : (if (if x.num < 0 then 1 else 0) = 1 then -((x.num.natAbs : Nat) : Int) else x.num.natAbs) = x.num := by
    by_cases h : x.num < 0
    · rw [if_pos (if_pos h)]
      omega
    · rw [if_neg (by rw [if_neg h]; decide)]
      omega
  have hrest : (putRat x ++ bs).drop 1 = putNat x.num.natAbs ++ (putNat x.den ++ bs) := by
    rw [putRat, List.append_assoc, List.append_assoc, drop_bytesLE]
  simp only [takeRat, hsign, hrest, takeNat_putNat _ _ hn, takeNat_putNat _ _ hd, hnum, Rat.mkRat_self]

/-- The gain and the offset of a die in a body. -/
def CalDie.bytes (x : CalDie) : List Byte := putRat x.gain ++ putRat x.offset

/-- The numbers of a rational whose bytes are few enough to be counted. -/
theorem putRat_counts {x : Rat} (h : (putRat x).length ≤ 65472) :
    (natBytes x.num.natAbs).length < 65536 ∧ (natBytes x.den).length < 65536 := by
  simp only [putRat, putNat, List.length_append, bytesLE_length] at h
  omega

theorem CalDie.bytes_counts {x : CalDie} (h : x.bytes.length ≤ 65472) :
    (putRat x.gain).length ≤ 65472 ∧ (putRat x.offset).length ≤ 65472 := by
  rw [CalDie.bytes, List.length_append] at h
  omega

/-- What a body of dies' gains and offsets reads as: the entry of each die it lists, and no other. -/
theorem takeCals_bytes (f : Nat → CalDie) (n d : Nat) (m : Tbl CalDie)
    (h : ∀ k < n, ((f (d + k)).bytes).length ≤ 65472) (j : Nat) :
    Tbl.get CalDie.reset (takeCals d n ((List.range n).flatMap fun k => (f (d + k)).bytes) m) j =
      if d ≤ j ∧ j < d + n then ⟨(f j).gain, (f j).offset, []⟩ else Tbl.get CalDie.reset m j := by
  induction n generalizing d m with
  | zero => simp [takeCals, show ¬(d ≤ j ∧ j < d) by omega]
  | succ n ih =>
    obtain ⟨hg, ho⟩ := CalDie.bytes_counts (x := f d) (h 0 (by omega))
    obtain ⟨hg1, hg2⟩ := putRat_counts hg
    obtain ⟨ho1, ho2⟩ := putRat_counts ho
    have hbody : ((List.range (n + 1)).flatMap fun k => (f (d + k)).bytes) =
        putRat (f d).gain ++ (putRat (f d).offset ++ (List.range n).flatMap fun k => (f (d + 1 + k)).bytes) := by
      rw [List.range_succ_eq_map, List.flatMap_cons, List.flatMap_map, ← List.append_assoc]
      simp [CalDie.bytes, Nat.add_comm, Nat.add_left_comm]
    rw [takeCals, hbody, takeRat_putRat _ _ hg1 hg2]
    dsimp only
    rw [takeRat_putRat _ _ ho1 ho2, ih _ _ fun k hk => ?_, Tbl.get_set]
    · by_cases hj : j = d
      · subst hj
        simp
      · split_ifs <;> first | rfl | omega
    · have := h (k + 1) (by omega)
      rwa [show d + (k + 1) = d + 1 + k by omega] at this

/-! The body -/

section
variable (c : Chip)

/-- The coefficients in a body. -/
def Chip.coeffBytes : List Byte := (List.range 192).flatMap fun k => bytesLE 4 (c.coeff (k / 6) (k % 6))
def Chip.calDies : List Byte := (List.range 32).flatMap fun d => (c.calOf d).bytes

theorem Chip.calBody_eq : c.calBody = bytesLE 4 calVersion ++ c.coeffBytes ++ c.trimBytes ++ c.calDies := rfl

theorem Chip.coeffBytes_length : c.coeffBytes.length = 768 := length_blocks fun _ => bytesLE_length _ _

theorem Chip.coeff_lt (die kind : Nat) : c.coeff die kind < 2 ^ 32 := by
  unfold Chip.coeff
  split <;> exact BitVec.isLt _

/-- A slice of one block of a list of blocks. -/
theorem slice_blocks {m n w : Nat} {f : Nat → List Byte} (hf : ∀ k, (f k).length = m) (hw : w < n) :
    slice ((List.range n).flatMap f) (m * w) m = f w := by
  have hlen := length_blocks (n := n) hf
  have hle : m * w + m ≤ m * n := by rw [← Nat.mul_succ]; exact Nat.mul_le_mul_left m hw
  refine List.ext_getElem (by simp [slice, hlen, hf]; omega) fun i h1 h2 => ?_
  rw [hf] at h2
  have h := getD_blocks (j := i) 0 hf hw h2
  rw [List.getD_eq_getElem _ _ (by omega), List.getD_eq_getElem _ _ (by rw [hf]; exact h2)] at h
  simp [slice, h]

/-- A slice that lies within the middle part of a list. -/
theorem slice_append {pre bs post : List Byte} {i n : Nat} (h : i + n ≤ bs.length) :
    slice (pre ++ bs ++ post) (pre.length + i) n = slice bs i n := by
  rw [slice, slice, List.append_assoc, ← List.drop_drop, List.drop_left, List.drop_append_of_le_length (by omega),
    List.take_append_of_le_length (by rw [List.length_drop]; omega)]

theorem Chip.calUse_coeff {d kind : Nat} (hd : d < 32) (hk : kind < 6) :
    (c.calUse c.calBody).coeff d kind = c.coeff d kind := by
  have hin : d * 6 + kind < 192 := by omega
  have hslice : slice c.calBody (4 + 4 * (d * 6 + kind)) 4 = bytesLE 4 (c.coeff d kind) := by
    have hpart := slice_append (pre := bytesLE 4 calVersion) (bs := c.coeffBytes) (post := c.trimBytes ++ c.calDies)
      (i := 4 * (d * 6 + kind)) (n := 4) (by rw [c.coeffBytes_length]; omega)
    rw [bytesLE_length, ← List.append_assoc] at hpart
    rw [c.calBody_eq, hpart, Chip.coeffBytes, slice_blocks (fun _ => bytesLE_length _ _) hin]
    congr 2 <;> omega
  have hget : (c.calUse c.calBody).coeff d kind = (BitVec.ofNat 32 (natOfLE (slice c.calBody (4 + 4 * (d * 6 + kind)) 4))).toNat := by
    simp only [Chip.calUse, Chip.coeff]
    rw [List.getD_eq_getElem _ _ (by simpa using hin)]
    simp
  rw [hget, hslice, natOfLE_bytesLE_of_lt (c.coeff_lt d kind), BitVec.toNat_ofNat, Nat.mod_eq_of_lt (c.coeff_lt d kind)]

/-- Every die's part of a body that fits is as short as the body. -/
theorem Chip.calOf_bytes (h : c.calBody.length ≤ 65472) {d : Nat} (hd : d < 32) : (c.calOf d).bytes.length ≤ 65472 := by
  have hle : (c.calOf d).bytes.length ≤ c.calDies.length := by
    rw [Chip.calDies, List.length_flatMap]
    exact List.single_le_sum (by simp) _ (List.mem_map.2 ⟨d, List.mem_range.2 hd, rfl⟩)
  rw [c.calBody_eq, List.length_append] at h
  omega

theorem Chip.calUse_calOf (ht : c.trimBytes.length = trimCount) (h : c.calBody.length ≤ 65472) {d : Nat} (hd : d < 32) :
    (c.calUse c.calBody).calOf d = ⟨(c.calOf d).gain, (c.calOf d).offset, []⟩ := by
  have hdrop : c.calBody.drop (772 + trimCount) = (List.range 32).flatMap fun k => (c.calOf (0 + k)).bytes := by
    have hpre : (bytesLE 4 calVersion ++ c.coeffBytes ++ c.trimBytes).length = 772 + trimCount := by
      rw [List.length_append, List.length_append, ht, c.coeffBytes_length, bytesLE_length]
    simp only [Nat.zero_add]
    rw [c.calBody_eq, ← hpre, List.drop_left]
    rfl
  simp only [Chip.calOf, Chip.calUse]
  rw [hdrop]
  exact (takeCals_bytes c.calOf 32 0 [] (fun k hk => c.calOf_bytes h (by omega)) d).trans (if_pos ⟨Nat.zero_le _, by omega⟩)

/-! The slots -/

/-- A read of flash that programming has just written over erased bytes. -/
theorem Chip.flashRead_program {a i n : Nat} {bs : List Byte} (h : i + n ≤ bs.length)
    (he : ∀ x, a ≤ x → x < a + bs.length → c.flashByte x = erased) : (c.flashProgram a bs).flashRead (a + i) n = slice bs i n := by
  refine List.ext_getElem (by simp [Chip.flashRead, slice]; omega) fun j h1 h2 => ?_
  have hj : j < n := by simpa [Chip.flashRead] using h1
  have hand : ∀ b : Byte, erased &&& b = b := by decide
  simp only [Chip.flashRead, List.getElem_map, List.getElem_range, Chip.flashByte_program]
  rw [if_pos (by omega), he _ (by omega) (by omega), hand, show a + i + j - a = i + j by omega,
    List.getD_eq_getElem _ _ (by omega)]
  simp [slice]

theorem Chip.calSlot_congr {t : Chip} (h : t.fw.flash = c.fw.flash) (k : Nat) : t.calSlot k = c.calSlot k := by
  have hb : t.flashByte = c.flashByte := funext fun a => by rw [Chip.flashByte, h, Chip.flashByte]
  unfold Chip.calSlot Chip.flashRead
  rw [hb]

/-- The 64 bytes before the body of a slot. -/
def calHead (seq : Nat) (body : List Byte) : List Byte :=
  let a := bytesLE 4 calMagic ++ bytesLE 4 seq ++ bytesLE 4 body.length
  a ++ bytesLE 4 (crc32 (a ++ List.replicate 48 0 ++ body)).toNat ++ List.replicate 48 0

theorem calHead_length (seq : Nat) (body : List Byte) : (calHead seq body).length = 64 := by
  simp [calHead, bytesLE_length]

theorem calBytes_eq (seq : Nat) (body : List Byte) : calBytes seq body = calHead seq body ++ body := rfl

/-- The four words in front of a list. -/
theorem words_drop (a b d e : Nat) (z : List Byte) :
    let h := bytesLE 4 a ++ (bytesLE 4 b ++ (bytesLE 4 d ++ (bytesLE 4 e ++ z)))
    h.drop 4 = bytesLE 4 b ++ (bytesLE 4 d ++ (bytesLE 4 e ++ z)) ∧ h.drop 8 = bytesLE 4 d ++ (bytesLE 4 e ++ z) ∧
    h.drop 12 = bytesLE 4 e ++ z ∧ h.drop 16 = z := by
  intro h
  have h4 : h.drop 4 = bytesLE 4 b ++ (bytesLE 4 d ++ (bytesLE 4 e ++ z)) := drop_bytesLE ..
  have h8 : h.drop 8 = bytesLE 4 d ++ (bytesLE 4 e ++ z) := by rw [← List.drop_drop (i := 4) (j := 4), h4, drop_bytesLE]
  have h12 : h.drop 12 = bytesLE 4 e ++ z := by rw [← List.drop_drop (i := 4) (j := 8), h8, drop_bytesLE]
  exact ⟨h4, h8, h12, by rw [← List.drop_drop (i := 4) (j := 12), h12, drop_bytesLE]⟩

/-- What the fields of a slot's head read as. -/
theorem calHead_fields {seq : Nat} {body : List Byte} (hs : seq < 2 ^ 32) (hb : body.length ≤ 65472) :
    natOfLE ((calHead seq body).take 4) = calMagic ∧ natOfLE (slice (calHead seq body) 4 4) = seq ∧
    natOfLE (slice (calHead seq body) 8 4) = body.length ∧ (calHead seq body).drop 16 = List.replicate 48 0 ∧
    natOfLE (slice (calHead seq body) 12 4) =
      (crc32 ((calHead seq body).take 12 ++ List.replicate 48 0 ++ body)).toNat := by
  have hhead : calHead seq body = bytesLE 4 calMagic ++ (bytesLE 4 seq ++ (bytesLE 4 body.length ++
      (bytesLE 4 (crc32 (bytesLE 4 calMagic ++ bytesLE 4 seq ++ bytesLE 4 body.length ++ List.replicate 48 0 ++ body)).toNat ++
        List.replicate 48 0))) := by simp only [calHead, List.append_assoc]
  have htwelve : (calHead seq body).take 12 = bytesLE 4 calMagic ++ bytesLE 4 seq ++ bytesLE 4 body.length := by
    rw [calHead, List.append_assoc]
    exact List.take_left' (by simp [bytesLE_length])
  obtain ⟨hfour, height, hdtwelve, hsixteen⟩ := words_drop calMagic seq body.length
    (crc32 (bytesLE 4 calMagic ++ bytesLE 4 seq ++ bytesLE 4 body.length ++ List.replicate 48 0 ++ body)).toNat
    (List.replicate 48 0)
  rw [← hhead] at hfour height hdtwelve hsixteen
  refine ⟨?_, ?_, ?_, ?_, ?_⟩
  · rw [hhead, take_bytesLE]
    exact natOfLE_bytesLE_of_lt (by decide)
  · rw [slice, hfour, take_bytesLE, natOfLE_bytesLE_of_lt hs]
  · rw [slice, height, take_bytesLE, natOfLE_bytesLE_of_lt (by omega)]
  · exact hsixteen
  · rw [slice, hdtwelve, take_bytesLE, natOfLE_bytesLE_of_lt (BitVec.isLt _), htwelve]

/-- A slot programmed over erased bytes is valid (R397). -/
theorem Chip.calSlot_program {k seq : Nat} {body : List Byte} (hs : seq < 2 ^ 32) (hb : body.length ≤ 65472)
    (hne : 1 ≤ body.length) (he : ∀ x, calBase k ≤ x → x < calBase k + 0x10000 → c.flashByte x = erased) :
    (c.flashProgram (calBase k) (calBytes seq body)).calSlot k = some (seq, body) := by
  have hlen : (calBytes seq body).length = 64 + body.length := by
    rw [calBytes_eq, List.length_append, calHead_length]
  have her : ∀ x, calBase k ≤ x → x < calBase k + (calBytes seq body).length → c.flashByte x = erased :=
    fun x h1 h2 => he x h1 (by omega)
  have hhead : (c.flashProgram (calBase k) (calBytes seq body)).flashRead (calBase k) 64 = calHead seq body := by
    have h0 := c.flashRead_program (i := 0) (n := 64) (by omega) her
    rw [Nat.add_zero] at h0
    rw [h0, calBytes_eq, slice, List.drop_zero, ← calHead_length seq body,
      List.take_left]
  have hbody : (c.flashProgram (calBase k) (calBytes seq body)).flashRead (calBase k + 64) body.length = body := by
    rw [c.flashRead_program (by omega) her, calBytes_eq, slice, ← calHead_length seq body, List.drop_left, List.take_length]
  obtain ⟨hmagic, hseq, hl, hzero, hcrc⟩ := calHead_fields hs hb
  simp only [Chip.calSlot, hhead, hl, hbody, hseq]
  rw [if_pos ⟨hmagic, hne, hb, by rw [hzero]; decide, by rw [hcrc, hzero]⟩]

/-! The commands -/

theorem Chip.calBody_congr {t : Chip} (h : t.pwr = c.pwr) : t.calBody = c.calBody := by
  simp only [Chip.calBody, Chip.coeff, Chip.trimBytes, Chip.calOf, h]

theorem Chip.calStart_busy (h : c.fw.calSaving ≠ none) : c.calStart = c := by
  obtain ⟨k, hk⟩ := Option.ne_none_iff_exists'.1 h
  simp only [Chip.calStart, hk]

/-- The slot that a save erases. -/
def Chip.calOther : Nat := if c.flag pgPwr 0x1064 0 then 1 - c.field pgPwr 0x1064 1 1 else 0

/-- The part with a save of slot `k` under way. -/
def Chip.calBegun (k : Nat) : Chip :=
  { (c.flashErase (calBase k) 0x10000).setFlag pgPwr 0x1064 2 true with
    fw := { ((c.flashErase (calBase k) 0x10000).setFlag pgPwr 0x1064 2 true).fw with calSaving := some k } }

theorem Chip.calStart_begins (h : c.fw.calSaving = none) : c.calStart = c.calBegun c.calOther := by
  simp only [Chip.calStart, h, Chip.calBegun, Chip.calOther]

theorem Chip.calDone_idle (ok : Bool) (h : c.fw.calSaving = none) : c.calDone ok = c := by
  simp only [Chip.calDone, h]

/-- The part with no save under way. -/
def Chip.calEnded : Chip := { c.setFlag pgPwr 0x1064 2 false with fw := { c.fw with calSaving := none } }

/-- The part with a calibration saved in slot `k`. -/
def Chip.calSaved (k : Nat) (body : List Byte) : Chip :=
  (((c.flashProgram (calBase k) (calBytes (((c.reg pgPwr 0x1068).toNat + 1) % 2 ^ 32) body)).setFlag pgPwr 0x1064 0 true).setField
    pgPwr 0x1064 1 1 k).setReg pgPwr 0x1068 (BitVec.ofNat 32 ((c.reg pgPwr 0x1068).toNat + 1))

theorem Chip.calDone_saves {k : Nat} (h : c.fw.calSaving = some k) (hb : c.calBody.length ≤ 65472) :
    c.calDone true = c.calEnded.calSaved k c.calBody := by
  have hbody : Chip.calBody { c.setFlag pgPwr 0x1064 2 false with fw := { c.fw with calSaving := none } } = c.calBody :=
    c.calBody_congr rfl
  simp only [Chip.calDone, h]
  rw [hbody, if_pos ⟨trivial, hb⟩]
  rfl

theorem Chip.calDone_fails {k : Nat} {ok : Bool} (h : c.fw.calSaving = some k) (hf : ok = false ∨ 65472 < c.calBody.length) :
    c.calDone ok = (c.calEnded.setFlag pgPwr 0x1064 3 true).raise (evP pgPwr 0x0909 dieV 0) := by
  have hbody : Chip.calBody { c.setFlag pgPwr 0x1064 2 false with fw := { c.fw with calSaving := none } } = c.calBody :=
    c.calBody_congr rfl
  simp only [Chip.calDone, h]
  rw [hbody, if_neg (by rintro ⟨h1, h2⟩; obtain rfl | h3 := hf; · exact absurd h1 (by decide)
                        · omega)]
  rfl

end

/-- The calibration's status is none of the status flags. -/
theorem Chip.smbStatusWord_calFlag (c : Chip) (i : Nat) (b : Bool) :
    (c.setFlag pgPwr 0x1064 i b).smbStatusWord = c.smbStatusWord :=
  Chip.smbStatusWord_setFlag_off (by decide) (by decide) (by decide) i b

section
variable (c : Chip)

theorem Chip.calSaved_status (k : Nat) (body : List Byte) : (c.calSaved k body).smbStatusWord = c.smbStatusWord := by
  have hseq : ∀ (d : Chip) (v : W32), (d.setReg pgPwr 0x1068 v).smbStatusWord = d.smbStatusWord := fun d =>
    Chip.smbStatusWord_setReg_off (by decide) (by decide) (by decide)
  rw [Chip.calSaved, hseq]
  exact (Chip.smbStatusWord_setField_off (by decide) (by decide) (by decide) _ _ _).trans (Chip.smbStatusWord_calFlag _ _ _)

theorem Chip.calBegun_only (k : Nat) : Chip.only [.regs, .fw] c (c.calBegun k) := by
  simp [Chip.only, Chip.calBegun, Chip.flashErase, Chip.setFlash]
theorem Chip.calEnded_only : Chip.only [.regs, .fw] c c.calEnded := by simp [Chip.only, Chip.calEnded]
theorem Chip.calSaved_only (k : Nat) (body : List Byte) : Chip.only [.regs, .fw] c (c.calSaved k body) := by
  simp [Chip.only, Chip.calSaved, Chip.flashProgram, Chip.setFlash]

theorem Chip.calBegun_flash (k a : Nat) : (c.calBegun k).flashByte a =
    if calBase k ≤ a ∧ a < calBase k + 0x10000 then erased else c.flashByte a := c.flashByte_erase (calBase k) a 0x10000

theorem Chip.calBegun_regsBut (k : Nat) : c.regsBut (c.calBegun k) [regKey pgPwr 0x1064 0] := fun _ _ _ hk =>
  Chip.reg_setFlag_other (c.flashErase (calBase k) 0x10000) _ _ fun he => hk (List.mem_singleton.2 he)

theorem Chip.calEnded_seq : c.calEnded.reg pgPwr 0x1068 = c.reg pgPwr 0x1068 :=
  Chip.reg_setFlag_other _ _ _ (regKey_ne_of_off (by decide) (by decide) (by decide))

/-- The slot's status after a save. -/
theorem Chip.calSaved_stat {k : Nat} (hk : k < 2) (body : List Byte) : (c.calSaved k body).flag pgPwr 0x1064 0 = true ∧
    (c.calSaved k body).field pgPwr 0x1064 1 1 = k ∧
    (c.calSaved k body).flag pgPwr 0x1064 2 = c.flag pgPwr 0x1064 2 ∧
    (c.calSaved k body).reg pgPwr 0x1068 = c.reg pgPwr 0x1068 + 1 := by
  have hseq : ∀ (d : Chip) (v : W32), (d.setReg pgPwr 0x1068 v).reg pgPwr 0x1064 = d.reg pgPwr 0x1064 := fun d v =>
    d.reg_setReg_off v (by decide) (by decide) (by decide)
  have hslot : ∀ (d : Chip) (i : Nat), i ≠ 1 → (d.setField pgPwr 0x1064 1 1 k).flag pgPwr 0x1064 i = d.flag pgPwr 0x1064 i :=
    fun d i hi => by
      simp only [Chip.flag, Chip.setField, Chip.reg_setReg]
      exact putFld_bit_other _ _ _ _ _ (by omega)
  have hflag : ∀ i, (c.calSaved k body).flag pgPwr 0x1064 i = Chip.flag (((c.flashProgram (calBase k)
      (calBytes (((c.reg pgPwr 0x1068).toNat + 1) % 2 ^ 32) body)).setFlag pgPwr 0x1064 0 true).setField
        pgPwr 0x1064 1 1 k) pgPwr 0x1064 i := fun i => by rw [Chip.flag, Chip.calSaved, hseq, Chip.flag]
  refine ⟨?_, ?_, ?_, ?_⟩
  · rw [hflag, hslot _ _ (by decide), Chip.flag_setFlag _ _ _ _ _ _ (by decide)]
  · rw [Chip.field, Chip.calSaved, hseq]
    exact (Chip.field_setField _ _ _ _ _ _ _ (by decide)).trans (Nat.mod_eq_of_lt hk)
  · rw [hflag, hslot _ _ (by decide), Chip.flag_setFlag_other _ _ _ _ _ _ _ (by decide)]
    rfl
  · rw [Chip.calSaved, Chip.reg_setReg, BitVec.ofNat_add, BitVec.ofNat_toNat]
    simp

theorem Chip.calSaved_flash (k : Nat) (body : List Byte) : (c.calSaved k body).fw =
    (c.flashProgram (calBase k) (calBytes (((c.reg pgPwr 0x1068).toNat + 1) % 2 ^ 32) body)).fw := rfl

/-- A calibration saved in an erased slot reads back, and no byte of another place changes. -/
theorem Chip.calSaved_reads {k : Nat} (hk : k < 2) {body : List Byte} (hb : body.length ≤ 65472) (hne : 1 ≤ body.length)
    (he : ∀ x, calBase k ≤ x → x < calBase k + 0x10000 → c.flashByte x = erased) :
    (c.calSaved k body).calSlot k = some (((c.calSaved k body).reg pgPwr 0x1068).toNat, body) ∧
    ∀ a, a < calBase k ∨ calBase k + 0x10000 ≤ a → (c.calSaved k body).flashByte a = c.flashByte a := by
  obtain ⟨-, -, -, hseq⟩ := c.calSaved_stat hk body
  refine ⟨?_, fun a ha => ?_⟩
  · rw [Chip.calSlot_congr _ (congrArg FwSt.flash (c.calSaved_flash k body)),
      c.calSlot_program (Nat.mod_lt _ (by decide)) hb hne he, hseq, BitVec.toNat_add]
    rfl
  · have hlen : (calBytes (((c.reg pgPwr 0x1068).toNat + 1) % 2 ^ 32) body).length = 64 + body.length := by
      rw [calBytes_eq, List.length_append, calHead_length]
    rw [Chip.flashByte, c.calSaved_flash, ← Chip.flashByte, Chip.flashByte_program]
    exact if_neg (by omega)

theorem Chip.calBody_ne : 1 ≤ c.calBody.length := by
  rw [c.calBody_eq, List.append_assoc, List.append_assoc, List.length_append, bytesLE_length]
  omega
end

section
variable {s : State}

/-- Both commands of a save, while firmware runs. -/
theorem exec_calSave (hserves : s.chip.serves pgPwr = true) (hup : s.chip.standbyUp = true) {i : Instr}
    (hi : i ∈ [Instr.calSave, Instr.calSavePeriodic]) :
    (s.chip.fwState ≠ 2 ∨ s.chip.fw.calSaving ≠ none → exec i s = .next s) ∧
    (s.chip.fwState = 2 → s.chip.fw.calSaving = none → exec i s = .next (s.put (s.chip.calBegun s.chip.calOther))) := by
  have hrun : ∃ g : Chip → Bool, g s.chip = true ∧
      exec i s = s.run fun c => if g c && decide (c.fwState = 2) then c.calStart else c := by
    simp only [List.mem_cons, List.not_mem_nil, or_false] at hi
    obtain rfl | rfl := hi
    · exact ⟨(·.serves pgPwr), hserves, rfl⟩
    · exact ⟨(·.standbyUp), hup, rfl⟩
  obtain ⟨g, hg, he⟩ := hrun
  refine ⟨fun h => ?_, fun hr hn => ?_⟩
  · rw [he]
    refine State.run_eq_self (ite_eq_right_iff.2 fun hb => s.chip.calStart_busy (h.resolve_left fun hne => hne ?_))
    exact of_decide_eq_true (Bool.and_eq_true_iff.1 hb).2
  · have hgate : (g s.chip && decide (s.chip.fwState = 2)) = true := by rw [hg, decide_eq_true hr]; rfl
    exact exec_gated_put (fun c => g c && decide (c.fwState = 2)) (·.calStart) he hgate (s.chip.calStart_begins hn)
      (s.chip.smbStatusWord_calFlag _ _)
end

/-- Settles O22. -/
theorem calibrationIsSaved : Obligations.CalibrationIsSaved := by
  unfold Obligations.CalibrationIsSaved
  intro s hserves hup c other base
  refine ⟨fun i hi => ⟨(exec_calSave hserves hup hi).1, fun hr hn => ?_⟩, fun ok hn => ?_, fun ht hb d hd => ?_,
    fun k hk => ⟨fun ok hf => ?_, fun hlt hb he => ?_⟩⟩
  · refine ⟨_, (exec_calSave hserves hup hi).2 hr hn, rfl, ?_⟩
    exact ⟨rfl, Chip.flag_setFlag _ _ _ _ _ _ (by decide), s.chip.calBegun_regsBut _, s.chip.calBegun_only _,
      s.chip.calBegun_flash _⟩
  · exact exec_gated_self (·.standbyUp) (·.calDone ok) rfl hup (s.chip.calDone_idle ok hn)
  · rw [s.chip.calUse_calOf ht hb hd]
    exact ⟨rfl, rfl, fun kind hkind => s.chip.calUse_coeff hd hkind⟩
  · exact exec_gated (·.standbyUp) (·.calDone ok) rfl hup (s.chip.calDone_fails hk hf)
  · obtain ⟨hvalid, hslot, hbusy, hseq⟩ := s.chip.calEnded.calSaved_stat hlt s.chip.calBody
    obtain ⟨hread, hother⟩ := s.chip.calEnded.calSaved_reads hlt hb s.chip.calBody_ne he
    refine ⟨_, exec_gated_put (·.standbyUp) (·.calDone true) rfl hup (s.chip.calDone_saves hk hb)
      ((Chip.calSaved_status _ _ _).trans (s.chip.smbStatusWord_calFlag _ _)), rfl, ?_⟩
    refine ⟨rfl, hbusy.trans ?_, hvalid, hslot, hseq.trans (by rw [s.chip.calEnded_seq]), hread, hother, ?_⟩
    · exact Chip.flag_setFlag _ _ _ _ _ _ (by decide)
    · exact Chip.only_trans s.chip.calEnded_only (Chip.calSaved_only _ _ _)

end Sys2Proof.Machine
end

section
/-! The meters (R384 to R387, R395, R401): the RATE of a domain is a number of the part, and each meter is set from it. -/

namespace Sys2Proof.Machine

/-! The RATE of a domain -/

section
variable (c : Chip) (d : Nat)

/-- The RATE before a supply loss or a trip, and before it is held to the largest (R385, R395, R401). -/
def Chip.meterKept : Nat :=
  let th := thermalRate (c.meterFloor d) (c.meterMax d) (c.domainTemp d)
  let kept := max (c.meterFloor d) (min (c.budgetAllow d) (min th (c.ilimAllow d)))
  let kept := if 840 < c.domainTemp d then min kept th else kept
  match c.deepLimit d with | some n => min kept n | none => kept

def Chip.meterRate : Nat := if c.pwr.vinLost || c.pwr.tripped then 0 else min (c.meterKept d) (c.meterMax d)

/-- A status bit of a meter by its place. -/
def statBit (x : Bool) (i : Nat) : Nat := if x then 2 ^ i else 0

/-- METER_STAT of a domain. -/
def Chip.meterStat : Nat :=
  let th := thermalRate (c.meterFloor d) (c.meterMax d) (c.domainTemp d)
  let rate := c.meterRate d
  statBit (decide (rate < c.meterFloor d)) 0 + statBit (decide (th ≤ rate ∧ th < c.meterMax d)) 1 +
    statBit (decide (c.ilimAllow d ≤ rate ∧ c.ilimAllow d < c.meterMax d)) 2 +
    statBit (decide (c.budgetAllow d ≤ rate ∧ c.budgetAllow d < c.meterMax d)) 3 +
    statBit (c.flag pgPwr 0x1048 4 d) 4 + statBit c.pwr.vinLost 5

/-- The meter's two registers. -/
def Chip.meterWritten : Chip :=
  (c.setReg pgPwr 0x1044 (BitVec.ofNat 32 (c.meterRate d)) d).setReg pgPwr 0x1048 (BitVec.ofNat 32 (c.meterStat d)) d

theorem Chip.meterSet_eq : c.meterSet d = if c.meterRate d < c.meterFloor d ∧ !c.flag pgPwr 0x1048 0 d then
    (c.meterWritten d).raise (evP pgPwr 0x0907 dieV d) else c.meterWritten d := rfl

/-! Its bounds -/

theorem Chip.meterFloor_le_max : c.meterFloor d ≤ c.meterMax d := by
  unfold Chip.meterMax
  split_ifs with h
  · simp [Chip.meterFloor, h]
  · exact le_max_left _ _

theorem Chip.meterMax_lt : c.meterMax d < 2 ^ 32 := by
  have hf : c.meterFloor d ≤ 9920 := by
    unfold Chip.meterFloor
    split_ifs <;> omega
  unfold Chip.meterMax
  split_ifs <;> omega

theorem thermalRate_le {floor top : Nat} {t : Int} (h : floor ≤ top) (ht : t ≤ 840) :
    floor ≤ thermalRate floor top t ∧ thermalRate floor top t ≤ top := by
  unfold thermalRate
  split_ifs with hlow
  · exact ⟨h, le_rfl⟩
  · have hle : (top - floor) * (840 - t).toNat / 40 ≤ top - floor := by
      refine Nat.div_le_of_le_mul ?_
      rw [Nat.mul_comm 40]
      exact Nat.mul_le_mul_left _ (by omega)
    omega

/-- An allowance that no rail lowers. -/
theorem Chip.ilimAllow_free (h : ∀ r ∈ domainRails d, Tbl.get none c.pwr.ilim r = none) : c.ilimAllow d = c.meterMax d := by
  have hfold : ∀ (rs : List Nat) (m : Nat), (∀ r ∈ rs, Tbl.get none c.pwr.ilim r = none) →
      rs.foldl (fun m r => match Tbl.get none c.pwr.ilim r with | some n => min m n | none => m) m = m := by
    intro rs
    induction rs with
    | nil => exact fun _ _ => rfl
    | cons r rs ih =>
      intro m hr
      rw [List.foldl_cons, hr r (List.mem_cons_self ..)]
      exact ih m fun q hq => hr q (List.mem_cons_of_mem _ hq)
  exact hfold _ _ h

theorem Chip.budgetAllow_off (h : c.flag pgPwr 0x1000 0 = false) : c.budgetAllow d = c.meterMax d := by
  simp only [Chip.budgetAllow, h]

/-- A rail with more than one failure pulls its domain below the floor. -/
theorem Chip.deepLimit_le {n : Nat} (h : c.deepLimit d = some n) : n ≤ c.meterFloor d - 1 := by
  have hfold : ∀ (rs : List Nat) (m : Option Nat), (∀ k, m = some k → k ≤ c.meterFloor d - 1) →
      ∀ k, (rs.foldl (fun m r =>
        if 2 ≤ c.railFailures r ∧ c.effCentiamp r < c.floorCurrent d r then
          let n := min (Config.rateAtLimit c.fresh r) (c.meterFloor d - 1)
          some (match m with | some k => min k n | none => n)
        else m) m) = some k → k ≤ c.meterFloor d - 1 := by
    intro rs
    induction rs with
    | nil => exact fun _ hm => hm
    | cons r rs ih =>
      intro m hm
      rw [List.foldl_cons]
      refine ih _ fun k hk => ?_
      split_ifs at hk with hr
      · rw [← Option.some.inj hk]
        split <;> omega
      · exact hm k hk
  exact hfold _ _ (fun k hk => absurd hk (by simp)) n h

/-- What R384 to R401 say of the RATE where the meter does not stop. -/
theorem Chip.meterKept_none (h : c.deepLimit d = none) : c.meterKept d =
    (if 840 < c.domainTemp d then
      min (max (c.meterFloor d) (min (c.budgetAllow d) (min (thermalRate (c.meterFloor d) (c.meterMax d) (c.domainTemp d)) (c.ilimAllow d))))
        (thermalRate (c.meterFloor d) (c.meterMax d) (c.domainTemp d))
    else max (c.meterFloor d) (min (c.budgetAllow d) (min (thermalRate (c.meterFloor d) (c.meterMax d) (c.domainTemp d)) (c.ilimAllow d)))) := by
  simp only [Chip.meterKept, h]

theorem Chip.meterKept_le_thermal (h : 840 < c.domainTemp d) :
    c.meterKept d ≤ thermalRate (c.meterFloor d) (c.meterMax d) (c.domainTemp d) := by
  simp only [Chip.meterKept, if_pos h]
  split
  · exact (min_le_left _ _).trans (min_le_right _ _)
  · exact min_le_right _ _

theorem Chip.meterKept_le_deep {n : Nat} (h : c.deepLimit d = some n) : c.meterKept d ≤ n := by
  simp only [Chip.meterKept, h]
  exact min_le_right _ _

/-- With no rail, budget or limit below it, the RATE is the thermal allowance up to 105 °C. -/
theorem Chip.meterKept_free (hr : ∀ r ∈ domainRails d, Tbl.get none c.pwr.ilim r = none) (hb : c.flag pgPwr 0x1000 0 = false)
    (hd : c.deepLimit d = none) (ht : c.domainTemp d ≤ 840) :
    c.meterKept d = thermalRate (c.meterFloor d) (c.meterMax d) (c.domainTemp d) := by
  obtain ⟨hlo, hhi⟩ := thermalRate_le (c.meterFloor_le_max d) ht
  rw [c.meterKept_none d hd, if_neg (by omega), c.ilimAllow_free d hr, c.budgetAllow_off d hb, min_eq_left hhi,
    min_eq_right hhi, max_eq_right hlo]

theorem Chip.meterKept_ge (hd : c.deepLimit d = none) (ht : c.domainTemp d ≤ 840) : c.meterFloor d ≤ c.meterKept d := by
  rw [c.meterKept_none d hd, if_neg (by omega)]
  exact le_max_left _ _

theorem Chip.meterRate_le : c.meterRate d ≤ c.meterMax d := by
  unfold Chip.meterRate
  split_ifs
  · exact Nat.zero_le _
  · exact min_le_right _ _

theorem Chip.meterRate_runs (hv : c.pwr.vinLost = false) (ht : c.pwr.tripped = false) :
    c.meterRate d = min (c.meterKept d) (c.meterMax d) := by
  rw [Chip.meterRate, hv, ht]
  rfl

theorem Chip.meterRate_stopped (h : c.pwr.vinLost = true ∨ c.pwr.tripped = true) : c.meterRate d = 0 :=
  if_pos (by simpa using h)

/-- Two bits of a meter's status. -/
theorem meterStat_bits (b0 b1 b2 b3 b4 b5 : Bool) : (BitVec.ofNat 32 (statBit b0 0 + statBit b1 1 + statBit b2 2 +
    statBit b3 3 + statBit b4 4 + statBit b5 5)).getLsbD 0 = b0 ∧ (BitVec.ofNat 32 (statBit b0 0 + statBit b1 1 + statBit b2 2 +
    statBit b3 3 + statBit b4 4 + statBit b5 5)).getLsbD 5 = b5 := by
  revert b0 b1 b2 b3 b4 b5
  decide
end

/-! What setting the other meters leaves -/

/-- The registers that setting meters and their events can write, by their offsets. -/
def meterOffs : List Nat := [0x1044, 0x1048] ++ evOffs

/-- Nothing changes but events and the meters' registers, and those of domain `d` stay. -/
structure Chip.MeterKept (d : Nat) (a b : Chip) : Prop where
  only : Chip.only [.regs, .ev, .snap] a b
  reg : ∀ page off inst, off < 0x10000 → off ∉ meterOffs → b.reg page off inst = a.reg page off inst
  rate : b.reg pgPwr 0x1044 d = a.reg pgPwr 0x1044 d
  stat : b.reg pgPwr 0x1048 d = a.reg pgPwr 0x1048 d

section
variable {a b c : Chip} {d e : Nat}

theorem Chip.MeterKept.refl (d : Nat) (a : Chip) : a.MeterKept d a :=
  ⟨Chip.only_rfl a _, fun _ _ _ _ _ => rfl, rfl, rfl⟩

theorem Chip.MeterKept.trans (h : a.MeterKept d b) (k : b.MeterKept d c) : a.MeterKept d c :=
  ⟨Chip.only_trans h.only k.only, fun p o i ho hn => (k.reg p o i ho hn).trans (h.reg p o i ho hn), k.rate.trans h.rate,
    k.stat.trans h.stat⟩

theorem Chip.MeterKept.fields (h : a.MeterKept d b) : b.pwr = a.pwr ∧ b.flt = a.flt ∧ b.fresh = a.fresh := by
  have := h.only
  simp only [Chip.only, List.mem_cons, reduceCtorEq, List.not_mem_nil, or_self, false_or] at this
  tauto

/-- An event leaves the meters. -/
theorem Chip.meterKept_raise (d : Nat) (c : Chip) (v : Ev) : c.MeterKept d (c.raise v) where
  only := Chip.only_mono (by decide) (c.raise_only v)
  reg _ _ _ ho hn := c.raise_reg_off v ho fun h => hn (List.mem_append_right _ h)
  rate := c.raise_reg_off v (by decide) (by decide)
  stat := c.raise_reg_off v (by decide) (by decide)

/-- Another domain's registers. -/
theorem Chip.meterKept_written (h : e ≠ d) (c : Chip) : c.MeterKept e (c.meterWritten d) where
  only := by simp [Chip.only, Chip.meterWritten]
  reg _ _ _ ho hn := by
    rw [Chip.meterWritten, Chip.reg_setReg_off _ (by decide) ho (fun he => hn (he ▸ by decide)),
      Chip.reg_setReg_off _ (by decide) ho (fun he => hn (he ▸ by decide))]
  rate := by
    rw [Chip.meterWritten, Chip.reg_setReg_off _ (by decide) (by decide) (by decide)]
    exact c.reg_setReg_other _ fun he => h (regKey_inj (by decide) (by decide) (by decide) (by decide) he).2.2
  stat := by
    refine (Chip.reg_setReg_other _ _ fun he => h (regKey_inj (by decide) (by decide) (by decide) (by decide) he).2.2).trans ?_
    exact Chip.reg_setReg_off _ (by decide) (by decide) (by decide)

theorem Chip.meterKept_set (h : e ≠ d) (c : Chip) : c.MeterKept e (c.meterSet d) := by
  rw [c.meterSet_eq]
  split
  · exact (Chip.meterKept_written h c).trans (Chip.meterKept_raise e _ _)
  · exact Chip.meterKept_written h c

theorem Chip.meterSet_only (c : Chip) (d : Nat) : Chip.only [.regs, .ev, .snap] c (c.meterSet d) :=
  (Chip.meterKept_set (Nat.succ_ne_self d) c).only

/-- What the RATE is computed from. -/
theorem Chip.MeterKept.inputs (h : a.MeterKept d b) : b.meterFloor e = a.meterFloor e ∧ b.meterMax e = a.meterMax e ∧
    b.domainTemp e = a.domainTemp e ∧ b.ilimAllow e = a.ilimAllow e ∧ b.budgetAllow e = a.budgetAllow e ∧
    b.deepLimit e = a.deepLimit e := by
  obtain ⟨hpwr, hflt, hfresh⟩ := h.fields
  have hfloor : b.meterFloor e = a.meterFloor e := by simp only [Chip.meterFloor, Chip.lanesAt, hflt]
  have hmax : b.meterMax e = a.meterMax e := by simp only [Chip.meterMax, hfloor]
  have htemp : b.domainTemp e = a.domainTemp e := by
    have hj : b.junction = a.junction := funext fun x => by
      rw [Chip.junction, Chip.field, h.reg _ _ _ (by decide) (by decide), Chip.junction, Chip.field]
    simp only [Chip.domainTemp, Chip.dieFailed, hflt, hj]
  have hstat : ∀ i r, b.flag pgPwr 0x1030 i r = a.flag pgPwr 0x1030 i r := fun i r => by
    rw [Chip.flag, h.reg _ _ _ (by decide) (by decide), Chip.flag]
  refine ⟨hfloor, hmax, htemp, ?_, ?_, ?_⟩
  · simp only [Chip.ilimAllow, hpwr, hmax]
  · have hen : b.flag pgPwr 0x1000 0 = a.flag pgPwr 0x1000 0 := by
      rw [Chip.flag, h.reg _ _ _ (by decide) (by decide), Chip.flag]
    simp only [Chip.budgetAllow, hpwr, hmax, hen]
  · have hleft : b.phasesLeft = a.phasesLeft := funext fun r => by simp only [Chip.phasesLeft, Chip.shed, hstat]
    have hfail : b.railFailures = a.railFailures := funext fun r => by
      simp only [Chip.railFailures, Chip.senseFail, hleft, hstat]
    have hest : b.estimateOnly = a.estimateOnly := funext fun r => by
      simp only [Chip.estimateOnly, Chip.senseFail, hstat, hpwr]
    have heff : b.effCentiamp = a.effCentiamp := by
      unfold Chip.effCentiamp
      rw [hleft, hest]
    have hcur : b.floorCurrent e = a.floorCurrent e := funext fun r => by
      simp only [Chip.floorCurrent, hfresh, htemp]
    unfold Chip.deepLimit
    rw [hfail, heff, hcur, hfresh, hfloor]

theorem Chip.MeterKept.rate_eq (h : a.MeterKept d b) : b.meterRate e = a.meterRate e := by
  obtain ⟨hfloor, hmax, htemp, hil, hbu, hdeep⟩ := h.inputs (e := e)
  obtain ⟨hpwr, -, -⟩ := h.fields
  simp only [Chip.meterRate, Chip.meterKept, hfloor, hmax, htemp, hil, hbu, hdeep, hpwr]

/-- A domain's own registers once its meter is set. -/
theorem Chip.meterSet_regs (c : Chip) (d : Nat) : (c.meterSet d).reg pgPwr 0x1044 d = BitVec.ofNat 32 (c.meterRate d) ∧
    (c.meterSet d).reg pgPwr 0x1048 d = BitVec.ofNat 32 (c.meterStat d) := by
  have hrate : (c.meterWritten d).reg pgPwr 0x1044 d = BitVec.ofNat 32 (c.meterRate d) :=
    (Chip.reg_setReg_off _ (by decide) (by decide) (by decide)).trans (Chip.reg_setReg ..)
  have hstat : (c.meterWritten d).reg pgPwr 0x1048 d = BitVec.ofNat 32 (c.meterStat d) := Chip.reg_setReg ..
  rw [c.meterSet_eq]
  split
  · exact ⟨(Chip.meterKept_raise d _ _).rate.trans hrate, (Chip.meterKept_raise d _ _).stat.trans hstat⟩
  · exact ⟨hrate, hstat⟩

/-- Every meter, once all are set: its RATE and the two bits of its status that R385 and R396 speak of. -/
theorem Chip.metersSet_meter (c : Chip) {d : Nat} (hd : d < 17) :
    (c.metersSet.reg pgPwr 0x1044 d).toNat = c.meterRate d ∧
    (c.metersSet.flag pgPwr 0x1048 0 d = true ↔ c.meterRate d < c.meterFloor d) ∧
    c.metersSet.flag pgPwr 0x1048 5 d = c.pwr.vinLost := by
  obtain ⟨k, hbefore, hafter⟩ := forAll_once (R := Chip.MeterKept d) (Chip.MeterKept.refl d) (fun _ _ _ => Chip.MeterKept.trans)
    (f := fun e x => x.meterSet e) (xs := List.range 17) (fun e _ he c => Chip.meterKept_set (Ne.symm he) c)
    List.nodup_range (List.mem_range.2 hd) c
  obtain ⟨hrate, hstat⟩ := k.meterSet_regs d
  obtain ⟨hfloor, -, -, -, -, -⟩ := hbefore.inputs (e := d)
  obtain ⟨hpwr, -, -⟩ := hbefore.fields
  have hr : c.metersSet.reg pgPwr 0x1044 d = BitVec.ofNat 32 (c.meterRate d) :=
    hafter.rate.trans (hrate.trans (by rw [hbefore.rate_eq]))
  have hs : c.metersSet.reg pgPwr 0x1048 d = BitVec.ofNat 32 (k.meterStat d) := hafter.stat.trans hstat
  obtain ⟨hbelow, hlost⟩ := meterStat_bits (decide (k.meterRate d < k.meterFloor d)) _ _ _ _ k.pwr.vinLost
  refine ⟨?_, ?_, ?_⟩
  · rw [hr, BitVec.toNat_ofNat, Nat.mod_eq_of_lt ((c.meterRate_le d).trans_lt (c.meterMax_lt d))]
  · rw [Chip.flag, hs, Chip.meterStat, hbelow, decide_eq_true_iff, hbefore.rate_eq, hfloor]
  · rw [Chip.flag, hs, Chip.meterStat, hlost, hpwr]

theorem Chip.metersSet_only (c : Chip) : Chip.only [.regs, .ev, .snap] c c.metersSet :=
  Chip.only_forAll c _ _ fun d x => x.meterSet_only d
end

/-- Settles O19: every meter shows `Chip.meterRate`, whose bounds are those of R384 to R401. -/
theorem metersHoldTheAllowances : Obligations.MetersHoldTheAllowances := by
  unfold Obligations.MetersHoldTheAllowances
  intro s hup
  refine yields_after (exec_gated (·.v0Up) Chip.metersSet rfl hup rfl) ⟨Chip.only_settleAlerts s.chip.metersSet_only, fun d hd => ?_⟩
  obtain ⟨hrate, hbelow, hlost⟩ := s.chip.metersSet_meter hd
  simp only [Chip.settleAlerts_reg, Chip.settleAlerts_flag, hrate]
  refine ⟨s.chip.meterRate_stopped d, fun hv ht => ?_, hbelow, hlost⟩
  have hmax := s.chip.meterFloor_le_max d
  rw [s.chip.meterRate_runs d hv ht]
  refine ⟨fun ⟨hr, hb, hdeep⟩ hcool => ?_, fun ⟨hr, hb, hdeep⟩ hlo hhi => ?_, fun hcool hdeep => ?_, fun hhot => ?_,
    fun n hn => ?_⟩
  · rw [s.chip.meterKept_free d hr hb hdeep (by omega), thermalRate, if_pos hcool, min_self]
  · rw [s.chip.meterKept_free d hr hb hdeep hhi, min_eq_left (thermalRate_le hmax hhi).2, thermalRate, if_neg (by omega), if_pos hhi]
  · exact ⟨le_min (s.chip.meterKept_ge d hdeep hcool) hmax, min_le_right _ _⟩
  · refine (min_le_left _ _).trans ((s.chip.meterKept_le_thermal d hhot).trans ?_)
    rw [thermalRate, if_neg (by omega), if_neg (by omega)]
  · exact ⟨(min_le_left _ _).trans (s.chip.meterKept_le_deep d hn), s.chip.deepLimit_le d hn⟩

end Sys2Proof.Machine
end

section
/-! Junction temperatures and the trip (R400 to R402). -/

namespace Sys2Proof.Machine

/-! Lists of readings -/

theorem mem_insertBy {α : Type} (le : α → α → Bool) (x y : α) (xs : List α) :
    y ∈ insertBy le x xs ↔ y = x ∨ y ∈ xs := by
  induction xs with
  | nil => simp [insertBy]
  | cons z zs ih =>
    rw [insertBy]
    split
    · simp only [List.mem_cons, ih]
      tauto
    · simp only [List.mem_cons]

theorem length_insertBy {α : Type} (le : α → α → Bool) (x : α) (xs : List α) :
    (insertBy le x xs).length = xs.length + 1 := by
  induction xs with
  | nil => rfl
  | cons z zs ih =>
    rw [insertBy]
    split <;> simp [ih]

/-- A sorted list has the members of the list, and as many. -/
theorem sortBy_members {α : Type} (le : α → α → Bool) (xs : List α) :
    (∀ y, y ∈ sortBy le xs ↔ y ∈ xs) ∧ (sortBy le xs).length = xs.length := by
  have hfold : ∀ (xs acc : List α), (∀ y, y ∈ xs.foldl (fun ys x => insertBy le x ys) acc ↔ y ∈ acc ∨ y ∈ xs) ∧
      (xs.foldl (fun ys x => insertBy le x ys) acc).length = acc.length + xs.length := by
    intro xs
    induction xs with
    | nil => simp
    | cons x xs ih =>
      intro acc
      obtain ⟨hm, hl⟩ := ih (insertBy le x acc)
      refine ⟨fun y => ?_, ?_⟩
      · rw [List.foldl_cons, hm, mem_insertBy, List.mem_cons]
        tauto
      · rw [List.foldl_cons, hl, length_insertBy, List.length_cons]
        omega
  obtain ⟨hm, hl⟩ := hfold xs []
  exact ⟨fun y => (hm y).trans (by simp), hl.trans (by simp)⟩

/-- Twice the median lies as near to a reading as twice the spread. -/
theorem median2_near {xs : List Int} {y w : Int} (hne : xs ≠ []) (h : ∀ x ∈ xs, y - x ≤ w ∧ x - y ≤ w) :
    (2 * y - median2 xs).natAbs ≤ (2 * w).toNat := by
  obtain ⟨hm, hl⟩ := sortBy_members (fun a b => decide (a ≤ b)) xs
  have hpos : 0 < xs.length := List.length_pos_iff.2 hne
  have hget : ∀ i, i < xs.length → (sortBy (fun a b => decide (a ≤ b)) xs).getD i 0 ∈ xs := fun i hi => by
    rw [List.getD_eq_getElem _ _ (by omega)]
    exact (hm _).1 (List.getElem_mem _)
  unfold median2
  dsimp only
  rw [hl]
  split_ifs with hodd
  · obtain ⟨h1, h2⟩ := h _ (hget (xs.length / 2) (by omega))
    omega
  · obtain ⟨h1, h2⟩ := h _ (hget (xs.length / 2) (by omega))
    obtain ⟨h3, h4⟩ := h _ (hget (xs.length / 2 - 1) (by omega))
    omega

/-- The highest temperature of a list that is not empty, with none below −256 °C, is one of them. -/
theorem maxTemp_mem {xs : List Int} (hne : xs ≠ []) (h : ∀ x ∈ xs, -2048 ≤ x) : maxTemp xs ∈ xs ∧ ∀ x ∈ xs, x ≤ maxTemp xs := by
  induction xs with
  | nil => exact absurd rfl hne
  | cons t ts ih =>
    have ht := h t (List.mem_cons_self ..)
    by_cases hts : ts = []
    · subst hts
      simp [maxTemp, ht]
    · obtain ⟨hm, hle⟩ := ih hts fun x hx => h x (List.mem_cons_of_mem _ hx)
      rw [maxTemp]
      refine ⟨?_, fun x hx => ?_⟩
      · obtain hmax | hmax := max_choice t (maxTemp ts) <;> rw [hmax]
        · exact List.mem_cons_self ..
        · exact List.mem_cons_of_mem _ hm
      · obtain rfl | hx := List.mem_cons.1 hx
        · exact le_max_left _ _
        · exact (hle x hx).trans (le_max_right _ _)

theorem signed_toCode {v : Int} (hlo : -2048 ≤ v) (hhi : v < 2048) : signed 12 (toCode 12 v) = v := by
  unfold signed toCode
  have : ((2 ^ 12 : Nat) : Int) = 4096 := rfl
  rw [this]
  split_ifs <;> omega

theorem signed_bits (v : BitVec 12) : signed 12 v.toNat = v.toInt := by
  have := v.isLt
  rw [signed, BitVec.toInt_eq_toNat_cond, Nat.mod_eq_of_lt this]
  split_ifs <;> omega

/-! The stages of a die's reading -/

section
variable (c : Chip) (die : Nat) (rd : Nat → Int)

/-- A sensor that has not been found invalid. -/
def Chip.sensorOk (k : Nat) : Bool := !c.pwr.badSensors.getLsbD (die * 8 + k)

/-- The sensors whose readings are out of range are found invalid. -/
def Chip.rangeChecked : Chip := forAll (List.range 8) c fun k c =>
  if c.sensorOk die k && decide (rd k < -320 ∨ 1200 < rd k) then c.sensorBad die k else c

/-- The readings running of a sensor that differ from the others' median by more than 25 °C; `m` is twice the median. -/
def Chip.medianRuns (m : Int) (k : Nat) : Nat :=
  if 400 < (2 * rd k - m).natAbs then Tbl.get 0 c.pwr.sensorDiff (die * 8 + k) + 1 else 0

/-- One sensor against the others' median. -/
def Chip.medianStep (m : Int) (k : Nat) : Chip :=
  let n := c.medianRuns die rd m k
  let c := { c with pwr := { c.pwr with sensorDiff := Tbl.set 0 c.pwr.sensorDiff (die * 8 + k) n } }
  if 3 ≤ n then c.sensorBad die k else c

/-- The sensors that differ from the median for the third time running are found invalid. -/
def Chip.medianChecked : Chip :=
  forAll ((List.range 8).filter (c.sensorOk die)) c fun k x =>
    x.medianStep die rd (median2 (((List.range 8).filter (c.sensorOk die)).map rd)) k

/-- The die's valid sensors. -/
def Chip.validSensors : List Nat := (List.range 8).filter (c.sensorOk die)

/-- The junction temperature that the valid sensors give. -/
def Chip.junctionOf : Int :=
  let top := maxTemp ((c.validSensors die).map rd)
  if (c.validSensors die).length < 4 then max top 800 else top

/-- The sensors' registers. -/
def Chip.readingsShown : Chip := forAll (List.range 8) c fun k x =>
  x.setReg pgThm 0x1004 (BitVec.ofNat 32 (toCode 12 (rd k) + (x.sensorOk die k).toNat * 4096)) (die * 8 + k)

/-- The die's register and the count of its hot readings. -/
def Chip.junctionShown (n : Nat) (j : Int) : Chip :=
  let x := c.setReg pgThm 0x1008 (BitVec.ofNat 32 (toCode 12 j + (decide (800 ≤ j)).toNat * 4096 + n * 65536)) die
  { x with pwr := { x.pwr with hot := Tbl.set 0 x.pwr.hot die (if 920 ≤ j then Tbl.get 0 x.pwr.hot die + 1 else 0) } }

theorem Chip.junctionShown_reg (n : Nat) (j : Int) : (c.junctionShown die n j).reg pgThm 0x1008 die =
    BitVec.ofNat 32 (toCode 12 j + (decide (800 ≤ j)).toNat * 4096 + n * 65536) := Chip.reg_setReg c ..

theorem Chip.junctionShown_hot (n : Nat) (j : Int) : (c.junctionShown die n j).pwr.hot =
    Tbl.set 0 c.pwr.hot die (if 920 ≤ j then Tbl.get 0 c.pwr.hot die + 1 else 0) := rfl

/-- THROTTLE set for the first time. -/
def Chip.throttleShown (b : Bool) : Chip :=
  if b then ((c.setFlag pgThm 0x100C 0 true).bump pgThm 0x1100).raise (evP pgThm 0x090A die 0) else c

theorem Chip.dieSensors_eq : c.dieSensors die rd =
    ((((c.rangeChecked die rd).medianChecked die rd).readingsShown die rd).junctionShown die
      (((c.rangeChecked die rd).medianChecked die rd).validSensors die).length
      (((c.rangeChecked die rd).medianChecked die rd).junctionOf die rd)).throttleShown die
      (decide (800 ≤ ((c.rangeChecked die rd).medianChecked die rd).junctionOf die rd) &&
        !(((c.rangeChecked die rd).medianChecked die rd).readingsShown die rd).flag pgThm 0x1008 12 die) := rfl
end

/-! What reading one die leaves -/

/-- What no reading changes: all but registers, events and the power state, and in those the rails and the trip. -/
structure Chip.ThermRead (a b : Chip) : Prop where
  only : Chip.only [.regs, .ev, .snap, .pwr] a b
  rails : b.pwr.rails = a.pwr.rails
  tripped : b.pwr.tripped = a.pwr.tripped
  trip : b.flag pgThm 0x100C 1 = a.flag pgThm 0x100C 1

/-- What the reading of another die leaves of die `e`. -/
structure Chip.DieKept (e : Nat) (a b : Chip) : Prop where
  read : a.ThermRead b
  temp : b.reg pgThm 0x1008 e = a.reg pgThm 0x1008 e
  hot : Tbl.get 0 b.pwr.hot e = Tbl.get 0 a.pwr.hot e
  ok : ∀ k < 8, b.sensorOk e k = a.sensorOk e k

section
variable {a b c : Chip} {e die : Nat}

theorem Chip.ThermRead.refl (a : Chip) : a.ThermRead a := ⟨Chip.only_rfl a _, rfl, rfl, rfl⟩
theorem Chip.ThermRead.trans (h : a.ThermRead b) (k : b.ThermRead c) : a.ThermRead c :=
  ⟨Chip.only_trans h.only k.only, k.rails.trans h.rails, k.tripped.trans h.tripped, k.trip.trans h.trip⟩
theorem Chip.DieKept.refl (e : Nat) (a : Chip) : a.DieKept e a := ⟨.refl a, rfl, rfl, fun _ _ => rfl⟩
theorem Chip.DieKept.trans (h : a.DieKept e b) (k : b.DieKept e c) : a.DieKept e c :=
  ⟨h.read.trans k.read, k.temp.trans h.temp, k.hot.trans h.hot, fun i hi => (k.ok i hi).trans (h.ok i hi)⟩

/-- An event changes none of it. -/
theorem Chip.dieKept_raise (e : Nat) (c : Chip) (v : Ev) : c.DieKept e (c.raise v) := by
  obtain ⟨r, x, y, h⟩ := Chip.raise_rest c v
  have hp : (c.raise v).pwr = c.pwr := by rw [h]
  have htrip : (c.raise v).reg pgThm 0x100C = c.reg pgThm 0x100C := by
    refine c.raise_reg v ?_
    have hoff : ∀ o ∈ [0x14, 0x24, 0x28, 0x1004, 0x1080], ∀ p, regKey pgThm 0x100C 0 ≠ regKey p o 0 := fun o ho p =>
      regKey_ne_of_off (by decide) (by revert o; decide) (by revert o; decide)
    simp only [evKeys, List.mem_cons, List.not_mem_nil, or_false, not_or]
    exact ⟨hoff _ (by decide) _, hoff _ (by decide) _, hoff _ (by decide) _, by decide, hoff _ (by decide) _,
      hoff _ (by decide) _⟩
  refine ⟨⟨Chip.only_mono (by decide) (c.raise_only v), congrArg PwrSt.rails hp, congrArg PwrSt.tripped hp, ?_⟩,
    c.raise_reg_off v (by decide) (by decide), congrArg (Tbl.get 0 ·.hot e) hp, fun k _ => ?_⟩
  · rw [Chip.flag, htrip, Chip.flag]
  · rw [Chip.sensorOk, hp, Chip.sensorOk]

/-- A register at another offset than the dies' and the status, and a bit of the status other than TRIP. -/
theorem Chip.dieKept_setReg (e : Nat) (c : Chip) {page off : Nat} (v : W32) (inst : Nat) (ho : off < 0x10000) (h8 : off ≠ 0x1008)
    (hC : off ≠ 0x100C) : c.DieKept e (c.setReg page off v inst) where
  read := ⟨Chip.only_mono (by decide) (Chip.setReg_only page off v inst), rfl, rfl, by
    rw [Chip.flag, Chip.reg_setReg_off _ ho (by decide) hC.symm, Chip.flag]⟩
  temp := Chip.reg_setReg_off _ ho (by decide) h8.symm
  hot := rfl
  ok _ _ := rfl

theorem Chip.dieKept_setStat (e : Nat) (c : Chip) {i : Nat} (v : Bool) (h : i ≠ 1) : c.DieKept e (c.setFlag pgThm 0x100C i v) where
  read := ⟨Chip.only_mono (by decide) (Chip.setReg_only pgThm 0x100C _ 0), rfl, rfl,
    c.flag_setFlag_other _ _ _ _ _ _ h.symm⟩
  temp := Chip.reg_setFlag_other _ _ _ (regKey_ne_of_off (by decide) (by decide) (by decide))
  hot := rfl
  ok _ _ := rfl

/-- A sensor of another die found invalid. -/
theorem Chip.dieKept_bad (he : e ≠ die) (hd : die < 32) {k : Nat} (hk : k < 8) (c : Chip) : c.DieKept e (c.sensorBad die k) := by
  have hbits : c.DieKept e { c with pwr := { c.pwr with badSensors := putBit c.pwr.badSensors (die * 8 + k) true } } :=
    ⟨⟨by simp [Chip.only], rfl, rfl, rfl⟩, rfl, rfl, fun j hj => by
      rw [Chip.sensorOk, getLsbD_putBit _ _ (by omega), if_neg (by omega), Chip.sensorOk]⟩
  exact hbits.trans ((Chip.dieKept_setStat e _ true (by decide)).trans
    ((Chip.dieKept_setReg e _ _ 0 (by decide) (by decide) (by decide)).trans (Chip.dieKept_raise e _ _)))

/-- Another die's median check, registers and status. -/
theorem Chip.dieKept_median (he : e ≠ die) (hd : die < 32) {k : Nat} (hk : k < 8) (rd : Nat → Int) (m : Int) (c : Chip) :
    c.DieKept e (c.medianStep die rd m k) := by
  have hdiff : ∀ x, c.DieKept e { c with pwr := { c.pwr with sensorDiff := x } } := fun x =>
    ⟨⟨by simp [Chip.only], rfl, rfl, rfl⟩, rfl, rfl, fun _ _ => rfl⟩
  unfold Chip.medianStep
  dsimp only
  split
  · exact (hdiff _).trans (Chip.dieKept_bad he hd hk _)
  · exact hdiff _

theorem Chip.dieKept_junction (he : e ≠ die) (n : Nat) (j : Int) (c : Chip) : c.DieKept e (c.junctionShown die n j) where
  read := ⟨by simp [Chip.only, Chip.junctionShown], rfl, rfl, by
    exact congrArg (BitVec.getLsbD · 1) (Chip.reg_setReg_off _ (by decide) (by decide) (by decide))⟩
  temp := c.reg_setReg_other _ fun h => he (regKey_inj (by decide) (by decide) (by decide) (by decide) h).2.2
  hot := Tbl.get_set_other _ _ _ _ he
  ok _ _ := rfl

theorem Chip.dieKept_throttle (b : Bool) (c : Chip) : c.DieKept e (c.throttleShown die b) := by
  unfold Chip.throttleShown
  split
  · exact (Chip.dieKept_setStat e _ true (by decide)).trans
      ((Chip.dieKept_setReg e _ _ 0 (by decide) (by decide) (by decide)).trans (Chip.dieKept_raise e _ _))
  · exact .refl e c

theorem Chip.dieKept_range (he : e ≠ die) (hd : die < 32) (rd : Nat → Int) (c : Chip) : c.DieKept e (c.rangeChecked die rd) := by
  refine forAll_keeps (.refl e) (fun _ _ _ => .trans) (fun k hk x => ?_) c
  split
  · exact Chip.dieKept_bad he hd (List.mem_range.1 hk) x
  · exact .refl e x

theorem Chip.dieKept_medians (he : e ≠ die) (hd : die < 32) (rd : Nat → Int) (c : Chip) : c.DieKept e (c.medianChecked die rd) :=
  forAll_keeps (.refl e) (fun _ _ _ => .trans)
    (fun _ hk x => Chip.dieKept_median he hd (List.mem_range.1 (List.mem_filter.1 hk).1) rd _ x) c

theorem Chip.dieKept_readings (rd : Nat → Int) (c : Chip) : c.DieKept e (c.readingsShown die rd) :=
  forAll_keeps (.refl e) (fun _ _ _ => .trans) (fun _ _ x => Chip.dieKept_setReg e x _ _ (by decide) (by decide) (by decide)) c

/-- The reading of another die. -/
theorem Chip.dieKept_sensors (he : e ≠ die) (hd : die < 32) (rd : Nat → Int) (c : Chip) : c.DieKept e (c.dieSensors die rd) := by
  rw [c.dieSensors_eq]
  exact (Chip.dieKept_range he hd rd c).trans ((Chip.dieKept_medians he hd rd _).trans ((Chip.dieKept_readings rd _).trans
    ((Chip.dieKept_junction he _ _ _).trans (Chip.dieKept_throttle _ _))))

theorem Chip.dieSensors_read (hd : die < 32) (rd : Nat → Int) (c : Chip) : c.ThermRead (c.dieSensors die rd) :=
  (Chip.dieKept_sensors (Nat.succ_ne_self die) hd rd c).read

/-! A die whose sensors are sound -/

/-- The eight sensors of a die are valid, within range and near each other (R400). -/
structure Chip.SoundDie (c : Chip) (die : Nat) (rd : Nat → Int) : Prop where
  ok : ∀ k < 8, c.sensorOk die k = true
  range : ∀ k < 8, -320 ≤ rd k ∧ rd k ≤ 1200
  near : ∀ k < 8, ∀ j < 8, rd k - rd j ≤ 200

variable {rd : Nat → Int}

theorem Chip.SoundDie.congr (h : a.SoundDie die rd) (k : a.DieKept die b) : b.SoundDie die rd :=
  ⟨fun i hi => (k.ok i hi).trans (h.ok i hi), h.range, h.near⟩

theorem Chip.SoundDie.valid (h : c.SoundDie die rd) : c.validSensors die = List.range 8 :=
  List.filter_eq_self.2 fun k hk => h.ok k (List.mem_range.1 hk)

/-- No sensor is found invalid. -/
theorem Chip.SoundDie.rangeChecked (h : c.SoundDie die rd) : c.rangeChecked die rd = c := by
  refine forAll_keeps (R := fun x y => x = c → y = c) (fun _ => id) (fun _ _ _ h1 h2 h3 => h2 (h1 h3)) (fun k hk x hx => ?_) c rfl
  obtain ⟨hlo, hhi⟩ := h.range k (List.mem_range.1 hk)
  rw [if_neg (by simp [hlo, hhi])]
  exact hx

theorem Chip.SoundDie.medianChecked (h : c.SoundDie die rd) :
    ∃ x, c.medianChecked die rd = { c with pwr := { c.pwr with sensorDiff := x } } := by
  have hfold : ∀ m, (∀ k < 8, (2 * rd k - m).natAbs ≤ 400) → ∀ ks : List Nat, (∀ k ∈ ks, k < 8) → ∀ d : Chip,
      ∃ x, forAll ks d (fun k x => x.medianStep die rd m k) = { d with pwr := { d.pwr with sensorDiff := x } } := by
    intro m hm ks
    induction ks with
    | nil => exact fun _ d => ⟨_, rfl⟩
    | cons k ks ih =>
      intro hks d
      have hstep : d.medianStep die rd m k =
          { d with pwr := { d.pwr with sensorDiff := Tbl.set 0 d.pwr.sensorDiff (die * 8 + k) 0 } } := by
        have hle := hm k (hks k (List.mem_cons_self ..))
        have hruns : d.medianRuns die rd m k = 0 := if_neg (by omega)
        simp only [Chip.medianStep, hruns]
        rfl
      obtain ⟨x, hx⟩ := ih (fun j hj => hks j (List.mem_cons_of_mem _ hj)) (d.medianStep die rd m k)
      refine ⟨x, ?_⟩
      have hcons : forAll (k :: ks) d (fun k x => x.medianStep die rd m k) =
          forAll ks (d.medianStep die rd m k) (fun k x => x.medianStep die rd m k) := rfl
      rw [hcons, hx, hstep]
  refine hfold _ (fun k hk => ?_) _ (fun k hk => List.mem_range.1 (List.mem_filter.1 hk).1) c
  have hvalid : (List.range 8).filter (c.sensorOk die) = List.range 8 := h.valid
  rw [hvalid]
  refine median2_near (w := 200) (by simp) fun x hx => ?_
  obtain ⟨j, hj, rfl⟩ := List.mem_map.1 hx
  exact ⟨h.near k hk j (List.mem_range.1 hj), h.near j (List.mem_range.1 hj) k hk⟩

/-- The highest of eight sound readings. -/
theorem Chip.SoundDie.junctionOf (h : c.SoundDie die rd) : ∃ k < 8, (∀ j < 8, rd j ≤ rd k) ∧ c.junctionOf die rd = rd k := by
  have hlow : ∀ x ∈ (List.range 8).map rd, -2048 ≤ x := fun x hx => by
    obtain ⟨j, hj, rfl⟩ := List.mem_map.1 hx
    have := (h.range j (List.mem_range.1 hj)).1
    omega
  obtain ⟨hm, hle⟩ := maxTemp_mem (by simp) hlow
  obtain ⟨k, hk, hkm⟩ := List.mem_map.1 hm
  refine ⟨k, List.mem_range.1 hk, fun j hj => ?_, ?_⟩
  · rw [hkm]
    exact hle _ (List.mem_map.2 ⟨j, List.mem_range.2 hj, rfl⟩)
  · rw [Chip.junctionOf, h.valid, hkm]
    rfl

/-- What the reading of a sound die shows. -/
theorem Chip.SoundDie.sensors (h : c.SoundDie die rd) : ∃ k < 8, (∀ j < 8, rd j ≤ rd k) ∧
    (c.dieSensors die rd).junction die = rd k ∧ ((c.dieSensors die rd).flag pgThm 0x1008 12 die = true ↔ 800 ≤ rd k) ∧
    (c.dieSensors die rd).field pgThm 0x1008 16 4 die = 8 ∧
    Tbl.get 0 (c.dieSensors die rd).pwr.hot die = if 920 ≤ rd k then Tbl.get 0 c.pwr.hot die + 1 else 0 := by
  obtain ⟨x, hx⟩ := h.medianChecked
  have hsound : Chip.SoundDie { c with pwr := { c.pwr with sensorDiff := x } } die rd := ⟨h.ok, h.range, h.near⟩
  obtain ⟨k, hk, hmax, hj⟩ := hsound.junctionOf
  obtain ⟨hlo, hhi⟩ := h.range k hk
  have hkept : Chip.DieKept die (Chip.junctionShown (Chip.readingsShown { c with pwr := { c.pwr with sensorDiff := x } } die rd)
      die 8 (rd k)) (c.dieSensors die rd) := by
    rw [c.dieSensors_eq, h.rangeChecked, hx, hsound.valid, hj]
    exact Chip.dieKept_throttle _ _
  have hhot := (Chip.dieKept_readings (e := die) (die := die) rd { c with pwr := { c.pwr with sensorDiff := x } }).hot
  have hreg : (c.dieSensors die rd).reg pgThm 0x1008 die =
      BitVec.ofNat 32 (toCode 12 (rd k) + (decide (800 ≤ rd k)).toNat * 4096 + 8 * 65536) :=
    hkept.temp.trans (Chip.junctionShown_reg ..)
  have hcode := toCode_lt 12 (rd k)
  have hbit : (decide (800 ≤ rd k)).toNat < 2 := Bool.toNat_lt _
  refine ⟨k, hk, hmax, ?_, ?_, ?_, ?_⟩
  · rw [Chip.junction, Chip.field, hreg, fld_ofNat _ (by decide)]
    have hval : (toCode 12 (rd k) + (decide (800 ≤ rd k)).toNat * 4096 + 8 * 65536) / 2 ^ 0 % 2 ^ 12 = toCode 12 (rd k) := by
      omega
    rw [hval, signed_toCode (by omega) (by omega)]
  · rw [Chip.flag, hreg, BitVec.getLsbD_ofNat, Nat.testBit_eq_decide_div_mod_eq]
    by_cases hhot : 800 ≤ rd k
    · simp only [hhot, decide_true, Bool.toNat_true, iff_true]
      simp
      omega
    · simp only [hhot, decide_false, Bool.toNat_false, iff_false]
      simp
      omega
  · rw [Chip.field, hreg, fld_ofNat _ (by decide)]
    omega
  · rw [hkept.hot, Chip.junctionShown_hot, Tbl.get_set_same, hhot]

/-! The trip (R402) -/

theorem Chip.removeRail_rail (c : Chip) (r q : Nat) : (c.removeRail r).rail q =
    if q = r then { c.rail r with on := false, start := 0, since := c.time.now } else c.rail q :=
  Tbl.get_set RailSt.off c.pwr.rails r q _

/-- Every rail of a list is off once it has been removed. -/
theorem Chip.removeRails_off (rs : List Nat) (c : Chip) {q : Nat} (hq : q ∈ rs) :
    ((forAll rs c fun r c => c.removeRail r).rail q).on = false := by
  have hoff : ∀ (d : Chip) (r : Nat), (d.rail q).on = false → ((d.removeRail r).rail q).on = false := fun d r hd => by
    rw [Chip.removeRail_rail]
    split_ifs
    · rfl
    · exact hd
  have hall : ∀ (rs : List Nat) (d : Chip), (d.rail q).on = false → ((forAll rs d fun r c => c.removeRail r).rail q).on = false :=
    fun rs d hd => forAll_invariant (P := fun x : Chip => (x.rail q).on = false) (fun r x hx => hoff x r hx) hd
  induction rs generalizing c with
  | nil => simp at hq
  | cons r rs ih =>
    have hcons : (forAll (r :: rs) c fun r c => c.removeRail r) = forAll rs (c.removeRail r) fun r c => c.removeRail r := rfl
    rw [hcons]
    obtain rfl | hin := List.mem_cons.1 hq
    · exact hall rs _ (by rw [Chip.removeRail_rail, if_pos rfl])
    · exact ih _ hin

/-- The part with the trip's event, the trip and the rails removed, before its meters stop. -/
def Chip.tripped (c : Chip) (die : Nat) : Chip :=
  forAll (List.range 68) { ((c.setFlag pgThm 0x100C 1 true).raise (evP pgThm 0x090B die 0)) with
    pwr := { ((c.setFlag pgThm 0x100C 1 true).raise (evP pgThm 0x090B die 0)).pwr with tripped := true } } fun r c => c.removeRail r

theorem Chip.trip_eq (c : Chip) (die : Nat) : c.trip die = (c.tripped die).metersSet := rfl

/-- What the trip changes: no register of the dies, and the power state. -/
theorem Chip.tripped_shows (c : Chip) (die : Nat) : (c.tripped die).pwr.tripped = true ∧
    (∀ r < 68, ((c.tripped die).rail r).on = false) ∧ (c.tripped die).flag pgThm 0x100C 1 = true ∧
    Chip.only [.regs, .ev, .snap, .pwr] c (c.tripped die) ∧ ∀ e, (c.tripped die).reg pgThm 0x1008 e = c.reg pgThm 0x1008 e := by
  have hkept : ∀ e, ((c.setFlag pgThm 0x100C 1 true)).DieKept e ((c.setFlag pgThm 0x100C 1 true).raise (evP pgThm 0x090B die 0)) :=
    fun e => Chip.dieKept_raise e _ _
  unfold Chip.tripped
  generalize (c.setFlag pgThm 0x100C 1 true).raise (evP pgThm 0x090B die 0) = d at hkept
  have hrest : ∀ x : Chip, Chip.only [.pwr] x (forAll (List.range 68) x fun r c => c.removeRail r) ∧
      (forAll (List.range 68) x fun r c => c.removeRail r).pwr.tripped = x.pwr.tripped ∧
      (forAll (List.range 68) x fun r c => c.removeRail r).regs = x.regs := fun x =>
    ⟨Chip.only_forAll x _ _ fun r y => by simp [Chip.only, Chip.removeRail, Chip.setRail],
      keep_forAll (fun y : Chip => y.pwr.tripped) _ _ _ fun r y => rfl, keep_forAll Chip.regs _ _ _ fun r y => rfl⟩
  obtain ⟨honly, htrip, hregs⟩ := hrest { d with pwr := { d.pwr with tripped := true } }
  have hreg : ∀ page off inst, (forAll (List.range 68) { d with pwr := { d.pwr with tripped := true } }
      fun r c => c.removeRail r).reg page off inst = d.reg page off inst := fun page off inst => by
    rw [Chip.reg, hregs, Chip.reg]
  refine ⟨htrip, fun r hr => Chip.removeRails_off _ _ (List.mem_range.2 hr), ?_, ?_, fun e => ?_⟩
  · rw [Chip.flag, hreg, ← Chip.flag, (hkept 0).read.trip, Chip.flag_setFlag _ _ _ _ _ _ (by decide)]
  · have hset : Chip.only [.regs, .ev, .snap, .pwr] c (c.setFlag pgThm 0x100C 1 true) :=
      Chip.only_mono (by decide) (Chip.setReg_only pgThm 0x100C _ 0)
    have hpwr : Chip.only [.regs, .ev, .snap, .pwr] d { d with pwr := { d.pwr with tripped := true } } := by simp [Chip.only]
    exact Chip.only_trans (Chip.only_trans hset (hkept 0).read.only)
      (Chip.only_trans hpwr (Chip.only_mono (by decide) honly))
  · rw [hreg, (hkept e).temp, Chip.reg_setFlag_other _ _ _ (regKey_ne_of_off (by decide) (by decide) (by decide))]

/-- Setting the meters leaves the dies' readings. -/
theorem Chip.dieKept_meters (e : Nat) (c : Chip) : c.DieKept e c.metersSet := by
  refine forAll_keeps (.refl e) (fun _ _ _ => .trans) (fun d _ x => ?_) c
  have hwritten : x.DieKept e (x.meterWritten d) :=
    (Chip.dieKept_setReg e x _ d (by decide) (by decide) (by decide)).trans
      (Chip.dieKept_setReg e _ _ d (by decide) (by decide) (by decide))
  rw [x.meterSet_eq]
  split
  · exact hwritten.trans (Chip.dieKept_raise e _ _)
  · exact hwritten

/-- After a trip every meter stands at 0, and nothing but the meters' registers and events has changed since. -/
theorem Chip.trip_shows (c : Chip) (die : Nat) : (c.trip die).pwr.tripped = true ∧
    (∀ r < 68, ((c.trip die).rail r).on = false) ∧ (∀ d < 17, (c.trip die).reg pgPwr 0x1044 d = 0) ∧
    (c.trip die).flag pgThm 0x100C 1 = true ∧ Chip.only [.regs, .ev, .snap, .pwr] c (c.trip die) ∧
    ∀ e, (c.trip die).reg pgThm 0x1008 e = c.reg pgThm 0x1008 e := by
  obtain ⟨htrip, hrails, hflag, honly, htemp⟩ := c.tripped_shows die
  rw [c.trip_eq]
  generalize c.tripped die = x at *
  have hkept := fun e => Chip.dieKept_meters e x
  have hpwr : x.metersSet.pwr = x.pwr :=
    keep_forAll Chip.pwr _ _ _ fun d y => (Chip.meterKept_set (Nat.succ_ne_self d) y).fields.1
  refine ⟨by rw [hpwr, htrip], fun r hr => ?_, fun d hd => ?_, ?_, ?_, fun e => ?_⟩
  · rw [Chip.rail, hpwr]
    exact hrails r hr
  · refine BitVec.eq_of_toNat_eq ?_
    rw [(x.metersSet_meter hd).1, x.meterRate_stopped d (.inr htrip)]
    rfl
  · rw [(hkept 0).read.trip, hflag]
  · exact Chip.only_trans honly (hkept 0).read.only
  · rw [(hkept e).temp, htemp]

/-! The command -/

/-- The dies' readings, one after another. -/
def Chip.diesRead (c : Chip) (dies : List Nat) (rd : Nat → Nat → Int) : Chip :=
  forAll dies c fun d c => c.dieSensors d (rd d)

/-- THROTTLE of the part ends once every die is cool. -/
def Chip.coolShown (c : Chip) (dies : List Nat) : Chip :=
  if dies.all (fun d => decide (c.junction d < 776)) then c.setFlag pgThm 0x100C 0 false else c

/-- The trip of the first die read too hot twice. -/
def Chip.tripDue (c : Chip) (dies : List Nat) : Chip :=
  match dies.find? (fun d => decide (2 ≤ Tbl.get 0 c.pwr.hot d)) with
  | some d => if c.pwr.tripped then c else c.trip d
  | none => c

/-- The dies that are read. -/
def Chip.diesPowered (c : Chip) : List Nat := (List.range 32).filter c.powered

theorem Chip.sensors_eq (c : Chip) (rs : List (BitVec 12)) : c.sensors rs =
    ((c.diesRead c.diesPowered fun d k => signed 12 (rs.getD (d * 8 + k) 0).toNat).coolShown c.diesPowered).tripDue
      c.diesPowered := rfl


section
variable {dies : List Nat} {rd : Nat → Nat → Int} (hlt : ∀ d ∈ dies, d < 32)
include hlt

theorem Chip.diesRead_read (c : Chip) : c.ThermRead (c.diesRead dies rd) :=
  forAll_keeps .refl (fun _ _ _ => .trans) (fun d hd x => Chip.dieSensors_read (hlt d hd) (rd d) x) c

theorem Chip.dieKept_diesRead {e : Nat} (he : e ∉ dies) (c : Chip) : c.DieKept e (c.diesRead dies rd) :=
  forAll_keeps (.refl e) (fun _ _ _ => .trans)
    (fun d hd x => Chip.dieKept_sensors (ne_of_mem_of_not_mem hd he).symm (hlt d hd) (rd d) x) c

/-- What a sound die shows once all dies have been read. -/
theorem Chip.diesRead_sound (hnodup : dies.Nodup) {e : Nat} (he : e ∈ dies) (c : Chip) (h : c.SoundDie e (rd e)) :
    ∃ k < 8, (∀ j < 8, rd e j ≤ rd e k) ∧ (c.diesRead dies rd).junction e = rd e k ∧
    ((c.diesRead dies rd).flag pgThm 0x1008 12 e = true ↔ 800 ≤ rd e k) ∧
    (c.diesRead dies rd).field pgThm 0x1008 16 4 e = 8 ∧
    Tbl.get 0 (c.diesRead dies rd).pwr.hot e = if 920 ≤ rd e k then Tbl.get 0 c.pwr.hot e + 1 else 0 := by
  obtain ⟨x, hbefore, hafter⟩ := forAll_once (R := Chip.DieKept e) (.refl e) (fun _ _ _ => .trans)
    (f := fun d x => x.dieSensors d (rd d)) (fun d hd hne x => Chip.dieKept_sensors (Ne.symm hne) (hlt d hd) (rd d) x)
    hnodup he c
  obtain ⟨k, hk, hmax, hj, hflag, hfield, hhot⟩ := (h.congr hbefore).sensors
  refine ⟨k, hk, hmax, ?_, ?_, ?_, ?_⟩
  · rw [← hj, Chip.junction, Chip.field, Chip.diesRead, hafter.temp, Chip.junction, Chip.field]
  · rw [← hflag, Chip.flag, Chip.diesRead, hafter.temp, Chip.flag]
  · rw [← hfield, Chip.field, Chip.diesRead, hafter.temp, Chip.field]
  · rw [Chip.diesRead, hafter.hot, hhot, hbefore.hot]
end

theorem Chip.dieKept_cool (e : Nat) (dies : List Nat) (c : Chip) : c.DieKept e (c.coolShown dies) := by
  unfold Chip.coolShown
  split
  · exact Chip.dieKept_setStat e c false (by decide)
  · exact .refl e c

/-- A trip or none: the dies' registers stay. -/
theorem Chip.tripDue_cases (dies : List Nat) (c : Chip) : c.tripDue dies = c ∨ ∃ d, c.tripDue dies = c.trip d := by
  unfold Chip.tripDue
  split
  · split
    · exact .inl rfl
    · exact .inr ⟨_, rfl⟩
  · exact .inl rfl

theorem Chip.tripDue_temp (dies : List Nat) (c : Chip) : Chip.only [.regs, .ev, .snap, .pwr] c (c.tripDue dies) ∧
    ∀ e, (c.tripDue dies).reg pgThm 0x1008 e = c.reg pgThm 0x1008 e := by
  obtain h | ⟨d, h⟩ := c.tripDue_cases dies <;> rw [h]
  · exact ⟨Chip.only_rfl c _, fun _ => rfl⟩
  · obtain ⟨-, -, -, -, honly, htemp⟩ := c.trip_shows d
    exact ⟨honly, htemp⟩

/-- A trip where none has been and a die is hot for the second time. -/
theorem Chip.tripDue_trips {dies : List Nat} (c : Chip) (hn : c.pwr.tripped = false) {e : Nat} (he : e ∈ dies)
    (hh : 2 ≤ Tbl.get 0 c.pwr.hot e) : ∃ d, c.tripDue dies = c.trip d := by
  obtain ⟨d, hd⟩ : ∃ d, dies.find? (fun d => decide (2 ≤ Tbl.get 0 c.pwr.hot d)) = some d :=
    Option.ne_none_iff_exists'.1 fun hnone => List.find?_eq_none.1 hnone e he (decide_eq_true hh)
  refine ⟨d, ?_⟩
  simp only [Chip.tripDue, hd, hn, Bool.false_eq_true, if_false]

theorem Chip.tripDue_none {dies : List Nat} (c : Chip) (h : ∀ e ∈ dies, Tbl.get 0 c.pwr.hot e < 2) : c.tripDue dies = c := by
  have hnone : dies.find? (fun d => decide (2 ≤ Tbl.get 0 c.pwr.hot d)) = none :=
    List.find?_eq_none.2 fun e he => by simpa using h e he
  simp only [Chip.tripDue, hnone]
end

section
variable (c b : Chip)

theorem Chip.settleAlerts_rail (r : Nat) : (Chip.settleAlerts b c).rail r = c.rail r := (rfl)
theorem Chip.settleAlerts_junction (die : Nat) : (Chip.settleAlerts b c).junction die = c.junction die := (rfl)

theorem Chip.junction_congr {die : Nat} (h : c.reg pgThm 0x1008 die = b.reg pgThm 0x1008 die) : c.junction die = b.junction die := by
  rw [Chip.junction, Chip.field, h, Chip.junction, Chip.field]
end

/-- Settles O23. -/
theorem sensorsThrottleAndTrip : Obligations.SensorsThrottleAndTrip := by
  unfold Obligations.SensorsThrottleAndTrip
  intro s rs hup _ c at_ sound
  have hlt : ∀ d ∈ s.chip.diesPowered, d < 32 := fun d hd => List.mem_range.1 (List.mem_filter.1 hd).1
  have hmem : ∀ {d}, d < 32 → s.chip.powered d = true → d ∈ s.chip.diesPowered := fun hd hp =>
    List.mem_filter.2 ⟨List.mem_range.2 hd, hp⟩
  have hrd : (fun d k => signed 12 (rs.getD (d * 8 + k) 0).toNat) = at_ := funext fun d => funext fun k => signed_bits _
  have hsound : ∀ {d}, sound d → s.chip.SoundDie d (at_ d) := fun h =>
    ⟨fun k hk => by rw [Chip.sensorOk, (h k hk).1]; rfl, fun k hk => ⟨(h k hk).2.1, (h k hk).2.2.1⟩,
      fun k hk j hj => (h k hk).2.2.2 j hj⟩
  have hdies := fun {d} (hd : d < 32) (hp : s.chip.powered d = true) (h : sound d) =>
    s.chip.diesRead_sound hlt (List.nodup_range.filter _) (hmem hd hp) (hsound h)
  have hread := s.chip.diesRead_read (rd := at_) hlt
  have hnot : ∀ die, s.chip.powered die = false → die ∉ s.chip.diesPowered := fun die hp hm =>
    absurd (List.mem_filter.1 hm).2 (by rw [hp]; decide)
  have hkept := fun {e} (he : e ∉ s.chip.diesPowered) => Chip.dieKept_diesRead (rd := at_) hlt he s.chip
  have hcool := fun e => Chip.dieKept_cool e s.chip.diesPowered (s.chip.diesRead s.chip.diesPowered at_)
  refine yields_after (exec_gated (·.v0Up) (·.sensors rs) rfl hup (s.chip.sensors_eq rs)) ?_
  rw [hrd]
  generalize s.chip.diesRead s.chip.diesPowered at_ = b at hdies hread hcool hkept
  generalize b.coolShown s.chip.diesPowered = k at hcool
  obtain ⟨honly, htemp⟩ := Chip.tripDue_temp s.chip.diesPowered k
  have hreg : ∀ e, (k.tripDue s.chip.diesPowered).reg pgThm 0x1008 e = b.reg pgThm 0x1008 e := fun e =>
    (htemp e).trans (hcool e).temp
  simp only [Chip.settleAlerts_reg, Chip.settleAlerts_flag, Chip.settleAlerts_field, Chip.settleAlerts_pwr,
    Chip.settleAlerts_rail, Chip.settleAlerts_junction]
  refine ⟨fun die hd hp h => ?_, fun die _ hp => ?_, fun hn ⟨die, hd, hp, h, ⟨j, hj, hj115⟩, hwas⟩ => ?_, fun hall => ?_, ?_⟩
  · obtain ⟨j, hj, hmax, hjunc, hflag, hfield, -⟩ := hdies hd hp h
    refine ⟨j, hj, hmax, ?_, ?_, ?_⟩
    · rw [Chip.junction_congr _ _ (hreg die), hjunc]
    · rw [← hflag, Chip.flag, hreg, Chip.flag]
    · rw [← hfield, Chip.field, hreg, Chip.field]
  · rw [hreg, (hkept (hnot die hp)).temp]
  · obtain ⟨i, hi, hmax, -, -, -, hhot⟩ := hdies hd hp h
    have hhi : 920 ≤ at_ die i := hj115.trans (hmax j hj)
    rw [if_pos hhi] at hhot
    have htwice : 2 ≤ Tbl.get 0 k.pwr.hot die := by
      rw [(hcool die).hot, hhot]
      exact Nat.succ_le_succ hwas
    have huntripped : k.pwr.tripped = false := ((hcool 0).read.tripped.trans hread.tripped).trans hn
    obtain ⟨d, hd⟩ := k.tripDue_trips huntripped (hmem hd hp) htwice
    obtain ⟨htrip, hrails, hmeters, hflag, -, -⟩ := k.trip_shows d
    rw [hd]
    exact ⟨htrip, hrails, hmeters, hflag⟩
  · have hnone : k.tripDue s.chip.diesPowered = k := k.tripDue_none fun e he => by
      obtain ⟨hs, hlow⟩ := hall e (hlt e he) (List.mem_filter.1 he).2
      obtain ⟨i, hi, -, -, -, -, hhot⟩ := hdies (hlt e he) (List.mem_filter.1 he).2 hs
      have := hlow i hi
      rw [if_neg (by omega)] at hhot
      rw [(hcool e).hot, hhot]
      decide
    rw [hnone]
    have hboth := hread.trans (hcool 0).read
    exact ⟨hboth.tripped, hboth.rails, hboth.trip⟩
  · exact Chip.only_settleAlerts (Chip.only_trans (hread.trans (hcool 0).read).only honly)

end Sys2Proof.Machine
end

section
/-! Estimates, calibration and the package cap (R381, R382, R388 to R391). -/

namespace Sys2Proof.Machine

theorem ratSum_eq (xs : List Rat) : ratSum xs = xs.sum := List.sum_eq_foldl.symm

/-! Tables written at every member of a list -/

section
variable {β : Type} [DecidableEq β] (z : β)

/-- A table written at each member of a list from what stands there. -/
theorem Tbl.get_foldl_update (f : Nat → β → β) {ds : List Nat} (hnodup : ds.Nodup) (m : Tbl β) (d : Nat) :
    Tbl.get z (ds.foldl (fun m d => Tbl.set z m d (f d (Tbl.get z m d))) m) d =
      if d ∈ ds then f d (Tbl.get z m d) else Tbl.get z m d := by
  induction ds generalizing m with
  | nil => simp
  | cons e ds ih =>
    obtain ⟨he, hds⟩ := List.nodup_cons.1 hnodup
    rw [List.foldl_cons, ih hds, Tbl.get_set]
    by_cases hd : d = e
    · subst hd
      simp [he]
    · simp [hd]
end

/-! Estimates -/

section
variable (c : Chip)

theorem Chip.estimates_pwr : (c.estimates.pwr.estimate, c.estimates.pwr.estSum, c.estimates.pwr.estN) =
    (c.reestimate.pwr.estimate, c.reestimate.pwr.estSum, c.reestimate.pwr.estN) := by
  unfold Chip.estimates
  dsimp only
  split_ifs <;> rfl

theorem Chip.estimates_act : c.estimates.act = c.reestimate.act := by
  unfold Chip.estimates
  dsimp only
  split_ifs <;> rfl

theorem Chip.estimates_only : Chip.only [.pwr, .act] c c.estimates := by
  have h : Chip.only [.pwr, .act] c c.reestimate := by simp [Chip.only, Chip.reestimate]
  refine Chip.only_trans h ?_
  unfold Chip.estimates
  dsimp only
  split_ifs
  · simp [Chip.only]
  · exact Chip.only_rfl _ _
  · simp [Chip.only]

theorem Chip.estimates_die {d : Nat} (hd : d < 32) : Tbl.get 0 c.estimates.pwr.estimate d = c.rawEstimate d ∧
    Tbl.get 0 c.estimates.pwr.estSum d = Tbl.get 0 c.pwr.estSum d + c.rawEstimate d ∧
    Tbl.get 0 c.estimates.pwr.estN d = Tbl.get 0 c.pwr.estN d + 1 := by
  have h := c.estimates_pwr
  simp only [Prod.mk.injEq] at h
  obtain ⟨he, hs, hn⟩ := h
  have hmem : d ∈ List.range 32 := List.mem_range.2 hd
  refine ⟨?_, ?_, ?_⟩
  · rw [he]
    exact (Tbl.get_foldl_set_default 0 c.rawEstimate (List.range 32) c.pwr.estimate d).trans (if_pos hmem)
  · rw [hs]
    exact (Tbl.get_foldl_update 0 (fun d x => x + c.rawEstimate d) List.nodup_range c.pwr.estSum d).trans (if_pos hmem)
  · rw [hn]
    exact (Tbl.get_foldl_update 0 (fun _ x => x + 1) List.nodup_range c.pwr.estN d).trans (if_pos hmem)

/-! Calibration -/

/-- The last sixteen pairs, the new one among them. -/
def CalDie.kept (x : CalDie) (p : Rat × Rat) : List (Rat × Rat) := (x.pairs ++ [p]).drop (x.pairs.length + 1 - 16)

theorem CalDie.kept_spec (x : CalDie) (p : Rat × Rat) : (x.kept p).length ≤ 16 ∧ (x.kept p).getLast? = some p := by
  refine ⟨?_, ?_⟩
  · simp only [CalDie.kept, List.length_drop, List.length_append, List.length_singleton]
    omega
  · rw [CalDie.kept, List.drop_append_of_le_length (by omega), List.getLast?_append]
    rfl

theorem CalDie.refit_pairs (x : CalDie) (die : Nat) (b : Bool) (e m : Rat) : (x.refit die b e m).pairs = x.kept (e, m) := by
  cases b <;> rfl

theorem CalDie.refit_frozen (x : CalDie) (die : Nat) (e m : Rat) :
    (x.refit die true e m).gain = x.gain ∧ (x.refit die true e m).offset = x.offset := ⟨rfl, rfl⟩

theorem ratClamp_bounds {lo hi : Rat} (h : lo ≤ hi) (x : Rat) : lo ≤ ratClamp lo hi x ∧ ratClamp lo hi x ≤ hi :=
  ⟨le_max_left _ _, max_le h (min_le_left _ _)⟩

theorem nominalPower_nonneg (die : Nat) : 0 ≤ nominalPower die := by
  rw [nominalPower, ratSum_eq]
  refine List.sum_nonneg fun x hx => ?_
  obtain ⟨r, -, rfl⟩ := List.mem_map.1 hx
  exact Rat.mkRat_nonneg (by positivity) _

theorem CalDie.refit_bounds (x : CalDie) (die : Nat) (e m : Rat) :
    mkRat 80 100 ≤ (x.refit die false e m).gain ∧ (x.refit die false e m).gain ≤ mkRat 125 100 ∧
    -(nominalPower die / 10) ≤ (x.refit die false e m).offset ∧ (x.refit die false e m).offset ≤ nominalPower die / 10 := by
  have hn := nominalPower_nonneg die
  obtain ⟨h1, h2⟩ := ratClamp_bounds (lo := mkRat 80 100) (hi := mkRat 125 100) (by decide +kernel) _
  obtain ⟨h3, h4⟩ := ratClamp_bounds (lo := -(nominalPower die / 10)) (hi := nominalPower die / 10) (by linarith) _
  exact ⟨h1, h2, h3, h4⟩

/-- With no failed sensor the measured power is output voltage by current, summed over the rails. -/
theorem Chip.measuredPower_of_sensed {die : Nat} {cur : List Nat} (h : (railsOf die).any c.senseFail = false)
    (hlen : cur.length = (railsOf die).length) : c.measuredPower die cur =
      ratSum (((railsOf die).zip cur).map fun p => mkRat (c.railOut p.1 * p.2) 64000) := by
  have hzip : (railsOf die).zip (cur ++ List.replicate 3 0) = (railsOf die).zip cur := by
    rw [← List.append_nil (railsOf die), List.zip_append hlen.symm]
    simp
  have hsense : ∀ p ∈ (railsOf die).zip cur, c.senseFail p.1 = false := fun p hp => by
    have := List.any_eq_false.1 h p.1 (List.of_mem_zip hp).1
    simpa using this
  rw [Chip.measuredPower, hzip]
  congr 1
  refine List.map_congr_left fun p hp => ?_
  rw [hsense p hp]
  rfl

/-- The part after a calibration interval, before PWR_PKG_POWER is written. -/
def Chip.calibrated (die : Nat) (cur : List Nat) : Chip :=
  let c' := c.setCal die ((c.calOf die).refit die ((railsOf die).any c.senseFail) (c.estMean die) (c.measuredPower die cur))
  { c' with pwr := { c'.pwr with
    estOnly := putBit c'.pwr.estOnly die false, measured := Tbl.set 0 c'.pwr.measured die (c.measuredPower die cur)
    estSum := Tbl.set 0 c'.pwr.estSum die 0, estN := Tbl.set 0 c'.pwr.estN die 0 } }

/-- PWR_PKG_POWER. -/
def Chip.pkgPower : W32 :=
  BitVec.ofNat 32 (min 8191 (ratSum ((List.range 32).map fun d => Tbl.get 0 c.pwr.measured d)).floor.toNat)

theorem Chip.calibrate_eq (die : Nat) (cur : List Nat) : c.calibrate die cur =
    (c.calibrated die cur).setReg pgPwr 0x1010 (c.calibrated die cur).pkgPower := rfl

theorem Chip.calibrated_calOf (die : Nat) (cur : List Nat) (k : Nat) : (c.calibrated die cur).calOf k = if k = die then
    (c.calOf die).refit die ((railsOf die).any c.senseFail) (c.estMean die) (c.measuredPower die cur) else c.calOf k :=
  Tbl.get_set CalDie.reset c.pwr.cals die k _

theorem Chip.calibrated_pkgPower (die : Nat) (cur : List Nat) : (c.calibrated die cur).pkgPower = BitVec.ofNat 32 (min 8191
    (ratSum ((List.range 32).map fun d =>
      if d = die then c.measuredPower die cur else Tbl.get 0 c.pwr.measured d)).floor.toNat) := by
  have hget : ∀ d, Tbl.get 0 (c.calibrated die cur).pwr.measured d =
      if d = die then c.measuredPower die cur else Tbl.get 0 c.pwr.measured d := fun d =>
    Tbl.get_set 0 c.pwr.measured die d _
  simp only [Chip.pkgPower, hget]

/-! The budgets -/

/-- What the hints, the floors and the profile ask of the package. -/
structure Demand where
  floor : Nat → Rat
  want : Nat → Rat
  avail : Rat

namespace Demand
variable (x : Demand)

def need : Rat := ratSum ((List.range 17).map x.floor)
def extra : Rat := ratSum ((List.range 17).map fun d => x.want d - x.floor d)

/-- The power of a domain under the cap (R389). -/
def budget (d : Nat) : Rat :=
  if x.avail ≤ x.need then x.floor d
  else if x.extra ≤ x.avail - x.need then x.want d + (x.avail - x.need - x.extra) / 17
  else x.floor d + (x.avail - x.need) * (x.want d - x.floor d) / x.extra

theorem budget_tight (h : x.avail ≤ x.need) (d : Nat) : x.budget d = x.floor d := if_pos h

/-- Where the floors leave something, the powers make up the cap. -/
theorem budget_sum (h : x.need < x.avail) : ratSum ((List.range 17).map x.budget) = x.avail := by
  have hextra : ((List.range 17).map fun d => x.want d - x.floor d).sum = x.extra := (ratSum_eq _).symm
  have hneed : ((List.range 17).map x.floor).sum = x.need := (ratSum_eq _).symm
  rw [ratSum_eq]
  by_cases hx : x.extra ≤ x.avail - x.need
  · have hb : x.budget = fun d => x.floor d + ((x.want d - x.floor d) + (x.avail - x.need - x.extra) / 17) := funext fun d => by
      rw [budget, if_neg (not_le.2 h), if_pos hx]
      ring
    rw [hb, List.sum_map_add, List.sum_map_add, hneed, hextra, List.map_const', List.sum_replicate, List.length_range, nsmul_eq_mul]
    push_cast
    ring
  · have hpos : x.extra ≠ 0 := by
      intro h0
      rw [h0] at hx
      linarith
    have hb : x.budget = fun d => x.floor d + (x.want d - x.floor d) * ((x.avail - x.need) / x.extra) := funext fun d => by
      rw [budget, if_neg (not_le.2 h), if_neg hx]
      ring
    rw [hb, List.sum_map_add, List.sum_map_mul_right, hneed, hextra, mul_div_cancel₀ _ hpos]
    ring

theorem floor_le_budget (hw : ∀ d, x.floor d ≤ x.want d) (h : x.need < x.avail) (d : Nat) : x.floor d ≤ x.budget d := by
  have hwd := hw d
  rw [budget, if_neg (not_le.2 h)]
  split_ifs with hx
  · have : 0 ≤ (x.avail - x.need - x.extra) / 17 := by
      apply div_nonneg <;> linarith
    linarith
  · have hpos : 0 < x.extra := by linarith
    have : 0 ≤ (x.avail - x.need) * (x.want d - x.floor d) / x.extra := by
      apply div_nonneg
      · apply mul_nonneg <;> linarith
      · exact hpos.le
    linarith
end Demand

/-! The RATE of a budget -/

section
variable (c : Chip) (f d : Nat)

theorem Chip.rateFor_bounds (w : Rat) : c.meterFloor d ≤ c.rateFor f d w ∧ c.rateFor f d w ≤ c.meterMax d := by
  have hle := c.meterFloor_le_max d
  have hfold : ∀ (ks : List Nat) (m : Nat), (∀ k ∈ ks, k < c.meterMax d - c.meterFloor d) →
      c.meterFloor d ≤ m → m ≤ c.meterMax d →
      c.meterFloor d ≤ ks.foldl (fun m k => if Config.wattsAt f d (c.meterFloor d + k) ≤ w then c.meterFloor d + k else m) m ∧
      ks.foldl (fun m k => if Config.wattsAt f d (c.meterFloor d + k) ≤ w then c.meterFloor d + k else m) m ≤ c.meterMax d := by
    intro ks
    induction ks with
    | nil => exact fun m _ h1 h2 => ⟨h1, h2⟩
    | cons k ks ih =>
      intro m hk h1 h2
      have := hk k (List.mem_cons_self ..)
      rw [List.foldl_cons]
      refine ih _ (fun j hj => hk j (List.mem_cons_of_mem _ hj)) ?_ ?_ <;> split_ifs <;> omega
  unfold Chip.rateFor
  dsimp only
  split_ifs
  · exact ⟨le_rfl, hle⟩
  · exact ⟨hle, le_rfl⟩
  · exact hfold _ _ (fun k hk => List.mem_range.1 hk) le_rfl hle

theorem Chip.rateFor_floor : c.rateFor f d (c.floorWatts f d) = c.meterFloor d := if_pos le_rfl

/-- What the floors, the hints and a profile ask of the package (R389). -/
def Chip.demand (prof : Nat → Rat) : Demand where
  floor := c.floorWatts f
  want d := max (prof d) (max (c.hintWatts d f) (c.floorWatts f d))
  avail := (c.pkgCap : Rat) - max (prof 17) (c.seriesNow 17)

theorem Chip.demand_floor_le (prof : Nat → Rat) : (c.demand f prof).floor d ≤ (c.demand f prof).want d :=
  (le_max_right _ _).trans (le_max_right _ _)

/-- The part with the budgets of a demand taken. -/
def Chip.budgeted (w : Nat → Rat) : Chip :=
  { c with pwr := { c.pwr with
    budget := (List.range 17).foldl (fun m d => Tbl.set none m d (some (c.rateFor f d (w d)))) c.pwr.budget
    binPend := [], binLast := some c.time.now } }

/-- The hints shown by domain: the largest profile value stands for what the domain would use without them. -/
def Chip.hintsShown (b : Nat → Chip → Bool) : Chip :=
  forAll (List.range 17) c fun d c => c.setFlag pgPwr 0x1048 4 (b d c) d

/-- Whether the floors leave nothing, as PWR_STAT shows it. -/
def Chip.tightShown (tight : Prop) [Decidable tight] : Chip :=
  if tight then (((c.setFlag pgPwr 0x1004 1 true).setFlag pgPwr 0x1004 2 true).bump pgPwr 0x1110).raiseLim
    (evP pgPwr 0x0905 dieV 0) 0 (usUnits 1000)
  else c.setFlag pgPwr 0x1004 1 false

/-- A budget computation for a profile, as `Chip.share` goes on once the profile is known. -/
def Chip.shareFor (prof : Nat → Rat) : Chip :=
  let floorP (d : Nat) : Rat := c.floorWatts f d
  let want (d : Nat) : Rat := max (prof d) (max (c.hintWatts d f) (floorP d))
  let ds := List.range 17
  let avail : Rat := (c.pkgCap : Rat) - max (prof 17) (c.seriesNow 17)
  let need := ratSum (ds.map floorP)
  let extra := ratSum (ds.map (fun d => want d - floorP d))
  let budget (d : Nat) : Rat :=
    if avail ≤ need then floorP d
    else if extra ≤ avail - need then want d + (avail - need - extra) / 17
    else floorP d + (avail - need) * (want d - floorP d) / extra
  let c := { c with pwr := { c.pwr with
    budget := ds.foldl (fun m d => Tbl.set none m d (some (c.rateFor f d (budget d)))) c.pwr.budget
    binPend := [], binLast := some c.time.now } }
  let c := forAll ds c (fun d c => c.setFlag pgPwr 0x1048 4 (decide (max (prof d) (floorP d) < c.hintWatts d f)) d)
  if avail ≤ need then
    (((c.setFlag pgPwr 0x1004 1 true).setFlag pgPwr 0x1004 2 true).bump pgPwr 0x1110).raiseLim
      (evP pgPwr 0x0905 dieV 0) 0 (usUnits 1000)
  else c.setFlag pgPwr 0x1004 1 false

/-- The profile of a computation (R388). -/
def Chip.profileOf (bins : List Nat) (k : Nat) : Rat :=
  if c.refLive then (bins.map fun b => c.learned ((b + c.field pgPwr 0x1014 9 3) % 256) k).foldl max 0 else c.seriesNow k

theorem Chip.share_eq (bins : List Nat) : c.share bins =
    Chip.shareFor { c with fresh := c.fresh + 1 } c.fresh (Chip.profileOf { c with fresh := c.fresh + 1 } bins) := rfl

/-- The computation by its parts. -/
theorem Chip.shareFor_eq (prof : Nat → Rat) : c.shareFor f prof =
    Chip.tightShown (Chip.hintsShown (c.budgeted f (c.demand f prof).budget) fun d k =>
      decide (max (prof d) (c.floorWatts f d) < k.hintWatts d f)) ((c.demand f prof).avail ≤ (c.demand f prof).need) := rfl

theorem Chip.profileOf_idle (bins : List Nat) (h : c.refLive = false) : c.profileOf bins = c.seriesNow :=
  funext fun k => if_neg (by rw [h]; decide)
theorem Chip.hintsShown_rest (b : Nat → Chip → Bool) : ∃ r, c.hintsShown b = { c with regs := r } :=
  forAll_invariant (P := fun x : Chip => ∃ r, x = { c with regs := r }) (fun d x => by rintro ⟨r, rfl⟩; exact ⟨_, rfl⟩) ⟨c.regs, rfl⟩

theorem Chip.tightShown_rest (tight : Prop) [Decidable tight] : ∃ r x y, c.tightShown tight = { c with regs := r, ev := x, snap := y } := by
  unfold Chip.tightShown
  split
  · obtain ⟨r, x, y, h⟩ := Chip.raiseLim_rest (((c.setFlag pgPwr 0x1004 1 true).setFlag pgPwr 0x1004 2 true).bump pgPwr 0x1110)
      (evP pgPwr 0x0905 dieV 0) 0 (usUnits 1000)
    exact ⟨r, x, y, h⟩
  · exact ⟨_, c.ev, c.snap, rfl⟩

theorem Chip.tightShown_flag (tight : Prop) [Decidable tight] : (c.tightShown tight).flag pgPwr 0x1004 1 = decide tight := by
  unfold Chip.tightShown
  split
  · next ht =>
    have hlim : ∀ (d : Chip) (e : Ev), e.page = pgPwr → (d.raiseLim e 0 (usUnits 1000)).reg pgPwr 0x1004 = d.reg pgPwr 0x1004 := by
      intro d e he
      obtain ⟨x, hk⟩ | hk := d.raiseLim_cases e 0 (usUnits 1000) <;> rw [hk]
      · rw [Chip.reg_withEv, d.raise_reg e (by rw [he]; decide)]
      · rw [Chip.reg_bump_other _ (regKey_ne_of_off (by decide) (by decide) (by decide)),
          Chip.reg_setFlag_other _ _ _ (regKey_ne_of_off (by decide) (by decide) (by decide))]
    have htwo : ∀ d : Chip, (((d.setFlag pgPwr 0x1004 1 true).setFlag pgPwr 0x1004 2 true).bump pgPwr 0x1110).flag pgPwr 0x1004 1 = true :=
      fun d => by
        rw [Chip.flag, Chip.reg_bump_other _ (regKey_ne_of_off (by decide) (by decide) (by decide)), ← Chip.flag,
          Chip.flag_setFlag_other _ _ _ _ _ _ _ (by decide), Chip.flag_setFlag _ _ _ _ _ _ (by decide)]
    rw [Chip.flag, hlim _ _ rfl, ← Chip.flag, htwo, decide_eq_true ht]
  · next ht => rw [Chip.flag_setFlag _ _ _ _ _ _ (by decide), decide_eq_false ht]

/-- What a computation leaves and what it writes. -/
theorem Chip.shareFor_writes (prof : Nat → Rat) : Chip.only [.regs, .ev, .snap, .pwr] c (c.shareFor f prof) ∧
    (c.shareFor f prof).pwr = (c.budgeted f (c.demand f prof).budget).pwr ∧
    (c.shareFor f prof).flag pgPwr 0x1004 1 = decide ((c.demand f prof).avail ≤ (c.demand f prof).need) := by
  rw [c.shareFor_eq]
  refine ⟨?_, ?_, Chip.tightShown_flag _ _⟩
  all_goals
    generalize (fun d (k : Chip) => decide (max (prof d) (c.floorWatts f d) < k.hintWatts d f)) = b
    obtain ⟨r1, h1⟩ := (c.budgeted f (c.demand f prof).budget).hintsShown_rest b
    obtain ⟨r2, x, y, h2⟩ := ((c.budgeted f (c.demand f prof).budget).hintsShown b).tightShown_rest
      ((c.demand f prof).avail ≤ (c.demand f prof).need)
    rw [h2, h1]
  · simp [Chip.only, Chip.budgeted]

theorem Chip.budgeted_budget (w : Nat → Rat) {d : Nat} (hd : d < 17) :
    Tbl.get none (c.budgeted f w).pwr.budget d = some (c.rateFor f d (w d)) :=
  (Tbl.get_foldl_set_default none (fun d => some (c.rateFor f d (w d))) (List.range 17) c.pwr.budget d).trans
    (if_pos (List.mem_range.2 hd))

/-! The start of a bin without a reference livery -/

/-- The part with no bin open. -/
def Chip.binClosed : Chip := { c with pwr := { c.pwr with curBin := none, binSum := [], binN := 0 } }

theorem Chip.binStart_idle (h : c.refLive = false) : c.binStart =
    if (match c.pwr.binLast with | some t => decide (c.time.now < t + usUnits 1) | none => false) then c.binClosed
    else c.binClosed.share c.pwr.binPend := by
  simp only [Chip.binStart, h, Bool.false_eq_true, if_false, Option.toList_none, List.append_nil]
  rfl

theorem Chip.binStart_soon (h : c.refLive = false) {u : Nat} (hu : c.pwr.binLast = some u) (hn : c.time.now < u + 256000) :
    c.binStart = c.binClosed := by
  rw [c.binStart_idle h, hu]
  exact if_pos (decide_eq_true hn)

theorem Chip.binStart_due (h : c.refLive = false) (hu : ∀ u, c.pwr.binLast = some u → u + 256000 ≤ c.time.now) :
    c.binStart = c.binClosed.share c.pwr.binPend := by
  rw [c.binStart_idle h]
  cases hb : c.pwr.binLast with
  | none => rfl
  | some u =>
    have hle : u + 256000 ≤ c.time.now := hu u hb
    exact if_neg fun hd => Nat.not_lt.2 hle (of_decide_eq_true hd)

/-- The part with no bin open, from which the domains' powers are computed. -/
def Chip.binDrawn : Chip := { c.binClosed with fresh := c.fresh + 1 }

theorem Chip.binDrawn_only : Chip.only [.regs, .ev, .snap, .pwr, .fresh] c c.binDrawn := by
  simp [Chip.only, Chip.binDrawn, Chip.binClosed]

theorem Chip.binDrawn_same : c.binDrawn.rateFor = c.rateFor ∧ c.binDrawn.time = c.time ∧
    ∀ f, c.binDrawn.demand f c.seriesNow = c.demand f c.seriesNow := ⟨rfl, rfl, fun _ => rfl⟩

theorem Chip.binStart_computes (h : c.refLive = false) (hu : ∀ u, c.pwr.binLast = some u → u + 256000 ≤ c.time.now) :
    c.binStart = c.binDrawn.shareFor c.fresh c.seriesNow := by
  have hprof : c.binDrawn.profileOf c.pwr.binPend = c.seriesNow := Chip.profileOf_idle _ _ h
  rw [c.binStart_due h hu, Chip.share_eq, ← hprof]
  rfl

/-- What a computation without a reference livery leaves and writes. -/
theorem Chip.binStart_writes (h : c.refLive = false) (hu : ∀ u, c.pwr.binLast = some u → u + 256000 ≤ c.time.now) :
    Chip.only [.regs, .ev, .snap, .pwr, .fresh] c c.binStart ∧ c.binStart.pwr.binLast = some c.time.now ∧
    (∀ d < 17, Tbl.get none c.binStart.pwr.budget d =
      some (c.rateFor c.fresh d ((c.demand c.fresh c.seriesNow).budget d))) ∧
    c.binStart.flag pgPwr 0x1004 1 =
      decide ((c.demand c.fresh c.seriesNow).avail ≤ (c.demand c.fresh c.seriesNow).need) := by
  obtain ⟨honly, hpwr, hflag⟩ := c.binDrawn.shareFor_writes c.fresh c.seriesNow
  obtain ⟨hrate, htime, hdemand⟩ := c.binDrawn_same
  rw [hdemand] at hpwr hflag
  rw [c.binStart_computes h hu]
  refine ⟨Chip.only_trans c.binDrawn_only (Chip.only_mono (by decide) honly), ?_, fun d hd => ?_, hflag⟩
  · rw [hpwr, ← htime]
    rfl
  · rw [hpwr, Chip.budgeted_budget _ _ _ hd, hrate]

theorem Chip.demand_avail : (c.demand f c.seriesNow).avail = (c.pkgCap : Rat) - c.seriesNow 17 := by
  rw [Chip.demand, max_self]

/-! The other commands -/

theorem Chip.calibrated_only (die : Nat) (cur : List Nat) : Chip.only [.regs, .pwr] c
    ((c.calibrated die cur).setReg pgPwr 0x1010 (c.calibrated die cur).pkgPower) := by
  simp [Chip.only, Chip.calibrated, Chip.setCal]

theorem Chip.budgetCtrl_only (v : W32) : Chip.only [.regs, .pwr] c (c.setReg pgPwr 0x1014 v).clearProfile := by
  simp [Chip.only, Chip.clearProfile]

theorem Chip.budgetCtrl_same {v : W32} (h : v &&& 0xFFF = c.reg pgPwr 0x1014) : c.budgetCtrl v = c := if_pos h

theorem Chip.budgetCtrl_changes {v : W32} (h : v &&& 0xFFF ≠ c.reg pgPwr 0x1014) :
    c.budgetCtrl v = (c.setReg pgPwr 0x1014 (v &&& 0xFFF)).clearProfile := if_neg h

end
end

section
variable (c b : Chip)

theorem Chip.settleAlerts_calOf (die : Nat) : (Chip.settleAlerts b c).calOf die = c.calOf die := (rfl)
theorem Chip.setReg_calOf (page off : Nat) (v : W32) (inst die : Nat) : (c.setReg page off v inst).calOf die = c.calOf die := rfl
end

/-- Settles O20. -/
theorem budgetsShareTheCap : Obligations.BudgetsShareTheCap := by
  unfold Obligations.BudgetsShareTheCap
  intro s hup hserves c
  refine ⟨?_, fun die cur => ?_, fun v hv => ?_, fun v hv => ?_, fun hidle hsoon => ?_, fun hidle hdue => ?_, fun d => ?_⟩
  · refine yields_after (exec_gated (·.v0Up) (·.estimates) rfl hup rfl) ?_
    simp only [Chip.settleAlerts_pwr, Chip.settleAlerts_act]
    exact ⟨fun d hd => s.chip.estimates_die hd, by rw [Chip.estimates_act]; rfl, by rw [Chip.estimates_act]; rfl,
      Chip.only_settleAlerts s.chip.estimates_only⟩
  · refine yields_after (exec_gated (·.v0Up) (·.calibrate die.val cur) rfl hup (s.chip.calibrate_eq die.val cur)) ?_
    have hcal : ∀ k, ((s.chip.calibrated die.val cur).setReg pgPwr 0x1010 (s.chip.calibrated die.val cur).pkgPower).calOf k = _ :=
      fun k => s.chip.calibrated_calOf die.val cur k
    obtain ⟨hlen, hlast⟩ := (s.chip.calOf die.val).kept_spec (s.chip.estMean die.val, s.chip.measuredPower die.val cur)
    simp only [Chip.settleAlerts_calOf, hcal, if_true, CalDie.refit_pairs]
    refine ⟨hlen, hlast, s.chip.measuredPower_of_sensed, fun hf => ?_, fun hf => ?_, fun k hk => if_neg hk, ?_, ?_, ?_, ?_, ?_, ?_⟩
    · have hfrozen : (railsOf die.val).any s.chip.senseFail = true := hf
      rw [hfrozen]
      exact CalDie.refit_frozen ..
    · have hfree : (railsOf die.val).any s.chip.senseFail = false := hf
      rw [hfree]
      exact CalDie.refit_bounds ..
    · exact putFld_bit_same _ _ _ die.isLt
    · exact Tbl.get_set_same ..
    · exact Tbl.get_set_same ..
    · rw [Chip.settleAlerts_reg, Chip.reg_setReg, Chip.calibrated_pkgPower]
    · exact Chip.regsBut_settleAlerts fun p o i hk => Chip.reg_setReg_other _ _ fun he => hk (List.mem_singleton.2 he)
    · exact Chip.only_settleAlerts (s.chip.calibrated_only die.val cur)
  · exact exec_gated_self (·.serves pgPwr) (·.budgetCtrl v) rfl hserves (s.chip.budgetCtrl_same hv)
  · refine yields_after (exec_gated (·.serves pgPwr) (·.budgetCtrl v) rfl hserves (s.chip.budgetCtrl_changes hv)) ?_
    refine ⟨?_, ?_, rfl, rfl, rfl, ?_, ?_⟩
    · exact (Chip.reg_setReg_off _ (by decide) (by decide) (by decide)).trans (Chip.reg_setReg ..)
    · exact Chip.flag_setFlag _ _ _ _ _ _ (by decide)
    · refine Chip.regsBut_settleAlerts fun p o i hk => ?_
      simp only [List.mem_cons, List.not_mem_nil, or_false, not_or] at hk
      exact (Chip.reg_setFlag_other _ _ _ hk.2).trans (Chip.reg_setReg_other _ _ hk.1)
    · exact Chip.only_settleAlerts (s.chip.budgetCtrl_only _)
  · obtain ⟨u, hu, hn⟩ := hsoon
    exact exec_gated_put (·.v0Up) (·.binStart) rfl hup (s.chip.binStart_soon hidle hu hn) rfl
  · refine yields_after (exec_gated (·.v0Up) (·.binStart) rfl hup rfl) ?_
    obtain ⟨honly, hlast, hbudget, hflag⟩ := s.chip.binStart_writes hidle hdue
    refine ⟨hlast, Chip.only_settleAlerts honly, (s.chip.demand s.chip.fresh s.chip.seriesNow).budget, ?_⟩
    · intro floorOf need avail
      have havail : (s.chip.demand s.chip.fresh s.chip.seriesNow).avail = avail := s.chip.demand_avail _
      have hneed : (s.chip.demand s.chip.fresh s.chip.seriesNow).need = need := rfl
      rw [havail, hneed] at hflag
      have hrate : ∀ d, s.chip.rateFor s.chip.fresh d (floorOf d) = s.chip.meterFloor d := s.chip.rateFor_floor s.chip.fresh
      refine ⟨fun d hd => ⟨hbudget d hd, s.chip.rateFor_bounds _ _ _⟩, fun htight => ⟨hflag.trans (decide_eq_true htight), fun d _ => ?_⟩,
        fun hroom => ⟨hflag.trans (decide_eq_false (not_le.2 hroom)), ?_, fun d _ => ?_⟩⟩
      · rw [Demand.budget_tight _ (havail.trans_le (htight.trans_eq hneed.symm)) d]
        exact ⟨rfl, hrate d⟩
      · exact (Demand.budget_sum _ (hneed.trans_lt (hroom.trans_eq havail.symm))).trans havail
      · exact Demand.floor_le_budget _ (s.chip.demand_floor_le _ · _) (hneed.trans_lt (hroom.trans_eq havail.symm)) d
  · have hrun : exec (.hintHoldExpiry d) s = .next (s.put (s.chip.hintExpire d.val)) :=
      exec_gated_put (·.v0Up) (·.hintExpire d.val) rfl hup rfl rfl
    exact ⟨_, hrun, rfl, Tbl.get_set_same .., fun k hk => Tbl.get_set_other _ _ _ _ hk, rfl⟩

end Sys2Proof.Machine
end

section
/-! The periodic work of firmware (R374, R375, R424 to R426). -/

namespace Sys2Proof.Machine

section
variable (c : Chip)

/-! The heartbeat -/

/-- MBX_LOAD: three percentages, together at most 100. -/
def loadWord (w : W32) : Nat :=
  let a := fld w 0 8 % 101
  let b := fld w 8 8 % (101 - a)
  a + b * 256 + fld w 16 8 % (101 - a - b) * 65536

theorem loadWord_shares (w : W32) : fld (BitVec.ofNat 32 (loadWord w)) 0 8 + fld (BitVec.ofNat 32 (loadWord w)) 8 8 +
    fld (BitVec.ofNat 32 (loadWord w)) 16 8 ≤ 100 ∧ fld (BitVec.ofNat 32 (loadWord w)) 24 8 = 0 := by
  simp only [fld_ofNat _ (show 0 + 8 ≤ 32 by decide), fld_ofNat _ (show 8 + 8 ≤ 32 by decide),
    fld_ofNat _ (show 16 + 8 ≤ 32 by decide), fld_ofNat _ (show 24 + 8 ≤ 32 by decide)]
  obtain ⟨a, b, d, hsum, hw⟩ : ∃ a b d, a + b + d ≤ 100 ∧ loadWord w = a + b * 256 + d * 65536 := by
    have ha : fld w 0 8 % 101 < 101 := Nat.mod_lt _ (by decide)
    have hb : fld w 8 8 % (101 - fld w 0 8 % 101) < 101 - fld w 0 8 % 101 := Nat.mod_lt _ (by omega)
    have hd := Nat.mod_lt (fld w 16 8) (show 0 < 101 - fld w 0 8 % 101 - fld w 8 8 % (101 - fld w 0 8 % 101) by omega)
    exact ⟨_, _, _, by omega, rfl⟩
  rw [hw]
  have h24 : (a + b * 256 + d * 65536) / 2 ^ 24 % 2 ^ 8 = 0 := by omega
  have h0 : (a + b * 256 + d * 65536) / 2 ^ 0 % 2 ^ 8 = a := by rw [Nat.pow_zero, Nat.div_one]; omega
  have h8 : (a + b * 256 + d * 65536) / 2 ^ 8 % 2 ^ 8 = b := by omega
  have h16 : (a + b * 256 + d * 65536) / 2 ^ 16 % 2 ^ 8 = d := by omega
  rw [h0, h8, h16, h24]
  exact ⟨hsum, rfl⟩

theorem Chip.setReg_withFresh (n page off : Nat) (v : W32) : Chip.setReg { c with fresh := n } page off v =
    { c.setReg page off v with fresh := n } := rfl

theorem Chip.heartbeat_runs (h : c.fwState = 2 ∨ c.fwState = 3) : c.heartbeat =
    { (c.bump (pgMbx 0) 0x1008).setReg (pgMbx 0) 0x1020 (BitVec.ofNat 32 (loadWord (Config.firmwareFigure c.fresh))) with
      fresh := c.fresh + 1 } := by
  have hst : c.fwState = stRunning ∨ c.fwState = stHandover := h
  refine (if_pos hst).trans ?_
  exact (congrArg (Chip.setReg · (pgMbx 0) 0x1020 _) (c.setReg_withFresh _ _ _ _)).trans (Chip.setReg_withFresh _ _ _ _ _)

theorem Chip.heartbeat_idle (h2 : c.fwState ≠ 2) (h3 : c.fwState ≠ 3) : c.heartbeat = c := if_neg (by simp [stRunning, stHandover, h2, h3])

/-! The log -/

theorem Chip.logPageWrite_ev (first count : Nat) (body : List Byte) : (c.logPageWrite first count body).ev = c.ev := by
  unfold Chip.logPageWrite
  dsimp only
  split <;> rfl

theorem Chip.logCommitAll_ev (n : Nat) (rs : List (BitVec 256)) (c : Chip) : (Chip.logCommitAll n rs c).ev = c.ev := by
  induction n generalizing rs c with
  | zero => cases rs <;> rfl
  | succ n ih =>
    cases rs with
    | nil => rfl
    | cons r rs => rw [Chip.logCommitAll, ih, Chip.setReg_ev, Chip.logPageWrite_ev]

/-- Events in a row: what they take of the queue. -/
theorem forAll_raise_ev (e : Ev) (xs : List Nat) (c : Chip) : (forAll xs c fun _ c => c.raise e).ev.taken = c.ev.taken ∧
    (forAll xs c fun _ c => c.raise e).ev.placed = c.ev.placed + xs.length := by
  induction xs generalizing c with
  | nil => exact ⟨rfl, rfl⟩
  | cons x xs ih =>
    obtain ⟨hp, -, -, ht⟩ := Chip.raise_ev c e
    obtain ⟨htaken, hplaced⟩ := ih (c.raise e)
    have hcons : (forAll (x :: xs) c fun _ c => c.raise e) = forAll xs (c.raise e) fun _ c => c.raise e := by
      simp only [forAll, List.foldl_cons]
    rw [hcons, htaken, hplaced, hp, ht, List.length_cons]
    exact ⟨rfl, by omega⟩

theorem Chip.logCommit_ev : c.logCommit.ev.taken = c.ev.placed ∧
    c.logCommit.ev.placed = c.ev.placed + (c.ev.placed - 1024 - c.ev.taken) := by
  have hmissed : max c.ev.taken (c.ev.placed - 1024) - c.ev.taken = c.ev.placed - 1024 - c.ev.taken := by omega
  unfold Chip.logCommit
  dsimp only
  obtain ⟨ht, hp⟩ := forAll_raise_ev (evP pgFlt 0x0A06 dieM 0) (List.range (max c.ev.taken (c.ev.placed - 1024) - c.ev.taken))
    { Chip.logCommitAll 16 ((List.range (c.ev.placed - max c.ev.taken (c.ev.placed - 1024))).map fun i =>
        Tbl.get 0 c.ev.ring ((max c.ev.taken (c.ev.placed - 1024) + i) % 1024)) c with
      ev := { (Chip.logCommitAll 16 ((List.range (c.ev.placed - max c.ev.taken (c.ev.placed - 1024))).map fun i =>
        Tbl.get 0 c.ev.ring ((max c.ev.taken (c.ev.placed - 1024) + i) % 1024)) c).ev with taken := c.ev.placed } }
  refine ⟨ht, hp.trans ?_⟩
  rw [List.length_range, hmissed]
  exact congrArg (·.placed + _) (Chip.logCommitAll_ev _ _ c)

/-! Telemetry -/

/-- Bytes of the items of a telemetry record. -/
theorem length_items {α : Type} (xs : List α) (f : α → Nat) : (xs.flatMap fun r => bytesLE 8 (f r)).length = 8 * xs.length := by
  rw [List.length_flatMap]
  simp only [bytesLE_length, List.map_const', List.sum_replicate, smul_eq_mul]
  exact Nat.mul_comm _ _

theorem Chip.telemRecord_length : c.telemRecord.length = telemBytes := by
  unfold Chip.telemRecord telemBytes
  simp only [List.length_append, bytesLE_length, List.length_replicate, length_items]

theorem Chip.telemRecord_type : c.telemRecord.take 4 = [0x10, 0, 0, 0] := by
  simp only [Chip.telemRecord, List.append_assoc]
  exact take_bytesLE 4 0x10 _

theorem Chip.telemPeriod_off (produced : Bool) (h : c.fw.telem = none) : c.telemPeriod produced = c := by
  simp only [Chip.telemPeriod, h]

theorem Chip.higherWork_iff (h : c.fwState = 2) : c.higherWork = true ↔
    c.ev.taken < c.ev.placed ∨ ∃ q ∈ [0, 1, 2, 3], 0 < c.waiting q ∧ c.answerNow q = none := by
  simp only [Chip.higherWork, Chip.faultWork, stRunning, h, Bool.or_eq_true, List.any_eq_true, Bool.and_eq_true,
    decide_eq_true_eq, Option.isNone_iff_eq_none, true_and]

theorem Chip.telemPeriod_shed {t : Telem} {produced : Bool} (h : c.fw.telem = some t) (hs : produced = false ∨ c.higherWork = true) :
    c.telemPeriod produced = { c.bump (pgMbx 0) 0x1024 with fw := { c.fw with telemShed := c.fw.telemShed + 1 } } := by
  simp only [Chip.telemPeriod, h]
  exact if_pos (by obtain rfl | h := hs <;> simp [*])

/-- Where the next record goes. -/
def Telem.next (t : Telem) (n : Nat) : Nat := if t.size < t.pos + n then 0 else t.pos

theorem Chip.telemPeriod_writes {t : Telem} (h : c.fw.telem = some t) (hs : c.higherWork = false) : c.telemPeriod true =
    { c with
      out := { c.out with dma := some (t.base + t.next telemBytes, c.telemRecord) }
      fw := { c.fw with
        telem := some { t with pos := t.next telemBytes + telemBytes }, telemSeq := c.fw.telemSeq + 1, telemShed := 0 } } := by
  simp only [Chip.telemPeriod, h]
  exact if_neg (by simp [hs])

/-! The pause -/

theorem Chip.pauseEnd_idle (h : c.ev.irqWait = false) : c.pauseEnd = c := if_neg (by simp [h])

theorem Chip.pauseEnd_over {t : Nat} (hw : c.ev.irqWait = true) (hl : c.ev.irqLast = some t)
    (hn : t + 256000 * max 1 (c.field pgFlt 0x1000 8 8) ≤ c.time.now) : c.pauseEnd =
      if c.flag pgFlt 0x1000 0 then Chip.msix { c with ev := { c.ev with irqWait := false, irqLast := some c.time.now } } 0
      else { c with ev := { c.ev with irqWait := false } } := by
  have hgap : usUnits (max 1 (c.field pgFlt 0x1000 8 8)) = 256000 * max 1 (c.field pgFlt 0x1000 8 8) := Nat.mul_comm _ _
  have hpast : (decide (t + usUnits (max 1 (c.field pgFlt 0x1000 8 8)) ≤ c.time.now)) = true := decide_eq_true (hgap ▸ hn)
  simp only [Chip.pauseEnd, hl, hw, hpast, Bool.and_self, if_true]
  rfl

theorem Chip.msix_status (v : Nat) : (c.msix v).smbStatusWord = c.smbStatusWord := by
  obtain ⟨x, h⟩ := c.msix_rest v
  rw [h]
  rfl

theorem Chip.smbStatusWord_mbx {off : Nat} (v : W32) (ho : off < 0x10000) :
    (c.setReg (pgMbx 0) off v).smbStatusWord = c.smbStatusWord := c.smbStatusWord_setReg v 0 (by decide) (by decide) ho
end

/-- Settles O17. -/
theorem firmwareWorksPeriodically : Obligations.FirmwareWorksPeriodically := by
  unfold Obligations.FirmwareWorksPeriodically
  have hbytes : ∀ n, counterRegs.length = n → telemBytes = 32 + 8 * n := fun n h => by rw [telemBytes, h]
  generalize counterRegs.length = items at hbytes
  intro s hup c size
  have hsize : telemBytes = size := hbytes items rfl
  have hrun : ∀ {i : Instr} (f : Chip → Chip), c.fwState = 2 →
      (exec i s = s.run fun c => if c.m0Up && decide (c.fwState = stRunning) then f c else c) →
      exec i s = .next (s.after (f s.chip)) := fun f h2 he =>
    exec_gated (fun c => c.m0Up && decide (c.fwState = stRunning)) f he (by
      rw [hup, decide_eq_true (show s.chip.fwState = stRunning from h2)]; rfl) rfl
  refine ⟨fun h => ?_, fun h2 h3 => ?_, fun h2 => ?_, fun h2 hn produced => ?_, fun t h2 ht => ?_, fun hw => ?_,
    fun t hw hl hn => ⟨fun hoff => ?_, fun hon => ?_⟩⟩
  · obtain ⟨hsum, hzero⟩ := loadWord_shares (Config.firmwareFigure s.chip.fresh)
    refine ⟨_, hsum, hzero, exec_gated_put (·.m0Up) (·.heartbeat) rfl hup (s.chip.heartbeat_runs h) ?_⟩
    exact (Chip.smbStatusWord_mbx _ _ (by decide)).trans (Chip.smbStatusWord_mbx _ _ (by decide))
  · exact exec_gated_self (·.m0Up) (·.heartbeat) rfl hup (s.chip.heartbeat_idle h2 h3)
  · obtain ⟨htaken, hplaced⟩ := s.chip.logCommit_ev
    refine yields_after (hrun (·.logCommit) h2 rfl) ⟨htaken, hplaced, ?_⟩
    rw [Chip.settleAlerts_plane, Chip.logCommit_plane]
  · rw [hrun (·.telemPeriod produced) h2 rfl, s.chip.telemPeriod_off produced hn, State.after_self]
  · refine ⟨fun produced hs => ?_, fun hnot => ?_⟩
    · rw [hrun (·.telemPeriod produced) h2 rfl, s.chip.telemPeriod_shed ht (hs.imp id (s.chip.higherWork_iff h2).2)]
      exact congrArg _ (State.after_of_status (s.chip.smbStatusWord_mbx _ (by decide)))
    · refine ⟨t.next size, s.chip.telemRecord, fun h => if_neg (by omega), fun h => if_pos h, s.chip.telemRecord_length.trans hsize,
        s.chip.telemRecord_type, ?_⟩
      have hlow : s.chip.higherWork = false := Bool.eq_false_iff.2 fun h => hnot ((s.chip.higherWork_iff h2).1 h)
      rw [hrun (·.telemPeriod true) h2 rfl, s.chip.telemPeriod_writes ht hlow, hsize]
      exact congrArg _ (State.after_of_status rfl)
  · exact exec_gated_self (·.m0Up) (·.pauseEnd) rfl hup (s.chip.pauseEnd_idle hw)
  · have hend := s.chip.pauseEnd_over hw hl hn
    rw [if_neg (by rw [show s.chip.flag pgFlt 0x1000 0 = false from hoff]; decide)] at hend
    exact exec_gated_put (·.m0Up) (·.pauseEnd) rfl hup hend rfl
  · have hend := s.chip.pauseEnd_over hw hl hn
    rw [if_pos hon] at hend
    exact exec_gated_put (·.m0Up) (·.pauseEnd) rfl hup hend (Chip.msix_status _ _)

end Sys2Proof.Machine
end

section
/-! What the answers of the mailbox change (R363 to R367), the watchdogs of the management cores, their resets, and errors in
management SRAM (R355, R356). -/

namespace Sys2Proof.Machine

/-! What answering requests changes -/

/-- What answering requests can change: the indices that firmware writes, the reply ring, doorbells, vectors, and the
figures that the manual leaves open. -/
structure Chip.Answered (c d : Chip) : Prop where
  rest : ∃ r x n f, d = { c with regs := r, ev := x, fresh := n, fw := { c.fw with doorbells := f } } ∧
    x.placed = c.ev.placed ∧ x.seq = c.ev.seq ∧ x.ring = c.ev.ring ∧ x.taken = c.ev.taken
  reg : ∀ page off inst, off < 0x6000 → off ≠ reqCi → off ≠ rspPi → d.reg page off inst = c.reg page off inst

namespace Chip.Answered
variable {c d e : Chip}

theorem refl (c : Chip) : c.Answered c := ⟨⟨_, _, _, _, rfl, rfl, rfl, rfl, rfl⟩, fun _ _ _ _ _ _ => rfl⟩

theorem trans (h : c.Answered d) (k : d.Answered e) : c.Answered e := by
  obtain ⟨⟨r, x, n, f, rfl, hp, hs, hr, ht⟩, hreg⟩ := h
  obtain ⟨⟨r', x', n', f', rfl, hp', hs', hr', ht'⟩, hreg'⟩ := k
  exact ⟨⟨r', x', n', f', rfl, hp'.trans hp, hs'.trans hs, hr'.trans hr, ht'.trans ht⟩,
    fun page off inst ho hci hpi => (hreg' page off inst ho hci hpi).trans (hreg page off inst ho hci hpi)⟩

theorem setReg_ring (page off v : Nat) (hl : 0x6000 ≤ off) (hu : off < 0x10000) :
    c.Answered (c.setReg page off (BitVec.ofNat 32 v)) :=
  ⟨⟨_, _, _, _, rfl, rfl, rfl, rfl, rfl⟩, fun _ _ _ ho _ _ => Chip.reg_setReg_off _ hu (by omega) (by omega)⟩

theorem setReg_index (page off v : Nat) (h : off = reqCi ∨ off = rspPi) :
    c.Answered (c.setReg page off (BitVec.ofNat 32 v)) := by
  refine ⟨⟨_, _, _, _, rfl, rfl, rfl, rfl, rfl⟩, fun _ _ _ ho hci hpi => Chip.reg_setReg_off _ ?_ (by omega) ?_⟩
  · rcases h with rfl | rfl <;> decide
  · rcases h with rfl | rfl <;> assumption

theorem msix (v : Nat) : c.Answered (c.msix v) := by
  obtain ⟨x, hx⟩ := c.msix_rest v
  refine ⟨⟨c.regs, x, c.fresh, c.fw.doorbells, hx, ?_, ?_, ?_, ?_⟩, fun _ _ _ _ _ _ => Chip.reg_congr _ (c.msix_regs v) _ _ _⟩
  · simpa [hx] using c.msix_placed v
  · simpa [hx] using c.msix_seq v
  · simpa [hx] using c.msix_ring v
  · simpa [hx] using c.msix_taken v

theorem takeFresh : c.Answered c.takeFresh.2 := ⟨⟨_, _, _, _, rfl, rfl, rfl, rfl, rfl⟩, fun _ _ _ _ _ _ => rfl⟩

/-- The words of a reply entry lie in the reply ring. -/
theorem putReply (q i : Nat) (bs : List Byte) (h : bs.length ≤ 256) : c.Answered (c.putReply q i bs) := by
  refine forAll_keeps refl (fun _ _ _ => trans) (fun w hw d => ?_) c
  have hw : w < 64 := (List.mem_range.1 hw).trans_le (by rw [ceilDiv]; omega)
  have hi : i % 64 < 64 := Nat.mod_lt _ (by decide)
  exact setReg_ring _ _ _ (by omega) (by omega)

theorem reply (q : Nat) (h : BitVec 128) (status : Nat) (trunc : Bool) (body : List Byte) (hb : body.length ≤ 240) :
    c.Answered (c.reply q h status trunc body) := by
  have hlen : (bytesLE 16 (replyHdr h status body.length trunc).toNat ++ body).length ≤ 256 := by
    rw [List.length_append, bytesLE_length]
    omega
  refine trans ((putReply q (c.mbxIndex q rspPi) _ hlen).trans
    (setReg_index (pgMbx q) rspPi ((c.mbxIndex q rspPi + 1) % 65536) (.inr rfl))) ?_
  rw [Chip.reply]
  split
  · exact msix _
  · exact refl _

theorem takeRequest (q : Nat) : c.Answered (c.takeRequest q) := by
  refine (setReg_index (pgMbx q) reqCi ((c.mbxIndex q reqCi + 1) % 65536) (.inl rfl)).trans ?_
  exact ⟨⟨_, _, _, _, rfl, rfl, rfl, rfl, rfl⟩, fun _ _ _ _ _ _ => rfl⟩

theorem answerOldest (q status : Nat) (body : List Byte) (hb : body.length ≤ 240) :
    c.Answered (c.answerOldest q status body) :=
  (reply q _ status false body hb).trans (takeRequest q)

/-- The answers without execution are short. -/
theorem answerNow_length {q j status : Nat} {body : List Byte} (h : c.answerNow q j = some (status, body)) :
    body.length ≤ 240 := by
  unfold Chip.answerNow at h
  dsimp only at h
  repeat' split at h
  all_goals first
    | (obtain ⟨-, rfl⟩ := Prod.mk.inj (Option.some.inj h); simp [Chip.busyBody, bytesLE_length])
    | exact absurd h (by simp)

theorem settleQueue (q n : Nat) (c : Chip) : c.Answered (Chip.settleQueue q n c) := by
  induction n generalizing c with
  | zero => exact refl c
  | succ n ih =>
    unfold Chip.settleQueue
    split
    · split
      next hnow => exact (takeFresh.trans (answerOldest q _ _ (answerNow_length hnow))).trans (ih _)
      next => exact refl c
    · exact refl c

theorem settle (q : Nat) : c.Answered (c.settle q) := settleQueue q 64 c

theorem settleAll : c.Answered c.settleAll :=
  forAll_keeps refl (fun _ _ _ => trans) (fun q _ _ => settle q) c

theorem fwState (h : c.Answered d) : d.fwState = c.fwState := by
  rw [Chip.fwState, Chip.field, h.reg _ _ _ (by decide) (by decide) (by decide)]
  rfl

end Chip.Answered

/-! The requests of a core that is reset (R355) -/

/-- What an old image adopts when it starts again: its own handover area, where that is sound (R371). -/
def Chip.ownArea (c : Chip) : Option Handover := (c.handArea.filter HandArea.crcOk).map HandArea.state

/-- The slot of a rollback is rejected, and the update ends. -/
def Chip.rollbackStart (c : Chip) (k : Nat) : Chip :=
  let d := ((c.writeSlotState k .rejected).setFwState stRollback).freshRuntime
  { d with fw := { d.fw with update := none, loaded := false, quiesced := false, starts := d.fw.starts + 1 } }

/-- The old image starts with what its own handover area holds. -/
def Chip.rollbackAdopt (c : Chip) : Chip :=
  let h := c.ownArea.getD ⟨none, 0, 0⟩
  (c.setTelem h.telem h.telemSeq h.telemShed).setField (pgMbx 0) fwStat 4 2
    (if c.ownArea.isSome then adRolledBack else adRebuilt)

theorem Chip.rollback_eq (c : Chip) (k : Nat) : c.rollback k =
    (((c.rollbackStart k).rollbackAdopt.setFwState stRunning).raise
      ((c.rollbackStart k).rollbackAdopt.slotEvent 0x0805 k)).settleAll := by
  rw [Chip.rollback, ← Chip.rollbackStart]
  generalize c.rollbackStart k = d
  have hadopt : (match d.handArea with
      | some a => if a.crcOk then (d.takeHandover a.state).setField (pgMbx 0) fwStat 4 2 adRolledBack
        else d.dropFirmwareState.setField (pgMbx 0) fwStat 4 2 adRebuilt
      | none => d.dropFirmwareState.setField (pgMbx 0) fwStat 4 2 adRebuilt) = d.rollbackAdopt := by
    unfold Chip.rollbackAdopt Chip.ownArea
    cases d.handArea with
    | none => rfl
    | some a => cases h : a.crcOk <;> simp [Option.filter, h, Chip.takeHandover, Chip.dropFirmwareState]
  exact congrArg (fun e : Chip => ((e.setFwState stRunning).raise (e.slotEvent 0x0805 k)).settleAll) hadopt

/-- The request that a core had started, where the model does not hold it as started yet. -/
def Chip.failStart (c : Chip) (q : Nat) : Chip :=
  if (c.startedOf q).isEmpty && c.canReply q && (c.answerNow q).isNone then c.startOldest q else c

def Chip.failAnswer (c : Chip) (q : Nat) (x : Started) : Chip :=
  ((({ c with fw := { c.fw with started := dropFirst (fun y => decide (y = x)) c.fw.started } } : Chip).reply
    q x.hdr sFailed false []).settle q).updateGo

theorem Chip.failOne_eq (c : Chip) (q : Nat) : c.failOne q =
    match (c.failStart q).fw.started.find? (fun x => decide (x.queue = q)) with
    | some x => if (c.failStart q).mayReply q then (c.failStart q).failAnswer q x else c.failStart q
    | none => c.failStart q := rfl

/-- What leaves the cores in service, the times at which a watchdog expired, and fabric time. -/
structure Chip.CoresKept (c d : Chip) : Prop where
  time : d.time = c.time
  last : d.fw.coreLast = c.fw.coreLast
  cores : ∀ i, 6 ≤ i → d.flag (pgMbx 0) fwStat i = c.flag (pgMbx 0) fwStat i

namespace Chip.CoresKept
variable {c d e : Chip}

theorem refl (c : Chip) : c.CoresKept c := ⟨rfl, rfl, fun _ _ => rfl⟩

theorem trans (h : c.CoresKept d) (k : d.CoresKept e) : c.CoresKept e :=
  ⟨k.time.trans h.time, k.last.trans h.last, fun i hi => (k.cores i hi).trans (h.cores i hi)⟩

theorem of_answered (h : c.Answered d) : c.CoresKept d := by
  obtain ⟨⟨r, x, n, f, rfl, _⟩, hreg⟩ := h
  exact ⟨rfl, rfl, fun i _ => congrArg (fun w => w.getLsbD i) (hreg _ _ _ (by decide) (by decide) (by decide))⟩

/-- STATE, SLOT and ADOPT lie below the cores' bits. -/
theorem setField (lo w v : Nat) (h : lo + w ≤ 6) : c.CoresKept (c.setField (pgMbx 0) fwStat lo w v) :=
  ⟨rfl, rfl, fun i hi => by
    rw [Chip.flag, Chip.setField, Chip.reg_setReg]
    exact putFld_bit_other _ _ _ _ _ (by omega)⟩

theorem setFwState (v : Nat) : c.CoresKept (c.setFwState v) := by
  unfold Chip.setFwState
  split
  · exact refl c
  · exact (setField 0 3 v (by decide)).trans (of_answered (.msix 5))

theorem raise (e : Ev) : c.CoresKept (c.raise e) := by
  obtain ⟨r, x, y, h⟩ := c.raise_rest e
  have hreg := c.raise_reg_off e (page := pgMbx 0) (inst := 0) (off := fwStat) (by decide) (by decide)
  exact ⟨by rw [h], by rw [h], fun i _ => congrArg (fun w => w.getLsbD i) hreg⟩

theorem withFw (f : FwSt) (h : f.coreLast = c.fw.coreLast) : c.CoresKept { c with fw := f } := ⟨rfl, h, fun _ _ => rfl⟩

theorem setTelem (t : Option Telem) (seq shed : Nat) : c.CoresKept (c.setTelem t seq shed) := withFw _ rfl

theorem loadSlot (k r : Nat) : c.CoresKept (c.loadSlot k r) := withFw _ rfl

/-- A rollback starts the old image again and leaves the cores. -/
theorem rollback (k : Nat) : c.CoresKept (c.rollback k) := by
  have hstart : c.CoresKept (c.rollbackStart k) :=
    ((withFw _ rfl : c.CoresKept (c.writeSlotState k .rejected)).trans (setFwState stRollback)).trans (withFw _ rfl)
  have hadopt (d : Chip) : d.CoresKept d.rollbackAdopt :=
    (setTelem _ _ _).trans (setField 4 2 _ (by decide))
  rw [Chip.rollback_eq]
  exact (hstart.trans (hadopt _)).trans (((setFwState stRunning).trans (raise _)).trans (of_answered .settleAll))

theorem storeWrite (a : Nat) (bs : List Byte) : c.CoresKept (c.storeWrite a bs) := by
  unfold Chip.storeWrite Chip.setStore
  split
  · exact refl c
  · split <;> exact ⟨rfl, rfl, fun _ _ => rfl⟩

theorem handover : c.CoresKept c.writeHandover := storeWrite _ _

theorem loaded (d : Chip) : d.CoresKept { d with fw := { d.fw with loaded := true } } := withFw _ rfl

theorem updateGo : c.CoresKept c.updateGo := by
  unfold Chip.updateGo
  split
  · split
    · exact refl c
    · have hload (k r : Nat) : c.CoresKept
          { c.writeHandover.loadSlot k r with fw := { (c.writeHandover.loadSlot k r).fw with loaded := true } } :=
        (handover.trans (loadSlot k r)).trans (loaded _)
      dsimp only
      split
      · exact hload _ _
      · exact (hload _ _).trans (rollback _)
  · exact refl c

theorem startOldest (q : Nat) : c.CoresKept (c.startOldest q) :=
  (of_answered (.takeRequest q)).trans ⟨rfl, rfl, fun _ _ => rfl⟩

/-- The answer FAILED to a request that is started. -/
theorem failAnswer (q : Nat) (x : Started) : c.CoresKept (c.failAnswer q x) :=
  ((withFw { c.fw with started := dropFirst (fun y => decide (y = x)) c.fw.started } rfl).trans
    (of_answered ((Answered.reply q x.hdr sFailed false [] (by decide)).trans (.settle q)))).trans updateGo

theorem failOne (q : Nat) : c.CoresKept (c.failOne q) := by
  have hstart : c.CoresKept (c.failStart q) := by
    unfold Chip.failStart
    split
    · exact startOldest q
    · exact refl c
  rw [Chip.failOne_eq]
  refine hstart.trans ?_
  split
  · split
    · exact failAnswer q _
    · exact refl _
  · exact refl _

theorem failStarted (qs : List Queue) : c.CoresKept (c.failStarted qs) :=
  forAll_keeps refl (fun _ _ _ => trans) (fun q _ _ => failOne q.val) c

theorem coreIn (h : c.CoresKept d) (k : Nat) : d.coreIn k = c.coreIn k := h.cores (6 + k) (by omega)

end Chip.CoresKept

/-! The end of a core's watchdog (R355) -/

section
variable (c : Chip) (k : Nat)

/-- The time of a core's expiry is kept. -/
def Chip.markExpiry : Chip :=
  { c with fw := { c.fw with coreLast := Tbl.set none c.fw.coreLast k (some c.time.now) } }

/-- A core is fenced. -/
def Chip.fenceCore : Chip :=
  ((c.markExpiry k).setFlag (pgMbx 0) fwStat (6 + k) false).raise (evP (pgMbx 0) 0x0801 dieM k)

theorem Chip.coreExpiry_first (hin : c.coreIn k = true)
    (h : ∀ t, Tbl.get none c.fw.coreLast k = some t → t + 256000000000 ≤ c.time.now) :
    c.coreExpiry k = c.markExpiry k := by
  unfold Chip.coreExpiry
  rw [if_neg (by simp [hin])]
  dsimp only
  cases hl : Tbl.get none c.fw.coreLast k with
  | none => rfl
  | some t => exact if_neg fun hlt => absurd (of_decide_eq_true hlt) (Nat.not_lt.2 (h t hl))

theorem Chip.coreExpiry_second (hin : c.coreIn k = true) {t : Nat} (hl : Tbl.get none c.fw.coreLast k = some t)
    (h : c.time.now < t + 256000000000) : c.coreExpiry k =
      if (c.fenceCore k).field (pgMbx 0) fwStat 6 4 = 0 then (c.fenceCore k).mgmtReset 5 else c.fenceCore k := by
  unfold Chip.coreExpiry
  rw [if_neg (by simp [hin])]
  dsimp only
  rw [hl]
  exact if_pos (decide_eq_true h)
end

/-! Errors in management SRAM (R356) -/

section
variable (c : Chip) (bank word : Nat)

/-- The record of an uncorrectable error. -/
def Chip.sramSeen : Chip := (c.bump pgMemM 0x1108).raise (evP pgMemM 0x0402 dieM bank word)

/-- Firmware starts again without a handover, and loses the requests in progress. -/
def Chip.sramRestart : Chip :=
  { c.setField (pgMbx 0) fwStat 4 2 adRebuilt with
    fw := { c.fw with
      sram := zeroBytes c.fw.sram 0x400000 0x400000, started := []
      telem := none, telemSeq := 0, telemShed := 0, starts := c.fw.starts + 1 } }

theorem Chip.sramError_eq : c.sramError bank word =
    if (c.sramSeen bank word).fwState ≠ stRunning ∧ (c.sramSeen bank word).fwState ≠ stHandover then c.sramSeen bank word
    else if (c.sramSeen bank word).inCode bank word then (c.sramSeen bank word).mgmtReset 5
    else (c.sramSeen bank word).sramRestart := by
  rw [Chip.sramError, ← Chip.sramSeen]
  generalize c.sramSeen bank word = d
  rfl

theorem Chip.sramSeen_fw : (c.sramSeen bank word).fw = c.fw := by
  obtain ⟨r, x, y, h⟩ := (c.bump pgMemM 0x1108).raise_rest (evP pgMemM 0x0402 dieM bank word)
  rw [Chip.sramSeen, h]
  rfl

theorem Chip.sramSeen_fwState : (c.sramSeen bank word).fwState = c.fwState := by
  rw [Chip.fwState, Chip.fwState, Chip.field, Chip.field, Chip.sramSeen, Chip.raise_reg_off _ _ (by decide) (by decide),
    Chip.reg_bump_other _ (regKey_ne_of_off (by decide) (by decide) (by decide))]
end

/-- The management cores answer their watchdogs and the errors of their SRAM. -/
theorem exec_coreExpiry (s : State) (core : Fin 4) (qs : List Queue) (hup : s.chip.m0Up = true)
    (hin : s.chip.coreIn core.val = true) {d : Chip} (h : (s.chip.failStarted qs).coreExpiry core.val = d) :
    exec (.coreWatchdogExpiry core qs) s = .next (s.after d) :=
  exec_gated (fun c => c.m0Up && c.coreIn core.val) (fun c => (c.failStarted qs).coreExpiry core.val) rfl
    (by simp [hup, hin]) h

/-! What a management reset leaves (R355, R433) -/

section
variable (c : Chip) (cause : Nat)

/-- The cause of a reset is written, and its event raised. -/
def Chip.resetNoted : Chip :=
  ((c.setField pgPwr 0x1074 0 4 cause).setFlag pgPwr 0x1070 3 false).raise (evP (pgMbx 0) 0x0802 dieM 0)

theorem Chip.mgmtReset_eq : c.mgmtReset cause = (c.resetNoted cause).mgmtRestart := rfl

theorem Chip.resetNoted_rest : ∃ r x y, c.resetNoted cause = { c with regs := r, ev := x, snap := y } := by
  obtain ⟨r, x, y, h⟩ := ((c.setField pgPwr 0x1074 0 4 cause).setFlag pgPwr 0x1070 3 false).raise_rest
    (evP (pgMbx 0) 0x0802 dieM 0)
  exact ⟨r, x, y, h⟩

theorem Chip.resetNoted_placed : (c.resetNoted cause).ev.placed = c.ev.placed + 1 :=
  ((c.setField pgPwr 0x1074 0 4 cause).setFlag pgPwr 0x1070 3 false).raise_placed _

/-- The cause stands in PWR_RST_STAT. -/
theorem Chip.mgmtReset_cause (h : cause < 16) : (c.mgmtReset cause).field pgPwr 0x1074 0 4 = cause := by
  rw [Chip.mgmtReset_eq, Chip.field, Chip.mgmtRestart_reg _ (by decide) (by decide), Chip.coresDown_reg _ (by decide) (by decide),
    Chip.resetNoted, Chip.raise_reg_off _ _ (by decide) (by decide),
    Chip.reg_setFlag_other _ _ _ (regKey_ne_of_off (by decide) (by decide) (by decide))]
  exact (c.field_setField pgPwr 0x1074 0 4 cause 0 (by decide)).trans (Nat.mod_eq_of_lt h)

/-- Registers of two pages are two registers. -/
theorem regKey_ne_of_page {p o p' o' : Nat} (ho : o < 0x10000) (ho' : o' < 0x10000) (h : p ≠ p') :
    regKey p o 0 ≠ regKey p' o' 0 := by
  unfold regKey; omega

section
variable (src : Nat) (q : Queue) {off : Nat} (ho : off < 0x10000)
include ho

/-- The tamper logic leaves the mailbox pages. -/
theorem Chip.tamper_reg_mbx : (c.tamper src).reg (pgMbx q.val) off = c.reg (pgMbx q.val) off := by
  have hq := q.isLt
  have hk {p o : Nat} (hp : p < 12) (ho' : o < 0x10000) : regKey (pgMbx q.val) off 0 ≠ regKey p o 0 :=
    regKey_ne_of_page ho ho' (by rw [pgMbx]; omega)
  have hev : ∀ p ∈ [pgSec, pgFlt, pgSnp], ∀ o ∈ [0x14, 0x24, 0x28, 0x100C, 0x1004, 0x1080],
      regKey (pgMbx q.val) off 0 ≠ regKey p o 0 := fun p hp o ho' =>
    hk (by revert p; decide) (by revert o; decide)
  have hev : regKey (pgMbx q.val) off 0 ∉ evKeys (evP pgSec 0x0701 dieM (2 ^ src)).page := by
    intro hm
    rw [show (evP pgSec 0x0701 dieM (2 ^ src)).page = pgSec from rfl] at hm
    simp only [evKeys, List.mem_cons, List.not_mem_nil, or_false] at hm
    obtain h | h | h | h | h | h := hm
    all_goals exact hev _ (by decide) _ (by decide) h
  have hseen : (c.tamperSeen src).reg (pgMbx q.val) off = c.reg (pgMbx q.val) off := by
    rw [Chip.tamperSeen, Chip.raise_reg _ _ hev, Chip.reg_bump_other _ (hk (by decide) (by decide)),
      Chip.reg_setFlag_other _ _ _ (hk (by decide) (by decide))]
  obtain he | he | he := c.tamper_cases src <;> rw [he]
  · exact hseen
  · rw [← hseen]
    show (((Chip.setFlag _ pgSec wipeStat 0 true).setField pgSec wipeStat 3 3 wcTamper).setFlag
      pgSec wipeStat 2 true).reg (pgMbx q.val) off = _
    rw [Chip.reg_setFlag_other _ _ _ (hk (by decide) (by decide)), Chip.reg_setField_other _ _ _ _ (hk (by decide) (by decide)),
      Chip.reg_setFlag_other _ _ _ (hk (by decide) (by decide))]
    rfl

theorem Chip.coresClosed_reg_mbx : c.coresClosed.reg (pgMbx q.val) off = c.coresDown.reg (pgMbx q.val) off := by
  have hset : (c.coresDown.setReg pgSec dbgStat 0).reg (pgMbx q.val) off = c.coresDown.reg (pgMbx q.val) off :=
    Chip.reg_setReg_other _ _ (regKey_ne_of_page ho (by decide) (by rw [pgMbx, pgSec]; omega))
  rw [← hset, Chip.coresClosed, Chip.closeDebug]
  obtain he | he := (c.coresDown.setReg pgSec dbgStat 0).tapWatch_cases c.coresDown.testAccess <;> rw [he]
  exact Chip.tamper_reg_mbx _ 6 q ho
end

/-- The indices of one queue go to 0, and those of the others stay. -/
theorem Chip.clearQueue_index (q p : Nat) {off : Nat} (h : off ∈ indexOffs) :
    (c.clearQueue q).reg (pgMbx p) off = if p = q then 0 else c.reg (pgMbx p) off := by
  have ho : ∀ o ∈ indexOffs, o < 0x10000 := by decide
  split
  next he =>
    subst he
    have hd : ∀ (d : Chip) o, o ∈ indexOffs → (off = o ∨ d.reg (pgMbx p) off = 0) →
        (d.setReg (pgMbx p) o 0).reg (pgMbx p) off = 0 := fun d o hm hz => by
      by_cases heq : off = o
      · rw [heq, Chip.reg_setReg]
      · rw [Chip.reg_setReg_off _ (ho o hm) (ho off h) heq]
        exact hz.resolve_left heq
    simp only [indexOffs, List.mem_cons, List.not_mem_nil, or_false] at h
    rw [Chip.clearQueue]
    obtain h | h | h | h := h
    · exact hd _ _ (by decide) (.inr (hd _ _ (by decide) (.inr (hd _ _ (by decide) (.inr (hd _ _ (by decide) (.inl h)))))))
    · exact hd _ _ (by decide) (.inr (hd _ _ (by decide) (.inr (hd _ _ (by decide) (.inl h)))))
    · exact hd _ _ (by decide) (.inr (hd _ _ (by decide) (.inl h)))
    · exact hd _ _ (by decide) (.inl h)
  next he =>
    have hk : ∀ o ∈ indexOffs, regKey (pgMbx p) off 0 ≠ regKey (pgMbx q) o 0 := fun o hm =>
      regKey_ne_of_page (ho off h) (ho o hm) (by rw [pgMbx, pgMbx]; omega)
    rw [Chip.clearQueue, Chip.reg_setReg_other _ _ (hk rspCi (by decide)), Chip.reg_setReg_other _ _ (hk rspPi (by decide)),
      Chip.reg_setReg_other _ _ (hk reqCi (by decide)), Chip.reg_setReg_other _ _ (hk reqPi (by decide))]

/-- The indices of every queue go to 0. -/
theorem Chip.clearIndices_index (q : Queue) {off : Nat} (h : off ∈ indexOffs) :
    c.clearIndices.reg (pgMbx q.val) off = 0 := by
  have hmem : q.val ∈ [0, 1, 2, 3] := by revert q; decide
  rw [Chip.clearIndices_eq]
  refine forAll_reaches (P := fun _ : Chip => True) (Q := fun d : Chip => d.reg (pgMbx q.val) off = 0) (fun d _ => ?_)
    (fun _ _ _ _ => trivial) (fun p d hd => ?_) hmem trivial
  · rw [d.clearQueue_index _ _ h, if_pos rfl]
  · rw [d.clearQueue_index _ _ h, hd, ite_self]

theorem Chip.mgmtRestart_index (q : Queue) {off : Nat} (h : off ∈ indexOffs) :
    c.mgmtRestart.reg (pgMbx q.val) off = 0 := by
  have hoff : ∀ o ∈ indexOffs, o < 0x10000 ∧ o ≠ fwStat ∧ o ≠ 0x1004 ∧ o ≠ 0x102C := by decide
  obtain ⟨ho, hstat, hver, hsync⟩ := hoff off h
  rw [c.mgmtRestart_eq]
  show (c.coresClosed.setFlag pgPwr 0x1064 2 false).reg (pgMbx q.val) off = 0
  rw [Chip.reg_setFlag_other _ _ _ (regKey_ne_of_page ho (by decide) (by rw [pgMbx, pgPwr]; omega)), c.coresClosed_reg_mbx q ho, Chip.coresDown, Chip.reg_setReg_off _ (by decide) ho hsync,
    Chip.reg_setReg_off _ (by decide) ho hver, Chip.reg_setReg_off _ (by decide) ho hstat]
  exact Chip.clearIndices_index _ q h

/-- The debug scope is closed. -/
theorem Chip.mgmtRestart_dbgStat : c.mgmtRestart.reg pgSec dbgStat = 0 := by
  rw [c.mgmtRestart_eq]
  show (c.coresClosed.setFlag pgPwr 0x1064 2 false).reg pgSec dbgStat = 0
  rw [Chip.reg_setFlag_other _ _ _ (regKey_ne_of_off (by decide) (by decide) (by decide)), Chip.coresClosed, Chip.closeDebug,
    Chip.tapWatch_reg _ _ (by decide) (by decide), Chip.reg_setReg]

/-- A detection writes its record in the slot of the producer index and no other. -/
theorem Chip.tapWatch_ring (was : Bool) {n : Nat} (h : n ≠ c.ev.placed % 1024) :
    Tbl.get 0 (c.tapWatch was).ev.ring n = Tbl.get 0 c.ev.ring n := by
  have hseen : Tbl.get 0 (c.tamperSeen 6).ev.ring n = Tbl.get 0 c.ev.ring n := by
    obtain ⟨_, _, hring, _⟩ := ((c.setFlag pgSec tamperStat 6 true).bump pgSec 0x1008).raise_ev
      (evP pgSec 0x0701 dieM (2 ^ 6))
    rw [Chip.tamperSeen, hring]
    exact Tbl.get_set_other _ _ _ _ h
  obtain he | he := c.tapWatch_cases was <;> rw [he]
  obtain he | he | he := c.tamper_cases 6 <;> rw [he]
  · exact hseen
  · exact hseen

theorem Chip.mgmtRestart_ring {n : Nat} (h : n ≠ c.ev.placed % 1024) :
    Tbl.get 0 c.mgmtRestart.ev.ring n = Tbl.get 0 c.ev.ring n := by
  obtain ⟨r, x, hd, hplaced, _, hring⟩ := c.coresDown_rest
  rw [c.mgmtRestart_eq]
  show Tbl.get 0 c.coresClosed.ev.ring n = _
  rw [Chip.coresClosed, Chip.closeDebug, Chip.tapWatch_ring, hd]
  · exact congrArg (fun t => Tbl.get 0 t n) hring
  · rw [hd]
    show n ≠ x.placed % 1024
    rwa [hplaced]

/-- Without a test instruction the restart places no record and leaves the security engine. -/
theorem Chip.mgmtRestart_idle (h : c.sec.tap ≠ .other) :
    c.mgmtRestart.ev.placed = c.ev.placed ∧ c.mgmtRestart.sec = c.sec := by
  obtain ⟨r, x, hd, hplaced, _⟩ := c.coresDown_rest
  rw [c.mgmtRestart_eq, c.coresClosed_idle h, hd]
  exact ⟨hplaced, rfl⟩
end

/-- Settles O15, by the rules of a core's expiry, of an SRAM error and of the restart of the cores. -/
theorem managementCoresRestart : Obligations.ManagementCoresRestart := by
  unfold Obligations.ManagementCoresRestart
  refine ⟨fun s hup => exec_gated (·.m0Up) (·.mgmtReset 5) rfl hup rfl, fun s core qs hup => ?_,
    fun s bank word hup => ?_, fun c cause hcause => ?_⟩
  · have hkept : s.chip.CoresKept (s.chip.failStarted qs) := .failStarted qs
    have hout (h : s.chip.flag (pgMbx 0) 0x1000 (6 + core.val) = false) : exec (.coreWatchdogExpiry core qs) s = .next s :=
      State.run_eq_self (if_neg (by rw [show s.chip.coreIn core.val = false from h, Bool.and_false]; decide))
    refine ⟨hout, fun hin => ⟨fun hfirst => ?_, fun t hlast hnow => ?_⟩⟩
    · refine (exec_coreExpiry s core qs hup hin
        (Chip.coreExpiry_first _ _ ((hkept.coreIn _).trans hin) fun t ht => ?_)).trans ?_
      · rw [hkept.time]
        exact hfirst t (hkept.last ▸ ht)
      · rw [Chip.markExpiry, hkept.time]
    · refine (exec_coreExpiry s core qs hup hin
        (Chip.coreExpiry_second _ _ ((hkept.coreIn _).trans hin) (hkept.last ▸ hlast) ?_)).trans ?_
      · rw [hkept.time]
        exact hnow
      · rw [Chip.fenceCore, Chip.markExpiry, hkept.time]
        rfl
  · have hrun {d : Chip} (h : s.chip.sramError bank.val word.toNat = d) :
        exec (.mgmtSramUe bank word) s = .next (s.after d) :=
      exec_gated (·.m0Up) (fun c => c.sramError bank.val word.toNat) rfl hup h
    have hstate : (s.chip.sramSeen bank.val word.toNat).fwState = s.chip.fwState := s.chip.sramSeen_fwState _ _
    have hfw : (s.chip.sramSeen bank.val word.toNat).fw = s.chip.fw := s.chip.sramSeen_fw _ _
    have hin : (s.chip.sramSeen bank.val word.toNat).inCode bank.val word.toNat = s.chip.inCode bank.val word.toNat := by
      rw [Chip.inCode, hfw, Chip.inCode]
    rw [Chip.sramError_eq, hstate, hin] at hrun
    refine ⟨fun h2 h3 => hrun (if_pos ⟨h2, h3⟩), fun hruns => ?_⟩
    have hnot : ¬ (s.chip.fwState ≠ stRunning ∧ s.chip.fwState ≠ stHandover) := fun h => hruns.elim h.1 h.2
    rw [if_neg hnot] at hrun
    refine ⟨fun hcode => hrun (if_pos (decide_eq_true hcode)), fun hcode => (hrun (if_neg ?_)).trans ?_⟩
    · exact fun h => hcode (of_decide_eq_true h)
    · rw [Chip.sramRestart, congrArg FwSt.sram hfw, congrArg FwSt.starts hfw, Chip.sramSeen]
      rfl
  · obtain ⟨r, x, y, hnoted⟩ := c.resetNoted_rest cause
    have hplaced := c.resetNoted_placed cause
    have hrecord : Tbl.get 0 (c.resetNoted cause).ev.ring (c.ev.placed % 1024) =
        evRecord (evP (pgMbx 0) 0x0802 dieM 0) c.time.now c.ev.seq :=
      Chip.raise_record ((c.setField pgPwr 0x1074 0 4 cause).setFlag pgPwr 0x1070 3 false) _
    dsimp only
    refine ⟨c.mgmtReset_cause cause hcause, ?_, ?_, fun q off hoff => (c.resetNoted cause).mgmtRestart_index q hoff, ?_, ?_,
      (c.resetNoted cause).mgmtRestart_dbgStat, ?_, ?_, ?_, ?_, fun htap => ?_, c.mgmtReset_vault cause, c.mgmtReset_plane cause⟩
    · exact hplaced ▸ (c.resetNoted cause).mgmtRestart_places
    · rw [Chip.mgmtReset_eq, Chip.mgmtRestart_ring _ (by omega), hrecord]
    · rw [Chip.mgmtReset_eq, Chip.field, show (0x1000 : Nat) = fwStat from rfl, Chip.mgmtRestart_fwStat]
      decide
    · rw [Chip.mgmtReset_eq, Chip.field, show (0x1000 : Nat) = fwStat from rfl, Chip.mgmtRestart_fwStat]
      decide
    · rw [Chip.mgmtReset_eq, Chip.mgmtRestart_eq]
      rfl
    · rw [Chip.mgmtReset_eq, Chip.mgmtRestart_eq]
      rfl
    · rw [Chip.mgmtReset_eq, Chip.mgmtRestart_eq]
      rfl
    · rw [Chip.mgmtReset_eq, Chip.mgmtRestart_eq]
      rfl
    · have hsec : (c.resetNoted cause).sec = c.sec := by rw [hnoted]
      obtain ⟨hp, hs⟩ := (c.resetNoted cause).mgmtRestart_idle (hsec ▸ htap)
      exact ⟨hp.trans hplaced, hs.trans hsec⟩

end Sys2Proof.Machine
end

section
/-! The store as a sparse memory and the handover area (R370). -/

namespace Sys2Proof.Machine

/-! Sparse memories -/

section
variable (m : Tbl Byte) (a x : Nat)

theorem get_putBytes (bs : List Byte) : Tbl.get 0 (putBytes m a bs) x =
    if a ≤ x ∧ x < a + bs.length then bs.getD (x - a) 0 else Tbl.get 0 m x := by
  induction bs generalizing m a with
  | nil => rw [putBytes, if_neg (by simp)]
  | cons b bs ih =>
    rw [putBytes, ih, Tbl.get_set]
    simp only [List.length_cons]
    obtain hlt | rfl | hgt := lt_trichotomy x a
    · rw [if_neg (by omega), if_neg (by omega), if_neg (by omega)]
    · rw [if_neg (by omega), if_pos rfl, if_pos (by omega), Nat.sub_self, List.getD_cons_zero]
    · rw [if_neg (by omega : x ≠ a), show x - a = x - (a + 1) + 1 by omega, List.getD_cons_succ]
      by_cases hin : x < a + (bs.length + 1)
      · rw [if_pos (by omega), if_pos (by omega)]
      · rw [if_neg (by omega), if_neg (by omega)]

/-- What was put into a memory is read back. -/
theorem getBytes_putBytes {i n : Nat} {bs : List Byte} (h : i + n ≤ bs.length) :
    getBytes (putBytes m a bs) (a + i) n = slice bs i n := by
  refine List.ext_getElem (by simp [getBytes, slice]; omega) fun j h1 h2 => ?_
  have hj : j < n := by simpa [getBytes] using h1
  simp only [getBytes, List.getElem_map, List.getElem_range, get_putBytes]
  rw [if_pos (by omega), show a + i + j - a = i + j by omega, List.getD_eq_getElem _ _ (by omega)]
  simp [slice]
end

/-! What the running image hands over -/

section
variable (h : Handover)

theorem Handover.bytes_length : h.bytes.length = 33 := by
  simp only [Handover.bytes, List.length_append, bytesLE_length]

/-- Nothing that firmware holds exceeds its field of the area. -/
def Handover.Fits : Prop :=
  (∀ t, h.telem = some t → t.base < 2 ^ 64 ∧ t.size < 2 ^ 32 ∧ t.period < 2 ^ 32 ∧ t.pos < 2 ^ 64) ∧
    h.telemSeq < 2 ^ 32 ∧ h.telemShed < 2 ^ 32

/-- The parts of the body of the area, each with its width. -/
def Handover.parts : List (Nat × Nat) :=
  let t := h.telem.getD ⟨0, 0, 0, 0⟩
  [(1, h.telem.isSome.toNat), (8, t.base), (4, t.size), (4, t.period), (8, t.pos), (4, h.telemSeq), (4, h.telemShed)]

theorem Handover.bytes_eq : h.bytes = h.parts.flatMap fun p => bytesLE p.1 p.2 := by
  simp [Handover.bytes, Handover.parts]

end

/-- A part of a run of numbers of given widths reads back. -/
theorem natOfLE_part (ps : List (Nat × Nat)) (j : Nat) (hj : j < ps.length) (hv : ps[j].2 < 256 ^ ps[j].1) :
    natOfLE (slice (ps.flatMap fun p => bytesLE p.1 p.2) ((ps.take j).map Prod.fst).sum ps[j].1) = ps[j].2 := by
  have hlen : ((ps.take j).flatMap fun p => bytesLE p.1 p.2).length = ((ps.take j).map Prod.fst).sum := by
    rw [List.length_flatMap]
    simp only [bytesLE_length]
  have hsplit : (ps.flatMap fun p => bytesLE p.1 p.2) = ((ps.take j).flatMap fun p => bytesLE p.1 p.2) ++
      bytesLE ps[j].1 ps[j].2 ++ ((ps.drop (j + 1)).flatMap fun p => bytesLE p.1 p.2) := by
    conv_lhs => rw [← List.take_append_drop j ps, List.drop_eq_getElem_cons hj]
    rw [List.flatMap_append, List.flatMap_cons, List.append_assoc]
  have hs := slice_append (pre := (ps.take j).flatMap fun p => bytesLE p.1 p.2) (bs := bytesLE ps[j].1 ps[j].2)
    (post := (ps.drop (j + 1)).flatMap fun p => bytesLE p.1 p.2) (i := 0) (n := ps[j].1) (by rw [bytesLE_length]; omega)
  rw [hlen, show (((ps.take j).map Prod.fst).sum + 0 : Nat) = ((ps.take j).map Prod.fst).sum from rfl] at hs
  rw [hsplit, hs, slice, List.drop_zero, List.take_of_length_le (bytesLE_length _ _).le, natOfLE_bytesLE_of_lt hv]

/-- The body of an area reads back as what was written. -/
theorem Handover.ofBytes_bytes (h : Handover) (hf : h.Fits) : Handover.ofBytes h.bytes = h := by
  obtain ⟨ht, hseq, hshed⟩ := hf
  have hpart := natOfLE_part h.parts
  have hseq' : natOfLE (slice h.bytes 25 4) = h.telemSeq := h.bytes_eq ▸ hpart 5 (by simp [Handover.parts]) hseq
  have hshed' : natOfLE (slice h.bytes 29 4) = h.telemShed := h.bytes_eq ▸ hpart 6 (by simp [Handover.parts]) hshed
  have hsome : natOfLE (slice h.bytes 0 1) = h.telem.isSome.toNat :=
    h.bytes_eq ▸ hpart 0 (by simp [Handover.parts]) ((Bool.toNat_lt _).trans (by show 2 < 256 ^ 1; decide))
  simp only [Handover.ofBytes, hseq', hshed', hsome]
  obtain ⟨t, seq, shed⟩ := h
  cases t with
  | none => rfl
  | some t =>
    obtain ⟨hb, hs, hp, hq⟩ := ht t rfl
    have hbase : natOfLE (slice (Handover.bytes ⟨some t, seq, shed⟩) 1 8) = t.base :=
      Handover.bytes_eq _ ▸ hpart 1 (by simp [Handover.parts]) hb
    have hsize : natOfLE (slice (Handover.bytes ⟨some t, seq, shed⟩) 9 4) = t.size :=
      Handover.bytes_eq _ ▸ hpart 2 (by simp [Handover.parts]) hs
    have hperiod : natOfLE (slice (Handover.bytes ⟨some t, seq, shed⟩) 13 4) = t.period :=
      Handover.bytes_eq _ ▸ hpart 3 (by simp [Handover.parts]) hp
    have hpos : natOfLE (slice (Handover.bytes ⟨some t, seq, shed⟩) 17 8) = t.pos :=
      Handover.bytes_eq _ ▸ hpart 4 (by simp [Handover.parts]) hq
    rw [hbase, hsize, hperiod, hpos]
    rfl

/-! The area in the store -/

section
variable {c : Chip}

/-- A big-endian number of bytes is below the power of their count. -/
theorem natOfBE_lt (bs : List Byte) : natOfBE bs < 256 ^ bs.length := by
  induction bs using List.reverseRecOn with
  | nil => simp [natOfBE]
  | append_singleton bs b ih =>
    have hb := b.isLt
    rw [natOfBE, List.foldl_append, List.length_append]
    simp only [List.foldl_cons, List.foldl_nil, List.length_cons, List.length_nil, pow_succ]
    rw [natOfBE] at ih
    omega

theorem natOfBE_slice_lt (bs : List Byte) (i k : Nat) : natOfBE (slice bs i k) < 256 ^ k :=
  (natOfBE_lt _).trans_le (Nat.pow_le_pow_right (by decide) (List.length_take_le _ _))

theorem ihHoOut_lt (h : Header) : ihHoOut h < 2 ^ 16 := natOfBE_slice_lt h 28 2

/-- Where the store takes it, the area that the running image writes. -/
theorem Chip.writeHandover_eq (hw : c.wiping = false) (hc : c.storeClosed = false) :
    c.writeHandover = c.setStore (putBytes c.sec.store hoBase
      (handBytes (ihHoOut c.fw.image) ⟨c.fw.telem, c.fw.telemSeq, c.fw.telemShed⟩)) := by
  rw [Chip.writeHandover, Chip.storeWrite, hw, hc]
  rfl

theorem Chip.handArea_put (hw : c.wiping = false) (hc : c.storeClosed = false) (m : Tbl Byte) {format : Nat} (h : Handover)
    (hf : format < 2 ^ 32) (hh : h.Fits) :
    (c.setStore (putBytes m hoBase (handBytes format h))).handArea = some ⟨format, true, h⟩ := by
  have hlen := h.bytes_length
  have hall : (handBytes format h).length = 45 := by
    simp only [handBytes, List.length_append, bytesLE_length, hlen]
  have hread (i n : Nat) (hin : i + n ≤ 45) :
      (c.setStore (putBytes m hoBase (handBytes format h))).storeRead (hoBase + i) n = slice (handBytes format h) i n := by
    have hclear : ((c.setStore (putBytes m hoBase (handBytes format h))).wiping ||
        (c.setStore (putBytes m hoBase (handBytes format h))).storeClosed) = false :=
      Bool.or_eq_false_iff.2 ⟨hw, hc⟩
    rw [Chip.storeRead, hclear, if_neg Bool.false_ne_true]
    exact getBytes_putBytes m hoBase (hin.trans hall.ge)
  have hhead : slice (handBytes format h) 0 12 =
      [(4, format), (4, 33), (4, (crc32 h.bytes).toNat)].flatMap fun p => bytesLE p.1 p.2 := by
    rw [slice, List.drop_zero, handBytes, hlen, List.take_append_of_le_length (by simp [bytesLE_length]),
      List.take_of_length_le (by simp [bytesLE_length])]
    simp
  have hbody : slice (handBytes format h) 12 33 = h.bytes := by
    have hdrop := slice_append (pre := bytesLE 4 format ++ bytesLE 4 h.bytes.length ++ bytesLE 4 (crc32 h.bytes).toNat)
      (bs := h.bytes) (post := []) (i := 0) (n := 33) (by omega)
    have hpre : (bytesLE 4 format ++ bytesLE 4 h.bytes.length ++ bytesLE 4 (crc32 h.bytes).toNat).length = 12 := by
      simp only [List.length_append, bytesLE_length]
    rw [List.append_nil, hpre, ← handBytes] at hdrop
    exact hdrop.trans (List.take_of_length_le hlen.le)
  have hpart := natOfLE_part [(4, format), (4, 33), (4, (crc32 h.bytes).toNat)]
  have hformat := hpart 0 (by simp) hf
  have hcount := hpart 1 (by simp) (by show 33 < 256 ^ 4; decide)
  have hcrc := hpart 2 (by simp) (crc32 h.bytes).isLt
  have hcount' : natOfLE (slice (slice (handBytes format h) 0 12) 4 4) = 33 := hhead ▸ hcount
  have hcrc' : natOfLE (slice (slice (handBytes format h) 0 12) 8 4) = (crc32 h.bytes).toNat := hhead ▸ hcrc
  have hformat' : natOfLE ((slice (handBytes format h) 0 12).take 4) = format := hhead ▸ hformat
  have hread0 := hread 0 12 (by decide)
  rw [Nat.add_zero] at hread0
  simp only [Chip.handArea, hread0, hcount']
  rw [if_neg (by decide), show min 33 (hoBytes - 12) = 33 from rfl, hread 12 33 (by decide), hbody, hcrc', hformat',
    Handover.ofBytes_bytes h hh, decide_eq_true ⟨by decide, rfl⟩]
end

end Sys2Proof.Machine
end

section
/-! The start of an image: what it shows of itself, and a hitless update with its rollback (R361, R370, R371). -/

namespace Sys2Proof.Machine

/-! What answers and events leave of the firmware -/

/-- What events and the answers of the mailbox can change, beside which MBX_FW_STAT and MBX_FW_VER stand. -/
structure Chip.Told (c d : Chip) : Prop where
  rest : ∃ r x y n f, d = { c with regs := r, ev := x, snap := y, fresh := n, fw := { c.fw with doorbells := f } }
  reg : ∀ off, off = fwStat ∨ off = 0x1004 → d.reg (pgMbx 0) off = c.reg (pgMbx 0) off

namespace Chip.Told
variable {c d e : Chip}

theorem trans (h : c.Told d) (k : d.Told e) : c.Told e := by
  obtain ⟨⟨r, x, y, n, f, rfl⟩, hreg⟩ := h
  obtain ⟨⟨r', x', y', n', f', rfl⟩, hreg'⟩ := k
  exact ⟨⟨r', x', y', n', f', rfl⟩, fun off ho => (hreg' off ho).trans (hreg off ho)⟩

theorem of_answered (h : c.Answered d) : c.Told d := by
  obtain ⟨⟨r, x, n, f, hd, _⟩, hreg⟩ := h
  refine ⟨⟨r, x, c.snap, n, f, hd⟩, fun off ho => hreg _ _ _ ?_ ?_ ?_⟩
  all_goals rcases ho with rfl | rfl <;> decide

theorem raise (e : Ev) : c.Told (c.raise e) := by
  obtain ⟨r, x, y, h⟩ := c.raise_rest e
  refine ⟨⟨r, x, y, c.fresh, c.fw.doorbells, h⟩, fun off ho => c.raise_reg e ?_⟩
  have hoff : off < 0x10000 ∧ off ∉ [0x14, 0x24, 0x28, 0x100C, 0x1080] := by rcases ho with rfl | rfl <;> decide
  have hk {p o : Nat} (hm : o ∈ [0x14, 0x24, 0x28, 0x100C, 0x1080]) : regKey (pgMbx 0) off 0 ≠ regKey p o 0 :=
    regKey_ne_of_off hoff.1 (by revert o; decide) fun he => hoff.2 (he ▸ hm)
  have hsrc : regKey (pgMbx 0) off 0 ≠ regKey pgSnp 0x1004 0 := regKey_ne_of_page hoff.1 (by decide) (by decide)
  simp only [evKeys, List.mem_cons, List.not_mem_nil, or_false, not_or]
  exact ⟨hk (by decide), hk (by decide), hk (by decide), hk (by decide), hsrc, hk (by decide)⟩

/-- The end of every start: its event, and the answers to the requests that wait. -/
theorem raise_settleAll (e : Ev) : c.Told (c.raise e).settleAll := (raise e).trans (of_answered .settleAll)

theorem field (h : c.Told d) (lo w : Nat) : d.field (pgMbx 0) fwStat lo w = c.field (pgMbx 0) fwStat lo w :=
  congrArg (fun v => fld v lo w) (h.reg _ (.inl rfl))

end Chip.Told

section
variable (c : Chip)

/-- A change of STATE leaves the other fields of MBX_FW_STAT. -/
theorem Chip.setFwState_field (v : Nat) {lo w : Nat} (h : 3 ≤ lo) :
    (c.setFwState v).field (pgMbx 0) fwStat lo w = c.field (pgMbx 0) fwStat lo w := by
  unfold Chip.setFwState
  split
  · rfl
  · rw [Chip.field, Chip.reg_congr _ (Chip.msix_regs _ _)]
    exact c.field_setField_other _ _ _ _ _ _ _ _ (.inr h)

/-! An image runs -/

/-- What an image that runs shows of itself. -/
structure Chip.Shows (k : Nat) (h : Header) (adopt : Nat) : Prop where
  state : c.fwState = stRunning
  slot : c.field (pgMbx 0) fwStat 3 1 = (decide (k = 1)).toNat
  adopt : c.field (pgMbx 0) fwStat 4 2 = adopt % 4
  svn : c.field (pgMbx 0) fwStat 16 6 = ihSvn h % 64
  ver : (c.reg (pgMbx 0) 0x1004).toNat = ihBuildSeq h

theorem Chip.Told.shows {c d : Chip} {k adopt : Nat} {h : Header} (hd : c.Told d) (hs : c.Shows k h adopt) :
    d.Shows k h adopt :=
  ⟨(hd.field 0 3).trans hs.state, (hd.field 3 1).trans hs.slot, (hd.field 4 2).trans hs.adopt,
    (hd.field 16 6).trans hs.svn, (congrArg BitVec.toNat (hd.reg _ (.inr rfl))).trans hs.ver⟩

theorem Chip.imageRuns_rest (k : Nat) (h : Header) (region adopt : Nat) : ∃ r x, c.imageRuns k h region adopt =
    { c with
      regs := r, ev := x
      fw := { c.fw with
        sram := zeroBytes c.fw.sram runtimeBase runtimeBytes, image := h, slot := some k, region := region
        starts := c.fw.starts + 1 } } ∧
      x.placed = c.ev.placed ∧ x.seq = c.ev.seq ∧ x.ring = c.ev.ring := by
  obtain ⟨r, x, hs, hx⟩ := Chip.setFwState_rest _ stRunning
  exact ⟨r, x, hs, hx⟩

/-- The registers that name the image: SLOT, SVN, FW_VER and ADOPT. -/
def Chip.imageNamed (k : Nat) (h : Header) (adopt : Nat) : Chip :=
  (((c.setFlag (pgMbx 0) fwStat 3 (k = 1)).setField (pgMbx 0) fwStat 16 6 (ihSvn h)).setReg (pgMbx 0) 0x1004
    (BitVec.ofNat 32 (ihBuildSeq h))).setField (pgMbx 0) fwStat 4 2 adopt

theorem Chip.imageNamed_field (k : Nat) (h : Header) (adopt : Nat) {lo w : Nat} (hl : lo + w ≤ 4 ∨ 6 ≤ lo) :
    (c.imageNamed k h adopt).field (pgMbx 0) fwStat lo w =
      ((c.setFlag (pgMbx 0) fwStat 3 (k = 1)).setField (pgMbx 0) fwStat 16 6 (ihSvn h)).field (pgMbx 0) fwStat lo w := by
  rw [Chip.imageNamed, Chip.field_setField_other _ _ _ _ _ _ _ _ _ hl, Chip.field, Chip.reg_setReg_off _ (by decide)
    (by decide) (by decide), Chip.field]

theorem Chip.imageNamed_ver (k : Nat) (h : Header) (adopt : Nat) :
    ((c.imageNamed k h adopt).reg (pgMbx 0) 0x1004).toNat = ihBuildSeq h := by
  rw [Chip.imageNamed, Chip.reg_setField_other _ _ _ _ (by decide), Chip.reg_setReg, BitVec.toNat_ofNat]
  exact Nat.mod_eq_of_lt (natOfBE_slice_lt h 12 4)

theorem Chip.imageRuns_shows (k : Nat) (h : Header) (region adopt : Nat) :
    (c.imageRuns k h region adopt).Shows k h adopt := by
  obtain ⟨d, hd⟩ : ∃ d : Chip, c.imageRuns k h region adopt = (d.imageNamed k h adopt).setFwState stRunning := ⟨_, rfl⟩
  rw [hd]
  refine ⟨Chip.fwState_setFwState _ (by decide), ?_, ?_, ?_, ?_⟩
  · rw [Chip.setFwState_field _ _ (by decide), Chip.imageNamed_field _ _ _ _ (.inl (by decide)),
      Chip.field_setField_other _ _ _ _ _ _ _ _ _ (.inl (by decide))]
    refine (d.field_setField _ _ 3 1 _ 0 (by decide)).trans (Nat.mod_eq_of_lt (Bool.toNat_lt _))
  · rw [Chip.setFwState_field _ _ (by decide), Chip.imageNamed]
    exact Chip.field_setField _ _ _ 4 2 _ 0 (by decide)
  · rw [Chip.setFwState_field _ _ (by decide), Chip.imageNamed_field _ _ _ _ (.inr (by decide))]
    exact Chip.field_setField _ _ _ 16 6 _ 0 (by decide)
  · rw [Chip.setFwState_reg _ _ (by decide) (by decide), Chip.imageNamed_ver]

/-! A new image adopts (R370) -/

/-- Events and answers leave the security engine and the firmware's state but the doorbells. -/
theorem Chip.Told.fw {c d : Chip} (h : c.Told d) : ∃ f, d.fw = { c.fw with doorbells := f } := by
  obtain ⟨⟨r, x, y, n, f, rfl⟩, _⟩ := h
  exact ⟨f, rfl⟩

theorem Chip.Told.sec {c d : Chip} (h : c.Told d) : d.sec = c.sec := by
  obtain ⟨⟨r, x, y, n, f, rfl⟩, _⟩ := h
  rfl

/-- The one record of a start. -/
theorem Chip.raise_settleAll_placed (e : Ev) : (c.raise e).settleAll.ev.placed = c.ev.placed + 1 := by
  obtain ⟨⟨r, x, n, f, hd, hp, _⟩, _⟩ := Chip.Answered.settleAll (c := c.raise e)
  rw [hd]
  exact hp.trans (c.raise_placed e)

/-- The new slot is confirmed, the handover area cleared, and the update ends. -/
def Chip.confirmSlot (k : Nat) : Chip :=
  let d := (c.writeSlotState k .confirmed).clearHandover
  { d with fw := { d.fw with update := none, loaded := false, quiesced := false } }

/-- The new image runs in the other load region. -/
def Chip.adoptImage (k : Nat) (h : Header) (adopt : Nat) : Chip :=
  (((c.confirmSlot k).imageRuns k h (1 - c.fw.region) adopt).raise ((c.confirmSlot k).slotEvent 0x0804 k)).settleAll

theorem Chip.adoptImage_told (k : Nat) (h : Header) (adopt : Nat) :
    ((c.confirmSlot k).imageRuns k h (1 - c.fw.region) adopt).Told (c.adoptImage k h adopt) := .raise_settleAll _

theorem Chip.adoptImage_shows (k : Nat) (h : Header) (adopt : Nat) : (c.adoptImage k h adopt).Shows k h adopt :=
  (c.adoptImage_told k h adopt).shows (Chip.imageRuns_shows _ k h _ adopt)

theorem Chip.adoptImage_sec (k : Nat) (h : Header) (adopt : Nat) :
    (c.adoptImage k h adopt).sec = { c.sec with store := zeroBytes c.sec.store hoBase hoBytes } := by
  obtain ⟨r, x, hr, _⟩ := (c.confirmSlot k).imageRuns_rest k h (1 - c.fw.region) adopt
  rw [(c.adoptImage_told k h adopt).sec, hr]
  rfl

theorem Chip.adoptImage_placed (k : Nat) (h : Header) (adopt : Nat) :
    (c.adoptImage k h adopt).ev.placed = c.ev.placed + 1 := by
  obtain ⟨r, x, hr, hp, _⟩ := (c.confirmSlot k).imageRuns_rest k h (1 - c.fw.region) adopt
  rw [Chip.adoptImage, Chip.raise_settleAll_placed, hr]
  exact congrArg (· + 1) hp

theorem Chip.adoptImage_fw (k : Nat) (h : Header) (adopt : Nat) : ∃ m n f, (c.adoptImage k h adopt).fw =
    { (c.writeSlotState k .confirmed).fw with
      update := none, loaded := false, quiesced := false, sram := m, image := h, slot := some k
      region := 1 - c.fw.region, starts := n, doorbells := f } := by
  obtain ⟨r, x, hr, _⟩ := (c.confirmSlot k).imageRuns_rest k h (1 - c.fw.region) adopt
  obtain ⟨f, hf⟩ := (c.adoptImage_told k h adopt).fw
  rw [hr] at hf
  exact ⟨_, _, f, hf⟩

/-! A rollback (R371) -/

theorem Chip.rollbackStart_rest (k : Nat) : ∃ r x, c.rollbackStart k =
    { c with
      regs := r, ev := x
      fw := { (c.writeSlotState k .rejected).fw with
        sram := zeroBytes c.fw.sram runtimeBase runtimeBytes, update := none, loaded := false, quiesced := false
        starts := c.fw.starts + 1 } } ∧
      x.placed = c.ev.placed := by
  obtain ⟨r, x, hs, hx, _⟩ := (c.writeSlotState k .rejected).setFwState_rest stRollback
  rw [Chip.rollbackStart, hs]
  exact ⟨r, x, rfl, hx⟩

/-- The area is read from the store alone. -/
theorem Chip.handArea_congr {d : Chip} (hs : d.sec = c.sec) (hw : d.reg pgSec wipeStat = c.reg pgSec wipeStat) :
    d.handArea = c.handArea := by
  have hread : d.storeRead = c.storeRead := by
    funext a n
    rw [Chip.storeRead, Chip.wiping, Chip.storeClosed, Chip.flag, Chip.flag, hw, hs]
    rfl
  rw [Chip.handArea, hread, Chip.handArea]

theorem Chip.rollbackStart_area (k : Nat) : (c.rollbackStart k).ownArea = c.ownArea := by
  have harea : (c.rollbackStart k).handArea = c.handArea := by
    refine c.handArea_congr ?_ ((c.writeSlotState k .rejected).setFwState_reg stRollback (by decide) (by decide))
    obtain ⟨r, x, hd, _⟩ := c.rollbackStart_rest k
    rw [hd]
  rw [Chip.ownArea, harea, Chip.ownArea]

/-- The old image before its event. -/
def Chip.rolledBack (k : Nat) : Chip := (c.rollbackStart k).rollbackAdopt.setFwState stRunning

theorem Chip.rollback_told (k : Nat) : (c.rolledBack k).Told (c.rollback k) := by
  rw [Chip.rollback_eq]
  exact .raise_settleAll _

theorem Chip.rolledBack_rest (k : Nat) : ∃ r x t seq shed, c.rolledBack k =
    { c with
      regs := r, ev := x
      fw := { (c.writeSlotState k .rejected).fw with
        sram := zeroBytes c.fw.sram runtimeBase runtimeBytes, update := none, loaded := false, quiesced := false
        starts := c.fw.starts + 1, telem := t, telemSeq := seq, telemShed := shed } } ∧
      x.placed = c.ev.placed := by
  obtain ⟨r, x, hd, hx⟩ := c.rollbackStart_rest k
  obtain ⟨r', x', hs, hx', _⟩ := (c.rollbackStart k).rollbackAdopt.setFwState_rest stRunning
  rw [Chip.rolledBack, hs]
  rw [Chip.rollbackAdopt] at hx' ⊢
  rw [hd] at hx' ⊢
  exact ⟨r', x', _, _, _, rfl, hx'.trans hx⟩

theorem Chip.rollback_sec (k : Nat) : (c.rollback k).sec = c.sec := by
  obtain ⟨r, x, t, seq, shed, hd, _⟩ := c.rolledBack_rest k
  rw [(c.rollback_told k).sec, hd]

theorem Chip.rollback_placed (k : Nat) : (c.rollback k).ev.placed = c.ev.placed + 1 := by
  obtain ⟨r, x, t, seq, shed, hd, hp⟩ := c.rolledBack_rest k
  rw [Chip.rollback_eq, Chip.raise_settleAll_placed, ← Chip.rolledBack, hd]
  exact congrArg (· + 1) hp

theorem Chip.rollback_fw (k : Nat) : ∃ m n t seq shed f, (c.rollback k).fw =
    { (c.writeSlotState k .rejected).fw with
      sram := m, update := none, loaded := false, quiesced := false, starts := n, telem := t, telemSeq := seq
      telemShed := shed, doorbells := f } := by
  obtain ⟨r, x, t, seq, shed, hd, _⟩ := c.rolledBack_rest k
  obtain ⟨f, hf⟩ := (c.rollback_told k).fw
  rw [hd] at hf
  exact ⟨_, _, t, seq, shed, f, hf⟩

theorem Chip.rollback_state (k : Nat) : (c.rollback k).fwState = 2 :=
  ((c.rollback_told k).field 0 3).trans (Chip.fwState_setFwState _ (by decide))

theorem Chip.rollback_adopt (k : Nat) : (c.rollback k).field (pgMbx 0) fwStat 4 2 =
    if c.ownArea.isSome then adRolledBack else adRebuilt := by
  rw [(c.rollback_told k).field, Chip.rolledBack, Chip.setFwState_field _ _ (by decide), Chip.rollbackAdopt,
    Chip.field_setField _ _ _ _ _ _ _ (by decide), c.rollbackStart_area k]
  split <;> rfl

/-! The two ends of an update -/

theorem Chip.newImage_waits (selfOk : Bool) (h : c.fw.update = none ∨ c.fw.loaded = false ∨ c.sec.storeWaits ≠ []) :
    c.newImage selfOk = c := by
  unfold Chip.newImage
  split
  · rfl
  next k hk =>
    refine if_pos ?_
    simpa [hk] using h

/-- Whether the new image adopts: the area is sound and within its range, or there is none. -/
def Chip.updateFits (k : Nat) (selfOk : Bool) : Bool :=
  match c.handArea with
  | none => selfOk
  | some a => selfOk && a.crcOk && adopts (c.slotHeader k) a.format

section
variable {k : Nat} (selfOk : Bool) (hu : c.fw.update = some k) (hl : c.fw.loaded = true) (hw : c.sec.storeWaits = [])
include hu hl hw

theorem Chip.newImage_eq : c.newImage selfOk =
    match c.handArea with
    | none => if selfOk then c.dropFirmwareState.adoptImage k (c.slotHeader k) adRebuilt else c.rollback k
    | some a =>
      if selfOk && a.crcOk && adopts (c.slotHeader k) a.format then
        (c.takeHandover a.state).adoptImage k (c.slotHeader k) adAdopted
      else c.rollback k := by
  simp only [Chip.newImage, hu, hl, hw]
  rfl

theorem Chip.newImage_adopts (h : c.updateFits k selfOk = true) : ∃ seq shed, c.newImage selfOk =
    (c.setTelem (c.handArea.bind (·.state.telem)) seq shed).adoptImage k (c.slotHeader k)
      (if c.handArea = none then adRebuilt else adAdopted) := by
  unfold Chip.updateFits at h
  rw [c.newImage_eq selfOk hu hl hw]
  cases harea : c.handArea with
  | none =>
    rw [harea] at h
    exact ⟨0, 0, if_pos h⟩
  | some a =>
    rw [harea] at h
    exact ⟨a.state.telemSeq, a.state.telemShed, if_pos h⟩

theorem Chip.newImage_rollsBack (h : c.updateFits k selfOk = false) : c.newImage selfOk = c.rollback k := by
  unfold Chip.updateFits at h
  rw [c.newImage_eq selfOk hu hl hw]
  cases harea : c.handArea with
  | none =>
    rw [harea] at h
    exact if_neg (Bool.eq_false_iff.1 h)
  | some a =>
    rw [harea] at h
    exact if_neg (Bool.eq_false_iff.1 h)
end
end

end Sys2Proof.Machine
end

section
/-! The boot ROM (R361). -/

namespace Sys2Proof.Machine

/-! What the boot ROM keeps until an image starts -/

/-- The slots of a part as its boot ROM tries them: their headers, whether they are valid, and whether they may start. -/
structure Chip.SlotsAs (c d : Chip) : Prop where
  header : ∀ k < 2, d.slotHeader k = c.slotHeader k
  valid : ∀ k < 2, d.slotValid k = c.slotValid k
  boots : ∀ k < 2, (d.slotState k = .ready ∨ d.slotState k = .confirmed) ↔
    (c.slotState k = .ready ∨ c.slotState k = .confirmed)

theorem Chip.SlotsAs.trans {c d e : Chip} (h : c.SlotsAs d) (k : d.SlotsAs e) : c.SlotsAs e :=
  ⟨fun j hj => (k.header j hj).trans (h.header j hj), fun j hj => (k.valid j hj).trans (h.valid j hj),
    fun j hj => (k.boots j hj).trans (h.boots j hj)⟩

/-- The slots stand in the flash; whether they are valid rests on the fuses too. -/
theorem Chip.SlotsAs.of_fw {c d : Chip} (hf : d.fw.flash = c.fw.flash) (hs : d.fw.fuseSvn = c.fw.fuseSvn)
    (hr : d.fw.revoked = c.fw.revoked) : c.SlotsAs d := by
  have hread : d.flashRead = c.flashRead := by
    funext a n
    unfold Chip.flashRead Chip.flashByte
    rw [hf]
  have hheader : d.slotHeader = c.slotHeader := by
    funext k
    rw [Chip.slotHeader, hread, Chip.slotHeader]
  have hstate : d.slotState = c.slotState := by
    funext k
    rw [Chip.slotState, Chip.slotWord, hread, Chip.slotState, Chip.slotWord]
  refine ⟨fun k _ => by rw [hheader], fun k _ => ?_, fun k _ => by rw [hstate]⟩
  rw [Chip.slotValid, Chip.slotValid, hheader, hread, Chip.imageValid, Chip.imageValid, Chip.headerValid,
    Chip.headerValid, hs, hr]

/-- A slot in TRIAL is rejected, and no slot that may start changes. -/
def Chip.rejectTrial (c : Chip) (k : Nat) : Chip := if c.slotState k = .trial then c.writeSlotState k .rejected else c

theorem Chip.rejectTrials_eq (c : Chip) : c.rejectTrials = (c.rejectTrial 0).rejectTrial 1 := rfl

theorem Chip.rejectTrial_rest (c : Chip) (k : Nat) : ∃ f, c.rejectTrial k = { c with fw := { c.fw with flash := f } } := by
  unfold Chip.rejectTrial
  split
  · exact ⟨_, rfl⟩
  · exact ⟨_, rfl⟩

theorem Chip.rejectTrial_slots (c : Chip) {j : Nat} (hj : j < 2) : c.SlotsAs (c.rejectTrial j) := by
  unfold Chip.rejectTrial
  split
  next htrial =>
    have hbyte (x : Nat) (h : x < slotBase j ∨ slotBase j + 4 ≤ x) :
        (c.writeSlotState j .rejected).flashByte x = c.flashByte x := by
      rw [Chip.writeSlotState, Chip.flashByte_program, if_neg (by rw [bytesLE_length]; omega)]
    have hread (a n : Nat) (h : a + n ≤ slotBase j ∨ slotBase j + 4 ≤ a) :
        (c.writeSlotState j .rejected).flashRead a n = c.flashRead a n :=
      List.map_congr_left fun i hi => hbyte _ (by have := List.mem_range.1 hi; omega)
    have hheader (k : Nat) (hk : k < 2) : (c.writeSlotState j .rejected).slotHeader k = c.slotHeader k :=
      hread _ _ (by rw [slotBase, slotBase, slotBytes]; omega)
    refine ⟨hheader, fun k hk => ?_, fun k hk => ?_⟩
    · have hlen : loadLen (c.slotHeader k) ≤ 0x200000 := Nat.min_le_left _ _
      have hpayload : (c.writeSlotState j .rejected).flashRead (slotBase k + 0x1200) (loadLen (c.slotHeader k)) =
          c.flashRead (slotBase k + 0x1200) (loadLen (c.slotHeader k)) :=
        hread _ _ (by rw [slotBase, slotBase, slotBytes]; omega)
      rw [Chip.slotValid, hheader k hk, hpayload, Chip.slotValid]
      rfl
    · by_cases hkj : k = j
      · subst hkj
        have hnow : (c.writeSlotState k .rejected).slotState k = .rejected :=
          Chip.slotState_written htrial (by decide) (by decide)
        rw [hnow, htrial]
        decide
      · have hword : (c.writeSlotState j .rejected).slotState k = c.slotState k := by
          rw [Chip.slotState, Chip.slotWord, hread _ _ (by rw [slotBase, slotBase, slotBytes]; omega), Chip.slotState,
            Chip.slotWord]
        rw [hword]
  next => exact .of_fw rfl rfl rfl

/-- What the boot ROM leaves while it passes over slots: their contents, the image that was running, the time, and one
record for each slot that it passes over. -/
structure Chip.BootTries (c d : Chip) : Prop where
  slots : c.SlotsAs d
  now : d.time.now = c.time.now
  image : d.fw.image = c.fw.image
  waiting : d.fw.bootWaiting = false
  records : ∃ n, d.ev.placed = c.ev.placed + n ∧ d.ev.seq % 2 ^ 32 = (c.ev.seq + n) % 2 ^ 32

section
variable {c d : Chip}

/-- The load regions. -/
def Chip.withSram (c : Chip) (m : Tbl Byte) : Chip := { c with fw := { c.fw with sram := m } }

theorem Chip.loadSlot_eq (k r : Nat) : c.loadSlot k r =
    c.withSram (putBytes (zeroBytes c.fw.sram (regionBase r) regionBytes) (regionBase r)
      (c.flashRead (slotBase k + 0x1200) (loadLen (c.slotHeader k)))) := rfl

theorem Chip.withSram_slots (m : Tbl Byte) : c.SlotsAs (c.withSram m) := .of_fw rfl rfl rfl

theorem Chip.BootTries.loadSlot (h : c.BootTries d) (k r : Nat) : c.BootTries (d.loadSlot k r) := by
  rw [Chip.loadSlot_eq]
  generalize putBytes _ _ _ = m
  exact ⟨h.slots.trans (d.withSram_slots m), h.now, h.image, h.waiting, h.records⟩

theorem Chip.BootTries.raise (h : c.BootTries d) (e : Ev) : c.BootTries (d.raise e) := by
  have hrecords : ∃ n, (d.raise e).ev.placed = c.ev.placed + n ∧
      (d.raise e).ev.seq % 2 ^ 32 = (c.ev.seq + n) % 2 ^ 32 := by
    obtain ⟨n, hp, hs⟩ := h.records
    refine ⟨n + 1, by rw [d.raise_placed, hp, Nat.add_assoc], ?_⟩
    rw [d.raise_seq, Nat.mod_mod, Nat.add_mod, hs, ← Nat.add_mod, Nat.add_assoc]
  obtain ⟨r, x, y, hd⟩ := d.raise_rest e
  have hfw : (d.raise e).fw = d.fw := by rw [hd]
  have htime : (d.raise e).time = d.time := by rw [hd]
  exact ⟨h.slots.trans (.of_fw (by rw [hfw]) (by rw [hfw]) (by rw [hfw])), by rw [htime]; exact h.now,
    by rw [hfw]; exact h.image, by rw [hfw]; exact h.waiting, hrecords⟩

/-- The copy in the load region is the slot's payload. -/
theorem Chip.loadSlot_valid (k r : Nat) : (c.loadSlot k r).loadedValid k r = c.slotValid k := by
  have hget (m : Tbl Byte) (bs : List Byte) : getBytes (putBytes m (regionBase r) bs) (regionBase r) bs.length = bs := by
    have hput := getBytes_putBytes m (regionBase r) (i := 0) (n := bs.length) (bs := bs) (by omega)
    rwa [Nat.add_zero, slice, List.drop_zero, List.take_length] at hput
  have hlen : (c.flashRead (slotBase k + 0x1200) (loadLen (c.slotHeader k))).length = loadLen (c.slotHeader k) := by
    rw [Chip.flashRead, List.length_map, List.length_range]
  have hheader (m : Tbl Byte) : (c.withSram m).slotHeader k = c.slotHeader k := rfl
  have hpayload : (c.loadSlot k r).loadedPayload k r = c.flashRead (slotBase k + 0x1200) (loadLen (c.slotHeader k)) := by
    rw [Chip.loadSlot_eq, Chip.loadedPayload, hheader]
    generalize zeroBytes c.fw.sram (regionBase r) regionBytes = m
    generalize c.flashRead (slotBase k + 0x1200) (loadLen (c.slotHeader k)) = bs at hlen ⊢
    rw [← hlen]
    exact hget m bs
  rw [Chip.loadedValid, hpayload, Chip.loadSlot_eq]
  generalize putBytes _ _ _ = m
  rw [hheader, Chip.slotValid]
  rfl

/-! The slots in their order -/

/-- The boot ROM ends in RECOVERY. -/
def Chip.recovers (c : Chip) : Chip := ((c.setFwState stRecovery).raise (evP (pgMbx 0) 0x0803 dieM 0)).settleAll

theorem Chip.bootTry_nil (rejected : Option Nat) : c.bootTry rejected [] = c.recovers := rfl

theorem Chip.bootTry_cons (rejected : Option Nat) (k : Nat) (ks : List Nat) : c.bootTry rejected (k :: ks) =
    if c.slotValid k = true then (c.loadSlot k 0).bootImage k rejected
    else ((c.loadSlot k 0).raise ((c.loadSlot k 0).slotEvent 0x0806 k)).bootTry rejected ks := by
  rw [Chip.bootTry, c.loadSlot_valid]

/-- Slots that are not valid are passed over. -/
theorem Chip.bootTry_passes (rejected : Option Nat) {pre : List Nat} (post : List Nat)
    (hpre : ∀ j ∈ pre, j < 2 ∧ c.slotValid j = false) (h : c.BootTries d) :
    ∃ e, c.BootTries e ∧ d.bootTry rejected (pre ++ post) = e.bootTry rejected post := by
  induction pre generalizing d with
  | nil => exact ⟨d, h, rfl⟩
  | cons j pre ih =>
    obtain ⟨hj, hinvalid⟩ := hpre j List.mem_cons_self
    rw [List.cons_append, Chip.bootTry_cons, h.slots.valid j hj, if_neg (by simp [hinvalid])]
    exact ih (fun i hi => hpre i (List.mem_cons_of_mem j hi)) ((h.loadSlot j 0).raise _)

/-- The order of the slots: by SVN and BUILD_SEQ. -/
def Chip.bootRank (c : Chip) (k : Nat) : Nat := ihSvn (c.slotHeader k) * 2 ^ 32 + ihBuildSeq (c.slotHeader k)

/-- Whether a slot may start. -/
def Chip.boots (c : Chip) (k : Nat) : Prop := c.slotState k = .ready ∨ c.slotState k = .confirmed

theorem Chip.bootOrder_eq : c.bootOrder =
    match [0, 1].filter (fun k => decide (c.slotState k = .ready ∨ c.slotState k = .confirmed)) with
    | [a, b] => if c.bootRank a < c.bootRank b then [b, a] else [a, b]
    | l => l := rfl

/-- The order of the slots by which of them may start. -/
theorem Chip.bootOrder_cases : c.bootOrder = [] ∧ ¬ c.boots 0 ∧ ¬ c.boots 1 ∨ c.bootOrder = [0] ∧ c.boots 0 ∧ ¬ c.boots 1 ∨
    c.bootOrder = [1] ∧ ¬ c.boots 0 ∧ c.boots 1 ∨
    c.bootOrder = (if c.bootRank 0 < c.bootRank 1 then [1, 0] else [0, 1]) ∧ c.boots 0 ∧ c.boots 1 := by
  unfold Chip.boots
  by_cases h0 : c.slotState 0 = .ready ∨ c.slotState 0 = .confirmed
  · by_cases h1 : c.slotState 1 = .ready ∨ c.slotState 1 = .confirmed
    · exact .inr (.inr (.inr ⟨by rw [c.bootOrder_eq]; simp [h0, h1], h0, h1⟩))
    · exact .inr (.inl ⟨by rw [c.bootOrder_eq]; simp [h0, h1], h0, h1⟩)
  · by_cases h1 : c.slotState 1 = .ready ∨ c.slotState 1 = .confirmed
    · exact .inr (.inr (.inl ⟨by rw [c.bootOrder_eq]; simp [h0, h1], h0, h1⟩))
    · exact .inl ⟨by rw [c.bootOrder_eq]; simp [h0, h1], h0, h1⟩

theorem Chip.bootOrder_mem {k : Nat} (h : k ∈ c.bootOrder) : k < 2 ∧ c.boots k := by
  obtain ⟨ho, h0, h1⟩ | ⟨ho, h0, h1⟩ | ⟨ho, h0, h1⟩ | ⟨ho, h0, h1⟩ := c.bootOrder_cases <;> rw [ho] at h
  · exact absurd h (List.not_mem_nil)
  · exact List.mem_singleton.1 h ▸ ⟨by decide, h0⟩
  · exact List.mem_singleton.1 h ▸ ⟨by decide, h1⟩
  · have hk : k = 0 ∨ k = 1 := by split at h <;> simpa [or_comm] using h
    obtain rfl | rfl := hk
    · exact ⟨by decide, h0⟩
    · exact ⟨by decide, h1⟩

/-- A slot that may start stands behind those of a higher rank alone, and those are not valid if it is the best of the
valid ones. -/
theorem Chip.bootOrder_split {k : Nat} (hk : k < 2) (hb : c.boots k)
    (hbest : ∀ j < 2, c.boots j → c.slotValid j = true →
      c.bootRank j < c.bootRank k ∨ (c.bootRank j = c.bootRank k ∧ k ≤ j)) :
    ∃ pre post, c.bootOrder = pre ++ k :: post ∧ ∀ j ∈ pre, j < 2 ∧ c.slotValid j = false := by
  have hworse (j : Nat) (hj : j < 2) (hbj : c.boots j)
      (hr : ¬ (c.bootRank j < c.bootRank k ∨ (c.bootRank j = c.bootRank k ∧ k ≤ j))) :
      ∀ i ∈ [j], i < 2 ∧ c.slotValid i = false := fun i hi => by
    rw [List.mem_singleton.1 hi]
    exact ⟨hj, Bool.eq_false_iff.2 fun hv => hr (hbest j hj hbj hv)⟩
  obtain ⟨ho, h0, h1⟩ | ⟨ho, h0, h1⟩ | ⟨ho, h0, h1⟩ | ⟨ho, h0, h1⟩ := c.bootOrder_cases <;> rw [ho] <;>
    obtain rfl | rfl : k = 0 ∨ k = 1 := by omega
  · exact absurd hb h0
  · exact absurd hb h1
  · exact ⟨[], [], rfl, fun j hj => absurd hj List.not_mem_nil⟩
  · exact absurd hb h1
  · exact absurd hb h0
  · exact ⟨[], [], rfl, fun j hj => absurd hj List.not_mem_nil⟩
  · split
    next hlt => exact ⟨[1], [], rfl, hworse 1 (by decide) h1 (by omega)⟩
    next => exact ⟨[], [1], rfl, fun j hj => absurd hj List.not_mem_nil⟩
  · split
    next => exact ⟨[], [0], rfl, fun j hj => absurd hj List.not_mem_nil⟩
    next hlt => exact ⟨[0], [], rfl, hworse 0 (by decide) h0 (by omega)⟩
end

/-! The image that starts -/

/-- An image was started from a slot in load region 0. -/
structure Chip.Booted (c : Chip) (k : Nat) (h : Header) (waiting : Bool) : Prop where
  shows_ : ∃ adopt, c.Shows k h adopt
  slot : c.fw.slot = some k
  region : c.fw.region = 0
  image : c.fw.image = h
  waits : c.fw.bootWaiting = waiting

section
variable {c d : Chip} {k : Nat} {h : Header} {b : Bool}

theorem Chip.Booted.told (hb : c.Booted k h b) (ht : c.Told d) : d.Booted k h b := by
  obtain ⟨adopt, hs⟩ := hb.shows_
  obtain ⟨f, hf⟩ := ht.fw
  exact ⟨⟨adopt, ht.shows hs⟩, by rw [hf]; exact hb.slot, by rw [hf]; exact hb.region, by rw [hf]; exact hb.image,
    by rw [hf]; exact hb.waits⟩

theorem Chip.imageRuns_booted (adopt : Nat) (hw : c.fw.bootWaiting = b) : (c.imageRuns k h 0 adopt).Booted k h b := by
  obtain ⟨r, x, hd, _⟩ := c.imageRuns_rest k h 0 adopt
  exact ⟨⟨adopt, c.imageRuns_shows k h 0 adopt⟩, by rw [hd], by rw [hd], by rw [hd], by rw [hd]; exact hw⟩

/-- Nothing that concerns the flash changes which image runs. -/
theorem Chip.Booted.withFw {f : FwSt} (hb : c.Booted k h b) (hs : f.slot = c.fw.slot) (hr : f.region = c.fw.region)
    (hi : f.image = c.fw.image) (hw : f.bootWaiting = c.fw.bootWaiting) :
    Chip.Booted { c with fw := f } k h b :=
  ⟨hb.shows_.imp fun _ hs => ⟨hs.state, hs.slot, hs.adopt, hs.svn, hs.ver⟩, hs.trans hb.slot, hr.trans hb.region,
    hi.trans hb.image, hw.trans hb.waits⟩

/-- The place in the log ring. -/
theorem Chip.logFind_rest (c : Chip) : ∃ p n, c.logFind = { c with fw := { c.fw with logPage := p, logSeq := n } } := by
  unfold Chip.logFind
  dsimp only
  split
  · exact ⟨_, _, rfl⟩
  · exact ⟨c.fw.logPage, c.fw.logSeq, rfl⟩

theorem Chip.logPageWrite_rest (c : Chip) (first count : Nat) (body : List Byte) : ∃ m p n,
    c.logPageWrite first count body = { c with fw := { c.fw with flash := m, logPage := p, logSeq := n } } := by
  unfold Chip.logPageWrite
  dsimp only
  split
  · exact ⟨_, _, _, rfl⟩
  · exact ⟨_, _, _, rfl⟩

theorem Chip.gaspCopy_rest (c : Chip) : ∃ m p n,
    c.gaspCopy = { c with fw := { c.fw with flash := m, logPage := p, logSeq := n } } := by
  unfold Chip.gaspCopy
  dsimp only
  split
  · obtain ⟨m, p, n, h⟩ := c.logPageWrite_rest (c.reg pgFlt 0x1018).toNat 0 (c.flashRead gaspBase 256)
    rw [h]
    exact ⟨_, p, n, rfl⟩
  · exact ⟨c.fw.flash, c.fw.logPage, c.fw.logSeq, rfl⟩

theorem Chip.storeWrite_fw (c : Chip) (a : Nat) (bs : List Byte) : (c.storeWrite a bs).fw = c.fw := by
  unfold Chip.storeWrite Chip.setStore
  split
  · rfl
  · split <;> rfl

theorem Chip.deriveKeys_fw (c : Chip) : c.deriveKeys.fw = c.fw := by
  unfold Chip.deriveKeys
  split
  · rw [Chip.storeWrite_fw, Chip.storeWrite_fw]
    rfl
  · rfl

/-- The image's own start: it adopts an area that a trial left behind, or starts without one. -/
def Chip.bootRuns (c : Chip) (k : Nat) (h : Header) (cold : Bool) (rejected : Option Nat) : Chip :=
  match rejected, c.handArea with
  | some r, some a =>
    if a.crcOk && (adopts h a.format || decide (a.format = ihHoOut h)) then
      ((c.takeHandover a.state).imageRuns k h 0 adRolledBack).raise (c.slotEvent 0x0805 r)
    else (c.dropFirmwareState).imageRuns k h 0 adRebuilt
  | _, _ => (c.dropFirmwareState).imageRuns k h 0 (if cold then adCold else adRebuilt)

/-- What firmware does at every start: its place in the log, and the copy of a last-gasp record. -/
def Chip.bootLog (c : Chip) (cold : Bool) : Chip :=
  let d : Chip := { c.logFind with fw := { c.logFind.fw with coldBoot := false } }
  if cold then d.gaspCopy else d

theorem Chip.bootImage_eq (c : Chip) (k : Nat) (rejected : Option Nat) : c.bootImage k rejected =
    ((c.deriveKeys.bootRuns k (c.slotHeader k) c.fw.coldBoot rejected).bootLog c.fw.coldBoot).settleAll := by
  unfold Chip.bootImage
  generalize c.slotHeader k = h
  generalize c.fw.coldBoot = cold
  generalize c.deriveKeys = d
  have hruns : (match rejected, d.handArea with
      | some r, some a =>
        if a.crcOk && (adopts h a.format || decide (a.format = ihHoOut h)) then
          ((d.takeHandover a.state).imageRuns k h 0 adRolledBack).raise (d.slotEvent 0x0805 r)
        else (d.dropFirmwareState).imageRuns k h 0 adRebuilt
      | _, _ => (d.dropFirmwareState).imageRuns k h 0 (if cold then adCold else adRebuilt)) =
      d.bootRuns k h cold rejected := by
    unfold Chip.bootRuns
    cases rejected <;> cases d.handArea <;> rfl
  exact congrArg (fun e : Chip => (e.bootLog cold).settleAll) hruns

theorem Chip.setTelem_waits (c : Chip) (t : Option Telem) (seq shed : Nat) :
    (c.setTelem t seq shed).fw.bootWaiting = c.fw.bootWaiting := rfl

theorem Chip.bootRuns_booted (c : Chip) (k : Nat) (h : Header) (cold : Bool) (rejected : Option Nat) :
    (c.bootRuns k h cold rejected).Booted k h c.fw.bootWaiting := by
  unfold Chip.bootRuns
  split
  · split
    · exact Chip.Booted.told (Chip.imageRuns_booted adRolledBack (c.setTelem_waits _ _ _)) (.raise _)
    · exact Chip.imageRuns_booted adRebuilt (c.setTelem_waits _ _ _)
  · exact Chip.imageRuns_booted _ (c.setTelem_waits _ _ _)

theorem Chip.Booted.gasp (hb : c.Booted k h b) : c.gaspCopy.Booted k h b := by
  obtain ⟨m, p, n, hg⟩ := c.gaspCopy_rest
  rw [hg]
  exact hb.withFw rfl rfl rfl rfl

theorem Chip.Booted.log (hb : c.Booted k h b) (cold : Bool) : (c.bootLog cold).Booted k h b := by
  obtain ⟨p, n, hl⟩ := c.logFind_rest
  have hfind : Chip.Booted { c.logFind with fw := { c.logFind.fw with coldBoot := false } } k h b := by
    rw [hl]
    exact hb.withFw rfl rfl rfl rfl
  unfold Chip.bootLog
  dsimp only
  split
  · exact hfind.gasp
  · exact hfind

theorem Chip.bootImage_booted (rejected : Option Nat) :
    (c.bootImage k rejected).Booted k (c.slotHeader k) c.fw.bootWaiting := by
  have hb := (c.deriveKeys).bootRuns_booted k (c.slotHeader k) c.fw.coldBoot rejected
  rw [c.deriveKeys_fw] at hb
  rw [Chip.bootImage_eq]
  exact (hb.log c.fw.coldBoot).told (.of_answered .settleAll)
end

/-! The boot ROM as a whole -/

section
variable (c : Chip)

/-- The part as the boot ROM finds it after its first steps. -/
def Chip.bootStart : Chip :=
  (({ c with fw := { c.fw with bootWaiting := false } } : Chip).finishFuses).rejectTrials

theorem Chip.bootRom_eq : c.bootRom =
    c.bootStart.bootTry ([0, 1].find? fun k => decide (c.slotState k = .trial)) c.bootStart.bootOrder := rfl

theorem Chip.bootStart_tries : c.BootTries c.bootStart := by
  obtain ⟨d, hd, hslots⟩ : ∃ d : Chip, d = ({ c with fw := { c.fw with bootWaiting := false } } : Chip).finishFuses ∧
      c.SlotsAs d := ⟨_, rfl, .of_fw rfl rfl rfl⟩
  have hstart : c.bootStart = (d.rejectTrial 0).rejectTrial 1 := by rw [hd]; rfl
  have hs : c.SlotsAs c.bootStart :=
    hstart ▸ (hslots.trans (d.rejectTrial_slots (by decide))).trans ((d.rejectTrial 0).rejectTrial_slots (by decide))
  obtain ⟨f, h0⟩ := d.rejectTrial_rest 0
  obtain ⟨f', h1⟩ := (d.rejectTrial 0).rejectTrial_rest 1
  have hrest : ∃ f, c.bootStart = { d with fw := { d.fw with flash := f } } := ⟨f', by rw [hstart, h1, h0]⟩
  obtain ⟨f, hr⟩ := hrest
  refine ⟨hs, ?_, ?_, ?_, 0, ?_, ?_⟩ <;> rw [hr, hd] <;> rfl

/-- Whether a slot may run: READY or CONFIRMED, and valid. -/
def Chip.mayRun (k : Nat) : Prop := k < 2 ∧ c.boots k ∧ c.slotValid k = true

/-- With no slot that may run the boot ROM ends in RECOVERY. -/
theorem Chip.bootRom_recovers (h : ∀ k, ¬ c.mayRun k) : ∃ d, c.BootTries d ∧ c.bootRom = d.recovers := by
  have ht := c.bootStart_tries
  rw [Chip.bootRom_eq, ← List.append_nil c.bootStart.bootOrder]
  refine Chip.bootTry_passes _ [] (fun j hj => ?_) ht
  obtain ⟨hj2, hb⟩ := c.bootStart.bootOrder_mem hj
  exact ⟨hj2, Bool.eq_false_iff.2 fun hv => h j ⟨hj2, (ht.slots.boots j hj2).1 hb, hv⟩⟩

/-- The best slot that may run is started in load region 0. -/
theorem Chip.bootRom_boots {k : Nat} (h : c.mayRun k)
    (hbest : ∀ j, c.mayRun j → c.bootRank j < c.bootRank k ∨ (c.bootRank j = c.bootRank k ∧ k ≤ j)) :
    c.bootRom.Booted k (c.slotHeader k) false := by
  have ht := c.bootStart_tries
  obtain ⟨hk, hb, hv⟩ := h
  have hrank (j : Nat) (hj : j < 2) : c.bootStart.bootRank j = c.bootRank j := by
    rw [Chip.bootRank, ht.slots.header j hj, Chip.bootRank]
  obtain ⟨pre, post, horder, hpre⟩ := c.bootStart.bootOrder_split hk ((ht.slots.boots k hk).2 hb) fun j hj hbj hvj => by
    rw [hrank j hj, hrank k hk]
    exact hbest j ⟨hj, (ht.slots.boots j hj).1 hbj, (ht.slots.valid j hj).symm.trans hvj⟩
  obtain ⟨d, hd, htry⟩ := Chip.bootTry_passes (c := c) ([0, 1].find? fun k => decide (c.slotState k = .trial)) (k :: post)
    (fun j hj => ⟨(hpre j hj).1, (ht.slots.valid j (hpre j hj).1).symm.trans (hpre j hj).2⟩) ht
  have hload := hd.loadSlot k 0
  rw [Chip.bootRom_eq, horder, htry, Chip.bootTry_cons, if_pos ((hd.slots.valid k hk).trans hv)]
  rw [← hload.slots.header k hk, ← hload.waiting]
  exact (d.loadSlot k 0).bootImage_booted _

/-- What the end in RECOVERY leaves. -/
theorem Chip.recovers_told : (c.setFwState stRecovery).Told c.recovers := .raise_settleAll _

theorem Chip.recovers_record : c.recovers.ev.placed = c.ev.placed + 1 ∧
    Tbl.get 0 c.recovers.ev.ring (c.ev.placed % 1024) = evRecord (evP (pgMbx 0) 0x0803 dieM 0) c.time.now c.ev.seq := by
  obtain ⟨r, x, hs, hp, hq, _⟩ := c.setFwState_rest stRecovery
  obtain ⟨⟨r', x', n', f', hd, hp', _, hr', _⟩, _⟩ :=
    Chip.Answered.settleAll (c := (c.setFwState stRecovery).raise (evP (pgMbx 0) 0x0803 dieM 0))
  have hrecord := (c.setFwState stRecovery).raise_record (evP (pgMbx 0) 0x0803 dieM 0)
  have hplaced := (c.setFwState stRecovery).raise_placed (evP (pgMbx 0) 0x0803 dieM 0)
  rw [hs] at hrecord hplaced
  rw [hs] at hd hp' hr'
  rw [Chip.recovers, hs, hd]
  refine ⟨hp'.trans (hplaced.trans (congrArg (· + 1) hp)), ?_⟩
  rw [hr']
  dsimp only at hrecord ⊢
  rwa [hp, hq] at hrecord
end

/-- The end in RECOVERY after slots that were passed over. -/
theorem Chip.BootTries.recovers {c d : Chip} (h : c.BootTries d) : d.recovers.fwState = 1 ∧
    d.recovers.fw.bootWaiting = false ∧ d.recovers.fw.image = c.fw.image ∧
    Tbl.get 0 d.recovers.ev.ring ((d.recovers.ev.placed - 1) % 1024) = evRecord (evP (pgMbx 0) 0x0803 dieM 0) c.time.now
      ((c.ev.seq + (d.recovers.ev.placed - 1 - c.ev.placed)) % 2 ^ 32) := by
  obtain ⟨n, hp, hs⟩ := h.records
  obtain ⟨hplaced, hrecord⟩ := d.recovers_record
  obtain ⟨f, hfw⟩ := d.recovers_told.fw
  obtain ⟨r, x, hset, _⟩ := d.setFwState_rest stRecovery
  have hseq (e : Ev) (now a b : Nat) (hab : a % 2 ^ 32 = b) : evRecord e now a = evRecord e now b := by
    rw [evRecord, evRecord, ← hab, Nat.mod_mod]
  rw [hset] at hfw
  refine ⟨(d.recovers_told.field 0 3).trans (Chip.fwState_setFwState _ (by decide)), ?_, ?_, ?_⟩
  · rw [hfw]
    exact h.waiting
  · rw [hfw]
    exact h.image
  · rw [hplaced, Nat.add_sub_cancel, hrecord, h.now, hp, Nat.add_sub_cancel_left]
    exact hseq _ _ _ _ hs

theorem Chip.settleAlerts_fwState (b c : Chip) : (Chip.settleAlerts b c).fwState = c.fwState := rfl

/-- BOOT_ROM_START runs the boot ROM where it waits and no power-up wipe is under way. -/
theorem exec_bootRomStart (s : State) (hup : s.chip.standbyUp = true) (hwait : s.chip.fw.bootWaiting = true)
    (hw : ¬ (s.chip.flag pgSec 0x1010 0 = true ∧ s.chip.field pgSec 0x1010 3 3 = 3)) :
    exec .bootRomStart s = .next (s.after s.chip.bootRom) := by
  refine exec_gated (fun c => c.standbyUp && c.fw.bootWaiting &&
    !(c.wiping && decide (c.field pgSec wipeStat 3 3 = wcPowerUp))) (·.bootRom) rfl ?_ rfl
  have hnot : (s.chip.wiping && decide (s.chip.field pgSec wipeStat 3 3 = wcPowerUp)) = false := by
    rw [Bool.eq_false_iff, ne_eq, Bool.and_eq_true, decide_eq_true_eq]
    exact hw
  rw [hup, hwait, hnot]
  rfl

/-- Settles O16: the boot ROM by the order of the slots, a new image by what it adopts, and the area by its bytes. -/
theorem imagesStartAdoptAndRollBack : Obligations.ImagesStartAdoptAndRollBack := by
  unfold Obligations.ImagesStartAdoptAndRollBack
  refine ⟨fun s hup hwait hnotwiping => ?_, fun s selfOk hup => ?_, fun c t hw hc ht hseq hshed => ?_⟩
  · have hrun := exec_bootRomStart s hup hwait hnotwiping
    refine ⟨fun hnone => yields_after hrun ?_, fun k hk hbest => yields_after hrun ?_⟩
    · obtain ⟨d, hd, hrom⟩ := s.chip.bootRom_recovers fun k hk => hnone k ⟨hk.1, hk.2.1, hk.2.2⟩
      rw [Chip.settleAlerts_fwState, Chip.settleAlerts_fw, Chip.settleAlerts_ev, hrom]
      exact hd.recovers
    · obtain ⟨hk2, hkb, hkv⟩ := hk
      have hb := s.chip.bootRom_boots ⟨hk2, hkb, hkv⟩ fun j hj => hbest j ⟨hj.1, hj.2.1, hj.2.2⟩
      obtain ⟨adopt, hshows⟩ := hb.shows_
      have hslot : (decide (k = 1)).toNat = k := by
        obtain rfl | rfl : k = 0 ∨ k = 1 := by omega
        · rfl
        · rfl
      rw [Chip.settleAlerts_fwState, Chip.settleAlerts_fw, Chip.settleAlerts_field, Chip.settleAlerts_field,
        Chip.settleAlerts_reg, Chip.settleAlerts_plane]
      exact ⟨hshows.state, hb.slot, hb.region, hb.image, hshows.slot.trans hslot, hshows.svn, hshows.ver, hb.waits,
        s.chip.bootRom_plane⟩
  · have hrun {d : Chip} (h : s.chip.newImage selfOk = d) : exec (.newImageStart selfOk) s = .next (s.after d) :=
      exec_gated (·.m0Up) (fun c => c.newImage selfOk) rfl hup h
    refine ⟨fun hout => ?_, fun k hu hl hs => ⟨fun hfits => ?_, fun hfits => ?_⟩⟩
    · exact exec_gated_self (·.m0Up) (fun c => c.newImage selfOk) rfl hup (s.chip.newImage_waits selfOk hout)
    · obtain ⟨seq, shed, hnew⟩ := s.chip.newImage_adopts selfOk hu hl hs hfits
      have hplane := s.chip.newImage_plane selfOk
      rw [hnew] at hplane
      refine yields_after (hrun hnew) ?_
      generalize hd : s.chip.setTelem (s.chip.handArea.bind (·.state.telem)) seq shed = d at hplane ⊢
      generalize s.chip.slotHeader k = h at hplane ⊢
      have hflash : (d.writeSlotState k .confirmed).fw.flash = (s.chip.writeSlotState k .confirmed).fw.flash := by
        rw [← hd]; rfl
      have htelem : d.fw.telem = s.chip.handArea.bind (·.state.telem) := by rw [← hd]; rfl
      have hsec : d.sec = s.chip.sec := by rw [← hd]; rfl
      have hregion : d.fw.region = s.chip.fw.region := by rw [← hd]; rfl
      have hplaced : d.ev.placed = s.chip.ev.placed := by rw [← hd]; rfl
      have hshows := d.adoptImage_shows k h (if s.chip.handArea = none then adRebuilt else adAdopted)
      have hsec' := d.adoptImage_sec k h (if s.chip.handArea = none then adRebuilt else adAdopted)
      have hplaced' := d.adoptImage_placed k h (if s.chip.handArea = none then adRebuilt else adAdopted)
      obtain ⟨m, n, f, hfw⟩ := d.adoptImage_fw k h (if s.chip.handArea = none then adRebuilt else adAdopted)
      rw [Chip.settleAlerts_fwState, Chip.settleAlerts_fw, Chip.settleAlerts_field, Chip.settleAlerts_sec,
        Chip.settleAlerts_ev, Chip.settleAlerts_plane, hfw]
      refine ⟨hflash, hsec'.trans (by rw [hsec, hoBase, hoBytes]), rfl, rfl, rfl, rfl, congrArg (1 - ·) hregion, ?_, hshows.state,
        hshows.adopt.trans ?_, hplaced'.trans (congrArg (· + 1) hplaced), hplane⟩
      · refine Eq.trans (b := d.fw.telem) rfl (htelem.trans ?_)
        cases s.chip.handArea <;> rfl
      · split <;> rfl
    · have hnew := s.chip.newImage_rollsBack selfOk hu hl hs hfits
      have hplane := s.chip.newImage_plane selfOk
      rw [hnew] at hplane
      refine yields_after (hrun hnew) ?_
      obtain ⟨m, n, t, seq, shed, f, hfw⟩ := s.chip.rollback_fw k
      rw [Chip.settleAlerts_fwState, Chip.settleAlerts_fw, Chip.settleAlerts_field, Chip.settleAlerts_sec,
        Chip.settleAlerts_ev, Chip.settleAlerts_plane, hfw]
      refine ⟨rfl, s.chip.rollback_sec k, rfl, rfl, rfl, rfl, rfl, s.chip.rollback_state k, (s.chip.rollback_adopt k).trans ?_,
        s.chip.rollback_placed k, hplane⟩
      unfold Chip.ownArea
      cases harea : s.chip.handArea with
      | none => rfl
      | some a => cases hcrc : a.crcOk <;> simp [Option.filter, hcrc, adRolledBack, adRebuilt]
  · have hfits : Handover.Fits ⟨c.fw.telem, c.fw.telemSeq, c.fw.telemShed⟩ := by
      refine ⟨fun u hu => ?_, hseq, hshed⟩
      obtain hnone | ⟨hsome, hb⟩ := ht
      · exact absurd (hnone.symm.trans hu) (by simp)
      · exact Option.some.inj (hsome.symm.trans hu) ▸ hb
    have heq := c.writeHandover_eq hw hc
    refine ⟨?_, ?_, fun a ha => ?_⟩
    · rw [heq]
      exact c.handArea_put hw hc _ _ ((ihHoOut_lt _).trans (by decide)) hfits
    · rw [heq]
      rfl
    · rw [heq]
      refine (get_putBytes _ _ _ _).trans (if_neg ?_)
      have hlen := Handover.bytes_length ⟨c.fw.telem, c.fw.telemSeq, c.fw.telemShed⟩
      simp only [handBytes, List.length_append, bytesLE_length, hlen, hoBase]
      omega

end Sys2Proof.Machine
end

section
/-! The mailbox rings: the words of a reply, the answers without execution, and the front of a ring (R363 to R368). -/

namespace Sys2Proof.Machine

/-! Bytes and words -/

/-- A byte of a number that a run of bytes holds. -/
theorem natOfLE_byte (bs : List Byte) (k : Nat) : natOfLE bs / 256 ^ k % 256 = (bs.getD k 0).toNat := by
  induction bs generalizing k with
  | nil => simp [natOfLE]
  | cons b bs ih =>
    have hb := b.isLt
    have hcons : natOfLE (b :: bs) = natOfLE bs * 256 + b.toNat := rfl
    cases k with
    | zero => rw [hcons, List.getD_cons_zero]; omega
    | succ k =>
      rw [List.getD_cons_succ, ← ih k, hcons, pow_succ, Nat.mul_comm (256 ^ k), ← Nat.div_div_eq_div_mul]
      congr 2
      omega

theorem natOfLE_lt (bs : List Byte) : natOfLE bs < 256 ^ bs.length := by
  induction bs with
  | nil => simp [natOfLE]
  | cons b bs ih =>
    have hb := b.isLt
    have hcons : natOfLE (b :: bs) = natOfLE bs * 256 + b.toNat := rfl
    rw [hcons, List.length_cons, pow_succ]
    omega

/-- A byte of the word that holds up to four bytes. -/
theorem word_byte {bs : List Byte} (hl : bs.length ≤ 4) (k : Nat) :
    (BitVec.ofNat 32 (natOfLE bs)).extractLsb' (8 * k) 8 = bs.getD k 0 := by
  have hlt : natOfLE bs < 2 ^ 32 := (natOfLE_lt bs).trans_le (Nat.pow_le_pow_right (by decide) hl)
  refine BitVec.eq_of_toNat_eq ?_
  rw [← natOfLE_byte bs k, BitVec.extractLsb'_toNat, BitVec.toNat_ofNat, Nat.mod_eq_of_lt hlt, Nat.shiftRight_eq_div_pow,
    Nat.pow_mul]

/-- Two fields that lie side by side are one field. -/
theorem fld_split {n : Nat} (x : BitVec n) (lo w v : Nat) : fld x lo (w + v) = fld x lo w + fld x (lo + w) v * 2 ^ w := by
  rw [fld, fld, fld, Nat.shiftRight_add, Nat.shiftRight_eq_div_pow _ w, Nat.pow_add, Nat.mod_mul, Nat.mul_comm (2 ^ w)]

theorem fld_eq {n : Nat} (x : BitVec n) (lo w : Nat) : fld x lo w = x.toNat / 2 ^ lo % 2 ^ w := by
  rw [fld, Nat.shiftRight_eq_div_pow]

theorem drop_bytesLE_of_le (n v i : Nat) (h : i ≤ n) : (bytesLE n v).drop i = bytesLE (n - i) (v / 256 ^ i) := by
  induction i generalizing n v with
  | zero => rw [List.drop_zero, Nat.sub_zero, pow_zero, Nat.div_one]
  | succ i ih =>
    obtain ⟨n, rfl⟩ : ∃ m, n = m + 1 := ⟨n - 1, by omega⟩
    rw [bytesLE, List.drop_succ_cons, ih _ _ (by omega), Nat.div_div_eq_div_mul, pow_succ', Nat.add_sub_add_right]

theorem take_bytesLE_of_le (n v k : Nat) (h : k ≤ n) : (bytesLE n v).take k = bytesLE k v := by
  induction k generalizing n v with
  | zero => rfl
  | succ k ih =>
    obtain ⟨n, rfl⟩ : ∃ m, n = m + 1 := ⟨n - 1, by omega⟩
    rw [bytesLE, List.take_succ_cons, ih _ _ (by omega), bytesLE]

/-- A slice of the bytes of a number. -/
theorem slice_bytesLE (n v i k : Nat) (h : i + k ≤ n) : slice (bytesLE n v) i k = bytesLE k (v / 256 ^ i) := by
  rw [slice, drop_bytesLE_of_le _ _ _ (by omega), take_bytesLE_of_le _ _ _ (by omega)]

/-! The words of a reply (R364, R367) -/

section
variable (c : Chip) (q i : Nat) (bs : List Byte)

/-- A word of the entry that was written. -/
theorem Chip.putReply_word {w : Nat} (hw : w < ceilDiv bs.length 4) :
    (c.putReply q i bs).reg (pgMbx q) (0x6000 + 256 * (i % 64) + 4 * w) =
      BitVec.ofNat 32 (natOfLE (slice bs (4 * w) 4)) := by
  refine forAll_reaches (P := fun _ : Chip => True) (a := w)
    (Q := fun d : Chip => d.reg (pgMbx q) (0x6000 + 256 * (i % 64) + 4 * w) = BitVec.ofNat 32 (natOfLE (slice bs (4 * w) 4)))
    (fun d _ => d.reg_setReg ..) (fun _ _ _ _ => trivial) (fun x d hd => ?_) (List.mem_range.2 hw) trivial
  by_cases hx : x = w
  · rw [hx]
    exact d.reg_setReg ..
  · refine (d.reg_setReg_other _ ?_).trans hd
    unfold regKey
    omega

/-- The registers below the reply ring stay. -/
theorem Chip.putReply_reg_below {off : Nat} (ho : off < 0x6000) : (c.putReply q i bs).reg (pgMbx q) off = c.reg (pgMbx q) off := by
  refine keep_forAll (fun d => d.reg (pgMbx q) off) _ _ _ fun w d => d.reg_setReg_other _ ?_
  unfold regKey
  omega

variable (h : BitVec 128) (status : Nat) (trunc : Bool) (body : List Byte)

/-- The bytes of a reply. -/
def replyBytes : List Byte := bytesLE 16 (replyHdr h status body.length trunc).toNat ++ body

theorem replyBytes_length : (replyBytes h status trunc body).length = 16 + body.length := by
  rw [replyBytes, List.length_append, bytesLE_length]

theorem Chip.reply_reg {off : Nat} (ho : off < 0x10000) (hne : off ≠ rspPi) :
    (c.reply q h status trunc body).reg (pgMbx q) off =
      (c.putReply q (c.mbxIndex q rspPi) (replyBytes h status trunc body)).reg (pgMbx q) off := by
  rw [Chip.reply, ← replyBytes]
  split
  · rw [Chip.reg_congr _ (Chip.msix_regs _ _), Chip.reg_setReg_off _ (by decide) ho hne]
  · rw [Chip.reg_setReg_off _ (by decide) ho hne]

theorem Chip.reply_index : (c.reply q h status trunc body).mbxIndex q rspPi = (c.mbxIndex q rspPi + 1) % 65536 := by
  have hreg : (c.reply q h status trunc body).reg (pgMbx q) rspPi = BitVec.ofNat 32 ((c.mbxIndex q rspPi + 1) % 65536) := by
    rw [Chip.reply]
    split
    · rw [Chip.reg_congr _ (Chip.msix_regs _ _), Chip.reg_setReg]
    · rw [Chip.reg_setReg]
  rw [Chip.mbxIndex, Chip.field, hreg, fld_ofNat _ (by decide)]
  omega

/-- The header's words hold the reply's header. -/
theorem Chip.reply_hdrWord (hb : body.length ≤ 240) {w : Nat} (hw : w < 4) :
    (c.reply q h status trunc body).reg (pgMbx q) (0x6000 + 256 * (c.mbxIndex q rspPi % 64) + 4 * w) =
      BitVec.ofNat 32 ((replyHdr h status body.length trunc).toNat / 256 ^ (4 * w)) := by
  have hlen := replyBytes_length h status trunc body
  have hi : c.mbxIndex q rspPi % 64 < 64 := Nat.mod_lt _ (by decide)
  rw [Chip.reply_reg _ _ _ _ _ _ (by omega) (by rw [rspPi]; omega), Chip.putReply_word _ _ _ _
    (by rw [ceilDiv]; omega)]
  have hslice : slice (replyBytes h status trunc body) (4 * w) 4 =
      bytesLE 4 ((replyHdr h status body.length trunc).toNat / 256 ^ (4 * w)) := by
    have hpre := slice_append (pre := []) (bs := bytesLE 16 (replyHdr h status body.length trunc).toNat) (post := body)
      (i := 4 * w) (n := 4) (by rw [bytesLE_length]; omega)
    rw [List.nil_append, List.length_nil, Nat.zero_add] at hpre
    rw [replyBytes, hpre, slice_bytesLE _ _ _ _ (by omega)]
  rw [hslice, natOfLE_bytesLE]
  refine BitVec.eq_of_toNat_eq ?_
  rw [BitVec.toNat_ofNat, BitVec.toNat_ofNat]
  exact Nat.mod_mod _ _

/-- A word of a number of 128 bits, at its place. -/
theorem word_place (x : BitVec 128) {w : Nat} (hw : w < 4) :
    ((BitVec.ofNat 32 (x.toNat / 256 ^ (4 * w))).setWidth 128 * BitVec.ofNat 128 (2 ^ (32 * w))).toNat =
      x.toNat / 2 ^ (32 * w) % 2 ^ 32 * 2 ^ (32 * w) := by
  have hpow : (256 : Nat) ^ (4 * w) = 2 ^ (32 * w) := by
    rw [show (256 : Nat) = 2 ^ 8 from rfl, ← Nat.pow_mul]
    congr 1
    omega
  have hplace : (2 : Nat) ^ (32 * w) ≤ 2 ^ 96 := Nat.pow_le_pow_right (by decide) (by omega)
  have hlt : x.toNat / 2 ^ (32 * w) % 2 ^ 32 < 2 ^ 32 := Nat.mod_lt _ (by decide)
  have hprod := Nat.mul_lt_mul_of_lt_of_le hlt hplace (by decide)
  rw [BitVec.toNat_mul, BitVec.toNat_setWidth, BitVec.toNat_ofNat, BitVec.toNat_ofNat, hpow,
    Nat.mod_eq_of_lt (hlt.trans (by decide)), Nat.mod_eq_of_lt (hplace.trans_lt (by decide)),
    Nat.mod_eq_of_lt (hprod.trans_le (by decide))]

/-- A number of 128 bits is the sum of its words. -/
theorem words_sum (x : BitVec 128) :
    0 + (BitVec.ofNat 32 (x.toNat / 256 ^ (4 * 0))).setWidth 128 * BitVec.ofNat 128 (2 ^ (32 * 0)) +
      (BitVec.ofNat 32 (x.toNat / 256 ^ (4 * 1))).setWidth 128 * BitVec.ofNat 128 (2 ^ (32 * 1)) +
      (BitVec.ofNat 32 (x.toNat / 256 ^ (4 * 2))).setWidth 128 * BitVec.ofNat 128 (2 ^ (32 * 2)) +
      (BitVec.ofNat 32 (x.toNat / 256 ^ (4 * 3))).setWidth 128 * BitVec.ofNat 128 (2 ^ (32 * 3)) = x := by
  have hx := x.isLt
  refine BitVec.eq_of_toNat_eq ?_
  rw [BitVec.toNat_add, BitVec.toNat_add, BitVec.toNat_add, BitVec.toNat_add, word_place x (by decide : 0 < 4),
    word_place x (by decide : 1 < 4), word_place x (by decide : 2 < 4), word_place x (by decide : 3 < 4),
    show (0 : BitVec 128).toNat = 0 from rfl]
  generalize x.toNat = n at hx ⊢
  simp only [Nat.mod_add_mod]
  omega

/-- The four words of the header are the reply's header. -/
theorem Chip.reply_header (hb : body.length ≤ 240) :
    ((List.range 4).foldl (fun a w => a +
      ((c.reply q h status trunc body).reg (pgMbx q) (0x6000 + 256 * (c.mbxIndex q rspPi % 64) + 4 * w)).setWidth 128 *
        BitVec.ofNat 128 (2 ^ (32 * w))) (0 : BitVec 128)) = replyHdr h status body.length trunc := by
  have hw (w : Nat) (hlt : w < 4) := c.reply_hdrWord q h status trunc body hb hlt
  simp only [List.range_succ, List.range_zero, List.nil_append, List.foldl_append, List.foldl_cons, List.foldl_nil]
  rw [hw 0 (by decide), hw 1 (by decide), hw 2 (by decide), hw 3 (by decide)]
  exact words_sum _

/-- A byte of the reply's payload. -/
theorem Chip.reply_byte (hb : body.length ≤ 240) {j : Nat} (hj : j < body.length) :
    ((c.reply q h status trunc body).reg (pgMbx q) (0x6000 + 256 * (c.mbxIndex q rspPi % 64) + 4 * (4 + j / 4))).extractLsb'
      (8 * (j % 4)) 8 = body.getD j 0 := by
  have hlen := replyBytes_length h status trunc body
  have hi : c.mbxIndex q rspPi % 64 < 64 := Nat.mod_lt _ (by decide)
  rw [Chip.reply_reg _ _ _ _ _ _ (by omega) (by rw [rspPi]; omega), Chip.putReply_word _ _ _ _
    (by rw [ceilDiv]; omega)]
  have hslice : slice (replyBytes h status trunc body) (4 * (4 + j / 4)) 4 = (body.drop (4 * (j / 4))).take 4 := by
    rw [slice, replyBytes, Nat.mul_add, ← List.drop_drop, show 4 * 4 = 16 from rfl, drop_bytesLE]
  rw [hslice, word_byte (List.length_take_le _ _), List.getD_eq_getElem _ _ (by simp; omega),
    List.getD_eq_getElem _ _ hj]
  simp only [List.getElem_take, List.getElem_drop]
  congr 1
  omega
end

section
variable (h : BitVec 128) (status len : Nat) (trunc : Bool)

theorem replyHdr_toNat (hs : status < 16) (hl : len ≤ 240) : (replyHdr h status len trunc).toNat =
    hdMajor h + hdOpcode h * 2 ^ 16 + fld h 32 32 * 2 ^ 32 + len * 2 ^ 64 + fld h 80 9 * 2 ^ 80 + 2 ^ 89 +
      trunc.toNat * 2 ^ 90 + status * 2 ^ 96 := by
  have h0 : hdMajor h < 2 ^ 8 := fld_lt ..
  have h1 : hdOpcode h < 2 ^ 16 := fld_lt ..
  have h2 : fld h 32 32 < 2 ^ 32 := fld_lt ..
  have h3 : fld h 80 9 < 2 ^ 9 := fld_lt ..
  have h4 := Bool.toNat_lt trunc
  rw [replyHdr, BitVec.toNat_ofNat]
  omega

/-- The header of a reply carries what it shares with the request, and its own fields (R364). -/
theorem replyHdr_fields (hs : status < 16) (hl : len ≤ 240) :
    let r := replyHdr h status len trunc
    fld r 0 8 = fld h 0 8 ∧ fld r 8 8 = 0 ∧ fld r 16 48 = fld h 16 48 ∧ fld r 64 16 = len ∧ fld r 80 9 = fld h 80 9 ∧
      fld r 89 2 = 1 + 2 * trunc.toNat ∧ fld r 91 5 = 0 ∧ fld r 96 32 = status := by
  have h0 : hdMajor h < 2 ^ 8 := fld_lt ..
  have h1 : hdOpcode h < 2 ^ 16 := fld_lt ..
  have h2 : fld h 32 32 < 2 ^ 32 := fld_lt ..
  have h3 : fld h 80 9 < 2 ^ 9 := fld_lt ..
  have h4 := Bool.toNat_lt trunc
  have hsplit : fld h 16 48 = hdOpcode h + fld h 32 32 * 2 ^ 16 := fld_split h 16 16 32
  dsimp only
  rw [hsplit, show fld h 0 8 = hdMajor h from rfl]
  simp only [fld_eq (replyHdr h status len trunc), replyHdr_toNat h status len trunc hs hl]
  generalize hdMajor h = a at *
  generalize hdOpcode h = b at *
  generalize fld h 32 32 = d at *
  generalize fld h 80 9 = e at *
  generalize trunc.toNat = t at *
  refine ⟨?_, ?_, ?_, ?_, ?_, ?_, ?_, ?_⟩ <;> omega
end

/-! Answers without execution (R365, R366, R368, R373) -/

section
variable (c : Chip) (q j : Nat)

theorem Chip.inRecovery_iff : c.inRecovery = true ↔ c.field (pgMbx 0) 0x1000 0 3 = 1 := decide_eq_true_iff

theorem Chip.majMin_eq : c.majMin = if c.field (pgMbx 0) 0x1000 0 3 = 1 then 1 else (c.fw.image.getD 24 0).toNat :=
  if_congr c.inRecovery_iff rfl rfl

theorem Chip.majMax_eq : c.majMax = if c.field (pgMbx 0) 0x1000 0 3 = 1 then 1 else (c.fw.image.getD 25 0).toNat :=
  if_congr c.inRecovery_iff rfl rfl

theorem Chip.answerNow_recovery (h : c.fwState = 1 ∧ q ≠ 0) : c.answerNow q j = some (6, []) := by
  have hrec : c.inRecovery = true := decide_eq_true h.1
  rw [Chip.answerNow, hrec, decide_eq_true h.2]
  rfl

theorem Chip.highMinor_one (h : c.majMax = 1) : c.highMinor = 0 := if_pos h

section
variable (hr : ¬ (c.fwState = 1 ∧ q ≠ 0))
include hr

theorem Chip.answerNow_version (hv : hdMajor (c.reqHdr q j) < c.majMin ∨ c.majMax < hdMajor (c.reqHdr q j)) :
    c.answerNow q j = some (sVersion, [BitVec.ofNat 8 c.majMin, BitVec.ofNat 8 c.majMax, BitVec.ofNat 8 c.highMinor, 0]) := by
  have hrec : (c.inRecovery && decide (q ≠ 0)) = false := by
    rw [Bool.eq_false_iff, ne_eq, Bool.and_eq_true, decide_eq_true_eq, Chip.inRecovery, decide_eq_true_eq]
    exact hr
  rw [Chip.answerNow, hrec, if_neg Bool.false_ne_true, if_pos hv]

/-- A request of a version that is served. -/
theorem Chip.answerNow_served (hl : c.majMin ≤ hdMajor (c.reqHdr q j)) (hh : hdMajor (c.reqHdr q j) ≤ c.majMax) :
    c.answerNow q j = if c.fw.quiesced then some (sBusy, c.busyBody q 1)
      else if hdOpcode (c.reqHdr q j) ∈ (if c.inRecovery then romOpcodes else opcodes) then none else some (sOpcode, []) := by
  have hrec : (c.inRecovery && decide (q ≠ 0)) = false := by
    rw [Bool.eq_false_iff, ne_eq, Bool.and_eq_true, decide_eq_true_eq, Chip.inRecovery, decide_eq_true_eq]
    exact hr
  rw [Chip.answerNow, hrec, if_neg Bool.false_ne_true, if_neg (by omega)]
end
end

/-! The front of a ring -/

section
variable {c : Chip} {q : Nat}

theorem Chip.mbxIndex_lt (off : Nat) : c.mbxIndex q off < 65536 := fld_lt ..

/-- A request that leaves the ring moves REQ_CI by one. -/
theorem Chip.takeRequest_index : (c.takeRequest q).mbxIndex q reqCi = (c.mbxIndex q reqCi + 1) % 65536 := by
  have hreg : (c.takeRequest q).reg (pgMbx q) reqCi = BitVec.ofNat 32 ((c.mbxIndex q reqCi + 1) % 65536) :=
    c.reg_setReg ..
  rw [Chip.mbxIndex, Chip.field, hreg, fld_ofNat _ (by decide)]
  omega

/-- An answer takes one request from the ring. -/
theorem Chip.answerOldest_waiting (status : Nat) (body : List Byte) (hb : body.length ≤ 240) (hw : 0 < c.waiting q) :
    (c.takeFresh.2.answerOldest q status body).waiting q + 1 = c.waiting q := by
  have hpi : (c.takeFresh.2.answerOldest q status body).mbxIndex q reqPi = c.mbxIndex q reqPi :=
    congrArg (fun v => fld v 0 16) (((Chip.Answered.takeFresh (c := c)).trans (.answerOldest q status body hb)).reg _ _ _
      (by decide) (by decide) (by decide))
  have hci : (c.takeFresh.2.answerOldest q status body).mbxIndex q reqCi = (c.mbxIndex q reqCi + 1) % 65536 := by
    refine Chip.takeRequest_index.trans (congrArg (fun n => (n + 1) % 65536) (congrArg (fun v => fld v 0 16) ?_))
    exact (Chip.reply_reg _ _ _ _ _ _ (by decide) (by decide)).trans (Chip.putReply_reg_below _ _ _ _ (by decide))
  have hp := c.mbxIndex_lt (q := q) reqPi
  have hc := c.mbxIndex_lt (q := q) reqCi
  rw [Chip.waiting, ahead] at hw ⊢
  rw [Chip.waiting, hpi, hci, ahead]
  omega

/-- The answers without execution end at the front of a ring that holds no more requests than they may take. -/
theorem Chip.settleQueue_front (n : Nat) (h : c.waiting q ≤ n) :
    (Chip.settleQueue q n c).canReply q = false ∨ (Chip.settleQueue q n c).answerNow q = none := by
  induction n generalizing c with
  | zero =>
    refine .inl ?_
    have h0 : ¬ 0 < c.waiting q := by omega
    rw [Chip.settleQueue, Chip.canReply, decide_eq_false h0, Bool.and_false]
  | succ n ih =>
    unfold Chip.settleQueue
    split
    next hcan =>
      have hw : 0 < c.waiting q := by
        rw [Chip.canReply, Bool.and_eq_true, decide_eq_true_eq] at hcan
        exact hcan.2
      split
      next status body hnow =>
        have hone := Chip.answerOldest_waiting (c := c) (q := q) status body (Chip.Answered.answerNow_length hnow) hw
        exact ih (by omega)
      next hnow => exact .inr hnow
    next hcan => exact .inl (Bool.eq_false_iff.2 hcan)
end

/-! The commands -/

theorem Chip.smbStatusWord_setMbxFlag (c : Chip) (q : Queue) {off : Nat} (i : Nat) (b : Bool) (ho : off < 0x10000) :
    (c.setFlag (pgMbx q.val) off i b).smbStatusWord = c.smbStatusWord :=
  c.smbStatusWord_setReg _ 0 (by rw [pgMbx, pgSec]; omega) (by have := q.isLt; rw [pgMbx]; omega) ho

/-- How far an index is ahead of another that is within 16 bits. -/
theorem ahead_of_lt {a b : Nat} (hb : b < 65536) : ahead a b = (a + 2 ^ 16 - b) % 2 ^ 16 := by
  rw [ahead, Nat.mod_eq_of_lt hb]
  rfl

section
variable (c : Chip) (q : Nat) (v : W32)

theorem Chip.doorbell_beyond (h : 64 < (v.toNat % 2 ^ 16 + 2 ^ 16 - c.mbxIndex q reqCi) % 2 ^ 16) :
    c.doorbell q v = c.setFlag (pgMbx q) 0x101C 9 true := by
  refine if_pos ?_
  rw [ahead_of_lt (c.mbxIndex_lt _), fld_eq, pow_zero, Nat.div_one]
  exact h

/-- The doorbells of the requests that wait after a write of MBX_REQ_PI: the new ones have theirs now. -/
def Chip.bells (k : Nat) : List Nat :=
  let ds := (Tbl.get [] c.fw.doorbells q).take k
  ds ++ List.replicate (k - ds.length) c.time.now

/-- An accepted write of MBX_REQ_PI before the answers without execution. -/
def Chip.rung (n k : Nat) : Chip :=
  ({ c with fw := { c.fw with doorbells := Tbl.set [] c.fw.doorbells q (c.bells q k) } } : Chip).setReg (pgMbx q) reqPi
    (BitVec.ofNat 32 n)

theorem Chip.doorbell_eq : c.doorbell q v =
    if 64 < ahead (fld v 0 16) (c.mbxIndex q reqCi) then c.setFlag (pgMbx q) 0x101C 9 true
    else (c.rung q (fld v 0 16) (ahead (fld v 0 16) (c.mbxIndex q reqCi))).settle q := rfl

theorem Chip.doorbell_within (h : (v.toNat % 2 ^ 16 + 2 ^ 16 - c.mbxIndex q reqCi) % 2 ^ 16 ≤ 64) :
    c.doorbell q v =
      (c.rung q (v.toNat % 2 ^ 16) ((v.toNat % 2 ^ 16 + 2 ^ 16 - c.mbxIndex q reqCi) % 2 ^ 16)).settle q := by
  have hn : fld v 0 16 = v.toNat % 2 ^ 16 := by rw [fld_eq, pow_zero, Nat.div_one]
  have hk : ahead (fld v 0 16) (c.mbxIndex q reqCi) = (v.toNat % 2 ^ 16 + 2 ^ 16 - c.mbxIndex q reqCi) % 2 ^ 16 := by
    rw [hn, ahead_of_lt (c.mbxIndex_lt _)]
  rw [Chip.doorbell_eq, hk, hn, if_neg (Nat.not_lt.2 h)]

theorem Chip.rung_waiting {n k : Nat} (hn : n < 65536) (hk : (n + 2 ^ 16 - c.mbxIndex q reqCi) % 2 ^ 16 = k) :
    (c.rung q n k).waiting q = k := by
  have hpi : (c.rung q n k).mbxIndex q reqPi = n := by
    rw [Chip.mbxIndex, Chip.field, Chip.rung, Chip.reg_setReg, fld_ofNat _ (by decide)]
    omega
  have hci : (c.rung q n k).mbxIndex q reqCi = c.mbxIndex q reqCi :=
    congrArg (fun w => fld w 0 16) (Chip.reg_setReg_off _ (by decide) (by decide) (by decide))
  rw [Chip.waiting, hpi, hci, ahead_of_lt (c.mbxIndex_lt _), hk]

theorem Chip.rspCiWrite_beyond (h : (c.mbxIndex q rspPi + 2 ^ 16 - c.mbxIndex q rspCi) % 2 ^ 16 <
    (v.toNat % 2 ^ 16 + 2 ^ 16 - c.mbxIndex q rspCi) % 2 ^ 16) :
    c.rspCiWrite q v = c.setFlag (pgMbx q) 0x101C 9 true := by
  refine if_pos ?_
  rw [Chip.unread, ahead_of_lt (c.mbxIndex_lt _), ahead_of_lt (c.mbxIndex_lt _), fld_eq, pow_zero, Nat.div_one]
  exact h

theorem Chip.rspCiWrite_within (h : (v.toNat % 2 ^ 16 + 2 ^ 16 - c.mbxIndex q rspCi) % 2 ^ 16 ≤
    (c.mbxIndex q rspPi + 2 ^ 16 - c.mbxIndex q rspCi) % 2 ^ 16) :
    c.rspCiWrite q v = (c.setReg (pgMbx q) rspCi (BitVec.ofNat 32 (v.toNat % 2 ^ 16))).settle q := by
  have hn : fld v 0 16 = v.toNat % 2 ^ 16 := by rw [fld_eq, pow_zero, Nat.div_one]
  rw [← hn]
  refine if_neg (Nat.not_lt.2 ?_)
  rw [Chip.unread, ahead_of_lt (c.mbxIndex_lt _), ahead_of_lt (c.mbxIndex_lt _)]
  exact h
end

/-! The time without an answer (R366) -/

section
variable (c : Chip) (q : Nat)

/-- How long firmware may leave a request. -/
def Chip.busyWait : Nat := 256000000 * max 1 (c.field (pgMbx q) 0x101C 0 8)

theorem Chip.busyDue_eq : c.busyDue q = (!c.time.running || (match (Tbl.get [] c.fw.doorbells q).head? with
    | some t => decide (t + c.busyWait q ≤ c.time.now)
    | none => true)) := by
  have hwait : usUnits (1000 * max 1 (c.field (pgMbx q) 0x101C 0 8)) = c.busyWait q := by
    rw [usUnits, Chip.busyWait]
    omega
  rw [← hwait]
  rfl

theorem Chip.busyDue_early {t : Nat} (hr : c.time.running = true) (ht : (Tbl.get [] c.fw.doorbells q).head? = some t)
    (h : c.time.now < t + c.busyWait q) : c.busyDue q = false := by
  rw [Chip.busyDue_eq, hr, ht]
  exact decide_eq_false (Nat.not_le.2 h)

theorem Chip.busyDue_late (h : ∀ t, (Tbl.get [] c.fw.doorbells q).head? = some t → t + c.busyWait q ≤ c.time.now) :
    c.busyDue q = true := by
  rw [Chip.busyDue_eq]
  cases ht : (Tbl.get [] c.fw.doorbells q).head? with
  | none => exact Bool.or_true _
  | some t =>
    show (_ || decide (t + c.busyWait q ≤ c.time.now)) = true
    rw [decide_eq_true (h t ht), Bool.or_true]

section
variable (hs : c.fwState = stRunning) (hcan : c.canReply q = true) (hnow : c.answerNow q = none)
include hs hcan hnow

theorem Chip.busyTimeout_eq : c.busyTimeout q = if c.busyDue q then
    (c.answerOldest q sBusy (c.busyBody q (if c.faultWork then 2 else 0))).settle q else c := by
  unfold Chip.busyTimeout
  rw [decide_eq_true hs, hcan, hnow]
  rfl
end

/-- The payload of BUSY after a timeout names whether an event waits for firmware. -/
theorem Chip.busyBody_timeout (hs : c.fwState = stRunning) : c.busyBody q (if c.faultWork then 2 else 0) =
    bytesLE 2 (c.qdepth q) ++ [if c.ev.taken < c.ev.placed then 2 else 0, 0] := by
  have hwork : c.faultWork = decide (c.ev.taken < c.ev.placed) := by
    rw [Chip.faultWork, decide_eq_true hs, Bool.true_and]
  rw [Chip.busyBody]
  by_cases h : c.ev.taken < c.ev.placed
  · rw [hwork.trans (decide_eq_true h), if_pos h]
    rfl
  · rw [hwork.trans (decide_eq_false h), if_neg h]
    rfl
end

/-- Settles O12: index writes by how far they go, a reply by its words, and the front of a ring by the number of requests
that it holds. -/
theorem mailboxRingsTakeRequestsAndReplies : Obligations.MailboxRingsTakeRequestsAndReplies := by
  unfold Obligations.MailboxRingsTakeRequestsAndReplies
  refine ⟨fun s q v hserves => ?_, fun c q j => ?_, fun s q v hserves hgap => ?_⟩
  · have hbell {d : Chip} (h : s.chip.doorbell q.val v = d) : exec (.mbxDoorbell q v) s = .next (s.after d) :=
      exec_gated (·.serves (pgMbx q.val)) (·.doorbell q.val v) rfl hserves h
    have hread {d : Chip} (h : s.chip.rspCiWrite q.val v = d) : exec (.mbxRspCiWrite q v) s = .next (s.after d) :=
      exec_gated (·.serves (pgMbx q.val)) (·.rspCiWrite q.val v) rfl hserves h
    have herr := s.chip.smbStatusWord_setMbxFlag q (off := 0x101C) 9 true (by decide)
    have hput : s.after (s.chip.setFlag (pgMbx q.val) 0x101C 9 true) = s.put (s.chip.setFlag (pgMbx q.val) 0x101C 9 true) :=
      State.after_of_status herr
    refine ⟨fun h => hput ▸ hbell (s.chip.doorbell_beyond q.val v h), fun h => hbell (s.chip.doorbell_within q.val v h),
      fun h => hput ▸ hread (s.chip.rspCiWrite_beyond q.val v h), fun h => hread (s.chip.rspCiWrite_within q.val v h),
      fun hup hs hcan hnow => ?_, fun h status trunc body hb hst => ?_, s.chip.takeRequest_index⟩
    · have hbusy := s.chip.busyTimeout_eq q.val hs hcan hnow
      refine ⟨fun t hr ht hlt => ?_, fun hlate => ?_⟩
      · rw [s.chip.busyDue_early q.val hr ht hlt] at hbusy
        exact exec_gated_self (·.m0Up) (·.busyTimeout q.val) rfl hup hbusy
      · rw [s.chip.busyDue_late q.val hlate, s.chip.busyBody_timeout q.val hs] at hbusy
        exact exec_gated (·.m0Up) (·.busyTimeout q.val) rfl hup hbusy
    · have hwords := s.chip.reply_header q.val h status trunc body hb
      rw [show s.chip.mbxIndex q.val rspPi = s.chip.field (pgMbx q.val) 0x1014 0 16 from rfl] at hwords
      dsimp only
      rw [hwords]
      obtain ⟨h0, h8, h16, h64, h80, h89, h91, h96⟩ := replyHdr_fields h status body.length trunc hst hb
      exact ⟨s.chip.reply_index q.val h status trunc body, h0, h8, h16, h64, h80, h89, h91, h96,
        fun j hj => s.chip.reply_byte q.val h status trunc body hb hj, s.chip.reply_plane .., s.chip.reply_house ..⟩
  · refine ⟨c.answerNow_recovery q j, fun hr hv => ?_, fun hr hl hh => ?_⟩
    · rw [← c.majMin_eq, ← c.majMax_eq] at hv
      rw [← c.majMin_eq, ← c.majMax_eq]
      refine ⟨BitVec.ofNat 8 c.highMinor, fun hone => ?_, c.answerNow_version q j hr hv⟩
      rw [c.highMinor_one hone]
      rfl
    · rw [← c.majMin_eq] at hl
      rw [← c.majMax_eq] at hh
      have hserved := c.answerNow_served q j hr hl hh
      have hknown : (if c.inRecovery then romOpcodes else opcodes) =
          if c.field (pgMbx 0) 0x1000 0 3 = 1 then [0x01, 0x02, 0x10, 0x11, 0x12, 0x13, 0x15]
          else [0x01, 0x02, 0x10, 0x11, 0x12, 0x13, 0x14, 0x15, 0x16, 0x20, 0x30] := if_congr c.inRecovery_iff rfl rfl
      rw [hknown] at hserved
      refine ⟨fun hq => ?_, fun hq hop => ?_, fun hq hop => ?_⟩
      · rw [hserved, hq]
        rfl
      · rw [hserved, hq]
        exact if_neg hop
      · rw [hserved, hq]
        exact if_pos hop
  · have hle : (v.toNat % 2 ^ 16 + 2 ^ 16 - s.chip.mbxIndex q.val reqCi) % 2 ^ 16 ≤ 64 := by
      have hc : s.chip.mbxIndex q.val reqCi < 65536 := s.chip.mbxIndex_lt _
      have hg : (v.toNat + 2 ^ 16 - s.chip.mbxIndex q.val reqCi) % 2 ^ 16 ≤ 64 := hgap
      omega
    refine yields_after (exec_gated (·.serves (pgMbx q.val)) (·.doorbell q.val v) rfl hserves
      (s.chip.doorbell_within q.val v hle)) ?_
    exact Chip.settleQueue_front 64 ((s.chip.rung_waiting q.val (Nat.mod_lt _ (by decide)) rfl).trans_le hle)

end Sys2Proof.Machine
end

section
/-! The core opcodes of the mailbox (R364, R365, R367, R368): how a request is started and completed, and what each opcode
answers. -/

namespace Sys2Proof.Machine

/-! The start of a request -/

section
variable (c : Chip) (q : Nat)

theorem Chip.startOldest_rest : ∃ r d, c.startOldest q = { c with
    regs := r, fw := { c.fw with doorbells := d, started := c.fw.started ++ [⟨q, c.reqHdr q, c.reqPayload q⟩] } } :=
  ⟨_, _, rfl⟩

theorem Chip.startOldest_reg {page off inst : Nat} (ho : off < 0x10000) (h : off ≠ reqCi) :
    (c.startOldest q).reg page off inst = c.reg page off inst := Chip.reg_setReg_off _ (by decide) ho h

theorem Chip.startOldest_field {page off lo w inst : Nat} (ho : off < 0x10000) (h : off ≠ reqCi) :
    (c.startOldest q).field page off lo w inst = c.field page off lo w inst :=
  congrArg (fun v => fld v lo w) (c.startOldest_reg q ho h)

theorem Chip.startOldest_status (q : Queue) : (c.startOldest q.val).smbStatusWord = c.smbStatusWord := by
  have hset := c.smbStatusWord_setReg (page := pgMbx q.val) (off := reqCi)
    (BitVec.ofNat 32 ((c.mbxIndex q.val reqCi + 1) % 65536)) 0 (by rw [pgMbx, pgSec]; omega)
    (by have := q.isLt; rw [pgMbx]; omega) (by decide)
  exact hset

theorem Chip.startOldest_inRecovery : (c.startOldest q).inRecovery = c.inRecovery := by
  rw [Chip.inRecovery, Chip.fwState, c.startOldest_field q (by decide) (by decide), Chip.inRecovery, Chip.fwState]

/-- A request that starts counts in QDEPTH as before. -/
theorem Chip.startOldest_qdepth (hw : 0 < c.waiting q) (p : Nat) : (c.startOldest q).qdepth p = c.qdepth p := by
  have hpi : (c.startOldest q).mbxIndex p reqPi = c.mbxIndex p reqPi :=
    c.startOldest_field q (by decide) (by decide)
  by_cases hp : p = q
  · subst hp
    have hci : (c.startOldest p).mbxIndex p reqCi = (c.mbxIndex p reqCi + 1) % 65536 := Chip.takeRequest_index
    have hstarted : (c.startOldest p).startedOf p = c.startedOf p ++ [⟨p, c.reqHdr p, c.reqPayload p⟩] := by
      refine (List.filter_append ..).trans (congrArg (c.startedOf p ++ ·) ?_)
      simp
    have hp := c.mbxIndex_lt (q := p) reqPi
    have hc := c.mbxIndex_lt (q := p) reqCi
    rw [Chip.waiting, ahead] at hw
    rw [Chip.qdepth, hstarted, List.length_append, List.length_singleton, Chip.waiting, hpi, hci, ahead, Chip.qdepth,
      Chip.waiting, ahead]
    omega
  · have hci : (c.startOldest q).mbxIndex p reqCi = c.mbxIndex p reqCi :=
      congrArg (fun v => fld v 0 16) (c.reg_setReg_other _ (regKey_ne_of_page (by decide) (by decide)
        (by rw [pgMbx, pgMbx]; omega)))
    have hstarted : (c.startOldest q).startedOf p = c.startedOf p := by
      refine (List.filter_append ..).trans ?_
      rw [List.filter_cons_of_neg (by simpa using Ne.symm hp), List.filter_nil]
      exact List.append_nil _
    rw [Chip.qdepth, hstarted, Chip.waiting, hpi, hci, Chip.qdepth, Chip.waiting]
end

/-! How a request is served (R364) -/

section
variable (c : Chip) (q op len : Nat) (f : List Byte → Answer)

/-- The request that a command of an opcode completes. -/
def servedBy (x : Started) : Bool := decide (x.queue = q ∧ hdOpcode x.hdr = op)

/-- The oldest started request of an opcode is completed. -/
def Chip.serveStarted : Chip :=
  match c.fw.started.find? (servedBy q op) with
  | some x => if c.mayReply q then ((c.complete x len f).settle q).updateGo else c
  | none => c

theorem Chip.serve_eq : c.serve q op len f =
    (if c.mayReply q then c.startFor q op else c).serveStarted q op len f := rfl

theorem Chip.serveStarted_none (h : c.fw.started.any (servedBy q op) = false) : c.serveStarted q op len f = c := by
  rw [Chip.serveStarted, List.find?_eq_none.2 fun x hx => List.any_eq_false.1 h x hx]

/-- A request of the opcode that is started keeps others from being started. -/
theorem Chip.startFor_started (h : c.fw.started.any (servedBy q op) = true) : c.startFor q op = c := by
  have hany : (c.startedOf q).any (fun x => decide (hdOpcode x.hdr = op)) = true := by
    obtain ⟨x, hx, hs⟩ := List.any_eq_true.1 h
    obtain ⟨hq, ho⟩ := of_decide_eq_true hs
    exact List.any_eq_true.2 ⟨x, List.mem_filter.2 ⟨hx, decide_eq_true hq⟩, decide_eq_true ho⟩
  rw [Chip.startFor, hany]
  rfl

theorem Chip.serve_mute (h : c.mayReply q = false) : c.serve q op len f = c := by
  rw [Chip.serve_eq, h, if_neg Bool.false_ne_true, Chip.serveStarted, h]
  split <;> rfl

section
variable (hr : c.mayReply q = true)
include hr

theorem Chip.serve_started (h : c.fw.started.any (servedBy q op) = true) :
    c.serve q op len f = c.serveStarted q op len f := by
  rw [Chip.serve_eq, if_pos hr, c.startFor_started q op h]

theorem Chip.serve_idle (h : c.fw.started.any (servedBy q op) = false)
    (hno : c.faultWork = true ∨ c.hasRequest q op = false) : c.serve q op len f = c := by
  have hstay : c.startFor q op = c := by
    refine if_pos ?_
    obtain hf | hn := hno
    · rw [hf, Bool.or_true, Bool.true_or]
    · rw [hn, Bool.not_false, Bool.or_true]
  rw [Chip.serve_eq, if_pos hr, hstay, c.serveStarted_none q op len f h]

/-- A request at the front that can start is started, and then served. -/
theorem Chip.serve_front (h : c.fw.started.any (servedBy q op) = false) (hf : c.faultWork = false) (hw : 0 < c.waiting q)
    (hnow : c.answerNow q = none) (hop : hdOpcode (c.reqHdr q) = op) :
    c.serve q op len f = (c.startOldest q).serve q op len f := by
  have hnone : (c.startedOf q).any (fun x => decide (hdOpcode x.hdr = op)) = false := by
    refine List.any_eq_false.2 fun x hx => ?_
    obtain ⟨hmem, hq⟩ := List.mem_filter.1 hx
    intro ho
    exact List.any_eq_false.1 h x hmem (decide_eq_true ⟨of_decide_eq_true hq, of_decide_eq_true ho⟩)
  have hhas : c.hasRequest q op = true :=
    List.any_eq_true.2 ⟨0, List.mem_range.2 hw, by rw [hnow, decide_eq_true hop]; rfl⟩
  have hstart : c.startFor q op = c.startOldest q := by
    have hup : Chip.startUpTo q op 64 c = c.startOldest q := by
      rw [Chip.startUpTo, if_neg (Nat.ne_of_gt hw), hnow]
      exact if_pos hop
    rw [Chip.startFor, hnone, hf, hhas]
    exact hup
  have hin : (c.startOldest q).fw.started.any (servedBy q op) = true := by
    refine List.any_eq_true.2 ⟨⟨q, c.reqHdr q, c.reqPayload q⟩, List.mem_append_right _ List.mem_cons_self, ?_⟩
    exact decide_eq_true ⟨rfl, hop⟩
  rw [Chip.serve_eq, if_pos hr, hstart, Chip.serve_eq, (c.startOldest q).startFor_started q op hin, ite_self]
end

/-- How a started request completes (R365, R367). -/
theorem Chip.serveStarted_completes (hr : c.mayReply q = true) {x : Started}
    (hx : c.fw.started.find? (servedBy q op) = some x) :
    c.serveStarted q op len f = ((c.complete x len f).settle q).updateGo := by
  rw [Chip.serveStarted, hx]
  exact if_pos hr
end

/-! The form of every opcode -/

/-- What a command of an opcode does: `good` says what is answered to a request whose layout and reserved fields are good,
for a part `c` that the command finds. -/
def OpcodeForm (s : State) (q : Queue) (i : Instr) (op len : Nat)
    (good : List Byte → (Nat → List Byte → (Chip → Chip) → Prop) → Prop) : Prop :=
  let c := s.chip
  let is (x : Started) : Bool := decide (x.queue = q.val ∧ hdOpcode x.hdr = op)
  (c.mayReply q.val = false → exec i s = .next s) ∧
  (c.mayReply q.val = true → c.fw.started.any is = false →
    (c.faultWork = true ∨ c.hasRequest q.val op = false → exec i s = .next s) ∧
    (c.faultWork = false → 0 < c.waiting q.val → c.answerNow q.val = none → hdOpcode (c.reqHdr q.val) = op →
      exec i s = exec i { s with chip := { c.takeRequest q.val with fw := { (c.takeRequest q.val).fw with
        started := c.fw.started ++ [⟨q.val, c.reqHdr q.val, c.reqPayload q.val⟩] } } })) ∧
  (∀ x, c.mayReply q.val = true → c.fw.started.find? is = some x →
    let h := x.hdr
    let rest : Chip := { c with fw := { c.fw with started := dropFirst (fun y => decide (y = x)) c.fw.started } }
    let replies (status : Nat) (body : List Byte) (effect : Chip → Chip) : Prop :=
      exec i s = .next (s.after
        (((effect (rest.reply q.val h status (decide (0 < fld h 8 8)) body)).settle q.val).updateGo))
    (fld h 64 16 < len ∨ 240 < fld h 64 16 ∨ (fld h 8 8 = 0 ∧ fld h 64 16 ≠ len) → replies 4 [] id) ∧
    (len ≤ fld h 64 16 → fld h 64 16 ≤ 240 → (0 < fld h 8 8 ∨ fld h 64 16 = len) →
      (¬ (fld h 89 7 = 0 ∧ fld h 96 32 = 0) → replies 5 [] id) ∧
      (fld h 89 7 = 0 ∧ fld h 96 32 = 0 → good (x.payload.take len) replies)))

/-- The part after a request leaves those that are started. -/
def Chip.leaves (c : Chip) (x : Started) : Chip :=
  { c with fw := { c.fw with started := dropFirst (fun y => decide (y = x)) c.fw.started } }

section
variable (c : Chip) (x : Started) (len : Nat) (f : List Byte → Answer)

theorem Chip.complete_eq : c.complete x len f =
    if hdLength x.hdr < len ∨ 240 < hdLength x.hdr ∨ (!decide (0 < hdMinor x.hdr)) = true ∧ hdLength x.hdr ≠ len then
      (c.leaves x).reply x.queue x.hdr sLength (decide (0 < hdMinor x.hdr)) []
    else if !hdClean x.hdr then (c.leaves x).reply x.queue x.hdr sField (decide (0 < hdMinor x.hdr)) []
    else (f (x.payload.take len)).effect ((c.leaves x).reply x.queue x.hdr (f (x.payload.take len)).status
      (decide (0 < hdMinor x.hdr)) (f (x.payload.take len)).body) := rfl

theorem minor_zero_iff (h : BitVec 128) : (!decide (0 < hdMinor h)) = true ↔ fld h 8 8 = 0 := by
  rw [Bool.not_eq_true', decide_eq_false_iff_not, Nat.not_lt, Nat.le_zero, hdMinor]

theorem hdClean_iff (h : BitVec 128) : hdClean h = true ↔ fld h 89 7 = 0 ∧ fld h 96 32 = 0 := by
  rw [hdClean, Bool.and_eq_true, decide_eq_true_iff, decide_eq_true_iff]

theorem Chip.complete_length
    (h : fld x.hdr 64 16 < len ∨ 240 < fld x.hdr 64 16 ∨ (fld x.hdr 8 8 = 0 ∧ fld x.hdr 64 16 ≠ len)) :
    c.complete x len f = (c.leaves x).reply x.queue x.hdr 4 (decide (0 < fld x.hdr 8 8)) [] := by
  rw [Chip.complete_eq]
  refine if_pos ?_
  rw [minor_zero_iff]
  exact h

section
variable (hl : len ≤ fld x.hdr 64 16) (hu : fld x.hdr 64 16 ≤ 240) (hm : 0 < fld x.hdr 8 8 ∨ fld x.hdr 64 16 = len)
include hl hu hm

theorem Chip.complete_fits : c.complete x len f =
    if !hdClean x.hdr then (c.leaves x).reply x.queue x.hdr sField (decide (0 < hdMinor x.hdr)) []
    else (f (x.payload.take len)).effect ((c.leaves x).reply x.queue x.hdr (f (x.payload.take len)).status
      (decide (0 < hdMinor x.hdr)) (f (x.payload.take len)).body) := by
  rw [Chip.complete_eq]
  refine if_neg ?_
  rw [minor_zero_iff, hdLength]
  omega

end
end

/-- The alert causes follow the status of the part before the operation alone. -/
theorem Chip.settleAlerts_congr {a b : Chip} (h : a.smbStatusWord = b.smbStatusWord) (c : Chip) :
    Chip.settleAlerts a c = Chip.settleAlerts b c := by
  rw [Chip.settleAlerts, h, Chip.settleAlerts]

/-- The form of an opcode by its answer. -/
theorem opcodeForm_of {i : Instr} {q : Queue} {op len : Nat} {F : Chip → List Byte → Answer}
    (he : ∀ s, exec i s = s.run fun c => if c.m0Up then c.serve q.val op len (F c) else c)
    (hF : ∀ c : Chip, 0 < c.waiting q.val → F (c.startOldest q.val) = F c) {s : State} (hup : s.chip.m0Up = true)
    {good : List Byte → (Nat → List Byte → (Chip → Chip) → Prop) → Prop}
    (hgood : ∀ (b : List Byte) (R : Nat → List Byte → (Chip → Chip) → Prop),
      R (F s.chip b).status (F s.chip b).body (F s.chip b).effect → good b R) :
    OpcodeForm s q i op len good := by
  have hrun {d : Chip} (h : s.chip.serve q.val op len (F s.chip) = d) : exec i s = .next (s.after d) :=
    exec_gated (·.m0Up) (fun c => c.serve q.val op len (F c)) (he s) hup h
  have hself (h : s.chip.serve q.val op len (F s.chip) = s.chip) : exec i s = .next s :=
    exec_gated_self (·.m0Up) (fun c => c.serve q.val op len (F c)) (he s) hup h
  refine ⟨fun hr => hself (s.chip.serve_mute _ _ _ _ hr), fun hr hany => ⟨fun hno => hself (s.chip.serve_idle _ _ _ _ hr hany hno),
    fun hf hw hnow hop => ?_⟩, fun x hr hx => ?_⟩
  · have hfront := s.chip.serve_front q.val op len (F s.chip) hr hany hf hw hnow hop
    have hstart : (exec i { s with chip := s.chip.startOldest q.val }) = exec i s := by
      have hup' : (s.chip.startOldest q.val).m0Up = true := hup
      rw [he, he, State.run, State.run]
      dsimp only
      rw [if_pos hup, if_pos hup', hF _ hw, hfront, Chip.settleAlerts_congr (s.chip.startOldest_status q)]
    exact hstart.symm
  · have hserved : servedBy q.val op x = true := List.find?_some hx
    have hqueue : x.queue = q.val := (of_decide_eq_true hserved).1
    have hany : s.chip.fw.started.any (servedBy q.val op) = true :=
      List.any_eq_true.2 ⟨x, List.mem_of_find?_eq_some hx, hserved⟩
    have hserve := (s.chip.serve_started q.val op len (F s.chip) hr hany).trans
      (s.chip.serveStarted_completes q.val op len (F s.chip) hr hx)
    have hreply {status : Nat} {body : List Byte} {effect : Chip → Chip}
        (h : s.chip.complete x len (F s.chip) = effect ((s.chip.leaves x).reply x.queue x.hdr status
          (decide (0 < fld x.hdr 8 8)) body)) :
        exec i s = .next (s.after (((effect ((s.chip.leaves x).reply q.val x.hdr status
          (decide (0 < fld x.hdr 8 8)) body)).settle q.val).updateGo)) := by
      rw [h, hqueue] at hserve
      exact hrun hserve
    refine ⟨fun hlen => hreply (effect := id) (s.chip.complete_length x len _ hlen), fun hl hu hm => ⟨fun hc => ?_, fun hc => ?_⟩⟩
    · refine hreply (effect := id) ((s.chip.complete_fits x len _ hl hu hm).trans (if_pos ?_))
      rw [Bool.not_eq_true', Bool.eq_false_iff, ne_eq, hdClean_iff]
      exact hc
    · refine hgood _ _ (hreply ((s.chip.complete_fits x len _ hl hu hm).trans (if_neg ?_)))
      rw [(hdClean_iff x.hdr).2 hc]
      decide

/-! What each opcode answers (R368) -/

theorem natOfLE_take_one (b : List Byte) : natOfLE (b.take 1) = byteAt b 0 := by
  cases b with
  | nil => rfl
  | cons x b => simp [natOfLE, byteAt]

theorem natOfLE_slice_one (b : List Byte) (k : Nat) : natOfLE ((b.drop k).take 1) = byteAt b k := by
  rw [natOfLE_take_one, byteAt, byteAt, List.getD_eq_getElem?_getD, List.getD_eq_getElem?_getD, List.getElem?_drop,
    Nat.add_zero]

/-- What MBX_FW_STAT reads as. -/
theorem Chip.view_fwStat (c : Chip) : c.view (pgMbx 0) fwStat =
    if c.serves (pgMbx 0) then putFld (c.reg (pgMbx 0) fwStat) 10 6 c.fw.fuseSvn else 0 := by
  have hpage : pageOf (pgMbx 0) = some (.mbx, dieM) := by decide
  have hrow : ∃ r, findRow Blk.mbx.rows fwStat = some r ∧ r.sel = .one := ⟨_, rfl, rfl⟩
  obtain ⟨r, hfind, hsel⟩ := hrow
  have hblock : c.blockView .mbx (pgMbx 0) dieM fwStat = putFld (c.reg (pgMbx 0) fwStat) 10 6 c.fw.fuseSvn := by
    rw [Chip.blockView, hfind]
    dsimp only
    rw [hsel]
    rfl
  rw [Chip.view, hpage]
  dsimp only
  by_cases hs : c.serves (pgMbx 0) = true
  · rw [hs, ← hblock]
    rfl
  · rw [Bool.eq_false_iff.2 hs, show decide (dieM < 30) = false from rfl, Bool.and_false, Bool.false_and]
    rfl

section
variable {c : Chip} {q : Nat}

theorem Chip.startOldest_serves (page : Nat) : (c.startOldest q).serves page = c.serves page := by
  have hphase : (c.startOldest q).phase = c.phase := c.startOldest_field q (by decide) (by decide)
  rw [Chip.serves, Chip.mainOn, hphase, Chip.serves, Chip.mainOn]
  rfl

theorem Chip.startOldest_view : (c.startOldest q).view (pgMbx 0) fwStat = c.view (pgMbx 0) fwStat := by
  rw [Chip.view_fwStat, Chip.startOldest_serves, c.startOldest_reg q (by decide) (by decide), Chip.view_fwStat]
  rfl

theorem Chip.startOldest_getVersion : (c.startOldest q).getVersion = c.getVersion := by
  have hmax : (c.startOldest q).majMax = c.majMax := by
    rw [Chip.majMax, c.startOldest_inRecovery, Chip.majMax]
    rfl
  rw [Chip.getVersion, Chip.highMinor, hmax, Chip.majMin, c.startOldest_inRecovery, c.startOldest_field q (by decide) (by decide),
    c.startOldest_field q (by decide) (by decide), c.startOldest_field q (by decide) (by decide),
    c.startOldest_reg q (by decide) (by decide), Chip.getVersion, Chip.highMinor, Chip.majMin]
  rfl

theorem Chip.startOldest_getStatus (hw : 0 < c.waiting q) : (c.startOldest q).getStatus = c.getStatus := by
  have hdepth : (c.startOldest q).qdepth = c.qdepth := funext (c.startOldest_qdepth q hw)
  rw [Chip.getStatus, hdepth, Chip.startOldest_view, c.startOldest_reg q (by decide) (by decide), Chip.getStatus]
  rfl

theorem Chip.startOldest_imgVerify : (c.startOldest q).imgVerify = c.imgVerify := by
  have hfits : (c.startOldest q).hoFits = c.hoFits := by
    funext k
    rw [Chip.hoFits, c.startOldest_inRecovery, Chip.hoFits]
    rfl
  funext b
  rw [Chip.imgVerify, hfits, Chip.imgVerify]
  rfl
end

/-! The answers by their conditions -/

section
variable (c : Chip) (data b : List Byte)

theorem Chip.imgBegin_eq : c.imgBegin b =
    if 1 < byteAt b 0 then ans 5 else if c.fw.slot = some (byteAt b 0) then ans 6
    else ⟨0, [], fun d => d.flashErase (byteAt b 0 * 0x800000) 0x800000⟩ := rfl

theorem Chip.imgWrite_eq : c.imgWrite data b =
    if 1 < byteAt b 0 ∨ natOfLE (slice b 1 4) < 0x1000 ∨ 0x800000 < natOfLE (slice b 1 4) + natOfLE (slice b 5 4) ∨
      natOfLE (slice b 5 4) % 256 ≠ 0 ∨ 0x100000 < natOfLE (slice b 5 4) then ans 5
    else if c.fw.slot = some (byteAt b 0) ∨ c.slotState (byteAt b 0) ≠ .empty then ans 6
    else if data.length < natOfLE (slice b 5 4) then ans 8
    else ⟨0, [], fun d => d.flashProgram (byteAt b 0 * 0x800000 + natOfLE (slice b 1 4)) (data.take (natOfLE (slice b 5 4)))⟩ :=
  rfl

theorem Chip.imgVerify_eq : c.imgVerify b =
    if 1 < byteAt b 0 then ans 5 else if c.fw.slot = some (byteAt b 0) ∨ c.slotState (byteAt b 0) ≠ .empty then ans 6
    else if c.slotValid (byteAt b 0) && c.hoFits (byteAt b 0) then
      ⟨0, BitVec.ofNat 8 (ihSvn (c.slotHeader (byteAt b 0))) :: bytesLE 4 (ihBuildSeq (c.slotHeader (byteAt b 0))),
        fun d => d.writeSlotState (byteAt b 0) .ready⟩
    else ans 7 := rfl

theorem Chip.imgActivate_eq : c.imgActivate b =
    if 1 < byteAt b 0 then ans 5 else if c.slotState (byteAt b 0) ≠ .ready ∨ c.fw.update ≠ none then ans 6
    else ⟨0, [], fun d => if d.field (pgMbx 0) 0x1000 0 3 = 1 then d.bootTry none [byteAt b 0]
      else d.updateStart (byteAt b 0)⟩ :=
  if_congr Iff.rfl rfl (if_congr (or_congr Iff.rfl Option.isSome_iff_ne_none) rfl
    (congrArg (Answer.mk 0 []) (funext fun d => if_congr d.inRecovery_iff rfl rfl)))

theorem Chip.imgReject_eq : c.imgReject b =
    if 1 < byteAt b 0 then ans 5
    else if c.fw.slot = some (byteAt b 0) ∧ (c.fw.update ≠ none ∨
      (c.slotState (1 - byteAt b 0) ≠ .ready ∧ c.slotState (1 - byteAt b 0) ≠ .confirmed)) then ans 6
    else ⟨0, [], fun d => d.writeSlotState (byteAt b 0) .rejected⟩ :=
  if_congr Iff.rfl rfl (if_congr (and_congr Iff.rfl (or_congr Option.isSome_iff_ne_none Iff.rfl)) rfl rfl)

theorem Chip.imgRevoke_eq : c.imgRevoke b =
    if 3 < byteAt b 0 then ans 5 else if ihKeyIdx c.fw.image ≤ byteAt b 0 then ans 6
    else ⟨0, [], fun d => { d with fw := { d.fw with revoked := putBit d.fw.revoked (byteAt b 0) true } }⟩ := rfl

theorem Chip.logRead_eq : c.logRead b =
    let rs := ((c.logValidPages.flatMap c.logRecords).filter fun r =>
      decide (evSeqOf r = natOfLE (b.take 4)) || seqNewer (evSeqOf r) (natOfLE (b.take 4))).take (natOfLE (slice b 4 4))
    ⟨0, bytesLE 4 rs.length, fun d =>
      { d with out := { d.out with dma := some (natOfLE (slice b 8 8), rs.flatMap recordLE) } }⟩ := rfl

theorem telemCfg_eq : telemCfg b =
    if natOfLE (slice b 12 4) = 0 ∨ 1 < byteAt b 16 ∨ natOfLE (slice b 8 4) < 32 + 8 * counterRegs.length then ans 5
    else ⟨0, [], fun d => { d with fw := { d.fw with
      telem := if byteAt b 16 = 1 then
        some ⟨natOfLE (b.take 8), natOfLE (slice b 8 4), natOfLE (slice b 12 4), 0⟩ else none } }⟩ := rfl
end

section
variable {c : Chip}

theorem Chip.imgCommit_may (h : c.fw.update = none ∧ ∃ k, c.fw.slot = some k ∧ c.slotState k = .confirmed) :
    c.imgCommit = ⟨0, [BitVec.ofNat 8 (max c.fw.fuseSvn (ihSvn c.fw.image))],
      fun d => { d with fw := { d.fw with fuseSvn := max c.fw.fuseSvn (ihSvn c.fw.image) } }⟩ := by
  obtain ⟨hu, k, hk, hst⟩ := h
  simp only [Chip.imgCommit, hk]
  exact if_neg (by simp [hu, hst])

theorem Chip.imgCommit_state (h : ¬ (c.fw.update = none ∧ ∃ k, c.fw.slot = some k ∧ c.slotState k = .confirmed)) :
    c.imgCommit = ans 6 := by
  unfold Chip.imgCommit
  split
  next k hk =>
    refine if_pos ?_
    by_contra hno
    rw [not_or, not_not, Bool.not_eq_true, Option.isSome_eq_false_iff, Option.isNone_iff_eq_none] at hno
    exact h ⟨hno.1, k, hk, hno.2⟩
  next => rfl
end

/-- Bit `k` of the revoked keys is set. -/
theorem putBit_revoked : ∀ k < 4, ∀ x : BitVec 4, putBit x k true = x ||| BitVec.ofNat 4 (2 ^ k) := by decide

/-- The records from a SEQ on. -/
theorem newer_iff {r : BitVec 256} {first : Nat} (hf : first < 2 ^ 32) :
    (decide (evSeqOf r = first) || seqNewer (evSeqOf r) first) =
      decide ((evSeqOf r + 2 ^ 32 - first) % 2 ^ 32 < 2 ^ 31) := by
  have hr : evSeqOf r < 2 ^ 32 := fld_lt ..
  rw [Bool.eq_iff_iff, Bool.or_eq_true, decide_eq_true_iff, decide_eq_true_iff, seqNewer, decide_eq_true_iff]
  omega

theorem natOfLE_take_lt (bs : List Byte) (k : Nat) : natOfLE (bs.take k) < 256 ^ k :=
  (natOfLE_lt _).trans_le (Nat.pow_le_pow_right (by decide) (List.length_take_le _ _))

/-- Settles O13: every opcode has the one form, and its answer by the cases of its conditions. -/
theorem mailboxOpcodesAct : Obligations.MailboxOpcodesAct := by
  unfold Obligations.MailboxOpcodesAct
  intro s q hup c form slotOf le running
  have hform : ∀ i op len good, form i op len good = OpcodeForm s q i op len good := fun _ _ _ _ => rfl
  have hslot : ∀ b, slotOf b = byteAt b 0 := natOfLE_take_one
  have hle : ∀ b k n, le b k n = natOfLE (slice b k n) := fun _ _ _ => rfl
  simp only [hform, hslot, hle]
  refine ⟨?_, ?_, ?_, ?_, ?_, ?_, ?_, ?_, ?_, ?_, ?_⟩
  · refine opcodeForm_of (F := fun c _ => c.getVersion) (fun _ => rfl)
      (fun c _ => funext fun _ => c.startOldest_getVersion) hup fun b R hR => ?_
    refine ⟨u8 (if c.inRecovery then fld (Config.firmwareFigure c.fresh) 0 8 else ihKeyIdx c.fw.image), u8 c.highMinor,
      fun hst => ?_, fun hone => ?_, ?_⟩
    · rw [if_neg (mt c.inRecovery_iff.1 hst), u8, ihKeyIdx, BitVec.ofNat_toNat, BitVec.setWidth_eq]
    · rw [c.highMinor_one hone]
      rfl
    · exact hR
  · refine opcodeForm_of (F := fun c _ => c.getStatus) (fun _ => rfl)
      (fun c hw => funext fun _ => c.startOldest_getStatus hw) hup fun b R hR => ?_
    have hbody : c.getStatus.body = bytesLE 4 (c.view (pgMbx 0) 0x1000).toNat ++ bytesLE 4 (c.reg (pgMbx 0) 0x1020).toNat ++
        bytesLE 2 (c.qdepth 0) ++ bytesLE 2 (c.qdepth 1) ++ bytesLE 2 (c.qdepth 2) ++ bytesLE 2 (c.qdepth 3) ++
        bytesLE 4 (c.slotWord 0) ++ bytesLE 4 (c.slotWord 1) := by
      simp only [Chip.getStatus, List.flatMap_cons, List.flatMap_nil, List.append_assoc, List.append_nil]
      rfl
    rw [hbody] at hR
    exact hR
  · refine opcodeForm_of (F := Chip.imgBegin) (fun _ => rfl) (fun c _ => rfl) hup fun b R hR => ?_
    refine ⟨fun h => ?_, fun h hrun => ?_, fun h hrun => ?_⟩
    · rw [Chip.imgBegin_eq, if_pos h] at hR
      exact hR
    · rw [Chip.imgBegin_eq, if_neg (Nat.not_lt.2 h), if_pos hrun] at hR
      exact hR
    · rw [Chip.imgBegin_eq, if_neg (Nat.not_lt.2 h), if_neg hrun] at hR
      exact hR
  · intro data
    refine opcodeForm_of (F := fun c => c.imgWrite data) (fun _ => rfl) (fun c _ => rfl) hup fun b R hR => ?_
    refine ⟨fun hbad => ?_, fun hbad hst => ?_, fun hbad hrun hst => ⟨fun hlen => ?_, fun hlen => ?_⟩⟩
    · rw [Chip.imgWrite_eq, if_pos hbad] at hR
      exact hR
    · rw [Chip.imgWrite_eq, if_neg hbad, if_pos hst] at hR
      exact hR
    · rw [Chip.imgWrite_eq, if_neg hbad, if_neg (not_or.2 ⟨hrun, not_not.2 hst⟩), if_pos hlen] at hR
      exact hR
    · rw [Chip.imgWrite_eq, if_neg hbad, if_neg (not_or.2 ⟨hrun, not_not.2 hst⟩), if_neg (Nat.not_lt.2 hlen)] at hR
      exact hR
  · refine opcodeForm_of (F := Chip.imgVerify) (fun _ => rfl) (fun c _ => c.startOldest_imgVerify) hup fun b R hR => ?_
    refine ⟨fun h => ?_, fun h hst => ?_, fun h hrun hst => ⟨fun hfits => ?_, fun hfits => ?_⟩⟩
    · rw [Chip.imgVerify_eq, if_pos h] at hR
      exact hR
    · rw [Chip.imgVerify_eq, if_neg (Nat.not_lt.2 h), if_pos hst] at hR
      exact hR
    · rw [Chip.imgVerify_eq, if_neg (Nat.not_lt.2 h), if_neg (not_or.2 ⟨hrun, not_not.2 hst⟩),
        if_neg (Bool.eq_false_iff.1 hfits)] at hR
      exact hR
    · rw [Chip.imgVerify_eq, if_neg (Nat.not_lt.2 h), if_neg (not_or.2 ⟨hrun, not_not.2 hst⟩), if_pos hfits] at hR
      exact hR
  · refine opcodeForm_of (F := Chip.imgActivate) (fun _ => rfl) (fun c _ => rfl) hup fun b R hR => ?_
    refine ⟨fun h => ?_, fun h hst => ?_, fun h hst hu => ?_⟩
    · rw [Chip.imgActivate_eq, if_pos h] at hR
      exact hR
    · rw [Chip.imgActivate_eq, if_neg (Nat.not_lt.2 h), if_pos hst] at hR
      exact hR
    · rw [Chip.imgActivate_eq, if_neg (Nat.not_lt.2 h), if_neg (not_or.2 ⟨not_not.2 hst, not_not.2 hu⟩)] at hR
      exact hR
  · refine opcodeForm_of (F := fun c _ => c.imgCommit) (fun _ => rfl) (fun c _ => rfl) hup fun b R hR => ?_
    refine ⟨fun hmay => ?_, fun hmay => ?_⟩
    · rw [Chip.imgCommit_state hmay] at hR
      exact hR
    · rw [Chip.imgCommit_may hmay] at hR
      exact hR
  · refine opcodeForm_of (F := Chip.imgReject) (fun _ => rfl) (fun c _ => rfl) hup fun b R hR => ?_
    refine ⟨fun h => ?_, fun h hheld => ?_, fun h hheld => ?_⟩
    · rw [Chip.imgReject_eq, if_pos h] at hR
      exact hR
    · rw [Chip.imgReject_eq, if_neg (Nat.not_lt.2 h), if_pos hheld] at hR
      exact hR
    · rw [Chip.imgReject_eq, if_neg (Nat.not_lt.2 h), if_neg hheld] at hR
      exact hR
  · refine opcodeForm_of (F := Chip.imgRevoke) (fun _ => rfl) (fun c _ => rfl) hup fun b R hR => ?_
    refine ⟨fun h => ?_, fun h hkey => ?_, fun h hkey => ?_⟩
    · rw [Chip.imgRevoke_eq, if_pos h] at hR
      exact hR
    · rw [Chip.imgRevoke_eq, if_neg (Nat.not_lt.2 h), if_pos hkey] at hR
      exact hR
    · rw [Chip.imgRevoke_eq, if_neg (Nat.not_lt.2 h), if_neg (Nat.not_le.2 hkey)] at hR
      simp only [putBit_revoked _ (Nat.lt_succ_of_le h)] at hR
      exact hR
  · refine opcodeForm_of (F := Chip.logRead) (fun _ => rfl) (fun c _ => rfl) hup fun b R hR => ?_
    have hnewer : (fun r : BitVec 256 => decide (evSeqOf r = natOfLE (b.take 4)) || seqNewer (evSeqOf r) (natOfLE (b.take 4))) =
        fun r => decide ((evSeqOf r + 2 ^ 32 - natOfLE (b.take 4)) % 2 ^ 32 < 2 ^ 31) :=
      funext fun r => newer_iff (natOfLE_take_lt b 4)
    rw [Chip.logRead_eq, hnewer] at hR
    exact hR
  · refine opcodeForm_of (F := fun _ => telemCfg) (fun _ => rfl) (fun c _ => rfl) hup fun b R hR => ?_
    have hen : natOfLE (slice b 16 1) = byteAt b 16 := natOfLE_slice_one b 16
    rw [hen]
    refine ⟨fun hbad => ?_, fun hbad => ?_⟩
    · rw [telemCfg_eq, if_pos hbad] at hR
      exact hR
    · rw [telemCfg_eq, if_neg hbad] at hR
      exact hR

end Sys2Proof.Machine
end

section
/-! Register writes (R470 to R476, R482): the checks of an access, what a write stores, and the registers that act as a
command of their own. -/

namespace Sys2Proof.Machine

/-! Access types (R473) -/

/-- What a write stores: the RW bits take the value written, a W1C bit written 1 clears, and the others stay. -/
theorem RegRow.store_bit (r : RegRow) (old v : W32) {k : Nat} (hk : k < 32) : (r.store old v).getLsbD k =
    (v.getLsbD k && r.rw.testBit k || old.getLsbD k && r.w1c.testBit k && !v.getLsbD k ||
      old.getLsbD k && !r.rw.testBit k && !r.w1c.testBit k) := by
  simp only [RegRow.store, BitVec.getLsbD_or, BitVec.getLsbD_and, BitVec.getLsbD_not, BitVec.getLsbD_ofNat, hk,
    decide_true, Bool.true_and]
  cases v.getLsbD k <;> cases old.getLsbD k <;> cases r.rw.testBit k <;> cases r.w1c.testBit k <;> rfl

/-! The checks of an access (R472, R474) -/

theorem goodAccess_iff {o : Nat} {be : BitVec 4} : goodAccess o be = true ↔ be = 15 ∧ o % 4 = 0 := by
  rw [goodAccess, Bool.and_eq_true, decide_eq_true_iff, decide_eq_true_iff]

theorem rsvOffset_iff {off : Nat} : rsvOffset off = true ↔ off = 0x1C ∨ (0x38 ≤ off ∧ off < 0x100) := by
  rw [rsvOffset, Bool.or_eq_true, decide_eq_true_iff, Bool.and_eq_true, decide_eq_true_iff, decide_eq_true_iff]

section
variable (c : Chip) {page : Nat}

/-- A counted access leaves the status flags. -/
theorem Chip.accErr_status (hp : page < 0x400) : (c.accErr page).smbStatusWord = c.smbStatusWord := by
  have hoff : ∀ off ∈ [0x20, 0x14], off < 0x10000 ∧ (page, off) ∉ statusRegs := by
    intro off hm
    simp only [List.mem_cons, List.not_mem_nil, or_false] at hm
    obtain rfl | rfl := hm <;> simp [statusRegs]
  rw [Chip.accErr, Chip.smbStatusWord_setFlag_off hp (hoff 0x14 (by decide)).1 (hoff 0x14 (by decide)).2]
  exact Chip.smbStatusWord_setReg_off hp (hoff 0x20 (by decide)).1 (hoff 0x20 (by decide)).2 _

theorem Chip.serves_pageOf (h : c.serves page = true) : ∃ b die, pageOf page = some (b, die) := by
  unfold Chip.serves at h
  split at h
  · exact absurd h Bool.false_ne_true
  next b die hp => exact ⟨b, die, hp⟩

theorem Chip.serves_ne_msix (h : c.serves page = true) : page ≠ pgMsix := by
  rintro rfl
  obtain ⟨b, die, hp⟩ := c.serves_pageOf h
  rw [show pageOf pgMsix = none by decide] at hp
  cases hp
end

section
variable (c : Chip) {a : Nat} {be : BitVec 4} {v : W32}

theorem Chip.regWrite_unserved (hm : a / 65536 ≠ pgMsix) (h : c.serves (a / 65536) = false) : c.regWrite a be v = c := by
  simp only [Chip.regWrite, if_neg hm, h]
  split <;> rfl

section
variable {b : Blk} {die : Nat} (hpage : pageOf (a / 65536) = some (b, die)) (hs : c.serves (a / 65536) = true)
include hpage hs

/-- A write to a page that serves its registers. -/
theorem Chip.regWrite_served : c.regWrite a be v =
    if !goodAccess (a % 65536) be then c.accErr (a / 65536)
    else if rsvOffset (a % 65536) then c
    else match rowOf b (a % 65536) with
      | none => c.accErr (a / 65536)
      | some r => if r.rw = 0 ∧ r.w1c = 0 ∧ r.act = 0 then c.accErr (a / 65536)
        else c.rowWrite b (a / 65536) die (a % 65536) r v := by
  simp only [Chip.regWrite, if_neg (c.serves_ne_msix hs), hpage, hs]
  rfl

theorem Chip.regWrite_partial (hg : ¬ (be = 15 ∧ a % 65536 % 4 = 0)) : c.regWrite a be v = c.accErr (a / 65536) := by
  rw [c.regWrite_served hpage hs, if_pos]
  rw [Bool.not_eq_true', Bool.eq_false_iff, ne_eq, goodAccess_iff]
  exact hg

variable (hg : be = 15 ∧ a % 65536 % 4 = 0)
include hg

theorem Chip.regWrite_reserved (hr : a % 65536 = 0x1C ∨ (0x38 ≤ a % 65536 ∧ a % 65536 < 0x100)) :
    c.regWrite a be v = c := by
  rw [c.regWrite_served hpage hs, goodAccess_iff.2 hg, rsvOffset_iff.2 hr]
  rfl

theorem Chip.regWrite_good (hr : ¬ (a % 65536 = 0x1C ∨ (0x38 ≤ a % 65536 ∧ a % 65536 < 0x100))) : c.regWrite a be v =
    match rowOf b (a % 65536) with
      | none => c.accErr (a / 65536)
      | some r => if r.rw = 0 ∧ r.w1c = 0 ∧ r.act = 0 then c.accErr (a / 65536)
        else c.rowWrite b (a / 65536) die (a % 65536) r v := by
  rw [c.regWrite_served hpage hs, goodAccess_iff.2 hg, Bool.eq_false_iff.2 (mt rsvOffset_iff.1 hr)]
  rfl

theorem Chip.regWrite_row (hr : ¬ (a % 65536 = 0x1C ∨ (0x38 ≤ a % 65536 ∧ a % 65536 < 0x100))) {r : RegRow}
    (hrow : rowOf b (a % 65536) = some r) (hw : r.rw ≠ 0 ∨ r.w1c ≠ 0 ∨ r.act ≠ 0) :
    c.regWrite a be v = c.rowWrite b (a / 65536) die (a % 65536) r v := by
  rw [c.regWrite_good hpage hs hg hr, hrow]
  refine if_neg ?_
  rintro ⟨h1, h2, h3⟩
  simp [h1, h2, h3] at hw
end
end

/-! A write of a register -/

section
variable (c : Chip) {b : Blk} {page die off : Nat} {r : RegRow} {v : W32}

theorem Chip.rowWrite_unselected (h : c.selInst page die r.sel = none) : c.rowWrite b page die off r v = c := by
  rw [Chip.rowWrite, h]

section
variable {n : Nat} (h : c.selInst page die r.sel = some n)
include h

theorem Chip.rowWrite_stores (ha : off < 0x100 ∨ c.actingWrite b page die off n r v = none) :
    c.rowWrite b page die off r v = c.setReg page off (r.store (c.reg page off n) v) n := by
  have hnone : (if off < 0x100 then none else c.actingWrite b page die off n r v) = none := by
    obtain hlow | hno := ha
    · exact if_pos hlow
    · rw [hno, ite_self]
  rw [Chip.rowWrite, h]
  dsimp only
  rw [hnone]

theorem Chip.rowWrite_acts (hoff : 0x100 ≤ off) {k : Chip} (ha : c.actingWrite b page die off n r v = some k) :
    c.rowWrite b page die off r v = k := by
  have hsome : (if off < 0x100 then none else c.actingWrite b page die off n r v) = some k :=
    (if_neg (Nat.not_lt.2 hoff)).trans ha
  rw [Chip.rowWrite, h]
  dsimp only
  rw [hsome]
end
end

/-! The MSI-X table (R376, R471) -/

section
variable (c : Chip) (w : Nat) (v : W32)

/-- The word that a write of the table stores. -/
def msixWord (w : Nat) (v : W32) : W32 := if w % 4 = 3 then v &&& 1 else v

/-- The table after a write. -/
def Chip.msixStored : Chip :=
  { c with ev := { c.ev with msixMem := Tbl.set (msixReset w) c.ev.msixMem w (msixWord w v) } }

theorem Chip.msixWrite_plain (h : w % 4 ≠ 3 ∨ msixWord w v ≠ 0 ∨ c.ev.msixPend.getLsbD (w / 4) = false) :
    c.msixWrite w v = c.msixStored w v := by
  refine if_neg ?_
  rintro ⟨h3, h0, hp⟩
  obtain h | h | h := h
  · exact h h3
  · exact h h0
  · exact absurd (hp.symm.trans h) (by decide)

/-- A vector's pending bit written. -/
def Chip.withPend (i : Nat) (b : Bool) : Chip := { c with ev := { c.ev with msixPend := putBit c.ev.msixPend i b } }

/-- Unmasking a vector whose message is pending sends it. -/
theorem Chip.msixWrite_sends (h3 : w % 4 = 3) (h0 : msixWord w v = 0) (hp : c.ev.msixPend.getLsbD (w / 4) = true) :
    c.msixWrite w v = { c with ev := { c.ev with
      msixMem := Tbl.set (msixReset w) c.ev.msixMem w (msixWord w v)
      msixPend := putBit c.ev.msixPend (w / 4) false
      irqs := Tbl.set 0 c.ev.irqs (w / 4) (Tbl.get 0 c.ev.irqs (w / 4) + 1) } } := by
  have hreset : msixReset w = 1 := if_pos h3
  have hopen : ¬ ((c.msixStored w v).withPend (w / 4) false).msixMasked (w / 4) := by
    unfold Chip.msixMasked Chip.withPend Chip.msixStored
    rw [show w / 4 * 4 + 3 = w by omega, hreset, Tbl.get_set_same, h0]
    decide
  refine (if_pos ⟨h3, h0, hp⟩).trans ?_
  exact if_neg hopen

section
variable {w v}

/-- A write of word `w` of the table: the other words keep, and the message of a vector that it unmasks is sent. -/
theorem Chip.msixWrite_takes : Tbl.get (msixReset w) (c.msixWrite w v).ev.msixMem w = msixWord w v ∧
    (∀ j, j ≠ w → Tbl.get (msixReset j) (c.msixWrite w v).ev.msixMem j = Tbl.get (msixReset j) c.ev.msixMem j) ∧
    (w < 24 → w % 4 = 3 → msixWord w v = 0 → c.ev.msixPend.getLsbD (w / 4) = true →
      (c.msixWrite w v).ev.msixPend.getLsbD (w / 4) = false ∧
        Tbl.get 0 (c.msixWrite w v).ev.irqs (w / 4) = Tbl.get 0 c.ev.irqs (w / 4) + 1) ∧
    (w % 4 ≠ 3 ∨ msixWord w v ≠ 0 ∨ c.ev.msixPend.getLsbD (w / 4) = false →
      (c.msixWrite w v).ev.irqs = c.ev.irqs ∧ (c.msixWrite w v).ev.msixPend = c.ev.msixPend) ∧
    Chip.only [.ev] c (c.msixWrite w v) := by
  have hmem : (c.msixWrite w v).ev.msixMem = (c.msixStored w v).ev.msixMem ∧ Chip.only [.ev] c (c.msixWrite w v) := by
    by_cases h : w % 4 = 3 ∧ msixWord w v = 0 ∧ c.ev.msixPend.getLsbD (w / 4) = true
    · obtain ⟨h3, h0, hp⟩ := h
      rw [c.msixWrite_sends w v h3 h0 hp]
      exact ⟨rfl, by simp [Chip.only]⟩
    · rw [c.msixWrite_plain w v (by grind)]
      exact ⟨rfl, by simp [Chip.only, Chip.msixStored]⟩
  obtain ⟨hmem, honly⟩ := hmem
  refine ⟨?_, fun j hj => ?_, fun hw h3 h0 hp => ?_, fun h => ?_, honly⟩
  · rw [hmem]
    exact Tbl.get_set_same ..
  · rw [hmem]
    exact Tbl.get_set_other _ _ _ _ hj
  · rw [c.msixWrite_sends w v h3 h0 hp]
    exact ⟨putFld_bit_same _ _ _ (by omega), Tbl.get_set_same ..⟩
  · rw [c.msixWrite_plain w v h]
    exact ⟨rfl, rfl⟩
end
end

/-! The access commands -/

section
variable {s : State} {a : BitVec 26} {be : BitVec 4} {v : W32} {k : Chip}

theorem exec_registerWrite (h : s.chip.regWrite a.toNat be v = k) :
    exec (.registerWrite a be v) s = .next (s.after k) := by
  rw [exec, execRegisterWrite, State.run_eq_after, h]

theorem exec_registerWrite_self (h : s.chip.regWrite a.toNat be v = s.chip) :
    exec (.registerWrite a be v) s = .next s := by
  rw [exec, execRegisterWrite]
  exact State.run_eq_self h

theorem page_lt (a : BitVec 26) : a.toNat / 65536 < 0x400 := by
  have := a.isLt
  omega

theorem exec_registerWrite_counted (h : s.chip.regWrite a.toNat be v = s.chip.accErr (a.toNat / 65536)) :
    exec (.registerWrite a be v) s = .next (s.put (s.chip.accErr (a.toNat / 65536))) :=
  exec_eq_put (f := fun c => c.regWrite a.toNat be v) (by rw [exec, execRegisterWrite]) h
    (s.chip.accErr_status (page_lt a))

/-- A write of the MSI-X table: a good one while M0 works acts on its word, and any other is ignored. -/
theorem exec_registerWrite_msix (hp : a.toNat / 65536 = pgMsix) :
    (¬ (s.chip.m0Up = true ∧ (be = 15 ∧ a.toNat % 65536 % 4 = 0) ∧ a.toNat % 65536 < 0x60) →
      exec (.registerWrite a be v) s = .next s) ∧
    (s.chip.m0Up = true ∧ (be = 15 ∧ a.toNat % 65536 % 4 = 0) ∧ a.toNat % 65536 < 0x60 →
      exec (.registerWrite a be v) s = .next (s.after (s.chip.msixWrite (a.toNat % 65536 / 4) v))) := by
  have hiff : (s.chip.m0Up && goodAccess (a.toNat % 65536) be && decide (a.toNat % 65536 < 0x60)) = true ↔
      s.chip.m0Up = true ∧ (be = 15 ∧ a.toNat % 65536 % 4 = 0) ∧ a.toNat % 65536 < 0x60 := by
    rw [Bool.and_eq_true, Bool.and_eq_true, goodAccess_iff, decide_eq_true_iff, and_assoc]
  refine ⟨fun h => exec_registerWrite_self ?_, fun h => exec_registerWrite ?_⟩
  · exact (if_pos hp).trans (if_neg (mt hiff.1 h))
  · exact (if_pos hp).trans (if_pos (hiff.2 h))

/-! A read that is no full aligned dword (R472) -/

theorem Chip.badRead_good (c : Chip) (h : be = 15 ∧ a.toNat % 65536 % 4 = 0) : c.badRead a.toNat be = c :=
  if_pos (goodAccess_iff.2 h)

theorem Chip.badRead_bad (c : Chip) (h : ¬ (be = 15 ∧ a.toNat % 65536 % 4 = 0)) : c.badRead a.toNat be =
    if c.serves (a.toNat / 65536) = true then (c.accErr (a.toNat / 65536)).answer 0 else c.answer 0 := by
  refine (if_neg (mt goodAccess_iff.1 h)).trans (if_congr ?_ rfl rfl)
  rw [Bool.and_eq_true]
  refine and_iff_right_of_imp fun hs => ?_
  obtain ⟨b, die, hp⟩ := c.serves_pageOf hs
  rw [hp]
  rfl

theorem exec_readError_good (h : be = 15 ∧ a.toNat % 65536 % 4 = 0) :
    exec (.registerReadAccessError a be) s = .next s := by
  rw [exec, execRegisterReadAccessError]
  exact State.run_eq_self (s.chip.badRead_good h)

theorem exec_readError_served (h : ¬ (be = 15 ∧ a.toNat % 65536 % 4 = 0)) (hs : s.chip.serves (a.toNat / 65536) = true) :
    exec (.registerReadAccessError a be) s = .next (s.put ((s.chip.accErr (a.toNat / 65536)).answer 0)) :=
  exec_eq_put (f := fun c => c.badRead a.toNat be) (by rw [exec, execRegisterReadAccessError])
    ((s.chip.badRead_bad h).trans (if_pos hs))
    ((Chip.smbStatusWord_answer _ 0).trans (s.chip.accErr_status (page_lt a)))

theorem exec_readError_unserved (h : ¬ (be = 15 ∧ a.toNat % 65536 % 4 = 0))
    (hs : s.chip.serves (a.toNat / 65536) = false) :
    exec (.registerReadAccessError a be) s = .next (s.put (s.chip.answer 0)) :=
  exec_eq_put (f := fun c => c.badRead a.toNat be) (by rw [exec, execRegisterReadAccessError])
    ((s.chip.badRead_bad h).trans (if_neg (Bool.eq_false_iff.1 hs))) (Chip.smbStatusWord_answer _ 0)
end

/-! Registers that act as a command of their own -/

section
variable {s : State} {v : W32}

/-- A full write to register `off` of `page` does what command `i` does. -/
def WriteActs (s : State) (v : W32) (page off : Nat) (i : Instr) : Prop := s.chip.serves page = true →
  exec (.registerWrite (BitVec.ofNat 26 (page * 65536 + off)) 15 v) s = exec i s

/-- A write reaches the action of its register, once its page, its row and what its selector picks are known. -/
theorem writeActs_of {page off : Nat} {i : Instr} {g : Chip → Bool} {f : Chip → Chip}
    (he : exec i s = s.run fun c => if g c then f c else c) (hg : s.chip.serves page = true → g s.chip = true)
    (ho : 0x1000 ≤ off ∧ off < 65536 ∧ off % 4 = 0) {b : Blk} {die : Nat} (hpage : pageOf page = some (b, die))
    {r : RegRow} (hrow : rowOf b off = some r) (hw : r.rw ≠ 0 ∨ r.w1c ≠ 0 ∨ r.act ≠ 0)
    (hf : s.chip.rowWrite b page die off r v = f s.chip) : WriteActs s v page off i := by
  intro hs
  obtain ⟨hlow, hhigh, h4⟩ := ho
  have hlt : page < 0x400 := by
    have := pageOf_lt (p := page) (by rw [hpage]; rfl)
    omega
  have haddr : (BitVec.ofNat 26 (page * 65536 + off)).toNat = page * 65536 + off := by
    rw [BitVec.toNat_ofNat, Nat.mod_eq_of_lt (by omega)]
  have hdiv : (page * 65536 + off) / 65536 = page := by omega
  have hmod : (page * 65536 + off) % 65536 = off := by omega
  rw [exec_gated g f he (hg hs) rfl]
  refine exec_registerWrite ?_
  rw [haddr, s.chip.regWrite_row (a := page * 65536 + off) (hdiv.symm ▸ hpage) (hdiv.symm ▸ hs) ⟨rfl, hmod.symm ▸ h4⟩
    (by omega) (hmod.symm ▸ hrow) hw, hdiv, hmod, hf]

/-- The page of a die's pools. -/
theorem pageOf_pgPol (die : Die) : pgPol die.val = pgNone ∨ pageOf (pgPol die.val) = some (.pol, die.val) := by
  revert die
  decide

theorem pageOf_pgMem (die : Die) (h : die.val < 31) : pageOf (pgMem die.val) = some (.mem, die.val) := by
  revert die
  decide

theorem pageOf_pgCch (d : CDie) : pageOf (pgCch d.val) = some (.cch, dieC d.val) := by
  revert d
  decide

theorem pageOf_pgPolB (b : BDie) : pageOf (pgPolB b.val) = some (.pol, dieB b.val) := by
  revert b
  decide

section
variable (s v)

theorem writeActs_livCtrl : WriteActs s v pgLiv 0x1004 (.livCtrlWrite v) :=
  writeActs_of (g := fun c => c.serves pgLiv) (f := fun c => c.livWrite v) rfl id (by decide)
    (b := .liv) (die := dieX 0) (by decide) (r := rowRw 0x1004 0x3FF001F 0x400000 .liv) rfl (by decide)
    (s.chip.rowWrite_acts rfl (by decide) rfl)

theorem writeActs_ttbLivCtrl : WriteActs s v pgTtb 0x1204 (.ttbLivCtrlWrite v) :=
  writeActs_of (g := fun c => c.serves pgTtb) (f := fun c => c.ttCtrlWrite v) rfl id (by decide)
    (b := .ttb) (die := dieX 0) (by decide) (r := rowRw 0x1204 7 0 .ttbLiv) rfl (by decide)
    (s.chip.rowWrite_acts rfl (by decide) rfl)

theorem writeActs_ttbLivSwap : WriteActs s v pgTtb 0x121C (.ttbLivSwap v) :=
  writeActs_of (g := fun c => c.serves pgTtb) (f := fun c => c.swapRequest v) rfl id (by decide)
    (b := .ttb) (die := dieX 0) (by decide) (r := rowAct 0x121C all32 .ttbLiv) rfl (by decide)
    (s.chip.rowWrite_acts rfl (by decide) rfl)

theorem writeActs_cycle : WriteActs s v pgTtb 0x1220 (.liveryRecordWrite (.cycle false) v) :=
  writeActs_of (g := fun c => c.serves pgTtb) (f := fun c => c.recWrite (.cycle false) v) rfl id (by decide)
    (b := .ttb) (die := dieX 0) (by decide) (r := rowsRw 0x1220 0x1224 0xFFFFFF 0 .ttbLiv) rfl (by decide)
    (s.chip.rowWrite_acts rfl (by decide) rfl)

theorem writeActs_range : WriteActs s v pgTtb 0x122C (.liveryRecordWrite (.range true) v) :=
  writeActs_of (g := fun c => c.serves pgTtb) (f := fun c => c.recWrite (.range true) v) rfl id (by decide)
    (b := .ttb) (die := dieX 0) (by decide) (r := rowsRw 0x1228 0x122C all32 1 .ttbLiv) rfl (by decide)
    (s.chip.rowWrite_acts rfl (by decide) rfl)

theorem writeActs_gridMap : WriteActs s v pgRte 0x1304 (.gridMapWrite v) :=
  writeActs_of (g := fun c => c.serves pgRte) (f := fun c => c.gridWrite v) rfl id (by decide)
    (b := .rte) (die := dieX 0) (by decide) (r := rowRw 0x1304 0x800FFFFF 0 .rteGrid) rfl (by decide)
    (s.chip.rowWrite_acts rfl (by decide) rfl)

theorem writeActs_march (die : Die) (h : die.val < 31) :
    WriteActs s v (pgMem die.val) 0x1000 (.marchStart die v) :=
  writeActs_of (g := fun c => decide (die.val < 31 ∧ c.serves (pgMem die.val))) (f := fun c => c.marchWrite die.val v)
    (by simp only [decide_eq_true_eq]; rfl) (fun hs => decide_eq_true ⟨h, hs⟩) (by decide) (pageOf_pgMem die h)
    (r := ⟨0x1000, 0x1000, 0xFFF, 0, 0x80000000, 0, .one⟩) rfl (by decide) (s.chip.rowWrite_acts rfl (by decide) rfl)

theorem writeActs_slotSelect (d : CDie) : WriteActs s v (pgCch d.val) 0x1000 (.cchSlotSelect d v) :=
  writeActs_of (g := fun c => c.serves (pgCch d.val)) (f := fun c => c.slotSelect d.val v) rfl id (by decide)
    (pageOf_pgCch d) (r := rowRw 0x1000 0x3FF 0) rfl (by decide)
    (s.chip.rowWrite_acts rfl (by decide) (by
      rw [Chip.actingWrite, dieC, Nat.add_sub_cancel_left]
      rfl))

theorem writeActs_quarantine (b : BDie) : WriteActs s v (pgPolB b.val) 0x1028 (.quarantineRelease b v) :=
  writeActs_of (g := fun c => c.serves (pgPolB b.val)) (f := fun c => c.quarWrite b.val v) rfl id (by decide)
    (pageOf_pgPolB b) (r := ⟨0x1028, 0x1028, 0x3FFFF, 0, 0x80000000, 0, .one⟩) rfl (by decide)
    (s.chip.rowWrite_acts rfl (by decide) (by
      simp [Chip.actingWrite, Chip.polPageWrite, dieB]))
end

/-! The registers of a pool: with no pool of the die selected, nothing takes the write (R482) -/

section
variable (s v) (die : Die)

/-- A write of a register of a pool, for which no pool selected means no action. -/
theorem writeActs_pool {off : Nat} {i : Instr} {f : Chip → Chip}
    (he : exec i s = s.run fun c => if c.serves (pgPol die.val) then f c else c)
    (ho : 0x1000 ≤ off ∧ off < 65536 ∧ off % 4 = 0) {r : RegRow} (hrow : rowOf .pol off = some r)
    (hw : r.rw ≠ 0 ∨ r.w1c ≠ 0 ∨ r.act ≠ 0) {n : Nat}
    (hsel : s.chip.selInst (pgPol die.val) die.val r.sel =
      if poolOn die.val (s.chip.selPool die.val) then some n else none)
    (hact : s.chip.polPageWrite die.val off v = some (f s.chip))
    (hoff : poolOn die.val (s.chip.selPool die.val) = false → f s.chip = s.chip) :
    WriteActs s v (pgPol die.val) off i := by
  intro hs
  obtain hno | hpage := pageOf_pgPol die
  · rw [hno] at hs
    rw [Chip.serves, show pageOf pgNone = none by decide] at hs
    cases hs
  refine writeActs_of (g := fun c => c.serves (pgPol die.val)) (f := f) he id ho hpage hrow hw ?_ hs
  obtain hon | hon := Bool.eq_false_or_eq_true (poolOn die.val (s.chip.selPool die.val))
  · exact s.chip.rowWrite_acts (n := n) (by rw [hsel, hon]; rfl) (by omega) hact
  · rw [s.chip.rowWrite_unselected (by rw [hsel, hon]; rfl), hoff hon]

theorem writeActs_quota : WriteActs s v (pgPol die.val) 0x1018 (.polQuotaWrite die v) :=
  writeActs_pool s v die (f := fun c => c.quotaWrite die.val v) rfl (by decide)
    (r := rowRw 0x1018 0x7FFFF 0 .polLiv) rfl (by decide) rfl rfl s.chip.quotaWrite_off

theorem writeActs_threshold : WriteActs s v (pgPol die.val) 0x1010 (.polThrWrite die false v) :=
  writeActs_pool s v die (f := fun c => c.thrWrite die.val false v) rfl (by decide)
    (r := rowsRw 0x1010 0x1014 all32 0 .polPool) rfl (by decide) rfl rfl s.chip.thrWrite_off
end
end

/-- Settles O56: the access checks of a page one after another (`regWrite_*`), the two cases of a write of a register
(`rowWrite_*`), the MSI-X table, and the registers whose write is a command of its own (`writeActs_*`). -/
theorem registerAccessesFollowTheRules : Obligations.RegisterAccessesFollowTheRules := by
  unfold Obligations.RegisterAccessesFollowTheRules
  refine ⟨fun r old v k hk => r.store_bit old v hk, fun s a be v => ?_, fun s v => ?_⟩
  · dsimp only
    refine ⟨fun hp hs => exec_registerWrite_self (s.chip.regWrite_unserved hp hs), fun b die hpage hs => ?_,
      fun hp => ?_, exec_readError_good, exec_readError_served, exec_readError_unserved⟩
    · refine ⟨fun hg => exec_registerWrite_counted (s.chip.regWrite_partial hpage hs hg),
        fun hg hr => exec_registerWrite_self (s.chip.regWrite_reserved hpage hs hg hr), fun hg h1 h2 => ?_⟩
      have hr : ¬ (a.toNat % 65536 = 0x1C ∨ (0x38 ≤ a.toNat % 65536 ∧ a.toNat % 65536 < 0x100)) := by
        rintro (h | h)
        · exact h1 h
        · exact h2 h
      have hgood := s.chip.regWrite_good (v := v) hpage hs hg hr
      refine ⟨fun hrow => exec_registerWrite_counted (by rw [hgood, hrow]), fun r hrow => ⟨fun hrw hw1c hact => ?_, fun hw => ?_⟩⟩
      · refine exec_registerWrite_counted ?_
        rw [hgood, hrow]
        exact if_pos ⟨hrw, hw1c, hact⟩
      · have hwrite := s.chip.regWrite_row (v := v) hpage hs hg hr hrow hw
        refine ⟨fun hsel => exec_registerWrite_self (hwrite.trans (s.chip.rowWrite_unselected hsel)), fun n hsel =>
          ⟨fun h => exec_registerWrite (hwrite.trans (s.chip.rowWrite_stores hsel h)), fun k hoff hk =>
            exec_registerWrite (hwrite.trans (s.chip.rowWrite_acts hsel hoff hk))⟩⟩
    · obtain ⟨hno, htakes⟩ := exec_registerWrite_msix (s := s) (be := be) (v := v) hp
      refine ⟨hno, fun h => yields_after (htakes h) ?_⟩
      obtain ⟨hword, hothers, hsent, hkept, honly⟩ := s.chip.msixWrite_takes (w := a.toNat % 65536 / 4) (v := v)
      obtain ⟨-, -, hlt⟩ := h
      rw [Chip.settleAlerts_ev]
      exact ⟨hword, hothers, hsent (by omega), hkept, Chip.only_settleAlerts honly⟩
  · exact ⟨writeActs_livCtrl s v, writeActs_ttbLivCtrl s v, writeActs_ttbLivSwap s v, writeActs_cycle s v,
      writeActs_range s v, writeActs_gridMap s v,
      fun die => ⟨writeActs_quota s v die, writeActs_threshold s v die, writeActs_march s v die⟩,
      writeActs_slotSelect s v, writeActs_quarantine s v⟩

end Sys2Proof.Machine
end


section
/-! Digest records (R418 to R421): their batches, their comparison, and the steps of trailer mode. -/

namespace Sys2Proof.Machine

section
variable (c : Chip)

/-- The part with its waiting records as given. -/
def Chip.withDigests (rs : List DigRec) : Chip := { c with flt := { c.flt with digs := rs } }

/-- The part with its trailer steps as given. -/
def Chip.withTrail (tr : Tbl TrailStep) : Chip := { c with flt := { c.flt with trail := tr } }

theorem pairMode_eq_iff {n : Nat} (hn : n ≠ 0) (hn' : n < 3) : pairMode c = n ↔ c.field pgFlt 0x1100 0 2 = n := by
  have hlt : c.field pgFlt 0x1100 0 2 < 4 := Nat.mod_lt _ (by decide)
  unfold pairMode
  omega

theorem pairMode_ne_zero (h0 : c.field pgFlt 0x1100 0 2 ≠ 0) (h3 : c.field pgFlt 0x1100 0 2 ≠ 3) : pairMode c ≠ 0 := by
  have hlt : c.field pgFlt 0x1100 0 2 < 4 := Nat.mod_lt _ (by decide)
  unfold pairMode
  omega

theorem Chip.soilStep_trail (w : BitVec 256) : ∃ tr, c.soilStep w = c.withTrail tr := by
  unfold Chip.soilStep
  split
  · exact ⟨_, rfl⟩
  · exact ⟨c.flt.trail, rfl⟩
end

/-! Two records of one key and STEP are compared (R420) -/

section
variable (c : Chip) {a b : BitVec 256}

/-- Two records that agree are counted as a match. -/
theorem Chip.digCompare_agrees (h : dgResult a = dgResult b) :
    ∃ tr, c.digCompare a b = (c.bump pgFlt 0x1214).withTrail tr := by
  rw [Chip.digCompare, if_pos h]
  dsimp only
  split
  · exact ⟨_, rfl⟩
  · exact ⟨c.flt.trail, rfl⟩

/-- The part once a mismatch is counted and its event raised. -/
def Chip.mismatched (c : Chip) (a : BitVec 256) : Chip :=
  (((c.bump pgFlt 0x1218).setFlag pgFlt 0x110C 0 true).raise (pgFltEv 0x0A01 a c.pairDie)).soilStep a

/-- FLT_PAIR_MIS_INFO of a mismatch (R420). -/
def mismatchInfo (a b : BitVec 256) : W32 :=
  BitVec.ofNat 32 (1 + (if fld a 167 1 = fld b 167 1 then 0 else 2) + dgLiv a * 2 ^ 2 + dgEntry a * 2 ^ 10)

theorem mismatchInfo_fields : (mismatchInfo a b).getLsbD 0 = true ∧ fld (mismatchInfo a b) 2 8 = dgLiv a ∧
    fld (mismatchInfo a b) 10 16 = dgEntry a := by
  have hl : dgLiv a < 256 := Nat.mod_lt _ (by decide)
  have he : dgEntry a < 65536 := Nat.mod_lt _ (by decide)
  refine ⟨?_, ?_, ?_⟩
  · rw [mismatchInfo, BitVec.getLsbD_ofNat, Nat.testBit_zero]
    split <;> simp <;> omega
  · rw [mismatchInfo, fld_ofNat _ (by decide)]
    split <;> omega
  · rw [mismatchInfo, fld_ofNat _ (by decide)]
    split <;> omega

/-- The part with a mismatch captured. -/
def Chip.captured (c : Chip) (info : W32) (step : W32) (chunk : Nat) : Chip :=
  ((c.setReg pgFlt 0x1110 info).setReg pgFlt 0x1114 step).setReg pgFlt 0x1118 (BitVec.ofNat 32 chunk)

section
variable (info step : W32) (chunk : Nat)

theorem Chip.captured_regs : (c.captured info step chunk).reg pgFlt 0x1110 = info ∧
    (c.captured info step chunk).reg pgFlt 0x1114 = step ∧
    (c.captured info step chunk).reg pgFlt 0x1118 = BitVec.ofNat 32 chunk := by
  refine ⟨?_, ?_, Chip.reg_setReg ..⟩
  · rw [Chip.captured, Chip.reg_setReg_off _ (by decide) (by decide) (by decide),
      Chip.reg_setReg_off _ (by decide) (by decide) (by decide), Chip.reg_setReg]
  · rw [Chip.captured, Chip.reg_setReg_off _ (by decide) (by decide) (by decide), Chip.reg_setReg]

theorem Chip.captured_reg_other {off : Nat} (ho : off < 0x10000) (h : off ∉ [0x1110, 0x1114, 0x1118]) :
    (c.captured info step chunk).reg pgFlt off = c.reg pgFlt off := by
  simp only [List.mem_cons, List.not_mem_nil, or_false, not_or] at h
  obtain ⟨h1, h2, h3⟩ := h
  rw [Chip.captured, Chip.reg_setReg_off _ (by decide) ho h3, Chip.reg_setReg_off _ (by decide) ho h2,
    Chip.reg_setReg_off _ (by decide) ho h1]
end

/-- Two records that differ are counted, and captured while no mismatch is. -/
theorem Chip.digCompare_differs (h : dgResult a ≠ dgResult b) : c.digCompare a b =
    if (c.mismatched a).flag pgFlt 0x1110 0 = true then c.mismatched a
    else (c.mismatched a).captured (mismatchInfo a b) (dgStep a) (dgChunk a) := by
  rw [Chip.digCompare, if_neg h]
  rfl

/-- What the count and the event of a mismatch leave alone. -/
theorem Chip.mismatched_keeps (a : BitVec 256) : (c.mismatched a).flt.digs = c.flt.digs ∧
    (c.mismatched a).reg pgFlt 0x1218 = c.reg pgFlt 0x1218 + 1 ∧
    Chip.raised c (c.mismatched a) (pgFltEv 0x0A01 a c.pairDie) ∧
    ∀ off, off ∈ [0x1110, 0x1114, 0x1118, 0x1214] → (c.mismatched a).reg pgFlt off = c.reg pgFlt off := by
  unfold Chip.mismatched
  generalize pgFltEv 0x0A01 a c.pairDie = e
  obtain ⟨tr, htr⟩ := (((c.bump pgFlt 0x1218).setFlag pgFlt 0x110C 0 true).raise e).soilStep_trail a
  have hreg : ∀ off, off < 0x10000 → off ∉ evOffs → off ≠ 0x110C →
      (((c.bump pgFlt 0x1218).setFlag pgFlt 0x110C 0 true).raise e).reg pgFlt off = (c.bump pgFlt 0x1218).reg pgFlt off :=
    fun off ho hev hne => by
      rw [Chip.raise_reg_off _ _ ho hev, Chip.reg_setFlag_other _ _ _ (regKey_ne_of_off ho (by decide) hne)]
  obtain ⟨r, x, y, hrest⟩ := ((c.bump pgFlt 0x1218).setFlag pgFlt 0x110C 0 true).raise_rest e
  rw [htr]
  refine ⟨?_, ?_, Chip.raised_congr (((c.bump pgFlt 0x1218).setFlag pgFlt 0x110C 0 true).raise_raised e) rfl, fun off hm => ?_⟩
  · rw [hrest]
    rfl
  · exact (hreg 0x1218 (by decide) (by decide) (by decide)).trans (c.reg_bump ..)
  · have hoff : off < 0x10000 ∧ off ∉ evOffs ∧ off ≠ 0x110C ∧ off ≠ 0x1218 := by revert off; decide
    obtain ⟨ho, hev, hne, hne'⟩ := hoff
    exact (hreg off ho hev hne).trans (Chip.reg_bump_other _ (regKey_ne_of_off ho (by decide) hne'))
end

/-! A record reaches the pair port's die (R420) -/

section
variable (c : Chip) (w : BitVec 256) (own : Bool)

/-- The record of the other side with the key and STEP of the one that comes. -/
def DigRec.meets (r : DigRec) (w : BitVec 256) (own : Bool) : Prop := r.own ≠ own ∧ fld r.word 168 80 = fld w 168 80

/-- OUTCOME, RSTAT and DIGEST agree. -/
def DigRec.agrees (r : DigRec) (w : BitVec 256) : Prop := fld r.word 161 7 = fld w 161 7 ∧ fld r.word 0 64 = fld w 0 64

def DigRec.sameKey (w : BitVec 256) (own : Bool) (r : DigRec) : Bool :=
  decide (r.own ≠ own) && decide (dgKey r.word = dgKey w)

theorem DigRec.sameKey_iff {r : DigRec} : r.sameKey w own = true ↔ r.meets w own := by
  rw [DigRec.sameKey, Bool.and_eq_true, decide_eq_true_iff, decide_eq_true_iff]
  rfl

theorem Chip.digAdd_eq : c.digAdd w own = match c.flt.digs.find? (DigRec.sameKey w own) with
    | some r => (c.withDigests (dropFirst (DigRec.sameKey w own) c.flt.digs)).digCompare
        (if own then w else r.word) (if own then r.word else w)
    | none => if 16384 ≤ c.flt.digs.length then (c.bump pgFlt 0x1220).soilStep w
      else c.withDigests (c.flt.digs ++ [⟨w, own, c.time.now⟩]) := rfl

section
variable {c w own} (h : ∀ r ∈ c.flt.digs, ¬ r.meets w own)
include h

theorem find?_unmet : c.flt.digs.find? (DigRec.sameKey w own) = none :=
  List.find?_eq_none.2 fun r hr => mt (DigRec.sameKey_iff w own).1 (h r hr)

/-- A record without a match waits. -/
theorem Chip.digAdd_waits (hroom : c.flt.digs.length < 16384) :
    c.digAdd w own = c.withDigests (c.flt.digs ++ [⟨w, own, c.time.now⟩]) := by
  rw [c.digAdd_eq w own, find?_unmet h]
  exact if_neg (Nat.not_le.2 hroom)

/-- With no room it is counted as lost. -/
theorem Chip.digAdd_lost (hfull : 16384 ≤ c.flt.digs.length) :
    (c.digAdd w own).flt.digs = c.flt.digs ∧ (c.digAdd w own).reg pgFlt 0x1220 = c.reg pgFlt 0x1220 + 1 := by
  have hlost : c.digAdd w own = (c.bump pgFlt 0x1220).soilStep w := by
    rw [c.digAdd_eq w own, find?_unmet h]
    exact if_pos hfull
  obtain ⟨tr, htr⟩ := (c.bump pgFlt 0x1220).soilStep_trail w
  rw [hlost, htr]
  exact ⟨rfl, c.reg_bump ..⟩
end

section
variable {c w own} {pre post : List DigRec} {r : DigRec} (hd : c.flt.digs = pre ++ r :: post) (hr : r.meets w own)
  (hp : ∀ x ∈ pre, ¬ x.meets w own)
include hd hr hp

/-- A record that meets its match is compared with it, and both are gone. -/
theorem Chip.digAdd_compares : c.digAdd w own =
    (c.withDigests (pre ++ post)).digCompare (if own then w else r.word) (if own then r.word else w) := by
  have hsame : r.sameKey w own = true := (DigRec.sameKey_iff w own).2 hr
  have hpre : ∀ x ∈ pre, x.sameKey w own = false := fun x hx =>
    Bool.eq_false_iff.2 (mt (DigRec.sameKey_iff w own).1 (hp x hx))
  have hfind : c.flt.digs.find? (DigRec.sameKey w own) = some r := by
    rw [hd, List.find?_append, List.find?_eq_none.2 fun x hx => Bool.eq_false_iff.1 (hpre x hx), Option.none_or,
      List.find?_cons_of_pos hsame]
  have hdrop : dropFirst (DigRec.sameKey w own) c.flt.digs = pre ++ post := by
    rw [hd]
    exact dropFirst_append hpre hsame
  rw [c.digAdd_eq w own, hfind, hdrop]

omit hd hp hr in
theorem dgResult_eq_iff : dgResult (if own then w else r.word) = dgResult (if own then r.word else w) ↔ r.agrees w := by
  unfold dgResult DigRec.agrees
  rw [Prod.mk.injEq]
  cases own
  · rfl
  · exact ⟨fun ⟨h1, h2⟩ => ⟨h1.symm, h2.symm⟩, fun ⟨h1, h2⟩ => ⟨h1.symm, h2.symm⟩⟩

theorem Chip.digAdd_agrees (ha : r.agrees w) : (c.digAdd w own).flt.digs = pre ++ post ∧
    (c.digAdd w own).reg pgFlt 0x1214 = c.reg pgFlt 0x1214 + 1 ∧ (c.digAdd w own).ev = c.ev ∧
    c.regsBut (c.digAdd w own) [regKey pgFlt 0x1214 0] := by
  obtain ⟨tr, htr⟩ := (c.withDigests (pre ++ post)).digCompare_agrees ((dgResult_eq_iff (own := own)).2 ha)
  rw [Chip.digAdd_compares hd hr hp, htr]
  refine ⟨rfl, (c.withDigests (pre ++ post)).reg_bump .., rfl, fun page off inst hk => ?_⟩
  exact (c.withDigests (pre ++ post)).reg_bump_other (mt List.mem_singleton.2 hk)

omit hd hp in
/-- The two records of a key and STEP name one livery, entry, step and chunk. -/
theorem DigRec.meets_names {x : BitVec 256} (hx : x = w ∨ x = r.word) : dgLiv x = dgLiv w ∧ dgEntry x = dgEntry w ∧
    dgStep x = dgStep w ∧ dgChunk x = dgChunk w := by
  have hkey : ∀ lo n : Nat, 168 ≤ lo → lo + n ≤ 248 → ∀ y : BitVec 256, fld y lo n = fld y 168 80 / 2 ^ (lo - 168) % 2 ^ n :=
    fun lo n h1 h2 y => by
      refine Nat.eq_of_testBit_eq fun j => ?_
      rw [fld_testBit, Nat.testBit_mod_two_pow, Nat.testBit_div_two_pow, fld_testBit]
      by_cases hj : j < n
      · simp [hj, show j + (lo - 168) < 80 by omega, show 168 + (j + (lo - 168)) = lo + j by omega]
      · simp [hj]
  have hxw : fld x 168 80 = fld w 168 80 := by
    obtain rfl | rfl := hx
    · rfl
    · exact hr.2
  have hsame : ∀ lo n : Nat, 168 ≤ lo → lo + n ≤ 248 → fld x lo n = fld w lo n := fun lo n h1 h2 => by
    rw [hkey lo n h1 h2, hxw, ← hkey lo n h1 h2]
  exact ⟨hsame 240 8 (by decide) (by decide), hsame 224 16 (by decide) (by decide),
    congrArg (BitVec.ofNat 32) (hsame 192 32 (by decide) (by decide)), hsame 168 24 (by decide) (by decide)⟩

theorem Chip.digAdd_differs (ha : ¬ r.agrees w) : (c.digAdd w own).flt.digs = pre ++ post ∧
    (c.digAdd w own).reg pgFlt 0x1218 = c.reg pgFlt 0x1218 + 1 ∧ (c.digAdd w own).reg pgFlt 0x1214 = c.reg pgFlt 0x1214 ∧
    Chip.raised c (c.digAdd w own) (pgFltEv 0x0A01 (if own then w else r.word) c.pairDie) ∧
    (c.digAdd w own).flag pgFlt 0x1110 0 = true ∧
    (c.flag pgFlt 0x1110 0 = true → ∀ off ∈ [0x1110, 0x1114, 0x1118], (c.digAdd w own).reg pgFlt off = c.reg pgFlt off) ∧
    (c.flag pgFlt 0x1110 0 = false → (c.digAdd w own).field pgFlt 0x1110 2 8 = dgLiv w ∧
      (c.digAdd w own).field pgFlt 0x1110 10 16 = dgEntry w ∧ (c.digAdd w own).reg pgFlt 0x1114 = dgStep w ∧
      ((c.digAdd w own).reg pgFlt 0x1118).toNat = dgChunk w) := by
  have hdiff := (c.withDigests (pre ++ post)).digCompare_differs (mt (dgResult_eq_iff (own := own)).1 ha)
  rw [← Chip.digAdd_compares hd hr hp] at hdiff
  have hmine : (if own then w else r.word) = w ∨ (if own then w else r.word) = r.word := by
    cases own
    · exact .inr rfl
    · exact .inl rfl
  generalize (if own then w else r.word) = a at hdiff hmine
  generalize (if own then r.word else w) = b at hdiff
  obtain ⟨hliv, hentry, hstep, hchunk⟩ := DigRec.meets_names hr hmine
  obtain ⟨hdigs, hcount, hraised, hkeeps⟩ := (c.withDigests (pre ++ post)).mismatched_keeps a
  have hraised : Chip.raised c ((c.withDigests (pre ++ post)).mismatched a) (pgFltEv 0x0A01 a c.pairDie) := hraised
  generalize (c.withDigests (pre ++ post)).mismatched a = m at *
  have hflag : m.flag pgFlt 0x1110 0 = c.flag pgFlt 0x1110 0 :=
    congrArg (fun x : W32 => x.getLsbD 0) (hkeeps 0x1110 (by decide))
  rw [hflag] at hdiff
  by_cases hv : c.flag pgFlt 0x1110 0 = true
  · rw [hdiff, if_pos hv]
    refine ⟨hdigs, hcount, hkeeps 0x1214 (by decide), hraised, hflag.trans hv, fun _ off hm => ?_, fun h => ?_⟩
    · exact hkeeps off (by revert off; decide)
    · exact absurd (hv.symm.trans h) (by decide)
  · rw [hdiff, if_neg hv]
    have hother : ∀ off ∈ [0x1214, 0x1218], (m.captured (mismatchInfo a b) (dgStep a) (dgChunk a)).reg pgFlt off =
        m.reg pgFlt off := fun off hm =>
      m.captured_reg_other _ _ _ (by revert off; decide) (by revert off; decide)
    obtain ⟨hinfo, hst, hck⟩ := m.captured_regs (mismatchInfo a b) (dgStep a) (dgChunk a)
    obtain ⟨hvalid, hl, he⟩ := mismatchInfo_fields (a := a) (b := b)
    refine ⟨hdigs, (hother _ (by decide)).trans hcount, (hother _ (by decide)).trans (hkeeps 0x1214 (by decide)), hraised,
      ?_, fun h => absurd h hv, fun _ => ⟨?_, ?_, hst.trans hstep, ?_⟩⟩
    · rw [Chip.flag, hinfo]
      exact hvalid
    · rw [Chip.field, hinfo, hl, hliv]
    · rw [Chip.field, hinfo, he, hentry]
    · rw [hck, BitVec.toNat_ofNat, hchunk]
      exact Nat.mod_eq_of_lt (Nat.lt_trans (Nat.mod_lt _ (by decide)) (by decide))
end
end

end Sys2Proof.Machine
end

section
namespace Sys2Proof.Machine

/-! Batches to the partner (R419) -/

section
variable (c : Chip) {l q : Nat}

/-- The part without the records of a livery that leave next. -/
def Chip.digestTaken (c : Chip) (l : Nat) : Chip :=
  { c with flt := { c.flt with digBatch := Tbl.set [] c.flt.digBatch l ((Tbl.get [] c.flt.digBatch l).drop 32) } }

/-- The body of the frame in which they leave. -/
def Chip.digestBody (c : Chip) (l : Nat) : List Byte :=
  recordBytes (((Tbl.get [] c.flt.digBatch l).take 32).map (·.word))

theorem Chip.digestBody_length : (c.digestBody l).length = 32 * min 32 (Tbl.get [] c.flt.digBatch l).length := by
  rw [Chip.digestBody, recordBytes_length, List.length_map, List.length_take]

theorem Chip.digestSend_unpaired (h : c.pairPort = none) : c.digestSend l = c := by
  rw [Chip.digestSend, h]

section
variable (hq : c.pairPort = some q)
include hq

theorem Chip.digestSend_waits (h : ¬ batchDue c.time.now (Tbl.get [] c.flt.digBatch l) = true) : c.digestSend l = c := by
  rw [Chip.digestSend, hq]
  exact if_pos (by simpa using h)

theorem Chip.digestSend_due (h : batchDue c.time.now (Tbl.get [] c.flt.digBatch l) = true)
    (hl : c.livPort l q = true) : c.digestSend l =
      if !c.portUp q then (c.digestTaken l).bump pgRte 0x1804
      else (c.digestTaken l).deliver q (Msg.made (mkHdr clsControl 7 l false 0 c.selfEid ((c.digestBody l).length + 36) 0 0)
        (c.digestBody l) c.time.now none) := by
  have hl' : (!(c.digestTaken l).livPort l q) = false := by rw [show (c.digestTaken l).livPort l q = c.livPort l q from rfl, hl]; rfl
  rw [Chip.digestSend, hq]
  exact (if_neg (by simp [h])).trans (if_neg (Bool.eq_false_iff.1 hl'))
end
end

section
variable {s : State} {l : Liv}

theorem exec_digestBatchSend (hup : s.chip.mainUp = true) :
    exec (.digestBatchSend l) s = s.run fun _ => s.chip.digestSend l.toNat := by
  rw [exec, execDigestBatchSend, State.run_eq_after, State.run_eq_after, if_pos hup]

theorem exec_digestBatchSend_unpaired (h : s.chip.pairPort = none) : exec (.digestBatchSend l) s = .next s := by
  rw [exec, execDigestBatchSend]
  refine State.run_eq_self ?_
  split
  · exact s.chip.digestSend_unpaired h
  · rfl
end

/-! Records of the partner (R419, R420) -/

/-- Reception keeps the registers of the fault page. -/
theorem Chip.heard_reg_flt {c : Chip} {p : Nat} {f : Frame} (hp : p < 1024) {off : Nat} (ho : off < 0x10000) :
    (c.heard p f).reg pgFlt off = c.reg pgFlt off := by
  have hl : pgLnk (portDie p) < 0x400 ∧ pgFlt ≠ pgLnk (portDie p) := by
    have := portDie_lt hp
    unfold pgLnk pgFlt
    omega
  have hm : pgMem (dieP (portDie p)) < 0x400 ∧ pgFlt ≠ pgMem (dieP (portDie p)) := by
    have := portDie_lt hp
    unfold pgMem dieP pgMemP pgFlt
    rw [if_pos this]
    omega
  have hb : ∀ (d : Chip) {q o : Nat} (n : Nat), q < 0x400 ∧ pgFlt ≠ q → o < 0x10000 →
      (d.bumpN q o n).reg pgFlt off = d.reg pgFlt off := fun d q o n h1 h2 =>
    d.reg_setReg_page _ h2 ho h1.1 (by decide) h1.2
  unfold Chip.heard
  refine (hb _ _ hm (by decide)).trans ?_
  split
  · rfl
  · unfold Chip.countTail
    have h1 := hb (c.received p (workLivery f.hdr) (f.body.length + 36)) f.fecUncorr hl (o := 0x110C) (by decide)
    split
    · exact h1
    · exact (hb _ _ hl (by decide)).trans h1
    · split
      · exact h1
      · exact (hb _ _ hl (by decide)).trans h1

theorem exec_digestRecordsRx {s : State} {p : LPort} {f : Frame} {age : Nat} (hh : s.chip.hears p f)
    (hc : hClass f.hdr = 3) (h7 : hSub f.hdr = 7) (hp : s.chip.passes p f) (hq : s.chip.pairPort = some p.val)
    (hm : pairMode s.chip ≠ 0) : exec (.digestRecordsRx p f age) s = .next (s.after (forAll (recordsOf 32 f.body)
      ((s.chip.heard p f).mirrorIn false none (Msg.arrived p f.hdr f.body (s.chip.time.now - age)))
      fun w c => c.digAdd w false)) := by
  have hport : (s.chip.heard p f).pairPort = some p.val := by
    rw [← hq]
    unfold Chip.pairPort Chip.flag Chip.field
    rw [Chip.heard_reg_flt p.isLt (by decide)]
  have hmode : pairMode (s.chip.heard p f) ≠ 0 := by
    unfold pairMode Chip.field
    rw [Chip.heard_reg_flt p.isLt (by decide)]
    exact hm
  rw [Receives.exec_passes (kind := fun h => decide (hClass h = clsControl ∧ hSub h = 7))
    (k := fun t c => if t = .good ∧ c.pairPort = some p.val ∧ pairMode c ≠ 0 then
        forAll (recordsOf 32 f.body) (c.mirrorIn false none (Msg.arrived p f.hdr f.body (c.stampOf age)))
          (fun w c => c.digAdd w false) else c)
    ⟨by simp [hc, h7, clsControl], fun _ => rfl⟩ hh hp, State.run_eq_after, if_pos ⟨rfl, hport, hmode⟩, Chip.stampOf,
    Chip.heard_time]

/-! Records left unmatched (R420) -/

section
variable (c : Chip)

/-- A record left unmatched is counted, and its event raised. -/
def Chip.digestMissed (r : DigRec) (c : Chip) : Chip :=
  ((c.bump pgFlt 0x121C).raise (pgFltEv 0x0A02 r.word c.pairDie)).soilStep r.word

theorem Chip.digestMissed_keeps (r : DigRec) : (c.digestMissed r).flt.digs = c.flt.digs ∧
    (c.digestMissed r).reg pgFlt 0x121C = c.reg pgFlt 0x121C + 1 ∧
    (c.digestMissed r).ev.placed = c.ev.placed + 1 ∧ Chip.only [.regs, .ev, .snap, .flt] c (c.digestMissed r) := by
  unfold Chip.digestMissed
  generalize pgFltEv 0x0A02 r.word c.pairDie = e
  obtain ⟨tr, htr⟩ := ((c.bump pgFlt 0x121C).raise e).soilStep_trail r.word
  obtain ⟨g, x, y, hrest⟩ := (c.bump pgFlt 0x121C).raise_rest e
  have hreg : ((c.bump pgFlt 0x121C).raise e).reg pgFlt 0x121C = c.reg pgFlt 0x121C + 1 := by
    rw [Chip.raise_reg_off _ _ (by decide) (by decide), Chip.reg_bump]
  rw [htr]
  refine ⟨by rw [hrest]; rfl, hreg, (c.bump pgFlt 0x121C).raise_placed e, ?_⟩
  rw [hrest]
  simp [Chip.only, Chip.withTrail, Chip.bump, Chip.bumpN]

theorem forAll_digestMissed (rs : List DigRec) : (forAll rs c Chip.digestMissed).flt.digs = c.flt.digs ∧
    (forAll rs c Chip.digestMissed).reg pgFlt 0x121C = c.reg pgFlt 0x121C + BitVec.ofNat 32 rs.length ∧
    (forAll rs c Chip.digestMissed).ev.placed = c.ev.placed + rs.length ∧
    Chip.only [.regs, .ev, .snap, .flt] c (forAll rs c Chip.digestMissed) := by
  induction rs generalizing c with
  | nil => exact ⟨rfl, (BitVec.add_zero _).symm, rfl, Chip.only_rfl ..⟩
  | cons r rs ih =>
    obtain ⟨hd, hr, hp, ho⟩ := c.digestMissed_keeps r
    obtain ⟨hds, hrs, hps, hos⟩ := ih (c.digestMissed r)
    have hcons : forAll (r :: rs) c Chip.digestMissed = forAll rs (c.digestMissed r) Chip.digestMissed := by
      simp only [forAll, List.foldl_cons]
    rw [hcons, List.length_cons]
    refine ⟨hds.trans hd, ?_, by rw [hps, hp]; omega, Chip.only_trans ho hos⟩
    rw [hrs, hr, Nat.add_comm rs.length, BitVec.ofNat_add, BitVec.add_assoc]
    rfl

/-- A record has waited the window. -/
def DigRec.old (w now : Nat) (r : DigRec) : Bool := decide (r.since + max 1 w * 256000 ≤ now)

theorem Chip.digestTimeouts_eq : c.digestTimeouts =
    forAll (c.flt.digs.filter (DigRec.old (c.field pgFlt 0x1100 16 16) c.time.now))
      (c.withDigests (c.flt.digs.filter fun r => !r.old (c.field pgFlt 0x1100 16 16) c.time.now)) Chip.digestMissed := rfl

theorem Chip.digestTimeouts_none (h : ∀ r ∈ c.flt.digs, r.old (c.field pgFlt 0x1100 16 16) c.time.now = false) :
    c.digestTimeouts = c := by
  rw [c.digestTimeouts_eq, List.filter_eq_nil_iff.2 fun r hr => Bool.eq_false_iff.1 (h r hr),
    List.filter_eq_self.2 fun r hr => by rw [h r hr]; rfl]
  rfl
end

theorem exec_digestUnmatchedTimeout {s : State} (hup : s.chip.mainUp = true) :
    exec .digestUnmatchedTimeout s = .next (s.after s.chip.digestTimeouts) :=
  exec_gated (fun c => c.mainUp) (fun c => c.digestTimeouts) rfl hup rfl

/-! Trailer mode (R421) -/

section
variable (c : Chip) (st : W32)

/-- The part once a step counts as judged. -/
def Chip.stepJudged (c : Chip) (st : W32) : Chip :=
  { c.setTrail st TrailStep.none with flt := { (c.setTrail st TrailStep.none).flt with trailJudged := some st } }

/-- A record of the step was missing, mismatched or lost, or waits still. -/
def Chip.unclean (c : Chip) (st : W32) : Prop :=
  (c.trailOf st).dirty = true ∨ ∃ r ∈ c.flt.digs, dgLiv r.word = c.refLiv ∧ dgStep r.word = st

/-- CLEAN after one clean step more. -/
def Chip.cleanNext (c : Chip) : Nat := (c.field pgFlt 0x110C 16 16 + 1) % 65536

/-- The part with CLEAN counted on. -/
def Chip.cleanCounted (c : Chip) (st : W32) : Chip := (c.stepJudged st).setField pgFlt 0x110C 16 16 (c.stepJudged st).cleanNext

theorem Chip.stepJudged_cleanNext : (c.stepJudged st).cleanNext = c.cleanNext := by
  have hreg : (c.stepJudged st).reg pgFlt 0x110C = c.reg pgFlt 0x110C := rfl
  rw [Chip.cleanNext, Chip.field, hreg, ← Chip.field, ← Chip.cleanNext]

theorem Chip.unclean_iff : ((c.trailOf st).dirty ||
    c.flt.digs.any (fun r => decide (dgLiv r.word = c.refLiv ∧ dgStep r.word = st))) = true ↔ c.unclean st := by
  rw [Bool.or_eq_true, List.any_eq_true]
  simp only [decide_eq_true_iff]
  rfl

theorem Chip.judgeStep_unclean (h : c.unclean st) : c.judgeStep st =
    ((c.stepJudged st).setField pgFlt 0x110C 16 16 0).raise (evC pgFlt 0x0A03 dieM c.refLiv 0 st 0) :=
  if_pos ((c.unclean_iff st).2 h)

theorem Chip.cleanCounted_promoteAfter (st : W32) :
    (c.cleanCounted st).field pgFlt 0x1108 0 16 = c.field pgFlt 0x1108 0 16 := by
  unfold Chip.cleanCounted Chip.field Chip.setField
  rw [Chip.reg_setReg_off _ (by decide) (by decide) (by decide)]
  rfl

theorem Chip.cleanCounted_refLiv : (c.cleanCounted st).refLiv = c.refLiv := by
  unfold Chip.cleanCounted Chip.refLiv Chip.field Chip.setField
  rw [Chip.reg_setReg_off _ (by decide) (by decide) (by decide)]
  rfl

theorem Chip.judgeStep_clean (h : ¬ c.unclean st) : c.judgeStep st =
    if c.cleanNext = max 1 (c.field pgFlt 0x1108 0 16) then
      let d := ((c.cleanCounted st).setFlag pgFlt 0x110C 1 true).raise (evV pgFlt 0x0A04 dieM c.refLiv)
      if d.flag pgFlt 0x1100 2 then { d with flt := { d.flt with promoteDue := some (st + 3) } } else d
    else c.cleanCounted st := by
  rw [← c.cleanCounted_promoteAfter st, ← c.stepJudged_cleanNext st, ← c.cleanCounted_refLiv st]
  unfold Chip.cleanCounted Chip.cleanNext
  exact if_neg (mt (c.unclean_iff st).1 h)
end

/-- What the part keeps and shows once a step is judged. -/
structure Chip.Judged (a b : Chip) (st : W32) : Prop where
  judged : b.flt.trailJudged = some st
  trail : b.trailOf st = TrailStep.none
  digs : b.flt.digs = a.flt.digs
  only : Chip.only [.regs, .ev, .snap, .flt] a b

section
variable {c d : Chip} {st : W32}

theorem Chip.stepJudged_judged (c : Chip) (st : W32) : c.Judged (c.stepJudged st) st :=
  ⟨rfl, Tbl.get_set_same .., rfl, by simp [Chip.only, Chip.stepJudged, Chip.setTrail]⟩

theorem Chip.Judged.setReg (h : c.Judged d st) (page off inst : Nat) (v : W32) :
    c.Judged (d.setReg page off v inst) st :=
  ⟨h.judged, h.trail, h.digs, Chip.only_trans h.only (by simp [Chip.only])⟩

theorem Chip.Judged.raise (h : c.Judged d st) (e : Ev) : c.Judged (d.raise e) st := by
  obtain ⟨r, x, y, hr⟩ := d.raise_rest e
  rw [hr]
  exact ⟨h.judged, h.trail, h.digs, Chip.only_trans h.only (by simp [Chip.only])⟩

theorem Chip.Judged.settle (h : c.Judged d st) (b : Chip) : c.Judged (Chip.settleAlerts b d) st :=
  ⟨h.judged, h.trail, h.digs, Chip.only_settleAlerts h.only⟩
end

section
variable (c : Chip) (st : W32)

theorem Chip.judgeStep_soiled (h : c.unclean st) : c.Judged (c.judgeStep st) st ∧
    (c.judgeStep st).field pgFlt 0x110C 16 16 = 0 ∧
    Chip.raised c (c.judgeStep st) (evC pgFlt 0x0A03 30 c.refLiv 0 st 0) := by
  rw [c.judgeStep_unclean st h]
  refine ⟨((c.stepJudged_judged st).setReg ..).raise _, ?_, Chip.raise_raised ((c.stepJudged st).setField pgFlt 0x110C 16 16 0) _⟩
  rw [Chip.field, Chip.raise_reg_off _ _ (by decide) (by decide), ← Chip.field, Chip.field_setField _ _ _ _ _ _ _ (by decide)]
  rfl

theorem Chip.cleanCounted_clean : c.Judged (c.cleanCounted st) st ∧
    (c.cleanCounted st).field pgFlt 0x110C 16 16 = c.cleanNext := by
  refine ⟨(c.stepJudged_judged st).setReg .., ?_⟩
  rw [Chip.cleanCounted, Chip.field_setField _ _ _ _ _ _ _ (by decide), Chip.stepJudged_cleanNext]
  exact Nat.mod_mod _ _

/-- The part with READY set and its event raised. -/
def Chip.trailReady (c : Chip) (st : W32) : Chip :=
  ((c.cleanCounted st).setFlag pgFlt 0x110C 1 true).raise (evV pgFlt 0x0A04 dieM c.refLiv)

theorem Chip.trailReady_promoted : c.Judged (c.trailReady st) st ∧
    (c.trailReady st).field pgFlt 0x110C 16 16 = c.cleanNext ∧ (c.trailReady st).flag pgFlt 0x110C 1 = true ∧
    Chip.raised c (c.trailReady st) (evV pgFlt 0x0A04 30 c.refLiv) ∧
    (c.trailReady st).flag pgFlt 0x1100 2 = c.flag pgFlt 0x1100 2 ∧
    (c.trailReady st).flt.promoteDue = c.flt.promoteDue := by
  obtain ⟨hj, hn⟩ := c.cleanCounted_clean st
  have hreg : ∀ off, off < 0x10000 → off ∉ evOffs → (c.trailReady st).reg pgFlt off =
      ((c.cleanCounted st).setFlag pgFlt 0x110C 1 true).reg pgFlt off := fun off ho he => Chip.raise_reg_off _ _ ho he
  refine ⟨(hj.setReg ..).raise _, ?_, ?_, Chip.raise_raised ((c.cleanCounted st).setFlag pgFlt 0x110C 1 true) _, ?_, ?_⟩
  · rw [Chip.field, hreg 0x110C (by decide) (by decide), ← Chip.field, Chip.setFlag,
      Chip.field_setField_other _ _ _ _ _ _ _ _ _ (.inr (by decide)), hn]
  · rw [Chip.flag, hreg 0x110C (by decide) (by decide), ← Chip.flag, Chip.flag_setFlag _ _ _ _ _ _ (by decide)]
  · rw [Chip.flag, hreg 0x1100 (by decide) (by decide), Chip.reg_setFlag_other _ _ _ (regKey_ne_of_off (by decide) (by decide) (by decide)),
      Chip.cleanCounted, Chip.setField, Chip.reg_setReg_off _ (by decide) (by decide) (by decide)]
    rfl
  · obtain ⟨r, x, y, hr⟩ := ((c.cleanCounted st).setFlag pgFlt 0x110C 1 true).raise_rest (evV pgFlt 0x0A04 dieM c.refLiv)
    rw [Chip.trailReady, hr]
    rfl

theorem Chip.judgeStep_counts (h : ¬ c.unclean st) (hd : c.cleanNext ≠ max 1 (c.field pgFlt 0x1108 0 16)) :
    c.judgeStep st = c.cleanCounted st := by
  rw [c.judgeStep_clean st h, if_neg hd]

/-- A step that reaches PROMOTE_AFTER fixes the promotion where AUTO_PROMOTE is set. -/
theorem Chip.judgeStep_ready (h : ¬ c.unclean st) (hd : c.cleanNext = max 1 (c.field pgFlt 0x1108 0 16)) :
    c.judgeStep st = { c.trailReady st with flt := { (c.trailReady st).flt with
      promoteDue := if c.flag pgFlt 0x1100 2 then some (st + 3) else c.flt.promoteDue } } := by
  obtain ⟨-, -, -, -, hauto, hdue⟩ := c.trailReady_promoted st
  rw [c.judgeStep_clean st h, if_pos hd]
  show (if (c.trailReady st).flag pgFlt 0x1100 2 = true then { c.trailReady st with flt := { (c.trailReady st).flt with
    promoteDue := some (st + 3) } } else c.trailReady st) = _
  rw [hauto]
  split
  · rfl
  · rw [← hdue]
end

/-- Promotion, at or past the step fixed for it. -/
def Chip.promoted (c : Chip) (from_ : Nat) : Chip :=
  { c.setField pgFlt 0x1100 0 2 (if c.flag pgFlt 0x1100 3 then 1 else 0) with
    flt := { c.flt with promoteDue := none, suppressUntil := some from_ } }

section
variable (c : Chip)

theorem Chip.trailerCheck_idle (h : c.field pgFlt 0x1100 0 2 ≠ 2 ∨ c.ttEnabled c.refLiv = false ∨
    c.flt.trailJudged = some (c.currentStep c.refLiv - 2)) : c.trailerCheck = c := by
  refine if_neg ?_
  rintro ⟨hm, ht, hj⟩
  obtain h | h | h := h
  · exact h ((pairMode_eq_iff c (by decide) (by decide)).1 hm)
  · exact absurd (ht.symm.trans h) (by decide)
  · exact hj h

theorem Chip.trailerCheck_judges (hm : c.field pgFlt 0x1100 0 2 = 2) (ht : c.ttEnabled c.refLiv = true)
    (hj : c.flt.trailJudged ≠ some (c.currentStep c.refLiv - 2)) :
    c.trailerCheck = c.judgeStep (c.currentStep c.refLiv - 2) :=
  if_pos ⟨(pairMode_eq_iff c (by decide) (by decide)).2 hm, ht, hj⟩

theorem Chip.trailerPromote_unfixed (h : c.flt.promoteDue = none ∨ c.field pgFlt 0x1100 0 2 ≠ 2) :
    c.trailerPromote = c := by
  unfold Chip.trailerPromote
  split
  · next hd hm =>
      obtain h | h := h
      · rw [h] at hd
        cases hd
      · exact absurd ((pairMode_eq_iff c (by decide) (by decide)).1 hm) h
  · rfl

section
variable {due : W32} (hd : c.flt.promoteDue = some due) (hm : c.field pgFlt 0x1100 0 2 = 2)
include hd hm

/-- The time from which the steps before the promotion stay suppressed. -/
def Chip.promoteFrom (c : Chip) (due : W32) : Nat :=
  match c.governs c.refLiv due with | some (_, t, _) => t.toNat | none => c.time.now

theorem Chip.trailerPromote_fixed : c.trailerPromote =
    if 0 ≤ (c.currentStep c.refLiv - due).toInt then c.promoted (c.promoteFrom due) else c := by
  rw [← stepDiff_eq_toInt, Chip.trailerPromote, hd, (pairMode_eq_iff c (by decide) (by decide)).2 hm]
  rfl
end
end

section
variable {s : State} (hup : s.chip.mainUp = true)
include hup

theorem exec_trailerStepCheck : exec .trailerStepCheck s = s.run fun _ => s.chip.trailerCheck := by
  rw [exec, execTrailerStepCheck, State.run_eq_after, State.run_eq_after, if_pos hup]

theorem exec_trailerModeChange : exec .trailerModeChange s = s.run fun _ => s.chip.trailerPromote := by
  rw [exec, execTrailerModeChange, State.run_eq_after, State.run_eq_after, if_pos hup]
end

theorem Chip.pairPort_none {c : Chip} (h : c.flag pgFlt 0x1104 31 = false) : c.pairPort = none :=
  if_neg (by rw [h]; exact Bool.false_ne_true)

/-- Settles O26: a batch and the outcomes of sending it (`digestSend_*`), a record and its match (`digAdd_*`), the records
left unmatched one by one (`forAll_digestMissed`), and a step of trailer mode by its two verdicts (`judgeStep_*`). -/
theorem digestsAreComparedAndTrailerStepsJudged : Obligations.DigestsAreComparedAndTrailerStepsJudged := by
  unfold Obligations.DigestsAreComparedAndTrailerStepsJudged
  refine ⟨⟨?_, fun s l h => exec_digestBatchSend_unpaired (Chip.pairPort_none h), ?_, ?_, ?_⟩, ?_⟩
  · intro s l q hup hq c b sent due
    have he := exec_digestBatchSend (l := l) hup
    have hdue : due ↔ batchDue c.time.now b = true := batchDue_iff.symm
    refine ⟨fun h => he.trans (State.run_eq_self (c.digestSend_waits hq (mt hdue.2 h))), fun h hl hp => ?_, fun h hl hp => ?_⟩
    · rw [he, State.run_eq_after, c.digestSend_due hq (hdue.1 h) hl, if_neg (by rw [hp]; decide), Chip.digestBody_length,
        Nat.add_comm (32 * _)]
      rfl
    · have hdrop : c.digestSend l.toNat = sent.bump pgRte 0x1804 := by
        rw [c.digestSend_due hq (hdue.1 h) hl, if_pos (by rw [hp]; rfl)]
        rfl
      exact exec_eq_put (f := fun _ => c.digestSend l.toNat) he hdrop
        (Chip.smbStatusWord_setReg_off (by decide) (by decide) (by decide) _)
  · intro s p f age hh hc h7 hp hq h0 h3 h
    exact exec_digestRecordsRx hh hc h7 hp hq (pairMode_ne_zero _ h0 h3)
  · intro c w own meets agree
    refine ⟨fun h hroom => Chip.digAdd_waits h hroom, fun h hfull => Chip.digAdd_lost h hfull, fun pre r post hd hr hp => ?_⟩
    by_cases ha : r.agrees w
    · obtain ⟨hdigs, hcount, hev, hregs⟩ := Chip.digAdd_agrees hd hr hp ha
      exact ⟨hdigs, fun _ => ⟨hcount, hev, hregs⟩, fun hn => absurd ha hn⟩
    · obtain ⟨hdigs, hcount, hmatch, hraised, hflag, hkept, hcapt⟩ := Chip.digAdd_differs hd hr hp ha
      refine ⟨hdigs, fun hn => absurd hn ha, fun _ => ⟨hcount, hmatch, hraised, hflag, fun h => ?_, hcapt⟩⟩
      exact ⟨hkept h _ (by decide), hkept h _ (by decide), hkept h _ (by decide)⟩
  · intro s hup c old
    have he := exec_digestUnmatchedTimeout hup
    refine ⟨fun h => ?_, yields_after he ?_⟩
    · rw [he, c.digestTimeouts_none h]
      exact congrArg Host.Outcome.next (State.after_of_status rfl)
    · obtain ⟨hdigs, hcount, hplaced, honly⟩ := forAll_digestMissed
        (c.withDigests (c.flt.digs.filter fun r => !r.old (c.field pgFlt 0x1100 16 16) c.time.now))
        (c.flt.digs.filter (DigRec.old (c.field pgFlt 0x1100 16 16) c.time.now))
      rw [← c.digestTimeouts_eq] at hdigs hcount hplaced honly
      have hfirst : Chip.only [.regs, .ev, .snap, .flt] c
          (c.withDigests (c.flt.digs.filter fun r => !r.old (c.field pgFlt 0x1100 16 16) c.time.now)) := by
        simp [Chip.only, Chip.withDigests]
      rw [Chip.settleAlerts_flt, Chip.settleAlerts_reg, Chip.settleAlerts_ev]
      exact ⟨hdigs, hcount, hplaced, Chip.only_settleAlerts (Chip.only_trans hfirst honly)⟩
  · intro s hup c l st unclean n due
    have he := exec_trailerStepCheck hup
    have hm := exec_trailerModeChange hup
    refine ⟨fun h => he.trans (State.run_eq_self (c.trailerCheck_idle h)), fun h2 ht hj => ?_,
      fun h => hm.trans (State.run_eq_self (c.trailerPromote_unfixed h)), fun d hd h2 => ⟨fun hneg => ?_, fun hpos => ?_⟩⟩
    · refine yields_after (he.trans (State.run_eq_after s fun _ => c.trailerCheck)) ?_
      rw [show c.trailerCheck = c.judgeStep st from c.trailerCheck_judges h2 ht hj]
      by_cases hu : unclean
      · obtain ⟨hjudged, hclean, hraised⟩ := c.judgeStep_soiled st hu
        obtain ⟨h1, h2, h3, h4⟩ := hjudged.settle s.chip
        refine ⟨h1, h2, h3, fun _ => ⟨?_, Chip.raised_settleAlerts hraised⟩, fun h => absurd hu h, fun h => absurd hu h,
          fun h => absurd hu h, h4⟩
        rw [Chip.settleAlerts_field]
        exact hclean
      · by_cases hd : due
        · obtain ⟨hjudged, hclean, hready, hraised, -⟩ := c.trailReady_promoted st
          obtain ⟨h1, h2, h3, h4⟩ := hjudged.settle s.chip
          rw [c.judgeStep_ready st hu hd]
          refine ⟨h1, h2, h3, fun h => absurd h hu, fun _ => ?_, fun _ h => absurd hd h, fun _ _ => ⟨?_,
            Chip.raised_settleAlerts hraised, rfl⟩, ?_⟩
          · exact hclean
          · exact hready
          · exact Chip.only_trans h4 (by simp [Chip.only])
        · obtain ⟨hjudged, hclean⟩ := c.cleanCounted_clean st
          obtain ⟨h1, h2, h3, h4⟩ := hjudged.settle s.chip
          rw [c.judgeStep_counts st hu hd]
          exact ⟨h1, h2, h3, fun h => absurd h hu, fun _ => hclean, fun _ _ => ⟨rfl, rfl⟩, fun _ h => absurd h hd, h4⟩
    · exact hm.trans (State.run_eq_self ((c.trailerPromote_fixed hd h2).trans (if_neg (Int.not_le.2 hneg))))
    · refine ⟨c.promoteFrom d, fun b t cy hg => ?_, ?_⟩
      · rw [Chip.promoteFrom, show c.governs c.refLiv d = some (b, t, cy) from hg]
      · exact exec_eq_put (f := fun _ => c.trailerPromote) hm
          ((c.trailerPromote_fixed hd h2).trans (if_pos hpos))
          (Chip.smbStatusWord_setField_off (by decide) (by decide) (by decide) _ _ _)

end Sys2Proof.Machine
end


section
/-! Cells of a buffer die that the part does not have, as a die fails (R379, R417): states that no command brings about, and
that the statements on failed dies and on failed rails do not leave out. -/

namespace Sys2Proof.Machine

/-! A port die that fails (R417) -/

/-- Ports 0 and 4 are enabled. Port 0 holds a frame that clears EN of port 4, which holds a frame without cells. -/
def failingPart : Chip :=
  ((alignedPart.setFlag (pgPrt 0) (prtCfgOff 1) 4 true).withWildFrame (regKey (pgPrt 0) (prtCfgOff 1) 0) 4).setEgress 4
    { Egress.empty with ctl := [Msg.made 0 [] 0 none] }

theorem failingPart_up : failingPart.mainUp = true ∧ failingPart.dieFailed 0 = false ∧ failingPart.enabled 4 = true := by
  decide +kernel

theorem failingPart_dieFail : ((failingPart.dieFail 0).egress 4).queued ≠ [] := by decide +kernel

/-- What the statement says of the queues of port 4 as its die fails. -/
theorem dieFail_empties {c : Chip} (h : Obligations.DiesFail) (hup : c.mainUp = true) (hd : c.dieFailed 0 = false)
    (he : c.enabled 4 = true) : ((c.dieFail 0).egress 4).queued = [] := by
  obtain ⟨_, _, _, hfails⟩ := h ⟨c, []⟩ 0 hup
  obtain ⟨t, ht, _, _, _, _, _, hports, _⟩ := hfails hd (by decide)
  obtain ⟨hqueues, _⟩ := hports (by decide)
  obtain ⟨hqueued, _⟩ := hqueues 4 (by decide) (by decide) he
  rw [run_eq (f := fun c => if c.mainUp then c.dieFail 0 else c) ht, Chip.settleAlerts_egress, if_pos hup] at hqueued
  exact hqueued

/-- Refutes O25, in its clause that the failure of a port die empties the queues of its enabled ports: its ports go down one
after another, the frames of one release their cells whatever their numbers, and to wake the bank of `wildCell` the release
clears EN of a port whose turn has not come. The counterexample is `failingPart`; no pool has such a cell
(`wildBank_flag`), so no command gives one to a frame. -/
theorem not_diesFail : ¬ Obligations.DiesFail := fun h => by
  obtain ⟨hup, hd, he⟩ := failingPart_up
  exact failingPart_dieFail (dieFail_empties h hup hd he)

/-! A rail that fails (R379) -/

/-- Rail 8, of port die 0, is on, and port 0 holds a frame that clears the rail's fault bit. -/
def faultyPart : Chip :=
  (alignedPart.withWildFrame (regKey pgPwr 0x1030 8) 11).setRail 8 { RailSt.off with on := true }

theorem faultyPart_up : faultyPart.v0Up = true ∧ (faultyPart.rail 8).on = true := by decide +kernel

/-- A fault of a rail, as RAIL_FAULT runs it while the rail is on. -/
def Chip.railFails (c : Chip) (r : Nat) : Chip :=
  (forAll (railsOf (dieOfRail r)) ((c.raise (evP pgPwr 0x0904 dieV r)).setFlag pgPwr 0x1030 11 true r)
    (fun x c => c.removeRail x)).dieFail (dieOfRail r)

theorem faultyPart_railFails : (faultyPart.railFails 8).flag pgPwr 0x1030 11 8 = false := by decide +kernel

/-- What the statement says of the fault bit of rail 8 as the rail fails. -/
theorem railFails_flag {c : Chip} (h : Obligations.RailsSlewAndLimitTheirCurrents) (hup : c.v0Up = true)
    (hon : (c.rail 8).on = true) : (c.railFails 8).flag pgPwr 0x1030 11 8 = true := by
  obtain ⟨⟨_, hrails⟩, _⟩ := h
  obtain ⟨_, _, _, hfails⟩ := hrails ⟨c, []⟩ 8 hup
  obtain ⟨he, t, ht, _, _, hflag, _⟩ := hfails hon
  rw [he] at ht
  cases ht
  exact hflag

/-- Refutes O18, in its clause that a fault of a rail sets its fault bit: the bit is set before the rail's die fails, the
frames of the die's ports release their cells whatever their numbers, and to wake the bank of `wildCell` the release clears
the bit. The counterexample is `faultyPart`; no pool has such a cell (`wildBank_flag`), so no command gives one to a
frame. -/
theorem not_railsSlewAndLimitTheirCurrents : ¬ Obligations.RailsSlewAndLimitTheirCurrents := fun h => by
  obtain ⟨hup, hon⟩ := faultyPart_up
  have hflag := railFails_flag h hup hon
  rw [faultyPart_railFails] at hflag
  exact absurd hflag (by decide)

end Sys2Proof.Machine
end
